-- ==== Sys2Proof/Word.lean ====
section
/-! DEFINITION. The words of the IMY-9648's register pages (R514, R558: aligned 32-bit accesses) and bytes of its memories. -/

namespace Sys2Proof

/-- A register word: register accesses are aligned 32-bit accesses (R514, R558). -/
abbrev Word := BitVec 32

/-- A byte of SRAM, of the NV store, of engine memory or of a frame. -/
abbrev Byte := BitVec 8

/-- A binary64 value, as the sounding accumulators hold it (R125), or a Datum or RTC time word (R353, R503). -/
abbrev DWord := BitVec 64

end Sys2Proof
end

