-- ==== Sys2Proof/Syntax.lean ====
section
/-! DEFINITION. The commands of the block: one constructor per row of spec/opcode_table.json, with the operands the
command needs: which unit it acts on, the bus master and the value of a write, and what the outside world supplies
(converter codes, pin levels, received cells and frames, measured results). -/

namespace Sys2Proof

/-- A bus master, by the numbers of R528 and R408. -/
inductive Master where
  | hart (h : Fin 4)
  | debug
  | update
  | pair
  | plumb
deriving DecidableEq, Repr

/-- The power domains of R473, in the bit order of PD_STAT. -/
inductive PDom where
  | core
  | eng
  | pwm
  | adc
  | mtr
  | ring
  | eth
  | reg
  | nvm
  | dbg
  | plumb
  | valley
deriving DecidableEq, Repr

/-- Why a ring receiver's link is declared down (R322): sync lost, code errors counted within 10 us, RFAULT. -/
inductive DownCause where
  | sync
  | errors (n : Nat)
  | rfault
deriving DecidableEq, Repr

/-- How a module answers a management transaction (R325). -/
inductive SfpAnswer where
  | nack
  | timeout
  | data (bytes : List Byte)
deriving DecidableEq, Repr

/-- The select field of an AVSBus frame, and whether the frame's CRC is bad (R280). -/
structure AvsFrame where
  sel : Fin 16
  badCrc : Bool
deriving DecidableEq, Repr

/-- The commands (the rows of spec/opcode_table.json, in its order). -/
inductive Instr where
  /-- BOUNDARY (R12). A period of a commit domain ends and the next begins at its boundary tick. -/
  | boundary (d : Fin 24)
  /-- SHADOW_WRITE (R16). A write to a shadowed field changes only the shadow and opens its commit group. -/
  | shadowWrite (m : Master) (a : Nat) (v : Word)
  /-- ARM (R18). Writing COMMIT.ARM arms a commit group for its next boundary. -/
  | arm (m : Master) (page : BitVec 12) (groups : Byte)
  /-- DISCARD (R18). Writing COMMIT.DISCARD returns a group's shadow to the values in force and clears open and armed state. -/
  | discard (m : Master) (page : BitVec 12) (groups : Byte)
  /-- CONVERTER_GROUP_COMMIT (R52). An ADC group whose domain has no boundaries commits at the first CLK_PWM tick at least 16 ns after the arm. -/
  | converterGroupCommit (n : Fin 32)
  /-- PASS_START (R68). An enabled lane starts a pass 24 ns after a boundary of its domain, clearing registers and latching ports. -/
  | passStart (n : Fin 32)
  /-- PASS_END (R89). A pass reaches cycle E within its window, arms the groups it opened and raises PASS, or is discarded. -/
  | passEnd (n : Fin 32)
  /-- PASS_OVERRUN (R89). Cycle W passes before the pass has ended, so the lane stops issuing and discards the pass. -/
  | passOverrun (n : Fin 32)
  /-- DRAIN_COMPLETE (R90). The store buffer, mailbox writes, probe writes and EVT codes of a successful pass are applied. -/
  | drainComplete (n : Fin 32)
  /-- SLOT_END (R39). An integration slot of a converter ends and its SAR core converts it. -/
  | slotEnd (n : Fin 32) (code : Int) (side : Fin 3) (err : Bool)
  /-- AVERAGE_DELIVERED (R44). The period average and its set for a closed window are delivered to the engine and the page. -/
  | averageDelivered (n : Fin 32)
  /-- BLOCK_END (R53). An unbound converter completes a block of NSLOT full slots and delivers its average. -/
  | blockEnd (n : Fin 32)
  /-- AVG_READ (R45). A read of ADCn.AVG captures the window's companion registers into the holding set. -/
  | avgRead (m : Master) (n : Fin 32)
  /-- REGULAR_TRIGGER (R56). The selected regular trigger starts the regular sequence of a sequenced converter. -/
  | regularTrigger (n : Fin 32)
  /-- URGENT_TRIGGER (R57). An urgent trigger aborts the regular entry and starts the injected sequence. -/
  | urgentTrigger (n : Fin 32)
  /-- ENTRY_END (R55). A sequenced entry's aperture ends and its result is stored. -/
  | entryEnd (n : Fin 32) (code : Int) (side : Fin 3)
  /-- SW_START (R66). Writing SEQ_CTL.SW_START acts as a software regular trigger. -/
  | swStart (m : Master) (n : Fin 32)
  /-- CONVERTER_READY (R60). A converter switched on from off becomes ready, sets READY and raises READY. -/
  | converterReady (n : Fin 32)
  /-- LP_SETTLED (R54). The front end settles after a change of CFG.LP. -/
  | lpSettled (n : Fin 32)
  /-- RESULT_READ (R66). A read of a sequenced result register clears its NEW bit. -/
  | resultRead (m : Master) (n : Fin 32) (j : Fin 20)
  /-- LANE_ENABLE (R69). Writing CTRL.EN = 1 makes a lane idle, or is ignored with WREF if its bank holds no program. -/
  | laneEnable (m : Master) (n : Fin 32)
  /-- LANE_DISABLE (R69). Writing CTRL.EN = 0 disables a lane after any running pass and leaves the fault state. -/
  | laneDisable (m : Master) (n : Fin 32)
  /-- SWAP (R98). Writing CTRL.SWAP starts verification of the lane's inactive bank. -/
  | swap (m : Master) (n : Fin 32)
  /-- BANK_VERIFIED (R97). The shared verifier finishes checking a lane's inactive bank. -/
  | bankVerified (n : Fin 32)
  /-- SWAP_ALL (R99). Writing ENGC.CTRL.SWAP_ALL requests a global swap of every lane. -/
  | swapAll (m : Master) (mode : Bool)
  /-- GLOBAL_VERIFIED (R99). The shared verifier finishes checking every inactive bank of a global swap. -/
  | globalVerified
  /-- CANCEL (R100). Writing ENGC.CTRL.CANCEL withdraws a pending swap. -/
  | cancel (m : Master) (mode : Bool)
  /-- TILE_TYPE_WRITE (R73). A write of a tile type changes it, recomputing the check for a new state tile, or is ignored. -/
  | tileTypeWrite (m : Master) (j : Fin 16) (v : Word)
  /-- ENGINE_MEMORY_WRITE (R75). A bus write to engine memory is applied, held or ignored according to the tile's mapping. -/
  | engineMemoryWrite (m : Master) (a : Nat) (ws : List Word)
  /-- TILE_VERIFY (R107). Writing VERIFY.GO starts a single-tile check. -/
  | tileVerify (m : Master) (tile : Byte)
  /-- TILE_VERIFY_DONE (R107). A single-tile check ends and reports PASS or FAIL with VCHECK. -/
  | tileVerifyDone
  /-- GENERATOR_START (R123). Writing GCTL.START moves a sounding generator to waiting, or is refused. -/
  | generatorStart (m : Master) (g : Fin 8)
  /-- GENERATOR_STOP (R124). Writing GCTL.STOP aborts a running sounding generator. -/
  | generatorStop (m : Master) (g : Fin 8)
  /-- CAP_DATA_READ (R128). A read of SND.CAP_DATA returns the capture word and advances CAP_ADDR. -/
  | capDataRead (m : Master)
  /-- IACC_LO_READ (R128). A read of an accumulator's low half captures its high half. -/
  | iaccLoRead (m : Master) (g : Fin 8) (j : Fin 8)
  /-- LEG_DOMAIN_WRITE (R132). A write of LEGi_CFG.CDOM moves an off leg to a new domain, or is ignored. -/
  | legDomainWrite (m : Master) (l : Fin 96) (v : Word)
  /-- EDGE (R138). A commanded output edge of a leg falls due at its position in the period. -/
  | edge (l : Fin 96) (outB : Bool)
  /-- CALIBRATION_DONE (R145). Measurement of the out-of-service delay-line twin ends, with a mapping or a failure. -/
  | calibrationDone (l : Fin 96) (taps : Nat)
  /-- TWIN_CHANGE (R145). A freshly calibrated twin is placed in service in a tick without edges. -/
  | twinChange (l : Fin 96)
  /-- CALIBRATION_EXPIRY (R146). No twin holds a calibration younger than 4 × 65,536 ticks, so VALID falls. -/
  | calibrationExpiry (l : Fin 96)
  /-- LOCK_REQ (R148). Writing DOMj_CTRL.LOCK_REQ = 1 requests a Datum lock, or is refused. -/
  | lockReq (m : Master) (d : Fin 24) (stretch : Bool) (slew : BitVec 8)
  /-- LOCK_REQ_CLEAR (R148). Writing LOCK_REQ = 0 returns the domain to free at once. -/
  | lockReqClear (m : Master) (d : Fin 24) (stretch : Bool) (slew : BitVec 8)
  /-- DARM (R153). Writing DARM.ARM arms a group for the boundary of the next Datum cycle boundary. -/
  | darm (m : Master) (n : Fin 12) (v : BitVec 16)
  /-- SAFE_STATE_SET (R164). Writing SSs_CTL.SET latches a safe-state set. -/
  | safeStateSet (m : Master) (k : Fin 16)
  /-- SAFE_STATE_CLEAR (R167). Writing SSs_CTL.CLEAR clears a latched set, or is refused while a requester is active. -/
  | safeStateClear (m : Master) (k : Fin 16)
  /-- TRIP_PIN_CHANGE (R169). A TRIP_N pin sample changes level and feeds the filter. -/
  | tripPinChange (i : Fin 48) (active : Bool)
  /-- TRIP_ASSERT (R172). The filtered trip input becomes active and its reaction starts unless blanked. -/
  | tripAssert (i : Fin 48)
  /-- TRIP_RELEASE (R169). The filtered trip input becomes inactive. -/
  | tripRelease (i : Fin 48)
  /-- BLANKING_END (R171). A blanking window ends and an active filtered input starts its reaction. -/
  | blankingEnd (monitor : Bool) (i : Fin 96)
  /-- STUCK (R175). The filtered input has stayed active for STUCK × 10 µs and raises STUCK. -/
  | stuck (i : Fin 48)
  /-- HELD_CLEAR (R173). Writing TRt_STAT.HELD clears a hold-off reaction, or is refused while the input is active. -/
  | heldClear (m : Master) (i : Fin 48)
  /-- TRIP_ACTION_WRITE (R172). A write of ACTION while the input is active and unblanked starts the reaction. -/
  | tripActionWrite (m : Master) (i : Fin 48) (v : Word)
  /-- MONITOR_CROSSING (R179). A window monitor's input crosses a threshold and ABOVE or BELOW changes. -/
  | monitorCrossing (i : Fin 96) (before after : Int)
  /-- MONITOR_ENABLE (R180). A monitor is enabled or changes mode and begins settling. -/
  | monitorEnable (m : Master) (i : Fin 96) (v : Word)
  /-- MONITOR_SETTLED (R180). A monitor's settling time ends, setting READY. -/
  | monitorSettled (i : Fin 96)
  /-- LATCHED_CLEAR (R182). Writing 1 to MONi_STAT.LATCHED clears it in software mode. -/
  | latchedClear (m : Master) (i : Fin 96)
  /-- PHASE_ENABLE_WRITE (R186). A write of PHi_CFG.EN switches a direct phase while its leg is off, or is ignored. -/
  | phaseEnableWrite (m : Master) (p : Fin 16) (v : Word)
  /-- VDRV_UV (R187). VDRV of a group falls below 4.2 V and the group is held off. -/
  | vdrvUv (g : Fin 4)
  /-- VDRV_OK (R187). VDRV rises above 4.4 V and the undervoltage hold ends. -/
  | vdrvOk (g : Fin 4)
  /-- BST_UV (R187). A bootstrap voltage falls below 3.8 V and rising DRV_HO edges are suppressed. -/
  | bstUv (p : Fin 16)
  /-- BST_OK (R187). The bootstrap voltage rises above 4.1 V and the suppression ends. -/
  | bstOk (p : Fin 16)
  /-- DRV_BLANKING_END (R188). The short-circuit comparator blanking of a phase ends. -/
  | drvBlankingEnd (p : Fin 16)
  /-- SENSE_DETECTION (R188). A short-circuit or gross comparator detects on DRV_SNS. -/
  | senseDetection (p : Fin 16) (mv : Nat)
  /-- REG_EN_LOW (R190). REG_EN has been low for 1 µs and the group is held off. -/
  | regEnLow (g : Fin 4)
  /-- REG_EN_RISE (R190). A rising edge of REG_EN after a recognised low clears the group fault, or the clear is refused. -/
  | regEnRise (g : Fin 4)
  /-- GRID_CONNECT (R204). Writing GRIDg.CTL.CONNECT moves an OFF port to SYNC, or a TRIPPED port to WAIT_RS, or is refused. -/
  | gridConnect (m : Master) (g : Fin 4)
  /-- GRID_DISCONNECT (R219). Writing CTL.DISCONNECT returns the port to OFF with an open request. -/
  | gridDisconnect (m : Master) (g : Fin 4)
  /-- GRID_UPDATE (R205). The grid port updates its synchroniser, curves, references and state from the closed window. -/
  | gridUpdate (g : Fin 4)
  /-- CURVE_ENTRY_WRITE (R223). A write of a curve entry resets that entry's timer. -/
  | curveEntryWrite (m : Master) (g : Fin 4) (e : Fin 32) (ecfg : Bool) (v : Word)
  /-- ISL_ENABLE (R247). Writing ISL.CTL.ENABLE takes generator 7 and starts the islanding function, or is refused. -/
  | islEnable (m : Master)
  /-- ISL_DISABLE (R250). Writing CTL.DISABLE releases generator 7 and enters OFF, or is refused while a report stands. -/
  | islDisable (m : Master)
  /-- ISL_CLEAR (R244). Writing CTL.CLEAR clears a standing island report when the port allows it. -/
  | islClear (m : Master)
  /-- CODE_EPOCH (R235). A code epoch of Datum time ends the code period and starts its closing. -/
  | codeEpoch
  /-- PERIOD_CLOSED (R240). The correlations and estimates of a code period are complete. -/
  | periodClosed
  /-- UNSURE (R246). HOLD has lasted DATUM_TMO, setting UNSURE and possibly deciding. -/
  | unsure
  /-- AMP_DATA_ACCESS (R249). A read or write of AMP_DATA accesses an amplitude entry and advances AMP_ADDR. -/
  | ampDataAccess (m : Master) (w : Option Word)
  /-- TRACKER_ENABLE (R262). Writing Tt_CTL.ENABLE starts a tracker, or is refused. -/
  | trackerEnable (m : Master) (t : Fin 24)
  /-- TRACKER_DISABLE (R262). Writing Tt_CTL.DISABLE returns a tracker to OFF at once. -/
  | trackerDisable (m : Master) (t : Fin 24)
  /-- SWEEP_NOW (R260). Writing Tt_CTL.SWEEP_NOW requests a sweep at the tracker's next step end. -/
  | sweepNow (m : Master) (t : Fin 24)
  /-- SWEEP_DUE (R260). The sweep interval elapses and the scheduler picks the next eligible tracker. -/
  | sweepDue
  /-- STEP_END (R256). A tracker step ends and the tracker decides its next reference. -/
  | stepEnd (t : Fin 24)
  /-- SWP_P_READ (R264). A read of SWP_P returns a sweep point and advances SWP_ADDR. -/
  | swpPRead (m : Master)
  /-- RAIL_ENABLE (R269). Writing REGr.CTL.ENABLE starts a rail in SOFTSTART, or is refused. -/
  | railEnable (m : Master) (r : Fin 4)
  /-- RAIL_DISABLE (R284). Writing CTL.DISABLE stops a rail directly or through STOPPING. -/
  | railDisable (m : Master) (r : Fin 4)
  /-- RAIL_UPDATE (R271). The phase manager updates VREF, trims, phase count and state at a rail boundary. -/
  | railUpdate (r : Fin 4)
  /-- DWELL_EXPIRY (R274). A shed, add or diode-emulation dwell completes and the phase count or mode changes. -/
  | dwellExpiry (r : Fin 4)
  /-- HICCUP_RETRY (R284). OFF_TIME ends in HICCUP and the rail retries into SOFTSTART when allowed. -/
  | hiccupRetry (r : Fin 4)
  /-- SSTMO (R284). SOFTSTART has lasted SS_TMO and the rail faults. -/
  | sstmo (r : Fin 4)
  /-- CLEAN_TIME (R285). A rail has stayed in RUN for CLEAN_TIME and RETRIES returns to 0. -/
  | cleanTime (r : Fin 4)
  /-- VSET (R278). A write of VSET gives a software voltage command to the arbiter. -/
  | vset (m : Master) (r : Fin 4) (v : Word)
  /-- AVS_VOLTAGE_WRITE (R280). An AVSBus Voltage write, held or committed, gives a voltage command. -/
  | avsVoltageWrite (f : AvsFrame) (commit : Bool) (mv : BitVec 16)
  /-- AVS_VOLTAGE_READ (R280). An AVSBus Voltage read returns TARGET in mV. -/
  | avsVoltageRead (f : AvsFrame)
  /-- AVS_TRANSRATE_WRITE (R280). An AVSBus VoutTransRate write sets SLEW_UP and SLEW_DN. -/
  | avsTransrateWrite (f : AvsFrame) (commit : Bool) (up : BitVec 8) (dn : BitVec 8)
  /-- AVS_TRANSRATE_READ (R280). An AVSBus VoutTransRate read returns SLEW_UP. -/
  | avsTransrateRead (f : AvsFrame)
  /-- AVS_CURRENT_READ (R280). An AVSBus Current read returns IOUT. -/
  | avsCurrentRead (f : AvsFrame)
  /-- AVS_TEMPERATURE_READ (R280). An AVSBus Temperature read returns the last die temperature. -/
  | avsTemperatureRead (f : AvsFrame)
  /-- AVS_RESET_VOLTAGE (R280). An AVSBus Reset Voltage write makes VBOOT the target. -/
  | avsResetVoltage (f : AvsFrame) (commit : Bool)
  /-- AVS_STATUS_WRITE (R280). An AVSBus Status write clears the status alert. -/
  | avsStatusWrite (f : AvsFrame) (commit : Bool)
  /-- AVS_STATUS_READ (R280). An AVSBus Status read returns VDone, alert, PG and LATCHED. -/
  | avsStatusRead (f : AvsFrame)
  /-- AVS_INVALID_COMMAND (R280). An unsupported AVSBus type or direction is answered as an invalid command. -/
  | avsInvalidCommand (f : AvsFrame)
  /-- PAGE (R281). PMBus PAGE selects the rail. -/
  | page (addr : BitVec 7) (badPec : Bool) (v : Byte)
  /-- OPERATION (R281). PMBus OPERATION enables, disables or soft-disables the rail. -/
  | operation (addr : BitVec 7) (badPec : Bool) (v : Byte)
  /-- CLEAR_FAULTS (R281). PMBus CLEAR_FAULTS clears the page's EV_RAW and the alert. -/
  | clearFaults (addr : BitVec 7) (badPec : Bool)
  /-- VOUT_MODE (R281). PMBus VOUT_MODE returns LINEAR16 with EXP. -/
  | voutMode (addr : BitVec 7)
  /-- VOUT_COMMAND (R281). PMBus VOUT_COMMAND gives a voltage command. -/
  | voutCommand (addr : BitVec 7) (badPec : Bool) (v : BitVec 16)
  /-- STATUS_WORD (R281). PMBus STATUS_WORD returns OFF, PG and fault bits. -/
  | statusWord (addr : BitVec 7)
  /-- READ_VOUT (R281). PMBus READ_VOUT returns VOUT. -/
  | readVout (addr : BitVec 7)
  /-- READ_IOUT (R281). PMBus READ_IOUT returns IOUT in LINEAR11. -/
  | readIout (addr : BitVec 7)
  /-- PMBUS_REVISION (R281). PMBus PMBUS_REVISION returns 0x33. -/
  | pmbusRevision (addr : BitVec 7)
  /-- PMBUS_UNSUPPORTED (R281). A PMBus command code not supported is NACKed. -/
  | pmbusUnsupported (addr : BitVec 7) (code : Byte)
  /-- ALERT_RESPONSE (R281). The SMBus alert response releases PMB_ALERT_N. -/
  | alertResponse
  /-- RING_COMMAND (R282). A rail command message from its ring stream gives a command, enable or disable. -/
  | ringCommand (r : Fin 4)
  /-- CMD_LOST (R282). No ring command arrives for TMO and the rail raises CMD_LOST. -/
  | cmdLost (r : Fin 4)
  /-- CAPTURE (R288). Writing REG0.MON_CTL.CAPTURE triggers a monument capture. -/
  | capture (m : Master)
  /-- MONUMENT_WRITTEN (R290). The monument record write to the NV store completes and MONUMENT is raised. -/
  | monumentWritten
  /-- MTR_ENABLE (R314). Writing MTRp.CTL.ENABLE moves a port to SYNC, or is refused. -/
  | mtrEnable (m : Master) (p : Fin 4)
  /-- MTR_DISABLE (R314). Writing CTL.DISABLE closes the cycle in progress and returns the port to OFF. -/
  | mtrDisable (m : Master) (p : Fin 4)
  /-- PRESET (R308). Writing CTL.PRESET presets an accumulator at the next cycle close. -/
  | preset (m : Master) (p : Fin 4)
  /-- METER_SAMPLE (R295). A 25 µs metering sample of each channel ends. -/
  | meterSample (p : Fin 4) (nv : List Int) (cross : Option (BitVec 16))
  /-- CYCLE_CLOSE (R300). A grid cycle is closed with its quantities, energies and checks. -/
  | cycleClose (p : Fin 4)
  /-- NOSYNC (R299). 25 ms pass without an accepted crossing and the port enters FREE. -/
  | nosync (p : Fin 4)
  /-- PULSE_START (R309). A pending meter pulse starts when spacing allows. -/
  | pulseStart (p : Fin 4)
  /-- PULSE_END (R309). A meter pulse has lasted WIDTH ms and ends. -/
  | pulseEnd (p : Fin 4)
  /-- E_LO_READ (R307). A read of E_k_LO captures the accumulator's high bits. -/
  | eLoRead (m : Master) (p : Fin 4) (k : Fin 7)
  /-- CYC_CNT_READ (R316). A read of CYC_CNT captures the cycle record set. -/
  | cycCntRead (m : Master) (p : Fin 4)
  /-- SYNC_GAINED (R322). A ring receiver comes into sync after three clean ordered sets. -/
  | syncGained (r : Fin 2)
  /-- SYNC_LOST (R322). A ring receiver loses sync on code errors or a missing comma. -/
  | syncLost (r : Fin 2) (errs : Nat)
  /-- LINK_DOWN (R322). A receiver's link is declared down after FAULT_HOLD or too many errors, and RFAULT is sent. -/
  | linkDown (r : Fin 2) (c : DownCause)
  /-- LINK_UP (R322). A link has been clean for UNWRAP_HOLD and is up again. -/
  | linkUp (r : Fin 2)
  /-- UNWRAP (R339). An unwrap takes effect at the next gap between cells. -/
  | unwrap (r : Fin 2)
  /-- UNWRAP_NOW (R339). Writing CTL.UNWRAP_NOW requests an unwrap while in sync. -/
  | unwrapNow (m : Master) (r : Fin 2)
  /-- CELL_HEADER (R330). A cell header is received and the node strips, takes in or forwards the cell. -/
  | cellHeader (r : Fin 2) (hdr : List Byte)
  /-- CELL_END (R329). A cell ends at the receiver and is taken in unless poisoned. -/
  | cellEnd (r : Fin 2) (body : List Byte) (errs : Nat) (bad : Bool)
  /-- CELL_SEND (R332). The transmitter starts the next local cell by priority when free. -/
  | cellSend (r : Fin 2)
  /-- ACK_TIMER (R344). The 100 µs acknowledgement time ends and the receiver sends an ACK. -/
  | ackTimer (n : Fin 1024)
  /-- GAP_TMO (R344). E stays missing for RTO and the receive stream is declared broken. -/
  | gapTmo (n : Fin 1024)
  /-- RETRANSMIT (R344). The oldest unacknowledged cell outlives RTO and is sent again. -/
  | retransmit (n : Fin 1024)
  /-- OPEN_RESEND (R345). An opening send stream resends its OPEN cell after RTO. -/
  | openResend (n : Fin 1024)
  /-- STR_OPEN (R345). Writing STR_CTL.OPEN puts a stream in OPENING. -/
  | strOpen (m : Master)
  /-- STR_CLOSE (R345). Writing STR_CTL.CLOSE returns a stream to CLOSED and discards its cells. -/
  | strClose (m : Master)
  /-- STR_REOPEN (R345). Writing STR_CTL.REOPEN discards held cells and reopens the stream. -/
  | strReopen (m : Master)
  /-- PUT (R341). Software advances STR_PTR.PUT to hand a send slot to the stream. -/
  | put (m : Master) (v : BitVec 8)
  /-- GET (R341). Software advances STR_PTR.GET to free read receive slots. -/
  | get (m : Master) (v : BitVec 8)
  /-- RMEM_DATA_ACCESS (R350). An access of RMEM_DATA reaches ring memory and advances RMEM_ADDR. -/
  | rmemDataAccess (m : Master) (w : Option Word)
  /-- JOIN (R336). Writing CTL.JOIN opens the ford and sends a PROBE, or is refused. -/
  | join (m : Master) (r : Fin 2)
  /-- LEAVE (R336). Writing CTL.LEAVE ends the join and closes the ford. -/
  | leave (m : Master) (r : Fin 2)
  /-- FORD_SWITCH (R335). The transmitter switches between the ford and its own output in a gap between cells. -/
  | fordSwitch (r : Fin 2)
  /-- PROBE_FAIL (R337). A PROBE has not returned within 2 ms and the node leaves. -/
  | probeFail (r : Fin 2)
  /-- SFP_PRESENCE_POLL (R325). The 100 ms presence test of an SFP module runs and reads A0h on answer. -/
  | sfpPresencePoll (r : Fin 2) (ans : SfpAnswer)
  /-- SFP_DDM_POLL (R325). The diagnostics poll reads A2h bytes 96 to 117. -/
  | sfpDdmPoll (r : Fin 2) (ans : SfpAnswer)
  /-- RESCAN (R351). Writing SFP_CTL.RESCAN reads A0h again. -/
  | rescan (m : Master) (r : Fin 2) (ans : SfpAnswer)
  /-- SFP_DATA_READ (R351). A read of SFP_DATA returns a shadow byte and advances SFP_ADDR. -/
  | sfpDataRead (m : Master) (r : Fin 2)
  /-- DATUM_ENABLE (R367). Writing DATUM.CFG.EN starts Datum in ACQUIRE or returns it to OFF. -/
  | datumEnable (m : Master) (v : Word)
  /-- EXCHANGE_INTERVAL (R367). An exchange interval ends, foresights are sent and Datum state conditions are tested. -/
  | exchangeInterval
  /-- FORESIGHT_RECEIVED (R358). A foresight is taken in and answered with a backsight. -/
  | foresightReceived (r : Fin 2)
  /-- BACKSIGHT_RECEIVED (R361). A backsight is checked, and if accepted its offset feeds the servo. -/
  | backsightReceived (r : Fin 2)
  /-- ELECTION_TIMEOUT (R356). No valid Benchmark is advertised for ELECT_TMO and a candidate becomes Benchmark. -/
  | electionTimeout
  /-- DATUM_CYCLE_BOUNDARY (R354). Local Datum time reaches a Datum cycle boundary. -/
  | datumCycleBoundary
  /-- CYC_CHG (R355). Writing CTL.CYC_CHG advertises a cycle-length change, or is refused. -/
  | cycChg (m : Master)
  /-- SET_TIME (R357). Writing CTL.SET_TIME steps the Benchmark's Datum time forward. -/
  | setTime (m : Master)
  /-- RESYNC (R367). Writing CTL.RESYNC moves a tracking node to ACQUIRE. -/
  | resync (m : Master)
  /-- TIME_LO_READ (R378). A read of TIME_LO captures TIME_HI. -/
  | timeLoRead (m : Master)
  /-- SPO_REQUEST (R384). Writing SPO_CTL.REQ latches SPO with source APP. -/
  | spoRequest (m : Master)
  /-- SPO_RELEASE (R385). Writing SPO_CTL.RELEASE releases SPO, or is refused. -/
  | spoRelease (m : Master)
  /-- SAFE_IN_CHANGE (R388). A filtered safety-input channel changes state and the input is evaluated. -/
  | safeInChange (i : Fin 4) (chB : Bool) (on : Bool)
  /-- DISCREPANCY (R388). The two channels of an input disagree for longer than SIN_DISC.TIME. -/
  | discrepancy (i : Fin 4)
  /-- SCAN (R389). A scan-mask converter converts one channel or its reference and breaches are judged. -/
  | scan (c : Fin 2) (ch : Option (Fin 8)) (code : Int)
  /-- SOUT_CLOSE (R392). Writing SOUT_CTL.CLOSE requests a contactor close, granted under the conditions. -/
  | soutClose (m : Master) (n : Fin 4)
  /-- SOUT_OPEN (R392). Writing SOUT_CTL.OPEN moves the output to OPEN. -/
  | soutOpen (m : Master) (n : Fin 4)
  /-- SOUT_CLR (R392). Writing SOUT_CTL.CLR returns FAULT to OPEN, or is refused. -/
  | soutClr (m : Master) (n : Fin 4)
  /-- TEST_NOW (R395). Writing SOUT_CTL.TEST_NOW starts a dark test at once. -/
  | testNow (m : Master) (n : Fin 4)
  /-- CLOSE_TIMEOUT (R392). A closing output lacks confirmation within FB_TMO and enters FAULT. -/
  | closeTimeout (n : Fin 4)
  /-- SOUT_FEEDBACK_CHANGE (R392). The readback or mirror of an output changes and its state is judged. -/
  | soutFeedbackChange (n : Fin 4) (rb : Bool)
  /-- TEST_DUE (R395). TP_INT elapses and a dark test pulse switches the output off. -/
  | testDue (n : Fin 4)
  /-- TEST_PULSE_END (R395). The test pulse ends and the output is re-energised. -/
  | testPulseEnd (n : Fin 4)
  /-- TEST_RECOVERY_END (R395). The recovery time ends and the dark test is judged. -/
  | testRecoveryEnd (n : Fin 4)
  /-- CLOCK_CHECK (R387). A 10 µs clock-monitor interval ends and each clock's edge count is judged. -/
  | clockCheck (pwm : Nat) (fab : Nat) (adc : Nat) (ring : Nat)
  /-- FREEZE (R387). A freeze at rank 5 reaches FRZ_CFG.LIM and demands SPO. -/
  | freeze
  /-- LOCKSTEP_MISMATCH (R382). The lockstep cores disagree, demanding SPO and restarting Plumb. -/
  | lockstepMismatch
  /-- PERIODIC_SELFTEST (R382). The 60-minute ROM and NV-area check runs. -/
  | periodicSelftest (ok : Bool)
  /-- SELFTEST_DONE (R410). Plumb's start-up self-test ends and the START source becomes inactive. -/
  | selftestDone (ok : Bool)
  /-- PLUMB_WRITE_APPLIED (R381). Plumb firmware checks and applies a handed RWL write, or refuses it. -/
  | plumbWriteApplied
  /-- PRODUCE_MESSAGE (R398). A producer forms and sends a Plumb-channel message by period or on a SAFETY change. -/
  | produceMessage (c : Fin 8)
  /-- CONSUME_MESSAGE (R399). A consumer checks a received Plumb-channel message and accepts or discards it. -/
  | consumeMessage (c : Fin 8)
  /-- CONNECTION_WATCHDOG (R399). No message is accepted for WD_TIME and the connection fails. -/
  | connectionWatchdog (c : Fin 8)
  /-- CONN_START (R415). Writing CONNc_CTL.START starts a connection from IDLE or FAILED. -/
  | connStart (m : Master) (c : Fin 8)
  /-- CONN_STOP (R415). Writing CONNc_CTL.STOP returns a connection to IDLE. -/
  | connStop (m : Master) (c : Fin 8)
  /-- ENTER (R402). Writing SAD_CTL.ENTER activates the Saddle cause SW. -/
  | enter (m : Master)
  /-- EXIT (R402). Writing SAD_CTL.EXIT clears cause SW and allows exit from CLEARING. -/
  | exit (m : Master)
  /-- SADDLE_RESET (R402). Writing SAD_CTL.RESET returns EXPIRED to NORMAL, or is refused. -/
  | saddleReset (m : Master)
  /-- SADDLE_EVALUATION (R402). The 1 ms Saddle evaluation tests causes and changes state. -/
  | saddleEvaluation
  /-- SADDLE_TIMEOUT (R402). The Saddle timer reaches TMAX and the state becomes EXPIRED. -/
  | saddleTimeout
  /-- CLEAN_TIMEOUT (R402). The clean timer reaches CLEAN in CLEARING. -/
  | cleanTimeout
  /-- UNLOCK_SITE (R406). PW_CMD UNLOCK_SITE compares the site password and unlocks or counts a failure. -/
  | unlockSite (m : Master) (len : BitVec 6)
  /-- UNLOCK_MAKER (R406). PW_CMD UNLOCK_MAKER compares the maker password and unlocks or counts a failure. -/
  | unlockMaker (m : Master) (len : BitVec 6)
  /-- RELOCK (R406). PW_CMD RELOCK returns the password level to LOCKED. -/
  | relock (m : Master)
  /-- SET_SITE (R406). PW_CMD SET_SITE sets the site password. -/
  | setSite (m : Master) (len : BitVec 6)
  /-- SET_MAKER (R406). PW_CMD SET_MAKER sets the maker password. -/
  | setMaker (m : Master) (len : BitVec 6)
  /-- PW_DATA_WRITE (R406). A write of PW_DATA adds a password word, or is ignored beyond eight. -/
  | pwDataWrite (m : Master) (v : Word)
  /-- SESSION_TIMEOUT (R406). SESSION seconds pass without an accepted RWL write and the level relocks. -/
  | sessionTimeout
  /-- LOCKOUT_END (R406). The lockout time elapses and the password machine returns to LOCKED. -/
  | lockoutEnd
  /-- FB_DRAIN (R409). A field-book entry is copied from staging to the NV store and verified. -/
  | fbDrain (ok : Bool)
  /-- FB_DATA_READ (R411). A read of FB_DATA returns an entry word and advances. -/
  | fbDataRead (m : Master)
  /-- PAIR_ENABLE (R431). A write of PAIR.CFG.EN starts the pair function in SYNC, or returns it to OFF, or is refused. -/
  | pairEnable (m : Master) (v : Word)
  /-- GO (R426). Writing PAIR.CTL.GO requests a claim. -/
  | go (m : Master)
  /-- GIVE (R425). Writing CTL.GIVE withdraws an active device's claim. -/
  | give (m : Master)
  /-- KEEP (R425). Writing CTL.KEEP restarts the liveness time. -/
  | keep (m : Master)
  /-- PAIR_CLR (R425). Writing CTL.CLR returns a healthy RELEASED device to SYNC. -/
  | pairClr (m : Master)
  /-- HEARTBEAT_SEND (R423). A heartbeat is sent by period or on a change of state or claim. -/
  | heartbeatSend
  /-- HEARTBEAT_RECEIVED (R424). A heartbeat frame from the peer arrives on a path. -/
  | heartbeatReceived (ring : Bool) (frame : List Byte) (bad : Bool)
  /-- PATH_TIMEOUT (R424). A path delivers no heartbeat for HB.TMO and is lost. -/
  | pathTimeout (ring : Bool)
  /-- PAIR_EVALUATION (R425). The 1 µs sequencer test changes the pair state on its conditions. -/
  | pairEvaluation
  /-- LIVENESS_TIMEOUT (R425). No KEEP for LIVE_TMO makes an active device release its claim. -/
  | livenessTimeout
  /-- CLAIM_PEER_CHANGE (R421). The filtered CLAIM_PEER_N changes level. -/
  | claimPeerChange (low : Bool)
  /-- CLAIM_SETTLE (R420). The 2 µs claim settle time passes and members may be released. -/
  | claimSettle
  /-- CLAIM_TIMEOUT (R425). R420 is not met within 1 ms of CLAIMING and the claim is withdrawn. -/
  | claimTimeout
  /-- INSTALL_DONE (R427). The checkpoint installation ends, lanes are enabled and the claim asserted. -/
  | installDone
  /-- START_WAIT (R425). The peer has been lost for START_WAIT and a syncing device enters STANDBY cold. -/
  | startWait
  /-- PEER_STUCK (R421). CLAIM_PEER_N stays low 10 ms against the peer's state. -/
  | peerStuck
  /-- LOCAL_CAPTURE (R428). While Datum is not valid, a checkpoint is captured every 1 ms of local time. -/
  | localCapture
  /-- SEGMENT_SEND (R428). The next checkpoint segment frame is sent on the pair link. -/
  | segmentSend
  /-- SEGMENT_RECEIVED (R429). A checkpoint segment arrives and the last one completes or discards the checkpoint. -/
  | segmentReceived (frame : List Byte) (bad : Bool)
  /-- DELIVERY (R440). A channel delivers its winning head as a pulse, a record and an interrupt. -/
  | delivery (n : Fin 64)
  /-- PROMOTION (R439). A head waits past its deadline and is promoted to urgent. -/
  | promotion (e : Fin 512)
  /-- DEADLINE_WRITE (R439). A write of a deadline applies at once to every waiting head of that priority. -/
  | deadlineWrite (m : Master) (i : Fin 3) (v : BitVec 16)
  /-- REC0_READ (R441). A read of CHn_REC0 removes the oldest record and captures REC1. -/
  | rec0Read (m : Master) (n : Fin 64)
  /-- SW_RAISE (R443). Writing EVR.SW_RAISE makes an occurrence of a software event. -/
  | swRaise (m : Master) (v : Byte)
  /-- LOG_SUBMIT (R446). A writer submits a stamped trouble-log entry to the reorder buffer. -/
  | logSubmit
  /-- GO_LOG (R459). Writing LOG_SW_GO.GO submits a software trouble-log entry. -/
  | goLog (m : Master) (code : Byte)
  /-- LOG_WRITE (R446). An entry's hold time ends or the buffer is full, and it is written to the log. -/
  | logWrite
  /-- LOG_DATA_READ (R450). A read of LOG_DATA returns an entry word and advances after the eighth. -/
  | logDataRead (m : Master)
  /-- LOG_FULL_CLEAR (R448). Writing 1 to LOG_STAT.FULL empties the log and writes MARK BOOT. -/
  | logFullClear (m : Master)
  /-- REPLAY_DONE (R449). The log replay after a PD_CORE start or SYSRST_N rise ends and sets HEAD. -/
  | replayDone
  /-- LOCK_LOSS (R465). The root PLL is out of lock and the root moves to the holdover oscillator. -/
  | lockLoss
  /-- REF_MEASURE (R465). A 1 ms reference measurement ends and an out-of-range reference sets REF_BAD. -/
  | refMeasure (ppm : Int)
  /-- REFERENCE_QUALIFIED (R468). The reference stays in range over one 1 ms window and the PLL acquires. -/
  | referenceQualified
  /-- PLL_LOCKED (R468). The PLL switches back and locks, setting LOCKED. -/
  | pllLocked
  /-- HOLD_RELEASE (R469). The root has stayed locked for RELEASE and the PLL hold releases. -/
  | holdRelease
  /-- PLL_RELOCK (R462). Writing CLK.CTL.RELOCK makes a deliberate loss of lock with the new MODE. -/
  | pllRelock (m : Master)
  /-- NOREF (R479). REFCLK does not qualify within 10 ms and the clocks start on the holdover oscillator. -/
  | noref
  /-- UPDATE (R471). Writing CLK.CTL.UPDATE schedules the CLKOUT shadows for the next update mark. -/
  | update (m : Master)
  /-- UPDATE_MARK (R471). A 1 µs update mark applies a pending CLKOUT update, or refuses it. -/
  | updateMark
  /-- PD_CTL_WRITE (R474). A write of SYS.PD_CTL sets the target state of the switchable domains. -/
  | pdCtlWrite (m : Master) (v : BitVec 16)
  /-- PD_ON (R474). A domain switch-on completes with the pages at reset values. -/
  | pdOn
  /-- PD_OFF (R474). A domain's switch-off actions complete and it is isolated. -/
  | pdOff
  /-- SUPPLY_FALL (R476). A supply falls below its reset threshold and forces a power-on reset. -/
  | supplyFall (n : Fin 4)
  /-- SUPPLY_RISE (R476). A supply rises above its release threshold. -/
  | supplyRise (n : Fin 4)
  /-- PORST_ASSERT (R477). PORST_N has been low for 100 ns and a power-on reset starts. -/
  | porstAssert
  /-- SYSRST_ASSERT (R477). SYSRST_N has been low for 100 ns and a system reset starts. -/
  | sysrstAssert
  /-- RST_CTL (R477). Writing SYS.RST_CTL with KEY 0xA5 and GO starts a system reset, or raises REFUSED. -/
  | rstCtl (m : Master) (v : BitVec 16)
  /-- RESET_END (R477). A reset's source has ended for 10 µs and the reset ends. -/
  | resetEnd
  /-- GUARD_SCAN (R481). The guard scan interval ends and demands a measurement of all sensors. -/
  | guardScan
  /-- MEAS (R481). Writing THERM.MEAS demands a measurement of the selected sensors. -/
  | meas (m : Master) (v : BitVec 24)
  /-- MEASUREMENT_DONE (R480). A 40 µs thermal measurement ends and results are compared with the thresholds. -/
  | measurementDone (temps : List Int)
  /-- STOP_TIME (R482). STOP_TIME ends in the orderly stop and STOP_SETS are latched. -/
  | stopTime
  /-- CLR_STOP (R483). Writing THERM.CTL.CLR_STOP ends the orderly stop, or is refused. -/
  | clrStop (m : Master)
  /-- TICK_LO_READ (R464). A read of SYS.TICK_LO captures TICK_HI. -/
  | tickLoRead (m : Master)
  /-- VALLEY_SAMPLE (R500). A 16 ms Valley sample measures VSTORE and takes the decisions that depend on it. -/
  | valleySample (mv : Nat)
  /-- VALLEY_POR_END (R502). VSTORE reaches 1.8 V and the power-on reset of PD_VALLEY ends. -/
  | valleyPorEnd
  /-- OPEN_CIRCUIT_MEASURE (R498). Every 16 s the harvester pauses and measures the source's open-circuit voltage. -/
  | openCircuitMeasure (mv : BitVec 12)
  /-- RTC_SET (R504). Writing CTL.RTC_SET loads RTC time at the next tick and sets VALID. -/
  | rtcSet (m : Master)
  /-- RTC_LO_READ (R503). A read of RTC_LO captures RTC_HI. -/
  | rtcLoRead (m : Master)
  /-- XT_FAIL (R504). The crystal gives no edge for 1 ms and the RTC switches to the internal oscillator. -/
  | xtFail
  /-- XT_RECOVER (R504). The crystal has run for 1 s and XT_FAIL clears. -/
  | xtRecover
  /-- BURST_GO (R507). Writing CTL.BURST_GO requests BURST_REQ µJ from the energy gate. -/
  | burstGo (m : Master)
  /-- BURST_END (R508). Writing CTL.BURST_END ends the software grant. -/
  | burstEnd (m : Master)
  /-- BURST_TMO (R508). A software grant held for 1 s ends by itself. -/
  | burstTmo
  /-- HOLDUP_END (R509). The hold-up ends after 20 ms or when the write sequence ends. -/
  | holdupEnd
  /-- WDT_KICK (R518). Writing PMC.WDT_KICK restarts the watchdog of a role position. -/
  | wdtKick (m : Master) (v : BitVec 4)
  /-- WATCHDOG_EXPIRY (R518). A hart watchdog expires and its pair is reset. -/
  | watchdogExpiry (h : Fin 4)
  /-- MTIMECMP_MATCH (R516). The tick counter reaches mtimecmp and MTIP is set. -/
  | mtimecmpMatch (h : Fin 4)
  /-- SCRUB (R521). The SRAM scrubber reads and corrects the next word. -/
  | scrub (errs : Fin 3)
  /-- NV_WRITE (R525). A bus write to the NV window is queued, or refused with WPROT. -/
  | nvWrite (m : Master) (a : Nat) (bytes : List Byte)
  /-- NV_WORD_WRITTEN (R525). A queued NV word write completes after 300 ns. -/
  | nvWordWritten
  /-- VAL_LO_WRITE (R537). A write of CTRn_VAL_LO loads the counter with the last written VAL_HI. -/
  | valLoWrite (m : Master) (n : Fin 64) (v : Word)
  /-- VAL_LO_READ (R537). A read of CTRn_VAL_LO captures CTRn_VAL_HI. -/
  | valLoRead (m : Master) (n : Fin 64)
  /-- EXTEST (R531). The TAP instruction EXTEST drives boundary-scan data. -/
  | extest (cells : List Bool)
  /-- IDCODE (R531). The TAP instruction IDCODE returns 0x1964_805B. -/
  | idcode
  /-- SAMPLE_PRELOAD (R531). The TAP instruction SAMPLE/PRELOAD samples and preloads the boundary. -/
  | samplePreload (cells : List Bool)
  /-- DTMCS (R531). The TAP instruction dtmcs accesses the debug transport control. -/
  | dtmcs (v : Word)
  /-- DMI (R532). A dmi access reaches the debug module, or reads 0 while ALLOW is 0. -/
  | dmi (w : Bool) (a : BitVec 7) (v : Word)
  /-- BYPASS (R531). The TAP instruction BYPASS, or any other code, selects the bypass register. -/
  | bypass (code : BitVec 5)
  /-- DMACTIVE (R532). Setting dmactive with ALLOW switches PD_DBG on. -/
  | dmactive (on : Bool)
  /-- ACCESS_REGISTER (R532). The abstract command Access Register reads or writes a hart register. -/
  | accessRegister (h : Fin 4) (w : Bool) (regno : BitVec 16) (v : DWord)
  /-- ACCESS_MEMORY (R532). The abstract command Access Memory reads or writes memory. -/
  | accessMemory (h : Fin 4) (w : Bool) (a : Nat) (v : Word)
  /-- SYSTEM_BUS_ACCESS (R532). A system bus access of the debug module, allowed with SBA_EN. -/
  | systemBusAccess (w : Bool) (a : Nat) (v : Word)
  /-- NDMRESET (R532). ndmreset makes a system reset with cause DEBUG while RESET_EN is 1. -/
  | ndmreset
  /-- HART_HALT (R533). A hart halts and the lanes of LANE_HALT halt at their next pass start. -/
  | hartHalt (h : Fin 4)
  /-- HART_RESUME (R533). The last halted hart resumes and halted lanes resume. -/
  | hartResume
  /-- APPLY (R546). Writing UPD.CTL.APPLY starts applying a staged package, or is refused. -/
  | apply (m : Master)
  /-- APPLY_DONE (R547). Applying ends with the image STAGED or FAILED. -/
  | applyDone
  /-- BOOT (R548). Writing CTL.BOOT resets the spare pair onto the staged image. -/
  | boot (m : Master)
  /-- READY (R548). Writing CTL.READY from the spare pair moves the update to PREPARED. -/
  | ready (m : Master)
  /-- UPD_ARM (R549). Writing CTL.ARM fixes the handover cycle and requests the global swap, or is refused. -/
  | updArm (m : Master)
  /-- HANDED (R552). The transfer copy is checked and the set becomes visible, or a reversal follows. -/
  | handed (ok : Bool)
  /-- ACCEPT (R553). Writing CTL.ACCEPT in TRIAL changes the boot record, or is refused and reverses. -/
  | accept (m : Master)
  /-- REJECT (R554). Writing CTL.REJECT in TRIAL starts a reversal. -/
  | reject (m : Master)
  /-- ABORT (R551). Writing CTL.ABORT withdraws a handover or returns a booting image to STAGED. -/
  | abort (m : Master)
  /-- UPD_CLEAR (R548). Writing CTL.CLEAR returns FAILED to IDLE. -/
  | updClear (m : Master)
  /-- TRIAL_TIMEOUT (R554). TRIAL_TMO passes without an accepted ACCEPT and a reversal follows. -/
  | trialTimeout
  /-- BOOTREC_CHANGE (R544). A granted boot-record change completes. -/
  | bootrecChange
  /-- GRANT_GIVEUP (R544). 10 s pass without a grant and the update function gives up with cause ENERGY. -/
  | grantGiveup
  /-- SLOT_COMMIT (R553). Writing SLOT_CMD.COMMIT starts a settings-slot write into the inactive slot. -/
  | slotCommit (m : Master)
  /-- SLOT_COMMIT_DONE (R553). A settings-slot write ends with DONE or FAIL. -/
  | slotCommitDone
  /-- GPIO_EDGE (R595). An enabled edge on a GPIO pin sets its cause bit. -/
  | gpioEdge (n : Fin 32) (rise : Bool)
  /-- GPIO_SET (R591). Writing GPIO.SET sets output bits. -/
  | gpioSet (m : Master) (v : Word)
  /-- GPIO_CLR (R591). Writing GPIO.CLR clears output bits. -/
  | gpioClr (m : Master) (v : Word)
  /-- I2C_START (R592). I2C CMD START sends a start or repeated start. -/
  | i2cStart (m : Master) (k : Fin 4)
  /-- I2C_STOP (R592). I2C CMD STOP sends a stop. -/
  | i2cStop (m : Master) (k : Fin 4)
  /-- I2C_WRITE (R592). I2C CMD WRITE sends the DATA byte. -/
  | i2cWrite (m : Master) (k : Fin 4)
  /-- I2C_READ (R592). I2C CMD READ receives a byte into DATA, acknowledged with ACK. -/
  | i2cRead (m : Master) (k : Fin 4) (ack : Bool)
  /-- I2C_DONE (R595). An I2C action ends and DONE or ERR is raised. -/
  | i2cDone (k : Fin 4) (nack arb : Bool) (byte : Byte)
  /-- I2C_TIMEOUT (R592). SCL is held low for TMO and the I2C action ends with TMO. -/
  | i2cTimeout (k : Fin 4)
  /-- SPI_TXDATA (R591). A write of TXDATA pushes a byte to the SPI transmit FIFO. -/
  | spiTxdata (m : Master) (k : Fin 2) (v : Byte)
  /-- SPI_RXDATA (R591). A read of RXDATA pops a received SPI byte. -/
  | spiRxdata (m : Master) (k : Fin 2)
  /-- SPI_BYTE_DONE (R592). An SPI byte finishes shifting and the received byte enters the FIFO. -/
  | spiByteDone (k : Fin 2) (wire : Byte)
  /-- UART_TX (R591). A write of UART TX pushes a byte to the transmit FIFO. -/
  | uartTx (m : Master) (k : Fin 2) (v : Byte)
  /-- UART_RX (R591). A read of UART RX pops a byte with its flags. -/
  | uartRx (m : Master) (k : Fin 2)
  /-- UART_RX_BYTE (R595). A UART byte arrives and enters the receive FIFO, or is lost. -/
  | uartRxByte (k : Fin 2) (v : Byte) (perr ferr : Bool)
  /-- UART_TX_BYTE_DONE (R595). A UART byte finishes transmission. -/
  | uartTxByteDone (k : Fin 2)
  /-- ETH_TX_TAIL (R593). A write of TX_TAIL hands transmit descriptors to the device. -/
  | ethTxTail (m : Master) (e : Fin 2) (v : Word)
  /-- ETH_RX_TAIL (R593). A write of RX_TAIL hands receive descriptors to the device. -/
  | ethRxTail (m : Master) (e : Fin 2) (v : Word)
  /-- TX_DONE (R593). A frame is sent and its transmit descriptor completed with its time stamp. -/
  | txDone (e : Fin 2) (err : Bool) (sfd : Nat)
  /-- RX_DONE (R593). A frame is received into a descriptor, or dropped for want of one. -/
  | rxDone (e : Fin 2) (frame : List Byte) (err : Bool) (sfd : Nat)
  /-- MDIO_GO (R592). Writing MDIO_CMD.GO starts a clause 22 management frame. -/
  | mdioGo (m : Master) (e : Fin 2) (v : BitVec 11)
  /-- MDIO_DONE (R595). A management frame ends. -/
  | mdioDone (e : Fin 2) (v : BitVec 16)
  /-- RWL_WRITE (R566). A write to an RWL register without its own row is checked against the password level and staged in the field book. -/
  | rwlWrite (m : Master) (a : Nat) (v : Word)
  /-- REGISTER_WRITE (R8). A write to a register without its own row takes effect by its access code. -/
  | registerWrite (m : Master) (a : Nat) (bytes : List Byte)
  /-- RFAULT_RECEIVED (R323). A ring receiver starts receiving RFAULT from its neighbour, sets LINK_STAT.RFAULT and the node sends RFAULT toward that neighbour. -/
  | rfaultReceived (r : Fin 2) (on : Bool)
  /-- PLUMB_OSCILLATOR_FAILURE (R382). The monitor on the reference clock finds Plumb's oscillator failed, which is an internal fault that demands SPO and restarts the island. -/
  | plumbOscillatorFailure
  /-- COUNTER_OVERFLOW (R529). A performance counter steps from 0xFFFF_FFFF_FFFF to 0, sets its OVF bit and may raise OVF_A or OVF_B, set LCOFIP or freeze every counter. -/
  | counterOverflow (n : Fin 64)
  /-- BUF_FULL_TIMEOUT (R345). A receive stream whose buffer is still full RTO after it refused a cell is declared broken with cause BUF_FULL. -/
  | bufFullTimeout (n : Fin 1024)
deriving DecidableEq, Repr

end Sys2Proof
end

