-- ==== Sys2Proof/Decode.lean ====
section
/-! DEFINITION. The command a word spells: the block's opcode table gives its rows no bits (every row's field list is
empty), so no word spells a command. -/

namespace Sys2Proof

/-- The command that a word of `nbits` bits spells by the table's bits: none, for no row gives bits. -/
def decodeTableWord (_nbits _w : Nat) : Option Instr := none

end Sys2Proof
end

