-- ==== Sys2Proof/Machine/Bits.lean ====
section
/-! DEFINITION. Bit fields of register words, signed fields, saturating counters and byte order. -/

namespace Sys2Proof.Machine

/-- The `n`-bit field of `w` whose least significant bit is `lo`, as a number. -/
def fld (w : Word) (lo n : Nat) : Nat := (w.toNat >>> lo) % 2 ^ n

/-- Bit `k` of `w`. -/
def bit (w : Word) (k : Nat) : Bool := w.getLsbD k

/-- The same field read as a two's complement number. -/
def sfld (w : Word) (lo n : Nat) : Int :=
  let v := fld w lo n
  if 2 ^ n ≤ 2 * v then (v : Int) - 2 ^ n else (v : Int)

/-- The mask of the `n`-bit field at `lo`. -/
def fmask (lo n : Nat) : Word := BitVec.ofNat 32 ((2 ^ n - 1) <<< lo)

/-- `w` with the `n`-bit field at `lo` replaced by `v` modulo `2^n`. -/
def setFld (w : Word) (lo n v : Nat) : Word :=
  (w &&& ~~~ fmask lo n) ||| BitVec.ofNat 32 ((v % 2 ^ n) <<< lo)

/-- `w` with bit `k` set to `b`. -/
def setBit (w : Word) (k : Nat) (b : Bool) : Word := setFld w k 1 (if b then 1 else 0)

/-- The word whose only set bit is `k`. -/
def bitw (k : Nat) : Word := BitVec.ofNat 32 (2 ^ k)

/-- A count held at `cap`. -/
def held (cap n : Nat) : Nat := if n < cap then n else cap

/-- The word of an integer, modulo 2^32. -/
def wInt (i : Int) : Word := BitVec.ofInt 32 i

/-- The word of a natural number, modulo 2^32. -/
def wNat (n : Nat) : Word := BitVec.ofNat 32 n

/-- An integer limited to the range from `lo` to `hi`. -/
def clampInt (lo hi i : Int) : Int := if i < lo then lo else if hi < i then hi else i

/-- Rounded division of an integer by a positive number, halves away from zero. -/
def roundDiv (a : Int) (b : Nat) : Int :=
  if 0 ≤ a then ((2 * a.toNat + b) / (2 * b) : Nat)
  else - (((2 * (-a).toNat + b) / (2 * b) : Nat) : Int)

/-- The little-endian bytes of a number. -/
def leBytes : Nat → Nat → List Byte
  | 0, _ => []
  | k + 1, v => BitVec.ofNat 8 v :: leBytes k (v / 256)

/-- The number little-endian bytes spell. -/
def leNat : List Byte → Nat
  | [] => 0
  | b :: bs => b.toNat + 256 * leNat bs

/-- The little-endian bytes of a list of words. -/
def wordBytes : List Word → List Byte
  | [] => []
  | w :: ws => leBytes 4 w.toNat ++ wordBytes ws

/-- The words little-endian bytes spell, whole words only. -/
def bytesWords : List Byte → List Word
  | a :: b :: c :: d :: bs => BitVec.ofNat 32 (leNat [a, b, c, d]) :: bytesWords bs
  | _ => []

/-- The numbers `k` from 0 to `n - 1` with bit `k` of `w` set. -/
def setBits (w : Word) (n : Nat) : List Nat := (List.range n).filter (fun k => bit w k)

/-- `v - 2^n` where the low `n` bits of `v` spell a negative number, else those bits. -/
def signed (n : Nat) (v : Nat) : Int :=
  let u := v % 2 ^ n
  if 2 ^ n ≤ 2 * u then (u : Int) - 2 ^ n else (u : Int)

/-- The floor of the square root, by its binary digits: `k` digits are found. -/
def isqrtFrom : Nat → Nat → Nat → Nat
  | 0, _, r => r
  | k + 1, n, r =>
    let c := r + 2 ^ k
    isqrtFrom k n (if c * c ≤ n then c else r)

/-- The floor of the square root. -/
def isqrt (n : Nat) : Nat := isqrtFrom (n.log2 / 2 + 1) n 0

end Sys2Proof.Machine
end

