-- ==== Sys2Proof/Machine/Check.lean ====
section
/-! DEFINITION. The checks of checked items: CRC-32C (R72) and the Plumb-channel CRC, by one reflected bit-serial
routine, and SHA-256, with which Plumb compares passwords (R406). -/

namespace Sys2Proof.Machine

/-- `n` shifts of a reflected 32-bit CRC register. -/
def crcShift (poly : Word) : Nat → Word → Word
  | 0, c => c
  | n + 1, c => crcShift poly n (if c.getLsbD 0 then (c >>> 1) ^^^ poly else c >>> 1)

/-- A reflected CRC register run over bytes. -/
def crcRun (poly : Word) : List Byte → Word → Word
  | [], c => c
  | b :: bs, c => crcRun poly bs (crcShift poly 8 (c ^^^ b.zeroExtend 32))

/-- A reflected 32-bit CRC with initial value and final XOR of all ones. -/
def crc32 (poly : Word) (bs : List Byte) : Word := ~~~ crcRun poly bs 0xFFFFFFFF#32

/-- CRC-32C: polynomial 0x1EDC_6F41, reflected (R72). -/
def crc32c (bs : List Byte) : Word := crc32 0x82F63B78#32 bs

/-! SHA-256 -/

/-- The round constants of SHA-256. -/
def shaK : List Word := [
  0x428a2f98#32, 0x71374491#32, 0xb5c0fbcf#32, 0xe9b5dba5#32, 0x3956c25b#32, 0x59f111f1#32, 0x923f82a4#32, 0xab1c5ed5#32,
  0xd807aa98#32, 0x12835b01#32, 0x243185be#32, 0x550c7dc3#32, 0x72be5d74#32, 0x80deb1fe#32, 0x9bdc06a7#32, 0xc19bf174#32] ++ [
  0xe49b69c1#32, 0xefbe4786#32, 0x0fc19dc6#32, 0x240ca1cc#32, 0x2de92c6f#32, 0x4a7484aa#32, 0x5cb0a9dc#32, 0x76f988da#32,
  0x983e5152#32, 0xa831c66d#32, 0xb00327c8#32, 0xbf597fc7#32, 0xc6e00bf3#32, 0xd5a79147#32, 0x06ca6351#32, 0x14292967#32] ++ [
  0x27b70a85#32, 0x2e1b2138#32, 0x4d2c6dfc#32, 0x53380d13#32, 0x650a7354#32, 0x766a0abb#32, 0x81c2c92e#32, 0x92722c85#32,
  0xa2bfe8a1#32, 0xa81a664b#32, 0xc24b8b70#32, 0xc76c51a3#32, 0xd192e819#32, 0xd6990624#32, 0xf40e3585#32, 0x106aa070#32] ++ [
  0x19a4c116#32, 0x1e376c08#32, 0x2748774c#32, 0x34b0bcb5#32, 0x391c0cb3#32, 0x4ed8aa4a#32, 0x5b9cca4f#32, 0x682e6ff3#32,
  0x748f82ee#32, 0x78a5636f#32, 0x84c87814#32, 0x8cc70208#32, 0x90befffa#32, 0xa4506ceb#32, 0xbef9a3f7#32, 0xc67178f2#32]

/-- The initial hash of SHA-256. -/
def shaInit : List Word := [0x6a09e667#32, 0xbb67ae85#32, 0x3c6ef372#32, 0xa54ff53a#32, 0x510e527f#32, 0x9b05688c#32,
  0x1f83d9ab#32, 0x5be0cd19#32]

/-- Rotate a word right. -/
def rotr (w : Word) (n : Nat) : Word := w.rotateRight n

/-- Extend the message schedule by `n` words; the list holds the words so far, newest first. -/
def shaExtend : Nat → List Word → List Word
  | 0, ws => ws
  | n + 1, ws =>
    let w2 := ws.getD 1 0
    let w7 := ws.getD 6 0
    let w15 := ws.getD 14 0
    let w16 := ws.getD 15 0
    let s0 := rotr w15 7 ^^^ rotr w15 18 ^^^ (w15 >>> 3)
    let s1 := rotr w2 17 ^^^ rotr w2 19 ^^^ (w2 >>> 10)
    shaExtend n ((w16 + s0 + w7 + s1) :: ws)

/-- One round of SHA-256 on the eight working words. -/
def shaRound : List Word → Word → Word → List Word
  | [a, b, c, d, e, f, g, h], k, w =>
    let t1 := h + (rotr e 6 ^^^ rotr e 11 ^^^ rotr e 25) + ((e &&& f) ^^^ (~~~ e &&& g)) + k + w
    let t2 := (rotr a 2 ^^^ rotr a 13 ^^^ rotr a 22) + ((a &&& b) ^^^ (a &&& c) ^^^ (b &&& c))
    [t1 + t2, a, b, c, d + t1, e, f, g]
  | v, _, _ => v

/-- The rounds of one block. -/
def shaRounds : List Word → List Word → List Word → List Word
  | k :: ks, w :: ws, v => shaRounds ks ws (shaRound v k w)
  | _, _, v => v

/-- One block of sixteen words. -/
def shaBlock (h block : List Word) : List Word :=
  let w := (shaExtend 48 block.reverse).reverse
  List.zipWith (· + ·) h (shaRounds shaK w h)

/-- The big-endian words of a list of bytes. -/
def beWords : List Byte → List Word
  | a :: b :: c :: d :: bs => BitVec.ofNat 32 (leNat [d, c, b, a]) :: beWords bs
  | _ => []

/-- Fold the blocks of a padded message. -/
def shaFold : Nat → List Word → List Word → List Word
  | 0, _, h => h
  | n + 1, ws, h => shaFold n (ws.drop 16) (shaBlock h (ws.take 16))

/-- SHA-256 of a message as eight big-endian words. -/
def sha256 (bs : List Byte) : List Word :=
  let n := bs.length
  let blocks := (n + 8) / 64 + 1
  let zeros := 64 * blocks - n - 9
  let msg := bs ++ [0x80#8] ++ List.replicate zeros 0#8 ++ (leBytes 8 (8 * n)).reverse
  shaFold blocks (beWords msg) shaInit

end Sys2Proof.Machine
end

