-- ==== Sys2Proof/Config.lean ====
section
/-! DEFINITION. What the spec leaves open: free values, each a constant without a body, so that nothing proved about the
model rests on a number of the model's own. A free value is applied to the operands it depends on, or to the counter
State.frees, which the step that draws it advances. -/

namespace Sys2Proof.Config

/-- A fresh 32-bit value for a draw (log entry 6). -/
opaque freeWord : Nat → BitVec 32

/-- The error the part makes in a function whose result the spec gives only within a bound (R86): the function's code
and its operands choose an offset, which the model limits to the bound (log entry 7). -/
opaque approxOffset : Nat → Nat → Nat → Int

/-- The boundary-scan cell that drives an output pin in EXTEST (R531), by the pin's number: PWM_A and PWM_B of leg l are 2 l and
2 l + 1, DRV_HO and DRV_LO of phase p are 256 + 2 p and 257 + 2 p, and the other pins have the numbers from 512 on that their
definitions in Machine/Pins.lean give; of a pin that can also be released, the next number is the cell that enables it. The BSDL file gives
the order, and the spec does not (log entry 70). -/
opaque boundaryCell : Nat → Nat

/-- Content of the boot ROM, by word (log entry 6): the spec gives none. -/
opaque romWord : Nat → BitVec 32

end Sys2Proof.Config
end

