-- ==== Sys2Proof/Machine/Float.lean ====
section
/-! DEFINITION. Binary floating point by exact integers: decode to a signed integer times a power of two, compute
exactly, round once to nearest even. Single precision as R84 has it (subnormal operands and results are zero, the NaN
result is 0x7FC0_0000), double precision for the sounding accumulators (R125, R240). -/

namespace Sys2Proof.Machine

/-- A floating-point value: not a number, an infinity, or `m * 2^e` with a sign. -/
inductive FVal where
  | nan
  | inf (neg : Bool)
  | num (neg : Bool) (m : Nat) (e : Int)
deriving DecidableEq, Repr

/-- The value a word of `p` significand bits and `eb` exponent bits spells; subnormals are zero of their sign. -/
def unpackF (p eb : Nat) (w : Nat) : FVal :=
  let frac := w % 2 ^ (p - 1)
  let ex := (w >>> (p - 1)) % 2 ^ eb
  let neg := (w >>> (p - 1 + eb)) % 2 = 1
  if ex = 2 ^ eb - 1 then (if frac = 0 then .inf neg else .nan)
  else if ex = 0 then .num neg 0 0
  else .num neg (2 ^ (p - 1) + frac) ((ex : Int) - (2 ^ (eb - 1) - 1) - ((p : Int) - 1))

/-- Sign, biased exponent and fraction packed. -/
def packBits (p eb : Nat) (neg : Bool) (ex frac : Nat) : Nat :=
  (if neg then 2 ^ (p - 1 + eb) else 0) + ex * 2 ^ (p - 1) + frac

/-- Round a magnitude `n * 2^e` to nearest even and pack it; too small is zero, too large is infinity. -/
def packNum (p eb : Nat) (neg : Bool) (n : Nat) (e : Int) : Nat :=
  if n = 0 then packBits p eb neg 0 0 else
  let len := n.log2 + 1
  let sh := len - p
  let q := n >>> sh
  let rem := n % 2 ^ sh
  let up := if 2 ^ sh < 2 * rem then 1 else if 2 * rem = 2 ^ sh ∧ 0 < sh then q % 2 else 0
  let q := if len < p then n <<< (p - len) else q + up
  let e2 : Int := if len < p then e - ((p - len : Nat) : Int) else e + (sh : Int)
  let e3 : Int := if q = 2 ^ p then e2 + 1 else e2
  let q := if q = 2 ^ p then 2 ^ (p - 1) else q
  let be : Int := e3 + ((p : Int) - 1) + (2 ^ (eb - 1) - 1)
  if be ≤ 0 then packBits p eb neg 0 0
  else if (2 ^ eb - 1 : Int) ≤ be then packBits p eb neg (2 ^ eb - 1) 0
  else packBits p eb neg be.toNat (q - 2 ^ (p - 1))

/-- Pack a value. -/
def packF (p eb : Nat) : FVal → Nat
  | .nan => packBits p eb false (2 ^ eb - 1) (2 ^ (p - 2))
  | .inf neg => packBits p eb neg (2 ^ eb - 1) 0
  | .num neg m e => packNum p eb neg m e

/-- The single-precision value of a word. -/
def f32 (w : Word) : FVal := unpackF 24 8 w.toNat

/-- A value rounded to single precision. -/
def toF32 (v : FVal) : Word := BitVec.ofNat 32 (packF 24 8 v)

/-- The double-precision value of a 64-bit word. -/
def f64 (w : DWord) : FVal := unpackF 53 11 w.toNat

/-- A value rounded to double precision. -/
def toF64 (v : FVal) : DWord := BitVec.ofNat 64 (packF 53 11 v)

/-- The signed integer a magnitude and a sign stand for. -/
def sgn (neg : Bool) (m : Nat) : Int := if neg then -(m : Int) else (m : Int)

/-- The value of an integer times a power of two; zero is positive. -/
def fInt (i : Int) (e : Int) : FVal := .num (decide (i < 0)) i.natAbs e

/-- Exact negation. -/
def fNeg : FVal → FVal
  | .nan => .nan
  | .inf s => .inf (!s)
  | .num s m e => .num (!s) m e

/-- Exact magnitude. -/
def fAbs : FVal → FVal
  | .nan => .nan
  | .inf _ => .inf false
  | .num _ m e => .num false m e

/-- Exact sum. -/
def fAdd : FVal → FVal → FVal
  | .nan, _ => .nan
  | _, .nan => .nan
  | .inf a, .inf b => if a = b then .inf a else .nan
  | .inf a, _ => .inf a
  | _, .inf b => .inf b
  | .num s m e, .num t n f =>
    let lo := min e f
    let i := sgn s (m <<< (e - lo).toNat) + sgn t (n <<< (f - lo).toNat)
    if i = 0 then .num (s && t) 0 0 else fInt i lo

/-- Exact difference. -/
def fSub (a b : FVal) : FVal := fAdd a (fNeg b)

/-- Exact product. -/
def fMul : FVal → FVal → FVal
  | .nan, _ => .nan
  | _, .nan => .nan
  | .inf a, .inf b => .inf (a != b)
  | .inf a, .num t n _ => if n = 0 then .nan else .inf (a != t)
  | .num s m _, .inf b => if m = 0 then .nan else .inf (s != b)
  | .num s m e, .num t n f => .num (s != t) (m * n) (e + f)

/-- Quotient with 80 bits and a sticky bit below them: one rounding of it is the correctly rounded quotient. -/
def fDiv : FVal → FVal → FVal
  | .nan, _ => .nan
  | _, .nan => .nan
  | .inf _, .inf _ => .nan
  | .inf a, .num t _ _ => .inf (a != t)
  | .num s _ _, .inf b => .num (s != b) 0 0
  | .num s m e, .num t n f =>
    if n = 0 then (if m = 0 then .nan else .inf (s != t)) else
    let k := 80 + n.log2
    let q := (m <<< k) / n
    let r := if q * n = m <<< k then 0 else 1
    .num (s != t) (2 * q + r) (e - f - (k : Int) - 1)

/-- Square root with 80 bits or more and a sticky bit; the root of a negative number is not a number. -/
def fSqrt : FVal → FVal
  | .nan => .nan
  | .inf neg => if neg then .nan else .inf false
  | .num s m e =>
    if m = 0 then .num s 0 0 else if s then .nan else
    let odd := if e % 2 = 0 then 0 else 1
    let n := m <<< (160 + odd)
    let q := isqrt n
    let r := if q * q = n then 0 else 1
    .num false (2 * q + r) ((e - (160 + odd : Nat)) / 2 - 1)

/-- Exact multiplication by a power of two. -/
def fScale (k : Int) : FVal → FVal
  | .num s m e => .num s m (e + k)
  | v => v

/-- `a < b`; false where either is not a number. -/
def fLt : FVal → FVal → Bool
  | .nan, _ => false
  | _, .nan => false
  | .inf a, .inf b => a && !b
  | .inf a, .num _ _ _ => a
  | .num _ _ _, .inf b => !b
  | .num s m e, .num t n f =>
    let lo := min e f
    decide (sgn s (m <<< (e - lo).toNat) < sgn t (n <<< (f - lo).toNat))

/-- `a ≤ b`; false where either is not a number. -/
def fLe : FVal → FVal → Bool
  | .nan, _ => false
  | _, .nan => false
  | a, b => !(fLt b a)

/-- `a = b` as numbers; false where either is not a number. -/
def fEq (a b : FVal) : Bool := fLe a b && fLe b a

/-- The larger of two values; the number where one is not a number. -/
def fMax (a b : FVal) : FVal := if a = .nan then b else if b = .nan then a else if fLt a b then b else a

/-- The smaller of two values; the number where one is not a number. -/
def fMin (a b : FVal) : FVal := if a = .nan then b else if b = .nan then a else if fLt b a then b else a

/-- A finite value. -/
def fFinite : FVal → Bool
  | .num _ _ _ => true
  | _ => false

/-- The floor of a finite value; 0 for the others. -/
def fFloor : FVal → Int
  | .num s m e =>
    if 0 ≤ e then sgn s (m <<< e.toNat)
    else
      let i := sgn s m
      i / ((2 ^ (-e).toNat : Nat) : Int)
  | _ => 0

/-- A finite value rounded to the nearest integer, ties to even; 0 for the others. -/
def fRound : FVal → Int
  | .num s m e =>
    if 0 ≤ e then sgn s (m <<< e.toNat)
    else
      let d := 2 ^ (-e).toNat
      let q := m / d
      let r := m % d
      let up := if d < 2 * r then 1 else if 2 * r = d then q % 2 else 0
      sgn s (q + up)
  | _ => 0

/-- A finite value rounded to the nearest integer, ties away from zero; 0 for the others. -/
def fRoundAway : FVal → Int
  | .num s m e =>
    if 0 ≤ e then sgn s (m <<< e.toNat)
    else
      let d := 2 ^ (-e).toNat
      sgn s ((2 * m + d) / (2 * d))
  | _ => 0

/-- A finite value truncated toward zero; 0 for the others. -/
def fTrunc : FVal → Int
  | .num s m e => if 0 ≤ e then sgn s (m <<< e.toNat) else sgn s (m / 2 ^ (-e).toNat)
  | _ => 0

/-! Single-precision operations on words: each computes exactly and rounds once (R84). -/

/-- Sum. -/
def addF (a b : Word) : Word := toF32 (fAdd (f32 a) (f32 b))
/-- Difference. -/
def subF (a b : Word) : Word := toF32 (fSub (f32 a) (f32 b))
/-- Product. -/
def mulF (a b : Word) : Word := toF32 (fMul (f32 a) (f32 b))
/-- Quotient. -/
def divF (a b : Word) : Word := toF32 (fDiv (f32 a) (f32 b))
/-- Square root. -/
def sqrtF (a : Word) : Word := toF32 (fSqrt (f32 a))
/-- Fused `a * b + c`. -/
def fmaF (a b c : Word) : Word := toF32 (fAdd (fMul (f32 a) (f32 b)) (f32 c))
/-- Negation of the sign. -/
def negF (a : Word) : Word := toF32 (fNeg (f32 a))
/-- Magnitude. -/
def absF (a : Word) : Word := toF32 (fAbs (f32 a))
/-- `a < b`. -/
def ltF (a b : Word) : Bool := fLt (f32 a) (f32 b)
/-- `a ≤ b`. -/
def leF (a b : Word) : Bool := fLe (f32 a) (f32 b)
/-- `a = b` as numbers. -/
def eqF (a b : Word) : Bool := fEq (f32 a) (f32 b)
/-- Neither a NaN nor an infinity. -/
def finF (a : Word) : Bool := fFinite (f32 a)
/-- The larger. -/
def maxF (a b : Word) : Word := if ltF a b then b else a
/-- The smaller. -/
def minF (a b : Word) : Word := if ltF b a then b else a
/-- An integer as a single-precision number. -/
def ofIntF (i : Int) : Word := toF32 (fInt i 0)
/-- `i / d` as a single-precision number, one rounding. -/
def ratF (i : Int) (d : Nat) : Word := toF32 (fDiv (fInt i 0) (fInt d 0))
/-- The number 0. -/
def zeroF : Word := 0x00000000#32
/-- The number 1. -/
def oneF : Word := 0x3F800000#32
/-- The NaN the part produces (R84). -/
def nanF : Word := 0x7FC00000#32

/-! Sine, cosine and arctangent of R86, within their bound: fixed point with 48 fraction bits. -/

/-- `x * y` of two numbers with 48 fraction bits. -/
def fx (x y : Int) : Int := (x * y) / (2 ^ 48 : Int)

/-- Terms of the sine or cosine series: `t` is the term of order `k`, `y` the square of the angle. -/
def trigTerms : Nat → Int → Nat → Int → Int → Int
  | 0, _, _, _, acc => acc
  | n + 1, y, k, t, acc =>
    let t' := - (fx t y) / ((k + 1) * (k + 2) : Int)
    trigTerms n y (k + 2) t' (acc + t')

/-- 2π with 48 fraction bits. -/
def twoPi48 : Int := 1768559438007110

/-- Sine of an angle in turns with 48 fraction bits, itself with 48 fraction bits. -/
def sin48 (turns : Int) : Int :=
  let a := turns % (2 ^ 48 : Int)
  let a := if (2 ^ 47 : Int) ≤ a then a - (2 ^ 48 : Int) else a
  let a := if (2 ^ 46 : Int) < a then (2 ^ 47 : Int) - a else if a < -(2 ^ 46 : Int) then -(2 ^ 47 : Int) - a else a
  let x := fx a twoPi48
  trigTerms 12 (fx x x) 1 x x

/-- Cosine of an angle in turns. -/
def cos48 (turns : Int) : Int := sin48 (turns + 2 ^ 46)

/-- Binary search of the angle in turns, from 0 to a quarter, whose direction is nearest (x, y) with x, y not negative. -/
def atanSearch : Nat → Int → Int → Int → Int
  | 0, _, _, a => a
  | k + 1, x, y, a =>
    let c := a + (2 ^ k : Int)
    atanSearch k x y (if fx (sin48 c) x ≤ fx (cos48 c) y then c else a)

/-- Angle of (x, y) in turns, from -1/2 to 1/2, with 48 fraction bits; both scaled alike. -/
def atan48 (y x : Int) : Int :=
  let q := atanSearch 46 |x| |y| 0
  let h := if x < 0 then (2 ^ 47 : Int) - q else q
  if y < 0 then -h else h

/-- A finite single-precision number with 48 fraction bits, toward minus infinity. -/
def toFx48 (w : Word) : Int := fFloor (fScale 48 (f32 w))

/-- The single-precision number nearest a number with 48 fraction bits. -/
def ofFx48 (i : Int) : Word := toF32 (fInt i (-48))

/-! Numbers with 48 fraction bits: the supervisory functions compute in them (log entry 7). -/

/-- The number 1. -/
def one48 : Int := 2 ^ 48
/-- Quotient; 0 where the divisor is 0. -/
def div48 (a b : Int) : Int := a * one48 / b
/-- Square root; 0 for a negative number. -/
def sqrt48 (a : Int) : Int := isqrt (a * one48).toNat
/-- A number of 20 ps steps in seconds. -/
def secs48 (t : Nat) : Int := (t * 2 ^ 48 / 50000000000 : Nat)
/-- Terms of the exponential series. -/
def expTerms : Nat → Int → Nat → Int → Int → Int
  | 0, _, _, _, acc => acc
  | n + 1, x, k, t, acc =>
    let t' := fx t x / (k : Int)
    expTerms n x (k + 1) t' (acc + t')
/-- `n` squarings. -/
def squares : Nat → Int → Int
  | 0, x => x
  | n + 1, x => squares n (fx x x)
/-- `exp(-x)` for `x` not negative. -/
def expNeg48 (x : Int) : Int :=
  if 64 * one48 < x then 0 else squares 8 (expTerms 8 (-x / 256) 1 one48 one48)
/-- An angle in turns wrapped into (-1/2, 1/2]. -/
def wrap48 (a : Int) : Int :=
  let b := a % one48
  if one48 < 2 * b then b - one48 else b
/-- An angle in turns wrapped into [0, 1). -/
def frac48 (a : Int) : Int := a % one48
/-- Rotation of (d, q) by an angle in turns. -/
def rot48 (a d q : Int) : Int × Int :=
  let c := cos48 a
  let n := sin48 a
  (fx d c - fx q n, fx d n + fx q c)
/-- Magnitude of (d, q). -/
def mag48 (d q : Int) : Int := sqrt48 (fx d d + fx q q)
/-- Limit to plus or minus `l`. -/
def lim48 (l x : Int) : Int := clampInt (-l) l x
/-- Degrees in turns. -/
def deg48 (n : Nat) : Int := n * one48 / 360

/-! Double-precision operations: each computes exactly and rounds once. -/

/-- Sum. -/
def add64 (a b : DWord) : DWord := toF64 (fAdd (f64 a) (f64 b))
/-- Difference. -/
def sub64 (a b : DWord) : DWord := toF64 (fSub (f64 a) (f64 b))
/-- Product. -/
def mul64 (a b : DWord) : DWord := toF64 (fMul (f64 a) (f64 b))
/-- Quotient. -/
def div64 (a b : DWord) : DWord := toF64 (fDiv (f64 a) (f64 b))
/-- Negation of the sign. -/
def neg64 (a : DWord) : DWord := toF64 (fNeg (f64 a))
/-- Magnitude of (a, b). -/
def mag64 (a b : DWord) : DWord := toF64 (fSqrt (fAdd (fMul (f64 a) (f64 a)) (fMul (f64 b) (f64 b))))
/-- An integer. -/
def of64 (i : Int) : DWord := toF64 (fInt i 0)
/-- A number with 48 fraction bits. -/
def fx64 (i : Int) : DWord := toF64 (fInt i (-48))
/-- Sum of a list. -/
def sum64 (xs : List DWord) : DWord := xs.foldl add64 0
/-- The single-precision number nearest. -/
def to32 (a : DWord) : Word := toF32 (f64 a)

end Sys2Proof.Machine
end

