-- ==== Sys2Proof/Machine/SMap.lean ====
section
/-! DEFINITION. Sparse maps in one canonical form: the shape of the register file, of the memories and of every
collection of like units (legs, lanes, streams). Keys strictly rising, no entry equal to what an unlisted key reads as. -/

namespace Sys2Proof.Machine

/-- What key `k` holds; an unlisted key holds `d k`. -/
def smGet {α : Type} (d : Nat → α) : List (Nat × α) → Nat → α
  | [], k => d k
  | (j, x) :: m, k => if j = k then x else smGet d m k

/-- Put `x` at key `k`, keeping the keys in rising order. -/
def smPut {α : Type} (k : Nat) (x : α) : List (Nat × α) → List (Nat × α)
  | [] => [(k, x)]
  | (j, y) :: m =>
    if j = k then (k, x) :: m
    else if k < j then (k, x) :: (j, y) :: m
    else (j, y) :: smPut k x m

/-- Drop every entry of key `k`. -/
def smDrop {α : Type} (k : Nat) : List (Nat × α) → List (Nat × α)
  | [] => []
  | (j, y) :: m => if j = k then smDrop k m else (j, y) :: smDrop k m

/-- Set key `k` to `x`: writing the value an unlisted key reads as removes the entry. -/
def smSet {α : Type} [DecidableEq α] (d : Nat → α) (m : List (Nat × α)) (k : Nat) (x : α) : List (Nat × α) :=
  if x = d k then smDrop k m else smPut k x m

/-- Set one value at each key of a list. -/
def smSetAll {α : Type} [DecidableEq α] (d : Nat → α) (m : List (Nat × α)) : List (Nat × α) → List (Nat × α)
  | [] => m
  | (k, x) :: ps => smSetAll d (smSet d m k x) ps

/-- Keys strictly rising, each greater than `lo` where `lo` is given. -/
def smRising {α : Type} : Option Nat → List (Nat × α) → Bool
  | _, [] => true
  | none, (j, _) :: m => smRising (some j) m
  | some lo, (j, _) :: m => decide (lo < j) && smRising (some j) m

/-- No entry equals what its key reads as when unlisted. -/
def smLean {α : Type} [DecidableEq α] (d : Nat → α) : List (Nat × α) → Bool
  | [] => true
  | (j, x) :: m => decide (x ≠ d j) && smLean d m

/-- The canonical form. -/
def smWf {α : Type} [DecidableEq α] (d : Nat → α) (m : List (Nat × α)) : Bool :=
  smRising none m && smLean d m

/-- A default that does not depend on the key. -/
def smConst {α : Type} (x : α) (_ : Nat) : α := x

end Sys2Proof.Machine
end

