-- ==== Sys2Proof/Machine/Operands.lean ====
section
/-! DEFINITION. The register pages (R558 to R561): which page an index is, what registers each page has, which bits of
each a write may change and how (R8), and what each reads after reset (R9). Written from the page tables and field maps
of the owning chapters. A register's key is its page index times 0x1000 plus its offset; ENGC, to which the spec gives
the base of ENG16, has the index 0x440 here and answers at the shared base on the bus (log entry 8). -/

namespace Sys2Proof.Machine

/-- The page types of R561. -/
inductive PageType where
  | sys
  | clk
  | evr
  | therm
  | pwmg
  | adc
  | trip
  | cmp
  | eng
  | engc
  | snd
  | drv
  | grid
  | isl
  | mppt
  | reg
  | mtr
  | ring
  | datum
  | plumb
  | pch
  | pair
  | valley
  | nvm
  | pmc
  | dbg
  | upd
  | eth
  | gpio
  | i2c
  | spi
  | uart
deriving DecidableEq, Repr

/-- How the plainly writable bits of a register take a write (R8). -/
inductive WClass where
  | none
  | rw
  | rws
  | rwl
  | wo
deriving DecidableEq, Repr

/-- A row of a page table: registers at `off + s1 * i + s2 * j`, `i < n1`, `j < n2`; the bits a write sets plainly
(`wmask`), clears by a 1 (`cmask`) or acts on by a 1 (`smask`), and the value after reset. -/
structure RegRow where
  name  : String
  off   : Nat
  n1    : Nat
  s1    : Nat
  n2    : Nat
  s2    : Nat
  cls   : WClass
  wmask : Nat
  cmask : Nat
  smask : Nat
  rst   : Nat
deriving DecidableEq, Repr

/-- R487. -/
def regsSys : List RegRow := [
  ⟨"PD_CTL", 0x40, 1, 0x1000, 1, 0x4, .rwl, 0x2FE, 0x0, 0x0, 0x0⟩,
  ⟨"PD_STAT", 0x44, 1, 0x1000, 1, 0x4, .none, 0x0, 0x0, 0x0, 0xD01⟩,
  ⟨"RST_CTL", 0x48, 1, 0x1000, 1, 0x4, .wo, 0xFF01, 0x0, 0x0, 0x0⟩,
  ⟨"RST_CAUSE", 0x4C, 1, 0x1000, 1, 0x4, .none, 0x0, 0x3F, 0x0, 0x0⟩,
  ⟨"TICK_LO", 0x50, 1, 0x1000, 1, 0x4, .none, 0x0, 0x0, 0x0, 0x0⟩,
  ⟨"TICK_HI", 0x54, 1, 0x1000, 1, 0x4, .none, 0x0, 0x0, 0x0, 0x0⟩,
  ⟨"SUPPLY", 0x58, 1, 0x1000, 1, 0x4, .none, 0x0, 0x0, 0x0, 0xF⟩,
  ⟨"BOOT_STAT", 0x5C, 1, 0x1000, 1, 0x4, .none, 0x0, 0x0, 0x0, 0x0⟩]

/-- R490. -/
def regsClk : List RegRow := [
  ⟨"REF_CFG", 0x40, 1, 0x1000, 1, 0x4, .rwl, 0x3, 0x0, 0x0, 0x0⟩,
  ⟨"HOLD_CFG", 0x44, 1, 0x1000, 1, 0x4, .rwl, 0x3FF, 0x0, 0x0, 0x32⟩,
  ⟨"CTL", 0x48, 1, 0x1000, 1, 0x4, .none, 0x0, 0x0, 0x3, 0x0⟩,
  ⟨"STAT", 0x4C, 1, 0x1000, 1, 0x4, .none, 0x0, 0x54, 0x0, 0x0⟩,
  ⟨"LOCK_CNT", 0x50, 1, 0x1000, 1, 0x4, .none, 0x0, 0x0, 0x0, 0x0⟩,
  ⟨"REF_PPM", 0x54, 1, 0x1000, 1, 0x4, .none, 0x0, 0x0, 0x0, 0x0⟩,
  ⟨"CLKOUT_CFG", 0x60, 1, 0x1000, 6, 0x8, .rwl, 0xFFFFF03F, 0x0, 0x0, 0x0⟩,
  ⟨"CLKOUT_DIV", 0x64, 1, 0x1000, 6, 0x8, .rwl, 0xFFFFF, 0x0, 0x0, 0x8⟩,
  ⟨"CLKOUT_ACT", 0x90, 1, 0x1000, 6, 0x4, .none, 0x0, 0x0, 0x0, 0x8⟩]

/-- R458. -/
def regsEvr : List RegRow := [
  ⟨"DL_LOW", 0x40, 1, 0x1000, 1, 0x4, .rwl, 0xFFFF, 0x0, 0x0, 0x2710⟩,
  ⟨"DL_NORMAL", 0x44, 1, 0x1000, 1, 0x4, .rwl, 0xFFFF, 0x0, 0x0, 0x3E8⟩,
  ⟨"DL_HIGH", 0x48, 1, 0x1000, 1, 0x4, .rwl, 0xFFFF, 0x0, 0x0, 0x0⟩,
  ⟨"PROMO_CNT", 0x4C, 1, 0x1000, 1, 0x4, .none, 0x0, 0x0, 0x0, 0x0⟩,
  ⟨"MERGE_CNT", 0x50, 1, 0x1000, 1, 0x4, .none, 0x0, 0x0, 0x0, 0x0⟩,
  ⟨"SW_RAISE", 0x54, 1, 0x1000, 1, 0x4, .none, 0x0, 0x0, 0xFF, 0x0⟩,
  ⟨"LOG_CFG", 0x60, 1, 0x1000, 1, 0x4, .rwl, 0x3FF0001, 0x0, 0x0, 0x1F40000⟩,
  ⟨"LOG_STAT", 0x64, 1, 0x1000, 1, 0x4, .none, 0x0, 0x1000, 0x0, 0x0⟩,
  ⟨"LOG_NEXTSEQ", 0x68, 1, 0x1000, 1, 0x4, .none, 0x0, 0x0, 0x0, 0x0⟩,
  ⟨"LOG_CNT", 0x6C, 1, 0x1000, 1, 0x4, .none, 0x0, 0x0, 0x0, 0x0⟩,
  ⟨"LOG_IDX", 0x70, 1, 0x1000, 1, 0x4, .rw, 0xFFF, 0x0, 0x0, 0x0⟩,
  ⟨"LOG_DATA", 0x74, 1, 0x1000, 1, 0x4, .none, 0x0, 0x0, 0x0, 0x0⟩,
  ⟨"LOG_RSTAT", 0x78, 1, 0x1000, 1, 0x4, .none, 0x0, 0x0, 0x0, 0x0⟩,
  ⟨"LOG_SW", 0x80, 1, 0x1000, 3, 0x4, .rw, 0xFFFFFFFF, 0x0, 0x0, 0x0⟩,
  ⟨"LOG_SW_GO", 0x8C, 1, 0x1000, 1, 0x4, .wo, 0x800000FF, 0x0, 0x0, 0x0⟩,
  ⟨"BAD_CNT", 0x90, 1, 0x1000, 1, 0x4, .none, 0x0, 0x0, 0x0, 0x0⟩,
  ⟨"CH_CFG", 0x400, 1, 0x1000, 64, 0x10, .rwl, 0x1FFF, 0x0, 0x0, 0x0⟩,
  ⟨"CH_STAT", 0x404, 1, 0x1000, 64, 0x10, .none, 0x0, 0x10, 0x0, 0x0⟩,
  ⟨"CH_REC0", 0x408, 1, 0x1000, 64, 0x10, .none, 0x0, 0x0, 0x0, 0x0⟩,
  ⟨"CH_REC1", 0x40C, 1, 0x1000, 64, 0x10, .none, 0x0, 0x0, 0x0, 0x0⟩,
  ⟨"ROUTE", 0x800, 1, 0x1000, 512, 0x4, .rwl, 0x37F7F, 0x0, 0x0, 0x0⟩]

/-- R493. -/
def regsTherm : List RegRow := [
  ⟨"CFG", 0x40, 1, 0x1000, 1, 0x4, .rwl, 0xFFFFFFFF, 0x0, 0x0, 0x140A0A⟩,
  ⟨"TH", 0x44, 1, 0x1000, 1, 0x4, .rwl, 0xFFFFFF, 0x0, 0x0, 0x6E7380⟩,
  ⟨"STOP_SETS", 0x48, 1, 0x1000, 1, 0x4, .rwl, 0xFFFF, 0x0, 0x0, 0x0⟩,
  ⟨"MEAS", 0x4C, 1, 0x1000, 1, 0x4, .none, 0x0, 0x0, 0xFFFFFF, 0x0⟩,
  ⟨"CTL", 0x50, 1, 0x1000, 1, 0x4, .none, 0x0, 0x0, 0x1, 0x0⟩,
  ⟨"STAT", 0x54, 1, 0x1000, 1, 0x4, .none, 0x0, 0x0, 0x0, 0x0⟩,
  ⟨"MAX", 0x58, 1, 0x1000, 1, 0x4, .none, 0x0, 0x0, 0x0, 0x0⟩,
  ⟨"SENS", 0x80, 1, 0x1000, 24, 0x4, .none, 0x0, 0x0, 0x0, 0x0⟩]

/-- R159. -/
def regsPwmg : List RegRow := [
  ⟨"DOM_CTRL", 0x40, 1, 0x1000, 2, 0x20, .rw, 0xFF03, 0x0, 0x0, 0x0⟩,
  ⟨"DOM_STAT", 0x44, 1, 0x1000, 2, 0x20, .none, 0x0, 0x30, 0x0, 0x0⟩,
  ⟨"DOM_ERR", 0x48, 1, 0x1000, 2, 0x20, .none, 0x0, 0x0, 0x0, 0x0⟩,
  ⟨"DOM_BCNT", 0x4C, 1, 0x1000, 2, 0x20, .none, 0x0, 0x0, 0x0, 0x0⟩,
  ⟨"DOM_MEMB", 0x50, 2, 0x20, 3, 0x4, .none, 0x0, 0x0, 0x0, 0x0⟩,
  ⟨"DARM", 0x80, 1, 0x1000, 1, 0x4, .none, 0x0, 0xFF00, 0xFF, 0x0⟩,
  ⟨"CAL_STAT", 0x84, 1, 0x1000, 1, 0x4, .none, 0x0, 0xFF00, 0x0, 0x0⟩,
  ⟨"LEG_CFG", 0x100, 1, 0x1000, 8, 0x40, .rw, 0x7FFF, 0x0, 0x0, 0x0⟩,
  ⟨"LEG_PER", 0x104, 1, 0x1000, 8, 0x40, .rws, 0xFFFFFFFF, 0x0, 0x0, 0x2625A00⟩,
  ⟨"LEG_CMPA", 0x108, 1, 0x1000, 8, 0x40, .rws, 0xFFFFFFFF, 0x0, 0x0, 0x0⟩,
  ⟨"LEG_CMPB", 0x10C, 1, 0x1000, 8, 0x40, .rws, 0xFFFFFFFF, 0x0, 0x0, 0x0⟩,
  ⟨"LEG_DUTY", 0x110, 1, 0x1000, 8, 0x40, .rws, 0xFFFFFFFF, 0x0, 0x0, 0x0⟩,
  ⟨"LEG_DTA", 0x114, 1, 0x1000, 8, 0x40, .rws, 0x1FFFF, 0x0, 0x0, 0x0⟩,
  ⟨"LEG_DTB", 0x118, 1, 0x1000, 8, 0x40, .rws, 0x1FFFF, 0x0, 0x0, 0x0⟩,
  ⟨"LEG_LIMITS", 0x11C, 1, 0x1000, 8, 0x40, .rws, 0xFFFFFFFF, 0x0, 0x0, 0x0⟩,
  ⟨"LEG_PHASE", 0x120, 1, 0x1000, 8, 0x40, .rws, 0xFFFFFF, 0x0, 0x0, 0x0⟩,
  ⟨"LEG_SKEW", 0x124, 1, 0x1000, 8, 0x40, .rws, 0xFFFF, 0x0, 0x0, 0x0⟩,
  ⟨"LEG_MODE", 0x128, 1, 0x1000, 8, 0x40, .rws, 0xF, 0x0, 0x0, 0x0⟩,
  ⟨"LEG_STAT", 0x12C, 1, 0x1000, 8, 0x40, .none, 0x0, 0xC, 0x0, 0x0⟩,
  ⟨"LEG_OVL_CNT", 0x130, 1, 0x1000, 8, 0x40, .none, 0x0, 0x0, 0x0, 0x0⟩,
  ⟨"LEG_ACT_A", 0x134, 1, 0x1000, 8, 0x40, .none, 0x0, 0x0, 0x0, 0x0⟩,
  ⟨"LEG_ACT_B", 0x138, 1, 0x1000, 8, 0x40, .none, 0x0, 0x0, 0x0, 0x0⟩,
  ⟨"LEG_PER_ACT", 0x13C, 1, 0x1000, 8, 0x40, .none, 0x0, 0x0, 0x0, 0x2625A00⟩]

/-- R63. -/
def regsAdc : List RegRow := [
  ⟨"CFG", 0x40, 1, 0x1000, 1, 0x4, .rws, 0x7FF, 0x0, 0x0, 0x0⟩,
  ⟨"BLOCK", 0x44, 1, 0x1000, 1, 0x4, .rws, 0xFFFF, 0x0, 0x0, 0x1⟩,
  ⟨"OFFSET", 0x48, 1, 0x1000, 1, 0x4, .rws, 0xFFFFFF, 0x0, 0x0, 0x0⟩,
  ⟨"SCALE", 0x4C, 1, 0x1000, 1, 0x4, .rws, 0xFFFFFFFF, 0x0, 0x0, 0x3F800000⟩,
  ⟨"ROUTES", 0x50, 1, 0x1000, 1, 0x4, .none, 0x0, 0x0, 0x0, 0x0⟩,
  ⟨"AVG", 0x60, 1, 0x1000, 1, 0x4, .none, 0x0, 0x0, 0x0, 0x0⟩,
  ⟨"AVG_LEN", 0x64, 1, 0x1000, 1, 0x4, .none, 0x0, 0x0, 0x0, 0x0⟩,
  ⟨"AVG_END", 0x68, 1, 0x1000, 1, 0x4, .none, 0x0, 0x0, 0x0, 0x0⟩,
  ⟨"AVG_FLAGS", 0x6C, 1, 0x1000, 1, 0x4, .none, 0x0, 0x0, 0x0, 0x0⟩,
  ⟨"AVG_MIN", 0x70, 1, 0x1000, 1, 0x4, .none, 0x0, 0x0, 0x0, 0x0⟩,
  ⟨"AVG_MAX", 0x74, 1, 0x1000, 1, 0x4, .none, 0x0, 0x0, 0x0, 0x0⟩,
  ⟨"SEQ_CTL", 0x80, 1, 0x1000, 1, 0x4, .rws, 0xFF7FF1F, 0x0, 0x80000000, 0x10001⟩,
  ⟨"SEQ_STAT", 0x84, 1, 0x1000, 1, 0x4, .none, 0x0, 0x0, 0x0, 0x0⟩,
  ⟨"REG_ENTRY", 0xC0, 1, 0x1000, 16, 0x4, .rws, 0xF, 0x0, 0x0, 0x0⟩,
  ⟨"REG_RESULT", 0x100, 1, 0x1000, 16, 0x4, .none, 0x0, 0x0, 0x0, 0x0⟩,
  ⟨"INJ_ENTRY", 0x140, 1, 0x1000, 4, 0x4, .rws, 0xF, 0x0, 0x0, 0x0⟩,
  ⟨"INJ_RESULT", 0x150, 1, 0x1000, 4, 0x4, .none, 0x0, 0x0, 0x0, 0x0⟩]

/-- R194. -/
def regsTrip : List RegRow := [
  ⟨"PEND_HI", 0x40, 1, 0x1000, 1, 0x4, .none, 0x0, 0x0, 0x0, 0x0⟩,
  ⟨"EV_CLR_HI", 0x44, 1, 0x1000, 1, 0x4, .none, 0x0, 0xFFFFFFFF, 0x0, 0x0⟩,
  ⟨"TR_CFG", 0x100, 1, 0x1000, 48, 0x20, .rwl, 0xF77F, 0x0, 0x0, 0x0⟩,
  ⟨"TR_BLANK", 0x104, 1, 0x1000, 48, 0x20, .rw, 0x3FF037F, 0x0, 0x0, 0x7F⟩,
  ⟨"TR_BWIN_S", 0x108, 1, 0x1000, 48, 0x20, .rw, 0x3FFFF, 0x0, 0x0, 0x0⟩,
  ⟨"TR_BWIN_E", 0x10C, 1, 0x1000, 48, 0x20, .rw, 0x3FFFF, 0x0, 0x0, 0x0⟩,
  ⟨"TR_LIMIT", 0x110, 1, 0x1000, 48, 0x20, .rw, 0xFFFFFF, 0x0, 0x0, 0x0⟩,
  ⟨"TR_EVEN", 0x114, 1, 0x1000, 48, 0x20, .rw, 0x3F, 0x0, 0x0, 0x0⟩,
  ⟨"TR_STAT", 0x118, 1, 0x1000, 48, 0x20, .none, 0x0, 0x3F08, 0x0, 0x0⟩,
  ⟨"TR_CNT", 0x11C, 1, 0x1000, 48, 0x20, .none, 0x0, 0x0, 0x0, 0x0⟩,
  ⟨"SS_LEGS", 0x800, 16, 0x20, 3, 0x4, .rwl, 0xFFFFFFFF, 0x0, 0x0, 0x0⟩,
  ⟨"SS_PH", 0x80C, 1, 0x1000, 16, 0x20, .rwl, 0xFFFF, 0x0, 0x0, 0x0⟩,
  ⟨"SS_CFG", 0x810, 1, 0x1000, 16, 0x20, .rwl, 0x3F03, 0x0, 0x0, 0x0⟩,
  ⟨"SS_STAT", 0x814, 1, 0x1000, 16, 0x20, .none, 0x0, 0x6, 0x0, 0x0⟩,
  ⟨"SS_CTL", 0x818, 1, 0x1000, 16, 0x20, .none, 0x0, 0x0, 0x3, 0x0⟩,
  ⟨"SS_CNT", 0x81C, 1, 0x1000, 16, 0x20, .none, 0x0, 0x0, 0x0, 0x0⟩]

/-- R197. -/
def regsCmp : List RegRow := [
  ⟨"MON_CFG", 0x100, 1, 0x1000, 8, 0x20, .rw, 0x1F333F7, 0x0, 0x0, 0x0⟩,
  ⟨"MON_THR", 0x104, 1, 0x1000, 8, 0x20, .rws, 0x73FF03FF, 0x0, 0x0, 0x20001FF⟩,
  ⟨"MON_BLANK", 0x108, 1, 0x1000, 8, 0x20, .rw, 0x3FF037F, 0x0, 0x0, 0x7F⟩,
  ⟨"MON_BWIN_S", 0x10C, 1, 0x1000, 8, 0x20, .rw, 0x3FFFF, 0x0, 0x0, 0x0⟩,
  ⟨"MON_BWIN_E", 0x110, 1, 0x1000, 8, 0x20, .rw, 0x3FFFF, 0x0, 0x0, 0x0⟩,
  ⟨"MON_ACT", 0x114, 1, 0x1000, 8, 0x20, .rwl, 0x1F, 0x0, 0x0, 0x0⟩,
  ⟨"MON_STAT", 0x118, 1, 0x1000, 8, 0x20, .none, 0x0, 0x8, 0x0, 0x0⟩]

/-- R103. -/
def regsEng : List RegRow := [
  ⟨"CTRL", 0x40, 1, 0x1000, 1, 0x4, .rw, 0xFF01F1, 0x0, 0x2, 0x80000⟩,
  ⟨"BANK0_PROG", 0x48, 1, 0x1000, 1, 0x4, .rw, 0x3FFF3FFF, 0x0, 0x0, 0x0⟩,
  ⟨"BANK0_MASK", 0x4C, 1, 0x1000, 1, 0x4, .rw, 0xFFFFFFFF, 0x0, 0x0, 0x0⟩,
  ⟨"BANK0_CMAP", 0x50, 1, 0x1000, 4, 0x4, .rw, 0xFFFFFFFF, 0x0, 0x0, 0x0⟩,
  ⟨"BANK0_SMAP", 0x60, 1, 0x1000, 4, 0x4, .rw, 0xFFFFFFFF, 0x0, 0x0, 0x0⟩,
  ⟨"BANK1_PROG", 0x70, 1, 0x1000, 1, 0x4, .rw, 0x3FFF3FFF, 0x0, 0x0, 0x0⟩,
  ⟨"BANK1_MASK", 0x74, 1, 0x1000, 1, 0x4, .rw, 0xFFFFFFFF, 0x0, 0x0, 0x0⟩,
  ⟨"BANK1_CMAP", 0x78, 1, 0x1000, 4, 0x4, .rw, 0xFFFFFFFF, 0x0, 0x0, 0x0⟩,
  ⟨"BANK1_SMAP", 0x88, 1, 0x1000, 4, 0x4, .rw, 0xFFFFFFFF, 0x0, 0x0, 0x0⟩,
  ⟨"PASS_CNT", 0xA0, 1, 0x1000, 1, 0x4, .none, 0x0, 0x0, 0x0, 0x0⟩,
  ⟨"FAULT_CNT", 0xA4, 1, 0x1000, 1, 0x4, .none, 0x0, 0x0, 0x0, 0x0⟩,
  ⟨"DISC", 0xA8, 1, 0x1000, 1, 0x4, .none, 0x0, 0x0, 0x0, 0x0⟩,
  ⟨"LAST_CYC", 0xAC, 1, 0x1000, 1, 0x4, .none, 0x0, 0x0, 0x0, 0x0⟩,
  ⟨"MAX_CYC", 0xB0, 1, 0x1000, 1, 0x4, .rw, 0xFFFFF, 0x0, 0x0, 0x0⟩,
  ⟨"LAST_W", 0xB4, 1, 0x1000, 1, 0x4, .none, 0x0, 0x0, 0x0, 0x0⟩,
  ⟨"DISC_INFO", 0xB8, 1, 0x1000, 1, 0x4, .none, 0x0, 0x0, 0x0, 0x0⟩,
  ⟨"SW_CODE", 0xBC, 1, 0x1000, 1, 0x4, .none, 0x0, 0x0, 0x0, 0x0⟩]

/-- R106. -/
def regsEngc : List RegRow := [
  ⟨"CTRL", 0x40, 1, 0x1000, 1, 0x4, .rw, 0x2, 0x0, 0x5, 0x0⟩,
  ⟨"SWAP_AT", 0x44, 1, 0x1000, 1, 0x4, .rw, 0xFFFFFFFF, 0x0, 0x0, 0x0⟩,
  ⟨"ERR", 0x4C, 1, 0x1000, 1, 0x4, .none, 0x0, 0xF, 0x0, 0x0⟩,
  ⟨"VERIFY", 0x50, 1, 0x1000, 1, 0x4, .rw, 0xFF, 0x0, 0x100, 0x0⟩,
  ⟨"VCHECK", 0x54, 1, 0x1000, 1, 0x4, .none, 0x0, 0x0, 0x0, 0x0⟩,
  ⟨"TTYPE", 0x80, 1, 0x1000, 16, 0x4, .rw, 0xFFFFFFFF, 0x0, 0x0, 0x0⟩]

/-- R128. -/
def regsSnd : List RegRow := [
  ⟨"CAP_ADDR", 0x40, 1, 0x1000, 1, 0x4, .rw, 0x3FFF, 0x0, 0x0, 0x0⟩,
  ⟨"CAP_DATA", 0x44, 1, 0x1000, 1, 0x4, .none, 0x0, 0x0, 0x0, 0x0⟩,
  ⟨"ERR", 0x48, 1, 0x1000, 1, 0x4, .none, 0x0, 0x3, 0x0, 0x0⟩,
  ⟨"GCFG", 0x100, 1, 0x1000, 8, 0x40, .rw, 0x1F37DF7, 0x0, 0x0, 0x0⟩,
  ⟨"GFREQ", 0x104, 1, 0x1000, 8, 0x40, .rw, 0xFFFFFFFF, 0x0, 0x0, 0x0⟩,
  ⟨"GAMP", 0x108, 1, 0x1000, 8, 0x40, .rw, 0xFFFFFFFF, 0x0, 0x0, 0x0⟩,
  ⟨"GAMP_MAX", 0x10C, 1, 0x1000, 8, 0x40, .rwl, 0xFFFFFFFF, 0x0, 0x0, 0x0⟩,
  ⟨"GPRBS", 0x110, 1, 0x1000, 8, 0x40, .rw, 0x7FFFFF0F, 0x0, 0x0, 0x0⟩,
  ⟨"GTIME", 0x114, 1, 0x1000, 8, 0x40, .rw, 0xFFFFFFFF, 0x0, 0x0, 0x0⟩,
  ⟨"GAT", 0x118, 1, 0x1000, 8, 0x40, .rw, 0xFFFFFFFF, 0x0, 0x0, 0x0⟩,
  ⟨"GCAP", 0x11C, 1, 0x1000, 8, 0x40, .rw, 0x7FFF3FFF, 0x0, 0x0, 0x0⟩,
  ⟨"GCTL", 0x120, 1, 0x1000, 8, 0x40, .none, 0x0, 0x0, 0x3, 0x0⟩,
  ⟨"GSTAT", 0x124, 1, 0x1000, 8, 0x40, .none, 0x0, 0x0, 0x0, 0x0⟩,
  ⟨"GCOUNT", 0x128, 1, 0x1000, 8, 0x40, .none, 0x0, 0x0, 0x0, 0x0⟩,
  ⟨"GCAPPTR", 0x12C, 1, 0x1000, 8, 0x40, .none, 0x0, 0x0, 0x0, 0x0⟩,
  ⟨"IACC_LO", 0x400, 8, 0x40, 4, 0x10, .none, 0x0, 0x0, 0x0, 0x0⟩,
  ⟨"IACC_HI", 0x404, 8, 0x40, 4, 0x10, .none, 0x0, 0x0, 0x0, 0x0⟩,
  ⟨"QACC_LO", 0x408, 8, 0x40, 4, 0x10, .none, 0x0, 0x0, 0x0, 0x0⟩,
  ⟨"QACC_HI", 0x40C, 8, 0x40, 4, 0x10, .none, 0x0, 0x0, 0x0, 0x0⟩]

/-- R200. -/
def regsDrv : List RegRow := [
  ⟨"GRP_CFG", 0x40, 1, 0x1000, 1, 0x4, .rwl, 0x1F1, 0x0, 0x0, 0x0⟩,
  ⟨"GRP_STAT", 0x44, 1, 0x1000, 1, 0x4, .none, 0x0, 0x8, 0x0, 0x0⟩,
  ⟨"PH_CFG", 0x100, 1, 0x1000, 4, 0x20, .rwl, 0xFFFF7F01, 0x0, 0x0, 0xFFFF0500⟩,
  ⟨"PH_STAT", 0x104, 1, 0x1000, 4, 0x20, .none, 0x0, 0x0, 0x0, 0x0⟩,
  ⟨"PH_CNT", 0x108, 1, 0x1000, 4, 0x20, .none, 0x0, 0x0, 0x0, 0x0⟩]

/-- R228. -/
def regsGrid : List RegRow := [
  ⟨"CFG", 0x40, 1, 0x1000, 1, 0x4, .rwl, 0x777F0, 0x0, 0x0, 0x0⟩,
  ⟨"VSRC", 0x44, 1, 0x1000, 1, 0x4, .rwl, 0x1F1F1F, 0x0, 0x0, 0x0⟩,
  ⟨"VNOM", 0x48, 1, 0x1000, 1, 0x4, .rwl, 0xFFFFFFFF, 0x0, 0x0, 0x0⟩,
  ⟨"IRATED", 0x4C, 1, 0x1000, 1, 0x4, .rwl, 0xFFFFFFFF, 0x0, 0x0, 0x0⟩,
  ⟨"PLL_KP", 0x50, 1, 0x1000, 1, 0x4, .rwl, 0xFFFFFFFF, 0x0, 0x0, 0x0⟩,
  ⟨"PLL_KI", 0x54, 1, 0x1000, 1, 0x4, .rwl, 0xFFFFFFFF, 0x0, 0x0, 0x0⟩,
  ⟨"SYNC_FC", 0x58, 1, 0x1000, 1, 0x4, .rwl, 0xFFFFFFFF, 0x0, 0x0, 0x43480000⟩,
  ⟨"FMIN", 0x5C, 1, 0x1000, 1, 0x4, .rwl, 0xFFFFFFFF, 0x0, 0x0, 0x42340000⟩,
  ⟨"FMAX", 0x60, 1, 0x1000, 1, 0x4, .rwl, 0xFFFFFFFF, 0x0, 0x0, 0x42820000⟩,
  ⟨"LOCK_CFG", 0x64, 1, 0x1000, 1, 0x4, .rwl, 0xFFFFFFF, 0x0, 0x0, 0x0⟩,
  ⟨"COAST_V", 0x68, 1, 0x1000, 1, 0x4, .rwl, 0xFFFFFFFF, 0x0, 0x0, 0x0⟩,
  ⟨"COAST_HYST", 0x6C, 1, 0x1000, 1, 0x4, .rwl, 0xFFFFFFFF, 0x0, 0x0, 0x0⟩,
  ⟨"COAST_TIME", 0x70, 1, 0x1000, 1, 0x4, .rwl, 0xFFFFFFFF, 0x0, 0x0, 0x0⟩,
  ⟨"RELOCK", 0x74, 1, 0x1000, 1, 0x4, .rwl, 0xFFFFFFFF, 0x0, 0x0, 0x0⟩,
  ⟨"RELOCK_I", 0x78, 1, 0x1000, 1, 0x4, .rwl, 0xFFFFFFFF, 0x0, 0x0, 0x0⟩,
  ⟨"IMAX", 0x7C, 1, 0x1000, 1, 0x4, .rwl, 0xFFFFFFFF, 0x0, 0x0, 0x3F800000⟩,
  ⟨"VFLOOR", 0x80, 1, 0x1000, 1, 0x4, .rwl, 0xFFFFFFFF, 0x0, 0x0, 0x3DCCCCCD⟩,
  ⟨"KFACT", 0x84, 1, 0x1000, 1, 0x4, .rwl, 0xFFFFFFFF, 0x0, 0x0, 0x0⟩,
  ⟨"KDB", 0x88, 1, 0x1000, 1, 0x4, .rwl, 0xFFFFFFFF, 0x0, 0x0, 0x0⟩,
  ⟨"RAMP", 0x8C, 1, 0x1000, 1, 0x4, .rwl, 0xFFFFFFFF, 0x0, 0x0, 0x0⟩,
  ⟨"PLIM", 0x90, 1, 0x1000, 1, 0x4, .rwl, 0xFFFFFFFF, 0x0, 0x0, 0x0⟩,
  ⟨"VHYST", 0x94, 1, 0x1000, 1, 0x4, .rwl, 0xFFFFFFFF, 0x0, 0x0, 0x0⟩,
  ⟨"FHYST", 0x98, 1, 0x1000, 1, 0x4, .rwl, 0xFFFFFFFF, 0x0, 0x0, 0x0⟩,
  ⟨"SEQ_CFG", 0x9C, 1, 0x1000, 1, 0x4, .rwl, 0xFFFFFFFF, 0x0, 0x0, 0x0⟩,
  ⟨"CMD_P", 0xA0, 1, 0x1000, 1, 0x4, .rws, 0xFFFFFFFF, 0x0, 0x0, 0x0⟩,
  ⟨"CMD_Q", 0xA4, 1, 0x1000, 1, 0x4, .rws, 0xFFFFFFFF, 0x0, 0x0, 0x0⟩,
  ⟨"CMD_ID", 0xA8, 1, 0x1000, 1, 0x4, .rws, 0xFFFFFFFF, 0x0, 0x0, 0x0⟩,
  ⟨"CMD_IQ", 0xAC, 1, 0x1000, 1, 0x4, .rws, 0xFFFFFFFF, 0x0, 0x0, 0x0⟩,
  ⟨"CMD_PF", 0xB0, 1, 0x1000, 1, 0x4, .rws, 0xFFFFFFFF, 0x0, 0x0, 0x3F800000⟩,
  ⟨"ISCALE", 0xB4, 1, 0x1000, 1, 0x4, .rws, 0xFFFFFFFF, 0x0, 0x0, 0x3F800000⟩] ++ [
  ⟨"RS_VLO", 0xC0, 1, 0x1000, 1, 0x4, .rwl, 0xFFFFFFFF, 0x0, 0x0, 0x0⟩,
  ⟨"RS_VHI", 0xC4, 1, 0x1000, 1, 0x4, .rwl, 0xFFFFFFFF, 0x0, 0x0, 0x0⟩,
  ⟨"RS_FLO", 0xC8, 1, 0x1000, 1, 0x4, .rwl, 0xFFFFFFFF, 0x0, 0x0, 0x0⟩,
  ⟨"RS_FHI", 0xCC, 1, 0x1000, 1, 0x4, .rwl, 0xFFFFFFFF, 0x0, 0x0, 0x0⟩,
  ⟨"RS_DELAY", 0xD0, 1, 0x1000, 1, 0x4, .rwl, 0xFFFF, 0x0, 0x0, 0x0⟩,
  ⟨"CTL", 0xE0, 1, 0x1000, 1, 0x4, .none, 0x0, 0x0, 0x3, 0x0⟩,
  ⟨"STAT", 0xE4, 1, 0x1000, 1, 0x4, .none, 0x0, 0x0, 0x0, 0x0⟩,
  ⟨"FREQ", 0xE8, 1, 0x1000, 1, 0x4, .none, 0x0, 0x0, 0x0, 0x0⟩,
  ⟨"ROCOF", 0xEC, 1, 0x1000, 1, 0x4, .none, 0x0, 0x0, 0x0, 0x0⟩,
  ⟨"VPOS", 0xF0, 1, 0x1000, 1, 0x4, .none, 0x0, 0x0, 0x0, 0x0⟩,
  ⟨"VNEG", 0xF4, 1, 0x1000, 1, 0x4, .none, 0x0, 0x0, 0x0, 0x0⟩,
  ⟨"ANGLE", 0xF8, 1, 0x1000, 1, 0x4, .none, 0x0, 0x0, 0x0, 0x0⟩,
  ⟨"VRMS_MIN", 0xFC, 1, 0x1000, 1, 0x4, .none, 0x0, 0x0, 0x0, 0x0⟩,
  ⟨"VRMS_MAX", 0x100, 1, 0x1000, 1, 0x4, .none, 0x0, 0x0, 0x0, 0x0⟩,
  ⟨"DTHETA", 0x104, 1, 0x1000, 1, 0x4, .none, 0x0, 0x0, 0x0, 0x0⟩,
  ⟨"ID_REF", 0x108, 1, 0x1000, 1, 0x4, .none, 0x0, 0x0, 0x0, 0x0⟩,
  ⟨"IQ_REF", 0x10C, 1, 0x1000, 1, 0x4, .none, 0x0, 0x0, 0x0, 0x0⟩,
  ⟨"TRIP_INFO", 0x110, 1, 0x1000, 1, 0x4, .none, 0x0, 0x0, 0x0, 0x0⟩,
  ⟨"CNT", 0x114, 1, 0x1000, 1, 0x4, .none, 0x0, 0x0, 0x0, 0x0⟩,
  ⟨"RT_LEVEL", 0x200, 1, 0x1000, 32, 0x8, .rw, 0xFFFFFFFF, 0x0, 0x0, 0x0⟩,
  ⟨"RT_ECFG", 0x204, 1, 0x1000, 32, 0x8, .rw, 0xFFFFFF37, 0x0, 0x0, 0x0⟩]

/-- R249. -/
def regsIsl : List RegRow := [
  ⟨"CFG", 0x40, 1, 0x1000, 1, 0x4, .rwl, 0x7F3FFF, 0x0, 0x0, 0x0⟩,
  ⟨"ISRC", 0x44, 1, 0x1000, 1, 0x4, .rwl, 0x1F1F1F, 0x0, 0x0, 0x0⟩,
  ⟨"CODE", 0x48, 1, 0x1000, 1, 0x4, .rwl, 0x1FF, 0x0, 0x0, 0x0⟩,
  ⟨"AMP", 0x4C, 1, 0x1000, 1, 0x4, .rwl, 0xFFFFFFFF, 0x0, 0x0, 0x0⟩,
  ⟨"Z_ISL", 0x50, 1, 0x1000, 1, 0x4, .rwl, 0xFFFFFFFF, 0x0, 0x0, 0x0⟩,
  ⟨"DZ_ISL", 0x54, 1, 0x1000, 1, 0x4, .rwl, 0xFFFFFFFF, 0x0, 0x0, 0x0⟩,
  ⟨"NOISE_MAX", 0x58, 1, 0x1000, 1, 0x4, .rwl, 0xFFFFFFFF, 0x0, 0x0, 0x0⟩,
  ⟨"BASE_TC", 0x5C, 1, 0x1000, 1, 0x4, .rwl, 0xFF, 0x0, 0x0, 0x10⟩,
  ⟨"DATUM_TMO", 0x60, 1, 0x1000, 1, 0x4, .rwl, 0xFFFF, 0x0, 0x0, 0x0⟩,
  ⟨"CTL", 0x64, 1, 0x1000, 1, 0x4, .none, 0x0, 0x0, 0x7, 0x0⟩,
  ⟨"STAT", 0x68, 1, 0x1000, 1, 0x4, .none, 0x0, 0x20, 0x0, 0x0⟩,
  ⟨"EFF_AMP", 0x6C, 1, 0x1000, 1, 0x4, .none, 0x0, 0x0, 0x0, 0x0⟩,
  ⟨"PCOUNT", 0x70, 1, 0x1000, 1, 0x4, .none, 0x0, 0x0, 0x0, 0x0⟩,
  ⟨"LAST", 0x74, 1, 0x1000, 1, 0x4, .none, 0x0, 0x0, 0x0, 0x0⟩,
  ⟨"Z_SELF_R", 0x78, 1, 0x1000, 1, 0x4, .none, 0x0, 0x0, 0x0, 0x0⟩,
  ⟨"Z_SELF_X", 0x7C, 1, 0x1000, 1, 0x4, .none, 0x0, 0x0, 0x0, 0x0⟩,
  ⟨"Z_AGG_R", 0x80, 1, 0x1000, 1, 0x4, .none, 0x0, 0x0, 0x0, 0x0⟩,
  ⟨"Z_AGG_X", 0x84, 1, 0x1000, 1, 0x4, .none, 0x0, 0x0, 0x0, 0x0⟩,
  ⟨"Z_BASE", 0x88, 1, 0x1000, 1, 0x4, .none, 0x0, 0x0, 0x0, 0x0⟩,
  ⟨"NOISE", 0x8C, 1, 0x1000, 1, 0x4, .none, 0x0, 0x0, 0x0, 0x0⟩,
  ⟨"CI_OWN", 0x90, 1, 0x1000, 1, 0x4, .none, 0x0, 0x0, 0x0, 0x0⟩,
  ⟨"DEC_INFO", 0x94, 1, 0x1000, 1, 0x4, .none, 0x0, 0x0, 0x0, 0x0⟩,
  ⟨"DEC_TIME_LO", 0x98, 1, 0x1000, 1, 0x4, .none, 0x0, 0x0, 0x0, 0x0⟩,
  ⟨"DEC_TIME_HI", 0x9C, 1, 0x1000, 1, 0x4, .none, 0x0, 0x0, 0x0, 0x0⟩,
  ⟨"AMP_ADDR", 0xA0, 1, 0x1000, 1, 0x4, .rw, 0x1FF, 0x0, 0x0, 0x0⟩,
  ⟨"AMP_DATA", 0xA4, 1, 0x1000, 1, 0x4, .rw, 0xFFFF, 0x0, 0x0, 0x0⟩,
  ⟨"RES_SEL", 0xA8, 1, 0x1000, 1, 0x4, .rw, 0x1FF, 0x0, 0x0, 0x0⟩,
  ⟨"RES_VD", 0xAC, 1, 0x1000, 1, 0x4, .none, 0x0, 0x0, 0x0, 0x0⟩,
  ⟨"RES_VQ", 0xB0, 1, 0x1000, 1, 0x4, .none, 0x0, 0x0, 0x0, 0x0⟩,
  ⟨"RES_ID", 0xB4, 1, 0x1000, 1, 0x4, .none, 0x0, 0x0, 0x0, 0x0⟩] ++ [
  ⟨"RES_IQ", 0xB8, 1, 0x1000, 1, 0x4, .none, 0x0, 0x0, 0x0, 0x0⟩]

/-- R264. -/
def regsMppt : List RegRow := [
  ⟨"SWEEP_CFG", 0x40, 1, 0x1000, 1, 0x4, .rwl, 0xFFFF007F, 0x0, 0x0, 0x10⟩,
  ⟨"SWEEP_STAT", 0x44, 1, 0x1000, 1, 0x4, .none, 0x0, 0x0, 0x0, 0x0⟩,
  ⟨"SWP_ADDR", 0x48, 1, 0x1000, 1, 0x4, .rw, 0x7F, 0x0, 0x0, 0x0⟩,
  ⟨"SWP_V", 0x4C, 1, 0x1000, 1, 0x4, .none, 0x0, 0x0, 0x0, 0x0⟩,
  ⟨"SWP_P", 0x50, 1, 0x1000, 1, 0x4, .none, 0x0, 0x0, 0x0, 0x7FC00000⟩,
  ⟨"SADDLE_P", 0x54, 1, 0x1000, 1, 0x4, .none, 0x0, 0x0, 0x0, 0x0⟩,
  ⟨"T_CFG", 0x100, 1, 0x1000, 24, 0x40, .rwl, 0x77, 0x0, 0x0, 0x0⟩,
  ⟨"T_SRC", 0x104, 1, 0x1000, 24, 0x40, .rwl, 0x1F1F, 0x0, 0x0, 0x0⟩,
  ⟨"T_VMIN", 0x108, 1, 0x1000, 24, 0x40, .rwl, 0xFFFFFFFF, 0x0, 0x0, 0x0⟩,
  ⟨"T_VMAX", 0x10C, 1, 0x1000, 24, 0x40, .rwl, 0xFFFFFFFF, 0x0, 0x0, 0x0⟩,
  ⟨"T_DV_MAX", 0x110, 1, 0x1000, 24, 0x40, .rwl, 0xFFFFFFFF, 0x0, 0x0, 0x0⟩,
  ⟨"T_DV_MIN", 0x114, 1, 0x1000, 24, 0x40, .rwl, 0xFFFFFFFF, 0x0, 0x0, 0x0⟩,
  ⟨"T_PDB", 0x118, 1, 0x1000, 24, 0x40, .rwl, 0xFFFFFFFF, 0x0, 0x0, 0x0⟩,
  ⟨"T_TIME", 0x11C, 1, 0x1000, 24, 0x40, .rwl, 0xFFFFFFFF, 0x0, 0x0, 0x0⟩,
  ⟨"T_CAP", 0x120, 1, 0x1000, 24, 0x40, .rw, 0xFFFFFFFF, 0x0, 0x0, 0x0⟩,
  ⟨"T_SHARE", 0x124, 1, 0x1000, 24, 0x40, .rwl, 0xFFFFFFFF, 0x0, 0x0, 0x0⟩,
  ⟨"T_VTOL", 0x128, 1, 0x1000, 24, 0x40, .rwl, 0xFFFFFFFF, 0x0, 0x0, 0x0⟩,
  ⟨"T_CNT", 0x12C, 1, 0x1000, 24, 0x40, .none, 0x0, 0x0, 0x0, 0x0⟩,
  ⟨"T_CTL", 0x130, 1, 0x1000, 24, 0x40, .none, 0x0, 0x0, 0x7, 0x0⟩,
  ⟨"T_STAT", 0x134, 1, 0x1000, 24, 0x40, .none, 0x0, 0x100, 0x0, 0x0⟩,
  ⟨"T_VREF", 0x138, 1, 0x1000, 24, 0x40, .none, 0x0, 0x0, 0x0, 0x0⟩,
  ⟨"T_PMEAS", 0x13C, 1, 0x1000, 24, 0x40, .none, 0x0, 0x0, 0x0, 0x0⟩]

/-- R291. -/
def regsReg : List RegRow := [
  ⟨"CFG", 0x40, 1, 0x1000, 1, 0x4, .rwl, 0x3F1F1F, 0x0, 0x0, 0x0⟩,
  ⟨"NPH", 0x44, 1, 0x1000, 1, 0x4, .rwl, 0x1F1F1F, 0x0, 0x0, 0x0⟩,
  ⟨"PHLEG", 0x48, 1, 0x1000, 6, 0x4, .rwl, 0x7F7F7F7F, 0x0, 0x0, 0x0⟩,
  ⟨"PHISRC", 0x60, 1, 0x1000, 6, 0x4, .rwl, 0x9F9F9F9F, 0x0, 0x0, 0x0⟩,
  ⟨"VSNS", 0x78, 1, 0x1000, 1, 0x4, .rwl, 0x1F, 0x0, 0x0, 0x0⟩,
  ⟨"SETS", 0x7C, 1, 0x1000, 1, 0x4, .rwl, 0x1FF, 0x0, 0x0, 0x0⟩,
  ⟨"VBOOT", 0x80, 1, 0x1000, 1, 0x4, .rwl, 0xFFFFFFFF, 0x0, 0x0, 0x0⟩,
  ⟨"VCMD_MIN", 0x84, 1, 0x1000, 1, 0x4, .rwl, 0xFFFFFFFF, 0x0, 0x0, 0x0⟩,
  ⟨"VCMD_MAX", 0x88, 1, 0x1000, 1, 0x4, .rwl, 0xFFFFFFFF, 0x0, 0x0, 0x0⟩,
  ⟨"SLEW_UP", 0x8C, 1, 0x1000, 1, 0x4, .rwl, 0xFFFFFFFF, 0x0, 0x0, 0x0⟩,
  ⟨"SLEW_DN", 0x90, 1, 0x1000, 1, 0x4, .rwl, 0xFFFFFFFF, 0x0, 0x0, 0x0⟩,
  ⟨"SS_RATE", 0x94, 1, 0x1000, 1, 0x4, .rwl, 0xFFFFFFFF, 0x0, 0x0, 0x0⟩,
  ⟨"SS_TMO", 0x98, 1, 0x1000, 1, 0x4, .rwl, 0xFFFF, 0x0, 0x0, 0x0⟩,
  ⟨"PG_WIN", 0x9C, 1, 0x1000, 1, 0x4, .rwl, 0xFFFFFFFF, 0x0, 0x0, 0x0⟩,
  ⟨"UV_WIN", 0xA0, 1, 0x1000, 1, 0x4, .rwl, 0xFFFFFFFF, 0x0, 0x0, 0x0⟩,
  ⟨"ILIM", 0xA4, 1, 0x1000, 1, 0x4, .rwl, 0xFFFFFFFF, 0x0, 0x0, 0x0⟩,
  ⟨"IPH_LIM", 0xA8, 1, 0x1000, 1, 0x4, .rwl, 0xFFFFFFFF, 0x0, 0x0, 0x0⟩,
  ⟨"ISHED", 0xAC, 1, 0x1000, 1, 0x4, .rwl, 0xFFFFFFFF, 0x0, 0x0, 0x0⟩,
  ⟨"IADD", 0xB0, 1, 0x1000, 1, 0x4, .rwl, 0xFFFFFFFF, 0x0, 0x0, 0x0⟩,
  ⟨"IFAST", 0xB4, 1, 0x1000, 1, 0x4, .rwl, 0xFFFFFFFF, 0x0, 0x0, 0x0⟩,
  ⟨"DWELL", 0xB8, 1, 0x1000, 1, 0x4, .rwl, 0xFFFFFFFF, 0x0, 0x0, 0x0⟩,
  ⟨"IDE_ENTER", 0xBC, 1, 0x1000, 1, 0x4, .rwl, 0xFFFFFFFF, 0x0, 0x0, 0x0⟩,
  ⟨"IDE_EXIT", 0xC0, 1, 0x1000, 1, 0x4, .rwl, 0xFFFFFFFF, 0x0, 0x0, 0x0⟩,
  ⟨"DE_DWELL", 0xC4, 1, 0x1000, 1, 0x4, .rwl, 0xFFFF, 0x0, 0x0, 0x0⟩,
  ⟨"KBAL", 0xC8, 1, 0x1000, 1, 0x4, .rwl, 0xFFFFFFFF, 0x0, 0x0, 0x0⟩,
  ⟨"TRIM_MAX", 0xCC, 1, 0x1000, 1, 0x4, .rwl, 0xFFFFFFFF, 0x0, 0x0, 0x0⟩,
  ⟨"HICCUP_CFG", 0xD0, 1, 0x1000, 1, 0x4, .rwl, 0xFFFFFFFF, 0x0, 0x0, 0x0⟩,
  ⟨"PHASE_BASE", 0xD4, 1, 0x1000, 1, 0x4, .rwl, 0xFFFFFF, 0x0, 0x0, 0x0⟩,
  ⟨"AVS_CFG", 0xD8, 1, 0x1000, 1, 0x4, .rwl, 0x1F, 0x0, 0x0, 0x0⟩,
  ⟨"RING_CFG", 0xDC, 1, 0x1000, 1, 0x4, .rwl, 0xFFF303FF, 0x0, 0x0, 0x0⟩] ++ [
  ⟨"VSET", 0xE0, 1, 0x1000, 1, 0x4, .rw, 0xFFFFFFFF, 0x0, 0x0, 0x0⟩,
  ⟨"CTL", 0xE4, 1, 0x1000, 1, 0x4, .none, 0x0, 0x0, 0x3, 0x0⟩,
  ⟨"STAT", 0xE8, 1, 0x1000, 1, 0x4, .none, 0x0, 0x1000000, 0x0, 0x0⟩,
  ⟨"TARGET", 0xEC, 1, 0x1000, 1, 0x4, .none, 0x0, 0x0, 0x0, 0x0⟩,
  ⟨"VREF", 0xF0, 1, 0x1000, 1, 0x4, .none, 0x0, 0x0, 0x0, 0x0⟩,
  ⟨"VOUT", 0xF4, 1, 0x1000, 1, 0x4, .none, 0x0, 0x0, 0x0, 0x0⟩,
  ⟨"IOUT", 0xF8, 1, 0x1000, 1, 0x4, .none, 0x0, 0x0, 0x0, 0x0⟩,
  ⟨"ACTIVE", 0xFC, 1, 0x1000, 1, 0x4, .none, 0x0, 0x0, 0x0, 0x0⟩,
  ⟨"CNT", 0x100, 1, 0x1000, 1, 0x4, .none, 0x0, 0x0, 0x0, 0x0⟩,
  ⟨"CNT2", 0x104, 1, 0x1000, 1, 0x4, .none, 0x0, 0x0, 0x0, 0x0⟩,
  ⟨"PMB_CFG", 0x108, 1, 0x1000, 1, 0x4, .rwl, 0x11FFF, 0x0, 0x0, 0x0⟩,
  ⟨"MON_SETS", 0x110, 1, 0x1000, 1, 0x4, .rwl, 0xFFFF, 0x0, 0x0, 0x0⟩,
  ⟨"MON_CTL", 0x114, 1, 0x1000, 1, 0x4, .none, 0x0, 0x0, 0x1, 0x0⟩,
  ⟨"MON_STAT", 0x118, 1, 0x1000, 1, 0x4, .none, 0x0, 0x0, 0x0, 0x0⟩,
  ⟨"TRIM", 0x180, 1, 0x1000, 24, 0x4, .none, 0x0, 0x0, 0x0, 0x0⟩]

/-- R316. -/
def regsMtr : List RegRow := [
  ⟨"CFG", 0x40, 1, 0x1000, 1, 0x4, .rwl, 0x7F, 0x0, 0x0, 0x0⟩,
  ⟨"VMIN_SYNC", 0x44, 1, 0x1000, 1, 0x4, .rwl, 0xFFFFFFFF, 0x0, 0x0, 0x0⟩,
  ⟨"ISTART", 0x48, 1, 0x1000, 1, 0x4, .rwl, 0xFFFFFFFF, 0x0, 0x0, 0x0⟩,
  ⟨"DETECT", 0x4C, 1, 0x1000, 1, 0x4, .rwl, 0xFFFF, 0x0, 0x0, 0x0⟩,
  ⟨"CTL", 0x50, 1, 0x1000, 1, 0x4, .none, 0x0, 0x0, 0x7, 0x0⟩,
  ⟨"STAT", 0x54, 1, 0x1000, 1, 0x4, .none, 0x0, 0x10000, 0x0, 0x0⟩,
  ⟨"PRESET_SEL", 0x58, 1, 0x1000, 1, 0x4, .rwl, 0x7, 0x0, 0x0, 0x0⟩,
  ⟨"PRESET_LO", 0x5C, 1, 0x1000, 1, 0x4, .rwl, 0xFFFFFFFF, 0x0, 0x0, 0x0⟩,
  ⟨"PRESET_HI", 0x60, 1, 0x1000, 1, 0x4, .rwl, 0xFFFF, 0x0, 0x0, 0x0⟩,
  ⟨"PULSE_CFG", 0x64, 1, 0x1000, 1, 0x4, .rwl, 0x1FF73, 0x0, 0x0, 0x0⟩,
  ⟨"PULSE_K", 0x68, 1, 0x1000, 1, 0x4, .rwl, 0xFFFFF, 0x0, 0x0, 0x3E8⟩,
  ⟨"PULSE_STAT", 0x6C, 1, 0x1000, 1, 0x4, .none, 0x0, 0x0, 0x0, 0x0⟩,
  ⟨"CYC_CNT", 0x80, 1, 0x1000, 1, 0x4, .none, 0x0, 0x0, 0x0, 0x0⟩,
  ⟨"CYC_LEN", 0x84, 1, 0x1000, 1, 0x4, .none, 0x0, 0x0, 0x0, 0x0⟩,
  ⟨"CYC_FLAGS", 0x88, 1, 0x1000, 1, 0x4, .none, 0x0, 0x0, 0x0, 0x0⟩,
  ⟨"TS_LO", 0x8C, 1, 0x1000, 1, 0x4, .none, 0x0, 0x0, 0x0, 0x0⟩,
  ⟨"TS_HI", 0x90, 1, 0x1000, 1, 0x4, .none, 0x0, 0x0, 0x0, 0x0⟩,
  ⟨"FREQ", 0x94, 1, 0x1000, 1, 0x4, .none, 0x0, 0x0, 0x0, 0x0⟩,
  ⟨"VRMS_A", 0x98, 1, 0x1000, 1, 0x4, .none, 0x0, 0x0, 0x0, 0x0⟩,
  ⟨"VRMS_B", 0x9C, 1, 0x1000, 1, 0x4, .none, 0x0, 0x0, 0x0, 0x0⟩,
  ⟨"VRMS_C", 0xA0, 1, 0x1000, 1, 0x4, .none, 0x0, 0x0, 0x0, 0x0⟩,
  ⟨"IRMS_A", 0xA4, 1, 0x1000, 1, 0x4, .none, 0x0, 0x0, 0x0, 0x0⟩,
  ⟨"IRMS_B", 0xA8, 1, 0x1000, 1, 0x4, .none, 0x0, 0x0, 0x0, 0x0⟩,
  ⟨"IRMS_C", 0xAC, 1, 0x1000, 1, 0x4, .none, 0x0, 0x0, 0x0, 0x0⟩,
  ⟨"P_A", 0xB0, 1, 0x1000, 1, 0x4, .none, 0x0, 0x0, 0x0, 0x0⟩,
  ⟨"P_B", 0xB4, 1, 0x1000, 1, 0x4, .none, 0x0, 0x0, 0x0, 0x0⟩,
  ⟨"P_C", 0xB8, 1, 0x1000, 1, 0x4, .none, 0x0, 0x0, 0x0, 0x0⟩,
  ⟨"P_TOT", 0xBC, 1, 0x1000, 1, 0x4, .none, 0x0, 0x0, 0x0, 0x0⟩,
  ⟨"Q_TOT", 0xC0, 1, 0x1000, 1, 0x4, .none, 0x0, 0x0, 0x0, 0x0⟩,
  ⟨"S_TOT", 0xC4, 1, 0x1000, 1, 0x4, .none, 0x0, 0x0, 0x0, 0x0⟩] ++ [
  ⟨"PF_TOT", 0xC8, 1, 0x1000, 1, 0x4, .none, 0x0, 0x0, 0x0, 0x0⟩,
  ⟨"ANG_VB", 0xCC, 1, 0x1000, 1, 0x4, .none, 0x0, 0x0, 0x0, 0x0⟩,
  ⟨"ANG_VC", 0xD0, 1, 0x1000, 1, 0x4, .none, 0x0, 0x0, 0x0, 0x0⟩,
  ⟨"ANG_IA", 0xD4, 1, 0x1000, 1, 0x4, .none, 0x0, 0x0, 0x0, 0x0⟩,
  ⟨"ANG_IB", 0xD8, 1, 0x1000, 1, 0x4, .none, 0x0, 0x0, 0x0, 0x0⟩,
  ⟨"ANG_IC", 0xDC, 1, 0x1000, 1, 0x4, .none, 0x0, 0x0, 0x0, 0x0⟩,
  ⟨"CYC_IMP", 0xE0, 1, 0x1000, 1, 0x4, .none, 0x0, 0x0, 0x0, 0x0⟩,
  ⟨"CYC_EXP", 0xE4, 1, 0x1000, 1, 0x4, .none, 0x0, 0x0, 0x0, 0x0⟩,
  ⟨"SEG", 0xE8, 1, 0x1000, 1, 0x4, .none, 0x0, 0x0, 0x0, 0x0⟩,
  ⟨"E_LO", 0x100, 1, 0x1000, 7, 0x8, .none, 0x0, 0x0, 0x0, 0x0⟩,
  ⟨"E_HI", 0x104, 1, 0x1000, 7, 0x8, .none, 0x0, 0x0, 0x0, 0x0⟩,
  ⟨"E_WRAP", 0x140, 1, 0x1000, 1, 0x4, .none, 0x0, 0x7F, 0x0, 0x0⟩,
  ⟨"CH_SCALE", 0x200, 1, 0x1000, 6, 0x80, .rwl, 0xFFFFFFFF, 0x0, 0x0, 0x0⟩,
  ⟨"CH_DELAY", 0x204, 1, 0x1000, 6, 0x80, .rwl, 0xFFFFFFFF, 0x0, 0x0, 0x0⟩,
  ⟨"CH_SEGV", 0x208, 1, 0x1000, 6, 0x80, .rwl, 0xFF, 0x0, 0x0, 0x0⟩,
  ⟨"CH_TOP", 0x210, 6, 0x80, 8, 0xC, .rwl, 0xFFFFFFFF, 0x0, 0x0, 0x0⟩,
  ⟨"CH_GAIN", 0x214, 6, 0x80, 8, 0xC, .rwl, 0xFFFFFFFF, 0x0, 0x0, 0x3F800000⟩,
  ⟨"CH_PHASE", 0x218, 6, 0x80, 8, 0xC, .rwl, 0xFFFFFFFF, 0x0, 0x0, 0x0⟩]

/-- R350. -/
def regsRing : List RegRow := [
  ⟨"CFG", 0x40, 1, 0x1000, 1, 0x4, .rwl, 0x1FF03FF, 0x0, 0x0, 0xC80200⟩,
  ⟨"CTL", 0x44, 1, 0x1000, 1, 0x4, .none, 0x0, 0x0, 0x7, 0x0⟩,
  ⟨"LINK_CFG", 0x48, 1, 0x1000, 1, 0x4, .rwl, 0xFFFFFFFF, 0x0, 0x0, 0x641004⟩,
  ⟨"LINK_STAT", 0x4C, 1, 0x1000, 1, 0x4, .none, 0x0, 0x100, 0x0, 0x0⟩,
  ⟨"CNT_ERR", 0x50, 1, 0x1000, 1, 0x4, .none, 0x0, 0x0, 0x0, 0x0⟩,
  ⟨"CNT_DROP", 0x54, 1, 0x1000, 1, 0x4, .none, 0x0, 0x0, 0x0, 0x0⟩,
  ⟨"CNT_MISC", 0x58, 1, 0x1000, 1, 0x4, .none, 0x0, 0x0, 0x0, 0x0⟩,
  ⟨"CNT_FWD", 0x5C, 1, 0x1000, 1, 0x4, .none, 0x0, 0x0, 0x0, 0x0⟩,
  ⟨"CNT_RX", 0x60, 1, 0x1000, 1, 0x4, .none, 0x0, 0x0, 0x0, 0x0⟩,
  ⟨"CNT_TX", 0x64, 1, 0x1000, 1, 0x4, .none, 0x0, 0x0, 0x0, 0x0⟩,
  ⟨"CNT_WRAP", 0x68, 1, 0x1000, 1, 0x4, .none, 0x0, 0x0, 0x0, 0x0⟩,
  ⟨"SFP_CTL", 0x70, 1, 0x1000, 1, 0x4, .rw, 0x1FFFF, 0x0, 0x20000, 0x3E8⟩,
  ⟨"SFP_STAT", 0x74, 1, 0x1000, 1, 0x4, .none, 0x0, 0x0, 0x0, 0x0⟩,
  ⟨"SFP_ADDR", 0x78, 1, 0x1000, 1, 0x4, .rw, 0x1FF, 0x0, 0x0, 0x0⟩,
  ⟨"SFP_DATA", 0x7C, 1, 0x1000, 1, 0x4, .none, 0x0, 0x0, 0x0, 0x0⟩,
  ⟨"SFP_DDM", 0x80, 1, 0x1000, 3, 0x4, .none, 0x0, 0x0, 0x0, 0x0⟩,
  ⟨"STR_SEL", 0xA0, 1, 0x1000, 1, 0x4, .rw, 0x3FF, 0x0, 0x0, 0x0⟩,
  ⟨"STR_CFG", 0xA4, 1, 0x1000, 1, 0x4, .rwl, 0xF773, 0x0, 0x0, 0x0⟩,
  ⟨"STR_PEER", 0xA8, 1, 0x1000, 1, 0x4, .rwl, 0x3FF00FF, 0x0, 0x0, 0x0⟩,
  ⟨"STR_BUF", 0xAC, 1, 0x1000, 1, 0x4, .rwl, 0xFF0FFF, 0x0, 0x0, 0x0⟩,
  ⟨"STR_RETRY", 0xB0, 1, 0x1000, 1, 0x4, .rwl, 0xFFFF0FFF, 0x0, 0x0, 0x0⟩,
  ⟨"STR_STAT", 0xB4, 1, 0x1000, 1, 0x4, .none, 0x0, 0x20, 0x0, 0x0⟩,
  ⟨"STR_SEQ", 0xB8, 1, 0x1000, 1, 0x4, .none, 0x0, 0x0, 0x0, 0x0⟩,
  ⟨"STR_PTR", 0xBC, 1, 0x1000, 1, 0x4, .rw, 0xFFFF, 0x0, 0x0, 0x0⟩,
  ⟨"STR_CTL", 0xC0, 1, 0x1000, 1, 0x4, .none, 0x0, 0x0, 0x7, 0x0⟩,
  ⟨"STR_CNT", 0xC4, 1, 0x1000, 1, 0x4, .none, 0x0, 0x0, 0x0, 0x0⟩,
  ⟨"RMEM_ADDR", 0xD0, 1, 0x1000, 1, 0x4, .rw, 0xFFFF, 0x0, 0x0, 0x0⟩,
  ⟨"RMEM_DATA", 0xD4, 1, 0x1000, 1, 0x4, .rw, 0xFFFFFFFF, 0x0, 0x0, 0x0⟩,
  ⟨"BROKEN", 0x100, 1, 0x1000, 32, 0x4, .none, 0x0, 0x0, 0x0, 0x0⟩]

/-- R378. -/
def regsDatum : List RegRow := [
  ⟨"CFG", 0x40, 1, 0x1000, 1, 0x4, .rwl, 0xFFFFFF01, 0x0, 0x0, 0x0⟩,
  ⟨"EXCH", 0x44, 1, 0x1000, 1, 0x4, .rwl, 0xFF0FFFFF, 0x0, 0x0, 0x803007D⟩,
  ⟨"KP", 0x48, 1, 0x1000, 1, 0x4, .rwl, 0xFFFFFFFF, 0x0, 0x0, 0x3E000000⟩,
  ⟨"KI", 0x4C, 1, 0x1000, 1, 0x4, .rwl, 0xFFFFFFFF, 0x0, 0x0, 0x3B83126F⟩,
  ⟨"ASYM_A", 0x50, 1, 0x1000, 1, 0x4, .rwl, 0xFFFFFFFF, 0x0, 0x0, 0x0⟩,
  ⟨"ASYM_B", 0x54, 1, 0x1000, 1, 0x4, .rwl, 0xFFFFFFFF, 0x0, 0x0, 0x0⟩,
  ⟨"DECL_A", 0x58, 1, 0x1000, 1, 0x4, .rwl, 0xFFFFFFFF, 0x0, 0x0, 0x0⟩,
  ⟨"DECL_B", 0x5C, 1, 0x1000, 1, 0x4, .rwl, 0xFFFFFFFF, 0x0, 0x0, 0x0⟩,
  ⟨"TOL", 0x60, 1, 0x1000, 1, 0x4, .rwl, 0xFFFFFFFF, 0x0, 0x0, 0x7D001F4⟩,
  ⟨"STEP_TH", 0x64, 1, 0x1000, 1, 0x4, .rwl, 0xFFFFFFFF, 0x0, 0x0, 0x3E80⟩,
  ⟨"CYC_LEN", 0x68, 1, 0x1000, 1, 0x4, .rwl, 0xFFFFFFFF, 0x0, 0x0, 0xF42400⟩,
  ⟨"CYC_AT", 0x6C, 1, 0x1000, 1, 0x4, .rwl, 0xFFFFFFFF, 0x0, 0x0, 0x0⟩,
  ⟨"BM_TRIM", 0x70, 1, 0x1000, 1, 0x4, .rwl, 0xFFFFFFFF, 0x0, 0x0, 0x0⟩,
  ⟨"BM_START_LO", 0x74, 1, 0x1000, 1, 0x4, .rwl, 0xFFFFFFFF, 0x0, 0x0, 0x0⟩,
  ⟨"BM_START_HI", 0x78, 1, 0x1000, 1, 0x4, .rwl, 0xFFFFFFFF, 0x0, 0x0, 0x0⟩,
  ⟨"CTL", 0x7C, 1, 0x1000, 1, 0x4, .none, 0x0, 0x0, 0x7, 0x0⟩,
  ⟨"STAT", 0x80, 1, 0x1000, 1, 0x4, .none, 0x0, 0x0, 0x0, 0xFFFF0000⟩,
  ⟨"TIME_LO", 0x84, 1, 0x1000, 1, 0x4, .none, 0x0, 0x0, 0x0, 0x0⟩,
  ⟨"TIME_HI", 0x88, 1, 0x1000, 1, 0x4, .none, 0x0, 0x0, 0x0, 0x0⟩,
  ⟨"CYCLE", 0x8C, 1, 0x1000, 1, 0x4, .none, 0x0, 0x0, 0x0, 0x0⟩,
  ⟨"CYC_POS", 0x90, 1, 0x1000, 1, 0x4, .none, 0x0, 0x0, 0x0, 0x0⟩,
  ⟨"OFFSET", 0x94, 1, 0x1000, 1, 0x4, .none, 0x0, 0x0, 0x0, 0x0⟩,
  ⟨"RATE", 0x98, 1, 0x1000, 1, 0x4, .none, 0x0, 0x0, 0x0, 0x0⟩,
  ⟨"DLY_A", 0x9C, 1, 0x1000, 1, 0x4, .none, 0x0, 0x0, 0x0, 0x0⟩,
  ⟨"DLY_B", 0xA0, 1, 0x1000, 1, 0x4, .none, 0x0, 0x0, 0x0, 0x0⟩,
  ⟨"CLOSURE", 0xA4, 1, 0x1000, 1, 0x4, .none, 0x0, 0x0, 0x0, 0x0⟩,
  ⟨"PATH", 0xA8, 1, 0x1000, 1, 0x4, .none, 0x0, 0x0, 0x0, 0x0⟩,
  ⟨"RING_LAT", 0xAC, 1, 0x1000, 1, 0x4, .none, 0x0, 0x0, 0x0, 0x0⟩,
  ⟨"BM_INFO", 0xB0, 1, 0x1000, 1, 0x4, .none, 0x0, 0x0, 0x0, 0x0⟩,
  ⟨"CNT", 0xB4, 1, 0x1000, 1, 0x4, .none, 0x0, 0x0, 0x0, 0x0⟩] ++ [
  ⟨"SYN_CFG", 0xC0, 1, 0x1000, 1, 0x4, .rwl, 0xFFFFFFF7, 0x0, 0x0, 0x140500⟩,
  ⟨"SYN_STAT", 0xC4, 1, 0x1000, 1, 0x4, .none, 0x0, 0x0, 0x0, 0x0⟩,
  ⟨"SCHED_CFG", 0xD0, 1, 0x1000, 1, 0x4, .rwl, 0x3, 0x0, 0x0, 0x1⟩,
  ⟨"WIN_A", 0x100, 1, 0x1000, 8, 0x4, .rwl, 0xBFFF3FFF, 0x0, 0x0, 0x0⟩,
  ⟨"WIN_B", 0x120, 1, 0x1000, 8, 0x4, .rwl, 0xBFFF3FFF, 0x0, 0x0, 0x0⟩]

/-- R411. -/
def regsPlumb : List RegRow := [
  ⟨"STAT", 0x40, 1, 0x1000, 1, 0x4, .none, 0x0, 0x0, 0x0, 0x1⟩,
  ⟨"SPO_SRC", 0x44, 1, 0x1000, 1, 0x4, .none, 0x0, 0x0, 0x0, 0x1⟩,
  ⟨"SPO_FIRST", 0x48, 1, 0x1000, 1, 0x4, .none, 0x0, 0x0, 0x0, 0x1⟩,
  ⟨"SPO_CTL", 0x4C, 1, 0x1000, 1, 0x4, .none, 0x0, 0x100, 0x3, 0x0⟩,
  ⟨"FRZ_CFG", 0x50, 1, 0x1000, 1, 0x4, .rwl, 0xFFFF, 0x0, 0x0, 0x3E8⟩,
  ⟨"SIN_CFG", 0x60, 1, 0x1000, 1, 0x4, .rwl, 0xFFFF, 0x0, 0x0, 0x0⟩,
  ⟨"SIN_DISC", 0x64, 1, 0x1000, 1, 0x4, .rwl, 0xFFFF, 0x0, 0x0, 0x0⟩,
  ⟨"SIN_ACT", 0x68, 1, 0x1000, 1, 0x4, .rwl, 0xFFFFF, 0x0, 0x0, 0x0⟩,
  ⟨"SIN_STAT", 0x6C, 1, 0x1000, 1, 0x4, .none, 0x0, 0x0, 0x0, 0x0⟩,
  ⟨"SOUT_CFG", 0x70, 1, 0x1000, 4, 0x4, .rwl, 0xFFFFFF7F, 0x0, 0x0, 0x0⟩,
  ⟨"SOUT_STAT", 0x80, 1, 0x1000, 1, 0x4, .none, 0x0, 0x0, 0x0, 0x0⟩,
  ⟨"SOUT_CTL", 0x84, 1, 0x1000, 1, 0x4, .none, 0x0, 0x0, 0xFFFF, 0x0⟩,
  ⟨"SOUT_CNT", 0x88, 1, 0x1000, 1, 0x4, .none, 0x0, 0x0, 0x0, 0x0⟩,
  ⟨"SAIN_CFG", 0x90, 1, 0x1000, 1, 0x4, .rwl, 0xFFFF, 0x0, 0x0, 0x0⟩,
  ⟨"SAIN_TOL", 0x94, 1, 0x1000, 1, 0x4, .rwl, 0xFFF, 0x0, 0x0, 0x0⟩,
  ⟨"SAIN_ACT", 0x98, 1, 0x1000, 1, 0x4, .rwl, 0xF3FFFF, 0x0, 0x0, 0x0⟩,
  ⟨"SAIN_STAT", 0x9C, 1, 0x1000, 1, 0x4, .none, 0x0, 0x0, 0x0, 0x0⟩,
  ⟨"SAIN_LIM", 0xA0, 1, 0x1000, 8, 0x4, .rwl, 0xFFFFFFFF, 0x0, 0x0, 0x0⟩,
  ⟨"SAIN_VAL", 0xC0, 1, 0x1000, 8, 0x4, .none, 0x0, 0x0, 0x0, 0x0⟩,
  ⟨"SAD_CFG", 0xF0, 1, 0x1000, 1, 0x4, .rwl, 0xF71F, 0x0, 0x0, 0x0⟩,
  ⟨"SAD_P", 0xF4, 1, 0x1000, 1, 0x4, .rwl, 0xFFFFFFFF, 0x0, 0x0, 0x0⟩,
  ⟨"SAD_TIME", 0xF8, 1, 0x1000, 1, 0x4, .rwl, 0xFFFFFFFF, 0x0, 0x0, 0x0⟩,
  ⟨"SAD_CTL", 0xFC, 1, 0x1000, 1, 0x4, .none, 0x0, 0x0, 0x7, 0x0⟩,
  ⟨"SAD_STAT", 0x100, 1, 0x1000, 1, 0x4, .none, 0x0, 0x0, 0x0, 0x0⟩,
  ⟨"PW_DATA", 0x110, 1, 0x1000, 1, 0x4, .wo, 0xFFFFFFFF, 0x0, 0x0, 0x0⟩,
  ⟨"PW_CMD", 0x114, 1, 0x1000, 1, 0x4, .none, 0x0, 0x0, 0x3F07, 0x0⟩,
  ⟨"PW_STAT", 0x118, 1, 0x1000, 1, 0x4, .none, 0x0, 0x0, 0x0, 0x0⟩,
  ⟨"PW_CFG", 0x11C, 1, 0x1000, 1, 0x4, .rwl, 0xFFFF, 0x0, 0x0, 0x258⟩,
  ⟨"FB_STAT", 0x120, 1, 0x1000, 1, 0x4, .none, 0x0, 0x0, 0x0, 0x0⟩,
  ⟨"FB_ADDR", 0x124, 1, 0x1000, 1, 0x4, .rw, 0x1FFF, 0x0, 0x0, 0x0⟩] ++ [
  ⟨"FB_DATA", 0x128, 1, 0x1000, 1, 0x4, .none, 0x0, 0x0, 0x0, 0x0⟩]

/-- R414. -/
def regsPch : List RegRow := [
  ⟨"CONN_CFG", 0x100, 1, 0x1000, 8, 0x40, .rwl, 0x3F1FFFF1, 0x0, 0x0, 0x0⟩,
  ⟨"CONN_ID", 0x104, 1, 0x1000, 8, 0x40, .rwl, 0xFFFFFFFF, 0x0, 0x0, 0x0⟩,
  ⟨"CONN_TIME", 0x108, 1, 0x1000, 8, 0x40, .rwl, 0xFFFFFFFF, 0x0, 0x0, 0x0⟩,
  ⟨"CONN_PER", 0x10C, 1, 0x1000, 8, 0x40, .rwl, 0xFFFFFF, 0x0, 0x0, 0x0⟩,
  ⟨"CONN_CTL", 0x110, 1, 0x1000, 8, 0x40, .none, 0x0, 0x0, 0x3, 0x0⟩,
  ⟨"CONN_STAT", 0x114, 1, 0x1000, 8, 0x40, .none, 0x0, 0x0, 0x0, 0x0⟩,
  ⟨"CONN_SEQ", 0x118, 1, 0x1000, 8, 0x40, .none, 0x0, 0x0, 0x0, 0x0⟩,
  ⟨"CONN_CNT", 0x11C, 1, 0x1000, 8, 0x40, .none, 0x0, 0x0, 0x0, 0x0⟩,
  ⟨"CONN_RX_SAFE", 0x120, 1, 0x1000, 8, 0x40, .none, 0x0, 0x0, 0x0, 0x1F⟩,
  ⟨"CONN_APP", 0x124, 8, 0x40, 4, 0x4, .rw, 0xFFFFFFFF, 0x0, 0x0, 0x0⟩]

/-- R432. -/
def regsPair : List RegRow := [
  ⟨"CFG", 0x40, 1, 0x1000, 1, 0x4, .rwl, 0x1F0F, 0x0, 0x0, 0x0⟩,
  ⟨"HB", 0x44, 1, 0x1000, 1, 0x4, .rwl, 0xFFFFFFFF, 0x0, 0x0, 0x1F40064⟩,
  ⟨"TIMES", 0x48, 1, 0x1000, 1, 0x4, .rwl, 0xFFFFFFFF, 0x0, 0x0, 0x640000⟩,
  ⟨"HEAL", 0x4C, 1, 0x1000, 1, 0x4, .rwl, 0xFFFFFFFF, 0x0, 0x0, 0x5000A⟩,
  ⟨"RING", 0x50, 1, 0x1000, 1, 0x4, .rwl, 0x3FF03FF, 0x0, 0x0, 0x0⟩,
  ⟨"LEGS", 0x54, 1, 0x1000, 3, 0x4, .rwl, 0xFFFFFFFF, 0x0, 0x0, 0x0⟩,
  ⟨"PH", 0x60, 1, 0x1000, 1, 0x4, .rwl, 0xFFFF, 0x0, 0x0, 0x0⟩,
  ⟨"LANES", 0x64, 1, 0x1000, 1, 0x4, .rwl, 0xFFFFFFFF, 0x0, 0x0, 0x0⟩,
  ⟨"CKPT_CFG", 0x68, 1, 0x1000, 1, 0x4, .rwl, 0xFF001F, 0x0, 0x0, 0x0⟩,
  ⟨"CKPT_SW", 0x6C, 1, 0x1000, 1, 0x4, .rwl, 0x3FFF00, 0x0, 0x0, 0x0⟩,
  ⟨"CKPT_MAP", 0x70, 1, 0x1000, 8, 0x4, .rwl, 0xFFFFFFFF, 0x0, 0x0, 0x0⟩,
  ⟨"CTL", 0x90, 1, 0x1000, 1, 0x4, .none, 0x0, 0x0, 0xF, 0x0⟩,
  ⟨"STAT", 0x94, 1, 0x1000, 1, 0x4, .none, 0x0, 0x0, 0x0, 0x0⟩,
  ⟨"PEER", 0x98, 1, 0x1000, 1, 0x4, .none, 0x0, 0x0, 0x0, 0x0⟩,
  ⟨"CKPT_TX", 0x9C, 1, 0x1000, 1, 0x4, .none, 0x0, 0x0, 0x0, 0x0⟩,
  ⟨"CKPT_RX", 0xA0, 1, 0x1000, 1, 0x4, .none, 0x0, 0x0, 0x0, 0x0⟩,
  ⟨"CKPT_AGE", 0xA4, 1, 0x1000, 1, 0x4, .none, 0x0, 0x0, 0x0, 0xFFFF⟩,
  ⟨"CNT", 0xA8, 1, 0x1000, 1, 0x4, .none, 0x0, 0x0, 0x0, 0x0⟩,
  ⟨"CNT2", 0xAC, 1, 0x1000, 1, 0x4, .none, 0x0, 0x0, 0x0, 0x0⟩]

/-- R510. -/
def regsValley : List RegRow := [
  ⟨"CFG", 0x40, 1, 0x1000, 1, 0x4, .rwl, 0xFFFFF3, 0x0, 0x0, 0x806401⟩,
  ⟨"CSTORE", 0x44, 1, 0x1000, 1, 0x4, .rwl, 0xFFFFFF, 0x0, 0x0, 0x0⟩,
  ⟨"RESERVE", 0x48, 1, 0x1000, 1, 0x4, .rwl, 0xFFFFFF, 0x0, 0x0, 0x0⟩,
  ⟨"STAT", 0x4C, 1, 0x1000, 1, 0x4, .none, 0x0, 0x20, 0x0, 0x20⟩,
  ⟨"VSTORE", 0x50, 1, 0x1000, 1, 0x4, .none, 0x0, 0x0, 0x0, 0x0⟩,
  ⟨"BUDGET", 0x54, 1, 0x1000, 1, 0x4, .none, 0x0, 0x0, 0x0, 0x0⟩,
  ⟨"GRANTED", 0x58, 1, 0x1000, 1, 0x4, .none, 0x0, 0x0, 0x0, 0x0⟩,
  ⟨"BURST_REQ", 0x5C, 1, 0x1000, 1, 0x4, .rw, 0xFFFFFF, 0x0, 0x0, 0x0⟩,
  ⟨"BURST_STAT", 0x60, 1, 0x1000, 1, 0x4, .none, 0x0, 0x0, 0x0, 0x0⟩,
  ⟨"CNT", 0x64, 1, 0x1000, 1, 0x4, .none, 0x0, 0x0, 0x0, 0x0⟩,
  ⟨"HV_OC", 0x68, 1, 0x1000, 1, 0x4, .none, 0x0, 0x0, 0x0, 0x0⟩,
  ⟨"RTC_LO", 0x70, 1, 0x1000, 1, 0x4, .none, 0x0, 0x0, 0x0, 0x0⟩,
  ⟨"RTC_HI", 0x74, 1, 0x1000, 1, 0x4, .none, 0x0, 0x0, 0x0, 0x0⟩,
  ⟨"RTC_SET_LO", 0x78, 1, 0x1000, 1, 0x4, .rwl, 0xFFFFFFFF, 0x0, 0x0, 0x0⟩,
  ⟨"RTC_SET_HI", 0x7C, 1, 0x1000, 1, 0x4, .rwl, 0xFFFFFFFF, 0x0, 0x0, 0x0⟩,
  ⟨"RTC_TRIM", 0x80, 1, 0x1000, 1, 0x4, .rwl, 0xFF, 0x0, 0x0, 0x0⟩,
  ⟨"RTC_STAT", 0x84, 1, 0x1000, 1, 0x4, .none, 0x0, 0x0, 0x0, 0x0⟩,
  ⟨"CTL", 0x88, 1, 0x1000, 1, 0x4, .none, 0x0, 0x0, 0x7, 0x0⟩]

/-- R535. -/
def regsNvm : List RegRow := [
  ⟨"WPROT", 0x40, 1, 0x1000, 1, 0x4, .rwl, 0x1, 0x0, 0x0, 0x0⟩,
  ⟨"STAT", 0x44, 1, 0x1000, 1, 0x4, .none, 0x0, 0x0, 0x0, 0x0⟩,
  ⟨"CE_CNT", 0x48, 1, 0x1000, 1, 0x4, .none, 0x0, 0x0, 0x0, 0x0⟩,
  ⟨"UE_CNT", 0x4C, 1, 0x1000, 1, 0x4, .none, 0x0, 0x0, 0x0, 0x0⟩,
  ⟨"UE_ADDR", 0x50, 1, 0x1000, 1, 0x4, .none, 0x0, 0x0, 0x0, 0x0⟩,
  ⟨"WR_CNT", 0x54, 1, 0x1000, 1, 0x4, .none, 0x0, 0x0, 0x0, 0x0⟩]

/-- R537. -/
def regsPmc : List RegRow := [
  ⟨"CTL", 0x40, 1, 0x1000, 1, 0x4, .rw, 0x7, 0x0, 0x0, 0x0⟩,
  ⟨"CL_STAT", 0x44, 1, 0x1000, 1, 0x4, .none, 0x0, 0x0, 0x0, 0xF0⟩,
  ⟨"WDT_CFG", 0x48, 1, 0x1000, 1, 0x4, .rwl, 0x1FFFF, 0x0, 0x0, 0x0⟩,
  ⟨"WDT_KICK", 0x4C, 1, 0x1000, 1, 0x4, .none, 0x0, 0x0, 0xF, 0x0⟩,
  ⟨"SRAM_CFG", 0x50, 1, 0x1000, 1, 0x4, .rw, 0xFF, 0x0, 0x0, 0x1⟩,
  ⟨"SRAM_CE", 0x54, 1, 0x1000, 1, 0x4, .none, 0x0, 0x0, 0x0, 0x0⟩,
  ⟨"SRAM_UE", 0x58, 1, 0x1000, 1, 0x4, .none, 0x0, 0x0, 0x0, 0x0⟩,
  ⟨"SRAM_UE_ADDR", 0x5C, 1, 0x1000, 1, 0x4, .none, 0x0, 0x0, 0x0, 0x0⟩,
  ⟨"OVF0", 0x60, 1, 0x1000, 1, 0x4, .none, 0x0, 0xFFFFFFFF, 0x0, 0x0⟩,
  ⟨"OVF1", 0x64, 1, 0x1000, 1, 0x4, .none, 0x0, 0xFFFFFFFF, 0x0, 0x0⟩,
  ⟨"OVF_INT_EN0", 0x68, 1, 0x1000, 1, 0x4, .rw, 0xFFFFFFFF, 0x0, 0x0, 0x0⟩,
  ⟨"OVF_INT_EN1", 0x6C, 1, 0x1000, 1, 0x4, .rw, 0xFFFFFFFF, 0x0, 0x0, 0x0⟩,
  ⟨"CTR_CFG", 0x100, 1, 0x1000, 64, 0x20, .rw, 0x7FF0FFF, 0x0, 0x0, 0x0⟩,
  ⟨"CTR_ALO", 0x104, 1, 0x1000, 64, 0x20, .rw, 0xFFFFFFFF, 0x0, 0x0, 0x0⟩,
  ⟨"CTR_AHI", 0x108, 1, 0x1000, 64, 0x20, .rw, 0xFFFFFFFF, 0x0, 0x0, 0x0⟩,
  ⟨"CTR_VAL_LO", 0x10C, 1, 0x1000, 64, 0x20, .rw, 0xFFFFFFFF, 0x0, 0x0, 0x0⟩,
  ⟨"CTR_VAL_HI", 0x110, 1, 0x1000, 64, 0x20, .rw, 0xFFFF, 0x0, 0x0, 0x0⟩]

/-- R540. -/
def regsDbg : List RegRow := [
  ⟨"CFG", 0x40, 1, 0x1000, 1, 0x4, .rwl, 0x7, 0x0, 0x0, 0x0⟩,
  ⟨"LANE_HALT", 0x44, 1, 0x1000, 1, 0x4, .rwl, 0xFFFFFFFF, 0x0, 0x0, 0x0⟩,
  ⟨"STAT", 0x48, 1, 0x1000, 1, 0x4, .none, 0x0, 0x0, 0x0, 0x0⟩]

/-- R555. -/
def regsUpd : List RegRow := [
  ⟨"CFG", 0x40, 1, 0x1000, 1, 0x4, .rwl, 0xFFFF0003, 0x0, 0x0, 0x3C0000⟩,
  ⟨"CTL", 0x44, 1, 0x1000, 1, 0x4, .none, 0x0, 0x0, 0xFF, 0x0⟩,
  ⟨"STAT", 0x48, 1, 0x1000, 1, 0x4, .none, 0x0, 0x0, 0x0, 0x0⟩,
  ⟨"PROGRESS", 0x4C, 1, 0x1000, 1, 0x4, .none, 0x0, 0x0, 0x0, 0x0⟩,
  ⟨"ACT_VER", 0x50, 1, 0x1000, 1, 0x4, .none, 0x0, 0x0, 0x0, 0x0⟩,
  ⟨"STG_VER", 0x54, 1, 0x1000, 1, 0x4, .none, 0x0, 0x0, 0x0, 0x0⟩,
  ⟨"SEC", 0x58, 1, 0x1000, 1, 0x4, .none, 0x0, 0x0, 0x0, 0x0⟩,
  ⟨"ACT_CHECK", 0x5C, 1, 0x1000, 1, 0x4, .none, 0x0, 0x0, 0x0, 0x0⟩,
  ⟨"STG_CHECK", 0x60, 1, 0x1000, 1, 0x4, .none, 0x0, 0x0, 0x0, 0x0⟩,
  ⟨"HO_AT", 0x64, 1, 0x1000, 1, 0x4, .rw, 0xFFFFFFFF, 0x0, 0x0, 0x0⟩,
  ⟨"HO_SRC", 0x68, 1, 0x1000, 1, 0x4, .rw, 0x3FFF, 0x0, 0x0, 0x0⟩,
  ⟨"HO_DST", 0x6C, 1, 0x1000, 1, 0x4, .rw, 0x3FFF, 0x0, 0x0, 0x0⟩,
  ⟨"HO_LEN", 0x70, 1, 0x1000, 1, 0x4, .rw, 0x7FF, 0x0, 0x0, 0x0⟩,
  ⟨"HO_CHECK", 0x74, 1, 0x1000, 1, 0x4, .none, 0x0, 0x0, 0x0, 0x0⟩,
  ⟨"SLOT_SRC", 0x78, 1, 0x1000, 1, 0x4, .rw, 0x3FFFFF, 0x0, 0x0, 0x0⟩,
  ⟨"SLOT_LEN", 0x7C, 1, 0x1000, 1, 0x4, .rw, 0xFFFFF, 0x0, 0x0, 0x0⟩,
  ⟨"SLOT_CRC", 0x80, 1, 0x1000, 1, 0x4, .rw, 0xFFFFFFFF, 0x0, 0x0, 0x0⟩,
  ⟨"SLOT_CMD", 0x84, 1, 0x1000, 1, 0x4, .none, 0x0, 0x0, 0x1, 0x0⟩,
  ⟨"SLOT_STAT", 0x88, 1, 0x1000, 1, 0x4, .none, 0x0, 0x0, 0x0, 0x0⟩,
  ⟨"GRANT_UJ", 0x8C, 1, 0x1000, 1, 0x4, .rw, 0xFFFFFF, 0x0, 0x0, 0x7D0⟩,
  ⟨"CNT", 0x90, 1, 0x1000, 1, 0x4, .none, 0x0, 0x0, 0x0, 0x0⟩,
  ⟨"DROP_WR", 0x94, 1, 0x1000, 1, 0x4, .none, 0x0, 0x0, 0x0, 0x0⟩,
  ⟨"BOOTREC", 0x98, 1, 0x1000, 1, 0x4, .none, 0x0, 0x0, 0x0, 0x0⟩]

/-- R591. -/
def regsEth : List RegRow := [
  ⟨"CFG", 0x40, 1, 4, 1, 4, .rw, 0x1FF, 0x0, 0x0, 0x0⟩,
  ⟨"MAC_LO", 0x44, 1, 4, 1, 4, .rw, 0xFFFFFFFF, 0x0, 0x0, 0x0⟩,
  ⟨"MAC_HI", 0x48, 1, 4, 1, 4, .rw, 0xFFFF, 0x0, 0x0, 0x0⟩,
  ⟨"STAT", 0x4C, 1, 4, 1, 4, .none, 0x0, 0x2, 0x0, 0x0⟩,
  ⟨"TX_BASE", 0x50, 1, 4, 1, 4, .rw, 0xFFFFFFFF, 0x0, 0x0, 0x0⟩,
  ⟨"TX_LEN", 0x54, 1, 4, 1, 4, .rw, 0xFFFFFFFF, 0x0, 0x0, 0x0⟩,
  ⟨"TX_TAIL", 0x58, 1, 4, 1, 4, .rw, 0xFFFFFFFF, 0x0, 0x0, 0x0⟩,
  ⟨"TX_HEAD", 0x5C, 1, 4, 1, 4, .none, 0x0, 0x0, 0x0, 0x0⟩,
  ⟨"RX_BASE", 0x60, 1, 4, 1, 4, .rw, 0xFFFFFFFF, 0x0, 0x0, 0x0⟩,
  ⟨"RX_LEN", 0x64, 1, 4, 1, 4, .rw, 0xFFFFFFFF, 0x0, 0x0, 0x0⟩,
  ⟨"RX_TAIL", 0x68, 1, 4, 1, 4, .rw, 0xFFFFFFFF, 0x0, 0x0, 0x0⟩,
  ⟨"RX_HEAD", 0x6C, 1, 4, 1, 4, .none, 0x0, 0x0, 0x0, 0x0⟩,
  ⟨"MDIO_CMD", 0x70, 1, 4, 1, 4, .rw, 0x7FF, 0x0, 0x800, 0x0⟩,
  ⟨"MDIO_DATA", 0x74, 1, 4, 1, 4, .rw, 0xFFFF, 0x0, 0x0, 0x0⟩,
  ⟨"CNT_RX_OK", 0x78, 1, 4, 1, 4, .none, 0x0, 0x0, 0x0, 0x0⟩,
  ⟨"CNT_RX_ERR", 0x7C, 1, 4, 1, 4, .none, 0x0, 0x0, 0x0, 0x0⟩,
  ⟨"CNT_TX_OK", 0x80, 1, 4, 1, 4, .none, 0x0, 0x0, 0x0, 0x0⟩,
  ⟨"CNT_DROP", 0x84, 1, 4, 1, 4, .none, 0x0, 0x0, 0x0, 0x0⟩]

/-- R591. -/
def regsGpio : List RegRow := [
  ⟨"DIR", 0x40, 1, 4, 1, 4, .rw, 0xFFFFFFFF, 0x0, 0x0, 0x0⟩,
  ⟨"OUT", 0x44, 1, 4, 1, 4, .rw, 0xFFFFFFFF, 0x0, 0x0, 0x0⟩,
  ⟨"SET", 0x48, 1, 4, 1, 4, .none, 0x0, 0x0, 0xFFFFFFFF, 0x0⟩,
  ⟨"CLR", 0x4C, 1, 4, 1, 4, .none, 0x0, 0xFFFFFFFF, 0x0, 0x0⟩,
  ⟨"IN", 0x50, 1, 4, 1, 4, .none, 0x0, 0x0, 0x0, 0x0⟩,
  ⟨"FUNC0", 0x54, 1, 4, 1, 4, .rw, 0xFFFFFFFF, 0x0, 0x0, 0x0⟩,
  ⟨"FUNC1", 0x58, 1, 4, 1, 4, .rw, 0xFFFFFFFF, 0x0, 0x0, 0x0⟩,
  ⟨"PULL0", 0x5C, 1, 4, 1, 4, .rw, 0xFFFFFFFF, 0x0, 0x0, 0xAAAAAAAA⟩,
  ⟨"PULL1", 0x60, 1, 4, 1, 4, .rw, 0xFFFFFFFF, 0x0, 0x0, 0xAAAAAAAA⟩,
  ⟨"EDGE_RISE", 0x64, 1, 4, 1, 4, .rw, 0xFFFFFFFF, 0x0, 0x0, 0x0⟩,
  ⟨"EDGE_FALL", 0x68, 1, 4, 1, 4, .rw, 0xFFFFFFFF, 0x0, 0x0, 0x0⟩]

/-- R591. -/
def regsI2c : List RegRow := [
  ⟨"CFG", 0x40, 1, 4, 1, 4, .rw, 0xFF03, 0x0, 0x0, 0x1900⟩,
  ⟨"CMD", 0x44, 1, 4, 1, 4, .none, 0x0, 0x0, 0x1F, 0x0⟩,
  ⟨"DATA", 0x48, 1, 4, 1, 4, .rw, 0xFF, 0x0, 0x0, 0x0⟩,
  ⟨"STAT", 0x4C, 1, 4, 1, 4, .none, 0x0, 0x0, 0x0, 0x0⟩]

/-- R591. -/
def regsSpi : List RegRow := [
  ⟨"CFG", 0x40, 1, 4, 1, 4, .rw, 0xFF0F, 0x0, 0x0, 0x1300⟩,
  ⟨"CS", 0x44, 1, 4, 1, 4, .rw, 0x1, 0x0, 0x0, 0x0⟩,
  ⟨"TXDATA", 0x48, 1, 4, 1, 4, .wo, 0xFF, 0x0, 0x0, 0x0⟩,
  ⟨"RXDATA", 0x4C, 1, 4, 1, 4, .none, 0x0, 0x0, 0x0, 0x0⟩,
  ⟨"STAT", 0x50, 1, 4, 1, 4, .none, 0x0, 0x20000, 0x0, 0x0⟩]

/-- R591. -/
def regsUart : List RegRow := [
  ⟨"CFG", 0x40, 1, 4, 1, 4, .rw, 0x1F, 0x0, 0x0, 0x0⟩,
  ⟨"BAUD", 0x44, 1, 4, 1, 4, .rw, 0xFFFFF, 0x0, 0x0, 0x1531⟩,
  ⟨"TX", 0x48, 1, 4, 1, 4, .wo, 0xFF, 0x0, 0x0, 0x0⟩,
  ⟨"RX", 0x4C, 1, 4, 1, 4, .none, 0x0, 0x0, 0x0, 0x0⟩,
  ⟨"STAT", 0x50, 1, 4, 1, 4, .none, 0x0, 0x10000, 0x0, 0x0⟩]

/-- The rows of a page type. -/
def pageRows : PageType → List RegRow
  | .sys => regsSys
  | .clk => regsClk
  | .evr => regsEvr
  | .therm => regsTherm
  | .pwmg => regsPwmg
  | .adc => regsAdc
  | .trip => regsTrip
  | .cmp => regsCmp
  | .eng => regsEng
  | .engc => regsEngc
  | .snd => regsSnd
  | .drv => regsDrv
  | .grid => regsGrid
  | .isl => regsIsl
  | .mppt => regsMppt
  | .reg => regsReg
  | .mtr => regsMtr
  | .ring => regsRing
  | .datum => regsDatum
  | .plumb => regsPlumb
  | .pch => regsPch
  | .pair => regsPair
  | .valley => regsValley
  | .nvm => regsNvm
  | .pmc => regsPmc
  | .dbg => regsDbg
  | .upd => regsUpd
  | .eth => regsEth
  | .gpio => regsGpio
  | .i2c => regsI2c
  | .spi => regsSpi
  | .uart => regsUart

/-- The page type code of ID[31:16] (R561). -/
def pageTypeCode : PageType → Nat
  | .sys => 0x100
  | .clk => 0x101
  | .evr => 0x102
  | .therm => 0x103
  | .pwmg => 0x104
  | .adc => 0x105
  | .trip => 0x106
  | .cmp => 0x107
  | .eng => 0x108
  | .engc => 0x109
  | .snd => 0x10a
  | .drv => 0x10b
  | .grid => 0x10c
  | .isl => 0x10d
  | .mppt => 0x10e
  | .reg => 0x10f
  | .mtr => 0x110
  | .ring => 0x111
  | .datum => 0x112
  | .plumb => 0x113
  | .pch => 0x114
  | .pair => 0x115
  | .valley => 0x116
  | .nvm => 0x117
  | .pmc => 0x118
  | .dbg => 0x119
  | .upd => 0x11a
  | .eth => 0x11b
  | .gpio => 0x11c
  | .i2c => 0x11d
  | .spi => 0x11e
  | .uart => 0x11f

/-- CAPS of a page (the page tables). -/
def pageCaps : PageType → Nat
  | .sys => 0xC
  | .clk => 0x6
  | .evr => 0x2000040
  | .therm => 0x18
  | .pwmg => 0x1828
  | .adc => 0x390
  | .trip => 0x1030
  | .cmp => 0x808
  | .eng => 0x802040
  | .engc => 0x200100
  | .snd => 0x40000048
  | .drv => 0x4
  | .grid => 0x2001
  | .isl => 0x1FF00FE
  | .mppt => 0x4018
  | .reg => 0x18
  | .mtr => 0x70806
  | .ring => 0x4001000
  | .datum => 0x408
  | .plumb => 0x80844
  | .pch => 0x8
  | .pair => 0x8010
  | .valley => 0x1
  | .nvm => 0x28
  | .pmc => 0x3040
  | .dbg => 0x804
  | .upd => 0x2
  | .eth => 0x100
  | .gpio => 0x20
  | .i2c => 0
  | .spi => 0x10
  | .uart => 0x10

/-- First global event number of page `n` of a type (R563); 0xFFFF for a page with no event (R562). -/
def pageEvBase (t : PageType) (n : Nat) : Nat :=
  match t with
  | .sys => 452
  | .clk => 448
  | .evr => 503
  | .therm => 456
  | .pwmg => 8 * n
  | .adc => 240 + n
  | .trip => 192
  | .cmp => 96 + 8 * n
  | .eng => 272 + n
  | .engc => 0xFFFF
  | .snd => 367
  | .drv => 304 + 4 * n
  | .grid => 344 + 4 * n
  | .isl => 360
  | .mppt => 368
  | .reg => 372 + n
  | .mtr => 320 + 6 * n
  | .ring => 376 + 4 * n
  | .datum => 384
  | .plumb => 424
  | .pch => 388
  | .pair => 408
  | .valley => 464
  | .nvm => 480
  | .pmc => 496
  | .dbg => 500
  | .upd => 484
  | .eth => 0xFFFF
  | .gpio => 0xFFFF
  | .i2c => 0xFFFF
  | .spi => 0xFFFF
  | .uart => 0xFFFF

/-- A range of the page index (R561): type, first index, number of pages. -/
structure PageRange where
  typ   : PageType
  first : Nat
  count : Nat
deriving DecidableEq, Repr

/-- The page index of R561. -/
def pageRanges : List PageRange := [
  ⟨.sys, 0x0, 1⟩,
  ⟨.clk, 0x1, 1⟩,
  ⟨.evr, 0x2, 1⟩,
  ⟨.therm, 0x3, 1⟩,
  ⟨.pwmg, 0x100, 12⟩,
  ⟨.adc, 0x200, 32⟩,
  ⟨.mtr, 0x300, 4⟩,
  ⟨.cmp, 0x310, 12⟩,
  ⟨.trip, 0x320, 1⟩,
  ⟨.drv, 0x330, 4⟩,
  ⟨.eng, 0x400, 32⟩,
  ⟨.snd, 0x420, 1⟩,
  ⟨.engc, 0x440, 1⟩,
  ⟨.grid, 0x500, 4⟩,
  ⟨.isl, 0x510, 1⟩,
  ⟨.mppt, 0x520, 1⟩,
  ⟨.reg, 0x530, 4⟩,
  ⟨.ring, 0x600, 2⟩,
  ⟨.datum, 0x602, 1⟩,
  ⟨.pch, 0x603, 1⟩,
  ⟨.pair, 0x610, 1⟩,
  ⟨.plumb, 0x700, 1⟩,
  ⟨.valley, 0x800, 1⟩,
  ⟨.nvm, 0x820, 1⟩,
  ⟨.upd, 0x830, 1⟩,
  ⟨.pmc, 0x900, 1⟩,
  ⟨.eth, 0xa00, 2⟩,
  ⟨.gpio, 0xb00, 1⟩,
  ⟨.i2c, 0xb01, 4⟩,
  ⟨.spi, 0xb05, 2⟩,
  ⟨.uart, 0xb07, 2⟩,
  ⟨.dbg, 0xc00, 1⟩]

/-- First index of a page type. -/
def pageFirst : PageType → Nat
  | .sys => 0x0
  | .clk => 0x1
  | .evr => 0x2
  | .therm => 0x3
  | .pwmg => 0x100
  | .adc => 0x200
  | .mtr => 0x300
  | .cmp => 0x310
  | .trip => 0x320
  | .drv => 0x330
  | .eng => 0x400
  | .snd => 0x420
  | .engc => 0x440
  | .grid => 0x500
  | .isl => 0x510
  | .mppt => 0x520
  | .reg => 0x530
  | .ring => 0x600
  | .datum => 0x602
  | .pch => 0x603
  | .pair => 0x610
  | .plumb => 0x700
  | .valley => 0x800
  | .nvm => 0x820
  | .upd => 0x830
  | .pmc => 0x900
  | .eth => 0xa00
  | .gpio => 0xb00
  | .i2c => 0xb01
  | .spi => 0xb05
  | .uart => 0xb07
  | .dbg => 0xc00

/-- The page an index names: its type and its number among the pages of that type. -/
def pageOf (p : Nat) : Option (PageType × Nat) :=
  match pageRanges.find? (fun r => decide (r.first ≤ p ∧ p < r.first + r.count)) with
  | some r => some (r.typ, p - r.first)
  | none => none

/-- The key of register offset `off` of page `n` of type `t`. -/
def rk (t : PageType) (n off : Nat) : Nat := (pageFirst t + n) * 0x1000 + off

/-- Does a row cover an offset? -/
def RegRow.covers (r : RegRow) (o : Nat) : Bool :=
  decide (r.off ≤ o) &&
  (let d := o - r.off
   let i := if r.n1 = 1 then 0 else d / r.s1
   let e := d - i * r.s1
   decide (i < r.n1 ∧ e % r.s2 = 0 ∧ e / r.s2 < r.n2))

/-- The row of a register key, where it has one; header offsets have none. -/
def regRow (k : Nat) : Option RegRow :=
  match pageOf (k / 0x1000) with
  | none => none
  | some (t, _) => (pageRows t).find? (fun r => r.covers (k % 0x1000))

/-- What header offset `o` of page `n` of a type reads after reset (R559). -/
def headerReset (t : PageType) (n o : Nat) : Nat :=
  if o = 0x000 then pageTypeCode t * 0x10000 + n * 0x100 + 1
  else if o = 0x004 then pageCaps t
  else if o = 0x01C then pageEvBase t n
  else if o = 0x00C ∧ t = .plumb then 1
  else 0

/-- Reset values that the page tables give by a formula: ADCn.ROUTES (R64), MONi_CFG (R198: MODE 0b11, INSEL m mod 64),
DOMj_STAT and DOMj_MEMB (R161), LEGi_STAT (R160: RANK 6, PACER of leg 0), PH of the rest as the row says. -/
def formulaReset (t : PageType) (n o : Nat) (r : RegRow) : Nat :=
  match t with
  | .adc => if o = 0x050 then (32 + n) + 0x100 * (32 + (n + 11) % 32) + 0x10000 * (32 + (n + 22) % 32) else r.rst
  | .cmp => if r.off = 0x100 then 6 + 0x10 * ((8 * n + (o - 0x100) / 0x20) % 64) else r.rst
  | .pwmg =>
    if o = 0x044 then (if n = 0 then 0 else 8)
    else if o = 0x064 then 8
    else if n = 0 ∧ (o = 0x050 ∨ o = 0x054 ∨ o = 0x058) then 0xFFFFFFFF
    else if r.off = 0x12C then 0x600 + (if n = 0 ∧ o = 0x12C then 0x40 else 0)
    else r.rst
  | _ => r.rst

/-- What a register key reads after reset; keys that name no register read 0 (R558). -/
def resetVal (k : Nat) : Word :=
  match pageOf (k / 0x1000) with
  | none => 0#32
  | some (t, n) =>
    let o := k % 0x1000
    if o < 0x040 then BitVec.ofNat 32 (headerReset t n o) else
    match (pageRows t).find? (fun r => r.covers o) with
    | none => 0#32
    | some r => BitVec.ofNat 32 (formulaReset t n o r)

/-- The register key a bus address of the register window names: its offset from 0x40000000 (R558); ENGC answers at the base the spec gives to it and to ENG16. -/
def busKey (a : Nat) : Nat :=
  let k := a % 0x40000000
  if k / 0x1000 = 0x410 then 0x440 * 0x1000 + k % 0x1000
  else if k / 0x1000 = 0x440 then 0xFFF000 else k

/-- The page index a trouble-log or field-book entry names for a key (R558). -/
def pageIndex (k : Nat) : Nat := if k / 0x1000 = 0x440 then 0x410 else k / 0x1000

end Sys2Proof.Machine
end

