-- ==== Sys2Proof/Machine/State.lean ====
section
/-! DEFINITION. The state of the IMY-9648: every register (State.regs, State.act), every memory, and for each function
the state the spec names or implies beside its registers. Plain data. Times are instants in steps of 20 ps (R12). -/

namespace Sys2Proof.Machine

/-- The bus response of the last access: the data a read returned and a bus error (R558). -/
structure Bus where
  /-- 32-bit read data (R8, R514) -/
  rdata : Word := 0
  /-- bus error of the last access (R558, R525) -/
  err   : Bool := false
deriving DecidableEq, Repr

/-- A window or block in progress, or closed and not delivered (R40, R42, R46, R47, R53). -/
structure Win where
  /-- ideal start, and the boundary tick of it -/
  start : Nat := 0
  tick  : Nat := 0
  /-- it began when the converter was ready and settled -/
  ok    : Bool := false
  /-- slots converted, and their sum -/
  n     : Nat := 0
  sum   : Int := 0
  sat   : Nat := 0
  err   : Bool := false
  hold  : Bool := false
  /-- lowest and highest full-slot code -/
  lo    : Int := 32767
  hi    : Int := -32768
  /-- a block: its slots, and the offset and scale in force when it began (R53) -/
  nslot : Nat := 0
  offset : Word := 0
  scale : Word := 0x3F800000
  /-- a block: the slot that began at instant `fromT` on the present slot grid (R54) -/
  fromN : Nat := 0
  fromT : Nat := 0
deriving DecidableEq, Repr

/-- A closed window that waits for its delivery (R44): length, slots it must hold, end time, and the offset and scale that
were in force. -/
structure Closed where
  win    : Win
  /-- the instants of its edges: boundaries, or boundary ticks while the root PLL was out of lock (R48) -/
  beg    : Nat
  fin    : Nat
  /-- the length of a full slot of it -/
  full   : Nat
  len    : Nat
  need   : Nat
  stamp  : Word
  due    : Nat
  valid  : Bool
  offset : Word
  scale  : Word
deriving DecidableEq, Repr

/-- The set a converter delivers to the engine (R43). -/
structure AdcSet where
  value : Word := 0
  valid : Bool := false
  sat   : Bool := false
  hold  : Bool := false
  err   : Bool := false
  len   : Nat := 0
  stamp : Word := 0
deriving DecidableEq, Repr

/-- A converter (R36 to R62). -/
structure Adc where
  win     : Option Win := none
  /-- windows that wait for their delivery, oldest first -/
  closed  : List Closed := []
  /-- the last set delivered; its value is the last one delivered with VALID 1 (R62) -/
  set     : AdcSet := {}
  /-- AVG_LEN, AVG_END, AVG_FLAGS, AVG_MIN, AVG_MAX of the last window, before a read of AVG captures them (R45) -/
  latest  : List Word := [0, 0, 0, 0, 0]
  seqNum  : Nat := 0
  /-- code of the last full slot formed since READY (R47) -/
  prev    : Int := 0
  /-- bound, and the first boundary of the domain has not come (R49) -/
  waits   : Bool := false
  /-- end of the readiness time, and of the settling of R54 -/
  readyAt : Option Nat := none
  lpAt    : Option Nat := none
  /-- regular sequence: the entry that runs or was aborted -/
  reg     : Option Nat := none
  /-- injected sequence: the entry that runs -/
  inj     : Option Nat := none
  /-- start of the entry that runs, and whether LP settling overlapped it -/
  entryAt : Nat := 0
  /-- length of the slot of the entry that runs (R54) -/
  entryLen : Nat := 5000
  /-- a result that is being converted: when it is available, its register and its value (R58) -/
  result  : Option (Nat × Nat × Word) := none
  unsettled : Bool := false
  /-- the regular entry was aborted and is repeated -/
  again   : Bool := false
  injPend : Bool := false
  /-- a regular trigger waits for the end of the injected sequence -/
  regPend : Bool := false
  /-- a pulse of the selected regular trigger, of the urgent channel -/
  regPulse : Bool := false
  injPulse : Bool := false
  /-- sequence registers committed during a running sequence (R58) -/
  defer   : List (Nat × Word) := []
deriving DecidableEq, Repr

/-- An OUT of a pass: the instant it issues, its operation index, port and value. -/
structure PassOut where
  when' : Nat
  op   : Nat
  port : Nat
  val  : Word
deriving DecidableEq, Repr

/-- The first discard cause of a pass (R92): the instant it arises, its number, tile and operation index. -/
structure PassDisc where
  when'  : Nat
  cause : Nat
  tile  : Nat
  op    : Nat
deriving DecidableEq, Repr

/-- A pass that runs (R89): its pass start, E and W in CLK_FAB cycles; OUTs that have not issued; writes to ports that take
effect at the drain; the store buffer; EVT codes; the groups it opened, by key; its first discard cause. -/
structure Pass where
  start  : Nat
  e      : Nat
  w      : Nat
  outs   : List PassOut
  late   : List (Nat × Word) := []
  sts    : List (Nat × Word)
  evts   : List Nat
  opened : List Nat := []
  disc   : Option PassDisc := none
deriving DecidableEq, Repr

/-- What a successful pass leaves for its drain (R90), and its end. -/
structure Drain where
  late : List (Nat × Word)
  sts  : List (Nat × Word)
  evts : List Nat
  endAt : Nat
deriving DecidableEq, Repr

/-- A per-lane swap (R98): being verified, or verified at an instant and waiting for its boundary. -/
inductive LaneSwap where
  | none
  | checking
  | ready (t : Nat)
deriving DecidableEq, Repr

/-- A lane (R68, R69, R95 to R98). -/
structure Lane where
  /-- STATUS.STATE -/
  st      : Nat := 0
  /-- CTRL.EN was written 0 while the pass ran -/
  offPend : Bool := false
  /-- active bank is 1 -/
  active  : Bool := false
  /-- the next pass is the first since enable or swap -/
  first   : Bool := false
  /-- index of the period whose pass start has passed -/
  passK   : Option Nat := none
  pass    : Option Pass := none
  drain   : Option Drain := none
  swap    : LaneSwap := .none
  /-- instant of the Datum cycle boundary whose global swap the lane still makes (R99) -/
  dueSwap : Option Nat := none
  /-- the debugger holds it: it halted at a pass start (R533) -/
  held    : Bool := false
deriving DecidableEq, Repr

/-- The global swap (R99): none, being verified, or verified. -/
inductive GlobalSwap where
  | none
  | checking
  | ready
deriving DecidableEq, Repr

/-- The engine's shared parts (R75, R97, R99): the shared verifier is free at `free`; ends of its jobs. -/
structure Engine where
  free    : Nat := 0
  /-- lanes whose banks wait for verification, and the end of each -/
  jobs    : List (Nat × Nat) := []
  global  : GlobalSwap := .none
  globEnd : Nat := 0
  /-- MODE and SWAP_AT as the request of the global swap took them (R99, R549) -/
  globMode : Bool := false
  globAt  : Nat := 0
  /-- end of the single-tile check -/
  tileEnd : Nat := 0
  /-- bus writes held for state tiles, in issue order: lane, address, word (R75) -/
  held    : List (Nat × Nat × Word) := []
  /-- mailbox words: lane x 16 + j -/
  mail    : List (Nat × Word) := []
deriving DecidableEq, Repr


/-- A sounding generator (R116 to R126); its registers hold the rest. -/
structure Gen where
  /-- instant of the Datum cycle boundary at which the start fell due (R123) -/
  due   : Option Nat := none
  /-- effective amplitude -/
  amp   : Word := 0
  /-- phase as a 32-bit fraction of a turn -/
  phi   : Nat := 0
  /-- PRBS register, boundaries left of the chip, chips of the sequence -/
  lfsr  : Nat := 0
  chip  : Nat := 0
  /-- cycles, chips, sequences or boundaries of the phase so far -/
  count : Nat := 0
  /-- excitation, sine and cosine held -/
  x     : Word := 0
  sin   : Word := 0
  cos   : Word := 0
  /-- boundaries since the measure phase began -/
  since : Nat := 0
  /-- a successful pass of the lane has ended since the last boundary, and the probe values it wrote -/
  passed : Bool := false
  probes : List (Nat × Word) := []
  /-- binary64 accumulators: 2j for IACCj, 2j + 1 for QACCj -/
  acc   : List (Nat × DWord) := []
deriving DecidableEq, Repr


/-- A commit domain (R12 to R15, R148 to R152). -/
structure Dom where
  /-- it has boundaries: it holds a leg, or one waits to join (R14, R132) -/
  running : Bool := false
  /-- its first boundary has taken place -/
  begun   : Bool := false
  /-- B(k), the ideal instant at which the period began -/
  start   : Nat := 0
  /-- B(k+1), trim included: fixed at the boundary that starts the period (R150) -/
  next    : Nat := 0
  /-- B(k-1) -/
  prev    : Nat := 0
  /-- index k of the period -/
  k       : Nat := 0
  /-- period in force, in steps of 20 ps, trim excluded (R133, R150) -/
  per     : Nat := 25000000
  /-- period in force before B(k) -/
  oldPer  : Nat := 25000000
  /-- boundary error e in steps, kept up with the trims applied; none before it is first measured (R149) -/
  err     : Option Int := none
  /-- a Datum cycle boundary has been measured and the first period after it has not started -/
  first   : Bool := false
deriving DecidableEq, Repr

/-- A commit group (R16): instant of the first write since the last commit while open, instant of the last
arm or write to the armed group, the domain taken at the arm (R568), and for a Datum-aligned arm (R153) the instant of
the Datum cycle boundary it waits for. -/
structure Grp where
  openAt : Option Nat := none
  armed  : Option Nat := none
  dom    : Nat := 0
  /-- the lane whose OUT opened the group, and the period (R94) -/
  owner  : Option (Nat × Nat) := none
  /-- the master whose bus write opened the group (R550) -/
  opener : Option Nat := none
  /-- a Datum-aligned arm stands -/
  darm   : Bool := false
  /-- its Datum cycle boundary has passed -/
  due    : Bool := false
  /-- it commits at a tick of its own, without a boundary (R52) -/
  bare   : Bool := false
  /-- an ARM written in the CLK_FAB cycle of its boundary: it is armed again after the commit or refusal (R569) -/
  rearm  : Bool := false
deriving DecidableEq, Repr

/-- A delay-line twin (R145, R146): instant of its last good calibration, failures in a row, and whether its last
measurement since it left service was good, so that it may be placed in service. -/
structure Twin where
  cal   : Option Nat := none
  fails : Nat := 0
  ready : Bool := false
deriving DecidableEq, Repr

/-- The commands of a leg for one period (R134 to R140): interval, skews, dead times, output mode, gate, and the period in
steps, trim excluded. -/
structure Plan where
  a    : Nat := 0
  b    : Nat := 0
  ton  : Nat := 0
  per  : Nat := 25000000
  skA  : Int := 0
  skB  : Int := 0
  dta  : Nat := 0
  dtb  : Nat := 0
  mode : Nat := 0
  gate : Nat := 0
deriving DecidableEq, Repr

/-- A leg's hidden state (R131 to R147). -/
structure Leg where
  /-- it waits to join the domain of CFG.CDOM (R132) -/
  wait  : Bool := false
  /-- shadow form: duty (R134) -/
  form  : Bool := false
  /-- form of the command in force -/
  formAct : Bool := false
  /-- start of the interval in force -/
  a     : Nat := 0
  /-- on time in force -/
  ton   : Nat := 0
  /-- end of the interval in force -/
  b     : Nat := 0
  /-- the commands of the period before (R136) -/
  old   : Plan := {}
  /-- commanded levels at rank 6 (R138 to R141) -/
  cmdA  : Bool := false
  cmdB  : Bool := false
  /-- instants of the last commanded edges -/
  edgeA : Nat := 0
  edgeB : Nat := 0
  /-- instants of the last commanded rising edges (R170) -/
  roseA : Option Nat := none
  roseB : Option Nat := none
  /-- instants of the last rising edges at the output stage (R188) -/
  outA  : Option Nat := none
  outB  : Option Nat := none
  /-- instant of a truncation of PWM_B (R141) -/
  trunc : Option Nat := none
  /-- both outputs are held low to the next boundary after a refused edge (R142) -/
  hold  : Bool := false
  /-- instant of the last refused edge -/
  refusedAt : Nat := 0
  /-- an overlap was refused in this period and in the last (R155) -/
  ovl   : Bool := false
  ovlLast : Bool := false
  /-- last release of a set, trip or phase hold on the leg: commanded edges resume at the next boundary (R4) -/
  relAt : Option Nat := none
  /-- instant at which the low side of a floor clamp may rise (R166) -/
  clampAt : Nat := 0
  /-- levels at a debug halt (R156) -/
  frozenA : Bool := false
  frozenB : Bool := false
  twin0 : Twin := {}
  twin1 : Twin := {}
  /-- twin in service -/
  line  : Bool := false
  /-- CAL_STAT.VALID -/
  valid : Bool := false
  /-- instant of the last change of VALID (R147) -/
  validAt : Nat := 0
deriving DecidableEq, Repr

/-- Last releases of the holds that act on every leg (R4): SPO, PLL hold, debug freeze; and the freeze
that stands (R156). -/
structure Holds where
  spo    : Option Nat := none
  pll    : Option Nat := none
  freeze : Option Nat := none
  frozen : Bool := false
deriving DecidableEq, Repr

/-- A trip input (R169 to R176). -/
structure TripIn where
  /-- pin sample is active -/
  raw      : Bool := false
  /-- instant of the last change of the sample -/
  rawAt    : Nat := 0
  /-- filtered input is active -/
  active   : Bool := false
  activeAt : Nat := 0
  /-- members (leg, or 96 + direct phase) that a cycle reaction holds: with both outputs low, and with the high side low
  (R172) -/
  cycle    : List Nat := []
  cycleHigh : List Nat := []
  /-- STUCK has been raised in this activity -/
  stuck    : Bool := false
  /-- the reaction of this activity has started -/
  reacted  : Bool := false
  /-- instant of the last reaction -/
  reactAt  : Nat := 0
  /-- instant of the last ASSERT cause -/
  assertAt : Option Nat := none
deriving DecidableEq, Repr

/-- A safe-state set (R163 to R168): latched, and its latching requesters as SRC_KIND and number. -/
structure SafeSet where
  latched : Bool := false
  reqs    : List (Nat × Nat) := []
deriving DecidableEq, Repr

/-- A window monitor (R178 to R182). -/
structure Mon where
  /-- end of settling -/
  settle  : Option Nat := none
deriving DecidableEq, Repr

/-- A direct phase (R186 to R190). -/
structure Phase where
  bstOk  : Bool := false
  /-- the last rising edge of DRV_HO was suppressed (R187) -/
  supp   : Bool := false
  /-- the sense voltage in millivolts, and the end of the last blanking that has passed (R188) -/
  mv     : Nat := 0
  blankAt : Nat := 0
deriving DecidableEq, Repr

/-- A direct-driver group (R187 to R190). -/
structure DrvGrp where
  vdrvOk : Bool := false
  regEn  : Bool := false
  /-- REG_EN low is recognised: the group is held off -/
  off    : Bool := true
  /-- CLK_PWM tick of the first detection -/
  firstTick : Nat := 0
deriving DecidableEq, Repr

/-- A grid port (R203 to R227). Angles are turns and other quantities numbers, both with 48 fraction bits; the angles are
those of the centre of the next window. -/
structure Grid where
  /-- STAT.STATE -/
  st     : Nat := 0
  /-- index of the period whose boundary the last update followed, and the length of its window -/
  upK    : Option Nat := none
  len    : Nat := 0
  mpd    : Int := 0
  mpq    : Int := 0
  mnd    : Int := 0
  mnq    : Int := 0
  dint   : Int := 0
  f      : Int := 0
  theta  : Int := 0
  out    : Int := 0
  /-- lock conditions hold since; locked -/
  lockAt : Option Nat := none
  locked : Bool := false
  /-- consecutive gaps; the last update had one; an excursion of SAT lasts -/
  gaps   : Nat := 0
  satEx  : Bool := false
  /-- f, FREQ and squares of the phase voltages, newest first -/
  fs     : List Int := []
  freqs  : List Int := []
  sqs    : List (Int × Int × Int) := []
  vpos   : Int := 0
  vneg   : Int := 0
  vmin   : Int := 0
  vmax   : Int := 0
  rocof  : Int := 0
  idr    : Int := 0
  iqr    : Int := 0
  ilim   : Int := 0
  /-- P or id* after the ceiling and the ramp (R217) -/
  ramp   : Int := 0
  /-- entries whose condition holds, with their timers in steps (R223) -/
  timers : List (Nat × Nat) := []
  acting : Word := 0
  rtLast : Nat := 0
  /-- SYNC_HOLD, CLOSE_TMO, COAST, CONFIRM and RS_DELAY run since -/
  holdAt : Option Nat := none
  closeAt : Nat := 0
  coastAt : Nat := 0
  confirm : Option Nat := none
  fHold  : Int := 0
  rsAt   : Option Nat := none
  limited : Bool := false
  /-- the domain has lost its boundaries since the last update -/
  lost   : Bool := false
  /-- CTL.DISCONNECT, and CTL.CONNECT in TRIPPED, were written and wait for an update (R219) -/
  discReq : Bool := false
  connReq : Bool := false
  /-- theta_out moves to or from the shared angle (R376) -/
  moving : Bool := false
  /-- CMD_P, CMD_Q, CMD_ID, CMD_IQ, CMD_PF, ISCALE as they were in force before the last boundary (R212) -/
  cmd    : List Word := []
  /-- what the input ports return (R210) -/
  ports  : List Word := []
deriving DecidableEq, Repr

/-- A chip being measured (R239): its number, windows seen and used, binary64 sums of v and i, and whether it is a gap. -/
structure Chip where
  n    : Nat
  seen : Nat := 0
  used : Nat := 0
  vd   : DWord := 0
  vq   : DWord := 0
  ci   : DWord := 0
  cq   : DWord := 0
  gap  : Bool := false
deriving DecidableEq, Repr

/-- Cv and Ci of a code (R240). -/
structure Corr where
  code : Nat
  vd   : DWord
  vq   : DWord
  ci   : DWord
  cq   : DWord
deriving DecidableEq, Repr

/-- A code period that has ended and waits to be closed (R240): its first chip, the Datum time of the closing epoch, the
amplitude and the table it ran with, whether it ran in HOLD, and whether a report has been cleared since (R244). -/
structure IslPer where
  first : Nat
  epoch : Nat
  amp   : Word
  table : List (Nat × Nat)
  hold  : Bool
  late  : Bool := false
deriving DecidableEq, Repr

/-- The islanding function (R231 to R248). -/
structure Isl where
  /-- STAT.STATE, OWN and flags -/
  st      : Nat := 0
  own     : Nat := 0
  unsure  : Bool := false
  clamped : Bool := false
  wrong   : Bool := false
  /-- A_eff and the excitation -/
  aeff    : Word := 0
  x       : Word := 0
  /-- amplitude entries in mA as written, and as in force (R234) -/
  amps    : List (Nat × Nat) := []
  table   : List (Nat × Nat) := []
  /-- the chip of the period that ended, of the period that runs, and the chip presented now -/
  last    : Option Nat := none
  cur     : Option Nat := none
  shown   : Option Nat := none
  /-- boundaries for which a local chip has been presented in HOLD -/
  locals : Nat := 0
  /-- the confirmation of R238 has been given in this period -/
  conf    : Bool := false
  chips   : List Chip := []
  /-- first chip of the code period that runs, where it is judged -/
  first   : Option Nat := none
  closing : List IslPer := []
  /-- a code epoch has passed since Datum and the lock allow them -/
  epochs  : Bool := false
  /-- Datum time of the deciding epoch -/
  decAt   : Nat := 0
  /-- HOLD entered at (R246) -/
  holdAt  : Option Nat := none
  /-- Z_BASE and its updates -/
  baseR   : DWord := 0
  baseX   : DWord := 0
  baseN   : Nat := 0
  res     : List Corr := []
deriving DecidableEq, Repr

/-- A string tracker (R252 to R259). -/
structure Tracker where
  /-- STAT.STATE: 0 OFF, 1 TRACK, 2 LIMIT, 3 PARK, 4 SWEEP, 5 STALL -/
  st     : Nat := 0
  /-- toward higher voltage -/
  up     : Bool := false
  dv     : Word := 0
  run    : Nat := 0
  vref   : Word := 0
  pPrev  : Word := 0
  pmeas  : Word := 0
  /-- the step that runs is a baseline step -/
  base   : Bool := false
  clamp  : Bool := false
  /-- STAT.GAP and CONSEC -/
  gap    : Bool := false
  consec : Nat := 0
  /-- start of the step that runs -/
  stepAt : Nat := 0
  /-- Σ p·L, Σ v·L with 48 fraction bits and Σ L of the step's windows; one of them was not valid or saturated -/
  sumP   : Int := 0
  sumV   : Int := 0
  sumL   : Nat := 0
  bad    : Bool := false
  /-- a sweep starts at the next step end -/
  sweep  : Bool := false
  /-- the last step end in LIMIT moved against LIM_DIR, and how many such moves in a row raised P by no more than PDB -/
  against : Bool := false
  weak   : Nat := 0
  /-- the step has ended, and its decision waits for the average of a window that ended before it (R252) -/
  late   : Bool := false
deriving DecidableEq, Repr

/-- The sweep that runs or ran last, its table, and the scheduler (R260). -/
structure Sweep where
  busy  : Bool := false
  trk   : Nat := 0
  point : Nat := 0
  npts  : Nat := 0
  v0    : Word := 0
  gaps  : Nat := 0
  /-- voltages and powers of the points, by index -/
  volts : List (Nat × Word) := []
  pows  : List (Nat × Word) := []
  /-- SWEEP_STAT.NEXT -/
  next  : Nat := 0
  /-- the scheduler's next instant -/
  due   : Option Nat := none
deriving DecidableEq, Repr

/-- A write that AVSBus gives a rail (R280): a voltage in mV, transition rates in mV/µs, a return to VBOOT, a clear of the
status alert. -/
inductive AvsWrite where
  | volt (mv : Nat)
  | rate (up dn : Nat)
  | boot
  | status
deriving DecidableEq, Repr

/-- A voltage command on its way to TARGET (R278): instant received, value, and the slew in V per ms that came with it. -/
structure RailCmd where
  when' : Nat
  value : Word
  rate  : Option Word
deriving DecidableEq, Repr

/-- A regulator rail (R267 to R286). -/
structure Rail where
  /-- STAT.STATE: 0 OFF, 1 SOFTSTART, 2 RUN, 3 STOPPING, 4 HICCUP, 5 LATCHED -/
  st      : Nat := 0
  vref    : Word := 0
  target  : Word := 0
  /-- the slew that came with TARGET -/
  rate    : Option Word := none
  cmds    : List RailCmd := []
  /-- a command was taken since the last disable -/
  taken   : Bool := false
  /-- VDONE is still to be raised for TARGET -/
  vdone   : Bool := false
  /-- VDone of AVSBus, and the status alert -/
  avsDone : Bool := false
  alert   : Bool := false
  held    : List AvsWrite := []
  /-- slots that are active, as bits -/
  mask    : Nat := 0
  /-- index of the period whose boundary the last update followed -/
  upK     : Option Nat := none
  vout    : Word := 0
  iout    : Word := 0
  trims   : List Word := []
  /-- slots whose average is not good, as bits -/
  notGood : Nat := 0
  pg      : Bool := false
  pgSeen  : Bool := false
  de      : Bool := false
  clamp   : Bool := false
  cause   : Nat := 0
  retries : Nat := 0
  /-- dwells in steps: add, shed, diode emulation; windows that began before this period do not count -/
  addD    : Nat := 0
  shedD   : Nat := 0
  deD     : Nat := 0
  fromK   : Nat := 0
  /-- diode emulation that changes at the next boundary tick (R276) -/
  deWant  : Option Bool := none
  /-- windows in a row with over-current, under-voltage; boundaries in a row with a member held -/
  ocN     : Nat := 0
  uvN     : Nat := 0
  ovrN    : Nat := 0
  /-- the present state was entered at, moved on by the times without boundaries (R35) -/
  since   : Nat := 0
  /-- an accepted enable waits for the clear of OFF_SET (R270) -/
  starts  : Bool := false
  /-- the next pass is the first since entry to SOFTSTART -/
  first   : Bool := false
  /-- last ring message, or the instant the stream was set up; CMD_LOST was raised since -/
  ringAt  : Nat := 0
  lost    : Bool := false
  /-- how often the stream had been declared broken when the rail last took note -/
  breaks  : Nat := 0
  /-- B(k) of the last boundary of its domain (R35) -/
  lastB   : Nat := 0
  /-- VOUT and IOUT of the last 64 updates, newest first -/
  hist    : List (Word × Word) := []
  /-- what the input ports return (R271) -/
  ports   : List Word := []
deriving DecidableEq, Repr

/-- Answer of the AVSBus target: none, acknowledged with data, invalid command, bad CRC. -/
inductive AvsAnswer where
  | none
  | ok (data : Nat)
  | invalid
  | badCrc
deriving DecidableEq, Repr

/-- The command ports (R280, R281): last AVSBus answer; PMBus page, alert, last answer: acknowledged and data. -/
structure CmdPorts where
  avs   : AvsAnswer := .none
  page  : Nat := 0
  alert : Bool := false
  ack   : Bool := false
  data  : Nat := 0
deriving DecidableEq, Repr

/-- A frozen monument snapshot (R288, R289). -/
structure MonSnap where
  trigger : Word
  datum   : Nat
  rtc     : Nat
  valid   : Bool
  rails   : List (List Word)
  guard   : List Word
deriving DecidableEq, Repr

/-- The monument record's writer (R288 to R290). -/
structure Monument where
  busy : Option MonSnap := none
  since : Nat := 0
  pend : Option MonSnap := none
  lost : Nat := 0
deriving DecidableEq, Repr

/-- A metering sample that waits for its neighbours (R295, R296): the six channels in volts at the pins after the high-pass
filter, with 48 fraction bits; saturated; on the holdover clock; where in it a crossing lies, in 2^-16 sample; its end. -/
structure MtrRaw where
  v     : List Int
  sat   : Bool
  hold  : Bool
  cross : Option Nat
  fin   : Nat
deriving DecidableEq, Repr

/-- A channel's calibration in force for a cycle (R296): scale times gain with 48 fraction bits, delay in 2^-16 sample, segment,
extrapolated. -/
structure MtrCal where
  gain  : Int := 0
  delay : Int := 0
  seg   : Nat := 0
  xtr   : Bool := false
  /-- the highest valid TOP, and the scale -/
  top   : Option Int := none
  scale : Int := 0
deriving DecidableEq, Repr

/-- A cycle that has ended (R300): length in 2^-16 sample, its boundary, RMS of the channels, means of v·i by phase and of q,
fundamental phasors, energy sums with 64 fraction bits: import, export, positive and negative reactive. -/
structure MtrCyc where
  len   : Nat
  fin   : Nat
  rms   : List Int
  p     : List Int
  q     : Int
  ph    : List (Int × Int)
  sums  : List Int
  valid : Bool
  free  : Bool
  sat   : Bool
  hold  : Bool
  cal   : List MtrCal
deriving DecidableEq, Repr

/-- A metering port (R294 to R315). -/
structure Meter where
  /-- STAT.STATE: 0 OFF, 1 SYNC, 2 RUN, 3 FREE -/
  st     : Nat := 0
  /-- end of the last sample -/
  sampAt : Nat := 0
  /-- high-pass filter: last input and output of each channel -/
  hp     : List (Int × Int) := []
  /-- newest first -/
  raw    : List MtrRaw := []
  cal    : List MtrCal := []
  /-- calibration registers written of late: instant, key, the value before, oldest first -/
  calOld : List (Nat × Nat × Word) := []
  /-- parts of the cycle in progress, newest first: weight in 2^-16, corrected channels -/
  cyc    : List (Nat × List Int) := []
  len    : Nat := 0
  sums   : List Int := [0, 0, 0, 0]
  qSum   : Int := 0
  sat    : Bool := false
  hold   : Bool := false
  /-- the cycle in progress began at an accepted crossing; it lasted into FREE -/
  whole  : Bool := false
  free   : Bool := false
  /-- corrected voltages of past samples, and squares of the reference channel over 20 ms, newest first -/
  hist   : List (List Int) := []
  sqs    : List Int := []
  /-- length since the last boundary or accepted crossing -/
  sinceX : Nat := 0
  /-- length of the last accepted cycle; length at which the cycle in progress ends in FREE -/
  last   : Option Nat := none
  freeEnd : Nat := 0
  /-- ended cycles that wait to be closed -/
  ended  : List MtrCyc := []
  /-- accumulators in 2^-32 mWh, modulo 2^80 -/
  accs   : List (Nat × Nat) := []
  preset : Option (Nat × Nat) := none
  seqBad : Nat := 0
  seqOk  : Nat := 0
  seqErr : Bool := false
  neutBad : Nat := 0
  neutOk : Nat := 0
  neut   : Bool := false
  vloss  : Nat := 0
  wasXtr : Bool := false
  wasHold : Bool := false
  presetFlag : Bool := false
  /-- registers 0x080 to 0x0E8 of the newest closed cycle -/
  latest : List Word := []
  /-- pulse stage of MPULSE[p]: energy times PULSE_K, pending pulses, dropped ones, the pulse that runs began, the last ended -/
  pReg   : Nat := 0
  pend   : Nat := 0
  ovf    : Nat := 0
  pulse  : Option Nat := none
  pulseEnd : Option Nat := none
deriving DecidableEq, Repr

/-- A cell whose header has come in and passed its check (R330): its header, the instant of its SOC, whether the node takes
it in, and where forwarded the transmitter and the header that leaves. -/
structure RxCell where
  hdr  : List Byte
  soc  : Nat
  take : Bool
  fwd  : Option Nat
  out  : List Byte
  /-- link-down and wrap events of the side at its SOC -/
  breaks : Nat := 0
deriving DecidableEq, Repr

/-- An acknowledgement entry that waits for a CTRL cell, or an OPEN cell that waits (R344, R345). -/
structure CtlEnt where
  dst    : Nat
  /-- 0 ACK, 1 NAK, 2 OPEN_ACK, 3 BROKEN; 4 an OPEN cell -/
  kind   : Nat
  /-- the send stream's index -/
  stream : Nat
  seq    : Nat
  /-- the receive stream an OPEN cell names -/
  pstr   : Nat
deriving DecidableEq, Repr

/-- One ring of the node (R319 to R339). -/
structure RingLink where
  sync     : Bool := false
  /-- sync lost since -/
  lostAt   : Nat := 0
  /-- in sync, without a code error and without RFAULT, since -/
  clean    : Option Nat := none
  /-- 0 not yet up, 1 up, 2 declared down -/
  link     : Nat := 0
  /-- RFAULT is being received, since -/
  rfault   : Option Nat := none
  /-- RFAULT is sent in place of IDLE to this receiver's neighbour (R323) -/
  sendRf   : Bool := false
  wrap     : Bool := false
  /-- an unwrap waits for the next gap -/
  unwrap   : Bool := false
  joined   : Bool := false
  ford     : Bool := false
  /-- the ford is to be opened or closed at the next gap (R335) -/
  fordTo   : Option Bool := none
  /-- a PROBE waits to be sent; its return is due by -/
  probe    : Bool := false
  probeEnd : Option Nat := none
  /-- the cell coming in -/
  rx       : Option RxCell := none
  /-- the transmitter is busy until -/
  freeAt   : Nat := 0
  /-- starts of the transit cells that wait (R331) -/
  transit  : List Nat := []
  /-- the last cell that left on the transmitter, and whether it ended with EOC_BAD -/
  sent     : List Byte := []
  sentBad  : Bool := false
  /-- control entries that wait for this ring -/
  ctl      : List CtlEnt := []
  /-- stream served last at each priority, 1023 before the first (R332) -/
  rr       : List Nat := [1023, 1023, 1023, 1023]
  /-- next presence test and diagnostics poll of the SFP module (R325) -/
  sfpAt    : Nat := 0
  ddmAt    : Nat := 0
deriving DecidableEq, Repr

/-- A cell a send stream keeps (R344): SEQ, instant sent last, retransmissions, and the rings on which it is still to be
sent. -/
structure Unacked where
  seq   : Nat
  when' : Nat
  retx  : Nat
  again : List Nat
deriving DecidableEq, Repr

/-- A stream entry (R340 to R348). -/
structure RStream where
  cfg   : Word := 0
  peer  : Word := 0
  buf   : Word := 0
  retry : Word := 0
  /-- 0 CLOSED, 1 OPENING, 2 OPEN, 3 BROKEN -/
  st    : Nat := 0
  full  : Bool := false
  cause : Nat := 0
  /-- how often it has been declared broken (R282) -/
  breaks : Nat := 0
  /-- next SEQ to send, or E -/
  next  : Nat := 0
  put   : Nat := 0
  get   : Nat := 0
  /-- slots of a receive stream that software has not read -/
  occ   : Nat := 0
  unack : List Unacked := []
  /-- SEQs held out of order -/
  held  : List Nat := []
  /-- ring of the last cell -/
  ring  : Nat := 0
  /-- cells delivered since the last ACK, and when the next falls due -/
  fresh : Nat := 0
  ackAt : Option Nat := none
  /-- the last NAK: E and instant -/
  nak   : Option (Nat × Nat) := none
  /-- E is missing while cells are held, since -/
  gap   : Option Nat := none
  /-- the buffer is full and has refused a cell, since -/
  fullAt : Option Nat := none
  /-- last OPEN cell -/
  openAt : Nat := 0
  retx  : Nat := 0
  dup   : Nat := 0
deriving DecidableEq, Repr

/-- A DATUM cell handed to Datum (R331): side, bytes, bad ending, arrival stamp in 62.5/65536 ps, instant. -/
structure DatumIn where
  side  : Nat
  bytes : List Byte
  bad   : Bool
  stamp : Nat
  when' : Nat
  /-- the instant of its SOC, and the side's link-down and wrap events by then (R362) -/
  soc    : Nat := 0
  breaks : Nat := 0
deriving DecidableEq, Repr

/-- The station ring (R319 to R352). Ring memory and the SFP shadows lie in State.mem above the bus addresses. -/
structure Rings where
  a : RingLink := {}
  b : RingLink := {}
  streams : List (Nat × RStream) := []
  inbox : List DatumIn := []
deriving DecidableEq, Repr

/-- The states of Datum (R366). -/
inductive DatumSt where
  | off
  | acquire
  | track
  | holdover
  | benchmark
deriving DecidableEq, Repr

/-- A cycle record (R354, R355). -/
structure CycRec where
  dbase   : Nat := 0
  cbase   : Nat := 0
  len     : Nat := 16000000
  nextLen : Nat := 0
  nextAt  : Nat := 0
deriving DecidableEq, Repr

/-- A synthesis record (R374). -/
structure SynRec where
  d0      : Nat := 0
  theta   : Word := 0
  freq    : Word := 0
  addr    : Nat := 0
  port    : Nat := 0
  present : Bool := false
  sseq    : Nat := 0
deriving DecidableEq, Repr

/-- What a DATUM cell's common bytes and foresight bytes say (R360). Stamps are in units of 62.5 ps with 16 fractional
bits. -/
structure DatumCell where
  valid    : Bool
  bench    : Bool
  hold     : Bool
  spur     : Bool
  bmAddr   : Nat
  bmRank   : Nat
  hops     : Nat
  xseq     : Nat
  ttx      : Nat
  path     : Nat
  cyc      : Option CycRec
  syn      : Option SynRec
deriving DecidableEq, Repr

/-- One side of the node (R358 to R364). -/
structure Side where
  /-- the latest foresight and its arrival -/
  fs      : Option DatumCell := none
  fsAt    : Nat := 0
  /-- XSEQ of the next foresight -/
  xseq    : Nat := 0
  /-- the last 16 foresights: XSEQ, T1, instant, link and wrap changes counted then -/
  sent    : List (Nat × Nat × Nat × Nat) := []
  /-- consecutive intervals without an answer -/
  unans   : Nat := 0
  answered : Bool := false
  oneway  : Bool := false
  /-- accepted exchanges, up to 8 -/
  acc     : Nat := 0
  /-- filtered round trip, in ps/2^17 -/
  rtt     : Int := 0
  /-- d_in, in ps/2^17 -/
  din     : Int := 0
  /-- link-down and wrap events of the side -/
  breaks  : Nat := 0
deriving DecidableEq, Repr

/-- Datum (R353 to R376). Local time in 62.5/65536 ps is `base` at instant `since`, advancing since then at `rate` parts in 10^15. -/
structure Datum where
  st     : DatumSt := .off
  valid  : Bool := false
  base   : Nat := 0
  since  : Nat := 0
  rate   : Int := 0
  /-- o_f in ps/2^17, and y in parts in 10^15 -/
  offset : Int := 0
  y      : Int := 0
  cyc    : Option CycRec := none
  /-- number of the cycle whose start came last -/
  cycle  : Nat := 0
  sideA  : Side := {}
  sideB  : Side := {}
  /-- 0 none, 1 side A, 2 side B -/
  source : Nat := 0
  hops   : Nat := 0xFFFF
  path   : Nat := 0
  /-- the Benchmark followed: rank and address -/
  bm     : Option (Nat × Nat) := none
  /-- enable, or last advertisement of a valid Benchmark -/
  bmAt   : Nat := 0
  /-- consecutive accepted exchanges within ALIGN_TOL -/
  good   : Nat := 0
  /-- the source has changed and no offset of the new side has come -/
  fresh  : Bool := false
  /-- the first offset of a new source exceeds ALIGN_TOL -/
  far    : Bool := false
  /-- intervals without a candidate source -/
  lost   : Nat := 0
  /-- a change of cycle length was heard after its cycle began -/
  lateCyc : Bool := false
  nextEx : Nat := 0
  /-- the next foresight carries a synthesis record -/
  recSyn : Bool := false
  asymEx : Bool := false
  syn    : Option SynRec := none
  sseq   : Nat := 0
  yield  : Bool := false
  /-- grid ports that follow, and those whose move has ended -/
  follow : Word := 0
  active : Word := 0
  /-- windows in force, by their register -/
  wins   : List (Nat × Word) := []
deriving DecidableEq, Repr

/-- A field-book entry (R408). -/
structure FbEnt where
  seq    : Nat
  time   : Nat
  kind   : Nat
  flags  : Nat
  page   : Nat
  off    : Nat
  master : Nat
  old    : Word
  new    : Word
deriving DecidableEq, Repr

/-- The field book (R408, R409): 16 staging slots in the Valley domain, up to 64 entries waiting in Plumb, the next
position in the NV region, and the read position of FB_DATA (R411). -/
structure FieldBook where
  seq     : Nat := 0
  staging : List FbEnt := []
  waiting : List FbEnt := []
  pos     : Nat := 0
  wraps   : Nat := 0
  rword   : Nat := 0
deriving DecidableEq, Repr

/-- The password machine (R405 to R407). Hashes and counts lie in the Plumb NV area. -/
structure Passwords where
  /-- 0 locked, 1 site, 2 maker -/
  level    : Nat := 0
  lockout  : Bool := false
  lockEnd  : Nat := 0
  fails    : Nat := 0
  lockouts : Nat := 0
  denied   : Nat := 0
  /-- words written to PW_DATA since the last command, up to eight -/
  data     : List Word := []
  /-- instant of the last accepted RWL write, or of the unlock -/
  session  : Nat := 0
  salt     : List Byte := []
  siteHash : Option (List Word) := none
  makerHash : Option (List Word) := none
deriving DecidableEq, Repr

/-- A safety input (R388). -/
structure SafeIn where
  a : Bool := false
  b : Bool := false
  /-- discrepancy fault -/
  disc : Bool := false
  /-- after a fault: both channels have shown their demand levels together -/
  bothSeen : Bool := false
  /-- since when the channels disagree -/
  disagree : Option Nat := none
  /-- the input demands and has an action -/
  demand : Bool := false
deriving DecidableEq, Repr

/-- A scan-mask channel (R389, R390): the two converters' last codes, breach, disagreement and its run. -/
structure ScanCh where
  code0 : Int := 0
  code1 : Int := 0
  have0 : Bool := false
  have1 : Bool := false
  breach : Bool := false
  dis   : Bool := false
  run   : Nat := 0
deriving DecidableEq, Repr

/-- A scan-mask converter: faulty, and clean reference results since (R389). -/
structure ScanConv where
  faulty : Bool := false
  clean  : Nat := 0
deriving DecidableEq, Repr

/-- The states of a contactor output (R391). -/
inductive SoutState where
  | open
  | closing
  | closed
  | fault
deriving DecidableEq, Repr

/-- A contactor output (R391 to R396). -/
structure Sout where
  st       : SoutState := .open
  energised : Bool := false
  readback : Bool := false
  /-- FAULT came from a failed dark test with TF_ACT 0b10 -/
  testFault : Bool := false
  /-- end of the confirmation time in CLOSING -/
  closeBy  : Nat := 0
  /-- next dark test -/
  testAt   : Option Nat := none
  /-- pulse in progress: its end -/
  pulseEnd : Option Nat := none
  /-- recovery in progress: its end -/
  recovEnd : Option Nat := none
  /-- the readback was low in the last 20 us of the pulse -/
  pulseOk  : Bool := false
  /-- last fall of the readback -/
  fellAt   : Nat := 0
  /-- last switch-off of the output -/
  offAt    : Nat := 0
deriving DecidableEq, Repr

/-- A Plumb-channel connection (R397 to R401). -/
structure Conn where
  /-- 0 IDLE, 1 WAIT, 2 RUN, 3 FAILED -/
  st      : Nat := 0
  cause   : Nat := 0
  /-- producer: next SEQ; consumer: expected SEQ -/
  seq     : Word := 0
  first   : Bool := true
  /-- SEQ of the accepted START message (consumer) -/
  start   : Word := 0
  /-- SAFETY word sent last (producer) -/
  sent    : Nat := 0
  dueAt   : Nat := 0
  wdEnd   : Nat := 0
  /-- instants of the discards of the last second -/
  discards : List Nat := []
  crc     : Nat := 0
  idc     : Nat := 0
  dup     : Nat := 0
  late    : Nat := 0
  safe    : Nat := 31
  /-- the fail-safe action of R401 stands -/
  acting  : Bool := false
  saddle  : Bool := false
  spo     : Bool := false
  /-- last message formed (producer), as bytes -/
  msg     : List Byte := []
deriving DecidableEq, Repr

/-- The states of Saddle mode (R402). -/
inductive Saddle where
  | normal
  | active
  | clearing
  | expired
deriving DecidableEq, Repr

/-- A write of the PLUMB or PCH page that has not taken effect: a guarded one in the firmware's hands, with what it found at
arrival (R381) and the SEQ of its field-book entry, or a plain one of the same master that waits behind it (R451, R566). -/
structure Handed where
  master  : Master
  key     : Nat
  val     : Word
  guarded : Bool := true
  ok      : Bool := true
  seq     : Option Nat := none
deriving DecidableEq, Repr

/-- Plumb (R381 to R404, R410). -/
structure Plumb where
  /-- SPO is latched (R385) -/
  spo      : Bool := true
  /-- sources active now, by the bits of R384 -/
  active   : Word := 1
  /-- SPO_FIRST -/
  first    : Word := 1
  /-- sources that have demanded since the last release -/
  seen     : Word := 1
  /-- self-test passed -/
  selftest : Bool := false
  /-- an internal fault is recorded (R382) -/
  faultRec : Bool := false
  /-- since when a leg or phase is frozen at rank 5 (R387) -/
  frozen   : Option Nat := none
  island   : List Nat := []
  saddle   : Saddle := .normal
  /-- causes SW, CHANNEL, SAIN, TEST, PAIR that are active -/
  causes   : Word := 0
  /-- starts of the Saddle timer and of the clean timer -/
  sadAt    : Nat := 0
  cleanAt  : Nat := 0
  exitReq  : Bool := false
  /-- RTC seconds of the entries to ACTIVE in the last 24 h -/
  entries  : List Nat := []
  nextEval : Nat := 0
  nextSelf : Nat := 0
  /-- the master of a write of SAD_CTL that the table has yet to answer, and the cause SW before it (R402, R408) -/
  asked    : Option (Master × Bool) := none
  /-- writes of the PLUMB and PCH pages that the firmware has yet to apply, oldest first (R381, R566) -/
  handed   : List Handed := []
deriving DecidableEq, Repr

/-- A tile of a checkpoint being captured (R428): source, destination, lane, the instant at or after which a boundary of
the lane's domain must lie, and the tile's bytes once captured. -/
structure CkTile where
  src  : Nat
  dst  : Nat
  lane : Nat
  due  : Nat
  data : Option (List Byte)
deriving DecidableEq, Repr

/-- A checkpoint being sent (R428): its number, NODATUM, Datum time, tiles, software block and next segment. -/
structure CkSend where
  num   : Nat
  nodat : Bool
  time  : Nat
  tiles : List CkTile
  sw    : List Byte
  seg   : Nat := 0
deriving DecidableEq, Repr

/-- A complete checkpoint in a slot (R429): its number, the instant its age counts from, its tiles as SRC, DST and bytes,
and its software block. -/
structure Ckpt where
  num   : Nat
  start : Nat
  tiles : List (Nat × Nat × List Byte)
  sw    : List Byte
deriving DecidableEq, Repr

/-- The pair function (R417 to R431). -/
structure Pair where
  /-- STAT.STATE (R425) -/
  st       : Nat := 0
  /-- members that rank 2 does not hold: legs, a direct phase by the leg that drives it (R420) -/
  released : List Nat := []
  /-- the own claim stands, since -/
  own      : Bool := false
  ownAt    : Nat := 0
  /-- CLAIM_SETTLE has passed with the peer's line high throughout -/
  settled  : Bool := false
  /-- the filtered CLAIM_PEER_N is low, and its last change -/
  peerLow  : Bool := false
  peerAt   : Nat := 0
  /-- low against the peer's reported state since (R421) -/
  stuckAt  : Option Nat := none
  /-- a secondary released its claim under R421 -/
  yielded  : Bool := false
  /-- next 1 us test -/
  stepAt   : Nat := 0
  /-- last KEEP -/
  keepAt   : Nat := 0
  /-- CTL.GO, GIVE, CLR written since the last test -/
  go       : Bool := false
  give     : Bool := false
  clr      : Bool := false
  /-- next periodic heartbeat; one is due for a change of state or claim -/
  hbAt     : Nat := 0
  hbDue    : Bool := false
  /-- last heartbeat of the pair link and of the ring; none while the path is lost -/
  linkAt   : Option Nat := none
  ringAt   : Option Nat := none
  /-- the peer is lost since -/
  lostAt   : Nat := 0
  /-- a heartbeat of the peer has come: its state and flags -/
  peer     : Option (Nat × Nat) := none
  roleErr  : Bool := false
  cold     : Bool := false
  /-- healthy with Saddle NORMAL since (R430) -/
  wellAt   : Option Nat := none
  /-- entry to CLAIMING; a takeback; an installation is in progress, with the checkpoint -/
  claimAt  : Nat := 0
  takeback : Bool := false
  installs : Bool := false
  useCk    : Bool := false
  /-- end of the last installation (R420) -/
  installed : Option Nat := none
  /-- legs whose group was armed, and committed, by a pass that started after it -/
  ready    : List Nat := []
  fresh    : List Nat := []
  /-- last capture, the number of the last checkpoint captured, and of the last complete one sent or received -/
  capAt    : Nat := 0
  capNum   : Nat := 0
  lastNum  : Nat := 0
  tx       : Option CkSend := none
  /-- the slot being written: next segment, bytes, and the instant of segment 0 -/
  rx       : Option (Nat × List Byte × Nat) := none
  /-- the checkpoint that comes in is judged already: CKPT_BAD has been raised for it (R429) -/
  rxBad    : Bool := false
  /-- the slot that holds the last complete checkpoint -/
  slot     : Option Ckpt := none
  /-- end of the frame on the pair link, and the last frame sent -/
  linkFree : Nat := 0
  sent     : List Byte := []
deriving DecidableEq, Repr

/-- An occurrence in a source queue (R435 to R439). -/
structure Occ where
  /-- tick counter [31:0] at the occurrence -/
  stamp    : Word
  /-- route captured at recognition (R437) -/
  route    : Word
  /-- occurrences merged into it, 0 to 15 (R436) -/
  merged   : Nat
  /-- promoted to urgent (R439) -/
  promoted : Bool
  /-- delivered on CHA (R438) -/
  doneA    : Bool
  /-- delivered on CHB (R438) -/
  doneB    : Bool
  /-- instant at which it became the head -/
  since    : Nat
deriving DecidableEq, Repr

/-- A source's queue of up to four occurrences (R436) and the CLK_FAB cycle of its last one (R435). -/
structure SrcQ where
  q    : List Occ := []
  last : Option Nat := none
deriving DecidableEq, Repr

/-- An event channel: the instant it is free again (R438), its record queue of up to eight (R440), the captured
CHn_REC1 (R441), and whether it holds an interrupt (R440). -/
structure Chan where
  nextFree : Nat := 0
  recs     : List (Word × Word) := []
  rec1     : Word := 0
  gap      : Bool := false
  lost     : Nat := 0
  promo    : Nat := 0
deriving DecidableEq, Repr

/-- A trouble-log entry before its SEQ and CHECK (R445). -/
structure LogEnt where
  time    : Nat
  rtc     : Bool
  page    : Nat
  code    : Nat
  payload : List Word
  late    : Bool := false
  raised  : Nat := 0
  mark    : Bool := false
  valley  : Bool := false
  /-- changes of the time base before its stamp, loads of the RTC before it, and what the MARK of the last such change holds:
  the time that the base before it had then (R446, R447) -/
  epoch   : Nat := 0
  loads   : Nat := 0
  turn    : Nat := 0
deriving DecidableEq, Repr

/-- The trouble log (R445 to R450), held in PD_VALLEY. -/
structure Log where
  /-- entries stamped by their writers, not yet submitted (R446) -/
  stamped  : List LogEnt := []
  /-- the reorder buffer: entry and instant of submission, up to 64 -/
  buffer   : List (LogEnt × Nat) := []
  /-- the 4096 entries as 8 words each, by index -/
  entries  : List (Nat × List Word) := []
  /-- LOG_STAT.HEAD -/
  head     : Nat := 0
  /-- entries held, up to 4096 -/
  count    : Nat := 0
  /-- SEQ of the next entry -/
  seq      : Nat := 0
  /-- LOG_STAT.FULL -/
  full     : Bool := false
  /-- base of the newest entry written: RTC; while none is written, the reset value of LOG_STAT.BASE -/
  baseRtc  : Bool := false
  /-- an entry, or a MARK, has been written since the log was last empty -/
  started  : Bool := false
  /-- TIME of the last entry written on Datum time, and on RTC time -/
  lastTime : Nat := 0
  lastRtc  : Nat := 0
  /-- changes of the time base so far, those before the newest entry written, and loads of the RTC so far (R447) -/
  epoch    : Nat := 0
  lastEpoch : Nat := 0
  loads    : Nat := 0
  /-- last valid Datum time (R447 TO_RTC) -/
  lastDatum : Nat := 0
  /-- RTC time when Datum last became valid (R447 TO_DATUM) -/
  rtcAtDatum : Nat := 0
  /-- LOG_STAT.DROPPED -/
  dropped  : Nat := 0
  /-- dropped since the last MARK LOST -/
  lostSince : Nat := 0
  /-- LOG_CNT.WRAPS -/
  wraps    : Nat := 0
  /-- LOG_CNT.LATE -/
  late     : Nat := 0
  /-- replay in progress (R449) -/
  replay   : Bool := false
  /-- MARK BOOT due before the next entry (R449) -/
  bootMark : Bool := false
  /-- STOP_FULL as PD_CORE left it to the Valley writer (R505) -/
  stopKept : Bool := false
  /-- BAD_CNT -/
  bad      : Nat := 0
  /-- word of the entry LOG_DATA returns next, 0 to 7 (R450) -/
  rword    : Nat := 0
deriving DecidableEq, Repr

/-- The event router (R435 to R444). -/
structure Evr where
  srcs  : List (Nat × SrcQ) := []
  chans : List (Nat × Chan) := []
  /-- STATUS.RESET (R444) -/
  reset : Bool := false
  /-- causes set in a CLK_FAB cycle, and that cycle: the register, its bits, and those of them that stood already (R564) -/
  fresh : List (Nat × Word × Word) := []
  freshAt : Nat := 0
deriving DecidableEq, Repr

/-- The two kinds of reset (R477). -/
inductive ResetKind where
  | powerOn
  | system
deriving DecidableEq, Repr

/-- Reset, supplies and power transitions (R473 to R478, R597). -/
structure Pwr where
  /-- the reset that lasts, if one does -/
  reset    : Option ResetKind := some .powerOn
  /-- instant at which the last reset source ended; none while a source is active -/
  srcEnd   : Option Nat := some 0
  /-- PORST_N is recognised low -/
  porst    : Bool := false
  /-- SYSRST_N is recognised low -/
  sysrst   : Bool := false
  /-- supplies above their release threshold: CORE, ANA18, ANA33, IO -/
  supply   : Word := 0xF
  /-- SYS.RST_CAUSE, held in PD_VALLEY -/
  cause    : Word := 0
  /-- domains on, by the bits of PD_STAT -/
  on       : Word := 0xD01
  /-- the transition under way: domain, switched on -/
  move     : Option (PDom × Bool) := none
  /-- start of that transition -/
  moveAt   : Nat := 0
  /-- BOOT_STAT -/
  boot     : Word := 0
  /-- a thermal cut-off lasts (R484) -/
  cut      : Bool := false
  /-- the debugger started the reset that lasts (R565) -/
  byDebug  : Bool := false
deriving DecidableEq, Repr

/-- Clock synthesis (R461 to R472). -/
structure Clk where
  /-- the working clocks run -/
  running  : Bool := false
  /-- instant of tick 0 (R464) -/
  tick0    : Nat := 0
  locked   : Bool := false
  holdover : Bool := false
  refBad   : Bool := false
  noref    : Bool := false
  delib    : Bool := false
  /-- the mode in force (R462) -/
  mode     : Nat := 0
  /-- the reference is qualified and the PLL acquires -/
  acquiring : Bool := false
  /-- since when the reference is measured for qualification -/
  qualFrom : Option Nat := some 0
  lockAt   : Nat := 0
  /-- the PLL hold of R165 is in force -/
  pllHold  : Bool := false
  /-- marks at which a written CTL.UPDATE applies (R471) -/
  updAt    : List Nat := []
  updRef   : Bool := false
  ppm      : Int := 0
  /-- CLKOUTn_CFG in force -/
  outCfg   : List (Nat × Word) := []
  /-- CLKOUTn_DIV in force -/
  outDiv   : List (Nat × Word) := []
  /-- outputs disabled at the last mark, enabled again at the next (R471) -/
  outHeld  : List Nat := []
  /-- that mark -/
  heldAt   : Nat := 0
  /-- instant of each output's first rising edge after its last restart -/
  outEdge  : List (Nat × Nat) := []
  /-- end of the high phase in progress at the last restart -/
  outHigh  : List (Nat × Nat) := []
  /-- outputs stopped by HOLD_STOP since the root went on holdover (R472) -/
  outStop  : List Nat := []
deriving DecidableEq, Repr

/-- Temperature (R480 to R486). -/
structure Therm where
  /-- sensors of the measurement that runs -/
  running  : Word := 0
  runEnd   : Nat := 0
  /-- of those, demanded by software -/
  runSw    : Bool := false
  runScan  : Bool := false
  /-- demands joined to the next measurement -/
  next     : Word := 0
  nextSw   : Bool := false
  nextScan : Bool := false
  scanAt   : Nat := 0
  warn     : Bool := false
  stopping : Bool := false
  stopped  : Bool := false
  stopAt   : Nat := 0
  cut      : Bool := false
  maxSensor : Nat := 0
  max      : Int := 0
  /-- consecutive scans below RESUME_TH in a cut-off -/
  cool     : Nat := 0
  /-- every sensor was below STOP_TH - HYST in the last guard scan -/
  scanCool : Bool := false
deriving DecidableEq, Repr

/-- A standing grant of the energy gate (R507): its energy and the instant it was made. -/
structure Grant where
  uj    : Nat
  since : Nat
deriving DecidableEq, Repr

/-- The Valley domain (R496 to R509). -/
structure Valley where
  /-- power-on reset of PD_VALLEY lasts (R502) -/
  por      : Bool := false
  vbor     : Bool := true
  /-- newest sample in mV -/
  vstore   : Nat := 0
  /-- 0 cold start, 1 HARVEST, 2 FULL, 3 DISABLED -/
  hv       : Nat := 0
  vpg      : Bool := false
  chg      : Bool := false
  holdup   : Bool := false
  holdEnd  : Nat := 0
  hvOc     : Nat := 0
  /-- next sample -/
  sampleAt : Nat := 0
  ocAt     : Nat := 0
  /-- end of the 16 ms in which VH_SW rests for the last open-circuit measurement (R498) -/
  ocEnd    : Nat := 0
  /-- the newest sample lies below VMAX (R498, R499) -/
  room     : Bool := true
  /-- RTC time at `rtcAt` -/
  rtcBase  : Nat := 0
  rtcAt    : Nat := 0
  /-- the tick at which a new RTC time is loaded, and that time (R504) -/
  rtcLoad  : Option (Nat × Nat) := none
  rtcValid : Bool := false
  xtFail   : Bool := false
  /-- grant of the update function -/
  grantUpd : Option Grant := none
  /-- grant of software -/
  grantSw  : Option Grant := none
  /-- BURST_STAT.STATE -/
  burst    : Nat := 0
  timedOut : Bool := false
  refused  : Nat := 0
  vpgFalls : Nat := 0
  /-- software request that waits for the next sample, in uJ -/
  reqSw    : Option Nat := none
  /-- update request that waits for the next sample, in uJ -/
  reqUpd   : Option Nat := none
deriving DecidableEq, Repr

/-- A performance counter (R527 to R530): its 48-bit value, whether the value is one the block can know (log entry 9), and
the last written VAL_HI. -/
structure Ctr where
  val   : Nat := 0
  known : Bool := true
  hiW   : Nat := 0
deriving DecidableEq, Repr

/-- A hart as far as the block holds it (R513 to R518). -/
structure Hart where
  /-- halted by the debugger (R533) -/
  halted   : Bool := false
  /-- end of its watchdog, while it runs (R518) -/
  wdt      : Option Nat := none
  /-- what was left of the watchdog at a halt -/
  wdtLeft  : Option Nat := none
  /-- mtimecmp and MTIP (R516) -/
  mtimecmp : Nat := 0xFFFFFFFFFFFFFFFF
  mtip     : Bool := false
  /-- LCOFIP (R529) -/
  lcofip   : Bool := false
  /-- the next hart instruction comes from the staged image, and not the boot ROM's choice (R548) -/
  staged   : Bool := false
  /-- registers the debug module has written since the halt, by their abstract-command number -/
  regs     : List (Nat × DWord) := []
  /-- it has been reset, which the debugger has not acknowledged (R532) -/
  haveReset : Bool := true
deriving DecidableEq, Repr

/-- The application cluster (R513 to R530). -/
structure Cluster where
  harts   : List (Nat × Hart) := []
  ctrs    : List (Nat × Ctr) := []
  /-- every counter stands still after an overflow (R529) -/
  pmcStop : Bool := false
  /-- word the scrubber reads next, and when (R521) -/
  scrub   : Nat := 0
  scrubAt : Nat := 0
  /-- SRAM words, by bus address, that read as uncorrectable (R521) -/
  bad     : List Nat := []
deriving DecidableEq, Repr

/-- Who makes an access: the number of a master, and the hart whose request another master serves (R528). -/
abbrev Doer := Nat × Option Nat

/-- The NV store's write queue (R525, R526): words by bus address with the number of the master,
oldest first; end of the write of the first; words
that read as uncorrectable, and words with a single-bit error (R523). -/
structure Nvm where
  queue   : List (Nat × List Byte × Doer) := []
  headEnd : Nat := 0
  bad     : List Nat := []
  weak    : List Nat := []
deriving DecidableEq, Repr

/-- The TAP and the debug module (R531, R532). -/
structure Dbg where
  /-- the TAP's instruction register; IDCODE after power-on -/
  ir      : Nat := 1
  /-- the boundary-scan levels preloaded, and those sampled last (R531) -/
  preload : List Bool := []
  sample  : List Bool := []
  /-- dmcontrol.dmactive -/
  active  : Bool := false
  /-- harts that have resumed at the last resume request (dmstatus.resumeack) -/
  acks    : List Nat := []
  /-- DENIED has been raised on this connection -/
  denied  : Bool := false
  /-- debug-module registers by their dmi address -/
  regs    : List (Nat × Word) := []
deriving DecidableEq, Repr

/-- The boot record (R544), in the Plumb NV area. -/
structure BootRec where
  active : Nat := 0
  prev   : Nat := 1
  slot   : Nat := 0
  trial  : Bool := false
  floor  : Nat := 0
deriving DecidableEq, Repr

/-- The update function (R542 to R556). -/
structure Upd where
  /-- STAT.STATE, CAUSE, DEFAULTED and FALLBACK -/
  st        : Nat := 0
  cause     : Nat := 0
  defaulted : Bool := false
  fallback  : Bool := false
  boot      : BootRec := {}
  /-- APPLY marked the inactive bank invalid (R546) -/
  invalid   : Bool := false
  /-- start of APPLYING, and the hart that asked for it -/
  applyAt   : Nat := 0
  applyFor  : Option Nat := none
  /-- a change of the boot record that waits for its grant, and since when; it is an accepted ACCEPT's -/
  want      : Option BootRec := none
  wantAt    : Nat := 0
  accept    : Bool := false
  /-- HO_AT, HO_SRC, HO_DST and HO_LEN as ARM fixed them (R549) -/
  hoAt      : Nat := 0
  hoSrc     : Nat := 0
  hoDst     : Nat := 0
  hoLen     : Nat := 0
  /-- harts of the pair that ran before the handover -/
  former    : List Nat := []
  /-- handover boundary; the set captured there; it is visible -/
  trialAt   : Nat := 0
  capture   : List Byte := []
  /-- an uncorrectable word fell in what was captured (R552) -/
  captureBad : Bool := false
  handed    : Bool := false
  /-- a watchdog expiry has inverted ROLE already (R554) -/
  roleDone  : Bool := false
  /-- the bank that was active on each lane before the handover (R554) -/
  banks     : List Bool := []
  /-- the slot that the last commit that ended in TRIAL committed (R553) -/
  slotNew   : Option Nat := none
  /-- settings-slot commit in progress: its start and end, the hart that asked for it, the slot, the bytes, and an
  uncorrectable word among them -/
  slotAt    : Nat := 0
  slotFor   : Option Nat := none
  slotEnd   : Option Nat := none
  slotBad   : Bool := false
  slotNo    : Nat := 0
  slotBytes : List Byte := []
  slotCrc   : Word := 0
deriving DecidableEq, Repr

/-- An I2C controller (R591, R592): actions that wait, the running one first, each with its ACK bit: 0 START, 1 STOP,
2 WRITE, 3 READ; since when it runs, and the byte it sends; the controller holds the bus. -/
structure I2c where
  acts  : List (Nat × Bool) := []
  since : Nat := 0
  byte  : Byte := 0
  own   : Bool := false
deriving DecidableEq, Repr

/-- An SPI controller (R591, R592): transmit FIFO, the byte that shifts first; receive FIFO; start and end of the shift; the
last byte sent, its bits in the order of the wire. -/
structure Spi where
  tx   : List Byte := []
  rx   : List Byte := []
  since : Nat := 0
  due  : Option Nat := none
  wire : Byte := 0
deriving DecidableEq, Repr

/-- A UART (R591, R592): transmit FIFO, the byte that is sent first; receive FIFO as the words RX returns; start and end of
the byte that is sent, and its bits on the line; the last byte sent. -/
structure Uart where
  tx   : List Byte := []
  rx   : List Word := []
  since : Nat := 0
  line : List Bool := []
  due  : Option Nat := none
  wire : Byte := 0
deriving DecidableEq, Repr

/-- Datum time as it ran until an instant (R594): its base at an instant before, its rate, and whether it was valid. -/
structure DatumEra where
  fin   : Nat
  base  : Nat
  since : Nat
  rate  : Int
  valid : Bool
deriving DecidableEq, Repr

/-- General I/O (R590 to R595): synchronised pin levels and the controllers. -/
structure Gio where
  pins  : Word := 0
  i2cs  : List (Nat × I2c) := []
  spis  : List (Nat × Spi) := []
  uarts : List (Nat × Uart) := []
  /-- each MAC's management frame: its start, and the command it carries -/
  mdio  : List (Nat × Nat × Word) := []
  /-- bytes of the last frame each MAC sent, with its check sequence -/
  sent  : List (Nat × List Byte) := []
  /-- end of the last frame at each MAC's receiver -/
  rxEnd : List (Nat × Nat) := []
  /-- Datum time before its last changes, oldest first, as far back as a frame may have begun -/
  eras  : List DatumEra := []
deriving DecidableEq, Repr

/-- Why the block stops. -/
inductive Fault where
  /-- No command of this model stops the block with a fault: every access the spec describes has an effect, and a bus
  error (R558) is a response, held in State.bus. Nothing raises this; safe. -/
  | none
deriving DecidableEq, Repr

/-- Why a command has no meaning. -/
inductive Refusal where
  /-- Raised by an arm of exec whose command has no meaning yet; safe. -/
  | notModelled (mnemonic : String)
deriving DecidableEq, Repr

/-- The state of the block. -/
structure State where
  /-- the instant, in steps of 20 ps (R12) -/
  now : Nat := 0
  /-- the model's own counter the free values are drawn with (log entry 6) -/
  frees : Nat := 0
  /-- commands that wait, first in, first out -/
  pending : List Instr := []
  /-- registers that differ from their reset values; for a shadowed register the shadow (R8) -/
  regs : List (Nat × Word) := []
  /-- shadowed registers whose value in force differs from its reset value (R16) -/
  act : List (Nat × Word) := []
  /-- the response of the last bus access -/
  bus : Bus := {}
  /-- boot ROM, NV store, SRAM and engine memory by bus address (R514) -/
  mem : List Host.Cell := []
  pwr : Pwr := { reset := Option.none, cause := 3 }
  clk : Clk := {}
  therm : Therm := {}
  valley : Valley := {}
  plumb : Plumb := {}
  sins : List (Nat × SafeIn) := []
  scans : List (Nat × ScanCh) := []
  scanConvs : List (Nat × ScanConv) := []
  souts : List (Nat × Sout) := []
  conns : List (Nat × Conn) := []
  pw : Passwords := {}
  fb : FieldBook := {}
  evr : Evr := {}
  log : Log := {}
  doms : List (Nat × Dom) := []
  grps : List (Nat × Grp) := []
  legs : List (Nat × Leg) := []
  holds : Holds := {}
  trips : List (Nat × TripIn) := []
  sets : List (Nat × SafeSet) := []
  mons : List (Nat × Mon) := []
  phases : List (Nat × Phase) := []
  drvs : List (Nat × DrvGrp) := []
  datum : Datum := {}
  pair : Pair := {}
  adcs : List (Nat × Adc) := []

  lanes : List (Nat × Lane) := []
  eng : Engine := {}
  gens : List (Nat × Gen) := []
  /-- capture memory (R126) -/
  capMem : List (Nat × Word) := []
  rings : Rings := {}
  grids : List (Nat × Grid) := []
  isl : Isl := {}
  trackers : List (Nat × Tracker) := []
  sweep : Sweep := {}
  rails : List (Nat × Rail) := []
  cmdPorts : CmdPorts := {}
  monument : Monument := {}
  meters : List (Nat × Meter) := []
  cluster : Cluster := {}
  nvm : Nvm := {}
  dbg : Dbg := {}
  upd : Upd := {}
  gio : Gio := {}
deriving DecidableEq, Repr

/-- The machine right after the power-on reset of a first power-up (R9, R410, R444, R478): the reset has ended, the
working clocks have not started, SPO is demanded by START, the replay of the log is due (R449), and every register holds the value
its page table gives. -/
def State.reset : State := { log := { replay := true } }

end Sys2Proof.Machine
end

