-- ==== Sys2Proof/Machine/Ops.lean ====
section
/-! DEFINITION. The named operations over the register file, the memories, time and the power domains. Every meaning
reads and writes registers through `rd` and `wr`, memories through `memRd` and `memWr`. -/

namespace Sys2Proof.Machine

/-! Registers -/

/-- What a register holds; for a shadowed register its shadow (R8). -/
def rd (s : State) (k : Nat) : Word := smGet resetVal s.regs k

/-- Write a register. -/
def wr (k : Nat) (v : Word) (s : State) : State := { s with regs := smSet resetVal s.regs k v }

/-- A field of a register. -/
def rdf (s : State) (k lo n : Nat) : Nat := fld (rd s k) lo n

/-- A signed field of a register. -/
def rdsf (s : State) (k lo n : Nat) : Int := sfld (rd s k) lo n

/-- A bit of a register. -/
def rdb (s : State) (k b : Nat) : Bool := bit (rd s k) b

/-- Write a field of a register. -/
def wrf (k lo n v : Nat) (s : State) : State := wr k (setFld (rd s k) lo n v) s

/-- Write a bit of a register. -/
def wrb (k b : Nat) (v : Bool) (s : State) : State := wrf k b 1 (if v then 1 else 0) s

/-- Add one to a counter field held at its largest value. -/
def incHeld (k lo n : Nat) (s : State) : State := wrf k lo n (held (2 ^ n - 1) (rdf s k lo n + 1)) s

/-- Add one to a counter field modulo its size. -/
def incMod (k lo n : Nat) (s : State) : State := wrf k lo n (rdf s k lo n + 1) s

/-- The value of a shadowed register in force (R16). -/
def inForce (s : State) (k : Nat) : Word := smGet resetVal s.act k

/-- Put a value in force. -/
def setForce (k : Nat) (v : Word) (s : State) : State := { s with act := smSet resetVal s.act k v }

/-- A field of a value in force. -/
def actf (s : State) (k lo n : Nat) : Nat := fld (inForce s k) lo n

/-- Forget every register of a set of pages: they read their reset values (R565, R474). -/
def dropPages (p : Nat → Bool) (s : State) : State :=
  { s with regs := s.regs.filter (fun e => !(p (e.1 / 0x1000))), act := s.act.filter (fun e => !(p (e.1 / 0x1000))) }

/-! Time -/

/-- 1 microsecond in steps of 20 ps. -/
def usec : Nat := 50000
/-- 1 millisecond. -/
def msec : Nat := 50000000
/-- 1 second. -/
def secs : Nat := 50000000000
/-- One CLK_FAB cycle (R463: 625 MHz). -/
def fabCyc : Nat := 80
/-- One CLK_PWM tick (R463: 312.5 MHz). -/
def tickLen : Nat := 160

/-- Move time forward to an instant the state has set for a happening. -/
def upto (t : Nat) (s : State) : State := { s with now := max s.now t }
/-- When something that repeats falls due next: a period after it was due, or after now where that instant has passed too. -/
def nextDue (due per now : Nat) : Nat := if now < due + per then due + per else now + per

/-- The device tick counter (R464). -/
def ticks (s : State) : Nat := if s.clk.running then (s.now - s.clk.tick0) / tickLen else 0

/-- The low 32 bits of the tick counter: every tick-counter stamp (R464). -/
def tickStamp (s : State) : Word := wNat (ticks s)

/-- An instant and the RTC time at it, from which it counts now: a loaded time counts from the tick of its load (R504). -/
def rtcStart (s : State) : Nat × Nat :=
  match s.valley.rtcLoad with
  | some (t, c) => if t ≤ s.now then (t, c) else (s.valley.rtcAt, s.valley.rtcBase)
  | none => (s.valley.rtcAt, s.valley.rtcBase)

/-- RTC time: ticks of 1/32,768 s (R503), with the trim of R504; 0 while PD_VALLEY is in its own reset (R502). -/
def rtcNow (s : State) : Nat :=
  if s.valley.por then 0 else
  let (t, c) := rtcStart s
  let n := (s.now - t) * 32768 / secs
  let trim := rdsf s (rk .valley 0 0x080) 0 8
  c + ((n : Int) + (n : Int) * trim / (2 ^ 20 : Int)).toNat

/-- Datum time at an instant in 62.5/65536 ps, modulo 2^64 units (R353, R359), where it had a value at an instant before and ran
at a rate. -/
def stampFrom (base since : Nat) (rate : Int) (t : Nat) : Nat :=
  (((base : Int) + ((t : Int) - (since : Int)) * 65536 * 8 * (10 ^ 15 + rate) / (25 * 10 ^ 15)) % 2 ^ 80).toNat

/-- Datum time at an instant in 62.5/65536 ps: the time kept since the last adjustment at the rate in force; 0 while Datum is
off. -/
def stampAt (s : State) (t : Nat) : Nat :=
  if s.datum.st = .off then 0 else stampFrom s.datum.base s.datum.since s.datum.rate t

/-- Datum time at an instant, in units of 62.5 ps (R353). -/
def datumAt (s : State) (t : Nat) : Nat := stampAt s t / 65536

/-- The first instant at which Datum time reaches a value in units of 62.5 ps. -/
def datumInstant (s : State) (d : Nat) : Nat :=
  let need : Int := signed 80 (d * 65536 + 2 ^ 80 - s.datum.base % 2 ^ 80)
  let rate : Int := 65536 * 8 * (10 ^ 15 + s.datum.rate)
  ((s.datum.since : Int) + (need * (25 * 10 ^ 15) + rate - 1) / rate).toNat

/-- From one Datum time to another, modulo 2^64 units (R353). -/
def datumSpan (a b : Nat) : Int := signed 64 (b + 2 ^ 64 - a % 2 ^ 64)

/-- Local Datum time (R353). -/
def datumNow (s : State) : Nat := datumAt s s.now

/-- Datum is valid (R366). -/
def datumValid (s : State) : Bool := s.datum.valid

/-- The next Datum cycle boundary: its Datum time and its number. -/
def nextBoundary (s : State) : Option (Nat × Nat) :=
  match s.datum.cyc with
  | none => none
  | some c =>
    if s.datum.st = .off || c.len = 0 then none
    else if datumNow s < c.dbase then some (c.dbase, c.cbase)
    else
      let m := (datumNow s - c.dbase) / c.len + 1
      some ((c.dbase + m * c.len) % 2 ^ 64, (c.cbase + m) % 2 ^ 32)

/-- The Datum time from now to the start of the next cycle of a number, by the record held and a change of length that is
pending (R354, R355); none for a cycle that is not among the 2^31 ahead. -/
def untilCycle (s : State) (number : Nat) : Option Nat :=
  match nextBoundary s, s.datum.cyc with
  | some (t, n), some c =>
    let k := (number + 2 ^ 32 - n) % 2 ^ 32
    let j := (c.nextAt + 2 ^ 32 - n) % 2 ^ 32
    let far := if c.nextLen ≠ 0 ∧ j < k then j * c.len + (k - j) * c.nextLen else k * c.len
    if k < 2 ^ 31 then some ((datumSpan (datumNow s) t).toNat + far) else none
  | _, _ => none

/-! Power, clocks and access -/

/-- The domain of a page type (R561). -/
def pageDom : PageType → PDom
  | .sys | .clk | .evr | .therm | .pmc | .gpio | .i2c | .spi | .uart => .core
  | .pwmg | .cmp | .trip | .drv => .pwm
  | .adc => .adc
  | .mtr => .mtr
  | .eng | .engc | .snd | .grid | .isl | .mppt => .eng
  | .reg => .reg
  | .ring | .datum | .pch | .pair => .ring
  | .plumb => .plumb
  | .valley => .valley
  | .nvm | .upd => .nvm
  | .eth => .eth
  | .dbg => .dbg

/-- A domain's bit in PD_STAT (R488). -/
def domBit : PDom → Nat
  | .core => 0 | .eng => 1 | .pwm => 2 | .adc => 3 | .mtr => 4 | .ring => 5 | .eth => 6 | .reg => 7
  | .nvm => 8 | .dbg => 9 | .plumb => 10 | .valley => 11

/-- A domain is on (R473). -/
def domOn (s : State) (d : PDom) : Bool := bit s.pwr.on (domBit d)

/-- The fabric reaches pages: the working clocks run, no reset lasts and PD_CORE is on (R471, R565). -/
def fabricUp (s : State) : Bool := s.clk.running && s.pwr.reset.isNone && domOn s .core

/-- A page is reached: the fabric is up and the page's domain on (R565); CFG and LANE_HALT of DBG lie in PD_CORE (R534). -/
def pageUp (s : State) (t : PageType) (off : Nat) : Bool :=
  fabricUp s && (domOn s (pageDom t) || (t == .dbg && (off == 0x040 || off == 0x044)))

/-- A function works: the clocks run, no reset lasts and its domain is on. -/
def live (s : State) (d : PDom) : Bool := s.clk.running && s.pwr.reset.isNone && domOn s d

/-- A master's number (R528, R408). -/
def masterNo : Master → Nat
  | .hart h => h.val
  | .debug => 4
  | .update => 5
  | .pair => 6
  | .plumb => 7

/-! Memories -/

/-- What an unlisted address reads as (log entry 5). -/
def memReset (_ : Nat) : Byte := 0#8

/-- The canonical form of a memory: addresses strictly rising, and no entry equal to what an unlisted address reads as. -/
def Memory.wf (m : List Host.Cell) : Bool := smWf memReset m

/-- A byte of memory. -/
def memRd (s : State) (a : Nat) : Byte := smGet memReset s.mem a

/-- Write a byte of memory. -/
def memWr (a : Nat) (b : Byte) (s : State) : State := { s with mem := smSet memReset s.mem a b }

/-- `n` bytes of memory from address `a`. -/
def memBytes (s : State) (a : Nat) : Nat → List Byte
  | 0 => []
  | n + 1 => memRd s a :: memBytes s (a + 1) n

/-- Write bytes from address `a` on. -/
def memWrBytes (a : Nat) : List Byte → State → State
  | [], s => s
  | b :: bs, s => memWrBytes (a + 1) bs (memWr a b s)

/-- The little-endian word at address `a`. -/
def memWord (s : State) (a : Nat) : Word := wNat (leNat (memBytes s a 4))

/-- Write the little-endian word at address `a`. -/
def memWrWord (a : Nat) (w : Word) (s : State) : State := memWrBytes a (leBytes 4 w.toNat) s

/-- Base of the NV store window (R522). -/
def nvBase : Nat := 0x08000000
/-- Base of SRAM (R514). -/
def sramBase : Nat := 0x10000000
/-- Base of engine memory (R70). -/
def engBase : Nat := 0x20000000

/-! Bus responses and free values -/

/-- A word of numbered flags. -/
def flagWord (n : Nat) (f : Nat → Bool) : Word := (List.range n).foldl (fun w i => setBit w i (f i)) 0

/-- The data a read returns. -/
def respond (w : Word) (s : State) : State := { s with bus := { rdata := w, err := false } }

/-- A bus error: nothing is written (R558). -/
def busError (s : State) : State := { s with bus := { rdata := 0, err := true } }

/-- Draw a free value (log entry 6): the value, and the state whose next draw is a fresh one. -/
def draw (s : State) : Word × State := (Config.freeWord s.frees, { s with frees := s.frees + 1 })

/-- A bus write takes one CLK_FAB cycle (log entry 4). -/
def busCycle (s : State) : State := { s with now := s.now + fabCyc }

/-! Lists of units -/

/-! Writes of the two pairs of harts during a handover (R548, R550) -/

/-- The master is a hart of the former run pair, from the handover until ROLE inverts back: its page writes are dropped
(R550, R554). -/
def formerPair (s : State) (m : Master) : Bool :=
  decide (s.upd.st = 6 ∨ (s.upd.st = 7 ∧ s.upd.roleDone = false)) && s.upd.former.contains (masterNo m)

/-- The master is a hart of the spare pair that runs the staged image before the handover (R548). -/
def stagedPair (s : State) (m : Master) : Bool :=
  decide (s.upd.st = 3 ∨ s.upd.st = 4 ∨ s.upd.st = 5) && decide (masterNo m < 4) &&
    decide ((masterNo m + 2 * rdf s (rk .pmc 0 0x044) 0 1) % 4 / 2 = 1)

/-- Pages the spare pair may write while it runs the staged image: UPD, bank descriptors, and the records REC0 and REC1 of EVR (R441,
R548). -/
def stagedMay (t : PageType) (off : Nat) : Bool :=
  t == .upd || (t == .eng && decide (0x048 ≤ off ∧ off < 0x098)) ||
    (t == .evr && decide (0x400 ≤ off ∧ off < 0x800 ∧ 8 ≤ off % 16))

/-- Apply an update for each member of a list. -/
def forEach {α : Type} : List α → (α → State → State) → State → State
  | [], _, s => s
  | x :: xs, f, s => forEach xs f (f x s)

/-- Apply an update where a condition holds. -/
def onlyIf (c : Bool) (f : State → State) (s : State) : State := if c then f s else s

/-! Trouble-log entries -/

/-- PD_CORE is on: it goes off with a power-on reset or a cut-off, and comes on after (R473, R485). -/
def coreUp (s : State) : Bool := domOn s .core && decide (s.pwr.reset ≠ some .powerOn)

/-- Loads of the RTC so far (R504): one that its tick has brought counts. -/
def rtcLoads (s : State) : Nat := s.log.loads + (if s.valley.rtcLoad.any fun l => decide (l.1 ≤ s.now) then 1 else 0)

/-- A trouble-log entry stamped now, on Datum time while Datum is valid and on RTC time otherwise (R446, R447), on RTC time
with VALLEY while PD_CORE is off (R505). -/
def stampEntry (page code : Nat) (payload : List Word) (s : State) : LogEnt :=
  let core := coreUp s
  let rtc := !(datumValid s && core)
  { time := if rtc then rtcNow s else datumNow s, rtc := rtc, page := page, code := code, payload := payload, valley := !core,
    epoch := s.log.epoch, loads := rtcLoads s, turn := if rtc then s.log.lastDatum else s.log.rtcAtDatum }

/-- The time base changes to Datum time, or from it: what the MARK of the change holds is noted (R447). -/
def baseTurn (valid : Bool) (s : State) : State :=
  let r := rtcNow s
  let t := datumNow s
  { s with log := { s.log with epoch := s.log.epoch + 1, rtcAtDatum := (if valid then r else s.log.rtcAtDatum),
                               lastDatum := (if valid then s.log.lastDatum else t) } }

/-- A happening writes one trouble-log entry. -/
def logIt (page code : Nat) (payload : List Word) (s : State) : State :=
  let e := stampEntry page code payload s
  { s with log := { s.log with stamped := s.log.stamped ++ [e] } }

/-- The page index of page `n` of a type, as log and field-book entries carry it (R558). -/
def pageNo (t : PageType) (n : Nat) : Nat := pageIndex (rk t n 0)

end Sys2Proof.Machine
end

