-- ==== Sys2Proof/Machine/Flags.lean ====
section
/-! DEFINITION. Event causes and occurrences: setting and clearing cause bits (R564), the global event of a cause
(R563 and the cause tables), and recognising an occurrence (R435 to R437). -/

namespace Sys2Proof.Machine

/-- Default of a source queue. -/
def srcQ0 (_ : Nat) : SrcQ := {}

/-- Default of a channel. -/
def chan0 (_ : Nat) : Chan := {}

/-- A source's queue. -/
def srcQ (s : State) (e : Nat) : SrcQ := smGet srcQ0 s.evr.srcs e

/-- Set a source's queue. -/
def setSrcQ (e : Nat) (q : SrcQ) (s : State) : State :=
  { s with evr := { s.evr with srcs := smSet srcQ0 s.evr.srcs e q } }

/-- A channel. -/
def chan (s : State) (n : Nat) : Chan := smGet chan0 s.evr.chans n

/-- Set a channel. -/
def setChan (n : Nat) (c : Chan) (s : State) : State :=
  { s with evr := { s.evr with chans := smSet chan0 s.evr.chans n c } }

/-- Event number within the page's own numbers that cause bit `k` belongs to (the cause tables, as `event j`). -/
def causeGroup (t : PageType) (k : Nat) : Nat :=
  match t with
  | .pwmg | .cmp => k / 4
  | .drv => k / 8
  | .mtr => [0, 1, 2, 2, 2, 3, 3, 4, 4, 4, 5, 5].getD k 0
  | .grid => [0, 0, 0, 1, 1, 1, 1, 2, 2, 2, 3, 3, 3].getD k 0
  | .isl => [0, 0, 1, 1, 2, 2, 3, 3, 3].getD k 0
  | .mppt => [0, 0, 0, 1, 1, 2, 2, 3].getD k 0
  | .ring => [0, 0, 0, 0, 1, 1, 2, 2, 3, 3, 3].getD k 0
  | .datum => [0, 0, 1, 1, 1, 2, 2, 2, 3, 3, 3].getD k 0
  | .pch => if k < 16 then k / 2 else 8
  | .pair => [0, 1, 1, 1, 2, 2, 2, 3, 3, 3, 3, 3].getD k 0
  | .plumb => [0, 0, 1, 1, 2, 3, 3, 4, 5, 6, 7].getD k 0
  | .clk => [0, 0, 1, 1, 2, 2, 3].getD k 0
  | .sys => [0, 0, 2, 3].getD k 0
  | .therm => [0, 1, 2, 2, 3].getD k 0
  | .valley => [0, 0, 1, 1, 2, 2, 3].getD k 0
  | .nvm => [0, 1, 2, 3].getD k 0
  | .upd => [0, 0, 1, 1, 2, 2, 3, 3].getD k 0
  | .pmc => [0, 1, 2, 2, 3, 3, 3].getD k 0
  | .dbg => [0, 0, 1, 2, 2].getD k 0
  | _ => 0

/-- The global event a page's cause bit raises; pages of R562 raise none. -/
def causeEvent (t : PageType) (n k : Nat) : Option Nat :=
  match t with
  | .eth | .gpio | .i2c | .spi | .uart | .engc => none
  | _ => some (pageEvBase t n + causeGroup t k)

/-- Does a route enable a channel (R437)? -/
def routed (r : Word) : Bool := bit r 6 || bit r 14

/-- Recognise an occurrence of event `e` (R435 to R437): one per event and CLK_FAB cycle; dropped where its route enables
no channel; merged into the newest where its queue is full. The flag says that it was merged. -/
def occurCore (e : Nat) (s : State) : State × Bool :=
  if !(fabricUp s) then (s, false) else
  let q := srcQ s e
  let cyc := s.now / fabCyc
  if q.last = some cyc then (s, false) else
  let r := rd s (rk .evr 0 (0x800 + 4 * e))
  let q := { q with last := some cyc }
  if !(routed r) then (setSrcQ e q s, false) else
  let o : Occ := { stamp := tickStamp s, route := r, merged := 0, promoted := false, doneA := false, doneB := false, since := s.now }
  if q.q.length < 4 then (setSrcQ e { q with q := q.q ++ [o] } s, false)
  else
    let merge : Occ → Occ := fun x => { x with merged := held 15 (x.merged + 1) }
    let qs := q.q.dropLast ++ (q.q.getLast?.map merge).toList
    (incMod (rk .evr 0 0x050) 0 32 (setSrcQ e { q with q := qs } s), true)

/-- The cause bits of a register that have been set in this CLK_FAB cycle: a clear leaves them (R564). -/
def freshBits (s : State) (k : Nat) : Word :=
  if s.evr.freshAt = s.now / fabCyc then (smGet (smConst (0, 0)) s.evr.fresh k).1 else 0
/-- Of those, the bits that stood already: their setting has made no occurrence, and makes one if a clear falls in the same cycle. -/
def stoodBits (s : State) (k : Nat) : Word :=
  if s.evr.freshAt = s.now / fabCyc then (smGet (smConst (0, 0)) s.evr.fresh k).2 else 0
/-- Keep both for this CLK_FAB cycle. -/
def setFreshBits (k : Nat) (fresh stood : Word) (s : State) : State :=
  let cyc := s.now / fabCyc
  let old := if s.evr.freshAt = cyc then s.evr.fresh else []
  { s with evr := { s.evr with fresh := smPut k (fresh, stood) old, freshAt := cyc } }

/-- Bit `b` of a register of causes sets, now. -/
def setFresh (k b : Nat) (s : State) : State :=
  let f := freshBits s k
  let stood := if rdb s k b && !(bit f b) then setBit (stoodBits s k) b true else stoodBits s k
  wrb k b true (setFreshBits k (setBit f b true) stood s)

/-- Clear bits of a register of causes, but those set in the same CLK_FAB cycle (R564): the state, and the bits whose setting now
counts as an occurrence. -/
def clearFresh (k : Nat) (m : Word) (s : State) : Word × State :=
  let f := freshBits s k
  let stood := stoodBits s k
  let s := if stood &&& m = 0 then s else setFreshBits k f (stood &&& ~~~ m) s
  (stood &&& m, wr k (rd s k &&& ~~~ (m &&& ~~~ f)) s)

/-- An occurrence; a merge sets cause MERGE of the EVR page (R460), itself an occurrence of event 503 where enabled. -/
def occur (e : Nat) (s : State) : State :=
  let (s, m) := occurCore e s
  if !m then s else
  let raw := rk .evr 0 0x010
  let was := rdb s raw 2
  let s := setFresh raw 2 s
  if !was && rdb s (rk .evr 0 0x014) 2 then (occurCore 503 s).1 else s

/-- Set cause bit `k` of page `n` of a type; an enabled cause that was 0 makes an occurrence (R435, R564). -/
def raise (t : PageType) (n k : Nat) (s : State) : State :=
  let raw := rk t n 0x010
  let was := rdb s raw k
  let s := setFresh raw k s
  if !was && rdb s (rk t n 0x014) k then
    match causeEvent t n k with
    | some e => occur e s
    | none => s
  else s

/-- Clear the cause bits of a mask, but those set in the same CLK_FAB cycle: the setting of an enabled one is an occurrence
(R564). -/
def clearCauses (t : PageType) (n : Nat) (m : Word) (s : State) : State :=
  let (now', s) := clearFresh (rk t n 0x010) m s
  forEach (setBits (now' &&& rd s (rk t n 0x014)) 32) (fun k s => match causeEvent t n k with | some e => occur e s | none => s) s

/-- The enables of EV_EN; on a DRV page the top bit of each phase is reserved (R202, R559). -/
def enMask (t : PageType) : Word := match t with | .drv => 0x7F7F7F7F | _ => 0xFFFFFFFF

/-- Write EV_EN: enabling a cause that is already set makes an occurrence (R435, R564). -/
def writeEvEn (t : PageType) (n : Nat) (v : Word) (s : State) : State :=
  let old := rd s (rk t n 0x014)
  let v := v &&& enMask t
  let fresh := rd s (rk t n 0x010) &&& v &&& ~~~ old
  let s := wr (rk t n 0x014) v s
  forEach (setBits fresh 32) (fun k s => match causeEvent t n k with | some e => occur e s | none => s) s

/-- Set cause `k` of trip input `i` in TRi_STAT[13:8] (R196); TRi_EVEN enables it. -/
def raiseTrip (i k : Nat) (s : State) : State :=
  let st := rk .trip 0 (0x118 + 0x20 * i)
  let was := rdb s st (8 + k)
  let s := setFresh st (8 + k) s
  if !was && rdb s (rk .trip 0 (0x114 + 0x20 * i)) k then occur (192 + i) s else s

/-- Clear causes of trip input `i`, given at their places in TRi_STAT, likewise (R194, R196, R564). -/
def clearTrip (i : Nat) (m : Word) (s : State) : State :=
  let (now', s) := clearFresh (rk .trip 0 (0x118 + 0x20 * i)) (m &&& 0x3F00#32) s
  if (now' >>> 8) &&& rd s (rk .trip 0 (0x114 + 0x20 * i)) = 0 then s else occur (192 + i) s

end Sys2Proof.Machine
end

