-- ==== Sys2Proof/Machine/Counters.lean ====
section
/-! DEFINITION. Performance counters (R527 to R530), harts as the counters and the event router see them. -/

namespace Sys2Proof.Machine

/-- Key of a PMC register (R537). -/
def pmcKey (off : Nat) : Nat := rk .pmc 0 off
/-- Key of a counter's register. -/
def ctrKey (n off : Nat) : Nat := pmcKey (0x100 + 0x20 * n + off)
/-- Raise a cause of the PMC page (R539). -/
def raisePmc (k : Nat) (s : State) : State := raise .pmc 0 k s
/-- Default of a counter. -/
def ctr0 (_ : Nat) : Ctr := {}
/-- A counter. -/
def ctr (s : State) (n : Nat) : Ctr := smGet ctr0 s.cluster.ctrs n
/-- Set a counter. -/
def setCtr (n : Nat) (c : Ctr) (s : State) : State :=
  { s with cluster := { s.cluster with ctrs := smSet ctr0 s.cluster.ctrs n c } }
/-- Default of a hart. -/
def hart0 (_ : Nat) : Hart := {}
/-- A hart. -/
def hart (s : State) (h : Nat) : Hart := smGet hart0 s.cluster.harts h
/-- Change a hart. -/
def onHart (h : Nat) (f : Hart → Hart) (s : State) : State :=
  { s with cluster := { s.cluster with harts := smSet hart0 s.cluster.harts h (f (hart s h)) } }
/-- A hart is halted by the debugger. -/
def anyHalted (s : State) : Bool := (List.range 4).any fun h => (hart s h).halted
/-- CL_STAT.ROLE. -/
def role (s : State) : Nat := rdf s (pmcKey 0x044) 0 1
/-- The physical hart of a role position (R517). -/
def physHart (s : State) (p : Nat) : Nat := (p + 2 * role s) % 4

/-- Counting is stopped for every counter (R527, R529). -/
def pmcFrozen (s : State) : Bool :=
  rdb s (pmcKey 0x040) 0 || s.cluster.pmcStop || (rdb s (pmcKey 0x040) 2 && anyHalted s)

/-- The block sees every occurrence that the counter may count (log entry 9): those of its class all lie inside the block, or
they are accesses, and MASTER admits the debug module alone, whose accesses are all commands. -/
def classSeen (s : State) (n : Nat) : Bool :=
  let c := rdf s (ctrKey n 0) 0 8
  c = 0 || c = 9 || c = 12 || c = 13 || c = 14 || ((c = 3 || c = 4 || c = 8) && rdf s (ctrKey n 0) 16 8 = 16)

/-- The address filter of a counter admits an address (R528). -/
def addrOk (s : State) (n : Nat) (a : Option Nat) : Bool :=
  !(rdb s (ctrKey n 0) 25) || a.all fun x => decide ((rd s (ctrKey n 4)).toNat ≤ x ∧ x ≤ (rd s (ctrKey n 8)).toNat)

/-- The counter counts: enabled, not frozen, and neither mask is 0 (R527, R528). -/
def ctrRuns (s : State) (n : Nat) : Bool :=
  rdb s (ctrKey n 0) 24 && !(pmcFrozen s) && rdf s (ctrKey n 0) 8 4 ≠ 0 && rdf s (ctrKey n 0) 16 8 ≠ 0

/-- A counter steps from its greatest value to 0 (R529). -/
def ctrOverflow (n : Nat) (s : State) : State :=
  let s := setCtr n { ctr s n with val := 0, known := true } s
  let s := wrb (pmcKey (0x060 + 4 * (n / 32))) (n % 32) true s
  let s := if rdb s (pmcKey 0x040) 1 then { s with cluster := { s.cluster with pmcStop := true } } else s
  let s := if rdb s (pmcKey (0x068 + 4 * (n / 32))) (n % 32) then raisePmc (n / 32) s else s
  match setBits (wNat (rdf s (ctrKey n 0) 16 4)) 4 with
  | [h] => if rdb s (ctrKey n 0) 26 then onHart h (fun x => { x with lcofip := true }) s else s
  | _ => s

/-- A counter steps. -/
def ctrStep (n : Nat) (s : State) : State :=
  if (ctr s n).val + 1 < 2 ^ 48 then setCtr n { ctr s n with val := (ctr s n).val + 1 } s else ctrOverflow n s

/-- A counter whose occurrences the block does not see runs: its value is not known from now on (log entry 9). -/
def pmcSettle (s : State) : State :=
  forEach (List.range 64) (fun n s =>
    if (ctr s n).known && ctrRuns s n && !(classSeen s n) then
      setCtr n { ctr s n with known := false } s
    else s) s

/-- The master filter admits an occurrence (R528): of a unit that has no master number, where every number is admitted (log
entry 9). -/
def masterOk (s : State) (n cls : Nat) (m : Option Doer) : Bool :=
  let k := ctrKey n 0
  cls = 12 || cls = 13 || match m with
    | some x => rdb s k (16 + x.1)
    | none => rdf s k 16 8 = 255

/-- The hart in whose mode an access is made (R528): its master, or the one whose request its master serves. -/
def modeHart (m : Option Doer) : Option Nat := m.bind fun d => if d.1 < 4 then some d.1 else d.2

/-- The privilege filter admits an occurrence (R528): the mode of a hart that is halted is debug mode, that of a hart that runs
one of the others, which the block does not see; without a hart it is machine mode. None where it cannot be told. -/
def modeOk (s : State) (n cls : Nat) (m : Option Doer) : Option Bool :=
  let p := rdf s (ctrKey n 0) 8 4
  if 12 ≤ cls then some true else
  match modeHart m with
  | some h =>
    if (hart s h).halted then some (decide (p / 8 % 2 = 1))
    else if p % 8 = 7 then some true
    else if p % 8 = 0 then some false
    else none
  | none => some (decide (p / 4 % 2 = 1))

/-- An occurrence of a class of the block's own, at an address where the class has that filter (R527, R528). A counter whose
privilege filter cannot be told is not known from then on (log entry 9). -/
def pmcCount (cls : Nat) (m : Option Doer) (a : Option Nat) (s : State) : State :=
  if !(fabricUp s) then s else
  forEach (List.range 64) (fun n s =>
    if ctrRuns s n && decide (rdf s (ctrKey n 0) 0 8 = cls) && (ctr s n).known && masterOk s n cls m && addrOk s n a then
      match modeOk s n cls m with
      | some true => ctrStep n s
      | some false => s
      | none => setCtr n { ctr s n with known := false } s
    else s) s

/-! Accesses over the fabric -/

/-- Accesses of a class are counted where a counter asks for them. -/
def pmcAccesses (cls : Nat) (m : Doer) (a : Nat) (s : State) : State :=
  if (List.range 64).any (fun n => rdf s (ctrKey n 0) 0 8 = cls && rdb s (ctrKey n 0) 24) then pmcCount cls (some m) (some a) s
  else s

/-- An access of a master at an address is counted (R527): a store or a load, and where it lies in a page a register page
access.  DESIGN CHOICE: it is counted before it has its effect, and also where it is answered with an error (log entry 9). -/
def pmcAccess (m : Doer) (store : Bool) (a : Nat) (page : Bool) (s : State) : State :=
  let s := pmcAccesses (if store then 4 else 3) m a s
  if page then pmcAccesses 8 m a s else s

/-- The address of a register (R558). -/
def regAddr (t : PageType) (n off : Nat) : Nat := 0x40000000 + 0x1000 * pageIndex (rk t n off) + off

/-- The register window. -/
def pageWindow (a : Nat) : Bool := decide (0x40000000 ≤ a ∧ a < 0x40C10000)

/-- An address lies in a page. -/
def pageAt (a : Nat) : Bool := pageWindow a && (pageOf (busKey a / 0x1000)).isSome

/-- A register write of a master at a page: it takes a bus cycle, and has its effect where the page is up and the write is
not dropped. -/
def atPage (m : Master) (t : PageType) (off : Nat) (f : State → State) (s : State) : State :=
  busCycle (
    if !(pageUp s t off) || (t == .valley && s.valley.por) then s
    else if formerPair s m && !(t == .upd) then wr (rk .upd 0 0x094) (rd s (rk .upd 0 0x094) + 1) s
    else if stagedPair s m && !(stagedMay t off) then s
    else f s)

/-- A command that writes a register of page `n` of a type: it is counted, and has its effect at the page. -/
def byBus (m : Master) (t : PageType) (n off : Nat) (f : State → State) (s : State) : State :=
  atPage m t off f (pmcAccess (masterNo m, none) true (regAddr t n off) true s)

/-- A command that reads a register of page `n` of a type: it is counted, and reads 0 where the page is not reached. -/
def readAt (m : Master) (t : PageType) (n off : Nat) (f : State → State) (s : State) : State :=
  let s := pmcAccess (masterNo m, none) false (regAddr t n off) true s
  if pageUp s t off then f s else respond 0 s

/-! SRAM (R521) -/

/-- The uncorrectable SRAM words in a range. -/
def sramBad (s : State) (a n : Nat) : List Nat := s.cluster.bad.filter fun w => decide (w < a + n ∧ a < w + 8)
/-- A range of SRAM is read: each uncorrectable word of it is counted and reported (R521). -/
def sramCheck (a n : Nat) (s : State) : State :=
  forEach (sramBad s a n) (fun w s =>
    raisePmc 5 (wr (pmcKey 0x05C) (wNat (w - sramBase)) (incHeld (pmcKey 0x058) 0 32 s))) s
/-- Bytes of SRAM are written: a word written whole is sound again; a part of one leaves it uncorrectable. -/
def sramWrite (a : Nat) (bytes : List Byte) (s : State) : State :=
  let s := memWrBytes a bytes s
  let n := bytes.length
  { s with cluster := { s.cluster with bad := s.cluster.bad.filter fun w => !(decide (a ≤ w ∧ w + 8 ≤ a + n)) } }

/-! NV store -/

/-- One word write of the NV store: 300 ns (R525). -/
def nvWordTime : Nat := 15000
/-- Raise a cause of the NVM page (R536). -/
def raiseNvm (k : Nat) (s : State) : State := raise .nvm 0 k s
/-- Change the write queue. -/
def onNvm (f : Nvm → Nvm) (s : State) : State := { s with nvm := f s.nvm }
/-- A range of the NV store holds no uncorrectable word. -/
def nvClean (s : State) (a n : Nat) : Bool := !(s.nvm.bad.any fun w => decide (w < a + n ∧ a < w + 8))
/-- A range of the NV store is read: an uncorrectable word is counted and reported; a single-bit error is counted, reported and
written back corrected (R521, R523). -/
def nvRead (a n : Nat) (s : State) : State :=
  let inside : Nat → Bool := fun w => decide (w < a + n ∧ a < w + 8)
  let s := forEach (s.nvm.bad.filter inside) (fun w s =>
    raiseNvm 1 (wr (rk .nvm 0 0x050) (wNat (w - nvBase)) (incHeld (rk .nvm 0 0x04C) 0 32 s))) s
  let s := forEach (s.nvm.weak.filter inside) (fun _ s => raiseNvm 0 (incHeld (rk .nvm 0 0x048) 0 32 s)) s
  onNvm (fun n => { n with weak := n.weak.filter fun w => !(inside w) }) s

/-- Word writes of the NV store are counted (R524), by a master where one makes them. -/
def nvCount (m : Option Doer) (a words : Nat) (s : State) : State :=
  let k := rk .nvm 0 0x054
  let s := wr k (rd s k + wNat words) s
  if (List.range 64).any (fun n => rdf s (ctrKey n 0) 0 8 = 9 && rdb s (ctrKey n 0) 24) then
    forEach (List.range words) (fun i s => pmcCount 9 m (some (a + 8 * i)) s) s
  else s

/-- One word of the NV store is written, whole or in part, by a master: it is sound, and counted (R523, R524). -/
def nvStore (m : Option Doer) (a : Nat) (bytes : List Byte) (s : State) : State :=
  let w := a / 8 * 8
  nvCount m w 1 (onNvm (fun n => { n with bad := n.bad.filter (· ≠ w), weak := n.weak.filter (· ≠ w) }) (memWrBytes a bytes s))

/-- Whole words of the NV store are written from an aligned address on: they are sound, and each is counted (R523, R524). -/
def nvStores (m : Option Doer) (a : Nat) (bytes : List Byte) (s : State) : State :=
  let other : Nat → Bool := fun w => !(decide (a ≤ w ∧ w < a + bytes.length))
  nvCount m a (bytes.length / 8)
    (onNvm (fun n => { n with bad := n.bad.filter other, weak := n.weak.filter other }) (memWrBytes a bytes s))

/-- The write of a word is cut off: it reads as its old value or its new value, either with or without a single-bit error, or
as uncorrectable (R526). -/
def nvCutWord (a : Nat) (bytes : List Byte) (s : State) : State :=
  let w := a / 8 * 8
  let (f, s) := draw s
  let s := if bit f 0 then memWrBytes a bytes s else s
  onNvm (fun n =>
    if bit f 1 then { n with bad := w :: n.bad.filter (· ≠ w), weak := n.weak.filter (· ≠ w) }
    else { n with bad := n.bad.filter (· ≠ w), weak := (if bit f 2 then [w] else []) ++ n.weak.filter (· ≠ w) }) s

/-- The counter's value as it stands, a free value where the block cannot know it. -/
def ctrValue (n : Nat) (s : State) : Nat × State :=
  let c := ctr s n
  if c.known then (c.val, s) else
  let (a, s) := draw s
  let (b, s) := draw s
  let v := a.toNat + 2 ^ 32 * (b.toNat % 65536)
  (v, if ctrRuns s n then s else setCtr n { ctr s n with val := v, known := true } s)

/-- Write CTRn_CFG (R527): an unassigned class is refused. -/
def writeCtrCfg (n : Nat) (v : Word) (s : State) : State :=
  if 0x0F ≤ fld v 0 8 then raisePmc 6 s else pmcSettle (wr (ctrKey n 0) (v &&& 0x07FF0FFF#32) s)

/-- Write a register of the PMC page that is not RWL. -/
def writePmc (off : Nat) (v : Word) (s : State) : State :=
  if off = 0x040 then
    let s := wr (pmcKey 0x040) (v &&& 7#32) s
    pmcSettle (if bit v 1 then s else { s with cluster := { s.cluster with pmcStop := false } })
  else if off = 0x060 ∨ off = 0x064 then wr (pmcKey off) (rd s (pmcKey off) &&& ~~~ v) s
  else if off = 0x050 then
    let now := s.now
    { wr (pmcKey 0x050) (v &&& 0xFF#32) s with cluster := { s.cluster with scrubAt := now } }
  else if 0x100 ≤ off ∧ off < 0x900 then
    let n := (off - 0x100) / 0x20
    match off % 0x20 with
    | 0x00 => writeCtrCfg n v s
    | 0x04 | 0x08 => wr (pmcKey off) v s
    | 0x0C =>
      let c := ctr s n
      let known := !(ctrRuns s n) || classSeen s n
      setCtr n { c with val := v.toNat + 2 ^ 32 * c.hiW, known := known } s
    | 0x10 => wr (pmcKey off) (v &&& 0xFFFF#32) (setCtr n { ctr s n with hiW := v.toNat % 65536 } s)
    | _ => s
  else s

/-- Read CTRn_VAL_LO: it captures CTRn_VAL_HI (R537). -/
def readCtrLo (n : Nat) (s : State) : State :=
  let (v, s) := ctrValue n s
  respond (wNat v) (wr (ctrKey n 0x10) (wNat (v / 2 ^ 32 % 65536)) s)

/-! Meanings -/

/-- VAL_LO_WRITE (R537). -/
def execValLoWrite (m : Master) (n : Fin 64) (v : Word) (s : State) : Host.Outcome State Fault Refusal :=
  .next (byBus m .pmc 0 (0x10C + 0x20 * n.val) (fun s => writePmc (0x10C + 0x20 * n.val) v s) s)

/-- VAL_LO_READ (R537). -/
def execValLoRead (m : Master) (n : Fin 64) (s : State) : Host.Outcome State Fault Refusal :=
  .next (readAt m .pmc 0 (0x10C + 0x20 * n.val) (readCtrLo n.val) s)

/-- COUNTER_OVERFLOW (R529): a counter whose occurrences lie in the harts steps to 0, or one the block counts that stands
at its greatest value. -/
def execCounterOverflow (n : Fin 64) (s : State) : Host.Outcome State Fault Refusal :=
  .next (
    if !(fabricUp s) || !(ctrRuns s n) || rdf s (ctrKey n 0) 0 8 = 0 ||
        ((ctr s n).known && decide ((ctr s n).val + 1 < 2 ^ 48)) then s
    else pmcSettle (ctrOverflow n s))

end Sys2Proof.Machine
end

