-- ==== Sys2Proof/Machine/Gio.lean ====
section
/-! DEFINITION. General I/O: GPIO, I2C, SPI, UART and the Ethernet MACs (R589 to R595). -/

namespace Sys2Proof.Machine

/-- Change the general I/O. -/
def onGio (f : Gio → Gio) (s : State) : State := { s with gio := f s.gio }

/-! GPIO (R590, R591) -/

/-- Key of a GPIO register. -/
def gpioKey (off : Nat) : Nat := rk .gpio 0 off
/-- FUNC of a pin. -/
def pinFunc (s : State) (n : Nat) : Nat := rdf s (gpioKey (0x054 + 4 * (n / 16))) (2 * (n % 16)) 2
/-- The pin has its alternate function; pins 24 to 31 have none (R590). -/
def pinAlt (s : State) (n : Nat) : Bool := pinFunc s n = 1 && decide (n < 24)
/-- Two-bit fields of `v` whose value is one of `bad` keep their old value (R592). -/
def keepPairs (old v : Word) (bad : Nat → Bool) : Word :=
  (List.range 16).foldl (fun w i => if bad (fld v (2 * i) 2) then setFld w (2 * i) 2 (fld old (2 * i) 2) else w) v

/-! I2C (R592) -/

/-- Key of an I2C register. -/
def i2cKey (k off : Nat) : Nat := rk .i2c k off
/-- Default of an I2C controller. -/
def i2c0 (_ : Nat) : I2c := {}
/-- An I2C controller. -/
def i2c (s : State) (k : Nat) : I2c := smGet i2c0 s.gio.i2cs k
/-- Set an I2C controller. -/
def setI2c (k : Nat) (x : I2c) (s : State) : State := onGio (fun g => { g with i2cs := smSet i2c0 g.i2cs k x }) s

/-- One bit on the bus at 100 or 400 kHz (R592). -/
def i2cBit (s : State) (k : Nat) : Nat := if rdb s (i2cKey k 0x040) 1 then 125000 else 500000
/-- Bits of an action: a byte takes eight and its acknowledgement.  PRESUMED: a START or a STOP takes one (log entry 47). -/
def i2cBits (a : Nat) : Nat := if a < 2 then 1 else 9

/-- SCL and SDA as the controller pulls them low now, first half of a bit with SCL low.  PRESUMED: as the bus's specification has
it (log entry 47). -/
def i2cLow (s : State) (k : Nat) : Bool × Bool :=
  let x := i2c s k
  match x.acts with
  | [] => (x.own, false)
  | (a, ack) :: _ =>
    let i := (s.now - x.since) / i2cBit s k
    let late := decide (i2cBit s k / 2 ≤ (s.now - x.since) % i2cBit s k)
    if i2cBits a ≤ i then (a ≠ 1, a = 0)
    else match a with
      | 0 => (false, late)
      | 1 => (!late, true)
      | 2 => (!late, decide (i < 8) && !(x.byte.getLsbD (7 - i)))
      | _ => (!late, decide (i = 8) && ack)

/-! SPI (R592) -/

/-- Key of an SPI register. -/
def spiKey (k off : Nat) : Nat := rk .spi k off
/-- Default of an SPI controller. -/
def spi0 (_ : Nat) : Spi := {}
/-- An SPI controller. -/
def spi (s : State) (k : Nat) : Spi := smGet spi0 s.gio.spis k
/-- Set an SPI controller. -/
def setSpi (k : Nat) (x : Spi) (s : State) : State := onGio (fun g => { g with spis := smSet spi0 g.spis k x }) s

/-- A byte in the order of the wire, first bit highest. -/
def wireOrder (lsb : Bool) (b : Byte) : Byte := if lsb then b.reverse else b

/-- STAT (R592). -/
def spiStat (s : State) (k : Nat) : Word :=
  let x := spi s k
  wNat (x.tx.length + 256 * x.rx.length + (if x.due.isSome then 65536 else 0)) ||| (rd s (spiKey k 0x050) &&& 0x20000#32)

/-! UART (R592) -/

/-- Key of a UART register. -/
def uartKey (k off : Nat) : Nat := rk .uart k off
/-- Default of a UART. -/
def uart0 (_ : Nat) : Uart := {}
/-- A UART. -/
def uart (s : State) (k : Nat) : Uart := smGet uart0 s.gio.uarts k
/-- Set a UART. -/
def setUart (k : Nat) (x : Uart) (s : State) : State := onGio (fun g => { g with uarts := smSet uart0 g.uarts k x }) s

/-- STAT (R592). -/
def uartStat (s : State) (k : Nat) : Word :=
  let x := uart s k
  wNat (x.tx.length + 256 * x.rx.length) ||| (rd s (uartKey k 0x050) &&& 0x10000#32)

/-! Pins (R590, R591) -/

/-- SCK and MOSI of an enabled controller: while a byte shifts, SCK leaves its rest level for one half of each bit, the second
with CPHA 0, the first with CPHA 1.  PRESUMED: MOSI rests at the last bit sent (log entry 47). -/
def spiOut (s : State) (k : Nat) : Bool × Bool :=
  let x := spi s k
  let rest := rdb s (spiKey k 0x040) 2
  match x.due with
  | none => (rest, x.wire.getLsbD 0)
  | some d =>
    let i := min 15 ((s.now - x.since) / ((d - x.since) / 16))
    (rest != (decide (i % 2 = 1) != rdb s (spiKey k 0x040) 1),
      (wireOrder (rdb s (spiKey k 0x040) 3) (x.tx.headD 0)).getLsbD (7 - i / 2))

/-- TX of an enabled UART: high at rest (R592). -/
def uartOut (s : State) (k : Nat) : Bool :=
  let x := uart s k
  match x.due with
  | none => true
  | some d => x.line.getD ((s.now - x.since) / ((d - x.since) / x.line.length)) true

/-- The level an alternate function drives on its pin (R590, R592): SCL and SDA only low, being open-drain; SCK, MOSI and CS_N of
an enabled SPI controller; TX and, with FLOW, RTS_N of an enabled UART. -/
def altDriven (s : State) (n : Nat) : Option Bool :=
  if n < 8 then
    let k := n / 2
    let l := i2cLow s k
    if rdb s (i2cKey k 0x040) 0 && (if n % 2 = 0 then l.1 else l.2) then some false else none
  else if n < 16 then
    let k := (n - 8) / 4
    if !(rdb s (spiKey k 0x040) 0) then none
    else match n % 4 with
      | 0 => some (spiOut s k).1
      | 1 => some (spiOut s k).2
      | 3 => some (!(rdb s (spiKey k 0x044) 0))
      | _ => none
  else if n < 24 then
    let k := (n - 16) / 4
    if !(rdb s (uartKey k 0x040) 0) then none
    else match n % 4 with
      | 0 => some (uartOut s k)
      | 2 => if rdb s (uartKey k 0x040) 4 then some (decide (16 ≤ (uart s k).rx.length)) else none
      | _ => none
  else none

/-- The level the part drives on a GPIO pin (R590, R591). -/
def pinDriven (s : State) (n : Nat) : Option Bool :=
  if pinAlt s n then altDriven s n
  else if rdb s (gpioKey 0x040) n then some (rdb s (gpioKey 0x044) n) else none

/-- IN (R591): of a pin the part drives the level it drives, of another the level that came in last. -/
def pinLevels (s : State) : Word := flagWord 32 fun n => (pinDriven s n).getD (bit s.gio.pins n)

/-- The level of a pin is now this: an enabled edge sets its cause (R591, R595). -/
def setPin (n : Nat) (v : Bool) (s : State) : State :=
  if bit s.gio.pins n = v then s else
  let s := onGio (fun g => { g with pins := setBit g.pins n v }) s
  if rdb s (gpioKey (if v then 0x064 else 0x068)) n then raise .gpio 0 n s else s

/-- The pins that the part drives take the levels it drives now. -/
def drivePins (s : State) : State :=
  forEach (List.range 32) (fun n s => match pinDriven s n with | some v => setPin n v s | none => s) s

/-- Write a GPIO register (R591). -/
def writeGpio (off : Nat) (v : Word) (s : State) : State :=
  let k := gpioKey off
  drivePins (
    if off = 0x048 then wr (gpioKey 0x044) (rd s (gpioKey 0x044) ||| v) s
    else if off = 0x04C then wr (gpioKey 0x044) (rd s (gpioKey 0x044) &&& ~~~ v) s
    else if off = 0x054 ∨ off = 0x058 then wr k (keepPairs (rd s k) v (2 ≤ ·)) s
    else if off = 0x05C ∨ off = 0x060 then wr k (keepPairs (rd s k) v (· = 3)) s
    else if off = 0x040 ∨ off = 0x044 ∨ off = 0x064 ∨ off = 0x068 then wr k v s
    else s)

/-! Transfers (R592) -/

/-- The first waiting action of an I2C controller runs from now, with the byte in DATA. -/
def i2cRun (k : Nat) (acts : List (Nat × Bool)) (own : Bool) (s : State) : State :=
  let now := s.now
  let b : Byte := BitVec.ofNat 8 (rd s (i2cKey k 0x048)).toNat
  drivePins (setI2c k { acts := acts, since := now, byte := b, own := own } s)

/-- Write I2C CMD: the actions asked for are made in the order START, WRITE, READ, STOP; while one runs, or with EN 0, the
write does nothing. ARB and TMO go with it. -/
def writeI2cCmd (k : Nat) (v : Word) (s : State) : State :=
  let ack := bit v 4
  let acts := (if bit v 0 then [(0, false)] else []) ++ (if bit v 2 then [(2, false)] else []) ++
    (if bit v 3 then [(3, ack)] else []) ++ (if bit v 1 then [(1, false)] else [])
  if acts.isEmpty || !(rdb s (i2cKey k 0x040) 0) || !(i2c s k).acts.isEmpty then s
  else i2cRun k acts (i2c s k).own (wr (i2cKey k 0x04C) (1#32 ||| (rd s (i2cKey k 0x04C) &&& 2#32)) s)

/-- The running action `a` ends with flags NACK, ARB and TMO (R592, R595): a lost arbitration or a timeout drops the rest and
gives up the bus. NACK speaks of the last byte: it stands until the next one has been sent or received. -/
def i2cEnds (k a : Nat) (nack arb tmo : Bool) (s : State) : State :=
  let x := i2c s k
  let cut := arb || tmo
  let rest := if cut then [] else x.acts.drop 1
  let own := !cut && (match a with | 0 => true | 1 => false | _ => x.own)
  let nacked := match a with
    | 2 => nack
    | 3 => false
    | _ => rdb s (i2cKey k 0x04C) 1
  let w := wNat ((if rest.isEmpty then 0 else 1) + (if nacked then 2 else 0) + (if arb then 4 else 0) + (if tmo then 8 else 0))
  let s := raise .i2c k 0 (i2cRun k rest own (wr (i2cKey k 0x04C) w s))
  if (a = 2 && nack) || cut then raise .i2c k 1 s else s

/-- The next byte begins to shift where the controller is free: 8 SCK cycles. -/
def spiStart (k : Nat) (s : State) : State :=
  let x := spi s k
  if x.due.isSome || x.tx.isEmpty || !(rdb s (spiKey k 0x040) 0) then s
  else
    let now := s.now
    setSpi k { x with since := now, due := some (now + 8 * 2 * (max 5 (rdf s (spiKey k 0x040) 8 8) + 1) * fabCyc) } s

/-- Write an SPI register. -/
def writeSpi (k off : Nat) (v : Word) (s : State) : State :=
  let key := spiKey k off
  if off = 0x040 then drivePins (spiStart k (wr key (v &&& 0xFF0F#32) s))
  else if off = 0x044 then drivePins (wr key (v &&& 1#32) s)
  else if off = 0x048 then
    if 16 ≤ (spi s k).tx.length then s
    else drivePins (spiStart k (setSpi k { spi s k with tx := (spi s k).tx ++ [BitVec.ofNat 8 v.toNat] } s))
  else if off = 0x050 then wr key (rd s key &&& ~~~ (v &&& 0x20000#32)) s
  else s

/-- The next byte is sent where the line is free and, with FLOW, CTS_N is low (R590, R592): a start bit, eight data bits from the
lowest on, the parity and the stop bits. -/
def uartStart (k : Nat) (s : State) : State :=
  let x := uart s k
  let c := rd s (uartKey k 0x040)
  let wait := bit c 4 && pinAlt s (19 + 4 * k) && bit s.gio.pins (19 + 4 * k)
  match x.tx with
  | [] => s
  | b :: _ =>
    if x.due.isSome || !(bit c 0) || wait then s else
    let data := (List.range 8).map b.getLsbD
    let odd := data.foldl (· != ·) false
    let par := match fld c 1 2 with | 1 => [odd] | 2 => [!odd] | _ => []
    let line := false :: data ++ par ++ (if bit c 3 then [true, true] else [true])
    let now := s.now
    setUart k { x with since := now, line := line,
                       due := some (now + line.length * max 64 (rdf s (uartKey k 0x044) 0 20) * fabCyc) } s

/-- Read RXDATA: a byte is popped. -/
def readSpiRx (k : Nat) (s : State) : State :=
  match (spi s k).rx with
  | [] => respond 0 s
  | b :: bs => respond (b.zeroExtend 32) (setSpi k { spi s k with rx := bs } s)

/-- Write a UART register. -/
def writeUart (k off : Nat) (v : Word) (s : State) : State :=
  let key := uartKey k off
  if off = 0x040 then
    let par := if fld v 1 2 = 3 then rdf s key 1 2 else fld v 1 2
    drivePins (uartStart k (wr key (setFld (v &&& 0x1F#32) 1 2 par) s))
  else if off = 0x044 then wr key (v &&& 0xFFFFF#32) s
  else if off = 0x048 then
    if 16 ≤ (uart s k).tx.length then s
    else drivePins (uartStart k (setUart k { uart s k with tx := (uart s k).tx ++ [BitVec.ofNat 8 v.toNat] } s))
  else if off = 0x050 then wr key (rd s key &&& ~~~ (v &&& 0x10000#32)) s
  else s

/-- Read RX: a byte is popped with its flags. -/
def readUartRx (k : Nat) (s : State) : State :=
  match (uart s k).rx with
  | [] => respond 0 s
  | w :: ws => respond w (drivePins (setUart k { uart s k with rx := ws } s))

/-! Ethernet (R593, R594) -/

/-- Key of an ETH register. -/
def ethKey (e off : Nat) : Nat := rk .eth e off
/-- Descriptors of a ring: LEN limited to 4 to 256. -/
def ringLen (s : State) (e base : Nat) : Nat := max 4 (min 256 (rd s (ethKey e (base + 4))).toNat)
/-- Index of the next descriptor the device takes. -/
def ringHead (s : State) (e base : Nat) : Nat := (rd s (ethKey e (base + 12))).toNat % ringLen s e base
/-- Address of a descriptor: rings are 16-byte aligned in SRAM. -/
def descAddr (s : State) (e base i : Nat) : Nat :=
  sramBase + ((rd s (ethKey e base)).toNat / 16 * 16 + 16 * i) % 0x400000
/-- The device may take the descriptor at HEAD: software handed it over and OWN is 1. -/
def descReady (s : State) (e base : Nat) : Bool :=
  let h := ringHead s e base
  decide (h ≠ (rd s (ethKey e (base + 8))).toNat % ringLen s e base) && (memRd s (descAddr s e base h + 6)).getLsbD 0
/-- The buffer of a descriptor. -/
def descBuf (s : State) (a : Nat) : Nat := sramBase + (memWord s a).toNat % 0x400000
/-- Greatest frame length (R592). -/
def frameMax (s : State) (e : Nat) : Nat := if rdb s (ethKey e 0x040) 6 then 9600 else 1522

/-- Local Datum time as it was at an instant, where Datum was valid then (R594). -/
def datumThen (s : State) (t : Nat) : Option Nat :=
  match s.gio.eras.find? fun x => decide (t < x.fin) with
  | some x => if x.valid then some (stampFrom x.base x.since x.rate t / 65536) else none
  | none => if datumValid s then some (datumAt s t) else none

/-- The stamp of a frame whose start-frame delimiter was on the pins at an instant: Datum time within the error of R594. -/
def frameStamp (e t : Nat) (s : State) : Option Nat × State :=
  match datumThen s t with
  | none => (none, s)
  | some d =>
    let b := match rdf s (ethKey e 0x040) 0 2 with | 2 => 64 | 1 => 320 | _ => 3200
    let (w, s) := draw s
    (some (d + w.toNat % (2 * b + 1) - b), s)

/-- Time of a byte on the line (R592). -/
def ethByte (s : State) (e : Nat) : Nat := 8 * (match rdf s (ethKey e 0x040) 0 2 with | 2 => 50 | 1 => 500 | _ => 5000)
/-- FULL_DUP. -/
def ethFull (s : State) (e : Nat) : Bool := rdb s (ethKey e 0x040) 2
/-- The MAC works: at 1000 Mb/s in full duplex only (R593).  DESIGN CHOICE: in half duplex it neither sends nor receives there (log
entry 47). -/
def ethWorks (s : State) (e : Nat) : Bool := live s .eth && (ethFull s e || rdf s (ethKey e 0x040) 0 2 ≠ 2)
/-- The frame check sequence of IEEE 802.3, as the line carries it. -/
def fcs (bs : List Byte) : List Byte := leBytes 4 (crc32 0xEDB88320#32 bs).toNat
/-- The frame that is sent for a buffer: padded to the least length of IEEE 802.3, with its check sequence (R593). -/
def ethFrame (bs : List Byte) : List Byte :=
  let d := bs ++ List.replicate (60 - bs.length) 0#8
  d ++ fcs d
/-- A received frame fails: its length, or its check sequence (R593). -/
def frameBad (s : State) (e : Nat) (frame : List Byte) : Bool :=
  decide (frame.length < 64 ∨ frameMax s e < frame.length) ||
    decide (frame.drop (frame.length - 4) ≠ fcs (frame.take (frame.length - 4)))

/-- A descriptor is completed: OWN is cleared, and HEAD moves on (R593). -/
def descDone (e base a : Nat) (err : Bool) (stamp : Option Nat) (s : State) : State :=
  let f := (if stamp.isSome then 2 else 0) + (if err then 4 else 0)
  let s := sramWrite (a + 6) ([BitVec.ofNat 8 f, 0#8] ++ leBytes 8 (stamp.getD 0)) s
  wr (ethKey e (base + 12)) (wNat ((ringHead s e base + 1) % ringLen s e base)) s

/-- Add 1 to a frame counter. -/
def countFrame (e off : Nat) (s : State) : State := wr (ethKey e off) (rd s (ethKey e off) + 1) s

/-- A frame's destination is taken in: every address with PROMISC, else the own address and group addresses. -/
def addrTaken (s : State) (e : Nat) (frame : List Byte) : Bool :=
  let own := leBytes 4 (rd s (ethKey e 0x044)).toNat ++ leBytes 2 (rd s (ethKey e 0x048)).toNat
  rdb s (ethKey e 0x040) 5 || frame.take 6 = own || (frame.getD 0 0).getLsbD 0

/-- STAT (R592). -/
def ethStat (s : State) (e : Nat) : Word :=
  (if rdb s (ethKey e 0x040) 3 && descReady s e 0x050 then 1 else 0) ||| (rd s (ethKey e 0x04C) &&& 2#32)

/-- Write an ETH register. -/
def writeEth (e off : Nat) (v : Word) (s : State) : State :=
  let k := ethKey e off
  let now := s.now
  if off = 0x040 then
    let sp := if fld v 0 2 = 3 then rdf s k 0 2 else fld v 0 2
    wr k (setFld (v &&& 0x1FF#32) 0 2 sp) s
  else if off = 0x04C then wr k (rd s k &&& ~~~ (v &&& 2#32)) s
  else if off = 0x070 then
    let go := bit v 11 && !(rdb s k 11)
    let s := wr k ((v &&& 0x7FF#32) ||| (if go then 0x800#32 else rd s k &&& 0x800#32)) s
    if go then onGio (fun g => { g with mdio := smSet (smConst (0, 0)) g.mdio e (now, v &&& 0x7FF#32) }) s else s
  else match regRow k with
    | some r => if r.wmask = 0 then s else wr k (v &&& wNat r.wmask) s
    | none => s

/-- Registers of the general I/O pages that mirror state. -/
def readGio (s : State) (t : PageType) (n off : Nat) : Option Word :=
  match t with
  | .gpio => if off = 0x050 then some (pinLevels s) else if off = 0x048 ∨ off = 0x04C then some 0 else none
  | .spi => if off = 0x050 then some (spiStat s n) else if off = 0x048 then some 0 else none
  | .uart => if off = 0x050 then some (uartStat s n) else if off = 0x048 then some 0 else none
  | .eth => if off = 0x04C then some (ethStat s n) else none
  | _ => none

/-- A system or power-on reset aborts every transfer. -/
def gioReset (s : State) : State := onGio (fun g => { pins := g.pins }) s

/-! Meanings -/

/-- GPIO_EDGE (R595): the synchronised level of a pin changes; a pin the part drives can only take its driven level. -/
def execGpioEdge (n : Fin 32) (rise : Bool) (s : State) : Host.Outcome State Fault Refusal :=
  .next (
    if !(fabricUp s) || bit s.gio.pins n = rise || (pinDriven s n).any (· ≠ rise) then s else
    let s := setPin n rise s
    if n.val = 19 then drivePins (uartStart 0 s) else if n.val = 23 then drivePins (uartStart 1 s) else s)

/-- GPIO_SET (R591). -/
def execGpioSet (m : Master) (v : Word) (s : State) : Host.Outcome State Fault Refusal :=
  .next (byBus m .gpio 0 0x048 (writeGpio 0x048 v) s)

/-- GPIO_CLR (R591). -/
def execGpioClr (m : Master) (v : Word) (s : State) : Host.Outcome State Fault Refusal :=
  .next (byBus m .gpio 0 0x04C (writeGpio 0x04C v) s)

/-- I2C_START (R592). -/
def execI2cStart (m : Master) (k : Fin 4) (s : State) : Host.Outcome State Fault Refusal :=
  .next (byBus m .i2c k 0x044 (writeI2cCmd k 0x01) s)

/-- I2C_STOP (R592). -/
def execI2cStop (m : Master) (k : Fin 4) (s : State) : Host.Outcome State Fault Refusal :=
  .next (byBus m .i2c k 0x044 (writeI2cCmd k 0x02) s)

/-- I2C_WRITE (R592). -/
def execI2cWrite (m : Master) (k : Fin 4) (s : State) : Host.Outcome State Fault Refusal :=
  .next (byBus m .i2c k 0x044 (writeI2cCmd k 0x04) s)

/-- I2C_READ (R592). -/
def execI2cRead (m : Master) (k : Fin 4) (ack : Bool) (s : State) : Host.Outcome State Fault Refusal :=
  .next (byBus m .i2c k 0x044 (writeI2cCmd k (if ack then 0x18 else 0x08)) s)

/-- I2C_DONE (R592, R595): the running action ends, no earlier than its bits take; a read gives a byte, a sent byte may not be
acknowledged. Where SCL or SDA is not on its pin, what comes from the bus is free. -/
def execI2cDone (k : Fin 4) (nack arb : Bool) (byte : Byte) (s : State) : Host.Outcome State Fault Refusal :=
  .next (
    match (i2c s k).acts with
    | [] => s
    | (a, _) :: _ =>
      if !(fabricUp s) then s else
      let s := upto ((i2c s k).since + i2cBits a * i2cBit s k) s
      let on := pinAlt s (2 * k) && pinAlt s (2 * k + 1)
      let (f, s) := if on then (0, s) else draw s
      let got : Byte := if on then byte else BitVec.ofNat 8 f.toNat
      let s := if a = 3 && !arb then wr (i2cKey k 0x048) (got.zeroExtend 32) s else s
      i2cEnds k a (if on then nack else bit f 8) arb false s)

/-- I2C_TIMEOUT (R592): TMO ms of SCL held low, in the running action. -/
def execI2cTimeout (k : Fin 4) (s : State) : Host.Outcome State Fault Refusal :=
  .next (
    match (i2c s k).acts with
    | [] => s
    | _ :: _ =>
      if !(fabricUp s) then s else
      i2cEnds k 4 false false true (upto ((i2c s k).since + rdf s (i2cKey k 0x040) 8 8 * msec) s))

/-- SPI_TXDATA (R591). -/
def execSpiTxdata (m : Master) (k : Fin 2) (v : Byte) (s : State) : Host.Outcome State Fault Refusal :=
  .next (byBus m .spi k 0x048 (writeSpi k 0x048 (v.zeroExtend 32)) s)

/-- SPI_RXDATA (R591). -/
def execSpiRxdata (m : Master) (k : Fin 2) (s : State) : Host.Outcome State Fault Refusal :=
  .next (readAt m .spi k 0x04C (readSpiRx k) s)

/-- SPI_BYTE_DONE (R590, R592, R595): `wire` is the byte received, its bits in the order of the wire; where MISO is not on its pin,
the byte is free. -/
def execSpiByteDone (k : Fin 2) (wire : Byte) (s : State) : Host.Outcome State Fault Refusal :=
  .next (
    match (spi s k).due, (spi s k).tx with
    | some t, b :: bs =>
      if !(fabricUp s) then s else
      let s := upto t s
      let (wire, s) := if pinAlt s (10 + 4 * k) then (wire, s) else let (f, s) := draw s; (BitVec.ofNat 8 f.toNat, s)
      let x := spi s k
      let lsb := rdb s (spiKey k 0x040) 3
      let lost := decide (16 ≤ x.rx.length)
      let got := wireOrder lsb wire
      let s := setSpi k { tx := bs, rx := (if lost then x.rx else x.rx ++ [got]), since := x.since, due := none, wire := wireOrder lsb b } s
      let s := if lost then raise .spi k 1 (wrb (spiKey k 0x050) 17 true s) else s
      drivePins (if bs.isEmpty then raise .spi k 0 s else spiStart k s)
    | _, _ => s)

/-- UART_TX (R591). -/
def execUartTx (m : Master) (k : Fin 2) (v : Byte) (s : State) : Host.Outcome State Fault Refusal :=
  .next (byBus m .uart k 0x048 (writeUart k 0x048 (v.zeroExtend 32)) s)

/-- UART_RX (R591). -/
def execUartRx (m : Master) (k : Fin 2) (s : State) : Host.Outcome State Fault Refusal :=
  .next (readAt m .uart k 0x04C (readUartRx k) s)

/-- UART_RX_BYTE (R590, R592, R595): a byte reaches an enabled UART on its RX pin, where that pin has its alternate function. -/
def execUartRxByte (k : Fin 2) (v : Byte) (perr ferr : Bool) (s : State) : Host.Outcome State Fault Refusal :=
  .next (
    let c := rd s (uartKey k 0x040)
    if !(fabricUp s) || !(bit c 0) || !(pinAlt s (17 + 4 * k)) then s else
    let perr := perr && fld c 1 2 ≠ 0
    let x := uart s k
    if 16 ≤ x.rx.length then raise .uart k 2 (wrb (uartKey k 0x050) 16 true s)
    else
      let w := wNat (v.toNat + 256 + (if perr then 512 else 0) + (if ferr then 1024 else 0))
      let s := raise .uart k 0 (drivePins (setUart k { x with rx := x.rx ++ [w] } s))
      if perr || ferr then raise .uart k 2 s else s)

/-- UART_TX_BYTE_DONE (R592, R595). -/
def execUartTxByteDone (k : Fin 2) (s : State) : Host.Outcome State Fault Refusal :=
  .next (
    match (uart s k).due, (uart s k).tx with
    | some t, b :: bs =>
      if !(fabricUp s) then s else
      let s := upto t s
      let s := setUart k { uart s k with tx := bs, due := none, wire := b } s
      drivePins (if bs.isEmpty then raise .uart k 1 s else uartStart k s)
    | _, _ => s)

/-- ETH_TX_TAIL (R593). -/
def execEthTxTail (m : Master) (e : Fin 2) (v : Word) (s : State) : Host.Outcome State Fault Refusal :=
  .next (byBus m .eth e 0x058 (writeEth e 0x058 v) s)

/-- ETH_RX_TAIL (R593). -/
def execEthRxTail (m : Master) (e : Fin 2) (v : Word) (s : State) : Host.Outcome State Fault Refusal :=
  .next (byBus m .eth e 0x068 (writeEth e 0x068 v) s)

/-- TX_DONE (R593, R594): the frame of the descriptor at HEAD has been sent; its start-frame delimiter left `sfd` steps
of 20 ps before now. In half duplex a frame is sent after the one received before it has ended and the gap between frames.  PRESUMED: the gap is
12 bytes, and the preamble with the delimiter 8 (log entry 47). -/
def execTxDone (e : Fin 2) (err : Bool) (sfd : Nat) (s : State) : Host.Outcome State Fault Refusal :=
  .next (
    if !(ethWorks s e) || !(rdb s (ethKey e 0x040) 3) || !(descReady s e 0x050) then s else
    let a := descAddr s e 0x050 (ringHead s e 0x050)
    let len := leNat (memBytes s (a + 4) 2)
    let frame := ethFrame (memBytes s (descBuf s a) len)
    let err := err || decide (frameMax s e < frame.length)
    let s := sramCheck (descBuf s a) len s
    let s := if ethFull s e then s else upto (smGet (smConst 0) s.gio.rxEnd e + (20 + frame.length) * ethByte s e) s
    let (st, s) := frameStamp e (s.now - sfd) s
    let s := descDone e 0x050 a err st s
    let s := onGio (fun g => { g with sent := smSet (smConst []) g.sent e frame }) s
    raise .eth e 0 (if err then s else countFrame e 0x080 s))

/-- RX_DONE (R593, R594): a frame came in, its last four bytes the frame check sequence, which is checked and not stored; `err` says
that its alignment failed. -/
def execRxDone (e : Fin 2) (frame : List Byte) (err : Bool) (sfd : Nat) (s : State) : Host.Outcome State Fault Refusal :=
  .next (
    let now := s.now
    let s := if ethWorks s e then onGio (fun g => { g with rxEnd := smSet (smConst 0) g.rxEnd e now }) s else s
    if !(ethWorks s e) || !(rdb s (ethKey e 0x040) 4) || !(addrTaken s e frame) then s
    else if !(descReady s e 0x060) then raise .eth e 2 (wrb (ethKey e 0x04C) 1 true (countFrame e 0x084 s))
    else
      let a := descAddr s e 0x060 (ringHead s e 0x060)
      let err := err || frameBad s e frame
      let bs := (frame.take (frame.length - 4)).take (frameMax s e)
      let s := sramWrite (a + 4) (leBytes 2 bs.length) (sramWrite (descBuf s a) bs s)
      let (st, s) := frameStamp e (s.now - sfd) s
      let s := descDone e 0x060 a err st s
      raise .eth e 1 (countFrame e (if err then 0x07C else 0x078) s))

/-- MDIO_GO (R592). -/
def execMdioGo (m : Master) (e : Fin 2) (v : BitVec 11) (s : State) : Host.Outcome State Fault Refusal :=
  .next (byBus m .eth e 0x070 (writeEth e 0x070 (wNat (v.toNat + 2048))) s)

/-- MDIO_DONE (R592, R595): 64 bits at 2.5 MHz; a read gives a word. -/
def execMdioDone (e : Fin 2) (v : BitVec 16) (s : State) : Host.Outcome State Fault Refusal :=
  .next (
    let k := ethKey e 0x070
    if !(live s .eth) || !(rdb s k 11) then s else
    let f := smGet (smConst (0, 0)) s.gio.mdio e
    let s := upto (f.1 + 64 * 20000) s
    let s := if bit f.2 10 then wr (ethKey e 0x074) (wNat v.toNat) s else s
    raise .eth e 3 (wrb k 11 false s))

end Sys2Proof.Machine
end

