-- ==== Sys2Proof/Machine/Access.lean ====
section
/-! DEFINITION. Password-guarded writes and the field book (R405, R408, R566), and the REFUSED causes of the pages. -/

namespace Sys2Proof.Machine

/-- A happening writes one trouble-log entry whose CODE and payload the spec leaves to the writer: they are free values. -/
def logHap (page : Nat) (s : State) : State :=
  let (c, s) := draw s
  let (a, s) := draw s
  let (b, s) := draw s
  let (d, s) := draw s
  logIt page (fld c 0 8) [a, b, d] s

/-- The trouble-log entry of a lock loss (R462, R467): it shows whether the loss is deliberate. Where it does the spec does not
say: bit 0 of its payload is the model's choice (log entry 68). -/
def logLoss (page : Nat) (delib : Bool) (s : State) : State :=
  let (c, s) := draw s
  let (a, s) := draw s
  let (b, s) := draw s
  let (d, s) := draw s
  logIt page (fld c 0 8) [setBit a 0 delib, b, d] s

/-- The REFUSED cause bit of a page, where its cause table has one. -/
def refusedBit : PageType → Option Nat
  | .snd => some 16
  | .grid => some 12
  | .isl => some 7
  | .mppt => some 7
  | .reg => some 13
  | .mtr => some 11
  | .ring => some 10
  | .datum => some 10
  | .plumb => some 10
  | .pch => some 16
  | .pair => some 11
  | .evr => some 6
  | .sys => some 3
  | .clk => some 6
  | .therm => some 4
  | .valley => some 6
  | .nvm => some 3
  | .pmc => some 6
  | .dbg => some 4
  | .upd => some 7
  | .adc => some 6
  | .eng => some 10
  | _ => none

/-- Raise a page's REFUSED cause. -/
def refuse (t : PageType) (n : Nat) (s : State) : State :=
  match refusedBit t with
  | some k => raise t n k s
  | none => s

/-- The page and offset of a register. -/
def keyPage (k : Nat) : Option (PageType × Nat) := pageOf (k / 0x1000)
/-- The offset of a register in its page. -/
def keyOff (k : Nat) : Nat := k % 0x1000

/-- Registers writable only at maker level (R405). -/
def makerOnly (k : Nat) : Bool :=
  match keyPage k with
  | some (.plumb, _) | some (.pch, _) => true
  | some (.snd, _) => (regRow k).any fun r => decide (r.name = "GAMP_MAX")
  | some (.mtr, _) => (regRow k).any fun r =>
      r.name ∈ ["CH_SCALE", "CH_DELAY", "CH_SEGV", "CH_TOP", "CH_GAIN", "CH_PHASE", "PRESET_SEL", "PRESET_LO", "PRESET_HI"]
  | _ => false

/-- The level in force admits a write of the register (R405). -/
def levelOk (s : State) (k : Nat) : Bool :=
  !s.pw.lockout && decide ((if makerOnly k then 2 else 1) ≤ s.pw.level)

/-- The staging buffer is full (R408); it takes no entry while PD_VALLEY is in its own reset (R502). -/
def stagingFull (s : State) : Bool := s.valley.por || decide (16 ≤ s.fb.staging.length)

/-- Form a field-book entry with the next SEQ: time base, level and RTC validity as R408 says. -/
def formEntry (kind page off master : Nat) (old new : Word) (s : State) : FbEnt :=
  let rtc := !datumValid s
  let unset := rtc && !s.valley.rtcValid
  { seq := s.fb.seq, time := (if rtc then rtcNow s else datumNow s), kind := kind,
    flags := (if rtc then 1 else 0) + 2 * s.pw.level + (if unset then 8 else 0),
    page := page, off := off, master := master, old := old, new := new }

/-- Place an entry in the staging buffer; PLUMB raises FB when that fills it (R413). -/
def placeEntry (e : FbEnt) (s : State) : State :=
  let s := { s with fb := { s.fb with staging := s.fb.staging ++ [e] } }
  if stagingFull s then raise .plumb 0 9 s else s

/-- Place the entry of an action a master requested: the caller has seen room in staging. -/
def bookRequested (kind page off master : Nat) (old new : Word) (s : State) : State :=
  let e := formEntry kind page off master old new s
  placeEntry e { s with fb := { s.fb with seq := (s.fb.seq + 1) % 2 ^ 32 } }

/-- Record an action that takes effect whatever the staging buffer holds: it waits in Plumb, which keeps up to 64, and is
lost beyond that (R408). -/
def bookAction (kind page off master : Nat) (old new : Word) (s : State) : State :=
  let e := formEntry kind page off master old new s
  let s := { s with fb := { s.fb with seq := (s.fb.seq + 1) % 2 ^ 32 } }
  if s.fb.waiting.isEmpty && !stagingFull s then placeEntry e s
  else if s.fb.waiting.length < 64 then { s with fb := { s.fb with waiting := s.fb.waiting ++ [e] } }
  else s

/-- What the entry of a SEQ says of its action, once that has taken effect or been refused (R408, R566). -/
def reviseEntry (seq : Nat) (old new : Word) (s : State) : State :=
  { s with fb := { s.fb with staging := s.fb.staging.map fun e => if e.seq = seq then { e with old := old, new := new } else e } }

/-- Waiting entries enter the staging buffer in order while it has room (R408). -/
def placeWaiting : Nat → State → State
  | 0, s => s
  | n + 1, s =>
    match s.fb.waiting with
    | [] => s
    | e :: es => if stagingFull s then s else placeWaiting n (placeEntry e { s with fb := { s.fb with waiting := es } })

/-- A write ignored for want of a level is counted; EVR, NVM and DBG raise REFUSED (R405, R566). -/
def deny (k : Nat) (s : State) : State :=
  let s := { s with pw := { s.pw with denied := held 255 (s.pw.denied + 1) } }
  match keyPage k with
  | some (.evr, n) => refuse .evr n s
  | some (.nvm, n) => refuse .nvm n s
  | some (.dbg, n) => refuse .dbg n s
  | _ => s

/-- Raise REFUSED of a register's page. -/
def refuseKey (k : Nat) (s : State) : State :=
  match keyPage k with
  | some (t, n) => refuse t n s
  | none => s

/-- The common path of a write to an RWL register (R566, R408): the level decides at arrival, a full staging buffer
refuses, the entry is placed before the effect, and an accepted write restarts the session time. `ok` says whether the
owning page accepts it; where it does not, the write is recorded as having no effect and the page raises REFUSED. `get`
is what a read of the register returns. -/
def rwlPathBy (get : State → Word) (m : Master) (k : Nat) (ok : Bool) (act : State → State) (s : State) : State :=
  if !(levelOk s k) then deny k s
  else if stagingFull s then refuseKey k s
  else
    let s := if ok then { s with pw := { s.pw with session := s.now } } else s
    let old := get s
    let new := if ok then get (act s) else old
    let s := bookRequested 1 (pageIndex k) (keyOff k) (masterNo m) old new s
    if ok then act s else refuseKey k s

/-- The common path where the register itself holds what a read returns. -/
def rwlPath (m : Master) (k : Nat) (ok : Bool) (act : State → State) (s : State) : State :=
  rwlPathBy (fun s => rd s k) m k ok act s

/-- The bits a plain write of a register sets and keeps, from its row (R8). -/
def plainValue (k : Nat) (old v : Word) : Word :=
  match regRow k with
  | some r =>
    let w := wNat r.wmask
    let c := wNat r.cmask
    ((old &&& ~~~ w) ||| (v &&& w)) &&& ~~~ (v &&& c)
  | none => old

/-- Write a register plainly, by its row. -/
def plainWrite (k : Nat) (v : Word) (s : State) : State := wr k (plainValue k (rd s k) v) s

end Sys2Proof.Machine
end

