-- ==== Sys2Proof/Machine/Groups.lean ====
section
/-! DEFINITION. Commit domains and commit groups (R12 to R20, R568, R569): boundary ticks, the setup window, opening,
arming and discarding a group. -/

namespace Sys2Proof.Machine

/-- Default of a domain. -/
def dom0 (_ : Nat) : Dom := {}
/-- A commit domain. -/
def dom (s : State) (d : Nat) : Dom := smGet dom0 s.doms d
/-- Set a commit domain. -/
def setDom (d : Nat) (x : Dom) (s : State) : State := { s with doms := smSet dom0 s.doms d x }

/-- Default of a group. -/
def grp0 (_ : Nat) : Grp := {}
/-- The key of group `g` of a page. -/
def grpKey (t : PageType) (n g : Nat) : Nat := (pageFirst t + n) * 8 + g
/-- A commit group. -/
def grp (s : State) (k : Nat) : Grp := smGet grp0 s.grps k
/-- Set a commit group. -/
def setGrp (k : Nat) (x : Grp) (s : State) : State := { s with grps := smSet grp0 s.grps k x }

/-- The first CLK_PWM edge at or after an instant (R12). -/
def tickAt (s : State) (t : Nat) : Nat :=
  if t ≤ s.clk.tick0 then s.clk.tick0 else s.clk.tick0 + (t - s.clk.tick0 + tickLen - 1) / tickLen * tickLen

/-- The setup window: 16 ns, 10 CLK_FAB cycles (R17). -/
def setupLen : Nat := 800

/-- A domain has boundaries (R14, R34). -/
def domRuns (s : State) (d : Nat) : Bool := live s .pwm && (dom s d).running

/-- The tick of the domain's next boundary (R12). -/
def nextTick (s : State) (d : Nat) : Nat := tickAt s (dom s d).next

/-- The tick of the domain's last boundary. -/
def lastTick (s : State) (d : Nat) : Nat := tickAt s (dom s d).start

/-- Now lies inside the commit setup window of the domain (R17). -/
def inSetup (s : State) (d : Nat) : Bool :=
  domRuns s d && decide (nextTick s d < s.now + setupLen)

/-- Where CDOM of a group's domain lies (R568). -/
def grpCdom (s : State) (t : PageType) (n g : Nat) : Nat :=
  match t with
  | .pwmg => rdf s (rk .pwmg n (0x100 + 0x40 * g)) 0 5
  | .cmp => rdf s (rk .cmp n (0x100 + 0x20 * g)) 20 5
  | .adc => actf s (rk .adc n 0x040) 4 5
  | _ => rdf s (rk t n 0x040) 4 5

/-- Keys of a page's shadowed registers, from its table. -/
def shadowKeys (t : PageType) (n : Nat) : List Nat :=
  (pageRows t).flatMap fun r =>
    if r.cls = .rws then
      (List.range r.n1).flatMap fun i => (List.range r.n2).map fun j => rk t n (r.off + r.s1 * i + r.s2 * j)
    else []

/-- The shadowed registers of group `g` (R131, R568). -/
def grpRegs (t : PageType) (n g : Nat) : List Nat :=
  match t with
  | .pwmg => (List.range 10).map fun j => rk .pwmg n (0x104 + 0x40 * g + 4 * j)
  | .cmp => [rk .cmp n (0x104 + 0x20 * g)]
  | .adc | .grid => shadowKeys t n
  | _ => []

/-- Put every shadow of a group in force. -/
def commitRegs (t : PageType) (n g : Nat) (s : State) : State :=
  forEach (grpRegs t n g) (fun k s => setForce k (rd s k) s) s

/-- The page has commit groups, and this is one of them (R568). -/
def hasGroup (t : PageType) (g : Nat) : Bool :=
  match t with
  | .pwmg | .cmp => decide (g < 8)
  | .adc | .grid => decide (g = 0)
  | _ => false

/-- The cause that a late or split commit raises (R162); other pages name none. -/
def raiseCommit (t : PageType) (n g : Nat) (s : State) : State :=
  match t with
  | .pwmg => raise .pwmg n (4 * g + 2) s
  | _ => s

/-- Set LATE of a group (R17). -/
def setLate (t : PageType) (n g : Nat) (s : State) : State :=
  raiseCommit t n g (wrb (rk t n 0x024) (16 + g) true s)

/-- Key of a domain register (R159): domain 2g + j lies in page g. -/
def domKey (d off : Nat) : Nat := rk .pwmg (d / 2) (off + 0x20 * (d % 2))

/-- DOMj_STAT.STATE. -/
def lockState (s : State) (d : Nat) : Nat := rdf s (domKey d 0x044) 0 2
/-- The next boundary of the domain is the one that R33 assigns to the next Datum cycle boundary: the one that coincides with
it where the domain is locked, otherwise the first at or after it. -/
def darmNext (s : State) (d : Nat) : Bool :=
  match nextBoundary s with
  | none => false
  | some (v, _) =>
    let x := dom s d
    let t := datumInstant s v
    if lockState s d = 3 then decide (t < x.next + x.per / 2 ∧ x.next < t + x.per / 2) else decide (t ≤ x.next)

/-- An armed converter group without boundaries: the tick it commits at (R52). -/
def bareTick (s : State) (x : Grp) : Option Nat :=
  x.armed.map fun t => tickAt s (t + setupLen)

/-- A write to an armed group, or an arm, lands now inside the setup window: of the domain's next boundary (R17), for a
Datum-aligned arm only where that is the boundary it waits for (R153), or of the tick of R52 where the domain has no
boundaries. -/
def landsLate (s : State) (k : Nat) (d : Nat) : Bool :=
  let x := grp s k
  if x.bare then (bareTick s x).any fun t => decide (t < s.now + setupLen)
  else domRuns s d && inSetup s d &&
    (!x.darm || (x.due && x.armed.any (fun a => decide (a + setupLen ≤ nextTick s d))) || darmNext s d)

/-- A shadow write of a group lands (R16, R17). -/
def openGroup (t : PageType) (n g : Nat) (s : State) : State :=
  let k := grpKey t n g
  let x := grp s k
  let x := { x with openAt := some (x.openAt.getD s.now) }
  let s := wrb (rk t n 0x024) g true s
  if x.armed.isSome then
    if landsLate s k x.dom then setLate t n g (setGrp k { x with armed := some s.now } s)
    else if x.bare then setGrp k x s
    else setGrp k { x with armed := some s.now } s
  else setGrp k x s

/-- Arm a group (R16 to R18). A group takes the domain in force when it is armed (R568); a converter group whose domain has
no boundaries then commits at a tick of its own (R52). -/
def armGroup (t : PageType) (n g : Nat) (s : State) : State :=
  if !(hasGroup t g) then s else
  let k := grpKey t n g
  let x := grp s k
  let d := grpCdom s t n g
  let s := setGrp k { x with darm := false, due := false } s
  let late := landsLate s k d
  let bare := t = .adc && (x.bare || !(domRuns s d))
  let s := setGrp k { x with armed := some s.now, dom := d, darm := false, due := false, bare := bare } s
  if late then setLate t n g s else s

/-- The arm that stands after a commit or a refusal: none but one written in the same CLK_FAB cycle, which applies to the
writes that follow (R569). -/
def armAgain (x : Grp) (now : Nat) : Option Nat := if x.rearm then some now else none

/-- A leg's group is no longer the one that a pass armed (R420). -/
def passUndone (t : PageType) (n g : Nat) (s : State) : State :=
  if t = .pwmg then { s with pair := { s.pair with ready := s.pair.ready.filter (· ≠ 8 * n + g) } } else s

/-- Return a group's shadow to the values in force; clear open and armed state (R18). -/
def discardGroup (t : PageType) (n g : Nat) (s : State) : State :=
  if !(hasGroup t g) then s else
  let s := passUndone t n g s
  let s := forEach (grpRegs t n g) (fun k s => wr k (inForce s k) s) s
  let s := setGrp (grpKey t n g) { } s
  wrb (rk t n 0x024) g false s

/-- A group has taken effect: closed and unarmed (R16, R18). -/
def closeGroup (t : PageType) (n g : Nat) (s : State) : State :=
  let k := grpKey t n g
  let x := grp s k
  let d := if x.rearm then grpCdom s t n g else 0
  wrb (rk t n 0x024) g false (setGrp k { armed := armAgain x s.now, dom := d } s)

/-- A commit is refused as a whole: the arm is cleared, the shadow keeps its values (R137, R19, R569). -/
def refuseGroup (t : PageType) (n g : Nat) (s : State) : State :=
  let k := grpKey t n g
  let s := passUndone t n g s
  let x := grp s k
  wrb (rk t n 0x024) (24 + g) true
    (setGrp k { x with armed := armAgain x s.now, darm := false, due := false, bare := false, rearm := false } s)

/-- Groups of page type `t` that commit at the boundary of domain `d` at tick `tk` (R16, R17, R153), as page and group. -/
def dueGroups (s : State) (t : PageType) (d tk : Nat) : List (Nat × Nat) :=
  (s.grps.filter fun e =>
    let p := e.1 / 8
    pageFirst t ≤ p && decide (p < pageFirst t + 32) && (pageOf p).any (fun q => decide (q.1 = t)) &&
      decide (e.2.dom = d) && e.2.armed.any (fun a => decide (a + setupLen ≤ tk)) && (!e.2.darm || e.2.due) && !e.2.bare).map
    fun e => (e.1 / 8 - pageFirst t, e.1 % 8)

/-- The start of the period that the next boundary of a domain ends; no period ends at its first boundary (R20). -/
def endedFrom (x : Dom) : Nat := if x.begun then x.start else 0

/-- The first write since the last commit landed before the period that ends, which began at `ended` (R20). -/
def isSplit (s : State) (t : PageType) (n g ended : Nat) : Bool :=
  (grp s (grpKey t n g)).openAt.any (fun w => decide (w < ended))

end Sys2Proof.Machine
end

