-- ==== Sys2Proof/Machine/Levels.lean ====
section
/-! DEFINITION. Output levels: the commanded waveform of a leg (R134 to R141), the ranks of R1, when commanded edges
resume (R4), and the levels of the PWM and driver pins. -/

namespace Sys2Proof.Machine

/-- Default of a leg. -/
def leg0 (_ : Nat) : Leg := {}
/-- A leg. -/
def leg (s : State) (l : Nat) : Leg := smGet leg0 s.legs l
/-- Set a leg. -/
def setLeg (l : Nat) (x : Leg) (s : State) : State := { s with legs := smSet leg0 s.legs l x }
/-- Change a leg. -/
def onLeg (l : Nat) (f : Leg → Leg) (s : State) : State := setLeg l (f (leg s l)) s

/-- Key of a leg register (R159). -/
def legKey (l off : Nat) : Nat := rk .pwmg (l / 8) (0x100 + 0x40 * (l % 8) + off)
/-- The domain of a leg, the one it waits to join included. -/
def legDom (s : State) (l : Nat) : Nat := rdf s (legKey l 0) 0 5
/-- The leg is in the domain (DOMj_MEMB). -/
def inDom (s : State) (d l : Nat) : Bool := decide (legDom s l = d) && !(leg s l).wait
/-- The legs of a domain. -/
def domLegs (s : State) (d : Nat) : List Nat := (List.range 96).filter (inDom s d)
/-- The domain holds a leg or one waits to join it (R14, R132). -/
def domHolds (s : State) (d : Nat) : Bool := (List.range 96).any fun l => decide (legDom s l = d)
/-- The pacer of a domain (R133). -/
def pacer (s : State) (d : Nat) : Option Nat := (domLegs s d).head?
/-- OUTMODE in force. -/
def outMode (s : State) (l : Nat) : Nat := actf s (legKey l 0x28) 0 2
/-- GATE in force. -/
def gateOf (s : State) (l : Nat) : Nat := actf s (legKey l 0x28) 2 2

/-- Steps that a tick and step word spells. -/
def stepsOf (w : Word) : Nat := fld w 8 24 * 160 + fld w 0 8
/-- The tick and step word of a number of steps. -/
def toTicks (n : Nat) : Word := wNat (n / 160 * 256 + n % 160)

/-- Is position `x` inside the interval (R136)? Where the period has shrunk to the on time of a leg whose group did not commit,
the interval covers the whole period.  DESIGN CHOICE (log entry 75). -/
def inInterval (a b ton p x : Nat) : Bool :=
  if ton = 0 then false
  else if p ≤ ton then true
  else if a ≤ b then decide (a ≤ x ∧ x < b)
  else decide (a ≤ x ∨ x < b)

/-- The commands in force of a leg, with `p` the period (R134 to R140). -/
def planOf (s : State) (l p : Nat) : Plan :=
  let g := leg s l
  let sk := inForce s (legKey l 0x24)
  { a := g.a, b := g.b, ton := g.ton, per := p, skA := sfld sk 0 8, skB := sfld sk 8 8,
    dta := actf s (legKey l 0x14) 0 17, dtb := actf s (legKey l 0x18) 0 17, mode := outMode s l, gate := gateOf s l }

/-- One period of a leg: where it begins, where it ends, trim included, and its commands. -/
structure Seg where
  start : Nat
  stop  : Nat
  plan  : Plan
deriving DecidableEq, Repr

/-- An edge of the command signal c: its instant, the level after it, and the commands of its period. -/
structure CEdge where
  t    : Nat
  lvl  : Bool
  plan : Plan
deriving DecidableEq, Repr

/-- c at a position of a period; in added time it keeps the level of the end of the nominal period (R136, R150). -/
def planLevel (p : Plan) (x : Nat) : Bool := inInterval p.a p.b p.ton p.per (min x (p.per - 1))

/-- The edges of c in one period, where c is `lvl` just before it; removed time cuts the end of the period (R136, R150). -/
def segEdges (lvl : Bool) (g : Seg) : List CEdge :=
  let p := g.plan
  let v0 := planLevel p 0
  let x := min p.a p.b
  let y := max p.a p.b
  let vx := planLevel p x
  let vy := planLevel p y
  (if v0 = lvl then [] else [{ t := g.start, lvl := v0, plan := p }]) ++
  (if x = 0 || vx = v0 || g.stop ≤ g.start + x then [] else [{ t := g.start + x, lvl := vx, plan := p }]) ++
  (if y = x || vy = vx || g.stop ≤ g.start + y then [] else [{ t := g.start + y, lvl := vy, plan := p }])

/-- c just before the end of a period. -/
def segLast (g : Seg) : Bool := planLevel g.plan (g.stop - g.start - 1)

/-- The edges of c over periods that follow one another; before the first, c is as at the end of a like period. -/
def periodEdges (lvl : Bool) : List Seg → List CEdge
  | [] => []
  | g :: gs => segEdges lvl g ++ periodEdges (segLast g) gs

/-- The waveform of a leg: its periods and the edges of c in them. -/
structure Wave where
  base  : Bool
  segs  : List Seg
  edges : List CEdge
deriving DecidableEq, Repr

/-- The waveform over a list of periods. -/
def waveOf (gs : List Seg) : Wave :=
  let base := match gs with
    | g :: _ => planLevel g.plan (g.plan.per - 1)
    | [] => false
  { base := base, segs := gs, edges := periodEdges base gs }

/-- The last and the present period of a leg. -/
def segsNow (s : State) (l : Nat) : List Seg :=
  let d := dom s (legDom s l)
  [{ start := d.prev, stop := d.start, plan := (leg s l).old }, { start := d.start, stop := d.next, plan := planOf s l d.per }]

/-- c shifted by a delay that each edge takes from the commands of its own period: the level after the latest edge whose
delayed instant has come (R136, R138, R139; log entry 23). -/
def shifted (w : Wave) (delay : Plan → Int) (t : Int) : Bool :=
  w.edges.foldl (fun v e => if (e.t : Int) + delay e.plan ≤ t then e.lvl else v) w.base

/-- The commands in force at an instant. -/
def planAt (w : Wave) (t : Int) : Plan :=
  w.segs.foldl (fun p g => if (g.start : Int) ≤ t then g.plan else p) {}

/-- Since a truncation at `t0` a rising edge of c has reached PWM_B (R141; log entry 23). -/
def cRose (w : Wave) (t0 t : Int) : Bool :=
  w.edges.any fun e => e.lvl && decide (t0 < e.t + e.plan.skB ∧ e.t + e.plan.skB ≤ t)

/-- Level of an output at rank 6 of R1 at an instant: mode, dead time, skew, gate and truncation (R138 to R141). -/
def waveLevel (w : Wave) (trunc : Option Nat) (outB : Bool) (t : Int) : Bool :=
  let p := planAt w t
  if p.gate = 2 || p.mode = 0 then false
  else if outB then
    p.mode = 1 && p.gate = 0 && !(shifted w (fun q => q.skB) t) && !(shifted w (fun q => q.skB + q.dtb) t) &&
      !(trunc.any fun t0 => !(cRose w t0 t))
  else if p.mode = 1 then shifted w (fun q => q.skA) t && shifted w (fun q => q.skA + q.dta) t
  else shifted w (fun q => q.skA) t

/-- The level, where it lasts 100 ps (the paragraph after R141). -/
def waveHolds (w : Wave) (trunc : Option Nat) (outB lvl : Bool) (t : Int) : Bool :=
  (List.range 5).all fun i => waveLevel w trunc outB (t + i) = lvl

/-- Candidate instants of an output's edges: the edges of c with skew and dead time, and the starts of periods, where the
mode and the gate change (R138 to R140). -/
def waveTimes (w : Wave) (outB : Bool) : List Int :=
  (w.edges.flatMap fun e =>
    let p := e.plan
    let sk := if outB then p.skB else p.skA
    [(e.t : Int) + sk, e.t + sk + (if outB then p.dtb else p.dta)]) ++ w.segs.map fun g => (g.start : Int)

/-- The next edge of an output after its last one and before `stop`: its ideal instant and the level it takes. -/
def waveNext (w : Wave) (g : Leg) (outB : Bool) (stop : Int) : Option (Nat × Bool) :=
  let cur := if outB then g.cmdB else g.cmdA
  let last : Int := if outB then g.edgeB else g.edgeA
  let fit := (waveTimes w outB).filter fun t => decide (last < t ∧ t < stop) && waveHolds w g.trunc outB (!cur) t
  match fit with
  | [] => none
  | t :: ts => some ((ts.foldl min t).toNat, !cur)

/-! Holds at ranks 1 to 5 -/

/-- Default of a set. -/
def safeSet0 (_ : Nat) : SafeSet := {}
/-- A safe-state set. -/
def safeSet (s : State) (k : Nat) : SafeSet := smGet safeSet0 s.sets k
/-- Default of a trip input. -/
def tripIn0 (_ : Nat) : TripIn := {}
/-- A trip input. -/
def tripIn (s : State) (i : Nat) : TripIn := smGet tripIn0 s.trips i
/-- Default of a phase. -/
def phase0 (_ : Nat) : Phase := {}
/-- A direct phase. -/
def phase (s : State) (p : Nat) : Phase := smGet phase0 s.phases p
/-- Set a direct phase. -/
def setPhase (p : Nat) (x : Phase) (s : State) : State := { s with phases := smSet phase0 s.phases p x }
/-- Default of a driver group: REG_EN has an internal pull-down (R190). -/
def drvGrp0 (_ : Nat) : DrvGrp := {}
/-- A driver group. -/
def drvGrp (s : State) (g : Nat) : DrvGrp := smGet drvGrp0 s.drvs g

/-- Key of a set register (R194). -/
def setKey (k off : Nat) : Nat := rk .trip 0 (0x800 + 0x20 * k + off)
/-- Key of a trip-input register. -/
def tripKey (i off : Nat) : Nat := rk .trip 0 (0x100 + 0x20 * i + off)
/-- Key of a direct-phase register. -/
def phKey (p off : Nat) : Nat := rk .drv (p / 4) (0x100 + 0x20 * (p % 4) + off)
/-- EN of a direct phase. -/
def phEn (s : State) (p : Nat) : Bool := rdb s (phKey p 0) 0
/-- The leg drives an enabled direct phase (R186). -/
def legPhase (s : State) (l : Nat) : Option Nat :=
  if 80 ≤ l ∧ phEn s (l - 80) then some (l - 80) else none

/-- A set holds the leg, or the direct phase it drives, as a member. -/
def inSet (s : State) (k l : Nat) : Bool :=
  rdb s (setKey k (4 * (l / 32))) (l % 32) ||
    (legPhase s l).any fun p => rdb s (setKey k 0x0C) p

/-- The kinds in which rank 3 holds the leg (R165): true is floor clamp. -/
def holds3 (s : State) (l : Nat) : List Bool :=
  let ofSet := (s.sets.filter fun e => e.2.latched && inSet s e.1 l).map fun e => rdb s (setKey e.1 0x10) 0
  let pll := if s.clk.pllHold then [false] else []
  let ofGrp := match legPhase s l with
    | none => []
    | some p =>
      let g := drvGrp s (p / 4)
      (if rdb s (rk .drv (p / 4) 0x044) 2 then [rdb s (rk .drv (p / 4) 0x040) 0] else []) ++
      (if g.off then [false] else []) ++ (if g.vdrvOk then [] else [false])
  ofSet ++ pll ++ ofGrp

/-- The leg number, or the number 96 + p of the direct phase it drives, stands in a list of members. -/
def listed (s : State) (l : Nat) (ms : List Nat) : Bool :=
  ms.contains l || (legPhase s l).any fun p => ms.contains (96 + p)

/-- A hold-off reaction of trip input `i` acts on the leg (R172, R173). -/
def heldOff (s : State) (i l : Nat) : Bool :=
  rdb s (tripKey i 0x18) 3 && inSet s (rdf s (tripKey i 0) 12 4) l

/-- The reactions at rank 4 on the leg (R172): true is high-side off. -/
def holds4 (s : State) (l : Nat) : List Bool :=
  s.trips.flatMap fun e =>
    (if listed s l e.2.cycle || heldOff s e.1 l then [false] else []) ++ (if listed s l e.2.cycleHigh then [true] else [])

/-- Pair membership of a leg or of its direct phase (R417). -/
def pairMember (s : State) (l : Nat) : Bool :=
  rdb s (rk .pair 0 0x040) 0 &&
    (rdb s (rk .pair 0 (0x054 + 4 * (l / 32))) (l % 32) ||
      (legPhase s l).any fun p => rdb s (rk .pair 0 0x060) p)

/-- The highest active rank of R1 on a leg; 6 where none of ranks 1 to 5 acts. -/
def legRank (s : State) (l : Nat) : Nat :=
  if s.plumb.spo then 1
  else if pairMember s l && !s.pair.released.contains l then 2
  else if !(holds3 s l).isEmpty then 3
  else if !(holds4 s l).isEmpty then 4
  else if s.holds.frozen then 5
  else 6

/-- Commanded edges have resumed: a boundary has passed since every release (R4). -/
def resumed (s : State) (l : Nat) : Bool :=
  let tk := lastTick s (legDom s l)
  let ok : Option Nat → Bool := fun r => r.all fun t => decide (t ≤ tk)
  let h := s.holds
  ok h.spo && ok h.pll && ok h.freeze && ok (leg s l).relAt

/-- The interlock on every path to the pins (R2, R143): both outputs low where a path would have both high. -/
def interlock (v : Bool × Bool) : Bool × Bool := if v.1 && v.2 then (false, false) else v

/-- Levels that R1 gives the outputs of a leg. -/
def legLevels (s : State) (l : Nat) : Bool × Bool :=
  let g := leg s l
  if !(live s .pwm) then (false, false) else
  interlock (match legRank s l with
  | 1 => (false, false)
  | 2 => (false, false)
  | 3 => if (holds3 s l).all (· = true) && outMode s l = 1 then (false, decide (g.clampAt ≤ s.now)) else (false, false)
  | 4 => if (holds4 s l).all (· = true) then (false, g.cmdB) else (false, false)
  | 5 => if g.hold then (false, false) else (g.frozenA, g.frozenB)
  | _ => if g.hold || !(resumed s l) then (false, false) else (g.cmdA, g.cmdB))

/-- The levels of a leg were `was` and may have risen: the rising edges at the output stage at instant `at'` (R188). While
the bootstrap voltage is low a rising edge of DRV_HO is suppressed (R187). -/
def noteRise (l at' : Nat) (was : Bool × Bool) (s : State) : State :=
  let v := legLevels s l
  let upA := v.1 && !was.1
  let upB := v.2 && !was.2
  if !upA && !upB then s else
  let supp := decide (80 ≤ l) && !(phase s (l - 80)).bstOk
  let s := if upA && 80 ≤ l then setPhase (l - 80) { phase s (l - 80) with supp := supp } s else s
  onLeg l (fun g => { g with outA := (if upA && !supp then some at' else g.outA), outB := (if upB then some at' else g.outB) }) s

/-- A floor clamp decides the levels of the leg (R165, R166). -/
def clampOn (s : State) (l : Nat) : Bool :=
  legRank s l = 3 && (holds3 s l).all (· = true) && outMode s l = 1

/-- The high side is high at the output stage: DRV_HO is low from a suppressed rising edge to the next fall (R187). -/
def highSide (s : State) (l : Nat) : Bool := (legLevels s l).1 && !((legPhase s l).any fun p => (phase s p).supp)

/-- Rank 3 may have changed from `s`: where a floor clamp takes the leg, the low side may rise DTB after the high side falls,
or at once where that was low; where one ends, no rise of it is to come (R166). -/
def clampFollow (s : State) (l : Nat) (t : State) : State :=
  if clampOn t l && !(clampOn s l) then
    let rise := t.now + (if highSide s l then actf t (legKey l 0x18) 0 17 else 0)
    onLeg l (fun g => { g with clampAt := rise, outB := (if t.now < rise then some rise else g.outB) }) t
  else if clampOn s l && !(clampOn t l) then
    onLeg l (fun g => { g with outB := g.outB.filter fun r => decide (r ≤ t.now) }) t
  else t

/-- The holds of R1 on the legs have changed from those of `s`: a floor clamp begins or ends; a leg that no rank holds any more
resumes at the next boundary (R4); elsewhere the next active rank has taken over, and its rising edges are noted. -/
def settle (s t : State) : State :=
  forEach (t.legs.map (·.1)) (fun l t =>
    let now := t.now
    let t := if legRank s l < 6 && legRank t l = 6 then onLeg l (fun g => { g with relAt := some now }) t else t
    noteRise l now (legLevels s l) (clampFollow s l t)) t

/-- Levels of PWM_A and PWM_B at the pins: low where the leg drives an enabled direct phase (R186). -/
def pwmPins (s : State) (l : Nat) : Bool × Bool :=
  if (legPhase s l).isSome then (false, false) else legLevels s l

/-- Levels of DRV_HO and DRV_LO (R186, R187): low where the phase is not enabled, and on DRV_HO from a suppressed rising
edge to the next fall. -/
def drvPins (s : State) (p : Nat) : Bool × Bool :=
  if !(phEn s p) then (false, false)
  else let v := legLevels s (80 + p); (v.1 && !(phase s p).supp, v.2)

end Sys2Proof.Machine
end

