-- ==== Sys2Proof/Machine/Legs.lean ====
section
/-! DEFINITION. PWM legs (R131 to R162): the commit of a leg, the legs' part of a boundary, domain moves, edges and the
overlap interlock, delay-line calibration and the lock to Datum. -/

namespace Sys2Proof.Machine

/-- round(d * p) for a duty limited to the range from 0.0 to 1.0, ties away from zero (R134). -/
def dutySteps (d : Word) (p : Nat) : Nat :=
  let v := f32 d
  if fLe v (.num false 0 0) then 0
  else if fLe (.num false 1 0) v then p
  else (fRoundAway (fMul v (fInt p 0))).toNat

/-- The positions of a command: start, end and on time, and the clamp flags (R134, R135, R20). -/
def derive (s : State) (l pNew pOld : Nat) (split : Bool) : Nat × Nat × Nat × Bool × Bool :=
  let p := if split then pOld else pNew
  let lim := rd s (legKey l 0x1C)
  let minOn := fld lim 0 16
  let minOff := fld lim 16 16
  let (a, ton) :=
    if (leg s l).form then
      let ton := dutySteps (rd s (legKey l 0x10)) p
      let ph := (2 * rdf s (legKey l 0x20) 0 24 * p + 2 ^ 24) / 2 ^ 25
      match rdf s (legKey l 0) 5 2 with
      | 1 => (ph + p - ton, ton)
      | 2 => (ph + (p - ton) / 2, ton)
      | _ => (ph, ton)
    else
      let a := stepsOf (rd s (legKey l 0x08))
      let b := stepsOf (rd s (legKey l 0x0C))
      (a, (b + pNew - a) % pNew)
  let lo := decide (0 < ton ∧ ton < minOn)
  let ton := if lo then 0 else ton
  let limit := if split then min (pNew - minOff) (pOld - minOff) else pNew - minOff
  let hi := decide (limit < ton)
  let ton := min ton limit
  let a := (if (leg s l).form then a % p else a) % pNew
  (a, (a + ton) % pNew, ton, lo, hi)

/-- The values of a leg's group keep every rule of R137, with `p` the period that would take effect. -/
def legLegal (s : State) (l p : Nat) (isPacer : Bool) : Bool :=
  let per := rd s (legKey l 0x04)
  let perOk := !isPacer || (decide (50000 ≤ stepsOf per ∧ stepsOf per ≤ 25000000) && decide (fld per 0 8 ≤ 159))
  let cmp := fun (o : Nat) => let w := rd s (legKey l o); decide (fld w 0 8 ≤ 159 ∧ stepsOf w < p)
  let cmpOk := (leg s l).form || (cmp 0x08 && cmp 0x0C)
  let dta := rdf s (legKey l 0x14) 0 17
  let dtb := rdf s (legKey l 0x18) 0 17
  let lim := rd s (legKey l 0x1C)
  let sk := rd s (legKey l 0x24)
  let md := rd s (legKey l 0x28)
  perOk && cmpOk && decide (dta ≤ 125000 ∧ dtb ≤ 125000 ∧ dta + dtb < p ∧ fld lim 0 16 + fld lim 16 16 ≤ p ∧
    fld sk 0 8 ≠ 128 ∧ fld sk 8 8 ≠ 128 ∧ fld md 0 2 ≠ 3 ∧ fld md 2 2 ≠ 3)

/-- A leg that becomes pacer goes on with the period in force, which its LEGi_PER read until then (R133).  DEDUCED: log
entry 62. -/
def inheritPer (d : Nat) (s : State) : State :=
  match pacer s d with
  | some l =>
    let k := legKey l 0x04
    let w := toTicks (dom s d).per
    setForce k w (wr k w s)
  | none => s

/-- Take a leg's group into force (R134 to R136, R20). -/
def commitLeg (l pNew pOld ended : Nat) (s : State) : State :=
  let n := l / 8
  let i := l % 8
  let split := isSplit s .pwmg n i ended
  let (a, b, ton, lo, hi) := derive s l pNew pOld split
  let s := commitRegs .pwmg n i s
  let s := onLeg l (fun g => { g with a := a, b := b, ton := ton, formAct := g.form }) s
  let s := wrb (legKey l 0x2C) 1 hi (wrb (legKey l 0x2C) 0 lo s)
  let s := closeGroup .pwmg n i s
  if split then raiseCommit .pwmg n i (wrb (rk .pwmg n 0x024) (8 + i) true s) else s

/-- Raise a domain's DEVICE cause on its pacer (R162). -/
def raiseDomain (d : Nat) (s : State) : State :=
  match pacer s d with
  | some l => raise .pwmg (l / 8) (4 * (l % 8) + 3) s
  | none => s

/-- Set DOMj_STAT.STATE. -/
def setLock (d st : Nat) (s : State) : State := wrf (domKey d 0x044) 0 2 st s

/-- Enter LOCKED (R149, R152): HOLDOVER clears and the pacer raises DEVICE. -/
def enterLocked (d : Nat) (s : State) : State :=
  raiseDomain d (wrb (domKey d 0x044) 2 false (setLock d 3 s))

/-- The Datum cycle of `len` units of 62.5 ps is a whole multiple of a period of `p` steps of 20 ps (R32, R148). -/
def cycleFits (len p : Nat) : Bool := p ≠ 0 && (len * 25) % (8 * p) = 0

/-- The boundary error is forgotten: it is measured afresh at the next Datum cycle boundary (R149). -/
def dropErr (d : Nat) (s : State) : State := setDom d { dom s d with err := none, first := false } s

/-- A lock that has broken its rule ends (R151). -/
def breakLock (d : Nat) (s : State) : State :=
  raiseDomain d (dropErr d (wrb (domKey d 0x044) 5 true (wrb (domKey d 0x040) 0 false (setLock d 0 s))))

/-- A request that fails the test of R148 is refused. -/
def refuseLock (d : Nat) (s : State) : State :=
  raiseDomain d (wrb (domKey d 0x044) 4 true (wrb (domKey d 0x040) 0 false (setLock d 0 s)))

/-- The boundary error under the period in force: the boundary B(k) against the Datum cycle boundaries, of which the next
stands for all, since the cycle is a whole multiple of the period (R149, R151). -/
def errNow (s : State) (d : Nat) : Option Int :=
  let x := dom s d
  match nextBoundary s with
  | none => none
  | some (v, _) =>
    let p : Int := x.per
    let e := ((x.start : Int) - datumInstant s v) % p
    some (if p < 2 * e then e - p else e)

/-- A change of the cycle length: the rule of R148 is tested again (R151). -/
def checkLock (d : Nat) (s : State) : State :=
  if lockState s d = 0 then s else
  match s.datum.cyc with
  | none => s
  | some c => if cycleFits c.len (dom s d).per then s else breakLock d s

/-- A period has committed at B(k): the rule of R148 is tested again, and a domain that keeps it goes on with the error under
the new period (R151). -/
def commitLock (d : Nat) (s : State) : State :=
  let s := checkLock d s
  let st := lockState s d
  if st ≠ 2 && st ≠ 3 then s else
  match (dom s d).err, errNow s d with
  | some _, some e =>
    let s := setDom d { dom s d with err := some e } s
    if st = 3 && decide (1 < e.natAbs) then setLock d 2 s else s
  | _, _ => s

/-- The trim of the period that starts now, and the error after it (R149, R150). -/
def trimNow (s : State) (d : Nat) : Int × Option Int :=
  let x := dom s d
  let ctrl := rd s (domKey d 0x040)
  let slew : Int := if fld ctrl 8 8 = 0 then 1 else fld ctrl 8 8
  match x.err with
  | none => (0, none)
  | some e =>
    let step := clampInt (-slew) slew (-e)
    match lockState s d with
    | 2 =>
      if bit ctrl 1 then
        if x.first then let t := (-e) % (x.per : Int); (t, some 0) else (0, some e)
      else if e.natAbs ≤ 1 then (0, some e) else (step, some (e + step))
    | 3 => if x.first then (step, some (e + step)) else (0, some e)
    | _ => (0, some e)

/-- The last CLK_PWM tick at or before an instant: the tick at which the counter issues an edge (R147). -/
def tickBefore (s : State) (t : Nat) : Nat := if tickAt s t = t then t else tickAt s t - tickLen

/-- Where the edge is placed: on a tick where the leg had no valid calibration when its counter issued the edge (R147). -/
def placeEdge (s : State) (l : Nat) (rise : Bool) (t : Nat) : Nat :=
  let g := leg s l
  let v := if tickBefore s t < g.validAt then !g.valid else g.valid
  if v then t else if rise then tickAt s t else tickBefore s t

/-- An overlap is refused at an instant (R142): both outputs low to the next boundary, counted, OVERLAP raised. -/
def refuseOverlap (l at' : Nat) (s : State) : State :=
  let s := onLeg l (fun g => { g with hold := true, ovl := true, refusedAt := at' }) s
  let s := incHeld (legKey l 0x30) 0 16 s
  raise .pwmg (l / 8) (4 * (l % 8) + 1) (wrb (legKey l 0x2C) 2 true s)

/-- The waiting legs of a domain join at its boundary (R132). -/
def joinLegs (d : Nat) (s : State) : State :=
  let joins := (List.range 96).filter fun l => decide (legDom s l = d) && (leg s l).wait
  if joins.isEmpty then s else
  let was := pacer s d
  let s := forEach joins (fun l s => onLeg l (fun g => { g with wait := false }) s) s
  if pacer s d = was then s else inheritPer d s

/-- The legs whose groups commit at the boundary of domain `d` at tick `tk` (R16, R17). -/
def dueLegs (s : State) (d tk : Nat) : List Nat := (dueGroups s .pwmg d tk).map fun e => 8 * e.1 + e.2

/-- The period that takes effect at the boundary of domain `d` at tick `tk` (R13, R133). -/
def boundaryPer (s : State) (d tk : Nat) : Nat :=
  match pacer s d with
  | some l =>
    let p := stepsOf (rd s (legKey l 0x04))
    if (dueLegs s d tk).contains l && legLegal s l p true then p else (dom s d).per
  | none => (dom s d).per

/-- The legs' groups that fall due at the boundary take effect or are refused (R16, R20, R137). -/
def commitLegs (d tk pNew : Nat) (s : State) : State :=
  let x := dom s d
  let pc := pacer s d
  forEach (dueLegs s d tk) (fun l s =>
    let own := if pc = some l then stepsOf (rd s (legKey l 0x04)) else pNew
    if legLegal s l own (pc = some l) then commitLeg l pNew x.per (endedFrom x) s
    else raiseCommit .pwmg (l / 8) (l % 8) (refuseGroup .pwmg (l / 8) (l % 8) s)) s

/-- Withdraw a Datum-aligned arm: DFAIL and COMMIT, and the group stays open (R153). -/
def withdrawDarm (k : Nat) (s : State) : State :=
  let n := k / 8 - pageFirst .pwmg
  let i := k % 8
  raiseCommit .pwmg n i (wrb (rk .pwmg n 0x080) (8 + i) true
    (passUndone .pwmg n i (setGrp k { grp s k with armed := none, darm := false, due := false } s)))

/-- Datum is not valid when the boundary of a Datum-aligned arm falls due: the arm is withdrawn (R153). -/
def withdrawDue (d tk : Nat) (s : State) : State :=
  if datumValid s then s else
  forEach (s.grps.filter fun e => e.2.darm && e.2.due && decide (e.2.dom = d) &&
    e.2.armed.any (fun a => decide (a + setupLen ≤ tk))) (fun e s => withdrawDarm e.1 s) s

/-- Datum-aligned arms whose boundary is the next one: the one that coincides with the next Datum cycle boundary where the
domain is locked, otherwise the first at or after it (R33, R153). Where Datum is not valid the arms that fall due are
withdrawn. -/
def darmsDue (d : Nat) (s : State) : State :=
  let s := if datumValid s && domRuns s d && darmNext s d then
      { s with grps := s.grps.map fun e => if e.2.darm && e.2.dom = d then (e.1, { e.2 with due := true }) else e }
    else s
  withdrawDue d (nextTick s d) s

/-- The waveform of a leg with the period that the next boundary begins: the groups as they will commit there (R136). -/
def waveNextPeriod (s : State) (l : Nat) : Wave :=
  let d := legDom s l
  let tk := nextTick s d
  let t := joinLegs d (darmsDue d s)
  let p := boundaryPer t d tk
  let next := (dom s d).next
  waveOf (segsNow s l ++ [{ start := next, stop := next + p, plan := planOf (commitLegs d tk p t) l p }])

/-- The largest time by which a skew, and the 100 ps of R141, reach before a boundary, in steps. -/
def skewReach : Nat := 140

/-- The next edge of an output before `stop`: its ideal instant and the level it takes. Near the next boundary and after it the
edges of the period it begins count (R136). -/
def nextEdgeTo (s : State) (l : Nat) (outB : Bool) (stop : Nat) : Option (Nat × Bool) :=
  match waveNext (waveOf (segsNow s l)) (leg s l) outB ((dom s (legDom s l)).next - skewReach : Nat) with
  | some e => some e
  | none => waveNext (waveNextPeriod s l) (leg s l) outB stop

/-- The next edge of an output up to the tick of the next boundary. -/
def nextEdge (s : State) (l : Nat) (outB : Bool) : Option (Nat × Bool) :=
  nextEdgeTo s l outB (nextTick s (legDom s l) + 1)

/-- The other output is high when a rising edge is placed at `now`: it is high and does not fall by then, or it rises in the
same step (R142). -/
def otherHigh (s : State) (l : Nat) (outB : Bool) (now : Nat) : Bool :=
  let g := leg s l
  let cur := if outB then g.cmdA else g.cmdB
  match nextEdge s l (!outB) with
  | some (t, rise) => if cur then decide (now < placeEdge s l rise t) else rise && decide (placeEdge s l rise t = now)
  | none => cur

/-- An edge of an output takes place, placed at `now` (R136 to R142). -/
def takeEdge (l : Nat) (outB : Bool) (t : Nat) (rise : Bool) (s : State) : State :=
  let now := placeEdge s l rise t
  let other := rise && legRank s l = 6 && resumed s l && !(leg s l).hold && otherHigh s l outB now
  let s := upto now s
  let was := legLevels s l
  let s := onLeg l (fun g =>
    if outB then { g with cmdB := rise, edgeB := t, roseB := (if rise then some now else g.roseB),
                          trunc := (if rise then none else g.trunc) }
    else { g with cmdA := rise, edgeA := t, roseA := (if rise then some now else g.roseA) }) s
  if other then refuseOverlap l now s else noteRise l now was s

/-- The next edge of an output falls due (R136 to R142). -/
def doEdge (l : Nat) (outB : Bool) (s : State) : State :=
  if !(domRuns s (legDom s l)) || (leg s l).wait then s else
  match nextEdge s l outB with
  | none => s
  | some (t, rise) => takeEdge l outB t rise s

/-- Every edge of a leg up to instant `stop`, in the order in which they are placed, a fall before a rise; `n` bounds their
number. -/
def catchUp (l stop : Nat) : Nat → State → State
  | 0, s => s
  | n + 1, s =>
    let due : Option (Nat × Bool) → Option (Nat × Bool) := fun e => e.filter fun e => decide (e.1 ≤ stop)
    match due (nextEdge s l false), due (nextEdge s l true) with
    | none, none => s
    | some a, none => catchUp l stop n (takeEdge l false a.1 a.2 s)
    | none, some b => catchUp l stop n (takeEdge l true b.1 b.2 s)
    | some a, some b =>
      let x := placeEdge s l a.2 a.1
      let y := placeEdge s l b.2 b.1
      if x < y || (x = y && !a.2) then catchUp l stop n (takeEdge l false a.1 a.2 s)
      else catchUp l stop n (takeEdge l true b.1 b.2 s)

/-- The leg stays off through the boundary: no edge of it can be due. -/
def idleLeg (s : State) (l : Nat) : Bool :=
  let g := leg s l
  !g.cmdA && !g.cmdB && g.old.mode = 0 && outMode s l = 0 && !((dueLegs s (legDom s l) (nextTick s (legDom s l))).contains l)

/-- The edges of a domain's legs up to instant `stop` that no command has taken. -/
def finishEdges (d stop : Nat) (s : State) : State :=
  if !(dom s d).begun then s else
  forEach (domLegs s d) (fun l s => if idleLeg s l then s else catchUp l stop 16 s) s

/-- A truncation whose rising edge of c has come by the boundary is over (R141); the edges of PWM_B before the boundary are
past. -/
def endTrunc (l : Nat) (s : State) : State :=
  let d := dom s (legDom s l)
  if (leg s l).trunc.any fun t0 => cRose (waveOf (segsNow s l)) t0 d.start then
    onLeg l (fun g => { g with trunc := none, edgeB := max g.edgeB (d.start - 1) }) s
  else s

/-- A new period of a leg, from the state `before` its boundary: a hold after a refused edge of the period that ends is over (R142), and where both outputs would
then be high the interlock refuses. -/
def legPeriod (l : Nat) (before s : State) : State :=
  let d := dom s (legDom s l)
  let g := leg s l
  let stays := g.hold && decide (d.start ≤ g.refusedAt)
  let s := onLeg l (fun g =>
    if stays then { g with ovlLast := false } else { g with hold := false, ovlLast := g.ovl, ovl := false }) s
  let s := raise .pwmg (l / 8) (4 * (l % 8)) s
  if !stays && legRank s l = 6 && g.cmdA && g.cmdB then refuseOverlap l d.start s
  else noteRise l (tickAt s d.start) (legLevels before l) (clampFollow before l s)

/-- The legs' part of a boundary of domain `d` (R12, R16, R20, R132, R136, R137, R149 to R151). -/
def legBoundary (d : Nat) (s : State) : State :=
  let x := dom s d
  let tk := tickAt s x.next
  let s := finishEdges d tk (upto tk s)
  let before := s
  let s := joinLegs d s
  let pNew := boundaryPer s d tk
  let s := forEach (domLegs s d) (fun l s => let p := planOf s l x.per; onLeg l (fun g => { g with old := p }) s) s
  let s := commitLegs d tk pNew s
  let s := setDom d { x with begun := true, prev := (if x.begun then x.start else x.next), start := x.next,
                             oldPer := x.per, per := pNew, k := x.k + 1 } s
  let s := if pNew = x.per then s else commitLock d s
  let s := if lockState s d = 2 && (dom s d).err.any (fun e => decide (e.natAbs ≤ 1)) then enterLocked d s else s
  let (trim, err) := trimNow s d
  let y := dom s d
  let s := setDom d { y with next := ((y.start : Int) + pNew + trim).toNat, err := err, first := false } s
  let s := incMod (domKey d 0x04C) 0 32 s
  let s := forEach (domLegs s d) (fun l s => legPeriod l before (endTrunc l s)) s
  finishEdges d tk s

/-- The cycle record that the node holds: none while Datum is OFF (R148, R354). -/
def cycHeld (s : State) : Option CycRec := if s.datum.st = .off then none else s.datum.cyc

/-- A lock request of a domain aligns: Datum is valid, a cycle record is held, and the domain holds a leg (R148). -/
def mayAlign (s : State) (d : Nat) : Bool := datumValid s && (cycHeld s).isSome && domHolds s d

/-- A domain that is given a leg, or that its clock starts: the first boundary falls on the first CLK_PWM tick at least
16 ns later (R132). -/
def startDomain (d : Nat) (s : State) : State :=
  let s := if lockState s d = 1 && datumValid s && (cycHeld s).isSome then setLock d 2 s else s
  setDom d { dom s d with running := true, begun := false, next := tickAt s (s.now + setupLen) } s

/-- A domain loses its last leg, and with it its boundaries: a lock waits (R148), and the tick of a converter group armed for
it counts from the loss (R52). -/
def loseBoundaries (d : Nat) (s : State) : State :=
  let s := setDom d { dom s d with running := false, begun := false, err := none, first := false } s
  let s := if lockState s d = 2 || lockState s d = 3 then setLock d 1 s else s
  { s with grps := s.grps.map fun e =>
           if e.2.dom = d ∧ e.2.armed.isSome ∧ e.2.bare = false ∧ (pageOf (e.1 / 8)).any (fun q => decide (q.1 = .adc))
           then (e.1, { e.2 with armed := some s.now, bare := true, rearm := false }) else e }

/-- Write LEGi_CFG (R132, R134, R160). -/
def writeLegCfg (l : Nat) (v : Word) (s : State) : State :=
  let k := legKey l 0
  let old := rd s k
  let v := if fld v 0 5 ≥ 24 then setFld v 0 5 (fld old 0 5) else v
  let v := if fld v 5 2 = 3 then setFld v 5 2 (fld old 5 2) else v
  let v := v &&& 0x7FFF
  let d0 := fld old 0 5
  let d1 := fld v 0 5
  if d0 = d1 then wr k v s
  else if outMode s l ≠ 0 || (grp s (grpKey .pwmg (l / 8) (l % 8))).openAt.isSome then s
  else
    let was := pacer s d0
    let s := onLeg l (fun g => { g with wait := true }) (wr k v s)
    let s := if pacer s d0 = was then s else inheritPer d0 s
    let s := if domHolds s d0 then s else loseBoundaries d0 s
    if (dom s d1).running then s else startDomain d1 s

/-- Write DOMj_CTRL (R148). -/
def writeDomCtrl (d : Nat) (v : Word) (s : State) : State :=
  let s := wr (domKey d 0x040) (v &&& 0xFF03) s
  if !(bit v 0) then
    setDom d { dom s d with err := none, first := false } (wrb (domKey d 0x044) 2 false (setLock d 0 s))
  else if lockState s d ≠ 0 then s
  else
    if (cycHeld s).all fun c => cycleFits c.len (dom s d).per then setLock d (if mayAlign s d then 2 else 1) s
    else refuseLock d s

/-- The node holds a cycle record, or Datum becomes valid: a waiting request is tested, and aligns where it may (R148, R152). -/
def testWaiting (s : State) : State :=
  forEach (List.range 24) (fun d s =>
    if lockState s d ≠ 1 then s
    else if !((cycHeld s).all fun c => cycleFits c.len (dom s d).per) then refuseLock d s
    else if mayAlign s d then setLock d 2 s else s) s

/-- Datum becomes valid or ceases to be: waiting requests align, aligning and locked ones wait (R152). -/
def lockFollowsDatum (s : State) : State :=
  if datumValid s then testWaiting s else
  forEach (List.range 24) (fun d s =>
    let st := lockState s d
    if st = 2 || st = 3 then
      setDom d { dom s d with err := none, first := false } (wrb (domKey d 0x044) 2 true (setLock d 1 s))
    else s) s

/-- A Datum-aligned group falls due at a Datum cycle boundary: at its domain's next boundary, but at the one after it where
that boundary is already past and the domain is not locked (R33, R153). -/
def fallDue (s : State) (x : Grp) : Grp :=
  if !x.darm then x
  else if domRuns s x.dom && lockState s x.dom ≠ 3 && decide ((dom s x.dom).next < s.now) then
    { x with due := true, armed := some s.now }
  else { x with due := true }

/-- A Datum cycle boundary at this instant: the boundary error is measured and reported (R149); Datum-aligned groups fall due
(R153). The next trim starts from the error of the next boundary, in which the trim of the period in progress stands. -/
def alignDomains (s : State) : State :=
  let s := forEach (List.range 24) (fun d s =>
    let x := dom s d
    let st := lockState s d
    if !(domRuns s d) || !x.begun then s else
    let e0 : Int := (x.start : Int) - s.now
    let e1 : Int := (x.next : Int) - s.now
    let e := if e0.natAbs < e1.natAbs then e0 else e1
    let s := wr (domKey d 0x048) (wInt e) s
    if !(datumValid s) || (st ≠ 2 && st ≠ 3) then s else
    let left := if e0.natAbs < e1.natAbs then e1 - x.per else e1
    let s := setDom d { x with err := some left, first := true } s
    if st = 2 && left.natAbs ≤ 1 then enterLocked d s else s) s
  { s with grps := s.grps.map fun e => (e.1, fallDue s e.2) }

/-- Arm group `i` of a PWMG page for the boundary of the next Datum cycle boundary (R153); R17 applies at that boundary. -/
def darmGroup (n i : Nat) (s : State) : State :=
  if datumValid s then
    let k := grpKey .pwmg n i
    let d := grpCdom s .pwmg n i
    let late := darmNext s d && inSetup s d
    let s := setGrp k { grp s k with armed := some s.now, dom := d, darm := true, due := false } s
    if late then setLate .pwmg n i s else s
  else raiseCommit .pwmg n i (wrb (rk .pwmg n 0x080) (8 + i) true s)

/-- Datum is not valid at a Datum cycle boundary: the arms that it would make due are withdrawn (R153). -/
def withdrawDarms (s : State) : State :=
  forEach (s.grps.filter fun e => e.2.darm && e.2.due) (fun e s => withdrawDarm e.1 s) s

/-- Set CAL_STAT.VALID of a leg's record (R146, R147). -/
def setValid (v : Bool) (t : Nat) (g : Leg) : Leg :=
  if g.valid = v then g else { g with valid := v, validAt := t }

/-- The twin out of service. -/
def spareTwin (g : Leg) : Twin := if g.line then g.twin0 else g.twin1
/-- Set the twin out of service. -/
def setSpare (tw : Twin) (g : Leg) : Leg := if g.line then { g with twin0 := tw } else { g with twin1 := tw }

/-- A measurement of the twin out of service ends: a tick spans `taps` physical taps (R145, R146). -/
def calibrated (l taps : Nat) (s : State) : State :=
  if !(live s .pwm) || !s.clk.locked then s else
  let g := leg s l
  if 160 ≤ taps ∧ taps ≤ 224 then
    setLeg l (setValid true s.now (setSpare { cal := some s.now, ready := true } g)) s
  else
    let fails := (spareTwin g).fails + 1
    let s := setLeg l (setSpare { spareTwin g with fails := fails, ready := false } g) s
    if fails = 3 then
      raise .pwmg (l / 8) (4 * (l % 8) + 3) (wrb (rk .pwmg (l / 8) 0x084) (8 + l % 8) true s)
    else s

/-- Neither output of the leg has an edge in this CLK_PWM tick or the next (R145). -/
def quietTicks (s : State) (l : Nat) : Bool :=
  let d := legDom s l
  if !(domRuns s d) || !(dom s d).begun then true else
  let tk := tickBefore s s.now
  let stop := tk + 2 * tickLen
  let far : Bool → Bool := fun b => (nextEdgeTo s l b stop).all fun e => decide (stop ≤ e.1)
  decide ((leg s l).edgeA < tk ∧ (leg s l).edgeB < tk) && far false && far true

/-- The twin out of service is placed in service; it is measured again before it may return (R145). -/
def swapTwin (g : Leg) : Leg := { setSpare { spareTwin g with ready := false } g with line := !g.line }

/-- The longest age of a calibration: 4 * 65,536 ticks (R146). -/
def calLife : Nat := 4 * 65536 * tickLen

/-- The domains without boundaries: the count of their periods stays, so that what counts them resumes from it (R35). -/
def idleDoms (s : State) : List (Nat × Dom) :=
  (s.doms.filter fun e => e.2.k ≠ 0).map fun e => (e.1, { k := e.2.k })

/-- The page values of PD_PWM after a switch-on or a reset, with CD0's boundaries starting (R157, R158). -/
def startPwm (s : State) : State :=
  startDomain 0 { s with doms := idleDoms s, legs := [] }

/-! Meanings -/

/-- EDGE (R138). -/
def execEdge (l : Fin 96) (outB : Bool) (s : State) : Host.Outcome State Fault Refusal := .next (doEdge l outB s)

/-- CALIBRATION_DONE (R145, R146). -/
def execCalibrationDone (l : Fin 96) (taps : Nat) (s : State) : Host.Outcome State Fault Refusal :=
  .next (calibrated l taps s)

/-- TWIN_CHANGE (R145, R146): the other twin is placed in service where its last measurement was good and the leg has no edge
in this tick or the next. -/
def execTwinChange (l : Fin 96) (s : State) : Host.Outcome State Fault Refusal :=
  .next (if live s .pwm && (spareTwin (leg s l)).ready && quietTicks s l then setLeg l (swapTwin (leg s l)) s else s)

/-- CALIBRATION_EXPIRY (R146): neither twin holds a calibration young enough. -/
def execCalibrationExpiry (l : Fin 96) (s : State) : Host.Outcome State Fault Refusal :=
  let g := leg s l
  let newest := max (g.twin0.cal.getD 0) (g.twin1.cal.getD 0)
  .next (
    if live s .pwm && g.valid then
      let s := upto (newest + calLife) s
      setLeg l (setValid false s.now g) s
    else s)

/-- Write DARM: bits 15:8 clear DFAIL, bits 7:0 arm (R153). -/
def writeDarm (n : Nat) (v : Word) (s : State) : State :=
  let k := rk .pwmg n 0x080
  let s := wr k (rd s k &&& ~~~ (v &&& 0xFF00)) s
  forEach (setBits v 8) (fun i s => darmGroup n i s) s

/-- DARM (R153). -/
def execDarm (m : Master) (n : Fin 12) (v : BitVec 16) (s : State) : Host.Outcome State Fault Refusal :=
  .next (byBus m .pwmg n 0x080 (fun s => writeDarm n (wNat v.toNat) s) s)

end Sys2Proof.Machine
end

