-- ==== Sys2Proof/Machine/Stats.lean ====
section
/-! DEFINITION. What the status registers of the stage guard and of the rails show, the blanking windows they show, and the
monument snapshot frozen from them (R170, R194 to R201, R288 to R293). -/

namespace Sys2Proof.Machine

/-! Blanking (R170, R171) -/

/-- The blanking window described by a BLANK register and its bounds is open. -/
def blanked (s : State) (bl ws we : Word) : Bool :=
  let l := fld bl 0 7
  if 96 ≤ l || !(domRuns s (legDom s l)) || !(dom s (legDom s l)).begun then false else
  let len := fld bl 16 10 * tickLen
  let after : Option Nat → Bool := fun r => r.any fun t => decide (t ≤ s.now ∧ s.now < t + len)
  let x := (s.now - lastTick s (legDom s l)) / tickLen
  let a := fld ws 0 18
  let b := fld we 0 18
  match fld bl 8 2 with
  | 1 => if a ≤ b then decide (a ≤ x ∧ x < b) else decide (a ≤ x ∨ x < b)
  | 2 => after (leg s l).roseA
  | 3 => after (leg s l).roseA || after (leg s l).roseB
  | _ => false

/-- The instant at which the open window ends. -/
def blankEnds (s : State) (bl we : Word) : Nat :=
  let l := fld bl 0 7
  let len := fld bl 16 10 * tickLen
  let g := leg s l
  let tk := lastTick s (legDom s l)
  match fld bl 8 2 with
  | 1 =>
    let t := tk + fld we 0 18 * tickLen
    if s.now ≤ t then t else nextTick s (legDom s l) + fld we 0 18 * tickLen
  | 2 => g.roseA.getD 0 + len
  | 3 => max (g.roseA.getD 0) (g.roseB.getD 0) + len
  | _ => s.now

/-- The end of the last blanking window that has ended, where the source leg's counter and edges show one. -/
def lastBlankEnd (s : State) (bl we : Word) : Option Nat :=
  let l := fld bl 0 7
  if 96 ≤ l || !(domRuns s (legDom s l)) || !(dom s (legDom s l)).begun then none else
  let len := fld bl 16 10 * tickLen
  let g := leg s l
  let past : Option Nat → Option Nat := fun t => t.filter fun t => decide (t ≤ s.now)
  let rose : Option Nat → Option Nat := fun r => past (r.map (· + len))
  match fld bl 8 2 with
  | 1 =>
    let w := fld we 0 18 * tickLen
    let x := lastTick s (legDom s l) + w
    some (if x ≤ s.now then x else tickAt s (dom s (legDom s l)).prev + w)
  | 2 => rose g.roseA
  | 3 => if (rose g.roseA).getD 0 ≤ (rose g.roseB).getD 0 then rose g.roseB else rose g.roseA
  | _ => none

/-- A trip input's blanking window is open. -/
def tripBlanked (s : State) (i : Nat) : Bool :=
  blanked s (rd s (tripKey i 0x04)) (rd s (tripKey i 0x08)) (rd s (tripKey i 0x0C))

/-- Key of a monitor register (R197). -/
def monKey (i off : Nat) : Nat := rk .cmp (i / 8) (0x100 + 0x20 * (i % 8) + off)

/-- A monitor's blanking window is open. -/
def monBlanked (s : State) (i : Nat) : Bool :=
  blanked s (rd s (monKey i 0x08)) (rd s (monKey i 0x0C)) (rd s (monKey i 0x10))

/-! Status registers -/

/-- TRIP.STATUS (R195). -/
def tripStatus (s : State) : Word :=
  setBit ((List.range 16).foldl (fun w k => setBit w k (safeSet s k).latched) 0) 16 s.clk.pllHold
/-- SSs_STAT (R195). -/
def setStat (s : State) (k : Nat) : Word := setBit (rd s (setKey k 0x14)) 0 (safeSet s k).latched
/-- TRt_STAT (R195). -/
def tripStat (s : State) (i : Nat) : Word :=
  setBit (setBit (rd s (tripKey i 0x18)) 0 (tripIn s i).raw) 2 (tripBlanked s i)
/-- MONi_STAT (R181, R182, R198): while the monitor is blanked LIVE reads 0, and LATCHED with it in live mode. -/
def monStat (s : State) (i : Nat) : Word :=
  let st := rd s (monKey i 0x18)
  if monBlanked s i then
    let st := setBit (setBit st 4 true) 2 false
    if rdf s (monKey i 0) 16 2 = 0 then setBit st 3 false else st
  else setBit st 4 false
/-- GRP_STAT of a driver group (R201). -/
def grpStat (s : State) (g : Nat) : Word :=
  let x := drvGrp s g
  setBit (setBit (setBit (rd s (rk .drv g 0x044)) 0 x.vdrvOk) 1 x.regEn) 12 x.off
/-- PHi_STAT of a direct phase (R201). -/
def phStat (s : State) (p : Nat) : Word :=
  let v := drvPins s p
  setBit (setBit (setBit (rd s (phKey p 0x04)) 0 v.1) 1 v.2) 2 (phase s p).bstOk

/-- Default of a rail. -/
def rail0 (_ : Nat) : Rail := {}
/-- A rail. -/
def rail (s : State) (r : Nat) : Rail := smGet rail0 s.rails r
/-- Number of bits set among the first 24. -/
def count24 (m : Nat) : Nat := ((List.range 24).filter fun i => m.testBit i).length
/-- REGr.STAT (R292). -/
def railStat (s : State) (r : Nat) : Word :=
  let x := rail s r
  let b : Bool → Nat → Nat := fun c v => if c then v else 0
  wNat (x.st + b x.pg 8 + b x.de 16 + b (!(eqF x.vref x.target)) 32 + 256 * count24 x.mask + 65536 * x.cause +
    0x100000 * (x.retries % 16) + b x.clamp 0x1000000)

/-! The monument record (R288 to R290) -/

/-- A rail's part of the record: registers 0x0E8 to 0x104, the trims, and the last 64 updates, oldest first. -/
def railWords (s : State) (r : Nat) : List Word :=
  let x := rail s r
  let h := x.hist.take 64
  let pairs := List.replicate (64 - h.length) ((0 : Word), (0 : Word)) ++ h.reverse
  [railStat s r, x.target, x.vref, x.vout, x.iout, wNat x.mask, rd s (rk .reg r 0x100), rd s (rk .reg r 0x104)] ++
    (List.range 24).map (fun i => x.trims.getD i 0) ++ pairs.flatMap fun p => [p.1, p.2]

/-- The stage guard's part. -/
def guardWords (s : State) : List Word :=
  [tripStatus s] ++ (List.range 16).map (setStat s) ++ (List.range 48).map (tripStat s) ++ (List.range 96).map (monStat s) ++
    (List.range 4).map (grpStat s) ++ (List.range 16).map (phStat s)

/-- A trigger (R288): the snapshot is frozen at once. While a write runs it waits, in place of an earlier one that waits,
which is lost (R290). -/
def monTrigger (kind r k cause : Nat) (s : State) : State :=
  if !(live s .reg) then s else
  let v := datumValid s
  let snap : MonSnap := { trigger := wNat (kind + 16 * r + 256 * k + 65536 * cause), datum := (if v then datumNow s else 0),
                          rtc := rtcNow s, valid := v, rails := (List.range 4).map (railWords s), guard := guardWords s }
  let m := s.monument
  let now := s.now
  match m.busy, m.pend with
  | none, _ => { s with monument := { m with busy := some snap, since := now } }
  | some _, none => { s with monument := { m with pend := some snap } }
  | some _, some _ => { s with monument := { m with pend := some snap, lost := held 255 (m.lost + 1) } }

end Sys2Proof.Machine
end

