-- ==== Sys2Proof/Machine/Guard.lean ====
section
/-! DEFINITION. The stage guard (R163 to R202): safe-state sets, trip inputs, window monitors and direct drivers. -/

namespace Sys2Proof.Machine

/-- Set a safe-state set. -/
def setSafe (k : Nat) (x : SafeSet) (s : State) : State := { s with sets := smSet safeSet0 s.sets k x }
/-- Set a trip input. -/
def setTrip (i : Nat) (x : TripIn) (s : State) : State := { s with trips := smSet tripIn0 s.trips i x }
/-- Default of a monitor. -/
def mon0 (_ : Nat) : Mon := {}
/-- A monitor. -/
def mon (s : State) (i : Nat) : Mon := smGet mon0 s.mons i
/-- Set a monitor. -/
def setMon (i : Nat) (x : Mon) (s : State) : State := { s with mons := smSet mon0 s.mons i x }
/-- Set a driver group. -/
def setDrv (g : Nat) (x : DrvGrp) (s : State) : State := { s with drvs := smSet drvGrp0 s.drvs g x }

/-- The stage guard's page index for log entries of the TRIP page. -/
def tripPage : Nat := pageNo .trip 0

/-- Members of a set: legs, and 96 + p for direct phase p. -/
def members (s : State) (k : Nat) : List Nat :=
  ((List.range 96).filter fun l => rdb s (setKey k (4 * (l / 32))) (l % 32)) ++
  ((List.range 16).filter fun p => rdb s (setKey k 0x0C) p).map (96 + ·)

/-- The leg of a member. -/
def memberLeg (x : Nat) : Nat := if x < 96 then x else x - 16

/-! Safe-state sets -/

/-- A requester asks for a set (R164): it latches, with its first requester recorded; every latch is counted and logged, and
triggers a monument capture where MON_SETS names the set (R288). -/
def latchSet (k kind id : Nat) (s : State) : State :=
  if !(live s .pwm) then s else
  let x := safeSet s k
  let reqs := if x.reqs.contains (kind, id) then x.reqs else x.reqs ++ [(kind, id)]
  if x.latched then setSafe k { x with reqs := reqs } s else
  let s := settle s (setSafe k { latched := true, reqs := reqs } s)
  let st := setKey k 0x14
  let s := wrf st 4 3 kind (wrf st 8 8 id s)
  let s := logHap tripPage (incHeld (setKey k 0x1C) 0 16 s)
  if rdb s (rk .reg 0 0x110) k then monTrigger 3 0 k 0 s else s

/-- A latching requester is still active (R167). -/
def reqActive (s : State) (r : Nat × Nat) : Bool :=
  match r.1 with
  | 1 => (tripIn s r.2).active
  | 2 => bit (monStat s r.2) 3
  | 3 => rdb s (rk .drv r.2 0x044) 2
  | _ => false

/-- Raise CLR_REFUSED of a requester whose set could not be cleared (R167). -/
def raiseClrRefused (r : Nat × Nat) (s : State) : State :=
  match r.1 with
  | 1 => raiseTrip r.2 4 s
  | 2 => raise .cmp (r.2 / 8) (4 * (r.2 % 8) + 2) s
  | 3 => forEach (List.range 4) (fun i s => if phEn s (4 * r.2 + i) then raise .drv r.2 (8 * i + 6) s else s) s
  | _ => s

/-- Clear a set (R167). -/
def clearSet (k : Nat) (s : State) : State :=
  let x := safeSet s k
  if !x.latched then s else
  let act := x.reqs.filter (reqActive s)
  if act.isEmpty then settle s (setSafe k {} s)
  else logHap tripPage (forEach act raiseClrRefused (wrb (setKey k 0x14) 1 true s))

/-- Write SSs_CTL: SET wins over CLEAR (R167). -/
def writeSetCtl (k : Nat) (v : Word) (s : State) : State :=
  if bit v 0 then latchSet k 0 0 s else if bit v 1 then clearSet k s else s

/-! Trip inputs (R169 to R177) -/

/-- The filter time of a trip input in ticks: ceil(6.25 f), times the tick (R169). -/
def filtTime (s : State) (i : Nat) : Nat := (25 * rdf s (tripKey i 0) 0 7 + 3) / 4 * tickLen

/-- Raise ASSERT, or count a rate overflow (R176). -/
def raiseAssert (i : Nat) (s : State) : State :=
  let x := tripIn s i
  let rate := rdf s (tripKey i 0x10) 16 8 * (10 * usec)
  if rate ≠ 0 && x.assertAt.any (fun t => decide (s.now < t + rate)) then
    raiseTrip i 5 (incHeld (tripKey i 0x1C) 0 16 s)
  else raiseTrip i 0 (setTrip i { x with assertAt := some s.now } s)

/-- The reaction of ACTION at rank 4 (R172). A high-side-off that asserts in the dead time before PWM_B's rise lets PWM_B rise
as commanded.  DESIGN CHOICE (log entry 76). -/
def startReaction (i : Nat) (s : State) : State :=
  let cfg := rd s (tripKey i 0)
  let x := tripIn s i
  let x := { x with reacted := true, reactAt := s.now }
  let ms := members s (fld cfg 12 4)
  settle s <| match fld cfg 8 2 with
  | 1 => setTrip i { x with cycle := (x.cycle ++ ms).eraseDups } s
  | 2 => setTrip i { x with cycleHigh := (x.cycleHigh ++ ms).eraseDups } s
  | 3 => wrb (tripKey i 0x18) 3 true (setTrip i x s)
  | _ => setTrip i x s

/-- The filtered input is active outside blanking: reaction, latch of its set, ASSERT (R171, R172). -/
def tripReact (i : Nat) (s : State) : State :=
  let cfg := rd s (tripKey i 0)
  let s := startReaction i s
  let s := if bit cfg 10 then raiseTrip i 3 (latchSet (fld cfg 12 4) 1 i s) else s
  raiseAssert i s

/-- Write TRt_CFG: FILT above 100 is taken as 100; an ACTION other than none written while active and unblanked starts the
reaction (R172). -/
def writeTripCfg (i : Nat) (v : Word) (s : State) : State :=
  let k := tripKey i 0
  let v := if 100 < fld v 0 7 then setFld v 0 7 100 else v
  let t := settle s (plainWrite k v s)
  if fld v 8 2 ≠ 0 && (tripIn t i).active && !(tripBlanked t i) then startReaction i t else t

/-- Clear HELD of a trip input (R173). -/
def clearHeld (i : Nat) (s : State) : State :=
  let k := tripKey i 0x18
  if !(rdb s k 3) then s
  else if (tripIn s i).active then logHap tripPage (raiseTrip i 4 s)
  else raiseTrip i 1 (settle s (wrb k 3 false s))

/-- Cycle reactions release at a boundary of the member's domain with the filtered input inactive, where every other
input acting on the member allows it (R172, R174). -/
def tripBoundary (d : Nat) (s : State) : State :=
  let all := s.trips
  let s0 := s
  let acts : Nat → Nat → TripIn → Bool := fun l i f =>
    heldOff s0 i l || (f.active && (listed s0 l f.cycle || listed s0 l f.cycleHigh))
  let stays : Nat → Bool := fun m =>
    let l := memberLeg m
    decide (legDom s0 l ≠ d) || all.any fun f => acts l f.1 f.2
  settle s0 (forEach (all.filter fun e => !(e.2.cycle.isEmpty && e.2.cycleHigh.isEmpty) && !e.2.active) (fun e s =>
    let rest := e.2.cycle.filter stays
    let restHigh := e.2.cycleHigh.filter stays
    let s := setTrip e.1 { tripIn s e.1 with cycle := rest, cycleHigh := restHigh } s
    if rest.isEmpty && restHigh.isEmpty then raiseTrip e.1 1 s else s) s)

/-! Window monitors (R178 to R185) -/

/-- The condition of MATCH (R181). -/
def monMatch (s : State) (i : Nat) : Bool :=
  let st := rd s (monKey i 0x18)
  let a := bit st 0
  let b := bit st 1
  match rdf s (monKey i 0) 12 2 with
  | 0 => a
  | 1 => b
  | 2 => a || b
  | _ => !(a || b)

/-- LIVE: the condition while settled and not blanked (R180, R181). -/
def monLive (s : State) (i : Nat) : Bool :=
  rdb s (monKey i 0) 0 && rdb s (monKey i 0x18) 5 && monMatch s i && !(monBlanked s i)

/-- LATCHED changes from 0 to 1: CROSS, the count, and the safe-state request (R182, R185). -/
def monCross (i : Nat) (s : State) : State :=
  let s := wrb (monKey i 0x18) 3 true s
  let s := raise .cmp (i / 8) (4 * (i % 8)) (incHeld (monKey i 0x18) 16 16 s)
  let act := rd s (monKey i 0x14)
  if bit act 4 then raise .cmp (i / 8) (4 * (i % 8) + 1) (latchSet (fld act 0 4) 2 i s) else s

/-- A crossing reported by the monitor truncates PWM_B of the legs that name it (R141); a pulse of PWM_B that has begun lasts
100 ps. -/
def truncate (i : Nat) (s : State) : State :=
  forEach (List.range 96) (fun l s =>
    let cfg := rd s (legKey l 0)
    if bit cfg 7 && decide (fld cfg 8 7 = i) && (leg s l).cmdB then
      let s := upto ((leg s l).edgeB + 5) s
      let now := s.now
      onLeg l (fun g => { g with cmdB := false, trunc := some now, edgeB := now }) s
    else s) s

/-- Bring LIVE and LATCHED up to date (R181, R182). -/
def monUpdate (i : Nat) (s : State) : State :=
  let k := monKey i 0x18
  let was := rdb s k 2
  let live' := monLive s i
  let latched := rdb s k 3
  let s := wrb k 2 live' s
  let s := if live' && !was then truncate i s else s
  match rdf s (monKey i 0) 16 2 with
  | 0 => if live' && !latched then monCross i s else wrb k 3 live' s
  | _ => if live' && !latched then monCross i s else s

/-- LIVE was 0 throughout a blanking window that ends, and LATCHED with it in live mode (R181, R182). -/
def monDrop (i : Nat) (s : State) : State :=
  let k := monKey i 0x18
  let bl := rd s (monKey i 0x08)
  if fld bl 8 2 = 0 || 96 ≤ fld bl 0 7 then s
  else
    let s := wrb k 2 false s
    if rdf s (monKey i 0) 16 2 = 0 then wrb k 3 false s else s

/-- Write MONi_CFG (R180, R182, R198, R568): an enable or a change of mode starts settling. -/
def writeMonCfg (i : Nat) (v : Word) (s : State) : State :=
  let k := monKey i 0
  let old := rd s k
  let v := if fld v 16 2 = 3 then setFld v 16 2 (fld old 16 2) else v
  let v := if 24 ≤ fld v 20 5 then setFld v 20 5 (fld old 20 5) else v
  let g := grp s (grpKey .cmp (i / 8) (i % 8))
  if fld v 20 5 ≠ fld old 20 5 && (g.openAt.isSome || g.armed.isSome) then s else
  let s := plainWrite k v s
  let st := monKey i 0x18
  let off : State → State := fun s => wrb st 0 false (wrb st 1 false (wrb st 5 false s))
  if bit v 0 && (!(bit old 0) || fld v 1 2 ≠ fld old 1 2) then
    let t := match fld v 1 2 with | 0 => usec | 1 => 2 * usec | 2 => 5 * usec | _ => 30 * usec
    monUpdate i (setMon i { settle := some (s.now + t) } (off s))
  else if bit old 0 && !(bit v 0) then monUpdate i (setMon i {} (off s))
  else monUpdate i s

/-- Clear LATCHED (R182, R198): in software and period mode, followed at once by a new latch while LIVE is 1; in live mode
LATCHED equals LIVE. -/
def clearLatched (i : Nat) (s : State) : State :=
  if rdf s (monKey i 0) 16 2 ≠ 0 then monUpdate i (wrb (monKey i 0x18) 3 false s) else s

/-- Monitor thresholds that commit at the boundary of domain `d` (R183). -/
def commitMons (d tk ended : Nat) (s : State) : State :=
  forEach (dueGroups s .cmp d tk) (fun e s =>
    let k := rk .cmp e.1 (0x104 + 0x20 * e.2)
    if sfld (rd s k) 0 10 < sfld (rd s k) 16 10 then
      raise .cmp e.1 (4 * e.2 + 2) (refuseGroup .cmp e.1 e.2 s)
    else
      let split := isSplit s .cmp e.1 e.2 ended
      let s := closeGroup .cmp e.1 e.2 (commitRegs .cmp e.1 e.2 s)
      if split then wrb (rk .cmp e.1 0x024) (8 + e.2) true s else s) s

/-- In period mode LATCHED takes the value of LIVE at each boundary tick (R182). -/
def monBoundary (d : Nat) (s : State) : State :=
  forEach ((List.range 96).filter fun i =>
      let c := rd s (monKey i 0)
      decide (fld c 16 2 = 2 ∧ fld c 20 5 = d))
    (fun i s =>
      let s := monUpdate i s
      wrb (monKey i 0x18) 3 (monLive s i) s) s

/-! Direct drivers (R186 to R191) -/

/-- Raise a cause on every enabled phase of a group. -/
def raiseGroup (g k : Nat) (s : State) : State :=
  forEach (List.range 4) (fun i s => if phEn s (4 * g + i) then raise .drv g (8 * i + k) s else s) s

/-- The blanking of the short-circuit comparator: BLANK × 10 ns, rounded up to whole ticks (R188). -/
def drvBlank (s : State) (p : Nat) : Nat := (rdf s (phKey p 0) 8 7 * 500 + tickLen - 1) / tickLen * tickLen

/-- The last rising edges of a phase at the output stage; that of a floor clamp may lie ahead (R166, R188). -/
def drvRises (s : State) (p : Nat) : List Nat := (leg s (80 + p)).outA.toList ++ (leg s (80 + p)).outB.toList

/-- The short-circuit comparator is blanked now (R188). -/
def drvBlanked (s : State) (p : Nat) : Bool := (drvRises s p).any fun r => decide (r ≤ s.now ∧ s.now < r + drvBlank s p)

/-- The next end of the blanking of a phase: BLANK after a rising edge that no other follows by then (R188). -/
def drvBlankEnd (s : State) (p : Nat) : Option Nat :=
  let b := drvBlank s p
  let rs := drvRises s p
  let ends := (rs.filter fun r => rs.all fun q => !(decide (r < q ∧ q ≤ r + b))).map (· + b)
  (ends.filter fun e => decide ((phase s p).blankAt < e)).min?

/-- The sense voltage is above OC_TH. -/
def overOc (s : State) (p : Nat) : Bool := decide (8 * rdf s (phKey p 0) 16 8 < (phase s p).mv)
/-- The sense voltage is above GROSS_TH. -/
def overGross (s : State) (p : Nat) : Bool := decide (8 * rdf s (phKey p 0) 24 8 < (phase s p).mv)

/-- A detection on a phase (R188, R189). -/
def detect (p : Nat) (gross : Bool) (s : State) : State :=
  let g := p / 4
  let i := p % 4
  let s := wrb (phKey p 0x04) (if gross then 4 else 3) true s
  let s := raise .drv g (8 * i + (if gross then 1 else 0)) (incHeld (phKey p 0x08) 0 16 s)
  let st := rk .drv g 0x044
  let x := drvGrp s g
  let tick := ticks s
  let fresh := !(rdb s st 2)
  let s := if fresh then
      let cfg := rd s (rk .drv g 0x040)
      let s := settle s (setDrv g { x with firstTick := tick } (wrb st 2 true s))
      let s := if bit cfg 8 then latchSet (fld cfg 4 4) 3 g s else s
      logHap (pageNo .drv g) s
    else s
  let s := if fresh || x.firstTick = tick then wrb st (4 + i) true s else s
  raise .drv g (8 * i + 4) (wrb st (8 + i) true s)

/-- The comparators of a phase have changed from those of `s`: a crossing is a detection, of OC_TH where it is not blanked
(R188). Those of a phase whose EN is 0 detect nothing.  DESIGN CHOICE (log entry 76). -/
def sensed (p : Nat) (s t : State) : State :=
  if !(phEn t p) then t else
  let t' := if overOc t p && !(overOc s p) && !(drvBlanked t p) then detect p false t else t
  if overGross t p && !(overGross s p) then detect p true t' else t'

/-- Write PHi_CFG (R186, R188): a threshold that falls below the sense voltage is crossed. -/
def writePhCfg (p : Nat) (v : Word) (s : State) : State :=
  let k := phKey p 0
  let old := rd s k
  let v := if fld v 8 7 < 5 || 80 < fld v 8 7 then setFld v 8 7 (fld old 8 7) else v
  if bit v 0 ≠ bit old 0 && outMode s (80 + p) ≠ 0 then s else
  let t := settle s (plainWrite k v s)
  if phEn s p then sensed p s t else t

/-! Meanings -/

/-- SAFE_STATE_SET (R164). -/
def execSafeStateSet (m : Master) (k : Fin 16) (s : State) : Host.Outcome State Fault Refusal :=
  .next (byBus m .trip 0 (0x818 + 0x20 * k) (fun s => writeSetCtl k 1 s) s)

/-- TRIP_PIN_CHANGE (R169, R176): a pulse that ends before the filter passes it is a glitch. -/
def execTripPinChange (i : Fin 48) (active : Bool) (s : State) : Host.Outcome State Fault Refusal :=
  .next (
    let x := tripIn s i
    if x.raw = active then s
    else if !(live s .pwm) then setTrip i { x with raw := active, rawAt := s.now } s
    else
    let glitch := x.raw && !active && !x.active
    let s := setTrip i { x with raw := active, rawAt := s.now } (wrb (tripKey i 0x18) 0 active s)
    if glitch then incHeld (tripKey i 0x1C) 16 16 s else s)

/-- TRIP_ASSERT (R169, R171, R172): the filter time has passed with the pin active. -/
def execTripAssert (i : Fin 48) (s : State) : Host.Outcome State Fault Refusal :=
  .next (
    let x := tripIn s i
    if !(live s .pwm) || !x.raw || x.active then s else
    let s := upto (x.rawAt + filtTime s i) s
    let s := setTrip i { x with active := true, activeAt := s.now, reacted := false, stuck := false }
      (wrb (tripKey i 0x18) 1 true s)
    if tripBlanked s i then s else tripReact i s)

/-- TRIP_RELEASE (R169). -/
def execTripRelease (i : Fin 48) (s : State) : Host.Outcome State Fault Refusal :=
  .next (
    let x := tripIn s i
    if !(live s .pwm) || x.raw || !x.active then s else
    let s := upto (x.rawAt + filtTime s i) s
    let k := tripKey i 0x18
    setTrip i { x with active := false, stuck := false } (wrb k 1 false (wrb k 4 false s)))

/-- BLANKING_END (R171, R181): of a trip input, or of a monitor. -/
def execBlankingEnd (monitor : Bool) (i : Fin 96) (s : State) : Host.Outcome State Fault Refusal :=
  .next (
    if !(live s .pwm) then s
    else if monitor then
      let s := if monBlanked s i then upto (blankEnds s (rd s (monKey i 0x08)) (rd s (monKey i 0x10))) s else s
      monUpdate i (monDrop i s)
    else if 48 ≤ i.val then s
    else
      let s := if tripBlanked s i then upto (blankEnds s (rd s (tripKey i 0x04)) (rd s (tripKey i 0x0C))) s else s
      let x := tripIn s i
      let ended := lastBlankEnd s (rd s (tripKey i 0x04)) (rd s (tripKey i 0x0C))
      let again := ended.any fun t => decide (x.reactAt < t ∧ x.activeAt ≤ t)
      if x.active && (!x.reacted || again) && !(tripBlanked s i) then tripReact i s else s)

/-- STUCK (R175). -/
def execStuck (i : Fin 48) (s : State) : Host.Outcome State Fault Refusal :=
  .next (
    let x := tripIn s i
    let n := rdf s (tripKey i 0x10) 0 16
    if !(live s .pwm) || !x.active || x.stuck || n = 0 then s else
    let s := upto (x.activeAt + n * (10 * usec)) s
    let s := setTrip i { x with stuck := true } (wrb (tripKey i 0x18) 4 true s)
    logHap tripPage (raiseTrip i 2 s))

/-- HELD_CLEAR (R173). -/
def execHeldClear (m : Master) (i : Fin 48) (s : State) : Host.Outcome State Fault Refusal :=
  .next (byBus m .trip 0 (0x118 + 0x20 * i) (fun s => clearHeld i s) s)

/-- TRIP_ACTION_WRITE (R172): a guarded write of TRt_CFG. -/
def execTripActionWrite (m : Master) (i : Fin 48) (v : Word) (s : State) : Host.Outcome State Fault Refusal :=
  .next (byBus m .trip 0 (0x100 + 0x20 * i) (fun s => rwlPath m (tripKey i 0) true (writeTripCfg i v) s) s)

/-- MONITOR_CROSSING (R179): the differential input of monitor `i` moves from `before` to `after`, in microvolts. An input that
lies beyond a threshold that commits leaves ABOVE and BELOW as they are until a crossing.  DESIGN CHOICE (log entry 76). -/
def execMonitorCrossing (i : Fin 96) (before after : Int) (s : State) : Host.Outcome State Fault Refusal :=
  .next (
    if !(live s .pwm) || !(rdb s (monKey i 0) 0) then s else
    let thr := inForce s (monKey i 0x04)
    let hi := 4000 * sfld thr 0 10
    let lo := 4000 * sfld thr 16 10
    let hy : Int := 4000 * fld thr 28 3
    let k := monKey i 0x18
    let s := if before ≤ hi ∧ hi < after then wrb k 0 true s else if after < hi - hy then wrb k 0 false s else s
    let s := if lo ≤ before ∧ after < lo then wrb k 1 true s else if lo + hy < after then wrb k 1 false s else s
    monUpdate i s)

/-- MONITOR_ENABLE (R180): a write of MONi_CFG. -/
def execMonitorEnable (m : Master) (i : Fin 96) (v : Word) (s : State) : Host.Outcome State Fault Refusal :=
  .next (byBus m .cmp (i / 8) (0x100 + 0x20 * (i % 8)) (fun s => writeMonCfg i v s) s)

/-- MONITOR_SETTLED (R180). -/
def execMonitorSettled (i : Fin 96) (s : State) : Host.Outcome State Fault Refusal :=
  .next (
    match (mon s i).settle with
    | some t =>
      if !(live s .pwm) || !(rdb s (monKey i 0) 0) then s else
      let s := setMon i {} (upto t s)
      monUpdate i (raise .cmp (i / 8) (4 * (i % 8) + 3) (wrb (monKey i 0x18) 5 true s))
    | none => s)

/-- LATCHED_CLEAR (R182). -/
def execLatchedClear (m : Master) (i : Fin 96) (s : State) : Host.Outcome State Fault Refusal :=
  .next (byBus m .cmp (i / 8) (0x118 + 0x20 * (i % 8)) (fun s => clearLatched i s) s)

/-- PHASE_ENABLE_WRITE (R186): a guarded write of PHi_CFG. -/
def execPhaseEnableWrite (m : Master) (p : Fin 16) (v : Word) (s : State) : Host.Outcome State Fault Refusal :=
  .next (byBus m .drv (p / 4) (0x100 + 0x20 * (p % 4)) (fun s => rwlPath m (phKey p 0) true (writePhCfg p v) s) s)

/-- VDRV_UV (R187). -/
def execVdrvUv (g : Fin 4) (s : State) : Host.Outcome State Fault Refusal :=
  .next (
    let t := setDrv g { drvGrp s g with vdrvOk := false } s
    if live s .pwm && (drvGrp s g).vdrvOk then raiseGroup g 3 (settle s t) else t)

/-- VDRV_OK (R187). -/
def execVdrvOk (g : Fin 4) (s : State) : Host.Outcome State Fault Refusal :=
  .next (
    let t := setDrv g { drvGrp s g with vdrvOk := true } s
    if live s .pwm && !(drvGrp s g).vdrvOk then settle s t else t)

/-- BST_UV (R187). -/
def execBstUv (p : Fin 16) (s : State) : Host.Outcome State Fault Refusal :=
  .next (
    let t := setPhase p { phase s p with bstOk := false } s
    if live s .pwm && (phase s p).bstOk
    then raise .drv (p / 4) (8 * (p % 4) + 2) (incHeld (phKey p 0x08) 16 16 t) else t)

/-- BST_OK (R187). -/
def execBstOk (p : Fin 16) (s : State) : Host.Outcome State Fault Refusal :=
  .next (setPhase p { phase s p with bstOk := true } s)

/-- DRV_BLANKING_END (R188): a sense voltage above OC_TH at the end of blanking is a detection. -/
def execDrvBlankingEnd (p : Fin 16) (s : State) : Host.Outcome State Fault Refusal :=
  .next (
    if !(live s .pwm) || !(phEn s p) then s else
    match drvBlankEnd s p with
    | none => s
    | some e =>
      let s := upto e s
      let s := setPhase p { phase s p with blankAt := e } s
      if overOc s p then detect p false s else s)

/-- SENSE_DETECTION (R188): DRV_SNS of a phase moves to `mv` millivolts. -/
def execSenseDetection (p : Fin 16) (mv : Nat) (s : State) : Host.Outcome State Fault Refusal :=
  .next (
    let t := setPhase p { phase s p with mv := mv } s
    if live s .pwm then sensed p s t else t)

/-- REG_EN_LOW (R190). -/
def execRegEnLow (g : Fin 4) (s : State) : Host.Outcome State Fault Refusal :=
  .next (settle s (setDrv g { drvGrp s g with regEn := false, off := true } s))

/-- REG_EN_RISE (R190): after a recognised low, the group fault clears or the clear is refused. -/
def execRegEnRise (g : Fin 4) (s : State) : Host.Outcome State Fault Refusal :=
  .next (
    let x := drvGrp s g
    if !(live s .pwm) then setDrv g { x with regEn := true, off := false } s
    else if !x.off then setDrv g { x with regEn := true } s
    else
      let s0 := s
      let s := setDrv g { x with regEn := true, off := false } s
      let high := (List.range 4).any fun i => overOc s (4 * g + i) || overGross s (4 * g + i)
      let st := rk .drv g 0x044
      let s := if high then logHap (pageNo .drv g) (raiseGroup g 6 (wrb st 3 true s))
        else
          let s := forEach (List.range 4) (fun i s => wrf (phKey (4 * g + i) 0x04) 3 2 0 s) s
          raiseGroup g 5 (wrf st 4 8 0 (wrb st 2 false s))
      settle s0 s)

end Sys2Proof.Machine
end

