-- ==== Sys2Proof/Machine/Clocks.lean ====
section
/-! DEFINITION. The root PLL, holdover and clock outputs (R461 to R472, R479). -/

namespace Sys2Proof.Machine

/-- Key of a CLK register (R490). -/
def clkKey (off : Nat) : Nat := rk .clk 0 off
/-- Change the clock synthesis. -/
def onClk (f : Clk → Clk) (s : State) : State := { s with clk := f s.clk }
/-- Raise a cause of the CLK page. -/
def raiseClk (k : Nat) (s : State) : State := raise .clk 0 k s

/-- CLKOUTn_CFG in force. -/
def outCfg (s : State) (n : Nat) : Word := smGet (smConst 0) s.clk.outCfg n
/-- CLKOUTn_DIV in force. -/
def outDiv (s : State) (n : Nat) : Nat := (smGet (smConst 8) s.clk.outDiv n).toNat

/-- The clock synthesis works: no power-on reset lasts, and no thermal cut-off (R473). -/
def synthOn (s : State) : Bool := decide (s.pwr.reset ≠ some .powerOn) && !s.pwr.cut

/-- A leg without a valid calibration from an instant on: both twins are invalid (R146, R147). -/
def uncalibrated (t : Nat) (g : Leg) : Leg :=
  setValid false t
    { g with twin0 := { g.twin0 with cal := none, ready := false }, twin1 := { g.twin1 with cal := none, ready := false } }

/-- The root goes out of lock (R465, R467). -/
def loseLock (delib : Bool) (s : State) : State :=
  if !s.clk.locked then s else
  let s := { s with legs := s.legs.map fun e => (e.1, uncalibrated s.now e.2) }
  let stops := (List.range 6).filter fun n => bit (outCfg s n) 0 && bit (outCfg s n) 5
  let now := s.now
  let s := settle s (onClk (fun c => { c with locked := false, holdover := true, delib := delib, acquiring := false,
                                              pllHold := true, qualFrom := some now, outStop := stops }) s)
  let s := incHeld (clkKey 0x050) 0 16 s
  logLoss (pageNo .clk 0) delib (raiseClk 0 s)

/-- The working clocks start (R464): this instant is tick 0. -/
def startClocks (s : State) : State :=
  if s.clk.running then s else
  let now := s.now
  onClk (fun c => { c with running := true, tick0 := now }) s

/-- Set a milestone (R597). -/
def milestone (b : Nat) (s : State) : State := { s with pwr := { s.pwr with boot := setBit s.pwr.boot b true } }

/-- The first instant at which a commanded edge can reach a pin (R597, BOOT_STAT.OUT_EN). -/
def checkOutEn (s : State) : State :=
  if !(bit s.pwr.boot 5) && bit s.pwr.boot 3 && live s .pwm && s.clk.locked && !s.clk.pllHold && !s.plumb.spo &&
      (List.range 96).any (fun l => outMode s l ≠ 0) then
    raise .sys 0 2 (milestone 5 s)
  else s

/-- The PLL locks (R468). -/
def pllLock (s : State) : State :=
  let now := s.now
  let s := onClk (fun c => { c with locked := true, holdover := false, acquiring := false, qualFrom := none, lockAt := now }) s
  raiseClk 1 (milestone 0 (startClocks s))

/-- The first update mark at or after an instant (R471). -/
def markAt (s : State) (t : Nat) : Nat :=
  if t ≤ s.clk.tick0 then s.clk.tick0 else s.clk.tick0 + (t - s.clk.tick0 + usec - 1) / usec * usec

/-- A shadow of an output keeps R470. -/
def outLegal (cfg : Word) (div : Nat) : Bool :=
  !(bit cfg 0) ||
    (decide (fld cfg 1 2 ≠ 3) && decide ((if fld cfg 1 2 = 0 then 20 else 8) ≤ div) && decide (fld cfg 12 20 < div))

/-- The high phase of a divider, in steps (R470). -/
def highLen (div : Nat) : Nat := (div + 1) / 2 * 10

/-- The level of CLKOUT_P of an output at this instant. -/
def clkoutLevel (s : State) (n : Nat) : Bool :=
  let cfg := outCfg s n
  if !s.clk.running || !(bit cfg 0) || s.clk.outHeld.contains n || s.clk.outStop.contains n then false else
  let e := smGet (smConst s.clk.tick0) s.clk.outEdge n
  if s.now < e then decide (s.now < smGet (smConst 0) s.clk.outHigh n)
  else decide ((s.now - e) % (outDiv s n * 10) < highLen (outDiv s n))

/-- The level of CLKOUT_N: the complement in the differential formats, and low in LVCMOS and while the output is disabled
(R470, R573). -/
def clkoutNLevel (s : State) (n : Nat) : Bool :=
  let cfg := outCfg s n
  s.clk.running && bit cfg 0 && !(s.clk.outHeld.contains n || s.clk.outStop.contains n) && decide (fld cfg 1 2 ≠ 0) &&
    !(clkoutLevel s n)

/-- Apply the shadows of one output at a mark (R471): where the high phase that runs leaves less than the shorter half period
before the first new edge, edges are skipped. During holdover an output with HOLD_STOP is held at its disabled level (R472). -/
def applyOut (mark n : Nat) (s : State) : State :=
  let cfg := rd s (clkKey (0x060 + 8 * n))
  let div := rdf s (clkKey (0x064 + 8 * n)) 0 20
  let old := outCfg s n
  let oldDiv := outDiv s n
  let restart := oldDiv ≠ div || fld old 12 20 ≠ fld cfg 12 20
  let blink := old &&& 0x1F ≠ cfg &&& 0x1F
  let e0 := smGet (smConst s.clk.tick0) s.clk.outEdge n
  let off := !(bit old 0) || s.clk.outHeld.contains n || s.clk.outStop.contains n
  let high := if off then 0
    else if mark < e0 then smGet (smConst 0) s.clk.outHigh n
    else mark - (mark - e0) % (oldDiv * 10) + highLen oldDiv
  let e := mark + fld cfg 12 20 * 10
  let free := high + min (oldDiv * 5) (div * 5)
  let e := if off || free ≤ e then e else e + (free - e + div * 10 - 1) / (div * 10) * (div * 10)
  let stops := bit cfg 0 && bit cfg 5 && !s.clk.locked
  let s := onClk (fun c => { c with outCfg := smSet (smConst 0) c.outCfg n cfg,
                                    outDiv := smSet (smConst 8) c.outDiv n (wNat div),
                                    outHeld := (if blink then n :: c.outHeld else c.outHeld), heldAt := mark,
                                    outStop := (if stops then n :: c.outStop.filter (· ≠ n) else c.outStop.filter (· ≠ n)) }) s
  let s := wr (clkKey (0x090 + 4 * n)) (wNat div) s
  if restart then onClk (fun c => { c with outEdge := smPut n e c.outEdge, outHigh := smPut n high c.outHigh }) s else s

/-- The first mark that something waits for: a requested update, the mark after a disabling one, or after LOCKED the first
for outputs that HOLD_STOP stopped (R471, R472); else the next mark. -/
def nextMark (s : State) : Nat :=
  let c := s.clk
  let back := if c.outHeld.isEmpty then [] else [c.heldAt + usec]
  let lock := if c.locked && !c.outStop.isEmpty then [markAt s (c.lockAt + 1)] else []
  match c.updAt ++ back ++ lock with
  | [] => markAt s (s.now + 1)
  | t :: ts => ts.foldl min t

/-- What an update mark does (R471, R472). -/
def updateMark (s : State) : State :=
  if !s.clk.running then s else
  let t := nextMark s
  let s := upto t s
  let lock := markAt s (s.clk.lockAt + 1)
  let s := onClk (fun c => { c with outHeld := (if c.heldAt + usec ≤ t then [] else c.outHeld),
                                    outStop := (if c.locked && decide (lock ≤ t) then [] else c.outStop) }) s
  if s.clk.updAt.contains t then
    let s := onClk (fun c => { c with updAt := c.updAt.filter (· ≠ t) }) s
    if (List.range 6).all fun n => outLegal (rd s (clkKey (0x060 + 8 * n))) (rdf s (clkKey (0x064 + 8 * n)) 0 20) then
      raiseClk 4 (forEach (List.range 6) (applyOut t) s)
    else raiseClk 5 (onClk (fun c => { c with updRef := true }) s)
  else s

/-- Write CTL.RELOCK (R462). -/
def relock (s : State) : State :=
  let mode := rdf s (clkKey 0x040) 0 2
  let now := s.now
  if s.clk.locked then onClk (fun c => { c with mode := mode }) (loseLock true s)
  else onClk (fun c => { c with mode := mode, acquiring := false, qualFrom := some now }) s

/-- Write CTL.UPDATE (R471). -/
def requestUpdate (s : State) : State :=
  let t := markAt s (s.now + 5000)
  onClk (fun c => { c with updAt := if c.updAt.contains t then c.updAt else c.updAt ++ [t] }) s

/-- CLK.STAT (R491). -/
def clkStat (s : State) : Word :=
  let c := s.clk
  let b : Nat → Bool → Word → Word := fun i v w => setBit w i v
  b 0 c.locked (b 1 c.holdover (b 2 c.refBad (b 3 c.noref (b 4 c.delib (b 5 (!c.updAt.isEmpty) (b 6 c.updRef 0))))))

/-- Write the CLK page (R461, R490, R491). -/
def writeClk (m : Master) (off : Nat) (v : Word) (s : State) : State :=
  let k := clkKey off
  if off = 0x040 then rwlPath m k (decide (fld v 0 2 ≠ 3)) (plainWrite k v) s
  else if off = 0x044 then rwlPath m k (decide (20 ≤ fld v 0 10 ∧ fld v 0 10 ≤ 1000)) (plainWrite k v) s
  else if off = 0x048 then
    let s := if bit v 0 then relock s else s
    if bit v 1 then requestUpdate s else s
  else if off = 0x04C then
    onClk (fun c => { c with refBad := c.refBad && !(bit v 2), delib := c.delib && !(bit v 4), updRef := c.updRef && !(bit v 6) }) s
  else if 0x060 ≤ off && off < 0x090 then rwlPath m k true (plainWrite k v) s
  else plainWrite k v s

/-! Meanings -/

/-- REFERENCE_QUALIFIED (R468): 1 ms after the window began. -/
def execReferenceQualified (s : State) : Host.Outcome State Fault Refusal :=
  .next (
    match s.clk.qualFrom with
    | some t =>
      if !(synthOn s) then s
      else onClk (fun c => { c with acquiring := true, qualFrom := none }) (upto (t + msec) s)
    | none => s)

/-- HOLD_RELEASE (R469). -/
def execHoldRelease (s : State) : Host.Outcome State Fault Refusal :=
  .next (
    if !(synthOn s) || !s.clk.locked || !s.clk.pllHold then s else
    let s := upto (s.clk.lockAt + rdf s (clkKey 0x044) 0 10 * usec) s
    let now := s.now
    let t := onClk (fun c => { c with pllHold := false }) s
    checkOutEn (raiseClk 2 (settle s { t with holds := { t.holds with pll := some now } })))

/-- NOREF (R479): 10 ms without a qualified reference; the clocks start on the holdover oscillator. -/
def execNoref (s : State) : Host.Outcome State Fault Refusal :=
  .next (
    if !(synthOn s) || s.clk.running || s.clk.acquiring then s
    else
      let from' := s.clk.qualFrom.getD s.now
      let s := upto (from' + 10 * msec) s
      startClocks (onClk (fun c => { c with holdover := true, noref := true }) s))

/-- UPDATE (R471). -/
def execUpdate (m : Master) (s : State) : Host.Outcome State Fault Refusal :=
  .next (byBus m .clk 0 0x048 (fun s => writeClk m 0x048 2 s) s)

/-- UPDATE_MARK (R471, R472). -/
def execUpdateMark (s : State) : Host.Outcome State Fault Refusal :=
  .next (if synthOn s then updateMark s else s)

/-- TICK_LO_READ (R464): TICK_HI is captured. -/
def execTickLoRead (m : Master) (s : State) : Host.Outcome State Fault Refusal :=
  .next (readAt m .sys 0 0x050 (fun s =>
    respond (tickStamp s) (wr (rk .sys 0 0x054) (wNat (ticks s / 2 ^ 32)) s)) s)

end Sys2Proof.Machine
end

