-- ==== Sys2Proof/Machine/Plumb.lean ====
section
/-! DEFINITION. Plumb: safe power-off, safety inputs, scan-mask converters, contactor outputs and Saddle mode (R381 to
R396, R402 to R404, R410). -/

namespace Sys2Proof.Machine

/-- Key of a PLUMB register (R411). -/
def plKey (off : Nat) : Nat := rk .plumb 0 off
/-- Change Plumb. -/
def onPlumb (f : Plumb → Plumb) (s : State) : State := { s with plumb := f s.plumb }
/-- Raise a cause of the PLUMB page. -/
def raisePl (k : Nat) (s : State) : State := raise .plumb 0 k s

/-- Default of a safety input. -/
def safeIn0 (_ : Nat) : SafeIn := {}
/-- A safety input. -/
def safeIn (s : State) (i : Nat) : SafeIn := smGet safeIn0 s.sins i
/-- Change a safety input. -/
def onSafeIn (i : Nat) (f : SafeIn → SafeIn) (s : State) : State := { s with sins := smSet safeIn0 s.sins i (f (safeIn s i)) }
/-- Default of a scan-mask channel. -/
def scanCh0 (_ : Nat) : ScanCh := {}
/-- A scan-mask channel. -/
def scanCh (s : State) (i : Nat) : ScanCh := smGet scanCh0 s.scans i
/-- Change a scan-mask channel. -/
def onScanCh (i : Nat) (f : ScanCh → ScanCh) (s : State) : State := { s with scans := smSet scanCh0 s.scans i (f (scanCh s i)) }
/-- Default of a scan-mask converter. -/
def scanConv0 (_ : Nat) : ScanConv := {}
/-- A scan-mask converter. -/
def scanConv (s : State) (c : Nat) : ScanConv := smGet scanConv0 s.scanConvs c
/-- Change a scan-mask converter. -/
def onScanConv (c : Nat) (f : ScanConv → ScanConv) (s : State) : State :=
  { s with scanConvs := smSet scanConv0 s.scanConvs c (f (scanConv s c)) }
/-- Default of a contactor output. -/
def sout0 (_ : Nat) : Sout := {}
/-- A contactor output. -/
def sout (s : State) (n : Nat) : Sout := smGet sout0 s.souts n
/-- Change a contactor output. -/
def onSout (n : Nat) (f : Sout → Sout) (s : State) : State := { s with souts := smSet sout0 s.souts n (f (sout s n)) }
/-- Default of a connection. -/
def conn0 (_ : Nat) : Conn := {}
/-- A Plumb-channel connection. -/
def conn (s : State) (c : Nat) : Conn := smGet conn0 s.conns c
/-- Change a connection. -/
def onConn (c : Nat) (f : Conn → Conn) (s : State) : State := { s with conns := smSet conn0 s.conns c (f (conn s c)) }
/-- A guarded write of the same master to the page (PLUMB, or PCH) has yet to take effect (R451, R566). -/
def heldBehind (s : State) (m : Master) (pch : Bool) : Bool :=
  s.plumb.handed.any fun h => decide (h.master = m) && (decide (pageIndex h.key = pageNo .pch 0) == pch)

/-- The entry of a guarded write shows what it did, or that it had no effect (R566). -/
def reviseHanded (h : Handed) (takes : Bool) (s : State) : State :=
  let old := rd s h.key
  match h.seq with
  | some q => reviseEntry q old (if takes then plainValue h.key old h.val else old) s
  | none => s

/-- The writes in the firmware's hands are lost with it: they have no effect. -/
def dropHanded (s : State) : State :=
  onPlumb (fun p => { p with handed := [] }) (forEach s.plumb.handed (reviseHanded · false) s)

/-- A write of a PLUMB register that is not guarded takes effect in the order of its master's writes to the page. -/
def inOrder (m : Master) (off : Nat) (v : Word) (act : State → State) (s : State) : State :=
  if heldBehind s m false then
    onPlumb (fun p => { p with handed := p.handed ++ [{ master := m, key := plKey off, val := v, guarded := false }] }) s
  else act s

/-- A write command of a PLUMB register at the bus. -/
def plumbBus (m : Master) (off : Nat) (v : Word) (act : State → State) (s : State) : State :=
  byBus m .plumb 0 off (inOrder m off v act) s

/-- Key of a connection register (R414). -/
def connKey (c off : Nat) : Nat := rk .pch 0 (0x100 + 0x40 * c + off)

/-! Safe power-off (R383 to R385) -/

/-- A source demands SPO: where it is not latched it latches (R385). -/
def spoDemand (k : Nat) (s : State) : State :=
  let s := onPlumb (fun p => { p with active := setBit p.active k true, seen := setBit p.seen k true }) s
  if s.plumb.spo then s else
  let src := s.plumb.active
  let s := settle s (onPlumb (fun p => { p with spo := true, first := bitw k }) s)
  raisePl 0 (logHap (pageNo .plumb 0) (bookAction 10 (pageNo .plumb 0) 0x04C 7 0 src s))

/-- SPO is released (R4, R385): commanded edges resume at the next boundary of each leg. -/
def spoOff (s : State) : State :=
  let now := s.now
  let s := settle s
    { onPlumb (fun p => { p with spo := false, first := 0, seen := 0 }) s with holds := { s.holds with spo := some now } }
  checkOutEn (raisePl 1 (logHap (pageNo .plumb 0) (milestone 2 s)))

/-- A source becomes inactive; after START alone Plumb releases SPO by itself (R385). -/
def spoInactive (k : Nat) (s : State) : State :=
  let s := onPlumb (fun p => { p with active := setBit p.active k false }) s
  if k = 0 ∧ s.plumb.spo ∧ s.plumb.active = 0 ∧ s.plumb.seen = 1 then
    spoOff (bookAction 9 (pageNo .plumb 0) 0x04C 7 s.plumb.first 0 s)
  else s

/-- Set or clear a source by its condition. -/
def spoSource (k : Nat) (on : Bool) (s : State) : State :=
  if on then if bit s.plumb.active k then s else spoDemand k s
  else if bit s.plumb.active k then spoInactive k s else s

/-- A source demands for an instant: it latches and is inactive again (R384 APP). -/
def spoPulse (k : Nat) (s : State) : State := onPlumb (fun p => { p with active := setBit p.active k false }) (spoDemand k s)

/-- A write of SPO_CTL.RELEASE (R385, R408). -/
def spoRelease (m : Master) (s : State) : State :=
  if s.plumb.active ≠ 0 || stagingFull s then raisePl 10 (wrb (plKey 0x04C) 8 true s)
  else if !s.plumb.spo then s
  else spoOff (bookRequested 9 (pageNo .plumb 0) 0x04C (masterNo m) s.plumb.first 0 s)

/-- Write SPO_CTL (R385): the release is judged first. -/
def writeSpoCtl (m : Master) (v : Word) (s : State) : State :=
  let s := if bit v 8 then wrb (plKey 0x04C) 8 false s else s
  let s := if bit v 1 then spoRelease m s else s
  if bit v 0 then spoPulse 6 s else s

/-! Conditions that act (R388 to R403) -/

/-- SIN_CFG.MODEi. -/
def sinMode (s : State) (i : Nat) : Nat := rdf s (plKey 0x060) (2 * i) 2
/-- SIN_ACT.ACTi. -/
def sinAct (s : State) (i : Nat) : Nat := rdf s (plKey 0x068) (5 * i) 5
/-- An input demands. -/
def sinDemand (s : State) (i : Nat) : Bool :=
  let x := safeIn s i
  match sinMode s i with
  | 1 => !(x.a && x.b) || x.disc
  | 2 => !(x.a && !x.b) || x.disc
  | _ => false

/-- A channel is in the mask of a scan-mask converter. -/
def inMask (s : State) (c i : Nat) : Bool := rdb s (plKey 0x090) (8 * c + i)
/-- A scan-mask channel is in breach (R390). -/
def inBreach (s : State) (i : Nat) : Bool :=
  let on := (List.range 2).filter fun c => inMask s c i
  !on.isEmpty && ((scanCh s i).breach || on.all fun c => (scanConv s c).faulty)
/-- A scan-mask channel is in disagreement (R390). -/
def inDisagreement (s : State) (i : Nat) : Bool :=
  inMask s 0 i && inMask s 1 i && (decide (3 ≤ (scanCh s i).run) || (scanConv s 0).faulty || (scanConv s 1).faulty)
/-- SAIN_ACT.LIMi. -/
def limAct (s : State) (i : Nat) : Nat := rdf s (plKey 0x098) (2 * i) 2
/-- SAIN_ACT.DIS_ACT. -/
def disAct (s : State) : Nat := rdf s (plKey 0x098) 16 2
/-- A converter that its mask uses is faulty. -/
def convFault (s : State) (c : Nat) : Bool := (scanConv s c).faulty && rdf s (plKey 0x090) (8 * c) 8 ≠ 0

/-- A disagreement or a converter fault stands (R384). -/
def anyDisagreement (s : State) : Bool :=
  (List.range 8).any (inDisagreement s) || (List.range 2).any (convFault s)

/-- A connection switches outputs off: those of its OMASK that an OPEN bit names in RUN, all of OMASK while the fail-safe
action stands (R401). -/
def connActs (s : State) (c n : Nat) : Bool :=
  let x := conn s c
  rdb s (connKey c 0) (24 + n) && !rdb s (connKey c 0) 0 &&
    (x.acting || (x.st = 2 && x.safe.testBit (n + 1)))

/-- Something acts on an output: it is held off (R388, R390, R393, R394, R401, R403). -/
def soutActed (s : State) (n : Nat) : Bool :=
  let cfg := rd s (plKey (0x070 + 4 * n))
  bit s.plumb.active 0 ||
  (List.range 4).any (fun i => sinDemand s i && (sinAct s i).testBit (n + 1)) ||
  (rdb s (plKey 0x098) (20 + n) &&
    ((List.range 8).any (fun i => inBreach s i && limAct s i % 2 = 1) || (disAct s = 3 && anyDisagreement s))) ||
  (List.range 8).any (fun c => connActs s c n) ||
  (bit cfg 1 && s.plumb.island.contains (fld cfg 2 2)) ||
  (s.plumb.saddle = .expired && rdb s (plKey 0x0F0) 10)

/-! Contactor outputs (R391 to R396) -/

/-- Enter a state of an output. -/
def soutTo (n : Nat) (st : SoutState) (s : State) : State :=
  if (sout s n).st = st then s else raisePl 4 (onSout n (fun x => { x with st := st }) s)

/-- A test in progress is aborted without being judged (R396). -/
def abortTest (n : Nat) (s : State) : State :=
  let x := sout s n
  if x.pulseEnd.isNone ∧ x.recovEnd.isNone then s else
  raisePl 6 (incHeld (plKey 0x088) 0 16 (onSout n (fun x => { x with pulseEnd := none, recovEnd := none }) s))

/-- An action or an open request switches an output off: it moves to OPEN (R392, R396). -/
def soutOff (n : Nat) (s : State) : State :=
  let x := sout s n
  if x.st = .closing || x.st = .closed then
    let now := s.now
    soutTo n .open (onSout n (fun x => { x with energised := false, testAt := none, offAt := now }) (abortTest n s))
  else s

/-- An output enters FAULT and is switched off. -/
def soutFault (n : Nat) (s : State) : State :=
  soutTo n .fault (onSout n (fun x => { x with energised := false, testAt := none, pulseEnd := none, recovEnd := none }) s)

/-- The mirror contact shows closed: channel A of the input FB_IN in mode 0b11, with the level FB_POL (R391). -/
def mirrorClosed (s : State) (n : Nat) : Bool :=
  let cfg := rd s (plKey (0x070 + 4 * n))
  let i := fld cfg 5 2
  bit cfg 4 && sinMode s i = 3 && ((safeIn s i).a = bit cfg 8)

/-- The readback and the mirror confirm a closed contactor. -/
def soutConfirmed (s : State) (n : Nat) : Bool :=
  (sout s n).readback && (!rdb s (plKey (0x070 + 4 * n)) 4 || mirrorClosed s n)

/-- TP_INT in steps. -/
def testInt (s : State) (n : Nat) : Nat := rdf s (plKey (0x070 + 4 * n)) 16 12 * secs
/-- TP_LEN in steps. -/
def testLen (s : State) (n : Nat) : Nat := rdf s (plKey (0x070 + 4 * n)) 11 5 * 100 * usec

/-- The readback shows high though the output is off: it has had the 10 us that R386 gives a switch-off. -/
def stuckHigh (s : State) (n : Nat) : Bool :=
  let x := sout s n
  x.st = .open && x.readback && decide (x.offAt + 10 * usec ≤ s.now)

/-- Judge an output after its readback or mirror has changed (R392). -/
def judgeSout (n : Nat) (s : State) : State :=
  let x := sout s n
  match x.st with
  | .closing =>
    if soutConfirmed s n then
      let due := s.now + testInt s n
      soutTo n .closed (onSout n (fun x => { x with testAt := some due }) s)
    else s
  | .closed => if rdb s (plKey (0x070 + 4 * n)) 4 && !(mirrorClosed s n) then soutFault n s else s
  | .open => if stuckHigh s n then soutFault n s else s
  | .fault => s

/-- Default of a grid port. -/
def grid0 (_ : Nat) : Grid := {}
/-- A grid port. -/
def grid (s : State) (g : Nat) : Grid := smGet grid0 s.grids g

/-- A grid port holds an open request (R220, R227): in OFF, SYNC, TRIPPED and WAIT_RS, and from the loss of its boundaries
to the first update after. -/
def portHoldsOpen (s : State) (p : Nat) : Bool :=
  let x := grid s p
  decide (x.st ≤ 1) || x.st = 8 || x.st = 9 || x.lost

/-- The open request that a grid port holds acts on an output (R392): GP_EN is 1 and GPORT names the port. -/
def soutHeldOpen (s : State) (n : Nat) : Bool :=
  rdb s (plKey (0x070 + 4 * n)) 1 && portHoldsOpen s (rdf s (plKey (0x070 + 4 * n)) 2 2)

/-- Grant a close request, from OPEN to CLOSING, or leave it (R392). -/
def soutGrant (n : Nat) (s : State) : Option State :=
  if (sout s n).st = .open && rdb s (plKey (0x070 + 4 * n)) 0 && !s.plumb.spo && !(soutActed s n) && !(soutHeldOpen s n) &&
      s.plumb.saddle ≠ .expired && !(stuckHigh s n) then
    let due := s.now + max 1 (rdf s (plKey (0x070 + 4 * n)) 28 4) * 10 * msec
    some (judgeSout n (soutTo n .closing (onSout n (fun x => { x with energised := true, closeBy := due }) s)))
  else none

/-- A close request of software: where it is not granted it is refused. The readback is looked at first. -/
def soutClose (n : Nat) (s : State) : State :=
  match soutGrant n s with
  | some t => t
  | none => if (sout s n).st = .open then raisePl 10 (judgeSout n s) else s

/-- The outputs that follow a grid port (GP_EN, GPORT). -/
def portOuts (s : State) (p : Nat) : List Nat :=
  (List.range 4).filter fun n => rdb s (plKey (0x070 + 4 * n)) 1 && rdf s (plKey (0x070 + 4 * n)) 2 2 = p

/-- A grid port makes an open request (R220). -/
def portOpen (p : Nat) (s : State) : State := forEach (portOuts s p) soutOff s

/-- The test pulse begins (R395). -/
def startTest (n : Nat) (s : State) : State :=
  let x := sout s n
  if x.st ≠ .closed || testLen s n = 0 || x.pulseEnd.isSome || x.recovEnd.isSome then s else
  let t := s.now
  let e := t + testLen s n
  let next := match x.testAt with
    | some d => if d ≤ t then nextDue d (testInt s n) t else t + testInt s n
    | none => t + testInt s n
  onSout n (fun x => { x with energised := false, pulseEnd := some e, testAt := some next }) s

/-! Evaluation -/

/-- The SPO source bits that follow from conditions (R384): SAFE_IN, SAIN, SAIN_DIS, CHANNEL, SADDLE. -/
def spoConds (s : State) : List (Nat × Bool) :=
  [(1, (List.range 4).any fun i => sinDemand s i && (sinAct s i).testBit 0),
   (2, (List.range 8).any fun i => inBreach s i && decide (2 ≤ limAct s i)),
   (3, decide (2 ≤ disAct s) && anyDisagreement s),
   (4, (List.range 8).any fun c =>
      let x := conn s c
      !rdb s (connKey c 0) 0 &&
        ((x.acting && rdf s (connKey c 0) 28 2 = 3) || (x.st = 2 && x.safe.testBit 0 && rdb s (connKey c 0) 20))),
   (5, decide (s.plumb.saddle = .expired))]

/-- The Saddle causes that are active: SW, CHANNEL, SAIN, TEST, PAIR (R402, R424). SW is held in the state. -/
def saddleCauses (s : State) : Word :=
  let c := s.plumb.causes
  let c := setBit c 1 ((List.range 8).any fun c => (conn s c).acting && rdf s (connKey c 0) 28 2 = 1)
  let c := setBit c 2 (disAct s = 1 && anyDisagreement s)
  let c := setBit c 4 (s.pair.st = 4 && s.pair.linkAt.isNone && s.pair.ringAt.isNone)
  setBit c 3 ((List.range 4).any fun n => (sout s n).testFault)

/-- Outputs whose readback stays high though they are off move to FAULT (R392). -/
def stuckOutputs (s : State) : State := forEach ((List.range 4).filter (stuckHigh s)) soutFault s

/-- Take the reactions that the conditions demand. -/
def plumbEval (s : State) : State :=
  let s := forEach (spoConds s) (fun e s => spoSource e.1 e.2 s) s
  let c := saddleCauses s
  let s := onPlumb (fun p => { p with causes := c }) s
  stuckOutputs (forEach ((List.range 4).filter fun n => soutActed s n || soutHeldOpen s n) soutOff s)

/-- A safety input's channel or mode has changed: the discrepancy time and fault, and the reactions (R388). -/
def evalInput (i : Nat) (s : State) : State :=
  let x := safeIn s i
  let now := s.now
  let mode := sinMode s i
  let judged := mode = 1 || mode = 2
  let bOk := if mode = 2 then !x.b else x.b
  let apart := judged && x.a ≠ bOk
  let both := judged && !x.a && !bOk
  let none' := judged && x.a && bOk
  let seen := x.disc && (x.bothSeen || both)
  let s := onSafeIn i (fun x => { x with disagree := (if apart then (if x.disagree.isNone then some now else x.disagree) else none),
                                         disc := judged && x.disc && !(seen && none'), bothSeen := seen && !none' }) s
  let was := (safeIn s i).demand
  let acts := sinDemand s i && sinAct s i ≠ 0
  let s := onSafeIn i (fun x => { x with demand := acts }) s
  let s := if acts && !was then raisePl 2 s else s
  let s := forEach ((List.range 4).filter fun n => rdf s (plKey (0x070 + 4 * n)) 5 2 = i) judgeSout s
  plumbEval s

/-- Island reports (R394). -/
def islandReport (p : Nat) (on : Bool) (s : State) : State :=
  plumbEval (onPlumb (fun x => { x with island := (if on then p :: x.island.filter (· ≠ p) else x.island.filter (· ≠ p)) }) s)

/-- Start-up, a restart, or a system reset: START demands and every output is held off (R384, R393, R410). -/
def startActive (s : State) : State := plumbEval (spoSource 0 true s)

/-- START becomes inactive once the self-test has passed and no system reset lasts (R384). -/
def startEnds (s : State) : State :=
  if s.plumb.selftest && decide (s.pwr.reset = none) then spoSource 0 false s else s

/-- Relock the password level (R406, R410): recorded where it lowers the level. -/
def relockLevel (m : Nat) (s : State) : State :=
  if s.pw.level = 0 then s else
  let old := s.pw.level
  let s := bookAction 5 (pageNo .plumb 0) 0x114 m (wNat old) 0 s
  raisePl 8 { s with pw := { s.pw with level := 0 } }

/-- Plumb restarts from its ROM (R382, R410): START demands, outputs are off, connections are idle, and what was in the firmware's
hands is lost. -/
def plumbRestart (s : State) : State :=
  let s := dropHanded s
  let since := if s.holds.frozen then some s.now else none
  let s := { onPlumb (fun p => { p with selftest := false, exitReq := false, asked := none, frozen := since }) s with
             conns := [], sins := [], scans := [], scanConvs := [], pw := { s.pw with level := 0, data := [] } }
  let s := onPlumb (fun p => { p with saddle := (if p.saddle = .expired then .expired else .normal), causes := 0 }) s
  startActive s

/-- An internal fault (R382). -/
def internalFault (s : State) : State :=
  let s := spoPulse 9 s
  let s := forEach (List.range 4) soutOff s
  let s := logHap (pageNo .plumb 0) (onPlumb (fun p => { p with faultRec := true }) s)
  plumbRestart s

/-! Saddle mode (R402) -/

/-- An enabled Saddle cause is active. -/
def saddleActive (s : State) : Bool := decide (fld (saddleCauses s &&& rd s (plKey 0x0F0)) 0 5 ≠ 0)

/-- SAD_STAT.STATE. -/
def saddleNo : Saddle → Nat
  | .normal => 0
  | .active => 1
  | .clearing => 2
  | .expired => 3

/-- Enter a Saddle state: SADDLE, one trouble-log entry and one field-book entry, placed before the change where a master's
write of SAD_CTL made it (R402, R408). -/
def saddleTo (m : Option Master) (st : Saddle) (s : State) : State :=
  let old := wNat (saddleNo s.plumb.saddle)
  let new := wNat (saddleNo st)
  let s := match m with
    | some m => bookRequested 8 (pageNo .plumb 0) 0x0FC (masterNo m) old new s
    | none => bookAction 8 (pageNo .plumb 0) 0x0FC 7 old new s
  let s := onPlumb (fun p => { p with saddle := st, exitReq := false, asked := none }) s
  plumbEval (raisePl 7 (logHap (pageNo .plumb 0) s))

/-- Entries to ACTIVE in the last 24 h of RTC time. -/
def saddleEntries (s : State) : List Nat := s.plumb.entries.filter fun t => decide (rtcNow s / 32768 < t + 86400)

/-- SAD_TIME.TMAX in steps. -/
def saddleMax (s : State) : Nat := rdf s (plKey 0x0F8) 0 16 * secs
/-- SAD_TIME.CLEAN in steps. -/
def saddleClean (s : State) : Nat := rdf s (plKey 0x0F8) 16 16 * secs

/-- The state the Saddle table leads to now, in the table's order (R402). -/
def saddleNext (s : State) : Option Saddle :=
  let on := saddleActive s
  let limit := rdf s (plKey 0x0F0) 12 4
  let late := decide (s.plumb.sadAt + saddleMax s ≤ s.now)
  match s.plumb.saddle with
  | .normal => if !on then none else some (if limit = 0 || decide ((saddleEntries s).length < limit) then .active else .expired)
  | .active => if late then some .expired else if !on then some .clearing else none
  | .clearing =>
    if late then some .expired
    else if on then some .active
    else if s.plumb.cleanAt + saddleClean s ≤ s.now && (rdb s (plKey 0x0F0) 8 || s.plumb.exitReq) then some .normal
    else none
  | .expired => none

/-- The master whose write of SAD_CTL makes the change that the table leads to: without the write the table would not lead to it
(R402, R408). -/
def saddleAsked (s : State) : Option Master :=
  match s.plumb.asked with
  | none => none
  | some (m, sw) =>
    if saddleNext (onPlumb (fun p => { p with causes := setBit p.causes 0 sw, exitReq := false }) s) = saddleNext s then none
    else some m

/-- The Saddle table (R402): the Saddle timer starts with an entry from NORMAL, the clean timer with CLEARING. A change that a
master asked for waits while its entry has no room (R408). -/
def saddleTable (s : State) : State :=
  match saddleNext s with
  | none => if s.plumb.exitReq then s else onPlumb (fun p => { p with asked := none }) s
  | some st =>
    let m := saddleAsked s
    if m.isSome && stagingFull s then s else
    let now := s.now
    let t := rtcNow s / 32768
    let es := saddleEntries s
    let s :=
      if st = .active && s.plumb.saddle = .normal then onPlumb (fun p => { p with sadAt := now, entries := es ++ [t] }) s
      else if st = .clearing then onPlumb (fun p => { p with cleanAt := now }) s
      else s
    saddleTo m st s

/-- The Saddle ceiling that Plumb publishes, in W (R403). -/
def saddleP (s : State) : Word :=
  if s.plumb.saddle = .active || s.plumb.saddle = .clearing then rd s (plKey 0x0F4) else 0
/-- Saddle mode is ACTIVE or CLEARING. -/
def inSaddle (s : State) : Bool := s.plumb.saddle = .active || s.plumb.saddle = .clearing

/-- A write of SAD_CTL by a master asks for what ENTER and EXIT may change; the cause SW as it stood before the first such
write is kept (R402, R408). -/
def saddleAsk (m : Master) (s : State) : State :=
  let sw := bit s.plumb.causes 0
  onPlumb (fun p => { p with asked := some (m, (p.asked.map (·.2)).getD sw) }) s

/-- SAD_CTL.RESET: below site level it is ignored and counted (R402, R405). -/
def saddleReset (m : Master) (s : State) : State :=
  if s.plumb.saddle ≠ .expired then s
  else if s.pw.level = 0 then deny (plKey 0x0FC) s
  else if saddleActive s then raisePl 10 s
  else saddleTo (some m) .normal s

/-- Write SAD_CTL (R402, R408). -/
def writeSadCtl (m : Master) (v : Word) (s : State) : State :=
  if fld v 0 3 = 0 then s
  else if stagingFull s then raisePl 10 s
  else
    let s := if fld v 0 2 = 0 then s else saddleAsk m s
    let s := if bit v 0 then onPlumb (fun p => { p with causes := setBit p.causes 0 true }) s else s
    let s := if bit v 1 then onPlumb (fun p => { p with causes := setBit p.causes 0 false, exitReq := true }) s else s
    if bit v 2 then saddleReset m s else s

/-! Scan-mask converters (R389, R390) -/

/-- One result of a converter: judged against the channel's limits. -/
def scanResult (c i : Nat) (code : Int) (s : State) : State :=
  if (scanConv s c).faulty || !(inMask s c i) then s else
  let k := plKey (0x0C0 + 4 * i)
  let s := wrf k (16 * c) 16 (code % 65536).toNat s
  let s := onScanCh i (fun x => if c = 0 then { x with code0 := code, have0 := true } else { x with code1 := code, have1 := true }) s
  let lim := plKey (0x0A0 + 4 * i)
  let hi := rdsf s lim 0 12
  let lo := rdsf s lim 12 12
  let hyst : Int := rdf s lim 24 8
  let x := scanCh s i
  let calm : Int → Bool := fun v => decide (lo + hyst ≤ v ∧ v ≤ hi - hyst)
  let clear := (!(inMask s 0 i) || (x.have0 && calm x.code0)) && (!(inMask s 1 i) || (x.have1 && calm x.code1))
  let out := decide (hi < code ∨ code < lo)
  let was := inBreach s i
  let s := onScanCh i (fun x => { x with breach := out || (x.breach && !clear) }) s
  let s := if inBreach s i && !was then raisePl 2 s else s
  plumbEval s

/-- Raise DEMAND and DISC for the breaches, the disagreements and the converter faults that have arisen since a state (R413). -/
def scanRaise (before s : State) : State :=
  let arisen : (State → Nat → Bool) → Nat → Bool := fun f n => (List.range n).any fun i => f s i && !(f before i)
  let disc := arisen inDisagreement 8 || arisen convFault 2
  let dem := arisen inBreach 8
  let s := if disc then raisePl 3 s else s
  if dem then raisePl 2 s else s

/-- The end of a scan: the reference result, and after SC0 the disagreements of the channels in both masks. -/
def scanEnd (c : Nat) (mv : Int) (s : State) : State :=
  let before := s
  let bad := decide (8 < (mv - 1000).natAbs)
  let s := onScanConv c (fun x => if bad then { faulty := true, clean := 0 }
    else if x.faulty then (if 2 ≤ x.clean then {} else { x with clean := x.clean + 1 }) else x) s
  let tol := rdf s (plKey 0x094) 0 12
  let s := if c = 0 then
      forEach ((List.range 8).filter fun i => inMask s 0 i && inMask s 1 i && (scanCh s i).have0 && (scanCh s i).have1)
        (fun i s => onScanCh i (fun y => { y with run := (if tol < (y.code0 - y.code1).natAbs then y.run + 1 else 0) }) s) s
    else s
  plumbEval (scanRaise before s)

/-! Commands -/

/-- SPO_REQUEST (R384). -/
def execSpoRequest (m : Master) (s : State) : Host.Outcome State Fault Refusal :=
  .next (plumbBus m 0x04C 1 (writeSpoCtl m 1) s)

/-- SPO_RELEASE (R385). -/
def execSpoRelease (m : Master) (s : State) : Host.Outcome State Fault Refusal :=
  .next (plumbBus m 0x04C 2 (writeSpoCtl m 2) s)

/-- SAFE_IN_CHANGE (R388): the filtered channel A or B of an input becomes energised or de-energised. -/
def execSafeInChange (i : Fin 4) (chB on : Bool) (s : State) : Host.Outcome State Fault Refusal :=
  .next (evalInput i.val (onSafeIn i.val (fun x => if chB then { x with b := on } else { x with a := on }) s))

/-- DISCREPANCY (R388). -/
def execDiscrepancy (i : Fin 4) (s : State) : Host.Outcome State Fault Refusal :=
  .next (
    match (safeIn s i.val).disagree with
    | none => s
    | some t =>
      if (safeIn s i.val).disc then s else
      let s := upto (t + max 1 (rdf s (plKey 0x064) 0 16) * msec) s
      evalInput i.val (raisePl 3 (onSafeIn i.val (fun x => { x with disc := true, bothSeen := false }) s)))

/-- SCAN (R389, R390): a channel's code, or the reference in mV. -/
def execScan (c : Fin 2) (ch : Option (Fin 8)) (code : Int) (s : State) : Host.Outcome State Fault Refusal :=
  .next (
    match ch with
    | some i => scanResult c.val i.val code s
    | none => scanEnd c.val code s)

/-- SOUT_CLOSE (R392). -/
def execSoutClose (m : Master) (n : Fin 4) (s : State) : Host.Outcome State Fault Refusal :=
  .next (plumbBus m 0x084 (wNat (2 ^ n.val)) (soutClose n.val) s)

/-- SOUT_OPEN (R392). -/
def execSoutOpen (m : Master) (n : Fin 4) (s : State) : Host.Outcome State Fault Refusal :=
  .next (plumbBus m 0x084 (wNat (2 ^ (4 + n.val))) (soutOff n.val) s)

/-- FAULT returns to OPEN where readback and mirror agree with an open contactor (R392). -/
def soutClr (n : Nat) (s : State) : State :=
  let x := sout s n
  if x.st ≠ .fault then s
  else if x.readback || mirrorClosed s n then raisePl 10 s
  else plumbEval (soutTo n .open (onSout n (fun x => { x with testFault := false }) s))

/-- SOUT_CLR (R392). -/
def execSoutClr (m : Master) (n : Fin 4) (s : State) : Host.Outcome State Fault Refusal :=
  .next (plumbBus m 0x084 (wNat (2 ^ (8 + n.val))) (soutClr n.val) s)

/-- TEST_NOW (R395). -/
def execTestNow (m : Master) (n : Fin 4) (s : State) : Host.Outcome State Fault Refusal :=
  .next (plumbBus m 0x084 (wNat (2 ^ (12 + n.val))) (startTest n.val) s)

/-- CLOSE_TIMEOUT (R392). -/
def execCloseTimeout (n : Fin 4) (s : State) : Host.Outcome State Fault Refusal :=
  .next (if (sout s n.val).st = .closing then soutFault n.val (upto (sout s n.val).closeBy s) else s)

/-- SOUT_FEEDBACK_CHANGE (R392): the readback's level; a mirror changes by its safety input. -/
def execSoutFeedbackChange (n : Fin 4) (rb : Bool) (s : State) : Host.Outcome State Fault Refusal :=
  .next (
    let x := sout s n.val
    let now := s.now
    let s := onSout n.val (fun x => { x with readback := rb, fellAt := (if rb then x.fellAt else now) }) s
    if rb && !x.energised && x.pulseEnd.isNone then soutFault n.val s else judgeSout n.val s)

/-- TEST_DUE (R395). -/
def execTestDue (n : Fin 4) (s : State) : Host.Outcome State Fault Refusal :=
  .next (
    match (sout s n.val).testAt with
    | none => s
    | some t => if (sout s n.val).st = .closed && testLen s n.val ≠ 0 then startTest n.val (upto t s) else s)

/-- TEST_PULSE_END (R395): the readback must have been low in the last 20 us. -/
def execTestPulseEnd (n : Fin 4) (s : State) : Host.Outcome State Fault Refusal :=
  .next (
    match (sout s n.val).pulseEnd with
    | none => s
    | some t =>
      let s := upto t s
      let due := s.now + testLen s n.val
      onSout n.val (fun x => { x with energised := true, pulseEnd := none, recovEnd := some due,
                                      pulseOk := !x.readback && decide (x.fellAt + 20 * usec ≤ t) }) s)

/-- A dark test has failed (R395). -/
def testFails (n : Nat) (s : State) : State :=
  let s := raisePl 5 (incHeld (plKey 0x088) 16 16 s)
  match rdf s (plKey (0x070 + 4 * n)) 9 2 with
  | 0 => s
  | 1 => soutFault n s
  | 2 => plumbEval (onSout n (fun x => { x with testFault := true }) (soutFault n s))
  | _ => plumbEval (spoPulse 1 (soutFault n s))

/-- TEST_RECOVERY_END (R395): the test is judged. -/
def execTestRecoveryEnd (n : Fin 4) (s : State) : Host.Outcome State Fault Refusal :=
  .next (
    match (sout s n.val).recovEnd with
    | none => s
    | some t =>
      let s := onSout n.val (fun x => { x with recovEnd := none }) (upto t s)
      let x := sout s n.val
      if x.pulseOk && x.readback then s else testFails n.val s)

/-- Edges counted in 10 us within 10 % of a nominal count, given as counts of `per` such times. -/
def edgesOk (n nominal per : Nat) : Bool := n ≠ 0 && decide (9 * nominal ≤ 10 * per * n ∧ 10 * per * n ≤ 11 * nominal)

/-- CLOCK_CHECK (R387): the edges of CLK_PWM, CLK_FAB, CLK_ADC and CLK_RING in 10 us; they are judged once the self-test has
passed. The readbacks of the outputs are looked at as often (R392). -/
def execClockCheck (pwm fab adc ring : Nat) (s : State) : Host.Outcome State Fault Refusal :=
  .next (
    let s := stuckOutputs s
    if !s.plumb.selftest then s else
    spoSource 7 (!(edgesOk pwm 3125 1 && edgesOk fab 6250 1 && edgesOk adc 2500 1 && edgesOk ring 3125 2)) s)

/-- FREEZE (R387): a freeze at rank 5 has lasted LIM microseconds. -/
def execFreeze (s : State) : Host.Outcome State Fault Refusal :=
  .next (
    match s.plumb.frozen with
    | none => s
    | some t => if s.holds.frozen then spoSource 8 true (upto (t + max 10 (rdf s (plKey 0x050) 0 16) * usec) s) else s)

/-- LOCKSTEP_MISMATCH (R382). -/
def execLockstepMismatch (s : State) : Host.Outcome State Fault Refusal := .next (internalFault s)

/-- PLUMB_OSCILLATOR_FAILURE (R382). -/
def execPlumbOscillatorFailure (s : State) : Host.Outcome State Fault Refusal := .next (internalFault s)

/-- PERIODIC_SELFTEST (R382): every 60 minutes. -/
def execPeriodicSelftest (ok : Bool) (s : State) : Host.Outcome State Fault Refusal :=
  .next (
    if !s.plumb.selftest then s else
    let at' := s.plumb.nextSelf
    let s := upto at' s
    let due := nextDue at' (3600 * secs) s.now
    let s := onPlumb (fun p => { p with nextSelf := due }) s
    if ok then s else internalFault s)

/-- SELFTEST_DONE (R384, R410). -/
def execSelftestDone (ok : Bool) (s : State) : Host.Outcome State Fault Refusal :=
  .next (
    if s.plumb.selftest || decide (s.pwr.reset = some .powerOn) then s
    else if !ok then internalFault s
    else
      let now := s.now
      startEnds (milestone 1 (onPlumb (fun p => { p with selftest := true, nextSelf := now + 3600 * secs, nextEval := now + msec }) s)))

/-- ENTER (R402). -/
def execEnter (m : Master) (s : State) : Host.Outcome State Fault Refusal :=
  .next (plumbBus m 0x0FC 1 (writeSadCtl m 1) s)

/-- EXIT (R402). -/
def execExit (m : Master) (s : State) : Host.Outcome State Fault Refusal :=
  .next (plumbBus m 0x0FC 2 (writeSadCtl m 2) s)

/-- SADDLE_RESET (R402). -/
def execSaddleReset (m : Master) (s : State) : Host.Outcome State Fault Refusal :=
  .next (plumbBus m 0x0FC 4 (writeSadCtl m 4) s)

/-- SADDLE_TIMEOUT (R402). -/
def execSaddleTimeout (s : State) : Host.Outcome State Fault Refusal :=
  .next (if inSaddle s then saddleTable (upto (s.plumb.sadAt + saddleMax s) s) else s)

/-- CLEAN_TIMEOUT (R402). -/
def execCleanTimeout (s : State) : Host.Outcome State Fault Refusal :=
  .next (if s.plumb.saddle = .clearing then saddleTable (upto (s.plumb.cleanAt + saddleClean s) s) else s)

/-! The page -/

/-- The value of a PLUMB register that Plumb firmware accepts (R381, R411, R412). -/
def plumbValueOk (off : Nat) (v : Word) : Bool :=
  match off with
  | 0x050 => decide (10 ≤ fld v 0 16)
  | 0x0F4 => finF v && leF 0 v
  | 0x0F8 => decide (fld v 0 16 ≠ 0)
  | 0x070 | 0x074 | 0x078 | 0x07C => decide (fld v 11 5 = 0) || decide (fld v 16 12 ≠ 0)
  | _ => true

/-- The settings of an output change: the mirror is judged by them, and a changed test plan counts from the write for an
output in CLOSED (R392, R395). -/
def soutSettings (n : Nat) (v : Word) (s : State) : State :=
  let old := rd s (plKey (0x070 + 4 * n))
  let s := plainWrite (plKey (0x070 + 4 * n)) v s
  let due := s.now + testInt s n
  let plan := fld old 11 5 ≠ fld v 11 5 || fld old 16 12 ≠ fld v 16 12
  let s := if (sout s n).st = .closed && plan then onSout n (fun x => { x with testAt := some due }) s else s
  plumbEval (judgeSout n s)

/-- A register of the PLUMB page takes a value. -/
def setPlumb (off : Nat) (v : Word) (s : State) : State :=
  if 0x070 ≤ off ∧ off ≤ 0x07C then soutSettings ((off - 0x070) / 4) v s else
  let before := s
  let s := plainWrite (plKey off) v s
  match off with
  | 0x060 | 0x068 => forEach (List.range 4) evalInput s
  | 0x090 => plumbEval (scanRaise before s)
  | 0x098 | 0x0F0 => plumbEval s
  | _ => s

/-- Write SOUT_CTL (R392, R395). -/
def writeSoutCtl (v : Word) (s : State) : State :=
  let s := forEach (setBits v 4) soutClose s
  let s := forEach ((List.range 4).filter fun n => bit v (4 + n)) soutOff s
  let s := forEach ((List.range 4).filter fun n => bit v (8 + n)) soutClr s
  forEach ((List.range 4).filter fun n => bit v (12 + n)) startTest s

/-- STAT (R412). -/
def plumbStat (s : State) : Word :=
  let b : Bool → Nat → Nat := fun c v => if c then v else 0
  wNat (b s.plumb.spo 1 + b s.plumb.selftest 2 + 4 * saddleNo s.plumb.saddle + 16 * s.pw.level +
    (s.plumb.island.filter (· < 4)).foldl (fun a p => a + 256 * 2 ^ p) 0)

/-- LOCK of every page (R412). -/
def lockWord (s : State) : Word :=
  wNat (s.pw.level + (if s.pw.lockout then 4 else 0) + (if stagingFull s then 8 else 0) + 16 * saddleNo s.plumb.saddle)

/-- Bits of a list of flags, from bit `lo`. -/
def packBools (lo : Nat) (f : Nat → Bool) (n : Nat) : Nat :=
  ((List.range n).filter f).foldl (fun a i => a + 2 ^ (lo + i)) 0

/-- A read of a PLUMB register that mirrors hidden state (R411, R412). -/
def readPlumb (s : State) (off : Nat) : Option Word :=
  let p := s.plumb
  match off with
  | 0x00C => some (plumbStat s &&& 0xFF)
  | 0x040 => some (plumbStat s)
  | 0x044 => some p.active
  | 0x048 => some p.first
  | 0x06C => some (wNat (packBools 0 (fun i => (safeIn s i).a) 4 + packBools 4 (fun i => (safeIn s i).b) 4 +
      packBools 8 (sinDemand s) 4 + packBools 12 (fun i => (safeIn s i).disc) 4))
  | 0x080 =>
    let st : Nat → Nat := fun n => match (sout s n).st with | .open => 0 | .closing => 1 | .closed => 2 | .fault => 3
    let hold : Nat → Bool := fun n => rdb s (plKey (0x070 + 4 * n)) 1 && p.island.contains (rdf s (plKey (0x070 + 4 * n)) 2 2)
    some (wNat (st 0 + 4 * st 1 + 16 * st 2 + 64 * st 3 + packBools 8 (fun n => (sout s n).readback) 4 +
      packBools 12 (mirrorClosed s) 4 + packBools 16 (fun n => (sout s n).pulseEnd.isSome) 4 + packBools 20 hold 4))
  | 0x09C => some (wNat (packBools 0 (inBreach s) 8 + packBools 8 (inDisagreement s) 8 +
      packBools 16 (fun c => (scanConv s c).faulty) 2))
  | 0x100 =>
    let left := if inSaddle s then (p.sadAt + saddleMax s - s.now) / secs else 0
    some (wNat (saddleNo p.saddle + 16 * fld (saddleCauses s) 0 5 + 65536 * min 65535 left))
  | _ => none

end Sys2Proof.Machine
end

