-- ==== Sys2Proof/Machine/Passwords.lean ====
section
/-! DEFINITION. Passwords and the field book (R405 to R409). -/

namespace Sys2Proof.Machine

/-- Change the password machine. -/
def onPw (f : Passwords → Passwords) (s : State) : State := { s with pw := f s.pw }

/-- The bytes of the password written (R406). -/
def pwBytes (s : State) (len : Nat) : List Byte := padTo' len (wordBytes s.pw.data)
where
  /-- The first bytes, words not written counting as 0. -/
  padTo' (n : Nat) (bs : List Byte) : List Byte := (bs ++ List.replicate n 0#8).take n

/-- The hash of the password written, with the device's salt. -/
def pwHash (s : State) (len : Nat) : List Word := sha256 (s.pw.salt ++ pwBytes s len)

/-- The lockout time after `n` lockouts: 15 min x 2^(n-1), at most 1440 min (R406). -/
def lockoutTime (n : Nat) : Nat := min 1440 (15 * 2 ^ (n - 1)) * 60 * secs

/-- A failed unlock (R406). -/
def unlockFails (m : Master) (s : State) : State :=
  let lvl := wNat s.pw.level
  let s := raisePl 8 (bookRequested 3 (pageNo .plumb 0) 0x114 (masterNo m) lvl lvl s)
  if s.pw.fails + 1 < 5 then onPw (fun p => { p with fails := p.fails + 1 }) s
  else
    let n := s.pw.lockouts + 1
    let due := s.now + lockoutTime n
    let s := bookAction 4 (pageNo .plumb 0) 0x114 (masterNo m) lvl 0 s
    onPw (fun p => { p with fails := 0, lockouts := n, lockout := true, lockEnd := due, level := 0 }) s

/-- A successful unlock (R406). -/
def unlockTo (m : Master) (l : Nat) (s : State) : State :=
  let s := bookRequested 2 (pageNo .plumb 0) 0x114 (masterNo m) (wNat s.pw.level) (wNat l) s
  let now := s.now
  raisePl 8 (onPw (fun p => { p with level := l, fails := 0, lockouts := 0, session := now }) s)

/-- A password command before PW_DATA is cleared (R406, R407, R408). -/
def pwAct (m : Master) (cmd len : Nat) (s : State) : State :=
  let lenOk := decide (8 ≤ len ∧ len ≤ 32)
  let refused := raisePl 10 s
  match cmd with
  | 1 =>
    if stagingFull s || s.pw.lockout || !lenOk then refused
    else match s.pw.siteHash with
      | none => refused
      | some h => if pwHash s len = h then unlockTo m 1 s else unlockFails m s
  | 2 =>
    match s.pw.makerHash with
    | none =>
      if stagingFull s || s.pw.lockout || (!lenOk && len ≠ 0) then refused
      else if len = 0 then unlockTo m 2 s else unlockFails m s
    | some h =>
      if stagingFull s || s.pw.lockout || !lenOk then refused
      else if pwHash s len = h then unlockTo m 2 s else unlockFails m s
  | 3 => if lenOk then relockLevel (masterNo m) s else refused
  | 4 =>
    if stagingFull s || !lenOk || s.pw.lockout || s.pw.level = 0 then refused
    else
      let h := pwHash s len
      onPw (fun p => { p with siteHash := some h })
        (bookRequested 6 (pageNo .plumb 0) 0x114 (masterNo m) (wNat s.pw.level) (wNat s.pw.level) s)
  | 5 =>
    if stagingFull s || !lenOk || s.pw.lockout || s.pw.level ≠ 2 then refused
    else
      let h := pwHash s len
      onPw (fun p => { p with makerHash := some h })
        (bookRequested 6 (pageNo .plumb 0) 0x114 (masterNo m) (wNat s.pw.level) (wNat s.pw.level) s)
  | 0 => s
  | _ => refused

/-- A password command: PW_DATA is cleared after it, carried out or refused (R406). -/
def pwCommand (m : Master) (cmd len : Nat) (s : State) : State := onPw (fun p => { p with data := [] }) (pwAct m cmd len s)

/-- A write of PW_DATA: at most eight words between two commands (R406). -/
def writePwData (v : Word) (s : State) : State :=
  onPw (fun p => if p.data.length < 8 then { p with data := p.data ++ [v] } else p) s

/-- PW_STAT (R412). -/
def pwStat (s : State) : Word :=
  let p := s.pw
  let left := if p.lockout then (p.lockEnd - s.now + 60 * secs - 1) / (60 * secs) else 0
  wNat (p.level + (if p.lockout then 4 else 0) + (if p.makerHash.isNone then 8 else 0) + 16 * p.fails + 256 * p.denied +
    65536 * left)

/-- A write command of PW_CMD (R412). -/
def passwordBus (m : Master) (cmd len : Nat) (s : State) : State :=
  plumbBus m 0x114 (wNat (cmd + 256 * len)) (pwCommand m cmd len) s

/-- UNLOCK_SITE (R406). -/
def execUnlockSite (m : Master) (len : BitVec 6) (s : State) : Host.Outcome State Fault Refusal :=
  .next (passwordBus m 1 len.toNat s)

/-- UNLOCK_MAKER (R406, R407). -/
def execUnlockMaker (m : Master) (len : BitVec 6) (s : State) : Host.Outcome State Fault Refusal :=
  .next (passwordBus m 2 len.toNat s)

/-- RELOCK (R406): its LEN, which the command does not use, is a legal one. -/
def execRelock (m : Master) (s : State) : Host.Outcome State Fault Refusal := .next (passwordBus m 3 8 s)

/-- SET_SITE (R406). -/
def execSetSite (m : Master) (len : BitVec 6) (s : State) : Host.Outcome State Fault Refusal :=
  .next (passwordBus m 4 len.toNat s)

/-- SET_MAKER (R406). -/
def execSetMaker (m : Master) (len : BitVec 6) (s : State) : Host.Outcome State Fault Refusal :=
  .next (passwordBus m 5 len.toNat s)

/-- PW_DATA_WRITE (R406). -/
def execPwDataWrite (m : Master) (v : Word) (s : State) : Host.Outcome State Fault Refusal :=
  .next (plumbBus m 0x110 v (writePwData v) s)

/-- SESSION_TIMEOUT (R406). -/
def execSessionTimeout (s : State) : Host.Outcome State Fault Refusal :=
  .next (
    let n := rdf s (plKey 0x11C) 0 16
    if n = 0 || s.pw.level = 0 then s else relockLevel 7 (upto (s.pw.session + n * secs) s))

/-- LOCKOUT_END (R406). -/
def execLockoutEnd (s : State) : Host.Outcome State Fault Refusal :=
  .next (if s.pw.lockout then onPw (fun p => { p with lockout := false }) (upto s.pw.lockEnd s) else s)

/-! The field book -/

/-- The eight words of an entry (R408). -/
def fbWords (e : FbEnt) : List Word :=
  let body := [wNat e.seq, wNat e.time, wNat (e.time / 2 ^ 32), wNat (e.kind + 256 * e.flags + 65536 * e.page),
    wNat (e.off + 65536 * e.master), e.old, e.new]
  body ++ [crc32c (wordBytes body)]

/-- Address of an entry of the field-book region (R522). -/
def fbAddr (i : Nat) : Nat := nvBase + 0x02500000 + 32 * i

/-- FB_DRAIN (R409, R505): the oldest staged entry is copied while PD_NVM is on, once its write has been made or refused (R566);
one that fails its check there is written again. -/
def execFbDrain (ok : Bool) (s : State) : Host.Outcome State Fault Refusal :=
  .next (
    match s.fb.staging with
    | [] => s
    | e :: es =>
      let open' := s.plumb.handed.any fun h => h.seq = some e.seq
      if !(domOn s .nvm) || s.pwr.reset = some .powerOn || open' || !ok then s else
      let pos := s.fb.pos
      let wraps := if pos + 1 = 8192 then held 255 (s.fb.wraps + 1) else s.fb.wraps
      let s := nvStores (some (7, none)) (fbAddr pos) (wordBytes (fbWords e)) s
      let s := { s with fb := { s.fb with staging := es, pos := (pos + 1) % 8192, wraps := wraps } }
      let s := if es.isEmpty then raisePl 9 s else s
      placeWaiting 64 s)

/-- FB_DATA_READ (R411): a word of entry FB_ADDR; after its eighth word FB_ADDR advances. -/
def execFbDataRead (m : Master) (s : State) : Host.Outcome State Fault Refusal :=
  .next (readAt m .plumb 0 0x128 (fun s =>
    let a := rdf s (plKey 0x124) 0 13
    let w := memWord s (fbAddr a + 4 * s.fb.rword)
    let s := respond w s
    if s.fb.rword = 7 then wrf (plKey 0x124) 0 13 (a + 1) { s with fb := { s.fb with rword := 0 } }
    else { s with fb := { s.fb with rword := s.fb.rword + 1 } }) s)

/-- FB_STAT (R412). -/
def fbStat (s : State) : Word :=
  wNat (s.fb.seq % 65536 + 65536 * min 31 s.fb.staging.length + 2 ^ 24 * s.fb.wraps)

end Sys2Proof.Machine
end

