-- ==== Sys2Proof/Machine/Cells.lean ====
section
/-! DEFINITION. Ring cells (R326 to R328), the node's two rings, and its transmitters (R331, R338). -/

namespace Sys2Proof.Machine

/-- Key of a RING register (R350). -/
def ringKey (i off : Nat) : Nat := rk .ring i off
/-- A ring of the node: 0 A, 1 B. -/
def link (s : State) (r : Nat) : RingLink := if r = 0 then s.rings.a else s.rings.b
/-- Change a ring of the node. -/
def onLink (r : Nat) (f : RingLink → RingLink) (s : State) : State :=
  if r = 0 then { s with rings := { s.rings with a := f s.rings.a } }
  else { s with rings := { s.rings with b := f s.rings.b } }
/-- Raise a cause of a RING page. -/
def raiseRing (r k : Nat) (s : State) : State := raise .ring r k s
/-- CFG.ADDR of a ring. -/
def ringAddr (s : State) (r : Nat) : Nat := rdf s (ringKey r 0x040) 0 8
/-- The node's own address: the address that Benchmarks are compared by (R356). -/
def nodeAddr (s : State) : Nat := if ringAddr s 0 = 0 then ringAddr s 1 else ringAddr s 0
/-- The node is a spur gateway (R347). -/
def isSpur (s : State) : Bool := rdb s (ringKey 0 0x040) 8 && rdb s (ringKey 1 0x040) 8

/-- Base of ring memory in State.mem, above the bus addresses (R341). -/
def ringBase : Nat := 0x100000000
/-- Base of the SFP shadows (R325): 512 bytes for each ring. -/
def sfpBase : Nat := 0x100100000

/-- Length of a cell and the IDLE after it on the line (R321): 68 bytes, 217.6 ns. -/
def cellTime : Nat := 10880
/-- SOC to the first byte sent, with the transit buffer empty (R331): 96 ns. -/
def hopTime : Nat := 4800
/-- SOC to the header's last byte (R331): 41.6 ns. -/
def headTime : Nat := 2080

/-! Cells -/

/-- One byte of the HCRC: polynomial 0x1021, not reflected (R328). -/
def crc16Shift : Nat → Nat → Nat
  | 0, c => c
  | n + 1, c => crc16Shift n (if 0x8000 ≤ c then ((2 * c) ^^^ 0x1021) % 0x10000 else 2 * c)

/-- HCRC of a list of bytes, initial value 0xFFFF (R328). -/
def crc16 (bs : List Byte) : Nat := bs.foldl (fun c b => crc16Shift 8 (c ^^^ (b.toNat * 256))) 0xFFFF

/-- Most significant byte first. -/
def beBytes (n v : Nat) : List Byte := (leBytes n v).reverse
/-- The number that bytes spell, most significant first. -/
def beNat (bs : List Byte) : Nat := leNat bs.reverse
/-- `n` bytes at an offset, as a number, most significant first. -/
def beAt (bs : List Byte) (off n : Nat) : Nat := beNat ((bs.drop off).take n)
/-- A byte of a cell. -/
def cellByte (bs : List Byte) (i : Nat) : Nat := (bs.getD i 0).toNat
/-- A list cut or filled with zeros to a length. -/
def padTo (n : Nat) (bs : List Byte) : List Byte := (bs ++ List.replicate n 0#8).take n

/-- TYPE of a cell. -/
def cellType (c : List Byte) : Nat := cellByte c 0 / 16
/-- ORIG. -/
def cellOrig (c : List Byte) : Nat := cellByte c 0 / 2 % 2
/-- DST. -/
def cellDst (c : List Byte) : Nat := cellByte c 1
/-- SRC. -/
def cellSrc (c : List Byte) : Nat := cellByte c 2
/-- TTL, nine bits. -/
def cellTtl (c : List Byte) : Nat := cellByte c 3 + 256 * (cellByte c 4 / 64 % 2)
/-- WRAPPED. -/
def cellWrapped (c : List Byte) : Bool := decide (cellByte c 4 / 128 % 2 = 1)
/-- FIRST and LAST, as bits 0 and 1. -/
def cellMsg (c : List Byte) : Nat := cellByte c 4 / 32 % 2 + 2 * (cellByte c 4 / 16 % 2)
/-- STREAM. -/
def cellStream (c : List Byte) : Nat := cellByte c 4 % 4 * 256 + cellByte c 5
/-- SEQ. -/
def cellSeq (c : List Byte) : Nat := beAt c 6 2
/-- LEN, at most 48. -/
def cellLen (c : List Byte) : Nat := min 48 (cellByte c 8)
/-- The payload bytes in use. -/
def cellPayload (c : List Byte) : List Byte := (c.drop 12).take (cellLen c)

/-- The header's check holds (R328). -/
def hcrcOk (h : List Byte) : Bool := decide (crc16 (h.take 10) = beAt h 10 2)

/-- The bytes CRC covers: bytes 0 to 59 with the mutable bits and HCRC taken as 0 (R328). -/
def crcBytes (c : List Byte) : List Byte :=
  c.take 3 ++ [0#8, BitVec.ofNat 8 (cellByte c 4 % 64)] ++ (c.drop 5).take 5 ++ [0#8, 0#8] ++ (c.drop 12).take 48

/-- The cell's check holds (R328). -/
def cellOk (c : List Byte) : Bool := decide (crc32c (crcBytes c) = wNat (beAt c 60 4))

/-- The first ten bytes of a header with TTL and WRAPPED replaced, and its HCRC. -/
def withTtl (h : List Byte) (ttl : Nat) (wrapped : Bool) : List Byte :=
  let b4 := cellByte h 4 % 64 + 64 * (ttl / 256 % 2) + (if wrapped then 128 else 0)
  let body := h.take 3 ++ [BitVec.ofNat 8 ttl, BitVec.ofNat 8 b4] ++ (h.drop 5).take 5
  body ++ beBytes 2 (crc16 body)

/-- What a local cell carries (R326). -/
structure CellSpec where
  type    : Nat
  prio    : Nat
  dst     : Nat
  msg     : Nat := 0
  stream  : Nat := 0
  seq     : Nat := 0
  payload : List Byte := []
  ttl     : Option Nat := none
deriving DecidableEq, Repr

/-- Frame a local cell inserted on ring `r`, with WRAPPED where the transmitter is wrapped (R326, R330, R338). -/
def frameCell (s : State) (r : Nat) (wrapped : Bool) (x : CellSpec) : List Byte :=
  let ttl := x.ttl.getD (rdf s (ringKey r 0x040) 16 9)
  let len := min 48 x.payload.length
  let b4 := 32 * (x.msg % 2) + 16 * (x.msg / 2 % 2) + x.stream / 256 % 4
  let h := [BitVec.ofNat 8 (16 * x.type + 4 * x.prio + 2 * r), BitVec.ofNat 8 x.dst, BitVec.ofNat 8 (ringAddr s r), 0#8,
            BitVec.ofNat 8 b4, BitVec.ofNat 8 x.stream] ++ beBytes 2 x.seq ++ [BitVec.ofNat 8 len, 0#8]
  let c := withTtl h ttl wrapped ++ padTo 48 x.payload
  c ++ beBytes 4 (crc32c (crcBytes c)).toNat

/-! Transmitters -/

/-- The transmitter that cells for ring `r` leave on: the other ring's where a wrap stands at the side `r` leads to (R323,
R338). -/
def physTx (s : State) (r : Nat) : Nat := if (link s (1 - r)).wrap then 1 - r else r

/-- The transmitter of ring `r` sends a local cell as soon as it is free; the result is the instant of its SOC. -/
def sendLocal (r : Nat) (mk : Nat → List Byte) (s : State) : Nat × State :=
  let p := physTx s r
  let start := max s.now (link s p).freeAt
  let c := mk start
  (start, incMod (ringKey r 0x064) 0 32 (onLink p (fun l => { l with freeAt := start + cellTime, sent := c, sentBad := false }) s))

/-- Ring `r` is joined (LINK_STAT.JOINED). -/
def isJoined (s : State) (r : Nat) : Bool := (link s r).joined

/-- A page-level count of RING pages held at 0xFFFF. -/
def countRing (r off lo : Nat) (s : State) : State := incHeld (ringKey r off) lo 16 s

end Sys2Proof.Machine
end

