-- ==== Sys2Proof/Machine/Sensing.lean ====
section
/-! DEFINITION. Fast sensing (R36 to R67): slots, windows and period averages, free-running blocks, sequenced conversion,
and the commits of converter groups. -/

namespace Sys2Proof.Machine

/-- Default of a converter. -/
def adc0 (_ : Nat) : Adc := {}
/-- A converter. -/
def adc (s : State) (n : Nat) : Adc := smGet adc0 s.adcs n
/-- Set a converter. -/
def setAdc (n : Nat) (x : Adc) (s : State) : State := { s with adcs := smSet adc0 s.adcs n x }
/-- Change a converter. -/
def onAdc (n : Nat) (f : Adc → Adc) (s : State) : State := setAdc n (f (adc s n)) s

/-- MODE in force. -/
def adcMode (s : State) (n : Nat) : Nat := actf s (rk .adc n 0x040) 0 2
/-- Bound continuous mode in force on a domain. -/
def adcBound (s : State) (n d : Nat) : Bool :=
  let c := inForce s (rk .adc n 0x040)
  decide (fld c 0 2 = 1 ∧ fld c 4 5 = d) && bit c 3
/-- A full slot in steps: 100 ns, or 1 µs in low-power mode (R39, R42). -/
def slotLen (s : State) (n : Nat) : Nat := if bit (inForce s (rk .adc n 0x040)) 2 then 50000 else 5000

/-- The input a selection reaches (R36). -/
def adcInput (n sel : Nat) : Nat :=
  match sel with
  | 0 => n
  | 1 => 32 + n
  | 2 => 32 + (n + 11) % 32
  | _ => 32 + (n + 22) % 32

/-- Inputs that the values `get` of a converter's registers select (R37). -/
def adcSelects (n : Nat) (get : Nat → Word) : List Nat :=
  let c := get (rk .adc n 0x040)
  let q := get (rk .adc n 0x080)
  match fld c 0 2 with
  | 1 => [adcInput n (fld c 9 2)]
  | 2 =>
    (List.range (fld q 0 5)).map (fun i => adcInput n (fld (get (rk .adc n (0x0C0 + 4 * i))) 0 2)) ++
    (List.range (fld q 16 3)).map (fun i => adcInput n (fld (get (rk .adc n (0x140 + 4 * i))) 0 2))
  | _ => []

/-- A register in force, or its value that a running sequence still defers (R58). -/
def adcDeferred (s : State) (n k : Nat) : Word :=
  (((adc s n).defer.find? fun e => decide (e.1 = k)).map (·.2)).getD (inForce s k)

/-- Inputs that a converter selects, those of a table that takes effect at the end of its sequence included (R37, R58). -/
def adcTaken (s : State) (n : Nat) : List Nat := adcSelects n (inForce s) ++ adcSelects n (adcDeferred s n)

/-- The shadow of converter `n` would select an input of AIN[63:32] that two others of `taken` select (R37). -/
def selectsThird (s : State) (n : Nat) (taken : Nat → List Nat) : Bool :=
  (adcSelects n (rd s)).any fun i => decide (32 ≤ i) &&
    decide (2 ≤ ((List.range 32).filter fun m => m ≠ n && (taken m).contains i).length)

/-- The shadow of group 0 keeps the rules of its own fields (R51, R64 to R66). -/
def adcFieldsOk (s : State) (n : Nat) : Bool :=
  let c := rd s (rk .adc n 0x040)
  let q := rd s (rk .adc n 0x080)
  let mode := fld c 0 2
  let len := fld q 0 5
  let inj := fld q 16 3
  let ap := fun (k : Nat) => decide (rdf s k 2 2 ≠ 3)
  decide (mode ≠ 3) && !(bit c 2 && mode = 1 && bit c 3) && decide (fld c 4 5 < 24) &&
  decide (rdf s (rk .adc n 0x044) 0 16 ≠ 0) && finF (rd s (rk .adc n 0x04C)) &&
  decide (1 ≤ len ∧ len ≤ 16 ∧ 1 ≤ inj ∧ inj ≤ 4) &&
  (List.range 16).all (fun i => ap (rk .adc n (0x0C0 + 4 * i))) &&
  (List.range 4).all (fun i => ap (rk .adc n (0x140 + 4 * i)))

/-- The shadow of group 0 may commit, against what the other converters select (R37, R51, R64 to R66). -/
def adcLegal (s : State) (n : Nat) : Bool := adcFieldsOk s n && !(selectsThird s n (adcTaken s))

/-- The converter's group is due at tick `tk`: of its domain's next boundary, or of its own. -/
def adcDueAt (s : State) (tk n : Nat) : Bool :=
  let x := grp s (grpKey .adc n 0)
  if x.bare then decide (bareTick s x = some tk)
  else domRuns s x.dom && decide (nextTick s x.dom = tk) && x.armed.any fun a => decide (a + setupLen ≤ tk)

/-- What the other converters select once the lower-numbered groups that are due at the same tick have taken effect: of two
commits of one tick the lower-numbered converter's stands (R37). -/
def takenWithLower (s : State) (tk : Nat) : Nat → Nat → List Nat
  | 0 => adcTaken s
  | n + 1 =>
    let taken := takenWithLower s tk n
    if adcDueAt s tk n && adcFieldsOk s n && !(selectsThird s n taken) then
      fun m => if m = n then adcSelects n (rd s) else taken m
    else taken

/-- The commit at a tick would be a third one beside lower-numbered converters that commit at the same tick (R37). -/
def adcYields (s : State) (n tk : Nat) : Bool :=
  (List.range n).any (adcDueAt s tk) && selectsThird s n (takenWithLower s tk n)

/-- A window or block begins. -/
def beginWin (s : State) (n start tick : Nat) : Win :=
  let a := adc s n
  { start := start, tick := tick, ok := rdb s (rk .adc n 0x00C) 0 && a.lpAt.isNone, hold := !s.clk.locked,
    nslot := actf s (rk .adc n 0x044) 0 16, offset := inForce s (rk .adc n 0x048), scale := inForce s (rk .adc n 0x04C),
    fromT := start }

/-- The whole ticks between two boundary ticks, in steps (R48). -/
def holdLen (a b : Nat) : Nat := (b - a) / tickLen * tickLen

/-- The window in progress closes at a boundary and waits for its delivery (R41, R42, R48); `early` where a commit or the
loss of boundaries ended it with VALID = 0 (R49). -/
def closeWin (n : Nat) (start tick : Nat) (early : Bool) (s : State) : State :=
  let a := adc s n
  match a.win with
  | none => s
  | some w =>
    let hold := w.hold || !s.clk.locked
    let len := if hold then holdLen w.tick tick else start - w.start
    let f := slotLen s n
    let valid := w.ok && !early
    let need := if valid then (len + f - 1) / f else w.n
    let c : Closed := { win := { w with hold := hold }, beg := (if w.hold then w.tick else w.start),
                        fin := (if s.clk.locked then start else tick), full := f, len := len, need := need,
                        stamp := wNat ((tick - s.clk.tick0) / tickLen), due := tick + 1200, valid := valid,
                        offset := inForce s (rk .adc n 0x048), scale := inForce s (rk .adc n 0x04C) }
    setAdc n { a with win := none, closed := a.closed ++ [c] } s

/-- Convert a slot of a window whose full slots are `f` long (R39, R40, R46, R47): `code` is the full-slot code of the input,
`side` the side of its last excursion out of range (0 none, 1 high, 2 low), `err` a core that had not settled. A slot that is
saturated and errored takes the preceding code and counts as saturated.  DESIGN CHOICE (log entry 72). -/
def addSlot (s : State) (n f : Nat) (w : Win) (len : Nat) (code : Int) (side : Nat) (err : Bool) : Win × Int :=
  let a := adc s n
  let full := decide (f ≤ len)
  let c := if err then a.prev
    else match side with
    | 0 => clampInt (-32768) 32767 code
    | 1 => 32767
    | _ => -32768
  let sat := side ≠ 0
  let part := if full then c else roundDiv (c * len) f
  ({ w with n := w.n + 1, sum := w.sum + part, sat := (if sat then held 255 (w.sat + 1) else w.sat), err := w.err || err,
            hold := w.hold || (!s.clk.locked && !(bit (inForce s (rk .adc n 0x040)) 3)),
            lo := (if full then min w.lo c else w.lo), hi := (if full then max w.hi c else w.hi) },
   if full then c else a.prev)

/-- Slot `i` of a window of `len` steps: its length. -/
def slotPart (f len i : Nat) : Nat := min f (len - i * f)

/-- The average in 16.8 fixed point: S × F / L rounded to nearest, ties away from zero (R42). -/
def adcAverage (sum : Int) (f len : Nat) : Int := if len = 0 then 0 else roundDiv (sum * f * 256) len

/-- The value delivered: (AVG − OFFSET) × SCALE in single precision (R43). -/
def adcValue (avg : Int) (offset scale : Word) : Word :=
  mulF (toF32 (fInt (avg - sfld offset 0 24) (-8))) scale

/-- Deliver a closed window or block (R43 to R47, R62). -/
def deliverSet (n : Nat) (c : Closed) (s : State) : State :=
  let a := adc s n
  let w := c.win
  let sat := decide (w.sat ≠ 0)
  let seq := (a.seqNum + 1) % 65536
  let flags := wNat ((if c.valid then 1 else 0) + (if sat then 2 else 0) + (if w.hold then 4 else 0) +
    (if w.err then 8 else 0) + 256 * w.sat + 65536 * seq)
  let avg := adcAverage w.sum c.full c.len
  let old := a.latest
  let lo := if c.valid then wInt w.lo &&& 0xFFFF else old.getD 3 0
  let hi := if c.valid then wInt w.hi &&& 0xFFFF else old.getD 4 0
  let set : AdcSet := { value := (if c.valid then adcValue avg c.offset c.scale else a.set.value), valid := c.valid,
                        sat := sat, hold := w.hold, err := w.err, len := c.len, stamp := c.stamp }
  let s := setAdc n { a with set := set, seqNum := seq, latest := [wNat c.len, c.stamp, flags, lo, hi] } s
  let s := if c.valid then wr (rk .adc n 0x060) (wInt avg) s else s
  let st := rk .adc n 0x00C
  let first := w.hold && !(rdb s st 1)
  let s := wrb st 1 w.hold s
  let s := raise .adc n 0 s
  let s := if sat then raise .adc n 1 s else s
  let s := if w.err then raise .adc n 2 s else s
  if first then raise .adc n 8 s else s

/-! Sequences -/

/-- Begin an entry. -/
def beginEntry (n : Nat) (s : State) : State :=
  let f := slotLen s n
  onAdc n (fun a => { a with entryAt := s.now, entryLen := f, unsettled := a.lpAt.isSome }) s

/-- What a result register holds now: a result that has become available stands in it (R58). -/
def resultWord (s : State) (n k : Nat) : Word :=
  match (adc s n).result with
  | some (t, k', w) => if k' = k ∧ t ≤ s.now then w else rd s k
  | none => rd s k

/-- Put the converted result into its register. -/
def storeResult (n : Nat) (s : State) : State :=
  match (adc s n).result with
  | some (_, k, w) => onAdc n (fun a => { a with result := none }) (wr k w s)
  | none => s

/-- A sequence has ended: registers committed meanwhile take effect (R58). Where an injected sequence interrupts a regular one
both run, and the registers wait for the end of both.  DEDUCED (log entry 72). -/
def applyDeferred (n : Nat) (s : State) : State :=
  let a := adc s n
  if a.reg.isSome || a.inj.isSome then s
  else
    let s := setAdc n { a with defer := [] } s
    forEach a.defer (fun e s => setForce e.1 e.2 s) s

/-- The regular sequence starts at an entry, or ends where the table is exhausted (R56). -/
def regularFrom (n i : Nat) (again : Bool) (s : State) : State :=
  let q := inForce s (rk .adc n 0x080)
  if i < fld q 0 5 then beginEntry n (onAdc n (fun a => { a with reg := some i, again := again }) s)
  else
    let s := onAdc n (fun a => { a with reg := none, again := false }) s
    let s := raise .adc n 3 (applyDeferred n s)
    if actf s (rk .adc n 0x080) 8 2 = 3 then beginEntry n (onAdc n (fun a => { a with reg := some 0 }) s) else s

/-- A regular trigger (R56, and the paragraphs after R57). -/
def regularTrigger (n : Nat) (s : State) : State :=
  if adcMode s n ≠ 2 then s else
  let a := adc s n
  let st := rk .adc n 0x084
  if a.reg.isSome then raise .adc n 5 (incHeld st 8 8 s)
  else if a.inj.isSome then setAdc n { a with regPend := true } s
  else regularFrom n 0 false s

/-- An urgent trigger (R57). -/
def urgentTrigger (n : Nat) (s : State) : State :=
  if adcMode s n ≠ 2 || !(bit (inForce s (rk .adc n 0x080)) 26) then s else
  let a := adc s n
  if a.inj.isSome then
    if a.injPend then raise .adc n 5 (incHeld (rk .adc n 0x084) 16 8 s)
    else setAdc n { a with injPend := true } s
  else beginEntry n (setAdc n { a with inj := some 0 } s)

/-- The entry that runs ends and the sequences go on (R56, R57). -/
def advanceSeq (n : Nat) (s : State) : State :=
  let a := adc s n
  let q := inForce s (rk .adc n 0x080)
  match a.inj, a.reg with
  | some i, r =>
    if i + 1 < fld q 16 3 then beginEntry n (setAdc n { a with inj := some (i + 1) } s)
    else
      let s := raise .adc n 4 (setAdc n { a with inj := none } s)
      let s := applyDeferred n s
      if a.injPend then beginEntry n (onAdc n (fun a => { a with inj := some 0, injPend := false }) s)
      else match r with
        | some j => if bit q 27 then regularFrom n (j + 1) false s else regularFrom n j true s
        | none => if a.regPend then regularFrom n 0 false (onAdc n (fun a => { a with regPend := false }) s) else s
  | none, some i => regularFrom n (i + 1) false s
  | none, none => s

/-- Stop whatever a converter runs. -/
def stopAdc (n : Nat) (s : State) : State :=
  onAdc n (fun a => { a with win := none, waits := false, reg := none, inj := none, injPend := false, regPend := false,
                             regPulse := false, injPulse := false, defer := [] }) s

/-- A commit of CFG that ends what the converter does: a change of MODE, or of BIND or CDOM in continuous mode (R49). -/
def adcRemade (old new : Word) : Bool :=
  fld old 0 2 ≠ fld new 0 2 || (fld new 0 2 = 1 && (bit old 3 ≠ bit new 3 || fld old 4 5 ≠ fld new 4 5))

/-- Change the newest closed window. -/
def onNewest (f : Closed → Closed) : List Closed → List Closed
  | [] => []
  | [c] => [f c]
  | c :: cs => c :: onNewest f cs

/-- Put a converter group in force (R49 to R52, R58, R60). `bound` is the domain whose boundary this is, if one; `start`
and `tick` the instant of it. -/
def commitAdc (n : Nat) (bound : Option Nat) (start tick ended : Nat) (s : State) : State :=
  if !(adcLegal s n) || adcYields s n tick then raise .adc n 6 (refuseGroup .adc n 0 s) else
  let split := bound.isSome && isSplit s .adc n 0 ended
  let kc := rk .adc n 0x040
  let ks := rk .adc n 0x080
  let old := inForce s kc
  let oldSeq := inForce s ks
  let a := adc s n
  let busy := a.reg.isSome || a.inj.isSome
  let seqKeys := ks :: ((List.range 16).map (fun i => rk .adc n (0x0C0 + 4 * i)) ++
    (List.range 4).map (fun i => rk .adc n (0x140 + 4 * i)))
  let new := rd s kc
  let remake := adcRemade old new
  let stays := fld new 0 2 = 2 && busy && !remake
  -- the closing window still has the old settings; without a boundary a bound window ends here too (R52)
  let bare := bound.isNone && fld old 0 2 = 1 && bit old 3
  let s := if remake || bare then closeWin n start tick true s else s
  let s := forEach (grpRegs .adc n 0) (fun k s =>
    if stays && seqKeys.contains k then s else setForce k (rd s k) s) s
  let s := onAdc n (fun a => { a with defer := (if stays then seqKeys.map fun k => (k, rd s k) else []) }) s
  let s := if rd s ks &&& 0x0FFFFFFF ≠ oldSeq &&& 0x0FFFFFFF then wrf (rk .adc n 0x084) 8 16 0 s else s
  let s := closeGroup .adc n 0 s
  let s := if split then wrb (rk .adc n 0x024) 8 true s else s
  let st := rk .adc n 0x00C
  let s := if bit old 2 ≠ bit new 2 then
      onAdc n (fun a => { a with lpAt := some (s.now + 2 * usec), unsettled := true,
                                 win := a.win.map fun w => { w with ok := false, fromN := w.n, fromT := s.now } }) s else s
  if !remake then (if bare then onAdc n (fun a => { a with waits := true }) s else s) else
  let s := stopAdc n s
  match fld new 0 2 with
  | 0 => onAdc n (fun a => { a with readyAt := none }) (wrb st 0 false s)
  | m =>
    let s := if fld old 0 2 = 0 then onAdc n (fun a => { a with readyAt := some (s.now + 5 * usec) }) s else s
    if m = 1 then
      if bit new 3 then
        if bound = some (fld new 4 5) then onAdc n (fun a => { a with win := some (beginWin s n start tick) }) s
        else onAdc n (fun a => { a with waits := true }) s
      else onAdc n (fun a => { a with win := some (beginWin s n start tick) }) s
    else if actf s ks 8 2 = 3 then regularFrom n 0 false s
    else s

/-- The converters' part of a boundary of domain `d`: windows close, groups commit, windows begin (R40, R49, R50). `fresh`
says that the domain had no boundaries before. -/
def adcBoundary (d start tick ended : Nat) (fresh : Bool) (s : State) : State :=
  if !(live s .adc) then s else
  let bound := (List.range 32).filter fun n => adcBound s n d
  let s := forEach bound (fun n s => closeWin n start tick fresh s) s
  let s := forEach bound (fun n s => onAdc n (fun a => { a with win := some (beginWin s n start tick), waits := false }) s) s
  let s := forEach (dueGroups s .adc d tick) (fun e s =>
    -- the window that ended here ends with VALID = 0 where the commit changes mode, binding or domain
    let new := rd s (rk .adc e.1 0x040)
    let old := inForce s (rk .adc e.1 0x040)
    let s := if bound.contains e.1 && adcRemade old new && adcLegal s e.1 && !(adcYields s e.1 tick) then
        onAdc e.1 (fun a => { a with win := none, closed := onNewest (fun c => { c with valid := false, need := c.win.n }) a.closed }) s
      else s
    commitAdc e.1 (some d) start tick ended s) s
  forEach ((List.range 32).filter fun n => adcMode s n = 2 && decide (actf s (rk .adc n 0x080) 8 2 = 1) &&
      decide (actf s (rk .adc n 0x040) 4 5 = d))
    (fun n s => onAdc n (fun a => { a with regPulse := true }) s) s

/-- A slot converted for the oldest closed window that still waits for one: the windows, and the code of the newest full slot. -/
def slotToClosed (add : Closed → Win × Int) : List Closed → Option (List Closed × Int)
  | [] => none
  | c :: cs =>
    if c.win.n < c.need then let r := add c; some ({ c with win := r.1 } :: cs, r.2)
    else (slotToClosed add cs).map fun r => (c :: r.1, r.2)

/-! Meanings -/

/-- CONVERTER_GROUP_COMMIT (R52). -/
def execConverterGroupCommit (n : Fin 32) (s : State) : Host.Outcome State Fault Refusal :=
  .next (
    let x := grp s (grpKey .adc n 0)
    if !(live s .adc) || !x.bare then s else
    match bareTick s x with
    | none => s
    | some t => let s := upto t s; commitAdc n none t t 0 s)

/-- SLOT_END (R39 to R41, R46, R47): the slot's full-slot code, the side of its last excursion, and a slot error. -/
def execSlotEnd (n : Fin 32) (code : Int) (side : Fin 3) (err : Bool) (s : State) : Host.Outcome State Fault Refusal :=
  .next (
    if !(live s .adc) then s else
    let a := adc s n
    let f := slotLen s n
    match slotToClosed (fun c => addSlot s n c.full c.win (slotPart c.full c.len c.win.n) code side err) a.closed with
    | some r => setAdc n { a with closed := r.1, prev := r.2 } s
    | none =>
      if adcMode s n ≠ 1 then s else
      match a.win with
      | none => s
      | some w =>
        let c := inForce s (rk .adc n 0x040)
        let d := dom s (fld c 4 5)
        let hold := w.hold || !s.clk.locked
        let span := if hold then holdLen w.tick (nextTick s (fld c 4 5)) else d.next - d.start
        let part :=
          if !(bit c 3) then (if w.n < w.nslot then f else 0)
          else if domRuns s (fld c 4 5) then slotPart f span w.n else f
        if part = 0 then s else
        let s := upto (if bit c 3 then (if hold then w.tick else w.start) + w.n * f + part
          else w.fromT + (w.n - w.fromN) * f + f) s
        let (w, p) := addSlot s n f w part code side err
        setAdc n { a with win := some w, prev := p } s)

/-- AVG_READ (R45): AVG, and the companions captured into the holding set. -/
def execAvgRead (m : Master) (n : Fin 32) (s : State) : Host.Outcome State Fault Refusal :=
  .next (readAt m .adc n 0x060 (fun s =>
    let a := adc s n
    let s := forEach [0, 1, 2, 3, 4] (fun i s => wr (rk .adc n (0x064 + 4 * i)) (a.latest.getD i 0) s) s
    respond (rd s (rk .adc n 0x060)) s) s)

/-- REGULAR_TRIGGER (R56): the boundary of CDOM or a pulse of REG_CH reaches the converter. -/
def execRegularTrigger (n : Fin 32) (s : State) : Host.Outcome State Fault Refusal :=
  .next (
    if !(live s .adc) || !(adc s n).regPulse then s
    else regularTrigger n (onAdc n (fun a => { a with regPulse := false }) s))

/-- URGENT_TRIGGER (R57): a pulse of INJ_CH reaches the converter. -/
def execUrgentTrigger (n : Fin 32) (s : State) : Host.Outcome State Fault Refusal :=
  .next (
    if !(live s .adc) || !(adc s n).injPulse then s
    else urgentTrigger n (onAdc n (fun a => { a with injPulse := false }) s))

/-- The time of a conversion after the aperture: 20 ns, or 200 ns in low-power mode (R54, R58). -/
def convLen (a : Adc) : Nat := if a.entryLen = 5000 then 1000 else 10000

/-- The entry that runs ends: its result is available after its conversion; one that the settling of R54 overlaps leaves none,
and NEW 0. -/
def entryResult (n k : Nat) (c : Int) (sat again : Bool) (s : State) : State :=
  let a := adc s n
  let w := setBit (setBit (setBit (wInt c &&& 0xFFFF) 16 sat) 17 true) 18 again
  let r := (s.now + convLen a, k, if a.unsettled then setBit (rd s k) 17 false else w)
  let s := setAdc n { a with result := some r } s
  if sat && !a.unsettled then raise .adc n 1 s else s

/-- ENTRY_END (R55 to R58): the entry's code over its aperture, and the side of an excursion. -/
def execEntryEnd (n : Fin 32) (code : Int) (side : Fin 3) (s : State) : Host.Outcome State Fault Refusal :=
  .next (
    if !(live s .adc) || adcMode s n ≠ 2 then s else
    let s := storeResult n s
    let a := adc s n
    let c := match side.val with
      | 0 => clampInt (-32768) 32767 code
      | 1 => 32767
      | _ => -32768
    let sat := decide (side.val ≠ 0)
    match a.inj, a.reg with
    | some i, _ =>
      let s := upto (a.entryAt + a.entryLen) s
      advanceSeq n (entryResult n (rk .adc n (0x150 + 4 * i)) c sat false s)
    | none, some i =>
      let s := upto (a.entryAt + a.entryLen) s
      advanceSeq n (entryResult n (rk .adc n (0x100 + 4 * i)) c sat a.again s)
    | none, none => s)

/-- Writing SEQ_CTL with SW_START = 1 acts only as the software trigger, where that is the one selected (R56, R66). -/
def swStart (n : Nat) (s : State) : State :=
  if actf s (rk .adc n 0x080) 8 2 = 0 then regularTrigger n s else s

/-- SW_START (R66). -/
def execSwStart (m : Master) (n : Fin 32) (s : State) : Host.Outcome State Fault Refusal :=
  .next (byBus m .adc n 0x080 (fun s => swStart n s) s)

/-- CONVERTER_READY (R60). -/
def execConverterReady (n : Fin 32) (s : State) : Host.Outcome State Fault Refusal :=
  .next (
    match (adc s n).readyAt with
    | some t =>
      if !(live s .adc) then s else
      let s := onAdc n (fun a => { a with readyAt := none, prev := 0 }) (upto t s)
      raise .adc n 7 (wrb (rk .adc n 0x00C) 0 true s)
    | none => s)

/-- LP_SETTLED (R54). -/
def execLpSettled (n : Fin 32) (s : State) : Host.Outcome State Fault Refusal :=
  .next (
    match (adc s n).lpAt with
    | some t => if live s .adc then onAdc n (fun a => { a with lpAt := none }) (upto t s) else s
    | none => s)

/-- RESULT_READ (R66): a regular (0 to 15) or injected (16 to 19) result; its NEW bit clears. -/
def execResultRead (m : Master) (n : Fin 32) (i : Fin 20) (s : State) : Host.Outcome State Fault Refusal :=
  .next (readAt m .adc n (if i.val < 16 then 0x100 + 4 * i.val else 0x150 + 4 * (i.val - 16)) (fun s =>
    let k := rk .adc n (if i.val < 16 then 0x100 + 4 * i else 0x150 + 4 * (i - 16))
    let w := resultWord s n k
    let due := (adc s n).result.any fun r => r.2.1 = k && decide (r.1 ≤ s.now)
    let s := if due then onAdc n (fun a => { a with result := none }) s else s
    respond w (wr k (setBit w 17 false) s)) s)

end Sys2Proof.Machine
end

