-- ==== Sys2Proof/Machine/Grid.lean ====
section
/-! DEFINITION. Grid ports: the synchroniser, current synthesis, ride-through curves, coasting and re-lock, the contactor
sequence, and what the lanes read (R203 to R230, R375, R376). -/

namespace Sys2Proof.Machine

/-- Set a grid port. -/
def setGrid (g : Nat) (x : Grid) (s : State) : State := { s with grids := smSet grid0 s.grids g x }
/-- Change a grid port. -/
def onGrid (g : Nat) (f : Grid → Grid) (s : State) : State := setGrid g (f (grid s g)) s
/-- Key of a GRID register (R228). -/
def gridKey (g off : Nat) : Nat := rk .grid g off
/-- Raise a cause of a GRID page. -/
def raiseGrid (g k : Nat) (s : State) : State := raise .grid g k s
/-- A float register with 48 fraction bits. -/
def gridF (s : State) (g off : Nat) : Int := toFx48 (rd s (gridKey g off))
/-- CFG.CDOM. -/
def gridDom (s : State) (g : Nat) : Nat := rdf s (gridKey g 0x040) 4 5
/-- CFG.REFMODE. -/
def refMode (s : State) (g : Nat) : Nat := rdf s (gridKey g 0x040) 12 2
/-- FNOM in hertz. -/
def fnom (s : State) (g : Nat) : Nat := if rdb s (gridKey g 0x040) 10 then 60 else 50
/-- The converters VSRC names. -/
def vsrc (s : State) (g : Nat) : List Nat :=
  let w := rd s (gridKey g 0x044)
  [fld w 0 5, fld w 8 5, fld w 16 5]
/-- √2 with 48 fraction bits. -/
def root2 : Int := sqrt48 (2 * one48)
/-- √2·VNOM. -/
def vPeak (s : State) (g : Nat) : Int := fx root2 (gridF s g 0x048)
/-- √2·IRATED. -/
def iPeak (s : State) (g : Nat) : Int := fx root2 (gridF s g 0x04C)
/-- VFLOOR·√2·VNOM. -/
def vFloor (s : State) (g : Nat) : Int := fx (gridF s g 0x080) (vPeak s g)

/-- A trouble-log entry with given payload words; its CODE is left to the writer. -/
def logWith (page : Nat) (payload : List Word) (s : State) : State :=
  let (c, s) := draw s
  logIt page (fld c 0 8) payload s

/-! The contactor (R219 to R221) -/

/-- The SAFE_OUT channel of the port. -/
def gridSout (s : State) (g : Nat) : Nat := rdf s (gridKey g 0x040) 16 2
/-- Plumb lets the port's requests act on its channel. -/
def soutMine (s : State) (g : Nat) : Bool := (portOuts s g).contains (gridSout s g)
/-- Plumb reports the contactor closed (R391). -/
def contactor (s : State) (g : Nat) : Bool := soutMine s g && (sout s (gridSout s g)).st = .closed
/-- The close request: Plumb grants it or not. -/
def gridClose (g : Nat) (s : State) : State :=
  if soutMine s g then (soutGrant (gridSout s g) s).getD s else s

/-- Current references are in force: RUN or RELOCK (R218). -/
def currentEn (st : Nat) : Bool := st = 4 || st = 7

/-- The causes of TRIP_INFO. -/
def tripCause (g cause entry : Nat) (s : State) : State :=
  let s := incHeld (gridKey g 0x114) 0 16 (wr (gridKey g 0x110) (wNat (cause + 256 * entry)) s)
  let s := raiseGrid g 7 s
  if cause = 2 then raiseGrid g 8 s else if cause = 4 then raiseGrid g 9 s else s

/-- Enter a state (R219, R220): one trouble-log entry with the old state, the new state and the cause. -/
def gridTo (g st cause entry : Nat) (s : State) : State :=
  let old := (grid s g).st
  if old = st then s else
  let now := s.now
  let s := onGrid g (fun x => { x with st := st, holdAt := none, rsAt := none, confirm := none, moving := false,
                                       connReq := false, closeAt := (if st = 3 then now else x.closeAt), coastAt := (if st = 6 then now else x.coastAt),
                                       idr := (if currentEn st then x.idr else 0), iqr := (if currentEn st then x.iqr else 0) }) s
  let s := raiseGrid g 0 (logWith (pageNo .grid g) [wNat old, wNat st, wNat cause] s)
  let s := if st = 6 then raiseGrid g 4 s else if st = 7 then raiseGrid g 5 s else s
  let s := if st = 8 then tripCause g cause entry s else s
  if portHoldsOpen s g then portOpen g s else s

/-! The synchroniser (R205 to R209) -/

/-- What one update measures: the vector of R205. -/
def gridVector (va vb vc f : Int) (len : Nat) : Int × Int :=
  let x := fx f (secs48 len)
  let den := fx x twoPi48 / 2
  let gain := if den = 0 then one48 else div48 (sin48 (x / 2)) den
  let al := (2 * va - vb - vc) / 3
  let be := div48 (vb - vc) (sqrt48 (3 * one48))
  (div48 al gain, div48 be gain)

/-- Phase voltages from the averages (R203). -/
def gridVolts (s : State) (g : Nat) : Int × Int × Int :=
  let v := fun n => toFx48 (adc s n).set.value
  match vsrc s g with
  | [a, b, c] =>
    if rdb s (gridKey g 0x040) 9 then ((v a - v c) / 3, (v b - v a) / 3, (v c - v b) / 3)
    else (v a, v b, v c)
  | _ => (0, 0, 0)

/-- Updates in one nominal cycle: N = round(1/(FNOM·T)) (R207, R222). -/
def cycleLen (s : State) (g len : Nat) : Nat :=
  let f := fnom s g
  if len = 0 then 1 else max 1 ((2 * secs + f * len) / (2 * f * len))

/-- Mean of a list. -/
def mean48 (xs : List Int) : Int := if xs.isEmpty then 0 else xs.foldl (· + ·) 0 / (xs.length : Int)

/-- One update of the synchroniser (R206 to R208). `tn` is the length of the next window. The last results are the raw
angle and whether f was clamped. -/
def gridTrack (s : State) (g : Nat) (u : Int × Int) (len tn : Nat) (x : Grid) : Grid × Int × Bool :=
  let th := x.theta
  let (a1, b1) := rot48 (-th) u.1 u.2
  let (a2, b2) := rot48 (-2 * th) x.mnd x.mnq
  let (c1, d1) := rot48 th u.1 u.2
  let (c2, d2) := rot48 (2 * th) x.mpd x.mpq
  let dpd := a1 - a2
  let dpq := b1 - b2
  let dnd := c1 - c2
  let dnq := d1 - d2
  let t := secs48 len
  let alpha := one48 - expNeg48 (fx (fx (gridF s g 0x058) t) twoPi48)
  let mpd := x.mpd + fx alpha (dpd - x.mpd)
  let mpq := x.mpq + fx alpha (dpq - x.mpq)
  let mnd := x.mnd + fx alpha (dnd - x.mnd)
  let mnq := x.mnq + fx alpha (dnq - x.mnq)
  let mag := mag48 mpd mpq
  let eps := div48 dpq (max (max mag (vFloor s g)) 1)
  let fn : Int := fnom s g * one48
  let df := x.dint + fx (gridF s g 0x050) eps
  let f := fn + df
  let lo := gridF s g 0x05C
  let hi := gridF s g 0x060
  let clamped := decide (f < lo ∨ hi < f)
  let fc := clampInt lo hi f
  let dint := if clamped then x.dint else x.dint + fx (fx (gridF s g 0x054) t) eps
  let tol := sin48 (rdf s (gridKey g 0x064) 0 8 * one48 / 3600)
  let good := decide ((eps.natAbs : Int) ≤ tol) && !clamped
  let vp := max 1 (vPeak s g)
  let now := s.now
  ({ x with mpd := mpd, mpq := mpq, mnd := mnd, mnq := mnq, dint := dint, f := fc,
            theta := frac48 (th + fx fc (secs48 tn)),
            lockAt := (if good then (if x.lockAt.isNone then some now else x.lockAt) else none),
            vpos := div48 mag vp, vneg := div48 (mag48 mnd mnq) vp }, atan48 dpq dpd, clamped)

/-- FREQ, ROCOF and the histories (R207). -/
def gridFreq (s : State) (g n : Nat) (x : Grid) : Grid :=
  let fs := (x.f :: x.fs).take n
  let freq := mean48 fs
  let win := max 1 (rdf s (gridKey g 0x064) 24 4)
  let freqs := (freq :: x.freqs).take (15 * n + 1)
  let rocof := match freqs[win * n]? with
    | some old => div48 ((freq - old) * (fnom s g : Int)) (win * one48)
    | none => 0
  { x with fs := fs, freqs := freqs, rocof := rocof }

/-- FREQ in hertz. -/
def Grid.freq (x : Grid) : Int := x.freqs.headD 0

/-- The sliding RMS of the phases (R222): VRMS_MIN and VRMS_MAX. -/
def gridRms (s : State) (g n : Nat) (v : Int × Int × Int) (x : Grid) : Grid :=
  let sqs := ((fx v.1 v.1, fx v.2.1 v.2.1, fx v.2.2 v.2.2) :: x.sqs).take n
  let vn := max 1 (gridF s g 0x048)
  let r : List Int → Int := fun l => div48 (sqrt48 (mean48 l)) vn
  let a := r (sqs.map fun e => e.1)
  let b := r (sqs.map fun e => e.2.1)
  let c := r (sqs.map fun e => e.2.2)
  { x with sqs := sqs, vmin := min a (min b c), vmax := max a (max b c) }

/-! Ride-through curves (R223) -/

/-- The condition of an entry: it holds, and the quantity has returned past LEVEL by the hysteresis. -/
def curveCond (s : State) (g e : Nat) (x : Grid) : Bool × Bool :=
  let lv := gridF s g (0x200 + 8 * e)
  let vh := gridF s g 0x094
  let fh := gridF s g 0x098
  let roc : Int := x.rocof.natAbs
  match rdf s (gridKey g (0x204 + 8 * e)) 0 3 with
  | 1 => (decide (x.vmin < lv), decide (lv + vh ≤ x.vmin))
  | 2 => (decide (lv < x.vmax), decide (x.vmax ≤ lv - vh))
  | 3 => (decide (x.freq < lv), decide (lv + fh ≤ x.freq))
  | 4 => (decide (lv < x.freq), decide (x.freq ≤ lv - fh))
  | 5 => (decide (lv < roc), decide (roc ≤ lv - fh))
  | _ => (false, true)

/-- Update one entry: the length of the window adds to its timer from its condition until the quantity has returned; the
second result says that it starts to act. -/
def curveStep (s : State) (g e len : Nat) (x : Grid) : Grid × Bool :=
  let (c, back) := curveCond s g e x
  let run := (x.timers.find? fun t => t.1 = e).map (·.2)
  let drop := x.timers.filter fun t => t.1 ≠ e
  if back then ({ x with timers := drop, acting := setBit x.acting e false }, false)
  else if c || run.isSome then
    let t := run.getD 0 + len
    let act := decide (rdf s (gridKey g (0x204 + 8 * e)) 8 24 * 100 * usec ≤ t)
    let new := act && !bit x.acting e
    ({ x with timers := drop ++ [(e, t)], acting := setBit x.acting e act, rtLast := (if new then e else x.rtLast) }, new)
  else (x, false)

/-- ACTION of an entry. -/
def curveAction (s : State) (g e : Nat) : Nat := rdf s (gridKey g (0x204 + 8 * e)) 4 2
/-- The entries of an action that act. -/
def curvesActing (s : State) (g a : Nat) (x : Grid) : List Nat :=
  (List.range 32).filter fun e => bit x.acting e && curveAction s g e = a
/-- A cessation entry acts. -/
def ceaseActs (s : State) (g : Nat) (x : Grid) : Bool := !(curvesActing s g 1 x).isEmpty
/-- A trip entry acts. -/
def tripActs (s : State) (g : Nat) (x : Grid) : Bool := !(curvesActing s g 2 x).isEmpty

/-- All entries of a port. -/
def gridCurves (g len : Nat) (s : State) : State :=
  forEach (List.range 32) (fun e s =>
    if rdf s (gridKey g (0x204 + 8 * e)) 0 3 = 0 then s else
    let (x, new) := curveStep s g e len (grid s g)
    let s := setGrid g x s
    if new then raiseGrid g 3 s else s) s

/-! The shared angle (R375, R376) -/

/-- The shared angle at an instant, in turns. -/
def sharedAngle (s : State) (y : SynRec) (t : Nat) : Int :=
  let dt := datumSpan y.d0 (datumAt s t)
  let sec := dt * one48 / 16000000000
  (y.theta.toNat : Int) * 65536 + fx (toFx48 y.freq) sec

/-- A port may follow the shared angle now. -/
def mayFollow (s : State) (g : Nat) (x : Grid) (t : Nat) : Bool :=
  let cfg := rd s (rk .datum 0 0x0C0)
  match s.datum.syn with
  | none => false
  | some y =>
    bit cfg (4 + g) && datumValid s && y.present && decide (datumSpan y.d0 (datumNow s) ≤ fld cfg 16 16 * 16000000) &&
    (x.st = 4 || x.st = 5) &&
    decide ((wrap48 (sharedAngle s y t - x.theta)).natAbs ≤ (deg48 (fld cfg 8 8)).natAbs) &&
    !(bit cfg 0 && fld cfg 1 2 = g)

/-- SLEW in turns for a time (R226). -/
def slewStep (s : State) (g len : Nat) : Int := deg48 (max 1 (rdf s (gridKey g 0x074) 8 8)) * len / msec

/-- Update whether a port follows: a start or a stop moves theta_out. -/
def followStep (g t : Nat) (s : State) : State :=
  let x := grid s g
  let was := bit s.datum.follow g
  let may := mayFollow s g x t
  let x' := { x with moving := x.moving || was ≠ may }
  let s := setGrid g (if x.st = 4 || x.st = 5 then x' else { x with moving := false }) s
  let s := { s with datum := { s.datum with follow := setBit s.datum.follow g may } }
  if was ≠ may then raise .datum 0 9 s else s

/-- After theta_out has moved and the states are judged: a port that is no longer in RUN or CEASE stops following, and ACTIVE
shows a port that follows and whose move has ended (R375, R376). -/
def followShown (g : Nat) (s : State) : State :=
  let x := grid s g
  let was := bit s.datum.follow g
  let stays := was && (x.st = 4 || x.st = 5)
  let s := { s with datum := { s.datum with follow := setBit s.datum.follow g stays,
                                            active := setBit s.datum.active g (stays && !x.moving) } }
  if was && !stays then raise .datum 0 9 s else s

/-! States (R219, R224 to R226) -/

/-- The jump or return decision: DTHETA, and RELOCK or TRIPPED with cause JUMP. -/
def gridDecide (g : Nat) (d : Int) (s : State) : State :=
  let s := wr (gridKey g 0x104) (ofFx48 (d * 360)) s
  let acc := rdf s (gridKey g 0x074) 0 8
  if (d.natAbs : Int) ≤ deg48 acc then gridTo g 7 0 0 s else gridTo g 8 2 0 s

/-- Enter COAST at f_hold (R224).  DEDUCED: TRIP_INFO.CAUSE shows MEAS from the entry after four gaps, though no trip is
counted (log entry 25). -/
def gridCoast (g cause n : Nat) (s : State) : State :=
  let s := if cause = 7 then wr (gridKey g 0x110) 7 s else s
  let x := grid s g
  let back := rdf s (gridKey g 0x074) 24 2 * n
  let fh := x.freqs.getD back (x.freqs.getLastD x.f)
  onGrid g (fun x => { x with fHold := fh }) (gridTo g 6 cause 0 s)

/-- A time of `ms` milliseconds since an instant has passed. -/
def passedMs (s : State) (t : Option Nat) (ms : Nat) : Bool := t.any fun t => decide (t + ms * msec ≤ s.now)

/-- CTL.DISCONNECT takes the port to OFF (R219): the requests of R220, and no shared angle any more. -/
def gridLeave (g : Nat) (s : State) : State :=
  let s := gridTo g 0 0 0 s
  let s := if bit s.datum.follow g then raise .datum 0 9 s else s
  let s := { s with datum := { s.datum with follow := setBit s.datum.follow g false, active := setBit s.datum.active g false } }
  onGrid g (fun x => { x with locked := false, lockAt := none, lost := false, discReq := false, limited := false }) s

/-- The conditions of R219, in the order of its table; the first that holds wins. `jump` is the raw angle of a jump.  A trip of
more than one cause records DOMAIN before an opened contactor, since the open request that went out was the port's own. -/
def gridStates (g n : Nat) (jump : Option Int) (relocked : Bool) (s : State) : State :=
  let x := grid s g
  let so := (sout s (gridSout s g)).st
  let quiet := !(ceaseActs s g x) && !(tripActs s g x)
  let joined := decide (3 ≤ x.st ∧ x.st ≤ 7)
  let coastV := gridF s g 0x068
  let extOpen := if x.st = 3 then !(soutMine s g) || so = .open || so = .fault else !(contactor s g)
  let island := s.plumb.island.contains g
  let now := s.now
  let coastDone := x.st = 6 && decide (x.coastAt + rdf s (gridKey g 0x070) 0 16 * msec ≤ now)
  let acc := deg48 (rdf s (gridKey g 0x074) 0 8)
  if x.discReq then gridLeave g s
  else if joined && tripActs s g x then gridTo g 8 1 ((curvesActing s g 2 x).headD 0) s
  else if jump.any fun d => decide (acc < (d.natAbs : Int)) then gridDecide g (jump.getD 0) s
  else if joined && coastDone then gridTo g 8 3 0 s
  else if joined && x.lost then gridTo g 8 8 0 s
  else if joined && island then gridTo g 8 6 0 s
  else if joined && extOpen then gridTo g 8 5 0 s
  else if (x.st = 4 || x.st = 5 || x.st = 7) && decide (4 ≤ x.gaps) then gridCoast g 7 n s
  else if (x.st = 4 || x.st = 5 || x.st = 7) && decide (x.vpos < coastV) then gridCoast g 0 n s
  else match x.st, jump with
  | 4, some d | 5, some d => gridDecide g d s
  | 6, _ =>
    let ok := decide (coastV + gridF s g 0x06C ≤ x.vpos)
    let s := onGrid g (fun x => { x with confirm := (if ok then (if x.confirm.isNone then some now else x.confirm) else none) }) s
    let x := grid s g
    if passedMs s x.confirm (rdf s (gridKey g 0x070) 16 16) then gridDecide g (wrap48 (x.theta - x.out)) s else s
  | 7, _ => if relocked then gridTo g (if ceaseActs s g x then 5 else 4) 0 0 s else s
  | 4, none => if ceaseActs s g x then gridTo g 5 0 0 s else s
  | 5, none => if ceaseActs s g x then s else gridTo g 4 0 0 s
  | 1, _ =>
    let ok := x.locked && quiet
    let s := onGrid g (fun x => { x with holdAt := (if ok then (if x.holdAt.isNone then some now else x.holdAt) else none) }) s
    if passedMs s (grid s g).holdAt (rdf s (gridKey g 0x09C) 0 16) then gridTo g 2 0 0 s else s
  | 2, _ =>
    let s := gridClose g s
    let so := (sout s (gridSout s g)).st
    if soutMine s g && (so = .closing || so = .closed) then gridTo g 3 0 0 s
    else if !x.locked || !quiet then gridTo g 1 0 0 s
    else s
  | 3, _ =>
    if contactor s g then onGrid g (fun x => { x with ramp := 0 }) (gridTo g 4 0 0 s)
    else if x.closeAt + max 1 (rdf s (gridKey g 0x09C) 16 16) * msec ≤ now then gridTo g 8 4 0 s
    else s
  | 8, _ => if !(contactor s g) && (rdb s (gridKey g 0x040) 18 || x.connReq) then gridTo g 9 0 0 s else s
  | 9, _ =>
    let ok := decide (gridF s g 0x0C0 ≤ x.vmin ∧ x.vmax ≤ gridF s g 0x0C4 ∧ gridF s g 0x0C8 ≤ x.freq ∧ x.freq ≤ gridF s g 0x0CC)
    let s := onGrid g (fun x => { x with rsAt := (if ok then (if x.rsAt.isNone then some now else x.rsAt) else none) }) s
    if passedMs s (grid s g).rsAt (1000 * rdf s (gridKey g 0x0D0) 0 16) then gridTo g 1 0 0 s else s
  | _, _ => s

/-! Current synthesis (R213 to R217) -/

/-- A command in force for this update: 0 P, 1 Q, 2 id, 3 iq, 4 PF, 5 ISCALE. -/
def gridCmd (x : Grid) (j : Nat) : Int := toFx48 (x.cmd.getD j 0)

/-- The active power ceiling in W; none where there is none (R215): a PLIM of 0.0 is none, a published ceiling of 0.0 W is a
ceiling. -/
def gridCeiling (s : State) (g : Nat) : Option Int :=
  let p := gridF s g 0x090
  let q := max 0 (toFx48 (saddleP s))
  if inSaddle s then some (if p ≤ 0 then q else min p q) else if p ≤ 0 then none else some p

/-- id* and iq* of an update, in which the state was `old` before. The ramp of R217 runs on in COAST and RELOCK; where CEASE or
RELOCK gives way to RUN the value steps to the command. -/
def gridRefs (g len old : Nat) (s : State) : State :=
  let x := grid s g
  let mag := mag48 x.mpd x.mpq
  let vh := max 1 (max mag (vFloor s g))
  let mode := refMode s g
  let cap := gridCeiling s g
  let raw := if mode = 0 then gridCmd x 2 else gridCmd x 0
  let lim : Int → Int := fun v => match cap with
    | none => v
    | some c => lim48 (if mode = 0 then div48 (c * 2 / 3) vh else c) v
  let want := lim raw
  let rate := gridF s g 0x08C
  let full := if mode = 0 then iPeak s g else 3 * fx (gridF s g 0x048) (gridF s g 0x04C)
  let step := fx (fx rate full) (secs48 len)
  let ramps := x.st = 6 || x.st = 7 || (x.st = 4 && old ≠ 5 && old ≠ 7)
  let p := if ramps && decide (0 < rate) then x.ramp + lim48 step (want - x.ramp) else want
  let id := if mode = 0 then p else div48 (p * 2 / 3) vh
  let pf := gridCmd x 4
  let q := if mode = 2 then
      let m := div48 (fx p (sqrt48 (one48 - fx pf pf))) (max 1 pf.natAbs)
      if pf < 0 then -m else m
    else gridCmd x 1
  let iq := if mode = 0 then gridCmd x 3 else div48 (-q * 2 / 3) vh
  let dv := x.vpos - one48
  let db := gridF s g 0x088
  let k := gridF s g 0x084
  let boost := x.st = 4 && decide (0 < k) && decide (db < (dv.natAbs : Int))
  let extra := if boost then fx (fx k (if dv < 0 then dv + db else dv - db)) (iPeak s g) else 0
  let iq := iq + extra
  let il := if x.st = 7 then fx (gridF s g 0x078) (iPeak s g)
    else fx (fx (gridF s g 0x07C) (gridCmd x 5)) (iPeak s g)
  let react := boost || rdb s (gridKey g 0x040) 14
  let i1 := lim48 il (if react then iq else id)
  let i2 := lim48 (sqrt48 (fx il il - fx i1 i1)) (if react then id else iq)
  let id' := if react then i2 else i1
  let iq' := if react then i1 else i2
  let en := currentEn x.st
  let acts := en && (id' ≠ id || iq' ≠ iq)
  let s := setGrid g { x with idr := (if en then id' else 0), iqr := (if en then iq' else 0), ilim := il,
                              ramp := p, limited := acts } s
  if acts && !x.limited then raiseGrid g 6 s else s

/-! One update (R205 to R226) -/

/-- The averages of the window: a gap, a saturation, the length. -/
def gridInputs (s : State) (g : Nat) : Bool × Bool × Nat :=
  let sets := (vsrc s g).map fun n => (adc s n).set
  (!(sets.all fun x => x.valid), sets.any fun x => x.sat, (sets.head?.map (·.len)).getD 0)

/-- Where theta_out goes in this update, before the states are judged: the angle, and whether a re-lock has ended. -/
def gridAngle (s : State) (g tn : Nat) (x : Grid) (jump : Bool) : Int × Bool :=
  let adv := secs48 tn
  let open' := frac48 (x.out + fx x.f adv)
  match x.st with
  | 6 => (frac48 (x.out + fx x.fHold adv), false)
  | 7 =>
    let st := slewStep s g tn
    let out := frac48 (open' + lim48 st (wrap48 (x.theta - open')))
    (out, decide ((wrap48 (x.theta - out)).natAbs ≤ (deg48 (rdf s (gridKey g 0x074) 16 8)).natAbs))
  | 4 | 5 =>
    if jump then (open', false)
    else
      let mid := (dom s (gridDom s g)).start + tn / 2
      let target := match s.datum.syn with
        | some y => if bit s.datum.follow g then frac48 (sharedAngle s y mid) else x.theta
        | none => x.theta
      if x.moving then (frac48 (open' + lim48 (slewStep s g tn) (wrap48 (target - open'))), false) else (target, false)
  | _ => (x.theta, false)

/-- GRID_UPDATE (R205). -/
def gridUpdate (g : Nat) (s : State) : State :=
  let d := dom s (gridDom s g)
  let x := grid s g
  if x.st = 0 || !(live s .eng) || !(domRuns s (gridDom s g)) || !d.begun || x.upK = some d.k then s else
  let (gap, sat, len0) := gridInputs s g
  let len := if len0 = 0 then d.oldPer else len0
  let tn := d.next - d.start
  let n := cycleLen s g len
  let v := gridVolts s g
  let (y, raw, _) := if gap then ({ x with theta := frac48 (x.theta + fx x.f (secs48 tn)), gaps := x.gaps + 1 }, 0, false)
    else gridTrack s g (gridVector v.1 v.2.1 v.2.2 x.f len) len tn { x with gaps := 0 }
  let y := gridFreq s g n { y with upK := some d.k, len := len }
  let y := if gap then y else gridRms s g n v y
  let lockNow := passedMs s y.lockAt (rdf s (gridKey g 0x064) 8 16)
  let y := { y with locked := lockNow, satEx := sat }
  let s := setGrid g y s
  let s := if gap then raiseGrid g 10 (incHeld (gridKey g 0x114) 16 16 s) else s
  let s := if sat && !x.satEx then raiseGrid g 11 s else s
  let s := if lockNow && !x.locked then raiseGrid g 1 s else if !lockNow && x.locked then raiseGrid g 2 s else s
  let s := gridCurves g len s
  let det := rdf s (gridKey g 0x074) 26 6
  let jump := !gap && det ≠ 0 && (x.st = 4 || x.st = 5) && decide (deg48 det < (raw.natAbs : Int))
  let s := if jump then wr (gridKey g 0x104) (ofFx48 (raw * 360)) s else s
  let s := followStep g (d.start + tn / 2) s
  let (out, relocked) := gridAngle s g tn (grid s g) jump
  let moved := (grid s g).moving && decide (wrap48 (out - (gridAngle s g tn { grid s g with moving := false } false).1) = 0)
  let s := onGrid g (fun x => { x with out := out, moving := x.moving && !moved }) s
  let s := followShown g (gridStates g n (if jump then some raw else none) relocked s)
  let s := onGrid g (fun x => { x with lost := false }) s
  if (grid s g).st = 0 then s else gridRefs g len x.st s

/-! What the lanes read (R210, R211) -/

/-- The angle of theta_out and of the synchroniser at an instant `t` steps after the centre of the next window. -/
def gridPredict (s : State) (g : Nat) (ac t : Nat) : Int × Int :=
  let x := grid s g
  let th := frac48 (x.theta + fx x.f (secs48 t))
  let own := frac48 (x.out + fx (if x.st = 6 then x.fHold else x.f) (secs48 t))
  let out := match s.datum.syn with
    | some y => if bit s.datum.active g && datumValid s then frac48 (sharedAngle s y ac) else own
    | none => own
  (out, th)

/-- Finalise the port's values at the boundary that starts a period of `per`, after one of `old` (R210).  The angles held are
those of the centre of window k moved on by the length of window k+1 (R207), so that they go on by the rest of the age. -/
def gridPorts (s : State) (g start per old : Nat) : List Word :=
  let x := grid s g
  if x.st = 0 then [] else
  let age := (x.len + 2 * old + 3 * per) / 2
  let (o, th) := gridPredict s g (start + per + per / 2) (age - old)
  let ph : Int → Int := fun a => fx x.idr (cos48 a) - fx x.iqr (sin48 a)
  let third := one48 / 3
  let (p1, p2) := rot48 th x.mpd x.mpq
  let (n1, n2) := rot48 (-th) x.mnd x.mnq
  let al := p1 + n1
  let be := p2 + n2
  let h := fx be (sqrt48 (3 * one48)) / 2
  let fq := if x.st = 6 then ofFx48 x.fHold
    else match s.datum.syn with
      | some y => if bit s.datum.follow g && datumValid s then y.freq else ofFx48 x.f
      | none => ofFx48 x.f
  let b : Bool → Nat → Nat := fun c v => if c then v else 0
  let flags := b (currentEn x.st) 1 + b x.locked 2 + b (x.st = 6) 4 + b (x.st = 7) 8 + b (x.st = 5) 16 + b x.limited 32 +
    b (0 < x.gaps) 64 + b (contactor s g) 128
  [ofFx48 (ph o), ofFx48 (ph (o - third)), ofFx48 (ph (o + third)), ofFx48 (sin48 o), ofFx48 (cos48 o), ofFx48 o, fq,
   ofFx48 x.vpos, ofFx48 x.vneg, ofFx48 (mag48 x.mpd x.mpq)] ++
  [ofFx48 al, ofFx48 (-al / 2 + h), ofFx48 (-al / 2 - h), ofFx48 x.idr, ofFx48 x.iqr, ofFx48 x.ilim, wNat x.st, wNat flags,
   ofFx48 x.rocof, ofFx48 (secs48 age)]

/-- A commit of the commands is legal (R212). -/
def gridLegal (s : State) (g : Nat) : Bool :=
  let pf := absF (rd s (gridKey g 0x0B0))
  let sc := rd s (gridKey g 0x0B4)
  leF 0x3DCCCCCD#32 pf && leF pf oneF && leF zeroF sc && leF sc oneF

/-- A boundary of a domain at a tick: predictions are finalised, the commands in force are kept for the update that
follows, and due groups commit (R20, R210, R212). `fresh` marks a domain's first boundary, `ended` is the start of the period
that ends. -/
def gridBoundary (d tk ended : Nat) (fresh : Bool) (s : State) : State :=
  if !(live s .eng) then s else
  let x := dom s d
  let old := x.start - x.prev
  let s := forEach ((List.range 4).filter fun g => gridDom s g = d && ((grid s g).st ≠ 0 || !(grid s g).ports.isEmpty)) (fun g s =>
    let ps := gridPorts s g x.start (x.next - x.start) old
    let cmd := (List.range 6).map fun j => inForce s (gridKey g (0x0A0 + 4 * j))
    let out := (gridPredict s g x.start (old / 2)).1
    let y := grid s g
    let s := setGrid g { y with ports := ps, cmd := cmd, lost := y.lost || (fresh && decide (3 ≤ y.st ∧ y.st ≤ 7)) } s
    if y.st = 0 then s else wr (gridKey g 0x0F8) (ofFx48 out) s) s
  forEach (dueGroups s .grid d tk) (fun e s =>
    if gridLegal s e.1 then
      let split := isSplit s .grid e.1 0 ended
      let s := closeGroup .grid e.1 0 (commitRegs .grid e.1 0 s)
      if split then wrb (rk .grid e.1 0x024) 8 true s else s
    else raiseGrid e.1 12 (refuseGroup .grid e.1 0 s)) s

/-! The page -/

/-- CONNECT is refused in OFF (R204, R213). -/
def connectBad (s : State) (g : Nat) : Bool :=
  let pos : Nat → Bool := fun off => finF (rd s (gridKey g off)) && ltF zeroF (rd s (gridKey g off))
  let fn := ofIntF (fnom s g)
  decide (23 < gridDom s g) || (vsrc s g).any (fun n => !(adcBound s n (gridDom s g))) || !pos 0x048 || !pos 0x04C ||
    !(ltF (rd s (gridKey g 0x05C)) fn) || !(ltF fn (rd s (gridKey g 0x060))) ||
    !(finF (rd s (gridKey g 0x050))) || !(finF (rd s (gridKey g 0x054))) || !pos 0x058 || refMode s g = 3

/-- Write GRIDg.CTL (R204, R219): CONNECT moves a port in OFF; the other writes are conditions of the next update. -/
def writeGridCtl (g : Nat) (v : Word) (s : State) : State :=
  let s := if !bit v 0 then s
    else match (grid s g).st with
    | 0 =>
      if connectBad s g then raiseGrid g 12 s
      else
        let cmd := (List.range 6).map fun j => inForce s (gridKey g (0x0A0 + 4 * j))
        let f := fnom s g * one48
        gridTo g 1 0 0 (onGrid g (fun x => { f := f, cmd := cmd, rtLast := x.rtLast }) s)
    | 8 => onGrid g (fun x => { x with connReq := true }) s
    | _ => raiseGrid g 12 s
  if bit v 1 && (grid s g).st ≠ 0 then onGrid g (fun x => { x with discReq := true }) s else s

/-- A guarded write of a GRID register is accepted: only in OFF (R203). -/
def gridWriteOk (s : State) (g : Nat) : Bool := (grid s g).st = 0

/-- Write a curve entry: its timer is reset (R223). -/
def writeCurve (g off : Nat) (v : Word) (s : State) : State :=
  let e := (off - 0x200) / 8
  let s := plainWrite (gridKey g off) v s
  onGrid g (fun x => { x with timers := x.timers.filter fun t => t.1 ≠ e, acting := setBit x.acting e false }) s

/-- Write a GRID register that is not shadowed. -/
def writeGrid (g off : Nat) (v : Word) (s : State) : State :=
  if off = 0x0E0 then writeGridCtl g v s
  else if 0x200 ≤ off ∧ off < 0x300 then writeCurve g off v s
  else plainWrite (gridKey g off) v s

/-- STAT (R229). -/
def gridStat (s : State) (g : Nat) : Word :=
  let x := grid s g
  let b : Bool → Nat → Nat := fun c v => if c then v else 0
  wNat (x.st + b x.locked 16 + b (ceaseActs s g x) 32 + b (contactor s g) 64 + b x.limited 128 + 256 * x.rtLast)

/-- A read of a GRID register that mirrors hidden state (R228). -/
def readGrid (s : State) (g off : Nat) : Option Word :=
  let x := grid s g
  match off with
  | 0x00C => some (gridStat s g &&& 0xFF)
  | 0x0E4 => some (gridStat s g)
  | 0x0E8 => some (ofFx48 x.freq)
  | 0x0EC => some (ofFx48 x.rocof)
  | 0x0F0 => some (ofFx48 x.vpos)
  | 0x0F4 => some (ofFx48 x.vneg)
  | 0x0FC => some (ofFx48 x.vmin)
  | 0x100 => some (ofFx48 x.vmax)
  | 0x108 => some (ofFx48 x.idr)
  | 0x10C => some (ofFx48 x.iqr)
  | _ => none

/-- A grid input port (R210). -/
def gridPort (s : State) (g j : Nat) : Word := (grid s g).ports.getD j 0

/-- PD_ENG is switched off: every port sends its open request and stops (R227). -/
def gridsOff (s : State) : State :=
  let s := forEach (List.range 4) portOpen s
  let s := if s.datum.follow = 0 then s else raise .datum 0 9 s
  { s with grids := [], datum := { s.datum with follow := 0, active := 0 } }

/-- CURVE_ENTRY_WRITE (R223). -/
def execCurveEntryWrite (m : Master) (g : Fin 4) (e : Fin 32) (ecfg : Bool) (v : Word) (s : State) :
    Host.Outcome State Fault Refusal :=
  .next (byBus m .grid g.val (0x200 + 8 * e.val + (if ecfg then 4 else 0)) (fun s => writeCurve g.val (0x200 + 8 * e.val + (if ecfg then 4 else 0)) v s) s)

end Sys2Proof.Machine
end

