-- ==== Sys2Proof/Machine/Traverse.lean ====
section
/-! DEFINITION. The Traverse engine's pass programs (R76 to R90): operation format, operand forms, the decode check, the
operation set and the timing of a pass, as a machine of its own that runs one program on latched inputs. -/

namespace Sys2Proof.Machine

/-- An operation's fields (R76). -/
structure Op where
  opc : Nat
  d   : Nat
  gen : Bool
  gq  : Nat
  gs  : Bool
  a   : Nat
  b   : Nat
  c   : Nat
deriving DecidableEq, Repr

/-- The fields of a 64-bit operation (R76). -/
def opOf (w : Nat) : Op :=
  { opc := w / 2 ^ 58 % 64, d := w / 2 ^ 52 % 64, gen := decide (w / 2 ^ 51 % 2 = 1), gq := w / 2 ^ 49 % 4,
    gs := decide (w / 2 ^ 48 % 2 = 1), a := w / 2 ^ 32 % 65536, b := w / 2 ^ 16 % 65536, c := w % 65536 }

/-- What an opcode's operand fields are: unused, a source, a predicate, a state word to store to, an output port. -/
inductive Use where
  | unused
  | src
  | pred
  | store
  | port
deriving DecidableEq, Repr

/-- What an opcode writes. -/
inductive Dest where
  | none
  | reg
  | pair
  | pred
deriving DecidableEq, Repr

/-- The row of an opcode (R83): destination, operands A, B and C, latency. -/
structure OpRow where
  dest : Dest
  a    : Use
  b    : Use
  c    : Use
  lat  : Nat
deriving DecidableEq, Repr

/-- The operation set (R83). -/
def opRow : Nat → Option OpRow
  | 0x00 => some ⟨.none, .unused, .unused, .unused, 1⟩
  | 0x01 => some ⟨.reg, .src, .unused, .unused, 1⟩
  | 0x02 => some ⟨.reg, .src, .src, .unused, 4⟩
  | 0x03 => some ⟨.reg, .src, .src, .unused, 4⟩
  | 0x04 => some ⟨.reg, .src, .src, .unused, 4⟩
  | 0x05 => some ⟨.reg, .src, .src, .src, 4⟩
  | 0x06 => some ⟨.reg, .src, .src, .src, 4⟩
  | 0x07 => some ⟨.reg, .src, .unused, .unused, 1⟩
  | 0x08 => some ⟨.reg, .src, .unused, .unused, 1⟩
  | 0x09 => some ⟨.reg, .src, .src, .unused, 2⟩
  | 0x0A => some ⟨.reg, .src, .src, .unused, 2⟩
  | 0x0B => some ⟨.reg, .src, .src, .src, 2⟩
  | 0x0C => some ⟨.reg, .src, .src, .pred, 1⟩
  | 0x0D => some ⟨.reg, .src, .unused, .unused, 2⟩
  | 0x0E => some ⟨.reg, .src, .unused, .unused, 8⟩
  | 0x0F => some ⟨.reg, .src, .unused, .unused, 8⟩
  | 0x10 => some ⟨.reg, .src, .unused, .unused, 10⟩
  | 0x11 => some ⟨.reg, .src, .src, .unused, 14⟩
  | 0x12 => some ⟨.pair, .src, .unused, .unused, 8⟩
  | 0x13 => some ⟨.reg, .src, .src, .unused, 12⟩
  | 0x14 => some ⟨.reg, .src, .unused, .unused, 2⟩
  | 0x15 => some ⟨.reg, .src, .unused, .unused, 2⟩
  | 0x16 => some ⟨.reg, .src, .unused, .unused, 2⟩
  | 0x17 => some ⟨.reg, .src, .src, .unused, 1⟩
  | 0x18 => some ⟨.reg, .src, .src, .unused, 1⟩
  | 0x19 => some ⟨.reg, .src, .src, .unused, 1⟩
  | 0x1A => some ⟨.reg, .src, .src, .unused, 1⟩
  | 0x1B => some ⟨.reg, .src, .src, .unused, 1⟩
  | 0x1C => some ⟨.reg, .src, .src, .unused, 1⟩
  | 0x20 => some ⟨.pred, .src, .src, .unused, 2⟩
  | 0x21 => some ⟨.pred, .src, .src, .unused, 2⟩
  | 0x22 => some ⟨.pred, .src, .src, .unused, 2⟩
  | 0x23 => some ⟨.pred, .src, .src, .unused, 2⟩
  | 0x24 => some ⟨.pred, .src, .src, .unused, 2⟩
  | 0x25 => some ⟨.pred, .pred, .pred, .unused, 1⟩
  | 0x26 => some ⟨.pred, .pred, .pred, .unused, 1⟩
  | 0x27 => some ⟨.pred, .pred, .unused, .unused, 1⟩
  | 0x30 => some ⟨.none, .store, .src, .unused, 1⟩
  | 0x31 => some ⟨.none, .port, .src, .unused, 1⟩
  | 0x32 => some ⟨.none, .src, .unused, .unused, 1⟩
  | _ => none

/-- K0 to K15: the single-precision values nearest to the constants of R78. -/
def floatK : List Word := [
  0x00000000#32, 0x3F800000#32, 0xBF800000#32, 0x3F000000#32, 0x40000000#32, 0x3E800000#32, 0x3EAAAAAB#32, 0x3F2AAAAB#32,
  0x3F13CD3A#32, 0x3F5DB3D7#32, 0x3FB504F3#32, 0x3F3504F3#32, 0x40490FDB#32, 0x40C90FDB#32, 0x3E22F983#32, 0x3DCCCCCD#32]

/-- The input ports (R81, R117, R155, R210, R255, R271, R311). -/
def inPort (p : Nat) : Bool :=
  if p < 0x1100 then decide (0x1000 ≤ p ∧ p % 8 ≤ 5)
  else if p < 0x1380 then true
  else if p < 0x1400 then false
  else if p < 0x1500 then decide (p % 64 < 20)
  else if p < 0x1600 then decide (p % 64 < 16)
  else if p < 0x1640 then decide (p % 8 < 5)
  else if p < 0x1700 then false
  else if p < 0x1708 then true
  else if p < 0x1800 then false
  else if p < 0x18D8 then true
  else if p < 0x1A00 then false
  else if p < 0x1A80 then decide (p % 32 ≠ 7)
  else if p < 0x1AE0 then true
  else if p < 0x1B00 then false
  else decide (p < 0x1D00)

/-- The output ports that a lane may name (R82, R118, R154, R184, R212, R258, R277, R238). -/
def outPort (lane p : Nat) : Bool :=
  if p < 0x2000 then false
  else if p < 0x2300 then decide (p % 8 < 4)
  else if p < 0x23C0 then true
  else if p < 0x2400 then false
  else if p < 0x2440 then decide (p % 16 < 6)
  else if p < 0x2480 then decide (p % 16 = 0)
  else if p < 0x2498 then true
  else if p < 0x2500 then false
  else if p < 0x2540 then decide (p % 8 < 4)
  else if p = 0x2540 then true
  else decide (0x2600 + 16 * lane ≤ p ∧ p < 0x2610 + 16 * lane)

/-- Output ports of float kind (R92, R118, R154, R184, R212, R258, R277). -/
def outFloat (p : Nat) : Bool :=
  if p < 0x2300 then decide (p % 8 ≠ 3) else decide (p < 0x2540)

/-- A source form (R77). -/
def srcForm (cvalid svalid : Nat → Bool) (x : Nat) : Bool :=
  if x < 0x60 then true
  else if 0x1000 ≤ x ∧ x < 0x2000 then inPort x
  else if 0x4000 ≤ x ∧ x < 0x8000 then cvalid (x / 1024 % 16) && decide (x % 1024 ≤ 1021)
  else if 0x8000 ≤ x ∧ x < 0xC000 then svalid (x / 1024 % 16) && decide (x % 1024 ≤ 1021)
  else false

/-- An operand field is valid for its use. -/
def useOk (lane : Nat) (cvalid svalid : Nat → Bool) (u : Use) (x : Nat) : Bool :=
  match u with
  | .unused => decide (x = 0)
  | .src => srcForm cvalid svalid x
  | .pred => decide (0xF000 ≤ x ∧ x ≤ 0xF003)
  | .store => decide (0x8000 ≤ x ∧ x < 0xC000) && svalid (x / 1024 % 16) && decide (x % 1024 ≤ 1021)
  | .port => decide (0x2000 ≤ x ∧ x < 0x2800) && outPort lane x

/-- The decode check of one operation (R76, R77, R97). -/
def opOk (lane : Nat) (cvalid svalid : Nat → Bool) (o : Op) : Bool :=
  match opRow o.opc with
  | none => false
  | some r =>
    useOk lane cvalid svalid r.a o.a && useOk lane cvalid svalid r.b o.b && useOk lane cvalid svalid r.c o.c &&
    (o.gen || (decide (o.gq = 0) && !o.gs)) &&
    (match r.dest with
     | .none => decide (o.d = 0)
     | .reg => true
     | .pair => decide (o.d % 2 = 0 ∧ o.d < 63)
     | .pred => decide (o.d < 4))

/-! Values within a bound (R83): the choice inside it is a free value (log entry 7) -/

/-- The magnitude of one unit in the last place of a normal value. -/
def ulpOf (w : Word) : FVal := .num false 1 (((fld w 23 8 : Nat) : Int) - 150)

/-- `r`, moved by one unit where the free choice says so and `ok` admits the result. -/
def within1 (code : Nat) (a r : Word) (ok : Word → Bool) : Word :=
  let k := Config.approxOffset code a.toNat 0
  let c := if 0 < k then r + 1 else if k < 0 then r - 1 else r
  if ok c then c else r

/-- 1/A within 1 ulp (R83). -/
def rcpF (a : Word) : Word :=
  let r := divF oneF a
  if !(finF r) || !(finF a) || eqF r zeroF then r else
  within1 0x0E a r fun c =>
    finF c && fLe (fAbs (fSub (fMul (f32 c) (f32 a)) (f32 oneF))) (fAbs (fMul (ulpOf c) (f32 a)))

/-- 1/√A within 1 ulp (R83). -/
def rsqF (a : Word) : Word :=
  let r := toF32 (fDiv (f32 oneF) (fSqrt (f32 a)))
  if !(finF r) || !(finF a) || eqF r zeroF then r else
  within1 0x0F a r fun c =>
    let lo := fSub (f32 c) (ulpOf c)
    let hi := fAdd (f32 c) (ulpOf c)
    finF c && fLe (fMul (fMul lo lo) (f32 a)) (f32 oneF) && fLe (f32 oneF) (fMul (fMul hi hi) (f32 a))

/-- A 48-bit fixed-point value as single precision, with an error of at most 2^−22 in all (R83). -/
def near22 (code : Nat) (a b : Word) (x : Int) : Word :=
  let w := ofFx48 (x + clampInt (-256) 256 (Config.approxOffset code a.toNat b.toNat) * 2 ^ 18)
  if (toFx48 w - x).natAbs ≤ 2 ^ 26 - 2 ^ 8 then w else ofFx48 x

/-- sin(2πA) and cos(2πA) (R83). -/
def sincosF (a : Word) : Word × Word :=
  if !(finF a) then (nanF, nanF) else
  let x := toFx48 a
  (near22 0x12 a 0 (sin48 x), near22 0x12 a 1 (cos48 x))

/-- The exponent of a value: it lies from 2^e to below 2^(e+1); none for zero. -/
def magExp : FVal → Option Int
  | .num _ m e => if m = 0 then none else some (e + m.log2)
  | _ => none

/-- Two values scaled alike, the larger of magnitude 1 to 2, with 48 fraction bits; an infinity against a finite value leaves
only the direction (R84). -/
def scaled48 (a b : FVal) : Int × Int :=
  match a, b with
  | .inf s, .inf t => (sgn s (2 ^ 48), sgn t (2 ^ 48))
  | .inf s, _ => (sgn s (2 ^ 48), 0)
  | _, .inf t => (0, sgn t (2 ^ 48))
  | a, b =>
    let k : Int := match magExp a, magExp b with
      | some x, some y => max x y
      | some x, none => x
      | none, some y => y
      | none, none => 0
    (fFloor (fScale (48 - k) a), fFloor (fScale (48 - k) b))

/-- The angle of (b, a) in turns, in (-1/2, 1/2], with 48 fraction bits; on the negative axis, -0.0 included, it is 1/2. -/
def angle48 (a b : FVal) : Int :=
  let (y, x) := scaled48 a b
  if y = 0 then
    let neg := match b with
      | .num t _ _ => t
      | .inf t => t
      | .nan => false
    if neg then 2 ^ 47 else 0
  else atan48 y x

/-- atan2(A, B)/(2π) in turns (R83, R84); the bound's other values stay in (-0.5, 0.5]. -/
def atan2F (a b : Word) : Word :=
  let u := f32 a
  let v := f32 b
  if u = .nan || v = .nan then nanF else
  let w := near22 0x13 a b (angle48 u v)
  if ltF 0x3F000000#32 w then 0x3F000000#32 else if leF w 0xBF000000#32 then 0xBEFFFFFF#32 else w

/-- Where IEEE 754 leaves a choice between two results, the choice is free. -/
def eitherF (code : Nat) (a b x y : Word) : Word :=
  if Config.approxOffset code a.toNat b.toNat % 2 = 0 then x else y

/-- A value as a floating-point operation passes it on: subnormals flushed, one NaN (R84). -/
def canonF (a : Word) : Word := toF32 (f32 a)

/-- A is not a number. -/
def isNaNF (a : Word) : Bool := decide (f32 a = .nan)

/-- min(A, B): with a NaN operand, and between zeros of unlike sign, IEEE 754 leaves a choice. -/
def minOp (a b : Word) : Word :=
  if isNaNF a || isNaNF b then eitherF 0x09 a b nanF (if isNaNF a then canonF b else canonF a)
  else if ltF a b then canonF a else if ltF b a then canonF b else eitherF 0x09 a b (canonF a) (canonF b)

/-- max(A, B), likewise. -/
def maxOp (a b : Word) : Word :=
  if isNaNF a || isNaNF b then eitherF 0x0A a b nanF (if isNaNF a then canonF b else canonF a)
  else if ltF b a then canonF a else if ltF a b then canonF b else eitherF 0x0A a b (canonF a) (canonF b)

/-- A − floor(A) (R83); floor(−0.0) is −0.0, so that a zero of either sign gives +0.0 (R84). -/
def fracF (a : Word) : Word :=
  if eqF a zeroF then zeroF else if finF a then toF32 (fSub (f32 a) (fInt (fFloor (f32 a)) 0)) else nanF

/-- A as the nearest signed integer, ties to even, saturated; NaN gives 0 (R83). -/
def ftoiF (a : Word) : Word :=
  match f32 a with
  | .nan => 0
  | .inf n => if n then 0x80000000#32 else 0x7FFFFFFF#32
  | v => wInt (clampInt (-2147483648) 2147483647 (fRound v))

/-- The register result of an operation on operand values (R83). -/
def aluReg (opc : Nat) (a b c : Word) (p : Bool) : Word :=
  match opc with
  | 0x01 => a
  | 0x02 => addF a b
  | 0x03 => subF a b
  | 0x04 => mulF a b
  | 0x05 => fmaF a b c
  | 0x06 => fmaF (negF a) b c
  | 0x07 => absF a
  | 0x08 => negF a
  | 0x09 => minOp a b
  | 0x0A => maxOp a b
  | 0x0B => minOp (maxOp a b) c
  | 0x0C => if p then a else b
  | 0x0D => fracF a
  | 0x0E => rcpF a
  | 0x0F => rsqF a
  | 0x10 => sqrtF a
  | 0x11 => divF a b
  | 0x12 => (sincosF a).1
  | 0x13 => atan2F a b
  | 0x14 => ofIntF a.toInt
  | 0x15 => ofIntF a.toNat
  | 0x16 => ftoiF a
  | 0x17 => a + b
  | 0x18 => a - b
  | 0x19 => a &&& b
  | 0x1A => a ||| b
  | 0x1B => a ^^^ b
  | 0x1C => a >>> (b.toNat % 32)
  | _ => 0

/-- The predicate result of an operation (R83). -/
def aluPred (opc : Nat) (a b : Word) (p q : Bool) : Bool :=
  match opc with
  | 0x20 => ltF a b
  | 0x21 => leF a b
  | 0x22 => eqF a b
  | 0x23 => !(eqF a b)
  | 0x24 => decide (a &&& b ≠ 0)
  | 0x25 => p && q
  | 0x26 => p || q
  | 0x27 => !p
  | _ => false

/-- What a pass reads: the ports latched at pass start, the tiles of the slots, and engine memory (R80). -/
structure PassEnv where
  inp  : Nat → Word
  cmap : Nat → Nat
  smap : Nat → Nat
  mem  : Nat → Nat → Word

/-- An OUT of a pass: operation index, issue cycle, port and value. -/
structure OutW where
  idx   : Nat
  cycle : Nat
  port  : Nat
  val   : Word
deriving DecidableEq, Repr

/-- A pass as it runs: registers, predicates, ready cycles (V0 to V63 as 0 to 63, Q0 to Q3 as 64 to 67), the divider, the
last issue, the cycle by which all has retired, the store buffer, OUT writes, EVT codes and the first NAN cause. -/
structure PassM where
  v    : List (Nat × Word) := []
  q    : List (Nat × Bool) := []
  rdy  : List (Nat × Nat) := []
  div  : Nat := 0
  next : Nat := 0
  last : Nat := 0
  sts  : List (Nat × Word) := []
  outs : List OutW := []
  evts : List Nat := []
  nan  : Option Nat := none
deriving DecidableEq, Repr

/-- A register of a pass. -/
def PassM.reg (m : PassM) (i : Nat) : Word := smGet (smConst 0) m.v i
/-- A predicate of a pass. -/
def PassM.pred (m : PassM) (i : Nat) : Bool := smGet (smConst false) m.q i

/-- The value of a source operand (R77, R80). A state word the pass stored to reads as stored. A slot that BANKb_MASK does not
name, which only a program that no verification passed can name, is the tile that its CMAP or SMAP field holds.  DESIGN CHOICE
(log entry 61). -/
def PassM.src (e : PassEnv) (m : PassM) (x : Nat) : Word :=
  if x < 0x40 then m.reg x
  else if x < 0x50 then floatK.getD (x - 0x40) 0
  else if x < 0x60 then bitw (x - 0x50)
  else if x < 0x2000 then e.inp x
  else if x < 0x8000 then e.mem (e.cmap (x / 1024 % 16)) (x % 1024)
  else
    let t := e.smap (x / 1024 % 16)
    smGet (fun _ => e.mem t (x % 1024)) m.sts (t * 1024 + x % 1024)

/-- Registers and predicates an operation waits for (R86): sources, guard and destinations. -/
def opWaits (o : Op) (r : OpRow) : List Nat :=
  let s : Use → Nat → List Nat := fun u x => match u with
    | .src => if x < 0x40 then [x] else []
    | .pred => [64 + x % 4]
    | _ => []
  s r.a o.a ++ s r.b o.b ++ s r.c o.c ++ (if o.gen then [64 + o.gq] else [])

/-- Registers and predicates an operation writes. -/
def opDests (o : Op) (r : OpRow) : List Nat :=
  match r.dest with
  | .none => []
  | .reg => [o.d]
  | .pair => [o.d, o.d + 1]
  | .pred => [64 + o.d]

/-- Issue and execute operation `i` (R83 to R86); DESIGN CHOICE: one whose opcode the table does not list has no effect and
takes no cycle (log entry 61). -/
def PassM.step (e : PassEnv) (m : PassM) (i : Nat) (o : Op) : PassM :=
  match opRow o.opc with
  | none => m
  | some r =>
    let ds := opDests o r
    let t0 := (opWaits o r ++ ds).foldl (fun t x => max t (smGet (smConst 0) m.rdy x)) m.next
    let t := if o.opc = 0x11 then max t0 m.div else t0
    let m := { m with div := (if o.opc = 0x11 then t + 14 else m.div), next := t + 1, last := max m.last (t + r.lat),
                      rdy := smSetAll (smConst 0) m.rdy (ds.map fun x => (x, t + r.lat)) }
    if o.gen && m.pred o.gq ≠ o.gs then m else
    let a := if r.a = .src then PassM.src e m o.a else 0
    let b := if r.b = .src then PassM.src e m o.b else 0
    let c := if r.c = .src then PassM.src e m o.c else 0
    let pa := m.pred (o.a % 4)
    let pb := m.pred (o.b % 4)
    let pc := m.pred (o.c % 4)
    match r.dest with
    | .reg => { m with v := smSet (smConst 0) m.v o.d (aluReg o.opc a b c pc) }
    | .pair =>
      let (x, y) := sincosF a
      { m with v := smSet (smConst 0) (smSet (smConst 0) m.v o.d x) (o.d + 1) y }
    | .pred => { m with q := smSet (smConst false) m.q o.d (aluPred o.opc a b pa pb) }
    | .none =>
      match o.opc with
      | 0x30 => { m with sts := smPut (e.smap (o.a / 1024 % 16) * 1024 + o.a % 1024) b m.sts }
      | 0x31 =>
        let bad := outFloat o.a && !(finF b)
        { m with outs := m.outs ++ [⟨i, t, o.a, b⟩],
                 nan := (if bad && m.nan.isNone then some i else m.nan) }
      | 0x32 => { m with evts := m.evts ++ [fld a 0 8] }
      | _ => m

/-- Run a program from operation `i` on. -/
def PassM.run (e : PassEnv) : List Op → Nat → PassM → PassM
  | [], _, m => m
  | o :: os, i, m => PassM.run e os (i + 1) (PassM.step e m i o)

end Sys2Proof.Machine
end

