-- ==== Sys2Proof/Machine/Lanes.lean ====
section
/-! DEFINITION. Engine lanes (R68 to R107): tiles and their checks, bus access to engine memory, program banks, the shared
verifier and swaps. Passes run in Passes.lean. -/

namespace Sys2Proof.Machine

/-- Default of a lane. -/
def lane0 (_ : Nat) : Lane := {}
/-- A lane. -/
def lane (s : State) (n : Nat) : Lane := smGet lane0 s.lanes n
/-- Set a lane. -/
def setLane (n : Nat) (x : Lane) (s : State) : State := { s with lanes := smSet lane0 s.lanes n x }
/-- Change a lane. -/
def onLane (n : Nat) (f : Lane → Lane) (s : State) : State := setLane n (f (lane s n)) s

/-- Key of a lane register (R103). -/
def laneKey (n off : Nat) : Nat := rk .eng n off
/-- Key of an ENGC register (R106). -/
def engcKey (off : Nat) : Nat := rk .engc 0 off
/-- The domain of a lane. -/
def laneDom (s : State) (n : Nat) : Nat := rdf s (laneKey n 0x040) 4 5
/-- Raise WREF of a lane (R105). -/
def wref (n : Nat) (s : State) : State := raise .eng n 10 s
/-- A descriptor register of bank `b` (R96): `i` is its word in the block. -/
def bankKey (n : Nat) (b : Bool) (i : Nat) : Nat := laneKey n ((if b then 0x070 else 0x048) + 4 * i)
/-- FIRST of a bank. -/
def bankFirst (s : State) (n : Nat) (b : Bool) : Nat := rdf s (bankKey n b 0) 0 8
/-- COUNT of a bank. -/
def bankCount (s : State) (n : Nat) (b : Bool) : Nat := rdf s (bankKey n b 0) 8 6
/-- LEN of a bank. -/
def bankLen (s : State) (n : Nat) (b : Bool) : Nat := rdf s (bankKey n b 0) 16 14
/-- Coefficient slot `i` of a bank is mapped. -/
def cValid (s : State) (n : Nat) (b : Bool) (i : Nat) : Bool := rdb s (bankKey n b 1) i
/-- State slot `i` of a bank is mapped. -/
def sValid (s : State) (n : Nat) (b : Bool) (i : Nat) : Bool := rdb s (bankKey n b 1) (16 + i)
/-- The tile of a coefficient slot. -/
def cTile (s : State) (n : Nat) (b : Bool) (i : Nat) : Nat := rdf s (bankKey n b (2 + i / 4)) (8 * (i % 4)) 8
/-- The tile of a state slot. -/
def sTile (s : State) (n : Nat) (b : Bool) (i : Nat) : Nat := rdf s (bankKey n b (6 + i / 4)) (8 * (i % 4)) 8
/-- Program tiles of a bank. -/
def progTiles (s : State) (n : Nat) (b : Bool) : List Nat :=
  (List.range (bankCount s n b)).map fun i => (bankFirst s n b + i) % 256
/-- Coefficient tiles of the valid slots, in slot order. -/
def coefTiles (s : State) (n : Nat) (b : Bool) : List Nat :=
  ((List.range 16).filter (cValid s n b)).map (cTile s n b)
/-- State tiles of the valid slots, in slot order. -/
def stateTiles (s : State) (n : Nat) (b : Bool) : List Nat :=
  ((List.range 16).filter (sValid s n b)).map (sTile s n b)
/-- Every tile a bank can reach (R87): program tiles, then slot by slot. -/
def bankTiles (s : State) (n : Nat) (b : Bool) : List Nat :=
  progTiles s n b ++ (List.range 16).flatMap fun i =>
    (if cValid s n b i then [cTile s n b i] else []) ++ (if sValid s n b i then [sTile s n b i] else [])

/-! Tiles -/

/-- Address of a word of a tile. -/
def tileAddr (t w : Nat) : Nat := engBase + t * 0x1000 + 4 * w
/-- Word `w` of tile `t`. -/
def tileWord (s : State) (t w : Nat) : Word := memWord s (tileAddr t w)
/-- The type of a tile (R73): 0 free, 1 program, 2 coefficient, 3 state. -/
def tileType (s : State) (t : Nat) : Nat := rdf s (engcKey (0x080 + 4 * (t / 16))) (2 * (t % 16)) 2
/-- The CRC-32C over bytes 0x000 to 0xFFB of a tile (R72). -/
def tileCrc (s : State) (t : Nat) : Word := crc32c (memBytes s (tileAddr t 0) 0xFFC)
/-- A tile passes its check (R71, R72). A free tile that an active bank maps or VERIFY.GO names is checked too, with type 0 in
TAG: R87 and R107 check every tile named.  DESIGN CHOICE (log entry 73). -/
def tilePasses (s : State) (t : Nat) : Bool :=
  decide (fld (tileWord s t 1022) 0 16 = t + 256 * tileType s t) && decide (tileCrc s t = tileWord s t 1023)

/-- The contribution D(w, x) of a difference at word `w` (R74). -/
def crcDiff (w : Nat) (x : Word) : Word :=
  crcRun 0x82F63B78#32 (leBytes 4 x.toNat ++ List.replicate (0xFFC - 4 * w - 4) 0#8) 0

/-- Write a data word of a tile; a state tile keeps its running check (R74). -/
def writeTileWord (t w : Nat) (v : Word) (s : State) : State :=
  if tileType s t = 3 then
    if 1022 ≤ w then s
    else
      let d := crcDiff w (tileWord s t w ^^^ v)
      memWrWord (tileAddr t 1023) (tileWord s t 1023 ^^^ d) (memWrWord (tileAddr t w) v s)
  else memWrWord (tileAddr t w) v s

/-- A lane is enabled (R69): its state is not disabled. -/
def laneOn (s : State) (n : Nat) : Bool := decide ((lane s n).st ≠ 0)

/-- A swap that will activate the lane's inactive bank is pending (R98, R99). -/
def swapPends (s : State) (n : Nat) : Bool :=
  (lane s n).swap ≠ .none || s.eng.global ≠ .none || (lane s n).dueSwap.isSome

/-- The lane maps a tile by its active bank while enabled, or by the bank of a pending swap. -/
def mapsTile (s : State) (t n : Nat) : Bool :=
  let a := (lane s n).active
  (laneOn s n && (bankTiles s n a).contains t) || (swapPends s n && (bankTiles s n !a).contains t)

/-- The enabled lane whose active bank maps a state tile. -/
def stateOwner (s : State) (t : Nat) : Option Nat :=
  (List.range 32).find? fun n => laneOn s n && (stateTiles s n (lane s n).active).contains t

/-- Writes to a lane's state tiles wait: it runs a pass or drains, or earlier writes wait (R75). -/
def laneHolds (s : State) (n : Nat) : Bool :=
  (lane s n).pass.isSome || (lane s n).drain.isSome || s.eng.held.any fun h => decide (h.1 = n)

/-- The offset of a bus address in engine memory, whose base is a multiple of its size (R70). -/
def engOff (a : Nat) : Nat := a % 0x100000

/-- Apply one bus word to engine memory, as its tile's type says (R75); in TRIAL the tiles of inactive banks are kept (R554). -/
def engWriteWord (a : Nat) (v : Word) (s : State) : State :=
  let o := engOff a
  let t := o / 0x1000
  let w := o % 0x1000 / 4
  let kept := if s.upd.st = 6 then (List.range 32).filter fun n => (bankTiles s n !(lane s n).active).contains t else []
  if !kept.isEmpty then forEach kept wref s else
  if tileType s t = 3 then
    if 1022 ≤ w then s
    else match stateOwner s t with
      | some n =>
        if laneHolds s n then { s with eng := { s.eng with held := s.eng.held ++ [(n, a, v)] } }
        else writeTileWord t w v s
      | none =>
        -- later writes queue behind held ones
        match s.eng.held.find? fun h => decide (engOff h.2.1 / 0x1000 = t) with
        | some h => { s with eng := { s.eng with held := s.eng.held ++ [(h.1, a, v)] } }
        | none => writeTileWord t w v s
  else
    let ls := if tileType s t = 0 then [] else (List.range 32).filter (mapsTile s t)
    if ls.isEmpty then writeTileWord t w v s else forEach ls wref s

/-- Apply up to `k` held writes of a lane, in issue order (R75). -/
def releaseHeld (n : Nat) : Nat → State → State
  | 0, s => s
  | k + 1, s =>
    match s.eng.held.find? fun h => decide (h.1 = n) with
    | none => s
    | some h =>
      let o := engOff h.2.1
      let s := { s with eng := { s.eng with held := s.eng.held.erase h } }
      releaseHeld n k (writeTileWord (o / 0x1000) (o % 0x1000 / 4) h.2.2 s)

/-- Apply every held write whose lane no longer holds its tile (R75). -/
def releaseUnmapped (s : State) : State :=
  forEach (List.range 32) (fun n s =>
    if (lane s n).pass.isSome || (lane s n).drain.isSome then s
    else
      let gone := s.eng.held.filter fun h =>
        decide (h.1 = n) && !(laneOn s n && (stateTiles s n (lane s n).active).contains (engOff h.2.1 / 0x1000))
      if gone.isEmpty then s else releaseHeld n s.eng.held.length s) s

/-- Write TTYPEj (R73). -/
def writeTtype (j : Nat) (v : Word) (s : State) : State :=
  let k := engcKey (0x080 + 4 * j)
  let s := forEach (List.range 16) (fun i s =>
    let t := 16 * j + i
    let old := tileType s t
    let new := fld v (2 * i) 2
    if old = new then s
    else if (List.range 32).any (mapsTile s t) then wrb (engcKey 0x04C) 0 true s
    else
      let s := wrf k (2 * i) 2 new s
      if new = 3 then
        let s := memWrWord (tileAddr t 1022) (setFld (tileWord s t 1022) 0 16 (t + 0x300)) s
        memWrWord (tileAddr t 1023) (tileCrc s t) s
      else s) s
  releaseUnmapped s

/-! The shared verifier (R97) -/

/-- One operation of a program. -/
def progOp (s : State) (first i : Nat) : Op :=
  let t := (first + i / 511) % 256
  opOf ((tileWord s t (2 * (i % 511))).toNat + (tileWord s t (2 * (i % 511) + 1)).toNat * 2 ^ 32)

/-- The program of a bank. -/
def bankProg (s : State) (n : Nat) (b : Bool) : List Op :=
  (List.range (bankLen s n b)).map (progOp s (bankFirst s n b))

/-- A bank passes, but for state tiles that other banks map (R97). -/
def bankPasses (s : State) (n : Nat) (b : Bool) : Bool :=
  let c := bankCount s n b
  let len := bankLen s n b
  let p := bankProg s n b
  decide (1 ≤ c ∧ c ≤ 32 ∧ bankFirst s n b + c ≤ 256 ∧ 1 ≤ len ∧ len ≤ 511 * c) &&
  (progTiles s n b).all (fun t => decide (tileType s t = 1)) &&
  (coefTiles s n b).all (fun t => decide (tileType s t = 2)) &&
  (stateTiles s n b).all (fun t => decide (tileType s t = 3)) &&
  (bankTiles s n b).all (tilePasses s) &&
  p.all (opOk n (cValid s n b) (sValid s n b)) &&
  decide ((p.filter fun o => o.opc = 0x30).length ≤ 128)

/-- Lane `n`'s bank `b` shares no state tile with the banks `f` gives the other lanes. -/
def statesApart (s : State) (f : Nat → Bool) (n : Nat) : Bool :=
  (List.range 32).all fun m =>
    m = n || (stateTiles s n (f n)).all fun t => !((stateTiles s m (f m)).contains t)

/-- Verification time: 32 cycles a tile (R97). -/
def verifyTime (ts : List Nat) : Nat := ts.eraseDups.length * 32 * fabCyc

/-- Request a per-lane swap (R98). A request while a swap of the lane is pending does nothing. -/
def requestSwap (n : Nat) (s : State) : State :=
  if swapPends s n then s else
  let b := !(lane s n).active
  let t := max s.now s.eng.free + verifyTime (bankTiles s n b)
  let s := onLane n (fun x => { x with swap := .checking }) s
  { s with eng := { s.eng with free := t, jobs := s.eng.jobs ++ [(n, t)] } }

/-- Lanes whose inactive bank a global swap checks (R99): a disabled lane without a program is passed over. -/
def globalLanes (s : State) : List Nat :=
  (List.range 32).filter fun n => laneOn s n || bankCount s n (!(lane s n).active) ≠ 0

/-- Raise SWAP_REFUSED in every lane and set a bit of ENGC.ERR (R99, R100). -/
def refuseAll (errBit : Nat) (s : State) : State :=
  let s := { s with eng := { s.eng with global := .none } }
  forEach (List.range 32) (fun n s => raise .eng n 9 s) (wrb (engcKey 0x04C) errBit true s)

/-- Request a global swap (R99): it takes MODE and SWAP_AT as they stand at the request. -/
def requestSwapAll (s : State) : State :=
  if s.eng.global ≠ .none || (List.range 32).any (swapPends s) then s else
  let ts := (globalLanes s).flatMap fun n => bankTiles s n !(lane s n).active
  let t := max s.now s.eng.free + verifyTime ts
  let mode := rdb s (engcKey 0x040) 1
  let at' := (rd s (engcKey 0x044)).toNat
  { s with eng := { s.eng with free := t, global := .checking, globEnd := t, globMode := mode, globAt := at' } }

/-- Withdraw every pending swap (R100). -/
def cancelSwaps (s : State) : State :=
  let s := forEach (List.range 32) (fun n s => onLane n (fun x => { x with swap := .none, dueSwap := none }) s) s
  { s with eng := { s.eng with global := .none, jobs := [] } }

/-- Write ENGC.CTRL. -/
def writeEngcCtrl (v : Word) (s : State) : State :=
  let s := wrb (engcKey 0x040) 1 (bit v 1) s
  if bit v 2 then cancelSwaps s else if bit v 0 then requestSwapAll s else s

/-- Start a single-tile check (R107). -/
def writeVerify (v : Word) (s : State) : State :=
  let k := engcKey 0x050
  if rdb s k 9 then s else
  let s := wrf k 0 8 (fld v 0 8) s
  if !(bit v 8) then s else
  let t := max s.now s.eng.free + 32 * fabCyc
  let s := wrf k 10 2 0 (wrb k 9 true s)
  { s with eng := { s.eng with free := t, tileEnd := t } }

/-- The lane's active bank changes (R98). -/
def doSwap (n : Nat) (s : State) : State :=
  let s := onLane n (fun x => { x with active := !x.active, first := true, swap := .none, dueSwap := none }) s
  raise .eng n 8 (releaseUnmapped s)

/-- Swaps that take place at the boundary of domain `d` whose tick is `tk` (R98, R99). -/
def laneSwaps (d tk : Nat) (s : State) : State :=
  forEach ((List.range 32).filter fun n => decide (laneDom s n = d)) (fun n s =>
    match (lane s n).swap, (lane s n).dueSwap with
    | .ready t, _ => if t + setupLen ≤ tk then doSwap n s else s
    | _, some t => if t ≤ tk then doSwap n s else s
    | _, none => s) s

/-- The nearest boundary of a locked domain to this instant has taken place: it is the one that coincides (R33). -/
def coincided (s : State) (d : Nat) : Bool :=
  let x := dom s d
  decide (lockState s d = 3) && x.begun &&
    decide (((x.start : Int) - s.now).natAbs < ((x.next : Int) - s.now).natAbs)

/-- A Datum cycle boundary, with the number of the cycle that starts: a verified global swap falls due (R99, R100). -/
def globalSwapDue (cycle : Nat) (s : State) : State :=
  if s.eng.global = .none then s else
  let mode := s.eng.globMode
  let at' := s.eng.globAt
  let here := !mode || decide (cycle % 2 ^ 32 = at')
  let past := mode && !here && decide ((cycle + 2 ^ 32 - at') % 2 ^ 32 < 2 ^ 31)
  if past then refuseAll 3 s
  else if !here then s
  else if s.eng.global = .checking then (if mode then refuseAll 3 s else s)
  else if !(datumValid s) then refuseAll 2 s
  else
    let s := { s with eng := { s.eng with global := .none } }
    forEach (List.range 32) (fun n s =>
      let d := laneDom s n
      if !(laneOn s n) || !(domRuns s d) || coincided s d then doSwap n s
      else
        let t := s.now
        onLane n (fun x => { x with dueSwap := some t }) s) s

/-- The pair function holds the lane disabled (R419). -/
def pairHoldsLane (s : State) (n : Nat) : Bool :=
  rdb s (rk .pair 0 0x040) 0 && rdb s (rk .pair 0 0x064) n && s.pair.st ≠ 3 && s.pair.st ≠ 4

/-- A write of ENGn.CTRL is ignored as a whole (R69, R419, R596): it would enable a lane whose active bank holds no program or
that the pair function holds, or change CDOM of a lane that is not disabled. -/
def laneCtrlIgnored (s : State) (n : Nat) (v : Word) : Bool :=
  let old := rd s (laneKey n 0x040)
  let x := lane s n
  (bit v 0 && !(bit old 0) && (bankCount s n x.active = 0 || pairHoldsLane s n)) ||
    (fld v 4 5 ≠ fld old 4 5 && decide (fld v 4 5 < 24) && x.st ≠ 0)

/-- Write ENGn.CTRL (R69, R95, R101, R104, R419): of a CDOM from 24 to 31 the field alone is ignored.  DESIGN CHOICE: EN written
back to 1 while the last pass after EN 0 runs lets the lane go on (log entry 65). -/
def writeLaneCtrl (n : Nat) (v : Word) (s : State) : State :=
  let k := laneKey n 0x040
  let x := lane s n
  let old := rd s k
  if laneCtrlIgnored s n v then wref n s else
  let s := wrf k 16 8 (fld v 16 8) s
  let s :=
    if fld v 4 5 = fld old 4 5 then s
    else if 24 ≤ fld v 4 5 then wref n s
    else wrf k 4 5 (fld v 4 5) s
  let s :=
    if bit v 0 && !(bit old 0) then
        let s := wrb k 0 true s
        let s := wr (laneKey n 0x0A0) 0 (wr (laneKey n 0x0A4) 0 (wr (laneKey n 0x0A8) 0 (wr (laneKey n 0x0B8) 0 s)))
        let d := laneDom s n
        let y := dom s d
        let late := domRuns s d && y.begun && decide (lastTick s d + 1200 < s.now)
        if x.st = 0 then
          onLane n (fun x => { x with st := 1, first := true, passK := (if late then some y.k else none), held := false }) s
        else onLane n (fun x => { x with offPend := false }) s
    else if !(bit v 0) && bit old 0 then
      let s := wrb k 0 false s
      if x.st = 2 then onLane n (fun x => { x with offPend := true }) s
      else releaseUnmapped (onLane n (fun x => { x with st := 0, offPend := false }) s)
    else s
  if bit v 1 then requestSwap n s else s

/-- The bank a descriptor offset belongs to. -/
def bankOfOff (off : Nat) : Bool := decide (0x070 ≤ off)

/-- Write a descriptor register (R96): only those of the inactive bank, and of no bank that a pending swap will activate. -/
def writeBank (n off : Nat) (v : Word) (s : State) : State :=
  let b := bankOfOff off
  if b = (lane s n).active || swapPends s n then wref n s else plainWrite (laneKey n off) v s

/-- The register that LANE_ENABLE writes, with its other fields as they stand. -/
def ctrlWith (s : State) (n : Nat) (en swap : Bool) : Word :=
  setBit (setBit (rd s (laneKey n 0x040)) 0 en) 1 swap

/-! Meanings -/

/-- LANE_ENABLE (R69). -/
def execLaneEnable (m : Master) (n : Fin 32) (s : State) : Host.Outcome State Fault Refusal :=
  .next (byBus m .eng n 0x040 (fun s => writeLaneCtrl n (ctrlWith s n true false) s) s)

/-- LANE_DISABLE (R69, R95). -/
def execLaneDisable (m : Master) (n : Fin 32) (s : State) : Host.Outcome State Fault Refusal :=
  .next (byBus m .eng n 0x040 (fun s => writeLaneCtrl n (ctrlWith s n false false) s) s)

/-- SWAP (R98). -/
def execSwap (m : Master) (n : Fin 32) (s : State) : Host.Outcome State Fault Refusal :=
  .next (byBus m .eng n 0x040 (fun s => requestSwap n s) s)

/-- Lane `n`'s bank `b` shares no state tile with a bank of another lane that is active or that a pending swap will
activate (R97). -/
def statesFree (s : State) (n : Nat) (b : Bool) : Bool :=
  let ts := stateTiles s n b
  let waits : Lane → Bool := fun x => x.dueSwap.isSome || (match x.swap with | .ready _ => true | _ => false)
  (List.range 32).all fun m => m = n ||
    let x := lane s m
    ts.all fun t => !((stateTiles s m x.active).contains t) && !(waits x && (stateTiles s m !x.active).contains t)

/-- BANK_VERIFIED (R97, R98). -/
def execBankVerified (n : Fin 32) (s : State) : Host.Outcome State Fault Refusal :=
  .next (
    match s.eng.jobs.find? fun j => decide (j.1 = n.val) with
    | none => s
    | some j =>
      if !(live s .eng) then s else
      let s := upto j.2 { s with eng := { s.eng with jobs := s.eng.jobs.erase j } }
      let b := !(lane s n).active
      if bankPasses s n b && statesFree s n b then
        let t := s.now
        onLane n (fun x => { x with swap := .ready t }) s
      else
        raise .eng n 9 (wrb (engcKey 0x04C) 1 true (onLane n (fun x => { x with swap := .none }) s)))

/-- TILE_TYPE_WRITE (R73). -/
def execTileTypeWrite (m : Master) (j : Fin 16) (v : Word) (s : State) : Host.Outcome State Fault Refusal :=
  .next (byBus m .engc 0 (0x080 + 4 * j) (fun s => writeTtype j v s) s)

/-- An access lies in engine memory, aligned to its size of one or two words (R75). -/
def engAccess (a words : Nat) : Bool :=
  decide (engBase ≤ a ∧ a + 4 * words ≤ engBase + 0x100000 ∧ (words = 1 ∨ words = 2) ∧ a % (4 * words) = 0)

/-- A bus write of words to engine memory by a master (R75): the pair that runs the staged image does not write tiles that an
active bank maps (R548). -/
def engBusWrite (m : Master) (a : Nat) (ws : List Word) (s : State) : State :=
  forEach (List.range ws.length) (fun i s =>
    let x := a + 4 * i
    let t := engOff x / 0x1000
    let ls := if stagedPair s m then (List.range 32).filter fun n => (bankTiles s n (lane s n).active).contains t else []
    if ls.isEmpty then engWriteWord x (ws.getD i 0) s else forEach ls wref s) s

/-- ENGINE_MEMORY_WRITE (R75): an aligned write of one word or two. -/
def execEngineMemoryWrite (m : Master) (a : Nat) (ws : List Word) (s : State) : Host.Outcome State Fault Refusal :=
  .next (
    let s := pmcAccess (masterNo m, none) true a false s
    if !(engAccess a ws.length) then busError s
    else if !(fabricUp s && domOn s .eng) then busCycle s
    else busCycle (engBusWrite m a ws s))

/-- TILE_VERIFY (R107). -/
def execTileVerify (m : Master) (tile : Byte) (s : State) : Host.Outcome State Fault Refusal :=
  .next (byBus m .engc 0 0x050 (fun s => writeVerify (wNat (tile.toNat + 256)) s) s)

/-- TILE_VERIFY_DONE (R107). -/
def execTileVerifyDone (s : State) : Host.Outcome State Fault Refusal :=
  .next (
    let k := engcKey 0x050
    if !(live s .eng) || !(rdb s k 9) then s else
    let s := upto s.eng.tileEnd s
    let t := rdf s k 0 8
    let ok := tilePasses s t
    wr (engcKey 0x054) (tileCrc s t) (wrb k 9 false (wrb k 10 ok (wrb k 11 (!ok) s))))

end Sys2Proof.Machine
end

