-- ==== Sys2Proof/Machine/Soundings.lean ====
section
/-! DEFINITION. Sounding generators (R116 to R130): start and stop, the step at a boundary, accumulation and capture. -/

namespace Sys2Proof.Machine

/-- Default of a generator. -/
def gen0 (_ : Nat) : Gen := {}
/-- A generator. -/
def gen (s : State) (g : Nat) : Gen := smGet gen0 s.gens g
/-- Set a generator. -/
def setGen (g : Nat) (x : Gen) (s : State) : State := { s with gens := smSet gen0 s.gens g x }
/-- Change a generator. -/
def onGen (g : Nat) (f : Gen → Gen) (s : State) : State := setGen g (f (gen s g)) s

/-- Key of a generator register (R128). -/
def genKey (g off : Nat) : Nat := rk .snd 0 (0x100 + 0x40 * g + off)
/-- GSTAT.STATE. -/
def genState (s : State) (g : Nat) : Nat := rdf s (genKey g 0x24) 0 3
/-- Set GSTAT.STATE. -/
def setGenState (g st : Nat) (s : State) : State := wrf (genKey g 0x24) 0 3 st s
/-- Set a flag of GSTAT. -/
def genFlag (g b : Nat) (s : State) : State := wrb (genKey g 0x24) b true s
/-- GCFG.MODE. -/
def genMode (s : State) (g : Nat) : Nat := rdf s (genKey g 0) 0 3
/-- GCFG.CDOM. -/
def genDom (s : State) (g : Nat) : Nat := rdf s (genKey g 0) 4 5
/-- Waiting, settling or measuring. -/
def genBusy (s : State) (g : Nat) : Bool := decide (1 ≤ genState s g ∧ genState s g ≤ 3)
/-- Settling or measuring. -/
def genActive (s : State) (g : Nat) : Bool := decide (genState s g = 2 ∨ genState s g = 3)

/-- The lower exponent of the polynomial of an order (R121). -/
def prbsTap (n : Nat) : Nat := match n with | 7 => 6 | 9 => 5 | 11 => 9 | _ => 14

/-- One chip change (R121). -/
def prbsNext (n r : Nat) : Nat :=
  let fb := (r / 2 ^ (n - 1) + r / 2 ^ (prbsTap n - 1)) % 2
  (2 * r + fb) % 2 ^ n

/-- A positive finite single-precision number. -/
def posF (w : Word) : Bool := finF w && ltF zeroF w

/-- The start is refused (R124). `owned` says that the islanding function holds generator 7. -/
def startRefused (s : State) (g : Nat) : Bool :=
  let cfg := rd s (genKey g 0)
  let m := fld cfg 0 3
  let src := fld cfg 16 2
  let p := rd s (genKey g 0x10)
  let n := fld p 0 4
  let settle := rdf s (genKey g 0x14) 0 16
  let meas := rdf s (genKey g 0x14) 16 16
  let cap := rd s (genKey g 0x1C)
  !(m = 1 || m = 2 || m = 3) || decide (23 < fld cfg 4 5) || src = 3 || (src ≠ 0 && !(datumValid s)) ||
  (m = 1 && !(posF (rd s (genKey g 0x04)))) ||
  (m = 2 && (!(n = 7 || n = 9 || n = 11 || n = 15) || fld p 8 8 = 0 || fld p 16 15 % 2 ^ n = 0)) ||
  (if m = 3 then settle = 0 && meas = 0 else meas = 0) ||
  !(finF (rd s (genKey g 0x08))) || decide (16384 < fld cap 0 14 + fld cap 16 15)

/-- Write GCTL.START (R122 to R124). -/
def startGen (g : Nat) (s : State) : State :=
  if genBusy s g then s
  else if startRefused s g then raise .snd 0 16 (wrb (rk .snd 0 0x048) 0 true s)
  else
    let a := rd s (genKey g 0x08)
    let top := rd s (genKey g 0x0C)
    let clamp := ltF top (absF a)
    let amp := if clamp then (if ltF a zeroF then negF top else top) else a
    let s := wr (genKey g 0x24) 1 (wr (genKey g 0x28) 0 (wr (genKey g 0x2C) 0 s))
    let s := setGen g { amp := amp } s
    if clamp then genFlag g 11 s else s

/-- Abort a waiting, settling or measuring generator (R124). -/
def abortGen (g : Nat) (s : State) : State :=
  if !(genBusy s g) then s else
  let s := onGen g (fun x => { x with due := none, x := 0, sin := 0, cos := 0 }) (setGenState g 5 s)
  raise .snd 0 (8 + g) s

/-- Write GCTLg (R123, R124). Of START and STOP in one write, START is carried out first and STOP then aborts the generator.
DESIGN CHOICE (log entry 74). -/
def writeGctl (g : Nat) (v : Word) (s : State) : State :=
  let s := if bit v 0 then startGen g s else s
  if bit v 1 then abortGen g s else s

/-- The excitation, sine and cosine of the generator's present state (R119). -/
def excite (g : Nat) (s : State) : State :=
  let y := gen s g
  let turns : Int := (y.phi : Int) * 65536
  let ph := wNat y.phi
  match genMode s g with
  | 1 =>
    let sn := near22 0x12 ph 2 (sin48 turns)
    let cs := near22 0x12 ph 3 (cos48 turns)
    setGen g { y with sin := sn, cos := cs, x := mulF y.amp sn } s
  | 2 =>
    let n := rdf s (genKey g 0x10) 0 4
    setGen g { y with x := (if y.lfsr / 2 ^ (n - 1) % 2 = 1 then y.amp else negF y.amp) } s
  | 3 => setGen g { y with x := (if genState s g = 3 then y.amp else 0) } s
  | _ => s

/-- The phase differs from a whole turn by more than 2^-20 turn. -/
def offTurn (phi : Nat) : Bool := decide (4096 < phi ∧ phi + 4096 < 2 ^ 32)

/-- The generator becomes done (R123). -/
def genDone (g : Nat) (s : State) : State :=
  let s := if genMode s g = 1 && offTurn (gen s g).phi then genFlag g 12 s else s
  raise .snd 0 g (onGen g (fun x => { x with x := 0, sin := 0, cos := 0 }) (setGenState g 4 s))

/-- The measure phase begins (R123). -/
def genMeasure (g : Nat) (s : State) : State :=
  let s := if genMode s g = 1 && offTurn (gen s g).phi then genFlag g 12 s else s
  let s := onGen g (fun x => { x with count := 0, since := 0 }) (setGenState g 3 s)
  if rdf s (genKey g 0x14) 16 16 = 0 then genDone g s else s

/-- One more unit of the phase has passed: a cycle, a chip or a boundary (R123). -/
def genCount (g : Nat) (s : State) : State :=
  let s := onGen g (fun x => { x with count := x.count + 1 }) s
  let c := (gen s g).count
  let n := rdf s (genKey g 0x10) 0 4
  if genState s g = 2 then
    if rdf s (genKey g 0x14) 0 16 ≤ c then genMeasure g s else s
  else
    let meas := rdf s (genKey g 0x14) 16 16
    let len := if genMode s g = 2 then meas * (2 ^ n - 1) else meas
    if len ≤ c then genDone g s else s

/-- Write the set of the boundary before into capture memory (R126). -/
def captureSet (g : Nat) (s : State) : State :=
  let cfg := rd s (genKey g 0)
  if !(bit cfg 24) then s else
  let y := gen s g
  let ps := (List.range 4).filter fun j => bit cfg (20 + j)
  let ws := if y.passed then y.x :: ps.map (smGet (smConst 0) y.probes) else List.replicate (1 + ps.length) nanF
  let cap := rd s (genKey g 0x1C)
  let ptr := rdf s (genKey g 0x2C) 0 15
  if fld cap 16 15 < ptr + ws.length then genFlag g 13 s
  else
    let s := forEach (List.range ws.length) (fun i s =>
      { s with capMem := smSet (smConst 0) s.capMem ((fld cap 0 14 + ptr + i) % 16384) (ws.getD i 0) }) s
    wrf (genKey g 0x2C) 0 15 (ptr + ws.length) s

/-- The period that the boundary of this instant ended, in steps (R120). -/
def endedLen (s : State) (d : Nat) : Nat := (dom s d).start - (dom s d).prev

/-- f times T, and f times T times 2^32 rounded. -/
def phaseStep (f : Word) (len : Nat) : Bool × Nat :=
  let ft := fDiv (fMul (f32 f) (fInt len 0)) (fInt secs 0)
  (fLe (fInt 1 (-1)) ft, (fRound (fScale 32 ft)).toNat % 2 ^ 32)

/-- The step of a generator at a boundary of its domain whose tick is `tk` (R119 to R126). -/
def genStep (tk g : Nat) (s : State) : State :=
  let d := genDom s g
  let st := genState s g
  let m := genMode s g
  if st = 1 then
    let src := rdf s (genKey g 0) 16 2
    let goes := src = 0 || (gen s g).due.any fun t => decide (t ≤ tk)
    if !goes then s else
    let p := rd s (genKey g 0x10)
    let n := fld p 0 4
    let s := onGen g (fun x => { x with due := none, phi := 0, lfsr := fld p 16 15 % 2 ^ n, chip := fld p 8 8, count := 0,
                                        passed := false, probes := [] }) (setGenState g 2 s)
    if m = 1 && (phaseStep (rd s (genKey g 0x04)) (endedLen s d)).1 then abortGen g (genFlag g 15 s)
    else
      let s := if (domLegs s d).any fun l => decide (legRank s l < 6) then genFlag g 9 s else s
      let s := if rdf s (genKey g 0x14) 0 16 = 0 then genMeasure g s else s
      if genActive s g then excite g s else s
  else if st = 2 || st = 3 then
    -- the boundary before is finished: its set, its gap
    let s := if st = 3 || m = 3 then captureSet g s else s
    let s := if st = 3 && !(gen s g).passed then genFlag g 8 s else s
    let s := onGen g (fun x => { x with passed := false, probes := [] }) s
    let s := if (domLegs s d).any fun l => decide (legRank s l < 6) then genFlag g 9 s else s
    let s := if m = 1 && decide ((dom s d).per ≠ (dom s d).oldPer) then genFlag g 10 s else s
    let s := if st = 3 then onGen g (fun x => { x with since := x.since + 1 }) s else s
    let s := match m with
      | 1 =>
        let (folded, step) := phaseStep (rd s (genKey g 0x04)) (endedLen s d)
        if folded then abortGen g (genFlag g 15 s) else
        let p := (gen s g).phi + step
        let s := onGen g (fun x => { x with phi := p % 2 ^ 32 }) s
        if 2 ^ 32 ≤ p then genCount g s else s
      | 2 =>
        let n := rdf s (genKey g 0x10) 0 4
        let c := (gen s g).chip
        if 1 < c then onGen g (fun x => { x with chip := c - 1 }) s
        else
          let len := rdf s (genKey g 0x10) 8 8
          genCount g (onGen g (fun x => { x with chip := len, lfsr := prbsNext n x.lfsr }) s)
      | _ => genCount g s
    if genActive s g then excite g s else s
  else s

/-- The generators' part of a boundary of domain `d`. -/
def genBoundary (d tk : Nat) (s : State) : State :=
  if !(live s .eng) then s else
  forEach ((List.range 8).filter fun g => decide (genDom s g = d)) (genStep tk) s

/-- A Datum cycle boundary, with the number of the cycle that starts: starts fall due (R123). -/
def gensDue (cycle : Nat) (s : State) : State :=
  let t := s.now
  forEach (List.range 8) (fun g s =>
    if genState s g ≠ 1 || (gen s g).due.isSome then s else
    let src := rdf s (genKey g 0) 16 2
    if src = 1 || (src = 2 && decide (cycle % 2 ^ 32 = (rd s (genKey g 0x18)).toNat)) then
      if coincided s (genDom s g) then
        let tk := lastTick s (genDom s g)
        genStep t g (onGen g (fun x => { x with due := some (min t tk) }) s)
      else onGen g (fun x => { x with due := some t }) s
    else s) s

/-- Datum has become invalid: generators that wait for a Datum start abort. -/
def gensLoseDatum (s : State) : State :=
  forEach (List.range 8) (fun g s =>
    if genState s g = 1 && rdf s (genKey g 0) 16 2 ≠ 0 then abortGen g (genFlag g 17 s) else s) s

/-- Add a product to an accumulator, in binary64 (R125). -/
def accAdd (acc : List (Nat × DWord)) (i : Nat) (a b : Word) : List (Nat × DWord) :=
  let old := smGet (smConst 0) acc i
  smSet (smConst 0) acc i (toF64 (fAdd (f64 old) (f64 (toF64 (fMul (f32 a) (f32 b))))))

/-- A successful pass of lane `n` has ended with these probe writes, in order: generator and probe, value (R118, R125). -/
def probesLand (n : Nat) (ws : List (Nat × Word)) (s : State) : State :=
  forEach (List.range 8) (fun g s =>
    let mine := ws.filter fun w => decide (w.1 / 8 = g)
    if rdf s (genKey g 0) 10 5 ≠ n then (if mine.isEmpty then s else genFlag g 14 s)
    else
      let vals := smSetAll (smConst 0) [] (mine.map fun w => (w.1 % 8, w.2))
      let s := onGen g (fun x => { x with passed := true, probes := vals }) s
      if genState s g ≠ 3 || genMode s g ≠ 1 then s
      else
        let y := gen s g
        let acc := ((List.range 4).filter fun j => rdb s (genKey g 0) (20 + j)).foldl
          (fun a j =>
            let p := smGet (smConst 0) vals j
            accAdd (accAdd a (2 * j) p y.sin) (2 * j + 1) p y.cos) y.acc
        incHeld (genKey g 0x28) 0 24 (setGen g { y with acc := acc } s)) s

/-- Write a configuration register of the SND page (R122, R124): refused while the generator is busy, or held by the
islanding function, whose hold STATUS.ISL_OWNS7 shows. -/
def sndHeld (s : State) (g : Nat) : Bool := genBusy s g || (g = 7 && rdb s (rk .snd 0 0x00C) 16)

/-- Write a register of the SND page (R116, R122, R124, R128). -/
def writeSnd (m : Master) (off : Nat) (v : Word) (s : State) : State :=
  let k := rk .snd 0 off
  if 0x100 ≤ off && off < 0x300 then
    let g := (off - 0x100) / 0x40
    let o := (off - 0x100) % 0x40
    if o = 0x20 then
      if g = 7 && rdb s (rk .snd 0 0x00C) 16 then
        (if bit v 0 then raise .snd 0 16 (wrb (rk .snd 0 0x048) 0 true s) else s)
      else writeGctl g v s
    else if o = 0x0C then
      let ok := !(sndHeld s g) && finF v && (!(bit v 31) || eqF v zeroF)
      if sndHeld s g && levelOk s k then rwlPath m k false id (wrb (rk .snd 0 0x048) 1 true s)
      else rwlPath m k ok (plainWrite k v) s
    else if o < 0x20 then
      if sndHeld s g then wrb (rk .snd 0 0x048) 1 true s else plainWrite k v s
    else s
  else if off = 0x048 then wr k (rd s k &&& ~~~ v) s
  else plainWrite k v s

/-- SND.STATUS (R129). -/
def sndStatus (s : State) : Word :=
  let a := (List.range 8).foldl (fun w g => setBit (setBit w g (genActive s g)) (8 + g) (genState s g = 4)) (0 : Word)
  setBit a 16 (rdb s (rk .snd 0 0x00C) 16)

/-! Meanings -/

/-- GENERATOR_START (R123, R124). -/
def execGeneratorStart (m : Master) (g : Fin 8) (s : State) : Host.Outcome State Fault Refusal :=
  .next (byBus m .snd 0 (0x120 + 0x40 * g) (fun s => writeSnd m (0x120 + 0x40 * g) 1 s) s)

/-- GENERATOR_STOP (R124). -/
def execGeneratorStop (m : Master) (g : Fin 8) (s : State) : Host.Outcome State Fault Refusal :=
  .next (byBus m .snd 0 (0x120 + 0x40 * g) (fun s => writeSnd m (0x120 + 0x40 * g) 2 s) s)

/-- CAP_DATA_READ (R128): the word at CAP_ADDR, which advances modulo 16384. -/
def execCapDataRead (m : Master) (s : State) : Host.Outcome State Fault Refusal :=
  .next (readAt m .snd 0 0x044 (fun s =>
    let a := rdf s (rk .snd 0 0x040) 0 14
    respond (smGet (smConst 0) s.capMem a) (wrf (rk .snd 0 0x040) 0 14 (a + 1) s)) s)

/-- IACC_LO_READ (R128): accumulator `j` of generator `g`, IACC0, QACC0, IACC1 and on; the high half is captured. -/
def execIaccLoRead (m : Master) (g : Fin 8) (j : Fin 8) (s : State) : Host.Outcome State Fault Refusal :=
  .next (readAt m .snd 0 (0x400 + 0x40 * g + 8 * j) (fun s =>
    let v := smGet (smConst 0) (gen s g).acc j
    let k := rk .snd 0 (0x400 + 0x40 * g + 8 * j)
    respond (wNat v.toNat) (wr (k + 4) (wNat (v.toNat / 2 ^ 32)) s)) s)

end Sys2Proof.Machine
end

