-- ==== Sys2Proof/Machine/Isl.lean ====
section
/-! DEFINITION. Islanding detection by coordinated soundings (R231 to R251): Gold codes, chip timing, measurement,
correlation in binary64, and the decision. -/

namespace Sys2Proof.Machine

/-- Change the islanding function. -/
def onIsl (f : Isl → Isl) (s : State) : State := { s with isl := f s.isl }
/-- Key of an ISL register (R249). -/
def islKey (off : Nat) : Nat := rk .isl 0 off
/-- Raise a cause of the ISL page. -/
def raiseIsl (k : Nat) (s : State) : State := raise .isl 0 k s
/-- CFG.PORT. -/
def islPort (s : State) : Nat := rdf s (islKey 0x040) 0 2
/-- CFG.LANE. -/
def islLane (s : State) : Nat := rdf s (islKey 0x040) 2 5
/-- The domain the function works on (R231). -/
def islDom (s : State) : Nat := gridDom s (islPort s)

/-! Codes (R232) -/

/-- `n` more bits of a recurrence, oldest first, from the last nine bits, newest first. -/
def goldRun (taps : List Nat) : Nat → List Bool → List Bool
  | 0, _ => []
  | n + 1, w =>
    let b := taps.foldl (fun a t => a != w.getD (t - 1) false) false
    b :: goldRun taps n (b :: w.take 8)

/-- A sequence of length 511 that starts with nine ones. -/
def goldSeq (taps : List Nat) : List Bool := List.replicate 9 true ++ goldRun taps 502 (List.replicate 9 true)
/-- u. -/
def goldU : List Bool := goldSeq [5, 9]
/-- v. -/
def goldV : List Bool := goldSeq [3, 5, 6, 9]
/-- The bits of code `a`. -/
def goldCode (a : Nat) : List Bool :=
  let r := a % 511
  List.zipWith (fun x y => x != y) goldU (goldV.drop r ++ goldV.take r)
/-- One bit of code `a`. -/
def goldBit (a p : Nat) : Bool := goldU.getD (p % 511) false != goldV.getD ((p + a) % 511) false

/-! Timing (R235, R236) -/

/-- A chip in units of 62.5 ps. -/
def chipUnits : Nat := 4000000
/-- A code period in units of 62.5 ps. -/
def codeUnits : Nat := 2044000000
/-- A chip in steps of 20 ps. -/
def chipSteps : Nat := 12500000

/-- The period in force of the function's domain divides 250 us. -/
def islFits (s : State) : Bool := chipSteps % max 1 (dom s (islDom s)).per = 0
/-- The function may run on Datum (R236). -/
def islAligned (s : State) : Bool := datumValid s && lockState s (islDom s) = 3 && islFits s

/-- Enter HOLD: the code period in progress is discarded. -/
def islHold (s : State) : State :=
  let now := s.now
  raiseIsl 4 (onIsl (fun x => { x with st := 3, holdAt := some now, first := none,
                                       chips := (if x.closing.isEmpty then [] else x.chips) }) s)

/-- HOLD and resumption as Datum, the lock and the period of the domain say (R246). -/
def islRefresh (s : State) : State :=
  let ok := islAligned s
  let s := if ok then s else onIsl (fun x => { x with epochs := false }) s
  match s.isl.st with
  | 1 | 2 => if ok then s else islHold s
  | 3 =>
    if !ok then s else
    raiseIsl 5 (onIsl (fun x => { x with st := 1, unsure := false, holdAt := none, first := none, shown := none,
                                         chips := (if x.closing.isEmpty then [] else x.chips) }) s)
  | _ => s

/-! The enable (R233, R234, R237, R247) -/

/-- Known codes of a table with own code `own`: entries not 0, other than code 0 and the own code. -/
def knownCodes (own : Nat) (t : List (Nat × Nat)) : List (Nat × Nat) := t.filter fun e => e.1 ≠ 0 && e.1 ≠ own
/-- A table respects the limit of R234. -/
def tableOk (own : Nat) (t : List (Nat × Nat)) : Bool := decide ((knownCodes own t).length + 1 ≤ 254)

/-- The own code that CODE selects; 0xFF is no ring address (R233, R336). -/
def ownCode (s : State) : Nat :=
  let c := rdf s (islKey 0x048) 0 9
  if c ≠ 0 then c else if nodeAddr s = 255 then 0 else nodeAddr s

/-- Fix A_eff (R237). -/
def fixAmp (s : State) : State :=
  let amp := rd s (islKey 0x04C)
  let lim := toF32 (fMul (f32 (rd s (gridKey (islPort s) 0x04C))) (fInt (root2 * 5 / 1000) (-48)))
  let a := minF (minF amp lim) (rd s (genKey 7 0x0C))
  let s := onIsl (fun x => { x with aeff := a, clamped := x.clamped || ltF a amp }) s
  if ltF a amp then raiseIsl 8 s else s

/-- The converters ISRC names. -/
def isrc (s : State) : List Nat :=
  let w := rd s (islKey 0x044)
  [fld w 0 5, fld w 8 5, fld w 16 5]

/-- The enable is refused (R247). -/
def islRefused (s : State) : Bool :=
  let d := islDom s
  let f := fun off => rd s (islKey off)
  let own := ownCode s
  decide (23 < d) || (isrc s).any (fun n => !(adcBound s n d)) || genBusy s 7 || own = 0 || decide (510 < own) ||
    !(posF (f 0x04C)) || !(posF (f 0x050)) || !(finF (f 0x054)) || !(finF (f 0x058)) || ltF (f 0x054) zeroF ||
    ltF (f 0x058) zeroF || rdf s (islKey 0x05C) 0 8 = 0 || !(tableOk own s.isl.amps)

/-- Write CTL.ENABLE. -/
def islEnable (s : State) : State :=
  if s.isl.st ≠ 0 then s
  else if islRefused s then raiseIsl 7 s
  else
    let own := ownCode s
    let s := onIsl (fun x => { wrong := x.wrong, amps := x.amps, res := x.res, decAt := x.decAt, table := x.amps, own := own, st := 1 }) s
    let s := fixAmp (wrb (rk .snd 0 0x00C) 16 true (setGen 7 {} s))
    islRefresh s

/-- Set the excitation (R231). -/
def islSetX (v : Word) (s : State) : State := onGen 7 (fun g => { g with x := v }) (onIsl (fun x => { x with x := v }) s)

/-- Write CTL.DISABLE: refused while a report stands (R244, R250). -/
def islDisable (s : State) : State :=
  if s.isl.st = 0 then s
  else if s.isl.st = 4 then raiseIsl 7 s
  else
    let s := wrb (rk .snd 0 0x00C) 16 false (islSetX 0 s)
    onIsl (fun x => { wrong := x.wrong, amps := x.amps, res := x.res, decAt := x.decAt }) s

/-- The report is cleared: the function goes on as Datum allows (R244), and UNSURE with it (R246); a period that ended before
is no longer judged. -/
def islClearReport (s : State) : State :=
  let s := islandReport (islPort s) false s
  let ok := islAligned s
  let s := onIsl (fun x => { x with first := none, st := (if x.epochs then 2 else 1), unsure := x.unsure && !ok,
                                       closing := x.closing.map fun p => { p with late := true } }) s
  islRefresh s

/-- Write CTL.CLEAR (R244). -/
def islClear (s : State) : State :=
  if s.isl.st ≠ 4 then s else
  let p := islPort s
  let st := (grid s p).st
  if st = 0 || (st = 8 && !(contactor s p)) || st = 9 then islClearReport s else raiseIsl 7 s

/-- After the grid port has moved from its state in `before`: the automatic clear as it enters WAIT_RS, and no injection while
the port is not in RUN (R236, R244). -/
def islPoll (before s : State) : State :=
  if s.isl.st = 0 then s else
  let p := islPort s
  let st := (grid s p).st
  let s := if s.isl.st = 4 && st = 9 && (grid before p).st ≠ 9 && rdb s (islKey 0x040) 11 then islClearReport s else s
  if st = 4 then s else islSetX 0 s

/-! Chips (R236, R239) -/

/-- Change the record of chip `n`, made where there is none; records of the last two code periods are kept. -/
def onChip (n : Nat) (f : Chip → Chip) (s : State) : State :=
  onIsl (fun x =>
    let cs := if x.chips.any fun c => c.n = n then x.chips.map fun c => if c.n = n then f c else c
      else x.chips ++ [f { n := n }]
    { x with chips := cs.drop (cs.length - 1100) }) s

/-- The chip of a period that starts at an instant on Datum, by the middle of the period. -/
def chipAt (s : State) (start per : Nat) : Nat := datumAt s (start + per / 2) / chipUnits

/-- The chip to present from the boundary at `start` (R236); a function that waits for an epoch presents its first chip, and
goes on from there where CODE_EPOCH has yet to come. -/
def chipNext (s : State) (start per : Nat) : Option Nat :=
  let x := s.isl
  match x.st with
  | 2 => some (chipAt s (start + per) per)
  | 1 =>
    let n := chipAt s (start + per) per
    let c := chipAt s start per
    if (n % 511 = 0 && n ≠ c) || (c % 511 = 0 && x.shown = some c) then some n else none
  | 3 =>
    match x.shown with
    | none => some 0
    | some n => if !(islFits s) || decide (x.locals < chipSteps / max 1 per) then some n else some (n + 1)
  | _ => none

/-- A local code period ends in HOLD where 511 chips have acted. -/
def islLocal (s : State) : State :=
  let x := s.isl
  if x.st ≠ 3 || x.cur = x.last then s else
  match x.cur, x.first with
  | some c, some f =>
    if c < f + 511 then s else
    let t := datumNow s
    fixAmp (onIsl (fun x => { x with first := some c, closing := x.closing ++ [⟨f, t, x.aeff, x.table, true, false⟩] }) s)
  | some c, none => onIsl (fun x => { x with first := some c }) s
  | none, _ => s

/-- The function's part of a boundary of its domain. -/
def islBoundary (d : Nat) (s : State) : State :=
  if s.isl.st = 0 || islDom s ≠ d || !(live s .eng) then s else
  let s := islRefresh s
  let x := s.isl
  let y := dom s d
  -- the period that ended carried no confirmation for the chip it presented
  let s := match x.shown with
    | some n => if x.conf then s else onChip n (fun c => { c with gap := true }) s
    | none => s
  let nx := chipNext s y.start y.per
  let s := onIsl (fun x => { x with last := x.cur, cur := x.shown, shown := nx, conf := false,
                                    locals := (if nx = x.shown then x.locals + 1 else 1) }) s
  let s := islLocal s
  let run := (grid s (islPort s)).st = 4
  let on := (s.isl.st = 2 || s.isl.st = 3 || (s.isl.st = 1 && s.isl.cur ≠ s.isl.last)) && islFits s
  let s := match s.isl.cur with
    | some n => if run && on then s else onChip n (fun c => { c with gap := true }) s
    | none => s
  match nx with
  | some n =>
    if run && islFits s then islSetX (if goldBit s.isl.own (n % 511) then s.isl.aeff else negF s.isl.aeff) s
    else islSetX 0 s
  | none => islSetX 0 s

/-- The window that an update of the port takes, before the update: it is turned into the port's frame at its centre and
adds to its chip (R239). -/
def islWindow (g : Nat) (s : State) : State :=
  if !(s.isl.st = 2 || s.isl.st = 3) || islPort s ≠ g then s else
  match s.isl.last with
  | none => s
  | some n =>
    let sets := (isrc s).map fun c => (adc s c).set
    let ok := sets.all (fun x => x.valid) && ((vsrc s g).map fun c => (adc s c).set).all fun x => x.valid
    let skip := rdf s (islKey 0x040) 8 3
    let th := (grid s g).theta
    let vec : Int × Int × Int → Int × Int := fun v =>
      rot48 (-th) ((2 * v.1 - v.2.1 - v.2.2) / 3) (div48 (v.2.1 - v.2.2) (sqrt48 (3 * one48)))
    let a : Nat → Int := fun j => toFx48 ((sets.map (·.value)).getD j 0)
    let (vd, vq) := vec (gridVolts s g)
    let (ci, cq) := vec (a 0, a 1, a 2)
    onChip n (fun c =>
      if c.seen < skip then { c with seen := c.seen + 1 }
      else if !ok then { c with seen := c.seen + 1, used := c.used + 1, gap := true }
      else { c with seen := c.seen + 1, used := c.used + 1, vd := add64 c.vd (fx64 vd), vq := add64 c.vq (fx64 vq),
                    ci := add64 c.ci (fx64 ci), cq := add64 c.cq (fx64 cq) }) s

/-! Correlation (R240, R241) -/

/-- A chip's response by its position: the means of its used windows. -/
structure Resp where
  p  : Nat
  vd : DWord
  vq : DWord
  ci : DWord
  cq : DWord
deriving DecidableEq, Repr

/-- The responses of the chips of a code period that are not gaps. -/
def responses (chips : List Chip) (first : Nat) : List Resp :=
  (chips.filter fun c => decide (first ≤ c.n ∧ c.n < first + 511) && !c.gap && c.used ≠ 0).map fun c =>
    let n := of64 c.used
    ⟨c.n % 511, div64 c.vd n, div64 c.vq n, div64 c.ci n, div64 c.cq n⟩

/-- Cv_a and Ci_a (R240). -/
def correlate (u : List Resp) (a : Nat) : Corr :=
  let code := goldCode a
  let n : Int := u.length
  let sgn' : Resp → Bool := fun r => code.getD r.p false
  let s : Int := (u.map fun r => if sgn' r then (1 : Int) else -1).foldl (· + ·) 0
  let d := sub64 (of64 n) (div64 (of64 (s * s)) (of64 n))
  let c : (Resp → DWord) → DWord := fun f =>
    let m := div64 (sum64 (u.map f)) (of64 n)
    div64 (sum64 (u.map fun r => let e := sub64 (f r) m; if sgn' r then e else neg64 e)) d
  ⟨a, c (·.vd), c (·.vq), c (·.ci), c (·.cq)⟩

/-- Quotient of two complex numbers. -/
def cdiv64 (a b : DWord × DWord) : DWord × DWord :=
  let m := add64 (mul64 b.1 b.1) (mul64 b.2 b.2)
  (div64 (add64 (mul64 a.1 b.1) (mul64 a.2 b.2)) m, div64 (sub64 (mul64 a.2 b.1) (mul64 a.1 b.2)) m)

/-- What a closed period gives: the correlations, Z_self, Z_agg, NOISE, |Ci_own|, the gaps and the codes. -/
structure IslEst where
  res   : List Corr
  zself : DWord × DWord
  zagg  : DWord × DWord
  noise : DWord
  ciOwn : DWord
  gaps  : Nat
  codes : Nat
deriving DecidableEq, Repr

/-- The estimates of a period (R241). -/
def estimate (x : Isl) (q : Bool) (per : IslPer) : IslEst :=
  let u := responses x.chips per.first
  let known := if per.hold then [] else knownCodes x.own per.table
  let ks := known.map fun e => correlate u e.1
  let own := correlate u x.own
  let c0 := correlate u 0
  let cio := mag64 own.ci own.cq
  let amps := add64 (sum64 (known.map fun e => div64 (of64 e.2) (of64 1000))) cio
  let sd := add64 (sum64 (ks.map (·.vd))) own.vd
  let sq := add64 (sum64 (ks.map (·.vq))) own.vq
  let agg := if q then (div64 sq amps, neg64 (div64 sd amps)) else (div64 sd amps, div64 sq amps)
  { res := ks ++ [own, c0], zself := cdiv64 (own.vd, own.vq) (own.ci, own.cq), zagg := agg,
    noise := div64 (mag64 c0.vd c0.vq) amps, ciOwn := cio, gaps := 511 - u.length, codes := known.length }

/-! Decision (R242, R243) -/

/-- A decision of a cause at a Datum time. -/
def islDecide (cause epoch : Nat) (payload : List Word) (s : State) : State :=
  let n := rdf s (islKey 0x070) 0 16
  let s := islSetX 0 (onIsl (fun x => { x with st := 4, shown := none, first := none, holdAt := none }) s)
  let s := islandReport (islPort s) true s
  let s := wr (islKey 0x094) (wNat (cause + 65536 * n)) s
  let s := onIsl (fun x => { x with decAt := epoch }) s
  logWith (pageNo .isl 0) payload (raiseIsl 0 s)

/-- Close a code period: the estimates, the tests and the decision. -/
def closePeriod (per : IslPer) (s : State) : State :=
  let x := s.isl
  let cfg := rd s (islKey 0x040)
  let e := estimate x (bit cfg 7) per
  let nmax := rd s (islKey 0x058)
  let le64 : DWord → DWord → Bool := fun a b => fLe (f64 a) (f64 b)
  let of32 : Word → DWord := fun w => toF64 (f32 w)
  let usable := decide (e.gaps ≤ fld cfg 16 7) && fLe (fScale (-1) (f32 per.amp)) (f64 e.ciOwn) &&
    (eqF nmax zeroF || le64 e.noise (of32 nmax))
  let basis := if bit cfg 13 && !per.hold then e.zagg else e.zself
  let big := le64 (of32 (rd s (islKey 0x050))) (mag64 basis.1 basis.2)
  let dz := rd s (islKey 0x054)
  let tc := rdf s (islKey 0x05C) 0 8
  let moved := ltF zeroF dz && decide (tc ≤ x.baseN) &&
    le64 (of32 dz) (mag64 (sub64 basis.1 x.baseR) (sub64 basis.2 x.baseX))
  let exceed := usable && (big || moved)
  let s := incMod (islKey 0x070) 0 16 s
  let s := if usable then incMod (islKey 0x070) 16 16 s else s
  let b : Bool → Nat → Nat := fun c v => if c then v else 0
  let s := wr (islKey 0x074) (wNat (e.gaps + b usable 512 + b exceed 1024 + b per.hold 2048 + 65536 * e.codes)) s
  let s := onIsl (fun x => { x with res := e.res, chips := x.chips.filter fun c => decide (per.first + 511 ≤ c.n) }) s
  let s := wr (islKey 0x078) (to32 e.zself.1) (wr (islKey 0x07C) (to32 e.zself.2) s)
  let s := wr (islKey 0x080) (to32 e.zagg.1) (wr (islKey 0x084) (to32 e.zagg.2) s)
  let s := wr (islKey 0x08C) (to32 e.noise) (wr (islKey 0x090) (to32 e.ciOwn) s)
  let step : DWord → DWord → DWord := fun z v =>
    if x.baseN = 0 then v else add64 z (div64 (sub64 v z) (of64 tc))
  let s := if usable && !exceed && !per.late then
      onIsl (fun x => { x with baseR := step x.baseR basis.1, baseX := step x.baseX basis.2, baseN := x.baseN + 1 }) s
    else s
  let s := raiseIsl 2 s
  let s := if usable then s else raiseIsl 3 s
  if exceed && x.st ≠ 4 && !per.late then
    islDecide (if big then 1 else 2) per.epoch
      [to32 (mag64 e.zagg.1 e.zagg.2), to32 (mag64 e.zself.1 e.zself.2), to32 e.noise] s
  else s

/-- A code epoch of Datum time (R234, R235, R237): the period that ends waits to be closed, the table written takes
effect, A_eff is fixed, and a function that waits begins to run. -/
def islEpoch (epoch : Nat) (s : State) : State :=
  if s.isl.st = 0 || !(live s .eng) then s else
  let s := islRefresh s
  let n := epoch / chipUnits
  let s := match s.isl.st, s.isl.first with
    | 2, some f => onIsl (fun x => { x with closing := x.closing ++ [⟨f, epoch, x.aeff, x.table, false, false⟩] }) s
    | _, _ => s
  let s := if tableOk s.isl.own s.isl.amps then onIsl (fun x => { x with table := x.amps }) s else raiseIsl 7 s
  let s := fixAmp s
  let ok := islAligned s
  onIsl (fun x => match x.st with
    | 1 | 2 => { x with st := 2, first := some n, epochs := true }
    | 4 => { x with epochs := ok }
    | _ => x) s

/-- A write of `v` to the confirmation port by a successful pass of lane `n` (R238). -/
def islConfirm (n : Nat) (v : Word) (s : State) : State :=
  if n = islLane s then onIsl (fun x => { x with conf := x.conf || v = 1 }) s
  else raiseIsl 6 (onIsl (fun x => { x with wrong := true }) s)

/-! The page -/

/-- Write ISL.CTL (R247, R250). -/
def writeIslCtl (v : Word) (s : State) : State :=
  let s := if bit v 0 then islEnable s else s
  let s := if bit v 1 then islDisable s else s
  if bit v 2 then islClear s else s

/-- An amplitude entry that will apply from the next epoch. -/
def ampEntry (s : State) (a : Nat) : Nat := smGet (smConst 0) s.isl.amps a
/-- AMP_ADDR advances modulo 511 (R249). -/
def ampNext (s : State) : State :=
  wrf (islKey 0x0A0) 0 9 ((rdf s (islKey 0x0A0) 0 9 + 1) % 511) s
/-- Write AMP_DATA (R234). -/
def writeAmp (v : Word) (s : State) : State :=
  let a := rdf s (islKey 0x0A0) 0 9
  ampNext (if a < 511 then onIsl (fun x => { x with amps := smSet (smConst 0) x.amps a (fld v 0 16) }) s else s)

/-- Write an ISL register that is not guarded. -/
def writeIsl (off : Nat) (v : Word) (s : State) : State :=
  match off with
  | 0x064 => writeIslCtl v s
  | 0x068 => if bit v 5 then onIsl (fun x => { x with wrong := false }) s else s
  | 0x0A4 => writeAmp v s
  | _ => plainWrite (islKey off) v s

/-- A guarded write of an ISL register is accepted: only in OFF (R247). -/
def islWriteOk (s : State) : Bool := s.isl.st = 0

/-- STAT (R250). -/
def islStat (s : State) : Word :=
  let x := s.isl
  let b : Bool → Nat → Nat := fun c v => if c then v else 0
  wNat (x.st + b x.unsure 8 + b x.clamped 16 + b x.wrong 32 + 65536 * x.own)

/-- A read of an ISL register that mirrors hidden state (R249). -/
def readIsl (s : State) (off : Nat) : Option Word :=
  let x := s.isl
  let c := (x.res.find? fun c => c.code = rdf s (islKey 0x0A8) 0 9).getD ⟨0, 0, 0, 0, 0⟩
  match off with
  | 0x00C => some (islStat s &&& 0xFF)
  | 0x068 => some (islStat s)
  | 0x06C => some x.aeff
  | 0x088 => some (to32 (mag64 x.baseR x.baseX))
  | 0x098 => some (wNat x.decAt)
  | 0x0AC => some (to32 c.vd)
  | 0x0B0 => some (to32 c.vq)
  | 0x0B4 => some (to32 c.ci)
  | 0x0B8 => some (to32 c.cq)
  | _ => none

/-- PD_ENG is switched off: a standing report is lost (R248). -/
def islOff (s : State) : State :=
  let s := if s.isl.st = 4 then islandReport (islPort s) false s else s
  { s with isl := {} }

/-! Meanings -/

/-- A write of GRIDg.CTL and what follows for the islanding function. -/
def gridCtl (g : Nat) (v : Word) (s : State) : State := islPoll s (writeGridCtl g v s)

/-- LEG_DOMAIN_WRITE (R132). -/
def execLegDomainWrite (m : Master) (l : Fin 96) (v : Word) (s : State) : Host.Outcome State Fault Refusal :=
  .next (byBus m .pwmg (l / 8) (0x100 + 0x40 * (l % 8)) (fun s => islRefresh (writeLegCfg l v s)) s)

/-- GRID_UPDATE (R205): the islanding function takes the window first (R239). -/
def execGridUpdate (g : Fin 4) (s : State) : Host.Outcome State Fault Refusal :=
  let x := grid s g.val
  let d := dom s (gridDom s g.val)
  .next (
    if x.st = 0 || !(live s .eng) || !(domRuns s (gridDom s g.val)) || !d.begun || x.upK = some d.k then s
    else islPoll s (gridUpdate g.val (islWindow g.val s)))

/-- GRID_CONNECT (R204). -/
def execGridConnect (m : Master) (g : Fin 4) (s : State) : Host.Outcome State Fault Refusal :=
  .next (byBus m .grid g.val 0x0E0 (fun s => gridCtl g.val 1 s) s)

/-- GRID_DISCONNECT (R219). -/
def execGridDisconnect (m : Master) (g : Fin 4) (s : State) : Host.Outcome State Fault Refusal :=
  .next (byBus m .grid g.val 0x0E0 (fun s => gridCtl g.val 2 s) s)

/-- ISL_ENABLE (R247). -/
def execIslEnable (m : Master) (s : State) : Host.Outcome State Fault Refusal :=
  .next (byBus m .isl 0 0x064 (fun s => writeIslCtl 1 s) s)

/-- ISL_DISABLE (R250). -/
def execIslDisable (m : Master) (s : State) : Host.Outcome State Fault Refusal :=
  .next (byBus m .isl 0 0x064 (fun s => writeIslCtl 2 s) s)

/-- ISL_CLEAR (R244). -/
def execIslClear (m : Master) (s : State) : Host.Outcome State Fault Refusal :=
  .next (byBus m .isl 0 0x064 (fun s => writeIslCtl 4 s) s)

/-- CODE_EPOCH (R235): the next epoch of local Datum time. -/
def execCodeEpoch (s : State) : Host.Outcome State Fault Refusal :=
  .next (
    if s.isl.st = 0 || s.datum.st = .off || !(live s .eng) then s else
    let e := (datumNow s / codeUnits + 1) * codeUnits
    let e := if 2 ^ 64 ≤ e then 0 else e
    islEpoch e (upto (datumInstant s e) s))

/-- PERIOD_CLOSED (R240): the oldest code period that waits. -/
def execPeriodClosed (s : State) : Host.Outcome State Fault Refusal :=
  .next (
    match s.isl.closing with
    | [] => s
    | p :: ps => closePeriod p (onIsl (fun x => { x with closing := ps }) s))

/-- UNSURE (R246): HOLD has lasted DATUM_TMO ms, once in each HOLD. -/
def execUnsure (s : State) : Host.Outcome State Fault Refusal :=
  .next (
    let tmo := rdf s (islKey 0x060) 0 16
    match s.isl.st, s.isl.holdAt with
    | 3, some t =>
      if tmo = 0 then s else
      let s := raiseIsl 1 (onIsl (fun x => { x with unsure := true, holdAt := none }) (upto (t + tmo * msec) s))
      if rdb s (islKey 0x040) 12 then
        let z := fun off => to32 (mag64 (toF64 (f32 (rd s (islKey off)))) (toF64 (f32 (rd s (islKey (off + 4))))))
        islDecide 3 (datumNow s) [z 0x080, z 0x078, rd s (islKey 0x08C)] s
      else s
    | _, _ => s)

/-- A read of DEC_TIME_LO captures DEC_TIME_HI (R249). -/
def readDecTime (s : State) : State :=
  respond (wNat s.isl.decAt) (wr (islKey 0x09C) (wNat (s.isl.decAt / 4294967296)) s)

/-- AMP_DATA_ACCESS (R249): a write of an entry, or a read. -/
def execAmpDataAccess (m : Master) (w : Option Word) (s : State) : Host.Outcome State Fault Refusal :=
  .next (
    match w with
    | some v => byBus m .isl 0 0x0A4 (writeAmp v) s
    | none => readAt m .isl 0 0x0A4 (fun s => respond (wNat (ampEntry s (rdf s (islKey 0x0A0) 0 9))) (ampNext s)) s)

end Sys2Proof.Machine
end

