-- ==== Sys2Proof/Machine/Meters.lean ====
section
/-! DEFINITION. Metering and energy registers (R294 to R318): samples, calibration segments, grid cycles, per-cycle
quantities, energy accumulators and pulse outputs. -/

namespace Sys2Proof.Machine

/-- Default of a metering port. -/
def meter0 (_ : Nat) : Meter := {}
/-- A metering port. -/
def meter (s : State) (p : Nat) : Meter := smGet meter0 s.meters p
/-- Set a metering port. -/
def setMeter (p : Nat) (x : Meter) (s : State) : State := { s with meters := smSet meter0 s.meters p x }
/-- Change a metering port. -/
def onMeter (p : Nat) (f : Meter → Meter) (s : State) : State := setMeter p (f (meter s p)) s
/-- Key of an MTR register (R316). -/
def mtrKey (p off : Nat) : Nat := rk .mtr p off
/-- Raise a cause of an MTR page. -/
def raiseMtr (p k : Nat) (s : State) : State := raise .mtr p k s
/-- Key of a channel register. -/
def chKey (p c off : Nat) : Nat := mtrKey p (0x200 + 0x80 * c + off)
/-- CFG.WIRING: three-wire. -/
def threeWire (s : State) (p : Nat) : Bool := rdb s (mtrKey p 0x040) 0
/-- The used channels (R294). -/
def usedCh (s : State) (p : Nat) : List Nat := if threeWire s p then [0, 2, 3, 5] else [0, 1, 2, 3, 4, 5]
/-- The used elements: phases. -/
def elements (s : State) (p : Nat) : List Nat := if threeWire s p then [0, 2] else [0, 1, 2]
/-- CFG.REF. -/
def refCh (s : State) (p : Nat) : Nat := rdf s (mtrKey p 0x040) 2 2
/-- FNOM in hertz. -/
def mtrFnom (s : State) (p : Nat) : Nat := if rdb s (mtrKey p 0x040) 1 then 60 else 50
/-- One sample in 2^-16 sample. -/
def oneSample : Nat := 65536
/-- A sample in steps of 20 ps: 25 us (R295). -/
def sampleLen : Nat := 1250000

/-! Calibration (R296, R314) -/

/-- A register as it stood at an instant of the last samples: a write takes effect at the next cycle boundary (R296). -/
def regAt (s : State) (x : Meter) (t k : Nat) : Word :=
  match x.calOld.find? fun e => decide (e.2.1 = k ∧ t < e.1) with
  | some e => e.2.2
  | none => rd s k

/-- Valid segments of a channel, of registers as `f` gives them. -/
def validSegs (f : Nat → Word) (p c : Nat) : List Nat := setBits (f (chKey p c 0x08)) 8
/-- TOP of a segment. -/
def segTop (f : Nat → Word) (p c g : Nat) : Word := f (chKey p c (0x10 + 0xC * g))

/-- A finite positive value. -/
def posMtr (w : Word) : Bool := finF w && ltF zeroF w

/-- Strictly increasing. -/
def rising : List Word → Bool
  | a :: b :: r => ltF a b && rising (b :: r)
  | _ => true

/-- The rules of R314 on a port's settings: those of scale and presence on the used channels, those of the valid segments on
every channel. -/
def mtrRules (s : State) (p : Nat) : Bool :=
  let f := rd s
  let used := (usedCh s p).all fun c => posMtr (rd s (chKey p c 0)) && !(validSegs f p c).isEmpty
  let chans := (List.range 6).all fun c =>
    let gs := validSegs f p c
    (gs.all fun g => posMtr (segTop f p c g)) && rising (gs.map (segTop f p c)) &&
    gs.all fun g =>
      let d := fAdd (f32 (rd s (chKey p c 0x04))) (f32 (rd s (chKey p c (0x18 + 0xC * g))))
      posMtr (rd s (chKey p c (0x14 + 0xC * g))) && fLe (fAbs d) (fInt 100 0)
  let ist := rd s (mtrKey p 0x048)
  (usedCh s p).contains (refCh s p) && decide (refCh s p < 3) && used && chans && posMtr (rd s (mtrKey p 0x044)) && finF ist && !(ltF ist zeroF)

/-- The calibration of a channel by segment `g`; `neg` negates it (INV_I). -/
def calOf (f : Nat → Word) (p c g : Nat) (neg xtr : Bool) : MtrCal :=
  let scale := toFx48 (f (chKey p c 0))
  let gain := fx scale (toFx48 (f (chKey p c (0x14 + 0xC * g))))
  let us := fAdd (f32 (f (chKey p c 0x04))) (f32 (f (chKey p c (0x18 + 0xC * g))))
  { gain := (if neg then -gain else gain), delay := clampInt (-262144) 262144 (fRound (fDiv (fScale 16 us) (fInt 25 0))), seg := g,
    xtr := xtr, top := (validSegs f p c).getLast?.map fun g => toFx48 (segTop f p c g), scale := scale }

/-- The calibration for a new cycle, from the registers as `f` gives them and the RMS of the cycle that has closed; none in the
first (R296). -/
def calNext (s : State) (f : Nat → Word) (p : Nat) (rms : Option (List Int)) : List MtrCal :=
  (List.range 6).map fun c =>
    if !((usedCh s p).contains c) then {} else
    let gs := validSegs f p c
    let neg := decide (3 ≤ c) && rdb s (mtrKey p 0x040) 6
    match rms with
    | none => calOf f p c (gs.headD 0) neg false
    | some r =>
      let x := r.getD c 0
      match gs.find? fun g => decide (x ≤ toFx48 (segTop f p c g)) with
      | some g => calOf f p c g neg false
      | none => calOf f p c (gs.getLastD 0) neg true

/-- Interpolation of a list, newest first, at a position in 2^-16 sample; the ends are held. -/
def interp (xs : List Int) (pos : Int) : Int :=
  let q := max 0 pos
  let i := (q / 65536).toNat
  let f := q % 65536
  let a := xs.getD i (xs.getLastD 0)
  let b := xs.getD (i + 1) (xs.getLastD 0)
  a + (b - a) * f / 65536

/-- The corrected channels of the sample at index `j` of the raw list (R296). -/
def corrected (x : Meter) (j : Nat) : List Int :=
  (List.range 6).map fun c =>
    let k := x.cal.getD c {}
    if k.gain = 0 then 0 else fx k.gain (interp (x.raw.map fun r => r.v.getD c 0) (65536 * j + k.delay))

/-! Cycles (R298 to R301) -/

/-- RMS of a channel over the parts of a cycle. -/
def rmsOf (parts : List (Nat × List Int)) (len c : Nat) : Int :=
  let sum := parts.foldl (fun a e => a + e.1 * fx (e.2.getD c 0) (e.2.getD c 0)) (0 : Int)
  sqrt48 (sum / max 1 (len : Int))

/-- The fundamental phasor of a channel over a cycle (R300); the parts are newest first. -/
def phasor (parts : List (Nat × List Int)) (len c : Nat) : Int × Int :=
  let n : Int := max 1 len
  let r := parts.reverse.foldl (fun (a : Nat × Int × Int) e =>
    let ang := -((a.1 : Int) * 65536 * one48 / n)
    let y := e.2.getD c 0
    (a.1 + 1, a.2.1 + e.1 * fx y (cos48 ang), a.2.2 + e.1 * fx y (sin48 ang))) (0, 0, 0)
  (2 * r.2.1 / n, 2 * r.2.2 / n)

/-- Length of a cycle placed in FREE (R299). -/
def freeLen (s : State) (p : Nat) (x : Meter) : Nat := x.last.getD (40000 * 65536 / mtrFnom s p)

/-- Add a part of a sample to the cycle in progress: weight, channels, p and q (R301, R304). -/
def addPart (w : Nat) (v : List Int) (pw q : Int) (sat hold : Bool) (x : Meter) : Meter :=
  let e := w * pw
  let r := w * q
  let sums := [x.sums.getD 0 0 + max e 0, x.sums.getD 1 0 + max (-e) 0, x.sums.getD 2 0 + max r 0, x.sums.getD 3 0 + max (-r) 0]
  { x with cyc := (w, v) :: x.cyc, len := x.len + w, sinceX := x.sinceX + w, sums := sums, qSum := x.qSum + r,
           sat := x.sat || sat, hold := x.hold || hold }

/-- What the cycle in progress gives as it ends at an instant. -/
def endedCycle (s : State) (p : Nat) (x : Meter) (fin : Nat) (valid : Bool) : MtrCyc :=
  let n : Int := max 1 x.len
  { len := x.len, fin := fin, rms := (List.range 6).map (rmsOf x.cyc x.len), q := x.qSum / n,
    p := (List.range 3).map fun e =>
      if (elements s p).contains e then
        x.cyc.foldl (fun a y => a + y.1 * fx (y.2.getD e 0) (y.2.getD (3 + e) 0)) (0 : Int) / n
      else 0,
    ph := (List.range 6).map (phasor x.cyc x.len), sums := x.sums, valid := valid, free := x.free, sat := x.sat,
    hold := x.hold, cal := x.cal }

/-- A boundary ends the cycle in progress and begins the next, with the calibration that the registers gave at that instant
(R296, R298). -/
def cycleBoundary (s : State) (p fin : Nat) (crossing valid : Bool) (x : Meter) : Meter :=
  let c := endedCycle s p x fin valid
  { x with ended := x.ended ++ [c], cyc := [], len := 0, sinceX := 0, sums := [0, 0, 0, 0], qSum := 0, sat := false, hold := false,
           whole := crossing, free := decide (x.st = 3) && !crossing, cal := calNext s (regAt s x fin) p (some c.rms),
           last := (if valid then some c.len else x.last), freeEnd := freeLen s p x }

/-- The reactive sample (R301). -/
def reactive (s : State) (p : Nat) (x : Meter) (v : List Int) : Int :=
  let t := x.last.getD (40000 * 65536 / mtrFnom s p)
  let hs := v :: x.hist
  (elements s p).foldl (fun a e => a + fx (interp (hs.map fun h => h.getD e 0) (t / 4)) (v.getD (3 + e) 0)) 0

/-- A corrected sample with its power and reactive power (R296, R301, R304). -/
structure MtrSample where
  v : List Int
  p : Int
  q : Int
deriving DecidableEq, Repr

/-- The sample at index `j` of the raw list, corrected by the calibration of the cycle in progress. -/
def sampleOf (s : State) (p j : Nat) (x : Meter) : MtrSample :=
  let v := corrected x j
  { v := v, p := (elements s p).foldl (fun a e => a + fx (v.getD e 0) (v.getD (3 + e) 0)) 0, q := reactive s p x v }

/-- Process the raw sample at index `j`: it is corrected, and a boundary that falls in it splits it (R298); each part is
corrected by the calibration of its own cycle (R296). -/
def processRaw (s : State) (p j : Nat) (x : Meter) : Meter :=
  match x.raw[j]? with
  | none => x
  | some r =>
    let y := sampleOf s p j x
    let v := y.v
    let rv := v.getD (refCh s p) 0
    let sqs := (fx rv rv :: x.sqs).take 800
    let rms := sqrt48 (sqs.foldl (· + ·) 0 / max 1 (sqs.length : Int))
    let old := x.hist
    let x := { x with hist := (v :: old).take 300, sqs := sqs }
    let strong := decide (toFx48 (rd s (mtrKey p 0x044)) ≤ rms)
    let near : Nat → Bool := fun f =>
      let t := x.sinceX + f
      decide (40000 * 65536 ≤ 70 * t ∧ 40 * t ≤ 40000 * 65536)
    let crossAt := r.cross.filter fun f => strong && (x.st = 3 || near f)
    let part : Nat → MtrSample → Meter → Meter := fun w y x => addPart w y.v y.p y.q r.sat r.hold x
    let split : Nat → Bool → Bool → Meter → Meter := fun f crossing valid x =>
      let at' := r.fin - sampleLen + f * sampleLen / 65536
      let x := cycleBoundary s p at' crossing valid (part f y x)
      let z := sampleOf s p j { x with hist := old }
      part (65536 - f) z { x with hist := (z.v :: old).take 300 }
    match crossAt with
    | some f =>
      if x.st = 3 && decide (x.len + f < 200 * 65536) then
        -- back in RUN, but the cycle in progress runs on to the next accepted crossing
        let y := part 65536 y { x with st := 2, whole := false, free := false }
        { y with sinceX := 65536 - f }
      else split f true (x.st = 2 && x.whole) { x with st := 2 }
    | none =>
      if x.st = 3 && decide (x.freeEnd ≤ x.len + 65536) then split (x.freeEnd - x.len) false false x
      else part 65536 y x

/-- A sample of a port ends (R295): the codes of its six channels in nanovolts at the pins, and where in it the reference
channel's fundamental crosses zero upwards, if it does. -/
def meterSample (p : Nat) (nv : List Int) (cross : Option Nat) (s : State) : State :=
  let x := meter s p
  let t := x.sampAt + sampleLen
  let s := upto t s
  let used := usedCh s p
  let lim := (List.range 6).map fun c => clampInt (-500000000) 500000000 (nv.getD c 0)
  let sat := used.any fun c => decide (lim.getD c 0 ≠ nv.getD c 0)
  let v := lim.map fun n => n * one48 / 1000000000
  let hpf := rdb s (mtrKey p 0x040) 5
  let a := expNeg48 (twoPi48 / 80000)
  let hp := (List.range 6).map fun c =>
    let o := x.hp.getD c (v.getD c 0, 0)
    (v.getD c 0, fx a (o.2 + v.getD c 0 - o.1))
  let out := if hpf then hp.map (·.2) else v
  let raw := ({ v := out, sat := sat, hold := !s.clk.locked, cross := cross, fin := t } : MtrRaw) :: x.raw
  let x : Meter := { x with sampAt := t, hp := hp, raw := raw.take 10 }
  setMeter p (if 5 ≤ x.raw.length then processRaw s p 4 x else x) s

/-! The close of a cycle (R297, R300 to R309) -/

/-- An energy sum with 64 fraction bits of watt samples, in 2^-32 mWh: 25 us a sample, 3.6 J a mWh. -/
def toEnergy (i : Int) : Nat := (i / (144000 * 2 ^ 32)).toNat

/-- Add energy to an accumulator (R305, R306). -/
def addEnergy (p k e : Nat) (s : State) : State :=
  let x := meter s p
  let v := smGet (smConst 0) x.accs k + e
  let s := setMeter p { x with accs := smSet (smConst 0) x.accs k (v % 2 ^ 80) } s
  if v < 2 ^ 80 then s else raiseMtr p 5 (wrb (mtrKey p 0x140) k true s)

/-- A preset takes effect (R308). -/
def takePreset (p : Nat) (s : State) : State :=
  match (meter s p).preset with
  | none => s
  | some (k, v) =>
    let s := onMeter p (fun x => { x with preset := none, presetFlag := true, accs := smSet (smConst 0) x.accs k (v * 2 ^ 32) }) s
    raiseMtr p 6 (wrb (mtrKey p 0x140) k false s)

/-- Take whole pulses out of a stage register. -/
def takePulses (q : Nat) : Nat → State → State
  | 0, s => s
  | n + 1, s =>
    let x := meter s q
    if x.pReg < 1000000 * 2 ^ 32 then s else
    let y := { x with pReg := x.pReg - 1000000 * 2 ^ 32 }
    takePulses q n (
      if x.pend < 65535 then setMeter q { y with pend := x.pend + 1 } s
      else raiseMtr q 10 (setMeter q { y with ovf := held 65535 (x.ovf + 1) } s))

/-- The pulse stages that take energy from port `p`: energies in the order of the accumulators (R309). -/
def feedPulses (p : Nat) (es : List Nat) (s : State) : State :=
  let e := fun k => es.getD k 0
  forEach (List.range 4) (fun q s =>
    let cfg := rd s (mtrKey q 0x064)
    if fld cfg 0 2 ≠ p then s else
    let w := match fld cfg 4 3 with
      | 0 => 0
      | 6 => e 0 + e 1
      | n => e (n - 1)
    let k := rdf s (mtrKey q 0x068) 0 20
    let s := onMeter q (fun x => { x with pReg := x.pReg + w * k }) s
    takePulses q ((meter s q).pReg / (1000000 * 2 ^ 32)) s) s

/-- Angle of a phasor in degrees, with 48 fraction bits. -/
def degOf (a b : Int × Int) : Int :=
  let t := wrap48 (atan48 b.2 b.1 - atan48 a.2 a.1)
  t * 360

/-- Within 30 degrees of a value. -/
def nearDeg (x : Int) (d : Int) : Bool := decide ((wrap48 (x / 360 - d * one48 / 360)).natAbs * 360 ≤ 30 * one48.natAbs)

/-- A flag that sets after `n` bad cycles in a row and clears after `n` good ones: bad, good, flag. -/
def debounce (n bad good : Nat) (flag isBad isGood : Bool) : Nat × Nat × Bool :=
  let b := if isBad then bad + 1 else 0
  let g := if isGood then good + 1 else 0
  (min b 16, min g 16, if flag then !(decide (n ≤ g)) else decide (n ≤ b))

/-- Magnitude of a sum of phasors, each turned by an angle in thirds of a turn. -/
def sumPh (l : List ((Int × Int) × Int)) : Int :=
  let r := l.foldl (fun (a : Int × Int) e =>
    let t := rot48 (e.2 * one48 / 3) e.1.1 e.1.2
    (a.1 + t.1, a.2 + t.2)) (0, 0)
  mag48 r.1 r.2

/-- Sequence, neutral and voltage checks at a close (R302, R303): the results are the flags of the cycle. -/
def mtrChecks (p : Nat) (c : MtrCyc) (s : State) : Bool × Bool × State :=
  let x := meter s p
  let three := threeWire s p
  let vmin := toFx48 (rd s (mtrKey p 0x044))
  let volts := (usedCh s p).filter (· < 3)
  let okV : Nat → Bool := fun ch => decide (vmin ≤ c.rms.getD ch 0)
  let det := rd s (mtrKey p 0x04C)
  let acb := rdb s (mtrKey p 0x040) 4
  let ang := degOf (c.ph.getD 0 (0, 0)) (c.ph.getD (if three then 2 else 1) (0, 0))
  let want : Int := (if three then 60 else -120) * (if acb then -1 else 1)
  let check := volts.all okV
  let bad := check && nearDeg ang (-want)
  let (sb, so, se) := debounce (max 1 (fld det 12 4)) x.seqBad x.seqOk x.seqErr bad (check && nearDeg ang want)
  let k : Int := if acb then -1 else 1
  let ph := fun i => c.ph.getD i (0, 0)
  let zero := sumPh [(ph 0, 0), (ph 1, 0), (ph 2, 0)]
  let pos := sumPh [(ph 0, 0), (ph 1, k), (ph 2, 2 * k)]
  let missing := !three && decide (pos * fld det 0 8 < zero * 100)
  let (nb, no, ne) := debounce (max 1 (fld det 8 4)) x.neutBad x.neutOk x.neut missing (!missing)
  let loss := volts.foldl (fun m ch => if !(okV ch) && volts.any okV then m + 2 ^ ch else m) 0
  let newLoss := (List.range 3).any fun ch => loss.testBit ch && !(x.vloss.testBit ch)
  let s := setMeter p { x with seqBad := sb, seqOk := so, seqErr := se, neutBad := nb, neutOk := no, neut := ne, vloss := loss } s
  let hit : Bool → Nat → State → State := fun c k s => if c then logHap (pageNo .mtr p) (raiseMtr p k s) else s
  (bad, missing, hit newLoss 4 (hit (ne && !x.neut) 3 (hit (se && !x.seqErr) 2 s)))

/-- Close an ended cycle: quantities, accumulators, pulse stages, checks and the page registers (R312). -/
def closeCycle (p : Nat) (c : MtrCyc) (s : State) : State :=
  let used := usedCh s p
  let els := elements s p
  let r := fun ch => c.rms.getD ch 0
  let stot := els.foldl (fun a e => a + fx (r e) (r (3 + e))) 0
  let ptot := c.p.foldl (· + ·) 0
  let full := els.foldl (fun a e =>
    a + fx ((c.cal.getD e {}).scale / 2) ((c.cal.getD (3 + e) {}).scale / 2)) 0
  let pf := if stot * 1000 < full || stot = 0 then 0 else div48 ptot stot
  let xch := used.filter fun ch =>
    let k := c.cal.getD ch {}
    k.xtr || k.top.any fun t => decide (t < r ch)
  let xtr := !xch.isEmpty
  let ist := rd s (mtrKey p 0x048)
  let creep := ltF zeroF ist && (used.filter (3 ≤ ·)).all fun ch => decide (r ch < toFx48 ist)
  let s := takePreset p s
  let es := [toEnergy (c.sums.getD 0 0), toEnergy (c.sums.getD 1 0), toEnergy (c.sums.getD 2 0), toEnergy (c.sums.getD 3 0),
    toEnergy (stot * c.len)]
  let s := if creep then s else
    let s := forEach (List.range 5) (fun k s => addEnergy p k (es.getD k 0) s) s
    let s := if xtr then addEnergy p 6 (es.getD 1 0) (addEnergy p 5 (es.getD 0 0) s) else s
    feedPulses p es s
  let (bad, missing, s) := mtrChecks p c s
  let x := meter s p
  let rtc := !(datumValid s)
  let ts := if rtc then rtcNow { s with now := c.fin } else datumAt s c.fin
  let b : Bool → Nat → Nat := fun c v => if c then v else 0
  let flags := b c.valid 1 + b c.free 2 + b xtr 4 + b c.sat 8 + b c.hold 16 + b rtc 32 + b creep 64 + b bad 128 + b missing 256
  let seg := (List.range 6).foldl (fun a ch => a + (c.cal.getD ch {}).seg * 16 ^ ch) 0 + (xch.foldl (fun a ch => a + 2 ^ ch) 0) * 0x1000000
  let ang := fun i => ofFx48 (if used.contains i then degOf (c.ph.getD 0 (0, 0)) (c.ph.getD i (0, 0)) else 0)
  let mwh : Nat → Word := fun e => toF32 (fInt e (-32))
  let cnt := (x.latest.getD 0 0) + 1
  let f := ofFx48
  let us := fun ch => f (if used.contains ch then r ch else 0)
  let words := [cnt, wNat c.len, wNat flags, wNat ts, wNat (ts / 2 ^ 32), f (40000 * 65536 * one48 / max 1 c.len)] ++
    (List.range 6).map us ++ c.p.map f ++ [f ptot, f c.q, f stot, f pf] ++ [1, 2, 3, 4, 5].map ang ++
    [mwh (es.getD 0 0), mwh (es.getD 1 0), wNat seg]
  let s := setMeter p { x with latest := words, wasXtr := xtr, wasHold := c.hold } s
  let s := if xtr && !x.wasXtr then raiseMtr p 1 s else s
  let s := if c.sat then raiseMtr p 7 s else s
  let s := if c.hold && !x.wasHold then raiseMtr p 9 s else s
  raiseMtr p 0 s

/-- Close every cycle that waits. -/
def closeAll (p : Nat) : Nat → State → State
  | 0, s => s
  | n + 1, s =>
    match (meter s p).ended with
    | [] => s
    | c :: cs => closeAll p n (closeCycle p c (onMeter p (fun x => { x with ended := cs }) s))

/-! The page -/

/-- Write CTL.ENABLE (R314). -/
def mtrEnable (p : Nat) (s : State) : State :=
  let x := meter s p
  if x.st ≠ 0 then s
  else if !(mtrRules s p) then raiseMtr p 11 s
  else
    let cal := calNext s (rd s) p none
    let now := s.now
    setMeter p { st := 1, sampAt := now, cal := cal, accs := x.accs, preset := x.preset, latest := x.latest, presetFlag := x.presetFlag,
                 seqErr := x.seqErr, neut := x.neut, vloss := x.vloss,
                 pReg := x.pReg, pend := x.pend, ovf := x.ovf, pulse := x.pulse, pulseEnd := x.pulseEnd } s

/-- Write CTL.DISABLE (R314): the samples taken are counted, and the cycle in progress closes with VALID = 0. -/
def mtrDisable (p : Nat) (s : State) : State :=
  let x := meter s p
  if x.st = 0 then s else
  let n := min 4 x.raw.length
  let x := (List.range n).reverse.foldl (fun x j => processRaw s p j x) x
  let c := endedCycle s p x x.sampAt false
  let s := setMeter p { x with ended := (if x.len = 0 then x.ended else x.ended ++ [c]) } s
  let s := closeAll p ((meter s p).ended.length) s
  onMeter p (fun x => { accs := x.accs, preset := x.preset, latest := x.latest, presetFlag := x.presetFlag, seqErr := x.seqErr,
                        neut := x.neut, vloss := x.vloss, pReg := x.pReg, pend := x.pend, ovf := x.ovf, pulse := x.pulse,
                        pulseEnd := x.pulseEnd }) s

/-- Write CTL.PRESET (R308): at once while the port is OFF. -/
def mtrPreset (p : Nat) (s : State) : State :=
  let k := rdf s (mtrKey p 0x058) 0 3
  if k = 7 then s else
  let v := (rd s (mtrKey p 0x05C)).toNat + 2 ^ 32 * rdf s (mtrKey p 0x060) 0 16
  let s := onMeter p (fun x => { x with preset := some (k, v) }) s
  if (meter s p).st = 0 then takePreset p s else s

/-- The field-book entry of a preset (R308, R408): a requested action of kind 7. -/
def bookPreset (m : Master) (p : Nat) (s : State) : State :=
  let k := rdf s (mtrKey p 0x058) 0 3
  let old := wNat (smGet (smConst 0) (meter s p).accs k / 2 ^ 32)
  bookRequested 7 (pageNo .mtr p) 0x050 (masterNo m) old (rd s (mtrKey p 0x05C)) s

/-- Write MTRp.CTL: a preset needs the maker password and room in the staging buffer (R308, R405, R408). -/
def writeMtrCtl (m : Master) (p : Nat) (v : Word) (s : State) : State :=
  let s := if bit v 0 then mtrEnable p s else s
  let s := if bit v 1 then mtrDisable p s else s
  if !(bit v 2) then s
  else if s.pw.lockout || decide (s.pw.level < 2) then deny (mtrKey p 0x050) s
  else if stagingFull s then raiseMtr p 11 s
  else mtrPreset p (bookPreset m p s)

/-- A guarded write of an MTR register is accepted (R309, R314). -/
def mtrWriteOk (s : State) (p off : Nat) (v : Word) : Bool :=
  let off' := (meter s p).st = 0
  let qty := rdf s (mtrKey p 0x064) 4 3
  match off with
  | 0x040 | 0x04C => off'
  | 0x058 | 0x05C | 0x060 => true
  | 0x064 => qty ≠ 0 || fld v 8 8 ≠ 0
  | 0x068 => qty = 0 && decide (1 ≤ fld v 0 20 ∧ fld v 0 20 ≤ 1000000)
  | _ => off' || mtrRules (wr (mtrKey p off) (plainValue (mtrKey p off) (rd s (mtrKey p off)) v) s) p

/-- Write PULSE_CFG (R309): SRC and WIDTH only while QTY is off, and REFUSED where a change of them is not accepted; a QTY of 7 is
ignored. Off ends the pulse that runs. -/
def writePulseCfg (p : Nat) (v : Word) (s : State) : State :=
  let k := mtrKey p 0x064
  let old := rd s k
  let v := if fld v 4 3 = 7 then setFld v 4 3 (fld old 4 3) else v
  let kept := fld old 4 3 ≠ 0
  let s := if kept && (fld v 0 2 ≠ fld old 0 2 || fld v 8 8 ≠ fld old 8 8) then raiseMtr p 11 s else s
  let v := if kept then setFld (setFld v 0 2 (fld old 0 2)) 8 8 (fld old 8 8) else v
  let s := plainWrite k v s
  let now := s.now
  if fld v 4 3 = 0 then
    onMeter p (fun x => { x with pReg := 0, pend := 0, pulse := none, pulseEnd := (if x.pulse.isSome then some now else x.pulseEnd) }) s
  else s

/-- Write a register of a channel: what it held counts until the next cycle boundary (R296). -/
def writeChan (p off : Nat) (v : Word) (s : State) : State :=
  let k := mtrKey p off
  let old := rd s k
  let now := s.now
  plainWrite k v (onMeter p (fun x =>
    if x.st = 0 then x else { x with calOld := (x.calOld.filter fun e => decide (now ≤ e.1 + 20 * sampleLen)) ++ [(now, k, old)] }) s)

/-- Write an MTR register. -/
def writeMtr (m : Master) (p off : Nat) (v : Word) (s : State) : State :=
  match off with
  | 0x050 => writeMtrCtl m p v s
  | 0x054 => if bit v 16 then onMeter p (fun x => { x with presetFlag := false }) s else s
  | 0x064 => writePulseCfg p v s
  | _ => if 0x200 ≤ off then writeChan p off v s else plainWrite (mtrKey p off) v s

/-- STAT (R317). -/
def mtrStat (s : State) (p : Nat) : Word :=
  let x := meter s p
  let b : Bool → Nat → Nat := fun c v => if c then v else 0
  wNat (x.st + b x.seqErr 16 + b x.neut 32 + 256 * x.vloss + b x.presetFlag 65536)

/-- A read of an MTR register that mirrors hidden state (R316); reads with a capture are commands of their own. -/
def readMtr (s : State) (p off : Nat) : Option Word :=
  let x := meter s p
  match off with
  | 0x00C => some (mtrStat s p &&& 0xFFFF)
  | 0x054 => some (mtrStat s p)
  | 0x06C => some (wNat (x.pend + 65536 * x.ovf))
  | 0x080 => some (x.latest.getD 0 0)
  | _ => none

/-- MPULSE[p] (R309, R315). -/
def mpulse (s : State) (p : Nat) : Bool :=
  live s .mtr && ((meter s p).pulse.isSome != rdb s (mtrKey p 0x064) 16)

/-- A metering input port (R311). -/
def mtrPort (s : State) (p j : Nat) : Word :=
  let x := meter s p
  if !(live s .mtr) || x.st = 0 then 0 else
  let at' := match j with
    | 13 => 5
    | 14 => 0
    | 15 => 2
    | _ => 6 + j
  x.latest.getD at' 0

/-- PD_MTR is switched off (R315). -/
def metersOff (s : State) : State := { s with meters := [] }

/-! Meanings -/

/-- MTR_ENABLE (R314). -/
def execMtrEnable (m : Master) (p : Fin 4) (s : State) : Host.Outcome State Fault Refusal :=
  .next (byBus m .mtr p.val 0x050 (fun s => writeMtrCtl m p.val 1 s) s)

/-- MTR_DISABLE (R314). -/
def execMtrDisable (m : Master) (p : Fin 4) (s : State) : Host.Outcome State Fault Refusal :=
  .next (byBus m .mtr p.val 0x050 (fun s => writeMtrCtl m p.val 2 s) s)

/-- PRESET (R308). -/
def execPreset (m : Master) (p : Fin 4) (s : State) : Host.Outcome State Fault Refusal :=
  .next (byBus m .mtr p.val 0x050 (fun s => writeMtrCtl m p.val 4 s) s)

/-- METER_SAMPLE (R295, R298). -/
def execMeterSample (p : Fin 4) (nv : List Int) (cross : Option (BitVec 16)) (s : State) :
    Host.Outcome State Fault Refusal :=
  .next (if !(live s .mtr) || (meter s p).st = 0 then s else meterSample p.val nv (cross.map (·.toNat)) s)

/-- CYCLE_CLOSE (R300): the oldest ended cycle of the port. -/
def execCycleClose (p : Fin 4) (s : State) : Host.Outcome State Fault Refusal :=
  .next (if live s .mtr then closeAll p.val 1 s else s)

/-- NOSYNC (R299): 25 ms, which is 1000 samples, after a boundary or the last accepted crossing without another one. -/
def execNosync (p : Fin 4) (s : State) : Host.Outcome State Fault Refusal :=
  .next (
    let x := meter s p
    if !(live s .mtr) || !(x.st = 1 || x.st = 2) then s else
    let l := freeLen s p x
    let past := x.sinceX + min 4 x.raw.length * 65536
    let e := max (1000 * 65536) past
    let done := (x.len + e - x.sinceX) / max 1 l + 1
    let s := upto (x.sampAt + (e - past) * sampleLen / 65536) s
    let s := setMeter p.val { x with st := 3, free := true, freeEnd := done * l } s
    logHap (pageNo .mtr p) (raiseMtr p 8 s))

/-- PULSE_START (R309): no sooner than WIDTH ms after the last pulse ended. -/
def execPulseStart (p : Fin 4) (s : State) : Host.Outcome State Fault Refusal :=
  .next (
    let x := meter s p
    if !(live s .mtr) || x.pend = 0 || x.pulse.isSome || rdf s (mtrKey p 0x064) 4 3 = 0 then s else
    let s := match x.pulseEnd with
      | some t => upto (t + rdf s (mtrKey p 0x064) 8 8 * msec) s
      | none => s
    let now := s.now
    setMeter p.val { x with pend := x.pend - 1, pulse := some now } s)

/-- PULSE_END (R309). -/
def execPulseEnd (p : Fin 4) (s : State) : Host.Outcome State Fault Refusal :=
  .next (
    let x := meter s p
    match x.pulse with
    | none => s
    | some t =>
      let e := t + rdf s (mtrKey p 0x064) 8 8 * msec
      setMeter p.val { x with pulse := none, pulseEnd := some e } (upto e s))

/-- E_LO_READ (R307). -/
def execELoRead (m : Master) (p : Fin 4) (k : Fin 7) (s : State) : Host.Outcome State Fault Refusal :=
  .next (readAt m .mtr p.val (0x100 + 8 * k) (fun s =>
    let v := smGet (smConst 0) (meter s p).accs k / 2 ^ 32
    respond (wNat v) (wr (mtrKey p (0x104 + 8 * k)) (wNat (v / 2 ^ 32)) s)) s)

/-- CYC_CNT_READ (R316): 0x084 to 0x0E8 are captured. -/
def execCycCntRead (m : Master) (p : Fin 4) (s : State) : Host.Outcome State Fault Refusal :=
  .next (readAt m .mtr p.val 0x080 (fun s =>
    let ws := (meter s p).latest
    let s := forEach (List.range 26) (fun i s => wr (mtrKey p (0x084 + 4 * i)) (ws.getD (1 + i) 0) s) s
    respond (ws.getD 0 0) s) s)

end Sys2Proof.Machine
end

