-- ==== Sys2Proof/Machine/Streams.lean ====
section
/-! DEFINITION. Streams (R340 to R348): opening, numbering, delivery, acknowledgement, breaking and reopening, and the
streams of a spur gateway. -/

namespace Sys2Proof.Machine

/-- Default of a stream. -/
def rstream0 (_ : Nat) : RStream := {}
/-- A stream entry. -/
def rstream (s : State) (n : Nat) : RStream := smGet rstream0 s.rings.streams n
/-- Set a stream entry. -/
def setStream (n : Nat) (x : RStream) (s : State) : State :=
  { s with rings := { s.rings with streams := smSet rstream0 s.rings.streams n x } }
/-- Change a stream entry. -/
def onStream (n : Nat) (f : RStream → RStream) (s : State) : State := setStream n (f (rstream s n)) s

/-- STR_CFG.DIR: 1 send, 2 receive. -/
def RStream.dir (x : RStream) : Nat := fld x.cfg 0 2
/-- STR_CFG.OWNER. -/
def RStream.owner (x : RStream) : Nat := fld x.cfg 4 3
/-- STR_CFG.RETRY. -/
def RStream.retries (x : RStream) : Bool := bit x.cfg 8
/-- STR_CFG.DUAL. -/
def RStream.dual (x : RStream) : Bool := bit x.cfg 9
/-- STR_CFG.RING. -/
def RStream.onRing (x : RStream) : Nat := fld x.cfg 10 1
/-- STR_CFG.PRIO. -/
def RStream.prio (x : RStream) : Nat := fld x.cfg 12 2
/-- STR_PEER.NODE. -/
def RStream.node (x : RStream) : Nat := fld x.peer 0 8
/-- STR_PEER.PSTR. -/
def RStream.pstr (x : RStream) : Nat := fld x.peer 16 10
/-- STR_BUF.SIZE. -/
def RStream.size (x : RStream) : Nat := fld x.buf 16 8
/-- STR_RETRY.WIN. -/
def RStream.win (x : RStream) : Nat := fld x.retry 0 8
/-- STR_RETRY.RTO in steps. -/
def RStream.rto (x : RStream) : Nat := fld x.retry 16 16 * usec
/-- Oldest unacknowledged SEQ. -/
def RStream.acked (x : RStream) : Nat := match x.unack with | [] => x.next | u :: _ => u.seq
/-- Cells in the send buffer that have not been sent. -/
def RStream.unsent (x : RStream) : Nat := (x.put + x.size - x.get) % x.size - x.unack.length
/-- WIN cells are unacknowledged (STR_STAT.WIN_FULL). -/
def RStream.winFull (x : RStream) : Bool := x.dir = 1 && x.retries && x.st = 2 && decide (x.win ≤ x.unack.length)

/-- The byte address of slot `i` of a stream's buffer, counted modulo SIZE (R341). -/
def slotAt (x : RStream) (i : Nat) : Nat := ringBase + 64 * ((fld x.buf 0 12 + i % x.size) % 4096)

/-- Rings a send stream sends its cells on (R343). -/
def sendRings (s : State) (x : RStream) : List Nat :=
  if x.dual then [0, 1].filter (isJoined s)
  else if isJoined s x.onRing then [x.onRing]
  else [1 - x.onRing].filter (isJoined s)

/-- Rings that a cell to be sent again is booked for (R343, R344): with DUAL 0 it leaves on the ring that the stream uses when
it is sent, with DUAL 1 on every ring that is joined then. -/
def bookRings (x : RStream) : List Nat := if x.dual then [0, 1] else [x.onRing]

/-- A cell that has been sent before waits to be sent on a ring. -/
def waitsOn (s : State) (x : RStream) (r : Nat) (u : Unacked) : Bool :=
  (sendRings s x).contains r && (if x.dual then u.again.contains r else !u.again.isEmpty)

/-- Queue a control entry on a ring. -/
def queueCtl (r : Nat) (e : CtlEnt) (s : State) : State := onLink r (fun l => { l with ctl := l.ctl ++ [e] }) s

/-- A receive stream answers its sender on the ring of its last cell (R344). -/
def answer (n kind seq : Nat) (s : State) : State :=
  let x := rstream s n
  queueCtl x.ring { dst := x.node, kind := kind, stream := x.pstr, seq := seq, pstr := 0 } s

/-- OPEN cells of a stream that still wait are withdrawn: it has its OPEN_ACK, is no longer opening, or sends a newer one
(R345). -/
def dropOpens (n : Nat) (s : State) : State :=
  forEach [0, 1] (fun r s => onLink r (fun l => { l with ctl := l.ctl.filter fun e => !(e.kind = 4 && e.stream = n) }) s) s

/-- An opening send stream sends its OPEN cell (R345). -/
def sendOpen (n : Nat) (s : State) : State :=
  let x := rstream s n
  let now := s.now
  let s := dropOpens n (onStream n (fun x => { x with openAt := now }) s)
  queueCtl (if isJoined s x.onRing then x.onRing else 1 - x.onRing)
    { dst := x.node, kind := 4, stream := n, seq := x.next, pstr := x.pstr } s

/-- The stream opens from its next SEQ (R345). -/
def openStream (n : Nat) (s : State) : State :=
  let s := onStream n (fun x => { x with st := 1, held := [], gap := none, nak := none, fullAt := none,
                                         fresh := 0, ackAt := none }) s
  if (rstream s n).dir = 1 then sendOpen n s else s

/-- Held cells and unacknowledged send cells are discarded and the stream opens again (R345). -/
def reopenStream (n : Nat) (s : State) : State :=
  openStream n (onStream n (fun x => { x with get := (if x.dir = 1 ∧ x.size ≠ 0 then (x.get + x.unack.length) % x.size else x.get),
                                              unack := [] }) s)

/-! Spur gateways -/

/-- Gateway streams of a direction that name a ring, by number (R348). -/
def gatewayStreams (s : State) (dir ring : Nat) : List Nat :=
  (s.rings.streams.filter fun e => e.2.dir = dir && e.2.owner = 4 && e.2.onRing = ring).map (·.1)

/-- The other stream of a gateway pair: the pairs of one ring are formed in the order of their numbers (log entry 40). -/
def gatewayPeer (s : State) (n : Nat) : Option Nat :=
  let x := rstream s n
  if x.owner ≠ 4 then none else
  let mine := gatewayStreams s x.dir x.onRing
  (gatewayStreams s (3 - x.dir) x.onRing)[mine.idxOf n]?

/-- One stream is declared broken (R345). -/
def breakOne (n cause : Nat) (s : State) : State :=
  let x := rstream s n
  if x.st ≠ 1 ∧ x.st ≠ 2 then s else
  let s := dropOpens n (onStream n (fun x => { x with st := 3, cause := cause, breaks := x.breaks + 1, gap := none, fullAt := none, ackAt := none }) s)
  let s := logHap (pageNo .ring 0) (raiseRing 0 6 s)
  let s := if x.dir = 2 then answer n 3 x.next s else s
  if bit x.cfg 15 then reopenStream n s else s

/-- A stream is declared broken, and with it the other stream of a gateway pair (R345, R348). -/
def breakStream (n cause : Nat) (s : State) : State :=
  if (rstream s n).st ≠ 1 ∧ (rstream s n).st ≠ 2 then s else
  let p := gatewayPeer s n
  let s := breakOne n cause s
  match p with
  | some q => breakOne q 4 s
  | none => s

/-! Send buffers -/

/-- Put a message cell into a send stream's slot at PUT and advance PUT; the flag says that there was room. -/
def streamPut (n : Nat) (payload : List Byte) (s : State) : Bool × State :=
  let x := rstream s n
  if x.dir ≠ 1 || x.size = 0 || decide ((x.put + 1) % x.size = x.get) then (false, s) else
  let a := slotAt x x.put
  let s := memWr (a + 48) (BitVec.ofNat 8 (min 48 payload.length)) (memWrBytes a (padTo 48 payload) s)
  (true, onStream n (fun x => { x with put := (x.put + 1) % x.size }) s)

/-- Take the oldest unread cell of a receive stream: its LEN bytes, its status byte and its Datum time. -/
def streamTake (n : Nat) (s : State) : Option (List Byte × Byte × Nat) × State :=
  let x := rstream s n
  if x.occ = 0 || x.size = 0 then (none, s) else
  let a := slotAt x x.get
  let len := (memRd s (a + 48)).toNat
  (some (memBytes s a len, memRd s (a + 49), leNat (memBytes s (a + 52) 8)),
   onStream n (fun x => { x with get := (x.get + 1) % x.size, occ := x.occ - 1, fullAt := none }) s)

/-- A cell of a gateway is put into the paired stream's slot with its FIRST and LAST (R348). -/
def gatewayPut (q : Nat) (payload : List Byte) (flags : Byte) (s : State) : State :=
  let y := rstream s q
  let (room, s) := streamPut q payload s
  if room then memWr (slotAt y y.put + 49) (flags &&& 3) s else s

/-- A gateway carries delivered cells across: up to `k` cells (R348). -/
def cross (n q : Nat) : Nat → State → State
  | 0, s => s
  | k + 1, s =>
    let y := rstream s q
    if y.size = 0 || decide ((y.put + 1) % y.size = y.get) then s else
    match streamTake n s with
    | (some (bs, flags, _), s) => cross n q k (gatewayPut q bs flags s)
    | (none, s) => s

/-- A gateway's receive stream hands its delivered cells to the paired send stream. -/
def gatewayCross (n : Nat) (s : State) : State :=
  if (rstream s n).dir ≠ 2 then s else
  match gatewayPeer s n with
  | some q => cross n q (rstream s n).occ s
  | none => s

/-! Delivery -/

/-- Write a received cell into its slot (R341): the slot check is computed with it. -/
def fillSlot (a : Nat) (c : List Byte) (r soc : Nat) (s : State) : State :=
  let valid := datumValid s
  let flags := cellMsg c + (if r = 1 then 4 else 0) + (if cellWrapped c then 8 else 0) + (if valid then 128 else 0)
  let body := padTo 48 (cellPayload c) ++ [BitVec.ofNat 8 (cellLen c), BitVec.ofNat 8 flags] ++ leBytes 2 (cellSeq c) ++
    leBytes 8 (if valid then datumAt s soc else 0)
  memWrBytes a (body ++ leBytes 4 (crc32c body).toNat) s

/-- Deliver up to `k` held cells that follow E without a gap (R342). -/
def deliverHeld (n : Nat) : Nat → State → State
  | 0, s => s
  | k + 1, s =>
    let x := rstream s n
    if x.held.contains x.next && decide (x.occ < x.size) then
      deliverHeld n k (onStream n (fun x => { x with held := x.held.filter (· ≠ x.next), next := (x.next + 1) % 65536,
                                                     put := (x.put + 1) % x.size, occ := x.occ + 1, fresh := x.fresh + 1 }) s)
    else s

/-- One NAK for E, and no further one for the same E until RTO has passed (R344). -/
def sendNak (n : Nat) (s : State) : State :=
  let x := rstream s n
  let now := s.now
  let dup := x.nak.any fun e => e.1 = x.next && decide (now < e.2 + x.rto)
  if !x.retries || dup then s
  else answer n 1 x.next (onStream n (fun x => { x with nak := some (x.next, now) }) s)

/-- After deliveries: the gap time and the NAK of a new E that is missing, the ACK after WIN cells and the ACK time (R344). -/
def afterDelivery (n : Nat) (s : State) : State :=
  let now := s.now
  let s := onStream n (fun x => { x with gap := (if x.held.isEmpty then none else some now), fullAt := none }) s
  let x := rstream s n
  let s := if x.held.isEmpty then s else sendNak n s
  if !x.retries then s
  else if max 1 x.win ≤ x.fresh then answer n 0 x.next (onStream n (fun x => { x with fresh := 0, ackAt := none }) s)
  else if x.ackAt.isNone && decide (0 < x.fresh) then onStream n (fun x => { x with ackAt := some (now + 100 * usec) }) s
  else s

/-- A cell is discarded because the buffer is full (R345, BUF_FULL). -/
def bufFull (n : Nat) (s : State) : State :=
  let was := (rstream s n).full
  let now := s.now
  let s := onStream n (fun x => { x with full := true, fullAt := (if x.fullAt.isNone then some now else x.fullAt) }) s
  if was then s else raiseRing 0 7 s

/-- A DATA cell for a receive stream (R342). -/
def takeData (n : Nat) (c : List Byte) (r soc : Nat) (s : State) : State :=
  let x := rstream s n
  if x.dir ≠ 2 || x.st ≠ 2 || x.node ≠ cellSrc c || x.size = 0 then countRing r 0x058 16 s else
  let s := onStream n (fun x => { x with ring := r }) s
  let d := (cellSeq c + 65536 - x.next) % 65536
  if d = 0 then
    if x.size ≤ x.occ then bufFull n s else
    let s := fillSlot (slotAt x x.put) c r soc s
    let s := onStream n (fun x => { x with held := x.next :: x.held }) s
    gatewayCross n (afterDelivery n (deliverHeld n (x.held.length + 1) s))
  else if d + x.occ ≤ x.size - 1 ∧ !x.held.contains (cellSeq c) then
    let s := fillSlot (slotAt x (x.put + d)) c r soc s
    let now := s.now
    let s := onStream n (fun x => { x with held := x.held ++ [cellSeq c], gap := (if x.gap.isNone then some now else x.gap) }) s
    sendNak n s
  else
    let s := onStream n (fun x => { x with dup := held 65535 (x.dup + 1) }) s
    if x.retries then answer n 0 x.next s else s

/-! Acknowledgements -/

/-- Free the first `k` cells of a send stream (R344). -/
def freeCells (n k : Nat) (s : State) : State :=
  onStream n (fun x => { x with unack := x.unack.drop k, get := (if x.size = 0 then 0 else (x.get + min k x.unack.length) % x.size) }) s

/-- Send again every unacknowledged cell from the `k`-th on (R344). -/
def resend (n k : Nat) (s : State) : State :=
  let x := rstream s n
  let rs := bookRings x
  let due := (x.unack.drop k).filter fun u => u.again.isEmpty
  if due.any fun u => decide (fld x.retry 8 4 ≤ u.retx) then breakStream n 1 s
  else
    let mark : Unacked → Unacked := fun u => if u.again.isEmpty then { u with retx := u.retx + 1, again := rs } else u
    onStream n (fun x => { x with unack := x.unack.take k ++ (x.unack.drop k).map mark,
                                  retx := held 65535 (x.retx + due.length) }) s

/-- The receive streams of a gateway whose cells wait for a send stream's slots. -/
def refill (n : Nat) (s : State) : State :=
  match gatewayPeer s n with
  | some q => gatewayCross q s
  | none => s

/-- An entry of a CTRL cell from node `src` (R344, R345). -/
def takeEntry (src e : Nat) (s : State) : State :=
  let n := e / 2 ^ 16 % 1024
  let q := e % 65536
  let x := rstream s n
  if x.dir ≠ 1 || (x.node ≠ src && x.node ≠ 0xFF) then s else
  let k := (q + 65536 - x.acked) % 65536
  match e / 2 ^ 30 % 4 with
  | 0 => if x.st = 2 && x.retries && decide (k ≤ x.unack.length) then refill n (freeCells n k s) else s
  | 1 => if x.st = 2 && x.retries && decide (k < x.unack.length) then resend n k s else s
  | 2 => if x.st = 1 then dropOpens n (onStream n (fun x => { x with st := 2 }) s) else s
  | _ => breakStream n 4 s

/-- The entries of a CTRL cell in order. -/
def takeEntries (src : Nat) : Nat → List Byte → State → State
  | 0, _, s => s
  | k + 1, bs, s => if bs.length < 4 then s else takeEntries src k (bs.drop 4) (takeEntry src (beNat (bs.take 4)) s)

/-- An OPEN cell (R345). -/
def takeOpen (c : List Byte) (r : Nat) (s : State) : State :=
  let n := cellStream c
  let x := rstream s n
  if x.dir ≠ 2 || (x.st ≠ 1 && x.st ≠ 2) || x.node ≠ cellSrc c then countRing r 0x058 16 s else
  let q := beAt c 14 2
  let s := onStream n (fun x => { x with st := 2, next := q, held := [], gap := none, nak := none, fresh := 0, ackAt := none, ring := r }) s
  answer n 2 q s

/-! Sending -/

/-- Position in the Datum cycle at an instant, in 62.5 ps units, and the cycle's length (R354). -/
def cyclePos (s : State) (t : Nat) : Nat × Nat :=
  let c := s.datum.cyc.getD {}
  ((datumAt s t - c.dbase) % max 1 c.len, c.len)

/-- The schedule of a ring admits a cell whose SOC starts at an instant (R370, R371). -/
def inWindow (s : State) (r t : Nat) : Bool :=
  let (p, len) := cyclePos s t
  (List.range 8).any fun i =>
    let w := smGet (smConst 0#32) s.datum.wins (rk .datum 0 (0x100 + 0x20 * r + 4 * i))
    let a := fld w 0 14 * 1600
    let b := min (a + fld w 16 14 * 1600) len
    bit w 31 && decide (a ≤ p) && decide (10 * p + 34816 ≤ 10 * b)

/-- A scheduled cell may be released on a ring now (R370, R371). -/
def schedOk (s : State) (r t : Nat) : Bool :=
  if datumValid s then inWindow s r t
  else match rdf s (rk .datum 0 0x0D0) 0 2 with
    | 1 => true
    | 2 => (s.datum.st = .acquire || s.datum.st = .holdover) && inWindow s r t
    | _ => false

/-- What a send stream has ready for a ring: the index of the cell among those it keeps, a new one last (R343, R344). -/
def readyCell (s : State) (n r t : Nat) : Option Nat :=
  let x := rstream s n
  if x.dir ≠ 1 || x.st ≠ 2 || x.size = 0 || (bit x.cfg 14 && !schedOk s r t) then none
  else match x.unack.findIdx? (waitsOn s x r) with
    | some i => some i
    | none =>
      if (sendRings s x).contains r && decide (0 < x.unsent) && (!x.retries || decide (x.unack.length < x.win))
      then some x.unack.length else none

/-- The streams that have a cell ready for a ring, by number (R332). -/
def readyStreams (s : State) (r t : Nat) : List Nat :=
  (s.rings.streams.filter fun e => (readyCell s e.1 r t).isSome).map (·.1)

/-- The stream that a ring serves next: of those with the highest priority, the first after the one served last at that
priority (R332). -/
def topStream (s : State) (r : Nat) (ns : List Nat) : Option Nat :=
  let top := ns.foldl (fun p n => max p (rstream s n).prio) 0
  let ms := ns.filter fun n => (rstream s n).prio = top
  let last := (link s r).rr.getD top 1023
  (ms.filter (last < ·) ++ ms.filter (· ≤ last)).head?

/-- Cells of a stream without RETRY leave the buffer once sent on every ring (R343, R344). -/
def dropSent (n : Nat) (s : State) : State :=
  let x := rstream s n
  if x.retries then s else
  freeCells n (x.unack.takeWhile (fun u => u.again.isEmpty)).length s

/-- A ring is left: cells of streams with DUAL = 1 that the other ring has sent no longer wait for it, and those sent on every
ring by then leave the buffer; a cell booked for both has left on neither and stays booked (R336, R343). -/
def moveCells (r : Nat) (s : State) : State :=
  forEach ((s.rings.streams.filter fun e => e.2.dual).map (·.1)) (fun n s =>
    refill n (dropSent n (onStream n (fun x =>
      { x with unack := x.unack.map fun u => if u.again.length = 2 then u else { u with again := u.again.filter (· ≠ r) } }) s))) s

/-- Send cell `i` of stream `n` on ring `r`. The spec does not say how a sender sets FIRST and LAST: they are free, but for a
gateway's, which are those of the cell taken in (R348). -/
def sendCell (n r i : Nat) (s : State) : State :=
  let x := rstream s n
  let a := slotAt x (x.get + i)
  let len := min 48 (memRd s (a + 48)).toNat
  let (f, s) := if x.owner = 4 then ((memRd s (a + 49)).setWidth 32, s) else draw s
  let u : Unacked := x.unack.getD i { seq := x.next, when' := 0, retx := 0, again := sendRings s x }
  let c : CellSpec := { type := 1, prio := x.prio, dst := x.node, msg := fld f 0 2, stream := x.pstr, seq := u.seq,
                        payload := memBytes s a len }
  let wrapped := physTx s r ≠ r
  let (t, s) := sendLocal r (fun _ => frameCell s r wrapped c) s
  let u := { u with when' := t, again := (if x.dual then u.again.filter (fun q => decide (q ≠ r) && isJoined s q) else []) }
  let fresh := decide (i = x.unack.length)
  let s := onStream n (fun x => { x with unack := (if fresh then x.unack ++ [u] else x.unack.set i u),
                                         next := (if fresh then (x.next + 1) % 65536 else x.next) }) s
  let full := fresh && (rstream s n).winFull
  let s := onLink r (fun l => { l with rr := l.rr.set x.prio n }) (dropSent n s)
  refill n (if full then raiseRing 0 7 s else s)

/-- Send the control entries that wait on a ring: an OPEN cell, or up to twelve entries for one node (R344, R345). -/
def sendCtl (r : Nat) (s : State) : State :=
  let wrapped := physTx s r ≠ r
  match (link s r).ctl with
  | [] => s
  | e :: es =>
    if e.kind = 4 then
      let c : CellSpec := { type := 3, prio := 3, dst := e.dst, stream := e.pstr, seq := e.seq,
                            payload := beBytes 4 (e.stream % 1024 * 65536 + e.seq) }
      (sendLocal r (fun _ => frameCell s r wrapped c) (onLink r (fun l => { l with ctl := es }) s)).2
    else
      let mine := ((e :: es).filter fun f => f.dst = e.dst && f.kind ≠ 4).take 12
      let rest := ((e :: es).filter fun f => !(f.dst = e.dst && f.kind ≠ 4)) ++
        ((e :: es).filter fun f => f.dst = e.dst && f.kind ≠ 4).drop 12
      let c : CellSpec := { type := 2, prio := 3, dst := e.dst,
                            payload := mine.flatMap fun f => beBytes 4 (f.kind * 2 ^ 30 + f.stream % 1024 * 65536 + f.seq) }
      (sendLocal r (fun _ => frameCell s r wrapped c) (onLink r (fun l => { l with ctl := rest }) s)).2

end Sys2Proof.Machine
end

