-- ==== Sys2Proof/Machine/Rings.lean ====
section
/-! DEFINITION. The station ring's links, wrap, ford, cells and SFP modules (R319 to R339), and the commands of the RING
pages. -/

namespace Sys2Proof.Machine

/-- A link-down or wrap event of a side: exchanges across it are rejected (R362). -/
def breakSide (r : Nat) (s : State) : State :=
  if r = 0 then { s with datum := { s.datum with sideA := { s.datum.sideA with breaks := s.datum.sideA.breaks + 1 } } }
  else { s with datum := { s.datum with sideB := { s.datum.sideB with breaks := s.datum.sideB.breaks + 1 } } }

/-- Link-down and wrap events of a side so far. -/
def sideBreaks (s : State) (r : Nat) : Nat := if r = 0 then s.datum.sideA.breaks else s.datum.sideB.breaks

/-- FAULT_HOLD in steps; 0 is taken as 1 (R322). -/
def faultHold (s : State) (r : Nat) : Nat := max 1 (rdf s (ringKey r 0x048) 0 8) * usec

/-- A wrap takes effect at the side of receiver `r` (R338); with SPUR in its CFG, WRAP_EN is ignored (R351). -/
def wrapRing (r : Nat) (s : State) : State :=
  if rdb s (ringKey r 0x040) 8 || !rdb s (ringKey r 0x040) 9 || (link s r).wrap then s else
  let s := onLink r (fun l => { l with wrap := true, unwrap := false }) s
  logHap (pageNo .ring r) (raiseRing r 4 (countRing r 0x068 0 (breakSide r s)))

/-- The link of receiver `r` is declared down (R322, R323, R338): the wrap that its coming up was to end stays. A link that
is down already, its wrap ended by UNWRAP_NOW, wraps again. -/
def linkDown (r : Nat) (s : State) : State :=
  if (link s r).link = 2 then wrapRing r s else
  let s := onLink r (fun l => { l with link := 2, sendRf := true, unwrap := false }) s
  wrapRing r (raiseRing r 0 (countRing r 0x068 16 (breakSide r s)))

/-- Forward a header on the transmitter of ring `r`'s path (R330, R331); none where the transit buffer is full. -/
def forwardAt (r soc : Nat) (s : State) : Option (Nat × Nat) × State :=
  let p := physTx s r
  let l := link s p
  let waits := l.transit.filter (s.now < ·)
  let start := max (soc + hopTime) l.freeAt
  if soc + hopTime < start ∧ 4 ≤ waits.length then (none, countRing r 0x058 0 s) else
  let waits := if soc + hopTime < start then waits ++ [start] else waits
  (some (p, start), incMod (ringKey r 0x05C) 0 32 (onLink p (fun l => { l with freeAt := start + cellTime, transit := waits }) s))

/-- A PROBE comes back on a ring within its 2 ms: the join of the ring it was inserted on completes (R337). -/
def probeReturn (h : List Byte) (s : State) : State :=
  let j := cellOrig h
  let l := link s j
  match l.probeEnd with
  | none => s
  | some t =>
    if cellSrc h = ringAddr s j ∧ s.now ≤ t then
      raiseRing j 2 (onLink j (fun l => { l with joined := true, probeEnd := none }) s)
    else s

/-- A header whose HCRC holds (R327, R330). -/
def takeHeader (r : Nat) (h : List Byte) (s : State) : State :=
  let soc := s.now - headTime
  let t := cellType h
  let own := ringAddr s r
  let keep : Bool → Option Nat → List Byte → State → State := fun take fwd out s =>
    let n := sideBreaks s r
    onLink r (fun l => { l with rx := some { hdr := h, soc := soc, take := take, fwd := fwd, out := out, breaks := n } }) s
  let fwd : Bool → State → State := fun take s =>
    if cellTtl h = 0 then keep take none [] (countRing r 0x054 16 s)
    else
      match forwardAt r soc s with
      | (some (p, _), s) => keep take (some p) (withTtl h (cellTtl h - 1) (cellWrapped h || p ≠ r)) s
      | (none, s) => keep take none [] s
  if t = 8 then keep true none [] s
  else if !([1, 2, 3, 4].contains t) then keep false none [] (countRing r 0x058 16 s)
  else if cellDst h = own then keep true none [] (if t = 4 then probeReturn h s else s)
  else if cellDst h = 0xFF then if cellSrc h = own then keep false none [] s else fwd true s
  else fwd false s

/-- CELL_HEADER (R329, R330). A header is twelve bytes; the node reads the line only with its ford open (R333). -/
def execCellHeader (r : Fin 2) (hdr : List Byte) (s : State) : Host.Outcome State Fault Refusal :=
  .next (
    if !(live s .ring) || !(link s r.val).ford || !(link s r.val).sync || (link s r.val).rx.isSome || hdr.length ≠ 12 then s
    else if hcrcOk hdr then takeHeader r.val hdr s
    else countRing r.val 0x050 16 s)

/-- A whole cell is taken in (R331). -/
def takeCell (r : Nat) (x : RxCell) (c : List Byte) (s : State) : State :=
  let s := incMod (ringKey r 0x060) 0 32 s
  match cellType c with
  | 1 => takeData (cellStream c) c r x.soc s
  | 2 => takeEntries (cellSrc c) (cellLen c / 4) (cellPayload c) s
  | 3 => takeOpen c r s
  | _ => s

/-- A DATUM cell is handed to Datum (R331, R358). -/
def takeDatum (r : Nat) (x : RxCell) (c : List Byte) (bad : Bool) (s : State) : State :=
  let d : DatumIn := { side := r, bytes := padTo 48 (c.drop 12), bad := bad, stamp := stampAt s x.soc, when' := s.now, soc := x.soc,
                       breaks := x.breaks }
  { s with rings := { s.rings with inbox := s.rings.inbox ++ [d] } }

/-- Code errors at receiver `r`: they are counted, and the time in sync without one starts again (R322, R351). -/
def codeErrors (r n : Nat) (s : State) : State :=
  if n = 0 then s else
  let now := s.now
  onLink r (fun l => { l with clean := l.clean.map fun _ => now })
    (wrf (ringKey r 0x050) 0 16 (held 65535 (rdf s (ringKey r 0x050) 0 16 + n)) s)

/-- CELL_END (R329): `body` is bytes 12 to 63, `errs` the code errors inside the cell, `bad` an ending with EOC_BAD. A DATUM cell
counts in no drop counter (R358). -/
def execCellEnd (r : Fin 2) (body : List Byte) (errs : Nat) (bad : Bool) (s : State) : Host.Outcome State Fault Refusal :=
  .next (
    let s := if live s .ring && (link s r.val).sync then codeErrors r.val errs s else s
    match (link s r.val).rx with
    | none => s
    | some x =>
      let c := x.hdr ++ padTo 52 body
      let fresh := !bad && (decide (0 < errs) || !cellOk c)
      let s := onLink r.val (fun l => { l with rx := none }) s
      let s := if fresh && cellType c ≠ 8 then countRing r.val 0x054 0 s else s
      let poisoned := bad || fresh
      let s := match x.fwd with
        | some p => onLink p (fun l => { l with sent := x.out ++ padTo 52 body, sentBad := poisoned }) s
        | none => s
      if !x.take then s
      else if cellType c = 8 then
        let s := if poisoned then s else incMod (ringKey r.val 0x060) 0 32 s
        takeDatum r.val x c poisoned s
      else if poisoned then s
      else takeCell r.val x c s)

/-- CELL_SEND (R332, R336, R337): a PROBE or control cell first among PRIO 3, then the streams by priority. -/
def execCellSend (r : Fin 2) (s : State) : Host.Outcome State Fault Refusal :=
  .next (
    if !(live s .ring) || !(link s r.val).ford then s else
    let s := upto (link s (physTx s r.val)).freeAt s
    let l := link s r.val
    if l.probe then
      let own := ringAddr s r.val
      let wrapped := physTx s r.val ≠ r.val
      let (t, s) := sendLocal r.val (fun _ => frameCell s r.val wrapped { type := 4, prio := 3, dst := own }) s
      onLink r.val (fun l => { l with probe := false, probeEnd := some (t + 2 * msec) }) s
    else if !l.ctl.isEmpty then sendCtl r.val s
    else
      match topStream s r.val (readyStreams s r.val s.now) with
      | none => s
      | some n =>
        match readyCell s n r.val s.now with
        | some i => sendCell n r.val i s
        | none => s)

/-! Links -/

/-- SYNC_GAINED (R322). -/
def execSyncGained (r : Fin 2) (s : State) : Host.Outcome State Fault Refusal :=
  .next (
    if !(live s .ring) || (link s r.val).sync then s else
    let now := s.now
    onLink r.val (fun l => { l with sync := true, clean := (if l.rfault.isNone then some now else none) }) s)

/-- A cell coming in is cut: it is counted but for a DATUM cell (R358), and a forwarded one ends with EOC_BAD after its new
header (R329). -/
def cutCell (r : Nat) (s : State) : State :=
  match (link s r).rx with
  | none => s
  | some x =>
    let s := if cellType x.hdr = 8 then s else countRing r 0x054 0 s
    match x.fwd with
    | some p => onLink p (fun l => { l with sent := x.out, sentBad := true }) s
    | none => s

/-- SYNC_LOST (R322), with the code errors that lost it: a cell coming in is cut. -/
def execSyncLost (r : Fin 2) (errs : Nat) (s : State) : Host.Outcome State Fault Refusal :=
  .next (
    if !(live s .ring) || !(link s r.val).sync then s else
    let now := s.now
    let s := cutCell r.val (codeErrors r.val errs s)
    onLink r.val (fun l => { l with sync := false, lostAt := now, clean := none, rx := none, rfault := none }) s)

/-- LINK_DOWN (R322, R323, R338). -/
def execLinkDown (r : Fin 2) (c : DownCause) (s : State) : Host.Outcome State Fault Refusal :=
  .next (
    let l := link s r.val
    if !(live s .ring) then s else
    match c with
    | .sync => if l.sync then s else linkDown r.val (upto (l.lostAt + faultHold s r.val) s)
    | .rfault =>
      match l.rfault with
      | none => s
      | some t => linkDown r.val (upto (t + faultHold s r.val) s)
    | .errors n =>
      let lim := rdf s (ringKey r.val 0x048) 8 8
      let s := codeErrors r.val n s
      if lim ≠ 0 ∧ lim ≤ n then linkDown r.val s else s)

/-- LINK_UP (R322, R323, R339). -/
def execLinkUp (r : Fin 2) (s : State) : Host.Outcome State Fault Refusal :=
  .next (
    let l := link s r.val
    match l.clean with
    | none => s
    | some t =>
      if !(live s .ring) || !l.sync || l.rfault.isSome then s else
      let s := upto (t + rdf s (ringKey r.val 0x048) 16 16 * msec) s
      let s := if l.link = 1 then s else raiseRing r.val 1 s
      onLink r.val (fun l => { l with link := 1, sendRf := false, unwrap := l.wrap }) s)

/-- UNWRAP (R339): at the next gap between cells. -/
def execUnwrap (r : Fin 2) (s : State) : Host.Outcome State Fault Refusal :=
  .next (
    let l := link s r.val
    if !(live s .ring) || !l.wrap || !l.unwrap then s else
    let s := upto (max (link s 0).freeAt (link s 1).freeAt) s
    raiseRing r.val 5 (breakSide r.val (onLink r.val (fun l => { l with wrap := false, unwrap := false }) s)))

/-- RFAULT_RECEIVED (R323): RFAULT in place of IDLE begins, or ends. -/
def execRfaultReceived (r : Fin 2) (on : Bool) (s : State) : Host.Outcome State Fault Refusal :=
  .next (
    let l := link s r.val
    if !(live s .ring) || !l.sync then s else
    let now := s.now
    if on then
      if l.rfault.isSome then s
      else onLink r.val (fun l => { l with rfault := some now, sendRf := true, clean := none }) s
    else if l.rfault.isNone then s
    else onLink r.val (fun l => { l with rfault := none, clean := some now }) s)

/-! Joining and leaving -/

/-- Leave a ring: the ford closes at the next gap (R336). -/
def leaveRing (r : Nat) (s : State) : State :=
  onLink r (fun l => { l with fordTo := (if l.ford then some false else none), probe := false, probeEnd := none }) s

/-- FORD_SWITCH (R333, R335): a gap between cells. -/
def execFordSwitch (r : Fin 2) (s : State) : Host.Outcome State Fault Refusal :=
  .next (
    let l := link s r.val
    match l.fordTo with
    | none => s
    | some o =>
      if !(live s .ring) || l.rx.isSome then s else
      let s := upto l.freeAt s
      if o then onLink r.val (fun l => { l with ford := true, fordTo := none, probe := true }) s
      else moveCells r.val
        (onLink r.val (fun l => { l with ford := false, fordTo := none, joined := false, probe := false, probeEnd := none }) s))

/-- The join is refused (R336). -/
def joinRefused (s : State) (r : Nat) : Bool :=
  let a := ringAddr s r
  let ra := ringAddr s 0
  let rb := ringAddr s 1
  a = 0 || a = 0xFF || (!rdb s (ringKey r 0x040) 8 && ra ≠ rb && ra ≠ 0 && rb ≠ 0) || !(link s r).sync

/-- Write RINGi.CTL (R336, R339). -/
def writeRingCtl (r : Nat) (v : Word) (s : State) : State :=
  let l := link s r
  let s := if !bit v 0 || l.joined || l.probe || l.probeEnd.isSome || l.fordTo = some true then s
    else if joinRefused s r then raiseRing r 10 s
    else onLink r (fun l => if l.ford then { l with fordTo := none, probe := true } else { l with fordTo := some true }) s
  let s := if bit v 1 then leaveRing r s else s
  if bit v 2 && (link s r).sync && (link s r).wrap then onLink r (fun l => { l with unwrap := true }) s else s

/-- PROBE_FAIL (R337). -/
def execProbeFail (r : Fin 2) (s : State) : Host.Outcome State Fault Refusal :=
  .next (
    match (link s r.val).probeEnd with
    | none => s
    | some t =>
      if !(live s .ring) then s else
      let s := leaveRing r.val (upto t s)
      raiseRing r.val 3 (wrb (ringKey r.val 0x04C) 8 true s))

/-! SFP modules -/

/-- Put bytes into the shadow of a module: A0h at 0, A2h at 256. -/
def sfpStore (r off : Nat) (bs : List Byte) (s : State) : State := memWrBytes (sfpBase + 512 * r + off) bs s
/-- A byte of the shadow. -/
def sfpByte (s : State) (r i : Nat) : Nat := (memRd s (sfpBase + 512 * r + i)).toNat

/-- The presence test and the reading of A0h (R325). -/
def sfpPresence (r : Nat) (ans : SfpAnswer) (s : State) : State :=
  let k := ringKey r 0x074
  match ans with
  | .data bs =>
    let s := sfpStore r 0 (padTo 128 bs) s
    let b := sfpByte s r 92
    wrb k 2 (b / 16 % 2 = 1) (wrb k 1 (b / 64 % 2 = 1) (wrb k 0 true s))
  | _ => raiseRing r 9 (wr k 0 s)

/-- SFP_PRESENCE_POLL (R325): every 100 ms. -/
def execSfpPresencePoll (r : Fin 2) (ans : SfpAnswer) (s : State) : Host.Outcome State Fault Refusal :=
  .next (
    if !(live s .ring) then s else
    let at' := (link s r.val).sfpAt
    let s := upto at' s
    let next := nextDue at' (100 * msec) s.now
    sfpPresence r.val ans (onLink r.val (fun l => { l with sfpAt := next }) s))

/-- SFP_DDM_POLL (R325): bytes 96 to 117 of A2h every POLL ms, whatever PRESENT and DDM say. -/
def execSfpDdmPoll (r : Fin 2) (ans : SfpAnswer) (s : State) : Host.Outcome State Fault Refusal :=
  .next (
    let poll := rdf s (ringKey r.val 0x070) 0 16
    if !(live s .ring) || poll = 0 then s else
    let at' := (link s r.val).ddmAt
    let s := upto at' s
    let next := nextDue at' (poll * msec) s.now
    let s := onLink r.val (fun l => { l with ddmAt := next }) s
    match ans with
    | .data bs =>
      let old := rdf s (ringKey r.val 0x088) 16 16
      let s := sfpStore r.val (256 + 96) (padTo 22 bs) s
      let w : Nat → Nat := fun i => sfpByte s r.val (256 + i) * 256 + sfpByte s r.val (256 + i + 1)
      let tx := rdf s (ringKey r.val 0x070) 16 1
      let b110 := sfpByte s r.val (256 + 110)
      let s := wr (ringKey r.val 0x080) (wNat (w 96 + w 98 * 65536)) s
      let s := wr (ringKey r.val 0x084) (wNat (w 100 + w 102 * 65536)) s
      let s := wr (ringKey r.val 0x088) (wNat (w 104 + w 112 * 65536)) s
      let s := wrb (ringKey r.val 0x074) 3 (b110 / 4 % 2 = 1) (wrb (ringKey r.val 0x074) 4 (b110 / 2 % 2 = 1) s)
      let s := sfpStore r.val (256 + 110) [setFld8 b110 tx] s
      if (List.range 16).any fun i => (w 112).testBit i && !old.testBit i then raiseRing r.val 8 s else s
    | _ => raiseRing r.val 9 s)
where
  /-- Byte 110 with bit 6 as SFP_CTL.TXDIS says. -/
  setFld8 (b tx : Nat) : Byte := BitVec.ofNat 8 (b - b / 64 % 2 * 64 + tx * 64)

/-- RESCAN (R351). -/
def execRescan (m : Master) (r : Fin 2) (ans : SfpAnswer) (s : State) : Host.Outcome State Fault Refusal :=
  .next (byBus m .ring r.val 0x070 (sfpPresence r.val ans) s)

/-- SFP_DATA_READ (R351): the shadow byte at SFP_ADDR, which advances. -/
def execSfpDataRead (m : Master) (r : Fin 2) (s : State) : Host.Outcome State Fault Refusal :=
  .next (readAt m .ring r.val 0x07C (fun s =>
    let a := rdf s (ringKey r.val 0x078) 0 9
    respond (wNat (sfpByte s r.val a)) (wrf (ringKey r.val 0x078) 0 9 (a + 1) s)) s)

/-! Stream commands -/

/-- The stream that STR_SEL selects. -/
def selStream (s : State) : Nat := rdf s (ringKey 0 0x0A0) 0 10

/-- OPEN is refused for a stream's settings (R351). -/
def openRefused (x : RStream) : Bool :=
  x.dir = 0 || x.dir = 3 || decide (4 < x.owner) || decide (x.size < 2) || decide (4096 < fld x.buf 0 12 + x.size)

/-- Return a stream to CLOSED and discard its cells (R345). -/
def closeStream (n : Nat) (s : State) : State :=
  dropOpens n (onStream n (fun x => { cfg := x.cfg, peer := x.peer, buf := x.buf, retry := x.retry, next := x.next, full := x.full,
                                      cause := x.cause, breaks := x.breaks, retx := x.retx, dup := x.dup }) s)

/-- Write STR_CTL (R345). -/
def writeStrCtl (v : Word) (s : State) : State :=
  let n := selStream s
  let x := rstream s n
  let s := if !bit v 0 then s
    else if x.st ≠ 0 || openRefused x then raiseRing 0 10 s
    else openStream n s
  let s := if bit v 1 then closeStream n s else s
  if !bit v 2 then s
  else if (rstream s n).st = 0 then raiseRing 0 10 s
  else reopenStream n s

/-- Write STR_PTR.PUT of the selected send stream (R341). -/
def writePut (v : Nat) (s : State) : State :=
  let x := rstream s (selStream s)
  if x.dir ≠ 1 || x.size = 0 then s else onStream (selStream s) (fun x => { x with put := v % x.size }) s

/-- Write STR_PTR.GET of the selected receive stream (R341): read slots are freed. -/
def writeGet (v : Nat) (s : State) : State :=
  let n := selStream s
  let x := rstream s n
  if x.dir ≠ 2 || x.size = 0 then s else
  let k := min x.occ ((v % x.size + x.size - x.get) % x.size)
  onStream n (fun x => { x with get := v % x.size, occ := x.occ - k, fullAt := (if k = 0 then x.fullAt else none) }) s

/-- STR_OPEN (R345). -/
def execStrOpen (m : Master) (s : State) : Host.Outcome State Fault Refusal :=
  .next (byBus m .ring 0 0x0C0 (fun s => writeStrCtl 1 s) s)

/-- STR_CLOSE (R345). -/
def execStrClose (m : Master) (s : State) : Host.Outcome State Fault Refusal :=
  .next (byBus m .ring 0 0x0C0 (fun s => writeStrCtl 2 s) s)

/-- STR_REOPEN (R345). -/
def execStrReopen (m : Master) (s : State) : Host.Outcome State Fault Refusal :=
  .next (byBus m .ring 0 0x0C0 (fun s => writeStrCtl 4 s) s)

/-- PUT (R341). -/
def execPut (m : Master) (v : BitVec 8) (s : State) : Host.Outcome State Fault Refusal :=
  .next (byBus m .ring 0 0x0BC (fun s => writePut v.toNat s) s)

/-- GET (R341). -/
def execGet (m : Master) (v : BitVec 8) (s : State) : Host.Outcome State Fault Refusal :=
  .next (byBus m .ring 0 0x0BC (fun s => writeGet v.toNat s) s)

/-- RMEM_DATA_ACCESS (R350): a write, or a read; RMEM_ADDR advances by 1 modulo 65536. -/
def execRmemDataAccess (m : Master) (w : Option Word) (s : State) : Host.Outcome State Fault Refusal :=
  .next (
    let a := rdf s (ringKey 0 0x0D0) 0 16
    let next := wrf (ringKey 0 0x0D0) 0 16 (a + 1)
    match w with
    | some v => byBus m .ring 0 0x0D4 (fun s => memWrWord (ringBase + 4 * a) v (next s)) s
    | none => readAt m .ring 0 0x0D4 (fun s => respond (memWord s (ringBase + 4 * a)) (next s)) s)

/-- JOIN (R336). -/
def execJoin (m : Master) (r : Fin 2) (s : State) : Host.Outcome State Fault Refusal :=
  .next (byBus m .ring r.val 0x044 (fun s => writeRingCtl r.val 1 s) s)

/-- LEAVE (R336). -/
def execLeave (m : Master) (r : Fin 2) (s : State) : Host.Outcome State Fault Refusal :=
  .next (byBus m .ring r.val 0x044 (fun s => writeRingCtl r.val 2 s) s)

/-- UNWRAP_NOW (R339). -/
def execUnwrapNow (m : Master) (r : Fin 2) (s : State) : Host.Outcome State Fault Refusal :=
  .next (byBus m .ring r.val 0x044 (fun s => writeRingCtl r.val 4 s) s)

/-- ACK_TIMER (R344): 100 us after the first delivery that has not been acknowledged. -/
def execAckTimer (n : Fin 1024) (s : State) : Host.Outcome State Fault Refusal :=
  .next (
    match (rstream s n.val).ackAt with
    | none => s
    | some t =>
      if !(live s .ring) then s else
      let s := onStream n.val (fun x => { x with ackAt := none, fresh := 0 }) (upto t s)
      answer n.val 0 (rstream s n.val).next s)

/-- GAP_TMO (R344). -/
def execGapTmo (n : Fin 1024) (s : State) : Host.Outcome State Fault Refusal :=
  .next (
    match (rstream s n.val).gap with
    | none => s
    | some t => if live s .ring then breakStream n.val 2 (upto (t + (rstream s n.val).rto) s) else s)

/-- BUF_FULL_TIMEOUT (R345). -/
def execBufFullTimeout (n : Fin 1024) (s : State) : Host.Outcome State Fault Refusal :=
  .next (
    match (rstream s n.val).fullAt with
    | none => s
    | some t => if live s .ring then breakStream n.val 3 (upto (t + (rstream s n.val).rto) s) else s)

/-- RETRANSMIT (R344): the oldest unacknowledged cell is older than RTO. -/
def execRetransmit (n : Fin 1024) (s : State) : Host.Outcome State Fault Refusal :=
  .next (
    let x := rstream s n.val
    match x.unack with
    | [] => s
    | u :: _ =>
      if !(live s .ring) || x.st ≠ 2 || !x.retries || !u.again.isEmpty then s
      else resend n.val 0 (upto (u.when' + x.rto) s))

/-- OPEN_RESEND (R345). -/
def execOpenResend (n : Fin 1024) (s : State) : Host.Outcome State Fault Refusal :=
  .next (
    let x := rstream s n.val
    if !(live s .ring) || x.dir ≠ 1 || x.st ≠ 1 then s else sendOpen n.val (upto (x.openAt + x.rto) s))

/-! Register writes -/

/-- STR_CFG, STR_PEER, STR_BUF and STR_RETRY are accepted only while the selected stream is CLOSED (R350). -/
def ringWriteOk (s : State) (off : Nat) : Bool :=
  !(decide (0x0A4 ≤ off ∧ off ≤ 0x0B0)) || decide ((rstream s (selStream s)).st = 0)

/-- A2h byte 110 bit 6 follows SFP_CTL.TXDIS (R325). -/
def sfpTx (r : Nat) (v : Word) (s : State) : State :=
  let b := sfpByte s r (256 + 110)
  sfpStore r (256 + 110) [BitVec.ofNat 8 (b - b / 64 % 2 * 64 + fld v 16 1 * 64)] s

/-- Write a RING register (R350, R351); RESCAN makes the next presence test, which reads A0h, due at once. RINGB ignores the stream and ring-memory offsets (R340). -/
def writeRing (r off : Nat) (v : Word) (s : State) : State :=
  let k := ringKey r off
  let n := selStream s
  if 0x0A0 ≤ off ∧ off ≤ 0x17C ∧ r ≠ 0 then s else
  match off with
  | 0x044 => writeRingCtl r v s
  | 0x070 =>
    let now := s.now
    plainWrite k v (sfpTx r v (if bit v 17 then onLink r (fun l => { l with sfpAt := min l.sfpAt now }) s else s))
  | 0x0A4 => onStream n (fun x => { x with cfg := plainValue k x.cfg v }) s
  | 0x0A8 => onStream n (fun x => { x with peer := plainValue k x.peer v }) s
  | 0x0AC => onStream n (fun x => { x with buf := plainValue k x.buf v }) s
  | 0x0B0 => onStream n (fun x => { x with retry := plainValue k x.retry v }) s
  | 0x0B4 => if bit v 5 then onStream n (fun x => { x with full := false }) s else s
  | 0x0BC => if (rstream s n).dir = 1 then writePut (fld v 0 8) s else writeGet (fld v 8 8) s
  | 0x0C0 => writeStrCtl v s
  | _ => plainWrite k v s

/-- LINK_STAT (R351). -/
def linkStat (s : State) (r : Nat) : Word :=
  let l := link s r
  let b : Bool → Nat → Nat := fun c v => if c then v else 0
  wNat (b l.sync 1 + b (l.link = 1) 2 + b l.rfault.isSome 4 + b l.wrap 8 + b l.joined 16 + b l.ford 32) |||
    (rd s (ringKey r 0x04C) &&& 0x100)

/-- A read of a RING register that mirrors hidden state (R350, R351). -/
def readRing (s : State) (r off : Nat) : Option Word :=
  let x := rstream s (selStream s)
  match off with
  | 0x00C => some (linkStat s r &&& 0xFF)
  | 0x04C => some (linkStat s r)
  | 0x07C => some (wNat (sfpByte s r (rdf s (ringKey r 0x078) 0 9)))
  | _ =>
    if !(0x0A0 ≤ off ∧ off ≤ 0x17C) then none
    else if r ≠ 0 then some 0
    else match off with
    | 0x0A4 => some x.cfg
    | 0x0A8 => some x.peer
    | 0x0AC => some x.buf
    | 0x0B0 => some x.retry
    | 0x0B4 => some (wNat (x.st + (if x.winFull then 16 else 0) + (if x.full then 32 else 0) + 256 * min 255 x.held.length + 65536 * x.cause))
    | 0x0B8 => some (wNat (x.next + (if x.dir = 1 then 65536 * x.acked else 0)))
    | 0x0BC => some (wNat (x.put + 256 * x.get))
    | 0x0C4 => some (wNat (x.retx + 65536 * x.dup))
    | _ =>
      if 0x100 ≤ off then
        some (wNat (((List.range 32).filter fun j => decide ((rstream s (8 * (off - 0x100) + j)).st = 3)).foldl (fun a j => a + 2 ^ j) 0))
      else none

/-- The fords are closed, FORD_CTL_N is released and every ring state is as after reset (R333, R349). -/
def ringReset (s : State) : State :=
  { s with rings := {}, mem := s.mem.filter (fun e => decide (e.1 < ringBase)) }

end Sys2Proof.Machine
end

