-- ==== Sys2Proof/Machine/Rails.lean ====
section
/-! DEFINITION. Multiphase regulator rails (R267 to R287): enable, slots, updates, shedding, diode emulation, faults and
states, and the shadow writes of the rail pass. -/

namespace Sys2Proof.Machine

/-- Set a rail. -/
def setRail (r : Nat) (x : Rail) (s : State) : State := { s with rails := smSet rail0 s.rails r x }
/-- Change a rail. -/
def onRail (r : Nat) (f : Rail → Rail) (s : State) : State := setRail r (f (rail s r)) s
/-- Key of a REG register (R291). -/
def regKey (r off : Nat) : Nat := rk .reg r off
/-- A cause of a REG page has been raised: an enabled one asserts PMB_ALERT_N where PMB_CFG.ALERT_EN is 1 (R281). -/
def regAlert (r k : Nat) (s : State) : State :=
  if rdb s (regKey r 0x014) k && rdb s (regKey r 0x108) 16 then { s with cmdPorts := { s.cmdPorts with alert := true } } else s
/-- Raise a cause of a REG page. -/
def raiseReg (r k : Nat) (s : State) : State := regAlert r k (raise .reg r k s)
/-- CFG.CDOM. -/
def railDom (s : State) (r : Nat) : Nat := rdf s (regKey r 0x040) 0 5
/-- CFG.LANE. -/
def railLane (s : State) (r : Nat) : Nat := rdf s (regKey r 0x040) 8 5
/-- NPH.COUNT. -/
def slotCount (s : State) (r : Nat) : Nat := rdf s (regKey r 0x044) 0 5
/-- NPH.NMIN. -/
def nMin (s : State) (r : Nat) : Nat := rdf s (regKey r 0x044) 8 5
/-- NPH.NMAX. -/
def nMax (s : State) (r : Nat) : Nat := rdf s (regKey r 0x044) 16 5
/-- The slots of a rail. -/
def slots (s : State) (r : Nat) : List Nat := List.range (min 24 (slotCount s r))
/-- The leg of a slot (R267). -/
def slotLeg (s : State) (r i : Nat) : Nat := rdf s (regKey r (0x048 + 4 * (i / 4))) (8 * (i % 4)) 7
/-- The current converter of a slot, where it is present. -/
def slotConv (s : State) (r i : Nat) : Option Nat :=
  let w := rd s (regKey r (0x060 + 4 * (i / 4)))
  if bit w (8 * (i % 4) + 7) then some (fld w (8 * (i % 4)) 5) else none
/-- The member legs. -/
def railLegs (s : State) (r : Nat) : List Nat := (slots s r).map (slotLeg s r)
/-- VSNS.CONV. -/
def railVsns (s : State) (r : Nat) : Nat := rdf s (regKey r 0x078) 0 5
/-- OFF_SET and OVP_SET. -/
def offSet (s : State) (r : Nat) : Nat := rdf s (regKey r 0x07C) 0 4
/-- OVP_SET. -/
def ovpSet (s : State) (r : Nat) : Nat := rdf s (regKey r 0x07C) 4 4
/-- A float register of the page. -/
def regF (s : State) (r off : Nat) : Word := rd s (regKey r off)
/-- The driver group of the slot's direct phase holds a fault (R275). -/
def slotFaulted (s : State) (r i : Nat) : Bool :=
  (legPhase s (slotLeg s r i)).any fun p => rdb s (rk .drv (p / 4) 0x044) 2
/-- Slots that are available. -/
def slotsAvail (s : State) (r : Nat) : List Nat := (slots s r).filter fun i => !(slotFaulted s r i)

/-! The enable (R267 to R269) -/

/-- A set holds every member as its member. -/
def holdsAll (s : State) (r k : Nat) : Bool :=
  let ms := (members s k).map memberLeg
  (railLegs s r).all fun l => ms.contains l

/-- Float registers of the page (R291). -/
def regFloats : List Nat := [0x080, 0x084, 0x088, 0x08C, 0x090, 0x094, 0x09C, 0x0A0, 0x0A4, 0x0A8, 0x0AC, 0x0B0, 0x0B4, 0x0BC,
  0x0C0, 0x0C8, 0x0CC, 0x0E0]

/-- The enable is refused (R269). -/
def railRefused (s : State) (r : Nat) : Bool :=
  let d := railDom s r
  let f := regF s r
  let legs := railLegs s r
  let convs := railVsns s r :: (slots s r).filterMap (slotConv s r)
  let others := ((List.range 4).filter (· ≠ r)).flatMap (railLegs s)
  let pos : Nat → Bool := fun off => ltF zeroF (f off)
  decide (23 < d) || legs.any (fun l => decide (95 < l) || !(inDom s d l)) || decide (laneDom s (railLane s r) ≠ d) ||
    convs.any (fun n => !(adcBound s n d)) || legs.any (fun l => others.contains l) ||
    legs.any (fun l => outMode s l ≠ 1) ||
    slotCount s r = 0 || decide (24 < slotCount s r) || nMin s r = 0 || decide (nMax s r < nMin s r) ||
    decide (slotCount s r < nMax s r) || regFloats.any (fun off => !(finF (f off))) || leF (f 0x0B0) (f 0x0AC) ||
    ltF (f 0x0B4) (f 0x0B0) || ltF (f 0x080) (f 0x084) || ltF (f 0x088) (f 0x080) ||
    !(pos 0x08C) || !(pos 0x090) || !(pos 0x094) || decide (4 < rdf s (regKey r 0x040) 16 3) ||
    rdb s (setKey (offSet s r) 0x10) 0 || !(holdsAll s r (offSet s r)) ||
    (rdb s (regKey r 0x07C) 8 && (!(rdb s (setKey (ovpSet s r) 0x10) 0) || !(holdsAll s r (ovpSet s r))))

/-! States (R270, R283 to R286) -/

/-- Latch OFF_SET as software does (R270). -/
def latchOff (r : Nat) (s : State) : State := latchSet (offSet s r) 0 (0x80 + r) s

/-- Switch diode emulation: BTRUNC_EN of every member (R276). -/
def setDe (r : Nat) (on : Bool) (s : State) : State :=
  if (rail s r).de = on then s else
  let s := forEach (railLegs s r) (fun l s => wrb (legKey l 0) 7 on s) (onRail r (fun x => { x with de := on }) s)
  raiseReg r 6 s

/-- A change of diode emulation lands (R276). -/
def landDe (r : Nat) (s : State) : State :=
  match (rail s r).deWant with
  | some b => setDe r b (onRail r (fun x => { x with deWant := none }) s)
  | none => s

/-- The slots that are active where N is NMAX (R275). -/
def fullMask (s : State) (r : Nat) : Nat := ((slotsAvail s r).take (nMax s r)).foldl (fun m i => m + 2 ^ i) 0

/-- |a − b| ≤ w. -/
def within (a b w : Word) : Bool := fLe (fAbs (fSub (f32 a) (f32 b))) (f32 w)

/-- PG holds: in RUN, while VOUT is near VREF (R284). -/
def powerGood (s : State) (r : Nat) : Bool :=
  let x := rail s r
  x.st = 2 && within x.vout x.vref (regF s r 0x09C)

/-- PG takes a value: PG or PG_LOST is raised as it changes, with the status alert of AVSBus (R280, R284). -/
def setPg (r : Nat) (pg : Bool) (s : State) : State :=
  let x := rail s r
  let s := setRail r { x with pg := pg, pgSeen := x.pgSeen || pg, alert := x.alert || decide (x.pg ≠ pg) } s
  if pg && !x.pg then raiseReg r 2 s else if !pg && x.pg then raiseReg r 3 s else s

/-- Enter a state: STATE_CHG and one trouble-log entry with the old state, the new state and the cause (R284). The change of
diode emulation that goes with it lands at a boundary tick: that of the update which decides it, or the next one (R276). -/
def railTo (r st cause : Nat) (s : State) : State :=
  let old := (rail s r).st
  let now := s.now
  -- windows and boundaries are counted across changes among SOFTSTART, RUN and STOPPING (log entry 28)
  let on := (old = 1 || old = 2 || old = 3) && (st = 1 || st = 2 || st = 3)
  let s := onRail r (fun x => { x with st := st, since := now, ocN := (if on then x.ocN else 0), uvN := 0,
                                       ovrN := (if on then x.ovrN else 0), addD := 0, shedD := 0, deD := 0,
                                       pgSeen := false, starts := false, cause := (if cause = 0 then x.cause else cause),
                                       alert := x.alert || decide (st = 5),
                                       mask := (if st = 1 || st = 2 || st = 3 then x.mask else 0),
                                       trims := (if st = 1 || st = 2 || st = 3 then x.trims else []),
                                       first := decide (st = 1) || (decide (st = 2 ∨ st = 3) && x.first) }) s
  let s := raiseReg r 0 (logIt (pageNo .reg r) 0 [wNat old, wNat st, wNat cause] s)
  let s := if (st = 0 && old ≠ 0) || st = 4 || (st = 5 && cause ≠ 6) then latchOff r s else s
  let s := if st = 1 || st = 3 then
      let m := fullMask s r
      let de := rdb s (regKey r 0x040) 19
      onRail r (fun x => { x with mask := m, deWant := (if de then some true else x.deWant) }) s
    else if st = 2 then onRail r (fun x => { x with deWant := some false }) s else s
  let s := setPg r (powerGood s r) s
  let s := if st = 5 then raiseReg r 8 s else s
  if st = 5 then monTrigger 1 r 0 cause s else s

/-- Enter SOFTSTART: OFF_SET is cleared first; a refused clear leaves the rail in its state (R270, R284). -/
def softStart (r : Nat) (s : State) : State :=
  let s := clearSet (offSet s r) s
  if (safeSet s (offSet s r)).latched then onRail r (fun x => { x with starts := true }) s
  else
    let v := if rdb s (regKey r 0x040) 20 then (adc s (railVsns s r)).set.value else 0
    onRail r (fun x => { x with vref := v, vdone := true, avsDone := false, rate := none }) (railTo r 1 0 s)

/-- Write CTL.ENABLE (R269, R278). -/
def railEnable (r : Nat) (s : State) : State :=
  let x := rail s r
  if x.st ≠ 0 || x.starts then s
  else if railRefused s r then raiseReg r 13 s
  else
    let boot := regF s r 0x080
    softStart r (onRail r (fun x => { x with target := (if x.taken then x.target else boot) }) s)

/-- CTL.DISABLE, through STOPPING where `soft` is set and the rail runs (R284, R285). -/
def railDisable (r : Nat) (soft : Bool) (s : State) : State :=
  let x := rail s r
  let s := onRail r (fun x => { x with retries := 0, taken := false, starts := false }) s
  if x.st = 0 then s
  else if soft && (x.st = 1 || x.st = 2) then railTo r 3 0 s
  else if soft && x.st = 3 then s
  else onRail r (fun x => { x with vref := 0 }) (railTo r 0 0 s)

/-- Write REGr.CTL: DISABLE after ENABLE. -/
def writeRailCtl (r : Nat) (v : Word) (s : State) : State :=
  let s := if bit v 0 then railEnable r s else s
  if bit v 1 then railDisable r (rdb s (regKey r 0x040) 21) s else s

/-- A fault: HICCUP, counted, or LATCHED where the retries are used up (R285). -/
def railFault (r cause : Nat) (s : State) : State :=
  let cfg := rd s (regKey r 0x0D0)
  let n := (rail s r).retries + 1
  let s := onRail r (fun x => { x with retries := min 15 n }) (incHeld (regKey r 0x100) 0 16 s)
  let s := raiseReg r 7 s
  if fld cfg 16 4 ≠ 15 && decide (fld cfg 16 4 < n) then railTo r 5 cause s else railTo r 4 cause s

/-- A member is held at rank 1 to 4 by something other than OFF_SET (R284); a slot of a faulted driver group is treated as
shed, and does not count (R275). -/
def overridden (s : State) (r : Nat) : Bool :=
  let t := setSafe (offSet s r) {} s
  ((slotsAvail s r).map (slotLeg s r)).any fun l => decide (legRank t l < 5)

/-- The condition for a retry (R284). -/
def retryOk (s : State) (r : Nat) : Bool :=
  let x := rail s r
  decide (x.since + rdf s (regKey r 0x0D0) 0 16 * msec ≤ s.now) && !((slots s r).any (slotFaulted s r)) &&
    !((railLegs s r).any fun l => decide (legRank s l < 3))

/-- The first fault of R284 that holds: its cause. -/
def faultNow (s : State) (r : Nat) : Option Nat :=
  let x := rail s r
  let iph := regF s r 0x0A8
  let over' := (slots s r).any fun i => (slotConv s r i).any fun n =>
    let a := (adc s n).set
    a.valid && !a.sat && ltF iph a.value
  if 2 ≤ x.ocN then some 1
  else if ltF zeroF iph && over' then some 2
  else if (slotsAvail s r).length < nMin s r then some 3
  else if x.st = 2 && decide (4 ≤ x.uvN) then some 4
  else
    let tmo := rdf s (regKey r 0x098) 0 16
    if x.st = 1 && tmo ≠ 0 && decide (x.since + tmo * msec ≤ s.now) then some 5 else none

/-- The state table, in its order (R284). -/
def railStates (r : Nat) (s : State) : State :=
  let x := rail s r
  let runs := x.st = 1 || x.st = 2 || x.st = 3
  if runs && rdb s (regKey r 0x07C) 8 && (safeSet s (ovpSet s r)).latched then railTo r 5 6 s
  else if runs && (lane s (railLane s r)).st = 3 then railTo r 5 8 s
  else if runs && decide (2 ≤ x.ovrN) then railTo r 4 7 s
  else match x.st, faultNow s r with
  | 1, some c | 2, some c => railFault r c s
  | 1, none => if eqF x.vref x.target && within x.vout x.vref (regF s r 0x09C) then railTo r 2 0 s else s
  | 3, _ => if eqF x.vref zeroF then railTo r 0 0 s else s
  | 4, _ => if retryOk s r then softStart r s else s
  | 0, _ => if x.starts then softStart r s else s
  | _, _ => s

/-! One update (R271 to R276) -/

/-- Active slots. -/
def active (x : Rail) : List Nat := (List.range 24).filter fun i => x.mask.testBit i

/-- Measure: VOUT, IOUT, the trims of active slots, BAL_GAP, power good, and the counts behind the faults. -/
def railMeasure (r : Nat) (s : State) : State :=
  let x := rail s r
  let vout := (adc s (railVsns s r)).set.value
  let convs := (slots s r).filterMap (slotConv s r)
  let iout := toF32 ((convs.map fun n => f32 (adc s n).set.value).foldl fAdd (.num false 0 0))
  let act := active x
  let n : Int := max 1 act.length
  let k := f32 (regF s r 0x0C8)
  let top := regF s r 0x0CC
  let good : Nat → Bool := fun i => (slotConv s r i).any fun c => (adc s c).set.valid && !(adc s c).set.sat
  let trim : Nat → Word := fun i =>
    if !(act.contains i) || !(good i) || eqF (regF s r 0x0C8) zeroF then 0 else
    let v := toF32 (fMul k (fSub (fDiv (f32 iout) (fInt n 0)) (f32 (adc s ((slotConv s r i).getD 0)).set.value)))
    if ltF top v then top else if ltF v (negF top) then negF top else v
  let bad := ((slots s r).filter fun i => (slotConv s r i).isSome && !(good i)).foldl (fun m i => m + 2 ^ i) 0
  let fresh := (List.range 24).any fun i => bad.testBit i && !(x.notGood.testBit i)
  let lim := regF s r 0x0A4
  let uvw := regF s r 0x0A0
  let oc := ltF zeroF lim && ltF lim iout
  let uv := x.st = 2 && (x.pgSeen || within vout x.vref (regF s r 0x09C)) && ltF zeroF uvw && ltF vout (subF x.vref uvw)
  let ovr := overridden s r
  let s := setRail r { x with vout := vout, iout := iout, trims := (List.range 24).map trim, notGood := bad,
                              ocN := (if oc then x.ocN + 1 else 0), uvN := (if uv then x.uvN + 1 else 0),
                              ovrN := (if ovr then x.ovrN + 1 else 0), hist := ((vout, iout) :: x.hist).take 64 } s
  let s := if fresh then raiseReg r 12 s else s
  setPg r (powerGood s r) s

/-- Other slots are active from an update of window `k` on: dwells restart with the windows that begin at or after B(k+3),
where the count takes effect (R274), and a slot that is not active has no trim (R272). -/
def newMask (r m k : Nat) (s : State) : State :=
  onRail r (fun x => { x with mask := m, addD := 0, shedD := 0, deD := 0, fromK := k + 3,
                              trims := (List.range 24).map fun i => if m.testBit i then x.trims.getD i 0 else 0 }) s

/-- N changes to another set of active slots, by ADD or SHED (R274). -/
def setMask (r m k : Nat) (s : State) : State :=
  let x := rail s r
  let s := newMask r m k s
  if count24 x.mask < count24 m then raiseReg r 5 (incHeld (regKey r 0x104) 16 16 s)
  else raiseReg r 4 (incHeld (regKey r 0x104) 0 16 s)

/-- Add the lowest-numbered shed slots until `n` slots are active. -/
def addSlots (s : State) (r m : Nat) : Nat → Nat
  | 0 => m
  | n + 1 =>
    match (slotsAvail s r).find? fun i => !(m.testBit i) with
    | some i => addSlots s r (m + 2 ^ i) n
    | none => m

/-- Slots of faulted groups count as shed; where they are available at least NMIN slots stay active in RUN, and NMAX in
SOFTSTART and STOPPING (R275). -/
def dropFaulted (r k : Nat) (s : State) : State :=
  let x := rail s r
  let m := ((slotsAvail s r).filter fun i => x.mask.testBit i).foldl (fun m i => m + 2 ^ i) 0
  let m := addSlots s r m ((if x.st = 2 then nMin s r else nMax s r) - count24 m)
  if m = x.mask then s else newMask r m k s

/-- Diode emulation in RUN: it ends where IOUT is above IDE_EXIT, and starts where a dwell is done (R276). -/
def railDiode (r : Nat) (starts : Bool) (s : State) : State :=
  let x := rail s r
  if x.de then (if fLt (f32 (regF s r 0x0C0)) (f32 x.iout) then setDe r false s else s)
  else if starts && rdb s (regKey r 0x040) 19 then setDe r true s else s

/-- A count of active slots times a current of the page. -/
def perSlot (s : State) (r n off : Nat) : FVal := fMul (fInt n 0) (f32 (regF s r off))
/-- IOUT is at or above N x IADD (R274). -/
def addHolds (s : State) (r : Nat) (x : Rail) : Bool := fLe (perSlot s r (count24 x.mask) 0x0B0) (f32 x.iout)
/-- IOUT is at or below (N - 1) x ISHED, outside diode emulation (R274). -/
def shedHolds (s : State) (r : Nat) (x : Rail) : Bool := fLe (f32 x.iout) (perSlot s r (count24 x.mask - 1) 0x0AC) && !x.de
/-- N is NMIN and IOUT at or below IDE_ENTER (R276). -/
def lightLoad (s : State) (r : Nat) (x : Rail) : Bool := count24 x.mask = nMin s r && fLe (f32 x.iout) (f32 (regF s r 0x0BC))

/-- The rail with its dwells after a window of `len` steps that began with period `k` (R274, R276). -/
def dwellsAfter (s : State) (r len k : Nat) : Rail :=
  let x := rail s r
  let run : Bool → Nat → Nat := fun c d => if !c then 0 else if x.fromK ≤ k then d + len else d
  { x with addD := run (addHolds s r x) x.addD, shedD := run (shedHolds s r x) x.shedD,
           deD := run (lightLoad s r x && !x.de) x.deD }

/-- A condition has held for a dwell of `us` µs: a dwell of 0 acts on the first window that meets it (R274). -/
def dwellDone (x : Rail) (k : Nat) (c : Bool) (d us : Nat) : Bool := c && decide (us * usec ≤ d) && (us = 0 || decide (x.fromK ≤ k))

/-- The slots that are to be active after window `k`: the first condition of R274 that holds acts. -/
def phaseAim (s : State) (r k : Nat) (x : Rail) : Nat :=
  let n := count24 x.mask
  let dw := rd s (regKey r 0x0B8)
  if fLe (perSlot s r n 0x0B4) (f32 x.iout) && decide (n < nMax s r) then addSlots s r x.mask (nMax s r - n)
  else if dwellDone x k (addHolds s r x) x.addD (fld dw 16 16) && decide (n < nMax s r) && addSlots s r x.mask 1 ≠ x.mask then
    addSlots s r x.mask 1
  else if dwellDone x k (shedHolds s r x) x.shedD (fld dw 0 16) && decide (nMin s r < n) then
    x.mask - 2 ^ ((active x).getLastD 0)
  else x.mask

/-- Shedding, adding and diode emulation in RUN, from a window of `len` steps that began with period `k` (R274, R276). -/
def railPhases (r len k : Nat) (s : State) : State :=
  let x := dwellsAfter s r len k
  let m := phaseAim s r k x
  let low := lightLoad s r x
  let s := setRail r x s
  let s := if m = x.mask then s else setMask r m k s
  let y := rail s r
  railDiode r (y.mask = x.mask && dwellDone y k low y.deD (rdf s (regKey r 0x0C4) 0 16)) s

/-- The window of an update is taken: its averages, and the slots of faulted groups (R271, R272, R275). -/
def railTaken (r : Nat) (s : State) : State :=
  let d := dom s (railDom s r)
  let x := rail s r
  let s := railMeasure r (onRail r (fun x => { x with upK := some d.k }) s)
  if x.st = 1 || x.st = 2 || x.st = 3 then dropFaulted r (d.k - 1) s else s

/-- The tests of R284 follow; a change of diode emulation that they decide is in force from the boundary of the update (R276). -/
def railJudged (r : Nat) (s : State) : State :=
  let was := (rail s r).deWant
  let t := railStates r (railTaken r s)
  if (rail t r).deWant = was then t else landDe r t

/-- The slots that are to be active after the update that is due, where the rail stays in RUN (R274). -/
def updateAim (s : State) (r : Nat) : Nat :=
  let d := dom s (railDom s r)
  let u := railJudged r s
  phaseAim u r (d.k - 1) (dwellsAfter u r (d.start - d.prev) (d.k - 1))

/-- An update of a rail, once per boundary of its domain, in every state (R271). -/
def railUpdate (r : Nat) (s : State) : State :=
  let d := dom s (railDom s r)
  let x := rail s r
  if !(live s .reg) || !(domRuns s (railDom s r)) || !d.begun || x.upK = some d.k then s else
  let s := railJudged r s
  if (rail s r).st = 2 && x.st = 2 then railPhases r (d.start - d.prev) (d.k - 1) s else s

/-! Commands and the reference (R277 to R279) -/

/-- Limit a command (R278). -/
def limitCmd (r : Nat) (v : Word) (s : State) : Word × State :=
  let lo := regF s r 0x084
  let hi := regF s r 0x088
  let w := if ltF v lo then lo else if ltF hi v then hi else v
  (w, if w = v then s else raiseReg r 11 (onRail r (fun x => { x with clamp := true }) s))

/-- A command of a source (R277, R278): in OFF it sets TARGET of the next soft start, in place of older ones that wait. -/
def railCommand (r src : Nat) (v : Word) (rate : Option Word) (s : State) : State :=
  if rdf s (regKey r 0x040) 16 3 ≠ src then raiseReg r 9 (incHeld (regKey r 0x100) 16 16 s)
  else
    let (w, s) := limitCmd r v s
    let now := s.now
    onRail r (fun x => if x.st = 0 then { x with target := w, taken := true, rate := rate, cmds := [] }
      else { x with cmds := x.cmds ++ [⟨now, w, rate⟩] }) s

/-- A new TARGET is taken. -/
def takeTarget (r : Nat) (v : Word) (rate : Option Word) (s : State) : State :=
  onRail r (fun x => { x with target := v, rate := rate, vdone := true, avsDone := false, alert := x.alert || x.avsDone }) s

/-- The step of VREF at the boundary that starts a period of `per` steps, its trim included (R279). -/
def stepVref (r per : Nat) (s : State) : State :=
  let x := rail s r
  if !(x.st = 1 || x.st = 2 || x.st = 3) then s else
  let goal := if x.st = 3 then zeroF else x.target
  let up := ltF x.vref goal
  let rate := match x.st, x.rate with
    | 1, _ => regF s r 0x094
    | 2, some w => w
    | 2, none => regF s r (if up then 0x08C else 0x090)
    | _, _ => regF s r 0x090
  let st := fMul (f32 rate) (fDiv (fInt per 0) (fInt msec 0))
  let gap := fAbs (fSub (f32 goal) (f32 x.vref))
  let v := if fLe gap st then goal else toF32 (if up then fAdd (f32 x.vref) st else fSub (f32 x.vref) st)
  let s := setRail r { x with vref := v } s
  if x.vdone && x.st ≠ 3 && eqF v x.target then
    raiseReg r 1 (onRail r (fun x => { x with vdone := false, avsDone := true, alert := true }) s)
  else s

/-- What the input ports return after a boundary: VREF and TARGET as stepped now, the rest from the last update (R271). -/
def railPorts (s : State) (r : Nat) : List Word :=
  let x := rail s r
  let b : Bool → Nat → Nat := fun c v => if c then v else 0
  [x.vref, wNat x.st, wNat (count24 x.mask), wNat x.mask, x.iout,
   wNat (b (x.st = 1 || x.st = 2 || x.st = 3) 1 + b x.first 2 + b x.de 4 + b (!(eqF x.vref x.target)) 8 + b x.pg 16), x.target, 0] ++
    (List.range 24).map fun i => x.trims.getD i 0

/-- The rails' part of a boundary of domain `d` at tick `tk` (R278, R279); `fresh` marks a domain's first boundary, from which
the timers that had stopped go on (R35). -/
def railBoundary (d tk : Nat) (fresh : Bool) (s : State) : State :=
  if !(live s .reg) then s else
  let start := (dom s d).start
  let per := (dom s d).next - start
  forEach ((List.range 4).filter fun r => railDom s r = d) (fun r s =>
    let s := landDe r s
    let s := onRail r (fun x => { x with since := (if fresh then x.since + (start - x.lastB) else x.since), lastB := start }) s
    let due := (rail s r).cmds.filter fun c => decide (c.when' + 20000 ≤ tk)
    let s := match due.getLast? with
      | some c =>
        takeTarget r c.value c.rate (onRail r (fun x =>
          { x with cmds := x.cmds.filter fun c => !(decide (c.when' + 20000 ≤ tk)), taken := true }) s)
      | none => s
    let s := stepVref r per s
    let ps := railPorts s r
    onRail r (fun x => { x with ports := ps }) s) s

/-- A regulator input port 0x1A00 + 0x20r + j (R271). -/
def railPort (s : State) (r j : Nat) : Word :=
  let x := rail s r
  match j with
  | 0 => x.vref
  | 6 => x.target
  | _ => x.ports.getD j 0

/-- The manager's shadow writes at a pass start of the rail's lane: GATE and PHASE of the members (R273). The result lists
the groups it opened. -/
def railPass (n : Nat) (s : State) : State × List (Nat × Nat) :=
  let rs := (List.range 4).filter fun r =>
    let x := rail s r
    (x.st = 1 || x.st = 2 || x.st = 3) && railLane s r = n && live s .reg
  let act := rs.flatMap fun r =>
    let m := (rail s r).ports.getD 3 0
    let on := (slots s r).filter fun i => bit m i
    let base := rdf s (regKey r 0x0D4) 0 24
    (slots s r).map fun i => (slotLeg s r i, bit m i, (base + ((on.idxOf i) * 2 ^ 24 + on.length / 2) / max 1 on.length) % 2 ^ 24)
  let s := forEach act (fun e s =>
    let l := e.1
    let s := openGroup .pwmg (l / 8) (l % 8) s
    let s := wrf (legKey l 0x28) 2 2 (if e.2.1 then 0 else 2) s
    if e.2.1 then wr (legKey l 0x20) (wNat e.2.2) s else s) s
  let s := forEach rs (fun r s => onRail r (fun x => { x with first := x.first && !(bit (x.ports.getD 5 0) 1) }) s) s
  (s, act.map fun e => (e.1 / 8, e.1 % 8))

/-- After a write of a set's CTL: a rail LATCHED by over-voltage whose OVP_SET was cleared latches OFF_SET (R286). -/
def railAfterClear (s : State) : State :=
  forEach (List.range 4) (fun r s =>
    let x := rail s r
    if x.st = 5 && x.cause = 6 && !(safeSet s (ovpSet s r)).latched && !(safeSet s (offSet s r)).latched then latchOff r s
    else s) s

/-! The page -/

/-- A guarded write of a REG register is accepted: only in OFF (R269). -/
def regWriteOk (s : State) (r : Nat) : Bool := (rail s r).st = 0

/-- Write VSET (R277). -/
def writeVset (r : Nat) (v : Word) (s : State) : State :=
  if finF v then railCommand r 0 v none (wr (regKey r 0x0E0) v s) else s

/-- Write a REG register. -/
def writeReg (r off : Nat) (v : Word) (s : State) : State :=
  match off with
  | 0x0E0 => writeVset r v s
  | 0x0E4 => writeRailCtl r v s
  | 0x0E8 => if bit v 24 then onRail r (fun x => { x with clamp := false }) s else s
  | 0x0DC =>
    let now := s.now
    let s := plainWrite (regKey r off) v s
    let n := (rstream s (rdf s (regKey r off) 0 10)).breaks
    onRail r (fun x => { x with ringAt := now, lost := false, breaks := n }) s
  -- ADDR and EN exist on REG0 only (R292)
  | 0x108 => plainWrite (regKey r off) (if r = 0 then v else v &&& 0xFFFFFF00#32) s
  | 0x110 => if r = 0 then plainWrite (regKey r off) v s else s
  | 0x114 => if r = 0 && bit v 0 then monTrigger 0 0 0 0 s else s
  | _ => plainWrite (regKey r off) v s

/-- A half of the monument region (R288, R522). -/
def monHalf (h : Nat) : Nat := nvBase + 0x02540000 + 0x8000 * h
/-- A half's check holds; a half with an uncorrectable word has none that does. -/
def monValid (s : State) (h : Nat) : Bool :=
  nvClean s (monHalf h) 0x8000 && decide (crc32c (memBytes s (monHalf h) 0x7FFC) = memWord s (monHalf h + 0x7FFC))
/-- The half that holds the newest valid record. -/
def monNewest (s : State) : Option Nat :=
  let a := memWord s (monHalf 0)
  let b := memWord s (monHalf 1)
  match monValid s 0, monValid s 1 with
  | true, true => if (b - a).toNat < 2 ^ 31 ∧ a ≠ b then some 1 else some 0
  | true, false => some 0
  | false, true => some 1
  | _, _ => none

/-- MON_STAT (R292). -/
def monRecStat (s : State) : Word :=
  let m := s.monument
  let n := monNewest s
  wNat ((if m.busy.isSome then 1 else 0) + (if m.pend.isSome then 2 else 0) + (if n.isSome then 4 else 0) + 256 * m.lost +
    (n.map fun h => 65536 * ((memWord s (monHalf h)).toNat % 65536)).getD 0)

/-- A read of a REG register that mirrors hidden state (R291). -/
def readReg (s : State) (r off : Nat) : Option Word :=
  let x := rail s r
  match off with
  | 0x00C => some (railStat s r &&& 0xFF)
  | 0x0E8 => some (railStat s r)
  | 0x0EC => some x.target
  | 0x0F0 => some x.vref
  | 0x0F4 => some x.vout
  | 0x0F8 => some x.iout
  | 0x0FC => some (wNat x.mask)
  | 0x110 => some (if r = 0 then rd s (regKey 0 0x110) else 0)
  | 0x118 => some (if r = 0 then monRecStat s else 0)
  | _ => if 0x180 ≤ off && off < 0x1E0 then some (x.trims.getD ((off - 0x180) / 4) 0) else none

/-- The half of the monument region that a write goes to: the one that does not hold the newest valid record (R288). -/
def monTarget (s : State) : Nat := match monNewest s with | some 0 => 1 | _ => 0

/-- The words of a record with a SEQ (R289). -/
def recordWords (seq : Word) (m : MonSnap) : List Word :=
  let two : Nat → List Word := fun v => [wNat v, wNat (v / 2 ^ 32)]
  let pad : Nat → List Word → List Word := fun n l => l ++ List.replicate (n - l.length) 0
  pad 16 ([seq, m.trigger] ++ two m.datum ++ two m.rtc ++ [if m.valid then 1 else 0]) ++ m.rails.flatMap (pad 256) ++
    pad (0x7FFC / 4 - 16 - 1024) m.guard

/-- The bytes of the record that is written over half `h`, its check the last word (R289). -/
def recordBytes (s : State) (h : Nat) (m : MonSnap) : List Byte :=
  let bs := (recordWords (memWord s (monHalf (1 - h)) + 1) m).flatMap fun w => leBytes 4 w.toNat
  bs ++ leBytes 4 (crc32c bs).toNat

/-- A write of the monument record is cut off (R290, R526). The words written so far stay and are counted. Where the supply
stands (`sure`) the word under way is still written; where it fails, that word reads as R526 says, and so that the half fails
its check, and the previous record stands.  DESIGN CHOICE: the words go in the order of their addresses, one each 300 ns from
the start of the write, and the last is not complete before the write ends (log entry 67). -/
def tearMonument (sure : Bool) (s : State) : State :=
  match s.monument.busy with
  | none => s
  | some m =>
    let h := monTarget s
    let a := monHalf h
    let bs := recordBytes s h m
    let n := 8 * min ((s.now - s.monument.since) / nvWordTime) 4095
    let s := nvStores none a (bs.take n) { s with monument := {} }
    let w := (bs.drop n).take 8
    if sure then nvStore none (a + n) w s else
    let s := nvCutWord (a + n) w s
    if monValid s h then onNvm (fun v => { v with bad := (a + n) :: v.bad, weak := v.weak.filter (· ≠ a + n) }) s else s

/-- PD_REG is to be switched off: OFF_SET of every rail that is not OFF latches first (the paragraph before R287), and a
monument record that is being written is lost. -/
def railsOff (s : State) : State :=
  let s := tearMonument true s
  let s := forEach ((List.range 4).filter fun r => (rail s r).st ≠ 0) latchOff s
  { s with rails := [], cmdPorts := {}, monument := {} }

/-! Meanings -/

/-- RAIL_ENABLE (R269). -/
def execRailEnable (m : Master) (r : Fin 4) (s : State) : Host.Outcome State Fault Refusal :=
  .next (byBus m .reg r.val 0x0E4 (fun s => writeRailCtl r.val 1 s) s)

/-- RAIL_DISABLE (R284). -/
def execRailDisable (m : Master) (r : Fin 4) (s : State) : Host.Outcome State Fault Refusal :=
  .next (byBus m .reg r.val 0x0E4 (fun s => writeRailCtl r.val 2 s) s)

/-- RAIL_UPDATE (R271). -/
def execRailUpdate (r : Fin 4) (s : State) : Host.Outcome State Fault Refusal := .next (railUpdate r.val s)

/-- A timed condition of a rail falls due: the update of this boundary, where it has not been made, or the tests of R284
again. The rail's timers stand while its domain has no boundaries (R35). -/
def railTimed (r t : Nat) (s : State) : State :=
  if !(domRuns s (railDom s r)) || !(dom s (railDom s r)).begun then s else
  let s := upto t s
  let d := dom s (railDom s r)
  if (rail s r).upK = some d.k then railStates r s else railUpdate r s

/-- DWELL_EXPIRY (R274, R276): the update at which a dwell completes. -/
def execDwellExpiry (r : Fin 4) (s : State) : Host.Outcome State Fault Refusal := .next (railUpdate r.val s)

/-- HICCUP_RETRY (R284). -/
def execHiccupRetry (r : Fin 4) (s : State) : Host.Outcome State Fault Refusal :=
  .next (
    let x := rail s r.val
    if x.st ≠ 4 || !(live s .reg) then s else railTimed r.val (x.since + rdf s (regKey r.val 0x0D0) 0 16 * msec) s)

/-- SSTMO (R284). -/
def execSstmo (r : Fin 4) (s : State) : Host.Outcome State Fault Refusal :=
  .next (
    let x := rail s r.val
    let tmo := rdf s (regKey r.val 0x098) 0 16
    if x.st ≠ 1 || tmo = 0 || !(live s .reg) then s else railTimed r.val (x.since + tmo * msec) s)

/-- CLEAN_TIME (R285). -/
def execCleanTime (r : Fin 4) (s : State) : Host.Outcome State Fault Refusal :=
  .next (
    let x := rail s r.val
    if x.st ≠ 2 || !(live s .reg) || !(domRuns s (railDom s r.val)) || !(dom s (railDom s r.val)).begun then s else
    onRail r.val (fun x => { x with retries := 0 }) (upto (x.since + rdf s (regKey r.val 0x0D0) 20 12 * msec) s))

/-- VSET (R277). -/
def execVset (m : Master) (r : Fin 4) (v : Word) (s : State) : Host.Outcome State Fault Refusal :=
  .next (byBus m .reg r.val 0x0E0 (fun s => writeVset r.val v s) s)

/-- RING_COMMAND (R282): the next message of the rail's stream. -/
def execRingCommand (r : Fin 4) (s : State) : Host.Outcome State Fault Refusal :=
  .next (
    let cfg := rd s (regKey r.val 0x0DC)
    let n := fld cfg 0 10
    if !(bit cfg 16) || !(live s .reg) || (rstream s n).owner ≠ 1 then s else
    match streamTake n s with
    | (none, s) => s
    | (some (bs, _, _), s) =>
      let now := s.now
      let s := onRail r.val (fun x => { x with ringAt := now, lost := false }) s
      if bs.length ≠ 8 then s
      else if rdf s (regKey r.val 0x040) 16 3 ≠ 3 then railCommand r.val 3 0 none s
      else
        let w := wNat (leNat (bs.take 4))
        let rt := leNat (bs.drop 4)
        let rate := if rt = 0 then none else some (ratF rt 1000)
        let s := railCommand r.val 3 (ratF (fld w 0 16) 1000) rate s
        if bit w 17 then railDisable r.val (rdb s (regKey r.val 0x040) 21) s
        else if bit w 16 then railEnable r.val s else s)

/-- CMD_LOST (R282): the stream has been declared broken, even where it reopens at once, or no message has come for TMO ms. -/
def execCmdLost (r : Fin 4) (s : State) : Host.Outcome State Fault Refusal :=
  .next (
    let cfg := rd s (regKey r.val 0x0DC)
    let x := rail s r.val
    let n := (rstream s (fld cfg 0 10)).breaks
    let broken := decide (n ≠ x.breaks)
    let tmo := fld cfg 20 12
    if !(bit cfg 16) || !(live s .reg) || (!broken && (x.lost || tmo = 0)) then s else
    let s := if broken then s else upto (x.ringAt + tmo * msec) s
    let s := raiseReg r.val 10 (onRail r.val (fun x => { x with lost := true, breaks := n }) s)
    if bit cfg 17 then takeTarget r.val (regF s r.val 0x080) none s else s)

/-- CAPTURE (R288). -/
def execCapture (m : Master) (s : State) : Host.Outcome State Fault Refusal :=
  .next (byBus m .reg 0 0x114 (fun s => writeReg 0 0x114 1 s) s)

/-- MONUMENT_WRITTEN (R288 to R290). -/
def execMonumentWritten (s : State) : Host.Outcome State Fault Refusal :=
  .next (
    match s.monument.busy with
    | none => s
    | some m =>
      let h := monTarget s
      let s := nvStores none (monHalf h) (recordBytes s h m) s
      let now := s.now
      raiseReg 0 14 { s with monument := { s.monument with busy := s.monument.pend, pend := none, since := now } })

end Sys2Proof.Machine
end

