-- ==== Sys2Proof/Machine/Trackers.lean ====
section
/-! DEFINITION. PV string tracking (R252 to R266): measurement, perturb and observe, ceilings, parking and global sweeps. -/

namespace Sys2Proof.Machine

/-- Default of a tracker. -/
def tracker0 (_ : Nat) : Tracker := {}
/-- A tracker. -/
def tracker (s : State) (t : Nat) : Tracker := smGet tracker0 s.trackers t
/-- Set a tracker. -/
def setTracker (t : Nat) (x : Tracker) (s : State) : State := { s with trackers := smSet tracker0 s.trackers t x }
/-- Change a tracker. -/
def onTracker (t : Nat) (f : Tracker → Tracker) (s : State) : State := setTracker t (f (tracker s t)) s
/-- Change the sweep. -/
def onSweep (f : Sweep → Sweep) (s : State) : State := { s with sweep := f s.sweep }
/-- Key of a tracker register (R264). -/
def trkKey (t off : Nat) : Nat := rk .mppt 0 (0x100 + 0x40 * t + off)
/-- Raise a cause of the MPPT page. -/
def raiseMppt (k : Nat) (s : State) : State := raise .mppt 0 k s
/-- The length of a step. -/
def stepLen (s : State) (t : Nat) : Nat := rdf s (trkKey t 0x1C) 0 16 * (100 * usec)
/-- The length of its settle interval. -/
def settleLen (s : State) (t : Nat) : Nat := rdf s (trkKey t 0x1C) 16 16 * (10 * usec)

/-- Tracker `t` pairs a current average, of a window from `start` to `fin`, with a voltage average: it counts where the window
begins at or after the end of the settle interval and ends before the step ends (R252). -/
def takeSample (t start fin : Nat) (i v : AdcSet) (s : State) : State :=
  let x := tracker s t
  if start < x.stepAt + settleLen s t || x.stepAt + stepLen s t ≤ fin then s else
  let vv := toFx48 v.value
  setTracker t { x with sumP := x.sumP + fx vv (toFx48 i.value) * i.len, sumV := x.sumV + vv * i.len, sumL := x.sumL + i.len,
                        bad := x.bad || !i.valid || i.sat || !v.valid || v.sat } s

/-- The converter of a tracker's voltage, and of its current. -/
def trkVolt (s : State) (t : Nat) : Nat := rdf s (trkKey t 0x04) 0 5
/-- The converter of a tracker's current. -/
def trkCurr (s : State) (t : Nat) : Nat := rdf s (trkKey t 0x04) 8 5

/-- The Saddle term of the ceiling applies (R258). -/
def saddleTerm (s : State) (t : Nat) : Option Word :=
  if inSaddle s && rdb s (trkKey t 0) 1 then some (mulF (rd s (trkKey t 0x24)) (saddleP s)) else none

/-- The effective ceiling C; +0.0 for none (R258). -/
def ceiling (s : State) (t : Nat) : Word :=
  let cap := rd s (trkKey t 0x20)
  let pos : Word → Bool := fun w => ltF zeroF w
  match saddleTerm s t with
  | some q => if pos cap && pos q then minF cap q else if pos cap then cap else if pos q then q else 0
  | none => if pos cap then cap else 0

/-- The park conditions (R259). -/
def parkNow (s : State) (t : Nat) : Bool :=
  let cfg := rd s (trkKey t 0)
  let g := (grid s (fld cfg 4 2)).st
  (bit cfg 6 && g ≠ 4 && g ≠ 7) || (saddleTerm s t).any fun q => eqF q zeroF

/-- Move VREF by a step in a direction, within its bounds (R255). -/
def moveRef (t : Nat) (up : Bool) (dv : Word) (s : State) : State :=
  let x := tracker s t
  let v := if up then addF x.vref dv else subF x.vref dv
  let lo := rd s (trkKey t 0x08)
  let hi := rd s (trkKey t 0x0C)
  let out := ltF v lo || ltF hi v
  let v := if ltF v lo then lo else if ltF hi v then hi else v
  setTracker t { x with vref := v, clamp := out, up := (if out then !x.up else x.up) } s

/-- A baseline step: record P, move, decide nothing (R257). -/
def baseline (t : Nat) (p : Word) (s : State) : State :=
  let x := tracker s t
  moveRef t x.up x.dv (setTracker t { x with base := false, run := 0, pPrev := p } s)

/-- The next step is a baseline step toward lower voltage with dv = DV_MAX (R257, R259). -/
def restart (t : Nat) (s : State) : State :=
  let dv := rd s (trkKey t 0x10)
  onTracker t (fun x => { x with st := 1, up := false, dv := dv, base := true, run := 0 }) s

/-- A step of perturb and observe (R257). -/
def perturb (t : Nat) (p : Word) (s : State) : State :=
  let x := tracker s t
  if x.base then baseline t p s else
  let pdb := rd s (trkKey t 0x18)
  let dp := subF p x.pPrev
  let lo := rd s (trkKey t 0x14)
  let hi := rd s (trkKey t 0x10)
  let y :=
    if ltF pdb dp then
      if 4 ≤ x.run + 1 then { x with run := 0, dv := minF (addF x.dv x.dv) hi } else { x with run := x.run + 1 }
    else if ltF dp (negF pdb) then { x with up := !x.up, dv := maxF (toF32 (fScale (-1) (f32 x.dv))) lo, run := 0 }
    else { x with up := !x.up, dv := lo, run := 0 }
  moveRef t y.up y.dv (setTracker t { y with pPrev := p } s)

/-- Toward LIM_DIR. -/
def limUp (s : State) (t : Nat) : Bool := !(rdb s (trkKey t 0) 2)

/-- Leave LIMIT: the next step is a baseline step against LIM_DIR with dv = DV_MIN (R257). -/
def leaveLimit (t : Nat) (s : State) : State :=
  let up := !(limUp s t)
  let dv := rd s (trkKey t 0x14)
  onTracker t (fun x => { x with st := 1, up := up, dv := dv, base := true, run := 0, against := false, weak := 0 }) s

/-- Ceiling rules (R258). -/
def limitStep (t : Nat) (c p : Word) (s : State) : State :=
  let s := if (tracker s t).st = 2 then s
    else raiseMppt 3 (onTracker t (fun x => { x with st := 2, against := false, weak := 0, base := false }) s)
  let x := tracker s t
  let pdb := rd s (trkKey t 0x18)
  if !(ltF zeroF c) then leaveLimit t s else
  let weak := if x.against && leF (subF p x.pPrev) pdb then x.weak + 1 else 0
  if 2 ≤ weak then leaveLimit t s else
  let up := limUp s t
  let low := ltF p (subF c pdb)
  let s := setTracker t { x with weak := weak, against := low, pPrev := p } s
  if ltF c p then moveRef t up x.dv s else if low then moveRef t (!up) x.dv s else s

/-- A gap (R253). -/
def gapStep (t : Nat) (s : State) : State :=
  let s := incHeld (trkKey t 0x2C) 0 16 s
  let s := raiseMppt 6 (onTracker t (fun x => { x with gap := true, consec := held 255 (x.consec + 1) }) s)
  let x := tracker s t
  if 16 ≤ x.consec && x.st ≠ 5 then raiseMppt 5 (setTracker t { x with st := 5, base := true } s) else s

/-! Sweeps (R260, R261) -/

/-- The voltage of a point of tracker `t`'s sweep. -/
def sweepVolt (s : State) (t i : Nat) : Word :=
  let y := s.sweep
  if y.npts ≤ i then y.v0
  else
    let hi := f32 (rd s (trkKey t 0x0C))
    let lo := f32 (rd s (trkKey t 0x08))
    toF32 (fSub hi (fDiv (fMul (fInt i 0) (fSub hi lo)) (fInt (y.npts - 1) 0)))

/-- A sweep of tracker `t` may start or be requested. -/
def sweepOk (s : State) (t : Nat) : Bool := (tracker s t).st = 1 && !(inSaddle s) && !s.sweep.busy

/-- Point `i` begins. -/
def beginPoint (t i : Nat) (s : State) : State :=
  let v := sweepVolt s t i
  onTracker t (fun x => { x with vref := v, clamp := false })
    (onSweep (fun y => { y with point := i, volts := smSet (smConst 0) y.volts i v }) s)

/-- A sweep starts at a step end. -/
def startSweep (t : Nat) (s : State) : State :=
  let n := rdf s (rk .mppt 0 0x040) 0 7
  let v0 := (tracker s t).vref
  let s := onSweep (fun y => { y with busy := true, trk := t, npts := n, v0 := v0, gaps := 0, volts := [], pows := [] }) s
  beginPoint t 0 (onTracker t (fun x => { x with st := 4 }) s)

/-- An abort: VREF returns to V0, and TRACK goes on with a baseline step. -/
def abortSweep (t : Nat) (s : State) : State :=
  let v0 := s.sweep.v0
  raiseMppt 2 (onTracker t (fun x => { x with vref := v0 }) (restart t (onSweep (fun y => { y with busy := false }) s)))

/-- Enter PARK, or go on in it (R259). -/
def parkStep (t : Nat) (s : State) : State :=
  let s := if (tracker s t).st = 3 then s else raiseMppt 4 (onTracker t (fun x => { x with st := 3 }) s)
  let hi := rd s (trkKey t 0x0C)
  let s := moveRef t true (rd s (trkKey t 0x10)) s
  onTracker t (fun x => { x with up := true, clamp := eqF x.vref hi }) s

/-- The index of the point with the largest P. -/
def bestPoint (y : Sweep) : Option (Nat × Word) :=
  (List.range y.npts).foldl (fun best i =>
    let p := smGet (smConst nanF) y.pows i
    match best with
    | none => if eqF p p then some (i, p) else none
    | some b => if ltF b.2 p then some (i, p) else best) none

/-- A sweep point's step has ended. -/
def sweepStep (t : Nat) (gap : Bool) (c p : Word) (s : State) : State :=
  let i := s.sweep.point
  let s := onSweep (fun y => { y with pows := smSet (smConst nanF) y.pows i (if gap then nanF else p),
                                      gaps := (if gap then y.gaps + 1 else y.gaps) }) s
  if parkNow s t then parkStep t (raiseMppt 2 (onSweep (fun y => { y with busy := false }) s))
  else if (!gap && ltF zeroF c && ltF c p) || inSaddle s || decide (3 ≤ s.sweep.gaps) then abortSweep t s
  else if i < s.sweep.npts then beginPoint t (i + 1) s
  else
    let y := s.sweep
    let moved := match bestPoint y with
      | some b => if !gap && ltF (addF p (rd s (trkKey t 0x18))) b.2 then some b.1 else none
      | none => none
    let s := restart t (onSweep (fun y => { y with busy := false }) s)
    let s := raiseMppt 0 s
    match moved with
    | some b =>
      let v := smGet (smConst 0) y.volts b
      raiseMppt 1 (incHeld (trkKey t 0x2C) 16 16 (onTracker t (fun x => { x with vref := v }) s))
    | none => s

/-- Rows 3 to 5 of R256. A tracker that leaves PARK goes on from its reference: the step after is its baseline step (R259). -/
def stepRows (t : Nat) (gap : Bool) (c p : Word) (s : State) : State :=
  let st := (tracker s t).st
  let s := if st = 3 then restart t s else s
  let above := ltF zeroF c && ltF c p
  if gap then gapStep t s
  else if st = 3 then (if above then limitStep t c p s else s)
  else
    let s := if st = 5 then onTracker t (fun x => { x with st := 1, base := true }) s else s
    if above || st = 2 then limitStep t c p s else perturb t p s

/-- A step of tracker `t` ends (R253, R254, R256). A requested sweep starts where the rows before it leave the tracker in
TRACK, in place of the decision of row 5 (log entry 27). -/
def stepEnd (t : Nat) (s : State) : State :=
  let x := tracker s t
  let n : Int := max 1 x.sumL
  let p := ofFx48 (x.sumP / n)
  let v := ofFx48 (x.sumV / n)
  let tol := rd s (trkKey t 0x28)
  let gap := x.sumL = 0 || x.bad || (ltF zeroF tol && ltF tol (absF (subF v x.vref)))
  let next := x.stepAt + stepLen s t
  let s := setTracker t { x with stepAt := next, sumP := 0, sumV := 0, sumL := 0, bad := false, late := false,
                                 consec := (if gap then x.consec else 0),
                                 pmeas := (if gap then x.pmeas else p) } s
  let c := ceiling s t
  if x.st = 4 then sweepStep t gap c p s
  else
    let s := if x.sweep then onTracker t (fun x => { x with sweep := false }) s else s
    if parkNow s t then parkStep t (if x.sweep then raiseMppt 7 s else s)
    else if x.sweep && x.st = 1 && !gap && !(ltF zeroF c && ltF c p) && sweepOk s t then startSweep t s
    else
      let s := stepRows t gap c p s
      if !x.sweep then s else if gap && sweepOk s t then startSweep t s else raiseMppt 7 s

/-- A window or block of converter `n` that ended before an instant has yet to be delivered: its average comes within 24 ns
after its end (R42, R44, R53). -/
def undelivered (s : State) (n t : Nat) : Bool :=
  let a := adc s n
  let c := inForce s (rk .adc n 0x040)
  let d := fld c 4 5
  a.closed.any (fun x => decide (x.fin < t)) ||
    (adcMode s n = 1 && a.win.any fun w =>
      if bit c 3 then domRuns s d && decide ((if s.clk.locked then (dom s d).next else nextTick s d) < t)
      else decide (w.fromT + (w.nslot - w.fromN) * slotLen s n < t))

/-- The steps that have ended decide once no window that ended in them is still to come (R252).  DEDUCED (log entry 27). -/
def lateSteps (s : State) : State :=
  if !(live s .eng) then s else
  forEach ((List.range 24).filter fun t => (tracker s t).st ≠ 0 && (tracker s t).late) (fun t s =>
    if undelivered s (trkCurr s t) ((tracker s t).stepAt + stepLen s t) then s else stepEnd t s) s

/-- A set of converter `n` whose window ran from `start` to `fin` has been delivered: it is paired with the newest voltage
average of each tracker that measures its current (R252). -/
def trackSample (n start fin : Nat) (s : State) : State :=
  if !(live s .eng) then s else
  lateSteps (forEach ((List.range 24).filter fun t => (tracker s t).st ≠ 0 && decide (trkCurr s t = n))
    (fun t s => takeSample t start fin (adc s n).set (adc s (trkVolt s t)).set s) s)

/-! The page -/

/-- The enable is refused (R262). -/
def trackerRefused (s : State) (t : Nat) : Bool :=
  let f := fun off => rd s (trkKey t off)
  let lo := f 0x08
  let hi := f 0x0C
  let src := f 0x04
  let npts := rdf s (rk .mppt 0 0x040) 0 7
  !(finF lo) || !(finF hi) || !(ltF zeroF lo) || leF hi lo || !(ltF zeroF (f 0x14)) || !(leF (f 0x14) (f 0x10)) ||
    decide (rdf s (trkKey t 0x1C) 0 16 < 10) || decide (stepLen s t ≤ settleLen s t) ||
    adcMode s (fld src 0 5) ≠ 1 || adcMode s (fld src 8 5) ≠ 1 || (bit (f 0) 0 && (decide (npts < 4 ∨ 64 < npts)))

/-- Write Tt_CTL (R260, R262). -/
def writeTrkCtl (t : Nat) (v : Word) (s : State) : State :=
  let s := if !(bit v 0) then s
    else if sweepOk s t then onTracker t (fun x => { x with sweep := true }) s else raiseMppt 7 s
  let s := if !(bit v 1) then s
    else if trackerRefused s t then raiseMppt 7 s
    else if (tracker s t).st ≠ 0 then s
    else
      let now := s.now
      let hi := rd s (trkKey t 0x0C)
      let dv := rd s (trkKey t 0x10)
      onTracker t (fun x => { st := 1, vref := hi, dv := dv, base := true, stepAt := now, pmeas := x.pmeas, gap := x.gap }) s
  if bit v 2 then
    let s := if (tracker s t).st = 4 then raiseMppt 2 (onSweep (fun y => { y with busy := false }) s) else s
    onTracker t (fun x => { pmeas := x.pmeas, gap := x.gap }) s
  else s

/-- A bus write of Tt_CAP: a negative or non-finite value is ignored (R258). -/
def writeCap (t : Nat) (v : Word) (s : State) : State :=
  if finF v && !(ltF v zeroF) then wr (trkKey t 0x20) v s else s

/-- A value written to port 0x2480 + t takes effect at the drain (R258). -/
def capPort (t : Nat) (v : Word) (s : State) : State := if ltF v zeroF then raiseMppt 7 s else wr (trkKey t 0x20) v s

/-- Write an MPPT register; SWEEP_CFG sets the scheduler's interval from now on. -/
def writeMppt (off : Nat) (v : Word) (s : State) : State :=
  if off = 0x040 then
    let s := plainWrite (rk .mppt 0 off) v s
    let int := fld v 16 16
    let now := s.now
    onSweep (fun y => { y with due := (if int = 0 then none else some (now + int * secs)) }) s
  else if 0x100 ≤ off && off < 0x700 then
    let t := (off - 0x100) / 0x40
    match (off - 0x100) % 0x40 with
    | 0x20 => writeCap t v s
    | 0x30 => writeTrkCtl t v s
    | 0x34 => if bit v 8 then onTracker t (fun x => { x with gap := false }) s else s
    | _ => plainWrite (rk .mppt 0 off) v s
  else plainWrite (rk .mppt 0 off) v s

/-- A guarded write of an MPPT register is accepted: a tracker's only in OFF (R262). -/
def mpptWriteOk (s : State) (off : Nat) : Bool := decide (off < 0x100) || (tracker s ((off - 0x100) / 0x40)).st = 0

/-- Tt_STAT (R265). -/
def trkStat (s : State) (t : Nat) : Word :=
  let x := tracker s t
  let b : Bool → Nat → Nat := fun c v => if c then v else 0
  wNat (x.st + b x.up 8 + b x.clamp 16 + b x.gap 256 + 65536 * x.consec)

/-- A read of an MPPT register that mirrors hidden state (R264). -/
def readMppt (s : State) (off : Nat) : Option Word :=
  let y := s.sweep
  let a := rdf s (rk .mppt 0 0x048) 0 7
  if 0x100 ≤ off && off < 0x700 then
    let t := (off - 0x100) / 0x40
    match (off - 0x100) % 0x40 with
    | 0x34 => some (trkStat s t)
    | 0x38 => some (tracker s t).vref
    | 0x3C => some (tracker s t).pmeas
    | _ => none
  else match off with
    | 0x00C => some ((List.range 24).foldl (fun w t => setBit w t (decide ((tracker s t).st ≠ 0))) 0)
    | 0x044 => some (wNat ((if y.busy then 1 else 0) + 256 * y.trk + 65536 * y.point + 0x1000000 * y.next))
    | 0x04C => some (smGet (smConst 0) y.volts a)
    | 0x050 => some (smGet (smConst nanF) y.pows a)
    | 0x054 => some (saddleP s)
    | _ => none

/-- What a tracker's input ports return (R255). -/
def trkPort (s : State) (t j : Nat) : Word :=
  let x := tracker s t
  match j with
  | 0 => x.vref
  | 1 => x.pmeas
  | 2 => wNat x.st
  | _ => ceiling s t

/-- PD_ENG is switched off (R263). -/
def trackersOff (s : State) : State := { s with trackers := [], sweep := {} }

/-! Meanings -/

/-- TRACKER_ENABLE (R262). -/
def execTrackerEnable (m : Master) (t : Fin 24) (s : State) : Host.Outcome State Fault Refusal :=
  .next (byBus m .mppt 0 (0x130 + 0x40 * t.val) (fun s => writeTrkCtl t.val 2 s) s)

/-- TRACKER_DISABLE (R262). -/
def execTrackerDisable (m : Master) (t : Fin 24) (s : State) : Host.Outcome State Fault Refusal :=
  .next (byBus m .mppt 0 (0x130 + 0x40 * t.val) (fun s => writeTrkCtl t.val 4 s) s)

/-- SWEEP_NOW (R260). -/
def execSweepNow (m : Master) (t : Fin 24) (s : State) : Host.Outcome State Fault Refusal :=
  .next (byBus m .mppt 0 (0x130 + 0x40 * t.val) (fun s => writeTrkCtl t.val 1 s) s)

/-- SWEEP_DUE (R260): the next eligible tracker after NEXT, in ascending order. -/
def execSweepDue (s : State) : Host.Outcome State Fault Refusal :=
  .next (
    match s.sweep.due with
    | none => s
    | some d =>
      if !(live s .eng) then s else
      let s := upto d s
      let s := onSweep (fun y => { y with due := some (d + rdf s (rk .mppt 0 0x040) 16 16 * secs) }) s
      let n := s.sweep.next
      let order := (List.range 24).map fun i => (n + 1 + i) % 24
      match order.find? fun t => (tracker s t).st = 1 && rdb s (trkKey t 0) 0 with
      | none => s
      | some t =>
        if sweepOk s t then onSweep (fun y => { y with next := t }) (onTracker t (fun x => { x with sweep := true }) s)
        else raiseMppt 7 s)

/-- STEP_END (R256): the decision waits for a current window that ended before the step did (R252). -/
def execStepEnd (t : Fin 24) (s : State) : Host.Outcome State Fault Refusal :=
  .next (
    let x := tracker s t.val
    let fin := x.stepAt + stepLen s t.val
    if x.st = 0 || !(live s .eng) then s
    else if !x.late && undelivered s (trkCurr s t.val) fin then onTracker t.val (fun x => { x with late := true }) (upto fin s)
    else stepEnd t.val (upto fin s))

/-- SWP_P_READ (R264). -/
def execSwpPRead (m : Master) (s : State) : Host.Outcome State Fault Refusal :=
  .next (readAt m .mppt 0 0x050 (fun s =>
    let k := rk .mppt 0 0x048
    let a := rdf s k 0 7
    respond (smGet (smConst nanF) s.sweep.pows a) (wrf k 0 7 (if a < 64 then a + 1 else 0) s)) s)

end Sys2Proof.Machine
end

