-- ==== Sys2Proof/Machine/Cluster.lean ====
section
/-! DEFINITION. The application cluster: harts, watchdogs and the halt of a debugger (R516 to R519, R533), the SRAM
scrubber (R521) and the NV store (R522 to R526). -/

namespace Sys2Proof.Machine

/-- WDT_CFG.TIME in steps (R518). -/
def wdtTime (s : State) : Nat := rdf s (pmcKey 0x048) 0 16 * 100 * usec

/-- Restart a hart's watchdog: while the hart is halted it stands at its full time. -/
def wdtRestart (h : Nat) (s : State) : State :=
  let t := wdtTime s
  let now := s.now
  onHart h (fun x =>
    if t = 0 then { x with wdt := none, wdtLeft := none }
    else if x.halted then { x with wdt := none, wdtLeft := some t }
    else { x with wdt := some (now + t), wdtLeft := none }) s

/-- Write WDT_CFG: a new time restarts every watchdog. -/
def writeWdtCfg (v : Word) (s : State) : State :=
  let same := decide (rdf s (pmcKey 0x048) 0 16 = fld v 0 16)
  let s := plainWrite (pmcKey 0x048) v s
  if same then s else forEach (List.range 4) wdtRestart s

/-- Write WDT_KICK: a bit restarts the watchdog of its role position where the hart of that position writes it (R518). -/
def kickWdt (m : Master) (v : Word) (s : State) : State :=
  forEach (setBits v 4) (fun p s => if masterNo m = physHart s p then wdtRestart (physHart s p) s else s) s

/-- Raise a cause of the DBG page (R541). -/
def raiseDbg (k : Nat) (s : State) : State := raise .dbg 0 k s

/-- The last halted hart has resumed: the freeze ends (R4, R156, R533). -/
def endFreeze (s : State) : State :=
  if anyHalted s || !s.holds.frozen then s else
  let now := s.now
  let s := settle s { s with holds := { s.holds with frozen := false, freeze := some now } }
  spoSource 8 false (onPlumb (fun p => { p with frozen := none }) s)

/-- A hart halts: at the first, the outputs freeze at rank 5 (R156, R533). -/
def haltHart (h : Nat) (s : State) : State :=
  if (hart s h).halted then s else
  let first := !(anyHalted s)
  let now := s.now
  let s := onHart h (fun x => { x with halted := true, wdt := none, wdtLeft := x.wdt.map (· - now) }) s
  let s :=
    if !first then s else
    let s := forEach (List.range 96) (fun l s =>
      let v := legLevels s l
      onLeg l (fun g => { g with frozenA := v.1, frozenB := v.2 }) s) s
    onPlumb (fun p => { p with frozen := some now }) { s with holds := { s.holds with frozen := true } }
  raiseDbg 0 (logHap (pageNo .dbg 0) s)

/-- The harts form one halt group: where one halts the others halt with it (R532). Each halt is a HALTED of its own (R541). -/
def haltGroup (h : Nat) (s : State) : State := forEach (h :: List.range 4) haltHart s

/-- What the debugger knows of a hart's registers and the running hart cannot change: the locked PMP entries (R514), with the
address below one that takes it as its lower end. -/
def keepLocked (regs : List (Nat × DWord)) : List (Nat × DWord) :=
  let cfg : Nat → Nat := fun i => ((regs.find? fun e => decide (e.1 = 0x10000 + i)).map fun e => e.2.toNat).getD 0
  let locked : Nat → Bool := fun i => cfg i / 128 % 2 = 1
  regs.filter fun e =>
    (decide (0x10000 ≤ e.1) && locked (e.1 - 0x10000)) ||
      (decide (0x3B0 ≤ e.1 ∧ e.1 < 0x3C0) &&
        (locked (e.1 - 0x3B0) || (locked (e.1 - 0x3B0 + 1) && cfg (e.1 - 0x3B0 + 1) / 8 % 4 = 1)))

/-- A halted hart resumes; the last one raises RESUMED, and the freeze ends (R533, R541). -/
def resumeHart (h : Nat) (s : State) : State :=
  if !(hart s h).halted then s else
  let now := s.now
  let s := onHart h (fun x => { x with halted := false, wdt := x.wdtLeft.map (now + ·), wdtLeft := none, regs := keepLocked x.regs }) s
  if anyHalted s then s else raiseDbg 1 (pmcSettle (endFreeze s))

/-- Every halted hart resumes. -/
def resumeHarts (s : State) : State := forEach (List.range 4) resumeHart s

/-- Harts are reset: each restarts, from the boot ROM, or from the staged image where `staged` says so (R518, R548). -/
def resetHarts (hs : List Nat) (staged : Bool) (s : State) : State :=
  let was := anyHalted s
  let s := forEach hs (fun h s => wdtRestart h (onHart h (fun _ => { staged := staged }) s)) s
  if was && !(anyHalted s) then raiseDbg 1 (pmcSettle (endFreeze s)) else s

/-- ROLE inverts (R517). -/
def invertRole (s : State) : State := wrf (pmcKey 0x044) 0 1 (1 - role s) s

/-! NV store (R522 to R526) -/

/-- Bytes of the NV store window (R522). -/
def nvSize : Nat := 0x2800000
/-- Offset of the software region. -/
def nvSoft : Nat := 0x2550000
/-- The eight bytes of an aligned word: the value queued last, or the word stored (R525). -/
def nvWord (s : State) (a : Nat) : List Byte :=
  match s.nvm.queue.reverse.find? fun e => decide (e.1 = a) with
  | some e => e.2.1
  | none => memBytes s a 8

/-- A word lies in the region software may write (R525). -/
def nvSoftware (a : Nat) : Bool := decide (nvBase + nvSoft ≤ a ∧ a < nvBase + nvSize)

/-- The first queued word has been written (R525). -/
def nvPop (s : State) : State :=
  match s.nvm.queue with
  | [] => s
  | e :: es =>
    let s := upto s.nvm.headEnd s
    let t := s.now + nvWordTime
    nvStore (some e.2.2) e.1 e.2.1 (onNvm (fun n => { n with queue := es, headEnd := t }) s)

/-- Queue bytes of one aligned word; a full queue makes the write wait for its first word (R525). -/
def nvQueue (m : Doer) (a : Nat) (bytes : List Byte) (s : State) : State :=
  let s := if 16 ≤ s.nvm.queue.length then nvPop s else s
  let w := a / 8 * 8
  let o := a % 8
  let old := nvWord s w
  let new := old.take o ++ bytes ++ old.drop (o + bytes.length)
  let now := s.now
  onNvm (fun n => { n with queue := n.queue ++ [(w, new, m)],
                           headEnd := (if n.queue.isEmpty then now + nvWordTime else n.headEnd) }) s

/-- Every queued word is written. -/
def nvFlush : Nat → State → State
  | 0, s => s
  | k + 1, s => if s.nvm.queue.isEmpty then s else nvFlush k (nvPop s)

/-- A grant of the energy gate stands (R507, R536). -/
def nvGrant (s : State) : Bool := s.valley.grantUpd.isSome || s.valley.grantSw.isSome

/-- A supply of the NV store falls: without a grant, queued words are lost and the word being written is cut off (R526). -/
def nvLoss (s : State) : State :=
  if nvGrant s then s else
  match s.nvm.queue with
  | [] => s
  | e :: _ => onNvm (fun n => { n with queue := [], headEnd := 0 }) (nvCutWord e.1 e.2.1 s)

/-- Word writes that began at `t0`, one each 300 ns, are cut off at `t` (R526): what was written stays. Where the supply
stands (`sure`), the word under way is still written. -/
def cutWrites (m : Doer) (plan : List (Nat × List Byte)) (t0 t : Nat) (sure : Bool) (s : State) : State :=
  let n := (t - t0) / nvWordTime
  let s := forEach (plan.take n) (fun e s => nvStore (some m) e.1 e.2 s) s
  match plan.drop n with
  | [] => s
  | e :: _ => if sure then nvStore (some m) e.1 e.2 s else nvCutWord e.1 e.2 s

/-- NVM.STAT (R536): a word is written by the queue, by the update function or by the monument record. -/
def nvStat (s : State) : Word :=
  let n := s.nvm.queue.length
  let busy := n ≠ 0 || s.upd.st = 1 || s.upd.slotEnd.isSome || s.monument.busy.isSome
  wNat ((if busy then 1 else 0) + (if nvGrant s then 2 else 0) + 256 * n)

/-- A bus write to the NV store window (R525), for a hart where it serves one. -/
def nvBusWrite (m : Master) (req : Option Nat) (a : Nat) (bytes : List Byte) (delta : Bool) (s : State) : State :=
  let n := bytes.length
  if !(n = 1 || n = 2 || n = 4 || n = 8) || a % n ≠ 0 then busError s
  else if !(fabricUp s && domOn s .nvm) then busCycle s
  else if delta || (nvSoftware a && rdb s (rk .nvm 0 0x040) 0) then busCycle (nvQueue (masterNo m, req) a bytes s)
  else busError (raiseNvm 2 s)

/-! Meanings -/

/-- WDT_KICK (R518). -/
def execWdtKick (m : Master) (v : BitVec 4) (s : State) : Host.Outcome State Fault Refusal :=
  .next (byBus m .pmc 0 0x04C (fun s => kickWdt m (wNat v.toNat) s) s)

/-- MTIMECMP_MATCH (R516). -/
def execMtimecmpMatch (h : Fin 4) (s : State) : Host.Outcome State Fault Refusal :=
  .next (
    let x := hart s h
    if !(fabricUp s) || x.mtip || x.mtimecmp = 0xFFFFFFFFFFFFFFFF then s
    else onHart h (fun x => { x with mtip := true }) (upto (s.clk.tick0 + x.mtimecmp * tickLen) s))

/-- SCRUB (R521): the scrubber reads the next word; `errs` bits of it are wrong, two standing for any uncorrectable
error. -/
def execScrub (errs : Fin 3) (s : State) : Host.Outcome State Fault Refusal :=
  .next (
    let int := rdf s (pmcKey 0x050) 0 8
    if !(fabricUp s) || int = 0 then s else
    let at' := s.cluster.scrubAt
    let s := upto at' s
    let o := 8 * s.cluster.scrub
    let next := nextDue at' (int * secs / 524288) s.now
    let s := { s with cluster := { s.cluster with scrub := (s.cluster.scrub + 1) % 524288, scrubAt := next } }
    if errs = 2 || s.cluster.bad.contains (sramBase + o) then
      sramCheck (sramBase + o) 8 { s with cluster := { s.cluster with bad := (sramBase + o) :: s.cluster.bad.filter (· ≠ sramBase + o) } }
    else if errs = 1 then pmcCount 14 none (some (sramBase + o)) (raisePmc 4 (incHeld (pmcKey 0x054) 0 32 s))
    else s)

/-- NV_WORD_WRITTEN (R525): the hold-up path goes on writing while a reset lasts (R526). -/
def execNvWordWritten (s : State) : Host.Outcome State Fault Refusal :=
  .next (if s.nvm.queue.isEmpty || !(domOn s .nvm || s.valley.holdup) then s else nvPop s)

/-- HART_HALT (R533): the debug module is active. -/
def execHartHalt (h : Fin 4) (s : State) : Host.Outcome State Fault Refusal :=
  .next (if fabricUp s && domOn s .dbg && s.dbg.active then haltGroup h s else s)

/-- HART_RESUME (R533). -/
def execHartResume (s : State) : Host.Outcome State Fault Refusal :=
  .next (if fabricUp s then resumeHarts s else s)

end Sys2Proof.Machine
end

