-- ==== Sys2Proof/Machine/Datum.lean ====
section
/-! DEFINITION. Datum (R353 to R369): exchanges, the source, the servo, the states, and the commands of the DATUM page.
Offsets and delays are in ps/2^17: a stamp's last bit, 62.5/65536 ps, is 125 of these. -/

namespace Sys2Proof.Machine

/-- Key of a DATUM register (R378). -/
def datKey (off : Nat) : Nat := rk .datum 0 off
/-- Change Datum. -/
def onDatum (f : Datum → Datum) (s : State) : State := { s with datum := f s.datum }
/-- Raise a cause of the DATUM page. -/
def raiseDat (k : Nat) (s : State) : State := raise .datum 0 k s
/-- 1 ps in the units of offsets. -/
def onePs : Int := 131072

/-- A side: 0 A, 1 B. -/
def side (s : State) (r : Nat) : Side := if r = 0 then s.datum.sideA else s.datum.sideB
/-- Change a side. -/
def onSide (r : Nat) (f : Side → Side) (s : State) : State :=
  if r = 0 then onDatum (fun d => { d with sideA := f d.sideA }) s else onDatum (fun d => { d with sideB := f d.sideB }) s

/-- EXCH.INT in steps, 10 to 10,000 us (R379). -/
def exchInt (s : State) : Nat := max 10 (min 10000 (rdf s (datKey 0x044) 0 16)) * usec
/-- EXCH.LOSS, 2 to 255. -/
def exchLoss (s : State) : Nat := max 2 (rdf s (datKey 0x044) 24 8)
/-- ALIGN_TOL in units of offsets. -/
def alignTol (s : State) : Int := rdf s (datKey 0x060) 0 16 * onePs
/-- STEP_TH in units of offsets: 62.5 ps each. -/
def stepTh (s : State) : Int := (rd s (datKey 0x064)).toNat * 8192000

/-- CFG.RANK. -/
def nodeRank (s : State) : Nat := rdf s (datKey 0x040) 8 8
/-- The lower pair (RANK, address) wins (R356). -/
def betterBm (a b : Nat × Nat) : Bool := decide (a.1 < b.1 ∨ (a.1 = b.1 ∧ a.2 < b.2))

/-- Datum's time is about to change its course or its validity: how it ran until now is kept for frames under way at a MAC, for
longer than the longest frame takes at 10 Mb/s (R594). -/
def keepEra (s : State) : State :=
  if !(domOn s .eth) then s else
  let d := s.datum
  let e : DatumEra := { fin := s.now, base := d.base, since := d.since, rate := d.rate, valid := d.valid }
  let es := (s.gio.eras ++ [e]).filter fun x => decide (s.now < x.fin + 10 * msec)
  { s with gio := { s.gio with eras := es } }

/-- Run at a rate, in parts in 10^15, from this instant on. -/
def setRate (r : Int) (s : State) : State :=
  let s := keepEra s
  let b := stampAt s s.now
  let now := s.now
  onDatum (fun d => { d with base := b, since := now, rate := r }) s

/-- Step Datum time to a value in 62.5/65536 ps. -/
def setStamp (b : Nat) (s : State) : State :=
  let s := keepEra s
  let now := s.now
  onDatum (fun d => { d with base := b, since := now }) s

/-- BM_TRIM in parts in 10^15, limited to 100 ppm (R357, R378). -/
def bmRate (s : State) : Int := clampInt (-(10 ^ 11)) (10 ^ 11) (rdsf s (datKey 0x070) 0 32 * 1000)

/-! Validity and states -/

/-- Datum becomes valid or ceases to be as its state and the root PLL say (R357, R366). -/
def datumRefresh (s : State) : State :=
  let v := s.datum.st = .track || (s.datum.st = .benchmark && s.clk.locked)
  if v = s.datum.valid then s else
  let s := keepEra s
  if v then
    let s := onDatum (fun d => { d with valid := true }) (baseTurn true s)
    islRefresh (lockFollowsDatum (raiseDat 0 s))
  else
    let s := onDatum (fun d => { d with valid := false }) (baseTurn false s)
    islRefresh (gensLoseDatum (lockFollowsDatum (raiseDat 1 s)))

/-- Enter a state: one trouble-log entry, VALID or LOST where validity changes (R367); in OFF, CLOSURE and RING_LAT read 0
(R369). -/
def datumTo (st : DatumSt) (s : State) : State :=
  if s.datum.st = st then s else
  let s := logHap (pageNo .datum 0) s
  if st = .off then
    let was := s.datum.valid
    let s := keepEra s
    let s := if was then baseTurn false s else s
    let s := { s with datum := { nextEx := s.datum.nextEx, follow := s.datum.follow, active := s.datum.active } }
    let s := wr (datKey 0x0A4) 0 (wr (datKey 0x0AC) 0 s)
    if was then islRefresh (gensLoseDatum (lockFollowsDatum (raiseDat 1 s))) else s
  else datumRefresh (onDatum (fun d => { d with st := st, good := 0, far := false, lateCyc := false }) s)

/-- The Benchmark followed, or held, changes (R356, R380). -/
def setBm (b : Option (Nat × Nat)) (s : State) : State :=
  if s.datum.bm = b then s else
  let was := s.datum.bm
  let s := onDatum (fun d => { d with bm := b }) s
  if was.isNone || b.isNone then s else logHap (pageNo .datum 0) (raiseDat 4 s)

/-- A side's latest foresight is recent and advertises a valid Benchmark: its Benchmark. -/
def heardBm (s : State) (r : Nat) : Option (Nat × Nat) :=
  match (side s r).fs with
  | some f => if f.valid && decide (s.now ≤ (side s r).fsAt + exchLoss s * exchInt s) then some (f.bmRank, f.bmAddr) else none
  | none => none

/-- HOPS that a side offers. -/
def sideHops (s : State) (r : Nat) : Nat := ((side s r).fs.map (·.hops)).getD 0xFFFF
/-- The chains meet at a side: valid foresights come from a neighbour whose HOPS is not this node's plus 1 (R369). -/
def chainsMeet (s : State) (r : Nat) : Bool :=
  s.datum.st ≠ .benchmark && s.datum.source ≠ 0 && s.datum.source ≠ r + 1 && (heardBm s r).isSome &&
  decide (sideHops s r ≠ s.datum.hops + 1)

/-- Elsewhere CLOSURE and RING_LAT read 0 (R369). -/
def clearClosure (s : State) : State :=
  if chainsMeet s 0 || chainsMeet s 1 then s
  else onDatum (fun d => { d with asymEx := false }) (wr (datKey 0x0A4) 0 (wr (datKey 0x0AC) 0 s))

/-- The node becomes the Benchmark and keeps its time and its cycle record (R354, R356). -/
def becomeBenchmark (s : State) : State :=
  let len := (rd s (datKey 0x068)).toNat
  let me := (nodeRank s, nodeAddr s)
  let s := setRate (bmRate s) s
  let first := s.datum.cyc.isNone
  let s := onDatum (fun d => { d with source := 0, hops := 0, path := 0, bm := some me,
                                      cyc := some (d.cyc.getD { dbase := 0, cbase := 0, len := len }) }) s
  let s := datumTo .benchmark s
  logHap (pageNo .datum 0) (raiseDat 4 (if first then testWaiting (clearClosure s) else clearClosure s))

/-! The source (R364) -/

/-- The best Benchmark heard on any side. -/
def bestBm (s : State) : Option (Nat × Nat) :=
  match heardBm s 0, heardBm s 1 with
  | some a, some b => if betterBm b a then some b else some a
  | some a, none => some a
  | none, b => b

/-- A side is a candidate source. -/
def isCandidate (s : State) (r : Nat) : Bool := (heardBm s r).isSome && decide (heardBm s r = bestBm s)
/-- d_in of a side in ns. -/
def dinNs (s : State) (r : Nat) : Nat := ((side s r).din / (1000 * onePs)).toNat

/-- The side a node follows: 0 none, 1 A, 2 B. -/
def pickSource (s : State) : Nat :=
  let a := isCandidate s 0
  let b := isCandidate s 1
  let ha := sideHops s 0
  let hb := sideHops s 1
  match s.datum.source with
  | 1 => if a then if b && decide (hb + 2 ≤ ha) then 2 else 1 else if b then 2 else 0
  | 2 => if b then if a && decide (ha + 2 ≤ hb) then 1 else 2 else if a then 1 else 0
  | _ => if a && b then if hb < ha then 2 else 1 else if a then 1 else if b then 2 else 0

/-- Take the source and what it gives: HOPS, PATH and the Benchmark followed; CLOSURE and RING_LAT go back to 0 where the chains
no longer meet (R364, R369). -/
def takeSource (s : State) : State :=
  if s.datum.st = .benchmark then s else
  let p := pickSource s
  let s := if p = s.datum.source then s else
    let s := onDatum (fun d => { d with source := p, fresh := true, good := 0 }) s
    raiseDat 3 s
  if p = 0 then clearClosure (onDatum (fun d => { d with hops := 0xFFFF }) s)
  else
    let hops := sideHops s (p - 1)
    let path := ((side s (p - 1)).fs.map (·.path)).getD 0
    let din := dinNs s (p - 1)
    clearClosure <| setBm (heardBm s (p - 1)) (onDatum (fun d => { d with hops := hops + 1, path := path + din + 96 }) s)

/-! Changes of the cycle length (R355) -/

/-- A record whose pending change's cycle has started by a Datum time, with the change made: DBASE is the boundary at which
that cycle started. -/
def changeMade (c : CycRec) (t : Nat) : Option CycRec :=
  let m := (t - c.dbase) / max 1 c.len
  let back := (c.cbase + m + 2 ^ 32 - c.nextAt) % 2 ^ 32
  if c.nextLen = 0 || t < c.dbase || decide (2 ^ 31 ≤ back) then none
  else some { dbase := (c.dbase + (m - back) * c.len) % 2 ^ 64, cbase := c.nextAt, len := c.nextLen }

/-- At a Datum time, reached or stepped to: the pending change takes effect where its cycle has started. -/
def makeChange (t : Nat) (s : State) : State :=
  match s.datum.cyc.bind (changeMade · t) with
  | some c => islRefresh (forEach (List.range 24) checkLock (raiseDat 8 (onDatum (fun d => { d with cyc := some c }) s)))
  | none => s

/-! The servo (R365) -/

/-- `gain * o_f / int` in parts in 10^15; a gain that is no number gives a free value. -/
def gainTerm (k : Nat) (s : State) : Int × State :=
  let g := f32 (rd s k)
  let int := (exchInt s / usec : Nat)
  if fFinite g then
    (fFloor (fDiv (fMul g (fInt (s.datum.offset * 1000000000) (-17))) (fInt int 0)), s)
  else
    let (w, s) := draw s
    (signed 32 w.toNat * 1000000, s)

/-- An accepted offset from the source; the first from a new side restarts the filter (R364). -/
def servo (o : Int) (s : State) : State :=
  if s.datum.st = .benchmark || s.datum.st = .off then s else
  let loose := s.datum.st = .acquire || s.datum.st = .holdover
  if loose && decide (o < - stepTh s) then
    let b := (stampAt s s.now : Int) + (-o) / 125
    let s := onDatum (fun d => { d with offset := 0, fresh := false, good := d.good + 1 }) (setStamp b.toNat s)
    makeChange (datumNow s) (raiseDat 2 s)
  else if loose && decide (stepTh s < o) then
    setRate (-(5 * 10 ^ 14)) (onDatum (fun d => { d with offset := (if d.fresh then o else d.offset), fresh := false, good := 0 }) s)
  else
    let tol := alignTol s
    let filt := min 8 (rdf s (datKey 0x044) 16 4)
    let far := s.datum.fresh && decide (tol < o.natAbs)
    let s := onDatum (fun d =>
      { d with offset := (if d.fresh then o else d.offset + (o - d.offset) / (2 ^ filt : Int)), fresh := false, far := d.far || far }) s
    let (ti, s) := gainTerm (datKey 0x04C) s
    let (tp, s) := gainTerm (datKey 0x048) s
    let y := clampInt (-(10 ^ 11)) (10 ^ 11) (s.datum.y - ti)
    let near := decide ((s.datum.offset.natAbs : Int) ≤ tol)
    let s := onDatum (fun d => { d with y := y, good := (if near then d.good + 1 else 0) }) s
    setRate (clampInt (-(2 * 10 ^ 11)) (2 * 10 ^ 11) (y - tp)) s

/-- The neighbour on a side that is not the source, where the chains meet: CLOSURE and RING_LAT (R369). -/
def closure (r : Nat) (o : Int) (s : State) : State :=
  match (side s r).fs with
  | none => s
  | some f =>
    if !(chainsMeet s r) then s else
      let c := o / onePs
      let lat := s.datum.path + f.path + dinNs s r + 96
      let s := wr (datKey 0x0A4) (wInt c) (wr (datKey 0x0AC) (wNat lat) s)
      let beyond := decide (rdf s (datKey 0x060) 16 16 < c.natAbs)
      let was := s.datum.asymEx
      let s := onDatum (fun d => { d with asymEx := beyond }) s
      if beyond && !was then logHap (pageNo .datum 0) (raiseDat 5 s) else s

/-- An accepted offset of a side. -/
def offsetOf (r : Nat) (o : Int) (s : State) : State :=
  if s.datum.source = r + 1 then servo o s else closure r o s

/-! DATUM cells (R360) -/

/-- A stamp of whole units and fraction at an offset of a payload. -/
def stampField (p : List Byte) (off : Nat) : Nat := beAt p off 10
/-- The bytes of a stamp. -/
def stampBytes (t : Nat) : List Byte := beBytes 10 (t % 2 ^ 80)

/-- The foresight that a payload spells. -/
def parseForesight (p : List Byte) : DatumCell :=
  let rec' := cellByte p 0 % 16
  let fl := cellByte p 1
  let len := beAt p 36 4
  { valid := fl.testBit 0, bench := fl.testBit 1, hold := fl.testBit 2, spur := fl.testBit 3,
    bmAddr := cellByte p 2, bmRank := cellByte p 3, hops := beAt p 4 2, xseq := beAt p 6 2, ttx := stampField p 8,
    path := beAt p 20 4,
    cyc := if rec' = 0 ∧ len ≠ 0 then
        some { dbase := beAt p 24 8, cbase := beAt p 32 4, len := len, nextLen := beAt p 40 4, nextAt := beAt p 44 4 }
      else none,
    syn := if rec' = 1 then
        some { d0 := beAt p 24 8, theta := wNat (beAt p 32 4), freq := wNat (beAt p 36 4), addr := cellByte p 43,
               port := cellByte p 42 % 4, present := decide (cellByte p 42 / 128 = 1), sseq := beAt p 40 2 }
      else none }

/-- From one stamp to another, in 62.5/65536 ps, modulo 2^64 units (R353, R359). -/
def stampSpan (a b : Nat) : Int := signed 80 (b + 2 ^ 80 - a % 2 ^ 80)

/-- The common bytes of a cell this node sends. -/
def datumHead (s : State) (kind xseq ttx : Nat) : List Byte :=
  let d := s.datum
  let b : Bool → Nat → Nat := fun c v => if c then v else 0
  let fl := b d.valid 1 + b (d.st = .benchmark) 2 + b (d.st = .holdover) 4 + b (isSpur s) 8
  let bm := d.bm.getD (0, 0)
  [BitVec.ofNat 8 kind, BitVec.ofNat 8 fl, BitVec.ofNat 8 bm.2, BitVec.ofNat 8 bm.1] ++ beBytes 2 d.hops ++ beBytes 2 xseq ++
    stampBytes ttx

/-- The payload of a foresight. -/
def foresightBytes (s : State) (xseq ttx : Nat) : List Byte :=
  let d := s.datum
  let c := d.cyc.getD { len := 0 }
  let cyc := beBytes 8 c.dbase ++ beBytes 4 c.cbase ++ beBytes 4 c.len ++ beBytes 4 c.nextLen ++ beBytes 4 c.nextAt
  let tail := match d.recSyn, d.syn with
    | true, some y =>
      beBytes 8 y.d0 ++ beBytes 4 y.theta.toNat ++ beBytes 4 y.freq.toNat ++ beBytes 2 y.sseq ++
        [BitVec.ofNat 8 (y.port + (if y.present then 128 else 0)), BitVec.ofNat 8 y.addr, 0#8, 0#8, 0#8, 0#8]
    | _, _ => cyc
  let kind := if d.recSyn && d.syn.isSome then 0x11 else 0x10
  datumHead s kind xseq ttx ++ [0#8, 0#8] ++ beBytes 4 d.path ++ tail

/-- The transmitter that leads to a side (R323, R358); a gateway uses the transmitter of the same pair (R347). -/
def sideTx (s : State) (r : Nat) : Nat := if isSpur s then r else 1 - r

/-- Send a DATUM cell of 48 bytes to a side: it goes before every local cell (R332, R358). The result is the instant of its
SOC. -/
def sendDatum (r : Nat) (mk : Nat → List Byte) (s : State) : Nat × State :=
  let p := sideTx s r
  let start := max s.now (link s p).freeAt
  let t := stampAt s start
  let cell : CellSpec := { type := 8, prio := 3, dst := 0xFF, payload := padTo 48 (mk t), ttl := some 0 }
  let c := frameCell s p false cell
  (start, incMod (ringKey p 0x064) 0 32 (onLink p (fun l => { l with freeAt := start + cellTime, sent := c, sentBad := false }) s))

/-- Send a foresight to a side that is joined and whose link is up (R358); the last 16 are kept (R362). -/
def sendForesight (r : Nat) (s : State) : State :=
  if !(link s r).joined || (link s r).link ≠ 1 then s else
  let x := (side s r).xseq
  let (at', s) := sendDatum r (foresightBytes s x) s
  let t := stampAt s at'
  onSide r (fun d => { d with xseq := (d.xseq + 1) % 65536, answered := false,
                              sent := (d.sent ++ [(x, t, at', d.breaks)]).drop (d.sent.length + 1 - 16) }) s

/-- An interval's end on a side: foresights without an answer make the side one-way (R363). -/
def countAnswers (r : Nat) (s : State) : State :=
  let d := side s r
  if d.sent.isEmpty then s else
  let n := if d.answered then 0 else d.unans + 1
  let heard := d.fs.isSome && decide (s.now ≤ d.fsAt + exchLoss s * exchInt s)
  let turn := heard && !d.oneway && decide (exchLoss s ≤ n)
  let s := onSide r (fun d => { d with unans := n, oneway := d.oneway || turn }) s
  if turn then raiseDat 6 s else s

/-- The state conditions, in the order of R367's table. -/
def datumTable (s : State) : State :=
  let d := s.datum
  let me := (nodeRank s, nodeAddr s)
  let cand := d.source ≠ 0
  let tol := alignTol s
  match d.st with
  | .off => s
  | .benchmark =>
    if (bestBm s).any fun b => betterBm b me then
      let s := logHap (pageNo .datum 0) (raiseDat 4 (datumTo .acquire s))
      takeSource (onDatum (fun d => { d with source := 0, bm := none, y := d.rate }) s)
    else s
  | .acquire | .holdover => if cand && decide (8 ≤ d.good) then datumTo .track s else s
  | .track =>
    if nodeRank s ≠ 0 && d.bm.any (fun b => betterBm me b) then becomeBenchmark s
    else if decide (4 * tol < d.offset.natAbs) || d.lateCyc then datumTo .acquire s
    else if exchLoss s ≤ d.lost || !s.clk.locked then setRate s.datum.y (datumTo .holdover s)
    else if d.far then datumTo .acquire s
    else s

/-- EXCHANGE_INTERVAL (R367): answers are counted, the source is chosen, the state conditions are tested and foresights
leave. -/
def exchange (s : State) : State :=
  let s := countAnswers 1 (countAnswers 0 s)
  let s := takeSource s
  let none' := s.datum.source = 0
  let s := onDatum (fun d => { d with lost := (if none' then d.lost + 1 else 0) }) s
  let s := clearClosure (datumTable s)
  let s := sendForesight 1 (sendForesight 0 s)
  onDatum (fun d => { d with recSyn := !d.recSyn }) s

/-- A record heard from the source tells of the same change of length as this node's own record: sent before the change and
heard after it, or the other way round. -/
def sameChange (o c : CycRec) : Bool :=
  (c.nextLen ≠ 0 && o.len = c.nextLen && o.cbase = c.nextAt) || (o.nextLen ≠ 0 && c.len = o.nextLen && c.cbase = o.nextAt)

/-- A cycle record heard from the source (R355, R364): a change whose cycle has started has been made in the record taken. -/
def adoptCycle (c : CycRec) (s : State) : State :=
  if s.datum.cyc.any (sameChange · c) then s else
  let made := changeMade c (datumNow s)
  let new := made.getD c
  let moved := s.datum.cyc.any fun o => decide (o.len ≠ new.len)
  let first := s.datum.cyc.isNone
  let s := onDatum (fun d => { d with cyc := some new, lateCyc := d.lateCyc || (made.isSome || moved) }) s
  let s := if first then testWaiting s else s
  if moved then islRefresh (forEach (List.range 24) checkLock s) else s

/-- A synthesis record heard: the newest of the winning publisher is relayed; a publisher yields to a lower address
(R364, R374). -/
def hearSyn (y : SynRec) (s : State) : State :=
  let newer := match s.datum.syn with
    | none => true
    | some o => decide (y.addr < o.addr) || (y.addr = o.addr && decide ((y.sseq + 65536 - o.sseq) % 65536 < 32768))
  let s := if newer then onDatum (fun d => { d with syn := some y }) s else s
  if rdb s (datKey 0x0C0) 0 && !s.datum.yield && decide (y.addr < nodeAddr s) then
    raiseDat 9 (onDatum (fun d => { d with yield := true }) s)
  else s

/-- The first DATUM cell of a side that waits, of a kind. -/
def takeInbox (r kind : Nat) (s : State) : Option DatumIn × State :=
  let f : DatumIn → Bool := fun d => d.side = r && decide (cellByte d.bytes 0 / 16 = kind)
  (s.rings.inbox.find? f, { s with rings := { s.rings with inbox := s.rings.inbox.eraseP f } })

/-- FORESIGHT_RECEIVED (R355, R358, R363): it is answered to the same side. -/
def foresight (r : Nat) (d : DatumIn) (s : State) : State :=
  if d.bad || s.datum.st = .off then s else
  let f := parseForesight d.bytes
  let now := s.now
  let spur := (side s r).fs.any (·.spur)
  let s := onSide r (fun x => { x with fs := some f, fsAt := d.when' }) s
  let s := if f.valid then onDatum (fun x => { x with bmAt := now }) s else s
  let oneway := f.spur || isSpur s || ((side s r).oneway && (!spur || decide (exchLoss s ≤ (side s r).unans)))
  let turn := oneway && !(side s r).oneway
  let s := onSide r (fun x => { x with oneway := oneway }) s
  let s := if turn then raiseDat 6 s else s
  let s := takeSource s
  let s := match f.cyc with
    | some c => if s.datum.source = r + 1 then adoptCycle c s else s
    | none => s
  let s := match f.syn with
    | some y => hearSyn y s
    | none => s
  let back : Nat → List Byte := fun t3 => datumHead s 0x20 f.xseq t3 ++ stampBytes f.ttx ++ stampBytes d.stamp
  let s := (sendDatum r back s).2
  if (side s r).oneway then
    let decl := (rd s (datKey (0x058 + 4 * r))).toNat
    offsetOf r (stampSpan f.ttx d.stamp * 125 - decl * onePs) s
  else s

/-- A rejected exchange (R362). -/
def rejectEx (s : State) : State := raiseDat 7 (incHeld (datKey 0x0B4) 16 16 s)

/-- BACKSIGHT_RECEIVED (R361, R362). -/
def backsight (r : Nat) (d : DatumIn) (s : State) : State :=
  if s.datum.st = .off then s else
  let x := side s r
  let seq := beAt d.bytes 6 2
  match x.sent.find? fun e => e.1 = seq with
  | none => rejectEx s
  | some (_, t1, at', brk) =>
    let t3 := stampField d.bytes 8
    let t2 := stampField d.bytes 28
    let rt := (stampSpan t1 d.stamp - stampSpan t2 t3) * 125
    let far := decide (8 ≤ x.acc ∧ 100000 * onePs < ((rt - x.rtt).natAbs : Int))
    if d.bad || decide (at' + 4 * msec < d.soc) || brk ≠ d.breaks || decide (rt ≤ 0) || far then rejectEx s
    else
      let asym := rdsf s (datKey (0x050 + 4 * r)) 0 32 * onePs
      let din := (rt + asym) / 2
      let o := stampSpan t3 d.stamp * 125 - din
      let filt := min 8 (rdf s (datKey 0x044) 16 4)
      let spur := isSpur s || x.fs.any (·.spur)
      let s := onSide r (fun x => { x with answered := true, unans := 0, oneway := spur, acc := min 8 (x.acc + 1), din := din,
                                           rtt := (if x.acc = 0 then rt else x.rtt + (rt - x.rtt) / (2 ^ filt : Int)) }) s
      let s := wr (datKey (0x09C + 4 * r)) (wInt (din / onePs)) (incMod (datKey 0x0B4) 0 16 s)
      offsetOf r o s

/-! Datum cycles (R354) -/

/-- The number of the cycle at this instant (R354). -/
def cycleNow (s : State) : Nat :=
  match s.datum.cyc with
  | none => 0
  | some c => (c.cbase + (datumNow s - c.dbase) / max 1 c.len) % 2 ^ 32

/-- A cycle starts: a pending length change takes effect (R355), and so do the windows written (R370). -/
def startCycle (t number : Nat) (s : State) : State :=
  let s := onDatum (fun d => { d with cycle := number }) s
  let wins := (List.range 16).filterMap fun i =>
    let k := datKey (0x100 + 4 * i)
    if rd s k = 0 then none else some (k, rd s k)
  let s := onDatum (fun d => { d with wins := wins }) s
  makeChange t s

/-! The page -/

/-- Both sides of a spur gateway are one-way while Datum runs (R363). -/
def spurSides (s : State) : State :=
  if !(isSpur s) || s.datum.st = .off || (s.datum.sideA.oneway && s.datum.sideB.oneway) then s
  else raiseDat 6 (forEach [0, 1] (fun r s => onSide r (fun d => { d with oneway := true }) s) s)

/-- Enable Datum, or return it to OFF (R353, R367). -/
def enableDatum (on : Bool) (s : State) : State :=
  if on then
    if s.datum.st ≠ .off then s else
    let now := s.now
    let due := now + exchInt s
    let s := datumTo .acquire s
    spurSides (onDatum (fun d => { d with base := 0, since := now, rate := 0, bmAt := now, nextEx := due }) s)
  else datumTo .off s

/-- A write of the DATUM page is accepted (R378, R379): some registers and fields only while EN is 0. -/
def datumWriteOk (s : State) (off : Nat) (v : Word) : Bool :=
  let en := rdb s (datKey 0x040) 0
  match off with
  | 0x040 => !en || decide (fld (v ^^^ rd s (datKey 0x040)) 8 24 = 0)
  | 0x044 | 0x048 | 0x04C | 0x060 | 0x064 => !en
  | _ => true

/-- Write DATUM.CTL (R355, R357, R367). -/
def writeDatumCtl (v : Word) (s : State) : State :=
  let bench := s.datum.st = .benchmark
  let s := if !bit v 0 then s else
    let len := (rd s (datKey 0x068)).toNat
    let at' := (rd s (datKey 0x06C)).toNat
    match s.datum.cyc with
    | some c =>
      if bench && decide (160000 ≤ len ∧ len ≤ 16000000) && (untilCycle s at').any (fun d => decide (1600000000 ≤ d)) &&
          c.nextLen = 0 then
        onDatum (fun d => { d with cyc := some { c with nextLen := len, nextAt := at' } }) s
      else raiseDat 10 s
    | none => raiseDat 10 s
  let s := if !bit v 1 then s else
    let t := (rd s (datKey 0x074)).toNat + (rd s (datKey 0x078)).toNat * 2 ^ 32
    if bench && decide (datumNow s ≤ t) then makeChange t (raiseDat 2 (setStamp (t * 65536) s)) else raiseDat 10 s
  if bit v 2 && s.datum.st = .track then datumTo .acquire s else s

/-- Write a DATUM register. -/
def writeDatum (off : Nat) (v : Word) (s : State) : State :=
  match off with
  | 0x040 => enableDatum (bit v 0) (plainWrite (datKey off) v s)
  | 0x070 =>
    let s := plainWrite (datKey off) v s
    if s.datum.st = .benchmark then setRate (bmRate s) s else s
  | 0x07C => writeDatumCtl v s
  | 0x0C0 => onDatum (fun d => { d with yield := false }) (plainWrite (datKey off) v s)
  | 0x0D0 => if fld v 0 2 = 3 then s else plainWrite (datKey off) v s
  | _ => plainWrite (datKey off) v s

/-- STAT (R379). -/
def datumStat (s : State) : Word :=
  let d := s.datum
  let st := match d.st with | .off => 0 | .acquire => 1 | .track => 2 | .holdover => 3 | .benchmark => 4
  let b : Bool → Nat → Nat := fun c v => if c then v else 0
  wNat (st + b d.valid 8 + 16 * d.source + b d.sideA.oneway 64 + b d.sideB.oneway 128 +
    b (d.cyc.any fun c => c.nextLen ≠ 0) 256 + 65536 * d.hops)

/-- A read of a DATUM register that mirrors hidden state (R378, R379). -/
def readDatum (s : State) (off : Nat) : Option Word :=
  let d := s.datum
  match off with
  | 0x00C => some (datumStat s &&& 0xFF)
  | 0x080 => some (datumStat s)
  | 0x084 => some (wNat (datumNow s))
  | 0x08C => some (wNat (cycleNow s))
  | 0x090 => some (wNat (cyclePos s s.now).1)
  | 0x094 => some (wInt (d.offset / onePs))
  | 0x098 => some (toF32 (fDiv (fInt d.rate 0) (fInt 1000000000 0)))
  | 0x0A8 => some (wNat d.path)
  | 0x0B0 => some (match d.bm with | some b => wNat (b.2 + 256 * b.1) | none => 0)
  | 0x0C4 =>
    some (match d.syn with
      | some y =>
        let age := (datumNow s - y.d0) / 16000
        wNat (y.addr + 256 * y.port + (if y.present then 1024 else 0) + (if d.yield then 2048 else 0) +
          4096 * fld d.active 0 4 + 65536 * min 65535 age)
      | none => wNat ((if d.yield then 2048 else 0) + 4096 * fld d.active 0 4))
  | _ => none

/-- CYC_CHG (R355). -/
def execCycChg (m : Master) (s : State) : Host.Outcome State Fault Refusal :=
  .next (byBus m .datum 0 0x07C (fun s => writeDatumCtl 1 s) s)

/-- SET_TIME (R357). -/
def execSetTime (m : Master) (s : State) : Host.Outcome State Fault Refusal :=
  .next (byBus m .datum 0 0x07C (fun s => writeDatumCtl 2 s) s)

/-- RESYNC (R367). -/
def execResync (m : Master) (s : State) : Host.Outcome State Fault Refusal :=
  .next (byBus m .datum 0 0x07C (fun s => writeDatumCtl 4 s) s)

/-- DATUM_ENABLE (R367): a write of CFG. -/
def execDatumEnable (m : Master) (v : Word) (s : State) : Host.Outcome State Fault Refusal :=
  .next (byBus m .datum 0 0x040 (fun s => rwlPath m (datKey 0x040) (datumWriteOk s 0x040 v) (writeDatum 0x040 v) s) s)

/-- TIME_LO_READ (R378): TIME_HI is captured. -/
def execTimeLoRead (m : Master) (s : State) : Host.Outcome State Fault Refusal :=
  .next (readAt m .datum 0 0x084 (fun s =>
    let t := datumNow s
    respond (wNat t) (wr (datKey 0x088) (wNat (t / 2 ^ 32)) s)) s)

/-- ELECTION_TIMEOUT (R356): ELECT_TMO ms, 0 taken as 1, without an advertised valid Benchmark. -/
def execElectionTimeout (s : State) : Host.Outcome State Fault Refusal :=
  .next (
    if !(live s .ring) || s.datum.st = .off || s.datum.st = .benchmark || nodeRank s = 0 then s
    else becomeBenchmark (upto (s.datum.bmAt + max 1 (rdf s (datKey 0x040) 16 16) * msec) s))

/-- EXCHANGE_INTERVAL (R367). -/
def execExchangeInterval (s : State) : Host.Outcome State Fault Refusal :=
  .next (
    if !(live s .ring) || s.datum.st = .off then s else
    let at' := s.datum.nextEx
    let s := upto at' s
    let due := nextDue at' (exchInt s) s.now
    exchange (onDatum (fun d => { d with nextEx := due }) s))

/-- FORESIGHT_RECEIVED (R358): the oldest foresight of the side that waits. -/
def execForesightReceived (r : Fin 2) (s : State) : Host.Outcome State Fault Refusal :=
  .next (
    match takeInbox r.val 1 s with
    | (some d, s) => foresight r.val d s
    | (none, s) => s)

/-- BACKSIGHT_RECEIVED (R361): the oldest backsight of the side that waits. -/
def execBacksightReceived (r : Fin 2) (s : State) : Host.Outcome State Fault Refusal :=
  .next (
    match takeInbox r.val 2 s with
    | (some d, s) => backsight r.val d s
    | (none, s) => s)

/-- PD_RING is switched off: no local Datum time is kept and Datum is not valid (R377). -/
def datumReset (s : State) : State :=
  { datumTo .off s with datum := { follow := s.datum.follow, active := s.datum.active } }

end Sys2Proof.Machine
end

