-- ==== Sys2Proof/Machine/Pair.lean ====
section
/-! DEFINITION. The redundant pair (R417 to R434): claim lines, heartbeats, the state table and checkpoints. -/

namespace Sys2Proof.Machine

/-- Key of a PAIR register (R432). -/
def pairKey (off : Nat) : Nat := rk .pair 0 off
/-- Change the pair function's hidden state. -/
def onPair (f : Pair → Pair) (s : State) : State := { s with pair := f s.pair }
/-- Raise a cause of the PAIR page (R434). -/
def raisePair (k : Nat) (s : State) : State := raise .pair 0 k s
/-- PAIR.CFG.EN. -/
def pairOn (s : State) : Bool := rdb s (pairKey 0x040) 0
/-- PAIR.CFG.PRIMARY. -/
def isPrimary (s : State) : Bool := rdb s (pairKey 0x040) 1
/-- The lanes of PAIR.LANES. -/
def pairLanes (s : State) : List Nat := setBits (rd s (pairKey 0x064)) 32
/-- The members, as legs (R417). -/
def pairLegs (s : State) : List Nat := (List.range 96).filter (pairMember s)
/-- A safe-state set holds a member: a leg, or a direct phase whose output is on or off (R425). -/
def holdsMember (s : State) (k : Nat) : Bool :=
  (pairLegs s).any (inSet s k) ||
    (pairOn s && (List.range 16).any fun p => rdb s (pairKey 0x060) p && rdb s (setKey k 0x0C) p)
/-- The peer is not lost (R424). -/
def peerOk (s : State) : Bool := s.pair.linkAt.isSome || s.pair.ringAt.isSome
/-- STAT.ROLE_ERR, HEALTH and its conditions (R425). -/
def pairHealthy (s : State) : Bool :=
  let on := fun b => rdb s (pairKey 0x040) (8 + b)
  let latched := s.sets.any fun e => e.2.latched && holdsMember s e.1
  !((on 0 && (pairLanes s).any fun n => decide ((lane s n).st = 3)) ||
    (on 1 && latched) || (on 2 && s.clk.pllHold) || (on 3 && s.plumb.spo) ||
    (on 4 && (s.therm.stopping || s.therm.stopped))) && s.plumb.saddle ≠ .expired
/-- Plumb permits a claim (R404): it permits nothing before its self-test has passed (R433: PERM is 0 at reset). -/
def pairPermit (s : State) : Bool :=
  s.plumb.selftest && match s.plumb.saddle with
  | .normal => true
  | .expired => false
  | _ => rdb s (plKey 0x0F0) 9
/-- CLAIM_PEER_N has been high for 2 us. -/
def peerHigh (s : State) : Bool := !s.pair.peerLow && decide (s.pair.peerAt + 2 * usec ≤ s.now)
/-- CLAIM_SETTLE: 2 us (R420). -/
def claimSettle : Nat := 2 * usec

/-! Checkpoints (R428, R429) -/

/-- The checkpoint is younger than HEAL.MAX_AGE. -/
def ckYoung (s : State) : Bool :=
  s.pair.slot.any fun c => decide (s.now < c.start + rdf s (pairKey 0x04C) 16 16 * msec)
/-- K = ceil(1 ms / LEN) (R428); a Datum time unit is 62.5 ps. -/
def ckStride (s : State) : Nat :=
  match s.datum.cyc with
  | none => 1
  | some c => (16000000 + max 1 c.len - 1) / max 1 c.len
/-- The tile pairs of CKPT_MAP. -/
def ckMap (s : State) : List (Nat × Nat) :=
  (List.range (min 16 (rdf s (pairKey 0x068) 0 5))).map fun i =>
    let k := pairKey (0x070 + 4 * (i / 2))
    (rdf s k (16 * (i % 2)) 8, rdf s k (16 * (i % 2) + 8) 8)
/-- SW_LEN in bytes. -/
def ckSwLen (s : State) : Nat := rdf s (pairKey 0x068) 16 8 * 256
/-- Address of the software block. -/
def ckSwAddr (s : State) : Nat := sramBase + rdf s (pairKey 0x06C) 8 14 * 256

/-- Where and when a tile is captured at a Datum cycle boundary: now, or at the first pass start of its lane after a
boundary at or after an instant (R33, R428). -/
def ckWait (s : State) (t : Nat) : Option (Nat × Nat) :=
  match stateOwner s t with
  | none => none
  | some n =>
    let d := laneDom s n
    if !(domRuns s d) || !(laneOn s n) then none
    else if coincided s d then
      if (lane s n).passK = some (dom s d).k then none else some (n, 0)
    else some (n, s.now)

/-- Capture a checkpoint now (R428). -/
def pairCapture (num : Nat) (nodat : Bool) (s : State) : State :=
  let now := s.now
  let t := if nodat then 0 else datumNow s
  let tiles := (ckMap s).map fun p =>
    let whole := memBytes s (tileAddr p.1 0) 4096
    match (if nodat then none else ckWait s p.1) with
    | none => ({ src := p.1, dst := p.2, lane := 0, due := 0, data := some whole } : CkTile)
    | some (n, due) => { src := p.1, dst := p.2, lane := n, due := due, data := none }
  let c : CkSend := { num := num, nodat := nodat, time := t, tiles := tiles, sw := memBytes s (ckSwAddr s) (ckSwLen s) }
  sramCheck (ckSwAddr s) (ckSwLen s) (onPair (fun p => { p with tx := some c, capAt := now, capNum := num }) s)

/-- A pass of lane `n` starts: the tiles that wait for it are captured (R428). -/
def pairPassStart (n : Nat) (s : State) : State :=
  match s.pair.tx with
  | none => s
  | some c =>
    let tk := lastTick s (laneDom s n)
    let tiles := c.tiles.map fun (x : CkTile) =>
      if x.data.isNone && decide (x.lane = n ∧ x.due ≤ tk) then { x with data := some (memBytes s (tileAddr x.src 0) 4096) }
      else x
    onPair (fun p => { p with tx := some { c with tiles := tiles } }) s

/-- A waiting tile of a lane that is disabled, or whose domain has no boundaries, is captured as it stands. -/
def ckSettle (s : State) (c : CkSend) : CkSend :=
  { c with tiles := c.tiles.map fun (x : CkTile) =>
           if x.data.isNone && (!(laneOn s x.lane) || !(domRuns s (laneDom s x.lane))) then
           { x with data := some (memBytes s (tileAddr x.src 0) 4096) } else x }

/-- The bytes of a checkpoint that are captured, before its CRC; the flag says that they are all (R428). -/
def ckBytes (c : CkSend) : List Byte × Bool :=
  let head := beBytes 4 c.num ++ [if c.nodat then 1#8 else 0#8, BitVec.ofNat 8 c.tiles.length] ++ beBytes 2 c.sw.length ++
    beBytes 8 c.time
  let got := c.tiles.takeWhile fun x => x.data.isSome
  let recs := got.flatMap fun x => [BitVec.ofNat 8 x.src, BitVec.ofNat 8 x.dst, 0#8, 0#8] ++ x.data.getD []
  if got.length = c.tiles.length then (head ++ recs ++ c.sw, true) else (head ++ recs, false)

/-- Length of a checkpoint. -/
def ckLen (tiles sw : Nat) : Nat := 16 + 4100 * tiles + sw + 4

/-- A frame of the pair link: header, payload, CRC (R422). -/
def pairFrame (kind seg : Nat) (payload : List Byte) : List Byte :=
  let b := [BitVec.ofNat 8 kind, 0#8, BitVec.ofNat 8 seg, BitVec.ofNat 8 (seg / 256)] ++ padTo 256 payload
  b ++ beBytes 4 (crc32c b).toNat

/-- A frame starts when the link is free: 266 code groups at 125 MB/s (R422). -/
def sendFrame (f : List Byte) (s : State) : State :=
  let t := max s.now s.pair.linkFree + 266 * 400
  onPair (fun p => { p with linkFree := t, sent := f }) s

/-- The frame came whole: its CRC matches and it did not end with EOC_BAD (R422). -/
def frameOk (f : List Byte) (bad : Bool) : Bool :=
  !bad && decide (f.length = 264) && decide (crc32c (f.take 260) = wNat (beAt f 260 4))

/-- A bad frame is dropped and counted. -/
def badFrame (s : State) : State := incHeld (pairKey 0x0AC) 16 16 s

/-- The slot being written is discarded, and with it what follows of its checkpoint (R429). -/
def ckBad (s : State) : State := raisePair 5 (onPair (fun p => { p with rx := none, rxBad := true }) s)

/-- A tile record passes R71 and R72 under its SRC number, as a state tile. -/
def ckTileOk (r : Nat × Nat × List Byte) : Bool :=
  let b := r.2.2
  decide (leNat ((b.drop 0xFF8).take 2) = r.1 + 0x300) &&
    decide (crc32c (b.take 0xFFC) = wNat (leNat ((b.drop 0xFFC).take 4)))

/-- The tile records of a checkpoint's bytes. -/
def ckTiles (bs : List Byte) (n : Nat) : List (Nat × Nat × List Byte) :=
  (List.range n).map fun i =>
    let o := 16 + 4100 * i
    (cellByte bs o, cellByte bs (o + 1), (bs.drop (o + 4)).take 4096)

/-- Judge the bytes of a checkpoint whose last segment has come (R429). -/
def ckJudge (bs : List Byte) (segs from' : Nat) (s : State) : Option Ckpt :=
  let nt := cellByte bs 5
  let sw := beAt bs 6 2
  let len := ckLen nt sw
  let body := bs.take (len - 4)
  let tiles := ckTiles bs nt
  if decide (nt ≤ 16 ∧ segs = (len + 255) / 256) && decide (crc32c body = wNat (beAt bs (len - 4) 4)) && tiles.all ckTileOk then
    let nodat := cellByte bs 4 % 2 = 1
    let age := (datumSpan (beAt bs 8 8) (datumNow s)).toNat * 25 / 8
    let st := if nodat || !(datumValid s) then from' else s.now - age
    some { num := beAt bs 0 4, start := st, tiles := tiles, sw := (bs.drop (16 + 4100 * nt)).take sw }
  else none

/-- Install the checkpoint (R429). -/
def ckInstall (c : Ckpt) (s : State) : State :=
  let s := forEach c.tiles (fun r s =>
    let dst := r.2.1
    let s := memWrBytes (tileAddr dst 0) (r.2.2.take 0xFFC) s
    let s := memWrBytes (tileAddr dst 1022) [BitVec.ofNat 8 dst] s
    memWrWord (tileAddr dst 1023) (tileCrc s dst) s) s
  sramWrite (ckSwAddr s) c.sw s

/-! Claims and states (R420, R421, R425) -/

/-- The own claim is withdrawn: members are held again. -/
def claimOff (s : State) : State :=
  if s.pair.own then settle s (onPair (fun p => { p with own := false, settled := false, released := [], hbDue := true }) s) else s

/-- Two claims became low within 2 us of each other (R421). -/
def claimsMeet (s : State) : State :=
  let p := s.pair
  if p.own && p.peerLow && decide (max p.ownAt p.peerAt ≤ min p.ownAt p.peerAt + 2 * usec) then
    raisePair 7 (incHeld (pairKey 0x0AC) 0 16 s)
  else s

/-- A secondary releases its claim while the peer's line is low (R421). -/
def yieldClaim (s : State) : State :=
  if s.pair.own && s.pair.peerLow && !(isPrimary s) then claimOff (onPair (fun p => { p with yielded := true }) s) else s

/-- The lanes of LANES are disabled (R419). -/
def stopLanes (s : State) : State :=
  forEach (pairLanes s) (fun n s => if rdb s (laneKey n 0x040) 0 then writeLaneCtrl n (ctrlWith s n false false) s else s) s

/-- The state changes (R425). -/
def pairTo (st : Nat) (s : State) : State :=
  let was := s.pair.st
  if was = st then s else
  let s := onPair (fun p => { p with st := st, hbDue := true }) s
  let s := if st = 3 ∨ st = 4 then s else claimOff (onPair (fun p => { p with tx := none, installs := false }) s)
  let s := if (was = 3 ∨ was = 4) ∧ (st = 1 ∨ st = 2 ∨ st = 5) then stopLanes s else s
  raisePair 0 (logHap (pageNo .pair 0) s)

/-- Entry to CLAIMING: the installation begins (R427); a checkpoint being received is abandoned (R429). -/
def startClaim (takeback : Bool) (s : State) : State :=
  let now := s.now
  let use := ckYoung s
  let s := if s.pair.rx.isSome then ckBad s else s
  let s := pairTo 3 s
  onPair (fun p => { p with claimAt := now, takeback := takeback, installs := true, useCk := use, ready := [], fresh := [],
                            installed := none, yielded := false }) s

/-- The primary's takeback conditions, but for the checkpoint that completes (R430). -/
def takebackOk (s : State) : Bool :=
  isPrimary s && rdb s (pairKey 0x040) 2 && (s.pair.peer.any fun p => p.1 = 4 && p.2.testBit 1) && peerOk s &&
    s.pair.wellAt.any fun t => decide (t + rdf s (pairKey 0x04C) 0 16 * secs ≤ s.now)

/-- The conditions of R426 common to every claim. -/
def claimAllowed (s : State) : Bool := pairHealthy s && !s.pair.roleErr && pairPermit s

/-- A claim condition of R426's table, takeback excepted. -/
def claimCond (s : State) : Bool :=
  let shows := fun l => peerOk s && (s.pair.peer.any fun p => List.contains l p.1)
  (!(peerOk s) && peerHigh s) || (shows [0, 5] && peerHigh s) || (isPrimary s && shows [1, 2]) ||
    (s.pair.go && (isPrimary s || !s.pair.peerLow))

/-- The health of R430 lasts, or a new run begins. -/
def keepWell (s : State) : State :=
  let now := s.now
  if pairHealthy s && s.plumb.saddle = .normal then
    if s.pair.wellAt.isNone then onPair (fun p => { p with wellAt := some now }) s else s
  else onPair (fun p => { p with wellAt := none }) s

/-- The liveness time has ended (R425). -/
def liveOut (s : State) : Bool :=
  let t := rdf s (pairKey 0x048) 0 16
  t ≠ 0 && decide (s.pair.keepAt + t * usec ≤ s.now)
/-- The wait of a syncing device without a peer has ended. -/
def waitOut (s : State) : Bool := !(peerOk s) && decide (s.pair.lostAt + rdf s (pairKey 0x048) 16 16 * msec ≤ s.now)

/-- Entry to ACTIVE: takeovers and takebacks (R430), and captures begin. -/
def enterActive (s : State) : State :=
  let now := s.now
  let s := incHeld (pairKey 0x0A8) (if s.pair.takeback then 16 else 0) 16 s
  pairTo 4 (onPair (fun p => { p with capAt := now, capNum := max p.capNum p.lastNum }) s)

/-- CLAIMING ends without R420 (R425). -/
def claimFails (s : State) : State := raisePair 8 (pairTo 2 s)
/-- SYNC ends without a checkpoint (R425). -/
def startCold (s : State) : State := pairTo 2 (onPair (fun p => { p with cold := true }) s)

/-- The state table, in its order (R425). -/
def pairTable (s : State) : State :=
  let p := s.pair
  match p.st with
  | 4 => if !(pairHealthy s) || p.give || liveOut s then pairTo 5 s else if p.yielded then pairTo 1 s else s
  | 3 =>
    if p.yielded then pairTo 1 s
    else if !p.released.isEmpty then enterActive s
    else if p.claimAt + msec ≤ s.now then claimFails s else s
  | 1 => if ckYoung s then pairTo 2 s else if waitOut s then startCold s else s
  | 2 => if claimAllowed s && claimCond s then startClaim false s else s
  | 5 => if pairHealthy s && p.clr then pairTo 1 s else s
  | _ => s

/-! Boundaries and passes (R420) -/

/-- A pass that started at `start` has armed these legs' groups. -/
def pairArmed (start : Nat) (legs : List Nat) (s : State) : State :=
  if s.pair.installed.any fun t => decide (t ≤ start) then
    onPair (fun p => { p with ready := (p.ready ++ legs).eraseDups }) s
  else s

/-- At a boundary of domain `d` the groups of these legs have committed: members that meet R420 are released. -/
def pairBoundary (d : Nat) (committed : List Nat) (s : State) : State :=
  let got := committed.filter s.pair.ready.contains
  let s := onPair (fun p => { p with fresh := (p.fresh ++ got).eraseDups, ready := p.ready.filter fun l => !(got.contains l) }) s
  let p := s.pair
  let due := if p.settled && p.own && !p.peerLow then
      (domLegs s d).filter fun l => pairMember s l && p.fresh.contains l && !(p.released.contains l) else []
  if due.isEmpty then s else
  checkOutEn (settle s (onPair (fun p => { p with released := p.released ++ due }) s))

/-- PD_RING goes off or a reset begins (R431): rank 2 stops acting, and R4 applies. -/
def pairReset (s : State) : State := settle s { wrb (pairKey 0x040) 0 false s with pair := {} }

/-! The page -/

/-- The send stream is open with OWNER 3 (R423). -/
def hbSends (s : State) : Bool :=
  let t := rstream s (rdf s (pairKey 0x050) 0 10)
  t.st = 2 && t.dir = 1 && t.owner = 3
/-- The receive stream is open with OWNER 3. -/
def hbReceives (s : State) : Bool :=
  let r := rstream s (rdf s (pairKey 0x050) 16 10)
  r.st = 2 && r.dir = 2 && r.owner = 3
/-- The ring streams are open with OWNER 3 (R431). -/
def hbStreams (s : State) : Bool := hbSends s && hbReceives s

/-- A write of CFG with EN = 1 is accepted (R431). -/
def pairEnOk (s : State) (v : Word) : Bool :=
  let per := rdf s (pairKey 0x044) 0 16
  let member := rd s (pairKey 0x060) ≠ 0 || (List.range 3).any fun i => rd s (pairKey (0x054 + 4 * i)) ≠ 0
  member && decide (10 ≤ per ∧ per ≤ 10000 ∧ 3 * per ≤ rdf s (pairKey 0x044) 16 16) &&
    (!bit v 3 || hbStreams s) && decide (rdf s (pairKey 0x068) 0 5 ≤ 16) &&
    (ckMap s).all (fun p => tileType s p.1 = 3 && tileType s p.2 = 3) && decide (rdf s (pairKey 0x068) 16 8 ≤ 128) &&
    decide (ckSwAddr s + ckSwLen s ≤ sramBase + 0x400000) && !((pairLanes s).any (laneOn s))

/-- An RWL write is accepted: in OFF, or where it clears EN (R431). -/
def pairWriteOk (s : State) (off : Nat) (v : Word) : Bool :=
  if off = 0x040 then (if s.pair.st = 0 then !bit v 0 || pairEnOk s v else !bit v 0) else s.pair.st = 0

/-- Write an RWL register of the page. -/
def writePair (off : Nat) (v : Word) (s : State) : State :=
  let now := s.now
  if off ≠ 0x040 then plainWrite (pairKey off) v s
  else if s.pair.st ≠ 0 then pairTo 0 (settle s (wrb (pairKey 0x040) 0 false s))
  else
    let s := settle s (plainWrite (pairKey 0x040) v s)
    if !(bit v 0) then s else
    pairTo 1 (onPair (fun p => { p with stepAt := now + usec, keepAt := now, hbAt := now, lostAt := now, roleErr := false,
                                        go := false, give := false, clr := false, yielded := false, wellAt := none }) s)

/-- Write CTL (R433): the commands wait for the next test. -/
def writePairCtl (v : Word) (s : State) : State :=
  let now := s.now
  if !(pairOn s) then s else
  onPair (fun p => { p with go := p.go || bit v 0, give := p.give || bit v 1, clr := p.clr || bit v 3,
                            keepAt := (if bit v 2 then now else p.keepAt) }) s

/-- STAT (R433). -/
def pairStat (s : State) : Word :=
  let p := s.pair
  let b := fun (k : Nat) (c : Bool) => if c then 2 ^ k else 0
  wNat (p.st + b 3 (!p.released.isEmpty) + b 4 p.own + b 5 p.peerLow + b 6 (peerOk s) + b 7 p.linkAt.isSome +
    b 8 p.ringAt.isSome + b 9 (pairPermit s) + b 10 p.cold + b 11 p.roleErr)

/-- Registers of the page that mirror state (R432, R433). -/
def readPair (s : State) (off : Nat) : Option Word :=
  match off with
  | 0x00C => some (pairStat s &&& 0xFF#32)
  | 0x094 => some (pairStat s)
  | 0x0A4 => some (match s.pair.slot with
      | none => 0xFFFF
      | some c => wNat (held 0xFFFF ((s.now - c.start) / msec)))
  | _ => none

/-! Heartbeats (R423, R424) -/

/-- The heartbeat payload (R423). -/
def heartbeat (s : State) : List Byte :=
  let p := s.pair
  let b := fun (k : Nat) (c : Bool) => if c then 2 ^ k else 0
  let f := b 0 (isPrimary s) + b 1 (pairHealthy s) + 4 * saddleNo s.plumb.saddle + b 4 s.plumb.spo + b 5 (datumValid s) + b 6 p.own
  [BitVec.ofNat 8 p.st, BitVec.ofNat 8 f] ++ beBytes 4 p.lastNum ++ beBytes 8 (if datumValid s then datumNow s else 0)

/-- Since when the peer's line is low against its reported state (R421). -/
def watchStuck (s : State) : State :=
  let now := s.now
  if s.pair.peerLow && s.pair.peer.any fun p => p.1 ≠ 3 && p.1 ≠ 4 then
    if s.pair.stuckAt.isNone then onPair (fun p => { p with stuckAt := some now }) s else s
  else onPair (fun p => { p with stuckAt := none }) s

/-- A heartbeat's payload comes in on a path (R418, R424). -/
def takeHeartbeat (ring : Bool) (b : List Byte) (s : State) : State :=
  let now := s.now
  let back := if ring then s.pair.ringAt.isNone else s.pair.linkAt.isNone
  let st := cellByte b 0 % 8
  let f := cellByte b 1
  let same := decide ((f.testBit 0) = isPrimary s)
  let s := onPair (fun p => { p with peer := some (st, f), roleErr := same,
                                     linkAt := (if ring then p.linkAt else some now), ringAt := (if ring then some now else p.ringAt) }) s
  let s := wr (pairKey 0x098) (wNat (st + 8 * f + 65536 * (beAt b 2 4 % 65536))) s
  let s := if back then raisePair 3 s else s
  watchStuck (if same then raisePair 9 s else s)

/-- HB.TMO in steps. -/
def hbTmo (s : State) : Nat := rdf s (pairKey 0x044) 16 16 * usec

/-! Meanings -/

/-- PAIR_ENABLE (R431): a write of CFG. -/
def execPairEnable (m : Master) (v : Word) (s : State) : Host.Outcome State Fault Refusal :=
  .next (byBus m .pair 0 0x040 (fun s => rwlPath m (pairKey 0x040) (pairWriteOk s 0x040 v) (writePair 0x040 v) s) s)

/-- GO (R426). -/
def execGo (m : Master) (s : State) : Host.Outcome State Fault Refusal :=
  .next (byBus m .pair 0 0x090 (fun s => writePairCtl 1 s) s)

/-- GIVE (R425). -/
def execGive (m : Master) (s : State) : Host.Outcome State Fault Refusal :=
  .next (byBus m .pair 0 0x090 (fun s => writePairCtl 2 s) s)

/-- KEEP (R425). -/
def execKeep (m : Master) (s : State) : Host.Outcome State Fault Refusal :=
  .next (byBus m .pair 0 0x090 (fun s => writePairCtl 4 s) s)

/-- PAIR_CLR (R425). -/
def execPairClr (m : Master) (s : State) : Host.Outcome State Fault Refusal :=
  .next (byBus m .pair 0 0x090 (fun s => writePairCtl 8 s) s)

/-- HEARTBEAT_SEND (R423): one that a change of state or claim asks for, or the periodic one. -/
def execHeartbeatSend (s : State) : Host.Outcome State Fault Refusal :=
  .next (
    if !(live s .ring) || !(pairOn s || s.pair.hbDue) then s else
    let per := rdf s (pairKey 0x044) 0 16 * usec
    let s :=
      if s.pair.hbDue then onPair (fun p => { p with hbDue := false }) s
      else
        let at' := s.pair.hbAt
        let s := upto at' s
        let next := nextDue at' per s.now
        onPair (fun p => { p with hbAt := next }) s
    let b := heartbeat s
    let s := sendFrame (pairFrame 1 0 b) s
    if rdb s (pairKey 0x040) 3 && hbSends s then (streamPut (rdf s (pairKey 0x050) 0 10) (padTo 48 b) s).2 else s)

/-- HEARTBEAT_RECEIVED (R422, R424): from the pair link, or from the ring's receive stream, in every state. -/
def execHeartbeatReceived (ring : Bool) (frame : List Byte) (bad : Bool) (s : State) : Host.Outcome State Fault Refusal :=
  .next (
    if !(live s .ring) then s
    else if ring then
      if !(rdb s (pairKey 0x040) 3 && hbReceives s) then s else
      match streamTake (rdf s (pairKey 0x050) 16 10) s with
      | (some c, s) => takeHeartbeat true c.1 s
      | (none, s) => s
    else if !(frameOk frame bad) then badFrame s
    else if cellByte frame 0 ≠ 1 then s
    else takeHeartbeat false ((frame.drop 4).take 256) s)

/-- PATH_TIMEOUT (R424). -/
def execPathTimeout (ring : Bool) (s : State) : Host.Outcome State Fault Refusal :=
  .next (
    match (if ring then s.pair.ringAt else s.pair.linkAt) with
    | none => s
    | some t =>
      if !(live s .ring) then s else
      let s := upto (t + hbTmo s) s
      let now := s.now
      let s := onPair (fun p => if ring then { p with ringAt := none } else { p with linkAt := none }) s
      let s := raisePair 2 s
      if peerOk s then s else plumbEval (raisePair 1 (onPair (fun p => { p with lostAt := now }) s)))

/-- PAIR_EVALUATION (R425): the test of each microsecond. -/
def execPairEvaluation (s : State) : Host.Outcome State Fault Refusal :=
  .next (
    if !(live s .ring) || !(pairOn s) then s else
    let at' := s.pair.stepAt
    let s := upto at' s
    let next := nextDue at' usec s.now
    let s := pairTable (keepWell (onPair (fun p => { p with stepAt := next }) s))
    onPair (fun p => { p with go := false, give := false, clr := false }) s)

/-- LIVENESS_TIMEOUT (R425). -/
def execLivenessTimeout (s : State) : Host.Outcome State Fault Refusal :=
  .next (
    let t := rdf s (pairKey 0x048) 0 16
    if !(live s .ring) || s.pair.st ≠ 4 || t = 0 then s
    else pairTo 5 (upto (s.pair.keepAt + t * usec) s))

/-- CLAIM_PEER_CHANGE (R420, R421): the filtered line changes. -/
def execClaimPeerChange (low : Bool) (s : State) : Host.Outcome State Fault Refusal :=
  .next (
    if !(live s .ring) || s.pair.peerLow = low then s else
    let now := s.now
    let s := onPair (fun p => { p with peerLow := low, peerAt := now }) s
    let s := if low then settle s (onPair (fun p => { p with settled := false, released := [] }) s) else s
    watchStuck (yieldClaim (if low then claimsMeet s else s)))

/-- CLAIM_SETTLE (R420): 2 us with the own claim low and the peer's line high. -/
def execClaimSettle (s : State) : Host.Outcome State Fault Refusal :=
  .next (
    if !(live s .ring) || !s.pair.own || s.pair.peerLow || s.pair.settled then s
    else onPair (fun p => { p with settled := true }) (upto (max s.pair.ownAt s.pair.peerAt + claimSettle) s))

/-- CLAIM_TIMEOUT (R425). -/
def execClaimTimeout (s : State) : Host.Outcome State Fault Refusal :=
  .next (
    if !(live s .ring) || s.pair.st ≠ 3 || !s.pair.released.isEmpty || s.pair.yielded then s
    else claimFails (upto (s.pair.claimAt + msec) s))

/-- INSTALL_DONE (R427): the checkpoint is installed, or none is; the lanes are enabled and the claim is asserted. -/
def execInstallDone (s : State) : Host.Outcome State Fault Refusal :=
  .next (
    if !(live s .ring) || s.pair.st ≠ 3 || !s.pair.installs then s else
    let now := s.now
    let use := s.pair.useCk && s.pair.slot.isSome
    let s := match s.pair.useCk, s.pair.slot with
      | true, some c => ckInstall c s
      | _, _ => raisePair 6 s
    let s := onPair (fun p => { p with installs := false, cold := !use, installed := some now }) s
    let s := forEach (pairLanes s) (fun n s => writeLaneCtrl n (ctrlWith s n true false) s) s
    let s := onPair (fun p => { p with own := true, ownAt := now, settled := false, hbDue := true }) s
    yieldClaim (claimsMeet s))

/-- START_WAIT (R425). -/
def execStartWait (s : State) : Host.Outcome State Fault Refusal :=
  .next (
    if !(live s .ring) || s.pair.st ≠ 1 || peerOk s then s
    else startCold (upto (s.pair.lostAt + rdf s (pairKey 0x048) 16 16 * msec) s))

/-- PEER_STUCK (R421): 10 ms without a break. -/
def execPeerStuck (s : State) : Host.Outcome State Fault Refusal :=
  .next (
    match s.pair.stuckAt with
    | none => s
    | some t =>
      if !(live s .ring) || rdb s (pairKey 0x010) 10 then s
      else raisePair 10 (upto (t + 10 * msec) s))

/-- LOCAL_CAPTURE (R428): while Datum is not valid. -/
def execLocalCapture (s : State) : Host.Outcome State Fault Refusal :=
  .next (
    if !(live s .ring) || s.pair.st ≠ 4 || datumValid s then s else
    let s := upto (s.pair.capAt + msec) s
    pairCapture ((s.pair.capNum + ckStride s) % 2 ^ 32) true s)

/-- SEGMENT_SEND (R428): the next segment, where its bytes are captured. -/
def execSegmentSend (s : State) : Host.Outcome State Fault Refusal :=
  .next (
    match s.pair.tx with
    | none => s
    | some c =>
      if !(live s .ring) || s.pair.st ≠ 4 then s else
      let c := ckSettle s c
      let (body, all) := ckBytes c
      let len := ckLen c.tiles.length c.sw.length
      let last := decide (len ≤ 256 * (c.seg + 1))
      let bs := if all then body ++ beBytes 4 (crc32c body).toNat else body
      if decide (bs.length < min len (256 * (c.seg + 1))) then s else
      let s := upto s.pair.linkFree s
      let s := sendFrame (pairFrame (if last then 3 else 2) c.seg ((bs.drop (256 * c.seg)).take 256)) s
      if last then
        wr (pairKey 0x09C) (wNat c.num) (onPair (fun p => { p with tx := none, lastNum := c.num }) s)
      else onPair (fun p => { p with tx := some { c with seg := c.seg + 1 } }) s)

/-- The last segment has come: the checkpoint becomes complete, or is discarded (R429); a takeback claims here (R430). -/
def ckFinish (bs : List Byte) (segs from' : Nat) (s : State) : State :=
  match ckJudge bs segs from' s with
  | none => ckBad s
  | some c =>
    let s := onPair (fun p => { p with rx := none, slot := some c, lastNum := c.num }) s
    let s := raisePair 4 (wr (pairKey 0x0A0) (wNat c.num) s)
    if s.pair.st = 2 && claimAllowed s && takebackOk s then startClaim true s else s

/-- SEGMENT_RECEIVED (R422, R429). -/
def execSegmentReceived (frame : List Byte) (bad : Bool) (s : State) : Host.Outcome State Fault Refusal :=
  .next (
    let st := s.pair.st
    if !(live s .ring) then s
    else if !(frameOk frame bad) then badFrame s
    else if !(pairOn s) then s
    else
      let now := s.now
      let kind := cellByte frame 0
      let seg := cellByte frame 2 + 256 * cellByte frame 3
      let body := (frame.drop 4).take 256
      if kind ≠ 2 && kind ≠ 3 then s else
      let done : State → State := fun s => onPair (fun p => { p with rxBad := p.rxBad && kind ≠ 3 }) s
      if !(st = 1 || st = 2 || st = 5) then done s else
      let s := if seg = 0 && s.pair.rx.isSome then ckBad s else s
      let go := fun (bs : List Byte) (from' : Nat) (s : State) =>
        if kind = 3 then ckFinish bs (seg + 1) from' s else onPair (fun p => { p with rx := some (seg + 1, bs, from') }) s
      match s.pair.rx with
      | none =>
        if seg = 0 then go body now (onPair (fun p => { p with rxBad := false }) s)
        else done (if s.pair.rxBad then s else ckBad s)
      | some (k, bs, from') => if seg = k then go (bs ++ body) from' s else done (ckBad s))

end Sys2Proof.Machine
end

