-- ==== Sys2Proof/Machine/Router.lean ====
section
/-! DEFINITION. The event router's channels (R438 to R444) and the trouble log (R445 to R450, R505, R506). -/

namespace Sys2Proof.Machine

/-! Channels -/

/-- A head still to be delivered on channel `n`. -/
def headOn (o : Occ) (n : Nat) : Bool :=
  (bit o.route 6 && decide (fld o.route 0 6 = n) && !o.doneA) || (bit o.route 14 && decide (fld o.route 8 6 = n) && !o.doneB)

/-- The priority of a head: promoted heads are urgent (R439). -/
def headPrio (o : Occ) : Nat := if o.promoted then 3 else fld o.route 16 2

/-- Heads routed to channel `n`, with their sources. -/
def headsOn (s : State) (n : Nat) : List (Nat × Occ) :=
  s.evr.srcs.filterMap fun e => match e.2.q with
    | o :: _ => if headOn o n then some (e.1, o) else none
    | [] => none

/-- The first head wins over the second: priority, then waiting time in CLK_FAB cycles, then source number (R438). -/
def headWins (a b : Nat × Occ) : Bool :=
  if headPrio a.2 ≠ headPrio b.2 then decide (headPrio b.2 < headPrio a.2)
  else if a.2.since / fabCyc ≠ b.2.since / fabCyc then decide (a.2.since / fabCyc < b.2.since / fabCyc)
  else decide (a.1 < b.1)

/-- The head that channel `n` delivers. -/
def winner (s : State) (n : Nat) : Option (Nat × Occ) :=
  match headsOn s n with
  | [] => none
  | h :: hs => some (hs.foldl (fun w x => if headWins x w then x else w) h)

/-- Key of a channel register (R458). -/
def chanKey (n off : Nat) : Nat := rk .evr 0 (0x400 + 0x10 * n + off)

/-- The pulse of a delivery at its hardware consumers (R440): safe-state sets and converters. -/
def pulse (n : Nat) (s : State) : State :=
  let s := forEach (List.range 16) (fun k s =>
    let c := rd s (setKey k 0x10)
    if bit c 1 && decide (fld c 8 6 = n) then latchSet k 4 n s else s) s
  if !(live s .adc) then s else
  forEach (List.range 32) (fun a s =>
    let q := inForce s (rk .adc a 0x080)
    if adcMode s a ≠ 2 then s else
    let s := if fld q 8 2 = 2 && decide (fld q 10 6 = n) then onAdc a (fun x => { x with regPulse := true }) s else s
    if bit q 26 && decide (fld q 20 6 = n) then onAdc a (fun x => { x with injPulse := true }) s else s) s

/-- Raise a cause of the EVR page: none while PD_CORE is off or in reset. -/
def raiseEvr (k : Nat) (s : State) : State := if fabricUp s then raise .evr 0 k s else s

/-- Append a record to the channel's queue, or count it lost (R440). -/
def record (n src : Nat) (o : Occ) (s : State) : State :=
  if !(rdb s (chanKey n 0) 8) then s else
  let c := chan s n
  if c.recs.length < 8 then
    let w := wNat (src + (if o.promoted then 512 else 0) + 4096 * o.merged + 65536 * fld o.route 16 2)
    setChan n { c with recs := c.recs ++ [(w, o.stamp)] } s
  else raiseEvr 1 (setChan n { c with lost := held 255 (c.lost + 1), gap := true } s)

/-- Mark a head delivered on a channel; it leaves its queue when both deliveries are done. -/
def headDone (n src : Nat) (s : State) : State :=
  let q := srcQ s src
  match q.q with
  | [] => s
  | o :: os =>
    let o := { o with doneA := o.doneA || decide (fld o.route 0 6 = n), doneB := o.doneB || decide (fld o.route 8 6 = n) }
    let left := (bit o.route 6 && !o.doneA) || (bit o.route 14 && !o.doneB)
    if left then setSrcQ src { q with q := o :: os } s
    else match os with
      | [] => setSrcQ src { q with q := [] } s
      | x :: xs => setSrcQ src { q with q := { x with since := s.now } :: xs } s

/-- The deadline of a priority in steps (R439): 0 where promotion is disabled. -/
def deadline (s : State) (prio : Nat) : Nat := if prio < 3 then rdf s (rk .evr 0 (0x040 + 4 * prio)) 0 16 * 5000 else 0

/-- A head whose deadline has passed is promoted (R439). -/
def promote (e : Nat) (s : State) : State :=
  let q := srcQ s e
  match q.q with
  | [] => s
  | o :: os =>
    let dl := deadline s (fld o.route 16 2)
    if o.promoted || dl = 0 then s else
    let s := upto (o.since + dl) s
    let chs := ((if bit o.route 6 && !o.doneA then [fld o.route 0 6] else []) ++
      (if bit o.route 14 && !o.doneB then [fld o.route 8 6] else [])).eraseDups
    let s := setSrcQ e { q with q := { o with promoted := true } :: os } s
    let s := forEach chs (fun n s => setChan n { chan s n with promo := held 0xFFFF ((chan s n).promo + 1) } s) s
    raiseEvr 0 (incMod (rk .evr 0 0x04C) 0 32 s)

/-- The channel's heads that have waited their deadline are promoted before it arbitrates (R439). -/
def promoteDue (n : Nat) (s : State) : State :=
  forEach ((headsOn s n).filter fun h => decide (h.2.since + deadline s (fld h.2.route 16 2) ≤ s.now)) (fun h s => promote h.1 s) s

/-- A channel delivers its winning head (R438, R440). -/
def deliver (n : Nat) (s : State) : State :=
  match winner s n with
  | none => s
  | some _ =>
    let s := promoteDue n (upto (chan s n).nextFree s)
    match winner s n with
    | none => s
    | some (src, o) =>
      let s := setChan n { chan s n with nextFree := s.now + (rdf s (chanKey n 0) 0 8 + 1) * 16 * fabCyc } s
      record n src o (pulse n (headDone n src (pmcCount 13 none none s)))

/-- Remove the oldest record of a channel (R441). -/
def readRec0 (n : Nat) (s : State) : State :=
  let c := chan s n
  match c.recs with
  | [] => respond 0 (setChan n { c with rec1 := 0 } s)
  | (a, b) :: rs => respond a (setChan n { c with recs := rs, rec1 := b } s)

/-! The trouble log -/

/-- An entry as its eight words with the given SEQ (R445). -/
def entryWords (seq : Nat) (e : LogEnt) : List Word :=
  let w3 := wNat (e.page % 4096 + (if e.rtc then 4096 else 0) + (if e.late then 8192 else 0) + (if e.valley then 16384 else 0) +
    (if e.mark then 32768 else 0) + 65536 * (e.code % 256) + 16777216 * (e.raised % 256))
  let ws := [wNat seq, wNat e.time, wNat (e.time / 2 ^ 32), w3, e.payload.getD 0 0, e.payload.getD 1 0, e.payload.getD 2 0]
  ws ++ [crc32c (wordBytes ws)]

/-- An entry's eight words pass their check. -/
def entryOk (ws : List Word) : Bool := decide (ws.length = 8) && decide (crc32c (wordBytes (ws.take 7)) = ws.getD 7 0)

/-- STOP_FULL in force: what PD_CORE left while it is off (R448, R505). -/
def stopFull (s : State) : Bool := if coreUp s then rdb s (rk .evr 0 0x060) 0 else s.log.stopKept

/-- The log is full and keeps its oldest entries (R448). -/
def logStops (s : State) : Bool := stopFull s && decide (4096 ≤ s.log.count)

/-- Place an entry at the head, with the next SEQ (R445, R448); a pass counts where the newest overwrites the oldest. -/
def putEntry (e : LogEnt) (s : State) : State :=
  let g := s.log
  let next := (g.head + 1) % 4096
  let wraps := if next = 0 && !(stopFull s) then held 0xFFFF (g.wraps + 1) else g.wraps
  let newest := !g.started || decide (g.lastEpoch ≤ e.epoch)
  { s with log := { g with entries := smPut g.head (entryWords g.seq e) g.entries, head := next, seq := (g.seq + 1) % 2 ^ 32,
                           count := held 4096 (g.count + 1), wraps := wraps, baseRtc := (if newest then e.rtc else g.baseRtc),
                           lastTime := (if e.rtc then g.lastTime else e.time), lastRtc := (if e.rtc then e.time else g.lastRtc),
                           lastEpoch := (if newest then e.epoch else g.lastEpoch), started := true } }

/-- A MARK entry of the log writer, stamped as an entry is (R447). -/
def markEntry (code : Nat) (payload : List Word) (e : LogEnt) : LogEnt :=
  { e with page := 2, code := code, payload := payload, mark := true, late := false, raised := 0 }

/-- The two words of a time. -/
def timeWords (t : Nat) : List Word := [wNat t, wNat (t / 2 ^ 32)]

/-- A dropped entry is counted and consumes no SEQ (R448). -/
def dropEntry (full : Bool) (s : State) : State :=
  let g := s.log
  let s := { s with log := { g with dropped := held 0xFFFF (g.dropped + 1), lostSince := g.lostSince + 1, full := g.full || full } }
  if full && !g.full then raiseEvr 4 s else s

/-- Write a MARK where the log takes one. -/
def putMark (m : LogEnt) (s : State) : State := if logStops s then s else putEntry m s

/-- TIME of the last entry written on the base of an entry, while there is one (R446). -/
def lastOn (e : LogEnt) (s : State) : Nat :=
  if !s.log.started then 0 else if e.rtc then s.log.lastRtc else s.log.lastTime

/-- MARK BOOT or the MARK of a change of base, where one is due before an entry (R447, R449, R505): one for each change, before
the first entry stamped after it. -/
def putBaseMark (e : LogEnt) (s : State) : State :=
  if s.log.bootMark then
    let s := putMark (markEntry 3 [wNat s.log.bad] e) s
    { s with log := { s.log with bootMark := false } }
  else if s.log.started && decide (s.log.lastEpoch < e.epoch) then
    putMark (markEntry (if e.rtc then 1 else 2) (timeWords e.turn) e) s
  else s

/-- The MARK entries due before an entry (R447 to R449, R505): a loss stays to be marked while the log takes no MARK. -/
def putMarks (e : LogEnt) (s : State) : State :=
  let s := putBaseMark e s
  if s.log.lostSince = 0 || logStops s then s
  else
    let s := putEntry (markEntry 4 [wNat s.log.lostSince] { e with time := max e.time (lastOn e s) }) s
    { s with log := { s.log with lostSince := 0 } }

/-- The Valley energy gate admits a Valley-only entry (R506): E(2.0 V) of R507 is at least 0.5 µJ. -/
def logGate (s : State) : Bool :=
  let c := rdf s (rk .valley 0 0x044) 0 24
  let v := s.valley.vstore
  -- C in µF and V in mV: pJ
  decide (500000 ≤ c * (v * v - 2000 * 2000) / 2)

/-- A MARK RTC_SET on RTC time begins a new span: no TIME before it bounds one after it (R447). -/
def markSpan (e : LogEnt) (s : State) : State :=
  if e.mark && e.rtc then { s with log := { s.log with lastRtc := 0 } } else s

/-- Write an entry to the log (R446 to R448): with its marks, and raised where it is late. -/
def appendEntry (e : LogEnt) (s : State) : State :=
  let s := markSpan e s
  if e.valley && !(logGate s) then dropEntry false s
  else if logStops s then dropEntry true s
  else
    let s := putMarks e s
    if logStops s then dropEntry true s else
    let last := lastOn e s
    if e.time < last then
      let diff := last - e.time
      let tens := if e.rtc then diff * 100000 / 32768 else diff / 160000
      let s := putEntry { e with time := last, late := true, raised := held 255 tens } s
      raiseEvr 3 { s with log := { s.log with late := held 0xFFFF (s.log.late + 1) } }
    else putEntry e s

/-- An entry goes before another in TIME order: TIMEs are compared within one time base and between loads of the RTC, and what
was stamped before a change goes before what was stamped after it (R446, R447). -/
def goesBefore (a b : LogEnt) : Bool :=
  decide (a.epoch < b.epoch ∨ (a.epoch = b.epoch ∧ (a.loads < b.loads ∨ (a.loads = b.loads ∧ a.time < b.time))))

/-- The entry of the reorder buffer written next: earliest TIME, earlier submission first (R446). -/
def nextEntry (s : State) : Option (LogEnt × Nat) :=
  match s.log.buffer with
  | [] => none
  | x :: xs => some (xs.foldl (fun b y => if goesBefore y.1 b.1 then y else b) x)

/-- Write the next entry of the reorder buffer. -/
def writeNext (s : State) : State :=
  match nextEntry s with
  | none => s
  | some x => appendEntry x.1 { s with log := { s.log with buffer := s.log.buffer.erase x } }

/-- The hold time of the reorder buffer in steps (R459). -/
def logHold (s : State) : Nat := held 1000 (rdf s (rk .evr 0 0x060) 16 10) * usec

/-- An entry is submitted (R446); while PD_CORE is off the Valley writer appends it directly (R505). -/
def submitEntry (e : LogEnt) (s : State) : State :=
  if e.valley && !(coreUp s) then appendEntry e s
  else
    let s := if 64 ≤ s.log.buffer.length && !s.log.replay && !s.valley.por then writeNext s else s
    { s with log := { s.log with buffer := s.log.buffer ++ [(e, s.now)] } }

/-- The MARK RTC_SET of a write (R447, R504), submitted at once: on RTC time it stands first after the load, with the time
loaded. -/
def rtcSetMark (old new : Nat) (s : State) : State :=
  let m := markEntry 5 (timeWords old) (stampEntry 2 5 [] s)
  submitEntry (if m.rtc then { m with time := new, loads := m.loads + 1 } else m) s

/-- The writer of an entry: its page. -/
def logWriter (e : LogEnt) : Nat := e.page

/-- The entry submitted next: the oldest stamped one of a writer. Writers submit in no stated order among themselves, so
where several wait a free value says which comes first (R446). -/
def nextSubmit (s : State) : Option LogEnt × State :=
  match s.log.stamped with
  | [] => (none, s)
  | e :: es =>
    let ws := (e :: es).map logWriter
    if ws.all (· = logWriter e) then (some e, s) else
    let (f, s) := draw s
    let rs := ws.eraseDups
    let w := rs.getD (f.toNat % rs.length) (logWriter e)
    ((e :: es).find? fun x => decide (logWriter x = w), s)

/-- A stamped entry is submitted; none is while PD_VALLEY is in its own reset (R446, R502). -/
def submitLog (s : State) : State :=
  if s.valley.por then s else
  match nextSubmit s with
  | (none, s) => s
  | (some e, s) => submitEntry e { s with log := { s.log with stamped := s.log.stamped.erase e } }

/-- A software entry, stamped and submitted by the write of GO (R459). -/
def goLog (code : Nat) (s : State) : State :=
  submitEntry (stampEntry 2 code ((List.range 3).map fun i => rd s (rk .evr 0 (0x080 + 4 * i))) s) s

/-- Empty the log (R450). -/
def emptyLog (s : State) : State :=
  { s with log := { s.log with entries := [], head := 0, count := 0, full := false, started := false, baseRtc := false } }

/-- PD_CORE is about to go off: it leaves STOP_FULL to the Valley writer (R505). -/
def keepStopFull (s : State) : State := { s with log := { s.log with stopKept := stopFull s } }

/-- PD_CORE goes off: what its writers and the reorder buffer hold is gone, and the Valley writer goes on on RTC time, with a
MARK TO_RTC where the last entry was on Datum time (R447, R505). -/
def logToValley (s : State) : State :=
  let s := if datumValid s && coreUp s then baseTurn false s else s
  let g := s.log
  { s with log := { g with stamped := g.stamped.filter (·.valley), buffer := [],
                           lastEpoch := (if g.baseRtc then g.epoch else g.lastEpoch) } }

/-- The Valley writer's first MARK (R505), with the energy gate of R506. -/
def valleyMark (s : State) : State :=
  if !s.log.started || s.log.baseRtc || s.valley.por then s
  else if !(logGate s) then dropEntry false s
  else putMark (markEntry 1 (timeWords s.log.lastDatum) (stampEntry 2 1 [] s)) s

/-- A SEQ is newer than another, modulo 2^32. -/
def seqNewer (a b : Nat) : Bool := decide (0 < (a + 2 ^ 32 - b) % 2 ^ 32 ∧ (a + 2 ^ 32 - b) % 2 ^ 32 < 2 ^ 31)

/-- The replay of the log (R449): HEAD after the newest entry that passes, BAD_CNT, and MARK BOOT due. -/
def replayLog (s : State) : State :=
  let good := s.log.entries.filter fun e => entryOk e.2
  let bad := s.log.entries.length - good.length
  let newest := good.foldl (fun (b : Option (Nat × Nat)) e =>
    let q := (e.2.getD 0 0).toNat
    match b with
    | none => some (e.1, q)
    | some (i, p) => if seqNewer q p then some (e.1, q) else some (i, p)) none
  let (head, seq) := match newest with
    | some (i, q) => ((i + 1) % 4096, (q + 1) % 2 ^ 32)
    | none => (0, s.log.seq)
  let s := { s with log := { s.log with head := head, seq := seq, bad := bad, replay := false, bootMark := true, started := false } }
  if bad = 0 then s else raiseEvr 5 s

/-! Meanings -/

/-- DELIVERY (R438, R440). -/
def execDelivery (n : Fin 64) (s : State) : Host.Outcome State Fault Refusal :=
  .next (if fabricUp s then deliver n s else s)

/-- PROMOTION (R439): within 100 ns of the deadline; taken at the deadline. -/
def execPromotion (e : Fin 512) (s : State) : Host.Outcome State Fault Refusal :=
  .next (if fabricUp s then promote e s else s)

/-- DEADLINE_WRITE (R439): DL_LOW, DL_NORMAL or DL_HIGH. -/
def execDeadlineWrite (m : Master) (i : Fin 3) (v : BitVec 16) (s : State) : Host.Outcome State Fault Refusal :=
  .next (
    let k := rk .evr 0 (0x040 + 4 * i)
    byBus m .evr 0 (0x040 + 4 * i) (fun s => rwlPath m k true (plainWrite k (wNat v.toNat)) s) s)

/-- REC0_READ (R441). -/
def execRec0Read (m : Master) (n : Fin 64) (s : State) : Host.Outcome State Fault Refusal :=
  .next (readAt m .evr 0 (0x408 + 16 * n) (readRec0 n) s)

/-- SW_RAISE (R443). -/
def execSwRaise (m : Master) (v : Byte) (s : State) : Host.Outcome State Fault Refusal :=
  .next (byBus m .evr 0 0x054 (fun s => forEach (setBits (wNat v.toNat) 8) (fun j s => occur (504 + j) s) s) s)

/-- LOG_SUBMIT (R446). -/
def execLogSubmit (s : State) : Host.Outcome State Fault Refusal := .next (submitLog s)

/-- GO_LOG (R459): a software entry, stamped at the write. -/
def execGoLog (m : Master) (code : Byte) (s : State) : Host.Outcome State Fault Refusal :=
  .next (byBus m .evr 0 0x08C (goLog code.toNat) s)

/-- LOG_WRITE (R446): the hold time of an entry ends, or the buffer is full. -/
def execLogWrite (s : State) : Host.Outcome State Fault Refusal :=
  .next (
    if s.log.replay || s.valley.por then s else
    match s.log.buffer with
    | [] => s
    | x :: _ => writeNext (if 64 ≤ s.log.buffer.length then s else upto (x.2 + logHold s) s))

/-- LOG_DATA_READ (R449, R450): one word; the eighth advances LOG_IDX; LOG_RSTAT says whether the entry fails its check. -/
def execLogDataRead (m : Master) (s : State) : Host.Outcome State Fault Refusal :=
  .next (readAt m .evr 0 0x074 (fun s =>
    let k := rk .evr 0 0x070
    let i := rdf s k 0 12
    let ws := smGet (smConst (List.replicate 8 0)) s.log.entries i
    let w := s.log.rword
    let s := wrb (rk .evr 0 0x078) 0 (!(entryOk ws)) s
    let s := if w = 7 then wrf k 0 12 (i + 1) s else s
    respond (ws.getD w 0) { s with log := { s.log with rword := (w + 1) % 8 } }) s)

/-- Write 1 to LOG_STAT.FULL (R448): the log is emptied and a MARK BOOT written; nothing while PD_VALLEY is in its own
reset, which empties the log itself (R502). -/
def clearLogFull (s : State) : State :=
  if s.valley.por then s else
  let s := emptyLog s
  putEntry (markEntry 3 [wNat s.log.bad] (stampEntry 2 3 [] s)) s

/-- LOG_FULL_CLEAR (R448). -/
def execLogFullClear (m : Master) (s : State) : Host.Outcome State Fault Refusal :=
  .next (byBus m .evr 0 0x064 (fun s => clearLogFull s) s)

/-- REPLAY_DONE (R449). -/
def execReplayDone (s : State) : Host.Outcome State Fault Refusal :=
  .next (if s.log.replay && fabricUp s && !s.valley.por then replayLog s else s)

/-- Reset the router (R444): routes and counts come with the page's registers. -/
def routerReset (s : State) : State := { s with evr := { srcs := [], chans := [], reset := s.evr.reset } }

end Sys2Proof.Machine
end

