-- ==== Sys2Proof/Machine/Valley.lean ====
section
/-! DEFINITION. The Valley domain (R496 to R512): samples, VPG, the energy-budget gate and the real-time clock. -/

namespace Sys2Proof.Machine

/-- Key of a VALLEY register (R510). -/
def valKey (off : Nat) : Nat := rk .valley 0 off
/-- Change the Valley domain. -/
def onVal (f : Valley → Valley) (s : State) : State := { s with valley := f s.valley }
/-- Raise a cause of the VALLEY page. -/
def raiseVal (k : Nat) (s : State) : State := raise .valley 0 k s

/-- E(Vf) in µJ (R507), with Vf in mV. -/
def storeEnergy (s : State) (vf : Nat) : Nat :=
  let v := s.valley.vstore
  rdf s (valKey 0x044) 0 24 * (v * v - vf * vf) / 2000000

/-- Energy of the standing grants (R507). -/
def granted (s : State) : Nat := (s.valley.grantUpd.map (·.uj)).getD 0 + (s.valley.grantSw.map (·.uj)).getD 0

/-- The budget B (R507), 0 where it would be negative. -/
def budget (s : State) : Nat := storeEnergy s 2200 - rdf s (valKey 0x048) 0 24 - granted s

/-- A request is admitted (R507). -/
def admits (s : State) (uj : Nat) : Bool := s.valley.vpg && decide (uj ≤ budget s)

/-- A request is refused (R507). -/
def refuseBurst (s : State) : State :=
  let s := onVal (fun v => { v with refused := held 0xFFFF (v.refused + 1) }) s
  logHap (pageNo .valley 0) (raiseVal 2 s)

/-- Decide the requests of a sample: update, then software (R508). -/
def decideBursts (s : State) : State :=
  let now := s.now
  let s := match s.valley.reqUpd with
    | none => s
    | some r =>
      let s' := onVal (fun v => { v with reqUpd := none }) s
      if admits s r then onVal (fun v => { v with grantUpd := some { uj := r, since := now } }) s' else refuseBurst s'
  match s.valley.reqSw with
  | none => s
  | some r =>
    let s' := onVal (fun v => { v with reqSw := none }) s
    if admits s r then onVal (fun v => { v with grantSw := some { uj := r, since := now }, burst := 1, timedOut := false }) s'
    else refuseBurst (onVal (fun v => { v with burst := 2 }) s')

/-- VMAX in mV (R511). -/
def vmax (s : State) : Nat := 3000 + 20 * rdf s (valKey 0x040) 8 8

/-- The charger delivers while VDD_IO is up, CHG_EN is 1 and the newest sample left room (R499). -/
def chargerOn (s : State) : Bool := bit s.pwr.supply 3 && rdb s (valKey 0x040) 1 && s.valley.room

/-- What follows from CFG and VDD_IO at once: DISABLED with HV_EN 0, the way back, and the charger (R498, R499). -/
def setChargers (s : State) : State :=
  if s.valley.por then s else
  let chg := chargerOn s
  let hv := if !(rdb s (valKey 0x040) 0) then 3 else if s.valley.hv ≠ 3 then s.valley.hv else if s.valley.room then 1 else 2
  onVal (fun x => { x with hv := hv, chg := chg }) s

/-- The harvester and the charger at a sample (R498 to R500). -/
def chargers (s : State) : State :=
  let v := s.valley.vstore
  let top := vmax s
  let hv := if top ≤ v then 2 else if s.valley.hv = 2 then (if v + 50 < top then 1 else 2) else if s.valley.hv = 3 then 3 else 1
  setChargers (onVal (fun x => { x with hv := (if x.hv = 3 then 3 else hv), room := decide (v < top) }) s)

/-- VPG at a sample (R501). -/
def vpgStep (s : State) : State :=
  let v := s.valley.vstore
  if s.valley.vpg then
    if v < 2200 then
      logHap (pageNo .valley 0) (raiseVal 1 (onVal (fun x => { x with vpg := false, vpgFalls := held 0xFFFF (x.vpgFalls + 1) }) s))
    else s
  else if 3300 ≤ v then logHap (pageNo .valley 0) (raiseVal 0 (onVal (fun x => { x with vpg := true }) s))
  else s

/-- A power-on reset of PD_VALLEY starts (R502). -/
def valleyReset (s : State) : State :=
  let s := dropPages (fun p => decide (p = pageFirst .valley)) (emptyLog s)
  let s := if s.fb.staging.isEmpty then s else raise .plumb 0 9 s
  let at' := s.valley.sampleAt
  { s with valley := { por := true, vbor := false, sampleAt := at' },
           fb := { s.fb with staging := [] },
           log := { s.log with stamped := s.log.stamped.filter (fun e => !e.valley), bootMark := true },
           pwr := { s.pwr with cause := 0 } }

/-- A sample of the store, in mV, resolved to 10 mV (R500 to R502). -/
def valleySample (mv : Nat) (s : State) : State :=
  let at' := s.valley.sampleAt
  let s := upto at' s
  let next := nextDue at' (16 * msec) s.now
  let s := onVal (fun v => { v with sampleAt := next, vstore := mv / 10 * 10 }) s
  if s.valley.por then s
  else if s.valley.vstore < 1800 then valleyReset s
  else decideBursts (vpgStep (chargers s))

/-- The power-on reset of PD_VALLEY ends (R497, R502); a source of R477 that is active sets its bit (R478), and the entries that
wait in Plumb are placed (R408). -/
def valleyPorEnd (s : State) : State :=
  if !s.valley.por then s else
  let now := s.now
  let on := s.pwr.reset.isSome
  let n := rtcLoads s + 1
  let c := setBit (setBit (setBit s.pwr.cause 0 (on && s.pwr.porst)) 1 (on && s.pwr.supply &&& 0xF ≠ 0xF)) 2 (on && s.pwr.sysrst)
  let s := { s with pwr := { s.pwr with cause := c }, log := { s.log with loads := n } }
  let s := onVal (fun v => { v with por := false, vbor := true, hv := 1, rtcBase := 0, rtcAt := now, rtcLoad := none,
                                    ocAt := now + 16 * secs, ocEnd := now, sampleAt := now + 16 * msec }) s
  placeWaiting 64 (setChargers s)

/-- The instant of the `n`-th RTC tick after a start: the first step at which it has come. -/
def rtcTickAt (t n : Nat) : Nat := t + (n * secs + 32767) / 32768
/-- RTC ticks since the count began. -/
def rtcTicks (s : State) : Nat := (s.now - (rtcStart s).1) * 32768 / secs
/-- The instant of the RTC tick that came last, and the count at it. -/
def rtcTick (s : State) : Nat × Nat := (rtcTickAt (rtcStart s).1 (rtcTicks s), rtcNow s)

/-- Keep the count while its rate changes; a load yet to come stays. -/
def rtcRebase (s : State) : State :=
  let (t, c) := rtcTick s
  let n := rtcLoads s
  onVal (fun v => { v with rtcBase := c, rtcAt := t, rtcLoad := v.rtcLoad.filter fun l => decide (s.now < l.1) })
    { s with log := { s.log with loads := n } }

/-- Load the RTC at the next tick; the MARK RTC_SET is submitted at once, with the old RTC time (R447, R504). -/
def rtcSet (s : State) : State :=
  let old := rtcNow s
  let new := (rd s (valKey 0x078)).toNat + (rd s (valKey 0x07C)).toNat * 2 ^ 32
  let next := rtcTickAt (rtcStart s).1 (rtcTicks s + 1)
  rtcSetMark old new (onVal (fun v => { v with rtcLoad := some (next, new), rtcValid := true }) (rtcRebase s))

/-- Write VALLEY.CTL (R504, R507, R508): a request of software while its last one waits or stands granted is refused. -/
def writeValCtl (m : Master) (v : Word) (s : State) : State :=
  let s := if bit v 0 then bookAction 1 (pageNo .valley 0) 0x088 (masterNo m) 0 1 (rtcSet s) else s
  let s := if !(bit v 1) then s
    else if s.valley.grantSw.isSome || s.valley.reqSw.isSome then refuseBurst s
    else
      let r := rdf s (valKey 0x05C) 0 24
      onVal (fun x => { x with reqSw := some r }) s
  if bit v 2 && s.valley.grantSw.isSome then onVal (fun x => { x with grantSw := none, burst := 0 }) s else s

/-- Write the VALLEY page (R510, R511). -/
def writeValley (m : Master) (off : Nat) (v : Word) (s : State) : State :=
  let k := valKey off
  if off = 0x040 then
    let good := decide (30 ≤ fld v 8 8 ∧ fld v 8 8 ≤ 110)
    let w := if good then v else setFld v 8 8 (rdf s k 8 8)
    rwlPath m k true (fun s => let s := setChargers (plainWrite k w s); if good then s else raiseVal 6 s) s
  else if off = 0x080 then rwlPath m k true (fun s => plainWrite k v (rtcRebase s)) s
  else if off = 0x044 || off = 0x048 || off = 0x078 || off = 0x07C then rwlPath m k true (plainWrite k v) s
  else if off = 0x04C then (if bit v 5 then onVal (fun x => { x with vbor := false }) s else s)
  else if off = 0x088 then writeValCtl m v s
  else plainWrite k v s

/-- VALLEY.STAT (R511). -/
def valleyStat (s : State) : Word :=
  let v := s.valley
  setBit (setBit (setBit (setBit (wNat v.hv) 2 v.vpg) 3 v.chg) 4 v.holdup) 5 v.vbor

/-! Meanings -/

/-- VALLEY_POR_END (R497, R502). -/
def execValleyPorEnd (s : State) : Host.Outcome State Fault Refusal := .next (valleyPorEnd s)

/-- OPEN_CIRCUIT_MEASURE (R498). -/
def execOpenCircuitMeasure (mv : BitVec 12) (s : State) : Host.Outcome State Fault Refusal :=
  .next (
    if s.valley.por || s.valley.hv ≠ 1 then s else
    let at' := s.valley.ocAt
    let s := upto at' s
    let next := nextDue at' (16 * secs) s.now
    onVal (fun v => { v with hvOc := mv.toNat, ocAt := next, ocEnd := at' + 16 * msec }) s)

/-- VH_SW switches: in HARVEST, but for the 16 ms of an open-circuit measurement (R498). -/
def harvests (s : State) : Bool := !s.valley.por && s.valley.hv = 1 && decide (s.valley.ocEnd ≤ s.now)
/-- The voltage in 1/256 mV to which the harvester regulates VH_IN: RATIO of the open-circuit voltage (R498). -/
def harvestPoint (s : State) : Nat := s.valley.hvOc * rdf s (valKey 0x040) 16 8
/-- The current in mA that the charger draws from VDD_IO (R499, R511): CHG_I, 0 taken as 1. -/
def chargeCurrent (s : State) : Nat := if s.valley.chg then max 1 (rdf s (valKey 0x040) 4 4) else 0

/-- RTC_SET (R504). -/
def execRtcSet (m : Master) (s : State) : Host.Outcome State Fault Refusal :=
  .next (byBus m .valley 0 0x088 (fun s => writeValley m 0x088 1 s) s)

/-- RTC_LO_READ (R503): RTC_HI is captured. -/
def execRtcLoRead (m : Master) (s : State) : Host.Outcome State Fault Refusal :=
  .next (readAt m .valley 0 0x070 (fun s =>
    let t := rtcNow s
    respond (wNat t) (wr (valKey 0x074) (wNat (t / 2 ^ 32)) s)) s)

/-- XT_FAIL (R504). -/
def execXtFail (s : State) : Host.Outcome State Fault Refusal :=
  .next (
    if s.valley.por || s.valley.xtFail then s
    else logHap (pageNo .valley 0) (raiseVal 4 (onVal (fun v => { v with xtFail := true }) s)))

/-- XT_RECOVER (R504). -/
def execXtRecover (s : State) : Host.Outcome State Fault Refusal :=
  .next (if s.valley.por then s else onVal (fun v => { v with xtFail := false }) s)

/-- BURST_GO (R507): the request falls due at the next sample. -/
def execBurstGo (m : Master) (s : State) : Host.Outcome State Fault Refusal :=
  .next (byBus m .valley 0 0x088 (fun s => writeValley m 0x088 2 s) s)

/-- BURST_END (R508). -/
def execBurstEnd (m : Master) (s : State) : Host.Outcome State Fault Refusal :=
  .next (byBus m .valley 0 0x088 (fun s => writeValley m 0x088 4 s) s)

/-- BURST_TMO (R508). -/
def execBurstTmo (s : State) : Host.Outcome State Fault Refusal :=
  .next (
    match s.valley.grantSw with
    | none => s
    | some g =>
      let s := upto (g.since + secs) s
      raiseVal 3 (onVal (fun v => { v with grantSw := none, burst := 0, timedOut := true }) s))

end Sys2Proof.Machine
end

