-- ==== Sys2Proof/Machine/Upd.lean ====
section
/-! DEFINITION. Image updates and the hitless handover (R542 to R557), watchdogs (R518, R519), and the engine's global
swap as far as a handover hangs on it (R97, R99, R100). -/

namespace Sys2Proof.Machine

/-- Key of an UPD register (R555). -/
def updKey (off : Nat) : Nat := rk .upd 0 off
/-- Change the update function's state. -/
def onUpd (f : Upd → Upd) (s : State) : State := { s with upd := f s.upd }
/-- Raise a cause of the UPD page (R557). -/
def raiseUpd (k : Nat) (s : State) : State := raise .upd 0 k s
/-- The state changes: one trouble-log entry (R548). -/
def updTo (st : Nat) (s : State) : State := logHap (pageNo .upd 0) (onUpd (fun u => { u with st := st }) s)
/-- The state changes with a cause. -/
def updCause (st cause : Nat) (s : State) : State := updTo st (onUpd (fun u => { u with cause := cause }) s)

/-! Images (R542, R543) -/

/-- Address of an image bank (R522). -/
def bankBase (b : Nat) : Nat := nvBase + 0x01000000 * b
/-- Address of a settings slot (R522). -/
def slotBase (n : Nat) : Nat := nvBase + 0x02400000 + 0x80000 * n
/-- A word of an image. -/
def imgWord (s : State) (b o : Nat) : Nat := (memWord s (bankBase b + o)).toNat
/-- The head of an image matches IMAGE_CHECK. -/
def headOk (s : State) (b : Nat) : Bool :=
  nvClean s (bankBase b) 0x5000 && decide (crc32c (memBytes s (bankBase b) 0x4FFC) = memWord s (bankBase b + 0x4FFC))
/-- A block of an image matches its check; the head covers blocks 0 to 4. -/
def blockOk (s : State) (b k : Nat) : Bool :=
  if k < 5 then headOk s b
  else nvClean s (bankBase b + 0x1000 * k) 0x1000 &&
    decide (crc32c (memBytes s (bankBase b + 0x1000 * k) 0x1000) = memWord s (bankBase b + 0x100 + 4 * (k - 5)))
/-- LEN of an image lies in the range of R542. -/
def lenOk (n : Nat) : Bool := decide (n % 4096 = 0 ∧ 0x6000 ≤ n ∧ n ≤ 0x1000000)
/-- The bank that is not active. -/
def otherBank (s : State) : Nat := 1 - s.upd.boot.active
/-- An image is valid (R542, R546). -/
def imageValid (s : State) (b : Nat) : Bool :=
  decide (imgWord s b 0 = 0x494D5931) && !(s.upd.invalid && b = otherBank s) && lenOk (imgWord s b 0x0C) && headOk s b &&
    (List.range (imgWord s b 0x0C / 4096)).all fun k => decide (k < 5) || blockOk s b k

/-- The boot ROM chooses an image at the end of a reset (R543); the flag says that one was found. -/
def bootImage (s : State) : Bool × State :=
  let r := s.upd.boot
  let t := nvRead (bankBase r.active) 0x1000000 s
  if imageValid s r.active then (true, onUpd (fun u => { u with fallback := false }) t)
  else
    let t := nvRead (bankBase r.prev) 0x1000000 t
    if imageValid s r.prev && decide (r.floor ≤ imgWord s r.prev 8 % 65536) then
      (true, onUpd (fun u => { u with fallback := true }) t)
    else (false, t)

/-! The boot record (R544) -/

/-- BOOTREC (R556). -/
def bootWord (r : BootRec) : Word :=
  wNat (r.active + 2 * r.prev + 4 * r.slot + (if r.trial then 8 else 0) + 65536 * r.floor)

/-- The update function, while it has its supply, asks for a grant at the next Valley sample. -/
def askGrant (s : State) : State :=
  if s.upd.want.isNone || s.valley.grantUpd.isSome || !(live s .nvm) then s else
  let uj := rdf s (updKey 0x08C) 0 24
  { s with valley := { s.valley with reqUpd := some uj } }

/-- A change of the boot record is wanted. -/
def wantRecord (r : BootRec) (accept : Bool) (s : State) : State :=
  let now := s.now
  askGrant (onUpd (fun u => { u with want := some r, wantAt := now, accept := accept }) s)

/-- The TRIAL flag of the boot record is to change. -/
def wantTrial (on : Bool) (s : State) : State :=
  if s.upd.boot.trial = on && s.upd.want.isNone then s else wantRecord { s.upd.boot with trial := on } false s

/-! Delta packages (R545 to R547) -/

/-- Address of delta staging. -/
def pkgBase : Nat := nvBase + 0x02000000
/-- A word of the package. -/
def pkgWord (s : State) (o : Nat) : Nat := (memWord s (pkgBase + o)).toNat
/-- Length of a record's literal, padded. -/
def recLit (s : State) (o : Nat) : Nat := if pkgWord s o % 256 = 2 then (pkgWord s (o + 8) + 7) / 8 * 8 else 0
/-- Offsets of `n` records from offset `o`, and the offset after them. -/
def pkgRecs (s : State) : Nat → Nat → List Nat × Nat
  | 0, o => ([], o)
  | n + 1, o =>
    let r := pkgRecs s n (o + 20 + recLit s o)
    (o :: r.1, r.2)
/-- The records cover the target from an offset on, without a gap or an overlap. -/
def recsCover (s : State) : List Nat → Nat → Option Nat
  | [], d => some d
  | o :: os, d => if pkgWord s (o + 4) = d then recsCover s os (d + pkgWord s (o + 8)) else none

/-- APPLY is accepted (R546). -/
def applyOk (s : State) : Bool :=
  let len := pkgWord s 28
  let base := pkgWord s 4
  let ver := pkgWord s 12
  let act := imgWord s s.upd.boot.active 4
  let n := pkgWord s 24
  s.upd.st = 0 && decide (pkgWord s 0 = 0x494D5944) && decide (68 ≤ len ∧ len ≤ 0x400000) &&
    nvClean s pkgBase len && decide (crc32c (memBytes s pkgBase (len - 4)) = memWord s (pkgBase + len - 4)) &&
    decide (base = 0 ∨ base = imgWord s s.upd.boot.active 0x4FFC) && decide (s.upd.boot.floor ≤ pkgWord s 16 % 65536) &&
    decide (ver ≠ act ∧ (act < ver ∨ rdb s (updKey 0x040) 0)) && lenOk (pkgWord s 20) && decide (1 ≤ n ∧ n ≤ 65535) &&
    decide ((pkgRecs s n 64).2 = len - 4) && decide (recsCover s (pkgRecs s n 64).1 0 = some (pkgWord s 20)) &&
    (pkgRecs s n 64).1.all fun o =>
      let op := pkgWord s o % 256
      let pad := pkgWord s (o + 8)
      (memBytes s (pkgBase + o + 16 + pad) (recLit s o - pad)).all (· = 0) &&
      decide (op = 2 ∨ op = 3 ∨ (op = 1 ∧ base ≠ 0 ∧ pkgWord s (o + 12) + pkgWord s (o + 8) ≤ 0x1000000))

/-- The bytes a record gives. -/
def recBytes (s : State) (o : Nat) : List Byte :=
  let len := pkgWord s (o + 8)
  match pkgWord s o % 256 with
  | 1 => memBytes s (bankBase s.upd.boot.active + pkgWord s (o + 12)) len
  | 2 => memBytes s (pkgBase + o + 16) len
  | _ => List.replicate len 0#8

/-- REC_CHECK of a record holds. -/
def recOk (s : State) (o : Nat) : Bool :=
  let n := 16 + recLit s o
  nvClean s (pkgBase + o) (n + 4) && decide (crc32c (memBytes s (pkgBase + o) n) = memWord s (pkgBase + o + n))

/-- The old checks of a block of the target hold (R547): of each record whose last byte it uses, and of the blocks of the
active bank that feed it. -/
def blockSound (s : State) (os : List Nat) (k : Nat) : Bool :=
  os.all fun o =>
    let dst := pkgWord s (o + 4)
    let len := pkgWord s (o + 8)
    let src := pkgWord s (o + 12)
    let lo := max dst (4096 * k)
    let hi := min (dst + len) (4096 * k + 4096)
    let first := (src + lo - dst) / 4096
    (decide ((dst + len - 1) / 4096 ≠ k) || recOk s o) &&
      (pkgWord s o % 256 ≠ 1 || decide (hi ≤ lo) ||
        (List.range ((src + hi - dst - 1) / 4096 + 1 - first)).all fun i => blockOk s s.upd.boot.active (first + i))

/-- Records of the package. -/
def applyRecs (s : State) : List Nat := (pkgRecs s (pkgWord s 24) 64).1

/-- Blocks of the target that are written: all, or those up to the first with an old check that fails (R547). -/
def applyBlocks (s : State) : Nat :=
  let n := pkgWord s 20 / 4096
  ((List.range n).find? fun k => !(blockSound s (applyRecs s) k)).elim n (· + 1)

/-- Word writes of one block: its data, then its check in the block table; the head holds blocks 0 to 4 (R542, R547). -/
def blockWrites (b k : Nat) (bs : List Byte) : List (Nat × List Byte) :=
  let d := (bs.drop (0x1000 * k)).take 0x1000
  (List.range 512).map (fun i => (b + 0x1000 * k + 8 * i, (d.drop (8 * i)).take 8)) ++
    if k < 5 then [] else [(b + 0x100 + 4 * (k - 5), leBytes 4 (crc32c d).toNat)]

/-- The word writes of applying, as far as the blocks go (R547). -/
def applyPlan (s : State) : List (Nat × List Byte) :=
  let bs := (applyRecs s).flatMap (recBytes s)
  (List.range (applyBlocks s)).flatMap fun k => blockWrites (bankBase (otherBank s)) k bs

/-- Number of word writes of the first blocks. -/
def planLen (blocks : Nat) : Nat := 512 * blocks + (blocks - 5)

/-- Blocks written so far while applying (R556): each word takes 300 ns (R525). -/
def applyDone (s : State) : Nat :=
  let w := (s.now - s.upd.applyAt) / nvWordTime
  min (applyBlocks s) (if w < 2560 then w / 512 else 5 + (w - 2560) / 513)

/-- What applying reads of the NV store is reported (R523). -/
def applyReads (s : State) : State := nvRead (bankBase s.upd.boot.active) 0x1000000 (nvRead pkgBase 0x400000 s)

/-- Applying ends (R547): after the last block IMAGE_CHECK is written over the head, unless an old check failed. -/
def applyEnds (s : State) : State :=
  let fail := fun (cause : Nat) (s : State) => raiseUpd 1 (updCause 8 cause s)
  let n := applyBlocks s
  let good := (List.range n).all (blockSound s (applyRecs s))
  let want := pkgWord s 8
  let plan := applyPlan s
  let s := upto (s.upd.applyAt + (planLen n + (if good then 1 else 0)) * nvWordTime) (applyReads s)
  let s := wrf (updKey 0x04C) 0 16 n (forEach plan (fun e s => nvStore (some (5, s.upd.applyFor)) e.1 e.2 s) s)
  if !good then fail 1 s
  else
    let b := bankBase (otherBank s)
    let crc := crc32c (memBytes s b 0x4FFC)
    let s := nvStore (some (5, s.upd.applyFor)) (b + 0x4FFC) (leBytes 4 crc.toNat) s
    if crc.toNat = want then raiseUpd 0 (updCause 2 0 (onUpd (fun u => { u with invalid := false }) s))
    else fail 2 s

/-! Settings slots (R553) -/

/-- Bytes of a settings slot. -/
def slotSize : Nat := 0x80000
/-- Word writes of a commit: the source's bytes, and after them the slot check, where the slot has room for it (log entry
46). -/
def slotPlan (u : Upd) : List (Nat × List Byte) :=
  let n := u.slotBytes.length
  let bs := u.slotBytes ++ (if n + 4 ≤ slotSize then leBytes 4 (crc32c u.slotBytes).toNat else [])
  (List.range ((bs.length + 7) / 8)).map fun i => (slotBase u.slotNo + 8 * i, (bs.drop (8 * i)).take 8)
/-- Time of a commit of `n` bytes: 300 ns a word (R525, R553). -/
def slotTime (n : Nat) : Nat := (min (n + 4) slotSize + 7) / 8 * nvWordTime

/-- A commit's words are written: the slot check is formed over the written slot before the source is verified (R11, R553). The
result reaches SLOT_STAT unless a reset has passed meanwhile. -/
def slotWritten (s : State) : State :=
  let u := s.upd
  let s := forEach (slotPlan u) (fun e s => nvStore (some (5, u.slotFor)) e.1 e.2 s) s
  let good := !u.slotBad && decide (crc32c u.slotBytes = u.slotCrc)
  let s := onUpd (fun x => { x with slotEnd := none, slotBytes := [], slotBad := false,
                                    slotNew := (if x.st = 6 || x.accept then (if good then some u.slotNo else none) else x.slotNew) }) s
  if !(rdb s (updKey 0x088) 0) then s else
  let s := wrf (updKey 0x088) 4 1 u.slotNo (wrf (updKey 0x088) 0 3 (if good then 2 else 4) s)
  let dflt := good && decide ((u.slotBytes.getD 12 0).toNat % 2 = 1)
  onUpd (fun x => { x with defaulted := (if good then dflt else x.defaulted) }) s

/-- What the update function writes without a grant is cut off now: a slot copy and an APPLY (R526). The bank stays invalid. -/
def updCut (sure : Bool) (s : State) : State :=
  let u := s.upd
  let s := if u.slotEnd.isSome then cutWrites (5, u.slotFor) (slotPlan u) u.slotAt s.now sure s else s
  let s := if u.st = 1 then cutWrites (5, u.applyFor) (applyPlan s) u.applyAt s.now sure s else s
  onUpd (fun x => { x with st := (if x.st = 1 then 0 else x.st), slotEnd := none, slotBytes := [], slotBad := false }) s

/-! Handover (R549 to R552) and reversal (R554) -/

/-- The harts of the spare pair and of the run pair. -/
def spareHarts (s : State) : List Nat := [physHart s 2, physHart s 3]
/-- The harts of the run pair. -/
def runHarts (s : State) : List Nat := [physHart s 0, physHart s 1]

/-- A group's shadow is discarded, with the form a leg's shadow had in force (R18, R134). -/
def dropGroup (t : PageType) (n g : Nat) (s : State) : State :=
  let s := discardGroup t n g s
  if t = .pwmg && hasGroup t g then onLeg (8 * n + g) (fun x => { x with form := x.formAct }) s else s

/-- Groups that bus writes of these masters opened and nothing armed are discarded (R550). -/
def dropOpened (ms : List Nat) (s : State) : State :=
  let ks := s.grps.filter fun e => e.2.openAt.isSome && e.2.armed.isNone && (e.2.opener.any fun m => ms.contains m)
  forEach ks (fun e s =>
    match pageOf (e.1 / 8) with
    | some (t, n) => dropGroup t n (e.1 % 8) s
    | none => s) s

/-- Cycle HO_AT starts 10 ms from now or later (R549); a Datum time unit is 62.5 ps. -/
def farEnough (s : State) (number : Nat) : Bool := (untilCycle s number).any fun d => decide (160000000 ≤ d)

/-- Plumb permits a handover (R404, R556): not before its self-test has passed. -/
def updPermit (s : State) : Bool := decide (s.plumb.saddle = .normal) && s.plumb.selftest

/-- ARM is accepted (R549). -/
def armOk (s : State) : Bool :=
  let src := rdf s (updKey 0x068) 0 14
  let dst := rdf s (updKey 0x06C) 0 14
  let len := rdf s (updKey 0x070) 0 11
  s.upd.st = 4 && datumValid s && farEnough s (rd s (updKey 0x064)).toNat &&
    s.eng.global = .none && !((List.range 32).any (swapPends s)) && updPermit s && s.pair.st ≠ 3 &&
    decide (src + len ≤ 0x4000 ∧ dst + len ≤ 0x4000 ∧ len ≤ 1024) && decide (len = 0 ∨ src + len ≤ dst ∨ dst + len ≤ src)

/-- An accepted ARM (R549). -/
def armHandover (s : State) : State :=
  let at' := rd s (updKey 0x064)
  let src := rdf s (updKey 0x068) 0 14
  let dst := rdf s (updKey 0x06C) 0 14
  let len := rdf s (updKey 0x070) 0 11
  let s := onUpd (fun u => { u with hoAt := at'.toNat, hoSrc := src, hoDst := dst, hoLen := len }) s
  let s := requestSwapAll (wrb (engcKey 0x040) 1 true (wr (engcKey 0x044) at' s))
  wantTrial true (updCause 5 0 s)

/-- The handover is withdrawn (R551). -/
def withdraw (cause : Nat) (s : State) : State :=
  if s.upd.st ≠ 5 then s else
  let s := { s with eng := { s.eng with global := .none } }
  wantTrial false (raiseUpd 6 (updCause 4 cause s))

/-- The swap a handover waits for has been refused (R99, R551). -/
def swapGone (s : State) : State := if s.upd.st = 5 ∧ s.eng.global = .none then withdraw 8 s else s

/-- The handover boundary passes (R550). -/
def handover (s : State) : State :=
  let former := runHarts s
  let now := s.now
  let a := sramBase + 256 * s.upd.hoSrc
  let n := 256 * s.upd.hoLen
  let bs := memBytes s a n
  let bad := !(sramBad s a n).isEmpty
  let banks := (List.range 32).map fun n => (lane s n).active
  let s := sramCheck a n s
  let s := dropOpened former (invertRole s)
  updTo 6 (onUpd (fun u => { u with former := former, trialAt := now, capture := bs, captureBad := bad, handed := false, roleDone := false,
                                    slotNew := none, banks := banks }) s)

/-- Every lane that is not on the bank it had before the handover returns to it: at once where it is disabled, has no
boundaries or its boundary coincides, and at its next boundary otherwise; swaps that wait are dropped (R554). -/
def swapBack (onDatum : Bool) (s : State) : State :=
  let now := s.now
  let banks := s.upd.banks
  forEach (List.range 32) (fun n s =>
    let d := laneDom s n
    if (lane s n).active = banks.getD n (lane s n).active then s
    else if !(laneOn s n) || !(domRuns s d) || (onDatum && coincided s d) then doSwap n s
    else onLane n (fun x => { x with dueSwap := some now }) s) (cancelSwaps s)

/-- The reversal takes place (R554). -/
def reverse (onDatum : Bool) (s : State) : State :=
  if s.upd.st ≠ 7 then s else
  let done := s.upd.roleDone
  let new := (List.range 4).filter fun h => !(s.upd.former.contains h)
  let s := if done then s else resetHarts new false (invertRole s)
  let s := incHeld (updKey 0x090) 16 16 (swapBack onDatum s)
  let s := updTo 2 (onUpd (fun u => { u with former := [], capture := [], handed := false, roleDone := false, banks := [] }) s)
  raiseUpd 5 (wantTrial false s)

/-- The change of the boot record that is wanted is given up, and with it its grant (R508). -/
def dropWant (s : State) : State :=
  onVal (fun v => { v with reqUpd := none, grantUpd := none }) (onUpd (fun u => { u with want := none, accept := false }) s)

/-- A reversal condition holds in TRIAL (R554): while Datum is not valid it is made at once, lane by lane. -/
def startReversal (cause : Nat) (roleDone : Bool) (s : State) : State :=
  let s := dropWant s
  let s := updCause 7 cause (onUpd (fun u => { u with roleDone := roleDone }) s)
  if datumValid s then s else reverse false s

/-- What a Datum cycle boundary does to an update, with the number of the cycle that starts (R550, R551, R554). -/
def updBoundary (number : Nat) (s : State) : State :=
  if s.upd.st = 7 then reverse (datumValid s) s
  else if s.upd.st = 5 ∧ s.upd.hoAt = number % 2 ^ 32 then
    if !(datumValid s) then withdraw 4 (refuseAll 2 s)
    else if s.plumb.saddle ≠ .normal then withdraw 5 s
    else if s.pair.st = 3 then withdraw 6 s
    else if s.eng.global ≠ .ready then withdraw 8 (onlyIf (s.eng.global = .checking) (refuseAll 3) s)
    else handover s
  else s

/-- A boundary of any domain: a reversal that waits for a Datum that is no longer valid is made (R554). -/
def updPeriod (s : State) : State := if s.upd.st = 7 && !(datumValid s) then reverse false s else s

/-- Plumb's permission ends where Saddle mode begins (R551). -/
def updSaddle (s : State) : State := if s.plumb.saddle = .normal then s else withdraw 5 s

/-- An accepted ACCEPT has changed the boot record (R553). -/
def acceptDone (s : State) : State :=
  let hs := s.upd.former
  let s := resetHarts hs false (onUpd (fun u => { u with former := [], capture := [], handed := false, banks := [] }) s)
  raiseUpd 4 (incHeld (updKey 0x090) 0 16 (updCause 0 0 s))

/-! Commands of UPD.CTL -/

/-- A command is refused. -/
def updRefuse (s : State) : State := raiseUpd 7 s

/-- The hart that asks for what the update function then does (R528). -/
def askedBy (m : Master) : Option Nat := if masterNo m < 4 then some (masterNo m) else none

/-- CTL.APPLY (R546): the staged package is checked and applied, or the command is refused. -/
def updApply (m : Master) (s : State) : State :=
  let s := if s.upd.st = 0 then nvFlush 16 s else s
  if !(applyOk s) then updRefuse s else
  let now := s.now
  let blocks := pkgWord s 20 / 4096
  let s := wr (updKey 0x04C) (wNat (65536 * blocks)) s
  updCause 1 0 (onUpd (fun u => { u with invalid := true, applyAt := now, applyFor := askedBy m }) s)

/-- CTL.BOOT (R548). -/
def updBoot (s : State) : State :=
  if s.upd.st ≠ 2 then updRefuse s else resetHarts (spareHarts s) true (updCause 3 0 s)

/-- CTL.READY, from the spare pair (R548). -/
def updReady (m : Master) (s : State) : State :=
  if s.upd.st ≠ 3 || !((spareHarts s).contains (masterNo m)) then updRefuse s else raiseUpd 2 (updTo 4 s)

/-- CTL.ARM (R549). -/
def updArm (s : State) : State := if armOk s then armHandover s else updRefuse s

/-- CTL.ACCEPT in TRIAL, from the run pair (R553). -/
def updAccept (m : Master) (s : State) : State :=
  if s.upd.st ≠ 6 || !((runHarts s).contains (masterNo m)) || s.upd.accept then updRefuse s
  else if s.upd.defaulted && !(rdb s (updKey 0x040) 1) then startReversal 10 false (updRefuse s)
  else
    let r := s.upd.boot
    let new := otherBank s
    wantRecord { active := new, prev := r.active, slot := r.slot, trial := false,
                 floor := max r.floor (imgWord s new 8 % 65536) } true s

/-- CTL.REJECT in TRIAL (R554); an ACCEPT that has been accepted comes first (R548). -/
def updReject (s : State) : State := if s.upd.st = 6 && !s.upd.accept then startReversal 11 false s else updRefuse s

/-- CTL.ABORT (R551). -/
def updAbort (s : State) : State :=
  if s.upd.st = 5 then withdraw 7 s
  else if s.upd.st = 3 || s.upd.st = 4 then resetHarts (spareHarts s) false (updCause 2 7 s)
  else updRefuse s

/-- CTL.CLEAR (R548). -/
def updClear (s : State) : State := if s.upd.st = 8 then updCause 0 0 s else updRefuse s

/-- Write UPD.CTL (R546 to R554, R556): the commands of one write act in the order of R548's table, in which ABORT of a handover
that is armed already follows ARM. -/
def writeUpdCtl (m : Master) (v : Word) (s : State) : State :=
  let s := onlyIf (bit v 0) (updApply m) s
  let s := onlyIf (bit v 1) updBoot s
  let s := onlyIf (bit v 2) (updReady m) s
  let armed := decide (s.upd.st = 5)
  let s := onlyIf (bit v 6 && !armed) updAbort s
  let s := onlyIf (bit v 3) updArm s
  let s := onlyIf (bit v 6 && armed) updAbort s
  let s := onlyIf (bit v 4) (updAccept m) s
  let s := onlyIf (bit v 5) updReject s
  onlyIf (bit v 7) updClear s

/-- Write SLOT_CMD (R553). -/
def writeSlotCmd (m : Master) (v : Word) (s : State) : State :=
  if !(bit v 0) then s else
  let src := rdf s (updKey 0x078) 0 22
  let len := rdf s (updKey 0x07C) 0 20
  if s.upd.slotEnd.isSome || !(decide (32 ≤ len ∧ len ≤ 524288 ∧ src + len ≤ 0x400000)) then updRefuse s else
  let now := s.now
  let bs := memBytes s (sramBase + src) len
  let bad := !(sramBad s (sramBase + src) len).isEmpty
  let crc := rd s (updKey 0x080)
  let s := sramCheck (sramBase + src) len s
  onUpd (fun u => { u with slotAt := now, slotFor := askedBy m, slotEnd := some (now + slotTime len), slotNo := 1 - u.boot.slot, slotBytes := bs,
                           slotBad := bad, slotCrc := crc })
    (wrf (updKey 0x088) 0 3 1 s)

/-- Write a register of the page that is not RWL. -/
def writeUpd (m : Master) (off : Nat) (v : Word) (s : State) : State :=
  if off = 0x044 then writeUpdCtl m v s
  else if off = 0x084 then writeSlotCmd m v s
  else plainWrite (updKey off) v s

/-- STAT (R556). -/
def updStat (s : State) : Word :=
  let u := s.upd
  wNat (u.st + 256 * u.cause + (if u.defaulted then 4096 else 0) + (if u.fallback then 8192 else 0) +
    (if updPermit s then 16384 else 0))

/-- Registers of the page that mirror state (R555). -/
def readUpd (s : State) (off : Nat) : Option Word :=
  let a := s.upd.boot.active
  let b := otherBank s
  match off with
  | 0x00C => some (updStat s &&& 0xFF#32)
  | 0x048 => some (updStat s)
  | 0x04C => if s.upd.st = 1 then some (setFld (rd s (updKey 0x04C)) 0 16 (applyDone s)) else none
  | 0x050 => some (memWord s (bankBase a + 4))
  | 0x054 => some (memWord s (bankBase b + 4))
  | 0x058 => some (wNat (s.upd.boot.floor + 65536 * (imgWord s b 8 % 65536)))
  | 0x05C => some (memWord s (bankBase a + 0x4FFC))
  | 0x060 => some (memWord s (bankBase b + 0x4FFC))
  | 0x098 => some (bootWord s.upd.boot)
  | _ => none

/-- Write ENGC.CTRL: a cancelled swap withdraws an armed handover (R100, R551). -/
def engcCtl (v : Word) (s : State) : State :=
  let s := if bit v 2 then withdraw 7 s else s
  writeEngcCtrl v s

/-! Watchdogs (R518, R519) -/

/-- A hart's watchdog expires. -/
def wdtExpires (h : Nat) (s : State) : State :=
  if (spareHarts s).contains h then
    let s := raisePmc 3 (resetHarts (spareHarts s) false s)
    if s.upd.st = 3 ∨ s.upd.st = 4 then updCause 2 13 s else s
  else
    let hs := runHarts s
    let trial := decide (s.upd.st = 6)
    let fail := rdb s (pmcKey 0x048) 16
    let s :=
      if fail then logHap (pageNo .pmc 0) (raisePmc 2 (incHeld (pmcKey 0x044) 8 8 (invertRole (resetHarts hs false s))))
      else raisePmc 3 (resetHarts hs false s)
    if trial then startReversal 13 fail s else s

/-- The update function at a reset (R509, R526, R554): a reset in TRIAL is recorded; a change of the boot record that holds its
grant is still made, and another is given up; under hold-up a slot copy goes on, and otherwise it stops, as APPLY does, after
the word under way. -/
def updReset (s : State) : State :=
  let u := s.upd
  let made := u.want.isSome && s.valley.grantUpd.isSome
  let accepted := made && u.accept
  let again := s.pwr.reset.isSome && u.cause = 14
  let copies := s.valley.holdup && u.slotEnd.isSome
  let s := if copies then s else updCut true s
  let s := if made then s else dropWant s
  let s := { s with upd := { st := 0, cause := (if (u.st = 6 && !accepted) || again then 14 else 0), boot := u.boot,
                             invalid := u.invalid, want := (if made then u.want else none), wantAt := u.wantAt, accept := accepted,
                             slotNew := (if accepted then u.slotNew else none), slotBad := copies && u.slotBad,
                             slotAt := u.slotAt, slotFor := u.slotFor, slotEnd := (if copies then u.slotEnd else none), slotNo := u.slotNo,
                             slotBytes := (if copies then u.slotBytes else []), slotCrc := u.slotCrc } }
  onVal (fun v => { v with reqUpd := none }) (if !made && (u.st = 6 || u.boot.trial) then wantTrial false s else s)

/-! Meanings -/

/-- WATCHDOG_EXPIRY (R518, R519). -/
def execWatchdogExpiry (h : Fin 4) (s : State) : Host.Outcome State Fault Refusal :=
  .next (
    match (hart s h.val).wdt with
    | none => s
    | some t => if fabricUp s then wdtExpires h.val (upto t s) else s)

/-- NV_WRITE (R525, R545). -/
def execNvWrite (m : Master) (a : Nat) (bytes : List Byte) (s : State) : Host.Outcome State Fault Refusal :=
  .next (
    let s := pmcAccess (masterNo m, none) true a false s
    if a < nvBase ∨ nvBase + nvSize ≤ a then busError s
    else nvBusWrite m none a bytes (decide (s.upd.st = 0 ∧ pkgBase ≤ a ∧ a < pkgBase + 0x400000)) s)

/-- APPLY (R546). -/
def execApply (m : Master) (s : State) : Host.Outcome State Fault Refusal := .next (byBus m .upd 0 0x044 (writeUpdCtl m 0x01) s)

/-- APPLY_DONE (R547). -/
def execApplyDone (s : State) : Host.Outcome State Fault Refusal :=
  .next (if s.upd.st ≠ 1 || !(live s .nvm) then s else applyEnds s)

/-- BOOT (R548). -/
def execBoot (m : Master) (s : State) : Host.Outcome State Fault Refusal := .next (byBus m .upd 0 0x044 (writeUpdCtl m 0x02) s)

/-- READY (R548). -/
def execReady (m : Master) (s : State) : Host.Outcome State Fault Refusal := .next (byBus m .upd 0 0x044 (writeUpdCtl m 0x04) s)

/-- UPD_ARM (R549). -/
def execUpdArm (m : Master) (s : State) : Host.Outcome State Fault Refusal := .next (byBus m .upd 0 0x044 (writeUpdCtl m 0x08) s)

/-- HANDED (R552): the copy is made and checked; `ok` says that no uncorrectable error fell in either region. -/
def execHanded (ok : Bool) (s : State) : Host.Outcome State Fault Refusal :=
  .next (
    if s.upd.st ≠ 6 || s.upd.handed || !(live s .nvm) then s else
    let a := sramBase + 256 * s.upd.hoDst
    let s := sramWrite a s.upd.capture s
    let crc := crc32c (memBytes s a s.upd.capture.length)
    if ok && !s.upd.captureBad && crc = crc32c s.upd.capture then
      raiseUpd 3 (wr (updKey 0x074) crc (onUpd (fun u => { u with handed := true }) s))
    else startReversal 9 false s)

/-- ACCEPT (R553). -/
def execAccept (m : Master) (s : State) : Host.Outcome State Fault Refusal := .next (byBus m .upd 0 0x044 (writeUpdCtl m 0x10) s)

/-- REJECT (R554). -/
def execReject (m : Master) (s : State) : Host.Outcome State Fault Refusal := .next (byBus m .upd 0 0x044 (writeUpdCtl m 0x20) s)

/-- ABORT (R548, R551). -/
def execAbort (m : Master) (s : State) : Host.Outcome State Fault Refusal := .next (byBus m .upd 0 0x044 (writeUpdCtl m 0x40) s)

/-- UPD_CLEAR (R548). -/
def execUpdClear (m : Master) (s : State) : Host.Outcome State Fault Refusal := .next (byBus m .upd 0 0x044 (writeUpdCtl m 0x80) s)

/-- TRIAL_TIMEOUT (R554). -/
def execTrialTimeout (s : State) : Host.Outcome State Fault Refusal :=
  .next (
    if s.upd.st ≠ 6 || s.upd.accept || !(live s .nvm) then s
    else startReversal 12 false (upto (s.upd.trialAt + max 1 (rdf s (updKey 0x040) 16 16) * secs) s))

/-- The record as a change leaves it: an accepted ACCEPT names the slot committed in TRIAL (R553). -/
def newRecord (s : State) (r : BootRec) : BootRec :=
  if s.upd.accept then { r with slot := s.upd.slotNew.getD r.slot } else r

/-- A granted change of the boot record completes and is recorded in the field book (R544). A TRIAL flag that a reset has
overtaken is cleared again. -/
def bootrecChange (r : BootRec) (s : State) : State :=
  let r := newRecord s r
  let old := bootWord s.upd.boot
  let acc := s.upd.accept
  let s := dropWant (onUpd (fun u => { u with boot := r }) s)
  let s := bookAction 1 (pageNo .upd 0) 0x098 5 old (bootWord r) s
  if acc then acceptDone s
  else if r.trial && !(s.upd.st = 5 || s.upd.st = 6 || s.upd.st = 7) then wantTrial false s
  else s

/-- BOOTREC_CHANGE (R544): the NV store has its supply, or the hold-up path writes (R509); while a settings slot is still being
committed an accepted ACCEPT waits for it (log entry 46). -/
def execBootrecChange (s : State) : Host.Outcome State Fault Refusal :=
  .next (
    match s.upd.want with
    | none => s
    | some r =>
      if s.valley.grantUpd.isNone || !(live s .nvm || s.valley.holdup) || (s.upd.accept && s.upd.slotEnd.isSome) then s
      else bootrecChange r s)

/-- GRANT_GIVEUP (R544). -/
def execGrantGiveup (s : State) : Host.Outcome State Fault Refusal :=
  .next (
    if s.upd.want.isNone || s.valley.grantUpd.isSome || !(live s .nvm) then s else
    let s := upto (s.upd.wantAt + 10 * secs) s
    let s := onUpd (fun u => { u with want := none, accept := false, cause := 3 }) s
    { s with valley := { s.valley with reqUpd := none } })

/-- SLOT_COMMIT (R553). -/
def execSlotCommit (m : Master) (s : State) : Host.Outcome State Fault Refusal := .next (byBus m .upd 0 0x084 (writeSlotCmd m 1) s)

/-- SLOT_COMMIT_DONE (R553): 300 ns a word; the hold-up path finishes it (R509). -/
def execSlotCommitDone (s : State) : Host.Outcome State Fault Refusal :=
  .next (
    match s.upd.slotEnd with
    | none => s
    | some t => if live s .nvm || s.valley.holdup then slotWritten (upto t s) else s)

/-- SWAP_ALL (R99). -/
def execSwapAll (m : Master) (mode : Bool) (s : State) : Host.Outcome State Fault Refusal :=
  .next (byBus m .engc 0 0x040 (engcCtl (if mode then 3 else 1)) s)

/-- GLOBAL_VERIFIED (R97, R99). -/
def execGlobalVerified (s : State) : Host.Outcome State Fault Refusal :=
  .next (
    if !(live s .eng) || s.eng.global ≠ .checking then s else
    let s := upto s.eng.globEnd s
    let ls := globalLanes s
    let f := fun m => !(lane s m).active
    let gone := (s.datum.cycle + 2 ^ 32 - s.eng.globAt) % 2 ^ 32
    if !(ls.all (fun n => bankPasses s n (f n) && statesApart s f n)) then swapGone (refuseAll 1 s)
    else if s.eng.globMode && decide (gone < 2 ^ 31) then swapGone (refuseAll 3 s)
    else { s with eng := { s.eng with global := .ready } })

/-- CANCEL (R100). -/
def execCancel (m : Master) (mode : Bool) (s : State) : Host.Outcome State Fault Refusal :=
  .next (byBus m .engc 0 0x040 (engcCtl (if mode then 6 else 4)) s)

end Sys2Proof.Machine
end

