-- ==== Sys2Proof/Machine/Passes.lean ====
section
/-! DEFINITION. Passes of the Traverse engine: the input ports at pass start (R80, R81), the pass and its discard causes
(R86 to R93), OUT writes to shadows (R82, R94, R154, R184, R212), pass end and drain (R89, R90, R95). -/

namespace Sys2Proof.Machine

/-! Input ports (R81) -/

/-- A number of steps in seconds, to nearest. -/
def secsF (n : Nat) : Word := toF32 (fDiv (fInt n 0) (fInt secs 0))

/-- The age port of converter `c` for a pass of domain `d` (R29, R81). -/
def agePort (s : State) (d c : Nat) : Word :=
  let x := dom s d
  if adcBound s c d then secsF (x.next - x.start)
  else
    let e := (nextTick s d - s.clk.tick0) / tickLen
    secsF ((e + 2 ^ 32 - (adc s c).set.stamp.toNat % 2 ^ 32) % 2 ^ 32 * tickLen)

/-- SAT of the regular and injected results (R81). -/
def satPort (s : State) (c : Nat) : Word :=
  let r := (List.range 16).foldl (fun w i => setBit w i (bit (resultWord s c (rk .adc c (0x100 + 4 * i))) 16)) (0 : Word)
  (List.range 4).foldl (fun w i => setBit w (16 + i) (bit (resultWord s c (rk .adc c (0x150 + 4 * i))) 16)) r

/-- A sequence result scaled as an average is (R81). -/
def resultPort (s : State) (c off : Nat) : Word :=
  adcValue (256 * sfld (resultWord s c (rk .adc c off)) 0 16) (inForce s (rk .adc c 0x048)) (inForce s (rk .adc c 0x04C))

/-- The ports of converter `c` (R81). -/
def adcPort (s : State) (d c j : Nat) : Word :=
  let a := (adc s c).set
  match j with
  | 0 => a.value
  | 1 => setBit (setBit (setBit (setBit 0 0 a.valid) 1 a.sat) 2 a.hold) 3 a.err
  | 2 => wNat a.len
  | 3 => a.stamp
  | 4 => agePort s d c
  | _ => satPort s c

/-- The domain whose lanes read the ports of generator `g`: CDOM, or the islanding function's domain while it holds
generator 7 (R117, R231). -/
def portDom (s : State) (g : Nat) : Nat := if g = 7 ∧ s.isl.st ≠ 0 then islDom s else genDom s g

/-- The ports of generator `g`, for a lane of domain `d` (R117, R231). Ports +1 and +2 read 0.0 in sine mode too while the
generator is not settling or measuring.  DESIGN CHOICE (log entry 74). -/
def genPort (s : State) (d g j : Nat) : Word :=
  let y := gen s g
  let isl := decide (g = 7 ∧ s.isl.st ≠ 0)
  if portDom s g ≠ d then 0
  else if isl then
    match j with
    | 0 => s.isl.x
    | 3 => if s.isl.x = 0 then 0 else 2
    | _ => 0
  else
    let on := genActive s g
    let meas := decide (genState s g = 3)
    match j with
    | 0 => if on then y.x else 0
    | 1 => if on && genMode s g = 1 then y.sin else 0
    | 2 => if on && genMode s g = 1 then y.cos else 0
    | 3 => setBit (setBit (setBit 0 0 on) 1 meas) 2 (meas && y.since = 0)
    | _ => wNat y.since

/-- The pass's own ports 0x1700 to 0x1707 (R81); `w` is its window. -/
def passPort (s : State) (n d w j : Nat) : Word :=
  let x := dom s d
  let t := datumAt s x.start
  match j with
  | 0 => secsF (x.next - x.start)
  | 1 => toF32 (fDiv (fInt secs 0) (fInt ((x.next - x.start : Nat) : Int) 0))
  | 2 => rd s (laneKey n 0x0A0) + 1
  | 3 => wNat ((lastTick s d - s.clk.tick0) / tickLen)
  | 4 => if datumValid s then wNat t else 0
  | 5 => if datumValid s then wNat (t / 2 ^ 32) else 0
  | 6 => setBit (setBit (setBit (setBit 0 0 (datumValid s)) 1 (lockState s d = 3)) 2 (lane s n).active) 3 (lane s n).first
  | _ => wNat w

/-- The leg readback ports (R155). -/
def legPort (s : State) (p : Nat) : Word :=
  if 0x18C0 ≤ p then secsF (dom s (p - 0x18C0)).per
  else
    let l := (p - 0x1800) / 2
    if p % 2 = 0 then secsF (leg s l).ton
    else
      let r := legRank s l
      wNat ((if r ≤ 5 then 1 else 0) + (if (leg s l).ovlLast then 2 else 0) + (if outMode s l ≠ 0 then 4 else 0) + 16 * r)

/-- An input port as a pass of lane `n` in domain `d` latches it (R80, R81). -/
def passInput (s : State) (n d w p : Nat) : Word :=
  if p < 0x1100 then adcPort s d ((p - 0x1000) / 8) (p % 8)
  else if p < 0x1300 then resultPort s ((p - 0x1100) / 16) (0x100 + 4 * (p % 16))
  else if p < 0x1400 then resultPort s ((p - 0x1300) / 4) (0x150 + 4 * (p % 4))
  else if p < 0x1500 then gridPort s ((p - 0x1400) / 64) (p % 64)
  else if p < 0x1600 then mtrPort s ((p - 0x1500) / 64) (p % 64)
  else if p < 0x1700 then genPort s d ((p - 0x1600) / 8) (p % 8)
  else if p < 0x1800 then passPort s n d w (p - 0x1700)
  else if p < 0x1A00 then legPort s p
  else if p < 0x1A80 then railPort s ((p - 0x1A00) / 32) (p % 32)
  else if p < 0x1B00 then trkPort s ((p - 0x1A80) / 4) (p % 4)
  else smGet (smConst 0) s.eng.mail (p - 0x1B00)

/-- Generators whose ports a program names (R117). -/
def namesGen (prog : List Op) (g : Nat) : Bool :=
  let inGen : Nat → Bool := fun x => decide (0x1600 + 8 * g ≤ x ∧ x < 0x1608 + 8 * g)
  prog.any fun o =>
    match opRow o.opc with
    | some r => (r.a = .src && inGen o.a) || (r.b = .src && inGen o.b) || (r.c = .src && inGen o.c)
    | none => false

/-! The pass -/

/-- Tiles the lane's verifier reads, with whether each is a state tile (R87). -/
def passTiles (s : State) (n : Nat) : List (Nat × Bool) :=
  let b := (lane s n).active
  (progTiles s n b).map (·, false) ++ (List.range 16).flatMap fun i =>
    (if cValid s n b i then [(cTile s n b i, false)] else []) ++ (if sValid s n b i then [(sTile s n b i, true)] else [])

/-- The first tile of a pass that fails: the cycle at which its check ends, its cause and number (R87, R92). -/
def firstBad (s : State) : List (Nat × Bool) → Nat → Option (Nat × Nat × Nat)
  | [], _ => none
  | (t, st) :: ts, i =>
    if tilePasses s t then firstBad s ts (i + 1)
    else some (32 * (i + 1), (if st then 3 else 2), t)

/-- The earlier of two discard causes; the first stands where they coincide. -/
def earlier (a : Option PassDisc) (b : PassDisc) : Option PassDisc :=
  match a with
  | none => some b
  | some x => if b.when' < x.when' then some b else some x

/-- Start the pass of lane `n` (R80, R86 to R89): the boundary tick of the period is `tk`, its ticks `ticks`. -/
def startPass (n tk len : Nat) (s : State) : State :=
  let x := lane s n
  let d := laneDom s n
  let b := x.active
  let start := tk + 1200
  let w := 2 * len - 25
  let prog := bankProg s n b
  let env : PassEnv := { inp := passInput s n d w, cmap := cTile s n b, smap := sTile s n b, mem := tileWord s }
  let m := PassM.run env prog 0 {}
  let tiles := passTiles s n
  let e := max m.last (32 * tiles.length) + 2
  let disc := (firstBad s tiles 0).map fun f => ({ when' := start + f.1 * fabCyc, cause := f.2.1, tile := f.2.2, op := 0 } : PassDisc)
  let disc := match m.nan.bind fun i => m.outs.find? fun o => decide (o.idx = i) with
    | some o =>
      -- the lane stops issuing in cycle W (R89)
      if o.cycle < w then earlier disc { when' := start + o.cycle * fabCyc, cause := 4, tile := 0, op := o.idx } else disc
    | none => disc
  let outs := m.outs.map fun o => ({ when' := start + o.cycle * fabCyc, op := o.idx, port := o.port, val := o.val } : PassOut)
  let outs := outs.filter fun o => decide (o.when' < start + w * fabCyc)
  let p : Pass := { start := start, e := e, w := w, outs := outs, sts := m.sts, evts := m.evts, disc := disc }
  let s := forEach ((List.range 8).filter fun g => namesGen prog g && portDom s g ≠ d) (fun g s => genFlag g 16 s) s
  onLane n (fun x => { x with st := 2, first := false, pass := some p }) s

/-! OUT writes -/

/-- The commit group that an output port writes (R82). -/
def outGroup (p : Nat) : Option (PageType × Nat × Nat) :=
  if p < 0x2300 then let l := (p - 0x2000) / 8; some (.pwmg, l / 8, l % 8)
  else if p < 0x2400 then let m := (p - 0x2300) / 2; some (.cmp, m / 8, m % 8)
  else if p < 0x2440 then some (.grid, (p - 0x2400) / 16, 0)
  else none

/-- A finite value modulo 1, rounded to 2^-24 (R154). -/
def turn24 (v : Word) : Nat := ((fRoundAway (fScale 24 (fSub (f32 v) (fInt (fFloor (f32 v)) 0)))) % 2 ^ 24).toNat

/-- Volts as a monitor code (R178, R184). -/
def monCode (v : Word) : Nat := ((clampInt (-512) 511 (fRoundAway (fMul (f32 v) (fInt 250 0)))) % 1024).toNat

/-- A period in seconds as LEGi_PER; one that does not fit the register has no stated value there, and stays outside the
periods that R13 admits (log entry 41). -/
def perWord (v : Word) (s : State) : Word × State :=
  let n := fRoundAway (fMul (f32 v) (fInt secs 0))
  if 0 ≤ n ∧ n < 160 * 2 ^ 24 then (toTicks n.toNat, s) else let (w, s) := draw s; (w ||| 0x80000000#32, s)

/-- Put the value of an OUT into the shadow of its register (R154, R184, R212). -/
def outShadow (p : Nat) (v : Word) (s : State) : State :=
  if outFloat p && !(finF v) then s
  else if p < 0x2300 then
    let l := (p - 0x2000) / 8
    match p % 8 with
    | 0 => onLeg l (fun x => { x with form := true }) (wr (legKey l 0x10) v s)
    | 1 => wr (legKey l 0x20) (wNat (turn24 v)) s
    | 2 => let (w, s) := perWord v s; wr (legKey l 0x04) w s
    | _ => wrf (legKey l 0x28) 2 2 (fld v 0 2) s
  else if p < 0x2400 then
    let m := (p - 0x2300) / 2
    wrf (monKey m 0x04) (if p % 2 = 0 then 0 else 16) 10 (monCode v) s
  else wr (gridKey ((p - 0x2400) / 16) (0x0A0 + 4 * (p % 16))) v s

/-- Change the pass of a lane. -/
def onPass (n : Nat) (f : Pass → Pass) (s : State) : State := onLane n (fun x => { x with pass := x.pass.map f }) s

/-- One OUT of lane `n` issues (R82, R92, R94, R133). -/
def issueOut (n : Nat) (o : PassOut) (s : State) : State :=
  match outGroup o.port with
  | none => onPass n (fun p => { p with late := p.late ++ [(o.port, o.val)] }) s
  | some (t, q, g) =>
    let k := grpKey t q g
    let d := laneDom s n
    let per := (dom s d).k
    let fails : Nat → State := fun c =>
      onPass n (fun p => { p with disc := earlier p.disc { when' := o.when', cause := c, tile := 0, op := o.op } }) s
    if grpCdom s t q g ≠ d then fails 5
    else if (grp s k).owner.any (fun w => decide (w.1 ≠ n ∧ w.2 = per)) then fails 6
    else if o.port < 0x2300 && decide (o.port % 8 = 2) && pacer s d ≠ some ((o.port - 0x2000) / 8) then
      wrb (legKey ((o.port - 0x2000) / 8) 0x2C) 3 true s
    else
      let late := s.now
      let s := openGroup t q g { s with now := o.when' }
      let s := setGrp k { grp s k with owner := some (n, per) } s
      let s := outShadow o.port o.val (onPass n (fun p => { p with opened := (if p.opened.contains k then p.opened else p.opened ++ [k]) }) s)
      { s with now := late }

/-- Insert an OUT by its instant. -/
def insertOut (x : Nat × PassOut) : List (Nat × PassOut) → List (Nat × PassOut)
  | [] => [x]
  | y :: ys => if x.2.when' < y.2.when' then x :: y :: ys else y :: insertOut x ys

/-- OUTs by their instants. -/
def sortOuts : List (Nat × PassOut) → List (Nat × PassOut)
  | [] => []
  | x :: xs => insertOut x (sortOuts xs)

/-- Every OUT that has issued by an instant reaches its shadow, in time order. -/
def flushOuts (t : Nat) (s : State) : State :=
  let due := s.lanes.flatMap fun e => match e.2.pass with
    | some p => (p.outs.filter fun o => decide (o.when' ≤ t)).map (e.1, ·)
    | none => []
  let s := forEach due (fun e s => onPass e.1 (fun p => { p with outs := p.outs.filter fun o => decide (t < o.when') }) s) s
  forEach (sortOuts due) (fun e s => issueOut e.1 e.2 s) s

/-! End of a pass -/

/-- The groups of a list of keys. -/
def keyGroups (ks : List Nat) : List (PageType × Nat × Nat) :=
  ks.filterMap fun k => (pageOf (k / 8)).map fun q => (q.1, q.2, k % 8)

/-- The lane after a pass: disabled where EN was written 0, else idle or in fault (R69, R95); its drain begins. Where the last
pass after EN 0 is discarded with a cause that faults the lane, FAULT is raised and the lane is disabled.  DESIGN CHOICE (log
entry 65). -/
def afterPass (n : Nat) (fault : Bool) (dr : Drain) (s : State) : State :=
  let s := onLane n (fun x => { x with pass := none, drain := some dr, offPend := false,
                                       st := (if x.offPend then 0 else if fault then 3 else 1) }) s
  pmcCount 12 none none (if fault then raise .eng n 7 s else s)

/-- End of the drain: within 16 cycles (R90); taken as 16. -/
def drainTime : Nat := 16 * fabCyc

/-- A pass is discarded (R93, R95).  DEDUCED: a DISC_LIMIT written below the present CONSEC is reached by the next discard
(log entry 65). -/
def discardPass (n : Nat) (c : PassDisc) (e : Nat) (p : Pass) (s : State) : State :=
  let s := forEach (keyGroups p.opened) (fun q s => dropGroup q.1 q.2.1 q.2.2 s) s
  let k := laneKey n
  let s := wr (k 0x0B8) (wNat (c.cause + 256 * c.tile + 65536 * c.op)) s
  let s := wrf (k 0x0A8) 16 8 (held 255 (rdf s (k 0x0A8) 16 8 + 1)) (incHeld (k 0x0A8) 0 16 s)
  let s := if c.cause = 1 then incHeld (k 0x0A4) 0 16 s else if c.cause ≤ 3 then incHeld (k 0x0A4) 16 16 s else s
  let s := wr (k 0x0AC) (wNat e) (wr (k 0x0B4) (wNat p.w) s)
  let s := wr (k 0x0B0) (wNat (max (rd s (k 0x0B0)).toNat e)) s
  let s := raise .eng n c.cause s
  let lim := rdf s (k 0x040) 16 8
  let fault := decide (c.cause = 3) || (lim ≠ 0 && decide (lim ≤ rdf s (k 0x0A8) 16 8))
  let fin := s.now + drainTime
  afterPass n fault { late := [], sts := [], evts := [], endAt := fin } s

/-- A pass succeeds in cycle E (R89, R90, R93): its probe writes and its confirmation take effect (R118, R238). -/
def passOk (n : Nat) (p : Pass) (s : State) : State :=
  let gs := keyGroups p.opened
  let s := forEach gs (fun q s => armGroup q.1 q.2.1 q.2.2 s) s
  let legs := gs.filterMap fun q => if q.1 = .pwmg then some (8 * q.2.1 + q.2.2) else none
  let s := pairArmed p.start legs s
  let k := laneKey n
  let s := wr (k 0x0A0) (rd s (k 0x0A0) + 1) (wrf (k 0x0A8) 16 8 0 s)
  let s := wr (k 0x0AC) (wNat p.e) (wr (k 0x0B4) (wNat p.w) s)
  let s := wr (k 0x0B0) (wNat (max (rd s (k 0x0B0)).toNat p.e)) s
  let probe : Nat × Word → Bool := fun w => decide (0x2500 ≤ w.1 ∧ w.1 < 0x2540)
  let s := probesLand n ((p.late.filter probe).map fun w => (w.1 - 0x2500, w.2)) s
  let s := forEach (p.late.filter fun w => w.1 = 0x2540) (fun w s => islConfirm n w.2 s) s
  let fin := s.now + drainTime
  afterPass n false { late := p.late.filter fun w => !(probe w) && w.1 ≠ 0x2540, sts := p.sts, evts := p.evts, endAt := fin } (raise .eng n 0 s)

/-- A write that takes effect at the drain (R90, R258, R277). -/
def lateWrite (w : Nat × Word) (s : State) : State :=
  if w.1 < 0x2480 then railCommand ((w.1 - 0x2440) / 16) 4 w.2 none s
  else if w.1 < 0x2500 then capPort (w.1 - 0x2480) w.2 s
  else { s with eng := { s.eng with mail := smSet (smConst 0) s.eng.mail (w.1 - 0x2600) w.2 } }

/-- The drain of lane `n` completes (R75, R90). -/
def drainNow (n : Nat) (s : State) : State :=
  match (lane s n).drain with
  | none => s
  | some dr =>
    let s := onLane n (fun x => { x with drain := none }) s
    let s := forEach dr.sts (fun w s => writeTileWord (w.1 / 1024) (w.1 % 1024) w.2 s) s
    let s := forEach dr.late lateWrite s
    let s := forEach dr.evts (fun c s => raise .eng n 11 (wr (laneKey n 0x0BC) (wNat c) s)) s
    if !(laneOn s n) then releaseUnmapped s
    else
      let next := nextTick s (laneDom s n) + 1200
      releaseUnmapped (releaseHeld n ((next - s.now) / fabCyc) s)

/-! Meanings -/

/-- PASS_START (R68, R89, R533): 24 ns after the boundary tick of the lane's domain. -/
def execPassStart (n : Fin 32) (s : State) : Host.Outcome State Fault Refusal :=
  .next (
    let d := laneDom s n
    let y := dom s d
    if !(live s .eng) || !(domRuns s d) || !y.begun || (lane s n).st ≠ 1 || (lane s n).passK = some y.k then s else
    let tk := lastTick s d
    let s := drainNow n (upto (tk + 1200) s)
    let halts := anyHalted s && rdb s (rk .dbg 0 0x044) n
    let s := onLane n (fun x => { x with passK := some y.k, held := halts }) s
    if halts then s else
    let s := pairPassStart n s
    let (s', gs) := railPass n s
    let keys := (gs.map fun g => grpKey .pwmg g.1 g.2).eraseDups
    let s' := startPass n tk ((nextTick s d - tk) / tickLen) s'
    let s' := forEach keys (fun k s => setGrp k { grp s k with owner := some (n.val, y.k) } s) s'
    onPass n (fun p => { p with opened := keys }) s')

/-- PASS_END (R89, R93). -/
def execPassEnd (n : Fin 32) (s : State) : Host.Outcome State Fault Refusal :=
  .next (
    match (lane s n).pass with
    | none => s
    | some p =>
      if !(live s .eng) || p.w < p.e then s else
      let fin := p.start + p.e * fabCyc
      let s := flushOuts fin (upto fin s)
      match (lane s n).pass with
      | none => s
      | some p =>
        match p.disc with
        | some c => discardPass n c p.e p s
        | none => passOk n p s)

/-- PASS_OVERRUN (R89, R93). -/
def execPassOverrun (n : Fin 32) (s : State) : Host.Outcome State Fault Refusal :=
  .next (
    match (lane s n).pass with
    | none => s
    | some p =>
      if !(live s .eng) || p.e ≤ p.w then s else
      let fin := p.start + p.w * fabCyc
      let s := flushOuts fin (upto fin s)
      match (lane s n).pass with
      | none => s
      | some p =>
        let over' : PassDisc := { when' := fin, cause := 1, tile := 0, op := 0 }
        discardPass n ((earlier p.disc over').getD over') p.w p s)

/-- DRAIN_COMPLETE (R90). -/
def execDrainComplete (n : Fin 32) (s : State) : Host.Outcome State Fault Refusal :=
  .next (
    match (lane s n).drain with
    | none => s
    | some dr => if live s .eng then drainNow n (upto dr.endAt s) else s)

end Sys2Proof.Machine
end

