-- ==== Sys2Proof/Machine/Periods.lean ====
section
/-! DEFINITION. What happens to the whole device at a boundary of a commit domain (R12, R16), at a Datum cycle boundary
(R354, R99, R123, R153, R374, R428), at the delivery of an average (R42, R53, R253), at a change of the root's lock (R465 to
R468) and at Plumb's Saddle evaluation (R402). -/

namespace Sys2Proof.Machine

/-! Boundaries -/

/-- The boundary that ends the period of domain `d`: the parts of every function, in one order. -/
def boundary (d : Nat) (s : State) : State :=
  let x := dom s d
  let tk := nextTick s d
  let s := tripBoundary d (upto tk (darmsDue d (flushOuts tk s)))
  let due := (dueGroups s .pwmg d tk).map fun e => 8 * e.1 + e.2
  let s := legBoundary d s
  let done := due.filter fun l => (grp s (grpKey .pwmg (l / 8) (l % 8))).openAt.isNone
  let s := genBoundary d tk (laneSwaps d tk s)
  let s := monBoundary d (commitMons d tk (endedFrom x) s)
  let s := adcBoundary d x.next tk (endedFrom x) (!x.begun) s
  let s := islBoundary d (gridBoundary d tk (endedFrom x) (!x.begun) s)
  checkOutEn (updPeriod (pairBoundary d done (railBoundary d tk (!x.begun) s)))

/-- BOUNDARY (R12): the next boundary of the domain. -/
def execBoundary (d : Fin 24) (s : State) : Host.Outcome State Fault Refusal :=
  .next (if domRuns s d then boundary d s else s)

/-! Lock requests, and the islanding function that needs the lock (R148, R236) -/

/-- LOCK_REQ (R148). -/
def execLockReq (m : Master) (d : Fin 24) (stretch : Bool) (slew : BitVec 8) (s : State) : Host.Outcome State Fault Refusal :=
  let v := wNat (1 + (if stretch then 2 else 0) + 256 * slew.toNat)
  .next (byBus m .pwmg (d / 2) (0x040 + 0x20 * (d % 2)) (fun s => islRefresh (writeDomCtrl d v s)) s)

/-- LOCK_REQ_CLEAR (R148). -/
def execLockReqClear (m : Master) (d : Fin 24) (stretch : Bool) (slew : BitVec 8) (s : State) :
    Host.Outcome State Fault Refusal :=
  let v := wNat ((if stretch then 2 else 0) + 256 * slew.toNat)
  .next (byBus m .pwmg (d / 2) (0x040 + 0x20 * (d % 2)) (fun s => islRefresh (writeDomCtrl d v s)) s)

/-! Datum cycle boundaries -/

/-- The synchroniser angle of a port, predicted at an instant (R207, R374). -/
def angleAt (s : State) (g t : Nat) : Int :=
  let x := grid s g
  let d := dom s (gridDom s g)
  let c : Int := if x.upK = some d.k then (d.start : Int) + d.per / 2 else (d.start : Int) - d.oldPer / 2
  let dt := (t : Int) - c
  let a := fx x.f (secs48 dt.natAbs)
  frac48 (if 0 ≤ dt then x.theta + a else x.theta - a)

/-- The publisher originates a synthesis record for the next Datum cycle boundary (R374). -/
def publish (s : State) : State :=
  let c := rd s (datKey 0x0C0)
  if !(bit c 0) || s.datum.yield || !(s.datum.st = .track || s.datum.st = .benchmark) then s else
  match nextBoundary s with
  | none => s
  | some (v, _) =>
    let g := fld c 1 2
    let seq := (s.datum.sseq + 1) % 65536
    let a := nodeAddr s
    let y : SynRec := { d0 := v, theta := wNat (angleAt s g (datumInstant s v) / 65536).toNat, freq := ofFx48 (grid s g).f,
                        addr := a, port := g, present := (grid s g).locked, sseq := seq }
    onDatum (fun d => { d with syn := some y, sseq := seq }) s

/-- A Datum cycle boundary: cycle `number` starts at Datum time `v`. -/
def datumBoundary (v number : Nat) (s : State) : State :=
  let s := upto (datumInstant s v) s
  let s := islRefresh (alignDomains (startCycle v number (flushOuts s.now s)))
  let s := if datumValid s then s else withdrawDarms s
  let s := swapGone (globalSwapDue number (updBoundary number (gensDue number s)))
  let s := publish s
  if s.pair.st = 4 && datumValid s && number % ckStride s = 0 then pairCapture number false s else s

/-- DATUM_CYCLE_BOUNDARY (R354). -/
def execDatumCycleBoundary (s : State) : Host.Outcome State Fault Refusal :=
  .next (
    if !(live s .ring) then s else
    match nextBoundary s with
    | some (v, n) => datumBoundary v n s
    | none => s)

/-! Averages -/

/-- AVERAGE_DELIVERED (R42 to R44): 24 ns after the boundary tick, once every slot of the window is converted; trackers take
the sample (R253). -/
def execAverageDelivered (n : Fin 32) (s : State) : Host.Outcome State Fault Refusal :=
  .next (
    if !(live s .adc) then s else
    match (adc s n).closed with
    | c :: cs =>
      if c.win.n < c.need then s
      else trackSample n c.beg c.fin (deliverSet n c (onAdc n (fun a => { a with closed := cs }) (upto c.due s)))
    | [] => s)

/-- BLOCK_END (R53): NSLOT full slots of an unbound converter are converted. -/
def execBlockEnd (n : Fin 32) (s : State) : Host.Outcome State Fault Refusal :=
  .next (
    let c := inForce s (rk .adc n 0x040)
    if !(live s .adc) || fld c 0 2 ≠ 1 || bit c 3 then s else
    match (adc s n).win with
    | none => s
    | some w =>
      if w.n < w.nslot then s else
      let fin := w.fromT + (w.nslot - w.fromN) * slotLen s n
      let s := upto fin s
      let x : Closed := { win := w, beg := w.start, fin := fin, full := slotLen s n, len := fin - w.start, need := w.n,
                          stamp := wNat ((fin - s.clk.tick0) / tickLen), due := fin, valid := w.ok, offset := w.offset,
                          scale := w.scale }
      trackSample n w.start fin (deliverSet n x (onAdc n (fun a => { a with win := some (beginWin s n fin fin) }) s)))

/-! The root's lock, and the Datum validity that hangs on it (R357, R366) -/

/-- LOCK_LOSS (R465, R467): no edge for 200 ns, or the phase error. -/
def execLockLoss (s : State) : Host.Outcome State Fault Refusal :=
  .next (if synthOn s then datumRefresh (loseLock false s) else s)

/-- REF_MEASURE (R465): the reference against the root over 1 ms, in 0.01 ppm. -/
def execRefMeasure (ppm : Int) (s : State) : Host.Outcome State Fault Refusal :=
  .next (
    if !(synthOn s) || !s.clk.running then s else
    let s := wr (clkKey 0x054) (wInt ppm) (onClk (fun c => { c with ppm := ppm }) s)
    if 20000 < ppm.natAbs then datumRefresh (loseLock false (raiseClk 3 (onClk (fun c => { c with refBad := true }) s))) else s)

/-- PLL_LOCKED (R464, R468). -/
def execPllLocked (s : State) : Host.Outcome State Fault Refusal :=
  .next (if synthOn s && s.clk.acquiring then datumRefresh (pllLock s) else s)

/-- PLL_RELOCK (R462). -/
def execPllRelock (m : Master) (s : State) : Host.Outcome State Fault Refusal :=
  .next (byBus m .clk 0 0x048 (fun s => datumRefresh (writeClk m 0x048 1 s)) s)

/-! Safe-state sets and Saddle mode -/

/-- SAFE_STATE_CLEAR (R167, R286). -/
def execSafeStateClear (m : Master) (k : Fin 16) (s : State) : Host.Outcome State Fault Refusal :=
  .next (byBus m .trip 0 (0x818 + 0x20 * k) (fun s => railAfterClear (writeSetCtl k 2 s)) s)

/-- SADDLE_EVALUATION (R402, R551): once per millisecond. -/
def execSaddleEvaluation (s : State) : Host.Outcome State Fault Refusal :=
  .next (
    if !s.plumb.selftest then s else
    let at' := s.plumb.nextEval
    let s := upto at' s
    let next := nextDue at' msec s.now
    updSaddle (saddleTable (onPlumb (fun p => { p with nextEval := next }) s)))

end Sys2Proof.Machine
end

