-- ==== Sys2Proof/Machine/PlumbChannel.lean ====
section
/-! DEFINITION. The Plumb channel: producers, consumers and their connections (R397 to R401, R414 to R416). -/

namespace Sys2Proof.Machine

/-- Raise a cause of the PCH page. -/
def raisePch (k : Nat) (s : State) : State := raise .pch 0 k s
/-- A connection is a producer. -/
def isProducer (s : State) (c : Nat) : Bool := rdb s (connKey c 0) 0
/-- The ring stream of a connection. -/
def connStream (s : State) (c : Nat) : Nat := rdf s (connKey c 0) 4 10
/-- The stream is open to the connection: OWNER 2 and the direction of its role (R397). -/
def connStreamOk (s : State) (c : Nat) : Bool :=
  let x := rstream s (connStream s c)
  x.owner = 2 && x.st = 2 && x.dir = (if isProducer s c then 1 else 2)

/-- CHECK of a message: polynomial 0xF4AC_FB13, reflected (R397). -/
def plumbCrc (bs : List Byte) : Word := crc32 0xC8DF352F#32 bs

/-- A producer's SAFETY word (R398). -/
def safetyWord (s : State) (c : Nat) : Nat :=
  let cfg := rd s (connKey c 0)
  (if s.plumb.spo && bit cfg 15 then 1 else 0) +
    ((List.range 4).filter fun n => sinDemand s n && bit cfg (16 + n)).foldl (fun a n => a + 2 ^ (n + 1)) 0

/-- The message a producer forms now (R397, R398, R400). -/
def plumbMessage (s : State) (c : Nat) (seq : Word) : List Byte :=
  let valid := datumValid s
  let fl := (if valid then 0 else 1) + (if inSaddle s then 2 else 0) + (if s.plumb.spo then 4 else 0)
  let app := (List.range 4).flatMap fun i => beBytes 4 (rd s (connKey c (0x24 + 4 * i))).toNat
  let body := beBytes 4 (rd s (connKey c 4)).toNat ++ beBytes 4 seq.toNat ++ beBytes 8 (if valid then datumNow s else 0) ++
    [BitVec.ofNat 8 (if (conn s c).first then 2 else 1), BitVec.ofNat 8 fl, 0#8, 0#8] ++ beBytes 4 (safetyWord s c) ++
    beBytes 4 (plumbStat s).toNat ++ app
  body ++ beBytes 4 (plumbCrc body).toNat

/-- PRODUCE_MESSAGE (R398): by period, or at once where the SAFETY word has changed. -/
def produce (c : Nat) (s : State) : State :=
  let x := conn s c
  if !(live s .ring) || !isProducer s c || x.st ≠ 2 then s else
  let changed := !x.first && x.sent ≠ safetyWord s c
  let s := if changed then s else upto x.dueAt s
  let seq := x.seq
  let m := plumbMessage s c seq
  let due := if changed then x.dueAt else nextDue x.dueAt (max 1 (rdf s (connKey c 0x0C) 0 16) * usec) s.now
  let w := safetyWord s c
  let s := onConn c (fun x => { x with seq := seq + 1, first := false, sent := w, msg := m, dueAt := due }) s
  if connStreamOk s c then (streamPut (connStream s c) m s).2 else s

/-- A consumer fails (R401). -/
def connFail (c cause : Nat) (s : State) : State :=
  let act := rdf s (connKey c 0) 28 2
  let s := onConn c (fun x => { x with st := 3, cause := cause, safe := 31, acting := decide (act ≠ 0) }) s
  plumbEval (logHap (pageNo .pch 0) (raisePch (2 * c) s))

/-- A discard: more than ERR_MAX in one second are a failure (R399). -/
def connDiscard (c : Nat) (f : Conn → Conn) (s : State) : State :=
  let now := s.now
  let s := onConn c (fun x => { f x with discards := (x.discards.filter fun t => decide (now < t + secs)) ++ [now] }) s
  let x := conn s c
  if rdf s (connKey c 0x0C) 16 8 < x.discards.length then connFail c 2 s else s

/-- A message's time check (R399, R400). -/
def timeOk (s : State) (c : Nat) (m : List Byte) : Bool :=
  if (cellByte m 17).testBit 0 || !(datumValid s) then rdb s (connKey c 0) 14
  else
    let age := signed 64 (datumNow s + 2 ^ 64 - beAt m 8 8)
    decide (-16000 ≤ age ∧ age ≤ rdf s (connKey c 8) 16 16 * 16000)

/-- A message is accepted (R399): the watchdog restarts and the word received is in force. -/
def connAccept (c : Nat) (m : List Byte) (s : State) : State :=
  let x := conn s c
  let seq := wNat (beAt m 4 4)
  let due := s.now + rdf s (connKey c 8) 0 16 * 10 * usec
  let fl := cellByte m 17
  let s := onConn c (fun x => { x with st := 2, seq := seq + 1, start := (if x.st = 1 then seq else x.start), wdEnd := due,
                                       safe := beAt m 20 4 % 32, acting := false, saddle := fl.testBit 1, spo := fl.testBit 2 }) s
  let s := forEach (List.range 4) (fun i s => wr (connKey c (0x24 + 4 * i)) (wNat (beAt m (28 + 4 * i) 4)) s) s
  plumbEval (if x.st = 1 then raisePch (2 * c + 1) s else s)

/-- The checks of a message, in order (R399). -/
def checkMessage (c : Nat) (m : List Byte) (s : State) : State :=
  let x := conn s c
  let kind := cellByte m 16
  let seq := wNat (beAt m 4 4)
  if plumbCrc (m.take 44) ≠ wNat (beAt m 44 4) then connDiscard c (fun x => { x with crc := held 255 (x.crc + 1) }) s
  else if beAt m 0 4 ≠ (rd s (connKey c 4)).toNat || (kind ≠ 1 && kind ≠ 2) || (x.st = 1 && kind ≠ 2) then
    connDiscard c (fun x => { x with idc := held 255 (x.idc + 1) }) s
  else if x.st = 2 ∧ seq ≠ x.seq then
    if (seq - x.start).toNat < (x.seq - x.start).toNat then connDiscard c (fun x => { x with dup := held 255 (x.dup + 1) }) s
    else connFail c 1 s
  else if timeOk s c m then connAccept c m s
  else connDiscard c (fun x => { x with late := held 255 (x.late + 1) }) s

/-- CONSUME_MESSAGE (R399): the oldest cell of the connection's stream. -/
def consume (c : Nat) (s : State) : State :=
  let st := (conn s c).st
  if !(live s .ring) || isProducer s c || !(connStreamOk s c) then s else
  match streamTake (connStream s c) s with
  | (some (m, _, _), s) => if st = 1 || st = 2 then checkMessage c (padTo 48 m) s else s
  | (none, s) => s

/-- Write CONNc_CTL (R401, R415). The SEQ of a producer's START message is a free value (R398). -/
def writeConnCtl (c : Nat) (v : Word) (s : State) : State :=
  let x := conn s c
  let s := if !bit v 0 then s
    else
      let zero := if isProducer s c then decide (rdf s (connKey c 0x0C) 0 16 = 0) else decide (rdf s (connKey c 8) 0 16 = 0)
      if zero || x.st = 1 || x.st = 2 then raisePch 16 s
      else if isProducer s c then
        let now := s.now
        let (seq, s) := draw s
        raisePch (2 * c + 1) (onConn c (fun x => { x with st := 2, cause := 0, first := true, seq := seq, dueAt := now }) s)
      else onConn c (fun x => { x with st := 1, cause := 0, discards := [], safe := 31 }) s
  let x := conn s c
  if bit v 1 && (x.st = 1 || x.st = 2) then plumbEval (onConn c (fun x => { x with st := 0, safe := 31 }) s) else s

/-- The value of a PCH register is accepted: settings only while the connection is IDLE or FAILED (R414). -/
def pchWriteOk (s : State) (off : Nat) : Bool :=
  let c := (off - 0x100) / 0x40
  decide (off < 0x100) || decide (0x0C < (off - 0x100) % 0x40) || (conn s c).st = 0 || (conn s c).st = 3

/-- Write a PCH register that is not guarded: a consumer's APP words are read-only (R414). -/
def writePch (off : Nat) (v : Word) (s : State) : State :=
  let c := (off - 0x100) / 0x40
  let o := (off - 0x100) % 0x40
  if off < 0x100 then plainWrite (rk .pch 0 off) v s
  else if o = 0x10 then writeConnCtl c v s
  else if 0x24 ≤ o ∧ !isProducer s c then s
  else plainWrite (rk .pch 0 off) v s

/-- A read of a PCH register that mirrors hidden state (R414, R415). -/
def readPch (s : State) (off : Nat) : Option Word :=
  let c := (off - 0x100) / 0x40
  let x := conn s c
  if off = 0x00C then some (wNat (packBools 0 (fun c => decide ((conn s c).st = 2)) 8))
  else if off < 0x100 ∨ 0x300 ≤ off then none
  else match (off - 0x100) % 0x40 with
  | 0x14 => some (wNat (x.st + 16 * x.cause + (if x.saddle then 256 else 0) + (if x.spo then 512 else 0)))
  | 0x18 => some x.seq
  | 0x1C => some (wNat (x.crc + 256 * x.idc + 65536 * x.dup + 2 ^ 24 * x.late))
  | 0x20 => some (wNat x.safe)
  | _ => none

/-- PRODUCE_MESSAGE (R398). -/
def execProduceMessage (c : Fin 8) (s : State) : Host.Outcome State Fault Refusal := .next (produce c.val s)

/-- CONSUME_MESSAGE (R399). -/
def execConsumeMessage (c : Fin 8) (s : State) : Host.Outcome State Fault Refusal := .next (consume c.val s)

/-- CONNECTION_WATCHDOG (R399). -/
def execConnectionWatchdog (c : Fin 8) (s : State) : Host.Outcome State Fault Refusal :=
  .next (if (conn s c.val).st = 2 && !isProducer s c.val then connFail c.val 3 (upto (conn s c.val).wdEnd s) else s)

/-- A write command of CONNc_CTL takes effect in the order of its master's writes to the page (R451, R566). -/
def connCommand (m : Master) (c : Nat) (v : Word) (s : State) : State :=
  byBus m .pch 0 (0x110 + 0x40 * c) (fun s =>
    if heldBehind s m true then
      onPlumb (fun p => { p with handed := p.handed ++ [{ master := m, key := connKey c 0x10, val := v, guarded := false }] }) s
    else writeConnCtl c v s) s

/-- CONN_START (R415). -/
def execConnStart (m : Master) (c : Fin 8) (s : State) : Host.Outcome State Fault Refusal := .next (connCommand m c.val 1 s)

/-- CONN_STOP (R415). -/
def execConnStop (m : Master) (c : Fin 8) (s : State) : Host.Outcome State Fault Refusal := .next (connCommand m c.val 2 s)

/-! Writes handed to Plumb firmware (R381) -/

/-- The value a register holds once the writes handed over before have taken effect. -/
def handedValue (s : State) (k : Nat) : Word :=
  s.plumb.handed.foldl (fun w h => if h.guarded && h.ok && h.key = k then plainValue k w h.val else w) (rd s k)

/-- A guarded write of the PLUMB or PCH page: judged for level and room at arrival, its entry placed, then handed over. -/
def handPlumb (m : Master) (k : Nat) (v : Word) (s : State) : State :=
  if !(levelOk s k) then deny k s
  else if stagingFull s then refuseKey k s
  else
    let off := keyOff k
    let ok := match keyPage k with
      | some (.plumb, _) => plumbValueOk off v
      | _ => pchWriteOk s off
    let old := handedValue s k
    let s := if ok then { s with pw := { s.pw with session := s.now } } else s
    let seq := some s.fb.seq
    let s := bookRequested 1 (pageIndex k) off (masterNo m) old (if ok then plainValue k old v else old) s
    onPlumb (fun p => { p with handed := p.handed ++ [{ master := m, key := k, val := v, ok := ok, seq := seq }] }) s

/-- The firmware applies a guarded write, which the page judges again as it stands now (R381, R414). -/
def applyHanded (h : Handed) (s : State) : State :=
  let plumb := pageIndex h.key = pageNo .plumb 0
  let takes := h.ok && (plumb || pchWriteOk s (keyOff h.key))
  let s := reviseHanded h takes s
  if !takes then refuseKey h.key s
  else if plumb then setPlumb (keyOff h.key) h.val s
  else plumbEval (plainWrite h.key h.val s)

end Sys2Proof.Machine
end

