-- ==== Sys2Proof/Machine/Power.lean ====
section
/-! DEFINITION. Power domains (R473 to R475), supplies and resets (R476 to R479, R565, R597), temperature (R480 to R486),
and the Valley sample and hold-up as they act on the rest (R500, R509). -/

namespace Sys2Proof.Machine

/-- Raise a cause of the SYS page (R489). -/
def raiseSys (k : Nat) (s : State) : State := raise .sys 0 k s
/-- Key of a SYS register (R487). -/
def sysKey (off : Nat) : Nat := rk .sys 0 off
/-- Change reset and power state. -/
def onPwr (f : Pwr → Pwr) (s : State) : State := { s with pwr := f s.pwr }

/-! Domains (R473 to R475) -/

/-- The domain of a bit of PD_STAT (R488). -/
def bitDom : Nat → PDom
  | 0 => .core | 1 => .eng | 2 => .pwm | 3 => .adc | 4 => .mtr | 5 => .ring | 6 => .eth | 7 => .reg
  | 8 => .nvm | 9 => .dbg | 10 => .plumb | _ => .valley

/-- A page number belongs to a page of a domain. -/
def ofDom (d : PDom) (p : Nat) : Bool := (pageOf p).any fun q => decide (pageDom q.1 = d)

/-- The configuration of the PLUMB and PCH pages is held in the Plumb NV area and restored at every start (R410). -/
def inPlumbNv (k : Nat) : Bool :=
  ((pageOf (k / 0x1000)).any fun q => q.1 == .plumb || q.1 == .pch) && (regRow k).any fun r => decide (r.cls = .rwl)

/-- CFG and LANE_HALT of DBG lie in PD_CORE (R534). -/
def dbgCore (k : Nat) : Bool := decide (k = rk .dbg 0 0x040 ∨ k = rk .dbg 0 0x044)

/-- The thermal controller lies in PD_PLUMB and keeps its page's settings while PD_CORE is off (R485). -/
def thermPage (p : Nat) : Bool := decide (p = pageFirst .therm)

/-- Keep the registers a condition on their keys names. -/
def keepRegs (p : Nat → Bool) (s : State) : State :=
  { s with regs := s.regs.filter (fun e => p e.1), act := s.act.filter (fun e => p e.1) }

/-- The pages of a domain hold their reset values, and its groups are closed (R474). -/
def dropDomain (d : PDom) (s : State) : State :=
  let s := keepRegs (fun k => !(ofDom d (k / 0x1000)) || dbgCore k || thermPage (k / 0x1000) || inPlumbNv k) s
  { s with grps := s.grps.filter fun e => !(ofDom d (e.1 / 8)) }

/-- The groups that passes in progress opened are discarded (R102). -/
def dropPassGroups (s : State) : State :=
  forEach (s.lanes.filterMap fun e => e.2.pass) (fun p s =>
    forEach p.opened (fun k s =>
      match pageOf (k / 8) with
      | some q => dropGroup q.1 q.2 (k % 8) s
      | none => s) s) s

/-- The TRIP_N pins keep their levels while nothing evaluates them; their filters count from `t` (R193). -/
def tripPins (t : Nat) (s : State) : List (Nat × TripIn) :=
  (s.trips.filter fun e => e.2.raw).map fun e => (e.1, { raw := true, rawAt := t })

/-- The REG_EN pins and the driver supplies keep their levels while nothing evaluates them (R193). -/
def drvPins0 (s : State) : List (Nat × DrvGrp) :=
  s.drvs.map fun e => (e.1, { vdrvOk := e.2.vdrvOk, regEn := e.2.regEn, off := !e.2.regEn })

/-- The bootstrap supplies likewise. -/
def phasePins (s : State) : List (Nat × Phase) := s.phases.map fun e => (e.1, { bstOk := e.2.bstOk, mv := e.2.mv })

/-- PD_PWM loses its boundaries: ports from CLOSING to RELOCK hold an open request, and the pins are low (R158). -/
def pwmOff (s : State) : State :=
  let s := forEach ((List.range 4).filter fun g => decide (3 ≤ (grid s g).st ∧ (grid s g).st ≤ 7)) (fun g s =>
    portOpen g (onGrid g (fun x => { x with lost := true }) s)) s
  let s := forEach ((List.range 24).filter fun d => (dom s d).running) loseBoundaries s
  lateSteps <| islRefresh
    { s with pair := { s.pair with ready := [] }, legs := [], doms := idleDoms s, trips := tripPins s.now s, sets := [], mons := [], phases := phasePins s, drvs := drvPins0 s }

/-- What a domain's function does as it is switched off, and its state gone with it (R474). -/
def offActions (d : PDom) (s : State) : State :=
  match d with
  | .eng =>
    let s := trackersOff (islOff (gridsOff (dropPassGroups s)))
    { s with lanes := [], eng := {}, gens := [], capMem := [],
             mem := s.mem.filter fun e => !(decide (engBase ≤ e.1 ∧ e.1 < engBase + 0x100000)) }
  | .pwm => pwmOff s
  | .adc => lateSteps { s with adcs := s.adcs.map fun e => (e.1, { set := { value := e.2.set.value } }) }
  | .mtr => metersOff s
  | .ring =>
    let s := plumbEval { pairReset (datumReset (ringReset s)) with conns := [] }
    forEach (List.range 4) (fun r s => onRail r (fun x => { x with breaks := 0 }) s) s
  | .nvm => onVal (fun v => { v with reqUpd := none }) s
  | .eth => onGio (fun g => { g with mdio := [], sent := [], rxEnd := [], eras := [] }) s
  | .reg => { railsOff s with cmdPorts := {}, monument := {} }
  | .dbg => { s with dbg := { s.dbg with active := false, regs := [] } }
  | _ => s

/-- Domains that software and the debugger want on, by the bits of PD_STAT (R474, R532). -/
def pdTarget (s : State) : Word :=
  let w := rd s (sysKey 0x040) &&& 0x2FE#32
  setBit w 9 ((bit w 9 || s.dbg.active) && rdb s (rk .dbg 0 0x040) 0)

/-- The next transition: switching off in descending order, then on in ascending order (R475). -/
def pdNext (s : State) : Option (PDom × Bool) :=
  let t := pdTarget s
  let sw := [1, 2, 3, 4, 5, 6, 7, 9]
  match sw.reverse.find? fun b => bit s.pwr.on b && !(bit t b) with
  | some b => some (bitDom b, false)
  | none => (sw.find? fun b => !(bit s.pwr.on b) && bit t b).map fun b => (bitDom b, true)

/-- Work toward the target where no transition runs (R475). -/
def nextMove (s : State) : State :=
  if s.pwr.move.isSome || s.pwr.reset.isSome || s.pwr.cut then s else
  let now := s.now
  onPwr (fun p => { p with move := pdNext s, moveAt := now }) s

/-- Write PD_CTL (R474). -/
def writePdCtl (v : Word) (s : State) : State :=
  let k := sysKey 0x040
  let old := rd s k
  let late := [2, 5].filter fun b => bit v b && !(bit old b) && !s.clk.locked
  let new := late.foldl (fun w b => setBit w b false) (v &&& 0x2FE#32)
  let s := nextMove (wr k new s)
  if late.isEmpty then s else raiseSys 3 s

/-- PD_STAT (R488). -/
def pdStat (s : State) : Word := setBit s.pwr.on 16 s.pwr.move.isSome

/-- A domain is on from now (R474). -/
def domainOn (d : PDom) (s : State) : State :=
  let s := dropDomain d (onPwr (fun p => { p with on := setBit p.on (domBit d) true, move := none }) s)
  let s := if d = .pwm then startPwm { s with trips := tripPins s.now s } else s
  nextMove (logHap (pageNo .sys 0) (raiseSys 0 s))

/-- A domain is off from now (R474). -/
def domainOff (d : PDom) (s : State) : State :=
  let s := dropDomain d (offActions d s)
  let s := onPwr (fun p => { p with on := setBit p.on (domBit d) false, move := none }) s
  nextMove (logHap (pageNo .sys 0) (raiseSys 1 s))

/-! Resets (R476 to R478) -/

/-- A source of a reset is active: RST_CAUSE, unless PD_VALLEY is in its own reset (R478). -/
def resetCause (k : Nat) (s : State) : State :=
  if s.valley.por then s else onPwr (fun p => { p with cause := setBit p.cause k true }) s

/-- Whether a source still lasts; if none does, the last one ends now (R477). SYSRST_N is no source of a power-on reset. -/
def settleSources (s : State) : State :=
  let now := s.now
  onPwr (fun p =>
    let lasts := p.porst || p.supply &&& 0xF ≠ 0xF || (p.reset = some .system && p.sysrst)
    { p with srcEnd := (if lasts then none else some now) }) s

/-- Domains on, from the highest bit down. -/
def domsOn (s : State) : List PDom := ((List.range 10).reverse.filter fun b => bit s.pwr.on b).map bitDom

/-- What a system reset leaves: the CLK, VALLEY and PLUMB pages, the configuration of PCH, and DBG.CFG where the debugger made it
(R410, R477, R565). -/
def keptBySystem (byDebug : Bool) (k : Nat) : Bool :=
  ((pageOf (k / 0x1000)).any fun q => q.1 == .clk || q.1 == .valley || q.1 == .plumb) || inPlumbNv k ||
    (byDebug && decide (k = rk .dbg 0 0x040))

/-- A system reset begins (R444, R477, R534). -/
def beginSystem (byDebug : Bool) (s : State) : State :=
  let s := forEach (domsOn s) offActions (updReset s)
  let s := gioReset (keepRegs (keptBySystem byDebug) { s with adcs := [], doms := [] })
  let now := s.now
  let frozen := s.holds.frozen
  let th := s.therm
  let s := { s with
             grps := [], evr := {}, cluster := { bad := s.cluster.bad }, log := { s.log with full := false, bad := 0 },
             therm := { running := th.running, runEnd := th.runEnd, runScan := th.runScan, next := th.next, nextScan := th.nextScan,
                        scanAt := th.scanAt },
             pwr := { s.pwr with reset := some .system, on := 0xD01, move := none, moveAt := now, boot := s.pwr.boot &&& 3,
                                 byDebug := byDebug } }
  startActive (relockLevel 7 (if frozen then endFreeze s else s))

/-- A source of a system reset: it joins the reset that lasts, or a system reset begins (R477, R478). -/
def systemReset (k : Nat) (byDebug : Bool) (s : State) : State :=
  settleSources (resetCause k (if s.pwr.reset.isSome then s else beginSystem byDebug s))

/-- What the Plumb NV area, the NV store and PD_VALLEY keep through a power-on reset (R410, R477, R522). -/
def keptByPowerOn (k : Nat) : Bool :=
  ((pageOf (k / 0x1000)).any fun q => q.1 == .valley) || inPlumbNv k

/-- A power-on reset begins (R410, R472, R477, R486). -/
def beginPowerOn (s : State) : State :=
  let s := logToValley (keepStopFull (updReset (dropHanded (tearMonument (nvGrant s || decide (s.pwr.supply &&& 9 = 9)) s))))
  let z := State.reset
  let expired := decide (s.plumb.saddle = .expired)
  valleyMark { z with
                now := s.now, frees := s.frees, pending := s.pending,
                regs := s.regs.filter (fun e => keptByPowerOn e.1),
                mem := s.mem.filter (fun e => decide (nvBase ≤ e.1 ∧ e.1 < nvBase + nvSize)),
                valley := s.valley, fb := s.fb, nvm := s.nvm,
                log := s.log,
                pw := { s.pw with level := 0, data := [], denied := 0 },
                plumb := { saddle := (if expired then .expired else .normal), entries := s.plumb.entries, faultRec := s.plumb.faultRec },
                upd := s.upd,
                gio := { pins := s.gio.pins }, trips := tripPins s.now s, drvs := drvPins0 s, phases := phasePins s,
                clk := { z.clk with qualFrom := none },
                pwr := { s.pwr with reset := some .powerOn, on := 0xD01, move := none, boot := 0, cut := false, byDebug := false } }

/-- A source of a power-on reset (R477). -/
def powerOnReset (k : Nat) (s : State) : State :=
  settleSources (resetCause k (if s.pwr.reset = some .powerOn then s else beginPowerOn s))

/-- The image and the settings slot are checked at the end of a reset (R543, R597). -/
def bootChecks (s : State) : State :=
  let (found, s) := bootImage s
  if found then milestone 4 (milestone 3 s) else s

/-- Plumb and PD_CORE start after a power-on reset: START latches SPO (R385, R410), the reference counts from here, and the
log is replayed (R449, R479). -/
def powerOnEnds (s : State) : State :=
  let now := s.now
  let s := { onClk (fun c => { c with qualFrom := some now }) s with
             log := { s.log with replay := true, full := false, bad := 0 }, therm := { s.therm with scanAt := now } }
  startActive (onPlumb (fun p => { p with spo := false, active := 0, first := 0, seen := 0 }) s)

/-- A reset ends (R409, R410, R444, R449, R477 to R479), and the update function, where it wants a change of the boot record, asks
for its grant from here on (R544): after a power-on reset, while SYSRST_N is still low, a system reset
goes on. -/
def resetEnd (s : State) : State :=
  match s.pwr.reset with
  | none => s
  | some kind =>
    if s.pwr.supply &&& 0xF ≠ 0xF then s else
    let pin := s.pwr.sysrst
    let goesOn := kind = .powerOn && pin
    let s := upto (s.pwr.srcEnd.getD s.now + 10 * usec) s
    let now := s.now
    let s := onPwr (fun p => { p with reset := (if goesOn then some .system else none), srcEnd := (if goesOn then none else some now),
                                      porst := false, sysrst := goesOn, moveAt := now }) s
    let s :=
      match kind with
      | .powerOn => powerOnEnds s
      | .system =>
        { s with evr := { s.evr with reset := true }, log := { s.log with replay := s.log.replay || pin || s.therm.cut } }
    if goesOn then s else
    let s := if kind = .system && s.pwr.byDebug then raiseDbg 3 s else s
    let s := if s.valley.vbor then raiseVal 5 s else s
    let s := if s.upd.cause = 14 then raiseUpd 5 s else s
    bootChecks (startEnds (onUpd (fun u => { u with wantAt := now }) (onPwr (fun p => { p with byDebug := false }) s)))

/-! Temperature (R480 to R486) -/

/-- Key of a THERM register (R493). -/
def thermKey (off : Nat) : Nat := rk .therm 0 off
/-- Change the thermal controller. -/
def onTherm (f : Therm → Therm) (s : State) : State := { s with therm := f s.therm }
/-- Raise a cause of the THERM page: none during a reset or a cut-off. -/
def raiseTherm (k : Nat) (s : State) : State := if s.pwr.reset.isSome || s.pwr.cut then s else raise .therm 0 k s
/-- The thermal controller runs (R473). -/
def thermOn (s : State) : Bool := decide (s.pwr.reset ≠ some .powerOn)
/-- Sixteenths of a degree. -/
def sixteenths (n : Nat) : Int := 16 * (n : Int)
/-- STOP_TH in 1/16 °C. -/
def stopTh (s : State) : Int := sixteenths (rdf s (thermKey 0x044) 0 8)

/-- A demand for sensors: it starts a measurement or joins the next one (R481). -/
def thermDemand (mask : Word) (sw scan : Bool) (s : State) : State :=
  let now := s.now
  if mask &&& 0xFFFFFF = 0 then s
  else onTherm (fun t =>
    if t.running = 0 then
      { t with running := mask &&& 0xFFFFFF, runEnd := now + 40 * usec, runSw := sw, runScan := scan }
    else { t with next := t.next ||| (mask &&& 0xFFFFFF), nextSw := t.nextSw || sw, nextScan := t.nextScan || scan }) s

/-- The orderly stop begins (R482). -/
def orderlyStop (s : State) : State :=
  let t := s.now
  let s := logHap (pageNo .therm 0) (raiseTherm 2 (onTherm (fun x => { x with stopping := true, stopAt := t }) s))
  let s := forEach ((List.range 4).filter fun g => (grid s g).st ≠ 0) (fun g s => islPoll s (gridLeave g s)) s
  let s := forEach ((List.range 4).filter fun r => (rail s r).st ≠ 0) (fun r s => writeRailCtl r 2 s) s
  forEach ((List.range 24).filter fun k => (tracker s k).st ≠ 0) (fun k s => writeTrkCtl k 4 s) s

/-- The hard cut-off (R484). -/
def cutOff (s : State) : State :=
  let s := forEach (List.range 4) soutOff (spoSource 10 true s)
  let s := logToValley (forEach (domsOn s) (fun d s => dropDomain d (offActions d s)) (keepStopFull (tearMonument (nvGrant s) (updCut false (nvLoss s)))))
  let now := s.now
  let s := valleyMark { s with clk := { running := false, tick0 := now, qualFrom := none }, evr := {},
                               pwr := { s.pwr with on := 0xC00, move := none, cut := true } }
  logHap (pageNo .therm 0) (onTherm (fun x => { x with cool := 0 }) s)

/-- The restart after a cut-off (R485): the cut-off, and with it the SPO source THERM, ends; SPO stays latched. The clock
synthesis restarts, and a system reset with THERM begins, also where one has lasted since before the cut-off: PD_CORE and PD_NVM
come on with it (R478, R479). -/
def thermalRestart (s : State) : State :=
  let now := s.now
  let s := onClk (fun c => { c with qualFrom := some now }) (onPwr (fun p => { p with cut := false }) s)
  let s := settleSources (resetCause 4 (beginSystem s.pwr.byDebug (spoSource 10 false s)))
  onTherm (fun t => { t with cut := true }) s

/-- One sensor's result (R480). -/
def storeTemp (n : Nat) (temp : Int) (s : State) : State :=
  let k := thermKey (0x080 + 4 * n)
  wr k (wNat ((wInt temp).toNat % 65536 + 65536 + (rdf s k 24 8 + 1) % 256 * 16777216)) s

/-- A measurement of these sensors ends with these results in 1/16 °C (R480 to R485). -/
def measured (temps : List Int) (s : State) : State :=
  let th := s.therm
  let s := upto th.runEnd s
  let ns := setBits th.running 24
  let at' : Nat → Int := fun n => temps.getD n 0
  let top := ns.foldl (fun (b : Option (Nat × Int)) n =>
    if b.any (fun x => decide (at' n ≤ x.2)) then b else some (n, at' n)) none
  let hot : Int := (top.map (·.2)).getD 0
  let off := s.pwr.reset.isSome || s.pwr.cut
  let s := if off then s else forEach ns (fun n s => storeTemp n (at' n) s) s
  let s := if ns.length = 24 && !off then
      onTherm (fun t => { t with maxSensor := (top.map (·.1)).getD 0, max := hot })
        (wr (thermKey 0x058) (wNat ((wInt hot).toNat % 65536)) s)
    else s
  let s := onTherm (fun t => { t with running := 0, runSw := false, runScan := false, next := 0, nextSw := false, nextScan := false }) s
  let s := thermDemand th.next th.nextSw th.nextScan s
  let warm := decide (sixteenths (rdf s (thermKey 0x044) 8 8) ≤ hot)
  let was := th.warn
  let s := onTherm (fun t => { t with warn := warm || (was && ns.length ≠ 24) }) s
  let s := if warm && !was then raiseTherm 1 s else s
  let s := if th.runSw then raiseTherm 0 s else s
  let limit := stopTh s - sixteenths (rdf s (thermKey 0x040) 8 8)
  let s := if th.runScan then onTherm (fun t => { t with scanCool := ns.all fun n => decide (at' n < limit) }) s else s
  if s.pwr.cut then
    if !th.runScan then s else
    let cool := decide (hot < sixteenths (rdf s (thermKey 0x044) 16 8))
    let s := onTherm (fun t => { t with cool := (if cool then t.cool + 1 else 0) }) s
    if 3 ≤ s.therm.cool then thermalRestart s else s
  else if 2240 ≤ hot then cutOff s
  else if stopTh s ≤ hot && !th.stopping && !th.stopped then orderlyStop s
  else s

/-- STAT (R494). -/
def thermStat (s : State) : Word :=
  let t := s.therm
  setBit (setBit (setBit (setBit (setBit (wNat (256 * t.maxSensor)) 0 (t.running ≠ 0)) 1 t.warn) 2 t.stopping) 3 t.stopped) 4 t.cut

/-- Write CTL.CLR_STOP (R483). -/
def clearStop (s : State) : State :=
  if s.therm.stopped && s.therm.scanCool then raiseTherm 3 (onTherm (fun t => { t with stopped := false }) s)
  else raiseTherm 4 s

/-- TH as a write leaves it: a STOP_TH outside 80 to 128 °C, and a RESUME_TH outside 60 °C to STOP_TH - 10 °C, keep their
previous values (R485, R486, R596). -/
def thTaken (old v : Word) : Word :=
  let v := if 80 ≤ fld v 0 8 ∧ fld v 0 8 ≤ 128 then v else setFld v 0 8 (fld old 0 8)
  if 60 ≤ fld v 16 8 ∧ fld v 16 8 + 10 ≤ fld v 0 8 then v else setFld v 16 8 (fld old 16 8)

/-- Write TH: an ignored threshold raises REFUSED (R486). -/
def writeTh (v : Word) (s : State) : State :=
  let k := thermKey 0x044
  let t := thTaken (rd s k) v
  let s := plainWrite k t s
  if fld t 0 8 = fld v 0 8 ∧ 60 ≤ fld v 16 8 ∧ fld v 16 8 + 10 ≤ fld t 0 8 then s else refuseKey k s

/-- Write the THERM page (R493, R494). -/
def writeTherm (m : Master) (off : Nat) (v : Word) (s : State) : State :=
  let k := thermKey off
  if off = 0x040 then
    let old := rdf s k 0 8
    rwlPath m k true (plainWrite k (if 1 ≤ fld v 0 8 ∧ fld v 0 8 ≤ 100 then v else setFld v 0 8 old)) s
  else if off = 0x044 then rwlPath m k true (writeTh v) s
  else if off = 0x048 then rwlPath m k true (plainWrite k v) s
  else if off = 0x04C then thermDemand v true false s
  else if off = 0x050 then (if bit v 0 then clearStop s else s)
  else s

/-- Write the SYS page (R474, R477, R478, R487). -/
def writeSys (m : Master) (off : Nat) (v : Word) (s : State) : State :=
  if off = 0x040 then rwlPath m (sysKey 0x040) true (writePdCtl v) s
  else if off = 0x048 then
    if fld v 8 8 ≠ 0xA5 then raiseSys 3 s
    else if bit v 0 then systemReset 3 false s
    else s
  else if off = 0x04C then onPwr (fun p => { p with cause := p.cause &&& ~~~ (v &&& 0x3F) }) s
  else s

/-! Meanings -/

/-- PD_CTL_WRITE (R474). -/
def execPdCtlWrite (m : Master) (v : BitVec 16) (s : State) : Host.Outcome State Fault Refusal :=
  .next (byBus m .sys 0 0x040 (fun s => writeSys m 0x040 (wNat v.toNat) s) s)

/-- PD_ON (R474, R475): the transition under way switches a domain on. -/
def execPdOn (s : State) : Host.Outcome State Fault Refusal :=
  .next (
    match s.pwr.move with
    | some (d, true) => domainOn d s
    | _ => s)

/-- PD_OFF (R474, R475): the transition under way switches a domain off. -/
def execPdOff (s : State) : Host.Outcome State Fault Refusal :=
  .next (
    match s.pwr.move with
    | some (d, false) => domainOff d s
    | _ => s)

/-- SUPPLY_FALL (R476, R509, R526): VDD_CORE, VDD_ANA 1.8 V, VDD_ANA 3.3 V or VDD_IO. -/
def execSupplyFall (n : Fin 4) (s : State) : Host.Outcome State Fault Refusal :=
  .next (
    let s := setChargers (onPwr (fun p => { p with supply := setBit p.supply n.val false }) s)
    let s :=
      if n.val = 0 || n.val = 3 then
        if nvGrant s then
          let t := s.now + 20 * msec
          if s.valley.holdup then s else onVal (fun v => { v with holdup := true, holdEnd := t }) s
        else updCut false (nvLoss s)
      else s
    powerOnReset 1 s)

/-- SUPPLY_RISE (R476). -/
def execSupplyRise (n : Fin 4) (s : State) : Host.Outcome State Fault Refusal :=
  .next (
    if bit s.pwr.supply n.val then s
    else settleSources (setChargers (onPwr (fun p => { p with supply := setBit p.supply n.val true }) s)))

/-- PORST_ASSERT (R477). -/
def execPorstAssert (s : State) : Host.Outcome State Fault Refusal :=
  .next (powerOnReset 0 (onPwr (fun p => { p with porst := true }) s))

/-- SYSRST_ASSERT (R477). -/
def execSysrstAssert (s : State) : Host.Outcome State Fault Refusal :=
  .next (systemReset 2 false (onPwr (fun p => { p with sysrst := true }) s))

/-- RST_CTL (R477). -/
def execRstCtl (m : Master) (v : BitVec 16) (s : State) : Host.Outcome State Fault Refusal :=
  .next (byBus m .sys 0 0x048 (fun s => writeSys m 0x048 (wNat v.toNat) s) s)

/-- RESET_END (R477): the pins are high again; a supply below its threshold holds the reset. -/
def execResetEnd (s : State) : Host.Outcome State Fault Refusal := .next (resetEnd s)

/-- GUARD_SCAN (R481). -/
def execGuardScan (s : State) : Host.Outcome State Fault Refusal :=
  .next (
    if !(thermOn s) then s else
    let at' := s.therm.scanAt
    let s := upto at' s
    let next := nextDue at' (rdf s (thermKey 0x040) 0 8 * msec) s.now
    thermDemand 0xFFFFFF false true (onTherm (fun t => { t with scanAt := next }) s))

/-- MEAS (R481). -/
def execMeas (m : Master) (v : BitVec 24) (s : State) : Host.Outcome State Fault Refusal :=
  .next (byBus m .therm 0 0x04C (fun s => writeTherm m 0x04C (wNat v.toNat) s) s)

/-- MEASUREMENT_DONE (R480): the result of sensor n is the n-th of the list, in 1/16 °C. -/
def execMeasurementDone (temps : List Int) (s : State) : Host.Outcome State Fault Refusal :=
  .next (if !(thermOn s) || s.therm.running = 0 then s else measured temps s)

/-- STOP_TIME (R482). -/
def execStopTime (s : State) : Host.Outcome State Fault Refusal :=
  .next (
    if !(thermOn s) || !s.therm.stopping then s else
    let s := upto (s.therm.stopAt + rdf s (thermKey 0x040) 16 16 * msec) s
    let s := forEach (setBits (rd s (thermKey 0x048)) 16) (fun k s => latchSet k 0 0xC0 s) s
    onTherm (fun t => { t with stopping := false, stopped := true }) s)

/-- CLR_STOP (R483). -/
def execClrStop (m : Master) (s : State) : Host.Outcome State Fault Refusal :=
  .next (byBus m .therm 0 0x050 (fun s => writeTherm m 0x050 1 s) s)

/-- VALLEY_SAMPLE (R500): the store in mV; the update function's request joins the sample (R508). -/
def execValleySample (mv : Nat) (s : State) : Host.Outcome State Fault Refusal := .next (valleySample mv (askGrant s))

/-- HOLDUP_END (R509, R526): the queued words and the slot that is being copied are written, as far as the 20 ms go; the
hold-up ends. -/
def execHoldupEnd (s : State) : Host.Outcome State Fault Refusal :=
  .next (
    if !s.valley.holdup then s else
    let s := nvFlush 16 s
    let s := match s.upd.slotEnd with
      | none => s
      | some t =>
        if live s .nvm then s
        else if t ≤ s.valley.holdEnd then slotWritten (upto t s)
        else updCut true (upto s.valley.holdEnd s)
    onVal (fun v => { v with holdup := false }) s)

end Sys2Proof.Machine
end

