-- ==== Sys2Proof/Machine/Reads.lean ====
section
/-! DEFINITION. What a read of a register page returns (R8, R18, R412, R559, R565): the header, the registers that mirror
state, and the reads that capture, advance or pop. -/

namespace Sys2Proof.Machine

/-- LEGi_STAT (R160). -/
def legStat (s : State) (l : Nat) : Word :=
  let g := leg s l
  let w := rd s (legKey l 0x2C) &&& 0xF#32
  let p := pwmPins s l
  let w := setBit (setBit w 4 g.form) 5 (decide (g.b < g.a))
  let w := setBit (setBit w 6 (pacer s (legDom s l) = some l)) 7 g.line
  setBit (setBit (setFld w 8 3 (legRank s l)) 12 p.1) 13 p.2

/-- LEGi_PER as it reads (R133): of a leg other than the pacer, the period in force. -/
def legPerRead (s : State) (l : Nat) : Word :=
  let d := legDom s l
  if pacer s d = some l then rd s (legKey l 0x04) else toTicks (dom s d).per

/-- Registers of a PWMG page that mirror state (R159 to R161). -/
def readPwmg (s : State) (n off : Nat) : Option Word :=
  if off = 0x00C then some (flagWord 8 fun i => outMode s (8 * n + i) ≠ 0)
  else if off = 0x044 ∨ off = 0x064 then
    some (setBit (rd s (rk .pwmg n off)) 3 (!(domHolds s (2 * n + (off - 0x044) / 0x20))))
  else if 0x050 ≤ off ∧ off < 0x05C ∨ 0x070 ≤ off ∧ off < 0x07C then
    let j := (off - 0x050) / 0x20
    some (flagWord 32 fun i => inDom s (2 * n + j) (32 * ((off - 0x050 - 0x20 * j) / 4) + i))
  else if off = 0x080 then
    some ((rd s (rk .pwmg n off) &&& 0xFF00#32) |||
      flagWord 8 fun i => let x := grp s (grpKey .pwmg n i); x.darm && x.armed.isSome)
  else if off = 0x084 then
    let w := flagWord 8 fun i => (leg s (8 * n + i)).valid
    some ((w ||| (rd s (rk .pwmg n off) &&& 0xFF00#32)) ||| (flagWord 8 fun i => (leg s (8 * n + i)).line) <<< 16)
  else if off < 0x100 ∨ 0x300 ≤ off then none
  else
    let l := 8 * n + (off - 0x100) / 0x40
    match (off - 0x100) % 0x40 with
    | 0x04 => some (legPerRead s l)
    | 0x2C => some (legStat s l)
    | 0x34 => some (toTicks (leg s l).a)
    | 0x38 => some (toTicks (leg s l).b)
    | 0x3C => let d := dom s (legDom s l); some (toTicks (if d.begun then d.next - d.start else d.per))
    | _ => none

/-- Registers of an ADC page that mirror state (R64, R65). -/
def readAdc (s : State) (n off : Nat) : Option Word :=
  let a := adc s n
  match off with
  | 0x00C =>
    let c := inForce s (rk .adc n 0x040)
    let w := setBit (rd s (rk .adc n 0x00C) &&& 3#32) 2 (bit c 2)
    some (setBit (setFld w 3 2 (fld c 0 2)) 5 (a.reg.isSome || a.inj.isSome))
  | 0x048 => some (wInt (sfld (rd s (rk .adc n 0x048)) 0 24))
  | 0x084 =>
    let e := match a.inj with | some i => i | none => a.reg.getD 0
    let w := setBit (setBit (wNat e) 5 a.inj.isSome) 6 a.injPend
    some (w ||| (rd s (rk .adc n 0x084) &&& 0xFFFF00#32))
  | _ => if 0x100 ≤ off ∧ off < 0x160 then some (resultWord s n (rk .adc n off)) else none

/-- Registers of the TRIP page that mirror state (R194, R195). -/
def readTrip (s : State) (off : Nat) : Option Word :=
  let pend : Nat → Bool := fun i => (rd s (tripKey i 0x18) >>> 8) &&& rd s (tripKey i 0x14) &&& 0x3F#32 ≠ 0
  match off with
  | 0x00C => some (tripStatus s)
  | 0x010 => some (flagWord 32 pend)
  | 0x014 => some 0
  | 0x040 => some (flagWord 16 fun j => pend (32 + j))
  | _ =>
    if 0x100 ≤ off ∧ off < 0x700 ∧ off % 0x20 = 0x18 then some (tripStat s ((off - 0x100) / 0x20))
    else if 0x800 ≤ off ∧ off < 0xA00 ∧ off % 0x20 = 0x14 then some (setStat s ((off - 0x800) / 0x20))
    else none

/-- Registers of a CMP page that mirror state (R197, R198). -/
def readCmp (s : State) (n off : Nat) : Option Word :=
  let st : Nat → Word := fun i => monStat s (8 * n + i)
  if off = 0x00C then some (flagWord 16 fun i => if i < 8 then bit (st i) 2 else bit (st (i - 8)) 3)
  else if 0x100 ≤ off ∧ off < 0x200 ∧ off % 0x20 = 0x18 then some (monStat s (8 * n + (off - 0x100) / 0x20))
  else none

/-- Registers of a DRV page that mirror state (R199 to R201). -/
def readDrv (s : State) (n off : Nat) : Option Word :=
  if off = 0x00C then some (flagWord 4 fun i => phEn s (4 * n + i))
  else if off = 0x044 then some (grpStat s n)
  else if 0x100 ≤ off ∧ off < 0x180 ∧ off % 0x20 = 4 then some (phStat s (4 * n + (off - 0x100) / 0x20))
  else none

/-- The debugger holds a lane: it has halted at its pass start (R533). -/
def laneHalted (s : State) (n : Nat) : Bool := laneOn s n && (lane s n).held

/-- ENGn.STATUS (R104). -/
def laneStatus (s : State) (n : Nat) : Word :=
  let x := lane s n
  let ready := match x.swap with | .ready _ => true | _ => false
  let w := setBit (setBit (wNat x.st) 2 x.active) 3 (ready || x.dueSwap.isSome || s.eng.global = .ready)
  let busy := (s.eng.jobs.any fun j => j.1 = n) || (s.eng.global = .checking && (globalLanes s).contains n)
  setBit (setBit w 4 busy) 5 (laneHalted s n)

/-- ENGC.STATUS (R107). -/
def engcStatus (s : State) : Word :=
  let g := s.eng.global
  let w := setBit (setBit (0 : Word) 0 (!s.eng.jobs.isEmpty || g = .checking)) 1 (g ≠ .none)
  setBit (setBit w 2 (g = .ready)) 3 (rdb s (engcKey 0x050) 9)

/-- Registers of the SYS page that mirror state (R488). -/
def readSys (s : State) (off : Nat) : Option Word :=
  match off with
  | 0x00C => some (s.pwr.boot &&& 0xFF)
  | 0x044 => some (pdStat s)
  | 0x04C => some s.pwr.cause
  | 0x058 => some s.pwr.supply
  | 0x05C => some s.pwr.boot
  | _ => none

/-- Registers of the CLK page that mirror state (R490, R491). -/
def readClk (s : State) (off : Nat) : Option Word :=
  if off = 0x00C ∨ off = 0x04C then some (clkStat s)
  else if off = 0x054 then some (wInt s.clk.ppm)
  else if 0x090 ≤ off ∧ off < 0x0A8 then some (smGet (smConst 8) s.clk.outDiv ((off - 0x090) / 4))
  else none

/-- Registers of the THERM page that mirror state (R494). -/
def readTherm (s : State) (off : Nat) : Option Word :=
  match off with
  | 0x00C => some (thermStat s &&& 0xFF)
  | 0x054 => some (thermStat s)
  | 0x058 => some (wInt s.therm.max &&& 0xFFFF)
  | _ => none

/-- Registers of the VALLEY page that mirror state (R510, R511). -/
def readValley (s : State) (off : Nat) : Option Word :=
  let v := s.valley
  match off with
  | 0x00C | 0x04C => some (valleyStat s)
  | 0x050 => some (wNat v.vstore)
  | 0x054 => some (wNat (held 0xFFFFFF (budget s)))
  | 0x058 => some (wNat (held 0xFFFFFF (granted s)))
  | 0x060 => some (setBit (wNat v.burst) 2 v.timedOut)
  | 0x064 => some (wNat (held 0xFFFF v.refused + 65536 * held 0xFFFF v.vpgFalls))
  | 0x068 => some (wNat v.hvOc)
  | 0x084 => some (setBit (setBit 0 0 v.rtcValid) 1 v.xtFail)
  | _ => none

/-- Registers of the EVR page that mirror state (R458, R459): BASE reads 0 until the writer's MARK BOOT. -/
def readEvr (s : State) (off : Nat) : Option Word :=
  let g := s.log
  let base := g.baseRtc && !g.replay && !g.bootMark
  match off with
  | 0x00C => some (setBit (setBit (setBit 0 0 s.evr.reset) 1 base) 2 g.full)
  | 0x064 => some (setBit (setBit (setBit (wNat (g.head + 65536 * held 0xFFFF g.dropped)) 12 g.full) 13 base) 14 g.replay)
  | 0x068 => some (wNat g.seq)
  | 0x06C => some (wNat (held 0xFFFF g.wraps + 65536 * held 0xFFFF g.late))
  | 0x090 => some (wNat g.bad)
  | _ =>
    if 0x400 ≤ off ∧ off < 0x800 then
      let c := chan s ((off - 0x400) / 0x10)
      match off % 0x10 with
      | 0x4 => some (setBit (wNat (c.recs.length + 256 * c.lost + 65536 * c.promo)) 4 c.gap)
      | 0xC => some c.rec1
      | _ => none
    else none

/-- Registers of the PLUMB page kept by the password machine and the field book (R412); the rest mirror Plumb. -/
def readPlumbPage (s : State) (off : Nat) : Option Word :=
  if off = 0x118 then some (pwStat s) else if off = 0x120 then some (fbStat s) else readPlumb s off

/-- DBG.STAT (R540). -/
def dbgStat (s : State) : Word :=
  setBit (setBit (flagWord 4 fun h => (hart s h).halted) 4 s.dbg.active) 5 (domOn s .dbg)

/-- A register that mirrors state, by its page. -/
def readMirror (s : State) (t : PageType) (n off : Nat) : Option Word :=
  match t with
  | .sys => readSys s off
  | .clk => readClk s off
  | .evr => readEvr s off
  | .therm => readTherm s off
  | .pwmg => readPwmg s n off
  | .adc => readAdc s n off
  | .trip => readTrip s off
  | .cmp => readCmp s n off
  | .eng => if off = 0x00C then some (laneStatus s n) else none
  | .engc => if off = 0x00C then some (engcStatus s) else if off = 0x010 ∨ off = 0x014 then some 0 else none
  | .snd =>
    if off = 0x00C then some (sndStatus s)
    else if off = 0x2C0 ∧ rdb s (rk .snd 0 0x00C) 16 then some (setFld (rd s (rk .snd 0 off)) 0 3 4)
    else none
  | .drv => readDrv s n off
  | .grid => readGrid s n off
  | .isl => readIsl s off
  | .mppt => readMppt s off
  | .reg => readReg s n off
  | .mtr => readMtr s n off
  | .ring => readRing s n off
  | .datum => readDatum s off
  | .plumb => readPlumbPage s off
  | .pch => readPch s off
  | .pair => readPair s off
  | .valley => readValley s off
  | .nvm => if off = 0x00C then some (nvStat s &&& 0xFF) else if off = 0x044 then some (nvStat s) else none
  | .pmc => if off = 0x00C then some (rd s (pmcKey 0x044) &&& 0xFF) else none
  | .dbg => if off = 0x00C then some (dbgStat s &&& 0xFF) else if off = 0x048 then some (dbgStat s) else none
  | .upd => readUpd s off
  | .eth | .gpio | .i2c | .spi | .uart => readGio s t n off

/-- Armed groups of a page: what COMMIT reads (R18). -/
def armedWord (s : State) (t : PageType) (n : Nat) : Word :=
  flagWord 8 fun g => hasGroup t g && (grp s (grpKey t n g)).armed.isSome

/-- What a register of a page reads, with no effect of the read. -/
def pageValue (s : State) (t : PageType) (n off : Nat) : Word :=
  if off = 0x008 then lockWord s
  else if off = 0x018 then 0
  else if off = 0x020 then armedWord s t n
  else match readMirror s t n off with
  | some w => w
  | none =>
    match regRow (rk t n off) with
    | some r => if r.cls = .wo then 0 else rd s (rk t n off)
    | none => rd s (rk t n off)

/-- The state a command leaves, where it leaves one. -/
def after (f : State → Host.Outcome State Fault Refusal) (s : State) : State :=
  match f s with
  | .next t => t
  | _ => s

/-- A read of a register by a master, with what the read captures, advances or pops (R45, R128, R249, R256, R316, R351,
R378, R411, R441, R450, R464, R503, R537, R591). -/
def pageRead (m : Master) (t : PageType) (n off : Nat) (s : State) : State :=
  let plain := respond (pageValue s t n off) s
  match t with
  | .sys => if off = 0x050 then after (execTickLoRead m) s else plain
  | .valley => if off = 0x070 then after (execRtcLoRead m) s else plain
  | .datum => if off = 0x084 then after (execTimeLoRead m) s else plain
  | .plumb => if off = 0x128 then after (execFbDataRead m) s else plain
  | .mppt => if off = 0x050 then after (execSwpPRead m) s else plain
  | .isl => if off = 0x0A4 then after (execAmpDataAccess m none) s else if off = 0x098 then readDecTime s else plain
  | .evr =>
    if off = 0x074 then after (execLogDataRead m) s
    else if 0x400 ≤ off ∧ off < 0x800 ∧ off % 0x10 = 8 then readRec0 ((off - 0x400) / 0x10) s
    else plain
  | .adc =>
    if off = 0x060 then after (execAvgRead m (Fin.ofNat 32 n)) s
    else if 0x100 ≤ off ∧ off < 0x140 then after (execResultRead m (Fin.ofNat 32 n) (Fin.ofNat 20 ((off - 0x100) / 4))) s
    else if 0x150 ≤ off ∧ off < 0x160 then after (execResultRead m (Fin.ofNat 32 n) (Fin.ofNat 20 (16 + (off - 0x150) / 4))) s
    else plain
  | .snd =>
    if off = 0x044 then after (execCapDataRead m) s
    else if 0x400 ≤ off ∧ off < 0x600 ∧ off % 8 = 0 then
      after (execIaccLoRead m (Fin.ofNat 8 ((off - 0x400) / 0x40)) (Fin.ofNat 8 ((off - 0x400) % 0x40 / 8))) s
    else plain
  | .mtr =>
    if off = 0x080 then after (execCycCntRead m (Fin.ofNat 4 n)) s
    else if 0x100 ≤ off ∧ off < 0x138 ∧ off % 8 = 0 then after (execELoRead m (Fin.ofNat 4 n) (Fin.ofNat 7 ((off - 0x100) / 8))) s
    else plain
  | .ring =>
    if off = 0x07C then after (execSfpDataRead m (Fin.ofNat 2 n)) s
    else if off = 0x0D4 ∧ n = 0 then after (execRmemDataAccess m none) s
    else plain
  | .pmc => if 0x100 ≤ off ∧ off < 0x900 ∧ off % 0x20 = 0x0C then readCtrLo ((off - 0x100) / 0x20) s else plain
  | .spi => if off = 0x04C then readSpiRx n s else plain
  | .uart => if off = 0x04C then readUartRx n s else plain
  | _ => plain

end Sys2Proof.Machine
end

