-- ==== Sys2Proof/Machine/Bus.lean ====
section
/-! DEFINITION. Writes of register pages by a bus master (R8, R558, R559, R564 to R569): the header, shadow writes, guarded
writes and the effect of every other register; and accesses of the address ranges of R514. -/

namespace Sys2Proof.Machine

/-! Commit groups -/

/-- The group of a shadowed register of a page. -/
def groupOf (t : PageType) (off : Nat) : Nat :=
  match t with
  | .pwmg => (off - 0x100) / 0x40
  | .cmp => (off - 0x100) / 0x20
  | _ => 0

/-- A shadowed register ignores the value: a non-finite duty (R160) or grid command (R212). -/
def shadowIgnores (t : PageType) (off : Nat) (v : Word) : Bool :=
  match t with
  | .pwmg => decide ((off - 0x100) % 0x40 = 0x10) && !(finF v)
  | .grid => !(finF v)
  | _ => false

/-- The form that a leg's shadow write selects (R134). -/
def selectForm (t : PageType) (n off : Nat) (s : State) : State :=
  if t ≠ .pwmg then s else
  let l := 8 * n + groupOf t off
  match (off - 0x100) % 0x40 with
  | 0x08 | 0x0C => onLeg l (fun x => { x with form := false }) s
  | 0x10 => onLeg l (fun x => { x with form := true }) s
  | _ => s

/-- LEGi_PER of a leg that is not its domain's pacer (R133). -/
def strayPeriod (s : State) (t : PageType) (n off : Nat) : Bool :=
  t == .pwmg && decide ((off - 0x100) % 0x40 = 0x04) &&
    decide (pacer s (legDom s (8 * n + groupOf t off)) ≠ some (8 * n + groupOf t off))

/-- A bus write of a shadowed register (R16): the shadow takes the value and its group opens. -/
def shadowWrite (m : Master) (t : PageType) (n off : Nat) (v : Word) (s : State) : State :=
  let g := groupOf t off
  if strayPeriod s t n off then wrb (legKey (8 * n + g) 0x2C) 3 true s
  else if shadowIgnores t off v then s
  else
    let k := grpKey t n g
    let was := (grp s k).openAt.isSome
    let s := openGroup t n g s
    let s := if was then s else setGrp k { grp s k with opener := some (masterNo m) } s
    selectForm t n off (plainWrite (rk t n off) v s)

/-- The boundary at which a group commits falls in this CLK_FAB cycle: a discard acts on nothing (R569). -/
def commitsNow (s : State) (t : PageType) (n g : Nat) : Bool :=
  let d := (grp s (grpKey t n g)).dom
  hasGroup t g && (grp s (grpKey t n g)).armed.isSome && domRuns s d && decide (nextTick s d / fabCyc = s.now / fabCyc) &&
    (dueGroups (darmsDue d s) t d (nextTick s d)).contains (n, g)

/-- An ARM bit: in the cycle of the group's boundary the arm applies after the commit or refusal (R569). -/
def armByBus (t : PageType) (n g : Nat) (s : State) : State :=
  let k := grpKey t n g
  if commitsNow s t n g then setGrp k { grp s k with rearm := true } s else armGroup t n g s

/-- Write COMMIT (R18, R569): discards act first; a group discarded by the same write is not armed. -/
def writeCommit (t : PageType) (n : Nat) (v : Word) (s : State) : State :=
  let s := forEach ((List.range 8).filter fun g => bit v (8 + g) && !(commitsNow s t n g)) (fun g s => dropGroup t n g s) s
  forEach ((List.range 8).filter fun g => bit v g && !(bit v (8 + g))) (fun g s => armByBus t n g s) s

/-- Write COMMIT_STAT (R19): SPLIT, LATE and REFUSED clear by a 1. -/
def clearCommitStat (t : PageType) (n : Nat) (v : Word) (s : State) : State :=
  if hasGroup t 0 then wr (rk t n 0x024) (rd s (rk t n 0x024) &&& ~~~ (v &&& 0xFFFFFF00#32)) s else s

/-! The header -/

/-- Clear every cause of trip inputs `first` on (R194). -/
def clearTrips (first n : Nat) (v : Word) (s : State) : State :=
  forEach ((List.range n).filter (bit v)) (fun j s => clearTrip (first + j) 0x3F00#32 s) s

/-- Write EV_RAW or EV_CLR (R106, R194, R564). -/
def writeEvClr (t : PageType) (n : Nat) (raw : Bool) (v : Word) (s : State) : State :=
  match t with
  | .engc => s
  | .trip => if raw then s else clearTrips 0 32 v s
  | _ => clearCauses t n v s

/-- Causes that raise the alert of R282 through their rail: enabling one that is set asserts it as well. -/
def alertEnabled (t : PageType) (n : Nat) (fresh : Word) (s : State) : State :=
  if t = .reg && fresh ≠ 0 && rdb s (rk .reg n 0x108) 16 then { s with cmdPorts := { s.cmdPorts with alert := true } } else s

/-- Write EV_EN (R564). -/
def writeEnables (t : PageType) (n : Nat) (v : Word) (s : State) : State :=
  match t with
  | .engc | .trip => s
  | _ =>
    let fresh := rd s (rk t n 0x010) &&& v &&& ~~~ rd s (rk t n 0x014)
    alertEnabled t n fresh (writeEvEn t n v s)

/-- Write a header register (R559). -/
def writeHeader (t : PageType) (n off : Nat) (v : Word) (s : State) : State :=
  match off with
  | 0x00C => if t = .evr && bit v 0 then { s with evr := { s.evr with reset := false } } else s
  | 0x010 => writeEvClr t n true v s
  | 0x014 => writeEnables t n v s
  | 0x018 => writeEvClr t n false v s
  | 0x020 => writeCommit t n v s
  | 0x024 => clearCommitStat t n v s
  | _ => s

/-! Guarded writes -/

/-- The owning page accepts a guarded write. -/
def guardedOk (t : PageType) (n off : Nat) (v : Word) (s : State) : Bool :=
  match t with
  | .trip => !(decide (0x800 ≤ off) && (safeSet s ((off - 0x800) / 0x20)).latched)
  | .grid => gridWriteOk s n
  | .isl => islWriteOk s
  | .mppt => mpptWriteOk s off
  | .reg => regWriteOk s n
  | .mtr => mtrWriteOk s n off v
  | .ring => ringWriteOk s off
  | .datum => datumWriteOk s off v
  | .pair => pairWriteOk s off v
  | _ => true

/-- The effect of an accepted guarded write. -/
def guardedEffect (m : Master) (t : PageType) (n off : Nat) (v : Word) (s : State) : State :=
  match t with
  | .trip => if off < 0x800 then writeTripCfg ((off - 0x100) / 0x20) v s else settle s (plainWrite (rk t n off) v s)
  | .drv => if off < 0x100 then settle s (plainWrite (rk t n off) v s) else writePhCfg (4 * n + (off - 0x100) / 0x20) v s
  | .evr =>
    let v := if off = 0x060 then setFld v 16 10 (min 1000 (fld v 16 10)) else v
    plainWrite (rk t n off) v s
  | .grid => islRefresh (writeGrid n off v s)
  | .isl => writeIsl off v s
  | .mppt => writeMppt off v s
  | .reg => writeReg n off v s
  | .mtr => writeMtr m n off v s
  | .ring => spurSides (writeRing n off v s)
  | .datum => writeDatum off v s
  | .pair => writePair off v s
  | .pmc => writeWdtCfg v s
  | .dbg => nextMove (plainWrite (rk t n off) v s)
  | _ => plainWrite (rk t n off) v s

/-- A write to a member or configuration register of a latched set sets WR_IGN (R168). -/
def noteIgnored (t : PageType) (n off : Nat) (ok : Bool) (s : State) : State :=
  if t = .trip && !ok && levelOk s (rk t n off) then wrb (setKey ((off - 0x800) / 0x20) 0x14) 2 true s else s

/-- A guarded write of a page whose guarded registers take the common path (R566). -/
def guardedWrite (m : Master) (t : PageType) (n off : Nat) (v : Word) (s : State) : State :=
  let ok := guardedOk t n off v s
  let full := stagingFull s
  let s := noteIgnored t n off ok
    (rwlPathBy (fun s => pageValue s t n off) m (rk t n off) ok (guardedEffect m t n off v) s)
  if t = .reg && levelOk s (rk t n off) && (full || !ok) then regAlert n 13 s else s

/-! Every other register -/

/-- Write a TRIP register that is neither guarded nor in the header (R173, R194 to R196). -/
def writeTrip (off : Nat) (v : Word) (s : State) : State :=
  if off = 0x044 then clearTrips 32 16 v s
  else if off < 0x800 then
    let i := (off - 0x100) / 0x20
    match off % 0x20 with
    | 0x14 =>
      let fresh := (rd s (tripKey i 0x18) >>> 8) &&& v &&& ~~~ rd s (tripKey i 0x14) &&& 0x3F#32
      let s := plainWrite (tripKey i 0x14) v s
      if fresh = 0 then s else occur (192 + i) s
    | 0x18 =>
      let s := clearTrip i v s
      if bit v 3 then clearHeld i s else s
    | _ => plainWrite (rk .trip 0 off) v s
  else if off % 0x20 = 0x18 then railAfterClear (writeSetCtl ((off - 0x800) / 0x20) v s)
  else plainWrite (rk .trip 0 off) v s

/-- Write a CMP register that is neither guarded nor shadowed (R180 to R183). -/
def writeCmp (n off : Nat) (v : Word) (s : State) : State :=
  let i := 8 * n + (off - 0x100) / 0x20
  match off % 0x20 with
  | 0x00 => writeMonCfg i v s
  | 0x18 => if bit v 3 then clearLatched i s else s
  | _ => monUpdate i (plainWrite (rk .cmp n off) v s)

/-- Write an ENG register (R104). -/
def writeEng (n off : Nat) (v : Word) (s : State) : State :=
  if off = 0x040 then writeLaneCtrl n v s
  else if 0x048 ≤ off ∧ off < 0x098 then writeBank n off v s
  else plainWrite (rk .eng n off) v s

/-- Write an ENGC register (R107). -/
def writeEngc (off : Nat) (v : Word) (s : State) : State :=
  if off = 0x040 then engcCtl v s
  else if off = 0x050 then writeVerify v s
  else if 0x080 ≤ off ∧ off < 0x0C0 then writeTtype ((off - 0x080) / 4) v s
  else plainWrite (rk .engc 0 off) v s

/-- Write an EVR register that is not guarded (R443, R448 to R450, R459). -/
def writeEvr (off : Nat) (v : Word) (s : State) : State :=
  match off with
  | 0x054 => forEach (setBits v 8) (fun j s => occur (504 + j) s) s
  | 0x064 => if bit v 12 then clearLogFull s else s
  | 0x070 => plainWrite (rk .evr 0 off) v { s with log := { s.log with rword := 0 } }
  | 0x08C => if bit v 31 then goLog (fld v 0 8) s else s
  | _ =>
    if 0x400 ≤ off ∧ off < 0x800 then
      let c := (off - 0x400) / 0x10
      if off % 0x10 = 4 ∧ bit v 4 then setChan c { chan s c with gap := false } s else s
    else plainWrite (rk .evr 0 off) v s

/-- Write a PLUMB register that is not guarded (R385, R392, R402, R406, R411). -/
def writePlumb (m : Master) (off : Nat) (v : Word) (s : State) : State :=
  match off with
  | 0x04C => writeSpoCtl m v s
  | 0x084 => writeSoutCtl v s
  | 0x0FC => writeSadCtl m v s
  | 0x110 => writePwData v s
  | 0x114 => if fld v 0 3 = 0 then s else pwCommand m (fld v 0 3) (fld v 8 6) s
  | 0x124 => plainWrite (rk .plumb 0 off) v { s with fb := { s.fb with rword := 0 } }
  | _ => s

/-- Write a RING register that is not guarded; RMEM_DATA advances RMEM_ADDR (R350). -/
def writeRingPage (n off : Nat) (v : Word) (s : State) : State :=
  if off = 0x0D4 ∧ n = 0 then
    let a := rdf s (ringKey 0 0x0D0) 0 16
    memWrWord (ringBase + 4 * a) v (wrf (ringKey 0 0x0D0) 0 16 (a + 1) s)
  else writeRing n off v s

/-- A write of a register that is in a page's table and is neither guarded nor shadowed. A 1 written to GRP_STAT.CLR_REF clears
it, as R201 gives the bit, where R190 says that writes to GRP_STAT are ignored.  DESIGN CHOICE (log entry 76). -/
def plainEffect (m : Master) (t : PageType) (n off : Nat) (v : Word) (s : State) : State :=
  match t with
  | .sys => writeSys m off v s
  | .clk => datumRefresh (writeClk m off v s)
  | .therm => writeTherm m off v s
  | .valley => writeValley m off v s
  | .pwmg =>
    if off = 0x040 ∨ off = 0x060 then islRefresh (writeDomCtrl (2 * n + (off - 0x040) / 0x20) v s)
    else if off = 0x080 then writeDarm n v s
    else if 0x100 ≤ off ∧ off % 0x40 = 0 then islRefresh (writeLegCfg (8 * n + (off - 0x100) / 0x40) v s)
    else plainWrite (rk t n off) v s
  | .trip => writeTrip off v s
  | .cmp => writeCmp n off v s
  | .eng => writeEng n off v s
  | .engc => writeEngc off v s
  | .snd => writeSnd m off v s
  | .grid => if off = 0x0E0 then gridCtl n v s else writeGrid n off v s
  | .isl => writeIsl off v s
  | .mppt => writeMppt off v s
  | .reg => writeReg n off v s
  | .mtr => writeMtr m n off v s
  | .ring => writeRingPage n off v s
  | .datum => writeDatum off v s
  | .plumb => writePlumb m off v s
  | .pch => writePch off v s
  | .pair => if off = 0x090 then writePairCtl v s else s
  | .evr => writeEvr off v s
  | .pmc => if off = 0x04C then kickWdt m v s else writePmc off v s
  | .upd => writeUpd m off v s
  | .gpio => writeGpio off v s
  | .i2c => if off = 0x044 then writeI2cCmd n v s else plainWrite (rk t n off) v s
  | .spi => writeSpi n off v s
  | .uart => writeUart n off v s
  | .eth => writeEth n off v s
  | .adc | .drv | .nvm | .dbg => plainWrite (rk t n off) v s

/-- SEQ_CTL with SW_START acts only as the trigger (R66). -/
def triggersStart (t : PageType) (off : Nat) (v : Word) : Bool := t == .adc && decide (off = 0x080) && bit v 31

/-- A guarded register takes its page's own path. -/
def guarded (m : Master) (t : PageType) (n off : Nat) (v : Word) (s : State) : State :=
  match t with
  | .sys | .clk | .therm | .valley | .snd => plainEffect m t n off v s
  | .plumb | .pch => handPlumb m (rk t n off) v s
  | .ring => if 0x0A0 ≤ off ∧ n ≠ 0 then s else guardedWrite m t n off v s
  | _ => guardedWrite m t n off v s

/-- A register's write comes behind a guarded write of its master to PLUMB or PCH that has yet to take effect (R451). -/
def mustWait (s : State) (m : Master) (t : PageType) (n off : Nat) : Bool :=
  (t == .plumb || t == .pch) && heldBehind s m (t == .pch) && !((regRow (rk t n off)).any fun r => decide (r.cls = .rwl ∨ r.cls = .rws))

/-- A write of a register page (R8, R559): offsets that no table lists ignore it. OUTs that have issued are in their
shadows by then. -/
def pageWrite (m : Master) (t : PageType) (n off : Nat) (v : Word) (s : State) : State :=
  let s := flushOuts s.now s
  if mustWait s m t n off then
    onPlumb (fun p => { p with handed := p.handed ++ [{ master := m, key := rk t n off, val := v, guarded := false }] }) s
  else if off < 0x040 then writeHeader t n off v s
  else match regRow (rk t n off) with
  | none => s
  | some r =>
    if triggersStart t off v then swStart n s
    else if r.cls = .rwl then guarded m t n off v s
    else if r.cls = .rws then shadowWrite m t n off v s
    else plainEffect m t n off v s

/-! Writes of Plumb's pages that waited (R381, R451, R566) -/

/-- A plain write that waited takes effect. -/
def waitedWrite (h : Handed) (s : State) : State :=
  match keyPage h.key with
  | some (t, n) => if keyOff h.key < 0x040 then writeHeader t n (keyOff h.key) h.val s else plainEffect h.master t n (keyOff h.key) h.val s
  | none => s

/-- The plain writes that no guarded write of their master and page comes before any more take effect, in order; `kept`
are the writes before them that wait on. -/
def releaseWaiting (kept : List Handed) : List Handed → State → State
  | [], s => onPlumb (fun p => { p with handed := kept }) s
  | h :: hs, s =>
    if h.guarded || kept.any (fun k => decide (k.master = h.master ∧ pageIndex k.key = pageIndex h.key)) then
      releaseWaiting (kept ++ [h]) hs s
    else releaseWaiting kept hs (waitedWrite h s)

/-- PLUMB_WRITE_APPLIED (R381): the oldest write handed over, and what waited behind it. -/
def plumbApply (s : State) : State :=
  match s.plumb.handed with
  | [] => s
  | h :: rest => releaseWaiting [] rest (applyHanded h s)

/-- PLUMB_WRITE_APPLIED (R381). -/
def execPlumbWriteApplied (s : State) : Host.Outcome State Fault Refusal := .next (plumbApply s)

/-! Accesses by address (R514, R558) -/

/-- A 32-bit write inside the register window; where no page lies, it is ignored (R558). -/
def regWrite (m : Master) (a : Nat) (v : Word) (s : State) : State :=
  let k := busKey a
  match keyPage k with
  | none => busCycle s
  | some (t, n) => atPage m t (keyOff k) (pageWrite m t n (keyOff k) v) s

/-- A 32-bit read inside the register window: 0 where no page lies or the page is not reached (R558, R565). -/
def regRead (m : Master) (a : Nat) (s : State) : State :=
  let k := busKey a
  busCycle (match keyPage k with
    | none => respond 0 s
    | some (t, n) => if pageUp s t (keyOff k) then pageRead m t n (keyOff k) (flushOuts s.now s) else respond 0 s)

/-- An access of 1, 2, 4 or 8 bytes, aligned. -/
def aligned (a n : Nat) : Bool := (n = 1 || n = 2 || n = 4 || n = 8) && decide (a % n = 0)

/-- A write by a bus master of bytes at an address, by the ranges of R514: a write that breaks the attributes of its range, or
lies outside every range, is a bus error, and nothing is written. The master may serve a hart's request (R528). -/
def busWrite (m : Master) (req : Option Nat) (a : Nat) (bytes : List Byte) (s : State) : State :=
  let s := pmcAccess (masterNo m, req) true a (pageAt a) s
  let n := bytes.length
  if !(aligned a n) then busError s
  else if pageWindow a then
    if n = 4 then regWrite m a (wNat (leNat bytes)) s else busError s
  else if nvBase ≤ a ∧ a < nvBase + nvSize then
    nvBusWrite m req a bytes (decide (s.upd.st = 0 ∧ pkgBase ≤ a ∧ a < pkgBase + 0x400000)) s
  else if sramBase ≤ a ∧ a < sramBase + 0x400000 then
    busCycle (if fabricUp s then sramWrite a bytes s else s)
  else if engBase ≤ a ∧ a < engBase + 0x100000 then
    if n = 4 || n = 8 then busCycle (if fabricUp s && domOn s .eng then engBusWrite m a (bytesWords bytes) s else s)
    else busError s
  else busError s

/-! Meanings -/

/-- SHADOW_WRITE (R16): a write of a shadowed register at a bus address. -/
def execShadowWrite (m : Master) (a : Nat) (v : Word) (s : State) : Host.Outcome State Fault Refusal :=
  .next (busWrite m none a (leBytes 4 v.toNat) s)

/-- The page an index names, with its COMMIT register written (R18). -/
def commitAt (m : Master) (page : BitVec 12) (v : Word) (s : State) : State :=
  busWrite m none (0x40000000 + 0x1000 * page.toNat + 0x020) (leBytes 4 v.toNat) s

/-- ARM (R18). -/
def execArm (m : Master) (page : BitVec 12) (groups : Byte) (s : State) : Host.Outcome State Fault Refusal :=
  .next (commitAt m page (wNat groups.toNat) s)

/-- DISCARD (R18). -/
def execDiscard (m : Master) (page : BitVec 12) (groups : Byte) (s : State) : Host.Outcome State Fault Refusal :=
  .next (commitAt m page (wNat (256 * groups.toNat)) s)

/-- RWL_WRITE (R566): a write of a guarded register at a bus address. -/
def execRwlWrite (m : Master) (a : Nat) (v : Word) (s : State) : Host.Outcome State Fault Refusal :=
  .next (busWrite m none a (leBytes 4 v.toNat) s)

/-- REGISTER_WRITE (R8, R514, R558): a write of bytes at a bus address. -/
def execRegisterWrite (m : Master) (a : Nat) (bytes : List Byte) (s : State) : Host.Outcome State Fault Refusal :=
  .next (busWrite m none a bytes s)

end Sys2Proof.Machine
end

