-- ==== Sys2Proof/Machine/CmdPorts.lean ====
section
/-! DEFINITION. The AVSBus and PMBus targets of the regulator (R280, R281). -/

namespace Sys2Proof.Machine

/-- Change the command ports. -/
def onPorts (f : CmdPorts → CmdPorts) (s : State) : State := { s with cmdPorts := f s.cmdPorts }

/-! AVSBus (R280) -/

/-- The rails a Select field addresses: 0xF is the broadcast. -/
def avsRails (s : State) (sel : Nat) : List Nat :=
  if !(live s .reg) then [] else
  (List.range 4).filter fun r =>
    let c := rd s (regKey r 0x0D8)
    if sel = 15 then bit c 4 else fld c 0 4 = sel

/-- The rail that answers a read: only rail 0 answers the broadcast. -/
def avsReader (s : State) (sel : Nat) : Option Nat :=
  if sel = 15 then (if (avsRails s 15).contains 0 then some 0 else none) else (avsRails s sel).head?

/-- A write of a rail acts; only a rail whose CMD_SRC selects AVSBus takes it (R277). -/
def avsApply (r : Nat) (w : AvsWrite) (s : State) : State :=
  match w with
  | .volt mv => railCommand r 1 (ratF mv 1000) none s
  | .boot => railCommand r 1 (regF s r 0x080) none s
  | .status => onRail r (fun x => { x with alert := false }) s
  | .rate up dn =>
    if rdf s (regKey r 0x040) 16 3 ≠ 1 then raiseReg r 9 (incHeld (regKey r 0x100) 16 16 s)
    else wr (regKey r 0x08C) (ofIntF up) (wr (regKey r 0x090) (ofIntF dn) s)

/-- A write frame: held, or committed with what is held before it; one whose CRC is bad is answered so and changes nothing. -/
def avsWrite (f : AvsFrame) (commit : Bool) (w : AvsWrite) (s : State) : State :=
  let rs := avsRails s f.sel
  if rs.isEmpty then onPorts (fun p => { p with avs := .none }) s
  else if f.badCrc then onPorts (fun p => { p with avs := .badCrc }) s else
  let s := forEach rs (fun r s =>
    let x := rail s r
    let ws := x.held ++ [w]
    if commit then forEach ws (avsApply r) (setRail r { x with held := [] } s) else setRail r { x with held := ws } s) s
  onPorts (fun p => { p with avs := .ok 0 }) s

/-- A read frame. -/
def avsRead (f : AvsFrame) (get : State → Nat → Nat) (s : State) : State :=
  let a := match avsReader s f.sel with
    | some r => if f.badCrc then AvsAnswer.badCrc else AvsAnswer.ok (get s r % 65536)
    | none => .none
  onPorts (fun p => { p with avs := a }) s

/-- A number scaled and rounded to the nearest integer. -/
def scaled (k : Int) (w : Word) : Nat := (fRoundAway (fMul (fInt k 0) (f32 w))).toNat

/-- AVS_VOLTAGE_WRITE (R280). -/
def execAvsVoltageWrite (f : AvsFrame) (commit : Bool) (mv : BitVec 16) (s : State) : Host.Outcome State Fault Refusal :=
  .next (avsWrite f commit (.volt mv.toNat) s)

/-- AVS_VOLTAGE_READ (R280): TARGET in mV. -/
def execAvsVoltageRead (f : AvsFrame) (s : State) : Host.Outcome State Fault Refusal :=
  .next (avsRead f (fun s r => scaled 1000 (rail s r).target) s)

/-- AVS_TRANSRATE_WRITE (R280): mV/us, which is V per ms. -/
def execAvsTransrateWrite (f : AvsFrame) (commit : Bool) (up dn : BitVec 8) (s : State) : Host.Outcome State Fault Refusal :=
  .next (avsWrite f commit (.rate up.toNat dn.toNat) s)

/-- AVS_TRANSRATE_READ (R280): SLEW_UP in mV/us. -/
def execAvsTransrateRead (f : AvsFrame) (s : State) : Host.Outcome State Fault Refusal :=
  .next (avsRead f (fun s r => scaled 1 (regF s r 0x08C)) s)

/-- AVS_CURRENT_READ (R280): IOUT in units of 10 mA. -/
def execAvsCurrentRead (f : AvsFrame) (s : State) : Host.Outcome State Fault Refusal :=
  .next (avsRead f (fun s r => (wInt (fRoundAway (fMul (fInt 100 0) (f32 (rail s r).iout)))).toNat) s)

/-- AVS_TEMPERATURE_READ (R280): the last die temperature in 0.1 °C. -/
def execAvsTemperatureRead (f : AvsFrame) (s : State) : Host.Outcome State Fault Refusal :=
  .next (avsRead f (fun s _ => (wInt (roundDiv (s.therm.max * 10) 16)).toNat) s)

/-- AVS_RESET_VOLTAGE (R280). -/
def execAvsResetVoltage (f : AvsFrame) (commit : Bool) (s : State) : Host.Outcome State Fault Refusal :=
  .next (avsWrite f commit .boot s)

/-- AVS_STATUS_WRITE (R280): the status alert clears, at the commit. -/
def execAvsStatusWrite (f : AvsFrame) (commit : Bool) (s : State) : Host.Outcome State Fault Refusal :=
  .next (avsWrite f commit .status s)

/-- AVS_STATUS_READ (R280): VDone, the status alert, PG and LATCHED. -/
def execAvsStatusRead (f : AvsFrame) (s : State) : Host.Outcome State Fault Refusal :=
  .next (avsRead f (fun s r =>
    let x := rail s r
    let b : Bool → Nat → Nat := fun c v => if c then v else 0
    b x.avsDone 0x8000 + b x.alert 1 + b x.pg 2 + b (x.st = 5) 4) s)

/-- AVS_INVALID_COMMAND (R280): nothing is changed. -/
def execAvsInvalidCommand (f : AvsFrame) (s : State) : Host.Outcome State Fault Refusal :=
  .next (onPorts (fun p => { p with avs := if (avsRails s f.sel).isEmpty then .none else if f.badCrc then .badCrc else .invalid }) s)

/-! PMBus (R281) -/

/-- The target is addressed. -/
def pmbMine (s : State) (addr : BitVec 7) : Bool :=
  let c := rd s (regKey 0 0x108)
  live s .reg && bit c 7 && decide (fld c 0 7 = addr.toNat)

/-- An answer: acknowledged, with data. -/
def pmbAnswer (ack : Bool) (data : Nat) (s : State) : State := onPorts (fun p => { p with ack := ack, data := data }) s

/-- A write command: NACKed where the address or the PEC is wrong. -/
def pmbWrite (addr : BitVec 7) (bad : Bool) (act : State → State) (s : State) : State :=
  if !(pmbMine s addr) || bad then pmbAnswer false 0 s else act (pmbAnswer true 0 s)

/-- A read command. -/
def pmbRead (addr : BitVec 7) (f : State → Nat → Nat) (s : State) : State :=
  if !(pmbMine s addr) then pmbAnswer false 0 s else pmbAnswer true (f s s.cmdPorts.page) s

/-- EXP of a rail. -/
def pmbExp (s : State) (r : Nat) : Int := rdsf s (regKey r 0x108) 8 5

/-- A number in LINEAR16 with an exponent, to nearest. -/
def linear16 (e : Int) (w : Word) : Nat := min 65535 (fRoundAway (fScale (-e) (f32 w))).toNat

/-- The smallest exponent from `e` on for which the mantissa fits 11 bits. -/
def linear11From (w : Word) : Nat → Int → Int × Int
  | 0, e => (e, clampInt (-1024) 1023 (fRoundAway (fScale (-e) (f32 w))))
  | n + 1, e =>
    let m := fRoundAway (fScale (-e) (f32 w))
    if -1024 ≤ m ∧ m ≤ 1023 then (e, m) else linear11From w n (e + 1)

/-- A number in LINEAR11. -/
def linear11 (w : Word) : Nat :=
  let (e, m) := linear11From w 31 (-16)
  (wInt e).toNat % 32 * 2048 + (wInt m).toNat % 2048

/-- PAGE (R281): pages 0 to 3. -/
def execPage (addr : BitVec 7) (badPec : Bool) (v : Byte) (s : State) : Host.Outcome State Fault Refusal :=
  .next (pmbWrite addr (badPec || decide (3 < v.toNat)) (onPorts fun p => { p with page := v.toNat }) s)

/-- OPERATION (R281): acts only while CMD_SRC selects PMBus; margin bits are ignored. -/
def execOperation (addr : BitVec 7) (badPec : Bool) (v : Byte) (s : State) : Host.Outcome State Fault Refusal :=
  .next (pmbWrite addr badPec (fun s =>
    let r := s.cmdPorts.page
    if rdf s (regKey r 0x040) 16 3 ≠ 2 then s
    else match v.toNat / 64 with
      | 2 => railEnable r s
      | 0 => railDisable r (rdb s (regKey r 0x040) 21) s
      | 1 => railDisable r true s
      | _ => s) s)

/-- CLEAR_FAULTS (R281). -/
def execClearFaults (addr : BitVec 7) (badPec : Bool) (s : State) : Host.Outcome State Fault Refusal :=
  .next (pmbWrite addr badPec (fun s =>
    onPorts (fun p => { p with alert := false }) (clearCauses .reg s.cmdPorts.page 0xFFFFFFFF#32 s)) s)

/-- VOUT_MODE (R281): LINEAR16 with EXP. -/
def execVoutMode (addr : BitVec 7) (s : State) : Host.Outcome State Fault Refusal :=
  .next (pmbRead addr (fun s r => rdf s (regKey r 0x108) 8 5) s)

/-- VOUT_COMMAND (R281). -/
def execVoutCommand (addr : BitVec 7) (badPec : Bool) (v : BitVec 16) (s : State) : Host.Outcome State Fault Refusal :=
  .next (pmbWrite addr badPec (fun s =>
    let r := s.cmdPorts.page
    railCommand r 2 (toF32 (fInt v.toNat (pmbExp s r))) none s) s)

/-- STATUS_WORD (R281): OFF, PG and the fault of LAST_CAUSE, and BUSY while VDONE is still to come (R279). -/
def execStatusWord (addr : BitVec 7) (s : State) : Host.Outcome State Fault Refusal :=
  .next (pmbRead addr (fun s r =>
    let x := rail s r
    let b : Bool → Nat → Nat := fun c v => if c then v else 0
    let off := !(x.st = 1 || x.st = 2 || x.st = 3)
    let fault := match x.cause with
      | 0 => 0
      | 1 | 2 => 0x4010
      | 4 => 0x8000
      | 6 => 0x8020
      | _ => 1
    b off 0x40 + b (!x.pg) 0x800 + b x.vdone 0x80 + fault) s)

/-- READ_VOUT (R281). -/
def execReadVout (addr : BitVec 7) (s : State) : Host.Outcome State Fault Refusal :=
  .next (pmbRead addr (fun s r => linear16 (pmbExp s r) (rail s r).vout) s)

/-- READ_IOUT (R281). -/
def execReadIout (addr : BitVec 7) (s : State) : Host.Outcome State Fault Refusal :=
  .next (pmbRead addr (fun s r => linear11 (rail s r).iout) s)

/-- PMBUS_REVISION (R281). -/
def execPmbusRevision (addr : BitVec 7) (s : State) : Host.Outcome State Fault Refusal :=
  .next (pmbRead addr (fun _ _ => 0x33) s)

/-- PMBUS_UNSUPPORTED (R281): NACKed. -/
def execPmbusUnsupported (_addr : BitVec 7) (_code : Byte) (s : State) : Host.Outcome State Fault Refusal :=
  .next (pmbAnswer false 0 s)

/-- ALERT_RESPONSE (R281): the target answers with its address and releases PMB_ALERT_N. -/
def execAlertResponse (s : State) : Host.Outcome State Fault Refusal :=
  .next (
    if s.cmdPorts.alert && live s .reg then
      onPorts (fun p => { p with alert := false }) (pmbAnswer true (2 * rdf s (regKey 0 0x108) 0 7) s)
    else pmbAnswer false 0 s)

end Sys2Proof.Machine
end

