-- ==== Sys2Proof/Machine/Harts.lean ====
section
/-! DEFINITION. The registers of a halted hart as far as the spec gives their content (R513 to R516, R529, R530): pending
interrupts, timers, counters and the PMP entries. The layout of the standard registers is the privileged specification's,
version 1.12, that R513 names (log entry 69). -/

namespace Sys2Proof.Machine

/-- Change the debug state. -/
def onDbg (f : Dbg → Dbg) (s : State) : State := { s with dbg := f s.dbg }

/-- The result of an abstract command or of a system bus access lands in data0 and data1. -/
def dmResult (v : DWord) (s : State) : State :=
  let lo := wNat v.toNat
  let hi := wNat (v.toNat / 2 ^ 32)
  respond lo (onDbg (fun d => { d with regs := smPut 5 hi (smPut 4 lo d.regs) }) s)

/-- Two free words as one of 64 bits. -/
def drawDWord (s : State) : DWord × State :=
  let (a, s) := draw s
  let (b, s) := draw s
  (BitVec.ofNat 64 (a.toNat + 2 ^ 32 * b.toNat), s)

/-- A register whose content lies in the hart: what the debugger wrote or read since the halt, else a free value that stays
until the hart resumes. -/
def hartRaw (h regno : Nat) (s : State) : DWord × State :=
  match (hart s h).regs.find? fun e => decide (e.1 = regno) with
  | some e => (e.2, s)
  | none =>
    let (v, s) := drawDWord s
    (v, onHart h (fun x => { x with regs := smPut regno v x.regs }) s)

/-- Set such a register. -/
def setRaw (h regno : Nat) (v : DWord) (s : State) : State := onHart h (fun x => { x with regs := smPut regno v x.regs }) s

/-! Interrupts (R515, R516, R529) -/

/-- The channels of a word that hold a record and interrupt a hart at a level (R515, R517). -/
def pendingWord (s : State) (h word : Nat) (super : Bool) : Word :=
  flagWord 32 fun i =>
    let n := 32 * word + i
    let c := rd s (rk .evr 0 (0x400 + 0x10 * n))
    !(chan s n).recs.isEmpty && bit c 9 && decide (physHart s (fld c 10 2) = h) && bit c 12 == super

/-- The external interrupt of a hart at machine or supervisor level (R515). -/
def extIrq (s : State) (h : Nat) (super : Bool) : Bool := pendingWord s h 0 super ≠ 0 || pendingWord s h 1 super ≠ 0

/-- mip: MEIP and the hardware's part of SEIP by the channels, MTIP by mtimecmp, STIP by stimecmp where menvcfg.STCE is 1, and
LCOFIP; SSIP, MSIP and the written parts of STIP and SEIP are the hart's own. -/
def readMip (h : Nat) (s : State) : Nat × State :=
  let (raw, s) := hartRaw h 0x344 s
  let (env, s) := hartRaw h 0x30A s
  let (cmp, s) := hartRaw h 0x14D s
  let x := hart s h
  let t := ticks s
  let b : Nat → Bool → Nat := fun k v => if v then 2 ^ k else 0
  let stip := if env.getLsbD 63 then decide (cmp.toNat ≤ t) else raw.getLsbD 5
  (b 1 (raw.getLsbD 1) + b 3 (raw.getLsbD 3) + b 5 stip + b 7 (x.mtip || decide (x.mtimecmp ≤ t)) +
    b 9 (raw.getLsbD 9 || extIrq s h true) + b 11 (extIrq s h false) + b 13 x.lcofip, s)

/-- sip: the bits of mip that mideleg delegates. -/
def readSip (h : Nat) (s : State) : Nat × State :=
  let (p, s) := readMip h s
  let (d, s) := hartRaw h 0x303 s
  let b : Nat → Nat := fun k => if p / 2 ^ k % 2 = 1 && d.getLsbD k then 2 ^ k else 0
  (b 1 + b 5 + b 9 + b 13, s)

/-- Write bits of mip: software's own, and LCOFIP. -/
def writeMip (h : Nat) (ks : List Nat) (v : DWord) (s : State) : State :=
  let (raw, s) := hartRaw h 0x344 s
  let new := ks.foldl (fun (w : DWord) k => if v.getLsbD k then w ||| BitVec.ofNat 64 (2 ^ k) else w &&& ~~~ BitVec.ofNat 64 (2 ^ k)) raw
  let s := setRaw h 0x344 new s
  if ks.contains 13 then onHart h (fun x => { x with lcofip := v.getLsbD 13 }) s else s

/-- Write sip: SSIP and LCOFIP where they are delegated. -/
def writeSip (h : Nat) (v : DWord) (s : State) : State :=
  let (d, s) := hartRaw h 0x303 s
  writeMip h ([1, 13].filter d.getLsbD) v s

/-! PMP entries (R514): 16, in granules of 4 KiB. The configuration of entry `i` is held under number 0x10000 + i. -/

/-- The configuration of an entry, with an unassigned or impossible free value read as off. -/
def pmpCfg (h i : Nat) (s : State) : Nat × State :=
  let (w, s) := hartRaw h (0x10000 + i) s
  let c := w.toNat % 256 / 128 * 128 + w.toNat % 32
  (if c / 8 % 4 = 2 then c - 16 else c, s)

/-- pmpcfg0 or pmpcfg2: eight entries from entry `i`. -/
def readPmpCfg (h i : Nat) (s : State) : Nat × State :=
  (List.range 8).foldl (fun (r : Nat × State) j =>
    let (c, s) := pmpCfg h (i + j) r.2
    (r.1 + c * 256 ^ j, s)) (0, s)

/-- Write them: a locked entry keeps its configuration, and so does one written with NA4 or with write but not read permission,
which an entry of 4 KiB granules or any entry does not take. -/
def writePmpCfg (h i : Nat) (v : DWord) (s : State) : State :=
  forEach (List.range 8) (fun j s =>
    let (c, s) := pmpCfg h (i + j) s
    let n := v.toNat / 256 ^ j % 256
    if 128 ≤ c ∨ n / 8 % 4 = 2 ∨ n % 4 = 2 then setRaw h (0x10000 + i + j) (BitVec.ofNat 64 c) s
    else setRaw h (0x10000 + i + j) (BitVec.ofNat 64 (n / 128 * 128 + n % 32)) s) s

/-- pmpaddr of an entry as it reads: with NAPOT the bits below the granule are ones, and else zeros. -/
def readPmpAddr (h i : Nat) (s : State) : Nat × State :=
  let (c, s) := pmpCfg h i s
  let (a, s) := hartRaw h (0x3B0 + i) s
  let a := a.toNat % 2 ^ 54
  (if c / 8 % 4 = 3 then a / 512 * 512 + 511 else a / 1024 * 1024, s)

/-- Write pmpaddr: ignored where the entry is locked, or the next one is locked and takes this address as its lower end. -/
def writePmpAddr (h i : Nat) (v : DWord) (s : State) : State :=
  let (c, s) := pmpCfg h i s
  let (n, s) := if i < 15 then pmpCfg h (i + 1) s else (0, s)
  if 128 ≤ c ∨ (128 ≤ n ∧ n / 8 % 4 = 1) then s else setRaw h (0x3B0 + i) (BitVec.ofNat 64 (v.toNat % 2 ^ 54)) s

/-- A register as the debugger knows it. -/
def known (s : State) (h regno : Nat) : Option Nat :=
  ((hart s h).regs.find? fun e => decide (e.1 = regno)).map (·.2.toNat)

/-- The bytes an entry covers, from its configuration and addresses. -/
def pmpRange (s : State) (h i cfg : Nat) : Nat × Nat :=
  let a := (known s h (0x3B0 + i)).getD 0
  match cfg / 8 % 4 with
  | 1 => ((if i = 0 then 0 else (known s h (0x3B0 + i - 1)).getD 0 / 1024 * 4096), a / 1024 * 4096)
  | 3 =>
    let y := a / 512 * 512 + 511
    let m := (y ^^^ (y + 1)) + 1
    (y / m * m * 4, y / m * m * 4 + m * 4)
  | _ => (0, 0)

/-- A locked entry denies a machine-mode access of `n` bytes (R514), as far as the entries from `i` on are known and locked: an
unlocked one does not bind machine mode. -/
def pmpDenies (s : State) (h a n : Nat) (w : Bool) : Nat → Nat → Bool
  | 0, _ => false
  | f + 1, i =>
    match known s h (0x10000 + i) with
    | none => false
    | some c =>
      let r := pmpRange s h i c
      if a + n ≤ r.1 ∨ r.2 ≤ a then pmpDenies s h a n w f (i + 1)
      else c / 128 % 2 = 1 && !(decide (r.1 ≤ a ∧ a + n ≤ r.2) && (if w then c / 2 % 2 = 1 else c % 2 = 1))

/-! Registers by their abstract-command number -/

/-- A register of a hart (0x1000 is x0, which reads 0): the registers whose content the spec gives (R513, R515, R516, R529,
R530); none for the others. -/
def hartReg (h regno : Nat) (s : State) : Option (Nat × State) :=
  match regno with
  | 0x1000 => some (0, s)
  | 0x301 => some (0x800000000014112D, s)
  | 0xF14 => some (h, s)
  | 0x7C2 => some ((hart s h).mtimecmp, s)
  | 0xC01 => some (ticks s, s)
  | 0xFC0 => some ((pendingWord s h 0 false).toNat, s)
  | 0xFC1 => some ((pendingWord s h 1 false).toNat, s)
  | 0xDC0 => some ((pendingWord s h 0 true).toNat, s)
  | 0xDC1 => some ((pendingWord s h 1 true).toNat, s)
  | 0x344 => some (readMip h s)
  | 0x144 => some (readSip h s)
  | 0x3A0 => some (readPmpCfg h 0 s)
  | 0x3A2 => some (readPmpCfg h 8 s)
  | _ =>
    if 0xB03 ≤ regno ∧ regno < 0xB20 then some (ctrValue (regno - 0xB03) s)
    else if 0xC03 ≤ regno ∧ regno < 0xC20 then some (ctrValue (regno - 0xC03) s)
    else if 0x323 ≤ regno ∧ regno < 0x340 then some (0, s)
    else if 0x3B0 ≤ regno ∧ regno < 0x3C0 then some (readPmpAddr h (regno - 0x3B0) s)
    else none

/-- Read a register of a halted hart. -/
def readHart (h regno : Nat) (s : State) : State :=
  match hartReg h regno s with
  | some (v, s) => dmResult (BitVec.ofNat 64 v) s
  | none =>
    let (v, s) := hartRaw h regno s
    dmResult v s

/-- Write a register of a halted hart: mtimecmp sets its match anew; registers the spec gives read-only keep their value. -/
def writeHart (h regno : Nat) (v : DWord) (s : State) : State :=
  if regno = 0x7C2 then
    let t := ticks s
    respond 0 (onHart h (fun x => { x with mtimecmp := v.toNat, mtip := decide (v.toNat ≤ t) }) s)
  else if regno = 0x344 then respond 0 (writeMip h [1, 5, 9, 13] v s)
  else if regno = 0x144 then respond 0 (writeSip h v s)
  else if regno = 0x3A0 then respond 0 (writePmpCfg h 0 v s)
  else if regno = 0x3A2 then respond 0 (writePmpCfg h 8 v s)
  else if 0x3B0 ≤ regno ∧ regno < 0x3C0 then respond 0 (writePmpAddr h (regno - 0x3B0) v s)
  else match hartReg h regno s with
  | some _ => respond 0 s
  | none => respond 0 (setRaw h regno v s)

end Sys2Proof.Machine
end

