-- ==== Sys2Proof/Machine/Debug.lean ====
section
/-! DEFINITION. The TAP and the debug module (R530 to R534): scan instructions, dmi accesses, abstract commands, system bus
access and the debugger's reset. -/

namespace Sys2Proof.Machine

/-- DBG.CFG.ALLOW, SBA_EN and RESET_EN are bits 0, 1 and 2 (R540). -/
def dbgCfg (s : State) (b : Nat) : Bool := fabricUp s && rdb s (rk .dbg 0 0x040) b

/-- The debug module works: ALLOW is 1, dmactive is set and PD_DBG is on (R532). -/
def dmWorks (s : State) : Bool := dbgCfg s 0 && s.dbg.active && domOn s .dbg

/-- An access while ALLOW is 0 reads 0 and is ignored; DENIED is raised once per connection, with one trouble-log entry
(R532, R541). -/
def dmDenied (s : State) : State :=
  let s := respond 0 s
  if s.dbg.denied || !(fabricUp s) then s
  else logHap (pageNo .dbg 0) (raiseDbg 2 (onDbg (fun d => { d with denied := true }) s))

/-- `n` free bits (log entry 6). -/
def drawBits : Nat → State → List Bool × State
  | 0, s => ([], s)
  | n + 1, s =>
    let (w, s) := draw s
    let (bs, s) := drawBits n s
    (bit w 0 :: bs, s)

/-- A TAP instruction is selected. -/
def selectIr (code : Nat) (s : State) : State := onDbg (fun d => { d with ir := code }) s

/-- The boundary register is scanned: the levels it captures shift out, and the new content is held. The order of its cells
is in the BSDL file and not in the spec, so the captured levels are free values. -/
def scanBoundary (cells : List Bool) (s : State) : State :=
  let (bs, s) := drawBits cells.length s
  onDbg (fun d => { d with preload := cells, sample := bs }) s

/-- The boundary register drives the pins. -/
def extestOn (s : State) : Bool := decide (s.dbg.ir = 0)

/-- The content of a pin's boundary cell. -/
def extestCell (s : State) (pin : Nat) : Bool := s.dbg.preload.getD (Config.boundaryCell pin) false

/-- The level of a PWM or driver pin that a boundary cell drives: the SPO gate holds it low unless SPO is released
(R383, R531). -/
def extestDriver (s : State) (pin : Nat) : Bool := !s.plumb.spo && extestCell s pin

/-! Debug-module state -/

/-- Set dmactive: with ALLOW it switches PD_DBG on (R532); cleared, it returns the module to its reset state. -/
def setDmactive (on : Bool) (s : State) : State :=
  nextMove (onDbg (fun d => { d with active := on, regs := (if on then d.regs else []) }) s)

/-- The debugger makes a system reset with RST_CAUSE.DEBUG, where RESET_EN is 1 (R532). -/
def debugReset (s : State) : State := if dmWorks s && dbgCfg s 2 then systemReset 5 true s else s

/-- A debug-module register: what was written there, else a free value that stays. -/
def dmReg (a : Nat) (s : State) : Word × State :=
  match s.dbg.regs.find? fun e => decide (e.1 = a) with
  | some e => (e.2, s)
  | none =>
    let (w, s) := draw s
    (w, onDbg (fun d => { d with regs := smPut a w d.regs }) s)

/-! Memory -/

/-- A 32-bit read by a bus master, by the ranges of R514. -/
def busRead (m : Master) (a : Nat) (s : State) : State :=
  if a % 4 ≠ 0 then busError s
  else if pageWindow a then regRead m a s
  else if a < 0x10000 then respond (Config.romWord (a / 4)) s
  else if nvBase ≤ a ∧ a < nvBase + nvSize then
    let w := a / 8 * 8
    if s.nvm.queue.any fun e => e.1 = w then respond (wNat (leNat ((nvWord s w).drop (a % 8)))) s
    else
      let t := nvRead w 8 s
      if nvClean s w 8 then respond (memWord s a) t else busError t
  else if sramBase ≤ a ∧ a < sramBase + 0x400000 then
    if (sramBad s a 4).isEmpty then respond (memWord s a) s else busError (sramCheck a 4 s)
  else if engBase ≤ a ∧ a < engBase + 0x100000 then respond (if domOn s .eng then memWord s a else 0) s
  else busError s

/-! dmi registers (debug specification 0.13.2, as R532 names it; log entry 69) -/

/-- A control register of the debug module as it was written; 0 before. -/
def dmCtl (s : State) (a : Nat) : Word := ((s.dbg.regs.find? fun e => decide (e.1 = a)).map (·.2)).getD 0
/-- Set a register of the debug module. -/
def setDm (a : Nat) (v : Word) (s : State) : State := onDbg (fun d => { d with regs := smPut a v d.regs }) s
/-- dmcontrol.hartsel. -/
def dmHart (s : State) : Nat := fld (dmCtl s 0x10) 16 10 + 1024 * fld (dmCtl s 0x10) 6 10
/-- The selected harts: hartsel, and with hasel those of the hart array window. -/
def dmHarts (s : State) : List Nat :=
  (List.range 4).filter fun h => decide (h = dmHart s) || (bit (dmCtl s 0x10) 26 && bit (dmCtl s 0x15) h)

/-- dmstatus; what the spec and the standard leave to the part is free. -/
def dmStatus (s : State) : Word × State :=
  let (f, s) := draw s
  let hs := dmHarts s
  let out := decide (4 ≤ dmHart s)
  let up : Nat → Bool := fun h => (hart s h).halted
  let ack : Nat → Bool := fun h => s.dbg.acks.contains h
  let had : Nat → Bool := fun h => (hart s h).haveReset
  let b : Nat → Bool → Nat := fun k v => if v then 2 ^ k else 0
  let all : (Nat → Bool) → Bool := fun p => !out && hs.all p
  (wNat (2 + 128 + b 8 (hs.any up) + b 9 (all up) + b 10 (hs.any fun h => !(up h)) + b 11 (all fun h => !(up h)) +
    b 14 out + b 15 (out && hs.isEmpty) + b 16 (hs.any ack) + b 17 (all ack) + b 18 (hs.any had) + b 19 (all had)) ||| (f &&& 0x00400030#32), s)

/-- dmcontrol: dmactive, ndmreset, and of a module that works the selection, ackhavereset, halt and resume requests. -/
def writeDmcontrol (v : Word) (s : State) : State :=
  let s := setDmactive (bit v 0) s
  let s := if bit v 1 then debugReset s else s
  if !(dmWorks s) then s else
  let s := setDm 0x10 (v &&& 0x07FFFFC0#32) s
  let hs := dmHarts s
  let s := if bit v 28 then forEach hs (fun h s => onHart h (fun x => { x with haveReset := false }) s) s else s
  if bit v 31 then forEach hs haltGroup s
  else if bit v 30 then
    let t := forEach hs resumeHart s
    onDbg (fun d => { d with acks := (d.acks ++ hs).eraseDups }) t
  else s

/-- abstractcs.cmderr. -/
def cmdErr (s : State) : Nat := fld (dmCtl s 0x16) 0 3
/-- An abstract command fails. -/
def setCmdErr (e : Nat) (s : State) : State := setDm 0x16 (wNat e) s

/-- Two data registers as one value. -/
def dmData (a : Nat) (s : State) : Nat × State :=
  let (lo, s) := dmReg a s
  let (hi, s) := dmReg (a + 1) s
  (lo.toNat + 2 ^ 32 * hi.toNat, s)

/-- A read of 1, 2, 4 or 8 bytes by the debug module: register pages and engine memory take no read of fewer than 32 bits
(R75, R514). It may serve a hart (R528). -/
def dmRead (req : Option Nat) (a n : Nat) (s : State) : Nat × State :=
  let s := pmcAccess (4, req) false a (pageAt a) s
  if n < 4 then
    if pageWindow a || (engBase ≤ a && a < engBase + 0x100000) then (0, busError s)
    else
      let t := busRead .debug (a / 4 * 4) s
      (t.bus.rdata.toNat / 256 ^ (a % 4) % 256 ^ n, t)
  else
    let t := busRead .debug a s
    if n = 4 || t.bus.err then (t.bus.rdata.toNat, t)
    else if pageWindow a then (0, busError s)
    else
      let u := busRead .debug (a + 4) t
      (t.bus.rdata.toNat + 2 ^ 32 * u.bus.rdata.toNat, u)

/-- An access of the debug module to memory, for a hart or on the system bus: a write of a word, or a read whose result lands in
data0. -/
def dmMemory (req : Option Nat) (w : Bool) (a : Nat) (v : Word) (s : State) : State :=
  if w then busWrite .debug req a (leBytes 4 v.toNat) s
  else
    let (y, t) := dmRead req a 4 s
    if t.bus.err then t else dmResult (BitVec.ofNat 64 y) t

/-- Abstract command Access Register. -/
def cmdRegister (v : Word) (s : State) : State :=
  let h := dmHart s
  let size := fld v 20 3
  let regno := fld v 0 16
  if 4 ≤ h ∨ (hart s h).halted = false then setCmdErr 4 s
  else if bit v 17 && !(size = 2 || size = 3) then setCmdErr 2 s
  else
    let s := if !(bit v 17) then s
      else if bit v 16 then
        let (x, s) := dmData 4 s
        let (f, s) := draw s
        writeHart h regno (BitVec.ofNat 64 (if size = 3 then x else x % 2 ^ 32 + 2 ^ 32 * f.toNat)) s
      else readHart h regno s
    let s := if bit v 19 then setDm 0x17 (setFld v 0 16 (regno + 1)) s else s
    -- the program buffer runs in the hart: what it leaves there is not known
    if bit v 18 then onHart h (fun x => { x with regs := keepLocked x.regs }) s else s

/-- Abstract command Access Memory, in machine mode: of 1 to 8 bytes, at a physical address (aamvirtual 0). -/
def cmdMemory (v : Word) (s : State) : State :=
  let h := dmHart s
  let n := 2 ^ fld v 20 3
  if 4 ≤ h ∨ (hart s h).halted = false then setCmdErr 4 s
  else if 8 < n || bit v 23 then setCmdErr 2 s
  else
    let (a, s) := dmData 6 s
    let (x, s) := dmData 4 s
    let w := bit v 16
    let t :=
      if pmpDenies s h a n w 16 0 then busError s
      else if w then busWrite .debug (some h) a (leBytes n x) s
      else
        let (y, t) := dmRead (some h) a n s
        if t.bus.err then t else dmResult (BitVec.ofNat 64 y) t
    if t.bus.err then setCmdErr 5 t
    else if bit v 19 then setDm 7 (wNat ((a + n) / 2 ^ 32)) (setDm 6 (wNat (a + n)) t)
    else t

/-- Write command: it runs at once unless an error stands. -/
def writeCommand (v : Word) (s : State) : State :=
  if cmdErr s ≠ 0 then s else
  let s := setDm 0x17 v s
  match fld v 24 8 with
  | 0 => cmdRegister v s
  | 2 => cmdMemory v s
  | _ => setCmdErr 2 s

/-- sbcs as written: the access size is 32 bits before. -/
def sbCtl (s : State) : Word := ((s.dbg.regs.find? fun e => decide (e.1 = 0x38)).map (·.2)).getD 0x00040000#32

/-- A system bus access of the size sbcs gives, at sbaddress. -/
def sbAccess (w : Bool) (s : State) : State :=
  let c := sbCtl s
  let n := 2 ^ fld c 17 3
  let err := fun (e : Nat) (s : State) => setDm 0x38 (setFld (sbCtl s) 12 3 e) s
  if fld c 12 3 ≠ 0 then s
  else if 8 < n then err 4 s
  else
    let (a, s) := dmData 0x39 s
    let (x, s) := dmData 0x3C s
    if a % n ≠ 0 then err 3 s
    else
      let t :=
        if w then busWrite .debug none a (leBytes n x) s
        else
          let (y, t) := dmRead none a n s
          if t.bus.err then t else setDm 0x3D (wNat (y / 2 ^ 32)) (setDm 0x3C (wNat y) t)
      if t.bus.err then err 2 t
      else if bit c 16 then setDm 0x3A (wNat ((a + n) / 2 ^ 32)) (setDm 0x39 (wNat (a + n)) t)
      else t

/-- A register of the system bus access, which needs SBA_EN (R532). -/
def sbReg (a : Nat) : Bool := decide (0x38 ≤ a ∧ a ≤ 0x3F ∧ a ≠ 0x3B)

/-- Write a register of the debug module. -/
def dmWrite (a : Nat) (v : Word) (s : State) : State :=
  match a with
  | 0x10 => writeDmcontrol v s
  | 0x15 => setDm 0x15 (v &&& 0xF#32) s
  | 0x16 => setCmdErr (fld (dmCtl s 0x16 &&& ~~~ (v >>> 8)) 0 3) s
  | 0x17 => writeCommand v s
  | 0x38 =>
    let e := fld (sbCtl s &&& ~~~ v) 12 3
    setDm 0x38 (setFld (v &&& 0x001F8000#32) 12 3 e) s
  | 0x39 =>
    let s := setDm 0x39 v s
    if bit (sbCtl s) 20 then sbAccess false s else s
  | 0x3A => setDm 0x3A v s
  | 0x3C => sbAccess true (setDm 0x3C v s)
  | 0x3D => setDm 0x3D v s
  | _ => if (4 ≤ a ∧ a < 16) ∨ (0x20 ≤ a ∧ a < 0x28) then setDm a v s else s

/-- Read a register of the debug module: one that nothing has written holds a free value that stays. -/
def dmReadReg (a : Nat) (s : State) : Word × State :=
  match a with
  | 0x10 => (dmCtl s 0x10 ||| 1#32, s)
  | 0x11 => dmStatus s
  | 0x12 => draw s
  | 0x15 => (dmCtl s 0x15, s)
  | 0x16 =>
    (wNat (8 * 2 ^ 24 + 256 * cmdErr s + 12), s)
  | 0x38 => (sbCtl s ||| 0x2000040F#32, s)
  | 0x3C =>
    let (x, s) := dmReg 0x3C s
    (x, if bit (sbCtl s) 15 then sbAccess false s else s)
  | 0x40 => (flagWord 4 fun h => (hart s h).halted, s)
  | _ =>
    if (4 ≤ a ∧ a < 16) ∨ (0x20 ≤ a ∧ a < 0x28) ∨ a = 0x39 ∨ a = 0x3A ∨ a = 0x3D then dmReg a s else (0, s)

/-- A dmi access with ALLOW (R532): dmcontrol at 0x10 while PD_DBG is off as well. -/
def dmiAccess (w : Bool) (a : Nat) (v : Word) (s : State) : State :=
  if a = 0x10 && !(dmWorks s) then
    if w then respond 0 (writeDmcontrol v s) else respond (if s.dbg.active then 1 else 0) s
  else if !(dmWorks s) || (sbReg a && !(dbgCfg s 1)) then respond 0 s
  else if w then respond 0 (dmWrite a v s)
  else
    let (x, s) := dmReadReg a s
    respond x s

/-! Meanings -/

/-- EXTEST (R531). -/
def execExtest (cells : List Bool) (s : State) : Host.Outcome State Fault Refusal := .next (selectIr 0x00 (scanBoundary cells s))

/-- SAMPLE_PRELOAD (R531). -/
def execSamplePreload (cells : List Bool) (s : State) : Host.Outcome State Fault Refusal :=
  .next (selectIr 0x02 (scanBoundary cells s))

/-- IDCODE (R531). -/
def execIdcode (s : State) : Host.Outcome State Fault Refusal := .next (respond 0x1964805B (selectIr 0x01 s))

/-- BYPASS (R531): the code of the table and every other code the table does not name. -/
def execBypass (_code : BitVec 5) (s : State) : Host.Outcome State Fault Refusal := .next (selectIr 0x1F s)

/-- DTMCS (R531): the fields that answer are the debug specification's; dmihardreset, bit 17, ends the connection. -/
def execDtmcs (v : Word) (s : State) : Host.Outcome State Fault Refusal :=
  .next (
    let (x, s) := draw (selectIr 0x10 s)
    respond x (if bit v 17 then onDbg (fun d => { d with denied := false }) s else s))

/-- DMI (R531, R532). -/
def execDmi (w : Bool) (a : BitVec 7) (v : Word) (s : State) : Host.Outcome State Fault Refusal :=
  .next (
    let s := selectIr 0x11 s
    if dbgCfg s 0 then dmiAccess w a.toNat v s else dmDenied s)

/-- DMACTIVE (R532). -/
def execDmactive (on : Bool) (s : State) : Host.Outcome State Fault Refusal :=
  .next (if dbgCfg s 0 then setDmactive on s else dmDenied s)

/-- ACCESS_REGISTER (R532): of a halted hart; of one that runs it fails. -/
def execAccessRegister (h : Fin 4) (w : Bool) (regno : BitVec 16) (v : DWord) (s : State) : Host.Outcome State Fault Refusal :=
  .next (
    if !(dbgCfg s 0) then dmDenied s
    else if !(dmWorks s) then respond 0 s
    else if !(hart s h.val).halted then busError s
    else if w then writeHart h.val regno.toNat v s
    else readHart h.val regno.toNat s)

/-- ACCESS_MEMORY (R532): through a halted hart. -/
def execAccessMemory (h : Fin 4) (w : Bool) (a : Nat) (v : Word) (s : State) : Host.Outcome State Fault Refusal :=
  .next (
    if !(dbgCfg s 0) then dmDenied s
    else if !(dmWorks s) then respond 0 s
    else if !(hart s h.val).halted then busError s
    else if pmpDenies s h.val a 4 w 16 0 then busError s
    else dmMemory (some h.val) w a v s)

/-- SYSTEM_BUS_ACCESS (R532): needs SBA_EN. -/
def execSystemBusAccess (w : Bool) (a : Nat) (v : Word) (s : State) : Host.Outcome State Fault Refusal :=
  .next (
    if !(dbgCfg s 0) then dmDenied s
    else if !(dmWorks s) || !(dbgCfg s 1) then respond 0 s
    else dmMemory none w a v s)

/-- NDMRESET (R532): ignored while RESET_EN is 0. -/
def execNdmreset (s : State) : Host.Outcome State Fault Refusal :=
  .next (if dbgCfg s 0 then debugReset s else dmDenied s)

end Sys2Proof.Machine
end

