-- ==== Sys2Proof/Machine/Dispatch.lean ====
section
/-! DEFINITION. The dispatch: one arm per command, each one direct call of that command's meaning. -/

namespace Sys2Proof.Machine

def exec (i : Instr) (s : State) : Host.Outcome State Fault Refusal :=
  match i with
  | .boundary d => Sys2Proof.Machine.execBoundary d s
  | .shadowWrite m a v => Sys2Proof.Machine.execShadowWrite m a v s
  | .arm m page groups => Sys2Proof.Machine.execArm m page groups s
  | .discard m page groups => Sys2Proof.Machine.execDiscard m page groups s
  | .converterGroupCommit n => Sys2Proof.Machine.execConverterGroupCommit n s
  | .passStart n => Sys2Proof.Machine.execPassStart n s
  | .passEnd n => Sys2Proof.Machine.execPassEnd n s
  | .passOverrun n => Sys2Proof.Machine.execPassOverrun n s
  | .drainComplete n => Sys2Proof.Machine.execDrainComplete n s
  | .slotEnd n code side err => Sys2Proof.Machine.execSlotEnd n code side err s
  | .averageDelivered n => Sys2Proof.Machine.execAverageDelivered n s
  | .blockEnd n => Sys2Proof.Machine.execBlockEnd n s
  | .avgRead m n => Sys2Proof.Machine.execAvgRead m n s
  | .regularTrigger n => Sys2Proof.Machine.execRegularTrigger n s
  | .urgentTrigger n => Sys2Proof.Machine.execUrgentTrigger n s
  | .entryEnd n code side => Sys2Proof.Machine.execEntryEnd n code side s
  | .swStart m n => Sys2Proof.Machine.execSwStart m n s
  | .converterReady n => Sys2Proof.Machine.execConverterReady n s
  | .lpSettled n => Sys2Proof.Machine.execLpSettled n s
  | .resultRead m n j => Sys2Proof.Machine.execResultRead m n j s
  | .laneEnable m n => Sys2Proof.Machine.execLaneEnable m n s
  | .laneDisable m n => Sys2Proof.Machine.execLaneDisable m n s
  | .swap m n => Sys2Proof.Machine.execSwap m n s
  | .bankVerified n => Sys2Proof.Machine.execBankVerified n s
  | .swapAll m mode => Sys2Proof.Machine.execSwapAll m mode s
  | .globalVerified => Sys2Proof.Machine.execGlobalVerified s
  | .cancel m mode => Sys2Proof.Machine.execCancel m mode s
  | .tileTypeWrite m j v => Sys2Proof.Machine.execTileTypeWrite m j v s
  | .engineMemoryWrite m a ws => Sys2Proof.Machine.execEngineMemoryWrite m a ws s
  | .tileVerify m tile => Sys2Proof.Machine.execTileVerify m tile s
  | .tileVerifyDone => Sys2Proof.Machine.execTileVerifyDone s
  | .generatorStart m g => Sys2Proof.Machine.execGeneratorStart m g s
  | .generatorStop m g => Sys2Proof.Machine.execGeneratorStop m g s
  | .capDataRead m => Sys2Proof.Machine.execCapDataRead m s
  | .iaccLoRead m g j => Sys2Proof.Machine.execIaccLoRead m g j s
  | .legDomainWrite m l v => Sys2Proof.Machine.execLegDomainWrite m l v s
  | .edge l outB => Sys2Proof.Machine.execEdge l outB s
  | .calibrationDone l taps => Sys2Proof.Machine.execCalibrationDone l taps s
  | .twinChange l => Sys2Proof.Machine.execTwinChange l s
  | .calibrationExpiry l => Sys2Proof.Machine.execCalibrationExpiry l s
  | .lockReq m d stretch slew => Sys2Proof.Machine.execLockReq m d stretch slew s
  | .lockReqClear m d stretch slew => Sys2Proof.Machine.execLockReqClear m d stretch slew s
  | .darm m n v => Sys2Proof.Machine.execDarm m n v s
  | .safeStateSet m k => Sys2Proof.Machine.execSafeStateSet m k s
  | .safeStateClear m k => Sys2Proof.Machine.execSafeStateClear m k s
  | .tripPinChange line active => Sys2Proof.Machine.execTripPinChange line active s
  | .tripAssert unit => Sys2Proof.Machine.execTripAssert unit s
  | .tripRelease unit => Sys2Proof.Machine.execTripRelease unit s
  | .blankingEnd monitor unit => Sys2Proof.Machine.execBlankingEnd monitor unit s
  | .stuck unit => Sys2Proof.Machine.execStuck unit s
  | .heldClear m unit => Sys2Proof.Machine.execHeldClear m unit s
  | .tripActionWrite m unit v => Sys2Proof.Machine.execTripActionWrite m unit v s
  | .monitorCrossing unit before after => Sys2Proof.Machine.execMonitorCrossing unit before after s
  | .monitorEnable m unit v => Sys2Proof.Machine.execMonitorEnable m unit v s
  | .monitorSettled unit => Sys2Proof.Machine.execMonitorSettled unit s
  | .latchedClear m unit => Sys2Proof.Machine.execLatchedClear m unit s
  | .phaseEnableWrite m p v => Sys2Proof.Machine.execPhaseEnableWrite m p v s
  | .vdrvUv g => Sys2Proof.Machine.execVdrvUv g s
  | .vdrvOk g => Sys2Proof.Machine.execVdrvOk g s
  | .bstUv p => Sys2Proof.Machine.execBstUv p s
  | .bstOk p => Sys2Proof.Machine.execBstOk p s
  | .drvBlankingEnd p => Sys2Proof.Machine.execDrvBlankingEnd p s
  | .senseDetection p mv => Sys2Proof.Machine.execSenseDetection p mv s
  | .regEnLow g => Sys2Proof.Machine.execRegEnLow g s
  | .regEnRise g => Sys2Proof.Machine.execRegEnRise g s
  | .gridConnect m g => Sys2Proof.Machine.execGridConnect m g s
  | .gridDisconnect m g => Sys2Proof.Machine.execGridDisconnect m g s
  | .gridUpdate g => Sys2Proof.Machine.execGridUpdate g s
  | .curveEntryWrite m g e ecfg v => Sys2Proof.Machine.execCurveEntryWrite m g e ecfg v s
  | .islEnable m => Sys2Proof.Machine.execIslEnable m s
  | .islDisable m => Sys2Proof.Machine.execIslDisable m s
  | .islClear m => Sys2Proof.Machine.execIslClear m s
  | .codeEpoch => Sys2Proof.Machine.execCodeEpoch s
  | .periodClosed => Sys2Proof.Machine.execPeriodClosed s
  | .unsure => Sys2Proof.Machine.execUnsure s
  | .ampDataAccess m w => Sys2Proof.Machine.execAmpDataAccess m w s
  | .trackerEnable m t => Sys2Proof.Machine.execTrackerEnable m t s
  | .trackerDisable m t => Sys2Proof.Machine.execTrackerDisable m t s
  | .sweepNow m t => Sys2Proof.Machine.execSweepNow m t s
  | .sweepDue => Sys2Proof.Machine.execSweepDue s
  | .stepEnd t => Sys2Proof.Machine.execStepEnd t s
  | .swpPRead m => Sys2Proof.Machine.execSwpPRead m s
  | .railEnable m r => Sys2Proof.Machine.execRailEnable m r s
  | .railDisable m r => Sys2Proof.Machine.execRailDisable m r s
  | .railUpdate r => Sys2Proof.Machine.execRailUpdate r s
  | .dwellExpiry r => Sys2Proof.Machine.execDwellExpiry r s
  | .hiccupRetry r => Sys2Proof.Machine.execHiccupRetry r s
  | .sstmo r => Sys2Proof.Machine.execSstmo r s
  | .cleanTime r => Sys2Proof.Machine.execCleanTime r s
  | .vset m r v => Sys2Proof.Machine.execVset m r v s
  | .avsVoltageWrite f commit mv => Sys2Proof.Machine.execAvsVoltageWrite f commit mv s
  | .avsVoltageRead f => Sys2Proof.Machine.execAvsVoltageRead f s
  | .avsTransrateWrite f commit up dn => Sys2Proof.Machine.execAvsTransrateWrite f commit up dn s
  | .avsTransrateRead f => Sys2Proof.Machine.execAvsTransrateRead f s
  | .avsCurrentRead f => Sys2Proof.Machine.execAvsCurrentRead f s
  | .avsTemperatureRead f => Sys2Proof.Machine.execAvsTemperatureRead f s
  | .avsResetVoltage f commit => Sys2Proof.Machine.execAvsResetVoltage f commit s
  | .avsStatusWrite f commit => Sys2Proof.Machine.execAvsStatusWrite f commit s
  | .avsStatusRead f => Sys2Proof.Machine.execAvsStatusRead f s
  | .avsInvalidCommand f => Sys2Proof.Machine.execAvsInvalidCommand f s
  | .page addr badPec v => Sys2Proof.Machine.execPage addr badPec v s
  | .operation addr badPec v => Sys2Proof.Machine.execOperation addr badPec v s
  | .clearFaults addr badPec => Sys2Proof.Machine.execClearFaults addr badPec s
  | .voutMode addr => Sys2Proof.Machine.execVoutMode addr s
  | .voutCommand addr badPec v => Sys2Proof.Machine.execVoutCommand addr badPec v s
  | .statusWord addr => Sys2Proof.Machine.execStatusWord addr s
  | .readVout addr => Sys2Proof.Machine.execReadVout addr s
  | .readIout addr => Sys2Proof.Machine.execReadIout addr s
  | .pmbusRevision addr => Sys2Proof.Machine.execPmbusRevision addr s
  | .pmbusUnsupported addr code => Sys2Proof.Machine.execPmbusUnsupported addr code s
  | .alertResponse => Sys2Proof.Machine.execAlertResponse s
  | .ringCommand r => Sys2Proof.Machine.execRingCommand r s
  | .cmdLost r => Sys2Proof.Machine.execCmdLost r s
  | .capture m => Sys2Proof.Machine.execCapture m s
  | .monumentWritten => Sys2Proof.Machine.execMonumentWritten s
  | .mtrEnable m p => Sys2Proof.Machine.execMtrEnable m p s
  | .mtrDisable m p => Sys2Proof.Machine.execMtrDisable m p s
  | .preset m p => Sys2Proof.Machine.execPreset m p s
  | .meterSample p nv cross => Sys2Proof.Machine.execMeterSample p nv cross s
  | .cycleClose p => Sys2Proof.Machine.execCycleClose p s
  | .nosync p => Sys2Proof.Machine.execNosync p s
  | .pulseStart p => Sys2Proof.Machine.execPulseStart p s
  | .pulseEnd p => Sys2Proof.Machine.execPulseEnd p s
  | .eLoRead m p k => Sys2Proof.Machine.execELoRead m p k s
  | .cycCntRead m p => Sys2Proof.Machine.execCycCntRead m p s
  | .syncGained r => Sys2Proof.Machine.execSyncGained r s
  | .syncLost r errs => Sys2Proof.Machine.execSyncLost r errs s
  | .linkDown r c => Sys2Proof.Machine.execLinkDown r c s
  | .linkUp r => Sys2Proof.Machine.execLinkUp r s
  | .unwrap r => Sys2Proof.Machine.execUnwrap r s
  | .unwrapNow m r => Sys2Proof.Machine.execUnwrapNow m r s
  | .cellHeader r hdr => Sys2Proof.Machine.execCellHeader r hdr s
  | .cellEnd r body errs bad => Sys2Proof.Machine.execCellEnd r body errs bad s
  | .cellSend r => Sys2Proof.Machine.execCellSend r s
  | .ackTimer n => Sys2Proof.Machine.execAckTimer n s
  | .gapTmo n => Sys2Proof.Machine.execGapTmo n s
  | .retransmit n => Sys2Proof.Machine.execRetransmit n s
  | .openResend n => Sys2Proof.Machine.execOpenResend n s
  | .strOpen m => Sys2Proof.Machine.execStrOpen m s
  | .strClose m => Sys2Proof.Machine.execStrClose m s
  | .strReopen m => Sys2Proof.Machine.execStrReopen m s
  | .put m v => Sys2Proof.Machine.execPut m v s
  | .get m v => Sys2Proof.Machine.execGet m v s
  | .rmemDataAccess m w => Sys2Proof.Machine.execRmemDataAccess m w s
  | .join m r => Sys2Proof.Machine.execJoin m r s
  | .leave m r => Sys2Proof.Machine.execLeave m r s
  | .fordSwitch r => Sys2Proof.Machine.execFordSwitch r s
  | .probeFail r => Sys2Proof.Machine.execProbeFail r s
  | .sfpPresencePoll r ans => Sys2Proof.Machine.execSfpPresencePoll r ans s
  | .sfpDdmPoll r ans => Sys2Proof.Machine.execSfpDdmPoll r ans s
  | .rescan m r ans => Sys2Proof.Machine.execRescan m r ans s
  | .sfpDataRead m r => Sys2Proof.Machine.execSfpDataRead m r s
  | .datumEnable m v => Sys2Proof.Machine.execDatumEnable m v s
  | .exchangeInterval => Sys2Proof.Machine.execExchangeInterval s
  | .foresightReceived r => Sys2Proof.Machine.execForesightReceived r s
  | .backsightReceived r => Sys2Proof.Machine.execBacksightReceived r s
  | .electionTimeout => Sys2Proof.Machine.execElectionTimeout s
  | .datumCycleBoundary => Sys2Proof.Machine.execDatumCycleBoundary s
  | .cycChg m => Sys2Proof.Machine.execCycChg m s
  | .setTime m => Sys2Proof.Machine.execSetTime m s
  | .resync m => Sys2Proof.Machine.execResync m s
  | .timeLoRead m => Sys2Proof.Machine.execTimeLoRead m s
  | .spoRequest m => Sys2Proof.Machine.execSpoRequest m s
  | .spoRelease m => Sys2Proof.Machine.execSpoRelease m s
  | .safeInChange unit chB on => Sys2Proof.Machine.execSafeInChange unit chB on s
  | .discrepancy unit => Sys2Proof.Machine.execDiscrepancy unit s
  | .scan c ch code => Sys2Proof.Machine.execScan c ch code s
  | .soutClose m n => Sys2Proof.Machine.execSoutClose m n s
  | .soutOpen m n => Sys2Proof.Machine.execSoutOpen m n s
  | .soutClr m n => Sys2Proof.Machine.execSoutClr m n s
  | .testNow m n => Sys2Proof.Machine.execTestNow m n s
  | .closeTimeout n => Sys2Proof.Machine.execCloseTimeout n s
  | .soutFeedbackChange n rb => Sys2Proof.Machine.execSoutFeedbackChange n rb s
  | .testDue n => Sys2Proof.Machine.execTestDue n s
  | .testPulseEnd n => Sys2Proof.Machine.execTestPulseEnd n s
  | .testRecoveryEnd n => Sys2Proof.Machine.execTestRecoveryEnd n s
  | .clockCheck pwm fab adc ring => Sys2Proof.Machine.execClockCheck pwm fab adc ring s
  | .freeze => Sys2Proof.Machine.execFreeze s
  | .lockstepMismatch => Sys2Proof.Machine.execLockstepMismatch s
  | .periodicSelftest ok => Sys2Proof.Machine.execPeriodicSelftest ok s
  | .selftestDone ok => Sys2Proof.Machine.execSelftestDone ok s
  | .plumbWriteApplied => Sys2Proof.Machine.execPlumbWriteApplied s
  | .produceMessage c => Sys2Proof.Machine.execProduceMessage c s
  | .consumeMessage c => Sys2Proof.Machine.execConsumeMessage c s
  | .connectionWatchdog c => Sys2Proof.Machine.execConnectionWatchdog c s
  | .connStart m c => Sys2Proof.Machine.execConnStart m c s
  | .connStop m c => Sys2Proof.Machine.execConnStop m c s
  | .enter m => Sys2Proof.Machine.execEnter m s
  | .exit m => Sys2Proof.Machine.execExit m s
  | .saddleReset m => Sys2Proof.Machine.execSaddleReset m s
  | .saddleEvaluation => Sys2Proof.Machine.execSaddleEvaluation s
  | .saddleTimeout => Sys2Proof.Machine.execSaddleTimeout s
  | .cleanTimeout => Sys2Proof.Machine.execCleanTimeout s
  | .unlockSite m len => Sys2Proof.Machine.execUnlockSite m len s
  | .unlockMaker m len => Sys2Proof.Machine.execUnlockMaker m len s
  | .relock m => Sys2Proof.Machine.execRelock m s
  | .setSite m len => Sys2Proof.Machine.execSetSite m len s
  | .setMaker m len => Sys2Proof.Machine.execSetMaker m len s
  | .pwDataWrite m v => Sys2Proof.Machine.execPwDataWrite m v s
  | .sessionTimeout => Sys2Proof.Machine.execSessionTimeout s
  | .lockoutEnd => Sys2Proof.Machine.execLockoutEnd s
  | .fbDrain ok => Sys2Proof.Machine.execFbDrain ok s
  | .fbDataRead m => Sys2Proof.Machine.execFbDataRead m s
  | .pairEnable m v => Sys2Proof.Machine.execPairEnable m v s
  | .go m => Sys2Proof.Machine.execGo m s
  | .give m => Sys2Proof.Machine.execGive m s
  | .keep m => Sys2Proof.Machine.execKeep m s
  | .pairClr m => Sys2Proof.Machine.execPairClr m s
  | .heartbeatSend => Sys2Proof.Machine.execHeartbeatSend s
  | .heartbeatReceived ring frame bad => Sys2Proof.Machine.execHeartbeatReceived ring frame bad s
  | .pathTimeout ring => Sys2Proof.Machine.execPathTimeout ring s
  | .pairEvaluation => Sys2Proof.Machine.execPairEvaluation s
  | .livenessTimeout => Sys2Proof.Machine.execLivenessTimeout s
  | .claimPeerChange low => Sys2Proof.Machine.execClaimPeerChange low s
  | .claimSettle => Sys2Proof.Machine.execClaimSettle s
  | .claimTimeout => Sys2Proof.Machine.execClaimTimeout s
  | .installDone => Sys2Proof.Machine.execInstallDone s
  | .startWait => Sys2Proof.Machine.execStartWait s
  | .peerStuck => Sys2Proof.Machine.execPeerStuck s
  | .localCapture => Sys2Proof.Machine.execLocalCapture s
  | .segmentSend => Sys2Proof.Machine.execSegmentSend s
  | .segmentReceived frame bad => Sys2Proof.Machine.execSegmentReceived frame bad s
  | .delivery n => Sys2Proof.Machine.execDelivery n s
  | .promotion e => Sys2Proof.Machine.execPromotion e s
  | .deadlineWrite m unit v => Sys2Proof.Machine.execDeadlineWrite m unit v s
  | .rec0Read m n => Sys2Proof.Machine.execRec0Read m n s
  | .swRaise m v => Sys2Proof.Machine.execSwRaise m v s
  | .logSubmit => Sys2Proof.Machine.execLogSubmit s
  | .goLog m code => Sys2Proof.Machine.execGoLog m code s
  | .logWrite => Sys2Proof.Machine.execLogWrite s
  | .logDataRead m => Sys2Proof.Machine.execLogDataRead m s
  | .logFullClear m => Sys2Proof.Machine.execLogFullClear m s
  | .replayDone => Sys2Proof.Machine.execReplayDone s
  | .lockLoss => Sys2Proof.Machine.execLockLoss s
  | .refMeasure ppm => Sys2Proof.Machine.execRefMeasure ppm s
  | .referenceQualified => Sys2Proof.Machine.execReferenceQualified s
  | .pllLocked => Sys2Proof.Machine.execPllLocked s
  | .holdRelease => Sys2Proof.Machine.execHoldRelease s
  | .pllRelock m => Sys2Proof.Machine.execPllRelock m s
  | .noref => Sys2Proof.Machine.execNoref s
  | .update m => Sys2Proof.Machine.execUpdate m s
  | .updateMark => Sys2Proof.Machine.execUpdateMark s
  | .pdCtlWrite m v => Sys2Proof.Machine.execPdCtlWrite m v s
  | .pdOn => Sys2Proof.Machine.execPdOn s
  | .pdOff => Sys2Proof.Machine.execPdOff s
  | .supplyFall n => Sys2Proof.Machine.execSupplyFall n s
  | .supplyRise n => Sys2Proof.Machine.execSupplyRise n s
  | .porstAssert => Sys2Proof.Machine.execPorstAssert s
  | .sysrstAssert => Sys2Proof.Machine.execSysrstAssert s
  | .rstCtl m v => Sys2Proof.Machine.execRstCtl m v s
  | .resetEnd => Sys2Proof.Machine.execResetEnd s
  | .guardScan => Sys2Proof.Machine.execGuardScan s
  | .meas m v => Sys2Proof.Machine.execMeas m v s
  | .measurementDone temps => Sys2Proof.Machine.execMeasurementDone temps s
  | .stopTime => Sys2Proof.Machine.execStopTime s
  | .clrStop m => Sys2Proof.Machine.execClrStop m s
  | .tickLoRead m => Sys2Proof.Machine.execTickLoRead m s
  | .valleySample mv => Sys2Proof.Machine.execValleySample mv s
  | .valleyPorEnd => Sys2Proof.Machine.execValleyPorEnd s
  | .openCircuitMeasure mv => Sys2Proof.Machine.execOpenCircuitMeasure mv s
  | .rtcSet m => Sys2Proof.Machine.execRtcSet m s
  | .rtcLoRead m => Sys2Proof.Machine.execRtcLoRead m s
  | .xtFail => Sys2Proof.Machine.execXtFail s
  | .xtRecover => Sys2Proof.Machine.execXtRecover s
  | .burstGo m => Sys2Proof.Machine.execBurstGo m s
  | .burstEnd m => Sys2Proof.Machine.execBurstEnd m s
  | .burstTmo => Sys2Proof.Machine.execBurstTmo s
  | .holdupEnd => Sys2Proof.Machine.execHoldupEnd s
  | .wdtKick m v => Sys2Proof.Machine.execWdtKick m v s
  | .watchdogExpiry h => Sys2Proof.Machine.execWatchdogExpiry h s
  | .mtimecmpMatch h => Sys2Proof.Machine.execMtimecmpMatch h s
  | .scrub errs => Sys2Proof.Machine.execScrub errs s
  | .nvWrite m a bytes => Sys2Proof.Machine.execNvWrite m a bytes s
  | .nvWordWritten => Sys2Proof.Machine.execNvWordWritten s
  | .valLoWrite m n v => Sys2Proof.Machine.execValLoWrite m n v s
  | .valLoRead m n => Sys2Proof.Machine.execValLoRead m n s
  | .extest cells => Sys2Proof.Machine.execExtest cells s
  | .idcode => Sys2Proof.Machine.execIdcode s
  | .samplePreload cells => Sys2Proof.Machine.execSamplePreload cells s
  | .dtmcs v => Sys2Proof.Machine.execDtmcs v s
  | .dmi w a v => Sys2Proof.Machine.execDmi w a v s
  | .bypass code => Sys2Proof.Machine.execBypass code s
  | .dmactive on => Sys2Proof.Machine.execDmactive on s
  | .accessRegister h w regno v => Sys2Proof.Machine.execAccessRegister h w regno v s
  | .accessMemory h w a v => Sys2Proof.Machine.execAccessMemory h w a v s
  | .systemBusAccess w a v => Sys2Proof.Machine.execSystemBusAccess w a v s
  | .ndmreset => Sys2Proof.Machine.execNdmreset s
  | .hartHalt h => Sys2Proof.Machine.execHartHalt h s
  | .hartResume => Sys2Proof.Machine.execHartResume s
  | .apply m => Sys2Proof.Machine.execApply m s
  | .applyDone => Sys2Proof.Machine.execApplyDone s
  | .boot m => Sys2Proof.Machine.execBoot m s
  | .ready m => Sys2Proof.Machine.execReady m s
  | .updArm m => Sys2Proof.Machine.execUpdArm m s
  | .handed ok => Sys2Proof.Machine.execHanded ok s
  | .accept m => Sys2Proof.Machine.execAccept m s
  | .reject m => Sys2Proof.Machine.execReject m s
  | .abort m => Sys2Proof.Machine.execAbort m s
  | .updClear m => Sys2Proof.Machine.execUpdClear m s
  | .trialTimeout => Sys2Proof.Machine.execTrialTimeout s
  | .bootrecChange => Sys2Proof.Machine.execBootrecChange s
  | .grantGiveup => Sys2Proof.Machine.execGrantGiveup s
  | .slotCommit m => Sys2Proof.Machine.execSlotCommit m s
  | .slotCommitDone => Sys2Proof.Machine.execSlotCommitDone s
  | .gpioEdge n rise => Sys2Proof.Machine.execGpioEdge n rise s
  | .gpioSet m v => Sys2Proof.Machine.execGpioSet m v s
  | .gpioClr m v => Sys2Proof.Machine.execGpioClr m v s
  | .i2cStart m k => Sys2Proof.Machine.execI2cStart m k s
  | .i2cStop m k => Sys2Proof.Machine.execI2cStop m k s
  | .i2cWrite m k => Sys2Proof.Machine.execI2cWrite m k s
  | .i2cRead m k ack => Sys2Proof.Machine.execI2cRead m k ack s
  | .i2cDone k nack arb byte => Sys2Proof.Machine.execI2cDone k nack arb byte s
  | .i2cTimeout k => Sys2Proof.Machine.execI2cTimeout k s
  | .spiTxdata m k v => Sys2Proof.Machine.execSpiTxdata m k v s
  | .spiRxdata m k => Sys2Proof.Machine.execSpiRxdata m k s
  | .spiByteDone k wire => Sys2Proof.Machine.execSpiByteDone k wire s
  | .uartTx m k v => Sys2Proof.Machine.execUartTx m k v s
  | .uartRx m k => Sys2Proof.Machine.execUartRx m k s
  | .uartRxByte k v perr ferr => Sys2Proof.Machine.execUartRxByte k v perr ferr s
  | .uartTxByteDone k => Sys2Proof.Machine.execUartTxByteDone k s
  | .ethTxTail m e v => Sys2Proof.Machine.execEthTxTail m e v s
  | .ethRxTail m e v => Sys2Proof.Machine.execEthRxTail m e v s
  | .txDone e err sfd => Sys2Proof.Machine.execTxDone e err sfd s
  | .rxDone e frame err sfd => Sys2Proof.Machine.execRxDone e frame err sfd s
  | .mdioGo m e v => Sys2Proof.Machine.execMdioGo m e v s
  | .mdioDone e v => Sys2Proof.Machine.execMdioDone e v s
  | .rwlWrite m a v => Sys2Proof.Machine.execRwlWrite m a v s
  | .registerWrite m a bytes => Sys2Proof.Machine.execRegisterWrite m a bytes s
  | .rfaultReceived r on => Sys2Proof.Machine.execRfaultReceived r on s
  | .plumbOscillatorFailure => Sys2Proof.Machine.execPlumbOscillatorFailure s
  | .counterOverflow n => Sys2Proof.Machine.execCounterOverflow n s
  | .bufFullTimeout n => Sys2Proof.Machine.execBufFullTimeout n s

end Sys2Proof.Machine
end

