-- ==== Sys2Proof/Frames.lean ====
section
/-! DEFINITION. What each command may change, in the terms of the frame statements: the parts of the state, the parts a
command may touch, and, for the commands with a small effect on registers, the registers they may write. -/

namespace Sys2Proof.Machine

/-- The parts of the state, one for each field of State. -/
inductive Part where
  | now | frees | pending | regs | act | bus | mem | pwr | clk | therm | valley | plumb | sins | scans | scanConvs |
  souts | conns | pw | fb | evr | log | doms | grps | legs | holds | trips | sets | mons | phases | drvs | datum |
  pair | adcs | lanes | eng | gens | capMem | rings | grids | isl | trackers | sweep | rails | cmdPorts | monument |
  meters | cluster | nvm | dbg | upd | gio
deriving DecidableEq, Repr

/-- Two states agree on a part. -/
def Part.same (s t : State) : Part → Prop
  | .now => t.now = s.now
  | .frees => t.frees = s.frees
  | .pending => t.pending = s.pending
  | .regs => t.regs = s.regs
  | .act => t.act = s.act
  | .bus => t.bus = s.bus
  | .mem => t.mem = s.mem
  | .pwr => t.pwr = s.pwr
  | .clk => t.clk = s.clk
  | .therm => t.therm = s.therm
  | .valley => t.valley = s.valley
  | .plumb => t.plumb = s.plumb
  | .sins => t.sins = s.sins
  | .scans => t.scans = s.scans
  | .scanConvs => t.scanConvs = s.scanConvs
  | .souts => t.souts = s.souts
  | .conns => t.conns = s.conns
  | .pw => t.pw = s.pw
  | .fb => t.fb = s.fb
  | .evr => t.evr = s.evr
  | .log => t.log = s.log
  | .doms => t.doms = s.doms
  | .grps => t.grps = s.grps
  | .legs => t.legs = s.legs
  | .holds => t.holds = s.holds
  | .trips => t.trips = s.trips
  | .sets => t.sets = s.sets
  | .mons => t.mons = s.mons
  | .phases => t.phases = s.phases
  | .drvs => t.drvs = s.drvs
  | .datum => t.datum = s.datum
  | .pair => t.pair = s.pair
  | .adcs => t.adcs = s.adcs
  | .lanes => t.lanes = s.lanes
  | .eng => t.eng = s.eng
  | .gens => t.gens = s.gens
  | .capMem => t.capMem = s.capMem
  | .rings => t.rings = s.rings
  | .grids => t.grids = s.grids
  | .isl => t.isl = s.isl
  | .trackers => t.trackers = s.trackers
  | .sweep => t.sweep = s.sweep
  | .rails => t.rails = s.rails
  | .cmdPorts => t.cmdPorts = s.cmdPorts
  | .monument => t.monument = s.monument
  | .meters => t.meters = s.meters
  | .cluster => t.cluster = s.cluster
  | .nvm => t.nvm = s.nvm
  | .dbg => t.dbg = s.dbg
  | .upd => t.upd = s.upd
  | .gio => t.gio = s.gio

/-- Every part. -/
def Part.every : List Part :=
  [.now, .frees, .pending, .regs, .act, .bus, .mem, .pwr, .clk, .therm, .valley, .plumb, .sins, .scans, .scanConvs,
   .souts, .conns, .pw, .fb, .evr, .log, .doms, .grps, .legs, .holds, .trips] ++
  [.sets, .mons, .phases, .drvs, .datum, .pair, .adcs, .lanes, .eng, .gens, .capMem, .rings, .grids, .isl, .trackers,
   .sweep, .rails, .cmdPorts, .monument, .meters, .cluster, .nvm, .dbg, .upd, .gio]

/-- The parts a command may touch; it leaves every other part of the state as it is. -/
def touched : Instr → List Part
  | .boundary _ =>
    Part.every.filter fun p => !(List.contains ([.pending, .bus, .clk, .therm, .sins, .scans, .scanConvs, .souts,
      .conns, .pw, .mons, .drvs, .datum, .rings, .trackers, .sweep, .meters, .nvm, .dbg, .gio] : List Part) p)
  | .shadowWrite _ _ _ | .arm _ _ _ | .discard _ _ _ | .dmi _ _ _ | .accessMemory _ _ _ _ | .systemBusAccess _ _ _ |
  .rwlWrite _ _ _ | .registerWrite _ _ _ =>
    Part.every.filter fun p => !(List.contains ([.pending, .sins, .scans, .scanConvs] : List Part) p)
  | .converterGroupCommit _ => [.now, .regs, .act, .evr, .grps, .pair, .adcs]
  | .passStart _ => [.now, .regs, .mem, .evr, .grps, .pair, .lanes, .eng, .rails, .cmdPorts]
  | .passEnd _ => [.now, .frees, .regs, .evr, .grps, .legs, .pair, .lanes, .gens, .isl, .cluster]
  | .passOverrun _ => [.now, .frees, .regs, .evr, .grps, .legs, .pair, .lanes, .cluster]
  | .drainComplete _ => [.now, .regs, .mem, .evr, .lanes, .eng, .rails, .cmdPorts]
  | .slotEnd _ _ _ _ | .lpSettled _ => [.now, .adcs]
  | .averageDelivered _ | .blockEnd _ => [.now, .regs, .evr, .adcs, .trackers, .sweep]
  | .avgRead _ _ | .capDataRead _ | .iaccLoRead _ _ _ | .swpPRead _ | .eLoRead _ _ _ | .cycCntRead _ _ | .sfpDataRead
   _ _ | .timeLoRead _ | .rec0Read _ _ | .tickLoRead _ | .rtcLoRead _ => [.regs, .bus, .evr, .cluster]
  | .regularTrigger _ => [.regs, .act, .evr, .adcs]
  | .urgentTrigger _ => [.regs, .evr, .adcs]
  | .entryEnd _ _ _ => [.now, .regs, .act, .evr, .adcs]
  | .swStart _ _ => [.now, .regs, .act, .evr, .adcs, .cluster]
  | .converterReady _ => [.now, .regs, .evr, .adcs]
  | .resultRead _ _ _ => [.regs, .bus, .evr, .adcs, .cluster]
  | .laneEnable _ _ | .laneDisable _ _ => [.now, .regs, .mem, .evr, .lanes, .eng, .cluster]
  | .swap _ _ => [.now, .regs, .evr, .lanes, .eng, .cluster]
  | .bankVerified _ => [.now, .regs, .evr, .lanes, .eng]
  | .swapAll _ _ | .cancel _ _ => [.now, .frees, .regs, .valley, .evr, .log, .lanes, .eng, .cluster, .upd]
  | .globalVerified => [.now, .frees, .regs, .valley, .evr, .log, .eng, .upd]
  | .tileTypeWrite _ _ _ => [.now, .regs, .mem, .evr, .eng, .cluster]
  | .engineMemoryWrite _ _ _ => [.now, .regs, .bus, .mem, .evr, .eng, .cluster]
  | .tileVerify _ _ => [.now, .regs, .evr, .eng, .cluster]
  | .tileVerifyDone => [.now, .regs]
  | .generatorStart _ _ | .generatorStop _ _ => [.now, .regs, .pw, .fb, .evr, .gens, .cluster]
  | .legDomainWrite _ _ _ => [.now, .regs, .act, .evr, .doms, .grps, .legs, .isl, .cluster]
  | .edge _ _ => [.now, .regs, .evr, .legs, .phases]
  | .calibrationDone _ _ => [.regs, .evr, .legs]
  | .twinChange _ => [.legs]
  | .calibrationExpiry _ => [.now, .legs]
  | .lockReq _ _ _ _ | .lockReqClear _ _ _ _ => [.now, .regs, .evr, .doms, .isl, .cluster]
  | .darm _ _ _ => [.now, .regs, .evr, .grps, .cluster]
  | .safeStateSet _ _ | .safeStateClear _ _ | .latchedClear _ _ =>
    [.now, .frees, .regs, .evr, .log, .legs, .sets, .phases, .monument, .cluster]
  | .tripPinChange _ _ => [.regs, .trips]
  | .tripAssert _ | .blankingEnd _ _ => [.now, .frees, .regs, .evr, .log, .legs, .trips, .sets, .phases, .monument]
  | .tripRelease _ => [.now, .regs, .trips]
  | .stuck _ => [.now, .frees, .regs, .evr, .log, .trips]
  | .heldClear _ _ => [.now, .frees, .regs, .evr, .log, .legs, .phases, .cluster]
  | .tripActionWrite _ _ _ => [.now, .regs, .pw, .fb, .evr, .legs, .trips, .phases, .cluster]
  | .monitorCrossing _ _ _ => [.now, .frees, .regs, .evr, .log, .legs, .sets, .phases, .monument]
  | .monitorEnable _ _ _ => [.now, .frees, .regs, .evr, .log, .legs, .sets, .mons, .phases, .monument, .cluster]
  | .monitorSettled _ => [.now, .frees, .regs, .evr, .log, .legs, .sets, .mons, .phases, .monument]
  | .phaseEnableWrite _ _ _ =>
    [.now, .frees, .regs, .pw, .fb, .evr, .log, .legs, .sets, .phases, .drvs, .monument, .cluster]
  | .vdrvUv _ => [.regs, .evr, .legs, .phases, .drvs]
  | .vdrvOk _ | .regEnLow _ => [.legs, .phases, .drvs]
  | .bstUv _ => [.regs, .evr, .phases]
  | .bstOk _ => [.phases]
  | .drvBlankingEnd _ => [.now, .frees, .regs, .evr, .log, .legs, .sets, .phases, .drvs, .monument]
  | .senseDetection _ _ => [.frees, .regs, .evr, .log, .legs, .sets, .phases, .drvs, .monument]
  | .regEnRise _ => [.frees, .regs, .evr, .log, .legs, .phases, .drvs]
  | .gridConnect _ _ | .gridDisconnect _ _ =>
    [.now, .frees, .regs, .pwr, .plumb, .souts, .fb, .evr, .log, .legs, .holds, .phases, .gens, .grids, .isl,
     .cluster]
  | .gridUpdate _ =>
    [.frees, .regs, .pwr, .plumb, .souts, .fb, .evr, .log, .legs, .holds, .phases, .datum, .gens, .grids, .isl]
  | .curveEntryWrite _ _ _ _ _ => [.now, .regs, .evr, .grids, .cluster]
  | .islEnable _ | .islDisable _ | .islClear _ =>
    [.now, .frees, .regs, .pwr, .plumb, .souts, .fb, .evr, .log, .legs, .holds, .phases, .gens, .isl, .cluster]
  | .codeEpoch => [.now, .regs, .evr, .isl]
  | .periodClosed => [.frees, .regs, .pwr, .plumb, .souts, .fb, .evr, .log, .legs, .holds, .phases, .gens, .isl]
  | .unsure => [.now, .frees, .regs, .pwr, .plumb, .souts, .fb, .evr, .log, .legs, .holds, .phases, .gens, .isl]
  | .ampDataAccess _ _ => [.now, .regs, .bus, .evr, .isl, .cluster]
  | .trackerEnable _ _ | .trackerDisable _ _ | .sweepNow _ _ => [.now, .regs, .evr, .trackers, .sweep, .cluster]
  | .sweepDue | .stepEnd _ => [.now, .regs, .evr, .trackers, .sweep]
  | .railEnable _ _ | .railDisable _ _ | .capture _ =>
    [.now, .frees, .regs, .evr, .log, .legs, .sets, .phases, .rails, .cmdPorts, .monument, .cluster]
  | .railUpdate _ | .dwellExpiry _ | .operation _ _ _ =>
    [.frees, .regs, .evr, .log, .legs, .sets, .phases, .rails, .cmdPorts, .monument]
  | .hiccupRetry _ | .sstmo _ =>
    [.now, .frees, .regs, .evr, .log, .legs, .sets, .phases, .rails, .cmdPorts, .monument]
  | .cleanTime _ => [.now, .rails]
  | .vset _ _ _ => [.now, .regs, .evr, .rails, .cmdPorts, .cluster]
  | .avsVoltageWrite _ _ _ | .avsTransrateWrite _ _ _ _ | .avsResetVoltage _ _ | .avsStatusWrite _ _ | .voutCommand _
   _ _ => [.regs, .evr, .rails, .cmdPorts]
  | .avsVoltageRead _ | .avsTransrateRead _ | .avsCurrentRead _ | .avsTemperatureRead _ | .avsStatusRead _ |
  .avsInvalidCommand _ | .page _ _ _ | .voutMode _ | .statusWord _ | .readVout _ | .readIout _ | .pmbusRevision _ |
  .pmbusUnsupported _ _ | .alertResponse => [.cmdPorts]
  | .clearFaults _ _ => [.regs, .evr, .cmdPorts]
  | .ringCommand _ => [.frees, .regs, .evr, .log, .legs, .sets, .phases, .rings, .rails, .cmdPorts, .monument]
  | .cmdLost _ => [.now, .regs, .evr, .rails, .cmdPorts]
  | .monumentWritten => [.regs, .mem, .evr, .cmdPorts, .monument, .cluster, .nvm]
  | .mtrEnable _ _ | .mtrDisable _ _ | .preset _ _ => [.now, .frees, .regs, .pw, .fb, .evr, .log, .meters, .cluster]
  | .meterSample _ _ _ | .pulseStart _ | .pulseEnd _ => [.now, .meters]
  | .cycleClose _ | .nosync _ => [.now, .frees, .regs, .evr, .log, .meters]
  | .syncGained _ | .rfaultReceived _ _ => [.rings]
  | .syncLost _ _ => [.regs, .rings]
  | .linkDown _ _ => [.now, .frees, .regs, .evr, .log, .datum, .rings]
  | .linkUp _ | .probeFail _ => [.now, .regs, .evr, .rings]
  | .unwrap _ => [.now, .regs, .evr, .datum, .rings]
  | .unwrapNow _ _ | .strOpen _ | .strClose _ | .strReopen _ | .put _ _ | .get _ _ | .join _ _ | .leave _ _ =>
    [.now, .regs, .evr, .rings, .cluster]
  | .cellHeader _ _ => [.regs, .evr, .rings]
  | .cellEnd _ _ _ _ => [.frees, .regs, .mem, .evr, .log, .rings]
  | .cellSend _ => [.now, .frees, .regs, .mem, .evr, .rings]
  | .ackTimer _ | .openResend _ => [.now, .rings]
  | .gapTmo _ | .retransmit _ | .bufFullTimeout _ => [.now, .frees, .regs, .evr, .log, .rings]
  | .rmemDataAccess _ _ => [.now, .regs, .bus, .mem, .evr, .cluster]
  | .fordSwitch _ => [.now, .mem, .rings]
  | .sfpPresencePoll _ _ | .sfpDdmPoll _ _ => [.now, .regs, .mem, .evr, .rings]
  | .rescan _ _ _ => [.now, .regs, .mem, .evr, .cluster]
  | .datumEnable _ _ => [.now, .frees, .regs, .pw, .fb, .evr, .log, .doms, .datum, .gens, .isl, .cluster, .gio]
  | .exchangeInterval => [.now, .frees, .regs, .evr, .log, .doms, .datum, .gens, .rings, .isl, .gio]
  | .foresightReceived _ | .backsightReceived _ => [.frees, .regs, .evr, .log, .doms, .datum, .rings, .isl, .gio]
  | .electionTimeout => [.now, .frees, .regs, .evr, .log, .doms, .datum, .gens, .isl, .gio]
  | .datumCycleBoundary =>
    [.now, .frees, .regs, .mem, .pwr, .valley, .plumb, .fb, .evr, .log, .doms, .grps, .legs, .holds, .phases, .datum,
     .pair, .lanes, .eng, .gens, .capMem, .isl, .cluster, .upd]
  | .cycChg _ | .setTime _ | .resync _ =>
    [.now, .frees, .regs, .evr, .log, .doms, .datum, .gens, .isl, .cluster, .gio]
  | .spoRequest _ | .spoRelease _ =>
    [.now, .frees, .regs, .pwr, .plumb, .fb, .evr, .log, .legs, .holds, .phases, .cluster]
  | .safeInChange _ _ _ => [.frees, .regs, .pwr, .plumb, .sins, .souts, .fb, .evr, .log, .legs, .holds, .phases]
  | .discrepancy _ => [.now, .frees, .regs, .pwr, .plumb, .sins, .souts, .fb, .evr, .log, .legs, .holds, .phases]
  | .scan _ _ _ => [.frees, .regs, .pwr, .plumb, .scans, .scanConvs, .souts, .fb, .evr, .log, .legs, .holds, .phases]
  | .soutClose _ _ | .soutOpen _ _ | .testNow _ _ => [.now, .regs, .plumb, .souts, .evr, .cluster]
  | .soutClr _ _ => [.now, .frees, .regs, .pwr, .plumb, .souts, .fb, .evr, .log, .legs, .holds, .phases, .cluster]
  | .closeTimeout _ => [.now, .regs, .souts, .evr]
  | .soutFeedbackChange _ _ => [.regs, .souts, .evr]
  | .testDue _ | .testPulseEnd _ => [.now, .souts]
  | .testRecoveryEnd _ | .saddleTimeout | .cleanTimeout =>
    [.now, .frees, .regs, .pwr, .plumb, .souts, .fb, .evr, .log, .legs, .holds, .phases]
  | .clockCheck _ _ _ _ => [.frees, .regs, .pwr, .plumb, .souts, .fb, .evr, .log, .legs, .holds, .phases]
  | .freeze => [.now, .frees, .regs, .pwr, .plumb, .fb, .evr, .log, .legs, .holds, .phases]
  | .lockstepMismatch | .selftestDone _ | .plumbOscillatorFailure =>
    [.frees, .regs, .pwr, .plumb, .sins, .scans, .scanConvs, .souts, .conns, .pw, .fb, .evr, .log, .legs, .holds,
     .phases]
  | .periodicSelftest _ =>
    [.now, .frees, .regs, .pwr, .plumb, .sins, .scans, .scanConvs, .souts, .conns, .pw, .fb, .evr, .log, .legs,
     .holds, .phases]
  | .plumbWriteApplied =>
    Part.every.filter fun p => !(List.contains ([.pending, .bus, .scans, .scanConvs] : List Part) p)
  | .produceMessage _ => [.now, .mem, .conns, .rings]
  | .consumeMessage _ =>
    [.frees, .regs, .pwr, .plumb, .souts, .conns, .fb, .evr, .log, .legs, .holds, .phases, .rings]
  | .connectionWatchdog _ =>
    [.now, .frees, .regs, .pwr, .plumb, .souts, .conns, .fb, .evr, .log, .legs, .holds, .phases]
  | .connStart _ _ | .connStop _ _ =>
    [.now, .frees, .regs, .pwr, .plumb, .souts, .conns, .fb, .evr, .log, .legs, .holds, .phases, .cluster]
  | .enter _ | .exit _ | .saddleReset _ =>
    [.now, .frees, .regs, .pwr, .plumb, .souts, .pw, .fb, .evr, .log, .legs, .holds, .phases, .cluster]
  | .saddleEvaluation =>
    [.now, .frees, .regs, .pwr, .valley, .plumb, .souts, .fb, .evr, .log, .legs, .holds, .phases, .eng, .upd]
  | .unlockSite _ _ | .unlockMaker _ _ | .relock _ | .setSite _ _ | .setMaker _ _ =>
    [.now, .regs, .plumb, .pw, .fb, .evr, .cluster]
  | .pwDataWrite _ _ => [.now, .regs, .plumb, .pw, .evr, .cluster]
  | .sessionTimeout => [.now, .regs, .pw, .fb, .evr]
  | .lockoutEnd => [.now, .pw]
  | .fbDrain _ => [.regs, .mem, .fb, .evr, .cluster, .nvm]
  | .fbDataRead _ => [.regs, .bus, .fb, .evr, .cluster]
  | .pairEnable _ _ =>
    [.now, .frees, .regs, .mem, .pw, .fb, .evr, .log, .legs, .phases, .pair, .lanes, .eng, .cluster]
  | .go _ | .give _ | .keep _ | .pairClr _ => [.now, .regs, .evr, .pair, .cluster]
  | .heartbeatSend => [.now, .mem, .pair, .rings]
  | .heartbeatReceived _ _ _ => [.regs, .evr, .pair, .rings]
  | .pathTimeout _ => [.now, .frees, .regs, .pwr, .plumb, .souts, .fb, .evr, .log, .legs, .holds, .phases, .pair]
  | .pairEvaluation | .livenessTimeout | .claimTimeout | .startWait =>
    [.now, .frees, .regs, .mem, .evr, .log, .legs, .phases, .pair, .lanes, .eng]
  | .claimPeerChange _ => [.regs, .evr, .legs, .phases, .pair]
  | .claimSettle => [.now, .pair]
  | .installDone => [.regs, .mem, .evr, .legs, .phases, .pair, .lanes, .eng, .cluster]
  | .peerStuck | .promotion _ | .mdioDone _ _ => [.now, .regs, .evr]
  | .localCapture => [.now, .regs, .evr, .pair]
  | .segmentSend => [.now, .regs, .pair]
  | .segmentReceived _ _ => [.frees, .regs, .mem, .evr, .log, .legs, .phases, .pair, .lanes, .eng]
  | .delivery _ => [.now, .frees, .regs, .evr, .log, .legs, .sets, .phases, .adcs, .monument, .cluster]
  | .deadlineWrite _ _ _ => [.now, .regs, .pw, .fb, .evr, .cluster]
  | .swRaise _ _ | .wdtKick _ _ | .scrub _ | .valLoWrite _ _ _ => [.now, .regs, .evr, .cluster]
  | .logSubmit => [.frees, .regs, .evr, .log]
  | .goLog _ _ | .logFullClear _ => [.now, .regs, .evr, .log, .cluster]
  | .logWrite => [.now, .regs, .evr, .log]
  | .logDataRead _ => [.regs, .bus, .evr, .log, .cluster]
  | .replayDone => [.regs, .evr, .log]
  | .lockLoss | .refMeasure _ => [.frees, .regs, .clk, .evr, .log, .doms, .legs, .phases, .datum, .gens, .isl, .gio]
  | .referenceQualified | .noref => [.now, .clk]
  | .pllLocked => [.regs, .pwr, .clk, .evr, .log, .doms, .datum, .gens, .isl, .gio]
  | .holdRelease => [.now, .regs, .pwr, .clk, .evr, .legs, .holds, .phases]
  | .pllRelock _ =>
    [.now, .frees, .regs, .clk, .pw, .fb, .evr, .log, .doms, .legs, .phases, .datum, .gens, .isl, .cluster, .gio]
  | .update _ => [.now, .frees, .regs, .clk, .pw, .fb, .evr, .log, .legs, .phases, .cluster]
  | .updateMark => [.now, .regs, .clk, .evr]
  | .pdCtlWrite _ _ | .rstCtl _ _ =>
    Part.every.filter fun p => !(List.contains ([.pending, .bus, .clk, .sins, .scans, .scanConvs] : List Part) p)
  | .pdOn => [.frees, .regs, .act, .pwr, .evr, .log, .doms, .grps, .legs, .trips]
  | .pdOff =>
    Part.every.filter fun p => !(List.contains ([.now, .pending, .bus, .clk, .therm, .sins, .scans, .scanConvs, .pw,
      .upd] : List Part) p)
  | .supplyFall _ | .porstAssert => Part.every
  | .supplyRise _ => [.pwr, .valley]
  | .sysrstAssert =>
    Part.every.filter fun p => !(List.contains ([.now, .pending, .bus, .clk, .sins, .scans, .scanConvs] : List Part)
      p)
  | .resetEnd =>
    [.now, .frees, .regs, .pwr, .clk, .therm, .plumb, .souts, .fb, .evr, .log, .legs, .holds, .phases, .nvm, .upd]
  | .guardScan => [.now, .therm]
  | .meas _ _ | .clrStop _ => [.now, .regs, .therm, .pw, .fb, .evr, .cluster]
  | .measurementDone _ =>
    Part.every.filter fun p => !(List.contains ([.pending, .bus, .sins, .scans, .scanConvs] : List Part) p)
  | .stopTime => [.now, .frees, .regs, .therm, .log, .legs, .sets, .phases, .monument]
  | .valleySample _ => [.now, .frees, .regs, .act, .pwr, .valley, .fb, .evr, .log]
  | .valleyPorEnd => [.regs, .pwr, .valley, .fb, .evr, .log]
  | .openCircuitMeasure _ => [.now, .valley]
  | .rtcSet _ | .burstGo _ | .burstEnd _ => [.now, .frees, .regs, .valley, .pw, .fb, .evr, .log, .cluster]
  | .xtFail => [.frees, .regs, .valley, .evr, .log]
  | .xtRecover => [.valley]
  | .burstTmo => [.now, .regs, .valley, .evr]
  | .holdupEnd => [.now, .frees, .regs, .mem, .valley, .evr, .cluster, .nvm, .upd]
  | .watchdogExpiry _ | .trialTimeout =>
    [.now, .frees, .regs, .mem, .pwr, .valley, .plumb, .fb, .evr, .log, .legs, .holds, .phases, .lanes, .eng,
     .cluster, .upd]
  | .mtimecmpMatch _ => [.now, .cluster]
  | .nvWrite _ _ _ => [.now, .regs, .bus, .mem, .evr, .cluster, .nvm]
  | .nvWordWritten => [.now, .regs, .mem, .evr, .cluster, .nvm]
  | .valLoRead _ _ => [.frees, .regs, .bus, .evr, .cluster]
  | .extest _ | .samplePreload _ => [.frees, .dbg]
  | .idcode => [.bus, .dbg]
  | .dtmcs _ => [.frees, .bus, .dbg]
  | .bypass _ => [.dbg]
  | .dmactive _ => [.frees, .regs, .bus, .pwr, .evr, .log, .dbg]
  | .accessRegister _ _ _ _ => [.frees, .regs, .bus, .evr, .log, .cluster, .dbg]
  | .ndmreset =>
    Part.every.filter fun p => !(List.contains ([.now, .pending, .clk, .sins, .scans, .scanConvs] : List Part) p)
  | .hartHalt _ => [.frees, .regs, .plumb, .evr, .log, .legs, .holds, .cluster]
  | .hartResume => [.frees, .regs, .pwr, .plumb, .fb, .evr, .log, .legs, .holds, .phases, .cluster]
  | .apply _ | .boot _ | .ready _ | .updArm _ | .accept _ | .reject _ | .abort _ | .updClear _ =>
    [.now, .frees, .regs, .mem, .pwr, .valley, .plumb, .fb, .evr, .log, .legs, .holds, .phases, .lanes, .eng,
     .cluster, .nvm, .upd]
  | .applyDone => [.now, .frees, .regs, .mem, .evr, .log, .cluster, .nvm, .upd]
  | .handed _ =>
    [.frees, .regs, .mem, .pwr, .valley, .plumb, .fb, .evr, .log, .legs, .holds, .phases, .lanes, .eng, .cluster,
     .upd]
  | .bootrecChange => [.frees, .regs, .pwr, .valley, .plumb, .fb, .evr, .log, .legs, .holds, .phases, .cluster, .upd]
  | .grantGiveup => [.now, .valley, .upd]
  | .slotCommit _ => [.now, .regs, .evr, .cluster, .upd]
  | .slotCommitDone => [.now, .regs, .mem, .evr, .cluster, .nvm, .upd]
  | .gpioEdge _ _ | .uartRxByte _ _ _ _ => [.regs, .evr, .gio]
  | .gpioSet _ _ | .gpioClr _ _ | .i2cStart _ _ | .i2cStop _ _ | .i2cWrite _ _ | .i2cRead _ _ _ | .spiTxdata _ _ _ |
  .uartTx _ _ _ | .ethTxTail _ _ _ | .ethRxTail _ _ _ | .mdioGo _ _ _ => [.now, .regs, .evr, .cluster, .gio]
  | .i2cDone _ _ _ _ | .spiByteDone _ _ => [.now, .frees, .regs, .evr, .gio]
  | .i2cTimeout _ | .uartTxByteDone _ => [.now, .regs, .evr, .gio]
  | .spiRxdata _ _ | .uartRx _ _ => [.regs, .bus, .evr, .cluster, .gio]
  | .txDone _ _ _ => [.now, .frees, .regs, .mem, .evr, .cluster, .gio]
  | .rxDone _ _ _ _ => [.frees, .regs, .mem, .evr, .cluster, .gio]
  | .counterOverflow _ => [.regs, .evr, .cluster]

/-- The command stores to a memory: in the SRAM, the engine's, the rings' or the NV window. -/
def storesMemory (c : Instr) : Bool := (touched c).contains .mem

/-- Commands that may release SPO (R385): the release itself, the end of the self-test and of a reset, at which START becomes
inactive, and bus writes, which may write SPO_CTL, at once or in their turn. -/
def mayReleaseSpo : Instr → Bool
  | .spoRelease _ | .selftestDone _ | .resetEnd | .plumbWriteApplied => true
  | .shadowWrite _ _ _ | .arm _ _ _ | .discard _ _ _ | .rwlWrite _ _ _ | .registerWrite _ _ _ => true
  | .dmi _ _ _ | .accessMemory _ _ _ _ | .systemBusAccess _ _ _ => true
  | _ => false

/-- EV_RAW of a page, and what an occurrence may write in the router's page: MERGE of EV_RAW and MERGE_CNT (R435, R437). -/
def causeKeys (t : PageType) (n : Nat) : List Nat := [rk t n 0x010, rk .evr 0 0x010, rk .evr 0 0x050]

/-- What the count of an access may write (R529): the overflow flags, a cause of the PMC page, and what its occurrence may. -/
def countedKeys : List Nat := pmcKey 0x060 :: pmcKey 0x064 :: causeKeys .pmc 0

/-- What a register write of the bus may write wherever it goes: what its count may, and UPD.DROP_CNT, which counts the writes
of a pair of harts that a handover has retired (R550). -/
def writeKeys : List Nat := rk .upd 0 0x094 :: countedKeys

/-- Registers a command may write, for the commands that write few. -/
def registersOf : Instr → Option (List Nat)
  -- general I/O
  | .gpioEdge _ _ => some [rk .gpio 0 0x010]
  | .gpioSet _ _ | .gpioClr _ _ => some (gpioKey 0x044 :: writeKeys)
  | .i2cStart _ k | .i2cStop _ k | .i2cWrite _ k | .i2cRead _ k _ => some (i2cKey k 0x04C :: writeKeys)
  | .i2cDone k _ _ _ => some [i2cKey k 0x048, i2cKey k 0x04C, rk .i2c k 0x010]
  | .i2cTimeout k => some [i2cKey k 0x04C, rk .i2c k 0x010]
  | .spiTxdata _ _ _ | .uartTx _ _ _ => some writeKeys
  | .spiRxdata _ _ | .uartRx _ _ => some countedKeys
  | .spiByteDone k _ => some [spiKey k 0x050, rk .spi k 0x010]
  | .uartRxByte k _ _ _ => some [uartKey k 0x050, rk .uart k 0x010]
  | .uartTxByteDone k => some [rk .uart k 0x010]
  | .ethTxTail _ e _ => some (ethKey e 0x058 :: writeKeys)
  | .ethRxTail _ e _ => some (ethKey e 0x068 :: writeKeys)
  | .txDone e _ _ =>
    some ([ethKey e 0x05C, ethKey e 0x080, rk .eth e 0x010, pmcKey 0x058, pmcKey 0x05C] ++ causeKeys .pmc 0)
  | .rxDone e _ _ _ =>
    some [ethKey e 0x04C, ethKey e 0x06C, ethKey e 0x078, ethKey e 0x07C, ethKey e 0x084, rk .eth e 0x010]
  | .mdioGo _ e _ => some (ethKey e 0x070 :: writeKeys)
  | .mdioDone e _ => some [ethKey e 0x070, ethKey e 0x074, rk .eth e 0x010]
  -- reads that capture, advance or clear
  | .tickLoRead _ => some (rk .sys 0 0x054 :: countedKeys)
  | .rtcLoRead _ => some (valKey 0x074 :: countedKeys)
  | .timeLoRead _ => some (datKey 0x088 :: countedKeys)
  | .valLoRead _ n => some (ctrKey n 0x10 :: countedKeys)
  | .rec0Read _ _ => some countedKeys
  | .logDataRead _ => some (rk .evr 0 0x070 :: rk .evr 0 0x078 :: countedKeys)
  | .fbDataRead _ => some (plKey 0x124 :: countedKeys)
  | .swpPRead _ => some (rk .mppt 0 0x048 :: countedKeys)
  | .capDataRead _ => some (rk .snd 0 0x040 :: countedKeys)
  | .iaccLoRead _ g j => some ((rk .snd 0 (0x400 + 0x40 * g + 8 * j) + 4) :: countedKeys)
  | .eLoRead _ p k => some (mtrKey p (0x104 + 8 * k) :: countedKeys)
  | .cycCntRead _ p => some ((List.range 26).map (fun i => mtrKey p (0x084 + 4 * i)) ++ countedKeys)
  | .resultRead _ n i => some (rk .adc n (if i.val < 16 then 0x100 + 4 * i else 0x150 + 4 * (i - 16)) :: countedKeys)
  | .sfpDataRead _ r => some (ringKey r.val 0x078 :: countedKeys)
  -- the pair's commands, and the clocks', the Valley domain's and the cluster's that only keep a demand or a time
  | .go _ | .give _ | .keep _ | .pairClr _ => some writeKeys
  | .claimSettle => some []
  | .segmentSend => some [pairKey 0x09C]
  | .referenceQualified | .noref => some []
  | .update _ => some writeKeys
  | .holdRelease => some (rk .sys 0 0x010 :: causeKeys .clk 0)
  | .valleyPorEnd | .openCircuitMeasure _ | .xtRecover => some []
  | .xtFail | .burstTmo => some (causeKeys .valley 0)
  | .burstGo _ => some (causeKeys .valley 0 ++ writeKeys)
  | .burstEnd _ => some writeKeys
  | .guardScan | .supplyRise _ | .mtimecmpMatch _ => some []
  | .meas _ _ | .wdtKick _ _ | .valLoWrite _ _ _ => some writeKeys
  | .scrub _ => some ([pmcKey 0x054, pmcKey 0x058, pmcKey 0x05C] ++ countedKeys)
  | .logSubmit | .logWrite => some (causeKeys .evr 0)
  | .goLog _ _ => some (causeKeys .evr 0 ++ writeKeys)
  | .promotion _ => some (rk .evr 0 0x04C :: causeKeys .evr 0)
  -- passwords and time-outs of the password machine
  | .pwDataWrite _ _ => some writeKeys
  | .lockoutEnd => some []
  -- the TAP
  | .extest _ | .samplePreload _ | .idcode | .bypass _ | .dtmcs _ => some []
  | _ => none

end Sys2Proof.Machine
end

