-- ==== Sys2Proof/Machine/Pins.lean ====
section
/-! DEFINITION. The states of the pins that follow from the state at once (R573, R590). A pin that carries the bits of a
transfer has none here while the transfer runs: the bytes stand in the state of its controller. VPG and the levels of
functions that other chapters name (pwmPins, drvPins, mpulse, clkoutLevel, pinDriven) are what the pins show while
the part is powered. -/

namespace Sys2Proof.Machine

/-- What a pin shows: driven (or pulled) low, driven high, or released, that is high impedance. -/
inductive PinState where
  | low
  | high
  | released
deriving DecidableEq, Repr

/-- VDD_CORE and VDD_IO are absent (the column "Unpowered" of R573). -/
def unpowered (s : State) : Bool := !(bit s.pwr.supply 0) && !(bit s.pwr.supply 3)

/-- A push-pull output: unpowered, its pull-down holds it low. -/
def pushPull (s : State) (v : Bool) : PinState := if !(unpowered s) && v then .high else .low
/-- An output that is high impedance while unpowered. -/
def outPin (s : State) (v : Bool) : PinState := if unpowered s then .released else if v then .high else .low
/-- An open-drain output: driven low or released. -/
def openDrain (s : State) (low : Bool) : PinState := if !(unpowered s) && low then .low else .released
/-- In EXTEST an output has the level of its boundary cell (R531). -/
def scanned (s : State) (pin : Nat) (v : Bool) : Bool := if extestOn s then extestCell s pin else v
/-- In EXTEST an output that can be released is driven from its cell where the cell after it enables it, else released. -/
def scannedPin (s : State) (pin : Nat) (v : PinState) : PinState :=
  if extestOn s then (if extestCell s (pin + 1) then outPin s (extestCell s pin) else .released) else v
/-- In EXTEST an open-drain output is low where its cell is 0. -/
def scannedDrain (s : State) (pin : Nat) (low : Bool) : PinState := openDrain s (if extestOn s then !(extestCell s pin) else low)

/-! The stage (R5, R531, R573) -/

/-- PWM_A and PWM_B of a leg: in EXTEST the boundary register drives them through the SPO gate (R531). -/
def pwmOut (s : State) (l : Fin 96) : PinState × PinState :=
  let v := if extestOn s then
      interlock (extestDriver s (2 * l.val), extestDriver s (2 * l.val + 1))
    else pwmPins s l
  (pushPull s v.1, pushPull s v.2)
/-- DRV_HO and DRV_LO of a direct phase, likewise. -/
def drvOut (s : State) (p : Fin 16) : PinState × PinState :=
  let v := if extestOn s then
      interlock (extestDriver s (256 + 2 * p.val), extestDriver s (257 + 2 * p.val))
    else drvPins s p
  (pushPull s v.1, pushPull s v.2)

/-! Clocks and rings -/

/-- CLKOUT_P and CLKOUT_N (R470). -/
def clkoutPins (s : State) (n : Fin 6) : PinState × PinState := (outPin s (scanned s (512 + 2 * n.val) (clkoutLevel s n)), outPin s (scanned s (513 + 2 * n.val) (clkoutNLevel s n)))
/-- A ford is closed: the ring's receiver is joined to its transmitter inside the package, in reset and unpowered too
(R5, R334, R573). -/
def fordClosed (s : State) (r : Fin 2) : Bool := unpowered s || !(live s .ring && (link s r).ford)
/-- FORD_CTL_N is driven low while either ford is open (R5, R334). -/
def fordCtlLow (s : State) : Bool := live s .ring && ((link s 0).ford || (link s 1).ford)
/-- FORD_CTL_N. -/
def fordCtlPin (s : State) : PinState := scannedDrain s 524 (fordCtlLow s)
/-- Transmitter `p` (0 RA_TX, 1 RB_TX) sends RFAULT in place of IDLE: it leads to the neighbour of the other ring's receiver, in
a spur gateway to that of its own pair's (R323, R347). -/
def rfaultOut (s : State) (p : Fin 2) : Bool :=
  live s .ring && (link s (if isSpur s then p.val else 1 - p.val)).sendRf
/-- CLAIM_OWN_N is driven low while the own claim stands (R5, R420, R431). -/
def claimOwnLow (s : State) : Bool := live s .ring && s.pair.own
/-- CLAIM_OWN_N. -/
def claimOwnPin (s : State) : PinState := scannedDrain s 525 (claimOwnLow s)

/-- What a serial transmitter does (R573): it sends, it is idle at its common-mode level, or it is not driven. -/
inductive LineState where
  | sends
  | idle
  | undriven
deriving DecidableEq, Repr

/-- RA_TX and RB_TX (0 and 1): idle in reset and while PD_RING is off (R349, R573).  DESIGN CHOICE: idle also while the ford is
closed, which joins the receiver's pair to the transmitter's (log entry 77). -/
def ringTxPin (s : State) (p : Fin 2) : LineState :=
  if unpowered s then .undriven else if fordClosed s p then .idle else .sends
/-- PL_TX: idle in reset and while PD_RING is off (R573).  DESIGN CHOICE: idle also while CFG.EN is 0, when no frame is sent (log
entry 77). -/
def plTxPin (s : State) : LineState :=
  if unpowered s then .undriven else if live s .ring && rdb s (rk .pair 0 0x040) 0 then .sends else .idle

/-! Buses: none while a transfer runs on the pin -/

/-- SFP_SCL and SFP_SDA of a ring: released, but for a transfer of the module manager (R325, R573), which the model makes in one
step. -/
def sfpPin (s : State) (r : Fin 2) : PinState := scannedDrain s (526 + r.val) false
/-- PMB_SCL and PMB_SDA: released between the transfers of a host (R281, R573). -/
def pmbPin (s : State) : PinState := scannedDrain s 528 false
/-- PMB_ALERT_N is driven low (R281). -/
def pmbAlertLow (s : State) : Bool := live s .reg && s.cmdPorts.alert
/-- PMB_ALERT_N. -/
def pmbAlertPin (s : State) : PinState := scannedDrain s 529 (pmbAlertLow s)
/-- AVS_SDATA: high impedance but for a reply (R280, R573), which the model makes in one step. -/
def avsSdataPin (s : State) : PinState := scannedPin s 530 .released
/-- MDIO and MDC of a MAC: released and low, but for a management frame (R573, R592). -/
def mdioPin (s : State) (e : Fin 2) : Option PinState :=
  if live s .eth && rdb s (rk .eth e 0x070) 11 && !(extestOn s) then none else some (scannedDrain s (532 + e.val) false)
/-- MDC. -/
def mdcPin (s : State) (e : Fin 2) : Option PinState :=
  if live s .eth && rdb s (rk .eth e 0x070) 11 && !(extestOn s) then none else some (outPin s (scanned s (534 + e.val) false))
/-- An RGMII output `i` (TXC, TX_CTL, TXD[0] to TXD[3]): low in reset and while PD_ETH is off (R573, the paragraph after R595); none once the MAC sends. -/
def rgmiiPin (s : State) (e : Fin 2) (i : Fin 6) : Option PinState :=
  if live s .eth && rdb s (rk .eth e 0x040) 3 && !(extestOn s) then none
  else some (outPin s (scanned s (536 + 6 * e.val + i.val) false))
/-- TDO: driven during a shift only, which the model makes in one step (R531, R573). -/
def tdoPin (_s : State) : PinState := .released

/-! The rest -/

/-- SAFE_OUT[n] is on (R391). -/
def safeOutOn (s : State) (n : Fin 4) : Bool := (sout s n).energised
/-- SAFE_OUT[n]. -/
def safeOutPin (s : State) (n : Fin 4) : PinState := pushPull s (scanned s (548 + n.val) (safeOutOn s n))
/-- MPULSE[p] (R309). -/
def mpulsePin (s : State) (p : Fin 4) : PinState := pushPull s (scanned s (552 + p.val) (mpulse s p))
/-- GPIO[n]: an output where DIR or the alternate function drives it; else an input with its pull, which in reset and after it is
down; unpowered it is released (R573, R590 to R592). -/
def gpioPin (s : State) (n : Fin 32) : PinState :=
  scannedPin s (556 + 2 * n.val) (
    if unpowered s then .released else
    match pinDriven s n with
    | some v => outPin s v
    | none =>
      match rdf s (gpioKey (0x05C + 4 * (n / 16))) (2 * (n % 16)) 2 with
      | 1 => .high
      | 2 => .low
      | _ => .released)
/-- VPG, supplied from VSTORE (R501). -/
def vpgHigh (s : State) : Bool := s.valley.vpg
/-- The external interrupt of a hart, at supervisor or at machine level: some channel routed to it there holds a record
(R515). -/
def hartIrq (s : State) (h : Fin 4) (super : Bool) : Bool := extIrq s h super

end Sys2Proof.Machine
end

