-- ==== Sys2Proof/Safety.lean ====
section
/-! DEFINITION. What a sound state is, in the terms the statements use: the form its lists keep, and the levels of the
outputs a safe stop needs. -/

namespace Sys2Proof.Machine

/-- Every source's queue holds at most four occurrences (R436). -/
def queuesBounded (e : Evr) : Prop := ∀ x ∈ e.srcs, x.2.q.length ≤ 4

/-- Every channel's record queue holds at most eight records (R440). -/
def recordsBounded (e : Evr) : Prop := ∀ x ∈ e.chans, x.2.recs.length ≤ 8

/-- The state is sound: the memory and the two register files keep their canonical form, and the event router's queues
keep within their depths. -/
structure Good (s : State) : Prop where
  mem   : Memory.wf s.mem = true
  regs  : smWf resetVal s.regs = true
  act   : smWf resetVal s.act = true
  queue : queuesBounded s.evr
  recs  : recordsBounded s.evr

/-- Every PWM and driver output is low (R383): the levels that R1 gives them, and the balls, which EXTEST drives (R531). -/
def OutputsLow (s : State) : Prop :=
  (∀ l, l < 96 → pwmPins s l = (false, false)) ∧ (∀ p, p < 16 → drvPins s p = (false, false)) ∧
  (∀ l : Fin 96, pwmOut s l = (.low, .low)) ∧ ∀ p : Fin 16, drvOut s p = (.low, .low)

/-- A state a run may stop in without harm: SPO demanded, its outputs low. -/
def Safe (s : State) : Prop := s.plumb.spo = true → OutputsLow s

/-- A bus write that reaches its page: the page is up, the VALLEY page is not in its own power-on reset, and the master
is not one of a pair whose writes are dropped (R502, R548, R550, R565). -/
def reaches (s : State) (m : Master) (t : PageType) (off : Nat) : Bool :=
  pageUp s t off && !(formerPair s m && !(t == .upd)) && !(stagedPair s m && !(stagedMay t off)) &&
    !(t == .valley && s.valley.por)

/-- The state with a master's write at an address counted (R527), in which the write has its effect. -/
def counted (m : Master) (a : Nat) (s : State) : State := pmcAccess (masterNo m, none) true a (pageAt a) s

/-- The state in which a read of a register answers: the read counted (R527). -/
def countedRead (m : Master) (t : PageType) (n off : Nat) (s : State) : State :=
  pmcAccess (masterNo m, none) false (regAddr t n off) true s

/-- The state in which a write of a register has its effect: the write counted (R527). -/
def countedWrite (m : Master) (t : PageType) (n off : Nat) (s : State) : State :=
  pmcAccess (masterNo m, none) true (regAddr t n off) true s

/-- The state a write of a register page finds: counted, and the OUTs that have issued in their shadows. -/
def atWrite (m : Master) (a : Nat) (s : State) : State := flushOuts s.now (counted m a s)

/-- The words of engine memory that bus writes held back for a lane wait to write, by their numbers (R75). -/
def heldWords (s : State) : List Nat := s.eng.held.map fun h => engOff h.2.1 / 4

/-- A byte lies outside word `i` of engine memory, and outside the running check that a state tile keeps for it (R74). -/
def OffTileWord (s : State) (a i : Nat) : Prop :=
  (a < tileAddr (i / 1024) (i % 1024) ∨ tileAddr (i / 1024) (i % 1024) + 4 ≤ a) ∧
  (tileType s (i / 1024) = 3 → a < tileAddr (i / 1024) 1023 ∨ tileAddr (i / 1024) 1023 + 4 ≤ a)

/-- A byte lies outside every slot of a stream (R341). -/
def OffSlots (s : State) (n a : Nat) : Prop :=
  ∀ k, k < (rstream s n).size → a < slotAt (rstream s n) k ∨ slotAt (rstream s n) k + 64 ≤ a

/-- Registers that hold what a write of the bus sets and keeps, whatever else the write does: RW and W1C registers without a
rule of their own for the value. -/
def plainReg (t : PageType) (off : Nat) : Bool :=
  match t with
  | .sys | .clk => off = 0x04C
  | .evr => off = 0x070 || (0x080 ≤ off && off ≤ 0x088) || (0x400 ≤ off && off < 0x800 && off % 16 = 4)
  | .pmc => off = 0x040 || off = 0x050 || (0x060 ≤ off && off < 0x070) || 0x100 ≤ off
  | .gpio => off = 0x040 || off = 0x044 || 0x054 ≤ off
  | .i2c => off = 0x040 || off = 0x048
  | .spi | .uart => off = 0x050
  | .valley => off = 0x05C
  | .cmp => 0x100 ≤ off && (off % 0x20 = 0x08 || off % 0x20 = 0x0C || off % 0x20 = 0x10)
  | .trip => 0x100 ≤ off && off < 0x800 && 0x04 ≤ off % 0x20 && off % 0x20 ≤ 0x18
  | .drv => off = 0x044
  | .snd => off = 0x040 || (0x100 ≤ off && off < 0x300 && off % 0x40 ≠ 0x20)
  | .grid => 0x200 ≤ off
  | .isl => off = 0x0A0 || off = 0x0A8
  | .ring => off = 0x078
  | .upd => 0x064 ≤ off && off ≤ 0x08C && off ≠ 0x074 && off ≠ 0x084 && off ≠ 0x088
  | .eth => 0x050 ≤ off && off ≤ 0x068 && off ≠ 0x05C
  | _ => false

end Sys2Proof.Machine
end

