-- ==== Sys2Proof/Certificates/Slice0/Obligations.lean ====
section
/-! DEFINITION. The statements about the block, for the provers. The first groups say, for every command, the next state it
answers and where: each clause quantifies over every state and all operands, under hypotheses on these alone. Then come rules
of single chapters, and last the statements about every command, every state and every step. Where a clause names an instant
that the spec bounds only, or the bus cycle that a write takes, it states the model's choice (log entries 4 and 7); no clause
rests on a free value. -/

open Sys2Proof Sys2Proof.Machine

/-- SENSING, CONTINUOUS: a converted slot is one more slot of its window, whether the window waits for its last slots or is
in progress, of a block, of a domain's window in or out of HOLD, or of a domain whose boundaries have stopped; the oldest closed window with its slots converted is delivered; a full block is delivered and the next begins; a read of
AVG returns it and captures the companions; a converter becomes ready, and settles (R41 to R45, R53, R54, R60). -/
def Obligations.ContinuousSensingCompletes : Prop :=
  (∀ (n : Fin 32) (code : Int) (side : Fin 3) (err : Bool) (s : State) (c : Closed) (cs : List Closed),
    live s .adc = true → (adc s n).closed = c :: cs → c.win.n < c.need →
    ∃ t, exec (.slotEnd n code side err) s = .next t ∧ (adc t n).closed.map (·.win.n) = (c.win.n + 1) :: cs.map (·.win.n)) ∧
  (∀ (n : Fin 32) (code : Int) (side : Fin 3) (err : Bool) (s : State) (w : Win),
    live s .adc = true → adcMode s n = 1 → bit (inForce s (rk .adc n 0x040)) 3 = false → (adc s n).closed = [] →
    (adc s n).win = some w → w.n < w.nslot →
    ∃ t, exec (.slotEnd n code side err) s = .next t ∧ (adc t n).win.map (·.n) = some (w.n + 1)) ∧
  (∀ (n : Fin 32) (code : Int) (side : Fin 3) (err : Bool) (s : State) (w : Win) (d span : Nat),
    live s .adc = true → adcMode s n = 1 → bit (inForce s (rk .adc n 0x040)) 3 = true →
    d = fld (inForce s (rk .adc n 0x040)) 4 5 → domRuns s d = true → (adc s n).closed = [] → (adc s n).win = some w →
    span = (if w.hold || !s.clk.locked then holdLen w.tick (nextTick s d) else (dom s d).next - (dom s d).start) →
    w.n * slotLen s n < span →
    ∃ t, exec (.slotEnd n code side err) s = .next t ∧ (adc t n).win.map (·.n) = some (w.n + 1) ∧
      (if w.hold || !s.clk.locked then w.tick else w.start) + min ((w.n + 1) * slotLen s n) span ≤ t.now) ∧
  (∀ (n : Fin 32) (code : Int) (side : Fin 3) (err : Bool) (s : State) (w : Win),
    live s .adc = true → adcMode s n = 1 → bit (inForce s (rk .adc n 0x040)) 3 = true →
    domRuns s (fld (inForce s (rk .adc n 0x040)) 4 5) = false → (adc s n).closed = [] → (adc s n).win = some w →
    ∃ t, exec (.slotEnd n code side err) s = .next t ∧ (adc t n).win.map (·.n) = some (w.n + 1)) ∧
  (∀ (n : Fin 32) (s : State) (c : Closed) (cs : List Closed),
    live s .adc = true → (adc s n).closed = c :: cs → c.need ≤ c.win.n →
    ∃ t, exec (.averageDelivered n) s = .next t ∧ (adc t n).closed = cs ∧ (adc t n).set.valid = c.valid ∧
      (adc t n).set.len = c.len ∧ (adc t n).set.stamp = c.stamp ∧ c.due ≤ t.now) ∧
  (∀ (n : Fin 32) (s : State) (w : Win),
    live s .adc = true → fld (inForce s (rk .adc n 0x040)) 0 2 = 1 → bit (inForce s (rk .adc n 0x040)) 3 = false →
    (adc s n).win = some w → w.nslot ≤ w.n →
    ∃ t, exec (.blockEnd n) s = .next t ∧ (adc t n).set.valid = w.ok ∧
      (adc t n).set.len = w.fromT + (w.nslot - w.fromN) * slotLen s n - w.start ∧ (adc t n).win.map (·.n) = some 0) ∧
  (∀ (m : Master) (n : Fin 32) (s : State), pageUp s .adc 0x060 = true →
    ∃ t, exec (.avgRead m n) s = .next t ∧ t.bus.rdata = rd s (rk .adc n 0x060) ∧ t.bus.err = false ∧
      
      (List.range 5).map (fun i => rd t (rk .adc n (0x064 + 4 * i))) = (List.range 5).map (fun i => (adc s n).latest.getD i 0)) ∧
  (∀ (n : Fin 32) (s : State) (a : Nat), live s .adc = true → (adc s n).readyAt = some a →
    ∃ t, exec (.converterReady n) s = .next t ∧ rdb t (rk .adc n 0x00C) 0 = true ∧ rdb t (rk .adc n 0x010) 7 = true ∧
      (adc t n).readyAt = none ∧ a ≤ t.now) ∧
  (∀ (n : Fin 32) (s : State) (a : Nat), live s .adc = true → (adc s n).lpAt = some a →
    ∃ t, exec (.lpSettled n) s = .next t ∧ (adc t n).lpAt = none ∧ a ≤ t.now)

/-- SENSING, SEQUENCES: a trigger that finds the converter idle starts its sequence at entry 0; an entry that ends gives
its result, NEW, to its register once it is available; a read of a result clears NEW; a converter group without boundaries commits (R52, R55 to R57, R66). -/
def Obligations.SequencedSensingCompletes : Prop :=
  (∀ (n : Fin 32) (s : State), live s .adc = true → (adc s n).regPulse = true → adcMode s n = 2 →
    (adc s n).reg = none → (adc s n).inj = none → (adc s n).regPend = false → 0 < fld (inForce s (rk .adc n 0x080)) 0 5 →
    ∃ t, exec (.regularTrigger n) s = .next t ∧ (adc t n).reg = some 0 ∧ (adc t n).regPulse = false) ∧
  (∀ (n : Fin 32) (s : State), live s .adc = true → (adc s n).injPulse = true → adcMode s n = 2 →
    bit (inForce s (rk .adc n 0x080)) 26 = true → (adc s n).inj = none →
    ∃ t, exec (.urgentTrigger n) s = .next t ∧ (adc t n).inj = some 0 ∧ (adc t n).reg = (adc s n).reg) ∧
  (∀ (n : Fin 32) (code : Int) (side : Fin 3) (s : State) (i : Nat), live s .adc = true → adcMode s n = 2 →
    (adc s n).inj = none → (adc s n).reg = some i → i < 16 → (adc s n).unsettled = false →
    ∃ t, exec (.entryEnd n code side) s = .next t ∧
      ((adc t n).result.map fun r => (r.2.1, bit r.2.2 17)) = some (rk .adc n (0x100 + 4 * i), true) ∧
      (adc s n).entryAt + (adc s n).entryLen ≤ t.now) ∧
  (∀ (m : Master) (n : Fin 32) (s : State), reaches s m .adc 0x080 = true → actf s (rk .adc n 0x080) 8 2 = 0 → adcMode s n = 2 →
    (adc s n).reg = none → (adc s n).inj = none → (adc s n).regPend = false → 0 < fld (inForce s (rk .adc n 0x080)) 0 5 →
    ∃ t, exec (.swStart m n) s = .next t ∧ (adc t n).reg = some 0) ∧
  (∀ (m : Master) (n : Fin 32) (i : Fin 20) (s : State) (k : Nat), pageUp s .adc 0x100 = true →
    k = rk .adc n (if i.val < 16 then 0x100 + 4 * i else 0x150 + 4 * (i - 16)) →
    ∃ t, exec (.resultRead m n i) s = .next t ∧ t.bus.rdata = resultWord s n k ∧ t.bus.err = false ∧ rdb t k 17 = false) ∧
  (∀ (n : Fin 32) (s : State) (a : Nat), live s .adc = true → (grp s (grpKey .adc n 0)).bare = true →
    (grp s (grpKey .adc n 0)).armed = some a → adcLegal s n = true → adcYields s n (tickAt s (a + setupLen)) = false →
    ∃ t, exec (.converterGroupCommit n) s = .next t ∧ (grp t (grpKey .adc n 0)).bare = false ∧
      (grp t (grpKey .adc n 0)).openAt = none ∧ ((grp s (grpKey .adc n 0)).rearm = false → grp t (grpKey .adc n 0) = {}) ∧
      tickAt s (a + setupLen) ≤ t.now)

/-- BOUNDARIES AND BUS WRITES: a boundary ends the period of its domain; a Datum cycle boundary starts its cycle; a shadow
write puts its value into the shadow and opens its group; COMMIT arms and discards groups; a guarded write of a route takes
its value and enters the field book; a write of an RW or W1C register of `plainReg` sets and keeps the bits of its row, a write
of EV_EN its enables, a write of EV_RAW or EV_CLR clears what has not been set in the same cycle, SET and CLR of the GPIO page set and
clear OUT; a write of SRAM bytes lands, and one that is not aligned is a bus error that writes
nothing; a group that commits in this CLK_FAB cycle is not discarded (R8, R12, R16, R18, R354, R408, R514, R558, R559, R564, R566, R569). A
write is counted before it has its effect (log entry 9). -/
def Obligations.BoundariesAndBusWritesComplete : Prop :=
  (∀ (d : Fin 24) (s : State), domRuns s d = true →
    ∃ t, exec (.boundary d) s = .next t ∧ (dom t d).k = (dom s d).k + 1 ∧ (dom t d).start = (dom s d).next ∧
      (dom t d).begun = true ∧ nextTick s d ≤ t.now) ∧
  (∀ (s : State) (v n : Nat), live s .ring = true → nextBoundary s = some (v, n) →
    ∃ t, exec .datumCycleBoundary s = .next t ∧ t.datum.cycle = n ∧ datumInstant s v ≤ t.now) ∧
  (∀ (m : Master) (p : PageType) (n off a : Nat) (v : Word) (s : State),
    pageWindow a = true → a % 4 = 0 → busKey a = rk p n off → keyPage (rk p n off) = some (p, n) →
    keyOff (rk p n off) = off → 0x040 ≤ off → (regRow (rk p n off)).map (·.cls) = some .rws →
    reaches s m p off = true → triggersStart p off v = false → shadowIgnores p off v = false →
    strayPeriod (atWrite m a s) p n off = false →
    ∃ t, exec (.shadowWrite m a v) s = .next t ∧
      rd t (rk p n off) = plainValue (rk p n off) (rd (atWrite m a s) (rk p n off)) v ∧
      (grp t (grpKey p n (groupOf p off))).openAt.isSome = true) ∧
  (∀ (m : Master) (page : BitVec 12) (groups : Byte) (p : PageType) (n g : Nat) (s : State),
    page.toNat < 0xC10 → busKey (0x40000000 + 0x1000 * page.toNat + 0x020) = rk p n 0x020 →
    keyPage (rk p n 0x020) = some (p, n) → keyOff (rk p n 0x020) = 0x020 → reaches s m p 0x020 = true →
    g < 8 → hasGroup p g = true → groups.getLsbD g = true →
    ∃ t, exec (.arm m page groups) s = .next t ∧ (grp t (grpKey p n g)).armed.isSome = true) ∧
  (∀ (m : Master) (page : BitVec 12) (groups : Byte) (p : PageType) (n g : Nat) (s : State),
    page.toNat < 0xC10 → busKey (0x40000000 + 0x1000 * page.toNat + 0x020) = rk p n 0x020 →
    keyPage (rk p n 0x020) = some (p, n) → keyOff (rk p n 0x020) = 0x020 → reaches s m p 0x020 = true →
    g < 8 → hasGroup p g = true → groups.getLsbD g = true →
      commitsNow (atWrite m (0x40000000 + 0x1000 * page.toNat + 0x020) s) p n g = false →
    ∃ t, exec (.discard m page groups) s = .next t ∧ grp t (grpKey p n g) = {}) ∧
  (∀ (m : Master) (page : BitVec 12) (groups : Byte) (p : PageType) (n g : Nat) (s : State),
    page.toNat < 0xC10 → busKey (0x40000000 + 0x1000 * page.toNat + 0x020) = rk p n 0x020 →
    keyPage (rk p n 0x020) = some (p, n) → keyOff (rk p n 0x020) = 0x020 → reaches s m p 0x020 = true →
    commitsNow (atWrite m (0x40000000 + 0x1000 * page.toNat + 0x020) s) p n g = true →
    ∃ t, exec (.discard m page groups) s = .next t ∧
      (grp t (grpKey p n g)).armed = (grp (atWrite m (0x40000000 + 0x1000 * page.toNat + 0x020) s) (grpKey p n g)).armed) ∧
  (∀ (m : Master) (e : Fin 512) (v : Word) (s : State),
    reaches s m .evr (0x800 + 4 * e) = true → levelOk s (rk .evr 0 (0x800 + 4 * e)) = true → stagingFull s = false →
    ∃ t, exec (.rwlWrite m (0x40000000 + rk .evr 0 (0x800 + 4 * e)) v) s = .next t ∧
      rd t (rk .evr 0 (0x800 + 4 * e)) =
        plainValue (rk .evr 0 (0x800 + 4 * e))
          (rd (atWrite m (0x40000000 + rk .evr 0 (0x800 + 4 * e)) s) (rk .evr 0 (0x800 + 4 * e))) v ∧
      t.fb.seq = (s.fb.seq + 1) % 2 ^ 32 ∧ t.fb.staging.length = s.fb.staging.length + 1) ∧
  (∀ (m : Master) (p : PageType) (n off a : Nat) (v : Word) (s : State),
    pageWindow a = true → a % 4 = 0 → busKey a = rk p n off → keyPage (rk p n off) = some (p, n) →
    keyOff (rk p n off) = off → (regRow (rk p n off)).isSome = true → plainReg p off = true → reaches s m p off = true →
    ∃ t, exec (.registerWrite m a (leBytes 4 v.toNat)) s = .next t ∧
      rd t (rk p n off) = plainValue (rk p n off) (rd (atWrite m a s) (rk p n off)) v) ∧
  (∀ (m : Master) (p : PageType) (n a : Nat) (v : Word) (s : State),
    pageWindow a = true → a % 4 = 0 → busKey a = rk p n 0x014 → keyPage (rk p n 0x014) = some (p, n) →
    keyOff (rk p n 0x014) = 0x014 → p ≠ .engc → p ≠ .trip → reaches s m p 0x014 = true → mustWait (atWrite m a s) m p n 0x014 = false →
    ∃ t, exec (.registerWrite m a (leBytes 4 v.toNat)) s = .next t ∧ rd t (rk p n 0x014) = v &&& enMask p) ∧
  (∀ (m : Master) (p : PageType) (n off a : Nat) (v : Word) (s : State),
    pageWindow a = true → a % 4 = 0 → (off = 0x010 ∨ off = 0x018) → busKey a = rk p n off → keyPage (rk p n off) = some (p, n) →
    keyOff (rk p n off) = off → p ≠ .engc → p ≠ .trip → p ≠ .evr → reaches s m p off = true →
    mustWait (atWrite m a s) m p n off = false →
    ∃ t, exec (.registerWrite m a (leBytes 4 v.toNat)) s = .next t ∧
      rd t (rk p n 0x010) =
        rd (atWrite m a s) (rk p n 0x010) &&& ~~~ (v &&& ~~~ freshBits (atWrite m a s) (rk p n 0x010))) ∧
  (∀ (m : Master) (set : Bool) (a : Nat) (v : Word) (s : State),
    a = 0x40000000 + rk .gpio 0 (if set then 0x048 else 0x04C) → reaches s m .gpio 0x048 = true →
    ∃ t, exec (.registerWrite m a (leBytes 4 v.toNat)) s = .next t ∧
      rd t (gpioKey 0x044) = (if set then rd (atWrite m a s) (gpioKey 0x044) ||| v else rd (atWrite m a s) (gpioKey 0x044) &&& ~~~ v)) ∧
  (∀ (m : Master) (a : Nat) (bytes : List Byte) (s : State),
    aligned a bytes.length = true → sramBase ≤ a → a < sramBase + 0x400000 → fabricUp s = true →
    ∃ t, exec (.registerWrite m a bytes) s = .next t ∧ memBytes t a bytes.length = bytes ∧ t.regs = (counted m a s).regs ∧
      t.now = s.now + fabCyc) ∧
  (∀ (m : Master) (a : Nat) (bytes : List Byte) (s : State), aligned a bytes.length = false →
    ∃ t, exec (.registerWrite m a bytes) s = .next t ∧ t.bus.err = true ∧ t.regs = (counted m a s).regs ∧ t.mem = s.mem)

/-- PASSES: a pass starts once in a period of its domain; a pass that fits ends, and one that does not is overrun; each
leaves a drain, which completes (R68, R89, R90, R93). That an overrun pass leaves a drain too is the model's choice (log entry 18). -/
def Obligations.PassesComplete : Prop :=
  (∀ (n : Fin 32) (s : State), live s .eng = true → domRuns s (laneDom s n) = true → (dom s (laneDom s n)).begun = true →
    (lane s n).st = 1 → (lane s n).passK ≠ some (dom s (laneDom s n)).k → (anyHalted s && rdb s (rk .dbg 0 0x044) n) = false →
    ∃ t, exec (.passStart n) s = .next t ∧ (lane t n).st = 2 ∧ (lane t n).passK = some (dom s (laneDom s n)).k ∧
      (lane t n).first = false ∧ (lane t n).pass.isSome = true ∧ lastTick s (laneDom s n) + 1200 ≤ t.now) ∧
  (∀ (n : Fin 32) (s : State) (p : Pass), live s .eng = true → (lane s n).pass = some p → p.e ≤ p.w →
    ∃ t, exec (.passEnd n) s = .next t ∧ (lane t n).pass = none ∧ (lane t n).drain.isSome = true ∧
      p.start + p.e * fabCyc ≤ t.now) ∧
  (∀ (n : Fin 32) (s : State) (p : Pass), live s .eng = true → (lane s n).pass = some p → p.w < p.e →
    ∃ t, exec (.passOverrun n) s = .next t ∧ (lane t n).pass = none ∧ (lane t n).drain.isSome = true ∧
      p.start + p.w * fabCyc ≤ t.now) ∧
  (∀ (n : Fin 32) (s : State) (r : Drain), live s .eng = true → (lane s n).drain = some r →
    ∃ t, exec (.drainComplete n) s = .next t ∧ (lane t n).drain = none ∧ r.endAt ≤ t.now)

/-- LANES AND SWAPS: a lane with a program is enabled and disabled; a swap is verified and then ready or refused; the
global swap is verified for every lane it takes; CANCEL withdraws every swap (R69, R95, R98 to R100). Which lanes the global swap passes over (a disabled lane without a program in its
inactive bank), which banks count as active while swaps pend, and a request while one pends are the model's (log entry 19). -/
def Obligations.LanesAndSwapsComplete : Prop :=
  (∀ (m : Master) (n : Fin 32) (s : State), reaches s m .eng 0x040 = true → rdb s (laneKey n 0x040) 0 = false →
    bankCount s n (lane s n).active ≠ 0 → pairHoldsLane s n = false → (lane s n).st = 0 →
    ∃ t, exec (.laneEnable m n) s = .next t ∧ (lane t n).st = 1 ∧ (lane t n).first = true ∧
      rdb t (laneKey n 0x040) 0 = true ∧ rd t (laneKey n 0x0A0) = 0) ∧
  (∀ (m : Master) (n : Fin 32) (s : State), reaches s m .eng 0x040 = true → rdb s (laneKey n 0x040) 0 = true →
    (lane s n).st ≠ 2 →
    ∃ t, exec (.laneDisable m n) s = .next t ∧ (lane t n).st = 0 ∧ rdb t (laneKey n 0x040) 0 = false) ∧
  (∀ (m : Master) (n : Fin 32) (s : State), reaches s m .eng 0x040 = true → swapPends s n = false →
    ∃ t, exec (.swap m n) s = .next t ∧ (lane t n).swap = .checking ∧ (lane t n).active = (lane s n).active) ∧
  (∀ (n : Fin 32) (s : State) (j : Nat × Nat), live s .eng = true → (s.eng.jobs.find? fun j => decide (j.1 = n.val)) = some j →
    ∃ t, exec (.bankVerified n) s = .next t ∧ j.2 ≤ t.now ∧
      (lane t n).swap = (if bankPasses s n !(lane s n).active &&
        statesApart s (fun k => if k = n.val then !(lane s n).active else (lane s k).active) n
        then .ready (max s.now j.2) else .none)) ∧
  (∀ (m : Master) (mode : Bool) (s : State), reaches s m .engc 0x040 = true → s.eng.global = .none →
    (List.range 32).any (swapPends s) = false →
    ∃ t, exec (.swapAll m mode) s = .next t ∧ t.eng.global = .checking ∧ rdb t (engcKey 0x040) 1 = mode) ∧
  (∀ (s : State), live s .eng = true → s.eng.global = .checking → rdb s (engcKey 0x040) 1 = false →
    ∃ t, exec .globalVerified s = .next t ∧ s.eng.globEnd ≤ t.now ∧
      t.eng.global = (if (globalLanes s).all (fun n =>
        bankPasses s n (if (globalLanes s).contains n then !(lane s n).active else (lane s n).active) &&
        statesApart s (fun k => if (globalLanes s).contains k then !(lane s k).active else (lane s k).active) n)
        then .ready else .none)) ∧
  (∀ (m : Master) (mode : Bool) (s : State), reaches s m .engc 0x040 = true →
    ∃ t, exec (.cancel m mode) s = .next t ∧ t.eng.global = .none ∧ t.eng.jobs = [] ∧
      (List.range 32).any (swapPends t) = false)

/-- TILES: a type write sets the types of tiles no bank maps; a word written to a free tile lands; a write to a
program or coefficient tile that is mapped is ignored; a write to a mapped state tile is held while its lane runs a pass or drains, and
lands otherwise; the drain that follows applies it, as does the last drain of a disabled lane; a check of one tile starts and reports
its outcome and CRC (R71 to R75, R107). That a held write is applied when the drain ends, 16 cycles after its pass, is log entry
18. -/
def Obligations.TilesComplete : Prop :=
  (∀ (m : Master) (j : Fin 16) (v : Word) (s : State), reaches s m .engc 0x080 = true →
    (List.range 16).all (fun i => (List.range 32).all fun n => !(mapsTile s (16 * j + i) n)) = true →
    ∃ t, exec (.tileTypeWrite m j v) s = .next t ∧
      (List.range 16).map (fun i => tileType t (16 * j + i)) = (List.range 16).map fun i => fld v (2 * i) 2) ∧
  (∀ (m : Master) (a : Nat) (w : Word) (s : State), engAccess a 1 = true → fabricUp s = true → domOn s .eng = true →
    stagedPair s m = false → s.upd.st ≠ 6 → tileType s (engOff a / 0x1000) = 0 →
    ∃ t, exec (.engineMemoryWrite m a [w]) s = .next t ∧ memWord t a = w ∧ t.now = s.now + fabCyc) ∧
  (∀ (m : Master) (a : Nat) (w : Word) (s : State), engAccess a 1 = true → fabricUp s = true → domOn s .eng = true →
    stagedPair s m = false → s.upd.st ≠ 6 → (tileType s (engOff a / 0x1000) = 1 ∨ tileType s (engOff a / 0x1000) = 2) →
    (List.range 32).any (mapsTile s (engOff a / 0x1000)) = true →
    ∃ t, exec (.engineMemoryWrite m a [w]) s = .next t ∧ t.mem = s.mem ∧
      (List.range 32).all (fun n => !(mapsTile s (engOff a / 0x1000) n) || rdb t (rk .eng n 0x010) 10) = true) ∧
  (∀ (m : Master) (a : Nat) (w : Word) (n : Nat) (s : State), engAccess a 1 = true → fabricUp s = true → domOn s .eng = true →
    stagedPair s m = false → s.upd.st ≠ 6 → tileType s (engOff a / 0x1000) = 3 → engOff a % 0x1000 < 4 * 1022 →
    stateOwner s (engOff a / 0x1000) = some n → laneHolds s n = true →
    ∃ t, exec (.engineMemoryWrite m a [w]) s = .next t ∧ t.mem = s.mem ∧ t.eng.held = s.eng.held ++ [(n, a, w)]) ∧
  (∀ (m : Master) (a : Nat) (w : Word) (n : Nat) (s : State), engAccess a 1 = true → fabricUp s = true → domOn s .eng = true →
    stagedPair s m = false → s.upd.st ≠ 6 → tileType s (engOff a / 0x1000) = 3 → engOff a % 0x1000 < 4 * 1022 →
    stateOwner s (engOff a / 0x1000) = some n → laneHolds s n = false →
    ∃ t, exec (.engineMemoryWrite m a [w]) s = .next t ∧ memWord t a = w ∧ t.eng.held = s.eng.held) ∧
  (∀ (n : Fin 32) (r : Drain) (a : Nat) (w : Word) (s : State), live s .eng = true → (lane s n).drain = some r → r.sts = [] →
    r.late = [] → (lane s n).pass = none → s.eng.held = [(n.val, a, w)] → engAccess a 1 = true → engOff a % 0x1000 < 4 * 1022 →
    (laneOn s n = false ∨ max s.now r.endAt + fabCyc ≤ nextTick s (laneDom s n) + 1200) →
    ∃ t, exec (.drainComplete n) s = .next t ∧ memWord t a = w ∧ t.eng.held = []) ∧
  (∀ (m : Master) (tile : Byte) (s : State), reaches s m .engc 0x050 = true → rdb s (engcKey 0x050) 9 = false →
    ∃ t, exec (.tileVerify m tile) s = .next t ∧ rdb t (engcKey 0x050) 9 = true ∧ rdf t (engcKey 0x050) 0 8 = tile.toNat ∧
      s.now + 32 * fabCyc ≤ t.eng.tileEnd) ∧
  (∀ (s : State), live s .eng = true → rdb s (engcKey 0x050) 9 = true →
    ∃ t, exec .tileVerifyDone s = .next t ∧ rdb t (engcKey 0x050) 9 = false ∧
      rdb t (engcKey 0x050) 10 = tilePasses s (rdf s (engcKey 0x050) 0 8) ∧
      rd t (engcKey 0x054) = tileCrc s (rdf s (engcKey 0x050) 0 8) ∧ s.eng.tileEnd ≤ t.now)

/-- SOUNDINGS: a start that no rule refuses waits for its source; a stop aborts; the capture port returns a word and
advances; an accumulator's low half is returned and its high half captured (R122 to R125, R128). -/
def Obligations.SoundingsComplete : Prop :=
  (∀ (m : Master) (g : Fin 8) (s : State), reaches s m .snd 0x120 = true → genBusy s g = false → startRefused s g = false →
    (g = 7 → rdb s (rk .snd 0 0x00C) 16 = false) →
    ∃ t, exec (.generatorStart m g) s = .next t ∧ genState t g = 1 ∧ rd t (genKey g 0x28) = 0 ∧ rd t (genKey g 0x2C) = 0) ∧
  (∀ (m : Master) (g : Fin 8) (s : State), reaches s m .snd 0x120 = true → genBusy s g = true →
    (g = 7 → rdb s (rk .snd 0 0x00C) 16 = false) →
    ∃ t, exec (.generatorStop m g) s = .next t ∧ genState t g = 5 ∧ (gen t g).x = 0 ∧ rdb t (rk .snd 0 0x010) (8 + g) = true) ∧
  (∀ (m : Master) (s : State), pageUp s .snd 0x044 = true →
    ∃ t, exec (.capDataRead m) s = .next t ∧ t.bus.rdata = smGet (smConst 0) s.capMem (rdf s (rk .snd 0 0x040) 0 14) ∧
      t.bus.err = false ∧ rdf t (rk .snd 0 0x040) 0 14 = (rdf s (rk .snd 0 0x040) 0 14 + 1) % 16384) ∧
  (∀ (m : Master) (g j : Fin 8) (s : State), pageUp s .snd 0x400 = true →
    ∃ t, exec (.iaccLoRead m g j) s = .next t ∧ t.bus.err = false ∧
      t.bus.rdata = wNat (smGet (smConst 0) (gen s g).acc j).toNat ∧
      rd t (rk .snd 0 (0x404 + 0x40 * g + 8 * j)) = wNat ((smGet (smConst 0) (gen s g).acc j).toNat / 2 ^ 32))

/-- LEGS: a leg moves to the domain that LEG_CFG names; an edge takes place; a calibration in range makes its leg valid,
twins change places where the leg has no edge near, and validity expires; a domain asks for its lock and gives it up; DARM arms for a Datum cycle boundary
(R132, R136, R138, R145, R146, R148, R152, R153). -/
def Obligations.LegsComplete : Prop :=
  (∀ (m : Master) (l : Fin 96) (v : Word) (s : State), reaches s m .pwmg 0x100 = true → outMode s l = 0 →
    (grp s (grpKey .pwmg (l / 8) (l % 8))).openAt = none → fld v 0 5 < 24 → fld v 0 5 ≠ legDom s l → fld v 5 2 ≠ 3 →
    ∃ t, exec (.legDomainWrite m l v) s = .next t ∧ legDom t l = fld v 0 5 ∧ (leg t l).wait = true ∧
      (dom t (fld v 0 5)).running = true) ∧
  (∀ (l : Fin 96) (outB : Bool) (s : State) (a : Nat) (rise : Bool), domRuns s (legDom s l) = true → (leg s l).wait = false →
    nextEdge s l outB = some (a, rise) →
    ∃ t, exec (.edge l outB) s = .next t ∧ placeEdge s l rise a ≤ t.now ∧
      (if outB then (leg t l).cmdB = rise ∧ (leg t l).edgeB = a else (leg t l).cmdA = rise ∧ (leg t l).edgeA = a)) ∧
  (∀ (l : Fin 96) (taps : Nat) (s : State), live s .pwm = true → s.clk.locked = true → 160 ≤ taps → taps ≤ 224 →
    ∃ t, exec (.calibrationDone l taps) s = .next t ∧ (leg t l).valid = true ∧ (leg t l).line = (leg s l).line ∧
      (if (leg s l).line then (leg t l).twin0 else (leg t l).twin1) = { cal := some s.now, ready := true }) ∧
  (∀ (l : Fin 96) (s : State), live s .pwm = true →
    (if (leg s l).line then (leg s l).twin0 else (leg s l).twin1).ready = true → quietTicks s l = true →
    ∃ t, exec (.twinChange l) s = .next t ∧ (leg t l).line = !(leg s l).line ∧
      (if (leg s l).line then (leg t l).twin0 else (leg t l).twin1).ready = false) ∧
  (∀ (l : Fin 96) (s : State), live s .pwm = true → (leg s l).valid = true →
    ∃ t, exec (.calibrationExpiry l) s = .next t ∧ (leg t l).valid = false ∧
      max ((leg s l).twin0.cal.getD 0) ((leg s l).twin1.cal.getD 0) + calLife ≤ t.now) ∧
  (∀ (m : Master) (d : Fin 24) (stretch : Bool) (slew : BitVec 8) (s : State), reaches s m .pwmg 0x040 = true →
    lockState s d = 0 → ((cycHeld s).all fun c => cycleFits c.len (dom s d).per) = true →
    ∃ t, exec (.lockReq m d stretch slew) s = .next t ∧ lockState t d = (if mayAlign s d then 2 else 1) ∧
      rdb t (domKey d 0x040) 0 = true) ∧
  (∀ (m : Master) (d : Fin 24) (stretch : Bool) (slew : BitVec 8) (s : State), reaches s m .pwmg 0x040 = true →
    ∃ t, exec (.lockReqClear m d stretch slew) s = .next t ∧ lockState t d = 0 ∧ rdb t (domKey d 0x040) 0 = false ∧
      (dom t d).err = none) ∧
  (∀ (m : Master) (n : Fin 12) (v : BitVec 16) (i : Fin 8) (s : State), reaches s m .pwmg 0x080 = true →
    datumValid s = true → v.getLsbD i = true →
    ∃ t, exec (.darm m n v) s = .next t ∧ (grp t (grpKey .pwmg n i)).darm = true ∧
      (grp t (grpKey .pwmg n i)).armed = some s.now)

/-- SAFE-STATE SETS AND TRIPS: a set latches and clears; a trip pin moves, its filter passes an activity and its end, its
reaction starts after blanking, a long activity is stuck, a held reaction is cleared, and its configuration is written
(R164, R167, R169, R171 to R173, R175). -/
def Obligations.SetsAndTripsComplete : Prop :=
  (∀ (m : Master) (k : Fin 16) (s : State), reaches s m .trip 0x800 = true →
    ∃ t, exec (.safeStateSet m k) s = .next t ∧ (safeSet t k).latched = true ∧ (0, 0) ∈ (safeSet t k).reqs) ∧
  (∀ (m : Master) (k : Fin 16) (s : State), reaches s m .trip 0x800 = true →
    ((safeSet s k).reqs.filter (reqActive s)).isEmpty = true →
    (List.range 4).all (fun r => (rail s r).st ≠ 5) = true →
    ∃ t, exec (.safeStateClear m k) s = .next t ∧ (safeSet t k).latched = false) ∧
  (∀ (i : Fin 48) (active : Bool) (s : State), live s .pwm = true → (tripIn s i).raw ≠ active →
    ∃ t, exec (.tripPinChange i active) s = .next t ∧ (tripIn t i).raw = active ∧ (tripIn t i).rawAt = s.now ∧
      rdb t (tripKey i 0x18) 0 = active) ∧
  (∀ (i : Fin 48) (s : State), live s .pwm = true → (tripIn s i).raw = true → (tripIn s i).active = false →
    ∃ t, exec (.tripAssert i) s = .next t ∧ (tripIn t i).active = true ∧ rdb t (tripKey i 0x18) 1 = true ∧
      (tripIn s i).rawAt + filtTime s i ≤ t.now) ∧
  (∀ (i : Fin 48) (s : State), live s .pwm = true → (tripIn s i).raw = false → (tripIn s i).active = true →
    ∃ t, exec (.tripRelease i) s = .next t ∧ (tripIn t i).active = false ∧ rdb t (tripKey i 0x18) 1 = false ∧
      rdb t (tripKey i 0x18) 4 = false ∧ (tripIn s i).rawAt + filtTime s i ≤ t.now) ∧
  (∀ (i : Fin 96) (s : State), live s .pwm = true → i.val < 48 → (tripIn s i).active = true → (tripIn s i).reacted = false →
    tripBlanked s i = false →
    ∃ t, exec (.blankingEnd false i) s = .next t ∧ (tripIn t i).reacted = true) ∧
  (∀ (i : Fin 48) (s : State), live s .pwm = true → (tripIn s i).active = true → (tripIn s i).stuck = false →
    rdf s (tripKey i 0x10) 0 16 ≠ 0 →
    ∃ t, exec (.stuck i) s = .next t ∧ (tripIn t i).stuck = true ∧ rdb t (tripKey i 0x18) 4 = true ∧
      (tripIn s i).activeAt + rdf s (tripKey i 0x10) 0 16 * (10 * usec) ≤ t.now) ∧
  (∀ (m : Master) (i : Fin 48) (s : State), reaches s m .trip 0x118 = true → (tripIn s i).active = false →
    ∃ t, exec (.heldClear m i) s = .next t ∧ rdb t (tripKey i 0x18) 3 = false) ∧
  (∀ (m : Master) (i : Fin 48) (v : Word) (s : State), reaches s m .trip 0x100 = true → levelOk s (tripKey i 0) = true →
    stagingFull s = false →
    ∃ t, exec (.tripActionWrite m i v) s = .next t ∧
      rd t (tripKey i 0) = plainValue (tripKey i 0) (rd s (tripKey i 0)) (if 100 < fld v 0 7 then setFld v 0 7 100 else v))

/-- MONITORS: a crossing sets its comparator, an enable starts settling, settling ends, a latch that no condition holds is
cleared, and the end of blanking brings LIVE up to date (R178 to R182). -/
def Obligations.MonitorsComplete : Prop :=
  (∀ (i : Fin 96) (before after : Int) (s : State), live s .pwm = true → rdb s (monKey i 0) 0 = true →
    before ≤ 4000 * sfld (inForce s (monKey i 0x04)) 0 10 → 4000 * sfld (inForce s (monKey i 0x04)) 0 10 < after →
    ∃ t, exec (.monitorCrossing i before after) s = .next t ∧ rdb t (monKey i 0x18) 0 = true) ∧
  (∀ (m : Master) (i : Fin 96) (v : Word) (s : State), reaches s m .cmp 0x100 = true → bit v 0 = true →
    rdb s (monKey i 0) 0 = false → fld v 20 5 = fld (rd s (monKey i 0)) 20 5 → fld v 20 5 < 24 → fld v 16 2 ≠ 3 →
    ∃ t, exec (.monitorEnable m i v) s = .next t ∧ rd t (monKey i 0) = plainValue (monKey i 0) (rd s (monKey i 0)) v ∧
      (mon t i).settle = some (s.now + [usec, 2 * usec, 5 * usec, 30 * usec].getD (fld v 1 2) 0) ∧
      rdb t (monKey i 0x18) 5 = false) ∧
  (∀ (i : Fin 96) (s : State) (a : Nat), live s .pwm = true → rdb s (monKey i 0) 0 = true → (mon s i).settle = some a →
    ∃ t, exec (.monitorSettled i) s = .next t ∧ rdb t (monKey i 0x18) 5 = true ∧ (mon t i).settle = none ∧ a ≤ t.now) ∧
  (∀ (m : Master) (i : Fin 96) (s : State), reaches s m .cmp 0x118 = true → rdf s (monKey i 0) 16 2 = 1 → monLive s i = false →
    ∃ t, exec (.latchedClear m i) s = .next t ∧ rdb t (monKey i 0x18) 3 = false) ∧
  (∀ (i : Fin 96) (s : State), live s .pwm = true → monBlanked s i = false →
    ∃ t, exec (.blankingEnd true i) s = .next t ∧ rdb t (monKey i 0x18) 2 = monLive s i)

/-- DIRECT DRIVERS: a phase is enabled, its supplies fail and return, its sense voltage is judged after blanking, and REG_EN
falls and rises (R186 to R190). -/
def Obligations.DriversComplete : Prop :=
  (∀ (m : Master) (p : Fin 16) (v : Word) (s : State), reaches s m .drv 0x100 = true → levelOk s (phKey p 0) = true →
    stagingFull s = false → outMode s (80 + p) = 0 → 5 ≤ fld v 8 7 → fld v 8 7 ≤ 80 →
    ∃ t, exec (.phaseEnableWrite m p v) s = .next t ∧ rd t (phKey p 0) = plainValue (phKey p 0) (rd s (phKey p 0)) v) ∧
  (∀ (g : Fin 4) (s : State), live s .pwm = true → (drvGrp s g).vdrvOk = true →
    ∃ t, exec (.vdrvUv g) s = .next t ∧ (drvGrp t g).vdrvOk = false) ∧
  (∀ (g : Fin 4) (s : State), live s .pwm = true →
    ∃ t, exec (.vdrvOk g) s = .next t ∧ (drvGrp t g).vdrvOk = true) ∧
  (∀ (p : Fin 16) (s : State), live s .pwm = true → (phase s p).bstOk = true →
    ∃ t, exec (.bstUv p) s = .next t ∧ (phase t p).bstOk = false ∧
      rdf t (phKey p 0x08) 16 16 = held 65535 (rdf s (phKey p 0x08) 16 16 + 1)) ∧
  (∀ (p : Fin 16) (s : State), live s .pwm = true →
    ∃ t, exec (.bstOk p) s = .next t ∧ (phase t p).bstOk = true) ∧
  (∀ (p : Fin 16) (e : Nat) (s : State), live s .pwm = true → phEn s p = true → drvBlankEnd s p = some e →
    overOc s p = true →
    ∃ t, exec (.drvBlankingEnd p) s = .next t ∧ rdb t (phKey p 0x04) 3 = true ∧ e ≤ t.now) ∧
  (∀ (p : Fin 16) (mv : Nat) (s : State), live s .pwm = true →
    ∃ t, exec (.senseDetection p mv) s = .next t ∧ (phase t p).mv = mv) ∧
  (∀ (p : Fin 16) (mv : Nat) (s : State), live s .pwm = true → phEn s p = true → overOc s p = false →
    drvBlanked s p = false → 8 * rdf s (phKey p 0) 16 8 < mv →
    ∃ t, exec (.senseDetection p mv) s = .next t ∧ (phase t p).mv = mv ∧ rdb t (phKey p 0x04) 3 = true ∧
      rdb t (rk .drv (p / 4) 0x044) 2 = true) ∧
  (∀ (g : Fin 4) (s : State), live s .pwm = true →
    ∃ t, exec (.regEnLow g) s = .next t ∧ (drvGrp t g).off = true ∧ (drvGrp t g).regEn = false) ∧
  (∀ (g : Fin 4) (s : State), live s .pwm = true →
    ∃ t, exec (.regEnRise g) s = .next t ∧ (drvGrp t g).regEn = true ∧ (drvGrp t g).off = false)

/-- GRID PORTS AND ISLANDING: a port connects and takes one update in a period; a
DISCONNECT, and a CONNECT of a tripped port, are kept for the next update, where a disconnect leads to OFF; a write of a curve entry resets
its timer; the islanding function is enabled, disabled and cleared; a code epoch begins a code period, a closed period
leaves the list, HOLD becomes unsure, and AMP_DATA is written and read (R203 to R205, R219, R223, R234 to R236, R240, R244, R246,
R247). That DISCONNECT, and CONNECT in TRIPPED, are kept for the port's next update is the model's (log entry 25). -/
def Obligations.GridAndIslandingComplete : Prop :=
  (∀ (m : Master) (g : Fin 4) (s : State), reaches s m .grid 0x0E0 = true → (grid s g).st = 0 → connectBad s g = false →
    s.isl.st ≠ 4 →
    ∃ t, exec (.gridConnect m g) s = .next t ∧ (grid t g).st = 1 ∧ (grid t g).f = fnom s g * one48) ∧
  (∀ (m : Master) (g : Fin 4) (s : State), reaches s m .grid 0x0E0 = true →
    (grid s g).st ≠ 0 →
    ∃ t, exec (.gridDisconnect m g) s = .next t ∧ (grid t g).discReq = true ∧ (grid t g).st = (grid s g).st) ∧
  (∀ (g : Fin 4) (s : State), live s .eng = true → (grid s g).st ≠ 0 → domRuns s (gridDom s g) = true →
    (dom s (gridDom s g)).begun = true → (grid s g).upK ≠ some (dom s (gridDom s g)).k → (grid s g).discReq = true →
    ∃ t, exec (.gridUpdate g) s = .next t ∧ (grid t g).st = 0 ∧ (grid t g).discReq = false) ∧
  (∀ (m : Master) (g : Fin 4) (s : State), reaches s m .grid 0x0E0 = true → (grid s g).st = 8 →
    ∃ t, exec (.gridConnect m g) s = .next t ∧ (grid t g).connReq = true) ∧
  (∀ (g : Fin 4) (s : State), live s .eng = true → (grid s g).st ≠ 0 → domRuns s (gridDom s g) = true →
    (dom s (gridDom s g)).begun = true → (grid s g).upK ≠ some (dom s (gridDom s g)).k →
    ∃ t, exec (.gridUpdate g) s = .next t ∧ (grid t g).upK = some (dom s (gridDom s g)).k) ∧
  (∀ (m : Master) (g : Fin 4) (e : Fin 32) (ecfg : Bool) (v : Word) (s : State), reaches s m .grid 0x200 = true →
    ∃ t, exec (.curveEntryWrite m g e ecfg v) s = .next t ∧
      rd t (gridKey g (0x200 + 8 * e + (if ecfg then 4 else 0))) =
        plainValue (gridKey g (0x200 + 8 * e + (if ecfg then 4 else 0)))
          (rd s (gridKey g (0x200 + 8 * e + (if ecfg then 4 else 0)))) v ∧
      ((grid t g).timers.any fun x => decide (x.1 = e)) = false ∧ (grid t g).acting.getLsbD e = false) ∧
  (∀ (m : Master) (s : State), reaches s m .isl 0x064 = true → s.isl.st = 0 → islRefused s = false →
    ∃ t, exec (.islEnable m) s = .next t ∧ t.isl.own = ownCode s ∧ t.isl.st = (if islAligned s then 1 else 3) ∧
      t.isl.table = s.isl.amps) ∧
  (∀ (m : Master) (s : State), reaches s m .isl 0x064 = true → s.isl.st ≠ 4 →
    ∃ t, exec (.islDisable m) s = .next t ∧ t.isl.st = 0 ∧ t.isl.wrong = s.isl.wrong ∧ t.isl.amps = s.isl.amps) ∧
  (∀ (m : Master) (s : State), reaches s m .isl 0x064 = true → s.isl.st = 4 →
    ((grid s (islPort s)).st = 0 ∨ (grid s (islPort s)).st = 9 ∨ ((grid s (islPort s)).st = 8 ∧ contactor s (islPort s) = false)) →
    ∃ t, exec (.islClear m) s = .next t ∧
      t.isl.st = (if islAligned s then (if s.isl.epochs then 2 else 1) else 3) ∧ t.isl.first = none) ∧
  (∀ (m : Master) (s : State), reaches s m .isl 0x064 = true → s.isl.st = 4 → (grid s (islPort s)).st ≠ 0 →
    (grid s (islPort s)).st ≠ 9 → ((grid s (islPort s)).st = 8 → contactor s (islPort s) = true) →
    ∃ t, exec (.islClear m) s = .next t ∧ t.isl = s.isl ∧ rdb t (islKey 0x010) 7 = true) ∧
  (∀ (s : State), live s .eng = true → s.datum.st ≠ .off → islAligned s = true → (s.isl.st = 1 ∨ s.isl.st = 2) →
    (datumNow s / codeUnits + 1) * codeUnits < 2 ^ 64 →
    ∃ t, exec .codeEpoch s = .next t ∧ t.isl.st = 2 ∧
      t.isl.first = some ((datumNow s / codeUnits + 1) * codeUnits / chipUnits) ∧
      datumInstant s ((datumNow s / codeUnits + 1) * codeUnits) ≤ t.now) ∧
  (∀ (s : State) (p : IslPer) (ps : List IslPer), s.isl.closing = p :: ps →
    ∃ t, exec .periodClosed s = .next t ∧ t.isl.closing = ps ∧
      rdf t (islKey 0x070) 0 16 = (rdf s (islKey 0x070) 0 16 + 1) % 65536 ∧ rdb t (islKey 0x010) 2 = true) ∧
  (∀ (s : State) (a : Nat), s.isl.st = 3 → s.isl.holdAt = some a → rdf s (islKey 0x060) 0 16 ≠ 0 → s.isl.unsure = false →
    ∃ t, exec .unsure s = .next t ∧ t.isl.unsure = true ∧ a + rdf s (islKey 0x060) 0 16 * msec ≤ t.now ∧
      rdb t (islKey 0x010) 1 = true) ∧
  (∀ (m : Master) (v : Word) (s : State), reaches s m .isl 0x0A4 = true → rdf s (islKey 0x0A0) 0 9 < 511 →
    ∃ t, exec (.ampDataAccess m (some v)) s = .next t ∧ ampEntry t (rdf s (islKey 0x0A0) 0 9) = fld v 0 16 ∧
      rdf t (islKey 0x0A0) 0 9 = (rdf s (islKey 0x0A0) 0 9 + 1) % 511) ∧
  (∀ (m : Master) (s : State), pageUp s .isl 0x0A4 = true →
    ∃ t, exec (.ampDataAccess m none) s = .next t ∧ t.bus.rdata = wNat (ampEntry s (rdf s (islKey 0x0A0) 0 9)) ∧
      t.bus.err = false ∧ rdf t (islKey 0x0A0) 0 9 = (rdf s (islKey 0x0A0) 0 9 + 1) % 511)

/-- STRING TRACKING: a tracker is enabled and disabled; a sweep is asked for and falls due; a step ends,
or waits for an average that is still to come; the sweep table is
read (R252, R256, R257, R260, R262, R264, R265). That SWP_ADDR goes from 64 to 0, and that a step waits for an average still to come, is
the model's (log entry 27). -/
def Obligations.TrackersComplete : Prop :=
  (∀ (m : Master) (x : Fin 24) (s : State), reaches s m .mppt 0x130 = true → (tracker s x).st = 0 →
    trackerRefused s x = false →
    ∃ t, exec (.trackerEnable m x) s = .next t ∧ (tracker t x).st = 1 ∧ (tracker t x).vref = rd s (trkKey x 0x0C) ∧
      (tracker t x).dv = rd s (trkKey x 0x10) ∧ (tracker t x).base = true ∧ (tracker t x).stepAt = s.now) ∧
  (∀ (m : Master) (x : Fin 24) (s : State), reaches s m .mppt 0x130 = true →
    ∃ t, exec (.trackerDisable m x) s = .next t ∧ tracker t x = { pmeas := (tracker s x).pmeas, gap := (tracker s x).gap }) ∧
  (∀ (m : Master) (x : Fin 24) (s : State), reaches s m .mppt 0x130 = true → sweepOk s x = true →
    ∃ t, exec (.sweepNow m x) s = .next t ∧ (tracker t x).sweep = true ∧ (tracker t x).st = 1) ∧
  (∀ (s : State) (a : Nat), live s .eng = true → s.sweep.due = some a →
    ∃ t, exec .sweepDue s = .next t ∧ t.sweep.due = some (a + rdf s (rk .mppt 0 0x040) 16 16 * secs) ∧ a ≤ t.now) ∧
  (∀ (x : Fin 24) (s : State), live s .eng = true → (tracker s x).st ≠ 0 →
    ((tracker s x).late = true ∨ undelivered s (trkCurr s x) ((tracker s x).stepAt + stepLen s x) = false) →
    ∃ t, exec (.stepEnd x) s = .next t ∧ (tracker t x).stepAt = (tracker s x).stepAt + stepLen s x ∧
      (tracker s x).stepAt + stepLen s x ≤ t.now ∧
      (tracker t x).sumL = 0) ∧
  (∀ (x : Fin 24) (s : State), live s .eng = true → (tracker s x).st ≠ 0 → (tracker s x).late = false →
    undelivered s (trkCurr s x) ((tracker s x).stepAt + stepLen s x) = true →
    ∃ t, exec (.stepEnd x) s = .next t ∧ (tracker t x).late = true ∧ (tracker t x).stepAt = (tracker s x).stepAt ∧
      (tracker t x).sumL = (tracker s x).sumL ∧ (tracker s x).stepAt + stepLen s x ≤ t.now) ∧
  (∀ (m : Master) (s : State), pageUp s .mppt 0x050 = true →
    ∃ t, exec (.swpPRead m) s = .next t ∧ t.bus.rdata = smGet (smConst nanF) s.sweep.pows (rdf s (rk .mppt 0 0x048) 0 7) ∧
      t.bus.err = false ∧
      rdf t (rk .mppt 0 0x048) 0 7 = (if rdf s (rk .mppt 0 0x048) 0 7 < 64 then rdf s (rk .mppt 0 0x048) 0 7 + 1 else 0))

/-- REGULATOR RAILS: a rail is enabled and disabled; it takes one update at a boundary, at which a dwell completes too; a
retry, the soft-start time-out and the clean time take effect; VSET and ring commands set TARGET or are counted lost; a
monument is captured and written (R269 to R271, R274, R277, R278, R282, R284, R285, R288, R290). A ring
command's words are read least significant byte first: the model's choice (log entry 28). -/
def Obligations.RailsComplete : Prop :=
  (∀ (m : Master) (r : Fin 4) (s : State), reaches s m .reg 0x0E4 = true → (rail s r).st = 0 → (rail s r).starts = false →
    railRefused s r = false → (safeSet s (offSet s r)).latched = false →
    ∃ t, exec (.railEnable m r) s = .next t ∧ (rail t r).st = 1 ∧
      (rail t r).target = (if (rail s r).taken then (rail s r).target else regF s r 0x080)) ∧
  (∀ (m : Master) (r : Fin 4) (s : State), reaches s m .reg 0x0E4 = true → rdb s (regKey r 0x040) 21 = false →
    ∃ t, exec (.railDisable m r) s = .next t ∧ (rail t r).st = 0 ∧ (rail t r).retries = 0 ∧ (rail t r).taken = false) ∧
  (∀ (r : Fin 4) (s : State), live s .reg = true → domRuns s (railDom s r) = true → (dom s (railDom s r)).begun = true →
    (rail s r).upK ≠ some (dom s (railDom s r)).k →
    ∃ t, exec (.railUpdate r) s = .next t ∧ (rail t r).upK = some (dom s (railDom s r)).k) ∧
  (∀ (r : Fin 4) (s : State), live s .reg = true → domRuns s (railDom s r) = true → (dom s (railDom s r)).begun = true →
    (rail s r).upK ≠ some (dom s (railDom s r)).k →
    ∃ t, exec (.dwellExpiry r) s = .next t ∧ (rail t r).upK = some (dom s (railDom s r)).k) ∧
  (∀ (r : Fin 4) (s : State), live s .reg = true → domRuns s (railDom s r) = true → (dom s (railDom s r)).begun = true →
    (rail s r).upK ≠ some (dom s (railDom s r)).k → (rail s r).st = 2 → (rail (railJudged r s) r).st = 2 →
    updateAim s r ≠ (rail (railJudged r s) r).mask →
    ∃ t, exec (.dwellExpiry r) s = .next t ∧ (rail t r).mask = updateAim s r ∧
      (rail t r).upK = some (dom s (railDom s r)).k ∧ (rail t r).fromK = (dom s (railDom s r)).k - 1 + 3 ∧
      (rail t r).addD = 0 ∧ (rail t r).shedD = 0 ∧
      rdb t (rk .reg r 0x010) (if count24 (rail (railJudged r s) r).mask < count24 (updateAim s r) then 5 else 4) = true) ∧
  (∀ (r : Fin 4) (s : State) (a : Nat), live s .reg = true → domRuns s (railDom s r) = true →
    (dom s (railDom s r)).begun = true → (rail s r).st = 4 → (rail s r).upK = some (dom s (railDom s r)).k →
    a = (rail s r).since + rdf s (regKey r 0x0D0) 0 16 * msec → retryOk (upto a s) r = true →
    ((safeSet s (offSet s r)).reqs.filter (reqActive s)).isEmpty = true →
    ∃ t, exec (.hiccupRetry r) s = .next t ∧ (rail t r).st = 1 ∧ a ≤ t.now ∧ (safeSet t (offSet s r)).latched = false) ∧
  (∀ (r : Fin 4) (s : State) (a : Nat), live s .reg = true → domRuns s (railDom s r) = true →
    (dom s (railDom s r)).begun = true → (rail s r).st = 1 → (rail s r).upK = some (dom s (railDom s r)).k →
    rdf s (regKey r 0x098) 0 16 ≠ 0 → a = (rail s r).since + rdf s (regKey r 0x098) 0 16 * msec →
    rdb s (regKey r 0x07C) 8 = false → (lane s (railLane s r)).st ≠ 3 → (rail s r).ovrN < 2 →
    ∃ t, exec (.sstmo r) s = .next t ∧ ((rail t r).st = 4 ∨ (rail t r).st = 5) ∧ a ≤ t.now ∧
      rdb t (rk .reg r 0x010) 7 = true) ∧
  (∀ (r : Fin 4) (s : State), live s .reg = true → domRuns s (railDom s r) = true →
    (dom s (railDom s r)).begun = true → (rail s r).st = 2 →
    ∃ t, exec (.cleanTime r) s = .next t ∧ (rail t r).retries = 0 ∧
      (rail s r).since + rdf s (regKey r 0x0D0) 20 12 * msec ≤ t.now) ∧
  (∀ (m : Master) (r : Fin 4) (v : Word) (s : State), reaches s m .reg 0x0E0 = true → finF v = true →
    rdf s (regKey r 0x040) 16 3 = 0 → (rail s r).st = 0 → ltF v (regF s r 0x084) = false → ltF (regF s r 0x088) v = false →
    ∃ t, exec (.vset m r v) s = .next t ∧ rd t (regKey r 0x0E0) = v ∧ (rail t r).target = v ∧ (rail t r).taken = true) ∧
  (∀ (r : Fin 4) (s : State), live s .reg = true → rdb s (regKey r 0x0DC) 16 = true →
    (rstream s (rdf s (regKey r 0x0DC) 0 10)).owner = 1 → (streamTake (rdf s (regKey r 0x0DC) 0 10) s).1.isSome = true →
    ∃ t, exec (.ringCommand r) s = .next t ∧ (rail t r).ringAt = s.now ∧ (rail t r).lost = false) ∧
  (∀ (r : Fin 4) (s : State) (bs : List Byte) (x : Byte) (y : Nat), live s .reg = true → rdb s (regKey r 0x0DC) 16 = true →
    (rstream s (rdf s (regKey r 0x0DC) 0 10)).owner = 1 →
    (streamTake (rdf s (regKey r 0x0DC) 0 10) s).1 = some (bs, x, y) → bs.length = 8 → rdf s (regKey r 0x040) 16 3 = 3 →
    leNat (bs.take 4) / 65536 % 4 = 0 →
    ∃ t, exec (.ringCommand r) s = .next t ∧ (rail t r).ringAt = s.now ∧ (rail t r).lost = false ∧
      (if (rail s r).st = 0 then (rail t r).taken = true ∧
          (rail t r).target = (limitCmd r (ratF (leNat (bs.take 4) % 65536) 1000) s).1
        else (rail t r).cmds = (rail s r).cmds ++
          [⟨s.now, (limitCmd r (ratF (leNat (bs.take 4) % 65536) 1000) s).1,
            if leNat (bs.drop 4) = 0 then none else some (ratF (leNat (bs.drop 4)) 1000)⟩])) ∧
  (∀ (r : Fin 4) (s : State) (bs : List Byte) (x : Byte) (y : Nat), live s .reg = true → rdb s (regKey r 0x0DC) 16 = true →
    (rstream s (rdf s (regKey r 0x0DC) 0 10)).owner = 1 →
    (streamTake (rdf s (regKey r 0x0DC) 0 10) s).1 = some (bs, x, y) → bs.length = 8 → rdf s (regKey r 0x040) 16 3 = 3 →
    leNat (bs.take 4) / 131072 % 2 = 1 → rdb s (regKey r 0x040) 21 = false →
    ∃ t, exec (.ringCommand r) s = .next t ∧ (rail t r).st = 0 ∧ (rail t r).retries = 0 ∧ (rail t r).taken = false) ∧
  (∀ (r : Fin 4) (s : State), live s .reg = true → rdb s (regKey r 0x0DC) 16 = true → (rail s r).lost = false →
    rdf s (regKey r 0x0DC) 20 12 ≠ 0 →
    ∃ t, exec (.cmdLost r) s = .next t ∧ (rail t r).lost = true ∧ rdb t (rk .reg r 0x010) 10 = true) ∧
  (∀ (m : Master) (s : State), reaches s m .reg 0x114 = true → s.monument.busy = none →
    ∃ t, exec (.capture m) s = .next t ∧ t.monument.busy.map (·.trigger) = some 0 ∧ t.monument.since = s.now) ∧
  (∀ (s : State) (x : MonSnap), s.monument.busy = some x →
    ∃ t, exec .monumentWritten s = .next t ∧ t.monument.busy = s.monument.pend ∧ t.monument.pend = none ∧
      rdb t (rk .reg 0 0x010) 14 = true)

/-- AVSBUS: a write frame to rails that answer is acknowledged and held or committed; a read frame answers the value of the
rail that answers; an unknown command is answered as invalid, and a frame with a bad CRC as such, with nothing
changed (R280). The places of the status word's bits, the effect of a status write and the answer to a bad CRC are the model's (log entry
29). -/
def Obligations.AvsBusCompletes : Prop :=
  (∀ (sel : Fin 16) (commit : Bool) (mv : BitVec 16) (r : Nat) (s : State), r ∈ avsRails s sel →
    ∃ t, exec (.avsVoltageWrite ⟨sel, false⟩ commit mv) s = .next t ∧ t.cmdPorts.avs = .ok 0 ∧
      (rail t r).held = (if commit then [] else (rail s r).held ++ [.volt mv.toNat])) ∧
  (∀ (sel : Fin 16) (r : Nat) (s : State), avsReader s sel = some r →
    ∃ t, exec (.avsVoltageRead ⟨sel, false⟩) s = .next t ∧ t.cmdPorts.avs = .ok (scaled 1000 (rail s r).target % 65536)) ∧
  (∀ (sel : Fin 16) (commit : Bool) (up dn : BitVec 8) (r : Nat) (s : State), r ∈ avsRails s sel →
    ∃ t, exec (.avsTransrateWrite ⟨sel, false⟩ commit up dn) s = .next t ∧ t.cmdPorts.avs = .ok 0 ∧
      (rail t r).held = (if commit then [] else (rail s r).held ++ [.rate up.toNat dn.toNat])) ∧
  (∀ (sel : Fin 16) (r : Nat) (s : State), avsReader s sel = some r →
    ∃ t, exec (.avsTransrateRead ⟨sel, false⟩) s = .next t ∧ t.cmdPorts.avs = .ok (scaled 1 (regF s r 0x08C) % 65536)) ∧
  (∀ (sel : Fin 16) (r : Nat) (s : State), avsReader s sel = some r →
    ∃ t, exec (.avsCurrentRead ⟨sel, false⟩) s = .next t ∧
      t.cmdPorts.avs = .ok ((wInt (fRoundAway (fMul (fInt 100 0) (f32 (rail s r).iout)))).toNat % 65536)) ∧
  (∀ (sel : Fin 16) (r : Nat) (s : State), avsReader s sel = some r →
    ∃ t, exec (.avsTemperatureRead ⟨sel, false⟩) s = .next t ∧
      t.cmdPorts.avs = .ok ((wInt (roundDiv (s.therm.max * 10) 16)).toNat % 65536)) ∧
  (∀ (sel : Fin 16) (commit : Bool) (r : Nat) (s : State), r ∈ avsRails s sel →
    ∃ t, exec (.avsResetVoltage ⟨sel, false⟩ commit) s = .next t ∧ t.cmdPorts.avs = .ok 0 ∧
      (rail t r).held = (if commit then [] else (rail s r).held ++ [.boot])) ∧
  (∀ (sel : Fin 16) (commit : Bool) (r : Nat) (s : State), r ∈ avsRails s sel →
    ∃ t, exec (.avsStatusWrite ⟨sel, false⟩ commit) s = .next t ∧ t.cmdPorts.avs = .ok 0 ∧
      (if commit then (rail t r).held = [] ∧ (rail t r).alert = false else
        (rail t r).held = (rail s r).held ++ [.status] ∧ (rail t r).alert = (rail s r).alert)) ∧
  (∀ (sel : Fin 16) (r : Nat) (s : State), avsReader s sel = some r →
    ∃ t, exec (.avsStatusRead ⟨sel, false⟩) s = .next t ∧ t.cmdPorts.avs = .ok ((if (rail s r).avsDone then 0x8000 else 0) +
      (if (rail s r).alert then 1 else 0) + (if (rail s r).pg then 2 else 0) + (if (rail s r).st = 5 then 4 else 0))) ∧
  (∀ (sel : Fin 16) (s : State), (avsRails s sel).isEmpty = false →
    ∃ t, exec (.avsInvalidCommand ⟨sel, false⟩) s = .next t ∧ t.cmdPorts.avs = .invalid) ∧
  (∀ (sel : Fin 16) (commit : Bool) (mv : BitVec 16) (s : State), (avsRails s sel).isEmpty = false →
    ∃ t, exec (.avsVoltageWrite ⟨sel, true⟩ commit mv) s = .next t ∧ t.cmdPorts.avs = .badCrc ∧ t.rails = s.rails ∧ t.regs = s.regs) ∧
  (∀ (sel : Fin 16) (commit : Bool) (up dn : BitVec 8) (s : State), (avsRails s sel).isEmpty = false →
    ∃ t, exec (.avsTransrateWrite ⟨sel, true⟩ commit up dn) s = .next t ∧ t.cmdPorts.avs = .badCrc ∧ t.rails = s.rails ∧
      t.regs = s.regs) ∧
  (∀ (sel : Fin 16) (commit : Bool) (s : State), (avsRails s sel).isEmpty = false →
    ∃ t, exec (.avsResetVoltage ⟨sel, true⟩ commit) s = .next t ∧ t.cmdPorts.avs = .badCrc ∧ t.rails = s.rails ∧ t.regs = s.regs) ∧
  (∀ (sel : Fin 16) (commit : Bool) (s : State), (avsRails s sel).isEmpty = false →
    ∃ t, exec (.avsStatusWrite ⟨sel, true⟩ commit) s = .next t ∧ t.cmdPorts.avs = .badCrc ∧ t.rails = s.rails ∧ t.regs = s.regs) ∧
  (∀ (sel : Fin 16) (r : Nat) (s : State), avsReader s sel = some r →
    ∃ t, exec (.avsVoltageRead ⟨sel, true⟩) s = .next t ∧ t.cmdPorts.avs = .badCrc)

/-- PMBUS: every command with the target's address and a right PEC is acknowledged and has its effect on the rail that PAGE
selects; another command is not acknowledged; the alert response answers the address and releases the alert (R281). The bits of STATUS_WORD, LINEAR16, LINEAR11 and the upper bits of OPERATION are the model's (log entry 29). -/
def Obligations.PmBusCompletes : Prop :=
  (∀ (addr : BitVec 7) (v : Byte) (s : State), pmbMine s addr = true → v.toNat ≤ 3 →
    ∃ t, exec (.page addr false v) s = .next t ∧ t.cmdPorts.ack = true ∧ t.cmdPorts.page = v.toNat) ∧
  (∀ (addr : BitVec 7) (v : Byte) (s : State), pmbMine s addr = true → v.toNat / 64 = 0 →
    rdf s (regKey s.cmdPorts.page 0x040) 16 3 = 2 → rdb s (regKey s.cmdPorts.page 0x040) 21 = false →
    ∃ t, exec (.operation addr false v) s = .next t ∧ t.cmdPorts.ack = true ∧ (rail t s.cmdPorts.page).st = 0) ∧
  (∀ (addr : BitVec 7) (s : State), pmbMine s addr = true →
    ∃ t, exec (.clearFaults addr false) s = .next t ∧ t.cmdPorts.ack = true ∧ t.cmdPorts.alert = false ∧
      rd t (rk .reg s.cmdPorts.page 0x010) = 0) ∧
  (∀ (addr : BitVec 7) (s : State), pmbMine s addr = true →
    ∃ t, exec (.voutMode addr) s = .next t ∧ t.cmdPorts.ack = true ∧
      t.cmdPorts.data = rdf s (regKey s.cmdPorts.page 0x108) 8 5) ∧
  (∀ (addr : BitVec 7) (v : BitVec 16) (s : State), pmbMine s addr = true → rdf s (regKey s.cmdPorts.page 0x040) 16 3 = 2 →
    ∃ t, exec (.voutCommand addr false v) s = .next t ∧ t.cmdPorts.ack = true ∧ (rail t s.cmdPorts.page).taken = true) ∧
  (∀ (addr : BitVec 7) (s : State), pmbMine s addr = true →
    ∃ t, exec (.statusWord addr) s = .next t ∧ t.cmdPorts.ack = true ∧
      t.cmdPorts.data.testBit 11 = !(rail s s.cmdPorts.page).pg ∧
      t.cmdPorts.data.testBit 7 = (rail s s.cmdPorts.page).vdone ∧
      t.cmdPorts.data.testBit 6 = !((rail s s.cmdPorts.page).st = 1 || (rail s s.cmdPorts.page).st = 2 ||
        (rail s s.cmdPorts.page).st = 3)) ∧
  (∀ (addr : BitVec 7) (s : State), pmbMine s addr = true →
    ∃ t, exec (.readVout addr) s = .next t ∧ t.cmdPorts.ack = true ∧
      t.cmdPorts.data = linear16 (pmbExp s s.cmdPorts.page) (rail s s.cmdPorts.page).vout) ∧
  (∀ (addr : BitVec 7) (s : State), pmbMine s addr = true →
    ∃ t, exec (.readIout addr) s = .next t ∧ t.cmdPorts.ack = true ∧
      t.cmdPorts.data = linear11 (rail s s.cmdPorts.page).iout) ∧
  (∀ (addr : BitVec 7) (s : State), pmbMine s addr = true →
    ∃ t, exec (.pmbusRevision addr) s = .next t ∧ t.cmdPorts.ack = true ∧ t.cmdPorts.data = 0x33) ∧
  (∀ (addr : BitVec 7) (code : Byte) (s : State),
    ∃ t, exec (.pmbusUnsupported addr code) s = .next t ∧ t.cmdPorts.ack = false ∧ t.cmdPorts.page = s.cmdPorts.page ∧
      t.regs = s.regs ∧ t.rails = s.rails) ∧
  (∀ (s : State), live s .reg = true → s.cmdPorts.alert = true →
    ∃ t, exec .alertResponse s = .next t ∧ t.cmdPorts.alert = false ∧ t.cmdPorts.ack = true ∧
      t.cmdPorts.data = 2 * rdf s (regKey 0 0x108) 0 7)

/-- METERING: a port is enabled, disabled and preset; it takes a sample, closes a cycle, loses its zero crossings, and gives
and ends a pulse; accumulators and cycle registers are read with their captures (R295, R299, R300, R307 to R309, R312, R314,
R316). -/
def Obligations.MeteringCompletes : Prop :=
  (∀ (m : Master) (p : Fin 4) (s : State), reaches s m .mtr 0x050 = true → (meter s p).st = 0 → mtrRules s p = true →
    ∃ t, exec (.mtrEnable m p) s = .next t ∧ (meter t p).st = 1 ∧ (meter t p).sampAt = s.now ∧
      (meter t p).accs = (meter s p).accs) ∧
  (∀ (m : Master) (p : Fin 4) (s : State), reaches s m .mtr 0x050 = true →
    ∃ t, exec (.mtrDisable m p) s = .next t ∧ (meter t p).st = 0) ∧
  (∀ (m : Master) (p : Fin 4) (s : State), reaches s m .mtr 0x050 = true → s.pw.lockout = false → 2 ≤ s.pw.level →
    stagingFull s = false → rdf s (mtrKey p 0x058) 0 3 ≠ 7 → (meter s p).st ≠ 0 →
    ∃ t, exec (.preset m p) s = .next t ∧ t.fb.seq = (s.fb.seq + 1) % 2 ^ 32 ∧
      (meter t p).preset = some (rdf s (mtrKey p 0x058) 0 3,
        (rd s (mtrKey p 0x05C)).toNat + 2 ^ 32 * rdf s (mtrKey p 0x060) 0 16)) ∧
  (∀ (p : Fin 4) (nv : List Int) (cross : Option (BitVec 16)) (s : State), live s .mtr = true → (meter s p).st ≠ 0 →
    ∃ t, exec (.meterSample p nv cross) s = .next t ∧ (meter t p).sampAt = (meter s p).sampAt + sampleLen ∧
      (meter s p).sampAt + sampleLen ≤ t.now) ∧
  (∀ (p : Fin 4) (s : State) (c : MtrCyc) (cs : List MtrCyc), live s .mtr = true → (meter s p).ended = c :: cs →
    ∃ t, exec (.cycleClose p) s = .next t ∧ (meter t p).ended = cs ∧
      (meter t p).latest.getD 0 0 = (meter s p).latest.getD 0 0 + 1 ∧ rdb t (rk .mtr p 0x010) 0 = true) ∧
  (∀ (p : Fin 4) (s : State), live s .mtr = true → ((meter s p).st = 1 ∨ (meter s p).st = 2) →
    ∃ t, exec (.nosync p) s = .next t ∧ (meter t p).st = 3 ∧ (meter t p).free = true ∧ rdb t (rk .mtr p 0x010) 8 = true) ∧
  (∀ (p : Fin 4) (s : State), live s .mtr = true → (meter s p).pend ≠ 0 → (meter s p).pulse = none →
    rdf s (mtrKey p 0x064) 4 3 ≠ 0 →
    ∃ t, exec (.pulseStart p) s = .next t ∧ (meter t p).pend = (meter s p).pend - 1 ∧ (meter t p).pulse = some t.now) ∧
  (∀ (p : Fin 4) (s : State) (a : Nat), (meter s p).pulse = some a →
    ∃ t, exec (.pulseEnd p) s = .next t ∧ (meter t p).pulse = none ∧
      (meter t p).pulseEnd = some (a + rdf s (mtrKey p 0x064) 8 8 * msec) ∧ a + rdf s (mtrKey p 0x064) 8 8 * msec ≤ t.now) ∧
  (∀ (m : Master) (p : Fin 4) (k : Fin 7) (s : State), pageUp s .mtr 0x100 = true →
    ∃ t, exec (.eLoRead m p k) s = .next t ∧ t.bus.rdata = wNat (smGet (smConst 0) (meter s p).accs k / 2 ^ 32) ∧
      t.bus.err = false ∧
      rd t (mtrKey p (0x104 + 8 * k)) = wNat (smGet (smConst 0) (meter s p).accs k / 2 ^ 32 / 2 ^ 32)) ∧
  (∀ (m : Master) (p : Fin 4) (s : State), pageUp s .mtr 0x080 = true →
    ∃ t, exec (.cycCntRead m p) s = .next t ∧ t.bus.rdata = (meter s p).latest.getD 0 0 ∧ t.bus.err = false ∧
      (List.range 26).map (fun i => rd t (mtrKey p (0x084 + 4 * i))) =
        (List.range 26).map (fun i => (meter s p).latest.getD (1 + i) 0))

/-- LINKS: sync is gained and lost, a link goes down and up, RFAULT begins and ends, a wrap ends, a station joins and leaves
its ring, its ford switches and its PROBE fails (R322, R323, R333, R335 to R339). -/
def Obligations.LinksComplete : Prop :=
  (∀ (r : Fin 2) (s : State), live s .ring = true → (link s r).sync = false →
    ∃ t, exec (.syncGained r) s = .next t ∧ (link t r).sync = true ∧
      (link t r).clean = (if (link s r).rfault.isNone then some s.now else none)) ∧
  (∀ (r : Fin 2) (errs : Nat) (s : State), live s .ring = true → (link s r).sync = true →
    ∃ t, exec (.syncLost r errs) s = .next t ∧ (link t r).sync = false ∧ (link t r).lostAt = s.now ∧ (link t r).rx = none ∧
      rdf t (ringKey r 0x050) 0 16 = held 65535 (rdf s (ringKey r 0x050) 0 16 + errs)) ∧
  (∀ (r : Fin 2) (s : State), live s .ring = true → (link s r).link ≠ 2 → (link s r).sync = false →
    ∃ t, exec (.linkDown r .sync) s = .next t ∧ (link t r).link = 2 ∧ (link t r).sendRf = true ∧
      rdb t (rk .ring r 0x010) 0 = true ∧ (link s r).lostAt + faultHold s r ≤ t.now) ∧
  (∀ (r : Fin 2) (s : State) (a : Nat), live s .ring = true → (link s r).link ≠ 2 → (link s r).rfault = some a →
    ∃ t, exec (.linkDown r .rfault) s = .next t ∧ (link t r).link = 2 ∧ a + faultHold s r ≤ t.now) ∧
  (∀ (r : Fin 2) (n : Nat) (s : State), live s .ring = true → (link s r).link ≠ 2 → rdf s (ringKey r 0x048) 8 8 ≠ 0 →
    rdf s (ringKey r 0x048) 8 8 ≤ n →
    ∃ t, exec (.linkDown r (.errors n)) s = .next t ∧ (link t r).link = 2) ∧
  (∀ (r : Fin 2) (s : State) (a : Nat), live s .ring = true → (link s r).clean = some a → (link s r).sync = true →
    (link s r).rfault = none →
    ∃ t, exec (.linkUp r) s = .next t ∧ (link t r).link = 1 ∧ (link t r).sendRf = false ∧
      a + rdf s (ringKey r 0x048) 16 16 * msec ≤ t.now) ∧
  (∀ (r : Fin 2) (s : State), live s .ring = true → (link s r).sync = true →
    ∃ t, exec (.rfaultReceived r true) s = .next t ∧ (link t r).rfault.isSome = true) ∧
  (∀ (r : Fin 2) (s : State), live s .ring = true → (link s r).sync = true →
    ∃ t, exec (.rfaultReceived r false) s = .next t ∧ (link t r).rfault = none) ∧
  (∀ (r : Fin 2) (s : State), live s .ring = true → (link s r).wrap = true → (link s r).unwrap = true →
    ∃ t, exec (.unwrap r) s = .next t ∧ (link t r).wrap = false ∧ (link t r).unwrap = false ∧
      rdb t (rk .ring r 0x010) 5 = true ∧ (link s 0).freeAt ≤ t.now ∧ (link s 1).freeAt ≤ t.now) ∧
  (∀ (m : Master) (r : Fin 2) (s : State), reaches s m .ring 0x044 = true → (link s r).sync = true → (link s r).wrap = true →
    ∃ t, exec (.unwrapNow m r) s = .next t ∧ (link t r).unwrap = true) ∧
  (∀ (m : Master) (r : Fin 2) (s : State), reaches s m .ring 0x044 = true → (link s r).joined = false →
    (link s r).probe = false → (link s r).probeEnd = none → joinRefused s r = false →
    ∃ t, exec (.join m r) s = .next t ∧
      (if (link s r).ford && (link s r).fordTo ≠ some true then (link t r).probe = true else (link t r).fordTo = some true)) ∧
  (∀ (m : Master) (r : Fin 2) (s : State), reaches s m .ring 0x044 = true →
    ∃ t, exec (.leave m r) s = .next t ∧ (link t r).probe = false ∧ (link t r).probeEnd = none ∧
      (link t r).fordTo = (if (link s r).ford then some false else none)) ∧
  (∀ (r : Fin 2) (o : Bool) (s : State), live s .ring = true → (link s r).fordTo = some o → (link s r).rx = none →
    ∃ t, exec (.fordSwitch r) s = .next t ∧ (link t r).ford = o ∧ (link t r).fordTo = none ∧ (link t r).probe = o ∧
      (link s r).freeAt ≤ t.now) ∧
  (∀ (r : Fin 2) (s : State) (a : Nat), live s .ring = true → (link s r).probeEnd = some a →
    ∃ t, exec (.probeFail r) s = .next t ∧ (link t r).probeEnd = none ∧ rdb t (ringKey r 0x04C) 8 = true ∧
      rdb t (rk .ring r 0x010) 3 = true ∧ a ≤ t.now)

/-- CELLS AND MODULES: a header with a right check is taken in and one with a wrong check is counted; a cell ends; a PROBE and
a stream's cell are sent; ring memory is written and read; an SFP module is tested, polled, scanned again and read (R325,
R327, R329 to R332, R337, R343, R350, R351). -/
def Obligations.CellsAndModulesComplete : Prop :=
  (∀ (r : Fin 2) (hdr : List Byte) (s : State), live s .ring = true → (link s r).ford = true → (link s r).sync = true →
    (link s r).rx = none → hdr.length = 12 → hcrcOk hdr = true →
    ∃ t, exec (.cellHeader r hdr) s = .next t ∧ (link t r).rx.map (·.hdr) = some hdr) ∧
  (∀ (r : Fin 2) (hdr : List Byte) (s : State), live s .ring = true → (link s r).ford = true → (link s r).sync = true →
    (link s r).rx = none → hdr.length = 12 → hcrcOk hdr = false →
    ∃ t, exec (.cellHeader r hdr) s = .next t ∧ (link t r).rx = none ∧
      rdf t (ringKey r 0x050) 16 16 = held 65535 (rdf s (ringKey r 0x050) 16 16 + 1)) ∧
  (∀ (r : Fin 2) (body : List Byte) (errs : Nat) (bad : Bool) (s : State), live s .ring = true →
    (link s r).sync = true → (link s r).rx.isSome = true →
    ∃ t, exec (.cellEnd r body errs bad) s = .next t ∧ (link t r).rx = none ∧
      (0 < errs → rdf t (ringKey r 0x050) 0 16 = held 65535 (rdf s (ringKey r 0x050) 0 16 + errs))) ∧
  (∀ (r : Fin 2) (s : State), live s .ring = true → (link s r).ford = true → (link s r).probe = true →
    ∃ t, exec (.cellSend r) s = .next t ∧ (link t r).probe = false ∧ (link t r).probeEnd.isSome = true) ∧
  (∀ (r : Fin 2) (s : State) (n : Nat), live s .ring = true → (link s r).ford = true → (link s r).probe = false →
    (link s r).ctl = [] → (link s (physTx s r)).freeAt ≤ s.now → topStream s r (readyStreams s r s.now) = some n →
    readyCell s n r s.now = some (rstream s n).unack.length →
    ∃ t, exec (.cellSend r) s = .next t ∧ (rstream t n).next = ((rstream s n).next + 1) % 65536) ∧
  (∀ (m : Master) (v : Word) (s : State), reaches s m .ring 0x0D4 = true →
    ∃ t, exec (.rmemDataAccess m (some v)) s = .next t ∧ memWord t (ringBase + 4 * rdf s (ringKey 0 0x0D0) 0 16) = v ∧
      rdf t (ringKey 0 0x0D0) 0 16 = (rdf s (ringKey 0 0x0D0) 0 16 + 1) % 65536) ∧
  (∀ (m : Master) (s : State), pageUp s .ring 0x0D4 = true →
    ∃ t, exec (.rmemDataAccess m none) s = .next t ∧
      t.bus.rdata = memWord s (ringBase + 4 * rdf s (ringKey 0 0x0D0) 0 16) ∧ t.bus.err = false ∧
      rdf t (ringKey 0 0x0D0) 0 16 = (rdf s (ringKey 0 0x0D0) 0 16 + 1) % 65536) ∧
  (∀ (r : Fin 2) (bs : List Byte) (s : State), live s .ring = true →
    ∃ t, exec (.sfpPresencePoll r (.data bs)) s = .next t ∧ rdb t (ringKey r 0x074) 0 = true ∧
      (link t r).sfpAt = nextDue (link s r).sfpAt (100 * msec) t.now ∧ (link s r).sfpAt ≤ t.now) ∧
  (∀ (r : Fin 2) (bs : List Byte) (s : State), live s .ring = true → rdf s (ringKey r 0x070) 0 16 ≠ 0 →
    2 ≤ bs.length →
    ∃ t, exec (.sfpDdmPoll r (.data bs)) s = .next t ∧
      rdf t (ringKey r 0x080) 0 16 = (bs.getD 0 0#8).toNat * 256 + (bs.getD 1 0#8).toNat ∧
      (link t r).ddmAt = nextDue (link s r).ddmAt (rdf s (ringKey r 0x070) 0 16 * msec) t.now ∧ (link s r).ddmAt ≤ t.now) ∧
  (∀ (m : Master) (r : Fin 2) (bs : List Byte) (s : State), reaches s m .ring 0x070 = true →
    ∃ t, exec (.rescan m r (.data bs)) s = .next t ∧ rdb t (ringKey r 0x074) 0 = true) ∧
  (∀ (m : Master) (r : Fin 2) (s : State), pageUp s .ring 0x07C = true →
    ∃ t, exec (.sfpDataRead m r) s = .next t ∧ t.bus.rdata = wNat (sfpByte s r (rdf s (ringKey r 0x078) 0 9)) ∧
      t.bus.err = false ∧ rdf t (ringKey r 0x078) 0 9 = (rdf s (ringKey r 0x078) 0 9 + 1) % 512)

/-- STREAMS: a stream opens, closes and reopens; its pointers move; an ACK, a gap, a full buffer, a retransmission and an
OPEN cell fall due (R341, R344, R345, R351). -/
def Obligations.StreamsComplete : Prop :=
  (∀ (m : Master) (s : State), reaches s m .ring 0x0C0 = true → (rstream s (selStream s)).st = 0 →
    openRefused (rstream s (selStream s)) = false →
    ∃ t, exec (.strOpen m) s = .next t ∧ (rstream t (selStream s)).st = 1) ∧
  (∀ (m : Master) (s : State), reaches s m .ring 0x0C0 = true →
    ∃ t, exec (.strClose m) s = .next t ∧ (rstream t (selStream s)).st = 0 ∧
      (rstream t (selStream s)).cfg = (rstream s (selStream s)).cfg) ∧
  (∀ (m : Master) (s : State), reaches s m .ring 0x0C0 = true → (rstream s (selStream s)).st ≠ 0 →
    ∃ t, exec (.strReopen m) s = .next t ∧ (rstream t (selStream s)).st = 1 ∧ (rstream t (selStream s)).unack = []) ∧
  (∀ (m : Master) (v : BitVec 8) (s : State), reaches s m .ring 0x0BC = true → (rstream s (selStream s)).dir = 1 →
    v.toNat < (rstream s (selStream s)).size →
    ∃ t, exec (.put m v) s = .next t ∧ (rstream t (selStream s)).put = v.toNat) ∧
  (∀ (m : Master) (v : BitVec 8) (s : State), reaches s m .ring 0x0BC = true → (rstream s (selStream s)).dir = 2 →
    v.toNat < (rstream s (selStream s)).size →
    ∃ t, exec (.get m v) s = .next t ∧ (rstream t (selStream s)).get = v.toNat) ∧
  (∀ (n : Fin 1024) (s : State) (a : Nat), live s .ring = true → (rstream s n).ackAt = some a →
    ∃ t, exec (.ackTimer n) s = .next t ∧ (rstream t n).ackAt = none ∧ (rstream t n).fresh = 0 ∧ a ≤ t.now) ∧
  (∀ (n : Fin 1024) (s : State) (a : Nat), live s .ring = true → (rstream s n).gap = some a →
    ((rstream s n).st = 1 ∨ (rstream s n).st = 2) → bit (rstream s n).cfg 15 = false → gatewayPeer s n = none →
    ∃ t, exec (.gapTmo n) s = .next t ∧ (rstream t n).st = 3 ∧ (rstream t n).cause = 2 ∧ a + (rstream s n).rto ≤ t.now) ∧
  (∀ (n : Fin 1024) (s : State) (a : Nat), live s .ring = true → (rstream s n).fullAt = some a →
    ((rstream s n).st = 1 ∨ (rstream s n).st = 2) → bit (rstream s n).cfg 15 = false → gatewayPeer s n = none →
    ∃ t, exec (.bufFullTimeout n) s = .next t ∧ (rstream t n).st = 3 ∧ (rstream t n).cause = 3 ∧
      a + (rstream s n).rto ≤ t.now) ∧
  (∀ (n : Fin 1024) (s : State) (u : Unacked) (us : List Unacked), live s .ring = true → (rstream s n).unack = u :: us →
    (rstream s n).st = 2 → (rstream s n).retries = true → u.again = [] →
    (((u :: us).filter fun u => u.again.isEmpty).all fun u => decide (u.retx < fld (rstream s n).retry 8 4)) = true →
    ∃ t, exec (.retransmit n) s = .next t ∧ (rstream t n).unack.head?.map (·.retx) = some (u.retx + 1) ∧
      (rstream t n).unack.map (·.seq) = (u :: us).map (·.seq) ∧ u.when' + (rstream s n).rto ≤ t.now) ∧
  (∀ (n : Fin 1024) (s : State), live s .ring = true → (rstream s n).dir = 1 → (rstream s n).st = 1 →
    ∃ t, exec (.openResend n) s = .next t ∧ (rstream t n).openAt = t.now ∧ (rstream s n).openAt + (rstream s n).rto ≤ t.now)

/-- DATUM: Datum is enabled; an interval ends; a foresight and a backsight are taken; an election ends; a change of the cycle
length, a step of time and a new acquisition are commanded; the time is read (R353, R355 to R358, R361, R362, R367, R378). -/
def Obligations.DatumCompletes : Prop :=
  (∀ (m : Master) (v : Word) (s : State), reaches s m .datum 0x040 = true → levelOk s (datKey 0x040) = true →
    stagingFull s = false → rdb s (datKey 0x040) 0 = false → bit v 0 = true → s.datum.st = .off →
    ∃ t, exec (.datumEnable m v) s = .next t ∧ t.datum.st = .acquire ∧ t.datum.base = 0 ∧ t.datum.since = s.now) ∧
  (∀ (s : State), live s .ring = true → s.datum.st ≠ .off →
    ∃ t, exec .exchangeInterval s = .next t ∧ t.datum.nextEx = nextDue s.datum.nextEx (exchInt s) t.now ∧
      t.datum.recSyn = !s.datum.recSyn ∧ s.datum.nextEx ≤ t.now) ∧
  (∀ (r : Fin 2) (s : State) (d : DatumIn), (takeInbox r 1 s).1 = some d → d.bad = false → s.datum.st ≠ .off →
    ∃ t, exec (.foresightReceived r) s = .next t ∧ (side t r).fs = some (parseForesight d.bytes) ∧
      (side t r).fsAt = d.when' ∧ t.rings.inbox = (takeInbox r 1 s).2.rings.inbox) ∧
  (∀ (r : Fin 2) (s : State) (d : DatumIn) (e : Nat × Nat × Nat × Nat), (takeInbox r 2 s).1 = some d → d.bad = false →
    s.datum.st ≠ .off → ((side s r).sent.find? fun e => e.1 = beAt d.bytes 6 2) = some e → d.soc ≤ e.2.2.1 + 4 * msec →
    e.2.2.2 = d.breaks →
    0 < stampSpan e.2.1 d.stamp - stampSpan (stampField d.bytes 28) (stampField d.bytes 8) → (side s r).acc < 8 →
    ∃ t, exec (.backsightReceived r) s = .next t ∧ (side t r).answered = true ∧ (side t r).acc = (side s r).acc + 1 ∧
      rdf t (datKey 0x0B4) 0 16 = (rdf s (datKey 0x0B4) 0 16 + 1) % 65536) ∧
  (∀ (s : State), live s .ring = true → s.datum.st ≠ .off → s.datum.st ≠ .benchmark → nodeRank s ≠ 0 →
    ∃ t, exec .electionTimeout s = .next t ∧ t.datum.st = .benchmark ∧ t.datum.hops = 0 ∧ t.datum.source = 0 ∧
      s.datum.bmAt + max 1 (rdf s (datKey 0x040) 16 16) * msec ≤ t.now) ∧
  (∀ (m : Master) (s : State) (c : CycRec) (d : Nat), reaches s m .datum 0x07C = true → s.datum.st = .benchmark → s.datum.cyc = some c →
    c.nextLen = 0 → 160000 ≤ (rd s (datKey 0x068)).toNat → (rd s (datKey 0x068)).toNat ≤ 16000000 →
    untilCycle s (rd s (datKey 0x06C)).toNat = some d → 1600000000 ≤ d →
    ∃ t, exec (.cycChg m) s = .next t ∧
      t.datum.cyc = some { c with nextLen := (rd s (datKey 0x068)).toNat, nextAt := (rd s (datKey 0x06C)).toNat }) ∧
  (∀ (m : Master) (s : State), reaches s m .datum 0x07C = true → s.datum.st = .benchmark →
    datumNow s ≤ (rd s (datKey 0x074)).toNat + (rd s (datKey 0x078)).toNat * 2 ^ 32 →
    ∃ t, exec (.setTime m) s = .next t ∧ t.datum.since = s.now ∧
      t.datum.base = ((rd s (datKey 0x074)).toNat + (rd s (datKey 0x078)).toNat * 2 ^ 32) * 65536 ∧
      rdb t (datKey 0x010) 2 = true) ∧
  (∀ (m : Master) (s : State), reaches s m .datum 0x07C = true → s.datum.st = .track →
    ∃ t, exec (.resync m) s = .next t ∧ t.datum.st = .acquire ∧ t.datum.good = 0) ∧
  (∀ (m : Master) (s : State), pageUp s .datum 0x084 = true →
    ∃ t, exec (.timeLoRead m) s = .next t ∧ t.bus.rdata = wNat (datumNow s) ∧ t.bus.err = false ∧
      rd t (datKey 0x088) = wNat (datumNow s / 2 ^ 32))

/-- SAFE POWER-OFF AND PLUMB'S TESTS: SPO is requested and released; a clock or a freeze demands it; an internal fault and the
self-tests act; a write handed to Plumb takes effect (R381, R382, R384, R385, R387, R410). -/
def Obligations.SafePowerOffCompletes : Prop :=
  (∀ (m : Master) (s : State), reaches s m .plumb 0x04C = true → heldBehind s m false = false →
    ∃ t, exec (.spoRequest m) s = .next t ∧ t.plumb.spo = true ∧ bit t.plumb.seen 6 = true ∧ bit t.plumb.active 6 = false) ∧
  (∀ (m : Master) (s : State), reaches s m .plumb 0x04C = true → heldBehind s m false = false → s.plumb.active = 0 →
    stagingFull s = false →
    s.plumb.spo = true →
    ∃ t, exec (.spoRelease m) s = .next t ∧ t.plumb.spo = false ∧ t.plumb.seen = 0 ∧ t.holds.spo = some s.now ∧
      t.fb.seq = (s.fb.seq + 1) % 2 ^ 32) ∧
  (∀ (pwm fab adc ring : Nat) (s : State), s.plumb.selftest = true →
    ∃ t, exec (.clockCheck pwm fab adc ring) s = .next t ∧
      bit t.plumb.active 7 = !(edgesOk pwm 3125 1 && edgesOk fab 6250 1 && edgesOk adc 2500 1 && edgesOk ring 3125 2)) ∧
  (∀ (s : State) (a : Nat), s.plumb.frozen = some a → s.holds.frozen = true →
    ∃ t, exec .freeze s = .next t ∧ bit t.plumb.active 8 = true ∧
      a + max 10 (rdf s (plKey 0x050) 0 16) * usec ≤ t.now) ∧
  (∀ (s : State),
    ∃ t, exec .lockstepMismatch s = .next t ∧ t.plumb.spo = true ∧ t.plumb.selftest = false ∧ t.plumb.faultRec = true ∧
      t.pw.level = 0 ∧ bit t.plumb.active 0 = true) ∧
  (∀ (s : State),
    ∃ t, exec .plumbOscillatorFailure s = .next t ∧ t.plumb.spo = true ∧ t.plumb.selftest = false ∧
      t.plumb.faultRec = true ∧ t.pw.level = 0 ∧ bit t.plumb.active 0 = true) ∧
  (∀ (s : State), s.plumb.selftest = true →
    ∃ t, exec (.periodicSelftest true) s = .next t ∧ t.plumb.selftest = true ∧
      t.plumb.nextSelf = nextDue s.plumb.nextSelf (3600 * secs) t.now ∧ s.plumb.nextSelf ≤ t.now ∧ t.plumb.spo = s.plumb.spo) ∧
  (∀ (s : State), s.plumb.selftest = true →
    ∃ t, exec (.periodicSelftest false) s = .next t ∧ t.plumb.selftest = false ∧ t.plumb.spo = true) ∧
  (∀ (s : State), s.plumb.selftest = false → s.pwr.reset ≠ some .powerOn →
    ∃ t, exec (.selftestDone true) s = .next t ∧ t.plumb.selftest = true ∧ t.plumb.nextSelf = s.now + 3600 * secs ∧
      t.plumb.nextEval = s.now + msec) ∧
  (∀ (s : State) (m : Master) (off : Nat) (v : Word) (q : Option Nat) (rest : List Handed),
    s.plumb.handed = ⟨m, plKey off, v, true, true, q⟩ :: rest → rest.all (·.guarded) = true →
    0x040 ≤ off → off < 0x1000 → off ≠ 0x088 →
    ∃ t, exec .plumbWriteApplied s = .next t ∧ t.plumb.handed = rest ∧
      rd t (plKey off) = plainValue (plKey off) (rd s (plKey off)) v)

/-- SAFETY INPUTS, SCANS AND SADDLE MODE: an input changes and shows a discrepancy; a scan stores a code and judges its
converter; Saddle mode is entered, left and reset, is evaluated and times out (R388 to R390, R402). -/
def Obligations.InputsAndSaddleComplete : Prop :=
  (∀ (i : Fin 4) (chB on : Bool) (s : State),
    ∃ t, exec (.safeInChange i chB on) s = .next t ∧ (if chB then (safeIn t i).b else (safeIn t i).a) = on ∧
      (if chB then (safeIn t i).a = (safeIn s i).a else (safeIn t i).b = (safeIn s i).b)) ∧
  (∀ (i : Fin 4) (s : State) (a : Nat), (safeIn s i).disagree = some a → (safeIn s i).disc = false → sinMode s i = 1 →
    ∃ t, exec (.discrepancy i) s = .next t ∧ (safeIn t i).disc = true ∧ rdb t (plKey 0x010) 3 = true ∧
      a + max 1 (rdf s (plKey 0x064) 0 16) * msec ≤ t.now) ∧
  (∀ (c : Fin 2) (i : Fin 8) (code : Int) (s : State), (scanConv s c).faulty = false → inMask s c i = true →
    ∃ t, exec (.scan c (some i) code) s = .next t ∧
      (if c.val = 0 then (scanCh t i).code0 else (scanCh t i).code1) = code ∧
      rdf t (plKey (0x0C0 + 4 * i)) (16 * c) 16 = (code % 65536).toNat) ∧
  (∀ (c : Fin 2) (mv : Int) (s : State), (scanConv s c).faulty = false →
    ∃ t, exec (.scan c none mv) s = .next t ∧ (scanConv t c).faulty = decide (8 < (mv - 1000).natAbs)) ∧
  (∀ (m : Master) (s : State), reaches s m .plumb 0x0FC = true → heldBehind s m false = false → stagingFull s = false →
    ∃ t, exec (.enter m) s = .next t ∧ bit t.plumb.causes 0 = true) ∧
  (∀ (m : Master) (s : State), reaches s m .plumb 0x0FC = true → heldBehind s m false = false → stagingFull s = false →
    ∃ t, exec (.exit m) s = .next t ∧ bit t.plumb.causes 0 = false ∧ t.plumb.exitReq = true) ∧
  (∀ (m : Master) (s : State), reaches s m .plumb 0x0FC = true → heldBehind s m false = false → stagingFull s = false →
    s.plumb.saddle = .expired →
    saddleActive s = false → s.pw.level ≠ 0 → s.plumb.spo = true →
    ∃ t, exec (.saddleReset m) s = .next t ∧ t.plumb.saddle = .normal ∧ t.fb.seq = (s.fb.seq + 1) % 2 ^ 32) ∧
  (∀ (s : State), s.plumb.selftest = true →
    ∃ t, exec .saddleEvaluation s = .next t ∧ t.plumb.nextEval = nextDue s.plumb.nextEval msec t.now ∧ s.plumb.nextEval ≤ t.now) ∧
  (∀ (s : State), inSaddle s = true →
    ∃ t, exec .saddleTimeout s = .next t ∧ t.plumb.saddle = .expired ∧ s.plumb.sadAt + saddleMax s ≤ t.now) ∧
  (∀ (s : State), s.plumb.saddle = .clearing → saddleActive s = false →
    max s.now (s.plumb.cleanAt + saddleClean s) < s.plumb.sadAt + saddleMax s →
    (rdb s (plKey 0x0F0) 8 = true ∨ s.plumb.exitReq = true) →
    ∃ t, exec .cleanTimeout s = .next t ∧ t.plumb.saddle = .normal ∧ s.plumb.cleanAt + saddleClean s ≤ t.now)

/-- CONTACTOR OUTPUTS: an output is closed where nothing holds it off, opened, cleared of its fault and tested; its close
times out; its readback changes; its test falls due, ends and is judged (R391 to R396). -/
def Obligations.ContactorsComplete : Prop :=
  (∀ (m : Master) (n : Fin 4) (s : State), reaches s m .plumb 0x084 = true → heldBehind s m false = false → (sout s n).st = .open →
    rdb s (plKey (0x070 + 4 * n)) 0 = true → s.plumb.spo = false → soutActed s n = false → soutHeldOpen s n = false →
    s.plumb.saddle ≠ .expired →
    ∃ t, exec (.soutClose m n) s = .next t ∧ (sout t n).energised = true ∧
      ((sout t n).st = .closing ∨ (sout t n).st = .closed)) ∧
  (∀ (m : Master) (n : Fin 4) (s : State), reaches s m .plumb 0x084 = true → heldBehind s m false = false →
    ((sout s n).st = .closing ∨ (sout s n).st = .closed) →
    ∃ t, exec (.soutOpen m n) s = .next t ∧ (sout t n).st = .open ∧ (sout t n).energised = false) ∧
  (∀ (m : Master) (n : Fin 4) (s : State), reaches s m .plumb 0x084 = true → heldBehind s m false = false → (sout s n).st = .fault →
    (sout s n).readback = false → mirrorClosed s n = false →
    ∃ t, exec (.soutClr m n) s = .next t ∧ (sout t n).st = .open ∧ (sout t n).testFault = false) ∧
  (∀ (m : Master) (n : Fin 4) (s : State), reaches s m .plumb 0x084 = true → heldBehind s m false = false → (sout s n).st = .closed →
    testLen s n ≠ 0 →
    (sout s n).pulseEnd = none → (sout s n).recovEnd = none →
    ∃ t, exec (.testNow m n) s = .next t ∧ (sout t n).energised = false ∧
      (sout t n).pulseEnd = some (s.now + testLen s n)) ∧
  (∀ (n : Fin 4) (s : State), (sout s n).st = .closing →
    ∃ t, exec (.closeTimeout n) s = .next t ∧ (sout t n).st = .fault ∧ (sout t n).energised = false ∧
      (sout s n).closeBy ≤ t.now) ∧
  (∀ (n : Fin 4) (rb : Bool) (s : State),
    ∃ t, exec (.soutFeedbackChange n rb) s = .next t ∧ (sout t n).readback = rb ∧
      (rb = true → (sout s n).energised = false → (sout s n).pulseEnd = none → (sout t n).st = .fault)) ∧
  (∀ (n : Fin 4) (s : State) (a : Nat), (sout s n).testAt = some a → (sout s n).st = .closed → testLen s n ≠ 0 →
    (sout s n).pulseEnd = none → (sout s n).recovEnd = none →
    ∃ t, exec (.testDue n) s = .next t ∧ (sout t n).energised = false ∧ (sout t n).pulseEnd = some (t.now + testLen s n) ∧
      a ≤ t.now) ∧
  (∀ (n : Fin 4) (s : State) (a : Nat), (sout s n).pulseEnd = some a →
    ∃ t, exec (.testPulseEnd n) s = .next t ∧ (sout t n).energised = true ∧ (sout t n).pulseEnd = none ∧
      (sout t n).recovEnd = some (t.now + testLen s n) ∧ a ≤ t.now) ∧
  (∀ (n : Fin 4) (s : State) (a : Nat), (sout s n).recovEnd = some a →
    ∃ t, exec (.testRecoveryEnd n) s = .next t ∧ (sout t n).recovEnd = none ∧ a ≤ t.now ∧
      (((sout s n).pulseOk && (sout s n).readback) = false → rdb t (plKey 0x010) 5 = true))

/-- THE PLUMB CHANNEL: a connection starts and stops; a producer forms its next message; a consumer takes a good message;
its watchdog expires (R398, R399, R401, R415). -/
def Obligations.PlumbChannelCompletes : Prop :=
  (∀ (m : Master) (c : Fin 8) (s : State), reaches s m .pch 0x110 = true → heldBehind s m true = false → (conn s c).st ≠ 1 →
    (conn s c).st ≠ 2 →
    (if isProducer s c then rdf s (connKey c 0x0C) 0 16 else rdf s (connKey c 8) 0 16) ≠ 0 →
    ∃ t, exec (.connStart m c) s = .next t ∧ (conn t c).st = (if isProducer s c then 2 else 1) ∧ (conn t c).cause = 0) ∧
  (∀ (m : Master) (c : Fin 8) (s : State), reaches s m .pch 0x110 = true → heldBehind s m true = false →
    ((conn s c).st = 1 ∨ (conn s c).st = 2) →
    ∃ t, exec (.connStop m c) s = .next t ∧ (conn t c).st = 0 ∧ (conn t c).safe = 31) ∧
  (∀ (c : Fin 8) (s : State), live s .ring = true → isProducer s c = true → (conn s c).st = 2 →
    ∃ t, exec (.produceMessage c) s = .next t ∧ (conn t c).seq = (conn s c).seq + 1 ∧ (conn t c).sent = safetyWord s c ∧
      ((conn s c).sent = safetyWord s c → (conn s c).dueAt ≤ t.now)) ∧
  (∀ (c : Fin 8) (s : State) (x : List Byte × Byte × Nat), live s .ring = true → isProducer s c = false →
    connStreamOk s c = true → (streamTake (connStream s c) s).1 = some x → (conn s c).st = 2 →
    plumbCrc ((padTo 48 x.1).take 44) = wNat (beAt (padTo 48 x.1) 44 4) →
    beAt (padTo 48 x.1) 0 4 = (rd s (connKey c 4)).toNat → cellByte (padTo 48 x.1) 16 = 1 →
    wNat (beAt (padTo 48 x.1) 4 4) = (conn s c).seq → timeOk s c (padTo 48 x.1) = true →
    ∃ t, exec (.consumeMessage c) s = .next t ∧ (conn t c).st = 2 ∧ (conn t c).seq = (conn s c).seq + 1 ∧
      (conn t c).safe = beAt (padTo 48 x.1) 20 4 % 32 ∧ (conn t c).acting = false) ∧
  (∀ (c : Fin 8) (s : State), (conn s c).st = 2 → isProducer s c = false →
    ∃ t, exec (.connectionWatchdog c) s = .next t ∧ (conn t c).st = 3 ∧ (conn t c).cause = 3 ∧ (conn s c).wdEnd ≤ t.now)

/-- PASSWORDS AND THE FIELD BOOK: a right password unlocks its level; a new device unlocks the maker level without one; the
level is relocked, by command or by the session time; passwords are set; a lockout ends; an entry is drained and read
(R406 to R409, R411). -/
def Obligations.PasswordsComplete : Prop :=
  (∀ (m : Master) (len : BitVec 6) (h : List Word) (s : State), reaches s m .plumb 0x114 = true → heldBehind s m false = false →
    stagingFull s = false →
    s.pw.lockout = false → 8 ≤ len.toNat → len.toNat ≤ 32 → s.pw.siteHash = some h → pwHash s len.toNat = h →
    ∃ t, exec (.unlockSite m len) s = .next t ∧ t.pw.level = 1 ∧ t.pw.fails = 0 ∧ t.pw.data = [] ∧ t.pw.session = s.now) ∧
  (∀ (m : Master) (len : BitVec 6) (h : List Word) (s : State), reaches s m .plumb 0x114 = true → heldBehind s m false = false →
    stagingFull s = false →
    s.pw.lockout = false → 8 ≤ len.toNat → len.toNat ≤ 32 → s.pw.makerHash = some h → pwHash s len.toNat = h →
    ∃ t, exec (.unlockMaker m len) s = .next t ∧ t.pw.level = 2 ∧ t.pw.fails = 0 ∧ t.pw.data = []) ∧
  (∀ (m : Master) (s : State), reaches s m .plumb 0x114 = true → heldBehind s m false = false → stagingFull s = false →
    s.pw.lockout = false →
    s.pw.makerHash = none →
    ∃ t, exec (.unlockMaker m 0#6) s = .next t ∧ t.pw.level = 2 ∧ t.pw.fails = 0) ∧
  (∀ (m : Master) (s : State), reaches s m .plumb 0x114 = true → heldBehind s m false = false →
    ∃ t, exec (.relock m) s = .next t ∧ t.pw.level = 0 ∧ t.pw.data = []) ∧
  (∀ (m : Master) (len : BitVec 6) (s : State), reaches s m .plumb 0x114 = true → heldBehind s m false = false → stagingFull s = false →
    s.pw.lockout = false → 8 ≤ len.toNat → len.toNat ≤ 32 → s.pw.level ≠ 0 →
    ∃ t, exec (.setSite m len) s = .next t ∧ t.pw.siteHash = some (pwHash s len.toNat) ∧ t.pw.level = s.pw.level) ∧
  (∀ (m : Master) (len : BitVec 6) (s : State), reaches s m .plumb 0x114 = true → heldBehind s m false = false → stagingFull s = false →
    s.pw.lockout = false → 8 ≤ len.toNat → len.toNat ≤ 32 → s.pw.level = 2 →
    ∃ t, exec (.setMaker m len) s = .next t ∧ t.pw.makerHash = some (pwHash s len.toNat)) ∧
  (∀ (m : Master) (v : Word) (s : State), reaches s m .plumb 0x110 = true → heldBehind s m false = false → s.pw.data.length < 8 →
    ∃ t, exec (.pwDataWrite m v) s = .next t ∧ t.pw.data = s.pw.data ++ [v]) ∧
  (∀ (s : State), rdf s (plKey 0x11C) 0 16 ≠ 0 → s.pw.level ≠ 0 →
    ∃ t, exec .sessionTimeout s = .next t ∧ t.pw.level = 0 ∧ s.pw.session + rdf s (plKey 0x11C) 0 16 * secs ≤ t.now) ∧
  (∀ (s : State), s.pw.lockout = true →
    ∃ t, exec .lockoutEnd s = .next t ∧ t.pw.lockout = false ∧ s.pw.lockEnd ≤ t.now) ∧
  (∀ (s : State) (e : FbEnt) (es : List FbEnt), s.fb.staging = e :: es → domOn s .nvm = true → s.fb.waiting = [] →
    ∃ t, exec (.fbDrain true) s = .next t ∧ t.fb.staging = es ∧ t.fb.pos = (s.fb.pos + 1) % 8192 ∧
      memBytes t (fbAddr s.fb.pos) 32 = wordBytes (fbWords e)) ∧
  (∀ (m : Master) (s : State), pageUp s .plumb 0x128 = true →
    ∃ t, exec (.fbDataRead m) s = .next t ∧ t.bus.err = false ∧
      t.bus.rdata = memWord s (fbAddr (rdf s (plKey 0x124) 0 13) + 4 * s.fb.rword) ∧
      t.fb.rword = (if s.fb.rword = 7 then 0 else s.fb.rword + 1))

/-- REDUNDANT PAIR, commands and heartbeats: a write of CFG turns the function on or off, a write of CTL gives GO, GIVE, KEEP
and CLR, heartbeats go out and come in, and a path is lost (R422 to R425, R431, R433). The places of a
frame's header bytes are the model's (log entry 43), and heartbeats are taken whatever EN holds. -/
def Obligations.PairCommandsComplete : Prop :=
  (∀ (m : Master) (v : Word) (s : State), reaches s m .pair 0x040 = true → s.pw.lockout = false → 2 ≤ s.pw.level →
    stagingFull s = false → s.pair.st = 0 → bit v 0 = true → pairEnOk s v = true →
    ∃ t, exec (.pairEnable m v) s = .next t ∧ t.pair.st = 1 ∧ pairOn t = true ∧ t.pair.peer = none ∧
      t.fb.seq = (s.fb.seq + 1) % 2 ^ 32) ∧
  (∀ (m : Master) (v : Word) (s : State), reaches s m .pair 0x040 = true → s.pw.lockout = false → 2 ≤ s.pw.level →
    stagingFull s = false → s.pair.st ≠ 0 → bit v 0 = false →
    ∃ t, exec (.pairEnable m v) s = .next t ∧ t.pair.st = 0 ∧ pairOn t = false ∧ t.pair.own = false) ∧
  (∀ (m : Master) (s : State), reaches s m .pair 0x090 = true → pairOn s = true →
    ∃ t, exec (.go m) s = .next t ∧ t.pair.go = true ∧ t.pair.st = s.pair.st) ∧
  (∀ (m : Master) (s : State), reaches s m .pair 0x090 = true → pairOn s = true →
    ∃ t, exec (.give m) s = .next t ∧ t.pair.give = true ∧ t.pair.st = s.pair.st) ∧
  (∀ (m : Master) (s : State), reaches s m .pair 0x090 = true → pairOn s = true →
    ∃ t, exec (.keep m) s = .next t ∧ t.pair.keepAt = s.now ∧ t.pair.st = s.pair.st) ∧
  (∀ (m : Master) (s : State), reaches s m .pair 0x090 = true → pairOn s = true →
    ∃ t, exec (.pairClr m) s = .next t ∧ t.pair.clr = true ∧ t.pair.st = s.pair.st) ∧
  (∀ (s : State), live s .ring = true → s.pair.hbDue = true → rdb s (pairKey 0x040) 3 = false →
    ∃ t, exec .heartbeatSend s = .next t ∧ t.pair.hbDue = false ∧ t.pair.sent = pairFrame 1 0 (heartbeat s) ∧
      t.pair.linkFree = max s.now s.pair.linkFree + 106400) ∧
  (∀ (frame : List Byte) (s : State), live s .ring = true → frameOk frame false = true → cellByte frame 0 = 1 →
    ∃ t, exec (.heartbeatReceived false frame false) s = .next t ∧ t.pair.linkAt = some s.now ∧
      t.pair.peer = some (cellByte frame 4 % 8, cellByte frame 5) ∧
      t.pair.roleErr = decide ((cellByte frame 5).testBit 0 = isPrimary s)) ∧
  (∀ (frame : List Byte) (bad : Bool) (s : State) (c : List Byte × Byte × Nat), live s .ring = true →
    rdb s (pairKey 0x040) 3 = true → hbReceives s = true → (streamTake (rdf s (pairKey 0x050) 16 10) s).1 = some c →
    ∃ t, exec (.heartbeatReceived true frame bad) s = .next t ∧ t.pair.ringAt = some s.now ∧ t.pair.linkAt = s.pair.linkAt ∧
      t.pair.peer = some (cellByte c.1 0 % 8, cellByte c.1 1)) ∧
  (∀ (ring : Bool) (frame : List Byte) (bad : Bool) (s : State), live s .ring = true → ring = false →
    frameOk frame bad = false →
    ∃ t, exec (.heartbeatReceived ring frame bad) s = .next t ∧ t.pair.linkAt = s.pair.linkAt ∧ t.pair.peer = s.pair.peer ∧
      rdf t (pairKey 0x0AC) 16 16 = min 0xFFFF (rdf s (pairKey 0x0AC) 16 16 + 1)) ∧
  (∀ (ring : Bool) (a : Nat) (s : State), live s .ring = true →
    (if ring then s.pair.ringAt else s.pair.linkAt) = some a →
    ∃ t, exec (.pathTimeout ring) s = .next t ∧ (if ring then t.pair.ringAt else t.pair.linkAt) = none ∧
      a + rdf s (pairKey 0x044) 16 16 * usec ≤ t.now ∧ rdb t (rk .pair 0 0x010) 2 = true)

/-- REDUNDANT PAIR, states and claims: the test of each microsecond, the liveness, start and claim times, the change of the
peer's line and its settling, and the installation; segments go out and come in
(R420 to R422, R425, R427 to R429). The bytes of a segment's frame are the model's (log entry 43), and so is that START_WAIT counts from
the enable (log entry 42). -/
def Obligations.PairStatesComplete : Prop :=
  (∀ (s : State), live s .ring = true → pairOn s = true → s.pair.st = 4 → s.pair.give = true →
    ∃ t, exec .pairEvaluation s = .next t ∧ t.pair.st = 5 ∧ t.pair.give = false ∧ t.pair.stepAt = nextDue s.pair.stepAt usec t.now ∧
      t.pair.own = false ∧ s.pair.stepAt ≤ t.now) ∧
  (∀ (s : State), live s .ring = true → s.pair.st = 4 → rdf s (pairKey 0x048) 0 16 ≠ 0 →
    ∃ t, exec .livenessTimeout s = .next t ∧ t.pair.st = 5 ∧ s.pair.keepAt + rdf s (pairKey 0x048) 0 16 * usec ≤ t.now ∧
      rdb t (rk .pair 0 0x010) 0 = true) ∧
  (∀ (low : Bool) (s : State), live s .ring = true → s.pair.peerLow ≠ low →
    ∃ t, exec (.claimPeerChange low) s = .next t ∧ t.pair.peerLow = low ∧ t.pair.peerAt = s.now ∧
      (low = true → t.pair.released = [])) ∧
  (∀ (s : State), live s .ring = true → s.pair.own = true → s.pair.peerLow = false → s.pair.settled = false →
    ∃ t, exec .claimSettle s = .next t ∧ t.pair.settled = true ∧ max s.pair.ownAt s.pair.peerAt + 2 * usec ≤ t.now) ∧
  (∀ (s : State), live s .ring = true → s.pair.st = 3 → s.pair.released = [] → s.pair.yielded = false →
    ∃ t, exec .claimTimeout s = .next t ∧ t.pair.st = 2 ∧ t.pair.own = false ∧ rdb t (rk .pair 0 0x010) 8 = true ∧
      s.pair.claimAt + msec ≤ t.now) ∧
  (∀ (s : State), live s .ring = true → s.pair.st = 3 → s.pair.installs = true → s.pair.useCk = false →
    ∃ t, exec .installDone s = .next t ∧ t.pair.installs = false ∧ t.pair.cold = true ∧ rdb t (rk .pair 0 0x010) 6 = true ∧
      t.pair.installed = some s.now) ∧
  (∀ (s : State), live s .ring = true → s.pair.st = 1 → peerOk s = false →
    ∃ t, exec .startWait s = .next t ∧ t.pair.st = 2 ∧ t.pair.cold = true ∧
      s.pair.lostAt + rdf s (pairKey 0x048) 16 16 * msec ≤ t.now) ∧
  (∀ (s : State) (a : Nat), live s .ring = true → pairOn s = true → s.pair.stuckAt = some a →
    rdb s (pairKey 0x010) 10 = false →
    ∃ t, exec .peerStuck s = .next t ∧ rdb t (rk .pair 0 0x010) 10 = true ∧ a + 10 * msec ≤ t.now) ∧
  (∀ (s : State), live s .ring = true → s.pair.st = 4 → datumValid s = false →
    ∃ t, exec .localCapture s = .next t ∧ s.pair.capAt + msec ≤ t.now ∧ t.pair.capAt = t.now ∧
      t.pair.capNum = (s.pair.capNum + ckStride s) % 2 ^ 32 ∧
      (t.pair.tx.any fun c => c.nodat && decide (c.num = t.pair.capNum ∧ c.time = 0)) = true) ∧
  (∀ (s : State) (c : CkSend), live s .ring = true → s.pair.st = 4 → s.pair.tx = some c → c.tiles = [] → c.sw = [] →
    c.seg = 0 →
    ∃ t, exec .segmentSend s = .next t ∧ t.pair.tx = none ∧ t.pair.lastNum = c.num ∧ s.pair.linkFree ≤ t.now ∧
      rd t (pairKey 0x09C) = wNat c.num ∧ cellByte t.pair.sent 0 = 3) ∧
  (∀ (frame : List Byte) (s : State) (k f : Nat) (bs : List Byte), live s .ring = true → pairOn s = true →
    frameOk frame false = true → cellByte frame 0 = 2 → (s.pair.st = 1 ∨ s.pair.st = 2 ∨ s.pair.st = 5) →
    s.pair.rx = some (k, bs, f) → k ≠ 0 → cellByte frame 2 + 256 * cellByte frame 3 = k →
    ∃ t, exec (.segmentReceived frame false) s = .next t ∧ t.pair.rx = some (k + 1, bs ++ (frame.drop 4).take 256, f)) ∧
  (∀ (frame : List Byte) (s : State) (k f : Nat) (bs : List Byte), live s .ring = true → pairOn s = true →
    frameOk frame false = true → (cellByte frame 0 = 2 ∨ cellByte frame 0 = 3) →
    (s.pair.st = 1 ∨ s.pair.st = 2 ∨ s.pair.st = 5) → s.pair.rx = some (k, bs, f) →
    cellByte frame 2 + 256 * cellByte frame 3 ≠ k → cellByte frame 2 + 256 * cellByte frame 3 ≠ 0 →
    ∃ t, exec (.segmentReceived frame false) s = .next t ∧ t.pair.rx = none ∧ rdb t (rk .pair 0 0x010) 5 = true)

/-- EVENT ROUTER: a delivery appends its record and frees the channel's next slot, a deadline promotes, a deadline is written,
a record is read, and software raises its sources (R438 to R441, R443). -/
def Obligations.RouterCompletes : Prop :=
  (∀ (n : Fin 64) (e : Nat) (o : Occ) (s : State), fabricUp s = true → s.evr.srcs = [(e, { q := [o] })] → e < 512 →
    o.route = (0x4040#32 ||| BitVec.ofNat 32 n.val ||| (BitVec.ofNat 32 n.val <<< 8)) → o.doneA = false → o.doneB = false →
    rdb s (chanKey n 0) 8 = true → (chan s n).recs = [] → (List.range 64).all (fun i => !(ctrRuns s i)) = true →
    (List.range 16).all (fun k => !(rdb s (setKey k 0x10) 1 && decide (rdf s (setKey k 0x10) 8 6 = n))) = true →
    ∃ t, exec (.delivery n) s = .next t ∧ (chan s n).nextFree ≤ t.now ∧
      (chan t n).nextFree = t.now + (rdf s (chanKey n 0) 0 8 + 1) * 1280 ∧
      (chan t n).recs = [(wNat (e + (if o.promoted then 512 else 0) + 4096 * o.merged), o.stamp)] ∧ (srcQ t e).q = []) ∧
  (∀ (e : Fin 512) (o : Occ) (os : List Occ) (s : State), fabricUp s = true → (srcQ s e).q = o :: os → o.promoted = false →
    fld o.route 16 2 < 3 → rdf s (rk .evr 0 (0x040 + 4 * fld o.route 16 2)) 0 16 ≠ 0 →
    causeEvent .evr 0 0 ≠ some e.val → e.val ≠ 503 →
    ∃ t, exec (.promotion e) s = .next t ∧ (srcQ t e).q = { o with promoted := true } :: os ∧
      o.since + rdf s (rk .evr 0 (0x040 + 4 * fld o.route 16 2)) 0 16 * 5000 ≤ t.now ∧
      rd t (rk .evr 0 0x04C) = rd s (rk .evr 0 0x04C) + 1 ∧ rdb t (rk .evr 0 0x010) 0 = true) ∧
  (∀ (m : Master) (i : Fin 3) (v : BitVec 16) (s : State), reaches s m .evr 0x040 = true → s.pw.lockout = false →
    2 ≤ s.pw.level → stagingFull s = false →
    ∃ t, exec (.deadlineWrite m i v) s = .next t ∧ rdf t (rk .evr 0 (0x040 + 4 * i)) 0 16 = v.toNat ∧
      t.fb.seq = (s.fb.seq + 1) % 2 ^ 32) ∧
  (∀ (m : Master) (n : Fin 64) (a : Word) (b : BitVec 32) (rs : List (Word × BitVec 32)) (s : State), pageUp s .evr 0x408 = true →
    (chan s n).recs = (a, b) :: rs →
    ∃ t, exec (.rec0Read m n) s = .next t ∧ t.bus.rdata = a ∧ t.bus.err = false ∧ (chan t n).recs = rs ∧ (chan t n).rec1 = b) ∧
  (∀ (m : Master) (n : Fin 64) (s : State), pageUp s .evr 0x408 = true → (chan s n).recs = [] →
    ∃ t, exec (.rec0Read m n) s = .next t ∧ t.bus.rdata = 0 ∧ t.bus.err = false ∧ (chan t n).rec1 = 0) ∧
  (∀ (m : Master) (v : Byte) (j : Fin 8) (s : State), reaches s m .evr 0x054 = true → v.getLsbD j = true →
    routed (rd s (rk .evr 0 (0x800 + 4 * (504 + j)))) = true → (srcQ s (504 + j)).q = [] →
    (srcQ s (504 + j)).last ≠ some (s.now / 80) →
    ∃ t, exec (.swRaise m v) s = .next t ∧ t.now = s.now + 80 ∧ (srcQ t (504 + j)).q.length = 1 ∧
      ((srcQ t (504 + j)).q.map fun o => (o.stamp, o.merged)) = [(tickStamp s, 0)])

/-- TROUBLE LOG: entries are submitted, written after their hold time, read word by word, cleared and replayed; a software
entry is stamped and submitted at its write (R445, R446, R448 to R450, R459). The counts of changes of base and of loads of the
RTC that an entry bears, and the bound that they put on its TIME, are the model's reading (log entry 68). -/
def Obligations.TroubleLogCompletes : Prop :=
  (∀ (e : LogEnt) (es : List LogEnt) (s : State), s.log.stamped = e :: es → e.valley = false → s.valley.por = false →
    s.log.buffer.length < 64 → (es.all fun x => decide (logWriter x = logWriter e)) = true →
    ∃ t, exec .logSubmit s = .next t ∧ t.log.stamped = es ∧ t.log.buffer = s.log.buffer ++ [(e, s.now)]) ∧
  (∀ (s : State), s.log.stamped ≠ [] → (s.log.stamped.all fun x => !x.valley) = true → s.valley.por = false →
    s.log.buffer.length < 64 →
    ∃ t, exec .logSubmit s = .next t ∧ t.log.stamped.length + 1 = s.log.stamped.length ∧
      t.log.buffer.length = s.log.buffer.length + 1 ∧ (t.log.buffer.getLast?.map (·.2)) = some s.now) ∧
  (∀ (m : Master) (code : Byte) (s : State), reaches s m .evr 0x08C = true → datumValid s = false →
    s.log.buffer.length < 64 →
    ∃ t, exec (.goLog m code) s = .next t ∧
      t.log.buffer = s.log.buffer ++ [({
          time := rtcNow s, rtc := true, page := 2, code := code.toNat, valley := false,
          payload := [rd s (rk .evr 0 0x080), rd s (rk .evr 0 0x084), rd s (rk .evr 0 0x088)],
          epoch := s.log.epoch, loads := rtcLoads s, turn := s.log.lastDatum }, s.now)]) ∧
  (∀ (e : LogEnt) (a : Nat) (s : State), s.log.replay = false → s.valley.por = false → s.log.buffer = [(e, a)] → e.valley = false →
    s.log.bootMark = false → s.log.lostSince = 0 → s.log.started = true → e.epoch ≤ s.log.lastEpoch →
    lastOn e s ≤ e.time → s.log.count < 4096 →
    ∃ t, exec .logWrite s = .next t ∧ t.log.buffer = [] ∧ a + logHold s ≤ t.now ∧ t.log.head = (s.log.head + 1) % 4096 ∧
      t.log.seq = (s.log.seq + 1) % 2 ^ 32 ∧ t.log.count = s.log.count + 1 ∧
      t.log.entries = smPut s.log.head (entryWords s.log.seq e) s.log.entries) ∧
  (∀ (m : Master) (s : State), pageUp s .evr 0x074 = true → s.log.rword < 7 →
    ∃ t, exec (.logDataRead m) s = .next t ∧ t.bus.err = false ∧ t.log.rword = s.log.rword + 1 ∧
      t.bus.rdata = (smGet (smConst (List.replicate 8 0#32)) s.log.entries (rdf s (rk .evr 0 0x070) 0 12)).getD s.log.rword 0 ∧
      rdf t (rk .evr 0 0x070) 0 12 = rdf s (rk .evr 0 0x070) 0 12) ∧
  (∀ (m : Master) (s : State), pageUp s .evr 0x074 = true → s.log.rword = 7 →
    ∃ t, exec (.logDataRead m) s = .next t ∧ t.bus.err = false ∧ t.log.rword = 0 ∧
      t.bus.rdata = (smGet (smConst (List.replicate 8 0#32)) s.log.entries (rdf s (rk .evr 0 0x070) 0 12)).getD 7 0 ∧
      rdf t (rk .evr 0 0x070) 0 12 = (rdf s (rk .evr 0 0x070) 0 12 + 1) % 4096) ∧
  (∀ (m : Master) (s : State), reaches s m .evr 0x064 = true → s.valley.por = false →
    ∃ t, exec (.logFullClear m) s = .next t ∧ t.log.full = false ∧ t.log.count = 1 ∧ t.log.head = 1 ∧
      t.log.seq = (s.log.seq + 1) % 2 ^ 32 ∧ t.log.entries.length = 1) ∧
  (∀ (s : State), fabricUp s = true → s.log.replay = true → s.valley.por = false → s.log.entries = [] →
    ∃ t, exec .replayDone s = .next t ∧ t.log.replay = false ∧ t.log.head = 0 ∧ t.log.bad = 0 ∧ t.log.bootMark = true)

/-- CLOCKS: lock is lost and gained again, the reference is measured and qualified, the hold ends, clock outputs are updated
at a mark, and the tick count is read (R462, R464, R465, R467 to R469, R471, R479). -/
def Obligations.ClocksComplete : Prop :=
  (∀ (s : State), synthOn s = true → s.clk.locked = true →
    ∃ t, exec .lockLoss s = .next t ∧ t.clk.locked = false ∧ t.clk.holdover = true ∧ t.clk.delib = false ∧
      t.clk.pllHold = true ∧ t.clk.qualFrom = some s.now ∧ rdb t (rk .clk 0 0x010) 0 = true ∧
      rdf t (clkKey 0x050) 0 16 = min 0xFFFF (rdf s (clkKey 0x050) 0 16 + 1)) ∧
  (∀ (ppm : Int) (s : State), synthOn s = true → s.clk.running = true → ppm.natAbs ≤ 20000 →
    ∃ t, exec (.refMeasure ppm) s = .next t ∧ rd t (clkKey 0x054) = wInt ppm ∧ t.clk.locked = s.clk.locked) ∧
  (∀ (ppm : Int) (s : State), synthOn s = true → s.clk.running = true → 20000 < ppm.natAbs → s.clk.locked = true →
    ∃ t, exec (.refMeasure ppm) s = .next t ∧ rd t (clkKey 0x054) = wInt ppm ∧ t.clk.refBad = true ∧ t.clk.locked = false ∧
      rdb t (rk .clk 0 0x010) 3 = true ∧ rdb t (rk .clk 0 0x010) 0 = true) ∧
  (∀ (a : Nat) (s : State), synthOn s = true → s.clk.qualFrom = some a →
    ∃ t, exec .referenceQualified s = .next t ∧ t.clk.acquiring = true ∧ t.clk.qualFrom = none ∧ a + msec ≤ t.now) ∧
  (∀ (s : State), synthOn s = true → s.clk.acquiring = true →
    ∃ t, exec .pllLocked s = .next t ∧ t.clk.locked = true ∧ t.clk.holdover = false ∧ t.clk.running = true ∧
      t.clk.lockAt = s.now ∧ rdb t (rk .clk 0 0x010) 1 = true) ∧
  (∀ (s : State), synthOn s = true → s.clk.locked = true → s.clk.pllHold = true →
    ∃ t, exec .holdRelease s = .next t ∧ t.clk.pllHold = false ∧ t.holds.pll = some t.now ∧
      s.clk.lockAt + rdf s (clkKey 0x044) 0 10 * usec ≤ t.now ∧ rdb t (rk .clk 0 0x010) 2 = true) ∧
  (∀ (m : Master) (s : State), reaches s m .clk 0x048 = true → s.clk.locked = true →
    ∃ t, exec (.pllRelock m) s = .next t ∧ t.clk.locked = false ∧ t.clk.delib = true ∧ t.clk.pllHold = true ∧
      t.clk.mode = rdf s (clkKey 0x040) 0 2) ∧
  (∀ (a : Nat) (s : State), synthOn s = true → s.clk.running = false → s.clk.acquiring = false → s.clk.qualFrom = some a →
    ∃ t, exec .noref s = .next t ∧ t.clk.running = true ∧ t.clk.holdover = true ∧ t.clk.noref = true ∧
      a + 10 * msec ≤ t.now ∧ t.clk.tick0 = t.now) ∧
  (∀ (m : Master) (s : State), reaches s m .clk 0x048 = true →
    ∃ t, exec (.update m) s = .next t ∧ markAt s (s.now + 5000) ∈ t.clk.updAt) ∧
  (∀ (x : Nat) (s : State), synthOn s = true → s.clk.running = true → s.clk.updAt = [x] → nextMark s = x →
    (List.range 6).all (fun n => outLegal (rd s (clkKey (0x060 + 8 * n))) (rdf s (clkKey (0x064 + 8 * n)) 0 20)) = true →
    ∃ t, exec .updateMark s = .next t ∧ x ≤ t.now ∧ t.clk.updAt = [] ∧ rdb t (rk .clk 0 0x010) 4 = true ∧
      (List.range 6).map (fun n => (outCfg t n, outDiv t n)) =
        (List.range 6).map (fun n => (rd s (clkKey (0x060 + 8 * n)), rdf s (clkKey (0x064 + 8 * n)) 0 20))) ∧
  (∀ (s : State), synthOn s = true → s.clk.running = true → s.clk.updAt.contains (nextMark s) = false →
    ∃ t, exec .updateMark s = .next t ∧ nextMark s ≤ t.now ∧ t.clk.updAt = s.clk.updAt ∧ t.regs = s.regs ∧
      (s.clk.heldAt + usec ≤ nextMark s → t.clk.outHeld = [])) ∧
  (∀ (m : Master) (s : State), pageUp s .sys 0x050 = true →
    ∃ t, exec (.tickLoRead m) s = .next t ∧ t.bus.rdata = tickStamp s ∧ t.bus.err = false ∧
      rd t (rk .sys 0 0x054) = wNat (ticks s / 2 ^ 32))

/-- POWER AND RESETS: domains are switched on and off, supplies fall and rise, resets begin and end,
and a system reset goes on where SYSRST_N outlasts a power-on reset (R474 to R478). -/
def Obligations.PowerCompletes : Prop :=
  (∀ (m : Master) (v : BitVec 16) (s : State), reaches s m .sys 0x040 = true → s.pw.lockout = false → 2 ≤ s.pw.level →
    stagingFull s = false → s.clk.locked = true →
    ∃ t, exec (.pdCtlWrite m v) s = .next t ∧ rd t (sysKey 0x040) = (wNat v.toNat &&& 0x2FE#32) ∧
      t.fb.seq = (s.fb.seq + 1) % 2 ^ 32) ∧
  (∀ (d : PDom) (s : State), s.pwr.move = some (d, true) →
    ∃ t, exec .pdOn s = .next t ∧ bit t.pwr.on (domBit d) = true) ∧
  (∀ (d : PDom) (s : State), s.pwr.move = some (d, false) →
    ∃ t, exec .pdOff s = .next t ∧ bit t.pwr.on (domBit d) = false) ∧
  (∀ (n : Fin 4) (s : State), s.valley.por = false →
    ∃ t, exec (.supplyFall n) s = .next t ∧ t.pwr.reset = some .powerOn ∧ t.pwr.srcEnd = none ∧
      bit t.pwr.supply n = false ∧ bit t.pwr.cause 1 = true) ∧
  (∀ (n : Fin 4) (s : State), bit s.pwr.supply n = false →
    ∃ t, exec (.supplyRise n) s = .next t ∧ bit t.pwr.supply n = true ∧ t.pwr.reset = s.pwr.reset) ∧
  (∀ (s : State), s.valley.por = false →
    ∃ t, exec .porstAssert s = .next t ∧ t.pwr.reset = some .powerOn ∧ t.pwr.srcEnd = none ∧ t.pwr.porst = true ∧
      bit t.pwr.cause 0 = true) ∧
  (∀ (s : State), s.pwr.reset = none → s.valley.por = false →
    ∃ t, exec .sysrstAssert s = .next t ∧ t.pwr.reset = some .system ∧ t.pwr.srcEnd = none ∧ t.pwr.sysrst = true ∧
      bit t.pwr.cause 2 = true ∧ t.pwr.on = 0xD01) ∧
  (∀ (m : Master) (v : BitVec 16) (s : State), reaches s m .sys 0x048 = true → s.valley.por = false →
    fld (wNat v.toNat) 8 8 = 0xA5 → v.getLsbD 0 = true →
    ∃ t, exec (.rstCtl m v) s = .next t ∧ t.pwr.reset = some .system ∧ bit t.pwr.cause 3 = true ∧ t.pwr.on = 0xD01) ∧
  (∀ (m : Master) (v : BitVec 16) (s : State), reaches s m .sys 0x048 = true → fld (wNat v.toNat) 8 8 ≠ 0xA5 →
    ∃ t, exec (.rstCtl m v) s = .next t ∧ t.pwr = s.pwr ∧ rdb t (rk .sys 0 0x010) 3 = true) ∧
  (∀ (k : ResetKind) (s : State), s.pwr.reset = some k → s.pwr.supply &&& 0xF = 0xF →
    (k = .system ∨ s.pwr.sysrst = false) →
    ∃ t, exec .resetEnd s = .next t ∧ t.pwr.reset = none ∧ s.pwr.srcEnd.getD s.now + 10 * usec ≤ t.now) ∧
  (∀ (s : State), s.pwr.reset = some .powerOn → s.pwr.supply &&& 0xF = 0xF → s.pwr.sysrst = true →
    ∃ t, exec .resetEnd s = .next t ∧ t.pwr.reset = some .system ∧ t.pwr.srcEnd = none ∧ t.pwr.sysrst = true ∧
      t.plumb.spo = true ∧ s.pwr.srcEnd.getD s.now + 10 * usec ≤ t.now)

/-- TEMPERATURE: guard scans and software demand measurements, a measurement ends, the orderly stop ends and is cleared
(R480 to R483). -/
def Obligations.TemperatureCompletes : Prop :=
  (∀ (s : State), thermOn s = true → s.therm.running = 0 →
    ∃ t, exec .guardScan s = .next t ∧ t.therm.running = 0xFFFFFF ∧ t.therm.runScan = true ∧ s.therm.scanAt ≤ t.now ∧
      t.therm.runEnd = t.now + 40 * usec ∧ t.therm.scanAt = nextDue s.therm.scanAt (rdf s (thermKey 0x040) 0 8 * msec) t.now) ∧
  (∀ (m : Master) (v : BitVec 24) (s : State), reaches s m .therm 0x04C = true → v ≠ 0 → s.therm.running = 0 →
    ∃ t, exec (.meas m v) s = .next t ∧ t.therm.running = wNat v.toNat ∧ t.therm.runEnd = s.now + 40 * usec ∧
      t.therm.runSw = true) ∧
  (∀ (temps : List Int) (n : Fin 24) (s : State), thermOn s = true → s.pwr.reset = none → s.pwr.cut = false →
    bit s.therm.running n = true → (∀ x ∈ temps, x < 1280) → 1280 ≤ stopTh s →
    ∃ t, exec (.measurementDone temps) s = .next t ∧ s.therm.runEnd ≤ t.now ∧
      rdf t (thermKey (0x080 + 4 * n)) 0 16 = (wInt (temps.getD n 0)).toNat % 65536 ∧
      rdb t (thermKey (0x080 + 4 * n)) 16 = true) ∧
  (∀ (s : State), thermOn s = true → s.therm.stopping = true →
    ∃ t, exec .stopTime s = .next t ∧ t.therm.stopping = false ∧ t.therm.stopped = true ∧
      s.therm.stopAt + rdf s (thermKey 0x040) 16 16 * msec ≤ t.now) ∧
  (∀ (m : Master) (s : State), reaches s m .therm 0x050 = true → s.therm.stopped = true → s.therm.scanCool = true →
    ∃ t, exec (.clrStop m) s = .next t ∧ t.therm.stopped = false ∧ rdb t (rk .therm 0 0x010) 3 = true) ∧
  (∀ (m : Master) (s : State), reaches s m .therm 0x050 = true → s.therm.scanCool = false →
    ∃ t, exec (.clrStop m) s = .next t ∧ t.therm.stopped = s.therm.stopped ∧ rdb t (rk .therm 0 0x010) 4 = true)

/-- VALLEY DOMAIN: the store is sampled, its reset ends, the open-circuit voltage is measured, the real-time clock is set and
read, the crystal fails and recovers, energy bursts are asked for and end, and the hold-up ends (R498, R500 to R504, R507 to
R509). The refusal of a second BURST_GO and the load of the clock at the next tick are the model's (log entry 71), and so is the MARK
submitted at the write (log entry 68). -/
def Obligations.ValleyCompletes : Prop :=
  (∀ (mv : Nat) (s : State), s.valley.por = false → 1800 ≤ mv → s.valley.vpg = true → mv < 2200 →
    ∃ t, exec (.valleySample mv) s = .next t ∧ t.valley.vstore = mv / 10 * 10 ∧ s.valley.sampleAt ≤ t.now ∧
      t.valley.sampleAt = nextDue s.valley.sampleAt (16 * msec) t.now ∧ t.valley.vpg = false ∧ rdb t (rk .valley 0 0x010) 1 = true) ∧
  (∀ (mv : Nat) (s : State), s.valley.por = false → s.valley.vpg = false → 3300 ≤ mv →
    ∃ t, exec (.valleySample mv) s = .next t ∧ t.valley.vstore = mv / 10 * 10 ∧ t.valley.vpg = true ∧
      rdb t (rk .valley 0 0x010) 0 = true) ∧
  (∀ (mv : Nat) (s : State), s.valley.por = false → mv < 1800 →
    ∃ t, exec (.valleySample mv) s = .next t ∧ t.valley.por = true ∧ t.valley.vbor = false ∧ t.log.count = 0 ∧
      t.pwr.cause = 0) ∧
  (∀ (s : State), s.valley.por = true →
    ∃ t, exec .valleyPorEnd s = .next t ∧ t.valley.por = false ∧ t.valley.vbor = true ∧ t.valley.rtcBase = 0 ∧
      t.valley.rtcAt = s.now) ∧
  (∀ (mv : BitVec 12) (s : State), s.valley.por = false → s.valley.hv = 1 →
    ∃ t, exec (.openCircuitMeasure mv) s = .next t ∧ t.valley.hvOc = mv.toNat ∧ s.valley.ocAt ≤ t.now ∧
      t.valley.ocAt = nextDue s.valley.ocAt (16 * secs) t.now) ∧
  (∀ (m : Master) (s : State), reaches s m .valley 0x088 = true →
    ∃ t, exec (.rtcSet m) s = .next t ∧ t.valley.rtcValid = true ∧
      (t.log.buffer.getLast?.map fun e => (e.1.mark, e.1.code, e.1.payload)) = some (true, 5, timeWords (rtcNow s)) ∧
      t.valley.rtcLoad.map (·.2) = some ((rd s (valKey 0x078)).toNat + (rd s (valKey 0x07C)).toNat * 2 ^ 32) ∧
      (t.valley.rtcLoad.all fun l => decide (s.now < l.1)) = true) ∧
  (∀ (m : Master) (s : State), pageUp s .valley 0x070 = true →
    ∃ t, exec (.rtcLoRead m) s = .next t ∧ t.bus.rdata = wNat (rtcNow s) ∧ t.bus.err = false ∧
      rd t (valKey 0x074) = wNat (rtcNow s / 2 ^ 32)) ∧
  (∀ (s : State), s.valley.por = false → s.valley.xtFail = false →
    ∃ t, exec .xtFail s = .next t ∧ t.valley.xtFail = true ∧ rdb t (rk .valley 0 0x010) 4 = true) ∧
  (∀ (s : State), s.valley.por = false → ∃ t, exec .xtRecover s = .next t ∧ t.valley.xtFail = false) ∧
  (∀ (m : Master) (s : State), reaches s m .valley 0x088 = true → s.valley.grantSw = none → s.valley.reqSw = none →
    ∃ t, exec (.burstGo m) s = .next t ∧ t.valley.reqSw = some (rdf s (valKey 0x05C) 0 24)) ∧
  (∀ (m : Master) (s : State), reaches s m .valley 0x088 = true → (s.valley.grantSw.isSome || s.valley.reqSw.isSome) = true →
    ∃ t, exec (.burstGo m) s = .next t ∧ t.valley.reqSw = s.valley.reqSw ∧ t.valley.grantSw = s.valley.grantSw ∧
      rdb t (rk .valley 0 0x010) 2 = true) ∧
  (∀ (m : Master) (g : Grant) (s : State), reaches s m .valley 0x088 = true → s.valley.grantSw = some g →
    ∃ t, exec (.burstEnd m) s = .next t ∧ t.valley.grantSw = none ∧ t.valley.burst = 0) ∧
  (∀ (g : Grant) (s : State), s.valley.grantSw = some g →
    ∃ t, exec .burstTmo s = .next t ∧ t.valley.grantSw = none ∧ t.valley.burst = 0 ∧ t.valley.timedOut = true ∧
      g.since + secs ≤ t.now ∧ rdb t (rk .valley 0 0x010) 3 = true) ∧
  (∀ (s : State), s.valley.holdup = true → s.nvm.queue = [] →
    ∃ t, exec .holdupEnd s = .next t ∧ t.valley.holdup = false)

/-- APPLICATION CLUSTER: watchdogs are kicked and expire, a timer matches, the scrubber reads a word, a counter is written,
read and overflows (R516, R518, R521, R527, R529, R537). A read that a counter counts is counted before it is answered (log entry 9). -/
def Obligations.ClusterCompletes : Prop :=
  (∀ (m : Master) (v : BitVec 4) (p : Fin 4) (s : State), reaches s m .pmc 0x04C = true → v.getLsbD p = true →
    masterNo m = physHart s p → wdtTime s ≠ 0 → (hart s (physHart s p)).halted = false →
    ∃ t, exec (.wdtKick m v) s = .next t ∧ (hart t (physHart s p)).wdt = some (s.now + wdtTime s)) ∧
  (∀ (h : Fin 4) (s : State), fabricUp s = true → (hart s h).mtip = false → (hart s h).mtimecmp ≠ 0xFFFFFFFFFFFFFFFF →
    ∃ t, exec (.mtimecmpMatch h) s = .next t ∧ (hart t h).mtip = true ∧
      s.clk.tick0 + (hart s h).mtimecmp * 160 ≤ t.now) ∧
  (∀ (errs : Fin 3) (s : State), fabricUp s = true → rdf s (pmcKey 0x050) 0 8 ≠ 0 →
    ∃ t, exec (.scrub errs) s = .next t ∧ t.cluster.scrub = (s.cluster.scrub + 1) % 524288 ∧ s.cluster.scrubAt ≤ t.now ∧
      t.cluster.scrubAt = nextDue s.cluster.scrubAt (rdf s (pmcKey 0x050) 0 8 * secs / 524288) t.now ∧
      (errs = 1 → s.cluster.bad.contains (sramBase + 8 * s.cluster.scrub) = false → rdb t (rk .pmc 0 0x010) 4 = true) ∧
      (errs = 2 → rdb t (rk .pmc 0 0x010) 5 = true ∧ t.cluster.bad.contains (sramBase + 8 * s.cluster.scrub) = true) ∧
      (errs = 2 → (sramBad s (sramBase + 8 * s.cluster.scrub) 8).all (· = sramBase + 8 * s.cluster.scrub) = true →
        rd t (pmcKey 0x05C) = wNat (8 * s.cluster.scrub))) ∧
  (∀ (m : Master) (n : Fin 64) (v : Word) (s : State), reaches s m .pmc 0x10C = true → rdb s (ctrKey n 0) 24 = false →
    ∃ t, exec (.valLoWrite m n v) s = .next t ∧ (ctr t n).val = v.toNat + 2 ^ 32 * (ctr s n).hiW ∧ (ctr t n).known = true) ∧
  (∀ (m : Master) (n : Fin 64) (c : Ctr) (s : State), pageUp s .pmc 0x10C = true →
    c = ctr (countedRead m .pmc 0 (0x10C + 0x20 * n) s) n → c.known = true →
    ∃ t, exec (.valLoRead m n) s = .next t ∧ t.bus.rdata = wNat c.val ∧ t.bus.err = false ∧
      rd t (ctrKey n 0x10) = wNat (c.val / 2 ^ 32 % 65536)) ∧
  (∀ (m : Master) (n : Fin 64) (s : State), pageUp s .pmc 0x10C = true → (ctr s n).known = true →
    rdf s (ctrKey n 0) 0 8 ≠ 3 → rdf s (ctrKey n 0) 0 8 ≠ 8 →
    ∃ t, exec (.valLoRead m n) s = .next t ∧ t.bus.rdata = wNat (ctr s n).val ∧ t.bus.err = false) ∧
  (∀ (n : Fin 64) (s : State), fabricUp s = true → ctrRuns s n = true → rdf s (ctrKey n 0) 0 8 ≠ 0 →
    (ctr s n).val = 2 ^ 48 - 1 →
    ∃ t, exec (.counterOverflow n) s = .next t ∧ (ctr t n).val = 0 ∧ rdb t (pmcKey (0x060 + 4 * (n / 32))) (n % 32) = true)

/-- NV STORE: a word is queued and written (R525). -/
def Obligations.NvStoreCompletes : Prop :=
  (∀ (m : Master) (a : Nat) (bytes : List Byte) (s : State), fabricUp s = true → domOn s .nvm = true →
    nvSoftware a = true → rdb s (rk .nvm 0 0x040) 0 = true → a % 8 = 0 → bytes.length = 8 → s.nvm.queue.length < 16 →
    ∃ t, exec (.nvWrite m a bytes) s = .next t ∧ t.nvm.queue = s.nvm.queue ++ [(a, bytes, (masterNo m, none))] ∧
      t.now = s.now + 80) ∧
  (∀ (a : Nat) (bytes : List Byte) (mm : Doer) (q : List (Nat × List Byte × Doer)) (s : State),
    domOn s .nvm = true → s.nvm.queue = (a, bytes, mm) :: q → bytes.length = 8 →
    ∃ t, exec .nvWordWritten s = .next t ∧ t.nvm.queue = q ∧ s.nvm.headEnd ≤ t.now ∧ t.nvm.headEnd = t.now + 15000 ∧
      memBytes t a 8 = bytes)

/-- TAP AND DEBUG MODULE: scans, dmi accesses, abstract commands, system bus accesses and the debugger's reset; harts halt and
resume (R531 to R533). The numbers of the dmi registers, the bits of dmcontrol, dtmcs bit 17, the numbers of the registers of an
abstract command and mhartid are the model's (log entries 49, 50 and 69), and so is that a halt needs the debug module active (log entry
44). -/
def Obligations.DebugCompletes : Prop :=
  (∀ (cells : List Bool) (s : State), ∃ t, exec (.extest cells) s = .next t ∧ t.dbg.ir = 0 ∧ t.dbg.preload = cells ∧
      t.dbg.sample.length = cells.length) ∧
  (∀ (cells : List Bool) (s : State), ∃ t, exec (.samplePreload cells) s = .next t ∧ t.dbg.ir = 2 ∧ t.dbg.preload = cells ∧
      t.dbg.sample.length = cells.length) ∧
  (∀ (s : State), ∃ t, exec .idcode s = .next t ∧ t.dbg.ir = 1 ∧ t.bus.rdata = 0x1964805B) ∧
  (∀ (code : BitVec 5) (s : State), ∃ t, exec (.bypass code) s = .next t ∧ t.dbg.ir = 0x1F ∧ t.regs = s.regs) ∧
  (∀ (v : Word) (s : State), ∃ t, exec (.dtmcs v) s = .next t ∧ t.dbg.ir = 0x10 ∧
      t.dbg.denied = (s.dbg.denied && !bit v 17)) ∧
  (∀ (a : BitVec 7) (v : Word) (s : State), dmWorks s = true →
    (4 ≤ a.toNat ∧ a.toNat < 16 ∨ 0x20 ≤ a.toNat ∧ a.toNat < 0x28) →
    ∃ t, exec (.dmi true a v) s = .next t ∧ t.dbg.regs = smPut a.toNat v s.dbg.regs ∧ t.bus.err = false) ∧
  (∀ (a : BitVec 7) (v w : Word) (s : State), dmWorks s = true →
    (4 ≤ a.toNat ∧ a.toNat < 16 ∨ 0x20 ≤ a.toNat ∧ a.toNat < 0x28) →
    s.dbg.regs.find? (fun e => decide (e.1 = a.toNat)) = some (a.toNat, w) →
    ∃ t, exec (.dmi false a v) s = .next t ∧ t.bus.rdata = w ∧ t.bus.err = false ∧ t.dbg.regs = s.dbg.regs) ∧
  (∀ (h : Fin 4) (v : Word) (s : State), dmWorks s = true → bit v 0 = true → bit v 1 = false → bit v 31 = true →
    fld v 16 10 = h.val → fld v 6 10 = 0 →
    ∃ t, exec (.dmi true 0x10 v) s = .next t ∧ ((List.range 4).all fun g => (hart t g).halted) = true) ∧
  (∀ (w : Bool) (a : BitVec 7) (v : Word) (s : State), fabricUp s = true → dbgCfg s 0 = false →
    ∃ t, exec (.dmi w a v) s = .next t ∧ t.bus.rdata = 0 ∧ t.dbg.denied = true ∧ t.dbg.active = s.dbg.active ∧
      t.dbg.regs = s.dbg.regs) ∧
  (∀ (on : Bool) (s : State), dbgCfg s 0 = true → ∃ t, exec (.dmactive on) s = .next t ∧ t.dbg.active = on ∧
      (on = false → t.dbg.regs = [])) ∧
  (∀ (h : Fin 4) (v : DWord) (s : State), dmWorks s = true → (hart s h).halted = true →
    ∃ t, exec (.accessRegister h true 0x7C2 v) s = .next t ∧ (hart t h).mtimecmp = v.toNat ∧
      (hart t h).mtip = decide (v.toNat ≤ ticks s)) ∧
  (∀ (h : Fin 4) (s : State), dmWorks s = true → (hart s h).halted = true →
    ∃ t, exec (.accessRegister h false 0xF14 0) s = .next t ∧ t.bus.rdata = wNat h.val ∧ t.bus.err = false) ∧
  (∀ (h : Fin 4) (a : Nat) (s : State), dmWorks s = true → (hart s h).halted = true → a % 4 = 0 → sramBase ≤ a →
    a < sramBase + 0x400000 → pmpDenies s h a 4 false 16 0 = false → sramBad s a 4 = [] →
    ∃ t, exec (.accessMemory h false a 0) s = .next t ∧ t.bus.rdata = memWord s a ∧ t.bus.err = false) ∧
  (∀ (a : Nat) (s : State), dmWorks s = true → dbgCfg s 1 = true → a % 4 = 0 → sramBase ≤ a → a < sramBase + 0x400000 →
    sramBad s a 4 = [] →
    ∃ t, exec (.systemBusAccess false a 0) s = .next t ∧ t.bus.rdata = memWord s a ∧ t.bus.err = false) ∧
  (∀ (s : State), dmWorks s = true → dbgCfg s 2 = true → s.valley.por = false →
    ∃ t, exec .ndmreset s = .next t ∧ t.pwr.reset = some .system ∧ bit t.pwr.cause 5 = true ∧ t.pwr.byDebug = true) ∧
  (∀ (h : Fin 4) (s : State), fabricUp s = true → domOn s .dbg = true → s.dbg.active = true → (hart s h).halted = false →
    ∃ t, exec (.hartHalt h) s = .next t ∧ (hart t h).halted = true ∧ (hart t h).wdt = none ∧
      ((List.range 4).all fun g => (hart t g).halted) = true ∧
      rdb t (rk .dbg 0 0x010) 0 = true ∧ (anyHalted s = false → t.holds.frozen = true)) ∧
  (∀ (s : State), fabricUp s = true → anyHalted s = true → s.holds.frozen = true →
    ∃ t, exec .hartResume s = .next t ∧ anyHalted t = false ∧ t.holds.frozen = false ∧ t.holds.freeze = some s.now ∧
      rdb t (rk .dbg 0 0x010) 1 = true)

/-- IMAGE UPDATES: watchdogs expire, a package is applied, the spare pair boots and reports, a handover is armed, tried,
made at its Datum cycle boundary, accepted, rejected, aborted or times out, its set is copied and checked, the boot record changes and
a settings slot is committed (R518, R519, R544, R546, R548 to R554). ACCEPT's effects at BOOTREC_CHANGE, the slot that it takes, the
TRIAL flag that is cleared again, what a give-up leaves, the four bytes of the slot check and the length of the plan are the model's
(log entry 46). -/
def Obligations.UpdatesComplete : Prop :=
  (∀ (h : Fin 4) (a : Nat) (s : State), fabricUp s = true → (hart s h).wdt = some a → (runHarts s).contains h.val = true →
    s.upd.st ≠ 6 → rdb s (pmcKey 0x048) 16 = false →
    ∃ t, exec (.watchdogExpiry h) s = .next t ∧ a ≤ t.now ∧ role t = role s ∧ rdb t (rk .pmc 0 0x010) 3 = true) ∧
  (∀ (h : Fin 4) (a : Nat) (s : State), fabricUp s = true → (hart s h).wdt = some a → (runHarts s).contains h.val = true →
    s.upd.st ≠ 6 → rdb s (pmcKey 0x048) 16 = true →
    ∃ t, exec (.watchdogExpiry h) s = .next t ∧ a ≤ t.now ∧ role t = 1 - role s ∧ rdb t (rk .pmc 0 0x010) 2 = true) ∧
  (∀ (m : Master) (s : State), reaches s m .upd 0x044 = true → s.nvm.queue = [] → applyOk s = true →
    ∃ t, exec (.apply m) s = .next t ∧ t.upd.st = 1 ∧ t.upd.invalid = true ∧ t.upd.applyAt = s.now ∧
      rd t (updKey 0x04C) = wNat (65536 * (pkgWord s 20 / 4096))) ∧
  (∀ (s : State), live s .nvm = true → s.upd.st = 1 → (List.range (applyBlocks s)).all (blockSound s (applyRecs s)) = true →
    ∃ t, exec .applyDone s = .next t ∧ (t.upd.st = 2 ∧ t.upd.cause = 0 ∧ t.upd.invalid = false ∨ t.upd.st = 8 ∧ t.upd.cause = 2) ∧
      s.upd.applyAt + (planLen (applyBlocks s) + 1) * nvWordTime ≤ t.now ∧ rdf t (updKey 0x04C) 0 16 = applyBlocks s % 65536) ∧
  (∀ (s : State), live s .nvm = true → s.upd.st = 1 → (List.range (applyBlocks s)).all (blockSound s (applyRecs s)) = false →
    ∃ t, exec .applyDone s = .next t ∧ t.upd.st = 8 ∧ t.upd.cause = 1 ∧ rdb t (rk .upd 0 0x010) 1 = true ∧
      s.upd.applyAt + planLen (applyBlocks s) * nvWordTime ≤ t.now ∧ rdf t (updKey 0x04C) 0 16 = applyBlocks s % 65536) ∧
  (∀ (m : Master) (s : State), reaches s m .upd 0x044 = true → s.upd.st = 2 →
    ∃ t, exec (.boot m) s = .next t ∧ t.upd.st = 3 ∧ t.upd.cause = 0 ∧ (hart t (physHart s 2)).staged = true ∧
      (hart t (physHart s 3)).staged = true) ∧
  (∀ (m : Master) (s : State), reaches s m .upd 0x044 = true → s.upd.st = 3 → (spareHarts s).contains (masterNo m) = true →
    ∃ t, exec (.ready m) s = .next t ∧ t.upd.st = 4 ∧ rdb t (rk .upd 0 0x010) 2 = true) ∧
  (∀ (m : Master) (s : State), reaches s m .upd 0x044 = true → armOk s = true →
    ∃ t, exec (.updArm m) s = .next t ∧ t.upd.st = 5 ∧ t.upd.hoAt = (rd s (updKey 0x064)).toNat ∧
      t.eng.global = .checking ∧ t.upd.want = (if s.upd.boot.trial = true ∧
        s.upd.want = none then none else some { s.upd.boot with trial := true })) ∧
  (∀ (v n : Nat) (s : State), live s .ring = true → nextBoundary s = some (v, n) → s.upd.st = 5 → s.upd.hoAt = n % 2 ^ 32 →
    datumValid s = true → s.plumb.saddle = .normal → s.pair.st ≠ 3 → s.eng.global = .ready →
    ∃ t, exec .datumCycleBoundary s = .next t ∧ t.upd.st = 6 ∧ role t = 1 - role s ∧ t.upd.former = runHarts s ∧
      t.upd.handed = false ∧ t.upd.capture = memBytes s (sramBase + 256 * s.upd.hoSrc) (256 * s.upd.hoLen) ∧
      t.upd.captureBad = !(sramBad s (sramBase + 256 * s.upd.hoSrc) (256 * s.upd.hoLen)).isEmpty ∧
      t.upd.banks = (List.range 32).map (fun n => (lane s n).active)) ∧
  (∀ (s : State), live s .nvm = true → s.upd.st = 6 → s.upd.handed = false → s.upd.captureBad = false →
    ∃ t, exec (.handed true) s = .next t ∧ t.upd.handed = true ∧ rd t (updKey 0x074) = crc32c s.upd.capture ∧
      memBytes t (sramBase + 256 * s.upd.hoDst) s.upd.capture.length = s.upd.capture ∧ t.upd.st = 6 ∧
      rdb t (rk .upd 0 0x010) 3 = true) ∧
  (∀ (ok : Bool) (s : State), live s .nvm = true → s.upd.st = 6 → s.upd.handed = false → datumValid s = true →
    (ok && !s.upd.captureBad) = false → ∃ t, exec (.handed ok) s = .next t ∧ t.upd.st = 7 ∧ t.upd.cause = 9 ∧ t.upd.handed = false) ∧
  (∀ (m : Master) (s : State), reaches s m .upd 0x044 = true → s.upd.st = 6 → (runHarts s).contains (masterNo m) = true →
    s.upd.accept = false → s.upd.defaulted = false →
    ∃ t, exec (.accept m) s = .next t ∧ t.upd.st = 6 ∧ t.upd.accept = true ∧ t.upd.wantAt = s.now ∧
      t.upd.want = some { active := 1 - s.upd.boot.active, prev := s.upd.boot.active, trial := false, slot := s.upd.boot.slot, floor := max s.upd.boot.floor (imgWord s (1 - s.upd.boot.active) 8 % 65536) }) ∧
  (∀ (m : Master) (s : State), reaches s m .upd 0x044 = true → s.upd.st = 6 → datumValid s = true →
    ∃ t, exec (.reject m) s = .next t ∧ t.upd.st = 7 ∧ t.upd.cause = 11) ∧
  (∀ (m : Master) (s : State), reaches s m .upd 0x044 = true → (s.upd.st = 3 ∨ s.upd.st = 4) →
    ∃ t, exec (.abort m) s = .next t ∧ t.upd.st = 2 ∧ t.upd.cause = 7) ∧
  (∀ (m : Master) (s : State), reaches s m .upd 0x044 = true → s.upd.st = 5 →
    ∃ t, exec (.abort m) s = .next t ∧ t.upd.st = 4 ∧ t.upd.cause = 7 ∧ t.eng.global = .none ∧
      rdb t (rk .upd 0 0x010) 6 = true) ∧
  (∀ (m : Master) (s : State), reaches s m .upd 0x044 = true → s.upd.st = 8 →
    ∃ t, exec (.updClear m) s = .next t ∧ t.upd.st = 0 ∧ t.upd.cause = 0) ∧
  (∀ (s : State), live s .nvm = true → s.upd.st = 6 → s.upd.accept = false → datumValid s = true →
    ∃ t, exec .trialTimeout s = .next t ∧ t.upd.st = 7 ∧ t.upd.cause = 12 ∧
      s.upd.trialAt + max 1 (rdf s (updKey 0x040) 16 16) * secs ≤ t.now) ∧
  (∀ (r : BootRec) (g : Grant) (s : State), (live s .nvm || s.valley.holdup) = true → s.upd.want = some r →
    s.valley.grantUpd = some g → (s.upd.accept && s.upd.slotEnd.isSome) = false →
    ∃ t, exec .bootrecChange s = .next t ∧ t.valley.grantUpd = none ∧ t.fb.seq = (s.fb.seq + 1) % 2 ^ 32 ∧
      t.upd.boot = (if s.upd.accept then { r with slot := s.upd.slotNew.getD r.slot } else r) ∧
      t.upd.want = (if s.upd.accept = false ∧ r.trial = true ∧
        (s.upd.st < 5 ∨ 7 < s.upd.st) then some { r with trial := false } else none) ∧
      (s.upd.accept = true → t.upd.st = 0 ∧ t.upd.former = [])) ∧
  (∀ (r : BootRec) (s : State), live s .nvm = true → s.upd.want = some r → s.valley.grantUpd = none →
    ∃ t, exec .grantGiveup s = .next t ∧ t.upd.boot = s.upd.boot ∧ t.upd.want = none ∧ t.upd.cause = 3 ∧
      s.upd.wantAt + 10 * secs ≤ t.now) ∧
  (∀ (m : Master) (s : State), reaches s m .upd 0x084 = true → s.upd.slotEnd = none →
    32 ≤ rdf s (updKey 0x07C) 0 20 ∧ rdf s (updKey 0x07C) 0 20 ≤ 524288 →
    rdf s (updKey 0x078) 0 22 + rdf s (updKey 0x07C) 0 20 ≤ 0x400000 →
    ∃ t, exec (.slotCommit m) s = .next t ∧ t.upd.slotNo = 1 - s.upd.boot.slot ∧
      t.upd.slotEnd = some (s.now + (min (rdf s (updKey 0x07C) 0 20 + 4) 0x80000 + 7) / 8 * 15000) ∧ t.upd.slotAt = s.now ∧
      t.upd.slotBytes = memBytes s (sramBase + rdf s (updKey 0x078) 0 22) (rdf s (updKey 0x07C) 0 20) ∧
      rdf t (updKey 0x088) 0 3 = 1) ∧
  (∀ (a : Nat) (s : State), (live s .nvm || s.valley.holdup) = true → s.upd.slotEnd = some a →
    ∃ t, exec .slotCommitDone s = .next t ∧ a ≤ t.now ∧ t.upd.slotEnd = none ∧
      (rdb s (updKey 0x088) 0 = true → rdf t (updKey 0x088) 4 1 = s.upd.slotNo % 2 ∧
        rdf t (updKey 0x088) 0 3 = (if s.upd.slotBad = false ∧ crc32c s.upd.slotBytes = s.upd.slotCrc then 2 else 4)))

/-- GPIO AND SERIAL PORTS: pins change and are driven, I2C actions start and end, SPI and UART bytes are queued, taken and
shifted (R590 to R592, R595). A byte that leaves its transmit FIFO only when it has been sent, a time-out that drops the rest of the
actions, the bits that an I2C action takes, and units that run whatever FUNC holds, on a free byte where their input is not on its
pin, are the model's (log entry 47). -/
def Obligations.SerialPortsComplete : Prop :=
  (∀ (n : Fin 32) (rise : Bool) (s : State), fabricUp s = true → bit s.gio.pins n ≠ rise → pinDriven s n = none →
    rdb s (gpioKey (if rise then 0x064 else 0x068)) n = true →
    ∃ t, exec (.gpioEdge n rise) s = .next t ∧ bit t.gio.pins n = rise ∧ rdb t (rk .gpio 0 0x010) n = true) ∧
  (∀ (m : Master) (v : Word) (s : State), reaches s m .gpio 0x048 = true →
    ∃ t, exec (.gpioSet m v) s = .next t ∧ rd t (gpioKey 0x044) = rd s (gpioKey 0x044) ||| v) ∧
  (∀ (m : Master) (v : Word) (s : State), reaches s m .gpio 0x04C = true →
    ∃ t, exec (.gpioClr m v) s = .next t ∧ rd t (gpioKey 0x044) = rd s (gpioKey 0x044) &&& ~~~ v) ∧
  (∀ (m : Master) (k : Fin 4) (s : State), reaches s m .i2c 0x044 = true → rdb s (i2cKey k 0x040) 0 = true → (i2c s k).acts = [] →
    ∃ t, exec (.i2cStart m k) s = .next t ∧ (i2c t k).acts = [(0, false)] ∧ rdb t (i2cKey k 0x04C) 0 = true) ∧
  (∀ (m : Master) (k : Fin 4) (s : State), reaches s m .i2c 0x044 = true → rdb s (i2cKey k 0x040) 0 = true → (i2c s k).acts = [] →
    ∃ t, exec (.i2cStop m k) s = .next t ∧ (i2c t k).acts = [(1, false)] ∧ rdb t (i2cKey k 0x04C) 0 = true) ∧
  (∀ (m : Master) (k : Fin 4) (s : State), reaches s m .i2c 0x044 = true → rdb s (i2cKey k 0x040) 0 = true → (i2c s k).acts = [] →
    ∃ t, exec (.i2cWrite m k) s = .next t ∧ (i2c t k).acts = [(2, false)] ∧ rdb t (i2cKey k 0x04C) 0 = true) ∧
  (∀ (m : Master) (k : Fin 4) (ack : Bool) (s : State), reaches s m .i2c 0x044 = true → rdb s (i2cKey k 0x040) 0 = true →
    (i2c s k).acts = [] →
    ∃ t, exec (.i2cRead m k ack) s = .next t ∧ (i2c t k).acts = [(3, ack)] ∧ rdb t (i2cKey k 0x04C) 0 = true) ∧
  (∀ (k : Fin 4) (nack : Bool) (byte : Byte) (ack : Bool) (s : State), fabricUp s = true → (i2c s k).acts = [(3, ack)] →
    pinAlt s (2 * k) = true → pinAlt s (2 * k + 1) = true →
    ∃ t, exec (.i2cDone k nack false byte) s = .next t ∧ (i2c t k).acts = [] ∧ rd t (i2cKey k 0x048) = byte.zeroExtend 32 ∧
      rd t (i2cKey k 0x04C) = 0 ∧ rdb t (rk .i2c k 0x010) 0 = true ∧ (i2c s k).since + i2cBits 3 * i2cBit s k ≤ t.now) ∧
  (∀ (k : Fin 4) (byte : Byte) (s : State), fabricUp s = true → (i2c s k).acts = [(2, false)] →
    pinAlt s (2 * k) = true → pinAlt s (2 * k + 1) = true →
    ∃ t, exec (.i2cDone k true false byte) s = .next t ∧ (i2c t k).acts = [] ∧ rd t (i2cKey k 0x048) = rd s (i2cKey k 0x048) ∧
      rd t (i2cKey k 0x04C) = 2 ∧ rdb t (rk .i2c k 0x010) 1 = true ∧ (i2c s k).since + i2cBits 2 * i2cBit s k ≤ t.now) ∧
  (∀ (k : Fin 4) (nack arb : Bool) (byte : Byte) (a : Nat) (ack : Bool) (s : State), fabricUp s = true →
    (i2c s k).acts = [(a, ack)] → (pinAlt s (2 * k) && pinAlt s (2 * k + 1)) = false →
    ∃ t, exec (.i2cDone k nack arb byte) s = .next t ∧ (i2c t k).acts = [] ∧ rdb t (i2cKey k 0x04C) 0 = false ∧
      rdb t (i2cKey k 0x04C) 2 = arb ∧ rdb t (rk .i2c k 0x010) 0 = true) ∧
  (∀ (k : Fin 4) (s : State), fabricUp s = true → (i2c s k).acts ≠ [] →
    ∃ t, exec (.i2cTimeout k) s = .next t ∧ (i2c t k).acts = [] ∧ rdb t (i2cKey k 0x04C) 3 = true ∧
      rdb t (i2cKey k 0x04C) 0 = false ∧ rdb t (rk .i2c k 0x010) 1 = true ∧
      (i2c s k).since + rdf s (i2cKey k 0x040) 8 8 * msec ≤ t.now) ∧
  (∀ (m : Master) (k : Fin 2) (v : Byte) (s : State), reaches s m .spi 0x048 = true → (spi s k).tx.length < 16 →
    ∃ t, exec (.spiTxdata m k v) s = .next t ∧ (spi t k).tx = (spi s k).tx ++ [v] ∧ (spi t k).rx = (spi s k).rx) ∧
  (∀ (m : Master) (k : Fin 2) (b : Byte) (bs : List Byte) (s : State), pageUp s .spi 0x04C = true → (spi s k).rx = b :: bs →
    ∃ t, exec (.spiRxdata m k) s = .next t ∧ t.bus.rdata = b.zeroExtend 32 ∧ t.bus.err = false ∧ (spi t k).rx = bs) ∧
  (∀ (k : Fin 2) (wire b : Byte) (a : Nat) (s : State), fabricUp s = true → (spi s k).due = some a → (spi s k).tx = [b] →
    (spi s k).rx.length < 16 → pinAlt s (10 + 4 * k) = true →
    ∃ t, exec (.spiByteDone k wire) s = .next t ∧ a ≤ t.now ∧ (spi t k).tx = [] ∧
      (spi t k).rx = (spi s k).rx ++ [wireOrder (rdb s (spiKey k 0x040) 3) wire] ∧
      (spi t k).wire = wireOrder (rdb s (spiKey k 0x040) 3) b ∧ rdb t (rk .spi k 0x010) 0 = true) ∧
  (∀ (k : Fin 2) (wire b : Byte) (a : Nat) (s : State), fabricUp s = true → (spi s k).due = some a → (spi s k).tx = [b] →
    (spi s k).rx.length < 16 → pinAlt s (10 + 4 * k) = false →
    ∃ t, exec (.spiByteDone k wire) s = .next t ∧ a ≤ t.now ∧ (spi t k).tx = [] ∧
      (spi t k).rx.length = (spi s k).rx.length + 1 ∧ (spi t k).rx.take (spi s k).rx.length = (spi s k).rx ∧
      (spi t k).wire = wireOrder (rdb s (spiKey k 0x040) 3) b ∧ rdb t (rk .spi k 0x010) 0 = true) ∧
  (∀ (m : Master) (k : Fin 2) (v : Byte) (s : State), reaches s m .uart 0x048 = true → (uart s k).tx.length < 16 →
    ∃ t, exec (.uartTx m k v) s = .next t ∧ (uart t k).tx = (uart s k).tx ++ [v] ∧ (uart t k).rx = (uart s k).rx) ∧
  (∀ (m : Master) (k : Fin 2) (w : Word) (ws : List Word) (s : State), pageUp s .uart 0x04C = true → (uart s k).rx = w :: ws →
    ∃ t, exec (.uartRx m k) s = .next t ∧ t.bus.rdata = w ∧ t.bus.err = false ∧ (uart t k).rx = ws) ∧
  (∀ (k : Fin 2) (v : Byte) (s : State), fabricUp s = true → rdb s (uartKey k 0x040) 0 = true → (uart s k).rx.length < 16 →
    pinAlt s (17 + 4 * k) = true →
    ∃ t, exec (.uartRxByte k v false false) s = .next t ∧ (uart t k).rx = (uart s k).rx ++ [wNat (v.toNat + 256)] ∧
      rdb t (rk .uart k 0x010) 0 = true) ∧
  (∀ (k : Fin 2) (b : Byte) (a : Nat) (s : State), fabricUp s = true → (uart s k).due = some a → (uart s k).tx = [b] →
    ∃ t, exec (.uartTxByteDone k) s = .next t ∧ a ≤ t.now ∧ (uart t k).tx = [] ∧ (uart t k).wire = b ∧
      rdb t (rk .uart k 0x010) 1 = true)

/-- ETHERNET: ring tails are written, frames are sent and received through descriptors, and management frames are exchanged
(R592 to R595). The bounds of a ring's length, group addresses taken in, a MAC that does nothing in half duplex at 1000 Mb/s, and the
25.6 µs of a management frame (64 bits of 2.5 MHz) are the model's (log entry 47). -/
def Obligations.EthernetCompletes : Prop :=
  (∀ (m : Master) (e : Fin 2) (v : Word) (s : State), reaches s m .eth 0x058 = true →
    ∃ t, exec (.ethTxTail m e v) s = .next t ∧ rd t (ethKey e 0x058) = v) ∧
  (∀ (m : Master) (e : Fin 2) (v : Word) (s : State), reaches s m .eth 0x068 = true →
    ∃ t, exec (.ethRxTail m e v) s = .next t ∧ rd t (ethKey e 0x068) = v) ∧
  (∀ (e : Fin 2) (sfd : Nat) (bs : List Byte) (s : State), ethWorks s e = true → rdb s (ethKey e 0x040) 3 = true →
    descReady s e 0x050 = true → datumValid s = false →
    bs = memBytes s (descBuf s (descAddr s e 0x050 (ringHead s e 0x050)))
      (leNat (memBytes s (descAddr s e 0x050 (ringHead s e 0x050) + 4) 2)) →
    (ethFrame bs).length ≤ frameMax s e →
    ∃ t, exec (.txDone e false sfd) s = .next t ∧
      ringHead t e 0x050 = (ringHead s e 0x050 + 1) % ringLen s e 0x050 ∧ smGet (smConst []) t.gio.sent e = ethFrame bs ∧
      rd t (ethKey e 0x080) = rd s (ethKey e 0x080) + 1 ∧ rdb t (rk .eth e 0x010) 0 = true) ∧
  (∀ (e : Fin 2) (frame : List Byte) (sfd : Nat) (s : State), ethWorks s e = true → rdb s (ethKey e 0x040) 4 = true →
    addrTaken s e frame = true → descReady s e 0x060 = true → datumValid s = false → frameBad s e frame = false →
    ∃ t, exec (.rxDone e frame false sfd) s = .next t ∧
      ringHead t e 0x060 = (ringHead s e 0x060 + 1) % ringLen s e 0x060 ∧
      rd t (ethKey e 0x078) = rd s (ethKey e 0x078) + 1 ∧ rdb t (rk .eth e 0x010) 1 = true) ∧
  (∀ (e : Fin 2) (frame : List Byte) (err : Bool) (sfd : Nat) (s : State), ethWorks s e = true → rdb s (ethKey e 0x040) 4 = true →
    addrTaken s e frame = true → descReady s e 0x060 = true → datumValid s = false → (err || frameBad s e frame) = true →
    ∃ t, exec (.rxDone e frame err sfd) s = .next t ∧
      ringHead t e 0x060 = (ringHead s e 0x060 + 1) % ringLen s e 0x060 ∧
      rd t (ethKey e 0x07C) = rd s (ethKey e 0x07C) + 1 ∧ rd t (ethKey e 0x078) = rd s (ethKey e 0x078)) ∧
  (∀ (e : Fin 2) (frame : List Byte) (err : Bool) (sfd : Nat) (s : State), ethWorks s e = true →
    rdb s (ethKey e 0x040) 4 = true → addrTaken s e frame = true → descReady s e 0x060 = false →
    ∃ t, exec (.rxDone e frame err sfd) s = .next t ∧ t.mem = s.mem ∧ rdb t (ethKey e 0x04C) 1 = true ∧
      rd t (ethKey e 0x084) = rd s (ethKey e 0x084) + 1 ∧ rdb t (rk .eth e 0x010) 2 = true) ∧
  (∀ (m : Master) (e : Fin 2) (v : BitVec 11) (s : State), reaches s m .eth 0x070 = true → rdb s (ethKey e 0x070) 11 = false →
    ∃ t, exec (.mdioGo m e v) s = .next t ∧ rdb t (ethKey e 0x070) 11 = true ∧ rdf t (ethKey e 0x070) 0 11 = v.toNat ∧
      smGet (smConst (0, 0)) t.gio.mdio e = (s.now, wNat v.toNat)) ∧
  (∀ (m : Master) (e : Fin 2) (v : BitVec 11) (s : State), reaches s m .eth 0x070 = true → rdb s (ethKey e 0x070) 11 = true →
    ∃ t, exec (.mdioGo m e v) s = .next t ∧ rdb t (ethKey e 0x070) 11 = true ∧ rdf t (ethKey e 0x070) 0 11 = v.toNat ∧
      t.gio.mdio = s.gio.mdio) ∧
  (∀ (e : Fin 2) (v : BitVec 16) (f : Nat × Word) (s : State), live s .eth = true → rdb s (ethKey e 0x070) 11 = true →
    f = smGet (smConst (0, 0)) s.gio.mdio e →
    ∃ t, exec (.mdioDone e v) s = .next t ∧ rdb t (ethKey e 0x070) 11 = false ∧ rdb t (rk .eth e 0x010) 3 = true ∧
      f.1 + 1280000 ≤ t.now ∧ rd t (ethKey e 0x074) = (if bit f.2 10 then wNat v.toNat else rd s (ethKey e 0x074)))

/-- FAILED UNLOCKS (R406): a wrong password raises FAILS and keeps the level; the fifth failure locks the machine out, for
15 minutes doubled with every lockout since the last success; during a lockout, unlock commands are refused without
comparison. That a command needs room in the staging buffer follows R408. -/
def Obligations.FailedUnlocksLockOut : Prop :=
  (∀ (m : Master) (len : BitVec 6) (h : List Word) (s : State), reaches s m .plumb 0x114 = true → heldBehind s m false = false →
    stagingFull s = false →
    s.pw.lockout = false → 8 ≤ len.toNat → len.toNat ≤ 32 → s.pw.siteHash = some h → pwHash s len.toNat ≠ h →
    s.pw.fails + 1 < 5 →
    ∃ t, exec (.unlockSite m len) s = .next t ∧ t.pw.fails = s.pw.fails + 1 ∧ t.pw.level = s.pw.level ∧
      t.pw.lockout = false ∧ t.pw.data = []) ∧
  (∀ (m : Master) (len : BitVec 6) (h : List Word) (s : State), reaches s m .plumb 0x114 = true → heldBehind s m false = false →
    stagingFull s = false →
    s.pw.lockout = false → 8 ≤ len.toNat → len.toNat ≤ 32 → s.pw.makerHash = some h → pwHash s len.toNat ≠ h →
    s.pw.fails = 4 →
    ∃ t, exec (.unlockMaker m len) s = .next t ∧ t.pw.lockout = true ∧ t.pw.level = 0 ∧ t.pw.fails = 0 ∧
      t.pw.lockouts = s.pw.lockouts + 1 ∧ t.pw.data = [] ∧
      t.pw.lockEnd = s.now + min 1440 (15 * 2 ^ s.pw.lockouts) * 60 * 50000000000) ∧
  (∀ (m : Master) (len : BitVec 6) (s : State), reaches s m .plumb 0x114 = true → heldBehind s m false = false → s.pw.lockout = true →
    ∃ t, exec (.unlockSite m len) s = .next t ∧ t.pw.lockout = true ∧ t.pw.level = s.pw.level ∧ t.pw.fails = s.pw.fails ∧
      t.pw.lockEnd = s.pw.lockEnd ∧ t.pw.data = [] ∧ rdb t (rk .plumb 0 0x010) 10 = true) ∧
  (∀ (m : Master) (len : BitVec 6) (s : State), reaches s m .plumb 0x114 = true → heldBehind s m false = false → s.pw.lockout = true →
    ∃ t, exec (.unlockMaker m len) s = .next t ∧ t.pw.lockout = true ∧ t.pw.level = s.pw.level ∧ t.pw.fails = s.pw.fails ∧
      t.pw.lockEnd = s.pw.lockEnd ∧ t.pw.data = [] ∧ rdb t (rk .plumb 0 0x010) 10 = true)

/-- THE EMPTY MAKER PASSWORD (R407): until a maker password is set, DEFAULT reads 1, LEN 0 unlocks the maker level and a LEN
from 8 to 32 fails and counts; once one is set, DEFAULT reads 0 and LEN 0 is refused; until a site password is set,
UNLOCK_SITE is refused and counts nothing. That an accepted command needs room in the staging buffer, and is none during a
lockout, follows R406 and R408. -/
def Obligations.EmptyMakerPassword : Prop :=
  (∀ (m : Master) (s : State), reaches s m .plumb 0x114 = true → heldBehind s m false = false → stagingFull s = false →
    s.pw.lockout = false →
    s.pw.makerHash = none →
    ∃ t, exec (.unlockMaker m 0#6) s = .next t ∧ t.pw.level = 2 ∧ bit (pwStat s) 3 = true ∧ bit (pwStat t) 3 = true) ∧
  (∀ (m : Master) (len : BitVec 6) (s : State), reaches s m .plumb 0x114 = true → heldBehind s m false = false → stagingFull s = false →
    s.pw.lockout = false → s.pw.makerHash = none → 8 ≤ len.toNat → len.toNat ≤ 32 → s.pw.fails + 1 < 5 →
    ∃ t, exec (.unlockMaker m len) s = .next t ∧ t.pw.level = s.pw.level ∧ t.pw.fails = s.pw.fails + 1) ∧
  (∀ (m : Master) (len : BitVec 6) (s : State), reaches s m .plumb 0x114 = true → heldBehind s m false = false → stagingFull s = false →
    s.pw.lockout = false → s.pw.makerHash = none → 8 ≤ len.toNat → len.toNat ≤ 32 → s.pw.fails = 4 →
    ∃ t, exec (.unlockMaker m len) s = .next t ∧ t.pw.lockout = true) ∧
  (∀ (m : Master) (h : List Word) (s : State), reaches s m .plumb 0x114 = true → heldBehind s m false = false → s.pw.makerHash = some h →
    ∃ t, exec (.unlockMaker m 0#6) s = .next t ∧ t.pw.level = s.pw.level ∧ t.pw.fails = s.pw.fails ∧
      t.pw.lockout = s.pw.lockout ∧ bit (pwStat s) 3 = false ∧ rdb t (rk .plumb 0 0x010) 10 = true) ∧
  (∀ (m : Master) (len : BitVec 6) (s : State), reaches s m .plumb 0x114 = true → heldBehind s m false = false → s.pw.siteHash = none →
    ∃ t, exec (.unlockSite m len) s = .next t ∧ t.pw.level = s.pw.level ∧ t.pw.fails = s.pw.fails ∧
      t.pw.lockout = s.pw.lockout ∧ rdb t (rk .plumb 0 0x010) 10 = true)

/-- GUARDED REGISTERS (R405, R408, R566): at level LOCKED, and during a lockout, a write of a guarded register is ignored and
counted in DENIED; on the EVR page it raises REFUSED as well; a preset needs the maker level; a full staging buffer refuses
the write. The registers are those of the write counted (R527), before its effect (log entry 9). -/
def Obligations.GuardedRegistersNeedALevel : Prop :=
  (∀ (m : Master) (v : BitVec 16) (s : State), reaches s m .sys 0x040 = true → (s.pw.lockout = true ∨ s.pw.level = 0) →
    ∃ t, exec (.pdCtlWrite m v) s = .next t ∧ t.regs = (countedWrite m .sys 0 0x040 s).regs ∧ t.pwr = s.pwr ∧ t.fb = s.fb ∧
      t.pw.denied = min 255 (s.pw.denied + 1)) ∧
  (∀ (m : Master) (i : Fin 3) (v : BitVec 16) (s : State), reaches s m .evr 0x040 = true →
    (s.pw.lockout = true ∨ s.pw.level = 0) →
    ∃ t, exec (.deadlineWrite m i v) s = .next t ∧ rd t (rk .evr 0 (0x040 + 4 * i)) = rd s (rk .evr 0 (0x040 + 4 * i)) ∧
      t.fb = s.fb ∧ t.pw.denied = min 255 (s.pw.denied + 1) ∧ rdb t (rk .evr 0 0x010) 6 = true) ∧
  (∀ (m : Master) (p : Fin 4) (s : State), reaches s m .mtr 0x050 = true → s.pw.level < 2 →
    ∃ t, exec (.preset m p) s = .next t ∧ t.meters = s.meters ∧ t.fb = s.fb ∧ t.pw.denied = min 255 (s.pw.denied + 1)) ∧
  (∀ (m : Master) (v : BitVec 16) (s : State), reaches s m .sys 0x040 = true → s.pw.lockout = false → s.pw.level ≠ 0 →
    stagingFull s = true →
    ∃ t, exec (.pdCtlWrite m v) s = .next t ∧ rd t (sysKey 0x040) = rd s (sysKey 0x040) ∧ t.pwr = s.pwr ∧ t.fb = s.fb ∧
      t.pw.denied = s.pw.denied ∧ rdb t (rk .sys 0 0x010) 3 = true)

/-- THE END OF AN ORDERLY STOP (R483): CLR_STOP ends it only in STOPPED and only when the last guard scan found every sensor
cool; otherwise it is refused and REFUSED raised. Ports, rails, trackers and the latched sets stay as they are. A scan found every
sensor cool where each of its results lies below STOP_TH - HYST. -/
def Obligations.StopIsClearedOnlyWhenCool : Prop :=
  (∀ (m : Master) (s : State), reaches s m .therm 0x050 = true → s.therm.stopped = true → s.therm.scanCool = true →
    ∃ t, exec (.clrStop m) s = .next t ∧ t.therm.stopped = false ∧ t.grids = s.grids ∧ t.rails = s.rails ∧
      t.trackers = s.trackers ∧ t.sets = s.sets) ∧
  (∀ (m : Master) (s : State), reaches s m .therm 0x050 = true → (s.therm.stopped = false ∨ s.therm.scanCool = false) →
    ∃ t, exec (.clrStop m) s = .next t ∧ t.therm = s.therm ∧ rdb t (rk .therm 0 0x010) 4 = true ∧ t.grids = s.grids ∧
      t.rails = s.rails ∧ t.trackers = s.trackers ∧ t.sets = s.sets) ∧
  (∀ (temps : List Int) (s : State), thermOn s = true → s.therm.running ≠ 0 → s.therm.runScan = true → s.pwr.cut = false →
    (∀ x ∈ temps, x < 2240) →
    ∃ t, exec (.measurementDone temps) s = .next t ∧
      t.therm.scanCool = (setBits s.therm.running 24).all fun n =>
        decide (temps.getD n 0 < stopTh s - 16 * (rdf s (thermKey 0x040) 8 8 : Int)))

/-- OCCURRENCES (R435 to R437): an occurrence of a routed event joins its source's queue while the queue holds fewer than four;
in a full queue it is merged into the newest one, whose count holds at 15, MERGE_CNT steps and MERGE is raised; where the route
enables no channel it is dropped; one source makes one occurrence in a CLK_FAB cycle. The registers are those of the write
counted (R527), before its effect (log entry 9). -/
def Obligations.OccurrencesQueueOrMerge : Prop :=
  (∀ (m : Master) (j : Fin 8) (s : State), reaches s m .evr 0x054 = true →
    routed (rd s (rk .evr 0 (0x800 + 4 * (504 + j)))) = true → (srcQ s (504 + j)).last ≠ some (s.now / 80) →
    (srcQ s (504 + j)).q.length < 4 →
    ∃ t, exec (.swRaise m (1#8 <<< j.val)) s = .next t ∧
      (srcQ t (504 + j)).q.length = (srcQ s (504 + j)).q.length + 1 ∧ t.regs = (countedWrite m .evr 0 0x054 s).regs ∧
      (srcQ t (504 + j)).q.take (srcQ s (504 + j)).q.length = (srcQ s (504 + j)).q) ∧
  (∀ (m : Master) (j : Fin 8) (a b c d : Occ) (s : State), reaches s m .evr 0x054 = true →
    routed (rd s (rk .evr 0 (0x800 + 4 * (504 + j)))) = true → (srcQ s (504 + j)).last ≠ some (s.now / 80) →
    (srcQ s (504 + j)).q = [a, b, c, d] → (rdb s (rk .evr 0 0x014) 2 = true → (srcQ (countedWrite m .evr 0 0x054 s) 503).q.length < 4) →
    ∃ t, exec (.swRaise m (1#8 <<< j.val)) s = .next t ∧
      (srcQ t (504 + j)).q = [a, b, c, { d with merged := min 15 (d.merged + 1) }] ∧
      rd t (rk .evr 0 0x050) = rd (countedWrite m .evr 0 0x054 s) (rk .evr 0 0x050) + 1 ∧ rdb t (rk .evr 0 0x010) 2 = true) ∧
  (∀ (m : Master) (j : Fin 8) (s : State), reaches s m .evr 0x054 = true →
    (routed (rd s (rk .evr 0 (0x800 + 4 * (504 + j)))) = false ∨ (srcQ s (504 + j)).last = some (s.now / 80)) →
    ∃ t, exec (.swRaise m (1#8 <<< j.val)) s = .next t ∧ (srcQ t (504 + j)).q = (srcQ s (504 + j)).q ∧
      t.regs = (countedWrite m .evr 0 0x054 s).regs)

/-- PAGES THAT ARE NOT REACHED (R61, R565): while a page's domain is off, or the fabric is not up, a read of the page answers 0
and changes nothing; a write is ignored. The access alone is counted (R527). That a write then still takes its bus cycle, and
that an access not answered is counted, are the model's choices (log entries 4 and 9). -/
def Obligations.UnreachedPagesReadZero : Prop :=
  (∀ (m : Master) (n : Fin 32) (i : Fin 20) (s : State), pageUp s .adc 0x100 = false →
    ∃ t, exec (.resultRead m n i) s = .next t ∧
      t = { countedRead m .adc n (if i.val < 16 then 0x100 + 4 * i else 0x110 + 4 * i) s with bus := { rdata := 0, err := false } }) ∧
  (∀ (m : Master) (n : Fin 32) (s : State), pageUp s .adc 0x060 = false →
    ∃ t, exec (.avgRead m n) s = .next t ∧ t = { countedRead m .adc n 0x060 s with bus := { rdata := 0, err := false } }) ∧
  (∀ (m : Master) (p : Fin 4) (k : Fin 7) (s : State), pageUp s .mtr 0x100 = false →
    ∃ t, exec (.eLoRead m p k) s = .next t ∧ t = { countedRead m .mtr p (0x100 + 8 * k) s with bus := { rdata := 0, err := false } }) ∧
  (∀ (m : Master) (s : State), pageUp s .snd 0x044 = false →
    ∃ t, exec (.capDataRead m) s = .next t ∧ t = { countedRead m .snd 0 0x044 s with bus := { rdata := 0, err := false } }) ∧
  (∀ (m : Master) (s : State), pageUp s .mppt 0x050 = false →
    ∃ t, exec (.swpPRead m) s = .next t ∧ t = { countedRead m .mppt 0 0x050 s with bus := { rdata := 0, err := false } }) ∧
  (∀ (m : Master) (s : State), pageUp s .datum 0x084 = false →
    ∃ t, exec (.timeLoRead m) s = .next t ∧ t = { countedRead m .datum 0 0x084 s with bus := { rdata := 0, err := false } }) ∧
  (∀ (m : Master) (n : Fin 64) (s : State), pageUp s .evr 0x408 = false →
    ∃ t, exec (.rec0Read m n) s = .next t ∧ t = { countedRead m .evr 0 (0x408 + 16 * n) s with bus := { rdata := 0, err := false } }) ∧
  (∀ (m : Master) (k : Fin 2) (s : State), pageUp s .uart 0x04C = false →
    ∃ t, exec (.uartRx m k) s = .next t ∧ t = { countedRead m .uart k 0x04C s with bus := { rdata := 0, err := false } }) ∧
  (∀ (m : Master) (v : Word) (s : State), pageUp s .gpio 0x048 = false →
    ∃ t, exec (.gpioSet m v) s = .next t ∧ t = { countedWrite m .gpio 0 0x048 s with now := s.now + 80 }) ∧
  (∀ (m : Master) (k : Fin 32) (s : State), pageUp s .adc 0x080 = false →
    ∃ t, exec (.swStart m k) s = .next t ∧ t = { countedWrite m .adc k 0x080 s with now := s.now + 80 }) ∧
  (∀ (m : Master) (r : Fin 2) (s : State), pageUp s .ring 0x044 = false →
    ∃ t, exec (.join m r) s = .next t ∧ t = { countedWrite m .ring r 0x044 s with now := s.now + 80 }) ∧
  (∀ (m : Master) (p : Fin 4) (s : State), pageUp s .mtr 0x050 = false →
    ∃ t, exec (.mtrDisable m p) s = .next t ∧ t = { countedWrite m .mtr p 0x050 s with now := s.now + 80 }) ∧
  (∀ (m : Master) (s : State), pageUp s .pair 0x090 = false →
    ∃ t, exec (.go m) s = .next t ∧ t = { countedWrite m .pair 0 0x090 s with now := s.now + 80 })

/-- ONE STEP TAKES THE FRONT COMMAND: step of a state whose queue has `c` at its front is exec of `c` on the state with the
queue's rest; on an empty queue the block idles. That commands wait in a queue, first in first out, and the idling are the
model's choices (log entry 1). -/
def Obligations.StepRunsTheFrontCommand : Prop :=
  (∀ (c : Instr) (rest : List Instr) (s : State), s.pending = c :: rest → step s = exec c { s with pending := rest }) ∧
  (∀ s : State, s.pending = [] → step s = .next s)

/-- EVERY COMMAND ANSWERS A NEXT STATE, leaves the queue of waiting commands alone, and does not turn time back. That a command
that finds no occasion is a no-operation, the queue, and time carried by the commands are the model's choices (log entries 12,
1 and 13). -/
def Obligations.EveryCommandAnswersInTime : Prop :=
  ∀ (c : Instr) (s : State), ∃ t, exec c s = .next t ∧ t.pending = s.pending ∧ s.now ≤ t.now

/-- WHAT POWER-ON RESET LEAVES (R410, R157, R101, R248, R263, R349, R377, R431): SPO demanded by START alone, the password level
LOCKED, Saddle mode NORMAL, every SAFE_OUT off, every connection idle; every leg in CD0 with OUTMODE and GATE off, leg 0 with a
period of 500 µs; lanes disabled with bank 0 active, no swap pending, DISC_LIMIT 8; islanding function, trackers, Datum and pair
off; every stream closed; FORD_CTL_N and CLAIM_OWN_N released; the queue of commands empty (the queue is the model's, log entry 1). -/
def Obligations.PowerOnResetState : Prop :=
  let s := State.reset
  (s.plumb.spo = true ∧ s.plumb.seen = 1 ∧ s.plumb.active = 1 ∧ s.pw.level = 0 ∧ s.pw.lockout = false ∧
    s.plumb.saddle = .normal ∧ (∀ n : Fin 4, (sout s n).st = .open ∧ (sout s n).energised = false) ∧ s.conns = []) ∧
  ((∀ l : Fin 96, legDom s l = 0 ∧ outMode s l = 0 ∧ gateOf s l = 0) ∧ inForce s (legKey 0 0x04) = 0x02625A00) ∧
  ((∀ n : Fin 32, laneOn s n = false ∧ (lane s n).active = false ∧ (lane s n).dueSwap = none ∧ rdf s (laneKey n 0x040) 16 8 = 8) ∧
    s.eng.global = .none) ∧
  (s.isl.st = 0 ∧ (∀ k : Fin 24, (tracker s k).st = 0) ∧ s.datum.st = .off ∧ s.pair.st = 0 ∧ s.pair.own = false) ∧
  ((∀ n : Fin 1024, (rstream s n).st = 0) ∧ fordCtlLow s = false ∧ claimOwnLow s = false ∧ s.pending = [])

/-- CONVERTERS AFTER POWER-ON RESET (R59). -/
def Obligations.ConvertersAfterReset : Prop :=
  ∀ n : Fin 32,
    (actf State.reset (rk .adc n 0x040) 0 2 = 0 ∧ actf State.reset (rk .adc n 0x040) 2 1 = 0 ∧
      actf State.reset (rk .adc n 0x040) 3 1 = 0 ∧ actf State.reset (rk .adc n 0x040) 9 2 = 0) ∧
    (inForce State.reset (rk .adc n 0x048) = 0 ∧ inForce State.reset (rk .adc n 0x04C) = 0x3F800000) ∧
    ([0x060, 0x064, 0x068, 0x06C, 0x070, 0x074, 0x100, 0x104, 0x108, 0x10C, 0x110, 0x114, 0x118, 0x11C, 0x120, 0x124,
        0x128, 0x12C, 0x130, 0x134, 0x138, 0x13C, 0x150, 0x154, 0x158, 0x15C].all fun off =>
      pageValue State.reset .adc n off == 0) = true

/-- THE STATE AFTER RESET IS SOUND: its memory and register files are in their canonical form and the router's queues within
their depths (R436, R440). -/
def Obligations.ResetStateIsSound : Prop := Good State.reset

/-- EVERY STEP KEEPS A SOUND STATE SOUND: the canonical form of the memory and of the register files, at most four occurrences
in a source's queue (R436) and at most eight records in a channel's (R440). -/
def Obligations.StepsKeepSoundness : Prop := ∀ s t : State, Good s → step s = .next t → Good t

/-- SPO HOLDS UNTIL A RELEASE (R385): after any command but the release, the end of the self-test, the end of a reset and a bus
write, an SPO that was latched still is, and every PWM and driver pin is low, in EXTEST too. -/
def Obligations.SpoHoldsUntilARelease : Prop :=
  ∀ (c : Instr) (s t : State), mayReleaseSpo c = false → s.plumb.spo = true → exec c s = .next t →
    t.plumb.spo = true ∧ OutputsLow t

/-- SPO HOLDS THE PINS LOW (R3, R383): in every state in which SPO is latched, PWM_A, PWM_B, DRV_HO and DRV_LO are low, a floor
clamp and EXTEST (R531) notwithstanding. The 1 µs R383 allows is not waited for (log entry 7). -/
def Obligations.SpoHoldsThePinsLow : Prop := ∀ s : State, s.plumb.spo = true → OutputsLow s

/-- NEVER BOTH SWITCHES ON (R2): in every state, no leg has PWM_A and PWM_B high together, and no direct phase DRV_HO and
DRV_LO, on whatever rank the levels come from, and in EXTEST whatever the boundary cells hold. -/
def Obligations.NeverBothSwitchesOn : Prop :=
  ∀ s : State, (∀ l, pwmPins s l ≠ (true, true)) ∧ (∀ p, drvPins s p ≠ (true, true)) ∧
    (∀ l : Fin 96, pwmOut s l ≠ (.high, .high)) ∧ ∀ p : Fin 16, drvOut s p ≠ (.high, .high)

/-- A COMMAND THAT STORES NOTHING LEAVES EVERY BYTE OF MEMORY, wherever it lies. -/
def Obligations.MemoryKeptWhereNothingIsStored : Prop :=
  ∀ (c : Instr) (s t : State), storesMemory c = false → exec c s = .next t → ∀ a, memRd t a = memRd s a

/-- A STORE STAYS IN ITS PLACE: a word of the NV store written or queued, a sent and a received Ethernet frame, a handover set
made visible, a settings slot, a word of ring memory, bytes of SRAM, a write of engine memory, the drain of a lane and the start
of its next pass, an entry of the field book, a monument record, and a received cell change no byte outside what is stored
(R75, R90, R290, R341, R351, R409, R514, R525, R552, R553, R593). A drain and a reversal also carry out bus writes that were
held back (R75). That a full queue of the NV store first writes its oldest word is log entry 44. -/
def Obligations.StoresStayInPlace : Prop :=
  (∀ (e : Nat × List Byte × Doer) (q : List (Nat × List Byte × Doer)) (s t : State), s.nvm.queue = e :: q →
    exec .nvWordWritten s = .next t → ∀ a, (a < e.1 ∨ e.1 + e.2.1.length ≤ a) → memRd t a = memRd s a) ∧
  (∀ (m : Master) (b : Nat) (bytes : List Byte) (e : Nat × List Byte × Doer) (q : List (Nat × List Byte × Doer)) (s t : State),
    s.nvm.queue = e :: q → exec (.nvWrite m b bytes) s = .next t →
    ∀ a, (a < e.1 ∨ e.1 + e.2.1.length ≤ a) → memRd t a = memRd s a) ∧
  (∀ (m : Master) (b : Nat) (bytes : List Byte) (s t : State), s.nvm.queue.length < 16 →
    exec (.nvWrite m b bytes) s = .next t → ∀ a, memRd t a = memRd s a) ∧
  (∀ (e : Fin 2) (err : Bool) (sfd : Nat) (s t : State), exec (.txDone e err sfd) s = .next t →
    ∀ a, (a < descAddr s e 0x050 (ringHead s e 0x050) + 6 ∨ descAddr s e 0x050 (ringHead s e 0x050) + 16 ≤ a) →
      memRd t a = memRd s a) ∧
  (∀ (e : Fin 2) (frame : List Byte) (err : Bool) (sfd : Nat) (s t : State), exec (.rxDone e frame err sfd) s = .next t →
    ∀ a, (a < descAddr s e 0x060 (ringHead s e 0x060) + 4 ∨ descAddr s e 0x060 (ringHead s e 0x060) + 16 ≤ a) →
      (a < descBuf s (descAddr s e 0x060 (ringHead s e 0x060)) ∨
        descBuf s (descAddr s e 0x060 (ringHead s e 0x060)) + min (frameMax s e) (frame.length - 4) ≤ a) →
      memRd t a = memRd s a) ∧
  (∀ (ok : Bool) (s t : State), exec (.handed ok) s = .next t →
    ∀ a, (a < sramBase + 256 * s.upd.hoDst ∨ sramBase + 256 * s.upd.hoDst + s.upd.capture.length ≤ a) →
      (∀ i ∈ heldWords s, OffTileWord s a i) → memRd t a = memRd s a) ∧
  (∀ (s t : State), exec .slotCommitDone s = .next t →
    ∀ a, (a < slotBase s.upd.slotNo ∨ slotBase s.upd.slotNo + s.upd.slotBytes.length + 4 ≤ a) → memRd t a = memRd s a) ∧
  (∀ (m : Master) (v : Word) (s t : State), exec (.rmemDataAccess m (some v)) s = .next t →
    ∀ a, (a < ringBase + 4 * rdf s (ringKey 0 0x0D0) 0 16 ∨ ringBase + 4 * rdf s (ringKey 0 0x0D0) 0 16 + 4 ≤ a) →
      memRd t a = memRd s a) ∧
  (∀ (m : Master) (b : Nat) (bytes : List Byte) (s t : State), sramBase ≤ b → b < sramBase + 0x400000 →
    exec (.registerWrite m b bytes) s = .next t → ∀ a, (a < b ∨ b + bytes.length ≤ a) → memRd t a = memRd s a) ∧
  (∀ (m : Master) (b : Nat) (ws : List Word) (s t : State), exec (.engineMemoryWrite m b ws) s = .next t →
    ∀ a, (∀ i, i < ws.length → OffTileWord s a (engOff (b + 4 * i) / 4)) → memRd t a = memRd s a) ∧
  (∀ (n : Fin 32) (dr : Drain) (s t : State), (lane s n).drain = some dr → exec (.drainComplete n) s = .next t →
    ∀ a, (∀ w ∈ dr.sts, OffTileWord s a w.1) → (∀ i ∈ heldWords s, OffTileWord s a i) → memRd t a = memRd s a) ∧
  (∀ (n : Fin 32) (dr : Drain) (s t : State), (lane s n).drain = some dr → exec (.passStart n) s = .next t →
    ∀ a, (∀ w ∈ dr.sts, OffTileWord s a w.1) → (∀ i ∈ heldWords s, OffTileWord s a i) → memRd t a = memRd s a) ∧
  (∀ (n : Fin 32) (s t : State), (lane s n).drain = none → exec (.passStart n) s = .next t → ∀ a, memRd t a = memRd s a) ∧
  (∀ (ok : Bool) (s t : State), exec (.fbDrain ok) s = .next t →
    ∀ a, (a < fbAddr s.fb.pos ∨ fbAddr s.fb.pos + 32 ≤ a) → memRd t a = memRd s a) ∧
  (∀ (m : MonSnap) (s t : State), s.monument.busy = some m → exec .monumentWritten s = .next t →
    ∀ a, (a < monHalf (monTarget s) ∨ monHalf (monTarget s) + (recordBytes s (monTarget s) m).length ≤ a) →
      memRd t a = memRd s a) ∧
  (∀ (r : Fin 2) (body : List Byte) (errs : Nat) (bad : Bool) (x : RxCell) (s t : State), (link s r).rx = some x →
    cellType (x.hdr ++ padTo 52 body) = 1 → gatewayPeer s (cellStream (x.hdr ++ padTo 52 body)) = none →
    exec (.cellEnd r body errs bad) s = .next t →
    ∀ a, OffSlots s (cellStream (x.hdr ++ padTo 52 body)) a → memRd t a = memRd s a) ∧
  (∀ (r : Fin 2) (body : List Byte) (errs : Nat) (bad : Bool) (s t : State), exec (.cellEnd r body errs bad) s = .next t →
    ∀ a, (∀ n, OffSlots s n a) → memRd t a = memRd s a)

/-- WHAT A COMMAND LEAVES ALONE: every part of the state that its row of `touched` does not list is as it was. The parts are the
fields of State: the register file, the values in force, the memories, and the hidden state of every unit. -/
def Obligations.CommandsKeepOtherParts : Prop :=
  ∀ (c : Instr) (s t : State), exec c s = .next t → ∀ p : Part, p ∉ touched c → p.same s t

/-- WHICH REGISTERS A COMMAND LEAVES ALONE, for the commands with a row of `registersOf`: every register outside that row holds
what it held, and every value in force stays. -/
def Obligations.CommandsKeepOtherRegisters : Prop :=
  ∀ (c : Instr) (ks : List Nat), registersOf c = some ks → ∀ s t : State, exec c s = .next t →
    (∀ k, k ∉ ks → rd t k = rd s k) ∧ ∀ k, inForce t k = inForce s k
end

