-- ==== Sys2Proof/Laws/Bits.lean ====
section
/-! SUPPORT. Bit fields: a field read after it is written, and the bits outside a written field. -/

namespace Sys2Proof.Machine

theorem fmask_getLsbD (lo n i : Nat) (hi : i < 32) : (fmask lo n).getLsbD i = decide (lo ≤ i ∧ i < lo + n) := by
  unfold fmask
  rw [BitVec.getLsbD_ofNat, Nat.testBit_shiftLeft, Nat.testBit_two_pow_sub_one]
  simp only [hi, decide_true, Bool.true_and]
  rw [← Bool.decide_and]
  congr 1
  apply propext
  constructor <;> intro h <;> omega

/-- The bits of a word after a field of it is written. -/
theorem bit_setFld (w : Word) (lo n v i : Nat) (hi : i < 32) :
    bit (setFld w lo n v) i = if lo ≤ i ∧ i < lo + n then (v % 2 ^ n).testBit (i - lo) else bit w i := by
  unfold bit setFld
  simp only [BitVec.getLsbD_or, BitVec.getLsbD_and, BitVec.getLsbD_not, fmask_getLsbD _ _ _ hi, hi, decide_true, Bool.true_and,
    BitVec.getLsbD_ofNat, Nat.testBit_shiftLeft]
  split_ifs with h
  · have : i ≥ lo := h.1
    simp [h, this]
  · by_cases h1 : lo ≤ i
    · have h2 : n ≤ i - lo := by omega
      have h3 : ¬ i < lo + n := by omega
      simp [h1, h3, Nat.testBit_mod_two_pow, Nat.not_lt.mpr h2]
    · simp [h1]

theorem fld_testBit (w : Word) (lo n i : Nat) : (fld w lo n).testBit i = (decide (i < n) && bit w (lo + i)) := by
  unfold fld bit
  rw [Nat.testBit_mod_two_pow, Nat.testBit_shiftRight]
  rfl

/-- A field read after it is written. -/
theorem fld_setFld_same (w : Word) (lo n v : Nat) (h : lo + n ≤ 32) : fld (setFld w lo n v) lo n = v % 2 ^ n := by
  apply Nat.eq_of_testBit_eq
  intro i
  rw [fld_testBit, Nat.testBit_mod_two_pow]
  by_cases hi : i < n
  · rw [bit_setFld _ _ _ _ _ (by omega)]
    simp [hi, Nat.testBit_mod_two_pow]
  · simp [hi]

/-- A field disjoint from the written one. -/
theorem fld_setFld_ne (w : Word) (lo n lo' n' v : Nat) (h : lo' + n' ≤ 32) (hd : lo + n ≤ lo' ∨ lo' + n' ≤ lo) :
    fld (setFld w lo n v) lo' n' = fld w lo' n' := by
  apply Nat.eq_of_testBit_eq
  intro i
  rw [fld_testBit, fld_testBit]
  by_cases hi : i < n'
  · rw [bit_setFld _ _ _ _ _ (by omega), if_neg (by omega)]
  · simp [hi]

theorem bit_setBit_same (w : Word) (k : Nat) (b : Bool) (h : k < 32) : bit (setBit w k b) k = b := by
  unfold setBit
  rw [bit_setFld _ _ _ _ _ h, if_pos (by omega)]
  cases b <;> simp

theorem bit_setBit_ne (w : Word) (k j : Nat) (b : Bool) (h : j < 32) (hd : j ≠ k) : bit (setBit w k b) j = bit w j := by
  unfold setBit
  rw [bit_setFld _ _ _ _ _ h, if_neg (by omega)]

theorem bit_setFld_one (w : Word) (k : Nat) (b : Bool) (h : k < 32) :
    bit (setFld w k 1 (if b = true then 1 else 0)) k = b := by
  rw [bit_setFld _ _ _ _ _ h, if_pos (by omega)]
  cases b <;> simp

theorem bit_setFld_ne (w : Word) (lo n v i : Nat) (hi : i < 32) (hd : i < lo ∨ lo + n ≤ i) :
    bit (setFld w lo n v) i = bit w i := by
  rw [bit_setFld _ _ _ _ _ hi, if_neg (by omega)]

theorem fld_lt (w : Word) (lo n : Nat) : fld w lo n < 2 ^ n := Nat.mod_lt _ (Nat.two_pow_pos n)

theorem held_le (cap n : Nat) : held cap n ≤ cap := by unfold held; split <;> omega

end Sys2Proof.Machine
end

