-- ==== Sys2Proof/Laws/Maps.lean ====
section
/-! SUPPORT. Sparse maps: reading after a write, and the canonical form that every write keeps. -/

namespace Sys2Proof.Machine

variable {α : Type}

theorem smGet_smPut (d : Nat → α) (k j : Nat) (x : α) (m : List (Nat × α)) :
    smGet d (smPut k x m) j = if j = k then x else smGet d m j := by
  induction m with
  | nil => simp only [smPut, smGet, eq_comm]
  | cons e m ih =>
    obtain ⟨i, y⟩ := e
    simp only [smPut]
    split_ifs <;> simp only [smGet, ih] <;> split_ifs <;> first | rfl | omega

theorem smGet_smDrop (d : Nat → α) (k j : Nat) (m : List (Nat × α)) :
    smGet d (smDrop k m) j = if j = k then d k else smGet d m j := by
  induction m with
  | nil => by_cases h : j = k <;> simp [smDrop, smGet, h]
  | cons e m ih =>
    obtain ⟨i, y⟩ := e
    simp only [smDrop]
    split_ifs <;> simp only [smGet, ih] <;> split_ifs <;> first | rfl | omega

variable [DecidableEq α]

/-- A read after a write: the value written at its key, and everywhere else what stood there. -/
theorem smGet_smSet (d : Nat → α) (m : List (Nat × α)) (k j : Nat) (x : α) :
    smGet d (smSet d m k x) j = if j = k then x else smGet d m j := by
  unfold smSet
  split_ifs with h1 h2 h2 <;> simp [smGet_smDrop, smGet_smPut, h1, h2]

@[simp] theorem smGet_smSet_same (d : Nat → α) (m : List (Nat × α)) (k : Nat) (x : α) :
    smGet d (smSet d m k x) k = x := by simp [smGet_smSet]

theorem smGet_smSet_ne (d : Nat → α) (m : List (Nat × α)) {k j : Nat} (x : α) (h : j ≠ k) :
    smGet d (smSet d m k x) j = smGet d m j := by simp [smGet_smSet, h]

omit [DecidableEq α] in
theorem smRising_some_none {lo : Nat} {m : List (Nat × α)} (h : smRising (some lo) m = true) :
    smRising none m = true := by
  cases m with
  | nil => rfl
  | cons e m => obtain ⟨j, x⟩ := e; simp_all [smRising]

omit [DecidableEq α] in
theorem smRising_weaken {lo lo' : Nat} {m : List (Nat × α)} (hl : lo' ≤ lo) (h : smRising (some lo) m = true) :
    smRising (some lo') m = true := by
  cases m with
  | nil => rfl
  | cons e m => obtain ⟨j, x⟩ := e; simp_all [smRising]; omega

omit [DecidableEq α] in
theorem smRising_smPut {o : Option Nat} {k : Nat} {x : α} {m : List (Nat × α)}
    (h : smRising o m = true) (hk : ∀ lo, o = some lo → lo < k) : smRising o (smPut k x m) = true := by
  induction m generalizing o with
  | nil => cases o <;> simp_all [smPut, smRising]
  | cons e m ih =>
    obtain ⟨j, y⟩ := e
    simp only [smPut]
    split_ifs with h1 h2
    · cases o <;> simp_all [smRising]
    · cases o <;> simp_all [smRising]
    · have := @ih (some j) (by cases o <;> simp_all [smRising]) (by intro lo e; cases e; omega)
      cases o <;> simp_all [smRising]

omit [DecidableEq α] in
theorem smRising_filter {o : Option Nat} {p : Nat × α → Bool} {m : List (Nat × α)}
    (h : smRising o m = true) : smRising o (m.filter p) = true := by
  induction m generalizing o with
  | nil => simpa using h
  | cons e m ih =>
    obtain ⟨j, y⟩ := e
    have ht : smRising (some j) m = true := by cases o <;> simp_all [smRising]
    by_cases hp : p (j, y)
    · have := ih ht
      cases o <;> simp_all [smRising]
    · simp only [List.filter_cons, hp]
      cases o with
      | none => exact smRising_some_none (ih ht)
      | some lo => exact smRising_weaken (by simp_all [smRising]; omega) (ih ht)

omit [DecidableEq α] in
theorem smDrop_eq_filter (k : Nat) (m : List (Nat × α)) : smDrop k m = m.filter (fun e => decide (e.1 ≠ k)) := by
  induction m with
  | nil => rfl
  | cons e m ih => obtain ⟨j, y⟩ := e; by_cases h : j = k <;> simp [smDrop, h, ih]

theorem smLean_iff (d : Nat → α) (m : List (Nat × α)) : smLean d m = true ↔ ∀ e ∈ m, e.2 ≠ d e.1 := by
  induction m with
  | nil => simp [smLean]
  | cons e m ih => obtain ⟨j, y⟩ := e; simp [smLean, ih]

omit [DecidableEq α] in
theorem smPut_mem {k : Nat} {x : α} {m : List (Nat × α)} {e : Nat × α} (h : e ∈ smPut k x m) : e = (k, x) ∨ e ∈ m := by
  induction m with
  | nil => simpa [smPut] using h
  | cons a m ih =>
    obtain ⟨j, y⟩ := a
    simp only [smPut] at h
    split_ifs at h
    · rcases List.mem_cons.mp h with h | h
      · exact .inl h
      · exact .inr (List.mem_cons_of_mem _ h)
    · exact (List.mem_cons.mp h).imp id id
    · rcases List.mem_cons.mp h with h | h
      · exact .inr (h ▸ List.mem_cons_self)
      · exact (ih h).imp id (List.mem_cons_of_mem _)

theorem smSet_mem {d : Nat → α} {k : Nat} {x : α} {m : List (Nat × α)} {e : Nat × α} (h : e ∈ smSet d m k x) :
    e = (k, x) ∨ e ∈ m := by
  unfold smSet at h
  split_ifs at h
  · rw [smDrop_eq_filter] at h; exact .inr (List.mem_filter.mp h).1
  · exact smPut_mem h

theorem smWf_filter (d : Nat → α) (p : Nat × α → Bool) (m : List (Nat × α)) (h : smWf d m = true) :
    smWf d (m.filter p) = true := by
  simp only [smWf, Bool.and_eq_true, smLean_iff] at *
  exact ⟨smRising_filter h.1, fun e he => h.2 e (List.mem_filter.mp he).1⟩

/-- Every write keeps the canonical form. -/
theorem smWf_smSet (d : Nat → α) (m : List (Nat × α)) (k : Nat) (x : α) (h : smWf d m = true) :
    smWf d (smSet d m k x) = true := by
  unfold smSet
  split_ifs with hx
  · rw [smDrop_eq_filter]; exact smWf_filter d _ m h
  · simp only [smWf, Bool.and_eq_true, smLean_iff] at *
    refine ⟨smRising_smPut h.1 (by simp), fun e he => ?_⟩
    rcases smPut_mem he with rfl | he
    · exact hx
    · exact h.2 e he

end Sys2Proof.Machine
end

