-- ==== Sys2Proof/Laws/Follows.lean ====
section
/-! SUPPORT. What every operation of the model keeps. `Follows keep lock r s` says of a state `s` reached from `r`: the queue of
commands is untouched, time has not gone back, a sound state stays sound, with `keep` no byte of memory has changed, and with `lock`
SPO, if it was latched, still is.
Each operation has one lemma that carries this on; a meaning's lemma is assembled from those of the operations it calls. -/

namespace Sys2Proof.Machine

/-- What holds between a state and one that operations have made from it. -/
structure Follows (keep lock : Bool) (r s : State) : Prop where
  queue : s.pending = r.pending
  time  : r.now ≤ s.now
  good  : Good r → Good s
  mem   : keep = true → s.mem = r.mem
  spo   : lock = true → r.plumb.spo = true → s.plumb.spo = true

variable {keep lock : Bool} {r s t : State}

theorem Follows.refl (keep lock : Bool) (s : State) : Follows keep lock s s := ⟨rfl, Nat.le_refl _, id, fun _ => rfl, fun _ => id⟩

theorem Follows.weaken (h : Follows true true r s) : Follows keep lock r s :=
  ⟨h.queue, h.time, h.good, fun _ => h.mem rfl, fun _ => h.spo rfl⟩

/-- An update of fields that soundness does not speak of. -/
theorem Follows.upd (h : Follows keep lock r s) (hp : t.pending = s.pending) (hn : s.now ≤ t.now) (hr : t.regs = s.regs)
    (ha : t.act = s.act) (hm : t.mem = s.mem) (he : t.evr = s.evr) (hs : t.plumb.spo = s.plumb.spo) : Follows keep lock r t :=
  ⟨hp.trans h.queue, h.time.trans hn,
    fun g => let g := h.good g; ⟨hm ▸ g.mem, hr ▸ g.regs, ha ▸ g.act, he ▸ g.queue, he ▸ g.recs⟩,
    fun k => hm.trans (h.mem k), fun l o => hs.trans (h.spo l o)⟩

/-- A state at a later instant. -/
def atNow (now : Nat) (s : State) : State := { s with now := now }

theorem atNow_follows {now : Nat} (hn : s.now ≤ now) (h : Follows keep lock r s) : Follows keep lock r (atNow now s) :=
  h.upd rfl hn rfl rfl rfl rfl rfl

/-- Of an update only the instant matters, where it changes no field that soundness speaks of. -/
theorem Follows.mk_iff {now frees} {bus pwr clk therm valley sins scans scanConvs souts
      conns pw fb log doms grps legs holds trips sets mons phases drvs datum pair adcs lanes eng
      gens capMem rings grids isl trackers sweep rails cmdPorts monument meters cluster nvm dbg upd
      gio} :
    Follows keep lock r (State.mk now frees s.pending s.regs s.act bus s.mem pwr clk therm valley s.plumb
      sins scans scanConvs souts conns pw fb s.evr log doms grps legs holds trips sets mons phases
      drvs datum pair adcs lanes eng gens capMem rings grids isl trackers sweep rails cmdPorts monument
      meters cluster nvm dbg upd gio) ↔ Follows keep lock r (atNow now s) :=
  ⟨fun h => ⟨h.queue, h.time, fun g => let g := h.good g; ⟨g.mem, g.regs, g.act, g.queue, g.recs⟩, h.mem, h.spo⟩,
    fun h => ⟨h.queue, h.time, fun g => let g := h.good g; ⟨g.mem, g.regs, g.act, g.queue, g.recs⟩, h.mem, h.spo⟩⟩

theorem Follows.ite {c : Prop} [Decidable c] (h1 : Follows keep lock r s) (h2 : Follows keep lock r t) :
    Follows keep lock r (if c then s else t) := by split <;> assumption

theorem Follows.of_snd {α : Type} {p : α × State} {a : α} (e : p = (a, s)) (h : Follows keep lock r p.2) : Follows keep lock r s := by
  subst e; exact h

theorem Follows.of_fst {α : Type} {p : State × α} {a : α} (e : p = (s, a)) (h : Follows keep lock r p.1) : Follows keep lock r s := by
  subst e; exact h

/-! Registers -/

theorem wr_follows (i : Nat) (v : Word) (h : Follows keep lock r s) : Follows keep lock r (wr i v s) :=
  ⟨h.queue, h.time,
    fun g => let g := h.good g; ⟨g.mem, smWf_smSet _ _ _ _ g.regs, g.act, g.queue, g.recs⟩, h.mem, h.spo⟩

theorem setForce_follows (i : Nat) (v : Word) (h : Follows keep lock r s) : Follows keep lock r (setForce i v s) :=
  ⟨h.queue, h.time,
    fun g => let g := h.good g; ⟨g.mem, g.regs, smWf_smSet _ _ _ _ g.act, g.queue, g.recs⟩, h.mem, h.spo⟩

theorem dropPages_follows (p : Nat → Bool) (h : Follows keep lock r s) : Follows keep lock r (dropPages p s) :=
  ⟨h.queue, h.time,
    fun g => let g := h.good g; ⟨g.mem, smWf_filter _ _ _ g.regs, smWf_filter _ _ _ g.act, g.queue, g.recs⟩, h.mem, h.spo⟩

/-! Memory -/

theorem memWr_follows (a : Nat) (b : Byte) (h : Follows false lock r s) : Follows false lock r (memWr a b s) :=
  ⟨h.queue, h.time, fun g => let g := h.good g; ⟨smWf_smSet _ _ _ _ g.mem, g.regs, g.act, g.queue, g.recs⟩,
    (fun k => nomatch k), h.spo⟩

theorem memWrBytes_follows (a : Nat) (bs : List Byte) (h : Follows false lock r s) : Follows false lock r (memWrBytes a bs s) := by
  induction bs generalizing a s with
  | nil => exact h
  | cons b bs ih => exact ih (a + 1) (memWr_follows a b h)

/-! Lists of updates -/

theorem forEach_follows {α : Type} {xs : List α} {f : α → State → State}
    (hf : ∀ x s, Follows keep lock r s → Follows keep lock r (f x s)) (h : Follows keep lock r s) : Follows keep lock r (forEach xs f s) := by
  induction xs generalizing s with
  | nil => exact h
  | cons x xs ih => exact ih (hf x s h)

theorem onlyIf_follows {c : Bool} {f : State → State} (hf : ∀ s, Follows keep lock r s → Follows keep lock r (f s))
    (h : Follows keep lock r s) : Follows keep lock r (onlyIf c f s) := by
  unfold onlyIf; split
  · exact hf s h
  · exact h

theorem draw_follows (h : Follows keep lock r s) : Follows keep lock r (draw s).2 := h.upd rfl (Nat.le_refl _) rfl rfl rfl rfl rfl

/-! The event router's queues -/

theorem setSrcQ_follows (e : Nat) (q : SrcQ) (hq : Good s → q.q.length ≤ 4) (h : Follows keep lock r s) :
    Follows keep lock r (setSrcQ e q s) :=
  ⟨h.queue, h.time, fun g => by
    have g := h.good g
    refine ⟨g.mem, g.regs, g.act, fun x hx => ?_, g.recs⟩
    rcases smSet_mem hx with rfl | hx
    · exact hq g
    · exact g.queue x hx, h.mem, h.spo⟩

theorem setChan_follows (n : Nat) (c : Chan) (hc : Good s → c.recs.length ≤ 8) (h : Follows keep lock r s) :
    Follows keep lock r (setChan n c s) :=
  ⟨h.queue, h.time, fun g => by
    have g := h.good g
    refine ⟨g.mem, g.regs, g.act, g.queue, fun x hx => ?_⟩
    rcases smSet_mem hx with rfl | hx
    · exact hc g
    · exact g.recs x hx, h.mem, h.spo⟩

theorem smGet_all {α : Type} {p : α → Prop} {d : Nat → α} {m : List (Nat × α)} (hm : ∀ e ∈ m, p e.2)
    (hd : ∀ k, p (d k)) (k : Nat) : p (smGet d m k) := by
  induction m with
  | nil => exact hd k
  | cons e m ih =>
    obtain ⟨j, x⟩ := e
    simp only [smGet]
    split
    · exact hm _ List.mem_cons_self
    · exact ih fun e he => hm e (List.mem_cons_of_mem _ he)

theorem srcQ_length (g : Good s) (e : Nat) : (srcQ s e).q.length ≤ 4 :=
  smGet_all (p := fun q : SrcQ => q.q.length ≤ 4) g.queue (fun _ => Nat.zero_le _) e

theorem chan_length (g : Good s) (n : Nat) : (chan s n).recs.length ≤ 8 :=
  smGet_all (p := fun c : Chan => c.recs.length ≤ 8) g.recs (fun _ => Nat.zero_le _) n

theorem occurCore_follows (e : Nat) (h : Follows keep lock r s) : Follows keep lock r (occurCore e s).1 := by
  unfold occurCore
  dsimp only
  split; · exact h
  split; · exact h
  split; · exact setSrcQ_follows _ _ (fun g => srcQ_length g e) h
  split
  · next hl => exact setSrcQ_follows _ _ (fun _ => by simpa using hl) h
  · refine wr_follows _ _ (setSrcQ_follows _ _ (fun g => ?_) h)
    have := srcQ_length g e
    rcases hq : (srcQ s e).q.getLast? with _ | x <;> simp <;> omega

end Sys2Proof.Machine
end

