-- ==== Sys2Proof/Laws/FollowOps.lean ====
section
/-! SUPPORT. What the operations of Machine/Ops.lean keep (Laws/Follows.lean). -/

set_option linter.unusedTactic false
set_option linter.unreachableTactic false
set_option linter.unusedVariables false

namespace Sys2Proof.Machine

variable {keep lock : Bool} {r0 s : State}

theorem wrf_follows (k lo n v : Nat) (hF : Follows keep lock r0 s) :
    Follows keep lock r0 (wrf k lo n v s) := by
  unfold wrf
  try dsimp only
  with_reducible repeat' first
    | assumption | apply wr_follows

theorem wrb_follows (k b : Nat) (v : Bool) (hF : Follows keep lock r0 s) :
    Follows keep lock r0 (wrb k b v s) := by
  unfold wrb
  try dsimp only
  with_reducible repeat' first
    | assumption | apply Follows.ite | apply wrf_follows

theorem incHeld_follows (k lo n : Nat) (hF : Follows keep lock r0 s) :
    Follows keep lock r0 (incHeld k lo n s) := by
  unfold incHeld
  try dsimp only
  with_reducible repeat' first
    | assumption | apply wrf_follows

theorem incMod_follows (k lo n : Nat) (hF : Follows keep lock r0 s) :
    Follows keep lock r0 (incMod k lo n s) := by
  unfold incMod
  try dsimp only
  with_reducible repeat' first
    | assumption | apply wrf_follows

theorem upto_follows (t : Nat) (hF : Follows keep lock r0 s) :
    Follows keep lock r0 (upto t s) := by
  unfold upto
  try dsimp only
  with_reducible repeat' first
    | assumption | simp only [Follows.mk_iff] | apply atNow_follows | exact Nat.le_refl _
    | exact Nat.le_max_left _ _ | exact Nat.le_add_right _ _

theorem memWrWord_follows (a : Nat) (w : Word) (hF : Follows false lock r0 s) :
    Follows false lock r0 (memWrWord a w s) := by
  unfold memWrWord
  try dsimp only
  with_reducible repeat' first
    | assumption | apply memWrBytes_follows

theorem respond_follows (w : Word) (hF : Follows keep lock r0 s) :
    Follows keep lock r0 (respond w s) := by
  unfold respond
  try dsimp only
  with_reducible repeat' first
    | assumption | simp only [Follows.mk_iff] | apply atNow_follows | exact Nat.le_refl _

theorem busError_follows  (hF : Follows keep lock r0 s) :
    Follows keep lock r0 (busError s) := by
  unfold busError
  try dsimp only
  with_reducible repeat' first
    | assumption | simp only [Follows.mk_iff] | apply atNow_follows | exact Nat.le_refl _

theorem busCycle_follows  (hF : Follows keep lock r0 s) :
    Follows keep lock r0 (busCycle s) := by
  unfold busCycle
  try dsimp only
  with_reducible repeat' first
    | assumption | simp only [Follows.mk_iff] | apply atNow_follows | exact Nat.le_refl _
    | exact Nat.le_max_left _ _ | exact Nat.le_add_right _ _

theorem baseTurn_follows (valid : Bool) (hF : Follows keep lock r0 s) :
    Follows keep lock r0 (baseTurn valid s) := by
  unfold baseTurn
  try dsimp only
  with_reducible repeat' first
    | assumption | apply Follows.ite | simp only [Follows.mk_iff] | apply atNow_follows
    | exact Nat.le_refl _

theorem logIt_follows (page code : Nat) (payload : List Word) (hF : Follows keep lock r0 s) :
    Follows keep lock r0 (logIt page code payload s) := by
  unfold logIt
  try dsimp only
  with_reducible repeat' first
    | assumption | simp only [Follows.mk_iff] | apply atNow_follows | exact Nat.le_refl _

end Sys2Proof.Machine
end

