-- ==== Sys2Proof/Laws/FollowFlags.lean ====
section
/-! SUPPORT. What the operations of Machine/Flags.lean keep (Laws/Follows.lean). -/

set_option linter.unusedTactic false
set_option linter.unreachableTactic false
set_option linter.unusedVariables false

namespace Sys2Proof.Machine

variable {keep lock : Bool} {r0 s : State}

theorem setFreshBits_follows (k : Nat) (fresh stood : Word) (hF : Follows keep lock r0 s) :
    Follows keep lock r0 (setFreshBits k fresh stood s) :=
  ⟨hF.queue, hF.time, fun g => let g := hF.good g; ⟨g.mem, g.regs, g.act, g.queue, g.recs⟩, hF.mem, hF.spo⟩

theorem setFresh_follows (k b : Nat) (hF : Follows keep lock r0 s) : Follows keep lock r0 (setFresh k b s) := by
  unfold setFresh
  exact wrb_follows _ _ _ (setFreshBits_follows _ _ _ hF)

theorem clearFresh_follows (k : Nat) (m : Word) (hF : Follows keep lock r0 s) :
    Follows keep lock r0 (clearFresh k m s).2 := by
  unfold clearFresh
  try dsimp only
  with_reducible repeat' first
    | assumption | apply Follows.ite | apply setFreshBits_follows | apply wr_follows
    | dsimp only

theorem occur_follows (e : Nat) (hF : Follows keep lock r0 s) :
    Follows keep lock r0 (occur e s) := by
  unfold occur
  try dsimp only
  with_reducible repeat' first
    | assumption | apply Follows.ite | apply occurCore_follows | apply setFresh_follows
    | refine Follows.of_fst (by assumption) ?_ | split | dsimp only

theorem raise_follows (t : PageType) (n k : Nat) (hF : Follows keep lock r0 s) :
    Follows keep lock r0 (raise t n k s) := by
  unfold raise
  try dsimp only
  with_reducible repeat' first
    | assumption | apply Follows.ite | apply setFresh_follows | apply occur_follows
    | simp only [Follows.mk_iff] | apply atNow_follows | exact Nat.le_refl _ | split

theorem clearCauses_follows (t : PageType) (n : Nat) (m : Word) (hF : Follows keep lock r0 s) :
    Follows keep lock r0 (clearCauses t n m s) := by
  unfold clearCauses
  try dsimp only
  with_reducible repeat' first
    | assumption | intro _ | apply clearFresh_follows | apply forEach_follows | apply occur_follows
    | simp only [Follows.mk_iff] | apply atNow_follows | exact Nat.le_refl _ | refine Follows.of_snd (by assumption) ?_
    | split | dsimp only

theorem writeEvEn_follows (t : PageType) (n : Nat) (v : Word) (hF : Follows keep lock r0 s) :
    Follows keep lock r0 (writeEvEn t n v s) := by
  unfold writeEvEn
  try dsimp only
  with_reducible repeat' first
    | assumption | intro _ | apply wr_follows | apply forEach_follows | apply occur_follows
    | simp only [Follows.mk_iff] | apply atNow_follows | exact Nat.le_refl _ | split

theorem raiseTrip_follows (i k : Nat) (hF : Follows keep lock r0 s) :
    Follows keep lock r0 (raiseTrip i k s) := by
  unfold raiseTrip
  try dsimp only
  with_reducible repeat' first
    | assumption | apply Follows.ite | apply setFresh_follows | apply occur_follows

theorem clearTrip_follows (i : Nat) (m : Word) (hF : Follows keep lock r0 s) :
    Follows keep lock r0 (clearTrip i m s) := by
  unfold clearTrip
  try dsimp only
  with_reducible repeat' first
    | assumption | apply Follows.ite | apply clearFresh_follows | apply occur_follows
    | refine Follows.of_snd (by assumption) ?_ | split | dsimp only

end Sys2Proof.Machine
end

