-- ==== Sys2Proof/Laws/FollowCounters.lean ====
section
/-! SUPPORT. What the operations of Machine/Counters.lean keep (Laws/Follows.lean). -/

set_option linter.unusedTactic false
set_option linter.unreachableTactic false
set_option linter.unusedVariables false

namespace Sys2Proof.Machine

variable {keep lock : Bool} {r0 s : State}

theorem raisePmc_follows (k : Nat) (hF : Follows keep lock r0 s) :
    Follows keep lock r0 (raisePmc k s) := by
  unfold raisePmc
  try dsimp only
  with_reducible repeat' first
    | assumption | apply raise_follows

theorem setCtr_follows (n : Nat) (c : Ctr) (hF : Follows keep lock r0 s) :
    Follows keep lock r0 (setCtr n c s) := by
  unfold setCtr
  try dsimp only
  with_reducible repeat' first
    | assumption | simp only [Follows.mk_iff] | apply atNow_follows | exact Nat.le_refl _

theorem onHart_follows (h : Nat) (f : Hart → Hart) (hF : Follows keep lock r0 s) :
    Follows keep lock r0 (onHart h f s) := by
  unfold onHart
  try dsimp only
  with_reducible repeat' first
    | assumption | simp only [Follows.mk_iff] | apply atNow_follows | exact Nat.le_refl _

theorem ctrOverflow_follows (n : Nat) (hF : Follows keep lock r0 s) :
    Follows keep lock r0 (ctrOverflow n s) := by
  unfold ctrOverflow
  try dsimp only
  with_reducible repeat' first
    | assumption | intro _ | apply Follows.ite | apply setCtr_follows | apply wrb_follows
    | apply raisePmc_follows | apply onHart_follows | simp only [Follows.mk_iff] | apply atNow_follows
    | exact Nat.le_refl _ | split

theorem ctrStep_follows (n : Nat) (hF : Follows keep lock r0 s) :
    Follows keep lock r0 (ctrStep n s) := by
  unfold ctrStep
  try dsimp only
  with_reducible repeat' first
    | assumption | apply Follows.ite | apply setCtr_follows | apply ctrOverflow_follows
    | simp only [Follows.mk_iff] | apply atNow_follows | exact Nat.le_refl _

theorem pmcSettle_follows  (hF : Follows keep lock r0 s) :
    Follows keep lock r0 (pmcSettle s) := by
  unfold pmcSettle
  try dsimp only
  with_reducible repeat' first
    | assumption | intro _ | apply Follows.ite | apply forEach_follows | apply setCtr_follows
    | simp only [Follows.mk_iff] | apply atNow_follows | exact Nat.le_refl _

theorem pmcCount_follows (cls : Nat) (m : Option Doer) (a : Option Nat) (hF : Follows keep lock r0 s) :
    Follows keep lock r0 (pmcCount cls m a s) := by
  unfold pmcCount
  try dsimp only
  with_reducible repeat' first
    | assumption | intro _ | apply Follows.ite | apply forEach_follows | apply ctrStep_follows
    | apply setCtr_follows | simp only [Follows.mk_iff] | apply atNow_follows | exact Nat.le_refl _
    | split

theorem pmcAccesses_follows (cls : Nat) (m : Doer) (a : Nat) (hF : Follows keep lock r0 s) :
    Follows keep lock r0 (pmcAccesses cls m a s) := by
  unfold pmcAccesses
  try dsimp only
  with_reducible repeat' first
    | assumption | intro _ | apply Follows.ite | apply pmcCount_follows

theorem pmcAccess_follows (m : Doer) (store : Bool) (a : Nat) (page : Bool) (hF : Follows keep lock r0 s) :
    Follows keep lock r0 (pmcAccess m store a page s) := by
  unfold pmcAccess
  try dsimp only
  with_reducible repeat' first
    | assumption | apply Follows.ite | apply pmcAccesses_follows

theorem atPage_follows (m : Master) (t : PageType) (off : Nat) (f : State → State) (hF_f : ∀ s, Follows keep lock r0 s → Follows keep lock r0 (f s)) (hF : Follows keep lock r0 s) :
    Follows keep lock r0 (atPage m t off f s) := by
  unfold atPage
  try dsimp only
  with_reducible repeat' first
    | assumption | apply Follows.ite | apply busCycle_follows | apply wr_follows
    | apply hF_f | split

theorem byBus_follows (m : Master) (t : PageType) (n off : Nat) (f : State → State) (hF_f : ∀ s, Follows keep lock r0 s → Follows keep lock r0 (f s)) (hF : Follows keep lock r0 s) :
    Follows keep lock r0 (byBus m t n off f s) := by
  unfold byBus
  try dsimp only
  with_reducible repeat' first
    | assumption | intro _ | apply atPage_follows | apply pmcAccess_follows | apply hF_f

theorem readAt_follows (m : Master) (t : PageType) (n off : Nat) (f : State → State) (hF_f : ∀ s, Follows keep lock r0 s → Follows keep lock r0 (f s)) (hF : Follows keep lock r0 s) :
    Follows keep lock r0 (readAt m t n off f s) := by
  unfold readAt
  try dsimp only
  with_reducible repeat' first
    | assumption | apply Follows.ite | apply pmcAccess_follows | apply respond_follows
    | apply hF_f

theorem sramCheck_follows (a n : Nat) (hF : Follows keep lock r0 s) :
    Follows keep lock r0 (sramCheck a n s) := by
  unfold sramCheck
  try dsimp only
  with_reducible repeat' first
    | assumption | intro _ | apply forEach_follows | apply raisePmc_follows | apply wr_follows
    | apply incHeld_follows

theorem sramWrite_follows (a : Nat) (bytes : List Byte) (hF : Follows false lock r0 s) :
    Follows false lock r0 (sramWrite a bytes s) := by
  unfold sramWrite
  try dsimp only
  with_reducible repeat' first
    | assumption | intro _ | apply Follows.ite | apply memWrBytes_follows | simp only [Follows.mk_iff]
    | apply atNow_follows | exact Nat.le_refl _ | exact Nat.le_max_left _ _ | exact Nat.le_add_right _ _
    | refine Follows.of_snd (by assumption) ?_ | refine Follows.of_fst (by assumption) ?_
    | simp only [id_eq] | split | dsimp only

theorem raiseNvm_follows (k : Nat) (hF : Follows keep lock r0 s) :
    Follows keep lock r0 (raiseNvm k s) := by
  unfold raiseNvm
  try dsimp only
  with_reducible repeat' first
    | assumption | apply raise_follows

theorem onNvm_follows (f : Nvm → Nvm) (hF : Follows keep lock r0 s) :
    Follows keep lock r0 (onNvm f s) := by
  unfold onNvm
  try dsimp only
  with_reducible repeat' first
    | assumption | simp only [Follows.mk_iff] | apply atNow_follows | exact Nat.le_refl _

theorem nvRead_follows (a n : Nat) (hF : Follows keep lock r0 s) :
    Follows keep lock r0 (nvRead a n s) := by
  unfold nvRead
  try dsimp only
  with_reducible repeat' first
    | assumption | intro _ | apply forEach_follows | apply raiseNvm_follows | apply wr_follows
    | apply incHeld_follows | apply onNvm_follows | simp only [Follows.mk_iff] | apply atNow_follows
    | exact Nat.le_refl _

theorem nvCount_follows (m : Option Doer) (a words : Nat) (hF : Follows keep lock r0 s) :
    Follows keep lock r0 (nvCount m a words s) := by
  unfold nvCount
  try dsimp only
  with_reducible repeat' first
    | assumption | intro _ | apply Follows.ite | apply wr_follows | apply forEach_follows
    | apply pmcCount_follows

theorem nvStore_follows (m : Option Doer) (a : Nat) (bytes : List Byte) (hF : Follows false lock r0 s) :
    Follows false lock r0 (nvStore m a bytes s) := by
  unfold nvStore
  try dsimp only
  with_reducible repeat' first
    | assumption | intro _ | apply Follows.ite | apply nvCount_follows | apply onNvm_follows
    | apply memWrBytes_follows | simp only [Follows.mk_iff] | apply atNow_follows | exact Nat.le_refl _
    | exact Nat.le_max_left _ _ | exact Nat.le_add_right _ _ | refine Follows.of_snd (by assumption) ?_
    | refine Follows.of_fst (by assumption) ?_ | simp only [id_eq] | split | dsimp only

theorem nvStores_follows (m : Option Doer) (a : Nat) (bytes : List Byte) (hF : Follows false lock r0 s) :
    Follows false lock r0 (nvStores m a bytes s) := by
  unfold nvStores
  try dsimp only
  with_reducible repeat' first
    | assumption | intro _ | apply Follows.ite | apply nvCount_follows | apply onNvm_follows
    | apply memWrBytes_follows | simp only [Follows.mk_iff] | apply atNow_follows | exact Nat.le_refl _
    | exact Nat.le_max_left _ _ | exact Nat.le_add_right _ _ | refine Follows.of_snd (by assumption) ?_
    | refine Follows.of_fst (by assumption) ?_ | simp only [id_eq] | split | dsimp only

theorem nvCutWord_follows (a : Nat) (bytes : List Byte) (hF : Follows false lock r0 s) :
    Follows false lock r0 (nvCutWord a bytes s) := by
  unfold nvCutWord
  try dsimp only
  with_reducible repeat' first
    | assumption | intro _ | apply Follows.ite | apply draw_follows | apply memWrBytes_follows
    | apply onNvm_follows | simp only [Follows.mk_iff] | apply atNow_follows | exact Nat.le_refl _
    | exact Nat.le_max_left _ _ | exact Nat.le_add_right _ _ | refine Follows.of_snd (by assumption) ?_
    | refine Follows.of_fst (by assumption) ?_ | simp only [id_eq] | split | dsimp only

theorem ctrValue_follows (n : Nat) (hF : Follows keep lock r0 s) :
    Follows keep lock r0 (ctrValue n s).2 := by
  unfold ctrValue
  try dsimp only
  with_reducible repeat' first
    | assumption | apply Follows.ite | apply draw_follows | apply setCtr_follows
    | simp only [Follows.mk_iff] | apply atNow_follows | exact Nat.le_refl _ | refine Follows.of_snd (by assumption) ?_
    | split | dsimp only

theorem writeCtrCfg_follows (n : Nat) (v : Word) (hF : Follows keep lock r0 s) :
    Follows keep lock r0 (writeCtrCfg n v s) := by
  unfold writeCtrCfg
  try dsimp only
  with_reducible repeat' first
    | assumption | apply Follows.ite | apply raisePmc_follows | apply pmcSettle_follows
    | apply wr_follows

theorem writePmc_follows (off : Nat) (v : Word) (hF : Follows keep lock r0 s) :
    Follows keep lock r0 (writePmc off v s) := by
  unfold writePmc
  try dsimp only
  with_reducible repeat' first
    | assumption | apply Follows.ite | apply wr_follows | apply pmcSettle_follows
    | apply writeCtrCfg_follows | apply setCtr_follows | simp only [Follows.mk_iff] | apply atNow_follows
    | exact Nat.le_refl _ | exact Nat.le_max_left _ _ | exact Nat.le_add_right _ _ | split

theorem readCtrLo_follows (n : Nat) (hF : Follows keep lock r0 s) :
    Follows keep lock r0 (readCtrLo n s) := by
  unfold readCtrLo
  try dsimp only
  with_reducible repeat' first
    | assumption | apply ctrValue_follows | apply respond_follows | apply wr_follows
    | refine Follows.of_snd (by assumption) ?_ | split | dsimp only

theorem execValLoWrite_follows (m : Master) (n : Fin 64) (v : Word) (hF : Follows keep lock r0 s) :
    ∃ s1, execValLoWrite m n v s = .next s1 ∧ Follows keep lock r0 s1 := by
  refine ⟨_, rfl, ?_⟩
  try dsimp only
  with_reducible repeat' first
    | assumption | intro _ | apply byBus_follows | apply writePmc_follows

theorem execValLoRead_follows (m : Master) (n : Fin 64) (hF : Follows keep lock r0 s) :
    ∃ s1, execValLoRead m n s = .next s1 ∧ Follows keep lock r0 s1 := by
  refine ⟨_, rfl, ?_⟩
  try dsimp only
  with_reducible repeat' first
    | assumption | intro _ | apply readAt_follows | apply readCtrLo_follows

theorem execCounterOverflow_follows (n : Fin 64) (hF : Follows keep lock r0 s) :
    ∃ s1, execCounterOverflow n s = .next s1 ∧ Follows keep lock r0 s1 := by
  refine ⟨_, rfl, ?_⟩
  try dsimp only
  with_reducible repeat' first
    | assumption | apply Follows.ite | apply pmcSettle_follows | apply ctrOverflow_follows
    | split

end Sys2Proof.Machine
end

