-- ==== Sys2Proof/Laws/FollowAccess.lean ====
section
/-! SUPPORT. What the operations of Machine/Access.lean keep (Laws/Follows.lean). -/

set_option linter.unusedTactic false
set_option linter.unreachableTactic false
set_option linter.unusedVariables false

namespace Sys2Proof.Machine

variable {keep lock : Bool} {r0 s : State}

theorem logHap_follows (page : Nat) (hF : Follows keep lock r0 s) :
    Follows keep lock r0 (logHap page s) := by
  unfold logHap
  try dsimp only
  with_reducible repeat' first
    | assumption | apply draw_follows | apply logIt_follows | refine Follows.of_snd (by assumption) ?_
    | split | dsimp only

theorem logLoss_follows (page : Nat) (delib : Bool) (hF : Follows keep lock r0 s) :
    Follows keep lock r0 (logLoss page delib s) := by
  unfold logLoss
  try dsimp only
  with_reducible repeat' first
    | assumption | apply draw_follows | apply logIt_follows | refine Follows.of_snd (by assumption) ?_
    | split | dsimp only

theorem refuse_follows (t : PageType) (n : Nat) (hF : Follows keep lock r0 s) :
    Follows keep lock r0 (refuse t n s) := by
  unfold refuse
  try dsimp only
  with_reducible repeat' first
    | assumption | apply raise_follows | simp only [Follows.mk_iff] | apply atNow_follows
    | exact Nat.le_refl _ | split

theorem placeEntry_follows (e : FbEnt) (hF : Follows keep lock r0 s) :
    Follows keep lock r0 (placeEntry e s) := by
  unfold placeEntry
  try dsimp only
  with_reducible repeat' first
    | assumption | apply Follows.ite | apply raise_follows | simp only [Follows.mk_iff]
    | apply atNow_follows | exact Nat.le_refl _

theorem bookRequested_follows (kind page off master : Nat) (old new : Word) (hF : Follows keep lock r0 s) :
    Follows keep lock r0 (bookRequested kind page off master old new s) := by
  unfold bookRequested
  try dsimp only
  with_reducible repeat' first
    | assumption | apply placeEntry_follows | simp only [Follows.mk_iff] | apply atNow_follows
    | exact Nat.le_refl _

theorem bookAction_follows (kind page off master : Nat) (old new : Word) (hF : Follows keep lock r0 s) :
    Follows keep lock r0 (bookAction kind page off master old new s) := by
  unfold bookAction
  try dsimp only
  with_reducible repeat' first
    | assumption | apply Follows.ite | apply placeEntry_follows | simp only [Follows.mk_iff]
    | apply atNow_follows | exact Nat.le_refl _

theorem reviseEntry_follows (seq : Nat) (old new : Word) (hF : Follows keep lock r0 s) :
    Follows keep lock r0 (reviseEntry seq old new s) := by
  unfold reviseEntry
  try dsimp only
  with_reducible repeat' first
    | assumption | intro _ | apply Follows.ite | simp only [Follows.mk_iff] | apply atNow_follows
    | exact Nat.le_refl _

theorem placeWaiting_follows (k : Nat) (hF : Follows keep lock r0 s) :
    Follows keep lock r0 (placeWaiting  k  s) := by
  induction k generalizing s  with
  | zero => exact hF
  | succ k ih =>
  rw [placeWaiting]
  try dsimp only
  with_reducible repeat' first
    | assumption | apply ih | apply Follows.ite | apply placeEntry_follows | simp only [Follows.mk_iff]
    | apply atNow_follows | exact Nat.le_refl _ | split

theorem deny_follows (k : Nat) (hF : Follows keep lock r0 s) :
    Follows keep lock r0 (deny k s) := by
  unfold deny
  try dsimp only
  with_reducible repeat' first
    | assumption | apply refuse_follows | simp only [Follows.mk_iff] | apply atNow_follows
    | exact Nat.le_refl _ | split

theorem refuseKey_follows (k : Nat) (hF : Follows keep lock r0 s) :
    Follows keep lock r0 (refuseKey k s) := by
  unfold refuseKey
  try dsimp only
  with_reducible repeat' first
    | assumption | apply refuse_follows | simp only [Follows.mk_iff] | apply atNow_follows
    | exact Nat.le_refl _ | split

theorem rwlPathBy_follows (get : State → Word) (m : Master) (k : Nat) (ok : Bool) (act : State → State) (hF_act : ∀ s, Follows keep lock r0 s → Follows keep lock r0 (act s)) (hF : Follows keep lock r0 s) :
    Follows keep lock r0 (rwlPathBy get m k ok act s) := by
  unfold rwlPathBy
  try dsimp only
  with_reducible repeat' first
    | assumption | apply Follows.ite | apply deny_follows | apply refuseKey_follows
    | apply bookRequested_follows | apply hF_act | simp only [Follows.mk_iff] | apply atNow_follows
    | exact Nat.le_refl _

theorem rwlPath_follows (m : Master) (k : Nat) (ok : Bool) (act : State → State) (hF_act : ∀ s, Follows keep lock r0 s → Follows keep lock r0 (act s)) (hF : Follows keep lock r0 s) :
    Follows keep lock r0 (rwlPath m k ok act s) := by
  unfold rwlPath
  try dsimp only
  with_reducible repeat' first
    | assumption | intro _ | apply rwlPathBy_follows | apply hF_act

theorem plainWrite_follows (k : Nat) (v : Word) (hF : Follows keep lock r0 s) :
    Follows keep lock r0 (plainWrite k v s) := by
  unfold plainWrite
  try dsimp only
  with_reducible repeat' first
    | assumption | apply wr_follows

end Sys2Proof.Machine
end

