-- ==== Sys2Proof/Laws/FollowGio.lean ====
section
/-! SUPPORT. What the operations of Machine/Gio.lean keep (Laws/Follows.lean). -/

set_option linter.unusedTactic false
set_option linter.unreachableTactic false
set_option linter.unusedVariables false

namespace Sys2Proof.Machine

variable {keep lock : Bool} {r0 s : State}

theorem onGio_follows (f : Gio → Gio) (hF : Follows keep lock r0 s) :
    Follows keep lock r0 (onGio f s) := by
  unfold onGio
  try dsimp only
  with_reducible repeat' first
    | assumption | simp only [Follows.mk_iff] | apply atNow_follows | exact Nat.le_refl _

theorem setI2c_follows (k : Nat) (x : I2c) (hF : Follows keep lock r0 s) :
    Follows keep lock r0 (setI2c k x s) := by
  unfold setI2c
  try dsimp only
  with_reducible repeat' first
    | assumption | intro _ | apply onGio_follows | simp only [Follows.mk_iff] | apply atNow_follows
    | exact Nat.le_refl _

theorem setSpi_follows (k : Nat) (x : Spi) (hF : Follows keep lock r0 s) :
    Follows keep lock r0 (setSpi k x s) := by
  unfold setSpi
  try dsimp only
  with_reducible repeat' first
    | assumption | intro _ | apply onGio_follows | simp only [Follows.mk_iff] | apply atNow_follows
    | exact Nat.le_refl _

theorem setUart_follows (k : Nat) (x : Uart) (hF : Follows keep lock r0 s) :
    Follows keep lock r0 (setUart k x s) := by
  unfold setUart
  try dsimp only
  with_reducible repeat' first
    | assumption | intro _ | apply onGio_follows | simp only [Follows.mk_iff] | apply atNow_follows
    | exact Nat.le_refl _

theorem setPin_follows (n : Nat) (v : Bool) (hF : Follows keep lock r0 s) :
    Follows keep lock r0 (setPin n v s) := by
  unfold setPin
  try dsimp only
  with_reducible repeat' first
    | assumption | intro _ | apply Follows.ite | apply onGio_follows | apply raise_follows
    | simp only [Follows.mk_iff] | apply atNow_follows | exact Nat.le_refl _

theorem drivePins_follows  (hF : Follows keep lock r0 s) :
    Follows keep lock r0 (drivePins s) := by
  unfold drivePins
  try dsimp only
  with_reducible repeat' first
    | assumption | intro _ | apply forEach_follows | apply setPin_follows | simp only [Follows.mk_iff]
    | apply atNow_follows | exact Nat.le_refl _ | split

theorem writeGpio_follows (off : Nat) (v : Word) (hF : Follows keep lock r0 s) :
    Follows keep lock r0 (writeGpio off v s) := by
  unfold writeGpio
  try dsimp only
  with_reducible repeat' first
    | assumption | apply Follows.ite | apply drivePins_follows | apply wr_follows
    | split

theorem i2cRun_follows (k : Nat) (acts : List (Nat × Bool)) (own : Bool) (hF : Follows keep lock r0 s) :
    Follows keep lock r0 (i2cRun k acts own s) := by
  unfold i2cRun
  try dsimp only
  with_reducible repeat' first
    | assumption | apply drivePins_follows | apply setI2c_follows | simp only [Follows.mk_iff]
    | apply atNow_follows | exact Nat.le_refl _ | exact Nat.le_max_left _ _ | exact Nat.le_add_right _ _

theorem writeI2cCmd_follows (k : Nat) (v : Word) (hF : Follows keep lock r0 s) :
    Follows keep lock r0 (writeI2cCmd k v s) := by
  unfold writeI2cCmd
  try dsimp only
  with_reducible repeat' first
    | assumption | apply Follows.ite | apply i2cRun_follows | apply wr_follows | split

theorem i2cEnds_follows (k a : Nat) (nack arb tmo : Bool) (hF : Follows keep lock r0 s) :
    Follows keep lock r0 (i2cEnds k a nack arb tmo s) := by
  unfold i2cEnds
  try dsimp only
  with_reducible repeat' first
    | assumption | apply Follows.ite | apply raise_follows | apply i2cRun_follows
    | apply wr_follows | simp only [Follows.mk_iff] | apply atNow_follows | exact Nat.le_refl _
    | split

theorem spiStart_follows (k : Nat) (hF : Follows keep lock r0 s) :
    Follows keep lock r0 (spiStart k s) := by
  unfold spiStart
  try dsimp only
  with_reducible repeat' first
    | assumption | apply Follows.ite | apply setSpi_follows | simp only [Follows.mk_iff]
    | apply atNow_follows | exact Nat.le_refl _ | exact Nat.le_max_left _ _ | exact Nat.le_add_right _ _
    | split

theorem writeSpi_follows (k off : Nat) (v : Word) (hF : Follows keep lock r0 s) :
    Follows keep lock r0 (writeSpi k off v s) := by
  unfold writeSpi
  try dsimp only
  with_reducible repeat' first
    | assumption | apply Follows.ite | apply drivePins_follows | apply spiStart_follows
    | apply wr_follows | apply setSpi_follows | simp only [Follows.mk_iff] | apply atNow_follows
    | exact Nat.le_refl _

theorem uartStart_follows (k : Nat) (hF : Follows keep lock r0 s) :
    Follows keep lock r0 (uartStart k s) := by
  unfold uartStart
  try dsimp only
  with_reducible repeat' first
    | assumption | apply Follows.ite | apply setUart_follows | simp only [Follows.mk_iff]
    | apply atNow_follows | exact Nat.le_refl _ | exact Nat.le_max_left _ _ | exact Nat.le_add_right _ _
    | split

theorem readSpiRx_follows (k : Nat) (hF : Follows keep lock r0 s) :
    Follows keep lock r0 (readSpiRx k s) := by
  unfold readSpiRx
  try dsimp only
  with_reducible repeat' first
    | assumption | apply respond_follows | apply setSpi_follows | simp only [Follows.mk_iff]
    | apply atNow_follows | exact Nat.le_refl _ | split

theorem writeUart_follows (k off : Nat) (v : Word) (hF : Follows keep lock r0 s) :
    Follows keep lock r0 (writeUart k off v s) := by
  unfold writeUart
  try dsimp only
  with_reducible repeat' first
    | assumption | apply Follows.ite | apply drivePins_follows | apply uartStart_follows
    | apply wr_follows | apply setUart_follows | simp only [Follows.mk_iff] | apply atNow_follows
    | exact Nat.le_refl _

theorem readUartRx_follows (k : Nat) (hF : Follows keep lock r0 s) :
    Follows keep lock r0 (readUartRx k s) := by
  unfold readUartRx
  try dsimp only
  with_reducible repeat' first
    | assumption | apply respond_follows | apply drivePins_follows | apply setUart_follows
    | simp only [Follows.mk_iff] | apply atNow_follows | exact Nat.le_refl _ | split

theorem frameStamp_follows (e t : Nat) (hF : Follows keep lock r0 s) :
    Follows keep lock r0 (frameStamp e t s).2 := by
  unfold frameStamp
  try dsimp only
  with_reducible repeat' first
    | assumption | apply draw_follows | simp only [Follows.mk_iff] | apply atNow_follows
    | exact Nat.le_refl _ | refine Follows.of_snd (by assumption) ?_ | split | dsimp only

theorem descDone_follows (e base a : Nat) (err : Bool) (stamp : Option Nat) (hF : Follows false lock r0 s) :
    Follows false lock r0 (descDone e base a err stamp s) := by
  unfold descDone
  try dsimp only
  with_reducible repeat' first
    | assumption | apply Follows.ite | apply sramWrite_follows | apply wr_follows

theorem countFrame_follows (e off : Nat) (hF : Follows keep lock r0 s) :
    Follows keep lock r0 (countFrame e off s) := by
  unfold countFrame
  try dsimp only
  with_reducible repeat' first
    | assumption | apply wr_follows

theorem writeEth_follows (e off : Nat) (v : Word) (hF : Follows keep lock r0 s) :
    Follows keep lock r0 (writeEth e off v s) := by
  unfold writeEth
  try dsimp only
  with_reducible repeat' first
    | assumption | intro _ | apply Follows.ite | apply wr_follows | apply onGio_follows
    | simp only [Follows.mk_iff] | apply atNow_follows | exact Nat.le_refl _ | exact Nat.le_max_left _ _
    | exact Nat.le_add_right _ _ | split

theorem gioReset_follows  (hF : Follows keep lock r0 s) :
    Follows keep lock r0 (gioReset s) := by
  unfold gioReset
  try dsimp only
  with_reducible repeat' first
    | assumption | intro _ | apply onGio_follows | simp only [Follows.mk_iff] | apply atNow_follows
    | exact Nat.le_refl _

theorem execGpioEdge_follows (n : Fin 32) (rise : Bool) (hF : Follows keep lock r0 s) :
    ∃ s1, execGpioEdge n rise s = .next s1 ∧ Follows keep lock r0 s1 := by
  refine ⟨_, rfl, ?_⟩
  try dsimp only
  with_reducible repeat' first
    | assumption | apply Follows.ite | apply setPin_follows | apply drivePins_follows
    | apply uartStart_follows | split

theorem execGpioSet_follows (m : Master) (v : Word) (hF : Follows keep lock r0 s) :
    ∃ s1, execGpioSet m v s = .next s1 ∧ Follows keep lock r0 s1 := by
  refine ⟨_, rfl, ?_⟩
  try dsimp only
  with_reducible repeat' first
    | assumption | intro _ | apply byBus_follows | apply writeGpio_follows

theorem execGpioClr_follows (m : Master) (v : Word) (hF : Follows keep lock r0 s) :
    ∃ s1, execGpioClr m v s = .next s1 ∧ Follows keep lock r0 s1 := by
  refine ⟨_, rfl, ?_⟩
  try dsimp only
  with_reducible repeat' first
    | assumption | intro _ | apply byBus_follows | apply writeGpio_follows

theorem execI2cStart_follows (m : Master) (k : Fin 4) (hF : Follows keep lock r0 s) :
    ∃ s1, execI2cStart m k s = .next s1 ∧ Follows keep lock r0 s1 := by
  refine ⟨_, rfl, ?_⟩
  try dsimp only
  with_reducible repeat' first
    | assumption | intro _ | apply byBus_follows | apply writeI2cCmd_follows

theorem execI2cStop_follows (m : Master) (k : Fin 4) (hF : Follows keep lock r0 s) :
    ∃ s1, execI2cStop m k s = .next s1 ∧ Follows keep lock r0 s1 := by
  refine ⟨_, rfl, ?_⟩
  try dsimp only
  with_reducible repeat' first
    | assumption | intro _ | apply byBus_follows | apply writeI2cCmd_follows

theorem execI2cWrite_follows (m : Master) (k : Fin 4) (hF : Follows keep lock r0 s) :
    ∃ s1, execI2cWrite m k s = .next s1 ∧ Follows keep lock r0 s1 := by
  refine ⟨_, rfl, ?_⟩
  try dsimp only
  with_reducible repeat' first
    | assumption | intro _ | apply byBus_follows | apply writeI2cCmd_follows

theorem execI2cRead_follows (m : Master) (k : Fin 4) (ack : Bool) (hF : Follows keep lock r0 s) :
    ∃ s1, execI2cRead m k ack s = .next s1 ∧ Follows keep lock r0 s1 := by
  refine ⟨_, rfl, ?_⟩
  try dsimp only
  with_reducible repeat' first
    | assumption | intro _ | apply Follows.ite | apply byBus_follows | apply writeI2cCmd_follows

theorem execI2cDone_follows (k : Fin 4) (nack arb : Bool) (byte : Byte) (hF : Follows keep lock r0 s) :
    ∃ s1, execI2cDone k nack arb byte s = .next s1 ∧ Follows keep lock r0 s1 := by
  refine ⟨_, rfl, ?_⟩
  try dsimp only
  with_reducible repeat' first
    | assumption | apply Follows.ite | apply upto_follows | apply draw_follows | apply wr_follows
    | apply i2cEnds_follows | simp only [Follows.mk_iff] | apply atNow_follows | exact Nat.le_refl _
    | refine Follows.of_snd (by assumption) ?_ | split | dsimp only

theorem execI2cTimeout_follows (k : Fin 4) (hF : Follows keep lock r0 s) :
    ∃ s1, execI2cTimeout k s = .next s1 ∧ Follows keep lock r0 s1 := by
  refine ⟨_, rfl, ?_⟩
  try dsimp only
  with_reducible repeat' first
    | assumption | apply Follows.ite | apply i2cEnds_follows | apply upto_follows
    | simp only [Follows.mk_iff] | apply atNow_follows | exact Nat.le_refl _ | split

theorem execSpiTxdata_follows (m : Master) (k : Fin 2) (v : Byte) (hF : Follows keep lock r0 s) :
    ∃ s1, execSpiTxdata m k v s = .next s1 ∧ Follows keep lock r0 s1 := by
  refine ⟨_, rfl, ?_⟩
  try dsimp only
  with_reducible repeat' first
    | assumption | intro _ | apply byBus_follows | apply writeSpi_follows

theorem execSpiRxdata_follows (m : Master) (k : Fin 2) (hF : Follows keep lock r0 s) :
    ∃ s1, execSpiRxdata m k s = .next s1 ∧ Follows keep lock r0 s1 := by
  refine ⟨_, rfl, ?_⟩
  try dsimp only
  with_reducible repeat' first
    | assumption | intro _ | apply readAt_follows | apply readSpiRx_follows

theorem execSpiByteDone_follows (k : Fin 2) (wire : Byte) (hF : Follows keep lock r0 s) :
    ∃ s1, execSpiByteDone k wire s = .next s1 ∧ Follows keep lock r0 s1 := by
  refine ⟨_, rfl, ?_⟩
  try dsimp only
  with_reducible repeat' first
    | assumption | apply Follows.ite | apply upto_follows | apply draw_follows | apply setSpi_follows
    | apply raise_follows | apply wrb_follows | apply drivePins_follows | apply spiStart_follows
    | simp only [Follows.mk_iff] | apply atNow_follows | exact Nat.le_refl _ | refine Follows.of_snd (by assumption) ?_
    | split | dsimp only

theorem execUartTx_follows (m : Master) (k : Fin 2) (v : Byte) (hF : Follows keep lock r0 s) :
    ∃ s1, execUartTx m k v s = .next s1 ∧ Follows keep lock r0 s1 := by
  refine ⟨_, rfl, ?_⟩
  try dsimp only
  with_reducible repeat' first
    | assumption | intro _ | apply byBus_follows | apply writeUart_follows

theorem execUartRx_follows (m : Master) (k : Fin 2) (hF : Follows keep lock r0 s) :
    ∃ s1, execUartRx m k s = .next s1 ∧ Follows keep lock r0 s1 := by
  refine ⟨_, rfl, ?_⟩
  try dsimp only
  with_reducible repeat' first
    | assumption | intro _ | apply readAt_follows | apply readUartRx_follows

theorem execUartRxByte_follows (k : Fin 2) (v : Byte) (perr ferr : Bool) (hF : Follows keep lock r0 s) :
    ∃ s1, execUartRxByte k v perr ferr s = .next s1 ∧ Follows keep lock r0 s1 := by
  refine ⟨_, rfl, ?_⟩
  try dsimp only
  with_reducible repeat' first
    | assumption | apply Follows.ite | apply raise_follows | apply wrb_follows | apply drivePins_follows
    | apply setUart_follows | simp only [Follows.mk_iff] | apply atNow_follows | exact Nat.le_refl _
    | split

theorem execUartTxByteDone_follows (k : Fin 2) (hF : Follows keep lock r0 s) :
    ∃ s1, execUartTxByteDone k s = .next s1 ∧ Follows keep lock r0 s1 := by
  refine ⟨_, rfl, ?_⟩
  try dsimp only
  with_reducible repeat' first
    | assumption | apply Follows.ite | apply upto_follows | apply setUart_follows
    | apply drivePins_follows | apply raise_follows | apply uartStart_follows | simp only [Follows.mk_iff]
    | apply atNow_follows | exact Nat.le_refl _ | split

theorem execEthTxTail_follows (m : Master) (e : Fin 2) (v : Word) (hF : Follows keep lock r0 s) :
    ∃ s1, execEthTxTail m e v s = .next s1 ∧ Follows keep lock r0 s1 := by
  refine ⟨_, rfl, ?_⟩
  try dsimp only
  with_reducible repeat' first
    | assumption | intro _ | apply byBus_follows | apply writeEth_follows

theorem execEthRxTail_follows (m : Master) (e : Fin 2) (v : Word) (hF : Follows keep lock r0 s) :
    ∃ s1, execEthRxTail m e v s = .next s1 ∧ Follows keep lock r0 s1 := by
  refine ⟨_, rfl, ?_⟩
  try dsimp only
  with_reducible repeat' first
    | assumption | intro _ | apply byBus_follows | apply writeEth_follows

theorem execTxDone_follows (e : Fin 2) (err : Bool) (sfd : Nat) (hF : Follows false lock r0 s) :
    ∃ s1, execTxDone e err sfd s = .next s1 ∧ Follows false lock r0 s1 := by
  refine ⟨_, rfl, ?_⟩
  try dsimp only
  with_reducible repeat' first
    | assumption | intro _ | apply Follows.ite | apply sramCheck_follows | apply upto_follows
    | apply frameStamp_follows | apply descDone_follows | apply onGio_follows | apply raise_follows
    | apply countFrame_follows | simp only [Follows.mk_iff] | apply atNow_follows | exact Nat.le_refl _
    | refine Follows.of_snd (by assumption) ?_ | split | dsimp only

theorem execRxDone_follows (e : Fin 2) (frame : List Byte) (err : Bool) (sfd : Nat) (hF : Follows false lock r0 s) :
    ∃ s1, execRxDone e frame err sfd s = .next s1 ∧ Follows false lock r0 s1 := by
  refine ⟨_, rfl, ?_⟩
  try dsimp only
  with_reducible repeat' first
    | assumption | intro _ | apply Follows.ite | apply onGio_follows | apply raise_follows
    | apply wrb_follows | apply countFrame_follows | apply sramWrite_follows | apply frameStamp_follows
    | apply descDone_follows | simp only [Follows.mk_iff] | apply atNow_follows | exact Nat.le_refl _
    | exact Nat.le_max_left _ _ | exact Nat.le_add_right _ _ | refine Follows.of_snd (by assumption) ?_
    | split | dsimp only

theorem execMdioGo_follows (m : Master) (e : Fin 2) (v : BitVec 11) (hF : Follows keep lock r0 s) :
    ∃ s1, execMdioGo m e v s = .next s1 ∧ Follows keep lock r0 s1 := by
  refine ⟨_, rfl, ?_⟩
  try dsimp only
  with_reducible repeat' first
    | assumption | intro _ | apply byBus_follows | apply writeEth_follows

theorem execMdioDone_follows (e : Fin 2) (v : BitVec 16) (hF : Follows keep lock r0 s) :
    ∃ s1, execMdioDone e v s = .next s1 ∧ Follows keep lock r0 s1 := by
  refine ⟨_, rfl, ?_⟩
  try dsimp only
  with_reducible repeat' first
    | assumption | apply Follows.ite | apply upto_follows | apply wr_follows | apply raise_follows
    | apply wrb_follows | split

end Sys2Proof.Machine
end

