-- ==== Sys2Proof/Laws/FollowGroups.lean ====
section
/-! SUPPORT. What the operations of Machine/Groups.lean keep (Laws/Follows.lean). -/

set_option linter.unusedTactic false
set_option linter.unreachableTactic false
set_option linter.unusedVariables false

namespace Sys2Proof.Machine

variable {keep lock : Bool} {r0 s : State}

theorem setDom_follows (d : Nat) (x : Dom) (hF : Follows keep lock r0 s) :
    Follows keep lock r0 (setDom d x s) := by
  unfold setDom
  try dsimp only
  with_reducible repeat' first
    | assumption | simp only [Follows.mk_iff] | apply atNow_follows | exact Nat.le_refl _

theorem setGrp_follows (k : Nat) (x : Grp) (hF : Follows keep lock r0 s) :
    Follows keep lock r0 (setGrp k x s) := by
  unfold setGrp
  try dsimp only
  with_reducible repeat' first
    | assumption | simp only [Follows.mk_iff] | apply atNow_follows | exact Nat.le_refl _

theorem commitRegs_follows (t : PageType) (n g : Nat) (hF : Follows keep lock r0 s) :
    Follows keep lock r0 (commitRegs t n g s) := by
  unfold commitRegs
  try dsimp only
  with_reducible repeat' first
    | assumption | intro _ | apply forEach_follows | apply setForce_follows

theorem raiseCommit_follows (t : PageType) (n g : Nat) (hF : Follows keep lock r0 s) :
    Follows keep lock r0 (raiseCommit t n g s) := by
  unfold raiseCommit
  try dsimp only
  with_reducible repeat' first
    | assumption | apply raise_follows | simp only [Follows.mk_iff] | apply atNow_follows
    | exact Nat.le_refl _ | split

theorem setLate_follows (t : PageType) (n g : Nat) (hF : Follows keep lock r0 s) :
    Follows keep lock r0 (setLate t n g s) := by
  unfold setLate
  try dsimp only
  with_reducible repeat' first
    | assumption | apply raiseCommit_follows | apply wrb_follows

theorem openGroup_follows (t : PageType) (n g : Nat) (hF : Follows keep lock r0 s) :
    Follows keep lock r0 (openGroup t n g s) := by
  unfold openGroup
  try dsimp only
  with_reducible repeat' first
    | assumption | apply Follows.ite | apply wrb_follows | apply setLate_follows
    | apply setGrp_follows | simp only [Follows.mk_iff] | apply atNow_follows | exact Nat.le_refl _

theorem armGroup_follows (t : PageType) (n g : Nat) (hF : Follows keep lock r0 s) :
    Follows keep lock r0 (armGroup t n g s) := by
  unfold armGroup
  try dsimp only
  with_reducible repeat' first
    | assumption | apply Follows.ite | apply setGrp_follows | apply setLate_follows
    | simp only [Follows.mk_iff] | apply atNow_follows | exact Nat.le_refl _ | split

theorem passUndone_follows (t : PageType) (n g : Nat) (hF : Follows keep lock r0 s) :
    Follows keep lock r0 (passUndone t n g s) := by
  unfold passUndone
  try dsimp only
  with_reducible repeat' first
    | assumption | apply Follows.ite | simp only [Follows.mk_iff] | apply atNow_follows
    | exact Nat.le_refl _

theorem discardGroup_follows (t : PageType) (n g : Nat) (hF : Follows keep lock r0 s) :
    Follows keep lock r0 (discardGroup t n g s) := by
  unfold discardGroup
  try dsimp only
  with_reducible repeat' first
    | assumption | intro _ | apply Follows.ite | apply passUndone_follows | apply forEach_follows
    | apply wr_follows | apply setGrp_follows | apply wrb_follows | simp only [Follows.mk_iff]
    | apply atNow_follows | exact Nat.le_refl _

theorem closeGroup_follows (t : PageType) (n g : Nat) (hF : Follows keep lock r0 s) :
    Follows keep lock r0 (closeGroup t n g s) := by
  unfold closeGroup
  try dsimp only
  with_reducible repeat' first
    | assumption | apply Follows.ite | apply wrb_follows | apply setGrp_follows | simp only [Follows.mk_iff]
    | apply atNow_follows | exact Nat.le_refl _

theorem refuseGroup_follows (t : PageType) (n g : Nat) (hF : Follows keep lock r0 s) :
    Follows keep lock r0 (refuseGroup t n g s) := by
  unfold refuseGroup
  try dsimp only
  with_reducible repeat' first
    | assumption | apply passUndone_follows | apply wrb_follows | apply setGrp_follows
    | simp only [Follows.mk_iff] | apply atNow_follows | exact Nat.le_refl _

end Sys2Proof.Machine
end

