-- ==== Sys2Proof/Laws/FollowLevels.lean ====
section
/-! SUPPORT. What the operations of Machine/Levels.lean keep (Laws/Follows.lean). -/

set_option linter.unusedTactic false
set_option linter.unreachableTactic false
set_option linter.unusedVariables false

namespace Sys2Proof.Machine

variable {keep lock : Bool} {r0 s : State}

theorem setLeg_follows (l : Nat) (x : Leg) (hF : Follows keep lock r0 s) :
    Follows keep lock r0 (setLeg l x s) := by
  unfold setLeg
  try dsimp only
  with_reducible repeat' first
    | assumption | simp only [Follows.mk_iff] | apply atNow_follows | exact Nat.le_refl _

theorem onLeg_follows (l : Nat) (f : Leg → Leg) (hF : Follows keep lock r0 s) :
    Follows keep lock r0 (onLeg l f s) := by
  unfold onLeg
  try dsimp only
  with_reducible repeat' first
    | assumption | apply setLeg_follows

theorem setPhase_follows (p : Nat) (x : Phase) (hF : Follows keep lock r0 s) :
    Follows keep lock r0 (setPhase p x s) := by
  unfold setPhase
  try dsimp only
  with_reducible repeat' first
    | assumption | simp only [Follows.mk_iff] | apply atNow_follows | exact Nat.le_refl _

theorem noteRise_follows (l at' : Nat) (was : Bool × Bool) (hF : Follows keep lock r0 s) :
    Follows keep lock r0 (noteRise l at' was s) := by
  unfold noteRise
  try dsimp only
  with_reducible repeat' first
    | assumption | intro _ | apply Follows.ite | apply setPhase_follows | apply onLeg_follows
    | simp only [Follows.mk_iff] | apply atNow_follows | exact Nat.le_refl _

theorem clampFollow_follows (us : State) (l : Nat) (hF : Follows keep lock r0 s) :
    Follows keep lock r0 (clampFollow us l s) := by
  unfold clampFollow
  try dsimp only
  with_reducible repeat' first
    | assumption | intro _ | apply Follows.ite | apply onLeg_follows | simp only [Follows.mk_iff]
    | apply atNow_follows | exact Nat.le_refl _

theorem settle_follows (us : State) (hF : Follows keep lock r0 s) :
    Follows keep lock r0 (settle us s) := by
  unfold settle
  try dsimp only
  with_reducible repeat' first
    | assumption | intro _ | apply Follows.ite | apply forEach_follows | apply onLeg_follows
    | apply noteRise_follows | apply clampFollow_follows | simp only [Follows.mk_iff] | apply atNow_follows
    | exact Nat.le_refl _ | exact Nat.le_max_left _ _ | exact Nat.le_add_right _ _

end Sys2Proof.Machine
end

