-- ==== Sys2Proof/Laws/FollowLegs.lean ====
section
/-! SUPPORT. What the operations of Machine/Legs.lean keep (Laws/Follows.lean). -/

set_option linter.unusedTactic false
set_option linter.unreachableTactic false
set_option linter.unusedVariables false

namespace Sys2Proof.Machine

variable {keep lock : Bool} {r0 s : State}

theorem inheritPer_follows (d : Nat) (hF : Follows keep lock r0 s) :
    Follows keep lock r0 (inheritPer d s) := by
  unfold inheritPer
  try dsimp only
  with_reducible repeat' first
    | assumption | apply setForce_follows | apply wr_follows | simp only [Follows.mk_iff]
    | apply atNow_follows | exact Nat.le_refl _ | split

theorem commitLeg_follows (l pNew pOld ended : Nat) (hF : Follows keep lock r0 s) :
    Follows keep lock r0 (commitLeg l pNew pOld ended s) := by
  unfold commitLeg
  try dsimp only
  with_reducible repeat' first
    | assumption | intro _ | apply Follows.ite | apply commitRegs_follows | apply onLeg_follows
    | apply wrb_follows | apply closeGroup_follows | apply raiseCommit_follows | simp only [Follows.mk_iff]
    | apply atNow_follows | exact Nat.le_refl _ | split

theorem raiseDomain_follows (d : Nat) (hF : Follows keep lock r0 s) :
    Follows keep lock r0 (raiseDomain d s) := by
  unfold raiseDomain
  try dsimp only
  with_reducible repeat' first
    | assumption | apply raise_follows | simp only [Follows.mk_iff] | apply atNow_follows
    | exact Nat.le_refl _ | split

theorem setLock_follows (d st : Nat) (hF : Follows keep lock r0 s) :
    Follows keep lock r0 (setLock d st s) := by
  unfold setLock
  try dsimp only
  with_reducible repeat' first
    | assumption | apply wrf_follows

theorem enterLocked_follows (d : Nat) (hF : Follows keep lock r0 s) :
    Follows keep lock r0 (enterLocked d s) := by
  unfold enterLocked
  try dsimp only
  with_reducible repeat' first
    | assumption | apply raiseDomain_follows | apply wrb_follows | apply setLock_follows

theorem dropErr_follows (d : Nat) (hF : Follows keep lock r0 s) :
    Follows keep lock r0 (dropErr d s) := by
  unfold dropErr
  try dsimp only
  with_reducible repeat' first
    | assumption | apply setDom_follows | simp only [Follows.mk_iff] | apply atNow_follows
    | exact Nat.le_refl _

theorem breakLock_follows (d : Nat) (hF : Follows keep lock r0 s) :
    Follows keep lock r0 (breakLock d s) := by
  unfold breakLock
  try dsimp only
  with_reducible repeat' first
    | assumption | apply raiseDomain_follows | apply dropErr_follows | apply wrb_follows
    | apply setLock_follows

theorem refuseLock_follows (d : Nat) (hF : Follows keep lock r0 s) :
    Follows keep lock r0 (refuseLock d s) := by
  unfold refuseLock
  try dsimp only
  with_reducible repeat' first
    | assumption | apply raiseDomain_follows | apply wrb_follows | apply setLock_follows

theorem checkLock_follows (d : Nat) (hF : Follows keep lock r0 s) :
    Follows keep lock r0 (checkLock d s) := by
  unfold checkLock
  try dsimp only
  with_reducible repeat' first
    | assumption | apply Follows.ite | apply breakLock_follows | simp only [Follows.mk_iff]
    | apply atNow_follows | exact Nat.le_refl _ | split

theorem commitLock_follows (d : Nat) (hF : Follows keep lock r0 s) :
    Follows keep lock r0 (commitLock d s) := by
  unfold commitLock
  try dsimp only
  with_reducible repeat' first
    | assumption | apply Follows.ite | apply checkLock_follows | apply setDom_follows
    | apply setLock_follows | simp only [Follows.mk_iff] | apply atNow_follows | exact Nat.le_refl _
    | split

theorem refuseOverlap_follows (l at' : Nat) (hF : Follows keep lock r0 s) :
    Follows keep lock r0 (refuseOverlap l at' s) := by
  unfold refuseOverlap
  try dsimp only
  with_reducible repeat' first
    | assumption | intro _ | apply onLeg_follows | apply incHeld_follows | apply raise_follows
    | apply wrb_follows | simp only [Follows.mk_iff] | apply atNow_follows | exact Nat.le_refl _

theorem joinLegs_follows (d : Nat) (hF : Follows keep lock r0 s) :
    Follows keep lock r0 (joinLegs d s) := by
  unfold joinLegs
  try dsimp only
  with_reducible repeat' first
    | assumption | intro _ | apply Follows.ite | apply forEach_follows | apply onLeg_follows
    | apply inheritPer_follows | simp only [Follows.mk_iff] | apply atNow_follows | exact Nat.le_refl _

theorem commitLegs_follows (d tk pNew : Nat) (hF : Follows keep lock r0 s) :
    Follows keep lock r0 (commitLegs d tk pNew s) := by
  unfold commitLegs
  try dsimp only
  with_reducible repeat' first
    | assumption | intro _ | apply Follows.ite | apply forEach_follows | apply commitLeg_follows
    | apply raiseCommit_follows | apply refuseGroup_follows

theorem withdrawDarm_follows (k : Nat) (hF : Follows keep lock r0 s) :
    Follows keep lock r0 (withdrawDarm k s) := by
  unfold withdrawDarm
  try dsimp only
  with_reducible repeat' first
    | assumption | apply raiseCommit_follows | apply wrb_follows | apply passUndone_follows
    | apply setGrp_follows | simp only [Follows.mk_iff] | apply atNow_follows | exact Nat.le_refl _

theorem withdrawDue_follows (d tk : Nat) (hF : Follows keep lock r0 s) :
    Follows keep lock r0 (withdrawDue d tk s) := by
  unfold withdrawDue
  try dsimp only
  with_reducible repeat' first
    | assumption | intro _ | apply Follows.ite | apply forEach_follows | apply withdrawDarm_follows
    | simp only [Follows.mk_iff] | apply atNow_follows | exact Nat.le_refl _

theorem darmsDue_follows (d : Nat) (hF : Follows keep lock r0 s) :
    Follows keep lock r0 (darmsDue d s) := by
  unfold darmsDue
  try dsimp only
  with_reducible repeat' first
    | assumption | intro _ | apply Follows.ite | apply withdrawDue_follows | simp only [Follows.mk_iff]
    | apply atNow_follows | exact Nat.le_refl _

theorem takeEdge_follows (l : Nat) (outB : Bool) (t : Nat) (rise : Bool) (hF : Follows keep lock r0 s) :
    Follows keep lock r0 (takeEdge l outB t rise s) := by
  unfold takeEdge
  try dsimp only
  with_reducible repeat' first
    | assumption | intro _ | apply Follows.ite | apply upto_follows | apply onLeg_follows
    | apply refuseOverlap_follows | apply noteRise_follows | simp only [Follows.mk_iff]
    | apply atNow_follows | exact Nat.le_refl _ | exact Nat.le_max_left _ _ | exact Nat.le_add_right _ _

theorem doEdge_follows (l : Nat) (outB : Bool) (hF : Follows keep lock r0 s) :
    Follows keep lock r0 (doEdge l outB s) := by
  unfold doEdge
  try dsimp only
  with_reducible repeat' first
    | assumption | apply Follows.ite | apply takeEdge_follows | simp only [Follows.mk_iff]
    | apply atNow_follows | exact Nat.le_refl _ | split

theorem catchUp_follows (l stop : Nat) (k : Nat) (hF : Follows keep lock r0 s) :
    Follows keep lock r0 (catchUp l stop k  s) := by
  induction k generalizing s  with
  | zero => exact hF
  | succ k ih =>
  rw [catchUp]
  try dsimp only
  with_reducible repeat' first
    | assumption | apply ih | intro _ | apply Follows.ite | apply takeEdge_follows
    | simp only [Follows.mk_iff] | apply atNow_follows | exact Nat.le_refl _ | split

theorem finishEdges_follows (d stop : Nat) (hF : Follows keep lock r0 s) :
    Follows keep lock r0 (finishEdges d stop s) := by
  unfold finishEdges
  try dsimp only
  with_reducible repeat' first
    | assumption | intro _ | apply Follows.ite | apply forEach_follows | apply catchUp_follows

theorem endTrunc_follows (l : Nat) (hF : Follows keep lock r0 s) :
    Follows keep lock r0 (endTrunc l s) := by
  unfold endTrunc
  try dsimp only
  with_reducible repeat' first
    | assumption | intro _ | apply Follows.ite | apply onLeg_follows | simp only [Follows.mk_iff]
    | apply atNow_follows | exact Nat.le_refl _

theorem legPeriod_follows (l : Nat) (ubefore : State) (hF : Follows keep lock r0 s) :
    Follows keep lock r0 (legPeriod l ubefore s) := by
  unfold legPeriod
  try dsimp only
  with_reducible repeat' first
    | assumption | intro _ | apply Follows.ite | apply onLeg_follows | apply raise_follows
    | apply refuseOverlap_follows | apply noteRise_follows | apply clampFollow_follows
    | simp only [Follows.mk_iff] | apply atNow_follows | exact Nat.le_refl _

theorem legBoundary_follows (d : Nat) (hF : Follows keep lock r0 s) :
    Follows keep lock r0 (legBoundary d s) := by
  unfold legBoundary
  try dsimp only
  with_reducible repeat' first
    | assumption | intro _ | apply Follows.ite | apply finishEdges_follows | apply upto_follows
    | apply joinLegs_follows | apply forEach_follows | apply onLeg_follows | apply commitLegs_follows
    | apply setDom_follows | apply commitLock_follows | apply enterLocked_follows | apply incMod_follows
    | apply legPeriod_follows | apply endTrunc_follows | simp only [Follows.mk_iff] | apply atNow_follows
    | exact Nat.le_refl _ | split

theorem startDomain_follows (d : Nat) (hF : Follows keep lock r0 s) :
    Follows keep lock r0 (startDomain d s) := by
  unfold startDomain
  try dsimp only
  with_reducible repeat' first
    | assumption | apply Follows.ite | apply setLock_follows | apply setDom_follows
    | simp only [Follows.mk_iff] | apply atNow_follows | exact Nat.le_refl _

theorem loseBoundaries_follows (d : Nat) (hF : Follows keep lock r0 s) :
    Follows keep lock r0 (loseBoundaries d s) := by
  unfold loseBoundaries
  try dsimp only
  with_reducible repeat' first
    | assumption | intro _ | apply Follows.ite | apply setDom_follows | apply setLock_follows
    | simp only [Follows.mk_iff] | apply atNow_follows | exact Nat.le_refl _ | split

theorem writeLegCfg_follows (l : Nat) (v : Word) (hF : Follows keep lock r0 s) :
    Follows keep lock r0 (writeLegCfg l v s) := by
  unfold writeLegCfg
  try dsimp only
  with_reducible repeat' first
    | assumption | intro _ | apply Follows.ite | apply wr_follows | apply onLeg_follows
    | apply inheritPer_follows | apply loseBoundaries_follows | apply startDomain_follows
    | simp only [Follows.mk_iff] | apply atNow_follows | exact Nat.le_refl _ | split

theorem writeDomCtrl_follows (d : Nat) (v : Word) (hF : Follows keep lock r0 s) :
    Follows keep lock r0 (writeDomCtrl d v s) := by
  unfold writeDomCtrl
  try dsimp only
  with_reducible repeat' first
    | assumption | intro _ | apply Follows.ite | apply wr_follows | apply setDom_follows
    | apply wrb_follows | apply setLock_follows | apply refuseLock_follows | simp only [Follows.mk_iff]
    | apply atNow_follows | exact Nat.le_refl _

theorem testWaiting_follows  (hF : Follows keep lock r0 s) :
    Follows keep lock r0 (testWaiting s) := by
  unfold testWaiting
  try dsimp only
  with_reducible repeat' first
    | assumption | intro _ | apply Follows.ite | apply forEach_follows | apply refuseLock_follows
    | apply setLock_follows

theorem lockFollowsDatum_follows  (hF : Follows keep lock r0 s) :
    Follows keep lock r0 (lockFollowsDatum s) := by
  unfold lockFollowsDatum
  try dsimp only
  with_reducible repeat' first
    | assumption | intro _ | apply Follows.ite | apply testWaiting_follows | apply forEach_follows
    | apply setDom_follows | apply wrb_follows | apply setLock_follows | simp only [Follows.mk_iff]
    | apply atNow_follows | exact Nat.le_refl _ | split

theorem alignDomains_follows  (hF : Follows keep lock r0 s) :
    Follows keep lock r0 (alignDomains s) := by
  unfold alignDomains
  try dsimp only
  with_reducible repeat' first
    | assumption | intro _ | apply Follows.ite | apply forEach_follows | apply wr_follows
    | apply setDom_follows | apply enterLocked_follows | simp only [Follows.mk_iff] | apply atNow_follows
    | exact Nat.le_refl _ | split

theorem darmGroup_follows (n i : Nat) (hF : Follows keep lock r0 s) :
    Follows keep lock r0 (darmGroup n i s) := by
  unfold darmGroup
  try dsimp only
  with_reducible repeat' first
    | assumption | apply Follows.ite | apply setGrp_follows | apply setLate_follows
    | apply raiseCommit_follows | apply wrb_follows | simp only [Follows.mk_iff] | apply atNow_follows
    | exact Nat.le_refl _

theorem withdrawDarms_follows  (hF : Follows keep lock r0 s) :
    Follows keep lock r0 (withdrawDarms s) := by
  unfold withdrawDarms
  try dsimp only
  with_reducible repeat' first
    | assumption | intro _ | apply forEach_follows | apply withdrawDarm_follows | simp only [Follows.mk_iff]
    | apply atNow_follows | exact Nat.le_refl _

theorem calibrated_follows (l taps : Nat) (hF : Follows keep lock r0 s) :
    Follows keep lock r0 (calibrated l taps s) := by
  unfold calibrated
  try dsimp only
  with_reducible repeat' first
    | assumption | apply Follows.ite | apply setLeg_follows | apply raise_follows
    | apply wrb_follows | simp only [Follows.mk_iff] | apply atNow_follows | exact Nat.le_refl _
    | split

theorem startPwm_follows  (hF : Follows keep lock r0 s) :
    Follows keep lock r0 (startPwm s) := by
  unfold startPwm
  try dsimp only
  with_reducible repeat' first
    | assumption | apply startDomain_follows | simp only [Follows.mk_iff] | apply atNow_follows
    | exact Nat.le_refl _

theorem execEdge_follows (l : Fin 96) (outB : Bool) (hF : Follows keep lock r0 s) :
    ∃ s1, execEdge l outB s = .next s1 ∧ Follows keep lock r0 s1 := by
  refine ⟨_, rfl, ?_⟩
  try dsimp only
  with_reducible repeat' first
    | assumption | apply doEdge_follows

theorem execCalibrationDone_follows (l : Fin 96) (taps : Nat) (hF : Follows keep lock r0 s) :
    ∃ s1, execCalibrationDone l taps s = .next s1 ∧ Follows keep lock r0 s1 := by
  refine ⟨_, rfl, ?_⟩
  try dsimp only
  with_reducible repeat' first
    | assumption | apply calibrated_follows

theorem execTwinChange_follows (l : Fin 96) (hF : Follows keep lock r0 s) :
    ∃ s1, execTwinChange l s = .next s1 ∧ Follows keep lock r0 s1 := by
  refine ⟨_, rfl, ?_⟩
  try dsimp only
  with_reducible repeat' first
    | assumption | apply Follows.ite | apply setLeg_follows

theorem execCalibrationExpiry_follows (l : Fin 96) (hF : Follows keep lock r0 s) :
    ∃ s1, execCalibrationExpiry l s = .next s1 ∧ Follows keep lock r0 s1 := by
  refine ⟨_, rfl, ?_⟩
  try dsimp only
  with_reducible repeat' first
    | assumption | apply Follows.ite | apply upto_follows | apply setLeg_follows

theorem writeDarm_follows (n : Nat) (v : Word) (hF : Follows keep lock r0 s) :
    Follows keep lock r0 (writeDarm n v s) := by
  unfold writeDarm
  try dsimp only
  with_reducible repeat' first
    | assumption | intro _ | apply wr_follows | apply forEach_follows | apply darmGroup_follows

theorem execDarm_follows (m : Master) (n : Fin 12) (v : BitVec 16) (hF : Follows keep lock r0 s) :
    ∃ s1, execDarm m n v s = .next s1 ∧ Follows keep lock r0 s1 := by
  refine ⟨_, rfl, ?_⟩
  try dsimp only
  with_reducible repeat' first
    | assumption | intro _ | apply byBus_follows | apply writeDarm_follows

end Sys2Proof.Machine
end

