-- ==== Sys2Proof/Laws/FollowStats.lean ====
section
/-! SUPPORT. What the operations of Machine/Stats.lean keep (Laws/Follows.lean). -/

set_option linter.unusedTactic false
set_option linter.unreachableTactic false
set_option linter.unusedVariables false

namespace Sys2Proof.Machine

variable {keep lock : Bool} {r0 s : State}

theorem monTrigger_follows (kind r k cause : Nat) (hF : Follows keep lock r0 s) :
    Follows keep lock r0 (monTrigger kind r k cause s) := by
  unfold monTrigger
  try dsimp only
  with_reducible repeat' first
    | assumption | apply Follows.ite | simp only [Follows.mk_iff] | apply atNow_follows
    | exact Nat.le_refl _ | exact Nat.le_max_left _ _ | exact Nat.le_add_right _ _ | split

end Sys2Proof.Machine
end

