-- ==== Sys2Proof/Laws/FollowGuard.lean ====
section
/-! SUPPORT. What the operations of Machine/Guard.lean keep (Laws/Follows.lean). -/

set_option linter.unusedTactic false
set_option linter.unreachableTactic false
set_option linter.unusedVariables false

namespace Sys2Proof.Machine

variable {keep lock : Bool} {r0 s : State}

theorem setSafe_follows (k : Nat) (x : SafeSet) (hF : Follows keep lock r0 s) :
    Follows keep lock r0 (setSafe k x s) := by
  unfold setSafe
  try dsimp only
  with_reducible repeat' first
    | assumption | simp only [Follows.mk_iff] | apply atNow_follows | exact Nat.le_refl _

theorem setTrip_follows (i : Nat) (x : TripIn) (hF : Follows keep lock r0 s) :
    Follows keep lock r0 (setTrip i x s) := by
  unfold setTrip
  try dsimp only
  with_reducible repeat' first
    | assumption | simp only [Follows.mk_iff] | apply atNow_follows | exact Nat.le_refl _

theorem setMon_follows (i : Nat) (x : Mon) (hF : Follows keep lock r0 s) :
    Follows keep lock r0 (setMon i x s) := by
  unfold setMon
  try dsimp only
  with_reducible repeat' first
    | assumption | simp only [Follows.mk_iff] | apply atNow_follows | exact Nat.le_refl _

theorem setDrv_follows (g : Nat) (x : DrvGrp) (hF : Follows keep lock r0 s) :
    Follows keep lock r0 (setDrv g x s) := by
  unfold setDrv
  try dsimp only
  with_reducible repeat' first
    | assumption | simp only [Follows.mk_iff] | apply atNow_follows | exact Nat.le_refl _

theorem latchSet_follows (k kind id : Nat) (hF : Follows keep lock r0 s) :
    Follows keep lock r0 (latchSet k kind id s) := by
  unfold latchSet
  try dsimp only
  with_reducible repeat' first
    | assumption | apply Follows.ite | apply setSafe_follows | apply settle_follows
    | apply wrf_follows | apply logHap_follows | apply incHeld_follows | apply monTrigger_follows
    | simp only [Follows.mk_iff] | apply atNow_follows | exact Nat.le_refl _ | simp only [id_eq]

theorem raiseClrRefused_follows (r : Nat × Nat) (hF : Follows keep lock r0 s) :
    Follows keep lock r0 (raiseClrRefused r s) := by
  unfold raiseClrRefused
  try dsimp only
  with_reducible repeat' first
    | assumption | intro _ | apply Follows.ite | apply raiseTrip_follows | apply raise_follows
    | apply forEach_follows | simp only [Follows.mk_iff] | apply atNow_follows | exact Nat.le_refl _
    | split

theorem clearSet_follows (k : Nat) (hF : Follows keep lock r0 s) :
    Follows keep lock r0 (clearSet k s) := by
  unfold clearSet
  try dsimp only
  with_reducible repeat' first
    | assumption | intro _ | apply Follows.ite | apply settle_follows | apply setSafe_follows
    | apply logHap_follows | apply forEach_follows | apply raiseClrRefused_follows | apply wrb_follows

theorem writeSetCtl_follows (k : Nat) (v : Word) (hF : Follows keep lock r0 s) :
    Follows keep lock r0 (writeSetCtl k v s) := by
  unfold writeSetCtl
  try dsimp only
  with_reducible repeat' first
    | assumption | apply Follows.ite | apply latchSet_follows | apply clearSet_follows

theorem raiseAssert_follows (i : Nat) (hF : Follows keep lock r0 s) :
    Follows keep lock r0 (raiseAssert i s) := by
  unfold raiseAssert
  try dsimp only
  with_reducible repeat' first
    | assumption | intro _ | apply Follows.ite | apply raiseTrip_follows | apply incHeld_follows
    | apply setTrip_follows | simp only [Follows.mk_iff] | apply atNow_follows | exact Nat.le_refl _

theorem startReaction_follows (i : Nat) (hF : Follows keep lock r0 s) :
    Follows keep lock r0 (startReaction i s) := by
  unfold startReaction
  try dsimp only
  with_reducible repeat' first
    | assumption | apply settle_follows | apply setTrip_follows | apply wrb_follows
    | simp only [Follows.mk_iff] | apply atNow_follows | exact Nat.le_refl _ | split

theorem tripReact_follows (i : Nat) (hF : Follows keep lock r0 s) :
    Follows keep lock r0 (tripReact i s) := by
  unfold tripReact
  try dsimp only
  with_reducible repeat' first
    | assumption | apply Follows.ite | apply startReaction_follows | apply raiseTrip_follows
    | apply latchSet_follows | apply raiseAssert_follows

theorem writeTripCfg_follows (i : Nat) (v : Word) (hF : Follows keep lock r0 s) :
    Follows keep lock r0 (writeTripCfg i v s) := by
  unfold writeTripCfg
  try dsimp only
  with_reducible repeat' first
    | assumption | apply Follows.ite | apply settle_follows | apply plainWrite_follows
    | apply startReaction_follows

theorem clearHeld_follows (i : Nat) (hF : Follows keep lock r0 s) :
    Follows keep lock r0 (clearHeld i s) := by
  unfold clearHeld
  try dsimp only
  with_reducible repeat' first
    | assumption | apply Follows.ite | apply logHap_follows | apply raiseTrip_follows
    | apply settle_follows | apply wrb_follows

theorem tripBoundary_follows (d : Nat) (hF : Follows keep lock r0 s) :
    Follows keep lock r0 (tripBoundary d s) := by
  unfold tripBoundary
  try dsimp only
  with_reducible repeat' first
    | assumption | intro _ | apply Follows.ite | apply settle_follows | apply forEach_follows
    | apply setTrip_follows | apply raiseTrip_follows | simp only [Follows.mk_iff] | apply atNow_follows
    | exact Nat.le_refl _ | split

theorem monCross_follows (i : Nat) (hF : Follows keep lock r0 s) :
    Follows keep lock r0 (monCross i s) := by
  unfold monCross
  try dsimp only
  with_reducible repeat' first
    | assumption | apply Follows.ite | apply wrb_follows | apply raise_follows | apply incHeld_follows
    | apply latchSet_follows

theorem truncate_follows (i : Nat) (hF : Follows keep lock r0 s) :
    Follows keep lock r0 (truncate i s) := by
  unfold truncate
  try dsimp only
  with_reducible repeat' first
    | assumption | intro _ | apply Follows.ite | apply forEach_follows | apply upto_follows
    | apply onLeg_follows | simp only [Follows.mk_iff] | apply atNow_follows | exact Nat.le_refl _
    | exact Nat.le_max_left _ _ | exact Nat.le_add_right _ _

theorem monUpdate_follows (i : Nat) (hF : Follows keep lock r0 s) :
    Follows keep lock r0 (monUpdate i s) := by
  unfold monUpdate
  try dsimp only
  with_reducible repeat' first
    | assumption | apply Follows.ite | apply wrb_follows | apply truncate_follows
    | apply monCross_follows | simp only [Follows.mk_iff] | apply atNow_follows | exact Nat.le_refl _
    | split

theorem monDrop_follows (i : Nat) (hF : Follows keep lock r0 s) :
    Follows keep lock r0 (monDrop i s) := by
  unfold monDrop
  try dsimp only
  with_reducible repeat' first
    | assumption | apply Follows.ite | apply wrb_follows | split

theorem writeMonCfg_follows (i : Nat) (v : Word) (hF : Follows keep lock r0 s) :
    Follows keep lock r0 (writeMonCfg i v s) := by
  unfold writeMonCfg
  try dsimp only
  with_reducible repeat' first
    | assumption | intro _ | apply Follows.ite | apply plainWrite_follows | apply wrb_follows
    | apply monUpdate_follows | apply setMon_follows | apply settle_follows | simp only [Follows.mk_iff]
    | apply atNow_follows | exact Nat.le_refl _ | split

theorem clearLatched_follows (i : Nat) (hF : Follows keep lock r0 s) :
    Follows keep lock r0 (clearLatched i s) := by
  unfold clearLatched
  try dsimp only
  with_reducible repeat' first
    | assumption | apply Follows.ite | apply monUpdate_follows | apply wrb_follows

theorem commitMons_follows (d tk ended : Nat) (hF : Follows keep lock r0 s) :
    Follows keep lock r0 (commitMons d tk ended s) := by
  unfold commitMons
  try dsimp only
  with_reducible repeat' first
    | assumption | intro _ | apply Follows.ite | apply forEach_follows | apply raise_follows
    | apply refuseGroup_follows | apply closeGroup_follows | apply commitRegs_follows | apply wrb_follows

theorem monBoundary_follows (d : Nat) (hF : Follows keep lock r0 s) :
    Follows keep lock r0 (monBoundary d s) := by
  unfold monBoundary
  try dsimp only
  with_reducible repeat' first
    | assumption | intro _ | apply forEach_follows | apply monUpdate_follows | apply wrb_follows

theorem raiseGroup_follows (g k : Nat) (hF : Follows keep lock r0 s) :
    Follows keep lock r0 (raiseGroup g k s) := by
  unfold raiseGroup
  try dsimp only
  with_reducible repeat' first
    | assumption | intro _ | apply Follows.ite | apply forEach_follows | apply raise_follows

theorem detect_follows (p : Nat) (gross : Bool) (hF : Follows keep lock r0 s) :
    Follows keep lock r0 (detect p gross s) := by
  unfold detect
  try dsimp only
  with_reducible repeat' first
    | assumption | apply Follows.ite | apply wrb_follows | apply raise_follows | apply incHeld_follows
    | apply settle_follows | apply setDrv_follows | apply latchSet_follows | apply logHap_follows
    | simp only [Follows.mk_iff] | apply atNow_follows | exact Nat.le_refl _ | split

theorem sensed_follows (p : Nat) (us : State) (hF : Follows keep lock r0 s) :
    Follows keep lock r0 (sensed p us s) := by
  unfold sensed
  try dsimp only
  with_reducible repeat' first
    | assumption | apply Follows.ite | apply detect_follows

theorem writePhCfg_follows (p : Nat) (v : Word) (hF : Follows keep lock r0 s) :
    Follows keep lock r0 (writePhCfg p v s) := by
  unfold writePhCfg
  try dsimp only
  with_reducible repeat' first
    | assumption | apply Follows.ite | apply settle_follows | apply plainWrite_follows
    | apply sensed_follows | split

theorem execSafeStateSet_follows (m : Master) (k : Fin 16) (hF : Follows keep lock r0 s) :
    ∃ s1, execSafeStateSet m k s = .next s1 ∧ Follows keep lock r0 s1 := by
  refine ⟨_, rfl, ?_⟩
  try dsimp only
  with_reducible repeat' first
    | assumption | intro _ | apply byBus_follows | apply writeSetCtl_follows

theorem execTripPinChange_follows (i : Fin 48) (active : Bool) (hF : Follows keep lock r0 s) :
    ∃ s1, execTripPinChange i active s = .next s1 ∧ Follows keep lock r0 s1 := by
  refine ⟨_, rfl, ?_⟩
  try dsimp only
  with_reducible repeat' first
    | assumption | apply Follows.ite | apply setTrip_follows | apply wrb_follows
    | apply incHeld_follows | simp only [Follows.mk_iff] | apply atNow_follows | exact Nat.le_refl _

theorem execTripAssert_follows (i : Fin 48) (hF : Follows keep lock r0 s) :
    ∃ s1, execTripAssert i s = .next s1 ∧ Follows keep lock r0 s1 := by
  refine ⟨_, rfl, ?_⟩
  try dsimp only
  with_reducible repeat' first
    | assumption | apply Follows.ite | apply upto_follows | apply setTrip_follows
    | apply wrb_follows | apply tripReact_follows | simp only [Follows.mk_iff] | apply atNow_follows
    | exact Nat.le_refl _ | split

theorem execTripRelease_follows (i : Fin 48) (hF : Follows keep lock r0 s) :
    ∃ s1, execTripRelease i s = .next s1 ∧ Follows keep lock r0 s1 := by
  refine ⟨_, rfl, ?_⟩
  try dsimp only
  with_reducible repeat' first
    | assumption | apply Follows.ite | apply upto_follows | apply setTrip_follows
    | apply wrb_follows | simp only [Follows.mk_iff] | apply atNow_follows | exact Nat.le_refl _
    | split

theorem execBlankingEnd_follows (monitor : Bool) (i : Fin 96) (hF : Follows keep lock r0 s) :
    ∃ s1, execBlankingEnd monitor i s = .next s1 ∧ Follows keep lock r0 s1 := by
  refine ⟨_, rfl, ?_⟩
  try dsimp only
  with_reducible repeat' first
    | assumption | intro _ | apply Follows.ite | apply upto_follows | apply monUpdate_follows
    | apply monDrop_follows | apply tripReact_follows | split

theorem execStuck_follows (i : Fin 48) (hF : Follows keep lock r0 s) :
    ∃ s1, execStuck i s = .next s1 ∧ Follows keep lock r0 s1 := by
  refine ⟨_, rfl, ?_⟩
  try dsimp only
  with_reducible repeat' first
    | assumption | apply Follows.ite | apply upto_follows | apply setTrip_follows
    | apply wrb_follows | apply logHap_follows | apply raiseTrip_follows | simp only [Follows.mk_iff]
    | apply atNow_follows | exact Nat.le_refl _ | split

theorem execHeldClear_follows (m : Master) (i : Fin 48) (hF : Follows keep lock r0 s) :
    ∃ s1, execHeldClear m i s = .next s1 ∧ Follows keep lock r0 s1 := by
  refine ⟨_, rfl, ?_⟩
  try dsimp only
  with_reducible repeat' first
    | assumption | intro _ | apply byBus_follows | apply clearHeld_follows

theorem execTripActionWrite_follows (m : Master) (i : Fin 48) (v : Word) (hF : Follows keep lock r0 s) :
    ∃ s1, execTripActionWrite m i v s = .next s1 ∧ Follows keep lock r0 s1 := by
  refine ⟨_, rfl, ?_⟩
  try dsimp only
  with_reducible repeat' first
    | assumption | intro _ | apply byBus_follows | apply rwlPath_follows | apply writeTripCfg_follows

theorem execMonitorCrossing_follows (i : Fin 96) (before after : Int) (hF : Follows keep lock r0 s) :
    ∃ s1, execMonitorCrossing i before after s = .next s1 ∧ Follows keep lock r0 s1 := by
  refine ⟨_, rfl, ?_⟩
  try dsimp only
  with_reducible repeat' first
    | assumption | apply Follows.ite | apply after_follows | apply wrb_follows | apply monUpdate_follows
    | split

theorem execMonitorEnable_follows (m : Master) (i : Fin 96) (v : Word) (hF : Follows keep lock r0 s) :
    ∃ s1, execMonitorEnable m i v s = .next s1 ∧ Follows keep lock r0 s1 := by
  refine ⟨_, rfl, ?_⟩
  try dsimp only
  with_reducible repeat' first
    | assumption | intro _ | apply byBus_follows | apply writeMonCfg_follows

theorem execMonitorSettled_follows (i : Fin 96) (hF : Follows keep lock r0 s) :
    ∃ s1, execMonitorSettled i s = .next s1 ∧ Follows keep lock r0 s1 := by
  refine ⟨_, rfl, ?_⟩
  try dsimp only
  with_reducible repeat' first
    | assumption | apply Follows.ite | apply settle_follows | apply setMon_follows
    | apply upto_follows | apply monUpdate_follows | apply raise_follows | apply wrb_follows
    | simp only [Follows.mk_iff] | apply atNow_follows | exact Nat.le_refl _ | split

theorem execLatchedClear_follows (m : Master) (i : Fin 96) (hF : Follows keep lock r0 s) :
    ∃ s1, execLatchedClear m i s = .next s1 ∧ Follows keep lock r0 s1 := by
  refine ⟨_, rfl, ?_⟩
  try dsimp only
  with_reducible repeat' first
    | assumption | intro _ | apply byBus_follows | apply clearLatched_follows

theorem execPhaseEnableWrite_follows (m : Master) (p : Fin 16) (v : Word) (hF : Follows keep lock r0 s) :
    ∃ s1, execPhaseEnableWrite m p v s = .next s1 ∧ Follows keep lock r0 s1 := by
  refine ⟨_, rfl, ?_⟩
  try dsimp only
  with_reducible repeat' first
    | assumption | intro _ | apply byBus_follows | apply rwlPath_follows | apply writePhCfg_follows

theorem execVdrvUv_follows (g : Fin 4) (hF : Follows keep lock r0 s) :
    ∃ s1, execVdrvUv g s = .next s1 ∧ Follows keep lock r0 s1 := by
  refine ⟨_, rfl, ?_⟩
  try dsimp only
  with_reducible repeat' first
    | assumption | apply Follows.ite | apply setDrv_follows | apply raiseGroup_follows
    | apply settle_follows | simp only [Follows.mk_iff] | apply atNow_follows | exact Nat.le_refl _

theorem execVdrvOk_follows (g : Fin 4) (hF : Follows keep lock r0 s) :
    ∃ s1, execVdrvOk g s = .next s1 ∧ Follows keep lock r0 s1 := by
  refine ⟨_, rfl, ?_⟩
  try dsimp only
  with_reducible repeat' first
    | assumption | apply Follows.ite | apply setDrv_follows | apply settle_follows
    | simp only [Follows.mk_iff] | apply atNow_follows | exact Nat.le_refl _

theorem execBstUv_follows (p : Fin 16) (hF : Follows keep lock r0 s) :
    ∃ s1, execBstUv p s = .next s1 ∧ Follows keep lock r0 s1 := by
  refine ⟨_, rfl, ?_⟩
  try dsimp only
  with_reducible repeat' first
    | assumption | apply Follows.ite | apply setPhase_follows | apply raise_follows
    | apply incHeld_follows | simp only [Follows.mk_iff] | apply atNow_follows | exact Nat.le_refl _

theorem execBstOk_follows (p : Fin 16) (hF : Follows keep lock r0 s) :
    ∃ s1, execBstOk p s = .next s1 ∧ Follows keep lock r0 s1 := by
  refine ⟨_, rfl, ?_⟩
  try dsimp only
  with_reducible repeat' first
    | assumption | apply setPhase_follows | simp only [Follows.mk_iff] | apply atNow_follows
    | exact Nat.le_refl _

theorem execDrvBlankingEnd_follows (p : Fin 16) (hF : Follows keep lock r0 s) :
    ∃ s1, execDrvBlankingEnd p s = .next s1 ∧ Follows keep lock r0 s1 := by
  refine ⟨_, rfl, ?_⟩
  try dsimp only
  with_reducible repeat' first
    | assumption | apply Follows.ite | apply upto_follows | apply setPhase_follows
    | apply detect_follows | simp only [Follows.mk_iff] | apply atNow_follows | exact Nat.le_refl _
    | split

theorem execSenseDetection_follows (p : Fin 16) (mv : Nat) (hF : Follows keep lock r0 s) :
    ∃ s1, execSenseDetection p mv s = .next s1 ∧ Follows keep lock r0 s1 := by
  refine ⟨_, rfl, ?_⟩
  try dsimp only
  with_reducible repeat' first
    | assumption | apply Follows.ite | apply setPhase_follows | apply sensed_follows
    | simp only [Follows.mk_iff] | apply atNow_follows | exact Nat.le_refl _

theorem execRegEnLow_follows (g : Fin 4) (hF : Follows keep lock r0 s) :
    ∃ s1, execRegEnLow g s = .next s1 ∧ Follows keep lock r0 s1 := by
  refine ⟨_, rfl, ?_⟩
  try dsimp only
  with_reducible repeat' first
    | assumption | apply settle_follows | apply setDrv_follows | simp only [Follows.mk_iff]
    | apply atNow_follows | exact Nat.le_refl _

theorem execRegEnRise_follows (g : Fin 4) (hF : Follows keep lock r0 s) :
    ∃ s1, execRegEnRise g s = .next s1 ∧ Follows keep lock r0 s1 := by
  refine ⟨_, rfl, ?_⟩
  try dsimp only
  with_reducible repeat' first
    | assumption | intro _ | apply Follows.ite | apply setDrv_follows | apply logHap_follows
    | apply raiseGroup_follows | apply wrb_follows | apply forEach_follows | apply wrf_follows
    | apply settle_follows | simp only [Follows.mk_iff] | apply atNow_follows | exact Nat.le_refl _
    | split

end Sys2Proof.Machine
end

