-- ==== Sys2Proof/Laws/FollowClocks.lean ====
section
/-! SUPPORT. What the operations of Machine/Clocks.lean keep (Laws/Follows.lean). -/

set_option linter.unusedTactic false
set_option linter.unreachableTactic false
set_option linter.unusedVariables false

namespace Sys2Proof.Machine

variable {keep lock : Bool} {r0 s : State}

theorem onClk_follows (f : Clk → Clk) (hF : Follows keep lock r0 s) :
    Follows keep lock r0 (onClk f s) := by
  unfold onClk
  try dsimp only
  with_reducible repeat' first
    | assumption | simp only [Follows.mk_iff] | apply atNow_follows | exact Nat.le_refl _

theorem raiseClk_follows (k : Nat) (hF : Follows keep lock r0 s) :
    Follows keep lock r0 (raiseClk k s) := by
  unfold raiseClk
  try dsimp only
  with_reducible repeat' first
    | assumption | apply raise_follows

theorem loseLock_follows (delib : Bool) (hF : Follows keep lock r0 s) :
    Follows keep lock r0 (loseLock delib s) := by
  unfold loseLock
  try dsimp only
  with_reducible repeat' first
    | assumption | intro _ | apply Follows.ite | apply settle_follows | apply onClk_follows
    | apply incHeld_follows | apply logLoss_follows | apply raiseClk_follows | simp only [Follows.mk_iff]
    | apply atNow_follows | exact Nat.le_refl _ | exact Nat.le_max_left _ _ | exact Nat.le_add_right _ _

theorem startClocks_follows  (hF : Follows keep lock r0 s) :
    Follows keep lock r0 (startClocks s) := by
  unfold startClocks
  try dsimp only
  with_reducible repeat' first
    | assumption | intro _ | apply Follows.ite | apply onClk_follows | simp only [Follows.mk_iff]
    | apply atNow_follows | exact Nat.le_refl _ | exact Nat.le_max_left _ _ | exact Nat.le_add_right _ _

theorem milestone_follows (b : Nat) (hF : Follows keep lock r0 s) :
    Follows keep lock r0 (milestone b s) := by
  unfold milestone
  try dsimp only
  with_reducible repeat' first
    | assumption | simp only [Follows.mk_iff] | apply atNow_follows | exact Nat.le_refl _

theorem checkOutEn_follows  (hF : Follows keep lock r0 s) :
    Follows keep lock r0 (checkOutEn s) := by
  unfold checkOutEn
  try dsimp only
  with_reducible repeat' first
    | assumption | intro _ | apply Follows.ite | apply raise_follows | apply milestone_follows

theorem pllLock_follows  (hF : Follows keep lock r0 s) :
    Follows keep lock r0 (pllLock s) := by
  unfold pllLock
  try dsimp only
  with_reducible repeat' first
    | assumption | intro _ | apply onClk_follows | apply raiseClk_follows | apply milestone_follows
    | apply startClocks_follows | simp only [Follows.mk_iff] | apply atNow_follows | exact Nat.le_refl _
    | exact Nat.le_max_left _ _ | exact Nat.le_add_right _ _

theorem applyOut_follows (mark n : Nat) (hF : Follows keep lock r0 s) :
    Follows keep lock r0 (applyOut mark n s) := by
  unfold applyOut
  try dsimp only
  with_reducible repeat' first
    | assumption | intro _ | apply Follows.ite | apply restart_follows | apply onClk_follows
    | apply wr_follows | simp only [Follows.mk_iff] | apply atNow_follows | exact Nat.le_refl _
    | split

theorem updateMark_follows  (hF : Follows keep lock r0 s) :
    Follows keep lock r0 (updateMark s) := by
  unfold updateMark
  try dsimp only
  with_reducible repeat' first
    | assumption | intro _ | apply Follows.ite | apply upto_follows | apply onClk_follows
    | apply raiseClk_follows | apply forEach_follows | apply applyOut_follows | simp only [Follows.mk_iff]
    | apply atNow_follows | exact Nat.le_refl _

theorem relock_follows  (hF : Follows keep lock r0 s) :
    Follows keep lock r0 (relock s) := by
  unfold relock
  try dsimp only
  with_reducible repeat' first
    | assumption | intro _ | apply Follows.ite | apply onClk_follows | apply loseLock_follows
    | simp only [Follows.mk_iff] | apply atNow_follows | exact Nat.le_refl _ | exact Nat.le_max_left _ _
    | exact Nat.le_add_right _ _

theorem requestUpdate_follows  (hF : Follows keep lock r0 s) :
    Follows keep lock r0 (requestUpdate s) := by
  unfold requestUpdate
  try dsimp only
  with_reducible repeat' first
    | assumption | intro _ | apply Follows.ite | apply onClk_follows | simp only [Follows.mk_iff]
    | apply atNow_follows | exact Nat.le_refl _

theorem writeClk_follows (m : Master) (off : Nat) (v : Word) (hF : Follows keep lock r0 s) :
    Follows keep lock r0 (writeClk m off v s) := by
  unfold writeClk
  try dsimp only
  with_reducible repeat' first
    | assumption | intro _ | apply Follows.ite | apply rwlPath_follows | apply plainWrite_follows
    | apply relock_follows | apply requestUpdate_follows | apply onClk_follows | simp only [Follows.mk_iff]
    | apply atNow_follows | exact Nat.le_refl _

theorem execReferenceQualified_follows  (hF : Follows keep lock r0 s) :
    ∃ s1, execReferenceQualified s = .next s1 ∧ Follows keep lock r0 s1 := by
  refine ⟨_, rfl, ?_⟩
  try dsimp only
  with_reducible repeat' first
    | assumption | intro _ | apply Follows.ite | apply onClk_follows | apply upto_follows
    | simp only [Follows.mk_iff] | apply atNow_follows | exact Nat.le_refl _ | split

theorem execHoldRelease_follows  (hF : Follows keep lock r0 s) :
    ∃ s1, execHoldRelease s = .next s1 ∧ Follows keep lock r0 s1 := by
  refine ⟨_, rfl, ?_⟩
  try dsimp only
  with_reducible repeat' first
    | assumption | intro _ | apply Follows.ite | apply upto_follows | apply onClk_follows
    | apply checkOutEn_follows | apply raiseClk_follows | apply settle_follows | simp only [Follows.mk_iff]
    | apply atNow_follows | exact Nat.le_refl _ | exact Nat.le_max_left _ _ | exact Nat.le_add_right _ _
    | split

theorem execNoref_follows  (hF : Follows keep lock r0 s) :
    ∃ s1, execNoref s = .next s1 ∧ Follows keep lock r0 s1 := by
  refine ⟨_, rfl, ?_⟩
  try dsimp only
  with_reducible repeat' first
    | assumption | intro _ | apply Follows.ite | apply upto_follows | apply startClocks_follows
    | apply onClk_follows | simp only [Follows.mk_iff] | apply atNow_follows | exact Nat.le_refl _
    | split

theorem execUpdate_follows (m : Master) (hF : Follows keep lock r0 s) :
    ∃ s1, execUpdate m s = .next s1 ∧ Follows keep lock r0 s1 := by
  refine ⟨_, rfl, ?_⟩
  try dsimp only
  with_reducible repeat' first
    | assumption | intro _ | apply byBus_follows | apply writeClk_follows

theorem execUpdateMark_follows  (hF : Follows keep lock r0 s) :
    ∃ s1, execUpdateMark s = .next s1 ∧ Follows keep lock r0 s1 := by
  refine ⟨_, rfl, ?_⟩
  try dsimp only
  with_reducible repeat' first
    | assumption | apply Follows.ite | apply updateMark_follows

theorem execTickLoRead_follows (m : Master) (hF : Follows keep lock r0 s) :
    ∃ s1, execTickLoRead m s = .next s1 ∧ Follows keep lock r0 s1 := by
  refine ⟨_, rfl, ?_⟩
  try dsimp only
  with_reducible repeat' first
    | assumption | intro _ | apply readAt_follows | apply respond_follows | apply wr_follows

end Sys2Proof.Machine
end

