-- ==== Sys2Proof/Laws/FollowPlumb.lean ====
section
/-! SUPPORT. What the operations of Machine/Plumb.lean keep (Laws/Follows.lean). -/

set_option linter.unusedTactic false
set_option linter.unreachableTactic false
set_option linter.unusedVariables false

namespace Sys2Proof.Machine

variable {keep lock : Bool} {r0 s : State}

theorem onPlumb_follows {f : Plumb → Plumb} (hs : s.plumb.spo = true → (f s.plumb).spo = true) (hF : Follows keep lock r0 s) :
    Follows keep lock r0 (onPlumb f s) :=
  ⟨hF.queue, hF.time, fun g => let g := hF.good g; ⟨g.mem, g.regs, g.act, g.queue, g.recs⟩, hF.mem, fun l o => hs (hF.spo l o)⟩

theorem raisePl_follows (k : Nat) (hF : Follows keep lock r0 s) :
    Follows keep lock r0 (raisePl k s) := by
  unfold raisePl
  try dsimp only
  with_reducible repeat' first
    | assumption | apply raise_follows

theorem onSafeIn_follows (i : Nat) (f : SafeIn → SafeIn) (hF : Follows keep lock r0 s) :
    Follows keep lock r0 (onSafeIn i f s) := by
  unfold onSafeIn
  try dsimp only
  with_reducible repeat' first
    | assumption | simp only [Follows.mk_iff] | apply atNow_follows | exact Nat.le_refl _

theorem onScanCh_follows (i : Nat) (f : ScanCh → ScanCh) (hF : Follows keep lock r0 s) :
    Follows keep lock r0 (onScanCh i f s) := by
  unfold onScanCh
  try dsimp only
  with_reducible repeat' first
    | assumption | simp only [Follows.mk_iff] | apply atNow_follows | exact Nat.le_refl _

theorem onScanConv_follows (c : Nat) (f : ScanConv → ScanConv) (hF : Follows keep lock r0 s) :
    Follows keep lock r0 (onScanConv c f s) := by
  unfold onScanConv
  try dsimp only
  with_reducible repeat' first
    | assumption | simp only [Follows.mk_iff] | apply atNow_follows | exact Nat.le_refl _

theorem onSout_follows (n : Nat) (f : Sout → Sout) (hF : Follows keep lock r0 s) :
    Follows keep lock r0 (onSout n f s) := by
  unfold onSout
  try dsimp only
  with_reducible repeat' first
    | assumption | simp only [Follows.mk_iff] | apply atNow_follows | exact Nat.le_refl _

theorem onConn_follows (c : Nat) (f : Conn → Conn) (hF : Follows keep lock r0 s) :
    Follows keep lock r0 (onConn c f s) := by
  unfold onConn
  try dsimp only
  with_reducible repeat' first
    | assumption | simp only [Follows.mk_iff] | apply atNow_follows | exact Nat.le_refl _

theorem reviseHanded_follows (h : Handed) (takes : Bool) (hF : Follows keep lock r0 s) :
    Follows keep lock r0 (reviseHanded h takes s) := by
  unfold reviseHanded
  try dsimp only
  with_reducible repeat' first
    | assumption | apply Follows.ite | apply reviseEntry_follows | simp only [Follows.mk_iff]
    | apply atNow_follows | exact Nat.le_refl _ | split

theorem dropHanded_follows  (hF : Follows keep lock r0 s) :
    Follows keep lock r0 (dropHanded s) := by
  unfold dropHanded
  try dsimp only
  with_reducible repeat' first
    | assumption | intro _ | apply onPlumb_follows | apply forEach_follows | apply reviseHanded_follows
    | simp only [Follows.mk_iff] | apply atNow_follows | exact Nat.le_refl _ | exact id
    | exact fun _ => rfl

theorem inOrder_follows (m : Master) (off : Nat) (v : Word) (act : State → State) (hF_act : ∀ s, Follows keep lock r0 s → Follows keep lock r0 (act s)) (hF : Follows keep lock r0 s) :
    Follows keep lock r0 (inOrder m off v act s) := by
  unfold inOrder
  try dsimp only
  with_reducible repeat' first
    | assumption | intro _ | apply Follows.ite | apply onPlumb_follows | apply guarded_follows
    | apply hF_act | simp only [Follows.mk_iff] | apply atNow_follows | exact Nat.le_refl _
    | exact id | exact fun _ => rfl

theorem plumbBus_follows (m : Master) (off : Nat) (v : Word) (act : State → State) (hF_act : ∀ s, Follows keep lock r0 s → Follows keep lock r0 (act s)) (hF : Follows keep lock r0 s) :
    Follows keep lock r0 (plumbBus m off v act s) := by
  unfold plumbBus
  try dsimp only
  with_reducible repeat' first
    | assumption | intro _ | apply byBus_follows | apply inOrder_follows | apply hF_act

theorem spoDemand_follows (k : Nat) (hF : Follows keep lock r0 s) :
    Follows keep lock r0 (spoDemand k s) := by
  unfold spoDemand
  try dsimp only
  with_reducible repeat' first
    | assumption | intro _ | apply Follows.ite | apply onPlumb_follows | apply settle_follows
    | apply raisePl_follows | apply logHap_follows | apply bookAction_follows | simp only [Follows.mk_iff]
    | apply atNow_follows | exact Nat.le_refl _ | exact id | exact fun _ => rfl

theorem spoOff_follows (hF : Follows keep false r0 s) : Follows keep false r0 (spoOff s) := by
  unfold spoOff onPlumb
  refine checkOutEn_follows (raisePl_follows _ (logHap_follows _ (milestone_follows _ (settle_follows _ ?_))))
  exact ⟨hF.queue, hF.time, fun g => let g := hF.good g; ⟨g.mem, g.regs, g.act, g.queue, g.recs⟩, hF.mem, fun l => nomatch l⟩

/-- Only START, by itself, lets Plumb release SPO. -/
theorem spoInactive_follows {k : Nat} (hk : lock = true → k ≠ 0) (hF : Follows keep lock r0 s) :
    Follows keep lock r0 (spoInactive k s) := by
  have h1 : Follows keep lock r0 (onPlumb (fun p => { p with active := setBit p.active k false }) s) := onPlumb_follows id hF
  unfold spoInactive
  dsimp only
  split
  · next hc =>
    cases lock with
    | false => exact spoOff_follows (bookAction_follows _ _ _ _ _ _ h1)
    | true => exact absurd hc.1 (hk rfl)
  · exact h1

theorem spoSource_follows {k : Nat} {on : Bool} (hk : lock = true → on = true ∨ k ≠ 0) (hF : Follows keep lock r0 s) :
    Follows keep lock r0 (spoSource k on s) := by
  unfold spoSource
  split
  · exact Follows.ite hF (spoDemand_follows _ hF)
  · next ho => exact Follows.ite (spoInactive_follows (fun l => (hk l).resolve_left ho) hF) hF

theorem spoPulse_follows (k : Nat) (hF : Follows keep lock r0 s) :
    Follows keep lock r0 (spoPulse k s) := by
  unfold spoPulse
  try dsimp only
  with_reducible repeat' first
    | assumption | intro _ | apply onPlumb_follows | apply spoDemand_follows | simp only [Follows.mk_iff]
    | apply atNow_follows | exact Nat.le_refl _ | exact id | exact fun _ => rfl

theorem spoRelease_follows (m : Master) (hF : Follows keep false r0 s) :
    Follows keep false r0 (spoRelease m s) := by
  unfold spoRelease
  try dsimp only
  with_reducible repeat' first
    | assumption | intro _ | apply Follows.ite | apply raisePl_follows | apply wrb_follows
    | apply spoOff_follows | apply bookRequested_follows | simp only [Follows.mk_iff] | apply atNow_follows
    | exact Nat.le_refl _ | exact Nat.le_max_left _ _ | exact Nat.le_add_right _ _ | refine Follows.of_snd (by assumption) ?_
    | refine Follows.of_fst (by assumption) ?_ | simp only [id_eq] | split | dsimp only

theorem writeSpoCtl_follows (m : Master) (v : Word) (hF : Follows keep false r0 s) :
    Follows keep false r0 (writeSpoCtl m v s) := by
  unfold writeSpoCtl
  try dsimp only
  with_reducible repeat' first
    | assumption | intro _ | apply Follows.ite | apply wrb_follows | apply spoRelease_follows
    | apply spoPulse_follows | simp only [Follows.mk_iff] | apply atNow_follows | exact Nat.le_refl _
    | exact Nat.le_max_left _ _ | exact Nat.le_add_right _ _ | refine Follows.of_snd (by assumption) ?_
    | refine Follows.of_fst (by assumption) ?_ | simp only [id_eq] | split | dsimp only

theorem soutTo_follows (n : Nat) (st : SoutState) (hF : Follows keep lock r0 s) :
    Follows keep lock r0 (soutTo n st s) := by
  unfold soutTo
  try dsimp only
  with_reducible repeat' first
    | assumption | intro _ | apply Follows.ite | apply raisePl_follows | apply onSout_follows
    | simp only [Follows.mk_iff] | apply atNow_follows | exact Nat.le_refl _

theorem abortTest_follows (n : Nat) (hF : Follows keep lock r0 s) :
    Follows keep lock r0 (abortTest n s) := by
  unfold abortTest
  try dsimp only
  with_reducible repeat' first
    | assumption | intro _ | apply Follows.ite | apply raisePl_follows | apply incHeld_follows
    | apply onSout_follows | simp only [Follows.mk_iff] | apply atNow_follows | exact Nat.le_refl _

theorem soutOff_follows (n : Nat) (hF : Follows keep lock r0 s) :
    Follows keep lock r0 (soutOff n s) := by
  unfold soutOff
  try dsimp only
  with_reducible repeat' first
    | assumption | intro _ | apply Follows.ite | apply soutTo_follows | apply onSout_follows
    | apply abortTest_follows | simp only [Follows.mk_iff] | apply atNow_follows | exact Nat.le_refl _
    | exact Nat.le_max_left _ _ | exact Nat.le_add_right _ _ | split

theorem soutFault_follows (n : Nat) (hF : Follows keep lock r0 s) :
    Follows keep lock r0 (soutFault n s) := by
  unfold soutFault
  try dsimp only
  with_reducible repeat' first
    | assumption | intro _ | apply soutTo_follows | apply onSout_follows | simp only [Follows.mk_iff]
    | apply atNow_follows | exact Nat.le_refl _

theorem judgeSout_follows (n : Nat) (hF : Follows keep lock r0 s) :
    Follows keep lock r0 (judgeSout n s) := by
  unfold judgeSout
  try dsimp only
  with_reducible repeat' first
    | assumption | intro _ | apply Follows.ite | apply soutTo_follows | apply onSout_follows
    | apply soutFault_follows | simp only [Follows.mk_iff] | apply atNow_follows | exact Nat.le_refl _
    | split

theorem soutGrant_follows {n : Nat} {t : State} (e : soutGrant n s = some t) (hF : Follows keep lock r0 s) :
    Follows keep lock r0 t := by
  unfold soutGrant at e
  dsimp only at e
  split at e
  · cases e
    exact judgeSout_follows _ (soutTo_follows _ _ (onSout_follows _ _ hF))
  · cases e

theorem soutGrant_getD_follows {n : Nat} (hF : Follows keep lock r0 s) : Follows keep lock r0 ((soutGrant n s).getD s) := by
  cases e : soutGrant n s with
  | none => exact hF
  | some t => exact soutGrant_follows e hF

theorem soutClose_follows (n : Nat) (hF : Follows keep lock r0 s) :
    Follows keep lock r0 (soutClose n s) := by
  unfold soutClose
  split
  · exact soutGrant_follows ‹_› hF
  · exact Follows.ite (raisePl_follows _ (judgeSout_follows _ hF)) hF

theorem portOpen_follows (p : Nat) (hF : Follows keep lock r0 s) :
    Follows keep lock r0 (portOpen p s) := by
  unfold portOpen
  try dsimp only
  with_reducible repeat' first
    | assumption | intro _ | apply forEach_follows | apply soutOff_follows

theorem startTest_follows (n : Nat) (hF : Follows keep lock r0 s) :
    Follows keep lock r0 (startTest n s) := by
  unfold startTest
  try dsimp only
  with_reducible repeat' first
    | assumption | intro _ | apply Follows.ite | apply onSout_follows | simp only [Follows.mk_iff]
    | apply atNow_follows | exact Nat.le_refl _ | split

theorem stuckOutputs_follows  (hF : Follows keep lock r0 s) :
    Follows keep lock r0 (stuckOutputs s) := by
  unfold stuckOutputs
  try dsimp only
  with_reducible repeat' first
    | assumption | intro _ | apply forEach_follows | apply soutFault_follows

theorem forEach_follows_mem {α : Type} {xs : List α} {f : α → State → State}
    (hf : ∀ x ∈ xs, ∀ s, Follows keep lock r0 s → Follows keep lock r0 (f x s)) (hF : Follows keep lock r0 s) :
    Follows keep lock r0 (forEach xs f s) := by
  induction xs generalizing s with
  | nil => exact hF
  | cons x xs ih =>
    exact ih (fun y hy => hf y (List.mem_cons_of_mem _ hy)) (hf x List.mem_cons_self s hF)

theorem plumbEval_follows (hF : Follows keep lock r0 s) : Follows keep lock r0 (plumbEval s) := by
  unfold plumbEval
  refine forEach_follows (fun n s hs => soutFault_follows _ hs)
    (forEach_follows (fun n s hs => soutOff_follows _ hs) (onPlumb_follows id (forEach_follows_mem ?_ hF)))
  intro e he s hs
  refine spoSource_follows (fun _ => .inr ?_) hs
  simp only [spoConds, List.mem_cons, List.not_mem_nil, or_false] at he
  rcases he with rfl | rfl | rfl | rfl | rfl <;> exact Nat.succ_ne_zero _

theorem evalInput_follows (i : Nat) (hF : Follows keep lock r0 s) :
    Follows keep lock r0 (evalInput i s) := by
  unfold evalInput
  try dsimp only
  with_reducible repeat' first
    | assumption | intro _ | apply Follows.ite | apply onSafeIn_follows | apply raisePl_follows
    | apply forEach_follows | apply judgeSout_follows | apply plumbEval_follows | simp only [Follows.mk_iff]
    | apply atNow_follows | exact Nat.le_refl _ | exact Nat.le_max_left _ _ | exact Nat.le_add_right _ _
    | split

theorem islandReport_follows (p : Nat) (on : Bool) (hF : Follows keep lock r0 s) :
    Follows keep lock r0 (islandReport p on s) := by
  unfold islandReport
  try dsimp only
  with_reducible repeat' first
    | assumption | intro _ | apply Follows.ite | apply plumbEval_follows | apply onPlumb_follows
    | simp only [Follows.mk_iff] | apply atNow_follows | exact Nat.le_refl _ | exact id
    | exact fun _ => rfl

theorem startActive_follows  (hF : Follows keep lock r0 s) :
    Follows keep lock r0 (startActive s) := by
  unfold startActive
  try dsimp only
  with_reducible repeat' first
    | assumption | exact fun _ => .inl rfl | exact fun _ => .inr (by decide) | exact fun h => absurd h Bool.false_ne_true
    | apply plumbEval_follows | apply spoSource_follows

theorem startEnds_follows  (hF : Follows keep false r0 s) :
    Follows keep false r0 (startEnds s) := by
  unfold startEnds
  try dsimp only
  with_reducible repeat' first
    | assumption | exact fun _ => .inl rfl | exact fun _ => .inr (by decide) | exact fun h => absurd h Bool.false_ne_true
    | intro _ | apply Follows.ite | apply spoSource_follows | simp only [Follows.mk_iff]
    | apply atNow_follows | exact Nat.le_refl _ | exact Nat.le_max_left _ _ | exact Nat.le_add_right _ _
    | refine Follows.of_snd (by assumption) ?_ | refine Follows.of_fst (by assumption) ?_
    | simp only [id_eq] | split | dsimp only

theorem relockLevel_follows (m : Nat) (hF : Follows keep lock r0 s) :
    Follows keep lock r0 (relockLevel m s) := by
  unfold relockLevel
  try dsimp only
  with_reducible repeat' first
    | assumption | apply Follows.ite | apply bookAction_follows | apply raisePl_follows
    | simp only [Follows.mk_iff] | apply atNow_follows | exact Nat.le_refl _

theorem plumbRestart_follows  (hF : Follows keep lock r0 s) :
    Follows keep lock r0 (plumbRestart s) := by
  unfold plumbRestart
  try dsimp only
  with_reducible repeat' first
    | assumption | intro _ | apply Follows.ite | apply dropHanded_follows | apply onPlumb_follows
    | apply startActive_follows | simp only [Follows.mk_iff] | apply atNow_follows | exact Nat.le_refl _
    | exact id | exact fun _ => rfl

theorem internalFault_follows  (hF : Follows keep lock r0 s) :
    Follows keep lock r0 (internalFault s) := by
  unfold internalFault
  try dsimp only
  with_reducible repeat' first
    | assumption | intro _ | apply spoPulse_follows | apply forEach_follows | apply soutOff_follows
    | apply logHap_follows | apply onPlumb_follows | apply plumbRestart_follows | simp only [Follows.mk_iff]
    | apply atNow_follows | exact Nat.le_refl _ | exact id | exact fun _ => rfl

theorem saddleTo_follows (m : Option Master) (st : Saddle) (hF : Follows keep lock r0 s) :
    Follows keep lock r0 (saddleTo m st s) := by
  unfold saddleTo
  try dsimp only
  with_reducible repeat' first
    | assumption | intro _ | apply bookRequested_follows | apply bookAction_follows
    | apply onPlumb_follows | apply plumbEval_follows | apply raisePl_follows | apply logHap_follows
    | simp only [Follows.mk_iff] | apply atNow_follows | exact Nat.le_refl _ | exact id
    | exact fun _ => rfl | split

theorem saddleTable_follows  (hF : Follows keep lock r0 s) :
    Follows keep lock r0 (saddleTable s) := by
  unfold saddleTable
  try dsimp only
  with_reducible repeat' first
    | assumption | intro _ | apply Follows.ite | apply onPlumb_follows | apply saddleTo_follows
    | simp only [Follows.mk_iff] | apply atNow_follows | exact Nat.le_refl _ | exact Nat.le_max_left _ _
    | exact Nat.le_add_right _ _ | exact id | exact fun _ => rfl | split

theorem saddleAsk_follows (m : Master) (hF : Follows keep lock r0 s) :
    Follows keep lock r0 (saddleAsk m s) := by
  unfold saddleAsk
  try dsimp only
  with_reducible repeat' first
    | assumption | intro _ | apply onPlumb_follows | simp only [Follows.mk_iff] | apply atNow_follows
    | exact Nat.le_refl _ | exact id | exact fun _ => rfl

theorem saddleReset_follows (m : Master) (hF : Follows keep lock r0 s) :
    Follows keep lock r0 (saddleReset m s) := by
  unfold saddleReset
  try dsimp only
  with_reducible repeat' first
    | assumption | apply Follows.ite | apply deny_follows | apply raisePl_follows
    | apply saddleTo_follows

theorem writeSadCtl_follows (m : Master) (v : Word) (hF : Follows keep lock r0 s) :
    Follows keep lock r0 (writeSadCtl m v s) := by
  unfold writeSadCtl
  try dsimp only
  with_reducible repeat' first
    | assumption | intro _ | apply Follows.ite | apply raisePl_follows | apply saddleAsk_follows
    | apply onPlumb_follows | apply saddleReset_follows | simp only [Follows.mk_iff] | apply atNow_follows
    | exact Nat.le_refl _ | exact id | exact fun _ => rfl

theorem scanResult_follows (c i : Nat) (code : Int) (hF : Follows keep lock r0 s) :
    Follows keep lock r0 (scanResult c i code s) := by
  unfold scanResult
  try dsimp only
  with_reducible repeat' first
    | assumption | intro _ | apply Follows.ite | apply wrf_follows | apply onScanCh_follows
    | apply raisePl_follows | apply plumbEval_follows | simp only [Follows.mk_iff] | apply atNow_follows
    | exact Nat.le_refl _ | split

theorem scanRaise_follows (ubefore : State) (hF : Follows keep lock r0 s) :
    Follows keep lock r0 (scanRaise ubefore s) := by
  unfold scanRaise
  try dsimp only
  with_reducible repeat' first
    | assumption | intro _ | apply Follows.ite | apply raisePl_follows | split

theorem scanEnd_follows (c : Nat) (mv : Int) (hF : Follows keep lock r0 s) :
    Follows keep lock r0 (scanEnd c mv s) := by
  unfold scanEnd
  try dsimp only
  with_reducible repeat' first
    | assumption | intro _ | apply Follows.ite | apply onScanConv_follows | apply forEach_follows
    | apply onScanCh_follows | apply plumbEval_follows | apply scanRaise_follows | simp only [Follows.mk_iff]
    | apply atNow_follows | exact Nat.le_refl _

theorem execSpoRequest_follows (m : Master) (hF : Follows keep lock r0 s) :
    ∃ s1, execSpoRequest m s = .next s1 ∧ Follows keep lock r0 s1 := by
  refine ⟨_, rfl, byBus_follows _ _ _ _ _ (fun s hs => ?_) hF⟩
  exact Follows.ite (onPlumb_follows id hs) (spoPulse_follows _ hs)

theorem execSpoRelease_follows (m : Master) (hF : Follows keep false r0 s) :
    ∃ s1, execSpoRelease m s = .next s1 ∧ Follows keep false r0 s1 := by
  refine ⟨_, rfl, ?_⟩
  try dsimp only
  with_reducible repeat' first
    | assumption | intro _ | apply Follows.ite | apply plumbBus_follows | apply writeSpoCtl_follows
    | simp only [Follows.mk_iff] | apply atNow_follows | exact Nat.le_refl _ | exact Nat.le_max_left _ _
    | exact Nat.le_add_right _ _ | refine Follows.of_snd (by assumption) ?_ | refine Follows.of_fst (by assumption) ?_
    | simp only [id_eq] | split | dsimp only

theorem execSafeInChange_follows (i : Fin 4) (chB on : Bool) (hF : Follows keep lock r0 s) :
    ∃ s1, execSafeInChange i chB on s = .next s1 ∧ Follows keep lock r0 s1 := by
  refine ⟨_, rfl, ?_⟩
  try dsimp only
  with_reducible repeat' first
    | assumption | intro _ | apply Follows.ite | apply evalInput_follows | apply onSafeIn_follows
    | simp only [Follows.mk_iff] | apply atNow_follows | exact Nat.le_refl _

theorem execDiscrepancy_follows (i : Fin 4) (hF : Follows keep lock r0 s) :
    ∃ s1, execDiscrepancy i s = .next s1 ∧ Follows keep lock r0 s1 := by
  refine ⟨_, rfl, ?_⟩
  try dsimp only
  with_reducible repeat' first
    | assumption | intro _ | apply Follows.ite | apply upto_follows | apply evalInput_follows
    | apply raisePl_follows | apply onSafeIn_follows | simp only [Follows.mk_iff] | apply atNow_follows
    | exact Nat.le_refl _ | split

theorem execScan_follows (c : Fin 2) (ch : Option (Fin 8)) (code : Int) (hF : Follows keep lock r0 s) :
    ∃ s1, execScan c ch code s = .next s1 ∧ Follows keep lock r0 s1 := by
  refine ⟨_, rfl, ?_⟩
  try dsimp only
  with_reducible repeat' first
    | assumption | apply scanResult_follows | apply scanEnd_follows | simp only [Follows.mk_iff]
    | apply atNow_follows | exact Nat.le_refl _ | split

theorem execSoutClose_follows (m : Master) (n : Fin 4) (hF : Follows keep lock r0 s) :
    ∃ s1, execSoutClose m n s = .next s1 ∧ Follows keep lock r0 s1 := by
  refine ⟨_, rfl, ?_⟩
  try dsimp only
  with_reducible repeat' first
    | assumption | intro _ | apply plumbBus_follows | apply soutClose_follows

theorem execSoutOpen_follows (m : Master) (n : Fin 4) (hF : Follows keep lock r0 s) :
    ∃ s1, execSoutOpen m n s = .next s1 ∧ Follows keep lock r0 s1 := by
  refine ⟨_, rfl, ?_⟩
  try dsimp only
  with_reducible repeat' first
    | assumption | intro _ | apply plumbBus_follows | apply soutOff_follows

theorem soutClr_follows (n : Nat) (hF : Follows keep lock r0 s) :
    Follows keep lock r0 (soutClr n s) := by
  unfold soutClr
  try dsimp only
  with_reducible repeat' first
    | assumption | intro _ | apply Follows.ite | apply raisePl_follows | apply plumbEval_follows
    | apply soutTo_follows | apply onSout_follows | simp only [Follows.mk_iff] | apply atNow_follows
    | exact Nat.le_refl _ | split

theorem execSoutClr_follows (m : Master) (n : Fin 4) (hF : Follows keep lock r0 s) :
    ∃ s1, execSoutClr m n s = .next s1 ∧ Follows keep lock r0 s1 := by
  refine ⟨_, rfl, ?_⟩
  try dsimp only
  with_reducible repeat' first
    | assumption | intro _ | apply plumbBus_follows | apply soutClr_follows

theorem execTestNow_follows (m : Master) (n : Fin 4) (hF : Follows keep lock r0 s) :
    ∃ s1, execTestNow m n s = .next s1 ∧ Follows keep lock r0 s1 := by
  refine ⟨_, rfl, ?_⟩
  try dsimp only
  with_reducible repeat' first
    | assumption | intro _ | apply plumbBus_follows | apply startTest_follows

theorem execCloseTimeout_follows (n : Fin 4) (hF : Follows keep lock r0 s) :
    ∃ s1, execCloseTimeout n s = .next s1 ∧ Follows keep lock r0 s1 := by
  refine ⟨_, rfl, ?_⟩
  try dsimp only
  with_reducible repeat' first
    | assumption | apply Follows.ite | apply soutFault_follows | apply upto_follows

theorem execSoutFeedbackChange_follows (n : Fin 4) (rb : Bool) (hF : Follows keep lock r0 s) :
    ∃ s1, execSoutFeedbackChange n rb s = .next s1 ∧ Follows keep lock r0 s1 := by
  refine ⟨_, rfl, ?_⟩
  try dsimp only
  with_reducible repeat' first
    | assumption | intro _ | apply Follows.ite | apply onSout_follows | apply soutFault_follows
    | apply judgeSout_follows | simp only [Follows.mk_iff] | apply atNow_follows | exact Nat.le_refl _
    | exact Nat.le_max_left _ _ | exact Nat.le_add_right _ _

theorem execTestDue_follows (n : Fin 4) (hF : Follows keep lock r0 s) :
    ∃ s1, execTestDue n s = .next s1 ∧ Follows keep lock r0 s1 := by
  refine ⟨_, rfl, ?_⟩
  try dsimp only
  with_reducible repeat' first
    | assumption | apply Follows.ite | apply startTest_follows | apply upto_follows
    | simp only [Follows.mk_iff] | apply atNow_follows | exact Nat.le_refl _ | split

theorem execTestPulseEnd_follows (n : Fin 4) (hF : Follows keep lock r0 s) :
    ∃ s1, execTestPulseEnd n s = .next s1 ∧ Follows keep lock r0 s1 := by
  refine ⟨_, rfl, ?_⟩
  try dsimp only
  with_reducible repeat' first
    | assumption | intro _ | apply upto_follows | apply onSout_follows | simp only [Follows.mk_iff]
    | apply atNow_follows | exact Nat.le_refl _ | split

theorem testFails_follows (n : Nat) (hF : Follows keep lock r0 s) :
    Follows keep lock r0 (testFails n s) := by
  unfold testFails
  try dsimp only
  with_reducible repeat' first
    | assumption | intro _ | apply raisePl_follows | apply incHeld_follows | apply soutFault_follows
    | apply plumbEval_follows | apply onSout_follows | apply spoPulse_follows | simp only [Follows.mk_iff]
    | apply atNow_follows | exact Nat.le_refl _ | split

theorem execTestRecoveryEnd_follows (n : Fin 4) (hF : Follows keep lock r0 s) :
    ∃ s1, execTestRecoveryEnd n s = .next s1 ∧ Follows keep lock r0 s1 := by
  refine ⟨_, rfl, ?_⟩
  try dsimp only
  with_reducible repeat' first
    | assumption | intro _ | apply Follows.ite | apply onSout_follows | apply upto_follows
    | apply testFails_follows | simp only [Follows.mk_iff] | apply atNow_follows | exact Nat.le_refl _
    | split

theorem execClockCheck_follows (pwm fab adc ring : Nat) (hF : Follows keep lock r0 s) :
    ∃ s1, execClockCheck pwm fab adc ring s = .next s1 ∧ Follows keep lock r0 s1 := by
  refine ⟨_, rfl, ?_⟩
  try dsimp only
  with_reducible repeat' first
    | assumption | exact fun _ => .inl rfl | exact fun _ => .inr (by decide) | exact fun h => absurd h Bool.false_ne_true
    | apply Follows.ite | apply stuckOutputs_follows | apply spoSource_follows

theorem execFreeze_follows  (hF : Follows keep lock r0 s) :
    ∃ s1, execFreeze s = .next s1 ∧ Follows keep lock r0 s1 := by
  refine ⟨_, rfl, ?_⟩
  try dsimp only
  with_reducible repeat' first
    | assumption | exact fun _ => .inl rfl | exact fun _ => .inr (by decide) | exact fun h => absurd h Bool.false_ne_true
    | apply Follows.ite | apply spoSource_follows | apply upto_follows | simp only [Follows.mk_iff]
    | apply atNow_follows | exact Nat.le_refl _ | split

theorem execLockstepMismatch_follows  (hF : Follows keep lock r0 s) :
    ∃ s1, execLockstepMismatch s = .next s1 ∧ Follows keep lock r0 s1 := by
  refine ⟨_, rfl, ?_⟩
  try dsimp only
  with_reducible repeat' first
    | assumption | apply internalFault_follows

theorem execPlumbOscillatorFailure_follows  (hF : Follows keep lock r0 s) :
    ∃ s1, execPlumbOscillatorFailure s = .next s1 ∧ Follows keep lock r0 s1 := by
  refine ⟨_, rfl, ?_⟩
  try dsimp only
  with_reducible repeat' first
    | assumption | apply internalFault_follows

theorem execPeriodicSelftest_follows (ok : Bool) (hF : Follows keep lock r0 s) :
    ∃ s1, execPeriodicSelftest ok s = .next s1 ∧ Follows keep lock r0 s1 := by
  refine ⟨_, rfl, ?_⟩
  try dsimp only
  with_reducible repeat' first
    | assumption | intro _ | apply Follows.ite | apply upto_follows | apply onPlumb_follows
    | apply internalFault_follows | simp only [Follows.mk_iff] | apply atNow_follows | exact Nat.le_refl _
    | exact id | exact fun _ => rfl

theorem execSelftestDone_follows (ok : Bool) (hF : Follows keep false r0 s) :
    ∃ s1, execSelftestDone ok s = .next s1 ∧ Follows keep false r0 s1 := by
  refine ⟨_, rfl, ?_⟩
  try dsimp only
  with_reducible repeat' first
    | assumption | intro _ | apply Follows.ite | apply internalFault_follows | apply startEnds_follows
    | apply milestone_follows | apply onPlumb_follows | simp only [Follows.mk_iff] | apply atNow_follows
    | exact Nat.le_refl _ | exact Nat.le_max_left _ _ | exact Nat.le_add_right _ _ | refine Follows.of_snd (by assumption) ?_
    | refine Follows.of_fst (by assumption) ?_ | exact id | exact fun _ => rfl | simp only [id_eq]
    | split | dsimp only

theorem execEnter_follows (m : Master) (hF : Follows keep lock r0 s) :
    ∃ s1, execEnter m s = .next s1 ∧ Follows keep lock r0 s1 := by
  refine ⟨_, rfl, ?_⟩
  try dsimp only
  with_reducible repeat' first
    | assumption | intro _ | apply plumbBus_follows | apply writeSadCtl_follows

theorem execExit_follows (m : Master) (hF : Follows keep lock r0 s) :
    ∃ s1, execExit m s = .next s1 ∧ Follows keep lock r0 s1 := by
  refine ⟨_, rfl, ?_⟩
  try dsimp only
  with_reducible repeat' first
    | assumption | intro _ | apply plumbBus_follows | apply writeSadCtl_follows

theorem execSaddleReset_follows (m : Master) (hF : Follows keep lock r0 s) :
    ∃ s1, execSaddleReset m s = .next s1 ∧ Follows keep lock r0 s1 := by
  refine ⟨_, rfl, ?_⟩
  try dsimp only
  with_reducible repeat' first
    | assumption | intro _ | apply plumbBus_follows | apply writeSadCtl_follows

theorem execSaddleTimeout_follows  (hF : Follows keep lock r0 s) :
    ∃ s1, execSaddleTimeout s = .next s1 ∧ Follows keep lock r0 s1 := by
  refine ⟨_, rfl, ?_⟩
  try dsimp only
  with_reducible repeat' first
    | assumption | apply Follows.ite | apply saddleTable_follows | apply upto_follows

theorem execCleanTimeout_follows  (hF : Follows keep lock r0 s) :
    ∃ s1, execCleanTimeout s = .next s1 ∧ Follows keep lock r0 s1 := by
  refine ⟨_, rfl, ?_⟩
  try dsimp only
  with_reducible repeat' first
    | assumption | apply Follows.ite | apply saddleTable_follows | apply upto_follows

theorem soutSettings_follows (n : Nat) (v : Word) (hF : Follows keep lock r0 s) :
    Follows keep lock r0 (soutSettings n v s) := by
  unfold soutSettings
  try dsimp only
  with_reducible repeat' first
    | assumption | intro _ | apply Follows.ite | apply plainWrite_follows | apply onSout_follows
    | apply plumbEval_follows | apply judgeSout_follows | simp only [Follows.mk_iff] | apply atNow_follows
    | exact Nat.le_refl _ | split

theorem setPlumb_follows (off : Nat) (v : Word) (hF : Follows keep lock r0 s) :
    Follows keep lock r0 (setPlumb off v s) := by
  unfold setPlumb
  try dsimp only
  with_reducible repeat' first
    | assumption | intro _ | apply Follows.ite | apply soutSettings_follows | apply plainWrite_follows
    | apply forEach_follows | apply evalInput_follows | apply plumbEval_follows | apply scanRaise_follows
    | simp only [Follows.mk_iff] | apply atNow_follows | exact Nat.le_refl _ | split

theorem writeSoutCtl_follows (v : Word) (hF : Follows keep lock r0 s) :
    Follows keep lock r0 (writeSoutCtl v s) := by
  unfold writeSoutCtl
  try dsimp only
  with_reducible repeat' first
    | assumption | intro _ | apply forEach_follows | apply soutClose_follows | apply soutOff_follows
    | apply soutClr_follows | apply startTest_follows

end Sys2Proof.Machine
end

