-- ==== Sys2Proof/Laws/FollowPasswords.lean ====
section
/-! SUPPORT. What the operations of Machine/Passwords.lean keep (Laws/Follows.lean). -/

set_option linter.unusedTactic false
set_option linter.unreachableTactic false
set_option linter.unusedVariables false

namespace Sys2Proof.Machine

variable {keep lock : Bool} {r0 s : State}

theorem onPw_follows (f : Passwords → Passwords) (hF : Follows keep lock r0 s) :
    Follows keep lock r0 (onPw f s) := by
  unfold onPw
  try dsimp only
  with_reducible repeat' first
    | assumption | simp only [Follows.mk_iff] | apply atNow_follows | exact Nat.le_refl _

theorem unlockFails_follows (m : Master) (hF : Follows keep lock r0 s) :
    Follows keep lock r0 (unlockFails m s) := by
  unfold unlockFails
  try dsimp only
  with_reducible repeat' first
    | assumption | intro _ | apply Follows.ite | apply raisePl_follows | apply bookRequested_follows
    | apply onPw_follows | apply bookAction_follows | simp only [Follows.mk_iff] | apply atNow_follows
    | exact Nat.le_refl _

theorem unlockTo_follows (m : Master) (l : Nat) (hF : Follows keep lock r0 s) :
    Follows keep lock r0 (unlockTo m l s) := by
  unfold unlockTo
  try dsimp only
  with_reducible repeat' first
    | assumption | intro _ | apply bookRequested_follows | apply raisePl_follows
    | apply onPw_follows | simp only [Follows.mk_iff] | apply atNow_follows | exact Nat.le_refl _
    | exact Nat.le_max_left _ _ | exact Nat.le_add_right _ _

theorem pwAct_follows (m : Master) (cmd len : Nat) (hF : Follows keep lock r0 s) :
    Follows keep lock r0 (pwAct m cmd len s) := by
  unfold pwAct
  try dsimp only
  with_reducible repeat' first
    | assumption | intro _ | apply Follows.ite | apply raisePl_follows | apply unlockTo_follows
    | apply unlockFails_follows | apply relockLevel_follows | apply onPw_follows | apply bookRequested_follows
    | simp only [Follows.mk_iff] | apply atNow_follows | exact Nat.le_refl _ | split

theorem pwCommand_follows (m : Master) (cmd len : Nat) (hF : Follows keep lock r0 s) :
    Follows keep lock r0 (pwCommand m cmd len s) := by
  unfold pwCommand
  try dsimp only
  with_reducible repeat' first
    | assumption | intro _ | apply onPw_follows | apply pwAct_follows | simp only [Follows.mk_iff]
    | apply atNow_follows | exact Nat.le_refl _

theorem writePwData_follows (v : Word) (hF : Follows keep lock r0 s) :
    Follows keep lock r0 (writePwData v s) := by
  unfold writePwData
  try dsimp only
  with_reducible repeat' first
    | assumption | intro _ | apply Follows.ite | apply onPw_follows | simp only [Follows.mk_iff]
    | apply atNow_follows | exact Nat.le_refl _

theorem passwordBus_follows (m : Master) (cmd len : Nat) (hF : Follows keep lock r0 s) :
    Follows keep lock r0 (passwordBus m cmd len s) := by
  unfold passwordBus
  try dsimp only
  with_reducible repeat' first
    | assumption | intro _ | apply plumbBus_follows | apply pwCommand_follows

theorem execUnlockSite_follows (m : Master) (len : BitVec 6) (hF : Follows keep lock r0 s) :
    ∃ s1, execUnlockSite m len s = .next s1 ∧ Follows keep lock r0 s1 := by
  refine ⟨_, rfl, ?_⟩
  try dsimp only
  with_reducible repeat' first
    | assumption | apply passwordBus_follows

theorem execUnlockMaker_follows (m : Master) (len : BitVec 6) (hF : Follows keep lock r0 s) :
    ∃ s1, execUnlockMaker m len s = .next s1 ∧ Follows keep lock r0 s1 := by
  refine ⟨_, rfl, ?_⟩
  try dsimp only
  with_reducible repeat' first
    | assumption | apply passwordBus_follows

theorem execRelock_follows (m : Master) (hF : Follows keep lock r0 s) :
    ∃ s1, execRelock m s = .next s1 ∧ Follows keep lock r0 s1 := by
  refine ⟨_, rfl, ?_⟩
  try dsimp only
  with_reducible repeat' first
    | assumption | apply passwordBus_follows

theorem execSetSite_follows (m : Master) (len : BitVec 6) (hF : Follows keep lock r0 s) :
    ∃ s1, execSetSite m len s = .next s1 ∧ Follows keep lock r0 s1 := by
  refine ⟨_, rfl, ?_⟩
  try dsimp only
  with_reducible repeat' first
    | assumption | apply passwordBus_follows

theorem execSetMaker_follows (m : Master) (len : BitVec 6) (hF : Follows keep lock r0 s) :
    ∃ s1, execSetMaker m len s = .next s1 ∧ Follows keep lock r0 s1 := by
  refine ⟨_, rfl, ?_⟩
  try dsimp only
  with_reducible repeat' first
    | assumption | apply passwordBus_follows

theorem execPwDataWrite_follows (m : Master) (v : Word) (hF : Follows keep lock r0 s) :
    ∃ s1, execPwDataWrite m v s = .next s1 ∧ Follows keep lock r0 s1 := by
  refine ⟨_, rfl, ?_⟩
  try dsimp only
  with_reducible repeat' first
    | assumption | intro _ | apply plumbBus_follows | apply writePwData_follows

theorem execSessionTimeout_follows  (hF : Follows keep lock r0 s) :
    ∃ s1, execSessionTimeout s = .next s1 ∧ Follows keep lock r0 s1 := by
  refine ⟨_, rfl, ?_⟩
  try dsimp only
  with_reducible repeat' first
    | assumption | apply Follows.ite | apply relockLevel_follows | apply upto_follows
    | split

theorem execLockoutEnd_follows  (hF : Follows keep lock r0 s) :
    ∃ s1, execLockoutEnd s = .next s1 ∧ Follows keep lock r0 s1 := by
  refine ⟨_, rfl, ?_⟩
  try dsimp only
  with_reducible repeat' first
    | assumption | intro _ | apply Follows.ite | apply onPw_follows | apply upto_follows
    | simp only [Follows.mk_iff] | apply atNow_follows | exact Nat.le_refl _

theorem execFbDrain_follows (ok : Bool) (hF : Follows false lock r0 s) :
    ∃ s1, execFbDrain ok s = .next s1 ∧ Follows false lock r0 s1 := by
  refine ⟨_, rfl, ?_⟩
  try dsimp only
  with_reducible repeat' first
    | assumption | intro _ | apply Follows.ite | apply nvStores_follows | apply raisePl_follows
    | apply placeWaiting_follows | simp only [Follows.mk_iff] | apply atNow_follows | exact Nat.le_refl _
    | split

theorem execFbDataRead_follows (m : Master) (hF : Follows keep lock r0 s) :
    ∃ s1, execFbDataRead m s = .next s1 ∧ Follows keep lock r0 s1 := by
  refine ⟨_, rfl, ?_⟩
  try dsimp only
  with_reducible repeat' first
    | assumption | intro _ | apply Follows.ite | apply readAt_follows | apply respond_follows
    | apply wrf_follows | simp only [Follows.mk_iff] | apply atNow_follows | exact Nat.le_refl _

end Sys2Proof.Machine
end

