-- ==== Sys2Proof/Laws/FollowCells.lean ====
section
/-! SUPPORT. What the operations of Machine/Cells.lean keep (Laws/Follows.lean). -/

set_option linter.unusedTactic false
set_option linter.unreachableTactic false
set_option linter.unusedVariables false

namespace Sys2Proof.Machine

variable {keep lock : Bool} {r0 s : State}

theorem onLink_follows (r : Nat) (f : RingLink → RingLink) (hF : Follows keep lock r0 s) :
    Follows keep lock r0 (onLink r f s) := by
  unfold onLink
  try dsimp only
  with_reducible repeat' first
    | assumption | apply Follows.ite | simp only [Follows.mk_iff] | apply atNow_follows
    | exact Nat.le_refl _

theorem raiseRing_follows (r k : Nat) (hF : Follows keep lock r0 s) :
    Follows keep lock r0 (raiseRing r k s) := by
  unfold raiseRing
  try dsimp only
  with_reducible repeat' first
    | assumption | apply raise_follows

theorem sendLocal_follows (r : Nat) (mk : Nat → List Byte) (hF : Follows keep lock r0 s) :
    Follows keep lock r0 (sendLocal r mk s).2 := by
  unfold sendLocal
  try dsimp only
  with_reducible repeat' first
    | assumption | intro _ | apply incMod_follows | apply onLink_follows | simp only [Follows.mk_iff]
    | apply atNow_follows | exact Nat.le_refl _ | dsimp only

theorem countRing_follows (r off lo : Nat) (hF : Follows keep lock r0 s) :
    Follows keep lock r0 (countRing r off lo s) := by
  unfold countRing
  try dsimp only
  with_reducible repeat' first
    | assumption | apply incHeld_follows

end Sys2Proof.Machine
end

