-- ==== Sys2Proof/Laws/FollowSensing.lean ====
section
/-! SUPPORT. What the operations of Machine/Sensing.lean keep (Laws/Follows.lean). -/

set_option linter.unusedTactic false
set_option linter.unreachableTactic false
set_option linter.unusedVariables false

namespace Sys2Proof.Machine

variable {keep lock : Bool} {r0 s : State}

theorem setAdc_follows (n : Nat) (x : Adc) (hF : Follows keep lock r0 s) :
    Follows keep lock r0 (setAdc n x s) := by
  unfold setAdc
  try dsimp only
  with_reducible repeat' first
    | assumption | simp only [Follows.mk_iff] | apply atNow_follows | exact Nat.le_refl _

theorem onAdc_follows (n : Nat) (f : Adc → Adc) (hF : Follows keep lock r0 s) :
    Follows keep lock r0 (onAdc n f s) := by
  unfold onAdc
  try dsimp only
  with_reducible repeat' first
    | assumption | apply setAdc_follows

theorem closeWin_follows (n : Nat) (start tick : Nat) (early : Bool) (hF : Follows keep lock r0 s) :
    Follows keep lock r0 (closeWin n start tick early s) := by
  unfold closeWin
  try dsimp only
  with_reducible repeat' first
    | assumption | apply Follows.ite | apply setAdc_follows | simp only [Follows.mk_iff]
    | apply atNow_follows | exact Nat.le_refl _ | split

theorem deliverSet_follows (n : Nat) (c : Closed) (hF : Follows keep lock r0 s) :
    Follows keep lock r0 (deliverSet n c s) := by
  unfold deliverSet
  try dsimp only
  with_reducible repeat' first
    | assumption | apply Follows.ite | apply setAdc_follows | apply wr_follows | apply wrb_follows
    | apply raise_follows | simp only [Follows.mk_iff] | apply atNow_follows | exact Nat.le_refl _

theorem beginEntry_follows (n : Nat) (hF : Follows keep lock r0 s) :
    Follows keep lock r0 (beginEntry n s) := by
  unfold beginEntry
  try dsimp only
  with_reducible repeat' first
    | assumption | intro _ | apply onAdc_follows | simp only [Follows.mk_iff] | apply atNow_follows
    | exact Nat.le_refl _

theorem storeResult_follows (n : Nat) (hF : Follows keep lock r0 s) :
    Follows keep lock r0 (storeResult n s) := by
  unfold storeResult
  try dsimp only
  with_reducible repeat' first
    | assumption | intro _ | apply onAdc_follows | apply wr_follows | simp only [Follows.mk_iff]
    | apply atNow_follows | exact Nat.le_refl _ | split

theorem applyDeferred_follows (n : Nat) (hF : Follows keep lock r0 s) :
    Follows keep lock r0 (applyDeferred n s) := by
  unfold applyDeferred
  try dsimp only
  with_reducible repeat' first
    | assumption | intro _ | apply Follows.ite | apply setAdc_follows | apply forEach_follows
    | apply setForce_follows | simp only [Follows.mk_iff] | apply atNow_follows | exact Nat.le_refl _
    | split

theorem regularFrom_follows (n i : Nat) (again : Bool) (hF : Follows keep lock r0 s) :
    Follows keep lock r0 (regularFrom n i again s) := by
  unfold regularFrom
  try dsimp only
  with_reducible repeat' first
    | assumption | intro _ | apply Follows.ite | apply beginEntry_follows | apply onAdc_follows
    | apply raise_follows | apply applyDeferred_follows | simp only [Follows.mk_iff] | apply atNow_follows
    | exact Nat.le_refl _

theorem regularTrigger_follows (n : Nat) (hF : Follows keep lock r0 s) :
    Follows keep lock r0 (regularTrigger n s) := by
  unfold regularTrigger
  try dsimp only
  with_reducible repeat' first
    | assumption | apply Follows.ite | apply raise_follows | apply incHeld_follows
    | apply setAdc_follows | apply regularFrom_follows | simp only [Follows.mk_iff] | apply atNow_follows
    | exact Nat.le_refl _

theorem urgentTrigger_follows (n : Nat) (hF : Follows keep lock r0 s) :
    Follows keep lock r0 (urgentTrigger n s) := by
  unfold urgentTrigger
  try dsimp only
  with_reducible repeat' first
    | assumption | apply Follows.ite | apply raise_follows | apply incHeld_follows
    | apply setAdc_follows | apply beginEntry_follows | simp only [Follows.mk_iff] | apply atNow_follows
    | exact Nat.le_refl _ | split

theorem advanceSeq_follows (n : Nat) (hF : Follows keep lock r0 s) :
    Follows keep lock r0 (advanceSeq n s) := by
  unfold advanceSeq
  try dsimp only
  with_reducible repeat' first
    | assumption | intro _ | apply Follows.ite | apply beginEntry_follows | apply setAdc_follows
    | apply raise_follows | apply applyDeferred_follows | apply onAdc_follows | apply regularFrom_follows
    | simp only [Follows.mk_iff] | apply atNow_follows | exact Nat.le_refl _ | split

theorem stopAdc_follows (n : Nat) (hF : Follows keep lock r0 s) :
    Follows keep lock r0 (stopAdc n s) := by
  unfold stopAdc
  try dsimp only
  with_reducible repeat' first
    | assumption | intro _ | apply onAdc_follows | simp only [Follows.mk_iff] | apply atNow_follows
    | exact Nat.le_refl _

theorem commitAdc_follows (n : Nat) (bound : Option Nat) (start tick ended : Nat) (hF : Follows keep lock r0 s) :
    Follows keep lock r0 (commitAdc n bound start tick ended s) := by
  unfold commitAdc
  try dsimp only
  with_reducible repeat' first
    | assumption | intro _ | apply Follows.ite | apply raise_follows | apply refuseGroup_follows
    | apply boundary_follows | apply closeWin_follows | apply forEach_follows | apply setForce_follows
    | apply onAdc_follows | apply wrf_follows | apply closeGroup_follows | apply wrb_follows
    | apply stopAdc_follows | apply regularFrom_follows | simp only [Follows.mk_iff] | apply atNow_follows
    | exact Nat.le_refl _ | split

theorem adcBoundary_follows (d start tick ended : Nat) (fresh : Bool) (hF : Follows keep lock r0 s) :
    Follows keep lock r0 (adcBoundary d start tick ended fresh s) := by
  unfold adcBoundary
  try dsimp only
  with_reducible repeat' first
    | assumption | intro _ | apply Follows.ite | apply forEach_follows | apply closeWin_follows
    | apply onAdc_follows | apply commitAdc_follows | simp only [Follows.mk_iff] | apply atNow_follows
    | exact Nat.le_refl _

theorem execConverterGroupCommit_follows (n : Fin 32) (hF : Follows keep lock r0 s) :
    ∃ s1, execConverterGroupCommit n s = .next s1 ∧ Follows keep lock r0 s1 := by
  refine ⟨_, rfl, ?_⟩
  try dsimp only
  with_reducible repeat' first
    | assumption | apply Follows.ite | apply upto_follows | apply commitAdc_follows
    | simp only [Follows.mk_iff] | apply atNow_follows | exact Nat.le_refl _ | split

theorem execSlotEnd_follows (n : Fin 32) (code : Int) (side : Fin 3) (err : Bool) (hF : Follows keep lock r0 s) :
    ∃ s1, execSlotEnd n code side err s = .next s1 ∧ Follows keep lock r0 s1 := by
  refine ⟨_, rfl, ?_⟩
  try dsimp only
  with_reducible repeat' first
    | assumption | intro _ | apply Follows.ite | apply setAdc_follows | apply upto_follows
    | simp only [Follows.mk_iff] | apply atNow_follows | exact Nat.le_refl _ | split

theorem execAvgRead_follows (m : Master) (n : Fin 32) (hF : Follows keep lock r0 s) :
    ∃ s1, execAvgRead m n s = .next s1 ∧ Follows keep lock r0 s1 := by
  refine ⟨_, rfl, ?_⟩
  try dsimp only
  with_reducible repeat' first
    | assumption | intro _ | apply readAt_follows | apply forEach_follows | apply wr_follows
    | apply respond_follows

theorem execRegularTrigger_follows (n : Fin 32) (hF : Follows keep lock r0 s) :
    ∃ s1, execRegularTrigger n s = .next s1 ∧ Follows keep lock r0 s1 := by
  refine ⟨_, rfl, ?_⟩
  try dsimp only
  with_reducible repeat' first
    | assumption | intro _ | apply Follows.ite | apply regularTrigger_follows | apply onAdc_follows
    | simp only [Follows.mk_iff] | apply atNow_follows | exact Nat.le_refl _ | split

theorem execUrgentTrigger_follows (n : Fin 32) (hF : Follows keep lock r0 s) :
    ∃ s1, execUrgentTrigger n s = .next s1 ∧ Follows keep lock r0 s1 := by
  refine ⟨_, rfl, ?_⟩
  try dsimp only
  with_reducible repeat' first
    | assumption | intro _ | apply Follows.ite | apply urgentTrigger_follows | apply onAdc_follows
    | simp only [Follows.mk_iff] | apply atNow_follows | exact Nat.le_refl _ | split

theorem entryResult_follows (n k : Nat) (c : Int) (sat again : Bool) (hF : Follows keep lock r0 s) :
    Follows keep lock r0 (entryResult n k c sat again s) := by
  unfold entryResult
  try dsimp only
  with_reducible repeat' first
    | assumption | apply Follows.ite | apply setAdc_follows | apply raise_follows
    | simp only [Follows.mk_iff] | apply atNow_follows | exact Nat.le_refl _

theorem execEntryEnd_follows (n : Fin 32) (code : Int) (side : Fin 3) (hF : Follows keep lock r0 s) :
    ∃ s1, execEntryEnd n code side s = .next s1 ∧ Follows keep lock r0 s1 := by
  refine ⟨_, rfl, ?_⟩
  try dsimp only
  with_reducible repeat' first
    | assumption | apply Follows.ite | apply storeResult_follows | apply upto_follows
    | apply advanceSeq_follows | apply entryResult_follows | simp only [Follows.mk_iff]
    | apply atNow_follows | exact Nat.le_refl _ | split

theorem swStart_follows (n : Nat) (hF : Follows keep lock r0 s) :
    Follows keep lock r0 (swStart n s) := by
  unfold swStart
  try dsimp only
  with_reducible repeat' first
    | assumption | apply Follows.ite | apply regularTrigger_follows

theorem execSwStart_follows (m : Master) (n : Fin 32) (hF : Follows keep lock r0 s) :
    ∃ s1, execSwStart m n s = .next s1 ∧ Follows keep lock r0 s1 := by
  refine ⟨_, rfl, ?_⟩
  try dsimp only
  with_reducible repeat' first
    | assumption | intro _ | apply byBus_follows | apply swStart_follows

theorem execConverterReady_follows (n : Fin 32) (hF : Follows keep lock r0 s) :
    ∃ s1, execConverterReady n s = .next s1 ∧ Follows keep lock r0 s1 := by
  refine ⟨_, rfl, ?_⟩
  try dsimp only
  with_reducible repeat' first
    | assumption | intro _ | apply Follows.ite | apply onAdc_follows | apply upto_follows
    | apply raise_follows | apply wrb_follows | simp only [Follows.mk_iff] | apply atNow_follows
    | exact Nat.le_refl _ | split

theorem execLpSettled_follows (n : Fin 32) (hF : Follows keep lock r0 s) :
    ∃ s1, execLpSettled n s = .next s1 ∧ Follows keep lock r0 s1 := by
  refine ⟨_, rfl, ?_⟩
  try dsimp only
  with_reducible repeat' first
    | assumption | intro _ | apply Follows.ite | apply onAdc_follows | apply upto_follows
    | simp only [Follows.mk_iff] | apply atNow_follows | exact Nat.le_refl _ | split

theorem execResultRead_follows (m : Master) (n : Fin 32) (i : Fin 20) (hF : Follows keep lock r0 s) :
    ∃ s1, execResultRead m n i s = .next s1 ∧ Follows keep lock r0 s1 := by
  refine ⟨_, rfl, ?_⟩
  try dsimp only
  with_reducible repeat' first
    | assumption | intro _ | apply Follows.ite | apply readAt_follows | apply onAdc_follows
    | apply respond_follows | apply wr_follows | simp only [Follows.mk_iff] | apply atNow_follows
    | exact Nat.le_refl _

end Sys2Proof.Machine
end

