-- ==== Sys2Proof/Laws/FollowGrid.lean ====
section
/-! SUPPORT. What the operations of Machine/Grid.lean keep (Laws/Follows.lean). -/

set_option linter.unusedTactic false
set_option linter.unreachableTactic false
set_option linter.unusedVariables false

namespace Sys2Proof.Machine

variable {keep lock : Bool} {r0 s : State}

theorem setGrid_follows (g : Nat) (x : Grid) (hF : Follows keep lock r0 s) :
    Follows keep lock r0 (setGrid g x s) := by
  unfold setGrid
  try dsimp only
  with_reducible repeat' first
    | assumption | simp only [Follows.mk_iff] | apply atNow_follows | exact Nat.le_refl _

theorem onGrid_follows (g : Nat) (f : Grid → Grid) (hF : Follows keep lock r0 s) :
    Follows keep lock r0 (onGrid g f s) := by
  unfold onGrid
  try dsimp only
  with_reducible repeat' first
    | assumption | apply setGrid_follows

theorem raiseGrid_follows (g k : Nat) (hF : Follows keep lock r0 s) :
    Follows keep lock r0 (raiseGrid g k s) := by
  unfold raiseGrid
  try dsimp only
  with_reducible repeat' first
    | assumption | apply raise_follows

theorem logWith_follows (page : Nat) (payload : List Word) (hF : Follows keep lock r0 s) :
    Follows keep lock r0 (logWith page payload s) := by
  unfold logWith
  try dsimp only
  with_reducible repeat' first
    | assumption | apply draw_follows | apply logIt_follows | refine Follows.of_snd (by assumption) ?_
    | split | dsimp only

theorem gridClose_follows (g : Nat) (hF : Follows keep lock r0 s) :
    Follows keep lock r0 (gridClose g s) := by
  unfold gridClose
  try dsimp only
  with_reducible repeat' first
    | assumption | apply Follows.ite | apply soutGrant_getD_follows

theorem tripCause_follows (g cause entry : Nat) (hF : Follows keep lock r0 s) :
    Follows keep lock r0 (tripCause g cause entry s) := by
  unfold tripCause
  try dsimp only
  with_reducible repeat' first
    | assumption | apply Follows.ite | apply incHeld_follows | apply wr_follows | apply raiseGrid_follows

theorem gridTo_follows (g st cause entry : Nat) (hF : Follows keep lock r0 s) :
    Follows keep lock r0 (gridTo g st cause entry s) := by
  unfold gridTo
  try dsimp only
  with_reducible repeat' first
    | assumption | intro _ | apply Follows.ite | apply onGrid_follows | apply raiseGrid_follows
    | apply logWith_follows | apply tripCause_follows | apply portOpen_follows | simp only [Follows.mk_iff]
    | apply atNow_follows | exact Nat.le_refl _ | exact Nat.le_max_left _ _ | exact Nat.le_add_right _ _

theorem gridCurves_follows (g len : Nat) (hF : Follows keep lock r0 s) :
    Follows keep lock r0 (gridCurves g len s) := by
  unfold gridCurves
  try dsimp only
  with_reducible repeat' first
    | assumption | intro _ | apply Follows.ite | apply forEach_follows | apply setGrid_follows
    | apply raiseGrid_follows | split

theorem followStep_follows (g t : Nat) (hF : Follows keep lock r0 s) :
    Follows keep lock r0 (followStep g t s) := by
  unfold followStep
  try dsimp only
  with_reducible repeat' first
    | assumption | apply Follows.ite | apply setGrid_follows | apply raise_follows
    | simp only [Follows.mk_iff] | apply atNow_follows | exact Nat.le_refl _ | split

theorem followShown_follows (g : Nat) (hF : Follows keep lock r0 s) :
    Follows keep lock r0 (followShown g s) := by
  unfold followShown
  try dsimp only
  with_reducible repeat' first
    | assumption | apply Follows.ite | apply raise_follows | simp only [Follows.mk_iff]
    | apply atNow_follows | exact Nat.le_refl _ | split

theorem gridDecide_follows (g : Nat) (d : Int) (hF : Follows keep lock r0 s) :
    Follows keep lock r0 (gridDecide g d s) := by
  unfold gridDecide
  try dsimp only
  with_reducible repeat' first
    | assumption | apply Follows.ite | apply wr_follows | apply gridTo_follows

theorem gridCoast_follows (g cause n : Nat) (hF : Follows keep lock r0 s) :
    Follows keep lock r0 (gridCoast g cause n s) := by
  unfold gridCoast
  try dsimp only
  with_reducible repeat' first
    | assumption | intro _ | apply Follows.ite | apply wr_follows | apply onGrid_follows
    | apply gridTo_follows | simp only [Follows.mk_iff] | apply atNow_follows | exact Nat.le_refl _

theorem gridLeave_follows (g : Nat) (hF : Follows keep lock r0 s) :
    Follows keep lock r0 (gridLeave g s) := by
  unfold gridLeave
  try dsimp only
  with_reducible repeat' first
    | assumption | intro _ | apply Follows.ite | apply gridTo_follows | apply raise_follows
    | apply onGrid_follows | simp only [Follows.mk_iff] | apply atNow_follows | exact Nat.le_refl _

theorem gridStates_follows (g n : Nat) (jump : Option Int) (relocked : Bool) (hF : Follows keep lock r0 s) :
    Follows keep lock r0 (gridStates g n jump relocked s) := by
  unfold gridStates
  try dsimp only
  with_reducible repeat' first
    | assumption | intro _ | apply Follows.ite | apply gridLeave_follows | apply gridTo_follows
    | apply gridDecide_follows | apply gridCoast_follows | apply onGrid_follows | apply gridClose_follows
    | simp only [Follows.mk_iff] | apply atNow_follows | exact Nat.le_refl _ | exact Nat.le_max_left _ _
    | exact Nat.le_add_right _ _ | split

theorem gridRefs_follows (g len old : Nat) (hF : Follows keep lock r0 s) :
    Follows keep lock r0 (gridRefs g len old s) := by
  unfold gridRefs
  try dsimp only
  with_reducible repeat' first
    | assumption | intro _ | apply Follows.ite | apply step_follows | apply setGrid_follows
    | apply raiseGrid_follows | simp only [Follows.mk_iff] | apply atNow_follows | exact Nat.le_refl _
    | simp only [id_eq] | split

theorem gridUpdate_follows (g : Nat) (hF : Follows keep lock r0 s) :
    Follows keep lock r0 (gridUpdate g s) := by
  unfold gridUpdate
  try dsimp only
  with_reducible repeat' first
    | assumption | intro _ | apply Follows.ite | apply setGrid_follows | apply raiseGrid_follows
    | apply incHeld_follows | apply gridCurves_follows | apply wr_follows | apply followStep_follows
    | apply onGrid_follows | apply followShown_follows | apply gridStates_follows | apply gridRefs_follows
    | simp only [Follows.mk_iff] | apply atNow_follows | exact Nat.le_refl _ | split

theorem gridBoundary_follows (d tk ended : Nat) (fresh : Bool) (hF : Follows keep lock r0 s) :
    Follows keep lock r0 (gridBoundary d tk ended fresh s) := by
  unfold gridBoundary
  try dsimp only
  with_reducible repeat' first
    | assumption | intro _ | apply Follows.ite | apply forEach_follows | apply setGrid_follows
    | apply wr_follows | apply closeGroup_follows | apply commitRegs_follows | apply wrb_follows
    | apply raiseGrid_follows | apply refuseGroup_follows | simp only [Follows.mk_iff]
    | apply atNow_follows | exact Nat.le_refl _ | split

theorem writeGridCtl_follows (g : Nat) (v : Word) (hF : Follows keep lock r0 s) :
    Follows keep lock r0 (writeGridCtl g v s) := by
  unfold writeGridCtl
  try dsimp only
  with_reducible repeat' first
    | assumption | intro _ | apply Follows.ite | apply raiseGrid_follows | apply gridTo_follows
    | apply onGrid_follows | simp only [Follows.mk_iff] | apply atNow_follows | exact Nat.le_refl _
    | split

theorem writeCurve_follows (g off : Nat) (v : Word) (hF : Follows keep lock r0 s) :
    Follows keep lock r0 (writeCurve g off v s) := by
  unfold writeCurve
  try dsimp only
  with_reducible repeat' first
    | assumption | intro _ | apply plainWrite_follows | apply onGrid_follows | simp only [Follows.mk_iff]
    | apply atNow_follows | exact Nat.le_refl _

theorem writeGrid_follows (g off : Nat) (v : Word) (hF : Follows keep lock r0 s) :
    Follows keep lock r0 (writeGrid g off v s) := by
  unfold writeGrid
  try dsimp only
  with_reducible repeat' first
    | assumption | apply Follows.ite | apply writeGridCtl_follows | apply writeCurve_follows
    | apply plainWrite_follows

theorem gridsOff_follows  (hF : Follows keep lock r0 s) :
    Follows keep lock r0 (gridsOff s) := by
  unfold gridsOff
  try dsimp only
  with_reducible repeat' first
    | assumption | intro _ | apply Follows.ite | apply forEach_follows | apply portOpen_follows
    | apply raise_follows | simp only [Follows.mk_iff] | apply atNow_follows | exact Nat.le_refl _

theorem execCurveEntryWrite_follows (m : Master) (g : Fin 4) (e : Fin 32) (ecfg : Bool) (v : Word) (hF : Follows keep lock r0 s) :
    ∃ s1, execCurveEntryWrite m g e ecfg v s = .next s1 ∧ Follows keep lock r0 s1 := by
  refine ⟨_, rfl, ?_⟩
  try dsimp only
  with_reducible repeat' first
    | assumption | intro _ | apply Follows.ite | apply byBus_follows | apply writeCurve_follows

end Sys2Proof.Machine
end

