-- ==== Sys2Proof/Laws/FollowLanes.lean ====
section
/-! SUPPORT. What the operations of Machine/Lanes.lean keep (Laws/Follows.lean). -/

set_option linter.unusedTactic false
set_option linter.unreachableTactic false
set_option linter.unusedVariables false

namespace Sys2Proof.Machine

variable {keep lock : Bool} {r0 s : State}

theorem setLane_follows (n : Nat) (x : Lane) (hF : Follows keep lock r0 s) :
    Follows keep lock r0 (setLane n x s) := by
  unfold setLane
  try dsimp only
  with_reducible repeat' first
    | assumption | simp only [Follows.mk_iff] | apply atNow_follows | exact Nat.le_refl _

theorem onLane_follows (n : Nat) (f : Lane → Lane) (hF : Follows keep lock r0 s) :
    Follows keep lock r0 (onLane n f s) := by
  unfold onLane
  try dsimp only
  with_reducible repeat' first
    | assumption | apply setLane_follows

theorem wref_follows (n : Nat) (hF : Follows keep lock r0 s) :
    Follows keep lock r0 (wref n s) := by
  unfold wref
  try dsimp only
  with_reducible repeat' first
    | assumption | apply raise_follows

theorem writeTileWord_follows (t w : Nat) (v : Word) (hF : Follows false lock r0 s) :
    Follows false lock r0 (writeTileWord t w v s) := by
  unfold writeTileWord
  try dsimp only
  with_reducible repeat' first
    | assumption | apply Follows.ite | apply memWrWord_follows

theorem engWriteWord_follows (a : Nat) (v : Word) (hF : Follows false lock r0 s) :
    Follows false lock r0 (engWriteWord a v s) := by
  unfold engWriteWord
  try dsimp only
  with_reducible repeat' first
    | assumption | intro _ | apply Follows.ite | apply forEach_follows | apply wref_follows
    | apply writeTileWord_follows | simp only [Follows.mk_iff] | apply atNow_follows | exact Nat.le_refl _
    | split

theorem releaseHeld_follows (n : Nat) (k : Nat) (hF : Follows false lock r0 s) :
    Follows false lock r0 (releaseHeld n k  s) := by
  induction k generalizing s  with
  | zero => exact hF
  | succ k ih =>
  rw [releaseHeld]
  try dsimp only
  with_reducible repeat' first
    | assumption | apply ih | intro _ | apply writeTileWord_follows | simp only [Follows.mk_iff]
    | apply atNow_follows | exact Nat.le_refl _ | split

theorem releaseUnmapped_follows  (hF : Follows false lock r0 s) :
    Follows false lock r0 (releaseUnmapped s) := by
  unfold releaseUnmapped
  try dsimp only
  with_reducible repeat' first
    | assumption | intro _ | apply Follows.ite | apply forEach_follows | apply releaseHeld_follows
    | split

theorem writeTtype_follows (j : Nat) (v : Word) (hF : Follows false lock r0 s) :
    Follows false lock r0 (writeTtype j v s) := by
  unfold writeTtype
  try dsimp only
  with_reducible repeat' first
    | assumption | intro _ | apply Follows.ite | apply forEach_follows | apply wrb_follows
    | apply wrf_follows | apply memWrWord_follows | apply releaseUnmapped_follows

theorem requestSwap_follows (n : Nat) (hF : Follows keep lock r0 s) :
    Follows keep lock r0 (requestSwap n s) := by
  unfold requestSwap
  try dsimp only
  with_reducible repeat' first
    | assumption | intro _ | apply Follows.ite | apply onLane_follows | simp only [Follows.mk_iff]
    | apply atNow_follows | exact Nat.le_refl _

theorem refuseAll_follows (errBit : Nat) (hF : Follows keep lock r0 s) :
    Follows keep lock r0 (refuseAll errBit s) := by
  unfold refuseAll
  try dsimp only
  with_reducible repeat' first
    | assumption | intro _ | apply forEach_follows | apply raise_follows | apply wrb_follows
    | simp only [Follows.mk_iff] | apply atNow_follows | exact Nat.le_refl _

theorem requestSwapAll_follows  (hF : Follows keep lock r0 s) :
    Follows keep lock r0 (requestSwapAll s) := by
  unfold requestSwapAll
  try dsimp only
  with_reducible repeat' first
    | assumption | intro _ | apply Follows.ite | simp only [Follows.mk_iff] | apply atNow_follows
    | exact Nat.le_refl _ | split

theorem cancelSwaps_follows  (hF : Follows keep lock r0 s) :
    Follows keep lock r0 (cancelSwaps s) := by
  unfold cancelSwaps
  try dsimp only
  with_reducible repeat' first
    | assumption | intro _ | apply forEach_follows | apply onLane_follows | simp only [Follows.mk_iff]
    | apply atNow_follows | exact Nat.le_refl _

theorem writeEngcCtrl_follows (v : Word) (hF : Follows keep lock r0 s) :
    Follows keep lock r0 (writeEngcCtrl v s) := by
  unfold writeEngcCtrl
  try dsimp only
  with_reducible repeat' first
    | assumption | apply Follows.ite | apply wrb_follows | apply cancelSwaps_follows
    | apply requestSwapAll_follows

theorem writeVerify_follows (v : Word) (hF : Follows keep lock r0 s) :
    Follows keep lock r0 (writeVerify v s) := by
  unfold writeVerify
  try dsimp only
  with_reducible repeat' first
    | assumption | apply Follows.ite | apply wrf_follows | apply wrb_follows | simp only [Follows.mk_iff]
    | apply atNow_follows | exact Nat.le_refl _

theorem doSwap_follows (n : Nat) (hF : Follows false lock r0 s) :
    Follows false lock r0 (doSwap n s) := by
  unfold doSwap
  try dsimp only
  with_reducible repeat' first
    | assumption | intro _ | apply onLane_follows | apply raise_follows | apply releaseUnmapped_follows
    | simp only [Follows.mk_iff] | apply atNow_follows | exact Nat.le_refl _

theorem laneSwaps_follows (d tk : Nat) (hF : Follows false lock r0 s) :
    Follows false lock r0 (laneSwaps d tk s) := by
  unfold laneSwaps
  try dsimp only
  with_reducible repeat' first
    | assumption | intro _ | apply Follows.ite | apply forEach_follows | apply doSwap_follows
    | simp only [Follows.mk_iff] | apply atNow_follows | exact Nat.le_refl _ | split

theorem globalSwapDue_follows (cycle : Nat) (hF : Follows false lock r0 s) :
    Follows false lock r0 (globalSwapDue cycle s) := by
  unfold globalSwapDue
  try dsimp only
  with_reducible repeat' first
    | assumption | intro _ | apply Follows.ite | apply refuseAll_follows | apply forEach_follows
    | apply doSwap_follows | apply onLane_follows | simp only [Follows.mk_iff] | apply atNow_follows
    | exact Nat.le_refl _ | split

theorem writeLaneCtrl_follows (n : Nat) (v : Word) (hF : Follows false lock r0 s) :
    Follows false lock r0 (writeLaneCtrl n v s) := by
  unfold writeLaneCtrl
  try dsimp only
  with_reducible repeat' first
    | assumption | intro _ | apply Follows.ite | apply wref_follows | apply wrf_follows
    | apply wrb_follows | apply wr_follows | apply onLane_follows | apply releaseUnmapped_follows
    | apply requestSwap_follows | simp only [Follows.mk_iff] | apply atNow_follows | exact Nat.le_refl _

theorem writeBank_follows (n off : Nat) (v : Word) (hF : Follows keep lock r0 s) :
    Follows keep lock r0 (writeBank n off v s) := by
  unfold writeBank
  try dsimp only
  with_reducible repeat' first
    | assumption | apply Follows.ite | apply wref_follows | apply plainWrite_follows
    | split

theorem execLaneEnable_follows (m : Master) (n : Fin 32) (hF : Follows false lock r0 s) :
    ∃ s1, execLaneEnable m n s = .next s1 ∧ Follows false lock r0 s1 := by
  refine ⟨_, rfl, ?_⟩
  try dsimp only
  with_reducible repeat' first
    | assumption | intro _ | apply byBus_follows | apply writeLaneCtrl_follows

theorem execLaneDisable_follows (m : Master) (n : Fin 32) (hF : Follows false lock r0 s) :
    ∃ s1, execLaneDisable m n s = .next s1 ∧ Follows false lock r0 s1 := by
  refine ⟨_, rfl, ?_⟩
  try dsimp only
  with_reducible repeat' first
    | assumption | intro _ | apply byBus_follows | apply writeLaneCtrl_follows

theorem execSwap_follows (m : Master) (n : Fin 32) (hF : Follows keep lock r0 s) :
    ∃ s1, execSwap m n s = .next s1 ∧ Follows keep lock r0 s1 := by
  refine ⟨_, rfl, ?_⟩
  try dsimp only
  with_reducible repeat' first
    | assumption | intro _ | apply byBus_follows | apply requestSwap_follows

theorem execBankVerified_follows (n : Fin 32) (hF : Follows keep lock r0 s) :
    ∃ s1, execBankVerified n s = .next s1 ∧ Follows keep lock r0 s1 := by
  refine ⟨_, rfl, ?_⟩
  try dsimp only
  with_reducible repeat' first
    | assumption | intro _ | apply Follows.ite | apply upto_follows | apply onLane_follows
    | apply raise_follows | apply wrb_follows | simp only [Follows.mk_iff] | apply atNow_follows
    | exact Nat.le_refl _ | split

theorem execTileTypeWrite_follows (m : Master) (j : Fin 16) (v : Word) (hF : Follows false lock r0 s) :
    ∃ s1, execTileTypeWrite m j v s = .next s1 ∧ Follows false lock r0 s1 := by
  refine ⟨_, rfl, ?_⟩
  try dsimp only
  with_reducible repeat' first
    | assumption | intro _ | apply byBus_follows | apply writeTtype_follows

theorem engBusWrite_follows (m : Master) (a : Nat) (ws : List Word) (hF : Follows false lock r0 s) :
    Follows false lock r0 (engBusWrite m a ws s) := by
  unfold engBusWrite
  try dsimp only
  with_reducible repeat' first
    | assumption | intro _ | apply Follows.ite | apply forEach_follows | apply engWriteWord_follows
    | apply wref_follows

theorem execEngineMemoryWrite_follows (m : Master) (a : Nat) (ws : List Word) (hF : Follows false lock r0 s) :
    ∃ s1, execEngineMemoryWrite m a ws s = .next s1 ∧ Follows false lock r0 s1 := by
  refine ⟨_, rfl, ?_⟩
  try dsimp only
  with_reducible repeat' first
    | assumption | apply Follows.ite | apply pmcAccess_follows | apply busError_follows
    | apply busCycle_follows | apply engBusWrite_follows

theorem execTileVerify_follows (m : Master) (tile : Byte) (hF : Follows keep lock r0 s) :
    ∃ s1, execTileVerify m tile s = .next s1 ∧ Follows keep lock r0 s1 := by
  refine ⟨_, rfl, ?_⟩
  try dsimp only
  with_reducible repeat' first
    | assumption | intro _ | apply byBus_follows | apply writeVerify_follows

theorem execTileVerifyDone_follows  (hF : Follows keep lock r0 s) :
    ∃ s1, execTileVerifyDone s = .next s1 ∧ Follows keep lock r0 s1 := by
  refine ⟨_, rfl, ?_⟩
  try dsimp only
  with_reducible repeat' first
    | assumption | apply Follows.ite | apply upto_follows | apply wr_follows | apply wrb_follows
    | split

end Sys2Proof.Machine
end

