-- ==== Sys2Proof/Laws/FollowSoundings.lean ====
section
/-! SUPPORT. What the operations of Machine/Soundings.lean keep (Laws/Follows.lean). -/

set_option linter.unusedTactic false
set_option linter.unreachableTactic false
set_option linter.unusedVariables false

namespace Sys2Proof.Machine

variable {keep lock : Bool} {r0 s : State}

theorem setGen_follows (g : Nat) (x : Gen) (hF : Follows keep lock r0 s) :
    Follows keep lock r0 (setGen g x s) := by
  unfold setGen
  try dsimp only
  with_reducible repeat' first
    | assumption | simp only [Follows.mk_iff] | apply atNow_follows | exact Nat.le_refl _

theorem onGen_follows (g : Nat) (f : Gen → Gen) (hF : Follows keep lock r0 s) :
    Follows keep lock r0 (onGen g f s) := by
  unfold onGen
  try dsimp only
  with_reducible repeat' first
    | assumption | apply setGen_follows

theorem setGenState_follows (g st : Nat) (hF : Follows keep lock r0 s) :
    Follows keep lock r0 (setGenState g st s) := by
  unfold setGenState
  try dsimp only
  with_reducible repeat' first
    | assumption | apply wrf_follows

theorem genFlag_follows (g b : Nat) (hF : Follows keep lock r0 s) :
    Follows keep lock r0 (genFlag g b s) := by
  unfold genFlag
  try dsimp only
  with_reducible repeat' first
    | assumption | apply wrb_follows

theorem startGen_follows (g : Nat) (hF : Follows keep lock r0 s) :
    Follows keep lock r0 (startGen g s) := by
  unfold startGen
  try dsimp only
  with_reducible repeat' first
    | assumption | apply Follows.ite | apply raise_follows | apply wrb_follows | apply wr_follows
    | apply setGen_follows | apply genFlag_follows | simp only [Follows.mk_iff] | apply atNow_follows
    | exact Nat.le_refl _

theorem abortGen_follows (g : Nat) (hF : Follows keep lock r0 s) :
    Follows keep lock r0 (abortGen g s) := by
  unfold abortGen
  try dsimp only
  with_reducible repeat' first
    | assumption | intro _ | apply Follows.ite | apply onGen_follows | apply setGenState_follows
    | apply raise_follows | simp only [Follows.mk_iff] | apply atNow_follows | exact Nat.le_refl _

theorem writeGctl_follows (g : Nat) (v : Word) (hF : Follows keep lock r0 s) :
    Follows keep lock r0 (writeGctl g v s) := by
  unfold writeGctl
  try dsimp only
  with_reducible repeat' first
    | assumption | apply Follows.ite | apply startGen_follows | apply abortGen_follows

theorem excite_follows (g : Nat) (hF : Follows keep lock r0 s) :
    Follows keep lock r0 (excite g s) := by
  unfold excite
  try dsimp only
  with_reducible repeat' first
    | assumption | apply Follows.ite | apply setGen_follows | simp only [Follows.mk_iff]
    | apply atNow_follows | exact Nat.le_refl _ | split

theorem genDone_follows (g : Nat) (hF : Follows keep lock r0 s) :
    Follows keep lock r0 (genDone g s) := by
  unfold genDone
  try dsimp only
  with_reducible repeat' first
    | assumption | intro _ | apply Follows.ite | apply genFlag_follows | apply raise_follows
    | apply onGen_follows | apply setGenState_follows | simp only [Follows.mk_iff] | apply atNow_follows
    | exact Nat.le_refl _

theorem genMeasure_follows (g : Nat) (hF : Follows keep lock r0 s) :
    Follows keep lock r0 (genMeasure g s) := by
  unfold genMeasure
  try dsimp only
  with_reducible repeat' first
    | assumption | intro _ | apply Follows.ite | apply genFlag_follows | apply onGen_follows
    | apply setGenState_follows | apply genDone_follows | simp only [Follows.mk_iff] | apply atNow_follows
    | exact Nat.le_refl _

theorem genCount_follows (g : Nat) (hF : Follows keep lock r0 s) :
    Follows keep lock r0 (genCount g s) := by
  unfold genCount
  try dsimp only
  with_reducible repeat' first
    | assumption | intro _ | apply Follows.ite | apply onGen_follows | apply genMeasure_follows
    | apply genDone_follows | simp only [Follows.mk_iff] | apply atNow_follows | exact Nat.le_refl _

theorem captureSet_follows (g : Nat) (hF : Follows keep lock r0 s) :
    Follows keep lock r0 (captureSet g s) := by
  unfold captureSet
  try dsimp only
  with_reducible repeat' first
    | assumption | intro _ | apply Follows.ite | apply genFlag_follows | apply forEach_follows
    | apply wrf_follows | simp only [Follows.mk_iff] | apply atNow_follows | exact Nat.le_refl _

theorem genStep_follows (tk g : Nat) (hF : Follows keep lock r0 s) :
    Follows keep lock r0 (genStep tk g s) := by
  unfold genStep
  try dsimp only
  with_reducible repeat' first
    | assumption | intro _ | apply Follows.ite | apply onGen_follows | apply setGenState_follows
    | apply abortGen_follows | apply genFlag_follows | apply genMeasure_follows | apply excite_follows
    | apply boundary_follows | apply captureSet_follows | apply step_follows | apply genCount_follows
    | simp only [Follows.mk_iff] | apply atNow_follows | exact Nat.le_refl _ | split

theorem genBoundary_follows (d tk : Nat) (hF : Follows keep lock r0 s) :
    Follows keep lock r0 (genBoundary d tk s) := by
  unfold genBoundary
  try dsimp only
  with_reducible repeat' first
    | assumption | intro _ | apply Follows.ite | apply forEach_follows | apply genStep_follows

theorem gensDue_follows (cycle : Nat) (hF : Follows keep lock r0 s) :
    Follows keep lock r0 (gensDue cycle s) := by
  unfold gensDue
  try dsimp only
  with_reducible repeat' first
    | assumption | intro _ | apply Follows.ite | apply forEach_follows | apply genStep_follows
    | apply onGen_follows | simp only [Follows.mk_iff] | apply atNow_follows | exact Nat.le_refl _
    | split

theorem gensLoseDatum_follows  (hF : Follows keep lock r0 s) :
    Follows keep lock r0 (gensLoseDatum s) := by
  unfold gensLoseDatum
  try dsimp only
  with_reducible repeat' first
    | assumption | intro _ | apply Follows.ite | apply forEach_follows | apply abortGen_follows
    | apply genFlag_follows

theorem probesLand_follows (n : Nat) (ws : List (Nat × Word)) (hF : Follows keep lock r0 s) :
    Follows keep lock r0 (probesLand n ws s) := by
  unfold probesLand
  try dsimp only
  with_reducible repeat' first
    | assumption | intro _ | apply Follows.ite | apply forEach_follows | apply genFlag_follows
    | apply onGen_follows | apply incHeld_follows | apply setGen_follows | simp only [Follows.mk_iff]
    | apply atNow_follows | exact Nat.le_refl _ | split

theorem writeSnd_follows (m : Master) (off : Nat) (v : Word) (hF : Follows keep lock r0 s) :
    Follows keep lock r0 (writeSnd m off v s) := by
  unfold writeSnd
  try dsimp only
  with_reducible repeat' first
    | assumption | intro _ | apply Follows.ite | apply raise_follows | apply wrb_follows
    | apply writeGctl_follows | apply rwlPath_follows | apply plainWrite_follows | apply wr_follows
    | simp only [id_eq] | split

theorem execGeneratorStart_follows (m : Master) (g : Fin 8) (hF : Follows keep lock r0 s) :
    ∃ s1, execGeneratorStart m g s = .next s1 ∧ Follows keep lock r0 s1 := by
  refine ⟨_, rfl, ?_⟩
  try dsimp only
  with_reducible repeat' first
    | assumption | intro _ | apply byBus_follows | apply writeSnd_follows

theorem execGeneratorStop_follows (m : Master) (g : Fin 8) (hF : Follows keep lock r0 s) :
    ∃ s1, execGeneratorStop m g s = .next s1 ∧ Follows keep lock r0 s1 := by
  refine ⟨_, rfl, ?_⟩
  try dsimp only
  with_reducible repeat' first
    | assumption | intro _ | apply byBus_follows | apply writeSnd_follows

theorem execCapDataRead_follows (m : Master) (hF : Follows keep lock r0 s) :
    ∃ s1, execCapDataRead m s = .next s1 ∧ Follows keep lock r0 s1 := by
  refine ⟨_, rfl, ?_⟩
  try dsimp only
  with_reducible repeat' first
    | assumption | intro _ | apply readAt_follows | apply respond_follows | apply wrf_follows

theorem execIaccLoRead_follows (m : Master) (g : Fin 8) (j : Fin 8) (hF : Follows keep lock r0 s) :
    ∃ s1, execIaccLoRead m g j s = .next s1 ∧ Follows keep lock r0 s1 := by
  refine ⟨_, rfl, ?_⟩
  try dsimp only
  with_reducible repeat' first
    | assumption | intro _ | apply readAt_follows | apply respond_follows | apply wr_follows

end Sys2Proof.Machine
end

