-- ==== Sys2Proof/Laws/FollowIsl.lean ====
section
/-! SUPPORT. What the operations of Machine/Isl.lean keep (Laws/Follows.lean). -/

set_option linter.unusedTactic false
set_option linter.unreachableTactic false
set_option linter.unusedVariables false

namespace Sys2Proof.Machine

variable {keep lock : Bool} {r0 s : State}

theorem onIsl_follows (f : Isl → Isl) (hF : Follows keep lock r0 s) :
    Follows keep lock r0 (onIsl f s) := by
  unfold onIsl
  try dsimp only
  with_reducible repeat' first
    | assumption | simp only [Follows.mk_iff] | apply atNow_follows | exact Nat.le_refl _

theorem raiseIsl_follows (k : Nat) (hF : Follows keep lock r0 s) :
    Follows keep lock r0 (raiseIsl k s) := by
  unfold raiseIsl
  try dsimp only
  with_reducible repeat' first
    | assumption | apply raise_follows

theorem islHold_follows  (hF : Follows keep lock r0 s) :
    Follows keep lock r0 (islHold s) := by
  unfold islHold
  try dsimp only
  with_reducible repeat' first
    | assumption | intro _ | apply Follows.ite | apply raiseIsl_follows | apply onIsl_follows
    | simp only [Follows.mk_iff] | apply atNow_follows | exact Nat.le_refl _ | exact Nat.le_max_left _ _
    | exact Nat.le_add_right _ _

theorem islRefresh_follows  (hF : Follows keep lock r0 s) :
    Follows keep lock r0 (islRefresh s) := by
  unfold islRefresh
  try dsimp only
  with_reducible repeat' first
    | assumption | intro _ | apply Follows.ite | apply onIsl_follows | apply islHold_follows
    | apply raiseIsl_follows | simp only [Follows.mk_iff] | apply atNow_follows | exact Nat.le_refl _
    | split

theorem fixAmp_follows  (hF : Follows keep lock r0 s) :
    Follows keep lock r0 (fixAmp s) := by
  unfold fixAmp
  try dsimp only
  with_reducible repeat' first
    | assumption | intro _ | apply Follows.ite | apply onIsl_follows | apply raiseIsl_follows
    | simp only [Follows.mk_iff] | apply atNow_follows | exact Nat.le_refl _ | split

theorem islEnable_follows  (hF : Follows keep lock r0 s) :
    Follows keep lock r0 (islEnable s) := by
  unfold islEnable
  try dsimp only
  with_reducible repeat' first
    | assumption | intro _ | apply Follows.ite | apply raiseIsl_follows | apply onIsl_follows
    | apply fixAmp_follows | apply wrb_follows | apply setGen_follows | apply islRefresh_follows
    | simp only [Follows.mk_iff] | apply atNow_follows | exact Nat.le_refl _

theorem islSetX_follows (v : Word) (hF : Follows keep lock r0 s) :
    Follows keep lock r0 (islSetX v s) := by
  unfold islSetX
  try dsimp only
  with_reducible repeat' first
    | assumption | intro _ | apply onGen_follows | apply onIsl_follows | simp only [Follows.mk_iff]
    | apply atNow_follows | exact Nat.le_refl _

theorem islDisable_follows  (hF : Follows keep lock r0 s) :
    Follows keep lock r0 (islDisable s) := by
  unfold islDisable
  try dsimp only
  with_reducible repeat' first
    | assumption | intro _ | apply Follows.ite | apply raiseIsl_follows | apply wrb_follows
    | apply islSetX_follows | apply onIsl_follows | simp only [Follows.mk_iff] | apply atNow_follows
    | exact Nat.le_refl _

theorem islClearReport_follows  (hF : Follows keep lock r0 s) :
    Follows keep lock r0 (islClearReport s) := by
  unfold islClearReport
  try dsimp only
  with_reducible repeat' first
    | assumption | intro _ | apply Follows.ite | apply islandReport_follows | apply onIsl_follows
    | apply islRefresh_follows | simp only [Follows.mk_iff] | apply atNow_follows | exact Nat.le_refl _

theorem islClear_follows  (hF : Follows keep lock r0 s) :
    Follows keep lock r0 (islClear s) := by
  unfold islClear
  try dsimp only
  with_reducible repeat' first
    | assumption | apply Follows.ite | apply islClearReport_follows | apply raiseIsl_follows
    | split

theorem islPoll_follows (ubefore : State) (hF : Follows keep lock r0 s) :
    Follows keep lock r0 (islPoll ubefore s) := by
  unfold islPoll
  try dsimp only
  with_reducible repeat' first
    | assumption | apply Follows.ite | apply islClearReport_follows | apply islSetX_follows

theorem onChip_follows (n : Nat) (f : Chip → Chip) (hF : Follows keep lock r0 s) :
    Follows keep lock r0 (onChip n f s) := by
  unfold onChip
  try dsimp only
  with_reducible repeat' first
    | assumption | intro _ | apply Follows.ite | apply onIsl_follows | simp only [Follows.mk_iff]
    | apply atNow_follows | exact Nat.le_refl _

theorem islLocal_follows  (hF : Follows keep lock r0 s) :
    Follows keep lock r0 (islLocal s) := by
  unfold islLocal
  try dsimp only
  with_reducible repeat' first
    | assumption | intro _ | apply Follows.ite | apply fixAmp_follows | apply onIsl_follows
    | simp only [Follows.mk_iff] | apply atNow_follows | exact Nat.le_refl _ | split

theorem islBoundary_follows (d : Nat) (hF : Follows keep lock r0 s) :
    Follows keep lock r0 (islBoundary d s) := by
  unfold islBoundary
  try dsimp only
  with_reducible repeat' first
    | assumption | intro _ | apply Follows.ite | apply islRefresh_follows | apply onChip_follows
    | apply onIsl_follows | apply islLocal_follows | apply islSetX_follows | simp only [Follows.mk_iff]
    | apply atNow_follows | exact Nat.le_refl _ | split

theorem islWindow_follows (g : Nat) (hF : Follows keep lock r0 s) :
    Follows keep lock r0 (islWindow g s) := by
  unfold islWindow
  try dsimp only
  with_reducible repeat' first
    | assumption | intro _ | apply Follows.ite | apply onChip_follows | simp only [Follows.mk_iff]
    | apply atNow_follows | exact Nat.le_refl _ | split

theorem islDecide_follows (cause epoch : Nat) (payload : List Word) (hF : Follows keep lock r0 s) :
    Follows keep lock r0 (islDecide cause epoch payload s) := by
  unfold islDecide
  try dsimp only
  with_reducible repeat' first
    | assumption | intro _ | apply islSetX_follows | apply onIsl_follows | apply islandReport_follows
    | apply wr_follows | apply logWith_follows | apply raiseIsl_follows | simp only [Follows.mk_iff]
    | apply atNow_follows | exact Nat.le_refl _

theorem closePeriod_follows (per : IslPer) (hF : Follows keep lock r0 s) :
    Follows keep lock r0 (closePeriod per s) := by
  unfold closePeriod
  try dsimp only
  with_reducible repeat' first
    | assumption | intro _ | apply Follows.ite | apply incMod_follows | apply wr_follows
    | apply onIsl_follows | apply step_follows | apply raiseIsl_follows | apply islDecide_follows
    | simp only [Follows.mk_iff] | apply atNow_follows | exact Nat.le_refl _ | split

theorem islEpoch_follows (epoch : Nat) (hF : Follows keep lock r0 s) :
    Follows keep lock r0 (islEpoch epoch s) := by
  unfold islEpoch
  try dsimp only
  with_reducible repeat' first
    | assumption | intro _ | apply Follows.ite | apply islRefresh_follows | apply onIsl_follows
    | apply raiseIsl_follows | apply fixAmp_follows | simp only [Follows.mk_iff] | apply atNow_follows
    | exact Nat.le_refl _ | split

theorem islConfirm_follows (n : Nat) (v : Word) (hF : Follows keep lock r0 s) :
    Follows keep lock r0 (islConfirm n v s) := by
  unfold islConfirm
  try dsimp only
  with_reducible repeat' first
    | assumption | intro _ | apply Follows.ite | apply onIsl_follows | apply raiseIsl_follows
    | simp only [Follows.mk_iff] | apply atNow_follows | exact Nat.le_refl _ | split

theorem writeIslCtl_follows (v : Word) (hF : Follows keep lock r0 s) :
    Follows keep lock r0 (writeIslCtl v s) := by
  unfold writeIslCtl
  try dsimp only
  with_reducible repeat' first
    | assumption | apply Follows.ite | apply islEnable_follows | apply islDisable_follows
    | apply islClear_follows

theorem ampNext_follows  (hF : Follows keep lock r0 s) :
    Follows keep lock r0 (ampNext s) := by
  unfold ampNext
  try dsimp only
  with_reducible repeat' first
    | assumption | apply wrf_follows

theorem writeAmp_follows (v : Word) (hF : Follows keep lock r0 s) :
    Follows keep lock r0 (writeAmp v s) := by
  unfold writeAmp
  try dsimp only
  with_reducible repeat' first
    | assumption | intro _ | apply Follows.ite | apply ampNext_follows | apply onIsl_follows
    | simp only [Follows.mk_iff] | apply atNow_follows | exact Nat.le_refl _

theorem writeIsl_follows (off : Nat) (v : Word) (hF : Follows keep lock r0 s) :
    Follows keep lock r0 (writeIsl off v s) := by
  unfold writeIsl
  try dsimp only
  with_reducible repeat' first
    | assumption | intro _ | apply Follows.ite | apply writeIslCtl_follows | apply onIsl_follows
    | apply writeAmp_follows | apply plainWrite_follows | simp only [Follows.mk_iff] | apply atNow_follows
    | exact Nat.le_refl _ | split

theorem islOff_follows  (hF : Follows keep lock r0 s) :
    Follows keep lock r0 (islOff s) := by
  unfold islOff
  try dsimp only
  with_reducible repeat' first
    | assumption | apply Follows.ite | apply islandReport_follows | simp only [Follows.mk_iff]
    | apply atNow_follows | exact Nat.le_refl _

theorem gridCtl_follows (g : Nat) (v : Word) (hF : Follows keep lock r0 s) :
    Follows keep lock r0 (gridCtl g v s) := by
  unfold gridCtl
  try dsimp only
  with_reducible repeat' first
    | assumption | apply islPoll_follows | apply writeGridCtl_follows

theorem execLegDomainWrite_follows (m : Master) (l : Fin 96) (v : Word) (hF : Follows keep lock r0 s) :
    ∃ s1, execLegDomainWrite m l v s = .next s1 ∧ Follows keep lock r0 s1 := by
  refine ⟨_, rfl, ?_⟩
  try dsimp only
  with_reducible repeat' first
    | assumption | intro _ | apply byBus_follows | apply islRefresh_follows | apply writeLegCfg_follows

theorem execGridUpdate_follows (g : Fin 4) (hF : Follows keep lock r0 s) :
    ∃ s1, execGridUpdate g s = .next s1 ∧ Follows keep lock r0 s1 := by
  refine ⟨_, rfl, ?_⟩
  try dsimp only
  with_reducible repeat' first
    | assumption | apply Follows.ite | apply islPoll_follows | apply gridUpdate_follows
    | apply islWindow_follows | split

theorem execGridConnect_follows (m : Master) (g : Fin 4) (hF : Follows keep lock r0 s) :
    ∃ s1, execGridConnect m g s = .next s1 ∧ Follows keep lock r0 s1 := by
  refine ⟨_, rfl, ?_⟩
  try dsimp only
  with_reducible repeat' first
    | assumption | intro _ | apply byBus_follows | apply gridCtl_follows

theorem execGridDisconnect_follows (m : Master) (g : Fin 4) (hF : Follows keep lock r0 s) :
    ∃ s1, execGridDisconnect m g s = .next s1 ∧ Follows keep lock r0 s1 := by
  refine ⟨_, rfl, ?_⟩
  try dsimp only
  with_reducible repeat' first
    | assumption | intro _ | apply byBus_follows | apply gridCtl_follows

theorem execIslEnable_follows (m : Master) (hF : Follows keep lock r0 s) :
    ∃ s1, execIslEnable m s = .next s1 ∧ Follows keep lock r0 s1 := by
  refine ⟨_, rfl, ?_⟩
  try dsimp only
  with_reducible repeat' first
    | assumption | intro _ | apply byBus_follows | apply writeIslCtl_follows

theorem execIslDisable_follows (m : Master) (hF : Follows keep lock r0 s) :
    ∃ s1, execIslDisable m s = .next s1 ∧ Follows keep lock r0 s1 := by
  refine ⟨_, rfl, ?_⟩
  try dsimp only
  with_reducible repeat' first
    | assumption | intro _ | apply byBus_follows | apply writeIslCtl_follows

theorem execIslClear_follows (m : Master) (hF : Follows keep lock r0 s) :
    ∃ s1, execIslClear m s = .next s1 ∧ Follows keep lock r0 s1 := by
  refine ⟨_, rfl, ?_⟩
  try dsimp only
  with_reducible repeat' first
    | assumption | intro _ | apply byBus_follows | apply writeIslCtl_follows

theorem execCodeEpoch_follows  (hF : Follows keep lock r0 s) :
    ∃ s1, execCodeEpoch s = .next s1 ∧ Follows keep lock r0 s1 := by
  refine ⟨_, rfl, ?_⟩
  try dsimp only
  with_reducible repeat' first
    | assumption | apply Follows.ite | apply islEpoch_follows | apply upto_follows
    | split

theorem execPeriodClosed_follows  (hF : Follows keep lock r0 s) :
    ∃ s1, execPeriodClosed s = .next s1 ∧ Follows keep lock r0 s1 := by
  refine ⟨_, rfl, ?_⟩
  try dsimp only
  with_reducible repeat' first
    | assumption | intro _ | apply closePeriod_follows | apply onIsl_follows | simp only [Follows.mk_iff]
    | apply atNow_follows | exact Nat.le_refl _ | split

theorem execUnsure_follows  (hF : Follows keep lock r0 s) :
    ∃ s1, execUnsure s = .next s1 ∧ Follows keep lock r0 s1 := by
  refine ⟨_, rfl, ?_⟩
  try dsimp only
  with_reducible repeat' first
    | assumption | intro _ | apply Follows.ite | apply raiseIsl_follows | apply onIsl_follows
    | apply upto_follows | apply islDecide_follows | simp only [Follows.mk_iff] | apply atNow_follows
    | exact Nat.le_refl _ | split

theorem readDecTime_follows  (hF : Follows keep lock r0 s) :
    Follows keep lock r0 (readDecTime s) := by
  unfold readDecTime
  try dsimp only
  with_reducible repeat' first
    | assumption | apply respond_follows | apply wr_follows

theorem execAmpDataAccess_follows (m : Master) (w : Option Word) (hF : Follows keep lock r0 s) :
    ∃ s1, execAmpDataAccess m w s = .next s1 ∧ Follows keep lock r0 s1 := by
  refine ⟨_, rfl, ?_⟩
  try dsimp only
  with_reducible repeat' first
    | assumption | intro _ | apply byBus_follows | apply writeAmp_follows | apply readAt_follows
    | apply respond_follows | apply ampNext_follows | simp only [Follows.mk_iff] | apply atNow_follows
    | exact Nat.le_refl _ | split

end Sys2Proof.Machine
end

