-- ==== Sys2Proof/Laws/FollowMeters.lean ====
section
/-! SUPPORT. What the operations of Machine/Meters.lean keep (Laws/Follows.lean). -/

set_option linter.unusedTactic false
set_option linter.unreachableTactic false
set_option linter.unusedVariables false

namespace Sys2Proof.Machine

variable {keep lock : Bool} {r0 s : State}

theorem setMeter_follows (p : Nat) (x : Meter) (hF : Follows keep lock r0 s) :
    Follows keep lock r0 (setMeter p x s) := by
  unfold setMeter
  try dsimp only
  with_reducible repeat' first
    | assumption | simp only [Follows.mk_iff] | apply atNow_follows | exact Nat.le_refl _

theorem onMeter_follows (p : Nat) (f : Meter → Meter) (hF : Follows keep lock r0 s) :
    Follows keep lock r0 (onMeter p f s) := by
  unfold onMeter
  try dsimp only
  with_reducible repeat' first
    | assumption | apply setMeter_follows

theorem raiseMtr_follows (p k : Nat) (hF : Follows keep lock r0 s) :
    Follows keep lock r0 (raiseMtr p k s) := by
  unfold raiseMtr
  try dsimp only
  with_reducible repeat' first
    | assumption | apply raise_follows

theorem meterSample_follows (p : Nat) (nv : List Int) (cross : Option Nat) (hF : Follows keep lock r0 s) :
    Follows keep lock r0 (meterSample p nv cross s) := by
  unfold meterSample
  try dsimp only
  with_reducible repeat' first
    | assumption | intro _ | apply Follows.ite | apply upto_follows | apply cross_follows
    | apply setMeter_follows | simp only [Follows.mk_iff] | apply atNow_follows | exact Nat.le_refl _

theorem addEnergy_follows (p k e : Nat) (hF : Follows keep lock r0 s) :
    Follows keep lock r0 (addEnergy p k e s) := by
  unfold addEnergy
  try dsimp only
  with_reducible repeat' first
    | assumption | apply Follows.ite | apply setMeter_follows | apply raiseMtr_follows
    | apply wrb_follows | simp only [Follows.mk_iff] | apply atNow_follows | exact Nat.le_refl _

theorem takePreset_follows (p : Nat) (hF : Follows keep lock r0 s) :
    Follows keep lock r0 (takePreset p s) := by
  unfold takePreset
  try dsimp only
  with_reducible repeat' first
    | assumption | intro _ | apply onMeter_follows | apply raiseMtr_follows | apply wrb_follows
    | simp only [Follows.mk_iff] | apply atNow_follows | exact Nat.le_refl _ | split

theorem takePulses_follows (q : Nat) (k : Nat) (hF : Follows keep lock r0 s) :
    Follows keep lock r0 (takePulses q k  s) := by
  induction k generalizing s  with
  | zero => exact hF
  | succ k ih =>
  rw [takePulses]
  try dsimp only
  with_reducible repeat' first
    | assumption | apply ih | apply Follows.ite | apply setMeter_follows | apply raiseMtr_follows
    | simp only [Follows.mk_iff] | apply atNow_follows | exact Nat.le_refl _ | split

theorem feedPulses_follows (p : Nat) (es : List Nat) (hF : Follows keep lock r0 s) :
    Follows keep lock r0 (feedPulses p es s) := by
  unfold feedPulses
  try dsimp only
  with_reducible repeat' first
    | assumption | intro _ | apply Follows.ite | apply forEach_follows | apply onMeter_follows
    | apply takePulses_follows | simp only [Follows.mk_iff] | apply atNow_follows | exact Nat.le_refl _
    | split

theorem mtrChecks_follows (p : Nat) (c : MtrCyc) (hF : Follows keep lock r0 s) :
    Follows keep lock r0 (mtrChecks p c s).2.2 := by
  unfold mtrChecks
  try dsimp only
  with_reducible repeat' first
    | assumption | intro _ | apply Follows.ite | apply setMeter_follows | apply logHap_follows
    | apply raiseMtr_follows | simp only [Follows.mk_iff] | apply atNow_follows | exact Nat.le_refl _
    | split | dsimp only

theorem closeCycle_follows (p : Nat) (c : MtrCyc) (hF : Follows keep lock r0 s) :
    Follows keep lock r0 (closeCycle p c s) := by
  unfold closeCycle
  try dsimp only
  with_reducible repeat' first
    | assumption | intro _ | apply Follows.ite | apply takePreset_follows | apply forEach_follows
    | apply addEnergy_follows | apply feedPulses_follows | apply mtrChecks_follows | apply setMeter_follows
    | apply raiseMtr_follows | simp only [Follows.mk_iff] | apply atNow_follows | exact Nat.le_refl _
    | exact Nat.le_max_left _ _ | exact Nat.le_add_right _ _ | refine Follows.of_snd (by assumption) ?_
    | split | dsimp only

theorem closeAll_follows (p : Nat) (k : Nat) (hF : Follows keep lock r0 s) :
    Follows keep lock r0 (closeAll p k  s) := by
  induction k generalizing s  with
  | zero => exact hF
  | succ k ih =>
  rw [closeAll]
  try dsimp only
  with_reducible repeat' first
    | assumption | apply ih | intro _ | apply closeCycle_follows | apply onMeter_follows
    | simp only [Follows.mk_iff] | apply atNow_follows | exact Nat.le_refl _ | split

theorem mtrEnable_follows (p : Nat) (hF : Follows keep lock r0 s) :
    Follows keep lock r0 (mtrEnable p s) := by
  unfold mtrEnable
  try dsimp only
  with_reducible repeat' first
    | assumption | apply Follows.ite | apply raiseMtr_follows | apply setMeter_follows
    | apply pulse_follows | simp only [Follows.mk_iff] | apply atNow_follows | exact Nat.le_refl _
    | exact Nat.le_max_left _ _ | exact Nat.le_add_right _ _

theorem mtrDisable_follows (p : Nat) (hF : Follows keep lock r0 s) :
    Follows keep lock r0 (mtrDisable p s) := by
  unfold mtrDisable
  try dsimp only
  with_reducible repeat' first
    | assumption | intro _ | apply Follows.ite | apply reverse_follows | apply setMeter_follows
    | apply closeAll_follows | apply onMeter_follows | apply pulse_follows | simp only [Follows.mk_iff]
    | apply atNow_follows | exact Nat.le_refl _

theorem mtrPreset_follows (p : Nat) (hF : Follows keep lock r0 s) :
    Follows keep lock r0 (mtrPreset p s) := by
  unfold mtrPreset
  try dsimp only
  with_reducible repeat' first
    | assumption | intro _ | apply Follows.ite | apply onMeter_follows | apply takePreset_follows
    | simp only [Follows.mk_iff] | apply atNow_follows | exact Nat.le_refl _

theorem bookPreset_follows (m : Master) (p : Nat) (hF : Follows keep lock r0 s) :
    Follows keep lock r0 (bookPreset m p s) := by
  unfold bookPreset
  try dsimp only
  with_reducible repeat' first
    | assumption | apply bookRequested_follows

theorem writeMtrCtl_follows (m : Master) (p : Nat) (v : Word) (hF : Follows keep lock r0 s) :
    Follows keep lock r0 (writeMtrCtl m p v s) := by
  unfold writeMtrCtl
  try dsimp only
  with_reducible repeat' first
    | assumption | apply Follows.ite | apply mtrEnable_follows | apply mtrDisable_follows
    | apply deny_follows | apply raiseMtr_follows | apply mtrPreset_follows | apply bookPreset_follows
    | split

theorem writePulseCfg_follows (p : Nat) (v : Word) (hF : Follows keep lock r0 s) :
    Follows keep lock r0 (writePulseCfg p v s) := by
  unfold writePulseCfg
  try dsimp only
  with_reducible repeat' first
    | assumption | intro _ | apply Follows.ite | apply raiseMtr_follows | apply plainWrite_follows
    | apply onMeter_follows | apply pulse_follows | simp only [Follows.mk_iff] | apply atNow_follows
    | exact Nat.le_refl _ | exact Nat.le_max_left _ _ | exact Nat.le_add_right _ _ | split

theorem writeChan_follows (p off : Nat) (v : Word) (hF : Follows keep lock r0 s) :
    Follows keep lock r0 (writeChan p off v s) := by
  unfold writeChan
  try dsimp only
  with_reducible repeat' first
    | assumption | intro _ | apply Follows.ite | apply plainWrite_follows | apply onMeter_follows
    | simp only [Follows.mk_iff] | apply atNow_follows | exact Nat.le_refl _ | exact Nat.le_max_left _ _
    | exact Nat.le_add_right _ _

theorem writeMtr_follows (m : Master) (p off : Nat) (v : Word) (hF : Follows keep lock r0 s) :
    Follows keep lock r0 (writeMtr m p off v s) := by
  unfold writeMtr
  try dsimp only
  with_reducible repeat' first
    | assumption | intro _ | apply Follows.ite | apply writeMtrCtl_follows | apply onMeter_follows
    | apply writePulseCfg_follows | apply writeChan_follows | apply plainWrite_follows
    | simp only [Follows.mk_iff] | apply atNow_follows | exact Nat.le_refl _ | split

theorem metersOff_follows  (hF : Follows keep lock r0 s) :
    Follows keep lock r0 (metersOff s) := by
  unfold metersOff
  try dsimp only
  with_reducible repeat' first
    | assumption | simp only [Follows.mk_iff] | apply atNow_follows | exact Nat.le_refl _

theorem execMtrEnable_follows (m : Master) (p : Fin 4) (hF : Follows keep lock r0 s) :
    ∃ s1, execMtrEnable m p s = .next s1 ∧ Follows keep lock r0 s1 := by
  refine ⟨_, rfl, ?_⟩
  try dsimp only
  with_reducible repeat' first
    | assumption | intro _ | apply byBus_follows | apply writeMtrCtl_follows

theorem execMtrDisable_follows (m : Master) (p : Fin 4) (hF : Follows keep lock r0 s) :
    ∃ s1, execMtrDisable m p s = .next s1 ∧ Follows keep lock r0 s1 := by
  refine ⟨_, rfl, ?_⟩
  try dsimp only
  with_reducible repeat' first
    | assumption | intro _ | apply byBus_follows | apply writeMtrCtl_follows

theorem execPreset_follows (m : Master) (p : Fin 4) (hF : Follows keep lock r0 s) :
    ∃ s1, execPreset m p s = .next s1 ∧ Follows keep lock r0 s1 := by
  refine ⟨_, rfl, ?_⟩
  try dsimp only
  with_reducible repeat' first
    | assumption | intro _ | apply byBus_follows | apply writeMtrCtl_follows

theorem execMeterSample_follows (p : Fin 4) (nv : List Int) (cross : Option (BitVec 16)) (hF : Follows keep lock r0 s) :
    ∃ s1, execMeterSample p nv cross s = .next s1 ∧ Follows keep lock r0 s1 := by
  refine ⟨_, rfl, ?_⟩
  try dsimp only
  with_reducible repeat' first
    | assumption | apply Follows.ite | apply meterSample_follows | apply cross_follows
    | split

theorem execCycleClose_follows (p : Fin 4) (hF : Follows keep lock r0 s) :
    ∃ s1, execCycleClose p s = .next s1 ∧ Follows keep lock r0 s1 := by
  refine ⟨_, rfl, ?_⟩
  try dsimp only
  with_reducible repeat' first
    | assumption | apply Follows.ite | apply closeAll_follows

theorem execNosync_follows (p : Fin 4) (hF : Follows keep lock r0 s) :
    ∃ s1, execNosync p s = .next s1 ∧ Follows keep lock r0 s1 := by
  refine ⟨_, rfl, ?_⟩
  try dsimp only
  with_reducible repeat' first
    | assumption | apply Follows.ite | apply upto_follows | apply setMeter_follows
    | apply logHap_follows | apply raiseMtr_follows | simp only [Follows.mk_iff] | apply atNow_follows
    | exact Nat.le_refl _ | split

theorem execPulseStart_follows (p : Fin 4) (hF : Follows keep lock r0 s) :
    ∃ s1, execPulseStart p s = .next s1 ∧ Follows keep lock r0 s1 := by
  refine ⟨_, rfl, ?_⟩
  try dsimp only
  with_reducible repeat' first
    | assumption | apply Follows.ite | apply pulse_follows | apply upto_follows | apply setMeter_follows
    | simp only [Follows.mk_iff] | apply atNow_follows | exact Nat.le_refl _ | exact Nat.le_max_left _ _
    | exact Nat.le_add_right _ _ | split

theorem execPulseEnd_follows (p : Fin 4) (hF : Follows keep lock r0 s) :
    ∃ s1, execPulseEnd p s = .next s1 ∧ Follows keep lock r0 s1 := by
  refine ⟨_, rfl, ?_⟩
  try dsimp only
  with_reducible repeat' first
    | assumption | apply pulse_follows | apply setMeter_follows | apply upto_follows
    | simp only [Follows.mk_iff] | apply atNow_follows | exact Nat.le_refl _ | split

theorem execELoRead_follows (m : Master) (p : Fin 4) (k : Fin 7) (hF : Follows keep lock r0 s) :
    ∃ s1, execELoRead m p k s = .next s1 ∧ Follows keep lock r0 s1 := by
  refine ⟨_, rfl, ?_⟩
  try dsimp only
  with_reducible repeat' first
    | assumption | intro _ | apply readAt_follows | apply respond_follows | apply wr_follows

theorem execCycCntRead_follows (m : Master) (p : Fin 4) (hF : Follows keep lock r0 s) :
    ∃ s1, execCycCntRead m p s = .next s1 ∧ Follows keep lock r0 s1 := by
  refine ⟨_, rfl, ?_⟩
  try dsimp only
  with_reducible repeat' first
    | assumption | intro _ | apply readAt_follows | apply forEach_follows | apply wr_follows
    | apply respond_follows

end Sys2Proof.Machine
end

