-- ==== Sys2Proof/Laws/FollowStreams.lean ====
section
/-! SUPPORT. What the operations of Machine/Streams.lean keep (Laws/Follows.lean). -/

set_option linter.unusedTactic false
set_option linter.unreachableTactic false
set_option linter.unusedVariables false

namespace Sys2Proof.Machine

variable {keep lock : Bool} {r0 s : State}

theorem setStream_follows (n : Nat) (x : RStream) (hF : Follows keep lock r0 s) :
    Follows keep lock r0 (setStream n x s) := by
  unfold setStream
  try dsimp only
  with_reducible repeat' first
    | assumption | simp only [Follows.mk_iff] | apply atNow_follows | exact Nat.le_refl _

theorem onStream_follows (n : Nat) (f : RStream → RStream) (hF : Follows keep lock r0 s) :
    Follows keep lock r0 (onStream n f s) := by
  unfold onStream
  try dsimp only
  with_reducible repeat' first
    | assumption | apply setStream_follows

theorem queueCtl_follows (r : Nat) (e : CtlEnt) (hF : Follows keep lock r0 s) :
    Follows keep lock r0 (queueCtl r e s) := by
  unfold queueCtl
  try dsimp only
  with_reducible repeat' first
    | assumption | intro _ | apply onLink_follows | simp only [Follows.mk_iff] | apply atNow_follows
    | exact Nat.le_refl _

theorem answer_follows (n kind seq : Nat) (hF : Follows keep lock r0 s) :
    Follows keep lock r0 (answer n kind seq s) := by
  unfold answer
  try dsimp only
  with_reducible repeat' first
    | assumption | apply queueCtl_follows | simp only [Follows.mk_iff] | apply atNow_follows
    | exact Nat.le_refl _

theorem dropOpens_follows (n : Nat) (hF : Follows keep lock r0 s) :
    Follows keep lock r0 (dropOpens n s) := by
  unfold dropOpens
  try dsimp only
  with_reducible repeat' first
    | assumption | intro _ | apply forEach_follows | apply onLink_follows | simp only [Follows.mk_iff]
    | apply atNow_follows | exact Nat.le_refl _

theorem sendOpen_follows (n : Nat) (hF : Follows keep lock r0 s) :
    Follows keep lock r0 (sendOpen n s) := by
  unfold sendOpen
  try dsimp only
  with_reducible repeat' first
    | assumption | intro _ | apply Follows.ite | apply dropOpens_follows | apply onStream_follows
    | apply queueCtl_follows | simp only [Follows.mk_iff] | apply atNow_follows | exact Nat.le_refl _
    | exact Nat.le_max_left _ _ | exact Nat.le_add_right _ _

theorem openStream_follows (n : Nat) (hF : Follows keep lock r0 s) :
    Follows keep lock r0 (openStream n s) := by
  unfold openStream
  try dsimp only
  with_reducible repeat' first
    | assumption | intro _ | apply Follows.ite | apply onStream_follows | apply sendOpen_follows
    | simp only [Follows.mk_iff] | apply atNow_follows | exact Nat.le_refl _

theorem reopenStream_follows (n : Nat) (hF : Follows keep lock r0 s) :
    Follows keep lock r0 (reopenStream n s) := by
  unfold reopenStream
  try dsimp only
  with_reducible repeat' first
    | assumption | intro _ | apply Follows.ite | apply openStream_follows | apply onStream_follows
    | simp only [Follows.mk_iff] | apply atNow_follows | exact Nat.le_refl _

theorem breakOne_follows (n cause : Nat) (hF : Follows keep lock r0 s) :
    Follows keep lock r0 (breakOne n cause s) := by
  unfold breakOne
  try dsimp only
  with_reducible repeat' first
    | assumption | intro _ | apply Follows.ite | apply dropOpens_follows | apply onStream_follows
    | apply logHap_follows | apply raiseRing_follows | apply answer_follows | apply reopenStream_follows
    | simp only [Follows.mk_iff] | apply atNow_follows | exact Nat.le_refl _

theorem breakStream_follows (n cause : Nat) (hF : Follows keep lock r0 s) :
    Follows keep lock r0 (breakStream n cause s) := by
  unfold breakStream
  try dsimp only
  with_reducible repeat' first
    | assumption | apply Follows.ite | apply breakOne_follows | simp only [Follows.mk_iff]
    | apply atNow_follows | exact Nat.le_refl _ | split

theorem streamPut_follows (n : Nat) (payload : List Byte) (hF : Follows false lock r0 s) :
    Follows false lock r0 (streamPut n payload s).2 := by
  unfold streamPut
  try dsimp only
  with_reducible repeat' first
    | assumption | intro _ | apply Follows.ite | apply memWr_follows | apply memWrBytes_follows
    | apply onStream_follows | simp only [Follows.mk_iff] | apply atNow_follows | exact Nat.le_refl _
    | split | dsimp only

theorem streamTake_follows (n : Nat) (hF : Follows keep lock r0 s) :
    Follows keep lock r0 (streamTake n s).2 := by
  unfold streamTake
  try dsimp only
  with_reducible repeat' first
    | assumption | intro _ | apply Follows.ite | apply onStream_follows | simp only [Follows.mk_iff]
    | apply atNow_follows | exact Nat.le_refl _ | split | dsimp only

theorem gatewayPut_follows (q : Nat) (payload : List Byte) (flags : Byte) (hF : Follows false lock r0 s) :
    Follows false lock r0 (gatewayPut q payload flags s) := by
  unfold gatewayPut
  try dsimp only
  with_reducible repeat' first
    | assumption | intro _ | apply Follows.ite | apply streamPut_follows | apply memWr_follows
    | simp only [Follows.mk_iff] | apply atNow_follows | exact Nat.le_refl _ | exact Nat.le_max_left _ _
    | exact Nat.le_add_right _ _ | refine Follows.of_snd (by assumption) ?_ | refine Follows.of_fst (by assumption) ?_
    | simp only [id_eq] | split | dsimp only

theorem cross_follows (n q : Nat) (k : Nat) (hF : Follows false lock r0 s) :
    Follows false lock r0 (cross n q k  s) := by
  induction k generalizing s  with
  | zero => exact hF
  | succ k ih =>
  rw [cross]
  try dsimp only
  with_reducible repeat' first
    | assumption | apply ih | apply Follows.ite | apply streamTake_follows | apply gatewayPut_follows
    | simp only [Follows.mk_iff] | apply atNow_follows | exact Nat.le_refl _ | refine Follows.of_snd (by assumption) ?_
    | split | dsimp only

theorem gatewayCross_follows (n : Nat) (hF : Follows false lock r0 s) :
    Follows false lock r0 (gatewayCross n s) := by
  unfold gatewayCross
  try dsimp only
  with_reducible repeat' first
    | assumption | apply Follows.ite | apply cross_follows | simp only [Follows.mk_iff]
    | apply atNow_follows | exact Nat.le_refl _ | split

theorem fillSlot_follows (a : Nat) (c : List Byte) (r soc : Nat) (hF : Follows false lock r0 s) :
    Follows false lock r0 (fillSlot a c r soc s) := by
  unfold fillSlot
  try dsimp only
  with_reducible repeat' first
    | assumption | apply Follows.ite | apply memWrBytes_follows

theorem deliverHeld_follows (n : Nat) (k : Nat) (hF : Follows keep lock r0 s) :
    Follows keep lock r0 (deliverHeld n k  s) := by
  induction k generalizing s  with
  | zero => exact hF
  | succ k ih =>
  rw [deliverHeld]
  try dsimp only
  with_reducible repeat' first
    | assumption | apply ih | intro _ | apply Follows.ite | apply onStream_follows
    | simp only [Follows.mk_iff] | apply atNow_follows | exact Nat.le_refl _ | split

theorem sendNak_follows (n : Nat) (hF : Follows keep lock r0 s) :
    Follows keep lock r0 (sendNak n s) := by
  unfold sendNak
  try dsimp only
  with_reducible repeat' first
    | assumption | intro _ | apply Follows.ite | apply answer_follows | apply onStream_follows
    | simp only [Follows.mk_iff] | apply atNow_follows | exact Nat.le_refl _ | exact Nat.le_max_left _ _
    | exact Nat.le_add_right _ _ | split

theorem afterDelivery_follows (n : Nat) (hF : Follows keep lock r0 s) :
    Follows keep lock r0 (afterDelivery n s) := by
  unfold afterDelivery
  try dsimp only
  with_reducible repeat' first
    | assumption | intro _ | apply Follows.ite | apply onStream_follows | apply sendNak_follows
    | apply answer_follows | simp only [Follows.mk_iff] | apply atNow_follows | exact Nat.le_refl _
    | exact Nat.le_max_left _ _ | exact Nat.le_add_right _ _

theorem bufFull_follows (n : Nat) (hF : Follows keep lock r0 s) :
    Follows keep lock r0 (bufFull n s) := by
  unfold bufFull
  try dsimp only
  with_reducible repeat' first
    | assumption | intro _ | apply Follows.ite | apply onStream_follows | apply raiseRing_follows
    | simp only [Follows.mk_iff] | apply atNow_follows | exact Nat.le_refl _ | exact Nat.le_max_left _ _
    | exact Nat.le_add_right _ _

theorem takeData_follows (n : Nat) (c : List Byte) (r soc : Nat) (hF : Follows false lock r0 s) :
    Follows false lock r0 (takeData n c r soc s) := by
  unfold takeData
  try dsimp only
  with_reducible repeat' first
    | assumption | intro _ | apply Follows.ite | apply countRing_follows | apply onStream_follows
    | apply bufFull_follows | apply fillSlot_follows | apply gatewayCross_follows | apply afterDelivery_follows
    | apply deliverHeld_follows | apply sendNak_follows | apply answer_follows | simp only [Follows.mk_iff]
    | apply atNow_follows | exact Nat.le_refl _ | exact Nat.le_max_left _ _ | exact Nat.le_add_right _ _
    | split

theorem freeCells_follows (n k : Nat) (hF : Follows keep lock r0 s) :
    Follows keep lock r0 (freeCells n k s) := by
  unfold freeCells
  try dsimp only
  with_reducible repeat' first
    | assumption | intro _ | apply Follows.ite | apply onStream_follows | simp only [Follows.mk_iff]
    | apply atNow_follows | exact Nat.le_refl _

theorem resend_follows (n k : Nat) (hF : Follows keep lock r0 s) :
    Follows keep lock r0 (resend n k s) := by
  unfold resend
  try dsimp only
  with_reducible repeat' first
    | assumption | intro _ | apply Follows.ite | apply breakStream_follows | apply onStream_follows
    | simp only [Follows.mk_iff] | apply atNow_follows | exact Nat.le_refl _

theorem refill_follows (n : Nat) (hF : Follows false lock r0 s) :
    Follows false lock r0 (refill n s) := by
  unfold refill
  try dsimp only
  with_reducible repeat' first
    | assumption | apply gatewayCross_follows | simp only [Follows.mk_iff] | apply atNow_follows
    | exact Nat.le_refl _ | split

theorem takeEntry_follows (src e : Nat) (hF : Follows false lock r0 s) :
    Follows false lock r0 (takeEntry src e s) := by
  unfold takeEntry
  try dsimp only
  with_reducible repeat' first
    | assumption | intro _ | apply Follows.ite | apply refill_follows | apply freeCells_follows
    | apply resend_follows | apply dropOpens_follows | apply onStream_follows | apply breakStream_follows
    | simp only [Follows.mk_iff] | apply atNow_follows | exact Nat.le_refl _ | split

theorem takeEntries_follows (src : Nat) (k : Nat) (xs0 : List Byte) (hF : Follows false lock r0 s) :
    Follows false lock r0 (takeEntries src k xs0 s) := by
  induction k generalizing s xs0 with
  | zero => exact hF
  | succ k ih =>
  rw [takeEntries]
  try dsimp only
  with_reducible repeat' first
    | assumption | apply ih | apply Follows.ite | apply takeEntry_follows | split

theorem takeOpen_follows (c : List Byte) (r : Nat) (hF : Follows keep lock r0 s) :
    Follows keep lock r0 (takeOpen c r s) := by
  unfold takeOpen
  try dsimp only
  with_reducible repeat' first
    | assumption | intro _ | apply Follows.ite | apply countRing_follows | apply onStream_follows
    | apply answer_follows | simp only [Follows.mk_iff] | apply atNow_follows | exact Nat.le_refl _
    | split

theorem dropSent_follows (n : Nat) (hF : Follows keep lock r0 s) :
    Follows keep lock r0 (dropSent n s) := by
  unfold dropSent
  try dsimp only
  with_reducible repeat' first
    | assumption | intro _ | apply Follows.ite | apply freeCells_follows

theorem moveCells_follows (r : Nat) (hF : Follows false lock r0 s) :
    Follows false lock r0 (moveCells r s) := by
  unfold moveCells
  try dsimp only
  with_reducible repeat' first
    | assumption | intro _ | apply Follows.ite | apply forEach_follows | apply refill_follows
    | apply dropSent_follows | apply onStream_follows | simp only [Follows.mk_iff] | apply atNow_follows
    | exact Nat.le_refl _ | exact Nat.le_max_left _ _ | exact Nat.le_add_right _ _ | refine Follows.of_snd (by assumption) ?_
    | refine Follows.of_fst (by assumption) ?_ | simp only [id_eq] | split | dsimp only

theorem sendCell_follows (n r i : Nat) (hF : Follows false lock r0 s) :
    Follows false lock r0 (sendCell n r i s) := by
  unfold sendCell
  try dsimp only
  with_reducible repeat' first
    | assumption | intro _ | apply Follows.ite | apply draw_follows | apply sendLocal_follows
    | apply onStream_follows | apply onLink_follows | apply dropSent_follows | apply refill_follows
    | apply raiseRing_follows | simp only [Follows.mk_iff] | apply atNow_follows | exact Nat.le_refl _
    | refine Follows.of_snd (by assumption) ?_ | split | dsimp only

theorem sendCtl_follows (r : Nat) (hF : Follows keep lock r0 s) :
    Follows keep lock r0 (sendCtl r s) := by
  unfold sendCtl
  try dsimp only
  with_reducible repeat' first
    | assumption | intro _ | apply Follows.ite | apply sendLocal_follows | apply onLink_follows
    | simp only [Follows.mk_iff] | apply atNow_follows | exact Nat.le_refl _ | refine Follows.of_snd (by assumption) ?_
    | split | dsimp only

end Sys2Proof.Machine
end

