-- ==== Sys2Proof/Laws/FollowRings.lean ====
section
/-! SUPPORT. What the operations of Machine/Rings.lean keep (Laws/Follows.lean). -/

set_option linter.unusedTactic false
set_option linter.unreachableTactic false
set_option linter.unusedVariables false

namespace Sys2Proof.Machine

variable {keep lock : Bool} {r0 s : State}

theorem breakSide_follows (r : Nat) (hF : Follows keep lock r0 s) :
    Follows keep lock r0 (breakSide r s) := by
  unfold breakSide
  try dsimp only
  with_reducible repeat' first
    | assumption | apply Follows.ite | simp only [Follows.mk_iff] | apply atNow_follows
    | exact Nat.le_refl _

theorem wrapRing_follows (r : Nat) (hF : Follows keep lock r0 s) :
    Follows keep lock r0 (wrapRing r s) := by
  unfold wrapRing
  try dsimp only
  with_reducible repeat' first
    | assumption | intro _ | apply Follows.ite | apply onLink_follows | apply logHap_follows
    | apply raiseRing_follows | apply countRing_follows | apply breakSide_follows | simp only [Follows.mk_iff]
    | apply atNow_follows | exact Nat.le_refl _ | split

theorem linkDown_follows (r : Nat) (hF : Follows keep lock r0 s) :
    Follows keep lock r0 (linkDown r s) := by
  unfold linkDown
  try dsimp only
  with_reducible repeat' first
    | assumption | intro _ | apply Follows.ite | apply wrapRing_follows | apply onLink_follows
    | apply raiseRing_follows | apply countRing_follows | apply breakSide_follows | simp only [Follows.mk_iff]
    | apply atNow_follows | exact Nat.le_refl _

theorem forwardAt_follows (r soc : Nat) (hF : Follows keep lock r0 s) :
    Follows keep lock r0 (forwardAt r soc s).2 := by
  unfold forwardAt
  try dsimp only
  with_reducible repeat' first
    | assumption | intro _ | apply Follows.ite | apply countRing_follows | apply incMod_follows
    | apply onLink_follows | simp only [Follows.mk_iff] | apply atNow_follows | exact Nat.le_refl _
    | exact Nat.le_max_left _ _ | exact Nat.le_add_right _ _ | refine Follows.of_snd (by assumption) ?_
    | refine Follows.of_fst (by assumption) ?_ | simp only [id_eq] | split | dsimp only

theorem probeReturn_follows (h : List Byte) (hF : Follows keep lock r0 s) :
    Follows keep lock r0 (probeReturn h s) := by
  unfold probeReturn
  try dsimp only
  with_reducible repeat' first
    | assumption | intro _ | apply Follows.ite | apply raiseRing_follows | apply onLink_follows
    | simp only [Follows.mk_iff] | apply atNow_follows | exact Nat.le_refl _ | split

theorem takeHeader_follows (r : Nat) (h : List Byte) (hF : Follows keep lock r0 s) :
    Follows keep lock r0 (takeHeader r h s) := by
  unfold takeHeader
  try dsimp only
  with_reducible repeat' first
    | assumption | intro _ | apply Follows.ite | apply onLink_follows | apply countRing_follows
    | apply forwardAt_follows | apply probeReturn_follows | simp only [Follows.mk_iff]
    | apply atNow_follows | exact Nat.le_refl _ | refine Follows.of_snd (by assumption) ?_
    | split | dsimp only

theorem execCellHeader_follows (r : Fin 2) (hdr : List Byte) (hF : Follows keep lock r0 s) :
    ∃ s1, execCellHeader r hdr s = .next s1 ∧ Follows keep lock r0 s1 := by
  refine ⟨_, rfl, ?_⟩
  try dsimp only
  with_reducible repeat' first
    | assumption | apply Follows.ite | apply takeHeader_follows | apply countRing_follows
    | split

theorem takeCell_follows (r : Nat) (x : RxCell) (c : List Byte) (hF : Follows false lock r0 s) :
    Follows false lock r0 (takeCell r x c s) := by
  unfold takeCell
  try dsimp only
  with_reducible repeat' first
    | assumption | apply incMod_follows | apply takeData_follows | apply takeEntries_follows
    | apply takeOpen_follows | simp only [Follows.mk_iff] | apply atNow_follows | exact Nat.le_refl _
    | split

theorem takeDatum_follows (r : Nat) (x : RxCell) (c : List Byte) (bad : Bool) (hF : Follows keep lock r0 s) :
    Follows keep lock r0 (takeDatum r x c bad s) := by
  unfold takeDatum
  try dsimp only
  with_reducible repeat' first
    | assumption | simp only [Follows.mk_iff] | apply atNow_follows | exact Nat.le_refl _

theorem codeErrors_follows (r n : Nat) (hF : Follows keep lock r0 s) :
    Follows keep lock r0 (codeErrors r n s) := by
  unfold codeErrors
  try dsimp only
  with_reducible repeat' first
    | assumption | intro _ | apply Follows.ite | apply onLink_follows | apply wrf_follows
    | simp only [Follows.mk_iff] | apply atNow_follows | exact Nat.le_refl _ | exact Nat.le_max_left _ _
    | exact Nat.le_add_right _ _

theorem execCellEnd_follows (r : Fin 2) (body : List Byte) (errs : Nat) (bad : Bool) (hF : Follows false lock r0 s) :
    ∃ s1, execCellEnd r body errs bad s = .next s1 ∧ Follows false lock r0 s1 := by
  refine ⟨_, rfl, ?_⟩
  try dsimp only
  with_reducible repeat' first
    | assumption | intro _ | apply Follows.ite | apply codeErrors_follows | apply onLink_follows
    | apply countRing_follows | apply incMod_follows | apply takeDatum_follows | apply takeCell_follows
    | simp only [Follows.mk_iff] | apply atNow_follows | exact Nat.le_refl _ | split

theorem execCellSend_follows (r : Fin 2) (hF : Follows false lock r0 s) :
    ∃ s1, execCellSend r s = .next s1 ∧ Follows false lock r0 s1 := by
  refine ⟨_, rfl, ?_⟩
  try dsimp only
  with_reducible repeat' first
    | assumption | intro _ | apply Follows.ite | apply upto_follows | apply sendLocal_follows
    | apply onLink_follows | apply sendCtl_follows | apply sendCell_follows | simp only [Follows.mk_iff]
    | apply atNow_follows | exact Nat.le_refl _ | refine Follows.of_snd (by assumption) ?_
    | split | dsimp only

theorem execSyncGained_follows (r : Fin 2) (hF : Follows keep lock r0 s) :
    ∃ s1, execSyncGained r s = .next s1 ∧ Follows keep lock r0 s1 := by
  refine ⟨_, rfl, ?_⟩
  try dsimp only
  with_reducible repeat' first
    | assumption | intro _ | apply Follows.ite | apply onLink_follows | simp only [Follows.mk_iff]
    | apply atNow_follows | exact Nat.le_refl _ | exact Nat.le_max_left _ _ | exact Nat.le_add_right _ _
    | split

theorem cutCell_follows (r : Nat) (hF : Follows keep lock r0 s) :
    Follows keep lock r0 (cutCell r s) := by
  unfold cutCell
  try dsimp only
  with_reducible repeat' first
    | assumption | intro _ | apply Follows.ite | apply countRing_follows | apply onLink_follows
    | simp only [Follows.mk_iff] | apply atNow_follows | exact Nat.le_refl _ | split

theorem execSyncLost_follows (r : Fin 2) (errs : Nat) (hF : Follows keep lock r0 s) :
    ∃ s1, execSyncLost r errs s = .next s1 ∧ Follows keep lock r0 s1 := by
  refine ⟨_, rfl, ?_⟩
  try dsimp only
  with_reducible repeat' first
    | assumption | intro _ | apply Follows.ite | apply cutCell_follows | apply codeErrors_follows
    | apply onLink_follows | simp only [Follows.mk_iff] | apply atNow_follows | exact Nat.le_refl _
    | exact Nat.le_max_left _ _ | exact Nat.le_add_right _ _ | split

theorem execLinkDown_follows (r : Fin 2) (c : DownCause) (hF : Follows keep lock r0 s) :
    ∃ s1, execLinkDown r c s = .next s1 ∧ Follows keep lock r0 s1 := by
  refine ⟨_, rfl, ?_⟩
  try dsimp only
  with_reducible repeat' first
    | assumption | apply Follows.ite | apply linkDown_follows | apply upto_follows
    | apply codeErrors_follows | simp only [Follows.mk_iff] | apply atNow_follows | exact Nat.le_refl _
    | split

theorem execLinkUp_follows (r : Fin 2) (hF : Follows keep lock r0 s) :
    ∃ s1, execLinkUp r s = .next s1 ∧ Follows keep lock r0 s1 := by
  refine ⟨_, rfl, ?_⟩
  try dsimp only
  with_reducible repeat' first
    | assumption | intro _ | apply Follows.ite | apply upto_follows | apply raiseRing_follows
    | apply onLink_follows | simp only [Follows.mk_iff] | apply atNow_follows | exact Nat.le_refl _
    | split

theorem execUnwrap_follows (r : Fin 2) (hF : Follows keep lock r0 s) :
    ∃ s1, execUnwrap r s = .next s1 ∧ Follows keep lock r0 s1 := by
  refine ⟨_, rfl, ?_⟩
  try dsimp only
  with_reducible repeat' first
    | assumption | intro _ | apply Follows.ite | apply upto_follows | apply raiseRing_follows
    | apply breakSide_follows | apply onLink_follows | simp only [Follows.mk_iff] | apply atNow_follows
    | exact Nat.le_refl _ | split

theorem execRfaultReceived_follows (r : Fin 2) (on : Bool) (hF : Follows keep lock r0 s) :
    ∃ s1, execRfaultReceived r on s = .next s1 ∧ Follows keep lock r0 s1 := by
  refine ⟨_, rfl, ?_⟩
  try dsimp only
  with_reducible repeat' first
    | assumption | intro _ | apply Follows.ite | apply onLink_follows | simp only [Follows.mk_iff]
    | apply atNow_follows | exact Nat.le_refl _ | exact Nat.le_max_left _ _ | exact Nat.le_add_right _ _
    | split

theorem leaveRing_follows (r : Nat) (hF : Follows keep lock r0 s) :
    Follows keep lock r0 (leaveRing r s) := by
  unfold leaveRing
  try dsimp only
  with_reducible repeat' first
    | assumption | intro _ | apply Follows.ite | apply onLink_follows | simp only [Follows.mk_iff]
    | apply atNow_follows | exact Nat.le_refl _

theorem execFordSwitch_follows (r : Fin 2) (hF : Follows false lock r0 s) :
    ∃ s1, execFordSwitch r s = .next s1 ∧ Follows false lock r0 s1 := by
  refine ⟨_, rfl, ?_⟩
  try dsimp only
  with_reducible repeat' first
    | assumption | intro _ | apply Follows.ite | apply upto_follows | apply onLink_follows
    | apply moveCells_follows | simp only [Follows.mk_iff] | apply atNow_follows | exact Nat.le_refl _
    | exact Nat.le_max_left _ _ | exact Nat.le_add_right _ _ | refine Follows.of_snd (by assumption) ?_
    | refine Follows.of_fst (by assumption) ?_ | simp only [id_eq] | split | dsimp only

theorem writeRingCtl_follows (r : Nat) (v : Word) (hF : Follows keep lock r0 s) :
    Follows keep lock r0 (writeRingCtl r v s) := by
  unfold writeRingCtl
  try dsimp only
  with_reducible repeat' first
    | assumption | intro _ | apply Follows.ite | apply raiseRing_follows | apply onLink_follows
    | apply leaveRing_follows | simp only [Follows.mk_iff] | apply atNow_follows | exact Nat.le_refl _
    | split

theorem execProbeFail_follows (r : Fin 2) (hF : Follows keep lock r0 s) :
    ∃ s1, execProbeFail r s = .next s1 ∧ Follows keep lock r0 s1 := by
  refine ⟨_, rfl, ?_⟩
  try dsimp only
  with_reducible repeat' first
    | assumption | apply Follows.ite | apply leaveRing_follows | apply upto_follows
    | apply raiseRing_follows | apply wrb_follows | simp only [Follows.mk_iff] | apply atNow_follows
    | exact Nat.le_refl _ | split

theorem sfpStore_follows (r off : Nat) (bs : List Byte) (hF : Follows false lock r0 s) :
    Follows false lock r0 (sfpStore r off bs s) := by
  unfold sfpStore
  try dsimp only
  with_reducible repeat' first
    | assumption | apply memWrBytes_follows

theorem sfpPresence_follows (r : Nat) (ans : SfpAnswer) (hF : Follows false lock r0 s) :
    Follows false lock r0 (sfpPresence r ans s) := by
  unfold sfpPresence
  try dsimp only
  with_reducible repeat' first
    | assumption | apply sfpStore_follows | apply wrb_follows | apply raiseRing_follows
    | apply wr_follows | simp only [Follows.mk_iff] | apply atNow_follows | exact Nat.le_refl _
    | split

theorem execSfpPresencePoll_follows (r : Fin 2) (ans : SfpAnswer) (hF : Follows false lock r0 s) :
    ∃ s1, execSfpPresencePoll r ans s = .next s1 ∧ Follows false lock r0 s1 := by
  refine ⟨_, rfl, ?_⟩
  try dsimp only
  with_reducible repeat' first
    | assumption | intro _ | apply Follows.ite | apply upto_follows | apply sfpPresence_follows
    | apply onLink_follows | simp only [Follows.mk_iff] | apply atNow_follows | exact Nat.le_refl _

theorem execSfpDdmPoll_follows (r : Fin 2) (ans : SfpAnswer) (hF : Follows false lock r0 s) :
    ∃ s1, execSfpDdmPoll r ans s = .next s1 ∧ Follows false lock r0 s1 := by
  refine ⟨_, rfl, ?_⟩
  try dsimp only
  with_reducible repeat' first
    | assumption | intro _ | apply Follows.ite | apply upto_follows | apply onLink_follows
    | apply sfpStore_follows | apply wr_follows | apply wrb_follows | apply raiseRing_follows
    | simp only [Follows.mk_iff] | apply atNow_follows | exact Nat.le_refl _ | split

theorem execRescan_follows (m : Master) (r : Fin 2) (ans : SfpAnswer) (hF : Follows false lock r0 s) :
    ∃ s1, execRescan m r ans s = .next s1 ∧ Follows false lock r0 s1 := by
  refine ⟨_, rfl, ?_⟩
  try dsimp only
  with_reducible repeat' first
    | assumption | intro _ | apply byBus_follows | apply sfpPresence_follows

theorem execSfpDataRead_follows (m : Master) (r : Fin 2) (hF : Follows keep lock r0 s) :
    ∃ s1, execSfpDataRead m r s = .next s1 ∧ Follows keep lock r0 s1 := by
  refine ⟨_, rfl, ?_⟩
  try dsimp only
  with_reducible repeat' first
    | assumption | intro _ | apply readAt_follows | apply respond_follows | apply wrf_follows

theorem closeStream_follows (n : Nat) (hF : Follows keep lock r0 s) :
    Follows keep lock r0 (closeStream n s) := by
  unfold closeStream
  try dsimp only
  with_reducible repeat' first
    | assumption | intro _ | apply dropOpens_follows | apply onStream_follows | simp only [Follows.mk_iff]
    | apply atNow_follows | exact Nat.le_refl _

theorem writeStrCtl_follows (v : Word) (hF : Follows keep lock r0 s) :
    Follows keep lock r0 (writeStrCtl v s) := by
  unfold writeStrCtl
  try dsimp only
  with_reducible repeat' first
    | assumption | apply Follows.ite | apply raiseRing_follows | apply openStream_follows
    | apply closeStream_follows | apply reopenStream_follows | split

theorem writePut_follows (v : Nat) (hF : Follows keep lock r0 s) :
    Follows keep lock r0 (writePut v s) := by
  unfold writePut
  try dsimp only
  with_reducible repeat' first
    | assumption | intro _ | apply Follows.ite | apply onStream_follows | simp only [Follows.mk_iff]
    | apply atNow_follows | exact Nat.le_refl _ | split

theorem writeGet_follows (v : Nat) (hF : Follows keep lock r0 s) :
    Follows keep lock r0 (writeGet v s) := by
  unfold writeGet
  try dsimp only
  with_reducible repeat' first
    | assumption | intro _ | apply Follows.ite | apply onStream_follows | simp only [Follows.mk_iff]
    | apply atNow_follows | exact Nat.le_refl _ | split

theorem execStrOpen_follows (m : Master) (hF : Follows keep lock r0 s) :
    ∃ s1, execStrOpen m s = .next s1 ∧ Follows keep lock r0 s1 := by
  refine ⟨_, rfl, ?_⟩
  try dsimp only
  with_reducible repeat' first
    | assumption | intro _ | apply byBus_follows | apply writeStrCtl_follows

theorem execStrClose_follows (m : Master) (hF : Follows keep lock r0 s) :
    ∃ s1, execStrClose m s = .next s1 ∧ Follows keep lock r0 s1 := by
  refine ⟨_, rfl, ?_⟩
  try dsimp only
  with_reducible repeat' first
    | assumption | intro _ | apply byBus_follows | apply writeStrCtl_follows

theorem execStrReopen_follows (m : Master) (hF : Follows keep lock r0 s) :
    ∃ s1, execStrReopen m s = .next s1 ∧ Follows keep lock r0 s1 := by
  refine ⟨_, rfl, ?_⟩
  try dsimp only
  with_reducible repeat' first
    | assumption | intro _ | apply byBus_follows | apply writeStrCtl_follows

theorem execPut_follows (m : Master) (v : BitVec 8) (hF : Follows keep lock r0 s) :
    ∃ s1, execPut m v s = .next s1 ∧ Follows keep lock r0 s1 := by
  refine ⟨_, rfl, ?_⟩
  try dsimp only
  with_reducible repeat' first
    | assumption | intro _ | apply byBus_follows | apply writePut_follows

theorem execGet_follows (m : Master) (v : BitVec 8) (hF : Follows keep lock r0 s) :
    ∃ s1, execGet m v s = .next s1 ∧ Follows keep lock r0 s1 := by
  refine ⟨_, rfl, ?_⟩
  try dsimp only
  with_reducible repeat' first
    | assumption | intro _ | apply byBus_follows | apply writeGet_follows

theorem execRmemDataAccess_follows (m : Master) (w : Option Word) (hF : Follows false lock r0 s) :
    ∃ s1, execRmemDataAccess m w s = .next s1 ∧ Follows false lock r0 s1 := by
  refine ⟨_, rfl, ?_⟩
  try dsimp only
  with_reducible repeat' first
    | assumption | intro _ | apply wrf_follows | apply byBus_follows | apply memWrWord_follows
    | apply readAt_follows | apply respond_follows | simp only [Follows.mk_iff] | apply atNow_follows
    | exact Nat.le_refl _ | split

theorem execJoin_follows (m : Master) (r : Fin 2) (hF : Follows keep lock r0 s) :
    ∃ s1, execJoin m r s = .next s1 ∧ Follows keep lock r0 s1 := by
  refine ⟨_, rfl, ?_⟩
  try dsimp only
  with_reducible repeat' first
    | assumption | intro _ | apply byBus_follows | apply writeRingCtl_follows

theorem execLeave_follows (m : Master) (r : Fin 2) (hF : Follows keep lock r0 s) :
    ∃ s1, execLeave m r s = .next s1 ∧ Follows keep lock r0 s1 := by
  refine ⟨_, rfl, ?_⟩
  try dsimp only
  with_reducible repeat' first
    | assumption | intro _ | apply byBus_follows | apply writeRingCtl_follows

theorem execUnwrapNow_follows (m : Master) (r : Fin 2) (hF : Follows keep lock r0 s) :
    ∃ s1, execUnwrapNow m r s = .next s1 ∧ Follows keep lock r0 s1 := by
  refine ⟨_, rfl, ?_⟩
  try dsimp only
  with_reducible repeat' first
    | assumption | intro _ | apply byBus_follows | apply writeRingCtl_follows

theorem execAckTimer_follows (n : Fin 1024) (hF : Follows keep lock r0 s) :
    ∃ s1, execAckTimer n s = .next s1 ∧ Follows keep lock r0 s1 := by
  refine ⟨_, rfl, ?_⟩
  try dsimp only
  with_reducible repeat' first
    | assumption | intro _ | apply Follows.ite | apply onStream_follows | apply upto_follows
    | apply answer_follows | simp only [Follows.mk_iff] | apply atNow_follows | exact Nat.le_refl _
    | split

theorem execGapTmo_follows (n : Fin 1024) (hF : Follows keep lock r0 s) :
    ∃ s1, execGapTmo n s = .next s1 ∧ Follows keep lock r0 s1 := by
  refine ⟨_, rfl, ?_⟩
  try dsimp only
  with_reducible repeat' first
    | assumption | apply Follows.ite | apply breakStream_follows | apply upto_follows
    | simp only [Follows.mk_iff] | apply atNow_follows | exact Nat.le_refl _ | split

theorem execBufFullTimeout_follows (n : Fin 1024) (hF : Follows keep lock r0 s) :
    ∃ s1, execBufFullTimeout n s = .next s1 ∧ Follows keep lock r0 s1 := by
  refine ⟨_, rfl, ?_⟩
  try dsimp only
  with_reducible repeat' first
    | assumption | apply Follows.ite | apply breakStream_follows | apply upto_follows
    | simp only [Follows.mk_iff] | apply atNow_follows | exact Nat.le_refl _ | split

theorem execRetransmit_follows (n : Fin 1024) (hF : Follows keep lock r0 s) :
    ∃ s1, execRetransmit n s = .next s1 ∧ Follows keep lock r0 s1 := by
  refine ⟨_, rfl, ?_⟩
  try dsimp only
  with_reducible repeat' first
    | assumption | apply Follows.ite | apply resend_follows | apply upto_follows
    | simp only [Follows.mk_iff] | apply atNow_follows | exact Nat.le_refl _ | split

theorem execOpenResend_follows (n : Fin 1024) (hF : Follows keep lock r0 s) :
    ∃ s1, execOpenResend n s = .next s1 ∧ Follows keep lock r0 s1 := by
  refine ⟨_, rfl, ?_⟩
  try dsimp only
  with_reducible repeat' first
    | assumption | apply Follows.ite | apply sendOpen_follows | apply upto_follows
    | split

theorem sfpTx_follows (r : Nat) (v : Word) (hF : Follows false lock r0 s) :
    Follows false lock r0 (sfpTx r v s) := by
  unfold sfpTx
  try dsimp only
  with_reducible repeat' first
    | assumption | apply sfpStore_follows

theorem writeRing_follows (r off : Nat) (v : Word) (hF : Follows false lock r0 s) :
    Follows false lock r0 (writeRing r off v s) := by
  unfold writeRing
  try dsimp only
  with_reducible repeat' first
    | assumption | intro _ | apply Follows.ite | apply writeRingCtl_follows | apply plainWrite_follows
    | apply sfpTx_follows | apply onLink_follows | apply onStream_follows | apply writePut_follows
    | apply writeGet_follows | apply writeStrCtl_follows | simp only [Follows.mk_iff] | apply atNow_follows
    | exact Nat.le_refl _ | exact Nat.le_max_left _ _ | exact Nat.le_add_right _ _ | split

theorem ringReset_follows (hF : Follows false lock r0 s) : Follows false lock r0 (ringReset s) :=
  ⟨hF.queue, hF.time, fun g => let g := hF.good g; ⟨smWf_filter _ _ _ g.mem, g.regs, g.act, g.queue, g.recs⟩, (fun h => nomatch h), hF.spo⟩

end Sys2Proof.Machine
end

