-- ==== Sys2Proof/Laws/FollowRails.lean ====
section
/-! SUPPORT. What the operations of Machine/Rails.lean keep (Laws/Follows.lean). -/

set_option linter.unusedTactic false
set_option linter.unreachableTactic false
set_option linter.unusedVariables false

namespace Sys2Proof.Machine

variable {keep lock : Bool} {r0 s : State}

theorem setRail_follows (r : Nat) (x : Rail) (hF : Follows keep lock r0 s) :
    Follows keep lock r0 (setRail r x s) := by
  unfold setRail
  try dsimp only
  with_reducible repeat' first
    | assumption | simp only [Follows.mk_iff] | apply atNow_follows | exact Nat.le_refl _

theorem onRail_follows (r : Nat) (f : Rail → Rail) (hF : Follows keep lock r0 s) :
    Follows keep lock r0 (onRail r f s) := by
  unfold onRail
  try dsimp only
  with_reducible repeat' first
    | assumption | apply setRail_follows

theorem regAlert_follows (r k : Nat) (hF : Follows keep lock r0 s) :
    Follows keep lock r0 (regAlert r k s) := by
  unfold regAlert
  try dsimp only
  with_reducible repeat' first
    | assumption | apply Follows.ite | simp only [Follows.mk_iff] | apply atNow_follows
    | exact Nat.le_refl _

theorem raiseReg_follows (r k : Nat) (hF : Follows keep lock r0 s) :
    Follows keep lock r0 (raiseReg r k s) := by
  unfold raiseReg
  try dsimp only
  with_reducible repeat' first
    | assumption | apply regAlert_follows | apply raise_follows

theorem latchOff_follows (r : Nat) (hF : Follows keep lock r0 s) :
    Follows keep lock r0 (latchOff r s) := by
  unfold latchOff
  try dsimp only
  with_reducible repeat' first
    | assumption | apply latchSet_follows

theorem setDe_follows (r : Nat) (on : Bool) (hF : Follows keep lock r0 s) :
    Follows keep lock r0 (setDe r on s) := by
  unfold setDe
  try dsimp only
  with_reducible repeat' first
    | assumption | intro _ | apply Follows.ite | apply forEach_follows | apply wrb_follows
    | apply onRail_follows | apply raiseReg_follows | simp only [Follows.mk_iff] | apply atNow_follows
    | exact Nat.le_refl _

theorem landDe_follows (r : Nat) (hF : Follows keep lock r0 s) :
    Follows keep lock r0 (landDe r s) := by
  unfold landDe
  try dsimp only
  with_reducible repeat' first
    | assumption | intro _ | apply setDe_follows | apply onRail_follows | simp only [Follows.mk_iff]
    | apply atNow_follows | exact Nat.le_refl _ | split

theorem setPg_follows (r : Nat) (pg : Bool) (hF : Follows keep lock r0 s) :
    Follows keep lock r0 (setPg r pg s) := by
  unfold setPg
  try dsimp only
  with_reducible repeat' first
    | assumption | apply Follows.ite | apply setRail_follows | apply raiseReg_follows
    | simp only [Follows.mk_iff] | apply atNow_follows | exact Nat.le_refl _ | split

theorem railTo_follows (r st cause : Nat) (hF : Follows keep lock r0 s) :
    Follows keep lock r0 (railTo r st cause s) := by
  unfold railTo
  try dsimp only
  with_reducible repeat' first
    | assumption | intro _ | apply Follows.ite | apply onRail_follows | apply raiseReg_follows
    | apply logIt_follows | apply latchOff_follows | apply setPg_follows | apply monTrigger_follows
    | simp only [Follows.mk_iff] | apply atNow_follows | exact Nat.le_refl _ | exact Nat.le_max_left _ _
    | exact Nat.le_add_right _ _ | split

theorem softStart_follows (r : Nat) (hF : Follows keep lock r0 s) :
    Follows keep lock r0 (softStart r s) := by
  unfold softStart
  try dsimp only
  with_reducible repeat' first
    | assumption | intro _ | apply Follows.ite | apply clearSet_follows | apply onRail_follows
    | apply railTo_follows | simp only [Follows.mk_iff] | apply atNow_follows | exact Nat.le_refl _

theorem railEnable_follows (r : Nat) (hF : Follows keep lock r0 s) :
    Follows keep lock r0 (railEnable r s) := by
  unfold railEnable
  try dsimp only
  with_reducible repeat' first
    | assumption | intro _ | apply Follows.ite | apply raiseReg_follows | apply softStart_follows
    | apply onRail_follows | simp only [Follows.mk_iff] | apply atNow_follows | exact Nat.le_refl _
    | split

theorem railDisable_follows (r : Nat) (soft : Bool) (hF : Follows keep lock r0 s) :
    Follows keep lock r0 (railDisable r soft s) := by
  unfold railDisable
  try dsimp only
  with_reducible repeat' first
    | assumption | intro _ | apply Follows.ite | apply onRail_follows | apply railTo_follows
    | simp only [Follows.mk_iff] | apply atNow_follows | exact Nat.le_refl _ | split

theorem writeRailCtl_follows (r : Nat) (v : Word) (hF : Follows keep lock r0 s) :
    Follows keep lock r0 (writeRailCtl r v s) := by
  unfold writeRailCtl
  try dsimp only
  with_reducible repeat' first
    | assumption | apply Follows.ite | apply railEnable_follows | apply railDisable_follows

theorem railFault_follows (r cause : Nat) (hF : Follows keep lock r0 s) :
    Follows keep lock r0 (railFault r cause s) := by
  unfold railFault
  try dsimp only
  with_reducible repeat' first
    | assumption | intro _ | apply Follows.ite | apply onRail_follows | apply incHeld_follows
    | apply raiseReg_follows | apply railTo_follows | simp only [Follows.mk_iff] | apply atNow_follows
    | exact Nat.le_refl _

theorem railStates_follows (r : Nat) (hF : Follows keep lock r0 s) :
    Follows keep lock r0 (railStates r s) := by
  unfold railStates
  try dsimp only
  with_reducible repeat' first
    | assumption | apply Follows.ite | apply railTo_follows | apply railFault_follows
    | apply softStart_follows | simp only [Follows.mk_iff] | apply atNow_follows | exact Nat.le_refl _
    | split

theorem railMeasure_follows (r : Nat) (hF : Follows keep lock r0 s) :
    Follows keep lock r0 (railMeasure r s) := by
  unfold railMeasure
  try dsimp only
  with_reducible repeat' first
    | assumption | intro _ | apply Follows.ite | apply setRail_follows | apply raiseReg_follows
    | apply setPg_follows | simp only [Follows.mk_iff] | apply atNow_follows | exact Nat.le_refl _
    | split

theorem newMask_follows (r m k : Nat) (hF : Follows keep lock r0 s) :
    Follows keep lock r0 (newMask r m k s) := by
  unfold newMask
  try dsimp only
  with_reducible repeat' first
    | assumption | intro _ | apply Follows.ite | apply onRail_follows | simp only [Follows.mk_iff]
    | apply atNow_follows | exact Nat.le_refl _

theorem setMask_follows (r m k : Nat) (hF : Follows keep lock r0 s) :
    Follows keep lock r0 (setMask r m k s) := by
  unfold setMask
  try dsimp only
  with_reducible repeat' first
    | assumption | apply Follows.ite | apply newMask_follows | apply raiseReg_follows
    | apply incHeld_follows

theorem dropFaulted_follows (r k : Nat) (hF : Follows keep lock r0 s) :
    Follows keep lock r0 (dropFaulted r k s) := by
  unfold dropFaulted
  try dsimp only
  with_reducible repeat' first
    | assumption | intro _ | apply Follows.ite | apply newMask_follows

theorem railDiode_follows (r : Nat) (starts : Bool) (hF : Follows keep lock r0 s) :
    Follows keep lock r0 (railDiode r starts s) := by
  unfold railDiode
  try dsimp only
  with_reducible repeat' first
    | assumption | apply Follows.ite | apply setDe_follows

theorem railPhases_follows (r len k : Nat) (hF : Follows keep lock r0 s) :
    Follows keep lock r0 (railPhases r len k s) := by
  unfold railPhases
  try dsimp only
  with_reducible repeat' first
    | assumption | apply Follows.ite | apply setRail_follows | apply setMask_follows
    | apply railDiode_follows

theorem railTaken_follows (r : Nat) (hF : Follows keep lock r0 s) :
    Follows keep lock r0 (railTaken r s) := by
  unfold railTaken
  try dsimp only
  with_reducible repeat' first
    | assumption | intro _ | apply Follows.ite | apply railMeasure_follows | apply onRail_follows
    | apply dropFaulted_follows | simp only [Follows.mk_iff] | apply atNow_follows | exact Nat.le_refl _
    | split

theorem railJudged_follows (r : Nat) (hF : Follows keep lock r0 s) :
    Follows keep lock r0 (railJudged r s) := by
  unfold railJudged
  try dsimp only
  with_reducible repeat' first
    | assumption | apply Follows.ite | apply railStates_follows | apply railTaken_follows
    | apply landDe_follows

theorem railUpdate_follows (r : Nat) (hF : Follows keep lock r0 s) :
    Follows keep lock r0 (railUpdate r s) := by
  unfold railUpdate
  try dsimp only
  with_reducible repeat' first
    | assumption | apply Follows.ite | apply railJudged_follows | apply railPhases_follows
    | split

theorem limitCmd_follows (r : Nat) (v : Word) (hF : Follows keep lock r0 s) :
    Follows keep lock r0 (limitCmd r v s).2 := by
  unfold limitCmd
  try dsimp only
  with_reducible repeat' first
    | assumption | intro _ | apply Follows.ite | apply raiseReg_follows | apply onRail_follows
    | simp only [Follows.mk_iff] | apply atNow_follows | exact Nat.le_refl _ | dsimp only

theorem railCommand_follows (r src : Nat) (v : Word) (rate : Option Word) (hF : Follows keep lock r0 s) :
    Follows keep lock r0 (railCommand r src v rate s) := by
  unfold railCommand
  try dsimp only
  with_reducible repeat' first
    | assumption | intro _ | apply Follows.ite | apply raiseReg_follows | apply incHeld_follows
    | apply limitCmd_follows | apply onRail_follows | simp only [Follows.mk_iff] | apply atNow_follows
    | exact Nat.le_refl _ | exact Nat.le_max_left _ _ | exact Nat.le_add_right _ _ | refine Follows.of_snd (by assumption) ?_
    | split | dsimp only

theorem takeTarget_follows (r : Nat) (v : Word) (rate : Option Word) (hF : Follows keep lock r0 s) :
    Follows keep lock r0 (takeTarget r v rate s) := by
  unfold takeTarget
  try dsimp only
  with_reducible repeat' first
    | assumption | intro _ | apply onRail_follows | simp only [Follows.mk_iff] | apply atNow_follows
    | exact Nat.le_refl _ | split

theorem stepVref_follows (r per : Nat) (hF : Follows keep lock r0 s) :
    Follows keep lock r0 (stepVref r per s) := by
  unfold stepVref
  try dsimp only
  with_reducible repeat' first
    | assumption | intro _ | apply Follows.ite | apply setRail_follows | apply raiseReg_follows
    | apply onRail_follows | simp only [Follows.mk_iff] | apply atNow_follows | exact Nat.le_refl _
    | split

theorem railBoundary_follows (d tk : Nat) (fresh : Bool) (hF : Follows keep lock r0 s) :
    Follows keep lock r0 (railBoundary d tk fresh s) := by
  unfold railBoundary
  try dsimp only
  with_reducible repeat' first
    | assumption | intro _ | apply Follows.ite | apply forEach_follows | apply landDe_follows
    | apply onRail_follows | apply takeTarget_follows | apply stepVref_follows | simp only [Follows.mk_iff]
    | apply atNow_follows | exact Nat.le_refl _ | split

theorem railPass_follows (n : Nat) (hF : Follows keep lock r0 s) :
    Follows keep lock r0 (railPass n s).1 := by
  unfold railPass
  try dsimp only
  with_reducible repeat' first
    | assumption | intro _ | apply Follows.ite | apply forEach_follows | apply openGroup_follows
    | apply wrf_follows | apply wr_follows | apply onRail_follows | simp only [Follows.mk_iff]
    | apply atNow_follows | exact Nat.le_refl _ | split | dsimp only

theorem railAfterClear_follows  (hF : Follows keep lock r0 s) :
    Follows keep lock r0 (railAfterClear s) := by
  unfold railAfterClear
  try dsimp only
  with_reducible repeat' first
    | assumption | intro _ | apply Follows.ite | apply forEach_follows | apply latchOff_follows

theorem writeVset_follows (r : Nat) (v : Word) (hF : Follows keep lock r0 s) :
    Follows keep lock r0 (writeVset r v s) := by
  unfold writeVset
  try dsimp only
  with_reducible repeat' first
    | assumption | apply Follows.ite | apply railCommand_follows | apply wr_follows

theorem writeReg_follows (r off : Nat) (v : Word) (hF : Follows keep lock r0 s) :
    Follows keep lock r0 (writeReg r off v s) := by
  unfold writeReg
  try dsimp only
  with_reducible repeat' first
    | assumption | intro _ | apply Follows.ite | apply writeVset_follows | apply writeRailCtl_follows
    | apply onRail_follows | apply plainWrite_follows | apply monTrigger_follows | simp only [Follows.mk_iff]
    | apply atNow_follows | exact Nat.le_refl _ | exact Nat.le_max_left _ _ | exact Nat.le_add_right _ _
    | split

theorem tearMonument_follows (sure : Bool) (hF : Follows false lock r0 s) :
    Follows false lock r0 (tearMonument sure s) := by
  unfold tearMonument
  try dsimp only
  with_reducible repeat' first
    | assumption | intro _ | apply Follows.ite | apply nvStores_follows | apply nvStore_follows
    | apply nvCutWord_follows | apply onNvm_follows | simp only [Follows.mk_iff] | apply atNow_follows
    | exact Nat.le_refl _ | exact Nat.le_max_left _ _ | exact Nat.le_add_right _ _ | refine Follows.of_snd (by assumption) ?_
    | refine Follows.of_fst (by assumption) ?_ | simp only [id_eq] | split | dsimp only

theorem railsOff_follows  (hF : Follows false lock r0 s) :
    Follows false lock r0 (railsOff s) := by
  unfold railsOff
  try dsimp only
  with_reducible repeat' first
    | assumption | intro _ | apply Follows.ite | apply tearMonument_follows | apply forEach_follows
    | apply latchOff_follows | simp only [Follows.mk_iff] | apply atNow_follows | exact Nat.le_refl _
    | exact Nat.le_max_left _ _ | exact Nat.le_add_right _ _ | refine Follows.of_snd (by assumption) ?_
    | refine Follows.of_fst (by assumption) ?_ | simp only [id_eq] | split | dsimp only

theorem execRailEnable_follows (m : Master) (r : Fin 4) (hF : Follows keep lock r0 s) :
    ∃ s1, execRailEnable m r s = .next s1 ∧ Follows keep lock r0 s1 := by
  refine ⟨_, rfl, ?_⟩
  try dsimp only
  with_reducible repeat' first
    | assumption | intro _ | apply byBus_follows | apply writeRailCtl_follows

theorem execRailDisable_follows (m : Master) (r : Fin 4) (hF : Follows keep lock r0 s) :
    ∃ s1, execRailDisable m r s = .next s1 ∧ Follows keep lock r0 s1 := by
  refine ⟨_, rfl, ?_⟩
  try dsimp only
  with_reducible repeat' first
    | assumption | intro _ | apply byBus_follows | apply writeRailCtl_follows

theorem execRailUpdate_follows (r : Fin 4) (hF : Follows keep lock r0 s) :
    ∃ s1, execRailUpdate r s = .next s1 ∧ Follows keep lock r0 s1 := by
  refine ⟨_, rfl, ?_⟩
  try dsimp only
  with_reducible repeat' first
    | assumption | apply railUpdate_follows

theorem railTimed_follows (r t : Nat) (hF : Follows keep lock r0 s) :
    Follows keep lock r0 (railTimed r t s) := by
  unfold railTimed
  try dsimp only
  with_reducible repeat' first
    | assumption | apply Follows.ite | apply upto_follows | apply railStates_follows
    | apply railUpdate_follows | split

theorem execDwellExpiry_follows (r : Fin 4) (hF : Follows keep lock r0 s) :
    ∃ s1, execDwellExpiry r s = .next s1 ∧ Follows keep lock r0 s1 := by
  refine ⟨_, rfl, ?_⟩
  try dsimp only
  with_reducible repeat' first
    | assumption | apply railUpdate_follows

theorem execHiccupRetry_follows (r : Fin 4) (hF : Follows keep lock r0 s) :
    ∃ s1, execHiccupRetry r s = .next s1 ∧ Follows keep lock r0 s1 := by
  refine ⟨_, rfl, ?_⟩
  try dsimp only
  with_reducible repeat' first
    | assumption | apply Follows.ite | apply railTimed_follows | split

theorem execSstmo_follows (r : Fin 4) (hF : Follows keep lock r0 s) :
    ∃ s1, execSstmo r s = .next s1 ∧ Follows keep lock r0 s1 := by
  refine ⟨_, rfl, ?_⟩
  try dsimp only
  with_reducible repeat' first
    | assumption | apply Follows.ite | apply railTimed_follows | split

theorem execCleanTime_follows (r : Fin 4) (hF : Follows keep lock r0 s) :
    ∃ s1, execCleanTime r s = .next s1 ∧ Follows keep lock r0 s1 := by
  refine ⟨_, rfl, ?_⟩
  try dsimp only
  with_reducible repeat' first
    | assumption | intro _ | apply Follows.ite | apply onRail_follows | apply upto_follows
    | simp only [Follows.mk_iff] | apply atNow_follows | exact Nat.le_refl _ | split

theorem execVset_follows (m : Master) (r : Fin 4) (v : Word) (hF : Follows keep lock r0 s) :
    ∃ s1, execVset m r v s = .next s1 ∧ Follows keep lock r0 s1 := by
  refine ⟨_, rfl, ?_⟩
  try dsimp only
  with_reducible repeat' first
    | assumption | intro _ | apply byBus_follows | apply writeVset_follows

theorem execRingCommand_follows (r : Fin 4) (hF : Follows keep lock r0 s) :
    ∃ s1, execRingCommand r s = .next s1 ∧ Follows keep lock r0 s1 := by
  refine ⟨_, rfl, ?_⟩
  try dsimp only
  with_reducible repeat' first
    | assumption | intro _ | apply Follows.ite | apply streamTake_follows | apply onRail_follows
    | apply railCommand_follows | apply railDisable_follows | apply railEnable_follows
    | simp only [Follows.mk_iff] | apply atNow_follows | exact Nat.le_refl _ | exact Nat.le_max_left _ _
    | exact Nat.le_add_right _ _ | refine Follows.of_snd (by assumption) ?_ | split | dsimp only

theorem execCmdLost_follows (r : Fin 4) (hF : Follows keep lock r0 s) :
    ∃ s1, execCmdLost r s = .next s1 ∧ Follows keep lock r0 s1 := by
  refine ⟨_, rfl, ?_⟩
  try dsimp only
  with_reducible repeat' first
    | assumption | intro _ | apply Follows.ite | apply upto_follows | apply raiseReg_follows
    | apply onRail_follows | apply takeTarget_follows | simp only [Follows.mk_iff] | apply atNow_follows
    | exact Nat.le_refl _ | split

theorem execCapture_follows (m : Master) (hF : Follows keep lock r0 s) :
    ∃ s1, execCapture m s = .next s1 ∧ Follows keep lock r0 s1 := by
  refine ⟨_, rfl, ?_⟩
  try dsimp only
  with_reducible repeat' first
    | assumption | intro _ | apply byBus_follows | apply writeReg_follows

theorem execMonumentWritten_follows  (hF : Follows false lock r0 s) :
    ∃ s1, execMonumentWritten s = .next s1 ∧ Follows false lock r0 s1 := by
  refine ⟨_, rfl, ?_⟩
  try dsimp only
  with_reducible repeat' first
    | assumption | apply nvStores_follows | apply raiseReg_follows | simp only [Follows.mk_iff]
    | apply atNow_follows | exact Nat.le_refl _ | exact Nat.le_max_left _ _ | exact Nat.le_add_right _ _
    | split

end Sys2Proof.Machine
end

