-- ==== Sys2Proof/Laws/FollowTrackers.lean ====
section
/-! SUPPORT. What the operations of Machine/Trackers.lean keep (Laws/Follows.lean). -/

set_option linter.unusedTactic false
set_option linter.unreachableTactic false
set_option linter.unusedVariables false

namespace Sys2Proof.Machine

variable {keep lock : Bool} {r0 s : State}

theorem setTracker_follows (t : Nat) (x : Tracker) (hF : Follows keep lock r0 s) :
    Follows keep lock r0 (setTracker t x s) := by
  unfold setTracker
  try dsimp only
  with_reducible repeat' first
    | assumption | simp only [Follows.mk_iff] | apply atNow_follows | exact Nat.le_refl _

theorem onTracker_follows (t : Nat) (f : Tracker → Tracker) (hF : Follows keep lock r0 s) :
    Follows keep lock r0 (onTracker t f s) := by
  unfold onTracker
  try dsimp only
  with_reducible repeat' first
    | assumption | apply setTracker_follows

theorem onSweep_follows (f : Sweep → Sweep) (hF : Follows keep lock r0 s) :
    Follows keep lock r0 (onSweep f s) := by
  unfold onSweep
  try dsimp only
  with_reducible repeat' first
    | assumption | simp only [Follows.mk_iff] | apply atNow_follows | exact Nat.le_refl _

theorem raiseMppt_follows (k : Nat) (hF : Follows keep lock r0 s) :
    Follows keep lock r0 (raiseMppt k s) := by
  unfold raiseMppt
  try dsimp only
  with_reducible repeat' first
    | assumption | apply raise_follows

theorem takeSample_follows (t start fin : Nat) (i v : AdcSet) (hF : Follows keep lock r0 s) :
    Follows keep lock r0 (takeSample t start fin i v s) := by
  unfold takeSample
  try dsimp only
  with_reducible repeat' first
    | assumption | apply Follows.ite | apply setTracker_follows | simp only [Follows.mk_iff]
    | apply atNow_follows | exact Nat.le_refl _ | split

theorem moveRef_follows (t : Nat) (up : Bool) (dv : Word) (hF : Follows keep lock r0 s) :
    Follows keep lock r0 (moveRef t up dv s) := by
  unfold moveRef
  try dsimp only
  with_reducible repeat' first
    | assumption | apply Follows.ite | apply setTracker_follows | simp only [Follows.mk_iff]
    | apply atNow_follows | exact Nat.le_refl _ | split

theorem baseline_follows (t : Nat) (p : Word) (hF : Follows keep lock r0 s) :
    Follows keep lock r0 (baseline t p s) := by
  unfold baseline
  try dsimp only
  with_reducible repeat' first
    | assumption | apply moveRef_follows | apply setTracker_follows | simp only [Follows.mk_iff]
    | apply atNow_follows | exact Nat.le_refl _

theorem restart_follows (t : Nat) (hF : Follows keep lock r0 s) :
    Follows keep lock r0 (restart t s) := by
  unfold restart
  try dsimp only
  with_reducible repeat' first
    | assumption | intro _ | apply onTracker_follows | simp only [Follows.mk_iff]
    | apply atNow_follows | exact Nat.le_refl _

theorem perturb_follows (t : Nat) (p : Word) (hF : Follows keep lock r0 s) :
    Follows keep lock r0 (perturb t p s) := by
  unfold perturb
  try dsimp only
  with_reducible repeat' first
    | assumption | apply Follows.ite | apply baseline_follows | apply moveRef_follows
    | apply setTracker_follows | simp only [Follows.mk_iff] | apply atNow_follows | exact Nat.le_refl _

theorem leaveLimit_follows (t : Nat) (hF : Follows keep lock r0 s) :
    Follows keep lock r0 (leaveLimit t s) := by
  unfold leaveLimit
  try dsimp only
  with_reducible repeat' first
    | assumption | intro _ | apply onTracker_follows | simp only [Follows.mk_iff]
    | apply atNow_follows | exact Nat.le_refl _

theorem limitStep_follows (t : Nat) (c p : Word) (hF : Follows keep lock r0 s) :
    Follows keep lock r0 (limitStep t c p s) := by
  unfold limitStep
  try dsimp only
  with_reducible repeat' first
    | assumption | intro _ | apply Follows.ite | apply raiseMppt_follows | apply onTracker_follows
    | apply leaveLimit_follows | apply setTracker_follows | apply moveRef_follows | simp only [Follows.mk_iff]
    | apply atNow_follows | exact Nat.le_refl _

theorem gapStep_follows (t : Nat) (hF : Follows keep lock r0 s) :
    Follows keep lock r0 (gapStep t s) := by
  unfold gapStep
  try dsimp only
  with_reducible repeat' first
    | assumption | intro _ | apply Follows.ite | apply incHeld_follows | apply raiseMppt_follows
    | apply onTracker_follows | apply setTracker_follows | simp only [Follows.mk_iff] | apply atNow_follows
    | exact Nat.le_refl _

theorem beginPoint_follows (t i : Nat) (hF : Follows keep lock r0 s) :
    Follows keep lock r0 (beginPoint t i s) := by
  unfold beginPoint
  try dsimp only
  with_reducible repeat' first
    | assumption | intro _ | apply onTracker_follows | apply onSweep_follows | simp only [Follows.mk_iff]
    | apply atNow_follows | exact Nat.le_refl _

theorem startSweep_follows (t : Nat) (hF : Follows keep lock r0 s) :
    Follows keep lock r0 (startSweep t s) := by
  unfold startSweep
  try dsimp only
  with_reducible repeat' first
    | assumption | intro _ | apply onSweep_follows | apply beginPoint_follows | apply onTracker_follows
    | simp only [Follows.mk_iff] | apply atNow_follows | exact Nat.le_refl _

theorem abortSweep_follows (t : Nat) (hF : Follows keep lock r0 s) :
    Follows keep lock r0 (abortSweep t s) := by
  unfold abortSweep
  try dsimp only
  with_reducible repeat' first
    | assumption | intro _ | apply raiseMppt_follows | apply onTracker_follows | apply restart_follows
    | apply onSweep_follows | simp only [Follows.mk_iff] | apply atNow_follows | exact Nat.le_refl _

theorem parkStep_follows (t : Nat) (hF : Follows keep lock r0 s) :
    Follows keep lock r0 (parkStep t s) := by
  unfold parkStep
  try dsimp only
  with_reducible repeat' first
    | assumption | intro _ | apply Follows.ite | apply raiseMppt_follows | apply onTracker_follows
    | apply moveRef_follows | simp only [Follows.mk_iff] | apply atNow_follows | exact Nat.le_refl _

theorem sweepStep_follows (t : Nat) (gap : Bool) (c p : Word) (hF : Follows keep lock r0 s) :
    Follows keep lock r0 (sweepStep t gap c p s) := by
  unfold sweepStep
  try dsimp only
  with_reducible repeat' first
    | assumption | intro _ | apply Follows.ite | apply onSweep_follows | apply parkStep_follows
    | apply raiseMppt_follows | apply abortSweep_follows | apply beginPoint_follows | apply restart_follows
    | apply incHeld_follows | apply onTracker_follows | simp only [Follows.mk_iff] | apply atNow_follows
    | exact Nat.le_refl _ | split

theorem stepRows_follows (t : Nat) (gap : Bool) (c p : Word) (hF : Follows keep lock r0 s) :
    Follows keep lock r0 (stepRows t gap c p s) := by
  unfold stepRows
  try dsimp only
  with_reducible repeat' first
    | assumption | intro _ | apply Follows.ite | apply restart_follows | apply gapStep_follows
    | apply limitStep_follows | apply onTracker_follows | apply perturb_follows | simp only [Follows.mk_iff]
    | apply atNow_follows | exact Nat.le_refl _ | split

theorem stepEnd_follows (t : Nat) (hF : Follows keep lock r0 s) :
    Follows keep lock r0 (stepEnd t s) := by
  unfold stepEnd
  try dsimp only
  with_reducible repeat' first
    | assumption | intro _ | apply Follows.ite | apply setTracker_follows | apply sweepStep_follows
    | apply onTracker_follows | apply parkStep_follows | apply raiseMppt_follows | apply startSweep_follows
    | apply stepRows_follows | simp only [Follows.mk_iff] | apply atNow_follows | exact Nat.le_refl _
    | split

theorem lateSteps_follows  (hF : Follows keep lock r0 s) :
    Follows keep lock r0 (lateSteps s) := by
  unfold lateSteps
  try dsimp only
  with_reducible repeat' first
    | assumption | intro _ | apply Follows.ite | apply forEach_follows | apply stepEnd_follows

theorem trackSample_follows (n start fin : Nat) (hF : Follows keep lock r0 s) :
    Follows keep lock r0 (trackSample n start fin s) := by
  unfold trackSample
  try dsimp only
  with_reducible repeat' first
    | assumption | intro _ | apply Follows.ite | apply lateSteps_follows | apply forEach_follows
    | apply takeSample_follows

theorem writeTrkCtl_follows (t : Nat) (v : Word) (hF : Follows keep lock r0 s) :
    Follows keep lock r0 (writeTrkCtl t v s) := by
  unfold writeTrkCtl
  try dsimp only
  with_reducible repeat' first
    | assumption | intro _ | apply Follows.ite | apply onTracker_follows | apply raiseMppt_follows
    | apply onSweep_follows | simp only [Follows.mk_iff] | apply atNow_follows | exact Nat.le_refl _
    | exact Nat.le_max_left _ _ | exact Nat.le_add_right _ _

theorem writeCap_follows (t : Nat) (v : Word) (hF : Follows keep lock r0 s) :
    Follows keep lock r0 (writeCap t v s) := by
  unfold writeCap
  try dsimp only
  with_reducible repeat' first
    | assumption | apply Follows.ite | apply wr_follows

theorem capPort_follows (t : Nat) (v : Word) (hF : Follows keep lock r0 s) :
    Follows keep lock r0 (capPort t v s) := by
  unfold capPort
  try dsimp only
  with_reducible repeat' first
    | assumption | apply Follows.ite | apply raiseMppt_follows | apply wr_follows

theorem writeMppt_follows (off : Nat) (v : Word) (hF : Follows keep lock r0 s) :
    Follows keep lock r0 (writeMppt off v s) := by
  unfold writeMppt
  try dsimp only
  with_reducible repeat' first
    | assumption | intro _ | apply Follows.ite | apply plainWrite_follows | apply onSweep_follows
    | apply writeCap_follows | apply writeTrkCtl_follows | apply onTracker_follows | simp only [Follows.mk_iff]
    | apply atNow_follows | exact Nat.le_refl _ | exact Nat.le_max_left _ _ | exact Nat.le_add_right _ _
    | split

theorem trackersOff_follows  (hF : Follows keep lock r0 s) :
    Follows keep lock r0 (trackersOff s) := by
  unfold trackersOff
  try dsimp only
  with_reducible repeat' first
    | assumption | simp only [Follows.mk_iff] | apply atNow_follows | exact Nat.le_refl _

theorem execTrackerEnable_follows (m : Master) (t : Fin 24) (hF : Follows keep lock r0 s) :
    ∃ s1, execTrackerEnable m t s = .next s1 ∧ Follows keep lock r0 s1 := by
  refine ⟨_, rfl, ?_⟩
  try dsimp only
  with_reducible repeat' first
    | assumption | intro _ | apply byBus_follows | apply writeTrkCtl_follows

theorem execTrackerDisable_follows (m : Master) (t : Fin 24) (hF : Follows keep lock r0 s) :
    ∃ s1, execTrackerDisable m t s = .next s1 ∧ Follows keep lock r0 s1 := by
  refine ⟨_, rfl, ?_⟩
  try dsimp only
  with_reducible repeat' first
    | assumption | intro _ | apply byBus_follows | apply writeTrkCtl_follows

theorem execSweepNow_follows (m : Master) (t : Fin 24) (hF : Follows keep lock r0 s) :
    ∃ s1, execSweepNow m t s = .next s1 ∧ Follows keep lock r0 s1 := by
  refine ⟨_, rfl, ?_⟩
  try dsimp only
  with_reducible repeat' first
    | assumption | intro _ | apply byBus_follows | apply writeTrkCtl_follows

theorem execSweepDue_follows  (hF : Follows keep lock r0 s) :
    ∃ s1, execSweepDue s = .next s1 ∧ Follows keep lock r0 s1 := by
  refine ⟨_, rfl, ?_⟩
  try dsimp only
  with_reducible repeat' first
    | assumption | intro _ | apply Follows.ite | apply upto_follows | apply onSweep_follows
    | apply onTracker_follows | apply raiseMppt_follows | simp only [Follows.mk_iff] | apply atNow_follows
    | exact Nat.le_refl _ | split

theorem execStepEnd_follows (t : Fin 24) (hF : Follows keep lock r0 s) :
    ∃ s1, execStepEnd t s = .next s1 ∧ Follows keep lock r0 s1 := by
  refine ⟨_, rfl, ?_⟩
  try dsimp only
  with_reducible repeat' first
    | assumption | intro _ | apply Follows.ite | apply onTracker_follows | apply upto_follows
    | apply stepEnd_follows | simp only [Follows.mk_iff] | apply atNow_follows | exact Nat.le_refl _
    | split

theorem execSwpPRead_follows (m : Master) (hF : Follows keep lock r0 s) :
    ∃ s1, execSwpPRead m s = .next s1 ∧ Follows keep lock r0 s1 := by
  refine ⟨_, rfl, ?_⟩
  try dsimp only
  with_reducible repeat' first
    | assumption | intro _ | apply Follows.ite | apply readAt_follows | apply respond_follows
    | apply wrf_follows

end Sys2Proof.Machine
end

