-- ==== Sys2Proof/Laws/FollowCluster.lean ====
section
/-! SUPPORT. What the operations of Machine/Cluster.lean keep (Laws/Follows.lean). -/

set_option linter.unusedTactic false
set_option linter.unreachableTactic false
set_option linter.unusedVariables false

namespace Sys2Proof.Machine

variable {keep lock : Bool} {r0 s : State}

theorem wdtRestart_follows (h : Nat) (hF : Follows keep lock r0 s) :
    Follows keep lock r0 (wdtRestart h s) := by
  unfold wdtRestart
  try dsimp only
  with_reducible repeat' first
    | assumption | intro _ | apply Follows.ite | apply onHart_follows | simp only [Follows.mk_iff]
    | apply atNow_follows | exact Nat.le_refl _ | exact Nat.le_max_left _ _ | exact Nat.le_add_right _ _

theorem writeWdtCfg_follows (v : Word) (hF : Follows keep lock r0 s) :
    Follows keep lock r0 (writeWdtCfg v s) := by
  unfold writeWdtCfg
  try dsimp only
  with_reducible repeat' first
    | assumption | intro _ | apply Follows.ite | apply plainWrite_follows | apply forEach_follows
    | apply wdtRestart_follows

theorem kickWdt_follows (m : Master) (v : Word) (hF : Follows keep lock r0 s) :
    Follows keep lock r0 (kickWdt m v s) := by
  unfold kickWdt
  try dsimp only
  with_reducible repeat' first
    | assumption | intro _ | apply Follows.ite | apply forEach_follows | apply wdtRestart_follows

theorem raiseDbg_follows (k : Nat) (hF : Follows keep lock r0 s) :
    Follows keep lock r0 (raiseDbg k s) := by
  unfold raiseDbg
  try dsimp only
  with_reducible repeat' first
    | assumption | apply raise_follows

theorem endFreeze_follows  (hF : Follows keep lock r0 s) :
    Follows keep lock r0 (endFreeze s) := by
  unfold endFreeze
  try dsimp only
  with_reducible repeat' first
    | assumption | exact fun _ => .inl rfl | exact fun _ => .inr (by decide) | exact fun h => absurd h Bool.false_ne_true
    | intro _ | apply Follows.ite | apply settle_follows | apply spoSource_follows | apply onPlumb_follows
    | simp only [Follows.mk_iff] | apply atNow_follows | exact Nat.le_refl _ | exact Nat.le_max_left _ _
    | exact Nat.le_add_right _ _ | exact id | exact fun _ => rfl | split

theorem haltHart_follows (h : Nat) (hF : Follows keep lock r0 s) :
    Follows keep lock r0 (haltHart h s) := by
  unfold haltHart
  try dsimp only
  with_reducible repeat' first
    | assumption | intro _ | apply Follows.ite | apply onHart_follows | apply forEach_follows
    | apply onLeg_follows | apply onPlumb_follows | apply raiseDbg_follows | apply logHap_follows
    | simp only [Follows.mk_iff] | apply atNow_follows | exact Nat.le_refl _ | exact Nat.le_max_left _ _
    | exact Nat.le_add_right _ _ | exact id | exact fun _ => rfl

theorem haltGroup_follows (h : Nat) (hF : Follows keep lock r0 s) :
    Follows keep lock r0 (haltGroup h s) := by
  unfold haltGroup
  try dsimp only
  with_reducible repeat' first
    | assumption | intro _ | apply forEach_follows | apply haltHart_follows

theorem resumeHart_follows (h : Nat) (hF : Follows keep lock r0 s) :
    Follows keep lock r0 (resumeHart h s) := by
  unfold resumeHart
  try dsimp only
  with_reducible repeat' first
    | assumption | intro _ | apply Follows.ite | apply onHart_follows | apply raiseDbg_follows
    | apply pmcSettle_follows | apply endFreeze_follows | simp only [Follows.mk_iff] | apply atNow_follows
    | exact Nat.le_refl _ | exact Nat.le_max_left _ _ | exact Nat.le_add_right _ _

theorem resumeHarts_follows  (hF : Follows keep lock r0 s) :
    Follows keep lock r0 (resumeHarts s) := by
  unfold resumeHarts
  try dsimp only
  with_reducible repeat' first
    | assumption | intro _ | apply forEach_follows | apply resumeHart_follows

theorem resetHarts_follows (hs : List Nat) (staged : Bool) (hF : Follows keep lock r0 s) :
    Follows keep lock r0 (resetHarts hs staged s) := by
  unfold resetHarts
  try dsimp only
  with_reducible repeat' first
    | assumption | intro _ | apply Follows.ite | apply forEach_follows | apply wdtRestart_follows
    | apply onHart_follows | apply raiseDbg_follows | apply pmcSettle_follows | apply endFreeze_follows
    | simp only [Follows.mk_iff] | apply atNow_follows | exact Nat.le_refl _

theorem invertRole_follows  (hF : Follows keep lock r0 s) :
    Follows keep lock r0 (invertRole s) := by
  unfold invertRole
  try dsimp only
  with_reducible repeat' first
    | assumption | apply wrf_follows

theorem nvPop_follows  (hF : Follows false lock r0 s) :
    Follows false lock r0 (nvPop s) := by
  unfold nvPop
  try dsimp only
  with_reducible repeat' first
    | assumption | intro _ | apply upto_follows | apply nvStore_follows | apply onNvm_follows
    | simp only [Follows.mk_iff] | apply atNow_follows | exact Nat.le_refl _ | split

theorem nvQueue_follows (m : Doer) (a : Nat) (bytes : List Byte) (hF : Follows false lock r0 s) :
    Follows false lock r0 (nvQueue m a bytes s) := by
  unfold nvQueue
  try dsimp only
  with_reducible repeat' first
    | assumption | intro _ | apply Follows.ite | apply nvPop_follows | apply onNvm_follows
    | simp only [Follows.mk_iff] | apply atNow_follows | exact Nat.le_refl _ | exact Nat.le_max_left _ _
    | exact Nat.le_add_right _ _

theorem nvFlush_follows (k : Nat) (hF : Follows false lock r0 s) :
    Follows false lock r0 (nvFlush  k  s) := by
  induction k generalizing s  with
  | zero => exact hF
  | succ k ih =>
  rw [nvFlush]
  try dsimp only
  with_reducible repeat' first
    | assumption | apply ih | apply Follows.ite | apply nvPop_follows | split

theorem nvLoss_follows  (hF : Follows false lock r0 s) :
    Follows false lock r0 (nvLoss s) := by
  unfold nvLoss
  try dsimp only
  with_reducible repeat' first
    | assumption | intro _ | apply Follows.ite | apply onNvm_follows | apply nvCutWord_follows
    | simp only [Follows.mk_iff] | apply atNow_follows | exact Nat.le_refl _ | split

theorem cutWrites_follows (m : Doer) (plan : List (Nat × List Byte)) (t0 t : Nat) (sure : Bool) (hF : Follows false lock r0 s) :
    Follows false lock r0 (cutWrites m plan t0 t sure s) := by
  unfold cutWrites
  try dsimp only
  with_reducible repeat' first
    | assumption | intro _ | apply Follows.ite | apply forEach_follows | apply nvStore_follows
    | apply nvCutWord_follows | simp only [Follows.mk_iff] | apply atNow_follows | exact Nat.le_refl _
    | exact Nat.le_max_left _ _ | exact Nat.le_add_right _ _ | refine Follows.of_snd (by assumption) ?_
    | refine Follows.of_fst (by assumption) ?_ | simp only [id_eq] | split | dsimp only

theorem nvBusWrite_follows (m : Master) (req : Option Nat) (a : Nat) (bytes : List Byte) (delta : Bool) (hF : Follows false lock r0 s) :
    Follows false lock r0 (nvBusWrite m req a bytes delta s) := by
  unfold nvBusWrite
  try dsimp only
  with_reducible repeat' first
    | assumption | apply Follows.ite | apply busError_follows | apply busCycle_follows
    | apply nvQueue_follows | apply raiseNvm_follows | split

theorem execWdtKick_follows (m : Master) (v : BitVec 4) (hF : Follows keep lock r0 s) :
    ∃ s1, execWdtKick m v s = .next s1 ∧ Follows keep lock r0 s1 := by
  refine ⟨_, rfl, ?_⟩
  try dsimp only
  with_reducible repeat' first
    | assumption | intro _ | apply byBus_follows | apply kickWdt_follows

theorem execMtimecmpMatch_follows (h : Fin 4) (hF : Follows keep lock r0 s) :
    ∃ s1, execMtimecmpMatch h s = .next s1 ∧ Follows keep lock r0 s1 := by
  refine ⟨_, rfl, ?_⟩
  try dsimp only
  with_reducible repeat' first
    | assumption | intro _ | apply Follows.ite | apply onHart_follows | apply upto_follows
    | simp only [Follows.mk_iff] | apply atNow_follows | exact Nat.le_refl _ | split

theorem execScrub_follows (errs : Fin 3) (hF : Follows keep lock r0 s) :
    ∃ s1, execScrub errs s = .next s1 ∧ Follows keep lock r0 s1 := by
  refine ⟨_, rfl, ?_⟩
  try dsimp only
  with_reducible repeat' first
    | assumption | apply Follows.ite | apply upto_follows | apply sramCheck_follows
    | apply pmcCount_follows | apply raisePmc_follows | apply incHeld_follows | simp only [Follows.mk_iff]
    | apply atNow_follows | exact Nat.le_refl _ | split

theorem execNvWordWritten_follows  (hF : Follows false lock r0 s) :
    ∃ s1, execNvWordWritten s = .next s1 ∧ Follows false lock r0 s1 := by
  refine ⟨_, rfl, ?_⟩
  try dsimp only
  with_reducible repeat' first
    | assumption | apply Follows.ite | apply nvPop_follows | split

theorem execHartHalt_follows (h : Fin 4) (hF : Follows keep lock r0 s) :
    ∃ s1, execHartHalt h s = .next s1 ∧ Follows keep lock r0 s1 := by
  refine ⟨_, rfl, ?_⟩
  try dsimp only
  with_reducible repeat' first
    | assumption | apply Follows.ite | apply haltGroup_follows

theorem execHartResume_follows  (hF : Follows keep lock r0 s) :
    ∃ s1, execHartResume s = .next s1 ∧ Follows keep lock r0 s1 := by
  refine ⟨_, rfl, ?_⟩
  try dsimp only
  with_reducible repeat' first
    | assumption | apply Follows.ite | apply resumeHarts_follows

end Sys2Proof.Machine
end

