-- ==== Sys2Proof/Laws/FollowDatum.lean ====
section
/-! SUPPORT. What the operations of Machine/Datum.lean keep (Laws/Follows.lean). -/

set_option linter.unusedTactic false
set_option linter.unreachableTactic false
set_option linter.unusedVariables false

namespace Sys2Proof.Machine

variable {keep lock : Bool} {r0 s : State}

theorem onDatum_follows (f : Datum → Datum) (hF : Follows keep lock r0 s) :
    Follows keep lock r0 (onDatum f s) := by
  unfold onDatum
  try dsimp only
  with_reducible repeat' first
    | assumption | simp only [Follows.mk_iff] | apply atNow_follows | exact Nat.le_refl _

theorem raiseDat_follows (k : Nat) (hF : Follows keep lock r0 s) :
    Follows keep lock r0 (raiseDat k s) := by
  unfold raiseDat
  try dsimp only
  with_reducible repeat' first
    | assumption | apply raise_follows

theorem onSide_follows (r : Nat) (f : Side → Side) (hF : Follows keep lock r0 s) :
    Follows keep lock r0 (onSide r f s) := by
  unfold onSide
  try dsimp only
  with_reducible repeat' first
    | assumption | intro _ | apply Follows.ite | apply onDatum_follows | simp only [Follows.mk_iff]
    | apply atNow_follows | exact Nat.le_refl _

theorem keepEra_follows  (hF : Follows keep lock r0 s) :
    Follows keep lock r0 (keepEra s) := by
  unfold keepEra
  try dsimp only
  with_reducible repeat' first
    | assumption | intro _ | apply Follows.ite | simp only [Follows.mk_iff] | apply atNow_follows
    | exact Nat.le_refl _

theorem setRate_follows (r : Int) (hF : Follows keep lock r0 s) :
    Follows keep lock r0 (setRate r s) := by
  unfold setRate
  try dsimp only
  with_reducible repeat' first
    | assumption | intro _ | apply keepEra_follows | apply onDatum_follows | simp only [Follows.mk_iff]
    | apply atNow_follows | exact Nat.le_refl _ | exact Nat.le_max_left _ _ | exact Nat.le_add_right _ _

theorem setStamp_follows (b : Nat) (hF : Follows keep lock r0 s) :
    Follows keep lock r0 (setStamp b s) := by
  unfold setStamp
  try dsimp only
  with_reducible repeat' first
    | assumption | intro _ | apply keepEra_follows | apply onDatum_follows | simp only [Follows.mk_iff]
    | apply atNow_follows | exact Nat.le_refl _ | exact Nat.le_max_left _ _ | exact Nat.le_add_right _ _

theorem datumRefresh_follows  (hF : Follows keep lock r0 s) :
    Follows keep lock r0 (datumRefresh s) := by
  unfold datumRefresh
  try dsimp only
  with_reducible repeat' first
    | assumption | intro _ | apply Follows.ite | apply keepEra_follows | apply onDatum_follows
    | apply baseTurn_follows | apply islRefresh_follows | apply lockFollowsDatum_follows
    | apply raiseDat_follows | apply gensLoseDatum_follows | simp only [Follows.mk_iff]
    | apply atNow_follows | exact Nat.le_refl _ | split

theorem datumTo_follows (st : DatumSt) (hF : Follows keep lock r0 s) :
    Follows keep lock r0 (datumTo st s) := by
  unfold datumTo
  try dsimp only
  with_reducible repeat' first
    | assumption | intro _ | apply Follows.ite | apply logHap_follows | apply keepEra_follows
    | apply baseTurn_follows | apply wr_follows | apply islRefresh_follows | apply gensLoseDatum_follows
    | apply lockFollowsDatum_follows | apply raiseDat_follows | apply datumRefresh_follows
    | apply onDatum_follows | simp only [Follows.mk_iff] | apply atNow_follows | exact Nat.le_refl _

theorem setBm_follows (b : Option (Nat × Nat)) (hF : Follows keep lock r0 s) :
    Follows keep lock r0 (setBm b s) := by
  unfold setBm
  try dsimp only
  with_reducible repeat' first
    | assumption | intro _ | apply Follows.ite | apply onDatum_follows | apply logHap_follows
    | apply raiseDat_follows | simp only [Follows.mk_iff] | apply atNow_follows | exact Nat.le_refl _
    | split

theorem clearClosure_follows  (hF : Follows keep lock r0 s) :
    Follows keep lock r0 (clearClosure s) := by
  unfold clearClosure
  try dsimp only
  with_reducible repeat' first
    | assumption | intro _ | apply Follows.ite | apply onDatum_follows | apply wr_follows
    | simp only [Follows.mk_iff] | apply atNow_follows | exact Nat.le_refl _ | split

theorem becomeBenchmark_follows  (hF : Follows keep lock r0 s) :
    Follows keep lock r0 (becomeBenchmark s) := by
  unfold becomeBenchmark
  try dsimp only
  with_reducible repeat' first
    | assumption | intro _ | apply Follows.ite | apply setRate_follows | apply onDatum_follows
    | apply datumTo_follows | apply logHap_follows | apply raiseDat_follows | apply testWaiting_follows
    | apply clearClosure_follows | simp only [Follows.mk_iff] | apply atNow_follows | exact Nat.le_refl _

theorem takeSource_follows  (hF : Follows keep lock r0 s) :
    Follows keep lock r0 (takeSource s) := by
  unfold takeSource
  try dsimp only
  with_reducible repeat' first
    | assumption | intro _ | apply Follows.ite | apply onDatum_follows | apply raiseDat_follows
    | apply clearClosure_follows | apply setBm_follows | simp only [Follows.mk_iff] | apply atNow_follows
    | exact Nat.le_refl _ | split

theorem makeChange_follows (t : Nat) (hF : Follows keep lock r0 s) :
    Follows keep lock r0 (makeChange t s) := by
  unfold makeChange
  try dsimp only
  with_reducible repeat' first
    | assumption | intro _ | apply islRefresh_follows | apply forEach_follows | apply checkLock_follows
    | apply raiseDat_follows | apply onDatum_follows | simp only [Follows.mk_iff] | apply atNow_follows
    | exact Nat.le_refl _ | split

theorem gainTerm_follows (k : Nat) (hF : Follows keep lock r0 s) :
    Follows keep lock r0 (gainTerm k s).2 := by
  unfold gainTerm
  try dsimp only
  with_reducible repeat' first
    | assumption | apply Follows.ite | apply draw_follows | refine Follows.of_snd (by assumption) ?_
    | split | dsimp only

theorem servo_follows (o : Int) (hF : Follows keep lock r0 s) :
    Follows keep lock r0 (servo o s) := by
  unfold servo
  try dsimp only
  with_reducible repeat' first
    | assumption | intro _ | apply Follows.ite | apply onDatum_follows | apply setStamp_follows
    | apply makeChange_follows | apply raiseDat_follows | apply setRate_follows | apply gainTerm_follows
    | simp only [Follows.mk_iff] | apply atNow_follows | exact Nat.le_refl _ | refine Follows.of_snd (by assumption) ?_
    | split | dsimp only

theorem closure_follows (r : Nat) (o : Int) (hF : Follows keep lock r0 s) :
    Follows keep lock r0 (closure r o s) := by
  unfold closure
  try dsimp only
  with_reducible repeat' first
    | assumption | intro _ | apply Follows.ite | apply wr_follows | apply onDatum_follows
    | apply logHap_follows | apply raiseDat_follows | simp only [Follows.mk_iff] | apply atNow_follows
    | exact Nat.le_refl _ | split

theorem offsetOf_follows (r : Nat) (o : Int) (hF : Follows keep lock r0 s) :
    Follows keep lock r0 (offsetOf r o s) := by
  unfold offsetOf
  try dsimp only
  with_reducible repeat' first
    | assumption | apply Follows.ite | apply servo_follows | apply closure_follows

theorem sendDatum_follows (r : Nat) (mk : Nat → List Byte) (hF : Follows keep lock r0 s) :
    Follows keep lock r0 (sendDatum r mk s).2 := by
  unfold sendDatum
  try dsimp only
  with_reducible repeat' first
    | assumption | intro _ | apply incMod_follows | apply onLink_follows | simp only [Follows.mk_iff]
    | apply atNow_follows | exact Nat.le_refl _ | dsimp only

theorem sendForesight_follows (r : Nat) (hF : Follows keep lock r0 s) :
    Follows keep lock r0 (sendForesight r s) := by
  unfold sendForesight
  try dsimp only
  with_reducible repeat' first
    | assumption | intro _ | apply Follows.ite | apply sendDatum_follows | apply onSide_follows
    | simp only [Follows.mk_iff] | apply atNow_follows | exact Nat.le_refl _ | refine Follows.of_snd (by assumption) ?_
    | split | dsimp only

theorem countAnswers_follows (r : Nat) (hF : Follows keep lock r0 s) :
    Follows keep lock r0 (countAnswers r s) := by
  unfold countAnswers
  try dsimp only
  with_reducible repeat' first
    | assumption | intro _ | apply Follows.ite | apply onSide_follows | apply raiseDat_follows
    | simp only [Follows.mk_iff] | apply atNow_follows | exact Nat.le_refl _ | split

theorem datumTable_follows  (hF : Follows keep lock r0 s) :
    Follows keep lock r0 (datumTable s) := by
  unfold datumTable
  try dsimp only
  with_reducible repeat' first
    | assumption | intro _ | apply Follows.ite | apply logHap_follows | apply raiseDat_follows
    | apply datumTo_follows | apply takeSource_follows | apply onDatum_follows | apply becomeBenchmark_follows
    | apply setRate_follows | simp only [Follows.mk_iff] | apply atNow_follows | exact Nat.le_refl _
    | split

theorem exchange_follows  (hF : Follows keep lock r0 s) :
    Follows keep lock r0 (exchange s) := by
  unfold exchange
  try dsimp only
  with_reducible repeat' first
    | assumption | intro _ | apply Follows.ite | apply countAnswers_follows | apply takeSource_follows
    | apply onDatum_follows | apply clearClosure_follows | apply datumTable_follows | apply sendForesight_follows
    | simp only [Follows.mk_iff] | apply atNow_follows | exact Nat.le_refl _

theorem adoptCycle_follows (c : CycRec) (hF : Follows keep lock r0 s) :
    Follows keep lock r0 (adoptCycle c s) := by
  unfold adoptCycle
  try dsimp only
  with_reducible repeat' first
    | assumption | intro _ | apply Follows.ite | apply onDatum_follows | apply testWaiting_follows
    | apply islRefresh_follows | apply forEach_follows | apply checkLock_follows | simp only [Follows.mk_iff]
    | apply atNow_follows | exact Nat.le_refl _ | split

theorem hearSyn_follows (y : SynRec) (hF : Follows keep lock r0 s) :
    Follows keep lock r0 (hearSyn y s) := by
  unfold hearSyn
  try dsimp only
  with_reducible repeat' first
    | assumption | intro _ | apply Follows.ite | apply onDatum_follows | apply raiseDat_follows
    | simp only [Follows.mk_iff] | apply atNow_follows | exact Nat.le_refl _ | split

theorem takeInbox_follows (r kind : Nat) (hF : Follows keep lock r0 s) :
    Follows keep lock r0 (takeInbox r kind s).2 := by
  unfold takeInbox
  try dsimp only
  with_reducible repeat' first
    | assumption | intro _ | simp only [Follows.mk_iff] | apply atNow_follows | exact Nat.le_refl _
    | dsimp only

theorem foresight_follows (r : Nat) (d : DatumIn) (hF : Follows keep lock r0 s) :
    Follows keep lock r0 (foresight r d s) := by
  unfold foresight
  try dsimp only
  with_reducible repeat' first
    | assumption | intro _ | apply Follows.ite | apply onSide_follows | apply onDatum_follows
    | apply raiseDat_follows | apply takeSource_follows | apply adoptCycle_follows | apply hearSyn_follows
    | apply sendDatum_follows | apply offsetOf_follows | simp only [Follows.mk_iff] | apply atNow_follows
    | exact Nat.le_refl _ | exact Nat.le_max_left _ _ | exact Nat.le_add_right _ _ | refine Follows.of_snd (by assumption) ?_
    | split | dsimp only

theorem rejectEx_follows  (hF : Follows keep lock r0 s) :
    Follows keep lock r0 (rejectEx s) := by
  unfold rejectEx
  try dsimp only
  with_reducible repeat' first
    | assumption | apply raiseDat_follows | apply incHeld_follows

theorem backsight_follows (r : Nat) (d : DatumIn) (hF : Follows keep lock r0 s) :
    Follows keep lock r0 (backsight r d s) := by
  unfold backsight
  try dsimp only
  with_reducible repeat' first
    | assumption | intro _ | apply Follows.ite | apply rejectEx_follows | apply onSide_follows
    | apply wr_follows | apply incMod_follows | apply offsetOf_follows | simp only [Follows.mk_iff]
    | apply atNow_follows | exact Nat.le_refl _ | split

theorem startCycle_follows (t number : Nat) (hF : Follows keep lock r0 s) :
    Follows keep lock r0 (startCycle t number s) := by
  unfold startCycle
  try dsimp only
  with_reducible repeat' first
    | assumption | intro _ | apply Follows.ite | apply onDatum_follows | apply makeChange_follows
    | simp only [Follows.mk_iff] | apply atNow_follows | exact Nat.le_refl _

theorem spurSides_follows  (hF : Follows keep lock r0 s) :
    Follows keep lock r0 (spurSides s) := by
  unfold spurSides
  try dsimp only
  with_reducible repeat' first
    | assumption | intro _ | apply Follows.ite | apply raiseDat_follows | apply forEach_follows
    | apply onSide_follows | simp only [Follows.mk_iff] | apply atNow_follows | exact Nat.le_refl _
    | split

theorem enableDatum_follows (on : Bool) (hF : Follows keep lock r0 s) :
    Follows keep lock r0 (enableDatum on s) := by
  unfold enableDatum
  try dsimp only
  with_reducible repeat' first
    | assumption | intro _ | apply Follows.ite | apply datumTo_follows | apply spurSides_follows
    | apply onDatum_follows | simp only [Follows.mk_iff] | apply atNow_follows | exact Nat.le_refl _
    | exact Nat.le_max_left _ _ | exact Nat.le_add_right _ _

theorem writeDatumCtl_follows (v : Word) (hF : Follows keep lock r0 s) :
    Follows keep lock r0 (writeDatumCtl v s) := by
  unfold writeDatumCtl
  try dsimp only
  with_reducible repeat' first
    | assumption | intro _ | apply Follows.ite | apply onDatum_follows | apply raiseDat_follows
    | apply makeChange_follows | apply setStamp_follows | apply datumTo_follows | simp only [Follows.mk_iff]
    | apply atNow_follows | exact Nat.le_refl _ | split

theorem writeDatum_follows (off : Nat) (v : Word) (hF : Follows keep lock r0 s) :
    Follows keep lock r0 (writeDatum off v s) := by
  unfold writeDatum
  try dsimp only
  with_reducible repeat' first
    | assumption | intro _ | apply Follows.ite | apply enableDatum_follows | apply plainWrite_follows
    | apply setRate_follows | apply writeDatumCtl_follows | apply onDatum_follows | simp only [Follows.mk_iff]
    | apply atNow_follows | exact Nat.le_refl _ | split

theorem execCycChg_follows (m : Master) (hF : Follows keep lock r0 s) :
    ∃ s1, execCycChg m s = .next s1 ∧ Follows keep lock r0 s1 := by
  refine ⟨_, rfl, ?_⟩
  try dsimp only
  with_reducible repeat' first
    | assumption | intro _ | apply byBus_follows | apply writeDatumCtl_follows

theorem execSetTime_follows (m : Master) (hF : Follows keep lock r0 s) :
    ∃ s1, execSetTime m s = .next s1 ∧ Follows keep lock r0 s1 := by
  refine ⟨_, rfl, ?_⟩
  try dsimp only
  with_reducible repeat' first
    | assumption | intro _ | apply byBus_follows | apply writeDatumCtl_follows

theorem execResync_follows (m : Master) (hF : Follows keep lock r0 s) :
    ∃ s1, execResync m s = .next s1 ∧ Follows keep lock r0 s1 := by
  refine ⟨_, rfl, ?_⟩
  try dsimp only
  with_reducible repeat' first
    | assumption | intro _ | apply byBus_follows | apply writeDatumCtl_follows

theorem execDatumEnable_follows (m : Master) (v : Word) (hF : Follows keep lock r0 s) :
    ∃ s1, execDatumEnable m v s = .next s1 ∧ Follows keep lock r0 s1 := by
  refine ⟨_, rfl, ?_⟩
  try dsimp only
  with_reducible repeat' first
    | assumption | intro _ | apply byBus_follows | apply rwlPath_follows | apply writeDatum_follows

theorem execTimeLoRead_follows (m : Master) (hF : Follows keep lock r0 s) :
    ∃ s1, execTimeLoRead m s = .next s1 ∧ Follows keep lock r0 s1 := by
  refine ⟨_, rfl, ?_⟩
  try dsimp only
  with_reducible repeat' first
    | assumption | intro _ | apply readAt_follows | apply respond_follows | apply wr_follows

theorem execElectionTimeout_follows  (hF : Follows keep lock r0 s) :
    ∃ s1, execElectionTimeout s = .next s1 ∧ Follows keep lock r0 s1 := by
  refine ⟨_, rfl, ?_⟩
  try dsimp only
  with_reducible repeat' first
    | assumption | apply Follows.ite | apply becomeBenchmark_follows | apply upto_follows
    | split

theorem execExchangeInterval_follows  (hF : Follows keep lock r0 s) :
    ∃ s1, execExchangeInterval s = .next s1 ∧ Follows keep lock r0 s1 := by
  refine ⟨_, rfl, ?_⟩
  try dsimp only
  with_reducible repeat' first
    | assumption | intro _ | apply Follows.ite | apply upto_follows | apply exchange_follows
    | apply onDatum_follows | simp only [Follows.mk_iff] | apply atNow_follows | exact Nat.le_refl _
    | split

theorem execForesightReceived_follows (r : Fin 2) (hF : Follows keep lock r0 s) :
    ∃ s1, execForesightReceived r s = .next s1 ∧ Follows keep lock r0 s1 := by
  refine ⟨_, rfl, ?_⟩
  try dsimp only
  with_reducible repeat' first
    | assumption | apply takeInbox_follows | apply foresight_follows | simp only [Follows.mk_iff]
    | apply atNow_follows | exact Nat.le_refl _ | refine Follows.of_snd (by assumption) ?_
    | split | dsimp only

theorem execBacksightReceived_follows (r : Fin 2) (hF : Follows keep lock r0 s) :
    ∃ s1, execBacksightReceived r s = .next s1 ∧ Follows keep lock r0 s1 := by
  refine ⟨_, rfl, ?_⟩
  try dsimp only
  with_reducible repeat' first
    | assumption | apply takeInbox_follows | apply backsight_follows | simp only [Follows.mk_iff]
    | apply atNow_follows | exact Nat.le_refl _ | refine Follows.of_snd (by assumption) ?_
    | split | dsimp only

theorem datumReset_follows  (hF : Follows keep lock r0 s) :
    Follows keep lock r0 (datumReset s) := by
  unfold datumReset
  try dsimp only
  with_reducible repeat' first
    | assumption | apply datumTo_follows | simp only [Follows.mk_iff] | apply atNow_follows
    | exact Nat.le_refl _

end Sys2Proof.Machine
end

