-- ==== Sys2Proof/Laws/FollowPair.lean ====
section
/-! SUPPORT. What the operations of Machine/Pair.lean keep (Laws/Follows.lean). -/

set_option linter.unusedTactic false
set_option linter.unreachableTactic false
set_option linter.unusedVariables false

namespace Sys2Proof.Machine

variable {keep lock : Bool} {r0 s : State}

theorem onPair_follows (f : Pair → Pair) (hF : Follows keep lock r0 s) :
    Follows keep lock r0 (onPair f s) := by
  unfold onPair
  try dsimp only
  with_reducible repeat' first
    | assumption | simp only [Follows.mk_iff] | apply atNow_follows | exact Nat.le_refl _

theorem raisePair_follows (k : Nat) (hF : Follows keep lock r0 s) :
    Follows keep lock r0 (raisePair k s) := by
  unfold raisePair
  try dsimp only
  with_reducible repeat' first
    | assumption | apply raise_follows

theorem pairCapture_follows (num : Nat) (nodat : Bool) (hF : Follows keep lock r0 s) :
    Follows keep lock r0 (pairCapture num nodat s) := by
  unfold pairCapture
  try dsimp only
  with_reducible repeat' first
    | assumption | intro _ | apply Follows.ite | apply sramCheck_follows | apply onPair_follows
    | simp only [Follows.mk_iff] | apply atNow_follows | exact Nat.le_refl _ | exact Nat.le_max_left _ _
    | exact Nat.le_add_right _ _ | split

theorem pairPassStart_follows (n : Nat) (hF : Follows keep lock r0 s) :
    Follows keep lock r0 (pairPassStart n s) := by
  unfold pairPassStart
  try dsimp only
  with_reducible repeat' first
    | assumption | intro _ | apply Follows.ite | apply onPair_follows | simp only [Follows.mk_iff]
    | apply atNow_follows | exact Nat.le_refl _ | split

theorem sendFrame_follows (f : List Byte) (hF : Follows keep lock r0 s) :
    Follows keep lock r0 (sendFrame f s) := by
  unfold sendFrame
  try dsimp only
  with_reducible repeat' first
    | assumption | intro _ | apply onPair_follows | simp only [Follows.mk_iff] | apply atNow_follows
    | exact Nat.le_refl _

theorem badFrame_follows  (hF : Follows keep lock r0 s) :
    Follows keep lock r0 (badFrame s) := by
  unfold badFrame
  try dsimp only
  with_reducible repeat' first
    | assumption | apply incHeld_follows

theorem ckBad_follows  (hF : Follows keep lock r0 s) :
    Follows keep lock r0 (ckBad s) := by
  unfold ckBad
  try dsimp only
  with_reducible repeat' first
    | assumption | intro _ | apply raisePair_follows | apply onPair_follows | simp only [Follows.mk_iff]
    | apply atNow_follows | exact Nat.le_refl _

theorem ckInstall_follows (c : Ckpt) (hF : Follows false lock r0 s) :
    Follows false lock r0 (ckInstall c s) := by
  unfold ckInstall
  try dsimp only
  with_reducible repeat' first
    | assumption | intro _ | apply forEach_follows | apply memWrBytes_follows | apply memWrWord_follows
    | apply sramWrite_follows

theorem claimOff_follows  (hF : Follows keep lock r0 s) :
    Follows keep lock r0 (claimOff s) := by
  unfold claimOff
  try dsimp only
  with_reducible repeat' first
    | assumption | intro _ | apply Follows.ite | apply settle_follows | apply onPair_follows
    | simp only [Follows.mk_iff] | apply atNow_follows | exact Nat.le_refl _

theorem claimsMeet_follows  (hF : Follows keep lock r0 s) :
    Follows keep lock r0 (claimsMeet s) := by
  unfold claimsMeet
  try dsimp only
  with_reducible repeat' first
    | assumption | apply Follows.ite | apply raisePair_follows | apply incHeld_follows

theorem yieldClaim_follows  (hF : Follows keep lock r0 s) :
    Follows keep lock r0 (yieldClaim s) := by
  unfold yieldClaim
  try dsimp only
  with_reducible repeat' first
    | assumption | intro _ | apply Follows.ite | apply claimOff_follows | apply onPair_follows
    | simp only [Follows.mk_iff] | apply atNow_follows | exact Nat.le_refl _

theorem stopLanes_follows  (hF : Follows false lock r0 s) :
    Follows false lock r0 (stopLanes s) := by
  unfold stopLanes
  try dsimp only
  with_reducible repeat' first
    | assumption | intro _ | apply Follows.ite | apply forEach_follows | apply writeLaneCtrl_follows

theorem pairTo_follows (st : Nat) (hF : Follows false lock r0 s) :
    Follows false lock r0 (pairTo st s) := by
  unfold pairTo
  try dsimp only
  with_reducible repeat' first
    | assumption | intro _ | apply Follows.ite | apply onPair_follows | apply claimOff_follows
    | apply stopLanes_follows | apply raisePair_follows | apply logHap_follows | simp only [Follows.mk_iff]
    | apply atNow_follows | exact Nat.le_refl _

theorem startClaim_follows (takeback : Bool) (hF : Follows false lock r0 s) :
    Follows false lock r0 (startClaim takeback s) := by
  unfold startClaim
  try dsimp only
  with_reducible repeat' first
    | assumption | intro _ | apply Follows.ite | apply ckBad_follows | apply pairTo_follows
    | apply onPair_follows | simp only [Follows.mk_iff] | apply atNow_follows | exact Nat.le_refl _
    | exact Nat.le_max_left _ _ | exact Nat.le_add_right _ _

theorem keepWell_follows  (hF : Follows keep lock r0 s) :
    Follows keep lock r0 (keepWell s) := by
  unfold keepWell
  try dsimp only
  with_reducible repeat' first
    | assumption | intro _ | apply Follows.ite | apply onPair_follows | simp only [Follows.mk_iff]
    | apply atNow_follows | exact Nat.le_refl _ | exact Nat.le_max_left _ _ | exact Nat.le_add_right _ _

theorem enterActive_follows  (hF : Follows false lock r0 s) :
    Follows false lock r0 (enterActive s) := by
  unfold enterActive
  try dsimp only
  with_reducible repeat' first
    | assumption | intro _ | apply Follows.ite | apply incHeld_follows | apply pairTo_follows
    | apply onPair_follows | simp only [Follows.mk_iff] | apply atNow_follows | exact Nat.le_refl _
    | exact Nat.le_max_left _ _ | exact Nat.le_add_right _ _

theorem claimFails_follows  (hF : Follows false lock r0 s) :
    Follows false lock r0 (claimFails s) := by
  unfold claimFails
  try dsimp only
  with_reducible repeat' first
    | assumption | apply raisePair_follows | apply pairTo_follows

theorem startCold_follows  (hF : Follows false lock r0 s) :
    Follows false lock r0 (startCold s) := by
  unfold startCold
  try dsimp only
  with_reducible repeat' first
    | assumption | intro _ | apply pairTo_follows | apply onPair_follows | simp only [Follows.mk_iff]
    | apply atNow_follows | exact Nat.le_refl _

theorem pairTable_follows  (hF : Follows false lock r0 s) :
    Follows false lock r0 (pairTable s) := by
  unfold pairTable
  try dsimp only
  with_reducible repeat' first
    | assumption | apply Follows.ite | apply pairTo_follows | apply enterActive_follows
    | apply claimFails_follows | apply startCold_follows | apply startClaim_follows | simp only [Follows.mk_iff]
    | apply atNow_follows | exact Nat.le_refl _ | split

theorem pairArmed_follows (start : Nat) (legs : List Nat) (hF : Follows keep lock r0 s) :
    Follows keep lock r0 (pairArmed start legs s) := by
  unfold pairArmed
  try dsimp only
  with_reducible repeat' first
    | assumption | intro _ | apply Follows.ite | apply onPair_follows | simp only [Follows.mk_iff]
    | apply atNow_follows | exact Nat.le_refl _

theorem pairBoundary_follows (d : Nat) (committed : List Nat) (hF : Follows keep lock r0 s) :
    Follows keep lock r0 (pairBoundary d committed s) := by
  unfold pairBoundary
  try dsimp only
  with_reducible repeat' first
    | assumption | intro _ | apply Follows.ite | apply onPair_follows | apply checkOutEn_follows
    | apply settle_follows | simp only [Follows.mk_iff] | apply atNow_follows | exact Nat.le_refl _

theorem pairReset_follows  (hF : Follows keep lock r0 s) :
    Follows keep lock r0 (pairReset s) := by
  unfold pairReset
  try dsimp only
  with_reducible repeat' first
    | assumption | apply settle_follows | apply wrb_follows | simp only [Follows.mk_iff]
    | apply atNow_follows | exact Nat.le_refl _

theorem writePair_follows (off : Nat) (v : Word) (hF : Follows false lock r0 s) :
    Follows false lock r0 (writePair off v s) := by
  unfold writePair
  try dsimp only
  with_reducible repeat' first
    | assumption | intro _ | apply Follows.ite | apply plainWrite_follows | apply pairTo_follows
    | apply settle_follows | apply wrb_follows | apply onPair_follows | simp only [Follows.mk_iff]
    | apply atNow_follows | exact Nat.le_refl _ | exact Nat.le_max_left _ _ | exact Nat.le_add_right _ _

theorem writePairCtl_follows (v : Word) (hF : Follows keep lock r0 s) :
    Follows keep lock r0 (writePairCtl v s) := by
  unfold writePairCtl
  try dsimp only
  with_reducible repeat' first
    | assumption | intro _ | apply Follows.ite | apply onPair_follows | simp only [Follows.mk_iff]
    | apply atNow_follows | exact Nat.le_refl _ | exact Nat.le_max_left _ _ | exact Nat.le_add_right _ _
    | split

theorem watchStuck_follows  (hF : Follows keep lock r0 s) :
    Follows keep lock r0 (watchStuck s) := by
  unfold watchStuck
  try dsimp only
  with_reducible repeat' first
    | assumption | intro _ | apply Follows.ite | apply onPair_follows | simp only [Follows.mk_iff]
    | apply atNow_follows | exact Nat.le_refl _ | exact Nat.le_max_left _ _ | exact Nat.le_add_right _ _

theorem takeHeartbeat_follows (ring : Bool) (b : List Byte) (hF : Follows keep lock r0 s) :
    Follows keep lock r0 (takeHeartbeat ring b s) := by
  unfold takeHeartbeat
  try dsimp only
  with_reducible repeat' first
    | assumption | intro _ | apply Follows.ite | apply onPair_follows | apply wr_follows
    | apply raisePair_follows | apply watchStuck_follows | simp only [Follows.mk_iff] | apply atNow_follows
    | exact Nat.le_refl _ | exact Nat.le_max_left _ _ | exact Nat.le_add_right _ _

theorem execPairEnable_follows (m : Master) (v : Word) (hF : Follows false lock r0 s) :
    ∃ s1, execPairEnable m v s = .next s1 ∧ Follows false lock r0 s1 := by
  refine ⟨_, rfl, ?_⟩
  try dsimp only
  with_reducible repeat' first
    | assumption | intro _ | apply byBus_follows | apply rwlPath_follows | apply writePair_follows

theorem execGo_follows (m : Master) (hF : Follows keep lock r0 s) :
    ∃ s1, execGo m s = .next s1 ∧ Follows keep lock r0 s1 := by
  refine ⟨_, rfl, ?_⟩
  try dsimp only
  with_reducible repeat' first
    | assumption | intro _ | apply byBus_follows | apply writePairCtl_follows

theorem execGive_follows (m : Master) (hF : Follows keep lock r0 s) :
    ∃ s1, execGive m s = .next s1 ∧ Follows keep lock r0 s1 := by
  refine ⟨_, rfl, ?_⟩
  try dsimp only
  with_reducible repeat' first
    | assumption | intro _ | apply byBus_follows | apply writePairCtl_follows

theorem execKeep_follows (m : Master) (hF : Follows keep lock r0 s) :
    ∃ s1, execKeep m s = .next s1 ∧ Follows keep lock r0 s1 := by
  refine ⟨_, rfl, ?_⟩
  try dsimp only
  with_reducible repeat' first
    | assumption | intro _ | apply byBus_follows | apply writePairCtl_follows

theorem execPairClr_follows (m : Master) (hF : Follows keep lock r0 s) :
    ∃ s1, execPairClr m s = .next s1 ∧ Follows keep lock r0 s1 := by
  refine ⟨_, rfl, ?_⟩
  try dsimp only
  with_reducible repeat' first
    | assumption | intro _ | apply byBus_follows | apply writePairCtl_follows

theorem execHeartbeatSend_follows  (hF : Follows false lock r0 s) :
    ∃ s1, execHeartbeatSend s = .next s1 ∧ Follows false lock r0 s1 := by
  refine ⟨_, rfl, ?_⟩
  try dsimp only
  with_reducible repeat' first
    | assumption | intro _ | apply Follows.ite | apply onPair_follows | apply upto_follows
    | apply sendFrame_follows | apply streamPut_follows | simp only [Follows.mk_iff] | apply atNow_follows
    | exact Nat.le_refl _ | refine Follows.of_snd (by assumption) ?_ | split | dsimp only

theorem execHeartbeatReceived_follows (ring : Bool) (frame : List Byte) (bad : Bool) (hF : Follows keep lock r0 s) :
    ∃ s1, execHeartbeatReceived ring frame bad s = .next s1 ∧ Follows keep lock r0 s1 := by
  refine ⟨_, rfl, ?_⟩
  try dsimp only
  with_reducible repeat' first
    | assumption | apply Follows.ite | apply streamTake_follows | apply takeHeartbeat_follows
    | apply badFrame_follows | simp only [Follows.mk_iff] | apply atNow_follows | exact Nat.le_refl _
    | refine Follows.of_snd (by assumption) ?_ | split | dsimp only

theorem execPathTimeout_follows (ring : Bool) (hF : Follows keep lock r0 s) :
    ∃ s1, execPathTimeout ring s = .next s1 ∧ Follows keep lock r0 s1 := by
  refine ⟨_, rfl, ?_⟩
  try dsimp only
  with_reducible repeat' first
    | assumption | intro _ | apply Follows.ite | apply upto_follows | apply onPair_follows
    | apply raisePair_follows | apply plumbEval_follows | simp only [Follows.mk_iff] | apply atNow_follows
    | exact Nat.le_refl _ | exact Nat.le_max_left _ _ | exact Nat.le_add_right _ _ | split

theorem execPairEvaluation_follows  (hF : Follows false lock r0 s) :
    ∃ s1, execPairEvaluation s = .next s1 ∧ Follows false lock r0 s1 := by
  refine ⟨_, rfl, ?_⟩
  try dsimp only
  with_reducible repeat' first
    | assumption | intro _ | apply Follows.ite | apply upto_follows | apply pairTable_follows
    | apply keepWell_follows | apply onPair_follows | simp only [Follows.mk_iff] | apply atNow_follows
    | exact Nat.le_refl _ | split

theorem execLivenessTimeout_follows  (hF : Follows false lock r0 s) :
    ∃ s1, execLivenessTimeout s = .next s1 ∧ Follows false lock r0 s1 := by
  refine ⟨_, rfl, ?_⟩
  try dsimp only
  with_reducible repeat' first
    | assumption | apply Follows.ite | apply pairTo_follows | apply upto_follows
    | split

theorem execClaimPeerChange_follows (low : Bool) (hF : Follows keep lock r0 s) :
    ∃ s1, execClaimPeerChange low s = .next s1 ∧ Follows keep lock r0 s1 := by
  refine ⟨_, rfl, ?_⟩
  try dsimp only
  with_reducible repeat' first
    | assumption | intro _ | apply Follows.ite | apply onPair_follows | apply settle_follows
    | apply watchStuck_follows | apply yieldClaim_follows | apply claimsMeet_follows | simp only [Follows.mk_iff]
    | apply atNow_follows | exact Nat.le_refl _ | exact Nat.le_max_left _ _ | exact Nat.le_add_right _ _
    | split

theorem execClaimSettle_follows  (hF : Follows keep lock r0 s) :
    ∃ s1, execClaimSettle s = .next s1 ∧ Follows keep lock r0 s1 := by
  refine ⟨_, rfl, ?_⟩
  try dsimp only
  with_reducible repeat' first
    | assumption | intro _ | apply Follows.ite | apply onPair_follows | apply upto_follows
    | simp only [Follows.mk_iff] | apply atNow_follows | exact Nat.le_refl _ | split

theorem execClaimTimeout_follows  (hF : Follows false lock r0 s) :
    ∃ s1, execClaimTimeout s = .next s1 ∧ Follows false lock r0 s1 := by
  refine ⟨_, rfl, ?_⟩
  try dsimp only
  with_reducible repeat' first
    | assumption | apply Follows.ite | apply claimFails_follows | apply upto_follows
    | split

theorem execInstallDone_follows  (hF : Follows false lock r0 s) :
    ∃ s1, execInstallDone s = .next s1 ∧ Follows false lock r0 s1 := by
  refine ⟨_, rfl, ?_⟩
  try dsimp only
  with_reducible repeat' first
    | assumption | intro _ | apply Follows.ite | apply ckInstall_follows | apply raisePair_follows
    | apply onPair_follows | apply forEach_follows | apply writeLaneCtrl_follows | apply yieldClaim_follows
    | apply claimsMeet_follows | simp only [Follows.mk_iff] | apply atNow_follows | exact Nat.le_refl _
    | exact Nat.le_max_left _ _ | exact Nat.le_add_right _ _ | split

theorem execStartWait_follows  (hF : Follows false lock r0 s) :
    ∃ s1, execStartWait s = .next s1 ∧ Follows false lock r0 s1 := by
  refine ⟨_, rfl, ?_⟩
  try dsimp only
  with_reducible repeat' first
    | assumption | apply Follows.ite | apply startCold_follows | apply upto_follows
    | split

theorem execPeerStuck_follows  (hF : Follows keep lock r0 s) :
    ∃ s1, execPeerStuck s = .next s1 ∧ Follows keep lock r0 s1 := by
  refine ⟨_, rfl, ?_⟩
  try dsimp only
  with_reducible repeat' first
    | assumption | apply Follows.ite | apply raisePair_follows | apply upto_follows
    | simp only [Follows.mk_iff] | apply atNow_follows | exact Nat.le_refl _ | split

theorem execLocalCapture_follows  (hF : Follows keep lock r0 s) :
    ∃ s1, execLocalCapture s = .next s1 ∧ Follows keep lock r0 s1 := by
  refine ⟨_, rfl, ?_⟩
  try dsimp only
  with_reducible repeat' first
    | assumption | apply Follows.ite | apply upto_follows | apply pairCapture_follows
    | split

theorem execSegmentSend_follows  (hF : Follows keep lock r0 s) :
    ∃ s1, execSegmentSend s = .next s1 ∧ Follows keep lock r0 s1 := by
  refine ⟨_, rfl, ?_⟩
  try dsimp only
  with_reducible repeat' first
    | assumption | intro _ | apply Follows.ite | apply upto_follows | apply sendFrame_follows
    | apply wr_follows | apply onPair_follows | simp only [Follows.mk_iff] | apply atNow_follows
    | exact Nat.le_refl _ | split

theorem ckFinish_follows (bs : List Byte) (segs from' : Nat) (hF : Follows false lock r0 s) :
    Follows false lock r0 (ckFinish bs segs from' s) := by
  unfold ckFinish
  try dsimp only
  with_reducible repeat' first
    | assumption | intro _ | apply Follows.ite | apply ckBad_follows | apply onPair_follows
    | apply raisePair_follows | apply wr_follows | apply startClaim_follows | simp only [Follows.mk_iff]
    | apply atNow_follows | exact Nat.le_refl _ | split

theorem execSegmentReceived_follows (frame : List Byte) (bad : Bool) (hF : Follows false lock r0 s) :
    ∃ s1, execSegmentReceived frame bad s = .next s1 ∧ Follows false lock r0 s1 := by
  refine ⟨_, rfl, ?_⟩
  try dsimp only
  with_reducible repeat' first
    | assumption | intro _ | apply Follows.ite | apply badFrame_follows | apply onPair_follows
    | apply ckBad_follows | apply ckFinish_follows | simp only [Follows.mk_iff] | apply atNow_follows
    | exact Nat.le_refl _ | exact Nat.le_max_left _ _ | exact Nat.le_add_right _ _ | split

end Sys2Proof.Machine
end

