-- ==== Sys2Proof/Laws/FollowRouter.lean ====
section
/-! SUPPORT. What the operations of Machine/Router.lean keep (Laws/Follows.lean). -/

set_option linter.unusedTactic false
set_option linter.unreachableTactic false
set_option linter.unusedVariables false

namespace Sys2Proof.Machine

variable {keep lock : Bool} {r0 s : State}

theorem pulse_follows (n : Nat) (hF : Follows keep lock r0 s) :
    Follows keep lock r0 (pulse n s) := by
  unfold pulse
  try dsimp only
  with_reducible repeat' first
    | assumption | intro _ | apply Follows.ite | apply forEach_follows | apply latchSet_follows
    | apply onAdc_follows | simp only [Follows.mk_iff] | apply atNow_follows | exact Nat.le_refl _

theorem raiseEvr_follows (k : Nat) (hF : Follows keep lock r0 s) :
    Follows keep lock r0 (raiseEvr k s) := by
  unfold raiseEvr
  try dsimp only
  with_reducible repeat' first
    | assumption | apply Follows.ite | apply raise_follows

theorem record_follows (n src : Nat) (o : Occ) (hF : Follows keep lock r0 s) :
    Follows keep lock r0 (record n src o s) := by
  unfold record
  dsimp only
  split; · exact hF
  split
  · next hl => exact setChan_follows _ _ (fun _ => by simpa using hl) hF
  · exact raiseEvr_follows _ (setChan_follows _ _ (fun g => chan_length g n) hF)

theorem headDone_follows (n src : Nat) (hF : Follows keep lock r0 s) :
    Follows keep lock r0 (headDone n src s) := by
  unfold headDone
  dsimp only
  split; · exact hF
  next o os hq =>
    have hl : Good s → os.length + 1 ≤ 4 := fun g => by have := srcQ_length g src; rwa [hq] at this
    split; · exact setSrcQ_follows _ _ hl hF
    split
    · exact setSrcQ_follows _ _ (fun _ => Nat.zero_le _) hF
    · exact setSrcQ_follows _ _ (fun g => by have := hl g; simp at this ⊢; omega) hF

theorem promote_follows (e : Nat) (hF : Follows keep lock r0 s) :
    Follows keep lock r0 (promote e s) := by
  unfold promote
  dsimp only
  split; · exact hF
  next o os hq =>
    split; · exact hF
    refine raiseEvr_follows _ (incMod_follows _ _ _ (forEach_follows ?_ ?_))
    · intro n s hs
      exact setChan_follows _ _ (fun g => chan_length g n) hs
    · refine setSrcQ_follows _ _ (fun g => ?_) (upto_follows _ hF)
      have hu : srcQ (upto (o.since + deadline s (fld o.route 16 2)) s) e = srcQ s e := rfl
      have := srcQ_length g e
      rw [hu, hq] at this
      simpa using this

theorem promoteDue_follows (n : Nat) (hF : Follows keep lock r0 s) :
    Follows keep lock r0 (promoteDue n s) := by
  unfold promoteDue
  try dsimp only
  with_reducible repeat' first
    | assumption | intro _ | apply forEach_follows | apply promote_follows

theorem deliver_follows (n : Nat) (hF : Follows keep lock r0 s) :
    Follows keep lock r0 (deliver n s) := by
  unfold deliver
  split; · exact hF
  have hu := promoteDue_follows n (upto_follows (chan s n).nextFree hF)
  dsimp only
  split; · exact hu
  exact record_follows _ _ _ (pulse_follows _ (headDone_follows _ _ (pmcCount_follows _ _ _
    (setChan_follows _ _ (fun g => chan_length g n) hu))))

theorem readRec0_follows (n : Nat) (hF : Follows keep lock r0 s) :
    Follows keep lock r0 (readRec0 n s) := by
  unfold readRec0
  dsimp only
  split
  · exact respond_follows _ (setChan_follows _ _ (fun g => chan_length g n) hF)
  · next a b rs hq =>
    refine respond_follows _ (setChan_follows _ _ (fun g => ?_) hF)
    have := chan_length g n
    rw [hq] at this
    exact Nat.le_of_succ_le this

theorem putEntry_follows (e : LogEnt) (hF : Follows keep lock r0 s) :
    Follows keep lock r0 (putEntry e s) := by
  unfold putEntry
  try dsimp only
  with_reducible repeat' first
    | assumption | apply Follows.ite | simp only [Follows.mk_iff] | apply atNow_follows
    | exact Nat.le_refl _ | split

theorem dropEntry_follows (full : Bool) (hF : Follows keep lock r0 s) :
    Follows keep lock r0 (dropEntry full s) := by
  unfold dropEntry
  try dsimp only
  with_reducible repeat' first
    | assumption | apply Follows.ite | apply raiseEvr_follows | simp only [Follows.mk_iff]
    | apply atNow_follows | exact Nat.le_refl _ | split

theorem putMark_follows (m : LogEnt) (hF : Follows keep lock r0 s) :
    Follows keep lock r0 (putMark m s) := by
  unfold putMark
  try dsimp only
  with_reducible repeat' first
    | assumption | apply Follows.ite | apply putEntry_follows

theorem putBaseMark_follows (e : LogEnt) (hF : Follows keep lock r0 s) :
    Follows keep lock r0 (putBaseMark e s) := by
  unfold putBaseMark
  try dsimp only
  with_reducible repeat' first
    | assumption | apply Follows.ite | apply putMark_follows | simp only [Follows.mk_iff]
    | apply atNow_follows | exact Nat.le_refl _

theorem putMarks_follows (e : LogEnt) (hF : Follows keep lock r0 s) :
    Follows keep lock r0 (putMarks e s) := by
  unfold putMarks
  try dsimp only
  with_reducible repeat' first
    | assumption | apply Follows.ite | apply putBaseMark_follows | apply putEntry_follows
    | simp only [Follows.mk_iff] | apply atNow_follows | exact Nat.le_refl _ | split

theorem markSpan_follows (e : LogEnt) (hF : Follows keep lock r0 s) :
    Follows keep lock r0 (markSpan e s) := by
  unfold markSpan
  try dsimp only
  with_reducible repeat' first
    | assumption | apply Follows.ite | simp only [Follows.mk_iff] | apply atNow_follows
    | exact Nat.le_refl _

theorem appendEntry_follows (e : LogEnt) (hF : Follows keep lock r0 s) :
    Follows keep lock r0 (appendEntry e s) := by
  unfold appendEntry
  try dsimp only
  with_reducible repeat' first
    | assumption | apply Follows.ite | apply markSpan_follows | apply dropEntry_follows
    | apply putMarks_follows | apply putEntry_follows | apply raiseEvr_follows | simp only [Follows.mk_iff]
    | apply atNow_follows | exact Nat.le_refl _

theorem writeNext_follows  (hF : Follows keep lock r0 s) :
    Follows keep lock r0 (writeNext s) := by
  unfold writeNext
  try dsimp only
  with_reducible repeat' first
    | assumption | apply appendEntry_follows | simp only [Follows.mk_iff] | apply atNow_follows
    | exact Nat.le_refl _ | split

theorem submitEntry_follows (e : LogEnt) (hF : Follows keep lock r0 s) :
    Follows keep lock r0 (submitEntry e s) := by
  unfold submitEntry
  try dsimp only
  with_reducible repeat' first
    | assumption | apply Follows.ite | apply appendEntry_follows | apply writeNext_follows
    | simp only [Follows.mk_iff] | apply atNow_follows | exact Nat.le_refl _

theorem rtcSetMark_follows (old new : Nat) (hF : Follows keep lock r0 s) :
    Follows keep lock r0 (rtcSetMark old new s) := by
  unfold rtcSetMark
  try dsimp only
  with_reducible repeat' first
    | assumption | apply Follows.ite | apply submitEntry_follows | simp only [Follows.mk_iff]
    | apply atNow_follows | exact Nat.le_refl _

theorem nextSubmit_follows  (hF : Follows keep lock r0 s) :
    Follows keep lock r0 (nextSubmit s).2 := by
  unfold nextSubmit
  try dsimp only
  with_reducible repeat' first
    | assumption | intro _ | apply Follows.ite | apply draw_follows | simp only [Follows.mk_iff]
    | apply atNow_follows | exact Nat.le_refl _ | refine Follows.of_snd (by assumption) ?_
    | split | dsimp only

theorem submitLog_follows  (hF : Follows keep lock r0 s) :
    Follows keep lock r0 (submitLog s) := by
  unfold submitLog
  try dsimp only
  with_reducible repeat' first
    | assumption | apply Follows.ite | apply nextSubmit_follows | apply submitEntry_follows
    | simp only [Follows.mk_iff] | apply atNow_follows | exact Nat.le_refl _ | refine Follows.of_snd (by assumption) ?_
    | split | dsimp only

theorem goLog_follows (code : Nat) (hF : Follows keep lock r0 s) :
    Follows keep lock r0 (goLog code s) := by
  unfold goLog
  try dsimp only
  with_reducible repeat' first
    | assumption | intro _ | apply submitEntry_follows

theorem emptyLog_follows  (hF : Follows keep lock r0 s) :
    Follows keep lock r0 (emptyLog s) := by
  unfold emptyLog
  try dsimp only
  with_reducible repeat' first
    | assumption | simp only [Follows.mk_iff] | apply atNow_follows | exact Nat.le_refl _

theorem keepStopFull_follows  (hF : Follows keep lock r0 s) :
    Follows keep lock r0 (keepStopFull s) := by
  unfold keepStopFull
  try dsimp only
  with_reducible repeat' first
    | assumption | simp only [Follows.mk_iff] | apply atNow_follows | exact Nat.le_refl _

theorem logToValley_follows  (hF : Follows keep lock r0 s) :
    Follows keep lock r0 (logToValley s) := by
  unfold logToValley
  try dsimp only
  with_reducible repeat' first
    | assumption | apply Follows.ite | apply baseTurn_follows | simp only [Follows.mk_iff]
    | apply atNow_follows | exact Nat.le_refl _

theorem valleyMark_follows  (hF : Follows keep lock r0 s) :
    Follows keep lock r0 (valleyMark s) := by
  unfold valleyMark
  try dsimp only
  with_reducible repeat' first
    | assumption | apply Follows.ite | apply dropEntry_follows | apply putMark_follows
    | split

theorem replayLog_follows  (hF : Follows keep lock r0 s) :
    Follows keep lock r0 (replayLog s) := by
  unfold replayLog
  try dsimp only
  with_reducible repeat' first
    | assumption | intro _ | apply Follows.ite | apply raiseEvr_follows | simp only [Follows.mk_iff]
    | apply atNow_follows | exact Nat.le_refl _ | split

theorem execDelivery_follows (n : Fin 64) (hF : Follows keep lock r0 s) :
    ∃ s1, execDelivery n s = .next s1 ∧ Follows keep lock r0 s1 := by
  refine ⟨_, rfl, ?_⟩
  try dsimp only
  with_reducible repeat' first
    | assumption | apply Follows.ite | apply deliver_follows

theorem execPromotion_follows (e : Fin 512) (hF : Follows keep lock r0 s) :
    ∃ s1, execPromotion e s = .next s1 ∧ Follows keep lock r0 s1 := by
  refine ⟨_, rfl, ?_⟩
  try dsimp only
  with_reducible repeat' first
    | assumption | apply Follows.ite | apply promote_follows

theorem execDeadlineWrite_follows (m : Master) (i : Fin 3) (v : BitVec 16) (hF : Follows keep lock r0 s) :
    ∃ s1, execDeadlineWrite m i v s = .next s1 ∧ Follows keep lock r0 s1 := by
  refine ⟨_, rfl, ?_⟩
  try dsimp only
  with_reducible repeat' first
    | assumption | intro _ | apply byBus_follows | apply rwlPath_follows | apply plainWrite_follows

theorem execRec0Read_follows (m : Master) (n : Fin 64) (hF : Follows keep lock r0 s) :
    ∃ s1, execRec0Read m n s = .next s1 ∧ Follows keep lock r0 s1 := by
  refine ⟨_, rfl, ?_⟩
  try dsimp only
  with_reducible repeat' first
    | assumption | intro _ | apply readAt_follows | apply readRec0_follows

theorem execSwRaise_follows (m : Master) (v : Byte) (hF : Follows keep lock r0 s) :
    ∃ s1, execSwRaise m v s = .next s1 ∧ Follows keep lock r0 s1 := by
  refine ⟨_, rfl, ?_⟩
  try dsimp only
  with_reducible repeat' first
    | assumption | intro _ | apply byBus_follows | apply forEach_follows | apply occur_follows

theorem execLogSubmit_follows  (hF : Follows keep lock r0 s) :
    ∃ s1, execLogSubmit s = .next s1 ∧ Follows keep lock r0 s1 := by
  refine ⟨_, rfl, ?_⟩
  try dsimp only
  with_reducible repeat' first
    | assumption | apply submitLog_follows

theorem execGoLog_follows (m : Master) (code : Byte) (hF : Follows keep lock r0 s) :
    ∃ s1, execGoLog m code s = .next s1 ∧ Follows keep lock r0 s1 := by
  refine ⟨_, rfl, ?_⟩
  try dsimp only
  with_reducible repeat' first
    | assumption | intro _ | apply byBus_follows | apply goLog_follows

theorem execLogWrite_follows  (hF : Follows keep lock r0 s) :
    ∃ s1, execLogWrite s = .next s1 ∧ Follows keep lock r0 s1 := by
  refine ⟨_, rfl, ?_⟩
  try dsimp only
  with_reducible repeat' first
    | assumption | apply Follows.ite | apply writeNext_follows | apply upto_follows
    | simp only [Follows.mk_iff] | apply atNow_follows | exact Nat.le_refl _ | split

theorem execLogDataRead_follows (m : Master) (hF : Follows keep lock r0 s) :
    ∃ s1, execLogDataRead m s = .next s1 ∧ Follows keep lock r0 s1 := by
  refine ⟨_, rfl, ?_⟩
  try dsimp only
  with_reducible repeat' first
    | assumption | intro _ | apply Follows.ite | apply readAt_follows | apply wrb_follows
    | apply wrf_follows | apply respond_follows | simp only [Follows.mk_iff] | apply atNow_follows
    | exact Nat.le_refl _

theorem clearLogFull_follows  (hF : Follows keep lock r0 s) :
    Follows keep lock r0 (clearLogFull s) := by
  unfold clearLogFull
  try dsimp only
  with_reducible repeat' first
    | assumption | apply Follows.ite | apply emptyLog_follows | apply putEntry_follows

theorem execLogFullClear_follows (m : Master) (hF : Follows keep lock r0 s) :
    ∃ s1, execLogFullClear m s = .next s1 ∧ Follows keep lock r0 s1 := by
  refine ⟨_, rfl, ?_⟩
  try dsimp only
  with_reducible repeat' first
    | assumption | intro _ | apply byBus_follows | apply clearLogFull_follows

theorem execReplayDone_follows  (hF : Follows keep lock r0 s) :
    ∃ s1, execReplayDone s = .next s1 ∧ Follows keep lock r0 s1 := by
  refine ⟨_, rfl, ?_⟩
  try dsimp only
  with_reducible repeat' first
    | assumption | apply Follows.ite | apply replayLog_follows

theorem routerReset_follows (hF : Follows keep lock r0 s) :
    Follows keep lock r0 (routerReset s) :=
  ⟨hF.queue, hF.time, fun g => let g := hF.good g; ⟨g.mem, g.regs, g.act, (fun _ h => nomatch h), (fun _ h => nomatch h)⟩, hF.mem, hF.spo⟩

end Sys2Proof.Machine
end

