-- ==== Sys2Proof/Laws/FollowValley.lean ====
section
/-! SUPPORT. What the operations of Machine/Valley.lean keep (Laws/Follows.lean). -/

set_option linter.unusedTactic false
set_option linter.unreachableTactic false
set_option linter.unusedVariables false

namespace Sys2Proof.Machine

variable {keep lock : Bool} {r0 s : State}

theorem onVal_follows (f : Valley → Valley) (hF : Follows keep lock r0 s) :
    Follows keep lock r0 (onVal f s) := by
  unfold onVal
  try dsimp only
  with_reducible repeat' first
    | assumption | simp only [Follows.mk_iff] | apply atNow_follows | exact Nat.le_refl _

theorem raiseVal_follows (k : Nat) (hF : Follows keep lock r0 s) :
    Follows keep lock r0 (raiseVal k s) := by
  unfold raiseVal
  try dsimp only
  with_reducible repeat' first
    | assumption | apply raise_follows

theorem refuseBurst_follows  (hF : Follows keep lock r0 s) :
    Follows keep lock r0 (refuseBurst s) := by
  unfold refuseBurst
  try dsimp only
  with_reducible repeat' first
    | assumption | intro _ | apply onVal_follows | apply logHap_follows | apply raiseVal_follows
    | simp only [Follows.mk_iff] | apply atNow_follows | exact Nat.le_refl _

theorem decideBursts_follows  (hF : Follows keep lock r0 s) :
    Follows keep lock r0 (decideBursts s) := by
  unfold decideBursts
  try dsimp only
  with_reducible repeat' first
    | assumption | intro _ | apply Follows.ite | apply onVal_follows | apply refuseBurst_follows
    | simp only [Follows.mk_iff] | apply atNow_follows | exact Nat.le_refl _ | exact Nat.le_max_left _ _
    | exact Nat.le_add_right _ _ | split

theorem setChargers_follows  (hF : Follows keep lock r0 s) :
    Follows keep lock r0 (setChargers s) := by
  unfold setChargers
  try dsimp only
  with_reducible repeat' first
    | assumption | intro _ | apply Follows.ite | apply onVal_follows | simp only [Follows.mk_iff]
    | apply atNow_follows | exact Nat.le_refl _

theorem chargers_follows  (hF : Follows keep lock r0 s) :
    Follows keep lock r0 (chargers s) := by
  unfold chargers
  try dsimp only
  with_reducible repeat' first
    | assumption | intro _ | apply Follows.ite | apply setChargers_follows | apply onVal_follows
    | simp only [Follows.mk_iff] | apply atNow_follows | exact Nat.le_refl _

theorem vpgStep_follows  (hF : Follows keep lock r0 s) :
    Follows keep lock r0 (vpgStep s) := by
  unfold vpgStep
  try dsimp only
  with_reducible repeat' first
    | assumption | intro _ | apply Follows.ite | apply logHap_follows | apply raiseVal_follows
    | apply onVal_follows | simp only [Follows.mk_iff] | apply atNow_follows | exact Nat.le_refl _

theorem valleyReset_follows  (hF : Follows keep lock r0 s) :
    Follows keep lock r0 (valleyReset s) := by
  unfold valleyReset
  try dsimp only
  with_reducible repeat' first
    | assumption | intro _ | apply Follows.ite | apply dropPages_follows | apply emptyLog_follows
    | apply raise_follows | simp only [Follows.mk_iff] | apply atNow_follows | exact Nat.le_refl _

theorem valleySample_follows (mv : Nat) (hF : Follows keep lock r0 s) :
    Follows keep lock r0 (valleySample mv s) := by
  unfold valleySample
  try dsimp only
  with_reducible repeat' first
    | assumption | intro _ | apply Follows.ite | apply upto_follows | apply onVal_follows
    | apply valleyReset_follows | apply decideBursts_follows | apply vpgStep_follows | apply chargers_follows
    | simp only [Follows.mk_iff] | apply atNow_follows | exact Nat.le_refl _

theorem valleyPorEnd_follows  (hF : Follows keep lock r0 s) :
    Follows keep lock r0 (valleyPorEnd s) := by
  unfold valleyPorEnd
  try dsimp only
  with_reducible repeat' first
    | assumption | intro _ | apply Follows.ite | apply onVal_follows | apply placeWaiting_follows
    | apply setChargers_follows | simp only [Follows.mk_iff] | apply atNow_follows | exact Nat.le_refl _
    | exact Nat.le_max_left _ _ | exact Nat.le_add_right _ _

theorem rtcRebase_follows  (hF : Follows keep lock r0 s) :
    Follows keep lock r0 (rtcRebase s) := by
  unfold rtcRebase
  try dsimp only
  with_reducible repeat' first
    | assumption | intro _ | apply onVal_follows | simp only [Follows.mk_iff] | apply atNow_follows
    | exact Nat.le_refl _ | split

theorem rtcSet_follows  (hF : Follows keep lock r0 s) :
    Follows keep lock r0 (rtcSet s) := by
  unfold rtcSet
  try dsimp only
  with_reducible repeat' first
    | assumption | intro _ | apply rtcSetMark_follows | apply onVal_follows | apply rtcRebase_follows
    | simp only [Follows.mk_iff] | apply atNow_follows | exact Nat.le_refl _

theorem writeValCtl_follows (m : Master) (v : Word) (hF : Follows keep lock r0 s) :
    Follows keep lock r0 (writeValCtl m v s) := by
  unfold writeValCtl
  try dsimp only
  with_reducible repeat' first
    | assumption | intro _ | apply Follows.ite | apply bookAction_follows | apply rtcSet_follows
    | apply refuseBurst_follows | apply onVal_follows | simp only [Follows.mk_iff] | apply atNow_follows
    | exact Nat.le_refl _ | split

theorem writeValley_follows (m : Master) (off : Nat) (v : Word) (hF : Follows keep lock r0 s) :
    Follows keep lock r0 (writeValley m off v s) := by
  unfold writeValley
  try dsimp only
  with_reducible repeat' first
    | assumption | intro _ | apply Follows.ite | apply rwlPath_follows | apply setChargers_follows
    | apply plainWrite_follows | apply raiseVal_follows | apply rtcRebase_follows | apply onVal_follows
    | apply writeValCtl_follows | simp only [Follows.mk_iff] | apply atNow_follows | exact Nat.le_refl _
    | split

theorem execValleyPorEnd_follows  (hF : Follows keep lock r0 s) :
    ∃ s1, execValleyPorEnd s = .next s1 ∧ Follows keep lock r0 s1 := by
  refine ⟨_, rfl, ?_⟩
  try dsimp only
  with_reducible repeat' first
    | assumption | apply valleyPorEnd_follows

theorem execOpenCircuitMeasure_follows (mv : BitVec 12) (hF : Follows keep lock r0 s) :
    ∃ s1, execOpenCircuitMeasure mv s = .next s1 ∧ Follows keep lock r0 s1 := by
  refine ⟨_, rfl, ?_⟩
  try dsimp only
  with_reducible repeat' first
    | assumption | intro _ | apply Follows.ite | apply upto_follows | apply onVal_follows
    | simp only [Follows.mk_iff] | apply atNow_follows | exact Nat.le_refl _ | split

theorem execRtcSet_follows (m : Master) (hF : Follows keep lock r0 s) :
    ∃ s1, execRtcSet m s = .next s1 ∧ Follows keep lock r0 s1 := by
  refine ⟨_, rfl, ?_⟩
  try dsimp only
  with_reducible repeat' first
    | assumption | intro _ | apply byBus_follows | apply writeValley_follows

theorem execRtcLoRead_follows (m : Master) (hF : Follows keep lock r0 s) :
    ∃ s1, execRtcLoRead m s = .next s1 ∧ Follows keep lock r0 s1 := by
  refine ⟨_, rfl, ?_⟩
  try dsimp only
  with_reducible repeat' first
    | assumption | intro _ | apply readAt_follows | apply respond_follows | apply wr_follows

theorem execXtFail_follows  (hF : Follows keep lock r0 s) :
    ∃ s1, execXtFail s = .next s1 ∧ Follows keep lock r0 s1 := by
  refine ⟨_, rfl, ?_⟩
  try dsimp only
  with_reducible repeat' first
    | assumption | intro _ | apply Follows.ite | apply logHap_follows | apply raiseVal_follows
    | apply onVal_follows | simp only [Follows.mk_iff] | apply atNow_follows | exact Nat.le_refl _
    | split

theorem execXtRecover_follows  (hF : Follows keep lock r0 s) :
    ∃ s1, execXtRecover s = .next s1 ∧ Follows keep lock r0 s1 := by
  refine ⟨_, rfl, ?_⟩
  try dsimp only
  with_reducible repeat' first
    | assumption | intro _ | apply Follows.ite | apply onVal_follows | simp only [Follows.mk_iff]
    | apply atNow_follows | exact Nat.le_refl _

theorem execBurstGo_follows (m : Master) (hF : Follows keep lock r0 s) :
    ∃ s1, execBurstGo m s = .next s1 ∧ Follows keep lock r0 s1 := by
  refine ⟨_, rfl, ?_⟩
  try dsimp only
  with_reducible repeat' first
    | assumption | intro _ | apply byBus_follows | apply writeValley_follows

theorem execBurstEnd_follows (m : Master) (hF : Follows keep lock r0 s) :
    ∃ s1, execBurstEnd m s = .next s1 ∧ Follows keep lock r0 s1 := by
  refine ⟨_, rfl, ?_⟩
  try dsimp only
  with_reducible repeat' first
    | assumption | intro _ | apply byBus_follows | apply writeValley_follows

theorem execBurstTmo_follows  (hF : Follows keep lock r0 s) :
    ∃ s1, execBurstTmo s = .next s1 ∧ Follows keep lock r0 s1 := by
  refine ⟨_, rfl, ?_⟩
  try dsimp only
  with_reducible repeat' first
    | assumption | intro _ | apply upto_follows | apply raiseVal_follows | apply onVal_follows
    | simp only [Follows.mk_iff] | apply atNow_follows | exact Nat.le_refl _ | split

end Sys2Proof.Machine
end

