-- ==== Sys2Proof/Laws/FollowUpd.lean ====
section
/-! SUPPORT. What the operations of Machine/Upd.lean keep (Laws/Follows.lean). -/

set_option linter.unusedTactic false
set_option linter.unreachableTactic false
set_option linter.unusedVariables false

namespace Sys2Proof.Machine

variable {keep lock : Bool} {r0 s : State}

theorem onUpd_follows (f : Upd → Upd) (hF : Follows keep lock r0 s) :
    Follows keep lock r0 (onUpd f s) := by
  unfold onUpd
  try dsimp only
  with_reducible repeat' first
    | assumption | simp only [Follows.mk_iff] | apply atNow_follows | exact Nat.le_refl _

theorem raiseUpd_follows (k : Nat) (hF : Follows keep lock r0 s) :
    Follows keep lock r0 (raiseUpd k s) := by
  unfold raiseUpd
  try dsimp only
  with_reducible repeat' first
    | assumption | apply raise_follows

theorem updTo_follows (st : Nat) (hF : Follows keep lock r0 s) :
    Follows keep lock r0 (updTo st s) := by
  unfold updTo
  try dsimp only
  with_reducible repeat' first
    | assumption | intro _ | apply logHap_follows | apply onUpd_follows | simp only [Follows.mk_iff]
    | apply atNow_follows | exact Nat.le_refl _

theorem updCause_follows (st cause : Nat) (hF : Follows keep lock r0 s) :
    Follows keep lock r0 (updCause st cause s) := by
  unfold updCause
  try dsimp only
  with_reducible repeat' first
    | assumption | intro _ | apply updTo_follows | apply onUpd_follows | simp only [Follows.mk_iff]
    | apply atNow_follows | exact Nat.le_refl _

theorem bootImage_follows  (hF : Follows keep lock r0 s) :
    Follows keep lock r0 (bootImage s).2 := by
  unfold bootImage
  try dsimp only
  with_reducible repeat' first
    | assumption | intro _ | apply Follows.ite | apply nvRead_follows | apply onUpd_follows
    | simp only [Follows.mk_iff] | apply atNow_follows | exact Nat.le_refl _ | exact Nat.le_max_left _ _
    | exact Nat.le_add_right _ _ | refine Follows.of_snd (by assumption) ?_ | refine Follows.of_fst (by assumption) ?_
    | simp only [id_eq] | split | dsimp only

theorem askGrant_follows  (hF : Follows keep lock r0 s) :
    Follows keep lock r0 (askGrant s) := by
  unfold askGrant
  try dsimp only
  with_reducible repeat' first
    | assumption | apply Follows.ite | simp only [Follows.mk_iff] | apply atNow_follows
    | exact Nat.le_refl _ | split

theorem wantRecord_follows (r : BootRec) (accept : Bool) (hF : Follows keep lock r0 s) :
    Follows keep lock r0 (wantRecord r accept s) := by
  unfold wantRecord
  try dsimp only
  with_reducible repeat' first
    | assumption | intro _ | apply askGrant_follows | apply onUpd_follows | simp only [Follows.mk_iff]
    | apply atNow_follows | exact Nat.le_refl _ | exact Nat.le_max_left _ _ | exact Nat.le_add_right _ _

theorem wantTrial_follows (on : Bool) (hF : Follows keep lock r0 s) :
    Follows keep lock r0 (wantTrial on s) := by
  unfold wantTrial
  try dsimp only
  with_reducible repeat' first
    | assumption | apply Follows.ite | apply wantRecord_follows | simp only [Follows.mk_iff]
    | apply atNow_follows | exact Nat.le_refl _

theorem applyReads_follows  (hF : Follows keep lock r0 s) :
    Follows keep lock r0 (applyReads s) := by
  unfold applyReads
  try dsimp only
  with_reducible repeat' first
    | assumption | apply nvRead_follows

theorem applyEnds_follows  (hF : Follows false lock r0 s) :
    Follows false lock r0 (applyEnds s) := by
  unfold applyEnds
  try dsimp only
  with_reducible repeat' first
    | assumption | intro _ | apply Follows.ite | apply raiseUpd_follows | apply updCause_follows
    | apply upto_follows | apply applyReads_follows | apply wrf_follows | apply forEach_follows
    | apply nvStore_follows | apply onUpd_follows | simp only [Follows.mk_iff] | apply atNow_follows
    | exact Nat.le_refl _

theorem slotWritten_follows  (hF : Follows false lock r0 s) :
    Follows false lock r0 (slotWritten s) := by
  unfold slotWritten
  try dsimp only
  with_reducible repeat' first
    | assumption | intro _ | apply Follows.ite | apply forEach_follows | apply nvStore_follows
    | apply onUpd_follows | apply wrf_follows | simp only [Follows.mk_iff] | apply atNow_follows
    | exact Nat.le_refl _ | exact Nat.le_max_left _ _ | exact Nat.le_add_right _ _ | refine Follows.of_snd (by assumption) ?_
    | refine Follows.of_fst (by assumption) ?_ | simp only [id_eq] | split | dsimp only

theorem updCut_follows (sure : Bool) (hF : Follows false lock r0 s) :
    Follows false lock r0 (updCut sure s) := by
  unfold updCut
  try dsimp only
  with_reducible repeat' first
    | assumption | intro _ | apply Follows.ite | apply cutWrites_follows | apply onUpd_follows
    | simp only [Follows.mk_iff] | apply atNow_follows | exact Nat.le_refl _ | exact Nat.le_max_left _ _
    | exact Nat.le_add_right _ _ | refine Follows.of_snd (by assumption) ?_ | refine Follows.of_fst (by assumption) ?_
    | simp only [id_eq] | split | dsimp only

theorem dropGroup_follows (t : PageType) (n g : Nat) (hF : Follows keep lock r0 s) :
    Follows keep lock r0 (dropGroup t n g s) := by
  unfold dropGroup
  try dsimp only
  with_reducible repeat' first
    | assumption | intro _ | apply Follows.ite | apply discardGroup_follows | apply onLeg_follows
    | simp only [Follows.mk_iff] | apply atNow_follows | exact Nat.le_refl _

theorem dropOpened_follows (ms : List Nat) (hF : Follows keep lock r0 s) :
    Follows keep lock r0 (dropOpened ms s) := by
  unfold dropOpened
  try dsimp only
  with_reducible repeat' first
    | assumption | intro _ | apply forEach_follows | apply dropGroup_follows | simp only [Follows.mk_iff]
    | apply atNow_follows | exact Nat.le_refl _ | split

theorem armHandover_follows  (hF : Follows keep lock r0 s) :
    Follows keep lock r0 (armHandover s) := by
  unfold armHandover
  try dsimp only
  with_reducible repeat' first
    | assumption | intro _ | apply onUpd_follows | apply requestSwapAll_follows | apply wrb_follows
    | apply wr_follows | apply wantTrial_follows | apply updCause_follows | simp only [Follows.mk_iff]
    | apply atNow_follows | exact Nat.le_refl _

theorem withdraw_follows (cause : Nat) (hF : Follows keep lock r0 s) :
    Follows keep lock r0 (withdraw cause s) := by
  unfold withdraw
  try dsimp only
  with_reducible repeat' first
    | assumption | apply Follows.ite | apply wantTrial_follows | apply raiseUpd_follows
    | apply updCause_follows | simp only [Follows.mk_iff] | apply atNow_follows | exact Nat.le_refl _

theorem swapGone_follows  (hF : Follows keep lock r0 s) :
    Follows keep lock r0 (swapGone s) := by
  unfold swapGone
  try dsimp only
  with_reducible repeat' first
    | assumption | apply Follows.ite | apply withdraw_follows | simp only [Follows.mk_iff]
    | apply atNow_follows | exact Nat.le_refl _

theorem handover_follows  (hF : Follows keep lock r0 s) :
    Follows keep lock r0 (handover s) := by
  unfold handover
  try dsimp only
  with_reducible repeat' first
    | assumption | intro _ | apply sramCheck_follows | apply dropOpened_follows | apply invertRole_follows
    | apply updTo_follows | apply onUpd_follows | simp only [Follows.mk_iff] | apply atNow_follows
    | exact Nat.le_refl _ | exact Nat.le_max_left _ _ | exact Nat.le_add_right _ _

theorem swapBack_follows (onDatum : Bool) (hF : Follows false lock r0 s) :
    Follows false lock r0 (swapBack onDatum s) := by
  unfold swapBack
  try dsimp only
  with_reducible repeat' first
    | assumption | intro _ | apply Follows.ite | apply forEach_follows | apply onDatum_follows
    | apply doSwap_follows | apply onLane_follows | apply cancelSwaps_follows | simp only [Follows.mk_iff]
    | apply atNow_follows | exact Nat.le_refl _ | exact Nat.le_max_left _ _ | exact Nat.le_add_right _ _
    | split

theorem reverse_follows (onDatum : Bool) (hF : Follows false lock r0 s) :
    Follows false lock r0 (reverse onDatum s) := by
  unfold reverse
  try dsimp only
  with_reducible repeat' first
    | assumption | intro _ | apply Follows.ite | apply resetHarts_follows | apply invertRole_follows
    | apply incHeld_follows | apply swapBack_follows | apply onDatum_follows | apply updTo_follows
    | apply onUpd_follows | apply raiseUpd_follows | apply wantTrial_follows | simp only [Follows.mk_iff]
    | apply atNow_follows | exact Nat.le_refl _

theorem dropWant_follows  (hF : Follows keep lock r0 s) :
    Follows keep lock r0 (dropWant s) := by
  unfold dropWant
  try dsimp only
  with_reducible repeat' first
    | assumption | intro _ | apply onVal_follows | apply onUpd_follows | simp only [Follows.mk_iff]
    | apply atNow_follows | exact Nat.le_refl _

theorem startReversal_follows (cause : Nat) (roleDone : Bool) (hF : Follows false lock r0 s) :
    Follows false lock r0 (startReversal cause roleDone s) := by
  unfold startReversal
  try dsimp only
  with_reducible repeat' first
    | assumption | intro _ | apply Follows.ite | apply dropWant_follows | apply updCause_follows
    | apply onUpd_follows | apply reverse_follows | simp only [Follows.mk_iff] | apply atNow_follows
    | exact Nat.le_refl _

theorem updBoundary_follows (number : Nat) (hF : Follows false lock r0 s) :
    Follows false lock r0 (updBoundary number s) := by
  unfold updBoundary
  try dsimp only
  with_reducible repeat' first
    | assumption | intro _ | apply Follows.ite | apply reverse_follows | apply withdraw_follows
    | apply refuseAll_follows | apply onlyIf_follows | apply handover_follows | simp only [Follows.mk_iff]
    | apply atNow_follows | exact Nat.le_refl _

theorem updPeriod_follows  (hF : Follows false lock r0 s) :
    Follows false lock r0 (updPeriod s) := by
  unfold updPeriod
  try dsimp only
  with_reducible repeat' first
    | assumption | apply Follows.ite | apply reverse_follows

theorem updSaddle_follows  (hF : Follows keep lock r0 s) :
    Follows keep lock r0 (updSaddle s) := by
  unfold updSaddle
  try dsimp only
  with_reducible repeat' first
    | assumption | apply Follows.ite | apply withdraw_follows | simp only [Follows.mk_iff]
    | apply atNow_follows | exact Nat.le_refl _

theorem acceptDone_follows  (hF : Follows keep lock r0 s) :
    Follows keep lock r0 (acceptDone s) := by
  unfold acceptDone
  try dsimp only
  with_reducible repeat' first
    | assumption | intro _ | apply resetHarts_follows | apply onUpd_follows | apply raiseUpd_follows
    | apply incHeld_follows | apply updCause_follows | simp only [Follows.mk_iff] | apply atNow_follows
    | exact Nat.le_refl _

theorem updRefuse_follows  (hF : Follows keep lock r0 s) :
    Follows keep lock r0 (updRefuse s) := by
  unfold updRefuse
  try dsimp only
  with_reducible repeat' first
    | assumption | apply raiseUpd_follows

theorem updApply_follows (m : Master) (hF : Follows false lock r0 s) :
    Follows false lock r0 (updApply m s) := by
  unfold updApply
  try dsimp only
  with_reducible repeat' first
    | assumption | intro _ | apply Follows.ite | apply nvFlush_follows | apply updRefuse_follows
    | apply wr_follows | apply updCause_follows | apply onUpd_follows | simp only [Follows.mk_iff]
    | apply atNow_follows | exact Nat.le_refl _ | exact Nat.le_max_left _ _ | exact Nat.le_add_right _ _

theorem updBoot_follows  (hF : Follows keep lock r0 s) :
    Follows keep lock r0 (updBoot s) := by
  unfold updBoot
  try dsimp only
  with_reducible repeat' first
    | assumption | apply Follows.ite | apply updRefuse_follows | apply resetHarts_follows
    | apply updCause_follows

theorem updReady_follows (m : Master) (hF : Follows keep lock r0 s) :
    Follows keep lock r0 (updReady m s) := by
  unfold updReady
  try dsimp only
  with_reducible repeat' first
    | assumption | apply Follows.ite | apply updRefuse_follows | apply raiseUpd_follows
    | apply updTo_follows | split

theorem updArm_follows  (hF : Follows keep lock r0 s) :
    Follows keep lock r0 (updArm s) := by
  unfold updArm
  try dsimp only
  with_reducible repeat' first
    | assumption | apply Follows.ite | apply armHandover_follows | apply updRefuse_follows

theorem updAccept_follows (m : Master) (hF : Follows false lock r0 s) :
    Follows false lock r0 (updAccept m s) := by
  unfold updAccept
  try dsimp only
  with_reducible repeat' first
    | assumption | apply Follows.ite | apply updRefuse_follows | apply startReversal_follows
    | apply wantRecord_follows | simp only [Follows.mk_iff] | apply atNow_follows | exact Nat.le_refl _
    | split

theorem updReject_follows  (hF : Follows false lock r0 s) :
    Follows false lock r0 (updReject s) := by
  unfold updReject
  try dsimp only
  with_reducible repeat' first
    | assumption | apply Follows.ite | apply startReversal_follows | apply updRefuse_follows

theorem updAbort_follows  (hF : Follows keep lock r0 s) :
    Follows keep lock r0 (updAbort s) := by
  unfold updAbort
  try dsimp only
  with_reducible repeat' first
    | assumption | apply Follows.ite | apply withdraw_follows | apply resetHarts_follows
    | apply updCause_follows | apply updRefuse_follows | simp only [Follows.mk_iff] | apply atNow_follows
    | exact Nat.le_refl _ | split

theorem updClear_follows  (hF : Follows keep lock r0 s) :
    Follows keep lock r0 (updClear s) := by
  unfold updClear
  try dsimp only
  with_reducible repeat' first
    | assumption | apply Follows.ite | apply updCause_follows | apply updRefuse_follows

theorem writeUpdCtl_follows (m : Master) (v : Word) (hF : Follows false lock r0 s) :
    Follows false lock r0 (writeUpdCtl m v s) := by
  unfold writeUpdCtl
  try dsimp only
  with_reducible repeat' first
    | assumption | intro _ | apply onlyIf_follows | apply updApply_follows | apply updBoot_follows
    | apply updReady_follows | apply updAbort_follows | apply updArm_follows | apply updAccept_follows
    | apply updReject_follows | apply updClear_follows

theorem writeSlotCmd_follows (m : Master) (v : Word) (hF : Follows keep lock r0 s) :
    Follows keep lock r0 (writeSlotCmd m v s) := by
  unfold writeSlotCmd
  try dsimp only
  with_reducible repeat' first
    | assumption | intro _ | apply Follows.ite | apply updRefuse_follows | apply sramCheck_follows
    | apply onUpd_follows | apply wrf_follows | simp only [Follows.mk_iff] | apply atNow_follows
    | exact Nat.le_refl _ | exact Nat.le_max_left _ _ | exact Nat.le_add_right _ _ | split

theorem writeUpd_follows (m : Master) (off : Nat) (v : Word) (hF : Follows false lock r0 s) :
    Follows false lock r0 (writeUpd m off v s) := by
  unfold writeUpd
  try dsimp only
  with_reducible repeat' first
    | assumption | apply Follows.ite | apply writeUpdCtl_follows | apply writeSlotCmd_follows
    | apply plainWrite_follows

theorem engcCtl_follows (v : Word) (hF : Follows keep lock r0 s) :
    Follows keep lock r0 (engcCtl v s) := by
  unfold engcCtl
  try dsimp only
  with_reducible repeat' first
    | assumption | apply Follows.ite | apply withdraw_follows | apply writeEngcCtrl_follows
    | simp only [Follows.mk_iff] | apply atNow_follows | exact Nat.le_refl _

theorem wdtExpires_follows (h : Nat) (hF : Follows false lock r0 s) :
    Follows false lock r0 (wdtExpires h s) := by
  unfold wdtExpires
  try dsimp only
  with_reducible repeat' first
    | assumption | apply Follows.ite | apply raisePmc_follows | apply resetHarts_follows
    | apply updCause_follows | apply logHap_follows | apply incHeld_follows | apply invertRole_follows
    | apply startReversal_follows

theorem updReset_follows  (hF : Follows false lock r0 s) :
    Follows false lock r0 (updReset s) := by
  unfold updReset
  try dsimp only
  with_reducible repeat' first
    | assumption | intro _ | apply Follows.ite | apply updCut_follows | apply dropWant_follows
    | apply onVal_follows | apply wantTrial_follows | simp only [Follows.mk_iff] | apply atNow_follows
    | exact Nat.le_refl _ | exact Nat.le_max_left _ _ | exact Nat.le_add_right _ _ | refine Follows.of_snd (by assumption) ?_
    | refine Follows.of_fst (by assumption) ?_ | simp only [id_eq] | split | dsimp only

theorem execWatchdogExpiry_follows (h : Fin 4) (hF : Follows false lock r0 s) :
    ∃ s1, execWatchdogExpiry h s = .next s1 ∧ Follows false lock r0 s1 := by
  refine ⟨_, rfl, ?_⟩
  try dsimp only
  with_reducible repeat' first
    | assumption | apply Follows.ite | apply wdtExpires_follows | apply upto_follows
    | simp only [Follows.mk_iff] | apply atNow_follows | exact Nat.le_refl _ | split

theorem execNvWrite_follows (m : Master) (a : Nat) (bytes : List Byte) (hF : Follows false lock r0 s) :
    ∃ s1, execNvWrite m a bytes s = .next s1 ∧ Follows false lock r0 s1 := by
  refine ⟨_, rfl, ?_⟩
  try dsimp only
  with_reducible repeat' first
    | assumption | apply Follows.ite | apply pmcAccess_follows | apply busError_follows
    | apply nvBusWrite_follows

theorem execApply_follows (m : Master) (hF : Follows false lock r0 s) :
    ∃ s1, execApply m s = .next s1 ∧ Follows false lock r0 s1 := by
  refine ⟨_, rfl, ?_⟩
  try dsimp only
  with_reducible repeat' first
    | assumption | intro _ | apply byBus_follows | apply writeUpdCtl_follows

theorem execApplyDone_follows  (hF : Follows false lock r0 s) :
    ∃ s1, execApplyDone s = .next s1 ∧ Follows false lock r0 s1 := by
  refine ⟨_, rfl, ?_⟩
  try dsimp only
  with_reducible repeat' first
    | assumption | apply Follows.ite | apply applyEnds_follows | split

theorem execBoot_follows (m : Master) (hF : Follows false lock r0 s) :
    ∃ s1, execBoot m s = .next s1 ∧ Follows false lock r0 s1 := by
  refine ⟨_, rfl, ?_⟩
  try dsimp only
  with_reducible repeat' first
    | assumption | intro _ | apply byBus_follows | apply writeUpdCtl_follows

theorem execReady_follows (m : Master) (hF : Follows false lock r0 s) :
    ∃ s1, execReady m s = .next s1 ∧ Follows false lock r0 s1 := by
  refine ⟨_, rfl, ?_⟩
  try dsimp only
  with_reducible repeat' first
    | assumption | intro _ | apply byBus_follows | apply writeUpdCtl_follows

theorem execUpdArm_follows (m : Master) (hF : Follows false lock r0 s) :
    ∃ s1, execUpdArm m s = .next s1 ∧ Follows false lock r0 s1 := by
  refine ⟨_, rfl, ?_⟩
  try dsimp only
  with_reducible repeat' first
    | assumption | intro _ | apply byBus_follows | apply writeUpdCtl_follows

theorem execHanded_follows (ok : Bool) (hF : Follows false lock r0 s) :
    ∃ s1, execHanded ok s = .next s1 ∧ Follows false lock r0 s1 := by
  refine ⟨_, rfl, ?_⟩
  try dsimp only
  with_reducible repeat' first
    | assumption | intro _ | apply Follows.ite | apply sramWrite_follows | apply raiseUpd_follows
    | apply wr_follows | apply onUpd_follows | apply startReversal_follows | simp only [Follows.mk_iff]
    | apply atNow_follows | exact Nat.le_refl _ | split

theorem execAccept_follows (m : Master) (hF : Follows false lock r0 s) :
    ∃ s1, execAccept m s = .next s1 ∧ Follows false lock r0 s1 := by
  refine ⟨_, rfl, ?_⟩
  try dsimp only
  with_reducible repeat' first
    | assumption | intro _ | apply byBus_follows | apply writeUpdCtl_follows

theorem execReject_follows (m : Master) (hF : Follows false lock r0 s) :
    ∃ s1, execReject m s = .next s1 ∧ Follows false lock r0 s1 := by
  refine ⟨_, rfl, ?_⟩
  try dsimp only
  with_reducible repeat' first
    | assumption | intro _ | apply byBus_follows | apply writeUpdCtl_follows

theorem execAbort_follows (m : Master) (hF : Follows false lock r0 s) :
    ∃ s1, execAbort m s = .next s1 ∧ Follows false lock r0 s1 := by
  refine ⟨_, rfl, ?_⟩
  try dsimp only
  with_reducible repeat' first
    | assumption | intro _ | apply byBus_follows | apply writeUpdCtl_follows

theorem execUpdClear_follows (m : Master) (hF : Follows false lock r0 s) :
    ∃ s1, execUpdClear m s = .next s1 ∧ Follows false lock r0 s1 := by
  refine ⟨_, rfl, ?_⟩
  try dsimp only
  with_reducible repeat' first
    | assumption | intro _ | apply byBus_follows | apply writeUpdCtl_follows

theorem execTrialTimeout_follows  (hF : Follows false lock r0 s) :
    ∃ s1, execTrialTimeout s = .next s1 ∧ Follows false lock r0 s1 := by
  refine ⟨_, rfl, ?_⟩
  try dsimp only
  with_reducible repeat' first
    | assumption | apply Follows.ite | apply startReversal_follows | apply upto_follows
    | split

theorem bootrecChange_follows (r : BootRec) (hF : Follows keep lock r0 s) :
    Follows keep lock r0 (bootrecChange r s) := by
  unfold bootrecChange
  try dsimp only
  with_reducible repeat' first
    | assumption | intro _ | apply Follows.ite | apply dropWant_follows | apply onUpd_follows
    | apply bookAction_follows | apply acceptDone_follows | apply wantTrial_follows | simp only [Follows.mk_iff]
    | apply atNow_follows | exact Nat.le_refl _ | split

theorem execBootrecChange_follows  (hF : Follows keep lock r0 s) :
    ∃ s1, execBootrecChange s = .next s1 ∧ Follows keep lock r0 s1 := by
  refine ⟨_, rfl, ?_⟩
  try dsimp only
  with_reducible repeat' first
    | assumption | apply Follows.ite | apply bootrecChange_follows | simp only [Follows.mk_iff]
    | apply atNow_follows | exact Nat.le_refl _ | split

theorem execGrantGiveup_follows  (hF : Follows keep lock r0 s) :
    ∃ s1, execGrantGiveup s = .next s1 ∧ Follows keep lock r0 s1 := by
  refine ⟨_, rfl, ?_⟩
  try dsimp only
  with_reducible repeat' first
    | assumption | intro _ | apply Follows.ite | apply upto_follows | apply onUpd_follows
    | simp only [Follows.mk_iff] | apply atNow_follows | exact Nat.le_refl _ | split

theorem execSlotCommit_follows (m : Master) (hF : Follows keep lock r0 s) :
    ∃ s1, execSlotCommit m s = .next s1 ∧ Follows keep lock r0 s1 := by
  refine ⟨_, rfl, ?_⟩
  try dsimp only
  with_reducible repeat' first
    | assumption | intro _ | apply byBus_follows | apply writeSlotCmd_follows

theorem execSlotCommitDone_follows  (hF : Follows false lock r0 s) :
    ∃ s1, execSlotCommitDone s = .next s1 ∧ Follows false lock r0 s1 := by
  refine ⟨_, rfl, ?_⟩
  try dsimp only
  with_reducible repeat' first
    | assumption | apply Follows.ite | apply slotWritten_follows | apply upto_follows
    | simp only [Follows.mk_iff] | apply atNow_follows | exact Nat.le_refl _ | split

theorem execSwapAll_follows (m : Master) (mode : Bool) (hF : Follows keep lock r0 s) :
    ∃ s1, execSwapAll m mode s = .next s1 ∧ Follows keep lock r0 s1 := by
  refine ⟨_, rfl, ?_⟩
  try dsimp only
  with_reducible repeat' first
    | assumption | intro _ | apply Follows.ite | apply byBus_follows | apply engcCtl_follows

theorem execGlobalVerified_follows  (hF : Follows keep lock r0 s) :
    ∃ s1, execGlobalVerified s = .next s1 ∧ Follows keep lock r0 s1 := by
  refine ⟨_, rfl, ?_⟩
  try dsimp only
  with_reducible repeat' first
    | assumption | intro _ | apply Follows.ite | apply upto_follows | apply swapGone_follows
    | apply refuseAll_follows | simp only [Follows.mk_iff] | apply atNow_follows | exact Nat.le_refl _
    | split

theorem execCancel_follows (m : Master) (mode : Bool) (hF : Follows keep lock r0 s) :
    ∃ s1, execCancel m mode s = .next s1 ∧ Follows keep lock r0 s1 := by
  refine ⟨_, rfl, ?_⟩
  try dsimp only
  with_reducible repeat' first
    | assumption | intro _ | apply Follows.ite | apply byBus_follows | apply engcCtl_follows

end Sys2Proof.Machine
end

