-- ==== Sys2Proof/Laws/FollowPasses.lean ====
section
/-! SUPPORT. What the operations of Machine/Passes.lean keep (Laws/Follows.lean). -/

set_option linter.unusedTactic false
set_option linter.unreachableTactic false
set_option linter.unusedVariables false

namespace Sys2Proof.Machine

variable {keep lock : Bool} {r0 s : State}

theorem startPass_follows (n tk len : Nat) (hF : Follows keep lock r0 s) :
    Follows keep lock r0 (startPass n tk len s) := by
  unfold startPass
  try dsimp only
  with_reducible repeat' first
    | assumption | intro _ | apply Follows.ite | apply forEach_follows | apply genFlag_follows
    | apply onLane_follows | simp only [Follows.mk_iff] | apply atNow_follows | exact Nat.le_refl _
    | split

theorem perWord_follows (v : Word) (hF : Follows keep lock r0 s) :
    Follows keep lock r0 (perWord v s).2 := by
  unfold perWord
  try dsimp only
  with_reducible repeat' first
    | assumption | intro _ | apply Follows.ite | apply draw_follows | simp only [Follows.mk_iff]
    | apply atNow_follows | exact Nat.le_refl _ | exact Nat.le_max_left _ _ | exact Nat.le_add_right _ _
    | refine Follows.of_snd (by assumption) ?_ | refine Follows.of_fst (by assumption) ?_
    | simp only [id_eq] | split | dsimp only

theorem outShadow_follows (p : Nat) (v : Word) (hF : Follows keep lock r0 s) :
    Follows keep lock r0 (outShadow p v s) := by
  unfold outShadow
  try dsimp only
  with_reducible repeat' first
    | assumption | intro _ | apply Follows.ite | apply onLeg_follows | apply wr_follows
    | apply perWord_follows | apply wrf_follows | simp only [Follows.mk_iff] | apply atNow_follows
    | exact Nat.le_refl _ | refine Follows.of_snd (by assumption) ?_ | split | dsimp only

theorem onPass_follows (n : Nat) (f : Pass → Pass) (hF : Follows keep lock r0 s) :
    Follows keep lock r0 (onPass n f s) := by
  unfold onPass
  try dsimp only
  with_reducible repeat' first
    | assumption | intro _ | apply onLane_follows | simp only [Follows.mk_iff] | apply atNow_follows
    | exact Nat.le_refl _

/-- An update made at an earlier instant, with the time restored after it. -/
theorem Follows.aside {b : State} {n : Nat} (hF : Follows keep lock r0 s) (h : Follows keep lock { s with now := n } b) :
    Follows keep lock r0 { b with now := s.now } :=
  ⟨h.queue.trans hF.queue, hF.time,
    fun g =>
      let g := hF.good g
      let g := h.good ⟨g.mem, g.regs, g.act, g.queue, g.recs⟩
      ⟨g.mem, g.regs, g.act, g.queue, g.recs⟩,
    fun k => (h.mem k).trans (hF.mem k), fun l o => h.spo l (hF.spo l o)⟩

theorem issueOut_follows (n : Nat) (o : PassOut) (hF : Follows keep lock r0 s) :
    Follows keep lock r0 (issueOut n o s) := by
  unfold issueOut
  split
  · exact onPass_follows _ _ hF
  · dsimp only
    refine Follows.ite (onPass_follows _ _ hF) (Follows.ite (onPass_follows _ _ hF) (Follows.ite (wrb_follows _ _ _ hF) ?_))
    exact hF.aside (n := o.when') (outShadow_follows _ _ (onPass_follows _ _ (setGrp_follows _ _
      (openGroup_follows _ _ _ (Follows.refl _ _ _)))))

theorem flushOuts_follows (t : Nat) (hF : Follows keep lock r0 s) :
    Follows keep lock r0 (flushOuts t s) := by
  unfold flushOuts
  try dsimp only
  with_reducible repeat' first
    | assumption | intro _ | apply forEach_follows | apply onPass_follows | apply issueOut_follows
    | simp only [Follows.mk_iff] | apply atNow_follows | exact Nat.le_refl _ | split

theorem afterPass_follows (n : Nat) (fault : Bool) (dr : Drain) (hF : Follows keep lock r0 s) :
    Follows keep lock r0 (afterPass n fault dr s) := by
  unfold afterPass
  try dsimp only
  with_reducible repeat' first
    | assumption | intro _ | apply Follows.ite | apply onLane_follows | apply pmcCount_follows
    | apply raise_follows | simp only [Follows.mk_iff] | apply atNow_follows | exact Nat.le_refl _

theorem discardPass_follows (n : Nat) (c : PassDisc) (e : Nat) (p : Pass) (hF : Follows keep lock r0 s) :
    Follows keep lock r0 (discardPass n c e p s) := by
  unfold discardPass
  try dsimp only
  with_reducible repeat' first
    | assumption | intro _ | apply Follows.ite | apply forEach_follows | apply dropGroup_follows
    | apply wr_follows | apply wrf_follows | apply incHeld_follows | apply raise_follows
    | apply afterPass_follows | simp only [Follows.mk_iff] | apply atNow_follows | exact Nat.le_refl _
    | split

theorem passOk_follows (n : Nat) (p : Pass) (hF : Follows keep lock r0 s) :
    Follows keep lock r0 (passOk n p s) := by
  unfold passOk
  try dsimp only
  with_reducible repeat' first
    | assumption | intro _ | apply Follows.ite | apply forEach_follows | apply armGroup_follows
    | apply pairArmed_follows | apply wr_follows | apply wrf_follows | apply probesLand_follows
    | apply islConfirm_follows | apply afterPass_follows | apply raise_follows | simp only [Follows.mk_iff]
    | apply atNow_follows | exact Nat.le_refl _

theorem lateWrite_follows (w : Nat × Word) (hF : Follows keep lock r0 s) :
    Follows keep lock r0 (lateWrite w s) := by
  unfold lateWrite
  try dsimp only
  with_reducible repeat' first
    | assumption | apply Follows.ite | apply railCommand_follows | apply capPort_follows
    | simp only [Follows.mk_iff] | apply atNow_follows | exact Nat.le_refl _

theorem drainNow_follows (n : Nat) (hF : Follows false lock r0 s) :
    Follows false lock r0 (drainNow n s) := by
  unfold drainNow
  try dsimp only
  with_reducible repeat' first
    | assumption | intro _ | apply Follows.ite | apply onLane_follows | apply forEach_follows
    | apply writeTileWord_follows | apply lateWrite_follows | apply raise_follows | apply wr_follows
    | apply releaseUnmapped_follows | apply releaseHeld_follows | simp only [Follows.mk_iff]
    | apply atNow_follows | exact Nat.le_refl _ | split

theorem execPassStart_follows (n : Fin 32) (hF : Follows false lock r0 s) :
    ∃ s1, execPassStart n s = .next s1 ∧ Follows false lock r0 s1 := by
  refine ⟨_, rfl, ?_⟩
  try dsimp only
  with_reducible repeat' first
    | assumption | intro _ | apply Follows.ite | apply drainNow_follows | apply upto_follows
    | apply onLane_follows | apply pairPassStart_follows | apply railPass_follows | apply startPass_follows
    | apply forEach_follows | apply setGrp_follows | apply onPass_follows | simp only [Follows.mk_iff]
    | apply atNow_follows | exact Nat.le_refl _ | refine Follows.of_fst (by assumption) ?_
    | split | dsimp only

theorem execPassEnd_follows (n : Fin 32) (hF : Follows keep lock r0 s) :
    ∃ s1, execPassEnd n s = .next s1 ∧ Follows keep lock r0 s1 := by
  refine ⟨_, rfl, ?_⟩
  try dsimp only
  with_reducible repeat' first
    | assumption | apply Follows.ite | apply flushOuts_follows | apply upto_follows
    | apply discardPass_follows | apply passOk_follows | simp only [Follows.mk_iff] | apply atNow_follows
    | exact Nat.le_refl _ | split

theorem execPassOverrun_follows (n : Fin 32) (hF : Follows keep lock r0 s) :
    ∃ s1, execPassOverrun n s = .next s1 ∧ Follows keep lock r0 s1 := by
  refine ⟨_, rfl, ?_⟩
  try dsimp only
  with_reducible repeat' first
    | assumption | apply Follows.ite | apply flushOuts_follows | apply upto_follows
    | apply discardPass_follows | simp only [Follows.mk_iff] | apply atNow_follows | exact Nat.le_refl _
    | split

theorem execDrainComplete_follows (n : Fin 32) (hF : Follows false lock r0 s) :
    ∃ s1, execDrainComplete n s = .next s1 ∧ Follows false lock r0 s1 := by
  refine ⟨_, rfl, ?_⟩
  try dsimp only
  with_reducible repeat' first
    | assumption | apply Follows.ite | apply drainNow_follows | apply upto_follows
    | simp only [Follows.mk_iff] | apply atNow_follows | exact Nat.le_refl _ | split

end Sys2Proof.Machine
end

