-- ==== Sys2Proof/Laws/FollowPeriods.lean ====
section
/-! SUPPORT. What the operations of Machine/Periods.lean keep (Laws/Follows.lean). -/

set_option linter.unusedTactic false
set_option linter.unreachableTactic false
set_option linter.unusedVariables false

namespace Sys2Proof.Machine

variable {keep lock : Bool} {r0 s : State}

theorem boundary_follows (d : Nat) (hF : Follows false lock r0 s) :
    Follows false lock r0 (boundary d s) := by
  unfold boundary
  try dsimp only
  with_reducible repeat' first
    | assumption | intro _ | apply tripBoundary_follows | apply upto_follows | apply darmsDue_follows
    | apply flushOuts_follows | apply legBoundary_follows | apply genBoundary_follows | apply laneSwaps_follows
    | apply monBoundary_follows | apply commitMons_follows | apply adcBoundary_follows
    | apply islBoundary_follows | apply gridBoundary_follows | apply checkOutEn_follows
    | apply updPeriod_follows | apply pairBoundary_follows | apply railBoundary_follows

theorem execBoundary_follows (d : Fin 24) (hF : Follows false lock r0 s) :
    ∃ s1, execBoundary d s = .next s1 ∧ Follows false lock r0 s1 := by
  refine ⟨_, rfl, ?_⟩
  try dsimp only
  with_reducible repeat' first
    | assumption | apply Follows.ite | apply boundary_follows

theorem execLockReq_follows (m : Master) (d : Fin 24) (stretch : Bool) (slew : BitVec 8) (hF : Follows keep lock r0 s) :
    ∃ s1, execLockReq m d stretch slew s = .next s1 ∧ Follows keep lock r0 s1 := by
  refine ⟨_, rfl, ?_⟩
  try dsimp only
  with_reducible repeat' first
    | assumption | intro _ | apply Follows.ite | apply byBus_follows | apply islRefresh_follows
    | apply writeDomCtrl_follows

theorem execLockReqClear_follows (m : Master) (d : Fin 24) (stretch : Bool) (slew : BitVec 8) (hF : Follows keep lock r0 s) :
    ∃ s1, execLockReqClear m d stretch slew s = .next s1 ∧ Follows keep lock r0 s1 := by
  refine ⟨_, rfl, ?_⟩
  try dsimp only
  with_reducible repeat' first
    | assumption | intro _ | apply Follows.ite | apply byBus_follows | apply islRefresh_follows
    | apply writeDomCtrl_follows

theorem publish_follows  (hF : Follows keep lock r0 s) :
    Follows keep lock r0 (publish s) := by
  unfold publish
  try dsimp only
  with_reducible repeat' first
    | assumption | intro _ | apply Follows.ite | apply onDatum_follows | simp only [Follows.mk_iff]
    | apply atNow_follows | exact Nat.le_refl _ | split

theorem datumBoundary_follows (v number : Nat) (hF : Follows false lock r0 s) :
    Follows false lock r0 (datumBoundary v number s) := by
  unfold datumBoundary
  try dsimp only
  with_reducible repeat' first
    | assumption | apply Follows.ite | apply upto_follows | apply islRefresh_follows
    | apply alignDomains_follows | apply startCycle_follows | apply flushOuts_follows | apply withdrawDarms_follows
    | apply swapGone_follows | apply globalSwapDue_follows | apply updBoundary_follows
    | apply gensDue_follows | apply publish_follows | apply pairCapture_follows | simp only [Follows.mk_iff]
    | apply atNow_follows | exact Nat.le_refl _

theorem execDatumCycleBoundary_follows  (hF : Follows false lock r0 s) :
    ∃ s1, execDatumCycleBoundary s = .next s1 ∧ Follows false lock r0 s1 := by
  refine ⟨_, rfl, ?_⟩
  try dsimp only
  with_reducible repeat' first
    | assumption | apply Follows.ite | apply datumBoundary_follows | simp only [Follows.mk_iff]
    | apply atNow_follows | exact Nat.le_refl _ | split

theorem execAverageDelivered_follows (n : Fin 32) (hF : Follows keep lock r0 s) :
    ∃ s1, execAverageDelivered n s = .next s1 ∧ Follows keep lock r0 s1 := by
  refine ⟨_, rfl, ?_⟩
  try dsimp only
  with_reducible repeat' first
    | assumption | intro _ | apply Follows.ite | apply trackSample_follows | apply deliverSet_follows
    | apply onAdc_follows | apply upto_follows | simp only [Follows.mk_iff] | apply atNow_follows
    | exact Nat.le_refl _ | split

theorem execBlockEnd_follows (n : Fin 32) (hF : Follows keep lock r0 s) :
    ∃ s1, execBlockEnd n s = .next s1 ∧ Follows keep lock r0 s1 := by
  refine ⟨_, rfl, ?_⟩
  try dsimp only
  with_reducible repeat' first
    | assumption | intro _ | apply Follows.ite | apply upto_follows | apply trackSample_follows
    | apply deliverSet_follows | apply onAdc_follows | simp only [Follows.mk_iff] | apply atNow_follows
    | exact Nat.le_refl _ | split

theorem execLockLoss_follows  (hF : Follows keep lock r0 s) :
    ∃ s1, execLockLoss s = .next s1 ∧ Follows keep lock r0 s1 := by
  refine ⟨_, rfl, ?_⟩
  try dsimp only
  with_reducible repeat' first
    | assumption | apply Follows.ite | apply datumRefresh_follows | apply loseLock_follows

theorem execRefMeasure_follows (ppm : Int) (hF : Follows keep lock r0 s) :
    ∃ s1, execRefMeasure ppm s = .next s1 ∧ Follows keep lock r0 s1 := by
  refine ⟨_, rfl, ?_⟩
  try dsimp only
  with_reducible repeat' first
    | assumption | intro _ | apply Follows.ite | apply wr_follows | apply onClk_follows
    | apply datumRefresh_follows | apply loseLock_follows | apply raiseClk_follows | simp only [Follows.mk_iff]
    | apply atNow_follows | exact Nat.le_refl _ | split

theorem execPllLocked_follows  (hF : Follows keep lock r0 s) :
    ∃ s1, execPllLocked s = .next s1 ∧ Follows keep lock r0 s1 := by
  refine ⟨_, rfl, ?_⟩
  try dsimp only
  with_reducible repeat' first
    | assumption | apply Follows.ite | apply datumRefresh_follows | apply pllLock_follows

theorem execPllRelock_follows (m : Master) (hF : Follows keep lock r0 s) :
    ∃ s1, execPllRelock m s = .next s1 ∧ Follows keep lock r0 s1 := by
  refine ⟨_, rfl, ?_⟩
  try dsimp only
  with_reducible repeat' first
    | assumption | intro _ | apply byBus_follows | apply datumRefresh_follows | apply writeClk_follows

theorem execSafeStateClear_follows (m : Master) (k : Fin 16) (hF : Follows keep lock r0 s) :
    ∃ s1, execSafeStateClear m k s = .next s1 ∧ Follows keep lock r0 s1 := by
  refine ⟨_, rfl, ?_⟩
  try dsimp only
  with_reducible repeat' first
    | assumption | intro _ | apply byBus_follows | apply railAfterClear_follows | apply writeSetCtl_follows

theorem execSaddleEvaluation_follows  (hF : Follows keep lock r0 s) :
    ∃ s1, execSaddleEvaluation s = .next s1 ∧ Follows keep lock r0 s1 := by
  refine ⟨_, rfl, ?_⟩
  try dsimp only
  with_reducible repeat' first
    | assumption | intro _ | apply Follows.ite | apply upto_follows | apply updSaddle_follows
    | apply saddleTable_follows | apply onPlumb_follows | simp only [Follows.mk_iff] | apply atNow_follows
    | exact Nat.le_refl _ | exact id | exact fun _ => rfl

end Sys2Proof.Machine
end

