-- ==== Sys2Proof/Laws/FollowPlumbChannel.lean ====
section
/-! SUPPORT. What the operations of Machine/PlumbChannel.lean keep (Laws/Follows.lean). -/

set_option linter.unusedTactic false
set_option linter.unreachableTactic false
set_option linter.unusedVariables false

namespace Sys2Proof.Machine

variable {keep lock : Bool} {r0 s : State}

theorem raisePch_follows (k : Nat) (hF : Follows keep lock r0 s) :
    Follows keep lock r0 (raisePch k s) := by
  unfold raisePch
  try dsimp only
  with_reducible repeat' first
    | assumption | apply raise_follows

theorem produce_follows (c : Nat) (hF : Follows false lock r0 s) :
    Follows false lock r0 (produce c s) := by
  unfold produce
  try dsimp only
  with_reducible repeat' first
    | assumption | intro _ | apply Follows.ite | apply upto_follows | apply onConn_follows
    | apply streamPut_follows | simp only [Follows.mk_iff] | apply atNow_follows | exact Nat.le_refl _
    | refine Follows.of_snd (by assumption) ?_ | split | dsimp only

theorem connFail_follows (c cause : Nat) (hF : Follows keep lock r0 s) :
    Follows keep lock r0 (connFail c cause s) := by
  unfold connFail
  try dsimp only
  with_reducible repeat' first
    | assumption | intro _ | apply onConn_follows | apply plumbEval_follows | apply logHap_follows
    | apply raisePch_follows | simp only [Follows.mk_iff] | apply atNow_follows | exact Nat.le_refl _

theorem connDiscard_follows (c : Nat) (f : Conn → Conn) (hF : Follows keep lock r0 s) :
    Follows keep lock r0 (connDiscard c f s) := by
  unfold connDiscard
  try dsimp only
  with_reducible repeat' first
    | assumption | intro _ | apply Follows.ite | apply onConn_follows | apply connFail_follows
    | simp only [Follows.mk_iff] | apply atNow_follows | exact Nat.le_refl _ | exact Nat.le_max_left _ _
    | exact Nat.le_add_right _ _

theorem connAccept_follows (c : Nat) (m : List Byte) (hF : Follows keep lock r0 s) :
    Follows keep lock r0 (connAccept c m s) := by
  unfold connAccept
  try dsimp only
  with_reducible repeat' first
    | assumption | intro _ | apply Follows.ite | apply onConn_follows | apply forEach_follows
    | apply wr_follows | apply plumbEval_follows | apply raisePch_follows | simp only [Follows.mk_iff]
    | apply atNow_follows | exact Nat.le_refl _

theorem checkMessage_follows (c : Nat) (m : List Byte) (hF : Follows keep lock r0 s) :
    Follows keep lock r0 (checkMessage c m s) := by
  unfold checkMessage
  try dsimp only
  with_reducible repeat' first
    | assumption | intro _ | apply Follows.ite | apply connDiscard_follows | apply connFail_follows
    | apply connAccept_follows | simp only [Follows.mk_iff] | apply atNow_follows | exact Nat.le_refl _
    | split

theorem consume_follows (c : Nat) (hF : Follows keep lock r0 s) :
    Follows keep lock r0 (consume c s) := by
  unfold consume
  try dsimp only
  with_reducible repeat' first
    | assumption | apply Follows.ite | apply streamTake_follows | apply checkMessage_follows
    | simp only [Follows.mk_iff] | apply atNow_follows | exact Nat.le_refl _ | refine Follows.of_snd (by assumption) ?_
    | split | dsimp only

theorem writeConnCtl_follows (c : Nat) (v : Word) (hF : Follows keep lock r0 s) :
    Follows keep lock r0 (writeConnCtl c v s) := by
  unfold writeConnCtl
  try dsimp only
  with_reducible repeat' first
    | assumption | intro _ | apply Follows.ite | apply raisePch_follows | apply draw_follows
    | apply onConn_follows | apply plumbEval_follows | simp only [Follows.mk_iff] | apply atNow_follows
    | exact Nat.le_refl _ | exact Nat.le_max_left _ _ | exact Nat.le_add_right _ _ | refine Follows.of_snd (by assumption) ?_
    | split | dsimp only

theorem writePch_follows (off : Nat) (v : Word) (hF : Follows keep lock r0 s) :
    Follows keep lock r0 (writePch off v s) := by
  unfold writePch
  try dsimp only
  with_reducible repeat' first
    | assumption | apply Follows.ite | apply plainWrite_follows | apply writeConnCtl_follows

theorem execProduceMessage_follows (c : Fin 8) (hF : Follows false lock r0 s) :
    ∃ s1, execProduceMessage c s = .next s1 ∧ Follows false lock r0 s1 := by
  refine ⟨_, rfl, ?_⟩
  try dsimp only
  with_reducible repeat' first
    | assumption | apply produce_follows

theorem execConsumeMessage_follows (c : Fin 8) (hF : Follows keep lock r0 s) :
    ∃ s1, execConsumeMessage c s = .next s1 ∧ Follows keep lock r0 s1 := by
  refine ⟨_, rfl, ?_⟩
  try dsimp only
  with_reducible repeat' first
    | assumption | apply consume_follows

theorem execConnectionWatchdog_follows (c : Fin 8) (hF : Follows keep lock r0 s) :
    ∃ s1, execConnectionWatchdog c s = .next s1 ∧ Follows keep lock r0 s1 := by
  refine ⟨_, rfl, ?_⟩
  try dsimp only
  with_reducible repeat' first
    | assumption | apply Follows.ite | apply connFail_follows | apply upto_follows

theorem connCommand_follows (m : Master) (c : Nat) (v : Word) (hF : Follows keep lock r0 s) :
    Follows keep lock r0 (connCommand m c v s) := by
  unfold connCommand
  try dsimp only
  with_reducible repeat' first
    | assumption | intro _ | apply Follows.ite | apply byBus_follows | apply onPlumb_follows
    | apply guarded_follows | apply writeConnCtl_follows | simp only [Follows.mk_iff] | apply atNow_follows
    | exact Nat.le_refl _ | exact id | exact fun _ => rfl

theorem execConnStart_follows (m : Master) (c : Fin 8) (hF : Follows keep lock r0 s) :
    ∃ s1, execConnStart m c s = .next s1 ∧ Follows keep lock r0 s1 := by
  refine ⟨_, rfl, ?_⟩
  try dsimp only
  with_reducible repeat' first
    | assumption | apply connCommand_follows

theorem execConnStop_follows (m : Master) (c : Fin 8) (hF : Follows keep lock r0 s) :
    ∃ s1, execConnStop m c s = .next s1 ∧ Follows keep lock r0 s1 := by
  refine ⟨_, rfl, ?_⟩
  try dsimp only
  with_reducible repeat' first
    | assumption | apply connCommand_follows

theorem handPlumb_follows (m : Master) (k : Nat) (v : Word) (hF : Follows keep lock r0 s) :
    Follows keep lock r0 (handPlumb m k v s) := by
  unfold handPlumb
  try dsimp only
  with_reducible repeat' first
    | assumption | intro _ | apply Follows.ite | apply deny_follows | apply refuseKey_follows
    | apply bookRequested_follows | apply onPlumb_follows | simp only [Follows.mk_iff]
    | apply atNow_follows | exact Nat.le_refl _ | exact id | exact fun _ => rfl | split

theorem applyHanded_follows (h : Handed) (hF : Follows keep lock r0 s) :
    Follows keep lock r0 (applyHanded h s) := by
  unfold applyHanded
  try dsimp only
  with_reducible repeat' first
    | assumption | apply Follows.ite | apply reviseHanded_follows | apply refuseKey_follows
    | apply setPlumb_follows | apply plumbEval_follows | apply plainWrite_follows | split

end Sys2Proof.Machine
end

