-- ==== Sys2Proof/Laws/FollowPower.lean ====
section
/-! SUPPORT. What the operations of Machine/Power.lean keep (Laws/Follows.lean). -/

set_option linter.unusedTactic false
set_option linter.unreachableTactic false
set_option linter.unusedVariables false

namespace Sys2Proof.Machine

variable {keep lock : Bool} {r0 s : State}

theorem raiseSys_follows (k : Nat) (hF : Follows keep lock r0 s) :
    Follows keep lock r0 (raiseSys k s) := by
  unfold raiseSys
  try dsimp only
  with_reducible repeat' first
    | assumption | apply raise_follows

theorem onPwr_follows (f : Pwr → Pwr) (hF : Follows keep lock r0 s) :
    Follows keep lock r0 (onPwr f s) := by
  unfold onPwr
  try dsimp only
  with_reducible repeat' first
    | assumption | simp only [Follows.mk_iff] | apply atNow_follows | exact Nat.le_refl _

/-- An update that shrinks the register files or the memory, or empties the event router. -/
theorem Follows.shrink {t : State} (h : Follows false lock r0 s) (hp : t.pending = s.pending) (hn : s.now ≤ t.now)
    (hr : smWf resetVal s.regs = true → smWf resetVal t.regs = true)
    (ha : smWf resetVal s.act = true → smWf resetVal t.act = true)
    (hm : Memory.wf s.mem = true → Memory.wf t.mem = true)
    (hs : s.plumb.spo = true → t.plumb.spo = true)
    (he : (t.evr.srcs = s.evr.srcs ∧ t.evr.chans = s.evr.chans) ∨ (t.evr.srcs = [] ∧ t.evr.chans = [])) :
    Follows false lock r0 t := by
  refine ⟨hp.trans h.queue, h.time.trans hn, fun g => ?_, (fun k => nomatch k), fun l o => hs (h.spo l o)⟩
  have g := h.good g
  refine ⟨hm g.mem, hr g.regs, ha g.act, ?_, ?_⟩
  · rcases he with ⟨h1, _⟩ | ⟨h1, _⟩ <;> intro x hx <;> rw [h1] at hx
    · exact g.queue x hx
    · cases hx
  · rcases he with ⟨_, h2⟩ | ⟨_, h2⟩ <;> intro x hx <;> rw [h2] at hx
    · exact g.recs x hx
    · cases hx

theorem keepRegs_follows (p : Nat → Bool) (hF : Follows keep lock r0 s) : Follows keep lock r0 (keepRegs p s) :=
  ⟨hF.queue, hF.time, fun g => let g := hF.good g; ⟨g.mem, smWf_filter _ _ _ g.regs, smWf_filter _ _ _ g.act, g.queue, g.recs⟩,
    hF.mem, hF.spo⟩

theorem dropDomain_follows (d : PDom) (hF : Follows keep lock r0 s) :
    Follows keep lock r0 (dropDomain d s) := by
  unfold dropDomain
  try dsimp only
  with_reducible repeat' first
    | assumption | intro _ | apply keepRegs_follows | simp only [Follows.mk_iff]
    | apply atNow_follows | exact Nat.le_refl _ | split

theorem dropPassGroups_follows  (hF : Follows keep lock r0 s) :
    Follows keep lock r0 (dropPassGroups s) := by
  unfold dropPassGroups
  try dsimp only
  with_reducible repeat' first
    | assumption | intro _ | apply forEach_follows | apply dropGroup_follows | simp only [Follows.mk_iff]
    | apply atNow_follows | exact Nat.le_refl _ | split

theorem pwmOff_follows  (hF : Follows keep lock r0 s) :
    Follows keep lock r0 (pwmOff s) := by
  unfold pwmOff
  try dsimp only
  with_reducible repeat' first
    | assumption | intro _ | apply forEach_follows | apply portOpen_follows | apply onGrid_follows
    | apply loseBoundaries_follows | apply lateSteps_follows | apply islRefresh_follows
    | simp only [Follows.mk_iff] | apply atNow_follows | exact Nat.le_refl _ | split

theorem offActions_follows (d : PDom) (hF : Follows false lock r0 s) : Follows false lock r0 (offActions d s) := by
  unfold offActions
  split
  · have h := trackersOff_follows (islOff_follows (gridsOff_follows (dropPassGroups_follows hF)))
    generalize trackersOff (islOff (gridsOff (dropPassGroups s))) = s1 at h ⊢
    exact h.shrink rfl (Nat.le_refl _)
      id id (smWf_filter _ _ _) id (.inl ⟨rfl, rfl⟩)
  · exact pwmOff_follows hF
  · exact lateSteps_follows (hF.upd rfl (Nat.le_refl _) rfl rfl rfl rfl rfl)
  · exact metersOff_follows hF
  · refine forEach_follows (fun r s hs => onRail_follows r _ hs) (plumbEval_follows ?_)
    have h := pairReset_follows (datumReset_follows (ringReset_follows hF))
    generalize pairReset (datumReset (ringReset s)) = s1 at h ⊢
    exact h.upd rfl (Nat.le_refl _) rfl rfl rfl rfl rfl
  · exact onVal_follows _ hF
  · exact onGio_follows _ hF
  · have h := railsOff_follows hF
    generalize railsOff s = s1 at h ⊢
    exact h.upd rfl (Nat.le_refl _) rfl rfl rfl rfl rfl
  · exact hF.upd rfl (Nat.le_refl _) rfl rfl rfl rfl rfl
  · exact hF

theorem nextMove_follows  (hF : Follows keep lock r0 s) :
    Follows keep lock r0 (nextMove s) := by
  unfold nextMove
  try dsimp only
  with_reducible repeat' first
    | assumption | intro _ | apply Follows.ite | apply onPwr_follows | simp only [Follows.mk_iff]
    | apply atNow_follows | exact Nat.le_refl _ | exact Nat.le_max_left _ _ | exact Nat.le_add_right _ _
    | split

theorem writePdCtl_follows (v : Word) (hF : Follows keep lock r0 s) :
    Follows keep lock r0 (writePdCtl v s) := by
  unfold writePdCtl
  try dsimp only
  with_reducible repeat' first
    | assumption | intro _ | apply Follows.ite | apply nextMove_follows | apply wr_follows
    | apply raiseSys_follows

theorem domainOn_follows (d : PDom) (hF : Follows keep lock r0 s) :
    Follows keep lock r0 (domainOn d s) := by
  unfold domainOn
  try dsimp only
  with_reducible repeat' first
    | assumption | intro _ | apply Follows.ite | apply dropDomain_follows | apply onPwr_follows
    | apply startPwm_follows | apply nextMove_follows | apply logHap_follows | apply raiseSys_follows
    | simp only [Follows.mk_iff] | apply atNow_follows | exact Nat.le_refl _

theorem domainOff_follows (d : PDom) (hF : Follows false lock r0 s) :
    Follows false lock r0 (domainOff d s) := by
  unfold domainOff
  try dsimp only
  with_reducible repeat' first
    | assumption | intro _ | apply dropDomain_follows | apply offActions_follows
    | apply onPwr_follows | apply nextMove_follows | apply logHap_follows | apply raiseSys_follows
    | simp only [Follows.mk_iff] | apply atNow_follows | exact Nat.le_refl _

theorem resetCause_follows (k : Nat) (hF : Follows keep lock r0 s) :
    Follows keep lock r0 (resetCause k s) := by
  unfold resetCause
  try dsimp only
  with_reducible repeat' first
    | assumption | intro _ | apply Follows.ite | apply onPwr_follows | simp only [Follows.mk_iff]
    | apply atNow_follows | exact Nat.le_refl _

theorem settleSources_follows  (hF : Follows keep lock r0 s) :
    Follows keep lock r0 (settleSources s) := by
  unfold settleSources
  try dsimp only
  with_reducible repeat' first
    | assumption | intro _ | apply Follows.ite | apply onPwr_follows | simp only [Follows.mk_iff]
    | apply atNow_follows | exact Nat.le_refl _ | exact Nat.le_max_left _ _ | exact Nat.le_add_right _ _
    | split

theorem beginSystem_follows (byDebug : Bool) (hF : Follows false lock r0 s) : Follows false lock r0 (beginSystem byDebug s) := by
  unfold beginSystem
  dsimp only
  refine startActive_follows (relockLevel_follows _ ?_)
  have h1 := forEach_follows (fun d s hs => offActions_follows (lock := lock) (r0 := r0) (s := s) d hs) (updReset_follows hF) (xs := domsOn s)
  generalize forEach (domsOn s) offActions (updReset s) = s1 at h1 ⊢
  have h0 : Follows false lock r0 (gioReset (keepRegs (keptBySystem byDebug) { s1 with adcs := [], doms := [] })) :=
    gioReset_follows (keepRegs_follows _ (h1.upd rfl (Nat.le_refl _) rfl rfl rfl rfl rfl))
  generalize gioReset (keepRegs (keptBySystem byDebug) { s1 with adcs := [], doms := [] }) = s0 at h0 ⊢
  refine Follows.ite (endFreeze_follows ?_) ?_ <;>
    exact h0.shrink rfl (Nat.le_refl _) id id id id (.inr ⟨rfl, rfl⟩)

theorem systemReset_follows (k : Nat) (byDebug : Bool) (hF : Follows false lock r0 s) :
    Follows false lock r0 (systemReset k byDebug s) := by
  unfold systemReset
  try dsimp only
  with_reducible repeat' first
    | assumption | apply Follows.ite | apply settleSources_follows | apply resetCause_follows
    | apply beginSystem_follows

theorem beginPowerOn_follows (hF : Follows false lock r0 s) : Follows false lock r0 (beginPowerOn s) := by
  unfold beginPowerOn
  dsimp only
  have h0 := logToValley_follows (keepStopFull_follows (updReset_follows (dropHanded_follows (tearMonument_follows
    (nvGrant s || decide (s.pwr.supply &&& 9 = 9)) hF))))
  generalize logToValley (keepStopFull (updReset (dropHanded (tearMonument (nvGrant s || decide (s.pwr.supply &&& 9 = 9)) s)))) =
    s0 at h0 ⊢
  refine valleyMark_follows ?_
  exact h0.shrink rfl (Nat.le_refl _) (smWf_filter _ _ _) (fun _ => rfl) (smWf_filter _ _ _) (fun _ => rfl) (.inr ⟨rfl, rfl⟩)

theorem powerOnReset_follows (k : Nat) (hF : Follows false lock r0 s) :
    Follows false lock r0 (powerOnReset k s) := by
  unfold powerOnReset
  try dsimp only
  with_reducible repeat' first
    | assumption | apply Follows.ite | apply settleSources_follows | apply resetCause_follows
    | apply beginPowerOn_follows

theorem bootChecks_follows  (hF : Follows keep lock r0 s) :
    Follows keep lock r0 (bootChecks s) := by
  unfold bootChecks
  try dsimp only
  with_reducible repeat' first
    | assumption | apply Follows.ite | apply bootImage_follows | apply milestone_follows
    | refine Follows.of_snd (by assumption) ?_ | split | dsimp only

theorem powerOnEnds_follows (hF : Follows keep false r0 s) : Follows keep false r0 (powerOnEnds s) := by
  unfold powerOnEnds
  dsimp only
  exact startActive_follows ⟨hF.queue, hF.time, fun g => let g := hF.good g; ⟨g.mem, g.regs, g.act, g.queue, g.recs⟩, hF.mem,
    fun l => absurd l Bool.false_ne_true⟩

theorem resetEnd_follows (hF : Follows false false r0 s) : Follows false false r0 (resetEnd s) := by
  unfold resetEnd
  split; · exact hF
  refine Follows.ite hF ?_
  dsimp only
  have h0 := upto_follows (s.pwr.srcEnd.getD s.now + 10 * usec) hF
  generalize upto (s.pwr.srcEnd.getD s.now + 10 * usec) s = s0 at h0 ⊢
  have h1 : ∀ f, Follows false false r0 (onPwr f s0) := fun f => onPwr_follows f h0
  have h2 : ∀ (k : ResetKind) (b : Bool) (s1 : State), Follows false false r0 s1 →
      Follows false false r0 (match k with
        | .powerOn => powerOnEnds s1
        | .system => { s1 with evr := { s1.evr with reset := true }, log := { s1.log with replay := b } }) := by
    intro k b s1 h
    cases k
    · exact powerOnEnds_follows h
    · exact h.shrink rfl (Nat.le_refl _) id id id id (.inl ⟨rfl, rfl⟩)
  refine Follows.ite (h2 _ _ _ (h1 _)) (bootChecks_follows (startEnds_follows (onUpd_follows _ (onPwr_follows _ ?_))))
  refine Follows.ite (raiseUpd_follows _ ?_) ?_ <;>
  refine Follows.ite (raiseVal_follows _ ?_) ?_ <;>
  refine Follows.ite (raiseDbg_follows _ ?_) ?_ <;>
  exact h2 _ _ _ (h1 _)

theorem onTherm_follows (f : Therm → Therm) (hF : Follows keep lock r0 s) :
    Follows keep lock r0 (onTherm f s) := by
  unfold onTherm
  try dsimp only
  with_reducible repeat' first
    | assumption | simp only [Follows.mk_iff] | apply atNow_follows | exact Nat.le_refl _

theorem raiseTherm_follows (k : Nat) (hF : Follows keep lock r0 s) :
    Follows keep lock r0 (raiseTherm k s) := by
  unfold raiseTherm
  try dsimp only
  with_reducible repeat' first
    | assumption | apply Follows.ite | apply raise_follows | split

theorem thermDemand_follows (mask : Word) (sw scan : Bool) (hF : Follows keep lock r0 s) :
    Follows keep lock r0 (thermDemand mask sw scan s) := by
  unfold thermDemand
  try dsimp only
  with_reducible repeat' first
    | assumption | intro _ | apply Follows.ite | apply onTherm_follows | simp only [Follows.mk_iff]
    | apply atNow_follows | exact Nat.le_refl _ | exact Nat.le_max_left _ _ | exact Nat.le_add_right _ _
    | split

theorem orderlyStop_follows  (hF : Follows keep lock r0 s) :
    Follows keep lock r0 (orderlyStop s) := by
  unfold orderlyStop
  try dsimp only
  with_reducible repeat' first
    | assumption | intro _ | apply logHap_follows | apply raiseTherm_follows | apply onTherm_follows
    | apply forEach_follows | apply islPoll_follows | apply gridLeave_follows | apply writeRailCtl_follows
    | apply writeTrkCtl_follows | simp only [Follows.mk_iff] | apply atNow_follows | exact Nat.le_refl _

theorem cutOff_follows (hF : Follows false lock r0 s) : Follows false lock r0 (cutOff s) := by
  unfold cutOff
  dsimp only
  have h1 := forEach_follows (xs := List.range 4) (fun n s hs => soutOff_follows n hs)
    (spoSource_follows (k := 10) (on := true) (fun _ => .inl rfl) hF)
  generalize forEach (List.range 4) soutOff (spoSource 10 true s) = s1 at h1 ⊢
  have h0 := logToValley_follows (forEach_follows (xs := domsOn s1)
    (fun d s hs => dropDomain_follows d (offActions_follows d hs))
    (keepStopFull_follows (tearMonument_follows (nvGrant s1) (updCut_follows false (nvLoss_follows h1)))))
  generalize logToValley (forEach (domsOn s1) (fun d s => dropDomain d (offActions d s))
    (keepStopFull (tearMonument (nvGrant s1) (updCut false (nvLoss s1))))) = s0 at h0 ⊢
  exact logHap_follows _ (onTherm_follows _ (valleyMark_follows (h0.shrink rfl (Nat.le_refl _) id id id id (.inr ⟨rfl, rfl⟩))))

theorem thermalRestart_follows  (hF : Follows false lock r0 s) :
    Follows false lock r0 (thermalRestart s) := by
  unfold thermalRestart
  try dsimp only
  with_reducible repeat' first
    | assumption | exact fun _ => .inl rfl | exact fun _ => .inr (by decide) | exact fun h => absurd h Bool.false_ne_true
    | intro _ | apply onClk_follows | apply onPwr_follows | apply settleSources_follows
    | apply resetCause_follows | apply beginSystem_follows | apply spoSource_follows | apply onTherm_follows
    | simp only [Follows.mk_iff] | apply atNow_follows | exact Nat.le_refl _ | exact Nat.le_max_left _ _
    | exact Nat.le_add_right _ _

theorem storeTemp_follows (n : Nat) (temp : Int) (hF : Follows keep lock r0 s) :
    Follows keep lock r0 (storeTemp n temp s) := by
  unfold storeTemp
  try dsimp only
  with_reducible repeat' first
    | assumption | apply wr_follows

theorem measured_follows (temps : List Int) (hF : Follows false lock r0 s) :
    Follows false lock r0 (measured temps s) := by
  unfold measured
  try dsimp only
  with_reducible repeat' first
    | assumption | intro _ | apply Follows.ite | apply upto_follows | apply forEach_follows
    | apply storeTemp_follows | apply onTherm_follows | apply wr_follows | apply thermDemand_follows
    | apply raiseTherm_follows | apply thermalRestart_follows | apply cutOff_follows | apply orderlyStop_follows
    | simp only [Follows.mk_iff] | apply atNow_follows | exact Nat.le_refl _ | split

theorem clearStop_follows  (hF : Follows keep lock r0 s) :
    Follows keep lock r0 (clearStop s) := by
  unfold clearStop
  try dsimp only
  with_reducible repeat' first
    | assumption | intro _ | apply Follows.ite | apply raiseTherm_follows | apply onTherm_follows
    | simp only [Follows.mk_iff] | apply atNow_follows | exact Nat.le_refl _

theorem writeTh_follows (v : Word) (hF : Follows keep lock r0 s) :
    Follows keep lock r0 (writeTh v s) := by
  unfold writeTh
  try dsimp only
  with_reducible repeat' first
    | assumption | apply Follows.ite | apply plainWrite_follows | apply refuseKey_follows

theorem writeTherm_follows (m : Master) (off : Nat) (v : Word) (hF : Follows keep lock r0 s) :
    Follows keep lock r0 (writeTherm m off v s) := by
  unfold writeTherm
  try dsimp only
  with_reducible repeat' first
    | assumption | intro _ | apply Follows.ite | apply rwlPath_follows | apply plainWrite_follows
    | apply writeTh_follows | apply thermDemand_follows | apply clearStop_follows

theorem writeSys_follows (m : Master) (off : Nat) (v : Word) (hF : Follows false lock r0 s) :
    Follows false lock r0 (writeSys m off v s) := by
  unfold writeSys
  try dsimp only
  with_reducible repeat' first
    | assumption | intro _ | apply Follows.ite | apply rwlPath_follows | apply writePdCtl_follows
    | apply raiseSys_follows | apply systemReset_follows | apply onPwr_follows | simp only [Follows.mk_iff]
    | apply atNow_follows | exact Nat.le_refl _

theorem execPdCtlWrite_follows (m : Master) (v : BitVec 16) (hF : Follows false lock r0 s) :
    ∃ s1, execPdCtlWrite m v s = .next s1 ∧ Follows false lock r0 s1 := by
  refine ⟨_, rfl, ?_⟩
  try dsimp only
  with_reducible repeat' first
    | assumption | intro _ | apply byBus_follows | apply writeSys_follows

theorem execPdOn_follows  (hF : Follows keep lock r0 s) :
    ∃ s1, execPdOn s = .next s1 ∧ Follows keep lock r0 s1 := by
  refine ⟨_, rfl, ?_⟩
  try dsimp only
  with_reducible repeat' first
    | assumption | apply domainOn_follows | simp only [Follows.mk_iff] | apply atNow_follows
    | exact Nat.le_refl _ | split

theorem execPdOff_follows  (hF : Follows false lock r0 s) :
    ∃ s1, execPdOff s = .next s1 ∧ Follows false lock r0 s1 := by
  refine ⟨_, rfl, ?_⟩
  try dsimp only
  with_reducible repeat' first
    | assumption | apply domainOff_follows | simp only [Follows.mk_iff] | apply atNow_follows
    | exact Nat.le_refl _ | split

theorem execSupplyFall_follows (n : Fin 4) (hF : Follows false lock r0 s) :
    ∃ s1, execSupplyFall n s = .next s1 ∧ Follows false lock r0 s1 := by
  refine ⟨_, rfl, ?_⟩
  try dsimp only
  with_reducible repeat' first
    | assumption | intro _ | apply Follows.ite | apply setChargers_follows | apply onPwr_follows
    | apply onVal_follows | apply updCut_follows | apply nvLoss_follows | apply powerOnReset_follows
    | simp only [Follows.mk_iff] | apply atNow_follows | exact Nat.le_refl _ | split

theorem execSupplyRise_follows (n : Fin 4) (hF : Follows keep lock r0 s) :
    ∃ s1, execSupplyRise n s = .next s1 ∧ Follows keep lock r0 s1 := by
  refine ⟨_, rfl, ?_⟩
  try dsimp only
  with_reducible repeat' first
    | assumption | intro _ | apply Follows.ite | apply settleSources_follows | apply setChargers_follows
    | apply onPwr_follows | simp only [Follows.mk_iff] | apply atNow_follows | exact Nat.le_refl _

theorem execPorstAssert_follows  (hF : Follows false lock r0 s) :
    ∃ s1, execPorstAssert s = .next s1 ∧ Follows false lock r0 s1 := by
  refine ⟨_, rfl, ?_⟩
  try dsimp only
  with_reducible repeat' first
    | assumption | intro _ | apply powerOnReset_follows | apply onPwr_follows | simp only [Follows.mk_iff]
    | apply atNow_follows | exact Nat.le_refl _

theorem execSysrstAssert_follows  (hF : Follows false lock r0 s) :
    ∃ s1, execSysrstAssert s = .next s1 ∧ Follows false lock r0 s1 := by
  refine ⟨_, rfl, ?_⟩
  try dsimp only
  with_reducible repeat' first
    | assumption | intro _ | apply systemReset_follows | apply onPwr_follows | simp only [Follows.mk_iff]
    | apply atNow_follows | exact Nat.le_refl _

theorem execRstCtl_follows (m : Master) (v : BitVec 16) (hF : Follows false lock r0 s) :
    ∃ s1, execRstCtl m v s = .next s1 ∧ Follows false lock r0 s1 := by
  refine ⟨_, rfl, ?_⟩
  try dsimp only
  with_reducible repeat' first
    | assumption | intro _ | apply byBus_follows | apply writeSys_follows

theorem execResetEnd_follows  (hF : Follows false false r0 s) :
    ∃ s1, execResetEnd s = .next s1 ∧ Follows false false r0 s1 := by
  refine ⟨_, rfl, ?_⟩
  try dsimp only
  with_reducible repeat' first
    | assumption | intro _ | apply Follows.ite | apply resetEnd_follows | simp only [Follows.mk_iff]
    | apply atNow_follows | exact Nat.le_refl _ | exact Nat.le_max_left _ _ | exact Nat.le_add_right _ _
    | refine Follows.of_snd (by assumption) ?_ | refine Follows.of_fst (by assumption) ?_
    | simp only [id_eq] | split | dsimp only

theorem execGuardScan_follows  (hF : Follows keep lock r0 s) :
    ∃ s1, execGuardScan s = .next s1 ∧ Follows keep lock r0 s1 := by
  refine ⟨_, rfl, ?_⟩
  try dsimp only
  with_reducible repeat' first
    | assumption | intro _ | apply Follows.ite | apply upto_follows | apply thermDemand_follows
    | apply onTherm_follows | simp only [Follows.mk_iff] | apply atNow_follows | exact Nat.le_refl _

theorem execMeas_follows (m : Master) (v : BitVec 24) (hF : Follows keep lock r0 s) :
    ∃ s1, execMeas m v s = .next s1 ∧ Follows keep lock r0 s1 := by
  refine ⟨_, rfl, ?_⟩
  try dsimp only
  with_reducible repeat' first
    | assumption | intro _ | apply byBus_follows | apply writeTherm_follows

theorem execMeasurementDone_follows (temps : List Int) (hF : Follows false lock r0 s) :
    ∃ s1, execMeasurementDone temps s = .next s1 ∧ Follows false lock r0 s1 := by
  refine ⟨_, rfl, ?_⟩
  try dsimp only
  with_reducible repeat' first
    | assumption | apply Follows.ite | apply measured_follows | split

theorem execStopTime_follows  (hF : Follows keep lock r0 s) :
    ∃ s1, execStopTime s = .next s1 ∧ Follows keep lock r0 s1 := by
  refine ⟨_, rfl, ?_⟩
  try dsimp only
  with_reducible repeat' first
    | assumption | intro _ | apply Follows.ite | apply upto_follows | apply forEach_follows
    | apply latchSet_follows | apply onTherm_follows | simp only [Follows.mk_iff] | apply atNow_follows
    | exact Nat.le_refl _ | split

theorem execClrStop_follows (m : Master) (hF : Follows keep lock r0 s) :
    ∃ s1, execClrStop m s = .next s1 ∧ Follows keep lock r0 s1 := by
  refine ⟨_, rfl, ?_⟩
  try dsimp only
  with_reducible repeat' first
    | assumption | intro _ | apply byBus_follows | apply writeTherm_follows

theorem execValleySample_follows (mv : Nat) (hF : Follows keep lock r0 s) :
    ∃ s1, execValleySample mv s = .next s1 ∧ Follows keep lock r0 s1 := by
  refine ⟨_, rfl, ?_⟩
  try dsimp only
  with_reducible repeat' first
    | assumption | apply valleySample_follows | apply askGrant_follows

theorem execHoldupEnd_follows  (hF : Follows false lock r0 s) :
    ∃ s1, execHoldupEnd s = .next s1 ∧ Follows false lock r0 s1 := by
  refine ⟨_, rfl, ?_⟩
  try dsimp only
  with_reducible repeat' first
    | assumption | intro _ | apply Follows.ite | apply nvFlush_follows | apply slotWritten_follows
    | apply upto_follows | apply updCut_follows | apply onVal_follows | simp only [Follows.mk_iff]
    | apply atNow_follows | exact Nat.le_refl _ | split

end Sys2Proof.Machine
end

