-- ==== Sys2Proof/Laws/FollowReads.lean ====
section
/-! SUPPORT. What the operations of Machine/Reads.lean keep (Laws/Follows.lean). -/

set_option linter.unusedTactic false
set_option linter.unreachableTactic false
set_option linter.unusedVariables false

namespace Sys2Proof.Machine

variable {keep lock : Bool} {r0 s : State}

theorem after_follows {f : State → Host.Outcome State Fault Refusal} {s1 : State}
    (hf : ∃ s2, f s1 = .next s2 ∧ Follows keep lock r0 s2) : Follows keep lock r0 (after f s1) := by
  obtain ⟨s2, h, hF⟩ := hf
  unfold after
  rw [h]
  exact hF

theorem pageRead_follows (m : Master) (t : PageType) (n off : Nat) (hF : Follows false lock r0 s) :
    Follows false lock r0 (pageRead m t n off s) := by
  unfold pageRead
  try dsimp only
  with_reducible repeat' first
    | assumption | apply Follows.ite | apply respond_follows | apply after_follows
    | apply execTickLoRead_follows | apply execRtcLoRead_follows | apply execTimeLoRead_follows
    | apply execFbDataRead_follows | apply execSwpPRead_follows | apply execAmpDataAccess_follows
    | apply readDecTime_follows | apply execLogDataRead_follows | apply readRec0_follows
    | apply execAvgRead_follows | apply execResultRead_follows | apply execCapDataRead_follows
    | apply execIaccLoRead_follows | apply execCycCntRead_follows | apply execELoRead_follows
    | apply execSfpDataRead_follows | apply execRmemDataAccess_follows | apply readCtrLo_follows
    | apply readSpiRx_follows | apply readUartRx_follows | simp only [Follows.mk_iff] | apply atNow_follows
    | exact Nat.le_refl _ | split

end Sys2Proof.Machine
end

