-- ==== Sys2Proof/Laws/FollowBus.lean ====
section
/-! SUPPORT. What the operations of Machine/Bus.lean keep (Laws/Follows.lean). -/

set_option linter.unusedTactic false
set_option linter.unreachableTactic false
set_option linter.unusedVariables false

namespace Sys2Proof.Machine

variable {keep lock : Bool} {r0 s : State}

theorem selectForm_follows (t : PageType) (n off : Nat) (hF : Follows keep lock r0 s) :
    Follows keep lock r0 (selectForm t n off s) := by
  unfold selectForm
  try dsimp only
  with_reducible repeat' first
    | assumption | intro _ | apply Follows.ite | apply onLeg_follows | simp only [Follows.mk_iff]
    | apply atNow_follows | exact Nat.le_refl _ | split

theorem shadowWrite_follows (m : Master) (t : PageType) (n off : Nat) (v : Word) (hF : Follows keep lock r0 s) :
    Follows keep lock r0 (shadowWrite m t n off v s) := by
  unfold shadowWrite
  try dsimp only
  with_reducible repeat' first
    | assumption | apply Follows.ite | apply wrb_follows | apply openGroup_follows
    | apply setGrp_follows | apply selectForm_follows | apply plainWrite_follows | simp only [Follows.mk_iff]
    | apply atNow_follows | exact Nat.le_refl _

theorem armByBus_follows (t : PageType) (n g : Nat) (hF : Follows keep lock r0 s) :
    Follows keep lock r0 (armByBus t n g s) := by
  unfold armByBus
  try dsimp only
  with_reducible repeat' first
    | assumption | apply Follows.ite | apply setGrp_follows | apply armGroup_follows
    | simp only [Follows.mk_iff] | apply atNow_follows | exact Nat.le_refl _

theorem writeCommit_follows (t : PageType) (n : Nat) (v : Word) (hF : Follows keep lock r0 s) :
    Follows keep lock r0 (writeCommit t n v s) := by
  unfold writeCommit
  try dsimp only
  with_reducible repeat' first
    | assumption | intro _ | apply forEach_follows | apply dropGroup_follows | apply armByBus_follows

theorem clearCommitStat_follows (t : PageType) (n : Nat) (v : Word) (hF : Follows keep lock r0 s) :
    Follows keep lock r0 (clearCommitStat t n v s) := by
  unfold clearCommitStat
  try dsimp only
  with_reducible repeat' first
    | assumption | apply Follows.ite | apply wr_follows

theorem clearTrips_follows (first n : Nat) (v : Word) (hF : Follows keep lock r0 s) :
    Follows keep lock r0 (clearTrips first n v s) := by
  unfold clearTrips
  try dsimp only
  with_reducible repeat' first
    | assumption | intro _ | apply forEach_follows | apply clearTrip_follows

theorem writeEvClr_follows (t : PageType) (n : Nat) (raw : Bool) (v : Word) (hF : Follows keep lock r0 s) :
    Follows keep lock r0 (writeEvClr t n raw v s) := by
  unfold writeEvClr
  try dsimp only
  with_reducible repeat' first
    | assumption | apply Follows.ite | apply clearTrips_follows | apply clearCauses_follows
    | simp only [Follows.mk_iff] | apply atNow_follows | exact Nat.le_refl _ | split

theorem alertEnabled_follows (t : PageType) (n : Nat) (fresh : Word) (hF : Follows keep lock r0 s) :
    Follows keep lock r0 (alertEnabled t n fresh s) := by
  unfold alertEnabled
  try dsimp only
  with_reducible repeat' first
    | assumption | apply Follows.ite | simp only [Follows.mk_iff] | apply atNow_follows
    | exact Nat.le_refl _

theorem writeEnables_follows (t : PageType) (n : Nat) (v : Word) (hF : Follows keep lock r0 s) :
    Follows keep lock r0 (writeEnables t n v s) := by
  unfold writeEnables
  try dsimp only
  with_reducible repeat' first
    | assumption | apply alertEnabled_follows | apply writeEvEn_follows | simp only [Follows.mk_iff]
    | apply atNow_follows | exact Nat.le_refl _ | split

theorem writeHeader_follows (t : PageType) (n off : Nat) (v : Word) (hF : Follows keep lock r0 s) :
    Follows keep lock r0 (writeHeader t n off v s) := by
  unfold writeHeader
  split
  · exact Follows.ite ⟨hF.queue, hF.time, fun g => let g := hF.good g; ⟨g.mem, g.regs, g.act, g.queue, g.recs⟩, hF.mem, hF.spo⟩ hF
  · exact writeEvClr_follows _ _ _ _ hF
  · exact writeEnables_follows _ _ _ hF
  · exact writeEvClr_follows _ _ _ _ hF
  · exact writeCommit_follows _ _ _ hF
  · exact clearCommitStat_follows _ _ _ hF
  · exact hF

theorem guardedEffect_follows (m : Master) (t : PageType) (n off : Nat) (v : Word) (hF : Follows false lock r0 s) :
    Follows false lock r0 (guardedEffect m t n off v s) := by
  unfold guardedEffect
  try dsimp only
  with_reducible repeat' first
    | assumption | apply Follows.ite | apply writeTripCfg_follows | apply settle_follows
    | apply plainWrite_follows | apply writePhCfg_follows | apply islRefresh_follows | apply writeGrid_follows
    | apply writeIsl_follows | apply writeMppt_follows | apply writeReg_follows | apply writeMtr_follows
    | apply spurSides_follows | apply writeRing_follows | apply writeDatum_follows | apply writePair_follows
    | apply writeWdtCfg_follows | apply nextMove_follows | simp only [Follows.mk_iff] | apply atNow_follows
    | exact Nat.le_refl _ | split

theorem noteIgnored_follows (t : PageType) (n off : Nat) (ok : Bool) (hF : Follows keep lock r0 s) :
    Follows keep lock r0 (noteIgnored t n off ok s) := by
  unfold noteIgnored
  try dsimp only
  with_reducible repeat' first
    | assumption | apply Follows.ite | apply wrb_follows

theorem guardedWrite_follows (m : Master) (t : PageType) (n off : Nat) (v : Word) (hF : Follows false lock r0 s) :
    Follows false lock r0 (guardedWrite m t n off v s) := by
  unfold guardedWrite
  try dsimp only
  with_reducible repeat' first
    | assumption | intro _ | apply Follows.ite | apply noteIgnored_follows | apply rwlPathBy_follows
    | apply guardedEffect_follows | apply regAlert_follows | split

theorem writeTrip_follows (off : Nat) (v : Word) (hF : Follows keep lock r0 s) :
    Follows keep lock r0 (writeTrip off v s) := by
  unfold writeTrip
  try dsimp only
  with_reducible repeat' first
    | assumption | apply Follows.ite | apply clearTrips_follows | apply plainWrite_follows
    | apply occur_follows | apply clearTrip_follows | apply clearHeld_follows | apply railAfterClear_follows
    | apply writeSetCtl_follows | simp only [Follows.mk_iff] | apply atNow_follows | exact Nat.le_refl _
    | split

theorem writeCmp_follows (n off : Nat) (v : Word) (hF : Follows keep lock r0 s) :
    Follows keep lock r0 (writeCmp n off v s) := by
  unfold writeCmp
  try dsimp only
  with_reducible repeat' first
    | assumption | apply Follows.ite | apply writeMonCfg_follows | apply clearLatched_follows
    | apply monUpdate_follows | apply plainWrite_follows | simp only [Follows.mk_iff] | apply atNow_follows
    | exact Nat.le_refl _ | split

theorem writeEng_follows (n off : Nat) (v : Word) (hF : Follows false lock r0 s) :
    Follows false lock r0 (writeEng n off v s) := by
  unfold writeEng
  try dsimp only
  with_reducible repeat' first
    | assumption | apply Follows.ite | apply writeLaneCtrl_follows | apply writeBank_follows
    | apply plainWrite_follows

theorem writeEngc_follows (off : Nat) (v : Word) (hF : Follows false lock r0 s) :
    Follows false lock r0 (writeEngc off v s) := by
  unfold writeEngc
  try dsimp only
  with_reducible repeat' first
    | assumption | apply Follows.ite | apply engcCtl_follows | apply writeVerify_follows
    | apply writeTtype_follows | apply plainWrite_follows

theorem writeEvr_follows (off : Nat) (v : Word) (hF : Follows keep lock r0 s) :
    Follows keep lock r0 (writeEvr off v s) := by
  unfold writeEvr
  split
  · exact forEach_follows (fun j s hs => occur_follows _ hs) hF
  · exact Follows.ite (clearLogFull_follows hF) hF
  · exact plainWrite_follows _ _ (hF.upd rfl (Nat.le_refl _) rfl rfl rfl rfl rfl)
  · exact Follows.ite (goLog_follows _ hF) hF
  · refine Follows.ite ?_ (plainWrite_follows _ _ hF)
    exact Follows.ite (setChan_follows _ _ (fun g => chan_length g _) hF) hF

theorem writePlumb_follows (m : Master) (off : Nat) (v : Word) (hF : Follows keep false r0 s) :
    Follows keep false r0 (writePlumb m off v s) := by
  unfold writePlumb
  try dsimp only
  with_reducible repeat' first
    | assumption | intro _ | apply Follows.ite | apply writeSpoCtl_follows | apply writeSoutCtl_follows
    | apply writeSadCtl_follows | apply writePwData_follows | apply pwCommand_follows | apply plainWrite_follows
    | simp only [Follows.mk_iff] | apply atNow_follows | exact Nat.le_refl _ | exact Nat.le_max_left _ _
    | exact Nat.le_add_right _ _ | refine Follows.of_snd (by assumption) ?_ | refine Follows.of_fst (by assumption) ?_
    | simp only [id_eq] | split | dsimp only

theorem writeRingPage_follows (n off : Nat) (v : Word) (hF : Follows false lock r0 s) :
    Follows false lock r0 (writeRingPage n off v s) := by
  unfold writeRingPage
  try dsimp only
  with_reducible repeat' first
    | assumption | apply Follows.ite | apply memWrWord_follows | apply wrf_follows
    | apply writeRing_follows

theorem plainEffect_follows (m : Master) (t : PageType) (n off : Nat) (v : Word) (hF : Follows false false r0 s) :
    Follows false false r0 (plainEffect m t n off v s) := by
  unfold plainEffect
  try dsimp only
  with_reducible repeat' first
    | assumption | intro _ | apply Follows.ite | apply writeSys_follows | apply datumRefresh_follows
    | apply writeClk_follows | apply writeTherm_follows | apply writeValley_follows | apply islRefresh_follows
    | apply writeDomCtrl_follows | apply writeDarm_follows | apply writeLegCfg_follows
    | apply plainWrite_follows | apply writeTrip_follows | apply writeCmp_follows | apply writeEng_follows
    | apply writeEngc_follows | apply writeSnd_follows | apply gridCtl_follows | apply writeGrid_follows
    | apply writeIsl_follows | apply writeMppt_follows | apply writeReg_follows | apply writeMtr_follows
    | apply writeRingPage_follows | apply writeDatum_follows | apply writePlumb_follows
    | apply writePch_follows | apply writePairCtl_follows | apply writeEvr_follows | apply kickWdt_follows
    | apply writePmc_follows | apply writeUpd_follows | apply writeGpio_follows | apply writeI2cCmd_follows
    | apply writeSpi_follows | apply writeUart_follows | apply writeEth_follows | simp only [Follows.mk_iff]
    | apply atNow_follows | exact Nat.le_refl _ | exact Nat.le_max_left _ _ | exact Nat.le_add_right _ _
    | refine Follows.of_snd (by assumption) ?_ | refine Follows.of_fst (by assumption) ?_
    | simp only [id_eq] | split | dsimp only

theorem guarded_follows (m : Master) (t : PageType) (n off : Nat) (v : Word) (hF : Follows false false r0 s) :
    Follows false false r0 (guarded m t n off v s) := by
  unfold guarded
  try dsimp only
  with_reducible repeat' first
    | assumption | intro _ | apply Follows.ite | apply plainEffect_follows | apply handPlumb_follows
    | apply guardedWrite_follows | simp only [Follows.mk_iff] | apply atNow_follows | exact Nat.le_refl _
    | exact Nat.le_max_left _ _ | exact Nat.le_add_right _ _ | refine Follows.of_snd (by assumption) ?_
    | refine Follows.of_fst (by assumption) ?_ | simp only [id_eq] | split | dsimp only

theorem pageWrite_follows (m : Master) (t : PageType) (n off : Nat) (v : Word) (hF : Follows false false r0 s) :
    Follows false false r0 (pageWrite m t n off v s) := by
  unfold pageWrite
  try dsimp only
  with_reducible repeat' first
    | assumption | intro _ | apply Follows.ite | apply flushOuts_follows | apply onPlumb_follows
    | apply guarded_follows | apply writeHeader_follows | apply swStart_follows | apply shadowWrite_follows
    | apply plainEffect_follows | simp only [Follows.mk_iff] | apply atNow_follows | exact Nat.le_refl _
    | exact Nat.le_max_left _ _ | exact Nat.le_add_right _ _ | refine Follows.of_snd (by assumption) ?_
    | refine Follows.of_fst (by assumption) ?_ | exact id | exact fun _ => rfl | simp only [id_eq]
    | split | dsimp only

theorem waitedWrite_follows (h : Handed) (hF : Follows false false r0 s) :
    Follows false false r0 (waitedWrite h s) := by
  unfold waitedWrite
  try dsimp only
  with_reducible repeat' first
    | assumption | intro _ | apply Follows.ite | apply writeHeader_follows | apply plainEffect_follows
    | simp only [Follows.mk_iff] | apply atNow_follows | exact Nat.le_refl _ | exact Nat.le_max_left _ _
    | exact Nat.le_add_right _ _ | refine Follows.of_snd (by assumption) ?_ | refine Follows.of_fst (by assumption) ?_
    | simp only [id_eq] | split | dsimp only

theorem releaseWaiting_follows (kept hs : List Handed) (hF : Follows false false r0 s) :
    Follows false false r0 (releaseWaiting kept hs s) := by
  induction hs generalizing kept s with
  | nil => exact onPlumb_follows id hF
  | cons h hs ih =>
    unfold releaseWaiting
    exact Follows.ite (ih _ hF) (ih _ (waitedWrite_follows h hF))

theorem plumbApply_follows  (hF : Follows false false r0 s) :
    Follows false false r0 (plumbApply s) := by
  unfold plumbApply
  try dsimp only
  with_reducible repeat' first
    | assumption | intro _ | apply Follows.ite | apply releaseWaiting_follows | apply applyHanded_follows
    | simp only [Follows.mk_iff] | apply atNow_follows | exact Nat.le_refl _ | exact Nat.le_max_left _ _
    | exact Nat.le_add_right _ _ | refine Follows.of_snd (by assumption) ?_ | refine Follows.of_fst (by assumption) ?_
    | simp only [id_eq] | split | dsimp only

theorem execPlumbWriteApplied_follows  (hF : Follows false false r0 s) :
    ∃ s1, execPlumbWriteApplied s = .next s1 ∧ Follows false false r0 s1 := by
  refine ⟨_, rfl, ?_⟩
  try dsimp only
  with_reducible repeat' first
    | assumption | intro _ | apply Follows.ite | apply plumbApply_follows | simp only [Follows.mk_iff]
    | apply atNow_follows | exact Nat.le_refl _ | exact Nat.le_max_left _ _ | exact Nat.le_add_right _ _
    | refine Follows.of_snd (by assumption) ?_ | refine Follows.of_fst (by assumption) ?_
    | simp only [id_eq] | split | dsimp only

theorem regWrite_follows (m : Master) (a : Nat) (v : Word) (hF : Follows false false r0 s) :
    Follows false false r0 (regWrite m a v s) := by
  unfold regWrite
  try dsimp only
  with_reducible repeat' first
    | assumption | intro _ | apply Follows.ite | apply busCycle_follows | apply atPage_follows
    | apply pageWrite_follows | simp only [Follows.mk_iff] | apply atNow_follows | exact Nat.le_refl _
    | exact Nat.le_max_left _ _ | exact Nat.le_add_right _ _ | refine Follows.of_snd (by assumption) ?_
    | refine Follows.of_fst (by assumption) ?_ | simp only [id_eq] | split | dsimp only

theorem regRead_follows (m : Master) (a : Nat) (hF : Follows false lock r0 s) :
    Follows false lock r0 (regRead m a s) := by
  unfold regRead
  try dsimp only
  with_reducible repeat' first
    | assumption | apply Follows.ite | apply busCycle_follows | apply respond_follows
    | apply pageRead_follows | apply flushOuts_follows | simp only [Follows.mk_iff] | apply atNow_follows
    | exact Nat.le_refl _ | split

theorem busWrite_follows (m : Master) (req : Option Nat) (a : Nat) (bytes : List Byte) (hF : Follows false false r0 s) :
    Follows false false r0 (busWrite m req a bytes s) := by
  unfold busWrite
  try dsimp only
  with_reducible repeat' first
    | assumption | intro _ | apply Follows.ite | apply pmcAccess_follows | apply busError_follows
    | apply regWrite_follows | apply nvBusWrite_follows | apply busCycle_follows | apply sramWrite_follows
    | apply engBusWrite_follows | simp only [Follows.mk_iff] | apply atNow_follows | exact Nat.le_refl _
    | exact Nat.le_max_left _ _ | exact Nat.le_add_right _ _ | refine Follows.of_snd (by assumption) ?_
    | refine Follows.of_fst (by assumption) ?_ | simp only [id_eq] | split | dsimp only

theorem execShadowWrite_follows (m : Master) (a : Nat) (v : Word) (hF : Follows false false r0 s) :
    ∃ s1, execShadowWrite m a v s = .next s1 ∧ Follows false false r0 s1 := by
  refine ⟨_, rfl, ?_⟩
  try dsimp only
  with_reducible repeat' first
    | assumption | intro _ | apply Follows.ite | apply busWrite_follows | simp only [Follows.mk_iff]
    | apply atNow_follows | exact Nat.le_refl _ | exact Nat.le_max_left _ _ | exact Nat.le_add_right _ _
    | refine Follows.of_snd (by assumption) ?_ | refine Follows.of_fst (by assumption) ?_
    | simp only [id_eq] | split | dsimp only

theorem commitAt_follows (m : Master) (page : BitVec 12) (v : Word) (hF : Follows false false r0 s) :
    Follows false false r0 (commitAt m page v s) := by
  unfold commitAt
  try dsimp only
  with_reducible repeat' first
    | assumption | intro _ | apply Follows.ite | apply busWrite_follows | simp only [Follows.mk_iff]
    | apply atNow_follows | exact Nat.le_refl _ | exact Nat.le_max_left _ _ | exact Nat.le_add_right _ _
    | refine Follows.of_snd (by assumption) ?_ | refine Follows.of_fst (by assumption) ?_
    | simp only [id_eq] | split | dsimp only

theorem execArm_follows (m : Master) (page : BitVec 12) (groups : Byte) (hF : Follows false false r0 s) :
    ∃ s1, execArm m page groups s = .next s1 ∧ Follows false false r0 s1 := by
  refine ⟨_, rfl, ?_⟩
  try dsimp only
  with_reducible repeat' first
    | assumption | intro _ | apply Follows.ite | apply commitAt_follows | simp only [Follows.mk_iff]
    | apply atNow_follows | exact Nat.le_refl _ | exact Nat.le_max_left _ _ | exact Nat.le_add_right _ _
    | refine Follows.of_snd (by assumption) ?_ | refine Follows.of_fst (by assumption) ?_
    | simp only [id_eq] | split | dsimp only

theorem execDiscard_follows (m : Master) (page : BitVec 12) (groups : Byte) (hF : Follows false false r0 s) :
    ∃ s1, execDiscard m page groups s = .next s1 ∧ Follows false false r0 s1 := by
  refine ⟨_, rfl, ?_⟩
  try dsimp only
  with_reducible repeat' first
    | assumption | intro _ | apply Follows.ite | apply commitAt_follows | simp only [Follows.mk_iff]
    | apply atNow_follows | exact Nat.le_refl _ | exact Nat.le_max_left _ _ | exact Nat.le_add_right _ _
    | refine Follows.of_snd (by assumption) ?_ | refine Follows.of_fst (by assumption) ?_
    | simp only [id_eq] | split | dsimp only

theorem execRwlWrite_follows (m : Master) (a : Nat) (v : Word) (hF : Follows false false r0 s) :
    ∃ s1, execRwlWrite m a v s = .next s1 ∧ Follows false false r0 s1 := by
  refine ⟨_, rfl, ?_⟩
  try dsimp only
  with_reducible repeat' first
    | assumption | intro _ | apply Follows.ite | apply busWrite_follows | simp only [Follows.mk_iff]
    | apply atNow_follows | exact Nat.le_refl _ | exact Nat.le_max_left _ _ | exact Nat.le_add_right _ _
    | refine Follows.of_snd (by assumption) ?_ | refine Follows.of_fst (by assumption) ?_
    | simp only [id_eq] | split | dsimp only

theorem execRegisterWrite_follows (m : Master) (a : Nat) (bytes : List Byte) (hF : Follows false false r0 s) :
    ∃ s1, execRegisterWrite m a bytes s = .next s1 ∧ Follows false false r0 s1 := by
  refine ⟨_, rfl, ?_⟩
  try dsimp only
  with_reducible repeat' first
    | assumption | intro _ | apply Follows.ite | apply busWrite_follows | simp only [Follows.mk_iff]
    | apply atNow_follows | exact Nat.le_refl _ | exact Nat.le_max_left _ _ | exact Nat.le_add_right _ _
    | refine Follows.of_snd (by assumption) ?_ | refine Follows.of_fst (by assumption) ?_
    | simp only [id_eq] | split | dsimp only

end Sys2Proof.Machine
end

