-- ==== Sys2Proof/Laws/FollowCmdPorts.lean ====
section
/-! SUPPORT. What the operations of Machine/CmdPorts.lean keep (Laws/Follows.lean). -/

set_option linter.unusedTactic false
set_option linter.unreachableTactic false
set_option linter.unusedVariables false

namespace Sys2Proof.Machine

variable {keep lock : Bool} {r0 s : State}

theorem onPorts_follows (f : CmdPorts → CmdPorts) (hF : Follows keep lock r0 s) :
    Follows keep lock r0 (onPorts f s) := by
  unfold onPorts
  try dsimp only
  with_reducible repeat' first
    | assumption | simp only [Follows.mk_iff] | apply atNow_follows | exact Nat.le_refl _

theorem avsApply_follows (r : Nat) (w : AvsWrite) (hF : Follows keep lock r0 s) :
    Follows keep lock r0 (avsApply r w s) := by
  unfold avsApply
  try dsimp only
  with_reducible repeat' first
    | assumption | intro _ | apply Follows.ite | apply railCommand_follows | apply onRail_follows
    | apply raiseReg_follows | apply incHeld_follows | apply wr_follows | simp only [Follows.mk_iff]
    | apply atNow_follows | exact Nat.le_refl _ | split

theorem avsWrite_follows (f : AvsFrame) (commit : Bool) (w : AvsWrite) (hF : Follows keep lock r0 s) :
    Follows keep lock r0 (avsWrite f commit w s) := by
  unfold avsWrite
  try dsimp only
  with_reducible repeat' first
    | assumption | intro _ | apply Follows.ite | apply onPorts_follows | apply forEach_follows
    | apply avsApply_follows | apply setRail_follows | simp only [Follows.mk_iff] | apply atNow_follows
    | exact Nat.le_refl _

theorem avsRead_follows (f : AvsFrame) (get : State → Nat → Nat) (hF : Follows keep lock r0 s) :
    Follows keep lock r0 (avsRead f get s) := by
  unfold avsRead
  try dsimp only
  with_reducible repeat' first
    | assumption | intro _ | apply Follows.ite | apply onPorts_follows | simp only [Follows.mk_iff]
    | apply atNow_follows | exact Nat.le_refl _ | split

theorem execAvsVoltageWrite_follows (f : AvsFrame) (commit : Bool) (mv : BitVec 16) (hF : Follows keep lock r0 s) :
    ∃ s1, execAvsVoltageWrite f commit mv s = .next s1 ∧ Follows keep lock r0 s1 := by
  refine ⟨_, rfl, ?_⟩
  try dsimp only
  with_reducible repeat' first
    | assumption | apply avsWrite_follows

theorem execAvsVoltageRead_follows (f : AvsFrame) (hF : Follows keep lock r0 s) :
    ∃ s1, execAvsVoltageRead f s = .next s1 ∧ Follows keep lock r0 s1 := by
  refine ⟨_, rfl, ?_⟩
  try dsimp only
  with_reducible repeat' first
    | assumption | intro _ | apply avsRead_follows

theorem execAvsTransrateWrite_follows (f : AvsFrame) (commit : Bool) (up dn : BitVec 8) (hF : Follows keep lock r0 s) :
    ∃ s1, execAvsTransrateWrite f commit up dn s = .next s1 ∧ Follows keep lock r0 s1 := by
  refine ⟨_, rfl, ?_⟩
  try dsimp only
  with_reducible repeat' first
    | assumption | apply avsWrite_follows

theorem execAvsTransrateRead_follows (f : AvsFrame) (hF : Follows keep lock r0 s) :
    ∃ s1, execAvsTransrateRead f s = .next s1 ∧ Follows keep lock r0 s1 := by
  refine ⟨_, rfl, ?_⟩
  try dsimp only
  with_reducible repeat' first
    | assumption | intro _ | apply avsRead_follows

theorem execAvsCurrentRead_follows (f : AvsFrame) (hF : Follows keep lock r0 s) :
    ∃ s1, execAvsCurrentRead f s = .next s1 ∧ Follows keep lock r0 s1 := by
  refine ⟨_, rfl, ?_⟩
  try dsimp only
  with_reducible repeat' first
    | assumption | intro _ | apply avsRead_follows

theorem execAvsTemperatureRead_follows (f : AvsFrame) (hF : Follows keep lock r0 s) :
    ∃ s1, execAvsTemperatureRead f s = .next s1 ∧ Follows keep lock r0 s1 := by
  refine ⟨_, rfl, ?_⟩
  try dsimp only
  with_reducible repeat' first
    | assumption | intro _ | apply avsRead_follows

theorem execAvsResetVoltage_follows (f : AvsFrame) (commit : Bool) (hF : Follows keep lock r0 s) :
    ∃ s1, execAvsResetVoltage f commit s = .next s1 ∧ Follows keep lock r0 s1 := by
  refine ⟨_, rfl, ?_⟩
  try dsimp only
  with_reducible repeat' first
    | assumption | apply avsWrite_follows

theorem execAvsStatusWrite_follows (f : AvsFrame) (commit : Bool) (hF : Follows keep lock r0 s) :
    ∃ s1, execAvsStatusWrite f commit s = .next s1 ∧ Follows keep lock r0 s1 := by
  refine ⟨_, rfl, ?_⟩
  try dsimp only
  with_reducible repeat' first
    | assumption | apply avsWrite_follows

theorem execAvsStatusRead_follows (f : AvsFrame) (hF : Follows keep lock r0 s) :
    ∃ s1, execAvsStatusRead f s = .next s1 ∧ Follows keep lock r0 s1 := by
  refine ⟨_, rfl, ?_⟩
  try dsimp only
  with_reducible repeat' first
    | assumption | intro _ | apply Follows.ite | apply avsRead_follows

theorem execAvsInvalidCommand_follows (f : AvsFrame) (hF : Follows keep lock r0 s) :
    ∃ s1, execAvsInvalidCommand f s = .next s1 ∧ Follows keep lock r0 s1 := by
  refine ⟨_, rfl, ?_⟩
  try dsimp only
  with_reducible repeat' first
    | assumption | intro _ | apply Follows.ite | apply onPorts_follows | simp only [Follows.mk_iff]
    | apply atNow_follows | exact Nat.le_refl _

theorem pmbAnswer_follows (ack : Bool) (data : Nat) (hF : Follows keep lock r0 s) :
    Follows keep lock r0 (pmbAnswer ack data s) := by
  unfold pmbAnswer
  try dsimp only
  with_reducible repeat' first
    | assumption | intro _ | apply onPorts_follows | simp only [Follows.mk_iff] | apply atNow_follows
    | exact Nat.le_refl _

theorem pmbWrite_follows (addr : BitVec 7) (bad : Bool) (act : State → State) (hF_act : ∀ s, Follows keep lock r0 s → Follows keep lock r0 (act s)) (hF : Follows keep lock r0 s) :
    Follows keep lock r0 (pmbWrite addr bad act s) := by
  unfold pmbWrite
  try dsimp only
  with_reducible repeat' first
    | assumption | apply Follows.ite | apply pmbAnswer_follows | apply hF_act | split

theorem pmbRead_follows (addr : BitVec 7) (f : State → Nat → Nat) (hF : Follows keep lock r0 s) :
    Follows keep lock r0 (pmbRead addr f s) := by
  unfold pmbRead
  try dsimp only
  with_reducible repeat' first
    | assumption | apply Follows.ite | apply pmbAnswer_follows

theorem execPage_follows (addr : BitVec 7) (badPec : Bool) (v : Byte) (hF : Follows keep lock r0 s) :
    ∃ s1, execPage addr badPec v s = .next s1 ∧ Follows keep lock r0 s1 := by
  refine ⟨_, rfl, ?_⟩
  try dsimp only
  with_reducible repeat' first
    | assumption | intro _ | apply pmbWrite_follows | apply onPorts_follows | simp only [Follows.mk_iff]
    | apply atNow_follows | exact Nat.le_refl _ | split

theorem execOperation_follows (addr : BitVec 7) (badPec : Bool) (v : Byte) (hF : Follows keep lock r0 s) :
    ∃ s1, execOperation addr badPec v s = .next s1 ∧ Follows keep lock r0 s1 := by
  refine ⟨_, rfl, ?_⟩
  try dsimp only
  with_reducible repeat' first
    | assumption | intro _ | apply Follows.ite | apply pmbWrite_follows | apply railEnable_follows
    | apply railDisable_follows | simp only [Follows.mk_iff] | apply atNow_follows | exact Nat.le_refl _
    | split

theorem execClearFaults_follows (addr : BitVec 7) (badPec : Bool) (hF : Follows keep lock r0 s) :
    ∃ s1, execClearFaults addr badPec s = .next s1 ∧ Follows keep lock r0 s1 := by
  refine ⟨_, rfl, ?_⟩
  try dsimp only
  with_reducible repeat' first
    | assumption | intro _ | apply pmbWrite_follows | apply onPorts_follows | apply clearCauses_follows
    | simp only [Follows.mk_iff] | apply atNow_follows | exact Nat.le_refl _

theorem execVoutMode_follows (addr : BitVec 7) (hF : Follows keep lock r0 s) :
    ∃ s1, execVoutMode addr s = .next s1 ∧ Follows keep lock r0 s1 := by
  refine ⟨_, rfl, ?_⟩
  try dsimp only
  with_reducible repeat' first
    | assumption | intro _ | apply pmbRead_follows

theorem execVoutCommand_follows (addr : BitVec 7) (badPec : Bool) (v : BitVec 16) (hF : Follows keep lock r0 s) :
    ∃ s1, execVoutCommand addr badPec v s = .next s1 ∧ Follows keep lock r0 s1 := by
  refine ⟨_, rfl, ?_⟩
  try dsimp only
  with_reducible repeat' first
    | assumption | intro _ | apply pmbWrite_follows | apply railCommand_follows

theorem execStatusWord_follows (addr : BitVec 7) (hF : Follows keep lock r0 s) :
    ∃ s1, execStatusWord addr s = .next s1 ∧ Follows keep lock r0 s1 := by
  refine ⟨_, rfl, ?_⟩
  try dsimp only
  with_reducible repeat' first
    | assumption | intro _ | apply Follows.ite | apply pmbRead_follows | simp only [Follows.mk_iff]
    | apply atNow_follows | exact Nat.le_refl _ | split

theorem execReadVout_follows (addr : BitVec 7) (hF : Follows keep lock r0 s) :
    ∃ s1, execReadVout addr s = .next s1 ∧ Follows keep lock r0 s1 := by
  refine ⟨_, rfl, ?_⟩
  try dsimp only
  with_reducible repeat' first
    | assumption | intro _ | apply pmbRead_follows

theorem execReadIout_follows (addr : BitVec 7) (hF : Follows keep lock r0 s) :
    ∃ s1, execReadIout addr s = .next s1 ∧ Follows keep lock r0 s1 := by
  refine ⟨_, rfl, ?_⟩
  try dsimp only
  with_reducible repeat' first
    | assumption | intro _ | apply pmbRead_follows

theorem execPmbusRevision_follows (addr : BitVec 7) (hF : Follows keep lock r0 s) :
    ∃ s1, execPmbusRevision addr s = .next s1 ∧ Follows keep lock r0 s1 := by
  refine ⟨_, rfl, ?_⟩
  try dsimp only
  with_reducible repeat' first
    | assumption | intro _ | apply pmbRead_follows

theorem execPmbusUnsupported_follows (_addr : BitVec 7) (_code : Byte) (hF : Follows keep lock r0 s) :
    ∃ s1, execPmbusUnsupported _addr _code s = .next s1 ∧ Follows keep lock r0 s1 := by
  refine ⟨_, rfl, ?_⟩
  try dsimp only
  with_reducible repeat' first
    | assumption | apply pmbAnswer_follows

theorem execAlertResponse_follows  (hF : Follows keep lock r0 s) :
    ∃ s1, execAlertResponse s = .next s1 ∧ Follows keep lock r0 s1 := by
  refine ⟨_, rfl, ?_⟩
  try dsimp only
  with_reducible repeat' first
    | assumption | intro _ | apply Follows.ite | apply onPorts_follows | apply pmbAnswer_follows
    | simp only [Follows.mk_iff] | apply atNow_follows | exact Nat.le_refl _

end Sys2Proof.Machine
end

