-- ==== Sys2Proof/Laws/FollowHarts.lean ====
section
/-! SUPPORT. What the operations of Machine/Harts.lean keep (Laws/Follows.lean). -/

set_option linter.unusedTactic false
set_option linter.unreachableTactic false
set_option linter.unusedVariables false

namespace Sys2Proof.Machine

variable {keep lock : Bool} {r0 s : State}

theorem onDbg_follows (f : Dbg → Dbg) (hF : Follows keep lock r0 s) :
    Follows keep lock r0 (onDbg f s) := by
  unfold onDbg
  try dsimp only
  with_reducible repeat' first
    | assumption | simp only [Follows.mk_iff] | apply atNow_follows | exact Nat.le_refl _

theorem dmResult_follows (v : DWord) (hF : Follows keep lock r0 s) :
    Follows keep lock r0 (dmResult v s) := by
  unfold dmResult
  try dsimp only
  with_reducible repeat' first
    | assumption | intro _ | apply respond_follows | apply onDbg_follows | simp only [Follows.mk_iff]
    | apply atNow_follows | exact Nat.le_refl _

theorem drawDWord_follows  (hF : Follows keep lock r0 s) :
    Follows keep lock r0 (drawDWord s).2 := by
  unfold drawDWord
  try dsimp only
  with_reducible repeat' first
    | assumption | apply draw_follows | refine Follows.of_snd (by assumption) ?_
    | split | dsimp only

theorem hartRaw_follows (h regno : Nat) (hF : Follows keep lock r0 s) :
    Follows keep lock r0 (hartRaw h regno s).2 := by
  unfold hartRaw
  try dsimp only
  with_reducible repeat' first
    | assumption | intro _ | apply drawDWord_follows | apply onHart_follows | simp only [Follows.mk_iff]
    | apply atNow_follows | exact Nat.le_refl _ | refine Follows.of_snd (by assumption) ?_
    | split | dsimp only

theorem setRaw_follows (h regno : Nat) (v : DWord) (hF : Follows keep lock r0 s) :
    Follows keep lock r0 (setRaw h regno v s) := by
  unfold setRaw
  try dsimp only
  with_reducible repeat' first
    | assumption | intro _ | apply onHart_follows | simp only [Follows.mk_iff] | apply atNow_follows
    | exact Nat.le_refl _

theorem readMip_follows (h : Nat) (hF : Follows keep lock r0 s) :
    Follows keep lock r0 (readMip h s).2 := by
  unfold readMip
  try dsimp only
  with_reducible repeat' first
    | assumption | intro _ | apply Follows.ite | apply hartRaw_follows | refine Follows.of_snd (by assumption) ?_
    | split | dsimp only

theorem readSip_follows (h : Nat) (hF : Follows keep lock r0 s) :
    Follows keep lock r0 (readSip h s).2 := by
  unfold readSip
  try dsimp only
  with_reducible repeat' first
    | assumption | intro _ | apply Follows.ite | apply readMip_follows | apply hartRaw_follows
    | refine Follows.of_snd (by assumption) ?_ | split | dsimp only

theorem writeMip_follows (h : Nat) (ks : List Nat) (v : DWord) (hF : Follows keep lock r0 s) :
    Follows keep lock r0 (writeMip h ks v s) := by
  unfold writeMip
  try dsimp only
  with_reducible repeat' first
    | assumption | intro _ | apply Follows.ite | apply hartRaw_follows | apply setRaw_follows
    | apply onHart_follows | simp only [Follows.mk_iff] | apply atNow_follows | exact Nat.le_refl _
    | refine Follows.of_snd (by assumption) ?_ | split | dsimp only

theorem writeSip_follows (h : Nat) (v : DWord) (hF : Follows keep lock r0 s) :
    Follows keep lock r0 (writeSip h v s) := by
  unfold writeSip
  try dsimp only
  with_reducible repeat' first
    | assumption | apply hartRaw_follows | apply writeMip_follows | refine Follows.of_snd (by assumption) ?_
    | split | dsimp only

theorem pmpCfg_follows (h i : Nat) (hF : Follows keep lock r0 s) :
    Follows keep lock r0 (pmpCfg h i s).2 := by
  unfold pmpCfg
  try dsimp only
  with_reducible repeat' first
    | assumption | apply Follows.ite | apply hartRaw_follows | refine Follows.of_snd (by assumption) ?_
    | split | dsimp only

theorem readPmpCfg_follows (h i : Nat) (hF : Follows keep lock r0 s) : Follows keep lock r0 (readPmpCfg h i s).2 := by
  unfold readPmpCfg
  suffices H : ∀ (l : List Nat) (p : Nat × State), Follows keep lock r0 p.2 → Follows keep lock r0 (l.foldl (fun (r : Nat × State) j =>
      let (c, s) := pmpCfg h (i + j) r.2
      (r.1 + c * 256 ^ j, s)) p).2 from H _ _ hF
  intro l
  induction l with
  | nil => exact fun p hp => hp
  | cons j l ih => exact fun p hp => ih _ (pmpCfg_follows _ _ hp)

theorem writePmpCfg_follows (h i : Nat) (v : DWord) (hF : Follows keep lock r0 s) :
    Follows keep lock r0 (writePmpCfg h i v s) := by
  unfold writePmpCfg
  try dsimp only
  with_reducible repeat' first
    | assumption | intro _ | apply Follows.ite | apply forEach_follows | apply pmpCfg_follows
    | apply setRaw_follows | refine Follows.of_snd (by assumption) ?_ | split | dsimp only

theorem readPmpAddr_follows (h i : Nat) (hF : Follows keep lock r0 s) :
    Follows keep lock r0 (readPmpAddr h i s).2 := by
  unfold readPmpAddr
  try dsimp only
  with_reducible repeat' first
    | assumption | apply Follows.ite | apply pmpCfg_follows | apply hartRaw_follows
    | refine Follows.of_snd (by assumption) ?_ | split | dsimp only

theorem writePmpAddr_follows (h i : Nat) (v : DWord) (hF : Follows keep lock r0 s) :
    Follows keep lock r0 (writePmpAddr h i v s) := by
  unfold writePmpAddr
  try dsimp only
  with_reducible repeat' first
    | assumption | apply Follows.ite | apply pmpCfg_follows | apply setRaw_follows
    | refine Follows.of_snd (by assumption) ?_ | split | dsimp only

theorem hartReg_follows {h regno v : Nat} {t : State} (e : hartReg h regno s = some (v, t)) (hF : Follows keep lock r0 s) :
    Follows keep lock r0 t := by
  unfold hartReg at e
  split at e <;> with_reducible first
    | exact Follows.of_snd (Option.some.inj e) (readMip_follows _ hF)
    | exact Follows.of_snd (Option.some.inj e) (readSip_follows _ hF)
    | exact Follows.of_snd (Option.some.inj e) (readPmpCfg_follows _ _ hF)
    | exact Follows.of_snd (Option.some.inj e) hF
    | (split_ifs at e <;> first
        | exact Follows.of_snd (Option.some.inj e) (ctrValue_follows _ hF)
        | exact Follows.of_snd (Option.some.inj e) (readPmpAddr_follows _ _ hF)
        | exact Follows.of_snd (Option.some.inj e) hF
        | exact absurd e (by simp))

theorem readHart_follows (h regno : Nat) (hF : Follows keep lock r0 s) : Follows keep lock r0 (readHart h regno s) := by
  unfold readHart
  split
  · exact dmResult_follows _ (hartReg_follows ‹_› hF)
  · exact dmResult_follows _ (hartRaw_follows _ _ hF)

theorem writeHart_follows (h regno : Nat) (v : DWord) (hF : Follows keep lock r0 s) :
    Follows keep lock r0 (writeHart h regno v s) := by
  unfold writeHart
  try dsimp only
  with_reducible repeat' first
    | assumption | intro _ | apply Follows.ite | apply respond_follows | apply onHart_follows
    | apply writeMip_follows | apply writeSip_follows | apply writePmpCfg_follows | apply writePmpAddr_follows
    | apply setRaw_follows | simp only [Follows.mk_iff] | apply atNow_follows | exact Nat.le_refl _
    | split

end Sys2Proof.Machine
end

