-- ==== Sys2Proof/Laws/FollowDebug.lean ====
section
/-! SUPPORT. What the operations of Machine/Debug.lean keep (Laws/Follows.lean). -/

set_option linter.unusedTactic false
set_option linter.unreachableTactic false
set_option linter.unusedVariables false

namespace Sys2Proof.Machine

variable {keep lock : Bool} {r0 s : State}

theorem dmDenied_follows  (hF : Follows keep lock r0 s) :
    Follows keep lock r0 (dmDenied s) := by
  unfold dmDenied
  try dsimp only
  with_reducible repeat' first
    | assumption | intro _ | apply Follows.ite | apply respond_follows | apply logHap_follows
    | apply raiseDbg_follows | apply onDbg_follows | simp only [Follows.mk_iff] | apply atNow_follows
    | exact Nat.le_refl _ | split

theorem drawBits_follows (n : Nat) (hF : Follows keep lock r0 s) : Follows keep lock r0 (drawBits n s).2 := by
  induction n generalizing s with
  | zero => exact hF
  | succ n ih => exact ih (draw_follows hF)

theorem selectIr_follows (code : Nat) (hF : Follows keep lock r0 s) :
    Follows keep lock r0 (selectIr code s) := by
  unfold selectIr
  try dsimp only
  with_reducible repeat' first
    | assumption | intro _ | apply onDbg_follows | simp only [Follows.mk_iff] | apply atNow_follows
    | exact Nat.le_refl _

theorem scanBoundary_follows (cells : List Bool) (hF : Follows keep lock r0 s) :
    Follows keep lock r0 (scanBoundary cells s) := by
  unfold scanBoundary
  try dsimp only
  with_reducible repeat' first
    | assumption | intro _ | apply drawBits_follows | apply onDbg_follows | simp only [Follows.mk_iff]
    | apply atNow_follows | exact Nat.le_refl _ | refine Follows.of_snd (by assumption) ?_
    | split | dsimp only

theorem setDmactive_follows (on : Bool) (hF : Follows keep lock r0 s) :
    Follows keep lock r0 (setDmactive on s) := by
  unfold setDmactive
  try dsimp only
  with_reducible repeat' first
    | assumption | intro _ | apply Follows.ite | apply nextMove_follows | apply onDbg_follows
    | simp only [Follows.mk_iff] | apply atNow_follows | exact Nat.le_refl _

theorem debugReset_follows  (hF : Follows false lock r0 s) :
    Follows false lock r0 (debugReset s) := by
  unfold debugReset
  try dsimp only
  with_reducible repeat' first
    | assumption | apply Follows.ite | apply systemReset_follows

theorem dmReg_follows (a : Nat) (hF : Follows keep lock r0 s) :
    Follows keep lock r0 (dmReg a s).2 := by
  unfold dmReg
  try dsimp only
  with_reducible repeat' first
    | assumption | intro _ | apply draw_follows | apply onDbg_follows | simp only [Follows.mk_iff]
    | apply atNow_follows | exact Nat.le_refl _ | refine Follows.of_snd (by assumption) ?_
    | split | dsimp only

theorem busRead_follows (m : Master) (a : Nat) (hF : Follows false lock r0 s) :
    Follows false lock r0 (busRead m a s) := by
  unfold busRead
  try dsimp only
  with_reducible repeat' first
    | assumption | intro _ | apply Follows.ite | apply busError_follows | apply regRead_follows
    | apply respond_follows | apply nvRead_follows | apply sramCheck_follows

theorem setDm_follows (a : Nat) (v : Word) (hF : Follows keep lock r0 s) :
    Follows keep lock r0 (setDm a v s) := by
  unfold setDm
  try dsimp only
  with_reducible repeat' first
    | assumption | intro _ | apply onDbg_follows | simp only [Follows.mk_iff] | apply atNow_follows
    | exact Nat.le_refl _

theorem dmStatus_follows  (hF : Follows keep lock r0 s) :
    Follows keep lock r0 (dmStatus s).2 := by
  unfold dmStatus
  try dsimp only
  with_reducible repeat' first
    | assumption | intro _ | apply Follows.ite | apply draw_follows | refine Follows.of_snd (by assumption) ?_
    | split | dsimp only

theorem writeDmcontrol_follows (v : Word) (hF : Follows false lock r0 s) :
    Follows false lock r0 (writeDmcontrol v s) := by
  unfold writeDmcontrol
  try dsimp only
  with_reducible repeat' first
    | assumption | intro _ | apply Follows.ite | apply setDmactive_follows | apply debugReset_follows
    | apply setDm_follows | apply forEach_follows | apply onHart_follows | apply haltGroup_follows
    | apply resumeHart_follows | apply onDbg_follows | simp only [Follows.mk_iff] | apply atNow_follows
    | exact Nat.le_refl _

theorem setCmdErr_follows (e : Nat) (hF : Follows keep lock r0 s) :
    Follows keep lock r0 (setCmdErr e s) := by
  unfold setCmdErr
  try dsimp only
  with_reducible repeat' first
    | assumption | apply setDm_follows

theorem dmData_follows (a : Nat) (hF : Follows keep lock r0 s) :
    Follows keep lock r0 (dmData a s).2 := by
  unfold dmData
  try dsimp only
  with_reducible repeat' first
    | assumption | apply dmReg_follows | refine Follows.of_snd (by assumption) ?_
    | split | dsimp only

theorem dmRead_follows (req : Option Nat) (a n : Nat) (hF : Follows false lock r0 s) :
    Follows false lock r0 (dmRead req a n s).2 := by
  unfold dmRead
  try dsimp only
  with_reducible repeat' first
    | assumption | intro _ | apply Follows.ite | apply pmcAccess_follows | apply busError_follows
    | apply busRead_follows | simp only [Follows.mk_iff] | apply atNow_follows | exact Nat.le_refl _
    | exact Nat.le_max_left _ _ | exact Nat.le_add_right _ _ | refine Follows.of_snd (by assumption) ?_
    | refine Follows.of_fst (by assumption) ?_ | simp only [id_eq] | split | dsimp only

theorem dmMemory_follows (req : Option Nat) (w : Bool) (a : Nat) (v : Word) (hF : Follows false false r0 s) :
    Follows false false r0 (dmMemory req w a v s) := by
  unfold dmMemory
  try dsimp only
  with_reducible repeat' first
    | assumption | intro _ | apply Follows.ite | apply busWrite_follows | apply dmRead_follows
    | apply dmResult_follows | simp only [Follows.mk_iff] | apply atNow_follows | exact Nat.le_refl _
    | exact Nat.le_max_left _ _ | exact Nat.le_add_right _ _ | refine Follows.of_snd (by assumption) ?_
    | refine Follows.of_fst (by assumption) ?_ | simp only [id_eq] | split | dsimp only

theorem cmdRegister_follows (v : Word) (hF : Follows keep lock r0 s) :
    Follows keep lock r0 (cmdRegister v s) := by
  unfold cmdRegister
  try dsimp only
  with_reducible repeat' first
    | assumption | intro _ | apply Follows.ite | apply setCmdErr_follows | apply dmData_follows
    | apply draw_follows | apply writeHart_follows | apply readHart_follows | apply setDm_follows
    | apply onHart_follows | simp only [Follows.mk_iff] | apply atNow_follows | exact Nat.le_refl _
    | refine Follows.of_snd (by assumption) ?_ | split | dsimp only

theorem cmdMemory_follows (v : Word) (hF : Follows false false r0 s) :
    Follows false false r0 (cmdMemory v s) := by
  unfold cmdMemory
  try dsimp only
  with_reducible repeat' first
    | assumption | intro _ | apply Follows.ite | apply setCmdErr_follows | apply dmData_follows
    | apply busError_follows | apply busWrite_follows | apply dmRead_follows | apply dmResult_follows
    | apply setDm_follows | simp only [Follows.mk_iff] | apply atNow_follows | exact Nat.le_refl _
    | exact Nat.le_max_left _ _ | exact Nat.le_add_right _ _ | refine Follows.of_snd (by assumption) ?_
    | refine Follows.of_fst (by assumption) ?_ | simp only [id_eq] | split | dsimp only

theorem writeCommand_follows (v : Word) (hF : Follows false false r0 s) :
    Follows false false r0 (writeCommand v s) := by
  unfold writeCommand
  try dsimp only
  with_reducible repeat' first
    | assumption | intro _ | apply Follows.ite | apply setDm_follows | apply cmdRegister_follows
    | apply cmdMemory_follows | apply setCmdErr_follows | simp only [Follows.mk_iff] | apply atNow_follows
    | exact Nat.le_refl _ | exact Nat.le_max_left _ _ | exact Nat.le_add_right _ _ | refine Follows.of_snd (by assumption) ?_
    | refine Follows.of_fst (by assumption) ?_ | simp only [id_eq] | split | dsimp only

theorem sbAccess_follows (w : Bool) (hF : Follows false false r0 s) :
    Follows false false r0 (sbAccess w s) := by
  unfold sbAccess
  try dsimp only
  with_reducible repeat' first
    | assumption | intro _ | apply Follows.ite | apply setDm_follows | apply dmData_follows
    | apply busWrite_follows | apply dmRead_follows | simp only [Follows.mk_iff] | apply atNow_follows
    | exact Nat.le_refl _ | exact Nat.le_max_left _ _ | exact Nat.le_add_right _ _ | refine Follows.of_snd (by assumption) ?_
    | refine Follows.of_fst (by assumption) ?_ | simp only [id_eq] | split | dsimp only

theorem dmWrite_follows (a : Nat) (v : Word) (hF : Follows false false r0 s) :
    Follows false false r0 (dmWrite a v s) := by
  unfold dmWrite
  try dsimp only
  with_reducible repeat' first
    | assumption | intro _ | apply Follows.ite | apply writeDmcontrol_follows | apply setDm_follows
    | apply setCmdErr_follows | apply writeCommand_follows | apply sbAccess_follows | simp only [Follows.mk_iff]
    | apply atNow_follows | exact Nat.le_refl _ | exact Nat.le_max_left _ _ | exact Nat.le_add_right _ _
    | refine Follows.of_snd (by assumption) ?_ | refine Follows.of_fst (by assumption) ?_
    | simp only [id_eq] | split | dsimp only

theorem dmReadReg_follows (a : Nat) (hF : Follows false false r0 s) :
    Follows false false r0 (dmReadReg a s).2 := by
  unfold dmReadReg
  try dsimp only
  with_reducible repeat' first
    | assumption | intro _ | apply Follows.ite | apply dmStatus_follows | apply draw_follows
    | apply dmReg_follows | apply sbAccess_follows | simp only [Follows.mk_iff] | apply atNow_follows
    | exact Nat.le_refl _ | exact Nat.le_max_left _ _ | exact Nat.le_add_right _ _ | refine Follows.of_snd (by assumption) ?_
    | refine Follows.of_fst (by assumption) ?_ | simp only [id_eq] | split | dsimp only

theorem dmiAccess_follows (w : Bool) (a : Nat) (v : Word) (hF : Follows false false r0 s) :
    Follows false false r0 (dmiAccess w a v s) := by
  unfold dmiAccess
  try dsimp only
  with_reducible repeat' first
    | assumption | intro _ | apply Follows.ite | apply respond_follows | apply writeDmcontrol_follows
    | apply dmWrite_follows | apply dmReadReg_follows | simp only [Follows.mk_iff] | apply atNow_follows
    | exact Nat.le_refl _ | exact Nat.le_max_left _ _ | exact Nat.le_add_right _ _ | refine Follows.of_snd (by assumption) ?_
    | refine Follows.of_fst (by assumption) ?_ | simp only [id_eq] | split | dsimp only

theorem execExtest_follows (cells : List Bool) (hF : Follows keep lock r0 s) :
    ∃ s1, execExtest cells s = .next s1 ∧ Follows keep lock r0 s1 := by
  refine ⟨_, rfl, ?_⟩
  try dsimp only
  with_reducible repeat' first
    | assumption | apply selectIr_follows | apply scanBoundary_follows

theorem execSamplePreload_follows (cells : List Bool) (hF : Follows keep lock r0 s) :
    ∃ s1, execSamplePreload cells s = .next s1 ∧ Follows keep lock r0 s1 := by
  refine ⟨_, rfl, ?_⟩
  try dsimp only
  with_reducible repeat' first
    | assumption | apply selectIr_follows | apply scanBoundary_follows

theorem execIdcode_follows  (hF : Follows keep lock r0 s) :
    ∃ s1, execIdcode s = .next s1 ∧ Follows keep lock r0 s1 := by
  refine ⟨_, rfl, ?_⟩
  try dsimp only
  with_reducible repeat' first
    | assumption | apply respond_follows | apply selectIr_follows

theorem execBypass_follows (_code : BitVec 5) (hF : Follows keep lock r0 s) :
    ∃ s1, execBypass _code s = .next s1 ∧ Follows keep lock r0 s1 := by
  refine ⟨_, rfl, ?_⟩
  try dsimp only
  with_reducible repeat' first
    | assumption | apply selectIr_follows

theorem execDtmcs_follows (v : Word) (hF : Follows keep lock r0 s) :
    ∃ s1, execDtmcs v s = .next s1 ∧ Follows keep lock r0 s1 := by
  refine ⟨_, rfl, ?_⟩
  try dsimp only
  with_reducible repeat' first
    | assumption | intro _ | apply Follows.ite | apply draw_follows | apply selectIr_follows
    | apply respond_follows | apply onDbg_follows | simp only [Follows.mk_iff] | apply atNow_follows
    | exact Nat.le_refl _ | refine Follows.of_snd (by assumption) ?_ | split | dsimp only

theorem execDmi_follows (w : Bool) (a : BitVec 7) (v : Word) (hF : Follows false false r0 s) :
    ∃ s1, execDmi w a v s = .next s1 ∧ Follows false false r0 s1 := by
  refine ⟨_, rfl, ?_⟩
  try dsimp only
  with_reducible repeat' first
    | assumption | intro _ | apply Follows.ite | apply selectIr_follows | apply dmiAccess_follows
    | apply dmDenied_follows | simp only [Follows.mk_iff] | apply atNow_follows | exact Nat.le_refl _
    | exact Nat.le_max_left _ _ | exact Nat.le_add_right _ _ | refine Follows.of_snd (by assumption) ?_
    | refine Follows.of_fst (by assumption) ?_ | simp only [id_eq] | split | dsimp only

theorem execDmactive_follows (on : Bool) (hF : Follows keep lock r0 s) :
    ∃ s1, execDmactive on s = .next s1 ∧ Follows keep lock r0 s1 := by
  refine ⟨_, rfl, ?_⟩
  try dsimp only
  with_reducible repeat' first
    | assumption | apply Follows.ite | apply setDmactive_follows | apply dmDenied_follows

theorem execAccessRegister_follows (h : Fin 4) (w : Bool) (regno : BitVec 16) (v : DWord) (hF : Follows keep lock r0 s) :
    ∃ s1, execAccessRegister h w regno v s = .next s1 ∧ Follows keep lock r0 s1 := by
  refine ⟨_, rfl, ?_⟩
  try dsimp only
  with_reducible repeat' first
    | assumption | apply Follows.ite | apply dmDenied_follows | apply respond_follows
    | apply busError_follows | apply writeHart_follows | apply readHart_follows

theorem execAccessMemory_follows (h : Fin 4) (w : Bool) (a : Nat) (v : Word) (hF : Follows false false r0 s) :
    ∃ s1, execAccessMemory h w a v s = .next s1 ∧ Follows false false r0 s1 := by
  refine ⟨_, rfl, ?_⟩
  try dsimp only
  with_reducible repeat' first
    | assumption | intro _ | apply Follows.ite | apply dmDenied_follows | apply respond_follows
    | apply busError_follows | apply dmMemory_follows | simp only [Follows.mk_iff] | apply atNow_follows
    | exact Nat.le_refl _ | exact Nat.le_max_left _ _ | exact Nat.le_add_right _ _ | refine Follows.of_snd (by assumption) ?_
    | refine Follows.of_fst (by assumption) ?_ | simp only [id_eq] | split | dsimp only

theorem execSystemBusAccess_follows (w : Bool) (a : Nat) (v : Word) (hF : Follows false false r0 s) :
    ∃ s1, execSystemBusAccess w a v s = .next s1 ∧ Follows false false r0 s1 := by
  refine ⟨_, rfl, ?_⟩
  try dsimp only
  with_reducible repeat' first
    | assumption | intro _ | apply Follows.ite | apply dmDenied_follows | apply respond_follows
    | apply dmMemory_follows | simp only [Follows.mk_iff] | apply atNow_follows | exact Nat.le_refl _
    | exact Nat.le_max_left _ _ | exact Nat.le_add_right _ _ | refine Follows.of_snd (by assumption) ?_
    | refine Follows.of_fst (by assumption) ?_ | simp only [id_eq] | split | dsimp only

theorem execNdmreset_follows  (hF : Follows false lock r0 s) :
    ∃ s1, execNdmreset s = .next s1 ∧ Follows false lock r0 s1 := by
  refine ⟨_, rfl, ?_⟩
  try dsimp only
  with_reducible repeat' first
    | assumption | apply Follows.ite | apply debugReset_follows | apply dmDenied_follows

end Sys2Proof.Machine
end

