-- ==== Sys2Proof/Laws/State.lean ====
section
/-! SUPPORT. The fields of State through each update: one lemma per field and update, so that no proof unfolds an update. -/

namespace Sys2Proof.Machine

@[simp] theorem wr_now (k : Nat) (v : Word) (s : State) : (wr k v s).now = s.now := rfl
@[simp] theorem wr_frees (k : Nat) (v : Word) (s : State) : (wr k v s).frees = s.frees := rfl
@[simp] theorem wr_pending (k : Nat) (v : Word) (s : State) : (wr k v s).pending = s.pending := rfl
@[simp] theorem wr_act (k : Nat) (v : Word) (s : State) : (wr k v s).act = s.act := rfl
@[simp] theorem wr_bus (k : Nat) (v : Word) (s : State) : (wr k v s).bus = s.bus := rfl
@[simp] theorem wr_mem (k : Nat) (v : Word) (s : State) : (wr k v s).mem = s.mem := rfl
@[simp] theorem wr_pwr (k : Nat) (v : Word) (s : State) : (wr k v s).pwr = s.pwr := rfl
@[simp] theorem wr_clk (k : Nat) (v : Word) (s : State) : (wr k v s).clk = s.clk := rfl
@[simp] theorem wr_therm (k : Nat) (v : Word) (s : State) : (wr k v s).therm = s.therm := rfl
@[simp] theorem wr_valley (k : Nat) (v : Word) (s : State) : (wr k v s).valley = s.valley := rfl
@[simp] theorem wr_plumb (k : Nat) (v : Word) (s : State) : (wr k v s).plumb = s.plumb := rfl
@[simp] theorem wr_sins (k : Nat) (v : Word) (s : State) : (wr k v s).sins = s.sins := rfl
@[simp] theorem wr_scans (k : Nat) (v : Word) (s : State) : (wr k v s).scans = s.scans := rfl
@[simp] theorem wr_scanConvs (k : Nat) (v : Word) (s : State) : (wr k v s).scanConvs = s.scanConvs := rfl
@[simp] theorem wr_souts (k : Nat) (v : Word) (s : State) : (wr k v s).souts = s.souts := rfl
@[simp] theorem wr_conns (k : Nat) (v : Word) (s : State) : (wr k v s).conns = s.conns := rfl
@[simp] theorem wr_pw (k : Nat) (v : Word) (s : State) : (wr k v s).pw = s.pw := rfl
@[simp] theorem wr_fb (k : Nat) (v : Word) (s : State) : (wr k v s).fb = s.fb := rfl
@[simp] theorem wr_evr (k : Nat) (v : Word) (s : State) : (wr k v s).evr = s.evr := rfl
@[simp] theorem wr_log (k : Nat) (v : Word) (s : State) : (wr k v s).log = s.log := rfl
@[simp] theorem wr_doms (k : Nat) (v : Word) (s : State) : (wr k v s).doms = s.doms := rfl
@[simp] theorem wr_grps (k : Nat) (v : Word) (s : State) : (wr k v s).grps = s.grps := rfl
@[simp] theorem wr_legs (k : Nat) (v : Word) (s : State) : (wr k v s).legs = s.legs := rfl
@[simp] theorem wr_holds (k : Nat) (v : Word) (s : State) : (wr k v s).holds = s.holds := rfl
@[simp] theorem wr_trips (k : Nat) (v : Word) (s : State) : (wr k v s).trips = s.trips := rfl
@[simp] theorem wr_sets (k : Nat) (v : Word) (s : State) : (wr k v s).sets = s.sets := rfl
@[simp] theorem wr_mons (k : Nat) (v : Word) (s : State) : (wr k v s).mons = s.mons := rfl
@[simp] theorem wr_phases (k : Nat) (v : Word) (s : State) : (wr k v s).phases = s.phases := rfl
@[simp] theorem wr_drvs (k : Nat) (v : Word) (s : State) : (wr k v s).drvs = s.drvs := rfl
@[simp] theorem wr_datum (k : Nat) (v : Word) (s : State) : (wr k v s).datum = s.datum := rfl
@[simp] theorem wr_pair (k : Nat) (v : Word) (s : State) : (wr k v s).pair = s.pair := rfl
@[simp] theorem wr_adcs (k : Nat) (v : Word) (s : State) : (wr k v s).adcs = s.adcs := rfl
@[simp] theorem wr_lanes (k : Nat) (v : Word) (s : State) : (wr k v s).lanes = s.lanes := rfl
@[simp] theorem wr_eng (k : Nat) (v : Word) (s : State) : (wr k v s).eng = s.eng := rfl
@[simp] theorem wr_gens (k : Nat) (v : Word) (s : State) : (wr k v s).gens = s.gens := rfl
@[simp] theorem wr_capMem (k : Nat) (v : Word) (s : State) : (wr k v s).capMem = s.capMem := rfl
@[simp] theorem wr_rings (k : Nat) (v : Word) (s : State) : (wr k v s).rings = s.rings := rfl
@[simp] theorem wr_grids (k : Nat) (v : Word) (s : State) : (wr k v s).grids = s.grids := rfl
@[simp] theorem wr_isl (k : Nat) (v : Word) (s : State) : (wr k v s).isl = s.isl := rfl
@[simp] theorem wr_trackers (k : Nat) (v : Word) (s : State) : (wr k v s).trackers = s.trackers := rfl
@[simp] theorem wr_sweep (k : Nat) (v : Word) (s : State) : (wr k v s).sweep = s.sweep := rfl
@[simp] theorem wr_rails (k : Nat) (v : Word) (s : State) : (wr k v s).rails = s.rails := rfl
@[simp] theorem wr_cmdPorts (k : Nat) (v : Word) (s : State) : (wr k v s).cmdPorts = s.cmdPorts := rfl
@[simp] theorem wr_monument (k : Nat) (v : Word) (s : State) : (wr k v s).monument = s.monument := rfl
@[simp] theorem wr_meters (k : Nat) (v : Word) (s : State) : (wr k v s).meters = s.meters := rfl
@[simp] theorem wr_cluster (k : Nat) (v : Word) (s : State) : (wr k v s).cluster = s.cluster := rfl
@[simp] theorem wr_nvm (k : Nat) (v : Word) (s : State) : (wr k v s).nvm = s.nvm := rfl
@[simp] theorem wr_dbg (k : Nat) (v : Word) (s : State) : (wr k v s).dbg = s.dbg := rfl
@[simp] theorem wr_upd (k : Nat) (v : Word) (s : State) : (wr k v s).upd = s.upd := rfl
@[simp] theorem wr_gio (k : Nat) (v : Word) (s : State) : (wr k v s).gio = s.gio := rfl

@[simp] theorem setForce_now (k : Nat) (v : Word) (s : State) : (setForce k v s).now = s.now := rfl
@[simp] theorem setForce_frees (k : Nat) (v : Word) (s : State) : (setForce k v s).frees = s.frees := rfl
@[simp] theorem setForce_pending (k : Nat) (v : Word) (s : State) : (setForce k v s).pending = s.pending := rfl
@[simp] theorem setForce_regs (k : Nat) (v : Word) (s : State) : (setForce k v s).regs = s.regs := rfl
@[simp] theorem setForce_bus (k : Nat) (v : Word) (s : State) : (setForce k v s).bus = s.bus := rfl
@[simp] theorem setForce_mem (k : Nat) (v : Word) (s : State) : (setForce k v s).mem = s.mem := rfl
@[simp] theorem setForce_pwr (k : Nat) (v : Word) (s : State) : (setForce k v s).pwr = s.pwr := rfl
@[simp] theorem setForce_clk (k : Nat) (v : Word) (s : State) : (setForce k v s).clk = s.clk := rfl
@[simp] theorem setForce_therm (k : Nat) (v : Word) (s : State) : (setForce k v s).therm = s.therm := rfl
@[simp] theorem setForce_valley (k : Nat) (v : Word) (s : State) : (setForce k v s).valley = s.valley := rfl
@[simp] theorem setForce_plumb (k : Nat) (v : Word) (s : State) : (setForce k v s).plumb = s.plumb := rfl
@[simp] theorem setForce_sins (k : Nat) (v : Word) (s : State) : (setForce k v s).sins = s.sins := rfl
@[simp] theorem setForce_scans (k : Nat) (v : Word) (s : State) : (setForce k v s).scans = s.scans := rfl
@[simp] theorem setForce_scanConvs (k : Nat) (v : Word) (s : State) : (setForce k v s).scanConvs = s.scanConvs := rfl
@[simp] theorem setForce_souts (k : Nat) (v : Word) (s : State) : (setForce k v s).souts = s.souts := rfl
@[simp] theorem setForce_conns (k : Nat) (v : Word) (s : State) : (setForce k v s).conns = s.conns := rfl
@[simp] theorem setForce_pw (k : Nat) (v : Word) (s : State) : (setForce k v s).pw = s.pw := rfl
@[simp] theorem setForce_fb (k : Nat) (v : Word) (s : State) : (setForce k v s).fb = s.fb := rfl
@[simp] theorem setForce_evr (k : Nat) (v : Word) (s : State) : (setForce k v s).evr = s.evr := rfl
@[simp] theorem setForce_log (k : Nat) (v : Word) (s : State) : (setForce k v s).log = s.log := rfl
@[simp] theorem setForce_doms (k : Nat) (v : Word) (s : State) : (setForce k v s).doms = s.doms := rfl
@[simp] theorem setForce_grps (k : Nat) (v : Word) (s : State) : (setForce k v s).grps = s.grps := rfl
@[simp] theorem setForce_legs (k : Nat) (v : Word) (s : State) : (setForce k v s).legs = s.legs := rfl
@[simp] theorem setForce_holds (k : Nat) (v : Word) (s : State) : (setForce k v s).holds = s.holds := rfl
@[simp] theorem setForce_trips (k : Nat) (v : Word) (s : State) : (setForce k v s).trips = s.trips := rfl
@[simp] theorem setForce_sets (k : Nat) (v : Word) (s : State) : (setForce k v s).sets = s.sets := rfl
@[simp] theorem setForce_mons (k : Nat) (v : Word) (s : State) : (setForce k v s).mons = s.mons := rfl
@[simp] theorem setForce_phases (k : Nat) (v : Word) (s : State) : (setForce k v s).phases = s.phases := rfl
@[simp] theorem setForce_drvs (k : Nat) (v : Word) (s : State) : (setForce k v s).drvs = s.drvs := rfl
@[simp] theorem setForce_datum (k : Nat) (v : Word) (s : State) : (setForce k v s).datum = s.datum := rfl
@[simp] theorem setForce_pair (k : Nat) (v : Word) (s : State) : (setForce k v s).pair = s.pair := rfl
@[simp] theorem setForce_adcs (k : Nat) (v : Word) (s : State) : (setForce k v s).adcs = s.adcs := rfl
@[simp] theorem setForce_lanes (k : Nat) (v : Word) (s : State) : (setForce k v s).lanes = s.lanes := rfl
@[simp] theorem setForce_eng (k : Nat) (v : Word) (s : State) : (setForce k v s).eng = s.eng := rfl
@[simp] theorem setForce_gens (k : Nat) (v : Word) (s : State) : (setForce k v s).gens = s.gens := rfl
@[simp] theorem setForce_capMem (k : Nat) (v : Word) (s : State) : (setForce k v s).capMem = s.capMem := rfl
@[simp] theorem setForce_rings (k : Nat) (v : Word) (s : State) : (setForce k v s).rings = s.rings := rfl
@[simp] theorem setForce_grids (k : Nat) (v : Word) (s : State) : (setForce k v s).grids = s.grids := rfl
@[simp] theorem setForce_isl (k : Nat) (v : Word) (s : State) : (setForce k v s).isl = s.isl := rfl
@[simp] theorem setForce_trackers (k : Nat) (v : Word) (s : State) : (setForce k v s).trackers = s.trackers := rfl
@[simp] theorem setForce_sweep (k : Nat) (v : Word) (s : State) : (setForce k v s).sweep = s.sweep := rfl
@[simp] theorem setForce_rails (k : Nat) (v : Word) (s : State) : (setForce k v s).rails = s.rails := rfl
@[simp] theorem setForce_cmdPorts (k : Nat) (v : Word) (s : State) : (setForce k v s).cmdPorts = s.cmdPorts := rfl
@[simp] theorem setForce_monument (k : Nat) (v : Word) (s : State) : (setForce k v s).monument = s.monument := rfl
@[simp] theorem setForce_meters (k : Nat) (v : Word) (s : State) : (setForce k v s).meters = s.meters := rfl
@[simp] theorem setForce_cluster (k : Nat) (v : Word) (s : State) : (setForce k v s).cluster = s.cluster := rfl
@[simp] theorem setForce_nvm (k : Nat) (v : Word) (s : State) : (setForce k v s).nvm = s.nvm := rfl
@[simp] theorem setForce_dbg (k : Nat) (v : Word) (s : State) : (setForce k v s).dbg = s.dbg := rfl
@[simp] theorem setForce_upd (k : Nat) (v : Word) (s : State) : (setForce k v s).upd = s.upd := rfl
@[simp] theorem setForce_gio (k : Nat) (v : Word) (s : State) : (setForce k v s).gio = s.gio := rfl

@[simp] theorem upto_frees (t : Nat) (s : State) : (upto t s).frees = s.frees := rfl
@[simp] theorem upto_pending (t : Nat) (s : State) : (upto t s).pending = s.pending := rfl
@[simp] theorem upto_regs (t : Nat) (s : State) : (upto t s).regs = s.regs := rfl
@[simp] theorem upto_act (t : Nat) (s : State) : (upto t s).act = s.act := rfl
@[simp] theorem upto_bus (t : Nat) (s : State) : (upto t s).bus = s.bus := rfl
@[simp] theorem upto_mem (t : Nat) (s : State) : (upto t s).mem = s.mem := rfl
@[simp] theorem upto_pwr (t : Nat) (s : State) : (upto t s).pwr = s.pwr := rfl
@[simp] theorem upto_clk (t : Nat) (s : State) : (upto t s).clk = s.clk := rfl
@[simp] theorem upto_therm (t : Nat) (s : State) : (upto t s).therm = s.therm := rfl
@[simp] theorem upto_valley (t : Nat) (s : State) : (upto t s).valley = s.valley := rfl
@[simp] theorem upto_plumb (t : Nat) (s : State) : (upto t s).plumb = s.plumb := rfl
@[simp] theorem upto_sins (t : Nat) (s : State) : (upto t s).sins = s.sins := rfl
@[simp] theorem upto_scans (t : Nat) (s : State) : (upto t s).scans = s.scans := rfl
@[simp] theorem upto_scanConvs (t : Nat) (s : State) : (upto t s).scanConvs = s.scanConvs := rfl
@[simp] theorem upto_souts (t : Nat) (s : State) : (upto t s).souts = s.souts := rfl
@[simp] theorem upto_conns (t : Nat) (s : State) : (upto t s).conns = s.conns := rfl
@[simp] theorem upto_pw (t : Nat) (s : State) : (upto t s).pw = s.pw := rfl
@[simp] theorem upto_fb (t : Nat) (s : State) : (upto t s).fb = s.fb := rfl
@[simp] theorem upto_evr (t : Nat) (s : State) : (upto t s).evr = s.evr := rfl
@[simp] theorem upto_log (t : Nat) (s : State) : (upto t s).log = s.log := rfl
@[simp] theorem upto_doms (t : Nat) (s : State) : (upto t s).doms = s.doms := rfl
@[simp] theorem upto_grps (t : Nat) (s : State) : (upto t s).grps = s.grps := rfl
@[simp] theorem upto_legs (t : Nat) (s : State) : (upto t s).legs = s.legs := rfl
@[simp] theorem upto_holds (t : Nat) (s : State) : (upto t s).holds = s.holds := rfl
@[simp] theorem upto_trips (t : Nat) (s : State) : (upto t s).trips = s.trips := rfl
@[simp] theorem upto_sets (t : Nat) (s : State) : (upto t s).sets = s.sets := rfl
@[simp] theorem upto_mons (t : Nat) (s : State) : (upto t s).mons = s.mons := rfl
@[simp] theorem upto_phases (t : Nat) (s : State) : (upto t s).phases = s.phases := rfl
@[simp] theorem upto_drvs (t : Nat) (s : State) : (upto t s).drvs = s.drvs := rfl
@[simp] theorem upto_datum (t : Nat) (s : State) : (upto t s).datum = s.datum := rfl
@[simp] theorem upto_pair (t : Nat) (s : State) : (upto t s).pair = s.pair := rfl
@[simp] theorem upto_adcs (t : Nat) (s : State) : (upto t s).adcs = s.adcs := rfl
@[simp] theorem upto_lanes (t : Nat) (s : State) : (upto t s).lanes = s.lanes := rfl
@[simp] theorem upto_eng (t : Nat) (s : State) : (upto t s).eng = s.eng := rfl
@[simp] theorem upto_gens (t : Nat) (s : State) : (upto t s).gens = s.gens := rfl
@[simp] theorem upto_capMem (t : Nat) (s : State) : (upto t s).capMem = s.capMem := rfl
@[simp] theorem upto_rings (t : Nat) (s : State) : (upto t s).rings = s.rings := rfl
@[simp] theorem upto_grids (t : Nat) (s : State) : (upto t s).grids = s.grids := rfl
@[simp] theorem upto_isl (t : Nat) (s : State) : (upto t s).isl = s.isl := rfl
@[simp] theorem upto_trackers (t : Nat) (s : State) : (upto t s).trackers = s.trackers := rfl
@[simp] theorem upto_sweep (t : Nat) (s : State) : (upto t s).sweep = s.sweep := rfl
@[simp] theorem upto_rails (t : Nat) (s : State) : (upto t s).rails = s.rails := rfl
@[simp] theorem upto_cmdPorts (t : Nat) (s : State) : (upto t s).cmdPorts = s.cmdPorts := rfl
@[simp] theorem upto_monument (t : Nat) (s : State) : (upto t s).monument = s.monument := rfl
@[simp] theorem upto_meters (t : Nat) (s : State) : (upto t s).meters = s.meters := rfl
@[simp] theorem upto_cluster (t : Nat) (s : State) : (upto t s).cluster = s.cluster := rfl
@[simp] theorem upto_nvm (t : Nat) (s : State) : (upto t s).nvm = s.nvm := rfl
@[simp] theorem upto_dbg (t : Nat) (s : State) : (upto t s).dbg = s.dbg := rfl
@[simp] theorem upto_upd (t : Nat) (s : State) : (upto t s).upd = s.upd := rfl
@[simp] theorem upto_gio (t : Nat) (s : State) : (upto t s).gio = s.gio := rfl

@[simp] theorem memWr_now (a : Nat) (b : Byte) (s : State) : (memWr a b s).now = s.now := rfl
@[simp] theorem memWr_frees (a : Nat) (b : Byte) (s : State) : (memWr a b s).frees = s.frees := rfl
@[simp] theorem memWr_pending (a : Nat) (b : Byte) (s : State) : (memWr a b s).pending = s.pending := rfl
@[simp] theorem memWr_regs (a : Nat) (b : Byte) (s : State) : (memWr a b s).regs = s.regs := rfl
@[simp] theorem memWr_act (a : Nat) (b : Byte) (s : State) : (memWr a b s).act = s.act := rfl
@[simp] theorem memWr_bus (a : Nat) (b : Byte) (s : State) : (memWr a b s).bus = s.bus := rfl
@[simp] theorem memWr_pwr (a : Nat) (b : Byte) (s : State) : (memWr a b s).pwr = s.pwr := rfl
@[simp] theorem memWr_clk (a : Nat) (b : Byte) (s : State) : (memWr a b s).clk = s.clk := rfl
@[simp] theorem memWr_therm (a : Nat) (b : Byte) (s : State) : (memWr a b s).therm = s.therm := rfl
@[simp] theorem memWr_valley (a : Nat) (b : Byte) (s : State) : (memWr a b s).valley = s.valley := rfl
@[simp] theorem memWr_plumb (a : Nat) (b : Byte) (s : State) : (memWr a b s).plumb = s.plumb := rfl
@[simp] theorem memWr_sins (a : Nat) (b : Byte) (s : State) : (memWr a b s).sins = s.sins := rfl
@[simp] theorem memWr_scans (a : Nat) (b : Byte) (s : State) : (memWr a b s).scans = s.scans := rfl
@[simp] theorem memWr_scanConvs (a : Nat) (b : Byte) (s : State) : (memWr a b s).scanConvs = s.scanConvs := rfl
@[simp] theorem memWr_souts (a : Nat) (b : Byte) (s : State) : (memWr a b s).souts = s.souts := rfl
@[simp] theorem memWr_conns (a : Nat) (b : Byte) (s : State) : (memWr a b s).conns = s.conns := rfl
@[simp] theorem memWr_pw (a : Nat) (b : Byte) (s : State) : (memWr a b s).pw = s.pw := rfl
@[simp] theorem memWr_fb (a : Nat) (b : Byte) (s : State) : (memWr a b s).fb = s.fb := rfl
@[simp] theorem memWr_evr (a : Nat) (b : Byte) (s : State) : (memWr a b s).evr = s.evr := rfl
@[simp] theorem memWr_log (a : Nat) (b : Byte) (s : State) : (memWr a b s).log = s.log := rfl
@[simp] theorem memWr_doms (a : Nat) (b : Byte) (s : State) : (memWr a b s).doms = s.doms := rfl
@[simp] theorem memWr_grps (a : Nat) (b : Byte) (s : State) : (memWr a b s).grps = s.grps := rfl
@[simp] theorem memWr_legs (a : Nat) (b : Byte) (s : State) : (memWr a b s).legs = s.legs := rfl
@[simp] theorem memWr_holds (a : Nat) (b : Byte) (s : State) : (memWr a b s).holds = s.holds := rfl
@[simp] theorem memWr_trips (a : Nat) (b : Byte) (s : State) : (memWr a b s).trips = s.trips := rfl
@[simp] theorem memWr_sets (a : Nat) (b : Byte) (s : State) : (memWr a b s).sets = s.sets := rfl
@[simp] theorem memWr_mons (a : Nat) (b : Byte) (s : State) : (memWr a b s).mons = s.mons := rfl
@[simp] theorem memWr_phases (a : Nat) (b : Byte) (s : State) : (memWr a b s).phases = s.phases := rfl
@[simp] theorem memWr_drvs (a : Nat) (b : Byte) (s : State) : (memWr a b s).drvs = s.drvs := rfl
@[simp] theorem memWr_datum (a : Nat) (b : Byte) (s : State) : (memWr a b s).datum = s.datum := rfl
@[simp] theorem memWr_pair (a : Nat) (b : Byte) (s : State) : (memWr a b s).pair = s.pair := rfl
@[simp] theorem memWr_adcs (a : Nat) (b : Byte) (s : State) : (memWr a b s).adcs = s.adcs := rfl
@[simp] theorem memWr_lanes (a : Nat) (b : Byte) (s : State) : (memWr a b s).lanes = s.lanes := rfl
@[simp] theorem memWr_eng (a : Nat) (b : Byte) (s : State) : (memWr a b s).eng = s.eng := rfl
@[simp] theorem memWr_gens (a : Nat) (b : Byte) (s : State) : (memWr a b s).gens = s.gens := rfl
@[simp] theorem memWr_capMem (a : Nat) (b : Byte) (s : State) : (memWr a b s).capMem = s.capMem := rfl
@[simp] theorem memWr_rings (a : Nat) (b : Byte) (s : State) : (memWr a b s).rings = s.rings := rfl
@[simp] theorem memWr_grids (a : Nat) (b : Byte) (s : State) : (memWr a b s).grids = s.grids := rfl
@[simp] theorem memWr_isl (a : Nat) (b : Byte) (s : State) : (memWr a b s).isl = s.isl := rfl
@[simp] theorem memWr_trackers (a : Nat) (b : Byte) (s : State) : (memWr a b s).trackers = s.trackers := rfl
@[simp] theorem memWr_sweep (a : Nat) (b : Byte) (s : State) : (memWr a b s).sweep = s.sweep := rfl
@[simp] theorem memWr_rails (a : Nat) (b : Byte) (s : State) : (memWr a b s).rails = s.rails := rfl
@[simp] theorem memWr_cmdPorts (a : Nat) (b : Byte) (s : State) : (memWr a b s).cmdPorts = s.cmdPorts := rfl
@[simp] theorem memWr_monument (a : Nat) (b : Byte) (s : State) : (memWr a b s).monument = s.monument := rfl
@[simp] theorem memWr_meters (a : Nat) (b : Byte) (s : State) : (memWr a b s).meters = s.meters := rfl
@[simp] theorem memWr_cluster (a : Nat) (b : Byte) (s : State) : (memWr a b s).cluster = s.cluster := rfl
@[simp] theorem memWr_nvm (a : Nat) (b : Byte) (s : State) : (memWr a b s).nvm = s.nvm := rfl
@[simp] theorem memWr_dbg (a : Nat) (b : Byte) (s : State) : (memWr a b s).dbg = s.dbg := rfl
@[simp] theorem memWr_upd (a : Nat) (b : Byte) (s : State) : (memWr a b s).upd = s.upd := rfl
@[simp] theorem memWr_gio (a : Nat) (b : Byte) (s : State) : (memWr a b s).gio = s.gio := rfl

@[simp] theorem respond_now (w : Word) (s : State) : (respond w s).now = s.now := rfl
@[simp] theorem respond_frees (w : Word) (s : State) : (respond w s).frees = s.frees := rfl
@[simp] theorem respond_pending (w : Word) (s : State) : (respond w s).pending = s.pending := rfl
@[simp] theorem respond_regs (w : Word) (s : State) : (respond w s).regs = s.regs := rfl
@[simp] theorem respond_act (w : Word) (s : State) : (respond w s).act = s.act := rfl
@[simp] theorem respond_mem (w : Word) (s : State) : (respond w s).mem = s.mem := rfl
@[simp] theorem respond_pwr (w : Word) (s : State) : (respond w s).pwr = s.pwr := rfl
@[simp] theorem respond_clk (w : Word) (s : State) : (respond w s).clk = s.clk := rfl
@[simp] theorem respond_therm (w : Word) (s : State) : (respond w s).therm = s.therm := rfl
@[simp] theorem respond_valley (w : Word) (s : State) : (respond w s).valley = s.valley := rfl
@[simp] theorem respond_plumb (w : Word) (s : State) : (respond w s).plumb = s.plumb := rfl
@[simp] theorem respond_sins (w : Word) (s : State) : (respond w s).sins = s.sins := rfl
@[simp] theorem respond_scans (w : Word) (s : State) : (respond w s).scans = s.scans := rfl
@[simp] theorem respond_scanConvs (w : Word) (s : State) : (respond w s).scanConvs = s.scanConvs := rfl
@[simp] theorem respond_souts (w : Word) (s : State) : (respond w s).souts = s.souts := rfl
@[simp] theorem respond_conns (w : Word) (s : State) : (respond w s).conns = s.conns := rfl
@[simp] theorem respond_pw (w : Word) (s : State) : (respond w s).pw = s.pw := rfl
@[simp] theorem respond_fb (w : Word) (s : State) : (respond w s).fb = s.fb := rfl
@[simp] theorem respond_evr (w : Word) (s : State) : (respond w s).evr = s.evr := rfl
@[simp] theorem respond_log (w : Word) (s : State) : (respond w s).log = s.log := rfl
@[simp] theorem respond_doms (w : Word) (s : State) : (respond w s).doms = s.doms := rfl
@[simp] theorem respond_grps (w : Word) (s : State) : (respond w s).grps = s.grps := rfl
@[simp] theorem respond_legs (w : Word) (s : State) : (respond w s).legs = s.legs := rfl
@[simp] theorem respond_holds (w : Word) (s : State) : (respond w s).holds = s.holds := rfl
@[simp] theorem respond_trips (w : Word) (s : State) : (respond w s).trips = s.trips := rfl
@[simp] theorem respond_sets (w : Word) (s : State) : (respond w s).sets = s.sets := rfl
@[simp] theorem respond_mons (w : Word) (s : State) : (respond w s).mons = s.mons := rfl
@[simp] theorem respond_phases (w : Word) (s : State) : (respond w s).phases = s.phases := rfl
@[simp] theorem respond_drvs (w : Word) (s : State) : (respond w s).drvs = s.drvs := rfl
@[simp] theorem respond_datum (w : Word) (s : State) : (respond w s).datum = s.datum := rfl
@[simp] theorem respond_pair (w : Word) (s : State) : (respond w s).pair = s.pair := rfl
@[simp] theorem respond_adcs (w : Word) (s : State) : (respond w s).adcs = s.adcs := rfl
@[simp] theorem respond_lanes (w : Word) (s : State) : (respond w s).lanes = s.lanes := rfl
@[simp] theorem respond_eng (w : Word) (s : State) : (respond w s).eng = s.eng := rfl
@[simp] theorem respond_gens (w : Word) (s : State) : (respond w s).gens = s.gens := rfl
@[simp] theorem respond_capMem (w : Word) (s : State) : (respond w s).capMem = s.capMem := rfl
@[simp] theorem respond_rings (w : Word) (s : State) : (respond w s).rings = s.rings := rfl
@[simp] theorem respond_grids (w : Word) (s : State) : (respond w s).grids = s.grids := rfl
@[simp] theorem respond_isl (w : Word) (s : State) : (respond w s).isl = s.isl := rfl
@[simp] theorem respond_trackers (w : Word) (s : State) : (respond w s).trackers = s.trackers := rfl
@[simp] theorem respond_sweep (w : Word) (s : State) : (respond w s).sweep = s.sweep := rfl
@[simp] theorem respond_rails (w : Word) (s : State) : (respond w s).rails = s.rails := rfl
@[simp] theorem respond_cmdPorts (w : Word) (s : State) : (respond w s).cmdPorts = s.cmdPorts := rfl
@[simp] theorem respond_monument (w : Word) (s : State) : (respond w s).monument = s.monument := rfl
@[simp] theorem respond_meters (w : Word) (s : State) : (respond w s).meters = s.meters := rfl
@[simp] theorem respond_cluster (w : Word) (s : State) : (respond w s).cluster = s.cluster := rfl
@[simp] theorem respond_nvm (w : Word) (s : State) : (respond w s).nvm = s.nvm := rfl
@[simp] theorem respond_dbg (w : Word) (s : State) : (respond w s).dbg = s.dbg := rfl
@[simp] theorem respond_upd (w : Word) (s : State) : (respond w s).upd = s.upd := rfl
@[simp] theorem respond_gio (w : Word) (s : State) : (respond w s).gio = s.gio := rfl

@[simp] theorem busError_now (s : State) : (busError s).now = s.now := rfl
@[simp] theorem busError_frees (s : State) : (busError s).frees = s.frees := rfl
@[simp] theorem busError_pending (s : State) : (busError s).pending = s.pending := rfl
@[simp] theorem busError_regs (s : State) : (busError s).regs = s.regs := rfl
@[simp] theorem busError_act (s : State) : (busError s).act = s.act := rfl
@[simp] theorem busError_mem (s : State) : (busError s).mem = s.mem := rfl
@[simp] theorem busError_pwr (s : State) : (busError s).pwr = s.pwr := rfl
@[simp] theorem busError_clk (s : State) : (busError s).clk = s.clk := rfl
@[simp] theorem busError_therm (s : State) : (busError s).therm = s.therm := rfl
@[simp] theorem busError_valley (s : State) : (busError s).valley = s.valley := rfl
@[simp] theorem busError_plumb (s : State) : (busError s).plumb = s.plumb := rfl
@[simp] theorem busError_sins (s : State) : (busError s).sins = s.sins := rfl
@[simp] theorem busError_scans (s : State) : (busError s).scans = s.scans := rfl
@[simp] theorem busError_scanConvs (s : State) : (busError s).scanConvs = s.scanConvs := rfl
@[simp] theorem busError_souts (s : State) : (busError s).souts = s.souts := rfl
@[simp] theorem busError_conns (s : State) : (busError s).conns = s.conns := rfl
@[simp] theorem busError_pw (s : State) : (busError s).pw = s.pw := rfl
@[simp] theorem busError_fb (s : State) : (busError s).fb = s.fb := rfl
@[simp] theorem busError_evr (s : State) : (busError s).evr = s.evr := rfl
@[simp] theorem busError_log (s : State) : (busError s).log = s.log := rfl
@[simp] theorem busError_doms (s : State) : (busError s).doms = s.doms := rfl
@[simp] theorem busError_grps (s : State) : (busError s).grps = s.grps := rfl
@[simp] theorem busError_legs (s : State) : (busError s).legs = s.legs := rfl
@[simp] theorem busError_holds (s : State) : (busError s).holds = s.holds := rfl
@[simp] theorem busError_trips (s : State) : (busError s).trips = s.trips := rfl
@[simp] theorem busError_sets (s : State) : (busError s).sets = s.sets := rfl
@[simp] theorem busError_mons (s : State) : (busError s).mons = s.mons := rfl
@[simp] theorem busError_phases (s : State) : (busError s).phases = s.phases := rfl
@[simp] theorem busError_drvs (s : State) : (busError s).drvs = s.drvs := rfl
@[simp] theorem busError_datum (s : State) : (busError s).datum = s.datum := rfl
@[simp] theorem busError_pair (s : State) : (busError s).pair = s.pair := rfl
@[simp] theorem busError_adcs (s : State) : (busError s).adcs = s.adcs := rfl
@[simp] theorem busError_lanes (s : State) : (busError s).lanes = s.lanes := rfl
@[simp] theorem busError_eng (s : State) : (busError s).eng = s.eng := rfl
@[simp] theorem busError_gens (s : State) : (busError s).gens = s.gens := rfl
@[simp] theorem busError_capMem (s : State) : (busError s).capMem = s.capMem := rfl
@[simp] theorem busError_rings (s : State) : (busError s).rings = s.rings := rfl
@[simp] theorem busError_grids (s : State) : (busError s).grids = s.grids := rfl
@[simp] theorem busError_isl (s : State) : (busError s).isl = s.isl := rfl
@[simp] theorem busError_trackers (s : State) : (busError s).trackers = s.trackers := rfl
@[simp] theorem busError_sweep (s : State) : (busError s).sweep = s.sweep := rfl
@[simp] theorem busError_rails (s : State) : (busError s).rails = s.rails := rfl
@[simp] theorem busError_cmdPorts (s : State) : (busError s).cmdPorts = s.cmdPorts := rfl
@[simp] theorem busError_monument (s : State) : (busError s).monument = s.monument := rfl
@[simp] theorem busError_meters (s : State) : (busError s).meters = s.meters := rfl
@[simp] theorem busError_cluster (s : State) : (busError s).cluster = s.cluster := rfl
@[simp] theorem busError_nvm (s : State) : (busError s).nvm = s.nvm := rfl
@[simp] theorem busError_dbg (s : State) : (busError s).dbg = s.dbg := rfl
@[simp] theorem busError_upd (s : State) : (busError s).upd = s.upd := rfl
@[simp] theorem busError_gio (s : State) : (busError s).gio = s.gio := rfl

@[simp] theorem busCycle_frees (s : State) : (busCycle s).frees = s.frees := rfl
@[simp] theorem busCycle_pending (s : State) : (busCycle s).pending = s.pending := rfl
@[simp] theorem busCycle_regs (s : State) : (busCycle s).regs = s.regs := rfl
@[simp] theorem busCycle_act (s : State) : (busCycle s).act = s.act := rfl
@[simp] theorem busCycle_bus (s : State) : (busCycle s).bus = s.bus := rfl
@[simp] theorem busCycle_mem (s : State) : (busCycle s).mem = s.mem := rfl
@[simp] theorem busCycle_pwr (s : State) : (busCycle s).pwr = s.pwr := rfl
@[simp] theorem busCycle_clk (s : State) : (busCycle s).clk = s.clk := rfl
@[simp] theorem busCycle_therm (s : State) : (busCycle s).therm = s.therm := rfl
@[simp] theorem busCycle_valley (s : State) : (busCycle s).valley = s.valley := rfl
@[simp] theorem busCycle_plumb (s : State) : (busCycle s).plumb = s.plumb := rfl
@[simp] theorem busCycle_sins (s : State) : (busCycle s).sins = s.sins := rfl
@[simp] theorem busCycle_scans (s : State) : (busCycle s).scans = s.scans := rfl
@[simp] theorem busCycle_scanConvs (s : State) : (busCycle s).scanConvs = s.scanConvs := rfl
@[simp] theorem busCycle_souts (s : State) : (busCycle s).souts = s.souts := rfl
@[simp] theorem busCycle_conns (s : State) : (busCycle s).conns = s.conns := rfl
@[simp] theorem busCycle_pw (s : State) : (busCycle s).pw = s.pw := rfl
@[simp] theorem busCycle_fb (s : State) : (busCycle s).fb = s.fb := rfl
@[simp] theorem busCycle_evr (s : State) : (busCycle s).evr = s.evr := rfl
@[simp] theorem busCycle_log (s : State) : (busCycle s).log = s.log := rfl
@[simp] theorem busCycle_doms (s : State) : (busCycle s).doms = s.doms := rfl
@[simp] theorem busCycle_grps (s : State) : (busCycle s).grps = s.grps := rfl
@[simp] theorem busCycle_legs (s : State) : (busCycle s).legs = s.legs := rfl
@[simp] theorem busCycle_holds (s : State) : (busCycle s).holds = s.holds := rfl
@[simp] theorem busCycle_trips (s : State) : (busCycle s).trips = s.trips := rfl
@[simp] theorem busCycle_sets (s : State) : (busCycle s).sets = s.sets := rfl
@[simp] theorem busCycle_mons (s : State) : (busCycle s).mons = s.mons := rfl
@[simp] theorem busCycle_phases (s : State) : (busCycle s).phases = s.phases := rfl
@[simp] theorem busCycle_drvs (s : State) : (busCycle s).drvs = s.drvs := rfl
@[simp] theorem busCycle_datum (s : State) : (busCycle s).datum = s.datum := rfl
@[simp] theorem busCycle_pair (s : State) : (busCycle s).pair = s.pair := rfl
@[simp] theorem busCycle_adcs (s : State) : (busCycle s).adcs = s.adcs := rfl
@[simp] theorem busCycle_lanes (s : State) : (busCycle s).lanes = s.lanes := rfl
@[simp] theorem busCycle_eng (s : State) : (busCycle s).eng = s.eng := rfl
@[simp] theorem busCycle_gens (s : State) : (busCycle s).gens = s.gens := rfl
@[simp] theorem busCycle_capMem (s : State) : (busCycle s).capMem = s.capMem := rfl
@[simp] theorem busCycle_rings (s : State) : (busCycle s).rings = s.rings := rfl
@[simp] theorem busCycle_grids (s : State) : (busCycle s).grids = s.grids := rfl
@[simp] theorem busCycle_isl (s : State) : (busCycle s).isl = s.isl := rfl
@[simp] theorem busCycle_trackers (s : State) : (busCycle s).trackers = s.trackers := rfl
@[simp] theorem busCycle_sweep (s : State) : (busCycle s).sweep = s.sweep := rfl
@[simp] theorem busCycle_rails (s : State) : (busCycle s).rails = s.rails := rfl
@[simp] theorem busCycle_cmdPorts (s : State) : (busCycle s).cmdPorts = s.cmdPorts := rfl
@[simp] theorem busCycle_monument (s : State) : (busCycle s).monument = s.monument := rfl
@[simp] theorem busCycle_meters (s : State) : (busCycle s).meters = s.meters := rfl
@[simp] theorem busCycle_cluster (s : State) : (busCycle s).cluster = s.cluster := rfl
@[simp] theorem busCycle_nvm (s : State) : (busCycle s).nvm = s.nvm := rfl
@[simp] theorem busCycle_dbg (s : State) : (busCycle s).dbg = s.dbg := rfl
@[simp] theorem busCycle_upd (s : State) : (busCycle s).upd = s.upd := rfl
@[simp] theorem busCycle_gio (s : State) : (busCycle s).gio = s.gio := rfl

@[simp] theorem setSrcQ_now (e : Nat) (q : SrcQ) (s : State) : (setSrcQ e q s).now = s.now := rfl
@[simp] theorem setSrcQ_frees (e : Nat) (q : SrcQ) (s : State) : (setSrcQ e q s).frees = s.frees := rfl
@[simp] theorem setSrcQ_pending (e : Nat) (q : SrcQ) (s : State) : (setSrcQ e q s).pending = s.pending := rfl
@[simp] theorem setSrcQ_regs (e : Nat) (q : SrcQ) (s : State) : (setSrcQ e q s).regs = s.regs := rfl
@[simp] theorem setSrcQ_act (e : Nat) (q : SrcQ) (s : State) : (setSrcQ e q s).act = s.act := rfl
@[simp] theorem setSrcQ_bus (e : Nat) (q : SrcQ) (s : State) : (setSrcQ e q s).bus = s.bus := rfl
@[simp] theorem setSrcQ_mem (e : Nat) (q : SrcQ) (s : State) : (setSrcQ e q s).mem = s.mem := rfl
@[simp] theorem setSrcQ_pwr (e : Nat) (q : SrcQ) (s : State) : (setSrcQ e q s).pwr = s.pwr := rfl
@[simp] theorem setSrcQ_clk (e : Nat) (q : SrcQ) (s : State) : (setSrcQ e q s).clk = s.clk := rfl
@[simp] theorem setSrcQ_plumb (e : Nat) (q : SrcQ) (s : State) : (setSrcQ e q s).plumb = s.plumb := rfl
@[simp] theorem setSrcQ_log (e : Nat) (q : SrcQ) (s : State) : (setSrcQ e q s).log = s.log := rfl

@[simp] theorem setChan_now (n : Nat) (c : Chan) (s : State) : (setChan n c s).now = s.now := rfl
@[simp] theorem setChan_frees (n : Nat) (c : Chan) (s : State) : (setChan n c s).frees = s.frees := rfl
@[simp] theorem setChan_pending (n : Nat) (c : Chan) (s : State) : (setChan n c s).pending = s.pending := rfl
@[simp] theorem setChan_regs (n : Nat) (c : Chan) (s : State) : (setChan n c s).regs = s.regs := rfl
@[simp] theorem setChan_act (n : Nat) (c : Chan) (s : State) : (setChan n c s).act = s.act := rfl
@[simp] theorem setChan_bus (n : Nat) (c : Chan) (s : State) : (setChan n c s).bus = s.bus := rfl
@[simp] theorem setChan_mem (n : Nat) (c : Chan) (s : State) : (setChan n c s).mem = s.mem := rfl
@[simp] theorem setChan_pwr (n : Nat) (c : Chan) (s : State) : (setChan n c s).pwr = s.pwr := rfl
@[simp] theorem setChan_clk (n : Nat) (c : Chan) (s : State) : (setChan n c s).clk = s.clk := rfl
@[simp] theorem setChan_plumb (n : Nat) (c : Chan) (s : State) : (setChan n c s).plumb = s.plumb := rfl
@[simp] theorem setChan_log (n : Nat) (c : Chan) (s : State) : (setChan n c s).log = s.log := rfl

@[simp] theorem setCtr_now (n : Nat) (c : Ctr) (s : State) : (setCtr n c s).now = s.now := rfl
@[simp] theorem setCtr_frees (n : Nat) (c : Ctr) (s : State) : (setCtr n c s).frees = s.frees := rfl
@[simp] theorem setCtr_pending (n : Nat) (c : Ctr) (s : State) : (setCtr n c s).pending = s.pending := rfl
@[simp] theorem setCtr_regs (n : Nat) (c : Ctr) (s : State) : (setCtr n c s).regs = s.regs := rfl
@[simp] theorem setCtr_act (n : Nat) (c : Ctr) (s : State) : (setCtr n c s).act = s.act := rfl
@[simp] theorem setCtr_bus (n : Nat) (c : Ctr) (s : State) : (setCtr n c s).bus = s.bus := rfl
@[simp] theorem setCtr_mem (n : Nat) (c : Ctr) (s : State) : (setCtr n c s).mem = s.mem := rfl
@[simp] theorem setCtr_pwr (n : Nat) (c : Ctr) (s : State) : (setCtr n c s).pwr = s.pwr := rfl
@[simp] theorem setCtr_clk (n : Nat) (c : Ctr) (s : State) : (setCtr n c s).clk = s.clk := rfl
@[simp] theorem setCtr_plumb (n : Nat) (c : Ctr) (s : State) : (setCtr n c s).plumb = s.plumb := rfl
@[simp] theorem setCtr_evr (n : Nat) (c : Ctr) (s : State) : (setCtr n c s).evr = s.evr := rfl
@[simp] theorem setCtr_log (n : Nat) (c : Ctr) (s : State) : (setCtr n c s).log = s.log := rfl

@[simp] theorem onHart_now (h : Nat) (f : Hart → Hart) (s : State) : (onHart h f s).now = s.now := rfl
@[simp] theorem onHart_frees (h : Nat) (f : Hart → Hart) (s : State) : (onHart h f s).frees = s.frees := rfl
@[simp] theorem onHart_pending (h : Nat) (f : Hart → Hart) (s : State) : (onHart h f s).pending = s.pending := rfl
@[simp] theorem onHart_regs (h : Nat) (f : Hart → Hart) (s : State) : (onHart h f s).regs = s.regs := rfl
@[simp] theorem onHart_act (h : Nat) (f : Hart → Hart) (s : State) : (onHart h f s).act = s.act := rfl
@[simp] theorem onHart_bus (h : Nat) (f : Hart → Hart) (s : State) : (onHart h f s).bus = s.bus := rfl
@[simp] theorem onHart_mem (h : Nat) (f : Hart → Hart) (s : State) : (onHart h f s).mem = s.mem := rfl
@[simp] theorem onHart_pwr (h : Nat) (f : Hart → Hart) (s : State) : (onHart h f s).pwr = s.pwr := rfl
@[simp] theorem onHart_clk (h : Nat) (f : Hart → Hart) (s : State) : (onHart h f s).clk = s.clk := rfl
@[simp] theorem onHart_plumb (h : Nat) (f : Hart → Hart) (s : State) : (onHart h f s).plumb = s.plumb := rfl
@[simp] theorem onHart_evr (h : Nat) (f : Hart → Hart) (s : State) : (onHart h f s).evr = s.evr := rfl
@[simp] theorem onHart_log (h : Nat) (f : Hart → Hart) (s : State) : (onHart h f s).log = s.log := rfl

@[simp] theorem onNvm_now (f : Nvm → Nvm) (s : State) : (onNvm f s).now = s.now := rfl
@[simp] theorem onNvm_frees (f : Nvm → Nvm) (s : State) : (onNvm f s).frees = s.frees := rfl
@[simp] theorem onNvm_pending (f : Nvm → Nvm) (s : State) : (onNvm f s).pending = s.pending := rfl
@[simp] theorem onNvm_regs (f : Nvm → Nvm) (s : State) : (onNvm f s).regs = s.regs := rfl
@[simp] theorem onNvm_act (f : Nvm → Nvm) (s : State) : (onNvm f s).act = s.act := rfl
@[simp] theorem onNvm_bus (f : Nvm → Nvm) (s : State) : (onNvm f s).bus = s.bus := rfl
@[simp] theorem onNvm_mem (f : Nvm → Nvm) (s : State) : (onNvm f s).mem = s.mem := rfl
@[simp] theorem onNvm_pwr (f : Nvm → Nvm) (s : State) : (onNvm f s).pwr = s.pwr := rfl
@[simp] theorem onNvm_clk (f : Nvm → Nvm) (s : State) : (onNvm f s).clk = s.clk := rfl
@[simp] theorem onNvm_plumb (f : Nvm → Nvm) (s : State) : (onNvm f s).plumb = s.plumb := rfl
@[simp] theorem onNvm_evr (f : Nvm → Nvm) (s : State) : (onNvm f s).evr = s.evr := rfl
@[simp] theorem onNvm_log (f : Nvm → Nvm) (s : State) : (onNvm f s).log = s.log := rfl

@[simp] theorem setDom_now (d : Nat) (x : Dom) (s : State) : (setDom d x s).now = s.now := rfl
@[simp] theorem setDom_frees (d : Nat) (x : Dom) (s : State) : (setDom d x s).frees = s.frees := rfl
@[simp] theorem setDom_pending (d : Nat) (x : Dom) (s : State) : (setDom d x s).pending = s.pending := rfl
@[simp] theorem setDom_regs (d : Nat) (x : Dom) (s : State) : (setDom d x s).regs = s.regs := rfl
@[simp] theorem setDom_act (d : Nat) (x : Dom) (s : State) : (setDom d x s).act = s.act := rfl
@[simp] theorem setDom_bus (d : Nat) (x : Dom) (s : State) : (setDom d x s).bus = s.bus := rfl
@[simp] theorem setDom_mem (d : Nat) (x : Dom) (s : State) : (setDom d x s).mem = s.mem := rfl
@[simp] theorem setDom_pwr (d : Nat) (x : Dom) (s : State) : (setDom d x s).pwr = s.pwr := rfl
@[simp] theorem setDom_clk (d : Nat) (x : Dom) (s : State) : (setDom d x s).clk = s.clk := rfl
@[simp] theorem setDom_plumb (d : Nat) (x : Dom) (s : State) : (setDom d x s).plumb = s.plumb := rfl
@[simp] theorem setDom_evr (d : Nat) (x : Dom) (s : State) : (setDom d x s).evr = s.evr := rfl
@[simp] theorem setDom_log (d : Nat) (x : Dom) (s : State) : (setDom d x s).log = s.log := rfl

@[simp] theorem setGrp_now (k : Nat) (x : Grp) (s : State) : (setGrp k x s).now = s.now := rfl
@[simp] theorem setGrp_frees (k : Nat) (x : Grp) (s : State) : (setGrp k x s).frees = s.frees := rfl
@[simp] theorem setGrp_pending (k : Nat) (x : Grp) (s : State) : (setGrp k x s).pending = s.pending := rfl
@[simp] theorem setGrp_regs (k : Nat) (x : Grp) (s : State) : (setGrp k x s).regs = s.regs := rfl
@[simp] theorem setGrp_act (k : Nat) (x : Grp) (s : State) : (setGrp k x s).act = s.act := rfl
@[simp] theorem setGrp_bus (k : Nat) (x : Grp) (s : State) : (setGrp k x s).bus = s.bus := rfl
@[simp] theorem setGrp_mem (k : Nat) (x : Grp) (s : State) : (setGrp k x s).mem = s.mem := rfl
@[simp] theorem setGrp_pwr (k : Nat) (x : Grp) (s : State) : (setGrp k x s).pwr = s.pwr := rfl
@[simp] theorem setGrp_clk (k : Nat) (x : Grp) (s : State) : (setGrp k x s).clk = s.clk := rfl
@[simp] theorem setGrp_plumb (k : Nat) (x : Grp) (s : State) : (setGrp k x s).plumb = s.plumb := rfl
@[simp] theorem setGrp_evr (k : Nat) (x : Grp) (s : State) : (setGrp k x s).evr = s.evr := rfl
@[simp] theorem setGrp_log (k : Nat) (x : Grp) (s : State) : (setGrp k x s).log = s.log := rfl

@[simp] theorem setLeg_now (l : Nat) (x : Leg) (s : State) : (setLeg l x s).now = s.now := rfl
@[simp] theorem setLeg_frees (l : Nat) (x : Leg) (s : State) : (setLeg l x s).frees = s.frees := rfl
@[simp] theorem setLeg_pending (l : Nat) (x : Leg) (s : State) : (setLeg l x s).pending = s.pending := rfl
@[simp] theorem setLeg_regs (l : Nat) (x : Leg) (s : State) : (setLeg l x s).regs = s.regs := rfl
@[simp] theorem setLeg_act (l : Nat) (x : Leg) (s : State) : (setLeg l x s).act = s.act := rfl
@[simp] theorem setLeg_bus (l : Nat) (x : Leg) (s : State) : (setLeg l x s).bus = s.bus := rfl
@[simp] theorem setLeg_mem (l : Nat) (x : Leg) (s : State) : (setLeg l x s).mem = s.mem := rfl
@[simp] theorem setLeg_pwr (l : Nat) (x : Leg) (s : State) : (setLeg l x s).pwr = s.pwr := rfl
@[simp] theorem setLeg_clk (l : Nat) (x : Leg) (s : State) : (setLeg l x s).clk = s.clk := rfl
@[simp] theorem setLeg_plumb (l : Nat) (x : Leg) (s : State) : (setLeg l x s).plumb = s.plumb := rfl
@[simp] theorem setLeg_evr (l : Nat) (x : Leg) (s : State) : (setLeg l x s).evr = s.evr := rfl
@[simp] theorem setLeg_log (l : Nat) (x : Leg) (s : State) : (setLeg l x s).log = s.log := rfl

@[simp] theorem setPhase_now (p : Nat) (x : Phase) (s : State) : (setPhase p x s).now = s.now := rfl
@[simp] theorem setPhase_frees (p : Nat) (x : Phase) (s : State) : (setPhase p x s).frees = s.frees := rfl
@[simp] theorem setPhase_pending (p : Nat) (x : Phase) (s : State) : (setPhase p x s).pending = s.pending := rfl
@[simp] theorem setPhase_regs (p : Nat) (x : Phase) (s : State) : (setPhase p x s).regs = s.regs := rfl
@[simp] theorem setPhase_act (p : Nat) (x : Phase) (s : State) : (setPhase p x s).act = s.act := rfl
@[simp] theorem setPhase_bus (p : Nat) (x : Phase) (s : State) : (setPhase p x s).bus = s.bus := rfl
@[simp] theorem setPhase_mem (p : Nat) (x : Phase) (s : State) : (setPhase p x s).mem = s.mem := rfl
@[simp] theorem setPhase_pwr (p : Nat) (x : Phase) (s : State) : (setPhase p x s).pwr = s.pwr := rfl
@[simp] theorem setPhase_clk (p : Nat) (x : Phase) (s : State) : (setPhase p x s).clk = s.clk := rfl
@[simp] theorem setPhase_plumb (p : Nat) (x : Phase) (s : State) : (setPhase p x s).plumb = s.plumb := rfl
@[simp] theorem setPhase_evr (p : Nat) (x : Phase) (s : State) : (setPhase p x s).evr = s.evr := rfl
@[simp] theorem setPhase_log (p : Nat) (x : Phase) (s : State) : (setPhase p x s).log = s.log := rfl

@[simp] theorem setSafe_now (k : Nat) (x : SafeSet) (s : State) : (setSafe k x s).now = s.now := rfl
@[simp] theorem setSafe_frees (k : Nat) (x : SafeSet) (s : State) : (setSafe k x s).frees = s.frees := rfl
@[simp] theorem setSafe_pending (k : Nat) (x : SafeSet) (s : State) : (setSafe k x s).pending = s.pending := rfl
@[simp] theorem setSafe_regs (k : Nat) (x : SafeSet) (s : State) : (setSafe k x s).regs = s.regs := rfl
@[simp] theorem setSafe_act (k : Nat) (x : SafeSet) (s : State) : (setSafe k x s).act = s.act := rfl
@[simp] theorem setSafe_bus (k : Nat) (x : SafeSet) (s : State) : (setSafe k x s).bus = s.bus := rfl
@[simp] theorem setSafe_mem (k : Nat) (x : SafeSet) (s : State) : (setSafe k x s).mem = s.mem := rfl
@[simp] theorem setSafe_pwr (k : Nat) (x : SafeSet) (s : State) : (setSafe k x s).pwr = s.pwr := rfl
@[simp] theorem setSafe_clk (k : Nat) (x : SafeSet) (s : State) : (setSafe k x s).clk = s.clk := rfl
@[simp] theorem setSafe_plumb (k : Nat) (x : SafeSet) (s : State) : (setSafe k x s).plumb = s.plumb := rfl
@[simp] theorem setSafe_evr (k : Nat) (x : SafeSet) (s : State) : (setSafe k x s).evr = s.evr := rfl
@[simp] theorem setSafe_log (k : Nat) (x : SafeSet) (s : State) : (setSafe k x s).log = s.log := rfl

@[simp] theorem setTrip_now (i : Nat) (x : TripIn) (s : State) : (setTrip i x s).now = s.now := rfl
@[simp] theorem setTrip_frees (i : Nat) (x : TripIn) (s : State) : (setTrip i x s).frees = s.frees := rfl
@[simp] theorem setTrip_pending (i : Nat) (x : TripIn) (s : State) : (setTrip i x s).pending = s.pending := rfl
@[simp] theorem setTrip_regs (i : Nat) (x : TripIn) (s : State) : (setTrip i x s).regs = s.regs := rfl
@[simp] theorem setTrip_act (i : Nat) (x : TripIn) (s : State) : (setTrip i x s).act = s.act := rfl
@[simp] theorem setTrip_bus (i : Nat) (x : TripIn) (s : State) : (setTrip i x s).bus = s.bus := rfl
@[simp] theorem setTrip_mem (i : Nat) (x : TripIn) (s : State) : (setTrip i x s).mem = s.mem := rfl
@[simp] theorem setTrip_pwr (i : Nat) (x : TripIn) (s : State) : (setTrip i x s).pwr = s.pwr := rfl
@[simp] theorem setTrip_clk (i : Nat) (x : TripIn) (s : State) : (setTrip i x s).clk = s.clk := rfl
@[simp] theorem setTrip_plumb (i : Nat) (x : TripIn) (s : State) : (setTrip i x s).plumb = s.plumb := rfl
@[simp] theorem setTrip_evr (i : Nat) (x : TripIn) (s : State) : (setTrip i x s).evr = s.evr := rfl
@[simp] theorem setTrip_log (i : Nat) (x : TripIn) (s : State) : (setTrip i x s).log = s.log := rfl

@[simp] theorem setMon_now (i : Nat) (x : Mon) (s : State) : (setMon i x s).now = s.now := rfl
@[simp] theorem setMon_frees (i : Nat) (x : Mon) (s : State) : (setMon i x s).frees = s.frees := rfl
@[simp] theorem setMon_pending (i : Nat) (x : Mon) (s : State) : (setMon i x s).pending = s.pending := rfl
@[simp] theorem setMon_regs (i : Nat) (x : Mon) (s : State) : (setMon i x s).regs = s.regs := rfl
@[simp] theorem setMon_act (i : Nat) (x : Mon) (s : State) : (setMon i x s).act = s.act := rfl
@[simp] theorem setMon_bus (i : Nat) (x : Mon) (s : State) : (setMon i x s).bus = s.bus := rfl
@[simp] theorem setMon_mem (i : Nat) (x : Mon) (s : State) : (setMon i x s).mem = s.mem := rfl
@[simp] theorem setMon_pwr (i : Nat) (x : Mon) (s : State) : (setMon i x s).pwr = s.pwr := rfl
@[simp] theorem setMon_clk (i : Nat) (x : Mon) (s : State) : (setMon i x s).clk = s.clk := rfl
@[simp] theorem setMon_plumb (i : Nat) (x : Mon) (s : State) : (setMon i x s).plumb = s.plumb := rfl
@[simp] theorem setMon_evr (i : Nat) (x : Mon) (s : State) : (setMon i x s).evr = s.evr := rfl
@[simp] theorem setMon_log (i : Nat) (x : Mon) (s : State) : (setMon i x s).log = s.log := rfl

@[simp] theorem setDrv_now (g : Nat) (x : DrvGrp) (s : State) : (setDrv g x s).now = s.now := rfl
@[simp] theorem setDrv_frees (g : Nat) (x : DrvGrp) (s : State) : (setDrv g x s).frees = s.frees := rfl
@[simp] theorem setDrv_pending (g : Nat) (x : DrvGrp) (s : State) : (setDrv g x s).pending = s.pending := rfl
@[simp] theorem setDrv_regs (g : Nat) (x : DrvGrp) (s : State) : (setDrv g x s).regs = s.regs := rfl
@[simp] theorem setDrv_act (g : Nat) (x : DrvGrp) (s : State) : (setDrv g x s).act = s.act := rfl
@[simp] theorem setDrv_bus (g : Nat) (x : DrvGrp) (s : State) : (setDrv g x s).bus = s.bus := rfl
@[simp] theorem setDrv_mem (g : Nat) (x : DrvGrp) (s : State) : (setDrv g x s).mem = s.mem := rfl
@[simp] theorem setDrv_pwr (g : Nat) (x : DrvGrp) (s : State) : (setDrv g x s).pwr = s.pwr := rfl
@[simp] theorem setDrv_clk (g : Nat) (x : DrvGrp) (s : State) : (setDrv g x s).clk = s.clk := rfl
@[simp] theorem setDrv_plumb (g : Nat) (x : DrvGrp) (s : State) : (setDrv g x s).plumb = s.plumb := rfl
@[simp] theorem setDrv_evr (g : Nat) (x : DrvGrp) (s : State) : (setDrv g x s).evr = s.evr := rfl
@[simp] theorem setDrv_log (g : Nat) (x : DrvGrp) (s : State) : (setDrv g x s).log = s.log := rfl

@[simp] theorem onClk_now (f : Clk → Clk) (s : State) : (onClk f s).now = s.now := rfl
@[simp] theorem onClk_frees (f : Clk → Clk) (s : State) : (onClk f s).frees = s.frees := rfl
@[simp] theorem onClk_pending (f : Clk → Clk) (s : State) : (onClk f s).pending = s.pending := rfl
@[simp] theorem onClk_regs (f : Clk → Clk) (s : State) : (onClk f s).regs = s.regs := rfl
@[simp] theorem onClk_act (f : Clk → Clk) (s : State) : (onClk f s).act = s.act := rfl
@[simp] theorem onClk_bus (f : Clk → Clk) (s : State) : (onClk f s).bus = s.bus := rfl
@[simp] theorem onClk_mem (f : Clk → Clk) (s : State) : (onClk f s).mem = s.mem := rfl
@[simp] theorem onClk_pwr (f : Clk → Clk) (s : State) : (onClk f s).pwr = s.pwr := rfl
@[simp] theorem onClk_plumb (f : Clk → Clk) (s : State) : (onClk f s).plumb = s.plumb := rfl
@[simp] theorem onClk_evr (f : Clk → Clk) (s : State) : (onClk f s).evr = s.evr := rfl
@[simp] theorem onClk_log (f : Clk → Clk) (s : State) : (onClk f s).log = s.log := rfl

@[simp] theorem milestone_now (b : Nat) (s : State) : (milestone b s).now = s.now := rfl
@[simp] theorem milestone_frees (b : Nat) (s : State) : (milestone b s).frees = s.frees := rfl
@[simp] theorem milestone_pending (b : Nat) (s : State) : (milestone b s).pending = s.pending := rfl
@[simp] theorem milestone_regs (b : Nat) (s : State) : (milestone b s).regs = s.regs := rfl
@[simp] theorem milestone_act (b : Nat) (s : State) : (milestone b s).act = s.act := rfl
@[simp] theorem milestone_bus (b : Nat) (s : State) : (milestone b s).bus = s.bus := rfl
@[simp] theorem milestone_mem (b : Nat) (s : State) : (milestone b s).mem = s.mem := rfl
@[simp] theorem milestone_clk (b : Nat) (s : State) : (milestone b s).clk = s.clk := rfl
@[simp] theorem milestone_plumb (b : Nat) (s : State) : (milestone b s).plumb = s.plumb := rfl
@[simp] theorem milestone_evr (b : Nat) (s : State) : (milestone b s).evr = s.evr := rfl
@[simp] theorem milestone_log (b : Nat) (s : State) : (milestone b s).log = s.log := rfl

@[simp] theorem onPlumb_now (f : Plumb → Plumb) (s : State) : (onPlumb f s).now = s.now := rfl
@[simp] theorem onPlumb_frees (f : Plumb → Plumb) (s : State) : (onPlumb f s).frees = s.frees := rfl
@[simp] theorem onPlumb_pending (f : Plumb → Plumb) (s : State) : (onPlumb f s).pending = s.pending := rfl
@[simp] theorem onPlumb_regs (f : Plumb → Plumb) (s : State) : (onPlumb f s).regs = s.regs := rfl
@[simp] theorem onPlumb_act (f : Plumb → Plumb) (s : State) : (onPlumb f s).act = s.act := rfl
@[simp] theorem onPlumb_bus (f : Plumb → Plumb) (s : State) : (onPlumb f s).bus = s.bus := rfl
@[simp] theorem onPlumb_mem (f : Plumb → Plumb) (s : State) : (onPlumb f s).mem = s.mem := rfl
@[simp] theorem onPlumb_pwr (f : Plumb → Plumb) (s : State) : (onPlumb f s).pwr = s.pwr := rfl
@[simp] theorem onPlumb_clk (f : Plumb → Plumb) (s : State) : (onPlumb f s).clk = s.clk := rfl
@[simp] theorem onPlumb_evr (f : Plumb → Plumb) (s : State) : (onPlumb f s).evr = s.evr := rfl
@[simp] theorem onPlumb_log (f : Plumb → Plumb) (s : State) : (onPlumb f s).log = s.log := rfl

@[simp] theorem onSafeIn_now (i : Nat) (f : SafeIn → SafeIn) (s : State) : (onSafeIn i f s).now = s.now := rfl
@[simp] theorem onSafeIn_frees (i : Nat) (f : SafeIn → SafeIn) (s : State) : (onSafeIn i f s).frees = s.frees := rfl
@[simp] theorem onSafeIn_pending (i : Nat) (f : SafeIn → SafeIn) (s : State) : (onSafeIn i f s).pending = s.pending := rfl
@[simp] theorem onSafeIn_regs (i : Nat) (f : SafeIn → SafeIn) (s : State) : (onSafeIn i f s).regs = s.regs := rfl
@[simp] theorem onSafeIn_act (i : Nat) (f : SafeIn → SafeIn) (s : State) : (onSafeIn i f s).act = s.act := rfl
@[simp] theorem onSafeIn_bus (i : Nat) (f : SafeIn → SafeIn) (s : State) : (onSafeIn i f s).bus = s.bus := rfl
@[simp] theorem onSafeIn_mem (i : Nat) (f : SafeIn → SafeIn) (s : State) : (onSafeIn i f s).mem = s.mem := rfl
@[simp] theorem onSafeIn_pwr (i : Nat) (f : SafeIn → SafeIn) (s : State) : (onSafeIn i f s).pwr = s.pwr := rfl
@[simp] theorem onSafeIn_clk (i : Nat) (f : SafeIn → SafeIn) (s : State) : (onSafeIn i f s).clk = s.clk := rfl
@[simp] theorem onSafeIn_plumb (i : Nat) (f : SafeIn → SafeIn) (s : State) : (onSafeIn i f s).plumb = s.plumb := rfl
@[simp] theorem onSafeIn_evr (i : Nat) (f : SafeIn → SafeIn) (s : State) : (onSafeIn i f s).evr = s.evr := rfl
@[simp] theorem onSafeIn_log (i : Nat) (f : SafeIn → SafeIn) (s : State) : (onSafeIn i f s).log = s.log := rfl

@[simp] theorem onScanCh_now (i : Nat) (f : ScanCh → ScanCh) (s : State) : (onScanCh i f s).now = s.now := rfl
@[simp] theorem onScanCh_frees (i : Nat) (f : ScanCh → ScanCh) (s : State) : (onScanCh i f s).frees = s.frees := rfl
@[simp] theorem onScanCh_pending (i : Nat) (f : ScanCh → ScanCh) (s : State) : (onScanCh i f s).pending = s.pending := rfl
@[simp] theorem onScanCh_regs (i : Nat) (f : ScanCh → ScanCh) (s : State) : (onScanCh i f s).regs = s.regs := rfl
@[simp] theorem onScanCh_act (i : Nat) (f : ScanCh → ScanCh) (s : State) : (onScanCh i f s).act = s.act := rfl
@[simp] theorem onScanCh_bus (i : Nat) (f : ScanCh → ScanCh) (s : State) : (onScanCh i f s).bus = s.bus := rfl
@[simp] theorem onScanCh_mem (i : Nat) (f : ScanCh → ScanCh) (s : State) : (onScanCh i f s).mem = s.mem := rfl
@[simp] theorem onScanCh_pwr (i : Nat) (f : ScanCh → ScanCh) (s : State) : (onScanCh i f s).pwr = s.pwr := rfl
@[simp] theorem onScanCh_clk (i : Nat) (f : ScanCh → ScanCh) (s : State) : (onScanCh i f s).clk = s.clk := rfl
@[simp] theorem onScanCh_plumb (i : Nat) (f : ScanCh → ScanCh) (s : State) : (onScanCh i f s).plumb = s.plumb := rfl
@[simp] theorem onScanCh_evr (i : Nat) (f : ScanCh → ScanCh) (s : State) : (onScanCh i f s).evr = s.evr := rfl
@[simp] theorem onScanCh_log (i : Nat) (f : ScanCh → ScanCh) (s : State) : (onScanCh i f s).log = s.log := rfl

@[simp] theorem onScanConv_now (c : Nat) (f : ScanConv → ScanConv) (s : State) : (onScanConv c f s).now = s.now := rfl
@[simp] theorem onScanConv_frees (c : Nat) (f : ScanConv → ScanConv) (s : State) : (onScanConv c f s).frees = s.frees := rfl
@[simp] theorem onScanConv_pending (c : Nat) (f : ScanConv → ScanConv) (s : State) : (onScanConv c f s).pending = s.pending := rfl
@[simp] theorem onScanConv_regs (c : Nat) (f : ScanConv → ScanConv) (s : State) : (onScanConv c f s).regs = s.regs := rfl
@[simp] theorem onScanConv_act (c : Nat) (f : ScanConv → ScanConv) (s : State) : (onScanConv c f s).act = s.act := rfl
@[simp] theorem onScanConv_bus (c : Nat) (f : ScanConv → ScanConv) (s : State) : (onScanConv c f s).bus = s.bus := rfl
@[simp] theorem onScanConv_mem (c : Nat) (f : ScanConv → ScanConv) (s : State) : (onScanConv c f s).mem = s.mem := rfl
@[simp] theorem onScanConv_pwr (c : Nat) (f : ScanConv → ScanConv) (s : State) : (onScanConv c f s).pwr = s.pwr := rfl
@[simp] theorem onScanConv_clk (c : Nat) (f : ScanConv → ScanConv) (s : State) : (onScanConv c f s).clk = s.clk := rfl
@[simp] theorem onScanConv_plumb (c : Nat) (f : ScanConv → ScanConv) (s : State) : (onScanConv c f s).plumb = s.plumb := rfl
@[simp] theorem onScanConv_evr (c : Nat) (f : ScanConv → ScanConv) (s : State) : (onScanConv c f s).evr = s.evr := rfl
@[simp] theorem onScanConv_log (c : Nat) (f : ScanConv → ScanConv) (s : State) : (onScanConv c f s).log = s.log := rfl

@[simp] theorem onSout_now (n : Nat) (f : Sout → Sout) (s : State) : (onSout n f s).now = s.now := rfl
@[simp] theorem onSout_frees (n : Nat) (f : Sout → Sout) (s : State) : (onSout n f s).frees = s.frees := rfl
@[simp] theorem onSout_pending (n : Nat) (f : Sout → Sout) (s : State) : (onSout n f s).pending = s.pending := rfl
@[simp] theorem onSout_regs (n : Nat) (f : Sout → Sout) (s : State) : (onSout n f s).regs = s.regs := rfl
@[simp] theorem onSout_act (n : Nat) (f : Sout → Sout) (s : State) : (onSout n f s).act = s.act := rfl
@[simp] theorem onSout_bus (n : Nat) (f : Sout → Sout) (s : State) : (onSout n f s).bus = s.bus := rfl
@[simp] theorem onSout_mem (n : Nat) (f : Sout → Sout) (s : State) : (onSout n f s).mem = s.mem := rfl
@[simp] theorem onSout_pwr (n : Nat) (f : Sout → Sout) (s : State) : (onSout n f s).pwr = s.pwr := rfl
@[simp] theorem onSout_clk (n : Nat) (f : Sout → Sout) (s : State) : (onSout n f s).clk = s.clk := rfl
@[simp] theorem onSout_plumb (n : Nat) (f : Sout → Sout) (s : State) : (onSout n f s).plumb = s.plumb := rfl
@[simp] theorem onSout_evr (n : Nat) (f : Sout → Sout) (s : State) : (onSout n f s).evr = s.evr := rfl
@[simp] theorem onSout_log (n : Nat) (f : Sout → Sout) (s : State) : (onSout n f s).log = s.log := rfl

@[simp] theorem onConn_now (c : Nat) (f : Conn → Conn) (s : State) : (onConn c f s).now = s.now := rfl
@[simp] theorem onConn_frees (c : Nat) (f : Conn → Conn) (s : State) : (onConn c f s).frees = s.frees := rfl
@[simp] theorem onConn_pending (c : Nat) (f : Conn → Conn) (s : State) : (onConn c f s).pending = s.pending := rfl
@[simp] theorem onConn_regs (c : Nat) (f : Conn → Conn) (s : State) : (onConn c f s).regs = s.regs := rfl
@[simp] theorem onConn_act (c : Nat) (f : Conn → Conn) (s : State) : (onConn c f s).act = s.act := rfl
@[simp] theorem onConn_bus (c : Nat) (f : Conn → Conn) (s : State) : (onConn c f s).bus = s.bus := rfl
@[simp] theorem onConn_mem (c : Nat) (f : Conn → Conn) (s : State) : (onConn c f s).mem = s.mem := rfl
@[simp] theorem onConn_pwr (c : Nat) (f : Conn → Conn) (s : State) : (onConn c f s).pwr = s.pwr := rfl
@[simp] theorem onConn_clk (c : Nat) (f : Conn → Conn) (s : State) : (onConn c f s).clk = s.clk := rfl
@[simp] theorem onConn_plumb (c : Nat) (f : Conn → Conn) (s : State) : (onConn c f s).plumb = s.plumb := rfl
@[simp] theorem onConn_evr (c : Nat) (f : Conn → Conn) (s : State) : (onConn c f s).evr = s.evr := rfl
@[simp] theorem onConn_log (c : Nat) (f : Conn → Conn) (s : State) : (onConn c f s).log = s.log := rfl

@[simp] theorem setAdc_now (n : Nat) (x : Adc) (s : State) : (setAdc n x s).now = s.now := rfl
@[simp] theorem setAdc_frees (n : Nat) (x : Adc) (s : State) : (setAdc n x s).frees = s.frees := rfl
@[simp] theorem setAdc_pending (n : Nat) (x : Adc) (s : State) : (setAdc n x s).pending = s.pending := rfl
@[simp] theorem setAdc_regs (n : Nat) (x : Adc) (s : State) : (setAdc n x s).regs = s.regs := rfl
@[simp] theorem setAdc_act (n : Nat) (x : Adc) (s : State) : (setAdc n x s).act = s.act := rfl
@[simp] theorem setAdc_bus (n : Nat) (x : Adc) (s : State) : (setAdc n x s).bus = s.bus := rfl
@[simp] theorem setAdc_mem (n : Nat) (x : Adc) (s : State) : (setAdc n x s).mem = s.mem := rfl
@[simp] theorem setAdc_pwr (n : Nat) (x : Adc) (s : State) : (setAdc n x s).pwr = s.pwr := rfl
@[simp] theorem setAdc_clk (n : Nat) (x : Adc) (s : State) : (setAdc n x s).clk = s.clk := rfl
@[simp] theorem setAdc_plumb (n : Nat) (x : Adc) (s : State) : (setAdc n x s).plumb = s.plumb := rfl
@[simp] theorem setAdc_evr (n : Nat) (x : Adc) (s : State) : (setAdc n x s).evr = s.evr := rfl
@[simp] theorem setAdc_log (n : Nat) (x : Adc) (s : State) : (setAdc n x s).log = s.log := rfl

@[simp] theorem keepStopFull_now (s : State) : (keepStopFull s).now = s.now := rfl
@[simp] theorem keepStopFull_frees (s : State) : (keepStopFull s).frees = s.frees := rfl
@[simp] theorem keepStopFull_pending (s : State) : (keepStopFull s).pending = s.pending := rfl
@[simp] theorem keepStopFull_regs (s : State) : (keepStopFull s).regs = s.regs := rfl
@[simp] theorem keepStopFull_act (s : State) : (keepStopFull s).act = s.act := rfl
@[simp] theorem keepStopFull_bus (s : State) : (keepStopFull s).bus = s.bus := rfl
@[simp] theorem keepStopFull_mem (s : State) : (keepStopFull s).mem = s.mem := rfl
@[simp] theorem keepStopFull_pwr (s : State) : (keepStopFull s).pwr = s.pwr := rfl
@[simp] theorem keepStopFull_clk (s : State) : (keepStopFull s).clk = s.clk := rfl
@[simp] theorem keepStopFull_plumb (s : State) : (keepStopFull s).plumb = s.plumb := rfl
@[simp] theorem keepStopFull_evr (s : State) : (keepStopFull s).evr = s.evr := rfl

@[simp] theorem onVal_now (f : Valley → Valley) (s : State) : (onVal f s).now = s.now := rfl
@[simp] theorem onVal_frees (f : Valley → Valley) (s : State) : (onVal f s).frees = s.frees := rfl
@[simp] theorem onVal_pending (f : Valley → Valley) (s : State) : (onVal f s).pending = s.pending := rfl
@[simp] theorem onVal_regs (f : Valley → Valley) (s : State) : (onVal f s).regs = s.regs := rfl
@[simp] theorem onVal_act (f : Valley → Valley) (s : State) : (onVal f s).act = s.act := rfl
@[simp] theorem onVal_bus (f : Valley → Valley) (s : State) : (onVal f s).bus = s.bus := rfl
@[simp] theorem onVal_mem (f : Valley → Valley) (s : State) : (onVal f s).mem = s.mem := rfl
@[simp] theorem onVal_pwr (f : Valley → Valley) (s : State) : (onVal f s).pwr = s.pwr := rfl
@[simp] theorem onVal_clk (f : Valley → Valley) (s : State) : (onVal f s).clk = s.clk := rfl
@[simp] theorem onVal_plumb (f : Valley → Valley) (s : State) : (onVal f s).plumb = s.plumb := rfl
@[simp] theorem onVal_evr (f : Valley → Valley) (s : State) : (onVal f s).evr = s.evr := rfl
@[simp] theorem onVal_log (f : Valley → Valley) (s : State) : (onVal f s).log = s.log := rfl

@[simp] theorem setStream_now (n : Nat) (x : RStream) (s : State) : (setStream n x s).now = s.now := rfl
@[simp] theorem setStream_frees (n : Nat) (x : RStream) (s : State) : (setStream n x s).frees = s.frees := rfl
@[simp] theorem setStream_pending (n : Nat) (x : RStream) (s : State) : (setStream n x s).pending = s.pending := rfl
@[simp] theorem setStream_regs (n : Nat) (x : RStream) (s : State) : (setStream n x s).regs = s.regs := rfl
@[simp] theorem setStream_act (n : Nat) (x : RStream) (s : State) : (setStream n x s).act = s.act := rfl
@[simp] theorem setStream_bus (n : Nat) (x : RStream) (s : State) : (setStream n x s).bus = s.bus := rfl
@[simp] theorem setStream_mem (n : Nat) (x : RStream) (s : State) : (setStream n x s).mem = s.mem := rfl
@[simp] theorem setStream_pwr (n : Nat) (x : RStream) (s : State) : (setStream n x s).pwr = s.pwr := rfl
@[simp] theorem setStream_clk (n : Nat) (x : RStream) (s : State) : (setStream n x s).clk = s.clk := rfl
@[simp] theorem setStream_plumb (n : Nat) (x : RStream) (s : State) : (setStream n x s).plumb = s.plumb := rfl
@[simp] theorem setStream_evr (n : Nat) (x : RStream) (s : State) : (setStream n x s).evr = s.evr := rfl
@[simp] theorem setStream_log (n : Nat) (x : RStream) (s : State) : (setStream n x s).log = s.log := rfl

@[simp] theorem setGrid_now (g : Nat) (x : Grid) (s : State) : (setGrid g x s).now = s.now := rfl
@[simp] theorem setGrid_frees (g : Nat) (x : Grid) (s : State) : (setGrid g x s).frees = s.frees := rfl
@[simp] theorem setGrid_pending (g : Nat) (x : Grid) (s : State) : (setGrid g x s).pending = s.pending := rfl
@[simp] theorem setGrid_regs (g : Nat) (x : Grid) (s : State) : (setGrid g x s).regs = s.regs := rfl
@[simp] theorem setGrid_act (g : Nat) (x : Grid) (s : State) : (setGrid g x s).act = s.act := rfl
@[simp] theorem setGrid_bus (g : Nat) (x : Grid) (s : State) : (setGrid g x s).bus = s.bus := rfl
@[simp] theorem setGrid_mem (g : Nat) (x : Grid) (s : State) : (setGrid g x s).mem = s.mem := rfl
@[simp] theorem setGrid_pwr (g : Nat) (x : Grid) (s : State) : (setGrid g x s).pwr = s.pwr := rfl
@[simp] theorem setGrid_clk (g : Nat) (x : Grid) (s : State) : (setGrid g x s).clk = s.clk := rfl
@[simp] theorem setGrid_plumb (g : Nat) (x : Grid) (s : State) : (setGrid g x s).plumb = s.plumb := rfl
@[simp] theorem setGrid_evr (g : Nat) (x : Grid) (s : State) : (setGrid g x s).evr = s.evr := rfl
@[simp] theorem setGrid_log (g : Nat) (x : Grid) (s : State) : (setGrid g x s).log = s.log := rfl

@[simp] theorem setLane_now (n : Nat) (x : Lane) (s : State) : (setLane n x s).now = s.now := rfl
@[simp] theorem setLane_frees (n : Nat) (x : Lane) (s : State) : (setLane n x s).frees = s.frees := rfl
@[simp] theorem setLane_pending (n : Nat) (x : Lane) (s : State) : (setLane n x s).pending = s.pending := rfl
@[simp] theorem setLane_regs (n : Nat) (x : Lane) (s : State) : (setLane n x s).regs = s.regs := rfl
@[simp] theorem setLane_act (n : Nat) (x : Lane) (s : State) : (setLane n x s).act = s.act := rfl
@[simp] theorem setLane_bus (n : Nat) (x : Lane) (s : State) : (setLane n x s).bus = s.bus := rfl
@[simp] theorem setLane_mem (n : Nat) (x : Lane) (s : State) : (setLane n x s).mem = s.mem := rfl
@[simp] theorem setLane_pwr (n : Nat) (x : Lane) (s : State) : (setLane n x s).pwr = s.pwr := rfl
@[simp] theorem setLane_clk (n : Nat) (x : Lane) (s : State) : (setLane n x s).clk = s.clk := rfl
@[simp] theorem setLane_plumb (n : Nat) (x : Lane) (s : State) : (setLane n x s).plumb = s.plumb := rfl
@[simp] theorem setLane_evr (n : Nat) (x : Lane) (s : State) : (setLane n x s).evr = s.evr := rfl
@[simp] theorem setLane_log (n : Nat) (x : Lane) (s : State) : (setLane n x s).log = s.log := rfl

@[simp] theorem setGen_now (g : Nat) (x : Gen) (s : State) : (setGen g x s).now = s.now := rfl
@[simp] theorem setGen_frees (g : Nat) (x : Gen) (s : State) : (setGen g x s).frees = s.frees := rfl
@[simp] theorem setGen_pending (g : Nat) (x : Gen) (s : State) : (setGen g x s).pending = s.pending := rfl
@[simp] theorem setGen_regs (g : Nat) (x : Gen) (s : State) : (setGen g x s).regs = s.regs := rfl
@[simp] theorem setGen_act (g : Nat) (x : Gen) (s : State) : (setGen g x s).act = s.act := rfl
@[simp] theorem setGen_bus (g : Nat) (x : Gen) (s : State) : (setGen g x s).bus = s.bus := rfl
@[simp] theorem setGen_mem (g : Nat) (x : Gen) (s : State) : (setGen g x s).mem = s.mem := rfl
@[simp] theorem setGen_pwr (g : Nat) (x : Gen) (s : State) : (setGen g x s).pwr = s.pwr := rfl
@[simp] theorem setGen_clk (g : Nat) (x : Gen) (s : State) : (setGen g x s).clk = s.clk := rfl
@[simp] theorem setGen_plumb (g : Nat) (x : Gen) (s : State) : (setGen g x s).plumb = s.plumb := rfl
@[simp] theorem setGen_evr (g : Nat) (x : Gen) (s : State) : (setGen g x s).evr = s.evr := rfl
@[simp] theorem setGen_log (g : Nat) (x : Gen) (s : State) : (setGen g x s).log = s.log := rfl

@[simp] theorem onIsl_now (f : Isl → Isl) (s : State) : (onIsl f s).now = s.now := rfl
@[simp] theorem onIsl_frees (f : Isl → Isl) (s : State) : (onIsl f s).frees = s.frees := rfl
@[simp] theorem onIsl_pending (f : Isl → Isl) (s : State) : (onIsl f s).pending = s.pending := rfl
@[simp] theorem onIsl_regs (f : Isl → Isl) (s : State) : (onIsl f s).regs = s.regs := rfl
@[simp] theorem onIsl_act (f : Isl → Isl) (s : State) : (onIsl f s).act = s.act := rfl
@[simp] theorem onIsl_bus (f : Isl → Isl) (s : State) : (onIsl f s).bus = s.bus := rfl
@[simp] theorem onIsl_mem (f : Isl → Isl) (s : State) : (onIsl f s).mem = s.mem := rfl
@[simp] theorem onIsl_pwr (f : Isl → Isl) (s : State) : (onIsl f s).pwr = s.pwr := rfl
@[simp] theorem onIsl_clk (f : Isl → Isl) (s : State) : (onIsl f s).clk = s.clk := rfl
@[simp] theorem onIsl_plumb (f : Isl → Isl) (s : State) : (onIsl f s).plumb = s.plumb := rfl
@[simp] theorem onIsl_evr (f : Isl → Isl) (s : State) : (onIsl f s).evr = s.evr := rfl
@[simp] theorem onIsl_log (f : Isl → Isl) (s : State) : (onIsl f s).log = s.log := rfl

@[simp] theorem onDatum_now (f : Datum → Datum) (s : State) : (onDatum f s).now = s.now := rfl
@[simp] theorem onDatum_frees (f : Datum → Datum) (s : State) : (onDatum f s).frees = s.frees := rfl
@[simp] theorem onDatum_pending (f : Datum → Datum) (s : State) : (onDatum f s).pending = s.pending := rfl
@[simp] theorem onDatum_regs (f : Datum → Datum) (s : State) : (onDatum f s).regs = s.regs := rfl
@[simp] theorem onDatum_act (f : Datum → Datum) (s : State) : (onDatum f s).act = s.act := rfl
@[simp] theorem onDatum_bus (f : Datum → Datum) (s : State) : (onDatum f s).bus = s.bus := rfl
@[simp] theorem onDatum_mem (f : Datum → Datum) (s : State) : (onDatum f s).mem = s.mem := rfl
@[simp] theorem onDatum_pwr (f : Datum → Datum) (s : State) : (onDatum f s).pwr = s.pwr := rfl
@[simp] theorem onDatum_clk (f : Datum → Datum) (s : State) : (onDatum f s).clk = s.clk := rfl
@[simp] theorem onDatum_plumb (f : Datum → Datum) (s : State) : (onDatum f s).plumb = s.plumb := rfl
@[simp] theorem onDatum_evr (f : Datum → Datum) (s : State) : (onDatum f s).evr = s.evr := rfl
@[simp] theorem onDatum_log (f : Datum → Datum) (s : State) : (onDatum f s).log = s.log := rfl

@[simp] theorem onPair_now (f : Pair → Pair) (s : State) : (onPair f s).now = s.now := rfl
@[simp] theorem onPair_frees (f : Pair → Pair) (s : State) : (onPair f s).frees = s.frees := rfl
@[simp] theorem onPair_pending (f : Pair → Pair) (s : State) : (onPair f s).pending = s.pending := rfl
@[simp] theorem onPair_regs (f : Pair → Pair) (s : State) : (onPair f s).regs = s.regs := rfl
@[simp] theorem onPair_act (f : Pair → Pair) (s : State) : (onPair f s).act = s.act := rfl
@[simp] theorem onPair_bus (f : Pair → Pair) (s : State) : (onPair f s).bus = s.bus := rfl
@[simp] theorem onPair_mem (f : Pair → Pair) (s : State) : (onPair f s).mem = s.mem := rfl
@[simp] theorem onPair_pwr (f : Pair → Pair) (s : State) : (onPair f s).pwr = s.pwr := rfl
@[simp] theorem onPair_clk (f : Pair → Pair) (s : State) : (onPair f s).clk = s.clk := rfl
@[simp] theorem onPair_plumb (f : Pair → Pair) (s : State) : (onPair f s).plumb = s.plumb := rfl
@[simp] theorem onPair_evr (f : Pair → Pair) (s : State) : (onPair f s).evr = s.evr := rfl
@[simp] theorem onPair_log (f : Pair → Pair) (s : State) : (onPair f s).log = s.log := rfl

@[simp] theorem onUpd_now (f : Upd → Upd) (s : State) : (onUpd f s).now = s.now := rfl
@[simp] theorem onUpd_frees (f : Upd → Upd) (s : State) : (onUpd f s).frees = s.frees := rfl
@[simp] theorem onUpd_pending (f : Upd → Upd) (s : State) : (onUpd f s).pending = s.pending := rfl
@[simp] theorem onUpd_regs (f : Upd → Upd) (s : State) : (onUpd f s).regs = s.regs := rfl
@[simp] theorem onUpd_act (f : Upd → Upd) (s : State) : (onUpd f s).act = s.act := rfl
@[simp] theorem onUpd_bus (f : Upd → Upd) (s : State) : (onUpd f s).bus = s.bus := rfl
@[simp] theorem onUpd_mem (f : Upd → Upd) (s : State) : (onUpd f s).mem = s.mem := rfl
@[simp] theorem onUpd_pwr (f : Upd → Upd) (s : State) : (onUpd f s).pwr = s.pwr := rfl
@[simp] theorem onUpd_clk (f : Upd → Upd) (s : State) : (onUpd f s).clk = s.clk := rfl
@[simp] theorem onUpd_plumb (f : Upd → Upd) (s : State) : (onUpd f s).plumb = s.plumb := rfl
@[simp] theorem onUpd_evr (f : Upd → Upd) (s : State) : (onUpd f s).evr = s.evr := rfl
@[simp] theorem onUpd_log (f : Upd → Upd) (s : State) : (onUpd f s).log = s.log := rfl

@[simp] theorem setMeter_now (p : Nat) (x : Meter) (s : State) : (setMeter p x s).now = s.now := rfl
@[simp] theorem setMeter_frees (p : Nat) (x : Meter) (s : State) : (setMeter p x s).frees = s.frees := rfl
@[simp] theorem setMeter_pending (p : Nat) (x : Meter) (s : State) : (setMeter p x s).pending = s.pending := rfl
@[simp] theorem setMeter_regs (p : Nat) (x : Meter) (s : State) : (setMeter p x s).regs = s.regs := rfl
@[simp] theorem setMeter_act (p : Nat) (x : Meter) (s : State) : (setMeter p x s).act = s.act := rfl
@[simp] theorem setMeter_bus (p : Nat) (x : Meter) (s : State) : (setMeter p x s).bus = s.bus := rfl
@[simp] theorem setMeter_mem (p : Nat) (x : Meter) (s : State) : (setMeter p x s).mem = s.mem := rfl
@[simp] theorem setMeter_pwr (p : Nat) (x : Meter) (s : State) : (setMeter p x s).pwr = s.pwr := rfl
@[simp] theorem setMeter_clk (p : Nat) (x : Meter) (s : State) : (setMeter p x s).clk = s.clk := rfl
@[simp] theorem setMeter_plumb (p : Nat) (x : Meter) (s : State) : (setMeter p x s).plumb = s.plumb := rfl
@[simp] theorem setMeter_evr (p : Nat) (x : Meter) (s : State) : (setMeter p x s).evr = s.evr := rfl
@[simp] theorem setMeter_log (p : Nat) (x : Meter) (s : State) : (setMeter p x s).log = s.log := rfl

@[simp] theorem setTracker_now (t : Nat) (x : Tracker) (s : State) : (setTracker t x s).now = s.now := rfl
@[simp] theorem setTracker_frees (t : Nat) (x : Tracker) (s : State) : (setTracker t x s).frees = s.frees := rfl
@[simp] theorem setTracker_pending (t : Nat) (x : Tracker) (s : State) : (setTracker t x s).pending = s.pending := rfl
@[simp] theorem setTracker_regs (t : Nat) (x : Tracker) (s : State) : (setTracker t x s).regs = s.regs := rfl
@[simp] theorem setTracker_act (t : Nat) (x : Tracker) (s : State) : (setTracker t x s).act = s.act := rfl
@[simp] theorem setTracker_bus (t : Nat) (x : Tracker) (s : State) : (setTracker t x s).bus = s.bus := rfl
@[simp] theorem setTracker_mem (t : Nat) (x : Tracker) (s : State) : (setTracker t x s).mem = s.mem := rfl
@[simp] theorem setTracker_pwr (t : Nat) (x : Tracker) (s : State) : (setTracker t x s).pwr = s.pwr := rfl
@[simp] theorem setTracker_clk (t : Nat) (x : Tracker) (s : State) : (setTracker t x s).clk = s.clk := rfl
@[simp] theorem setTracker_plumb (t : Nat) (x : Tracker) (s : State) : (setTracker t x s).plumb = s.plumb := rfl
@[simp] theorem setTracker_evr (t : Nat) (x : Tracker) (s : State) : (setTracker t x s).evr = s.evr := rfl
@[simp] theorem setTracker_log (t : Nat) (x : Tracker) (s : State) : (setTracker t x s).log = s.log := rfl

@[simp] theorem onSweep_now (f : Sweep → Sweep) (s : State) : (onSweep f s).now = s.now := rfl
@[simp] theorem onSweep_frees (f : Sweep → Sweep) (s : State) : (onSweep f s).frees = s.frees := rfl
@[simp] theorem onSweep_pending (f : Sweep → Sweep) (s : State) : (onSweep f s).pending = s.pending := rfl
@[simp] theorem onSweep_regs (f : Sweep → Sweep) (s : State) : (onSweep f s).regs = s.regs := rfl
@[simp] theorem onSweep_act (f : Sweep → Sweep) (s : State) : (onSweep f s).act = s.act := rfl
@[simp] theorem onSweep_bus (f : Sweep → Sweep) (s : State) : (onSweep f s).bus = s.bus := rfl
@[simp] theorem onSweep_mem (f : Sweep → Sweep) (s : State) : (onSweep f s).mem = s.mem := rfl
@[simp] theorem onSweep_pwr (f : Sweep → Sweep) (s : State) : (onSweep f s).pwr = s.pwr := rfl
@[simp] theorem onSweep_clk (f : Sweep → Sweep) (s : State) : (onSweep f s).clk = s.clk := rfl
@[simp] theorem onSweep_plumb (f : Sweep → Sweep) (s : State) : (onSweep f s).plumb = s.plumb := rfl
@[simp] theorem onSweep_evr (f : Sweep → Sweep) (s : State) : (onSweep f s).evr = s.evr := rfl
@[simp] theorem onSweep_log (f : Sweep → Sweep) (s : State) : (onSweep f s).log = s.log := rfl

@[simp] theorem setRail_now (r : Nat) (x : Rail) (s : State) : (setRail r x s).now = s.now := rfl
@[simp] theorem setRail_frees (r : Nat) (x : Rail) (s : State) : (setRail r x s).frees = s.frees := rfl
@[simp] theorem setRail_pending (r : Nat) (x : Rail) (s : State) : (setRail r x s).pending = s.pending := rfl
@[simp] theorem setRail_regs (r : Nat) (x : Rail) (s : State) : (setRail r x s).regs = s.regs := rfl
@[simp] theorem setRail_act (r : Nat) (x : Rail) (s : State) : (setRail r x s).act = s.act := rfl
@[simp] theorem setRail_bus (r : Nat) (x : Rail) (s : State) : (setRail r x s).bus = s.bus := rfl
@[simp] theorem setRail_mem (r : Nat) (x : Rail) (s : State) : (setRail r x s).mem = s.mem := rfl
@[simp] theorem setRail_pwr (r : Nat) (x : Rail) (s : State) : (setRail r x s).pwr = s.pwr := rfl
@[simp] theorem setRail_clk (r : Nat) (x : Rail) (s : State) : (setRail r x s).clk = s.clk := rfl
@[simp] theorem setRail_plumb (r : Nat) (x : Rail) (s : State) : (setRail r x s).plumb = s.plumb := rfl
@[simp] theorem setRail_evr (r : Nat) (x : Rail) (s : State) : (setRail r x s).evr = s.evr := rfl
@[simp] theorem setRail_log (r : Nat) (x : Rail) (s : State) : (setRail r x s).log = s.log := rfl

@[simp] theorem onGio_now (f : Gio → Gio) (s : State) : (onGio f s).now = s.now := rfl
@[simp] theorem onGio_frees (f : Gio → Gio) (s : State) : (onGio f s).frees = s.frees := rfl
@[simp] theorem onGio_pending (f : Gio → Gio) (s : State) : (onGio f s).pending = s.pending := rfl
@[simp] theorem onGio_regs (f : Gio → Gio) (s : State) : (onGio f s).regs = s.regs := rfl
@[simp] theorem onGio_act (f : Gio → Gio) (s : State) : (onGio f s).act = s.act := rfl
@[simp] theorem onGio_bus (f : Gio → Gio) (s : State) : (onGio f s).bus = s.bus := rfl
@[simp] theorem onGio_mem (f : Gio → Gio) (s : State) : (onGio f s).mem = s.mem := rfl
@[simp] theorem onGio_pwr (f : Gio → Gio) (s : State) : (onGio f s).pwr = s.pwr := rfl
@[simp] theorem onGio_clk (f : Gio → Gio) (s : State) : (onGio f s).clk = s.clk := rfl
@[simp] theorem onGio_plumb (f : Gio → Gio) (s : State) : (onGio f s).plumb = s.plumb := rfl
@[simp] theorem onGio_evr (f : Gio → Gio) (s : State) : (onGio f s).evr = s.evr := rfl
@[simp] theorem onGio_log (f : Gio → Gio) (s : State) : (onGio f s).log = s.log := rfl

@[simp] theorem onPwr_now (f : Pwr → Pwr) (s : State) : (onPwr f s).now = s.now := rfl
@[simp] theorem onPwr_frees (f : Pwr → Pwr) (s : State) : (onPwr f s).frees = s.frees := rfl
@[simp] theorem onPwr_pending (f : Pwr → Pwr) (s : State) : (onPwr f s).pending = s.pending := rfl
@[simp] theorem onPwr_regs (f : Pwr → Pwr) (s : State) : (onPwr f s).regs = s.regs := rfl
@[simp] theorem onPwr_act (f : Pwr → Pwr) (s : State) : (onPwr f s).act = s.act := rfl
@[simp] theorem onPwr_bus (f : Pwr → Pwr) (s : State) : (onPwr f s).bus = s.bus := rfl
@[simp] theorem onPwr_mem (f : Pwr → Pwr) (s : State) : (onPwr f s).mem = s.mem := rfl
@[simp] theorem onPwr_clk (f : Pwr → Pwr) (s : State) : (onPwr f s).clk = s.clk := rfl
@[simp] theorem onPwr_plumb (f : Pwr → Pwr) (s : State) : (onPwr f s).plumb = s.plumb := rfl
@[simp] theorem onPwr_evr (f : Pwr → Pwr) (s : State) : (onPwr f s).evr = s.evr := rfl
@[simp] theorem onPwr_log (f : Pwr → Pwr) (s : State) : (onPwr f s).log = s.log := rfl

@[simp] theorem onTherm_now (f : Therm → Therm) (s : State) : (onTherm f s).now = s.now := rfl
@[simp] theorem onTherm_frees (f : Therm → Therm) (s : State) : (onTherm f s).frees = s.frees := rfl
@[simp] theorem onTherm_pending (f : Therm → Therm) (s : State) : (onTherm f s).pending = s.pending := rfl
@[simp] theorem onTherm_regs (f : Therm → Therm) (s : State) : (onTherm f s).regs = s.regs := rfl
@[simp] theorem onTherm_act (f : Therm → Therm) (s : State) : (onTherm f s).act = s.act := rfl
@[simp] theorem onTherm_bus (f : Therm → Therm) (s : State) : (onTherm f s).bus = s.bus := rfl
@[simp] theorem onTherm_mem (f : Therm → Therm) (s : State) : (onTherm f s).mem = s.mem := rfl
@[simp] theorem onTherm_pwr (f : Therm → Therm) (s : State) : (onTherm f s).pwr = s.pwr := rfl
@[simp] theorem onTherm_clk (f : Therm → Therm) (s : State) : (onTherm f s).clk = s.clk := rfl
@[simp] theorem onTherm_plumb (f : Therm → Therm) (s : State) : (onTherm f s).plumb = s.plumb := rfl
@[simp] theorem onTherm_evr (f : Therm → Therm) (s : State) : (onTherm f s).evr = s.evr := rfl
@[simp] theorem onTherm_log (f : Therm → Therm) (s : State) : (onTherm f s).log = s.log := rfl

@[simp] theorem onPw_now (f : Passwords → Passwords) (s : State) : (onPw f s).now = s.now := rfl
@[simp] theorem onPw_frees (f : Passwords → Passwords) (s : State) : (onPw f s).frees = s.frees := rfl
@[simp] theorem onPw_pending (f : Passwords → Passwords) (s : State) : (onPw f s).pending = s.pending := rfl
@[simp] theorem onPw_regs (f : Passwords → Passwords) (s : State) : (onPw f s).regs = s.regs := rfl
@[simp] theorem onPw_act (f : Passwords → Passwords) (s : State) : (onPw f s).act = s.act := rfl
@[simp] theorem onPw_bus (f : Passwords → Passwords) (s : State) : (onPw f s).bus = s.bus := rfl
@[simp] theorem onPw_mem (f : Passwords → Passwords) (s : State) : (onPw f s).mem = s.mem := rfl
@[simp] theorem onPw_pwr (f : Passwords → Passwords) (s : State) : (onPw f s).pwr = s.pwr := rfl
@[simp] theorem onPw_clk (f : Passwords → Passwords) (s : State) : (onPw f s).clk = s.clk := rfl
@[simp] theorem onPw_plumb (f : Passwords → Passwords) (s : State) : (onPw f s).plumb = s.plumb := rfl
@[simp] theorem onPw_evr (f : Passwords → Passwords) (s : State) : (onPw f s).evr = s.evr := rfl
@[simp] theorem onPw_log (f : Passwords → Passwords) (s : State) : (onPw f s).log = s.log := rfl

@[simp] theorem onPorts_now (f : CmdPorts → CmdPorts) (s : State) : (onPorts f s).now = s.now := rfl
@[simp] theorem onPorts_frees (f : CmdPorts → CmdPorts) (s : State) : (onPorts f s).frees = s.frees := rfl
@[simp] theorem onPorts_pending (f : CmdPorts → CmdPorts) (s : State) : (onPorts f s).pending = s.pending := rfl
@[simp] theorem onPorts_regs (f : CmdPorts → CmdPorts) (s : State) : (onPorts f s).regs = s.regs := rfl
@[simp] theorem onPorts_act (f : CmdPorts → CmdPorts) (s : State) : (onPorts f s).act = s.act := rfl
@[simp] theorem onPorts_bus (f : CmdPorts → CmdPorts) (s : State) : (onPorts f s).bus = s.bus := rfl
@[simp] theorem onPorts_mem (f : CmdPorts → CmdPorts) (s : State) : (onPorts f s).mem = s.mem := rfl
@[simp] theorem onPorts_pwr (f : CmdPorts → CmdPorts) (s : State) : (onPorts f s).pwr = s.pwr := rfl
@[simp] theorem onPorts_clk (f : CmdPorts → CmdPorts) (s : State) : (onPorts f s).clk = s.clk := rfl
@[simp] theorem onPorts_plumb (f : CmdPorts → CmdPorts) (s : State) : (onPorts f s).plumb = s.plumb := rfl
@[simp] theorem onPorts_evr (f : CmdPorts → CmdPorts) (s : State) : (onPorts f s).evr = s.evr := rfl
@[simp] theorem onPorts_log (f : CmdPorts → CmdPorts) (s : State) : (onPorts f s).log = s.log := rfl

@[simp] theorem onDbg_now (f : Dbg → Dbg) (s : State) : (onDbg f s).now = s.now := rfl
@[simp] theorem onDbg_frees (f : Dbg → Dbg) (s : State) : (onDbg f s).frees = s.frees := rfl
@[simp] theorem onDbg_pending (f : Dbg → Dbg) (s : State) : (onDbg f s).pending = s.pending := rfl
@[simp] theorem onDbg_regs (f : Dbg → Dbg) (s : State) : (onDbg f s).regs = s.regs := rfl
@[simp] theorem onDbg_act (f : Dbg → Dbg) (s : State) : (onDbg f s).act = s.act := rfl
@[simp] theorem onDbg_bus (f : Dbg → Dbg) (s : State) : (onDbg f s).bus = s.bus := rfl
@[simp] theorem onDbg_mem (f : Dbg → Dbg) (s : State) : (onDbg f s).mem = s.mem := rfl
@[simp] theorem onDbg_pwr (f : Dbg → Dbg) (s : State) : (onDbg f s).pwr = s.pwr := rfl
@[simp] theorem onDbg_clk (f : Dbg → Dbg) (s : State) : (onDbg f s).clk = s.clk := rfl
@[simp] theorem onDbg_plumb (f : Dbg → Dbg) (s : State) : (onDbg f s).plumb = s.plumb := rfl
@[simp] theorem onDbg_evr (f : Dbg → Dbg) (s : State) : (onDbg f s).evr = s.evr := rfl
@[simp] theorem onDbg_log (f : Dbg → Dbg) (s : State) : (onDbg f s).log = s.log := rfl

@[simp] theorem draw_now (s : State) : (draw s).2.now = s.now := rfl
@[simp] theorem draw_pending (s : State) : (draw s).2.pending = s.pending := rfl
@[simp] theorem draw_regs (s : State) : (draw s).2.regs = s.regs := rfl
@[simp] theorem draw_act (s : State) : (draw s).2.act = s.act := rfl
@[simp] theorem draw_bus (s : State) : (draw s).2.bus = s.bus := rfl
@[simp] theorem draw_mem (s : State) : (draw s).2.mem = s.mem := rfl
@[simp] theorem draw_pwr (s : State) : (draw s).2.pwr = s.pwr := rfl
@[simp] theorem draw_clk (s : State) : (draw s).2.clk = s.clk := rfl
@[simp] theorem draw_therm (s : State) : (draw s).2.therm = s.therm := rfl
@[simp] theorem draw_valley (s : State) : (draw s).2.valley = s.valley := rfl
@[simp] theorem draw_plumb (s : State) : (draw s).2.plumb = s.plumb := rfl
@[simp] theorem draw_sins (s : State) : (draw s).2.sins = s.sins := rfl
@[simp] theorem draw_scans (s : State) : (draw s).2.scans = s.scans := rfl
@[simp] theorem draw_scanConvs (s : State) : (draw s).2.scanConvs = s.scanConvs := rfl
@[simp] theorem draw_souts (s : State) : (draw s).2.souts = s.souts := rfl
@[simp] theorem draw_conns (s : State) : (draw s).2.conns = s.conns := rfl
@[simp] theorem draw_pw (s : State) : (draw s).2.pw = s.pw := rfl
@[simp] theorem draw_fb (s : State) : (draw s).2.fb = s.fb := rfl
@[simp] theorem draw_evr (s : State) : (draw s).2.evr = s.evr := rfl
@[simp] theorem draw_log (s : State) : (draw s).2.log = s.log := rfl
@[simp] theorem draw_doms (s : State) : (draw s).2.doms = s.doms := rfl
@[simp] theorem draw_grps (s : State) : (draw s).2.grps = s.grps := rfl
@[simp] theorem draw_legs (s : State) : (draw s).2.legs = s.legs := rfl
@[simp] theorem draw_holds (s : State) : (draw s).2.holds = s.holds := rfl
@[simp] theorem draw_trips (s : State) : (draw s).2.trips = s.trips := rfl
@[simp] theorem draw_sets (s : State) : (draw s).2.sets = s.sets := rfl
@[simp] theorem draw_mons (s : State) : (draw s).2.mons = s.mons := rfl
@[simp] theorem draw_phases (s : State) : (draw s).2.phases = s.phases := rfl
@[simp] theorem draw_drvs (s : State) : (draw s).2.drvs = s.drvs := rfl
@[simp] theorem draw_datum (s : State) : (draw s).2.datum = s.datum := rfl
@[simp] theorem draw_pair (s : State) : (draw s).2.pair = s.pair := rfl
@[simp] theorem draw_adcs (s : State) : (draw s).2.adcs = s.adcs := rfl
@[simp] theorem draw_lanes (s : State) : (draw s).2.lanes = s.lanes := rfl
@[simp] theorem draw_eng (s : State) : (draw s).2.eng = s.eng := rfl
@[simp] theorem draw_gens (s : State) : (draw s).2.gens = s.gens := rfl
@[simp] theorem draw_capMem (s : State) : (draw s).2.capMem = s.capMem := rfl
@[simp] theorem draw_rings (s : State) : (draw s).2.rings = s.rings := rfl
@[simp] theorem draw_grids (s : State) : (draw s).2.grids = s.grids := rfl
@[simp] theorem draw_isl (s : State) : (draw s).2.isl = s.isl := rfl
@[simp] theorem draw_trackers (s : State) : (draw s).2.trackers = s.trackers := rfl
@[simp] theorem draw_sweep (s : State) : (draw s).2.sweep = s.sweep := rfl
@[simp] theorem draw_rails (s : State) : (draw s).2.rails = s.rails := rfl
@[simp] theorem draw_cmdPorts (s : State) : (draw s).2.cmdPorts = s.cmdPorts := rfl
@[simp] theorem draw_monument (s : State) : (draw s).2.monument = s.monument := rfl
@[simp] theorem draw_meters (s : State) : (draw s).2.meters = s.meters := rfl
@[simp] theorem draw_cluster (s : State) : (draw s).2.cluster = s.cluster := rfl
@[simp] theorem draw_nvm (s : State) : (draw s).2.nvm = s.nvm := rfl
@[simp] theorem draw_dbg (s : State) : (draw s).2.dbg = s.dbg := rfl
@[simp] theorem draw_upd (s : State) : (draw s).2.upd = s.upd := rfl
@[simp] theorem draw_gio (s : State) : (draw s).2.gio = s.gio := rfl

end Sys2Proof.Machine
end

