-- ==== Sys2Proof/Laws/Ops.lean ====
section
/-! SUPPORT. The shared operations: what each can do, said once. Reads through every update; registers, fields and bits
after a write; raising a cause; the trouble log and the field book; a bus access that reaches its page. -/

namespace Sys2Proof.Machine

@[simp] theorem inForce_wr (k : Nat) (v : Word) (s : State) (k0 : Nat) : inForce (wr k v s) k0 = inForce s k0 := rfl
@[simp] theorem memRd_wr (k : Nat) (v : Word) (s : State) (k0 : Nat) : memRd (wr k v s) k0 = memRd s k0 := rfl
@[simp] theorem fabricUp_wr (k : Nat) (v : Word) (s : State)  : fabricUp (wr k v s)  = fabricUp s  := rfl
@[simp] theorem domOn_wr (k : Nat) (v : Word) (s : State) (d0 : PDom) : domOn (wr k v s) d0 = domOn s d0 := rfl
@[simp] theorem live_wr (k : Nat) (v : Word) (s : State) (d0 : PDom) : live (wr k v s) d0 = live s d0 := rfl
@[simp] theorem pageUp_wr (k : Nat) (v : Word) (s : State) (t0 : PageType) (o0 : Nat) : pageUp (wr k v s) t0 o0 = pageUp s t0 o0 := rfl
@[simp] theorem formerPair_wr (k : Nat) (v : Word) (s : State) (m0 : Master) : formerPair (wr k v s) m0 = formerPair s m0 := rfl
@[simp] theorem rd_setForce (k : Nat) (v : Word) (s : State) (k0 : Nat) : rd (setForce k v s) k0 = rd s k0 := rfl
@[simp] theorem memRd_setForce (k : Nat) (v : Word) (s : State) (k0 : Nat) : memRd (setForce k v s) k0 = memRd s k0 := rfl
@[simp] theorem fabricUp_setForce (k : Nat) (v : Word) (s : State)  : fabricUp (setForce k v s)  = fabricUp s  := rfl
@[simp] theorem domOn_setForce (k : Nat) (v : Word) (s : State) (d0 : PDom) : domOn (setForce k v s) d0 = domOn s d0 := rfl
@[simp] theorem live_setForce (k : Nat) (v : Word) (s : State) (d0 : PDom) : live (setForce k v s) d0 = live s d0 := rfl
@[simp] theorem pageUp_setForce (k : Nat) (v : Word) (s : State) (t0 : PageType) (o0 : Nat) : pageUp (setForce k v s) t0 o0 = pageUp s t0 o0 := rfl
@[simp] theorem formerPair_setForce (k : Nat) (v : Word) (s : State) (m0 : Master) : formerPair (setForce k v s) m0 = formerPair s m0 := rfl
@[simp] theorem stagedPair_setForce (k : Nat) (v : Word) (s : State) (m0 : Master) : stagedPair (setForce k v s) m0 = stagedPair s m0 := rfl
@[simp] theorem rd_upto (t : Nat) (s : State) (k0 : Nat) : rd (upto t s) k0 = rd s k0 := rfl
@[simp] theorem inForce_upto (t : Nat) (s : State) (k0 : Nat) : inForce (upto t s) k0 = inForce s k0 := rfl
@[simp] theorem memRd_upto (t : Nat) (s : State) (k0 : Nat) : memRd (upto t s) k0 = memRd s k0 := rfl
@[simp] theorem fabricUp_upto (t : Nat) (s : State)  : fabricUp (upto t s)  = fabricUp s  := rfl
@[simp] theorem domOn_upto (t : Nat) (s : State) (d0 : PDom) : domOn (upto t s) d0 = domOn s d0 := rfl
@[simp] theorem live_upto (t : Nat) (s : State) (d0 : PDom) : live (upto t s) d0 = live s d0 := rfl
@[simp] theorem pageUp_upto (t : Nat) (s : State) (t0 : PageType) (o0 : Nat) : pageUp (upto t s) t0 o0 = pageUp s t0 o0 := rfl
@[simp] theorem formerPair_upto (t : Nat) (s : State) (m0 : Master) : formerPair (upto t s) m0 = formerPair s m0 := rfl
@[simp] theorem stagedPair_upto (t : Nat) (s : State) (m0 : Master) : stagedPair (upto t s) m0 = stagedPair s m0 := rfl
@[simp] theorem rd_memWr (a : Nat) (b : Byte) (s : State) (k0 : Nat) : rd (memWr a b s) k0 = rd s k0 := rfl
@[simp] theorem inForce_memWr (a : Nat) (b : Byte) (s : State) (k0 : Nat) : inForce (memWr a b s) k0 = inForce s k0 := rfl
@[simp] theorem fabricUp_memWr (a : Nat) (b : Byte) (s : State)  : fabricUp (memWr a b s)  = fabricUp s  := rfl
@[simp] theorem domOn_memWr (a : Nat) (b : Byte) (s : State) (d0 : PDom) : domOn (memWr a b s) d0 = domOn s d0 := rfl
@[simp] theorem live_memWr (a : Nat) (b : Byte) (s : State) (d0 : PDom) : live (memWr a b s) d0 = live s d0 := rfl
@[simp] theorem pageUp_memWr (a : Nat) (b : Byte) (s : State) (t0 : PageType) (o0 : Nat) : pageUp (memWr a b s) t0 o0 = pageUp s t0 o0 := rfl
@[simp] theorem formerPair_memWr (a : Nat) (b : Byte) (s : State) (m0 : Master) : formerPair (memWr a b s) m0 = formerPair s m0 := rfl
@[simp] theorem stagedPair_memWr (a : Nat) (b : Byte) (s : State) (m0 : Master) : stagedPair (memWr a b s) m0 = stagedPair s m0 := rfl
@[simp] theorem rd_respond (w : Word) (s : State) (k0 : Nat) : rd (respond w s) k0 = rd s k0 := rfl
@[simp] theorem inForce_respond (w : Word) (s : State) (k0 : Nat) : inForce (respond w s) k0 = inForce s k0 := rfl
@[simp] theorem memRd_respond (w : Word) (s : State) (k0 : Nat) : memRd (respond w s) k0 = memRd s k0 := rfl
@[simp] theorem fabricUp_respond (w : Word) (s : State)  : fabricUp (respond w s)  = fabricUp s  := rfl
@[simp] theorem domOn_respond (w : Word) (s : State) (d0 : PDom) : domOn (respond w s) d0 = domOn s d0 := rfl
@[simp] theorem live_respond (w : Word) (s : State) (d0 : PDom) : live (respond w s) d0 = live s d0 := rfl
@[simp] theorem pageUp_respond (w : Word) (s : State) (t0 : PageType) (o0 : Nat) : pageUp (respond w s) t0 o0 = pageUp s t0 o0 := rfl
@[simp] theorem formerPair_respond (w : Word) (s : State) (m0 : Master) : formerPair (respond w s) m0 = formerPair s m0 := rfl
@[simp] theorem stagedPair_respond (w : Word) (s : State) (m0 : Master) : stagedPair (respond w s) m0 = stagedPair s m0 := rfl
@[simp] theorem rd_busError (s : State) (k0 : Nat) : rd (busError s) k0 = rd s k0 := rfl
@[simp] theorem inForce_busError (s : State) (k0 : Nat) : inForce (busError s) k0 = inForce s k0 := rfl
@[simp] theorem memRd_busError (s : State) (k0 : Nat) : memRd (busError s) k0 = memRd s k0 := rfl
@[simp] theorem fabricUp_busError (s : State)  : fabricUp (busError s)  = fabricUp s  := rfl
@[simp] theorem domOn_busError (s : State) (d0 : PDom) : domOn (busError s) d0 = domOn s d0 := rfl
@[simp] theorem live_busError (s : State) (d0 : PDom) : live (busError s) d0 = live s d0 := rfl
@[simp] theorem pageUp_busError (s : State) (t0 : PageType) (o0 : Nat) : pageUp (busError s) t0 o0 = pageUp s t0 o0 := rfl
@[simp] theorem formerPair_busError (s : State) (m0 : Master) : formerPair (busError s) m0 = formerPair s m0 := rfl
@[simp] theorem stagedPair_busError (s : State) (m0 : Master) : stagedPair (busError s) m0 = stagedPair s m0 := rfl
@[simp] theorem rd_busCycle (s : State) (k0 : Nat) : rd (busCycle s) k0 = rd s k0 := rfl
@[simp] theorem inForce_busCycle (s : State) (k0 : Nat) : inForce (busCycle s) k0 = inForce s k0 := rfl
@[simp] theorem memRd_busCycle (s : State) (k0 : Nat) : memRd (busCycle s) k0 = memRd s k0 := rfl
@[simp] theorem fabricUp_busCycle (s : State)  : fabricUp (busCycle s)  = fabricUp s  := rfl
@[simp] theorem domOn_busCycle (s : State) (d0 : PDom) : domOn (busCycle s) d0 = domOn s d0 := rfl
@[simp] theorem live_busCycle (s : State) (d0 : PDom) : live (busCycle s) d0 = live s d0 := rfl
@[simp] theorem pageUp_busCycle (s : State) (t0 : PageType) (o0 : Nat) : pageUp (busCycle s) t0 o0 = pageUp s t0 o0 := rfl
@[simp] theorem formerPair_busCycle (s : State) (m0 : Master) : formerPair (busCycle s) m0 = formerPair s m0 := rfl
@[simp] theorem stagedPair_busCycle (s : State) (m0 : Master) : stagedPair (busCycle s) m0 = stagedPair s m0 := rfl
@[simp] theorem rd_setSrcQ (e : Nat) (q : SrcQ) (s : State) (k0 : Nat) : rd (setSrcQ e q s) k0 = rd s k0 := rfl
@[simp] theorem inForce_setSrcQ (e : Nat) (q : SrcQ) (s : State) (k0 : Nat) : inForce (setSrcQ e q s) k0 = inForce s k0 := rfl
@[simp] theorem memRd_setSrcQ (e : Nat) (q : SrcQ) (s : State) (k0 : Nat) : memRd (setSrcQ e q s) k0 = memRd s k0 := rfl
@[simp] theorem fabricUp_setSrcQ (e : Nat) (q : SrcQ) (s : State)  : fabricUp (setSrcQ e q s)  = fabricUp s  := rfl
@[simp] theorem domOn_setSrcQ (e : Nat) (q : SrcQ) (s : State) (d0 : PDom) : domOn (setSrcQ e q s) d0 = domOn s d0 := rfl
@[simp] theorem live_setSrcQ (e : Nat) (q : SrcQ) (s : State) (d0 : PDom) : live (setSrcQ e q s) d0 = live s d0 := rfl
@[simp] theorem pageUp_setSrcQ (e : Nat) (q : SrcQ) (s : State) (t0 : PageType) (o0 : Nat) : pageUp (setSrcQ e q s) t0 o0 = pageUp s t0 o0 := rfl
@[simp] theorem formerPair_setSrcQ (e : Nat) (q : SrcQ) (s : State) (m0 : Master) : formerPair (setSrcQ e q s) m0 = formerPair s m0 := rfl
@[simp] theorem stagedPair_setSrcQ (e : Nat) (q : SrcQ) (s : State) (m0 : Master) : stagedPair (setSrcQ e q s) m0 = stagedPair s m0 := rfl
@[simp] theorem rd_setChan (n : Nat) (c : Chan) (s : State) (k0 : Nat) : rd (setChan n c s) k0 = rd s k0 := rfl
@[simp] theorem inForce_setChan (n : Nat) (c : Chan) (s : State) (k0 : Nat) : inForce (setChan n c s) k0 = inForce s k0 := rfl
@[simp] theorem memRd_setChan (n : Nat) (c : Chan) (s : State) (k0 : Nat) : memRd (setChan n c s) k0 = memRd s k0 := rfl
@[simp] theorem fabricUp_setChan (n : Nat) (c : Chan) (s : State)  : fabricUp (setChan n c s)  = fabricUp s  := rfl
@[simp] theorem domOn_setChan (n : Nat) (c : Chan) (s : State) (d0 : PDom) : domOn (setChan n c s) d0 = domOn s d0 := rfl
@[simp] theorem live_setChan (n : Nat) (c : Chan) (s : State) (d0 : PDom) : live (setChan n c s) d0 = live s d0 := rfl
@[simp] theorem pageUp_setChan (n : Nat) (c : Chan) (s : State) (t0 : PageType) (o0 : Nat) : pageUp (setChan n c s) t0 o0 = pageUp s t0 o0 := rfl
@[simp] theorem formerPair_setChan (n : Nat) (c : Chan) (s : State) (m0 : Master) : formerPair (setChan n c s) m0 = formerPair s m0 := rfl
@[simp] theorem stagedPair_setChan (n : Nat) (c : Chan) (s : State) (m0 : Master) : stagedPair (setChan n c s) m0 = stagedPair s m0 := rfl
@[simp] theorem rd_setCtr (n : Nat) (c : Ctr) (s : State) (k0 : Nat) : rd (setCtr n c s) k0 = rd s k0 := rfl
@[simp] theorem inForce_setCtr (n : Nat) (c : Ctr) (s : State) (k0 : Nat) : inForce (setCtr n c s) k0 = inForce s k0 := rfl
@[simp] theorem memRd_setCtr (n : Nat) (c : Ctr) (s : State) (k0 : Nat) : memRd (setCtr n c s) k0 = memRd s k0 := rfl
@[simp] theorem fabricUp_setCtr (n : Nat) (c : Ctr) (s : State)  : fabricUp (setCtr n c s)  = fabricUp s  := rfl
@[simp] theorem domOn_setCtr (n : Nat) (c : Ctr) (s : State) (d0 : PDom) : domOn (setCtr n c s) d0 = domOn s d0 := rfl
@[simp] theorem live_setCtr (n : Nat) (c : Ctr) (s : State) (d0 : PDom) : live (setCtr n c s) d0 = live s d0 := rfl
@[simp] theorem pageUp_setCtr (n : Nat) (c : Ctr) (s : State) (t0 : PageType) (o0 : Nat) : pageUp (setCtr n c s) t0 o0 = pageUp s t0 o0 := rfl
@[simp] theorem formerPair_setCtr (n : Nat) (c : Ctr) (s : State) (m0 : Master) : formerPair (setCtr n c s) m0 = formerPair s m0 := rfl
@[simp] theorem stagedPair_setCtr (n : Nat) (c : Ctr) (s : State) (m0 : Master) : stagedPair (setCtr n c s) m0 = stagedPair s m0 := rfl
@[simp] theorem rd_onHart (h : Nat) (f : Hart → Hart) (s : State) (k0 : Nat) : rd (onHart h f s) k0 = rd s k0 := rfl
@[simp] theorem inForce_onHart (h : Nat) (f : Hart → Hart) (s : State) (k0 : Nat) : inForce (onHart h f s) k0 = inForce s k0 := rfl
@[simp] theorem memRd_onHart (h : Nat) (f : Hart → Hart) (s : State) (k0 : Nat) : memRd (onHart h f s) k0 = memRd s k0 := rfl
@[simp] theorem fabricUp_onHart (h : Nat) (f : Hart → Hart) (s : State)  : fabricUp (onHart h f s)  = fabricUp s  := rfl
@[simp] theorem domOn_onHart (h : Nat) (f : Hart → Hart) (s : State) (d0 : PDom) : domOn (onHart h f s) d0 = domOn s d0 := rfl
@[simp] theorem live_onHart (h : Nat) (f : Hart → Hart) (s : State) (d0 : PDom) : live (onHart h f s) d0 = live s d0 := rfl
@[simp] theorem pageUp_onHart (h : Nat) (f : Hart → Hart) (s : State) (t0 : PageType) (o0 : Nat) : pageUp (onHart h f s) t0 o0 = pageUp s t0 o0 := rfl
@[simp] theorem formerPair_onHart (h : Nat) (f : Hart → Hart) (s : State) (m0 : Master) : formerPair (onHart h f s) m0 = formerPair s m0 := rfl
@[simp] theorem stagedPair_onHart (h : Nat) (f : Hart → Hart) (s : State) (m0 : Master) : stagedPair (onHart h f s) m0 = stagedPair s m0 := rfl
@[simp] theorem rd_onNvm (f : Nvm → Nvm) (s : State) (k0 : Nat) : rd (onNvm f s) k0 = rd s k0 := rfl
@[simp] theorem inForce_onNvm (f : Nvm → Nvm) (s : State) (k0 : Nat) : inForce (onNvm f s) k0 = inForce s k0 := rfl
@[simp] theorem memRd_onNvm (f : Nvm → Nvm) (s : State) (k0 : Nat) : memRd (onNvm f s) k0 = memRd s k0 := rfl
@[simp] theorem fabricUp_onNvm (f : Nvm → Nvm) (s : State)  : fabricUp (onNvm f s)  = fabricUp s  := rfl
@[simp] theorem domOn_onNvm (f : Nvm → Nvm) (s : State) (d0 : PDom) : domOn (onNvm f s) d0 = domOn s d0 := rfl
@[simp] theorem live_onNvm (f : Nvm → Nvm) (s : State) (d0 : PDom) : live (onNvm f s) d0 = live s d0 := rfl
@[simp] theorem pageUp_onNvm (f : Nvm → Nvm) (s : State) (t0 : PageType) (o0 : Nat) : pageUp (onNvm f s) t0 o0 = pageUp s t0 o0 := rfl
@[simp] theorem formerPair_onNvm (f : Nvm → Nvm) (s : State) (m0 : Master) : formerPair (onNvm f s) m0 = formerPair s m0 := rfl
@[simp] theorem stagedPair_onNvm (f : Nvm → Nvm) (s : State) (m0 : Master) : stagedPair (onNvm f s) m0 = stagedPair s m0 := rfl
@[simp] theorem rd_setDom (d : Nat) (x : Dom) (s : State) (k0 : Nat) : rd (setDom d x s) k0 = rd s k0 := rfl
@[simp] theorem inForce_setDom (d : Nat) (x : Dom) (s : State) (k0 : Nat) : inForce (setDom d x s) k0 = inForce s k0 := rfl
@[simp] theorem memRd_setDom (d : Nat) (x : Dom) (s : State) (k0 : Nat) : memRd (setDom d x s) k0 = memRd s k0 := rfl
@[simp] theorem fabricUp_setDom (d : Nat) (x : Dom) (s : State)  : fabricUp (setDom d x s)  = fabricUp s  := rfl
@[simp] theorem domOn_setDom (d : Nat) (x : Dom) (s : State) (d0 : PDom) : domOn (setDom d x s) d0 = domOn s d0 := rfl
@[simp] theorem live_setDom (d : Nat) (x : Dom) (s : State) (d0 : PDom) : live (setDom d x s) d0 = live s d0 := rfl
@[simp] theorem pageUp_setDom (d : Nat) (x : Dom) (s : State) (t0 : PageType) (o0 : Nat) : pageUp (setDom d x s) t0 o0 = pageUp s t0 o0 := rfl
@[simp] theorem formerPair_setDom (d : Nat) (x : Dom) (s : State) (m0 : Master) : formerPair (setDom d x s) m0 = formerPair s m0 := rfl
@[simp] theorem stagedPair_setDom (d : Nat) (x : Dom) (s : State) (m0 : Master) : stagedPair (setDom d x s) m0 = stagedPair s m0 := rfl
@[simp] theorem rd_setGrp (k : Nat) (x : Grp) (s : State) (k0 : Nat) : rd (setGrp k x s) k0 = rd s k0 := rfl
@[simp] theorem inForce_setGrp (k : Nat) (x : Grp) (s : State) (k0 : Nat) : inForce (setGrp k x s) k0 = inForce s k0 := rfl
@[simp] theorem memRd_setGrp (k : Nat) (x : Grp) (s : State) (k0 : Nat) : memRd (setGrp k x s) k0 = memRd s k0 := rfl
@[simp] theorem fabricUp_setGrp (k : Nat) (x : Grp) (s : State)  : fabricUp (setGrp k x s)  = fabricUp s  := rfl
@[simp] theorem domOn_setGrp (k : Nat) (x : Grp) (s : State) (d0 : PDom) : domOn (setGrp k x s) d0 = domOn s d0 := rfl
@[simp] theorem live_setGrp (k : Nat) (x : Grp) (s : State) (d0 : PDom) : live (setGrp k x s) d0 = live s d0 := rfl
@[simp] theorem pageUp_setGrp (k : Nat) (x : Grp) (s : State) (t0 : PageType) (o0 : Nat) : pageUp (setGrp k x s) t0 o0 = pageUp s t0 o0 := rfl
@[simp] theorem formerPair_setGrp (k : Nat) (x : Grp) (s : State) (m0 : Master) : formerPair (setGrp k x s) m0 = formerPair s m0 := rfl
@[simp] theorem stagedPair_setGrp (k : Nat) (x : Grp) (s : State) (m0 : Master) : stagedPair (setGrp k x s) m0 = stagedPair s m0 := rfl
@[simp] theorem rd_setLeg (l : Nat) (x : Leg) (s : State) (k0 : Nat) : rd (setLeg l x s) k0 = rd s k0 := rfl
@[simp] theorem inForce_setLeg (l : Nat) (x : Leg) (s : State) (k0 : Nat) : inForce (setLeg l x s) k0 = inForce s k0 := rfl
@[simp] theorem memRd_setLeg (l : Nat) (x : Leg) (s : State) (k0 : Nat) : memRd (setLeg l x s) k0 = memRd s k0 := rfl
@[simp] theorem fabricUp_setLeg (l : Nat) (x : Leg) (s : State)  : fabricUp (setLeg l x s)  = fabricUp s  := rfl
@[simp] theorem domOn_setLeg (l : Nat) (x : Leg) (s : State) (d0 : PDom) : domOn (setLeg l x s) d0 = domOn s d0 := rfl
@[simp] theorem live_setLeg (l : Nat) (x : Leg) (s : State) (d0 : PDom) : live (setLeg l x s) d0 = live s d0 := rfl
@[simp] theorem pageUp_setLeg (l : Nat) (x : Leg) (s : State) (t0 : PageType) (o0 : Nat) : pageUp (setLeg l x s) t0 o0 = pageUp s t0 o0 := rfl
@[simp] theorem formerPair_setLeg (l : Nat) (x : Leg) (s : State) (m0 : Master) : formerPair (setLeg l x s) m0 = formerPair s m0 := rfl
@[simp] theorem stagedPair_setLeg (l : Nat) (x : Leg) (s : State) (m0 : Master) : stagedPair (setLeg l x s) m0 = stagedPair s m0 := rfl
@[simp] theorem rd_setPhase (p : Nat) (x : Phase) (s : State) (k0 : Nat) : rd (setPhase p x s) k0 = rd s k0 := rfl
@[simp] theorem inForce_setPhase (p : Nat) (x : Phase) (s : State) (k0 : Nat) : inForce (setPhase p x s) k0 = inForce s k0 := rfl
@[simp] theorem memRd_setPhase (p : Nat) (x : Phase) (s : State) (k0 : Nat) : memRd (setPhase p x s) k0 = memRd s k0 := rfl
@[simp] theorem fabricUp_setPhase (p : Nat) (x : Phase) (s : State)  : fabricUp (setPhase p x s)  = fabricUp s  := rfl
@[simp] theorem domOn_setPhase (p : Nat) (x : Phase) (s : State) (d0 : PDom) : domOn (setPhase p x s) d0 = domOn s d0 := rfl
@[simp] theorem live_setPhase (p : Nat) (x : Phase) (s : State) (d0 : PDom) : live (setPhase p x s) d0 = live s d0 := rfl
@[simp] theorem pageUp_setPhase (p : Nat) (x : Phase) (s : State) (t0 : PageType) (o0 : Nat) : pageUp (setPhase p x s) t0 o0 = pageUp s t0 o0 := rfl
@[simp] theorem formerPair_setPhase (p : Nat) (x : Phase) (s : State) (m0 : Master) : formerPair (setPhase p x s) m0 = formerPair s m0 := rfl
@[simp] theorem stagedPair_setPhase (p : Nat) (x : Phase) (s : State) (m0 : Master) : stagedPair (setPhase p x s) m0 = stagedPair s m0 := rfl
@[simp] theorem rd_setSafe (k : Nat) (x : SafeSet) (s : State) (k0 : Nat) : rd (setSafe k x s) k0 = rd s k0 := rfl
@[simp] theorem inForce_setSafe (k : Nat) (x : SafeSet) (s : State) (k0 : Nat) : inForce (setSafe k x s) k0 = inForce s k0 := rfl
@[simp] theorem memRd_setSafe (k : Nat) (x : SafeSet) (s : State) (k0 : Nat) : memRd (setSafe k x s) k0 = memRd s k0 := rfl
@[simp] theorem fabricUp_setSafe (k : Nat) (x : SafeSet) (s : State)  : fabricUp (setSafe k x s)  = fabricUp s  := rfl
@[simp] theorem domOn_setSafe (k : Nat) (x : SafeSet) (s : State) (d0 : PDom) : domOn (setSafe k x s) d0 = domOn s d0 := rfl
@[simp] theorem live_setSafe (k : Nat) (x : SafeSet) (s : State) (d0 : PDom) : live (setSafe k x s) d0 = live s d0 := rfl
@[simp] theorem pageUp_setSafe (k : Nat) (x : SafeSet) (s : State) (t0 : PageType) (o0 : Nat) : pageUp (setSafe k x s) t0 o0 = pageUp s t0 o0 := rfl
@[simp] theorem formerPair_setSafe (k : Nat) (x : SafeSet) (s : State) (m0 : Master) : formerPair (setSafe k x s) m0 = formerPair s m0 := rfl
@[simp] theorem stagedPair_setSafe (k : Nat) (x : SafeSet) (s : State) (m0 : Master) : stagedPair (setSafe k x s) m0 = stagedPair s m0 := rfl
@[simp] theorem rd_setTrip (i : Nat) (x : TripIn) (s : State) (k0 : Nat) : rd (setTrip i x s) k0 = rd s k0 := rfl
@[simp] theorem inForce_setTrip (i : Nat) (x : TripIn) (s : State) (k0 : Nat) : inForce (setTrip i x s) k0 = inForce s k0 := rfl
@[simp] theorem memRd_setTrip (i : Nat) (x : TripIn) (s : State) (k0 : Nat) : memRd (setTrip i x s) k0 = memRd s k0 := rfl
@[simp] theorem fabricUp_setTrip (i : Nat) (x : TripIn) (s : State)  : fabricUp (setTrip i x s)  = fabricUp s  := rfl
@[simp] theorem domOn_setTrip (i : Nat) (x : TripIn) (s : State) (d0 : PDom) : domOn (setTrip i x s) d0 = domOn s d0 := rfl
@[simp] theorem live_setTrip (i : Nat) (x : TripIn) (s : State) (d0 : PDom) : live (setTrip i x s) d0 = live s d0 := rfl
@[simp] theorem pageUp_setTrip (i : Nat) (x : TripIn) (s : State) (t0 : PageType) (o0 : Nat) : pageUp (setTrip i x s) t0 o0 = pageUp s t0 o0 := rfl
@[simp] theorem formerPair_setTrip (i : Nat) (x : TripIn) (s : State) (m0 : Master) : formerPair (setTrip i x s) m0 = formerPair s m0 := rfl
@[simp] theorem stagedPair_setTrip (i : Nat) (x : TripIn) (s : State) (m0 : Master) : stagedPair (setTrip i x s) m0 = stagedPair s m0 := rfl
@[simp] theorem rd_setMon (i : Nat) (x : Mon) (s : State) (k0 : Nat) : rd (setMon i x s) k0 = rd s k0 := rfl
@[simp] theorem inForce_setMon (i : Nat) (x : Mon) (s : State) (k0 : Nat) : inForce (setMon i x s) k0 = inForce s k0 := rfl
@[simp] theorem memRd_setMon (i : Nat) (x : Mon) (s : State) (k0 : Nat) : memRd (setMon i x s) k0 = memRd s k0 := rfl
@[simp] theorem fabricUp_setMon (i : Nat) (x : Mon) (s : State)  : fabricUp (setMon i x s)  = fabricUp s  := rfl
@[simp] theorem domOn_setMon (i : Nat) (x : Mon) (s : State) (d0 : PDom) : domOn (setMon i x s) d0 = domOn s d0 := rfl
@[simp] theorem live_setMon (i : Nat) (x : Mon) (s : State) (d0 : PDom) : live (setMon i x s) d0 = live s d0 := rfl
@[simp] theorem pageUp_setMon (i : Nat) (x : Mon) (s : State) (t0 : PageType) (o0 : Nat) : pageUp (setMon i x s) t0 o0 = pageUp s t0 o0 := rfl
@[simp] theorem formerPair_setMon (i : Nat) (x : Mon) (s : State) (m0 : Master) : formerPair (setMon i x s) m0 = formerPair s m0 := rfl
@[simp] theorem stagedPair_setMon (i : Nat) (x : Mon) (s : State) (m0 : Master) : stagedPair (setMon i x s) m0 = stagedPair s m0 := rfl
@[simp] theorem rd_setDrv (g : Nat) (x : DrvGrp) (s : State) (k0 : Nat) : rd (setDrv g x s) k0 = rd s k0 := rfl
@[simp] theorem inForce_setDrv (g : Nat) (x : DrvGrp) (s : State) (k0 : Nat) : inForce (setDrv g x s) k0 = inForce s k0 := rfl
@[simp] theorem memRd_setDrv (g : Nat) (x : DrvGrp) (s : State) (k0 : Nat) : memRd (setDrv g x s) k0 = memRd s k0 := rfl
@[simp] theorem fabricUp_setDrv (g : Nat) (x : DrvGrp) (s : State)  : fabricUp (setDrv g x s)  = fabricUp s  := rfl
@[simp] theorem domOn_setDrv (g : Nat) (x : DrvGrp) (s : State) (d0 : PDom) : domOn (setDrv g x s) d0 = domOn s d0 := rfl
@[simp] theorem live_setDrv (g : Nat) (x : DrvGrp) (s : State) (d0 : PDom) : live (setDrv g x s) d0 = live s d0 := rfl
@[simp] theorem pageUp_setDrv (g : Nat) (x : DrvGrp) (s : State) (t0 : PageType) (o0 : Nat) : pageUp (setDrv g x s) t0 o0 = pageUp s t0 o0 := rfl
@[simp] theorem formerPair_setDrv (g : Nat) (x : DrvGrp) (s : State) (m0 : Master) : formerPair (setDrv g x s) m0 = formerPair s m0 := rfl
@[simp] theorem stagedPair_setDrv (g : Nat) (x : DrvGrp) (s : State) (m0 : Master) : stagedPair (setDrv g x s) m0 = stagedPair s m0 := rfl
@[simp] theorem rd_onClk (f : Clk → Clk) (s : State) (k0 : Nat) : rd (onClk f s) k0 = rd s k0 := rfl
@[simp] theorem inForce_onClk (f : Clk → Clk) (s : State) (k0 : Nat) : inForce (onClk f s) k0 = inForce s k0 := rfl
@[simp] theorem memRd_onClk (f : Clk → Clk) (s : State) (k0 : Nat) : memRd (onClk f s) k0 = memRd s k0 := rfl
@[simp] theorem domOn_onClk (f : Clk → Clk) (s : State) (d0 : PDom) : domOn (onClk f s) d0 = domOn s d0 := rfl
@[simp] theorem formerPair_onClk (f : Clk → Clk) (s : State) (m0 : Master) : formerPair (onClk f s) m0 = formerPair s m0 := rfl
@[simp] theorem stagedPair_onClk (f : Clk → Clk) (s : State) (m0 : Master) : stagedPair (onClk f s) m0 = stagedPair s m0 := rfl
@[simp] theorem rd_milestone (b : Nat) (s : State) (k0 : Nat) : rd (milestone b s) k0 = rd s k0 := rfl
@[simp] theorem inForce_milestone (b : Nat) (s : State) (k0 : Nat) : inForce (milestone b s) k0 = inForce s k0 := rfl
@[simp] theorem memRd_milestone (b : Nat) (s : State) (k0 : Nat) : memRd (milestone b s) k0 = memRd s k0 := rfl
@[simp] theorem formerPair_milestone (b : Nat) (s : State) (m0 : Master) : formerPair (milestone b s) m0 = formerPair s m0 := rfl
@[simp] theorem stagedPair_milestone (b : Nat) (s : State) (m0 : Master) : stagedPair (milestone b s) m0 = stagedPair s m0 := rfl
@[simp] theorem rd_onPlumb (f : Plumb → Plumb) (s : State) (k0 : Nat) : rd (onPlumb f s) k0 = rd s k0 := rfl
@[simp] theorem inForce_onPlumb (f : Plumb → Plumb) (s : State) (k0 : Nat) : inForce (onPlumb f s) k0 = inForce s k0 := rfl
@[simp] theorem memRd_onPlumb (f : Plumb → Plumb) (s : State) (k0 : Nat) : memRd (onPlumb f s) k0 = memRd s k0 := rfl
@[simp] theorem fabricUp_onPlumb (f : Plumb → Plumb) (s : State)  : fabricUp (onPlumb f s)  = fabricUp s  := rfl
@[simp] theorem domOn_onPlumb (f : Plumb → Plumb) (s : State) (d0 : PDom) : domOn (onPlumb f s) d0 = domOn s d0 := rfl
@[simp] theorem live_onPlumb (f : Plumb → Plumb) (s : State) (d0 : PDom) : live (onPlumb f s) d0 = live s d0 := rfl
@[simp] theorem pageUp_onPlumb (f : Plumb → Plumb) (s : State) (t0 : PageType) (o0 : Nat) : pageUp (onPlumb f s) t0 o0 = pageUp s t0 o0 := rfl
@[simp] theorem formerPair_onPlumb (f : Plumb → Plumb) (s : State) (m0 : Master) : formerPair (onPlumb f s) m0 = formerPair s m0 := rfl
@[simp] theorem stagedPair_onPlumb (f : Plumb → Plumb) (s : State) (m0 : Master) : stagedPair (onPlumb f s) m0 = stagedPair s m0 := rfl
@[simp] theorem rd_onSafeIn (i : Nat) (f : SafeIn → SafeIn) (s : State) (k0 : Nat) : rd (onSafeIn i f s) k0 = rd s k0 := rfl
@[simp] theorem inForce_onSafeIn (i : Nat) (f : SafeIn → SafeIn) (s : State) (k0 : Nat) : inForce (onSafeIn i f s) k0 = inForce s k0 := rfl
@[simp] theorem memRd_onSafeIn (i : Nat) (f : SafeIn → SafeIn) (s : State) (k0 : Nat) : memRd (onSafeIn i f s) k0 = memRd s k0 := rfl
@[simp] theorem fabricUp_onSafeIn (i : Nat) (f : SafeIn → SafeIn) (s : State)  : fabricUp (onSafeIn i f s)  = fabricUp s  := rfl
@[simp] theorem domOn_onSafeIn (i : Nat) (f : SafeIn → SafeIn) (s : State) (d0 : PDom) : domOn (onSafeIn i f s) d0 = domOn s d0 := rfl
@[simp] theorem live_onSafeIn (i : Nat) (f : SafeIn → SafeIn) (s : State) (d0 : PDom) : live (onSafeIn i f s) d0 = live s d0 := rfl
@[simp] theorem pageUp_onSafeIn (i : Nat) (f : SafeIn → SafeIn) (s : State) (t0 : PageType) (o0 : Nat) : pageUp (onSafeIn i f s) t0 o0 = pageUp s t0 o0 := rfl
@[simp] theorem formerPair_onSafeIn (i : Nat) (f : SafeIn → SafeIn) (s : State) (m0 : Master) : formerPair (onSafeIn i f s) m0 = formerPair s m0 := rfl
@[simp] theorem stagedPair_onSafeIn (i : Nat) (f : SafeIn → SafeIn) (s : State) (m0 : Master) : stagedPair (onSafeIn i f s) m0 = stagedPair s m0 := rfl
@[simp] theorem rd_onScanCh (i : Nat) (f : ScanCh → ScanCh) (s : State) (k0 : Nat) : rd (onScanCh i f s) k0 = rd s k0 := rfl
@[simp] theorem inForce_onScanCh (i : Nat) (f : ScanCh → ScanCh) (s : State) (k0 : Nat) : inForce (onScanCh i f s) k0 = inForce s k0 := rfl
@[simp] theorem memRd_onScanCh (i : Nat) (f : ScanCh → ScanCh) (s : State) (k0 : Nat) : memRd (onScanCh i f s) k0 = memRd s k0 := rfl
@[simp] theorem fabricUp_onScanCh (i : Nat) (f : ScanCh → ScanCh) (s : State)  : fabricUp (onScanCh i f s)  = fabricUp s  := rfl
@[simp] theorem domOn_onScanCh (i : Nat) (f : ScanCh → ScanCh) (s : State) (d0 : PDom) : domOn (onScanCh i f s) d0 = domOn s d0 := rfl
@[simp] theorem live_onScanCh (i : Nat) (f : ScanCh → ScanCh) (s : State) (d0 : PDom) : live (onScanCh i f s) d0 = live s d0 := rfl
@[simp] theorem pageUp_onScanCh (i : Nat) (f : ScanCh → ScanCh) (s : State) (t0 : PageType) (o0 : Nat) : pageUp (onScanCh i f s) t0 o0 = pageUp s t0 o0 := rfl
@[simp] theorem formerPair_onScanCh (i : Nat) (f : ScanCh → ScanCh) (s : State) (m0 : Master) : formerPair (onScanCh i f s) m0 = formerPair s m0 := rfl
@[simp] theorem stagedPair_onScanCh (i : Nat) (f : ScanCh → ScanCh) (s : State) (m0 : Master) : stagedPair (onScanCh i f s) m0 = stagedPair s m0 := rfl
@[simp] theorem rd_onScanConv (c : Nat) (f : ScanConv → ScanConv) (s : State) (k0 : Nat) : rd (onScanConv c f s) k0 = rd s k0 := rfl
@[simp] theorem inForce_onScanConv (c : Nat) (f : ScanConv → ScanConv) (s : State) (k0 : Nat) : inForce (onScanConv c f s) k0 = inForce s k0 := rfl
@[simp] theorem memRd_onScanConv (c : Nat) (f : ScanConv → ScanConv) (s : State) (k0 : Nat) : memRd (onScanConv c f s) k0 = memRd s k0 := rfl
@[simp] theorem fabricUp_onScanConv (c : Nat) (f : ScanConv → ScanConv) (s : State)  : fabricUp (onScanConv c f s)  = fabricUp s  := rfl
@[simp] theorem domOn_onScanConv (c : Nat) (f : ScanConv → ScanConv) (s : State) (d0 : PDom) : domOn (onScanConv c f s) d0 = domOn s d0 := rfl
@[simp] theorem live_onScanConv (c : Nat) (f : ScanConv → ScanConv) (s : State) (d0 : PDom) : live (onScanConv c f s) d0 = live s d0 := rfl
@[simp] theorem pageUp_onScanConv (c : Nat) (f : ScanConv → ScanConv) (s : State) (t0 : PageType) (o0 : Nat) : pageUp (onScanConv c f s) t0 o0 = pageUp s t0 o0 := rfl
@[simp] theorem formerPair_onScanConv (c : Nat) (f : ScanConv → ScanConv) (s : State) (m0 : Master) : formerPair (onScanConv c f s) m0 = formerPair s m0 := rfl
@[simp] theorem stagedPair_onScanConv (c : Nat) (f : ScanConv → ScanConv) (s : State) (m0 : Master) : stagedPair (onScanConv c f s) m0 = stagedPair s m0 := rfl
@[simp] theorem rd_onSout (n : Nat) (f : Sout → Sout) (s : State) (k0 : Nat) : rd (onSout n f s) k0 = rd s k0 := rfl
@[simp] theorem inForce_onSout (n : Nat) (f : Sout → Sout) (s : State) (k0 : Nat) : inForce (onSout n f s) k0 = inForce s k0 := rfl
@[simp] theorem memRd_onSout (n : Nat) (f : Sout → Sout) (s : State) (k0 : Nat) : memRd (onSout n f s) k0 = memRd s k0 := rfl
@[simp] theorem fabricUp_onSout (n : Nat) (f : Sout → Sout) (s : State)  : fabricUp (onSout n f s)  = fabricUp s  := rfl
@[simp] theorem domOn_onSout (n : Nat) (f : Sout → Sout) (s : State) (d0 : PDom) : domOn (onSout n f s) d0 = domOn s d0 := rfl
@[simp] theorem live_onSout (n : Nat) (f : Sout → Sout) (s : State) (d0 : PDom) : live (onSout n f s) d0 = live s d0 := rfl
@[simp] theorem pageUp_onSout (n : Nat) (f : Sout → Sout) (s : State) (t0 : PageType) (o0 : Nat) : pageUp (onSout n f s) t0 o0 = pageUp s t0 o0 := rfl
@[simp] theorem formerPair_onSout (n : Nat) (f : Sout → Sout) (s : State) (m0 : Master) : formerPair (onSout n f s) m0 = formerPair s m0 := rfl
@[simp] theorem stagedPair_onSout (n : Nat) (f : Sout → Sout) (s : State) (m0 : Master) : stagedPair (onSout n f s) m0 = stagedPair s m0 := rfl
@[simp] theorem rd_onConn (c : Nat) (f : Conn → Conn) (s : State) (k0 : Nat) : rd (onConn c f s) k0 = rd s k0 := rfl
@[simp] theorem inForce_onConn (c : Nat) (f : Conn → Conn) (s : State) (k0 : Nat) : inForce (onConn c f s) k0 = inForce s k0 := rfl
@[simp] theorem memRd_onConn (c : Nat) (f : Conn → Conn) (s : State) (k0 : Nat) : memRd (onConn c f s) k0 = memRd s k0 := rfl
@[simp] theorem fabricUp_onConn (c : Nat) (f : Conn → Conn) (s : State)  : fabricUp (onConn c f s)  = fabricUp s  := rfl
@[simp] theorem domOn_onConn (c : Nat) (f : Conn → Conn) (s : State) (d0 : PDom) : domOn (onConn c f s) d0 = domOn s d0 := rfl
@[simp] theorem live_onConn (c : Nat) (f : Conn → Conn) (s : State) (d0 : PDom) : live (onConn c f s) d0 = live s d0 := rfl
@[simp] theorem pageUp_onConn (c : Nat) (f : Conn → Conn) (s : State) (t0 : PageType) (o0 : Nat) : pageUp (onConn c f s) t0 o0 = pageUp s t0 o0 := rfl
@[simp] theorem formerPair_onConn (c : Nat) (f : Conn → Conn) (s : State) (m0 : Master) : formerPair (onConn c f s) m0 = formerPair s m0 := rfl
@[simp] theorem stagedPair_onConn (c : Nat) (f : Conn → Conn) (s : State) (m0 : Master) : stagedPair (onConn c f s) m0 = stagedPair s m0 := rfl
@[simp] theorem rd_setAdc (n : Nat) (x : Adc) (s : State) (k0 : Nat) : rd (setAdc n x s) k0 = rd s k0 := rfl
@[simp] theorem inForce_setAdc (n : Nat) (x : Adc) (s : State) (k0 : Nat) : inForce (setAdc n x s) k0 = inForce s k0 := rfl
@[simp] theorem memRd_setAdc (n : Nat) (x : Adc) (s : State) (k0 : Nat) : memRd (setAdc n x s) k0 = memRd s k0 := rfl
@[simp] theorem fabricUp_setAdc (n : Nat) (x : Adc) (s : State)  : fabricUp (setAdc n x s)  = fabricUp s  := rfl
@[simp] theorem domOn_setAdc (n : Nat) (x : Adc) (s : State) (d0 : PDom) : domOn (setAdc n x s) d0 = domOn s d0 := rfl
@[simp] theorem live_setAdc (n : Nat) (x : Adc) (s : State) (d0 : PDom) : live (setAdc n x s) d0 = live s d0 := rfl
@[simp] theorem pageUp_setAdc (n : Nat) (x : Adc) (s : State) (t0 : PageType) (o0 : Nat) : pageUp (setAdc n x s) t0 o0 = pageUp s t0 o0 := rfl
@[simp] theorem formerPair_setAdc (n : Nat) (x : Adc) (s : State) (m0 : Master) : formerPair (setAdc n x s) m0 = formerPair s m0 := rfl
@[simp] theorem stagedPair_setAdc (n : Nat) (x : Adc) (s : State) (m0 : Master) : stagedPair (setAdc n x s) m0 = stagedPair s m0 := rfl
@[simp] theorem rd_keepStopFull (s : State) (k0 : Nat) : rd (keepStopFull s) k0 = rd s k0 := rfl
@[simp] theorem inForce_keepStopFull (s : State) (k0 : Nat) : inForce (keepStopFull s) k0 = inForce s k0 := rfl
@[simp] theorem memRd_keepStopFull (s : State) (k0 : Nat) : memRd (keepStopFull s) k0 = memRd s k0 := rfl
@[simp] theorem fabricUp_keepStopFull (s : State)  : fabricUp (keepStopFull s)  = fabricUp s  := rfl
@[simp] theorem domOn_keepStopFull (s : State) (d0 : PDom) : domOn (keepStopFull s) d0 = domOn s d0 := rfl
@[simp] theorem live_keepStopFull (s : State) (d0 : PDom) : live (keepStopFull s) d0 = live s d0 := rfl
@[simp] theorem pageUp_keepStopFull (s : State) (t0 : PageType) (o0 : Nat) : pageUp (keepStopFull s) t0 o0 = pageUp s t0 o0 := rfl
@[simp] theorem formerPair_keepStopFull (s : State) (m0 : Master) : formerPair (keepStopFull s) m0 = formerPair s m0 := rfl
@[simp] theorem stagedPair_keepStopFull (s : State) (m0 : Master) : stagedPair (keepStopFull s) m0 = stagedPair s m0 := rfl
@[simp] theorem rd_onVal (f : Valley → Valley) (s : State) (k0 : Nat) : rd (onVal f s) k0 = rd s k0 := rfl
@[simp] theorem inForce_onVal (f : Valley → Valley) (s : State) (k0 : Nat) : inForce (onVal f s) k0 = inForce s k0 := rfl
@[simp] theorem memRd_onVal (f : Valley → Valley) (s : State) (k0 : Nat) : memRd (onVal f s) k0 = memRd s k0 := rfl
@[simp] theorem fabricUp_onVal (f : Valley → Valley) (s : State)  : fabricUp (onVal f s)  = fabricUp s  := rfl
@[simp] theorem domOn_onVal (f : Valley → Valley) (s : State) (d0 : PDom) : domOn (onVal f s) d0 = domOn s d0 := rfl
@[simp] theorem live_onVal (f : Valley → Valley) (s : State) (d0 : PDom) : live (onVal f s) d0 = live s d0 := rfl
@[simp] theorem pageUp_onVal (f : Valley → Valley) (s : State) (t0 : PageType) (o0 : Nat) : pageUp (onVal f s) t0 o0 = pageUp s t0 o0 := rfl
@[simp] theorem formerPair_onVal (f : Valley → Valley) (s : State) (m0 : Master) : formerPair (onVal f s) m0 = formerPair s m0 := rfl
@[simp] theorem stagedPair_onVal (f : Valley → Valley) (s : State) (m0 : Master) : stagedPair (onVal f s) m0 = stagedPair s m0 := rfl
@[simp] theorem rd_setStream (n : Nat) (x : RStream) (s : State) (k0 : Nat) : rd (setStream n x s) k0 = rd s k0 := rfl
@[simp] theorem inForce_setStream (n : Nat) (x : RStream) (s : State) (k0 : Nat) : inForce (setStream n x s) k0 = inForce s k0 := rfl
@[simp] theorem memRd_setStream (n : Nat) (x : RStream) (s : State) (k0 : Nat) : memRd (setStream n x s) k0 = memRd s k0 := rfl
@[simp] theorem fabricUp_setStream (n : Nat) (x : RStream) (s : State)  : fabricUp (setStream n x s)  = fabricUp s  := rfl
@[simp] theorem domOn_setStream (n : Nat) (x : RStream) (s : State) (d0 : PDom) : domOn (setStream n x s) d0 = domOn s d0 := rfl
@[simp] theorem live_setStream (n : Nat) (x : RStream) (s : State) (d0 : PDom) : live (setStream n x s) d0 = live s d0 := rfl
@[simp] theorem pageUp_setStream (n : Nat) (x : RStream) (s : State) (t0 : PageType) (o0 : Nat) : pageUp (setStream n x s) t0 o0 = pageUp s t0 o0 := rfl
@[simp] theorem formerPair_setStream (n : Nat) (x : RStream) (s : State) (m0 : Master) : formerPair (setStream n x s) m0 = formerPair s m0 := rfl
@[simp] theorem stagedPair_setStream (n : Nat) (x : RStream) (s : State) (m0 : Master) : stagedPair (setStream n x s) m0 = stagedPair s m0 := rfl
@[simp] theorem rd_setGrid (g : Nat) (x : Grid) (s : State) (k0 : Nat) : rd (setGrid g x s) k0 = rd s k0 := rfl
@[simp] theorem inForce_setGrid (g : Nat) (x : Grid) (s : State) (k0 : Nat) : inForce (setGrid g x s) k0 = inForce s k0 := rfl
@[simp] theorem memRd_setGrid (g : Nat) (x : Grid) (s : State) (k0 : Nat) : memRd (setGrid g x s) k0 = memRd s k0 := rfl
@[simp] theorem fabricUp_setGrid (g : Nat) (x : Grid) (s : State)  : fabricUp (setGrid g x s)  = fabricUp s  := rfl
@[simp] theorem domOn_setGrid (g : Nat) (x : Grid) (s : State) (d0 : PDom) : domOn (setGrid g x s) d0 = domOn s d0 := rfl
@[simp] theorem live_setGrid (g : Nat) (x : Grid) (s : State) (d0 : PDom) : live (setGrid g x s) d0 = live s d0 := rfl
@[simp] theorem pageUp_setGrid (g : Nat) (x : Grid) (s : State) (t0 : PageType) (o0 : Nat) : pageUp (setGrid g x s) t0 o0 = pageUp s t0 o0 := rfl
@[simp] theorem formerPair_setGrid (g : Nat) (x : Grid) (s : State) (m0 : Master) : formerPair (setGrid g x s) m0 = formerPair s m0 := rfl
@[simp] theorem stagedPair_setGrid (g : Nat) (x : Grid) (s : State) (m0 : Master) : stagedPair (setGrid g x s) m0 = stagedPair s m0 := rfl
@[simp] theorem rd_setLane (n : Nat) (x : Lane) (s : State) (k0 : Nat) : rd (setLane n x s) k0 = rd s k0 := rfl
@[simp] theorem inForce_setLane (n : Nat) (x : Lane) (s : State) (k0 : Nat) : inForce (setLane n x s) k0 = inForce s k0 := rfl
@[simp] theorem memRd_setLane (n : Nat) (x : Lane) (s : State) (k0 : Nat) : memRd (setLane n x s) k0 = memRd s k0 := rfl
@[simp] theorem fabricUp_setLane (n : Nat) (x : Lane) (s : State)  : fabricUp (setLane n x s)  = fabricUp s  := rfl
@[simp] theorem domOn_setLane (n : Nat) (x : Lane) (s : State) (d0 : PDom) : domOn (setLane n x s) d0 = domOn s d0 := rfl
@[simp] theorem live_setLane (n : Nat) (x : Lane) (s : State) (d0 : PDom) : live (setLane n x s) d0 = live s d0 := rfl
@[simp] theorem pageUp_setLane (n : Nat) (x : Lane) (s : State) (t0 : PageType) (o0 : Nat) : pageUp (setLane n x s) t0 o0 = pageUp s t0 o0 := rfl
@[simp] theorem formerPair_setLane (n : Nat) (x : Lane) (s : State) (m0 : Master) : formerPair (setLane n x s) m0 = formerPair s m0 := rfl
@[simp] theorem stagedPair_setLane (n : Nat) (x : Lane) (s : State) (m0 : Master) : stagedPair (setLane n x s) m0 = stagedPair s m0 := rfl
@[simp] theorem rd_setGen (g : Nat) (x : Gen) (s : State) (k0 : Nat) : rd (setGen g x s) k0 = rd s k0 := rfl
@[simp] theorem inForce_setGen (g : Nat) (x : Gen) (s : State) (k0 : Nat) : inForce (setGen g x s) k0 = inForce s k0 := rfl
@[simp] theorem memRd_setGen (g : Nat) (x : Gen) (s : State) (k0 : Nat) : memRd (setGen g x s) k0 = memRd s k0 := rfl
@[simp] theorem fabricUp_setGen (g : Nat) (x : Gen) (s : State)  : fabricUp (setGen g x s)  = fabricUp s  := rfl
@[simp] theorem domOn_setGen (g : Nat) (x : Gen) (s : State) (d0 : PDom) : domOn (setGen g x s) d0 = domOn s d0 := rfl
@[simp] theorem live_setGen (g : Nat) (x : Gen) (s : State) (d0 : PDom) : live (setGen g x s) d0 = live s d0 := rfl
@[simp] theorem pageUp_setGen (g : Nat) (x : Gen) (s : State) (t0 : PageType) (o0 : Nat) : pageUp (setGen g x s) t0 o0 = pageUp s t0 o0 := rfl
@[simp] theorem formerPair_setGen (g : Nat) (x : Gen) (s : State) (m0 : Master) : formerPair (setGen g x s) m0 = formerPair s m0 := rfl
@[simp] theorem stagedPair_setGen (g : Nat) (x : Gen) (s : State) (m0 : Master) : stagedPair (setGen g x s) m0 = stagedPair s m0 := rfl
@[simp] theorem rd_onIsl (f : Isl → Isl) (s : State) (k0 : Nat) : rd (onIsl f s) k0 = rd s k0 := rfl
@[simp] theorem inForce_onIsl (f : Isl → Isl) (s : State) (k0 : Nat) : inForce (onIsl f s) k0 = inForce s k0 := rfl
@[simp] theorem memRd_onIsl (f : Isl → Isl) (s : State) (k0 : Nat) : memRd (onIsl f s) k0 = memRd s k0 := rfl
@[simp] theorem fabricUp_onIsl (f : Isl → Isl) (s : State)  : fabricUp (onIsl f s)  = fabricUp s  := rfl
@[simp] theorem domOn_onIsl (f : Isl → Isl) (s : State) (d0 : PDom) : domOn (onIsl f s) d0 = domOn s d0 := rfl
@[simp] theorem live_onIsl (f : Isl → Isl) (s : State) (d0 : PDom) : live (onIsl f s) d0 = live s d0 := rfl
@[simp] theorem pageUp_onIsl (f : Isl → Isl) (s : State) (t0 : PageType) (o0 : Nat) : pageUp (onIsl f s) t0 o0 = pageUp s t0 o0 := rfl
@[simp] theorem formerPair_onIsl (f : Isl → Isl) (s : State) (m0 : Master) : formerPair (onIsl f s) m0 = formerPair s m0 := rfl
@[simp] theorem stagedPair_onIsl (f : Isl → Isl) (s : State) (m0 : Master) : stagedPair (onIsl f s) m0 = stagedPair s m0 := rfl
@[simp] theorem rd_onDatum (f : Datum → Datum) (s : State) (k0 : Nat) : rd (onDatum f s) k0 = rd s k0 := rfl
@[simp] theorem inForce_onDatum (f : Datum → Datum) (s : State) (k0 : Nat) : inForce (onDatum f s) k0 = inForce s k0 := rfl
@[simp] theorem memRd_onDatum (f : Datum → Datum) (s : State) (k0 : Nat) : memRd (onDatum f s) k0 = memRd s k0 := rfl
@[simp] theorem fabricUp_onDatum (f : Datum → Datum) (s : State)  : fabricUp (onDatum f s)  = fabricUp s  := rfl
@[simp] theorem domOn_onDatum (f : Datum → Datum) (s : State) (d0 : PDom) : domOn (onDatum f s) d0 = domOn s d0 := rfl
@[simp] theorem live_onDatum (f : Datum → Datum) (s : State) (d0 : PDom) : live (onDatum f s) d0 = live s d0 := rfl
@[simp] theorem pageUp_onDatum (f : Datum → Datum) (s : State) (t0 : PageType) (o0 : Nat) : pageUp (onDatum f s) t0 o0 = pageUp s t0 o0 := rfl
@[simp] theorem formerPair_onDatum (f : Datum → Datum) (s : State) (m0 : Master) : formerPair (onDatum f s) m0 = formerPair s m0 := rfl
@[simp] theorem stagedPair_onDatum (f : Datum → Datum) (s : State) (m0 : Master) : stagedPair (onDatum f s) m0 = stagedPair s m0 := rfl
@[simp] theorem rd_onPair (f : Pair → Pair) (s : State) (k0 : Nat) : rd (onPair f s) k0 = rd s k0 := rfl
@[simp] theorem inForce_onPair (f : Pair → Pair) (s : State) (k0 : Nat) : inForce (onPair f s) k0 = inForce s k0 := rfl
@[simp] theorem memRd_onPair (f : Pair → Pair) (s : State) (k0 : Nat) : memRd (onPair f s) k0 = memRd s k0 := rfl
@[simp] theorem fabricUp_onPair (f : Pair → Pair) (s : State)  : fabricUp (onPair f s)  = fabricUp s  := rfl
@[simp] theorem domOn_onPair (f : Pair → Pair) (s : State) (d0 : PDom) : domOn (onPair f s) d0 = domOn s d0 := rfl
@[simp] theorem live_onPair (f : Pair → Pair) (s : State) (d0 : PDom) : live (onPair f s) d0 = live s d0 := rfl
@[simp] theorem pageUp_onPair (f : Pair → Pair) (s : State) (t0 : PageType) (o0 : Nat) : pageUp (onPair f s) t0 o0 = pageUp s t0 o0 := rfl
@[simp] theorem formerPair_onPair (f : Pair → Pair) (s : State) (m0 : Master) : formerPair (onPair f s) m0 = formerPair s m0 := rfl
@[simp] theorem stagedPair_onPair (f : Pair → Pair) (s : State) (m0 : Master) : stagedPair (onPair f s) m0 = stagedPair s m0 := rfl
@[simp] theorem rd_onUpd (f : Upd → Upd) (s : State) (k0 : Nat) : rd (onUpd f s) k0 = rd s k0 := rfl
@[simp] theorem inForce_onUpd (f : Upd → Upd) (s : State) (k0 : Nat) : inForce (onUpd f s) k0 = inForce s k0 := rfl
@[simp] theorem memRd_onUpd (f : Upd → Upd) (s : State) (k0 : Nat) : memRd (onUpd f s) k0 = memRd s k0 := rfl
@[simp] theorem fabricUp_onUpd (f : Upd → Upd) (s : State)  : fabricUp (onUpd f s)  = fabricUp s  := rfl
@[simp] theorem domOn_onUpd (f : Upd → Upd) (s : State) (d0 : PDom) : domOn (onUpd f s) d0 = domOn s d0 := rfl
@[simp] theorem live_onUpd (f : Upd → Upd) (s : State) (d0 : PDom) : live (onUpd f s) d0 = live s d0 := rfl
@[simp] theorem pageUp_onUpd (f : Upd → Upd) (s : State) (t0 : PageType) (o0 : Nat) : pageUp (onUpd f s) t0 o0 = pageUp s t0 o0 := rfl
@[simp] theorem rd_setMeter (p : Nat) (x : Meter) (s : State) (k0 : Nat) : rd (setMeter p x s) k0 = rd s k0 := rfl
@[simp] theorem inForce_setMeter (p : Nat) (x : Meter) (s : State) (k0 : Nat) : inForce (setMeter p x s) k0 = inForce s k0 := rfl
@[simp] theorem memRd_setMeter (p : Nat) (x : Meter) (s : State) (k0 : Nat) : memRd (setMeter p x s) k0 = memRd s k0 := rfl
@[simp] theorem fabricUp_setMeter (p : Nat) (x : Meter) (s : State)  : fabricUp (setMeter p x s)  = fabricUp s  := rfl
@[simp] theorem domOn_setMeter (p : Nat) (x : Meter) (s : State) (d0 : PDom) : domOn (setMeter p x s) d0 = domOn s d0 := rfl
@[simp] theorem live_setMeter (p : Nat) (x : Meter) (s : State) (d0 : PDom) : live (setMeter p x s) d0 = live s d0 := rfl
@[simp] theorem pageUp_setMeter (p : Nat) (x : Meter) (s : State) (t0 : PageType) (o0 : Nat) : pageUp (setMeter p x s) t0 o0 = pageUp s t0 o0 := rfl
@[simp] theorem formerPair_setMeter (p : Nat) (x : Meter) (s : State) (m0 : Master) : formerPair (setMeter p x s) m0 = formerPair s m0 := rfl
@[simp] theorem stagedPair_setMeter (p : Nat) (x : Meter) (s : State) (m0 : Master) : stagedPair (setMeter p x s) m0 = stagedPair s m0 := rfl
@[simp] theorem rd_setTracker (t : Nat) (x : Tracker) (s : State) (k0 : Nat) : rd (setTracker t x s) k0 = rd s k0 := rfl
@[simp] theorem inForce_setTracker (t : Nat) (x : Tracker) (s : State) (k0 : Nat) : inForce (setTracker t x s) k0 = inForce s k0 := rfl
@[simp] theorem memRd_setTracker (t : Nat) (x : Tracker) (s : State) (k0 : Nat) : memRd (setTracker t x s) k0 = memRd s k0 := rfl
@[simp] theorem fabricUp_setTracker (t : Nat) (x : Tracker) (s : State)  : fabricUp (setTracker t x s)  = fabricUp s  := rfl
@[simp] theorem domOn_setTracker (t : Nat) (x : Tracker) (s : State) (d0 : PDom) : domOn (setTracker t x s) d0 = domOn s d0 := rfl
@[simp] theorem live_setTracker (t : Nat) (x : Tracker) (s : State) (d0 : PDom) : live (setTracker t x s) d0 = live s d0 := rfl
@[simp] theorem pageUp_setTracker (t : Nat) (x : Tracker) (s : State) (t0 : PageType) (o0 : Nat) : pageUp (setTracker t x s) t0 o0 = pageUp s t0 o0 := rfl
@[simp] theorem formerPair_setTracker (t : Nat) (x : Tracker) (s : State) (m0 : Master) : formerPair (setTracker t x s) m0 = formerPair s m0 := rfl
@[simp] theorem stagedPair_setTracker (t : Nat) (x : Tracker) (s : State) (m0 : Master) : stagedPair (setTracker t x s) m0 = stagedPair s m0 := rfl
@[simp] theorem rd_onSweep (f : Sweep → Sweep) (s : State) (k0 : Nat) : rd (onSweep f s) k0 = rd s k0 := rfl
@[simp] theorem inForce_onSweep (f : Sweep → Sweep) (s : State) (k0 : Nat) : inForce (onSweep f s) k0 = inForce s k0 := rfl
@[simp] theorem memRd_onSweep (f : Sweep → Sweep) (s : State) (k0 : Nat) : memRd (onSweep f s) k0 = memRd s k0 := rfl
@[simp] theorem fabricUp_onSweep (f : Sweep → Sweep) (s : State)  : fabricUp (onSweep f s)  = fabricUp s  := rfl
@[simp] theorem domOn_onSweep (f : Sweep → Sweep) (s : State) (d0 : PDom) : domOn (onSweep f s) d0 = domOn s d0 := rfl
@[simp] theorem live_onSweep (f : Sweep → Sweep) (s : State) (d0 : PDom) : live (onSweep f s) d0 = live s d0 := rfl
@[simp] theorem pageUp_onSweep (f : Sweep → Sweep) (s : State) (t0 : PageType) (o0 : Nat) : pageUp (onSweep f s) t0 o0 = pageUp s t0 o0 := rfl
@[simp] theorem formerPair_onSweep (f : Sweep → Sweep) (s : State) (m0 : Master) : formerPair (onSweep f s) m0 = formerPair s m0 := rfl
@[simp] theorem stagedPair_onSweep (f : Sweep → Sweep) (s : State) (m0 : Master) : stagedPair (onSweep f s) m0 = stagedPair s m0 := rfl
@[simp] theorem rd_setRail (r : Nat) (x : Rail) (s : State) (k0 : Nat) : rd (setRail r x s) k0 = rd s k0 := rfl
@[simp] theorem inForce_setRail (r : Nat) (x : Rail) (s : State) (k0 : Nat) : inForce (setRail r x s) k0 = inForce s k0 := rfl
@[simp] theorem memRd_setRail (r : Nat) (x : Rail) (s : State) (k0 : Nat) : memRd (setRail r x s) k0 = memRd s k0 := rfl
@[simp] theorem fabricUp_setRail (r : Nat) (x : Rail) (s : State)  : fabricUp (setRail r x s)  = fabricUp s  := rfl
@[simp] theorem domOn_setRail (r : Nat) (x : Rail) (s : State) (d0 : PDom) : domOn (setRail r x s) d0 = domOn s d0 := rfl
@[simp] theorem live_setRail (r : Nat) (x : Rail) (s : State) (d0 : PDom) : live (setRail r x s) d0 = live s d0 := rfl
@[simp] theorem pageUp_setRail (r : Nat) (x : Rail) (s : State) (t0 : PageType) (o0 : Nat) : pageUp (setRail r x s) t0 o0 = pageUp s t0 o0 := rfl
@[simp] theorem formerPair_setRail (r : Nat) (x : Rail) (s : State) (m0 : Master) : formerPair (setRail r x s) m0 = formerPair s m0 := rfl
@[simp] theorem stagedPair_setRail (r : Nat) (x : Rail) (s : State) (m0 : Master) : stagedPair (setRail r x s) m0 = stagedPair s m0 := rfl
@[simp] theorem rd_onGio (f : Gio → Gio) (s : State) (k0 : Nat) : rd (onGio f s) k0 = rd s k0 := rfl
@[simp] theorem inForce_onGio (f : Gio → Gio) (s : State) (k0 : Nat) : inForce (onGio f s) k0 = inForce s k0 := rfl
@[simp] theorem memRd_onGio (f : Gio → Gio) (s : State) (k0 : Nat) : memRd (onGio f s) k0 = memRd s k0 := rfl
@[simp] theorem fabricUp_onGio (f : Gio → Gio) (s : State)  : fabricUp (onGio f s)  = fabricUp s  := rfl
@[simp] theorem domOn_onGio (f : Gio → Gio) (s : State) (d0 : PDom) : domOn (onGio f s) d0 = domOn s d0 := rfl
@[simp] theorem live_onGio (f : Gio → Gio) (s : State) (d0 : PDom) : live (onGio f s) d0 = live s d0 := rfl
@[simp] theorem pageUp_onGio (f : Gio → Gio) (s : State) (t0 : PageType) (o0 : Nat) : pageUp (onGio f s) t0 o0 = pageUp s t0 o0 := rfl
@[simp] theorem formerPair_onGio (f : Gio → Gio) (s : State) (m0 : Master) : formerPair (onGio f s) m0 = formerPair s m0 := rfl
@[simp] theorem stagedPair_onGio (f : Gio → Gio) (s : State) (m0 : Master) : stagedPair (onGio f s) m0 = stagedPair s m0 := rfl
@[simp] theorem rd_onPwr (f : Pwr → Pwr) (s : State) (k0 : Nat) : rd (onPwr f s) k0 = rd s k0 := rfl
@[simp] theorem inForce_onPwr (f : Pwr → Pwr) (s : State) (k0 : Nat) : inForce (onPwr f s) k0 = inForce s k0 := rfl
@[simp] theorem memRd_onPwr (f : Pwr → Pwr) (s : State) (k0 : Nat) : memRd (onPwr f s) k0 = memRd s k0 := rfl
@[simp] theorem formerPair_onPwr (f : Pwr → Pwr) (s : State) (m0 : Master) : formerPair (onPwr f s) m0 = formerPair s m0 := rfl
@[simp] theorem stagedPair_onPwr (f : Pwr → Pwr) (s : State) (m0 : Master) : stagedPair (onPwr f s) m0 = stagedPair s m0 := rfl
@[simp] theorem rd_onTherm (f : Therm → Therm) (s : State) (k0 : Nat) : rd (onTherm f s) k0 = rd s k0 := rfl
@[simp] theorem inForce_onTherm (f : Therm → Therm) (s : State) (k0 : Nat) : inForce (onTherm f s) k0 = inForce s k0 := rfl
@[simp] theorem memRd_onTherm (f : Therm → Therm) (s : State) (k0 : Nat) : memRd (onTherm f s) k0 = memRd s k0 := rfl
@[simp] theorem fabricUp_onTherm (f : Therm → Therm) (s : State)  : fabricUp (onTherm f s)  = fabricUp s  := rfl
@[simp] theorem domOn_onTherm (f : Therm → Therm) (s : State) (d0 : PDom) : domOn (onTherm f s) d0 = domOn s d0 := rfl
@[simp] theorem live_onTherm (f : Therm → Therm) (s : State) (d0 : PDom) : live (onTherm f s) d0 = live s d0 := rfl
@[simp] theorem pageUp_onTherm (f : Therm → Therm) (s : State) (t0 : PageType) (o0 : Nat) : pageUp (onTherm f s) t0 o0 = pageUp s t0 o0 := rfl
@[simp] theorem formerPair_onTherm (f : Therm → Therm) (s : State) (m0 : Master) : formerPair (onTherm f s) m0 = formerPair s m0 := rfl
@[simp] theorem stagedPair_onTherm (f : Therm → Therm) (s : State) (m0 : Master) : stagedPair (onTherm f s) m0 = stagedPair s m0 := rfl
@[simp] theorem rd_onPw (f : Passwords → Passwords) (s : State) (k0 : Nat) : rd (onPw f s) k0 = rd s k0 := rfl
@[simp] theorem inForce_onPw (f : Passwords → Passwords) (s : State) (k0 : Nat) : inForce (onPw f s) k0 = inForce s k0 := rfl
@[simp] theorem memRd_onPw (f : Passwords → Passwords) (s : State) (k0 : Nat) : memRd (onPw f s) k0 = memRd s k0 := rfl
@[simp] theorem fabricUp_onPw (f : Passwords → Passwords) (s : State)  : fabricUp (onPw f s)  = fabricUp s  := rfl
@[simp] theorem domOn_onPw (f : Passwords → Passwords) (s : State) (d0 : PDom) : domOn (onPw f s) d0 = domOn s d0 := rfl
@[simp] theorem live_onPw (f : Passwords → Passwords) (s : State) (d0 : PDom) : live (onPw f s) d0 = live s d0 := rfl
@[simp] theorem pageUp_onPw (f : Passwords → Passwords) (s : State) (t0 : PageType) (o0 : Nat) : pageUp (onPw f s) t0 o0 = pageUp s t0 o0 := rfl
@[simp] theorem formerPair_onPw (f : Passwords → Passwords) (s : State) (m0 : Master) : formerPair (onPw f s) m0 = formerPair s m0 := rfl
@[simp] theorem stagedPair_onPw (f : Passwords → Passwords) (s : State) (m0 : Master) : stagedPair (onPw f s) m0 = stagedPair s m0 := rfl
@[simp] theorem rd_onPorts (f : CmdPorts → CmdPorts) (s : State) (k0 : Nat) : rd (onPorts f s) k0 = rd s k0 := rfl
@[simp] theorem inForce_onPorts (f : CmdPorts → CmdPorts) (s : State) (k0 : Nat) : inForce (onPorts f s) k0 = inForce s k0 := rfl
@[simp] theorem memRd_onPorts (f : CmdPorts → CmdPorts) (s : State) (k0 : Nat) : memRd (onPorts f s) k0 = memRd s k0 := rfl
@[simp] theorem fabricUp_onPorts (f : CmdPorts → CmdPorts) (s : State)  : fabricUp (onPorts f s)  = fabricUp s  := rfl
@[simp] theorem domOn_onPorts (f : CmdPorts → CmdPorts) (s : State) (d0 : PDom) : domOn (onPorts f s) d0 = domOn s d0 := rfl
@[simp] theorem live_onPorts (f : CmdPorts → CmdPorts) (s : State) (d0 : PDom) : live (onPorts f s) d0 = live s d0 := rfl
@[simp] theorem pageUp_onPorts (f : CmdPorts → CmdPorts) (s : State) (t0 : PageType) (o0 : Nat) : pageUp (onPorts f s) t0 o0 = pageUp s t0 o0 := rfl
@[simp] theorem formerPair_onPorts (f : CmdPorts → CmdPorts) (s : State) (m0 : Master) : formerPair (onPorts f s) m0 = formerPair s m0 := rfl
@[simp] theorem stagedPair_onPorts (f : CmdPorts → CmdPorts) (s : State) (m0 : Master) : stagedPair (onPorts f s) m0 = stagedPair s m0 := rfl
@[simp] theorem rd_onDbg (f : Dbg → Dbg) (s : State) (k0 : Nat) : rd (onDbg f s) k0 = rd s k0 := rfl
@[simp] theorem inForce_onDbg (f : Dbg → Dbg) (s : State) (k0 : Nat) : inForce (onDbg f s) k0 = inForce s k0 := rfl
@[simp] theorem memRd_onDbg (f : Dbg → Dbg) (s : State) (k0 : Nat) : memRd (onDbg f s) k0 = memRd s k0 := rfl
@[simp] theorem fabricUp_onDbg (f : Dbg → Dbg) (s : State)  : fabricUp (onDbg f s)  = fabricUp s  := rfl
@[simp] theorem domOn_onDbg (f : Dbg → Dbg) (s : State) (d0 : PDom) : domOn (onDbg f s) d0 = domOn s d0 := rfl
@[simp] theorem live_onDbg (f : Dbg → Dbg) (s : State) (d0 : PDom) : live (onDbg f s) d0 = live s d0 := rfl
@[simp] theorem pageUp_onDbg (f : Dbg → Dbg) (s : State) (t0 : PageType) (o0 : Nat) : pageUp (onDbg f s) t0 o0 = pageUp s t0 o0 := rfl
@[simp] theorem formerPair_onDbg (f : Dbg → Dbg) (s : State) (m0 : Master) : formerPair (onDbg f s) m0 = formerPair s m0 := rfl
@[simp] theorem stagedPair_onDbg (f : Dbg → Dbg) (s : State) (m0 : Master) : stagedPair (onDbg f s) m0 = stagedPair s m0 := rfl
@[simp] theorem rd_draw (s : State) (k0 : Nat) : rd (draw s).2 k0 = rd s k0 := rfl
@[simp] theorem inForce_draw (s : State) (k0 : Nat) : inForce (draw s).2 k0 = inForce s k0 := rfl
@[simp] theorem memRd_draw (s : State) (k0 : Nat) : memRd (draw s).2 k0 = memRd s k0 := rfl
@[simp] theorem fabricUp_draw (s : State)  : fabricUp (draw s).2  = fabricUp s  := rfl
@[simp] theorem domOn_draw (s : State) (d0 : PDom) : domOn (draw s).2 d0 = domOn s d0 := rfl
@[simp] theorem live_draw (s : State) (d0 : PDom) : live (draw s).2 d0 = live s d0 := rfl
@[simp] theorem pageUp_draw (s : State) (t0 : PageType) (o0 : Nat) : pageUp (draw s).2 t0 o0 = pageUp s t0 o0 := rfl
@[simp] theorem formerPair_draw (s : State) (m0 : Master) : formerPair (draw s).2 m0 = formerPair s m0 := rfl
@[simp] theorem stagedPair_draw (s : State) (m0 : Master) : stagedPair (draw s).2 m0 = stagedPair s m0 := rfl

/-! Fields that the shared operations leave alone -/

@[simp] theorem wrf_now (k lo n v : Nat) (s : State) : (wrf k lo n v s).now = s.now := rfl
@[simp] theorem wrf_frees (k lo n v : Nat) (s : State) : (wrf k lo n v s).frees = s.frees := rfl
@[simp] theorem wrf_pending (k lo n v : Nat) (s : State) : (wrf k lo n v s).pending = s.pending := rfl
@[simp] theorem wrf_act (k lo n v : Nat) (s : State) : (wrf k lo n v s).act = s.act := rfl
@[simp] theorem wrf_bus (k lo n v : Nat) (s : State) : (wrf k lo n v s).bus = s.bus := rfl
@[simp] theorem wrf_mem (k lo n v : Nat) (s : State) : (wrf k lo n v s).mem = s.mem := rfl
@[simp] theorem wrf_pwr (k lo n v : Nat) (s : State) : (wrf k lo n v s).pwr = s.pwr := rfl
@[simp] theorem wrf_clk (k lo n v : Nat) (s : State) : (wrf k lo n v s).clk = s.clk := rfl
@[simp] theorem wrf_therm (k lo n v : Nat) (s : State) : (wrf k lo n v s).therm = s.therm := rfl
@[simp] theorem wrf_valley (k lo n v : Nat) (s : State) : (wrf k lo n v s).valley = s.valley := rfl
@[simp] theorem wrf_plumb (k lo n v : Nat) (s : State) : (wrf k lo n v s).plumb = s.plumb := rfl
@[simp] theorem wrf_sins (k lo n v : Nat) (s : State) : (wrf k lo n v s).sins = s.sins := rfl
@[simp] theorem wrf_scans (k lo n v : Nat) (s : State) : (wrf k lo n v s).scans = s.scans := rfl
@[simp] theorem wrf_scanConvs (k lo n v : Nat) (s : State) : (wrf k lo n v s).scanConvs = s.scanConvs := rfl
@[simp] theorem wrf_souts (k lo n v : Nat) (s : State) : (wrf k lo n v s).souts = s.souts := rfl
@[simp] theorem wrf_conns (k lo n v : Nat) (s : State) : (wrf k lo n v s).conns = s.conns := rfl
@[simp] theorem wrf_pw (k lo n v : Nat) (s : State) : (wrf k lo n v s).pw = s.pw := rfl
@[simp] theorem wrf_fb (k lo n v : Nat) (s : State) : (wrf k lo n v s).fb = s.fb := rfl
@[simp] theorem wrf_evr (k lo n v : Nat) (s : State) : (wrf k lo n v s).evr = s.evr := rfl
@[simp] theorem wrf_log (k lo n v : Nat) (s : State) : (wrf k lo n v s).log = s.log := rfl
@[simp] theorem wrf_doms (k lo n v : Nat) (s : State) : (wrf k lo n v s).doms = s.doms := rfl
@[simp] theorem wrf_grps (k lo n v : Nat) (s : State) : (wrf k lo n v s).grps = s.grps := rfl
@[simp] theorem wrf_legs (k lo n v : Nat) (s : State) : (wrf k lo n v s).legs = s.legs := rfl
@[simp] theorem wrf_holds (k lo n v : Nat) (s : State) : (wrf k lo n v s).holds = s.holds := rfl
@[simp] theorem wrf_trips (k lo n v : Nat) (s : State) : (wrf k lo n v s).trips = s.trips := rfl
@[simp] theorem wrf_sets (k lo n v : Nat) (s : State) : (wrf k lo n v s).sets = s.sets := rfl
@[simp] theorem wrf_mons (k lo n v : Nat) (s : State) : (wrf k lo n v s).mons = s.mons := rfl
@[simp] theorem wrf_phases (k lo n v : Nat) (s : State) : (wrf k lo n v s).phases = s.phases := rfl
@[simp] theorem wrf_drvs (k lo n v : Nat) (s : State) : (wrf k lo n v s).drvs = s.drvs := rfl
@[simp] theorem wrf_datum (k lo n v : Nat) (s : State) : (wrf k lo n v s).datum = s.datum := rfl
@[simp] theorem wrf_pair (k lo n v : Nat) (s : State) : (wrf k lo n v s).pair = s.pair := rfl
@[simp] theorem wrf_adcs (k lo n v : Nat) (s : State) : (wrf k lo n v s).adcs = s.adcs := rfl
@[simp] theorem wrf_lanes (k lo n v : Nat) (s : State) : (wrf k lo n v s).lanes = s.lanes := rfl
@[simp] theorem wrf_eng (k lo n v : Nat) (s : State) : (wrf k lo n v s).eng = s.eng := rfl
@[simp] theorem wrf_gens (k lo n v : Nat) (s : State) : (wrf k lo n v s).gens = s.gens := rfl
@[simp] theorem wrf_capMem (k lo n v : Nat) (s : State) : (wrf k lo n v s).capMem = s.capMem := rfl
@[simp] theorem wrf_rings (k lo n v : Nat) (s : State) : (wrf k lo n v s).rings = s.rings := rfl
@[simp] theorem wrf_grids (k lo n v : Nat) (s : State) : (wrf k lo n v s).grids = s.grids := rfl
@[simp] theorem wrf_isl (k lo n v : Nat) (s : State) : (wrf k lo n v s).isl = s.isl := rfl
@[simp] theorem wrf_trackers (k lo n v : Nat) (s : State) : (wrf k lo n v s).trackers = s.trackers := rfl
@[simp] theorem wrf_sweep (k lo n v : Nat) (s : State) : (wrf k lo n v s).sweep = s.sweep := rfl
@[simp] theorem wrf_rails (k lo n v : Nat) (s : State) : (wrf k lo n v s).rails = s.rails := rfl
@[simp] theorem wrf_cmdPorts (k lo n v : Nat) (s : State) : (wrf k lo n v s).cmdPorts = s.cmdPorts := rfl
@[simp] theorem wrf_monument (k lo n v : Nat) (s : State) : (wrf k lo n v s).monument = s.monument := rfl
@[simp] theorem wrf_meters (k lo n v : Nat) (s : State) : (wrf k lo n v s).meters = s.meters := rfl
@[simp] theorem wrf_cluster (k lo n v : Nat) (s : State) : (wrf k lo n v s).cluster = s.cluster := rfl
@[simp] theorem wrf_nvm (k lo n v : Nat) (s : State) : (wrf k lo n v s).nvm = s.nvm := rfl
@[simp] theorem wrf_dbg (k lo n v : Nat) (s : State) : (wrf k lo n v s).dbg = s.dbg := rfl
@[simp] theorem wrf_upd (k lo n v : Nat) (s : State) : (wrf k lo n v s).upd = s.upd := rfl
@[simp] theorem wrf_gio (k lo n v : Nat) (s : State) : (wrf k lo n v s).gio = s.gio := rfl

@[simp] theorem wrb_now (k b : Nat) (v : Bool) (s : State) : (wrb k b v s).now = s.now := rfl
@[simp] theorem wrb_frees (k b : Nat) (v : Bool) (s : State) : (wrb k b v s).frees = s.frees := rfl
@[simp] theorem wrb_pending (k b : Nat) (v : Bool) (s : State) : (wrb k b v s).pending = s.pending := rfl
@[simp] theorem wrb_act (k b : Nat) (v : Bool) (s : State) : (wrb k b v s).act = s.act := rfl
@[simp] theorem wrb_bus (k b : Nat) (v : Bool) (s : State) : (wrb k b v s).bus = s.bus := rfl
@[simp] theorem wrb_mem (k b : Nat) (v : Bool) (s : State) : (wrb k b v s).mem = s.mem := rfl
@[simp] theorem wrb_pwr (k b : Nat) (v : Bool) (s : State) : (wrb k b v s).pwr = s.pwr := rfl
@[simp] theorem wrb_clk (k b : Nat) (v : Bool) (s : State) : (wrb k b v s).clk = s.clk := rfl
@[simp] theorem wrb_therm (k b : Nat) (v : Bool) (s : State) : (wrb k b v s).therm = s.therm := rfl
@[simp] theorem wrb_valley (k b : Nat) (v : Bool) (s : State) : (wrb k b v s).valley = s.valley := rfl
@[simp] theorem wrb_plumb (k b : Nat) (v : Bool) (s : State) : (wrb k b v s).plumb = s.plumb := rfl
@[simp] theorem wrb_sins (k b : Nat) (v : Bool) (s : State) : (wrb k b v s).sins = s.sins := rfl
@[simp] theorem wrb_scans (k b : Nat) (v : Bool) (s : State) : (wrb k b v s).scans = s.scans := rfl
@[simp] theorem wrb_scanConvs (k b : Nat) (v : Bool) (s : State) : (wrb k b v s).scanConvs = s.scanConvs := rfl
@[simp] theorem wrb_souts (k b : Nat) (v : Bool) (s : State) : (wrb k b v s).souts = s.souts := rfl
@[simp] theorem wrb_conns (k b : Nat) (v : Bool) (s : State) : (wrb k b v s).conns = s.conns := rfl
@[simp] theorem wrb_pw (k b : Nat) (v : Bool) (s : State) : (wrb k b v s).pw = s.pw := rfl
@[simp] theorem wrb_fb (k b : Nat) (v : Bool) (s : State) : (wrb k b v s).fb = s.fb := rfl
@[simp] theorem wrb_evr (k b : Nat) (v : Bool) (s : State) : (wrb k b v s).evr = s.evr := rfl
@[simp] theorem wrb_log (k b : Nat) (v : Bool) (s : State) : (wrb k b v s).log = s.log := rfl
@[simp] theorem wrb_doms (k b : Nat) (v : Bool) (s : State) : (wrb k b v s).doms = s.doms := rfl
@[simp] theorem wrb_grps (k b : Nat) (v : Bool) (s : State) : (wrb k b v s).grps = s.grps := rfl
@[simp] theorem wrb_legs (k b : Nat) (v : Bool) (s : State) : (wrb k b v s).legs = s.legs := rfl
@[simp] theorem wrb_holds (k b : Nat) (v : Bool) (s : State) : (wrb k b v s).holds = s.holds := rfl
@[simp] theorem wrb_trips (k b : Nat) (v : Bool) (s : State) : (wrb k b v s).trips = s.trips := rfl
@[simp] theorem wrb_sets (k b : Nat) (v : Bool) (s : State) : (wrb k b v s).sets = s.sets := rfl
@[simp] theorem wrb_mons (k b : Nat) (v : Bool) (s : State) : (wrb k b v s).mons = s.mons := rfl
@[simp] theorem wrb_phases (k b : Nat) (v : Bool) (s : State) : (wrb k b v s).phases = s.phases := rfl
@[simp] theorem wrb_drvs (k b : Nat) (v : Bool) (s : State) : (wrb k b v s).drvs = s.drvs := rfl
@[simp] theorem wrb_datum (k b : Nat) (v : Bool) (s : State) : (wrb k b v s).datum = s.datum := rfl
@[simp] theorem wrb_pair (k b : Nat) (v : Bool) (s : State) : (wrb k b v s).pair = s.pair := rfl
@[simp] theorem wrb_adcs (k b : Nat) (v : Bool) (s : State) : (wrb k b v s).adcs = s.adcs := rfl
@[simp] theorem wrb_lanes (k b : Nat) (v : Bool) (s : State) : (wrb k b v s).lanes = s.lanes := rfl
@[simp] theorem wrb_eng (k b : Nat) (v : Bool) (s : State) : (wrb k b v s).eng = s.eng := rfl
@[simp] theorem wrb_gens (k b : Nat) (v : Bool) (s : State) : (wrb k b v s).gens = s.gens := rfl
@[simp] theorem wrb_capMem (k b : Nat) (v : Bool) (s : State) : (wrb k b v s).capMem = s.capMem := rfl
@[simp] theorem wrb_rings (k b : Nat) (v : Bool) (s : State) : (wrb k b v s).rings = s.rings := rfl
@[simp] theorem wrb_grids (k b : Nat) (v : Bool) (s : State) : (wrb k b v s).grids = s.grids := rfl
@[simp] theorem wrb_isl (k b : Nat) (v : Bool) (s : State) : (wrb k b v s).isl = s.isl := rfl
@[simp] theorem wrb_trackers (k b : Nat) (v : Bool) (s : State) : (wrb k b v s).trackers = s.trackers := rfl
@[simp] theorem wrb_sweep (k b : Nat) (v : Bool) (s : State) : (wrb k b v s).sweep = s.sweep := rfl
@[simp] theorem wrb_rails (k b : Nat) (v : Bool) (s : State) : (wrb k b v s).rails = s.rails := rfl
@[simp] theorem wrb_cmdPorts (k b : Nat) (v : Bool) (s : State) : (wrb k b v s).cmdPorts = s.cmdPorts := rfl
@[simp] theorem wrb_monument (k b : Nat) (v : Bool) (s : State) : (wrb k b v s).monument = s.monument := rfl
@[simp] theorem wrb_meters (k b : Nat) (v : Bool) (s : State) : (wrb k b v s).meters = s.meters := rfl
@[simp] theorem wrb_cluster (k b : Nat) (v : Bool) (s : State) : (wrb k b v s).cluster = s.cluster := rfl
@[simp] theorem wrb_nvm (k b : Nat) (v : Bool) (s : State) : (wrb k b v s).nvm = s.nvm := rfl
@[simp] theorem wrb_dbg (k b : Nat) (v : Bool) (s : State) : (wrb k b v s).dbg = s.dbg := rfl
@[simp] theorem wrb_upd (k b : Nat) (v : Bool) (s : State) : (wrb k b v s).upd = s.upd := rfl
@[simp] theorem wrb_gio (k b : Nat) (v : Bool) (s : State) : (wrb k b v s).gio = s.gio := rfl

@[simp] theorem incHeld_now (k lo n : Nat) (s : State) : (incHeld k lo n s).now = s.now := rfl
@[simp] theorem incHeld_frees (k lo n : Nat) (s : State) : (incHeld k lo n s).frees = s.frees := rfl
@[simp] theorem incHeld_pending (k lo n : Nat) (s : State) : (incHeld k lo n s).pending = s.pending := rfl
@[simp] theorem incHeld_act (k lo n : Nat) (s : State) : (incHeld k lo n s).act = s.act := rfl
@[simp] theorem incHeld_bus (k lo n : Nat) (s : State) : (incHeld k lo n s).bus = s.bus := rfl
@[simp] theorem incHeld_mem (k lo n : Nat) (s : State) : (incHeld k lo n s).mem = s.mem := rfl
@[simp] theorem incHeld_pwr (k lo n : Nat) (s : State) : (incHeld k lo n s).pwr = s.pwr := rfl
@[simp] theorem incHeld_clk (k lo n : Nat) (s : State) : (incHeld k lo n s).clk = s.clk := rfl
@[simp] theorem incHeld_therm (k lo n : Nat) (s : State) : (incHeld k lo n s).therm = s.therm := rfl
@[simp] theorem incHeld_valley (k lo n : Nat) (s : State) : (incHeld k lo n s).valley = s.valley := rfl
@[simp] theorem incHeld_plumb (k lo n : Nat) (s : State) : (incHeld k lo n s).plumb = s.plumb := rfl
@[simp] theorem incHeld_sins (k lo n : Nat) (s : State) : (incHeld k lo n s).sins = s.sins := rfl
@[simp] theorem incHeld_scans (k lo n : Nat) (s : State) : (incHeld k lo n s).scans = s.scans := rfl
@[simp] theorem incHeld_scanConvs (k lo n : Nat) (s : State) : (incHeld k lo n s).scanConvs = s.scanConvs := rfl
@[simp] theorem incHeld_souts (k lo n : Nat) (s : State) : (incHeld k lo n s).souts = s.souts := rfl
@[simp] theorem incHeld_conns (k lo n : Nat) (s : State) : (incHeld k lo n s).conns = s.conns := rfl
@[simp] theorem incHeld_pw (k lo n : Nat) (s : State) : (incHeld k lo n s).pw = s.pw := rfl
@[simp] theorem incHeld_fb (k lo n : Nat) (s : State) : (incHeld k lo n s).fb = s.fb := rfl
@[simp] theorem incHeld_evr (k lo n : Nat) (s : State) : (incHeld k lo n s).evr = s.evr := rfl
@[simp] theorem incHeld_log (k lo n : Nat) (s : State) : (incHeld k lo n s).log = s.log := rfl
@[simp] theorem incHeld_doms (k lo n : Nat) (s : State) : (incHeld k lo n s).doms = s.doms := rfl
@[simp] theorem incHeld_grps (k lo n : Nat) (s : State) : (incHeld k lo n s).grps = s.grps := rfl
@[simp] theorem incHeld_legs (k lo n : Nat) (s : State) : (incHeld k lo n s).legs = s.legs := rfl
@[simp] theorem incHeld_holds (k lo n : Nat) (s : State) : (incHeld k lo n s).holds = s.holds := rfl
@[simp] theorem incHeld_trips (k lo n : Nat) (s : State) : (incHeld k lo n s).trips = s.trips := rfl
@[simp] theorem incHeld_sets (k lo n : Nat) (s : State) : (incHeld k lo n s).sets = s.sets := rfl
@[simp] theorem incHeld_mons (k lo n : Nat) (s : State) : (incHeld k lo n s).mons = s.mons := rfl
@[simp] theorem incHeld_phases (k lo n : Nat) (s : State) : (incHeld k lo n s).phases = s.phases := rfl
@[simp] theorem incHeld_drvs (k lo n : Nat) (s : State) : (incHeld k lo n s).drvs = s.drvs := rfl
@[simp] theorem incHeld_datum (k lo n : Nat) (s : State) : (incHeld k lo n s).datum = s.datum := rfl
@[simp] theorem incHeld_pair (k lo n : Nat) (s : State) : (incHeld k lo n s).pair = s.pair := rfl
@[simp] theorem incHeld_adcs (k lo n : Nat) (s : State) : (incHeld k lo n s).adcs = s.adcs := rfl
@[simp] theorem incHeld_lanes (k lo n : Nat) (s : State) : (incHeld k lo n s).lanes = s.lanes := rfl
@[simp] theorem incHeld_eng (k lo n : Nat) (s : State) : (incHeld k lo n s).eng = s.eng := rfl
@[simp] theorem incHeld_gens (k lo n : Nat) (s : State) : (incHeld k lo n s).gens = s.gens := rfl
@[simp] theorem incHeld_capMem (k lo n : Nat) (s : State) : (incHeld k lo n s).capMem = s.capMem := rfl
@[simp] theorem incHeld_rings (k lo n : Nat) (s : State) : (incHeld k lo n s).rings = s.rings := rfl
@[simp] theorem incHeld_grids (k lo n : Nat) (s : State) : (incHeld k lo n s).grids = s.grids := rfl
@[simp] theorem incHeld_isl (k lo n : Nat) (s : State) : (incHeld k lo n s).isl = s.isl := rfl
@[simp] theorem incHeld_trackers (k lo n : Nat) (s : State) : (incHeld k lo n s).trackers = s.trackers := rfl
@[simp] theorem incHeld_sweep (k lo n : Nat) (s : State) : (incHeld k lo n s).sweep = s.sweep := rfl
@[simp] theorem incHeld_rails (k lo n : Nat) (s : State) : (incHeld k lo n s).rails = s.rails := rfl
@[simp] theorem incHeld_cmdPorts (k lo n : Nat) (s : State) : (incHeld k lo n s).cmdPorts = s.cmdPorts := rfl
@[simp] theorem incHeld_monument (k lo n : Nat) (s : State) : (incHeld k lo n s).monument = s.monument := rfl
@[simp] theorem incHeld_meters (k lo n : Nat) (s : State) : (incHeld k lo n s).meters = s.meters := rfl
@[simp] theorem incHeld_cluster (k lo n : Nat) (s : State) : (incHeld k lo n s).cluster = s.cluster := rfl
@[simp] theorem incHeld_nvm (k lo n : Nat) (s : State) : (incHeld k lo n s).nvm = s.nvm := rfl
@[simp] theorem incHeld_dbg (k lo n : Nat) (s : State) : (incHeld k lo n s).dbg = s.dbg := rfl
@[simp] theorem incHeld_upd (k lo n : Nat) (s : State) : (incHeld k lo n s).upd = s.upd := rfl
@[simp] theorem incHeld_gio (k lo n : Nat) (s : State) : (incHeld k lo n s).gio = s.gio := rfl

@[simp] theorem incMod_now (k lo n : Nat) (s : State) : (incMod k lo n s).now = s.now := rfl
@[simp] theorem incMod_frees (k lo n : Nat) (s : State) : (incMod k lo n s).frees = s.frees := rfl
@[simp] theorem incMod_pending (k lo n : Nat) (s : State) : (incMod k lo n s).pending = s.pending := rfl
@[simp] theorem incMod_act (k lo n : Nat) (s : State) : (incMod k lo n s).act = s.act := rfl
@[simp] theorem incMod_bus (k lo n : Nat) (s : State) : (incMod k lo n s).bus = s.bus := rfl
@[simp] theorem incMod_mem (k lo n : Nat) (s : State) : (incMod k lo n s).mem = s.mem := rfl
@[simp] theorem incMod_pwr (k lo n : Nat) (s : State) : (incMod k lo n s).pwr = s.pwr := rfl
@[simp] theorem incMod_clk (k lo n : Nat) (s : State) : (incMod k lo n s).clk = s.clk := rfl
@[simp] theorem incMod_therm (k lo n : Nat) (s : State) : (incMod k lo n s).therm = s.therm := rfl
@[simp] theorem incMod_valley (k lo n : Nat) (s : State) : (incMod k lo n s).valley = s.valley := rfl
@[simp] theorem incMod_plumb (k lo n : Nat) (s : State) : (incMod k lo n s).plumb = s.plumb := rfl
@[simp] theorem incMod_sins (k lo n : Nat) (s : State) : (incMod k lo n s).sins = s.sins := rfl
@[simp] theorem incMod_scans (k lo n : Nat) (s : State) : (incMod k lo n s).scans = s.scans := rfl
@[simp] theorem incMod_scanConvs (k lo n : Nat) (s : State) : (incMod k lo n s).scanConvs = s.scanConvs := rfl
@[simp] theorem incMod_souts (k lo n : Nat) (s : State) : (incMod k lo n s).souts = s.souts := rfl
@[simp] theorem incMod_conns (k lo n : Nat) (s : State) : (incMod k lo n s).conns = s.conns := rfl
@[simp] theorem incMod_pw (k lo n : Nat) (s : State) : (incMod k lo n s).pw = s.pw := rfl
@[simp] theorem incMod_fb (k lo n : Nat) (s : State) : (incMod k lo n s).fb = s.fb := rfl
@[simp] theorem incMod_evr (k lo n : Nat) (s : State) : (incMod k lo n s).evr = s.evr := rfl
@[simp] theorem incMod_log (k lo n : Nat) (s : State) : (incMod k lo n s).log = s.log := rfl
@[simp] theorem incMod_doms (k lo n : Nat) (s : State) : (incMod k lo n s).doms = s.doms := rfl
@[simp] theorem incMod_grps (k lo n : Nat) (s : State) : (incMod k lo n s).grps = s.grps := rfl
@[simp] theorem incMod_legs (k lo n : Nat) (s : State) : (incMod k lo n s).legs = s.legs := rfl
@[simp] theorem incMod_holds (k lo n : Nat) (s : State) : (incMod k lo n s).holds = s.holds := rfl
@[simp] theorem incMod_trips (k lo n : Nat) (s : State) : (incMod k lo n s).trips = s.trips := rfl
@[simp] theorem incMod_sets (k lo n : Nat) (s : State) : (incMod k lo n s).sets = s.sets := rfl
@[simp] theorem incMod_mons (k lo n : Nat) (s : State) : (incMod k lo n s).mons = s.mons := rfl
@[simp] theorem incMod_phases (k lo n : Nat) (s : State) : (incMod k lo n s).phases = s.phases := rfl
@[simp] theorem incMod_drvs (k lo n : Nat) (s : State) : (incMod k lo n s).drvs = s.drvs := rfl
@[simp] theorem incMod_datum (k lo n : Nat) (s : State) : (incMod k lo n s).datum = s.datum := rfl
@[simp] theorem incMod_pair (k lo n : Nat) (s : State) : (incMod k lo n s).pair = s.pair := rfl
@[simp] theorem incMod_adcs (k lo n : Nat) (s : State) : (incMod k lo n s).adcs = s.adcs := rfl
@[simp] theorem incMod_lanes (k lo n : Nat) (s : State) : (incMod k lo n s).lanes = s.lanes := rfl
@[simp] theorem incMod_eng (k lo n : Nat) (s : State) : (incMod k lo n s).eng = s.eng := rfl
@[simp] theorem incMod_gens (k lo n : Nat) (s : State) : (incMod k lo n s).gens = s.gens := rfl
@[simp] theorem incMod_capMem (k lo n : Nat) (s : State) : (incMod k lo n s).capMem = s.capMem := rfl
@[simp] theorem incMod_rings (k lo n : Nat) (s : State) : (incMod k lo n s).rings = s.rings := rfl
@[simp] theorem incMod_grids (k lo n : Nat) (s : State) : (incMod k lo n s).grids = s.grids := rfl
@[simp] theorem incMod_isl (k lo n : Nat) (s : State) : (incMod k lo n s).isl = s.isl := rfl
@[simp] theorem incMod_trackers (k lo n : Nat) (s : State) : (incMod k lo n s).trackers = s.trackers := rfl
@[simp] theorem incMod_sweep (k lo n : Nat) (s : State) : (incMod k lo n s).sweep = s.sweep := rfl
@[simp] theorem incMod_rails (k lo n : Nat) (s : State) : (incMod k lo n s).rails = s.rails := rfl
@[simp] theorem incMod_cmdPorts (k lo n : Nat) (s : State) : (incMod k lo n s).cmdPorts = s.cmdPorts := rfl
@[simp] theorem incMod_monument (k lo n : Nat) (s : State) : (incMod k lo n s).monument = s.monument := rfl
@[simp] theorem incMod_meters (k lo n : Nat) (s : State) : (incMod k lo n s).meters = s.meters := rfl
@[simp] theorem incMod_cluster (k lo n : Nat) (s : State) : (incMod k lo n s).cluster = s.cluster := rfl
@[simp] theorem incMod_nvm (k lo n : Nat) (s : State) : (incMod k lo n s).nvm = s.nvm := rfl
@[simp] theorem incMod_dbg (k lo n : Nat) (s : State) : (incMod k lo n s).dbg = s.dbg := rfl
@[simp] theorem incMod_upd (k lo n : Nat) (s : State) : (incMod k lo n s).upd = s.upd := rfl
@[simp] theorem incMod_gio (k lo n : Nat) (s : State) : (incMod k lo n s).gio = s.gio := rfl

@[simp] theorem plainWrite_now (k : Nat) (v : Word) (s : State) : (plainWrite k v s).now = s.now := rfl
@[simp] theorem plainWrite_frees (k : Nat) (v : Word) (s : State) : (plainWrite k v s).frees = s.frees := rfl
@[simp] theorem plainWrite_pending (k : Nat) (v : Word) (s : State) : (plainWrite k v s).pending = s.pending := rfl
@[simp] theorem plainWrite_act (k : Nat) (v : Word) (s : State) : (plainWrite k v s).act = s.act := rfl
@[simp] theorem plainWrite_bus (k : Nat) (v : Word) (s : State) : (plainWrite k v s).bus = s.bus := rfl
@[simp] theorem plainWrite_mem (k : Nat) (v : Word) (s : State) : (plainWrite k v s).mem = s.mem := rfl
@[simp] theorem plainWrite_pwr (k : Nat) (v : Word) (s : State) : (plainWrite k v s).pwr = s.pwr := rfl
@[simp] theorem plainWrite_clk (k : Nat) (v : Word) (s : State) : (plainWrite k v s).clk = s.clk := rfl
@[simp] theorem plainWrite_therm (k : Nat) (v : Word) (s : State) : (plainWrite k v s).therm = s.therm := rfl
@[simp] theorem plainWrite_valley (k : Nat) (v : Word) (s : State) : (plainWrite k v s).valley = s.valley := rfl
@[simp] theorem plainWrite_plumb (k : Nat) (v : Word) (s : State) : (plainWrite k v s).plumb = s.plumb := rfl
@[simp] theorem plainWrite_sins (k : Nat) (v : Word) (s : State) : (plainWrite k v s).sins = s.sins := rfl
@[simp] theorem plainWrite_scans (k : Nat) (v : Word) (s : State) : (plainWrite k v s).scans = s.scans := rfl
@[simp] theorem plainWrite_scanConvs (k : Nat) (v : Word) (s : State) : (plainWrite k v s).scanConvs = s.scanConvs := rfl
@[simp] theorem plainWrite_souts (k : Nat) (v : Word) (s : State) : (plainWrite k v s).souts = s.souts := rfl
@[simp] theorem plainWrite_conns (k : Nat) (v : Word) (s : State) : (plainWrite k v s).conns = s.conns := rfl
@[simp] theorem plainWrite_pw (k : Nat) (v : Word) (s : State) : (plainWrite k v s).pw = s.pw := rfl
@[simp] theorem plainWrite_fb (k : Nat) (v : Word) (s : State) : (plainWrite k v s).fb = s.fb := rfl
@[simp] theorem plainWrite_evr (k : Nat) (v : Word) (s : State) : (plainWrite k v s).evr = s.evr := rfl
@[simp] theorem plainWrite_log (k : Nat) (v : Word) (s : State) : (plainWrite k v s).log = s.log := rfl
@[simp] theorem plainWrite_doms (k : Nat) (v : Word) (s : State) : (plainWrite k v s).doms = s.doms := rfl
@[simp] theorem plainWrite_grps (k : Nat) (v : Word) (s : State) : (plainWrite k v s).grps = s.grps := rfl
@[simp] theorem plainWrite_legs (k : Nat) (v : Word) (s : State) : (plainWrite k v s).legs = s.legs := rfl
@[simp] theorem plainWrite_holds (k : Nat) (v : Word) (s : State) : (plainWrite k v s).holds = s.holds := rfl
@[simp] theorem plainWrite_trips (k : Nat) (v : Word) (s : State) : (plainWrite k v s).trips = s.trips := rfl
@[simp] theorem plainWrite_sets (k : Nat) (v : Word) (s : State) : (plainWrite k v s).sets = s.sets := rfl
@[simp] theorem plainWrite_mons (k : Nat) (v : Word) (s : State) : (plainWrite k v s).mons = s.mons := rfl
@[simp] theorem plainWrite_phases (k : Nat) (v : Word) (s : State) : (plainWrite k v s).phases = s.phases := rfl
@[simp] theorem plainWrite_drvs (k : Nat) (v : Word) (s : State) : (plainWrite k v s).drvs = s.drvs := rfl
@[simp] theorem plainWrite_datum (k : Nat) (v : Word) (s : State) : (plainWrite k v s).datum = s.datum := rfl
@[simp] theorem plainWrite_pair (k : Nat) (v : Word) (s : State) : (plainWrite k v s).pair = s.pair := rfl
@[simp] theorem plainWrite_adcs (k : Nat) (v : Word) (s : State) : (plainWrite k v s).adcs = s.adcs := rfl
@[simp] theorem plainWrite_lanes (k : Nat) (v : Word) (s : State) : (plainWrite k v s).lanes = s.lanes := rfl
@[simp] theorem plainWrite_eng (k : Nat) (v : Word) (s : State) : (plainWrite k v s).eng = s.eng := rfl
@[simp] theorem plainWrite_gens (k : Nat) (v : Word) (s : State) : (plainWrite k v s).gens = s.gens := rfl
@[simp] theorem plainWrite_capMem (k : Nat) (v : Word) (s : State) : (plainWrite k v s).capMem = s.capMem := rfl
@[simp] theorem plainWrite_rings (k : Nat) (v : Word) (s : State) : (plainWrite k v s).rings = s.rings := rfl
@[simp] theorem plainWrite_grids (k : Nat) (v : Word) (s : State) : (plainWrite k v s).grids = s.grids := rfl
@[simp] theorem plainWrite_isl (k : Nat) (v : Word) (s : State) : (plainWrite k v s).isl = s.isl := rfl
@[simp] theorem plainWrite_trackers (k : Nat) (v : Word) (s : State) : (plainWrite k v s).trackers = s.trackers := rfl
@[simp] theorem plainWrite_sweep (k : Nat) (v : Word) (s : State) : (plainWrite k v s).sweep = s.sweep := rfl
@[simp] theorem plainWrite_rails (k : Nat) (v : Word) (s : State) : (plainWrite k v s).rails = s.rails := rfl
@[simp] theorem plainWrite_cmdPorts (k : Nat) (v : Word) (s : State) : (plainWrite k v s).cmdPorts = s.cmdPorts := rfl
@[simp] theorem plainWrite_monument (k : Nat) (v : Word) (s : State) : (plainWrite k v s).monument = s.monument := rfl
@[simp] theorem plainWrite_meters (k : Nat) (v : Word) (s : State) : (plainWrite k v s).meters = s.meters := rfl
@[simp] theorem plainWrite_cluster (k : Nat) (v : Word) (s : State) : (plainWrite k v s).cluster = s.cluster := rfl
@[simp] theorem plainWrite_nvm (k : Nat) (v : Word) (s : State) : (plainWrite k v s).nvm = s.nvm := rfl
@[simp] theorem plainWrite_dbg (k : Nat) (v : Word) (s : State) : (plainWrite k v s).dbg = s.dbg := rfl
@[simp] theorem plainWrite_upd (k : Nat) (v : Word) (s : State) : (plainWrite k v s).upd = s.upd := rfl
@[simp] theorem plainWrite_gio (k : Nat) (v : Word) (s : State) : (plainWrite k v s).gio = s.gio := rfl

@[simp] theorem setFresh_now (k b : Nat) (s : State) : (setFresh k b s).now = s.now := rfl
@[simp] theorem setFresh_frees (k b : Nat) (s : State) : (setFresh k b s).frees = s.frees := rfl
@[simp] theorem setFresh_pending (k b : Nat) (s : State) : (setFresh k b s).pending = s.pending := rfl
@[simp] theorem setFresh_act (k b : Nat) (s : State) : (setFresh k b s).act = s.act := rfl
@[simp] theorem setFresh_bus (k b : Nat) (s : State) : (setFresh k b s).bus = s.bus := rfl
@[simp] theorem setFresh_mem (k b : Nat) (s : State) : (setFresh k b s).mem = s.mem := rfl
@[simp] theorem setFresh_pwr (k b : Nat) (s : State) : (setFresh k b s).pwr = s.pwr := rfl
@[simp] theorem setFresh_clk (k b : Nat) (s : State) : (setFresh k b s).clk = s.clk := rfl
@[simp] theorem setFresh_therm (k b : Nat) (s : State) : (setFresh k b s).therm = s.therm := rfl
@[simp] theorem setFresh_valley (k b : Nat) (s : State) : (setFresh k b s).valley = s.valley := rfl
@[simp] theorem setFresh_plumb (k b : Nat) (s : State) : (setFresh k b s).plumb = s.plumb := rfl
@[simp] theorem setFresh_sins (k b : Nat) (s : State) : (setFresh k b s).sins = s.sins := rfl
@[simp] theorem setFresh_scans (k b : Nat) (s : State) : (setFresh k b s).scans = s.scans := rfl
@[simp] theorem setFresh_scanConvs (k b : Nat) (s : State) : (setFresh k b s).scanConvs = s.scanConvs := rfl
@[simp] theorem setFresh_souts (k b : Nat) (s : State) : (setFresh k b s).souts = s.souts := rfl
@[simp] theorem setFresh_conns (k b : Nat) (s : State) : (setFresh k b s).conns = s.conns := rfl
@[simp] theorem setFresh_pw (k b : Nat) (s : State) : (setFresh k b s).pw = s.pw := rfl
@[simp] theorem setFresh_fb (k b : Nat) (s : State) : (setFresh k b s).fb = s.fb := rfl
@[simp] theorem setFresh_log (k b : Nat) (s : State) : (setFresh k b s).log = s.log := rfl
@[simp] theorem setFresh_doms (k b : Nat) (s : State) : (setFresh k b s).doms = s.doms := rfl
@[simp] theorem setFresh_grps (k b : Nat) (s : State) : (setFresh k b s).grps = s.grps := rfl
@[simp] theorem setFresh_legs (k b : Nat) (s : State) : (setFresh k b s).legs = s.legs := rfl
@[simp] theorem setFresh_holds (k b : Nat) (s : State) : (setFresh k b s).holds = s.holds := rfl
@[simp] theorem setFresh_trips (k b : Nat) (s : State) : (setFresh k b s).trips = s.trips := rfl
@[simp] theorem setFresh_sets (k b : Nat) (s : State) : (setFresh k b s).sets = s.sets := rfl
@[simp] theorem setFresh_mons (k b : Nat) (s : State) : (setFresh k b s).mons = s.mons := rfl
@[simp] theorem setFresh_phases (k b : Nat) (s : State) : (setFresh k b s).phases = s.phases := rfl
@[simp] theorem setFresh_drvs (k b : Nat) (s : State) : (setFresh k b s).drvs = s.drvs := rfl
@[simp] theorem setFresh_datum (k b : Nat) (s : State) : (setFresh k b s).datum = s.datum := rfl
@[simp] theorem setFresh_pair (k b : Nat) (s : State) : (setFresh k b s).pair = s.pair := rfl
@[simp] theorem setFresh_adcs (k b : Nat) (s : State) : (setFresh k b s).adcs = s.adcs := rfl
@[simp] theorem setFresh_lanes (k b : Nat) (s : State) : (setFresh k b s).lanes = s.lanes := rfl
@[simp] theorem setFresh_eng (k b : Nat) (s : State) : (setFresh k b s).eng = s.eng := rfl
@[simp] theorem setFresh_gens (k b : Nat) (s : State) : (setFresh k b s).gens = s.gens := rfl
@[simp] theorem setFresh_capMem (k b : Nat) (s : State) : (setFresh k b s).capMem = s.capMem := rfl
@[simp] theorem setFresh_rings (k b : Nat) (s : State) : (setFresh k b s).rings = s.rings := rfl
@[simp] theorem setFresh_grids (k b : Nat) (s : State) : (setFresh k b s).grids = s.grids := rfl
@[simp] theorem setFresh_isl (k b : Nat) (s : State) : (setFresh k b s).isl = s.isl := rfl
@[simp] theorem setFresh_trackers (k b : Nat) (s : State) : (setFresh k b s).trackers = s.trackers := rfl
@[simp] theorem setFresh_sweep (k b : Nat) (s : State) : (setFresh k b s).sweep = s.sweep := rfl
@[simp] theorem setFresh_rails (k b : Nat) (s : State) : (setFresh k b s).rails = s.rails := rfl
@[simp] theorem setFresh_cmdPorts (k b : Nat) (s : State) : (setFresh k b s).cmdPorts = s.cmdPorts := rfl
@[simp] theorem setFresh_monument (k b : Nat) (s : State) : (setFresh k b s).monument = s.monument := rfl
@[simp] theorem setFresh_meters (k b : Nat) (s : State) : (setFresh k b s).meters = s.meters := rfl
@[simp] theorem setFresh_cluster (k b : Nat) (s : State) : (setFresh k b s).cluster = s.cluster := rfl
@[simp] theorem setFresh_nvm (k b : Nat) (s : State) : (setFresh k b s).nvm = s.nvm := rfl
@[simp] theorem setFresh_dbg (k b : Nat) (s : State) : (setFresh k b s).dbg = s.dbg := rfl
@[simp] theorem setFresh_upd (k b : Nat) (s : State) : (setFresh k b s).upd = s.upd := rfl
@[simp] theorem setFresh_gio (k b : Nat) (s : State) : (setFresh k b s).gio = s.gio := rfl

/-- All that `occurCore` changes. -/
theorem occurCore_eq (e : Nat) (s : State) : ∃ r v, (occurCore e s).1 = { s with regs := r, evr := v } := by
  unfold occurCore; dsimp only; repeat' split
  all_goals exact ⟨_, _, rfl⟩
@[simp] theorem occurCore_now (e : Nat) (s : State) : (occurCore e s).1.now = s.now := by
  obtain ⟨_, _, h⟩ := occurCore_eq e s; rw [h]
@[simp] theorem occurCore_frees (e : Nat) (s : State) : (occurCore e s).1.frees = s.frees := by
  obtain ⟨_, _, h⟩ := occurCore_eq e s; rw [h]
@[simp] theorem occurCore_pending (e : Nat) (s : State) : (occurCore e s).1.pending = s.pending := by
  obtain ⟨_, _, h⟩ := occurCore_eq e s; rw [h]
@[simp] theorem occurCore_act (e : Nat) (s : State) : (occurCore e s).1.act = s.act := by
  obtain ⟨_, _, h⟩ := occurCore_eq e s; rw [h]
@[simp] theorem occurCore_bus (e : Nat) (s : State) : (occurCore e s).1.bus = s.bus := by
  obtain ⟨_, _, h⟩ := occurCore_eq e s; rw [h]
@[simp] theorem occurCore_mem (e : Nat) (s : State) : (occurCore e s).1.mem = s.mem := by
  obtain ⟨_, _, h⟩ := occurCore_eq e s; rw [h]
@[simp] theorem occurCore_pwr (e : Nat) (s : State) : (occurCore e s).1.pwr = s.pwr := by
  obtain ⟨_, _, h⟩ := occurCore_eq e s; rw [h]
@[simp] theorem occurCore_clk (e : Nat) (s : State) : (occurCore e s).1.clk = s.clk := by
  obtain ⟨_, _, h⟩ := occurCore_eq e s; rw [h]
@[simp] theorem occurCore_therm (e : Nat) (s : State) : (occurCore e s).1.therm = s.therm := by
  obtain ⟨_, _, h⟩ := occurCore_eq e s; rw [h]
@[simp] theorem occurCore_valley (e : Nat) (s : State) : (occurCore e s).1.valley = s.valley := by
  obtain ⟨_, _, h⟩ := occurCore_eq e s; rw [h]
@[simp] theorem occurCore_plumb (e : Nat) (s : State) : (occurCore e s).1.plumb = s.plumb := by
  obtain ⟨_, _, h⟩ := occurCore_eq e s; rw [h]
@[simp] theorem occurCore_sins (e : Nat) (s : State) : (occurCore e s).1.sins = s.sins := by
  obtain ⟨_, _, h⟩ := occurCore_eq e s; rw [h]
@[simp] theorem occurCore_scans (e : Nat) (s : State) : (occurCore e s).1.scans = s.scans := by
  obtain ⟨_, _, h⟩ := occurCore_eq e s; rw [h]
@[simp] theorem occurCore_scanConvs (e : Nat) (s : State) : (occurCore e s).1.scanConvs = s.scanConvs := by
  obtain ⟨_, _, h⟩ := occurCore_eq e s; rw [h]
@[simp] theorem occurCore_souts (e : Nat) (s : State) : (occurCore e s).1.souts = s.souts := by
  obtain ⟨_, _, h⟩ := occurCore_eq e s; rw [h]
@[simp] theorem occurCore_conns (e : Nat) (s : State) : (occurCore e s).1.conns = s.conns := by
  obtain ⟨_, _, h⟩ := occurCore_eq e s; rw [h]
@[simp] theorem occurCore_pw (e : Nat) (s : State) : (occurCore e s).1.pw = s.pw := by
  obtain ⟨_, _, h⟩ := occurCore_eq e s; rw [h]
@[simp] theorem occurCore_fb (e : Nat) (s : State) : (occurCore e s).1.fb = s.fb := by
  obtain ⟨_, _, h⟩ := occurCore_eq e s; rw [h]
@[simp] theorem occurCore_log (e : Nat) (s : State) : (occurCore e s).1.log = s.log := by
  obtain ⟨_, _, h⟩ := occurCore_eq e s; rw [h]
@[simp] theorem occurCore_doms (e : Nat) (s : State) : (occurCore e s).1.doms = s.doms := by
  obtain ⟨_, _, h⟩ := occurCore_eq e s; rw [h]
@[simp] theorem occurCore_grps (e : Nat) (s : State) : (occurCore e s).1.grps = s.grps := by
  obtain ⟨_, _, h⟩ := occurCore_eq e s; rw [h]
@[simp] theorem occurCore_legs (e : Nat) (s : State) : (occurCore e s).1.legs = s.legs := by
  obtain ⟨_, _, h⟩ := occurCore_eq e s; rw [h]
@[simp] theorem occurCore_holds (e : Nat) (s : State) : (occurCore e s).1.holds = s.holds := by
  obtain ⟨_, _, h⟩ := occurCore_eq e s; rw [h]
@[simp] theorem occurCore_trips (e : Nat) (s : State) : (occurCore e s).1.trips = s.trips := by
  obtain ⟨_, _, h⟩ := occurCore_eq e s; rw [h]
@[simp] theorem occurCore_sets (e : Nat) (s : State) : (occurCore e s).1.sets = s.sets := by
  obtain ⟨_, _, h⟩ := occurCore_eq e s; rw [h]
@[simp] theorem occurCore_mons (e : Nat) (s : State) : (occurCore e s).1.mons = s.mons := by
  obtain ⟨_, _, h⟩ := occurCore_eq e s; rw [h]
@[simp] theorem occurCore_phases (e : Nat) (s : State) : (occurCore e s).1.phases = s.phases := by
  obtain ⟨_, _, h⟩ := occurCore_eq e s; rw [h]
@[simp] theorem occurCore_drvs (e : Nat) (s : State) : (occurCore e s).1.drvs = s.drvs := by
  obtain ⟨_, _, h⟩ := occurCore_eq e s; rw [h]
@[simp] theorem occurCore_datum (e : Nat) (s : State) : (occurCore e s).1.datum = s.datum := by
  obtain ⟨_, _, h⟩ := occurCore_eq e s; rw [h]
@[simp] theorem occurCore_pair (e : Nat) (s : State) : (occurCore e s).1.pair = s.pair := by
  obtain ⟨_, _, h⟩ := occurCore_eq e s; rw [h]
@[simp] theorem occurCore_adcs (e : Nat) (s : State) : (occurCore e s).1.adcs = s.adcs := by
  obtain ⟨_, _, h⟩ := occurCore_eq e s; rw [h]
@[simp] theorem occurCore_lanes (e : Nat) (s : State) : (occurCore e s).1.lanes = s.lanes := by
  obtain ⟨_, _, h⟩ := occurCore_eq e s; rw [h]
@[simp] theorem occurCore_eng (e : Nat) (s : State) : (occurCore e s).1.eng = s.eng := by
  obtain ⟨_, _, h⟩ := occurCore_eq e s; rw [h]
@[simp] theorem occurCore_gens (e : Nat) (s : State) : (occurCore e s).1.gens = s.gens := by
  obtain ⟨_, _, h⟩ := occurCore_eq e s; rw [h]
@[simp] theorem occurCore_capMem (e : Nat) (s : State) : (occurCore e s).1.capMem = s.capMem := by
  obtain ⟨_, _, h⟩ := occurCore_eq e s; rw [h]
@[simp] theorem occurCore_rings (e : Nat) (s : State) : (occurCore e s).1.rings = s.rings := by
  obtain ⟨_, _, h⟩ := occurCore_eq e s; rw [h]
@[simp] theorem occurCore_grids (e : Nat) (s : State) : (occurCore e s).1.grids = s.grids := by
  obtain ⟨_, _, h⟩ := occurCore_eq e s; rw [h]
@[simp] theorem occurCore_isl (e : Nat) (s : State) : (occurCore e s).1.isl = s.isl := by
  obtain ⟨_, _, h⟩ := occurCore_eq e s; rw [h]
@[simp] theorem occurCore_trackers (e : Nat) (s : State) : (occurCore e s).1.trackers = s.trackers := by
  obtain ⟨_, _, h⟩ := occurCore_eq e s; rw [h]
@[simp] theorem occurCore_sweep (e : Nat) (s : State) : (occurCore e s).1.sweep = s.sweep := by
  obtain ⟨_, _, h⟩ := occurCore_eq e s; rw [h]
@[simp] theorem occurCore_rails (e : Nat) (s : State) : (occurCore e s).1.rails = s.rails := by
  obtain ⟨_, _, h⟩ := occurCore_eq e s; rw [h]
@[simp] theorem occurCore_cmdPorts (e : Nat) (s : State) : (occurCore e s).1.cmdPorts = s.cmdPorts := by
  obtain ⟨_, _, h⟩ := occurCore_eq e s; rw [h]
@[simp] theorem occurCore_monument (e : Nat) (s : State) : (occurCore e s).1.monument = s.monument := by
  obtain ⟨_, _, h⟩ := occurCore_eq e s; rw [h]
@[simp] theorem occurCore_meters (e : Nat) (s : State) : (occurCore e s).1.meters = s.meters := by
  obtain ⟨_, _, h⟩ := occurCore_eq e s; rw [h]
@[simp] theorem occurCore_cluster (e : Nat) (s : State) : (occurCore e s).1.cluster = s.cluster := by
  obtain ⟨_, _, h⟩ := occurCore_eq e s; rw [h]
@[simp] theorem occurCore_nvm (e : Nat) (s : State) : (occurCore e s).1.nvm = s.nvm := by
  obtain ⟨_, _, h⟩ := occurCore_eq e s; rw [h]
@[simp] theorem occurCore_dbg (e : Nat) (s : State) : (occurCore e s).1.dbg = s.dbg := by
  obtain ⟨_, _, h⟩ := occurCore_eq e s; rw [h]
@[simp] theorem occurCore_upd (e : Nat) (s : State) : (occurCore e s).1.upd = s.upd := by
  obtain ⟨_, _, h⟩ := occurCore_eq e s; rw [h]
@[simp] theorem occurCore_gio (e : Nat) (s : State) : (occurCore e s).1.gio = s.gio := by
  obtain ⟨_, _, h⟩ := occurCore_eq e s; rw [h]

/-- All that `occur` changes. -/
theorem occur_eq (e : Nat) (s : State) : ∃ r v, (occur e s) = { s with regs := r, evr := v } := by
  obtain ⟨_, _, h1⟩ := occurCore_eq e s
  unfold occur; dsimp only; repeat' split
  · exact ⟨_, _, h1⟩
  · obtain ⟨_, _, h2⟩ := occurCore_eq 503 (setFresh (rk .evr 0 0x010) 2 (occurCore e s).1)
    rw [h2, h1]; exact ⟨_, _, rfl⟩
  · rw [h1]; exact ⟨_, _, rfl⟩
@[simp] theorem occur_now (e : Nat) (s : State) : (occur e s).now = s.now := by
  obtain ⟨_, _, h⟩ := occur_eq e s; rw [h]
@[simp] theorem occur_frees (e : Nat) (s : State) : (occur e s).frees = s.frees := by
  obtain ⟨_, _, h⟩ := occur_eq e s; rw [h]
@[simp] theorem occur_pending (e : Nat) (s : State) : (occur e s).pending = s.pending := by
  obtain ⟨_, _, h⟩ := occur_eq e s; rw [h]
@[simp] theorem occur_act (e : Nat) (s : State) : (occur e s).act = s.act := by
  obtain ⟨_, _, h⟩ := occur_eq e s; rw [h]
@[simp] theorem occur_bus (e : Nat) (s : State) : (occur e s).bus = s.bus := by
  obtain ⟨_, _, h⟩ := occur_eq e s; rw [h]
@[simp] theorem occur_mem (e : Nat) (s : State) : (occur e s).mem = s.mem := by
  obtain ⟨_, _, h⟩ := occur_eq e s; rw [h]
@[simp] theorem occur_pwr (e : Nat) (s : State) : (occur e s).pwr = s.pwr := by
  obtain ⟨_, _, h⟩ := occur_eq e s; rw [h]
@[simp] theorem occur_clk (e : Nat) (s : State) : (occur e s).clk = s.clk := by
  obtain ⟨_, _, h⟩ := occur_eq e s; rw [h]
@[simp] theorem occur_therm (e : Nat) (s : State) : (occur e s).therm = s.therm := by
  obtain ⟨_, _, h⟩ := occur_eq e s; rw [h]
@[simp] theorem occur_valley (e : Nat) (s : State) : (occur e s).valley = s.valley := by
  obtain ⟨_, _, h⟩ := occur_eq e s; rw [h]
@[simp] theorem occur_plumb (e : Nat) (s : State) : (occur e s).plumb = s.plumb := by
  obtain ⟨_, _, h⟩ := occur_eq e s; rw [h]
@[simp] theorem occur_sins (e : Nat) (s : State) : (occur e s).sins = s.sins := by
  obtain ⟨_, _, h⟩ := occur_eq e s; rw [h]
@[simp] theorem occur_scans (e : Nat) (s : State) : (occur e s).scans = s.scans := by
  obtain ⟨_, _, h⟩ := occur_eq e s; rw [h]
@[simp] theorem occur_scanConvs (e : Nat) (s : State) : (occur e s).scanConvs = s.scanConvs := by
  obtain ⟨_, _, h⟩ := occur_eq e s; rw [h]
@[simp] theorem occur_souts (e : Nat) (s : State) : (occur e s).souts = s.souts := by
  obtain ⟨_, _, h⟩ := occur_eq e s; rw [h]
@[simp] theorem occur_conns (e : Nat) (s : State) : (occur e s).conns = s.conns := by
  obtain ⟨_, _, h⟩ := occur_eq e s; rw [h]
@[simp] theorem occur_pw (e : Nat) (s : State) : (occur e s).pw = s.pw := by
  obtain ⟨_, _, h⟩ := occur_eq e s; rw [h]
@[simp] theorem occur_fb (e : Nat) (s : State) : (occur e s).fb = s.fb := by
  obtain ⟨_, _, h⟩ := occur_eq e s; rw [h]
@[simp] theorem occur_log (e : Nat) (s : State) : (occur e s).log = s.log := by
  obtain ⟨_, _, h⟩ := occur_eq e s; rw [h]
@[simp] theorem occur_doms (e : Nat) (s : State) : (occur e s).doms = s.doms := by
  obtain ⟨_, _, h⟩ := occur_eq e s; rw [h]
@[simp] theorem occur_grps (e : Nat) (s : State) : (occur e s).grps = s.grps := by
  obtain ⟨_, _, h⟩ := occur_eq e s; rw [h]
@[simp] theorem occur_legs (e : Nat) (s : State) : (occur e s).legs = s.legs := by
  obtain ⟨_, _, h⟩ := occur_eq e s; rw [h]
@[simp] theorem occur_holds (e : Nat) (s : State) : (occur e s).holds = s.holds := by
  obtain ⟨_, _, h⟩ := occur_eq e s; rw [h]
@[simp] theorem occur_trips (e : Nat) (s : State) : (occur e s).trips = s.trips := by
  obtain ⟨_, _, h⟩ := occur_eq e s; rw [h]
@[simp] theorem occur_sets (e : Nat) (s : State) : (occur e s).sets = s.sets := by
  obtain ⟨_, _, h⟩ := occur_eq e s; rw [h]
@[simp] theorem occur_mons (e : Nat) (s : State) : (occur e s).mons = s.mons := by
  obtain ⟨_, _, h⟩ := occur_eq e s; rw [h]
@[simp] theorem occur_phases (e : Nat) (s : State) : (occur e s).phases = s.phases := by
  obtain ⟨_, _, h⟩ := occur_eq e s; rw [h]
@[simp] theorem occur_drvs (e : Nat) (s : State) : (occur e s).drvs = s.drvs := by
  obtain ⟨_, _, h⟩ := occur_eq e s; rw [h]
@[simp] theorem occur_datum (e : Nat) (s : State) : (occur e s).datum = s.datum := by
  obtain ⟨_, _, h⟩ := occur_eq e s; rw [h]
@[simp] theorem occur_pair (e : Nat) (s : State) : (occur e s).pair = s.pair := by
  obtain ⟨_, _, h⟩ := occur_eq e s; rw [h]
@[simp] theorem occur_adcs (e : Nat) (s : State) : (occur e s).adcs = s.adcs := by
  obtain ⟨_, _, h⟩ := occur_eq e s; rw [h]
@[simp] theorem occur_lanes (e : Nat) (s : State) : (occur e s).lanes = s.lanes := by
  obtain ⟨_, _, h⟩ := occur_eq e s; rw [h]
@[simp] theorem occur_eng (e : Nat) (s : State) : (occur e s).eng = s.eng := by
  obtain ⟨_, _, h⟩ := occur_eq e s; rw [h]
@[simp] theorem occur_gens (e : Nat) (s : State) : (occur e s).gens = s.gens := by
  obtain ⟨_, _, h⟩ := occur_eq e s; rw [h]
@[simp] theorem occur_capMem (e : Nat) (s : State) : (occur e s).capMem = s.capMem := by
  obtain ⟨_, _, h⟩ := occur_eq e s; rw [h]
@[simp] theorem occur_rings (e : Nat) (s : State) : (occur e s).rings = s.rings := by
  obtain ⟨_, _, h⟩ := occur_eq e s; rw [h]
@[simp] theorem occur_grids (e : Nat) (s : State) : (occur e s).grids = s.grids := by
  obtain ⟨_, _, h⟩ := occur_eq e s; rw [h]
@[simp] theorem occur_isl (e : Nat) (s : State) : (occur e s).isl = s.isl := by
  obtain ⟨_, _, h⟩ := occur_eq e s; rw [h]
@[simp] theorem occur_trackers (e : Nat) (s : State) : (occur e s).trackers = s.trackers := by
  obtain ⟨_, _, h⟩ := occur_eq e s; rw [h]
@[simp] theorem occur_sweep (e : Nat) (s : State) : (occur e s).sweep = s.sweep := by
  obtain ⟨_, _, h⟩ := occur_eq e s; rw [h]
@[simp] theorem occur_rails (e : Nat) (s : State) : (occur e s).rails = s.rails := by
  obtain ⟨_, _, h⟩ := occur_eq e s; rw [h]
@[simp] theorem occur_cmdPorts (e : Nat) (s : State) : (occur e s).cmdPorts = s.cmdPorts := by
  obtain ⟨_, _, h⟩ := occur_eq e s; rw [h]
@[simp] theorem occur_monument (e : Nat) (s : State) : (occur e s).monument = s.monument := by
  obtain ⟨_, _, h⟩ := occur_eq e s; rw [h]
@[simp] theorem occur_meters (e : Nat) (s : State) : (occur e s).meters = s.meters := by
  obtain ⟨_, _, h⟩ := occur_eq e s; rw [h]
@[simp] theorem occur_cluster (e : Nat) (s : State) : (occur e s).cluster = s.cluster := by
  obtain ⟨_, _, h⟩ := occur_eq e s; rw [h]
@[simp] theorem occur_nvm (e : Nat) (s : State) : (occur e s).nvm = s.nvm := by
  obtain ⟨_, _, h⟩ := occur_eq e s; rw [h]
@[simp] theorem occur_dbg (e : Nat) (s : State) : (occur e s).dbg = s.dbg := by
  obtain ⟨_, _, h⟩ := occur_eq e s; rw [h]
@[simp] theorem occur_upd (e : Nat) (s : State) : (occur e s).upd = s.upd := by
  obtain ⟨_, _, h⟩ := occur_eq e s; rw [h]
@[simp] theorem occur_gio (e : Nat) (s : State) : (occur e s).gio = s.gio := by
  obtain ⟨_, _, h⟩ := occur_eq e s; rw [h]

/-- All that `raise` changes. -/
theorem raise_eq (t : PageType) (n k : Nat) (s : State) : ∃ r v, (raise t n k s) = { s with regs := r, evr := v } := by
  unfold raise; dsimp only; repeat' split
  · obtain ⟨_, _, h⟩ := occur_eq ‹_› (setFresh (rk t n 0x010) k s)
    rw [h]; exact ⟨_, _, rfl⟩
  · exact ⟨_, _, rfl⟩
  · exact ⟨_, _, rfl⟩
@[simp] theorem raise_now (t : PageType) (n k : Nat) (s : State) : (raise t n k s).now = s.now := by
  obtain ⟨_, _, h⟩ := raise_eq t n k s; rw [h]
@[simp] theorem raise_frees (t : PageType) (n k : Nat) (s : State) : (raise t n k s).frees = s.frees := by
  obtain ⟨_, _, h⟩ := raise_eq t n k s; rw [h]
@[simp] theorem raise_pending (t : PageType) (n k : Nat) (s : State) : (raise t n k s).pending = s.pending := by
  obtain ⟨_, _, h⟩ := raise_eq t n k s; rw [h]
@[simp] theorem raise_act (t : PageType) (n k : Nat) (s : State) : (raise t n k s).act = s.act := by
  obtain ⟨_, _, h⟩ := raise_eq t n k s; rw [h]
@[simp] theorem raise_bus (t : PageType) (n k : Nat) (s : State) : (raise t n k s).bus = s.bus := by
  obtain ⟨_, _, h⟩ := raise_eq t n k s; rw [h]
@[simp] theorem raise_mem (t : PageType) (n k : Nat) (s : State) : (raise t n k s).mem = s.mem := by
  obtain ⟨_, _, h⟩ := raise_eq t n k s; rw [h]
@[simp] theorem raise_pwr (t : PageType) (n k : Nat) (s : State) : (raise t n k s).pwr = s.pwr := by
  obtain ⟨_, _, h⟩ := raise_eq t n k s; rw [h]
@[simp] theorem raise_clk (t : PageType) (n k : Nat) (s : State) : (raise t n k s).clk = s.clk := by
  obtain ⟨_, _, h⟩ := raise_eq t n k s; rw [h]
@[simp] theorem raise_therm (t : PageType) (n k : Nat) (s : State) : (raise t n k s).therm = s.therm := by
  obtain ⟨_, _, h⟩ := raise_eq t n k s; rw [h]
@[simp] theorem raise_valley (t : PageType) (n k : Nat) (s : State) : (raise t n k s).valley = s.valley := by
  obtain ⟨_, _, h⟩ := raise_eq t n k s; rw [h]
@[simp] theorem raise_plumb (t : PageType) (n k : Nat) (s : State) : (raise t n k s).plumb = s.plumb := by
  obtain ⟨_, _, h⟩ := raise_eq t n k s; rw [h]
@[simp] theorem raise_sins (t : PageType) (n k : Nat) (s : State) : (raise t n k s).sins = s.sins := by
  obtain ⟨_, _, h⟩ := raise_eq t n k s; rw [h]
@[simp] theorem raise_scans (t : PageType) (n k : Nat) (s : State) : (raise t n k s).scans = s.scans := by
  obtain ⟨_, _, h⟩ := raise_eq t n k s; rw [h]
@[simp] theorem raise_scanConvs (t : PageType) (n k : Nat) (s : State) : (raise t n k s).scanConvs = s.scanConvs := by
  obtain ⟨_, _, h⟩ := raise_eq t n k s; rw [h]
@[simp] theorem raise_souts (t : PageType) (n k : Nat) (s : State) : (raise t n k s).souts = s.souts := by
  obtain ⟨_, _, h⟩ := raise_eq t n k s; rw [h]
@[simp] theorem raise_conns (t : PageType) (n k : Nat) (s : State) : (raise t n k s).conns = s.conns := by
  obtain ⟨_, _, h⟩ := raise_eq t n k s; rw [h]
@[simp] theorem raise_pw (t : PageType) (n k : Nat) (s : State) : (raise t n k s).pw = s.pw := by
  obtain ⟨_, _, h⟩ := raise_eq t n k s; rw [h]
@[simp] theorem raise_fb (t : PageType) (n k : Nat) (s : State) : (raise t n k s).fb = s.fb := by
  obtain ⟨_, _, h⟩ := raise_eq t n k s; rw [h]
@[simp] theorem raise_log (t : PageType) (n k : Nat) (s : State) : (raise t n k s).log = s.log := by
  obtain ⟨_, _, h⟩ := raise_eq t n k s; rw [h]
@[simp] theorem raise_doms (t : PageType) (n k : Nat) (s : State) : (raise t n k s).doms = s.doms := by
  obtain ⟨_, _, h⟩ := raise_eq t n k s; rw [h]
@[simp] theorem raise_grps (t : PageType) (n k : Nat) (s : State) : (raise t n k s).grps = s.grps := by
  obtain ⟨_, _, h⟩ := raise_eq t n k s; rw [h]
@[simp] theorem raise_legs (t : PageType) (n k : Nat) (s : State) : (raise t n k s).legs = s.legs := by
  obtain ⟨_, _, h⟩ := raise_eq t n k s; rw [h]
@[simp] theorem raise_holds (t : PageType) (n k : Nat) (s : State) : (raise t n k s).holds = s.holds := by
  obtain ⟨_, _, h⟩ := raise_eq t n k s; rw [h]
@[simp] theorem raise_trips (t : PageType) (n k : Nat) (s : State) : (raise t n k s).trips = s.trips := by
  obtain ⟨_, _, h⟩ := raise_eq t n k s; rw [h]
@[simp] theorem raise_sets (t : PageType) (n k : Nat) (s : State) : (raise t n k s).sets = s.sets := by
  obtain ⟨_, _, h⟩ := raise_eq t n k s; rw [h]
@[simp] theorem raise_mons (t : PageType) (n k : Nat) (s : State) : (raise t n k s).mons = s.mons := by
  obtain ⟨_, _, h⟩ := raise_eq t n k s; rw [h]
@[simp] theorem raise_phases (t : PageType) (n k : Nat) (s : State) : (raise t n k s).phases = s.phases := by
  obtain ⟨_, _, h⟩ := raise_eq t n k s; rw [h]
@[simp] theorem raise_drvs (t : PageType) (n k : Nat) (s : State) : (raise t n k s).drvs = s.drvs := by
  obtain ⟨_, _, h⟩ := raise_eq t n k s; rw [h]
@[simp] theorem raise_datum (t : PageType) (n k : Nat) (s : State) : (raise t n k s).datum = s.datum := by
  obtain ⟨_, _, h⟩ := raise_eq t n k s; rw [h]
@[simp] theorem raise_pair (t : PageType) (n k : Nat) (s : State) : (raise t n k s).pair = s.pair := by
  obtain ⟨_, _, h⟩ := raise_eq t n k s; rw [h]
@[simp] theorem raise_adcs (t : PageType) (n k : Nat) (s : State) : (raise t n k s).adcs = s.adcs := by
  obtain ⟨_, _, h⟩ := raise_eq t n k s; rw [h]
@[simp] theorem raise_lanes (t : PageType) (n k : Nat) (s : State) : (raise t n k s).lanes = s.lanes := by
  obtain ⟨_, _, h⟩ := raise_eq t n k s; rw [h]
@[simp] theorem raise_eng (t : PageType) (n k : Nat) (s : State) : (raise t n k s).eng = s.eng := by
  obtain ⟨_, _, h⟩ := raise_eq t n k s; rw [h]
@[simp] theorem raise_gens (t : PageType) (n k : Nat) (s : State) : (raise t n k s).gens = s.gens := by
  obtain ⟨_, _, h⟩ := raise_eq t n k s; rw [h]
@[simp] theorem raise_capMem (t : PageType) (n k : Nat) (s : State) : (raise t n k s).capMem = s.capMem := by
  obtain ⟨_, _, h⟩ := raise_eq t n k s; rw [h]
@[simp] theorem raise_rings (t : PageType) (n k : Nat) (s : State) : (raise t n k s).rings = s.rings := by
  obtain ⟨_, _, h⟩ := raise_eq t n k s; rw [h]
@[simp] theorem raise_grids (t : PageType) (n k : Nat) (s : State) : (raise t n k s).grids = s.grids := by
  obtain ⟨_, _, h⟩ := raise_eq t n k s; rw [h]
@[simp] theorem raise_isl (t : PageType) (n k : Nat) (s : State) : (raise t n k s).isl = s.isl := by
  obtain ⟨_, _, h⟩ := raise_eq t n k s; rw [h]
@[simp] theorem raise_trackers (t : PageType) (n k : Nat) (s : State) : (raise t n k s).trackers = s.trackers := by
  obtain ⟨_, _, h⟩ := raise_eq t n k s; rw [h]
@[simp] theorem raise_sweep (t : PageType) (n k : Nat) (s : State) : (raise t n k s).sweep = s.sweep := by
  obtain ⟨_, _, h⟩ := raise_eq t n k s; rw [h]
@[simp] theorem raise_rails (t : PageType) (n k : Nat) (s : State) : (raise t n k s).rails = s.rails := by
  obtain ⟨_, _, h⟩ := raise_eq t n k s; rw [h]
@[simp] theorem raise_cmdPorts (t : PageType) (n k : Nat) (s : State) : (raise t n k s).cmdPorts = s.cmdPorts := by
  obtain ⟨_, _, h⟩ := raise_eq t n k s; rw [h]
@[simp] theorem raise_monument (t : PageType) (n k : Nat) (s : State) : (raise t n k s).monument = s.monument := by
  obtain ⟨_, _, h⟩ := raise_eq t n k s; rw [h]
@[simp] theorem raise_meters (t : PageType) (n k : Nat) (s : State) : (raise t n k s).meters = s.meters := by
  obtain ⟨_, _, h⟩ := raise_eq t n k s; rw [h]
@[simp] theorem raise_cluster (t : PageType) (n k : Nat) (s : State) : (raise t n k s).cluster = s.cluster := by
  obtain ⟨_, _, h⟩ := raise_eq t n k s; rw [h]
@[simp] theorem raise_nvm (t : PageType) (n k : Nat) (s : State) : (raise t n k s).nvm = s.nvm := by
  obtain ⟨_, _, h⟩ := raise_eq t n k s; rw [h]
@[simp] theorem raise_dbg (t : PageType) (n k : Nat) (s : State) : (raise t n k s).dbg = s.dbg := by
  obtain ⟨_, _, h⟩ := raise_eq t n k s; rw [h]
@[simp] theorem raise_upd (t : PageType) (n k : Nat) (s : State) : (raise t n k s).upd = s.upd := by
  obtain ⟨_, _, h⟩ := raise_eq t n k s; rw [h]
@[simp] theorem raise_gio (t : PageType) (n k : Nat) (s : State) : (raise t n k s).gio = s.gio := by
  obtain ⟨_, _, h⟩ := raise_eq t n k s; rw [h]

/-- All that `raiseTrip` changes. -/
theorem raiseTrip_eq (i k : Nat) (s : State) : ∃ r v, (raiseTrip i k s) = { s with regs := r, evr := v } := by
  unfold raiseTrip; dsimp only; split
  · obtain ⟨_, _, h⟩ := occur_eq (192 + i) (setFresh (rk .trip 0 (0x118 + 0x20 * i)) (8 + k) s)
    rw [h]; exact ⟨_, _, rfl⟩
  · exact ⟨_, _, rfl⟩
@[simp] theorem raiseTrip_now (i k : Nat) (s : State) : (raiseTrip i k s).now = s.now := by
  obtain ⟨_, _, h⟩ := raiseTrip_eq i k s; rw [h]
@[simp] theorem raiseTrip_frees (i k : Nat) (s : State) : (raiseTrip i k s).frees = s.frees := by
  obtain ⟨_, _, h⟩ := raiseTrip_eq i k s; rw [h]
@[simp] theorem raiseTrip_pending (i k : Nat) (s : State) : (raiseTrip i k s).pending = s.pending := by
  obtain ⟨_, _, h⟩ := raiseTrip_eq i k s; rw [h]
@[simp] theorem raiseTrip_act (i k : Nat) (s : State) : (raiseTrip i k s).act = s.act := by
  obtain ⟨_, _, h⟩ := raiseTrip_eq i k s; rw [h]
@[simp] theorem raiseTrip_bus (i k : Nat) (s : State) : (raiseTrip i k s).bus = s.bus := by
  obtain ⟨_, _, h⟩ := raiseTrip_eq i k s; rw [h]
@[simp] theorem raiseTrip_mem (i k : Nat) (s : State) : (raiseTrip i k s).mem = s.mem := by
  obtain ⟨_, _, h⟩ := raiseTrip_eq i k s; rw [h]
@[simp] theorem raiseTrip_pwr (i k : Nat) (s : State) : (raiseTrip i k s).pwr = s.pwr := by
  obtain ⟨_, _, h⟩ := raiseTrip_eq i k s; rw [h]
@[simp] theorem raiseTrip_clk (i k : Nat) (s : State) : (raiseTrip i k s).clk = s.clk := by
  obtain ⟨_, _, h⟩ := raiseTrip_eq i k s; rw [h]
@[simp] theorem raiseTrip_therm (i k : Nat) (s : State) : (raiseTrip i k s).therm = s.therm := by
  obtain ⟨_, _, h⟩ := raiseTrip_eq i k s; rw [h]
@[simp] theorem raiseTrip_valley (i k : Nat) (s : State) : (raiseTrip i k s).valley = s.valley := by
  obtain ⟨_, _, h⟩ := raiseTrip_eq i k s; rw [h]
@[simp] theorem raiseTrip_plumb (i k : Nat) (s : State) : (raiseTrip i k s).plumb = s.plumb := by
  obtain ⟨_, _, h⟩ := raiseTrip_eq i k s; rw [h]
@[simp] theorem raiseTrip_sins (i k : Nat) (s : State) : (raiseTrip i k s).sins = s.sins := by
  obtain ⟨_, _, h⟩ := raiseTrip_eq i k s; rw [h]
@[simp] theorem raiseTrip_scans (i k : Nat) (s : State) : (raiseTrip i k s).scans = s.scans := by
  obtain ⟨_, _, h⟩ := raiseTrip_eq i k s; rw [h]
@[simp] theorem raiseTrip_scanConvs (i k : Nat) (s : State) : (raiseTrip i k s).scanConvs = s.scanConvs := by
  obtain ⟨_, _, h⟩ := raiseTrip_eq i k s; rw [h]
@[simp] theorem raiseTrip_souts (i k : Nat) (s : State) : (raiseTrip i k s).souts = s.souts := by
  obtain ⟨_, _, h⟩ := raiseTrip_eq i k s; rw [h]
@[simp] theorem raiseTrip_conns (i k : Nat) (s : State) : (raiseTrip i k s).conns = s.conns := by
  obtain ⟨_, _, h⟩ := raiseTrip_eq i k s; rw [h]
@[simp] theorem raiseTrip_pw (i k : Nat) (s : State) : (raiseTrip i k s).pw = s.pw := by
  obtain ⟨_, _, h⟩ := raiseTrip_eq i k s; rw [h]
@[simp] theorem raiseTrip_fb (i k : Nat) (s : State) : (raiseTrip i k s).fb = s.fb := by
  obtain ⟨_, _, h⟩ := raiseTrip_eq i k s; rw [h]
@[simp] theorem raiseTrip_log (i k : Nat) (s : State) : (raiseTrip i k s).log = s.log := by
  obtain ⟨_, _, h⟩ := raiseTrip_eq i k s; rw [h]
@[simp] theorem raiseTrip_doms (i k : Nat) (s : State) : (raiseTrip i k s).doms = s.doms := by
  obtain ⟨_, _, h⟩ := raiseTrip_eq i k s; rw [h]
@[simp] theorem raiseTrip_grps (i k : Nat) (s : State) : (raiseTrip i k s).grps = s.grps := by
  obtain ⟨_, _, h⟩ := raiseTrip_eq i k s; rw [h]
@[simp] theorem raiseTrip_legs (i k : Nat) (s : State) : (raiseTrip i k s).legs = s.legs := by
  obtain ⟨_, _, h⟩ := raiseTrip_eq i k s; rw [h]
@[simp] theorem raiseTrip_holds (i k : Nat) (s : State) : (raiseTrip i k s).holds = s.holds := by
  obtain ⟨_, _, h⟩ := raiseTrip_eq i k s; rw [h]
@[simp] theorem raiseTrip_trips (i k : Nat) (s : State) : (raiseTrip i k s).trips = s.trips := by
  obtain ⟨_, _, h⟩ := raiseTrip_eq i k s; rw [h]
@[simp] theorem raiseTrip_sets (i k : Nat) (s : State) : (raiseTrip i k s).sets = s.sets := by
  obtain ⟨_, _, h⟩ := raiseTrip_eq i k s; rw [h]
@[simp] theorem raiseTrip_mons (i k : Nat) (s : State) : (raiseTrip i k s).mons = s.mons := by
  obtain ⟨_, _, h⟩ := raiseTrip_eq i k s; rw [h]
@[simp] theorem raiseTrip_phases (i k : Nat) (s : State) : (raiseTrip i k s).phases = s.phases := by
  obtain ⟨_, _, h⟩ := raiseTrip_eq i k s; rw [h]
@[simp] theorem raiseTrip_drvs (i k : Nat) (s : State) : (raiseTrip i k s).drvs = s.drvs := by
  obtain ⟨_, _, h⟩ := raiseTrip_eq i k s; rw [h]
@[simp] theorem raiseTrip_datum (i k : Nat) (s : State) : (raiseTrip i k s).datum = s.datum := by
  obtain ⟨_, _, h⟩ := raiseTrip_eq i k s; rw [h]
@[simp] theorem raiseTrip_pair (i k : Nat) (s : State) : (raiseTrip i k s).pair = s.pair := by
  obtain ⟨_, _, h⟩ := raiseTrip_eq i k s; rw [h]
@[simp] theorem raiseTrip_adcs (i k : Nat) (s : State) : (raiseTrip i k s).adcs = s.adcs := by
  obtain ⟨_, _, h⟩ := raiseTrip_eq i k s; rw [h]
@[simp] theorem raiseTrip_lanes (i k : Nat) (s : State) : (raiseTrip i k s).lanes = s.lanes := by
  obtain ⟨_, _, h⟩ := raiseTrip_eq i k s; rw [h]
@[simp] theorem raiseTrip_eng (i k : Nat) (s : State) : (raiseTrip i k s).eng = s.eng := by
  obtain ⟨_, _, h⟩ := raiseTrip_eq i k s; rw [h]
@[simp] theorem raiseTrip_gens (i k : Nat) (s : State) : (raiseTrip i k s).gens = s.gens := by
  obtain ⟨_, _, h⟩ := raiseTrip_eq i k s; rw [h]
@[simp] theorem raiseTrip_capMem (i k : Nat) (s : State) : (raiseTrip i k s).capMem = s.capMem := by
  obtain ⟨_, _, h⟩ := raiseTrip_eq i k s; rw [h]
@[simp] theorem raiseTrip_rings (i k : Nat) (s : State) : (raiseTrip i k s).rings = s.rings := by
  obtain ⟨_, _, h⟩ := raiseTrip_eq i k s; rw [h]
@[simp] theorem raiseTrip_grids (i k : Nat) (s : State) : (raiseTrip i k s).grids = s.grids := by
  obtain ⟨_, _, h⟩ := raiseTrip_eq i k s; rw [h]
@[simp] theorem raiseTrip_isl (i k : Nat) (s : State) : (raiseTrip i k s).isl = s.isl := by
  obtain ⟨_, _, h⟩ := raiseTrip_eq i k s; rw [h]
@[simp] theorem raiseTrip_trackers (i k : Nat) (s : State) : (raiseTrip i k s).trackers = s.trackers := by
  obtain ⟨_, _, h⟩ := raiseTrip_eq i k s; rw [h]
@[simp] theorem raiseTrip_sweep (i k : Nat) (s : State) : (raiseTrip i k s).sweep = s.sweep := by
  obtain ⟨_, _, h⟩ := raiseTrip_eq i k s; rw [h]
@[simp] theorem raiseTrip_rails (i k : Nat) (s : State) : (raiseTrip i k s).rails = s.rails := by
  obtain ⟨_, _, h⟩ := raiseTrip_eq i k s; rw [h]
@[simp] theorem raiseTrip_cmdPorts (i k : Nat) (s : State) : (raiseTrip i k s).cmdPorts = s.cmdPorts := by
  obtain ⟨_, _, h⟩ := raiseTrip_eq i k s; rw [h]
@[simp] theorem raiseTrip_monument (i k : Nat) (s : State) : (raiseTrip i k s).monument = s.monument := by
  obtain ⟨_, _, h⟩ := raiseTrip_eq i k s; rw [h]
@[simp] theorem raiseTrip_meters (i k : Nat) (s : State) : (raiseTrip i k s).meters = s.meters := by
  obtain ⟨_, _, h⟩ := raiseTrip_eq i k s; rw [h]
@[simp] theorem raiseTrip_cluster (i k : Nat) (s : State) : (raiseTrip i k s).cluster = s.cluster := by
  obtain ⟨_, _, h⟩ := raiseTrip_eq i k s; rw [h]
@[simp] theorem raiseTrip_nvm (i k : Nat) (s : State) : (raiseTrip i k s).nvm = s.nvm := by
  obtain ⟨_, _, h⟩ := raiseTrip_eq i k s; rw [h]
@[simp] theorem raiseTrip_dbg (i k : Nat) (s : State) : (raiseTrip i k s).dbg = s.dbg := by
  obtain ⟨_, _, h⟩ := raiseTrip_eq i k s; rw [h]
@[simp] theorem raiseTrip_upd (i k : Nat) (s : State) : (raiseTrip i k s).upd = s.upd := by
  obtain ⟨_, _, h⟩ := raiseTrip_eq i k s; rw [h]
@[simp] theorem raiseTrip_gio (i k : Nat) (s : State) : (raiseTrip i k s).gio = s.gio := by
  obtain ⟨_, _, h⟩ := raiseTrip_eq i k s; rw [h]

/-- All that `refuse` changes. -/
theorem refuse_eq (t : PageType) (n : Nat) (s : State) : ∃ r v, (refuse t n s) = { s with regs := r, evr := v } := by
  unfold refuse; split
  · exact raise_eq _ _ _ _
  · exact ⟨_, _, rfl⟩
@[simp] theorem refuse_now (t : PageType) (n : Nat) (s : State) : (refuse t n s).now = s.now := by
  obtain ⟨_, _, h⟩ := refuse_eq t n s; rw [h]
@[simp] theorem refuse_frees (t : PageType) (n : Nat) (s : State) : (refuse t n s).frees = s.frees := by
  obtain ⟨_, _, h⟩ := refuse_eq t n s; rw [h]
@[simp] theorem refuse_pending (t : PageType) (n : Nat) (s : State) : (refuse t n s).pending = s.pending := by
  obtain ⟨_, _, h⟩ := refuse_eq t n s; rw [h]
@[simp] theorem refuse_act (t : PageType) (n : Nat) (s : State) : (refuse t n s).act = s.act := by
  obtain ⟨_, _, h⟩ := refuse_eq t n s; rw [h]
@[simp] theorem refuse_bus (t : PageType) (n : Nat) (s : State) : (refuse t n s).bus = s.bus := by
  obtain ⟨_, _, h⟩ := refuse_eq t n s; rw [h]
@[simp] theorem refuse_mem (t : PageType) (n : Nat) (s : State) : (refuse t n s).mem = s.mem := by
  obtain ⟨_, _, h⟩ := refuse_eq t n s; rw [h]
@[simp] theorem refuse_pwr (t : PageType) (n : Nat) (s : State) : (refuse t n s).pwr = s.pwr := by
  obtain ⟨_, _, h⟩ := refuse_eq t n s; rw [h]
@[simp] theorem refuse_clk (t : PageType) (n : Nat) (s : State) : (refuse t n s).clk = s.clk := by
  obtain ⟨_, _, h⟩ := refuse_eq t n s; rw [h]
@[simp] theorem refuse_therm (t : PageType) (n : Nat) (s : State) : (refuse t n s).therm = s.therm := by
  obtain ⟨_, _, h⟩ := refuse_eq t n s; rw [h]
@[simp] theorem refuse_valley (t : PageType) (n : Nat) (s : State) : (refuse t n s).valley = s.valley := by
  obtain ⟨_, _, h⟩ := refuse_eq t n s; rw [h]
@[simp] theorem refuse_plumb (t : PageType) (n : Nat) (s : State) : (refuse t n s).plumb = s.plumb := by
  obtain ⟨_, _, h⟩ := refuse_eq t n s; rw [h]
@[simp] theorem refuse_sins (t : PageType) (n : Nat) (s : State) : (refuse t n s).sins = s.sins := by
  obtain ⟨_, _, h⟩ := refuse_eq t n s; rw [h]
@[simp] theorem refuse_scans (t : PageType) (n : Nat) (s : State) : (refuse t n s).scans = s.scans := by
  obtain ⟨_, _, h⟩ := refuse_eq t n s; rw [h]
@[simp] theorem refuse_scanConvs (t : PageType) (n : Nat) (s : State) : (refuse t n s).scanConvs = s.scanConvs := by
  obtain ⟨_, _, h⟩ := refuse_eq t n s; rw [h]
@[simp] theorem refuse_souts (t : PageType) (n : Nat) (s : State) : (refuse t n s).souts = s.souts := by
  obtain ⟨_, _, h⟩ := refuse_eq t n s; rw [h]
@[simp] theorem refuse_conns (t : PageType) (n : Nat) (s : State) : (refuse t n s).conns = s.conns := by
  obtain ⟨_, _, h⟩ := refuse_eq t n s; rw [h]
@[simp] theorem refuse_pw (t : PageType) (n : Nat) (s : State) : (refuse t n s).pw = s.pw := by
  obtain ⟨_, _, h⟩ := refuse_eq t n s; rw [h]
@[simp] theorem refuse_fb (t : PageType) (n : Nat) (s : State) : (refuse t n s).fb = s.fb := by
  obtain ⟨_, _, h⟩ := refuse_eq t n s; rw [h]
@[simp] theorem refuse_log (t : PageType) (n : Nat) (s : State) : (refuse t n s).log = s.log := by
  obtain ⟨_, _, h⟩ := refuse_eq t n s; rw [h]
@[simp] theorem refuse_doms (t : PageType) (n : Nat) (s : State) : (refuse t n s).doms = s.doms := by
  obtain ⟨_, _, h⟩ := refuse_eq t n s; rw [h]
@[simp] theorem refuse_grps (t : PageType) (n : Nat) (s : State) : (refuse t n s).grps = s.grps := by
  obtain ⟨_, _, h⟩ := refuse_eq t n s; rw [h]
@[simp] theorem refuse_legs (t : PageType) (n : Nat) (s : State) : (refuse t n s).legs = s.legs := by
  obtain ⟨_, _, h⟩ := refuse_eq t n s; rw [h]
@[simp] theorem refuse_holds (t : PageType) (n : Nat) (s : State) : (refuse t n s).holds = s.holds := by
  obtain ⟨_, _, h⟩ := refuse_eq t n s; rw [h]
@[simp] theorem refuse_trips (t : PageType) (n : Nat) (s : State) : (refuse t n s).trips = s.trips := by
  obtain ⟨_, _, h⟩ := refuse_eq t n s; rw [h]
@[simp] theorem refuse_sets (t : PageType) (n : Nat) (s : State) : (refuse t n s).sets = s.sets := by
  obtain ⟨_, _, h⟩ := refuse_eq t n s; rw [h]
@[simp] theorem refuse_mons (t : PageType) (n : Nat) (s : State) : (refuse t n s).mons = s.mons := by
  obtain ⟨_, _, h⟩ := refuse_eq t n s; rw [h]
@[simp] theorem refuse_phases (t : PageType) (n : Nat) (s : State) : (refuse t n s).phases = s.phases := by
  obtain ⟨_, _, h⟩ := refuse_eq t n s; rw [h]
@[simp] theorem refuse_drvs (t : PageType) (n : Nat) (s : State) : (refuse t n s).drvs = s.drvs := by
  obtain ⟨_, _, h⟩ := refuse_eq t n s; rw [h]
@[simp] theorem refuse_datum (t : PageType) (n : Nat) (s : State) : (refuse t n s).datum = s.datum := by
  obtain ⟨_, _, h⟩ := refuse_eq t n s; rw [h]
@[simp] theorem refuse_pair (t : PageType) (n : Nat) (s : State) : (refuse t n s).pair = s.pair := by
  obtain ⟨_, _, h⟩ := refuse_eq t n s; rw [h]
@[simp] theorem refuse_adcs (t : PageType) (n : Nat) (s : State) : (refuse t n s).adcs = s.adcs := by
  obtain ⟨_, _, h⟩ := refuse_eq t n s; rw [h]
@[simp] theorem refuse_lanes (t : PageType) (n : Nat) (s : State) : (refuse t n s).lanes = s.lanes := by
  obtain ⟨_, _, h⟩ := refuse_eq t n s; rw [h]
@[simp] theorem refuse_eng (t : PageType) (n : Nat) (s : State) : (refuse t n s).eng = s.eng := by
  obtain ⟨_, _, h⟩ := refuse_eq t n s; rw [h]
@[simp] theorem refuse_gens (t : PageType) (n : Nat) (s : State) : (refuse t n s).gens = s.gens := by
  obtain ⟨_, _, h⟩ := refuse_eq t n s; rw [h]
@[simp] theorem refuse_capMem (t : PageType) (n : Nat) (s : State) : (refuse t n s).capMem = s.capMem := by
  obtain ⟨_, _, h⟩ := refuse_eq t n s; rw [h]
@[simp] theorem refuse_rings (t : PageType) (n : Nat) (s : State) : (refuse t n s).rings = s.rings := by
  obtain ⟨_, _, h⟩ := refuse_eq t n s; rw [h]
@[simp] theorem refuse_grids (t : PageType) (n : Nat) (s : State) : (refuse t n s).grids = s.grids := by
  obtain ⟨_, _, h⟩ := refuse_eq t n s; rw [h]
@[simp] theorem refuse_isl (t : PageType) (n : Nat) (s : State) : (refuse t n s).isl = s.isl := by
  obtain ⟨_, _, h⟩ := refuse_eq t n s; rw [h]
@[simp] theorem refuse_trackers (t : PageType) (n : Nat) (s : State) : (refuse t n s).trackers = s.trackers := by
  obtain ⟨_, _, h⟩ := refuse_eq t n s; rw [h]
@[simp] theorem refuse_sweep (t : PageType) (n : Nat) (s : State) : (refuse t n s).sweep = s.sweep := by
  obtain ⟨_, _, h⟩ := refuse_eq t n s; rw [h]
@[simp] theorem refuse_rails (t : PageType) (n : Nat) (s : State) : (refuse t n s).rails = s.rails := by
  obtain ⟨_, _, h⟩ := refuse_eq t n s; rw [h]
@[simp] theorem refuse_cmdPorts (t : PageType) (n : Nat) (s : State) : (refuse t n s).cmdPorts = s.cmdPorts := by
  obtain ⟨_, _, h⟩ := refuse_eq t n s; rw [h]
@[simp] theorem refuse_monument (t : PageType) (n : Nat) (s : State) : (refuse t n s).monument = s.monument := by
  obtain ⟨_, _, h⟩ := refuse_eq t n s; rw [h]
@[simp] theorem refuse_meters (t : PageType) (n : Nat) (s : State) : (refuse t n s).meters = s.meters := by
  obtain ⟨_, _, h⟩ := refuse_eq t n s; rw [h]
@[simp] theorem refuse_cluster (t : PageType) (n : Nat) (s : State) : (refuse t n s).cluster = s.cluster := by
  obtain ⟨_, _, h⟩ := refuse_eq t n s; rw [h]
@[simp] theorem refuse_nvm (t : PageType) (n : Nat) (s : State) : (refuse t n s).nvm = s.nvm := by
  obtain ⟨_, _, h⟩ := refuse_eq t n s; rw [h]
@[simp] theorem refuse_dbg (t : PageType) (n : Nat) (s : State) : (refuse t n s).dbg = s.dbg := by
  obtain ⟨_, _, h⟩ := refuse_eq t n s; rw [h]
@[simp] theorem refuse_upd (t : PageType) (n : Nat) (s : State) : (refuse t n s).upd = s.upd := by
  obtain ⟨_, _, h⟩ := refuse_eq t n s; rw [h]
@[simp] theorem refuse_gio (t : PageType) (n : Nat) (s : State) : (refuse t n s).gio = s.gio := by
  obtain ⟨_, _, h⟩ := refuse_eq t n s; rw [h]

/-- All that `refuseKey` changes. -/
theorem refuseKey_eq (k : Nat) (s : State) : ∃ r v, (refuseKey k s) = { s with regs := r, evr := v } := by
  unfold refuseKey; split
  · exact refuse_eq _ _ _
  · exact ⟨_, _, rfl⟩
@[simp] theorem refuseKey_now (k : Nat) (s : State) : (refuseKey k s).now = s.now := by
  obtain ⟨_, _, h⟩ := refuseKey_eq k s; rw [h]
@[simp] theorem refuseKey_frees (k : Nat) (s : State) : (refuseKey k s).frees = s.frees := by
  obtain ⟨_, _, h⟩ := refuseKey_eq k s; rw [h]
@[simp] theorem refuseKey_pending (k : Nat) (s : State) : (refuseKey k s).pending = s.pending := by
  obtain ⟨_, _, h⟩ := refuseKey_eq k s; rw [h]
@[simp] theorem refuseKey_act (k : Nat) (s : State) : (refuseKey k s).act = s.act := by
  obtain ⟨_, _, h⟩ := refuseKey_eq k s; rw [h]
@[simp] theorem refuseKey_bus (k : Nat) (s : State) : (refuseKey k s).bus = s.bus := by
  obtain ⟨_, _, h⟩ := refuseKey_eq k s; rw [h]
@[simp] theorem refuseKey_mem (k : Nat) (s : State) : (refuseKey k s).mem = s.mem := by
  obtain ⟨_, _, h⟩ := refuseKey_eq k s; rw [h]
@[simp] theorem refuseKey_pwr (k : Nat) (s : State) : (refuseKey k s).pwr = s.pwr := by
  obtain ⟨_, _, h⟩ := refuseKey_eq k s; rw [h]
@[simp] theorem refuseKey_clk (k : Nat) (s : State) : (refuseKey k s).clk = s.clk := by
  obtain ⟨_, _, h⟩ := refuseKey_eq k s; rw [h]
@[simp] theorem refuseKey_therm (k : Nat) (s : State) : (refuseKey k s).therm = s.therm := by
  obtain ⟨_, _, h⟩ := refuseKey_eq k s; rw [h]
@[simp] theorem refuseKey_valley (k : Nat) (s : State) : (refuseKey k s).valley = s.valley := by
  obtain ⟨_, _, h⟩ := refuseKey_eq k s; rw [h]
@[simp] theorem refuseKey_plumb (k : Nat) (s : State) : (refuseKey k s).plumb = s.plumb := by
  obtain ⟨_, _, h⟩ := refuseKey_eq k s; rw [h]
@[simp] theorem refuseKey_sins (k : Nat) (s : State) : (refuseKey k s).sins = s.sins := by
  obtain ⟨_, _, h⟩ := refuseKey_eq k s; rw [h]
@[simp] theorem refuseKey_scans (k : Nat) (s : State) : (refuseKey k s).scans = s.scans := by
  obtain ⟨_, _, h⟩ := refuseKey_eq k s; rw [h]
@[simp] theorem refuseKey_scanConvs (k : Nat) (s : State) : (refuseKey k s).scanConvs = s.scanConvs := by
  obtain ⟨_, _, h⟩ := refuseKey_eq k s; rw [h]
@[simp] theorem refuseKey_souts (k : Nat) (s : State) : (refuseKey k s).souts = s.souts := by
  obtain ⟨_, _, h⟩ := refuseKey_eq k s; rw [h]
@[simp] theorem refuseKey_conns (k : Nat) (s : State) : (refuseKey k s).conns = s.conns := by
  obtain ⟨_, _, h⟩ := refuseKey_eq k s; rw [h]
@[simp] theorem refuseKey_pw (k : Nat) (s : State) : (refuseKey k s).pw = s.pw := by
  obtain ⟨_, _, h⟩ := refuseKey_eq k s; rw [h]
@[simp] theorem refuseKey_fb (k : Nat) (s : State) : (refuseKey k s).fb = s.fb := by
  obtain ⟨_, _, h⟩ := refuseKey_eq k s; rw [h]
@[simp] theorem refuseKey_log (k : Nat) (s : State) : (refuseKey k s).log = s.log := by
  obtain ⟨_, _, h⟩ := refuseKey_eq k s; rw [h]
@[simp] theorem refuseKey_doms (k : Nat) (s : State) : (refuseKey k s).doms = s.doms := by
  obtain ⟨_, _, h⟩ := refuseKey_eq k s; rw [h]
@[simp] theorem refuseKey_grps (k : Nat) (s : State) : (refuseKey k s).grps = s.grps := by
  obtain ⟨_, _, h⟩ := refuseKey_eq k s; rw [h]
@[simp] theorem refuseKey_legs (k : Nat) (s : State) : (refuseKey k s).legs = s.legs := by
  obtain ⟨_, _, h⟩ := refuseKey_eq k s; rw [h]
@[simp] theorem refuseKey_holds (k : Nat) (s : State) : (refuseKey k s).holds = s.holds := by
  obtain ⟨_, _, h⟩ := refuseKey_eq k s; rw [h]
@[simp] theorem refuseKey_trips (k : Nat) (s : State) : (refuseKey k s).trips = s.trips := by
  obtain ⟨_, _, h⟩ := refuseKey_eq k s; rw [h]
@[simp] theorem refuseKey_sets (k : Nat) (s : State) : (refuseKey k s).sets = s.sets := by
  obtain ⟨_, _, h⟩ := refuseKey_eq k s; rw [h]
@[simp] theorem refuseKey_mons (k : Nat) (s : State) : (refuseKey k s).mons = s.mons := by
  obtain ⟨_, _, h⟩ := refuseKey_eq k s; rw [h]
@[simp] theorem refuseKey_phases (k : Nat) (s : State) : (refuseKey k s).phases = s.phases := by
  obtain ⟨_, _, h⟩ := refuseKey_eq k s; rw [h]
@[simp] theorem refuseKey_drvs (k : Nat) (s : State) : (refuseKey k s).drvs = s.drvs := by
  obtain ⟨_, _, h⟩ := refuseKey_eq k s; rw [h]
@[simp] theorem refuseKey_datum (k : Nat) (s : State) : (refuseKey k s).datum = s.datum := by
  obtain ⟨_, _, h⟩ := refuseKey_eq k s; rw [h]
@[simp] theorem refuseKey_pair (k : Nat) (s : State) : (refuseKey k s).pair = s.pair := by
  obtain ⟨_, _, h⟩ := refuseKey_eq k s; rw [h]
@[simp] theorem refuseKey_adcs (k : Nat) (s : State) : (refuseKey k s).adcs = s.adcs := by
  obtain ⟨_, _, h⟩ := refuseKey_eq k s; rw [h]
@[simp] theorem refuseKey_lanes (k : Nat) (s : State) : (refuseKey k s).lanes = s.lanes := by
  obtain ⟨_, _, h⟩ := refuseKey_eq k s; rw [h]
@[simp] theorem refuseKey_eng (k : Nat) (s : State) : (refuseKey k s).eng = s.eng := by
  obtain ⟨_, _, h⟩ := refuseKey_eq k s; rw [h]
@[simp] theorem refuseKey_gens (k : Nat) (s : State) : (refuseKey k s).gens = s.gens := by
  obtain ⟨_, _, h⟩ := refuseKey_eq k s; rw [h]
@[simp] theorem refuseKey_capMem (k : Nat) (s : State) : (refuseKey k s).capMem = s.capMem := by
  obtain ⟨_, _, h⟩ := refuseKey_eq k s; rw [h]
@[simp] theorem refuseKey_rings (k : Nat) (s : State) : (refuseKey k s).rings = s.rings := by
  obtain ⟨_, _, h⟩ := refuseKey_eq k s; rw [h]
@[simp] theorem refuseKey_grids (k : Nat) (s : State) : (refuseKey k s).grids = s.grids := by
  obtain ⟨_, _, h⟩ := refuseKey_eq k s; rw [h]
@[simp] theorem refuseKey_isl (k : Nat) (s : State) : (refuseKey k s).isl = s.isl := by
  obtain ⟨_, _, h⟩ := refuseKey_eq k s; rw [h]
@[simp] theorem refuseKey_trackers (k : Nat) (s : State) : (refuseKey k s).trackers = s.trackers := by
  obtain ⟨_, _, h⟩ := refuseKey_eq k s; rw [h]
@[simp] theorem refuseKey_sweep (k : Nat) (s : State) : (refuseKey k s).sweep = s.sweep := by
  obtain ⟨_, _, h⟩ := refuseKey_eq k s; rw [h]
@[simp] theorem refuseKey_rails (k : Nat) (s : State) : (refuseKey k s).rails = s.rails := by
  obtain ⟨_, _, h⟩ := refuseKey_eq k s; rw [h]
@[simp] theorem refuseKey_cmdPorts (k : Nat) (s : State) : (refuseKey k s).cmdPorts = s.cmdPorts := by
  obtain ⟨_, _, h⟩ := refuseKey_eq k s; rw [h]
@[simp] theorem refuseKey_monument (k : Nat) (s : State) : (refuseKey k s).monument = s.monument := by
  obtain ⟨_, _, h⟩ := refuseKey_eq k s; rw [h]
@[simp] theorem refuseKey_meters (k : Nat) (s : State) : (refuseKey k s).meters = s.meters := by
  obtain ⟨_, _, h⟩ := refuseKey_eq k s; rw [h]
@[simp] theorem refuseKey_cluster (k : Nat) (s : State) : (refuseKey k s).cluster = s.cluster := by
  obtain ⟨_, _, h⟩ := refuseKey_eq k s; rw [h]
@[simp] theorem refuseKey_nvm (k : Nat) (s : State) : (refuseKey k s).nvm = s.nvm := by
  obtain ⟨_, _, h⟩ := refuseKey_eq k s; rw [h]
@[simp] theorem refuseKey_dbg (k : Nat) (s : State) : (refuseKey k s).dbg = s.dbg := by
  obtain ⟨_, _, h⟩ := refuseKey_eq k s; rw [h]
@[simp] theorem refuseKey_upd (k : Nat) (s : State) : (refuseKey k s).upd = s.upd := by
  obtain ⟨_, _, h⟩ := refuseKey_eq k s; rw [h]
@[simp] theorem refuseKey_gio (k : Nat) (s : State) : (refuseKey k s).gio = s.gio := by
  obtain ⟨_, _, h⟩ := refuseKey_eq k s; rw [h]

@[simp] theorem logIt_now (p c : Nat) (l : List Word) (s : State) : (logIt p c l s).now = s.now := rfl
@[simp] theorem logIt_frees (p c : Nat) (l : List Word) (s : State) : (logIt p c l s).frees = s.frees := rfl
@[simp] theorem logIt_pending (p c : Nat) (l : List Word) (s : State) : (logIt p c l s).pending = s.pending := rfl
@[simp] theorem logIt_regs (p c : Nat) (l : List Word) (s : State) : (logIt p c l s).regs = s.regs := rfl
@[simp] theorem logIt_act (p c : Nat) (l : List Word) (s : State) : (logIt p c l s).act = s.act := rfl
@[simp] theorem logIt_bus (p c : Nat) (l : List Word) (s : State) : (logIt p c l s).bus = s.bus := rfl
@[simp] theorem logIt_mem (p c : Nat) (l : List Word) (s : State) : (logIt p c l s).mem = s.mem := rfl
@[simp] theorem logIt_pwr (p c : Nat) (l : List Word) (s : State) : (logIt p c l s).pwr = s.pwr := rfl
@[simp] theorem logIt_clk (p c : Nat) (l : List Word) (s : State) : (logIt p c l s).clk = s.clk := rfl
@[simp] theorem logIt_therm (p c : Nat) (l : List Word) (s : State) : (logIt p c l s).therm = s.therm := rfl
@[simp] theorem logIt_valley (p c : Nat) (l : List Word) (s : State) : (logIt p c l s).valley = s.valley := rfl
@[simp] theorem logIt_plumb (p c : Nat) (l : List Word) (s : State) : (logIt p c l s).plumb = s.plumb := rfl
@[simp] theorem logIt_sins (p c : Nat) (l : List Word) (s : State) : (logIt p c l s).sins = s.sins := rfl
@[simp] theorem logIt_scans (p c : Nat) (l : List Word) (s : State) : (logIt p c l s).scans = s.scans := rfl
@[simp] theorem logIt_scanConvs (p c : Nat) (l : List Word) (s : State) : (logIt p c l s).scanConvs = s.scanConvs := rfl
@[simp] theorem logIt_souts (p c : Nat) (l : List Word) (s : State) : (logIt p c l s).souts = s.souts := rfl
@[simp] theorem logIt_conns (p c : Nat) (l : List Word) (s : State) : (logIt p c l s).conns = s.conns := rfl
@[simp] theorem logIt_pw (p c : Nat) (l : List Word) (s : State) : (logIt p c l s).pw = s.pw := rfl
@[simp] theorem logIt_fb (p c : Nat) (l : List Word) (s : State) : (logIt p c l s).fb = s.fb := rfl
@[simp] theorem logIt_evr (p c : Nat) (l : List Word) (s : State) : (logIt p c l s).evr = s.evr := rfl
@[simp] theorem logIt_doms (p c : Nat) (l : List Word) (s : State) : (logIt p c l s).doms = s.doms := rfl
@[simp] theorem logIt_grps (p c : Nat) (l : List Word) (s : State) : (logIt p c l s).grps = s.grps := rfl
@[simp] theorem logIt_legs (p c : Nat) (l : List Word) (s : State) : (logIt p c l s).legs = s.legs := rfl
@[simp] theorem logIt_holds (p c : Nat) (l : List Word) (s : State) : (logIt p c l s).holds = s.holds := rfl
@[simp] theorem logIt_trips (p c : Nat) (l : List Word) (s : State) : (logIt p c l s).trips = s.trips := rfl
@[simp] theorem logIt_sets (p c : Nat) (l : List Word) (s : State) : (logIt p c l s).sets = s.sets := rfl
@[simp] theorem logIt_mons (p c : Nat) (l : List Word) (s : State) : (logIt p c l s).mons = s.mons := rfl
@[simp] theorem logIt_phases (p c : Nat) (l : List Word) (s : State) : (logIt p c l s).phases = s.phases := rfl
@[simp] theorem logIt_drvs (p c : Nat) (l : List Word) (s : State) : (logIt p c l s).drvs = s.drvs := rfl
@[simp] theorem logIt_datum (p c : Nat) (l : List Word) (s : State) : (logIt p c l s).datum = s.datum := rfl
@[simp] theorem logIt_pair (p c : Nat) (l : List Word) (s : State) : (logIt p c l s).pair = s.pair := rfl
@[simp] theorem logIt_adcs (p c : Nat) (l : List Word) (s : State) : (logIt p c l s).adcs = s.adcs := rfl
@[simp] theorem logIt_lanes (p c : Nat) (l : List Word) (s : State) : (logIt p c l s).lanes = s.lanes := rfl
@[simp] theorem logIt_eng (p c : Nat) (l : List Word) (s : State) : (logIt p c l s).eng = s.eng := rfl
@[simp] theorem logIt_gens (p c : Nat) (l : List Word) (s : State) : (logIt p c l s).gens = s.gens := rfl
@[simp] theorem logIt_capMem (p c : Nat) (l : List Word) (s : State) : (logIt p c l s).capMem = s.capMem := rfl
@[simp] theorem logIt_rings (p c : Nat) (l : List Word) (s : State) : (logIt p c l s).rings = s.rings := rfl
@[simp] theorem logIt_grids (p c : Nat) (l : List Word) (s : State) : (logIt p c l s).grids = s.grids := rfl
@[simp] theorem logIt_isl (p c : Nat) (l : List Word) (s : State) : (logIt p c l s).isl = s.isl := rfl
@[simp] theorem logIt_trackers (p c : Nat) (l : List Word) (s : State) : (logIt p c l s).trackers = s.trackers := rfl
@[simp] theorem logIt_sweep (p c : Nat) (l : List Word) (s : State) : (logIt p c l s).sweep = s.sweep := rfl
@[simp] theorem logIt_rails (p c : Nat) (l : List Word) (s : State) : (logIt p c l s).rails = s.rails := rfl
@[simp] theorem logIt_cmdPorts (p c : Nat) (l : List Word) (s : State) : (logIt p c l s).cmdPorts = s.cmdPorts := rfl
@[simp] theorem logIt_monument (p c : Nat) (l : List Word) (s : State) : (logIt p c l s).monument = s.monument := rfl
@[simp] theorem logIt_meters (p c : Nat) (l : List Word) (s : State) : (logIt p c l s).meters = s.meters := rfl
@[simp] theorem logIt_cluster (p c : Nat) (l : List Word) (s : State) : (logIt p c l s).cluster = s.cluster := rfl
@[simp] theorem logIt_nvm (p c : Nat) (l : List Word) (s : State) : (logIt p c l s).nvm = s.nvm := rfl
@[simp] theorem logIt_dbg (p c : Nat) (l : List Word) (s : State) : (logIt p c l s).dbg = s.dbg := rfl
@[simp] theorem logIt_upd (p c : Nat) (l : List Word) (s : State) : (logIt p c l s).upd = s.upd := rfl
@[simp] theorem logIt_gio (p c : Nat) (l : List Word) (s : State) : (logIt p c l s).gio = s.gio := rfl

@[simp] theorem logHap_now (p : Nat) (s : State) : (logHap p s).now = s.now := rfl
@[simp] theorem logHap_pending (p : Nat) (s : State) : (logHap p s).pending = s.pending := rfl
@[simp] theorem logHap_regs (p : Nat) (s : State) : (logHap p s).regs = s.regs := rfl
@[simp] theorem logHap_act (p : Nat) (s : State) : (logHap p s).act = s.act := rfl
@[simp] theorem logHap_bus (p : Nat) (s : State) : (logHap p s).bus = s.bus := rfl
@[simp] theorem logHap_mem (p : Nat) (s : State) : (logHap p s).mem = s.mem := rfl
@[simp] theorem logHap_pwr (p : Nat) (s : State) : (logHap p s).pwr = s.pwr := rfl
@[simp] theorem logHap_clk (p : Nat) (s : State) : (logHap p s).clk = s.clk := rfl
@[simp] theorem logHap_therm (p : Nat) (s : State) : (logHap p s).therm = s.therm := rfl
@[simp] theorem logHap_valley (p : Nat) (s : State) : (logHap p s).valley = s.valley := rfl
@[simp] theorem logHap_plumb (p : Nat) (s : State) : (logHap p s).plumb = s.plumb := rfl
@[simp] theorem logHap_sins (p : Nat) (s : State) : (logHap p s).sins = s.sins := rfl
@[simp] theorem logHap_scans (p : Nat) (s : State) : (logHap p s).scans = s.scans := rfl
@[simp] theorem logHap_scanConvs (p : Nat) (s : State) : (logHap p s).scanConvs = s.scanConvs := rfl
@[simp] theorem logHap_souts (p : Nat) (s : State) : (logHap p s).souts = s.souts := rfl
@[simp] theorem logHap_conns (p : Nat) (s : State) : (logHap p s).conns = s.conns := rfl
@[simp] theorem logHap_pw (p : Nat) (s : State) : (logHap p s).pw = s.pw := rfl
@[simp] theorem logHap_fb (p : Nat) (s : State) : (logHap p s).fb = s.fb := rfl
@[simp] theorem logHap_evr (p : Nat) (s : State) : (logHap p s).evr = s.evr := rfl
@[simp] theorem logHap_doms (p : Nat) (s : State) : (logHap p s).doms = s.doms := rfl
@[simp] theorem logHap_grps (p : Nat) (s : State) : (logHap p s).grps = s.grps := rfl
@[simp] theorem logHap_legs (p : Nat) (s : State) : (logHap p s).legs = s.legs := rfl
@[simp] theorem logHap_holds (p : Nat) (s : State) : (logHap p s).holds = s.holds := rfl
@[simp] theorem logHap_trips (p : Nat) (s : State) : (logHap p s).trips = s.trips := rfl
@[simp] theorem logHap_sets (p : Nat) (s : State) : (logHap p s).sets = s.sets := rfl
@[simp] theorem logHap_mons (p : Nat) (s : State) : (logHap p s).mons = s.mons := rfl
@[simp] theorem logHap_phases (p : Nat) (s : State) : (logHap p s).phases = s.phases := rfl
@[simp] theorem logHap_drvs (p : Nat) (s : State) : (logHap p s).drvs = s.drvs := rfl
@[simp] theorem logHap_datum (p : Nat) (s : State) : (logHap p s).datum = s.datum := rfl
@[simp] theorem logHap_pair (p : Nat) (s : State) : (logHap p s).pair = s.pair := rfl
@[simp] theorem logHap_adcs (p : Nat) (s : State) : (logHap p s).adcs = s.adcs := rfl
@[simp] theorem logHap_lanes (p : Nat) (s : State) : (logHap p s).lanes = s.lanes := rfl
@[simp] theorem logHap_eng (p : Nat) (s : State) : (logHap p s).eng = s.eng := rfl
@[simp] theorem logHap_gens (p : Nat) (s : State) : (logHap p s).gens = s.gens := rfl
@[simp] theorem logHap_capMem (p : Nat) (s : State) : (logHap p s).capMem = s.capMem := rfl
@[simp] theorem logHap_rings (p : Nat) (s : State) : (logHap p s).rings = s.rings := rfl
@[simp] theorem logHap_grids (p : Nat) (s : State) : (logHap p s).grids = s.grids := rfl
@[simp] theorem logHap_isl (p : Nat) (s : State) : (logHap p s).isl = s.isl := rfl
@[simp] theorem logHap_trackers (p : Nat) (s : State) : (logHap p s).trackers = s.trackers := rfl
@[simp] theorem logHap_sweep (p : Nat) (s : State) : (logHap p s).sweep = s.sweep := rfl
@[simp] theorem logHap_rails (p : Nat) (s : State) : (logHap p s).rails = s.rails := rfl
@[simp] theorem logHap_cmdPorts (p : Nat) (s : State) : (logHap p s).cmdPorts = s.cmdPorts := rfl
@[simp] theorem logHap_monument (p : Nat) (s : State) : (logHap p s).monument = s.monument := rfl
@[simp] theorem logHap_meters (p : Nat) (s : State) : (logHap p s).meters = s.meters := rfl
@[simp] theorem logHap_cluster (p : Nat) (s : State) : (logHap p s).cluster = s.cluster := rfl
@[simp] theorem logHap_nvm (p : Nat) (s : State) : (logHap p s).nvm = s.nvm := rfl
@[simp] theorem logHap_dbg (p : Nat) (s : State) : (logHap p s).dbg = s.dbg := rfl
@[simp] theorem logHap_upd (p : Nat) (s : State) : (logHap p s).upd = s.upd := rfl
@[simp] theorem logHap_gio (p : Nat) (s : State) : (logHap p s).gio = s.gio := rfl

/-- All that `placeEntry` changes. -/
theorem placeEntry_eq (e : FbEnt) (s : State) : ∃ r v f, (placeEntry e s) = { s with regs := r, evr := v, fb := f } := by
  unfold placeEntry; dsimp only; split
  · obtain ⟨_, _, h⟩ := raise_eq .plumb 0 9 { s with fb := { s.fb with staging := s.fb.staging ++ [e] } }
    rw [h]; exact ⟨_, _, _, rfl⟩
  · exact ⟨_, _, _, rfl⟩
@[simp] theorem placeEntry_now (e : FbEnt) (s : State) : (placeEntry e s).now = s.now := by
  obtain ⟨_, _, _, h⟩ := placeEntry_eq e s; rw [h]
@[simp] theorem placeEntry_frees (e : FbEnt) (s : State) : (placeEntry e s).frees = s.frees := by
  obtain ⟨_, _, _, h⟩ := placeEntry_eq e s; rw [h]
@[simp] theorem placeEntry_pending (e : FbEnt) (s : State) : (placeEntry e s).pending = s.pending := by
  obtain ⟨_, _, _, h⟩ := placeEntry_eq e s; rw [h]
@[simp] theorem placeEntry_act (e : FbEnt) (s : State) : (placeEntry e s).act = s.act := by
  obtain ⟨_, _, _, h⟩ := placeEntry_eq e s; rw [h]
@[simp] theorem placeEntry_bus (e : FbEnt) (s : State) : (placeEntry e s).bus = s.bus := by
  obtain ⟨_, _, _, h⟩ := placeEntry_eq e s; rw [h]
@[simp] theorem placeEntry_mem (e : FbEnt) (s : State) : (placeEntry e s).mem = s.mem := by
  obtain ⟨_, _, _, h⟩ := placeEntry_eq e s; rw [h]
@[simp] theorem placeEntry_pwr (e : FbEnt) (s : State) : (placeEntry e s).pwr = s.pwr := by
  obtain ⟨_, _, _, h⟩ := placeEntry_eq e s; rw [h]
@[simp] theorem placeEntry_clk (e : FbEnt) (s : State) : (placeEntry e s).clk = s.clk := by
  obtain ⟨_, _, _, h⟩ := placeEntry_eq e s; rw [h]
@[simp] theorem placeEntry_therm (e : FbEnt) (s : State) : (placeEntry e s).therm = s.therm := by
  obtain ⟨_, _, _, h⟩ := placeEntry_eq e s; rw [h]
@[simp] theorem placeEntry_valley (e : FbEnt) (s : State) : (placeEntry e s).valley = s.valley := by
  obtain ⟨_, _, _, h⟩ := placeEntry_eq e s; rw [h]
@[simp] theorem placeEntry_plumb (e : FbEnt) (s : State) : (placeEntry e s).plumb = s.plumb := by
  obtain ⟨_, _, _, h⟩ := placeEntry_eq e s; rw [h]
@[simp] theorem placeEntry_sins (e : FbEnt) (s : State) : (placeEntry e s).sins = s.sins := by
  obtain ⟨_, _, _, h⟩ := placeEntry_eq e s; rw [h]
@[simp] theorem placeEntry_scans (e : FbEnt) (s : State) : (placeEntry e s).scans = s.scans := by
  obtain ⟨_, _, _, h⟩ := placeEntry_eq e s; rw [h]
@[simp] theorem placeEntry_scanConvs (e : FbEnt) (s : State) : (placeEntry e s).scanConvs = s.scanConvs := by
  obtain ⟨_, _, _, h⟩ := placeEntry_eq e s; rw [h]
@[simp] theorem placeEntry_souts (e : FbEnt) (s : State) : (placeEntry e s).souts = s.souts := by
  obtain ⟨_, _, _, h⟩ := placeEntry_eq e s; rw [h]
@[simp] theorem placeEntry_conns (e : FbEnt) (s : State) : (placeEntry e s).conns = s.conns := by
  obtain ⟨_, _, _, h⟩ := placeEntry_eq e s; rw [h]
@[simp] theorem placeEntry_pw (e : FbEnt) (s : State) : (placeEntry e s).pw = s.pw := by
  obtain ⟨_, _, _, h⟩ := placeEntry_eq e s; rw [h]
@[simp] theorem placeEntry_log (e : FbEnt) (s : State) : (placeEntry e s).log = s.log := by
  obtain ⟨_, _, _, h⟩ := placeEntry_eq e s; rw [h]
@[simp] theorem placeEntry_doms (e : FbEnt) (s : State) : (placeEntry e s).doms = s.doms := by
  obtain ⟨_, _, _, h⟩ := placeEntry_eq e s; rw [h]
@[simp] theorem placeEntry_grps (e : FbEnt) (s : State) : (placeEntry e s).grps = s.grps := by
  obtain ⟨_, _, _, h⟩ := placeEntry_eq e s; rw [h]
@[simp] theorem placeEntry_legs (e : FbEnt) (s : State) : (placeEntry e s).legs = s.legs := by
  obtain ⟨_, _, _, h⟩ := placeEntry_eq e s; rw [h]
@[simp] theorem placeEntry_holds (e : FbEnt) (s : State) : (placeEntry e s).holds = s.holds := by
  obtain ⟨_, _, _, h⟩ := placeEntry_eq e s; rw [h]
@[simp] theorem placeEntry_trips (e : FbEnt) (s : State) : (placeEntry e s).trips = s.trips := by
  obtain ⟨_, _, _, h⟩ := placeEntry_eq e s; rw [h]
@[simp] theorem placeEntry_sets (e : FbEnt) (s : State) : (placeEntry e s).sets = s.sets := by
  obtain ⟨_, _, _, h⟩ := placeEntry_eq e s; rw [h]
@[simp] theorem placeEntry_mons (e : FbEnt) (s : State) : (placeEntry e s).mons = s.mons := by
  obtain ⟨_, _, _, h⟩ := placeEntry_eq e s; rw [h]
@[simp] theorem placeEntry_phases (e : FbEnt) (s : State) : (placeEntry e s).phases = s.phases := by
  obtain ⟨_, _, _, h⟩ := placeEntry_eq e s; rw [h]
@[simp] theorem placeEntry_drvs (e : FbEnt) (s : State) : (placeEntry e s).drvs = s.drvs := by
  obtain ⟨_, _, _, h⟩ := placeEntry_eq e s; rw [h]
@[simp] theorem placeEntry_datum (e : FbEnt) (s : State) : (placeEntry e s).datum = s.datum := by
  obtain ⟨_, _, _, h⟩ := placeEntry_eq e s; rw [h]
@[simp] theorem placeEntry_pair (e : FbEnt) (s : State) : (placeEntry e s).pair = s.pair := by
  obtain ⟨_, _, _, h⟩ := placeEntry_eq e s; rw [h]
@[simp] theorem placeEntry_adcs (e : FbEnt) (s : State) : (placeEntry e s).adcs = s.adcs := by
  obtain ⟨_, _, _, h⟩ := placeEntry_eq e s; rw [h]
@[simp] theorem placeEntry_lanes (e : FbEnt) (s : State) : (placeEntry e s).lanes = s.lanes := by
  obtain ⟨_, _, _, h⟩ := placeEntry_eq e s; rw [h]
@[simp] theorem placeEntry_eng (e : FbEnt) (s : State) : (placeEntry e s).eng = s.eng := by
  obtain ⟨_, _, _, h⟩ := placeEntry_eq e s; rw [h]
@[simp] theorem placeEntry_gens (e : FbEnt) (s : State) : (placeEntry e s).gens = s.gens := by
  obtain ⟨_, _, _, h⟩ := placeEntry_eq e s; rw [h]
@[simp] theorem placeEntry_capMem (e : FbEnt) (s : State) : (placeEntry e s).capMem = s.capMem := by
  obtain ⟨_, _, _, h⟩ := placeEntry_eq e s; rw [h]
@[simp] theorem placeEntry_rings (e : FbEnt) (s : State) : (placeEntry e s).rings = s.rings := by
  obtain ⟨_, _, _, h⟩ := placeEntry_eq e s; rw [h]
@[simp] theorem placeEntry_grids (e : FbEnt) (s : State) : (placeEntry e s).grids = s.grids := by
  obtain ⟨_, _, _, h⟩ := placeEntry_eq e s; rw [h]
@[simp] theorem placeEntry_isl (e : FbEnt) (s : State) : (placeEntry e s).isl = s.isl := by
  obtain ⟨_, _, _, h⟩ := placeEntry_eq e s; rw [h]
@[simp] theorem placeEntry_trackers (e : FbEnt) (s : State) : (placeEntry e s).trackers = s.trackers := by
  obtain ⟨_, _, _, h⟩ := placeEntry_eq e s; rw [h]
@[simp] theorem placeEntry_sweep (e : FbEnt) (s : State) : (placeEntry e s).sweep = s.sweep := by
  obtain ⟨_, _, _, h⟩ := placeEntry_eq e s; rw [h]
@[simp] theorem placeEntry_rails (e : FbEnt) (s : State) : (placeEntry e s).rails = s.rails := by
  obtain ⟨_, _, _, h⟩ := placeEntry_eq e s; rw [h]
@[simp] theorem placeEntry_cmdPorts (e : FbEnt) (s : State) : (placeEntry e s).cmdPorts = s.cmdPorts := by
  obtain ⟨_, _, _, h⟩ := placeEntry_eq e s; rw [h]
@[simp] theorem placeEntry_monument (e : FbEnt) (s : State) : (placeEntry e s).monument = s.monument := by
  obtain ⟨_, _, _, h⟩ := placeEntry_eq e s; rw [h]
@[simp] theorem placeEntry_meters (e : FbEnt) (s : State) : (placeEntry e s).meters = s.meters := by
  obtain ⟨_, _, _, h⟩ := placeEntry_eq e s; rw [h]
@[simp] theorem placeEntry_cluster (e : FbEnt) (s : State) : (placeEntry e s).cluster = s.cluster := by
  obtain ⟨_, _, _, h⟩ := placeEntry_eq e s; rw [h]
@[simp] theorem placeEntry_nvm (e : FbEnt) (s : State) : (placeEntry e s).nvm = s.nvm := by
  obtain ⟨_, _, _, h⟩ := placeEntry_eq e s; rw [h]
@[simp] theorem placeEntry_dbg (e : FbEnt) (s : State) : (placeEntry e s).dbg = s.dbg := by
  obtain ⟨_, _, _, h⟩ := placeEntry_eq e s; rw [h]
@[simp] theorem placeEntry_upd (e : FbEnt) (s : State) : (placeEntry e s).upd = s.upd := by
  obtain ⟨_, _, _, h⟩ := placeEntry_eq e s; rw [h]
@[simp] theorem placeEntry_gio (e : FbEnt) (s : State) : (placeEntry e s).gio = s.gio := by
  obtain ⟨_, _, _, h⟩ := placeEntry_eq e s; rw [h]

/-- All that `bookRequested` changes. -/
theorem bookRequested_eq (kind page off master : Nat) (old new : Word) (s : State) : ∃ r v f, (bookRequested kind page off master old new s) = { s with regs := r, evr := v, fb := f } := by
  unfold bookRequested; dsimp only
  obtain ⟨_, _, _, h⟩ := placeEntry_eq (formEntry kind page off master old new s) { s with fb := { s.fb with seq := (s.fb.seq + 1) % 2 ^ 32 } }
  rw [h]; exact ⟨_, _, _, rfl⟩
@[simp] theorem bookRequested_now (kind page off master : Nat) (old new : Word) (s : State) : (bookRequested kind page off master old new s).now = s.now := by
  obtain ⟨_, _, _, h⟩ := bookRequested_eq kind page off master old new s; rw [h]
@[simp] theorem bookRequested_frees (kind page off master : Nat) (old new : Word) (s : State) : (bookRequested kind page off master old new s).frees = s.frees := by
  obtain ⟨_, _, _, h⟩ := bookRequested_eq kind page off master old new s; rw [h]
@[simp] theorem bookRequested_pending (kind page off master : Nat) (old new : Word) (s : State) : (bookRequested kind page off master old new s).pending = s.pending := by
  obtain ⟨_, _, _, h⟩ := bookRequested_eq kind page off master old new s; rw [h]
@[simp] theorem bookRequested_act (kind page off master : Nat) (old new : Word) (s : State) : (bookRequested kind page off master old new s).act = s.act := by
  obtain ⟨_, _, _, h⟩ := bookRequested_eq kind page off master old new s; rw [h]
@[simp] theorem bookRequested_bus (kind page off master : Nat) (old new : Word) (s : State) : (bookRequested kind page off master old new s).bus = s.bus := by
  obtain ⟨_, _, _, h⟩ := bookRequested_eq kind page off master old new s; rw [h]
@[simp] theorem bookRequested_mem (kind page off master : Nat) (old new : Word) (s : State) : (bookRequested kind page off master old new s).mem = s.mem := by
  obtain ⟨_, _, _, h⟩ := bookRequested_eq kind page off master old new s; rw [h]
@[simp] theorem bookRequested_pwr (kind page off master : Nat) (old new : Word) (s : State) : (bookRequested kind page off master old new s).pwr = s.pwr := by
  obtain ⟨_, _, _, h⟩ := bookRequested_eq kind page off master old new s; rw [h]
@[simp] theorem bookRequested_clk (kind page off master : Nat) (old new : Word) (s : State) : (bookRequested kind page off master old new s).clk = s.clk := by
  obtain ⟨_, _, _, h⟩ := bookRequested_eq kind page off master old new s; rw [h]
@[simp] theorem bookRequested_therm (kind page off master : Nat) (old new : Word) (s : State) : (bookRequested kind page off master old new s).therm = s.therm := by
  obtain ⟨_, _, _, h⟩ := bookRequested_eq kind page off master old new s; rw [h]
@[simp] theorem bookRequested_valley (kind page off master : Nat) (old new : Word) (s : State) : (bookRequested kind page off master old new s).valley = s.valley := by
  obtain ⟨_, _, _, h⟩ := bookRequested_eq kind page off master old new s; rw [h]
@[simp] theorem bookRequested_plumb (kind page off master : Nat) (old new : Word) (s : State) : (bookRequested kind page off master old new s).plumb = s.plumb := by
  obtain ⟨_, _, _, h⟩ := bookRequested_eq kind page off master old new s; rw [h]
@[simp] theorem bookRequested_sins (kind page off master : Nat) (old new : Word) (s : State) : (bookRequested kind page off master old new s).sins = s.sins := by
  obtain ⟨_, _, _, h⟩ := bookRequested_eq kind page off master old new s; rw [h]
@[simp] theorem bookRequested_scans (kind page off master : Nat) (old new : Word) (s : State) : (bookRequested kind page off master old new s).scans = s.scans := by
  obtain ⟨_, _, _, h⟩ := bookRequested_eq kind page off master old new s; rw [h]
@[simp] theorem bookRequested_scanConvs (kind page off master : Nat) (old new : Word) (s : State) : (bookRequested kind page off master old new s).scanConvs = s.scanConvs := by
  obtain ⟨_, _, _, h⟩ := bookRequested_eq kind page off master old new s; rw [h]
@[simp] theorem bookRequested_souts (kind page off master : Nat) (old new : Word) (s : State) : (bookRequested kind page off master old new s).souts = s.souts := by
  obtain ⟨_, _, _, h⟩ := bookRequested_eq kind page off master old new s; rw [h]
@[simp] theorem bookRequested_conns (kind page off master : Nat) (old new : Word) (s : State) : (bookRequested kind page off master old new s).conns = s.conns := by
  obtain ⟨_, _, _, h⟩ := bookRequested_eq kind page off master old new s; rw [h]
@[simp] theorem bookRequested_pw (kind page off master : Nat) (old new : Word) (s : State) : (bookRequested kind page off master old new s).pw = s.pw := by
  obtain ⟨_, _, _, h⟩ := bookRequested_eq kind page off master old new s; rw [h]
@[simp] theorem bookRequested_log (kind page off master : Nat) (old new : Word) (s : State) : (bookRequested kind page off master old new s).log = s.log := by
  obtain ⟨_, _, _, h⟩ := bookRequested_eq kind page off master old new s; rw [h]
@[simp] theorem bookRequested_doms (kind page off master : Nat) (old new : Word) (s : State) : (bookRequested kind page off master old new s).doms = s.doms := by
  obtain ⟨_, _, _, h⟩ := bookRequested_eq kind page off master old new s; rw [h]
@[simp] theorem bookRequested_grps (kind page off master : Nat) (old new : Word) (s : State) : (bookRequested kind page off master old new s).grps = s.grps := by
  obtain ⟨_, _, _, h⟩ := bookRequested_eq kind page off master old new s; rw [h]
@[simp] theorem bookRequested_legs (kind page off master : Nat) (old new : Word) (s : State) : (bookRequested kind page off master old new s).legs = s.legs := by
  obtain ⟨_, _, _, h⟩ := bookRequested_eq kind page off master old new s; rw [h]
@[simp] theorem bookRequested_holds (kind page off master : Nat) (old new : Word) (s : State) : (bookRequested kind page off master old new s).holds = s.holds := by
  obtain ⟨_, _, _, h⟩ := bookRequested_eq kind page off master old new s; rw [h]
@[simp] theorem bookRequested_trips (kind page off master : Nat) (old new : Word) (s : State) : (bookRequested kind page off master old new s).trips = s.trips := by
  obtain ⟨_, _, _, h⟩ := bookRequested_eq kind page off master old new s; rw [h]
@[simp] theorem bookRequested_sets (kind page off master : Nat) (old new : Word) (s : State) : (bookRequested kind page off master old new s).sets = s.sets := by
  obtain ⟨_, _, _, h⟩ := bookRequested_eq kind page off master old new s; rw [h]
@[simp] theorem bookRequested_mons (kind page off master : Nat) (old new : Word) (s : State) : (bookRequested kind page off master old new s).mons = s.mons := by
  obtain ⟨_, _, _, h⟩ := bookRequested_eq kind page off master old new s; rw [h]
@[simp] theorem bookRequested_phases (kind page off master : Nat) (old new : Word) (s : State) : (bookRequested kind page off master old new s).phases = s.phases := by
  obtain ⟨_, _, _, h⟩ := bookRequested_eq kind page off master old new s; rw [h]
@[simp] theorem bookRequested_drvs (kind page off master : Nat) (old new : Word) (s : State) : (bookRequested kind page off master old new s).drvs = s.drvs := by
  obtain ⟨_, _, _, h⟩ := bookRequested_eq kind page off master old new s; rw [h]
@[simp] theorem bookRequested_datum (kind page off master : Nat) (old new : Word) (s : State) : (bookRequested kind page off master old new s).datum = s.datum := by
  obtain ⟨_, _, _, h⟩ := bookRequested_eq kind page off master old new s; rw [h]
@[simp] theorem bookRequested_pair (kind page off master : Nat) (old new : Word) (s : State) : (bookRequested kind page off master old new s).pair = s.pair := by
  obtain ⟨_, _, _, h⟩ := bookRequested_eq kind page off master old new s; rw [h]
@[simp] theorem bookRequested_adcs (kind page off master : Nat) (old new : Word) (s : State) : (bookRequested kind page off master old new s).adcs = s.adcs := by
  obtain ⟨_, _, _, h⟩ := bookRequested_eq kind page off master old new s; rw [h]
@[simp] theorem bookRequested_lanes (kind page off master : Nat) (old new : Word) (s : State) : (bookRequested kind page off master old new s).lanes = s.lanes := by
  obtain ⟨_, _, _, h⟩ := bookRequested_eq kind page off master old new s; rw [h]
@[simp] theorem bookRequested_eng (kind page off master : Nat) (old new : Word) (s : State) : (bookRequested kind page off master old new s).eng = s.eng := by
  obtain ⟨_, _, _, h⟩ := bookRequested_eq kind page off master old new s; rw [h]
@[simp] theorem bookRequested_gens (kind page off master : Nat) (old new : Word) (s : State) : (bookRequested kind page off master old new s).gens = s.gens := by
  obtain ⟨_, _, _, h⟩ := bookRequested_eq kind page off master old new s; rw [h]
@[simp] theorem bookRequested_capMem (kind page off master : Nat) (old new : Word) (s : State) : (bookRequested kind page off master old new s).capMem = s.capMem := by
  obtain ⟨_, _, _, h⟩ := bookRequested_eq kind page off master old new s; rw [h]
@[simp] theorem bookRequested_rings (kind page off master : Nat) (old new : Word) (s : State) : (bookRequested kind page off master old new s).rings = s.rings := by
  obtain ⟨_, _, _, h⟩ := bookRequested_eq kind page off master old new s; rw [h]
@[simp] theorem bookRequested_grids (kind page off master : Nat) (old new : Word) (s : State) : (bookRequested kind page off master old new s).grids = s.grids := by
  obtain ⟨_, _, _, h⟩ := bookRequested_eq kind page off master old new s; rw [h]
@[simp] theorem bookRequested_isl (kind page off master : Nat) (old new : Word) (s : State) : (bookRequested kind page off master old new s).isl = s.isl := by
  obtain ⟨_, _, _, h⟩ := bookRequested_eq kind page off master old new s; rw [h]
@[simp] theorem bookRequested_trackers (kind page off master : Nat) (old new : Word) (s : State) : (bookRequested kind page off master old new s).trackers = s.trackers := by
  obtain ⟨_, _, _, h⟩ := bookRequested_eq kind page off master old new s; rw [h]
@[simp] theorem bookRequested_sweep (kind page off master : Nat) (old new : Word) (s : State) : (bookRequested kind page off master old new s).sweep = s.sweep := by
  obtain ⟨_, _, _, h⟩ := bookRequested_eq kind page off master old new s; rw [h]
@[simp] theorem bookRequested_rails (kind page off master : Nat) (old new : Word) (s : State) : (bookRequested kind page off master old new s).rails = s.rails := by
  obtain ⟨_, _, _, h⟩ := bookRequested_eq kind page off master old new s; rw [h]
@[simp] theorem bookRequested_cmdPorts (kind page off master : Nat) (old new : Word) (s : State) : (bookRequested kind page off master old new s).cmdPorts = s.cmdPorts := by
  obtain ⟨_, _, _, h⟩ := bookRequested_eq kind page off master old new s; rw [h]
@[simp] theorem bookRequested_monument (kind page off master : Nat) (old new : Word) (s : State) : (bookRequested kind page off master old new s).monument = s.monument := by
  obtain ⟨_, _, _, h⟩ := bookRequested_eq kind page off master old new s; rw [h]
@[simp] theorem bookRequested_meters (kind page off master : Nat) (old new : Word) (s : State) : (bookRequested kind page off master old new s).meters = s.meters := by
  obtain ⟨_, _, _, h⟩ := bookRequested_eq kind page off master old new s; rw [h]
@[simp] theorem bookRequested_cluster (kind page off master : Nat) (old new : Word) (s : State) : (bookRequested kind page off master old new s).cluster = s.cluster := by
  obtain ⟨_, _, _, h⟩ := bookRequested_eq kind page off master old new s; rw [h]
@[simp] theorem bookRequested_nvm (kind page off master : Nat) (old new : Word) (s : State) : (bookRequested kind page off master old new s).nvm = s.nvm := by
  obtain ⟨_, _, _, h⟩ := bookRequested_eq kind page off master old new s; rw [h]
@[simp] theorem bookRequested_dbg (kind page off master : Nat) (old new : Word) (s : State) : (bookRequested kind page off master old new s).dbg = s.dbg := by
  obtain ⟨_, _, _, h⟩ := bookRequested_eq kind page off master old new s; rw [h]
@[simp] theorem bookRequested_upd (kind page off master : Nat) (old new : Word) (s : State) : (bookRequested kind page off master old new s).upd = s.upd := by
  obtain ⟨_, _, _, h⟩ := bookRequested_eq kind page off master old new s; rw [h]
@[simp] theorem bookRequested_gio (kind page off master : Nat) (old new : Word) (s : State) : (bookRequested kind page off master old new s).gio = s.gio := by
  obtain ⟨_, _, _, h⟩ := bookRequested_eq kind page off master old new s; rw [h]

/-- All that `bookAction` changes. -/
theorem bookAction_eq (kind page off master : Nat) (old new : Word) (s : State) : ∃ r v f, (bookAction kind page off master old new s) = { s with regs := r, evr := v, fb := f } := by
  unfold bookAction; dsimp only; repeat' split
  · obtain ⟨_, _, _, h⟩ := placeEntry_eq (formEntry kind page off master old new s) { s with fb := { s.fb with seq := (s.fb.seq + 1) % 2 ^ 32 } }
    rw [h]; exact ⟨_, _, _, rfl⟩
  · exact ⟨_, _, _, rfl⟩
  · exact ⟨_, _, _, rfl⟩
@[simp] theorem bookAction_now (kind page off master : Nat) (old new : Word) (s : State) : (bookAction kind page off master old new s).now = s.now := by
  obtain ⟨_, _, _, h⟩ := bookAction_eq kind page off master old new s; rw [h]
@[simp] theorem bookAction_frees (kind page off master : Nat) (old new : Word) (s : State) : (bookAction kind page off master old new s).frees = s.frees := by
  obtain ⟨_, _, _, h⟩ := bookAction_eq kind page off master old new s; rw [h]
@[simp] theorem bookAction_pending (kind page off master : Nat) (old new : Word) (s : State) : (bookAction kind page off master old new s).pending = s.pending := by
  obtain ⟨_, _, _, h⟩ := bookAction_eq kind page off master old new s; rw [h]
@[simp] theorem bookAction_act (kind page off master : Nat) (old new : Word) (s : State) : (bookAction kind page off master old new s).act = s.act := by
  obtain ⟨_, _, _, h⟩ := bookAction_eq kind page off master old new s; rw [h]
@[simp] theorem bookAction_bus (kind page off master : Nat) (old new : Word) (s : State) : (bookAction kind page off master old new s).bus = s.bus := by
  obtain ⟨_, _, _, h⟩ := bookAction_eq kind page off master old new s; rw [h]
@[simp] theorem bookAction_mem (kind page off master : Nat) (old new : Word) (s : State) : (bookAction kind page off master old new s).mem = s.mem := by
  obtain ⟨_, _, _, h⟩ := bookAction_eq kind page off master old new s; rw [h]
@[simp] theorem bookAction_pwr (kind page off master : Nat) (old new : Word) (s : State) : (bookAction kind page off master old new s).pwr = s.pwr := by
  obtain ⟨_, _, _, h⟩ := bookAction_eq kind page off master old new s; rw [h]
@[simp] theorem bookAction_clk (kind page off master : Nat) (old new : Word) (s : State) : (bookAction kind page off master old new s).clk = s.clk := by
  obtain ⟨_, _, _, h⟩ := bookAction_eq kind page off master old new s; rw [h]
@[simp] theorem bookAction_therm (kind page off master : Nat) (old new : Word) (s : State) : (bookAction kind page off master old new s).therm = s.therm := by
  obtain ⟨_, _, _, h⟩ := bookAction_eq kind page off master old new s; rw [h]
@[simp] theorem bookAction_valley (kind page off master : Nat) (old new : Word) (s : State) : (bookAction kind page off master old new s).valley = s.valley := by
  obtain ⟨_, _, _, h⟩ := bookAction_eq kind page off master old new s; rw [h]
@[simp] theorem bookAction_plumb (kind page off master : Nat) (old new : Word) (s : State) : (bookAction kind page off master old new s).plumb = s.plumb := by
  obtain ⟨_, _, _, h⟩ := bookAction_eq kind page off master old new s; rw [h]
@[simp] theorem bookAction_sins (kind page off master : Nat) (old new : Word) (s : State) : (bookAction kind page off master old new s).sins = s.sins := by
  obtain ⟨_, _, _, h⟩ := bookAction_eq kind page off master old new s; rw [h]
@[simp] theorem bookAction_scans (kind page off master : Nat) (old new : Word) (s : State) : (bookAction kind page off master old new s).scans = s.scans := by
  obtain ⟨_, _, _, h⟩ := bookAction_eq kind page off master old new s; rw [h]
@[simp] theorem bookAction_scanConvs (kind page off master : Nat) (old new : Word) (s : State) : (bookAction kind page off master old new s).scanConvs = s.scanConvs := by
  obtain ⟨_, _, _, h⟩ := bookAction_eq kind page off master old new s; rw [h]
@[simp] theorem bookAction_souts (kind page off master : Nat) (old new : Word) (s : State) : (bookAction kind page off master old new s).souts = s.souts := by
  obtain ⟨_, _, _, h⟩ := bookAction_eq kind page off master old new s; rw [h]
@[simp] theorem bookAction_conns (kind page off master : Nat) (old new : Word) (s : State) : (bookAction kind page off master old new s).conns = s.conns := by
  obtain ⟨_, _, _, h⟩ := bookAction_eq kind page off master old new s; rw [h]
@[simp] theorem bookAction_pw (kind page off master : Nat) (old new : Word) (s : State) : (bookAction kind page off master old new s).pw = s.pw := by
  obtain ⟨_, _, _, h⟩ := bookAction_eq kind page off master old new s; rw [h]
@[simp] theorem bookAction_log (kind page off master : Nat) (old new : Word) (s : State) : (bookAction kind page off master old new s).log = s.log := by
  obtain ⟨_, _, _, h⟩ := bookAction_eq kind page off master old new s; rw [h]
@[simp] theorem bookAction_doms (kind page off master : Nat) (old new : Word) (s : State) : (bookAction kind page off master old new s).doms = s.doms := by
  obtain ⟨_, _, _, h⟩ := bookAction_eq kind page off master old new s; rw [h]
@[simp] theorem bookAction_grps (kind page off master : Nat) (old new : Word) (s : State) : (bookAction kind page off master old new s).grps = s.grps := by
  obtain ⟨_, _, _, h⟩ := bookAction_eq kind page off master old new s; rw [h]
@[simp] theorem bookAction_legs (kind page off master : Nat) (old new : Word) (s : State) : (bookAction kind page off master old new s).legs = s.legs := by
  obtain ⟨_, _, _, h⟩ := bookAction_eq kind page off master old new s; rw [h]
@[simp] theorem bookAction_holds (kind page off master : Nat) (old new : Word) (s : State) : (bookAction kind page off master old new s).holds = s.holds := by
  obtain ⟨_, _, _, h⟩ := bookAction_eq kind page off master old new s; rw [h]
@[simp] theorem bookAction_trips (kind page off master : Nat) (old new : Word) (s : State) : (bookAction kind page off master old new s).trips = s.trips := by
  obtain ⟨_, _, _, h⟩ := bookAction_eq kind page off master old new s; rw [h]
@[simp] theorem bookAction_sets (kind page off master : Nat) (old new : Word) (s : State) : (bookAction kind page off master old new s).sets = s.sets := by
  obtain ⟨_, _, _, h⟩ := bookAction_eq kind page off master old new s; rw [h]
@[simp] theorem bookAction_mons (kind page off master : Nat) (old new : Word) (s : State) : (bookAction kind page off master old new s).mons = s.mons := by
  obtain ⟨_, _, _, h⟩ := bookAction_eq kind page off master old new s; rw [h]
@[simp] theorem bookAction_phases (kind page off master : Nat) (old new : Word) (s : State) : (bookAction kind page off master old new s).phases = s.phases := by
  obtain ⟨_, _, _, h⟩ := bookAction_eq kind page off master old new s; rw [h]
@[simp] theorem bookAction_drvs (kind page off master : Nat) (old new : Word) (s : State) : (bookAction kind page off master old new s).drvs = s.drvs := by
  obtain ⟨_, _, _, h⟩ := bookAction_eq kind page off master old new s; rw [h]
@[simp] theorem bookAction_datum (kind page off master : Nat) (old new : Word) (s : State) : (bookAction kind page off master old new s).datum = s.datum := by
  obtain ⟨_, _, _, h⟩ := bookAction_eq kind page off master old new s; rw [h]
@[simp] theorem bookAction_pair (kind page off master : Nat) (old new : Word) (s : State) : (bookAction kind page off master old new s).pair = s.pair := by
  obtain ⟨_, _, _, h⟩ := bookAction_eq kind page off master old new s; rw [h]
@[simp] theorem bookAction_adcs (kind page off master : Nat) (old new : Word) (s : State) : (bookAction kind page off master old new s).adcs = s.adcs := by
  obtain ⟨_, _, _, h⟩ := bookAction_eq kind page off master old new s; rw [h]
@[simp] theorem bookAction_lanes (kind page off master : Nat) (old new : Word) (s : State) : (bookAction kind page off master old new s).lanes = s.lanes := by
  obtain ⟨_, _, _, h⟩ := bookAction_eq kind page off master old new s; rw [h]
@[simp] theorem bookAction_eng (kind page off master : Nat) (old new : Word) (s : State) : (bookAction kind page off master old new s).eng = s.eng := by
  obtain ⟨_, _, _, h⟩ := bookAction_eq kind page off master old new s; rw [h]
@[simp] theorem bookAction_gens (kind page off master : Nat) (old new : Word) (s : State) : (bookAction kind page off master old new s).gens = s.gens := by
  obtain ⟨_, _, _, h⟩ := bookAction_eq kind page off master old new s; rw [h]
@[simp] theorem bookAction_capMem (kind page off master : Nat) (old new : Word) (s : State) : (bookAction kind page off master old new s).capMem = s.capMem := by
  obtain ⟨_, _, _, h⟩ := bookAction_eq kind page off master old new s; rw [h]
@[simp] theorem bookAction_rings (kind page off master : Nat) (old new : Word) (s : State) : (bookAction kind page off master old new s).rings = s.rings := by
  obtain ⟨_, _, _, h⟩ := bookAction_eq kind page off master old new s; rw [h]
@[simp] theorem bookAction_grids (kind page off master : Nat) (old new : Word) (s : State) : (bookAction kind page off master old new s).grids = s.grids := by
  obtain ⟨_, _, _, h⟩ := bookAction_eq kind page off master old new s; rw [h]
@[simp] theorem bookAction_isl (kind page off master : Nat) (old new : Word) (s : State) : (bookAction kind page off master old new s).isl = s.isl := by
  obtain ⟨_, _, _, h⟩ := bookAction_eq kind page off master old new s; rw [h]
@[simp] theorem bookAction_trackers (kind page off master : Nat) (old new : Word) (s : State) : (bookAction kind page off master old new s).trackers = s.trackers := by
  obtain ⟨_, _, _, h⟩ := bookAction_eq kind page off master old new s; rw [h]
@[simp] theorem bookAction_sweep (kind page off master : Nat) (old new : Word) (s : State) : (bookAction kind page off master old new s).sweep = s.sweep := by
  obtain ⟨_, _, _, h⟩ := bookAction_eq kind page off master old new s; rw [h]
@[simp] theorem bookAction_rails (kind page off master : Nat) (old new : Word) (s : State) : (bookAction kind page off master old new s).rails = s.rails := by
  obtain ⟨_, _, _, h⟩ := bookAction_eq kind page off master old new s; rw [h]
@[simp] theorem bookAction_cmdPorts (kind page off master : Nat) (old new : Word) (s : State) : (bookAction kind page off master old new s).cmdPorts = s.cmdPorts := by
  obtain ⟨_, _, _, h⟩ := bookAction_eq kind page off master old new s; rw [h]
@[simp] theorem bookAction_monument (kind page off master : Nat) (old new : Word) (s : State) : (bookAction kind page off master old new s).monument = s.monument := by
  obtain ⟨_, _, _, h⟩ := bookAction_eq kind page off master old new s; rw [h]
@[simp] theorem bookAction_meters (kind page off master : Nat) (old new : Word) (s : State) : (bookAction kind page off master old new s).meters = s.meters := by
  obtain ⟨_, _, _, h⟩ := bookAction_eq kind page off master old new s; rw [h]
@[simp] theorem bookAction_cluster (kind page off master : Nat) (old new : Word) (s : State) : (bookAction kind page off master old new s).cluster = s.cluster := by
  obtain ⟨_, _, _, h⟩ := bookAction_eq kind page off master old new s; rw [h]
@[simp] theorem bookAction_nvm (kind page off master : Nat) (old new : Word) (s : State) : (bookAction kind page off master old new s).nvm = s.nvm := by
  obtain ⟨_, _, _, h⟩ := bookAction_eq kind page off master old new s; rw [h]
@[simp] theorem bookAction_dbg (kind page off master : Nat) (old new : Word) (s : State) : (bookAction kind page off master old new s).dbg = s.dbg := by
  obtain ⟨_, _, _, h⟩ := bookAction_eq kind page off master old new s; rw [h]
@[simp] theorem bookAction_upd (kind page off master : Nat) (old new : Word) (s : State) : (bookAction kind page off master old new s).upd = s.upd := by
  obtain ⟨_, _, _, h⟩ := bookAction_eq kind page off master old new s; rw [h]
@[simp] theorem bookAction_gio (kind page off master : Nat) (old new : Word) (s : State) : (bookAction kind page off master old new s).gio = s.gio := by
  obtain ⟨_, _, _, h⟩ := bookAction_eq kind page off master old new s; rw [h]

/-! Registers -/

theorem rd_wr (k j : Nat) (v : Word) (s : State) : rd (wr k v s) j = if j = k then v else rd s j := smGet_smSet _ _ _ _ _

@[simp] theorem rd_wr_same (k : Nat) (v : Word) (s : State) : rd (wr k v s) k = v := by simp [rd_wr]

theorem rd_wr_ne {k j : Nat} (v : Word) (s : State) (h : j ≠ k) : rd (wr k v s) j = rd s j := by simp [rd_wr, h]

@[simp] theorem inForce_setForce_same (k : Nat) (v : Word) (s : State) : inForce (setForce k v s) k = v :=
  smGet_smSet_same _ _ _ _

theorem inForce_setForce_ne {k j : Nat} (v : Word) (s : State) (h : j ≠ k) : inForce (setForce k v s) j = inForce s j :=
  smGet_smSet_ne _ _ _ h

theorem rd_wrf_ne {k j : Nat} (lo n v : Nat) (s : State) (h : j ≠ k) : rd (wrf k lo n v s) j = rd s j := rd_wr_ne _ _ h

theorem rd_wrb_ne {k j : Nat} (b : Nat) (v : Bool) (s : State) (h : j ≠ k) : rd (wrb k b v s) j = rd s j := rd_wr_ne _ _ h

theorem rdf_wrf_same (k lo n v : Nat) (s : State) (h : lo + n ≤ 32) : rdf (wrf k lo n v s) k lo n = v % 2 ^ n := by
  unfold rdf wrf
  rw [rd_wr_same, fld_setFld_same _ _ _ _ h]

theorem rdf_wrf_ne (k j lo n lo' n' v : Nat) (s : State) (h : lo' + n' ≤ 32)
    (hd : j ≠ k ∨ lo + n ≤ lo' ∨ lo' + n' ≤ lo) : rdf (wrf k lo n v s) j lo' n' = rdf s j lo' n' := by
  unfold rdf wrf
  by_cases hk : j = k
  · subst hk
    rw [rd_wr_same, fld_setFld_ne _ _ _ _ _ _ h (hd.resolve_left (fun n => n rfl))]
  · rw [rd_wr_ne _ _ hk]

theorem rdb_wrb_same (k b : Nat) (v : Bool) (s : State) (h : b < 32) : rdb (wrb k b v s) k b = v := by
  unfold rdb wrb wrf
  rw [rd_wr_same]
  exact bit_setFld_one _ _ _ h

theorem rdb_wrb_ne (k j b c : Nat) (v : Bool) (s : State) (h : c < 32) (hd : j ≠ k ∨ c ≠ b) :
    rdb (wrb k b v s) j c = rdb s j c := by
  unfold rdb wrb wrf
  by_cases hk : j = k
  · subst hk
    have hc := hd.resolve_left (fun n => n rfl)
    rw [rd_wr_same, bit_setFld_ne _ _ _ _ _ h (by omega)]
  · rw [rd_wr_ne _ _ hk]

/-! A cause that sets -/

theorem rd_setFresh (k b j : Nat) (s : State) : rd (setFresh k b s) j = rd (wrb k b true s) j := rfl

theorem rdb_setFresh_same (k b : Nat) (s : State) (h : b < 32) : rdb (setFresh k b s) k b = true :=
  rdb_wrb_same k b true s h

theorem rd_setFresh_ne {k j : Nat} (b : Nat) (s : State) (h : j ≠ k) : rd (setFresh k b s) j = rd s j :=
  rd_wrb_ne b true s h

theorem rdb_setFresh_ne (k j b c : Nat) (s : State) (h : c < 32) (hd : j ≠ k ∨ c ≠ b) :
    rdb (setFresh k b s) j c = rdb s j c := rdb_wrb_ne k j b c true s h hd

@[simp] theorem memRd_setFresh (k b a : Nat) (s : State) : memRd (setFresh k b s) a = memRd s a := rfl

/-- A clear leaves the bits that have not been asked for, and those set in this CLK_FAB cycle (R564). -/
theorem rd_clearFresh (k : Nat) (m : Word) (s : State) :
    rd (clearFresh k m s).2 k = rd s k &&& ~~~ (m &&& ~~~ freshBits s k) := by
  unfold clearFresh
  dsimp only
  rw [rd_wr_same]
  split <;> rfl

/-- It writes no other register. -/
theorem rd_clearFresh_ne {k j : Nat} (m : Word) (s : State) (h : j ≠ k) : rd (clearFresh k m s).2 j = rd s j := by
  unfold clearFresh
  dsimp only
  rw [rd_wr_ne _ _ h]
  split <;> rfl

/-! Memory -/

theorem memRd_memWr (a x : Nat) (b : Byte) (s : State) : memRd (memWr a b s) x = if x = a then b else memRd s x :=
  smGet_smSet _ _ _ _ _

theorem memRd_memWrBytes_ne (a x : Nat) (bs : List Byte) (s : State) (h : x < a ∨ a + bs.length ≤ x) :
    memRd (memWrBytes a bs s) x = memRd s x := by
  induction bs generalizing a s with
  | nil => rfl
  | cons b bs ih =>
    simp only [List.length_cons] at h
    rw [memWrBytes, ih (a + 1) _ (by omega), memRd_memWr, if_neg (by omega)]

theorem memRd_memWrBytes (a i : Nat) (bs : List Byte) (s : State) (h : i < bs.length) :
    memRd (memWrBytes a bs s) (a + i) = bs[i] := by
  induction bs generalizing a i s with
  | nil => simp at h
  | cons b bs ih =>
    cases i with
    | zero => rw [memWrBytes, memRd_memWrBytes_ne _ _ _ _ (by omega)]; simp [memRd_memWr]
    | succ i =>
      have := ih (a + 1) i (memWr a b s) (by simpa using h)
      rw [memWrBytes, show a + (i + 1) = a + 1 + i by omega, this]; rfl

/-! Causes (R435, R564) -/

/-- Keys that any occurrence may write: EVR.EV_RAW for MERGE, and the count of merged occurrences. -/
def mergeKey (j : Nat) : Prop := j = rk .evr 0 0x010 ∨ j = rk .evr 0 0x050

theorem rd_occurCore {e j : Nat} (s : State) (h : j ≠ rk .evr 0 0x050) : rd (occurCore e s).1 j = rd s j := by
  unfold occurCore; dsimp only; repeat' split
  all_goals first | rfl | exact rd_wr_ne _ _ h

theorem rd_occur {e j : Nat} (s : State) (h : ¬ mergeKey j) : rd (occur e s) j = rd s j := by
  have h1 : j ≠ rk .evr 0 0x010 := fun x => h (.inl x)
  have h2 : j ≠ rk .evr 0 0x050 := fun x => h (.inr x)
  unfold occur; dsimp only; repeat' split
  · exact rd_occurCore _ h2
  · rw [rd_occurCore _ h2, rd_setFresh_ne _ _ h1, rd_occurCore _ h2]
  · rw [rd_setFresh_ne _ _ h1, rd_occurCore _ h2]

/-- MERGE is only ever set by an occurrence; the other causes of EVR keep. -/
theorem rdb_occur_raw {e b : Nat} (s : State) (hb : b < 32) (h2 : rdb s (rk .evr 0 0x010) b = true) :
    rdb (occur e s) (rk .evr 0 0x010) b = true := by
  have hk : rk .evr 0 0x010 ≠ rk .evr 0 0x050 := by decide
  have hc : ∀ s, rdb s (rk .evr 0 0x010) b = true → rdb (setFresh (rk .evr 0 0x010) 2 s) (rk .evr 0 0x010) b = true := by
    intro s h
    by_cases h3 : b = 2
    · subst h3; exact rdb_setFresh_same _ _ _ hb
    · rw [rdb_setFresh_ne _ _ _ _ _ hb (.inr h3)]; exact h
  have ho : ∀ e s, rdb s (rk .evr 0 0x010) b = true → rdb (occurCore e s).1 (rk .evr 0 0x010) b = true := by
    intro e s h; unfold rdb; rw [rd_occurCore _ hk]; exact h
  unfold occur; dsimp only; repeat' split
  · exact ho _ _ h2
  · exact ho _ _ (hc _ (ho _ _ h2))
  · exact hc _ (ho _ _ h2)

/-- A raised cause is set. -/
theorem rdb_raise (t : PageType) (n k : Nat) (s : State) (hk : k < 32) (ht : ¬ rk t n 0x010 = rk .evr 0 0x050) :
    rdb (raise t n k s) (rk t n 0x010) k = true := by
  have h0 : rdb (setFresh (rk t n 0x010) k s) (rk t n 0x010) k = true := rdb_setFresh_same _ _ _ hk
  unfold raise; dsimp only; repeat' split
  · by_cases hm : rk t n 0x010 = rk .evr 0 0x010
    · rw [hm] at h0 ⊢; exact rdb_occur_raw _ hk h0
    · unfold rdb at h0 ⊢
      rw [rd_occur _ (fun h => h.elim hm ht)]; exact h0
  · exact h0
  · exact h0

/-- Raising a cause writes no register but the page's EV_RAW and what an occurrence may write. -/
theorem rd_raise {t : PageType} {n k j : Nat} (s : State) (hj : j ≠ rk t n 0x010) (hm : ¬ mergeKey j) :
    rd (raise t n k s) j = rd s j := by
  unfold raise; dsimp only; repeat' split
  · rw [rd_occur _ hm, rd_setFresh_ne _ _ hj]
  · rw [rd_setFresh_ne _ _ hj]
  · rw [rd_setFresh_ne _ _ hj]

/-- The other causes of the page keep, but for MERGE of EVR. -/
theorem rdb_raise_ne (t : PageType) (n k b : Nat) (s : State) (hb : b < 32) (hd : b ≠ k) (hm : ¬ mergeKey (rk t n 0x010)) :
    rdb (raise t n k s) (rk t n 0x010) b = rdb s (rk t n 0x010) b := by
  unfold raise; dsimp only; repeat' split
  · unfold rdb; rw [rd_occur _ hm]; exact rdb_setFresh_ne _ _ _ _ _ hb (.inr hd)
  · exact rdb_setFresh_ne _ _ _ _ _ hb (.inr hd)
  · exact rdb_setFresh_ne _ _ _ _ _ hb (.inr hd)

/-- Occurrences one after another write no register but what an occurrence may write. -/
theorem rd_forEach_occur {α : Type} {f : α → State → State} {j : Nat} (hf : ∀ x s, rd (f x s) j = rd s j) :
    ∀ (l : List α) (s : State), rd (forEach l f s) j = rd s j
  | [], _ => rfl
  | x :: l, s => (rd_forEach_occur hf l (f x s)).trans (hf x s)

/-- Clearing causes: the bits asked for, but those set in this CLK_FAB cycle (R564). -/
theorem rd_clearCauses (t : PageType) (n : Nat) (m : Word) (s : State) (hm : ¬ mergeKey (rk t n 0x010)) :
    rd (clearCauses t n m s) (rk t n 0x010) = rd s (rk t n 0x010) &&& ~~~ (m &&& ~~~ freshBits s (rk t n 0x010)) := by
  unfold clearCauses
  rw [← rd_clearFresh]
  exact rd_forEach_occur (fun k s => by split; exacts [rd_occur _ hm, rfl]) _ _

/-- It writes no other register but what an occurrence may write. -/
theorem rd_clearCauses_ne {t : PageType} {n j : Nat} (m : Word) (s : State) (hj : j ≠ rk t n 0x010) (hm : ¬ mergeKey j) :
    rd (clearCauses t n m s) j = rd s j := by
  unfold clearCauses
  rw [← rd_clearFresh_ne m s hj]
  exact rd_forEach_occur (fun k s => by split; exacts [rd_occur _ hm, rfl]) _ _

@[simp] theorem pageUp_raise (t : PageType) (n k : Nat) (s : State) (t0 : PageType) (o0 : Nat) :
    pageUp (raise t n k s) t0 o0 = pageUp s t0 o0 := by simp [pageUp, fabricUp, domOn]

@[simp] theorem live_raise (t : PageType) (n k : Nat) (s : State) (d : PDom) : live (raise t n k s) d = live s d := by
  simp [live, domOn]

@[simp] theorem inForce_raise (t : PageType) (n k : Nat) (s : State) (k0 : Nat) : inForce (raise t n k s) k0 = inForce s k0 := by
  simp [inForce]

@[simp] theorem memRd_raise (t : PageType) (n k : Nat) (s : State) (a : Nat) : memRd (raise t n k s) a = memRd s a := by
  simp [memRd]

/-! The trouble log and the field book -/

@[simp] theorem rd_logHap (p : Nat) (s : State) (k : Nat) : rd (logHap p s) k = rd s k := rfl

/-- A happening leaves one entry stamped, of its page. -/
theorem logHap_entry (p : Nat) (s : State) : ∃ e : LogEnt, (logHap p s).log.stamped = s.log.stamped ++ [e] ∧ e.page = p :=
  ⟨_, rfl, rfl⟩

/-! Accesses that are counted (R527, R528) -/

/-- The states that a count of accesses can lead to: registers, occurrences, counters and harts alone differ. -/
def CountsOnly (s t : State) : Prop := ∃ r e c, t = { s with regs := r, evr := e, cluster := c }

theorem CountsOnly.rfl {s : State} : CountsOnly s s := ⟨_, _, _, Eq.refl _⟩

theorem CountsOnly.trans {s t u : State} : CountsOnly s t → CountsOnly t u → CountsOnly s u := by
  rintro ⟨_, _, _, h⟩ ⟨_, _, _, h'⟩
  subst h h'
  exact ⟨_, _, _, Eq.refl _⟩

theorem CountsOnly.forEach {α : Type} {f : α → State → State} (hf : ∀ x s, CountsOnly s (f x s)) :
    ∀ (l : List α) (s : State), CountsOnly s (forEach l f s)
  | [], _ => .rfl
  | x :: l, s => (hf x s).trans (CountsOnly.forEach hf l (f x s))

theorem raisePmc_countsOnly (k : Nat) (s : State) : CountsOnly s (raisePmc k s) := by
  obtain ⟨_, _, h⟩ := raise_eq .pmc 0 k s
  exact ⟨_, _, s.cluster, h⟩

theorem ctrOverflow_countsOnly (n : Nat) (s : State) : CountsOnly s (ctrOverflow n s) := by
  have hw : ∀ k b v s, CountsOnly s (wrb k b v s) := fun _ _ _ _ => ⟨_, _, _, Eq.refl _⟩
  have hh : ∀ h f s, CountsOnly s (onHart h f s) := fun _ _ _ => ⟨_, _, _, Eq.refl _⟩
  have hs : ∀ s : State, CountsOnly s { s with cluster := { s.cluster with pmcStop := true } } :=
    fun _ => ⟨_, _, _, Eq.refl _⟩
  have h0 : ∀ s, CountsOnly s (setCtr n { ctr s n with val := 0, known := true } s) := fun _ => ⟨_, _, _, Eq.refl _⟩
  unfold ctrOverflow
  extract_lets c s1 s2 d s3 s4
  have h2 : CountsOnly s s2 := (h0 s).trans (hw _ _ _ _)
  have h3 : CountsOnly s s3 := by unfold s3; split; exacts [h2.trans (hs _), h2]
  have h4 : CountsOnly s s4 := by unfold s4; split; exacts [h3.trans (raisePmc_countsOnly _ _), h3]
  split
  · split; exacts [h4.trans (hh _ _ _), h4]
  · exact h4

/-- Counting an occurrence changes registers, occurrences, counters and harts alone. -/
theorem pmcCount_countsOnly (cls : Nat) (m : Option Doer) (a : Option Nat) (s : State) :
    CountsOnly s (pmcCount cls m a s) := by
  have hs : ∀ n c s, CountsOnly s (setCtr n c s) := fun _ _ _ => ⟨_, _, _, Eq.refl _⟩
  unfold pmcCount
  split
  · exact .rfl
  · refine CountsOnly.forEach (fun n s => ?_) _ _
    split
    · split
      · unfold ctrStep; split; exacts [hs _ _ _, ctrOverflow_countsOnly _ _]
      · exact .rfl
      · exact hs _ _ _
    · exact .rfl

/-- So does counting an access. -/
theorem pmcAccess_countsOnly (m : Doer) (store : Bool) (a : Nat) (page : Bool) (s : State) :
    CountsOnly s (pmcAccess m store a page s) := by
  have h : ∀ cls s, CountsOnly s (pmcAccesses cls m a s) := by
    intro cls s
    unfold pmcAccesses
    split
    · exact pmcCount_countsOnly _ _ _ _
    · exact .rfl
  unfold pmcAccess
  dsimp only
  split
  · exact (h _ _).trans (h _ _)
  · exact h _ _

/-- No counter counts accesses: an access changes nothing by being counted. -/
theorem pmcAccess_quiet {m : Doer} {store : Bool} {a : Nat} {page : Bool} {s : State}
    (h : ∀ n, rdb s (ctrKey n 0) 24 = false) : pmcAccess m store a page s = s := by
  have h0 : ∀ cls, pmcAccesses cls m a s = s := fun cls => by simp [pmcAccesses, h]
  simp only [pmcAccess, h0, ite_self]

@[simp] theorem pmcAccess_now (m : Doer) (store : Bool) (a : Nat) (page : Bool) (s : State) :
    (pmcAccess m store a page s).now = s.now := by
  obtain ⟨_, _, _, h⟩ := pmcAccess_countsOnly m store a page s; rw [h]
@[simp] theorem pmcAccess_frees (m : Doer) (store : Bool) (a : Nat) (page : Bool) (s : State) :
    (pmcAccess m store a page s).frees = s.frees := by
  obtain ⟨_, _, _, h⟩ := pmcAccess_countsOnly m store a page s; rw [h]
@[simp] theorem pmcAccess_pending (m : Doer) (store : Bool) (a : Nat) (page : Bool) (s : State) :
    (pmcAccess m store a page s).pending = s.pending := by
  obtain ⟨_, _, _, h⟩ := pmcAccess_countsOnly m store a page s; rw [h]
@[simp] theorem pmcAccess_act (m : Doer) (store : Bool) (a : Nat) (page : Bool) (s : State) :
    (pmcAccess m store a page s).act = s.act := by
  obtain ⟨_, _, _, h⟩ := pmcAccess_countsOnly m store a page s; rw [h]
@[simp] theorem pmcAccess_bus (m : Doer) (store : Bool) (a : Nat) (page : Bool) (s : State) :
    (pmcAccess m store a page s).bus = s.bus := by
  obtain ⟨_, _, _, h⟩ := pmcAccess_countsOnly m store a page s; rw [h]
@[simp] theorem pmcAccess_mem (m : Doer) (store : Bool) (a : Nat) (page : Bool) (s : State) :
    (pmcAccess m store a page s).mem = s.mem := by
  obtain ⟨_, _, _, h⟩ := pmcAccess_countsOnly m store a page s; rw [h]
@[simp] theorem pmcAccess_pwr (m : Doer) (store : Bool) (a : Nat) (page : Bool) (s : State) :
    (pmcAccess m store a page s).pwr = s.pwr := by
  obtain ⟨_, _, _, h⟩ := pmcAccess_countsOnly m store a page s; rw [h]
@[simp] theorem pmcAccess_clk (m : Doer) (store : Bool) (a : Nat) (page : Bool) (s : State) :
    (pmcAccess m store a page s).clk = s.clk := by
  obtain ⟨_, _, _, h⟩ := pmcAccess_countsOnly m store a page s; rw [h]
@[simp] theorem pmcAccess_therm (m : Doer) (store : Bool) (a : Nat) (page : Bool) (s : State) :
    (pmcAccess m store a page s).therm = s.therm := by
  obtain ⟨_, _, _, h⟩ := pmcAccess_countsOnly m store a page s; rw [h]
@[simp] theorem pmcAccess_valley (m : Doer) (store : Bool) (a : Nat) (page : Bool) (s : State) :
    (pmcAccess m store a page s).valley = s.valley := by
  obtain ⟨_, _, _, h⟩ := pmcAccess_countsOnly m store a page s; rw [h]
@[simp] theorem pmcAccess_plumb (m : Doer) (store : Bool) (a : Nat) (page : Bool) (s : State) :
    (pmcAccess m store a page s).plumb = s.plumb := by
  obtain ⟨_, _, _, h⟩ := pmcAccess_countsOnly m store a page s; rw [h]
@[simp] theorem pmcAccess_sins (m : Doer) (store : Bool) (a : Nat) (page : Bool) (s : State) :
    (pmcAccess m store a page s).sins = s.sins := by
  obtain ⟨_, _, _, h⟩ := pmcAccess_countsOnly m store a page s; rw [h]
@[simp] theorem pmcAccess_scans (m : Doer) (store : Bool) (a : Nat) (page : Bool) (s : State) :
    (pmcAccess m store a page s).scans = s.scans := by
  obtain ⟨_, _, _, h⟩ := pmcAccess_countsOnly m store a page s; rw [h]
@[simp] theorem pmcAccess_scanConvs (m : Doer) (store : Bool) (a : Nat) (page : Bool) (s : State) :
    (pmcAccess m store a page s).scanConvs = s.scanConvs := by
  obtain ⟨_, _, _, h⟩ := pmcAccess_countsOnly m store a page s; rw [h]
@[simp] theorem pmcAccess_souts (m : Doer) (store : Bool) (a : Nat) (page : Bool) (s : State) :
    (pmcAccess m store a page s).souts = s.souts := by
  obtain ⟨_, _, _, h⟩ := pmcAccess_countsOnly m store a page s; rw [h]
@[simp] theorem pmcAccess_conns (m : Doer) (store : Bool) (a : Nat) (page : Bool) (s : State) :
    (pmcAccess m store a page s).conns = s.conns := by
  obtain ⟨_, _, _, h⟩ := pmcAccess_countsOnly m store a page s; rw [h]
@[simp] theorem pmcAccess_pw (m : Doer) (store : Bool) (a : Nat) (page : Bool) (s : State) :
    (pmcAccess m store a page s).pw = s.pw := by
  obtain ⟨_, _, _, h⟩ := pmcAccess_countsOnly m store a page s; rw [h]
@[simp] theorem pmcAccess_fb (m : Doer) (store : Bool) (a : Nat) (page : Bool) (s : State) :
    (pmcAccess m store a page s).fb = s.fb := by
  obtain ⟨_, _, _, h⟩ := pmcAccess_countsOnly m store a page s; rw [h]
@[simp] theorem pmcAccess_log (m : Doer) (store : Bool) (a : Nat) (page : Bool) (s : State) :
    (pmcAccess m store a page s).log = s.log := by
  obtain ⟨_, _, _, h⟩ := pmcAccess_countsOnly m store a page s; rw [h]
@[simp] theorem pmcAccess_doms (m : Doer) (store : Bool) (a : Nat) (page : Bool) (s : State) :
    (pmcAccess m store a page s).doms = s.doms := by
  obtain ⟨_, _, _, h⟩ := pmcAccess_countsOnly m store a page s; rw [h]
@[simp] theorem pmcAccess_grps (m : Doer) (store : Bool) (a : Nat) (page : Bool) (s : State) :
    (pmcAccess m store a page s).grps = s.grps := by
  obtain ⟨_, _, _, h⟩ := pmcAccess_countsOnly m store a page s; rw [h]
@[simp] theorem pmcAccess_legs (m : Doer) (store : Bool) (a : Nat) (page : Bool) (s : State) :
    (pmcAccess m store a page s).legs = s.legs := by
  obtain ⟨_, _, _, h⟩ := pmcAccess_countsOnly m store a page s; rw [h]
@[simp] theorem pmcAccess_holds (m : Doer) (store : Bool) (a : Nat) (page : Bool) (s : State) :
    (pmcAccess m store a page s).holds = s.holds := by
  obtain ⟨_, _, _, h⟩ := pmcAccess_countsOnly m store a page s; rw [h]
@[simp] theorem pmcAccess_trips (m : Doer) (store : Bool) (a : Nat) (page : Bool) (s : State) :
    (pmcAccess m store a page s).trips = s.trips := by
  obtain ⟨_, _, _, h⟩ := pmcAccess_countsOnly m store a page s; rw [h]
@[simp] theorem pmcAccess_sets (m : Doer) (store : Bool) (a : Nat) (page : Bool) (s : State) :
    (pmcAccess m store a page s).sets = s.sets := by
  obtain ⟨_, _, _, h⟩ := pmcAccess_countsOnly m store a page s; rw [h]
@[simp] theorem pmcAccess_mons (m : Doer) (store : Bool) (a : Nat) (page : Bool) (s : State) :
    (pmcAccess m store a page s).mons = s.mons := by
  obtain ⟨_, _, _, h⟩ := pmcAccess_countsOnly m store a page s; rw [h]
@[simp] theorem pmcAccess_phases (m : Doer) (store : Bool) (a : Nat) (page : Bool) (s : State) :
    (pmcAccess m store a page s).phases = s.phases := by
  obtain ⟨_, _, _, h⟩ := pmcAccess_countsOnly m store a page s; rw [h]
@[simp] theorem pmcAccess_drvs (m : Doer) (store : Bool) (a : Nat) (page : Bool) (s : State) :
    (pmcAccess m store a page s).drvs = s.drvs := by
  obtain ⟨_, _, _, h⟩ := pmcAccess_countsOnly m store a page s; rw [h]
@[simp] theorem pmcAccess_datum (m : Doer) (store : Bool) (a : Nat) (page : Bool) (s : State) :
    (pmcAccess m store a page s).datum = s.datum := by
  obtain ⟨_, _, _, h⟩ := pmcAccess_countsOnly m store a page s; rw [h]
@[simp] theorem pmcAccess_pair (m : Doer) (store : Bool) (a : Nat) (page : Bool) (s : State) :
    (pmcAccess m store a page s).pair = s.pair := by
  obtain ⟨_, _, _, h⟩ := pmcAccess_countsOnly m store a page s; rw [h]
@[simp] theorem pmcAccess_adcs (m : Doer) (store : Bool) (a : Nat) (page : Bool) (s : State) :
    (pmcAccess m store a page s).adcs = s.adcs := by
  obtain ⟨_, _, _, h⟩ := pmcAccess_countsOnly m store a page s; rw [h]
@[simp] theorem pmcAccess_lanes (m : Doer) (store : Bool) (a : Nat) (page : Bool) (s : State) :
    (pmcAccess m store a page s).lanes = s.lanes := by
  obtain ⟨_, _, _, h⟩ := pmcAccess_countsOnly m store a page s; rw [h]
@[simp] theorem pmcAccess_eng (m : Doer) (store : Bool) (a : Nat) (page : Bool) (s : State) :
    (pmcAccess m store a page s).eng = s.eng := by
  obtain ⟨_, _, _, h⟩ := pmcAccess_countsOnly m store a page s; rw [h]
@[simp] theorem pmcAccess_gens (m : Doer) (store : Bool) (a : Nat) (page : Bool) (s : State) :
    (pmcAccess m store a page s).gens = s.gens := by
  obtain ⟨_, _, _, h⟩ := pmcAccess_countsOnly m store a page s; rw [h]
@[simp] theorem pmcAccess_capMem (m : Doer) (store : Bool) (a : Nat) (page : Bool) (s : State) :
    (pmcAccess m store a page s).capMem = s.capMem := by
  obtain ⟨_, _, _, h⟩ := pmcAccess_countsOnly m store a page s; rw [h]
@[simp] theorem pmcAccess_rings (m : Doer) (store : Bool) (a : Nat) (page : Bool) (s : State) :
    (pmcAccess m store a page s).rings = s.rings := by
  obtain ⟨_, _, _, h⟩ := pmcAccess_countsOnly m store a page s; rw [h]
@[simp] theorem pmcAccess_grids (m : Doer) (store : Bool) (a : Nat) (page : Bool) (s : State) :
    (pmcAccess m store a page s).grids = s.grids := by
  obtain ⟨_, _, _, h⟩ := pmcAccess_countsOnly m store a page s; rw [h]
@[simp] theorem pmcAccess_isl (m : Doer) (store : Bool) (a : Nat) (page : Bool) (s : State) :
    (pmcAccess m store a page s).isl = s.isl := by
  obtain ⟨_, _, _, h⟩ := pmcAccess_countsOnly m store a page s; rw [h]
@[simp] theorem pmcAccess_trackers (m : Doer) (store : Bool) (a : Nat) (page : Bool) (s : State) :
    (pmcAccess m store a page s).trackers = s.trackers := by
  obtain ⟨_, _, _, h⟩ := pmcAccess_countsOnly m store a page s; rw [h]
@[simp] theorem pmcAccess_sweep (m : Doer) (store : Bool) (a : Nat) (page : Bool) (s : State) :
    (pmcAccess m store a page s).sweep = s.sweep := by
  obtain ⟨_, _, _, h⟩ := pmcAccess_countsOnly m store a page s; rw [h]
@[simp] theorem pmcAccess_rails (m : Doer) (store : Bool) (a : Nat) (page : Bool) (s : State) :
    (pmcAccess m store a page s).rails = s.rails := by
  obtain ⟨_, _, _, h⟩ := pmcAccess_countsOnly m store a page s; rw [h]
@[simp] theorem pmcAccess_cmdPorts (m : Doer) (store : Bool) (a : Nat) (page : Bool) (s : State) :
    (pmcAccess m store a page s).cmdPorts = s.cmdPorts := by
  obtain ⟨_, _, _, h⟩ := pmcAccess_countsOnly m store a page s; rw [h]
@[simp] theorem pmcAccess_monument (m : Doer) (store : Bool) (a : Nat) (page : Bool) (s : State) :
    (pmcAccess m store a page s).monument = s.monument := by
  obtain ⟨_, _, _, h⟩ := pmcAccess_countsOnly m store a page s; rw [h]
@[simp] theorem pmcAccess_meters (m : Doer) (store : Bool) (a : Nat) (page : Bool) (s : State) :
    (pmcAccess m store a page s).meters = s.meters := by
  obtain ⟨_, _, _, h⟩ := pmcAccess_countsOnly m store a page s; rw [h]
@[simp] theorem pmcAccess_nvm (m : Doer) (store : Bool) (a : Nat) (page : Bool) (s : State) :
    (pmcAccess m store a page s).nvm = s.nvm := by
  obtain ⟨_, _, _, h⟩ := pmcAccess_countsOnly m store a page s; rw [h]
@[simp] theorem pmcAccess_dbg (m : Doer) (store : Bool) (a : Nat) (page : Bool) (s : State) :
    (pmcAccess m store a page s).dbg = s.dbg := by
  obtain ⟨_, _, _, h⟩ := pmcAccess_countsOnly m store a page s; rw [h]
@[simp] theorem pmcAccess_upd (m : Doer) (store : Bool) (a : Nat) (page : Bool) (s : State) :
    (pmcAccess m store a page s).upd = s.upd := by
  obtain ⟨_, _, _, h⟩ := pmcAccess_countsOnly m store a page s; rw [h]
@[simp] theorem pmcAccess_gio (m : Doer) (store : Bool) (a : Nat) (page : Bool) (s : State) :
    (pmcAccess m store a page s).gio = s.gio := by
  obtain ⟨_, _, _, h⟩ := pmcAccess_countsOnly m store a page s; rw [h]
/-! Bus accesses -/

/-- A write that reaches its page has its effect, and takes a bus cycle. -/
theorem atPage_reaches {m : Master} {t : PageType} {off : Nat} {f : State → State} {s : State}
    (h : reaches s m t off = true) : atPage m t off f s = busCycle (f s) := by
  simp only [reaches, Bool.and_eq_true, Bool.not_eq_true'] at h
  obtain ⟨⟨⟨h1, h2⟩, h3⟩, h4⟩ := h
  simp only [atPage, h1, h2, h3, h4]; rfl

/-- A page that is not reached: the write takes its bus cycle and has no effect (R565). -/
theorem atPage_down {m : Master} {t : PageType} {off : Nat} {f : State → State} {s : State} (h : pageUp s t off = false) :
    atPage m t off f s = busCycle s := by simp [atPage, h]

end Sys2Proof.Machine
end

