-- ==== Sys2Proof/Laws/Stays.lean ====
section
/-! SUPPORT. What the operations leave alone. A quantity `π` of the state stays through an operation when it does not depend
on the components the operation may change; `Free π i` says that it does not depend on component `i`, numbered in the order
of State, and each operation has one lemma with the set of its components as the bits of a number. -/

namespace Sys2Proof.Machine

variable {α : Type} {π : State → α} {r0 s : State}

/-- The quantity does not depend on component `i`. -/
def Free (π : State → α) : Nat → Prop
  | 0 => ∀ s v, π { s with now := v } = π s
  | 1 => ∀ s v, π { s with frees := v } = π s
  | 2 => ∀ s v, π { s with pending := v } = π s
  | 3 => ∀ s v, π { s with regs := v } = π s
  | 4 => ∀ s v, π { s with act := v } = π s
  | 5 => ∀ s v, π { s with bus := v } = π s
  | 6 => ∀ s v, π { s with mem := v } = π s
  | 7 => ∀ s v, π { s with pwr := v } = π s
  | 8 => ∀ s v, π { s with clk := v } = π s
  | 9 => ∀ s v, π { s with therm := v } = π s
  | 10 => ∀ s v, π { s with valley := v } = π s
  | 11 => ∀ s v, π { s with plumb := v } = π s
  | 12 => ∀ s v, π { s with sins := v } = π s
  | 13 => ∀ s v, π { s with scans := v } = π s
  | 14 => ∀ s v, π { s with scanConvs := v } = π s
  | 15 => ∀ s v, π { s with souts := v } = π s
  | 16 => ∀ s v, π { s with conns := v } = π s
  | 17 => ∀ s v, π { s with pw := v } = π s
  | 18 => ∀ s v, π { s with fb := v } = π s
  | 19 => ∀ s v, π { s with evr := v } = π s
  | 20 => ∀ s v, π { s with log := v } = π s
  | 21 => ∀ s v, π { s with doms := v } = π s
  | 22 => ∀ s v, π { s with grps := v } = π s
  | 23 => ∀ s v, π { s with legs := v } = π s
  | 24 => ∀ s v, π { s with holds := v } = π s
  | 25 => ∀ s v, π { s with trips := v } = π s
  | 26 => ∀ s v, π { s with sets := v } = π s
  | 27 => ∀ s v, π { s with mons := v } = π s
  | 28 => ∀ s v, π { s with phases := v } = π s
  | 29 => ∀ s v, π { s with drvs := v } = π s
  | 30 => ∀ s v, π { s with datum := v } = π s
  | 31 => ∀ s v, π { s with pair := v } = π s
  | 32 => ∀ s v, π { s with adcs := v } = π s
  | 33 => ∀ s v, π { s with lanes := v } = π s
  | 34 => ∀ s v, π { s with eng := v } = π s
  | 35 => ∀ s v, π { s with gens := v } = π s
  | 36 => ∀ s v, π { s with capMem := v } = π s
  | 37 => ∀ s v, π { s with rings := v } = π s
  | 38 => ∀ s v, π { s with grids := v } = π s
  | 39 => ∀ s v, π { s with isl := v } = π s
  | 40 => ∀ s v, π { s with trackers := v } = π s
  | 41 => ∀ s v, π { s with sweep := v } = π s
  | 42 => ∀ s v, π { s with rails := v } = π s
  | 43 => ∀ s v, π { s with cmdPorts := v } = π s
  | 44 => ∀ s v, π { s with monument := v } = π s
  | 45 => ∀ s v, π { s with meters := v } = π s
  | 46 => ∀ s v, π { s with cluster := v } = π s
  | 47 => ∀ s v, π { s with nvm := v } = π s
  | 48 => ∀ s v, π { s with dbg := v } = π s
  | 49 => ∀ s v, π { s with upd := v } = π s
  | 50 => ∀ s v, π { s with gio := v } = π s
  | _ => True

/-- The quantity does not depend on the components of a set. -/
def AllFree (π : State → α) (m : Nat) : Prop := ∀ i, m.testBit i = true → Free π i

/-- The quantity has kept its value. -/
def Stays (π : State → α) (r s : State) : Prop := π s = π r

theorem AllFree.sub {m a : Nat} (h : AllFree π m) (ha : a &&& m = a) : AllFree π a := fun i hi => by
  refine h i ?_
  rw [← ha, Nat.testBit_land, Bool.and_eq_true] at hi
  exact hi.2

/-- A quantity that each component of a set can be changed under without effect is free of the set: `k` bits are tested. -/
theorem allFree_of {m : Nat} (k : Nat) (hk : m < 2 ^ k) (h : ∀ i, i < k → m.testBit i = true → Free π i) : AllFree π m :=
  fun i hi => h i (Nat.lt_of_not_le fun hl => by
    rw [Nat.testBit_lt_two_pow (Nat.lt_of_lt_of_le hk (Nat.pow_le_pow_right (by decide) hl))] at hi
    cases hi) hi

theorem Stays.refl (π : State → α) (s : State) : Stays π s s := rfl

theorem Stays.ite {c : Prop} [Decidable c] {t : State} (h1 : Stays π r0 s) (h2 : Stays π r0 t) :
    Stays π r0 (if c then s else t) := by split <;> assumption

theorem Stays.of_snd {β : Type} {p : β × State} {a : β} (e : p = (a, s)) (h : Stays π r0 p.2) : Stays π r0 s := by
  subst e; exact h

theorem Stays.of_fst {β : Type} {p : State × β} {a : β} (e : p = (s, a)) (h : Stays π r0 p.1) : Stays π r0 s := by
  subst e; exact h

/-! Updates of each set of components that some operation changes at once -/

theorem Stays.mk_now (hπ : AllFree π 1) {v0} : Stays π r0 (State.mk v0 s.frees s.pending s.regs s.act s.bus s.mem s.pwr s.clk s.therm s.valley s.plumb
      s.sins s.scans s.scanConvs s.souts s.conns s.pw s.fb s.evr s.log s.doms s.grps s.legs s.holds
      s.trips s.sets s.mons s.phases s.drvs s.datum s.pair s.adcs s.lanes s.eng s.gens s.capMem s.rings
      s.grids s.isl s.trackers s.sweep s.rails s.cmdPorts s.monument s.meters s.cluster s.nvm s.dbg
      s.upd s.gio) ↔ Stays π r0 s := by
  unfold Stays; rw [show π (State.mk v0 s.frees s.pending s.regs s.act s.bus s.mem s.pwr s.clk s.therm s.valley s.plumb
      s.sins s.scans s.scanConvs s.souts s.conns s.pw s.fb s.evr s.log s.doms s.grps s.legs s.holds
      s.trips s.sets s.mons s.phases s.drvs s.datum s.pair s.adcs s.lanes s.eng s.gens s.capMem s.rings
      s.grids s.isl s.trackers s.sweep s.rails s.cmdPorts s.monument s.meters s.cluster s.nvm s.dbg
      s.upd s.gio) = π s from (hπ 0 rfl s v0)]

theorem Stays.mk_frees (hπ : AllFree π 2) {v1} : Stays π r0 (State.mk s.now v1 s.pending s.regs s.act s.bus s.mem s.pwr s.clk s.therm s.valley s.plumb s.sins
      s.scans s.scanConvs s.souts s.conns s.pw s.fb s.evr s.log s.doms s.grps s.legs s.holds s.trips
      s.sets s.mons s.phases s.drvs s.datum s.pair s.adcs s.lanes s.eng s.gens s.capMem s.rings s.grids
      s.isl s.trackers s.sweep s.rails s.cmdPorts s.monument s.meters s.cluster s.nvm s.dbg s.upd
      s.gio) ↔ Stays π r0 s := by
  unfold Stays; rw [show π (State.mk s.now v1 s.pending s.regs s.act s.bus s.mem s.pwr s.clk s.therm s.valley s.plumb s.sins
      s.scans s.scanConvs s.souts s.conns s.pw s.fb s.evr s.log s.doms s.grps s.legs s.holds s.trips
      s.sets s.mons s.phases s.drvs s.datum s.pair s.adcs s.lanes s.eng s.gens s.capMem s.rings s.grids
      s.isl s.trackers s.sweep s.rails s.cmdPorts s.monument s.meters s.cluster s.nvm s.dbg s.upd
      s.gio) = π s from (hπ 1 rfl s v1)]

theorem Stays.mk_pending (hπ : AllFree π 4) {v2} : Stays π r0 (State.mk s.now s.frees v2 s.regs s.act s.bus s.mem s.pwr s.clk s.therm s.valley s.plumb s.sins
      s.scans s.scanConvs s.souts s.conns s.pw s.fb s.evr s.log s.doms s.grps s.legs s.holds s.trips
      s.sets s.mons s.phases s.drvs s.datum s.pair s.adcs s.lanes s.eng s.gens s.capMem s.rings s.grids
      s.isl s.trackers s.sweep s.rails s.cmdPorts s.monument s.meters s.cluster s.nvm s.dbg s.upd
      s.gio) ↔ Stays π r0 s := by
  unfold Stays; rw [show π (State.mk s.now s.frees v2 s.regs s.act s.bus s.mem s.pwr s.clk s.therm s.valley s.plumb s.sins
      s.scans s.scanConvs s.souts s.conns s.pw s.fb s.evr s.log s.doms s.grps s.legs s.holds s.trips
      s.sets s.mons s.phases s.drvs s.datum s.pair s.adcs s.lanes s.eng s.gens s.capMem s.rings s.grids
      s.isl s.trackers s.sweep s.rails s.cmdPorts s.monument s.meters s.cluster s.nvm s.dbg s.upd
      s.gio) = π s from (hπ 2 rfl s v2)]

theorem Stays.mk_regs (hπ : AllFree π 8) {v3} : Stays π r0 (State.mk s.now s.frees s.pending v3 s.act s.bus s.mem s.pwr s.clk s.therm s.valley s.plumb
      s.sins s.scans s.scanConvs s.souts s.conns s.pw s.fb s.evr s.log s.doms s.grps s.legs s.holds
      s.trips s.sets s.mons s.phases s.drvs s.datum s.pair s.adcs s.lanes s.eng s.gens s.capMem s.rings
      s.grids s.isl s.trackers s.sweep s.rails s.cmdPorts s.monument s.meters s.cluster s.nvm s.dbg
      s.upd s.gio) ↔ Stays π r0 s := by
  unfold Stays; rw [show π (State.mk s.now s.frees s.pending v3 s.act s.bus s.mem s.pwr s.clk s.therm s.valley s.plumb
      s.sins s.scans s.scanConvs s.souts s.conns s.pw s.fb s.evr s.log s.doms s.grps s.legs s.holds
      s.trips s.sets s.mons s.phases s.drvs s.datum s.pair s.adcs s.lanes s.eng s.gens s.capMem s.rings
      s.grids s.isl s.trackers s.sweep s.rails s.cmdPorts s.monument s.meters s.cluster s.nvm s.dbg
      s.upd s.gio) = π s from (hπ 3 rfl s v3)]

theorem Stays.mk_act (hπ : AllFree π 16) {v4} : Stays π r0 (State.mk s.now s.frees s.pending s.regs v4 s.bus s.mem s.pwr s.clk s.therm s.valley s.plumb
      s.sins s.scans s.scanConvs s.souts s.conns s.pw s.fb s.evr s.log s.doms s.grps s.legs s.holds
      s.trips s.sets s.mons s.phases s.drvs s.datum s.pair s.adcs s.lanes s.eng s.gens s.capMem s.rings
      s.grids s.isl s.trackers s.sweep s.rails s.cmdPorts s.monument s.meters s.cluster s.nvm s.dbg
      s.upd s.gio) ↔ Stays π r0 s := by
  unfold Stays; rw [show π (State.mk s.now s.frees s.pending s.regs v4 s.bus s.mem s.pwr s.clk s.therm s.valley s.plumb
      s.sins s.scans s.scanConvs s.souts s.conns s.pw s.fb s.evr s.log s.doms s.grps s.legs s.holds
      s.trips s.sets s.mons s.phases s.drvs s.datum s.pair s.adcs s.lanes s.eng s.gens s.capMem s.rings
      s.grids s.isl s.trackers s.sweep s.rails s.cmdPorts s.monument s.meters s.cluster s.nvm s.dbg
      s.upd s.gio) = π s from (hπ 4 rfl s v4)]

theorem Stays.mk_bus (hπ : AllFree π 32) {v5} : Stays π r0 (State.mk s.now s.frees s.pending s.regs s.act v5 s.mem s.pwr s.clk s.therm s.valley s.plumb
      s.sins s.scans s.scanConvs s.souts s.conns s.pw s.fb s.evr s.log s.doms s.grps s.legs s.holds
      s.trips s.sets s.mons s.phases s.drvs s.datum s.pair s.adcs s.lanes s.eng s.gens s.capMem s.rings
      s.grids s.isl s.trackers s.sweep s.rails s.cmdPorts s.monument s.meters s.cluster s.nvm s.dbg
      s.upd s.gio) ↔ Stays π r0 s := by
  unfold Stays; rw [show π (State.mk s.now s.frees s.pending s.regs s.act v5 s.mem s.pwr s.clk s.therm s.valley s.plumb
      s.sins s.scans s.scanConvs s.souts s.conns s.pw s.fb s.evr s.log s.doms s.grps s.legs s.holds
      s.trips s.sets s.mons s.phases s.drvs s.datum s.pair s.adcs s.lanes s.eng s.gens s.capMem s.rings
      s.grids s.isl s.trackers s.sweep s.rails s.cmdPorts s.monument s.meters s.cluster s.nvm s.dbg
      s.upd s.gio) = π s from (hπ 5 rfl s v5)]

theorem Stays.mk_mem (hπ : AllFree π 64) {v6} : Stays π r0 (State.mk s.now s.frees s.pending s.regs s.act s.bus v6 s.pwr s.clk s.therm s.valley s.plumb
      s.sins s.scans s.scanConvs s.souts s.conns s.pw s.fb s.evr s.log s.doms s.grps s.legs s.holds
      s.trips s.sets s.mons s.phases s.drvs s.datum s.pair s.adcs s.lanes s.eng s.gens s.capMem s.rings
      s.grids s.isl s.trackers s.sweep s.rails s.cmdPorts s.monument s.meters s.cluster s.nvm s.dbg
      s.upd s.gio) ↔ Stays π r0 s := by
  unfold Stays; rw [show π (State.mk s.now s.frees s.pending s.regs s.act s.bus v6 s.pwr s.clk s.therm s.valley s.plumb
      s.sins s.scans s.scanConvs s.souts s.conns s.pw s.fb s.evr s.log s.doms s.grps s.legs s.holds
      s.trips s.sets s.mons s.phases s.drvs s.datum s.pair s.adcs s.lanes s.eng s.gens s.capMem s.rings
      s.grids s.isl s.trackers s.sweep s.rails s.cmdPorts s.monument s.meters s.cluster s.nvm s.dbg
      s.upd s.gio) = π s from (hπ 6 rfl s v6)]

theorem Stays.mk_pwr (hπ : AllFree π 128) {v7} : Stays π r0 (State.mk s.now s.frees s.pending s.regs s.act s.bus s.mem v7 s.clk s.therm s.valley s.plumb
      s.sins s.scans s.scanConvs s.souts s.conns s.pw s.fb s.evr s.log s.doms s.grps s.legs s.holds
      s.trips s.sets s.mons s.phases s.drvs s.datum s.pair s.adcs s.lanes s.eng s.gens s.capMem s.rings
      s.grids s.isl s.trackers s.sweep s.rails s.cmdPorts s.monument s.meters s.cluster s.nvm s.dbg
      s.upd s.gio) ↔ Stays π r0 s := by
  unfold Stays; rw [show π (State.mk s.now s.frees s.pending s.regs s.act s.bus s.mem v7 s.clk s.therm s.valley s.plumb
      s.sins s.scans s.scanConvs s.souts s.conns s.pw s.fb s.evr s.log s.doms s.grps s.legs s.holds
      s.trips s.sets s.mons s.phases s.drvs s.datum s.pair s.adcs s.lanes s.eng s.gens s.capMem s.rings
      s.grids s.isl s.trackers s.sweep s.rails s.cmdPorts s.monument s.meters s.cluster s.nvm s.dbg
      s.upd s.gio) = π s from (hπ 7 rfl s v7)]

theorem Stays.mk_clk (hπ : AllFree π 256) {v8} : Stays π r0 (State.mk s.now s.frees s.pending s.regs s.act s.bus s.mem s.pwr v8 s.therm s.valley s.plumb
      s.sins s.scans s.scanConvs s.souts s.conns s.pw s.fb s.evr s.log s.doms s.grps s.legs s.holds
      s.trips s.sets s.mons s.phases s.drvs s.datum s.pair s.adcs s.lanes s.eng s.gens s.capMem s.rings
      s.grids s.isl s.trackers s.sweep s.rails s.cmdPorts s.monument s.meters s.cluster s.nvm s.dbg
      s.upd s.gio) ↔ Stays π r0 s := by
  unfold Stays; rw [show π (State.mk s.now s.frees s.pending s.regs s.act s.bus s.mem s.pwr v8 s.therm s.valley s.plumb
      s.sins s.scans s.scanConvs s.souts s.conns s.pw s.fb s.evr s.log s.doms s.grps s.legs s.holds
      s.trips s.sets s.mons s.phases s.drvs s.datum s.pair s.adcs s.lanes s.eng s.gens s.capMem s.rings
      s.grids s.isl s.trackers s.sweep s.rails s.cmdPorts s.monument s.meters s.cluster s.nvm s.dbg
      s.upd s.gio) = π s from (hπ 8 rfl s v8)]

theorem Stays.mk_therm (hπ : AllFree π 512) {v9} : Stays π r0 (State.mk s.now s.frees s.pending s.regs s.act s.bus s.mem s.pwr s.clk v9 s.valley s.plumb s.sins
      s.scans s.scanConvs s.souts s.conns s.pw s.fb s.evr s.log s.doms s.grps s.legs s.holds s.trips
      s.sets s.mons s.phases s.drvs s.datum s.pair s.adcs s.lanes s.eng s.gens s.capMem s.rings s.grids
      s.isl s.trackers s.sweep s.rails s.cmdPorts s.monument s.meters s.cluster s.nvm s.dbg s.upd
      s.gio) ↔ Stays π r0 s := by
  unfold Stays; rw [show π (State.mk s.now s.frees s.pending s.regs s.act s.bus s.mem s.pwr s.clk v9 s.valley s.plumb s.sins
      s.scans s.scanConvs s.souts s.conns s.pw s.fb s.evr s.log s.doms s.grps s.legs s.holds s.trips
      s.sets s.mons s.phases s.drvs s.datum s.pair s.adcs s.lanes s.eng s.gens s.capMem s.rings s.grids
      s.isl s.trackers s.sweep s.rails s.cmdPorts s.monument s.meters s.cluster s.nvm s.dbg s.upd
      s.gio) = π s from (hπ 9 rfl s v9)]

theorem Stays.mk_valley (hπ : AllFree π 1024) {v10} : Stays π r0 (State.mk s.now s.frees s.pending s.regs s.act s.bus s.mem s.pwr s.clk s.therm v10 s.plumb s.sins
      s.scans s.scanConvs s.souts s.conns s.pw s.fb s.evr s.log s.doms s.grps s.legs s.holds s.trips
      s.sets s.mons s.phases s.drvs s.datum s.pair s.adcs s.lanes s.eng s.gens s.capMem s.rings s.grids
      s.isl s.trackers s.sweep s.rails s.cmdPorts s.monument s.meters s.cluster s.nvm s.dbg s.upd
      s.gio) ↔ Stays π r0 s := by
  unfold Stays; rw [show π (State.mk s.now s.frees s.pending s.regs s.act s.bus s.mem s.pwr s.clk s.therm v10 s.plumb s.sins
      s.scans s.scanConvs s.souts s.conns s.pw s.fb s.evr s.log s.doms s.grps s.legs s.holds s.trips
      s.sets s.mons s.phases s.drvs s.datum s.pair s.adcs s.lanes s.eng s.gens s.capMem s.rings s.grids
      s.isl s.trackers s.sweep s.rails s.cmdPorts s.monument s.meters s.cluster s.nvm s.dbg s.upd
      s.gio) = π s from (hπ 10 rfl s v10)]

theorem Stays.mk_plumb (hπ : AllFree π 2048) {v11} : Stays π r0 (State.mk s.now s.frees s.pending s.regs s.act s.bus s.mem s.pwr s.clk s.therm s.valley v11
      s.sins s.scans s.scanConvs s.souts s.conns s.pw s.fb s.evr s.log s.doms s.grps s.legs s.holds
      s.trips s.sets s.mons s.phases s.drvs s.datum s.pair s.adcs s.lanes s.eng s.gens s.capMem s.rings
      s.grids s.isl s.trackers s.sweep s.rails s.cmdPorts s.monument s.meters s.cluster s.nvm s.dbg
      s.upd s.gio) ↔ Stays π r0 s := by
  unfold Stays; rw [show π (State.mk s.now s.frees s.pending s.regs s.act s.bus s.mem s.pwr s.clk s.therm s.valley v11
      s.sins s.scans s.scanConvs s.souts s.conns s.pw s.fb s.evr s.log s.doms s.grps s.legs s.holds
      s.trips s.sets s.mons s.phases s.drvs s.datum s.pair s.adcs s.lanes s.eng s.gens s.capMem s.rings
      s.grids s.isl s.trackers s.sweep s.rails s.cmdPorts s.monument s.meters s.cluster s.nvm s.dbg
      s.upd s.gio) = π s from (hπ 11 rfl s v11)]

theorem Stays.mk_sins (hπ : AllFree π 4096) {v12} : Stays π r0 (State.mk s.now s.frees s.pending s.regs s.act s.bus s.mem s.pwr s.clk s.therm s.valley s.plumb
      v12 s.scans s.scanConvs s.souts s.conns s.pw s.fb s.evr s.log s.doms s.grps s.legs s.holds
      s.trips s.sets s.mons s.phases s.drvs s.datum s.pair s.adcs s.lanes s.eng s.gens s.capMem s.rings
      s.grids s.isl s.trackers s.sweep s.rails s.cmdPorts s.monument s.meters s.cluster s.nvm s.dbg
      s.upd s.gio) ↔ Stays π r0 s := by
  unfold Stays; rw [show π (State.mk s.now s.frees s.pending s.regs s.act s.bus s.mem s.pwr s.clk s.therm s.valley s.plumb
      v12 s.scans s.scanConvs s.souts s.conns s.pw s.fb s.evr s.log s.doms s.grps s.legs s.holds
      s.trips s.sets s.mons s.phases s.drvs s.datum s.pair s.adcs s.lanes s.eng s.gens s.capMem s.rings
      s.grids s.isl s.trackers s.sweep s.rails s.cmdPorts s.monument s.meters s.cluster s.nvm s.dbg
      s.upd s.gio) = π s from (hπ 12 rfl s v12)]

theorem Stays.mk_scans (hπ : AllFree π 8192) {v13} : Stays π r0 (State.mk s.now s.frees s.pending s.regs s.act s.bus s.mem s.pwr s.clk s.therm s.valley s.plumb
      s.sins v13 s.scanConvs s.souts s.conns s.pw s.fb s.evr s.log s.doms s.grps s.legs s.holds s.trips
      s.sets s.mons s.phases s.drvs s.datum s.pair s.adcs s.lanes s.eng s.gens s.capMem s.rings s.grids
      s.isl s.trackers s.sweep s.rails s.cmdPorts s.monument s.meters s.cluster s.nvm s.dbg s.upd
      s.gio) ↔ Stays π r0 s := by
  unfold Stays; rw [show π (State.mk s.now s.frees s.pending s.regs s.act s.bus s.mem s.pwr s.clk s.therm s.valley s.plumb
      s.sins v13 s.scanConvs s.souts s.conns s.pw s.fb s.evr s.log s.doms s.grps s.legs s.holds s.trips
      s.sets s.mons s.phases s.drvs s.datum s.pair s.adcs s.lanes s.eng s.gens s.capMem s.rings s.grids
      s.isl s.trackers s.sweep s.rails s.cmdPorts s.monument s.meters s.cluster s.nvm s.dbg s.upd
      s.gio) = π s from (hπ 13 rfl s v13)]

theorem Stays.mk_scanConvs (hπ : AllFree π 16384) {v14} : Stays π r0 (State.mk s.now s.frees s.pending s.regs s.act s.bus s.mem s.pwr s.clk s.therm s.valley s.plumb
      s.sins s.scans v14 s.souts s.conns s.pw s.fb s.evr s.log s.doms s.grps s.legs s.holds s.trips
      s.sets s.mons s.phases s.drvs s.datum s.pair s.adcs s.lanes s.eng s.gens s.capMem s.rings s.grids
      s.isl s.trackers s.sweep s.rails s.cmdPorts s.monument s.meters s.cluster s.nvm s.dbg s.upd
      s.gio) ↔ Stays π r0 s := by
  unfold Stays; rw [show π (State.mk s.now s.frees s.pending s.regs s.act s.bus s.mem s.pwr s.clk s.therm s.valley s.plumb
      s.sins s.scans v14 s.souts s.conns s.pw s.fb s.evr s.log s.doms s.grps s.legs s.holds s.trips
      s.sets s.mons s.phases s.drvs s.datum s.pair s.adcs s.lanes s.eng s.gens s.capMem s.rings s.grids
      s.isl s.trackers s.sweep s.rails s.cmdPorts s.monument s.meters s.cluster s.nvm s.dbg s.upd
      s.gio) = π s from (hπ 14 rfl s v14)]

theorem Stays.mk_souts (hπ : AllFree π 32768) {v15} : Stays π r0 (State.mk s.now s.frees s.pending s.regs s.act s.bus s.mem s.pwr s.clk s.therm s.valley s.plumb
      s.sins s.scans s.scanConvs v15 s.conns s.pw s.fb s.evr s.log s.doms s.grps s.legs s.holds s.trips
      s.sets s.mons s.phases s.drvs s.datum s.pair s.adcs s.lanes s.eng s.gens s.capMem s.rings s.grids
      s.isl s.trackers s.sweep s.rails s.cmdPorts s.monument s.meters s.cluster s.nvm s.dbg s.upd
      s.gio) ↔ Stays π r0 s := by
  unfold Stays; rw [show π (State.mk s.now s.frees s.pending s.regs s.act s.bus s.mem s.pwr s.clk s.therm s.valley s.plumb
      s.sins s.scans s.scanConvs v15 s.conns s.pw s.fb s.evr s.log s.doms s.grps s.legs s.holds s.trips
      s.sets s.mons s.phases s.drvs s.datum s.pair s.adcs s.lanes s.eng s.gens s.capMem s.rings s.grids
      s.isl s.trackers s.sweep s.rails s.cmdPorts s.monument s.meters s.cluster s.nvm s.dbg s.upd
      s.gio) = π s from (hπ 15 rfl s v15)]

theorem Stays.mk_conns (hπ : AllFree π 65536) {v16} : Stays π r0 (State.mk s.now s.frees s.pending s.regs s.act s.bus s.mem s.pwr s.clk s.therm s.valley s.plumb
      s.sins s.scans s.scanConvs s.souts v16 s.pw s.fb s.evr s.log s.doms s.grps s.legs s.holds s.trips
      s.sets s.mons s.phases s.drvs s.datum s.pair s.adcs s.lanes s.eng s.gens s.capMem s.rings s.grids
      s.isl s.trackers s.sweep s.rails s.cmdPorts s.monument s.meters s.cluster s.nvm s.dbg s.upd
      s.gio) ↔ Stays π r0 s := by
  unfold Stays; rw [show π (State.mk s.now s.frees s.pending s.regs s.act s.bus s.mem s.pwr s.clk s.therm s.valley s.plumb
      s.sins s.scans s.scanConvs s.souts v16 s.pw s.fb s.evr s.log s.doms s.grps s.legs s.holds s.trips
      s.sets s.mons s.phases s.drvs s.datum s.pair s.adcs s.lanes s.eng s.gens s.capMem s.rings s.grids
      s.isl s.trackers s.sweep s.rails s.cmdPorts s.monument s.meters s.cluster s.nvm s.dbg s.upd
      s.gio) = π s from (hπ 16 rfl s v16)]

theorem Stays.mk_pw (hπ : AllFree π 131072) {v17} : Stays π r0 (State.mk s.now s.frees s.pending s.regs s.act s.bus s.mem s.pwr s.clk s.therm s.valley s.plumb
      s.sins s.scans s.scanConvs s.souts s.conns v17 s.fb s.evr s.log s.doms s.grps s.legs s.holds
      s.trips s.sets s.mons s.phases s.drvs s.datum s.pair s.adcs s.lanes s.eng s.gens s.capMem s.rings
      s.grids s.isl s.trackers s.sweep s.rails s.cmdPorts s.monument s.meters s.cluster s.nvm s.dbg
      s.upd s.gio) ↔ Stays π r0 s := by
  unfold Stays; rw [show π (State.mk s.now s.frees s.pending s.regs s.act s.bus s.mem s.pwr s.clk s.therm s.valley s.plumb
      s.sins s.scans s.scanConvs s.souts s.conns v17 s.fb s.evr s.log s.doms s.grps s.legs s.holds
      s.trips s.sets s.mons s.phases s.drvs s.datum s.pair s.adcs s.lanes s.eng s.gens s.capMem s.rings
      s.grids s.isl s.trackers s.sweep s.rails s.cmdPorts s.monument s.meters s.cluster s.nvm s.dbg
      s.upd s.gio) = π s from (hπ 17 rfl s v17)]

theorem Stays.mk_fb (hπ : AllFree π 262144) {v18} : Stays π r0 (State.mk s.now s.frees s.pending s.regs s.act s.bus s.mem s.pwr s.clk s.therm s.valley s.plumb
      s.sins s.scans s.scanConvs s.souts s.conns s.pw v18 s.evr s.log s.doms s.grps s.legs s.holds
      s.trips s.sets s.mons s.phases s.drvs s.datum s.pair s.adcs s.lanes s.eng s.gens s.capMem s.rings
      s.grids s.isl s.trackers s.sweep s.rails s.cmdPorts s.monument s.meters s.cluster s.nvm s.dbg
      s.upd s.gio) ↔ Stays π r0 s := by
  unfold Stays; rw [show π (State.mk s.now s.frees s.pending s.regs s.act s.bus s.mem s.pwr s.clk s.therm s.valley s.plumb
      s.sins s.scans s.scanConvs s.souts s.conns s.pw v18 s.evr s.log s.doms s.grps s.legs s.holds
      s.trips s.sets s.mons s.phases s.drvs s.datum s.pair s.adcs s.lanes s.eng s.gens s.capMem s.rings
      s.grids s.isl s.trackers s.sweep s.rails s.cmdPorts s.monument s.meters s.cluster s.nvm s.dbg
      s.upd s.gio) = π s from (hπ 18 rfl s v18)]

theorem Stays.mk_evr (hπ : AllFree π 524288) {v19} : Stays π r0 (State.mk s.now s.frees s.pending s.regs s.act s.bus s.mem s.pwr s.clk s.therm s.valley s.plumb
      s.sins s.scans s.scanConvs s.souts s.conns s.pw s.fb v19 s.log s.doms s.grps s.legs s.holds
      s.trips s.sets s.mons s.phases s.drvs s.datum s.pair s.adcs s.lanes s.eng s.gens s.capMem s.rings
      s.grids s.isl s.trackers s.sweep s.rails s.cmdPorts s.monument s.meters s.cluster s.nvm s.dbg
      s.upd s.gio) ↔ Stays π r0 s := by
  unfold Stays; rw [show π (State.mk s.now s.frees s.pending s.regs s.act s.bus s.mem s.pwr s.clk s.therm s.valley s.plumb
      s.sins s.scans s.scanConvs s.souts s.conns s.pw s.fb v19 s.log s.doms s.grps s.legs s.holds
      s.trips s.sets s.mons s.phases s.drvs s.datum s.pair s.adcs s.lanes s.eng s.gens s.capMem s.rings
      s.grids s.isl s.trackers s.sweep s.rails s.cmdPorts s.monument s.meters s.cluster s.nvm s.dbg
      s.upd s.gio) = π s from (hπ 19 rfl s v19)]

theorem Stays.mk_log (hπ : AllFree π 1048576) {v20} : Stays π r0 (State.mk s.now s.frees s.pending s.regs s.act s.bus s.mem s.pwr s.clk s.therm s.valley s.plumb
      s.sins s.scans s.scanConvs s.souts s.conns s.pw s.fb s.evr v20 s.doms s.grps s.legs s.holds
      s.trips s.sets s.mons s.phases s.drvs s.datum s.pair s.adcs s.lanes s.eng s.gens s.capMem s.rings
      s.grids s.isl s.trackers s.sweep s.rails s.cmdPorts s.monument s.meters s.cluster s.nvm s.dbg
      s.upd s.gio) ↔ Stays π r0 s := by
  unfold Stays; rw [show π (State.mk s.now s.frees s.pending s.regs s.act s.bus s.mem s.pwr s.clk s.therm s.valley s.plumb
      s.sins s.scans s.scanConvs s.souts s.conns s.pw s.fb s.evr v20 s.doms s.grps s.legs s.holds
      s.trips s.sets s.mons s.phases s.drvs s.datum s.pair s.adcs s.lanes s.eng s.gens s.capMem s.rings
      s.grids s.isl s.trackers s.sweep s.rails s.cmdPorts s.monument s.meters s.cluster s.nvm s.dbg
      s.upd s.gio) = π s from (hπ 20 rfl s v20)]

theorem Stays.mk_doms (hπ : AllFree π 2097152) {v21} : Stays π r0 (State.mk s.now s.frees s.pending s.regs s.act s.bus s.mem s.pwr s.clk s.therm s.valley s.plumb
      s.sins s.scans s.scanConvs s.souts s.conns s.pw s.fb s.evr s.log v21 s.grps s.legs s.holds
      s.trips s.sets s.mons s.phases s.drvs s.datum s.pair s.adcs s.lanes s.eng s.gens s.capMem s.rings
      s.grids s.isl s.trackers s.sweep s.rails s.cmdPorts s.monument s.meters s.cluster s.nvm s.dbg
      s.upd s.gio) ↔ Stays π r0 s := by
  unfold Stays; rw [show π (State.mk s.now s.frees s.pending s.regs s.act s.bus s.mem s.pwr s.clk s.therm s.valley s.plumb
      s.sins s.scans s.scanConvs s.souts s.conns s.pw s.fb s.evr s.log v21 s.grps s.legs s.holds
      s.trips s.sets s.mons s.phases s.drvs s.datum s.pair s.adcs s.lanes s.eng s.gens s.capMem s.rings
      s.grids s.isl s.trackers s.sweep s.rails s.cmdPorts s.monument s.meters s.cluster s.nvm s.dbg
      s.upd s.gio) = π s from (hπ 21 rfl s v21)]

theorem Stays.mk_grps (hπ : AllFree π 4194304) {v22} : Stays π r0 (State.mk s.now s.frees s.pending s.regs s.act s.bus s.mem s.pwr s.clk s.therm s.valley s.plumb
      s.sins s.scans s.scanConvs s.souts s.conns s.pw s.fb s.evr s.log s.doms v22 s.legs s.holds
      s.trips s.sets s.mons s.phases s.drvs s.datum s.pair s.adcs s.lanes s.eng s.gens s.capMem s.rings
      s.grids s.isl s.trackers s.sweep s.rails s.cmdPorts s.monument s.meters s.cluster s.nvm s.dbg
      s.upd s.gio) ↔ Stays π r0 s := by
  unfold Stays; rw [show π (State.mk s.now s.frees s.pending s.regs s.act s.bus s.mem s.pwr s.clk s.therm s.valley s.plumb
      s.sins s.scans s.scanConvs s.souts s.conns s.pw s.fb s.evr s.log s.doms v22 s.legs s.holds
      s.trips s.sets s.mons s.phases s.drvs s.datum s.pair s.adcs s.lanes s.eng s.gens s.capMem s.rings
      s.grids s.isl s.trackers s.sweep s.rails s.cmdPorts s.monument s.meters s.cluster s.nvm s.dbg
      s.upd s.gio) = π s from (hπ 22 rfl s v22)]

theorem Stays.mk_legs (hπ : AllFree π 8388608) {v23} : Stays π r0 (State.mk s.now s.frees s.pending s.regs s.act s.bus s.mem s.pwr s.clk s.therm s.valley s.plumb
      s.sins s.scans s.scanConvs s.souts s.conns s.pw s.fb s.evr s.log s.doms s.grps v23 s.holds
      s.trips s.sets s.mons s.phases s.drvs s.datum s.pair s.adcs s.lanes s.eng s.gens s.capMem s.rings
      s.grids s.isl s.trackers s.sweep s.rails s.cmdPorts s.monument s.meters s.cluster s.nvm s.dbg
      s.upd s.gio) ↔ Stays π r0 s := by
  unfold Stays; rw [show π (State.mk s.now s.frees s.pending s.regs s.act s.bus s.mem s.pwr s.clk s.therm s.valley s.plumb
      s.sins s.scans s.scanConvs s.souts s.conns s.pw s.fb s.evr s.log s.doms s.grps v23 s.holds
      s.trips s.sets s.mons s.phases s.drvs s.datum s.pair s.adcs s.lanes s.eng s.gens s.capMem s.rings
      s.grids s.isl s.trackers s.sweep s.rails s.cmdPorts s.monument s.meters s.cluster s.nvm s.dbg
      s.upd s.gio) = π s from (hπ 23 rfl s v23)]

theorem Stays.mk_holds (hπ : AllFree π 16777216) {v24} : Stays π r0 (State.mk s.now s.frees s.pending s.regs s.act s.bus s.mem s.pwr s.clk s.therm s.valley s.plumb
      s.sins s.scans s.scanConvs s.souts s.conns s.pw s.fb s.evr s.log s.doms s.grps s.legs v24 s.trips
      s.sets s.mons s.phases s.drvs s.datum s.pair s.adcs s.lanes s.eng s.gens s.capMem s.rings s.grids
      s.isl s.trackers s.sweep s.rails s.cmdPorts s.monument s.meters s.cluster s.nvm s.dbg s.upd
      s.gio) ↔ Stays π r0 s := by
  unfold Stays; rw [show π (State.mk s.now s.frees s.pending s.regs s.act s.bus s.mem s.pwr s.clk s.therm s.valley s.plumb
      s.sins s.scans s.scanConvs s.souts s.conns s.pw s.fb s.evr s.log s.doms s.grps s.legs v24 s.trips
      s.sets s.mons s.phases s.drvs s.datum s.pair s.adcs s.lanes s.eng s.gens s.capMem s.rings s.grids
      s.isl s.trackers s.sweep s.rails s.cmdPorts s.monument s.meters s.cluster s.nvm s.dbg s.upd
      s.gio) = π s from (hπ 24 rfl s v24)]

theorem Stays.mk_trips (hπ : AllFree π 33554432) {v25} : Stays π r0 (State.mk s.now s.frees s.pending s.regs s.act s.bus s.mem s.pwr s.clk s.therm s.valley s.plumb
      s.sins s.scans s.scanConvs s.souts s.conns s.pw s.fb s.evr s.log s.doms s.grps s.legs s.holds
      v25 s.sets s.mons s.phases s.drvs s.datum s.pair s.adcs s.lanes s.eng s.gens s.capMem s.rings
      s.grids s.isl s.trackers s.sweep s.rails s.cmdPorts s.monument s.meters s.cluster s.nvm s.dbg
      s.upd s.gio) ↔ Stays π r0 s := by
  unfold Stays; rw [show π (State.mk s.now s.frees s.pending s.regs s.act s.bus s.mem s.pwr s.clk s.therm s.valley s.plumb
      s.sins s.scans s.scanConvs s.souts s.conns s.pw s.fb s.evr s.log s.doms s.grps s.legs s.holds
      v25 s.sets s.mons s.phases s.drvs s.datum s.pair s.adcs s.lanes s.eng s.gens s.capMem s.rings
      s.grids s.isl s.trackers s.sweep s.rails s.cmdPorts s.monument s.meters s.cluster s.nvm s.dbg
      s.upd s.gio) = π s from (hπ 25 rfl s v25)]

theorem Stays.mk_sets (hπ : AllFree π 67108864) {v26} : Stays π r0 (State.mk s.now s.frees s.pending s.regs s.act s.bus s.mem s.pwr s.clk s.therm s.valley s.plumb
      s.sins s.scans s.scanConvs s.souts s.conns s.pw s.fb s.evr s.log s.doms s.grps s.legs s.holds
      s.trips v26 s.mons s.phases s.drvs s.datum s.pair s.adcs s.lanes s.eng s.gens s.capMem s.rings
      s.grids s.isl s.trackers s.sweep s.rails s.cmdPorts s.monument s.meters s.cluster s.nvm s.dbg
      s.upd s.gio) ↔ Stays π r0 s := by
  unfold Stays; rw [show π (State.mk s.now s.frees s.pending s.regs s.act s.bus s.mem s.pwr s.clk s.therm s.valley s.plumb
      s.sins s.scans s.scanConvs s.souts s.conns s.pw s.fb s.evr s.log s.doms s.grps s.legs s.holds
      s.trips v26 s.mons s.phases s.drvs s.datum s.pair s.adcs s.lanes s.eng s.gens s.capMem s.rings
      s.grids s.isl s.trackers s.sweep s.rails s.cmdPorts s.monument s.meters s.cluster s.nvm s.dbg
      s.upd s.gio) = π s from (hπ 26 rfl s v26)]

theorem Stays.mk_mons (hπ : AllFree π 134217728) {v27} : Stays π r0 (State.mk s.now s.frees s.pending s.regs s.act s.bus s.mem s.pwr s.clk s.therm s.valley s.plumb
      s.sins s.scans s.scanConvs s.souts s.conns s.pw s.fb s.evr s.log s.doms s.grps s.legs s.holds
      s.trips s.sets v27 s.phases s.drvs s.datum s.pair s.adcs s.lanes s.eng s.gens s.capMem s.rings
      s.grids s.isl s.trackers s.sweep s.rails s.cmdPorts s.monument s.meters s.cluster s.nvm s.dbg
      s.upd s.gio) ↔ Stays π r0 s := by
  unfold Stays; rw [show π (State.mk s.now s.frees s.pending s.regs s.act s.bus s.mem s.pwr s.clk s.therm s.valley s.plumb
      s.sins s.scans s.scanConvs s.souts s.conns s.pw s.fb s.evr s.log s.doms s.grps s.legs s.holds
      s.trips s.sets v27 s.phases s.drvs s.datum s.pair s.adcs s.lanes s.eng s.gens s.capMem s.rings
      s.grids s.isl s.trackers s.sweep s.rails s.cmdPorts s.monument s.meters s.cluster s.nvm s.dbg
      s.upd s.gio) = π s from (hπ 27 rfl s v27)]

theorem Stays.mk_phases (hπ : AllFree π 268435456) {v28} : Stays π r0 (State.mk s.now s.frees s.pending s.regs s.act s.bus s.mem s.pwr s.clk s.therm s.valley s.plumb
      s.sins s.scans s.scanConvs s.souts s.conns s.pw s.fb s.evr s.log s.doms s.grps s.legs s.holds
      s.trips s.sets s.mons v28 s.drvs s.datum s.pair s.adcs s.lanes s.eng s.gens s.capMem s.rings
      s.grids s.isl s.trackers s.sweep s.rails s.cmdPorts s.monument s.meters s.cluster s.nvm s.dbg
      s.upd s.gio) ↔ Stays π r0 s := by
  unfold Stays; rw [show π (State.mk s.now s.frees s.pending s.regs s.act s.bus s.mem s.pwr s.clk s.therm s.valley s.plumb
      s.sins s.scans s.scanConvs s.souts s.conns s.pw s.fb s.evr s.log s.doms s.grps s.legs s.holds
      s.trips s.sets s.mons v28 s.drvs s.datum s.pair s.adcs s.lanes s.eng s.gens s.capMem s.rings
      s.grids s.isl s.trackers s.sweep s.rails s.cmdPorts s.monument s.meters s.cluster s.nvm s.dbg
      s.upd s.gio) = π s from (hπ 28 rfl s v28)]

theorem Stays.mk_drvs (hπ : AllFree π 536870912) {v29} : Stays π r0 (State.mk s.now s.frees s.pending s.regs s.act s.bus s.mem s.pwr s.clk s.therm s.valley s.plumb
      s.sins s.scans s.scanConvs s.souts s.conns s.pw s.fb s.evr s.log s.doms s.grps s.legs s.holds
      s.trips s.sets s.mons s.phases v29 s.datum s.pair s.adcs s.lanes s.eng s.gens s.capMem s.rings
      s.grids s.isl s.trackers s.sweep s.rails s.cmdPorts s.monument s.meters s.cluster s.nvm s.dbg
      s.upd s.gio) ↔ Stays π r0 s := by
  unfold Stays; rw [show π (State.mk s.now s.frees s.pending s.regs s.act s.bus s.mem s.pwr s.clk s.therm s.valley s.plumb
      s.sins s.scans s.scanConvs s.souts s.conns s.pw s.fb s.evr s.log s.doms s.grps s.legs s.holds
      s.trips s.sets s.mons s.phases v29 s.datum s.pair s.adcs s.lanes s.eng s.gens s.capMem s.rings
      s.grids s.isl s.trackers s.sweep s.rails s.cmdPorts s.monument s.meters s.cluster s.nvm s.dbg
      s.upd s.gio) = π s from (hπ 29 rfl s v29)]

theorem Stays.mk_datum (hπ : AllFree π 1073741824) {v30} : Stays π r0 (State.mk s.now s.frees s.pending s.regs s.act s.bus s.mem s.pwr s.clk s.therm s.valley s.plumb
      s.sins s.scans s.scanConvs s.souts s.conns s.pw s.fb s.evr s.log s.doms s.grps s.legs s.holds
      s.trips s.sets s.mons s.phases s.drvs v30 s.pair s.adcs s.lanes s.eng s.gens s.capMem s.rings
      s.grids s.isl s.trackers s.sweep s.rails s.cmdPorts s.monument s.meters s.cluster s.nvm s.dbg
      s.upd s.gio) ↔ Stays π r0 s := by
  unfold Stays; rw [show π (State.mk s.now s.frees s.pending s.regs s.act s.bus s.mem s.pwr s.clk s.therm s.valley s.plumb
      s.sins s.scans s.scanConvs s.souts s.conns s.pw s.fb s.evr s.log s.doms s.grps s.legs s.holds
      s.trips s.sets s.mons s.phases s.drvs v30 s.pair s.adcs s.lanes s.eng s.gens s.capMem s.rings
      s.grids s.isl s.trackers s.sweep s.rails s.cmdPorts s.monument s.meters s.cluster s.nvm s.dbg
      s.upd s.gio) = π s from (hπ 30 rfl s v30)]

theorem Stays.mk_pair (hπ : AllFree π 2147483648) {v31} : Stays π r0 (State.mk s.now s.frees s.pending s.regs s.act s.bus s.mem s.pwr s.clk s.therm s.valley s.plumb
      s.sins s.scans s.scanConvs s.souts s.conns s.pw s.fb s.evr s.log s.doms s.grps s.legs s.holds
      s.trips s.sets s.mons s.phases s.drvs s.datum v31 s.adcs s.lanes s.eng s.gens s.capMem s.rings
      s.grids s.isl s.trackers s.sweep s.rails s.cmdPorts s.monument s.meters s.cluster s.nvm s.dbg
      s.upd s.gio) ↔ Stays π r0 s := by
  unfold Stays; rw [show π (State.mk s.now s.frees s.pending s.regs s.act s.bus s.mem s.pwr s.clk s.therm s.valley s.plumb
      s.sins s.scans s.scanConvs s.souts s.conns s.pw s.fb s.evr s.log s.doms s.grps s.legs s.holds
      s.trips s.sets s.mons s.phases s.drvs s.datum v31 s.adcs s.lanes s.eng s.gens s.capMem s.rings
      s.grids s.isl s.trackers s.sweep s.rails s.cmdPorts s.monument s.meters s.cluster s.nvm s.dbg
      s.upd s.gio) = π s from (hπ 31 rfl s v31)]

theorem Stays.mk_adcs (hπ : AllFree π 4294967296) {v32} : Stays π r0 (State.mk s.now s.frees s.pending s.regs s.act s.bus s.mem s.pwr s.clk s.therm s.valley s.plumb
      s.sins s.scans s.scanConvs s.souts s.conns s.pw s.fb s.evr s.log s.doms s.grps s.legs s.holds
      s.trips s.sets s.mons s.phases s.drvs s.datum s.pair v32 s.lanes s.eng s.gens s.capMem s.rings
      s.grids s.isl s.trackers s.sweep s.rails s.cmdPorts s.monument s.meters s.cluster s.nvm s.dbg
      s.upd s.gio) ↔ Stays π r0 s := by
  unfold Stays; rw [show π (State.mk s.now s.frees s.pending s.regs s.act s.bus s.mem s.pwr s.clk s.therm s.valley s.plumb
      s.sins s.scans s.scanConvs s.souts s.conns s.pw s.fb s.evr s.log s.doms s.grps s.legs s.holds
      s.trips s.sets s.mons s.phases s.drvs s.datum s.pair v32 s.lanes s.eng s.gens s.capMem s.rings
      s.grids s.isl s.trackers s.sweep s.rails s.cmdPorts s.monument s.meters s.cluster s.nvm s.dbg
      s.upd s.gio) = π s from (hπ 32 rfl s v32)]

theorem Stays.mk_lanes (hπ : AllFree π 8589934592) {v33} : Stays π r0 (State.mk s.now s.frees s.pending s.regs s.act s.bus s.mem s.pwr s.clk s.therm s.valley s.plumb
      s.sins s.scans s.scanConvs s.souts s.conns s.pw s.fb s.evr s.log s.doms s.grps s.legs s.holds
      s.trips s.sets s.mons s.phases s.drvs s.datum s.pair s.adcs v33 s.eng s.gens s.capMem s.rings
      s.grids s.isl s.trackers s.sweep s.rails s.cmdPorts s.monument s.meters s.cluster s.nvm s.dbg
      s.upd s.gio) ↔ Stays π r0 s := by
  unfold Stays; rw [show π (State.mk s.now s.frees s.pending s.regs s.act s.bus s.mem s.pwr s.clk s.therm s.valley s.plumb
      s.sins s.scans s.scanConvs s.souts s.conns s.pw s.fb s.evr s.log s.doms s.grps s.legs s.holds
      s.trips s.sets s.mons s.phases s.drvs s.datum s.pair s.adcs v33 s.eng s.gens s.capMem s.rings
      s.grids s.isl s.trackers s.sweep s.rails s.cmdPorts s.monument s.meters s.cluster s.nvm s.dbg
      s.upd s.gio) = π s from (hπ 33 rfl s v33)]

theorem Stays.mk_eng (hπ : AllFree π 17179869184) {v34} : Stays π r0 (State.mk s.now s.frees s.pending s.regs s.act s.bus s.mem s.pwr s.clk s.therm s.valley s.plumb
      s.sins s.scans s.scanConvs s.souts s.conns s.pw s.fb s.evr s.log s.doms s.grps s.legs s.holds
      s.trips s.sets s.mons s.phases s.drvs s.datum s.pair s.adcs s.lanes v34 s.gens s.capMem s.rings
      s.grids s.isl s.trackers s.sweep s.rails s.cmdPorts s.monument s.meters s.cluster s.nvm s.dbg
      s.upd s.gio) ↔ Stays π r0 s := by
  unfold Stays; rw [show π (State.mk s.now s.frees s.pending s.regs s.act s.bus s.mem s.pwr s.clk s.therm s.valley s.plumb
      s.sins s.scans s.scanConvs s.souts s.conns s.pw s.fb s.evr s.log s.doms s.grps s.legs s.holds
      s.trips s.sets s.mons s.phases s.drvs s.datum s.pair s.adcs s.lanes v34 s.gens s.capMem s.rings
      s.grids s.isl s.trackers s.sweep s.rails s.cmdPorts s.monument s.meters s.cluster s.nvm s.dbg
      s.upd s.gio) = π s from (hπ 34 rfl s v34)]

theorem Stays.mk_gens (hπ : AllFree π 34359738368) {v35} : Stays π r0 (State.mk s.now s.frees s.pending s.regs s.act s.bus s.mem s.pwr s.clk s.therm s.valley s.plumb
      s.sins s.scans s.scanConvs s.souts s.conns s.pw s.fb s.evr s.log s.doms s.grps s.legs s.holds
      s.trips s.sets s.mons s.phases s.drvs s.datum s.pair s.adcs s.lanes s.eng v35 s.capMem s.rings
      s.grids s.isl s.trackers s.sweep s.rails s.cmdPorts s.monument s.meters s.cluster s.nvm s.dbg
      s.upd s.gio) ↔ Stays π r0 s := by
  unfold Stays; rw [show π (State.mk s.now s.frees s.pending s.regs s.act s.bus s.mem s.pwr s.clk s.therm s.valley s.plumb
      s.sins s.scans s.scanConvs s.souts s.conns s.pw s.fb s.evr s.log s.doms s.grps s.legs s.holds
      s.trips s.sets s.mons s.phases s.drvs s.datum s.pair s.adcs s.lanes s.eng v35 s.capMem s.rings
      s.grids s.isl s.trackers s.sweep s.rails s.cmdPorts s.monument s.meters s.cluster s.nvm s.dbg
      s.upd s.gio) = π s from (hπ 35 rfl s v35)]

theorem Stays.mk_capMem (hπ : AllFree π 68719476736) {v36} : Stays π r0 (State.mk s.now s.frees s.pending s.regs s.act s.bus s.mem s.pwr s.clk s.therm s.valley s.plumb
      s.sins s.scans s.scanConvs s.souts s.conns s.pw s.fb s.evr s.log s.doms s.grps s.legs s.holds
      s.trips s.sets s.mons s.phases s.drvs s.datum s.pair s.adcs s.lanes s.eng s.gens v36 s.rings
      s.grids s.isl s.trackers s.sweep s.rails s.cmdPorts s.monument s.meters s.cluster s.nvm s.dbg
      s.upd s.gio) ↔ Stays π r0 s := by
  unfold Stays; rw [show π (State.mk s.now s.frees s.pending s.regs s.act s.bus s.mem s.pwr s.clk s.therm s.valley s.plumb
      s.sins s.scans s.scanConvs s.souts s.conns s.pw s.fb s.evr s.log s.doms s.grps s.legs s.holds
      s.trips s.sets s.mons s.phases s.drvs s.datum s.pair s.adcs s.lanes s.eng s.gens v36 s.rings
      s.grids s.isl s.trackers s.sweep s.rails s.cmdPorts s.monument s.meters s.cluster s.nvm s.dbg
      s.upd s.gio) = π s from (hπ 36 rfl s v36)]

theorem Stays.mk_rings (hπ : AllFree π 137438953472) {v37} : Stays π r0 (State.mk s.now s.frees s.pending s.regs s.act s.bus s.mem s.pwr s.clk s.therm s.valley s.plumb
      s.sins s.scans s.scanConvs s.souts s.conns s.pw s.fb s.evr s.log s.doms s.grps s.legs s.holds
      s.trips s.sets s.mons s.phases s.drvs s.datum s.pair s.adcs s.lanes s.eng s.gens s.capMem v37
      s.grids s.isl s.trackers s.sweep s.rails s.cmdPorts s.monument s.meters s.cluster s.nvm s.dbg
      s.upd s.gio) ↔ Stays π r0 s := by
  unfold Stays; rw [show π (State.mk s.now s.frees s.pending s.regs s.act s.bus s.mem s.pwr s.clk s.therm s.valley s.plumb
      s.sins s.scans s.scanConvs s.souts s.conns s.pw s.fb s.evr s.log s.doms s.grps s.legs s.holds
      s.trips s.sets s.mons s.phases s.drvs s.datum s.pair s.adcs s.lanes s.eng s.gens s.capMem v37
      s.grids s.isl s.trackers s.sweep s.rails s.cmdPorts s.monument s.meters s.cluster s.nvm s.dbg
      s.upd s.gio) = π s from (hπ 37 rfl s v37)]

theorem Stays.mk_grids (hπ : AllFree π 274877906944) {v38} : Stays π r0 (State.mk s.now s.frees s.pending s.regs s.act s.bus s.mem s.pwr s.clk s.therm s.valley s.plumb
      s.sins s.scans s.scanConvs s.souts s.conns s.pw s.fb s.evr s.log s.doms s.grps s.legs s.holds
      s.trips s.sets s.mons s.phases s.drvs s.datum s.pair s.adcs s.lanes s.eng s.gens s.capMem s.rings
      v38 s.isl s.trackers s.sweep s.rails s.cmdPorts s.monument s.meters s.cluster s.nvm s.dbg s.upd
      s.gio) ↔ Stays π r0 s := by
  unfold Stays; rw [show π (State.mk s.now s.frees s.pending s.regs s.act s.bus s.mem s.pwr s.clk s.therm s.valley s.plumb
      s.sins s.scans s.scanConvs s.souts s.conns s.pw s.fb s.evr s.log s.doms s.grps s.legs s.holds
      s.trips s.sets s.mons s.phases s.drvs s.datum s.pair s.adcs s.lanes s.eng s.gens s.capMem s.rings
      v38 s.isl s.trackers s.sweep s.rails s.cmdPorts s.monument s.meters s.cluster s.nvm s.dbg s.upd
      s.gio) = π s from (hπ 38 rfl s v38)]

theorem Stays.mk_isl (hπ : AllFree π 549755813888) {v39} : Stays π r0 (State.mk s.now s.frees s.pending s.regs s.act s.bus s.mem s.pwr s.clk s.therm s.valley s.plumb
      s.sins s.scans s.scanConvs s.souts s.conns s.pw s.fb s.evr s.log s.doms s.grps s.legs s.holds
      s.trips s.sets s.mons s.phases s.drvs s.datum s.pair s.adcs s.lanes s.eng s.gens s.capMem s.rings
      s.grids v39 s.trackers s.sweep s.rails s.cmdPorts s.monument s.meters s.cluster s.nvm s.dbg
      s.upd s.gio) ↔ Stays π r0 s := by
  unfold Stays; rw [show π (State.mk s.now s.frees s.pending s.regs s.act s.bus s.mem s.pwr s.clk s.therm s.valley s.plumb
      s.sins s.scans s.scanConvs s.souts s.conns s.pw s.fb s.evr s.log s.doms s.grps s.legs s.holds
      s.trips s.sets s.mons s.phases s.drvs s.datum s.pair s.adcs s.lanes s.eng s.gens s.capMem s.rings
      s.grids v39 s.trackers s.sweep s.rails s.cmdPorts s.monument s.meters s.cluster s.nvm s.dbg
      s.upd s.gio) = π s from (hπ 39 rfl s v39)]

theorem Stays.mk_trackers (hπ : AllFree π 1099511627776) {v40} : Stays π r0 (State.mk s.now s.frees s.pending s.regs s.act s.bus s.mem s.pwr s.clk s.therm s.valley s.plumb
      s.sins s.scans s.scanConvs s.souts s.conns s.pw s.fb s.evr s.log s.doms s.grps s.legs s.holds
      s.trips s.sets s.mons s.phases s.drvs s.datum s.pair s.adcs s.lanes s.eng s.gens s.capMem s.rings
      s.grids s.isl v40 s.sweep s.rails s.cmdPorts s.monument s.meters s.cluster s.nvm s.dbg s.upd
      s.gio) ↔ Stays π r0 s := by
  unfold Stays; rw [show π (State.mk s.now s.frees s.pending s.regs s.act s.bus s.mem s.pwr s.clk s.therm s.valley s.plumb
      s.sins s.scans s.scanConvs s.souts s.conns s.pw s.fb s.evr s.log s.doms s.grps s.legs s.holds
      s.trips s.sets s.mons s.phases s.drvs s.datum s.pair s.adcs s.lanes s.eng s.gens s.capMem s.rings
      s.grids s.isl v40 s.sweep s.rails s.cmdPorts s.monument s.meters s.cluster s.nvm s.dbg s.upd
      s.gio) = π s from (hπ 40 rfl s v40)]

theorem Stays.mk_sweep (hπ : AllFree π 2199023255552) {v41} : Stays π r0 (State.mk s.now s.frees s.pending s.regs s.act s.bus s.mem s.pwr s.clk s.therm s.valley s.plumb
      s.sins s.scans s.scanConvs s.souts s.conns s.pw s.fb s.evr s.log s.doms s.grps s.legs s.holds
      s.trips s.sets s.mons s.phases s.drvs s.datum s.pair s.adcs s.lanes s.eng s.gens s.capMem s.rings
      s.grids s.isl s.trackers v41 s.rails s.cmdPorts s.monument s.meters s.cluster s.nvm s.dbg s.upd
      s.gio) ↔ Stays π r0 s := by
  unfold Stays; rw [show π (State.mk s.now s.frees s.pending s.regs s.act s.bus s.mem s.pwr s.clk s.therm s.valley s.plumb
      s.sins s.scans s.scanConvs s.souts s.conns s.pw s.fb s.evr s.log s.doms s.grps s.legs s.holds
      s.trips s.sets s.mons s.phases s.drvs s.datum s.pair s.adcs s.lanes s.eng s.gens s.capMem s.rings
      s.grids s.isl s.trackers v41 s.rails s.cmdPorts s.monument s.meters s.cluster s.nvm s.dbg s.upd
      s.gio) = π s from (hπ 41 rfl s v41)]

theorem Stays.mk_rails (hπ : AllFree π 4398046511104) {v42} : Stays π r0 (State.mk s.now s.frees s.pending s.regs s.act s.bus s.mem s.pwr s.clk s.therm s.valley s.plumb
      s.sins s.scans s.scanConvs s.souts s.conns s.pw s.fb s.evr s.log s.doms s.grps s.legs s.holds
      s.trips s.sets s.mons s.phases s.drvs s.datum s.pair s.adcs s.lanes s.eng s.gens s.capMem s.rings
      s.grids s.isl s.trackers s.sweep v42 s.cmdPorts s.monument s.meters s.cluster s.nvm s.dbg s.upd
      s.gio) ↔ Stays π r0 s := by
  unfold Stays; rw [show π (State.mk s.now s.frees s.pending s.regs s.act s.bus s.mem s.pwr s.clk s.therm s.valley s.plumb
      s.sins s.scans s.scanConvs s.souts s.conns s.pw s.fb s.evr s.log s.doms s.grps s.legs s.holds
      s.trips s.sets s.mons s.phases s.drvs s.datum s.pair s.adcs s.lanes s.eng s.gens s.capMem s.rings
      s.grids s.isl s.trackers s.sweep v42 s.cmdPorts s.monument s.meters s.cluster s.nvm s.dbg s.upd
      s.gio) = π s from (hπ 42 rfl s v42)]

theorem Stays.mk_cmdPorts (hπ : AllFree π 8796093022208) {v43} : Stays π r0 (State.mk s.now s.frees s.pending s.regs s.act s.bus s.mem s.pwr s.clk s.therm s.valley s.plumb
      s.sins s.scans s.scanConvs s.souts s.conns s.pw s.fb s.evr s.log s.doms s.grps s.legs s.holds
      s.trips s.sets s.mons s.phases s.drvs s.datum s.pair s.adcs s.lanes s.eng s.gens s.capMem s.rings
      s.grids s.isl s.trackers s.sweep s.rails v43 s.monument s.meters s.cluster s.nvm s.dbg s.upd
      s.gio) ↔ Stays π r0 s := by
  unfold Stays; rw [show π (State.mk s.now s.frees s.pending s.regs s.act s.bus s.mem s.pwr s.clk s.therm s.valley s.plumb
      s.sins s.scans s.scanConvs s.souts s.conns s.pw s.fb s.evr s.log s.doms s.grps s.legs s.holds
      s.trips s.sets s.mons s.phases s.drvs s.datum s.pair s.adcs s.lanes s.eng s.gens s.capMem s.rings
      s.grids s.isl s.trackers s.sweep s.rails v43 s.monument s.meters s.cluster s.nvm s.dbg s.upd
      s.gio) = π s from (hπ 43 rfl s v43)]

theorem Stays.mk_monument (hπ : AllFree π 17592186044416) {v44} : Stays π r0 (State.mk s.now s.frees s.pending s.regs s.act s.bus s.mem s.pwr s.clk s.therm s.valley s.plumb
      s.sins s.scans s.scanConvs s.souts s.conns s.pw s.fb s.evr s.log s.doms s.grps s.legs s.holds
      s.trips s.sets s.mons s.phases s.drvs s.datum s.pair s.adcs s.lanes s.eng s.gens s.capMem s.rings
      s.grids s.isl s.trackers s.sweep s.rails s.cmdPorts v44 s.meters s.cluster s.nvm s.dbg s.upd
      s.gio) ↔ Stays π r0 s := by
  unfold Stays; rw [show π (State.mk s.now s.frees s.pending s.regs s.act s.bus s.mem s.pwr s.clk s.therm s.valley s.plumb
      s.sins s.scans s.scanConvs s.souts s.conns s.pw s.fb s.evr s.log s.doms s.grps s.legs s.holds
      s.trips s.sets s.mons s.phases s.drvs s.datum s.pair s.adcs s.lanes s.eng s.gens s.capMem s.rings
      s.grids s.isl s.trackers s.sweep s.rails s.cmdPorts v44 s.meters s.cluster s.nvm s.dbg s.upd
      s.gio) = π s from (hπ 44 rfl s v44)]

theorem Stays.mk_meters (hπ : AllFree π 35184372088832) {v45} : Stays π r0 (State.mk s.now s.frees s.pending s.regs s.act s.bus s.mem s.pwr s.clk s.therm s.valley s.plumb
      s.sins s.scans s.scanConvs s.souts s.conns s.pw s.fb s.evr s.log s.doms s.grps s.legs s.holds
      s.trips s.sets s.mons s.phases s.drvs s.datum s.pair s.adcs s.lanes s.eng s.gens s.capMem s.rings
      s.grids s.isl s.trackers s.sweep s.rails s.cmdPorts s.monument v45 s.cluster s.nvm s.dbg s.upd
      s.gio) ↔ Stays π r0 s := by
  unfold Stays; rw [show π (State.mk s.now s.frees s.pending s.regs s.act s.bus s.mem s.pwr s.clk s.therm s.valley s.plumb
      s.sins s.scans s.scanConvs s.souts s.conns s.pw s.fb s.evr s.log s.doms s.grps s.legs s.holds
      s.trips s.sets s.mons s.phases s.drvs s.datum s.pair s.adcs s.lanes s.eng s.gens s.capMem s.rings
      s.grids s.isl s.trackers s.sweep s.rails s.cmdPorts s.monument v45 s.cluster s.nvm s.dbg s.upd
      s.gio) = π s from (hπ 45 rfl s v45)]

theorem Stays.mk_cluster (hπ : AllFree π 70368744177664) {v46} : Stays π r0 (State.mk s.now s.frees s.pending s.regs s.act s.bus s.mem s.pwr s.clk s.therm s.valley s.plumb
      s.sins s.scans s.scanConvs s.souts s.conns s.pw s.fb s.evr s.log s.doms s.grps s.legs s.holds
      s.trips s.sets s.mons s.phases s.drvs s.datum s.pair s.adcs s.lanes s.eng s.gens s.capMem s.rings
      s.grids s.isl s.trackers s.sweep s.rails s.cmdPorts s.monument s.meters v46 s.nvm s.dbg s.upd
      s.gio) ↔ Stays π r0 s := by
  unfold Stays; rw [show π (State.mk s.now s.frees s.pending s.regs s.act s.bus s.mem s.pwr s.clk s.therm s.valley s.plumb
      s.sins s.scans s.scanConvs s.souts s.conns s.pw s.fb s.evr s.log s.doms s.grps s.legs s.holds
      s.trips s.sets s.mons s.phases s.drvs s.datum s.pair s.adcs s.lanes s.eng s.gens s.capMem s.rings
      s.grids s.isl s.trackers s.sweep s.rails s.cmdPorts s.monument s.meters v46 s.nvm s.dbg s.upd
      s.gio) = π s from (hπ 46 rfl s v46)]

theorem Stays.mk_nvm (hπ : AllFree π 140737488355328) {v47} : Stays π r0 (State.mk s.now s.frees s.pending s.regs s.act s.bus s.mem s.pwr s.clk s.therm s.valley s.plumb
      s.sins s.scans s.scanConvs s.souts s.conns s.pw s.fb s.evr s.log s.doms s.grps s.legs s.holds
      s.trips s.sets s.mons s.phases s.drvs s.datum s.pair s.adcs s.lanes s.eng s.gens s.capMem s.rings
      s.grids s.isl s.trackers s.sweep s.rails s.cmdPorts s.monument s.meters s.cluster v47 s.dbg
      s.upd s.gio) ↔ Stays π r0 s := by
  unfold Stays; rw [show π (State.mk s.now s.frees s.pending s.regs s.act s.bus s.mem s.pwr s.clk s.therm s.valley s.plumb
      s.sins s.scans s.scanConvs s.souts s.conns s.pw s.fb s.evr s.log s.doms s.grps s.legs s.holds
      s.trips s.sets s.mons s.phases s.drvs s.datum s.pair s.adcs s.lanes s.eng s.gens s.capMem s.rings
      s.grids s.isl s.trackers s.sweep s.rails s.cmdPorts s.monument s.meters s.cluster v47 s.dbg
      s.upd s.gio) = π s from (hπ 47 rfl s v47)]

theorem Stays.mk_dbg (hπ : AllFree π 281474976710656) {v48} : Stays π r0 (State.mk s.now s.frees s.pending s.regs s.act s.bus s.mem s.pwr s.clk s.therm s.valley s.plumb
      s.sins s.scans s.scanConvs s.souts s.conns s.pw s.fb s.evr s.log s.doms s.grps s.legs s.holds
      s.trips s.sets s.mons s.phases s.drvs s.datum s.pair s.adcs s.lanes s.eng s.gens s.capMem s.rings
      s.grids s.isl s.trackers s.sweep s.rails s.cmdPorts s.monument s.meters s.cluster s.nvm v48
      s.upd s.gio) ↔ Stays π r0 s := by
  unfold Stays; rw [show π (State.mk s.now s.frees s.pending s.regs s.act s.bus s.mem s.pwr s.clk s.therm s.valley s.plumb
      s.sins s.scans s.scanConvs s.souts s.conns s.pw s.fb s.evr s.log s.doms s.grps s.legs s.holds
      s.trips s.sets s.mons s.phases s.drvs s.datum s.pair s.adcs s.lanes s.eng s.gens s.capMem s.rings
      s.grids s.isl s.trackers s.sweep s.rails s.cmdPorts s.monument s.meters s.cluster s.nvm v48
      s.upd s.gio) = π s from (hπ 48 rfl s v48)]

theorem Stays.mk_upd (hπ : AllFree π 562949953421312) {v49} : Stays π r0 (State.mk s.now s.frees s.pending s.regs s.act s.bus s.mem s.pwr s.clk s.therm s.valley s.plumb
      s.sins s.scans s.scanConvs s.souts s.conns s.pw s.fb s.evr s.log s.doms s.grps s.legs s.holds
      s.trips s.sets s.mons s.phases s.drvs s.datum s.pair s.adcs s.lanes s.eng s.gens s.capMem s.rings
      s.grids s.isl s.trackers s.sweep s.rails s.cmdPorts s.monument s.meters s.cluster s.nvm s.dbg
      v49 s.gio) ↔ Stays π r0 s := by
  unfold Stays; rw [show π (State.mk s.now s.frees s.pending s.regs s.act s.bus s.mem s.pwr s.clk s.therm s.valley s.plumb
      s.sins s.scans s.scanConvs s.souts s.conns s.pw s.fb s.evr s.log s.doms s.grps s.legs s.holds
      s.trips s.sets s.mons s.phases s.drvs s.datum s.pair s.adcs s.lanes s.eng s.gens s.capMem s.rings
      s.grids s.isl s.trackers s.sweep s.rails s.cmdPorts s.monument s.meters s.cluster s.nvm s.dbg
      v49 s.gio) = π s from (hπ 49 rfl s v49)]

theorem Stays.mk_gio (hπ : AllFree π 1125899906842624) {v50} : Stays π r0 (State.mk s.now s.frees s.pending s.regs s.act s.bus s.mem s.pwr s.clk s.therm s.valley s.plumb
      s.sins s.scans s.scanConvs s.souts s.conns s.pw s.fb s.evr s.log s.doms s.grps s.legs s.holds
      s.trips s.sets s.mons s.phases s.drvs s.datum s.pair s.adcs s.lanes s.eng s.gens s.capMem s.rings
      s.grids s.isl s.trackers s.sweep s.rails s.cmdPorts s.monument s.meters s.cluster s.nvm s.dbg
      s.upd v50) ↔ Stays π r0 s := by
  unfold Stays; rw [show π (State.mk s.now s.frees s.pending s.regs s.act s.bus s.mem s.pwr s.clk s.therm s.valley s.plumb
      s.sins s.scans s.scanConvs s.souts s.conns s.pw s.fb s.evr s.log s.doms s.grps s.legs s.holds
      s.trips s.sets s.mons s.phases s.drvs s.datum s.pair s.adcs s.lanes s.eng s.gens s.capMem s.rings
      s.grids s.isl s.trackers s.sweep s.rails s.cmdPorts s.monument s.meters s.cluster s.nvm s.dbg
      s.upd v50) = π s from (hπ 50 rfl s v50)]

theorem Stays.mk_regs_act (hπ : AllFree π 24) {v3 v4} : Stays π r0 (State.mk s.now s.frees s.pending v3 v4 s.bus s.mem s.pwr s.clk s.therm s.valley s.plumb s.sins
      s.scans s.scanConvs s.souts s.conns s.pw s.fb s.evr s.log s.doms s.grps s.legs s.holds s.trips
      s.sets s.mons s.phases s.drvs s.datum s.pair s.adcs s.lanes s.eng s.gens s.capMem s.rings s.grids
      s.isl s.trackers s.sweep s.rails s.cmdPorts s.monument s.meters s.cluster s.nvm s.dbg s.upd
      s.gio) ↔ Stays π r0 s := by
  unfold Stays; rw [show π (State.mk s.now s.frees s.pending v3 v4 s.bus s.mem s.pwr s.clk s.therm s.valley s.plumb s.sins
      s.scans s.scanConvs s.souts s.conns s.pw s.fb s.evr s.log s.doms s.grps s.legs s.holds s.trips
      s.sets s.mons s.phases s.drvs s.datum s.pair s.adcs s.lanes s.eng s.gens s.capMem s.rings s.grids
      s.isl s.trackers s.sweep s.rails s.cmdPorts s.monument s.meters s.cluster s.nvm s.dbg s.upd
      s.gio) = π s from ((hπ 3 rfl { s with act := v4 } v3).trans (hπ 4 rfl s v4))]

theorem Stays.mk_mem_rings (hπ : AllFree π 137438953536) {v6 v37} : Stays π r0 (State.mk s.now s.frees s.pending s.regs s.act s.bus v6 s.pwr s.clk s.therm s.valley s.plumb
      s.sins s.scans s.scanConvs s.souts s.conns s.pw s.fb s.evr s.log s.doms s.grps s.legs s.holds
      s.trips s.sets s.mons s.phases s.drvs s.datum s.pair s.adcs s.lanes s.eng s.gens s.capMem v37
      s.grids s.isl s.trackers s.sweep s.rails s.cmdPorts s.monument s.meters s.cluster s.nvm s.dbg
      s.upd s.gio) ↔ Stays π r0 s := by
  unfold Stays; rw [show π (State.mk s.now s.frees s.pending s.regs s.act s.bus v6 s.pwr s.clk s.therm s.valley s.plumb
      s.sins s.scans s.scanConvs s.souts s.conns s.pw s.fb s.evr s.log s.doms s.grps s.legs s.holds
      s.trips s.sets s.mons s.phases s.drvs s.datum s.pair s.adcs s.lanes s.eng s.gens s.capMem v37
      s.grids s.isl s.trackers s.sweep s.rails s.cmdPorts s.monument s.meters s.cluster s.nvm s.dbg
      s.upd s.gio) = π s from ((hπ 6 rfl { s with rings := v37 } v6).trans (hπ 37 rfl s v37))]

theorem Stays.mk_pwr_log (hπ : AllFree π 1048704) {v7 v20} : Stays π r0 (State.mk s.now s.frees s.pending s.regs s.act s.bus s.mem v7 s.clk s.therm s.valley s.plumb
      s.sins s.scans s.scanConvs s.souts s.conns s.pw s.fb s.evr v20 s.doms s.grps s.legs s.holds
      s.trips s.sets s.mons s.phases s.drvs s.datum s.pair s.adcs s.lanes s.eng s.gens s.capMem s.rings
      s.grids s.isl s.trackers s.sweep s.rails s.cmdPorts s.monument s.meters s.cluster s.nvm s.dbg
      s.upd s.gio) ↔ Stays π r0 s := by
  unfold Stays; rw [show π (State.mk s.now s.frees s.pending s.regs s.act s.bus s.mem v7 s.clk s.therm s.valley s.plumb
      s.sins s.scans s.scanConvs s.souts s.conns s.pw s.fb s.evr v20 s.doms s.grps s.legs s.holds
      s.trips s.sets s.mons s.phases s.drvs s.datum s.pair s.adcs s.lanes s.eng s.gens s.capMem s.rings
      s.grids s.isl s.trackers s.sweep s.rails s.cmdPorts s.monument s.meters s.cluster s.nvm s.dbg
      s.upd s.gio) = π s from ((hπ 7 rfl { s with log := v20 } v7).trans (hπ 20 rfl s v20))]

theorem Stays.mk_therm_log (hπ : AllFree π 1049088) {v9 v20} : Stays π r0 (State.mk s.now s.frees s.pending s.regs s.act s.bus s.mem s.pwr s.clk v9 s.valley s.plumb s.sins
      s.scans s.scanConvs s.souts s.conns s.pw s.fb s.evr v20 s.doms s.grps s.legs s.holds s.trips
      s.sets s.mons s.phases s.drvs s.datum s.pair s.adcs s.lanes s.eng s.gens s.capMem s.rings s.grids
      s.isl s.trackers s.sweep s.rails s.cmdPorts s.monument s.meters s.cluster s.nvm s.dbg s.upd
      s.gio) ↔ Stays π r0 s := by
  unfold Stays; rw [show π (State.mk s.now s.frees s.pending s.regs s.act s.bus s.mem s.pwr s.clk v9 s.valley s.plumb s.sins
      s.scans s.scanConvs s.souts s.conns s.pw s.fb s.evr v20 s.doms s.grps s.legs s.holds s.trips
      s.sets s.mons s.phases s.drvs s.datum s.pair s.adcs s.lanes s.eng s.gens s.capMem s.rings s.grids
      s.isl s.trackers s.sweep s.rails s.cmdPorts s.monument s.meters s.cluster s.nvm s.dbg s.upd
      s.gio) = π s from ((hπ 9 rfl { s with log := v20 } v9).trans (hπ 20 rfl s v20))]

theorem Stays.mk_plumb_holds (hπ : AllFree π 16779264) {v11 v24} : Stays π r0 (State.mk s.now s.frees s.pending s.regs s.act s.bus s.mem s.pwr s.clk s.therm s.valley v11
      s.sins s.scans s.scanConvs s.souts s.conns s.pw s.fb s.evr s.log s.doms s.grps s.legs v24 s.trips
      s.sets s.mons s.phases s.drvs s.datum s.pair s.adcs s.lanes s.eng s.gens s.capMem s.rings s.grids
      s.isl s.trackers s.sweep s.rails s.cmdPorts s.monument s.meters s.cluster s.nvm s.dbg s.upd
      s.gio) ↔ Stays π r0 s := by
  unfold Stays; rw [show π (State.mk s.now s.frees s.pending s.regs s.act s.bus s.mem s.pwr s.clk s.therm s.valley v11
      s.sins s.scans s.scanConvs s.souts s.conns s.pw s.fb s.evr s.log s.doms s.grps s.legs v24 s.trips
      s.sets s.mons s.phases s.drvs s.datum s.pair s.adcs s.lanes s.eng s.gens s.capMem s.rings s.grids
      s.isl s.trackers s.sweep s.rails s.cmdPorts s.monument s.meters s.cluster s.nvm s.dbg s.upd
      s.gio) = π s from ((hπ 11 rfl { s with holds := v24 } v11).trans (hπ 24 rfl s v24))]

theorem Stays.mk_conns_adcs (hπ : AllFree π 4295032832) {v16 v32} : Stays π r0 (State.mk s.now s.frees s.pending s.regs s.act s.bus s.mem s.pwr s.clk s.therm s.valley s.plumb
      s.sins s.scans s.scanConvs s.souts v16 s.pw s.fb s.evr s.log s.doms s.grps s.legs s.holds s.trips
      s.sets s.mons s.phases s.drvs s.datum s.pair v32 s.lanes s.eng s.gens s.capMem s.rings s.grids
      s.isl s.trackers s.sweep s.rails s.cmdPorts s.monument s.meters s.cluster s.nvm s.dbg s.upd
      s.gio) ↔ Stays π r0 s := by
  unfold Stays; rw [show π (State.mk s.now s.frees s.pending s.regs s.act s.bus s.mem s.pwr s.clk s.therm s.valley s.plumb
      s.sins s.scans s.scanConvs s.souts v16 s.pw s.fb s.evr s.log s.doms s.grps s.legs s.holds s.trips
      s.sets s.mons s.phases s.drvs s.datum s.pair v32 s.lanes s.eng s.gens s.capMem s.rings s.grids
      s.isl s.trackers s.sweep s.rails s.cmdPorts s.monument s.meters s.cluster s.nvm s.dbg s.upd
      s.gio) = π s from ((hπ 16 rfl { s with adcs := v32 } v16).trans (hπ 32 rfl s v32))]

theorem Stays.mk_conns_dbg (hπ : AllFree π 281474976776192) {v16 v48} : Stays π r0 (State.mk s.now s.frees s.pending s.regs s.act s.bus s.mem s.pwr s.clk s.therm s.valley s.plumb
      s.sins s.scans s.scanConvs s.souts v16 s.pw s.fb s.evr s.log s.doms s.grps s.legs s.holds s.trips
      s.sets s.mons s.phases s.drvs s.datum s.pair s.adcs s.lanes s.eng s.gens s.capMem s.rings s.grids
      s.isl s.trackers s.sweep s.rails s.cmdPorts s.monument s.meters s.cluster s.nvm v48 s.upd s.gio) ↔ Stays π r0 s := by
  unfold Stays; rw [show π (State.mk s.now s.frees s.pending s.regs s.act s.bus s.mem s.pwr s.clk s.therm s.valley s.plumb
      s.sins s.scans s.scanConvs s.souts v16 s.pw s.fb s.evr s.log s.doms s.grps s.legs s.holds s.trips
      s.sets s.mons s.phases s.drvs s.datum s.pair s.adcs s.lanes s.eng s.gens s.capMem s.rings s.grids
      s.isl s.trackers s.sweep s.rails s.cmdPorts s.monument s.meters s.cluster s.nvm v48 s.upd s.gio) = π s from ((hπ 16 rfl { s with dbg := v48 } v16).trans (hπ 48 rfl s v48))]

theorem Stays.mk_evr_log (hπ : AllFree π 1572864) {v19 v20} : Stays π r0 (State.mk s.now s.frees s.pending s.regs s.act s.bus s.mem s.pwr s.clk s.therm s.valley s.plumb
      s.sins s.scans s.scanConvs s.souts s.conns s.pw s.fb v19 v20 s.doms s.grps s.legs s.holds s.trips
      s.sets s.mons s.phases s.drvs s.datum s.pair s.adcs s.lanes s.eng s.gens s.capMem s.rings s.grids
      s.isl s.trackers s.sweep s.rails s.cmdPorts s.monument s.meters s.cluster s.nvm s.dbg s.upd
      s.gio) ↔ Stays π r0 s := by
  unfold Stays; rw [show π (State.mk s.now s.frees s.pending s.regs s.act s.bus s.mem s.pwr s.clk s.therm s.valley s.plumb
      s.sins s.scans s.scanConvs s.souts s.conns s.pw s.fb v19 v20 s.doms s.grps s.legs s.holds s.trips
      s.sets s.mons s.phases s.drvs s.datum s.pair s.adcs s.lanes s.eng s.gens s.capMem s.rings s.grids
      s.isl s.trackers s.sweep s.rails s.cmdPorts s.monument s.meters s.cluster s.nvm s.dbg s.upd
      s.gio) = π s from ((hπ 19 rfl { s with log := v20 } v19).trans (hπ 20 rfl s v20))]

theorem Stays.mk_doms_legs (hπ : AllFree π 10485760) {v21 v23} : Stays π r0 (State.mk s.now s.frees s.pending s.regs s.act s.bus s.mem s.pwr s.clk s.therm s.valley s.plumb
      s.sins s.scans s.scanConvs s.souts s.conns s.pw s.fb s.evr s.log v21 s.grps v23 s.holds s.trips
      s.sets s.mons s.phases s.drvs s.datum s.pair s.adcs s.lanes s.eng s.gens s.capMem s.rings s.grids
      s.isl s.trackers s.sweep s.rails s.cmdPorts s.monument s.meters s.cluster s.nvm s.dbg s.upd
      s.gio) ↔ Stays π r0 s := by
  unfold Stays; rw [show π (State.mk s.now s.frees s.pending s.regs s.act s.bus s.mem s.pwr s.clk s.therm s.valley s.plumb
      s.sins s.scans s.scanConvs s.souts s.conns s.pw s.fb s.evr s.log v21 s.grps v23 s.holds s.trips
      s.sets s.mons s.phases s.drvs s.datum s.pair s.adcs s.lanes s.eng s.gens s.capMem s.rings s.grids
      s.isl s.trackers s.sweep s.rails s.cmdPorts s.monument s.meters s.cluster s.nvm s.dbg s.upd
      s.gio) = π s from ((hπ 21 rfl { s with legs := v23 } v21).trans (hπ 23 rfl s v23))]

theorem Stays.mk_doms_adcs (hπ : AllFree π 4297064448) {v21 v32} : Stays π r0 (State.mk s.now s.frees s.pending s.regs s.act s.bus s.mem s.pwr s.clk s.therm s.valley s.plumb
      s.sins s.scans s.scanConvs s.souts s.conns s.pw s.fb s.evr s.log v21 s.grps s.legs s.holds
      s.trips s.sets s.mons s.phases s.drvs s.datum s.pair v32 s.lanes s.eng s.gens s.capMem s.rings
      s.grids s.isl s.trackers s.sweep s.rails s.cmdPorts s.monument s.meters s.cluster s.nvm s.dbg
      s.upd s.gio) ↔ Stays π r0 s := by
  unfold Stays; rw [show π (State.mk s.now s.frees s.pending s.regs s.act s.bus s.mem s.pwr s.clk s.therm s.valley s.plumb
      s.sins s.scans s.scanConvs s.souts s.conns s.pw s.fb s.evr s.log v21 s.grps s.legs s.holds
      s.trips s.sets s.mons s.phases s.drvs s.datum s.pair v32 s.lanes s.eng s.gens s.capMem s.rings
      s.grids s.isl s.trackers s.sweep s.rails s.cmdPorts s.monument s.meters s.cluster s.nvm s.dbg
      s.upd s.gio) = π s from ((hπ 21 rfl { s with adcs := v32 } v21).trans (hπ 32 rfl s v32))]

theorem Stays.mk_datum_grids (hπ : AllFree π 275951648768) {v30 v38} : Stays π r0 (State.mk s.now s.frees s.pending s.regs s.act s.bus s.mem s.pwr s.clk s.therm s.valley s.plumb
      s.sins s.scans s.scanConvs s.souts s.conns s.pw s.fb s.evr s.log s.doms s.grps s.legs s.holds
      s.trips s.sets s.mons s.phases s.drvs v30 s.pair s.adcs s.lanes s.eng s.gens s.capMem s.rings
      v38 s.isl s.trackers s.sweep s.rails s.cmdPorts s.monument s.meters s.cluster s.nvm s.dbg s.upd
      s.gio) ↔ Stays π r0 s := by
  unfold Stays; rw [show π (State.mk s.now s.frees s.pending s.regs s.act s.bus s.mem s.pwr s.clk s.therm s.valley s.plumb
      s.sins s.scans s.scanConvs s.souts s.conns s.pw s.fb s.evr s.log s.doms s.grps s.legs s.holds
      s.trips s.sets s.mons s.phases s.drvs v30 s.pair s.adcs s.lanes s.eng s.gens s.capMem s.rings
      v38 s.isl s.trackers s.sweep s.rails s.cmdPorts s.monument s.meters s.cluster s.nvm s.dbg s.upd
      s.gio) = π s from ((hπ 30 rfl { s with grids := v38 } v30).trans (hπ 38 rfl s v38))]

theorem Stays.mk_adcs_dbg (hπ : AllFree π 281479271677952) {v32 v48} : Stays π r0 (State.mk s.now s.frees s.pending s.regs s.act s.bus s.mem s.pwr s.clk s.therm s.valley s.plumb
      s.sins s.scans s.scanConvs s.souts s.conns s.pw s.fb s.evr s.log s.doms s.grps s.legs s.holds
      s.trips s.sets s.mons s.phases s.drvs s.datum s.pair v32 s.lanes s.eng s.gens s.capMem s.rings
      s.grids s.isl s.trackers s.sweep s.rails s.cmdPorts s.monument s.meters s.cluster s.nvm v48
      s.upd s.gio) ↔ Stays π r0 s := by
  unfold Stays; rw [show π (State.mk s.now s.frees s.pending s.regs s.act s.bus s.mem s.pwr s.clk s.therm s.valley s.plumb
      s.sins s.scans s.scanConvs s.souts s.conns s.pw s.fb s.evr s.log s.doms s.grps s.legs s.holds
      s.trips s.sets s.mons s.phases s.drvs s.datum s.pair v32 s.lanes s.eng s.gens s.capMem s.rings
      s.grids s.isl s.trackers s.sweep s.rails s.cmdPorts s.monument s.meters s.cluster s.nvm v48
      s.upd s.gio) = π s from ((hπ 32 rfl { s with dbg := v48 } v32).trans (hπ 48 rfl s v48))]

theorem Stays.mk_trackers_sweep (hπ : AllFree π 3298534883328) {v40 v41} : Stays π r0 (State.mk s.now s.frees s.pending s.regs s.act s.bus s.mem s.pwr s.clk s.therm s.valley s.plumb
      s.sins s.scans s.scanConvs s.souts s.conns s.pw s.fb s.evr s.log s.doms s.grps s.legs s.holds
      s.trips s.sets s.mons s.phases s.drvs s.datum s.pair s.adcs s.lanes s.eng s.gens s.capMem s.rings
      s.grids s.isl v40 v41 s.rails s.cmdPorts s.monument s.meters s.cluster s.nvm s.dbg s.upd s.gio) ↔ Stays π r0 s := by
  unfold Stays; rw [show π (State.mk s.now s.frees s.pending s.regs s.act s.bus s.mem s.pwr s.clk s.therm s.valley s.plumb
      s.sins s.scans s.scanConvs s.souts s.conns s.pw s.fb s.evr s.log s.doms s.grps s.legs s.holds
      s.trips s.sets s.mons s.phases s.drvs s.datum s.pair s.adcs s.lanes s.eng s.gens s.capMem s.rings
      s.grids s.isl v40 v41 s.rails s.cmdPorts s.monument s.meters s.cluster s.nvm s.dbg s.upd s.gio) = π s from ((hπ 40 rfl { s with sweep := v41 } v40).trans (hπ 41 rfl s v41))]

theorem Stays.mk_cmdPorts_monument (hπ : AllFree π 26388279066624) {v43 v44} : Stays π r0 (State.mk s.now s.frees s.pending s.regs s.act s.bus s.mem s.pwr s.clk s.therm s.valley s.plumb
      s.sins s.scans s.scanConvs s.souts s.conns s.pw s.fb s.evr s.log s.doms s.grps s.legs s.holds
      s.trips s.sets s.mons s.phases s.drvs s.datum s.pair s.adcs s.lanes s.eng s.gens s.capMem s.rings
      s.grids s.isl s.trackers s.sweep s.rails v43 v44 s.meters s.cluster s.nvm s.dbg s.upd s.gio) ↔ Stays π r0 s := by
  unfold Stays; rw [show π (State.mk s.now s.frees s.pending s.regs s.act s.bus s.mem s.pwr s.clk s.therm s.valley s.plumb
      s.sins s.scans s.scanConvs s.souts s.conns s.pw s.fb s.evr s.log s.doms s.grps s.legs s.holds
      s.trips s.sets s.mons s.phases s.drvs s.datum s.pair s.adcs s.lanes s.eng s.gens s.capMem s.rings
      s.grids s.isl s.trackers s.sweep s.rails v43 v44 s.meters s.cluster s.nvm s.dbg s.upd s.gio) = π s from ((hπ 43 rfl { s with monument := v44 } v43).trans (hπ 44 rfl s v44))]

theorem Stays.mk_pwr_clk_evr (hπ : AllFree π 524672) {v7 v8 v19} : Stays π r0 (State.mk s.now s.frees s.pending s.regs s.act s.bus s.mem v7 v8 s.therm s.valley s.plumb s.sins
      s.scans s.scanConvs s.souts s.conns s.pw s.fb v19 s.log s.doms s.grps s.legs s.holds s.trips
      s.sets s.mons s.phases s.drvs s.datum s.pair s.adcs s.lanes s.eng s.gens s.capMem s.rings s.grids
      s.isl s.trackers s.sweep s.rails s.cmdPorts s.monument s.meters s.cluster s.nvm s.dbg s.upd
      s.gio) ↔ Stays π r0 s := by
  unfold Stays; rw [show π (State.mk s.now s.frees s.pending s.regs s.act s.bus s.mem v7 v8 s.therm s.valley s.plumb s.sins
      s.scans s.scanConvs s.souts s.conns s.pw s.fb v19 s.log s.doms s.grps s.legs s.holds s.trips
      s.sets s.mons s.phases s.drvs s.datum s.pair s.adcs s.lanes s.eng s.gens s.capMem s.rings s.grids
      s.isl s.trackers s.sweep s.rails s.cmdPorts s.monument s.meters s.cluster s.nvm s.dbg s.upd
      s.gio) = π s from ((hπ 7 rfl { s with clk := v8, evr := v19 } v7).trans ((hπ 8 rfl { s with evr := v19 } v8).trans (hπ 19 rfl s v19)))]

theorem Stays.mk_conns_cmdPorts_monument (hπ : AllFree π 26388279132160) {v16 v43 v44} : Stays π r0 (State.mk s.now s.frees s.pending s.regs s.act s.bus s.mem s.pwr s.clk s.therm s.valley s.plumb
      s.sins s.scans s.scanConvs s.souts v16 s.pw s.fb s.evr s.log s.doms s.grps s.legs s.holds s.trips
      s.sets s.mons s.phases s.drvs s.datum s.pair s.adcs s.lanes s.eng s.gens s.capMem s.rings s.grids
      s.isl s.trackers s.sweep s.rails v43 v44 s.meters s.cluster s.nvm s.dbg s.upd s.gio) ↔ Stays π r0 s := by
  unfold Stays; rw [show π (State.mk s.now s.frees s.pending s.regs s.act s.bus s.mem s.pwr s.clk s.therm s.valley s.plumb
      s.sins s.scans s.scanConvs s.souts v16 s.pw s.fb s.evr s.log s.doms s.grps s.legs s.holds s.trips
      s.sets s.mons s.phases s.drvs s.datum s.pair s.adcs s.lanes s.eng s.gens s.capMem s.rings s.grids
      s.isl s.trackers s.sweep s.rails v43 v44 s.meters s.cluster s.nvm s.dbg s.upd s.gio) = π s from ((hπ 16 rfl { s with cmdPorts := v43, monument := v44 } v16).trans ((hπ 43 rfl { s with monument := v44 } v43).trans (hπ 44 rfl s v44)))]

theorem Stays.mk_adcs_cmdPorts_monument (hπ : AllFree π 26392574033920) {v32 v43 v44} : Stays π r0 (State.mk s.now s.frees s.pending s.regs s.act s.bus s.mem s.pwr s.clk s.therm s.valley s.plumb
      s.sins s.scans s.scanConvs s.souts s.conns s.pw s.fb s.evr s.log s.doms s.grps s.legs s.holds
      s.trips s.sets s.mons s.phases s.drvs s.datum s.pair v32 s.lanes s.eng s.gens s.capMem s.rings
      s.grids s.isl s.trackers s.sweep s.rails v43 v44 s.meters s.cluster s.nvm s.dbg s.upd s.gio) ↔ Stays π r0 s := by
  unfold Stays; rw [show π (State.mk s.now s.frees s.pending s.regs s.act s.bus s.mem s.pwr s.clk s.therm s.valley s.plumb
      s.sins s.scans s.scanConvs s.souts s.conns s.pw s.fb s.evr s.log s.doms s.grps s.legs s.holds
      s.trips s.sets s.mons s.phases s.drvs s.datum s.pair v32 s.lanes s.eng s.gens s.capMem s.rings
      s.grids s.isl s.trackers s.sweep s.rails v43 v44 s.meters s.cluster s.nvm s.dbg s.upd s.gio) = π s from ((hπ 32 rfl { s with cmdPorts := v43, monument := v44 } v32).trans ((hπ 43 rfl { s with monument := v44 } v43).trans (hπ 44 rfl s v44)))]

theorem Stays.mk_rails_cmdPorts_monument (hπ : AllFree π 30786325577728) {v42 v43 v44} : Stays π r0 (State.mk s.now s.frees s.pending s.regs s.act s.bus s.mem s.pwr s.clk s.therm s.valley s.plumb
      s.sins s.scans s.scanConvs s.souts s.conns s.pw s.fb s.evr s.log s.doms s.grps s.legs s.holds
      s.trips s.sets s.mons s.phases s.drvs s.datum s.pair s.adcs s.lanes s.eng s.gens s.capMem s.rings
      s.grids s.isl s.trackers s.sweep v42 v43 v44 s.meters s.cluster s.nvm s.dbg s.upd s.gio) ↔ Stays π r0 s := by
  unfold Stays; rw [show π (State.mk s.now s.frees s.pending s.regs s.act s.bus s.mem s.pwr s.clk s.therm s.valley s.plumb
      s.sins s.scans s.scanConvs s.souts s.conns s.pw s.fb s.evr s.log s.doms s.grps s.legs s.holds
      s.trips s.sets s.mons s.phases s.drvs s.datum s.pair s.adcs s.lanes s.eng s.gens s.capMem s.rings
      s.grids s.isl s.trackers s.sweep v42 v43 v44 s.meters s.cluster s.nvm s.dbg s.upd s.gio) = π s from ((hπ 42 rfl { s with cmdPorts := v43, monument := v44 } v42).trans ((hπ 43 rfl { s with monument := v44 } v43).trans (hπ 44 rfl s v44)))]

theorem Stays.mk_cmdPorts_monument_dbg (hπ : AllFree π 307863255777280) {v43 v44 v48} : Stays π r0 (State.mk s.now s.frees s.pending s.regs s.act s.bus s.mem s.pwr s.clk s.therm s.valley s.plumb
      s.sins s.scans s.scanConvs s.souts s.conns s.pw s.fb s.evr s.log s.doms s.grps s.legs s.holds
      s.trips s.sets s.mons s.phases s.drvs s.datum s.pair s.adcs s.lanes s.eng s.gens s.capMem s.rings
      s.grids s.isl s.trackers s.sweep s.rails v43 v44 s.meters s.cluster s.nvm v48 s.upd s.gio) ↔ Stays π r0 s := by
  unfold Stays; rw [show π (State.mk s.now s.frees s.pending s.regs s.act s.bus s.mem s.pwr s.clk s.therm s.valley s.plumb
      s.sins s.scans s.scanConvs s.souts s.conns s.pw s.fb s.evr s.log s.doms s.grps s.legs s.holds
      s.trips s.sets s.mons s.phases s.drvs s.datum s.pair s.adcs s.lanes s.eng s.gens s.capMem s.rings
      s.grids s.isl s.trackers s.sweep s.rails v43 v44 s.meters s.cluster s.nvm v48 s.upd s.gio) = π s from ((hπ 43 rfl { s with monument := v44, dbg := v48 } v43).trans ((hπ 44 rfl { s with dbg := v48 } v44).trans (hπ 48 rfl s v48)))]

theorem Stays.mk_pwr_valley_fb_log (hπ : AllFree π 1311872) {v7 v10 v18 v20} : Stays π r0 (State.mk s.now s.frees s.pending s.regs s.act s.bus s.mem v7 s.clk s.therm v10 s.plumb s.sins
      s.scans s.scanConvs s.souts s.conns s.pw v18 s.evr v20 s.doms s.grps s.legs s.holds s.trips
      s.sets s.mons s.phases s.drvs s.datum s.pair s.adcs s.lanes s.eng s.gens s.capMem s.rings s.grids
      s.isl s.trackers s.sweep s.rails s.cmdPorts s.monument s.meters s.cluster s.nvm s.dbg s.upd
      s.gio) ↔ Stays π r0 s := by
  unfold Stays; rw [show π (State.mk s.now s.frees s.pending s.regs s.act s.bus s.mem v7 s.clk s.therm v10 s.plumb s.sins
      s.scans s.scanConvs s.souts s.conns s.pw v18 s.evr v20 s.doms s.grps s.legs s.holds s.trips
      s.sets s.mons s.phases s.drvs s.datum s.pair s.adcs s.lanes s.eng s.gens s.capMem s.rings s.grids
      s.isl s.trackers s.sweep s.rails s.cmdPorts s.monument s.meters s.cluster s.nvm s.dbg s.upd
      s.gio) = π s from ((hπ 7 rfl { s with valley := v10, fb := v18, log := v20 } v7).trans ((hπ 10 rfl { s with fb := v18, log := v20 } v10).trans ((hπ 18 rfl { s with log := v20 } v18).trans (hπ 20 rfl s v20))))]

theorem Stays.mk_mem_lanes_eng_gens_capMem (hπ : AllFree π 128849018944) {v6 v33 v34 v35 v36} : Stays π r0 (State.mk s.now s.frees s.pending s.regs s.act s.bus v6 s.pwr s.clk s.therm s.valley s.plumb
      s.sins s.scans s.scanConvs s.souts s.conns s.pw s.fb s.evr s.log s.doms s.grps s.legs s.holds
      s.trips s.sets s.mons s.phases s.drvs s.datum s.pair s.adcs v33 v34 v35 v36 s.rings s.grids
      s.isl s.trackers s.sweep s.rails s.cmdPorts s.monument s.meters s.cluster s.nvm s.dbg s.upd
      s.gio) ↔ Stays π r0 s := by
  unfold Stays; rw [show π (State.mk s.now s.frees s.pending s.regs s.act s.bus v6 s.pwr s.clk s.therm s.valley s.plumb
      s.sins s.scans s.scanConvs s.souts s.conns s.pw s.fb s.evr s.log s.doms s.grps s.legs s.holds
      s.trips s.sets s.mons s.phases s.drvs s.datum s.pair s.adcs v33 v34 v35 v36 s.rings s.grids
      s.isl s.trackers s.sweep s.rails s.cmdPorts s.monument s.meters s.cluster s.nvm s.dbg s.upd
      s.gio) = π s from ((hπ 6 rfl { s with lanes := v33, eng := v34, gens := v35, capMem := v36 } v6).trans ((hπ 33 rfl { s with eng := v34, gens := v35, capMem := v36 } v33).trans ((hπ 34 rfl { s with gens := v35, capMem := v36 } v34).trans ((hπ 35 rfl { s with capMem := v36 } v35).trans (hπ 36 rfl s v36)))))]

theorem Stays.mk_sins_scans_scanConvs_conns_pw (hπ : AllFree π 225280) {v12 v13 v14 v16 v17} : Stays π r0 (State.mk s.now s.frees s.pending s.regs s.act s.bus s.mem s.pwr s.clk s.therm s.valley s.plumb
      v12 v13 v14 s.souts v16 v17 s.fb s.evr s.log s.doms s.grps s.legs s.holds s.trips s.sets s.mons
      s.phases s.drvs s.datum s.pair s.adcs s.lanes s.eng s.gens s.capMem s.rings s.grids s.isl s.trackers
      s.sweep s.rails s.cmdPorts s.monument s.meters s.cluster s.nvm s.dbg s.upd s.gio) ↔ Stays π r0 s := by
  unfold Stays; rw [show π (State.mk s.now s.frees s.pending s.regs s.act s.bus s.mem s.pwr s.clk s.therm s.valley s.plumb
      v12 v13 v14 s.souts v16 v17 s.fb s.evr s.log s.doms s.grps s.legs s.holds s.trips s.sets s.mons
      s.phases s.drvs s.datum s.pair s.adcs s.lanes s.eng s.gens s.capMem s.rings s.grids s.isl s.trackers
      s.sweep s.rails s.cmdPorts s.monument s.meters s.cluster s.nvm s.dbg s.upd s.gio) = π s from ((hπ 12 rfl { s with scans := v13, scanConvs := v14, conns := v16, pw := v17 } v12).trans ((hπ 13 rfl { s with scanConvs := v14, conns := v16, pw := v17 } v13).trans ((hπ 14 rfl { s with conns := v16, pw := v17 } v14).trans ((hπ 16 rfl { s with pw := v17 } v16).trans (hπ 17 rfl s v17)))))]

theorem Stays.mk_mem_conns_lanes_eng_gens_capMem (hπ : AllFree π 128849084480) {v6 v16 v33 v34 v35 v36} : Stays π r0 (State.mk s.now s.frees s.pending s.regs s.act s.bus v6 s.pwr s.clk s.therm s.valley s.plumb
      s.sins s.scans s.scanConvs s.souts v16 s.pw s.fb s.evr s.log s.doms s.grps s.legs s.holds s.trips
      s.sets s.mons s.phases s.drvs s.datum s.pair s.adcs v33 v34 v35 v36 s.rings s.grids s.isl s.trackers
      s.sweep s.rails s.cmdPorts s.monument s.meters s.cluster s.nvm s.dbg s.upd s.gio) ↔ Stays π r0 s := by
  unfold Stays; rw [show π (State.mk s.now s.frees s.pending s.regs s.act s.bus v6 s.pwr s.clk s.therm s.valley s.plumb
      s.sins s.scans s.scanConvs s.souts v16 s.pw s.fb s.evr s.log s.doms s.grps s.legs s.holds s.trips
      s.sets s.mons s.phases s.drvs s.datum s.pair s.adcs v33 v34 v35 v36 s.rings s.grids s.isl s.trackers
      s.sweep s.rails s.cmdPorts s.monument s.meters s.cluster s.nvm s.dbg s.upd s.gio) = π s from ((hπ 6 rfl { s with conns := v16, lanes := v33, eng := v34, gens := v35, capMem := v36 } v6).trans ((hπ 16 rfl { s with lanes := v33, eng := v34, gens := v35, capMem := v36 } v16).trans ((hπ 33 rfl { s with eng := v34, gens := v35, capMem := v36 } v33).trans ((hπ 34 rfl { s with gens := v35, capMem := v36 } v34).trans ((hπ 35 rfl { s with capMem := v36 } v35).trans (hπ 36 rfl s v36))))))]

theorem Stays.mk_mem_adcs_lanes_eng_gens_capMem (hπ : AllFree π 133143986240) {v6 v32 v33 v34 v35 v36} : Stays π r0 (State.mk s.now s.frees s.pending s.regs s.act s.bus v6 s.pwr s.clk s.therm s.valley s.plumb
      s.sins s.scans s.scanConvs s.souts s.conns s.pw s.fb s.evr s.log s.doms s.grps s.legs s.holds
      s.trips s.sets s.mons s.phases s.drvs s.datum s.pair v32 v33 v34 v35 v36 s.rings s.grids s.isl
      s.trackers s.sweep s.rails s.cmdPorts s.monument s.meters s.cluster s.nvm s.dbg s.upd s.gio) ↔ Stays π r0 s := by
  unfold Stays; rw [show π (State.mk s.now s.frees s.pending s.regs s.act s.bus v6 s.pwr s.clk s.therm s.valley s.plumb
      s.sins s.scans s.scanConvs s.souts s.conns s.pw s.fb s.evr s.log s.doms s.grps s.legs s.holds
      s.trips s.sets s.mons s.phases s.drvs s.datum s.pair v32 v33 v34 v35 v36 s.rings s.grids s.isl
      s.trackers s.sweep s.rails s.cmdPorts s.monument s.meters s.cluster s.nvm s.dbg s.upd s.gio) = π s from ((hπ 6 rfl { s with adcs := v32, lanes := v33, eng := v34, gens := v35, capMem := v36 } v6).trans ((hπ 32 rfl { s with lanes := v33, eng := v34, gens := v35, capMem := v36 } v32).trans ((hπ 33 rfl { s with eng := v34, gens := v35, capMem := v36 } v33).trans ((hπ 34 rfl { s with gens := v35, capMem := v36 } v34).trans ((hπ 35 rfl { s with capMem := v36 } v35).trans (hπ 36 rfl s v36))))))]

theorem Stays.mk_mem_lanes_eng_gens_capMem_dbg (hπ : AllFree π 281603825729600) {v6 v33 v34 v35 v36 v48} : Stays π r0 (State.mk s.now s.frees s.pending s.regs s.act s.bus v6 s.pwr s.clk s.therm s.valley s.plumb
      s.sins s.scans s.scanConvs s.souts s.conns s.pw s.fb s.evr s.log s.doms s.grps s.legs s.holds
      s.trips s.sets s.mons s.phases s.drvs s.datum s.pair s.adcs v33 v34 v35 v36 s.rings s.grids
      s.isl s.trackers s.sweep s.rails s.cmdPorts s.monument s.meters s.cluster s.nvm v48 s.upd s.gio) ↔ Stays π r0 s := by
  unfold Stays; rw [show π (State.mk s.now s.frees s.pending s.regs s.act s.bus v6 s.pwr s.clk s.therm s.valley s.plumb
      s.sins s.scans s.scanConvs s.souts s.conns s.pw s.fb s.evr s.log s.doms s.grps s.legs s.holds
      s.trips s.sets s.mons s.phases s.drvs s.datum s.pair s.adcs v33 v34 v35 v36 s.rings s.grids
      s.isl s.trackers s.sweep s.rails s.cmdPorts s.monument s.meters s.cluster s.nvm v48 s.upd s.gio) = π s from ((hπ 6 rfl { s with lanes := v33, eng := v34, gens := v35, capMem := v36, dbg := v48 } v6).trans ((hπ 33 rfl { s with eng := v34, gens := v35, capMem := v36, dbg := v48 } v33).trans ((hπ 34 rfl { s with gens := v35, capMem := v36, dbg := v48 } v34).trans ((hπ 35 rfl { s with capMem := v36, dbg := v48 } v35).trans ((hπ 36 rfl { s with dbg := v48 } v36).trans (hπ 48 rfl s v48))))))]

theorem Stays.mk_pwr_therm_evr_log_grps_cluster (hπ : AllFree π 70368749945472) {v7 v9 v19 v20 v22 v46} : Stays π r0 (State.mk s.now s.frees s.pending s.regs s.act s.bus s.mem v7 s.clk v9 s.valley s.plumb s.sins
      s.scans s.scanConvs s.souts s.conns s.pw s.fb v19 v20 s.doms v22 s.legs s.holds s.trips s.sets
      s.mons s.phases s.drvs s.datum s.pair s.adcs s.lanes s.eng s.gens s.capMem s.rings s.grids
      s.isl s.trackers s.sweep s.rails s.cmdPorts s.monument s.meters v46 s.nvm s.dbg s.upd s.gio) ↔ Stays π r0 s := by
  unfold Stays; rw [show π (State.mk s.now s.frees s.pending s.regs s.act s.bus s.mem v7 s.clk v9 s.valley s.plumb s.sins
      s.scans s.scanConvs s.souts s.conns s.pw s.fb v19 v20 s.doms v22 s.legs s.holds s.trips s.sets
      s.mons s.phases s.drvs s.datum s.pair s.adcs s.lanes s.eng s.gens s.capMem s.rings s.grids
      s.isl s.trackers s.sweep s.rails s.cmdPorts s.monument s.meters v46 s.nvm s.dbg s.upd s.gio) = π s from ((hπ 7 rfl { s with therm := v9, evr := v19, log := v20, grps := v22, cluster := v46 } v7).trans ((hπ 9 rfl { s with evr := v19, log := v20, grps := v22, cluster := v46 } v9).trans ((hπ 19 rfl { s with log := v20, grps := v22, cluster := v46 } v19).trans ((hπ 20 rfl { s with grps := v22, cluster := v46 } v20).trans ((hπ 22 rfl { s with cluster := v46 } v22).trans (hπ 46 rfl s v46))))))]

theorem Stays.mk_mem_lanes_eng_gens_capMem_cmdPorts_monument (hπ : AllFree π 26517128085568) {v6 v33 v34 v35 v36 v43 v44} : Stays π r0 (State.mk s.now s.frees s.pending s.regs s.act s.bus v6 s.pwr s.clk s.therm s.valley s.plumb
      s.sins s.scans s.scanConvs s.souts s.conns s.pw s.fb s.evr s.log s.doms s.grps s.legs s.holds
      s.trips s.sets s.mons s.phases s.drvs s.datum s.pair s.adcs v33 v34 v35 v36 s.rings s.grids
      s.isl s.trackers s.sweep s.rails v43 v44 s.meters s.cluster s.nvm s.dbg s.upd s.gio) ↔ Stays π r0 s := by
  unfold Stays; rw [show π (State.mk s.now s.frees s.pending s.regs s.act s.bus v6 s.pwr s.clk s.therm s.valley s.plumb
      s.sins s.scans s.scanConvs s.souts s.conns s.pw s.fb s.evr s.log s.doms s.grps s.legs s.holds
      s.trips s.sets s.mons s.phases s.drvs s.datum s.pair s.adcs v33 v34 v35 v36 s.rings s.grids
      s.isl s.trackers s.sweep s.rails v43 v44 s.meters s.cluster s.nvm s.dbg s.upd s.gio) = π s from ((hπ 6 rfl { s with lanes := v33, eng := v34, gens := v35, capMem := v36, cmdPorts := v43, monument := v44 } v6).trans ((hπ 33 rfl { s with eng := v34, gens := v35, capMem := v36, cmdPorts := v43, monument := v44 } v33).trans ((hπ 34 rfl { s with gens := v35, capMem := v36, cmdPorts := v43, monument := v44 } v34).trans ((hπ 35 rfl { s with capMem := v36, cmdPorts := v43, monument := v44 } v35).trans ((hπ 36 rfl { s with cmdPorts := v43, monument := v44 } v36).trans ((hπ 43 rfl { s with monument := v44 } v43).trans (hπ 44 rfl s v44)))))))]

theorem Stays.mk_pwr_therm_evr_log_doms_grps_adcs_cluster (hπ : AllFree π 70373047009920) {v7 v9 v19 v20 v21 v22 v32 v46} : Stays π r0 (State.mk s.now s.frees s.pending s.regs s.act s.bus s.mem v7 s.clk v9 s.valley s.plumb s.sins
      s.scans s.scanConvs s.souts s.conns s.pw s.fb v19 v20 v21 v22 s.legs s.holds s.trips s.sets
      s.mons s.phases s.drvs s.datum s.pair v32 s.lanes s.eng s.gens s.capMem s.rings s.grids s.isl
      s.trackers s.sweep s.rails s.cmdPorts s.monument s.meters v46 s.nvm s.dbg s.upd s.gio) ↔ Stays π r0 s := by
  unfold Stays; rw [show π (State.mk s.now s.frees s.pending s.regs s.act s.bus s.mem v7 s.clk v9 s.valley s.plumb s.sins
      s.scans s.scanConvs s.souts s.conns s.pw s.fb v19 v20 v21 v22 s.legs s.holds s.trips s.sets
      s.mons s.phases s.drvs s.datum s.pair v32 s.lanes s.eng s.gens s.capMem s.rings s.grids s.isl
      s.trackers s.sweep s.rails s.cmdPorts s.monument s.meters v46 s.nvm s.dbg s.upd s.gio) = π s from ((hπ 7 rfl { s with therm := v9, evr := v19, log := v20, doms := v21, grps := v22, adcs := v32, cluster := v46 } v7).trans ((hπ 9 rfl { s with evr := v19, log := v20, doms := v21, grps := v22, adcs := v32, cluster := v46 } v9).trans ((hπ 19 rfl { s with log := v20, doms := v21, grps := v22, adcs := v32, cluster := v46 } v19).trans ((hπ 20 rfl { s with doms := v21, grps := v22, adcs := v32, cluster := v46 } v20).trans ((hπ 21 rfl { s with grps := v22, adcs := v32, cluster := v46 } v21).trans ((hπ 22 rfl { s with adcs := v32, cluster := v46 } v22).trans ((hπ 32 rfl { s with cluster := v46 } v32).trans (hπ 46 rfl s v46))))))))]

theorem Stays.mk_doms_legs_trips_sets_mons_phases_drvs_pair (hπ : AllFree π 3198156800) {v21 v23 v25 v26 v27 v28 v29 v31} : Stays π r0 (State.mk s.now s.frees s.pending s.regs s.act s.bus s.mem s.pwr s.clk s.therm s.valley s.plumb
      s.sins s.scans s.scanConvs s.souts s.conns s.pw s.fb s.evr s.log v21 s.grps v23 s.holds v25
      v26 v27 v28 v29 s.datum v31 s.adcs s.lanes s.eng s.gens s.capMem s.rings s.grids s.isl s.trackers
      s.sweep s.rails s.cmdPorts s.monument s.meters s.cluster s.nvm s.dbg s.upd s.gio) ↔ Stays π r0 s := by
  unfold Stays; rw [show π (State.mk s.now s.frees s.pending s.regs s.act s.bus s.mem s.pwr s.clk s.therm s.valley s.plumb
      s.sins s.scans s.scanConvs s.souts s.conns s.pw s.fb s.evr s.log v21 s.grps v23 s.holds v25
      v26 v27 v28 v29 s.datum v31 s.adcs s.lanes s.eng s.gens s.capMem s.rings s.grids s.isl s.trackers
      s.sweep s.rails s.cmdPorts s.monument s.meters s.cluster s.nvm s.dbg s.upd s.gio) = π s from ((hπ 21 rfl { s with legs := v23, trips := v25, sets := v26, mons := v27, phases := v28, drvs := v29, pair := v31 } v21).trans ((hπ 23 rfl { s with trips := v25, sets := v26, mons := v27, phases := v28, drvs := v29, pair := v31 } v23).trans ((hπ 25 rfl { s with sets := v26, mons := v27, phases := v28, drvs := v29, pair := v31 } v25).trans ((hπ 26 rfl { s with mons := v27, phases := v28, drvs := v29, pair := v31 } v26).trans ((hπ 27 rfl { s with phases := v28, drvs := v29, pair := v31 } v27).trans ((hπ 28 rfl { s with drvs := v29, pair := v31 } v28).trans ((hπ 29 rfl { s with pair := v31 } v29).trans (hπ 31 rfl s v31))))))))]

theorem Stays.mk_all (hπ : AllFree π 2251799813685240) {v3 v4 v5 v6 v7 v8 v9 v10 v11 v12 v13 v14 v15 v16 v17 v18 v19 v20 v21 v22 v23 v24 v25 v26 v27 v28 v29 v30 v31 v32 v33 v34 v35 v36 v37 v38 v39 v40 v41 v42 v43 v44 v45 v46 v47 v48 v49 v50} : Stays π r0 (State.mk s.now s.frees s.pending v3 v4 v5 v6 v7 v8 v9 v10 v11 v12 v13 v14 v15 v16 v17 v18 v19
      v20 v21 v22 v23 v24 v25 v26 v27 v28 v29 v30 v31 v32 v33 v34 v35 v36 v37 v38 v39 v40 v41 v42
      v43 v44 v45 v46 v47 v48 v49 v50) ↔ Stays π r0 s := by
  unfold Stays; rw [show π (State.mk s.now s.frees s.pending v3 v4 v5 v6 v7 v8 v9 v10 v11 v12 v13 v14 v15 v16 v17 v18 v19
      v20 v21 v22 v23 v24 v25 v26 v27 v28 v29 v30 v31 v32 v33 v34 v35 v36 v37 v38 v39 v40 v41 v42
      v43 v44 v45 v46 v47 v48 v49 v50) = π s from ((hπ 3 rfl { s with act := v4, bus := v5, mem := v6, pwr := v7, clk := v8, therm := v9, valley := v10, plumb := v11, sins := v12, scans := v13, scanConvs := v14, souts := v15, conns := v16, pw := v17, fb := v18, evr := v19, log := v20, doms := v21, grps := v22, legs := v23, holds := v24, trips := v25, sets := v26, mons := v27, phases := v28, drvs := v29, datum := v30, pair := v31, adcs := v32, lanes := v33, eng := v34, gens := v35, capMem := v36, rings := v37, grids := v38, isl := v39, trackers := v40, sweep := v41, rails := v42, cmdPorts := v43, monument := v44, meters := v45, cluster := v46, nvm := v47, dbg := v48, upd := v49, gio := v50 } v3).trans ((hπ 4 rfl { s with bus := v5, mem := v6, pwr := v7, clk := v8, therm := v9, valley := v10, plumb := v11, sins := v12, scans := v13, scanConvs := v14, souts := v15, conns := v16, pw := v17, fb := v18, evr := v19, log := v20, doms := v21, grps := v22, legs := v23, holds := v24, trips := v25, sets := v26, mons := v27, phases := v28, drvs := v29, datum := v30, pair := v31, adcs := v32, lanes := v33, eng := v34, gens := v35, capMem := v36, rings := v37, grids := v38, isl := v39, trackers := v40, sweep := v41, rails := v42, cmdPorts := v43, monument := v44, meters := v45, cluster := v46, nvm := v47, dbg := v48, upd := v49, gio := v50 } v4).trans ((hπ 5 rfl { s with mem := v6, pwr := v7, clk := v8, therm := v9, valley := v10, plumb := v11, sins := v12, scans := v13, scanConvs := v14, souts := v15, conns := v16, pw := v17, fb := v18, evr := v19, log := v20, doms := v21, grps := v22, legs := v23, holds := v24, trips := v25, sets := v26, mons := v27, phases := v28, drvs := v29, datum := v30, pair := v31, adcs := v32, lanes := v33, eng := v34, gens := v35, capMem := v36, rings := v37, grids := v38, isl := v39, trackers := v40, sweep := v41, rails := v42, cmdPorts := v43, monument := v44, meters := v45, cluster := v46, nvm := v47, dbg := v48, upd := v49, gio := v50 } v5).trans ((hπ 6 rfl { s with pwr := v7, clk := v8, therm := v9, valley := v10, plumb := v11, sins := v12, scans := v13, scanConvs := v14, souts := v15, conns := v16, pw := v17, fb := v18, evr := v19, log := v20, doms := v21, grps := v22, legs := v23, holds := v24, trips := v25, sets := v26, mons := v27, phases := v28, drvs := v29, datum := v30, pair := v31, adcs := v32, lanes := v33, eng := v34, gens := v35, capMem := v36, rings := v37, grids := v38, isl := v39, trackers := v40, sweep := v41, rails := v42, cmdPorts := v43, monument := v44, meters := v45, cluster := v46, nvm := v47, dbg := v48, upd := v49, gio := v50 } v6).trans ((hπ 7 rfl { s with clk := v8, therm := v9, valley := v10, plumb := v11, sins := v12, scans := v13, scanConvs := v14, souts := v15, conns := v16, pw := v17, fb := v18, evr := v19, log := v20, doms := v21, grps := v22, legs := v23, holds := v24, trips := v25, sets := v26, mons := v27, phases := v28, drvs := v29, datum := v30, pair := v31, adcs := v32, lanes := v33, eng := v34, gens := v35, capMem := v36, rings := v37, grids := v38, isl := v39, trackers := v40, sweep := v41, rails := v42, cmdPorts := v43, monument := v44, meters := v45, cluster := v46, nvm := v47, dbg := v48, upd := v49, gio := v50 } v7).trans ((hπ 8 rfl { s with therm := v9, valley := v10, plumb := v11, sins := v12, scans := v13, scanConvs := v14, souts := v15, conns := v16, pw := v17, fb := v18, evr := v19, log := v20, doms := v21, grps := v22, legs := v23, holds := v24, trips := v25, sets := v26, mons := v27, phases := v28, drvs := v29, datum := v30, pair := v31, adcs := v32, lanes := v33, eng := v34, gens := v35, capMem := v36, rings := v37, grids := v38, isl := v39, trackers := v40, sweep := v41, rails := v42, cmdPorts := v43, monument := v44, meters := v45, cluster := v46, nvm := v47, dbg := v48, upd := v49, gio := v50 } v8).trans ((hπ 9 rfl { s with valley := v10, plumb := v11, sins := v12, scans := v13, scanConvs := v14, souts := v15, conns := v16, pw := v17, fb := v18, evr := v19, log := v20, doms := v21, grps := v22, legs := v23, holds := v24, trips := v25, sets := v26, mons := v27, phases := v28, drvs := v29, datum := v30, pair := v31, adcs := v32, lanes := v33, eng := v34, gens := v35, capMem := v36, rings := v37, grids := v38, isl := v39, trackers := v40, sweep := v41, rails := v42, cmdPorts := v43, monument := v44, meters := v45, cluster := v46, nvm := v47, dbg := v48, upd := v49, gio := v50 } v9).trans ((hπ 10 rfl { s with plumb := v11, sins := v12, scans := v13, scanConvs := v14, souts := v15, conns := v16, pw := v17, fb := v18, evr := v19, log := v20, doms := v21, grps := v22, legs := v23, holds := v24, trips := v25, sets := v26, mons := v27, phases := v28, drvs := v29, datum := v30, pair := v31, adcs := v32, lanes := v33, eng := v34, gens := v35, capMem := v36, rings := v37, grids := v38, isl := v39, trackers := v40, sweep := v41, rails := v42, cmdPorts := v43, monument := v44, meters := v45, cluster := v46, nvm := v47, dbg := v48, upd := v49, gio := v50 } v10).trans ((hπ 11 rfl { s with sins := v12, scans := v13, scanConvs := v14, souts := v15, conns := v16, pw := v17, fb := v18, evr := v19, log := v20, doms := v21, grps := v22, legs := v23, holds := v24, trips := v25, sets := v26, mons := v27, phases := v28, drvs := v29, datum := v30, pair := v31, adcs := v32, lanes := v33, eng := v34, gens := v35, capMem := v36, rings := v37, grids := v38, isl := v39, trackers := v40, sweep := v41, rails := v42, cmdPorts := v43, monument := v44, meters := v45, cluster := v46, nvm := v47, dbg := v48, upd := v49, gio := v50 } v11).trans ((hπ 12 rfl { s with scans := v13, scanConvs := v14, souts := v15, conns := v16, pw := v17, fb := v18, evr := v19, log := v20, doms := v21, grps := v22, legs := v23, holds := v24, trips := v25, sets := v26, mons := v27, phases := v28, drvs := v29, datum := v30, pair := v31, adcs := v32, lanes := v33, eng := v34, gens := v35, capMem := v36, rings := v37, grids := v38, isl := v39, trackers := v40, sweep := v41, rails := v42, cmdPorts := v43, monument := v44, meters := v45, cluster := v46, nvm := v47, dbg := v48, upd := v49, gio := v50 } v12).trans ((hπ 13 rfl { s with scanConvs := v14, souts := v15, conns := v16, pw := v17, fb := v18, evr := v19, log := v20, doms := v21, grps := v22, legs := v23, holds := v24, trips := v25, sets := v26, mons := v27, phases := v28, drvs := v29, datum := v30, pair := v31, adcs := v32, lanes := v33, eng := v34, gens := v35, capMem := v36, rings := v37, grids := v38, isl := v39, trackers := v40, sweep := v41, rails := v42, cmdPorts := v43, monument := v44, meters := v45, cluster := v46, nvm := v47, dbg := v48, upd := v49, gio := v50 } v13).trans ((hπ 14 rfl { s with souts := v15, conns := v16, pw := v17, fb := v18, evr := v19, log := v20, doms := v21, grps := v22, legs := v23, holds := v24, trips := v25, sets := v26, mons := v27, phases := v28, drvs := v29, datum := v30, pair := v31, adcs := v32, lanes := v33, eng := v34, gens := v35, capMem := v36, rings := v37, grids := v38, isl := v39, trackers := v40, sweep := v41, rails := v42, cmdPorts := v43, monument := v44, meters := v45, cluster := v46, nvm := v47, dbg := v48, upd := v49, gio := v50 } v14).trans ((hπ 15 rfl { s with conns := v16, pw := v17, fb := v18, evr := v19, log := v20, doms := v21, grps := v22, legs := v23, holds := v24, trips := v25, sets := v26, mons := v27, phases := v28, drvs := v29, datum := v30, pair := v31, adcs := v32, lanes := v33, eng := v34, gens := v35, capMem := v36, rings := v37, grids := v38, isl := v39, trackers := v40, sweep := v41, rails := v42, cmdPorts := v43, monument := v44, meters := v45, cluster := v46, nvm := v47, dbg := v48, upd := v49, gio := v50 } v15).trans ((hπ 16 rfl { s with pw := v17, fb := v18, evr := v19, log := v20, doms := v21, grps := v22, legs := v23, holds := v24, trips := v25, sets := v26, mons := v27, phases := v28, drvs := v29, datum := v30, pair := v31, adcs := v32, lanes := v33, eng := v34, gens := v35, capMem := v36, rings := v37, grids := v38, isl := v39, trackers := v40, sweep := v41, rails := v42, cmdPorts := v43, monument := v44, meters := v45, cluster := v46, nvm := v47, dbg := v48, upd := v49, gio := v50 } v16).trans ((hπ 17 rfl { s with fb := v18, evr := v19, log := v20, doms := v21, grps := v22, legs := v23, holds := v24, trips := v25, sets := v26, mons := v27, phases := v28, drvs := v29, datum := v30, pair := v31, adcs := v32, lanes := v33, eng := v34, gens := v35, capMem := v36, rings := v37, grids := v38, isl := v39, trackers := v40, sweep := v41, rails := v42, cmdPorts := v43, monument := v44, meters := v45, cluster := v46, nvm := v47, dbg := v48, upd := v49, gio := v50 } v17).trans ((hπ 18 rfl { s with evr := v19, log := v20, doms := v21, grps := v22, legs := v23, holds := v24, trips := v25, sets := v26, mons := v27, phases := v28, drvs := v29, datum := v30, pair := v31, adcs := v32, lanes := v33, eng := v34, gens := v35, capMem := v36, rings := v37, grids := v38, isl := v39, trackers := v40, sweep := v41, rails := v42, cmdPorts := v43, monument := v44, meters := v45, cluster := v46, nvm := v47, dbg := v48, upd := v49, gio := v50 } v18).trans ((hπ 19 rfl { s with log := v20, doms := v21, grps := v22, legs := v23, holds := v24, trips := v25, sets := v26, mons := v27, phases := v28, drvs := v29, datum := v30, pair := v31, adcs := v32, lanes := v33, eng := v34, gens := v35, capMem := v36, rings := v37, grids := v38, isl := v39, trackers := v40, sweep := v41, rails := v42, cmdPorts := v43, monument := v44, meters := v45, cluster := v46, nvm := v47, dbg := v48, upd := v49, gio := v50 } v19).trans ((hπ 20 rfl { s with doms := v21, grps := v22, legs := v23, holds := v24, trips := v25, sets := v26, mons := v27, phases := v28, drvs := v29, datum := v30, pair := v31, adcs := v32, lanes := v33, eng := v34, gens := v35, capMem := v36, rings := v37, grids := v38, isl := v39, trackers := v40, sweep := v41, rails := v42, cmdPorts := v43, monument := v44, meters := v45, cluster := v46, nvm := v47, dbg := v48, upd := v49, gio := v50 } v20).trans ((hπ 21 rfl { s with grps := v22, legs := v23, holds := v24, trips := v25, sets := v26, mons := v27, phases := v28, drvs := v29, datum := v30, pair := v31, adcs := v32, lanes := v33, eng := v34, gens := v35, capMem := v36, rings := v37, grids := v38, isl := v39, trackers := v40, sweep := v41, rails := v42, cmdPorts := v43, monument := v44, meters := v45, cluster := v46, nvm := v47, dbg := v48, upd := v49, gio := v50 } v21).trans ((hπ 22 rfl { s with legs := v23, holds := v24, trips := v25, sets := v26, mons := v27, phases := v28, drvs := v29, datum := v30, pair := v31, adcs := v32, lanes := v33, eng := v34, gens := v35, capMem := v36, rings := v37, grids := v38, isl := v39, trackers := v40, sweep := v41, rails := v42, cmdPorts := v43, monument := v44, meters := v45, cluster := v46, nvm := v47, dbg := v48, upd := v49, gio := v50 } v22).trans ((hπ 23 rfl { s with holds := v24, trips := v25, sets := v26, mons := v27, phases := v28, drvs := v29, datum := v30, pair := v31, adcs := v32, lanes := v33, eng := v34, gens := v35, capMem := v36, rings := v37, grids := v38, isl := v39, trackers := v40, sweep := v41, rails := v42, cmdPorts := v43, monument := v44, meters := v45, cluster := v46, nvm := v47, dbg := v48, upd := v49, gio := v50 } v23).trans ((hπ 24 rfl { s with trips := v25, sets := v26, mons := v27, phases := v28, drvs := v29, datum := v30, pair := v31, adcs := v32, lanes := v33, eng := v34, gens := v35, capMem := v36, rings := v37, grids := v38, isl := v39, trackers := v40, sweep := v41, rails := v42, cmdPorts := v43, monument := v44, meters := v45, cluster := v46, nvm := v47, dbg := v48, upd := v49, gio := v50 } v24).trans ((hπ 25 rfl { s with sets := v26, mons := v27, phases := v28, drvs := v29, datum := v30, pair := v31, adcs := v32, lanes := v33, eng := v34, gens := v35, capMem := v36, rings := v37, grids := v38, isl := v39, trackers := v40, sweep := v41, rails := v42, cmdPorts := v43, monument := v44, meters := v45, cluster := v46, nvm := v47, dbg := v48, upd := v49, gio := v50 } v25).trans ((hπ 26 rfl { s with mons := v27, phases := v28, drvs := v29, datum := v30, pair := v31, adcs := v32, lanes := v33, eng := v34, gens := v35, capMem := v36, rings := v37, grids := v38, isl := v39, trackers := v40, sweep := v41, rails := v42, cmdPorts := v43, monument := v44, meters := v45, cluster := v46, nvm := v47, dbg := v48, upd := v49, gio := v50 } v26).trans ((hπ 27 rfl { s with phases := v28, drvs := v29, datum := v30, pair := v31, adcs := v32, lanes := v33, eng := v34, gens := v35, capMem := v36, rings := v37, grids := v38, isl := v39, trackers := v40, sweep := v41, rails := v42, cmdPorts := v43, monument := v44, meters := v45, cluster := v46, nvm := v47, dbg := v48, upd := v49, gio := v50 } v27).trans ((hπ 28 rfl { s with drvs := v29, datum := v30, pair := v31, adcs := v32, lanes := v33, eng := v34, gens := v35, capMem := v36, rings := v37, grids := v38, isl := v39, trackers := v40, sweep := v41, rails := v42, cmdPorts := v43, monument := v44, meters := v45, cluster := v46, nvm := v47, dbg := v48, upd := v49, gio := v50 } v28).trans ((hπ 29 rfl { s with datum := v30, pair := v31, adcs := v32, lanes := v33, eng := v34, gens := v35, capMem := v36, rings := v37, grids := v38, isl := v39, trackers := v40, sweep := v41, rails := v42, cmdPorts := v43, monument := v44, meters := v45, cluster := v46, nvm := v47, dbg := v48, upd := v49, gio := v50 } v29).trans ((hπ 30 rfl { s with pair := v31, adcs := v32, lanes := v33, eng := v34, gens := v35, capMem := v36, rings := v37, grids := v38, isl := v39, trackers := v40, sweep := v41, rails := v42, cmdPorts := v43, monument := v44, meters := v45, cluster := v46, nvm := v47, dbg := v48, upd := v49, gio := v50 } v30).trans ((hπ 31 rfl { s with adcs := v32, lanes := v33, eng := v34, gens := v35, capMem := v36, rings := v37, grids := v38, isl := v39, trackers := v40, sweep := v41, rails := v42, cmdPorts := v43, monument := v44, meters := v45, cluster := v46, nvm := v47, dbg := v48, upd := v49, gio := v50 } v31).trans ((hπ 32 rfl { s with lanes := v33, eng := v34, gens := v35, capMem := v36, rings := v37, grids := v38, isl := v39, trackers := v40, sweep := v41, rails := v42, cmdPorts := v43, monument := v44, meters := v45, cluster := v46, nvm := v47, dbg := v48, upd := v49, gio := v50 } v32).trans ((hπ 33 rfl { s with eng := v34, gens := v35, capMem := v36, rings := v37, grids := v38, isl := v39, trackers := v40, sweep := v41, rails := v42, cmdPorts := v43, monument := v44, meters := v45, cluster := v46, nvm := v47, dbg := v48, upd := v49, gio := v50 } v33).trans ((hπ 34 rfl { s with gens := v35, capMem := v36, rings := v37, grids := v38, isl := v39, trackers := v40, sweep := v41, rails := v42, cmdPorts := v43, monument := v44, meters := v45, cluster := v46, nvm := v47, dbg := v48, upd := v49, gio := v50 } v34).trans ((hπ 35 rfl { s with capMem := v36, rings := v37, grids := v38, isl := v39, trackers := v40, sweep := v41, rails := v42, cmdPorts := v43, monument := v44, meters := v45, cluster := v46, nvm := v47, dbg := v48, upd := v49, gio := v50 } v35).trans ((hπ 36 rfl { s with rings := v37, grids := v38, isl := v39, trackers := v40, sweep := v41, rails := v42, cmdPorts := v43, monument := v44, meters := v45, cluster := v46, nvm := v47, dbg := v48, upd := v49, gio := v50 } v36).trans ((hπ 37 rfl { s with grids := v38, isl := v39, trackers := v40, sweep := v41, rails := v42, cmdPorts := v43, monument := v44, meters := v45, cluster := v46, nvm := v47, dbg := v48, upd := v49, gio := v50 } v37).trans ((hπ 38 rfl { s with isl := v39, trackers := v40, sweep := v41, rails := v42, cmdPorts := v43, monument := v44, meters := v45, cluster := v46, nvm := v47, dbg := v48, upd := v49, gio := v50 } v38).trans ((hπ 39 rfl { s with trackers := v40, sweep := v41, rails := v42, cmdPorts := v43, monument := v44, meters := v45, cluster := v46, nvm := v47, dbg := v48, upd := v49, gio := v50 } v39).trans ((hπ 40 rfl { s with sweep := v41, rails := v42, cmdPorts := v43, monument := v44, meters := v45, cluster := v46, nvm := v47, dbg := v48, upd := v49, gio := v50 } v40).trans ((hπ 41 rfl { s with rails := v42, cmdPorts := v43, monument := v44, meters := v45, cluster := v46, nvm := v47, dbg := v48, upd := v49, gio := v50 } v41).trans ((hπ 42 rfl { s with cmdPorts := v43, monument := v44, meters := v45, cluster := v46, nvm := v47, dbg := v48, upd := v49, gio := v50 } v42).trans ((hπ 43 rfl { s with monument := v44, meters := v45, cluster := v46, nvm := v47, dbg := v48, upd := v49, gio := v50 } v43).trans ((hπ 44 rfl { s with meters := v45, cluster := v46, nvm := v47, dbg := v48, upd := v49, gio := v50 } v44).trans ((hπ 45 rfl { s with cluster := v46, nvm := v47, dbg := v48, upd := v49, gio := v50 } v45).trans ((hπ 46 rfl { s with nvm := v47, dbg := v48, upd := v49, gio := v50 } v46).trans ((hπ 47 rfl { s with dbg := v48, upd := v49, gio := v50 } v47).trans ((hπ 48 rfl { s with upd := v49, gio := v50 } v48).trans ((hπ 49 rfl { s with gio := v50 } v49).trans (hπ 50 rfl s v50))))))))))))))))))))))))))))))))))))))))))))))))]

end Sys2Proof.Machine
end

