-- ==== Sys2Proof/Laws/StayOps.lean ====
section
/-! SUPPORT. What the operations of Machine/Ops.lean leave alone (Laws/Stays.lean). -/

set_option linter.unusedTactic false
set_option linter.unreachableTactic false
set_option linter.unusedVariables false

namespace Sys2Proof.Machine

variable {α : Type} {π : State → α} {r0 s : State}

theorem wr_stays (hπ : AllFree π 8) (k : Nat) (v : Word) (hF : Stays π r0 s) :
    Stays π r0 (wr k v s) := by
  unfold wr
  try dsimp only
  with_reducible repeat' first
    | assumption | simp only [Stays.mk_regs (hπ.sub (by decide))]

theorem wrf_stays (hπ : AllFree π 8) (k lo n v : Nat) (hF : Stays π r0 s) :
    Stays π r0 (wrf k lo n v s) := by
  unfold wrf
  try dsimp only
  with_reducible repeat' first
    | assumption | apply wr_stays (hπ.sub (by decide))

theorem wrb_stays (hπ : AllFree π 8) (k b : Nat) (v : Bool) (hF : Stays π r0 s) :
    Stays π r0 (wrb k b v s) := by
  unfold wrb
  try dsimp only
  with_reducible repeat' first
    | assumption | apply Stays.ite | apply wrf_stays (hπ.sub (by decide))

theorem incHeld_stays (hπ : AllFree π 8) (k lo n : Nat) (hF : Stays π r0 s) :
    Stays π r0 (incHeld k lo n s) := by
  unfold incHeld
  try dsimp only
  with_reducible repeat' first
    | assumption | apply wrf_stays (hπ.sub (by decide))

theorem incMod_stays (hπ : AllFree π 8) (k lo n : Nat) (hF : Stays π r0 s) :
    Stays π r0 (incMod k lo n s) := by
  unfold incMod
  try dsimp only
  with_reducible repeat' first
    | assumption | apply wrf_stays (hπ.sub (by decide))

theorem setForce_stays (hπ : AllFree π 16) (k : Nat) (v : Word) (hF : Stays π r0 s) :
    Stays π r0 (setForce k v s) := by
  unfold setForce
  try dsimp only
  with_reducible repeat' first
    | assumption | simp only [Stays.mk_act (hπ.sub (by decide))]

theorem dropPages_stays (hπ : AllFree π 24) (p : Nat → Bool) (hF : Stays π r0 s) :
    Stays π r0 (dropPages p s) := by
  unfold dropPages
  try dsimp only
  with_reducible repeat' first
    | assumption | intro _ | simp only [Stays.mk_regs_act (hπ.sub (by decide))]

theorem upto_stays (hπ : AllFree π 1) (t : Nat) (hF : Stays π r0 s) :
    Stays π r0 (upto t s) := by
  unfold upto
  try dsimp only
  with_reducible repeat' first
    | assumption | simp only [Stays.mk_now (hπ.sub (by decide))]

theorem memWr_stays (hπ : AllFree π 64) (a : Nat) (b : Byte) (hF : Stays π r0 s) :
    Stays π r0 (memWr a b s) := by
  unfold memWr
  try dsimp only
  with_reducible repeat' first
    | assumption | simp only [Stays.mk_mem (hπ.sub (by decide))]

theorem memWrBytes_stays (hπ : AllFree π 64) (a : Nat) (bs : List Byte) (hF : Stays π r0 s) :
    Stays π r0 (memWrBytes a bs s) := by
  induction bs generalizing a s with
  | nil => exact hF
  | cons b bs ih => exact ih (a + 1) (memWr_stays hπ a b hF)

theorem memWrWord_stays (hπ : AllFree π 64) (a : Nat) (w : Word) (hF : Stays π r0 s) :
    Stays π r0 (memWrWord a w s) := by
  unfold memWrWord
  try dsimp only
  with_reducible repeat' first
    | assumption | apply memWrBytes_stays (hπ.sub (by decide))

theorem respond_stays (hπ : AllFree π 32) (w : Word) (hF : Stays π r0 s) :
    Stays π r0 (respond w s) := by
  unfold respond
  try dsimp only
  with_reducible repeat' first
    | assumption | simp only [Stays.mk_bus (hπ.sub (by decide))]

theorem busError_stays (hπ : AllFree π 32)  (hF : Stays π r0 s) :
    Stays π r0 (busError s) := by
  unfold busError
  try dsimp only
  with_reducible repeat' first
    | assumption | simp only [Stays.mk_bus (hπ.sub (by decide))]

theorem draw_stays (hπ : AllFree π 2)  (hF : Stays π r0 s) :
    Stays π r0 (draw s).2 := by
  unfold draw
  try dsimp only
  with_reducible repeat' first
    | assumption | simp only [Stays.mk_frees (hπ.sub (by decide))] | dsimp only

theorem busCycle_stays (hπ : AllFree π 1)  (hF : Stays π r0 s) :
    Stays π r0 (busCycle s) := by
  unfold busCycle
  try dsimp only
  with_reducible repeat' first
    | assumption | simp only [Stays.mk_now (hπ.sub (by decide))]

theorem forEach_stays {β : Type} {xs : List β} {f : β → State → State}
    (hf : ∀ x s, Stays π r0 s → Stays π r0 (f x s)) (hF : Stays π r0 s) : Stays π r0 (forEach xs f s) := by
  induction xs generalizing s with
  | nil => exact hF
  | cons x xs ih => exact ih (hf x s hF)

theorem onlyIf_stays {c : Bool} {f : State → State} (hf : ∀ s, Stays π r0 s → Stays π r0 (f s))
    (hF : Stays π r0 s) : Stays π r0 (onlyIf c f s) := by
  unfold onlyIf; split
  · exact hf s hF
  · exact hF

theorem baseTurn_stays (hπ : AllFree π 1048576) (valid : Bool) (hF : Stays π r0 s) :
    Stays π r0 (baseTurn valid s) := by
  unfold baseTurn
  try dsimp only
  with_reducible repeat' first
    | assumption | apply Stays.ite | simp only [Stays.mk_log (hπ.sub (by decide))]

theorem logIt_stays (hπ : AllFree π 1048576) (page code : Nat) (payload : List Word) (hF : Stays π r0 s) :
    Stays π r0 (logIt page code payload s) := by
  unfold logIt
  try dsimp only
  with_reducible repeat' first
    | assumption | simp only [Stays.mk_log (hπ.sub (by decide))]

end Sys2Proof.Machine
end

