-- ==== Sys2Proof/Laws/StayFlags.lean ====
section
/-! SUPPORT. What the operations of Machine/Flags.lean leave alone (Laws/Stays.lean). -/

set_option linter.unusedTactic false
set_option linter.unreachableTactic false
set_option linter.unusedVariables false

namespace Sys2Proof.Machine

variable {α : Type} {π : State → α} {r0 s : State}

theorem setSrcQ_stays (hπ : AllFree π 524288) (e : Nat) (q : SrcQ) (hF : Stays π r0 s) :
    Stays π r0 (setSrcQ e q s) := by
  unfold setSrcQ
  try dsimp only
  with_reducible repeat' first
    | assumption | simp only [Stays.mk_evr (hπ.sub (by decide))]

theorem setChan_stays (hπ : AllFree π 524288) (n : Nat) (c : Chan) (hF : Stays π r0 s) :
    Stays π r0 (setChan n c s) := by
  unfold setChan
  try dsimp only
  with_reducible repeat' first
    | assumption | simp only [Stays.mk_evr (hπ.sub (by decide))]

theorem occurCore_stays (hπ : AllFree π 524296) (e : Nat) (hF : Stays π r0 s) :
    Stays π r0 (occurCore e s).1 := by
  unfold occurCore
  try dsimp only
  with_reducible repeat' first
    | assumption | intro _ | apply Stays.ite | apply setSrcQ_stays (hπ.sub (by decide))
    | apply incMod_stays (hπ.sub (by decide)) | refine Stays.of_snd (by assumption) ?_
    | refine Stays.of_fst (by assumption) ?_ | simp only [id_eq] | split | dsimp only

theorem setFreshBits_stays (hπ : AllFree π 524288) (k : Nat) (fresh stood : Word) (hF : Stays π r0 s) :
    Stays π r0 (setFreshBits k fresh stood s) := by
  unfold setFreshBits
  try dsimp only
  with_reducible repeat' first
    | assumption | apply Stays.ite | simp only [Stays.mk_evr (hπ.sub (by decide))]

theorem setFresh_stays (hπ : AllFree π 524296) (k b : Nat) (hF : Stays π r0 s) :
    Stays π r0 (setFresh k b s) := by
  unfold setFresh
  try dsimp only
  with_reducible repeat' first
    | assumption | apply Stays.ite | apply wrb_stays (hπ.sub (by decide)) | apply setFreshBits_stays (hπ.sub (by decide))

theorem clearFresh_stays (hπ : AllFree π 524296) (k : Nat) (m : Word) (hF : Stays π r0 s) :
    Stays π r0 (clearFresh k m s).2 := by
  unfold clearFresh
  try dsimp only
  with_reducible repeat' first
    | assumption | apply Stays.ite | apply setFreshBits_stays (hπ.sub (by decide))
    | apply wr_stays (hπ.sub (by decide)) | dsimp only

theorem occur_stays (hπ : AllFree π 524296) (e : Nat) (hF : Stays π r0 s) :
    Stays π r0 (occur e s) := by
  unfold occur
  try dsimp only
  with_reducible repeat' first
    | assumption | apply Stays.ite | apply occurCore_stays (hπ.sub (by decide)) | apply setFresh_stays (hπ.sub (by decide))
    | refine Stays.of_fst (by assumption) ?_ | split | dsimp only

theorem raise_stays (hπ : AllFree π 524296) (t : PageType) (n k : Nat) (hF : Stays π r0 s) :
    Stays π r0 (raise t n k s) := by
  unfold raise
  try dsimp only
  with_reducible repeat' first
    | assumption | apply Stays.ite | apply setFresh_stays (hπ.sub (by decide)) | apply occur_stays (hπ.sub (by decide))
    | split

theorem clearCauses_stays (hπ : AllFree π 524296) (t : PageType) (n : Nat) (m : Word) (hF : Stays π r0 s) :
    Stays π r0 (clearCauses t n m s) := by
  unfold clearCauses
  try dsimp only
  with_reducible repeat' first
    | assumption | intro _ | apply clearFresh_stays (hπ.sub (by decide)) | apply forEach_stays
    | apply occur_stays (hπ.sub (by decide)) | refine Stays.of_snd (by assumption) ?_ | split
    | dsimp only

theorem writeEvEn_stays (hπ : AllFree π 524296) (t : PageType) (n : Nat) (v : Word) (hF : Stays π r0 s) :
    Stays π r0 (writeEvEn t n v s) := by
  unfold writeEvEn
  try dsimp only
  with_reducible repeat' first
    | assumption | intro _ | apply wr_stays (hπ.sub (by decide)) | apply forEach_stays
    | apply occur_stays (hπ.sub (by decide)) | split

theorem raiseTrip_stays (hπ : AllFree π 524296) (i k : Nat) (hF : Stays π r0 s) :
    Stays π r0 (raiseTrip i k s) := by
  unfold raiseTrip
  try dsimp only
  with_reducible repeat' first
    | assumption | apply Stays.ite | apply setFresh_stays (hπ.sub (by decide)) | apply occur_stays (hπ.sub (by decide))

theorem clearTrip_stays (hπ : AllFree π 524296) (i : Nat) (m : Word) (hF : Stays π r0 s) :
    Stays π r0 (clearTrip i m s) := by
  unfold clearTrip
  try dsimp only
  with_reducible repeat' first
    | assumption | apply Stays.ite | apply clearFresh_stays (hπ.sub (by decide))
    | apply occur_stays (hπ.sub (by decide)) | refine Stays.of_snd (by assumption) ?_ | split
    | dsimp only

end Sys2Proof.Machine
end

