-- ==== Sys2Proof/Laws/StayCounters.lean ====
section
/-! SUPPORT. What the operations of Machine/Counters.lean leave alone (Laws/Stays.lean). -/

set_option linter.unusedTactic false
set_option linter.unreachableTactic false
set_option linter.unusedVariables false

namespace Sys2Proof.Machine

variable {α : Type} {π : State → α} {r0 s : State}

theorem raisePmc_stays (hπ : AllFree π 524296) (k : Nat) (hF : Stays π r0 s) :
    Stays π r0 (raisePmc k s) := by
  unfold raisePmc
  try dsimp only
  with_reducible repeat' first
    | assumption | apply raise_stays (hπ.sub (by decide))

theorem setCtr_stays (hπ : AllFree π 70368744177664) (n : Nat) (c : Ctr) (hF : Stays π r0 s) :
    Stays π r0 (setCtr n c s) := by
  unfold setCtr
  try dsimp only
  with_reducible repeat' first
    | assumption | simp only [Stays.mk_cluster (hπ.sub (by decide))]

theorem onHart_stays (hπ : AllFree π 70368744177664) (h : Nat) (f : Hart → Hart) (hF : Stays π r0 s) :
    Stays π r0 (onHart h f s) := by
  unfold onHart
  try dsimp only
  with_reducible repeat' first
    | assumption | simp only [Stays.mk_cluster (hπ.sub (by decide))]

theorem ctrOverflow_stays (hπ : AllFree π 70368744701960) (n : Nat) (hF : Stays π r0 s) :
    Stays π r0 (ctrOverflow n s) := by
  unfold ctrOverflow
  try dsimp only
  with_reducible repeat' first
    | assumption | intro _ | apply Stays.ite | apply setCtr_stays (hπ.sub (by decide))
    | apply wrb_stays (hπ.sub (by decide)) | apply raisePmc_stays (hπ.sub (by decide))
    | apply onHart_stays (hπ.sub (by decide)) | simp only [Stays.mk_cluster (hπ.sub (by decide))]
    | split

theorem ctrStep_stays (hπ : AllFree π 70368744701960) (n : Nat) (hF : Stays π r0 s) :
    Stays π r0 (ctrStep n s) := by
  unfold ctrStep
  try dsimp only
  with_reducible repeat' first
    | assumption | apply Stays.ite | apply setCtr_stays (hπ.sub (by decide)) | apply ctrOverflow_stays (hπ.sub (by decide))

theorem pmcSettle_stays (hπ : AllFree π 70368744177664)  (hF : Stays π r0 s) :
    Stays π r0 (pmcSettle s) := by
  unfold pmcSettle
  try dsimp only
  with_reducible repeat' first
    | assumption | intro _ | apply Stays.ite | apply forEach_stays | apply setCtr_stays (hπ.sub (by decide))

theorem pmcCount_stays (hπ : AllFree π 70368744701960) (cls : Nat) (m : Option Doer) (a : Option Nat) (hF : Stays π r0 s) :
    Stays π r0 (pmcCount cls m a s) := by
  unfold pmcCount
  try dsimp only
  with_reducible repeat' first
    | assumption | intro _ | apply Stays.ite | apply forEach_stays | apply ctrStep_stays (hπ.sub (by decide))
    | apply setCtr_stays (hπ.sub (by decide)) | split

theorem pmcAccesses_stays (hπ : AllFree π 70368744701960) (cls : Nat) (m : Doer) (a : Nat) (hF : Stays π r0 s) :
    Stays π r0 (pmcAccesses cls m a s) := by
  unfold pmcAccesses
  try dsimp only
  with_reducible repeat' first
    | assumption | intro _ | apply Stays.ite | apply pmcCount_stays (hπ.sub (by decide))

theorem pmcAccess_stays (hπ : AllFree π 70368744701960) (m : Doer) (store : Bool) (a : Nat) (page : Bool) (hF : Stays π r0 s) :
    Stays π r0 (pmcAccess m store a page s) := by
  unfold pmcAccess
  try dsimp only
  with_reducible repeat' first
    | assumption | apply Stays.ite | apply pmcAccesses_stays (hπ.sub (by decide))

theorem atPage_stays (hπ : AllFree π 9) (m : Master) (t : PageType) (off : Nat) (f : State → State) (hF_f : ∀ s, Stays π r0 s → Stays π r0 (f s)) (hF : Stays π r0 s) :
    Stays π r0 (atPage m t off f s) := by
  unfold atPage
  try dsimp only
  with_reducible repeat' first
    | assumption | apply Stays.ite | apply busCycle_stays (hπ.sub (by decide)) | apply wr_stays (hπ.sub (by decide))
    | apply hF_f | split

theorem byBus_stays (hπ : AllFree π 70368744701961) (m : Master) (t : PageType) (n off : Nat) (f : State → State) (hF_f : ∀ s, Stays π r0 s → Stays π r0 (f s)) (hF : Stays π r0 s) :
    Stays π r0 (byBus m t n off f s) := by
  unfold byBus
  try dsimp only
  with_reducible repeat' first
    | assumption | intro _ | apply atPage_stays (hπ.sub (by decide)) | apply pmcAccess_stays (hπ.sub (by decide))
    | apply hF_f

theorem readAt_stays (hπ : AllFree π 70368744701992) (m : Master) (t : PageType) (n off : Nat) (f : State → State) (hF_f : ∀ s, Stays π r0 s → Stays π r0 (f s)) (hF : Stays π r0 s) :
    Stays π r0 (readAt m t n off f s) := by
  unfold readAt
  try dsimp only
  with_reducible repeat' first
    | assumption | apply Stays.ite | apply pmcAccess_stays (hπ.sub (by decide)) | apply respond_stays (hπ.sub (by decide))
    | apply hF_f

theorem sramCheck_stays (hπ : AllFree π 524296) (a n : Nat) (hF : Stays π r0 s) :
    Stays π r0 (sramCheck a n s) := by
  unfold sramCheck
  try dsimp only
  with_reducible repeat' first
    | assumption | intro _ | apply forEach_stays | apply raisePmc_stays (hπ.sub (by decide))
    | apply wr_stays (hπ.sub (by decide)) | apply incHeld_stays (hπ.sub (by decide))

theorem sramWrite_stays (hπ : AllFree π 70368744177728) (a : Nat) (bytes : List Byte) (hF : Stays π r0 s) :
    Stays π r0 (sramWrite a bytes s) := by
  unfold sramWrite
  try dsimp only
  with_reducible repeat' first
    | assumption | intro _ | apply memWrBytes_stays (hπ.sub (by decide)) | simp only [Stays.mk_cluster (hπ.sub (by decide))]

theorem raiseNvm_stays (hπ : AllFree π 524296) (k : Nat) (hF : Stays π r0 s) :
    Stays π r0 (raiseNvm k s) := by
  unfold raiseNvm
  try dsimp only
  with_reducible repeat' first
    | assumption | apply raise_stays (hπ.sub (by decide))

theorem onNvm_stays (hπ : AllFree π 140737488355328) (f : Nvm → Nvm) (hF : Stays π r0 s) :
    Stays π r0 (onNvm f s) := by
  unfold onNvm
  try dsimp only
  with_reducible repeat' first
    | assumption | simp only [Stays.mk_nvm (hπ.sub (by decide))]

theorem nvRead_stays (hπ : AllFree π 140737488879624) (a n : Nat) (hF : Stays π r0 s) :
    Stays π r0 (nvRead a n s) := by
  unfold nvRead
  try dsimp only
  with_reducible repeat' first
    | assumption | intro _ | apply forEach_stays | apply raiseNvm_stays (hπ.sub (by decide))
    | apply wr_stays (hπ.sub (by decide)) | apply incHeld_stays (hπ.sub (by decide)) | apply onNvm_stays (hπ.sub (by decide))

theorem nvCount_stays (hπ : AllFree π 70368744701960) (m : Option Doer) (a words : Nat) (hF : Stays π r0 s) :
    Stays π r0 (nvCount m a words s) := by
  unfold nvCount
  try dsimp only
  with_reducible repeat' first
    | assumption | intro _ | apply Stays.ite | apply wr_stays (hπ.sub (by decide))
    | apply forEach_stays | apply pmcCount_stays (hπ.sub (by decide))

theorem nvStore_stays (hπ : AllFree π 211106233057352) (m : Option Doer) (a : Nat) (bytes : List Byte) (hF : Stays π r0 s) :
    Stays π r0 (nvStore m a bytes s) := by
  unfold nvStore
  try dsimp only
  with_reducible repeat' first
    | assumption | intro _ | apply nvCount_stays (hπ.sub (by decide)) | apply onNvm_stays (hπ.sub (by decide))
    | apply memWrBytes_stays (hπ.sub (by decide))

theorem nvStores_stays (hπ : AllFree π 211106233057352) (m : Option Doer) (a : Nat) (bytes : List Byte) (hF : Stays π r0 s) :
    Stays π r0 (nvStores m a bytes s) := by
  unfold nvStores
  try dsimp only
  with_reducible repeat' first
    | assumption | intro _ | apply nvCount_stays (hπ.sub (by decide)) | apply onNvm_stays (hπ.sub (by decide))
    | apply memWrBytes_stays (hπ.sub (by decide))

theorem nvCutWord_stays (hπ : AllFree π 140737488355394) (a : Nat) (bytes : List Byte) (hF : Stays π r0 s) :
    Stays π r0 (nvCutWord a bytes s) := by
  unfold nvCutWord
  try dsimp only
  with_reducible repeat' first
    | assumption | intro _ | apply Stays.ite | apply draw_stays (hπ.sub (by decide))
    | apply memWrBytes_stays (hπ.sub (by decide)) | apply onNvm_stays (hπ.sub (by decide))
    | refine Stays.of_snd (by assumption) ?_ | split | dsimp only

theorem ctrValue_stays (hπ : AllFree π 70368744177666) (n : Nat) (hF : Stays π r0 s) :
    Stays π r0 (ctrValue n s).2 := by
  unfold ctrValue
  try dsimp only
  with_reducible repeat' first
    | assumption | apply Stays.ite | apply draw_stays (hπ.sub (by decide)) | apply setCtr_stays (hπ.sub (by decide))
    | refine Stays.of_snd (by assumption) ?_ | split | dsimp only

theorem writeCtrCfg_stays (hπ : AllFree π 70368744701960) (n : Nat) (v : Word) (hF : Stays π r0 s) :
    Stays π r0 (writeCtrCfg n v s) := by
  unfold writeCtrCfg
  try dsimp only
  with_reducible repeat' first
    | assumption | apply Stays.ite | apply raisePmc_stays (hπ.sub (by decide)) | apply pmcSettle_stays (hπ.sub (by decide))
    | apply wr_stays (hπ.sub (by decide))

theorem writePmc_stays (hπ : AllFree π 70368744701960) (off : Nat) (v : Word) (hF : Stays π r0 s) :
    Stays π r0 (writePmc off v s) := by
  unfold writePmc
  try dsimp only
  with_reducible repeat' first
    | assumption | apply Stays.ite | apply wr_stays (hπ.sub (by decide)) | apply pmcSettle_stays (hπ.sub (by decide))
    | apply writeCtrCfg_stays (hπ.sub (by decide)) | apply setCtr_stays (hπ.sub (by decide))
    | simp only [Stays.mk_cluster (hπ.sub (by decide))] | split

theorem readCtrLo_stays (hπ : AllFree π 70368744177706) (n : Nat) (hF : Stays π r0 s) :
    Stays π r0 (readCtrLo n s) := by
  unfold readCtrLo
  try dsimp only
  with_reducible repeat' first
    | assumption | apply ctrValue_stays (hπ.sub (by decide)) | apply respond_stays (hπ.sub (by decide))
    | apply wr_stays (hπ.sub (by decide)) | refine Stays.of_snd (by assumption) ?_ | split
    | dsimp only

theorem execValLoWrite_stays (hπ : AllFree π 70368744701961) (m : Master) (n : Fin 64) (v : Word) (hF : Stays π r0 s) :
    ∃ s1, execValLoWrite m n v s = .next s1 ∧ Stays π r0 s1 := by
  refine ⟨_, rfl, ?_⟩
  try dsimp only
  with_reducible repeat' first
    | assumption | intro _ | apply byBus_stays (hπ.sub (by decide)) | apply writePmc_stays (hπ.sub (by decide))

theorem execValLoRead_stays (hπ : AllFree π 70368744701994) (m : Master) (n : Fin 64) (hF : Stays π r0 s) :
    ∃ s1, execValLoRead m n s = .next s1 ∧ Stays π r0 s1 := by
  refine ⟨_, rfl, ?_⟩
  try dsimp only
  with_reducible repeat' first
    | assumption | intro _ | apply readAt_stays (hπ.sub (by decide)) | apply readCtrLo_stays (hπ.sub (by decide))

theorem execCounterOverflow_stays (hπ : AllFree π 70368744701960) (n : Fin 64) (hF : Stays π r0 s) :
    ∃ s1, execCounterOverflow n s = .next s1 ∧ Stays π r0 s1 := by
  refine ⟨_, rfl, ?_⟩
  try dsimp only
  with_reducible repeat' first
    | assumption | apply Stays.ite | apply pmcSettle_stays (hπ.sub (by decide)) | apply ctrOverflow_stays (hπ.sub (by decide))
    | split

end Sys2Proof.Machine
end

