-- ==== Sys2Proof/Laws/StayAccess.lean ====
section
/-! SUPPORT. What the operations of Machine/Access.lean leave alone (Laws/Stays.lean). -/

set_option linter.unusedTactic false
set_option linter.unreachableTactic false
set_option linter.unusedVariables false

namespace Sys2Proof.Machine

variable {α : Type} {π : State → α} {r0 s : State}

theorem logHap_stays (hπ : AllFree π 1048578) (page : Nat) (hF : Stays π r0 s) :
    Stays π r0 (logHap page s) := by
  unfold logHap
  try dsimp only
  with_reducible repeat' first
    | assumption | apply draw_stays (hπ.sub (by decide)) | apply logIt_stays (hπ.sub (by decide))
    | refine Stays.of_snd (by assumption) ?_ | split | dsimp only

theorem logLoss_stays (hπ : AllFree π 1048578) (page : Nat) (delib : Bool) (hF : Stays π r0 s) :
    Stays π r0 (logLoss page delib s) := by
  unfold logLoss
  try dsimp only
  with_reducible repeat' first
    | assumption | apply draw_stays (hπ.sub (by decide)) | apply logIt_stays (hπ.sub (by decide))
    | refine Stays.of_snd (by assumption) ?_ | split | dsimp only

theorem refuse_stays (hπ : AllFree π 524296) (t : PageType) (n : Nat) (hF : Stays π r0 s) :
    Stays π r0 (refuse t n s) := by
  unfold refuse
  try dsimp only
  with_reducible repeat' first
    | assumption | apply raise_stays (hπ.sub (by decide)) | split

theorem placeEntry_stays (hπ : AllFree π 786440) (e : FbEnt) (hF : Stays π r0 s) :
    Stays π r0 (placeEntry e s) := by
  unfold placeEntry
  try dsimp only
  with_reducible repeat' first
    | assumption | apply Stays.ite | apply raise_stays (hπ.sub (by decide)) | simp only [Stays.mk_fb (hπ.sub (by decide))]

theorem bookRequested_stays (hπ : AllFree π 786440) (kind page off master : Nat) (old new : Word) (hF : Stays π r0 s) :
    Stays π r0 (bookRequested kind page off master old new s) := by
  unfold bookRequested
  try dsimp only
  with_reducible repeat' first
    | assumption | apply placeEntry_stays (hπ.sub (by decide)) | simp only [Stays.mk_fb (hπ.sub (by decide))]

theorem bookAction_stays (hπ : AllFree π 786440) (kind page off master : Nat) (old new : Word) (hF : Stays π r0 s) :
    Stays π r0 (bookAction kind page off master old new s) := by
  unfold bookAction
  try dsimp only
  with_reducible repeat' first
    | assumption | apply Stays.ite | apply placeEntry_stays (hπ.sub (by decide))
    | simp only [Stays.mk_fb (hπ.sub (by decide))]

theorem reviseEntry_stays (hπ : AllFree π 262144) (seq : Nat) (old new : Word) (hF : Stays π r0 s) :
    Stays π r0 (reviseEntry seq old new s) := by
  unfold reviseEntry
  try dsimp only
  with_reducible repeat' first
    | assumption | intro _ | apply Stays.ite | simp only [Stays.mk_fb (hπ.sub (by decide))]

theorem placeWaiting_stays (hπ : AllFree π 786440) (k : Nat) (hF : Stays π r0 s) :
    Stays π r0 (placeWaiting  k  s) := by
  induction k generalizing s  with
  | zero => exact hF
  | succ k ih =>
  rw [placeWaiting]
  try dsimp only
  with_reducible repeat' first
    | assumption | apply Stays.ite | apply ih | apply placeEntry_stays (hπ.sub (by decide))
    | simp only [Stays.mk_fb (hπ.sub (by decide))] | split

theorem deny_stays (hπ : AllFree π 655368) (k : Nat) (hF : Stays π r0 s) :
    Stays π r0 (deny k s) := by
  unfold deny
  try dsimp only
  with_reducible repeat' first
    | assumption | apply refuse_stays (hπ.sub (by decide)) | simp only [Stays.mk_pw (hπ.sub (by decide))]
    | split

theorem refuseKey_stays (hπ : AllFree π 524296) (k : Nat) (hF : Stays π r0 s) :
    Stays π r0 (refuseKey k s) := by
  unfold refuseKey
  try dsimp only
  with_reducible repeat' first
    | assumption | apply refuse_stays (hπ.sub (by decide)) | split

theorem rwlPathBy_stays (hπ : AllFree π 917512) (get : State → Word) (m : Master) (k : Nat) (ok : Bool) (act : State → State) (hF_act : ∀ s, Stays π r0 s → Stays π r0 (act s)) (hF : Stays π r0 s) :
    Stays π r0 (rwlPathBy get m k ok act s) := by
  unfold rwlPathBy
  try dsimp only
  with_reducible repeat' first
    | assumption | apply Stays.ite | apply deny_stays (hπ.sub (by decide)) | apply refuseKey_stays (hπ.sub (by decide))
    | apply bookRequested_stays (hπ.sub (by decide)) | apply hF_act | simp only [Stays.mk_pw (hπ.sub (by decide))]

theorem rwlPath_stays (hπ : AllFree π 917512) (m : Master) (k : Nat) (ok : Bool) (act : State → State) (hF_act : ∀ s, Stays π r0 s → Stays π r0 (act s)) (hF : Stays π r0 s) :
    Stays π r0 (rwlPath m k ok act s) := by
  unfold rwlPath
  try dsimp only
  with_reducible repeat' first
    | assumption | intro _ | apply rwlPathBy_stays (hπ.sub (by decide)) | apply hF_act

theorem plainWrite_stays (hπ : AllFree π 8) (k : Nat) (v : Word) (hF : Stays π r0 s) :
    Stays π r0 (plainWrite k v s) := by
  unfold plainWrite
  try dsimp only
  with_reducible repeat' first
    | assumption | apply wr_stays (hπ.sub (by decide))

end Sys2Proof.Machine
end

