-- ==== Sys2Proof/Laws/StayGio.lean ====
section
/-! SUPPORT. What the operations of Machine/Gio.lean leave alone (Laws/Stays.lean). -/

set_option linter.unusedTactic false
set_option linter.unreachableTactic false
set_option linter.unusedVariables false

namespace Sys2Proof.Machine

variable {α : Type} {π : State → α} {r0 s : State}

theorem onGio_stays (hπ : AllFree π 1125899906842624) (f : Gio → Gio) (hF : Stays π r0 s) :
    Stays π r0 (onGio f s) := by
  unfold onGio
  try dsimp only
  with_reducible repeat' first
    | assumption | simp only [Stays.mk_gio (hπ.sub (by decide))]

theorem setI2c_stays (hπ : AllFree π 1125899906842624) (k : Nat) (x : I2c) (hF : Stays π r0 s) :
    Stays π r0 (setI2c k x s) := by
  unfold setI2c
  try dsimp only
  with_reducible repeat' first
    | assumption | intro _ | apply onGio_stays (hπ.sub (by decide))

theorem setSpi_stays (hπ : AllFree π 1125899906842624) (k : Nat) (x : Spi) (hF : Stays π r0 s) :
    Stays π r0 (setSpi k x s) := by
  unfold setSpi
  try dsimp only
  with_reducible repeat' first
    | assumption | intro _ | apply onGio_stays (hπ.sub (by decide))

theorem setUart_stays (hπ : AllFree π 1125899906842624) (k : Nat) (x : Uart) (hF : Stays π r0 s) :
    Stays π r0 (setUart k x s) := by
  unfold setUart
  try dsimp only
  with_reducible repeat' first
    | assumption | intro _ | apply onGio_stays (hπ.sub (by decide))

theorem setPin_stays (hπ : AllFree π 1125899907366920) (n : Nat) (v : Bool) (hF : Stays π r0 s) :
    Stays π r0 (setPin n v s) := by
  unfold setPin
  try dsimp only
  with_reducible repeat' first
    | assumption | intro _ | apply Stays.ite | apply onGio_stays (hπ.sub (by decide))
    | apply raise_stays (hπ.sub (by decide))

theorem drivePins_stays (hπ : AllFree π 1125899907366920)  (hF : Stays π r0 s) :
    Stays π r0 (drivePins s) := by
  unfold drivePins
  try dsimp only
  with_reducible repeat' first
    | assumption | intro _ | apply forEach_stays | apply setPin_stays (hπ.sub (by decide))
    | split

theorem writeGpio_stays (hπ : AllFree π 1125899907366920) (off : Nat) (v : Word) (hF : Stays π r0 s) :
    Stays π r0 (writeGpio off v s) := by
  unfold writeGpio
  try dsimp only
  with_reducible repeat' first
    | assumption | apply Stays.ite | apply drivePins_stays (hπ.sub (by decide)) | apply wr_stays (hπ.sub (by decide))
    | split

theorem i2cRun_stays (hπ : AllFree π 1125899907366920) (k : Nat) (acts : List (Nat × Bool)) (own : Bool) (hF : Stays π r0 s) :
    Stays π r0 (i2cRun k acts own s) := by
  unfold i2cRun
  try dsimp only
  with_reducible repeat' first
    | assumption | apply drivePins_stays (hπ.sub (by decide)) | apply setI2c_stays (hπ.sub (by decide))

theorem writeI2cCmd_stays (hπ : AllFree π 1125899907366920) (k : Nat) (v : Word) (hF : Stays π r0 s) :
    Stays π r0 (writeI2cCmd k v s) := by
  unfold writeI2cCmd
  try dsimp only
  with_reducible repeat' first
    | assumption | apply Stays.ite | apply i2cRun_stays (hπ.sub (by decide)) | apply wr_stays (hπ.sub (by decide))
    | split

theorem i2cEnds_stays (hπ : AllFree π 1125899907366920) (k a : Nat) (nack arb tmo : Bool) (hF : Stays π r0 s) :
    Stays π r0 (i2cEnds k a nack arb tmo s) := by
  unfold i2cEnds
  try dsimp only
  with_reducible repeat' first
    | assumption | apply Stays.ite | apply raise_stays (hπ.sub (by decide)) | apply i2cRun_stays (hπ.sub (by decide))
    | apply wr_stays (hπ.sub (by decide)) | split

theorem spiStart_stays (hπ : AllFree π 1125899906842624) (k : Nat) (hF : Stays π r0 s) :
    Stays π r0 (spiStart k s) := by
  unfold spiStart
  try dsimp only
  with_reducible repeat' first
    | assumption | apply Stays.ite | apply setSpi_stays (hπ.sub (by decide)) | split

theorem writeSpi_stays (hπ : AllFree π 1125899907366920) (k off : Nat) (v : Word) (hF : Stays π r0 s) :
    Stays π r0 (writeSpi k off v s) := by
  unfold writeSpi
  try dsimp only
  with_reducible repeat' first
    | assumption | apply Stays.ite | apply drivePins_stays (hπ.sub (by decide)) | apply spiStart_stays (hπ.sub (by decide))
    | apply wr_stays (hπ.sub (by decide)) | apply setSpi_stays (hπ.sub (by decide))

theorem uartStart_stays (hπ : AllFree π 1125899906842624) (k : Nat) (hF : Stays π r0 s) :
    Stays π r0 (uartStart k s) := by
  unfold uartStart
  try dsimp only
  with_reducible repeat' first
    | assumption | apply Stays.ite | apply setUart_stays (hπ.sub (by decide)) | split

theorem readSpiRx_stays (hπ : AllFree π 1125899906842656) (k : Nat) (hF : Stays π r0 s) :
    Stays π r0 (readSpiRx k s) := by
  unfold readSpiRx
  try dsimp only
  with_reducible repeat' first
    | assumption | apply respond_stays (hπ.sub (by decide)) | apply setSpi_stays (hπ.sub (by decide))
    | split

theorem writeUart_stays (hπ : AllFree π 1125899907366920) (k off : Nat) (v : Word) (hF : Stays π r0 s) :
    Stays π r0 (writeUart k off v s) := by
  unfold writeUart
  try dsimp only
  with_reducible repeat' first
    | assumption | apply Stays.ite | apply drivePins_stays (hπ.sub (by decide)) | apply uartStart_stays (hπ.sub (by decide))
    | apply wr_stays (hπ.sub (by decide)) | apply setUart_stays (hπ.sub (by decide))

theorem readUartRx_stays (hπ : AllFree π 1125899907366952) (k : Nat) (hF : Stays π r0 s) :
    Stays π r0 (readUartRx k s) := by
  unfold readUartRx
  try dsimp only
  with_reducible repeat' first
    | assumption | apply respond_stays (hπ.sub (by decide)) | apply drivePins_stays (hπ.sub (by decide))
    | apply setUart_stays (hπ.sub (by decide)) | split

theorem frameStamp_stays (hπ : AllFree π 2) (e t : Nat) (hF : Stays π r0 s) :
    Stays π r0 (frameStamp e t s).2 := by
  unfold frameStamp
  try dsimp only
  with_reducible repeat' first
    | assumption | apply draw_stays (hπ.sub (by decide)) | refine Stays.of_snd (by assumption) ?_
    | split | dsimp only

theorem descDone_stays (hπ : AllFree π 70368744177736) (e base a : Nat) (err : Bool) (stamp : Option Nat) (hF : Stays π r0 s) :
    Stays π r0 (descDone e base a err stamp s) := by
  unfold descDone
  try dsimp only
  with_reducible repeat' first
    | assumption | apply Stays.ite | apply sramWrite_stays (hπ.sub (by decide)) | apply wr_stays (hπ.sub (by decide))

theorem countFrame_stays (hπ : AllFree π 8) (e off : Nat) (hF : Stays π r0 s) :
    Stays π r0 (countFrame e off s) := by
  unfold countFrame
  try dsimp only
  with_reducible repeat' first
    | assumption | apply wr_stays (hπ.sub (by decide))

theorem writeEth_stays (hπ : AllFree π 1125899906842632) (e off : Nat) (v : Word) (hF : Stays π r0 s) :
    Stays π r0 (writeEth e off v s) := by
  unfold writeEth
  try dsimp only
  with_reducible repeat' first
    | assumption | intro _ | apply Stays.ite | apply wr_stays (hπ.sub (by decide))
    | apply onGio_stays (hπ.sub (by decide)) | split

theorem gioReset_stays (hπ : AllFree π 1125899906842624)  (hF : Stays π r0 s) :
    Stays π r0 (gioReset s) := by
  unfold gioReset
  try dsimp only
  with_reducible repeat' first
    | assumption | intro _ | apply onGio_stays (hπ.sub (by decide))

theorem execGpioEdge_stays (hπ : AllFree π 1125899907366920) (n : Fin 32) (rise : Bool) (hF : Stays π r0 s) :
    ∃ s1, execGpioEdge n rise s = .next s1 ∧ Stays π r0 s1 := by
  refine ⟨_, rfl, ?_⟩
  try dsimp only
  with_reducible repeat' first
    | assumption | apply Stays.ite | apply setPin_stays (hπ.sub (by decide)) | apply drivePins_stays (hπ.sub (by decide))
    | apply uartStart_stays (hπ.sub (by decide)) | split

theorem execGpioSet_stays (hπ : AllFree π 1196268651544585) (m : Master) (v : Word) (hF : Stays π r0 s) :
    ∃ s1, execGpioSet m v s = .next s1 ∧ Stays π r0 s1 := by
  refine ⟨_, rfl, ?_⟩
  try dsimp only
  with_reducible repeat' first
    | assumption | intro _ | apply byBus_stays (hπ.sub (by decide)) | apply writeGpio_stays (hπ.sub (by decide))

theorem execGpioClr_stays (hπ : AllFree π 1196268651544585) (m : Master) (v : Word) (hF : Stays π r0 s) :
    ∃ s1, execGpioClr m v s = .next s1 ∧ Stays π r0 s1 := by
  refine ⟨_, rfl, ?_⟩
  try dsimp only
  with_reducible repeat' first
    | assumption | intro _ | apply byBus_stays (hπ.sub (by decide)) | apply writeGpio_stays (hπ.sub (by decide))

theorem execI2cStart_stays (hπ : AllFree π 1196268651544585) (m : Master) (k : Fin 4) (hF : Stays π r0 s) :
    ∃ s1, execI2cStart m k s = .next s1 ∧ Stays π r0 s1 := by
  refine ⟨_, rfl, ?_⟩
  try dsimp only
  with_reducible repeat' first
    | assumption | intro _ | apply byBus_stays (hπ.sub (by decide)) | apply writeI2cCmd_stays (hπ.sub (by decide))

theorem execI2cStop_stays (hπ : AllFree π 1196268651544585) (m : Master) (k : Fin 4) (hF : Stays π r0 s) :
    ∃ s1, execI2cStop m k s = .next s1 ∧ Stays π r0 s1 := by
  refine ⟨_, rfl, ?_⟩
  try dsimp only
  with_reducible repeat' first
    | assumption | intro _ | apply byBus_stays (hπ.sub (by decide)) | apply writeI2cCmd_stays (hπ.sub (by decide))

theorem execI2cWrite_stays (hπ : AllFree π 1196268651544585) (m : Master) (k : Fin 4) (hF : Stays π r0 s) :
    ∃ s1, execI2cWrite m k s = .next s1 ∧ Stays π r0 s1 := by
  refine ⟨_, rfl, ?_⟩
  try dsimp only
  with_reducible repeat' first
    | assumption | intro _ | apply byBus_stays (hπ.sub (by decide)) | apply writeI2cCmd_stays (hπ.sub (by decide))

theorem execI2cRead_stays (hπ : AllFree π 1196268651544585) (m : Master) (k : Fin 4) (ack : Bool) (hF : Stays π r0 s) :
    ∃ s1, execI2cRead m k ack s = .next s1 ∧ Stays π r0 s1 := by
  refine ⟨_, rfl, ?_⟩
  try dsimp only
  with_reducible repeat' first
    | assumption | intro _ | apply Stays.ite | apply byBus_stays (hπ.sub (by decide))
    | apply writeI2cCmd_stays (hπ.sub (by decide))

theorem execI2cDone_stays (hπ : AllFree π 1125899907366923) (k : Fin 4) (nack arb : Bool) (byte : Byte) (hF : Stays π r0 s) :
    ∃ s1, execI2cDone k nack arb byte s = .next s1 ∧ Stays π r0 s1 := by
  refine ⟨_, rfl, ?_⟩
  try dsimp only
  with_reducible repeat' first
    | assumption | apply Stays.ite | apply upto_stays (hπ.sub (by decide)) | apply draw_stays (hπ.sub (by decide))
    | apply wr_stays (hπ.sub (by decide)) | apply i2cEnds_stays (hπ.sub (by decide)) | refine Stays.of_snd (by assumption) ?_
    | split | dsimp only

theorem execI2cTimeout_stays (hπ : AllFree π 1125899907366921) (k : Fin 4) (hF : Stays π r0 s) :
    ∃ s1, execI2cTimeout k s = .next s1 ∧ Stays π r0 s1 := by
  refine ⟨_, rfl, ?_⟩
  try dsimp only
  with_reducible repeat' first
    | assumption | apply Stays.ite | apply i2cEnds_stays (hπ.sub (by decide)) | apply upto_stays (hπ.sub (by decide))
    | split

theorem execSpiTxdata_stays (hπ : AllFree π 1196268651544585) (m : Master) (k : Fin 2) (v : Byte) (hF : Stays π r0 s) :
    ∃ s1, execSpiTxdata m k v s = .next s1 ∧ Stays π r0 s1 := by
  refine ⟨_, rfl, ?_⟩
  try dsimp only
  with_reducible repeat' first
    | assumption | intro _ | apply byBus_stays (hπ.sub (by decide)) | apply writeSpi_stays (hπ.sub (by decide))

theorem execSpiRxdata_stays (hπ : AllFree π 1196268651544616) (m : Master) (k : Fin 2) (hF : Stays π r0 s) :
    ∃ s1, execSpiRxdata m k s = .next s1 ∧ Stays π r0 s1 := by
  refine ⟨_, rfl, ?_⟩
  try dsimp only
  with_reducible repeat' first
    | assumption | intro _ | apply readAt_stays (hπ.sub (by decide)) | apply readSpiRx_stays (hπ.sub (by decide))

theorem execSpiByteDone_stays (hπ : AllFree π 1125899907366923) (k : Fin 2) (wire : Byte) (hF : Stays π r0 s) :
    ∃ s1, execSpiByteDone k wire s = .next s1 ∧ Stays π r0 s1 := by
  refine ⟨_, rfl, ?_⟩
  try dsimp only
  with_reducible repeat' first
    | assumption | apply Stays.ite | apply upto_stays (hπ.sub (by decide)) | apply draw_stays (hπ.sub (by decide))
    | apply setSpi_stays (hπ.sub (by decide)) | apply raise_stays (hπ.sub (by decide))
    | apply wrb_stays (hπ.sub (by decide)) | apply drivePins_stays (hπ.sub (by decide))
    | apply spiStart_stays (hπ.sub (by decide)) | refine Stays.of_snd (by assumption) ?_
    | split | dsimp only

theorem execUartTx_stays (hπ : AllFree π 1196268651544585) (m : Master) (k : Fin 2) (v : Byte) (hF : Stays π r0 s) :
    ∃ s1, execUartTx m k v s = .next s1 ∧ Stays π r0 s1 := by
  refine ⟨_, rfl, ?_⟩
  try dsimp only
  with_reducible repeat' first
    | assumption | intro _ | apply byBus_stays (hπ.sub (by decide)) | apply writeUart_stays (hπ.sub (by decide))

theorem execUartRx_stays (hπ : AllFree π 1196268651544616) (m : Master) (k : Fin 2) (hF : Stays π r0 s) :
    ∃ s1, execUartRx m k s = .next s1 ∧ Stays π r0 s1 := by
  refine ⟨_, rfl, ?_⟩
  try dsimp only
  with_reducible repeat' first
    | assumption | intro _ | apply readAt_stays (hπ.sub (by decide)) | apply readUartRx_stays (hπ.sub (by decide))

theorem execUartRxByte_stays (hπ : AllFree π 1125899907366920) (k : Fin 2) (v : Byte) (perr ferr : Bool) (hF : Stays π r0 s) :
    ∃ s1, execUartRxByte k v perr ferr s = .next s1 ∧ Stays π r0 s1 := by
  refine ⟨_, rfl, ?_⟩
  try dsimp only
  with_reducible repeat' first
    | assumption | apply Stays.ite | apply raise_stays (hπ.sub (by decide)) | apply wrb_stays (hπ.sub (by decide))
    | apply drivePins_stays (hπ.sub (by decide)) | apply setUart_stays (hπ.sub (by decide))
    | split

theorem execUartTxByteDone_stays (hπ : AllFree π 1125899907366921) (k : Fin 2) (hF : Stays π r0 s) :
    ∃ s1, execUartTxByteDone k s = .next s1 ∧ Stays π r0 s1 := by
  refine ⟨_, rfl, ?_⟩
  try dsimp only
  with_reducible repeat' first
    | assumption | apply Stays.ite | apply upto_stays (hπ.sub (by decide)) | apply setUart_stays (hπ.sub (by decide))
    | apply drivePins_stays (hπ.sub (by decide)) | apply raise_stays (hπ.sub (by decide))
    | apply uartStart_stays (hπ.sub (by decide)) | split

theorem execEthTxTail_stays (hπ : AllFree π 1196268651544585) (m : Master) (e : Fin 2) (v : Word) (hF : Stays π r0 s) :
    ∃ s1, execEthTxTail m e v s = .next s1 ∧ Stays π r0 s1 := by
  refine ⟨_, rfl, ?_⟩
  try dsimp only
  with_reducible repeat' first
    | assumption | intro _ | apply byBus_stays (hπ.sub (by decide)) | apply writeEth_stays (hπ.sub (by decide))

theorem execEthRxTail_stays (hπ : AllFree π 1196268651544585) (m : Master) (e : Fin 2) (v : Word) (hF : Stays π r0 s) :
    ∃ s1, execEthRxTail m e v s = .next s1 ∧ Stays π r0 s1 := by
  refine ⟨_, rfl, ?_⟩
  try dsimp only
  with_reducible repeat' first
    | assumption | intro _ | apply byBus_stays (hπ.sub (by decide)) | apply writeEth_stays (hπ.sub (by decide))

theorem execTxDone_stays (hπ : AllFree π 1196268651544651) (e : Fin 2) (err : Bool) (sfd : Nat) (hF : Stays π r0 s) :
    ∃ s1, execTxDone e err sfd s = .next s1 ∧ Stays π r0 s1 := by
  refine ⟨_, rfl, ?_⟩
  try dsimp only
  with_reducible repeat' first
    | assumption | intro _ | apply Stays.ite | apply sramCheck_stays (hπ.sub (by decide))
    | apply upto_stays (hπ.sub (by decide)) | apply frameStamp_stays (hπ.sub (by decide))
    | apply descDone_stays (hπ.sub (by decide)) | apply onGio_stays (hπ.sub (by decide))
    | apply raise_stays (hπ.sub (by decide)) | apply countFrame_stays (hπ.sub (by decide))
    | refine Stays.of_snd (by assumption) ?_ | split | dsimp only

theorem execRxDone_stays (hπ : AllFree π 1196268651544650) (e : Fin 2) (frame : List Byte) (err : Bool) (sfd : Nat) (hF : Stays π r0 s) :
    ∃ s1, execRxDone e frame err sfd s = .next s1 ∧ Stays π r0 s1 := by
  refine ⟨_, rfl, ?_⟩
  try dsimp only
  with_reducible repeat' first
    | assumption | intro _ | apply Stays.ite | apply onGio_stays (hπ.sub (by decide))
    | apply raise_stays (hπ.sub (by decide)) | apply wrb_stays (hπ.sub (by decide)) | apply countFrame_stays (hπ.sub (by decide))
    | apply sramWrite_stays (hπ.sub (by decide)) | apply frameStamp_stays (hπ.sub (by decide))
    | apply descDone_stays (hπ.sub (by decide)) | refine Stays.of_snd (by assumption) ?_
    | split | dsimp only

theorem execMdioGo_stays (hπ : AllFree π 1196268651544585) (m : Master) (e : Fin 2) (v : BitVec 11) (hF : Stays π r0 s) :
    ∃ s1, execMdioGo m e v s = .next s1 ∧ Stays π r0 s1 := by
  refine ⟨_, rfl, ?_⟩
  try dsimp only
  with_reducible repeat' first
    | assumption | intro _ | apply byBus_stays (hπ.sub (by decide)) | apply writeEth_stays (hπ.sub (by decide))

theorem execMdioDone_stays (hπ : AllFree π 524297) (e : Fin 2) (v : BitVec 16) (hF : Stays π r0 s) :
    ∃ s1, execMdioDone e v s = .next s1 ∧ Stays π r0 s1 := by
  refine ⟨_, rfl, ?_⟩
  try dsimp only
  with_reducible repeat' first
    | assumption | apply Stays.ite | apply upto_stays (hπ.sub (by decide)) | apply wr_stays (hπ.sub (by decide))
    | apply raise_stays (hπ.sub (by decide)) | apply wrb_stays (hπ.sub (by decide)) | split

end Sys2Proof.Machine
end

