-- ==== Sys2Proof/Laws/StayGroups.lean ====
section
/-! SUPPORT. What the operations of Machine/Groups.lean leave alone (Laws/Stays.lean). -/

set_option linter.unusedTactic false
set_option linter.unreachableTactic false
set_option linter.unusedVariables false

namespace Sys2Proof.Machine

variable {α : Type} {π : State → α} {r0 s : State}

theorem setDom_stays (hπ : AllFree π 2097152) (d : Nat) (x : Dom) (hF : Stays π r0 s) :
    Stays π r0 (setDom d x s) := by
  unfold setDom
  try dsimp only
  with_reducible repeat' first
    | assumption | simp only [Stays.mk_doms (hπ.sub (by decide))]

theorem setGrp_stays (hπ : AllFree π 4194304) (k : Nat) (x : Grp) (hF : Stays π r0 s) :
    Stays π r0 (setGrp k x s) := by
  unfold setGrp
  try dsimp only
  with_reducible repeat' first
    | assumption | simp only [Stays.mk_grps (hπ.sub (by decide))]

theorem commitRegs_stays (hπ : AllFree π 16) (t : PageType) (n g : Nat) (hF : Stays π r0 s) :
    Stays π r0 (commitRegs t n g s) := by
  unfold commitRegs
  try dsimp only
  with_reducible repeat' first
    | assumption | intro _ | apply forEach_stays | apply setForce_stays (hπ.sub (by decide))

theorem raiseCommit_stays (hπ : AllFree π 524296) (t : PageType) (n g : Nat) (hF : Stays π r0 s) :
    Stays π r0 (raiseCommit t n g s) := by
  unfold raiseCommit
  try dsimp only
  with_reducible repeat' first
    | assumption | apply raise_stays (hπ.sub (by decide)) | split

theorem setLate_stays (hπ : AllFree π 524296) (t : PageType) (n g : Nat) (hF : Stays π r0 s) :
    Stays π r0 (setLate t n g s) := by
  unfold setLate
  try dsimp only
  with_reducible repeat' first
    | assumption | apply raiseCommit_stays (hπ.sub (by decide)) | apply wrb_stays (hπ.sub (by decide))

theorem openGroup_stays (hπ : AllFree π 4718600) (t : PageType) (n g : Nat) (hF : Stays π r0 s) :
    Stays π r0 (openGroup t n g s) := by
  unfold openGroup
  try dsimp only
  with_reducible repeat' first
    | assumption | apply Stays.ite | apply wrb_stays (hπ.sub (by decide)) | apply setLate_stays (hπ.sub (by decide))
    | apply setGrp_stays (hπ.sub (by decide))

theorem armGroup_stays (hπ : AllFree π 4718600) (t : PageType) (n g : Nat) (hF : Stays π r0 s) :
    Stays π r0 (armGroup t n g s) := by
  unfold armGroup
  try dsimp only
  with_reducible repeat' first
    | assumption | apply Stays.ite | apply setGrp_stays (hπ.sub (by decide)) | apply setLate_stays (hπ.sub (by decide))
    | split

theorem passUndone_stays (hπ : AllFree π 2147483648) (t : PageType) (n g : Nat) (hF : Stays π r0 s) :
    Stays π r0 (passUndone t n g s) := by
  unfold passUndone
  try dsimp only
  with_reducible repeat' first
    | assumption | apply Stays.ite | simp only [Stays.mk_pair (hπ.sub (by decide))]

theorem discardGroup_stays (hπ : AllFree π 2151677960) (t : PageType) (n g : Nat) (hF : Stays π r0 s) :
    Stays π r0 (discardGroup t n g s) := by
  unfold discardGroup
  try dsimp only
  with_reducible repeat' first
    | assumption | intro _ | apply Stays.ite | apply passUndone_stays (hπ.sub (by decide))
    | apply forEach_stays | apply wr_stays (hπ.sub (by decide)) | apply setGrp_stays (hπ.sub (by decide))
    | apply wrb_stays (hπ.sub (by decide))

theorem closeGroup_stays (hπ : AllFree π 4194312) (t : PageType) (n g : Nat) (hF : Stays π r0 s) :
    Stays π r0 (closeGroup t n g s) := by
  unfold closeGroup
  try dsimp only
  with_reducible repeat' first
    | assumption | apply Stays.ite | apply wrb_stays (hπ.sub (by decide)) | apply setGrp_stays (hπ.sub (by decide))

theorem refuseGroup_stays (hπ : AllFree π 2151677960) (t : PageType) (n g : Nat) (hF : Stays π r0 s) :
    Stays π r0 (refuseGroup t n g s) := by
  unfold refuseGroup
  try dsimp only
  with_reducible repeat' first
    | assumption | apply passUndone_stays (hπ.sub (by decide)) | apply wrb_stays (hπ.sub (by decide))
    | apply setGrp_stays (hπ.sub (by decide))

end Sys2Proof.Machine
end

