-- ==== Sys2Proof/Laws/StayLevels.lean ====
section
/-! SUPPORT. What the operations of Machine/Levels.lean leave alone (Laws/Stays.lean). -/

set_option linter.unusedTactic false
set_option linter.unreachableTactic false
set_option linter.unusedVariables false

namespace Sys2Proof.Machine

variable {α : Type} {π : State → α} {r0 s : State}

theorem setLeg_stays (hπ : AllFree π 8388608) (l : Nat) (x : Leg) (hF : Stays π r0 s) :
    Stays π r0 (setLeg l x s) := by
  unfold setLeg
  try dsimp only
  with_reducible repeat' first
    | assumption | simp only [Stays.mk_legs (hπ.sub (by decide))]

theorem onLeg_stays (hπ : AllFree π 8388608) (l : Nat) (f : Leg → Leg) (hF : Stays π r0 s) :
    Stays π r0 (onLeg l f s) := by
  unfold onLeg
  try dsimp only
  with_reducible repeat' first
    | assumption | apply setLeg_stays (hπ.sub (by decide))

theorem setPhase_stays (hπ : AllFree π 268435456) (p : Nat) (x : Phase) (hF : Stays π r0 s) :
    Stays π r0 (setPhase p x s) := by
  unfold setPhase
  try dsimp only
  with_reducible repeat' first
    | assumption | simp only [Stays.mk_phases (hπ.sub (by decide))]

theorem noteRise_stays (hπ : AllFree π 276824064) (l at' : Nat) (was : Bool × Bool) (hF : Stays π r0 s) :
    Stays π r0 (noteRise l at' was s) := by
  unfold noteRise
  try dsimp only
  with_reducible repeat' first
    | assumption | intro _ | apply Stays.ite | apply setPhase_stays (hπ.sub (by decide))
    | apply onLeg_stays (hπ.sub (by decide))

theorem clampFollow_stays (hπ : AllFree π 8388608) (us : State) (l : Nat) (hF : Stays π r0 s) :
    Stays π r0 (clampFollow us l s) := by
  unfold clampFollow
  try dsimp only
  with_reducible repeat' first
    | assumption | intro _ | apply Stays.ite | apply onLeg_stays (hπ.sub (by decide))

theorem settle_stays (hπ : AllFree π 276824064) (us : State) (hF : Stays π r0 s) :
    Stays π r0 (settle us s) := by
  unfold settle
  try dsimp only
  with_reducible repeat' first
    | assumption | intro _ | apply Stays.ite | apply forEach_stays | apply onLeg_stays (hπ.sub (by decide))
    | apply noteRise_stays (hπ.sub (by decide)) | apply clampFollow_stays (hπ.sub (by decide))

end Sys2Proof.Machine
end

