-- ==== Sys2Proof/Laws/StayLegs.lean ====
section
/-! SUPPORT. What the operations of Machine/Legs.lean leave alone (Laws/Stays.lean). -/

set_option linter.unusedTactic false
set_option linter.unreachableTactic false
set_option linter.unusedVariables false

namespace Sys2Proof.Machine

variable {α : Type} {π : State → α} {r0 s : State}

theorem inheritPer_stays (hπ : AllFree π 24) (d : Nat) (hF : Stays π r0 s) :
    Stays π r0 (inheritPer d s) := by
  unfold inheritPer
  try dsimp only
  with_reducible repeat' first
    | assumption | apply setForce_stays (hπ.sub (by decide)) | apply wr_stays (hπ.sub (by decide))
    | split

theorem commitLeg_stays (hπ : AllFree π 13107224) (l pNew pOld ended : Nat) (hF : Stays π r0 s) :
    Stays π r0 (commitLeg l pNew pOld ended s) := by
  unfold commitLeg
  try dsimp only
  with_reducible repeat' first
    | assumption | intro _ | apply Stays.ite | apply commitRegs_stays (hπ.sub (by decide))
    | apply onLeg_stays (hπ.sub (by decide)) | apply wrb_stays (hπ.sub (by decide)) | apply closeGroup_stays (hπ.sub (by decide))
    | apply raiseCommit_stays (hπ.sub (by decide)) | split

theorem raiseDomain_stays (hπ : AllFree π 524296) (d : Nat) (hF : Stays π r0 s) :
    Stays π r0 (raiseDomain d s) := by
  unfold raiseDomain
  try dsimp only
  with_reducible repeat' first
    | assumption | apply raise_stays (hπ.sub (by decide)) | split

theorem setLock_stays (hπ : AllFree π 8) (d st : Nat) (hF : Stays π r0 s) :
    Stays π r0 (setLock d st s) := by
  unfold setLock
  try dsimp only
  with_reducible repeat' first
    | assumption | apply wrf_stays (hπ.sub (by decide))

theorem enterLocked_stays (hπ : AllFree π 524296) (d : Nat) (hF : Stays π r0 s) :
    Stays π r0 (enterLocked d s) := by
  unfold enterLocked
  try dsimp only
  with_reducible repeat' first
    | assumption | apply raiseDomain_stays (hπ.sub (by decide)) | apply wrb_stays (hπ.sub (by decide))
    | apply setLock_stays (hπ.sub (by decide))

theorem dropErr_stays (hπ : AllFree π 2097152) (d : Nat) (hF : Stays π r0 s) :
    Stays π r0 (dropErr d s) := by
  unfold dropErr
  try dsimp only
  with_reducible repeat' first
    | assumption | apply setDom_stays (hπ.sub (by decide))

theorem breakLock_stays (hπ : AllFree π 2621448) (d : Nat) (hF : Stays π r0 s) :
    Stays π r0 (breakLock d s) := by
  unfold breakLock
  try dsimp only
  with_reducible repeat' first
    | assumption | apply raiseDomain_stays (hπ.sub (by decide)) | apply dropErr_stays (hπ.sub (by decide))
    | apply wrb_stays (hπ.sub (by decide)) | apply setLock_stays (hπ.sub (by decide))

theorem refuseLock_stays (hπ : AllFree π 524296) (d : Nat) (hF : Stays π r0 s) :
    Stays π r0 (refuseLock d s) := by
  unfold refuseLock
  try dsimp only
  with_reducible repeat' first
    | assumption | apply raiseDomain_stays (hπ.sub (by decide)) | apply wrb_stays (hπ.sub (by decide))
    | apply setLock_stays (hπ.sub (by decide))

theorem checkLock_stays (hπ : AllFree π 2621448) (d : Nat) (hF : Stays π r0 s) :
    Stays π r0 (checkLock d s) := by
  unfold checkLock
  try dsimp only
  with_reducible repeat' first
    | assumption | apply Stays.ite | apply breakLock_stays (hπ.sub (by decide)) | split

theorem commitLock_stays (hπ : AllFree π 2621448) (d : Nat) (hF : Stays π r0 s) :
    Stays π r0 (commitLock d s) := by
  unfold commitLock
  try dsimp only
  with_reducible repeat' first
    | assumption | apply Stays.ite | apply checkLock_stays (hπ.sub (by decide)) | apply setDom_stays (hπ.sub (by decide))
    | apply setLock_stays (hπ.sub (by decide)) | split

theorem refuseOverlap_stays (hπ : AllFree π 8912904) (l at' : Nat) (hF : Stays π r0 s) :
    Stays π r0 (refuseOverlap l at' s) := by
  unfold refuseOverlap
  try dsimp only
  with_reducible repeat' first
    | assumption | intro _ | apply onLeg_stays (hπ.sub (by decide)) | apply incHeld_stays (hπ.sub (by decide))
    | apply raise_stays (hπ.sub (by decide)) | apply wrb_stays (hπ.sub (by decide))

theorem joinLegs_stays (hπ : AllFree π 8388632) (d : Nat) (hF : Stays π r0 s) :
    Stays π r0 (joinLegs d s) := by
  unfold joinLegs
  try dsimp only
  with_reducible repeat' first
    | assumption | intro _ | apply Stays.ite | apply forEach_stays | apply onLeg_stays (hπ.sub (by decide))
    | apply inheritPer_stays (hπ.sub (by decide))

theorem commitLegs_stays (hπ : AllFree π 2160590872) (d tk pNew : Nat) (hF : Stays π r0 s) :
    Stays π r0 (commitLegs d tk pNew s) := by
  unfold commitLegs
  try dsimp only
  with_reducible repeat' first
    | assumption | intro _ | apply Stays.ite | apply forEach_stays | apply commitLeg_stays (hπ.sub (by decide))
    | apply raiseCommit_stays (hπ.sub (by decide)) | apply refuseGroup_stays (hπ.sub (by decide))

theorem withdrawDarm_stays (hπ : AllFree π 2152202248) (k : Nat) (hF : Stays π r0 s) :
    Stays π r0 (withdrawDarm k s) := by
  unfold withdrawDarm
  try dsimp only
  with_reducible repeat' first
    | assumption | apply raiseCommit_stays (hπ.sub (by decide)) | apply wrb_stays (hπ.sub (by decide))
    | apply passUndone_stays (hπ.sub (by decide)) | apply setGrp_stays (hπ.sub (by decide))

theorem withdrawDue_stays (hπ : AllFree π 2152202248) (d tk : Nat) (hF : Stays π r0 s) :
    Stays π r0 (withdrawDue d tk s) := by
  unfold withdrawDue
  try dsimp only
  with_reducible repeat' first
    | assumption | intro _ | apply Stays.ite | apply forEach_stays | apply withdrawDarm_stays (hπ.sub (by decide))

theorem darmsDue_stays (hπ : AllFree π 2152202248) (d : Nat) (hF : Stays π r0 s) :
    Stays π r0 (darmsDue d s) := by
  unfold darmsDue
  try dsimp only
  with_reducible repeat' first
    | assumption | intro _ | apply Stays.ite | apply withdrawDue_stays (hπ.sub (by decide))
    | simp only [Stays.mk_grps (hπ.sub (by decide))]

theorem takeEdge_stays (hπ : AllFree π 277348361) (l : Nat) (outB : Bool) (t : Nat) (rise : Bool) (hF : Stays π r0 s) :
    Stays π r0 (takeEdge l outB t rise s) := by
  unfold takeEdge
  try dsimp only
  with_reducible repeat' first
    | assumption | intro _ | apply Stays.ite | apply upto_stays (hπ.sub (by decide))
    | apply onLeg_stays (hπ.sub (by decide)) | apply refuseOverlap_stays (hπ.sub (by decide))
    | apply noteRise_stays (hπ.sub (by decide))

theorem doEdge_stays (hπ : AllFree π 277348361) (l : Nat) (outB : Bool) (hF : Stays π r0 s) :
    Stays π r0 (doEdge l outB s) := by
  unfold doEdge
  try dsimp only
  with_reducible repeat' first
    | assumption | apply Stays.ite | apply takeEdge_stays (hπ.sub (by decide)) | split

theorem catchUp_stays (hπ : AllFree π 277348361) (l stop : Nat) (k : Nat) (hF : Stays π r0 s) :
    Stays π r0 (catchUp l stop k  s) := by
  induction k generalizing s  with
  | zero => exact hF
  | succ k ih =>
  rw [catchUp]
  try dsimp only
  with_reducible repeat' first
    | assumption | intro _ | apply Stays.ite | apply ih | apply takeEdge_stays (hπ.sub (by decide))
    | split

theorem finishEdges_stays (hπ : AllFree π 277348361) (d stop : Nat) (hF : Stays π r0 s) :
    Stays π r0 (finishEdges d stop s) := by
  unfold finishEdges
  try dsimp only
  with_reducible repeat' first
    | assumption | intro _ | apply Stays.ite | apply forEach_stays | apply catchUp_stays (hπ.sub (by decide))

theorem endTrunc_stays (hπ : AllFree π 8388608) (l : Nat) (hF : Stays π r0 s) :
    Stays π r0 (endTrunc l s) := by
  unfold endTrunc
  try dsimp only
  with_reducible repeat' first
    | assumption | intro _ | apply Stays.ite | apply onLeg_stays (hπ.sub (by decide))

theorem legPeriod_stays (hπ : AllFree π 277348360) (l : Nat) (ubefore : State) (hF : Stays π r0 s) :
    Stays π r0 (legPeriod l ubefore s) := by
  unfold legPeriod
  try dsimp only
  with_reducible repeat' first
    | assumption | intro _ | apply Stays.ite | apply onLeg_stays (hπ.sub (by decide))
    | apply raise_stays (hπ.sub (by decide)) | apply refuseOverlap_stays (hπ.sub (by decide))
    | apply noteRise_stays (hπ.sub (by decide)) | apply clampFollow_stays (hπ.sub (by decide))

theorem legBoundary_stays (hπ : AllFree π 2431123481) (d : Nat) (hF : Stays π r0 s) :
    Stays π r0 (legBoundary d s) := by
  unfold legBoundary
  try dsimp only
  with_reducible repeat' first
    | assumption | intro _ | apply Stays.ite | apply finishEdges_stays (hπ.sub (by decide))
    | apply upto_stays (hπ.sub (by decide)) | apply joinLegs_stays (hπ.sub (by decide))
    | apply forEach_stays | apply onLeg_stays (hπ.sub (by decide)) | apply commitLegs_stays (hπ.sub (by decide))
    | apply setDom_stays (hπ.sub (by decide)) | apply commitLock_stays (hπ.sub (by decide))
    | apply enterLocked_stays (hπ.sub (by decide)) | apply incMod_stays (hπ.sub (by decide))
    | apply legPeriod_stays (hπ.sub (by decide)) | apply endTrunc_stays (hπ.sub (by decide))
    | split

theorem startDomain_stays (hπ : AllFree π 2097160) (d : Nat) (hF : Stays π r0 s) :
    Stays π r0 (startDomain d s) := by
  unfold startDomain
  try dsimp only
  with_reducible repeat' first
    | assumption | apply Stays.ite | apply setLock_stays (hπ.sub (by decide)) | apply setDom_stays (hπ.sub (by decide))

theorem loseBoundaries_stays (hπ : AllFree π 6291464) (d : Nat) (hF : Stays π r0 s) :
    Stays π r0 (loseBoundaries d s) := by
  unfold loseBoundaries
  try dsimp only
  with_reducible repeat' first
    | assumption | intro _ | apply Stays.ite | apply setDom_stays (hπ.sub (by decide))
    | apply setLock_stays (hπ.sub (by decide)) | simp only [Stays.mk_grps (hπ.sub (by decide))]
    | split

theorem writeLegCfg_stays (hπ : AllFree π 14680088) (l : Nat) (v : Word) (hF : Stays π r0 s) :
    Stays π r0 (writeLegCfg l v s) := by
  unfold writeLegCfg
  try dsimp only
  with_reducible repeat' first
    | assumption | intro _ | apply Stays.ite | apply wr_stays (hπ.sub (by decide))
    | apply onLeg_stays (hπ.sub (by decide)) | apply inheritPer_stays (hπ.sub (by decide))
    | apply loseBoundaries_stays (hπ.sub (by decide)) | apply startDomain_stays (hπ.sub (by decide))
    | split

theorem writeDomCtrl_stays (hπ : AllFree π 2621448) (d : Nat) (v : Word) (hF : Stays π r0 s) :
    Stays π r0 (writeDomCtrl d v s) := by
  unfold writeDomCtrl
  try dsimp only
  with_reducible repeat' first
    | assumption | intro _ | apply Stays.ite | apply wr_stays (hπ.sub (by decide))
    | apply setDom_stays (hπ.sub (by decide)) | apply wrb_stays (hπ.sub (by decide)) | apply setLock_stays (hπ.sub (by decide))
    | apply refuseLock_stays (hπ.sub (by decide))

theorem testWaiting_stays (hπ : AllFree π 524296)  (hF : Stays π r0 s) :
    Stays π r0 (testWaiting s) := by
  unfold testWaiting
  try dsimp only
  with_reducible repeat' first
    | assumption | intro _ | apply Stays.ite | apply forEach_stays | apply refuseLock_stays (hπ.sub (by decide))
    | apply setLock_stays (hπ.sub (by decide))

theorem lockFollowsDatum_stays (hπ : AllFree π 2621448)  (hF : Stays π r0 s) :
    Stays π r0 (lockFollowsDatum s) := by
  unfold lockFollowsDatum
  try dsimp only
  with_reducible repeat' first
    | assumption | intro _ | apply Stays.ite | apply testWaiting_stays (hπ.sub (by decide))
    | apply forEach_stays | apply setDom_stays (hπ.sub (by decide)) | apply wrb_stays (hπ.sub (by decide))
    | apply setLock_stays (hπ.sub (by decide)) | split

theorem alignDomains_stays (hπ : AllFree π 6815752)  (hF : Stays π r0 s) :
    Stays π r0 (alignDomains s) := by
  unfold alignDomains
  try dsimp only
  with_reducible repeat' first
    | assumption | intro _ | apply Stays.ite | apply forEach_stays | apply wr_stays (hπ.sub (by decide))
    | apply setDom_stays (hπ.sub (by decide)) | apply enterLocked_stays (hπ.sub (by decide))
    | simp only [Stays.mk_grps (hπ.sub (by decide))] | split

theorem darmGroup_stays (hπ : AllFree π 4718600) (n i : Nat) (hF : Stays π r0 s) :
    Stays π r0 (darmGroup n i s) := by
  unfold darmGroup
  try dsimp only
  with_reducible repeat' first
    | assumption | apply Stays.ite | apply setGrp_stays (hπ.sub (by decide)) | apply setLate_stays (hπ.sub (by decide))
    | apply raiseCommit_stays (hπ.sub (by decide)) | apply wrb_stays (hπ.sub (by decide))

theorem withdrawDarms_stays (hπ : AllFree π 2152202248)  (hF : Stays π r0 s) :
    Stays π r0 (withdrawDarms s) := by
  unfold withdrawDarms
  try dsimp only
  with_reducible repeat' first
    | assumption | intro _ | apply forEach_stays | apply withdrawDarm_stays (hπ.sub (by decide))

theorem calibrated_stays (hπ : AllFree π 8912904) (l taps : Nat) (hF : Stays π r0 s) :
    Stays π r0 (calibrated l taps s) := by
  unfold calibrated
  try dsimp only
  with_reducible repeat' first
    | assumption | apply Stays.ite | apply setLeg_stays (hπ.sub (by decide)) | apply raise_stays (hπ.sub (by decide))
    | apply wrb_stays (hπ.sub (by decide)) | split

theorem startPwm_stays (hπ : AllFree π 10485768)  (hF : Stays π r0 s) :
    Stays π r0 (startPwm s) := by
  unfold startPwm
  try dsimp only
  with_reducible repeat' first
    | assumption | apply startDomain_stays (hπ.sub (by decide)) | simp only [Stays.mk_doms_legs (hπ.sub (by decide))]

theorem execEdge_stays (hπ : AllFree π 277348361) (l : Fin 96) (outB : Bool) (hF : Stays π r0 s) :
    ∃ s1, execEdge l outB s = .next s1 ∧ Stays π r0 s1 := by
  refine ⟨_, rfl, ?_⟩
  try dsimp only
  with_reducible repeat' first
    | assumption | apply doEdge_stays (hπ.sub (by decide))

theorem execCalibrationDone_stays (hπ : AllFree π 8912904) (l : Fin 96) (taps : Nat) (hF : Stays π r0 s) :
    ∃ s1, execCalibrationDone l taps s = .next s1 ∧ Stays π r0 s1 := by
  refine ⟨_, rfl, ?_⟩
  try dsimp only
  with_reducible repeat' first
    | assumption | apply calibrated_stays (hπ.sub (by decide))

theorem execTwinChange_stays (hπ : AllFree π 8388608) (l : Fin 96) (hF : Stays π r0 s) :
    ∃ s1, execTwinChange l s = .next s1 ∧ Stays π r0 s1 := by
  refine ⟨_, rfl, ?_⟩
  try dsimp only
  with_reducible repeat' first
    | assumption | apply Stays.ite | apply setLeg_stays (hπ.sub (by decide))

theorem execCalibrationExpiry_stays (hπ : AllFree π 8388609) (l : Fin 96) (hF : Stays π r0 s) :
    ∃ s1, execCalibrationExpiry l s = .next s1 ∧ Stays π r0 s1 := by
  refine ⟨_, rfl, ?_⟩
  try dsimp only
  with_reducible repeat' first
    | assumption | apply Stays.ite | apply upto_stays (hπ.sub (by decide)) | apply setLeg_stays (hπ.sub (by decide))

theorem writeDarm_stays (hπ : AllFree π 4718600) (n : Nat) (v : Word) (hF : Stays π r0 s) :
    Stays π r0 (writeDarm n v s) := by
  unfold writeDarm
  try dsimp only
  with_reducible repeat' first
    | assumption | intro _ | apply wr_stays (hπ.sub (by decide)) | apply forEach_stays
    | apply darmGroup_stays (hπ.sub (by decide))

theorem execDarm_stays (hπ : AllFree π 70368748896265) (m : Master) (n : Fin 12) (v : BitVec 16) (hF : Stays π r0 s) :
    ∃ s1, execDarm m n v s = .next s1 ∧ Stays π r0 s1 := by
  refine ⟨_, rfl, ?_⟩
  try dsimp only
  with_reducible repeat' first
    | assumption | intro _ | apply byBus_stays (hπ.sub (by decide)) | apply writeDarm_stays (hπ.sub (by decide))

end Sys2Proof.Machine
end

