-- ==== Sys2Proof/Laws/StayStats.lean ====
section
/-! SUPPORT. What the operations of Machine/Stats.lean leave alone (Laws/Stays.lean). -/

set_option linter.unusedTactic false
set_option linter.unreachableTactic false
set_option linter.unusedVariables false

namespace Sys2Proof.Machine

variable {α : Type} {π : State → α} {r0 s : State}

theorem monTrigger_stays (hπ : AllFree π 17592186044416) (kind r k cause : Nat) (hF : Stays π r0 s) :
    Stays π r0 (monTrigger kind r k cause s) := by
  unfold monTrigger
  try dsimp only
  with_reducible repeat' first
    | assumption | apply Stays.ite | simp only [Stays.mk_monument (hπ.sub (by decide))]
    | split

end Sys2Proof.Machine
end

