-- ==== Sys2Proof/Laws/StayGuard.lean ====
section
/-! SUPPORT. What the operations of Machine/Guard.lean leave alone (Laws/Stays.lean). -/

set_option linter.unusedTactic false
set_option linter.unreachableTactic false
set_option linter.unusedVariables false

namespace Sys2Proof.Machine

variable {α : Type} {π : State → α} {r0 s : State}

theorem setSafe_stays (hπ : AllFree π 67108864) (k : Nat) (x : SafeSet) (hF : Stays π r0 s) :
    Stays π r0 (setSafe k x s) := by
  unfold setSafe
  try dsimp only
  with_reducible repeat' first
    | assumption | simp only [Stays.mk_sets (hπ.sub (by decide))]

theorem setTrip_stays (hπ : AllFree π 33554432) (i : Nat) (x : TripIn) (hF : Stays π r0 s) :
    Stays π r0 (setTrip i x s) := by
  unfold setTrip
  try dsimp only
  with_reducible repeat' first
    | assumption | simp only [Stays.mk_trips (hπ.sub (by decide))]

theorem setMon_stays (hπ : AllFree π 134217728) (i : Nat) (x : Mon) (hF : Stays π r0 s) :
    Stays π r0 (setMon i x s) := by
  unfold setMon
  try dsimp only
  with_reducible repeat' first
    | assumption | simp only [Stays.mk_mons (hπ.sub (by decide))]

theorem setDrv_stays (hπ : AllFree π 536870912) (g : Nat) (x : DrvGrp) (hF : Stays π r0 s) :
    Stays π r0 (setDrv g x s) := by
  unfold setDrv
  try dsimp only
  with_reducible repeat' first
    | assumption | simp only [Stays.mk_drvs (hπ.sub (by decide))]

theorem latchSet_stays (hπ : AllFree π 17592531025930) (k kind id : Nat) (hF : Stays π r0 s) :
    Stays π r0 (latchSet k kind id s) := by
  unfold latchSet
  try dsimp only
  with_reducible repeat' first
    | assumption | apply Stays.ite | apply setSafe_stays (hπ.sub (by decide)) | apply settle_stays (hπ.sub (by decide))
    | apply wrf_stays (hπ.sub (by decide)) | apply logHap_stays (hπ.sub (by decide)) | apply incHeld_stays (hπ.sub (by decide))
    | apply monTrigger_stays (hπ.sub (by decide)) | simp only [id_eq]

theorem raiseClrRefused_stays (hπ : AllFree π 524296) (r : Nat × Nat) (hF : Stays π r0 s) :
    Stays π r0 (raiseClrRefused r s) := by
  unfold raiseClrRefused
  try dsimp only
  with_reducible repeat' first
    | assumption | intro _ | apply Stays.ite | apply raiseTrip_stays (hπ.sub (by decide))
    | apply raise_stays (hπ.sub (by decide)) | apply forEach_stays | split

theorem clearSet_stays (hπ : AllFree π 345505802) (k : Nat) (hF : Stays π r0 s) :
    Stays π r0 (clearSet k s) := by
  unfold clearSet
  try dsimp only
  with_reducible repeat' first
    | assumption | intro _ | apply Stays.ite | apply settle_stays (hπ.sub (by decide))
    | apply setSafe_stays (hπ.sub (by decide)) | apply logHap_stays (hπ.sub (by decide))
    | apply forEach_stays | apply raiseClrRefused_stays (hπ.sub (by decide)) | apply wrb_stays (hπ.sub (by decide))

theorem writeSetCtl_stays (hπ : AllFree π 17592531550218) (k : Nat) (v : Word) (hF : Stays π r0 s) :
    Stays π r0 (writeSetCtl k v s) := by
  unfold writeSetCtl
  try dsimp only
  with_reducible repeat' first
    | assumption | apply Stays.ite | apply latchSet_stays (hπ.sub (by decide)) | apply clearSet_stays (hπ.sub (by decide))

theorem raiseAssert_stays (hπ : AllFree π 34078728) (i : Nat) (hF : Stays π r0 s) :
    Stays π r0 (raiseAssert i s) := by
  unfold raiseAssert
  try dsimp only
  with_reducible repeat' first
    | assumption | intro _ | apply Stays.ite | apply raiseTrip_stays (hπ.sub (by decide))
    | apply incHeld_stays (hπ.sub (by decide)) | apply setTrip_stays (hπ.sub (by decide))

theorem startReaction_stays (hπ : AllFree π 310378504) (i : Nat) (hF : Stays π r0 s) :
    Stays π r0 (startReaction i s) := by
  unfold startReaction
  try dsimp only
  with_reducible repeat' first
    | assumption | apply settle_stays (hπ.sub (by decide)) | apply setTrip_stays (hπ.sub (by decide))
    | apply wrb_stays (hπ.sub (by decide)) | split

theorem tripReact_stays (hπ : AllFree π 17592565104650) (i : Nat) (hF : Stays π r0 s) :
    Stays π r0 (tripReact i s) := by
  unfold tripReact
  try dsimp only
  with_reducible repeat' first
    | assumption | apply Stays.ite | apply startReaction_stays (hπ.sub (by decide))
    | apply raiseTrip_stays (hπ.sub (by decide)) | apply latchSet_stays (hπ.sub (by decide))
    | apply raiseAssert_stays (hπ.sub (by decide))

theorem writeTripCfg_stays (hπ : AllFree π 310378504) (i : Nat) (v : Word) (hF : Stays π r0 s) :
    Stays π r0 (writeTripCfg i v s) := by
  unfold writeTripCfg
  try dsimp only
  with_reducible repeat' first
    | assumption | apply Stays.ite | apply settle_stays (hπ.sub (by decide)) | apply plainWrite_stays (hπ.sub (by decide))
    | apply startReaction_stays (hπ.sub (by decide))

theorem clearHeld_stays (hπ : AllFree π 278396938) (i : Nat) (hF : Stays π r0 s) :
    Stays π r0 (clearHeld i s) := by
  unfold clearHeld
  try dsimp only
  with_reducible repeat' first
    | assumption | apply Stays.ite | apply logHap_stays (hπ.sub (by decide)) | apply raiseTrip_stays (hπ.sub (by decide))
    | apply settle_stays (hπ.sub (by decide)) | apply wrb_stays (hπ.sub (by decide))

theorem tripBoundary_stays (hπ : AllFree π 310902792) (d : Nat) (hF : Stays π r0 s) :
    Stays π r0 (tripBoundary d s) := by
  unfold tripBoundary
  try dsimp only
  with_reducible repeat' first
    | assumption | intro _ | apply Stays.ite | apply settle_stays (hπ.sub (by decide))
    | apply forEach_stays | apply setTrip_stays (hπ.sub (by decide)) | apply raiseTrip_stays (hπ.sub (by decide))
    | split

theorem monCross_stays (hπ : AllFree π 17592531550218) (i : Nat) (hF : Stays π r0 s) :
    Stays π r0 (monCross i s) := by
  unfold monCross
  try dsimp only
  with_reducible repeat' first
    | assumption | apply Stays.ite | apply wrb_stays (hπ.sub (by decide)) | apply raise_stays (hπ.sub (by decide))
    | apply incHeld_stays (hπ.sub (by decide)) | apply latchSet_stays (hπ.sub (by decide))

theorem truncate_stays (hπ : AllFree π 8388609) (i : Nat) (hF : Stays π r0 s) :
    Stays π r0 (truncate i s) := by
  unfold truncate
  try dsimp only
  with_reducible repeat' first
    | assumption | intro _ | apply Stays.ite | apply forEach_stays | apply upto_stays (hπ.sub (by decide))
    | apply onLeg_stays (hπ.sub (by decide))

theorem monUpdate_stays (hπ : AllFree π 17592531550219) (i : Nat) (hF : Stays π r0 s) :
    Stays π r0 (monUpdate i s) := by
  unfold monUpdate
  try dsimp only
  with_reducible repeat' first
    | assumption | apply Stays.ite | apply wrb_stays (hπ.sub (by decide)) | apply truncate_stays (hπ.sub (by decide))
    | apply monCross_stays (hπ.sub (by decide)) | split

theorem monDrop_stays (hπ : AllFree π 8) (i : Nat) (hF : Stays π r0 s) :
    Stays π r0 (monDrop i s) := by
  unfold monDrop
  try dsimp only
  with_reducible repeat' first
    | assumption | apply Stays.ite | apply wrb_stays (hπ.sub (by decide)) | split

theorem writeMonCfg_stays (hπ : AllFree π 17592665767947) (i : Nat) (v : Word) (hF : Stays π r0 s) :
    Stays π r0 (writeMonCfg i v s) := by
  unfold writeMonCfg
  try dsimp only
  with_reducible repeat' first
    | assumption | intro _ | apply Stays.ite | apply plainWrite_stays (hπ.sub (by decide))
    | apply wrb_stays (hπ.sub (by decide)) | apply monUpdate_stays (hπ.sub (by decide))
    | apply setMon_stays (hπ.sub (by decide)) | apply settle_stays (hπ.sub (by decide))
    | split

theorem clearLatched_stays (hπ : AllFree π 17592531550219) (i : Nat) (hF : Stays π r0 s) :
    Stays π r0 (clearLatched i s) := by
  unfold clearLatched
  try dsimp only
  with_reducible repeat' first
    | assumption | apply Stays.ite | apply monUpdate_stays (hπ.sub (by decide)) | apply wrb_stays (hπ.sub (by decide))

theorem commitMons_stays (hπ : AllFree π 2152202264) (d tk ended : Nat) (hF : Stays π r0 s) :
    Stays π r0 (commitMons d tk ended s) := by
  unfold commitMons
  try dsimp only
  with_reducible repeat' first
    | assumption | intro _ | apply Stays.ite | apply forEach_stays | apply raise_stays (hπ.sub (by decide))
    | apply refuseGroup_stays (hπ.sub (by decide)) | apply closeGroup_stays (hπ.sub (by decide))
    | apply commitRegs_stays (hπ.sub (by decide)) | apply wrb_stays (hπ.sub (by decide))

theorem monBoundary_stays (hπ : AllFree π 17592531550219) (d : Nat) (hF : Stays π r0 s) :
    Stays π r0 (monBoundary d s) := by
  unfold monBoundary
  try dsimp only
  with_reducible repeat' first
    | assumption | intro _ | apply forEach_stays | apply monUpdate_stays (hπ.sub (by decide))
    | apply wrb_stays (hπ.sub (by decide))

theorem raiseGroup_stays (hπ : AllFree π 524296) (g k : Nat) (hF : Stays π r0 s) :
    Stays π r0 (raiseGroup g k s) := by
  unfold raiseGroup
  try dsimp only
  with_reducible repeat' first
    | assumption | intro _ | apply Stays.ite | apply forEach_stays | apply raise_stays (hπ.sub (by decide))

theorem detect_stays (hπ : AllFree π 17593068421130) (p : Nat) (gross : Bool) (hF : Stays π r0 s) :
    Stays π r0 (detect p gross s) := by
  unfold detect
  try dsimp only
  with_reducible repeat' first
    | assumption | apply Stays.ite | apply wrb_stays (hπ.sub (by decide)) | apply raise_stays (hπ.sub (by decide))
    | apply incHeld_stays (hπ.sub (by decide)) | apply settle_stays (hπ.sub (by decide))
    | apply setDrv_stays (hπ.sub (by decide)) | apply latchSet_stays (hπ.sub (by decide))
    | apply logHap_stays (hπ.sub (by decide)) | split

theorem sensed_stays (hπ : AllFree π 17593068421130) (p : Nat) (us : State) (hF : Stays π r0 s) :
    Stays π r0 (sensed p us s) := by
  unfold sensed
  try dsimp only
  with_reducible repeat' first
    | assumption | apply Stays.ite | apply detect_stays (hπ.sub (by decide))

theorem writePhCfg_stays (hπ : AllFree π 17593068421130) (p : Nat) (v : Word) (hF : Stays π r0 s) :
    Stays π r0 (writePhCfg p v s) := by
  unfold writePhCfg
  try dsimp only
  with_reducible repeat' first
    | assumption | apply Stays.ite | apply settle_stays (hπ.sub (by decide)) | apply plainWrite_stays (hπ.sub (by decide))
    | apply sensed_stays (hπ.sub (by decide)) | split

theorem execSafeStateSet_stays (hπ : AllFree π 87961275727883) (m : Master) (k : Fin 16) (hF : Stays π r0 s) :
    ∃ s1, execSafeStateSet m k s = .next s1 ∧ Stays π r0 s1 := by
  refine ⟨_, rfl, ?_⟩
  try dsimp only
  with_reducible repeat' first
    | assumption | intro _ | apply byBus_stays (hπ.sub (by decide)) | apply writeSetCtl_stays (hπ.sub (by decide))

theorem execTripPinChange_stays (hπ : AllFree π 33554440) (i : Fin 48) (active : Bool) (hF : Stays π r0 s) :
    ∃ s1, execTripPinChange i active s = .next s1 ∧ Stays π r0 s1 := by
  refine ⟨_, rfl, ?_⟩
  try dsimp only
  with_reducible repeat' first
    | assumption | apply Stays.ite | apply setTrip_stays (hπ.sub (by decide)) | apply wrb_stays (hπ.sub (by decide))
    | apply incHeld_stays (hπ.sub (by decide))

theorem execTripAssert_stays (hπ : AllFree π 17592565104651) (i : Fin 48) (hF : Stays π r0 s) :
    ∃ s1, execTripAssert i s = .next s1 ∧ Stays π r0 s1 := by
  refine ⟨_, rfl, ?_⟩
  try dsimp only
  with_reducible repeat' first
    | assumption | apply Stays.ite | apply upto_stays (hπ.sub (by decide)) | apply setTrip_stays (hπ.sub (by decide))
    | apply wrb_stays (hπ.sub (by decide)) | apply tripReact_stays (hπ.sub (by decide))
    | split

theorem execTripRelease_stays (hπ : AllFree π 33554441) (i : Fin 48) (hF : Stays π r0 s) :
    ∃ s1, execTripRelease i s = .next s1 ∧ Stays π r0 s1 := by
  refine ⟨_, rfl, ?_⟩
  try dsimp only
  with_reducible repeat' first
    | assumption | apply Stays.ite | apply upto_stays (hπ.sub (by decide)) | apply setTrip_stays (hπ.sub (by decide))
    | apply wrb_stays (hπ.sub (by decide)) | split

theorem execBlankingEnd_stays (hπ : AllFree π 17592565104651) (monitor : Bool) (i : Fin 96) (hF : Stays π r0 s) :
    ∃ s1, execBlankingEnd monitor i s = .next s1 ∧ Stays π r0 s1 := by
  refine ⟨_, rfl, ?_⟩
  try dsimp only
  with_reducible repeat' first
    | assumption | intro _ | apply Stays.ite | apply upto_stays (hπ.sub (by decide))
    | apply monUpdate_stays (hπ.sub (by decide)) | apply monDrop_stays (hπ.sub (by decide))
    | apply tripReact_stays (hπ.sub (by decide)) | split

theorem execStuck_stays (hπ : AllFree π 35127307) (i : Fin 48) (hF : Stays π r0 s) :
    ∃ s1, execStuck i s = .next s1 ∧ Stays π r0 s1 := by
  refine ⟨_, rfl, ?_⟩
  try dsimp only
  with_reducible repeat' first
    | assumption | apply Stays.ite | apply upto_stays (hπ.sub (by decide)) | apply setTrip_stays (hπ.sub (by decide))
    | apply wrb_stays (hπ.sub (by decide)) | apply logHap_stays (hπ.sub (by decide)) | apply raiseTrip_stays (hπ.sub (by decide))
    | split

theorem execHeldClear_stays (hπ : AllFree π 70369022574603) (m : Master) (i : Fin 48) (hF : Stays π r0 s) :
    ∃ s1, execHeldClear m i s = .next s1 ∧ Stays π r0 s1 := by
  refine ⟨_, rfl, ?_⟩
  try dsimp only
  with_reducible repeat' first
    | assumption | intro _ | apply byBus_stays (hπ.sub (by decide)) | apply clearHeld_stays (hπ.sub (by decide))

theorem execTripActionWrite_stays (hπ : AllFree π 70369055473673) (m : Master) (i : Fin 48) (v : Word) (hF : Stays π r0 s) :
    ∃ s1, execTripActionWrite m i v s = .next s1 ∧ Stays π r0 s1 := by
  refine ⟨_, rfl, ?_⟩
  try dsimp only
  with_reducible repeat' first
    | assumption | intro _ | apply byBus_stays (hπ.sub (by decide)) | apply rwlPath_stays (hπ.sub (by decide))
    | apply writeTripCfg_stays (hπ.sub (by decide))

theorem execMonitorCrossing_stays (hπ : AllFree π 17592531550219) (i : Fin 96) (before after : Int) (hF : Stays π r0 s) :
    ∃ s1, execMonitorCrossing i before after s = .next s1 ∧ Stays π r0 s1 := by
  refine ⟨_, rfl, ?_⟩
  try dsimp only
  with_reducible repeat' first
    | assumption | apply Stays.ite | apply after_stays | apply wrb_stays (hπ.sub (by decide))
    | apply monUpdate_stays (hπ.sub (by decide)) | split

theorem execMonitorEnable_stays (hπ : AllFree π 87961409945611) (m : Master) (i : Fin 96) (v : Word) (hF : Stays π r0 s) :
    ∃ s1, execMonitorEnable m i v s = .next s1 ∧ Stays π r0 s1 := by
  refine ⟨_, rfl, ?_⟩
  try dsimp only
  with_reducible repeat' first
    | assumption | intro _ | apply byBus_stays (hπ.sub (by decide)) | apply writeMonCfg_stays (hπ.sub (by decide))

theorem execMonitorSettled_stays (hπ : AllFree π 17592665767947) (i : Fin 96) (hF : Stays π r0 s) :
    ∃ s1, execMonitorSettled i s = .next s1 ∧ Stays π r0 s1 := by
  refine ⟨_, rfl, ?_⟩
  try dsimp only
  with_reducible repeat' first
    | assumption | apply Stays.ite | apply settle_stays (hπ.sub (by decide)) | apply setMon_stays (hπ.sub (by decide))
    | apply upto_stays (hπ.sub (by decide)) | apply monUpdate_stays (hπ.sub (by decide))
    | apply raise_stays (hπ.sub (by decide)) | apply wrb_stays (hπ.sub (by decide)) | split

theorem execLatchedClear_stays (hπ : AllFree π 87961275727883) (m : Master) (i : Fin 96) (hF : Stays π r0 s) :
    ∃ s1, execLatchedClear m i s = .next s1 ∧ Stays π r0 s1 := by
  refine ⟨_, rfl, ?_⟩
  try dsimp only
  with_reducible repeat' first
    | assumption | intro _ | apply byBus_stays (hπ.sub (by decide)) | apply clearLatched_stays (hπ.sub (by decide))

theorem execPhaseEnableWrite_stays (hπ : AllFree π 87961812992011) (m : Master) (p : Fin 16) (v : Word) (hF : Stays π r0 s) :
    ∃ s1, execPhaseEnableWrite m p v s = .next s1 ∧ Stays π r0 s1 := by
  refine ⟨_, rfl, ?_⟩
  try dsimp only
  with_reducible repeat' first
    | assumption | intro _ | apply byBus_stays (hπ.sub (by decide)) | apply rwlPath_stays (hπ.sub (by decide))
    | apply writePhCfg_stays (hπ.sub (by decide))

theorem execVdrvUv_stays (hπ : AllFree π 814219272) (g : Fin 4) (hF : Stays π r0 s) :
    ∃ s1, execVdrvUv g s = .next s1 ∧ Stays π r0 s1 := by
  refine ⟨_, rfl, ?_⟩
  try dsimp only
  with_reducible repeat' first
    | assumption | apply Stays.ite | apply setDrv_stays (hπ.sub (by decide)) | apply raiseGroup_stays (hπ.sub (by decide))
    | apply settle_stays (hπ.sub (by decide))

theorem execVdrvOk_stays (hπ : AllFree π 813694976) (g : Fin 4) (hF : Stays π r0 s) :
    ∃ s1, execVdrvOk g s = .next s1 ∧ Stays π r0 s1 := by
  refine ⟨_, rfl, ?_⟩
  try dsimp only
  with_reducible repeat' first
    | assumption | apply Stays.ite | apply setDrv_stays (hπ.sub (by decide)) | apply settle_stays (hπ.sub (by decide))

theorem execBstUv_stays (hπ : AllFree π 268959752) (p : Fin 16) (hF : Stays π r0 s) :
    ∃ s1, execBstUv p s = .next s1 ∧ Stays π r0 s1 := by
  refine ⟨_, rfl, ?_⟩
  try dsimp only
  with_reducible repeat' first
    | assumption | apply Stays.ite | apply setPhase_stays (hπ.sub (by decide)) | apply raise_stays (hπ.sub (by decide))
    | apply incHeld_stays (hπ.sub (by decide))

theorem execBstOk_stays (hπ : AllFree π 268435456) (p : Fin 16) (hF : Stays π r0 s) :
    ∃ s1, execBstOk p s = .next s1 ∧ Stays π r0 s1 := by
  refine ⟨_, rfl, ?_⟩
  try dsimp only
  with_reducible repeat' first
    | assumption | apply setPhase_stays (hπ.sub (by decide))

theorem execDrvBlankingEnd_stays (hπ : AllFree π 17593068421131) (p : Fin 16) (hF : Stays π r0 s) :
    ∃ s1, execDrvBlankingEnd p s = .next s1 ∧ Stays π r0 s1 := by
  refine ⟨_, rfl, ?_⟩
  try dsimp only
  with_reducible repeat' first
    | assumption | apply Stays.ite | apply upto_stays (hπ.sub (by decide)) | apply setPhase_stays (hπ.sub (by decide))
    | apply detect_stays (hπ.sub (by decide)) | split

theorem execSenseDetection_stays (hπ : AllFree π 17593068421130) (p : Fin 16) (mv : Nat) (hF : Stays π r0 s) :
    ∃ s1, execSenseDetection p mv s = .next s1 ∧ Stays π r0 s1 := by
  refine ⟨_, rfl, ?_⟩
  try dsimp only
  with_reducible repeat' first
    | assumption | apply Stays.ite | apply setPhase_stays (hπ.sub (by decide)) | apply sensed_stays (hπ.sub (by decide))

theorem execRegEnLow_stays (hπ : AllFree π 813694976) (g : Fin 4) (hF : Stays π r0 s) :
    ∃ s1, execRegEnLow g s = .next s1 ∧ Stays π r0 s1 := by
  refine ⟨_, rfl, ?_⟩
  try dsimp only
  with_reducible repeat' first
    | assumption | apply settle_stays (hπ.sub (by decide)) | apply setDrv_stays (hπ.sub (by decide))

theorem execRegEnRise_stays (hπ : AllFree π 815267850) (g : Fin 4) (hF : Stays π r0 s) :
    ∃ s1, execRegEnRise g s = .next s1 ∧ Stays π r0 s1 := by
  refine ⟨_, rfl, ?_⟩
  try dsimp only
  with_reducible repeat' first
    | assumption | intro _ | apply Stays.ite | apply setDrv_stays (hπ.sub (by decide))
    | apply logHap_stays (hπ.sub (by decide)) | apply raiseGroup_stays (hπ.sub (by decide))
    | apply wrb_stays (hπ.sub (by decide)) | apply forEach_stays | apply wrf_stays (hπ.sub (by decide))
    | apply settle_stays (hπ.sub (by decide)) | split

end Sys2Proof.Machine
end

