-- ==== Sys2Proof/Laws/StayClocks.lean ====
section
/-! SUPPORT. What the operations of Machine/Clocks.lean leave alone (Laws/Stays.lean). -/

set_option linter.unusedTactic false
set_option linter.unreachableTactic false
set_option linter.unusedVariables false

namespace Sys2Proof.Machine

variable {α : Type} {π : State → α} {r0 s : State}

theorem onClk_stays (hπ : AllFree π 256) (f : Clk → Clk) (hF : Stays π r0 s) :
    Stays π r0 (onClk f s) := by
  unfold onClk
  try dsimp only
  with_reducible repeat' first
    | assumption | simp only [Stays.mk_clk (hπ.sub (by decide))]

theorem raiseClk_stays (hπ : AllFree π 524296) (k : Nat) (hF : Stays π r0 s) :
    Stays π r0 (raiseClk k s) := by
  unfold raiseClk
  try dsimp only
  with_reducible repeat' first
    | assumption | apply raise_stays (hπ.sub (by decide))

theorem loseLock_stays (hπ : AllFree π 278397194) (delib : Bool) (hF : Stays π r0 s) :
    Stays π r0 (loseLock delib s) := by
  unfold loseLock
  try dsimp only
  with_reducible repeat' first
    | assumption | intro _ | apply Stays.ite | apply settle_stays (hπ.sub (by decide))
    | apply onClk_stays (hπ.sub (by decide)) | apply incHeld_stays (hπ.sub (by decide))
    | apply logLoss_stays (hπ.sub (by decide)) | apply raiseClk_stays (hπ.sub (by decide))
    | simp only [Stays.mk_legs (hπ.sub (by decide))]

theorem startClocks_stays (hπ : AllFree π 256)  (hF : Stays π r0 s) :
    Stays π r0 (startClocks s) := by
  unfold startClocks
  try dsimp only
  with_reducible repeat' first
    | assumption | intro _ | apply Stays.ite | apply onClk_stays (hπ.sub (by decide))

theorem milestone_stays (hπ : AllFree π 128) (b : Nat) (hF : Stays π r0 s) :
    Stays π r0 (milestone b s) := by
  unfold milestone
  try dsimp only
  with_reducible repeat' first
    | assumption | simp only [Stays.mk_pwr (hπ.sub (by decide))]

theorem checkOutEn_stays (hπ : AllFree π 524424)  (hF : Stays π r0 s) :
    Stays π r0 (checkOutEn s) := by
  unfold checkOutEn
  try dsimp only
  with_reducible repeat' first
    | assumption | intro _ | apply Stays.ite | apply raise_stays (hπ.sub (by decide))
    | apply milestone_stays (hπ.sub (by decide))

theorem pllLock_stays (hπ : AllFree π 524680)  (hF : Stays π r0 s) :
    Stays π r0 (pllLock s) := by
  unfold pllLock
  try dsimp only
  with_reducible repeat' first
    | assumption | intro _ | apply onClk_stays (hπ.sub (by decide)) | apply raiseClk_stays (hπ.sub (by decide))
    | apply milestone_stays (hπ.sub (by decide)) | apply startClocks_stays (hπ.sub (by decide))

theorem applyOut_stays (hπ : AllFree π 264) (mark n : Nat) (hF : Stays π r0 s) :
    Stays π r0 (applyOut mark n s) := by
  unfold applyOut
  try dsimp only
  with_reducible repeat' first
    | assumption | intro _ | apply Stays.ite | apply restart_stays (hπ.sub (by decide))
    | apply onClk_stays (hπ.sub (by decide)) | apply wr_stays (hπ.sub (by decide)) | split

theorem updateMark_stays (hπ : AllFree π 524553)  (hF : Stays π r0 s) :
    Stays π r0 (updateMark s) := by
  unfold updateMark
  try dsimp only
  with_reducible repeat' first
    | assumption | intro _ | apply Stays.ite | apply upto_stays (hπ.sub (by decide))
    | apply onClk_stays (hπ.sub (by decide)) | apply raiseClk_stays (hπ.sub (by decide))
    | apply forEach_stays | apply applyOut_stays (hπ.sub (by decide))

theorem relock_stays (hπ : AllFree π 278397194)  (hF : Stays π r0 s) :
    Stays π r0 (relock s) := by
  unfold relock
  try dsimp only
  with_reducible repeat' first
    | assumption | intro _ | apply Stays.ite | apply onClk_stays (hπ.sub (by decide))
    | apply loseLock_stays (hπ.sub (by decide))

theorem requestUpdate_stays (hπ : AllFree π 256)  (hF : Stays π r0 s) :
    Stays π r0 (requestUpdate s) := by
  unfold requestUpdate
  try dsimp only
  with_reducible repeat' first
    | assumption | intro _ | apply Stays.ite | apply onClk_stays (hπ.sub (by decide))

theorem writeClk_stays (hπ : AllFree π 278790410) (m : Master) (off : Nat) (v : Word) (hF : Stays π r0 s) :
    Stays π r0 (writeClk m off v s) := by
  unfold writeClk
  try dsimp only
  with_reducible repeat' first
    | assumption | intro _ | apply Stays.ite | apply rwlPath_stays (hπ.sub (by decide))
    | apply plainWrite_stays (hπ.sub (by decide)) | apply relock_stays (hπ.sub (by decide))
    | apply requestUpdate_stays (hπ.sub (by decide)) | apply onClk_stays (hπ.sub (by decide))

theorem execReferenceQualified_stays (hπ : AllFree π 257)  (hF : Stays π r0 s) :
    ∃ s1, execReferenceQualified s = .next s1 ∧ Stays π r0 s1 := by
  refine ⟨_, rfl, ?_⟩
  try dsimp only
  with_reducible repeat' first
    | assumption | intro _ | apply Stays.ite | apply onClk_stays (hπ.sub (by decide))
    | apply upto_stays (hπ.sub (by decide)) | split

theorem execHoldRelease_stays (hπ : AllFree π 294125961)  (hF : Stays π r0 s) :
    ∃ s1, execHoldRelease s = .next s1 ∧ Stays π r0 s1 := by
  refine ⟨_, rfl, ?_⟩
  try dsimp only
  with_reducible repeat' first
    | assumption | intro _ | apply Stays.ite | apply upto_stays (hπ.sub (by decide))
    | apply onClk_stays (hπ.sub (by decide)) | apply checkOutEn_stays (hπ.sub (by decide))
    | apply raiseClk_stays (hπ.sub (by decide)) | apply settle_stays (hπ.sub (by decide))
    | simp only [Stays.mk_holds (hπ.sub (by decide))] | split

theorem execNoref_stays (hπ : AllFree π 257)  (hF : Stays π r0 s) :
    ∃ s1, execNoref s = .next s1 ∧ Stays π r0 s1 := by
  refine ⟨_, rfl, ?_⟩
  try dsimp only
  with_reducible repeat' first
    | assumption | intro _ | apply Stays.ite | apply upto_stays (hπ.sub (by decide))
    | apply startClocks_stays (hπ.sub (by decide)) | apply onClk_stays (hπ.sub (by decide))
    | split

theorem execUpdate_stays (hπ : AllFree π 70369022968075) (m : Master) (hF : Stays π r0 s) :
    ∃ s1, execUpdate m s = .next s1 ∧ Stays π r0 s1 := by
  refine ⟨_, rfl, ?_⟩
  try dsimp only
  with_reducible repeat' first
    | assumption | intro _ | apply byBus_stays (hπ.sub (by decide)) | apply writeClk_stays (hπ.sub (by decide))

theorem execUpdateMark_stays (hπ : AllFree π 524553)  (hF : Stays π r0 s) :
    ∃ s1, execUpdateMark s = .next s1 ∧ Stays π r0 s1 := by
  refine ⟨_, rfl, ?_⟩
  try dsimp only
  with_reducible repeat' first
    | assumption | apply Stays.ite | apply updateMark_stays (hπ.sub (by decide))

theorem execTickLoRead_stays (hπ : AllFree π 70368744701992) (m : Master) (hF : Stays π r0 s) :
    ∃ s1, execTickLoRead m s = .next s1 ∧ Stays π r0 s1 := by
  refine ⟨_, rfl, ?_⟩
  try dsimp only
  with_reducible repeat' first
    | assumption | intro _ | apply readAt_stays (hπ.sub (by decide)) | apply respond_stays (hπ.sub (by decide))
    | apply wr_stays (hπ.sub (by decide))

end Sys2Proof.Machine
end

