-- ==== Sys2Proof/Laws/StayPlumb.lean ====
section
/-! SUPPORT. What the operations of Machine/Plumb.lean leave alone (Laws/Stays.lean). -/

set_option linter.unusedTactic false
set_option linter.unreachableTactic false
set_option linter.unusedVariables false

namespace Sys2Proof.Machine

variable {α : Type} {π : State → α} {r0 s : State}

theorem onPlumb_stays (hπ : AllFree π 2048) (f : Plumb → Plumb) (hF : Stays π r0 s) :
    Stays π r0 (onPlumb f s) := by
  unfold onPlumb
  try dsimp only
  with_reducible repeat' first
    | assumption | simp only [Stays.mk_plumb (hπ.sub (by decide))]

theorem raisePl_stays (hπ : AllFree π 524296) (k : Nat) (hF : Stays π r0 s) :
    Stays π r0 (raisePl k s) := by
  unfold raisePl
  try dsimp only
  with_reducible repeat' first
    | assumption | apply raise_stays (hπ.sub (by decide))

theorem onSafeIn_stays (hπ : AllFree π 4096) (i : Nat) (f : SafeIn → SafeIn) (hF : Stays π r0 s) :
    Stays π r0 (onSafeIn i f s) := by
  unfold onSafeIn
  try dsimp only
  with_reducible repeat' first
    | assumption | simp only [Stays.mk_sins (hπ.sub (by decide))]

theorem onScanCh_stays (hπ : AllFree π 8192) (i : Nat) (f : ScanCh → ScanCh) (hF : Stays π r0 s) :
    Stays π r0 (onScanCh i f s) := by
  unfold onScanCh
  try dsimp only
  with_reducible repeat' first
    | assumption | simp only [Stays.mk_scans (hπ.sub (by decide))]

theorem onScanConv_stays (hπ : AllFree π 16384) (c : Nat) (f : ScanConv → ScanConv) (hF : Stays π r0 s) :
    Stays π r0 (onScanConv c f s) := by
  unfold onScanConv
  try dsimp only
  with_reducible repeat' first
    | assumption | simp only [Stays.mk_scanConvs (hπ.sub (by decide))]

theorem onSout_stays (hπ : AllFree π 32768) (n : Nat) (f : Sout → Sout) (hF : Stays π r0 s) :
    Stays π r0 (onSout n f s) := by
  unfold onSout
  try dsimp only
  with_reducible repeat' first
    | assumption | simp only [Stays.mk_souts (hπ.sub (by decide))]

theorem onConn_stays (hπ : AllFree π 65536) (c : Nat) (f : Conn → Conn) (hF : Stays π r0 s) :
    Stays π r0 (onConn c f s) := by
  unfold onConn
  try dsimp only
  with_reducible repeat' first
    | assumption | simp only [Stays.mk_conns (hπ.sub (by decide))]

theorem reviseHanded_stays (hπ : AllFree π 262144) (h : Handed) (takes : Bool) (hF : Stays π r0 s) :
    Stays π r0 (reviseHanded h takes s) := by
  unfold reviseHanded
  try dsimp only
  with_reducible repeat' first
    | assumption | apply Stays.ite | apply reviseEntry_stays (hπ.sub (by decide))
    | split

theorem dropHanded_stays (hπ : AllFree π 264192)  (hF : Stays π r0 s) :
    Stays π r0 (dropHanded s) := by
  unfold dropHanded
  try dsimp only
  with_reducible repeat' first
    | assumption | intro _ | apply onPlumb_stays (hπ.sub (by decide)) | apply forEach_stays
    | apply reviseHanded_stays (hπ.sub (by decide))

theorem inOrder_stays (hπ : AllFree π 2048) (m : Master) (off : Nat) (v : Word) (act : State → State) (hF_act : ∀ s, Stays π r0 s → Stays π r0 (act s)) (hF : Stays π r0 s) :
    Stays π r0 (inOrder m off v act s) := by
  unfold inOrder
  try dsimp only
  with_reducible repeat' first
    | assumption | intro _ | apply Stays.ite | apply onPlumb_stays (hπ.sub (by decide))
    | apply guarded_stays (hπ.sub (by decide)) | apply hF_act

theorem plumbBus_stays (hπ : AllFree π 70368744704009) (m : Master) (off : Nat) (v : Word) (act : State → State) (hF_act : ∀ s, Stays π r0 s → Stays π r0 (act s)) (hF : Stays π r0 s) :
    Stays π r0 (plumbBus m off v act s) := by
  unfold plumbBus
  try dsimp only
  with_reducible repeat' first
    | assumption | intro _ | apply byBus_stays (hπ.sub (by decide)) | apply inOrder_stays (hπ.sub (by decide))
    | apply hF_act

theorem spoDemand_stays (hπ : AllFree π 278661130) (k : Nat) (hF : Stays π r0 s) :
    Stays π r0 (spoDemand k s) := by
  unfold spoDemand
  try dsimp only
  with_reducible repeat' first
    | assumption | intro _ | apply Stays.ite | apply onPlumb_stays (hπ.sub (by decide))
    | apply settle_stays (hπ.sub (by decide)) | apply raisePl_stays (hπ.sub (by decide))
    | apply logHap_stays (hπ.sub (by decide)) | apply bookAction_stays (hπ.sub (by decide))

theorem spoOff_stays (hπ : AllFree π 295176330)  (hF : Stays π r0 s) :
    Stays π r0 (spoOff s) := by
  unfold spoOff
  try dsimp only
  with_reducible repeat' first
    | assumption | intro _ | apply settle_stays (hπ.sub (by decide)) | apply onPlumb_stays (hπ.sub (by decide))
    | apply checkOutEn_stays (hπ.sub (by decide)) | apply raisePl_stays (hπ.sub (by decide))
    | apply logHap_stays (hπ.sub (by decide)) | apply milestone_stays (hπ.sub (by decide))
    | simp only [Stays.mk_plumb_holds (hπ.sub (by decide))] | simp only [Stays.mk_holds (hπ.sub (by decide))]

theorem spoInactive_stays (hπ : AllFree π 295438474) (k : Nat) (hF : Stays π r0 s) :
    Stays π r0 (spoInactive k s) := by
  unfold spoInactive
  try dsimp only
  with_reducible repeat' first
    | assumption | intro _ | apply Stays.ite | apply onPlumb_stays (hπ.sub (by decide))
    | apply spoOff_stays (hπ.sub (by decide)) | apply bookAction_stays (hπ.sub (by decide))

theorem spoSource_stays (hπ : AllFree π 295438474) (k : Nat) (on : Bool) (hF : Stays π r0 s) :
    Stays π r0 (spoSource k on s) := by
  unfold spoSource
  try dsimp only
  with_reducible repeat' first
    | assumption | apply Stays.ite | apply spoDemand_stays (hπ.sub (by decide)) | apply spoInactive_stays (hπ.sub (by decide))

theorem spoPulse_stays (hπ : AllFree π 278661130) (k : Nat) (hF : Stays π r0 s) :
    Stays π r0 (spoPulse k s) := by
  unfold spoPulse
  try dsimp only
  with_reducible repeat' first
    | assumption | intro _ | apply onPlumb_stays (hπ.sub (by decide)) | apply spoDemand_stays (hπ.sub (by decide))

theorem spoRelease_stays (hπ : AllFree π 295438474) (m : Master) (hF : Stays π r0 s) :
    Stays π r0 (spoRelease m s) := by
  unfold spoRelease
  try dsimp only
  with_reducible repeat' first
    | assumption | apply Stays.ite | apply raisePl_stays (hπ.sub (by decide)) | apply wrb_stays (hπ.sub (by decide))
    | apply spoOff_stays (hπ.sub (by decide)) | apply bookRequested_stays (hπ.sub (by decide))
    | split

theorem writeSpoCtl_stays (hπ : AllFree π 295438474) (m : Master) (v : Word) (hF : Stays π r0 s) :
    Stays π r0 (writeSpoCtl m v s) := by
  unfold writeSpoCtl
  try dsimp only
  with_reducible repeat' first
    | assumption | apply Stays.ite | apply wrb_stays (hπ.sub (by decide)) | apply spoRelease_stays (hπ.sub (by decide))
    | apply spoPulse_stays (hπ.sub (by decide))

theorem soutTo_stays (hπ : AllFree π 557064) (n : Nat) (st : SoutState) (hF : Stays π r0 s) :
    Stays π r0 (soutTo n st s) := by
  unfold soutTo
  try dsimp only
  with_reducible repeat' first
    | assumption | intro _ | apply Stays.ite | apply raisePl_stays (hπ.sub (by decide))
    | apply onSout_stays (hπ.sub (by decide))

theorem abortTest_stays (hπ : AllFree π 557064) (n : Nat) (hF : Stays π r0 s) :
    Stays π r0 (abortTest n s) := by
  unfold abortTest
  try dsimp only
  with_reducible repeat' first
    | assumption | intro _ | apply Stays.ite | apply raisePl_stays (hπ.sub (by decide))
    | apply incHeld_stays (hπ.sub (by decide)) | apply onSout_stays (hπ.sub (by decide))

theorem soutOff_stays (hπ : AllFree π 557064) (n : Nat) (hF : Stays π r0 s) :
    Stays π r0 (soutOff n s) := by
  unfold soutOff
  try dsimp only
  with_reducible repeat' first
    | assumption | intro _ | apply Stays.ite | apply soutTo_stays (hπ.sub (by decide))
    | apply onSout_stays (hπ.sub (by decide)) | apply abortTest_stays (hπ.sub (by decide))
    | split

theorem soutFault_stays (hπ : AllFree π 557064) (n : Nat) (hF : Stays π r0 s) :
    Stays π r0 (soutFault n s) := by
  unfold soutFault
  try dsimp only
  with_reducible repeat' first
    | assumption | intro _ | apply soutTo_stays (hπ.sub (by decide)) | apply onSout_stays (hπ.sub (by decide))

theorem judgeSout_stays (hπ : AllFree π 557064) (n : Nat) (hF : Stays π r0 s) :
    Stays π r0 (judgeSout n s) := by
  unfold judgeSout
  try dsimp only
  with_reducible repeat' first
    | assumption | intro _ | apply Stays.ite | apply soutTo_stays (hπ.sub (by decide))
    | apply onSout_stays (hπ.sub (by decide)) | apply soutFault_stays (hπ.sub (by decide))
    | split

theorem soutGrant_stays (hπ : AllFree π 557064) {n : Nat} {t : State} (e : soutGrant n s = some t) (hF : Stays π r0 s) :
    Stays π r0 t := by
  unfold soutGrant at e
  dsimp only at e
  split at e
  · cases e
    exact judgeSout_stays (hπ.sub (by decide)) _ (soutTo_stays (hπ.sub (by decide)) _ _ (onSout_stays (hπ.sub (by decide)) _ _ hF))
  · cases e

theorem soutGrant_getD_stays (hπ : AllFree π 557064) {n : Nat} (hF : Stays π r0 s) : Stays π r0 ((soutGrant n s).getD s) := by
  cases e : soutGrant n s with
  | none => exact hF
  | some t => exact soutGrant_stays hπ e hF

theorem soutClose_stays (hπ : AllFree π 557064) (n : Nat) (hF : Stays π r0 s) :
    Stays π r0 (soutClose n s) := by
  unfold soutClose
  split
  · exact soutGrant_stays (hπ.sub (by decide)) ‹_› hF
  · exact Stays.ite (raisePl_stays (hπ.sub (by decide)) _ (judgeSout_stays (hπ.sub (by decide)) _ hF)) hF

theorem portOpen_stays (hπ : AllFree π 557064) (p : Nat) (hF : Stays π r0 s) :
    Stays π r0 (portOpen p s) := by
  unfold portOpen
  try dsimp only
  with_reducible repeat' first
    | assumption | intro _ | apply forEach_stays | apply soutOff_stays (hπ.sub (by decide))

theorem startTest_stays (hπ : AllFree π 32768) (n : Nat) (hF : Stays π r0 s) :
    Stays π r0 (startTest n s) := by
  unfold startTest
  try dsimp only
  with_reducible repeat' first
    | assumption | intro _ | apply Stays.ite | apply onSout_stays (hπ.sub (by decide))
    | split

theorem stuckOutputs_stays (hπ : AllFree π 557064)  (hF : Stays π r0 s) :
    Stays π r0 (stuckOutputs s) := by
  unfold stuckOutputs
  try dsimp only
  with_reducible repeat' first
    | assumption | intro _ | apply forEach_stays | apply soutFault_stays (hπ.sub (by decide))

theorem plumbEval_stays (hπ : AllFree π 295471242)  (hF : Stays π r0 s) :
    Stays π r0 (plumbEval s) := by
  unfold plumbEval
  try dsimp only
  with_reducible repeat' first
    | assumption | intro _ | apply forEach_stays | apply spoSource_stays (hπ.sub (by decide))
    | apply onPlumb_stays (hπ.sub (by decide)) | apply stuckOutputs_stays (hπ.sub (by decide))
    | apply soutOff_stays (hπ.sub (by decide)) | split

theorem evalInput_stays (hπ : AllFree π 295475338) (i : Nat) (hF : Stays π r0 s) :
    Stays π r0 (evalInput i s) := by
  unfold evalInput
  try dsimp only
  with_reducible repeat' first
    | assumption | intro _ | apply Stays.ite | apply onSafeIn_stays (hπ.sub (by decide))
    | apply raisePl_stays (hπ.sub (by decide)) | apply forEach_stays | apply judgeSout_stays (hπ.sub (by decide))
    | apply plumbEval_stays (hπ.sub (by decide)) | split

theorem islandReport_stays (hπ : AllFree π 295471242) (p : Nat) (on : Bool) (hF : Stays π r0 s) :
    Stays π r0 (islandReport p on s) := by
  unfold islandReport
  try dsimp only
  with_reducible repeat' first
    | assumption | intro _ | apply Stays.ite | apply plumbEval_stays (hπ.sub (by decide))
    | apply onPlumb_stays (hπ.sub (by decide))

theorem startActive_stays (hπ : AllFree π 295471242)  (hF : Stays π r0 s) :
    Stays π r0 (startActive s) := by
  unfold startActive
  try dsimp only
  with_reducible repeat' first
    | assumption | apply plumbEval_stays (hπ.sub (by decide)) | apply spoSource_stays (hπ.sub (by decide))

theorem startEnds_stays (hπ : AllFree π 295438474)  (hF : Stays π r0 s) :
    Stays π r0 (startEnds s) := by
  unfold startEnds
  try dsimp only
  with_reducible repeat' first
    | assumption | apply Stays.ite | apply spoSource_stays (hπ.sub (by decide))

theorem relockLevel_stays (hπ : AllFree π 917512) (m : Nat) (hF : Stays π r0 s) :
    Stays π r0 (relockLevel m s) := by
  unfold relockLevel
  try dsimp only
  with_reducible repeat' first
    | assumption | apply Stays.ite | apply bookAction_stays (hπ.sub (by decide))
    | apply raisePl_stays (hπ.sub (by decide)) | simp only [Stays.mk_pw (hπ.sub (by decide))]

theorem plumbRestart_stays (hπ : AllFree π 295696522)  (hF : Stays π r0 s) :
    Stays π r0 (plumbRestart s) := by
  unfold plumbRestart
  try dsimp only
  with_reducible repeat' first
    | assumption | intro _ | apply Stays.ite | apply dropHanded_stays (hπ.sub (by decide))
    | apply onPlumb_stays (hπ.sub (by decide)) | apply startActive_stays (hπ.sub (by decide))
    | simp only [Stays.mk_sins_scans_scanConvs_conns_pw (hπ.sub (by decide))]

theorem internalFault_stays (hπ : AllFree π 295696522)  (hF : Stays π r0 s) :
    Stays π r0 (internalFault s) := by
  unfold internalFault
  try dsimp only
  with_reducible repeat' first
    | assumption | intro _ | apply spoPulse_stays (hπ.sub (by decide)) | apply forEach_stays
    | apply soutOff_stays (hπ.sub (by decide)) | apply logHap_stays (hπ.sub (by decide))
    | apply onPlumb_stays (hπ.sub (by decide)) | apply plumbRestart_stays (hπ.sub (by decide))

theorem saddleTo_stays (hπ : AllFree π 295471242) (m : Option Master) (st : Saddle) (hF : Stays π r0 s) :
    Stays π r0 (saddleTo m st s) := by
  unfold saddleTo
  try dsimp only
  with_reducible repeat' first
    | assumption | intro _ | apply bookRequested_stays (hπ.sub (by decide)) | apply bookAction_stays (hπ.sub (by decide))
    | apply onPlumb_stays (hπ.sub (by decide)) | apply plumbEval_stays (hπ.sub (by decide))
    | apply raisePl_stays (hπ.sub (by decide)) | apply logHap_stays (hπ.sub (by decide))
    | split

theorem saddleTable_stays (hπ : AllFree π 295471242)  (hF : Stays π r0 s) :
    Stays π r0 (saddleTable s) := by
  unfold saddleTable
  try dsimp only
  with_reducible repeat' first
    | assumption | intro _ | apply Stays.ite | apply onPlumb_stays (hπ.sub (by decide))
    | apply saddleTo_stays (hπ.sub (by decide)) | split

theorem saddleAsk_stays (hπ : AllFree π 2048) (m : Master) (hF : Stays π r0 s) :
    Stays π r0 (saddleAsk m s) := by
  unfold saddleAsk
  try dsimp only
  with_reducible repeat' first
    | assumption | intro _ | apply onPlumb_stays (hπ.sub (by decide))

theorem saddleReset_stays (hπ : AllFree π 295602314) (m : Master) (hF : Stays π r0 s) :
    Stays π r0 (saddleReset m s) := by
  unfold saddleReset
  try dsimp only
  with_reducible repeat' first
    | assumption | apply Stays.ite | apply deny_stays (hπ.sub (by decide)) | apply raisePl_stays (hπ.sub (by decide))
    | apply saddleTo_stays (hπ.sub (by decide))

theorem writeSadCtl_stays (hπ : AllFree π 295602314) (m : Master) (v : Word) (hF : Stays π r0 s) :
    Stays π r0 (writeSadCtl m v s) := by
  unfold writeSadCtl
  try dsimp only
  with_reducible repeat' first
    | assumption | intro _ | apply Stays.ite | apply raisePl_stays (hπ.sub (by decide))
    | apply saddleAsk_stays (hπ.sub (by decide)) | apply onPlumb_stays (hπ.sub (by decide))
    | apply saddleReset_stays (hπ.sub (by decide))

theorem scanResult_stays (hπ : AllFree π 295479434) (c i : Nat) (code : Int) (hF : Stays π r0 s) :
    Stays π r0 (scanResult c i code s) := by
  unfold scanResult
  try dsimp only
  with_reducible repeat' first
    | assumption | intro _ | apply Stays.ite | apply wrf_stays (hπ.sub (by decide))
    | apply onScanCh_stays (hπ.sub (by decide)) | apply raisePl_stays (hπ.sub (by decide))
    | apply plumbEval_stays (hπ.sub (by decide)) | split

theorem scanRaise_stays (hπ : AllFree π 524296) (ubefore : State) (hF : Stays π r0 s) :
    Stays π r0 (scanRaise ubefore s) := by
  unfold scanRaise
  try dsimp only
  with_reducible repeat' first
    | assumption | intro _ | apply Stays.ite | apply raisePl_stays (hπ.sub (by decide))
    | split

theorem scanEnd_stays (hπ : AllFree π 295495818) (c : Nat) (mv : Int) (hF : Stays π r0 s) :
    Stays π r0 (scanEnd c mv s) := by
  unfold scanEnd
  try dsimp only
  with_reducible repeat' first
    | assumption | intro _ | apply Stays.ite | apply onScanConv_stays (hπ.sub (by decide))
    | apply forEach_stays | apply onScanCh_stays (hπ.sub (by decide)) | apply plumbEval_stays (hπ.sub (by decide))
    | apply scanRaise_stays (hπ.sub (by decide))

theorem execSpoRequest_stays (hπ : AllFree π 70369039616139) (m : Master) (hF : Stays π r0 s) :
    ∃ s1, execSpoRequest m s = .next s1 ∧ Stays π r0 s1 := by
  refine ⟨_, rfl, ?_⟩
  try dsimp only
  with_reducible repeat' first
    | assumption | intro _ | apply plumbBus_stays (hπ.sub (by decide)) | apply writeSpoCtl_stays (hπ.sub (by decide))

theorem execSpoRelease_stays (hπ : AllFree π 70369039616139) (m : Master) (hF : Stays π r0 s) :
    ∃ s1, execSpoRelease m s = .next s1 ∧ Stays π r0 s1 := by
  refine ⟨_, rfl, ?_⟩
  try dsimp only
  with_reducible repeat' first
    | assumption | intro _ | apply plumbBus_stays (hπ.sub (by decide)) | apply writeSpoCtl_stays (hπ.sub (by decide))

theorem execSafeInChange_stays (hπ : AllFree π 295475338) (i : Fin 4) (chB on : Bool) (hF : Stays π r0 s) :
    ∃ s1, execSafeInChange i chB on s = .next s1 ∧ Stays π r0 s1 := by
  refine ⟨_, rfl, ?_⟩
  try dsimp only
  with_reducible repeat' first
    | assumption | intro _ | apply Stays.ite | apply evalInput_stays (hπ.sub (by decide))
    | apply onSafeIn_stays (hπ.sub (by decide))

theorem execDiscrepancy_stays (hπ : AllFree π 295475339) (i : Fin 4) (hF : Stays π r0 s) :
    ∃ s1, execDiscrepancy i s = .next s1 ∧ Stays π r0 s1 := by
  refine ⟨_, rfl, ?_⟩
  try dsimp only
  with_reducible repeat' first
    | assumption | intro _ | apply Stays.ite | apply upto_stays (hπ.sub (by decide))
    | apply evalInput_stays (hπ.sub (by decide)) | apply raisePl_stays (hπ.sub (by decide))
    | apply onSafeIn_stays (hπ.sub (by decide)) | split

theorem execScan_stays (hπ : AllFree π 295495818) (c : Fin 2) (ch : Option (Fin 8)) (code : Int) (hF : Stays π r0 s) :
    ∃ s1, execScan c ch code s = .next s1 ∧ Stays π r0 s1 := by
  refine ⟨_, rfl, ?_⟩
  try dsimp only
  with_reducible repeat' first
    | assumption | apply scanResult_stays (hπ.sub (by decide)) | apply scanEnd_stays (hπ.sub (by decide))
    | split

theorem execSoutClose_stays (hπ : AllFree π 70368744736777) (m : Master) (n : Fin 4) (hF : Stays π r0 s) :
    ∃ s1, execSoutClose m n s = .next s1 ∧ Stays π r0 s1 := by
  refine ⟨_, rfl, ?_⟩
  try dsimp only
  with_reducible repeat' first
    | assumption | intro _ | apply plumbBus_stays (hπ.sub (by decide)) | apply soutClose_stays (hπ.sub (by decide))

theorem execSoutOpen_stays (hπ : AllFree π 70368744736777) (m : Master) (n : Fin 4) (hF : Stays π r0 s) :
    ∃ s1, execSoutOpen m n s = .next s1 ∧ Stays π r0 s1 := by
  refine ⟨_, rfl, ?_⟩
  try dsimp only
  with_reducible repeat' first
    | assumption | intro _ | apply plumbBus_stays (hπ.sub (by decide)) | apply soutOff_stays (hπ.sub (by decide))

theorem soutClr_stays (hπ : AllFree π 295471242) (n : Nat) (hF : Stays π r0 s) :
    Stays π r0 (soutClr n s) := by
  unfold soutClr
  try dsimp only
  with_reducible repeat' first
    | assumption | intro _ | apply Stays.ite | apply raisePl_stays (hπ.sub (by decide))
    | apply plumbEval_stays (hπ.sub (by decide)) | apply soutTo_stays (hπ.sub (by decide))
    | apply onSout_stays (hπ.sub (by decide)) | split

theorem execSoutClr_stays (hπ : AllFree π 70369039648907) (m : Master) (n : Fin 4) (hF : Stays π r0 s) :
    ∃ s1, execSoutClr m n s = .next s1 ∧ Stays π r0 s1 := by
  refine ⟨_, rfl, ?_⟩
  try dsimp only
  with_reducible repeat' first
    | assumption | intro _ | apply plumbBus_stays (hπ.sub (by decide)) | apply soutClr_stays (hπ.sub (by decide))

theorem execTestNow_stays (hπ : AllFree π 70368744736777) (m : Master) (n : Fin 4) (hF : Stays π r0 s) :
    ∃ s1, execTestNow m n s = .next s1 ∧ Stays π r0 s1 := by
  refine ⟨_, rfl, ?_⟩
  try dsimp only
  with_reducible repeat' first
    | assumption | intro _ | apply plumbBus_stays (hπ.sub (by decide)) | apply startTest_stays (hπ.sub (by decide))

theorem execCloseTimeout_stays (hπ : AllFree π 557065) (n : Fin 4) (hF : Stays π r0 s) :
    ∃ s1, execCloseTimeout n s = .next s1 ∧ Stays π r0 s1 := by
  refine ⟨_, rfl, ?_⟩
  try dsimp only
  with_reducible repeat' first
    | assumption | apply Stays.ite | apply soutFault_stays (hπ.sub (by decide)) | apply upto_stays (hπ.sub (by decide))

theorem execSoutFeedbackChange_stays (hπ : AllFree π 557064) (n : Fin 4) (rb : Bool) (hF : Stays π r0 s) :
    ∃ s1, execSoutFeedbackChange n rb s = .next s1 ∧ Stays π r0 s1 := by
  refine ⟨_, rfl, ?_⟩
  try dsimp only
  with_reducible repeat' first
    | assumption | intro _ | apply Stays.ite | apply onSout_stays (hπ.sub (by decide))
    | apply soutFault_stays (hπ.sub (by decide)) | apply judgeSout_stays (hπ.sub (by decide))

theorem execTestDue_stays (hπ : AllFree π 32769) (n : Fin 4) (hF : Stays π r0 s) :
    ∃ s1, execTestDue n s = .next s1 ∧ Stays π r0 s1 := by
  refine ⟨_, rfl, ?_⟩
  try dsimp only
  with_reducible repeat' first
    | assumption | apply Stays.ite | apply startTest_stays (hπ.sub (by decide)) | apply upto_stays (hπ.sub (by decide))
    | split

theorem execTestPulseEnd_stays (hπ : AllFree π 32769) (n : Fin 4) (hF : Stays π r0 s) :
    ∃ s1, execTestPulseEnd n s = .next s1 ∧ Stays π r0 s1 := by
  refine ⟨_, rfl, ?_⟩
  try dsimp only
  with_reducible repeat' first
    | assumption | intro _ | apply upto_stays (hπ.sub (by decide)) | apply onSout_stays (hπ.sub (by decide))
    | split

theorem testFails_stays (hπ : AllFree π 295471242) (n : Nat) (hF : Stays π r0 s) :
    Stays π r0 (testFails n s) := by
  unfold testFails
  try dsimp only
  with_reducible repeat' first
    | assumption | intro _ | apply raisePl_stays (hπ.sub (by decide)) | apply incHeld_stays (hπ.sub (by decide))
    | apply soutFault_stays (hπ.sub (by decide)) | apply plumbEval_stays (hπ.sub (by decide))
    | apply onSout_stays (hπ.sub (by decide)) | apply spoPulse_stays (hπ.sub (by decide))
    | split

theorem execTestRecoveryEnd_stays (hπ : AllFree π 295471243) (n : Fin 4) (hF : Stays π r0 s) :
    ∃ s1, execTestRecoveryEnd n s = .next s1 ∧ Stays π r0 s1 := by
  refine ⟨_, rfl, ?_⟩
  try dsimp only
  with_reducible repeat' first
    | assumption | intro _ | apply Stays.ite | apply onSout_stays (hπ.sub (by decide))
    | apply upto_stays (hπ.sub (by decide)) | apply testFails_stays (hπ.sub (by decide))
    | split

theorem execClockCheck_stays (hπ : AllFree π 295471242) (pwm fab adc ring : Nat) (hF : Stays π r0 s) :
    ∃ s1, execClockCheck pwm fab adc ring s = .next s1 ∧ Stays π r0 s1 := by
  refine ⟨_, rfl, ?_⟩
  try dsimp only
  with_reducible repeat' first
    | assumption | apply Stays.ite | apply stuckOutputs_stays (hπ.sub (by decide))
    | apply spoSource_stays (hπ.sub (by decide))

theorem execFreeze_stays (hπ : AllFree π 295438475)  (hF : Stays π r0 s) :
    ∃ s1, execFreeze s = .next s1 ∧ Stays π r0 s1 := by
  refine ⟨_, rfl, ?_⟩
  try dsimp only
  with_reducible repeat' first
    | assumption | apply Stays.ite | apply spoSource_stays (hπ.sub (by decide)) | apply upto_stays (hπ.sub (by decide))
    | split

theorem execLockstepMismatch_stays (hπ : AllFree π 295696522)  (hF : Stays π r0 s) :
    ∃ s1, execLockstepMismatch s = .next s1 ∧ Stays π r0 s1 := by
  refine ⟨_, rfl, ?_⟩
  try dsimp only
  with_reducible repeat' first
    | assumption | apply internalFault_stays (hπ.sub (by decide))

theorem execPlumbOscillatorFailure_stays (hπ : AllFree π 295696522)  (hF : Stays π r0 s) :
    ∃ s1, execPlumbOscillatorFailure s = .next s1 ∧ Stays π r0 s1 := by
  refine ⟨_, rfl, ?_⟩
  try dsimp only
  with_reducible repeat' first
    | assumption | apply internalFault_stays (hπ.sub (by decide))

theorem execPeriodicSelftest_stays (hπ : AllFree π 295696523) (ok : Bool) (hF : Stays π r0 s) :
    ∃ s1, execPeriodicSelftest ok s = .next s1 ∧ Stays π r0 s1 := by
  refine ⟨_, rfl, ?_⟩
  try dsimp only
  with_reducible repeat' first
    | assumption | intro _ | apply Stays.ite | apply upto_stays (hπ.sub (by decide))
    | apply onPlumb_stays (hπ.sub (by decide)) | apply internalFault_stays (hπ.sub (by decide))

theorem execSelftestDone_stays (hπ : AllFree π 295696522) (ok : Bool) (hF : Stays π r0 s) :
    ∃ s1, execSelftestDone ok s = .next s1 ∧ Stays π r0 s1 := by
  refine ⟨_, rfl, ?_⟩
  try dsimp only
  with_reducible repeat' first
    | assumption | intro _ | apply Stays.ite | apply internalFault_stays (hπ.sub (by decide))
    | apply startEnds_stays (hπ.sub (by decide)) | apply milestone_stays (hπ.sub (by decide))
    | apply onPlumb_stays (hπ.sub (by decide)) | split

theorem execEnter_stays (hπ : AllFree π 70369039779979) (m : Master) (hF : Stays π r0 s) :
    ∃ s1, execEnter m s = .next s1 ∧ Stays π r0 s1 := by
  refine ⟨_, rfl, ?_⟩
  try dsimp only
  with_reducible repeat' first
    | assumption | intro _ | apply plumbBus_stays (hπ.sub (by decide)) | apply writeSadCtl_stays (hπ.sub (by decide))

theorem execExit_stays (hπ : AllFree π 70369039779979) (m : Master) (hF : Stays π r0 s) :
    ∃ s1, execExit m s = .next s1 ∧ Stays π r0 s1 := by
  refine ⟨_, rfl, ?_⟩
  try dsimp only
  with_reducible repeat' first
    | assumption | intro _ | apply plumbBus_stays (hπ.sub (by decide)) | apply writeSadCtl_stays (hπ.sub (by decide))

theorem execSaddleReset_stays (hπ : AllFree π 70369039779979) (m : Master) (hF : Stays π r0 s) :
    ∃ s1, execSaddleReset m s = .next s1 ∧ Stays π r0 s1 := by
  refine ⟨_, rfl, ?_⟩
  try dsimp only
  with_reducible repeat' first
    | assumption | intro _ | apply plumbBus_stays (hπ.sub (by decide)) | apply writeSadCtl_stays (hπ.sub (by decide))

theorem execSaddleTimeout_stays (hπ : AllFree π 295471243)  (hF : Stays π r0 s) :
    ∃ s1, execSaddleTimeout s = .next s1 ∧ Stays π r0 s1 := by
  refine ⟨_, rfl, ?_⟩
  try dsimp only
  with_reducible repeat' first
    | assumption | apply Stays.ite | apply saddleTable_stays (hπ.sub (by decide))
    | apply upto_stays (hπ.sub (by decide))

theorem execCleanTimeout_stays (hπ : AllFree π 295471243)  (hF : Stays π r0 s) :
    ∃ s1, execCleanTimeout s = .next s1 ∧ Stays π r0 s1 := by
  refine ⟨_, rfl, ?_⟩
  try dsimp only
  with_reducible repeat' first
    | assumption | apply Stays.ite | apply saddleTable_stays (hπ.sub (by decide))
    | apply upto_stays (hπ.sub (by decide))

theorem soutSettings_stays (hπ : AllFree π 295471242) (n : Nat) (v : Word) (hF : Stays π r0 s) :
    Stays π r0 (soutSettings n v s) := by
  unfold soutSettings
  try dsimp only
  with_reducible repeat' first
    | assumption | intro _ | apply Stays.ite | apply plainWrite_stays (hπ.sub (by decide))
    | apply onSout_stays (hπ.sub (by decide)) | apply plumbEval_stays (hπ.sub (by decide))
    | apply judgeSout_stays (hπ.sub (by decide)) | split

theorem setPlumb_stays (hπ : AllFree π 295475338) (off : Nat) (v : Word) (hF : Stays π r0 s) :
    Stays π r0 (setPlumb off v s) := by
  unfold setPlumb
  try dsimp only
  with_reducible repeat' first
    | assumption | intro _ | apply Stays.ite | apply soutSettings_stays (hπ.sub (by decide))
    | apply plainWrite_stays (hπ.sub (by decide)) | apply forEach_stays | apply evalInput_stays (hπ.sub (by decide))
    | apply plumbEval_stays (hπ.sub (by decide)) | apply scanRaise_stays (hπ.sub (by decide))
    | split

theorem writeSoutCtl_stays (hπ : AllFree π 295471242) (v : Word) (hF : Stays π r0 s) :
    Stays π r0 (writeSoutCtl v s) := by
  unfold writeSoutCtl
  try dsimp only
  with_reducible repeat' first
    | assumption | intro _ | apply forEach_stays | apply soutClose_stays (hπ.sub (by decide))
    | apply soutOff_stays (hπ.sub (by decide)) | apply soutClr_stays (hπ.sub (by decide))
    | apply startTest_stays (hπ.sub (by decide))

end Sys2Proof.Machine
end

