-- ==== Sys2Proof/Laws/StayPasswords.lean ====
section
/-! SUPPORT. What the operations of Machine/Passwords.lean leave alone (Laws/Stays.lean). -/

set_option linter.unusedTactic false
set_option linter.unreachableTactic false
set_option linter.unusedVariables false

namespace Sys2Proof.Machine

variable {α : Type} {π : State → α} {r0 s : State}

theorem onPw_stays (hπ : AllFree π 131072) (f : Passwords → Passwords) (hF : Stays π r0 s) :
    Stays π r0 (onPw f s) := by
  unfold onPw
  try dsimp only
  with_reducible repeat' first
    | assumption | simp only [Stays.mk_pw (hπ.sub (by decide))]

theorem unlockFails_stays (hπ : AllFree π 917512) (m : Master) (hF : Stays π r0 s) :
    Stays π r0 (unlockFails m s) := by
  unfold unlockFails
  try dsimp only
  with_reducible repeat' first
    | assumption | intro _ | apply Stays.ite | apply raisePl_stays (hπ.sub (by decide))
    | apply bookRequested_stays (hπ.sub (by decide)) | apply onPw_stays (hπ.sub (by decide))
    | apply bookAction_stays (hπ.sub (by decide))

theorem unlockTo_stays (hπ : AllFree π 917512) (m : Master) (l : Nat) (hF : Stays π r0 s) :
    Stays π r0 (unlockTo m l s) := by
  unfold unlockTo
  try dsimp only
  with_reducible repeat' first
    | assumption | intro _ | apply bookRequested_stays (hπ.sub (by decide)) | apply raisePl_stays (hπ.sub (by decide))
    | apply onPw_stays (hπ.sub (by decide))

theorem pwAct_stays (hπ : AllFree π 917512) (m : Master) (cmd len : Nat) (hF : Stays π r0 s) :
    Stays π r0 (pwAct m cmd len s) := by
  unfold pwAct
  try dsimp only
  with_reducible repeat' first
    | assumption | intro _ | apply Stays.ite | apply raisePl_stays (hπ.sub (by decide))
    | apply unlockTo_stays (hπ.sub (by decide)) | apply unlockFails_stays (hπ.sub (by decide))
    | apply relockLevel_stays (hπ.sub (by decide)) | apply onPw_stays (hπ.sub (by decide))
    | apply bookRequested_stays (hπ.sub (by decide)) | split

theorem pwCommand_stays (hπ : AllFree π 917512) (m : Master) (cmd len : Nat) (hF : Stays π r0 s) :
    Stays π r0 (pwCommand m cmd len s) := by
  unfold pwCommand
  try dsimp only
  with_reducible repeat' first
    | assumption | intro _ | apply onPw_stays (hπ.sub (by decide)) | apply pwAct_stays (hπ.sub (by decide))

theorem writePwData_stays (hπ : AllFree π 131072) (v : Word) (hF : Stays π r0 s) :
    Stays π r0 (writePwData v s) := by
  unfold writePwData
  try dsimp only
  with_reducible repeat' first
    | assumption | intro _ | apply Stays.ite | apply onPw_stays (hπ.sub (by decide))

theorem passwordBus_stays (hπ : AllFree π 70368745097225) (m : Master) (cmd len : Nat) (hF : Stays π r0 s) :
    Stays π r0 (passwordBus m cmd len s) := by
  unfold passwordBus
  try dsimp only
  with_reducible repeat' first
    | assumption | intro _ | apply plumbBus_stays (hπ.sub (by decide)) | apply pwCommand_stays (hπ.sub (by decide))

theorem execUnlockSite_stays (hπ : AllFree π 70368745097225) (m : Master) (len : BitVec 6) (hF : Stays π r0 s) :
    ∃ s1, execUnlockSite m len s = .next s1 ∧ Stays π r0 s1 := by
  refine ⟨_, rfl, ?_⟩
  try dsimp only
  with_reducible repeat' first
    | assumption | apply passwordBus_stays (hπ.sub (by decide))

theorem execUnlockMaker_stays (hπ : AllFree π 70368745097225) (m : Master) (len : BitVec 6) (hF : Stays π r0 s) :
    ∃ s1, execUnlockMaker m len s = .next s1 ∧ Stays π r0 s1 := by
  refine ⟨_, rfl, ?_⟩
  try dsimp only
  with_reducible repeat' first
    | assumption | apply passwordBus_stays (hπ.sub (by decide))

theorem execRelock_stays (hπ : AllFree π 70368745097225) (m : Master) (hF : Stays π r0 s) :
    ∃ s1, execRelock m s = .next s1 ∧ Stays π r0 s1 := by
  refine ⟨_, rfl, ?_⟩
  try dsimp only
  with_reducible repeat' first
    | assumption | apply passwordBus_stays (hπ.sub (by decide))

theorem execSetSite_stays (hπ : AllFree π 70368745097225) (m : Master) (len : BitVec 6) (hF : Stays π r0 s) :
    ∃ s1, execSetSite m len s = .next s1 ∧ Stays π r0 s1 := by
  refine ⟨_, rfl, ?_⟩
  try dsimp only
  with_reducible repeat' first
    | assumption | apply passwordBus_stays (hπ.sub (by decide))

theorem execSetMaker_stays (hπ : AllFree π 70368745097225) (m : Master) (len : BitVec 6) (hF : Stays π r0 s) :
    ∃ s1, execSetMaker m len s = .next s1 ∧ Stays π r0 s1 := by
  refine ⟨_, rfl, ?_⟩
  try dsimp only
  with_reducible repeat' first
    | assumption | apply passwordBus_stays (hπ.sub (by decide))

theorem execPwDataWrite_stays (hπ : AllFree π 70368744835081) (m : Master) (v : Word) (hF : Stays π r0 s) :
    ∃ s1, execPwDataWrite m v s = .next s1 ∧ Stays π r0 s1 := by
  refine ⟨_, rfl, ?_⟩
  try dsimp only
  with_reducible repeat' first
    | assumption | intro _ | apply plumbBus_stays (hπ.sub (by decide)) | apply writePwData_stays (hπ.sub (by decide))

theorem execSessionTimeout_stays (hπ : AllFree π 917513)  (hF : Stays π r0 s) :
    ∃ s1, execSessionTimeout s = .next s1 ∧ Stays π r0 s1 := by
  refine ⟨_, rfl, ?_⟩
  try dsimp only
  with_reducible repeat' first
    | assumption | apply Stays.ite | apply relockLevel_stays (hπ.sub (by decide))
    | apply upto_stays (hπ.sub (by decide)) | split

theorem execLockoutEnd_stays (hπ : AllFree π 131073)  (hF : Stays π r0 s) :
    ∃ s1, execLockoutEnd s = .next s1 ∧ Stays π r0 s1 := by
  refine ⟨_, rfl, ?_⟩
  try dsimp only
  with_reducible repeat' first
    | assumption | intro _ | apply Stays.ite | apply onPw_stays (hπ.sub (by decide))
    | apply upto_stays (hπ.sub (by decide))

theorem execFbDrain_stays (hπ : AllFree π 211106233319496) (ok : Bool) (hF : Stays π r0 s) :
    ∃ s1, execFbDrain ok s = .next s1 ∧ Stays π r0 s1 := by
  refine ⟨_, rfl, ?_⟩
  try dsimp only
  with_reducible repeat' first
    | assumption | intro _ | apply Stays.ite | apply nvStores_stays (hπ.sub (by decide))
    | apply raisePl_stays (hπ.sub (by decide)) | apply placeWaiting_stays (hπ.sub (by decide))
    | simp only [Stays.mk_fb (hπ.sub (by decide))] | split

theorem execFbDataRead_stays (hπ : AllFree π 70368744964136) (m : Master) (hF : Stays π r0 s) :
    ∃ s1, execFbDataRead m s = .next s1 ∧ Stays π r0 s1 := by
  refine ⟨_, rfl, ?_⟩
  try dsimp only
  with_reducible repeat' first
    | assumption | intro _ | apply Stays.ite | apply readAt_stays (hπ.sub (by decide))
    | apply respond_stays (hπ.sub (by decide)) | apply wrf_stays (hπ.sub (by decide)) | simp only [Stays.mk_fb (hπ.sub (by decide))]

end Sys2Proof.Machine
end

