-- ==== Sys2Proof/Laws/StayCells.lean ====
section
/-! SUPPORT. What the operations of Machine/Cells.lean leave alone (Laws/Stays.lean). -/

set_option linter.unusedTactic false
set_option linter.unreachableTactic false
set_option linter.unusedVariables false

namespace Sys2Proof.Machine

variable {α : Type} {π : State → α} {r0 s : State}

theorem onLink_stays (hπ : AllFree π 137438953472) (r : Nat) (f : RingLink → RingLink) (hF : Stays π r0 s) :
    Stays π r0 (onLink r f s) := by
  unfold onLink
  try dsimp only
  with_reducible repeat' first
    | assumption | apply Stays.ite | simp only [Stays.mk_rings (hπ.sub (by decide))]

theorem raiseRing_stays (hπ : AllFree π 524296) (r k : Nat) (hF : Stays π r0 s) :
    Stays π r0 (raiseRing r k s) := by
  unfold raiseRing
  try dsimp only
  with_reducible repeat' first
    | assumption | apply raise_stays (hπ.sub (by decide))

theorem sendLocal_stays (hπ : AllFree π 137438953480) (r : Nat) (mk : Nat → List Byte) (hF : Stays π r0 s) :
    Stays π r0 (sendLocal r mk s).2 := by
  unfold sendLocal
  try dsimp only
  with_reducible repeat' first
    | assumption | intro _ | apply incMod_stays (hπ.sub (by decide)) | apply onLink_stays (hπ.sub (by decide))
    | dsimp only

theorem countRing_stays (hπ : AllFree π 8) (r off lo : Nat) (hF : Stays π r0 s) :
    Stays π r0 (countRing r off lo s) := by
  unfold countRing
  try dsimp only
  with_reducible repeat' first
    | assumption | apply incHeld_stays (hπ.sub (by decide))

end Sys2Proof.Machine
end

