-- ==== Sys2Proof/Laws/StaySensing.lean ====
section
/-! SUPPORT. What the operations of Machine/Sensing.lean leave alone (Laws/Stays.lean). -/

set_option linter.unusedTactic false
set_option linter.unreachableTactic false
set_option linter.unusedVariables false

namespace Sys2Proof.Machine

variable {α : Type} {π : State → α} {r0 s : State}

theorem setAdc_stays (hπ : AllFree π 4294967296) (n : Nat) (x : Adc) (hF : Stays π r0 s) :
    Stays π r0 (setAdc n x s) := by
  unfold setAdc
  try dsimp only
  with_reducible repeat' first
    | assumption | simp only [Stays.mk_adcs (hπ.sub (by decide))]

theorem onAdc_stays (hπ : AllFree π 4294967296) (n : Nat) (f : Adc → Adc) (hF : Stays π r0 s) :
    Stays π r0 (onAdc n f s) := by
  unfold onAdc
  try dsimp only
  with_reducible repeat' first
    | assumption | apply setAdc_stays (hπ.sub (by decide))

theorem closeWin_stays (hπ : AllFree π 4294967296) (n : Nat) (start tick : Nat) (early : Bool) (hF : Stays π r0 s) :
    Stays π r0 (closeWin n start tick early s) := by
  unfold closeWin
  try dsimp only
  with_reducible repeat' first
    | assumption | apply Stays.ite | apply setAdc_stays (hπ.sub (by decide)) | split

theorem deliverSet_stays (hπ : AllFree π 4295491592) (n : Nat) (c : Closed) (hF : Stays π r0 s) :
    Stays π r0 (deliverSet n c s) := by
  unfold deliverSet
  try dsimp only
  with_reducible repeat' first
    | assumption | apply Stays.ite | apply setAdc_stays (hπ.sub (by decide)) | apply wr_stays (hπ.sub (by decide))
    | apply wrb_stays (hπ.sub (by decide)) | apply raise_stays (hπ.sub (by decide))

theorem beginEntry_stays (hπ : AllFree π 4294967296) (n : Nat) (hF : Stays π r0 s) :
    Stays π r0 (beginEntry n s) := by
  unfold beginEntry
  try dsimp only
  with_reducible repeat' first
    | assumption | intro _ | apply onAdc_stays (hπ.sub (by decide))

theorem storeResult_stays (hπ : AllFree π 4294967304) (n : Nat) (hF : Stays π r0 s) :
    Stays π r0 (storeResult n s) := by
  unfold storeResult
  try dsimp only
  with_reducible repeat' first
    | assumption | intro _ | apply onAdc_stays (hπ.sub (by decide)) | apply wr_stays (hπ.sub (by decide))
    | split

theorem applyDeferred_stays (hπ : AllFree π 4294967312) (n : Nat) (hF : Stays π r0 s) :
    Stays π r0 (applyDeferred n s) := by
  unfold applyDeferred
  try dsimp only
  with_reducible repeat' first
    | assumption | intro _ | apply Stays.ite | apply setAdc_stays (hπ.sub (by decide))
    | apply forEach_stays | apply setForce_stays (hπ.sub (by decide)) | split

theorem regularFrom_stays (hπ : AllFree π 4295491608) (n i : Nat) (again : Bool) (hF : Stays π r0 s) :
    Stays π r0 (regularFrom n i again s) := by
  unfold regularFrom
  try dsimp only
  with_reducible repeat' first
    | assumption | intro _ | apply Stays.ite | apply beginEntry_stays (hπ.sub (by decide))
    | apply onAdc_stays (hπ.sub (by decide)) | apply raise_stays (hπ.sub (by decide)) | apply applyDeferred_stays (hπ.sub (by decide))

theorem regularTrigger_stays (hπ : AllFree π 4295491608) (n : Nat) (hF : Stays π r0 s) :
    Stays π r0 (regularTrigger n s) := by
  unfold regularTrigger
  try dsimp only
  with_reducible repeat' first
    | assumption | apply Stays.ite | apply raise_stays (hπ.sub (by decide)) | apply incHeld_stays (hπ.sub (by decide))
    | apply setAdc_stays (hπ.sub (by decide)) | apply regularFrom_stays (hπ.sub (by decide))

theorem urgentTrigger_stays (hπ : AllFree π 4295491592) (n : Nat) (hF : Stays π r0 s) :
    Stays π r0 (urgentTrigger n s) := by
  unfold urgentTrigger
  try dsimp only
  with_reducible repeat' first
    | assumption | apply Stays.ite | apply raise_stays (hπ.sub (by decide)) | apply incHeld_stays (hπ.sub (by decide))
    | apply setAdc_stays (hπ.sub (by decide)) | apply beginEntry_stays (hπ.sub (by decide))
    | split

theorem advanceSeq_stays (hπ : AllFree π 4295491608) (n : Nat) (hF : Stays π r0 s) :
    Stays π r0 (advanceSeq n s) := by
  unfold advanceSeq
  try dsimp only
  with_reducible repeat' first
    | assumption | intro _ | apply Stays.ite | apply beginEntry_stays (hπ.sub (by decide))
    | apply setAdc_stays (hπ.sub (by decide)) | apply raise_stays (hπ.sub (by decide))
    | apply applyDeferred_stays (hπ.sub (by decide)) | apply onAdc_stays (hπ.sub (by decide))
    | apply regularFrom_stays (hπ.sub (by decide)) | split

theorem stopAdc_stays (hπ : AllFree π 4294967296) (n : Nat) (hF : Stays π r0 s) :
    Stays π r0 (stopAdc n s) := by
  unfold stopAdc
  try dsimp only
  with_reducible repeat' first
    | assumption | intro _ | apply onAdc_stays (hπ.sub (by decide))

theorem commitAdc_stays (hπ : AllFree π 6447169560) (n : Nat) (bound : Option Nat) (start tick ended : Nat) (hF : Stays π r0 s) :
    Stays π r0 (commitAdc n bound start tick ended s) := by
  unfold commitAdc
  try dsimp only
  with_reducible repeat' first
    | assumption | intro _ | apply Stays.ite | apply raise_stays (hπ.sub (by decide))
    | apply refuseGroup_stays (hπ.sub (by decide)) | apply boundary_stays (hπ.sub (by decide))
    | apply closeWin_stays (hπ.sub (by decide)) | apply forEach_stays | apply setForce_stays (hπ.sub (by decide))
    | apply onAdc_stays (hπ.sub (by decide)) | apply wrf_stays (hπ.sub (by decide)) | apply closeGroup_stays (hπ.sub (by decide))
    | apply wrb_stays (hπ.sub (by decide)) | apply stopAdc_stays (hπ.sub (by decide)) | apply regularFrom_stays (hπ.sub (by decide))
    | split

theorem adcBoundary_stays (hπ : AllFree π 6447169560) (d start tick ended : Nat) (fresh : Bool) (hF : Stays π r0 s) :
    Stays π r0 (adcBoundary d start tick ended fresh s) := by
  unfold adcBoundary
  try dsimp only
  with_reducible repeat' first
    | assumption | intro _ | apply Stays.ite | apply forEach_stays | apply closeWin_stays (hπ.sub (by decide))
    | apply onAdc_stays (hπ.sub (by decide)) | apply commitAdc_stays (hπ.sub (by decide))

theorem execConverterGroupCommit_stays (hπ : AllFree π 6447169561) (n : Fin 32) (hF : Stays π r0 s) :
    ∃ s1, execConverterGroupCommit n s = .next s1 ∧ Stays π r0 s1 := by
  refine ⟨_, rfl, ?_⟩
  try dsimp only
  with_reducible repeat' first
    | assumption | apply Stays.ite | apply upto_stays (hπ.sub (by decide)) | apply commitAdc_stays (hπ.sub (by decide))
    | split

theorem execSlotEnd_stays (hπ : AllFree π 4294967297) (n : Fin 32) (code : Int) (side : Fin 3) (err : Bool) (hF : Stays π r0 s) :
    ∃ s1, execSlotEnd n code side err s = .next s1 ∧ Stays π r0 s1 := by
  refine ⟨_, rfl, ?_⟩
  try dsimp only
  with_reducible repeat' first
    | assumption | intro _ | apply Stays.ite | apply setAdc_stays (hπ.sub (by decide))
    | apply upto_stays (hπ.sub (by decide)) | split

theorem execAvgRead_stays (hπ : AllFree π 70368744701992) (m : Master) (n : Fin 32) (hF : Stays π r0 s) :
    ∃ s1, execAvgRead m n s = .next s1 ∧ Stays π r0 s1 := by
  refine ⟨_, rfl, ?_⟩
  try dsimp only
  with_reducible repeat' first
    | assumption | intro _ | apply readAt_stays (hπ.sub (by decide)) | apply forEach_stays
    | apply wr_stays (hπ.sub (by decide)) | apply respond_stays (hπ.sub (by decide))

theorem execRegularTrigger_stays (hπ : AllFree π 4295491608) (n : Fin 32) (hF : Stays π r0 s) :
    ∃ s1, execRegularTrigger n s = .next s1 ∧ Stays π r0 s1 := by
  refine ⟨_, rfl, ?_⟩
  try dsimp only
  with_reducible repeat' first
    | assumption | intro _ | apply Stays.ite | apply regularTrigger_stays (hπ.sub (by decide))
    | apply onAdc_stays (hπ.sub (by decide)) | split

theorem execUrgentTrigger_stays (hπ : AllFree π 4295491592) (n : Fin 32) (hF : Stays π r0 s) :
    ∃ s1, execUrgentTrigger n s = .next s1 ∧ Stays π r0 s1 := by
  refine ⟨_, rfl, ?_⟩
  try dsimp only
  with_reducible repeat' first
    | assumption | intro _ | apply Stays.ite | apply urgentTrigger_stays (hπ.sub (by decide))
    | apply onAdc_stays (hπ.sub (by decide)) | split

theorem entryResult_stays (hπ : AllFree π 4295491592) (n k : Nat) (c : Int) (sat again : Bool) (hF : Stays π r0 s) :
    Stays π r0 (entryResult n k c sat again s) := by
  unfold entryResult
  try dsimp only
  with_reducible repeat' first
    | assumption | apply Stays.ite | apply setAdc_stays (hπ.sub (by decide)) | apply raise_stays (hπ.sub (by decide))

theorem execEntryEnd_stays (hπ : AllFree π 4295491609) (n : Fin 32) (code : Int) (side : Fin 3) (hF : Stays π r0 s) :
    ∃ s1, execEntryEnd n code side s = .next s1 ∧ Stays π r0 s1 := by
  refine ⟨_, rfl, ?_⟩
  try dsimp only
  with_reducible repeat' first
    | assumption | apply Stays.ite | apply storeResult_stays (hπ.sub (by decide))
    | apply upto_stays (hπ.sub (by decide)) | apply advanceSeq_stays (hπ.sub (by decide))
    | apply entryResult_stays (hπ.sub (by decide)) | split

theorem swStart_stays (hπ : AllFree π 4295491608) (n : Nat) (hF : Stays π r0 s) :
    Stays π r0 (swStart n s) := by
  unfold swStart
  try dsimp only
  with_reducible repeat' first
    | assumption | apply Stays.ite | apply regularTrigger_stays (hπ.sub (by decide))

theorem execSwStart_stays (hπ : AllFree π 70373039669273) (m : Master) (n : Fin 32) (hF : Stays π r0 s) :
    ∃ s1, execSwStart m n s = .next s1 ∧ Stays π r0 s1 := by
  refine ⟨_, rfl, ?_⟩
  try dsimp only
  with_reducible repeat' first
    | assumption | intro _ | apply byBus_stays (hπ.sub (by decide)) | apply swStart_stays (hπ.sub (by decide))

theorem execConverterReady_stays (hπ : AllFree π 4295491593) (n : Fin 32) (hF : Stays π r0 s) :
    ∃ s1, execConverterReady n s = .next s1 ∧ Stays π r0 s1 := by
  refine ⟨_, rfl, ?_⟩
  try dsimp only
  with_reducible repeat' first
    | assumption | intro _ | apply Stays.ite | apply onAdc_stays (hπ.sub (by decide))
    | apply upto_stays (hπ.sub (by decide)) | apply raise_stays (hπ.sub (by decide)) | apply wrb_stays (hπ.sub (by decide))
    | split

theorem execLpSettled_stays (hπ : AllFree π 4294967297) (n : Fin 32) (hF : Stays π r0 s) :
    ∃ s1, execLpSettled n s = .next s1 ∧ Stays π r0 s1 := by
  refine ⟨_, rfl, ?_⟩
  try dsimp only
  with_reducible repeat' first
    | assumption | intro _ | apply Stays.ite | apply onAdc_stays (hπ.sub (by decide))
    | apply upto_stays (hπ.sub (by decide)) | split

theorem execResultRead_stays (hπ : AllFree π 70373039669288) (m : Master) (n : Fin 32) (i : Fin 20) (hF : Stays π r0 s) :
    ∃ s1, execResultRead m n i s = .next s1 ∧ Stays π r0 s1 := by
  refine ⟨_, rfl, ?_⟩
  try dsimp only
  with_reducible repeat' first
    | assumption | intro _ | apply Stays.ite | apply readAt_stays (hπ.sub (by decide))
    | apply onAdc_stays (hπ.sub (by decide)) | apply respond_stays (hπ.sub (by decide))
    | apply wr_stays (hπ.sub (by decide))

end Sys2Proof.Machine
end

