-- ==== Sys2Proof/Laws/StayGrid.lean ====
section
/-! SUPPORT. What the operations of Machine/Grid.lean leave alone (Laws/Stays.lean). -/

set_option linter.unusedTactic false
set_option linter.unreachableTactic false
set_option linter.unusedVariables false

namespace Sys2Proof.Machine

variable {α : Type} {π : State → α} {r0 s : State}

theorem setGrid_stays (hπ : AllFree π 274877906944) (g : Nat) (x : Grid) (hF : Stays π r0 s) :
    Stays π r0 (setGrid g x s) := by
  unfold setGrid
  try dsimp only
  with_reducible repeat' first
    | assumption | simp only [Stays.mk_grids (hπ.sub (by decide))]

theorem onGrid_stays (hπ : AllFree π 274877906944) (g : Nat) (f : Grid → Grid) (hF : Stays π r0 s) :
    Stays π r0 (onGrid g f s) := by
  unfold onGrid
  try dsimp only
  with_reducible repeat' first
    | assumption | apply setGrid_stays (hπ.sub (by decide))

theorem raiseGrid_stays (hπ : AllFree π 524296) (g k : Nat) (hF : Stays π r0 s) :
    Stays π r0 (raiseGrid g k s) := by
  unfold raiseGrid
  try dsimp only
  with_reducible repeat' first
    | assumption | apply raise_stays (hπ.sub (by decide))

theorem logWith_stays (hπ : AllFree π 1048578) (page : Nat) (payload : List Word) (hF : Stays π r0 s) :
    Stays π r0 (logWith page payload s) := by
  unfold logWith
  try dsimp only
  with_reducible repeat' first
    | assumption | apply draw_stays (hπ.sub (by decide)) | apply logIt_stays (hπ.sub (by decide))
    | refine Stays.of_snd (by assumption) ?_ | split | dsimp only

theorem gridClose_stays (hπ : AllFree π 557064) (g : Nat) (hF : Stays π r0 s) :
    Stays π r0 (gridClose g s) := by
  unfold gridClose
  try dsimp only
  with_reducible repeat' first
    | assumption | apply Stays.ite | apply soutGrant_getD_stays (hπ.sub (by decide))

theorem tripCause_stays (hπ : AllFree π 524296) (g cause entry : Nat) (hF : Stays π r0 s) :
    Stays π r0 (tripCause g cause entry s) := by
  unfold tripCause
  try dsimp only
  with_reducible repeat' first
    | assumption | apply Stays.ite | apply incHeld_stays (hπ.sub (by decide)) | apply wr_stays (hπ.sub (by decide))
    | apply raiseGrid_stays (hπ.sub (by decide))

theorem gridTo_stays (hπ : AllFree π 274879512586) (g st cause entry : Nat) (hF : Stays π r0 s) :
    Stays π r0 (gridTo g st cause entry s) := by
  unfold gridTo
  try dsimp only
  with_reducible repeat' first
    | assumption | intro _ | apply Stays.ite | apply onGrid_stays (hπ.sub (by decide))
    | apply raiseGrid_stays (hπ.sub (by decide)) | apply logWith_stays (hπ.sub (by decide))
    | apply tripCause_stays (hπ.sub (by decide)) | apply portOpen_stays (hπ.sub (by decide))

theorem gridCurves_stays (hπ : AllFree π 274878431240) (g len : Nat) (hF : Stays π r0 s) :
    Stays π r0 (gridCurves g len s) := by
  unfold gridCurves
  try dsimp only
  with_reducible repeat' first
    | assumption | intro _ | apply Stays.ite | apply forEach_stays | apply setGrid_stays (hπ.sub (by decide))
    | apply raiseGrid_stays (hπ.sub (by decide)) | split

theorem followStep_stays (hπ : AllFree π 275952173064) (g t : Nat) (hF : Stays π r0 s) :
    Stays π r0 (followStep g t s) := by
  unfold followStep
  try dsimp only
  with_reducible repeat' first
    | assumption | apply Stays.ite | apply setGrid_stays (hπ.sub (by decide)) | apply raise_stays (hπ.sub (by decide))
    | simp only [Stays.mk_datum (hπ.sub (by decide))] | split

theorem followShown_stays (hπ : AllFree π 1074266120) (g : Nat) (hF : Stays π r0 s) :
    Stays π r0 (followShown g s) := by
  unfold followShown
  try dsimp only
  with_reducible repeat' first
    | assumption | apply Stays.ite | apply raise_stays (hπ.sub (by decide)) | simp only [Stays.mk_datum (hπ.sub (by decide))]
    | split

theorem gridDecide_stays (hπ : AllFree π 274879512586) (g : Nat) (d : Int) (hF : Stays π r0 s) :
    Stays π r0 (gridDecide g d s) := by
  unfold gridDecide
  try dsimp only
  with_reducible repeat' first
    | assumption | apply Stays.ite | apply wr_stays (hπ.sub (by decide)) | apply gridTo_stays (hπ.sub (by decide))

theorem gridCoast_stays (hπ : AllFree π 274879512586) (g cause n : Nat) (hF : Stays π r0 s) :
    Stays π r0 (gridCoast g cause n s) := by
  unfold gridCoast
  try dsimp only
  with_reducible repeat' first
    | assumption | intro _ | apply Stays.ite | apply wr_stays (hπ.sub (by decide))
    | apply onGrid_stays (hπ.sub (by decide)) | apply gridTo_stays (hπ.sub (by decide))

theorem gridLeave_stays (hπ : AllFree π 275953254410) (g : Nat) (hF : Stays π r0 s) :
    Stays π r0 (gridLeave g s) := by
  unfold gridLeave
  try dsimp only
  with_reducible repeat' first
    | assumption | intro _ | apply Stays.ite | apply gridTo_stays (hπ.sub (by decide))
    | apply raise_stays (hπ.sub (by decide)) | apply onGrid_stays (hπ.sub (by decide))
    | simp only [Stays.mk_datum (hπ.sub (by decide))]

theorem gridStates_stays (hπ : AllFree π 275953254410) (g n : Nat) (jump : Option Int) (relocked : Bool) (hF : Stays π r0 s) :
    Stays π r0 (gridStates g n jump relocked s) := by
  unfold gridStates
  try dsimp only
  with_reducible repeat' first
    | assumption | intro _ | apply Stays.ite | apply gridLeave_stays (hπ.sub (by decide))
    | apply gridTo_stays (hπ.sub (by decide)) | apply gridDecide_stays (hπ.sub (by decide))
    | apply gridCoast_stays (hπ.sub (by decide)) | apply onGrid_stays (hπ.sub (by decide))
    | apply gridClose_stays (hπ.sub (by decide)) | split

theorem gridRefs_stays (hπ : AllFree π 274878431240) (g len old : Nat) (hF : Stays π r0 s) :
    Stays π r0 (gridRefs g len old s) := by
  unfold gridRefs
  try dsimp only
  with_reducible repeat' first
    | assumption | intro _ | apply Stays.ite | apply step_stays (hπ.sub (by decide))
    | apply setGrid_stays (hπ.sub (by decide)) | apply raiseGrid_stays (hπ.sub (by decide))
    | simp only [id_eq] | split

theorem gridUpdate_stays (hπ : AllFree π 275953254410) (g : Nat) (hF : Stays π r0 s) :
    Stays π r0 (gridUpdate g s) := by
  unfold gridUpdate
  try dsimp only
  with_reducible repeat' first
    | assumption | intro _ | apply Stays.ite | apply setGrid_stays (hπ.sub (by decide))
    | apply raiseGrid_stays (hπ.sub (by decide)) | apply incHeld_stays (hπ.sub (by decide))
    | apply gridCurves_stays (hπ.sub (by decide)) | apply wr_stays (hπ.sub (by decide))
    | apply followStep_stays (hπ.sub (by decide)) | apply onGrid_stays (hπ.sub (by decide))
    | apply followShown_stays (hπ.sub (by decide)) | apply gridStates_stays (hπ.sub (by decide))
    | apply gridRefs_stays (hπ.sub (by decide)) | split

theorem gridBoundary_stays (hπ : AllFree π 277030109208) (d tk ended : Nat) (fresh : Bool) (hF : Stays π r0 s) :
    Stays π r0 (gridBoundary d tk ended fresh s) := by
  unfold gridBoundary
  try dsimp only
  with_reducible repeat' first
    | assumption | intro _ | apply Stays.ite | apply forEach_stays | apply setGrid_stays (hπ.sub (by decide))
    | apply wr_stays (hπ.sub (by decide)) | apply closeGroup_stays (hπ.sub (by decide))
    | apply commitRegs_stays (hπ.sub (by decide)) | apply wrb_stays (hπ.sub (by decide))
    | apply raiseGrid_stays (hπ.sub (by decide)) | apply refuseGroup_stays (hπ.sub (by decide))
    | split

theorem writeGridCtl_stays (hπ : AllFree π 274879512586) (g : Nat) (v : Word) (hF : Stays π r0 s) :
    Stays π r0 (writeGridCtl g v s) := by
  unfold writeGridCtl
  try dsimp only
  with_reducible repeat' first
    | assumption | intro _ | apply Stays.ite | apply raiseGrid_stays (hπ.sub (by decide))
    | apply gridTo_stays (hπ.sub (by decide)) | apply onGrid_stays (hπ.sub (by decide))
    | split

theorem writeCurve_stays (hπ : AllFree π 274877906952) (g off : Nat) (v : Word) (hF : Stays π r0 s) :
    Stays π r0 (writeCurve g off v s) := by
  unfold writeCurve
  try dsimp only
  with_reducible repeat' first
    | assumption | intro _ | apply plainWrite_stays (hπ.sub (by decide)) | apply onGrid_stays (hπ.sub (by decide))

theorem writeGrid_stays (hπ : AllFree π 274879512586) (g off : Nat) (v : Word) (hF : Stays π r0 s) :
    Stays π r0 (writeGrid g off v s) := by
  unfold writeGrid
  try dsimp only
  with_reducible repeat' first
    | assumption | apply Stays.ite | apply writeGridCtl_stays (hπ.sub (by decide))
    | apply writeCurve_stays (hπ.sub (by decide)) | apply plainWrite_stays (hπ.sub (by decide))

theorem gridsOff_stays (hπ : AllFree π 275952205832)  (hF : Stays π r0 s) :
    Stays π r0 (gridsOff s) := by
  unfold gridsOff
  try dsimp only
  with_reducible repeat' first
    | assumption | intro _ | apply Stays.ite | apply forEach_stays | apply portOpen_stays (hπ.sub (by decide))
    | apply raise_stays (hπ.sub (by decide)) | simp only [Stays.mk_datum_grids (hπ.sub (by decide))]

theorem execCurveEntryWrite_stays (hπ : AllFree π 70643622608905) (m : Master) (g : Fin 4) (e : Fin 32) (ecfg : Bool) (v : Word) (hF : Stays π r0 s) :
    ∃ s1, execCurveEntryWrite m g e ecfg v s = .next s1 ∧ Stays π r0 s1 := by
  refine ⟨_, rfl, ?_⟩
  try dsimp only
  with_reducible repeat' first
    | assumption | intro _ | apply Stays.ite | apply byBus_stays (hπ.sub (by decide))
    | apply writeCurve_stays (hπ.sub (by decide))

end Sys2Proof.Machine
end

