-- ==== Sys2Proof/Laws/StayLanes.lean ====
section
/-! SUPPORT. What the operations of Machine/Lanes.lean leave alone (Laws/Stays.lean). -/

set_option linter.unusedTactic false
set_option linter.unreachableTactic false
set_option linter.unusedVariables false

namespace Sys2Proof.Machine

variable {α : Type} {π : State → α} {r0 s : State}

theorem setLane_stays (hπ : AllFree π 8589934592) (n : Nat) (x : Lane) (hF : Stays π r0 s) :
    Stays π r0 (setLane n x s) := by
  unfold setLane
  try dsimp only
  with_reducible repeat' first
    | assumption | simp only [Stays.mk_lanes (hπ.sub (by decide))]

theorem onLane_stays (hπ : AllFree π 8589934592) (n : Nat) (f : Lane → Lane) (hF : Stays π r0 s) :
    Stays π r0 (onLane n f s) := by
  unfold onLane
  try dsimp only
  with_reducible repeat' first
    | assumption | apply setLane_stays (hπ.sub (by decide))

theorem wref_stays (hπ : AllFree π 524296) (n : Nat) (hF : Stays π r0 s) :
    Stays π r0 (wref n s) := by
  unfold wref
  try dsimp only
  with_reducible repeat' first
    | assumption | apply raise_stays (hπ.sub (by decide))

theorem writeTileWord_stays (hπ : AllFree π 64) (t w : Nat) (v : Word) (hF : Stays π r0 s) :
    Stays π r0 (writeTileWord t w v s) := by
  unfold writeTileWord
  try dsimp only
  with_reducible repeat' first
    | assumption | apply Stays.ite | apply memWrWord_stays (hπ.sub (by decide))

theorem engWriteWord_stays (hπ : AllFree π 17180393544) (a : Nat) (v : Word) (hF : Stays π r0 s) :
    Stays π r0 (engWriteWord a v s) := by
  unfold engWriteWord
  try dsimp only
  with_reducible repeat' first
    | assumption | intro _ | apply Stays.ite | apply forEach_stays | apply wref_stays (hπ.sub (by decide))
    | apply writeTileWord_stays (hπ.sub (by decide)) | simp only [Stays.mk_eng (hπ.sub (by decide))]
    | split

theorem releaseHeld_stays (hπ : AllFree π 17179869248) (n : Nat) (k : Nat) (hF : Stays π r0 s) :
    Stays π r0 (releaseHeld n k  s) := by
  induction k generalizing s  with
  | zero => exact hF
  | succ k ih =>
  rw [releaseHeld]
  try dsimp only
  with_reducible repeat' first
    | assumption | intro _ | apply Stays.ite | apply ih | apply writeTileWord_stays (hπ.sub (by decide))
    | simp only [Stays.mk_eng (hπ.sub (by decide))] | refine Stays.of_snd (by assumption) ?_
    | refine Stays.of_fst (by assumption) ?_ | simp only [id_eq] | split | dsimp only

theorem releaseUnmapped_stays (hπ : AllFree π 17179869248)  (hF : Stays π r0 s) :
    Stays π r0 (releaseUnmapped s) := by
  unfold releaseUnmapped
  try dsimp only
  with_reducible repeat' first
    | assumption | intro _ | apply Stays.ite | apply forEach_stays | apply releaseHeld_stays (hπ.sub (by decide))
    | split

theorem writeTtype_stays (hπ : AllFree π 17179869256) (j : Nat) (v : Word) (hF : Stays π r0 s) :
    Stays π r0 (writeTtype j v s) := by
  unfold writeTtype
  try dsimp only
  with_reducible repeat' first
    | assumption | intro _ | apply Stays.ite | apply forEach_stays | apply wrb_stays (hπ.sub (by decide))
    | apply wrf_stays (hπ.sub (by decide)) | apply memWrWord_stays (hπ.sub (by decide))
    | apply releaseUnmapped_stays (hπ.sub (by decide))

theorem requestSwap_stays (hπ : AllFree π 25769803776) (n : Nat) (hF : Stays π r0 s) :
    Stays π r0 (requestSwap n s) := by
  unfold requestSwap
  try dsimp only
  with_reducible repeat' first
    | assumption | intro _ | apply Stays.ite | apply onLane_stays (hπ.sub (by decide))
    | simp only [Stays.mk_eng (hπ.sub (by decide))]

theorem refuseAll_stays (hπ : AllFree π 17180393480) (errBit : Nat) (hF : Stays π r0 s) :
    Stays π r0 (refuseAll errBit s) := by
  unfold refuseAll
  try dsimp only
  with_reducible repeat' first
    | assumption | intro _ | apply forEach_stays | apply raise_stays (hπ.sub (by decide))
    | apply wrb_stays (hπ.sub (by decide)) | simp only [Stays.mk_eng (hπ.sub (by decide))]

theorem requestSwapAll_stays (hπ : AllFree π 17179869184)  (hF : Stays π r0 s) :
    Stays π r0 (requestSwapAll s) := by
  unfold requestSwapAll
  try dsimp only
  with_reducible repeat' first
    | assumption | intro _ | apply Stays.ite | simp only [Stays.mk_eng (hπ.sub (by decide))]
    | split

theorem cancelSwaps_stays (hπ : AllFree π 25769803776)  (hF : Stays π r0 s) :
    Stays π r0 (cancelSwaps s) := by
  unfold cancelSwaps
  try dsimp only
  with_reducible repeat' first
    | assumption | intro _ | apply forEach_stays | apply onLane_stays (hπ.sub (by decide))
    | simp only [Stays.mk_eng (hπ.sub (by decide))]

theorem writeEngcCtrl_stays (hπ : AllFree π 25769803784) (v : Word) (hF : Stays π r0 s) :
    Stays π r0 (writeEngcCtrl v s) := by
  unfold writeEngcCtrl
  try dsimp only
  with_reducible repeat' first
    | assumption | apply Stays.ite | apply wrb_stays (hπ.sub (by decide)) | apply cancelSwaps_stays (hπ.sub (by decide))
    | apply requestSwapAll_stays (hπ.sub (by decide))

theorem writeVerify_stays (hπ : AllFree π 17179869192) (v : Word) (hF : Stays π r0 s) :
    Stays π r0 (writeVerify v s) := by
  unfold writeVerify
  try dsimp only
  with_reducible repeat' first
    | assumption | apply Stays.ite | apply wrf_stays (hπ.sub (by decide)) | apply wrb_stays (hπ.sub (by decide))
    | simp only [Stays.mk_eng (hπ.sub (by decide))]

theorem doSwap_stays (hπ : AllFree π 25770328136) (n : Nat) (hF : Stays π r0 s) :
    Stays π r0 (doSwap n s) := by
  unfold doSwap
  try dsimp only
  with_reducible repeat' first
    | assumption | intro _ | apply onLane_stays (hπ.sub (by decide)) | apply raise_stays (hπ.sub (by decide))
    | apply releaseUnmapped_stays (hπ.sub (by decide))

theorem laneSwaps_stays (hπ : AllFree π 25770328136) (d tk : Nat) (hF : Stays π r0 s) :
    Stays π r0 (laneSwaps d tk s) := by
  unfold laneSwaps
  try dsimp only
  with_reducible repeat' first
    | assumption | intro _ | apply Stays.ite | apply forEach_stays | apply doSwap_stays (hπ.sub (by decide))
    | split

theorem globalSwapDue_stays (hπ : AllFree π 25770328136) (cycle : Nat) (hF : Stays π r0 s) :
    Stays π r0 (globalSwapDue cycle s) := by
  unfold globalSwapDue
  try dsimp only
  with_reducible repeat' first
    | assumption | intro _ | apply Stays.ite | apply refuseAll_stays (hπ.sub (by decide))
    | apply forEach_stays | apply doSwap_stays (hπ.sub (by decide)) | apply onLane_stays (hπ.sub (by decide))
    | simp only [Stays.mk_eng (hπ.sub (by decide))] | split

theorem writeLaneCtrl_stays (hπ : AllFree π 25770328136) (n : Nat) (v : Word) (hF : Stays π r0 s) :
    Stays π r0 (writeLaneCtrl n v s) := by
  unfold writeLaneCtrl
  try dsimp only
  with_reducible repeat' first
    | assumption | intro _ | apply Stays.ite | apply wref_stays (hπ.sub (by decide))
    | apply wrf_stays (hπ.sub (by decide)) | apply wrb_stays (hπ.sub (by decide)) | apply wr_stays (hπ.sub (by decide))
    | apply onLane_stays (hπ.sub (by decide)) | apply releaseUnmapped_stays (hπ.sub (by decide))
    | apply requestSwap_stays (hπ.sub (by decide))

theorem writeBank_stays (hπ : AllFree π 524296) (n off : Nat) (v : Word) (hF : Stays π r0 s) :
    Stays π r0 (writeBank n off v s) := by
  unfold writeBank
  try dsimp only
  with_reducible repeat' first
    | assumption | apply Stays.ite | apply wref_stays (hπ.sub (by decide)) | apply plainWrite_stays (hπ.sub (by decide))
    | split

theorem execLaneEnable_stays (hπ : AllFree π 70394514505801) (m : Master) (n : Fin 32) (hF : Stays π r0 s) :
    ∃ s1, execLaneEnable m n s = .next s1 ∧ Stays π r0 s1 := by
  refine ⟨_, rfl, ?_⟩
  try dsimp only
  with_reducible repeat' first
    | assumption | intro _ | apply byBus_stays (hπ.sub (by decide)) | apply writeLaneCtrl_stays (hπ.sub (by decide))

theorem execLaneDisable_stays (hπ : AllFree π 70394514505801) (m : Master) (n : Fin 32) (hF : Stays π r0 s) :
    ∃ s1, execLaneDisable m n s = .next s1 ∧ Stays π r0 s1 := by
  refine ⟨_, rfl, ?_⟩
  try dsimp only
  with_reducible repeat' first
    | assumption | intro _ | apply byBus_stays (hπ.sub (by decide)) | apply writeLaneCtrl_stays (hπ.sub (by decide))

theorem execSwap_stays (hπ : AllFree π 70394514505737) (m : Master) (n : Fin 32) (hF : Stays π r0 s) :
    ∃ s1, execSwap m n s = .next s1 ∧ Stays π r0 s1 := by
  refine ⟨_, rfl, ?_⟩
  try dsimp only
  with_reducible repeat' first
    | assumption | intro _ | apply byBus_stays (hπ.sub (by decide)) | apply requestSwap_stays (hπ.sub (by decide))

theorem execBankVerified_stays (hπ : AllFree π 25770328073) (n : Fin 32) (hF : Stays π r0 s) :
    ∃ s1, execBankVerified n s = .next s1 ∧ Stays π r0 s1 := by
  refine ⟨_, rfl, ?_⟩
  try dsimp only
  with_reducible repeat' first
    | assumption | intro _ | apply Stays.ite | apply upto_stays (hπ.sub (by decide))
    | apply onLane_stays (hπ.sub (by decide)) | apply raise_stays (hπ.sub (by decide))
    | apply wrb_stays (hπ.sub (by decide)) | simp only [Stays.mk_eng (hπ.sub (by decide))]
    | split

theorem execTileTypeWrite_stays (hπ : AllFree π 70385924571209) (m : Master) (j : Fin 16) (v : Word) (hF : Stays π r0 s) :
    ∃ s1, execTileTypeWrite m j v s = .next s1 ∧ Stays π r0 s1 := by
  refine ⟨_, rfl, ?_⟩
  try dsimp only
  with_reducible repeat' first
    | assumption | intro _ | apply byBus_stays (hπ.sub (by decide)) | apply writeTtype_stays (hπ.sub (by decide))

theorem engBusWrite_stays (hπ : AllFree π 17180393544) (m : Master) (a : Nat) (ws : List Word) (hF : Stays π r0 s) :
    Stays π r0 (engBusWrite m a ws s) := by
  unfold engBusWrite
  try dsimp only
  with_reducible repeat' first
    | assumption | intro _ | apply Stays.ite | apply forEach_stays | apply engWriteWord_stays (hπ.sub (by decide))
    | apply wref_stays (hπ.sub (by decide))

theorem execEngineMemoryWrite_stays (hπ : AllFree π 70385924571241) (m : Master) (a : Nat) (ws : List Word) (hF : Stays π r0 s) :
    ∃ s1, execEngineMemoryWrite m a ws s = .next s1 ∧ Stays π r0 s1 := by
  refine ⟨_, rfl, ?_⟩
  try dsimp only
  with_reducible repeat' first
    | assumption | apply Stays.ite | apply pmcAccess_stays (hπ.sub (by decide)) | apply busError_stays (hπ.sub (by decide))
    | apply busCycle_stays (hπ.sub (by decide)) | apply engBusWrite_stays (hπ.sub (by decide))

theorem execTileVerify_stays (hπ : AllFree π 70385924571145) (m : Master) (tile : Byte) (hF : Stays π r0 s) :
    ∃ s1, execTileVerify m tile s = .next s1 ∧ Stays π r0 s1 := by
  refine ⟨_, rfl, ?_⟩
  try dsimp only
  with_reducible repeat' first
    | assumption | intro _ | apply byBus_stays (hπ.sub (by decide)) | apply writeVerify_stays (hπ.sub (by decide))

theorem execTileVerifyDone_stays (hπ : AllFree π 9)  (hF : Stays π r0 s) :
    ∃ s1, execTileVerifyDone s = .next s1 ∧ Stays π r0 s1 := by
  refine ⟨_, rfl, ?_⟩
  try dsimp only
  with_reducible repeat' first
    | assumption | apply Stays.ite | apply upto_stays (hπ.sub (by decide)) | apply wr_stays (hπ.sub (by decide))
    | apply wrb_stays (hπ.sub (by decide)) | split

end Sys2Proof.Machine
end

