-- ==== Sys2Proof/Laws/StaySoundings.lean ====
section
/-! SUPPORT. What the operations of Machine/Soundings.lean leave alone (Laws/Stays.lean). -/

set_option linter.unusedTactic false
set_option linter.unreachableTactic false
set_option linter.unusedVariables false

namespace Sys2Proof.Machine

variable {α : Type} {π : State → α} {r0 s : State}

theorem setGen_stays (hπ : AllFree π 34359738368) (g : Nat) (x : Gen) (hF : Stays π r0 s) :
    Stays π r0 (setGen g x s) := by
  unfold setGen
  try dsimp only
  with_reducible repeat' first
    | assumption | simp only [Stays.mk_gens (hπ.sub (by decide))]

theorem onGen_stays (hπ : AllFree π 34359738368) (g : Nat) (f : Gen → Gen) (hF : Stays π r0 s) :
    Stays π r0 (onGen g f s) := by
  unfold onGen
  try dsimp only
  with_reducible repeat' first
    | assumption | apply setGen_stays (hπ.sub (by decide))

theorem setGenState_stays (hπ : AllFree π 8) (g st : Nat) (hF : Stays π r0 s) :
    Stays π r0 (setGenState g st s) := by
  unfold setGenState
  try dsimp only
  with_reducible repeat' first
    | assumption | apply wrf_stays (hπ.sub (by decide))

theorem genFlag_stays (hπ : AllFree π 8) (g b : Nat) (hF : Stays π r0 s) :
    Stays π r0 (genFlag g b s) := by
  unfold genFlag
  try dsimp only
  with_reducible repeat' first
    | assumption | apply wrb_stays (hπ.sub (by decide))

theorem startGen_stays (hπ : AllFree π 34360262664) (g : Nat) (hF : Stays π r0 s) :
    Stays π r0 (startGen g s) := by
  unfold startGen
  try dsimp only
  with_reducible repeat' first
    | assumption | apply Stays.ite | apply raise_stays (hπ.sub (by decide)) | apply wrb_stays (hπ.sub (by decide))
    | apply wr_stays (hπ.sub (by decide)) | apply setGen_stays (hπ.sub (by decide)) | apply genFlag_stays (hπ.sub (by decide))

theorem abortGen_stays (hπ : AllFree π 34360262664) (g : Nat) (hF : Stays π r0 s) :
    Stays π r0 (abortGen g s) := by
  unfold abortGen
  try dsimp only
  with_reducible repeat' first
    | assumption | intro _ | apply Stays.ite | apply onGen_stays (hπ.sub (by decide))
    | apply setGenState_stays (hπ.sub (by decide)) | apply raise_stays (hπ.sub (by decide))

theorem writeGctl_stays (hπ : AllFree π 34360262664) (g : Nat) (v : Word) (hF : Stays π r0 s) :
    Stays π r0 (writeGctl g v s) := by
  unfold writeGctl
  try dsimp only
  with_reducible repeat' first
    | assumption | apply Stays.ite | apply startGen_stays (hπ.sub (by decide)) | apply abortGen_stays (hπ.sub (by decide))

theorem excite_stays (hπ : AllFree π 34359738368) (g : Nat) (hF : Stays π r0 s) :
    Stays π r0 (excite g s) := by
  unfold excite
  try dsimp only
  with_reducible repeat' first
    | assumption | apply Stays.ite | apply setGen_stays (hπ.sub (by decide)) | split

theorem genDone_stays (hπ : AllFree π 34360262664) (g : Nat) (hF : Stays π r0 s) :
    Stays π r0 (genDone g s) := by
  unfold genDone
  try dsimp only
  with_reducible repeat' first
    | assumption | intro _ | apply Stays.ite | apply genFlag_stays (hπ.sub (by decide))
    | apply raise_stays (hπ.sub (by decide)) | apply onGen_stays (hπ.sub (by decide)) | apply setGenState_stays (hπ.sub (by decide))

theorem genMeasure_stays (hπ : AllFree π 34360262664) (g : Nat) (hF : Stays π r0 s) :
    Stays π r0 (genMeasure g s) := by
  unfold genMeasure
  try dsimp only
  with_reducible repeat' first
    | assumption | intro _ | apply Stays.ite | apply genFlag_stays (hπ.sub (by decide))
    | apply onGen_stays (hπ.sub (by decide)) | apply setGenState_stays (hπ.sub (by decide))
    | apply genDone_stays (hπ.sub (by decide))

theorem genCount_stays (hπ : AllFree π 34360262664) (g : Nat) (hF : Stays π r0 s) :
    Stays π r0 (genCount g s) := by
  unfold genCount
  try dsimp only
  with_reducible repeat' first
    | assumption | intro _ | apply Stays.ite | apply onGen_stays (hπ.sub (by decide))
    | apply genMeasure_stays (hπ.sub (by decide)) | apply genDone_stays (hπ.sub (by decide))

theorem captureSet_stays (hπ : AllFree π 68719476744) (g : Nat) (hF : Stays π r0 s) :
    Stays π r0 (captureSet g s) := by
  unfold captureSet
  try dsimp only
  with_reducible repeat' first
    | assumption | intro _ | apply Stays.ite | apply genFlag_stays (hπ.sub (by decide))
    | apply forEach_stays | apply wrf_stays (hπ.sub (by decide)) | simp only [Stays.mk_capMem (hπ.sub (by decide))]

theorem genStep_stays (hπ : AllFree π 103079739400) (tk g : Nat) (hF : Stays π r0 s) :
    Stays π r0 (genStep tk g s) := by
  unfold genStep
  try dsimp only
  with_reducible repeat' first
    | assumption | intro _ | apply Stays.ite | apply onGen_stays (hπ.sub (by decide))
    | apply setGenState_stays (hπ.sub (by decide)) | apply abortGen_stays (hπ.sub (by decide))
    | apply genFlag_stays (hπ.sub (by decide)) | apply genMeasure_stays (hπ.sub (by decide))
    | apply excite_stays (hπ.sub (by decide)) | apply boundary_stays (hπ.sub (by decide))
    | apply captureSet_stays (hπ.sub (by decide)) | apply step_stays (hπ.sub (by decide))
    | apply genCount_stays (hπ.sub (by decide)) | split

theorem genBoundary_stays (hπ : AllFree π 103079739400) (d tk : Nat) (hF : Stays π r0 s) :
    Stays π r0 (genBoundary d tk s) := by
  unfold genBoundary
  try dsimp only
  with_reducible repeat' first
    | assumption | intro _ | apply Stays.ite | apply forEach_stays | apply genStep_stays (hπ.sub (by decide))

theorem gensDue_stays (hπ : AllFree π 103079739400) (cycle : Nat) (hF : Stays π r0 s) :
    Stays π r0 (gensDue cycle s) := by
  unfold gensDue
  try dsimp only
  with_reducible repeat' first
    | assumption | intro _ | apply Stays.ite | apply forEach_stays | apply genStep_stays (hπ.sub (by decide))
    | apply onGen_stays (hπ.sub (by decide)) | split

theorem gensLoseDatum_stays (hπ : AllFree π 34360262664)  (hF : Stays π r0 s) :
    Stays π r0 (gensLoseDatum s) := by
  unfold gensLoseDatum
  try dsimp only
  with_reducible repeat' first
    | assumption | intro _ | apply Stays.ite | apply forEach_stays | apply abortGen_stays (hπ.sub (by decide))
    | apply genFlag_stays (hπ.sub (by decide))

theorem probesLand_stays (hπ : AllFree π 34359738376) (n : Nat) (ws : List (Nat × Word)) (hF : Stays π r0 s) :
    Stays π r0 (probesLand n ws s) := by
  unfold probesLand
  try dsimp only
  with_reducible repeat' first
    | assumption | intro _ | apply Stays.ite | apply forEach_stays | apply genFlag_stays (hπ.sub (by decide))
    | apply onGen_stays (hπ.sub (by decide)) | apply incHeld_stays (hπ.sub (by decide))
    | apply setGen_stays (hπ.sub (by decide)) | split

theorem writeSnd_stays (hπ : AllFree π 34360655880) (m : Master) (off : Nat) (v : Word) (hF : Stays π r0 s) :
    Stays π r0 (writeSnd m off v s) := by
  unfold writeSnd
  try dsimp only
  with_reducible repeat' first
    | assumption | intro _ | apply Stays.ite | apply raise_stays (hπ.sub (by decide))
    | apply wrb_stays (hπ.sub (by decide)) | apply writeGctl_stays (hπ.sub (by decide))
    | apply rwlPath_stays (hπ.sub (by decide)) | apply plainWrite_stays (hπ.sub (by decide))
    | apply wr_stays (hπ.sub (by decide)) | simp only [id_eq] | split

theorem execGeneratorStart_stays (hπ : AllFree π 70403104833545) (m : Master) (g : Fin 8) (hF : Stays π r0 s) :
    ∃ s1, execGeneratorStart m g s = .next s1 ∧ Stays π r0 s1 := by
  refine ⟨_, rfl, ?_⟩
  try dsimp only
  with_reducible repeat' first
    | assumption | intro _ | apply byBus_stays (hπ.sub (by decide)) | apply writeSnd_stays (hπ.sub (by decide))

theorem execGeneratorStop_stays (hπ : AllFree π 70403104833545) (m : Master) (g : Fin 8) (hF : Stays π r0 s) :
    ∃ s1, execGeneratorStop m g s = .next s1 ∧ Stays π r0 s1 := by
  refine ⟨_, rfl, ?_⟩
  try dsimp only
  with_reducible repeat' first
    | assumption | intro _ | apply byBus_stays (hπ.sub (by decide)) | apply writeSnd_stays (hπ.sub (by decide))

theorem execCapDataRead_stays (hπ : AllFree π 70368744701992) (m : Master) (hF : Stays π r0 s) :
    ∃ s1, execCapDataRead m s = .next s1 ∧ Stays π r0 s1 := by
  refine ⟨_, rfl, ?_⟩
  try dsimp only
  with_reducible repeat' first
    | assumption | intro _ | apply readAt_stays (hπ.sub (by decide)) | apply respond_stays (hπ.sub (by decide))
    | apply wrf_stays (hπ.sub (by decide))

theorem execIaccLoRead_stays (hπ : AllFree π 70368744701992) (m : Master) (g : Fin 8) (j : Fin 8) (hF : Stays π r0 s) :
    ∃ s1, execIaccLoRead m g j s = .next s1 ∧ Stays π r0 s1 := by
  refine ⟨_, rfl, ?_⟩
  try dsimp only
  with_reducible repeat' first
    | assumption | intro _ | apply readAt_stays (hπ.sub (by decide)) | apply respond_stays (hπ.sub (by decide))
    | apply wr_stays (hπ.sub (by decide))

end Sys2Proof.Machine
end

