-- ==== Sys2Proof/Laws/StayIsl.lean ====
section
/-! SUPPORT. What the operations of Machine/Isl.lean leave alone (Laws/Stays.lean). -/

set_option linter.unusedTactic false
set_option linter.unreachableTactic false
set_option linter.unusedVariables false

namespace Sys2Proof.Machine

variable {α : Type} {π : State → α} {r0 s : State}

theorem onIsl_stays (hπ : AllFree π 549755813888) (f : Isl → Isl) (hF : Stays π r0 s) :
    Stays π r0 (onIsl f s) := by
  unfold onIsl
  try dsimp only
  with_reducible repeat' first
    | assumption | simp only [Stays.mk_isl (hπ.sub (by decide))]

theorem raiseIsl_stays (hπ : AllFree π 524296) (k : Nat) (hF : Stays π r0 s) :
    Stays π r0 (raiseIsl k s) := by
  unfold raiseIsl
  try dsimp only
  with_reducible repeat' first
    | assumption | apply raise_stays (hπ.sub (by decide))

theorem islHold_stays (hπ : AllFree π 549756338184)  (hF : Stays π r0 s) :
    Stays π r0 (islHold s) := by
  unfold islHold
  try dsimp only
  with_reducible repeat' first
    | assumption | intro _ | apply Stays.ite | apply raiseIsl_stays (hπ.sub (by decide))
    | apply onIsl_stays (hπ.sub (by decide))

theorem islRefresh_stays (hπ : AllFree π 549756338184)  (hF : Stays π r0 s) :
    Stays π r0 (islRefresh s) := by
  unfold islRefresh
  try dsimp only
  with_reducible repeat' first
    | assumption | intro _ | apply Stays.ite | apply onIsl_stays (hπ.sub (by decide))
    | apply islHold_stays (hπ.sub (by decide)) | apply raiseIsl_stays (hπ.sub (by decide))
    | split

theorem fixAmp_stays (hπ : AllFree π 549756338184)  (hF : Stays π r0 s) :
    Stays π r0 (fixAmp s) := by
  unfold fixAmp
  try dsimp only
  with_reducible repeat' first
    | assumption | intro _ | apply Stays.ite | apply onIsl_stays (hπ.sub (by decide))
    | apply raiseIsl_stays (hπ.sub (by decide)) | split

theorem islEnable_stays (hπ : AllFree π 584116076552)  (hF : Stays π r0 s) :
    Stays π r0 (islEnable s) := by
  unfold islEnable
  try dsimp only
  with_reducible repeat' first
    | assumption | intro _ | apply Stays.ite | apply raiseIsl_stays (hπ.sub (by decide))
    | apply onIsl_stays (hπ.sub (by decide)) | apply fixAmp_stays (hπ.sub (by decide))
    | apply wrb_stays (hπ.sub (by decide)) | apply setGen_stays (hπ.sub (by decide)) | apply islRefresh_stays (hπ.sub (by decide))

theorem islSetX_stays (hπ : AllFree π 584115552256) (v : Word) (hF : Stays π r0 s) :
    Stays π r0 (islSetX v s) := by
  unfold islSetX
  try dsimp only
  with_reducible repeat' first
    | assumption | intro _ | apply onGen_stays (hπ.sub (by decide)) | apply onIsl_stays (hπ.sub (by decide))

theorem islDisable_stays (hπ : AllFree π 584116076552)  (hF : Stays π r0 s) :
    Stays π r0 (islDisable s) := by
  unfold islDisable
  try dsimp only
  with_reducible repeat' first
    | assumption | intro _ | apply Stays.ite | apply raiseIsl_stays (hπ.sub (by decide))
    | apply wrb_stays (hπ.sub (by decide)) | apply islSetX_stays (hπ.sub (by decide)) | apply onIsl_stays (hπ.sub (by decide))

theorem islClearReport_stays (hπ : AllFree π 550051285130)  (hF : Stays π r0 s) :
    Stays π r0 (islClearReport s) := by
  unfold islClearReport
  try dsimp only
  with_reducible repeat' first
    | assumption | intro _ | apply Stays.ite | apply islandReport_stays (hπ.sub (by decide))
    | apply onIsl_stays (hπ.sub (by decide)) | apply islRefresh_stays (hπ.sub (by decide))

theorem islClear_stays (hπ : AllFree π 550051285130)  (hF : Stays π r0 s) :
    Stays π r0 (islClear s) := by
  unfold islClear
  try dsimp only
  with_reducible repeat' first
    | assumption | apply Stays.ite | apply islClearReport_stays (hπ.sub (by decide))
    | apply raiseIsl_stays (hπ.sub (by decide)) | split

theorem islPoll_stays (hπ : AllFree π 584411023498) (ubefore : State) (hF : Stays π r0 s) :
    Stays π r0 (islPoll ubefore s) := by
  unfold islPoll
  try dsimp only
  with_reducible repeat' first
    | assumption | apply Stays.ite | apply islClearReport_stays (hπ.sub (by decide))
    | apply islSetX_stays (hπ.sub (by decide))

theorem onChip_stays (hπ : AllFree π 549755813888) (n : Nat) (f : Chip → Chip) (hF : Stays π r0 s) :
    Stays π r0 (onChip n f s) := by
  unfold onChip
  try dsimp only
  with_reducible repeat' first
    | assumption | intro _ | apply Stays.ite | apply onIsl_stays (hπ.sub (by decide))

theorem islLocal_stays (hπ : AllFree π 549756338184)  (hF : Stays π r0 s) :
    Stays π r0 (islLocal s) := by
  unfold islLocal
  try dsimp only
  with_reducible repeat' first
    | assumption | intro _ | apply Stays.ite | apply fixAmp_stays (hπ.sub (by decide))
    | apply onIsl_stays (hπ.sub (by decide)) | split

theorem islBoundary_stays (hπ : AllFree π 584116076552) (d : Nat) (hF : Stays π r0 s) :
    Stays π r0 (islBoundary d s) := by
  unfold islBoundary
  try dsimp only
  with_reducible repeat' first
    | assumption | intro _ | apply Stays.ite | apply islRefresh_stays (hπ.sub (by decide))
    | apply onChip_stays (hπ.sub (by decide)) | apply onIsl_stays (hπ.sub (by decide))
    | apply islLocal_stays (hπ.sub (by decide)) | apply islSetX_stays (hπ.sub (by decide))
    | split

theorem islWindow_stays (hπ : AllFree π 549755813888) (g : Nat) (hF : Stays π r0 s) :
    Stays π r0 (islWindow g s) := by
  unfold islWindow
  try dsimp only
  with_reducible repeat' first
    | assumption | intro _ | apply Stays.ite | apply onChip_stays (hπ.sub (by decide))
    | split

theorem islDecide_stays (hπ : AllFree π 584411023498) (cause epoch : Nat) (payload : List Word) (hF : Stays π r0 s) :
    Stays π r0 (islDecide cause epoch payload s) := by
  unfold islDecide
  try dsimp only
  with_reducible repeat' first
    | assumption | intro _ | apply islSetX_stays (hπ.sub (by decide)) | apply onIsl_stays (hπ.sub (by decide))
    | apply islandReport_stays (hπ.sub (by decide)) | apply wr_stays (hπ.sub (by decide))
    | apply logWith_stays (hπ.sub (by decide)) | apply raiseIsl_stays (hπ.sub (by decide))

theorem closePeriod_stays (hπ : AllFree π 584411023498) (per : IslPer) (hF : Stays π r0 s) :
    Stays π r0 (closePeriod per s) := by
  unfold closePeriod
  try dsimp only
  with_reducible repeat' first
    | assumption | intro _ | apply Stays.ite | apply incMod_stays (hπ.sub (by decide))
    | apply wr_stays (hπ.sub (by decide)) | apply onIsl_stays (hπ.sub (by decide)) | apply step_stays (hπ.sub (by decide))
    | apply raiseIsl_stays (hπ.sub (by decide)) | apply islDecide_stays (hπ.sub (by decide))
    | split

theorem islEpoch_stays (hπ : AllFree π 549756338184) (epoch : Nat) (hF : Stays π r0 s) :
    Stays π r0 (islEpoch epoch s) := by
  unfold islEpoch
  try dsimp only
  with_reducible repeat' first
    | assumption | intro _ | apply Stays.ite | apply islRefresh_stays (hπ.sub (by decide))
    | apply onIsl_stays (hπ.sub (by decide)) | apply raiseIsl_stays (hπ.sub (by decide))
    | apply fixAmp_stays (hπ.sub (by decide)) | split

theorem islConfirm_stays (hπ : AllFree π 549756338184) (n : Nat) (v : Word) (hF : Stays π r0 s) :
    Stays π r0 (islConfirm n v s) := by
  unfold islConfirm
  try dsimp only
  with_reducible repeat' first
    | assumption | intro _ | apply Stays.ite | apply onIsl_stays (hπ.sub (by decide))
    | apply raiseIsl_stays (hπ.sub (by decide)) | split

theorem writeIslCtl_stays (hπ : AllFree π 584411023498) (v : Word) (hF : Stays π r0 s) :
    Stays π r0 (writeIslCtl v s) := by
  unfold writeIslCtl
  try dsimp only
  with_reducible repeat' first
    | assumption | apply Stays.ite | apply islEnable_stays (hπ.sub (by decide)) | apply islDisable_stays (hπ.sub (by decide))
    | apply islClear_stays (hπ.sub (by decide))

theorem ampNext_stays (hπ : AllFree π 8)  (hF : Stays π r0 s) :
    Stays π r0 (ampNext s) := by
  unfold ampNext
  try dsimp only
  with_reducible repeat' first
    | assumption | apply wrf_stays (hπ.sub (by decide))

theorem writeAmp_stays (hπ : AllFree π 549755813896) (v : Word) (hF : Stays π r0 s) :
    Stays π r0 (writeAmp v s) := by
  unfold writeAmp
  try dsimp only
  with_reducible repeat' first
    | assumption | intro _ | apply Stays.ite | apply ampNext_stays (hπ.sub (by decide))
    | apply onIsl_stays (hπ.sub (by decide))

theorem writeIsl_stays (hπ : AllFree π 584411023498) (off : Nat) (v : Word) (hF : Stays π r0 s) :
    Stays π r0 (writeIsl off v s) := by
  unfold writeIsl
  try dsimp only
  with_reducible repeat' first
    | assumption | intro _ | apply Stays.ite | apply writeIslCtl_stays (hπ.sub (by decide))
    | apply onIsl_stays (hπ.sub (by decide)) | apply writeAmp_stays (hπ.sub (by decide))
    | apply plainWrite_stays (hπ.sub (by decide)) | split

theorem islOff_stays (hπ : AllFree π 550051285130)  (hF : Stays π r0 s) :
    Stays π r0 (islOff s) := by
  unfold islOff
  try dsimp only
  with_reducible repeat' first
    | assumption | apply Stays.ite | apply islandReport_stays (hπ.sub (by decide))
    | simp only [Stays.mk_isl (hπ.sub (by decide))]

theorem gridCtl_stays (hπ : AllFree π 859288930442) (g : Nat) (v : Word) (hF : Stays π r0 s) :
    Stays π r0 (gridCtl g v s) := by
  unfold gridCtl
  try dsimp only
  with_reducible repeat' first
    | assumption | apply islPoll_stays (hπ.sub (by decide)) | apply writeGridCtl_stays (hπ.sub (by decide))

theorem execLegDomainWrite_stays (hπ : AllFree π 70918515195929) (m : Master) (l : Fin 96) (v : Word) (hF : Stays π r0 s) :
    ∃ s1, execLegDomainWrite m l v s = .next s1 ∧ Stays π r0 s1 := by
  refine ⟨_, rfl, ?_⟩
  try dsimp only
  with_reducible repeat' first
    | assumption | intro _ | apply byBus_stays (hπ.sub (by decide)) | apply islRefresh_stays (hπ.sub (by decide))
    | apply writeLegCfg_stays (hπ.sub (by decide))

theorem execGridUpdate_stays (hπ : AllFree π 860362672266) (g : Fin 4) (hF : Stays π r0 s) :
    ∃ s1, execGridUpdate g s = .next s1 ∧ Stays π r0 s1 := by
  refine ⟨_, rfl, ?_⟩
  try dsimp only
  with_reducible repeat' first
    | assumption | apply Stays.ite | apply islPoll_stays (hπ.sub (by decide)) | apply gridUpdate_stays (hπ.sub (by decide))
    | apply islWindow_stays (hπ.sub (by decide)) | split

theorem execGridConnect_stays (hπ : AllFree π 71228033108107) (m : Master) (g : Fin 4) (hF : Stays π r0 s) :
    ∃ s1, execGridConnect m g s = .next s1 ∧ Stays π r0 s1 := by
  refine ⟨_, rfl, ?_⟩
  try dsimp only
  with_reducible repeat' first
    | assumption | intro _ | apply byBus_stays (hπ.sub (by decide)) | apply gridCtl_stays (hπ.sub (by decide))

theorem execGridDisconnect_stays (hπ : AllFree π 71228033108107) (m : Master) (g : Fin 4) (hF : Stays π r0 s) :
    ∃ s1, execGridDisconnect m g s = .next s1 ∧ Stays π r0 s1 := by
  refine ⟨_, rfl, ?_⟩
  try dsimp only
  with_reducible repeat' first
    | assumption | intro _ | apply byBus_stays (hπ.sub (by decide)) | apply gridCtl_stays (hπ.sub (by decide))

theorem execIslEnable_stays (hπ : AllFree π 70953155201163) (m : Master) (hF : Stays π r0 s) :
    ∃ s1, execIslEnable m s = .next s1 ∧ Stays π r0 s1 := by
  refine ⟨_, rfl, ?_⟩
  try dsimp only
  with_reducible repeat' first
    | assumption | intro _ | apply byBus_stays (hπ.sub (by decide)) | apply writeIslCtl_stays (hπ.sub (by decide))

theorem execIslDisable_stays (hπ : AllFree π 70953155201163) (m : Master) (hF : Stays π r0 s) :
    ∃ s1, execIslDisable m s = .next s1 ∧ Stays π r0 s1 := by
  refine ⟨_, rfl, ?_⟩
  try dsimp only
  with_reducible repeat' first
    | assumption | intro _ | apply byBus_stays (hπ.sub (by decide)) | apply writeIslCtl_stays (hπ.sub (by decide))

theorem execIslClear_stays (hπ : AllFree π 70953155201163) (m : Master) (hF : Stays π r0 s) :
    ∃ s1, execIslClear m s = .next s1 ∧ Stays π r0 s1 := by
  refine ⟨_, rfl, ?_⟩
  try dsimp only
  with_reducible repeat' first
    | assumption | intro _ | apply byBus_stays (hπ.sub (by decide)) | apply writeIslCtl_stays (hπ.sub (by decide))

theorem execCodeEpoch_stays (hπ : AllFree π 549756338185)  (hF : Stays π r0 s) :
    ∃ s1, execCodeEpoch s = .next s1 ∧ Stays π r0 s1 := by
  refine ⟨_, rfl, ?_⟩
  try dsimp only
  with_reducible repeat' first
    | assumption | apply Stays.ite | apply islEpoch_stays (hπ.sub (by decide)) | apply upto_stays (hπ.sub (by decide))
    | split

theorem execPeriodClosed_stays (hπ : AllFree π 584411023498)  (hF : Stays π r0 s) :
    ∃ s1, execPeriodClosed s = .next s1 ∧ Stays π r0 s1 := by
  refine ⟨_, rfl, ?_⟩
  try dsimp only
  with_reducible repeat' first
    | assumption | intro _ | apply closePeriod_stays (hπ.sub (by decide)) | apply onIsl_stays (hπ.sub (by decide))
    | split

theorem execUnsure_stays (hπ : AllFree π 584411023499)  (hF : Stays π r0 s) :
    ∃ s1, execUnsure s = .next s1 ∧ Stays π r0 s1 := by
  refine ⟨_, rfl, ?_⟩
  try dsimp only
  with_reducible repeat' first
    | assumption | intro _ | apply Stays.ite | apply raiseIsl_stays (hπ.sub (by decide))
    | apply onIsl_stays (hπ.sub (by decide)) | apply upto_stays (hπ.sub (by decide)) | apply islDecide_stays (hπ.sub (by decide))
    | split

theorem readDecTime_stays (hπ : AllFree π 40)  (hF : Stays π r0 s) :
    Stays π r0 (readDecTime s) := by
  unfold readDecTime
  try dsimp only
  with_reducible repeat' first
    | assumption | apply respond_stays (hπ.sub (by decide)) | apply wr_stays (hπ.sub (by decide))

theorem execAmpDataAccess_stays (hπ : AllFree π 70918500515881) (m : Master) (w : Option Word) (hF : Stays π r0 s) :
    ∃ s1, execAmpDataAccess m w s = .next s1 ∧ Stays π r0 s1 := by
  refine ⟨_, rfl, ?_⟩
  try dsimp only
  with_reducible repeat' first
    | assumption | intro _ | apply byBus_stays (hπ.sub (by decide)) | apply writeAmp_stays (hπ.sub (by decide))
    | apply readAt_stays (hπ.sub (by decide)) | apply respond_stays (hπ.sub (by decide))
    | apply ampNext_stays (hπ.sub (by decide)) | split

end Sys2Proof.Machine
end

