-- ==== Sys2Proof/Laws/StayMeters.lean ====
section
/-! SUPPORT. What the operations of Machine/Meters.lean leave alone (Laws/Stays.lean). -/

set_option linter.unusedTactic false
set_option linter.unreachableTactic false
set_option linter.unusedVariables false

namespace Sys2Proof.Machine

variable {α : Type} {π : State → α} {r0 s : State}

theorem setMeter_stays (hπ : AllFree π 35184372088832) (p : Nat) (x : Meter) (hF : Stays π r0 s) :
    Stays π r0 (setMeter p x s) := by
  unfold setMeter
  try dsimp only
  with_reducible repeat' first
    | assumption | simp only [Stays.mk_meters (hπ.sub (by decide))]

theorem onMeter_stays (hπ : AllFree π 35184372088832) (p : Nat) (f : Meter → Meter) (hF : Stays π r0 s) :
    Stays π r0 (onMeter p f s) := by
  unfold onMeter
  try dsimp only
  with_reducible repeat' first
    | assumption | apply setMeter_stays (hπ.sub (by decide))

theorem raiseMtr_stays (hπ : AllFree π 524296) (p k : Nat) (hF : Stays π r0 s) :
    Stays π r0 (raiseMtr p k s) := by
  unfold raiseMtr
  try dsimp only
  with_reducible repeat' first
    | assumption | apply raise_stays (hπ.sub (by decide))

theorem meterSample_stays (hπ : AllFree π 35184372088833) (p : Nat) (nv : List Int) (cross : Option Nat) (hF : Stays π r0 s) :
    Stays π r0 (meterSample p nv cross s) := by
  unfold meterSample
  try dsimp only
  with_reducible repeat' first
    | assumption | intro _ | apply Stays.ite | apply upto_stays (hπ.sub (by decide))
    | apply cross_stays (hπ.sub (by decide)) | apply setMeter_stays (hπ.sub (by decide))

theorem addEnergy_stays (hπ : AllFree π 35184372613128) (p k e : Nat) (hF : Stays π r0 s) :
    Stays π r0 (addEnergy p k e s) := by
  unfold addEnergy
  try dsimp only
  with_reducible repeat' first
    | assumption | apply Stays.ite | apply setMeter_stays (hπ.sub (by decide)) | apply raiseMtr_stays (hπ.sub (by decide))
    | apply wrb_stays (hπ.sub (by decide))

theorem takePreset_stays (hπ : AllFree π 35184372613128) (p : Nat) (hF : Stays π r0 s) :
    Stays π r0 (takePreset p s) := by
  unfold takePreset
  try dsimp only
  with_reducible repeat' first
    | assumption | intro _ | apply onMeter_stays (hπ.sub (by decide)) | apply raiseMtr_stays (hπ.sub (by decide))
    | apply wrb_stays (hπ.sub (by decide)) | split

theorem takePulses_stays (hπ : AllFree π 35184372613128) (q : Nat) (k : Nat) (hF : Stays π r0 s) :
    Stays π r0 (takePulses q k  s) := by
  induction k generalizing s  with
  | zero => exact hF
  | succ k ih =>
  rw [takePulses]
  try dsimp only
  with_reducible repeat' first
    | assumption | apply Stays.ite | apply ih | apply setMeter_stays (hπ.sub (by decide))
    | apply raiseMtr_stays (hπ.sub (by decide)) | split

theorem feedPulses_stays (hπ : AllFree π 35184372613128) (p : Nat) (es : List Nat) (hF : Stays π r0 s) :
    Stays π r0 (feedPulses p es s) := by
  unfold feedPulses
  try dsimp only
  with_reducible repeat' first
    | assumption | intro _ | apply Stays.ite | apply forEach_stays | apply onMeter_stays (hπ.sub (by decide))
    | apply takePulses_stays (hπ.sub (by decide)) | split

theorem mtrChecks_stays (hπ : AllFree π 35184373661706) (p : Nat) (c : MtrCyc) (hF : Stays π r0 s) :
    Stays π r0 (mtrChecks p c s).2.2 := by
  unfold mtrChecks
  try dsimp only
  with_reducible repeat' first
    | assumption | intro _ | apply Stays.ite | apply setMeter_stays (hπ.sub (by decide))
    | apply logHap_stays (hπ.sub (by decide)) | apply raiseMtr_stays (hπ.sub (by decide))
    | split | dsimp only

theorem closeCycle_stays (hπ : AllFree π 35184373661707) (p : Nat) (c : MtrCyc) (hF : Stays π r0 s) :
    Stays π r0 (closeCycle p c s) := by
  unfold closeCycle
  try dsimp only
  with_reducible repeat' first
    | assumption | intro _ | apply Stays.ite | apply takePreset_stays (hπ.sub (by decide))
    | apply forEach_stays | apply addEnergy_stays (hπ.sub (by decide)) | apply feedPulses_stays (hπ.sub (by decide))
    | apply mtrChecks_stays (hπ.sub (by decide)) | apply setMeter_stays (hπ.sub (by decide))
    | apply raiseMtr_stays (hπ.sub (by decide)) | simp only [Stays.mk_now (hπ.sub (by decide))]
    | refine Stays.of_snd (by assumption) ?_ | split | dsimp only

theorem closeAll_stays (hπ : AllFree π 35184373661707) (p : Nat) (k : Nat) (hF : Stays π r0 s) :
    Stays π r0 (closeAll p k  s) := by
  induction k generalizing s  with
  | zero => exact hF
  | succ k ih =>
  rw [closeAll]
  try dsimp only
  with_reducible repeat' first
    | assumption | intro _ | apply ih | apply closeCycle_stays (hπ.sub (by decide))
    | apply onMeter_stays (hπ.sub (by decide)) | split

theorem mtrEnable_stays (hπ : AllFree π 35184372613128) (p : Nat) (hF : Stays π r0 s) :
    Stays π r0 (mtrEnable p s) := by
  unfold mtrEnable
  try dsimp only
  with_reducible repeat' first
    | assumption | apply Stays.ite | apply raiseMtr_stays (hπ.sub (by decide)) | apply setMeter_stays (hπ.sub (by decide))
    | apply pulse_stays (hπ.sub (by decide))

theorem mtrDisable_stays (hπ : AllFree π 35184373661707) (p : Nat) (hF : Stays π r0 s) :
    Stays π r0 (mtrDisable p s) := by
  unfold mtrDisable
  try dsimp only
  with_reducible repeat' first
    | assumption | intro _ | apply Stays.ite | apply reverse_stays (hπ.sub (by decide))
    | apply setMeter_stays (hπ.sub (by decide)) | apply closeAll_stays (hπ.sub (by decide))
    | apply onMeter_stays (hπ.sub (by decide)) | apply pulse_stays (hπ.sub (by decide))

theorem mtrPreset_stays (hπ : AllFree π 35184372613128) (p : Nat) (hF : Stays π r0 s) :
    Stays π r0 (mtrPreset p s) := by
  unfold mtrPreset
  try dsimp only
  with_reducible repeat' first
    | assumption | intro _ | apply Stays.ite | apply onMeter_stays (hπ.sub (by decide))
    | apply takePreset_stays (hπ.sub (by decide))

theorem bookPreset_stays (hπ : AllFree π 786440) (m : Master) (p : Nat) (hF : Stays π r0 s) :
    Stays π r0 (bookPreset m p s) := by
  unfold bookPreset
  try dsimp only
  with_reducible repeat' first
    | assumption | apply bookRequested_stays (hπ.sub (by decide))

theorem writeMtrCtl_stays (hπ : AllFree π 35184374054923) (m : Master) (p : Nat) (v : Word) (hF : Stays π r0 s) :
    Stays π r0 (writeMtrCtl m p v s) := by
  unfold writeMtrCtl
  try dsimp only
  with_reducible repeat' first
    | assumption | apply Stays.ite | apply mtrEnable_stays (hπ.sub (by decide)) | apply mtrDisable_stays (hπ.sub (by decide))
    | apply deny_stays (hπ.sub (by decide)) | apply raiseMtr_stays (hπ.sub (by decide))
    | apply mtrPreset_stays (hπ.sub (by decide)) | apply bookPreset_stays (hπ.sub (by decide))
    | split

theorem writePulseCfg_stays (hπ : AllFree π 35184372613128) (p : Nat) (v : Word) (hF : Stays π r0 s) :
    Stays π r0 (writePulseCfg p v s) := by
  unfold writePulseCfg
  try dsimp only
  with_reducible repeat' first
    | assumption | intro _ | apply Stays.ite | apply raiseMtr_stays (hπ.sub (by decide))
    | apply plainWrite_stays (hπ.sub (by decide)) | apply onMeter_stays (hπ.sub (by decide))
    | apply pulse_stays (hπ.sub (by decide)) | split

theorem writeChan_stays (hπ : AllFree π 35184372088840) (p off : Nat) (v : Word) (hF : Stays π r0 s) :
    Stays π r0 (writeChan p off v s) := by
  unfold writeChan
  try dsimp only
  with_reducible repeat' first
    | assumption | intro _ | apply Stays.ite | apply plainWrite_stays (hπ.sub (by decide))
    | apply onMeter_stays (hπ.sub (by decide))

theorem writeMtr_stays (hπ : AllFree π 35184374054923) (m : Master) (p off : Nat) (v : Word) (hF : Stays π r0 s) :
    Stays π r0 (writeMtr m p off v s) := by
  unfold writeMtr
  try dsimp only
  with_reducible repeat' first
    | assumption | intro _ | apply Stays.ite | apply writeMtrCtl_stays (hπ.sub (by decide))
    | apply onMeter_stays (hπ.sub (by decide)) | apply writePulseCfg_stays (hπ.sub (by decide))
    | apply writeChan_stays (hπ.sub (by decide)) | apply plainWrite_stays (hπ.sub (by decide))
    | split

theorem metersOff_stays (hπ : AllFree π 35184372088832)  (hF : Stays π r0 s) :
    Stays π r0 (metersOff s) := by
  unfold metersOff
  try dsimp only
  with_reducible repeat' first
    | assumption | simp only [Stays.mk_meters (hπ.sub (by decide))]

theorem execMtrEnable_stays (hπ : AllFree π 105553118232587) (m : Master) (p : Fin 4) (hF : Stays π r0 s) :
    ∃ s1, execMtrEnable m p s = .next s1 ∧ Stays π r0 s1 := by
  refine ⟨_, rfl, ?_⟩
  try dsimp only
  with_reducible repeat' first
    | assumption | intro _ | apply byBus_stays (hπ.sub (by decide)) | apply writeMtrCtl_stays (hπ.sub (by decide))

theorem execMtrDisable_stays (hπ : AllFree π 105553118232587) (m : Master) (p : Fin 4) (hF : Stays π r0 s) :
    ∃ s1, execMtrDisable m p s = .next s1 ∧ Stays π r0 s1 := by
  refine ⟨_, rfl, ?_⟩
  try dsimp only
  with_reducible repeat' first
    | assumption | intro _ | apply byBus_stays (hπ.sub (by decide)) | apply writeMtrCtl_stays (hπ.sub (by decide))

theorem execPreset_stays (hπ : AllFree π 105553118232587) (m : Master) (p : Fin 4) (hF : Stays π r0 s) :
    ∃ s1, execPreset m p s = .next s1 ∧ Stays π r0 s1 := by
  refine ⟨_, rfl, ?_⟩
  try dsimp only
  with_reducible repeat' first
    | assumption | intro _ | apply byBus_stays (hπ.sub (by decide)) | apply writeMtrCtl_stays (hπ.sub (by decide))

theorem execMeterSample_stays (hπ : AllFree π 35184372088833) (p : Fin 4) (nv : List Int) (cross : Option (BitVec 16)) (hF : Stays π r0 s) :
    ∃ s1, execMeterSample p nv cross s = .next s1 ∧ Stays π r0 s1 := by
  refine ⟨_, rfl, ?_⟩
  try dsimp only
  with_reducible repeat' first
    | assumption | apply Stays.ite | apply meterSample_stays (hπ.sub (by decide))
    | apply cross_stays (hπ.sub (by decide)) | split

theorem execCycleClose_stays (hπ : AllFree π 35184373661707) (p : Fin 4) (hF : Stays π r0 s) :
    ∃ s1, execCycleClose p s = .next s1 ∧ Stays π r0 s1 := by
  refine ⟨_, rfl, ?_⟩
  try dsimp only
  with_reducible repeat' first
    | assumption | apply Stays.ite | apply closeAll_stays (hπ.sub (by decide))

theorem execNosync_stays (hπ : AllFree π 35184373661707) (p : Fin 4) (hF : Stays π r0 s) :
    ∃ s1, execNosync p s = .next s1 ∧ Stays π r0 s1 := by
  refine ⟨_, rfl, ?_⟩
  try dsimp only
  with_reducible repeat' first
    | assumption | apply Stays.ite | apply upto_stays (hπ.sub (by decide)) | apply setMeter_stays (hπ.sub (by decide))
    | apply logHap_stays (hπ.sub (by decide)) | apply raiseMtr_stays (hπ.sub (by decide))
    | split

theorem execPulseStart_stays (hπ : AllFree π 35184372088833) (p : Fin 4) (hF : Stays π r0 s) :
    ∃ s1, execPulseStart p s = .next s1 ∧ Stays π r0 s1 := by
  refine ⟨_, rfl, ?_⟩
  try dsimp only
  with_reducible repeat' first
    | assumption | apply Stays.ite | apply pulse_stays (hπ.sub (by decide)) | apply upto_stays (hπ.sub (by decide))
    | apply setMeter_stays (hπ.sub (by decide)) | split

theorem execPulseEnd_stays (hπ : AllFree π 35184372088833) (p : Fin 4) (hF : Stays π r0 s) :
    ∃ s1, execPulseEnd p s = .next s1 ∧ Stays π r0 s1 := by
  refine ⟨_, rfl, ?_⟩
  try dsimp only
  with_reducible repeat' first
    | assumption | apply pulse_stays (hπ.sub (by decide)) | apply setMeter_stays (hπ.sub (by decide))
    | apply upto_stays (hπ.sub (by decide)) | split

theorem execELoRead_stays (hπ : AllFree π 70368744701992) (m : Master) (p : Fin 4) (k : Fin 7) (hF : Stays π r0 s) :
    ∃ s1, execELoRead m p k s = .next s1 ∧ Stays π r0 s1 := by
  refine ⟨_, rfl, ?_⟩
  try dsimp only
  with_reducible repeat' first
    | assumption | intro _ | apply readAt_stays (hπ.sub (by decide)) | apply respond_stays (hπ.sub (by decide))
    | apply wr_stays (hπ.sub (by decide))

theorem execCycCntRead_stays (hπ : AllFree π 70368744701992) (m : Master) (p : Fin 4) (hF : Stays π r0 s) :
    ∃ s1, execCycCntRead m p s = .next s1 ∧ Stays π r0 s1 := by
  refine ⟨_, rfl, ?_⟩
  try dsimp only
  with_reducible repeat' first
    | assumption | intro _ | apply readAt_stays (hπ.sub (by decide)) | apply forEach_stays
    | apply wr_stays (hπ.sub (by decide)) | apply respond_stays (hπ.sub (by decide))

end Sys2Proof.Machine
end

