-- ==== Sys2Proof/Laws/StayStreams.lean ====
section
/-! SUPPORT. What the operations of Machine/Streams.lean leave alone (Laws/Stays.lean). -/

set_option linter.unusedTactic false
set_option linter.unreachableTactic false
set_option linter.unusedVariables false

namespace Sys2Proof.Machine

variable {α : Type} {π : State → α} {r0 s : State}

theorem setStream_stays (hπ : AllFree π 137438953472) (n : Nat) (x : RStream) (hF : Stays π r0 s) :
    Stays π r0 (setStream n x s) := by
  unfold setStream
  try dsimp only
  with_reducible repeat' first
    | assumption | simp only [Stays.mk_rings (hπ.sub (by decide))]

theorem onStream_stays (hπ : AllFree π 137438953472) (n : Nat) (f : RStream → RStream) (hF : Stays π r0 s) :
    Stays π r0 (onStream n f s) := by
  unfold onStream
  try dsimp only
  with_reducible repeat' first
    | assumption | apply setStream_stays (hπ.sub (by decide))

theorem queueCtl_stays (hπ : AllFree π 137438953472) (r : Nat) (e : CtlEnt) (hF : Stays π r0 s) :
    Stays π r0 (queueCtl r e s) := by
  unfold queueCtl
  try dsimp only
  with_reducible repeat' first
    | assumption | intro _ | apply onLink_stays (hπ.sub (by decide))

theorem answer_stays (hπ : AllFree π 137438953472) (n kind seq : Nat) (hF : Stays π r0 s) :
    Stays π r0 (answer n kind seq s) := by
  unfold answer
  try dsimp only
  with_reducible repeat' first
    | assumption | apply queueCtl_stays (hπ.sub (by decide))

theorem dropOpens_stays (hπ : AllFree π 137438953472) (n : Nat) (hF : Stays π r0 s) :
    Stays π r0 (dropOpens n s) := by
  unfold dropOpens
  try dsimp only
  with_reducible repeat' first
    | assumption | intro _ | apply forEach_stays | apply onLink_stays (hπ.sub (by decide))

theorem sendOpen_stays (hπ : AllFree π 137438953472) (n : Nat) (hF : Stays π r0 s) :
    Stays π r0 (sendOpen n s) := by
  unfold sendOpen
  try dsimp only
  with_reducible repeat' first
    | assumption | intro _ | apply Stays.ite | apply dropOpens_stays (hπ.sub (by decide))
    | apply onStream_stays (hπ.sub (by decide)) | apply queueCtl_stays (hπ.sub (by decide))

theorem openStream_stays (hπ : AllFree π 137438953472) (n : Nat) (hF : Stays π r0 s) :
    Stays π r0 (openStream n s) := by
  unfold openStream
  try dsimp only
  with_reducible repeat' first
    | assumption | intro _ | apply Stays.ite | apply onStream_stays (hπ.sub (by decide))
    | apply sendOpen_stays (hπ.sub (by decide))

theorem reopenStream_stays (hπ : AllFree π 137438953472) (n : Nat) (hF : Stays π r0 s) :
    Stays π r0 (reopenStream n s) := by
  unfold reopenStream
  try dsimp only
  with_reducible repeat' first
    | assumption | intro _ | apply Stays.ite | apply openStream_stays (hπ.sub (by decide))
    | apply onStream_stays (hπ.sub (by decide))

theorem breakOne_stays (hπ : AllFree π 137440526346) (n cause : Nat) (hF : Stays π r0 s) :
    Stays π r0 (breakOne n cause s) := by
  unfold breakOne
  try dsimp only
  with_reducible repeat' first
    | assumption | intro _ | apply Stays.ite | apply dropOpens_stays (hπ.sub (by decide))
    | apply onStream_stays (hπ.sub (by decide)) | apply logHap_stays (hπ.sub (by decide))
    | apply raiseRing_stays (hπ.sub (by decide)) | apply answer_stays (hπ.sub (by decide))
    | apply reopenStream_stays (hπ.sub (by decide))

theorem breakStream_stays (hπ : AllFree π 137440526346) (n cause : Nat) (hF : Stays π r0 s) :
    Stays π r0 (breakStream n cause s) := by
  unfold breakStream
  try dsimp only
  with_reducible repeat' first
    | assumption | apply Stays.ite | apply breakOne_stays (hπ.sub (by decide)) | split

theorem streamPut_stays (hπ : AllFree π 137438953536) (n : Nat) (payload : List Byte) (hF : Stays π r0 s) :
    Stays π r0 (streamPut n payload s).2 := by
  unfold streamPut
  try dsimp only
  with_reducible repeat' first
    | assumption | intro _ | apply Stays.ite | apply memWr_stays (hπ.sub (by decide))
    | apply memWrBytes_stays (hπ.sub (by decide)) | apply onStream_stays (hπ.sub (by decide))
    | split | dsimp only

theorem streamTake_stays (hπ : AllFree π 137438953472) (n : Nat) (hF : Stays π r0 s) :
    Stays π r0 (streamTake n s).2 := by
  unfold streamTake
  try dsimp only
  with_reducible repeat' first
    | assumption | intro _ | apply Stays.ite | apply onStream_stays (hπ.sub (by decide))
    | split | dsimp only

theorem gatewayPut_stays (hπ : AllFree π 137438953536) (q : Nat) (payload : List Byte) (flags : Byte) (hF : Stays π r0 s) :
    Stays π r0 (gatewayPut q payload flags s) := by
  unfold gatewayPut
  try dsimp only
  with_reducible repeat' first
    | assumption | apply Stays.ite | apply streamPut_stays (hπ.sub (by decide)) | apply memWr_stays (hπ.sub (by decide))
    | refine Stays.of_snd (by assumption) ?_ | split | dsimp only

theorem cross_stays (hπ : AllFree π 137438953536) (n q : Nat) (k : Nat) (hF : Stays π r0 s) :
    Stays π r0 (cross n q k  s) := by
  induction k generalizing s  with
  | zero => exact hF
  | succ k ih =>
  rw [cross]
  try dsimp only
  with_reducible repeat' first
    | assumption | apply Stays.ite | apply ih | apply streamTake_stays (hπ.sub (by decide))
    | apply gatewayPut_stays (hπ.sub (by decide)) | refine Stays.of_snd (by assumption) ?_
    | split | dsimp only

theorem gatewayCross_stays (hπ : AllFree π 137438953536) (n : Nat) (hF : Stays π r0 s) :
    Stays π r0 (gatewayCross n s) := by
  unfold gatewayCross
  try dsimp only
  with_reducible repeat' first
    | assumption | apply Stays.ite | apply cross_stays (hπ.sub (by decide)) | split

theorem fillSlot_stays (hπ : AllFree π 64) (a : Nat) (c : List Byte) (r soc : Nat) (hF : Stays π r0 s) :
    Stays π r0 (fillSlot a c r soc s) := by
  unfold fillSlot
  try dsimp only
  with_reducible repeat' first
    | assumption | apply Stays.ite | apply memWrBytes_stays (hπ.sub (by decide))

theorem deliverHeld_stays (hπ : AllFree π 137438953472) (n : Nat) (k : Nat) (hF : Stays π r0 s) :
    Stays π r0 (deliverHeld n k  s) := by
  induction k generalizing s  with
  | zero => exact hF
  | succ k ih =>
  rw [deliverHeld]
  try dsimp only
  with_reducible repeat' first
    | assumption | intro _ | apply Stays.ite | apply ih | apply onStream_stays (hπ.sub (by decide))
    | split

theorem sendNak_stays (hπ : AllFree π 137438953472) (n : Nat) (hF : Stays π r0 s) :
    Stays π r0 (sendNak n s) := by
  unfold sendNak
  try dsimp only
  with_reducible repeat' first
    | assumption | intro _ | apply Stays.ite | apply answer_stays (hπ.sub (by decide))
    | apply onStream_stays (hπ.sub (by decide)) | split

theorem afterDelivery_stays (hπ : AllFree π 137438953472) (n : Nat) (hF : Stays π r0 s) :
    Stays π r0 (afterDelivery n s) := by
  unfold afterDelivery
  try dsimp only
  with_reducible repeat' first
    | assumption | intro _ | apply Stays.ite | apply onStream_stays (hπ.sub (by decide))
    | apply sendNak_stays (hπ.sub (by decide)) | apply answer_stays (hπ.sub (by decide))

theorem bufFull_stays (hπ : AllFree π 137439477768) (n : Nat) (hF : Stays π r0 s) :
    Stays π r0 (bufFull n s) := by
  unfold bufFull
  try dsimp only
  with_reducible repeat' first
    | assumption | intro _ | apply Stays.ite | apply onStream_stays (hπ.sub (by decide))
    | apply raiseRing_stays (hπ.sub (by decide))

theorem takeData_stays (hπ : AllFree π 137439477832) (n : Nat) (c : List Byte) (r soc : Nat) (hF : Stays π r0 s) :
    Stays π r0 (takeData n c r soc s) := by
  unfold takeData
  try dsimp only
  with_reducible repeat' first
    | assumption | intro _ | apply Stays.ite | apply countRing_stays (hπ.sub (by decide))
    | apply onStream_stays (hπ.sub (by decide)) | apply bufFull_stays (hπ.sub (by decide))
    | apply fillSlot_stays (hπ.sub (by decide)) | apply gatewayCross_stays (hπ.sub (by decide))
    | apply afterDelivery_stays (hπ.sub (by decide)) | apply deliverHeld_stays (hπ.sub (by decide))
    | apply sendNak_stays (hπ.sub (by decide)) | apply answer_stays (hπ.sub (by decide))
    | split

theorem freeCells_stays (hπ : AllFree π 137438953472) (n k : Nat) (hF : Stays π r0 s) :
    Stays π r0 (freeCells n k s) := by
  unfold freeCells
  try dsimp only
  with_reducible repeat' first
    | assumption | intro _ | apply Stays.ite | apply onStream_stays (hπ.sub (by decide))

theorem resend_stays (hπ : AllFree π 137440526346) (n k : Nat) (hF : Stays π r0 s) :
    Stays π r0 (resend n k s) := by
  unfold resend
  try dsimp only
  with_reducible repeat' first
    | assumption | intro _ | apply Stays.ite | apply breakStream_stays (hπ.sub (by decide))
    | apply onStream_stays (hπ.sub (by decide))

theorem refill_stays (hπ : AllFree π 137438953536) (n : Nat) (hF : Stays π r0 s) :
    Stays π r0 (refill n s) := by
  unfold refill
  try dsimp only
  with_reducible repeat' first
    | assumption | apply gatewayCross_stays (hπ.sub (by decide)) | split

theorem takeEntry_stays (hπ : AllFree π 137440526410) (src e : Nat) (hF : Stays π r0 s) :
    Stays π r0 (takeEntry src e s) := by
  unfold takeEntry
  try dsimp only
  with_reducible repeat' first
    | assumption | intro _ | apply Stays.ite | apply refill_stays (hπ.sub (by decide))
    | apply freeCells_stays (hπ.sub (by decide)) | apply resend_stays (hπ.sub (by decide))
    | apply dropOpens_stays (hπ.sub (by decide)) | apply onStream_stays (hπ.sub (by decide))
    | apply breakStream_stays (hπ.sub (by decide)) | split

theorem takeEntries_stays (hπ : AllFree π 137440526410) (src : Nat) (k : Nat) (xs0 : List Byte) (hF : Stays π r0 s) :
    Stays π r0 (takeEntries src k xs0 s) := by
  induction k generalizing s xs0 with
  | zero => exact hF
  | succ k ih =>
  rw [takeEntries]
  try dsimp only
  with_reducible repeat' first
    | assumption | apply Stays.ite | apply ih | apply takeEntry_stays (hπ.sub (by decide))
    | split

theorem takeOpen_stays (hπ : AllFree π 137438953480) (c : List Byte) (r : Nat) (hF : Stays π r0 s) :
    Stays π r0 (takeOpen c r s) := by
  unfold takeOpen
  try dsimp only
  with_reducible repeat' first
    | assumption | intro _ | apply Stays.ite | apply countRing_stays (hπ.sub (by decide))
    | apply onStream_stays (hπ.sub (by decide)) | apply answer_stays (hπ.sub (by decide))
    | split

theorem dropSent_stays (hπ : AllFree π 137438953472) (n : Nat) (hF : Stays π r0 s) :
    Stays π r0 (dropSent n s) := by
  unfold dropSent
  try dsimp only
  with_reducible repeat' first
    | assumption | intro _ | apply Stays.ite | apply freeCells_stays (hπ.sub (by decide))

theorem moveCells_stays (hπ : AllFree π 137438953536) (r : Nat) (hF : Stays π r0 s) :
    Stays π r0 (moveCells r s) := by
  unfold moveCells
  try dsimp only
  with_reducible repeat' first
    | assumption | intro _ | apply Stays.ite | apply forEach_stays | apply refill_stays (hπ.sub (by decide))
    | apply dropSent_stays (hπ.sub (by decide)) | apply onStream_stays (hπ.sub (by decide))

theorem sendCell_stays (hπ : AllFree π 137439477834) (n r i : Nat) (hF : Stays π r0 s) :
    Stays π r0 (sendCell n r i s) := by
  unfold sendCell
  try dsimp only
  with_reducible repeat' first
    | assumption | intro _ | apply Stays.ite | apply draw_stays (hπ.sub (by decide))
    | apply sendLocal_stays (hπ.sub (by decide)) | apply onStream_stays (hπ.sub (by decide))
    | apply onLink_stays (hπ.sub (by decide)) | apply dropSent_stays (hπ.sub (by decide))
    | apply refill_stays (hπ.sub (by decide)) | apply raiseRing_stays (hπ.sub (by decide))
    | refine Stays.of_snd (by assumption) ?_ | split | dsimp only

theorem sendCtl_stays (hπ : AllFree π 137438953480) (r : Nat) (hF : Stays π r0 s) :
    Stays π r0 (sendCtl r s) := by
  unfold sendCtl
  try dsimp only
  with_reducible repeat' first
    | assumption | intro _ | apply Stays.ite | apply sendLocal_stays (hπ.sub (by decide))
    | apply onLink_stays (hπ.sub (by decide)) | refine Stays.of_snd (by assumption) ?_
    | split | dsimp only

end Sys2Proof.Machine
end

