-- ==== Sys2Proof/Laws/StayRings.lean ====
section
/-! SUPPORT. What the operations of Machine/Rings.lean leave alone (Laws/Stays.lean). -/

set_option linter.unusedTactic false
set_option linter.unreachableTactic false
set_option linter.unusedVariables false

namespace Sys2Proof.Machine

variable {α : Type} {π : State → α} {r0 s : State}

theorem breakSide_stays (hπ : AllFree π 1073741824) (r : Nat) (hF : Stays π r0 s) :
    Stays π r0 (breakSide r s) := by
  unfold breakSide
  try dsimp only
  with_reducible repeat' first
    | assumption | apply Stays.ite | simp only [Stays.mk_datum (hπ.sub (by decide))]

theorem wrapRing_stays (hπ : AllFree π 138514268170) (r : Nat) (hF : Stays π r0 s) :
    Stays π r0 (wrapRing r s) := by
  unfold wrapRing
  try dsimp only
  with_reducible repeat' first
    | assumption | intro _ | apply Stays.ite | apply onLink_stays (hπ.sub (by decide))
    | apply logHap_stays (hπ.sub (by decide)) | apply raiseRing_stays (hπ.sub (by decide))
    | apply countRing_stays (hπ.sub (by decide)) | apply breakSide_stays (hπ.sub (by decide))
    | split

theorem linkDown_stays (hπ : AllFree π 138514268170) (r : Nat) (hF : Stays π r0 s) :
    Stays π r0 (linkDown r s) := by
  unfold linkDown
  try dsimp only
  with_reducible repeat' first
    | assumption | intro _ | apply Stays.ite | apply wrapRing_stays (hπ.sub (by decide))
    | apply onLink_stays (hπ.sub (by decide)) | apply raiseRing_stays (hπ.sub (by decide))
    | apply countRing_stays (hπ.sub (by decide)) | apply breakSide_stays (hπ.sub (by decide))

theorem forwardAt_stays (hπ : AllFree π 137438953480) (r soc : Nat) (hF : Stays π r0 s) :
    Stays π r0 (forwardAt r soc s).2 := by
  unfold forwardAt
  try dsimp only
  with_reducible repeat' first
    | assumption | intro _ | apply Stays.ite | apply countRing_stays (hπ.sub (by decide))
    | apply incMod_stays (hπ.sub (by decide)) | apply onLink_stays (hπ.sub (by decide))
    | refine Stays.of_snd (by assumption) ?_ | refine Stays.of_fst (by assumption) ?_ | simp only [id_eq]
    | split | dsimp only

theorem probeReturn_stays (hπ : AllFree π 137439477768) (h : List Byte) (hF : Stays π r0 s) :
    Stays π r0 (probeReturn h s) := by
  unfold probeReturn
  try dsimp only
  with_reducible repeat' first
    | assumption | intro _ | apply Stays.ite | apply raiseRing_stays (hπ.sub (by decide))
    | apply onLink_stays (hπ.sub (by decide)) | split

theorem takeHeader_stays (hπ : AllFree π 137439477768) (r : Nat) (h : List Byte) (hF : Stays π r0 s) :
    Stays π r0 (takeHeader r h s) := by
  unfold takeHeader
  try dsimp only
  with_reducible repeat' first
    | assumption | intro _ | apply Stays.ite | apply onLink_stays (hπ.sub (by decide))
    | apply countRing_stays (hπ.sub (by decide)) | apply forwardAt_stays (hπ.sub (by decide))
    | apply probeReturn_stays (hπ.sub (by decide)) | refine Stays.of_snd (by assumption) ?_
    | split | dsimp only

theorem execCellHeader_stays (hπ : AllFree π 137439477768) (r : Fin 2) (hdr : List Byte) (hF : Stays π r0 s) :
    ∃ s1, execCellHeader r hdr s = .next s1 ∧ Stays π r0 s1 := by
  refine ⟨_, rfl, ?_⟩
  try dsimp only
  with_reducible repeat' first
    | assumption | apply Stays.ite | apply takeHeader_stays (hπ.sub (by decide))
    | apply countRing_stays (hπ.sub (by decide)) | split

theorem takeCell_stays (hπ : AllFree π 137440526410) (r : Nat) (x : RxCell) (c : List Byte) (hF : Stays π r0 s) :
    Stays π r0 (takeCell r x c s) := by
  unfold takeCell
  try dsimp only
  with_reducible repeat' first
    | assumption | apply incMod_stays (hπ.sub (by decide)) | apply takeData_stays (hπ.sub (by decide))
    | apply takeEntries_stays (hπ.sub (by decide)) | apply takeOpen_stays (hπ.sub (by decide))
    | split

theorem takeDatum_stays (hπ : AllFree π 137438953472) (r : Nat) (x : RxCell) (c : List Byte) (bad : Bool) (hF : Stays π r0 s) :
    Stays π r0 (takeDatum r x c bad s) := by
  unfold takeDatum
  try dsimp only
  with_reducible repeat' first
    | assumption | simp only [Stays.mk_rings (hπ.sub (by decide))]

theorem codeErrors_stays (hπ : AllFree π 137438953480) (r n : Nat) (hF : Stays π r0 s) :
    Stays π r0 (codeErrors r n s) := by
  unfold codeErrors
  try dsimp only
  with_reducible repeat' first
    | assumption | intro _ | apply Stays.ite | apply onLink_stays (hπ.sub (by decide))
    | apply wrf_stays (hπ.sub (by decide))

theorem execCellEnd_stays (hπ : AllFree π 137440526410) (r : Fin 2) (body : List Byte) (errs : Nat) (bad : Bool) (hF : Stays π r0 s) :
    ∃ s1, execCellEnd r body errs bad s = .next s1 ∧ Stays π r0 s1 := by
  refine ⟨_, rfl, ?_⟩
  try dsimp only
  with_reducible repeat' first
    | assumption | intro _ | apply Stays.ite | apply codeErrors_stays (hπ.sub (by decide))
    | apply onLink_stays (hπ.sub (by decide)) | apply countRing_stays (hπ.sub (by decide))
    | apply incMod_stays (hπ.sub (by decide)) | apply takeDatum_stays (hπ.sub (by decide))
    | apply takeCell_stays (hπ.sub (by decide)) | split

theorem execCellSend_stays (hπ : AllFree π 137439477835) (r : Fin 2) (hF : Stays π r0 s) :
    ∃ s1, execCellSend r s = .next s1 ∧ Stays π r0 s1 := by
  refine ⟨_, rfl, ?_⟩
  try dsimp only
  with_reducible repeat' first
    | assumption | intro _ | apply Stays.ite | apply upto_stays (hπ.sub (by decide))
    | apply sendLocal_stays (hπ.sub (by decide)) | apply onLink_stays (hπ.sub (by decide))
    | apply sendCtl_stays (hπ.sub (by decide)) | apply sendCell_stays (hπ.sub (by decide))
    | refine Stays.of_snd (by assumption) ?_ | split | dsimp only

theorem execSyncGained_stays (hπ : AllFree π 137438953472) (r : Fin 2) (hF : Stays π r0 s) :
    ∃ s1, execSyncGained r s = .next s1 ∧ Stays π r0 s1 := by
  refine ⟨_, rfl, ?_⟩
  try dsimp only
  with_reducible repeat' first
    | assumption | intro _ | apply Stays.ite | apply onLink_stays (hπ.sub (by decide))
    | split

theorem cutCell_stays (hπ : AllFree π 137438953480) (r : Nat) (hF : Stays π r0 s) :
    Stays π r0 (cutCell r s) := by
  unfold cutCell
  try dsimp only
  with_reducible repeat' first
    | assumption | intro _ | apply Stays.ite | apply countRing_stays (hπ.sub (by decide))
    | apply onLink_stays (hπ.sub (by decide)) | split

theorem execSyncLost_stays (hπ : AllFree π 137438953480) (r : Fin 2) (errs : Nat) (hF : Stays π r0 s) :
    ∃ s1, execSyncLost r errs s = .next s1 ∧ Stays π r0 s1 := by
  refine ⟨_, rfl, ?_⟩
  try dsimp only
  with_reducible repeat' first
    | assumption | intro _ | apply Stays.ite | apply cutCell_stays (hπ.sub (by decide))
    | apply codeErrors_stays (hπ.sub (by decide)) | apply onLink_stays (hπ.sub (by decide))
    | split

theorem execLinkDown_stays (hπ : AllFree π 138514268171) (r : Fin 2) (c : DownCause) (hF : Stays π r0 s) :
    ∃ s1, execLinkDown r c s = .next s1 ∧ Stays π r0 s1 := by
  refine ⟨_, rfl, ?_⟩
  try dsimp only
  with_reducible repeat' first
    | assumption | apply Stays.ite | apply linkDown_stays (hπ.sub (by decide)) | apply upto_stays (hπ.sub (by decide))
    | apply codeErrors_stays (hπ.sub (by decide)) | split

theorem execLinkUp_stays (hπ : AllFree π 137439477769) (r : Fin 2) (hF : Stays π r0 s) :
    ∃ s1, execLinkUp r s = .next s1 ∧ Stays π r0 s1 := by
  refine ⟨_, rfl, ?_⟩
  try dsimp only
  with_reducible repeat' first
    | assumption | intro _ | apply Stays.ite | apply upto_stays (hπ.sub (by decide))
    | apply raiseRing_stays (hπ.sub (by decide)) | apply onLink_stays (hπ.sub (by decide))
    | split

theorem execUnwrap_stays (hπ : AllFree π 138513219593) (r : Fin 2) (hF : Stays π r0 s) :
    ∃ s1, execUnwrap r s = .next s1 ∧ Stays π r0 s1 := by
  refine ⟨_, rfl, ?_⟩
  try dsimp only
  with_reducible repeat' first
    | assumption | intro _ | apply Stays.ite | apply upto_stays (hπ.sub (by decide))
    | apply raiseRing_stays (hπ.sub (by decide)) | apply breakSide_stays (hπ.sub (by decide))
    | apply onLink_stays (hπ.sub (by decide)) | split

theorem execRfaultReceived_stays (hπ : AllFree π 137438953472) (r : Fin 2) (on : Bool) (hF : Stays π r0 s) :
    ∃ s1, execRfaultReceived r on s = .next s1 ∧ Stays π r0 s1 := by
  refine ⟨_, rfl, ?_⟩
  try dsimp only
  with_reducible repeat' first
    | assumption | intro _ | apply Stays.ite | apply onLink_stays (hπ.sub (by decide))
    | split

theorem leaveRing_stays (hπ : AllFree π 137438953472) (r : Nat) (hF : Stays π r0 s) :
    Stays π r0 (leaveRing r s) := by
  unfold leaveRing
  try dsimp only
  with_reducible repeat' first
    | assumption | intro _ | apply Stays.ite | apply onLink_stays (hπ.sub (by decide))

theorem execFordSwitch_stays (hπ : AllFree π 137438953537) (r : Fin 2) (hF : Stays π r0 s) :
    ∃ s1, execFordSwitch r s = .next s1 ∧ Stays π r0 s1 := by
  refine ⟨_, rfl, ?_⟩
  try dsimp only
  with_reducible repeat' first
    | assumption | intro _ | apply Stays.ite | apply upto_stays (hπ.sub (by decide))
    | apply onLink_stays (hπ.sub (by decide)) | apply moveCells_stays (hπ.sub (by decide))
    | split

theorem writeRingCtl_stays (hπ : AllFree π 137439477768) (r : Nat) (v : Word) (hF : Stays π r0 s) :
    Stays π r0 (writeRingCtl r v s) := by
  unfold writeRingCtl
  try dsimp only
  with_reducible repeat' first
    | assumption | intro _ | apply Stays.ite | apply raiseRing_stays (hπ.sub (by decide))
    | apply onLink_stays (hπ.sub (by decide)) | apply leaveRing_stays (hπ.sub (by decide))
    | split

theorem execProbeFail_stays (hπ : AllFree π 137439477769) (r : Fin 2) (hF : Stays π r0 s) :
    ∃ s1, execProbeFail r s = .next s1 ∧ Stays π r0 s1 := by
  refine ⟨_, rfl, ?_⟩
  try dsimp only
  with_reducible repeat' first
    | assumption | apply Stays.ite | apply leaveRing_stays (hπ.sub (by decide)) | apply upto_stays (hπ.sub (by decide))
    | apply raiseRing_stays (hπ.sub (by decide)) | apply wrb_stays (hπ.sub (by decide))
    | split

theorem sfpStore_stays (hπ : AllFree π 64) (r off : Nat) (bs : List Byte) (hF : Stays π r0 s) :
    Stays π r0 (sfpStore r off bs s) := by
  unfold sfpStore
  try dsimp only
  with_reducible repeat' first
    | assumption | apply memWrBytes_stays (hπ.sub (by decide))

theorem sfpPresence_stays (hπ : AllFree π 524360) (r : Nat) (ans : SfpAnswer) (hF : Stays π r0 s) :
    Stays π r0 (sfpPresence r ans s) := by
  unfold sfpPresence
  try dsimp only
  with_reducible repeat' first
    | assumption | apply sfpStore_stays (hπ.sub (by decide)) | apply wrb_stays (hπ.sub (by decide))
    | apply raiseRing_stays (hπ.sub (by decide)) | apply wr_stays (hπ.sub (by decide))
    | split

theorem execSfpPresencePoll_stays (hπ : AllFree π 137439477833) (r : Fin 2) (ans : SfpAnswer) (hF : Stays π r0 s) :
    ∃ s1, execSfpPresencePoll r ans s = .next s1 ∧ Stays π r0 s1 := by
  refine ⟨_, rfl, ?_⟩
  try dsimp only
  with_reducible repeat' first
    | assumption | intro _ | apply Stays.ite | apply upto_stays (hπ.sub (by decide))
    | apply sfpPresence_stays (hπ.sub (by decide)) | apply onLink_stays (hπ.sub (by decide))

theorem execSfpDdmPoll_stays (hπ : AllFree π 137439477833) (r : Fin 2) (ans : SfpAnswer) (hF : Stays π r0 s) :
    ∃ s1, execSfpDdmPoll r ans s = .next s1 ∧ Stays π r0 s1 := by
  refine ⟨_, rfl, ?_⟩
  try dsimp only
  with_reducible repeat' first
    | assumption | intro _ | apply Stays.ite | apply upto_stays (hπ.sub (by decide))
    | apply onLink_stays (hπ.sub (by decide)) | apply sfpStore_stays (hπ.sub (by decide))
    | apply wr_stays (hπ.sub (by decide)) | apply wrb_stays (hπ.sub (by decide)) | apply raiseRing_stays (hπ.sub (by decide))
    | split

theorem execRescan_stays (hπ : AllFree π 70368744702025) (m : Master) (r : Fin 2) (ans : SfpAnswer) (hF : Stays π r0 s) :
    ∃ s1, execRescan m r ans s = .next s1 ∧ Stays π r0 s1 := by
  refine ⟨_, rfl, ?_⟩
  try dsimp only
  with_reducible repeat' first
    | assumption | intro _ | apply byBus_stays (hπ.sub (by decide)) | apply sfpPresence_stays (hπ.sub (by decide))

theorem execSfpDataRead_stays (hπ : AllFree π 70368744701992) (m : Master) (r : Fin 2) (hF : Stays π r0 s) :
    ∃ s1, execSfpDataRead m r s = .next s1 ∧ Stays π r0 s1 := by
  refine ⟨_, rfl, ?_⟩
  try dsimp only
  with_reducible repeat' first
    | assumption | intro _ | apply readAt_stays (hπ.sub (by decide)) | apply respond_stays (hπ.sub (by decide))
    | apply wrf_stays (hπ.sub (by decide))

theorem closeStream_stays (hπ : AllFree π 137438953472) (n : Nat) (hF : Stays π r0 s) :
    Stays π r0 (closeStream n s) := by
  unfold closeStream
  try dsimp only
  with_reducible repeat' first
    | assumption | intro _ | apply dropOpens_stays (hπ.sub (by decide)) | apply onStream_stays (hπ.sub (by decide))

theorem writeStrCtl_stays (hπ : AllFree π 137439477768) (v : Word) (hF : Stays π r0 s) :
    Stays π r0 (writeStrCtl v s) := by
  unfold writeStrCtl
  try dsimp only
  with_reducible repeat' first
    | assumption | apply Stays.ite | apply raiseRing_stays (hπ.sub (by decide)) | apply openStream_stays (hπ.sub (by decide))
    | apply closeStream_stays (hπ.sub (by decide)) | apply reopenStream_stays (hπ.sub (by decide))
    | split

theorem writePut_stays (hπ : AllFree π 137438953472) (v : Nat) (hF : Stays π r0 s) :
    Stays π r0 (writePut v s) := by
  unfold writePut
  try dsimp only
  with_reducible repeat' first
    | assumption | intro _ | apply Stays.ite | apply onStream_stays (hπ.sub (by decide))
    | split

theorem writeGet_stays (hπ : AllFree π 137438953472) (v : Nat) (hF : Stays π r0 s) :
    Stays π r0 (writeGet v s) := by
  unfold writeGet
  try dsimp only
  with_reducible repeat' first
    | assumption | intro _ | apply Stays.ite | apply onStream_stays (hπ.sub (by decide))
    | split

theorem execStrOpen_stays (hπ : AllFree π 70506183655433) (m : Master) (hF : Stays π r0 s) :
    ∃ s1, execStrOpen m s = .next s1 ∧ Stays π r0 s1 := by
  refine ⟨_, rfl, ?_⟩
  try dsimp only
  with_reducible repeat' first
    | assumption | intro _ | apply byBus_stays (hπ.sub (by decide)) | apply writeStrCtl_stays (hπ.sub (by decide))

theorem execStrClose_stays (hπ : AllFree π 70506183655433) (m : Master) (hF : Stays π r0 s) :
    ∃ s1, execStrClose m s = .next s1 ∧ Stays π r0 s1 := by
  refine ⟨_, rfl, ?_⟩
  try dsimp only
  with_reducible repeat' first
    | assumption | intro _ | apply byBus_stays (hπ.sub (by decide)) | apply writeStrCtl_stays (hπ.sub (by decide))

theorem execStrReopen_stays (hπ : AllFree π 70506183655433) (m : Master) (hF : Stays π r0 s) :
    ∃ s1, execStrReopen m s = .next s1 ∧ Stays π r0 s1 := by
  refine ⟨_, rfl, ?_⟩
  try dsimp only
  with_reducible repeat' first
    | assumption | intro _ | apply byBus_stays (hπ.sub (by decide)) | apply writeStrCtl_stays (hπ.sub (by decide))

theorem execPut_stays (hπ : AllFree π 70506183655433) (m : Master) (v : BitVec 8) (hF : Stays π r0 s) :
    ∃ s1, execPut m v s = .next s1 ∧ Stays π r0 s1 := by
  refine ⟨_, rfl, ?_⟩
  try dsimp only
  with_reducible repeat' first
    | assumption | intro _ | apply byBus_stays (hπ.sub (by decide)) | apply writePut_stays (hπ.sub (by decide))

theorem execGet_stays (hπ : AllFree π 70506183655433) (m : Master) (v : BitVec 8) (hF : Stays π r0 s) :
    ∃ s1, execGet m v s = .next s1 ∧ Stays π r0 s1 := by
  refine ⟨_, rfl, ?_⟩
  try dsimp only
  with_reducible repeat' first
    | assumption | intro _ | apply byBus_stays (hπ.sub (by decide)) | apply writeGet_stays (hπ.sub (by decide))

theorem execRmemDataAccess_stays (hπ : AllFree π 70368744702057) (m : Master) (w : Option Word) (hF : Stays π r0 s) :
    ∃ s1, execRmemDataAccess m w s = .next s1 ∧ Stays π r0 s1 := by
  refine ⟨_, rfl, ?_⟩
  try dsimp only
  with_reducible repeat' first
    | assumption | intro _ | apply wrf_stays (hπ.sub (by decide)) | apply byBus_stays (hπ.sub (by decide))
    | apply memWrWord_stays (hπ.sub (by decide)) | apply readAt_stays (hπ.sub (by decide))
    | apply respond_stays (hπ.sub (by decide)) | split

theorem execJoin_stays (hπ : AllFree π 70506183655433) (m : Master) (r : Fin 2) (hF : Stays π r0 s) :
    ∃ s1, execJoin m r s = .next s1 ∧ Stays π r0 s1 := by
  refine ⟨_, rfl, ?_⟩
  try dsimp only
  with_reducible repeat' first
    | assumption | intro _ | apply byBus_stays (hπ.sub (by decide)) | apply writeRingCtl_stays (hπ.sub (by decide))

theorem execLeave_stays (hπ : AllFree π 70506183655433) (m : Master) (r : Fin 2) (hF : Stays π r0 s) :
    ∃ s1, execLeave m r s = .next s1 ∧ Stays π r0 s1 := by
  refine ⟨_, rfl, ?_⟩
  try dsimp only
  with_reducible repeat' first
    | assumption | intro _ | apply byBus_stays (hπ.sub (by decide)) | apply writeRingCtl_stays (hπ.sub (by decide))

theorem execUnwrapNow_stays (hπ : AllFree π 70506183655433) (m : Master) (r : Fin 2) (hF : Stays π r0 s) :
    ∃ s1, execUnwrapNow m r s = .next s1 ∧ Stays π r0 s1 := by
  refine ⟨_, rfl, ?_⟩
  try dsimp only
  with_reducible repeat' first
    | assumption | intro _ | apply byBus_stays (hπ.sub (by decide)) | apply writeRingCtl_stays (hπ.sub (by decide))

theorem execAckTimer_stays (hπ : AllFree π 137438953473) (n : Fin 1024) (hF : Stays π r0 s) :
    ∃ s1, execAckTimer n s = .next s1 ∧ Stays π r0 s1 := by
  refine ⟨_, rfl, ?_⟩
  try dsimp only
  with_reducible repeat' first
    | assumption | intro _ | apply Stays.ite | apply onStream_stays (hπ.sub (by decide))
    | apply upto_stays (hπ.sub (by decide)) | apply answer_stays (hπ.sub (by decide)) | split

theorem execGapTmo_stays (hπ : AllFree π 137440526347) (n : Fin 1024) (hF : Stays π r0 s) :
    ∃ s1, execGapTmo n s = .next s1 ∧ Stays π r0 s1 := by
  refine ⟨_, rfl, ?_⟩
  try dsimp only
  with_reducible repeat' first
    | assumption | apply Stays.ite | apply breakStream_stays (hπ.sub (by decide))
    | apply upto_stays (hπ.sub (by decide)) | split

theorem execBufFullTimeout_stays (hπ : AllFree π 137440526347) (n : Fin 1024) (hF : Stays π r0 s) :
    ∃ s1, execBufFullTimeout n s = .next s1 ∧ Stays π r0 s1 := by
  refine ⟨_, rfl, ?_⟩
  try dsimp only
  with_reducible repeat' first
    | assumption | apply Stays.ite | apply breakStream_stays (hπ.sub (by decide))
    | apply upto_stays (hπ.sub (by decide)) | split

theorem execRetransmit_stays (hπ : AllFree π 137440526347) (n : Fin 1024) (hF : Stays π r0 s) :
    ∃ s1, execRetransmit n s = .next s1 ∧ Stays π r0 s1 := by
  refine ⟨_, rfl, ?_⟩
  try dsimp only
  with_reducible repeat' first
    | assumption | apply Stays.ite | apply resend_stays (hπ.sub (by decide)) | apply upto_stays (hπ.sub (by decide))
    | split

theorem execOpenResend_stays (hπ : AllFree π 137438953473) (n : Fin 1024) (hF : Stays π r0 s) :
    ∃ s1, execOpenResend n s = .next s1 ∧ Stays π r0 s1 := by
  refine ⟨_, rfl, ?_⟩
  try dsimp only
  with_reducible repeat' first
    | assumption | apply Stays.ite | apply sendOpen_stays (hπ.sub (by decide)) | apply upto_stays (hπ.sub (by decide))
    | split

theorem sfpTx_stays (hπ : AllFree π 64) (r : Nat) (v : Word) (hF : Stays π r0 s) :
    Stays π r0 (sfpTx r v s) := by
  unfold sfpTx
  try dsimp only
  with_reducible repeat' first
    | assumption | apply sfpStore_stays (hπ.sub (by decide))

theorem writeRing_stays (hπ : AllFree π 137439477832) (r off : Nat) (v : Word) (hF : Stays π r0 s) :
    Stays π r0 (writeRing r off v s) := by
  unfold writeRing
  try dsimp only
  with_reducible repeat' first
    | assumption | intro _ | apply Stays.ite | apply writeRingCtl_stays (hπ.sub (by decide))
    | apply plainWrite_stays (hπ.sub (by decide)) | apply sfpTx_stays (hπ.sub (by decide))
    | apply onLink_stays (hπ.sub (by decide)) | apply onStream_stays (hπ.sub (by decide))
    | apply writePut_stays (hπ.sub (by decide)) | apply writeGet_stays (hπ.sub (by decide))
    | apply writeStrCtl_stays (hπ.sub (by decide)) | split

theorem ringReset_stays (hπ : AllFree π 137438953536)  (hF : Stays π r0 s) :
    Stays π r0 (ringReset s) := by
  unfold ringReset
  try dsimp only
  with_reducible repeat' first
    | assumption | intro _ | simp only [Stays.mk_mem_rings (hπ.sub (by decide))]

end Sys2Proof.Machine
end

