-- ==== Sys2Proof/Laws/StayRails.lean ====
section
/-! SUPPORT. What the operations of Machine/Rails.lean leave alone (Laws/Stays.lean). -/

set_option linter.unusedTactic false
set_option linter.unreachableTactic false
set_option linter.unusedVariables false

namespace Sys2Proof.Machine

variable {α : Type} {π : State → α} {r0 s : State}

theorem setRail_stays (hπ : AllFree π 4398046511104) (r : Nat) (x : Rail) (hF : Stays π r0 s) :
    Stays π r0 (setRail r x s) := by
  unfold setRail
  try dsimp only
  with_reducible repeat' first
    | assumption | simp only [Stays.mk_rails (hπ.sub (by decide))]

theorem onRail_stays (hπ : AllFree π 4398046511104) (r : Nat) (f : Rail → Rail) (hF : Stays π r0 s) :
    Stays π r0 (onRail r f s) := by
  unfold onRail
  try dsimp only
  with_reducible repeat' first
    | assumption | apply setRail_stays (hπ.sub (by decide))

theorem regAlert_stays (hπ : AllFree π 8796093022208) (r k : Nat) (hF : Stays π r0 s) :
    Stays π r0 (regAlert r k s) := by
  unfold regAlert
  try dsimp only
  with_reducible repeat' first
    | assumption | apply Stays.ite | simp only [Stays.mk_cmdPorts (hπ.sub (by decide))]

theorem raiseReg_stays (hπ : AllFree π 8796093546504) (r k : Nat) (hF : Stays π r0 s) :
    Stays π r0 (raiseReg r k s) := by
  unfold raiseReg
  try dsimp only
  with_reducible repeat' first
    | assumption | apply regAlert_stays (hπ.sub (by decide)) | apply raise_stays (hπ.sub (by decide))

theorem latchOff_stays (hπ : AllFree π 17592531025930) (r : Nat) (hF : Stays π r0 s) :
    Stays π r0 (latchOff r s) := by
  unfold latchOff
  try dsimp only
  with_reducible repeat' first
    | assumption | apply latchSet_stays (hπ.sub (by decide))

theorem setDe_stays (hπ : AllFree π 13194140057608) (r : Nat) (on : Bool) (hF : Stays π r0 s) :
    Stays π r0 (setDe r on s) := by
  unfold setDe
  try dsimp only
  with_reducible repeat' first
    | assumption | intro _ | apply Stays.ite | apply forEach_stays | apply wrb_stays (hπ.sub (by decide))
    | apply onRail_stays (hπ.sub (by decide)) | apply raiseReg_stays (hπ.sub (by decide))

theorem landDe_stays (hπ : AllFree π 13194140057608) (r : Nat) (hF : Stays π r0 s) :
    Stays π r0 (landDe r s) := by
  unfold landDe
  try dsimp only
  with_reducible repeat' first
    | assumption | intro _ | apply setDe_stays (hπ.sub (by decide)) | apply onRail_stays (hπ.sub (by decide))
    | split

theorem setPg_stays (hπ : AllFree π 13194140057608) (r : Nat) (pg : Bool) (hF : Stays π r0 s) :
    Stays π r0 (setPg r pg s) := by
  unfold setPg
  try dsimp only
  with_reducible repeat' first
    | assumption | apply Stays.ite | apply setRail_stays (hπ.sub (by decide)) | apply raiseReg_stays (hπ.sub (by decide))
    | split

theorem railTo_stays (hπ : AllFree π 30786671083530) (r st cause : Nat) (hF : Stays π r0 s) :
    Stays π r0 (railTo r st cause s) := by
  unfold railTo
  try dsimp only
  with_reducible repeat' first
    | assumption | intro _ | apply Stays.ite | apply onRail_stays (hπ.sub (by decide))
    | apply raiseReg_stays (hπ.sub (by decide)) | apply logIt_stays (hπ.sub (by decide))
    | apply latchOff_stays (hπ.sub (by decide)) | apply setPg_stays (hπ.sub (by decide))
    | apply monTrigger_stays (hπ.sub (by decide)) | split

theorem softStart_stays (hπ : AllFree π 30786671083530) (r : Nat) (hF : Stays π r0 s) :
    Stays π r0 (softStart r s) := by
  unfold softStart
  try dsimp only
  with_reducible repeat' first
    | assumption | intro _ | apply Stays.ite | apply clearSet_stays (hπ.sub (by decide))
    | apply onRail_stays (hπ.sub (by decide)) | apply railTo_stays (hπ.sub (by decide))

theorem railEnable_stays (hπ : AllFree π 30786671083530) (r : Nat) (hF : Stays π r0 s) :
    Stays π r0 (railEnable r s) := by
  unfold railEnable
  try dsimp only
  with_reducible repeat' first
    | assumption | intro _ | apply Stays.ite | apply raiseReg_stays (hπ.sub (by decide))
    | apply softStart_stays (hπ.sub (by decide)) | apply onRail_stays (hπ.sub (by decide))
    | split

theorem railDisable_stays (hπ : AllFree π 30786671083530) (r : Nat) (soft : Bool) (hF : Stays π r0 s) :
    Stays π r0 (railDisable r soft s) := by
  unfold railDisable
  try dsimp only
  with_reducible repeat' first
    | assumption | intro _ | apply Stays.ite | apply onRail_stays (hπ.sub (by decide))
    | apply railTo_stays (hπ.sub (by decide)) | split

theorem writeRailCtl_stays (hπ : AllFree π 30786671083530) (r : Nat) (v : Word) (hF : Stays π r0 s) :
    Stays π r0 (writeRailCtl r v s) := by
  unfold writeRailCtl
  try dsimp only
  with_reducible repeat' first
    | assumption | apply Stays.ite | apply railEnable_stays (hπ.sub (by decide))
    | apply railDisable_stays (hπ.sub (by decide))

theorem railFault_stays (hπ : AllFree π 30786671083530) (r cause : Nat) (hF : Stays π r0 s) :
    Stays π r0 (railFault r cause s) := by
  unfold railFault
  try dsimp only
  with_reducible repeat' first
    | assumption | intro _ | apply Stays.ite | apply onRail_stays (hπ.sub (by decide))
    | apply incHeld_stays (hπ.sub (by decide)) | apply raiseReg_stays (hπ.sub (by decide))
    | apply railTo_stays (hπ.sub (by decide))

theorem railStates_stays (hπ : AllFree π 30786671083530) (r : Nat) (hF : Stays π r0 s) :
    Stays π r0 (railStates r s) := by
  unfold railStates
  try dsimp only
  with_reducible repeat' first
    | assumption | apply Stays.ite | apply railTo_stays (hπ.sub (by decide)) | apply railFault_stays (hπ.sub (by decide))
    | apply softStart_stays (hπ.sub (by decide)) | split

theorem railMeasure_stays (hπ : AllFree π 13194140057608) (r : Nat) (hF : Stays π r0 s) :
    Stays π r0 (railMeasure r s) := by
  unfold railMeasure
  try dsimp only
  with_reducible repeat' first
    | assumption | intro _ | apply Stays.ite | apply setRail_stays (hπ.sub (by decide))
    | apply raiseReg_stays (hπ.sub (by decide)) | apply setPg_stays (hπ.sub (by decide))
    | split

theorem newMask_stays (hπ : AllFree π 4398046511104) (r m k : Nat) (hF : Stays π r0 s) :
    Stays π r0 (newMask r m k s) := by
  unfold newMask
  try dsimp only
  with_reducible repeat' first
    | assumption | intro _ | apply Stays.ite | apply onRail_stays (hπ.sub (by decide))

theorem setMask_stays (hπ : AllFree π 13194140057608) (r m k : Nat) (hF : Stays π r0 s) :
    Stays π r0 (setMask r m k s) := by
  unfold setMask
  try dsimp only
  with_reducible repeat' first
    | assumption | apply Stays.ite | apply newMask_stays (hπ.sub (by decide)) | apply raiseReg_stays (hπ.sub (by decide))
    | apply incHeld_stays (hπ.sub (by decide))

theorem dropFaulted_stays (hπ : AllFree π 4398046511104) (r k : Nat) (hF : Stays π r0 s) :
    Stays π r0 (dropFaulted r k s) := by
  unfold dropFaulted
  try dsimp only
  with_reducible repeat' first
    | assumption | intro _ | apply Stays.ite | apply newMask_stays (hπ.sub (by decide))

theorem railDiode_stays (hπ : AllFree π 13194140057608) (r : Nat) (starts : Bool) (hF : Stays π r0 s) :
    Stays π r0 (railDiode r starts s) := by
  unfold railDiode
  try dsimp only
  with_reducible repeat' first
    | assumption | apply Stays.ite | apply setDe_stays (hπ.sub (by decide))

theorem railPhases_stays (hπ : AllFree π 13194140057608) (r len k : Nat) (hF : Stays π r0 s) :
    Stays π r0 (railPhases r len k s) := by
  unfold railPhases
  try dsimp only
  with_reducible repeat' first
    | assumption | apply Stays.ite | apply setRail_stays (hπ.sub (by decide)) | apply setMask_stays (hπ.sub (by decide))
    | apply railDiode_stays (hπ.sub (by decide))

theorem railTaken_stays (hπ : AllFree π 13194140057608) (r : Nat) (hF : Stays π r0 s) :
    Stays π r0 (railTaken r s) := by
  unfold railTaken
  try dsimp only
  with_reducible repeat' first
    | assumption | intro _ | apply Stays.ite | apply railMeasure_stays (hπ.sub (by decide))
    | apply onRail_stays (hπ.sub (by decide)) | apply dropFaulted_stays (hπ.sub (by decide))
    | split

theorem railJudged_stays (hπ : AllFree π 30786671083530) (r : Nat) (hF : Stays π r0 s) :
    Stays π r0 (railJudged r s) := by
  unfold railJudged
  try dsimp only
  with_reducible repeat' first
    | assumption | apply Stays.ite | apply railStates_stays (hπ.sub (by decide))
    | apply railTaken_stays (hπ.sub (by decide)) | apply landDe_stays (hπ.sub (by decide))

theorem railUpdate_stays (hπ : AllFree π 30786671083530) (r : Nat) (hF : Stays π r0 s) :
    Stays π r0 (railUpdate r s) := by
  unfold railUpdate
  try dsimp only
  with_reducible repeat' first
    | assumption | apply Stays.ite | apply railJudged_stays (hπ.sub (by decide))
    | apply railPhases_stays (hπ.sub (by decide)) | split

theorem limitCmd_stays (hπ : AllFree π 13194140057608) (r : Nat) (v : Word) (hF : Stays π r0 s) :
    Stays π r0 (limitCmd r v s).2 := by
  unfold limitCmd
  try dsimp only
  with_reducible repeat' first
    | assumption | intro _ | apply Stays.ite | apply raiseReg_stays (hπ.sub (by decide))
    | apply onRail_stays (hπ.sub (by decide)) | dsimp only

theorem railCommand_stays (hπ : AllFree π 13194140057608) (r src : Nat) (v : Word) (rate : Option Word) (hF : Stays π r0 s) :
    Stays π r0 (railCommand r src v rate s) := by
  unfold railCommand
  try dsimp only
  with_reducible repeat' first
    | assumption | intro _ | apply Stays.ite | apply raiseReg_stays (hπ.sub (by decide))
    | apply incHeld_stays (hπ.sub (by decide)) | apply limitCmd_stays (hπ.sub (by decide))
    | apply onRail_stays (hπ.sub (by decide)) | refine Stays.of_snd (by assumption) ?_
    | split | dsimp only

theorem takeTarget_stays (hπ : AllFree π 4398046511104) (r : Nat) (v : Word) (rate : Option Word) (hF : Stays π r0 s) :
    Stays π r0 (takeTarget r v rate s) := by
  unfold takeTarget
  try dsimp only
  with_reducible repeat' first
    | assumption | intro _ | apply onRail_stays (hπ.sub (by decide)) | split

theorem stepVref_stays (hπ : AllFree π 13194140057608) (r per : Nat) (hF : Stays π r0 s) :
    Stays π r0 (stepVref r per s) := by
  unfold stepVref
  try dsimp only
  with_reducible repeat' first
    | assumption | intro _ | apply Stays.ite | apply setRail_stays (hπ.sub (by decide))
    | apply raiseReg_stays (hπ.sub (by decide)) | apply onRail_stays (hπ.sub (by decide))
    | split

theorem railBoundary_stays (hπ : AllFree π 13194140057608) (d tk : Nat) (fresh : Bool) (hF : Stays π r0 s) :
    Stays π r0 (railBoundary d tk fresh s) := by
  unfold railBoundary
  try dsimp only
  with_reducible repeat' first
    | assumption | intro _ | apply Stays.ite | apply forEach_stays | apply landDe_stays (hπ.sub (by decide))
    | apply onRail_stays (hπ.sub (by decide)) | apply takeTarget_stays (hπ.sub (by decide))
    | apply stepVref_stays (hπ.sub (by decide)) | split

theorem railPass_stays (hπ : AllFree π 4398051229704) (n : Nat) (hF : Stays π r0 s) :
    Stays π r0 (railPass n s).1 := by
  unfold railPass
  try dsimp only
  with_reducible repeat' first
    | assumption | intro _ | apply Stays.ite | apply forEach_stays | apply openGroup_stays (hπ.sub (by decide))
    | apply wrf_stays (hπ.sub (by decide)) | apply wr_stays (hπ.sub (by decide)) | apply onRail_stays (hπ.sub (by decide))
    | split | dsimp only

theorem railAfterClear_stays (hπ : AllFree π 17592531025930)  (hF : Stays π r0 s) :
    Stays π r0 (railAfterClear s) := by
  unfold railAfterClear
  try dsimp only
  with_reducible repeat' first
    | assumption | intro _ | apply Stays.ite | apply forEach_stays | apply latchOff_stays (hπ.sub (by decide))

theorem writeVset_stays (hπ : AllFree π 13194140057608) (r : Nat) (v : Word) (hF : Stays π r0 s) :
    Stays π r0 (writeVset r v s) := by
  unfold writeVset
  try dsimp only
  with_reducible repeat' first
    | assumption | apply Stays.ite | apply railCommand_stays (hπ.sub (by decide))
    | apply wr_stays (hπ.sub (by decide))

theorem writeReg_stays (hπ : AllFree π 30786671083530) (r off : Nat) (v : Word) (hF : Stays π r0 s) :
    Stays π r0 (writeReg r off v s) := by
  unfold writeReg
  try dsimp only
  with_reducible repeat' first
    | assumption | intro _ | apply Stays.ite | apply writeVset_stays (hπ.sub (by decide))
    | apply writeRailCtl_stays (hπ.sub (by decide)) | apply onRail_stays (hπ.sub (by decide))
    | apply plainWrite_stays (hπ.sub (by decide)) | apply monTrigger_stays (hπ.sub (by decide))
    | split

theorem tearMonument_stays (hπ : AllFree π 228698419101770) (sure : Bool) (hF : Stays π r0 s) :
    Stays π r0 (tearMonument sure s) := by
  unfold tearMonument
  try dsimp only
  with_reducible repeat' first
    | assumption | intro _ | apply Stays.ite | apply nvStores_stays (hπ.sub (by decide))
    | apply nvStore_stays (hπ.sub (by decide)) | apply nvCutWord_stays (hπ.sub (by decide))
    | apply onNvm_stays (hπ.sub (by decide)) | simp only [Stays.mk_monument (hπ.sub (by decide))]
    | split

theorem railsOff_stays (hπ : AllFree π 241892903616586)  (hF : Stays π r0 s) :
    Stays π r0 (railsOff s) := by
  unfold railsOff
  try dsimp only
  with_reducible repeat' first
    | assumption | intro _ | apply tearMonument_stays (hπ.sub (by decide)) | apply forEach_stays
    | apply latchOff_stays (hπ.sub (by decide)) | simp only [Stays.mk_rails_cmdPorts_monument (hπ.sub (by decide))]

theorem execRailEnable_stays (hπ : AllFree π 101155415261195) (m : Master) (r : Fin 4) (hF : Stays π r0 s) :
    ∃ s1, execRailEnable m r s = .next s1 ∧ Stays π r0 s1 := by
  refine ⟨_, rfl, ?_⟩
  try dsimp only
  with_reducible repeat' first
    | assumption | intro _ | apply byBus_stays (hπ.sub (by decide)) | apply writeRailCtl_stays (hπ.sub (by decide))

theorem execRailDisable_stays (hπ : AllFree π 101155415261195) (m : Master) (r : Fin 4) (hF : Stays π r0 s) :
    ∃ s1, execRailDisable m r s = .next s1 ∧ Stays π r0 s1 := by
  refine ⟨_, rfl, ?_⟩
  try dsimp only
  with_reducible repeat' first
    | assumption | intro _ | apply byBus_stays (hπ.sub (by decide)) | apply writeRailCtl_stays (hπ.sub (by decide))

theorem execRailUpdate_stays (hπ : AllFree π 30786671083530) (r : Fin 4) (hF : Stays π r0 s) :
    ∃ s1, execRailUpdate r s = .next s1 ∧ Stays π r0 s1 := by
  refine ⟨_, rfl, ?_⟩
  try dsimp only
  with_reducible repeat' first
    | assumption | apply railUpdate_stays (hπ.sub (by decide))

theorem railTimed_stays (hπ : AllFree π 30786671083531) (r t : Nat) (hF : Stays π r0 s) :
    Stays π r0 (railTimed r t s) := by
  unfold railTimed
  try dsimp only
  with_reducible repeat' first
    | assumption | apply Stays.ite | apply upto_stays (hπ.sub (by decide)) | apply railStates_stays (hπ.sub (by decide))
    | apply railUpdate_stays (hπ.sub (by decide)) | split

theorem execDwellExpiry_stays (hπ : AllFree π 30786671083530) (r : Fin 4) (hF : Stays π r0 s) :
    ∃ s1, execDwellExpiry r s = .next s1 ∧ Stays π r0 s1 := by
  refine ⟨_, rfl, ?_⟩
  try dsimp only
  with_reducible repeat' first
    | assumption | apply railUpdate_stays (hπ.sub (by decide))

theorem execHiccupRetry_stays (hπ : AllFree π 30786671083531) (r : Fin 4) (hF : Stays π r0 s) :
    ∃ s1, execHiccupRetry r s = .next s1 ∧ Stays π r0 s1 := by
  refine ⟨_, rfl, ?_⟩
  try dsimp only
  with_reducible repeat' first
    | assumption | apply Stays.ite | apply railTimed_stays (hπ.sub (by decide)) | split

theorem execSstmo_stays (hπ : AllFree π 30786671083531) (r : Fin 4) (hF : Stays π r0 s) :
    ∃ s1, execSstmo r s = .next s1 ∧ Stays π r0 s1 := by
  refine ⟨_, rfl, ?_⟩
  try dsimp only
  with_reducible repeat' first
    | assumption | apply Stays.ite | apply railTimed_stays (hπ.sub (by decide)) | split

theorem execCleanTime_stays (hπ : AllFree π 4398046511105) (r : Fin 4) (hF : Stays π r0 s) :
    ∃ s1, execCleanTime r s = .next s1 ∧ Stays π r0 s1 := by
  refine ⟨_, rfl, ?_⟩
  try dsimp only
  with_reducible repeat' first
    | assumption | intro _ | apply Stays.ite | apply onRail_stays (hπ.sub (by decide))
    | apply upto_stays (hπ.sub (by decide)) | split

theorem execVset_stays (hπ : AllFree π 83562884235273) (m : Master) (r : Fin 4) (v : Word) (hF : Stays π r0 s) :
    ∃ s1, execVset m r v s = .next s1 ∧ Stays π r0 s1 := by
  refine ⟨_, rfl, ?_⟩
  try dsimp only
  with_reducible repeat' first
    | assumption | intro _ | apply byBus_stays (hπ.sub (by decide)) | apply writeVset_stays (hπ.sub (by decide))

theorem execRingCommand_stays (hπ : AllFree π 30924110037002) (r : Fin 4) (hF : Stays π r0 s) :
    ∃ s1, execRingCommand r s = .next s1 ∧ Stays π r0 s1 := by
  refine ⟨_, rfl, ?_⟩
  try dsimp only
  with_reducible repeat' first
    | assumption | intro _ | apply Stays.ite | apply streamTake_stays (hπ.sub (by decide))
    | apply onRail_stays (hπ.sub (by decide)) | apply railCommand_stays (hπ.sub (by decide))
    | apply railDisable_stays (hπ.sub (by decide)) | apply railEnable_stays (hπ.sub (by decide))
    | refine Stays.of_snd (by assumption) ?_ | split | dsimp only

theorem execCmdLost_stays (hπ : AllFree π 13194140057609) (r : Fin 4) (hF : Stays π r0 s) :
    ∃ s1, execCmdLost r s = .next s1 ∧ Stays π r0 s1 := by
  refine ⟨_, rfl, ?_⟩
  try dsimp only
  with_reducible repeat' first
    | assumption | intro _ | apply Stays.ite | apply upto_stays (hπ.sub (by decide))
    | apply raiseReg_stays (hπ.sub (by decide)) | apply onRail_stays (hπ.sub (by decide))
    | apply takeTarget_stays (hπ.sub (by decide)) | split

theorem execCapture_stays (hπ : AllFree π 101155415261195) (m : Master) (hF : Stays π r0 s) :
    ∃ s1, execCapture m s = .next s1 ∧ Stays π r0 s1 := by
  refine ⟨_, rfl, ?_⟩
  try dsimp only
  with_reducible repeat' first
    | assumption | intro _ | apply byBus_stays (hπ.sub (by decide)) | apply writeReg_stays (hπ.sub (by decide))

theorem execMonumentWritten_stays (hπ : AllFree π 237494512123976)  (hF : Stays π r0 s) :
    ∃ s1, execMonumentWritten s = .next s1 ∧ Stays π r0 s1 := by
  refine ⟨_, rfl, ?_⟩
  try dsimp only
  with_reducible repeat' first
    | assumption | apply nvStores_stays (hπ.sub (by decide)) | apply raiseReg_stays (hπ.sub (by decide))
    | simp only [Stays.mk_monument (hπ.sub (by decide))] | split

end Sys2Proof.Machine
end

