-- ==== Sys2Proof/Laws/StayTrackers.lean ====
section
/-! SUPPORT. What the operations of Machine/Trackers.lean leave alone (Laws/Stays.lean). -/

set_option linter.unusedTactic false
set_option linter.unreachableTactic false
set_option linter.unusedVariables false

namespace Sys2Proof.Machine

variable {α : Type} {π : State → α} {r0 s : State}

theorem setTracker_stays (hπ : AllFree π 1099511627776) (t : Nat) (x : Tracker) (hF : Stays π r0 s) :
    Stays π r0 (setTracker t x s) := by
  unfold setTracker
  try dsimp only
  with_reducible repeat' first
    | assumption | simp only [Stays.mk_trackers (hπ.sub (by decide))]

theorem onTracker_stays (hπ : AllFree π 1099511627776) (t : Nat) (f : Tracker → Tracker) (hF : Stays π r0 s) :
    Stays π r0 (onTracker t f s) := by
  unfold onTracker
  try dsimp only
  with_reducible repeat' first
    | assumption | apply setTracker_stays (hπ.sub (by decide))

theorem onSweep_stays (hπ : AllFree π 2199023255552) (f : Sweep → Sweep) (hF : Stays π r0 s) :
    Stays π r0 (onSweep f s) := by
  unfold onSweep
  try dsimp only
  with_reducible repeat' first
    | assumption | simp only [Stays.mk_sweep (hπ.sub (by decide))]

theorem raiseMppt_stays (hπ : AllFree π 524296) (k : Nat) (hF : Stays π r0 s) :
    Stays π r0 (raiseMppt k s) := by
  unfold raiseMppt
  try dsimp only
  with_reducible repeat' first
    | assumption | apply raise_stays (hπ.sub (by decide))

theorem takeSample_stays (hπ : AllFree π 1099511627776) (t start fin : Nat) (i v : AdcSet) (hF : Stays π r0 s) :
    Stays π r0 (takeSample t start fin i v s) := by
  unfold takeSample
  try dsimp only
  with_reducible repeat' first
    | assumption | apply Stays.ite | apply setTracker_stays (hπ.sub (by decide))
    | split

theorem moveRef_stays (hπ : AllFree π 1099511627776) (t : Nat) (up : Bool) (dv : Word) (hF : Stays π r0 s) :
    Stays π r0 (moveRef t up dv s) := by
  unfold moveRef
  try dsimp only
  with_reducible repeat' first
    | assumption | apply Stays.ite | apply setTracker_stays (hπ.sub (by decide))
    | split

theorem baseline_stays (hπ : AllFree π 1099511627776) (t : Nat) (p : Word) (hF : Stays π r0 s) :
    Stays π r0 (baseline t p s) := by
  unfold baseline
  try dsimp only
  with_reducible repeat' first
    | assumption | apply moveRef_stays (hπ.sub (by decide)) | apply setTracker_stays (hπ.sub (by decide))

theorem restart_stays (hπ : AllFree π 1099511627776) (t : Nat) (hF : Stays π r0 s) :
    Stays π r0 (restart t s) := by
  unfold restart
  try dsimp only
  with_reducible repeat' first
    | assumption | intro _ | apply onTracker_stays (hπ.sub (by decide))

theorem perturb_stays (hπ : AllFree π 1099511627776) (t : Nat) (p : Word) (hF : Stays π r0 s) :
    Stays π r0 (perturb t p s) := by
  unfold perturb
  try dsimp only
  with_reducible repeat' first
    | assumption | apply Stays.ite | apply baseline_stays (hπ.sub (by decide)) | apply moveRef_stays (hπ.sub (by decide))
    | apply setTracker_stays (hπ.sub (by decide))

theorem leaveLimit_stays (hπ : AllFree π 1099511627776) (t : Nat) (hF : Stays π r0 s) :
    Stays π r0 (leaveLimit t s) := by
  unfold leaveLimit
  try dsimp only
  with_reducible repeat' first
    | assumption | intro _ | apply onTracker_stays (hπ.sub (by decide))

theorem limitStep_stays (hπ : AllFree π 1099512152072) (t : Nat) (c p : Word) (hF : Stays π r0 s) :
    Stays π r0 (limitStep t c p s) := by
  unfold limitStep
  try dsimp only
  with_reducible repeat' first
    | assumption | intro _ | apply Stays.ite | apply raiseMppt_stays (hπ.sub (by decide))
    | apply onTracker_stays (hπ.sub (by decide)) | apply leaveLimit_stays (hπ.sub (by decide))
    | apply setTracker_stays (hπ.sub (by decide)) | apply moveRef_stays (hπ.sub (by decide))

theorem gapStep_stays (hπ : AllFree π 1099512152072) (t : Nat) (hF : Stays π r0 s) :
    Stays π r0 (gapStep t s) := by
  unfold gapStep
  try dsimp only
  with_reducible repeat' first
    | assumption | intro _ | apply Stays.ite | apply incHeld_stays (hπ.sub (by decide))
    | apply raiseMppt_stays (hπ.sub (by decide)) | apply onTracker_stays (hπ.sub (by decide))
    | apply setTracker_stays (hπ.sub (by decide))

theorem beginPoint_stays (hπ : AllFree π 3298534883328) (t i : Nat) (hF : Stays π r0 s) :
    Stays π r0 (beginPoint t i s) := by
  unfold beginPoint
  try dsimp only
  with_reducible repeat' first
    | assumption | intro _ | apply onTracker_stays (hπ.sub (by decide)) | apply onSweep_stays (hπ.sub (by decide))

theorem startSweep_stays (hπ : AllFree π 3298534883328) (t : Nat) (hF : Stays π r0 s) :
    Stays π r0 (startSweep t s) := by
  unfold startSweep
  try dsimp only
  with_reducible repeat' first
    | assumption | intro _ | apply onSweep_stays (hπ.sub (by decide)) | apply beginPoint_stays (hπ.sub (by decide))
    | apply onTracker_stays (hπ.sub (by decide))

theorem abortSweep_stays (hπ : AllFree π 3298535407624) (t : Nat) (hF : Stays π r0 s) :
    Stays π r0 (abortSweep t s) := by
  unfold abortSweep
  try dsimp only
  with_reducible repeat' first
    | assumption | intro _ | apply raiseMppt_stays (hπ.sub (by decide)) | apply onTracker_stays (hπ.sub (by decide))
    | apply restart_stays (hπ.sub (by decide)) | apply onSweep_stays (hπ.sub (by decide))

theorem parkStep_stays (hπ : AllFree π 1099512152072) (t : Nat) (hF : Stays π r0 s) :
    Stays π r0 (parkStep t s) := by
  unfold parkStep
  try dsimp only
  with_reducible repeat' first
    | assumption | intro _ | apply Stays.ite | apply raiseMppt_stays (hπ.sub (by decide))
    | apply onTracker_stays (hπ.sub (by decide)) | apply moveRef_stays (hπ.sub (by decide))

theorem sweepStep_stays (hπ : AllFree π 3298535407624) (t : Nat) (gap : Bool) (c p : Word) (hF : Stays π r0 s) :
    Stays π r0 (sweepStep t gap c p s) := by
  unfold sweepStep
  try dsimp only
  with_reducible repeat' first
    | assumption | intro _ | apply Stays.ite | apply onSweep_stays (hπ.sub (by decide))
    | apply parkStep_stays (hπ.sub (by decide)) | apply raiseMppt_stays (hπ.sub (by decide))
    | apply abortSweep_stays (hπ.sub (by decide)) | apply beginPoint_stays (hπ.sub (by decide))
    | apply restart_stays (hπ.sub (by decide)) | apply incHeld_stays (hπ.sub (by decide))
    | apply onTracker_stays (hπ.sub (by decide)) | split

theorem stepRows_stays (hπ : AllFree π 1099512152072) (t : Nat) (gap : Bool) (c p : Word) (hF : Stays π r0 s) :
    Stays π r0 (stepRows t gap c p s) := by
  unfold stepRows
  try dsimp only
  with_reducible repeat' first
    | assumption | intro _ | apply Stays.ite | apply restart_stays (hπ.sub (by decide))
    | apply gapStep_stays (hπ.sub (by decide)) | apply limitStep_stays (hπ.sub (by decide))
    | apply onTracker_stays (hπ.sub (by decide)) | apply perturb_stays (hπ.sub (by decide))
    | split

theorem stepEnd_stays (hπ : AllFree π 3298535407624) (t : Nat) (hF : Stays π r0 s) :
    Stays π r0 (stepEnd t s) := by
  unfold stepEnd
  try dsimp only
  with_reducible repeat' first
    | assumption | intro _ | apply Stays.ite | apply setTracker_stays (hπ.sub (by decide))
    | apply sweepStep_stays (hπ.sub (by decide)) | apply onTracker_stays (hπ.sub (by decide))
    | apply parkStep_stays (hπ.sub (by decide)) | apply raiseMppt_stays (hπ.sub (by decide))
    | apply startSweep_stays (hπ.sub (by decide)) | apply stepRows_stays (hπ.sub (by decide))
    | split

theorem lateSteps_stays (hπ : AllFree π 3298535407624)  (hF : Stays π r0 s) :
    Stays π r0 (lateSteps s) := by
  unfold lateSteps
  try dsimp only
  with_reducible repeat' first
    | assumption | intro _ | apply Stays.ite | apply forEach_stays | apply stepEnd_stays (hπ.sub (by decide))

theorem trackSample_stays (hπ : AllFree π 3298535407624) (n start fin : Nat) (hF : Stays π r0 s) :
    Stays π r0 (trackSample n start fin s) := by
  unfold trackSample
  try dsimp only
  with_reducible repeat' first
    | assumption | intro _ | apply Stays.ite | apply lateSteps_stays (hπ.sub (by decide))
    | apply forEach_stays | apply takeSample_stays (hπ.sub (by decide))

theorem writeTrkCtl_stays (hπ : AllFree π 3298535407624) (t : Nat) (v : Word) (hF : Stays π r0 s) :
    Stays π r0 (writeTrkCtl t v s) := by
  unfold writeTrkCtl
  try dsimp only
  with_reducible repeat' first
    | assumption | intro _ | apply Stays.ite | apply onTracker_stays (hπ.sub (by decide))
    | apply raiseMppt_stays (hπ.sub (by decide)) | apply onSweep_stays (hπ.sub (by decide))

theorem writeCap_stays (hπ : AllFree π 8) (t : Nat) (v : Word) (hF : Stays π r0 s) :
    Stays π r0 (writeCap t v s) := by
  unfold writeCap
  try dsimp only
  with_reducible repeat' first
    | assumption | apply Stays.ite | apply wr_stays (hπ.sub (by decide))

theorem capPort_stays (hπ : AllFree π 524296) (t : Nat) (v : Word) (hF : Stays π r0 s) :
    Stays π r0 (capPort t v s) := by
  unfold capPort
  try dsimp only
  with_reducible repeat' first
    | assumption | apply Stays.ite | apply raiseMppt_stays (hπ.sub (by decide)) | apply wr_stays (hπ.sub (by decide))

theorem writeMppt_stays (hπ : AllFree π 3298535407624) (off : Nat) (v : Word) (hF : Stays π r0 s) :
    Stays π r0 (writeMppt off v s) := by
  unfold writeMppt
  try dsimp only
  with_reducible repeat' first
    | assumption | intro _ | apply Stays.ite | apply plainWrite_stays (hπ.sub (by decide))
    | apply onSweep_stays (hπ.sub (by decide)) | apply writeCap_stays (hπ.sub (by decide))
    | apply writeTrkCtl_stays (hπ.sub (by decide)) | apply onTracker_stays (hπ.sub (by decide))
    | split

theorem trackersOff_stays (hπ : AllFree π 3298534883328)  (hF : Stays π r0 s) :
    Stays π r0 (trackersOff s) := by
  unfold trackersOff
  try dsimp only
  with_reducible repeat' first
    | assumption | simp only [Stays.mk_trackers_sweep (hπ.sub (by decide))]

theorem execTrackerEnable_stays (hπ : AllFree π 73667279585289) (m : Master) (t : Fin 24) (hF : Stays π r0 s) :
    ∃ s1, execTrackerEnable m t s = .next s1 ∧ Stays π r0 s1 := by
  refine ⟨_, rfl, ?_⟩
  try dsimp only
  with_reducible repeat' first
    | assumption | intro _ | apply byBus_stays (hπ.sub (by decide)) | apply writeTrkCtl_stays (hπ.sub (by decide))

theorem execTrackerDisable_stays (hπ : AllFree π 73667279585289) (m : Master) (t : Fin 24) (hF : Stays π r0 s) :
    ∃ s1, execTrackerDisable m t s = .next s1 ∧ Stays π r0 s1 := by
  refine ⟨_, rfl, ?_⟩
  try dsimp only
  with_reducible repeat' first
    | assumption | intro _ | apply byBus_stays (hπ.sub (by decide)) | apply writeTrkCtl_stays (hπ.sub (by decide))

theorem execSweepNow_stays (hπ : AllFree π 73667279585289) (m : Master) (t : Fin 24) (hF : Stays π r0 s) :
    ∃ s1, execSweepNow m t s = .next s1 ∧ Stays π r0 s1 := by
  refine ⟨_, rfl, ?_⟩
  try dsimp only
  with_reducible repeat' first
    | assumption | intro _ | apply byBus_stays (hπ.sub (by decide)) | apply writeTrkCtl_stays (hπ.sub (by decide))

theorem execSweepDue_stays (hπ : AllFree π 3298535407625)  (hF : Stays π r0 s) :
    ∃ s1, execSweepDue s = .next s1 ∧ Stays π r0 s1 := by
  refine ⟨_, rfl, ?_⟩
  try dsimp only
  with_reducible repeat' first
    | assumption | intro _ | apply Stays.ite | apply upto_stays (hπ.sub (by decide))
    | apply onSweep_stays (hπ.sub (by decide)) | apply onTracker_stays (hπ.sub (by decide))
    | apply raiseMppt_stays (hπ.sub (by decide)) | split

theorem execStepEnd_stays (hπ : AllFree π 3298535407625) (t : Fin 24) (hF : Stays π r0 s) :
    ∃ s1, execStepEnd t s = .next s1 ∧ Stays π r0 s1 := by
  refine ⟨_, rfl, ?_⟩
  try dsimp only
  with_reducible repeat' first
    | assumption | intro _ | apply Stays.ite | apply onTracker_stays (hπ.sub (by decide))
    | apply upto_stays (hπ.sub (by decide)) | apply stepEnd_stays (hπ.sub (by decide))
    | split

theorem execSwpPRead_stays (hπ : AllFree π 70368744701992) (m : Master) (hF : Stays π r0 s) :
    ∃ s1, execSwpPRead m s = .next s1 ∧ Stays π r0 s1 := by
  refine ⟨_, rfl, ?_⟩
  try dsimp only
  with_reducible repeat' first
    | assumption | intro _ | apply Stays.ite | apply readAt_stays (hπ.sub (by decide))
    | apply respond_stays (hπ.sub (by decide)) | apply wrf_stays (hπ.sub (by decide))

end Sys2Proof.Machine
end

