-- ==== Sys2Proof/Laws/StayCluster.lean ====
section
/-! SUPPORT. What the operations of Machine/Cluster.lean leave alone (Laws/Stays.lean). -/

set_option linter.unusedTactic false
set_option linter.unreachableTactic false
set_option linter.unusedVariables false

namespace Sys2Proof.Machine

variable {α : Type} {π : State → α} {r0 s : State}

theorem wdtRestart_stays (hπ : AllFree π 70368744177664) (h : Nat) (hF : Stays π r0 s) :
    Stays π r0 (wdtRestart h s) := by
  unfold wdtRestart
  try dsimp only
  with_reducible repeat' first
    | assumption | intro _ | apply Stays.ite | apply onHart_stays (hπ.sub (by decide))

theorem writeWdtCfg_stays (hπ : AllFree π 70368744177672) (v : Word) (hF : Stays π r0 s) :
    Stays π r0 (writeWdtCfg v s) := by
  unfold writeWdtCfg
  try dsimp only
  with_reducible repeat' first
    | assumption | intro _ | apply Stays.ite | apply plainWrite_stays (hπ.sub (by decide))
    | apply forEach_stays | apply wdtRestart_stays (hπ.sub (by decide))

theorem kickWdt_stays (hπ : AllFree π 70368744177664) (m : Master) (v : Word) (hF : Stays π r0 s) :
    Stays π r0 (kickWdt m v s) := by
  unfold kickWdt
  try dsimp only
  with_reducible repeat' first
    | assumption | intro _ | apply Stays.ite | apply forEach_stays | apply wdtRestart_stays (hπ.sub (by decide))

theorem raiseDbg_stays (hπ : AllFree π 524296) (k : Nat) (hF : Stays π r0 s) :
    Stays π r0 (raiseDbg k s) := by
  unfold raiseDbg
  try dsimp only
  with_reducible repeat' first
    | assumption | apply raise_stays (hπ.sub (by decide))

theorem endFreeze_stays (hπ : AllFree π 295438474)  (hF : Stays π r0 s) :
    Stays π r0 (endFreeze s) := by
  unfold endFreeze
  try dsimp only
  with_reducible repeat' first
    | assumption | intro _ | apply Stays.ite | apply settle_stays (hπ.sub (by decide))
    | apply spoSource_stays (hπ.sub (by decide)) | apply onPlumb_stays (hπ.sub (by decide))
    | simp only [Stays.mk_holds (hπ.sub (by decide))] | split

theorem haltHart_stays (hπ : AllFree π 70368770918410) (h : Nat) (hF : Stays π r0 s) :
    Stays π r0 (haltHart h s) := by
  unfold haltHart
  try dsimp only
  with_reducible repeat' first
    | assumption | intro _ | apply Stays.ite | apply onHart_stays (hπ.sub (by decide))
    | apply forEach_stays | apply onLeg_stays (hπ.sub (by decide)) | apply onPlumb_stays (hπ.sub (by decide))
    | apply raiseDbg_stays (hπ.sub (by decide)) | apply logHap_stays (hπ.sub (by decide))
    | simp only [Stays.mk_holds (hπ.sub (by decide))]

theorem haltGroup_stays (hπ : AllFree π 70368770918410) (h : Nat) (hF : Stays π r0 s) :
    Stays π r0 (haltGroup h s) := by
  unfold haltGroup
  try dsimp only
  with_reducible repeat' first
    | assumption | intro _ | apply forEach_stays | apply haltHart_stays (hπ.sub (by decide))

theorem resumeHart_stays (hπ : AllFree π 70369039616138) (h : Nat) (hF : Stays π r0 s) :
    Stays π r0 (resumeHart h s) := by
  unfold resumeHart
  try dsimp only
  with_reducible repeat' first
    | assumption | intro _ | apply Stays.ite | apply onHart_stays (hπ.sub (by decide))
    | apply raiseDbg_stays (hπ.sub (by decide)) | apply pmcSettle_stays (hπ.sub (by decide))
    | apply endFreeze_stays (hπ.sub (by decide))

theorem resumeHarts_stays (hπ : AllFree π 70369039616138)  (hF : Stays π r0 s) :
    Stays π r0 (resumeHarts s) := by
  unfold resumeHarts
  try dsimp only
  with_reducible repeat' first
    | assumption | intro _ | apply forEach_stays | apply resumeHart_stays (hπ.sub (by decide))

theorem resetHarts_stays (hπ : AllFree π 70369039616138) (hs : List Nat) (staged : Bool) (hF : Stays π r0 s) :
    Stays π r0 (resetHarts hs staged s) := by
  unfold resetHarts
  try dsimp only
  with_reducible repeat' first
    | assumption | intro _ | apply Stays.ite | apply forEach_stays | apply wdtRestart_stays (hπ.sub (by decide))
    | apply onHart_stays (hπ.sub (by decide)) | apply raiseDbg_stays (hπ.sub (by decide))
    | apply pmcSettle_stays (hπ.sub (by decide)) | apply endFreeze_stays (hπ.sub (by decide))

theorem invertRole_stays (hπ : AllFree π 8)  (hF : Stays π r0 s) :
    Stays π r0 (invertRole s) := by
  unfold invertRole
  try dsimp only
  with_reducible repeat' first
    | assumption | apply wrf_stays (hπ.sub (by decide))

theorem nvPop_stays (hπ : AllFree π 211106233057353)  (hF : Stays π r0 s) :
    Stays π r0 (nvPop s) := by
  unfold nvPop
  try dsimp only
  with_reducible repeat' first
    | assumption | intro _ | apply upto_stays (hπ.sub (by decide)) | apply nvStore_stays (hπ.sub (by decide))
    | apply onNvm_stays (hπ.sub (by decide)) | split

theorem nvQueue_stays (hπ : AllFree π 211106233057353) (m : Doer) (a : Nat) (bytes : List Byte) (hF : Stays π r0 s) :
    Stays π r0 (nvQueue m a bytes s) := by
  unfold nvQueue
  try dsimp only
  with_reducible repeat' first
    | assumption | intro _ | apply Stays.ite | apply nvPop_stays (hπ.sub (by decide))
    | apply onNvm_stays (hπ.sub (by decide))

theorem nvFlush_stays (hπ : AllFree π 211106233057353) (k : Nat) (hF : Stays π r0 s) :
    Stays π r0 (nvFlush  k  s) := by
  induction k generalizing s  with
  | zero => exact hF
  | succ k ih =>
  rw [nvFlush]
  try dsimp only
  with_reducible repeat' first
    | assumption | apply Stays.ite | apply ih | apply nvPop_stays (hπ.sub (by decide))
    | split

theorem nvLoss_stays (hπ : AllFree π 140737488355394)  (hF : Stays π r0 s) :
    Stays π r0 (nvLoss s) := by
  unfold nvLoss
  try dsimp only
  with_reducible repeat' first
    | assumption | intro _ | apply Stays.ite | apply onNvm_stays (hπ.sub (by decide))
    | apply nvCutWord_stays (hπ.sub (by decide)) | split

theorem cutWrites_stays (hπ : AllFree π 211106233057354) (m : Doer) (plan : List (Nat × List Byte)) (t0 t : Nat) (sure : Bool) (hF : Stays π r0 s) :
    Stays π r0 (cutWrites m plan t0 t sure s) := by
  unfold cutWrites
  try dsimp only
  with_reducible repeat' first
    | assumption | intro _ | apply Stays.ite | apply forEach_stays | apply nvStore_stays (hπ.sub (by decide))
    | apply nvCutWord_stays (hπ.sub (by decide)) | split

theorem nvBusWrite_stays (hπ : AllFree π 211106233057385) (m : Master) (req : Option Nat) (a : Nat) (bytes : List Byte) (delta : Bool) (hF : Stays π r0 s) :
    Stays π r0 (nvBusWrite m req a bytes delta s) := by
  unfold nvBusWrite
  try dsimp only
  with_reducible repeat' first
    | assumption | apply Stays.ite | apply busError_stays (hπ.sub (by decide)) | apply busCycle_stays (hπ.sub (by decide))
    | apply nvQueue_stays (hπ.sub (by decide)) | apply raiseNvm_stays (hπ.sub (by decide))
    | split

theorem execWdtKick_stays (hπ : AllFree π 70368744701961) (m : Master) (v : BitVec 4) (hF : Stays π r0 s) :
    ∃ s1, execWdtKick m v s = .next s1 ∧ Stays π r0 s1 := by
  refine ⟨_, rfl, ?_⟩
  try dsimp only
  with_reducible repeat' first
    | assumption | intro _ | apply byBus_stays (hπ.sub (by decide)) | apply kickWdt_stays (hπ.sub (by decide))

theorem execMtimecmpMatch_stays (hπ : AllFree π 70368744177665) (h : Fin 4) (hF : Stays π r0 s) :
    ∃ s1, execMtimecmpMatch h s = .next s1 ∧ Stays π r0 s1 := by
  refine ⟨_, rfl, ?_⟩
  try dsimp only
  with_reducible repeat' first
    | assumption | intro _ | apply Stays.ite | apply onHart_stays (hπ.sub (by decide))
    | apply upto_stays (hπ.sub (by decide)) | split

theorem execScrub_stays (hπ : AllFree π 70368744701961) (errs : Fin 3) (hF : Stays π r0 s) :
    ∃ s1, execScrub errs s = .next s1 ∧ Stays π r0 s1 := by
  refine ⟨_, rfl, ?_⟩
  try dsimp only
  with_reducible repeat' first
    | assumption | apply Stays.ite | apply upto_stays (hπ.sub (by decide)) | apply sramCheck_stays (hπ.sub (by decide))
    | apply pmcCount_stays (hπ.sub (by decide)) | apply raisePmc_stays (hπ.sub (by decide))
    | apply incHeld_stays (hπ.sub (by decide)) | simp only [Stays.mk_cluster (hπ.sub (by decide))]
    | split

theorem execNvWordWritten_stays (hπ : AllFree π 211106233057353)  (hF : Stays π r0 s) :
    ∃ s1, execNvWordWritten s = .next s1 ∧ Stays π r0 s1 := by
  refine ⟨_, rfl, ?_⟩
  try dsimp only
  with_reducible repeat' first
    | assumption | apply Stays.ite | apply nvPop_stays (hπ.sub (by decide)) | split

theorem execHartHalt_stays (hπ : AllFree π 70368770918410) (h : Fin 4) (hF : Stays π r0 s) :
    ∃ s1, execHartHalt h s = .next s1 ∧ Stays π r0 s1 := by
  refine ⟨_, rfl, ?_⟩
  try dsimp only
  with_reducible repeat' first
    | assumption | apply Stays.ite | apply haltGroup_stays (hπ.sub (by decide))

theorem execHartResume_stays (hπ : AllFree π 70369039616138)  (hF : Stays π r0 s) :
    ∃ s1, execHartResume s = .next s1 ∧ Stays π r0 s1 := by
  refine ⟨_, rfl, ?_⟩
  try dsimp only
  with_reducible repeat' first
    | assumption | apply Stays.ite | apply resumeHarts_stays (hπ.sub (by decide))

end Sys2Proof.Machine
end

