-- ==== Sys2Proof/Laws/StayDatum.lean ====
section
/-! SUPPORT. What the operations of Machine/Datum.lean leave alone (Laws/Stays.lean). -/

set_option linter.unusedTactic false
set_option linter.unreachableTactic false
set_option linter.unusedVariables false

namespace Sys2Proof.Machine

variable {α : Type} {π : State → α} {r0 s : State}

theorem onDatum_stays (hπ : AllFree π 1073741824) (f : Datum → Datum) (hF : Stays π r0 s) :
    Stays π r0 (onDatum f s) := by
  unfold onDatum
  try dsimp only
  with_reducible repeat' first
    | assumption | simp only [Stays.mk_datum (hπ.sub (by decide))]

theorem raiseDat_stays (hπ : AllFree π 524296) (k : Nat) (hF : Stays π r0 s) :
    Stays π r0 (raiseDat k s) := by
  unfold raiseDat
  try dsimp only
  with_reducible repeat' first
    | assumption | apply raise_stays (hπ.sub (by decide))

theorem onSide_stays (hπ : AllFree π 1073741824) (r : Nat) (f : Side → Side) (hF : Stays π r0 s) :
    Stays π r0 (onSide r f s) := by
  unfold onSide
  try dsimp only
  with_reducible repeat' first
    | assumption | intro _ | apply Stays.ite | apply onDatum_stays (hπ.sub (by decide))

theorem keepEra_stays (hπ : AllFree π 1125899906842624)  (hF : Stays π r0 s) :
    Stays π r0 (keepEra s) := by
  unfold keepEra
  try dsimp only
  with_reducible repeat' first
    | assumption | intro _ | apply Stays.ite | simp only [Stays.mk_gio (hπ.sub (by decide))]

theorem setRate_stays (hπ : AllFree π 1125900980584448) (r : Int) (hF : Stays π r0 s) :
    Stays π r0 (setRate r s) := by
  unfold setRate
  try dsimp only
  with_reducible repeat' first
    | assumption | intro _ | apply keepEra_stays (hπ.sub (by decide)) | apply onDatum_stays (hπ.sub (by decide))

theorem setStamp_stays (hπ : AllFree π 1125900980584448) (b : Nat) (hF : Stays π r0 s) :
    Stays π r0 (setStamp b s) := by
  unfold setStamp
  try dsimp only
  with_reducible repeat' first
    | assumption | intro _ | apply keepEra_stays (hπ.sub (by decide)) | apply onDatum_stays (hπ.sub (by decide))

theorem datumRefresh_stays (hπ : AllFree π 1126485099806728)  (hF : Stays π r0 s) :
    Stays π r0 (datumRefresh s) := by
  unfold datumRefresh
  try dsimp only
  with_reducible repeat' first
    | assumption | intro _ | apply Stays.ite | apply keepEra_stays (hπ.sub (by decide))
    | apply onDatum_stays (hπ.sub (by decide)) | apply baseTurn_stays (hπ.sub (by decide))
    | apply islRefresh_stays (hπ.sub (by decide)) | apply lockFollowsDatum_stays (hπ.sub (by decide))
    | apply raiseDat_stays (hπ.sub (by decide)) | apply gensLoseDatum_stays (hπ.sub (by decide))
    | split

theorem datumTo_stays (hπ : AllFree π 1126485099806730) (st : DatumSt) (hF : Stays π r0 s) :
    Stays π r0 (datumTo st s) := by
  unfold datumTo
  try dsimp only
  with_reducible repeat' first
    | assumption | intro _ | apply Stays.ite | apply logHap_stays (hπ.sub (by decide))
    | apply keepEra_stays (hπ.sub (by decide)) | apply baseTurn_stays (hπ.sub (by decide))
    | apply wr_stays (hπ.sub (by decide)) | apply islRefresh_stays (hπ.sub (by decide))
    | apply gensLoseDatum_stays (hπ.sub (by decide)) | apply lockFollowsDatum_stays (hπ.sub (by decide))
    | apply raiseDat_stays (hπ.sub (by decide)) | apply datumRefresh_stays (hπ.sub (by decide))
    | apply onDatum_stays (hπ.sub (by decide)) | simp only [Stays.mk_datum (hπ.sub (by decide))]
    | refine Stays.of_snd (by assumption) ?_ | refine Stays.of_fst (by assumption) ?_ | simp only [id_eq]
    | split | dsimp only

theorem setBm_stays (hπ : AllFree π 1075314698) (b : Option (Nat × Nat)) (hF : Stays π r0 s) :
    Stays π r0 (setBm b s) := by
  unfold setBm
  try dsimp only
  with_reducible repeat' first
    | assumption | intro _ | apply Stays.ite | apply onDatum_stays (hπ.sub (by decide))
    | apply logHap_stays (hπ.sub (by decide)) | apply raiseDat_stays (hπ.sub (by decide))
    | split

theorem clearClosure_stays (hπ : AllFree π 1073741832)  (hF : Stays π r0 s) :
    Stays π r0 (clearClosure s) := by
  unfold clearClosure
  try dsimp only
  with_reducible repeat' first
    | assumption | intro _ | apply Stays.ite | apply onDatum_stays (hπ.sub (by decide))
    | apply wr_stays (hπ.sub (by decide)) | split

theorem becomeBenchmark_stays (hπ : AllFree π 1126485099806730)  (hF : Stays π r0 s) :
    Stays π r0 (becomeBenchmark s) := by
  unfold becomeBenchmark
  try dsimp only
  with_reducible repeat' first
    | assumption | intro _ | apply Stays.ite | apply setRate_stays (hπ.sub (by decide))
    | apply onDatum_stays (hπ.sub (by decide)) | apply datumTo_stays (hπ.sub (by decide))
    | apply logHap_stays (hπ.sub (by decide)) | apply raiseDat_stays (hπ.sub (by decide))
    | apply testWaiting_stays (hπ.sub (by decide)) | apply clearClosure_stays (hπ.sub (by decide))

theorem takeSource_stays (hπ : AllFree π 1075314698)  (hF : Stays π r0 s) :
    Stays π r0 (takeSource s) := by
  unfold takeSource
  try dsimp only
  with_reducible repeat' first
    | assumption | intro _ | apply Stays.ite | apply onDatum_stays (hπ.sub (by decide))
    | apply raiseDat_stays (hπ.sub (by decide)) | apply clearClosure_stays (hπ.sub (by decide))
    | apply setBm_stays (hπ.sub (by decide)) | split

theorem makeChange_stays (hπ : AllFree π 550832177160) (t : Nat) (hF : Stays π r0 s) :
    Stays π r0 (makeChange t s) := by
  unfold makeChange
  try dsimp only
  with_reducible repeat' first
    | assumption | intro _ | apply islRefresh_stays (hπ.sub (by decide)) | apply forEach_stays
    | apply checkLock_stays (hπ.sub (by decide)) | apply raiseDat_stays (hπ.sub (by decide))
    | apply onDatum_stays (hπ.sub (by decide)) | split

theorem gainTerm_stays (hπ : AllFree π 2) (k : Nat) (hF : Stays π r0 s) :
    Stays π r0 (gainTerm k s).2 := by
  unfold gainTerm
  try dsimp only
  with_reducible repeat' first
    | assumption | apply Stays.ite | apply draw_stays (hπ.sub (by decide)) | refine Stays.of_snd (by assumption) ?_
    | split | dsimp only

theorem servo_stays (hπ : AllFree π 1126450739019786) (o : Int) (hF : Stays π r0 s) :
    Stays π r0 (servo o s) := by
  unfold servo
  try dsimp only
  with_reducible repeat' first
    | assumption | intro _ | apply Stays.ite | apply onDatum_stays (hπ.sub (by decide))
    | apply setStamp_stays (hπ.sub (by decide)) | apply makeChange_stays (hπ.sub (by decide))
    | apply raiseDat_stays (hπ.sub (by decide)) | apply setRate_stays (hπ.sub (by decide))
    | apply gainTerm_stays (hπ.sub (by decide)) | refine Stays.of_snd (by assumption) ?_
    | split | dsimp only

theorem closure_stays (hπ : AllFree π 1075314698) (r : Nat) (o : Int) (hF : Stays π r0 s) :
    Stays π r0 (closure r o s) := by
  unfold closure
  try dsimp only
  with_reducible repeat' first
    | assumption | intro _ | apply Stays.ite | apply wr_stays (hπ.sub (by decide))
    | apply onDatum_stays (hπ.sub (by decide)) | apply logHap_stays (hπ.sub (by decide))
    | apply raiseDat_stays (hπ.sub (by decide)) | split

theorem offsetOf_stays (hπ : AllFree π 1126450740068362) (r : Nat) (o : Int) (hF : Stays π r0 s) :
    Stays π r0 (offsetOf r o s) := by
  unfold offsetOf
  try dsimp only
  with_reducible repeat' first
    | assumption | apply Stays.ite | apply servo_stays (hπ.sub (by decide)) | apply closure_stays (hπ.sub (by decide))

theorem sendDatum_stays (hπ : AllFree π 137438953480) (r : Nat) (mk : Nat → List Byte) (hF : Stays π r0 s) :
    Stays π r0 (sendDatum r mk s).2 := by
  unfold sendDatum
  try dsimp only
  with_reducible repeat' first
    | assumption | intro _ | apply incMod_stays (hπ.sub (by decide)) | apply onLink_stays (hπ.sub (by decide))
    | dsimp only

theorem sendForesight_stays (hπ : AllFree π 138512695304) (r : Nat) (hF : Stays π r0 s) :
    Stays π r0 (sendForesight r s) := by
  unfold sendForesight
  try dsimp only
  with_reducible repeat' first
    | assumption | intro _ | apply Stays.ite | apply sendDatum_stays (hπ.sub (by decide))
    | apply onSide_stays (hπ.sub (by decide)) | refine Stays.of_snd (by assumption) ?_
    | split | dsimp only

theorem countAnswers_stays (hπ : AllFree π 1074266120) (r : Nat) (hF : Stays π r0 s) :
    Stays π r0 (countAnswers r s) := by
  unfold countAnswers
  try dsimp only
  with_reducible repeat' first
    | assumption | intro _ | apply Stays.ite | apply onSide_stays (hπ.sub (by decide))
    | apply raiseDat_stays (hπ.sub (by decide)) | split

theorem datumTable_stays (hπ : AllFree π 1126485099806730)  (hF : Stays π r0 s) :
    Stays π r0 (datumTable s) := by
  unfold datumTable
  try dsimp only
  with_reducible repeat' first
    | assumption | intro _ | apply Stays.ite | apply logHap_stays (hπ.sub (by decide))
    | apply raiseDat_stays (hπ.sub (by decide)) | apply datumTo_stays (hπ.sub (by decide))
    | apply takeSource_stays (hπ.sub (by decide)) | apply onDatum_stays (hπ.sub (by decide))
    | apply becomeBenchmark_stays (hπ.sub (by decide)) | apply setRate_stays (hπ.sub (by decide))
    | split

theorem exchange_stays (hπ : AllFree π 1126622538760202)  (hF : Stays π r0 s) :
    Stays π r0 (exchange s) := by
  unfold exchange
  try dsimp only
  with_reducible repeat' first
    | assumption | intro _ | apply Stays.ite | apply countAnswers_stays (hπ.sub (by decide))
    | apply takeSource_stays (hπ.sub (by decide)) | apply onDatum_stays (hπ.sub (by decide))
    | apply clearClosure_stays (hπ.sub (by decide)) | apply datumTable_stays (hπ.sub (by decide))
    | apply sendForesight_stays (hπ.sub (by decide))

theorem adoptCycle_stays (hπ : AllFree π 550832177160) (c : CycRec) (hF : Stays π r0 s) :
    Stays π r0 (adoptCycle c s) := by
  unfold adoptCycle
  try dsimp only
  with_reducible repeat' first
    | assumption | intro _ | apply Stays.ite | apply onDatum_stays (hπ.sub (by decide))
    | apply testWaiting_stays (hπ.sub (by decide)) | apply islRefresh_stays (hπ.sub (by decide))
    | apply forEach_stays | apply checkLock_stays (hπ.sub (by decide)) | split

theorem hearSyn_stays (hπ : AllFree π 1074266120) (y : SynRec) (hF : Stays π r0 s) :
    Stays π r0 (hearSyn y s) := by
  unfold hearSyn
  try dsimp only
  with_reducible repeat' first
    | assumption | intro _ | apply Stays.ite | apply onDatum_stays (hπ.sub (by decide))
    | apply raiseDat_stays (hπ.sub (by decide)) | split

theorem takeInbox_stays (hπ : AllFree π 137438953472) (r kind : Nat) (hF : Stays π r0 s) :
    Stays π r0 (takeInbox r kind s).2 := by
  unfold takeInbox
  try dsimp only
  with_reducible repeat' first
    | assumption | intro _ | simp only [Stays.mk_rings (hπ.sub (by decide))] | dsimp only

theorem foresight_stays (hπ : AllFree π 1126588179021834) (r : Nat) (d : DatumIn) (hF : Stays π r0 s) :
    Stays π r0 (foresight r d s) := by
  unfold foresight
  try dsimp only
  with_reducible repeat' first
    | assumption | intro _ | apply Stays.ite | apply onSide_stays (hπ.sub (by decide))
    | apply onDatum_stays (hπ.sub (by decide)) | apply raiseDat_stays (hπ.sub (by decide))
    | apply takeSource_stays (hπ.sub (by decide)) | apply adoptCycle_stays (hπ.sub (by decide))
    | apply hearSyn_stays (hπ.sub (by decide)) | apply sendDatum_stays (hπ.sub (by decide))
    | apply offsetOf_stays (hπ.sub (by decide)) | refine Stays.of_snd (by assumption) ?_
    | split | dsimp only

theorem rejectEx_stays (hπ : AllFree π 524296)  (hF : Stays π r0 s) :
    Stays π r0 (rejectEx s) := by
  unfold rejectEx
  try dsimp only
  with_reducible repeat' first
    | assumption | apply raiseDat_stays (hπ.sub (by decide)) | apply incHeld_stays (hπ.sub (by decide))

theorem backsight_stays (hπ : AllFree π 1126450740068362) (r : Nat) (d : DatumIn) (hF : Stays π r0 s) :
    Stays π r0 (backsight r d s) := by
  unfold backsight
  try dsimp only
  with_reducible repeat' first
    | assumption | intro _ | apply Stays.ite | apply rejectEx_stays (hπ.sub (by decide))
    | apply onSide_stays (hπ.sub (by decide)) | apply wr_stays (hπ.sub (by decide)) | apply incMod_stays (hπ.sub (by decide))
    | apply offsetOf_stays (hπ.sub (by decide)) | split

theorem startCycle_stays (hπ : AllFree π 550832177160) (t number : Nat) (hF : Stays π r0 s) :
    Stays π r0 (startCycle t number s) := by
  unfold startCycle
  try dsimp only
  with_reducible repeat' first
    | assumption | intro _ | apply Stays.ite | apply onDatum_stays (hπ.sub (by decide))
    | apply makeChange_stays (hπ.sub (by decide))

theorem spurSides_stays (hπ : AllFree π 1074266120)  (hF : Stays π r0 s) :
    Stays π r0 (spurSides s) := by
  unfold spurSides
  try dsimp only
  with_reducible repeat' first
    | assumption | intro _ | apply Stays.ite | apply raiseDat_stays (hπ.sub (by decide))
    | apply forEach_stays | apply onSide_stays (hπ.sub (by decide)) | split

theorem enableDatum_stays (hπ : AllFree π 1126485099806730) (on : Bool) (hF : Stays π r0 s) :
    Stays π r0 (enableDatum on s) := by
  unfold enableDatum
  try dsimp only
  with_reducible repeat' first
    | assumption | intro _ | apply Stays.ite | apply datumTo_stays (hπ.sub (by decide))
    | apply spurSides_stays (hπ.sub (by decide)) | apply onDatum_stays (hπ.sub (by decide))

theorem writeDatumCtl_stays (hπ : AllFree π 1126485099806730) (v : Word) (hF : Stays π r0 s) :
    Stays π r0 (writeDatumCtl v s) := by
  unfold writeDatumCtl
  try dsimp only
  with_reducible repeat' first
    | assumption | intro _ | apply Stays.ite | apply onDatum_stays (hπ.sub (by decide))
    | apply raiseDat_stays (hπ.sub (by decide)) | apply makeChange_stays (hπ.sub (by decide))
    | apply setStamp_stays (hπ.sub (by decide)) | apply datumTo_stays (hπ.sub (by decide))
    | split

theorem writeDatum_stays (hπ : AllFree π 1126485099806730) (off : Nat) (v : Word) (hF : Stays π r0 s) :
    Stays π r0 (writeDatum off v s) := by
  unfold writeDatum
  try dsimp only
  with_reducible repeat' first
    | assumption | intro _ | apply Stays.ite | apply enableDatum_stays (hπ.sub (by decide))
    | apply plainWrite_stays (hπ.sub (by decide)) | apply setRate_stays (hπ.sub (by decide))
    | apply writeDatumCtl_stays (hπ.sub (by decide)) | apply onDatum_stays (hπ.sub (by decide))
    | split

theorem execCycChg_stays (hπ : AllFree π 1196853843984395) (m : Master) (hF : Stays π r0 s) :
    ∃ s1, execCycChg m s = .next s1 ∧ Stays π r0 s1 := by
  refine ⟨_, rfl, ?_⟩
  try dsimp only
  with_reducible repeat' first
    | assumption | intro _ | apply byBus_stays (hπ.sub (by decide)) | apply writeDatumCtl_stays (hπ.sub (by decide))

theorem execSetTime_stays (hπ : AllFree π 1196853843984395) (m : Master) (hF : Stays π r0 s) :
    ∃ s1, execSetTime m s = .next s1 ∧ Stays π r0 s1 := by
  refine ⟨_, rfl, ?_⟩
  try dsimp only
  with_reducible repeat' first
    | assumption | intro _ | apply byBus_stays (hπ.sub (by decide)) | apply writeDatumCtl_stays (hπ.sub (by decide))

theorem execResync_stays (hπ : AllFree π 1196853843984395) (m : Master) (hF : Stays π r0 s) :
    ∃ s1, execResync m s = .next s1 ∧ Stays π r0 s1 := by
  refine ⟨_, rfl, ?_⟩
  try dsimp only
  with_reducible repeat' first
    | assumption | intro _ | apply byBus_stays (hπ.sub (by decide)) | apply writeDatumCtl_stays (hπ.sub (by decide))

theorem execDatumEnable_stays (hπ : AllFree π 1196853844377611) (m : Master) (v : Word) (hF : Stays π r0 s) :
    ∃ s1, execDatumEnable m v s = .next s1 ∧ Stays π r0 s1 := by
  refine ⟨_, rfl, ?_⟩
  try dsimp only
  with_reducible repeat' first
    | assumption | intro _ | apply byBus_stays (hπ.sub (by decide)) | apply rwlPath_stays (hπ.sub (by decide))
    | apply writeDatum_stays (hπ.sub (by decide))

theorem execTimeLoRead_stays (hπ : AllFree π 70368744701992) (m : Master) (hF : Stays π r0 s) :
    ∃ s1, execTimeLoRead m s = .next s1 ∧ Stays π r0 s1 := by
  refine ⟨_, rfl, ?_⟩
  try dsimp only
  with_reducible repeat' first
    | assumption | intro _ | apply readAt_stays (hπ.sub (by decide)) | apply respond_stays (hπ.sub (by decide))
    | apply wr_stays (hπ.sub (by decide))

theorem execElectionTimeout_stays (hπ : AllFree π 1126485099806731)  (hF : Stays π r0 s) :
    ∃ s1, execElectionTimeout s = .next s1 ∧ Stays π r0 s1 := by
  refine ⟨_, rfl, ?_⟩
  try dsimp only
  with_reducible repeat' first
    | assumption | apply Stays.ite | apply becomeBenchmark_stays (hπ.sub (by decide))
    | apply upto_stays (hπ.sub (by decide)) | split

theorem execExchangeInterval_stays (hπ : AllFree π 1126622538760203)  (hF : Stays π r0 s) :
    ∃ s1, execExchangeInterval s = .next s1 ∧ Stays π r0 s1 := by
  refine ⟨_, rfl, ?_⟩
  try dsimp only
  with_reducible repeat' first
    | assumption | intro _ | apply Stays.ite | apply upto_stays (hπ.sub (by decide))
    | apply exchange_stays (hπ.sub (by decide)) | apply onDatum_stays (hπ.sub (by decide))
    | split

theorem execForesightReceived_stays (hπ : AllFree π 1126588179021834) (r : Fin 2) (hF : Stays π r0 s) :
    ∃ s1, execForesightReceived r s = .next s1 ∧ Stays π r0 s1 := by
  refine ⟨_, rfl, ?_⟩
  try dsimp only
  with_reducible repeat' first
    | assumption | apply takeInbox_stays (hπ.sub (by decide)) | apply foresight_stays (hπ.sub (by decide))
    | refine Stays.of_snd (by assumption) ?_ | split | dsimp only

theorem execBacksightReceived_stays (hπ : AllFree π 1126588179021834) (r : Fin 2) (hF : Stays π r0 s) :
    ∃ s1, execBacksightReceived r s = .next s1 ∧ Stays π r0 s1 := by
  refine ⟨_, rfl, ?_⟩
  try dsimp only
  with_reducible repeat' first
    | assumption | apply takeInbox_stays (hπ.sub (by decide)) | apply backsight_stays (hπ.sub (by decide))
    | refine Stays.of_snd (by assumption) ?_ | split | dsimp only

theorem datumReset_stays (hπ : AllFree π 1126485099806730)  (hF : Stays π r0 s) :
    Stays π r0 (datumReset s) := by
  unfold datumReset
  try dsimp only
  with_reducible repeat' first
    | assumption | apply datumTo_stays (hπ.sub (by decide)) | simp only [Stays.mk_datum (hπ.sub (by decide))]

end Sys2Proof.Machine
end

