-- ==== Sys2Proof/Laws/StayPair.lean ====
section
/-! SUPPORT. What the operations of Machine/Pair.lean leave alone (Laws/Stays.lean). -/

set_option linter.unusedTactic false
set_option linter.unreachableTactic false
set_option linter.unusedVariables false

namespace Sys2Proof.Machine

variable {α : Type} {π : State → α} {r0 s : State}

theorem onPair_stays (hπ : AllFree π 2147483648) (f : Pair → Pair) (hF : Stays π r0 s) :
    Stays π r0 (onPair f s) := by
  unfold onPair
  try dsimp only
  with_reducible repeat' first
    | assumption | simp only [Stays.mk_pair (hπ.sub (by decide))]

theorem raisePair_stays (hπ : AllFree π 524296) (k : Nat) (hF : Stays π r0 s) :
    Stays π r0 (raisePair k s) := by
  unfold raisePair
  try dsimp only
  with_reducible repeat' first
    | assumption | apply raise_stays (hπ.sub (by decide))

theorem pairCapture_stays (hπ : AllFree π 2148007944) (num : Nat) (nodat : Bool) (hF : Stays π r0 s) :
    Stays π r0 (pairCapture num nodat s) := by
  unfold pairCapture
  try dsimp only
  with_reducible repeat' first
    | assumption | intro _ | apply Stays.ite | apply sramCheck_stays (hπ.sub (by decide))
    | apply onPair_stays (hπ.sub (by decide)) | split

theorem pairPassStart_stays (hπ : AllFree π 2147483648) (n : Nat) (hF : Stays π r0 s) :
    Stays π r0 (pairPassStart n s) := by
  unfold pairPassStart
  try dsimp only
  with_reducible repeat' first
    | assumption | intro _ | apply Stays.ite | apply onPair_stays (hπ.sub (by decide))
    | split

theorem sendFrame_stays (hπ : AllFree π 2147483648) (f : List Byte) (hF : Stays π r0 s) :
    Stays π r0 (sendFrame f s) := by
  unfold sendFrame
  try dsimp only
  with_reducible repeat' first
    | assumption | intro _ | apply onPair_stays (hπ.sub (by decide))

theorem badFrame_stays (hπ : AllFree π 8)  (hF : Stays π r0 s) :
    Stays π r0 (badFrame s) := by
  unfold badFrame
  try dsimp only
  with_reducible repeat' first
    | assumption | apply incHeld_stays (hπ.sub (by decide))

theorem ckBad_stays (hπ : AllFree π 2148007944)  (hF : Stays π r0 s) :
    Stays π r0 (ckBad s) := by
  unfold ckBad
  try dsimp only
  with_reducible repeat' first
    | assumption | intro _ | apply raisePair_stays (hπ.sub (by decide)) | apply onPair_stays (hπ.sub (by decide))

theorem ckInstall_stays (hπ : AllFree π 70368744177728) (c : Ckpt) (hF : Stays π r0 s) :
    Stays π r0 (ckInstall c s) := by
  unfold ckInstall
  try dsimp only
  with_reducible repeat' first
    | assumption | intro _ | apply forEach_stays | apply memWrBytes_stays (hπ.sub (by decide))
    | apply memWrWord_stays (hπ.sub (by decide)) | apply sramWrite_stays (hπ.sub (by decide))

theorem claimOff_stays (hπ : AllFree π 2424307712)  (hF : Stays π r0 s) :
    Stays π r0 (claimOff s) := by
  unfold claimOff
  try dsimp only
  with_reducible repeat' first
    | assumption | intro _ | apply Stays.ite | apply settle_stays (hπ.sub (by decide))
    | apply onPair_stays (hπ.sub (by decide))

theorem claimsMeet_stays (hπ : AllFree π 524296)  (hF : Stays π r0 s) :
    Stays π r0 (claimsMeet s) := by
  unfold claimsMeet
  try dsimp only
  with_reducible repeat' first
    | assumption | apply Stays.ite | apply raisePair_stays (hπ.sub (by decide)) | apply incHeld_stays (hπ.sub (by decide))

theorem yieldClaim_stays (hπ : AllFree π 2424307712)  (hF : Stays π r0 s) :
    Stays π r0 (yieldClaim s) := by
  unfold yieldClaim
  try dsimp only
  with_reducible repeat' first
    | assumption | intro _ | apply Stays.ite | apply claimOff_stays (hπ.sub (by decide))
    | apply onPair_stays (hπ.sub (by decide))

theorem stopLanes_stays (hπ : AllFree π 25770328136)  (hF : Stays π r0 s) :
    Stays π r0 (stopLanes s) := by
  unfold stopLanes
  try dsimp only
  with_reducible repeat' first
    | assumption | intro _ | apply Stays.ite | apply forEach_stays | apply writeLaneCtrl_stays (hπ.sub (by decide))

theorem pairTo_stays (hπ : AllFree π 28195684426) (st : Nat) (hF : Stays π r0 s) :
    Stays π r0 (pairTo st s) := by
  unfold pairTo
  try dsimp only
  with_reducible repeat' first
    | assumption | intro _ | apply Stays.ite | apply onPair_stays (hπ.sub (by decide))
    | apply claimOff_stays (hπ.sub (by decide)) | apply stopLanes_stays (hπ.sub (by decide))
    | apply raisePair_stays (hπ.sub (by decide)) | apply logHap_stays (hπ.sub (by decide))

theorem startClaim_stays (hπ : AllFree π 28195684426) (takeback : Bool) (hF : Stays π r0 s) :
    Stays π r0 (startClaim takeback s) := by
  unfold startClaim
  try dsimp only
  with_reducible repeat' first
    | assumption | intro _ | apply Stays.ite | apply ckBad_stays (hπ.sub (by decide))
    | apply pairTo_stays (hπ.sub (by decide)) | apply onPair_stays (hπ.sub (by decide))

theorem keepWell_stays (hπ : AllFree π 2147483648)  (hF : Stays π r0 s) :
    Stays π r0 (keepWell s) := by
  unfold keepWell
  try dsimp only
  with_reducible repeat' first
    | assumption | intro _ | apply Stays.ite | apply onPair_stays (hπ.sub (by decide))

theorem enterActive_stays (hπ : AllFree π 28195684426)  (hF : Stays π r0 s) :
    Stays π r0 (enterActive s) := by
  unfold enterActive
  try dsimp only
  with_reducible repeat' first
    | assumption | intro _ | apply Stays.ite | apply incHeld_stays (hπ.sub (by decide))
    | apply pairTo_stays (hπ.sub (by decide)) | apply onPair_stays (hπ.sub (by decide))

theorem claimFails_stays (hπ : AllFree π 28195684426)  (hF : Stays π r0 s) :
    Stays π r0 (claimFails s) := by
  unfold claimFails
  try dsimp only
  with_reducible repeat' first
    | assumption | apply raisePair_stays (hπ.sub (by decide)) | apply pairTo_stays (hπ.sub (by decide))

theorem startCold_stays (hπ : AllFree π 28195684426)  (hF : Stays π r0 s) :
    Stays π r0 (startCold s) := by
  unfold startCold
  try dsimp only
  with_reducible repeat' first
    | assumption | intro _ | apply pairTo_stays (hπ.sub (by decide)) | apply onPair_stays (hπ.sub (by decide))

theorem pairTable_stays (hπ : AllFree π 28195684426)  (hF : Stays π r0 s) :
    Stays π r0 (pairTable s) := by
  unfold pairTable
  try dsimp only
  with_reducible repeat' first
    | assumption | apply Stays.ite | apply pairTo_stays (hπ.sub (by decide)) | apply enterActive_stays (hπ.sub (by decide))
    | apply claimFails_stays (hπ.sub (by decide)) | apply startCold_stays (hπ.sub (by decide))
    | apply startClaim_stays (hπ.sub (by decide)) | split

theorem pairArmed_stays (hπ : AllFree π 2147483648) (start : Nat) (legs : List Nat) (hF : Stays π r0 s) :
    Stays π r0 (pairArmed start legs s) := by
  unfold pairArmed
  try dsimp only
  with_reducible repeat' first
    | assumption | intro _ | apply Stays.ite | apply onPair_stays (hπ.sub (by decide))

theorem pairBoundary_stays (hπ : AllFree π 2424832136) (d : Nat) (committed : List Nat) (hF : Stays π r0 s) :
    Stays π r0 (pairBoundary d committed s) := by
  unfold pairBoundary
  try dsimp only
  with_reducible repeat' first
    | assumption | intro _ | apply Stays.ite | apply onPair_stays (hπ.sub (by decide))
    | apply checkOutEn_stays (hπ.sub (by decide)) | apply settle_stays (hπ.sub (by decide))

theorem pairReset_stays (hπ : AllFree π 2424307720)  (hF : Stays π r0 s) :
    Stays π r0 (pairReset s) := by
  unfold pairReset
  try dsimp only
  with_reducible repeat' first
    | assumption | apply settle_stays (hπ.sub (by decide)) | apply wrb_stays (hπ.sub (by decide))
    | simp only [Stays.mk_pair (hπ.sub (by decide))]

theorem writePair_stays (hπ : AllFree π 28195684426) (off : Nat) (v : Word) (hF : Stays π r0 s) :
    Stays π r0 (writePair off v s) := by
  unfold writePair
  try dsimp only
  with_reducible repeat' first
    | assumption | intro _ | apply Stays.ite | apply plainWrite_stays (hπ.sub (by decide))
    | apply pairTo_stays (hπ.sub (by decide)) | apply settle_stays (hπ.sub (by decide))
    | apply wrb_stays (hπ.sub (by decide)) | apply onPair_stays (hπ.sub (by decide))

theorem writePairCtl_stays (hπ : AllFree π 2147483648) (v : Word) (hF : Stays π r0 s) :
    Stays π r0 (writePairCtl v s) := by
  unfold writePairCtl
  try dsimp only
  with_reducible repeat' first
    | assumption | intro _ | apply Stays.ite | apply onPair_stays (hπ.sub (by decide))
    | split

theorem watchStuck_stays (hπ : AllFree π 2147483648)  (hF : Stays π r0 s) :
    Stays π r0 (watchStuck s) := by
  unfold watchStuck
  try dsimp only
  with_reducible repeat' first
    | assumption | intro _ | apply Stays.ite | apply onPair_stays (hπ.sub (by decide))

theorem takeHeartbeat_stays (hπ : AllFree π 2148007944) (ring : Bool) (b : List Byte) (hF : Stays π r0 s) :
    Stays π r0 (takeHeartbeat ring b s) := by
  unfold takeHeartbeat
  try dsimp only
  with_reducible repeat' first
    | assumption | intro _ | apply Stays.ite | apply onPair_stays (hπ.sub (by decide))
    | apply wr_stays (hπ.sub (by decide)) | apply raisePair_stays (hπ.sub (by decide))
    | apply watchStuck_stays (hπ.sub (by decide))

theorem execPairEnable_stays (hπ : AllFree π 70396940255307) (m : Master) (v : Word) (hF : Stays π r0 s) :
    ∃ s1, execPairEnable m v s = .next s1 ∧ Stays π r0 s1 := by
  refine ⟨_, rfl, ?_⟩
  try dsimp only
  with_reducible repeat' first
    | assumption | intro _ | apply byBus_stays (hπ.sub (by decide)) | apply rwlPath_stays (hπ.sub (by decide))
    | apply writePair_stays (hπ.sub (by decide))

theorem execGo_stays (hπ : AllFree π 70370892185609) (m : Master) (hF : Stays π r0 s) :
    ∃ s1, execGo m s = .next s1 ∧ Stays π r0 s1 := by
  refine ⟨_, rfl, ?_⟩
  try dsimp only
  with_reducible repeat' first
    | assumption | intro _ | apply byBus_stays (hπ.sub (by decide)) | apply writePairCtl_stays (hπ.sub (by decide))

theorem execGive_stays (hπ : AllFree π 70370892185609) (m : Master) (hF : Stays π r0 s) :
    ∃ s1, execGive m s = .next s1 ∧ Stays π r0 s1 := by
  refine ⟨_, rfl, ?_⟩
  try dsimp only
  with_reducible repeat' first
    | assumption | intro _ | apply byBus_stays (hπ.sub (by decide)) | apply writePairCtl_stays (hπ.sub (by decide))

theorem execKeep_stays (hπ : AllFree π 70370892185609) (m : Master) (hF : Stays π r0 s) :
    ∃ s1, execKeep m s = .next s1 ∧ Stays π r0 s1 := by
  refine ⟨_, rfl, ?_⟩
  try dsimp only
  with_reducible repeat' first
    | assumption | intro _ | apply byBus_stays (hπ.sub (by decide)) | apply writePairCtl_stays (hπ.sub (by decide))

theorem execPairClr_stays (hπ : AllFree π 70370892185609) (m : Master) (hF : Stays π r0 s) :
    ∃ s1, execPairClr m s = .next s1 ∧ Stays π r0 s1 := by
  refine ⟨_, rfl, ?_⟩
  try dsimp only
  with_reducible repeat' first
    | assumption | intro _ | apply byBus_stays (hπ.sub (by decide)) | apply writePairCtl_stays (hπ.sub (by decide))

theorem execHeartbeatSend_stays (hπ : AllFree π 139586437185)  (hF : Stays π r0 s) :
    ∃ s1, execHeartbeatSend s = .next s1 ∧ Stays π r0 s1 := by
  refine ⟨_, rfl, ?_⟩
  try dsimp only
  with_reducible repeat' first
    | assumption | intro _ | apply Stays.ite | apply onPair_stays (hπ.sub (by decide))
    | apply upto_stays (hπ.sub (by decide)) | apply sendFrame_stays (hπ.sub (by decide))
    | apply streamPut_stays (hπ.sub (by decide)) | refine Stays.of_snd (by assumption) ?_
    | split | dsimp only

theorem execHeartbeatReceived_stays (hπ : AllFree π 139586961416) (ring : Bool) (frame : List Byte) (bad : Bool) (hF : Stays π r0 s) :
    ∃ s1, execHeartbeatReceived ring frame bad s = .next s1 ∧ Stays π r0 s1 := by
  refine ⟨_, rfl, ?_⟩
  try dsimp only
  with_reducible repeat' first
    | assumption | apply Stays.ite | apply streamTake_stays (hπ.sub (by decide))
    | apply takeHeartbeat_stays (hπ.sub (by decide)) | apply badFrame_stays (hπ.sub (by decide))
    | refine Stays.of_snd (by assumption) ?_ | split | dsimp only

theorem execPathTimeout_stays (hπ : AllFree π 2442954891) (ring : Bool) (hF : Stays π r0 s) :
    ∃ s1, execPathTimeout ring s = .next s1 ∧ Stays π r0 s1 := by
  refine ⟨_, rfl, ?_⟩
  try dsimp only
  with_reducible repeat' first
    | assumption | intro _ | apply Stays.ite | apply upto_stays (hπ.sub (by decide))
    | apply onPair_stays (hπ.sub (by decide)) | apply raisePair_stays (hπ.sub (by decide))
    | apply plumbEval_stays (hπ.sub (by decide)) | split

theorem execPairEvaluation_stays (hπ : AllFree π 28195684427)  (hF : Stays π r0 s) :
    ∃ s1, execPairEvaluation s = .next s1 ∧ Stays π r0 s1 := by
  refine ⟨_, rfl, ?_⟩
  try dsimp only
  with_reducible repeat' first
    | assumption | intro _ | apply Stays.ite | apply upto_stays (hπ.sub (by decide))
    | apply pairTable_stays (hπ.sub (by decide)) | apply keepWell_stays (hπ.sub (by decide))
    | apply onPair_stays (hπ.sub (by decide)) | split

theorem execLivenessTimeout_stays (hπ : AllFree π 28195684427)  (hF : Stays π r0 s) :
    ∃ s1, execLivenessTimeout s = .next s1 ∧ Stays π r0 s1 := by
  refine ⟨_, rfl, ?_⟩
  try dsimp only
  with_reducible repeat' first
    | assumption | apply Stays.ite | apply pairTo_stays (hπ.sub (by decide)) | apply upto_stays (hπ.sub (by decide))
    | split

theorem execClaimPeerChange_stays (hπ : AllFree π 2424832008) (low : Bool) (hF : Stays π r0 s) :
    ∃ s1, execClaimPeerChange low s = .next s1 ∧ Stays π r0 s1 := by
  refine ⟨_, rfl, ?_⟩
  try dsimp only
  with_reducible repeat' first
    | assumption | intro _ | apply Stays.ite | apply onPair_stays (hπ.sub (by decide))
    | apply settle_stays (hπ.sub (by decide)) | apply watchStuck_stays (hπ.sub (by decide))
    | apply yieldClaim_stays (hπ.sub (by decide)) | apply claimsMeet_stays (hπ.sub (by decide))
    | split

theorem execClaimSettle_stays (hπ : AllFree π 2147483649)  (hF : Stays π r0 s) :
    ∃ s1, execClaimSettle s = .next s1 ∧ Stays π r0 s1 := by
  refine ⟨_, rfl, ?_⟩
  try dsimp only
  with_reducible repeat' first
    | assumption | intro _ | apply Stays.ite | apply onPair_stays (hπ.sub (by decide))
    | apply upto_stays (hπ.sub (by decide)) | split

theorem execClaimTimeout_stays (hπ : AllFree π 28195684427)  (hF : Stays π r0 s) :
    ∃ s1, execClaimTimeout s = .next s1 ∧ Stays π r0 s1 := by
  refine ⟨_, rfl, ?_⟩
  try dsimp only
  with_reducible repeat' first
    | assumption | apply Stays.ite | apply claimFails_stays (hπ.sub (by decide))
    | apply upto_stays (hπ.sub (by decide)) | split

theorem execInstallDone_stays (hπ : AllFree π 70396938813512)  (hF : Stays π r0 s) :
    ∃ s1, execInstallDone s = .next s1 ∧ Stays π r0 s1 := by
  refine ⟨_, rfl, ?_⟩
  try dsimp only
  with_reducible repeat' first
    | assumption | intro _ | apply Stays.ite | apply ckInstall_stays (hπ.sub (by decide))
    | apply raisePair_stays (hπ.sub (by decide)) | apply onPair_stays (hπ.sub (by decide))
    | apply forEach_stays | apply writeLaneCtrl_stays (hπ.sub (by decide)) | apply yieldClaim_stays (hπ.sub (by decide))
    | apply claimsMeet_stays (hπ.sub (by decide)) | split

theorem execStartWait_stays (hπ : AllFree π 28195684427)  (hF : Stays π r0 s) :
    ∃ s1, execStartWait s = .next s1 ∧ Stays π r0 s1 := by
  refine ⟨_, rfl, ?_⟩
  try dsimp only
  with_reducible repeat' first
    | assumption | apply Stays.ite | apply startCold_stays (hπ.sub (by decide)) | apply upto_stays (hπ.sub (by decide))
    | split

theorem execPeerStuck_stays (hπ : AllFree π 524297)  (hF : Stays π r0 s) :
    ∃ s1, execPeerStuck s = .next s1 ∧ Stays π r0 s1 := by
  refine ⟨_, rfl, ?_⟩
  try dsimp only
  with_reducible repeat' first
    | assumption | apply Stays.ite | apply raisePair_stays (hπ.sub (by decide)) | apply upto_stays (hπ.sub (by decide))
    | split

theorem execLocalCapture_stays (hπ : AllFree π 2148007945)  (hF : Stays π r0 s) :
    ∃ s1, execLocalCapture s = .next s1 ∧ Stays π r0 s1 := by
  refine ⟨_, rfl, ?_⟩
  try dsimp only
  with_reducible repeat' first
    | assumption | apply Stays.ite | apply upto_stays (hπ.sub (by decide)) | apply pairCapture_stays (hπ.sub (by decide))
    | split

theorem execSegmentSend_stays (hπ : AllFree π 2147483657)  (hF : Stays π r0 s) :
    ∃ s1, execSegmentSend s = .next s1 ∧ Stays π r0 s1 := by
  refine ⟨_, rfl, ?_⟩
  try dsimp only
  with_reducible repeat' first
    | assumption | intro _ | apply Stays.ite | apply upto_stays (hπ.sub (by decide))
    | apply sendFrame_stays (hπ.sub (by decide)) | apply wr_stays (hπ.sub (by decide))
    | apply onPair_stays (hπ.sub (by decide)) | split

theorem ckFinish_stays (hπ : AllFree π 28195684426) (bs : List Byte) (segs from' : Nat) (hF : Stays π r0 s) :
    Stays π r0 (ckFinish bs segs from' s) := by
  unfold ckFinish
  try dsimp only
  with_reducible repeat' first
    | assumption | intro _ | apply Stays.ite | apply ckBad_stays (hπ.sub (by decide))
    | apply onPair_stays (hπ.sub (by decide)) | apply raisePair_stays (hπ.sub (by decide))
    | apply wr_stays (hπ.sub (by decide)) | apply startClaim_stays (hπ.sub (by decide))
    | split

theorem execSegmentReceived_stays (hπ : AllFree π 28195684426) (frame : List Byte) (bad : Bool) (hF : Stays π r0 s) :
    ∃ s1, execSegmentReceived frame bad s = .next s1 ∧ Stays π r0 s1 := by
  refine ⟨_, rfl, ?_⟩
  try dsimp only
  with_reducible repeat' first
    | assumption | intro _ | apply Stays.ite | apply badFrame_stays (hπ.sub (by decide))
    | apply onPair_stays (hπ.sub (by decide)) | apply ckBad_stays (hπ.sub (by decide))
    | apply ckFinish_stays (hπ.sub (by decide)) | split

end Sys2Proof.Machine
end

