-- ==== Sys2Proof/Laws/StayRouter.lean ====
section
/-! SUPPORT. What the operations of Machine/Router.lean leave alone (Laws/Stays.lean). -/

set_option linter.unusedTactic false
set_option linter.unreachableTactic false
set_option linter.unusedVariables false

namespace Sys2Proof.Machine

variable {α : Type} {π : State → α} {r0 s : State}

theorem pulse_stays (hπ : AllFree π 17596825993226) (n : Nat) (hF : Stays π r0 s) :
    Stays π r0 (pulse n s) := by
  unfold pulse
  try dsimp only
  with_reducible repeat' first
    | assumption | intro _ | apply Stays.ite | apply forEach_stays | apply latchSet_stays (hπ.sub (by decide))
    | apply onAdc_stays (hπ.sub (by decide))

theorem raiseEvr_stays (hπ : AllFree π 524296) (k : Nat) (hF : Stays π r0 s) :
    Stays π r0 (raiseEvr k s) := by
  unfold raiseEvr
  try dsimp only
  with_reducible repeat' first
    | assumption | apply Stays.ite | apply raise_stays (hπ.sub (by decide))

theorem record_stays (hπ : AllFree π 524296) (n src : Nat) (o : Occ) (hF : Stays π r0 s) :
    Stays π r0 (record n src o s) := by
  unfold record
  try dsimp only
  with_reducible repeat' first
    | assumption | apply Stays.ite | apply setChan_stays (hπ.sub (by decide)) | apply raiseEvr_stays (hπ.sub (by decide))

theorem headDone_stays (hπ : AllFree π 524288) (n src : Nat) (hF : Stays π r0 s) :
    Stays π r0 (headDone n src s) := by
  unfold headDone
  try dsimp only
  with_reducible repeat' first
    | assumption | apply Stays.ite | apply setSrcQ_stays (hπ.sub (by decide)) | split

theorem promote_stays (hπ : AllFree π 524297) (e : Nat) (hF : Stays π r0 s) :
    Stays π r0 (promote e s) := by
  unfold promote
  try dsimp only
  with_reducible repeat' first
    | assumption | intro _ | apply Stays.ite | apply upto_stays (hπ.sub (by decide))
    | apply setSrcQ_stays (hπ.sub (by decide)) | apply forEach_stays | apply setChan_stays (hπ.sub (by decide))
    | apply raiseEvr_stays (hπ.sub (by decide)) | apply incMod_stays (hπ.sub (by decide))
    | split

theorem promoteDue_stays (hπ : AllFree π 524297) (n : Nat) (hF : Stays π r0 s) :
    Stays π r0 (promoteDue n s) := by
  unfold promoteDue
  try dsimp only
  with_reducible repeat' first
    | assumption | intro _ | apply forEach_stays | apply promote_stays (hπ.sub (by decide))

theorem deliver_stays (hπ : AllFree π 87965570695179) (n : Nat) (hF : Stays π r0 s) :
    Stays π r0 (deliver n s) := by
  unfold deliver
  try dsimp only
  with_reducible repeat' first
    | assumption | apply promoteDue_stays (hπ.sub (by decide)) | apply upto_stays (hπ.sub (by decide))
    | apply setChan_stays (hπ.sub (by decide)) | apply record_stays (hπ.sub (by decide))
    | apply pulse_stays (hπ.sub (by decide)) | apply headDone_stays (hπ.sub (by decide))
    | apply pmcCount_stays (hπ.sub (by decide)) | split

theorem readRec0_stays (hπ : AllFree π 524320) (n : Nat) (hF : Stays π r0 s) :
    Stays π r0 (readRec0 n s) := by
  unfold readRec0
  try dsimp only
  with_reducible repeat' first
    | assumption | apply respond_stays (hπ.sub (by decide)) | apply setChan_stays (hπ.sub (by decide))
    | split

theorem putEntry_stays (hπ : AllFree π 1048576) (e : LogEnt) (hF : Stays π r0 s) :
    Stays π r0 (putEntry e s) := by
  unfold putEntry
  try dsimp only
  with_reducible repeat' first
    | assumption | apply Stays.ite | simp only [Stays.mk_log (hπ.sub (by decide))]
    | split

theorem dropEntry_stays (hπ : AllFree π 1572872) (full : Bool) (hF : Stays π r0 s) :
    Stays π r0 (dropEntry full s) := by
  unfold dropEntry
  try dsimp only
  with_reducible repeat' first
    | assumption | apply Stays.ite | apply raiseEvr_stays (hπ.sub (by decide)) | simp only [Stays.mk_log (hπ.sub (by decide))]
    | split

theorem putMark_stays (hπ : AllFree π 1048576) (m : LogEnt) (hF : Stays π r0 s) :
    Stays π r0 (putMark m s) := by
  unfold putMark
  try dsimp only
  with_reducible repeat' first
    | assumption | apply Stays.ite | apply putEntry_stays (hπ.sub (by decide))

theorem putBaseMark_stays (hπ : AllFree π 1048576) (e : LogEnt) (hF : Stays π r0 s) :
    Stays π r0 (putBaseMark e s) := by
  unfold putBaseMark
  try dsimp only
  with_reducible repeat' first
    | assumption | apply Stays.ite | apply putMark_stays (hπ.sub (by decide)) | simp only [Stays.mk_log (hπ.sub (by decide))]

theorem putMarks_stays (hπ : AllFree π 1048576) (e : LogEnt) (hF : Stays π r0 s) :
    Stays π r0 (putMarks e s) := by
  unfold putMarks
  try dsimp only
  with_reducible repeat' first
    | assumption | apply Stays.ite | apply putBaseMark_stays (hπ.sub (by decide))
    | apply putEntry_stays (hπ.sub (by decide)) | simp only [Stays.mk_log (hπ.sub (by decide))]
    | split

theorem markSpan_stays (hπ : AllFree π 1048576) (e : LogEnt) (hF : Stays π r0 s) :
    Stays π r0 (markSpan e s) := by
  unfold markSpan
  try dsimp only
  with_reducible repeat' first
    | assumption | apply Stays.ite | simp only [Stays.mk_log (hπ.sub (by decide))]

theorem appendEntry_stays (hπ : AllFree π 1572872) (e : LogEnt) (hF : Stays π r0 s) :
    Stays π r0 (appendEntry e s) := by
  unfold appendEntry
  try dsimp only
  with_reducible repeat' first
    | assumption | apply Stays.ite | apply markSpan_stays (hπ.sub (by decide)) | apply dropEntry_stays (hπ.sub (by decide))
    | apply putMarks_stays (hπ.sub (by decide)) | apply putEntry_stays (hπ.sub (by decide))
    | apply raiseEvr_stays (hπ.sub (by decide)) | simp only [Stays.mk_log (hπ.sub (by decide))]

theorem writeNext_stays (hπ : AllFree π 1572872)  (hF : Stays π r0 s) :
    Stays π r0 (writeNext s) := by
  unfold writeNext
  try dsimp only
  with_reducible repeat' first
    | assumption | apply appendEntry_stays (hπ.sub (by decide)) | simp only [Stays.mk_log (hπ.sub (by decide))]
    | split

theorem submitEntry_stays (hπ : AllFree π 1572872) (e : LogEnt) (hF : Stays π r0 s) :
    Stays π r0 (submitEntry e s) := by
  unfold submitEntry
  try dsimp only
  with_reducible repeat' first
    | assumption | apply Stays.ite | apply appendEntry_stays (hπ.sub (by decide))
    | apply writeNext_stays (hπ.sub (by decide)) | simp only [Stays.mk_log (hπ.sub (by decide))]

theorem rtcSetMark_stays (hπ : AllFree π 1572872) (old new : Nat) (hF : Stays π r0 s) :
    Stays π r0 (rtcSetMark old new s) := by
  unfold rtcSetMark
  try dsimp only
  with_reducible repeat' first
    | assumption | apply Stays.ite | apply submitEntry_stays (hπ.sub (by decide))

theorem nextSubmit_stays (hπ : AllFree π 2)  (hF : Stays π r0 s) :
    Stays π r0 (nextSubmit s).2 := by
  unfold nextSubmit
  try dsimp only
  with_reducible repeat' first
    | assumption | intro _ | apply Stays.ite | apply draw_stays (hπ.sub (by decide))
    | refine Stays.of_snd (by assumption) ?_ | split | dsimp only

theorem submitLog_stays (hπ : AllFree π 1572874)  (hF : Stays π r0 s) :
    Stays π r0 (submitLog s) := by
  unfold submitLog
  try dsimp only
  with_reducible repeat' first
    | assumption | apply Stays.ite | apply nextSubmit_stays (hπ.sub (by decide))
    | apply submitEntry_stays (hπ.sub (by decide)) | simp only [Stays.mk_log (hπ.sub (by decide))]
    | refine Stays.of_snd (by assumption) ?_ | split | dsimp only

theorem goLog_stays (hπ : AllFree π 1572872) (code : Nat) (hF : Stays π r0 s) :
    Stays π r0 (goLog code s) := by
  unfold goLog
  try dsimp only
  with_reducible repeat' first
    | assumption | intro _ | apply submitEntry_stays (hπ.sub (by decide))

theorem emptyLog_stays (hπ : AllFree π 1048576)  (hF : Stays π r0 s) :
    Stays π r0 (emptyLog s) := by
  unfold emptyLog
  try dsimp only
  with_reducible repeat' first
    | assumption | simp only [Stays.mk_log (hπ.sub (by decide))]

theorem keepStopFull_stays (hπ : AllFree π 1048576)  (hF : Stays π r0 s) :
    Stays π r0 (keepStopFull s) := by
  unfold keepStopFull
  try dsimp only
  with_reducible repeat' first
    | assumption | simp only [Stays.mk_log (hπ.sub (by decide))]

theorem logToValley_stays (hπ : AllFree π 1048576)  (hF : Stays π r0 s) :
    Stays π r0 (logToValley s) := by
  unfold logToValley
  try dsimp only
  with_reducible repeat' first
    | assumption | apply Stays.ite | apply baseTurn_stays (hπ.sub (by decide)) | simp only [Stays.mk_log (hπ.sub (by decide))]

theorem valleyMark_stays (hπ : AllFree π 1572872)  (hF : Stays π r0 s) :
    Stays π r0 (valleyMark s) := by
  unfold valleyMark
  try dsimp only
  with_reducible repeat' first
    | assumption | apply Stays.ite | apply dropEntry_stays (hπ.sub (by decide)) | apply putMark_stays (hπ.sub (by decide))
    | split

theorem replayLog_stays (hπ : AllFree π 1572872)  (hF : Stays π r0 s) :
    Stays π r0 (replayLog s) := by
  unfold replayLog
  try dsimp only
  with_reducible repeat' first
    | assumption | intro _ | apply Stays.ite | apply raiseEvr_stays (hπ.sub (by decide))
    | simp only [Stays.mk_log (hπ.sub (by decide))] | split

theorem execDelivery_stays (hπ : AllFree π 87965570695179) (n : Fin 64) (hF : Stays π r0 s) :
    ∃ s1, execDelivery n s = .next s1 ∧ Stays π r0 s1 := by
  refine ⟨_, rfl, ?_⟩
  try dsimp only
  with_reducible repeat' first
    | assumption | apply Stays.ite | apply deliver_stays (hπ.sub (by decide))

theorem execPromotion_stays (hπ : AllFree π 524297) (e : Fin 512) (hF : Stays π r0 s) :
    ∃ s1, execPromotion e s = .next s1 ∧ Stays π r0 s1 := by
  refine ⟨_, rfl, ?_⟩
  try dsimp only
  with_reducible repeat' first
    | assumption | apply Stays.ite | apply promote_stays (hπ.sub (by decide))

theorem execDeadlineWrite_stays (hπ : AllFree π 70368745095177) (m : Master) (i : Fin 3) (v : BitVec 16) (hF : Stays π r0 s) :
    ∃ s1, execDeadlineWrite m i v s = .next s1 ∧ Stays π r0 s1 := by
  refine ⟨_, rfl, ?_⟩
  try dsimp only
  with_reducible repeat' first
    | assumption | intro _ | apply byBus_stays (hπ.sub (by decide)) | apply rwlPath_stays (hπ.sub (by decide))
    | apply plainWrite_stays (hπ.sub (by decide))

theorem execRec0Read_stays (hπ : AllFree π 70368744701992) (m : Master) (n : Fin 64) (hF : Stays π r0 s) :
    ∃ s1, execRec0Read m n s = .next s1 ∧ Stays π r0 s1 := by
  refine ⟨_, rfl, ?_⟩
  try dsimp only
  with_reducible repeat' first
    | assumption | intro _ | apply readAt_stays (hπ.sub (by decide)) | apply readRec0_stays (hπ.sub (by decide))

theorem execSwRaise_stays (hπ : AllFree π 70368744701961) (m : Master) (v : Byte) (hF : Stays π r0 s) :
    ∃ s1, execSwRaise m v s = .next s1 ∧ Stays π r0 s1 := by
  refine ⟨_, rfl, ?_⟩
  try dsimp only
  with_reducible repeat' first
    | assumption | intro _ | apply byBus_stays (hπ.sub (by decide)) | apply forEach_stays
    | apply occur_stays (hπ.sub (by decide))

theorem execLogSubmit_stays (hπ : AllFree π 1572874)  (hF : Stays π r0 s) :
    ∃ s1, execLogSubmit s = .next s1 ∧ Stays π r0 s1 := by
  refine ⟨_, rfl, ?_⟩
  try dsimp only
  with_reducible repeat' first
    | assumption | apply submitLog_stays (hπ.sub (by decide))

theorem execGoLog_stays (hπ : AllFree π 70368745750537) (m : Master) (code : Byte) (hF : Stays π r0 s) :
    ∃ s1, execGoLog m code s = .next s1 ∧ Stays π r0 s1 := by
  refine ⟨_, rfl, ?_⟩
  try dsimp only
  with_reducible repeat' first
    | assumption | intro _ | apply byBus_stays (hπ.sub (by decide)) | apply goLog_stays (hπ.sub (by decide))

theorem execLogWrite_stays (hπ : AllFree π 1572873)  (hF : Stays π r0 s) :
    ∃ s1, execLogWrite s = .next s1 ∧ Stays π r0 s1 := by
  refine ⟨_, rfl, ?_⟩
  try dsimp only
  with_reducible repeat' first
    | assumption | apply Stays.ite | apply writeNext_stays (hπ.sub (by decide)) | apply upto_stays (hπ.sub (by decide))
    | split

theorem execLogDataRead_stays (hπ : AllFree π 70368745750568) (m : Master) (hF : Stays π r0 s) :
    ∃ s1, execLogDataRead m s = .next s1 ∧ Stays π r0 s1 := by
  refine ⟨_, rfl, ?_⟩
  try dsimp only
  with_reducible repeat' first
    | assumption | intro _ | apply Stays.ite | apply readAt_stays (hπ.sub (by decide))
    | apply wrb_stays (hπ.sub (by decide)) | apply wrf_stays (hπ.sub (by decide)) | apply respond_stays (hπ.sub (by decide))
    | simp only [Stays.mk_log (hπ.sub (by decide))]

theorem clearLogFull_stays (hπ : AllFree π 1048576)  (hF : Stays π r0 s) :
    Stays π r0 (clearLogFull s) := by
  unfold clearLogFull
  try dsimp only
  with_reducible repeat' first
    | assumption | apply Stays.ite | apply emptyLog_stays (hπ.sub (by decide)) | apply putEntry_stays (hπ.sub (by decide))

theorem execLogFullClear_stays (hπ : AllFree π 70368745750537) (m : Master) (hF : Stays π r0 s) :
    ∃ s1, execLogFullClear m s = .next s1 ∧ Stays π r0 s1 := by
  refine ⟨_, rfl, ?_⟩
  try dsimp only
  with_reducible repeat' first
    | assumption | intro _ | apply byBus_stays (hπ.sub (by decide)) | apply clearLogFull_stays (hπ.sub (by decide))

theorem execReplayDone_stays (hπ : AllFree π 1572872)  (hF : Stays π r0 s) :
    ∃ s1, execReplayDone s = .next s1 ∧ Stays π r0 s1 := by
  refine ⟨_, rfl, ?_⟩
  try dsimp only
  with_reducible repeat' first
    | assumption | apply Stays.ite | apply replayLog_stays (hπ.sub (by decide))

theorem routerReset_stays (hπ : AllFree π 524288)  (hF : Stays π r0 s) :
    Stays π r0 (routerReset s) := by
  unfold routerReset
  try dsimp only
  with_reducible repeat' first
    | assumption | simp only [Stays.mk_evr (hπ.sub (by decide))]

end Sys2Proof.Machine
end

