-- ==== Sys2Proof/Laws/StayValley.lean ====
section
/-! SUPPORT. What the operations of Machine/Valley.lean leave alone (Laws/Stays.lean). -/

set_option linter.unusedTactic false
set_option linter.unreachableTactic false
set_option linter.unusedVariables false

namespace Sys2Proof.Machine

variable {α : Type} {π : State → α} {r0 s : State}

theorem onVal_stays (hπ : AllFree π 1024) (f : Valley → Valley) (hF : Stays π r0 s) :
    Stays π r0 (onVal f s) := by
  unfold onVal
  try dsimp only
  with_reducible repeat' first
    | assumption | simp only [Stays.mk_valley (hπ.sub (by decide))]

theorem raiseVal_stays (hπ : AllFree π 524296) (k : Nat) (hF : Stays π r0 s) :
    Stays π r0 (raiseVal k s) := by
  unfold raiseVal
  try dsimp only
  with_reducible repeat' first
    | assumption | apply raise_stays (hπ.sub (by decide))

theorem refuseBurst_stays (hπ : AllFree π 1573898)  (hF : Stays π r0 s) :
    Stays π r0 (refuseBurst s) := by
  unfold refuseBurst
  try dsimp only
  with_reducible repeat' first
    | assumption | intro _ | apply onVal_stays (hπ.sub (by decide)) | apply logHap_stays (hπ.sub (by decide))
    | apply raiseVal_stays (hπ.sub (by decide))

theorem decideBursts_stays (hπ : AllFree π 1573898)  (hF : Stays π r0 s) :
    Stays π r0 (decideBursts s) := by
  unfold decideBursts
  try dsimp only
  with_reducible repeat' first
    | assumption | intro _ | apply Stays.ite | apply onVal_stays (hπ.sub (by decide))
    | apply refuseBurst_stays (hπ.sub (by decide)) | split

theorem setChargers_stays (hπ : AllFree π 1024)  (hF : Stays π r0 s) :
    Stays π r0 (setChargers s) := by
  unfold setChargers
  try dsimp only
  with_reducible repeat' first
    | assumption | intro _ | apply Stays.ite | apply onVal_stays (hπ.sub (by decide))

theorem chargers_stays (hπ : AllFree π 1024)  (hF : Stays π r0 s) :
    Stays π r0 (chargers s) := by
  unfold chargers
  try dsimp only
  with_reducible repeat' first
    | assumption | intro _ | apply Stays.ite | apply setChargers_stays (hπ.sub (by decide))
    | apply onVal_stays (hπ.sub (by decide))

theorem vpgStep_stays (hπ : AllFree π 1573898)  (hF : Stays π r0 s) :
    Stays π r0 (vpgStep s) := by
  unfold vpgStep
  try dsimp only
  with_reducible repeat' first
    | assumption | intro _ | apply Stays.ite | apply logHap_stays (hπ.sub (by decide))
    | apply raiseVal_stays (hπ.sub (by decide)) | apply onVal_stays (hπ.sub (by decide))

theorem valleyReset_stays (hπ : AllFree π 1836184)  (hF : Stays π r0 s) :
    Stays π r0 (valleyReset s) := by
  unfold valleyReset
  try dsimp only
  with_reducible repeat' first
    | assumption | intro _ | apply Stays.ite | apply dropPages_stays (hπ.sub (by decide))
    | apply emptyLog_stays (hπ.sub (by decide)) | apply raise_stays (hπ.sub (by decide))
    | simp only [Stays.mk_pwr_valley_fb_log (hπ.sub (by decide))]

theorem valleySample_stays (hπ : AllFree π 1836187) (mv : Nat) (hF : Stays π r0 s) :
    Stays π r0 (valleySample mv s) := by
  unfold valleySample
  try dsimp only
  with_reducible repeat' first
    | assumption | intro _ | apply Stays.ite | apply upto_stays (hπ.sub (by decide))
    | apply onVal_stays (hπ.sub (by decide)) | apply valleyReset_stays (hπ.sub (by decide))
    | apply decideBursts_stays (hπ.sub (by decide)) | apply vpgStep_stays (hπ.sub (by decide))
    | apply chargers_stays (hπ.sub (by decide))

theorem valleyPorEnd_stays (hπ : AllFree π 1836168)  (hF : Stays π r0 s) :
    Stays π r0 (valleyPorEnd s) := by
  unfold valleyPorEnd
  try dsimp only
  with_reducible repeat' first
    | assumption | intro _ | apply Stays.ite | apply onVal_stays (hπ.sub (by decide))
    | apply placeWaiting_stays (hπ.sub (by decide)) | apply setChargers_stays (hπ.sub (by decide))
    | simp only [Stays.mk_pwr_log (hπ.sub (by decide))]

theorem rtcRebase_stays (hπ : AllFree π 1049600)  (hF : Stays π r0 s) :
    Stays π r0 (rtcRebase s) := by
  unfold rtcRebase
  try dsimp only
  with_reducible repeat' first
    | assumption | intro _ | apply onVal_stays (hπ.sub (by decide)) | simp only [Stays.mk_log (hπ.sub (by decide))]
    | split

theorem rtcSet_stays (hπ : AllFree π 1573896)  (hF : Stays π r0 s) :
    Stays π r0 (rtcSet s) := by
  unfold rtcSet
  try dsimp only
  with_reducible repeat' first
    | assumption | intro _ | apply rtcSetMark_stays (hπ.sub (by decide)) | apply onVal_stays (hπ.sub (by decide))
    | apply rtcRebase_stays (hπ.sub (by decide))

theorem writeValCtl_stays (hπ : AllFree π 1836042) (m : Master) (v : Word) (hF : Stays π r0 s) :
    Stays π r0 (writeValCtl m v s) := by
  unfold writeValCtl
  try dsimp only
  with_reducible repeat' first
    | assumption | intro _ | apply Stays.ite | apply bookAction_stays (hπ.sub (by decide))
    | apply rtcSet_stays (hπ.sub (by decide)) | apply refuseBurst_stays (hπ.sub (by decide))
    | apply onVal_stays (hπ.sub (by decide)) | split

theorem writeValley_stays (hπ : AllFree π 1967114) (m : Master) (off : Nat) (v : Word) (hF : Stays π r0 s) :
    Stays π r0 (writeValley m off v s) := by
  unfold writeValley
  try dsimp only
  with_reducible repeat' first
    | assumption | intro _ | apply Stays.ite | apply rwlPath_stays (hπ.sub (by decide))
    | apply setChargers_stays (hπ.sub (by decide)) | apply plainWrite_stays (hπ.sub (by decide))
    | apply raiseVal_stays (hπ.sub (by decide)) | apply rtcRebase_stays (hπ.sub (by decide))
    | apply onVal_stays (hπ.sub (by decide)) | apply writeValCtl_stays (hπ.sub (by decide))
    | split

theorem execValleyPorEnd_stays (hπ : AllFree π 1836168)  (hF : Stays π r0 s) :
    ∃ s1, execValleyPorEnd s = .next s1 ∧ Stays π r0 s1 := by
  refine ⟨_, rfl, ?_⟩
  try dsimp only
  with_reducible repeat' first
    | assumption | apply valleyPorEnd_stays (hπ.sub (by decide))

theorem execOpenCircuitMeasure_stays (hπ : AllFree π 1025) (mv : BitVec 12) (hF : Stays π r0 s) :
    ∃ s1, execOpenCircuitMeasure mv s = .next s1 ∧ Stays π r0 s1 := by
  refine ⟨_, rfl, ?_⟩
  try dsimp only
  with_reducible repeat' first
    | assumption | intro _ | apply Stays.ite | apply upto_stays (hπ.sub (by decide))
    | apply onVal_stays (hπ.sub (by decide)) | split

theorem execRtcSet_stays (hπ : AllFree π 70368746144779) (m : Master) (hF : Stays π r0 s) :
    ∃ s1, execRtcSet m s = .next s1 ∧ Stays π r0 s1 := by
  refine ⟨_, rfl, ?_⟩
  try dsimp only
  with_reducible repeat' first
    | assumption | intro _ | apply byBus_stays (hπ.sub (by decide)) | apply writeValley_stays (hπ.sub (by decide))

theorem execRtcLoRead_stays (hπ : AllFree π 70368744701992) (m : Master) (hF : Stays π r0 s) :
    ∃ s1, execRtcLoRead m s = .next s1 ∧ Stays π r0 s1 := by
  refine ⟨_, rfl, ?_⟩
  try dsimp only
  with_reducible repeat' first
    | assumption | intro _ | apply readAt_stays (hπ.sub (by decide)) | apply respond_stays (hπ.sub (by decide))
    | apply wr_stays (hπ.sub (by decide))

theorem execXtFail_stays (hπ : AllFree π 1573898)  (hF : Stays π r0 s) :
    ∃ s1, execXtFail s = .next s1 ∧ Stays π r0 s1 := by
  refine ⟨_, rfl, ?_⟩
  try dsimp only
  with_reducible repeat' first
    | assumption | intro _ | apply Stays.ite | apply logHap_stays (hπ.sub (by decide))
    | apply raiseVal_stays (hπ.sub (by decide)) | apply onVal_stays (hπ.sub (by decide))
    | split

theorem execXtRecover_stays (hπ : AllFree π 1024)  (hF : Stays π r0 s) :
    ∃ s1, execXtRecover s = .next s1 ∧ Stays π r0 s1 := by
  refine ⟨_, rfl, ?_⟩
  try dsimp only
  with_reducible repeat' first
    | assumption | intro _ | apply Stays.ite | apply onVal_stays (hπ.sub (by decide))

theorem execBurstGo_stays (hπ : AllFree π 70368746144779) (m : Master) (hF : Stays π r0 s) :
    ∃ s1, execBurstGo m s = .next s1 ∧ Stays π r0 s1 := by
  refine ⟨_, rfl, ?_⟩
  try dsimp only
  with_reducible repeat' first
    | assumption | intro _ | apply byBus_stays (hπ.sub (by decide)) | apply writeValley_stays (hπ.sub (by decide))

theorem execBurstEnd_stays (hπ : AllFree π 70368746144779) (m : Master) (hF : Stays π r0 s) :
    ∃ s1, execBurstEnd m s = .next s1 ∧ Stays π r0 s1 := by
  refine ⟨_, rfl, ?_⟩
  try dsimp only
  with_reducible repeat' first
    | assumption | intro _ | apply byBus_stays (hπ.sub (by decide)) | apply writeValley_stays (hπ.sub (by decide))

theorem execBurstTmo_stays (hπ : AllFree π 525321)  (hF : Stays π r0 s) :
    ∃ s1, execBurstTmo s = .next s1 ∧ Stays π r0 s1 := by
  refine ⟨_, rfl, ?_⟩
  try dsimp only
  with_reducible repeat' first
    | assumption | intro _ | apply upto_stays (hπ.sub (by decide)) | apply raiseVal_stays (hπ.sub (by decide))
    | apply onVal_stays (hπ.sub (by decide)) | split

end Sys2Proof.Machine
end

