-- ==== Sys2Proof/Laws/StayUpd.lean ====
section
/-! SUPPORT. What the operations of Machine/Upd.lean leave alone (Laws/Stays.lean). -/

set_option linter.unusedTactic false
set_option linter.unreachableTactic false
set_option linter.unusedVariables false

namespace Sys2Proof.Machine

variable {α : Type} {π : State → α} {r0 s : State}

theorem onUpd_stays (hπ : AllFree π 562949953421312) (f : Upd → Upd) (hF : Stays π r0 s) :
    Stays π r0 (onUpd f s) := by
  unfold onUpd
  try dsimp only
  with_reducible repeat' first
    | assumption | simp only [Stays.mk_upd (hπ.sub (by decide))]

theorem raiseUpd_stays (hπ : AllFree π 524296) (k : Nat) (hF : Stays π r0 s) :
    Stays π r0 (raiseUpd k s) := by
  unfold raiseUpd
  try dsimp only
  with_reducible repeat' first
    | assumption | apply raise_stays (hπ.sub (by decide))

theorem updTo_stays (hπ : AllFree π 562949954469890) (st : Nat) (hF : Stays π r0 s) :
    Stays π r0 (updTo st s) := by
  unfold updTo
  try dsimp only
  with_reducible repeat' first
    | assumption | intro _ | apply logHap_stays (hπ.sub (by decide)) | apply onUpd_stays (hπ.sub (by decide))

theorem updCause_stays (hπ : AllFree π 562949954469890) (st cause : Nat) (hF : Stays π r0 s) :
    Stays π r0 (updCause st cause s) := by
  unfold updCause
  try dsimp only
  with_reducible repeat' first
    | assumption | intro _ | apply updTo_stays (hπ.sub (by decide)) | apply onUpd_stays (hπ.sub (by decide))

theorem bootImage_stays (hπ : AllFree π 703687442300936)  (hF : Stays π r0 s) :
    Stays π r0 (bootImage s).2 := by
  unfold bootImage
  try dsimp only
  with_reducible repeat' first
    | assumption | intro _ | apply Stays.ite | apply nvRead_stays (hπ.sub (by decide))
    | apply onUpd_stays (hπ.sub (by decide)) | refine Stays.of_snd (by assumption) ?_ | refine Stays.of_fst (by assumption) ?_
    | simp only [id_eq] | split | dsimp only

theorem askGrant_stays (hπ : AllFree π 1024)  (hF : Stays π r0 s) :
    Stays π r0 (askGrant s) := by
  unfold askGrant
  try dsimp only
  with_reducible repeat' first
    | assumption | apply Stays.ite | simp only [Stays.mk_valley (hπ.sub (by decide))]
    | split

theorem wantRecord_stays (hπ : AllFree π 562949953422336) (r : BootRec) (accept : Bool) (hF : Stays π r0 s) :
    Stays π r0 (wantRecord r accept s) := by
  unfold wantRecord
  try dsimp only
  with_reducible repeat' first
    | assumption | intro _ | apply askGrant_stays (hπ.sub (by decide)) | apply onUpd_stays (hπ.sub (by decide))

theorem wantTrial_stays (hπ : AllFree π 562949953422336) (on : Bool) (hF : Stays π r0 s) :
    Stays π r0 (wantTrial on s) := by
  unfold wantTrial
  try dsimp only
  with_reducible repeat' first
    | assumption | apply Stays.ite | apply wantRecord_stays (hπ.sub (by decide))

theorem applyReads_stays (hπ : AllFree π 140737488879624)  (hF : Stays π r0 s) :
    Stays π r0 (applyReads s) := by
  unfold applyReads
  try dsimp only
  with_reducible repeat' first
    | assumption | apply nvRead_stays (hπ.sub (by decide))

theorem applyEnds_stays (hπ : AllFree π 774056187527243)  (hF : Stays π r0 s) :
    Stays π r0 (applyEnds s) := by
  unfold applyEnds
  try dsimp only
  with_reducible repeat' first
    | assumption | intro _ | apply Stays.ite | apply raiseUpd_stays (hπ.sub (by decide))
    | apply updCause_stays (hπ.sub (by decide)) | apply upto_stays (hπ.sub (by decide))
    | apply applyReads_stays (hπ.sub (by decide)) | apply wrf_stays (hπ.sub (by decide))
    | apply forEach_stays | apply nvStore_stays (hπ.sub (by decide)) | apply onUpd_stays (hπ.sub (by decide))

theorem slotWritten_stays (hπ : AllFree π 774056186478664)  (hF : Stays π r0 s) :
    Stays π r0 (slotWritten s) := by
  unfold slotWritten
  try dsimp only
  with_reducible repeat' first
    | assumption | intro _ | apply Stays.ite | apply forEach_stays | apply nvStore_stays (hπ.sub (by decide))
    | apply onUpd_stays (hπ.sub (by decide)) | apply wrf_stays (hπ.sub (by decide)) | split

theorem updCut_stays (hπ : AllFree π 774056186478666) (sure : Bool) (hF : Stays π r0 s) :
    Stays π r0 (updCut sure s) := by
  unfold updCut
  try dsimp only
  with_reducible repeat' first
    | assumption | intro _ | apply Stays.ite | apply cutWrites_stays (hπ.sub (by decide))
    | apply onUpd_stays (hπ.sub (by decide))

theorem dropGroup_stays (hπ : AllFree π 2160066568) (t : PageType) (n g : Nat) (hF : Stays π r0 s) :
    Stays π r0 (dropGroup t n g s) := by
  unfold dropGroup
  try dsimp only
  with_reducible repeat' first
    | assumption | intro _ | apply Stays.ite | apply discardGroup_stays (hπ.sub (by decide))
    | apply onLeg_stays (hπ.sub (by decide))

theorem dropOpened_stays (hπ : AllFree π 2160066568) (ms : List Nat) (hF : Stays π r0 s) :
    Stays π r0 (dropOpened ms s) := by
  unfold dropOpened
  try dsimp only
  with_reducible repeat' first
    | assumption | intro _ | apply forEach_stays | apply dropGroup_stays (hπ.sub (by decide))
    | split

theorem armHandover_stays (hπ : AllFree π 562967134340106)  (hF : Stays π r0 s) :
    Stays π r0 (armHandover s) := by
  unfold armHandover
  try dsimp only
  with_reducible repeat' first
    | assumption | intro _ | apply onUpd_stays (hπ.sub (by decide)) | apply requestSwapAll_stays (hπ.sub (by decide))
    | apply wrb_stays (hπ.sub (by decide)) | apply wr_stays (hπ.sub (by decide)) | apply wantTrial_stays (hπ.sub (by decide))
    | apply updCause_stays (hπ.sub (by decide))

theorem withdraw_stays (hπ : AllFree π 562967134864394) (cause : Nat) (hF : Stays π r0 s) :
    Stays π r0 (withdraw cause s) := by
  unfold withdraw
  try dsimp only
  with_reducible repeat' first
    | assumption | apply Stays.ite | apply wantTrial_stays (hπ.sub (by decide)) | apply raiseUpd_stays (hπ.sub (by decide))
    | apply updCause_stays (hπ.sub (by decide)) | simp only [Stays.mk_eng (hπ.sub (by decide))]

theorem swapGone_stays (hπ : AllFree π 562967134864394)  (hF : Stays π r0 s) :
    Stays π r0 (swapGone s) := by
  unfold swapGone
  try dsimp only
  with_reducible repeat' first
    | assumption | apply Stays.ite | apply withdraw_stays (hπ.sub (by decide))

theorem handover_stays (hπ : AllFree π 562952115060746)  (hF : Stays π r0 s) :
    Stays π r0 (handover s) := by
  unfold handover
  try dsimp only
  with_reducible repeat' first
    | assumption | intro _ | apply sramCheck_stays (hπ.sub (by decide)) | apply dropOpened_stays (hπ.sub (by decide))
    | apply invertRole_stays (hπ.sub (by decide)) | apply updTo_stays (hπ.sub (by decide))
    | apply onUpd_stays (hπ.sub (by decide))

theorem swapBack_stays (hπ : AllFree π 25770328136) (onDatum : Bool) (hF : Stays π r0 s) :
    Stays π r0 (swapBack onDatum s) := by
  unfold swapBack
  try dsimp only
  with_reducible repeat' first
    | assumption | intro _ | apply Stays.ite | apply forEach_stays | apply onDatum_stays (hπ.sub (by decide))
    | apply doSwap_stays (hπ.sub (by decide)) | apply onLane_stays (hπ.sub (by decide))
    | apply cancelSwaps_stays (hπ.sub (by decide)) | split

theorem reverse_stays (hπ : AllFree π 633344762842314) (onDatum : Bool) (hF : Stays π r0 s) :
    Stays π r0 (reverse onDatum s) := by
  unfold reverse
  try dsimp only
  with_reducible repeat' first
    | assumption | intro _ | apply Stays.ite | apply resetHarts_stays (hπ.sub (by decide))
    | apply invertRole_stays (hπ.sub (by decide)) | apply incHeld_stays (hπ.sub (by decide))
    | apply swapBack_stays (hπ.sub (by decide)) | apply onDatum_stays (hπ.sub (by decide))
    | apply updTo_stays (hπ.sub (by decide)) | apply onUpd_stays (hπ.sub (by decide)) | apply raiseUpd_stays (hπ.sub (by decide))
    | apply wantTrial_stays (hπ.sub (by decide))

theorem dropWant_stays (hπ : AllFree π 562949953422336)  (hF : Stays π r0 s) :
    Stays π r0 (dropWant s) := by
  unfold dropWant
  try dsimp only
  with_reducible repeat' first
    | assumption | intro _ | apply onVal_stays (hπ.sub (by decide)) | apply onUpd_stays (hπ.sub (by decide))

theorem startReversal_stays (hπ : AllFree π 633344762842314) (cause : Nat) (roleDone : Bool) (hF : Stays π r0 s) :
    Stays π r0 (startReversal cause roleDone s) := by
  unfold startReversal
  try dsimp only
  with_reducible repeat' first
    | assumption | intro _ | apply Stays.ite | apply dropWant_stays (hπ.sub (by decide))
    | apply updCause_stays (hπ.sub (by decide)) | apply onUpd_stays (hπ.sub (by decide))
    | apply reverse_stays (hπ.sub (by decide))

theorem updBoundary_stays (hπ : AllFree π 633346914520266) (number : Nat) (hF : Stays π r0 s) :
    Stays π r0 (updBoundary number s) := by
  unfold updBoundary
  try dsimp only
  with_reducible repeat' first
    | assumption | intro _ | apply Stays.ite | apply reverse_stays (hπ.sub (by decide))
    | apply withdraw_stays (hπ.sub (by decide)) | apply refuseAll_stays (hπ.sub (by decide))
    | apply onlyIf_stays | apply handover_stays (hπ.sub (by decide))

theorem updPeriod_stays (hπ : AllFree π 633344762842314)  (hF : Stays π r0 s) :
    Stays π r0 (updPeriod s) := by
  unfold updPeriod
  try dsimp only
  with_reducible repeat' first
    | assumption | apply Stays.ite | apply reverse_stays (hπ.sub (by decide))

theorem updSaddle_stays (hπ : AllFree π 562967134864394)  (hF : Stays π r0 s) :
    Stays π r0 (updSaddle s) := by
  unfold updSaddle
  try dsimp only
  with_reducible repeat' first
    | assumption | apply Stays.ite | apply withdraw_stays (hπ.sub (by decide))

theorem acceptDone_stays (hπ : AllFree π 633318993037450)  (hF : Stays π r0 s) :
    Stays π r0 (acceptDone s) := by
  unfold acceptDone
  try dsimp only
  with_reducible repeat' first
    | assumption | intro _ | apply resetHarts_stays (hπ.sub (by decide)) | apply onUpd_stays (hπ.sub (by decide))
    | apply raiseUpd_stays (hπ.sub (by decide)) | apply incHeld_stays (hπ.sub (by decide))
    | apply updCause_stays (hπ.sub (by decide))

theorem updRefuse_stays (hπ : AllFree π 524296)  (hF : Stays π r0 s) :
    Stays π r0 (updRefuse s) := by
  unfold updRefuse
  try dsimp only
  with_reducible repeat' first
    | assumption | apply raiseUpd_stays (hπ.sub (by decide))

theorem updApply_stays (hπ : AllFree π 774056187527243) (m : Master) (hF : Stays π r0 s) :
    Stays π r0 (updApply m s) := by
  unfold updApply
  try dsimp only
  with_reducible repeat' first
    | assumption | intro _ | apply Stays.ite | apply nvFlush_stays (hπ.sub (by decide))
    | apply updRefuse_stays (hπ.sub (by decide)) | apply wr_stays (hπ.sub (by decide))
    | apply updCause_stays (hπ.sub (by decide)) | apply onUpd_stays (hπ.sub (by decide))

theorem updBoot_stays (hπ : AllFree π 633318993037450)  (hF : Stays π r0 s) :
    Stays π r0 (updBoot s) := by
  unfold updBoot
  try dsimp only
  with_reducible repeat' first
    | assumption | apply Stays.ite | apply updRefuse_stays (hπ.sub (by decide)) | apply resetHarts_stays (hπ.sub (by decide))
    | apply updCause_stays (hπ.sub (by decide))

theorem updReady_stays (hπ : AllFree π 562949954994186) (m : Master) (hF : Stays π r0 s) :
    Stays π r0 (updReady m s) := by
  unfold updReady
  try dsimp only
  with_reducible repeat' first
    | assumption | apply Stays.ite | apply updRefuse_stays (hπ.sub (by decide)) | apply raiseUpd_stays (hπ.sub (by decide))
    | apply updTo_stays (hπ.sub (by decide)) | split

theorem updArm_stays (hπ : AllFree π 562967134864394)  (hF : Stays π r0 s) :
    Stays π r0 (updArm s) := by
  unfold updArm
  try dsimp only
  with_reducible repeat' first
    | assumption | apply Stays.ite | apply armHandover_stays (hπ.sub (by decide))
    | apply updRefuse_stays (hπ.sub (by decide))

theorem updAccept_stays (hπ : AllFree π 633344762842314) (m : Master) (hF : Stays π r0 s) :
    Stays π r0 (updAccept m s) := by
  unfold updAccept
  try dsimp only
  with_reducible repeat' first
    | assumption | apply Stays.ite | apply updRefuse_stays (hπ.sub (by decide)) | apply startReversal_stays (hπ.sub (by decide))
    | apply wantRecord_stays (hπ.sub (by decide)) | split

theorem updReject_stays (hπ : AllFree π 633344762842314)  (hF : Stays π r0 s) :
    Stays π r0 (updReject s) := by
  unfold updReject
  try dsimp only
  with_reducible repeat' first
    | assumption | apply Stays.ite | apply startReversal_stays (hπ.sub (by decide))
    | apply updRefuse_stays (hπ.sub (by decide))

theorem updAbort_stays (hπ : AllFree π 633336172907658)  (hF : Stays π r0 s) :
    Stays π r0 (updAbort s) := by
  unfold updAbort
  try dsimp only
  with_reducible repeat' first
    | assumption | apply Stays.ite | apply withdraw_stays (hπ.sub (by decide)) | apply resetHarts_stays (hπ.sub (by decide))
    | apply updCause_stays (hπ.sub (by decide)) | apply updRefuse_stays (hπ.sub (by decide))
    | split

theorem updClear_stays (hπ : AllFree π 562949954994186)  (hF : Stays π r0 s) :
    Stays π r0 (updClear s) := by
  unfold updClear
  try dsimp only
  with_reducible repeat' first
    | assumption | apply Stays.ite | apply updCause_stays (hπ.sub (by decide)) | apply updRefuse_stays (hπ.sub (by decide))

theorem writeUpdCtl_stays (hπ : AllFree π 774082251197643) (m : Master) (v : Word) (hF : Stays π r0 s) :
    Stays π r0 (writeUpdCtl m v s) := by
  unfold writeUpdCtl
  try dsimp only
  with_reducible repeat' first
    | assumption | intro _ | apply onlyIf_stays | apply updApply_stays (hπ.sub (by decide))
    | apply updBoot_stays (hπ.sub (by decide)) | apply updReady_stays (hπ.sub (by decide))
    | apply updAbort_stays (hπ.sub (by decide)) | apply updArm_stays (hπ.sub (by decide))
    | apply updAccept_stays (hπ.sub (by decide)) | apply updReject_stays (hπ.sub (by decide))
    | apply updClear_stays (hπ.sub (by decide))

theorem writeSlotCmd_stays (hπ : AllFree π 562949953945608) (m : Master) (v : Word) (hF : Stays π r0 s) :
    Stays π r0 (writeSlotCmd m v s) := by
  unfold writeSlotCmd
  try dsimp only
  with_reducible repeat' first
    | assumption | intro _ | apply Stays.ite | apply updRefuse_stays (hπ.sub (by decide))
    | apply sramCheck_stays (hπ.sub (by decide)) | apply onUpd_stays (hπ.sub (by decide))
    | apply wrf_stays (hπ.sub (by decide)) | split

theorem writeUpd_stays (hπ : AllFree π 774082251197643) (m : Master) (off : Nat) (v : Word) (hF : Stays π r0 s) :
    Stays π r0 (writeUpd m off v s) := by
  unfold writeUpd
  try dsimp only
  with_reducible repeat' first
    | assumption | apply Stays.ite | apply writeUpdCtl_stays (hπ.sub (by decide))
    | apply writeSlotCmd_stays (hπ.sub (by decide)) | apply plainWrite_stays (hπ.sub (by decide))

theorem engcCtl_stays (hπ : AllFree π 562975724798986) (v : Word) (hF : Stays π r0 s) :
    Stays π r0 (engcCtl v s) := by
  unfold engcCtl
  try dsimp only
  with_reducible repeat' first
    | assumption | apply Stays.ite | apply withdraw_stays (hπ.sub (by decide)) | apply writeEngcCtrl_stays (hπ.sub (by decide))

theorem wdtExpires_stays (hπ : AllFree π 633344762842314) (h : Nat) (hF : Stays π r0 s) :
    Stays π r0 (wdtExpires h s) := by
  unfold wdtExpires
  try dsimp only
  with_reducible repeat' first
    | assumption | apply Stays.ite | apply raisePmc_stays (hπ.sub (by decide)) | apply resetHarts_stays (hπ.sub (by decide))
    | apply updCause_stays (hπ.sub (by decide)) | apply logHap_stays (hπ.sub (by decide))
    | apply incHeld_stays (hπ.sub (by decide)) | apply invertRole_stays (hπ.sub (by decide))
    | apply startReversal_stays (hπ.sub (by decide))

theorem updReset_stays (hπ : AllFree π 774056186479690)  (hF : Stays π r0 s) :
    Stays π r0 (updReset s) := by
  unfold updReset
  try dsimp only
  with_reducible repeat' first
    | assumption | intro _ | apply Stays.ite | apply updCut_stays (hπ.sub (by decide))
    | apply dropWant_stays (hπ.sub (by decide)) | apply onVal_stays (hπ.sub (by decide))
    | apply wantTrial_stays (hπ.sub (by decide)) | simp only [Stays.mk_upd (hπ.sub (by decide))]
    | split

theorem execWatchdogExpiry_stays (hπ : AllFree π 633344762842315) (h : Fin 4) (hF : Stays π r0 s) :
    ∃ s1, execWatchdogExpiry h s = .next s1 ∧ Stays π r0 s1 := by
  refine ⟨_, rfl, ?_⟩
  try dsimp only
  with_reducible repeat' first
    | assumption | apply Stays.ite | apply wdtExpires_stays (hπ.sub (by decide))
    | apply upto_stays (hπ.sub (by decide)) | split

theorem execNvWrite_stays (hπ : AllFree π 211106233057385) (m : Master) (a : Nat) (bytes : List Byte) (hF : Stays π r0 s) :
    ∃ s1, execNvWrite m a bytes s = .next s1 ∧ Stays π r0 s1 := by
  refine ⟨_, rfl, ?_⟩
  try dsimp only
  with_reducible repeat' first
    | assumption | apply Stays.ite | apply pmcAccess_stays (hπ.sub (by decide)) | apply busError_stays (hπ.sub (by decide))
    | apply nvBusWrite_stays (hπ.sub (by decide))

theorem execApply_stays (hπ : AllFree π 774082251197643) (m : Master) (hF : Stays π r0 s) :
    ∃ s1, execApply m s = .next s1 ∧ Stays π r0 s1 := by
  refine ⟨_, rfl, ?_⟩
  try dsimp only
  with_reducible repeat' first
    | assumption | intro _ | apply byBus_stays (hπ.sub (by decide)) | apply writeUpdCtl_stays (hπ.sub (by decide))

theorem execApplyDone_stays (hπ : AllFree π 774056187527243)  (hF : Stays π r0 s) :
    ∃ s1, execApplyDone s = .next s1 ∧ Stays π r0 s1 := by
  refine ⟨_, rfl, ?_⟩
  try dsimp only
  with_reducible repeat' first
    | assumption | apply Stays.ite | apply applyEnds_stays (hπ.sub (by decide)) | split

theorem execBoot_stays (hπ : AllFree π 774082251197643) (m : Master) (hF : Stays π r0 s) :
    ∃ s1, execBoot m s = .next s1 ∧ Stays π r0 s1 := by
  refine ⟨_, rfl, ?_⟩
  try dsimp only
  with_reducible repeat' first
    | assumption | intro _ | apply byBus_stays (hπ.sub (by decide)) | apply writeUpdCtl_stays (hπ.sub (by decide))

theorem execReady_stays (hπ : AllFree π 774082251197643) (m : Master) (hF : Stays π r0 s) :
    ∃ s1, execReady m s = .next s1 ∧ Stays π r0 s1 := by
  refine ⟨_, rfl, ?_⟩
  try dsimp only
  with_reducible repeat' first
    | assumption | intro _ | apply byBus_stays (hπ.sub (by decide)) | apply writeUpdCtl_stays (hπ.sub (by decide))

theorem execUpdArm_stays (hπ : AllFree π 774082251197643) (m : Master) (hF : Stays π r0 s) :
    ∃ s1, execUpdArm m s = .next s1 ∧ Stays π r0 s1 := by
  refine ⟨_, rfl, ?_⟩
  try dsimp only
  with_reducible repeat' first
    | assumption | intro _ | apply byBus_stays (hπ.sub (by decide)) | apply writeUpdCtl_stays (hπ.sub (by decide))

theorem execHanded_stays (hπ : AllFree π 633344762842314) (ok : Bool) (hF : Stays π r0 s) :
    ∃ s1, execHanded ok s = .next s1 ∧ Stays π r0 s1 := by
  refine ⟨_, rfl, ?_⟩
  try dsimp only
  with_reducible repeat' first
    | assumption | intro _ | apply Stays.ite | apply sramWrite_stays (hπ.sub (by decide))
    | apply raiseUpd_stays (hπ.sub (by decide)) | apply wr_stays (hπ.sub (by decide)) | apply onUpd_stays (hπ.sub (by decide))
    | apply startReversal_stays (hπ.sub (by decide)) | split

theorem execAccept_stays (hπ : AllFree π 774082251197643) (m : Master) (hF : Stays π r0 s) :
    ∃ s1, execAccept m s = .next s1 ∧ Stays π r0 s1 := by
  refine ⟨_, rfl, ?_⟩
  try dsimp only
  with_reducible repeat' first
    | assumption | intro _ | apply byBus_stays (hπ.sub (by decide)) | apply writeUpdCtl_stays (hπ.sub (by decide))

theorem execReject_stays (hπ : AllFree π 774082251197643) (m : Master) (hF : Stays π r0 s) :
    ∃ s1, execReject m s = .next s1 ∧ Stays π r0 s1 := by
  refine ⟨_, rfl, ?_⟩
  try dsimp only
  with_reducible repeat' first
    | assumption | intro _ | apply byBus_stays (hπ.sub (by decide)) | apply writeUpdCtl_stays (hπ.sub (by decide))

theorem execAbort_stays (hπ : AllFree π 774082251197643) (m : Master) (hF : Stays π r0 s) :
    ∃ s1, execAbort m s = .next s1 ∧ Stays π r0 s1 := by
  refine ⟨_, rfl, ?_⟩
  try dsimp only
  with_reducible repeat' first
    | assumption | intro _ | apply byBus_stays (hπ.sub (by decide)) | apply writeUpdCtl_stays (hπ.sub (by decide))

theorem execUpdClear_stays (hπ : AllFree π 774082251197643) (m : Master) (hF : Stays π r0 s) :
    ∃ s1, execUpdClear m s = .next s1 ∧ Stays π r0 s1 := by
  refine ⟨_, rfl, ?_⟩
  try dsimp only
  with_reducible repeat' first
    | assumption | intro _ | apply byBus_stays (hπ.sub (by decide)) | apply writeUpdCtl_stays (hπ.sub (by decide))

theorem execTrialTimeout_stays (hπ : AllFree π 633344762842315)  (hF : Stays π r0 s) :
    ∃ s1, execTrialTimeout s = .next s1 ∧ Stays π r0 s1 := by
  refine ⟨_, rfl, ?_⟩
  try dsimp only
  with_reducible repeat' first
    | assumption | apply Stays.ite | apply startReversal_stays (hπ.sub (by decide))
    | apply upto_stays (hπ.sub (by decide)) | split

theorem bootrecChange_stays (hπ : AllFree π 633318993038474) (r : BootRec) (hF : Stays π r0 s) :
    Stays π r0 (bootrecChange r s) := by
  unfold bootrecChange
  try dsimp only
  with_reducible repeat' first
    | assumption | intro _ | apply Stays.ite | apply dropWant_stays (hπ.sub (by decide))
    | apply onUpd_stays (hπ.sub (by decide)) | apply bookAction_stays (hπ.sub (by decide))
    | apply acceptDone_stays (hπ.sub (by decide)) | apply wantTrial_stays (hπ.sub (by decide))
    | split

theorem execBootrecChange_stays (hπ : AllFree π 633318993038474)  (hF : Stays π r0 s) :
    ∃ s1, execBootrecChange s = .next s1 ∧ Stays π r0 s1 := by
  refine ⟨_, rfl, ?_⟩
  try dsimp only
  with_reducible repeat' first
    | assumption | apply Stays.ite | apply bootrecChange_stays (hπ.sub (by decide))
    | split

theorem execGrantGiveup_stays (hπ : AllFree π 562949953422337)  (hF : Stays π r0 s) :
    ∃ s1, execGrantGiveup s = .next s1 ∧ Stays π r0 s1 := by
  refine ⟨_, rfl, ?_⟩
  try dsimp only
  with_reducible repeat' first
    | assumption | intro _ | apply Stays.ite | apply upto_stays (hπ.sub (by decide))
    | apply onUpd_stays (hπ.sub (by decide)) | simp only [Stays.mk_valley (hπ.sub (by decide))]
    | split

theorem execSlotCommit_stays (hπ : AllFree π 633318698123273) (m : Master) (hF : Stays π r0 s) :
    ∃ s1, execSlotCommit m s = .next s1 ∧ Stays π r0 s1 := by
  refine ⟨_, rfl, ?_⟩
  try dsimp only
  with_reducible repeat' first
    | assumption | intro _ | apply byBus_stays (hπ.sub (by decide)) | apply writeSlotCmd_stays (hπ.sub (by decide))

theorem execSlotCommitDone_stays (hπ : AllFree π 774056186478665)  (hF : Stays π r0 s) :
    ∃ s1, execSlotCommitDone s = .next s1 ∧ Stays π r0 s1 := by
  refine ⟨_, rfl, ?_⟩
  try dsimp only
  with_reducible repeat' first
    | assumption | apply Stays.ite | apply slotWritten_stays (hπ.sub (by decide))
    | apply upto_stays (hπ.sub (by decide)) | split

theorem execSwapAll_stays (hπ : AllFree π 633344468976651) (m : Master) (mode : Bool) (hF : Stays π r0 s) :
    ∃ s1, execSwapAll m mode s = .next s1 ∧ Stays π r0 s1 := by
  refine ⟨_, rfl, ?_⟩
  try dsimp only
  with_reducible repeat' first
    | assumption | intro _ | apply Stays.ite | apply byBus_stays (hπ.sub (by decide))
    | apply engcCtl_stays (hπ.sub (by decide))

theorem execGlobalVerified_stays (hπ : AllFree π 562967134864395)  (hF : Stays π r0 s) :
    ∃ s1, execGlobalVerified s = .next s1 ∧ Stays π r0 s1 := by
  refine ⟨_, rfl, ?_⟩
  try dsimp only
  with_reducible repeat' first
    | assumption | intro _ | apply Stays.ite | apply upto_stays (hπ.sub (by decide))
    | apply swapGone_stays (hπ.sub (by decide)) | apply refuseAll_stays (hπ.sub (by decide))
    | simp only [Stays.mk_eng (hπ.sub (by decide))] | split

theorem execCancel_stays (hπ : AllFree π 633344468976651) (m : Master) (mode : Bool) (hF : Stays π r0 s) :
    ∃ s1, execCancel m mode s = .next s1 ∧ Stays π r0 s1 := by
  refine ⟨_, rfl, ?_⟩
  try dsimp only
  with_reducible repeat' first
    | assumption | intro _ | apply Stays.ite | apply byBus_stays (hπ.sub (by decide))
    | apply engcCtl_stays (hπ.sub (by decide))

end Sys2Proof.Machine
end

