-- ==== Sys2Proof/Laws/StayPasses.lean ====
section
/-! SUPPORT. What the operations of Machine/Passes.lean leave alone (Laws/Stays.lean). -/

set_option linter.unusedTactic false
set_option linter.unreachableTactic false
set_option linter.unusedVariables false

namespace Sys2Proof.Machine

variable {α : Type} {π : State → α} {r0 s : State}

theorem startPass_stays (hπ : AllFree π 8589934600) (n tk len : Nat) (hF : Stays π r0 s) :
    Stays π r0 (startPass n tk len s) := by
  unfold startPass
  try dsimp only
  with_reducible repeat' first
    | assumption | intro _ | apply Stays.ite | apply forEach_stays | apply genFlag_stays (hπ.sub (by decide))
    | apply onLane_stays (hπ.sub (by decide)) | split

theorem perWord_stays (hπ : AllFree π 2) (v : Word) (hF : Stays π r0 s) :
    Stays π r0 (perWord v s).2 := by
  unfold perWord
  try dsimp only
  with_reducible repeat' first
    | assumption | intro _ | apply Stays.ite | apply draw_stays (hπ.sub (by decide))
    | refine Stays.of_snd (by assumption) ?_ | refine Stays.of_fst (by assumption) ?_ | simp only [id_eq]
    | split | dsimp only

theorem outShadow_stays (hπ : AllFree π 8388618) (p : Nat) (v : Word) (hF : Stays π r0 s) :
    Stays π r0 (outShadow p v s) := by
  unfold outShadow
  try dsimp only
  with_reducible repeat' first
    | assumption | intro _ | apply Stays.ite | apply onLeg_stays (hπ.sub (by decide))
    | apply wr_stays (hπ.sub (by decide)) | apply perWord_stays (hπ.sub (by decide)) | apply wrf_stays (hπ.sub (by decide))
    | refine Stays.of_snd (by assumption) ?_ | split | dsimp only

theorem onPass_stays (hπ : AllFree π 8589934592) (n : Nat) (f : Pass → Pass) (hF : Stays π r0 s) :
    Stays π r0 (onPass n f s) := by
  unfold onPass
  try dsimp only
  with_reducible repeat' first
    | assumption | intro _ | apply onLane_stays (hπ.sub (by decide))

theorem issueOut_stays (hπ : AllFree π 8603041803) (n : Nat) (o : PassOut) (hF : Stays π r0 s) :
    Stays π r0 (issueOut n o s) := by
  unfold issueOut
  try dsimp only
  with_reducible repeat' first
    | assumption | intro _ | apply Stays.ite | apply onPass_stays (hπ.sub (by decide))
    | apply wrb_stays (hπ.sub (by decide)) | apply openGroup_stays (hπ.sub (by decide))
    | apply setGrp_stays (hπ.sub (by decide)) | apply outShadow_stays (hπ.sub (by decide))
    | simp only [Stays.mk_now (hπ.sub (by decide))] | split

theorem flushOuts_stays (hπ : AllFree π 8603041803) (t : Nat) (hF : Stays π r0 s) :
    Stays π r0 (flushOuts t s) := by
  unfold flushOuts
  try dsimp only
  with_reducible repeat' first
    | assumption | intro _ | apply forEach_stays | apply onPass_stays (hπ.sub (by decide))
    | apply issueOut_stays (hπ.sub (by decide)) | split

theorem afterPass_stays (hπ : AllFree π 70377334636552) (n : Nat) (fault : Bool) (dr : Drain) (hF : Stays π r0 s) :
    Stays π r0 (afterPass n fault dr s) := by
  unfold afterPass
  try dsimp only
  with_reducible repeat' first
    | assumption | intro _ | apply Stays.ite | apply onLane_stays (hπ.sub (by decide))
    | apply pmcCount_stays (hπ.sub (by decide)) | apply raise_stays (hπ.sub (by decide))

theorem discardPass_stays (hπ : AllFree π 70379494703112) (n : Nat) (c : PassDisc) (e : Nat) (p : Pass) (hF : Stays π r0 s) :
    Stays π r0 (discardPass n c e p s) := by
  unfold discardPass
  try dsimp only
  with_reducible repeat' first
    | assumption | intro _ | apply Stays.ite | apply forEach_stays | apply dropGroup_stays (hπ.sub (by decide))
    | apply wr_stays (hπ.sub (by decide)) | apply wrf_stays (hπ.sub (by decide)) | apply incHeld_stays (hπ.sub (by decide))
    | apply raise_stays (hπ.sub (by decide)) | apply afterPass_stays (hπ.sub (by decide))
    | split

theorem passOk_stays (hπ : AllFree π 70963601866760) (n : Nat) (p : Pass) (hF : Stays π r0 s) :
    Stays π r0 (passOk n p s) := by
  unfold passOk
  try dsimp only
  with_reducible repeat' first
    | assumption | intro _ | apply Stays.ite | apply forEach_stays | apply armGroup_stays (hπ.sub (by decide))
    | apply pairArmed_stays (hπ.sub (by decide)) | apply wr_stays (hπ.sub (by decide))
    | apply wrf_stays (hπ.sub (by decide)) | apply probesLand_stays (hπ.sub (by decide))
    | apply islConfirm_stays (hπ.sub (by decide)) | apply afterPass_stays (hπ.sub (by decide))
    | apply raise_stays (hπ.sub (by decide))

theorem lateWrite_stays (hπ : AllFree π 13211319926792) (w : Nat × Word) (hF : Stays π r0 s) :
    Stays π r0 (lateWrite w s) := by
  unfold lateWrite
  try dsimp only
  with_reducible repeat' first
    | assumption | apply Stays.ite | apply railCommand_stays (hπ.sub (by decide))
    | apply capPort_stays (hπ.sub (by decide)) | simp only [Stays.mk_eng (hπ.sub (by decide))]

theorem drainNow_stays (hπ : AllFree π 13219909861448) (n : Nat) (hF : Stays π r0 s) :
    Stays π r0 (drainNow n s) := by
  unfold drainNow
  try dsimp only
  with_reducible repeat' first
    | assumption | intro _ | apply Stays.ite | apply onLane_stays (hπ.sub (by decide))
    | apply forEach_stays | apply writeTileWord_stays (hπ.sub (by decide)) | apply lateWrite_stays (hπ.sub (by decide))
    | apply raise_stays (hπ.sub (by decide)) | apply wr_stays (hπ.sub (by decide)) | apply releaseUnmapped_stays (hπ.sub (by decide))
    | apply releaseHeld_stays (hπ.sub (by decide)) | split

theorem execPassStart_stays (hπ : AllFree π 13222061539401) (n : Fin 32) (hF : Stays π r0 s) :
    ∃ s1, execPassStart n s = .next s1 ∧ Stays π r0 s1 := by
  refine ⟨_, rfl, ?_⟩
  try dsimp only
  with_reducible repeat' first
    | assumption | intro _ | apply Stays.ite | apply drainNow_stays (hπ.sub (by decide))
    | apply upto_stays (hπ.sub (by decide)) | apply onLane_stays (hπ.sub (by decide)) | apply pairPassStart_stays (hπ.sub (by decide))
    | apply railPass_stays (hπ.sub (by decide)) | apply startPass_stays (hπ.sub (by decide))
    | apply forEach_stays | apply setGrp_stays (hπ.sub (by decide)) | apply onPass_stays (hπ.sub (by decide))
    | refine Stays.of_fst (by assumption) ?_ | split | dsimp only

theorem execPassEnd_stays (hπ : AllFree π 70963610255371) (n : Fin 32) (hF : Stays π r0 s) :
    ∃ s1, execPassEnd n s = .next s1 ∧ Stays π r0 s1 := by
  refine ⟨_, rfl, ?_⟩
  try dsimp only
  with_reducible repeat' first
    | assumption | apply Stays.ite | apply flushOuts_stays (hπ.sub (by decide)) | apply upto_stays (hπ.sub (by decide))
    | apply discardPass_stays (hπ.sub (by decide)) | apply passOk_stays (hπ.sub (by decide))
    | split

theorem execPassOverrun_stays (hπ : AllFree π 70379494703115) (n : Fin 32) (hF : Stays π r0 s) :
    ∃ s1, execPassOverrun n s = .next s1 ∧ Stays π r0 s1 := by
  refine ⟨_, rfl, ?_⟩
  try dsimp only
  with_reducible repeat' first
    | assumption | apply Stays.ite | apply flushOuts_stays (hπ.sub (by decide)) | apply upto_stays (hπ.sub (by decide))
    | apply discardPass_stays (hπ.sub (by decide)) | split

theorem execDrainComplete_stays (hπ : AllFree π 13219909861449) (n : Fin 32) (hF : Stays π r0 s) :
    ∃ s1, execDrainComplete n s = .next s1 ∧ Stays π r0 s1 := by
  refine ⟨_, rfl, ?_⟩
  try dsimp only
  with_reducible repeat' first
    | assumption | apply Stays.ite | apply drainNow_stays (hπ.sub (by decide)) | apply upto_stays (hπ.sub (by decide))
    | split

end Sys2Proof.Machine
end

