-- ==== Sys2Proof/Laws/StayPeriods.lean ====
section
/-! SUPPORT. What the operations of Machine/Periods.lean leave alone (Laws/Stays.lean). -/

set_option linter.unusedTactic false
set_option linter.unreachableTactic false
set_option linter.unusedVariables false

namespace Sys2Proof.Machine

variable {α : Type} {π : State → α} {r0 s : State}

theorem boundary_stays (hπ : AllFree π 665065350761691) (d : Nat) (hF : Stays π r0 s) :
    Stays π r0 (boundary d s) := by
  unfold boundary
  try dsimp only
  with_reducible repeat' first
    | assumption | intro _ | apply tripBoundary_stays (hπ.sub (by decide)) | apply upto_stays (hπ.sub (by decide))
    | apply darmsDue_stays (hπ.sub (by decide)) | apply flushOuts_stays (hπ.sub (by decide))
    | apply legBoundary_stays (hπ.sub (by decide)) | apply genBoundary_stays (hπ.sub (by decide))
    | apply laneSwaps_stays (hπ.sub (by decide)) | apply monBoundary_stays (hπ.sub (by decide))
    | apply commitMons_stays (hπ.sub (by decide)) | apply adcBoundary_stays (hπ.sub (by decide))
    | apply islBoundary_stays (hπ.sub (by decide)) | apply gridBoundary_stays (hπ.sub (by decide))
    | apply checkOutEn_stays (hπ.sub (by decide)) | apply updPeriod_stays (hπ.sub (by decide))
    | apply pairBoundary_stays (hπ.sub (by decide)) | apply railBoundary_stays (hπ.sub (by decide))

theorem execBoundary_stays (hπ : AllFree π 665065350761691) (d : Fin 24) (hF : Stays π r0 s) :
    ∃ s1, execBoundary d s = .next s1 ∧ Stays π r0 s1 := by
  refine ⟨_, rfl, ?_⟩
  try dsimp only
  with_reducible repeat' first
    | assumption | apply Stays.ite | apply boundary_stays (hπ.sub (by decide))

theorem execLockReq_stays (hπ : AllFree π 70918502613001) (m : Master) (d : Fin 24) (stretch : Bool) (slew : BitVec 8) (hF : Stays π r0 s) :
    ∃ s1, execLockReq m d stretch slew s = .next s1 ∧ Stays π r0 s1 := by
  refine ⟨_, rfl, ?_⟩
  try dsimp only
  with_reducible repeat' first
    | assumption | intro _ | apply Stays.ite | apply byBus_stays (hπ.sub (by decide))
    | apply islRefresh_stays (hπ.sub (by decide)) | apply writeDomCtrl_stays (hπ.sub (by decide))

theorem execLockReqClear_stays (hπ : AllFree π 70918502613001) (m : Master) (d : Fin 24) (stretch : Bool) (slew : BitVec 8) (hF : Stays π r0 s) :
    ∃ s1, execLockReqClear m d stretch slew s = .next s1 ∧ Stays π r0 s1 := by
  refine ⟨_, rfl, ?_⟩
  try dsimp only
  with_reducible repeat' first
    | assumption | intro _ | apply Stays.ite | apply byBus_stays (hπ.sub (by decide))
    | apply islRefresh_stays (hπ.sub (by decide)) | apply writeDomCtrl_stays (hπ.sub (by decide))

theorem publish_stays (hπ : AllFree π 1073741824)  (hF : Stays π r0 s) :
    Stays π r0 (publish s) := by
  unfold publish
  try dsimp only
  with_reducible repeat' first
    | assumption | intro _ | apply Stays.ite | apply onDatum_stays (hπ.sub (by decide))
    | split

theorem datumBoundary_stays (hπ : AllFree π 634000825388235) (v number : Nat) (hF : Stays π r0 s) :
    Stays π r0 (datumBoundary v number s) := by
  unfold datumBoundary
  try dsimp only
  with_reducible repeat' first
    | assumption | apply Stays.ite | apply upto_stays (hπ.sub (by decide)) | apply islRefresh_stays (hπ.sub (by decide))
    | apply alignDomains_stays (hπ.sub (by decide)) | apply startCycle_stays (hπ.sub (by decide))
    | apply flushOuts_stays (hπ.sub (by decide)) | apply withdrawDarms_stays (hπ.sub (by decide))
    | apply swapGone_stays (hπ.sub (by decide)) | apply globalSwapDue_stays (hπ.sub (by decide))
    | apply updBoundary_stays (hπ.sub (by decide)) | apply gensDue_stays (hπ.sub (by decide))
    | apply publish_stays (hπ.sub (by decide)) | apply pairCapture_stays (hπ.sub (by decide))

theorem execDatumCycleBoundary_stays (hπ : AllFree π 634000825388235)  (hF : Stays π r0 s) :
    ∃ s1, execDatumCycleBoundary s = .next s1 ∧ Stays π r0 s1 := by
  refine ⟨_, rfl, ?_⟩
  try dsimp only
  with_reducible repeat' first
    | assumption | apply Stays.ite | apply datumBoundary_stays (hπ.sub (by decide))
    | split

theorem execAverageDelivered_stays (hπ : AllFree π 3302830374921) (n : Fin 32) (hF : Stays π r0 s) :
    ∃ s1, execAverageDelivered n s = .next s1 ∧ Stays π r0 s1 := by
  refine ⟨_, rfl, ?_⟩
  try dsimp only
  with_reducible repeat' first
    | assumption | intro _ | apply Stays.ite | apply trackSample_stays (hπ.sub (by decide))
    | apply deliverSet_stays (hπ.sub (by decide)) | apply onAdc_stays (hπ.sub (by decide))
    | apply upto_stays (hπ.sub (by decide)) | split

theorem execBlockEnd_stays (hπ : AllFree π 3302830374921) (n : Fin 32) (hF : Stays π r0 s) :
    ∃ s1, execBlockEnd n s = .next s1 ∧ Stays π r0 s1 := by
  refine ⟨_, rfl, ?_⟩
  try dsimp only
  with_reducible repeat' first
    | assumption | intro _ | apply Stays.ite | apply upto_stays (hπ.sub (by decide))
    | apply trackSample_stays (hπ.sub (by decide)) | apply deliverSet_stays (hπ.sub (by decide))
    | apply onAdc_stays (hπ.sub (by decide)) | split

theorem execLockLoss_stays (hπ : AllFree π 1126485376631050)  (hF : Stays π r0 s) :
    ∃ s1, execLockLoss s = .next s1 ∧ Stays π r0 s1 := by
  refine ⟨_, rfl, ?_⟩
  try dsimp only
  with_reducible repeat' first
    | assumption | apply Stays.ite | apply datumRefresh_stays (hπ.sub (by decide))
    | apply loseLock_stays (hπ.sub (by decide))

theorem execRefMeasure_stays (hπ : AllFree π 1126485376631050) (ppm : Int) (hF : Stays π r0 s) :
    ∃ s1, execRefMeasure ppm s = .next s1 ∧ Stays π r0 s1 := by
  refine ⟨_, rfl, ?_⟩
  try dsimp only
  with_reducible repeat' first
    | assumption | intro _ | apply Stays.ite | apply wr_stays (hπ.sub (by decide))
    | apply onClk_stays (hπ.sub (by decide)) | apply datumRefresh_stays (hπ.sub (by decide))
    | apply loseLock_stays (hπ.sub (by decide)) | apply raiseClk_stays (hπ.sub (by decide))
    | split

theorem execPllLocked_stays (hπ : AllFree π 1126485099807112)  (hF : Stays π r0 s) :
    ∃ s1, execPllLocked s = .next s1 ∧ Stays π r0 s1 := by
  refine ⟨_, rfl, ?_⟩
  try dsimp only
  with_reducible repeat' first
    | assumption | apply Stays.ite | apply datumRefresh_stays (hπ.sub (by decide))
    | apply pllLock_stays (hπ.sub (by decide))

theorem execPllRelock_stays (hπ : AllFree π 1196854121201931) (m : Master) (hF : Stays π r0 s) :
    ∃ s1, execPllRelock m s = .next s1 ∧ Stays π r0 s1 := by
  refine ⟨_, rfl, ?_⟩
  try dsimp only
  with_reducible repeat' first
    | assumption | intro _ | apply byBus_stays (hπ.sub (by decide)) | apply datumRefresh_stays (hπ.sub (by decide))
    | apply writeClk_stays (hπ.sub (by decide))

theorem execSafeStateClear_stays (hπ : AllFree π 87961275727883) (m : Master) (k : Fin 16) (hF : Stays π r0 s) :
    ∃ s1, execSafeStateClear m k s = .next s1 ∧ Stays π r0 s1 := by
  refine ⟨_, rfl, ?_⟩
  try dsimp only
  with_reducible repeat' first
    | assumption | intro _ | apply byBus_stays (hπ.sub (by decide)) | apply railAfterClear_stays (hπ.sub (by decide))
    | apply writeSetCtl_stays (hπ.sub (by decide))

theorem execSaddleEvaluation_stays (hπ : AllFree π 562967428762763)  (hF : Stays π r0 s) :
    ∃ s1, execSaddleEvaluation s = .next s1 ∧ Stays π r0 s1 := by
  refine ⟨_, rfl, ?_⟩
  try dsimp only
  with_reducible repeat' first
    | assumption | intro _ | apply Stays.ite | apply upto_stays (hπ.sub (by decide))
    | apply updSaddle_stays (hπ.sub (by decide)) | apply saddleTable_stays (hπ.sub (by decide))
    | apply onPlumb_stays (hπ.sub (by decide))

end Sys2Proof.Machine
end

