-- ==== Sys2Proof/Laws/StayPlumbChannel.lean ====
section
/-! SUPPORT. What the operations of Machine/PlumbChannel.lean leave alone (Laws/Stays.lean). -/

set_option linter.unusedTactic false
set_option linter.unreachableTactic false
set_option linter.unusedVariables false

namespace Sys2Proof.Machine

variable {α : Type} {π : State → α} {r0 s : State}

theorem raisePch_stays (hπ : AllFree π 524296) (k : Nat) (hF : Stays π r0 s) :
    Stays π r0 (raisePch k s) := by
  unfold raisePch
  try dsimp only
  with_reducible repeat' first
    | assumption | apply raise_stays (hπ.sub (by decide))

theorem produce_stays (hπ : AllFree π 137439019073) (c : Nat) (hF : Stays π r0 s) :
    Stays π r0 (produce c s) := by
  unfold produce
  try dsimp only
  with_reducible repeat' first
    | assumption | intro _ | apply Stays.ite | apply upto_stays (hπ.sub (by decide))
    | apply onConn_stays (hπ.sub (by decide)) | apply streamPut_stays (hπ.sub (by decide))
    | refine Stays.of_snd (by assumption) ?_ | split | dsimp only

theorem connFail_stays (hπ : AllFree π 295536778) (c cause : Nat) (hF : Stays π r0 s) :
    Stays π r0 (connFail c cause s) := by
  unfold connFail
  try dsimp only
  with_reducible repeat' first
    | assumption | intro _ | apply onConn_stays (hπ.sub (by decide)) | apply plumbEval_stays (hπ.sub (by decide))
    | apply logHap_stays (hπ.sub (by decide)) | apply raisePch_stays (hπ.sub (by decide))

theorem connDiscard_stays (hπ : AllFree π 295536778) (c : Nat) (f : Conn → Conn) (hF : Stays π r0 s) :
    Stays π r0 (connDiscard c f s) := by
  unfold connDiscard
  try dsimp only
  with_reducible repeat' first
    | assumption | intro _ | apply Stays.ite | apply onConn_stays (hπ.sub (by decide))
    | apply connFail_stays (hπ.sub (by decide))

theorem connAccept_stays (hπ : AllFree π 295536778) (c : Nat) (m : List Byte) (hF : Stays π r0 s) :
    Stays π r0 (connAccept c m s) := by
  unfold connAccept
  try dsimp only
  with_reducible repeat' first
    | assumption | intro _ | apply Stays.ite | apply onConn_stays (hπ.sub (by decide))
    | apply forEach_stays | apply wr_stays (hπ.sub (by decide)) | apply plumbEval_stays (hπ.sub (by decide))
    | apply raisePch_stays (hπ.sub (by decide))

theorem checkMessage_stays (hπ : AllFree π 295536778) (c : Nat) (m : List Byte) (hF : Stays π r0 s) :
    Stays π r0 (checkMessage c m s) := by
  unfold checkMessage
  try dsimp only
  with_reducible repeat' first
    | assumption | intro _ | apply Stays.ite | apply connDiscard_stays (hπ.sub (by decide))
    | apply connFail_stays (hπ.sub (by decide)) | apply connAccept_stays (hπ.sub (by decide))
    | split

theorem consume_stays (hπ : AllFree π 137734490250) (c : Nat) (hF : Stays π r0 s) :
    Stays π r0 (consume c s) := by
  unfold consume
  try dsimp only
  with_reducible repeat' first
    | assumption | apply Stays.ite | apply streamTake_stays (hπ.sub (by decide))
    | apply checkMessage_stays (hπ.sub (by decide)) | refine Stays.of_snd (by assumption) ?_
    | split | dsimp only

theorem writeConnCtl_stays (hπ : AllFree π 295536778) (c : Nat) (v : Word) (hF : Stays π r0 s) :
    Stays π r0 (writeConnCtl c v s) := by
  unfold writeConnCtl
  try dsimp only
  with_reducible repeat' first
    | assumption | intro _ | apply Stays.ite | apply raisePch_stays (hπ.sub (by decide))
    | apply draw_stays (hπ.sub (by decide)) | apply onConn_stays (hπ.sub (by decide)) | apply plumbEval_stays (hπ.sub (by decide))
    | refine Stays.of_snd (by assumption) ?_ | split | dsimp only

theorem writePch_stays (hπ : AllFree π 295536778) (off : Nat) (v : Word) (hF : Stays π r0 s) :
    Stays π r0 (writePch off v s) := by
  unfold writePch
  try dsimp only
  with_reducible repeat' first
    | assumption | apply Stays.ite | apply plainWrite_stays (hπ.sub (by decide))
    | apply writeConnCtl_stays (hπ.sub (by decide))

theorem execProduceMessage_stays (hπ : AllFree π 137439019073) (c : Fin 8) (hF : Stays π r0 s) :
    ∃ s1, execProduceMessage c s = .next s1 ∧ Stays π r0 s1 := by
  refine ⟨_, rfl, ?_⟩
  try dsimp only
  with_reducible repeat' first
    | assumption | apply produce_stays (hπ.sub (by decide))

theorem execConsumeMessage_stays (hπ : AllFree π 137734490250) (c : Fin 8) (hF : Stays π r0 s) :
    ∃ s1, execConsumeMessage c s = .next s1 ∧ Stays π r0 s1 := by
  refine ⟨_, rfl, ?_⟩
  try dsimp only
  with_reducible repeat' first
    | assumption | apply consume_stays (hπ.sub (by decide))

theorem execConnectionWatchdog_stays (hπ : AllFree π 295536779) (c : Fin 8) (hF : Stays π r0 s) :
    ∃ s1, execConnectionWatchdog c s = .next s1 ∧ Stays π r0 s1 := by
  refine ⟨_, rfl, ?_⟩
  try dsimp only
  with_reducible repeat' first
    | assumption | apply Stays.ite | apply connFail_stays (hπ.sub (by decide)) | apply upto_stays (hπ.sub (by decide))

theorem connCommand_stays (hπ : AllFree π 70369039714443) (m : Master) (c : Nat) (v : Word) (hF : Stays π r0 s) :
    Stays π r0 (connCommand m c v s) := by
  unfold connCommand
  try dsimp only
  with_reducible repeat' first
    | assumption | intro _ | apply Stays.ite | apply byBus_stays (hπ.sub (by decide))
    | apply onPlumb_stays (hπ.sub (by decide)) | apply guarded_stays (hπ.sub (by decide))
    | apply writeConnCtl_stays (hπ.sub (by decide))

theorem execConnStart_stays (hπ : AllFree π 70369039714443) (m : Master) (c : Fin 8) (hF : Stays π r0 s) :
    ∃ s1, execConnStart m c s = .next s1 ∧ Stays π r0 s1 := by
  refine ⟨_, rfl, ?_⟩
  try dsimp only
  with_reducible repeat' first
    | assumption | apply connCommand_stays (hπ.sub (by decide))

theorem execConnStop_stays (hπ : AllFree π 70369039714443) (m : Master) (c : Fin 8) (hF : Stays π r0 s) :
    ∃ s1, execConnStop m c s = .next s1 ∧ Stays π r0 s1 := by
  refine ⟨_, rfl, ?_⟩
  try dsimp only
  with_reducible repeat' first
    | assumption | apply connCommand_stays (hπ.sub (by decide))

theorem handPlumb_stays (hπ : AllFree π 919560) (m : Master) (k : Nat) (v : Word) (hF : Stays π r0 s) :
    Stays π r0 (handPlumb m k v s) := by
  unfold handPlumb
  try dsimp only
  with_reducible repeat' first
    | assumption | intro _ | apply Stays.ite | apply deny_stays (hπ.sub (by decide))
    | apply refuseKey_stays (hπ.sub (by decide)) | apply bookRequested_stays (hπ.sub (by decide))
    | apply onPlumb_stays (hπ.sub (by decide)) | simp only [Stays.mk_pw (hπ.sub (by decide))]
    | split

theorem applyHanded_stays (hπ : AllFree π 295475338) (h : Handed) (hF : Stays π r0 s) :
    Stays π r0 (applyHanded h s) := by
  unfold applyHanded
  try dsimp only
  with_reducible repeat' first
    | assumption | apply Stays.ite | apply reviseHanded_stays (hπ.sub (by decide))
    | apply refuseKey_stays (hπ.sub (by decide)) | apply setPlumb_stays (hπ.sub (by decide))
    | apply plumbEval_stays (hπ.sub (by decide)) | apply plainWrite_stays (hπ.sub (by decide))
    | split

end Sys2Proof.Machine
end

