-- ==== Sys2Proof/Laws/StayPower.lean ====
section
/-! SUPPORT. What the operations of Machine/Power.lean leave alone (Laws/Stays.lean). -/

set_option linter.unusedTactic false
set_option linter.unreachableTactic false
set_option linter.unusedVariables false

namespace Sys2Proof.Machine

variable {α : Type} {π : State → α} {r0 s : State}

theorem raiseSys_stays (hπ : AllFree π 524296) (k : Nat) (hF : Stays π r0 s) :
    Stays π r0 (raiseSys k s) := by
  unfold raiseSys
  try dsimp only
  with_reducible repeat' first
    | assumption | apply raise_stays (hπ.sub (by decide))

theorem onPwr_stays (hπ : AllFree π 128) (f : Pwr → Pwr) (hF : Stays π r0 s) :
    Stays π r0 (onPwr f s) := by
  unfold onPwr
  try dsimp only
  with_reducible repeat' first
    | assumption | simp only [Stays.mk_pwr (hπ.sub (by decide))]

theorem keepRegs_stays (hπ : AllFree π 24) (p : Nat → Bool) (hF : Stays π r0 s) :
    Stays π r0 (keepRegs p s) := by
  unfold keepRegs
  try dsimp only
  with_reducible repeat' first
    | assumption | intro _ | simp only [Stays.mk_regs_act (hπ.sub (by decide))]

theorem dropDomain_stays (hπ : AllFree π 4194328) (d : PDom) (hF : Stays π r0 s) :
    Stays π r0 (dropDomain d s) := by
  unfold dropDomain
  try dsimp only
  with_reducible repeat' first
    | assumption | intro _ | apply keepRegs_stays (hπ.sub (by decide)) | simp only [Stays.mk_grps (hπ.sub (by decide))]
    | split

theorem dropPassGroups_stays (hπ : AllFree π 2160066568)  (hF : Stays π r0 s) :
    Stays π r0 (dropPassGroups s) := by
  unfold dropPassGroups
  try dsimp only
  with_reducible repeat' first
    | assumption | intro _ | apply forEach_stays | apply dropGroup_stays (hπ.sub (by decide))
    | split

theorem pwmOff_stays (hπ : AllFree π 4126371512328)  (hF : Stays π r0 s) :
    Stays π r0 (pwmOff s) := by
  unfold pwmOff
  try dsimp only
  with_reducible repeat' first
    | assumption | intro _ | apply forEach_stays | apply portOpen_stays (hπ.sub (by decide))
    | apply onGrid_stays (hπ.sub (by decide)) | apply loseBoundaries_stays (hπ.sub (by decide))
    | apply lateSteps_stays (hπ.sub (by decide)) | apply islRefresh_stays (hπ.sub (by decide))
    | simp only [Stays.mk_doms_legs_trips_sets_mons_phases_drvs_pair (hπ.sub (by decide))]
    | split

theorem offActions_stays (hπ : AllFree π 1688849860103370) (d : PDom) (hF : Stays π r0 s) :
    Stays π r0 (offActions d s) := by
  unfold offActions
  try dsimp only
  with_reducible repeat' first
    | assumption | intro _ | apply trackersOff_stays (hπ.sub (by decide)) | apply islOff_stays (hπ.sub (by decide))
    | apply gridsOff_stays (hπ.sub (by decide)) | apply dropPassGroups_stays (hπ.sub (by decide))
    | apply pwmOff_stays (hπ.sub (by decide)) | apply lateSteps_stays (hπ.sub (by decide))
    | apply metersOff_stays (hπ.sub (by decide)) | apply plumbEval_stays (hπ.sub (by decide))
    | apply pairReset_stays (hπ.sub (by decide)) | apply datumReset_stays (hπ.sub (by decide))
    | apply ringReset_stays (hπ.sub (by decide)) | apply forEach_stays | apply onRail_stays (hπ.sub (by decide))
    | apply onVal_stays (hπ.sub (by decide)) | apply onGio_stays (hπ.sub (by decide)) | apply railsOff_stays (hπ.sub (by decide))
    | simp only [Stays.mk_mem_adcs_lanes_eng_gens_capMem (hπ.sub (by decide))] | simp only [Stays.mk_mem_conns_lanes_eng_gens_capMem (hπ.sub (by decide))]
    | simp only [Stays.mk_conns_dbg (hπ.sub (by decide))] | simp only [Stays.mk_conns_adcs (hπ.sub (by decide))]
    | simp only [Stays.mk_mem_lanes_eng_gens_capMem_cmdPorts_monument (hπ.sub (by decide))]
    | simp only [Stays.mk_mem_lanes_eng_gens_capMem_dbg (hπ.sub (by decide))] | simp only [Stays.mk_conns_cmdPorts_monument (hπ.sub (by decide))]
    | simp only [Stays.mk_adcs_cmdPorts_monument (hπ.sub (by decide))] | simp only [Stays.mk_conns (hπ.sub (by decide))]
    | simp only [Stays.mk_adcs_dbg (hπ.sub (by decide))] | simp only [Stays.mk_cmdPorts_monument_dbg (hπ.sub (by decide))]
    | simp only [Stays.mk_cmdPorts_monument (hπ.sub (by decide))] | simp only [Stays.mk_dbg (hπ.sub (by decide))]
    | simp only [Stays.mk_adcs (hπ.sub (by decide))] | simp only [Stays.mk_mem_lanes_eng_gens_capMem (hπ.sub (by decide))]
    | split

theorem nextMove_stays (hπ : AllFree π 128)  (hF : Stays π r0 s) :
    Stays π r0 (nextMove s) := by
  unfold nextMove
  try dsimp only
  with_reducible repeat' first
    | assumption | intro _ | apply Stays.ite | apply onPwr_stays (hπ.sub (by decide))
    | split

theorem writePdCtl_stays (hπ : AllFree π 524424) (v : Word) (hF : Stays π r0 s) :
    Stays π r0 (writePdCtl v s) := by
  unfold writePdCtl
  try dsimp only
  with_reducible repeat' first
    | assumption | intro _ | apply Stays.ite | apply nextMove_stays (hπ.sub (by decide))
    | apply wr_stays (hπ.sub (by decide)) | apply raiseSys_stays (hπ.sub (by decide))

theorem domainOn_stays (hπ : AllFree π 49807514) (d : PDom) (hF : Stays π r0 s) :
    Stays π r0 (domainOn d s) := by
  unfold domainOn
  try dsimp only
  with_reducible repeat' first
    | assumption | intro _ | apply Stays.ite | apply dropDomain_stays (hπ.sub (by decide))
    | apply onPwr_stays (hπ.sub (by decide)) | apply startPwm_stays (hπ.sub (by decide))
    | apply nextMove_stays (hπ.sub (by decide)) | apply logHap_stays (hπ.sub (by decide))
    | apply raiseSys_stays (hπ.sub (by decide)) | simp only [Stays.mk_trips (hπ.sub (by decide))]

theorem domainOff_stays (hπ : AllFree π 1688849860103386) (d : PDom) (hF : Stays π r0 s) :
    Stays π r0 (domainOff d s) := by
  unfold domainOff
  try dsimp only
  with_reducible repeat' first
    | assumption | intro _ | apply dropDomain_stays (hπ.sub (by decide)) | apply offActions_stays (hπ.sub (by decide))
    | apply onPwr_stays (hπ.sub (by decide)) | apply nextMove_stays (hπ.sub (by decide))
    | apply logHap_stays (hπ.sub (by decide)) | apply raiseSys_stays (hπ.sub (by decide))

theorem resetCause_stays (hπ : AllFree π 128) (k : Nat) (hF : Stays π r0 s) :
    Stays π r0 (resetCause k s) := by
  unfold resetCause
  try dsimp only
  with_reducible repeat' first
    | assumption | intro _ | apply Stays.ite | apply onPwr_stays (hπ.sub (by decide))

theorem settleSources_stays (hπ : AllFree π 128)  (hF : Stays π r0 s) :
    Stays π r0 (settleSources s) := by
  unfold settleSources
  try dsimp only
  with_reducible repeat' first
    | assumption | intro _ | apply Stays.ite | apply onPwr_stays (hπ.sub (by decide))
    | split

theorem beginSystem_stays (hπ : AllFree π 2251799813656282) (byDebug : Bool) (hF : Stays π r0 s) :
    Stays π r0 (beginSystem byDebug s) := by
  unfold beginSystem
  try dsimp only
  with_reducible repeat' first
    | assumption | intro _ | apply Stays.ite | apply forEach_stays | apply offActions_stays (hπ.sub (by decide))
    | apply updReset_stays (hπ.sub (by decide)) | apply gioReset_stays (hπ.sub (by decide))
    | apply keepRegs_stays (hπ.sub (by decide)) | apply startActive_stays (hπ.sub (by decide))
    | apply relockLevel_stays (hπ.sub (by decide)) | apply endFreeze_stays (hπ.sub (by decide))
    | simp only [Stays.mk_pwr_therm_evr_log_grps_cluster (hπ.sub (by decide))] | simp only [Stays.mk_doms_adcs (hπ.sub (by decide))]
    | simp only [Stays.mk_pwr_therm_evr_log_doms_grps_adcs_cluster (hπ.sub (by decide))]

theorem systemReset_stays (hπ : AllFree π 2251799813656282) (k : Nat) (byDebug : Bool) (hF : Stays π r0 s) :
    Stays π r0 (systemReset k byDebug s) := by
  unfold systemReset
  try dsimp only
  with_reducible repeat' first
    | assumption | apply Stays.ite | apply settleSources_stays (hπ.sub (by decide))
    | apply resetCause_stays (hπ.sub (by decide)) | apply beginSystem_stays (hπ.sub (by decide))

theorem beginPowerOn_stays (hπ : AllFree π 2251799813685247)  (hF : Stays π r0 s) :
    Stays π r0 (beginPowerOn s) := by
  unfold beginPowerOn
  try dsimp only
  with_reducible repeat' first
    | assumption | intro _ | apply Stays.ite | apply logToValley_stays (hπ.sub (by decide))
    | apply keepStopFull_stays (hπ.sub (by decide)) | apply updReset_stays (hπ.sub (by decide))
    | apply dropHanded_stays (hπ.sub (by decide)) | apply tearMonument_stays (hπ.sub (by decide))
    | apply valleyMark_stays (hπ.sub (by decide)) | simp only [Stays.mk_all (hπ.sub (by decide))]
    | split

theorem powerOnReset_stays (hπ : AllFree π 2251799813685247) (k : Nat) (hF : Stays π r0 s) :
    Stays π r0 (powerOnReset k s) := by
  unfold powerOnReset
  try dsimp only
  with_reducible repeat' first
    | assumption | apply Stays.ite | apply settleSources_stays (hπ.sub (by decide))
    | apply resetCause_stays (hπ.sub (by decide)) | apply beginPowerOn_stays (hπ.sub (by decide))

theorem bootChecks_stays (hπ : AllFree π 703687442301064)  (hF : Stays π r0 s) :
    Stays π r0 (bootChecks s) := by
  unfold bootChecks
  try dsimp only
  with_reducible repeat' first
    | assumption | apply Stays.ite | apply bootImage_stays (hπ.sub (by decide)) | apply milestone_stays (hπ.sub (by decide))
    | refine Stays.of_snd (by assumption) ?_ | split | dsimp only

theorem powerOnEnds_stays (hπ : AllFree π 295472010)  (hF : Stays π r0 s) :
    Stays π r0 (powerOnEnds s) := by
  unfold powerOnEnds
  try dsimp only
  with_reducible repeat' first
    | assumption | intro _ | apply onClk_stays (hπ.sub (by decide)) | apply startActive_stays (hπ.sub (by decide))
    | apply onPlumb_stays (hπ.sub (by decide)) | simp only [Stays.mk_therm_log (hπ.sub (by decide))]

theorem resetEnd_stays (hπ : AllFree π 703687737248651)  (hF : Stays π r0 s) :
    Stays π r0 (resetEnd s) := by
  unfold resetEnd
  try dsimp only
  with_reducible repeat' first
    | assumption | intro _ | apply Stays.ite | apply upto_stays (hπ.sub (by decide))
    | apply onPwr_stays (hπ.sub (by decide)) | apply powerOnEnds_stays (hπ.sub (by decide))
    | apply raiseDbg_stays (hπ.sub (by decide)) | apply raiseVal_stays (hπ.sub (by decide))
    | apply raiseUpd_stays (hπ.sub (by decide)) | apply bootChecks_stays (hπ.sub (by decide))
    | apply startEnds_stays (hπ.sub (by decide)) | apply onUpd_stays (hπ.sub (by decide))
    | simp only [Stays.mk_evr_log (hπ.sub (by decide))] | split

theorem onTherm_stays (hπ : AllFree π 512) (f : Therm → Therm) (hF : Stays π r0 s) :
    Stays π r0 (onTherm f s) := by
  unfold onTherm
  try dsimp only
  with_reducible repeat' first
    | assumption | simp only [Stays.mk_therm (hπ.sub (by decide))]

theorem raiseTherm_stays (hπ : AllFree π 524296) (k : Nat) (hF : Stays π r0 s) :
    Stays π r0 (raiseTherm k s) := by
  unfold raiseTherm
  try dsimp only
  with_reducible repeat' first
    | assumption | apply Stays.ite | apply raise_stays (hπ.sub (by decide)) | split

theorem thermDemand_stays (hπ : AllFree π 512) (mask : Word) (sw scan : Bool) (hF : Stays π r0 s) :
    Stays π r0 (thermDemand mask sw scan s) := by
  unfold thermDemand
  try dsimp only
  with_reducible repeat' first
    | assumption | intro _ | apply Stays.ite | apply onTherm_stays (hπ.sub (by decide))
    | split

theorem orderlyStop_stays (hπ : AllFree π 34945290242698)  (hF : Stays π r0 s) :
    Stays π r0 (orderlyStop s) := by
  unfold orderlyStop
  try dsimp only
  with_reducible repeat' first
    | assumption | intro _ | apply logHap_stays (hπ.sub (by decide)) | apply raiseTherm_stays (hπ.sub (by decide))
    | apply onTherm_stays (hπ.sub (by decide)) | apply forEach_stays | apply islPoll_stays (hπ.sub (by decide))
    | apply gridLeave_stays (hπ.sub (by decide)) | apply writeRailCtl_stays (hπ.sub (by decide))
    | apply writeTrkCtl_stays (hπ.sub (by decide))

theorem cutOff_stays (hπ : AllFree π 2251799813525466)  (hF : Stays π r0 s) :
    Stays π r0 (cutOff s) := by
  unfold cutOff
  try dsimp only
  with_reducible repeat' first
    | assumption | intro _ | apply forEach_stays | apply soutOff_stays (hπ.sub (by decide))
    | apply spoSource_stays (hπ.sub (by decide)) | apply logToValley_stays (hπ.sub (by decide))
    | apply dropDomain_stays (hπ.sub (by decide)) | apply offActions_stays (hπ.sub (by decide))
    | apply keepStopFull_stays (hπ.sub (by decide)) | apply tearMonument_stays (hπ.sub (by decide))
    | apply updCut_stays (hπ.sub (by decide)) | apply nvLoss_stays (hπ.sub (by decide))
    | apply valleyMark_stays (hπ.sub (by decide)) | apply logHap_stays (hπ.sub (by decide))
    | apply onTherm_stays (hπ.sub (by decide)) | simp only [Stays.mk_pwr_clk_evr (hπ.sub (by decide))]

theorem thermalRestart_stays (hπ : AllFree π 2251799813656538)  (hF : Stays π r0 s) :
    Stays π r0 (thermalRestart s) := by
  unfold thermalRestart
  try dsimp only
  with_reducible repeat' first
    | assumption | intro _ | apply onClk_stays (hπ.sub (by decide)) | apply onPwr_stays (hπ.sub (by decide))
    | apply settleSources_stays (hπ.sub (by decide)) | apply resetCause_stays (hπ.sub (by decide))
    | apply beginSystem_stays (hπ.sub (by decide)) | apply spoSource_stays (hπ.sub (by decide))
    | apply onTherm_stays (hπ.sub (by decide))

theorem storeTemp_stays (hπ : AllFree π 8) (n : Nat) (temp : Int) (hF : Stays π r0 s) :
    Stays π r0 (storeTemp n temp s) := by
  unfold storeTemp
  try dsimp only
  with_reducible repeat' first
    | assumption | apply wr_stays (hπ.sub (by decide))

theorem measured_stays (hπ : AllFree π 2251799813656539) (temps : List Int) (hF : Stays π r0 s) :
    Stays π r0 (measured temps s) := by
  unfold measured
  try dsimp only
  with_reducible repeat' first
    | assumption | intro _ | apply Stays.ite | apply upto_stays (hπ.sub (by decide))
    | apply forEach_stays | apply storeTemp_stays (hπ.sub (by decide)) | apply onTherm_stays (hπ.sub (by decide))
    | apply wr_stays (hπ.sub (by decide)) | apply thermDemand_stays (hπ.sub (by decide))
    | apply raiseTherm_stays (hπ.sub (by decide)) | apply thermalRestart_stays (hπ.sub (by decide))
    | apply cutOff_stays (hπ.sub (by decide)) | apply orderlyStop_stays (hπ.sub (by decide))
    | split

theorem clearStop_stays (hπ : AllFree π 524808)  (hF : Stays π r0 s) :
    Stays π r0 (clearStop s) := by
  unfold clearStop
  try dsimp only
  with_reducible repeat' first
    | assumption | intro _ | apply Stays.ite | apply raiseTherm_stays (hπ.sub (by decide))
    | apply onTherm_stays (hπ.sub (by decide))

theorem writeTh_stays (hπ : AllFree π 524296) (v : Word) (hF : Stays π r0 s) :
    Stays π r0 (writeTh v s) := by
  unfold writeTh
  try dsimp only
  with_reducible repeat' first
    | assumption | apply Stays.ite | apply plainWrite_stays (hπ.sub (by decide))
    | apply refuseKey_stays (hπ.sub (by decide))

theorem writeTherm_stays (hπ : AllFree π 918024) (m : Master) (off : Nat) (v : Word) (hF : Stays π r0 s) :
    Stays π r0 (writeTherm m off v s) := by
  unfold writeTherm
  try dsimp only
  with_reducible repeat' first
    | assumption | intro _ | apply Stays.ite | apply rwlPath_stays (hπ.sub (by decide))
    | apply plainWrite_stays (hπ.sub (by decide)) | apply writeTh_stays (hπ.sub (by decide))
    | apply thermDemand_stays (hπ.sub (by decide)) | apply clearStop_stays (hπ.sub (by decide))

theorem writeSys_stays (hπ : AllFree π 2251799813656282) (m : Master) (off : Nat) (v : Word) (hF : Stays π r0 s) :
    Stays π r0 (writeSys m off v s) := by
  unfold writeSys
  try dsimp only
  with_reducible repeat' first
    | assumption | intro _ | apply Stays.ite | apply rwlPath_stays (hπ.sub (by decide))
    | apply writePdCtl_stays (hπ.sub (by decide)) | apply raiseSys_stays (hπ.sub (by decide))
    | apply systemReset_stays (hπ.sub (by decide)) | apply onPwr_stays (hπ.sub (by decide))

theorem execPdCtlWrite_stays (hπ : AllFree π 2251799813656283) (m : Master) (v : BitVec 16) (hF : Stays π r0 s) :
    ∃ s1, execPdCtlWrite m v s = .next s1 ∧ Stays π r0 s1 := by
  refine ⟨_, rfl, ?_⟩
  try dsimp only
  with_reducible repeat' first
    | assumption | intro _ | apply byBus_stays (hπ.sub (by decide)) | apply writeSys_stays (hπ.sub (by decide))

theorem execPdOn_stays (hπ : AllFree π 49807514)  (hF : Stays π r0 s) :
    ∃ s1, execPdOn s = .next s1 ∧ Stays π r0 s1 := by
  refine ⟨_, rfl, ?_⟩
  try dsimp only
  with_reducible repeat' first
    | assumption | apply domainOn_stays (hπ.sub (by decide)) | split

theorem execPdOff_stays (hπ : AllFree π 1688849860103386)  (hF : Stays π r0 s) :
    ∃ s1, execPdOff s = .next s1 ∧ Stays π r0 s1 := by
  refine ⟨_, rfl, ?_⟩
  try dsimp only
  with_reducible repeat' first
    | assumption | apply domainOff_stays (hπ.sub (by decide)) | split

theorem execSupplyFall_stays (hπ : AllFree π 2251799813685247) (n : Fin 4) (hF : Stays π r0 s) :
    ∃ s1, execSupplyFall n s = .next s1 ∧ Stays π r0 s1 := by
  refine ⟨_, rfl, ?_⟩
  try dsimp only
  with_reducible repeat' first
    | assumption | intro _ | apply Stays.ite | apply setChargers_stays (hπ.sub (by decide))
    | apply onPwr_stays (hπ.sub (by decide)) | apply onVal_stays (hπ.sub (by decide)) | apply updCut_stays (hπ.sub (by decide))
    | apply nvLoss_stays (hπ.sub (by decide)) | apply powerOnReset_stays (hπ.sub (by decide))
    | split

theorem execSupplyRise_stays (hπ : AllFree π 1152) (n : Fin 4) (hF : Stays π r0 s) :
    ∃ s1, execSupplyRise n s = .next s1 ∧ Stays π r0 s1 := by
  refine ⟨_, rfl, ?_⟩
  try dsimp only
  with_reducible repeat' first
    | assumption | intro _ | apply Stays.ite | apply settleSources_stays (hπ.sub (by decide))
    | apply setChargers_stays (hπ.sub (by decide)) | apply onPwr_stays (hπ.sub (by decide))

theorem execPorstAssert_stays (hπ : AllFree π 2251799813685247)  (hF : Stays π r0 s) :
    ∃ s1, execPorstAssert s = .next s1 ∧ Stays π r0 s1 := by
  refine ⟨_, rfl, ?_⟩
  try dsimp only
  with_reducible repeat' first
    | assumption | intro _ | apply powerOnReset_stays (hπ.sub (by decide)) | apply onPwr_stays (hπ.sub (by decide))

theorem execSysrstAssert_stays (hπ : AllFree π 2251799813656282)  (hF : Stays π r0 s) :
    ∃ s1, execSysrstAssert s = .next s1 ∧ Stays π r0 s1 := by
  refine ⟨_, rfl, ?_⟩
  try dsimp only
  with_reducible repeat' first
    | assumption | intro _ | apply systemReset_stays (hπ.sub (by decide)) | apply onPwr_stays (hπ.sub (by decide))

theorem execRstCtl_stays (hπ : AllFree π 2251799813656283) (m : Master) (v : BitVec 16) (hF : Stays π r0 s) :
    ∃ s1, execRstCtl m v s = .next s1 ∧ Stays π r0 s1 := by
  refine ⟨_, rfl, ?_⟩
  try dsimp only
  with_reducible repeat' first
    | assumption | intro _ | apply byBus_stays (hπ.sub (by decide)) | apply writeSys_stays (hπ.sub (by decide))

theorem execResetEnd_stays (hπ : AllFree π 703687737248651)  (hF : Stays π r0 s) :
    ∃ s1, execResetEnd s = .next s1 ∧ Stays π r0 s1 := by
  refine ⟨_, rfl, ?_⟩
  try dsimp only
  with_reducible repeat' first
    | assumption | apply resetEnd_stays (hπ.sub (by decide))

theorem execGuardScan_stays (hπ : AllFree π 513)  (hF : Stays π r0 s) :
    ∃ s1, execGuardScan s = .next s1 ∧ Stays π r0 s1 := by
  refine ⟨_, rfl, ?_⟩
  try dsimp only
  with_reducible repeat' first
    | assumption | intro _ | apply Stays.ite | apply upto_stays (hπ.sub (by decide))
    | apply thermDemand_stays (hπ.sub (by decide)) | apply onTherm_stays (hπ.sub (by decide))

theorem execMeas_stays (hπ : AllFree π 70368745095689) (m : Master) (v : BitVec 24) (hF : Stays π r0 s) :
    ∃ s1, execMeas m v s = .next s1 ∧ Stays π r0 s1 := by
  refine ⟨_, rfl, ?_⟩
  try dsimp only
  with_reducible repeat' first
    | assumption | intro _ | apply byBus_stays (hπ.sub (by decide)) | apply writeTherm_stays (hπ.sub (by decide))

theorem execMeasurementDone_stays (hπ : AllFree π 2251799813656539) (temps : List Int) (hF : Stays π r0 s) :
    ∃ s1, execMeasurementDone temps s = .next s1 ∧ Stays π r0 s1 := by
  refine ⟨_, rfl, ?_⟩
  try dsimp only
  with_reducible repeat' first
    | assumption | apply Stays.ite | apply measured_stays (hπ.sub (by decide)) | split

theorem execStopTime_stays (hπ : AllFree π 17592531026443)  (hF : Stays π r0 s) :
    ∃ s1, execStopTime s = .next s1 ∧ Stays π r0 s1 := by
  refine ⟨_, rfl, ?_⟩
  try dsimp only
  with_reducible repeat' first
    | assumption | intro _ | apply Stays.ite | apply upto_stays (hπ.sub (by decide))
    | apply forEach_stays | apply latchSet_stays (hπ.sub (by decide)) | apply onTherm_stays (hπ.sub (by decide))
    | split

theorem execClrStop_stays (hπ : AllFree π 70368745095689) (m : Master) (hF : Stays π r0 s) :
    ∃ s1, execClrStop m s = .next s1 ∧ Stays π r0 s1 := by
  refine ⟨_, rfl, ?_⟩
  try dsimp only
  with_reducible repeat' first
    | assumption | intro _ | apply byBus_stays (hπ.sub (by decide)) | apply writeTherm_stays (hπ.sub (by decide))

theorem execValleySample_stays (hπ : AllFree π 1836187) (mv : Nat) (hF : Stays π r0 s) :
    ∃ s1, execValleySample mv s = .next s1 ∧ Stays π r0 s1 := by
  refine ⟨_, rfl, ?_⟩
  try dsimp only
  with_reducible repeat' first
    | assumption | apply valleySample_stays (hπ.sub (by decide)) | apply askGrant_stays (hπ.sub (by decide))

theorem execHoldupEnd_stays (hπ : AllFree π 774056186479691)  (hF : Stays π r0 s) :
    ∃ s1, execHoldupEnd s = .next s1 ∧ Stays π r0 s1 := by
  refine ⟨_, rfl, ?_⟩
  try dsimp only
  with_reducible repeat' first
    | assumption | intro _ | apply Stays.ite | apply nvFlush_stays (hπ.sub (by decide))
    | apply slotWritten_stays (hπ.sub (by decide)) | apply upto_stays (hπ.sub (by decide))
    | apply updCut_stays (hπ.sub (by decide)) | apply onVal_stays (hπ.sub (by decide))
    | split

end Sys2Proof.Machine
end

