-- ==== Sys2Proof/Laws/StayReads.lean ====
section
/-! SUPPORT. What the operations of Machine/Reads.lean leave alone (Laws/Stays.lean). -/

set_option linter.unusedTactic false
set_option linter.unreachableTactic false
set_option linter.unusedVariables false

namespace Sys2Proof.Machine

variable {α : Type} {π : State → α} {r0 s : State}

theorem after_stays {f : State → Host.Outcome State Fault Refusal} {s1 : State}
    (hf : ∃ s2, f s1 = .next s2 ∧ Stays π r0 s2) : Stays π r0 (after f s1) := by
  obtain ⟨s2, h, hF⟩ := hf
  unfold after
  rw [h]
  exact hF

theorem pageRead_stays (hπ : AllFree π 1196822703636587) (m : Master) (t : PageType) (n off : Nat) (hF : Stays π r0 s) :
    Stays π r0 (pageRead m t n off s) := by
  unfold pageRead
  try dsimp only
  with_reducible repeat' first
    | assumption | apply Stays.ite | apply respond_stays (hπ.sub (by decide)) | apply after_stays
    | apply execTickLoRead_stays (hπ.sub (by decide)) | apply execRtcLoRead_stays (hπ.sub (by decide))
    | apply execTimeLoRead_stays (hπ.sub (by decide)) | apply execFbDataRead_stays (hπ.sub (by decide))
    | apply execSwpPRead_stays (hπ.sub (by decide)) | apply execAmpDataAccess_stays (hπ.sub (by decide))
    | apply readDecTime_stays (hπ.sub (by decide)) | apply execLogDataRead_stays (hπ.sub (by decide))
    | apply readRec0_stays (hπ.sub (by decide)) | apply execAvgRead_stays (hπ.sub (by decide))
    | apply execResultRead_stays (hπ.sub (by decide)) | apply execCapDataRead_stays (hπ.sub (by decide))
    | apply execIaccLoRead_stays (hπ.sub (by decide)) | apply execCycCntRead_stays (hπ.sub (by decide))
    | apply execELoRead_stays (hπ.sub (by decide)) | apply execSfpDataRead_stays (hπ.sub (by decide))
    | apply execRmemDataAccess_stays (hπ.sub (by decide)) | apply readCtrLo_stays (hπ.sub (by decide))
    | apply readSpiRx_stays (hπ.sub (by decide)) | apply readUartRx_stays (hπ.sub (by decide))
    | split

end Sys2Proof.Machine
end

