-- ==== Sys2Proof/Laws/StayBus.lean ====
section
/-! SUPPORT. What the operations of Machine/Bus.lean leave alone (Laws/Stays.lean). -/

set_option linter.unusedTactic false
set_option linter.unreachableTactic false
set_option linter.unusedVariables false

namespace Sys2Proof.Machine

variable {α : Type} {π : State → α} {r0 s : State}

theorem selectForm_stays (hπ : AllFree π 8388608) (t : PageType) (n off : Nat) (hF : Stays π r0 s) :
    Stays π r0 (selectForm t n off s) := by
  unfold selectForm
  try dsimp only
  with_reducible repeat' first
    | assumption | intro _ | apply Stays.ite | apply onLeg_stays (hπ.sub (by decide))
    | split

theorem shadowWrite_stays (hπ : AllFree π 13107208) (m : Master) (t : PageType) (n off : Nat) (v : Word) (hF : Stays π r0 s) :
    Stays π r0 (shadowWrite m t n off v s) := by
  unfold shadowWrite
  try dsimp only
  with_reducible repeat' first
    | assumption | apply Stays.ite | apply wrb_stays (hπ.sub (by decide)) | apply openGroup_stays (hπ.sub (by decide))
    | apply setGrp_stays (hπ.sub (by decide)) | apply selectForm_stays (hπ.sub (by decide))
    | apply plainWrite_stays (hπ.sub (by decide))

theorem armByBus_stays (hπ : AllFree π 4718600) (t : PageType) (n g : Nat) (hF : Stays π r0 s) :
    Stays π r0 (armByBus t n g s) := by
  unfold armByBus
  try dsimp only
  with_reducible repeat' first
    | assumption | apply Stays.ite | apply setGrp_stays (hπ.sub (by decide)) | apply armGroup_stays (hπ.sub (by decide))

theorem writeCommit_stays (hπ : AllFree π 2160590856) (t : PageType) (n : Nat) (v : Word) (hF : Stays π r0 s) :
    Stays π r0 (writeCommit t n v s) := by
  unfold writeCommit
  try dsimp only
  with_reducible repeat' first
    | assumption | intro _ | apply forEach_stays | apply dropGroup_stays (hπ.sub (by decide))
    | apply armByBus_stays (hπ.sub (by decide))

theorem clearCommitStat_stays (hπ : AllFree π 8) (t : PageType) (n : Nat) (v : Word) (hF : Stays π r0 s) :
    Stays π r0 (clearCommitStat t n v s) := by
  unfold clearCommitStat
  try dsimp only
  with_reducible repeat' first
    | assumption | apply Stays.ite | apply wr_stays (hπ.sub (by decide))

theorem clearTrips_stays (hπ : AllFree π 524296) (first n : Nat) (v : Word) (hF : Stays π r0 s) :
    Stays π r0 (clearTrips first n v s) := by
  unfold clearTrips
  try dsimp only
  with_reducible repeat' first
    | assumption | intro _ | apply forEach_stays | apply clearTrip_stays (hπ.sub (by decide))

theorem writeEvClr_stays (hπ : AllFree π 524296) (t : PageType) (n : Nat) (raw : Bool) (v : Word) (hF : Stays π r0 s) :
    Stays π r0 (writeEvClr t n raw v s) := by
  unfold writeEvClr
  try dsimp only
  with_reducible repeat' first
    | assumption | apply Stays.ite | apply clearTrips_stays (hπ.sub (by decide))
    | apply clearCauses_stays (hπ.sub (by decide)) | split

theorem alertEnabled_stays (hπ : AllFree π 8796093022208) (t : PageType) (n : Nat) (fresh : Word) (hF : Stays π r0 s) :
    Stays π r0 (alertEnabled t n fresh s) := by
  unfold alertEnabled
  try dsimp only
  with_reducible repeat' first
    | assumption | apply Stays.ite | simp only [Stays.mk_cmdPorts (hπ.sub (by decide))]

theorem writeEnables_stays (hπ : AllFree π 8796093546504) (t : PageType) (n : Nat) (v : Word) (hF : Stays π r0 s) :
    Stays π r0 (writeEnables t n v s) := by
  unfold writeEnables
  try dsimp only
  with_reducible repeat' first
    | assumption | apply alertEnabled_stays (hπ.sub (by decide)) | apply writeEvEn_stays (hπ.sub (by decide))
    | split

theorem writeHeader_stays (hπ : AllFree π 8798253613064) (t : PageType) (n off : Nat) (v : Word) (hF : Stays π r0 s) :
    Stays π r0 (writeHeader t n off v s) := by
  unfold writeHeader
  try dsimp only
  with_reducible repeat' first
    | assumption | apply Stays.ite | apply writeEvClr_stays (hπ.sub (by decide))
    | apply writeEnables_stays (hπ.sub (by decide)) | apply writeCommit_stays (hπ.sub (by decide))
    | apply clearCommitStat_stays (hπ.sub (by decide)) | simp only [Stays.mk_evr (hπ.sub (by decide))]
    | split

theorem guardedEffect_stays (hπ : AllFree π 1266564242245835) (m : Master) (t : PageType) (n off : Nat) (v : Word) (hF : Stays π r0 s) :
    Stays π r0 (guardedEffect m t n off v s) := by
  unfold guardedEffect
  try dsimp only
  with_reducible repeat' first
    | assumption | apply Stays.ite | apply writeTripCfg_stays (hπ.sub (by decide))
    | apply settle_stays (hπ.sub (by decide)) | apply plainWrite_stays (hπ.sub (by decide))
    | apply writePhCfg_stays (hπ.sub (by decide)) | apply islRefresh_stays (hπ.sub (by decide))
    | apply writeGrid_stays (hπ.sub (by decide)) | apply writeIsl_stays (hπ.sub (by decide))
    | apply writeMppt_stays (hπ.sub (by decide)) | apply writeReg_stays (hπ.sub (by decide))
    | apply writeMtr_stays (hπ.sub (by decide)) | apply spurSides_stays (hπ.sub (by decide))
    | apply writeRing_stays (hπ.sub (by decide)) | apply writeDatum_stays (hπ.sub (by decide))
    | apply writePair_stays (hπ.sub (by decide)) | apply writeWdtCfg_stays (hπ.sub (by decide))
    | apply nextMove_stays (hπ.sub (by decide)) | split

theorem noteIgnored_stays (hπ : AllFree π 8) (t : PageType) (n off : Nat) (ok : Bool) (hF : Stays π r0 s) :
    Stays π r0 (noteIgnored t n off ok s) := by
  unfold noteIgnored
  try dsimp only
  with_reducible repeat' first
    | assumption | apply Stays.ite | apply wrb_stays (hπ.sub (by decide))

theorem guardedWrite_stays (hπ : AllFree π 1266564242245835) (m : Master) (t : PageType) (n off : Nat) (v : Word) (hF : Stays π r0 s) :
    Stays π r0 (guardedWrite m t n off v s) := by
  unfold guardedWrite
  try dsimp only
  with_reducible repeat' first
    | assumption | intro _ | apply Stays.ite | apply noteIgnored_stays (hπ.sub (by decide))
    | apply rwlPathBy_stays (hπ.sub (by decide)) | apply guardedEffect_stays (hπ.sub (by decide))
    | apply regAlert_stays (hπ.sub (by decide)) | split

theorem writeTrip_stays (hπ : AllFree π 17592531550218) (off : Nat) (v : Word) (hF : Stays π r0 s) :
    Stays π r0 (writeTrip off v s) := by
  unfold writeTrip
  try dsimp only
  with_reducible repeat' first
    | assumption | apply Stays.ite | apply clearTrips_stays (hπ.sub (by decide))
    | apply plainWrite_stays (hπ.sub (by decide)) | apply occur_stays (hπ.sub (by decide))
    | apply clearTrip_stays (hπ.sub (by decide)) | apply clearHeld_stays (hπ.sub (by decide))
    | apply railAfterClear_stays (hπ.sub (by decide)) | apply writeSetCtl_stays (hπ.sub (by decide))
    | split

theorem writeCmp_stays (hπ : AllFree π 17592665767947) (n off : Nat) (v : Word) (hF : Stays π r0 s) :
    Stays π r0 (writeCmp n off v s) := by
  unfold writeCmp
  try dsimp only
  with_reducible repeat' first
    | assumption | apply Stays.ite | apply writeMonCfg_stays (hπ.sub (by decide))
    | apply clearLatched_stays (hπ.sub (by decide)) | apply monUpdate_stays (hπ.sub (by decide))
    | apply plainWrite_stays (hπ.sub (by decide)) | split

theorem writeEng_stays (hπ : AllFree π 25770328136) (n off : Nat) (v : Word) (hF : Stays π r0 s) :
    Stays π r0 (writeEng n off v s) := by
  unfold writeEng
  try dsimp only
  with_reducible repeat' first
    | assumption | apply Stays.ite | apply writeLaneCtrl_stays (hπ.sub (by decide))
    | apply writeBank_stays (hπ.sub (by decide)) | apply plainWrite_stays (hπ.sub (by decide))

theorem writeEngc_stays (hπ : AllFree π 562975724799050) (off : Nat) (v : Word) (hF : Stays π r0 s) :
    Stays π r0 (writeEngc off v s) := by
  unfold writeEngc
  try dsimp only
  with_reducible repeat' first
    | assumption | apply Stays.ite | apply engcCtl_stays (hπ.sub (by decide)) | apply writeVerify_stays (hπ.sub (by decide))
    | apply writeTtype_stays (hπ.sub (by decide)) | apply plainWrite_stays (hπ.sub (by decide))

theorem writeEvr_stays (hπ : AllFree π 1572872) (off : Nat) (v : Word) (hF : Stays π r0 s) :
    Stays π r0 (writeEvr off v s) := by
  unfold writeEvr
  try dsimp only
  with_reducible repeat' first
    | assumption | intro _ | apply Stays.ite | apply forEach_stays | apply occur_stays (hπ.sub (by decide))
    | apply clearLogFull_stays (hπ.sub (by decide)) | apply plainWrite_stays (hπ.sub (by decide))
    | apply goLog_stays (hπ.sub (by decide)) | apply setChan_stays (hπ.sub (by decide))
    | simp only [Stays.mk_log (hπ.sub (by decide))] | split

theorem writePlumb_stays (hπ : AllFree π 295602314) (m : Master) (off : Nat) (v : Word) (hF : Stays π r0 s) :
    Stays π r0 (writePlumb m off v s) := by
  unfold writePlumb
  try dsimp only
  with_reducible repeat' first
    | assumption | apply Stays.ite | apply writeSpoCtl_stays (hπ.sub (by decide))
    | apply writeSoutCtl_stays (hπ.sub (by decide)) | apply writeSadCtl_stays (hπ.sub (by decide))
    | apply writePwData_stays (hπ.sub (by decide)) | apply pwCommand_stays (hπ.sub (by decide))
    | apply plainWrite_stays (hπ.sub (by decide)) | simp only [Stays.mk_fb (hπ.sub (by decide))]
    | split

theorem writeRingPage_stays (hπ : AllFree π 137439477832) (n off : Nat) (v : Word) (hF : Stays π r0 s) :
    Stays π r0 (writeRingPage n off v s) := by
  unfold writeRingPage
  try dsimp only
  with_reducible repeat' first
    | assumption | apply Stays.ite | apply memWrWord_stays (hπ.sub (by decide)) | apply wrf_stays (hπ.sub (by decide))
    | apply writeRing_stays (hπ.sub (by decide))

theorem plainEffect_stays (hπ : AllFree π 2251799813656539) (m : Master) (t : PageType) (n off : Nat) (v : Word) (hF : Stays π r0 s) :
    Stays π r0 (plainEffect m t n off v s) := by
  unfold plainEffect
  try dsimp only
  with_reducible repeat' first
    | assumption | apply Stays.ite | apply writeSys_stays (hπ.sub (by decide)) | apply datumRefresh_stays (hπ.sub (by decide))
    | apply writeClk_stays (hπ.sub (by decide)) | apply writeTherm_stays (hπ.sub (by decide))
    | apply writeValley_stays (hπ.sub (by decide)) | apply islRefresh_stays (hπ.sub (by decide))
    | apply writeDomCtrl_stays (hπ.sub (by decide)) | apply writeDarm_stays (hπ.sub (by decide))
    | apply writeLegCfg_stays (hπ.sub (by decide)) | apply plainWrite_stays (hπ.sub (by decide))
    | apply writeTrip_stays (hπ.sub (by decide)) | apply writeCmp_stays (hπ.sub (by decide))
    | apply writeEng_stays (hπ.sub (by decide)) | apply writeEngc_stays (hπ.sub (by decide))
    | apply writeSnd_stays (hπ.sub (by decide)) | apply gridCtl_stays (hπ.sub (by decide))
    | apply writeGrid_stays (hπ.sub (by decide)) | apply writeIsl_stays (hπ.sub (by decide))
    | apply writeMppt_stays (hπ.sub (by decide)) | apply writeReg_stays (hπ.sub (by decide))
    | apply writeMtr_stays (hπ.sub (by decide)) | apply writeRingPage_stays (hπ.sub (by decide))
    | apply writeDatum_stays (hπ.sub (by decide)) | apply writePlumb_stays (hπ.sub (by decide))
    | apply writePch_stays (hπ.sub (by decide)) | apply writePairCtl_stays (hπ.sub (by decide))
    | apply writeEvr_stays (hπ.sub (by decide)) | apply kickWdt_stays (hπ.sub (by decide))
    | apply writePmc_stays (hπ.sub (by decide)) | apply writeUpd_stays (hπ.sub (by decide))
    | apply writeGpio_stays (hπ.sub (by decide)) | apply writeI2cCmd_stays (hπ.sub (by decide))
    | apply writeSpi_stays (hπ.sub (by decide)) | apply writeUart_stays (hπ.sub (by decide))
    | apply writeEth_stays (hπ.sub (by decide)) | split

theorem guarded_stays (hπ : AllFree π 2251799813656539) (m : Master) (t : PageType) (n off : Nat) (v : Word) (hF : Stays π r0 s) :
    Stays π r0 (guarded m t n off v s) := by
  unfold guarded
  try dsimp only
  with_reducible repeat' first
    | assumption | apply Stays.ite | apply plainEffect_stays (hπ.sub (by decide))
    | apply handPlumb_stays (hπ.sub (by decide)) | apply guardedWrite_stays (hπ.sub (by decide))
    | split

theorem pageWrite_stays (hπ : AllFree π 2251799813656539) (m : Master) (t : PageType) (n off : Nat) (v : Word) (hF : Stays π r0 s) :
    Stays π r0 (pageWrite m t n off v s) := by
  unfold pageWrite
  try dsimp only
  with_reducible repeat' first
    | assumption | intro _ | apply Stays.ite | apply flushOuts_stays (hπ.sub (by decide))
    | apply onPlumb_stays (hπ.sub (by decide)) | apply guarded_stays (hπ.sub (by decide))
    | apply writeHeader_stays (hπ.sub (by decide)) | apply swStart_stays (hπ.sub (by decide))
    | apply shadowWrite_stays (hπ.sub (by decide)) | apply plainEffect_stays (hπ.sub (by decide))
    | split

theorem waitedWrite_stays (hπ : AllFree π 2251799813656539) (h : Handed) (hF : Stays π r0 s) :
    Stays π r0 (waitedWrite h s) := by
  unfold waitedWrite
  try dsimp only
  with_reducible repeat' first
    | assumption | apply Stays.ite | apply writeHeader_stays (hπ.sub (by decide))
    | apply plainEffect_stays (hπ.sub (by decide)) | split

theorem releaseWaiting_stays (hπ : AllFree π 2251799813656539) (kept hs : List Handed) (hF : Stays π r0 s) :
    Stays π r0 (releaseWaiting kept hs s) := by
  induction hs generalizing kept s with
  | nil => exact onPlumb_stays (hπ.sub (by decide)) _ hF
  | cons h hs ih =>
    unfold releaseWaiting
    exact Stays.ite (ih _ hF) (ih _ (waitedWrite_stays (hπ.sub (by decide)) h hF))

theorem plumbApply_stays (hπ : AllFree π 2251799813660635)  (hF : Stays π r0 s) :
    Stays π r0 (plumbApply s) := by
  unfold plumbApply
  try dsimp only
  with_reducible repeat' first
    | assumption | intro _ | apply Stays.ite | apply releaseWaiting_stays (hπ.sub (by decide))
    | apply applyHanded_stays (hπ.sub (by decide)) | refine Stays.of_snd (by assumption) ?_
    | refine Stays.of_fst (by assumption) ?_ | simp only [id_eq] | split | dsimp only

theorem execPlumbWriteApplied_stays (hπ : AllFree π 2251799813660635)  (hF : Stays π r0 s) :
    ∃ s1, execPlumbWriteApplied s = .next s1 ∧ Stays π r0 s1 := by
  refine ⟨_, rfl, ?_⟩
  try dsimp only
  with_reducible repeat' first
    | assumption | apply plumbApply_stays (hπ.sub (by decide))

theorem regWrite_stays (hπ : AllFree π 2251799813656539) (m : Master) (a : Nat) (v : Word) (hF : Stays π r0 s) :
    Stays π r0 (regWrite m a v s) := by
  unfold regWrite
  try dsimp only
  with_reducible repeat' first
    | assumption | intro _ | apply busCycle_stays (hπ.sub (by decide)) | apply atPage_stays (hπ.sub (by decide))
    | apply pageWrite_stays (hπ.sub (by decide)) | split

theorem regRead_stays (hπ : AllFree π 1196831306154091) (m : Master) (a : Nat) (hF : Stays π r0 s) :
    Stays π r0 (regRead m a s) := by
  unfold regRead
  try dsimp only
  with_reducible repeat' first
    | assumption | apply Stays.ite | apply busCycle_stays (hπ.sub (by decide)) | apply respond_stays (hπ.sub (by decide))
    | apply pageRead_stays (hπ.sub (by decide)) | apply flushOuts_stays (hπ.sub (by decide))
    | split

theorem busWrite_stays (hπ : AllFree π 2251799813656571) (m : Master) (req : Option Nat) (a : Nat) (bytes : List Byte) (hF : Stays π r0 s) :
    Stays π r0 (busWrite m req a bytes s) := by
  unfold busWrite
  try dsimp only
  with_reducible repeat' first
    | assumption | apply Stays.ite | apply pmcAccess_stays (hπ.sub (by decide)) | apply busError_stays (hπ.sub (by decide))
    | apply regWrite_stays (hπ.sub (by decide)) | apply nvBusWrite_stays (hπ.sub (by decide))
    | apply busCycle_stays (hπ.sub (by decide)) | apply sramWrite_stays (hπ.sub (by decide))
    | apply engBusWrite_stays (hπ.sub (by decide)) | split

theorem execShadowWrite_stays (hπ : AllFree π 2251799813656571) (m : Master) (a : Nat) (v : Word) (hF : Stays π r0 s) :
    ∃ s1, execShadowWrite m a v s = .next s1 ∧ Stays π r0 s1 := by
  refine ⟨_, rfl, ?_⟩
  try dsimp only
  with_reducible repeat' first
    | assumption | apply busWrite_stays (hπ.sub (by decide))

theorem commitAt_stays (hπ : AllFree π 2251799813656571) (m : Master) (page : BitVec 12) (v : Word) (hF : Stays π r0 s) :
    Stays π r0 (commitAt m page v s) := by
  unfold commitAt
  try dsimp only
  with_reducible repeat' first
    | assumption | apply busWrite_stays (hπ.sub (by decide))

theorem execArm_stays (hπ : AllFree π 2251799813656571) (m : Master) (page : BitVec 12) (groups : Byte) (hF : Stays π r0 s) :
    ∃ s1, execArm m page groups s = .next s1 ∧ Stays π r0 s1 := by
  refine ⟨_, rfl, ?_⟩
  try dsimp only
  with_reducible repeat' first
    | assumption | apply commitAt_stays (hπ.sub (by decide))

theorem execDiscard_stays (hπ : AllFree π 2251799813656571) (m : Master) (page : BitVec 12) (groups : Byte) (hF : Stays π r0 s) :
    ∃ s1, execDiscard m page groups s = .next s1 ∧ Stays π r0 s1 := by
  refine ⟨_, rfl, ?_⟩
  try dsimp only
  with_reducible repeat' first
    | assumption | apply commitAt_stays (hπ.sub (by decide))

theorem execRwlWrite_stays (hπ : AllFree π 2251799813656571) (m : Master) (a : Nat) (v : Word) (hF : Stays π r0 s) :
    ∃ s1, execRwlWrite m a v s = .next s1 ∧ Stays π r0 s1 := by
  refine ⟨_, rfl, ?_⟩
  try dsimp only
  with_reducible repeat' first
    | assumption | apply busWrite_stays (hπ.sub (by decide))

theorem execRegisterWrite_stays (hπ : AllFree π 2251799813656571) (m : Master) (a : Nat) (bytes : List Byte) (hF : Stays π r0 s) :
    ∃ s1, execRegisterWrite m a bytes s = .next s1 ∧ Stays π r0 s1 := by
  refine ⟨_, rfl, ?_⟩
  try dsimp only
  with_reducible repeat' first
    | assumption | apply busWrite_stays (hπ.sub (by decide))

end Sys2Proof.Machine
end

