-- ==== Sys2Proof/Laws/StayCmdPorts.lean ====
section
/-! SUPPORT. What the operations of Machine/CmdPorts.lean leave alone (Laws/Stays.lean). -/

set_option linter.unusedTactic false
set_option linter.unreachableTactic false
set_option linter.unusedVariables false

namespace Sys2Proof.Machine

variable {α : Type} {π : State → α} {r0 s : State}

theorem onPorts_stays (hπ : AllFree π 8796093022208) (f : CmdPorts → CmdPorts) (hF : Stays π r0 s) :
    Stays π r0 (onPorts f s) := by
  unfold onPorts
  try dsimp only
  with_reducible repeat' first
    | assumption | simp only [Stays.mk_cmdPorts (hπ.sub (by decide))]

theorem avsApply_stays (hπ : AllFree π 13194140057608) (r : Nat) (w : AvsWrite) (hF : Stays π r0 s) :
    Stays π r0 (avsApply r w s) := by
  unfold avsApply
  try dsimp only
  with_reducible repeat' first
    | assumption | intro _ | apply Stays.ite | apply railCommand_stays (hπ.sub (by decide))
    | apply onRail_stays (hπ.sub (by decide)) | apply raiseReg_stays (hπ.sub (by decide))
    | apply incHeld_stays (hπ.sub (by decide)) | apply wr_stays (hπ.sub (by decide)) | split

theorem avsWrite_stays (hπ : AllFree π 13194140057608) (f : AvsFrame) (commit : Bool) (w : AvsWrite) (hF : Stays π r0 s) :
    Stays π r0 (avsWrite f commit w s) := by
  unfold avsWrite
  try dsimp only
  with_reducible repeat' first
    | assumption | intro _ | apply Stays.ite | apply onPorts_stays (hπ.sub (by decide))
    | apply forEach_stays | apply avsApply_stays (hπ.sub (by decide)) | apply setRail_stays (hπ.sub (by decide))

theorem avsRead_stays (hπ : AllFree π 8796093022208) (f : AvsFrame) (get : State → Nat → Nat) (hF : Stays π r0 s) :
    Stays π r0 (avsRead f get s) := by
  unfold avsRead
  try dsimp only
  with_reducible repeat' first
    | assumption | intro _ | apply Stays.ite | apply onPorts_stays (hπ.sub (by decide))
    | split

theorem execAvsVoltageWrite_stays (hπ : AllFree π 13194140057608) (f : AvsFrame) (commit : Bool) (mv : BitVec 16) (hF : Stays π r0 s) :
    ∃ s1, execAvsVoltageWrite f commit mv s = .next s1 ∧ Stays π r0 s1 := by
  refine ⟨_, rfl, ?_⟩
  try dsimp only
  with_reducible repeat' first
    | assumption | apply avsWrite_stays (hπ.sub (by decide))

theorem execAvsVoltageRead_stays (hπ : AllFree π 8796093022208) (f : AvsFrame) (hF : Stays π r0 s) :
    ∃ s1, execAvsVoltageRead f s = .next s1 ∧ Stays π r0 s1 := by
  refine ⟨_, rfl, ?_⟩
  try dsimp only
  with_reducible repeat' first
    | assumption | intro _ | apply avsRead_stays (hπ.sub (by decide))

theorem execAvsTransrateWrite_stays (hπ : AllFree π 13194140057608) (f : AvsFrame) (commit : Bool) (up dn : BitVec 8) (hF : Stays π r0 s) :
    ∃ s1, execAvsTransrateWrite f commit up dn s = .next s1 ∧ Stays π r0 s1 := by
  refine ⟨_, rfl, ?_⟩
  try dsimp only
  with_reducible repeat' first
    | assumption | apply avsWrite_stays (hπ.sub (by decide))

theorem execAvsTransrateRead_stays (hπ : AllFree π 8796093022208) (f : AvsFrame) (hF : Stays π r0 s) :
    ∃ s1, execAvsTransrateRead f s = .next s1 ∧ Stays π r0 s1 := by
  refine ⟨_, rfl, ?_⟩
  try dsimp only
  with_reducible repeat' first
    | assumption | intro _ | apply avsRead_stays (hπ.sub (by decide))

theorem execAvsCurrentRead_stays (hπ : AllFree π 8796093022208) (f : AvsFrame) (hF : Stays π r0 s) :
    ∃ s1, execAvsCurrentRead f s = .next s1 ∧ Stays π r0 s1 := by
  refine ⟨_, rfl, ?_⟩
  try dsimp only
  with_reducible repeat' first
    | assumption | intro _ | apply avsRead_stays (hπ.sub (by decide))

theorem execAvsTemperatureRead_stays (hπ : AllFree π 8796093022208) (f : AvsFrame) (hF : Stays π r0 s) :
    ∃ s1, execAvsTemperatureRead f s = .next s1 ∧ Stays π r0 s1 := by
  refine ⟨_, rfl, ?_⟩
  try dsimp only
  with_reducible repeat' first
    | assumption | intro _ | apply avsRead_stays (hπ.sub (by decide))

theorem execAvsResetVoltage_stays (hπ : AllFree π 13194140057608) (f : AvsFrame) (commit : Bool) (hF : Stays π r0 s) :
    ∃ s1, execAvsResetVoltage f commit s = .next s1 ∧ Stays π r0 s1 := by
  refine ⟨_, rfl, ?_⟩
  try dsimp only
  with_reducible repeat' first
    | assumption | apply avsWrite_stays (hπ.sub (by decide))

theorem execAvsStatusWrite_stays (hπ : AllFree π 13194140057608) (f : AvsFrame) (commit : Bool) (hF : Stays π r0 s) :
    ∃ s1, execAvsStatusWrite f commit s = .next s1 ∧ Stays π r0 s1 := by
  refine ⟨_, rfl, ?_⟩
  try dsimp only
  with_reducible repeat' first
    | assumption | apply avsWrite_stays (hπ.sub (by decide))

theorem execAvsStatusRead_stays (hπ : AllFree π 8796093022208) (f : AvsFrame) (hF : Stays π r0 s) :
    ∃ s1, execAvsStatusRead f s = .next s1 ∧ Stays π r0 s1 := by
  refine ⟨_, rfl, ?_⟩
  try dsimp only
  with_reducible repeat' first
    | assumption | intro _ | apply Stays.ite | apply avsRead_stays (hπ.sub (by decide))

theorem execAvsInvalidCommand_stays (hπ : AllFree π 8796093022208) (f : AvsFrame) (hF : Stays π r0 s) :
    ∃ s1, execAvsInvalidCommand f s = .next s1 ∧ Stays π r0 s1 := by
  refine ⟨_, rfl, ?_⟩
  try dsimp only
  with_reducible repeat' first
    | assumption | intro _ | apply Stays.ite | apply onPorts_stays (hπ.sub (by decide))

theorem pmbAnswer_stays (hπ : AllFree π 8796093022208) (ack : Bool) (data : Nat) (hF : Stays π r0 s) :
    Stays π r0 (pmbAnswer ack data s) := by
  unfold pmbAnswer
  try dsimp only
  with_reducible repeat' first
    | assumption | intro _ | apply onPorts_stays (hπ.sub (by decide))

theorem pmbWrite_stays (hπ : AllFree π 8796093022208) (addr : BitVec 7) (bad : Bool) (act : State → State) (hF_act : ∀ s, Stays π r0 s → Stays π r0 (act s)) (hF : Stays π r0 s) :
    Stays π r0 (pmbWrite addr bad act s) := by
  unfold pmbWrite
  try dsimp only
  with_reducible repeat' first
    | assumption | apply Stays.ite | apply pmbAnswer_stays (hπ.sub (by decide)) | apply hF_act
    | split

theorem pmbRead_stays (hπ : AllFree π 8796093022208) (addr : BitVec 7) (f : State → Nat → Nat) (hF : Stays π r0 s) :
    Stays π r0 (pmbRead addr f s) := by
  unfold pmbRead
  try dsimp only
  with_reducible repeat' first
    | assumption | apply Stays.ite | apply pmbAnswer_stays (hπ.sub (by decide))

theorem execPage_stays (hπ : AllFree π 8796093022208) (addr : BitVec 7) (badPec : Bool) (v : Byte) (hF : Stays π r0 s) :
    ∃ s1, execPage addr badPec v s = .next s1 ∧ Stays π r0 s1 := by
  refine ⟨_, rfl, ?_⟩
  try dsimp only
  with_reducible repeat' first
    | assumption | intro _ | apply pmbWrite_stays (hπ.sub (by decide)) | apply onPorts_stays (hπ.sub (by decide))
    | split

theorem execOperation_stays (hπ : AllFree π 30786671083530) (addr : BitVec 7) (badPec : Bool) (v : Byte) (hF : Stays π r0 s) :
    ∃ s1, execOperation addr badPec v s = .next s1 ∧ Stays π r0 s1 := by
  refine ⟨_, rfl, ?_⟩
  try dsimp only
  with_reducible repeat' first
    | assumption | intro _ | apply Stays.ite | apply pmbWrite_stays (hπ.sub (by decide))
    | apply railEnable_stays (hπ.sub (by decide)) | apply railDisable_stays (hπ.sub (by decide))
    | split

theorem execClearFaults_stays (hπ : AllFree π 8796093546504) (addr : BitVec 7) (badPec : Bool) (hF : Stays π r0 s) :
    ∃ s1, execClearFaults addr badPec s = .next s1 ∧ Stays π r0 s1 := by
  refine ⟨_, rfl, ?_⟩
  try dsimp only
  with_reducible repeat' first
    | assumption | intro _ | apply pmbWrite_stays (hπ.sub (by decide)) | apply onPorts_stays (hπ.sub (by decide))
    | apply clearCauses_stays (hπ.sub (by decide))

theorem execVoutMode_stays (hπ : AllFree π 8796093022208) (addr : BitVec 7) (hF : Stays π r0 s) :
    ∃ s1, execVoutMode addr s = .next s1 ∧ Stays π r0 s1 := by
  refine ⟨_, rfl, ?_⟩
  try dsimp only
  with_reducible repeat' first
    | assumption | intro _ | apply pmbRead_stays (hπ.sub (by decide))

theorem execVoutCommand_stays (hπ : AllFree π 13194140057608) (addr : BitVec 7) (badPec : Bool) (v : BitVec 16) (hF : Stays π r0 s) :
    ∃ s1, execVoutCommand addr badPec v s = .next s1 ∧ Stays π r0 s1 := by
  refine ⟨_, rfl, ?_⟩
  try dsimp only
  with_reducible repeat' first
    | assumption | intro _ | apply pmbWrite_stays (hπ.sub (by decide)) | apply railCommand_stays (hπ.sub (by decide))

theorem execStatusWord_stays (hπ : AllFree π 8796093022208) (addr : BitVec 7) (hF : Stays π r0 s) :
    ∃ s1, execStatusWord addr s = .next s1 ∧ Stays π r0 s1 := by
  refine ⟨_, rfl, ?_⟩
  try dsimp only
  with_reducible repeat' first
    | assumption | intro _ | apply Stays.ite | apply pmbRead_stays (hπ.sub (by decide))
    | split

theorem execReadVout_stays (hπ : AllFree π 8796093022208) (addr : BitVec 7) (hF : Stays π r0 s) :
    ∃ s1, execReadVout addr s = .next s1 ∧ Stays π r0 s1 := by
  refine ⟨_, rfl, ?_⟩
  try dsimp only
  with_reducible repeat' first
    | assumption | intro _ | apply pmbRead_stays (hπ.sub (by decide))

theorem execReadIout_stays (hπ : AllFree π 8796093022208) (addr : BitVec 7) (hF : Stays π r0 s) :
    ∃ s1, execReadIout addr s = .next s1 ∧ Stays π r0 s1 := by
  refine ⟨_, rfl, ?_⟩
  try dsimp only
  with_reducible repeat' first
    | assumption | intro _ | apply pmbRead_stays (hπ.sub (by decide))

theorem execPmbusRevision_stays (hπ : AllFree π 8796093022208) (addr : BitVec 7) (hF : Stays π r0 s) :
    ∃ s1, execPmbusRevision addr s = .next s1 ∧ Stays π r0 s1 := by
  refine ⟨_, rfl, ?_⟩
  try dsimp only
  with_reducible repeat' first
    | assumption | intro _ | apply pmbRead_stays (hπ.sub (by decide))

theorem execPmbusUnsupported_stays (hπ : AllFree π 8796093022208) (_addr : BitVec 7) (_code : Byte) (hF : Stays π r0 s) :
    ∃ s1, execPmbusUnsupported _addr _code s = .next s1 ∧ Stays π r0 s1 := by
  refine ⟨_, rfl, ?_⟩
  try dsimp only
  with_reducible repeat' first
    | assumption | apply pmbAnswer_stays (hπ.sub (by decide))

theorem execAlertResponse_stays (hπ : AllFree π 8796093022208)  (hF : Stays π r0 s) :
    ∃ s1, execAlertResponse s = .next s1 ∧ Stays π r0 s1 := by
  refine ⟨_, rfl, ?_⟩
  try dsimp only
  with_reducible repeat' first
    | assumption | intro _ | apply Stays.ite | apply onPorts_stays (hπ.sub (by decide))
    | apply pmbAnswer_stays (hπ.sub (by decide))

end Sys2Proof.Machine
end

