-- ==== Sys2Proof/Laws/StayHarts.lean ====
section
/-! SUPPORT. What the operations of Machine/Harts.lean leave alone (Laws/Stays.lean). -/

set_option linter.unusedTactic false
set_option linter.unreachableTactic false
set_option linter.unusedVariables false

namespace Sys2Proof.Machine

variable {α : Type} {π : State → α} {r0 s : State}

theorem onDbg_stays (hπ : AllFree π 281474976710656) (f : Dbg → Dbg) (hF : Stays π r0 s) :
    Stays π r0 (onDbg f s) := by
  unfold onDbg
  try dsimp only
  with_reducible repeat' first
    | assumption | simp only [Stays.mk_dbg (hπ.sub (by decide))]

theorem dmResult_stays (hπ : AllFree π 281474976710688) (v : DWord) (hF : Stays π r0 s) :
    Stays π r0 (dmResult v s) := by
  unfold dmResult
  try dsimp only
  with_reducible repeat' first
    | assumption | intro _ | apply respond_stays (hπ.sub (by decide)) | apply onDbg_stays (hπ.sub (by decide))

theorem drawDWord_stays (hπ : AllFree π 2)  (hF : Stays π r0 s) :
    Stays π r0 (drawDWord s).2 := by
  unfold drawDWord
  try dsimp only
  with_reducible repeat' first
    | assumption | apply draw_stays (hπ.sub (by decide)) | refine Stays.of_snd (by assumption) ?_
    | split | dsimp only

theorem hartRaw_stays (hπ : AllFree π 70368744177666) (h regno : Nat) (hF : Stays π r0 s) :
    Stays π r0 (hartRaw h regno s).2 := by
  unfold hartRaw
  try dsimp only
  with_reducible repeat' first
    | assumption | intro _ | apply drawDWord_stays (hπ.sub (by decide)) | apply onHart_stays (hπ.sub (by decide))
    | refine Stays.of_snd (by assumption) ?_ | split | dsimp only

theorem setRaw_stays (hπ : AllFree π 70368744177664) (h regno : Nat) (v : DWord) (hF : Stays π r0 s) :
    Stays π r0 (setRaw h regno v s) := by
  unfold setRaw
  try dsimp only
  with_reducible repeat' first
    | assumption | intro _ | apply onHart_stays (hπ.sub (by decide))

theorem readMip_stays (hπ : AllFree π 70368744177666) (h : Nat) (hF : Stays π r0 s) :
    Stays π r0 (readMip h s).2 := by
  unfold readMip
  try dsimp only
  with_reducible repeat' first
    | assumption | intro _ | apply Stays.ite | apply hartRaw_stays (hπ.sub (by decide))
    | refine Stays.of_snd (by assumption) ?_ | split | dsimp only

theorem readSip_stays (hπ : AllFree π 70368744177666) (h : Nat) (hF : Stays π r0 s) :
    Stays π r0 (readSip h s).2 := by
  unfold readSip
  try dsimp only
  with_reducible repeat' first
    | assumption | intro _ | apply Stays.ite | apply readMip_stays (hπ.sub (by decide))
    | apply hartRaw_stays (hπ.sub (by decide)) | refine Stays.of_snd (by assumption) ?_
    | split | dsimp only

theorem writeMip_stays (hπ : AllFree π 70368744177666) (h : Nat) (ks : List Nat) (v : DWord) (hF : Stays π r0 s) :
    Stays π r0 (writeMip h ks v s) := by
  unfold writeMip
  try dsimp only
  with_reducible repeat' first
    | assumption | intro _ | apply Stays.ite | apply hartRaw_stays (hπ.sub (by decide))
    | apply setRaw_stays (hπ.sub (by decide)) | apply onHart_stays (hπ.sub (by decide))
    | refine Stays.of_snd (by assumption) ?_ | split | dsimp only

theorem writeSip_stays (hπ : AllFree π 70368744177666) (h : Nat) (v : DWord) (hF : Stays π r0 s) :
    Stays π r0 (writeSip h v s) := by
  unfold writeSip
  try dsimp only
  with_reducible repeat' first
    | assumption | apply hartRaw_stays (hπ.sub (by decide)) | apply writeMip_stays (hπ.sub (by decide))
    | refine Stays.of_snd (by assumption) ?_ | split | dsimp only

theorem pmpCfg_stays (hπ : AllFree π 70368744177666) (h i : Nat) (hF : Stays π r0 s) :
    Stays π r0 (pmpCfg h i s).2 := by
  unfold pmpCfg
  try dsimp only
  with_reducible repeat' first
    | assumption | apply Stays.ite | apply hartRaw_stays (hπ.sub (by decide)) | refine Stays.of_snd (by assumption) ?_
    | split | dsimp only

theorem readPmpCfg_stays (hπ : AllFree π 70368744177666) (h i : Nat) (hF : Stays π r0 s) : Stays π r0 (readPmpCfg h i s).2 := by
  unfold readPmpCfg
  suffices H : ∀ (l : List Nat) (p : Nat × State), Stays π r0 p.2 → Stays π r0 (l.foldl (fun (r : Nat × State) j =>
      let (c, s) := pmpCfg h (i + j) r.2
      (r.1 + c * 256 ^ j, s)) p).2 from H _ _ hF
  intro l
  induction l with
  | nil => exact fun p hp => hp
  | cons j l ih => exact fun p hp => ih _ (pmpCfg_stays (hπ.sub (by decide)) _ _ hp)

theorem writePmpCfg_stays (hπ : AllFree π 70368744177666) (h i : Nat) (v : DWord) (hF : Stays π r0 s) :
    Stays π r0 (writePmpCfg h i v s) := by
  unfold writePmpCfg
  try dsimp only
  with_reducible repeat' first
    | assumption | intro _ | apply Stays.ite | apply forEach_stays | apply pmpCfg_stays (hπ.sub (by decide))
    | apply setRaw_stays (hπ.sub (by decide)) | refine Stays.of_snd (by assumption) ?_
    | split | dsimp only

theorem readPmpAddr_stays (hπ : AllFree π 70368744177666) (h i : Nat) (hF : Stays π r0 s) :
    Stays π r0 (readPmpAddr h i s).2 := by
  unfold readPmpAddr
  try dsimp only
  with_reducible repeat' first
    | assumption | apply Stays.ite | apply pmpCfg_stays (hπ.sub (by decide)) | apply hartRaw_stays (hπ.sub (by decide))
    | refine Stays.of_snd (by assumption) ?_ | split | dsimp only

theorem writePmpAddr_stays (hπ : AllFree π 70368744177666) (h i : Nat) (v : DWord) (hF : Stays π r0 s) :
    Stays π r0 (writePmpAddr h i v s) := by
  unfold writePmpAddr
  try dsimp only
  with_reducible repeat' first
    | assumption | apply Stays.ite | apply pmpCfg_stays (hπ.sub (by decide)) | apply setRaw_stays (hπ.sub (by decide))
    | refine Stays.of_snd (by assumption) ?_ | split | dsimp only

theorem hartReg_stays (hπ : AllFree π 70368744177666) {h regno v : Nat} {t : State} (e : hartReg h regno s = some (v, t)) (hF : Stays π r0 s) :
    Stays π r0 t := by
  unfold hartReg at e
  split at e <;> with_reducible first
    | exact Stays.of_snd (Option.some.inj e) (readMip_stays (hπ.sub (by decide)) _ hF)
    | exact Stays.of_snd (Option.some.inj e) (readSip_stays (hπ.sub (by decide)) _ hF)
    | exact Stays.of_snd (Option.some.inj e) (readPmpCfg_stays (hπ.sub (by decide)) _ _ hF)
    | exact Stays.of_snd (Option.some.inj e) hF
    | (split_ifs at e <;> first
        | exact Stays.of_snd (Option.some.inj e) (ctrValue_stays (hπ.sub (by decide)) _ hF)
        | exact Stays.of_snd (Option.some.inj e) (readPmpAddr_stays (hπ.sub (by decide)) _ _ hF)
        | exact Stays.of_snd (Option.some.inj e) hF
        | exact absurd e (by simp))

theorem readHart_stays (hπ : AllFree π 351843720888354) (h regno : Nat) (hF : Stays π r0 s) : Stays π r0 (readHart h regno s) := by
  unfold readHart
  split
  · exact dmResult_stays (hπ.sub (by decide)) _ (hartReg_stays (hπ.sub (by decide)) ‹_› hF)
  · exact dmResult_stays (hπ.sub (by decide)) _ (hartRaw_stays (hπ.sub (by decide)) _ _ hF)

theorem writeHart_stays (hπ : AllFree π 70368744177698) (h regno : Nat) (v : DWord) (hF : Stays π r0 s) :
    Stays π r0 (writeHart h regno v s) := by
  unfold writeHart
  try dsimp only
  with_reducible repeat' first
    | assumption | intro _ | apply Stays.ite | apply respond_stays (hπ.sub (by decide))
    | apply onHart_stays (hπ.sub (by decide)) | apply writeMip_stays (hπ.sub (by decide))
    | apply writeSip_stays (hπ.sub (by decide)) | apply writePmpCfg_stays (hπ.sub (by decide))
    | apply writePmpAddr_stays (hπ.sub (by decide)) | apply setRaw_stays (hπ.sub (by decide))
    | split

end Sys2Proof.Machine
end

