-- ==== Sys2Proof/Laws/StayDebug.lean ====
section
/-! SUPPORT. What the operations of Machine/Debug.lean leave alone (Laws/Stays.lean). -/

set_option linter.unusedTactic false
set_option linter.unreachableTactic false
set_option linter.unusedVariables false

namespace Sys2Proof.Machine

variable {α : Type} {π : State → α} {r0 s : State}

theorem dmDenied_stays (hπ : AllFree π 281474978283562)  (hF : Stays π r0 s) :
    Stays π r0 (dmDenied s) := by
  unfold dmDenied
  try dsimp only
  with_reducible repeat' first
    | assumption | intro _ | apply Stays.ite | apply respond_stays (hπ.sub (by decide))
    | apply logHap_stays (hπ.sub (by decide)) | apply raiseDbg_stays (hπ.sub (by decide))
    | apply onDbg_stays (hπ.sub (by decide)) | split

theorem drawBits_stays (hπ : AllFree π 2) (n : Nat) (hF : Stays π r0 s) : Stays π r0 (drawBits n s).2 := by
  induction n generalizing s with
  | zero => exact hF
  | succ n ih => exact ih (draw_stays (hπ.sub (by decide)) hF)

theorem selectIr_stays (hπ : AllFree π 281474976710656) (code : Nat) (hF : Stays π r0 s) :
    Stays π r0 (selectIr code s) := by
  unfold selectIr
  try dsimp only
  with_reducible repeat' first
    | assumption | intro _ | apply onDbg_stays (hπ.sub (by decide))

theorem scanBoundary_stays (hπ : AllFree π 281474976710658) (cells : List Bool) (hF : Stays π r0 s) :
    Stays π r0 (scanBoundary cells s) := by
  unfold scanBoundary
  try dsimp only
  with_reducible repeat' first
    | assumption | intro _ | apply drawBits_stays (hπ.sub (by decide)) | apply onDbg_stays (hπ.sub (by decide))
    | refine Stays.of_snd (by assumption) ?_ | split | dsimp only

theorem setDmactive_stays (hπ : AllFree π 281474976710784) (on : Bool) (hF : Stays π r0 s) :
    Stays π r0 (setDmactive on s) := by
  unfold setDmactive
  try dsimp only
  with_reducible repeat' first
    | assumption | intro _ | apply Stays.ite | apply nextMove_stays (hπ.sub (by decide))
    | apply onDbg_stays (hπ.sub (by decide))

theorem debugReset_stays (hπ : AllFree π 2251799813656282)  (hF : Stays π r0 s) :
    Stays π r0 (debugReset s) := by
  unfold debugReset
  try dsimp only
  with_reducible repeat' first
    | assumption | apply Stays.ite | apply systemReset_stays (hπ.sub (by decide))

theorem dmReg_stays (hπ : AllFree π 281474976710658) (a : Nat) (hF : Stays π r0 s) :
    Stays π r0 (dmReg a s).2 := by
  unfold dmReg
  try dsimp only
  with_reducible repeat' first
    | assumption | intro _ | apply draw_stays (hπ.sub (by decide)) | apply onDbg_stays (hπ.sub (by decide))
    | refine Stays.of_snd (by assumption) ?_ | split | dsimp only

theorem busRead_stays (hπ : AllFree π 1337568794509419) (m : Master) (a : Nat) (hF : Stays π r0 s) :
    Stays π r0 (busRead m a s) := by
  unfold busRead
  try dsimp only
  with_reducible repeat' first
    | assumption | intro _ | apply Stays.ite | apply busError_stays (hπ.sub (by decide))
    | apply regRead_stays (hπ.sub (by decide)) | apply respond_stays (hπ.sub (by decide))
    | apply nvRead_stays (hπ.sub (by decide)) | apply sramCheck_stays (hπ.sub (by decide))

theorem setDm_stays (hπ : AllFree π 281474976710656) (a : Nat) (v : Word) (hF : Stays π r0 s) :
    Stays π r0 (setDm a v s) := by
  unfold setDm
  try dsimp only
  with_reducible repeat' first
    | assumption | intro _ | apply onDbg_stays (hπ.sub (by decide))

theorem dmStatus_stays (hπ : AllFree π 2)  (hF : Stays π r0 s) :
    Stays π r0 (dmStatus s).2 := by
  unfold dmStatus
  try dsimp only
  with_reducible repeat' first
    | assumption | intro _ | apply Stays.ite | apply draw_stays (hπ.sub (by decide))
    | refine Stays.of_snd (by assumption) ?_ | split | dsimp only

theorem writeDmcontrol_stays (hπ : AllFree π 2251799813656282) (v : Word) (hF : Stays π r0 s) :
    Stays π r0 (writeDmcontrol v s) := by
  unfold writeDmcontrol
  try dsimp only
  with_reducible repeat' first
    | assumption | intro _ | apply Stays.ite | apply setDmactive_stays (hπ.sub (by decide))
    | apply debugReset_stays (hπ.sub (by decide)) | apply setDm_stays (hπ.sub (by decide))
    | apply forEach_stays | apply onHart_stays (hπ.sub (by decide)) | apply haltGroup_stays (hπ.sub (by decide))
    | apply resumeHart_stays (hπ.sub (by decide)) | apply onDbg_stays (hπ.sub (by decide))

theorem setCmdErr_stays (hπ : AllFree π 281474976710656) (e : Nat) (hF : Stays π r0 s) :
    Stays π r0 (setCmdErr e s) := by
  unfold setCmdErr
  try dsimp only
  with_reducible repeat' first
    | assumption | apply setDm_stays (hπ.sub (by decide))

theorem dmData_stays (hπ : AllFree π 281474976710658) (a : Nat) (hF : Stays π r0 s) :
    Stays π r0 (dmData a s).2 := by
  unfold dmData
  try dsimp only
  with_reducible repeat' first
    | assumption | apply dmReg_stays (hπ.sub (by decide)) | refine Stays.of_snd (by assumption) ?_
    | split | dsimp only

theorem dmRead_stays (hπ : AllFree π 1337568794509419) (req : Option Nat) (a n : Nat) (hF : Stays π r0 s) :
    Stays π r0 (dmRead req a n s).2 := by
  unfold dmRead
  try dsimp only
  with_reducible repeat' first
    | assumption | apply Stays.ite | apply pmcAccess_stays (hπ.sub (by decide)) | apply busError_stays (hπ.sub (by decide))
    | apply busRead_stays (hπ.sub (by decide)) | split | dsimp only

theorem dmMemory_stays (hπ : AllFree π 2251799813656571) (req : Option Nat) (w : Bool) (a : Nat) (v : Word) (hF : Stays π r0 s) :
    Stays π r0 (dmMemory req w a v s) := by
  unfold dmMemory
  try dsimp only
  with_reducible repeat' first
    | assumption | apply Stays.ite | apply busWrite_stays (hπ.sub (by decide)) | apply dmRead_stays (hπ.sub (by decide))
    | apply dmResult_stays (hπ.sub (by decide)) | refine Stays.of_snd (by assumption) ?_
    | split | dsimp only

theorem cmdRegister_stays (hπ : AllFree π 351843720888354) (v : Word) (hF : Stays π r0 s) :
    Stays π r0 (cmdRegister v s) := by
  unfold cmdRegister
  try dsimp only
  with_reducible repeat' first
    | assumption | intro _ | apply Stays.ite | apply setCmdErr_stays (hπ.sub (by decide))
    | apply dmData_stays (hπ.sub (by decide)) | apply draw_stays (hπ.sub (by decide)) | apply writeHart_stays (hπ.sub (by decide))
    | apply readHart_stays (hπ.sub (by decide)) | apply setDm_stays (hπ.sub (by decide))
    | apply onHart_stays (hπ.sub (by decide)) | refine Stays.of_snd (by assumption) ?_
    | split | dsimp only

theorem cmdMemory_stays (hπ : AllFree π 2251799813656571) (v : Word) (hF : Stays π r0 s) :
    Stays π r0 (cmdMemory v s) := by
  unfold cmdMemory
  try dsimp only
  with_reducible repeat' first
    | assumption | apply Stays.ite | apply setCmdErr_stays (hπ.sub (by decide)) | apply dmData_stays (hπ.sub (by decide))
    | apply busError_stays (hπ.sub (by decide)) | apply busWrite_stays (hπ.sub (by decide))
    | apply dmRead_stays (hπ.sub (by decide)) | apply dmResult_stays (hπ.sub (by decide))
    | apply setDm_stays (hπ.sub (by decide)) | refine Stays.of_snd (by assumption) ?_ | split
    | dsimp only

theorem writeCommand_stays (hπ : AllFree π 2251799813656571) (v : Word) (hF : Stays π r0 s) :
    Stays π r0 (writeCommand v s) := by
  unfold writeCommand
  try dsimp only
  with_reducible repeat' first
    | assumption | apply Stays.ite | apply setDm_stays (hπ.sub (by decide)) | apply cmdRegister_stays (hπ.sub (by decide))
    | apply cmdMemory_stays (hπ.sub (by decide)) | apply setCmdErr_stays (hπ.sub (by decide))
    | split

theorem sbAccess_stays (hπ : AllFree π 2251799813656571) (w : Bool) (hF : Stays π r0 s) :
    Stays π r0 (sbAccess w s) := by
  unfold sbAccess
  try dsimp only
  with_reducible repeat' first
    | assumption | intro _ | apply Stays.ite | apply setDm_stays (hπ.sub (by decide))
    | apply dmData_stays (hπ.sub (by decide)) | apply busWrite_stays (hπ.sub (by decide))
    | apply dmRead_stays (hπ.sub (by decide)) | refine Stays.of_snd (by assumption) ?_
    | split | dsimp only

theorem dmWrite_stays (hπ : AllFree π 2251799813656571) (a : Nat) (v : Word) (hF : Stays π r0 s) :
    Stays π r0 (dmWrite a v s) := by
  unfold dmWrite
  try dsimp only
  with_reducible repeat' first
    | assumption | apply Stays.ite | apply writeDmcontrol_stays (hπ.sub (by decide))
    | apply setDm_stays (hπ.sub (by decide)) | apply setCmdErr_stays (hπ.sub (by decide))
    | apply writeCommand_stays (hπ.sub (by decide)) | apply sbAccess_stays (hπ.sub (by decide))
    | split

theorem dmReadReg_stays (hπ : AllFree π 2251799813656571) (a : Nat) (hF : Stays π r0 s) :
    Stays π r0 (dmReadReg a s).2 := by
  unfold dmReadReg
  try dsimp only
  with_reducible repeat' first
    | assumption | intro _ | apply Stays.ite | apply dmStatus_stays (hπ.sub (by decide))
    | apply draw_stays (hπ.sub (by decide)) | apply dmReg_stays (hπ.sub (by decide)) | apply sbAccess_stays (hπ.sub (by decide))
    | refine Stays.of_snd (by assumption) ?_ | split | dsimp only

theorem dmiAccess_stays (hπ : AllFree π 2251799813656571) (w : Bool) (a : Nat) (v : Word) (hF : Stays π r0 s) :
    Stays π r0 (dmiAccess w a v s) := by
  unfold dmiAccess
  try dsimp only
  with_reducible repeat' first
    | assumption | apply Stays.ite | apply respond_stays (hπ.sub (by decide)) | apply writeDmcontrol_stays (hπ.sub (by decide))
    | apply dmWrite_stays (hπ.sub (by decide)) | apply dmReadReg_stays (hπ.sub (by decide))
    | refine Stays.of_snd (by assumption) ?_ | split | dsimp only

theorem execExtest_stays (hπ : AllFree π 281474976710658) (cells : List Bool) (hF : Stays π r0 s) :
    ∃ s1, execExtest cells s = .next s1 ∧ Stays π r0 s1 := by
  refine ⟨_, rfl, ?_⟩
  try dsimp only
  with_reducible repeat' first
    | assumption | apply selectIr_stays (hπ.sub (by decide)) | apply scanBoundary_stays (hπ.sub (by decide))

theorem execSamplePreload_stays (hπ : AllFree π 281474976710658) (cells : List Bool) (hF : Stays π r0 s) :
    ∃ s1, execSamplePreload cells s = .next s1 ∧ Stays π r0 s1 := by
  refine ⟨_, rfl, ?_⟩
  try dsimp only
  with_reducible repeat' first
    | assumption | apply selectIr_stays (hπ.sub (by decide)) | apply scanBoundary_stays (hπ.sub (by decide))

theorem execIdcode_stays (hπ : AllFree π 281474976710688)  (hF : Stays π r0 s) :
    ∃ s1, execIdcode s = .next s1 ∧ Stays π r0 s1 := by
  refine ⟨_, rfl, ?_⟩
  try dsimp only
  with_reducible repeat' first
    | assumption | apply respond_stays (hπ.sub (by decide)) | apply selectIr_stays (hπ.sub (by decide))

theorem execBypass_stays (hπ : AllFree π 281474976710656) (_code : BitVec 5) (hF : Stays π r0 s) :
    ∃ s1, execBypass _code s = .next s1 ∧ Stays π r0 s1 := by
  refine ⟨_, rfl, ?_⟩
  try dsimp only
  with_reducible repeat' first
    | assumption | apply selectIr_stays (hπ.sub (by decide))

theorem execDtmcs_stays (hπ : AllFree π 281474976710690) (v : Word) (hF : Stays π r0 s) :
    ∃ s1, execDtmcs v s = .next s1 ∧ Stays π r0 s1 := by
  refine ⟨_, rfl, ?_⟩
  try dsimp only
  with_reducible repeat' first
    | assumption | intro _ | apply Stays.ite | apply draw_stays (hπ.sub (by decide))
    | apply selectIr_stays (hπ.sub (by decide)) | apply respond_stays (hπ.sub (by decide))
    | apply onDbg_stays (hπ.sub (by decide)) | refine Stays.of_snd (by assumption) ?_ | split
    | dsimp only

theorem execDmi_stays (hπ : AllFree π 2251799813656571) (w : Bool) (a : BitVec 7) (v : Word) (hF : Stays π r0 s) :
    ∃ s1, execDmi w a v s = .next s1 ∧ Stays π r0 s1 := by
  refine ⟨_, rfl, ?_⟩
  try dsimp only
  with_reducible repeat' first
    | assumption | apply Stays.ite | apply selectIr_stays (hπ.sub (by decide)) | apply dmiAccess_stays (hπ.sub (by decide))
    | apply dmDenied_stays (hπ.sub (by decide))

theorem execDmactive_stays (hπ : AllFree π 281474978283690) (on : Bool) (hF : Stays π r0 s) :
    ∃ s1, execDmactive on s = .next s1 ∧ Stays π r0 s1 := by
  refine ⟨_, rfl, ?_⟩
  try dsimp only
  with_reducible repeat' first
    | assumption | apply Stays.ite | apply setDmactive_stays (hπ.sub (by decide))
    | apply dmDenied_stays (hπ.sub (by decide))

theorem execAccessRegister_stays (hπ : AllFree π 351843722461226) (h : Fin 4) (w : Bool) (regno : BitVec 16) (v : DWord) (hF : Stays π r0 s) :
    ∃ s1, execAccessRegister h w regno v s = .next s1 ∧ Stays π r0 s1 := by
  refine ⟨_, rfl, ?_⟩
  try dsimp only
  with_reducible repeat' first
    | assumption | apply Stays.ite | apply dmDenied_stays (hπ.sub (by decide)) | apply respond_stays (hπ.sub (by decide))
    | apply busError_stays (hπ.sub (by decide)) | apply writeHart_stays (hπ.sub (by decide))
    | apply readHart_stays (hπ.sub (by decide))

theorem execAccessMemory_stays (hπ : AllFree π 2251799813656571) (h : Fin 4) (w : Bool) (a : Nat) (v : Word) (hF : Stays π r0 s) :
    ∃ s1, execAccessMemory h w a v s = .next s1 ∧ Stays π r0 s1 := by
  refine ⟨_, rfl, ?_⟩
  try dsimp only
  with_reducible repeat' first
    | assumption | apply Stays.ite | apply dmDenied_stays (hπ.sub (by decide)) | apply respond_stays (hπ.sub (by decide))
    | apply busError_stays (hπ.sub (by decide)) | apply dmMemory_stays (hπ.sub (by decide))

theorem execSystemBusAccess_stays (hπ : AllFree π 2251799813656571) (w : Bool) (a : Nat) (v : Word) (hF : Stays π r0 s) :
    ∃ s1, execSystemBusAccess w a v s = .next s1 ∧ Stays π r0 s1 := by
  refine ⟨_, rfl, ?_⟩
  try dsimp only
  with_reducible repeat' first
    | assumption | apply Stays.ite | apply dmDenied_stays (hπ.sub (by decide)) | apply respond_stays (hπ.sub (by decide))
    | apply dmMemory_stays (hπ.sub (by decide)) | split

theorem execNdmreset_stays (hπ : AllFree π 2251799813656314)  (hF : Stays π r0 s) :
    ∃ s1, execNdmreset s = .next s1 ∧ Stays π r0 s1 := by
  refine ⟨_, rfl, ?_⟩
  try dsimp only
  with_reducible repeat' first
    | assumption | apply Stays.ite | apply debugReset_stays (hπ.sub (by decide))
    | apply dmDenied_stays (hπ.sub (by decide))

end Sys2Proof.Machine
end

