-- ==== Sys2Proof/WellFormed.lean ====
section
/-! DEFINITION. Which commands can be given: the shapes of the operands that a type alone does not fix. Every command has
its meaning on every operand; an ill-formed one is a command no sender can give. -/

namespace Sys2Proof

/-- A bus access moves 1, 2, 4 or 8 bytes (R514). -/
def accessLen (bytes : List Byte) : Bool :=
  decide (bytes.length = 1 ∨ bytes.length = 2 ∨ bytes.length = 4 ∨ bytes.length = 8)

/-- The register row at a bus address, where the address is that of a word of the register window (R558). -/
def rowAt (a : Nat) : Option Machine.RegRow :=
  if 0x40000000 ≤ a ∧ a < 0x40C10000 ∧ a % 4 = 0 then Machine.regRow (Machine.busKey a) else none

/-- The address of a shadowed register (R8, R16). -/
def shadowReg (a : Nat) : Bool :=
  match rowAt a with
  | some r => r.cls == .rws
  | none => false

/-- The address of a guarded register (R8, R566). -/
def guardedReg (a : Nat) : Bool :=
  match rowAt a with
  | some r => r.cls == .rwl
  | none => false

/-- A page with commit groups, and only groups it has (R18, R560). -/
def pageGroups (page : BitVec 12) (groups : Byte) : Bool :=
  match Machine.pageOf page.toNat with
  | some (t, _) => (List.range 8).all (fun g => !groups.getLsbD g || Machine.hasGroup t g)
  | none => false

/-- A signed 16-bit converter code (R40). -/
def code16 (c : Int) : Bool := decide (-32768 ≤ c ∧ c ≤ 32767)

/-- One word or two of engine memory, aligned (R70, R75). -/
def engineWords (a : Nat) (ws : List Word) : Bool :=
  decide (ws.length = 1 ∨ ws.length = 2) && decide (a % (4 * ws.length) = 0) &&
    decide (0x20000000 ≤ a ∧ a < 0x20100000)

/-- Bytes of the NV window (R514, R522). -/
def nvBytes (a : Nat) (bytes : List Byte) : Bool :=
  accessLen bytes && decide (0x08000000 ≤ a ∧ a < 0x0A800000)

/-- A TAP code other than those of EXTEST, IDCODE, SAMPLE/PRELOAD, dtmcs and dmi (R531). -/
def otherCode (c : BitVec 5) : Bool :=
  !(c == 0x00#5 || c == 0x01#5 || c == 0x02#5 || c == 0x10#5 || c == 0x11#5)

/-- A command that a sender can give. -/
def WellFormed (i : Instr) : Bool :=
  match i with
  | .boundary _ => true
  | .shadowWrite _ a _ => shadowReg a
  | .arm _ page groups => pageGroups page groups
  | .discard _ page groups => pageGroups page groups
  | .converterGroupCommit _ => true
  | .passStart _ => true
  | .passEnd _ => true
  | .passOverrun _ => true
  | .drainComplete _ => true
  | .slotEnd _ code _ _ => code16 code
  | .averageDelivered _ => true
  | .blockEnd _ => true
  | .avgRead _ _ => true
  | .regularTrigger _ => true
  | .urgentTrigger _ => true
  | .entryEnd _ code _ => code16 code
  | .swStart _ _ => true
  | .converterReady _ => true
  | .lpSettled _ => true
  | .resultRead _ _ _ => true
  | .laneEnable _ _ => true
  | .laneDisable _ _ => true
  | .swap _ _ => true
  | .bankVerified _ => true
  | .swapAll _ _ => true
  | .globalVerified => true
  | .cancel _ _ => true
  | .tileTypeWrite _ _ _ => true
  | .engineMemoryWrite _ a ws => engineWords a ws
  | .tileVerify _ _ => true
  | .tileVerifyDone => true
  | .generatorStart _ _ => true
  | .generatorStop _ _ => true
  | .capDataRead _ => true
  | .iaccLoRead _ _ _ => true
  | .legDomainWrite _ _ _ => true
  | .edge _ _ => true
  | .calibrationDone _ _ => true
  | .twinChange _ => true
  | .calibrationExpiry _ => true
  | .lockReq _ _ _ _ => true
  | .lockReqClear _ _ _ _ => true
  | .darm _ _ _ => true
  | .safeStateSet _ _ => true
  | .safeStateClear _ _ => true
  | .tripPinChange _ _ => true
  | .tripAssert _ => true
  | .tripRelease _ => true
  | .blankingEnd monitor i => monitor || decide (i.val < 48)
  | .stuck _ => true
  | .heldClear _ _ => true
  | .tripActionWrite _ _ _ => true
  | .monitorCrossing _ _ _ => true
  | .monitorEnable _ _ _ => true
  | .monitorSettled _ => true
  | .latchedClear _ _ => true
  | .phaseEnableWrite _ _ _ => true
  | .vdrvUv _ => true
  | .vdrvOk _ => true
  | .bstUv _ => true
  | .bstOk _ => true
  | .drvBlankingEnd _ => true
  | .senseDetection _ _ => true
  | .regEnLow _ => true
  | .regEnRise _ => true
  | .gridConnect _ _ => true
  | .gridDisconnect _ _ => true
  | .gridUpdate _ => true
  | .curveEntryWrite _ _ _ _ _ => true
  | .islEnable _ => true
  | .islDisable _ => true
  | .islClear _ => true
  | .codeEpoch => true
  | .periodClosed => true
  | .unsure => true
  | .ampDataAccess _ _ => true
  | .trackerEnable _ _ => true
  | .trackerDisable _ _ => true
  | .sweepNow _ _ => true
  | .sweepDue => true
  | .stepEnd _ => true
  | .swpPRead _ => true
  | .railEnable _ _ => true
  | .railDisable _ _ => true
  | .railUpdate _ => true
  | .dwellExpiry _ => true
  | .hiccupRetry _ => true
  | .sstmo _ => true
  | .cleanTime _ => true
  | .vset _ _ _ => true
  | .avsVoltageWrite _ _ _ => true
  | .avsVoltageRead _ => true
  | .avsTransrateWrite _ _ _ _ => true
  | .avsTransrateRead _ => true
  | .avsCurrentRead _ => true
  | .avsTemperatureRead _ => true
  | .avsResetVoltage _ _ => true
  | .avsStatusWrite _ _ => true
  | .avsStatusRead _ => true
  | .avsInvalidCommand _ => true
  | .page _ _ _ => true
  | .operation _ _ _ => true
  | .clearFaults _ _ => true
  | .voutMode _ => true
  | .voutCommand _ _ _ => true
  | .statusWord _ => true
  | .readVout _ => true
  | .readIout _ => true
  | .pmbusRevision _ => true
  | .pmbusUnsupported _ _ => true
  | .alertResponse => true
  | .ringCommand _ => true
  | .cmdLost _ => true
  | .capture _ => true
  | .monumentWritten => true
  | .mtrEnable _ _ => true
  | .mtrDisable _ _ => true
  | .preset _ _ => true
  | .meterSample _ nv _ => decide (nv.length = 6)
  | .cycleClose _ => true
  | .nosync _ => true
  | .pulseStart _ => true
  | .pulseEnd _ => true
  | .eLoRead _ _ _ => true
  | .cycCntRead _ _ => true
  | .syncGained _ => true
  | .syncLost _ _ => true
  | .linkDown _ _ => true
  | .linkUp _ => true
  | .unwrap _ => true
  | .unwrapNow _ _ => true
  | .cellHeader _ hdr => decide (hdr.length = 12)
  | .cellEnd _ body _ _ => decide (body.length = 52)
  | .cellSend _ => true
  | .ackTimer _ => true
  | .gapTmo _ => true
  | .retransmit _ => true
  | .openResend _ => true
  | .strOpen _ => true
  | .strClose _ => true
  | .strReopen _ => true
  | .put _ _ => true
  | .get _ _ => true
  | .rmemDataAccess _ _ => true
  | .join _ _ => true
  | .leave _ _ => true
  | .fordSwitch _ => true
  | .probeFail _ => true
  | .sfpPresencePoll _ _ => true
  | .sfpDdmPoll _ _ => true
  | .rescan _ _ _ => true
  | .sfpDataRead _ _ => true
  | .datumEnable _ _ => true
  | .exchangeInterval => true
  | .foresightReceived _ => true
  | .backsightReceived _ => true
  | .electionTimeout => true
  | .datumCycleBoundary => true
  | .cycChg _ => true
  | .setTime _ => true
  | .resync _ => true
  | .timeLoRead _ => true
  | .spoRequest _ => true
  | .spoRelease _ => true
  | .safeInChange _ _ _ => true
  | .discrepancy _ => true
  | .scan _ _ code => decide (-2048 ≤ code ∧ code ≤ 2047)
  | .soutClose _ _ => true
  | .soutOpen _ _ => true
  | .soutClr _ _ => true
  | .testNow _ _ => true
  | .closeTimeout _ => true
  | .soutFeedbackChange _ _ => true
  | .testDue _ => true
  | .testPulseEnd _ => true
  | .testRecoveryEnd _ => true
  | .clockCheck _ _ _ _ => true
  | .freeze => true
  | .lockstepMismatch => true
  | .periodicSelftest _ => true
  | .selftestDone _ => true
  | .plumbWriteApplied => true
  | .produceMessage _ => true
  | .consumeMessage _ => true
  | .connectionWatchdog _ => true
  | .connStart _ _ => true
  | .connStop _ _ => true
  | .enter _ => true
  | .exit _ => true
  | .saddleReset _ => true
  | .saddleEvaluation => true
  | .saddleTimeout => true
  | .cleanTimeout => true
  | .unlockSite _ _ => true
  | .unlockMaker _ _ => true
  | .relock _ => true
  | .setSite _ _ => true
  | .setMaker _ _ => true
  | .pwDataWrite _ _ => true
  | .sessionTimeout => true
  | .lockoutEnd => true
  | .fbDrain _ => true
  | .fbDataRead _ => true
  | .pairEnable _ _ => true
  | .go _ => true
  | .give _ => true
  | .keep _ => true
  | .pairClr _ => true
  | .heartbeatSend => true
  | .heartbeatReceived _ frame _ => decide (frame.length = 264)
  | .pathTimeout _ => true
  | .pairEvaluation => true
  | .livenessTimeout => true
  | .claimPeerChange _ => true
  | .claimSettle => true
  | .claimTimeout => true
  | .installDone => true
  | .startWait => true
  | .peerStuck => true
  | .localCapture => true
  | .segmentSend => true
  | .segmentReceived frame _ => decide (frame.length = 264)
  | .delivery _ => true
  | .promotion _ => true
  | .deadlineWrite _ _ _ => true
  | .rec0Read _ _ => true
  | .swRaise _ _ => true
  | .logSubmit => true
  | .goLog _ _ => true
  | .logWrite => true
  | .logDataRead _ => true
  | .logFullClear _ => true
  | .replayDone => true
  | .lockLoss => true
  | .refMeasure _ => true
  | .referenceQualified => true
  | .pllLocked => true
  | .holdRelease => true
  | .pllRelock _ => true
  | .noref => true
  | .update _ => true
  | .updateMark => true
  | .pdCtlWrite _ _ => true
  | .pdOn => true
  | .pdOff => true
  | .supplyFall _ => true
  | .supplyRise _ => true
  | .porstAssert => true
  | .sysrstAssert => true
  | .rstCtl _ _ => true
  | .resetEnd => true
  | .guardScan => true
  | .meas _ _ => true
  | .measurementDone temps => decide (temps.length = 24)
  | .stopTime => true
  | .clrStop _ => true
  | .tickLoRead _ => true
  | .valleySample _ => true
  | .valleyPorEnd => true
  | .openCircuitMeasure _ => true
  | .rtcSet _ => true
  | .rtcLoRead _ => true
  | .xtFail => true
  | .xtRecover => true
  | .burstGo _ => true
  | .burstEnd _ => true
  | .burstTmo => true
  | .holdupEnd => true
  | .wdtKick _ _ => true
  | .watchdogExpiry _ => true
  | .mtimecmpMatch _ => true
  | .scrub _ => true
  | .nvWrite _ a bytes => nvBytes a bytes
  | .nvWordWritten => true
  | .valLoWrite _ _ _ => true
  | .valLoRead _ _ => true
  | .extest _ => true
  | .idcode => true
  | .samplePreload _ => true
  | .dtmcs _ => true
  | .dmi _ _ _ => true
  | .bypass code => otherCode code
  | .dmactive _ => true
  | .accessRegister _ _ _ _ => true
  | .accessMemory _ _ a _ => decide (a % 4 = 0)
  | .systemBusAccess _ a _ => decide (a % 4 = 0)
  | .ndmreset => true
  | .hartHalt _ => true
  | .hartResume => true
  | .apply _ => true
  | .applyDone => true
  | .boot _ => true
  | .ready _ => true
  | .updArm _ => true
  | .handed _ => true
  | .accept _ => true
  | .reject _ => true
  | .abort _ => true
  | .updClear _ => true
  | .trialTimeout => true
  | .bootrecChange => true
  | .grantGiveup => true
  | .slotCommit _ => true
  | .slotCommitDone => true
  | .gpioEdge _ _ => true
  | .gpioSet _ _ => true
  | .gpioClr _ _ => true
  | .i2cStart _ _ => true
  | .i2cStop _ _ => true
  | .i2cWrite _ _ => true
  | .i2cRead _ _ _ => true
  | .i2cDone _ _ _ _ => true
  | .i2cTimeout _ => true
  | .spiTxdata _ _ _ => true
  | .spiRxdata _ _ => true
  | .spiByteDone _ _ => true
  | .uartTx _ _ _ => true
  | .uartRx _ _ => true
  | .uartRxByte _ _ _ _ => true
  | .uartTxByteDone _ => true
  | .ethTxTail _ _ _ => true
  | .ethRxTail _ _ _ => true
  | .txDone _ _ _ => true
  | .rxDone _ _ _ _ => true
  | .mdioGo _ _ _ => true
  | .mdioDone _ _ => true
  | .rwlWrite _ a _ => guardedReg a
  | .registerWrite _ _ bytes => accessLen bytes
  | .rfaultReceived _ _ => true
  | .plumbOscillatorFailure => true
  | .counterOverflow _ => true
  | .bufFullTimeout _ => true

end Sys2Proof
end

