-- ==== Sys2Proof/Tests/Slice0.lean ====
section
/-! SUPPORT. The model's own tests: that the hypotheses of every statement can be met, that the well-formedness checks refuse
what no sender can give, and the spec's worked examples. The expected values are the spec's. -/

open Sys2Proof Sys2Proof.Machine

set_option maxRecDepth 10000
set_option Elab.async false

/-! States the witnesses start from -/

/-- A block that runs: clocks locked, every domain on, SPO latched, the site level in force. -/
def wUp : State := { State.reset with
  clk := { State.reset.clk with running := true, locked := true, pllHold := false },
  pwr := { State.reset.pwr with reset := none, on := 0xFFF }, pw := { State.reset.pw with level := 2 } }

/-- A window that has closed and waits for one slot. -/
def wClosed : Closed := { win := {}, beg := 0, fin := 7, full := 5000, len := 5000, need := 1, stamp := 0, due := 7, valid := true, offset := 0, scale := 0x3F800000#32 }

/-- Converter 3 runs blocks of one slot. -/
def wAdc : State := { wUp with act := [(rk .adc 3 0x040, 0x1#32), (rk .adc 3 0x044, 0x1#32)] }

/-- Converter 3 runs sequences of one entry, with injection on. -/
def wSeq : State := { wUp with act := [(rk .adc 3 0x040, 0x2#32), (rk .adc 3 0x080, 0x04010001#32)] }

/-- A Plumb-channel message of CID 0, SEQ 9, kind 1, without a time. -/
def wMsg : List Byte :=
  let body := [0#8, 0#8, 0#8, 0#8, 0#8, 0#8, 0#8, 9#8] ++ List.replicate 8 0#8 ++ [1#8, 1#8] ++ List.replicate 5 0#8 ++ [3#8] ++ List.replicate 20 0#8
  body ++ beBytes 4 (plumbCrc body).toNat

/-- Connection 7 consumes stream 0, in which that message waits. -/
def wMsgState : State := { memWrBytes ringBase (wMsg ++ [48#8]) wUp with
  conns := [(7, { st := 2, seq := 9#32 })], regs := [(connKey 7 0, 0x4000#32)],
  rings := { streams := [(0, { cfg := 0x22#32, buf := 0x40000#32, st := 2, occ := 1 })] } }

/-- Datum leads with cycles of 1 ms from its start. -/
def wDatum : Datum := { st := .track, valid := true, cyc := some { cbase := 0, dbase := 0, len := 16000000 } }

/-- A staged package that makes an image of six blocks of zeros. -/
def wPkg : List Byte :=
  let head := [0x44#8, 0x59#8, 0x4D#8, 0x49#8] ++ List.replicate 4 0#8 ++ leBytes 4 7 ++ leBytes 4 1 ++ leBytes 4 0 ++ leBytes 4 0x6000 ++
    leBytes 4 1 ++ leBytes 4 88 ++ List.replicate 32 0#8
  let body := leBytes 4 3 ++ leBytes 4 0 ++ leBytes 4 0x6000 ++ leBytes 4 0
  let all := head ++ body ++ leBytes 4 (crc32c body).toNat
  all ++ leBytes 4 (crc32c all).toNat

/-- A block that runs, with that package staged. -/
def wPkgState : State := memWrBytes pkgBase wPkg wUp

/-- Stream 0 of the rings holds an 8-byte rail command of `mv` mV with flags and without a rate. -/
def wRail (mv flags : Nat) : State := { memWrBytes ringBase (leBytes 4 (mv + 65536 * flags) ++ List.replicate 44 0#8 ++ [8#8]) wUp with
  rings := { streams := [(0, { cfg := 0x11#32, buf := 0x40000#32, st := 2, occ := 1 })] } }

/-- The answer of a command that answers a next state. -/
def nextOf (o : Host.Outcome State Fault Refusal) : State := match o with | .next t => t | _ => State.reset

/-! The hypotheses of the statements can be met, each clause by a state and operands of its own -/

/-- The hypotheses of every clause of ContinuousSensingCompletes can be met. -/
theorem witness_continuousSensingCompletes :
    (∃ (n : Fin 32) (s : State) (c : Closed) (cs : List Closed), live s .adc = true ∧ (adc s n).closed = c :: cs ∧ c.win.n < c.need) ∧
    (∃ (n : Fin 32) (s : State) (w : Win), live s .adc = true ∧ adcMode s n = 1 ∧ bit (inForce s (rk .adc n 0x040)) 3 = false ∧
      (adc s n).closed = [] ∧ (adc s n).win = some w ∧ w.n < w.nslot) ∧
    (∃ (n : Fin 32) (s : State) (w : Win) (d : Nat) (span : Nat), live s .adc = true ∧ adcMode s n = 1 ∧
      bit (inForce s (rk .adc n 0x040)) 3 = true ∧ d = fld (inForce s (rk .adc n 0x040)) 4 5 ∧ domRuns s d = true ∧
        (adc s n).closed = [] ∧ (adc s n).win = some w ∧
          span = (if w.hold || !s.clk.locked then holdLen w.tick (nextTick s d) else (dom s d).next - (dom s d).start) ∧
            w.n * slotLen s n < span) ∧
    (∃ (n : Fin 32) (s : State) (w : Win), live s .adc = true ∧ adcMode s n = 1 ∧ bit (inForce s (rk .adc n 0x040)) 3 = true ∧
      domRuns s (fld (inForce s (rk .adc n 0x040)) 4 5) = false ∧ (adc s n).closed = [] ∧ (adc s n).win = some w) ∧
    (∃ (n : Fin 32) (s : State) (c : Closed) (cs : List Closed), live s .adc = true ∧ (adc s n).closed = c :: cs ∧ c.need ≤ c.win.n) ∧
    (∃ (n : Fin 32) (s : State) (w : Win), live s .adc = true ∧ fld (inForce s (rk .adc n 0x040)) 0 2 = 1 ∧
      bit (inForce s (rk .adc n 0x040)) 3 = false ∧ (adc s n).win = some w ∧ w.nslot ≤ w.n) ∧
    (∃ (s : State), pageUp s .adc 0x060 = true) ∧
    (∃ (n : Fin 32) (s : State) (a : Nat), live s .adc = true ∧ (adc s n).readyAt = some a) ∧
    (∃ (n : Fin 32) (s : State) (a : Nat), live s .adc = true ∧ (adc s n).lpAt = some a) :=
  ⟨⟨3, {wAdc with adcs := [(3, {closed := [wClosed]})]}, wClosed, [], by decide +kernel⟩,
   ⟨3, {wAdc with adcs := [(3, {win := some {nslot := 1}})]}, {nslot := 1}, by decide +kernel⟩,
   ⟨3, {wAdc with act := [(rk .adc 3 0x040, 0x9#32), (rk .adc 3 0x044, 0x1#32)], doms := [(0, {running := true, next := 40000})], adcs := [(3, {win := some {n := 7}})]}, {n := 7}, 0, 40000, by decide +kernel⟩,
   ⟨3, {wAdc with act := [(rk .adc 3 0x040, 0x1B9#32), (rk .adc 3 0x044, 0x1#32)], adcs := [(3, {win := some {n := 7}})]}, {n := 7}, by decide +kernel⟩,
   ⟨3, {wAdc with adcs := [(3, {closed := [{wClosed with need := 0}, wClosed]})]}, {wClosed with need := 0}, [wClosed], by decide +kernel⟩,
   ⟨3, {wAdc with adcs := [(3, {win := some {n := 2, nslot := 2, start := 100, fromT := 100}})]}, {n := 2, nslot := 2, start := 100, fromT := 100}, by decide +kernel⟩,
   ⟨{wAdc with adcs := [(31, {latest := [1, 2, 3, 4, 5]})]}, by decide +kernel⟩,
   ⟨0, {wAdc with adcs := [(0, {readyAt := some 9})]}, 9, by decide +kernel⟩,
   ⟨0, {wAdc with adcs := [(0, {lpAt := some 9})]}, 9, by decide +kernel⟩⟩

/-- The hypotheses of every clause of SequencedSensingCompletes can be met. -/
theorem witness_sequencedSensingCompletes :
    (∃ (n : Fin 32) (s : State), live s .adc = true ∧ (adc s n).regPulse = true ∧ adcMode s n = 2 ∧ (adc s n).reg = none ∧
      (adc s n).inj = none ∧ (adc s n).regPend = false ∧ 0 < fld (inForce s (rk .adc n 0x080)) 0 5) ∧
    (∃ (n : Fin 32) (s : State), live s .adc = true ∧ (adc s n).injPulse = true ∧ adcMode s n = 2 ∧
      bit (inForce s (rk .adc n 0x080)) 26 = true ∧ (adc s n).inj = none) ∧
    (∃ (n : Fin 32) (s : State) (i : Nat), live s .adc = true ∧ adcMode s n = 2 ∧ (adc s n).inj = none ∧ (adc s n).reg = some i ∧
      i < 16 ∧ (adc s n).unsettled = false) ∧
    (∃ (m : Master) (n : Fin 32) (s : State), reaches s m .adc 0x080 = true ∧ actf s (rk .adc n 0x080) 8 2 = 0 ∧ adcMode s n = 2 ∧
      (adc s n).reg = none ∧ (adc s n).inj = none ∧ (adc s n).regPend = false ∧ 0 < fld (inForce s (rk .adc n 0x080)) 0 5) ∧
    (∃ (n : Fin 32) (i : Fin 20) (s : State) (k : Nat), pageUp s .adc 0x100 = true ∧
      k = rk .adc n (if i.val < 16 then 0x100 + 4 * i else 0x150 + 4 * (i - 16))) ∧
    (∃ (n : Fin 32) (s : State) (a : Nat), live s .adc = true ∧ (grp s (grpKey .adc n 0)).bare = true ∧
      (grp s (grpKey .adc n 0)).armed = some a ∧ adcLegal s n = true ∧ adcYields s n (tickAt s (a + setupLen)) = false) :=
  ⟨⟨3, {wSeq with adcs := [(3, {regPulse := true})]}, by decide +kernel⟩,
   ⟨3, {wSeq with adcs := [(3, {injPulse := true})]}, by decide +kernel⟩,
   ⟨3, {wSeq with adcs := [(3, {reg := some 0})]}, 0, by decide +kernel⟩,
   ⟨.debug, 3, wSeq, by decide +kernel⟩,
   ⟨31, 19, {wSeq with now := 9, adcs := [(31, {result := some (9, rk .adc 31 0x15C, 0x20005#32)})]}, (rk .adc 31 0x15C), by decide +kernel⟩,
   ⟨3, {wAdc with grps := [(grpKey .adc 3 0, {armed := some 5, bare := true})], regs := [(rk .adc 3 0x040, 0x1#32)]}, 5, by decide +kernel⟩⟩

/-- The hypotheses of every clause of BoundariesAndBusWritesComplete can be met. -/
theorem witness_boundariesAndBusWritesComplete :
    (∃ (d : Fin 24) (s : State), domRuns s d = true) ∧
    (∃ (s : State) (v : Nat) (n : Nat), live s .ring = true ∧ nextBoundary s = some (v, n)) ∧
    (∃ (m : Master) (p : PageType) (n : Nat) (off : Nat) (a : Nat) (v : Word) (s : State), pageWindow a = true ∧ a % 4 = 0 ∧
      busKey a = rk p n off ∧ keyPage (rk p n off) = some (p, n) ∧ keyOff (rk p n off) = off ∧ 0x040 ≤ off ∧
        (regRow (rk p n off)).map (·.cls) = some .rws ∧ reaches s m p off = true ∧ triggersStart p off v = false ∧
          shadowIgnores p off v = false ∧ strayPeriod (atWrite m a s) p n off = false) ∧
    (∃ (m : Master) (page : BitVec 12) (groups : Byte) (p : PageType) (n : Nat) (g : Nat) (s : State), page.toNat < 0xC10 ∧
      busKey (0x40000000 + 0x1000 * page.toNat + 0x020) = rk p n 0x020 ∧ keyPage (rk p n 0x020) = some (p, n) ∧
        keyOff (rk p n 0x020) = 0x020 ∧ reaches s m p 0x020 = true ∧ g < 8 ∧ hasGroup p g = true ∧ groups.getLsbD g = true) ∧
    (∃ (m : Master) (page : BitVec 12) (groups : Byte) (p : PageType) (n : Nat) (g : Nat) (s : State), page.toNat < 0xC10 ∧
      busKey (0x40000000 + 0x1000 * page.toNat + 0x020) = rk p n 0x020 ∧ keyPage (rk p n 0x020) = some (p, n) ∧
        keyOff (rk p n 0x020) = 0x020 ∧ reaches s m p 0x020 = true ∧ g < 8 ∧ hasGroup p g = true ∧ groups.getLsbD g = true ∧
          commitsNow (atWrite m (0x40000000 + 0x1000 * page.toNat + 0x020) s) p n g = false) ∧
    (∃ (m : Master) (page : BitVec 12) (p : PageType) (n : Nat) (g : Nat) (s : State), page.toNat < 0xC10 ∧
      busKey (0x40000000 + 0x1000 * page.toNat + 0x020) = rk p n 0x020 ∧ keyPage (rk p n 0x020) = some (p, n) ∧
        keyOff (rk p n 0x020) = 0x020 ∧ reaches s m p 0x020 = true ∧
          commitsNow (atWrite m (0x40000000 + 0x1000 * page.toNat + 0x020) s) p n g = true) ∧
    (∃ (m : Master) (e : Fin 512) (s : State), reaches s m .evr (0x800 + 4 * e) = true ∧ levelOk s (rk .evr 0 (0x800 + 4 * e)) = true ∧
      stagingFull s = false) ∧
    (∃ (m : Master) (p : PageType) (n : Nat) (off : Nat) (a : Nat) (s : State), pageWindow a = true ∧ a % 4 = 0 ∧ busKey a = rk p n off ∧
      keyPage (rk p n off) = some (p, n) ∧ keyOff (rk p n off) = off ∧ (regRow (rk p n off)).isSome = true ∧ plainReg p off = true ∧
        reaches s m p off = true) ∧
    (∃ (m : Master) (p : PageType) (n : Nat) (a : Nat) (s : State), pageWindow a = true ∧ a % 4 = 0 ∧ busKey a = rk p n 0x014 ∧
      keyPage (rk p n 0x014) = some (p, n) ∧ keyOff (rk p n 0x014) = 0x014 ∧ p ≠ .engc ∧ p ≠ .trip ∧ reaches s m p 0x014 = true ∧
        mustWait (atWrite m a s) m p n 0x014 = false) ∧
    (∃ (m : Master) (p : PageType) (n : Nat) (off : Nat) (a : Nat) (s : State), pageWindow a = true ∧ a % 4 = 0 ∧
      ((off = 0x010 ∨ off = 0x018)) ∧ busKey a = rk p n off ∧ keyPage (rk p n off) = some (p, n) ∧ keyOff (rk p n off) = off ∧
        p ≠ .engc ∧ p ≠ .trip ∧ p ≠ .evr ∧ reaches s m p off = true ∧ mustWait (atWrite m a s) m p n off = false) ∧
    (∃ (m : Master) (set : Bool) (a : Nat) (s : State), a = 0x40000000 + rk .gpio 0 (if set then 0x048 else 0x04C) ∧
      reaches s m .gpio 0x048 = true) ∧
    (∃ (a : Nat) (bytes : List Byte) (s : State), aligned a bytes.length = true ∧ sramBase ≤ a ∧ a < sramBase + 0x400000 ∧
      fabricUp s = true) ∧
    (∃ (a : Nat) (bytes : List Byte), aligned a bytes.length = false) :=
  ⟨⟨5, {wUp with doms := [(5, {running := true, next := 700})]}, by decide +kernel⟩,
   ⟨{wUp with datum := {st := .track, cyc := some {}}}, 16000000, 1, by decide +kernel⟩,
   ⟨.hart 0, .pwmg, 2, 0x148, 0x40000000 + rk .pwmg 2 0x148, 0x1234#32, wUp, by decide +kernel⟩,
   ⟨.hart 0, BitVec.ofNat 12 (pageFirst .cmp + 3), 5#8, .cmp, 3, 2, wUp, by decide +kernel⟩,
   ⟨.debug, BitVec.ofNat 12 (pageFirst .cmp + 3), 4#8, .cmp, 3, 2, {wUp with grps := [(grpKey .cmp 3 2, {openAt := some 0, armed := some 4})]}, by decide +kernel⟩,
   ⟨.debug, BitVec.ofNat 12 (pageFirst .pwmg + 3), .pwmg, 3, 2, {wUp with now := 160000, doms := [(0, {running := true, next := 160000})], grps := [(grpKey .pwmg 3 2, {openAt := some 0, armed := some 4, dom := 0})]}, by decide +kernel⟩,
   ⟨.hart 2, 511, wUp, by decide +kernel⟩,
   ⟨.hart 0, .trip, 0, 0x110, 0x40000000 + rk .trip 0 0x110, wUp, by decide +kernel⟩,
   ⟨.hart 0, .drv, 3, 0x40000000 + rk .drv 3 0x014, wUp, by decide +kernel⟩,
   ⟨.hart 0, .clk, 0, 0x018, 0x40000000 + rk .clk 0 0x018, {wUp with regs := [(rk .clk 0 0x010, 7#32)]}, by decide +kernel⟩,
   ⟨.hart 0, false, 0x40000000 + rk .gpio 0 0x04C, {wUp with regs := [(gpioKey 0x044, 7#32)]}, by decide +kernel⟩,
   ⟨sramBase + 8, [1#8, 0#8, 3#8, 4#8], wUp, by decide +kernel⟩,
   ⟨sramBase + 1, [1#8, 0#8, 3#8, 4#8], by decide +kernel⟩⟩

/-- The hypotheses of every clause of PassesComplete can be met. -/
theorem witness_passesComplete :
    (∃ (n : Fin 32) (s : State), live s .eng = true ∧ domRuns s (laneDom s n) = true ∧ (dom s (laneDom s n)).begun = true ∧
      (lane s n).st = 1 ∧ (lane s n).passK ≠ some (dom s (laneDom s n)).k ∧ (anyHalted s && rdb s (rk .dbg 0 0x044) n) = false) ∧
    (∃ (n : Fin 32) (s : State) (p : Pass), live s .eng = true ∧ (lane s n).pass = some p ∧ p.e ≤ p.w) ∧
    (∃ (n : Fin 32) (s : State) (p : Pass), live s .eng = true ∧ (lane s n).pass = some p ∧ p.w < p.e) ∧
    (∃ (n : Fin 32) (s : State) (r : Drain), live s .eng = true ∧ (lane s n).drain = some r) :=
  ⟨⟨4, {wUp with lanes := [(4, {st := 1, first := true})], doms := [(0, {running := true, begun := true, next := 25000000, k := 3})]}, by decide +kernel⟩,
   ⟨4, {wUp with lanes := [(4, {st := 2, pass := some {start := 5, e := 9, w := 70, outs := [], sts := [], evts := []}})]}, {start := 5, e := 9, w := 70, outs := [], sts := [], evts := []}, by decide +kernel⟩,
   ⟨4, {wUp with lanes := [(4, {st := 2, pass := some {start := 5, e := 90, w := 70, outs := [], sts := [], evts := []}})]}, {start := 5, e := 90, w := 70, outs := [], sts := [], evts := []}, by decide +kernel⟩,
   ⟨4, {wUp with lanes := [(4, {st := 1, drain := some {late := [], sts := [(0x800, 7)], evts := [3], endAt := 99}})]}, {late := [], sts := [(0x800, 7)], evts := [3], endAt := 99}, by decide +kernel⟩⟩

/-- The hypotheses of every clause of LanesAndSwapsComplete can be met. -/
theorem witness_lanesAndSwapsComplete :
    (∃ (m : Master) (n : Fin 32) (s : State), reaches s m .eng 0x040 = true ∧ rdb s (laneKey n 0x040) 0 = false ∧
      bankCount s n (lane s n).active ≠ 0 ∧ pairHoldsLane s n = false ∧ (lane s n).st = 0) ∧
    (∃ (m : Master) (n : Fin 32) (s : State), reaches s m .eng 0x040 = true ∧ rdb s (laneKey n 0x040) 0 = true ∧ (lane s n).st ≠ 2) ∧
    (∃ (m : Master) (n : Fin 32) (s : State), reaches s m .eng 0x040 = true ∧ swapPends s n = false) ∧
    (∃ (n : Fin 32) (s : State) (j : Nat × Nat), live s .eng = true ∧ (s.eng.jobs.find? fun j => decide (j.1 = n.val)) = some j) ∧
    (∃ (m : Master) (s : State), reaches s m .engc 0x040 = true ∧ s.eng.global = .none ∧ (List.range 32).any (swapPends s) = false) ∧
    (∃ (s : State), live s .eng = true ∧ s.eng.global = .checking ∧ rdb s (engcKey 0x040) 1 = false) ∧
    (∃ (m : Master) (s : State), reaches s m .engc 0x040 = true) :=
  ⟨⟨.hart 0, 31, {wUp with regs := [(laneKey 31 0x048, 0x10100#32)]}, by decide +kernel⟩,
   ⟨.hart 0, 31, {wUp with regs := [(laneKey 31 0x040, 1#32)], lanes := [(31, {st := 1})]}, by decide +kernel⟩,
   ⟨.hart 0, 31, wUp, by decide +kernel⟩,
   ⟨31, {wUp with eng := {jobs := [(3, 5), (31, 60)]}, lanes := [(31, {swap := .checking})]}, (31, 60), by decide +kernel⟩,
   ⟨.hart 0, wUp, by decide +kernel⟩,
   ⟨{wUp with eng := {global := .checking, globEnd := 77}}, by decide +kernel⟩,
   ⟨.hart 0, {wUp with eng := {global := .ready}, lanes := [(3, {dueSwap := some 7})]}, by decide +kernel⟩⟩

/-- The hypotheses of every clause of TilesComplete can be met. -/
theorem witness_tilesComplete :
    (∃ (m : Master) (j : Fin 16) (s : State), reaches s m .engc 0x080 = true ∧
      (List.range 16).all (fun i => (List.range 32).all fun n => !(mapsTile s (16 * j + i) n)) = true) ∧
    (∃ (m : Master) (a : Nat) (s : State), engAccess a 1 = true ∧ fabricUp s = true ∧ domOn s .eng = true ∧ stagedPair s m = false ∧
      s.upd.st ≠ 6 ∧ tileType s (engOff a / 0x1000) = 0) ∧
    (∃ (m : Master) (a : Nat) (s : State), engAccess a 1 = true ∧ fabricUp s = true ∧ domOn s .eng = true ∧ stagedPair s m = false ∧
      s.upd.st ≠ 6 ∧ ((tileType s (engOff a / 0x1000) = 1 ∨ tileType s (engOff a / 0x1000) = 2)) ∧
        (List.range 32).any (mapsTile s (engOff a / 0x1000)) = true) ∧
    (∃ (m : Master) (a : Nat) (n : Nat) (s : State), engAccess a 1 = true ∧ fabricUp s = true ∧ domOn s .eng = true ∧
      stagedPair s m = false ∧ s.upd.st ≠ 6 ∧ tileType s (engOff a / 0x1000) = 3 ∧ engOff a % 0x1000 < 4 * 1022 ∧
        stateOwner s (engOff a / 0x1000) = some n ∧ laneHolds s n = true) ∧
    (∃ (m : Master) (a : Nat) (n : Nat) (s : State), engAccess a 1 = true ∧ fabricUp s = true ∧ domOn s .eng = true ∧
      stagedPair s m = false ∧ s.upd.st ≠ 6 ∧ tileType s (engOff a / 0x1000) = 3 ∧ engOff a % 0x1000 < 4 * 1022 ∧
        stateOwner s (engOff a / 0x1000) = some n ∧ laneHolds s n = false) ∧
    (∃ (n : Fin 32) (r : Drain) (a : Nat) (w : Word) (s : State), live s .eng = true ∧ (lane s n).drain = some r ∧ r.sts = [] ∧
      r.late = [] ∧ (lane s n).pass = none ∧ s.eng.held = [(n.val, a, w)] ∧ engAccess a 1 = true ∧ engOff a % 0x1000 < 4 * 1022 ∧
        ((laneOn s n = false ∨ max s.now r.endAt + fabCyc ≤ nextTick s (laneDom s n) + 1200))) ∧
    (∃ (m : Master) (s : State), reaches s m .engc 0x050 = true ∧ rdb s (engcKey 0x050) 9 = false) ∧
    (∃ (s : State), live s .eng = true ∧ rdb s (engcKey 0x050) 9 = true) :=
  ⟨⟨.update, 15, wUp, by decide +kernel⟩,
   ⟨.hart 1, engBase + 0x5004, wUp, by decide +kernel⟩,
   ⟨.hart 1, engBase + 0x5004, {wUp with regs := [(laneKey 2 0x048, 0x10105#32), (engcKey 0x080, 0x400#32)], lanes := [(2, {st := 1})]}, by decide +kernel⟩,
   ⟨.hart 1, engBase + 0x5004, 2, {wUp with regs := [(laneKey 2 0x04C, 0x10000#32), (laneKey 2 0x060, 0x5#32), (engcKey 0x080, 0xC00#32)], lanes := [(2, {st := 1, drain := some {late := [], sts := [], evts := [], endAt := 99}})]}, by decide +kernel⟩,
   ⟨.hart 1, engBase + 0x5FF4, 2, {wUp with regs := [(laneKey 2 0x04C, 0x10000#32), (laneKey 2 0x060, 0x5#32), (engcKey 0x080, 0xC00#32)], lanes := [(2, {st := 1})]}, by decide +kernel⟩,
   ⟨2, {late := [], sts := [], evts := [3], endAt := 99}, engBase + 0x5FF4, 0xDEADBEEF#32, {wUp with doms := [(0, {running := true, next := 25000000})], eng := {held := [(2, engBase + 0x5FF4, 0xDEADBEEF#32)]}, regs := [(laneKey 2 0x04C, 0x10000#32), (laneKey 2 0x060, 0x5#32), (engcKey 0x080, 0xC00#32)], lanes := [(2, {st := 1, drain := some {late := [], sts := [], evts := [3], endAt := 99}})]}, by decide +kernel⟩,
   ⟨.hart 1, wUp, by decide +kernel⟩,
   ⟨{wUp with regs := [(engcKey 0x050, 0x205#32)], eng := {tileEnd := 44}}, by decide +kernel⟩⟩

/-- The hypotheses of every clause of SoundingsComplete can be met. -/
theorem witness_soundingsComplete :
    (∃ (m : Master) (g : Fin 8) (s : State), reaches s m .snd 0x120 = true ∧ genBusy s g = false ∧ startRefused s g = false ∧ ((g = 7 →
      rdb s (rk .snd 0 0x00C) 16 = false))) ∧
    (∃ (m : Master) (g : Fin 8) (s : State), reaches s m .snd 0x120 = true ∧ genBusy s g = true ∧ ((g = 7 →
      rdb s (rk .snd 0 0x00C) 16 = false))) ∧
    (∃ (s : State), pageUp s .snd 0x044 = true) ∧
    (∃ (s : State), pageUp s .snd 0x400 = true) :=
  ⟨⟨.hart 0, 7, {wUp with regs := [(genKey 7 0, 3#32), (genKey 7 0x14, 0x10000#32)]}, by decide +kernel⟩,
   ⟨.hart 0, 6, {wUp with regs := [(genKey 6 0x24, 3#32)]}, by decide +kernel⟩,
   ⟨{wUp with regs := [(rk .snd 0 0x040, 0x3FFF#32)], capMem := [(0x3FFF, 7#32)]}, by decide +kernel⟩,
   ⟨{wUp with gens := [(7, {acc := [(7, 0x123456789#64)]})]}, by decide +kernel⟩⟩

/-- The hypotheses of every clause of LegsComplete can be met. -/
theorem witness_legsComplete :
    (∃ (m : Master) (l : Fin 96) (v : Word) (s : State), reaches s m .pwmg 0x100 = true ∧ outMode s l = 0 ∧
      (grp s (grpKey .pwmg (l / 8) (l % 8))).openAt = none ∧ fld v 0 5 < 24 ∧ fld v 0 5 ≠ legDom s l ∧ fld v 5 2 ≠ 3) ∧
    (∃ (l : Fin 96) (outB : Bool) (s : State) (a : Nat) (rise : Bool), domRuns s (legDom s l) = true ∧ (leg s l).wait = false ∧
      nextEdge s l outB = some (a, rise)) ∧
    (∃ (taps : Nat) (s : State), live s .pwm = true ∧ s.clk.locked = true ∧ 160 ≤ taps ∧ taps ≤ 224) ∧
    (∃ (l : Fin 96) (s : State), live s .pwm = true ∧ (if (leg s l).line then (leg s l).twin0 else (leg s l).twin1).ready = true ∧
      quietTicks s l = true) ∧
    (∃ (l : Fin 96) (s : State), live s .pwm = true ∧ (leg s l).valid = true) ∧
    (∃ (m : Master) (d : Fin 24) (s : State), reaches s m .pwmg 0x040 = true ∧ lockState s d = 0 ∧
      ((cycHeld s).all fun c => cycleFits c.len (dom s d).per) = true) ∧
    (∃ (m : Master) (s : State), reaches s m .pwmg 0x040 = true) ∧
    (∃ (m : Master) (v : BitVec 16) (i : Fin 8) (s : State), reaches s m .pwmg 0x080 = true ∧ datumValid s = true ∧ v.getLsbD i = true) :=
  ⟨⟨.hart 3, 95, 23#32, wUp, by decide +kernel⟩,
   ⟨0, false, {wUp with doms := [(0, {running := true, begun := true, next := 25000000})], legs := [(0, {a := 1000, b := 9000, ton := 8000})], act := [(legKey 0 0x28, 1#32)]}, 1000, true, by decide +kernel⟩,
   ⟨160, wUp, by decide +kernel⟩,
   ⟨95, {wUp with legs := [(95, {twin1 := {cal := some 4, ready := true}})]}, by decide +kernel⟩,
   ⟨95, {wUp with legs := [(95, {valid := true, twin1 := {cal := some 4}})]}, by decide +kernel⟩,
   ⟨.hart 3, 23, {wUp with regs := [(domKey 23 0x044, 0x0#32)]}, by decide +kernel⟩,
   ⟨.hart 3, {wUp with regs := [(domKey 0 0x044, 0x3#32)]}, by decide +kernel⟩,
   ⟨.hart 3, 0xFF80#16, 7, {wUp with datum := {valid := true}}, by decide +kernel⟩⟩

/-- The hypotheses of every clause of SetsAndTripsComplete can be met. -/
theorem witness_setsAndTripsComplete :
    (∃ (m : Master) (s : State), reaches s m .trip 0x800 = true) ∧
    (∃ (m : Master) (k : Fin 16) (s : State), reaches s m .trip 0x800 = true ∧ ((safeSet s k).reqs.filter (reqActive s)).isEmpty = true ∧
      (List.range 4).all (fun r => (rail s r).st ≠ 5) = true) ∧
    (∃ (i : Fin 48) (active : Bool) (s : State), live s .pwm = true ∧ (tripIn s i).raw ≠ active) ∧
    (∃ (i : Fin 48) (s : State), live s .pwm = true ∧ (tripIn s i).raw = true ∧ (tripIn s i).active = false) ∧
    (∃ (i : Fin 48) (s : State), live s .pwm = true ∧ (tripIn s i).raw = false ∧ (tripIn s i).active = true) ∧
    (∃ (i : Fin 96) (s : State), live s .pwm = true ∧ i.val < 48 ∧ (tripIn s i).active = true ∧ (tripIn s i).reacted = false ∧
      tripBlanked s i = false) ∧
    (∃ (i : Fin 48) (s : State), live s .pwm = true ∧ (tripIn s i).active = true ∧ (tripIn s i).stuck = false ∧
      rdf s (tripKey i 0x10) 0 16 ≠ 0) ∧
    (∃ (m : Master) (i : Fin 48) (s : State), reaches s m .trip 0x118 = true ∧ (tripIn s i).active = false) ∧
    (∃ (m : Master) (i : Fin 48) (s : State), reaches s m .trip 0x100 = true ∧ levelOk s (tripKey i 0) = true ∧ stagingFull s = false) :=
  ⟨⟨.hart 0, wUp, by decide +kernel⟩,
   ⟨.hart 0, 15, {wUp with sets := [(15, {latched := true, reqs := [(1, 4)]})]}, by decide +kernel⟩,
   ⟨47, true, wUp, by decide +kernel⟩,
   ⟨47, {wUp with trips := [(47, {raw := true})], regs := [(tripKey 47 0, 0x3564#32)]}, by decide +kernel⟩,
   ⟨47, {wUp with trips := [(47, {active := true})], regs := [(tripKey 47 0x18, 0x12#32)]}, by decide +kernel⟩,
   ⟨47, {wUp with trips := [(47, {active := true})]}, by decide +kernel⟩,
   ⟨47, {wUp with trips := [(47, {active := true})], regs := [(tripKey 47 0x10, 0x3#32)]}, by decide +kernel⟩,
   ⟨.hart 0, 47, {wUp with regs := [(tripKey 47 0x18, 0x8#32)]}, by decide +kernel⟩,
   ⟨.hart 0, 47, {wUp with trips := [(47, {active := true})]}, by decide +kernel⟩⟩

/-- The hypotheses of every clause of MonitorsComplete can be met. -/
theorem witness_monitorsComplete :
    (∃ (i : Fin 96) (before : Int) (after : Int) (s : State), live s .pwm = true ∧ rdb s (monKey i 0) 0 = true ∧
      before ≤ 4000 * sfld (inForce s (monKey i 0x04)) 0 10 ∧ 4000 * sfld (inForce s (monKey i 0x04)) 0 10 < after) ∧
    (∃ (m : Master) (i : Fin 96) (v : Word) (s : State), reaches s m .cmp 0x100 = true ∧ bit v 0 = true ∧ rdb s (monKey i 0) 0 = false ∧
      fld v 20 5 = fld (rd s (monKey i 0)) 20 5 ∧ fld v 20 5 < 24 ∧ fld v 16 2 ≠ 3) ∧
    (∃ (i : Fin 96) (s : State) (a : Nat), live s .pwm = true ∧ rdb s (monKey i 0) 0 = true ∧ (mon s i).settle = some a) ∧
    (∃ (m : Master) (i : Fin 96) (s : State), reaches s m .cmp 0x118 = true ∧ rdf s (monKey i 0) 16 2 = 1 ∧ monLive s i = false) ∧
    (∃ (i : Fin 96) (s : State), live s .pwm = true ∧ monBlanked s i = false) :=
  ⟨⟨95, 0, 9000000, {wUp with regs := [(monKey 95 0, 1#32)]}, by decide +kernel⟩,
   ⟨.hart 1, 95, 0x7#32, {wUp with regs := [(monKey 95 0, 0x6#32)]}, by decide +kernel⟩,
   ⟨95, {wUp with regs := [(monKey 95 0, 1#32)], mons := [(95, {settle := some 4})]}, 4, by decide +kernel⟩,
   ⟨.hart 1, 95, {wUp with regs := [(monKey 95 0, 0x10001#32), (monKey 95 0x18, 8#32)]}, by decide +kernel⟩,
   ⟨95, {wUp with regs := [(monKey 95 0, 1#32), (monKey 95 0x18, 0x21#32)]}, by decide +kernel⟩⟩

/-- The hypotheses of every clause of DriversComplete can be met. -/
theorem witness_driversComplete :
    (∃ (m : Master) (p : Fin 16) (v : Word) (s : State), reaches s m .drv 0x100 = true ∧ levelOk s (phKey p 0) = true ∧
      stagingFull s = false ∧ outMode s (80 + p) = 0 ∧ 5 ≤ fld v 8 7 ∧ fld v 8 7 ≤ 80) ∧
    (∃ (g : Fin 4) (s : State), live s .pwm = true ∧ (drvGrp s g).vdrvOk = true) ∧
    (∃ (s : State), live s .pwm = true) ∧
    (∃ (p : Fin 16) (s : State), live s .pwm = true ∧ (phase s p).bstOk = true) ∧
    (∃ (s : State), live s .pwm = true) ∧
    (∃ (p : Fin 16) (e : Nat) (s : State), live s .pwm = true ∧ phEn s p = true ∧ drvBlankEnd s p = some e ∧ overOc s p = true) ∧
    (∃ (s : State), live s .pwm = true) ∧
    (∃ (p : Fin 16) (mv : Nat) (s : State), live s .pwm = true ∧ phEn s p = true ∧ overOc s p = false ∧ drvBlanked s p = false ∧
      8 * rdf s (phKey p 0) 16 8 < mv) ∧
    (∃ (s : State), live s .pwm = true) ∧
    (∃ (s : State), live s .pwm = true) :=
  ⟨⟨.hart 0, 15, 0x501#32, wUp, by decide +kernel⟩,
   ⟨3, {wUp with drvs := [(3, {vdrvOk := true})]}, by decide +kernel⟩,
   ⟨wUp, by decide +kernel⟩,
   ⟨15, {wUp with phases := [(15, {bstOk := true})]}, by decide +kernel⟩,
   ⟨wUp, by decide +kernel⟩,
   ⟨15, 2560, {wUp with regs := [(phKey 15 0, 0x501#32)], phases := [(15, {mv := 3000})], legs := [(95, {outA := some 0})]}, by decide +kernel⟩,
   ⟨{wUp with regs := [(phKey 15 0, 0x501#32)]}, by decide +kernel⟩,
   ⟨15, 3000, {wUp with regs := [(phKey 15 0, 0x501#32)]}, by decide +kernel⟩,
   ⟨{wUp with drvs := [(3, {off := false, regEn := true})]}, by decide +kernel⟩,
   ⟨{wUp with regs := [(rk .drv 3 0x044, 4#32)]}, by decide +kernel⟩⟩

/-- The hypotheses of every clause of GridAndIslandingComplete can be met. -/
theorem witness_gridAndIslandingComplete :
    (∃ (m : Master) (g : Fin 4) (s : State), reaches s m .grid 0x0E0 = true ∧ (grid s g).st = 0 ∧ connectBad s g = false ∧ s.isl.st ≠ 4) ∧
    (∃ (m : Master) (g : Fin 4) (s : State), reaches s m .grid 0x0E0 = true ∧ (grid s g).st ≠ 0) ∧
    (∃ (g : Fin 4) (s : State), live s .eng = true ∧ (grid s g).st ≠ 0 ∧ domRuns s (gridDom s g) = true ∧
      (dom s (gridDom s g)).begun = true ∧ (grid s g).upK ≠ some (dom s (gridDom s g)).k ∧ (grid s g).discReq = true) ∧
    (∃ (m : Master) (g : Fin 4) (s : State), reaches s m .grid 0x0E0 = true ∧ (grid s g).st = 8) ∧
    (∃ (g : Fin 4) (s : State), live s .eng = true ∧ (grid s g).st ≠ 0 ∧ domRuns s (gridDom s g) = true ∧
      (dom s (gridDom s g)).begun = true ∧ (grid s g).upK ≠ some (dom s (gridDom s g)).k) ∧
    (∃ (m : Master) (s : State), reaches s m .grid 0x200 = true) ∧
    (∃ (m : Master) (s : State), reaches s m .isl 0x064 = true ∧ s.isl.st = 0 ∧ islRefused s = false) ∧
    (∃ (m : Master) (s : State), reaches s m .isl 0x064 = true ∧ s.isl.st ≠ 4) ∧
    (∃ (m : Master) (s : State), reaches s m .isl 0x064 = true ∧ s.isl.st = 4 ∧
      (((grid s (islPort s)).st = 0 ∨ (grid s (islPort s)).st = 9 ∨ ((grid s (islPort s)).st = 8 ∧ contactor s (islPort s) = false)))) ∧
    (∃ (m : Master) (s : State), reaches s m .isl 0x064 = true ∧ s.isl.st = 4 ∧ (grid s (islPort s)).st ≠ 0 ∧
      (grid s (islPort s)).st ≠ 9 ∧ (((grid s (islPort s)).st = 8 → contactor s (islPort s) = true))) ∧
    (∃ (s : State), live s .eng = true ∧ s.datum.st ≠ .off ∧ islAligned s = true ∧ ((s.isl.st = 1 ∨ s.isl.st = 2)) ∧
      (datumNow s / codeUnits + 1) * codeUnits < 2 ^ 64) ∧
    (∃ (s : State) (p : IslPer) (ps : List IslPer), s.isl.closing = p :: ps) ∧
    (∃ (s : State) (a : Nat), s.isl.st = 3 ∧ s.isl.holdAt = some a ∧ rdf s (islKey 0x060) 0 16 ≠ 0 ∧ s.isl.unsure = false) ∧
    (∃ (m : Master) (s : State), reaches s m .isl 0x0A4 = true ∧ rdf s (islKey 0x0A0) 0 9 < 511) ∧
    (∃ (s : State), pageUp s .isl 0x0A4 = true) :=
  ⟨⟨.hart 0, 3, {wUp with act := [(rk .adc 0 0x040, 9#32)], regs := [(gridKey 3 0x048, 0x43660000#32), (gridKey 3 0x04C, 0x41200000#32)]}, by decide +kernel⟩,
   ⟨.hart 0, 3, {wUp with grids := [(3, {st := 2})]}, by decide +kernel⟩,
   ⟨3, {wUp with grids := [(3, {st := 4, discReq := true})], doms := [(0, {running := true, begun := true, k := 3})]}, by decide +kernel⟩,
   ⟨.hart 0, 3, {wUp with grids := [(3, {st := 8})]}, by decide +kernel⟩,
   ⟨3, {wUp with grids := [(3, {st := 1})], doms := [(0, {running := true, begun := true, k := 3})]}, by decide +kernel⟩,
   ⟨.hart 0, {wUp with grids := [(3, {timers := [(31, 4)], acting := 0x80000000#32})]}, by decide +kernel⟩,
   ⟨.hart 0, {wUp with act := [(rk .adc 0 0x040, 9#32)], regs := [(islKey 0x048, 5#32), (islKey 0x04C, 0x3F800000#32), (islKey 0x050, 0x3F800000#32)]}, by decide +kernel⟩,
   ⟨.hart 0, {wUp with isl := {st := 2}}, by decide +kernel⟩,
   ⟨.hart 0, {wUp with isl := {st := 4, first := some 9}, grids := [(0, {st := 9})]}, by decide +kernel⟩,
   ⟨.hart 0, {wUp with isl := {st := 4, first := some 9}, grids := [(0, {st := 4})]}, by decide +kernel⟩,
   ⟨{wUp with isl := {st := 1}, datum := {st := .track, valid := true}, doms := [(0, {per := 12500000})], regs := [(domKey 0 0x044, 3#32)]}, by decide +kernel⟩,
   ⟨{wUp with isl := {st := 2, own := 3, closing := [⟨0, 0, 0#32, [], false, false⟩]}}, ⟨0, 0, 0#32, [], false, false⟩, [], by decide +kernel⟩,
   ⟨{wUp with isl := {st := 3, holdAt := some 5}, regs := [(islKey 0x060, 2#32)]}, 5, by decide +kernel⟩,
   ⟨.hart 0, {wUp with regs := [(islKey 0x0A0, 510#32)]}, by decide +kernel⟩,
   ⟨{wUp with regs := [(islKey 0x0A0, 510#32)], isl := {amps := [(510, 77)]}}, by decide +kernel⟩⟩

/-- The hypotheses of every clause of TrackersComplete can be met. -/
theorem witness_trackersComplete :
    (∃ (m : Master) (x : Fin 24) (s : State), reaches s m .mppt 0x130 = true ∧ (tracker s x).st = 0 ∧ trackerRefused s x = false) ∧
    (∃ (m : Master) (s : State), reaches s m .mppt 0x130 = true) ∧
    (∃ (m : Master) (x : Fin 24) (s : State), reaches s m .mppt 0x130 = true ∧ sweepOk s x = true) ∧
    (∃ (s : State) (a : Nat), live s .eng = true ∧ s.sweep.due = some a) ∧
    (∃ (x : Fin 24) (s : State), live s .eng = true ∧ (tracker s x).st ≠ 0 ∧
      (((tracker s x).late = true ∨ undelivered s (trkCurr s x) ((tracker s x).stepAt + stepLen s x) = false))) ∧
    (∃ (x : Fin 24) (s : State), live s .eng = true ∧ (tracker s x).st ≠ 0 ∧ (tracker s x).late = false ∧
      undelivered s (trkCurr s x) ((tracker s x).stepAt + stepLen s x) = true) ∧
    (∃ (s : State), pageUp s .mppt 0x050 = true) :=
  ⟨⟨.hart 0, 23, {wUp with act := [(rk .adc 0 0x040, 1#32)], regs := [(trkKey 23 0x08, 0x3F800000#32), (trkKey 23 0x0C, 0x40000000#32), (trkKey 23 0x10, 0x3F000000#32), (trkKey 23 0x14, 0x3E800000#32), (trkKey 23 0x1C, 0xA0014#32)]}, by decide +kernel⟩,
   ⟨.hart 0, {wUp with trackers := [(23, {st := 4})]}, by decide +kernel⟩,
   ⟨.hart 0, 23, {wUp with trackers := [(23, {st := 1})]}, by decide +kernel⟩,
   ⟨{wUp with sweep := {due := some 4}, trackers := [(23, {st := 1})], regs := [(rk .mppt 0 0x040, 0x20000#32), (trkKey 23 0, 1#32)]}, 4, by decide +kernel⟩,
   ⟨23, {wUp with trackers := [(23, {st := 1, sumL := 4, sumP := 77, sumV := 9})], regs := [(trkKey 23 0x1C, 20#32)]}, by decide +kernel⟩,
   ⟨23, {wUp with trackers := [(23, {st := 1, sumL := 4})], regs := [(trkKey 23 0x04, 0x300#32), (trkKey 23 0x1C, 20#32)], adcs := [(3, {closed := [wClosed]})]}, by decide +kernel⟩,
   ⟨{wUp with regs := [(rk .mppt 0 0x048, 64#32)], sweep := {pows := [(64, 5#32)]}}, by decide +kernel⟩⟩

/-- The hypotheses of every clause of RailsComplete can be met. -/
theorem witness_railsComplete :
    (∃ (m : Master) (r : Fin 4) (s : State), reaches s m .reg 0x0E4 = true ∧ (rail s r).st = 0 ∧ (rail s r).starts = false ∧
      railRefused s r = false ∧ (safeSet s (offSet s r)).latched = false) ∧
    (∃ (m : Master) (r : Fin 4) (s : State), reaches s m .reg 0x0E4 = true ∧ rdb s (regKey r 0x040) 21 = false) ∧
    (∃ (r : Fin 4) (s : State), live s .reg = true ∧ domRuns s (railDom s r) = true ∧ (dom s (railDom s r)).begun = true ∧
      (rail s r).upK ≠ some (dom s (railDom s r)).k) ∧
    (∃ (r : Fin 4) (s : State), live s .reg = true ∧ domRuns s (railDom s r) = true ∧ (dom s (railDom s r)).begun = true ∧
      (rail s r).upK ≠ some (dom s (railDom s r)).k) ∧
    (∃ (r : Fin 4) (s : State), live s .reg = true ∧ domRuns s (railDom s r) = true ∧ (dom s (railDom s r)).begun = true ∧
      (rail s r).upK ≠ some (dom s (railDom s r)).k ∧ (rail s r).st = 2 ∧ (rail (railJudged r s) r).st = 2 ∧
        updateAim s r ≠ (rail (railJudged r s) r).mask) ∧
    (∃ (r : Fin 4) (s : State) (a : Nat), live s .reg = true ∧ domRuns s (railDom s r) = true ∧ (dom s (railDom s r)).begun = true ∧
      (rail s r).st = 4 ∧ (rail s r).upK = some (dom s (railDom s r)).k ∧ a = (rail s r).since + rdf s (regKey r 0x0D0) 0 16 * msec ∧
        retryOk (upto a s) r = true ∧ ((safeSet s (offSet s r)).reqs.filter (reqActive s)).isEmpty = true) ∧
    (∃ (r : Fin 4) (s : State) (a : Nat), live s .reg = true ∧ domRuns s (railDom s r) = true ∧ (dom s (railDom s r)).begun = true ∧
      (rail s r).st = 1 ∧ (rail s r).upK = some (dom s (railDom s r)).k ∧ rdf s (regKey r 0x098) 0 16 ≠ 0 ∧
        a = (rail s r).since + rdf s (regKey r 0x098) 0 16 * msec ∧ rdb s (regKey r 0x07C) 8 = false ∧ (lane s (railLane s r)).st ≠ 3 ∧
          (rail s r).ovrN < 2) ∧
    (∃ (r : Fin 4) (s : State), live s .reg = true ∧ domRuns s (railDom s r) = true ∧ (dom s (railDom s r)).begun = true ∧
      (rail s r).st = 2) ∧
    (∃ (m : Master) (r : Fin 4) (v : Word) (s : State), reaches s m .reg 0x0E0 = true ∧ finF v = true ∧ rdf s (regKey r 0x040) 16 3 = 0 ∧
      (rail s r).st = 0 ∧ ltF v (regF s r 0x084) = false ∧ ltF (regF s r 0x088) v = false) ∧
    (∃ (r : Fin 4) (s : State), live s .reg = true ∧ rdb s (regKey r 0x0DC) 16 = true ∧
      (rstream s (rdf s (regKey r 0x0DC) 0 10)).owner = 1 ∧ (streamTake (rdf s (regKey r 0x0DC) 0 10) s).1.isSome = true) ∧
    (∃ (r : Fin 4) (s : State) (bs : List Byte) (x : Byte) (y : Nat), live s .reg = true ∧ rdb s (regKey r 0x0DC) 16 = true ∧
      (rstream s (rdf s (regKey r 0x0DC) 0 10)).owner = 1 ∧ (streamTake (rdf s (regKey r 0x0DC) 0 10) s).1 = some (bs, x, y) ∧
        bs.length = 8 ∧ rdf s (regKey r 0x040) 16 3 = 3 ∧ leNat (bs.take 4) / 65536 % 4 = 0) ∧
    (∃ (r : Fin 4) (s : State) (bs : List Byte) (x : Byte) (y : Nat), live s .reg = true ∧ rdb s (regKey r 0x0DC) 16 = true ∧
      (rstream s (rdf s (regKey r 0x0DC) 0 10)).owner = 1 ∧ (streamTake (rdf s (regKey r 0x0DC) 0 10) s).1 = some (bs, x, y) ∧
        bs.length = 8 ∧ rdf s (regKey r 0x040) 16 3 = 3 ∧ leNat (bs.take 4) / 131072 % 2 = 1 ∧ rdb s (regKey r 0x040) 21 = false) ∧
    (∃ (r : Fin 4) (s : State), live s .reg = true ∧ rdb s (regKey r 0x0DC) 16 = true ∧ (rail s r).lost = false ∧
      rdf s (regKey r 0x0DC) 20 12 ≠ 0) ∧
    (∃ (m : Master) (s : State), reaches s m .reg 0x114 = true ∧ s.monument.busy = none) ∧
    (∃ (s : State) (x : MonSnap), s.monument.busy = some x) :=
  ⟨⟨.hart 0, 0, {wUp with act := [(legKey 0 0x28, 1#32), (rk .adc 0 0x040, 9#32)], regs := [(setKey 0 0, 1#32), (regKey 0 0x044, 0x10101#32), (regKey 0 0x08C, 0x3F800000#32), (regKey 0 0x090, 0x3F800000#32), (regKey 0 0x094, 0x3F800000#32), (regKey 0 0x0B0, 0x3F800000#32), (regKey 0 0x0B4, 0x3F800000#32)]}, by decide +kernel⟩,
   ⟨.hart 0, 3, {wUp with rails := [(3, {st := 2, taken := true, retries := 4})]}, by decide +kernel⟩,
   ⟨3, {wUp with rails := [(3, {st := 2})], doms := [(0, {running := true, begun := true, k := 4})]}, by decide +kernel⟩,
   ⟨3, {wUp with rails := [(3, {st := 2})], doms := [(0, {running := true, begun := true, k := 4})]}, by decide +kernel⟩,
   ⟨3, {wUp with rails := [(3, {st := 2, mask := 3, shedD := 50000})], doms := [(0, {running := true, begun := true, k := 4, prev := 50000, start := 100000})], regs := [(regKey 3 0x044, 0x20102#32), (regKey 3 0x0B8, 2#32)]}, by decide +kernel⟩,
   ⟨3, {wUp with doms := [(0, {running := true, begun := true})], rails := [(3, {st := 4, upK := some 0, since := 10})], regs := [(regKey 3 0x0D0, 1#32)]}, 50000010, by decide +kernel⟩,
   ⟨3, {wUp with doms := [(0, {running := true, begun := true})], rails := [(3, {st := 1, upK := some 0, since := 10})], regs := [(regKey 3 0x098, 1#32)]}, 50000010, by decide +kernel⟩,
   ⟨3, {wUp with doms := [(0, {running := true, begun := true})], rails := [(3, {st := 2, retries := 3})]}, by decide +kernel⟩,
   ⟨.hart 0, 3, 0x3F800000#32, {wUp with regs := [(regKey 3 0x088, 0x40000000#32)]}, by decide +kernel⟩,
   ⟨3, {wUp with regs := [(regKey 3 0x0DC, 0x10005#32)], rings := {streams := [(5, {cfg := 0x11#32, buf := 0x40000#32, st := 2, occ := 1})]}}, by decide +kernel⟩,
   ⟨3, {wRail 900 0 with rails := [(3, {st := 2})], regs := [(regKey 3 0x040, 0x30000#32), (regKey 3 0x088, 0x40000000#32), (regKey 3 0x0DC, 0x10000#32)]}, [0x84#8, 3#8, 0#8, 0#8, 0#8, 0#8, 0#8, 0#8], 0#8, 0, by decide +kernel⟩,
   ⟨3, {wRail 900 2 with rails := [(3, {st := 2})], regs := [(regKey 3 0x040, 0x30000#32), (regKey 3 0x0DC, 0x10000#32)]}, [0x84#8, 3#8, 2#8, 0#8, 0#8, 0#8, 0#8, 0#8], 0#8, 0, by decide +kernel⟩,
   ⟨3, {wUp with regs := [(regKey 3 0x0DC, 0x310005#32)]}, by decide +kernel⟩,
   ⟨.hart 0, wUp, by decide +kernel⟩,
   ⟨{wUp with monument := {busy := some ⟨0#32, 0, 0, false, [], []⟩}}, ⟨0#32, 0, 0, false, [], []⟩, by decide +kernel⟩⟩

/-- The hypotheses of every clause of AvsBusCompletes can be met. -/
theorem witness_avsBusCompletes :
    (∃ (sel : Fin 16) (r : Nat) (s : State), r ∈ avsRails s sel) ∧
    (∃ (sel : Fin 16) (r : Nat) (s : State), avsReader s sel = some r) ∧
    (∃ (sel : Fin 16) (r : Nat) (s : State), r ∈ avsRails s sel) ∧
    (∃ (sel : Fin 16) (r : Nat) (s : State), avsReader s sel = some r) ∧
    (∃ (sel : Fin 16) (r : Nat) (s : State), avsReader s sel = some r) ∧
    (∃ (sel : Fin 16) (r : Nat) (s : State), avsReader s sel = some r) ∧
    (∃ (sel : Fin 16) (r : Nat) (s : State), r ∈ avsRails s sel) ∧
    (∃ (sel : Fin 16) (r : Nat) (s : State), r ∈ avsRails s sel) ∧
    (∃ (sel : Fin 16) (r : Nat) (s : State), avsReader s sel = some r) ∧
    (∃ (sel : Fin 16) (s : State), (avsRails s sel).isEmpty = false) ∧
    (∃ (sel : Fin 16) (s : State), (avsRails s sel).isEmpty = false) ∧
    (∃ (sel : Fin 16) (s : State), (avsRails s sel).isEmpty = false) ∧
    (∃ (sel : Fin 16) (s : State), (avsRails s sel).isEmpty = false) ∧
    (∃ (sel : Fin 16) (s : State), (avsRails s sel).isEmpty = false) ∧
    (∃ (sel : Fin 16) (r : Nat) (s : State), avsReader s sel = some r) :=
  ⟨⟨3, 2, {wUp with regs := [(regKey 2 0x0D8, 3#32)]}, by decide +kernel⟩,
   ⟨0, 0, {wUp with rails := [(0, {target := 0x3F800000#32})]}, by decide +kernel⟩,
   ⟨3, 2, {wUp with regs := [(regKey 2 0x0D8, 3#32)]}, by decide +kernel⟩,
   ⟨0, 0, {wUp with regs := [(regKey 0 0x08C, 0x40800000#32)]}, by decide +kernel⟩,
   ⟨0, 0, {wUp with rails := [(0, {iout := 0x3F800000#32})]}, by decide +kernel⟩,
   ⟨0, 0, {wUp with therm := {max := -40}}, by decide +kernel⟩,
   ⟨15, 2, {wUp with regs := [(regKey 2 0x0D8, 0x13#32)]}, by decide +kernel⟩,
   ⟨3, 2, {wUp with regs := [(regKey 2 0x0D8, 3#32)], rails := [(2, {alert := true})]}, by decide +kernel⟩,
   ⟨0, 0, {wUp with rails := [(0, {avsDone := true, pg := true, st := 5})]}, by decide +kernel⟩,
   ⟨0, wUp, by decide +kernel⟩,
   ⟨0, wUp, by decide +kernel⟩,
   ⟨0, wUp, by decide +kernel⟩,
   ⟨0, wUp, by decide +kernel⟩,
   ⟨0, wUp, by decide +kernel⟩,
   ⟨0, 0, wUp, by decide +kernel⟩⟩

/-- The hypotheses of every clause of PmBusCompletes can be met. -/
theorem witness_pmBusCompletes :
    (∃ (addr : BitVec 7) (v : Byte) (s : State), pmbMine s addr = true ∧ v.toNat ≤ 3) ∧
    (∃ (addr : BitVec 7) (v : Byte) (s : State), pmbMine s addr = true ∧ v.toNat / 64 = 0 ∧
      rdf s (regKey s.cmdPorts.page 0x040) 16 3 = 2 ∧ rdb s (regKey s.cmdPorts.page 0x040) 21 = false) ∧
    (∃ (addr : BitVec 7) (s : State), pmbMine s addr = true) ∧
    (∃ (addr : BitVec 7) (s : State), pmbMine s addr = true) ∧
    (∃ (addr : BitVec 7) (s : State), pmbMine s addr = true ∧ rdf s (regKey s.cmdPorts.page 0x040) 16 3 = 2) ∧
    (∃ (addr : BitVec 7) (s : State), pmbMine s addr = true) ∧
    (∃ (addr : BitVec 7) (s : State), pmbMine s addr = true) ∧
    (∃ (addr : BitVec 7) (s : State), pmbMine s addr = true) ∧
    (∃ (addr : BitVec 7) (s : State), pmbMine s addr = true) ∧
    (∃ (s : State), live s .reg = true ∧ s.cmdPorts.alert = true) :=
  ⟨⟨0x40#7, 3#8, {wUp with regs := [(regKey 0 0x108, 0xC0#32)]}, by decide +kernel⟩,
   ⟨0x40#7, 3#8, {wUp with regs := [(regKey 0 0x040, 0x20000#32), (regKey 0 0x108, 0xC0#32)], rails := [(0, {st := 2})]}, by decide +kernel⟩,
   ⟨0x40#7, {wUp with regs := [(regKey 0 0x010, 0x55#32), (regKey 0 0x108, 0xC0#32)]}, by decide +kernel⟩,
   ⟨0x40#7, {wUp with regs := [(regKey 0 0x108, 0x14C0#32)]}, by decide +kernel⟩,
   ⟨0x40#7, {wUp with regs := [(regKey 0 0x040, 0x20000#32), (regKey 0 0x108, 0x14C0#32)]}, by decide +kernel⟩,
   ⟨0x40#7, {wUp with regs := [(regKey 0 0x108, 0x14C0#32)], rails := [(0, {st := 5, cause := 6})]}, by decide +kernel⟩,
   ⟨0x40#7, {wUp with regs := [(regKey 0 0x108, 0x14C0#32)], rails := [(0, {vout := 0x3F800000#32})]}, by decide +kernel⟩,
   ⟨0x40#7, {wUp with regs := [(regKey 0 0x108, 0x14C0#32)], rails := [(0, {iout := 0x3F800000#32})]}, by decide +kernel⟩,
   ⟨0x40#7, {wUp with regs := [(regKey 0 0x108, 0x14C0#32)]}, by decide +kernel⟩,
   ⟨{wUp with cmdPorts := {alert := true}, regs := [(regKey 0 0x108, 0x14C0#32)]}, by decide +kernel⟩⟩

/-- The hypotheses of every clause of MeteringCompletes can be met. -/
theorem witness_meteringCompletes :
    (∃ (m : Master) (p : Fin 4) (s : State), reaches s m .mtr 0x050 = true ∧ (meter s p).st = 0 ∧ mtrRules s p = true) ∧
    (∃ (m : Master) (s : State), reaches s m .mtr 0x050 = true) ∧
    (∃ (m : Master) (p : Fin 4) (s : State), reaches s m .mtr 0x050 = true ∧ s.pw.lockout = false ∧ 2 ≤ s.pw.level ∧
      stagingFull s = false ∧ rdf s (mtrKey p 0x058) 0 3 ≠ 7 ∧ (meter s p).st ≠ 0) ∧
    (∃ (p : Fin 4) (s : State), live s .mtr = true ∧ (meter s p).st ≠ 0) ∧
    (∃ (p : Fin 4) (s : State) (c : MtrCyc) (cs : List MtrCyc), live s .mtr = true ∧ (meter s p).ended = c :: cs) ∧
    (∃ (p : Fin 4) (s : State), live s .mtr = true ∧ (((meter s p).st = 1 ∨ (meter s p).st = 2))) ∧
    (∃ (p : Fin 4) (s : State), live s .mtr = true ∧ (meter s p).pend ≠ 0 ∧ (meter s p).pulse = none ∧ rdf s (mtrKey p 0x064) 4 3 ≠ 0) ∧
    (∃ (p : Fin 4) (s : State) (a : Nat), (meter s p).pulse = some a) ∧
    (∃ (s : State), pageUp s .mtr 0x100 = true) ∧
    (∃ (s : State), pageUp s .mtr 0x080 = true) :=
  ⟨⟨.hart 0, 3, {wUp with regs := [(mtrKey 3 0x040, 0x1#32), (mtrKey 3 0x044, 0x3F800000#32), (chKey 3 0 0, 0x3F800000#32), (chKey 3 0 8, 0x1#32), (chKey 3 0 0x10, 0x3F800000#32), (chKey 3 2 0, 0x3F800000#32), (chKey 3 2 8, 0x1#32), (chKey 3 2 0x10, 0x3F800000#32), (chKey 3 3 0, 0x3F800000#32), (chKey 3 3 8, 0x1#32), (chKey 3 3 0x10, 0x3F800000#32), (chKey 3 5 0, 0x3F800000#32), (chKey 3 5 8, 0x1#32), (chKey 3 5 0x10, 0x3F800000#32)]}, by decide +kernel⟩,
   ⟨.hart 0, {wUp with meters := [(3, {st := 2})]}, by decide +kernel⟩,
   ⟨.hart 0, 3, {wUp with meters := [(3, {st := 2})], regs := [(mtrKey 3 0x05C, 7#32)]}, by decide +kernel⟩,
   ⟨3, {wUp with meters := [(3, {st := 1})]}, by decide +kernel⟩,
   ⟨3, {wUp with meters := [(3, {st := 2, ended := [⟨65536, 9, [], [], 0, [], [], true, false, false, false, []⟩]})]}, ⟨65536, 9, [], [], 0, [], [], true, false, false, false, []⟩, [], by decide +kernel⟩,
   ⟨3, {wUp with meters := [(3, {st := 2})]}, by decide +kernel⟩,
   ⟨3, {wUp with meters := [(3, {pend := 2, pulseEnd := some 9})], regs := [(mtrKey 3 0x064, 0x510#32)]}, by decide +kernel⟩,
   ⟨3, {wUp with meters := [(3, {pulse := some 4})], regs := [(mtrKey 3 0x064, 0x510#32)]}, 4, by decide +kernel⟩,
   ⟨{wUp with meters := [(3, {accs := [(6, 0x1234567890ABCDEF0123)]})]}, by decide +kernel⟩,
   ⟨{wUp with meters := [(3, {latest := [7, 8, 9]})]}, by decide +kernel⟩⟩

/-- The hypotheses of every clause of LinksComplete can be met. -/
theorem witness_linksComplete :
    (∃ (r : Fin 2) (s : State), live s .ring = true ∧ (link s r).sync = false) ∧
    (∃ (r : Fin 2) (s : State), live s .ring = true ∧ (link s r).sync = true) ∧
    (∃ (r : Fin 2) (s : State), live s .ring = true ∧ (link s r).link ≠ 2 ∧ (link s r).sync = false) ∧
    (∃ (r : Fin 2) (s : State) (a : Nat), live s .ring = true ∧ (link s r).link ≠ 2 ∧ (link s r).rfault = some a) ∧
    (∃ (r : Fin 2) (n : Nat) (s : State), live s .ring = true ∧ (link s r).link ≠ 2 ∧ rdf s (ringKey r 0x048) 8 8 ≠ 0 ∧
      rdf s (ringKey r 0x048) 8 8 ≤ n) ∧
    (∃ (r : Fin 2) (s : State) (a : Nat), live s .ring = true ∧ (link s r).clean = some a ∧ (link s r).sync = true ∧
      (link s r).rfault = none) ∧
    (∃ (r : Fin 2) (s : State), live s .ring = true ∧ (link s r).sync = true) ∧
    (∃ (r : Fin 2) (s : State), live s .ring = true ∧ (link s r).sync = true) ∧
    (∃ (r : Fin 2) (s : State), live s .ring = true ∧ (link s r).wrap = true ∧ (link s r).unwrap = true) ∧
    (∃ (m : Master) (r : Fin 2) (s : State), reaches s m .ring 0x044 = true ∧ (link s r).sync = true ∧ (link s r).wrap = true) ∧
    (∃ (m : Master) (r : Fin 2) (s : State), reaches s m .ring 0x044 = true ∧ (link s r).joined = false ∧ (link s r).probe = false ∧
      (link s r).probeEnd = none ∧ joinRefused s r = false) ∧
    (∃ (m : Master) (s : State), reaches s m .ring 0x044 = true) ∧
    (∃ (r : Fin 2) (o : Bool) (s : State), live s .ring = true ∧ (link s r).fordTo = some o ∧ (link s r).rx = none) ∧
    (∃ (r : Fin 2) (s : State) (a : Nat), live s .ring = true ∧ (link s r).probeEnd = some a) :=
  ⟨⟨1, wUp, by decide +kernel⟩,
   ⟨1, {wUp with rings := {b := {sync := true}}}, by decide +kernel⟩,
   ⟨1, {wUp with rings := {b := {link := 1}}, regs := [(ringKey 1 0x040, 0x200#32)]}, by decide +kernel⟩,
   ⟨1, {wUp with rings := {b := {link := 1, rfault := some 4}}}, 4, by decide +kernel⟩,
   ⟨1, 9, {wUp with rings := {b := {link := 1}}, regs := [(ringKey 1 0x048, 0x900#32)]}, by decide +kernel⟩,
   ⟨1, {wUp with rings := {b := {sync := true, clean := some 7}}}, 7, by decide +kernel⟩,
   ⟨1, {wUp with rings := {b := {sync := true}}}, by decide +kernel⟩,
   ⟨1, {wUp with rings := {b := {sync := true, rfault := some 4}}}, by decide +kernel⟩,
   ⟨1, {wUp with rings := {b := {wrap := true, unwrap := true}}}, by decide +kernel⟩,
   ⟨.hart 0, 1, {wUp with rings := {b := {sync := true, wrap := true}}}, by decide +kernel⟩,
   ⟨.hart 0, 1, {wUp with rings := {b := {sync := true}}, regs := [(ringKey 1 0x040, 0x7#32)]}, by decide +kernel⟩,
   ⟨.hart 0, {wUp with rings := {b := {ford := true, probe := true}}}, by decide +kernel⟩,
   ⟨1, false, {wUp with rings := {b := {ford := true, fordTo := some false}}}, by decide +kernel⟩,
   ⟨1, {wUp with rings := {b := {probeEnd := some 5}}}, 5, by decide +kernel⟩⟩

/-- The hypotheses of every clause of CellsAndModulesComplete can be met. -/
theorem witness_cellsAndModulesComplete :
    (∃ (r : Fin 2) (hdr : List Byte) (s : State), live s .ring = true ∧ (link s r).ford = true ∧ (link s r).sync = true ∧
      (link s r).rx = none ∧ hdr.length = 12 ∧ hcrcOk hdr = true) ∧
    (∃ (r : Fin 2) (hdr : List Byte) (s : State), live s .ring = true ∧ (link s r).ford = true ∧ (link s r).sync = true ∧
      (link s r).rx = none ∧ hdr.length = 12 ∧ hcrcOk hdr = false) ∧
    (∃ (r : Fin 2) (s : State), live s .ring = true ∧ (link s r).sync = true ∧ (link s r).rx.isSome = true) ∧
    (∃ (r : Fin 2) (s : State), live s .ring = true ∧ (link s r).ford = true ∧ (link s r).probe = true) ∧
    (∃ (r : Fin 2) (s : State) (n : Nat), live s .ring = true ∧ (link s r).ford = true ∧ (link s r).probe = false ∧ (link s r).ctl = [] ∧
      (link s (physTx s r)).freeAt ≤ s.now ∧ topStream s r (readyStreams s r s.now) = some n ∧
        readyCell s n r s.now = some (rstream s n).unack.length) ∧
    (∃ (m : Master) (s : State), reaches s m .ring 0x0D4 = true) ∧
    (∃ (s : State), pageUp s .ring 0x0D4 = true) ∧
    (∃ (s : State), live s .ring = true) ∧
    (∃ (r : Fin 2) (bs : List Byte) (s : State), live s .ring = true ∧ rdf s (ringKey r 0x070) 0 16 ≠ 0 ∧ 2 ≤ bs.length) ∧
    (∃ (m : Master) (s : State), reaches s m .ring 0x070 = true) ∧
    (∃ (s : State), pageUp s .ring 0x07C = true) :=
  ⟨⟨1, [0x10#8, 0#8, 0#8, 0#8, 5#8, 0#8, 0#8, 0#8, 0#8, 0#8, 0x36#8, 0xAE#8], {wUp with rings := {b := {ford := true, sync := true}}}, by decide +kernel⟩,
   ⟨1, List.replicate 12 1#8, {wUp with rings := {b := {ford := true, sync := true}}}, by decide +kernel⟩,
   ⟨1, {wUp with rings := {b := {sync := true, rx := some ⟨List.replicate 12 0#8, 0, true, none, [], 0⟩}}}, by decide +kernel⟩,
   ⟨1, {wUp with rings := {b := {ford := true, probe := true}}}, by decide +kernel⟩,
   ⟨1, {wUp with rings := {b := {ford := true, joined := true}, streams := [(9, {cfg := 0x401#32, buf := 0x40000#32, st := 2, put := 1})]}}, 9, by decide +kernel⟩,
   ⟨.hart 0, {wUp with regs := [(ringKey 0 0x0D0, 0xFFFF#32)]}, by decide +kernel⟩,
   ⟨{wUp with regs := [(ringKey 0 0x0D0, 0xFFFF#32)]}, by decide +kernel⟩,
   ⟨wUp, by decide +kernel⟩,
   ⟨1, [0x12#8, 0x34#8, 0#8, 0#8, 0#8, 0#8, 0#8, 0#8, 0#8, 0#8, 0#8, 0#8, 0#8, 0#8, 0#8, 0#8, 0xFF#8, 0xFF#8], {wUp with regs := [(ringKey 1 0x070, 5#32), (ringKey 1 0x074, 3#32)]}, by decide +kernel⟩,
   ⟨.hart 0, wUp, by decide +kernel⟩,
   ⟨{wUp with regs := [(ringKey 1 0x078, 511#32)]}, by decide +kernel⟩⟩

/-- The hypotheses of every clause of StreamsComplete can be met. -/
theorem witness_streamsComplete :
    (∃ (m : Master) (s : State), reaches s m .ring 0x0C0 = true ∧ (rstream s (selStream s)).st = 0 ∧
      openRefused (rstream s (selStream s)) = false) ∧
    (∃ (m : Master) (s : State), reaches s m .ring 0x0C0 = true) ∧
    (∃ (m : Master) (s : State), reaches s m .ring 0x0C0 = true ∧ (rstream s (selStream s)).st ≠ 0) ∧
    (∃ (m : Master) (v : BitVec 8) (s : State), reaches s m .ring 0x0BC = true ∧ (rstream s (selStream s)).dir = 1 ∧
      v.toNat < (rstream s (selStream s)).size) ∧
    (∃ (m : Master) (v : BitVec 8) (s : State), reaches s m .ring 0x0BC = true ∧ (rstream s (selStream s)).dir = 2 ∧
      v.toNat < (rstream s (selStream s)).size) ∧
    (∃ (n : Fin 1024) (s : State) (a : Nat), live s .ring = true ∧ (rstream s n).ackAt = some a) ∧
    (∃ (n : Fin 1024) (s : State) (a : Nat), live s .ring = true ∧ (rstream s n).gap = some a ∧
      (((rstream s n).st = 1 ∨ (rstream s n).st = 2)) ∧ bit (rstream s n).cfg 15 = false ∧ gatewayPeer s n = none) ∧
    (∃ (n : Fin 1024) (s : State) (a : Nat), live s .ring = true ∧ (rstream s n).fullAt = some a ∧
      (((rstream s n).st = 1 ∨ (rstream s n).st = 2)) ∧ bit (rstream s n).cfg 15 = false ∧ gatewayPeer s n = none) ∧
    (∃ (n : Fin 1024) (s : State) (u : Unacked) (us : List Unacked), live s .ring = true ∧ (rstream s n).unack = u :: us ∧
      (rstream s n).st = 2 ∧ (rstream s n).retries = true ∧ u.again = [] ∧
        (((u :: us).filter fun u => u.again.isEmpty).all fun u => decide (u.retx < fld (rstream s n).retry 8 4)) = true) ∧
    (∃ (n : Fin 1024) (s : State), live s .ring = true ∧ (rstream s n).dir = 1 ∧ (rstream s n).st = 1) :=
  ⟨⟨.hart 0, {wUp with rings := {streams := [(0, {cfg := 1#32, buf := 0x40000#32})]}}, by decide +kernel⟩,
   ⟨.hart 0, {wUp with rings := {streams := [(0, {st := 2, cfg := 1#32, buf := 0x40000#32})]}}, by decide +kernel⟩,
   ⟨.hart 0, {wUp with rings := {streams := [(0, {st := 3, cfg := 1#32, buf := 0x40000#32})]}}, by decide +kernel⟩,
   ⟨.hart 0, 3#8, {wUp with rings := {streams := [(0, {st := 2, cfg := 1#32, buf := 0x40000#32})]}}, by decide +kernel⟩,
   ⟨.hart 0, 3#8, {wUp with rings := {streams := [(0, {st := 2, cfg := 2#32, buf := 0x40000#32, occ := 4, held := [0]})]}}, by decide +kernel⟩,
   ⟨1023, {wUp with rings := {streams := [(1023, {st := 2, cfg := 2#32, ackAt := some 6})]}}, 6, by decide +kernel⟩,
   ⟨1023, {wUp with rings := {streams := [(1023, {st := 2, cfg := 2#32, gap := some 6})]}}, 6, by decide +kernel⟩,
   ⟨1023, {wUp with rings := {streams := [(1023, {st := 2, cfg := 2#32, fullAt := some 6})]}}, 6, by decide +kernel⟩,
   ⟨1023, {wUp with rings := {streams := [(1023, {st := 2, cfg := 0x101#32, retry := 0x10304#32, unack := [⟨4, 9, 0, []⟩]})]}}, ⟨4, 9, 0, []⟩, [], by decide +kernel⟩,
   ⟨1023, {wUp with rings := {streams := [(1023, {st := 1, cfg := 0x1#32, retry := 0x10304#32})]}}, by decide +kernel⟩⟩

/-- The hypotheses of every clause of DatumCompletes can be met. -/
theorem witness_datumCompletes :
    (∃ (m : Master) (v : Word) (s : State), reaches s m .datum 0x040 = true ∧ levelOk s (datKey 0x040) = true ∧ stagingFull s = false ∧
      rdb s (datKey 0x040) 0 = false ∧ bit v 0 = true ∧ s.datum.st = .off) ∧
    (∃ (s : State), live s .ring = true ∧ s.datum.st ≠ .off) ∧
    (∃ (r : Fin 2) (s : State) (d : DatumIn), (takeInbox r 1 s).1 = some d ∧ d.bad = false ∧ s.datum.st ≠ .off) ∧
    (∃ (r : Fin 2) (s : State) (d : DatumIn) (e : Nat × Nat × Nat × Nat), (takeInbox r 2 s).1 = some d ∧ d.bad = false ∧
      s.datum.st ≠ .off ∧ ((side s r).sent.find? fun e => e.1 = beAt d.bytes 6 2) = some e ∧ d.soc ≤ e.2.2.1 + 4 * msec ∧
        e.2.2.2 = d.breaks ∧ 0 < stampSpan e.2.1 d.stamp - stampSpan (stampField d.bytes 28) (stampField d.bytes 8) ∧
          (side s r).acc < 8) ∧
    (∃ (s : State), live s .ring = true ∧ s.datum.st ≠ .off ∧ s.datum.st ≠ .benchmark ∧ nodeRank s ≠ 0) ∧
    (∃ (m : Master) (s : State) (c : CycRec) (d : Nat), reaches s m .datum 0x07C = true ∧ s.datum.st = .benchmark ∧
      s.datum.cyc = some c ∧ c.nextLen = 0 ∧ 160000 ≤ (rd s (datKey 0x068)).toNat ∧ (rd s (datKey 0x068)).toNat ≤ 16000000 ∧
        untilCycle s (rd s (datKey 0x06C)).toNat = some d ∧ 1600000000 ≤ d) ∧
    (∃ (m : Master) (s : State), reaches s m .datum 0x07C = true ∧ s.datum.st = .benchmark ∧
      datumNow s ≤ (rd s (datKey 0x074)).toNat + (rd s (datKey 0x078)).toNat * 2 ^ 32) ∧
    (∃ (m : Master) (s : State), reaches s m .datum 0x07C = true ∧ s.datum.st = .track) ∧
    (∃ (s : State), pageUp s .datum 0x084 = true) :=
  ⟨⟨.hart 0, 0x10001#32, wUp, by decide +kernel⟩,
   ⟨{wUp with datum := {st := .acquire, nextEx := 77}, rings := {a := {joined := true, link := 1}}}, by decide +kernel⟩,
   ⟨1, {wUp with datum := {st := .acquire}, rings := {inbox := [⟨1, [0x10#8, 1#8], false, 5, 6, 5, 0⟩]}}, ⟨1, [0x10#8, 1#8], false, 5, 6, 5, 0⟩, by decide +kernel⟩,
   ⟨1, {wUp with datum := {st := .acquire, sideB := {sent := [(0, 4, 9, 0)]}}, rings := {inbox := [⟨1, [0x20#8, 1#8], false, 500, 6, 6, 0⟩]}}, ⟨1, [0x20#8, 1#8], false, 500, 6, 6, 0⟩, (0, 4, 9, 0), by decide +kernel⟩,
   ⟨{wUp with datum := {st := .acquire}, regs := [(datKey 0x040, 0x10101#32)]}, by decide +kernel⟩,
   ⟨.hart 0, {wUp with datum := {st := .benchmark, cyc := some {}}, regs := [(datKey 0x068, 0x27100#32), (datKey 0x06C, 0x800#32)]}, {}, 0x800 * 16000000, by decide +kernel⟩,
   ⟨.hart 0, {wUp with datum := {st := .benchmark}, regs := [(datKey 0x074, 7#32), (datKey 0x078, 9#32)]}, by decide +kernel⟩,
   ⟨.hart 0, {wUp with datum := {st := .track, good := 9}}, by decide +kernel⟩,
   ⟨{wUp with datum := {st := .benchmark, base := 0x123456789ABCDEF00000}}, by decide +kernel⟩⟩

/-- The hypotheses of every clause of SafePowerOffCompletes can be met. -/
theorem witness_safePowerOffCompletes :
    (∃ (m : Master) (s : State), reaches s m .plumb 0x04C = true ∧ heldBehind s m false = false) ∧
    (∃ (m : Master) (s : State), reaches s m .plumb 0x04C = true ∧ heldBehind s m false = false ∧ s.plumb.active = 0 ∧
      stagingFull s = false ∧ s.plumb.spo = true) ∧
    (∃ (s : State), s.plumb.selftest = true) ∧
    (∃ (s : State) (a : Nat), s.plumb.frozen = some a ∧ s.holds.frozen = true) ∧
    (∃ (s : State), s.plumb.selftest = true) ∧
    (∃ (s : State), s.plumb.selftest = true) ∧
    (∃ (s : State), s.plumb.selftest = false ∧ s.pwr.reset ≠ some .powerOn) ∧
    (∃ (s : State) (m : Master) (off : Nat) (v : Word) (q : Option Nat) (rest : List Handed), s.plumb.handed = ⟨m, plKey off, v, true, true, q⟩ :: rest ∧ rest.all (·.guarded) = true ∧ 0x040 ≤ off ∧ off < 0x1000 ∧ off ≠ 0x088) :=
  ⟨⟨.hart 0, {wUp with plumb := {wUp.plumb with spo := false, active := 0, seen := 0}}, by decide +kernel⟩,
   ⟨.hart 0, {wUp with plumb := {wUp.plumb with spo := true, active := 0, seen := 3}}, by decide +kernel⟩,
   ⟨{wUp with plumb := {wUp.plumb with selftest := true}}, by decide +kernel⟩,
   ⟨{wUp with plumb := {wUp.plumb with spo := false, active := 0, frozen := some 4}, holds := {frozen := true}}, 4, by decide +kernel⟩,
   ⟨{wUp with plumb := {wUp.plumb with selftest := true}}, by decide +kernel⟩,
   ⟨{wUp with plumb := {wUp.plumb with selftest := true}}, by decide +kernel⟩,
   ⟨{wUp with plumb := {wUp.plumb with selftest := false}}, by decide +kernel⟩,
   ⟨{wUp with plumb := {wUp.plumb with handed := [⟨.hart 1, plKey 0x060, 0x55#32, true, true, some 3⟩, ⟨.hart 1, plKey 0x060, 0x56#32, true, true, none⟩]}}, .hart 1, 0x060, 0x55#32, some 3, [⟨.hart 1, plKey 0x060, 0x56#32, true, true, none⟩], by decide +kernel⟩⟩

/-- The hypotheses of every clause of InputsAndSaddleComplete can be met. -/
theorem witness_inputsAndSaddleComplete :
    (∃ (i : Fin 4) (s : State) (a : Nat), (safeIn s i).disagree = some a ∧ (safeIn s i).disc = false ∧ sinMode s i = 1) ∧
    (∃ (c : Fin 2) (i : Fin 8) (s : State), (scanConv s c).faulty = false ∧ inMask s c i = true) ∧
    (∃ (c : Fin 2) (s : State), (scanConv s c).faulty = false) ∧
    (∃ (m : Master) (s : State), reaches s m .plumb 0x0FC = true ∧ heldBehind s m false = false ∧ stagingFull s = false) ∧
    (∃ (m : Master) (s : State), reaches s m .plumb 0x0FC = true ∧ heldBehind s m false = false ∧ stagingFull s = false) ∧
    (∃ (m : Master) (s : State), reaches s m .plumb 0x0FC = true ∧ heldBehind s m false = false ∧ stagingFull s = false ∧
      s.plumb.saddle = .expired ∧ saddleActive s = false ∧ s.pw.level ≠ 0 ∧ s.plumb.spo = true) ∧
    (∃ (s : State), s.plumb.selftest = true) ∧
    (∃ (s : State), inSaddle s = true) ∧
    (∃ (s : State), s.plumb.saddle = .clearing ∧ saddleActive s = false ∧
      max s.now (s.plumb.cleanAt + saddleClean s) < s.plumb.sadAt + saddleMax s ∧
        ((rdb s (plKey 0x0F0) 8 = true ∨ s.plumb.exitReq = true))) :=
  ⟨⟨3, {wUp with regs := [(plKey 0x060, 0x40#32)], sins := [(3, {a := true, disagree := some 8})]}, 8, by decide +kernel⟩,
   ⟨1, 7, {wUp with regs := [(plKey 0x090, 0x8000#32)]}, by decide +kernel⟩,
   ⟨1, wUp, by decide +kernel⟩,
   ⟨.hart 0, wUp, by decide +kernel⟩,
   ⟨.hart 0, {wUp with plumb := {wUp.plumb with causes := 1#32}}, by decide +kernel⟩,
   ⟨.hart 0, {wUp with plumb := {wUp.plumb with saddle := .expired}}, by decide +kernel⟩,
   ⟨{wUp with plumb := {wUp.plumb with selftest := true, causes := 1#32}, regs := [(plKey 0x0F0, 1#32)]}, by decide +kernel⟩,
   ⟨{wUp with plumb := {wUp.plumb with saddle := .active, sadAt := 6}}, by decide +kernel⟩,
   ⟨{wUp with plumb := {wUp.plumb with saddle := .clearing, exitReq := true}, regs := [(plKey 0x0F8, 9#32)]}, by decide +kernel⟩⟩

/-- The hypotheses of every clause of ContactorsComplete can be met. -/
theorem witness_contactorsComplete :
    (∃ (m : Master) (n : Fin 4) (s : State), reaches s m .plumb 0x084 = true ∧ heldBehind s m false = false ∧ (sout s n).st = .open ∧
      rdb s (plKey (0x070 + 4 * n)) 0 = true ∧ s.plumb.spo = false ∧ soutActed s n = false ∧ soutHeldOpen s n = false ∧
        s.plumb.saddle ≠ .expired) ∧
    (∃ (m : Master) (n : Fin 4) (s : State), reaches s m .plumb 0x084 = true ∧ heldBehind s m false = false ∧
      (((sout s n).st = .closing ∨ (sout s n).st = .closed))) ∧
    (∃ (m : Master) (n : Fin 4) (s : State), reaches s m .plumb 0x084 = true ∧ heldBehind s m false = false ∧ (sout s n).st = .fault ∧
      (sout s n).readback = false ∧ mirrorClosed s n = false) ∧
    (∃ (m : Master) (n : Fin 4) (s : State), reaches s m .plumb 0x084 = true ∧ heldBehind s m false = false ∧ (sout s n).st = .closed ∧
      testLen s n ≠ 0 ∧ (sout s n).pulseEnd = none ∧ (sout s n).recovEnd = none) ∧
    (∃ (n : Fin 4) (s : State), (sout s n).st = .closing) ∧
    (∃ (n : Fin 4) (s : State) (a : Nat), (sout s n).testAt = some a ∧ (sout s n).st = .closed ∧ testLen s n ≠ 0 ∧
      (sout s n).pulseEnd = none ∧ (sout s n).recovEnd = none) ∧
    (∃ (n : Fin 4) (s : State) (a : Nat), (sout s n).pulseEnd = some a) ∧
    (∃ (n : Fin 4) (s : State) (a : Nat), (sout s n).recovEnd = some a) :=
  ⟨⟨.hart 0, 3, {wUp with plumb := {wUp.plumb with spo := false, active := 0}, regs := [(plKey 0x07C, 1#32)]}, by decide +kernel⟩,
   ⟨.hart 0, 3, {wUp with souts := [(3, {st := .closed, energised := true, pulseEnd := some 4})]}, by decide +kernel⟩,
   ⟨.hart 0, 3, {wUp with souts := [(3, {st := .fault, testFault := true})]}, by decide +kernel⟩,
   ⟨.hart 0, 3, {wUp with souts := [(3, {st := .closed, energised := true})], regs := [(plKey 0x07C, 0x10800#32)]}, by decide +kernel⟩,
   ⟨3, {wUp with souts := [(3, {st := .closing, energised := true, closeBy := 12})]}, by decide +kernel⟩,
   ⟨3, {wUp with souts := [(3, {st := .closed, energised := true, testAt := some 5})], regs := [(plKey 0x07C, 0x10800#32)]}, 5, by decide +kernel⟩,
   ⟨3, {wUp with souts := [(3, {st := .closed, pulseEnd := some 5})]}, 5, by decide +kernel⟩,
   ⟨3, {wUp with souts := [(3, {st := .closed, recovEnd := some 5})], regs := [(plKey 0x07C, 0x400#32)]}, 5, by decide +kernel⟩⟩

/-- The hypotheses of every clause of PlumbChannelCompletes can be met. -/
theorem witness_plumbChannelCompletes :
    (∃ (m : Master) (c : Fin 8) (s : State), reaches s m .pch 0x110 = true ∧ heldBehind s m true = false ∧ (conn s c).st ≠ 1 ∧
      (conn s c).st ≠ 2 ∧ (if isProducer s c then rdf s (connKey c 0x0C) 0 16 else rdf s (connKey c 8) 0 16) ≠ 0) ∧
    (∃ (m : Master) (c : Fin 8) (s : State), reaches s m .pch 0x110 = true ∧ heldBehind s m true = false ∧
      (((conn s c).st = 1 ∨ (conn s c).st = 2))) ∧
    (∃ (c : Fin 8) (s : State), live s .ring = true ∧ isProducer s c = true ∧ (conn s c).st = 2) ∧
    (∃ (c : Fin 8) (s : State) (x : List Byte × Byte × Nat), live s .ring = true ∧ isProducer s c = false ∧ connStreamOk s c = true ∧
      (streamTake (connStream s c) s).1 = some x ∧ (conn s c).st = 2 ∧
        plumbCrc ((padTo 48 x.1).take 44) = wNat (beAt (padTo 48 x.1) 44 4) ∧ beAt (padTo 48 x.1) 0 4 = (rd s (connKey c 4)).toNat ∧
          cellByte (padTo 48 x.1) 16 = 1 ∧ wNat (beAt (padTo 48 x.1) 4 4) = (conn s c).seq ∧ timeOk s c (padTo 48 x.1) = true) ∧
    (∃ (c : Fin 8) (s : State), (conn s c).st = 2 ∧ isProducer s c = false) :=
  ⟨⟨.hart 0, 7, {wUp with regs := [(connKey 7 8, 5#32)]}, by decide +kernel⟩,
   ⟨.hart 0, 7, {wUp with conns := [(7, {st := 2, safe := 0})]}, by decide +kernel⟩,
   ⟨7, {wUp with conns := [(7, {st := 2, first := false, seq := 0xFFFFFFFF#32})], regs := [(connKey 7 0, 0x8001#32)]}, by decide +kernel⟩,
   ⟨7, wMsgState, (wMsg, 0#8, 0), by decide +kernel⟩,
   ⟨7, {wUp with conns := [(7, {st := 2, wdEnd := 40})]}, by decide +kernel⟩⟩

/-- The hypotheses of every clause of PasswordsComplete can be met. -/
theorem witness_passwordsComplete :
    (∃ (m : Master) (len : BitVec 6) (h : List Word) (s : State), reaches s m .plumb 0x114 = true ∧ heldBehind s m false = false ∧
      stagingFull s = false ∧ s.pw.lockout = false ∧ 8 ≤ len.toNat ∧ len.toNat ≤ 32 ∧ s.pw.siteHash = some h ∧ pwHash s len.toNat = h) ∧
    (∃ (m : Master) (len : BitVec 6) (h : List Word) (s : State), reaches s m .plumb 0x114 = true ∧ heldBehind s m false = false ∧
      stagingFull s = false ∧ s.pw.lockout = false ∧ 8 ≤ len.toNat ∧ len.toNat ≤ 32 ∧ s.pw.makerHash = some h ∧ pwHash s len.toNat = h) ∧
    (∃ (m : Master) (s : State), reaches s m .plumb 0x114 = true ∧ heldBehind s m false = false ∧ stagingFull s = false ∧
      s.pw.lockout = false ∧ s.pw.makerHash = none) ∧
    (∃ (m : Master) (s : State), reaches s m .plumb 0x114 = true ∧ heldBehind s m false = false) ∧
    (∃ (m : Master) (len : BitVec 6) (s : State), reaches s m .plumb 0x114 = true ∧ heldBehind s m false = false ∧
      stagingFull s = false ∧ s.pw.lockout = false ∧ 8 ≤ len.toNat ∧ len.toNat ≤ 32 ∧ s.pw.level ≠ 0) ∧
    (∃ (m : Master) (len : BitVec 6) (s : State), reaches s m .plumb 0x114 = true ∧ heldBehind s m false = false ∧
      stagingFull s = false ∧ s.pw.lockout = false ∧ 8 ≤ len.toNat ∧ len.toNat ≤ 32 ∧ s.pw.level = 2) ∧
    (∃ (m : Master) (s : State), reaches s m .plumb 0x110 = true ∧ heldBehind s m false = false ∧ s.pw.data.length < 8) ∧
    (∃ (s : State), rdf s (plKey 0x11C) 0 16 ≠ 0 ∧ s.pw.level ≠ 0) ∧
    (∃ (s : State), s.pw.lockout = true) ∧
    (∃ (s : State) (e : FbEnt) (es : List FbEnt), s.fb.staging = e :: es ∧ domOn s .nvm = true ∧ s.fb.waiting = []) ∧
    (∃ (s : State), pageUp s .plumb 0x128 = true) :=
  ⟨⟨.hart 0, 8#6, pwHash wUp 8, {wUp with pw := {wUp.pw with siteHash := some (pwHash wUp 8), level := 0}}, by decide +kernel⟩,
   ⟨.hart 0, 32#6, pwHash wUp 32, {wUp with pw := {wUp.pw with makerHash := some (pwHash wUp 32), level := 0}}, by decide +kernel⟩,
   ⟨.hart 0, {wUp with pw := {wUp.pw with level := 0}}, by decide +kernel⟩,
   ⟨.hart 0, wUp, by decide +kernel⟩,
   ⟨.hart 0, 9#6, wUp, by decide +kernel⟩,
   ⟨.hart 0, 9#6, wUp, by decide +kernel⟩,
   ⟨.hart 0, wUp, by decide +kernel⟩,
   ⟨{wUp with regs := [(plKey 0x11C, 7#32)]}, by decide +kernel⟩,
   ⟨{wUp with pw := {wUp.pw with lockout := true, lockEnd := 8}}, by decide +kernel⟩,
   ⟨{wUp with fb := {staging := [⟨1, 2, 3, 4, 5, 6, 7, 8#32, 9#32⟩], pos := 8191}}, ⟨1, 2, 3, 4, 5, 6, 7, 8#32, 9#32⟩, [], by decide +kernel⟩,
   ⟨{wUp with fb := {rword := 7}}, by decide +kernel⟩⟩

/-- The hypotheses of every clause of PairCommandsComplete can be met. -/
theorem witness_pairCommandsComplete :
    (∃ (m : Master) (v : Word) (s : State), reaches s m .pair 0x040 = true ∧ s.pw.lockout = false ∧ 2 ≤ s.pw.level ∧
      stagingFull s = false ∧ s.pair.st = 0 ∧ bit v 0 = true ∧ pairEnOk s v = true) ∧
    (∃ (m : Master) (v : Word) (s : State), reaches s m .pair 0x040 = true ∧ s.pw.lockout = false ∧ 2 ≤ s.pw.level ∧
      stagingFull s = false ∧ s.pair.st ≠ 0 ∧ bit v 0 = false) ∧
    (∃ (m : Master) (s : State), reaches s m .pair 0x090 = true ∧ pairOn s = true) ∧
    (∃ (m : Master) (s : State), reaches s m .pair 0x090 = true ∧ pairOn s = true) ∧
    (∃ (m : Master) (s : State), reaches s m .pair 0x090 = true ∧ pairOn s = true) ∧
    (∃ (m : Master) (s : State), reaches s m .pair 0x090 = true ∧ pairOn s = true) ∧
    (∃ (s : State), live s .ring = true ∧ s.pair.hbDue = true ∧ rdb s (pairKey 0x040) 3 = false) ∧
    (∃ (frame : List Byte) (s : State), live s .ring = true ∧ frameOk frame false = true ∧ cellByte frame 0 = 1) ∧
    (∃ (s : State) (c : List Byte × Byte × Nat), live s .ring = true ∧ rdb s (pairKey 0x040) 3 = true ∧ hbReceives s = true ∧
      (streamTake (rdf s (pairKey 0x050) 16 10) s).1 = some c) ∧
    (∃ (ring : Bool) (frame : List Byte) (bad : Bool) (s : State), live s .ring = true ∧ ring = false ∧ frameOk frame bad = false) ∧
    (∃ (ring : Bool) (a : Nat) (s : State), live s .ring = true ∧ (if ring then s.pair.ringAt else s.pair.linkAt) = some a) :=
  ⟨⟨.hart 0, 0x3#32, {wUp with regs := [(pairKey 0x044, 0x001E000A#32), (pairKey 0x054, 0x8#32)]}, by decide +kernel⟩,
   ⟨.hart 0, 0x2#32, {wUp with regs := [(pairKey 0x040, 0x3#32)], pair := {st := 4, own := true}}, by decide +kernel⟩,
   ⟨.hart 0, {wUp with regs := [(pairKey 0x040, 0x3#32)], pair := {st := 2}}, by decide +kernel⟩,
   ⟨.hart 0, {wUp with regs := [(pairKey 0x040, 0x3#32)], pair := {st := 4}}, by decide +kernel⟩,
   ⟨.hart 0, {wUp with regs := [(pairKey 0x040, 0x3#32)], pair := {st := 4, keepAt := 7}}, by decide +kernel⟩,
   ⟨.hart 0, {wUp with regs := [(pairKey 0x040, 0x3#32)], pair := {st := 5}}, by decide +kernel⟩,
   ⟨{wUp with regs := [(pairKey 0x040, 0x3#32)], pair := {st := 2, hbDue := true}}, by decide +kernel⟩,
   ⟨pairFrame 1 0 [4#8, 3#8], {wUp with regs := [(pairKey 0x040, 0x1#32)], pair := {st := 2}}, by decide +kernel⟩,
   ⟨{wMsgState with rings := {streams := [(0, { cfg := 0x32#32, buf := 0x40000#32, st := 2, occ := 1 })]}, regs := [(pairKey 0x040, 0x9#32)], pair := {st := 2}}, (wMsg, 0#8, 0), by decide +kernel⟩,
   ⟨false, [1#8], true, {wUp with regs := [(pairKey 0x040, 0x1#32)], pair := {st := 2, linkAt := some 4}}, by decide +kernel⟩,
   ⟨true, 77, {wUp with regs := [(pairKey 0x040, 0x1#32), (pairKey 0x044, 0x001E000A#32)], pair := {st := 2, ringAt := some 77}}, by decide +kernel⟩⟩

/-- The hypotheses of every clause of PairStatesComplete can be met. -/
theorem witness_pairStatesComplete :
    (∃ (s : State), live s .ring = true ∧ pairOn s = true ∧ s.pair.st = 4 ∧ s.pair.give = true) ∧
    (∃ (s : State), live s .ring = true ∧ s.pair.st = 4 ∧ rdf s (pairKey 0x048) 0 16 ≠ 0) ∧
    (∃ (low : Bool) (s : State), live s .ring = true ∧ s.pair.peerLow ≠ low) ∧
    (∃ (s : State), live s .ring = true ∧ s.pair.own = true ∧ s.pair.peerLow = false ∧ s.pair.settled = false) ∧
    (∃ (s : State), live s .ring = true ∧ s.pair.st = 3 ∧ s.pair.released = [] ∧ s.pair.yielded = false) ∧
    (∃ (s : State), live s .ring = true ∧ s.pair.st = 3 ∧ s.pair.installs = true ∧ s.pair.useCk = false) ∧
    (∃ (s : State), live s .ring = true ∧ s.pair.st = 1 ∧ peerOk s = false) ∧
    (∃ (s : State) (a : Nat), live s .ring = true ∧ pairOn s = true ∧ s.pair.stuckAt = some a ∧ rdb s (pairKey 0x010) 10 = false) ∧
    (∃ (s : State), live s .ring = true ∧ s.pair.st = 4 ∧ datumValid s = false) ∧
    (∃ (s : State) (c : CkSend), live s .ring = true ∧ s.pair.st = 4 ∧ s.pair.tx = some c ∧ c.tiles = [] ∧ c.sw = [] ∧ c.seg = 0) ∧
    (∃ (frame : List Byte) (s : State) (k : Nat) (f : Nat) (bs : List Byte), live s .ring = true ∧ pairOn s = true ∧
      frameOk frame false = true ∧ cellByte frame 0 = 2 ∧ ((s.pair.st = 1 ∨ s.pair.st = 2 ∨ s.pair.st = 5)) ∧
        s.pair.rx = some (k, bs, f) ∧ k ≠ 0 ∧ cellByte frame 2 + 256 * cellByte frame 3 = k) ∧
    (∃ (frame : List Byte) (s : State) (k : Nat) (f : Nat) (bs : List Byte), live s .ring = true ∧ pairOn s = true ∧
      frameOk frame false = true ∧ ((cellByte frame 0 = 2 ∨ cellByte frame 0 = 3)) ∧ ((s.pair.st = 1 ∨ s.pair.st = 2 ∨ s.pair.st = 5)) ∧
        s.pair.rx = some (k, bs, f) ∧ cellByte frame 2 + 256 * cellByte frame 3 ≠ k ∧ cellByte frame 2 + 256 * cellByte frame 3 ≠ 0) :=
  ⟨⟨{wUp with regs := [(pairKey 0x040, 0x1#32)], pair := {st := 4, give := true, own := true, stepAt := 9}}, by decide +kernel⟩,
   ⟨{wUp with regs := [(pairKey 0x040, 0x1#32), (pairKey 0x048, 0x5#32)], pair := {st := 4, keepAt := 100}}, by decide +kernel⟩,
   ⟨true, {wUp with pair := {st := 4, own := true, released := [3]}}, by decide +kernel⟩,
   ⟨{wUp with pair := {st := 3, own := true, ownAt := 5}}, by decide +kernel⟩,
   ⟨{wUp with pair := {st := 3, own := true, claimAt := 5}}, by decide +kernel⟩,
   ⟨{wUp with pair := {st := 3, installs := true}}, by decide +kernel⟩,
   ⟨{wUp with pair := {st := 1, lostAt := 5}}, by decide +kernel⟩,
   ⟨{wUp with regs := [(pairKey 0x040, 0x1#32)], pair := {st := 2, stuckAt := some 8}}, 8, by decide +kernel⟩,
   ⟨{wUp with pair := {st := 4, capNum := 0xFFFFFFFF}}, by decide +kernel⟩,
   ⟨{wUp with pair := {st := 4, tx := some {num := 9, nodat := true, time := 0, tiles := [], sw := []}, linkFree := 7}}, {num := 9, nodat := true, time := 0, tiles := [], sw := []}, by decide +kernel⟩,
   ⟨pairFrame 2 1 [4#8, 3#8], {wUp with regs := [(pairKey 0x040, 0x1#32)], pair := {st := 2, rx := some (1, [7#8], 5)}}, 1, 5, [7#8], by decide +kernel⟩,
   ⟨pairFrame 2 3 [4#8, 3#8], {wUp with regs := [(pairKey 0x040, 0x1#32)], pair := {st := 2, rx := some (1, [7#8], 5)}}, 1, 5, [7#8], by decide +kernel⟩⟩

/-- The hypotheses of every clause of RouterCompletes can be met. -/
theorem witness_routerCompletes :
    (∃ (n : Fin 64) (e : Nat) (o : Occ) (s : State), fabricUp s = true ∧ s.evr.srcs = [(e, { q := [o] })] ∧ e < 512 ∧
      o.route = (0x4040#32 ||| BitVec.ofNat 32 n.val ||| (BitVec.ofNat 32 n.val <<< 8)) ∧ o.doneA = false ∧ o.doneB = false ∧
        rdb s (chanKey n 0) 8 = true ∧ (chan s n).recs = [] ∧ (List.range 64).all (fun i => !(ctrRuns s i)) = true ∧
          (List.range 16).all (fun k => !(rdb s (setKey k 0x10) 1 && decide (rdf s (setKey k 0x10) 8 6 = n))) = true) ∧
    (∃ (e : Fin 512) (o : Occ) (os : List Occ) (s : State), fabricUp s = true ∧ (srcQ s e).q = o :: os ∧ o.promoted = false ∧
      fld o.route 16 2 < 3 ∧ rdf s (rk .evr 0 (0x040 + 4 * fld o.route 16 2)) 0 16 ≠ 0 ∧ causeEvent .evr 0 0 ≠ some e.val ∧ e.val ≠ 503) ∧
    (∃ (m : Master) (s : State), reaches s m .evr 0x040 = true ∧ s.pw.lockout = false ∧ 2 ≤ s.pw.level ∧ stagingFull s = false) ∧
    (∃ (n : Fin 64) (a : Word) (b : BitVec 32) (rs : List (Word × BitVec 32)) (s : State), pageUp s .evr 0x408 = true ∧
      (chan s n).recs = (a, b) :: rs) ∧
    (∃ (n : Fin 64) (s : State), pageUp s .evr 0x408 = true ∧ (chan s n).recs = []) ∧
    (∃ (m : Master) (v : Byte) (j : Fin 8) (s : State), reaches s m .evr 0x054 = true ∧ v.getLsbD j = true ∧
      routed (rd s (rk .evr 0 (0x800 + 4 * (504 + j)))) = true ∧ (srcQ s (504 + j)).q = [] ∧
        (srcQ s (504 + j)).last ≠ some (s.now / 80)) :=
  ⟨⟨5, 100, {stamp := 7, route := 0x4545#32, merged := 2, promoted := true, doneA := false, doneB := false, since := 0}, {wUp with regs := [(chanKey 5 0, 0x100#32)], evr := {srcs := [(100, {q := [{stamp := 7, route := 0x4545#32, merged := 2, promoted := true, doneA := false, doneB := false, since := 0}]})]}}, by decide +kernel⟩,
   ⟨300, {stamp := 7, route := 0x20045#32, merged := 2, promoted := false, doneA := false, doneB := false, since := 9}, [], {wUp with regs := [(rk .evr 0 0x048, 0x10#32)], evr := {srcs := [(300, {q := [{stamp := 7, route := 0x20045#32, merged := 2, promoted := false, doneA := false, doneB := false, since := 9}]})]}}, by decide +kernel⟩,
   ⟨.hart 1, wUp, by decide +kernel⟩,
   ⟨63, 5#32, 6#32, [(7#32, 8#32)], {wUp with evr := {chans := [(63, {recs := [(5#32, 6#32), (7#32, 8#32)]})]}}, by decide +kernel⟩,
   ⟨63, wUp, by decide +kernel⟩,
   ⟨.hart 1, 0x81#8, 7, {wUp with regs := [(rk .evr 0 (0x800 + 4 * 504), 0x40#32), (rk .evr 0 (0x800 + 4 * 511), 0x4000#32)]}, by decide +kernel⟩⟩

/-- The hypotheses of every clause of TroubleLogCompletes can be met. -/
theorem witness_troubleLogCompletes :
    (∃ (e : LogEnt) (es : List LogEnt) (s : State), s.log.stamped = e :: es ∧ e.valley = false ∧ s.valley.por = false ∧
      s.log.buffer.length < 64 ∧ (es.all fun x => decide (logWriter x = logWriter e)) = true) ∧
    (∃ (s : State), s.log.stamped ≠ [] ∧ (s.log.stamped.all fun x => !x.valley) = true ∧ s.valley.por = false ∧
      s.log.buffer.length < 64) ∧
    (∃ (m : Master) (s : State), reaches s m .evr 0x08C = true ∧ datumValid s = false ∧ s.log.buffer.length < 64) ∧
    (∃ (e : LogEnt) (a : Nat) (s : State), s.log.replay = false ∧ s.valley.por = false ∧ s.log.buffer = [(e, a)] ∧ e.valley = false ∧
      s.log.bootMark = false ∧ s.log.lostSince = 0 ∧ s.log.started = true ∧ e.epoch ≤ s.log.lastEpoch ∧ lastOn e s ≤ e.time ∧
        s.log.count < 4096) ∧
    (∃ (s : State), pageUp s .evr 0x074 = true ∧ s.log.rword < 7) ∧
    (∃ (s : State), pageUp s .evr 0x074 = true ∧ s.log.rword = 7) ∧
    (∃ (m : Master) (s : State), reaches s m .evr 0x064 = true ∧ s.valley.por = false) ∧
    (∃ (s : State), fabricUp s = true ∧ s.log.replay = true ∧ s.valley.por = false ∧ s.log.entries = []) :=
  ⟨⟨{time := 5, rtc := true, page := 2, code := 1, payload := []}, [], {wUp with log := {stamped := [{time := 5, rtc := true, page := 2, code := 1, payload := []}]}}, by decide +kernel⟩,
   ⟨{wUp with log := {stamped := [{time := 5, rtc := true, page := 2, code := 1, payload := []}, {time := 5, rtc := true, page := 3, code := 1, payload := []}]}}, by decide +kernel⟩,
   ⟨.hart 1, {wUp with regs := [(rk .evr 0 0x084, 7#32)]}, by decide +kernel⟩,
   ⟨{time := 5, rtc := true, page := 2, code := 1, payload := []}, 100, {wUp with regs := [(rk .evr 0 0x060, 0x00080000#32)], log := {started := true, baseRtc := true, lastTime := 7, lastEpoch := 2, lastRtc := 5, buffer := [({time := 5, rtc := true, page := 2, code := 1, payload := []}, 100)], head := 4095, count := 4095, seq := 0xFFFFFFFF}}, by decide +kernel⟩,
   ⟨{wUp with log := {rword := 2, entries := [(0, [1, 2, 3])]}}, by decide +kernel⟩,
   ⟨{wUp with log := {rword := 7}}, by decide +kernel⟩,
   ⟨.hart 0, {wUp with log := {full := true, count := 4096, seq := 5000, head := 904}}, by decide +kernel⟩,
   ⟨{wUp with log := {replay := true, head := 5}}, by decide +kernel⟩⟩

/-- The hypotheses of every clause of ClocksComplete can be met. -/
theorem witness_clocksComplete :
    (∃ (s : State), synthOn s = true ∧ s.clk.locked = true) ∧
    (∃ (ppm : Int) (s : State), synthOn s = true ∧ s.clk.running = true ∧ ppm.natAbs ≤ 20000) ∧
    (∃ (ppm : Int) (s : State), synthOn s = true ∧ s.clk.running = true ∧ 20000 < ppm.natAbs ∧ s.clk.locked = true) ∧
    (∃ (a : Nat) (s : State), synthOn s = true ∧ s.clk.qualFrom = some a) ∧
    (∃ (s : State), synthOn s = true ∧ s.clk.acquiring = true) ∧
    (∃ (s : State), synthOn s = true ∧ s.clk.locked = true ∧ s.clk.pllHold = true) ∧
    (∃ (m : Master) (s : State), reaches s m .clk 0x048 = true ∧ s.clk.locked = true) ∧
    (∃ (a : Nat) (s : State), synthOn s = true ∧ s.clk.running = false ∧ s.clk.acquiring = false ∧ s.clk.qualFrom = some a) ∧
    (∃ (m : Master) (s : State), reaches s m .clk 0x048 = true) ∧
    (∃ (x : Nat) (s : State), synthOn s = true ∧ s.clk.running = true ∧ s.clk.updAt = [x] ∧ nextMark s = x ∧
      (List.range 6).all (fun n => outLegal (rd s (clkKey (0x060 + 8 * n))) (rdf s (clkKey (0x064 + 8 * n)) 0 20)) = true) ∧
    (∃ (s : State), synthOn s = true ∧ s.clk.running = true ∧ s.clk.updAt.contains (nextMark s) = false) ∧
    (∃ (s : State), pageUp s .sys 0x050 = true) :=
  ⟨⟨{wUp with regs := [(clkKey 0x050, 0xFFFF#32)]}, by decide +kernel⟩,
   ⟨-20000, wUp, by decide +kernel⟩,
   ⟨-20001, wUp, by decide +kernel⟩,
   ⟨6, {wUp with clk := {wUp.clk with locked := false, qualFrom := some 6}}, by decide +kernel⟩,
   ⟨{State.reset with clk := {State.reset.clk with acquiring := true}, pwr := {State.reset.pwr with reset := none}}, by decide +kernel⟩,
   ⟨{wUp with clk := {wUp.clk with pllHold := true, lockAt := 9}}, by decide +kernel⟩,
   ⟨.hart 0, {wUp with regs := [(clkKey 0x040, 0x2#32)]}, by decide +kernel⟩,
   ⟨44, {State.reset with clk := {State.reset.clk with qualFrom := some 44}, pwr := {State.reset.pwr with reset := none}}, by decide +kernel⟩,
   ⟨.hart 0, wUp, by decide +kernel⟩,
   ⟨50000, {wUp with clk := {wUp.clk with updAt := [50000]}, regs := [(clkKey 0x060, 0x1#32), (clkKey 0x064, 0x14#32)]}, by decide +kernel⟩,
   ⟨{wUp with clk := {wUp.clk with outHeld := [2], heldAt := 50000, updAt := [200000]}}, by decide +kernel⟩,
   ⟨{wUp with now := 1000000000000}, by decide +kernel⟩⟩

/-- The hypotheses of every clause of PowerCompletes can be met. -/
theorem witness_powerCompletes :
    (∃ (m : Master) (s : State), reaches s m .sys 0x040 = true ∧ s.pw.lockout = false ∧ 2 ≤ s.pw.level ∧ stagingFull s = false ∧
      s.clk.locked = true) ∧
    (∃ (d : PDom) (s : State), s.pwr.move = some (d, true)) ∧
    (∃ (d : PDom) (s : State), s.pwr.move = some (d, false)) ∧
    (∃ (s : State), s.valley.por = false) ∧
    (∃ (n : Fin 4) (s : State), bit s.pwr.supply n = false) ∧
    (∃ (s : State), s.valley.por = false) ∧
    (∃ (s : State), s.pwr.reset = none ∧ s.valley.por = false) ∧
    (∃ (m : Master) (v : BitVec 16) (s : State), reaches s m .sys 0x048 = true ∧ s.valley.por = false ∧ fld (wNat v.toNat) 8 8 = 0xA5 ∧
      v.getLsbD 0 = true) ∧
    (∃ (m : Master) (v : BitVec 16) (s : State), reaches s m .sys 0x048 = true ∧ fld (wNat v.toNat) 8 8 ≠ 0xA5) ∧
    (∃ (k : ResetKind) (s : State), s.pwr.reset = some k ∧ s.pwr.supply &&& 0xF = 0xF ∧ ((k = .system ∨ s.pwr.sysrst = false))) ∧
    (∃ (s : State), s.pwr.reset = some .powerOn ∧ s.pwr.supply &&& 0xF = 0xF ∧ s.pwr.sysrst = true) :=
  ⟨⟨.hart 0, wUp, by decide +kernel⟩,
   ⟨.eth, {wUp with pwr := {wUp.pwr with on := 0xD01, move := some (.eth, true)}}, by decide +kernel⟩,
   ⟨.mtr, {wUp with pwr := {wUp.pwr with move := some (.mtr, false)}}, by decide +kernel⟩,
   ⟨wUp, by decide +kernel⟩,
   ⟨2, {wUp with pwr := {wUp.pwr with reset := some .powerOn, supply := 0xB}}, by decide +kernel⟩,
   ⟨wUp, by decide +kernel⟩,
   ⟨wUp, by decide +kernel⟩,
   ⟨.hart 0, 0xA501#16, wUp, by decide +kernel⟩,
   ⟨.hart 0, 0x5A01#16, wUp, by decide +kernel⟩,
   ⟨.system, {wUp with pwr := {wUp.pwr with reset := some .system, on := 0xD01}}, by decide +kernel⟩,
   ⟨{wUp with pwr := {wUp.pwr with reset := some .powerOn, on := 0xD01, sysrst := true}}, by decide +kernel⟩⟩

/-- The hypotheses of every clause of TemperatureCompletes can be met. -/
theorem witness_temperatureCompletes :
    (∃ (s : State), thermOn s = true ∧ s.therm.running = 0) ∧
    (∃ (m : Master) (v : BitVec 24) (s : State), reaches s m .therm 0x04C = true ∧ v ≠ 0 ∧ s.therm.running = 0) ∧
    (∃ (temps : List Int) (n : Fin 24) (s : State), thermOn s = true ∧ s.pwr.reset = none ∧ s.pwr.cut = false ∧
      bit s.therm.running n = true ∧ (∀ x ∈ temps, x < 1280) ∧ 1280 ≤ stopTh s) ∧
    (∃ (s : State), thermOn s = true ∧ s.therm.stopping = true) ∧
    (∃ (m : Master) (s : State), reaches s m .therm 0x050 = true ∧ s.therm.stopped = true ∧ s.therm.scanCool = true) ∧
    (∃ (m : Master) (s : State), reaches s m .therm 0x050 = true ∧ s.therm.scanCool = false) :=
  ⟨⟨{wUp with therm := {scanAt := 8}}, by decide +kernel⟩,
   ⟨.hart 3, 0x800000#24, wUp, by decide +kernel⟩,
   ⟨[300, -320, 400], 1, {wUp with therm := {running := 7, runEnd := 50}}, by decide +kernel⟩,
   ⟨{wUp with regs := [(thermKey 0x048, 0x3#32)], therm := {stopping := true, stopAt := 8}}, by decide +kernel⟩,
   ⟨.hart 3, {wUp with therm := {stopped := true, scanCool := true}}, by decide +kernel⟩,
   ⟨.hart 3, {wUp with therm := {stopped := true}}, by decide +kernel⟩⟩

/-- The hypotheses of every clause of ValleyCompletes can be met. -/
theorem witness_valleyCompletes :
    (∃ (mv : Nat) (s : State), s.valley.por = false ∧ 1800 ≤ mv ∧ s.valley.vpg = true ∧ mv < 2200) ∧
    (∃ (mv : Nat) (s : State), s.valley.por = false ∧ s.valley.vpg = false ∧ 3300 ≤ mv) ∧
    (∃ (mv : Nat) (s : State), s.valley.por = false ∧ mv < 1800) ∧
    (∃ (s : State), s.valley.por = true) ∧
    (∃ (s : State), s.valley.por = false ∧ s.valley.hv = 1) ∧
    (∃ (m : Master) (s : State), reaches s m .valley 0x088 = true) ∧
    (∃ (s : State), pageUp s .valley 0x070 = true) ∧
    (∃ (s : State), s.valley.por = false ∧ s.valley.xtFail = false) ∧
    (∃ (s : State), s.valley.por = false) ∧
    (∃ (m : Master) (s : State), reaches s m .valley 0x088 = true ∧ s.valley.grantSw = none ∧ s.valley.reqSw = none) ∧
    (∃ (m : Master) (s : State), reaches s m .valley 0x088 = true ∧ (s.valley.grantSw.isSome || s.valley.reqSw.isSome) = true) ∧
    (∃ (m : Master) (g : Grant) (s : State), reaches s m .valley 0x088 = true ∧ s.valley.grantSw = some g) ∧
    (∃ (g : Grant) (s : State), s.valley.grantSw = some g) ∧
    (∃ (s : State), s.valley.holdup = true ∧ s.nvm.queue = []) :=
  ⟨⟨2199, {wUp with valley := {wUp.valley with vpg := true, sampleAt := 9}}, by decide +kernel⟩,
   ⟨3300, wUp, by decide +kernel⟩,
   ⟨1799, {wUp with log := {count := 7}}, by decide +kernel⟩,
   ⟨{wUp with valley := {por := true}}, by decide +kernel⟩,
   ⟨{wUp with valley := {hv := 1, ocAt := 8}}, by decide +kernel⟩,
   ⟨.hart 0, {wUp with regs := [(valKey 0x078, 0x5#32), (valKey 0x07C, 0x6#32)]}, by decide +kernel⟩,
   ⟨{wUp with valley := {rtcBase := 0x123456789A}}, by decide +kernel⟩,
   ⟨wUp, by decide +kernel⟩,
   ⟨{wUp with valley := {xtFail := true}}, by decide +kernel⟩,
   ⟨.hart 0, {wUp with regs := [(valKey 0x05C, 0x5#32)]}, by decide +kernel⟩,
   ⟨.hart 0, {wUp with valley := {reqSw := some 5}}, by decide +kernel⟩,
   ⟨.hart 0, {uj := 5, since := 0}, {wUp with valley := {grantSw := some {uj := 5, since := 0}, burst := 1}}, by decide +kernel⟩,
   ⟨{uj := 5, since := 9}, {wUp with valley := {grantSw := some {uj := 5, since := 9}, burst := 1}}, by decide +kernel⟩,
   ⟨{wUp with valley := {holdup := true}}, by decide +kernel⟩⟩

/-- The hypotheses of every clause of ClusterCompletes can be met. -/
theorem witness_clusterCompletes :
    (∃ (m : Master) (v : BitVec 4) (p : Fin 4) (s : State), reaches s m .pmc 0x04C = true ∧ v.getLsbD p = true ∧
      masterNo m = physHart s p ∧ wdtTime s ≠ 0 ∧ (hart s (physHart s p)).halted = false) ∧
    (∃ (h : Fin 4) (s : State), fabricUp s = true ∧ (hart s h).mtip = false ∧ (hart s h).mtimecmp ≠ 0xFFFFFFFFFFFFFFFF) ∧
    (∃ (s : State), fabricUp s = true ∧ rdf s (pmcKey 0x050) 0 8 ≠ 0) ∧
    (∃ (m : Master) (n : Fin 64) (s : State), reaches s m .pmc 0x10C = true ∧ rdb s (ctrKey n 0) 24 = false) ∧
    (∃ (m : Master) (n : Fin 64) (c : Ctr) (s : State), pageUp s .pmc 0x10C = true ∧
      c = ctr (countedRead m .pmc 0 (0x10C + 0x20 * n) s) n ∧ c.known = true) ∧
    (∃ (n : Fin 64) (s : State), pageUp s .pmc 0x10C = true ∧ (ctr s n).known = true ∧ rdf s (ctrKey n 0) 0 8 ≠ 3 ∧
      rdf s (ctrKey n 0) 0 8 ≠ 8) ∧
    (∃ (n : Fin 64) (s : State), fabricUp s = true ∧ ctrRuns s n = true ∧ rdf s (ctrKey n 0) 0 8 ≠ 0 ∧ (ctr s n).val = 2 ^ 48 - 1) :=
  ⟨⟨.hart 2, 0x5#4, 2, {wUp with regs := [(pmcKey 0x048, 0x10#32)]}, by decide +kernel⟩,
   ⟨3, {wUp with cluster := {harts := [(3, {mtimecmp := 5})]}}, by decide +kernel⟩,
   ⟨{wUp with regs := [(pmcKey 0x050, 0x10#32)], cluster := {scrub := 524287}}, by decide +kernel⟩,
   ⟨.hart 2, 63, {wUp with cluster := {ctrs := [(63, {hiW := 7})]}}, by decide +kernel⟩,
   ⟨.hart 2, 63, {val := 0x123456789ABC}, {wUp with cluster := {ctrs := [(63, {val := 0x123456789ABC})]}}, by decide +kernel⟩,
   ⟨0, {wUp with cluster := {ctrs := [(0, {val := 0x123456789ABC})]}}, by decide +kernel⟩,
   ⟨63, {wUp with regs := [(ctrKey 63 0, 0x01010109#32)], cluster := {ctrs := [(63, {val := 281474976710655})]}}, by decide +kernel⟩⟩

/-- The hypotheses of every clause of NvStoreCompletes can be met. -/
theorem witness_nvStoreCompletes :
    (∃ (a : Nat) (bytes : List Byte) (s : State), fabricUp s = true ∧ domOn s .nvm = true ∧ nvSoftware a = true ∧
      rdb s (rk .nvm 0 0x040) 0 = true ∧ a % 8 = 0 ∧ bytes.length = 8 ∧ s.nvm.queue.length < 16) ∧
    (∃ (a : Nat) (bytes : List Byte) (mm : Doer) (q : List (Nat × List Byte × Doer)) (s : State), domOn s .nvm = true ∧
      s.nvm.queue = (a, bytes, mm) :: q ∧ bytes.length = 8) :=
  ⟨⟨0xA550008, [1, 2, 3, 4, 5, 6, 7, 8], {wUp with regs := [(rk .nvm 0 0x040, 0x1#32)]}, by decide +kernel⟩,
   ⟨0xA550008, [1, 2, 3, 4, 5, 6, 7, 8], (1, none), [], {wUp with nvm := {queue := [(0xA550008, [1, 2, 3, 4, 5, 6, 7, 8], (1, none))], headEnd := 9}}, by decide +kernel⟩⟩

/-- The hypotheses of every clause of DebugCompletes can be met. -/
theorem witness_debugCompletes :
    (∃ (a : BitVec 7) (s : State), dmWorks s = true ∧ ((4 ≤ a.toNat ∧ a.toNat < 16 ∨ 0x20 ≤ a.toNat ∧ a.toNat < 0x28))) ∧
    (∃ (a : BitVec 7) (w : Word) (s : State), dmWorks s = true ∧ ((4 ≤ a.toNat ∧ a.toNat < 16 ∨ 0x20 ≤ a.toNat ∧ a.toNat < 0x28)) ∧
      s.dbg.regs.find? (fun e => decide (e.1 = a.toNat)) = some (a.toNat, w)) ∧
    (∃ (h : Fin 4) (v : Word) (s : State), dmWorks s = true ∧ bit v 0 = true ∧ bit v 1 = false ∧ bit v 31 = true ∧ fld v 16 10 = h.val ∧
      fld v 6 10 = 0) ∧
    (∃ (s : State), fabricUp s = true ∧ dbgCfg s 0 = false) ∧
    (∃ (s : State), dbgCfg s 0 = true) ∧
    (∃ (h : Fin 4) (s : State), dmWorks s = true ∧ (hart s h).halted = true) ∧
    (∃ (h : Fin 4) (s : State), dmWorks s = true ∧ (hart s h).halted = true) ∧
    (∃ (h : Fin 4) (a : Nat) (s : State), dmWorks s = true ∧ (hart s h).halted = true ∧ a % 4 = 0 ∧ sramBase ≤ a ∧
      a < sramBase + 0x400000 ∧ pmpDenies s h a 4 false 16 0 = false ∧ sramBad s a 4 = []) ∧
    (∃ (a : Nat) (s : State), dmWorks s = true ∧ dbgCfg s 1 = true ∧ a % 4 = 0 ∧ sramBase ≤ a ∧ a < sramBase + 0x400000 ∧
      sramBad s a 4 = []) ∧
    (∃ (s : State), dmWorks s = true ∧ dbgCfg s 2 = true ∧ s.valley.por = false) ∧
    (∃ (h : Fin 4) (s : State), fabricUp s = true ∧ domOn s .dbg = true ∧ s.dbg.active = true ∧ (hart s h).halted = false) ∧
    (∃ (s : State), fabricUp s = true ∧ anyHalted s = true ∧ s.holds.frozen = true) :=
  ⟨⟨4#7, {wUp with regs := [(rk .dbg 0 0x040, 0x1#32)], dbg := {active := true}}, by decide +kernel⟩,
   ⟨4#7, 0x77#32, {wUp with regs := [(rk .dbg 0 0x040, 0x1#32)], dbg := {active := true, regs := [(4, 0x77#32)]}}, by decide +kernel⟩,
   ⟨2, 0x80020001#32, {wUp with regs := [(rk .dbg 0 0x040, 0x1#32)], dbg := {active := true}}, by decide +kernel⟩,
   ⟨wUp, by decide +kernel⟩,
   ⟨{wUp with regs := [(rk .dbg 0 0x040, 0x1#32)]}, by decide +kernel⟩,
   ⟨2, {wUp with regs := [(rk .dbg 0 0x040, 0x1#32)], dbg := {active := true}, cluster := {harts := [(2, {halted := true})]}}, by decide +kernel⟩,
   ⟨2, {wUp with regs := [(rk .dbg 0 0x040, 0x1#32)], dbg := {active := true}, cluster := {harts := [(2, {halted := true})]}}, by decide +kernel⟩,
   ⟨2, sramBase + 0x100, memWrWord (sramBase + 0x100) 0x12345678#32 {wUp with regs := [(rk .dbg 0 0x040, 0x1#32)], dbg := {active := true}, cluster := {harts := [(2, {halted := true})]}}, by decide +kernel⟩,
   ⟨sramBase + 0x100, memWrWord (sramBase + 0x100) 0x12345678#32 {wUp with regs := [(rk .dbg 0 0x040, 0x3#32)], dbg := {active := true}}, by decide +kernel⟩,
   ⟨{wUp with regs := [(rk .dbg 0 0x040, 0x7#32)], dbg := {active := true}}, by decide +kernel⟩,
   ⟨2, {wUp with dbg := {active := true}}, by decide +kernel⟩,
   ⟨{wUp with dbg := {active := true}, holds := {frozen := true}, cluster := {harts := [(2, {halted := true, wdtLeft := some 8})]}}, by decide +kernel⟩⟩

/-- The hypotheses of every clause of UpdatesComplete can be met. -/
theorem witness_updatesComplete :
    (∃ (h : Fin 4) (a : Nat) (s : State), fabricUp s = true ∧ (hart s h).wdt = some a ∧ (runHarts s).contains h.val = true ∧
      s.upd.st ≠ 6 ∧ rdb s (pmcKey 0x048) 16 = false) ∧
    (∃ (h : Fin 4) (a : Nat) (s : State), fabricUp s = true ∧ (hart s h).wdt = some a ∧ (runHarts s).contains h.val = true ∧
      s.upd.st ≠ 6 ∧ rdb s (pmcKey 0x048) 16 = true) ∧
    (∃ (m : Master) (s : State), reaches s m .upd 0x044 = true ∧ s.nvm.queue = [] ∧ applyOk s = true) ∧
    (∃ (s : State), live s .nvm = true ∧ s.upd.st = 1 ∧ (List.range (applyBlocks s)).all (blockSound s (applyRecs s)) = true) ∧
    (∃ (s : State), live s .nvm = true ∧ s.upd.st = 1 ∧ (List.range (applyBlocks s)).all (blockSound s (applyRecs s)) = false) ∧
    (∃ (m : Master) (s : State), reaches s m .upd 0x044 = true ∧ s.upd.st = 2) ∧
    (∃ (m : Master) (s : State), reaches s m .upd 0x044 = true ∧ s.upd.st = 3 ∧ (spareHarts s).contains (masterNo m) = true) ∧
    (∃ (m : Master) (s : State), reaches s m .upd 0x044 = true ∧ armOk s = true) ∧
    (∃ (v : Nat) (n : Nat) (s : State), live s .ring = true ∧ nextBoundary s = some (v, n) ∧ s.upd.st = 5 ∧ s.upd.hoAt = n % 2 ^ 32 ∧
      datumValid s = true ∧ s.plumb.saddle = .normal ∧ s.pair.st ≠ 3 ∧ s.eng.global = .ready) ∧
    (∃ (s : State), live s .nvm = true ∧ s.upd.st = 6 ∧ s.upd.handed = false ∧ s.upd.captureBad = false) ∧
    (∃ (ok : Bool) (s : State), live s .nvm = true ∧ s.upd.st = 6 ∧ s.upd.handed = false ∧ datumValid s = true ∧
      (ok && !s.upd.captureBad) = false) ∧
    (∃ (m : Master) (s : State), reaches s m .upd 0x044 = true ∧ s.upd.st = 6 ∧ (runHarts s).contains (masterNo m) = true ∧
      s.upd.accept = false ∧ s.upd.defaulted = false) ∧
    (∃ (m : Master) (s : State), reaches s m .upd 0x044 = true ∧ s.upd.st = 6 ∧ datumValid s = true) ∧
    (∃ (m : Master) (s : State), reaches s m .upd 0x044 = true ∧ ((s.upd.st = 3 ∨ s.upd.st = 4))) ∧
    (∃ (m : Master) (s : State), reaches s m .upd 0x044 = true ∧ s.upd.st = 5) ∧
    (∃ (m : Master) (s : State), reaches s m .upd 0x044 = true ∧ s.upd.st = 8) ∧
    (∃ (s : State), live s .nvm = true ∧ s.upd.st = 6 ∧ s.upd.accept = false ∧ datumValid s = true) ∧
    (∃ (r : BootRec) (g : Grant) (s : State), (live s .nvm || s.valley.holdup) = true ∧ s.upd.want = some r ∧
      s.valley.grantUpd = some g ∧ (s.upd.accept && s.upd.slotEnd.isSome) = false) ∧
    (∃ (r : BootRec) (s : State), live s .nvm = true ∧ s.upd.want = some r ∧ s.valley.grantUpd = none) ∧
    (∃ (m : Master) (s : State), reaches s m .upd 0x084 = true ∧ s.upd.slotEnd = none ∧ 32 ≤ rdf s (updKey 0x07C) 0 20 ∧
      rdf s (updKey 0x07C) 0 20 ≤ 524288 ∧ rdf s (updKey 0x078) 0 22 + rdf s (updKey 0x07C) 0 20 ≤ 0x400000) ∧
    (∃ (a : Nat) (s : State), (live s .nvm || s.valley.holdup) = true ∧ s.upd.slotEnd = some a) :=
  ⟨⟨1, 9, {wUp with cluster := {harts := [(1, {wdt := some 9})]}}, by decide +kernel⟩,
   ⟨1, 9, {wUp with regs := [(pmcKey 0x048, 0x10000#32)], cluster := {harts := [(1, {wdt := some 9})]}}, by decide +kernel⟩,
   ⟨.hart 0, wPkgState, by decide +kernel⟩,
   ⟨{wPkgState with upd := {st := 1, invalid := true}}, by decide +kernel⟩,
   ⟨{memWrBytes (pkgBase + 76) [1#8] wPkgState with upd := {st := 1, invalid := true}}, by decide +kernel⟩,
   ⟨.hart 0, {wUp with upd := {st := 2}}, by decide +kernel⟩,
   ⟨.hart 3, {wUp with upd := {st := 3}}, by decide +kernel⟩,
   ⟨.hart 0, {wUp with datum := wDatum, plumb := {selftest := true}, regs := [(updKey 0x064, 100#32), (updKey 0x06C, 1#32)], upd := {st := 4}}, by decide +kernel⟩,
   ⟨16000000, 1, {wUp with datum := wDatum, eng := {global := .ready, globMode := true, globAt := 1}, upd := {st := 5, hoAt := 1, hoSrc := 2, hoLen := 1}}, by decide +kernel⟩,
   ⟨{wUp with upd := {st := 6, hoDst := 5, capture := [1#8, 2#8, 3#8]}}, by decide +kernel⟩,
   ⟨true, {wUp with datum := wDatum, upd := {st := 6, captureBad := true}}, by decide +kernel⟩,
   ⟨.hart 0, {wUp with upd := {st := 6}}, by decide +kernel⟩,
   ⟨.hart 0, {wUp with datum := wDatum, upd := {st := 6}}, by decide +kernel⟩,
   ⟨.hart 0, {wUp with upd := {st := 3}}, by decide +kernel⟩,
   ⟨.hart 0, {wUp with upd := {st := 5}}, by decide +kernel⟩,
   ⟨.hart 0, {wUp with upd := {st := 8, cause := 2}}, by decide +kernel⟩,
   ⟨{wUp with datum := wDatum, upd := {st := 6, trialAt := 9}}, by decide +kernel⟩,
   ⟨{active := 1}, {uj := 5, since := 0}, {wUp with valley := {grantUpd := some {uj := 5, since := 0}}, upd := {st := 6, accept := true, want := some {active := 1}, former := [2, 3], slotNew := some 1}}, by decide +kernel⟩,
   ⟨{active := 1}, {wUp with upd := {st := 6, want := some {active := 1}, wantAt := 7}}, by decide +kernel⟩,
   ⟨.hart 0, {wUp with regs := [(updKey 0x07C, 32#32)]}, by decide +kernel⟩,
   ⟨9, {wUp with regs := [(updKey 0x088, 1#32)], upd := {slotEnd := some 9, slotNo := 1, slotBytes := List.replicate 32 7#8}}, by decide +kernel⟩⟩

/-- The hypotheses of every clause of SerialPortsComplete can be met. -/
theorem witness_serialPortsComplete :
    (∃ (n : Fin 32) (rise : Bool) (s : State), fabricUp s = true ∧ bit s.gio.pins n ≠ rise ∧ pinDriven s n = none ∧
      rdb s (gpioKey (if rise then 0x064 else 0x068)) n = true) ∧
    (∃ (m : Master) (s : State), reaches s m .gpio 0x048 = true) ∧
    (∃ (m : Master) (s : State), reaches s m .gpio 0x04C = true) ∧
    (∃ (m : Master) (k : Fin 4) (s : State), reaches s m .i2c 0x044 = true ∧ rdb s (i2cKey k 0x040) 0 = true ∧ (i2c s k).acts = []) ∧
    (∃ (m : Master) (k : Fin 4) (s : State), reaches s m .i2c 0x044 = true ∧ rdb s (i2cKey k 0x040) 0 = true ∧ (i2c s k).acts = []) ∧
    (∃ (m : Master) (k : Fin 4) (s : State), reaches s m .i2c 0x044 = true ∧ rdb s (i2cKey k 0x040) 0 = true ∧ (i2c s k).acts = []) ∧
    (∃ (m : Master) (k : Fin 4) (s : State), reaches s m .i2c 0x044 = true ∧ rdb s (i2cKey k 0x040) 0 = true ∧ (i2c s k).acts = []) ∧
    (∃ (k : Fin 4) (ack : Bool) (s : State), fabricUp s = true ∧ (i2c s k).acts = [(3, ack)] ∧ pinAlt s (2 * k) = true ∧
      pinAlt s (2 * k + 1) = true) ∧
    (∃ (k : Fin 4) (s : State), fabricUp s = true ∧ (i2c s k).acts = [(2, false)] ∧ pinAlt s (2 * k) = true ∧
      pinAlt s (2 * k + 1) = true) ∧
    (∃ (k : Fin 4) (a : Nat) (ack : Bool) (s : State), fabricUp s = true ∧ (i2c s k).acts = [(a, ack)] ∧
      (pinAlt s (2 * k) && pinAlt s (2 * k + 1)) = false) ∧
    (∃ (k : Fin 4) (s : State), fabricUp s = true ∧ (i2c s k).acts ≠ []) ∧
    (∃ (m : Master) (k : Fin 2) (s : State), reaches s m .spi 0x048 = true ∧ (spi s k).tx.length < 16) ∧
    (∃ (k : Fin 2) (b : Byte) (bs : List Byte) (s : State), pageUp s .spi 0x04C = true ∧ (spi s k).rx = b :: bs) ∧
    (∃ (k : Fin 2) (b : Byte) (a : Nat) (s : State), fabricUp s = true ∧ (spi s k).due = some a ∧ (spi s k).tx = [b] ∧
      (spi s k).rx.length < 16 ∧ pinAlt s (10 + 4 * k) = true) ∧
    (∃ (k : Fin 2) (b : Byte) (a : Nat) (s : State), fabricUp s = true ∧ (spi s k).due = some a ∧ (spi s k).tx = [b] ∧
      (spi s k).rx.length < 16 ∧ pinAlt s (10 + 4 * k) = false) ∧
    (∃ (m : Master) (k : Fin 2) (s : State), reaches s m .uart 0x048 = true ∧ (uart s k).tx.length < 16) ∧
    (∃ (k : Fin 2) (w : Word) (ws : List Word) (s : State), pageUp s .uart 0x04C = true ∧ (uart s k).rx = w :: ws) ∧
    (∃ (k : Fin 2) (s : State), fabricUp s = true ∧ rdb s (uartKey k 0x040) 0 = true ∧ (uart s k).rx.length < 16 ∧
      pinAlt s (17 + 4 * k) = true) ∧
    (∃ (k : Fin 2) (b : Byte) (a : Nat) (s : State), fabricUp s = true ∧ (uart s k).due = some a ∧ (uart s k).tx = [b]) :=
  ⟨⟨31, true, {wUp with regs := [(gpioKey 0x064, 0x80000000#32)]}, by decide +kernel⟩,
   ⟨.hart 0, {wUp with regs := [(gpioKey 0x044, 0x10#32)]}, by decide +kernel⟩,
   ⟨.hart 0, {wUp with regs := [(gpioKey 0x044, 0x80000010#32)]}, by decide +kernel⟩,
   ⟨.hart 0, 3, {wUp with regs := [(i2cKey 3 0x040, 0x1#32)]}, by decide +kernel⟩,
   ⟨.hart 0, 3, {wUp with regs := [(i2cKey 3 0x040, 0x1#32)]}, by decide +kernel⟩,
   ⟨.hart 0, 3, {wUp with regs := [(i2cKey 3 0x040, 0x1#32)]}, by decide +kernel⟩,
   ⟨.hart 0, 3, {wUp with regs := [(i2cKey 3 0x040, 0x1#32)]}, by decide +kernel⟩,
   ⟨3, true, {wUp with regs := [(gpioKey 0x054, 0x5000#32)], gio := {i2cs := [(3, {acts := [(3, true)], since := 4})]}}, by decide +kernel⟩,
   ⟨3, {wUp with regs := [(gpioKey 0x054, 0x5000#32)], gio := {i2cs := [(3, {acts := [(2, false)], since := 4})]}}, by decide +kernel⟩,
   ⟨3, 3, true, {wUp with gio := {i2cs := [(3, {acts := [(3, true)], since := 4})]}}, by decide +kernel⟩,
   ⟨3, {wUp with gio := {i2cs := [(3, {acts := [(2, false), (1, false)]})]}}, by decide +kernel⟩,
   ⟨.hart 0, 1, {wUp with regs := [(spiKey 1 0x040, 0x701#32)]}, by decide +kernel⟩,
   ⟨1, 8#8, [], {wUp with gio := {spis := [(1, {rx := [8#8]})]}}, by decide +kernel⟩,
   ⟨1, 8#8, 9, {wUp with regs := [(gpioKey 0x054, 0x10000000#32)], gio := {spis := [(1, {tx := [8#8], due := some 9})]}}, by decide +kernel⟩,
   ⟨1, 8#8, 9, {wUp with gio := {spis := [(1, {tx := [8#8], due := some 9})]}}, by decide +kernel⟩,
   ⟨.hart 0, 1, {wUp with regs := [(uartKey 1 0x040, 0x1#32)]}, by decide +kernel⟩,
   ⟨1, 0x108#32, [], {wUp with gio := {uarts := [(1, {rx := [0x108#32]})]}}, by decide +kernel⟩,
   ⟨1, {wUp with regs := [(gpioKey 0x058, 0x400#32), (uartKey 1 0x040, 0x1#32)]}, by decide +kernel⟩,
   ⟨1, 8#8, 9, {wUp with gio := {uarts := [(1, {tx := [8#8], due := some 9})]}}, by decide +kernel⟩⟩

/-- The hypotheses of every clause of EthernetCompletes can be met. -/
theorem witness_ethernetCompletes :
    (∃ (m : Master) (s : State), reaches s m .eth 0x058 = true) ∧
    (∃ (m : Master) (s : State), reaches s m .eth 0x068 = true) ∧
    (∃ (e : Fin 2) (bs : List Byte) (s : State), ethWorks s e = true ∧ rdb s (ethKey e 0x040) 3 = true ∧ descReady s e 0x050 = true ∧
      datumValid s = false ∧ bs = memBytes s (descBuf s (descAddr s e 0x050 (ringHead s e 0x050))) (leNat (memBytes s (descAddr s e 0x050 (ringHead s e 0x050) + 4) 2)) ∧ (ethFrame bs).length ≤ frameMax s e) ∧
    (∃ (e : Fin 2) (frame : List Byte) (s : State), ethWorks s e = true ∧ rdb s (ethKey e 0x040) 4 = true ∧ addrTaken s e frame = true ∧
      descReady s e 0x060 = true ∧ datumValid s = false ∧ frameBad s e frame = false) ∧
    (∃ (e : Fin 2) (frame : List Byte) (err : Bool) (s : State), ethWorks s e = true ∧ rdb s (ethKey e 0x040) 4 = true ∧
      addrTaken s e frame = true ∧ descReady s e 0x060 = true ∧ datumValid s = false ∧ (err || frameBad s e frame) = true) ∧
    (∃ (e : Fin 2) (frame : List Byte) (s : State), ethWorks s e = true ∧ rdb s (ethKey e 0x040) 4 = true ∧ addrTaken s e frame = true ∧
      descReady s e 0x060 = false) ∧
    (∃ (m : Master) (e : Fin 2) (s : State), reaches s m .eth 0x070 = true ∧ rdb s (ethKey e 0x070) 11 = false) ∧
    (∃ (m : Master) (e : Fin 2) (s : State), reaches s m .eth 0x070 = true ∧ rdb s (ethKey e 0x070) 11 = true) ∧
    (∃ (e : Fin 2) (f : Nat × Word) (s : State), live s .eth = true ∧ rdb s (ethKey e 0x070) 11 = true ∧
      f = smGet (smConst (0, 0)) s.gio.mdio e) :=
  ⟨⟨.hart 0, wUp, by decide +kernel⟩,
   ⟨.hart 0, wUp, by decide +kernel⟩,
   ⟨1, [0#8, 0#8], memWrBytes sramBase [0#8, 1#8, 0#8, 0#8, 2#8, 0#8, 1#8] {wUp with regs := [(ethKey 1 0x040, 0x8#32), (ethKey 1 0x054, 0x8#32), (ethKey 1 0x058, 0x3#32)]}, by decide +kernel⟩,
   ⟨1, ethFrame [1#8, 2#8], memWrBytes sramBase [0#8, 1#8, 0#8, 0#8, 2#8, 0#8, 1#8] {wUp with regs := [(ethKey 1 0x040, 0x10#32), (ethKey 1 0x064, 0x8#32), (ethKey 1 0x068, 0x3#32)]}, by decide +kernel⟩,
   ⟨1, ethFrame [1#8, 2#8] ++ [7#8], false, memWrBytes sramBase [0#8, 1#8, 0#8, 0#8, 2#8, 0#8, 1#8] {wUp with regs := [(ethKey 1 0x040, 0x10#32), (ethKey 1 0x064, 0x8#32), (ethKey 1 0x068, 0x3#32)]}, by decide +kernel⟩,
   ⟨1, [1#8, 2#8], {wUp with regs := [(ethKey 1 0x040, 0x10#32)]}, by decide +kernel⟩,
   ⟨.hart 0, 1, wUp, by decide +kernel⟩,
   ⟨.hart 0, 1, {wUp with regs := [(ethKey 1 0x070, 0x800#32)]}, by decide +kernel⟩,
   ⟨1, (9, 0x400#32), {wUp with regs := [(ethKey 1 0x070, 0x800#32)], gio := {mdio := [(1, 9, 0x400#32)]}}, by decide +kernel⟩⟩

/-- The hypotheses of every clause of FailedUnlocksLockOut can be met. -/
theorem witness_failedUnlocksLockOut :
    (∃ (m : Master) (len : BitVec 6) (h : List Word) (s : State), reaches s m .plumb 0x114 = true ∧ heldBehind s m false = false ∧
      stagingFull s = false ∧ s.pw.lockout = false ∧ 8 ≤ len.toNat ∧ len.toNat ≤ 32 ∧ s.pw.siteHash = some h ∧ pwHash s len.toNat ≠ h ∧
        s.pw.fails + 1 < 5) ∧
    (∃ (m : Master) (len : BitVec 6) (h : List Word) (s : State), reaches s m .plumb 0x114 = true ∧ heldBehind s m false = false ∧
      stagingFull s = false ∧ s.pw.lockout = false ∧ 8 ≤ len.toNat ∧ len.toNat ≤ 32 ∧ s.pw.makerHash = some h ∧ pwHash s len.toNat ≠ h ∧
        s.pw.fails = 4) ∧
    (∃ (m : Master) (s : State), reaches s m .plumb 0x114 = true ∧ heldBehind s m false = false ∧ s.pw.lockout = true) ∧
    (∃ (m : Master) (s : State), reaches s m .plumb 0x114 = true ∧ heldBehind s m false = false ∧ s.pw.lockout = true) :=
  ⟨⟨.hart 0, 8#6, [], {wUp with pw := {wUp.pw with siteHash := some [], fails := 3}}, by decide +kernel⟩,
   ⟨.hart 0, 32#6, [], {wUp with pw := {wUp.pw with makerHash := some [], fails := 4, lockouts := 9}}, by decide +kernel⟩,
   ⟨.hart 0, {wUp with pw := {wUp.pw with lockout := true, lockEnd := 77, level := 0}}, by decide +kernel⟩,
   ⟨.hart 0, {wUp with pw := {wUp.pw with lockout := true, lockEnd := 77, level := 0}}, by decide +kernel⟩⟩

/-- The hypotheses of every clause of EmptyMakerPassword can be met. -/
theorem witness_emptyMakerPassword :
    (∃ (m : Master) (s : State), reaches s m .plumb 0x114 = true ∧ heldBehind s m false = false ∧ stagingFull s = false ∧
      s.pw.lockout = false ∧ s.pw.makerHash = none) ∧
    (∃ (m : Master) (len : BitVec 6) (s : State), reaches s m .plumb 0x114 = true ∧ heldBehind s m false = false ∧
      stagingFull s = false ∧ s.pw.lockout = false ∧ s.pw.makerHash = none ∧ 8 ≤ len.toNat ∧ len.toNat ≤ 32 ∧ s.pw.fails + 1 < 5) ∧
    (∃ (m : Master) (len : BitVec 6) (s : State), reaches s m .plumb 0x114 = true ∧ heldBehind s m false = false ∧
      stagingFull s = false ∧ s.pw.lockout = false ∧ s.pw.makerHash = none ∧ 8 ≤ len.toNat ∧ len.toNat ≤ 32 ∧ s.pw.fails = 4) ∧
    (∃ (m : Master) (h : List Word) (s : State), reaches s m .plumb 0x114 = true ∧ heldBehind s m false = false ∧
      s.pw.makerHash = some h) ∧
    (∃ (m : Master) (s : State), reaches s m .plumb 0x114 = true ∧ heldBehind s m false = false ∧ s.pw.siteHash = none) :=
  ⟨⟨.hart 0, {wUp with pw := {wUp.pw with level := 0}}, by decide +kernel⟩,
   ⟨.hart 0, 32#6, {wUp with pw := {wUp.pw with level := 1, fails := 2}}, by decide +kernel⟩,
   ⟨.hart 0, 8#6, {wUp with pw := {wUp.pw with level := 1, fails := 4}}, by decide +kernel⟩,
   ⟨.hart 0, [], {wUp with pw := {wUp.pw with level := 1, fails := 4, makerHash := some []}}, by decide +kernel⟩,
   ⟨.hart 0, {wUp with pw := {wUp.pw with level := 1, fails := 4}}, by decide +kernel⟩⟩

/-- The hypotheses of every clause of GuardedRegistersNeedALevel can be met. -/
theorem witness_guardedRegistersNeedALevel :
    (∃ (m : Master) (s : State), reaches s m .sys 0x040 = true ∧ ((s.pw.lockout = true ∨ s.pw.level = 0))) ∧
    (∃ (m : Master) (s : State), reaches s m .evr 0x040 = true ∧ ((s.pw.lockout = true ∨ s.pw.level = 0))) ∧
    (∃ (m : Master) (s : State), reaches s m .mtr 0x050 = true ∧ s.pw.level < 2) ∧
    (∃ (m : Master) (s : State), reaches s m .sys 0x040 = true ∧ s.pw.lockout = false ∧ s.pw.level ≠ 0 ∧ stagingFull s = true) :=
  ⟨⟨.hart 0, {wUp with pw := {wUp.pw with level := 0}}, by decide +kernel⟩,
   ⟨.hart 0, {wUp with pw := {wUp.pw with lockout := true}}, by decide +kernel⟩,
   ⟨.hart 0, {wUp with pw := {wUp.pw with level := 1}}, by decide +kernel⟩,
   ⟨.hart 0, {wUp with fb := {wUp.fb with staging := List.replicate 16 (formEntry 1 0 0 0 0 0 wUp)}}, by decide +kernel⟩⟩

/-- The hypotheses of every clause of StopIsClearedOnlyWhenCool can be met. -/
theorem witness_stopIsClearedOnlyWhenCool :
    (∃ (m : Master) (s : State), reaches s m .therm 0x050 = true ∧ s.therm.stopped = true ∧ s.therm.scanCool = true) ∧
    (∃ (m : Master) (s : State), reaches s m .therm 0x050 = true ∧ ((s.therm.stopped = false ∨ s.therm.scanCool = false))) ∧
    (∃ (temps : List Int) (s : State), thermOn s = true ∧ s.therm.running ≠ 0 ∧ s.therm.runScan = true ∧ s.pwr.cut = false ∧
      (∀ x ∈ temps, x < 2240)) :=
  ⟨⟨.hart 1, {wUp with therm := {stopped := true, scanCool := true}}, by decide +kernel⟩,
   ⟨.hart 1, {wUp with therm := {stopping := true, scanCool := true}}, by decide +kernel⟩,
   ⟨[1279, 3], {wUp with therm := {running := 3, runScan := true}, regs := [(thermKey 0x040, 0x000A050A#32), (thermKey 0x044, 0x00555A5F#32)]}, by decide +kernel⟩⟩

/-- The hypotheses of every clause of OccurrencesQueueOrMerge can be met. -/
theorem witness_occurrencesQueueOrMerge :
    (∃ (m : Master) (j : Fin 8) (s : State), reaches s m .evr 0x054 = true ∧ routed (rd s (rk .evr 0 (0x800 + 4 * (504 + j)))) = true ∧
      (srcQ s (504 + j)).last ≠ some (s.now / 80) ∧ (srcQ s (504 + j)).q.length < 4) ∧
    (∃ (m : Master) (j : Fin 8) (a : Occ) (b : Occ) (c : Occ) (d : Occ) (s : State), reaches s m .evr 0x054 = true ∧
      routed (rd s (rk .evr 0 (0x800 + 4 * (504 + j)))) = true ∧ (srcQ s (504 + j)).last ≠ some (s.now / 80) ∧
        (srcQ s (504 + j)).q = [a, b, c, d] ∧ ((rdb s (rk .evr 0 0x014) 2 = true →
          (srcQ (countedWrite m .evr 0 0x054 s) 503).q.length < 4))) ∧
    (∃ (m : Master) (j : Fin 8) (s : State), reaches s m .evr 0x054 = true ∧
      ((routed (rd s (rk .evr 0 (0x800 + 4 * (504 + j)))) = false ∨ (srcQ s (504 + j)).last = some (s.now / 80)))) :=
  ⟨⟨.hart 1, 7, {wUp with regs := [(rk .evr 0 (0x800 + 4 * 511), 0x4000#32)]}, by decide +kernel⟩,
   ⟨.hart 1, 0, {stamp := 1, route := 0x4000#32, merged := 0, promoted := false, doneA := false, doneB := false, since := 0}, {stamp := 2, route := 0x4000#32, merged := 0, promoted := false, doneA := false, doneB := false, since := 0}, {stamp := 3, route := 0x4000#32, merged := 0, promoted := false, doneA := false, doneB := false, since := 0}, {stamp := 4, route := 0x4000#32, merged := 15, promoted := false, doneA := false, doneB := false, since := 0}, {wUp with regs := [(rk .evr 0 (0x800 + 4 * 504), 0x4000#32)], evr := {srcs := [(504, {q := [{stamp := 1, route := 0x4000#32, merged := 0, promoted := false, doneA := false, doneB := false, since := 0}, {stamp := 2, route := 0x4000#32, merged := 0, promoted := false, doneA := false, doneB := false, since := 0}, {stamp := 3, route := 0x4000#32, merged := 0, promoted := false, doneA := false, doneB := false, since := 0}, {stamp := 4, route := 0x4000#32, merged := 15, promoted := false, doneA := false, doneB := false, since := 0}]})]}}, by decide +kernel⟩,
   ⟨.hart 1, 3, wUp, by decide +kernel⟩⟩

/-- The hypotheses of every clause of UnreachedPagesReadZero can be met. -/
theorem witness_unreachedPagesReadZero :
    (∃ (s : State), pageUp s .adc 0x100 = false) ∧
    (∃ (s : State), pageUp s .adc 0x060 = false) ∧
    (∃ (s : State), pageUp s .mtr 0x100 = false) ∧
    (∃ (s : State), pageUp s .snd 0x044 = false) ∧
    (∃ (s : State), pageUp s .mppt 0x050 = false) ∧
    (∃ (s : State), pageUp s .datum 0x084 = false) ∧
    (∃ (s : State), pageUp s .evr 0x408 = false) ∧
    (∃ (s : State), pageUp s .uart 0x04C = false) ∧
    (∃ (s : State), pageUp s .gpio 0x048 = false) ∧
    (∃ (s : State), pageUp s .adc 0x080 = false) ∧
    (∃ (s : State), pageUp s .ring 0x044 = false) ∧
    (∃ (s : State), pageUp s .mtr 0x050 = false) ∧
    (∃ (s : State), pageUp s .pair 0x090 = false) :=
  ⟨⟨{wUp with pwr := {wUp.pwr with on := 0xD01}, regs := [(rk .adc 31 0x15C, 0x30005#32)]}, by decide +kernel⟩,
   ⟨{wUp with pwr := {wUp.pwr with on := 0xD01}}, by decide +kernel⟩,
   ⟨{wUp with pwr := {wUp.pwr with on := 0xD01}}, by decide +kernel⟩,
   ⟨{wUp with pwr := {wUp.pwr with on := 0xD01}}, by decide +kernel⟩,
   ⟨{wUp with pwr := {wUp.pwr with on := 0xD01}}, by decide +kernel⟩,
   ⟨{wUp with pwr := {wUp.pwr with on := 0xD01}}, by decide +kernel⟩,
   ⟨State.reset, by decide +kernel⟩,
   ⟨State.reset, by decide +kernel⟩,
   ⟨State.reset, by decide +kernel⟩,
   ⟨{wUp with pwr := {wUp.pwr with on := 0xD01}}, by decide +kernel⟩,
   ⟨{wUp with pwr := {wUp.pwr with on := 0xD01}}, by decide +kernel⟩,
   ⟨{wUp with pwr := {wUp.pwr with on := 0xD01}, meters := [(3, {st := 2})]}, by decide +kernel⟩,
   ⟨{wUp with pwr := {wUp.pwr with on := 0xD01}, regs := [(pairKey 0x040, 0x1#32)]}, by decide +kernel⟩⟩

/-! Witnesses of the statements about every command -/

/-- A block that runs, a command waiting. -/
def wQueue : State := { wUp with pending := [.bankVerified 0, .spoRequest (.hart 0)] }

/-- The hypotheses of both clauses of StepRunsTheFrontCommand can be met. -/
theorem witness_stepRunsTheFrontCommand :
    (∃ (c : Instr) (rest : List Instr) (s : State), s.pending = c :: rest) ∧ ∃ s : State, s.pending = [] :=
  ⟨⟨_, _, wQueue, rfl⟩, wUp, rfl⟩

/-- The hypotheses of StepsKeepSoundness can be met, with a command at the front of the queue. -/
theorem witness_stepsKeepSoundness : ∃ s t : State, s.pending ≠ [] ∧ Good s ∧ step s = .next t :=
  ⟨wQueue, nextOf (step wQueue), by decide, ⟨by decide, by decide, by decide, fun _ h => absurd h List.not_mem_nil,
    fun _ h => absurd h List.not_mem_nil⟩, rfl⟩

/-- The hypotheses of SpoHoldsUntilARelease can be met. -/
theorem witness_spoHoldsUntilARelease : ∃ (c : Instr) (s t : State), mayReleaseSpo c = false ∧ s.plumb.spo = true ∧ exec c s = .next t :=
  ⟨.spoRequest (.hart 0), wUp, nextOf (exec (.spoRequest (.hart 0)) wUp), rfl, rfl, rfl⟩

/-- The hypothesis of SpoHoldsThePinsLow can be met. -/
theorem witness_spoHoldsThePinsLow : ∃ s : State, s.plumb.spo = true := ⟨wUp, rfl⟩

/-- The hypotheses of MemoryKeptWhereNothingIsStored can be met. -/
theorem witness_memoryKeptWhereNothingIsStored : ∃ (c : Instr) (s t : State), storesMemory c = false ∧ exec c s = .next t :=
  ⟨.spoRequest (.hart 0), wMsgState, nextOf (exec (.spoRequest (.hart 0)) wMsgState), rfl, rfl⟩

/-- A monument snapshot. -/
def wMon : MonSnap := { trigger := 1#32, datum := 2, rtc := 3, valid := true, rails := List.replicate 4 [5#32], guard := [6#32] }

/-- A block whose lane 31 drains an STS of word 2 of state tile 5, with a write of word 3 of it held. -/
def wDrain : State :=
  { wUp with
    regs := [(engcKey 0x080, 0xC00#32)]
    lanes := [(31, { drain := some { late := [], sts := [(5 * 1024 + 2, 7#32)], evts := [], endAt := 0 } })]
    eng := { wUp.eng with held := [(31, engBase + 0x500C, 9#32)] } }

/-- The streams of a ring, with a DATA cell for stream 0 that its receiver takes. -/
def wCell (ss : List (Nat × RStream)) : State :=
  { wUp with
    rings := { wUp.rings with
      a := { rx := some { hdr := 0x10#8 :: List.replicate 11 0#8, soc := 0, take := true, fwd := none, out := [] } }
      streams := ss } }

/-- The hypotheses of every clause of StoresStayInPlace can be met, with the address at the edge of what is stored. -/
theorem witness_storesStayInPlace :
    (∃ (e : Nat × List Byte × Doer) (q : List (Nat × List Byte × Doer)) (s t : State) (a : Nat),
      s.nvm.queue = e :: q ∧ exec .nvWordWritten s = .next t ∧ a = e.1 + e.2.1.length) ∧
    (∃ (m : Master) (b : Nat) (bytes : List Byte) (e : Nat × List Byte × Doer) (q : List (Nat × List Byte × Doer)) (s t : State) (a : Nat),
      s.nvm.queue = e :: q ∧ exec (.nvWrite m b bytes) s = .next t ∧ a = e.1 + e.2.1.length) ∧
    (∃ (m : Master) (b : Nat) (bytes : List Byte) (s t : State), s.nvm.queue.length < 16 ∧ exec (.nvWrite m b bytes) s = .next t) ∧
    (∃ (e : Fin 2) (sfd : Nat) (s t : State) (a : Nat), exec (.txDone e false sfd) s = .next t ∧
      a = descAddr s e 0x050 (ringHead s e 0x050) + 16) ∧
    (∃ (e : Fin 2) (frame : List Byte) (sfd : Nat) (s t : State) (a : Nat), exec (.rxDone e frame false sfd) s = .next t ∧
      descAddr s e 0x060 (ringHead s e 0x060) + 16 ≤ a ∧
      descBuf s (descAddr s e 0x060 (ringHead s e 0x060)) + min (frameMax s e) (frame.length - 4) ≤ a) ∧
    (∃ (s t : State) (a : Nat), exec (.handed true) s = .next t ∧
      a = sramBase + 256 * s.upd.hoDst + s.upd.capture.length ∧ ∀ i ∈ heldWords s, OffTileWord s a i) ∧
    (∃ (s t : State) (a : Nat), exec .slotCommitDone s = .next t ∧ a = slotBase s.upd.slotNo + s.upd.slotBytes.length + 4) ∧
    (∃ (m : Master) (v : Word) (s t : State) (a : Nat), exec (.rmemDataAccess m (some v)) s = .next t ∧
      a = ringBase + 4 * rdf s (ringKey 0 0x0D0) 0 16 + 4) ∧
    (∃ (m : Master) (b : Nat) (bytes : List Byte) (s t : State) (a : Nat), sramBase ≤ b ∧ b < sramBase + 0x400000 ∧
      exec (.registerWrite m b bytes) s = .next t ∧ a = b + bytes.length) ∧
    (∃ (m : Master) (b : Nat) (ws : List Word) (s t : State) (a : Nat), exec (.engineMemoryWrite m b ws) s = .next t ∧
      a = b + 4 * ws.length ∧ ∀ i, i < ws.length → OffTileWord s a (engOff (b + 4 * i) / 4)) ∧
    (∃ (n : Fin 32) (dr : Drain) (s t : State) (a : Nat), (lane s n).drain = some dr ∧ exec (.drainComplete n) s = .next t ∧
      a = tileAddr 5 2 - 1 ∧ (∀ w ∈ dr.sts, OffTileWord s a w.1) ∧ ∀ i ∈ heldWords s, OffTileWord s a i) ∧
    (∃ (n : Fin 32) (dr : Drain) (s t : State) (a : Nat), (lane s n).drain = some dr ∧ exec (.passStart n) s = .next t ∧
      a = tileAddr 5 1023 + 4 ∧ (∀ w ∈ dr.sts, OffTileWord s a w.1) ∧ ∀ i ∈ heldWords s, OffTileWord s a i) ∧
    (∃ (n : Fin 32) (s t : State), (lane s n).drain = none ∧ exec (.passStart n) s = .next t) ∧
    (∃ (ok : Bool) (s t : State) (a : Nat), exec (.fbDrain ok) s = .next t ∧ a = fbAddr s.fb.pos + 32) ∧
    (∃ (m : MonSnap) (s t : State) (a : Nat), s.monument.busy = some m ∧ exec .monumentWritten s = .next t ∧
      a = monHalf (monTarget s) + (recordBytes s (monTarget s) m).length) ∧
    (∃ (r : Fin 2) (body : List Byte) (x : RxCell) (s t : State) (a : Nat), (link s r).rx = some x ∧
      cellType (x.hdr ++ padTo 52 body) = 1 ∧ gatewayPeer s (cellStream (x.hdr ++ padTo 52 body)) = none ∧
      exec (.cellEnd r body 0 false) s = .next t ∧ a = ringBase + 128 ∧ OffSlots s (cellStream (x.hdr ++ padTo 52 body)) a) ∧
    ∃ (r : Fin 2) (body : List Byte) (s t : State) (a : Nat), exec (.cellEnd r body 0 false) s = .next t ∧ ∀ n, OffSlots s n a :=
  ⟨⟨_, _, { wUp with nvm := { wUp.nvm with queue := [(nvBase, [1#8, 2#8], (0, none))] } }, _, _, rfl, rfl, rfl⟩,
   ⟨.hart 0, nvBase, [1#8], _, _, { wUp with nvm := { wUp.nvm with queue := [(nvBase, [1#8, 2#8], (0, none))] } }, _, _, rfl, rfl, rfl⟩,
   ⟨.hart 0, nvBase, [1#8], wUp, _, by decide, rfl⟩,
   ⟨1, 0, wUp, _, _, rfl, rfl⟩,
   ⟨1, [1#8, 2#8], 0, wUp, _, _, rfl, Nat.le_max_left _ _, Nat.le_max_right _ _⟩,
   ⟨wUp, _, _, rfl, rfl, fun _ h => absurd h List.not_mem_nil⟩, ⟨wUp, _, _, rfl, rfl⟩, ⟨.hart 0, 5#32, wUp, _, _, rfl, rfl⟩,
   ⟨.hart 0, sramBase + 0x3FFFFC, [1#8, 2#8, 3#8, 4#8], wUp, _, _, by decide, by decide, rfl, rfl⟩,
   ⟨.hart 0, engBase + 0x5008, [1#32, 2#32], wDrain, _, _, rfl, rfl, by unfold OffTileWord; decide⟩,
   ⟨31, _, wDrain, _, _, rfl, rfl, rfl, by unfold OffTileWord; decide, by unfold OffTileWord; decide⟩,
   ⟨31, _, wDrain, _, _, rfl, rfl, rfl, by unfold OffTileWord; decide, by unfold OffTileWord; decide⟩,
   ⟨0, wDrain, _, rfl, rfl⟩, ⟨true, wUp, _, _, rfl, rfl⟩,
   ⟨_, { wUp with monument := { wUp.monument with busy := some wMon } }, _, _, rfl, rfl, rfl⟩,
   ⟨0, [], _, wCell [(0, { cfg := 2#32, buf := 0x20000#32, st := 2 })], _, ringBase + 128, rfl, by decide, by decide, rfl, rfl, by unfold OffSlots; decide⟩,
   ⟨0, [], wCell [], _, ringBase, rfl, fun _ k h => by simp [rstream, smGet, wCell, RStream.size, fld, rstream0] at h⟩⟩

/-- The hypotheses of CommandsKeepOtherParts can be met. -/
theorem witness_commandsKeepOtherParts : ∃ (c : Instr) (s t : State) (p : Part), exec c s = .next t ∧ p ∉ touched c :=
  ⟨.spoRequest (.hart 0), wUp, _, .mem, rfl, by decide⟩

/-- The hypotheses of CommandsKeepOtherRegisters can be met. -/
theorem witness_commandsKeepOtherRegisters :
    ∃ (c : Instr) (ks : List Nat) (s t : State) (k : Nat), registersOf c = some ks ∧ exec c s = .next t ∧ k ∉ ks :=
  ⟨.gpioSet (.hart 0) 5#32, _, wUp, _, rk .adc 0 0x040, rfl, rfl, by decide⟩

/-! Commands no sender can give are refused by the well-formedness checks, and one of each check that passes -/

/-- A shadow write names a shadowed register. -/
theorem test_wf_shadow : WellFormed (.shadowWrite (.hart 0) 0x40100100 0) = false ∧ WellFormed (.shadowWrite (.hart 0) 0x40200040 0) = true := by
  decide +kernel
/-- ARM and DISCARD name groups their page has: ADC pages have group 0 alone, DATUM has none. -/
theorem test_wf_groups : WellFormed (.arm (.hart 0) 0x200 2#8) = false ∧ WellFormed (.discard (.hart 0) 0x702 1#8) = false ∧
    WellFormed (.arm (.hart 0) 0x200 1#8) = true := by decide +kernel
/-- Converter codes have 16 bits. -/
theorem test_wf_code : WellFormed (.slotEnd 0 32768 0 false) = false ∧ WellFormed (.entryEnd 0 (-32769) 0) = false ∧
    WellFormed (.slotEnd 0 (-32768) 0 false) = true := by decide +kernel
/-- Engine memory is written by aligned words inside its range. -/
theorem test_wf_engine : WellFormed (.engineMemoryWrite (.hart 0) 0x20000004 [0, 0]) = false ∧
    WellFormed (.engineMemoryWrite (.hart 0) 0x20100000 [0]) = false ∧ WellFormed (.engineMemoryWrite (.hart 0) 0x200FFFFC [0]) = true := by
  decide +kernel
/-- A trip input has a number below 48; a monitor's window may have any of the 96. -/
theorem test_wf_blanking : WellFormed (.blankingEnd false 48) = false ∧ WellFormed (.blankingEnd true 95) = true := by decide +kernel
/-- A metering sample has six channels. -/
theorem test_wf_meter : WellFormed (.meterSample 0 [0, 0, 0, 0, 0] none) = false := by decide +kernel
/-- A cell has a header of 12 bytes and 52 bytes after it. -/
theorem test_wf_cell : WellFormed (.cellHeader 0 (List.replicate 11 0)) = false ∧ WellFormed (.cellEnd 0 (List.replicate 53 0) 0 false) = false := by
  decide +kernel
/-- Plumb's scan codes have 12 bits. -/
theorem test_wf_scan : WellFormed (.scan 0 none 2048) = false ∧ WellFormed (.scan 0 none (-2048)) = true := by decide +kernel
/-- Pair frames have 264 bytes. -/
theorem test_wf_frames : WellFormed (.heartbeatReceived false (List.replicate 263 0) false) = false ∧
    WellFormed (.segmentReceived (List.replicate 265 0) false) = false := by decide +kernel
/-- A thermal measurement has 24 results. -/
theorem test_wf_temps : WellFormed (.measurementDone []) = false := by decide +kernel
/-- NV writes lie in the NV window and move 1, 2, 4 or 8 bytes. -/
theorem test_wf_nv : WellFormed (.nvWrite (.hart 0) 0x0A800000 [0]) = false ∧ WellFormed (.nvWrite (.hart 0) 0x08000000 [0, 0, 0]) = false ∧
    WellFormed (.nvWrite (.hart 0) 0x0A7FFFFF [0]) = true := by decide +kernel
/-- Debug accesses are of aligned words. -/
theorem test_wf_debug : WellFormed (.accessMemory 0 true 2 0) = false ∧ WellFormed (.systemBusAccess true 1 0) = false := by decide +kernel
/-- BYPASS is every TAP code without a name of its own. -/
theorem test_wf_bypass : WellFormed (.bypass 0x01) = false ∧ WellFormed (.bypass 0x1F) = true := by decide +kernel
/-- RWL_WRITE names a guarded register. -/
theorem test_wf_guarded : WellFormed (.rwlWrite (.hart 0) 0x40200040 0) = false := by decide +kernel
/-- A bus access moves 1, 2, 4 or 8 bytes. -/
theorem test_wf_access : WellFormed (.registerWrite (.hart 0) 0x40200014 [0, 0, 0]) = false := by decide +kernel

/-! The spec's worked examples and tables, one step each -/

/-- An operation word from its fields (R76). -/
def opWord (opc d : Nat) (g : Option (Nat × Bool)) (a b c : Nat) : Nat :=
  opc * 2 ^ 58 + d * 2 ^ 52 + (match g with | none => 0 | some (q, v) => 2 ^ 51 + q * 2 ^ 49 + (if v then 2 ^ 48 else 0)) +
    a * 2 ^ 32 + b * 2 ^ 16 + c

/-- Operation 2 of the example of spec/03_traverse_engine.md. -/
theorem test_op_word_fma : opOf 0x1420400000018001 = { opc := 5, d := 2, gen := false, gq := 0, gs := false, a := 0x4000, b := 1, c := 0x8001 } := by
  decide +kernel

/-- Operation 7 of that example. -/
theorem test_op_word_sts : opOf 0xC00D800100040000 = { opc := 0x30, d := 0, gen := true, gq := 2, gs := true, a := 0x8001, b := 4, c := 0 } := by
  decide +kernel

/-- The program of that example. -/
def stringLoop : List Nat := [opWord 3 1 none 0x8000 0x1060 0, opWord 0x24 0 none 0x1061 0x50 0, 0x1420400000018001,
  opWord 5 4 none 0x4001 1 0x8001, opWord 0xB 3 none 2 0x4002 0x4003, opWord 0x22 1 none 3 2 0,
  opWord 0x25 2 none 0xF000 0xF001 0, 0xC00D800100040000, opWord 0x31 0 (some (0, true)) 0x2160 3 0]

/-- The inputs of that example: 9.6 A and VALID; kp, ki T and the duty limits; the reference 10 A and the integrator 0.62. -/
def stringEnv : PassEnv :=
  { inp := fun p => if p = 0x1060 then 0x4119999A#32 else if p = 0x1061 then 1#32 else 0#32
    cmap := fun _ => 0x29
    smap := fun _ => 0x2A
    mem := fun t i => (if t = 0x29 then [0x3C23D70A#32, 0x3A03126F#32, 0x3D4CCCCD#32, 0x3F666666#32] else [0x41200000#32, 0x3F1EB852#32]).getD i 0#32 }

/-- Every operation of that example passes the decode check for lane 5. -/
theorem test_string_loop_decodes : (stringLoop.all fun w => opOk 5 (fun _ => true) (fun _ => true) (opOf w)) = true := by decide +kernel

/-- That example's pass: a duty of 0.624 at the last operation, issued at cycle 14, t_ops 15, and the integrator 0.6202. -/
theorem test_string_loop_runs : let m := PassM.run stringEnv (stringLoop.map opOf) 0 {}
    m.outs = [⟨8, 14, 0x2160, 0x3F1FBE77#32⟩] ∧ m.sts = [(0x2A * 1024 + 1, 0x3F1EC56D#32)] ∧ m.last = 15 := by decide +kernel

/-- The example of spec/02_fast_sensing.md: a sum of 1,000,000 over 312,500 steps averages to 16,000 LSB. -/
theorem test_period_average : adcAverage 1000000 5000 312500 = 0x003E8000 := by decide +kernel

/-- That example: with SCALE 0.000625 the engine receives 10.0. -/
theorem test_period_value : adcValue 0x003E8000 0 0x3A23D70A#32 = 0x41200000#32 := by decide +kernel

/-- That example: the partial slot of 50 ns scales 12,871 LSB to 6,436. -/
theorem test_partial_slot : (addSlot wUp 12 5000 {} 2500 12871 0 false).1.sum = 6436 := by decide +kernel

/-- Station 17's auxiliary group in the example of spec/06_stage_guard.md before the short, with phases 5 and 6 enabled. -/
def wShort : State := { wUp with
  drvs := [(1, { vdrvOk := true, regEn := true, off := false })]
  regs := [(rk .drv 1 0x040, 0x130#32), (phKey 5 0, 0xEEBC0A01#32), (phKey 6 0, 0xEEBC0A01#32)] }

/-- That example: phase 5 crosses OC_TH in tick 315 and phase 6 GROSS_TH in tick 321; GRP_STAT reads 0x0000_0627. -/
theorem test_group_status : grpStat (nextOf (execSenseDetection 6 1905 { nextOf (execSenseDetection 5 1505 wShort) with now := 321 * tickLen })) 1 = 0x627 := by
  decide +kernel

/-- R188: a voltage that is not above OC_TH is no detection. -/
theorem test_sense_below : (nextOf (execSenseDetection 5 1504 wShort)).regs = wShort.regs := by decide +kernel

/-- The example of spec/09_string_tracking.md: of the 15 powers, point 11 is the largest. -/
theorem test_best_point : (bestPoint { npts := 15, pows := [0x44960000#32, 0x4512E000#32, 0x45300000#32, 0x454E4000#32, 0x45610000#32, 0x455AC000#32,
    0x45480000#32, 0x45386000#32, 0x454E4000#32, 0x4564C000#32, 0x4576E000#32, 0x45811000#32, 0x457B4000#32, 0x45638000#32, 0x4548A000#32].zipIdx.map (fun x => (x.2, x.1)) }).map (·.1) = some 11 := by decide +kernel

/-- Rail 1 of the example of spec/10_multiphase_regulator.md: 12.0 V in RUN, commanded to 12.6 V at 0.5 V/ms. -/
def wOneRail : State := { wUp with
  regs := [(regKey 1 0x08C, 0x3F000000#32), (regKey 1 0x090, 0x3F000000#32)]
  rails := [(1, { st := 2, vref := 0x41400000#32, target := 0x4149999A#32 })] }

/-- That example: a boundary of 2 us steps VREF by 1 mV, to 12.001 V. -/
theorem test_vref_step : (rail (stepVref 1 (2 * usec) wOneRail) 1).vref = 0x41400419#32 := by decide +kernel

/-- The example of spec/11_metering.md: a cycle of 800 samples at 60 kW is 1200 J, 333.333 mWh. -/
theorem test_cycle_energy : toEnergy (60000 * 800 * 2 ^ 64) = 1000 * 2 ^ 32 / 3 := by decide +kernel

/-- That example: 10,000,000 mWh on a register at 2^48 − 4096 leave 9,995,904, and E_WRAP bit 1 is set. -/
theorem test_energy_wraps : let s := addEnergy 0 1 (10000000 * 2 ^ 32) { wUp with meters := [(0, { accs := [(1, (2 ^ 48 - 4096) * 2 ^ 32)] })] }
    smGet (smConst 0) (meter s 0).accs 1 = 9995904 * 2 ^ 32 ∧ rd s (mtrKey 0 0x140) = 2 := by decide +kernel

/-- A time stamp of nanoseconds and sixteenths of a nanosecond (R357: units of 62.5 ps / 65,536). -/
def stampNs (sixteenths : Nat) : Nat := sixteenths * 65536

/-- The answer of station 16 in the example of spec/13_datum_and_plant_interleave.md, all times rounded to 62.5 ps. -/
def hopBytes : List Byte :=
  [0x20#8, 0#8, 0#8, 0#8, 0#8, 0#8] ++ beBytes 2 3 ++ beBytes 10 (stampNs 16077669) ++ beBytes 10 (stampNs 16000000) ++
    beBytes 10 (stampNs 16053669) ++ List.replicate 10 0#8

/-- Station 17 in that example, its source on side A, with that answer just arrived. -/
def wHop : State := { wUp with
  regs := [(datKey 0x044, 0x0803007D#32), (datKey 0x050, 0xFFFF9E58#32), (datKey 0x060, 0x3E8#32)]
  datum := { wDatum with sideA := { sent := [(3, stampNs 16000000, 0, 0)] }, source := 1, fresh := true }
  rings := { inbox := [{ side := 0, bytes := hopBytes, bad := false, stamp := stampNs 16131067, when' := 0 }] } }

/-- That example: the exchange gives an offset of +4 ns, to the 62.5 ps its times are rounded to here. -/
theorem test_exchange_offset : ((nextOf (execBacksightReceived 0 wHop)).datum.offset - 4000 * onePs).natAbs ≤ 63 * onePs := by decide +kernel

/-- The example of spec/18_valley_domain.md: 0.1 F with a reserve of 689,800 uJ. -/
def wStore (mv : Nat) : State := { wUp with
  regs := [(valKey 0x044, 0x186A0#32), (valKey 0x048, 0xA8688#32)]
  valley := { wUp.valley with vstore := mv, vpg := true } }

/-- That example: at 4.33 V the budget is 5,645 uJ. -/
theorem test_energy_budget : budget (wStore 4330) = 5645 := by decide +kernel

/-- That example: 2,000 uJ are refused at 4.193 V and granted at 4.33 V. -/
theorem test_energy_gate : admits (wStore 4190) 2000 = false ∧ admits (wStore 4330) 2000 = true := by decide +kernel

/-- The example of spec/16_events_and_trouble.md at slot 196: event 320 waits since 0 us, promoted to urgent, on channel 30. -/
def wStarved : State := { wUp with
  now := 100352 * 50
  regs := [(rk .evr 0 (0x400 + 16 * 30), 0x313#32)]
  evr := { wUp.evr with srcs := [(320, { q := [{ stamp := 0, route := 0x5E#32, merged := 0, promoted := true, doneA := false, doneB := false, since := 0 }] })] } }

/-- That example: the record reads CH30_REC0 = 0x0000_0340. -/
theorem test_promoted_record : (nextOf (execRec0Read (.hart 0) 30 (nextOf (execDelivery 30 wStarved)))).bus.rdata = 0x340 := by decide +kernel

/-- R531: IDCODE answers 0x1964_805B. -/
theorem test_idcode : (nextOf (execIdcode wUp)).bus.rdata = 0x1964805B := by decide +kernel

/-- R63: ADC5 identifies itself as page type 0x0105, instance 5, layout version 1, with event 245. -/
theorem test_adc_page : pageValue wUp .adc 5 0 = 0x01050501 ∧ pageValue wUp .adc 5 0x01C = 245 := by decide +kernel

/-- R228: GRID2's ID, CAPS and EV_BASE. -/
theorem test_grid_page : pageValue wUp .grid 2 0 = 0x010C0201 ∧ pageValue wUp .grid 2 4 = 0x2001 ∧ pageValue wUp .grid 2 0x01C = 352 := by
  decide +kernel

/-- R72: CRC-32C of the nine digits. The expected value is the polynomial's published check value. -/
theorem test_crc32c : crc32c [0x31#8, 0x32#8, 0x33#8, 0x34#8, 0x35#8, 0x36#8, 0x37#8, 0x38#8, 0x39#8] = 0xE3069283 := by decide +kernel

/-- R78: half of K1 times K4 is K1; a subnormal operand is zero (R84). -/
theorem test_float_ops : mulF 0x3F000000#32 0x40000000#32 = 0x3F800000#32 ∧ mulF 0x00000001#32 0x7F000000#32 = 0#32 := by decide +kernel

/-- R36: selection 2 of ADC30 reaches AIN[32 + (30 + 11) mod 32]. -/
theorem test_input_selection : adcInput 30 2 = 41 := by decide +kernel

/-- R1, R3: with SPO latched every output of leg 0 is low. -/
theorem test_spo_low : pwmPins wUp 0 = (false, false) := by decide +kernel
end

section
/-! The stage's outputs: what a latched SPO does to them (R3, R383, R531), and the interlock on every path to them (R2). -/

namespace Sys2Proof.Machine

/-- A latched SPO is rank 1 of R1, over every other hold (R3). -/
theorem legRank_of_spo {s : State} (h : s.plumb.spo = true) (l : Nat) : legRank s l = 1 := by
  simp [legRank, h]

/-- Rank 1 holds both outputs of a leg low. -/
theorem legLevels_of_spo {s : State} (h : s.plumb.spo = true) (l : Nat) : legLevels s l = (false, false) := by
  simp [legLevels, legRank_of_spo h, interlock]

theorem pwmPins_of_spo {s : State} (h : s.plumb.spo = true) (l : Nat) : pwmPins s l = (false, false) := by
  simp [pwmPins, legLevels_of_spo h]

theorem drvPins_of_spo {s : State} (h : s.plumb.spo = true) (p : Nat) : drvPins s p = (false, false) := by
  simp [drvPins, legLevels_of_spo h]

/-- The gate through which EXTEST drives the stage is shut by SPO (R531). -/
theorem extestDriver_of_spo {s : State} (h : s.plumb.spo = true) (pin : Nat) : extestDriver s pin = false := by
  simp [extestDriver, h]

theorem pwmOut_of_spo {s : State} (h : s.plumb.spo = true) (l : Fin 96) : pwmOut s l = (.low, .low) := by
  simp [pwmOut, pwmPins_of_spo h, extestDriver_of_spo h, interlock, pushPull]

theorem drvOut_of_spo {s : State} (h : s.plumb.spo = true) (p : Fin 16) : drvOut s p = (.low, .low) := by
  simp [drvOut, drvPins_of_spo h, extestDriver_of_spo h, interlock, pushPull]

/-- Settles O54: rank 1 decides the levels of R1, and the SPO gate those of EXTEST. -/
theorem spoHoldsThePinsLow : Obligations.SpoHoldsThePinsLow := by
  unfold Obligations.SpoHoldsThePinsLow
  intro s h
  exact ⟨fun l _ => pwmPins_of_spo h l, fun p _ => drvPins_of_spo h p, pwmOut_of_spo h, drvOut_of_spo h⟩

/-- The interlock lets no path drive both outputs high (R2, R143). -/
theorem interlock_ne_both (v : Bool × Bool) : interlock v ≠ (true, true) := by
  rcases v with ⟨_ | _, _ | _⟩ <;> decide

theorem legLevels_ne_both (s : State) (l : Nat) : legLevels s l ≠ (true, true) := by
  unfold legLevels
  split
  · decide
  · exact interlock_ne_both _

theorem pwmPins_ne_both (s : State) (l : Nat) : pwmPins s l ≠ (true, true) := by
  unfold pwmPins
  split
  · decide
  · exact legLevels_ne_both s l

theorem drvPins_ne_both (s : State) (p : Nat) : drvPins s p ≠ (true, true) := by
  unfold drvPins
  split
  · decide
  · intro h
    obtain ⟨hA, hB⟩ := Prod.mk.inj h
    exact legLevels_ne_both s (80 + p) (Prod.ext (Bool.and_eq_true_iff.mp hA).1 hB)

/-- A ball is high only where its level is. -/
theorem pushPull_eq_high {s : State} {v : Bool} (h : pushPull s v = .high) : v = true := by
  cases v
  · simp [pushPull] at h
  · rfl

theorem pushPull_ne_both {s : State} {v : Bool × Bool} (hv : v ≠ (true, true)) :
    (pushPull s v.1, pushPull s v.2) ≠ (PinState.high, PinState.high) := fun h =>
  have ⟨hA, hB⟩ := Prod.mk.inj h
  hv (Prod.ext (pushPull_eq_high hA) (pushPull_eq_high hB))

theorem pwmOut_ne_both (s : State) (l : Fin 96) : pwmOut s l ≠ (.high, .high) := by
  refine pushPull_ne_both ?_
  split
  · exact interlock_ne_both _
  · exact pwmPins_ne_both s l

theorem drvOut_ne_both (s : State) (p : Fin 16) : drvOut s p ≠ (.high, .high) := by
  refine pushPull_ne_both ?_
  split
  · exact interlock_ne_both _
  · exact drvPins_ne_both s p

/-- Settles O55: an interlock stands on every path to the balls, that of EXTEST too. -/
theorem neverBothSwitchesOn : Obligations.NeverBothSwitchesOn := by
  unfold Obligations.NeverBothSwitchesOn
  exact fun s => ⟨pwmPins_ne_both s, drvPins_ne_both s, pwmOut_ne_both s, drvOut_ne_both s⟩

end Sys2Proof.Machine
end

section
/-! What each command leaves alone: its meaning keeps whatever does not depend on the parts that `touched` lists, by the lemma
of that meaning in the Stay files. -/

namespace Sys2Proof.Machine

/-- The number of a part: its place in State, by which `Free` numbers it. -/
def Part.number (p : Part) : Nat := p.ctorIdx

theorem Part.number_inj {p q : Part} (h : p.number = q.number) : p = q := by
  rw [← Part.ofNat_ctorIdx p, ← Part.ofNat_ctorIdx q]
  exact congrArg Part.ofNat h

/-- Parts as the bits of a number. -/
def partsMask (ps : List Part) : Nat := ps.foldr (fun p m => 2 ^ p.number ||| m) 0

theorem mem_of_testBit_partsMask {p : Part} {ps : List Part} (h : (partsMask ps).testBit p.number = true) : p ∈ ps := by
  induction ps with
  | nil => simp [partsMask] at h
  | cons q qs ih =>
    rw [partsMask, List.foldr_cons, Nat.testBit_or, Nat.testBit_two_pow, Bool.or_eq_true, decide_eq_true_eq] at h
    rcases h with h | h
    · exact Part.number_inj h ▸ List.mem_cons_self
    · exact List.mem_cons_of_mem q (ih h)

/-- Whether a part is as it was depends on that part alone: an update of any other component leaves the part's field as it is. -/
theorem Part.same_free (p : Part) (s : State) (i : Nat) (h : i ≠ p.number) : Free (fun t => p.same s t) i := by
  unfold Free
  split
  all_goals first
    | trivial
    | intro u v
      cases p <;> first | rfl | exact absurd rfl h

/-- A part outside a list is free of the components in the list. -/
theorem Part.same_allFree {p : Part} {ps : List Part} (s : State) (hp : p ∉ ps) :
    AllFree (fun t => p.same s t) (partsMask ps) := fun i hi =>
  p.same_free s i fun e => hp (mem_of_testBit_partsMask (e ▸ hi))

theorem Part.same_refl (p : Part) (s : State) : p.same s s := by cases p <;> rfl

/-- Each command keeps what does not depend on the parts of its row of `touched`. -/
theorem exec_stays {α : Type} {π : State → α} {r0 s : State} (c : Instr)
    (hπ : AllFree π (partsMask (touched c))) (hF : Stays π r0 s) : ∃ t, exec c s = .next t ∧ Stays π r0 t := by
  cases c <;> dsimp only [touched] at hπ
  case boundary d => exact execBoundary_stays (hπ.sub (by decide)) d hF
  case shadowWrite m a v => exact execShadowWrite_stays (hπ.sub (by decide)) m a v hF
  case arm m page groups => exact execArm_stays (hπ.sub (by decide)) m page groups hF
  case discard m page groups => exact execDiscard_stays (hπ.sub (by decide)) m page groups hF
  case converterGroupCommit n => exact execConverterGroupCommit_stays (hπ.sub (by decide)) n hF
  case passStart n => exact execPassStart_stays (hπ.sub (by decide)) n hF
  case passEnd n => exact execPassEnd_stays (hπ.sub (by decide)) n hF
  case passOverrun n => exact execPassOverrun_stays (hπ.sub (by decide)) n hF
  case drainComplete n => exact execDrainComplete_stays (hπ.sub (by decide)) n hF
  case slotEnd n code side err => exact execSlotEnd_stays (hπ.sub (by decide)) n code side err hF
  case averageDelivered n => exact execAverageDelivered_stays (hπ.sub (by decide)) n hF
  case blockEnd n => exact execBlockEnd_stays (hπ.sub (by decide)) n hF
  case avgRead m n => exact execAvgRead_stays (hπ.sub (by decide)) m n hF
  case regularTrigger n => exact execRegularTrigger_stays (hπ.sub (by decide)) n hF
  case urgentTrigger n => exact execUrgentTrigger_stays (hπ.sub (by decide)) n hF
  case entryEnd n code side => exact execEntryEnd_stays (hπ.sub (by decide)) n code side hF
  case swStart m n => exact execSwStart_stays (hπ.sub (by decide)) m n hF
  case converterReady n => exact execConverterReady_stays (hπ.sub (by decide)) n hF
  case lpSettled n => exact execLpSettled_stays (hπ.sub (by decide)) n hF
  case resultRead m n j => exact execResultRead_stays (hπ.sub (by decide)) m n j hF
  case laneEnable m n => exact execLaneEnable_stays (hπ.sub (by decide)) m n hF
  case laneDisable m n => exact execLaneDisable_stays (hπ.sub (by decide)) m n hF
  case swap m n => exact execSwap_stays (hπ.sub (by decide)) m n hF
  case bankVerified n => exact execBankVerified_stays (hπ.sub (by decide)) n hF
  case swapAll m mode => exact execSwapAll_stays (hπ.sub (by decide)) m mode hF
  case globalVerified => exact execGlobalVerified_stays (hπ.sub (by decide)) hF
  case cancel m mode => exact execCancel_stays (hπ.sub (by decide)) m mode hF
  case tileTypeWrite m j v => exact execTileTypeWrite_stays (hπ.sub (by decide)) m j v hF
  case engineMemoryWrite m a ws => exact execEngineMemoryWrite_stays (hπ.sub (by decide)) m a ws hF
  case tileVerify m tile => exact execTileVerify_stays (hπ.sub (by decide)) m tile hF
  case tileVerifyDone => exact execTileVerifyDone_stays (hπ.sub (by decide)) hF
  case generatorStart m g => exact execGeneratorStart_stays (hπ.sub (by decide)) m g hF
  case generatorStop m g => exact execGeneratorStop_stays (hπ.sub (by decide)) m g hF
  case capDataRead m => exact execCapDataRead_stays (hπ.sub (by decide)) m hF
  case iaccLoRead m g j => exact execIaccLoRead_stays (hπ.sub (by decide)) m g j hF
  case legDomainWrite m l v => exact execLegDomainWrite_stays (hπ.sub (by decide)) m l v hF
  case edge l outB => exact execEdge_stays (hπ.sub (by decide)) l outB hF
  case calibrationDone l taps => exact execCalibrationDone_stays (hπ.sub (by decide)) l taps hF
  case twinChange l => exact execTwinChange_stays (hπ.sub (by decide)) l hF
  case calibrationExpiry l => exact execCalibrationExpiry_stays (hπ.sub (by decide)) l hF
  case lockReq m d stretch slew => exact execLockReq_stays (hπ.sub (by decide)) m d stretch slew hF
  case lockReqClear m d stretch slew => exact execLockReqClear_stays (hπ.sub (by decide)) m d stretch slew hF
  case darm m n v => exact execDarm_stays (hπ.sub (by decide)) m n v hF
  case safeStateSet m k => exact execSafeStateSet_stays (hπ.sub (by decide)) m k hF
  case safeStateClear m k => exact execSafeStateClear_stays (hπ.sub (by decide)) m k hF
  case tripPinChange line active => exact execTripPinChange_stays (hπ.sub (by decide)) line active hF
  case tripAssert unit => exact execTripAssert_stays (hπ.sub (by decide)) unit hF
  case tripRelease unit => exact execTripRelease_stays (hπ.sub (by decide)) unit hF
  case blankingEnd monitor unit => exact execBlankingEnd_stays (hπ.sub (by decide)) monitor unit hF
  case stuck unit => exact execStuck_stays (hπ.sub (by decide)) unit hF
  case heldClear m unit => exact execHeldClear_stays (hπ.sub (by decide)) m unit hF
  case tripActionWrite m unit v => exact execTripActionWrite_stays (hπ.sub (by decide)) m unit v hF
  case monitorCrossing unit before after => exact execMonitorCrossing_stays (hπ.sub (by decide)) unit before after hF
  case monitorEnable m unit v => exact execMonitorEnable_stays (hπ.sub (by decide)) m unit v hF
  case monitorSettled unit => exact execMonitorSettled_stays (hπ.sub (by decide)) unit hF
  case latchedClear m unit => exact execLatchedClear_stays (hπ.sub (by decide)) m unit hF
  case phaseEnableWrite m p v => exact execPhaseEnableWrite_stays (hπ.sub (by decide)) m p v hF
  case vdrvUv g => exact execVdrvUv_stays (hπ.sub (by decide)) g hF
  case vdrvOk g => exact execVdrvOk_stays (hπ.sub (by decide)) g hF
  case bstUv p => exact execBstUv_stays (hπ.sub (by decide)) p hF
  case bstOk p => exact execBstOk_stays (hπ.sub (by decide)) p hF
  case drvBlankingEnd p => exact execDrvBlankingEnd_stays (hπ.sub (by decide)) p hF
  case senseDetection p mv => exact execSenseDetection_stays (hπ.sub (by decide)) p mv hF
  case regEnLow g => exact execRegEnLow_stays (hπ.sub (by decide)) g hF
  case regEnRise g => exact execRegEnRise_stays (hπ.sub (by decide)) g hF
  case gridConnect m g => exact execGridConnect_stays (hπ.sub (by decide)) m g hF
  case gridDisconnect m g => exact execGridDisconnect_stays (hπ.sub (by decide)) m g hF
  case gridUpdate g => exact execGridUpdate_stays (hπ.sub (by decide)) g hF
  case curveEntryWrite m g e ecfg v => exact execCurveEntryWrite_stays (hπ.sub (by decide)) m g e ecfg v hF
  case islEnable m => exact execIslEnable_stays (hπ.sub (by decide)) m hF
  case islDisable m => exact execIslDisable_stays (hπ.sub (by decide)) m hF
  case islClear m => exact execIslClear_stays (hπ.sub (by decide)) m hF
  case codeEpoch => exact execCodeEpoch_stays (hπ.sub (by decide)) hF
  case periodClosed => exact execPeriodClosed_stays (hπ.sub (by decide)) hF
  case unsure => exact execUnsure_stays (hπ.sub (by decide)) hF
  case ampDataAccess m w => exact execAmpDataAccess_stays (hπ.sub (by decide)) m w hF
  case trackerEnable m t => exact execTrackerEnable_stays (hπ.sub (by decide)) m t hF
  case trackerDisable m t => exact execTrackerDisable_stays (hπ.sub (by decide)) m t hF
  case sweepNow m t => exact execSweepNow_stays (hπ.sub (by decide)) m t hF
  case sweepDue => exact execSweepDue_stays (hπ.sub (by decide)) hF
  case stepEnd t => exact execStepEnd_stays (hπ.sub (by decide)) t hF
  case swpPRead m => exact execSwpPRead_stays (hπ.sub (by decide)) m hF
  case railEnable m r => exact execRailEnable_stays (hπ.sub (by decide)) m r hF
  case railDisable m r => exact execRailDisable_stays (hπ.sub (by decide)) m r hF
  case railUpdate r => exact execRailUpdate_stays (hπ.sub (by decide)) r hF
  case dwellExpiry r => exact execDwellExpiry_stays (hπ.sub (by decide)) r hF
  case hiccupRetry r => exact execHiccupRetry_stays (hπ.sub (by decide)) r hF
  case sstmo r => exact execSstmo_stays (hπ.sub (by decide)) r hF
  case cleanTime r => exact execCleanTime_stays (hπ.sub (by decide)) r hF
  case vset m r v => exact execVset_stays (hπ.sub (by decide)) m r v hF
  case avsVoltageWrite f commit mv => exact execAvsVoltageWrite_stays (hπ.sub (by decide)) f commit mv hF
  case avsVoltageRead f => exact execAvsVoltageRead_stays (hπ.sub (by decide)) f hF
  case avsTransrateWrite f commit up dn => exact execAvsTransrateWrite_stays (hπ.sub (by decide)) f commit up dn hF
  case avsTransrateRead f => exact execAvsTransrateRead_stays (hπ.sub (by decide)) f hF
  case avsCurrentRead f => exact execAvsCurrentRead_stays (hπ.sub (by decide)) f hF
  case avsTemperatureRead f => exact execAvsTemperatureRead_stays (hπ.sub (by decide)) f hF
  case avsResetVoltage f commit => exact execAvsResetVoltage_stays (hπ.sub (by decide)) f commit hF
  case avsStatusWrite f commit => exact execAvsStatusWrite_stays (hπ.sub (by decide)) f commit hF
  case avsStatusRead f => exact execAvsStatusRead_stays (hπ.sub (by decide)) f hF
  case avsInvalidCommand f => exact execAvsInvalidCommand_stays (hπ.sub (by decide)) f hF
  case page addr badPec v => exact execPage_stays (hπ.sub (by decide)) addr badPec v hF
  case operation addr badPec v => exact execOperation_stays (hπ.sub (by decide)) addr badPec v hF
  case clearFaults addr badPec => exact execClearFaults_stays (hπ.sub (by decide)) addr badPec hF
  case voutMode addr => exact execVoutMode_stays (hπ.sub (by decide)) addr hF
  case voutCommand addr badPec v => exact execVoutCommand_stays (hπ.sub (by decide)) addr badPec v hF
  case statusWord addr => exact execStatusWord_stays (hπ.sub (by decide)) addr hF
  case readVout addr => exact execReadVout_stays (hπ.sub (by decide)) addr hF
  case readIout addr => exact execReadIout_stays (hπ.sub (by decide)) addr hF
  case pmbusRevision addr => exact execPmbusRevision_stays (hπ.sub (by decide)) addr hF
  case pmbusUnsupported addr code => exact execPmbusUnsupported_stays (hπ.sub (by decide)) addr code hF
  case alertResponse => exact execAlertResponse_stays (hπ.sub (by decide)) hF
  case ringCommand r => exact execRingCommand_stays (hπ.sub (by decide)) r hF
  case cmdLost r => exact execCmdLost_stays (hπ.sub (by decide)) r hF
  case capture m => exact execCapture_stays (hπ.sub (by decide)) m hF
  case monumentWritten => exact execMonumentWritten_stays (hπ.sub (by decide)) hF
  case mtrEnable m p => exact execMtrEnable_stays (hπ.sub (by decide)) m p hF
  case mtrDisable m p => exact execMtrDisable_stays (hπ.sub (by decide)) m p hF
  case preset m p => exact execPreset_stays (hπ.sub (by decide)) m p hF
  case meterSample p nv cross => exact execMeterSample_stays (hπ.sub (by decide)) p nv cross hF
  case cycleClose p => exact execCycleClose_stays (hπ.sub (by decide)) p hF
  case nosync p => exact execNosync_stays (hπ.sub (by decide)) p hF
  case pulseStart p => exact execPulseStart_stays (hπ.sub (by decide)) p hF
  case pulseEnd p => exact execPulseEnd_stays (hπ.sub (by decide)) p hF
  case eLoRead m p k => exact execELoRead_stays (hπ.sub (by decide)) m p k hF
  case cycCntRead m p => exact execCycCntRead_stays (hπ.sub (by decide)) m p hF
  case syncGained r => exact execSyncGained_stays (hπ.sub (by decide)) r hF
  case syncLost r errs => exact execSyncLost_stays (hπ.sub (by decide)) r errs hF
  case linkDown r c => exact execLinkDown_stays (hπ.sub (by decide)) r c hF
  case linkUp r => exact execLinkUp_stays (hπ.sub (by decide)) r hF
  case unwrap r => exact execUnwrap_stays (hπ.sub (by decide)) r hF
  case unwrapNow m r => exact execUnwrapNow_stays (hπ.sub (by decide)) m r hF
  case cellHeader r hdr => exact execCellHeader_stays (hπ.sub (by decide)) r hdr hF
  case cellEnd r body errs bad => exact execCellEnd_stays (hπ.sub (by decide)) r body errs bad hF
  case cellSend r => exact execCellSend_stays (hπ.sub (by decide)) r hF
  case ackTimer n => exact execAckTimer_stays (hπ.sub (by decide)) n hF
  case gapTmo n => exact execGapTmo_stays (hπ.sub (by decide)) n hF
  case retransmit n => exact execRetransmit_stays (hπ.sub (by decide)) n hF
  case openResend n => exact execOpenResend_stays (hπ.sub (by decide)) n hF
  case strOpen m => exact execStrOpen_stays (hπ.sub (by decide)) m hF
  case strClose m => exact execStrClose_stays (hπ.sub (by decide)) m hF
  case strReopen m => exact execStrReopen_stays (hπ.sub (by decide)) m hF
  case put m v => exact execPut_stays (hπ.sub (by decide)) m v hF
  case get m v => exact execGet_stays (hπ.sub (by decide)) m v hF
  case rmemDataAccess m w => exact execRmemDataAccess_stays (hπ.sub (by decide)) m w hF
  case join m r => exact execJoin_stays (hπ.sub (by decide)) m r hF
  case leave m r => exact execLeave_stays (hπ.sub (by decide)) m r hF
  case fordSwitch r => exact execFordSwitch_stays (hπ.sub (by decide)) r hF
  case probeFail r => exact execProbeFail_stays (hπ.sub (by decide)) r hF
  case sfpPresencePoll r ans => exact execSfpPresencePoll_stays (hπ.sub (by decide)) r ans hF
  case sfpDdmPoll r ans => exact execSfpDdmPoll_stays (hπ.sub (by decide)) r ans hF
  case rescan m r ans => exact execRescan_stays (hπ.sub (by decide)) m r ans hF
  case sfpDataRead m r => exact execSfpDataRead_stays (hπ.sub (by decide)) m r hF
  case datumEnable m v => exact execDatumEnable_stays (hπ.sub (by decide)) m v hF
  case exchangeInterval => exact execExchangeInterval_stays (hπ.sub (by decide)) hF
  case foresightReceived r => exact execForesightReceived_stays (hπ.sub (by decide)) r hF
  case backsightReceived r => exact execBacksightReceived_stays (hπ.sub (by decide)) r hF
  case electionTimeout => exact execElectionTimeout_stays (hπ.sub (by decide)) hF
  case datumCycleBoundary => exact execDatumCycleBoundary_stays (hπ.sub (by decide)) hF
  case cycChg m => exact execCycChg_stays (hπ.sub (by decide)) m hF
  case setTime m => exact execSetTime_stays (hπ.sub (by decide)) m hF
  case resync m => exact execResync_stays (hπ.sub (by decide)) m hF
  case timeLoRead m => exact execTimeLoRead_stays (hπ.sub (by decide)) m hF
  case spoRequest m => exact execSpoRequest_stays (hπ.sub (by decide)) m hF
  case spoRelease m => exact execSpoRelease_stays (hπ.sub (by decide)) m hF
  case safeInChange unit chB on => exact execSafeInChange_stays (hπ.sub (by decide)) unit chB on hF
  case discrepancy unit => exact execDiscrepancy_stays (hπ.sub (by decide)) unit hF
  case scan c ch code => exact execScan_stays (hπ.sub (by decide)) c ch code hF
  case soutClose m n => exact execSoutClose_stays (hπ.sub (by decide)) m n hF
  case soutOpen m n => exact execSoutOpen_stays (hπ.sub (by decide)) m n hF
  case soutClr m n => exact execSoutClr_stays (hπ.sub (by decide)) m n hF
  case testNow m n => exact execTestNow_stays (hπ.sub (by decide)) m n hF
  case closeTimeout n => exact execCloseTimeout_stays (hπ.sub (by decide)) n hF
  case soutFeedbackChange n rb => exact execSoutFeedbackChange_stays (hπ.sub (by decide)) n rb hF
  case testDue n => exact execTestDue_stays (hπ.sub (by decide)) n hF
  case testPulseEnd n => exact execTestPulseEnd_stays (hπ.sub (by decide)) n hF
  case testRecoveryEnd n => exact execTestRecoveryEnd_stays (hπ.sub (by decide)) n hF
  case clockCheck pwm fab adc ring => exact execClockCheck_stays (hπ.sub (by decide)) pwm fab adc ring hF
  case freeze => exact execFreeze_stays (hπ.sub (by decide)) hF
  case lockstepMismatch => exact execLockstepMismatch_stays (hπ.sub (by decide)) hF
  case periodicSelftest ok => exact execPeriodicSelftest_stays (hπ.sub (by decide)) ok hF
  case selftestDone ok => exact execSelftestDone_stays (hπ.sub (by decide)) ok hF
  case plumbWriteApplied => exact execPlumbWriteApplied_stays (hπ.sub (by decide)) hF
  case produceMessage c => exact execProduceMessage_stays (hπ.sub (by decide)) c hF
  case consumeMessage c => exact execConsumeMessage_stays (hπ.sub (by decide)) c hF
  case connectionWatchdog c => exact execConnectionWatchdog_stays (hπ.sub (by decide)) c hF
  case connStart m c => exact execConnStart_stays (hπ.sub (by decide)) m c hF
  case connStop m c => exact execConnStop_stays (hπ.sub (by decide)) m c hF
  case enter m => exact execEnter_stays (hπ.sub (by decide)) m hF
  case exit m => exact execExit_stays (hπ.sub (by decide)) m hF
  case saddleReset m => exact execSaddleReset_stays (hπ.sub (by decide)) m hF
  case saddleEvaluation => exact execSaddleEvaluation_stays (hπ.sub (by decide)) hF
  case saddleTimeout => exact execSaddleTimeout_stays (hπ.sub (by decide)) hF
  case cleanTimeout => exact execCleanTimeout_stays (hπ.sub (by decide)) hF
  case unlockSite m len => exact execUnlockSite_stays (hπ.sub (by decide)) m len hF
  case unlockMaker m len => exact execUnlockMaker_stays (hπ.sub (by decide)) m len hF
  case relock m => exact execRelock_stays (hπ.sub (by decide)) m hF
  case setSite m len => exact execSetSite_stays (hπ.sub (by decide)) m len hF
  case setMaker m len => exact execSetMaker_stays (hπ.sub (by decide)) m len hF
  case pwDataWrite m v => exact execPwDataWrite_stays (hπ.sub (by decide)) m v hF
  case sessionTimeout => exact execSessionTimeout_stays (hπ.sub (by decide)) hF
  case lockoutEnd => exact execLockoutEnd_stays (hπ.sub (by decide)) hF
  case fbDrain ok => exact execFbDrain_stays (hπ.sub (by decide)) ok hF
  case fbDataRead m => exact execFbDataRead_stays (hπ.sub (by decide)) m hF
  case pairEnable m v => exact execPairEnable_stays (hπ.sub (by decide)) m v hF
  case go m => exact execGo_stays (hπ.sub (by decide)) m hF
  case give m => exact execGive_stays (hπ.sub (by decide)) m hF
  case keep m => exact execKeep_stays (hπ.sub (by decide)) m hF
  case pairClr m => exact execPairClr_stays (hπ.sub (by decide)) m hF
  case heartbeatSend => exact execHeartbeatSend_stays (hπ.sub (by decide)) hF
  case heartbeatReceived ring frame bad => exact execHeartbeatReceived_stays (hπ.sub (by decide)) ring frame bad hF
  case pathTimeout ring => exact execPathTimeout_stays (hπ.sub (by decide)) ring hF
  case pairEvaluation => exact execPairEvaluation_stays (hπ.sub (by decide)) hF
  case livenessTimeout => exact execLivenessTimeout_stays (hπ.sub (by decide)) hF
  case claimPeerChange low => exact execClaimPeerChange_stays (hπ.sub (by decide)) low hF
  case claimSettle => exact execClaimSettle_stays (hπ.sub (by decide)) hF
  case claimTimeout => exact execClaimTimeout_stays (hπ.sub (by decide)) hF
  case installDone => exact execInstallDone_stays (hπ.sub (by decide)) hF
  case startWait => exact execStartWait_stays (hπ.sub (by decide)) hF
  case peerStuck => exact execPeerStuck_stays (hπ.sub (by decide)) hF
  case localCapture => exact execLocalCapture_stays (hπ.sub (by decide)) hF
  case segmentSend => exact execSegmentSend_stays (hπ.sub (by decide)) hF
  case segmentReceived frame bad => exact execSegmentReceived_stays (hπ.sub (by decide)) frame bad hF
  case delivery n => exact execDelivery_stays (hπ.sub (by decide)) n hF
  case promotion e => exact execPromotion_stays (hπ.sub (by decide)) e hF
  case deadlineWrite m unit v => exact execDeadlineWrite_stays (hπ.sub (by decide)) m unit v hF
  case rec0Read m n => exact execRec0Read_stays (hπ.sub (by decide)) m n hF
  case swRaise m v => exact execSwRaise_stays (hπ.sub (by decide)) m v hF
  case logSubmit => exact execLogSubmit_stays (hπ.sub (by decide)) hF
  case goLog m code => exact execGoLog_stays (hπ.sub (by decide)) m code hF
  case logWrite => exact execLogWrite_stays (hπ.sub (by decide)) hF
  case logDataRead m => exact execLogDataRead_stays (hπ.sub (by decide)) m hF
  case logFullClear m => exact execLogFullClear_stays (hπ.sub (by decide)) m hF
  case replayDone => exact execReplayDone_stays (hπ.sub (by decide)) hF
  case lockLoss => exact execLockLoss_stays (hπ.sub (by decide)) hF
  case refMeasure ppm => exact execRefMeasure_stays (hπ.sub (by decide)) ppm hF
  case referenceQualified => exact execReferenceQualified_stays (hπ.sub (by decide)) hF
  case pllLocked => exact execPllLocked_stays (hπ.sub (by decide)) hF
  case holdRelease => exact execHoldRelease_stays (hπ.sub (by decide)) hF
  case pllRelock m => exact execPllRelock_stays (hπ.sub (by decide)) m hF
  case noref => exact execNoref_stays (hπ.sub (by decide)) hF
  case update m => exact execUpdate_stays (hπ.sub (by decide)) m hF
  case updateMark => exact execUpdateMark_stays (hπ.sub (by decide)) hF
  case pdCtlWrite m v => exact execPdCtlWrite_stays (hπ.sub (by decide)) m v hF
  case pdOn => exact execPdOn_stays (hπ.sub (by decide)) hF
  case pdOff => exact execPdOff_stays (hπ.sub (by decide)) hF
  case supplyFall n => exact execSupplyFall_stays (hπ.sub (by decide)) n hF
  case supplyRise n => exact execSupplyRise_stays (hπ.sub (by decide)) n hF
  case porstAssert => exact execPorstAssert_stays (hπ.sub (by decide)) hF
  case sysrstAssert => exact execSysrstAssert_stays (hπ.sub (by decide)) hF
  case rstCtl m v => exact execRstCtl_stays (hπ.sub (by decide)) m v hF
  case resetEnd => exact execResetEnd_stays (hπ.sub (by decide)) hF
  case guardScan => exact execGuardScan_stays (hπ.sub (by decide)) hF
  case meas m v => exact execMeas_stays (hπ.sub (by decide)) m v hF
  case measurementDone temps => exact execMeasurementDone_stays (hπ.sub (by decide)) temps hF
  case stopTime => exact execStopTime_stays (hπ.sub (by decide)) hF
  case clrStop m => exact execClrStop_stays (hπ.sub (by decide)) m hF
  case tickLoRead m => exact execTickLoRead_stays (hπ.sub (by decide)) m hF
  case valleySample mv => exact execValleySample_stays (hπ.sub (by decide)) mv hF
  case valleyPorEnd => exact execValleyPorEnd_stays (hπ.sub (by decide)) hF
  case openCircuitMeasure mv => exact execOpenCircuitMeasure_stays (hπ.sub (by decide)) mv hF
  case rtcSet m => exact execRtcSet_stays (hπ.sub (by decide)) m hF
  case rtcLoRead m => exact execRtcLoRead_stays (hπ.sub (by decide)) m hF
  case xtFail => exact execXtFail_stays (hπ.sub (by decide)) hF
  case xtRecover => exact execXtRecover_stays (hπ.sub (by decide)) hF
  case burstGo m => exact execBurstGo_stays (hπ.sub (by decide)) m hF
  case burstEnd m => exact execBurstEnd_stays (hπ.sub (by decide)) m hF
  case burstTmo => exact execBurstTmo_stays (hπ.sub (by decide)) hF
  case holdupEnd => exact execHoldupEnd_stays (hπ.sub (by decide)) hF
  case wdtKick m v => exact execWdtKick_stays (hπ.sub (by decide)) m v hF
  case watchdogExpiry h => exact execWatchdogExpiry_stays (hπ.sub (by decide)) h hF
  case mtimecmpMatch h => exact execMtimecmpMatch_stays (hπ.sub (by decide)) h hF
  case scrub errs => exact execScrub_stays (hπ.sub (by decide)) errs hF
  case nvWrite m a bytes => exact execNvWrite_stays (hπ.sub (by decide)) m a bytes hF
  case nvWordWritten => exact execNvWordWritten_stays (hπ.sub (by decide)) hF
  case valLoWrite m n v => exact execValLoWrite_stays (hπ.sub (by decide)) m n v hF
  case valLoRead m n => exact execValLoRead_stays (hπ.sub (by decide)) m n hF
  case extest cells => exact execExtest_stays (hπ.sub (by decide)) cells hF
  case idcode => exact execIdcode_stays (hπ.sub (by decide)) hF
  case samplePreload cells => exact execSamplePreload_stays (hπ.sub (by decide)) cells hF
  case dtmcs v => exact execDtmcs_stays (hπ.sub (by decide)) v hF
  case dmi w a v => exact execDmi_stays (hπ.sub (by decide)) w a v hF
  case bypass code => exact execBypass_stays (hπ.sub (by decide)) code hF
  case dmactive on => exact execDmactive_stays (hπ.sub (by decide)) on hF
  case accessRegister h w regno v => exact execAccessRegister_stays (hπ.sub (by decide)) h w regno v hF
  case accessMemory h w a v => exact execAccessMemory_stays (hπ.sub (by decide)) h w a v hF
  case systemBusAccess w a v => exact execSystemBusAccess_stays (hπ.sub (by decide)) w a v hF
  case ndmreset => exact execNdmreset_stays (hπ.sub (by decide)) hF
  case hartHalt h => exact execHartHalt_stays (hπ.sub (by decide)) h hF
  case hartResume => exact execHartResume_stays (hπ.sub (by decide)) hF
  case apply m => exact execApply_stays (hπ.sub (by decide)) m hF
  case applyDone => exact execApplyDone_stays (hπ.sub (by decide)) hF
  case boot m => exact execBoot_stays (hπ.sub (by decide)) m hF
  case ready m => exact execReady_stays (hπ.sub (by decide)) m hF
  case updArm m => exact execUpdArm_stays (hπ.sub (by decide)) m hF
  case handed ok => exact execHanded_stays (hπ.sub (by decide)) ok hF
  case accept m => exact execAccept_stays (hπ.sub (by decide)) m hF
  case reject m => exact execReject_stays (hπ.sub (by decide)) m hF
  case abort m => exact execAbort_stays (hπ.sub (by decide)) m hF
  case updClear m => exact execUpdClear_stays (hπ.sub (by decide)) m hF
  case trialTimeout => exact execTrialTimeout_stays (hπ.sub (by decide)) hF
  case bootrecChange => exact execBootrecChange_stays (hπ.sub (by decide)) hF
  case grantGiveup => exact execGrantGiveup_stays (hπ.sub (by decide)) hF
  case slotCommit m => exact execSlotCommit_stays (hπ.sub (by decide)) m hF
  case slotCommitDone => exact execSlotCommitDone_stays (hπ.sub (by decide)) hF
  case gpioEdge n rise => exact execGpioEdge_stays (hπ.sub (by decide)) n rise hF
  case gpioSet m v => exact execGpioSet_stays (hπ.sub (by decide)) m v hF
  case gpioClr m v => exact execGpioClr_stays (hπ.sub (by decide)) m v hF
  case i2cStart m k => exact execI2cStart_stays (hπ.sub (by decide)) m k hF
  case i2cStop m k => exact execI2cStop_stays (hπ.sub (by decide)) m k hF
  case i2cWrite m k => exact execI2cWrite_stays (hπ.sub (by decide)) m k hF
  case i2cRead m k ack => exact execI2cRead_stays (hπ.sub (by decide)) m k ack hF
  case i2cDone k nack arb byte => exact execI2cDone_stays (hπ.sub (by decide)) k nack arb byte hF
  case i2cTimeout k => exact execI2cTimeout_stays (hπ.sub (by decide)) k hF
  case spiTxdata m k v => exact execSpiTxdata_stays (hπ.sub (by decide)) m k v hF
  case spiRxdata m k => exact execSpiRxdata_stays (hπ.sub (by decide)) m k hF
  case spiByteDone k wire => exact execSpiByteDone_stays (hπ.sub (by decide)) k wire hF
  case uartTx m k v => exact execUartTx_stays (hπ.sub (by decide)) m k v hF
  case uartRx m k => exact execUartRx_stays (hπ.sub (by decide)) m k hF
  case uartRxByte k v perr ferr => exact execUartRxByte_stays (hπ.sub (by decide)) k v perr ferr hF
  case uartTxByteDone k => exact execUartTxByteDone_stays (hπ.sub (by decide)) k hF
  case ethTxTail m e v => exact execEthTxTail_stays (hπ.sub (by decide)) m e v hF
  case ethRxTail m e v => exact execEthRxTail_stays (hπ.sub (by decide)) m e v hF
  case txDone e err sfd => exact execTxDone_stays (hπ.sub (by decide)) e err sfd hF
  case rxDone e frame err sfd => exact execRxDone_stays (hπ.sub (by decide)) e frame err sfd hF
  case mdioGo m e v => exact execMdioGo_stays (hπ.sub (by decide)) m e v hF
  case mdioDone e v => exact execMdioDone_stays (hπ.sub (by decide)) e v hF
  case rwlWrite m a v => exact execRwlWrite_stays (hπ.sub (by decide)) m a v hF
  case registerWrite m a bytes => exact execRegisterWrite_stays (hπ.sub (by decide)) m a bytes hF
  case rfaultReceived r on => exact execRfaultReceived_stays (hπ.sub (by decide)) r on hF
  case plumbOscillatorFailure => exact execPlumbOscillatorFailure_stays (hπ.sub (by decide)) hF
  case counterOverflow n => exact execCounterOverflow_stays (hπ.sub (by decide)) n hF
  case bufFullTimeout n => exact execBufFullTimeout_stays (hπ.sub (by decide)) n hF

/-- Settles O58: that a part is as it was is a quantity which the components of the command's row do not bear on. -/
theorem commandsKeepOtherParts : Obligations.CommandsKeepOtherParts := by
  unfold Obligations.CommandsKeepOtherParts
  intro c s t hx p hp
  obtain ⟨t', hx', hs⟩ := exec_stays c (p.same_allFree s hp) (Stays.refl _ s)
  obtain rfl : t = t' := by simpa [hx] using hx'
  exact Eq.mpr hs (p.same_refl s)

end Sys2Proof.Machine
end

section
/-! Two statements that fail, each at a state of a running block: an edge that a GPIO write makes on a pin the part drives, and a
register of the PMC page that no write reaches. -/

namespace Sys2Proof.Machine

/-- A block that runs, every domain of it on. -/
def runningBlock : State := { State.reset with
  clk := { State.reset.clk with running := true, locked := true, pllHold := false },
  pwr := { State.reset.pwr with reset := none, on := 0xFFF } }

/-- GPIO pin 0 is an output whose rising edges are enabled as a cause. -/
def risingOutput : State := { runningBlock with regs := [(gpioKey 0x040, 1#32), (gpioKey 0x064, 1#32)] }

/-- Setting pin 0 there drives the pin high, and that rising edge sets the pin's cause in EV_RAW of the GPIO page (R591, R595). -/
theorem gpioSet_sets_cause : ∃ t, exec (.gpioSet .debug 1#32) risingOutput = .next t ∧
    rd risingOutput (rk .gpio 0 0x010) = 0#32 ∧ rd t (rk .gpio 0 0x010) = 1#32 :=
  ⟨_, rfl, by decide +kernel, by decide +kernel⟩

/-- Refutes O59: the row of GPIO_SET leaves out EV_RAW of the GPIO page, where an edge that the command makes on a pin which the
part drives sets the pin's cause. -/
theorem not_commandsKeepOtherRegisters : ¬ Obligations.CommandsKeepOtherRegisters := by
  unfold Obligations.CommandsKeepOtherRegisters
  intro h
  obtain ⟨t, ht, h0, h1⟩ := gpioSet_sets_cause
  have hk := (h _ _ rfl _ t ht).1 (rk .gpio 0 0x010) (by decide)
  rw [h0, h1] at hk
  exact absurd hk (by decide)

/-- A bus write of 1 to OVF_INT_EN0 leaves it 0, where its row of the page table (R537: RW) sets and keeps the bit: `writePmc` has
no case for the offset. -/
theorem registerWrite_loses_ovfIntEn :
    ∃ t, exec (.registerWrite .debug (0x40000000 + pmcKey 0x068) (leBytes 4 (1#32).toNat)) runningBlock = .next t ∧
      rd t (pmcKey 0x068) = 0#32 ∧
      plainValue (pmcKey 0x068) (rd (atWrite .debug (0x40000000 + pmcKey 0x068) runningBlock) (pmcKey 0x068)) 1#32 = 1#32 :=
  ⟨_, rfl, by decide +kernel, by decide +kernel⟩

/-- Refutes O3, in its clause on plain registers: a write of OVF_INT_EN0 of the PMC page, RW by its row, is lost. -/
theorem not_boundariesAndBusWritesComplete : ¬ Obligations.BoundariesAndBusWritesComplete := by
  unfold Obligations.BoundariesAndBusWritesComplete
  rintro ⟨-, -, -, -, -, -, -, hplain, -⟩
  obtain ⟨t, ht, h0, h1⟩ := registerWrite_loses_ovfIntEn
  obtain ⟨t', ht', hv⟩ := hplain .debug .pmc 0 0x068 (0x40000000 + pmcKey 0x068) 1#32 runningBlock
    (by decide) (by decide) (by decide) (by decide) (by decide) (by decide) (by decide) (by decide +kernel)
  obtain rfl : t = t' := Host.Outcome.next.inj (ht.symm.trans ht')
  exact absurd ((h0.symm.trans hv).trans h1) (by decide)

end Sys2Proof.Machine
end

section
/-! What each command keeps: the queue of waiting commands, the order of time, soundness, and a latched SPO where it may not
release it, by the lemma of its meaning in the Follow files. -/

namespace Sys2Proof.Machine

/-- Each command answers a next state that follows the one it is carried out in, in SPO too unless it is among those that may
release it. Of memory nothing is said here: `exec_stays` says it. -/
theorem exec_follows {r s : State} (c : Instr) (hF : Follows false (!mayReleaseSpo c) r s) :
    ∃ t, exec c s = .next t ∧ Follows false (!mayReleaseSpo c) r t := by
  cases c with
  | boundary d => exact execBoundary_follows d hF
  | shadowWrite m a v => exact execShadowWrite_follows m a v hF
  | arm m page groups => exact execArm_follows m page groups hF
  | discard m page groups => exact execDiscard_follows m page groups hF
  | converterGroupCommit n => exact execConverterGroupCommit_follows n hF
  | passStart n => exact execPassStart_follows n hF
  | passEnd n => exact execPassEnd_follows n hF
  | passOverrun n => exact execPassOverrun_follows n hF
  | drainComplete n => exact execDrainComplete_follows n hF
  | slotEnd n code side err => exact execSlotEnd_follows n code side err hF
  | averageDelivered n => exact execAverageDelivered_follows n hF
  | blockEnd n => exact execBlockEnd_follows n hF
  | avgRead m n => exact execAvgRead_follows m n hF
  | regularTrigger n => exact execRegularTrigger_follows n hF
  | urgentTrigger n => exact execUrgentTrigger_follows n hF
  | entryEnd n code side => exact execEntryEnd_follows n code side hF
  | swStart m n => exact execSwStart_follows m n hF
  | converterReady n => exact execConverterReady_follows n hF
  | lpSettled n => exact execLpSettled_follows n hF
  | resultRead m n j => exact execResultRead_follows m n j hF
  | laneEnable m n => exact execLaneEnable_follows m n hF
  | laneDisable m n => exact execLaneDisable_follows m n hF
  | swap m n => exact execSwap_follows m n hF
  | bankVerified n => exact execBankVerified_follows n hF
  | swapAll m mode => exact execSwapAll_follows m mode hF
  | globalVerified => exact execGlobalVerified_follows hF
  | cancel m mode => exact execCancel_follows m mode hF
  | tileTypeWrite m j v => exact execTileTypeWrite_follows m j v hF
  | engineMemoryWrite m a ws => exact execEngineMemoryWrite_follows m a ws hF
  | tileVerify m tile => exact execTileVerify_follows m tile hF
  | tileVerifyDone => exact execTileVerifyDone_follows hF
  | generatorStart m g => exact execGeneratorStart_follows m g hF
  | generatorStop m g => exact execGeneratorStop_follows m g hF
  | capDataRead m => exact execCapDataRead_follows m hF
  | iaccLoRead m g j => exact execIaccLoRead_follows m g j hF
  | legDomainWrite m l v => exact execLegDomainWrite_follows m l v hF
  | edge l outB => exact execEdge_follows l outB hF
  | calibrationDone l taps => exact execCalibrationDone_follows l taps hF
  | twinChange l => exact execTwinChange_follows l hF
  | calibrationExpiry l => exact execCalibrationExpiry_follows l hF
  | lockReq m d stretch slew => exact execLockReq_follows m d stretch slew hF
  | lockReqClear m d stretch slew => exact execLockReqClear_follows m d stretch slew hF
  | darm m n v => exact execDarm_follows m n v hF
  | safeStateSet m k => exact execSafeStateSet_follows m k hF
  | safeStateClear m k => exact execSafeStateClear_follows m k hF
  | tripPinChange line active => exact execTripPinChange_follows line active hF
  | tripAssert unit => exact execTripAssert_follows unit hF
  | tripRelease unit => exact execTripRelease_follows unit hF
  | blankingEnd monitor unit => exact execBlankingEnd_follows monitor unit hF
  | stuck unit => exact execStuck_follows unit hF
  | heldClear m unit => exact execHeldClear_follows m unit hF
  | tripActionWrite m unit v => exact execTripActionWrite_follows m unit v hF
  | monitorCrossing unit before after => exact execMonitorCrossing_follows unit before after hF
  | monitorEnable m unit v => exact execMonitorEnable_follows m unit v hF
  | monitorSettled unit => exact execMonitorSettled_follows unit hF
  | latchedClear m unit => exact execLatchedClear_follows m unit hF
  | phaseEnableWrite m p v => exact execPhaseEnableWrite_follows m p v hF
  | vdrvUv g => exact execVdrvUv_follows g hF
  | vdrvOk g => exact execVdrvOk_follows g hF
  | bstUv p => exact execBstUv_follows p hF
  | bstOk p => exact execBstOk_follows p hF
  | drvBlankingEnd p => exact execDrvBlankingEnd_follows p hF
  | senseDetection p mv => exact execSenseDetection_follows p mv hF
  | regEnLow g => exact execRegEnLow_follows g hF
  | regEnRise g => exact execRegEnRise_follows g hF
  | gridConnect m g => exact execGridConnect_follows m g hF
  | gridDisconnect m g => exact execGridDisconnect_follows m g hF
  | gridUpdate g => exact execGridUpdate_follows g hF
  | curveEntryWrite m g e ecfg v => exact execCurveEntryWrite_follows m g e ecfg v hF
  | islEnable m => exact execIslEnable_follows m hF
  | islDisable m => exact execIslDisable_follows m hF
  | islClear m => exact execIslClear_follows m hF
  | codeEpoch => exact execCodeEpoch_follows hF
  | periodClosed => exact execPeriodClosed_follows hF
  | unsure => exact execUnsure_follows hF
  | ampDataAccess m w => exact execAmpDataAccess_follows m w hF
  | trackerEnable m t => exact execTrackerEnable_follows m t hF
  | trackerDisable m t => exact execTrackerDisable_follows m t hF
  | sweepNow m t => exact execSweepNow_follows m t hF
  | sweepDue => exact execSweepDue_follows hF
  | stepEnd t => exact execStepEnd_follows t hF
  | swpPRead m => exact execSwpPRead_follows m hF
  | railEnable m r => exact execRailEnable_follows m r hF
  | railDisable m r => exact execRailDisable_follows m r hF
  | railUpdate r => exact execRailUpdate_follows r hF
  | dwellExpiry r => exact execDwellExpiry_follows r hF
  | hiccupRetry r => exact execHiccupRetry_follows r hF
  | sstmo r => exact execSstmo_follows r hF
  | cleanTime r => exact execCleanTime_follows r hF
  | vset m r v => exact execVset_follows m r v hF
  | avsVoltageWrite f commit mv => exact execAvsVoltageWrite_follows f commit mv hF
  | avsVoltageRead f => exact execAvsVoltageRead_follows f hF
  | avsTransrateWrite f commit up dn => exact execAvsTransrateWrite_follows f commit up dn hF
  | avsTransrateRead f => exact execAvsTransrateRead_follows f hF
  | avsCurrentRead f => exact execAvsCurrentRead_follows f hF
  | avsTemperatureRead f => exact execAvsTemperatureRead_follows f hF
  | avsResetVoltage f commit => exact execAvsResetVoltage_follows f commit hF
  | avsStatusWrite f commit => exact execAvsStatusWrite_follows f commit hF
  | avsStatusRead f => exact execAvsStatusRead_follows f hF
  | avsInvalidCommand f => exact execAvsInvalidCommand_follows f hF
  | page addr badPec v => exact execPage_follows addr badPec v hF
  | operation addr badPec v => exact execOperation_follows addr badPec v hF
  | clearFaults addr badPec => exact execClearFaults_follows addr badPec hF
  | voutMode addr => exact execVoutMode_follows addr hF
  | voutCommand addr badPec v => exact execVoutCommand_follows addr badPec v hF
  | statusWord addr => exact execStatusWord_follows addr hF
  | readVout addr => exact execReadVout_follows addr hF
  | readIout addr => exact execReadIout_follows addr hF
  | pmbusRevision addr => exact execPmbusRevision_follows addr hF
  | pmbusUnsupported addr code => exact execPmbusUnsupported_follows addr code hF
  | alertResponse => exact execAlertResponse_follows hF
  | ringCommand r => exact execRingCommand_follows r hF
  | cmdLost r => exact execCmdLost_follows r hF
  | capture m => exact execCapture_follows m hF
  | monumentWritten => exact execMonumentWritten_follows hF
  | mtrEnable m p => exact execMtrEnable_follows m p hF
  | mtrDisable m p => exact execMtrDisable_follows m p hF
  | preset m p => exact execPreset_follows m p hF
  | meterSample p nv cross => exact execMeterSample_follows p nv cross hF
  | cycleClose p => exact execCycleClose_follows p hF
  | nosync p => exact execNosync_follows p hF
  | pulseStart p => exact execPulseStart_follows p hF
  | pulseEnd p => exact execPulseEnd_follows p hF
  | eLoRead m p k => exact execELoRead_follows m p k hF
  | cycCntRead m p => exact execCycCntRead_follows m p hF
  | syncGained r => exact execSyncGained_follows r hF
  | syncLost r errs => exact execSyncLost_follows r errs hF
  | linkDown r c => exact execLinkDown_follows r c hF
  | linkUp r => exact execLinkUp_follows r hF
  | unwrap r => exact execUnwrap_follows r hF
  | unwrapNow m r => exact execUnwrapNow_follows m r hF
  | cellHeader r hdr => exact execCellHeader_follows r hdr hF
  | cellEnd r body errs bad => exact execCellEnd_follows r body errs bad hF
  | cellSend r => exact execCellSend_follows r hF
  | ackTimer n => exact execAckTimer_follows n hF
  | gapTmo n => exact execGapTmo_follows n hF
  | retransmit n => exact execRetransmit_follows n hF
  | openResend n => exact execOpenResend_follows n hF
  | strOpen m => exact execStrOpen_follows m hF
  | strClose m => exact execStrClose_follows m hF
  | strReopen m => exact execStrReopen_follows m hF
  | put m v => exact execPut_follows m v hF
  | get m v => exact execGet_follows m v hF
  | rmemDataAccess m w => exact execRmemDataAccess_follows m w hF
  | join m r => exact execJoin_follows m r hF
  | leave m r => exact execLeave_follows m r hF
  | fordSwitch r => exact execFordSwitch_follows r hF
  | probeFail r => exact execProbeFail_follows r hF
  | sfpPresencePoll r ans => exact execSfpPresencePoll_follows r ans hF
  | sfpDdmPoll r ans => exact execSfpDdmPoll_follows r ans hF
  | rescan m r ans => exact execRescan_follows m r ans hF
  | sfpDataRead m r => exact execSfpDataRead_follows m r hF
  | datumEnable m v => exact execDatumEnable_follows m v hF
  | exchangeInterval => exact execExchangeInterval_follows hF
  | foresightReceived r => exact execForesightReceived_follows r hF
  | backsightReceived r => exact execBacksightReceived_follows r hF
  | electionTimeout => exact execElectionTimeout_follows hF
  | datumCycleBoundary => exact execDatumCycleBoundary_follows hF
  | cycChg m => exact execCycChg_follows m hF
  | setTime m => exact execSetTime_follows m hF
  | resync m => exact execResync_follows m hF
  | timeLoRead m => exact execTimeLoRead_follows m hF
  | spoRequest m => exact execSpoRequest_follows m hF
  | spoRelease m => exact execSpoRelease_follows m hF
  | safeInChange unit chB on => exact execSafeInChange_follows unit chB on hF
  | discrepancy unit => exact execDiscrepancy_follows unit hF
  | scan c ch code => exact execScan_follows c ch code hF
  | soutClose m n => exact execSoutClose_follows m n hF
  | soutOpen m n => exact execSoutOpen_follows m n hF
  | soutClr m n => exact execSoutClr_follows m n hF
  | testNow m n => exact execTestNow_follows m n hF
  | closeTimeout n => exact execCloseTimeout_follows n hF
  | soutFeedbackChange n rb => exact execSoutFeedbackChange_follows n rb hF
  | testDue n => exact execTestDue_follows n hF
  | testPulseEnd n => exact execTestPulseEnd_follows n hF
  | testRecoveryEnd n => exact execTestRecoveryEnd_follows n hF
  | clockCheck pwm fab adc ring => exact execClockCheck_follows pwm fab adc ring hF
  | freeze => exact execFreeze_follows hF
  | lockstepMismatch => exact execLockstepMismatch_follows hF
  | periodicSelftest ok => exact execPeriodicSelftest_follows ok hF
  | selftestDone ok => exact execSelftestDone_follows ok hF
  | plumbWriteApplied => exact execPlumbWriteApplied_follows hF
  | produceMessage c => exact execProduceMessage_follows c hF
  | consumeMessage c => exact execConsumeMessage_follows c hF
  | connectionWatchdog c => exact execConnectionWatchdog_follows c hF
  | connStart m c => exact execConnStart_follows m c hF
  | connStop m c => exact execConnStop_follows m c hF
  | enter m => exact execEnter_follows m hF
  | exit m => exact execExit_follows m hF
  | saddleReset m => exact execSaddleReset_follows m hF
  | saddleEvaluation => exact execSaddleEvaluation_follows hF
  | saddleTimeout => exact execSaddleTimeout_follows hF
  | cleanTimeout => exact execCleanTimeout_follows hF
  | unlockSite m len => exact execUnlockSite_follows m len hF
  | unlockMaker m len => exact execUnlockMaker_follows m len hF
  | relock m => exact execRelock_follows m hF
  | setSite m len => exact execSetSite_follows m len hF
  | setMaker m len => exact execSetMaker_follows m len hF
  | pwDataWrite m v => exact execPwDataWrite_follows m v hF
  | sessionTimeout => exact execSessionTimeout_follows hF
  | lockoutEnd => exact execLockoutEnd_follows hF
  | fbDrain ok => exact execFbDrain_follows ok hF
  | fbDataRead m => exact execFbDataRead_follows m hF
  | pairEnable m v => exact execPairEnable_follows m v hF
  | go m => exact execGo_follows m hF
  | give m => exact execGive_follows m hF
  | keep m => exact execKeep_follows m hF
  | pairClr m => exact execPairClr_follows m hF
  | heartbeatSend => exact execHeartbeatSend_follows hF
  | heartbeatReceived ring frame bad => exact execHeartbeatReceived_follows ring frame bad hF
  | pathTimeout ring => exact execPathTimeout_follows ring hF
  | pairEvaluation => exact execPairEvaluation_follows hF
  | livenessTimeout => exact execLivenessTimeout_follows hF
  | claimPeerChange low => exact execClaimPeerChange_follows low hF
  | claimSettle => exact execClaimSettle_follows hF
  | claimTimeout => exact execClaimTimeout_follows hF
  | installDone => exact execInstallDone_follows hF
  | startWait => exact execStartWait_follows hF
  | peerStuck => exact execPeerStuck_follows hF
  | localCapture => exact execLocalCapture_follows hF
  | segmentSend => exact execSegmentSend_follows hF
  | segmentReceived frame bad => exact execSegmentReceived_follows frame bad hF
  | delivery n => exact execDelivery_follows n hF
  | promotion e => exact execPromotion_follows e hF
  | deadlineWrite m unit v => exact execDeadlineWrite_follows m unit v hF
  | rec0Read m n => exact execRec0Read_follows m n hF
  | swRaise m v => exact execSwRaise_follows m v hF
  | logSubmit => exact execLogSubmit_follows hF
  | goLog m code => exact execGoLog_follows m code hF
  | logWrite => exact execLogWrite_follows hF
  | logDataRead m => exact execLogDataRead_follows m hF
  | logFullClear m => exact execLogFullClear_follows m hF
  | replayDone => exact execReplayDone_follows hF
  | lockLoss => exact execLockLoss_follows hF
  | refMeasure ppm => exact execRefMeasure_follows ppm hF
  | referenceQualified => exact execReferenceQualified_follows hF
  | pllLocked => exact execPllLocked_follows hF
  | holdRelease => exact execHoldRelease_follows hF
  | pllRelock m => exact execPllRelock_follows m hF
  | noref => exact execNoref_follows hF
  | update m => exact execUpdate_follows m hF
  | updateMark => exact execUpdateMark_follows hF
  | pdCtlWrite m v => exact execPdCtlWrite_follows m v hF
  | pdOn => exact execPdOn_follows hF
  | pdOff => exact execPdOff_follows hF
  | supplyFall n => exact execSupplyFall_follows n hF
  | supplyRise n => exact execSupplyRise_follows n hF
  | porstAssert => exact execPorstAssert_follows hF
  | sysrstAssert => exact execSysrstAssert_follows hF
  | rstCtl m v => exact execRstCtl_follows m v hF
  | resetEnd => exact execResetEnd_follows hF
  | guardScan => exact execGuardScan_follows hF
  | meas m v => exact execMeas_follows m v hF
  | measurementDone temps => exact execMeasurementDone_follows temps hF
  | stopTime => exact execStopTime_follows hF
  | clrStop m => exact execClrStop_follows m hF
  | tickLoRead m => exact execTickLoRead_follows m hF
  | valleySample mv => exact execValleySample_follows mv hF
  | valleyPorEnd => exact execValleyPorEnd_follows hF
  | openCircuitMeasure mv => exact execOpenCircuitMeasure_follows mv hF
  | rtcSet m => exact execRtcSet_follows m hF
  | rtcLoRead m => exact execRtcLoRead_follows m hF
  | xtFail => exact execXtFail_follows hF
  | xtRecover => exact execXtRecover_follows hF
  | burstGo m => exact execBurstGo_follows m hF
  | burstEnd m => exact execBurstEnd_follows m hF
  | burstTmo => exact execBurstTmo_follows hF
  | holdupEnd => exact execHoldupEnd_follows hF
  | wdtKick m v => exact execWdtKick_follows m v hF
  | watchdogExpiry h => exact execWatchdogExpiry_follows h hF
  | mtimecmpMatch h => exact execMtimecmpMatch_follows h hF
  | scrub errs => exact execScrub_follows errs hF
  | nvWrite m a bytes => exact execNvWrite_follows m a bytes hF
  | nvWordWritten => exact execNvWordWritten_follows hF
  | valLoWrite m n v => exact execValLoWrite_follows m n v hF
  | valLoRead m n => exact execValLoRead_follows m n hF
  | extest cells => exact execExtest_follows cells hF
  | idcode => exact execIdcode_follows hF
  | samplePreload cells => exact execSamplePreload_follows cells hF
  | dtmcs v => exact execDtmcs_follows v hF
  | dmi w a v => exact execDmi_follows w a v hF
  | bypass code => exact execBypass_follows code hF
  | dmactive on => exact execDmactive_follows on hF
  | accessRegister h w regno v => exact execAccessRegister_follows h w regno v hF
  | accessMemory h w a v => exact execAccessMemory_follows h w a v hF
  | systemBusAccess w a v => exact execSystemBusAccess_follows w a v hF
  | ndmreset => exact execNdmreset_follows hF
  | hartHalt h => exact execHartHalt_follows h hF
  | hartResume => exact execHartResume_follows hF
  | apply m => exact execApply_follows m hF
  | applyDone => exact execApplyDone_follows hF
  | boot m => exact execBoot_follows m hF
  | ready m => exact execReady_follows m hF
  | updArm m => exact execUpdArm_follows m hF
  | handed ok => exact execHanded_follows ok hF
  | accept m => exact execAccept_follows m hF
  | reject m => exact execReject_follows m hF
  | abort m => exact execAbort_follows m hF
  | updClear m => exact execUpdClear_follows m hF
  | trialTimeout => exact execTrialTimeout_follows hF
  | bootrecChange => exact execBootrecChange_follows hF
  | grantGiveup => exact execGrantGiveup_follows hF
  | slotCommit m => exact execSlotCommit_follows m hF
  | slotCommitDone => exact execSlotCommitDone_follows hF
  | gpioEdge n rise => exact execGpioEdge_follows n rise hF
  | gpioSet m v => exact execGpioSet_follows m v hF
  | gpioClr m v => exact execGpioClr_follows m v hF
  | i2cStart m k => exact execI2cStart_follows m k hF
  | i2cStop m k => exact execI2cStop_follows m k hF
  | i2cWrite m k => exact execI2cWrite_follows m k hF
  | i2cRead m k ack => exact execI2cRead_follows m k ack hF
  | i2cDone k nack arb byte => exact execI2cDone_follows k nack arb byte hF
  | i2cTimeout k => exact execI2cTimeout_follows k hF
  | spiTxdata m k v => exact execSpiTxdata_follows m k v hF
  | spiRxdata m k => exact execSpiRxdata_follows m k hF
  | spiByteDone k wire => exact execSpiByteDone_follows k wire hF
  | uartTx m k v => exact execUartTx_follows m k v hF
  | uartRx m k => exact execUartRx_follows m k hF
  | uartRxByte k v perr ferr => exact execUartRxByte_follows k v perr ferr hF
  | uartTxByteDone k => exact execUartTxByteDone_follows k hF
  | ethTxTail m e v => exact execEthTxTail_follows m e v hF
  | ethRxTail m e v => exact execEthRxTail_follows m e v hF
  | txDone e err sfd => exact execTxDone_follows e err sfd hF
  | rxDone e frame err sfd => exact execRxDone_follows e frame err sfd hF
  | mdioGo m e v => exact execMdioGo_follows m e v hF
  | mdioDone e v => exact execMdioDone_follows e v hF
  | rwlWrite m a v => exact execRwlWrite_follows m a v hF
  | registerWrite m a bytes => exact execRegisterWrite_follows m a bytes hF
  | rfaultReceived r on => exact execRfaultReceived_follows r on hF
  | plumbOscillatorFailure => exact execPlumbOscillatorFailure_follows hF
  | counterOverflow n => exact execCounterOverflow_follows n hF
  | bufFullTimeout n => exact execBufFullTimeout_follows n hF

/-- Settles O48: the queue and the order of time are what every state that follows another keeps. -/
theorem everyCommandAnswersInTime : Obligations.EveryCommandAnswersInTime := by
  unfold Obligations.EveryCommandAnswersInTime
  intro c s
  obtain ⟨t, ht, hF⟩ := exec_follows c (Follows.refl _ _ s)
  exact ⟨t, ht, hF.queue, hF.time⟩

end Sys2Proof.Machine
end

section
/-! Pages that are not reached (R61, R565): what a read and a write find there. -/

namespace Sys2Proof.Machine

/-- All offsets of a page are reached alike, but for DBG, of which two registers lie in PD_CORE (R534). -/
theorem pageUp_off {t : PageType} (ht : t ≠ .dbg) (s : State) (a b : Nat) : pageUp s t a = pageUp s t b := by
  simp [pageUp, beq_eq_false_iff_ne.mpr ht]

@[simp] theorem pageUp_pmcAccess (m : Doer) (store : Bool) (a : Nat) (page : Bool) (s : State) (t : PageType) (off : Nat) :
    pageUp (pmcAccess m store a page s) t off = pageUp s t off := by
  simp [pageUp, fabricUp, domOn]

/-- A read of a page that is not reached answers 0. -/
theorem readAt_down {m : Master} {t : PageType} {n off : Nat} {f : State → State} {s : State} (h : pageUp s t off = false) :
    readAt m t n off f s = { countedRead m t n off s with bus := { rdata := 0, err := false } } := by
  simp [readAt, countedRead, h, respond]

/-- A write of a page that is not reached takes its bus cycle, and no more. -/
theorem byBus_down {m : Master} {t : PageType} {n off : Nat} {f : State → State} {s : State} (h : pageUp s t off = false) :
    byBus m t n off f s = { countedWrite m t n off s with now := s.now + 80 } := by
  rw [byBus, atPage_down (by rwa [pageUp_pmcAccess])]
  simp [busCycle, fabCyc, countedWrite]

/-- The offsets of the result registers: 16 regular ones, and behind a gap four injected ones (R66). -/
theorem resultOff_eq (i : Fin 20) : (if i.val < 16 then 0x100 + 4 * i.val else 0x150 + 4 * (i.val - 16)) =
    if i.val < 16 then 0x100 + 4 * i.val else 0x110 + 4 * i.val := by
  split <;> omega

theorem resultRead_down (m : Master) (n : Fin 32) (i : Fin 20) {s : State} (h : pageUp s .adc 0x100 = false) :
    exec (.resultRead m n i) s = .next
      { countedRead m .adc n (if i.val < 16 then 0x100 + 4 * i else 0x110 + 4 * i) s with bus := { rdata := 0, err := false } } := by
  rw [← resultOff_eq]
  exact congrArg _ (readAt_down ((pageUp_off (by decide) s _ _).trans h))

/-- Settles O46: each of these commands is one read or one write of its page. -/
theorem unreachedPagesReadZero : Obligations.UnreachedPagesReadZero := by
  unfold Obligations.UnreachedPagesReadZero
  exact ⟨fun m n i _ h => ⟨_, resultRead_down m n i h, rfl⟩,
    fun _ _ _ h => ⟨_, rfl, readAt_down h⟩,
    fun _ _ _ s h => ⟨_, rfl, readAt_down ((pageUp_off (by decide) s _ _).trans h)⟩,
    fun _ _ h => ⟨_, rfl, readAt_down h⟩,
    fun _ _ h => ⟨_, rfl, readAt_down h⟩,
    fun _ _ h => ⟨_, rfl, readAt_down h⟩,
    fun _ _ s h => ⟨_, rfl, readAt_down ((pageUp_off (by decide) s _ _).trans h)⟩,
    fun _ _ _ h => ⟨_, rfl, readAt_down h⟩,
    fun _ _ _ h => ⟨_, rfl, byBus_down h⟩,
    fun _ _ _ h => ⟨_, rfl, byBus_down h⟩,
    fun _ _ _ h => ⟨_, rfl, byBus_down h⟩,
    fun _ _ _ h => ⟨_, rfl, byBus_down h⟩,
    fun _ _ h => ⟨_, rfl, byBus_down h⟩⟩

end Sys2Proof.Machine
end

section
/-! Accesses that are answered: the registers that no count writes (R527), and what reaches a page in the state with the access
counted. -/

namespace Sys2Proof.Machine

/-- The registers that counting may write: the causes and the overflow bits of PMC, and what an occurrence may write. -/
def countKey (k : Nat) : Prop := mergeKey k ∨ k = pmcKey 0x010 ∨ ∃ i, k = pmcKey (0x060 + 4 * i)

variable {k : Nat} {s : State}

theorem rd_raisePmc (hk : ¬ countKey k) (c : Nat) : rd (raisePmc c s) k = rd s k :=
  rd_raise s (fun h => hk (.inr (.inl h))) (fun h => hk (.inl h))

theorem rd_ctrOverflow (hk : ¬ countKey k) (n : Nat) : rd (ctrOverflow n s) k = rd s k := by
  unfold ctrOverflow
  extract_lets c s1 s2 d s3 s4
  have h2 : rd s2 k = rd s k := rd_wrb_ne _ _ _ fun h => hk (.inr (.inr ⟨_, h⟩))
  have h3 : rd s3 k = rd s k := by unfold s3; split <;> exact h2
  have h4 : rd s4 k = rd s k := by
    unfold s4
    split
    · exact (rd_raisePmc hk _).trans h3
    · exact h3
  split
  · split <;> exact h4
  · exact h4

theorem rd_ctrStep (hk : ¬ countKey k) (n : Nat) : rd (ctrStep n s) k = rd s k := by
  unfold ctrStep
  split
  · rfl
  · exact rd_ctrOverflow hk n

theorem rd_pmcCount (hk : ¬ countKey k) (cls : Nat) (m : Option Doer) (a : Option Nat) : rd (pmcCount cls m a s) k = rd s k := by
  unfold pmcCount
  split
  · rfl
  · refine rd_forEach_occur (fun n s => ?_) _ _
    split
    · split
      · exact rd_ctrStep hk n
      · rfl
      · rfl
    · rfl

theorem rd_pmcAccess (hk : ¬ countKey k) (m : Doer) (store : Bool) (a : Nat) (page : Bool) :
    rd (pmcAccess m store a page s) k = rd s k := by
  have hcls : ∀ cls s, rd (pmcAccesses cls m a s) k = rd s k := fun cls s => by
    unfold pmcAccesses
    split
    · exact rd_pmcCount hk _ _ _
    · rfl
  unfold pmcAccess
  dsimp only
  split
  · exact (hcls _ _).trans (hcls _ _)
  · exact hcls _ _

@[simp] theorem inForce_pmcAccess (m : Doer) (store : Bool) (a : Nat) (page : Bool) (s : State) (k : Nat) :
    inForce (pmcAccess m store a page s) k = inForce s k := by simp [inForce]

@[simp] theorem formerPair_pmcAccess (d : Doer) (store : Bool) (a : Nat) (page : Bool) (s : State) (m : Master) :
    formerPair (pmcAccess d store a page s) m = formerPair s m := by
  simp only [formerPair, pmcAccess_upd]

/-- Counting leaves ROLE of CL_STAT, by which the pairs of harts are told. -/
@[simp] theorem stagedPair_pmcAccess (d : Doer) (store : Bool) (a : Nat) (page : Bool) (s : State) (m : Master) :
    stagedPair (pmcAccess d store a page s) m = stagedPair s m := by
  have hrole : ¬ countKey (rk .pmc 0 0x044) := by
    simp only [countKey, mergeKey, pmcKey, rk, pageFirst]
    omega
  rw [stagedPair, rdf, rd_pmcAccess hrole, pmcAccess_upd, stagedPair, rdf]

@[simp] theorem reaches_pmcAccess (d : Doer) (store : Bool) (a : Nat) (page : Bool) (s : State) (m : Master) (t : PageType)
    (off : Nat) : reaches (pmcAccess d store a page s) m t off = reaches s m t off := by
  simp only [reaches, pageUp_pmcAccess, formerPair_pmcAccess, stagedPair_pmcAccess, pmcAccess_valley]

/-- A read of a page that is reached is answered in the state with the read counted. -/
theorem readAt_up {m : Master} {t : PageType} {n off : Nat} {f : State → State} (h : pageUp s t off = true) :
    readAt m t n off f s = f (countedRead m t n off s) := by
  simp [readAt, countedRead, h]

/-- A write that reaches its page has its effect in the state with the write counted. -/
theorem byBus_reaches {m : Master} {t : PageType} {n off : Nat} {f : State → State} (h : reaches s m t off = true) :
    byBus m t n off f s = busCycle (f (countedWrite m t n off s)) :=
  atPage_reaches (by rwa [reaches_pmcAccess])

@[simp] theorem respond_bus (w : Word) (s : State) : (respond w s).bus = { rdata := w, err := false } := rfl

end Sys2Proof.Machine
end

section
/-! The converters and the groups through each update, and the converters' registers among the others. -/

namespace Sys2Proof.Machine

@[simp] theorem adc_setAdc_same (n : Nat) (x : Adc) (s : State) : adc (setAdc n x s) n = x := smGet_smSet_same _ _ _ _
@[simp] theorem adc_onAdc_same (n : Nat) (f : Adc → Adc) (s : State) : adc (onAdc n f s) n = f (adc s n) := adc_setAdc_same _ _ _
@[simp] theorem adc_wr (k : Nat) (v : Word) (s : State) (n : Nat) : adc (wr k v s) n = adc s n := rfl
@[simp] theorem adc_wrb (k b : Nat) (v : Bool) (s : State) (n : Nat) : adc (wrb k b v s) n = adc s n := rfl
@[simp] theorem adc_busCycle (s : State) (n : Nat) : adc (busCycle s) n = adc s n := rfl
@[simp] theorem adc_raise (t : PageType) (p k : Nat) (s : State) (n : Nat) : adc (raise t p k s) n = adc s n := by simp [adc]
@[simp] theorem adc_pmcAccess (m : Doer) (store : Bool) (a : Nat) (page : Bool) (s : State) (n : Nat) :
    adc (pmcAccess m store a page s) n = adc s n := by simp [adc]

@[simp] theorem adc_forEach_setForce {α : Type} (k : α → Nat) (v : α → Word) (l : List α) (s : State) (n : Nat) :
    adc (forEach l (fun e s => setForce (k e) (v e) s) s) n = adc s n := by
  induction l generalizing s with
  | nil => rfl
  | cons e l ih => exact ih _

@[simp] theorem onAdc_now (n : Nat) (f : Adc → Adc) (s : State) : (onAdc n f s).now = s.now := rfl
@[simp] theorem inForce_onAdc (n : Nat) (f : Adc → Adc) (s : State) (k : Nat) : inForce (onAdc n f s) k = inForce s k := rfl
@[simp] theorem adcMode_onAdc (n : Nat) (f : Adc → Adc) (s : State) (m : Nat) : adcMode (onAdc n f s) m = adcMode s m := rfl

theorem grp_setGrp_same (k : Nat) (x : Grp) (s : State) : grp (setGrp k x s) k = x := smGet_smSet_same _ _ _ _

theorem le_upto_now (t : Nat) (s : State) : t ≤ (upto t s).now := le_max_right _ _

theorem rk_inj {t : PageType} {n a b : Nat} : rk t n a = rk t n b ↔ a = b := by simp [rk]

/-- Counting an access writes no register of a converter. -/
theorem adcKey_not_countKey (n : Fin 32) {off : Nat} (ho : off < 0x1000) : ¬ countKey (rk .adc n off) := by
  simp only [countKey, mergeKey, pmcKey, rk, pageFirst]
  omega

theorem adcKey_not_mergeKey (n : Fin 32) (off : Nat) : ¬ mergeKey (rk .adc n off) := by
  simp only [mergeKey, rk, pageFirst]
  omega

theorem rd_countedRead_adc (m : Master) (n : Fin 32) (o : Nat) {off : Nat} (ho : off < 0x1000) (s : State) :
    rd (countedRead m .adc n o s) (rk .adc n off) = rd s (rk .adc n off) :=
  rd_pmcAccess (adcKey_not_countKey n ho) _ _ _ _

/-- What agrees with a state on a part does not depend on the other parts. -/
theorem Part.allFree_same (p : Part) (r : State) {m : Nat} (hm : m.testBit p.number = false) :
    AllFree (fun t => p.same r t) m := fun i hi =>
  p.same_free r i fun h => by simp [h, hm] at hi

theorem Part.same_of_stays {p : Part} {r t : State} (h : Stays (fun t => p.same r t) r t) : p.same r t :=
  Eq.mpr h (p.same_refl r)

end Sys2Proof.Machine
end

section
/-! Sensing, continuous: converters after reset, slots, deliveries, readiness (R41 to R45, R53, R54, R59, R60). -/

namespace Sys2Proof.Machine

/-- Settles O50: MODE, LP, BIND and INSEL in force, OFFSET and SCALE in force, and the result registers, of each converter. -/
theorem convertersAfterReset : Obligations.ConvertersAfterReset := by
  unfold Obligations.ConvertersAfterReset
  refine fun n => ⟨?control, ?scale, ?results⟩
  case control => revert n; decide +kernel
  case scale => revert n; decide +kernel
  case results => revert n; decide +kernel

theorem slotLen_pos (s : State) (n : Nat) : 0 < slotLen s n := by
  unfold slotLen
  split <;> decide

/-- The length of the window in progress of a bound converter: between boundaries, or between their ticks in HOLD (R41, R48). -/
def slotSpan (s : State) (n : Nat) (w : Win) : Nat :=
  let d := fld (inForce s (rk .adc n 0x040)) 4 5
  if w.hold || !s.clk.locked then holdLen w.tick (nextTick s d) else (dom s d).next - (dom s d).start

/-- The length of the slot that the window in progress takes next; 0 where it takes none. -/
def slotTake (s : State) (n : Nat) (w : Win) : Nat :=
  let c := inForce s (rk .adc n 0x040)
  if !(bit c 3) then (if w.n < w.nslot then slotLen s n else 0)
  else if domRuns s (fld c 4 5) then slotPart (slotLen s n) (slotSpan s n w) w.n else slotLen s n

/-- The instant at which that slot ends. -/
def slotEndAt (s : State) (n : Nat) (w : Win) : Nat :=
  if bit (inForce s (rk .adc n 0x040)) 3 then
    (if w.hold || !s.clk.locked then w.tick else w.start) + w.n * slotLen s n + slotTake s n w
  else w.fromT + (w.n - w.fromN) * slotLen s n + slotLen s n

section Slots

variable {n : Fin 32} (code : Int) (side : Fin 3) (err : Bool) {s : State}

/-- SLOT_END while the oldest closed window waits for a slot. -/
theorem slotEnd_closed {c : Closed} {cs : List Closed} (hl : live s .adc = true) (hc : (adc s n).closed = c :: cs)
    (hn : c.win.n < c.need) : ∃ t, exec (.slotEnd n code side err) s = .next t ∧
      (adc t n).closed.map (·.win.n) = (c.win.n + 1) :: cs.map (·.win.n) := by
  refine ⟨_, rfl, ?_⟩
  simp only [hl, hc, slotToClosed, hn, if_true, Bool.not_true, Bool.false_eq_true, if_false, adc_setAdc_same]
  rfl

/-- SLOT_END while no closed window waits, and the window in progress takes a slot. -/
theorem slotEnd_win {w : Win} (hl : live s .adc = true) (hm : adcMode s n = 1) (hc : (adc s n).closed = [])
    (hw : (adc s n).win = some w) (ht : 0 < slotTake s n w) : ∃ t, exec (.slotEnd n code side err) s = .next t ∧
      (adc t n).win.map (·.n) = some (w.n + 1) ∧ slotEndAt s n w ≤ t.now := by
  have h0 : slotTake s n w ≠ 0 := ht.ne'
  unfold slotTake slotSpan at h0
  refine ⟨_, rfl, ?_⟩
  simp only [hl, hc, slotToClosed, hm, hw, h0, Bool.not_true, Bool.false_eq_true, if_false, ne_eq, not_true_eq_false,
    adc_setAdc_same]
  exact ⟨rfl, le_upto_now _ _⟩

variable {w : Win}

/-- A free-running block takes full slots until it has them all (R53). -/
theorem slotTake_block (hb : bit (inForce s (rk .adc n 0x040)) 3 = false) (hn : w.n < w.nslot) :
    slotTake s n w = slotLen s n := by simp [slotTake, hb, hn]

/-- A window whose domain has no boundaries takes full slots. -/
theorem slotTake_stopped (hb : bit (inForce s (rk .adc n 0x040)) 3 = true)
    (hd : domRuns s (fld (inForce s (rk .adc n 0x040)) 4 5) = false) : slotTake s n w = slotLen s n := by
  simp [slotTake, hb, hd]

/-- A bound window takes full slots, and what is left of it as the last one (R40). -/
theorem slotTake_bound (hb : bit (inForce s (rk .adc n 0x040)) 3 = true)
    (hd : domRuns s (fld (inForce s (rk .adc n 0x040)) 4 5) = true) :
    slotTake s n w = min (slotLen s n) (slotSpan s n w - w.n * slotLen s n) := by simp [slotTake, hb, hd, slotPart]

theorem slotEndAt_bound (hb : bit (inForce s (rk .adc n 0x040)) 3 = true)
    (hd : domRuns s (fld (inForce s (rk .adc n 0x040)) 4 5) = true) (hn : w.n * slotLen s n < slotSpan s n w) :
    slotEndAt s n w =
      (if w.hold || !s.clk.locked then w.tick else w.start) + min ((w.n + 1) * slotLen s n) (slotSpan s n w) := by
  rw [slotEndAt, if_pos hb, slotTake_bound hb hd, Nat.add_mul]
  omega

end Slots

/-- What a delivery leaves of its converter: the set is that of the window, and no other window is touched (R43). -/
theorem adc_deliverSet (n : Nat) (c : Closed) (s : State) :
    ∃ x : Adc, adc (deliverSet n c s) n = x ∧ x.set.valid = c.valid ∧ x.set.len = c.len ∧ x.set.stamp = c.stamp ∧
      x.closed = (adc s n).closed ∧ x.win = (adc s n).win := by
  simp only [deliverSet, apply_ite (adc · n), adc_raise, adc_wrb, adc_wr, adc_setAdc_same, ite_self]
  exact ⟨_, rfl, rfl, rfl, rfl, rfl, rfl⟩

/-- The trackers take their samples from a delivery; no converter changes (R252). -/
theorem adc_trackSample (n a b : Nat) (s : State) (m : Nat) : adc (trackSample n a b s) m = adc s m :=
  congrArg (smGet adc0 · m)
    (Part.same_of_stays (trackSample_stays (Part.adcs.allFree_same s rfl) n a b (Stays.refl _ s)))

theorem le_deliver_now {n : Nat} {c : Closed} {f : Adc → Adc} {s : State} {t a b : Nat} :
    t ≤ (trackSample n a b (deliverSet n c (onAdc n f (upto t s)))).now :=
  (le_upto_now t s).trans
    (trackSample_follows n a b (deliverSet_follows n c (onAdc_follows n f (Follows.refl false false (upto t s))))).time

theorem averageDelivered_completes {n : Fin 32} {s : State} {c : Closed} {cs : List Closed} (hl : live s .adc = true)
    (hc : (adc s n).closed = c :: cs) (hn : c.need ≤ c.win.n) :
    ∃ t, exec (.averageDelivered n) s = .next t ∧ (adc t n).closed = cs ∧ (adc t n).set.valid = c.valid ∧
      (adc t n).set.len = c.len ∧ (adc t n).set.stamp = c.stamp ∧ c.due ≤ t.now := by
  refine ⟨_, rfl, ?_⟩
  simp only [hl, hc, Nat.not_lt.mpr hn, Bool.not_true, Bool.false_eq_true, if_false, adc_trackSample]
  obtain ⟨x, hx, hvalid, hlen, hstamp, hclosed, -⟩ := adc_deliverSet n c (onAdc n (fun a => { a with closed := cs }) (upto c.due s))
  rw [hx]
  exact ⟨by simp [hclosed], hvalid, hlen, hstamp, le_deliver_now⟩

theorem blockEnd_completes {n : Fin 32} {s : State} {w : Win} (hl : live s .adc = true)
    (hm : fld (inForce s (rk .adc n 0x040)) 0 2 = 1) (hb : bit (inForce s (rk .adc n 0x040)) 3 = false)
    (hw : (adc s n).win = some w) (hn : w.nslot ≤ w.n) :
    ∃ t, exec (.blockEnd n) s = .next t ∧ (adc t n).set.valid = w.ok ∧
      (adc t n).set.len = w.fromT + (w.nslot - w.fromN) * slotLen s n - w.start ∧ (adc t n).win.map (·.n) = some 0 := by
  refine ⟨_, rfl, ?_⟩
  simp only [hl, hm, hb, hw, Nat.not_lt.mpr hn, if_false, Bool.not_true, Bool.false_or, ne_eq, not_true_eq_false, decide_false,
    Bool.false_eq_true, adc_trackSample]
  obtain ⟨x, hx, hvalid, hlen, -, -, hwin⟩ := adc_deliverSet n _ _
  rw [hx]
  exact ⟨hvalid, hlen, by simp [hwin, beginWin]⟩

theorem avgRead_completes (m : Master) {n : Fin 32} {s : State} (h : pageUp s .adc 0x060 = true) :
    ∃ t, exec (.avgRead m n) s = .next t ∧ t.bus.rdata = rd s (rk .adc n 0x060) ∧ t.bus.err = false ∧
      (List.range 5).map (fun i => rd t (rk .adc n (0x064 + 4 * i))) = (List.range 5).map (fun i => (adc s n).latest.getD i 0) := by
  refine ⟨_, congrArg Host.Outcome.next (readAt_up h), ?_, rfl, ?_⟩
  · simp [forEach, rd_wr, rk_inj, rd_countedRead_adc]
  · simp [forEach, List.range_succ, rd_wr, rk_inj, countedRead]

theorem converterReady_completes {n : Fin 32} {s : State} {a : Nat} (hl : live s .adc = true) (ha : (adc s n).readyAt = some a) :
    ∃ t, exec (.converterReady n) s = .next t ∧ rdb t (rk .adc n 0x00C) 0 = true ∧ rdb t (rk .adc n 0x010) 7 = true ∧
      (adc t n).readyAt = none ∧ a ≤ t.now := by
  have hm := adcKey_not_mergeKey n
  refine ⟨_, rfl, ?_⟩
  simp only [ha, hl, Bool.not_true, Bool.false_eq_true, if_false]
  refine ⟨?_, rdb_raise _ _ _ _ (by decide) fun h => hm _ (.inr h), by simp, by simpa using le_upto_now a s⟩
  rw [rdb, rd_raise _ (by simp [rk_inj]) (hm _)]
  exact rdb_wrb_same _ _ _ _ (by decide)

theorem lpSettled_completes {n : Fin 32} {s : State} {a : Nat} (hl : live s .adc = true) (ha : (adc s n).lpAt = some a) :
    ∃ t, exec (.lpSettled n) s = .next t ∧ (adc t n).lpAt = none ∧ a ≤ t.now := by
  refine ⟨_, rfl, ?_⟩
  simp only [ha, hl, if_true]
  exact ⟨by simp, le_upto_now a s⟩

/-- Settles O1: in the clauses of SLOT_END the slot that the window takes has a length, full or what is left of the window. -/
theorem continuousSensingCompletes : Obligations.ContinuousSensingCompletes := by
  unfold Obligations.ContinuousSensingCompletes
  refine ⟨fun _ code side err _ _ _ => slotEnd_closed code side err, ?block, ?bound, ?stopped,
    fun _ _ _ _ => averageDelivered_completes, fun _ _ _ => blockEnd_completes, fun m _ _ => avgRead_completes m,
    fun _ _ _ => converterReady_completes, fun _ _ _ => lpSettled_completes⟩
  case block =>
    intro n code side err s w hl hm hb hc hw hn
    obtain ⟨t, hx, hwin, -⟩ := slotEnd_win code side err hl hm hc hw (slotTake_block hb hn ▸ slotLen_pos s n)
    exact ⟨t, hx, hwin⟩
  case bound =>
    rintro n code side err s w d span hl hm hb rfl hd hc hw hspan hn
    obtain rfl : span = slotSpan s n w := hspan
    have ht : 0 < slotTake s n w := by
      rw [slotTake_bound hb hd]
      exact lt_min (slotLen_pos s n) (Nat.sub_pos_of_lt hn)
    obtain ⟨t, hx, hwin, hnow⟩ := slotEnd_win code side err hl hm hc hw ht
    exact ⟨t, hx, hwin, slotEndAt_bound hb hd hn ▸ hnow⟩
  case stopped =>
    intro n code side err s w hl hm hb hd hc hw
    obtain ⟨t, hx, hwin, -⟩ := slotEnd_win code side err hl hm hc hw (slotTake_stopped hb hd ▸ slotLen_pos s n)
    exact ⟨t, hx, hwin⟩

end Sys2Proof.Machine
end

section
/-! Sensing, sequences: triggers, entries, results, and groups that commit without boundaries (R52, R55 to R58, R66). -/

namespace Sys2Proof.Machine

theorem adc_beginEntry (n : Nat) (s : State) : adc (beginEntry n s) n =
    { adc s n with entryAt := s.now, entryLen := slotLen s n, unsettled := (adc s n).lpAt.isSome } := adc_onAdc_same _ _ _

/-- The end of a sequence puts registers in force; the result stays. -/
theorem result_applyDeferred (n : Nat) (s : State) : (adc (applyDeferred n s) n).result = (adc s n).result := by
  simp only [applyDeferred]
  split
  · rfl
  · rw [adc_forEach_setForce, adc_setAdc_same]

/-- The regular sequence at an entry of its table. -/
theorem regularFrom_of_lt {n i : Nat} {again : Bool} {s : State} (h : i < fld (inForce s (rk .adc n 0x080)) 0 5) :
    regularFrom n i again s = beginEntry n (onAdc n (fun a => { a with reg := some i, again := again }) s) := by
  simp [regularFrom, h]

/-- Whether the sequence goes on, ends or begins again, the result stays. -/
theorem result_regularFrom (n i : Nat) (again : Bool) (s : State) :
    (adc (regularFrom n i again s) n).result = (adc s n).result := by
  simp only [regularFrom]
  split
  · rw [adc_beginEntry, adc_onAdc_same]
  · split
    · simp [adc_beginEntry, result_applyDeferred]
    · simp [result_applyDeferred]

/-- A regular sequence that no injected one interrupts goes on to its next entry (R56). -/
theorem advanceSeq_regular {n i : Nat} {s : State} (hi : (adc s n).inj = none) (hr : (adc s n).reg = some i) :
    advanceSeq n s = regularFrom n (i + 1) false s := by
  simp only [advanceSeq, hi, hr]

/-- A regular trigger that finds the converter idle starts its sequence at entry 0 (R56). -/
theorem regularTrigger_idle {n : Nat} {s : State} (hm : adcMode s n = 2) (hr : (adc s n).reg = none) (hi : (adc s n).inj = none)
    (hq : 0 < fld (inForce s (rk .adc n 0x080)) 0 5) :
    regularTrigger n s = beginEntry n (onAdc n (fun a => { a with reg := some 0, again := false }) s) := by
  simp [regularTrigger, hm, hr, hi, regularFrom_of_lt hq]

theorem regularTrigger_completes {n : Fin 32} {s : State} (hl : live s .adc = true) (hp : (adc s n).regPulse = true)
    (hm : adcMode s n = 2) (hr : (adc s n).reg = none) (hi : (adc s n).inj = none)
    (hq : 0 < fld (inForce s (rk .adc n 0x080)) 0 5) :
    ∃ t, exec (.regularTrigger n) s = .next t ∧ (adc t n).reg = some 0 ∧ (adc t n).regPulse = false := by
  refine ⟨_, rfl, ?_⟩
  rw [if_neg (by simp [hl, hp]), regularTrigger_idle (by simpa using hm) (by simpa using hr) (by simpa using hi) (by simpa using hq)]
  simp [adc_beginEntry]

theorem urgentTrigger_completes {n : Fin 32} {s : State} (hl : live s .adc = true) (hp : (adc s n).injPulse = true)
    (hm : adcMode s n = 2) (hu : bit (inForce s (rk .adc n 0x080)) 26 = true) (hi : (adc s n).inj = none) :
    ∃ t, exec (.urgentTrigger n) s = .next t ∧ (adc t n).inj = some 0 ∧ (adc t n).reg = (adc s n).reg := by
  refine ⟨_, rfl, ?_⟩
  rw [if_neg (by simp [hl, hp])]
  simp [urgentTrigger, hm, hu, hi, adc_beginEntry]

theorem swStart_completes {m : Master} {n : Fin 32} {s : State} (h : reaches s m .adc 0x080 = true)
    (hsw : actf s (rk .adc n 0x080) 8 2 = 0) (hm : adcMode s n = 2) (hr : (adc s n).reg = none) (hi : (adc s n).inj = none)
    (hq : 0 < fld (inForce s (rk .adc n 0x080)) 0 5) :
    ∃ t, exec (.swStart m n) s = .next t ∧ (adc t n).reg = some 0 := by
  have hact : ∀ k lo w, actf (countedWrite m .adc n 0x080 s) k lo w = actf s k lo w := fun k lo w => by
    simp [actf, countedWrite]
  have hadc : adc (countedWrite m .adc n 0x080 s) n = adc s n := adc_pmcAccess _ _ _ _ _ _
  have hidle := regularTrigger_idle ((hact _ _ _).trans hm) (hadc ▸ hr) (hadc ▸ hi) (hq.trans_eq (hact _ 0 5).symm)
  refine ⟨_, congrArg Host.Outcome.next (byBus_reaches h), ?_⟩
  rw [adc_busCycle, swStart, if_pos ((hact _ _ _).trans hsw), hidle]
  simp [adc_beginEntry]

/-- A result that has become available goes to its register; of the converter nothing else changes. -/
theorem adc_storeResult (n : Nat) (s : State) : adc (storeResult n s) n = { adc s n with result := none } := by
  unfold storeResult
  split
  next => rw [adc_onAdc_same, adc_wr]
  next h => rw [← h]

/-- The converted entry waits with NEW 1 for its register (R58). -/
theorem adc_entryResult {n k : Nat} {c : Int} {sat again : Bool} {s : State} (hu : (adc s n).unsettled = false) :
    ∃ w, bit w 17 = true ∧
      adc (entryResult n k c sat again s) n = { adc s n with result := some (s.now + convLen (adc s n), k, w) } := by
  simp only [entryResult, apply_ite (adc · n), adc_raise, adc_setAdc_same, ite_self, hu, Bool.false_eq_true, if_false]
  refine ⟨_, ?_, rfl⟩
  rw [bit_setBit_ne _ _ _ _ (by decide) (by decide), bit_setBit_same _ _ _ (by decide)]

theorem entryEnd_completes {n : Fin 32} (code : Int) (side : Fin 3) {s : State} {i : Nat} (hl : live s .adc = true)
    (hm : adcMode s n = 2) (hi : (adc s n).inj = none) (hr : (adc s n).reg = some i) (hu : (adc s n).unsettled = false) :
    ∃ t, exec (.entryEnd n code side) s = .next t ∧
      ((adc t n).result.map fun r => (r.2.1, bit r.2.2 17)) = some (rk .adc n (0x100 + 4 * i), true) ∧
      (adc s n).entryAt + (adc s n).entryLen ≤ t.now := by
  have ha : ∀ t, adc (upto t (storeResult n s)) n = { adc s n with result := none } := fun _ => adc_storeResult n s
  refine ⟨_, rfl, ?_⟩
  rw [if_neg (by simp [hl, hm])]
  simp only [adc_storeResult, hi, hr]
  obtain ⟨w, hnew, hw⟩ := adc_entryResult (n := n) (k := rk .adc n (0x100 + 4 * i))
    (s := upto ((adc s n).entryAt + (adc s n).entryLen) (storeResult n s)) (by rw [ha]; exact hu)
  rw [advanceSeq_regular (i := i) (by rw [hw, ha]; exact hi) (by rw [hw, ha]; exact hr)]
  constructor
  · rw [result_regularFrom, hw]
    simp [hnew]
  · exact (le_upto_now _ _).trans (regularFrom_follows _ _ _ (entryResult_follows _ _ _ _ _ (Follows.refl false false _))).time

theorem resultWord_countedRead (m : Master) (n : Fin 32) (o : Nat) {off : Nat} (ho : off < 0x1000) (s : State) :
    resultWord (countedRead m .adc n o s) n (rk .adc n off) = resultWord s n (rk .adc n off) := by
  simp only [resultWord, rd_countedRead_adc m n o ho]
  simp only [countedRead, adc_pmcAccess, pmcAccess_now]

theorem resultRead_completes (m : Master) {n : Fin 32} {i : Fin 20} {s : State} {k : Nat} (h : pageUp s .adc 0x100 = true)
    (hk : k = rk .adc n (if i.val < 16 then 0x100 + 4 * i else 0x150 + 4 * (i - 16))) :
    ∃ t, exec (.resultRead m n i) s = .next t ∧ t.bus.rdata = resultWord s n k ∧ t.bus.err = false ∧ rdb t k 17 = false := by
  subst hk
  refine ⟨_, congrArg Host.Outcome.next (readAt_up (h ▸ pageUp_off (by decide) s _ _)), ?_, rfl, ?_⟩
  · exact resultWord_countedRead m n _ (by split <;> omega) s
  · rw [rdb, rd_respond, rd_wr_same]
    exact bit_setBit_same _ _ _ (by decide)

/-! Commits -/

/-- A closed group stands as an arm of the same CLK_FAB cycle leaves it (R16, R18, R569). -/
theorem grp_closeGroup (t : PageType) (n g : Nat) (s : State) : grp (closeGroup t n g s) (grpKey t n g) =
    { armed := armAgain (grp s (grpKey t n g)) s.now, dom := if (grp s (grpKey t n g)).rearm then grpCdom s t n g else 0 } :=
  grp_setGrp_same _ _ _

theorem adcLegal_upto (t : Nat) (s : State) (n : Nat) : adcLegal (upto t s) n = adcLegal s n := rfl

/-- Which converters commit at a tick, and what they select then, does not depend on the time now (R37). -/
theorem takenWithLower_upto (t : Nat) (s : State) (tk n : Nat) : takenWithLower (upto t s) tk n = takenWithLower s tk n := by
  induction n with
  | zero => rfl
  | succ n ih => simp only [takenWithLower, ih]; rfl

theorem adcYields_upto (t : Nat) (s : State) (n tk : Nat) : adcYields (upto t s) n tk = adcYields s n tk := by
  simp only [adcYields, takenWithLower_upto]; rfl

/-- Of the groups, a commit that is legal closes its own and changes no other: what comes before and after in it ends a window,
puts registers in force, and stops and starts the converter. -/
theorem commitAdc_grps {n start tick ended : Nat} {bound : Option Nat} {s : State} (hl : adcLegal s n = true)
    (hy : adcYields s n tick = false) :
    ∃ s', s'.grps = s.grps ∧ (commitAdc n bound start tick ended s).grps = (closeGroup .adc n 0 s').grps := by
  have hfree := Part.grps.allFree_same
  unfold commitAdc
  rw [if_neg (by simp [hl, hy])]
  extract_lets late kc ks old oldSeq a busy seqKeys new remake stays bare s1 s2 s3 s4 s5 s6 st s7 s8 s9
  have h1 : Stays (Part.same s · .grps) s s1 := .ite (closeWin_stays (hfree s rfl) _ _ _ _ (.refl _ _)) (.refl _ _)
  have h2 : Stays (Part.same s · .grps) s s2 := forEach_stays (fun _ _ h => .ite h (setForce_stays (hfree s rfl) _ _ h)) h1
  have h3 : Stays (Part.same s · .grps) s s3 := onAdc_stays (hfree s rfl) _ _ h2
  have h4 : Stays (Part.same s · .grps) s s4 := .ite (wrf_stays (hfree s rfl) _ _ _ _ h3) h3
  have hon : ∀ f {u}, Stays (Part.same s5 · .grps) s5 u → Stays (Part.same s5 · .grps) s5 (onAdc n f u) :=
    fun f _ h => onAdc_stays (hfree s5 rfl) _ f h
  have h6 : Stays (Part.same s5 · .grps) s5 s6 := .ite (wrb_stays (hfree s5 rfl) _ _ _ (.refl _ _)) (.refl _ _)
  have h7 : Stays (Part.same s5 · .grps) s5 s7 := .ite (hon _ h6) h6
  have h8 : Stays (Part.same s5 · .grps) s5 s8 := stopAdc_stays (hfree s5 rfl) _ h7
  have h9 : Stays (Part.same s5 · .grps) s5 s9 := .ite (hon _ h8) h8
  refine ⟨s4, Part.same_of_stays h4, Part.same_of_stays (p := .grps) (.ite (.ite (hon _ h7) h7) ?_)⟩
  split
  · exact hon _ (wrb_stays (hfree s5 rfl) _ _ _ h8)
  · exact .ite (.ite (.ite (hon _ h9) (hon _ h9)) (hon _ h9)) (.ite (regularFrom_stays (hfree s5 rfl) _ _ _ h9) h9)

/-- The group of a converter after a commit that is legal. -/
theorem grp_commitAdc {n start tick ended : Nat} {bound : Option Nat} {s : State} (hl : adcLegal s n = true)
    (hy : adcYields s n tick = false) : ∃ now d, grp (commitAdc n bound start tick ended s) (grpKey .adc n 0) =
      { armed := armAgain (grp s (grpKey .adc n 0)) now, dom := if (grp s (grpKey .adc n 0)).rearm then d else 0 } := by
  obtain ⟨s', hs', hc⟩ := commitAdc_grps (start := start) (ended := ended) (bound := bound) hl hy
  have hg : grp s' (grpKey .adc n 0) = grp s (grpKey .adc n 0) := congrArg (smGet grp0 · _) hs'
  refine ⟨s'.now, grpCdom s' .adc n 0, (congrArg (smGet grp0 · _) hc).trans ?_⟩
  rw [← hg]
  exact grp_closeGroup .adc n 0 s'

theorem converterGroupCommit_completes {n : Fin 32} {s : State} {a : Nat} (hlive : live s .adc = true)
    (hb : (grp s (grpKey .adc n 0)).bare = true) (ha : (grp s (grpKey .adc n 0)).armed = some a) (hl : adcLegal s n = true)
    (hy : adcYields s n (tickAt s (a + setupLen)) = false) :
    ∃ t, exec (.converterGroupCommit n) s = .next t ∧ (grp t (grpKey .adc n 0)).bare = false ∧
      (grp t (grpKey .adc n 0)).openAt = none ∧ ((grp s (grpKey .adc n 0)).rearm = false → grp t (grpKey .adc n 0) = {}) ∧
      tickAt s (a + setupLen) ≤ t.now := by
  refine ⟨_, rfl, ?_⟩
  simp only [hlive, hb, ha, bareTick, Option.map_some, Bool.not_true, Bool.or_self, Bool.false_eq_true, if_false]
  generalize tickAt s (a + setupLen) = tk at hy ⊢
  obtain ⟨now, d, hg⟩ := grp_commitAdc (start := tk) (ended := 0) (bound := none) (s := upto tk s)
    ((adcLegal_upto tk s n).trans hl) ((adcYields_upto tk s n tk).trans hy)
  rw [hg]
  refine ⟨rfl, rfl, fun hr => ?_, (le_upto_now tk s).trans (commitAdc_follows _ _ _ _ _ (Follows.refl false false _)).time⟩
  have hr' : (grp (upto tk s) (grpKey .adc n 0)).rearm = false := hr
  rw [armAgain, hr']
  rfl

/-- Settles O2: each clause is the lemma of its command. -/
theorem sequencedSensingCompletes : Obligations.SequencedSensingCompletes := by
  unfold Obligations.SequencedSensingCompletes
  exact ⟨fun _ _ hl hp hm hr hi _ hq => regularTrigger_completes hl hp hm hr hi hq,
    fun _ _ hl hp hm hu hi => urgentTrigger_completes hl hp hm hu hi,
    fun _ code side _ _ hl hm hi hr _ hu => entryEnd_completes code side hl hm hi hr hu,
    fun _ _ _ h hsw hm hr hi _ hq => swStart_completes h hsw hm hr hi hq,
    fun m _ _ _ _ => resultRead_completes m,
    fun _ _ _ => converterGroupCommit_completes⟩

end Sys2Proof.Machine
end

section
/-! Two statements of the engine and of the stores that fail, each at one command: the mode of a global swap in progress, and a
cell for a stream of a gateway where the list of streams is out of order. -/

namespace Sys2Proof.Machine

/-- A global swap that is being verified: it was asked for in MODE 1, for a cycle that has come, and MODE has been written 0
since. -/
def modeRewritten : State :=
  { runningBlock with eng := { runningBlock.eng with global := .checking, globMode := true } }

/-- The swap keeps the MODE of its request, and is refused as too late (R99). -/
theorem globalVerified_refuses_late : ∃ t, exec .globalVerified modeRewritten = .next t ∧ t.eng.global = .none :=
  ⟨_, rfl, by decide +kernel⟩

/-- Refutes O5, in its clause on the verified global swap: it asks what MODE holds now, where the swap keeps the mode it was asked
for with. -/
theorem not_lanesAndSwapsComplete : ¬ Obligations.LanesAndSwapsComplete := by
  unfold Obligations.LanesAndSwapsComplete
  rintro ⟨-, -, -, -, -, hglobal, -⟩
  obtain ⟨t, ht, hnone⟩ := globalVerified_refuses_late
  obtain ⟨t', ht', -, hready⟩ := hglobal modeRewritten (by decide +kernel) rfl (by decide +kernel)
  obtain rfl : t = t' := Host.Outcome.next.inj (ht.symm.trans ht')
  exact absurd (hnone.symm.trans hready) (by decide +kernel)

/-- Two receive streams and a send stream of the gateway of ring A, listed out of the order of their numbers. Stream 3 is the
second of the receive streams as they are listed, and has no peer: there is one send stream. -/
def disorderedStreams : List (Nat × RStream) :=
  [(7, { cfg := 0x42#32 }), (3, { cfg := 0x42#32, buf := 0x10000#32, st := 2 }), (5, { cfg := 0x41#32, buf := 0x20001#32 })]

/-- The header of a DATA cell of one byte for stream 3. -/
def crossHeader : List Byte := [0x10#8, 0#8, 0#8, 0#8, 0#8, 3#8, 0#8, 0#8, 1#8, 0#8, 0#8, 0#8]

/-- Its payload, all zeros, and its check (R328). -/
def crossBody : List Byte := List.replicate 48 0#8 ++ [0xD6#8, 0xA2#8, 0x06#8, 0x69#8]

/-- That cell comes in on ring A. -/
def disorderedRing : State :=
  { runningBlock with
    rings := { a := { rx := some { hdr := crossHeader, soc := 0, take := true, fwd := none, out := [] } }
               streams := disorderedStreams } }

/-- The update of stream 3 puts its entry before that of stream 7, so that stream 3 is now the first of the receive streams and
has a peer: the cell is carried across into slot 0 of stream 5, where it leaves its length. -/
theorem cellEnd_crosses_disordered : ∃ t, exec (.cellEnd 0 crossBody 0 false) disorderedRing = .next t ∧
    memRd disorderedRing (ringBase + 112) = 0#8 ∧ memRd t (ringBase + 112) = 1#8 :=
  ⟨_, rfl, by decide +kernel, by decide +kernel⟩

/-- Refutes O57, in its clause on a received cell of a stream without a peer: the statement does not ask for a list of streams
in the order of their numbers, and out of that order the stream gains a peer as its cell is taken. -/
theorem not_storesStayInPlace : ¬ Obligations.StoresStayInPlace := by
  unfold Obligations.StoresStayInPlace
  rintro ⟨-, -, -, -, -, -, -, -, -, -, -, -, -, -, -, hcell, -⟩
  obtain ⟨t, ht, h0, h1⟩ := cellEnd_crosses_disordered
  have hsame := hcell 0 crossBody 0 false _ disorderedRing t rfl (by decide) (by decide +kernel) ht (ringBase + 112)
    (by unfold OffSlots; decide +kernel)
  rw [h0, h1] at hsame
  exact absurd hsame (by decide)

end Sys2Proof.Machine
end

section
/-! The lanes through each update, and the engine's registers among the others. -/

namespace Sys2Proof.Machine

/-! Lanes -/

theorem lane_congr {s t : State} (h : t.lanes = s.lanes) (n : Nat) : lane t n = lane s n := congrArg (smGet lane0 · n) h

@[simp] theorem lane_onLane_same (n : Nat) (f : Lane → Lane) (s : State) : lane (onLane n f s) n = f (lane s n) :=
  smGet_smSet_same _ _ _ _

theorem lane_onLane_ne {n m : Nat} (f : Lane → Lane) (s : State) (h : m ≠ n) : lane (onLane n f s) m = lane s m :=
  smGet_smSet_ne _ _ _ h

@[simp] theorem lane_raise (t : PageType) (p k : Nat) (s : State) (n : Nat) : lane (raise t p k s) n = lane s n :=
  lane_congr (raise_lanes t p k s) n

@[simp] theorem lane_upto (t : Nat) (s : State) (n : Nat) : lane (upto t s) n = lane s n := rfl
@[simp] theorem lane_at (t : Nat) (s : State) (n : Nat) : lane { s with now := t } n = lane s n := rfl
@[simp] theorem lane_setGrp (k : Nat) (x : Grp) (s : State) (n : Nat) : lane (setGrp k x s) n = lane s n := rfl

/-- A part that an operation may not change is as it was after it. -/
theorem Part.same_of_op {p : Part} {m : Nat} {f : State → State} (hm : m.testBit p.number = false)
    (hf : ∀ {π : State → Prop} {r s : State}, AllFree π m → Stays π r s → Stays π r (f s)) (s : State) : p.same s (f s) :=
  Part.same_of_stays (hf (p.allFree_same s hm) (.refl _ s))

theorem lanes_pmcCount (cls : Nat) (m : Option Doer) (a : Option Nat) (s : State) : (pmcCount cls m a s).lanes = s.lanes :=
  Part.same_of_op (p := .lanes) (m := 70368744701960) (by decide) (fun h => pmcCount_stays h cls m a) s

theorem lanes_openGroup (t : PageType) (p g : Nat) (s : State) : (openGroup t p g s).lanes = s.lanes :=
  Part.same_of_op (p := .lanes) (m := 4718600) (by decide) (fun h => openGroup_stays h t p g) s

theorem lanes_outShadow (p : Nat) (v : Word) (s : State) : (outShadow p v s).lanes = s.lanes :=
  Part.same_of_op (p := .lanes) (m := 8388618) (by decide) (fun h => outShadow_stays h p v) s

/-! Registers where only memory and held writes change -/

theorem rd_congr {s t : State} (h : t.regs = s.regs) (k : Nat) : rd t k = rd s k := congrArg (smGet resetVal · k) h

@[simp] theorem rd_writeTileWord (t w : Nat) (v : Word) (s : State) (k : Nat) : rd (writeTileWord t w v s) k = rd s k :=
  rd_congr (Part.same_of_op (p := .regs) (m := 64) (by decide) (fun h => writeTileWord_stays h t w v) s) k

@[simp] theorem rd_releaseHeld (n j : Nat) (s : State) (k : Nat) : rd (releaseHeld n j s) k = rd s k :=
  rd_congr (Part.same_of_op (p := .regs) (m := 17179869248) (by decide) (fun h => releaseHeld_stays h n j) s) k

@[simp] theorem rd_releaseUnmapped (s : State) (k : Nat) : rd (releaseUnmapped s) k = rd s k :=
  rd_congr (Part.same_of_op (p := .regs) (m := 17179869248) (by decide) (fun h => releaseUnmapped_stays h) s) k

/-! The engine's registers -/

/-- A register of the pages of the engine: ENG, SND and ENGC. -/
def engineKey (k : Nat) : Prop := 0x400000 ≤ k ∧ k < 0x500000

theorem laneKey_engineKey (n : Fin 32) {off : Nat} (ho : off < 0x1000) : engineKey (laneKey n off) := by
  simp only [engineKey, laneKey, rk, pageFirst]
  omega

theorem engcKey_engineKey {off : Nat} (ho : off < 0x1000) : engineKey (engcKey off) := by
  simp only [engineKey, engcKey, rk, pageFirst]
  omega

theorem engineKey.not_countKey {k : Nat} (h : engineKey k) : ¬ countKey k := by
  simp only [engineKey, countKey, mergeKey, pmcKey, rk, pageFirst] at h ⊢
  omega

theorem engineKey.not_mergeKey {k : Nat} (h : engineKey k) : ¬ mergeKey k := fun hm => h.not_countKey (.inl hm)

end Sys2Proof.Machine
end

section
/-! Passes and drains: a pass starts, ends or is overrun, and its drain completes (R68, R89, R90, R93). -/

namespace Sys2Proof.Machine

/-! Drains -/

/-- The drain of a lane leaves the lanes as they are, but that this one drains no longer. -/
theorem lane_drainNow (n : Nat) (s : State) : lane (drainNow n s) n = { lane s n with drain := none } := by
  cases hd : (lane s n).drain with
  | none =>
    rw [show drainNow n s = s by simp only [drainNow, hd], ← hd]
  | some r =>
    let u := onLane n (fun x => { x with drain := none }) s
    have hm : ∀ {m : Nat}, m.testBit Part.lanes.number = false → AllFree (fun t => Part.same u t .lanes) m :=
      Part.lanes.allFree_same u
    have hrun : Stays (fun t => Part.same u t .lanes) u (drainNow n s) := by
      have hsts := forEach_stays (xs := r.sts) (fun w _ h => writeTileWord_stays (hm rfl) (w.1 / 1024) (w.1 % 1024) w.2 h)
        (.refl (fun t => Part.same u t .lanes) u)
      have hlate := forEach_stays (xs := r.late) (fun w _ h => lateWrite_stays (hm rfl) w h) hsts
      have hevts := forEach_stays (xs := r.evts)
        (fun c _ h => raise_stays (hm rfl) .eng n 11 (wr_stays (hm rfl) (laneKey n 0x0BC) (wNat c) h)) hlate
      simp only [drainNow, hd]
      exact .ite (releaseUnmapped_stays (hm rfl) hevts)
        (releaseUnmapped_stays (hm rfl) (releaseHeld_stays (hm rfl) _ _ hevts))
    have hl : (drainNow n s).lanes = u.lanes := Part.same_of_stays hrun
    rw [lane_congr hl, lane_onLane_same]

theorem drainNow_now (n : Nat) (s : State) : (drainNow n s).now = s.now :=
  Part.same_of_op (p := .now) (m := 13219909861448) (by decide) (fun h => drainNow_stays h n) s

theorem drainNow_cluster (n : Nat) (s : State) : (drainNow n s).cluster = s.cluster :=
  Part.same_of_op (p := .cluster) (m := 13219909861448) (by decide) (fun h => drainNow_stays h n) s

section DebugPage

variable {k : Nat} (hk : rk .dbg 0 0 ≤ k)
include hk

theorem not_mergeKey_of_dbg : ¬ mergeKey k := by
  simp only [mergeKey, rk, pageFirst] at hk ⊢
  omega

/-- A command to a rail writes registers of its page, and what an occurrence may write. -/
theorem rd_railCommand_dbg {r : Nat} (hr : r < 4) (src : Nat) (v : Word) (rate : Option Word) (s : State) :
    rd (railCommand r src v rate s) k = rd s k := by
  have hm := not_mergeKey_of_dbg hk
  have hreg : ∀ {off}, off < 0x1000 → k ≠ regKey r off := by
    simp only [regKey, rk, pageFirst] at hk ⊢
    omega
  have hraise : ∀ (c : Nat) (s : State), rd (raiseReg r c s) k = rd s k := fun c s => by
    have hr := rd_raise (t := .reg) (n := r) (k := c) s (hreg (by decide)) hm
    unfold raiseReg regAlert
    split <;> exact hr
  unfold railCommand
  split
  · exact (hraise _ _).trans (rd_wrf_ne _ _ _ _ (hreg (by decide)))
  · exact (apply_ite (rd · k) _ _ _).trans (ite_eq_left_iff.mpr fun _ => hraise _ _)

/-- What takes effect at a drain writes registers of REG and MPPT, and what an occurrence may write. -/
theorem rd_lateWrite_dbg (w : Nat × Word) (s : State) : rd (lateWrite w s) k = rd s k := by
  unfold lateWrite
  split
  · exact rd_railCommand_dbg hk (by omega) _ _ _ _
  · split
    · have hmppt : ∀ {off}, off < 0x10000 → k ≠ rk .mppt 0 off := by
        simp only [rk, pageFirst] at hk ⊢
        omega
      unfold capPort
      split
      · exact rd_raise _ (hmppt (by decide)) (not_mergeKey_of_dbg hk)
      · exact rd_wr_ne _ _ (hmppt (by omega))
    · rfl

/-- A drain writes no register of the debug page. -/
theorem rd_drainNow_dbg (n : Fin 32) (s : State) : rd (drainNow n s) k = rd s k := by
  have hlane : ∀ {off}, off < 0x1000 → k ≠ laneKey n off := by
    simp only [laneKey, rk, pageFirst] at hk ⊢
    omega
  unfold drainNow
  split
  · rfl
  next r hr =>
    extract_lets s1 s2 s3 s4 next
    have h2 : rd s2 k = rd s k := rd_forEach_occur (fun w s => rd_writeTileWord _ _ _ s k) _ _
    have h3 : rd s3 k = rd s k := (rd_forEach_occur (fun w s => rd_lateWrite_dbg hk w s) _ _).trans h2
    have h4 : rd s4 k = rd s k := (rd_forEach_occur (fun c s =>
      (rd_raise _ (hlane (by decide)) (not_mergeKey_of_dbg hk)).trans (rd_wr_ne _ _ (hlane (by decide)))) _ _).trans h3
    split
    · exact (rd_releaseUnmapped _ _).trans h4
    · exact (rd_releaseUnmapped _ _).trans ((rd_releaseHeld _ _ _ _).trans h4)

end DebugPage

theorem drainComplete_completes {n : Fin 32} {s : State} {r : Drain} (hl : live s .eng = true) (hr : (lane s n).drain = some r) :
    ∃ t, exec (.drainComplete n) s = .next t ∧ (lane t n).drain = none ∧ r.endAt ≤ t.now := by
  refine ⟨_, rfl, ?_⟩
  simp only [hr, hl, if_true]
  rw [lane_drainNow, drainNow_now]
  exact ⟨rfl, le_upto_now _ _⟩

/-! The start of a pass -/

theorem lane_startPass (n tk len : Nat) (s : State) :
    ∃ p, lane (startPass n tk len s) n = { lane s n with st := 2, first := false, pass := some p } := by
  have hgen : ∀ l, (forEach l (fun g s => genFlag g 16 s) s).lanes = s.lanes := fun l =>
    Part.same_of_op (p := .lanes) (m := 8) (by decide) (fun h => forEach_stays fun g _ => genFlag_stays h g 16) s
  simp only [startPass, lane_onLane_same, lane_congr (hgen _)]
  exact ⟨_, rfl⟩

/-- The state in which a lane that no debugger holds begins its pass, after its drain and its note of the period. -/
def passBegin (n tk k : Nat) (s : State) : State :=
  pairPassStart n (onLane n (fun x => { x with passK := some k, held := false }) (drainNow n (upto (tk + 1200) s)))

theorem lane_passBegin (n tk k : Nat) (s : State) :
    lane (passBegin n tk k s) n = { lane s n with drain := none, passK := some k, held := false } := by
  have hpair : ∀ s, (pairPassStart n s).lanes = s.lanes :=
    Part.same_of_op (p := .lanes) (m := 2147483648) (by decide) (fun h => pairPassStart_stays h n)
  rw [passBegin, lane_congr (hpair _), lane_onLane_same, lane_drainNow, lane_upto]

theorem le_passBegin_now (n tk k : Nat) (s : State) : tk + 1200 ≤ (passBegin n tk k s).now := by
  have hpair : ∀ s, (pairPassStart n s).now = s.now :=
    Part.same_of_op (p := .now) (m := 2147483648) (by decide) (fun h => pairPassStart_stays h n)
  calc tk + 1200 ≤ (upto (tk + 1200) s).now := le_upto_now _ _
    _ = (drainNow n (upto (tk + 1200) s)).now := (drainNow_now _ _).symm
    _ = (onLane n (fun x => { x with passK := some k, held := false }) (drainNow n (upto (tk + 1200) s))).now := rfl
    _ = (passBegin n tk k s).now := (hpair _).symm

/-- The debugger holds a lane by the halted harts and LANE_HALT, which a drain leaves as they are (R533). -/
theorem laneHalts_drainNow (n : Fin 32) (t : Nat) (s : State) :
    (anyHalted (drainNow n (upto t s)) && rdb (drainNow n (upto t s)) (rk .dbg 0 0x044) n) =
      (anyHalted s && rdb s (rk .dbg 0 0x044) n) := by
  simp only [anyHalted, hart, drainNow_cluster, rdb, rd_drainNow_dbg (k := rk .dbg 0 0x044) (by decide) n, rd_upto, upto_cluster]

/-- The rest of that start: the groups of the rails, and the pass. -/
def passSet (n d tk k : Nat) (s : State) : State :=
  let (s', gs) := railPass n s
  let keys := (gs.map fun g => grpKey .pwmg g.1 g.2).eraseDups
  let s' := startPass n tk ((nextTick s d - tk) / tickLen) s'
  let s' := forEach keys (fun k' s => setGrp k' { grp s k' with owner := some (n, k) } s) s'
  onPass n (fun p => { p with opened := keys }) s'

theorem lane_passSet (n d tk k : Nat) (s : State) :
    ∃ p, lane (passSet n d tk k s) n = { lane s n with st := 2, first := false, pass := some p } := by
  have hgrp : ∀ (l : List Nat) s, (forEach l (fun k' s => setGrp k' { grp s k' with owner := some (n, k) } s) s).lanes = s.lanes :=
    fun l => Part.same_of_op (p := .lanes) (m := 4194304) (by decide) fun h => forEach_stays fun k' s => setGrp_stays h k' _
  have hrail := lane_congr (Part.same_of_op (p := .lanes) (f := fun s => (railPass n s).1) (m := 4398051229704) (by decide)
    (fun h => railPass_stays h n) s) n
  obtain ⟨p, hp⟩ := lane_startPass n tk ((nextTick s d - tk) / tickLen) (railPass n s).1
  simp only [passSet, onPass, lane_onLane_same, lane_congr (hgrp _ _), hp, hrail]
  exact ⟨_, rfl⟩

theorem passSet_now (n d tk k : Nat) (s : State) : (passSet n d tk k s).now = s.now := by
  have hgrp : ∀ (l : List Nat) s, (forEach l (fun k' s => setGrp k' { grp s k' with owner := some (n, k) } s) s).now = s.now :=
    fun l => Part.same_of_op (p := .now) (m := 4194304) (by decide) fun h => forEach_stays fun k' s => setGrp_stays h k' _
  have hstart : ∀ len s, (startPass n tk len s).now = s.now := fun len =>
    Part.same_of_op (p := .now) (m := 8589934600) (by decide) fun h => startPass_stays h n tk len
  have hrail : (railPass n s).1.now = s.now :=
    Part.same_of_op (p := .now) (f := fun s => (railPass n s).1) (m := 4398051229704) (by decide) (fun h => railPass_stays h n) s
  exact (hgrp _ _).trans ((hstart _ _).trans hrail)

section Start

variable {n : Fin 32} {s : State} (hl : live s .eng = true) (hd : domRuns s (laneDom s n) = true)
  (hb : (dom s (laneDom s n)).begun = true) (hst : (lane s n).st = 1) (hk : (lane s n).passK ≠ some (dom s (laneDom s n)).k)
  (hh : (anyHalted s && rdb s (rk .dbg 0 0x044) n) = false)
include hl hd hb hst hk hh

theorem passStart_eq : exec (.passStart n) s =
    .next (passSet n (laneDom s n) (lastTick s (laneDom s n)) (dom s (laneDom s n)).k
      (passBegin n (lastTick s (laneDom s n)) (dom s (laneDom s n)).k s)) := by
  refine congrArg Host.Outcome.next ?_
  rw [if_neg (by simp [hl, hd, hb, hst, hk])]
  simp only [laneHalts_drainNow, hh, Bool.false_eq_true, if_false]
  rfl

theorem passStart_completes : ∃ t, exec (.passStart n) s = .next t ∧ (lane t n).st = 2 ∧
    (lane t n).passK = some (dom s (laneDom s n)).k ∧ (lane t n).first = false ∧ (lane t n).pass.isSome = true ∧
    lastTick s (laneDom s n) + 1200 ≤ t.now := by
  refine ⟨_, passStart_eq hl hd hb hst hk hh, ?_⟩
  obtain ⟨p, hp⟩ := lane_passSet n (laneDom s n) (lastTick s (laneDom s n)) (dom s (laneDom s n)).k
    (passBegin n (lastTick s (laneDom s n)) (dom s (laneDom s n)).k s)
  rw [hp, lane_passBegin, passSet_now]
  exact ⟨rfl, rfl, rfl, rfl, le_passBegin_now _ _ _ _⟩

end Start

/-! The end of a pass -/

/-- An OUT that issues leaves each lane the pass it runs, changed or not. -/
theorem pass_onPass (n : Nat) (f : Pass → Pass) (s : State) (m : Nat) :
    (lane (onPass n f s) m).pass.isSome = (lane s m).pass.isSome := by
  by_cases h : m = n
  · subst h
    rw [onPass, lane_onLane_same, Option.isSome_map]
  · rw [onPass, lane_onLane_ne _ _ h]

theorem pass_issueOut (n : Nat) (o : PassOut) (s : State) (m : Nat) :
    (lane (issueOut n o s) m).pass.isSome = (lane s m).pass.isSome := by
  unfold issueOut
  split
  · exact pass_onPass _ _ _ _
  · dsimp only
    split
    · exact pass_onPass _ _ _ _
    · split
      · exact pass_onPass _ _ _ _
      · split
        · rw [lane_congr (wrb_lanes _ _ _ _)]
        · rw [lane_at, lane_congr (lanes_outShadow _ _ _), pass_onPass, lane_setGrp, lane_congr (lanes_openGroup _ _ _ _), lane_at]

theorem pass_forEach {α : Type} {f : α → State → State} {m : Nat}
    (hf : ∀ x s, (lane (f x s) m).pass.isSome = (lane s m).pass.isSome) :
    ∀ (l : List α) (s : State), (lane (forEach l f s) m).pass.isSome = (lane s m).pass.isSome
  | [], _ => rfl
  | x :: l, s => (pass_forEach hf l (f x s)).trans (hf x s)

theorem pass_flushOuts (t : Nat) (s : State) (m : Nat) : (lane (flushOuts t s) m).pass.isSome = (lane s m).pass.isSome :=
  (pass_forEach (fun (e : Nat × PassOut) s => pass_issueOut e.1 e.2 s m) _ _).trans
    (pass_forEach (fun (e : Nat × PassOut) s => pass_onPass e.1 _ s m) _ _)

/-- After its pass a lane runs none and drains. -/
theorem lane_afterPass (n : Nat) (fault : Bool) (r : Drain) (s : State) :
    (lane (afterPass n fault r s) n).pass = none ∧ (lane (afterPass n fault r s) n).drain = some r := by
  simp only [afterPass, lane_congr (lanes_pmcCount _ _ _ _), apply_ite (lane · n), lane_raise, lane_onLane_same, ite_self, and_self]

/-- A lane's pass still runs when the OUTs up to its end have issued, and its end has come. -/
theorem flushOuts_atEnd {n : Nat} {s : State} {p : Pass} (hp : (lane s n).pass = some p) (fin : Nat) :
    (∃ q, (lane (flushOuts fin (upto fin s)) n).pass = some q) ∧ fin ≤ (flushOuts fin (upto fin s)).now := by
  refine ⟨Option.isSome_iff_exists.mp ((pass_flushOuts fin (upto fin s) n).trans ?_), (le_upto_now fin s).trans ?_⟩
  · rw [lane_upto, hp, Option.isSome_some]
  · exact (flushOuts_follows fin (Follows.refl false false _)).time

section Ends

variable (n : Nat) {p : Pass} {s : State} {fin : Nat} (h : fin ≤ s.now)
include h

theorem discardPass_ends (c : PassDisc) (e : Nat) : (lane (discardPass n c e p s) n).pass = none ∧
    (lane (discardPass n c e p s) n).drain.isSome = true ∧ fin ≤ (discardPass n c e p s).now := by
  obtain ⟨hpass, hdrain⟩ : (lane (discardPass n c e p s) n).pass = none ∧ (lane (discardPass n c e p s) n).drain = some _ :=
    lane_afterPass n _ _ _
  exact ⟨hpass, Option.isSome_of_mem hdrain, h.trans (discardPass_follows n c e p (Follows.refl false false s)).time⟩

theorem passOk_ends : (lane (passOk n p s) n).pass = none ∧ (lane (passOk n p s) n).drain.isSome = true ∧
    fin ≤ (passOk n p s).now := by
  obtain ⟨hpass, hdrain⟩ : (lane (passOk n p s) n).pass = none ∧ (lane (passOk n p s) n).drain = some _ :=
    lane_afterPass n _ _ _
  exact ⟨hpass, Option.isSome_of_mem hdrain, h.trans (passOk_follows n p (Follows.refl false false s)).time⟩

end Ends

section End

variable {n : Fin 32} {s : State} {p : Pass} (hl : live s .eng = true) (hp : (lane s n).pass = some p)
include hl hp

theorem passEnd_completes (he : p.e ≤ p.w) :
    ∃ t, exec (.passEnd n) s = .next t ∧ (lane t n).pass = none ∧ (lane t n).drain.isSome = true ∧
      p.start + p.e * fabCyc ≤ t.now := by
  refine ⟨_, rfl, ?_⟩
  obtain ⟨⟨q, hq⟩, hnow⟩ := flushOuts_atEnd hp (p.start + p.e * fabCyc)
  simp only [hp, hl, Nat.not_lt.mpr he, decide_false, Bool.not_true, Bool.or_self, Bool.false_eq_true, if_false, hq]
  split
  · exact discardPass_ends n hnow _ _
  · exact passOk_ends n hnow

theorem passOverrun_completes (he : p.w < p.e) :
    ∃ t, exec (.passOverrun n) s = .next t ∧ (lane t n).pass = none ∧ (lane t n).drain.isSome = true ∧
      p.start + p.w * fabCyc ≤ t.now := by
  refine ⟨_, rfl, ?_⟩
  obtain ⟨⟨q, hq⟩, hnow⟩ := flushOuts_atEnd hp (p.start + p.w * fabCyc)
  simp only [hp, hl, Nat.not_le.mpr he, decide_false, Bool.not_true, Bool.or_self, Bool.false_eq_true, if_false, hq]
  exact discardPass_ends n hnow _ _

end End

/-- Settles O4: each clause is the lemma of its command. -/
theorem passesComplete : Obligations.PassesComplete := by
  unfold Obligations.PassesComplete
  exact ⟨fun _ _ hl hd hb hst hk hh => passStart_completes hl hd hb hst hk hh, fun _ _ _ hl hp => passEnd_completes hl hp,
    fun _ _ _ hl hp => passOverrun_completes hl hp, fun _ _ _ => drainComplete_completes⟩

end Sys2Proof.Machine
end

section
/-! Tiles: their types, bus writes to them, held writes, and the check of one tile (R71 to R75, R107). -/

namespace Sys2Proof.Machine

/-! Words of memory -/

theorem memWord_memWrWord_same (a : Nat) (v : Word) (s : State) : memWord (memWrWord a v s) a = v := by
  have h0 : memRd (memWrWord a v s) a = BitVec.ofNat 8 v.toNat := memRd_memWrBytes a 0 (leBytes 4 v.toNat) s (by simp [leBytes])
  have h1 : memRd (memWrWord a v s) (a + 1) = BitVec.ofNat 8 (v.toNat / 256) :=
    memRd_memWrBytes a 1 (leBytes 4 v.toNat) s (by simp [leBytes])
  have h2 : memRd (memWrWord a v s) (a + 2) = BitVec.ofNat 8 (v.toNat / 256 / 256) :=
    memRd_memWrBytes a 2 (leBytes 4 v.toNat) s (by simp [leBytes])
  have h3 : memRd (memWrWord a v s) (a + 3) = BitVec.ofNat 8 (v.toNat / 256 / 256 / 256) :=
    memRd_memWrBytes a 3 (leBytes 4 v.toNat) s (by simp [leBytes])
  refine BitVec.eq_of_toNat_eq ?_
  simp only [memWord, memBytes, Nat.add_assoc, Nat.reduceAdd, h0, h1, h2, h3, leNat, wNat, BitVec.toNat_ofNat]
  omega

theorem memWord_memWrWord_ne {a b : Nat} (v : Word) (s : State) (h : a + 4 ≤ b ∨ b + 4 ≤ a) :
    memWord (memWrWord b v s) a = memWord s a := by
  have hb : ∀ i, i < 4 → memRd (memWrWord b v s) (a + i) = memRd s (a + i) := fun i hi =>
    memRd_memWrBytes_ne b (a + i) (leBytes 4 v.toNat) s (by simp only [leBytes, List.length]; omega)
  simp only [memWord, memBytes, Nat.add_assoc, hb 1 (by decide), hb 2 (by decide), hb 3 (by decide)]
  rw [show memRd (memWrWord b v s) a = memRd s a from hb 0 (by decide)]

@[simp] theorem memWrWord_regs (a : Nat) (v : Word) : ∀ s : State, (memWrWord a v s).regs = s.regs :=
  Part.same_of_op (p := .regs) (m := 64) (by decide) fun h => memWrWord_stays h a v

@[simp] theorem memWrWord_lanes (a : Nat) (v : Word) : ∀ s : State, (memWrWord a v s).lanes = s.lanes :=
  Part.same_of_op (p := .lanes) (m := 64) (by decide) fun h => memWrWord_stays h a v

@[simp] theorem memWrWord_eng (a : Nat) (v : Word) : ∀ s : State, (memWrWord a v s).eng = s.eng :=
  Part.same_of_op (p := .eng) (m := 64) (by decide) fun h => memWrWord_stays h a v

/-! Words of tiles -/

/-- A data word of a tile is what is written to it, whatever the type of the tile. -/
theorem memWord_writeTileWord (t : Nat) {w : Nat} (v : Word) (s : State) (hw : w < 1022) :
    memWord (writeTileWord t w v s) (tileAddr t w) = v := by
  unfold writeTileWord
  split
  · rw [if_neg (by omega)]
    exact (memWord_memWrWord_ne _ _ (by simp only [tileAddr]; omega)).trans (memWord_memWrWord_same _ _ _)
  · exact memWord_memWrWord_same _ _ _

/-- So is every word of a tile that is no state tile. -/
theorem memWord_writeTileWord_plain {t : Nat} (w : Nat) (v : Word) (s : State) (ht : tileType s t ≠ 3) :
    memWord (writeTileWord t w v s) (tileAddr t w) = v := by
  rw [writeTileWord, if_neg ht]
  exact memWord_memWrWord_same _ _ _

/-- An aligned word of engine memory is the word of the tile that its address names (R70). -/
theorem tileAddr_engOff {a : Nat} (h : engAccess a 1 = true) : tileAddr (engOff a / 0x1000) (engOff a % 0x1000 / 4) = a := by
  simp only [engAccess, decide_eq_true_eq, engBase] at h
  simp only [tileAddr, engOff, engBase]
  omega

theorem memBytes_congr {s t : State} (h : t.mem = s.mem) (a n : Nat) : memBytes t a n = memBytes s a n := by
  induction n generalizing a with
  | zero => rfl
  | succ n ih => rw [memBytes, memBytes, ih, memRd, memRd, h]

/-- The check of a tile depends on its words and its type alone. -/
theorem tileCrc_congr {s t : State} (h : t.mem = s.mem) (i : Nat) : tileCrc t i = tileCrc s i :=
  congrArg crc32c (memBytes_congr h _ _)

theorem tilePasses_congr {s t : State} (hmem : t.mem = s.mem) (hregs : t.regs = s.regs) (i : Nat) :
    tilePasses t i = tilePasses s i := by
  have hword : ∀ w, tileWord t i w = tileWord s i w := fun w => congrArg (fun b => wNat (leNat b)) (memBytes_congr hmem _ _)
  have htype : tileType t i = tileType s i := congrArg (fld · _ _) (rd_congr hregs _)
  rw [tilePasses, hword, hword, htype, tileCrc_congr hmem, tilePasses]

theorem tileType_congr {s t : State} (h : ∀ k, engineKey k → rd t k = rd s k) {i : Nat} (hi : i < 256) :
    tileType t i = tileType s i := by
  rw [tileType, rdf, h _ (engcKey_engineKey (by omega)), tileType, rdf]

/-! Which lanes map a tile -/

/-- Two states agree on what decides which lanes map a tile: the lanes, whether a global swap pends, and the descriptors of the
banks. -/
structure SameMap (s t : State) : Prop where
  lanes : t.lanes = s.lanes
  global : t.eng.global = s.eng.global
  banks : ∀ n, n < 32 → ∀ b i, i < 10 → rd t (bankKey n b i) = rd s (bankKey n b i)

theorem SameMap.refl (s : State) : SameMap s s := ⟨rfl, rfl, fun _ _ _ _ _ => rfl⟩

theorem bankKey_eq (n : Nat) (b : Bool) {i : Nat} (hi : i < 10) :
    ∃ off, 0x048 ≤ off ∧ off < 0x098 ∧ bankKey n b i = laneKey n off := by
  refine ⟨_, ?_, ?_, rfl⟩ <;> cases b <;> simp <;> omega

theorem SameMap.counted (m : Doer) (store : Bool) (a : Nat) (page : Bool) (s : State) : SameMap s (pmcAccess m store a page s) := by
  refine ⟨by simp, by simp, fun n hn b i hi => ?_⟩
  obtain ⟨off, -, ho, he⟩ := bankKey_eq n b hi
  rw [he]
  exact rd_pmcAccess (laneKey_engineKey ⟨n, hn⟩ (by omega)).not_countKey _ _ _ _

section Maps

variable {s t : State} (h : SameMap s t) {n : Nat} (hn : n < 32)
include h

theorem SameMap.lane (n : Nat) : lane t n = lane s n := lane_congr h.lanes n

theorem SameMap.laneOn (n : Nat) : laneOn t n = laneOn s n := by simp only [Machine.laneOn, h.lane]

theorem SameMap.swapPends (n : Nat) : swapPends t n = swapPends s n := by simp only [Machine.swapPends, h.lane, h.global]

include hn

theorem SameMap.cValid (b : Bool) : cValid t n b = cValid s n b :=
  funext fun i => congrArg (bit · i) (h.banks n hn b 1 (by decide))

theorem SameMap.sValid (b : Bool) : sValid t n b = sValid s n b :=
  funext fun i => congrArg (bit · (16 + i)) (h.banks n hn b 1 (by decide))

theorem SameMap.cTile (b : Bool) {i : Nat} (hi : i < 16) : cTile t n b i = cTile s n b i :=
  congrArg (fld · (8 * (i % 4)) 8) (h.banks n hn b (2 + i / 4) (by omega))

theorem SameMap.sTile (b : Bool) {i : Nat} (hi : i < 16) : sTile t n b i = sTile s n b i :=
  congrArg (fld · (8 * (i % 4)) 8) (h.banks n hn b (6 + i / 4) (by omega))

theorem SameMap.progTiles (b : Bool) : progTiles t n b = progTiles s n b := by
  simp only [Machine.progTiles, bankCount, bankFirst, rdf, h.banks n hn b 0 (by decide)]

theorem SameMap.stateTiles (b : Bool) : stateTiles t n b = stateTiles s n b := by
  rw [Machine.stateTiles, h.sValid hn, Machine.stateTiles]
  exact List.map_congr_left fun i hi => h.sTile hn b (List.mem_range.mp (List.mem_filter.mp hi).1)

theorem SameMap.bankTiles (b : Bool) : bankTiles t n b = bankTiles s n b := by
  rw [Machine.bankTiles, h.progTiles hn, h.cValid hn, h.sValid hn, Machine.bankTiles]
  refine congrArg _ (List.flatMap_congr fun i hi => ?_)
  rw [h.cTile hn b (List.mem_range.mp hi), h.sTile hn b (List.mem_range.mp hi)]

theorem SameMap.mapsTile (i : Nat) : mapsTile t i n = mapsTile s i n := by
  simp only [Machine.mapsTile, h.lane, h.laneOn, h.swapPends, h.bankTiles hn]

omit hn

theorem SameMap.stateOwner (i : Nat) : stateOwner t i = stateOwner s i :=
  List.find?_congr fun m hm => by
    rw [h.laneOn, h.lane, h.stateTiles (List.mem_range.mp hm)]

end Maps

/-! Bus writes (R75) -/

theorem engBusWrite_one {m : Master} {s : State} (a : Nat) (w : Word) (hm : stagedPair s m = false) :
    engBusWrite m a [w] s = engWriteWord a w s := by
  simp [engBusWrite, forEach, List.range_succ, hm]

/-- An aligned write of one word to engine memory that is up, by a master that runs no staged image: it is counted, and the word
applied. -/
theorem engineMemoryWrite_one {m : Master} {a : Nat} (w : Word) {s : State} (ha : engAccess a 1 = true) (hf : fabricUp s = true)
    (hd : domOn s .eng = true) (hm : stagedPair s m = false) :
    exec (.engineMemoryWrite m a [w]) s = .next (busCycle (engWriteWord a w (pmcAccess (masterNo m, none) true a false s))) := by
  refine congrArg Host.Outcome.next ?_
  have hf' : fabricUp (pmcAccess (masterNo m, none) true a false s) = true := by simpa [fabricUp, domOn] using hf
  have hd' : domOn (pmcAccess (masterNo m, none) true a false s) .eng = true := by simpa [domOn] using hd
  simp only [List.length_singleton, ha, hf', hd', Bool.and_self, Bool.not_true, Bool.false_eq_true, if_false,
    engBusWrite_one a w ((stagedPair_pmcAccess _ _ _ _ _ _).trans hm)]

section Writes

variable {a : Nat} {w : Word} {s : State} (hst : s.upd.st ≠ 6)
include hst

/-- A word of a free tile is written. -/
theorem engWriteWord_free (ht : tileType s (engOff a / 0x1000) = 0) :
    engWriteWord a w s = writeTileWord (engOff a / 0x1000) (engOff a % 0x1000 / 4) w s := by
  simp [engWriteWord, hst, ht]

/-- A write to a program or coefficient tile that lanes map raises WREF of those lanes, and is ignored. -/
theorem engWriteWord_mapped (ht : tileType s (engOff a / 0x1000) = 1 ∨ tileType s (engOff a / 0x1000) = 2)
    (hm : (List.range 32).any (mapsTile s (engOff a / 0x1000)) = true) :
    engWriteWord a w s = forEach ((List.range 32).filter (mapsTile s (engOff a / 0x1000))) wref s := by
  have h0 : tileType s (engOff a / 0x1000) ≠ 0 := by omega
  have h3 : tileType s (engOff a / 0x1000) ≠ 3 := by omega
  have hne : ((List.range 32).filter (mapsTile s (engOff a / 0x1000))).isEmpty = false := by
    obtain ⟨n, hn, hmap⟩ := List.any_eq_true.mp hm
    exact List.isEmpty_eq_false_iff_exists_mem.mpr ⟨n, List.mem_filter.mpr ⟨hn, hmap⟩⟩
  simp only [engWriteWord, hst, h0, h3, hne, if_false, List.isEmpty_nil, Bool.not_true, Bool.false_eq_true]

section StateTile

variable (ht : tileType s (engOff a / 0x1000) = 3) (ho : engOff a % 0x1000 < 4 * 1022) {n : Nat}
  (hown : stateOwner s (engOff a / 0x1000) = some n)
include ht ho hown

/-- A write to a state tile of a lane that runs a pass or drains waits. -/
theorem engWriteWord_held (hh : laneHolds s n = true) :
    engWriteWord a w s = { s with eng := { s.eng with held := s.eng.held ++ [(n, a, w)] } } := by
  have hw : ¬ 1022 ≤ engOff a % 0x1000 / 4 := by omega
  simp only [engWriteWord, hst, ht, hw, hown, hh, if_false, if_true, List.isEmpty_nil, Bool.not_true, Bool.false_eq_true]

/-- Otherwise it lands. -/
theorem engWriteWord_lands (hh : laneHolds s n = false) :
    engWriteWord a w s = writeTileWord (engOff a / 0x1000) (engOff a % 0x1000 / 4) w s := by
  have hw : ¬ 1022 ≤ engOff a % 0x1000 / 4 := by omega
  simp only [engWriteWord, hst, ht, hw, hown, hh, if_false, if_true, List.isEmpty_nil, Bool.not_true, Bool.false_eq_true]

end StateTile

end Writes

/-- A write that is ignored changes nothing but causes. -/
theorem mem_forEach_wref (l : List Nat) : ∀ s : State, (forEach l wref s).mem = s.mem :=
  Part.same_of_op (p := .mem) (m := 524296) (by decide) fun h => forEach_stays fun n _ => wref_stays h n

theorem rdb_wref_of (m : Nat) {n : Nat} (hn : n < 32) {s : State} (h : m = n ∨ rdb s (rk .eng n 0x010) 10 = true) :
    rdb (wref m s) (rk .eng n 0x010) 10 = true := by
  have hk := laneKey_engineKey ⟨n, hn⟩ (off := 0x010) (by decide)
  by_cases hmn : m = n
  · subst hmn
    exact rdb_raise .eng m 10 s (by decide) fun he => hk.not_mergeKey (.inr he)
  · have hne : rk .eng n 0x010 ≠ rk .eng m 0x010 := by
      simp only [rk, pageFirst]
      omega
    rw [rdb, wref, rd_raise s hne hk.not_mergeKey]
    exact h.resolve_left hmn

/-- WREF stands in every lane of a list in which it has been raised, one after the other. -/
theorem rdb_forEach_wref {n : Nat} (hn : n < 32) {l : List Nat} {s : State} (h : n ∈ l ∨ rdb s (rk .eng n 0x010) 10 = true) :
    rdb (forEach l wref s) (rk .eng n 0x010) 10 = true := by
  induction l generalizing s with
  | nil => exact h.resolve_left List.not_mem_nil
  | cons m l ih =>
    refine ih ?_
    rcases h with h | h
    · exact (List.mem_cons.mp h).symm.imp_right fun e => rdb_wref_of m hn (.inl e.symm)
    · exact .inr (rdb_wref_of m hn (.inr h))

section Counted

variable (m : Master) (a : Nat) (s : State)

theorem tileType_counted : tileType (pmcAccess (masterNo m, none) true a false s) (engOff a / 0x1000) = tileType s (engOff a / 0x1000) :=
  tileType_congr (fun _ hk => rd_pmcAccess hk.not_countKey _ _ _ _) (by simp only [engOff]; omega)

theorem laneHolds_counted (n : Nat) : laneHolds (pmcAccess (masterNo m, none) true a false s) n = laneHolds s n := by
  simp only [laneHolds, lane_congr (pmcAccess_lanes _ _ _ _ s), pmcAccess_eng]

end Counted

section OneWord

variable {m : Master} {a : Nat} {w : Word} {s : State} (ha : engAccess a 1 = true) (hf : fabricUp s = true)
  (hd : domOn s .eng = true) (hm : stagedPair s m = false) (hst : s.upd.st ≠ 6)
include ha hf hd hm hst

theorem engineMemoryWrite_free (ht : tileType s (engOff a / 0x1000) = 0) :
    ∃ t, exec (.engineMemoryWrite m a [w]) s = .next t ∧ memWord t a = w ∧ t.now = s.now + fabCyc := by
  have ht' := (tileType_counted m a s).trans ht
  refine ⟨_, engineMemoryWrite_one w ha hf hd hm, ?_⟩
  rw [engWriteWord_free (by simpa using hst) ht']
  have hmem := memWord_writeTileWord_plain (engOff a % 0x1000 / 4) w (pmcAccess (masterNo m, none) true a false s)
    (by rw [ht']; decide)
  rw [tileAddr_engOff ha] at hmem
  have hnow : ∀ s, (writeTileWord (engOff a / 0x1000) (engOff a % 0x1000 / 4) w s).now = s.now :=
    Part.same_of_op (p := .now) (m := 64) (by decide) fun h => writeTileWord_stays h _ _ _
  refine ⟨hmem, ?_⟩
  rw [busCycle, hnow, pmcAccess_now]

theorem engineMemoryWrite_mapped (ht : tileType s (engOff a / 0x1000) = 1 ∨ tileType s (engOff a / 0x1000) = 2)
    (hmap : (List.range 32).any (mapsTile s (engOff a / 0x1000)) = true) :
    ∃ t, exec (.engineMemoryWrite m a [w]) s = .next t ∧ t.mem = s.mem ∧
      (List.range 32).all (fun n => !(mapsTile s (engOff a / 0x1000) n) || rdb t (rk .eng n 0x010) 10) = true := by
  have hcount : ∀ n, n < 32 → mapsTile (pmcAccess (masterNo m, none) true a false s) (engOff a / 0x1000) n =
      mapsTile s (engOff a / 0x1000) n := fun n hn => (SameMap.counted _ _ _ _ s).mapsTile hn _
  refine ⟨_, engineMemoryWrite_one w ha hf hd hm, ?_⟩
  rw [engWriteWord_mapped (by simpa using hst) (by rwa [tileType_counted])]
  · refine ⟨(mem_forEach_wref _ _).trans (pmcAccess_mem _ _ _ _ _), List.all_eq_true.mpr fun n hn => ?_⟩
    have hn' := List.mem_range.mp hn
    cases hmn : mapsTile s (engOff a / 0x1000) n with
    | false => rfl
    | true => exact rdb_forEach_wref hn' (.inl (List.mem_filter.mpr ⟨hn, (hcount n hn').trans hmn⟩))
  · obtain ⟨n, hn, hmn⟩ := List.any_eq_true.mp hmap
    exact List.any_eq_true.mpr ⟨n, hn, (hcount n (List.mem_range.mp hn)).trans hmn⟩

theorem engineMemoryWrite_held {n : Nat} (ht : tileType s (engOff a / 0x1000) = 3) (ho : engOff a % 0x1000 < 4 * 1022)
    (hown : stateOwner s (engOff a / 0x1000) = some n) (hh : laneHolds s n = true) :
    ∃ t, exec (.engineMemoryWrite m a [w]) s = .next t ∧ t.mem = s.mem ∧ t.eng.held = s.eng.held ++ [(n, a, w)] := by
  refine ⟨_, engineMemoryWrite_one w ha hf hd hm, ?_⟩
  rw [engWriteWord_held (by simpa using hst) ((tileType_counted m a s).trans ht) ho
    (((SameMap.counted _ _ _ _ s).stateOwner _).trans hown) ((laneHolds_counted m a s n).trans hh)]
  simp

theorem engineMemoryWrite_lands {n : Nat} (ht : tileType s (engOff a / 0x1000) = 3) (ho : engOff a % 0x1000 < 4 * 1022)
    (hown : stateOwner s (engOff a / 0x1000) = some n) (hh : laneHolds s n = false) :
    ∃ t, exec (.engineMemoryWrite m a [w]) s = .next t ∧ memWord t a = w ∧ t.eng.held = s.eng.held := by
  refine ⟨_, engineMemoryWrite_one w ha hf hd hm, ?_⟩
  rw [engWriteWord_lands (by simpa using hst) ((tileType_counted m a s).trans ht) ho
    (((SameMap.counted _ _ _ _ s).stateOwner _).trans hown) ((laneHolds_counted m a s n).trans hh)]
  have hmem := memWord_writeTileWord (engOff a / 0x1000) w (pmcAccess (masterNo m, none) true a false s)
    (w := engOff a % 0x1000 / 4) (by omega)
  rw [tileAddr_engOff ha] at hmem
  have heng : ∀ s, (writeTileWord (engOff a / 0x1000) (engOff a % 0x1000 / 4) w s).eng = s.eng :=
    Part.same_of_op (p := .eng) (m := 64) (by decide) fun h => writeTileWord_stays h _ _ _
  refine ⟨hmem, ?_⟩
  rw [busCycle_eng, heng, pmcAccess_eng]

end OneWord

/-! Types (R73) -/

/-- The type of tile `i` of the sixteen that TTYPEj holds. -/
theorem tileType_eq (s : State) (j : Nat) {i : Nat} (hi : i < 16) :
    tileType s (16 * j + i) = rdf s (engcKey (0x080 + 4 * j)) (2 * i) 2 := by
  rw [tileType, show (16 * j + i) / 16 = j by omega, show (16 * j + i) % 16 = i by omega]

/-- What a write of TTYPEj does to one of its tiles. -/
def typeStep (j : Nat) (v : Word) (i : Nat) (s : State) : State :=
  let t := 16 * j + i
  let new := fld v (2 * i) 2
  if tileType s t = new then s
  else if (List.range 32).any (mapsTile s t) then wrb (engcKey 0x04C) 0 true s
  else
    let s := wrf (engcKey (0x080 + 4 * j)) (2 * i) 2 new s
    if new = 3 then
      let s := memWrWord (tileAddr t 1022) (setFld (tileWord s t 1022) 0 16 (t + 0x300)) s
      memWrWord (tileAddr t 1023) (tileCrc s t) s
    else s

theorem writeTtype_eq (j : Nat) (v : Word) (s : State) :
    writeTtype j v s = releaseUnmapped (forEach (List.range 16) (typeStep j v) s) := rfl

section Types

variable {j : Nat} {v : Word} {s : State} {i : Nat} (hm : ∀ n, n < 32 → mapsTile s (16 * j + i) n = false)
include hm

/-- A tile that no bank maps takes its type; of the registers, TTYPEj alone is written, and no lane changes. -/
theorem typeStep_cases : (tileType s (16 * j + i) = fld v (2 * i) 2 ∧ typeStep j v i s = s) ∨
    ((typeStep j v i s).regs = (wrf (engcKey (0x080 + 4 * j)) (2 * i) 2 (fld v (2 * i) 2) s).regs ∧
      (typeStep j v i s).lanes = s.lanes ∧ (typeStep j v i s).eng = s.eng) := by
  by_cases ht : tileType s (16 * j + i) = fld v (2 * i) 2
  · exact .inl ⟨ht, if_pos ht⟩
  · refine .inr ?_
    have hany : (List.range 32).any (mapsTile s (16 * j + i)) = false :=
      List.any_eq_false.mpr fun n hn => by simp [hm n (List.mem_range.mp hn)]
    simp only [typeStep, ht, hany, if_false, Bool.false_eq_true]
    split <;> simp only [memWrWord_regs, memWrWord_lanes, memWrWord_eng, wrf_lanes, wrf_eng, and_self]

theorem sameMap_typeStep (hj : j < 16) : SameMap s (typeStep j v i s) := by
  rcases typeStep_cases (v := v) hm with ⟨-, h⟩ | ⟨hregs, hlanes, heng⟩
  · rw [h]
    exact .refl s
  · refine ⟨hlanes, congrArg _ heng, fun n hn b i hi => (rd_congr hregs _).trans (rd_wrf_ne _ _ _ _ ?_)⟩
    obtain ⟨off, -, ho, he⟩ := bankKey_eq n b hi
    rw [he]
    simp only [laneKey, engcKey, rk, pageFirst]
    omega

theorem tileType_typeStep (hi : i < 16) {i' : Nat} (hi' : i' < 16) :
    tileType (typeStep j v i s) (16 * j + i') = if i' = i then fld v (2 * i) 2 else tileType s (16 * j + i') := by
  rcases typeStep_cases (v := v) hm with ⟨ht, h⟩ | ⟨hregs, -⟩
  · rw [h]
    split
    next e => rw [e, ht]
    next => rfl
  · rw [tileType_eq _ j hi', tileType_eq _ j hi', rdf, rd_congr hregs]
    split
    next e =>
      subst e
      refine (rdf_wrf_same _ _ _ _ _ (by omega)).trans ?_
      rw [fld, Nat.mod_mod]
    next e => exact rdf_wrf_ne _ _ _ _ _ _ _ _ (by omega) (.inr (by omega))

end Types

/-- The types after tiles of a list have been written, none of which a bank maps. -/
theorem tileType_forEach_typeStep {j : Nat} (hj : j < 16) (v : Word) {i : Nat} (hi : i < 16) (l : List Nat) {s : State}
    (hl : ∀ e ∈ l, e < 16 ∧ ∀ n, n < 32 → mapsTile s (16 * j + e) n = false) :
    tileType (forEach l (typeStep j v) s) (16 * j + i) = if i ∈ l then fld v (2 * i) 2 else tileType s (16 * j + i) := by
  induction l generalizing s with
  | nil => rfl
  | cons e l ih =>
    obtain ⟨he, hme⟩ := hl e List.mem_cons_self
    have hsame := sameMap_typeStep (v := v) hme hj
    rw [forEach, ih fun x hx => ?rest, tileType_typeStep hme he hi]
    case rest =>
      obtain ⟨hx16, hxm⟩ := hl x (List.mem_cons_of_mem e hx)
      exact ⟨hx16, fun n hn => (hsame.mapsTile hn _).trans (hxm n hn)⟩
    by_cases hil : i ∈ l <;> by_cases hie : i = e <;> simp [hil, hie]

theorem tileTypeWrite_completes {m : Master} {j : Fin 16} {v : Word} {s : State} (h : reaches s m .engc 0x080 = true)
    (hm : (List.range 16).all (fun i => (List.range 32).all fun n => !(mapsTile s (16 * j + i) n)) = true) :
    ∃ t, exec (.tileTypeWrite m j v) s = .next t ∧
      (List.range 16).map (fun i => tileType t (16 * j + i)) = (List.range 16).map fun i => fld v (2 * i) 2 := by
  have hreach : reaches s m .engc (0x080 + 4 * j) = true := by
    rw [reaches, pageUp_off (by decide) s _ 0x080]
    exact h
  refine ⟨_, congrArg Host.Outcome.next (byBus_reaches hreach), List.map_congr_left fun i hi => ?_⟩
  have hl : ∀ e ∈ List.range 16, e < 16 ∧
      ∀ n, n < 32 → mapsTile (countedWrite m .engc 0 (0x080 + 4 * j) s) (16 * j + e) n = false := fun e he =>
    ⟨List.mem_range.mp he, fun n hn => ((SameMap.counted _ _ _ _ s).mapsTile hn _).trans <| by
      simpa using List.all_eq_true.mp (List.all_eq_true.mp hm e he) n (List.mem_range.mpr hn)⟩
  rw [writeTtype_eq, tileType, rdf, rd_busCycle, rd_releaseUnmapped]
  exact (tileType_forEach_typeStep j.isLt v (List.mem_range.mp hi) _ hl).trans (if_pos hi)

/-! The check of one tile (R107) -/

theorem rdb_wrf_ne (k lo n v b : Nat) (s : State) (hb : b < 32) (hd : b < lo ∨ lo + n ≤ b) : rdb (wrf k lo n v s) k b = rdb s k b := by
  rw [rdb, wrf, rd_wr_same, bit_setFld_ne _ _ _ _ _ hb hd, rdb]

/-- GO starts a check where none runs: BUSY, the tile, and 32 cycles from now or from the end of the verifier's other work. -/
theorem writeVerify_go {v : Word} {s : State} (hb : rdb s (engcKey 0x050) 9 = false) (hv : bit v 8 = true) :
    (writeVerify v s).regs =
        (wrf (engcKey 0x050) 10 2 0 (wrb (engcKey 0x050) 9 true (wrf (engcKey 0x050) 0 8 (fld v 0 8) s))).regs ∧
      s.now + 32 * fabCyc ≤ (writeVerify v s).eng.tileEnd := by
  simp only [writeVerify, hb, hv, Bool.not_true, Bool.false_eq_true, if_false]
  exact ⟨trivial, Nat.add_le_add_right (le_max_left _ _) _⟩

theorem tileVerify_completes {m : Master} {tile : Byte} {s : State} (h : reaches s m .engc 0x050 = true)
    (hb : rdb s (engcKey 0x050) 9 = false) :
    ∃ t, exec (.tileVerify m tile) s = .next t ∧ rdb t (engcKey 0x050) 9 = true ∧ rdf t (engcKey 0x050) 0 8 = tile.toNat ∧
      s.now + 32 * fabCyc ≤ t.eng.tileEnd := by
  have hgo : ∀ tile : Byte, bit (wNat (tile.toNat + 256)) 8 = true ∧ fld (wNat (tile.toNat + 256)) 0 8 = tile.toNat := by
    decide +kernel
  have hb' : rdb (countedWrite m .engc 0 0x050 s) (engcKey 0x050) 9 = false := by
    rw [rdb, countedWrite, rd_pmcAccess (engcKey_engineKey (by decide)).not_countKey]
    exact hb
  obtain ⟨hregs, hend⟩ := writeVerify_go hb' (hgo tile).1
  refine ⟨_, congrArg Host.Outcome.next (byBus_reaches h), ?busy, ?tile, ?due⟩
  case busy =>
    rw [rdb, rd_busCycle, rd_congr hregs, ← rdb, rdb_wrf_ne _ _ _ _ _ _ (by decide) (by decide)]
    exact rdb_wrb_same _ _ _ _ (by decide)
  case tile =>
    rw [rdf, rd_busCycle, rd_congr hregs, ← rdf, rdf_wrf_ne _ _ _ _ _ _ _ _ (by decide) (by decide), wrb,
      rdf_wrf_ne _ _ _ _ _ _ _ _ (by decide) (by decide), rdf_wrf_same _ _ _ _ _ (by decide), (hgo tile).2]
    exact Nat.mod_eq_of_lt tile.isLt
  case due =>
    rw [countedWrite, pmcAccess_now] at hend
    exact hend

theorem tileVerifyDone_completes {s : State} (hl : live s .eng = true) (hb : rdb s (engcKey 0x050) 9 = true) :
    ∃ t, exec .tileVerifyDone s = .next t ∧ rdb t (engcKey 0x050) 9 = false ∧
      rdb t (engcKey 0x050) 10 = tilePasses s (rdf s (engcKey 0x050) 0 8) ∧
      rd t (engcKey 0x054) = tileCrc s (rdf s (engcKey 0x050) 0 8) ∧ s.eng.tileEnd ≤ t.now := by
  have hne : engcKey 0x050 ≠ engcKey 0x054 := by simp [engcKey, rk]
  refine ⟨_, rfl, ?_⟩
  rw [if_neg (by simp [hl, hb])]
  dsimp only
  rw [tilePasses_congr (upto_mem _ s) (upto_regs _ s), tileCrc_congr (upto_mem _ s)]
  refine ⟨?busy, ?pass, rd_wr_same _ _ _, le_upto_now _ _⟩
  case busy =>
    rw [rdb, rd_wr_ne _ _ hne]
    exact rdb_wrb_same _ _ _ _ (by decide)
  case pass =>
    rw [rdb, rd_wr_ne _ _ hne]
    exact (rdb_wrb_ne _ _ _ _ _ _ (by decide) (.inr (by decide))).trans (rdb_wrb_same _ _ _ _ (by decide))

/-! Held writes (R75) -/

/-- The state with no write held. -/
def noneHeld (s : State) : State := { s with eng := { s.eng with held := [] } }

/-- A held word as its tile takes it, none being held any more. -/
def landHeld (a : Nat) (w : Word) (s : State) : State :=
  writeTileWord (engOff a / 0x1000) (engOff a % 0x1000 / 4) w (noneHeld s)

theorem landHeld_eng (a : Nat) (w : Word) (s : State) : (landHeld a w s).eng = { s.eng with held := [] } :=
  Part.same_of_op (p := .eng) (m := 64) (by decide) (fun h => writeTileWord_stays h _ _ _) (noneHeld s)

theorem memWord_landHeld {a : Nat} (w : Word) (s : State) (ha : engAccess a 1 = true) (ho : engOff a % 0x1000 < 4 * 1022) :
    memWord (landHeld a w s) a = w := by
  have h := memWord_writeTileWord (w := engOff a % 0x1000 / 4) (engOff a / 0x1000) w (noneHeld s) (by omega)
  rwa [tileAddr_engOff ha] at h

theorem releaseHeld_none {s : State} (h : s.eng.held = []) (n k : Nat) : releaseHeld n k s = s := by
  cases k <;> simp [releaseHeld, h]

/-- With time for one write, the only one held lands. -/
theorem releaseHeld_one {s : State} {n a : Nat} {w : Word} (h : s.eng.held = [(n, a, w)]) {k : Nat} (hk : 0 < k) :
    releaseHeld n k s = landHeld a w s := by
  obtain ⟨k, rfl⟩ := Nat.exists_eq_add_of_lt hk
  rw [Nat.zero_add, releaseHeld]
  simp only [h, List.find?_cons, decide_true, List.erase_cons_head]
  exact releaseHeld_none (s := landHeld a w s) (congrArg (·.held) (landHeld_eng a w s)) _ _

/-- What the release of unmapped tiles does for one lane. -/
def unmapStep (n : Nat) (s : State) : State :=
  if (lane s n).pass.isSome || (lane s n).drain.isSome then s
  else
    let gone := s.eng.held.filter fun h =>
      decide (h.1 = n) && !(laneOn s n && (stateTiles s n (lane s n).active).contains (engOff h.2.1 / 0x1000))
    if gone.isEmpty then s else releaseHeld n s.eng.held.length s

theorem releaseUnmapped_eq (s : State) : releaseUnmapped s = forEach (List.range 32) unmapStep s := rfl

/-- A lane none of whose writes is held has none to release. -/
theorem unmapStep_none {s : State} {n : Nat} (h : ∀ e ∈ s.eng.held, e.1 ≠ n) : unmapStep n s = s := by
  have hgone : ∀ f : Nat × Nat × Word → Bool, (s.eng.held.filter fun e => decide (e.1 = n) && f e) = [] := fun f =>
    List.filter_eq_nil_iff.mpr fun e he => by simp [h e he]
  unfold unmapStep
  split
  · rfl
  · simp only [hgone, List.isEmpty_nil, if_true]

theorem forEach_unmapStep_none {s : State} (h : s.eng.held = []) (l : List Nat) : forEach l unmapStep s = s := by
  induction l with
  | nil => rfl
  | cons n l ih => rw [forEach, unmapStep_none (by simp [h]), ih]

theorem releaseUnmapped_none {s : State} (h : s.eng.held = []) : releaseUnmapped s = s :=
  (releaseUnmapped_eq s).trans (forEach_unmapStep_none h _)

/-- The only write held lands where its lane is disabled and runs no pass and drains nothing (R75). -/
theorem releaseUnmapped_one {s : State} {n a : Nat} {w : Word} (hn : n < 32) (h : s.eng.held = [(n, a, w)])
    (hp : (lane s n).pass = none) (hd : (lane s n).drain = none) (hoff : laneOn s n = false) :
    releaseUnmapped s = landHeld a w s := by
  have hstep : unmapStep n s = landHeld a w s := by
    simp only [unmapStep, hp, hd, hoff, h, List.filter_cons, List.filter_nil, decide_true, Bool.false_and, Bool.not_false,
      Bool.and_self, if_true, List.isEmpty_cons, Option.isSome_none, Bool.or_self, Bool.false_eq_true, if_false]
    exact releaseHeld_one h (Nat.zero_lt_one)
  have hlist : ∀ l : List Nat, n ∈ l → forEach l unmapStep s = landHeld a w s := fun l => by
    induction l with
    | nil => exact fun hm => absurd hm List.not_mem_nil
    | cons m l ih =>
      intro hm
      rw [forEach]
      by_cases he : n = m
      · rw [← he, hstep]
        exact forEach_unmapStep_none (congrArg (·.held) (landHeld_eng a w s)) l
      · rw [unmapStep_none (by simp [h, he])]
        exact ih ((List.mem_cons.mp hm).resolve_left he)
  exact (releaseUnmapped_eq s).trans (hlist _ (List.mem_range.mpr hn))

/-- What a drain does with held writes at its end: the only one held lands where its lane is disabled, or where a cycle is left
before the next pass. -/
theorem drainRelease_lands {s : State} {n a next : Nat} {w : Word} (hn : n < 32) (h : s.eng.held = [(n, a, w)])
    (hp : (lane s n).pass = none) (hd : (lane s n).drain = none) (hroom : laneOn s n = false ∨ s.now + fabCyc ≤ next) :
    (if !(laneOn s n) then releaseUnmapped s else releaseUnmapped (releaseHeld n ((next - s.now) / fabCyc) s)) =
      landHeld a w s := by
  cases hon : laneOn s n with
  | false => exact releaseUnmapped_one hn h hp hd hon
  | true =>
    have hnext : s.now + fabCyc ≤ next := hroom.resolve_left (by simp [hon])
    have htime : 0 < (next - s.now) / fabCyc := Nat.div_pos (by omega) (by decide)
    rw [releaseHeld_one h htime]
    exact releaseUnmapped_none (congrArg (·.held) (landHeld_eng a w s))

/-- The events of a drain write EVT of their lane, and causes: of that, the release of held writes sees nothing. -/
theorem drainEvents_frame (n : Fin 32) (l : List Nat) (s : State) :
    ∃ u, forEach l (fun c s => raise .eng n 11 (wr (laneKey n 0x0BC) (wNat c) s)) s = u ∧ u.lanes = s.lanes ∧ u.eng = s.eng ∧
      u.now = s.now ∧ (∀ d, nextTick u d = nextTick s d) ∧ laneDom u n = laneDom s n := by
  induction l generalizing s with
  | nil => exact ⟨s, rfl, rfl, rfl, rfl, fun _ => rfl, rfl⟩
  | cons c l ih =>
    obtain ⟨u, he, hlanes, heng, hnow, hnext, hdom⟩ := ih (raise .eng n 11 (wr (laneKey n 0x0BC) (wNat c) s))
    have hcdom : laneDom (raise .eng n 11 (wr (laneKey n 0x0BC) (wNat c) s)) n = laneDom s n :=
      congrArg (fld · 4 5) ((rd_raise _ (by simp [laneKey, rk]) (laneKey_engineKey n (by decide)).not_mergeKey).trans
        (rd_wr_ne _ _ (by simp [laneKey, rk])))
    obtain ⟨x, y, hr⟩ := raise_eq .eng n 11 (wr (laneKey n 0x0BC) (wNat c) s)
    refine ⟨u, he, ?_, ?_, ?_, fun d => ?_, hdom.trans hcdom⟩
    · rw [hlanes, hr]
      rfl
    · rw [heng, hr]
      rfl
    · rw [hnow, hr]
      rfl
    · rw [hnext, hr]
      rfl

theorem drainComplete_lands {n : Fin 32} {r : Drain} {a : Nat} {w : Word} {s : State} (hl : live s .eng = true)
    (hr : (lane s n).drain = some r) (hsts : r.sts = []) (hlate : r.late = []) (hp : (lane s n).pass = none)
    (hheld : s.eng.held = [(n.val, a, w)]) (ha : engAccess a 1 = true) (ho : engOff a % 0x1000 < 4 * 1022)
    (hroom : laneOn s n = false ∨ max s.now r.endAt + fabCyc ≤ nextTick s (laneDom s n) + 1200) :
    ∃ t, exec (.drainComplete n) s = .next t ∧ memWord t a = w ∧ t.eng.held = [] := by
  obtain ⟨u, hu, hlanes, heng, hnow, hnext, hdom⟩ :=
    drainEvents_frame n r.evts (onLane n (fun x => { x with drain := none }) (upto r.endAt s))
  have hlane : lane u n = { lane s n with drain := none } :=
    (lane_congr hlanes n).trans (lane_onLane_same n (fun x => { x with drain := none }) (upto r.endAt s))
  have hon : laneOn u n = laneOn s n := by simp only [laneOn, hlane]
  have hroom' : laneOn u n = false ∨ u.now + fabCyc ≤ nextTick u (laneDom u n) + 1200 := by
    rw [hon, hnow, hnext, hdom]
    exact hroom
  have hrun : drainNow n (upto r.endAt s) = landHeld a w u := by
    simp only [drainNow, lane_upto, hr, hsts, hlate, forEach, hu]
    exact drainRelease_lands n.isLt (heng ▸ hheld) (by rw [hlane, hp]) (by rw [hlane]) hroom'
  refine ⟨landHeld a w u, ?_, memWord_landHeld w u ha ho, by rw [landHeld_eng]⟩
  rw [← hrun]
  refine congrArg Host.Outcome.next ?_
  simp only [hr, hl, if_true]

/-- Settles O6: each clause is the lemma of its command. -/
theorem tilesComplete : Obligations.TilesComplete := by
  unfold Obligations.TilesComplete
  exact ⟨fun _ _ _ _ => tileTypeWrite_completes,
    fun _ _ _ _ ha hf hd hm hst => engineMemoryWrite_free ha hf hd hm hst,
    fun _ _ _ _ ha hf hd hm hst => engineMemoryWrite_mapped ha hf hd hm hst,
    fun _ _ _ _ _ ha hf hd hm hst => engineMemoryWrite_held ha hf hd hm hst,
    fun _ _ _ _ _ ha hf hd hm hst => engineMemoryWrite_lands ha hf hd hm hst,
    fun _ _ _ _ _ hl hr hsts hlate hp hheld ha ho hroom => drainComplete_lands hl hr hsts hlate hp hheld ha ho hroom,
    fun _ _ _ => tileVerify_completes, fun _ => tileVerifyDone_completes⟩

end Sys2Proof.Machine
end

section
/-! Soundings: a generator starts and stops, and the ports of the capture memory and of the accumulators are read (R122 to R125,
R128). -/

namespace Sys2Proof.Machine

/-! The generators and their registers -/

@[simp] theorem gen_setGen_same (g : Nat) (x : Gen) (s : State) : gen (setGen g x s) g = x := smGet_smSet_same _ _ _ _
@[simp] theorem gen_onGen_same (g : Nat) (f : Gen → Gen) (s : State) : gen (onGen g f s) g = f (gen s g) := gen_setGen_same _ _ _
@[simp] theorem gen_busCycle (s : State) (g : Nat) : gen (busCycle s) g = gen s g := rfl
@[simp] theorem gen_raise (t : PageType) (p k : Nat) (s : State) (g : Nat) : gen (raise t p k s) g = gen s g := by simp [gen]
@[simp] theorem gen_pmcAccess (m : Doer) (store : Bool) (a : Nat) (page : Bool) (s : State) (g : Nat) :
    gen (pmcAccess m store a page s) g = gen s g := by simp [gen]

theorem sndKey_engineKey {off : Nat} (ho : off < 0x1000) : engineKey (rk .snd 0 off) := by
  simp only [engineKey, rk, pageFirst]
  omega

theorem genKey_engineKey (g : Fin 8) {off : Nat} (ho : off < 0x40) : engineKey (genKey g off) := sndKey_engineKey (by omega)

theorem genKey_ne (g : Nat) {a b : Nat} (h : a ≠ b) : genKey g a ≠ genKey g b := by
  simp only [genKey, ne_eq, rk_inj]
  omega

theorem genKey_ne_raw (g off : Nat) : genKey g off ≠ rk .snd 0 0x010 := by
  simp only [genKey, ne_eq, rk_inj]
  omega

/-- Counting an access writes no register of the engine's pages. -/
theorem rd_pmcAccess_engineKey {k : Nat} (hk : engineKey k) (m : Doer) (store : Bool) (a : Nat) (page : Bool) (s : State) :
    rd (pmcAccess m store a page s) k = rd s k :=
  rd_pmcAccess hk.not_countKey _ _ _ _

/-! What a start looks at -/

/-- A start is judged by the generator's configuration and by whether Datum is valid (R124). -/
theorem startRefused_congr {s t : State} {g : Nat} (hd : t.datum = s.datum)
    (hr : ∀ off, off < 0x40 → rd t (genKey g off) = rd s (genKey g off)) : startRefused t g = startRefused s g := by
  have hvalid : datumValid t = datumValid s := congrArg Datum.valid hd
  have hlen : ∀ lo n, rdf t (genKey g 0x14) lo n = rdf s (genKey g 0x14) lo n := fun lo n =>
    congrArg (fld · lo n) (hr 0x14 (by decide))
  unfold startRefused
  rw [hvalid, hlen, hlen, hr 0 (by decide), hr 0x04 (by decide), hr 0x08 (by decide), hr 0x10 (by decide), hr 0x1C (by decide)]

section Counted

variable (m : Doer) (store : Bool) (a : Nat) (page : Bool) (s : State) (g : Fin 8)

theorem genBusy_pmcAccess : genBusy (pmcAccess m store a page s) g = genBusy s g := by
  have hst : genState (pmcAccess m store a page s) g = genState s g :=
    congrArg (fld · 0 3) (rd_pmcAccess_engineKey (genKey_engineKey g (by decide)) _ _ _ _ _)
  simp only [genBusy, hst]

theorem startRefused_pmcAccess : startRefused (pmcAccess m store a page s) g = startRefused s g :=
  startRefused_congr (pmcAccess_datum _ _ _ _ _) fun _ ho => rd_pmcAccess_engineKey (genKey_engineKey g ho) _ _ _ _ _

end Counted

/-! Start and stop (R122 to R124) -/

/-- A start that no rule refuses: the counts cleared, the generator waiting and set up anew, with CLAMP where the amplitude is
limited (R123, R124). -/
theorem startGen_accepted {g : Nat} {s : State} (hb : genBusy s g = false) (hr : startRefused s g = false) :
    ∃ x clamp, startGen g s = onlyIf clamp (genFlag g 11)
      (setGen g x (wr (genKey g 0x24) 1 (wr (genKey g 0x28) 0 (wr (genKey g 0x2C) 0 s)))) := by
  unfold startGen
  rw [if_neg (by simp [hb]), if_neg (by simp [hr])]
  exact ⟨_, _, rfl⟩

theorem genState_onlyIf_genFlag {g b : Nat} (hb : 3 ≤ b) (c : Bool) (s : State) :
    genState (onlyIf c (genFlag g b) s) g = genState s g := by
  cases c
  · rfl
  · exact rdf_wrf_ne _ _ _ _ _ _ _ _ (by decide) (.inr (.inr hb))

theorem rd_onlyIf_genFlag_ne {g b k : Nat} (hk : k ≠ genKey g 0x24) (c : Bool) (s : State) :
    rd (onlyIf c (genFlag g b) s) k = rd s k := by
  cases c
  · rfl
  · exact rd_wrb_ne _ _ _ hk

theorem startGen_waits {g : Nat} {s : State} (hb : genBusy s g = false) (hr : startRefused s g = false) :
    genState (startGen g s) g = 1 ∧ rd (startGen g s) (genKey g 0x28) = 0 ∧ rd (startGen g s) (genKey g 0x2C) = 0 := by
  obtain ⟨x, clamp, h⟩ := startGen_accepted hb hr
  have h28 : genKey g 0x28 ≠ genKey g 0x24 := genKey_ne g (by decide)
  have h2C : genKey g 0x2C ≠ genKey g 0x24 := genKey_ne g (by decide)
  have h2C28 : genKey g 0x2C ≠ genKey g 0x28 := genKey_ne g (by decide)
  rw [h, genState_onlyIf_genFlag (by decide), rd_onlyIf_genFlag_ne h28, rd_onlyIf_genFlag_ne h2C]
  refine ⟨?_, ?_, ?_⟩
  · rw [genState, rdf, rd_setGen, rd_wr_same]
    rfl
  · rw [rd_setGen, rd_wr_ne _ _ h28, rd_wr_same]
  · rw [rd_setGen, rd_wr_ne _ _ h2C, rd_wr_ne _ _ h2C28, rd_wr_same]

/-- The abort of a generator that waits, settles or measures (R124). -/
theorem abortGen_busy {g : Nat} {s : State} (hb : genBusy s g = true) :
    abortGen g s = raise .snd 0 (8 + g)
      (onGen g (fun x => { x with due := none, x := 0, sin := 0, cos := 0 }) (setGenState g 5 s)) := by
  simp [abortGen, hb]

theorem abortGen_aborts {g : Fin 8} {s : State} (hb : genBusy s g = true) :
    genState (abortGen g s) g = 5 ∧ (gen (abortGen g s) g).x = 0 ∧ rdb (abortGen g s) (rk .snd 0 0x010) (8 + g) = true := by
  rw [abortGen_busy hb]
  refine ⟨?_, ?_, rdb_raise _ _ _ _ (by omega) (by decide)⟩
  · rw [genState, rdf, rd_raise _ (genKey_ne_raw _ _) (genKey_engineKey g (by decide)).not_mergeKey]
    exact rdf_wrf_same _ _ _ _ _ (by decide)
  · rw [gen_raise, gen_onGen_same]

/-- A write of GCTL is carried out unless the islanding function holds generator 7 (R122). -/
theorem writeSnd_gctl (m : Master) {g : Fin 8} (v : Word) {s : State} (howns : g = 7 → rdb s (rk .snd 0 0x00C) 16 = false) :
    writeSnd m (0x120 + 0x40 * g) v s = writeGctl g v s := by
  have hg : (0x120 + 0x40 * g.val - 0x100) / 0x40 = g := by omega
  have ho : (0x120 + 0x40 * g.val - 0x100) % 0x40 = 0x20 := by omega
  have hrange : (decide (0x100 ≤ 0x120 + 0x40 * g.val) && decide (0x120 + 0x40 * g.val < 0x300)) = true := by
    simp only [Bool.and_eq_true, decide_eq_true_eq]
    omega
  have hfree : (decide (g.val = 7) && rdb s (rk .snd 0 0x00C) 16) = false := by
    by_cases h7 : g.val = 7
    · simp [howns (Fin.ext h7)]
    · simp [h7]
  simp only [writeSnd, hrange, hg, ho, hfree, if_true, Bool.false_eq_true, if_false]

theorem writeGctl_start (g : Nat) (s : State) : writeGctl g 1 s = startGen g s := by
  simp [writeGctl, bit]

theorem writeGctl_stop (g : Nat) (s : State) : writeGctl g 2 s = abortGen g s := by
  simp [writeGctl, bit]

section Gctl

variable {m : Master} {g : Fin 8} {s : State}

/-- A write of GCTL that reaches the page has its effect in the state with the write counted. -/
theorem gctl_reaches (v : Word) (h : reaches s m .snd 0x120 = true) (howns : g = 7 → rdb s (rk .snd 0 0x00C) 16 = false) :
    byBus m .snd 0 (0x120 + 0x40 * g) (fun s => writeSnd m (0x120 + 0x40 * g) v s) s =
      busCycle (writeGctl g v (countedWrite m .snd 0 (0x120 + 0x40 * g) s)) := by
  have hreach : reaches s m .snd (0x120 + 0x40 * g) = true := by
    rw [reaches, pageUp_off (by decide) s _ 0x120]
    exact h
  rw [byBus_reaches hreach, writeSnd_gctl]
  intro h7
  rw [rdb, countedWrite, rd_pmcAccess_engineKey (sndKey_engineKey (by decide))]
  exact howns h7

theorem generatorStart_completes (h : reaches s m .snd 0x120 = true) (hb : genBusy s g = false)
    (hr : startRefused s g = false) (howns : g = 7 → rdb s (rk .snd 0 0x00C) 16 = false) :
    ∃ t, exec (.generatorStart m g) s = .next t ∧ genState t g = 1 ∧ rd t (genKey g 0x28) = 0 ∧ rd t (genKey g 0x2C) = 0 := by
  refine ⟨_, congrArg Host.Outcome.next (gctl_reaches 1 h howns), ?_⟩
  rw [writeGctl_start]
  exact startGen_waits ((genBusy_pmcAccess _ _ _ _ _ _).trans hb) ((startRefused_pmcAccess _ _ _ _ _ _).trans hr)

theorem generatorStop_completes (h : reaches s m .snd 0x120 = true) (hb : genBusy s g = true)
    (howns : g = 7 → rdb s (rk .snd 0 0x00C) 16 = false) :
    ∃ t, exec (.generatorStop m g) s = .next t ∧ genState t g = 5 ∧ (gen t g).x = 0 ∧
      rdb t (rk .snd 0 0x010) (8 + g) = true := by
  refine ⟨_, congrArg Host.Outcome.next (gctl_reaches 2 h howns), ?_⟩
  rw [writeGctl_stop]
  exact abortGen_aborts ((genBusy_pmcAccess _ _ _ _ _ _).trans hb)

end Gctl

/-! Ports (R128) -/

theorem capDataRead_completes (m : Master) {s : State} (h : pageUp s .snd 0x044 = true) :
    ∃ t, exec (.capDataRead m) s = .next t ∧ t.bus.rdata = smGet (smConst 0) s.capMem (rdf s (rk .snd 0 0x040) 0 14) ∧
      t.bus.err = false ∧ rdf t (rk .snd 0 0x040) 0 14 = (rdf s (rk .snd 0 0x040) 0 14 + 1) % 16384 := by
  have haddr : rdf (countedRead m .snd 0 0x044 s) (rk .snd 0 0x040) 0 14 = rdf s (rk .snd 0 0x040) 0 14 :=
    congrArg (fld · 0 14) (rd_pmcAccess_engineKey (sndKey_engineKey (by decide)) _ _ _ _ _)
  refine ⟨_, congrArg Host.Outcome.next (readAt_up h), ?_, rfl, ?_⟩
  · rw [respond_bus, haddr, countedRead, pmcAccess_capMem]
  · rw [rdf, rd_respond, ← rdf, haddr]
    exact rdf_wrf_same _ _ _ _ _ (by decide)

theorem iaccLoRead_completes (m : Master) (g j : Fin 8) {s : State} (h : pageUp s .snd 0x400 = true) :
    ∃ t, exec (.iaccLoRead m g j) s = .next t ∧ t.bus.err = false ∧
      t.bus.rdata = wNat (smGet (smConst 0) (gen s g).acc j).toNat ∧
      rd t (rk .snd 0 (0x404 + 0x40 * g + 8 * j)) = wNat ((smGet (smConst 0) (gen s g).acc j).toNat / 2 ^ 32) := by
  have hup : pageUp s .snd (0x400 + 0x40 * g + 8 * j) = true := (pageUp_off (by decide) s _ _).trans h
  have hhigh : rk .snd 0 (0x404 + 0x40 * g + 8 * j) = rk .snd 0 (0x400 + 0x40 * g + 8 * j) + 4 := by
    simp only [rk]
    omega
  refine ⟨_, congrArg Host.Outcome.next (readAt_up hup), rfl, ?_, ?_⟩
  · rw [respond_bus, countedRead, gen_pmcAccess]
  · rw [hhigh, rd_respond, rd_wr_same, countedRead, gen_pmcAccess]

/-- Settles O7: each clause is the lemma of its command. -/
theorem soundingsComplete : Obligations.SoundingsComplete := by
  unfold Obligations.SoundingsComplete
  exact ⟨fun _ _ _ => generatorStart_completes, fun _ _ _ => generatorStop_completes,
    fun m _ => capDataRead_completes m, fun m g j _ => iaccLoRead_completes m g j⟩

end Sys2Proof.Machine
end

section
/-! The legs, the commit domains and the groups through each update, and the registers of the PWM pages among the others. -/

namespace Sys2Proof.Machine

/-! Legs and domains -/

theorem leg_congr {s t : State} (h : t.legs = s.legs) (l : Nat) : leg t l = leg s l := congrArg (smGet leg0 · l) h

theorem dom_congr {s t : State} (h : t.doms = s.doms) (d : Nat) : dom t d = dom s d := congrArg (smGet dom0 · d) h

theorem grp_congr {s t : State} (h : t.grps = s.grps) (k : Nat) : grp t k = grp s k := congrArg (smGet grp0 · k) h

@[simp] theorem leg_setLeg_same (l : Nat) (x : Leg) (s : State) : leg (setLeg l x s) l = x := smGet_smSet_same _ _ _ _

@[simp] theorem leg_onLeg_same (l : Nat) (f : Leg → Leg) (s : State) : leg (onLeg l f s) l = f (leg s l) := leg_setLeg_same _ _ _

@[simp] theorem dom_setDom_same (d : Nat) (x : Dom) (s : State) : dom (setDom d x s) d = x := smGet_smSet_same _ _ _ _

theorem grp_setGrp_ne {k j : Nat} (x : Grp) (s : State) (h : j ≠ k) : grp (setGrp k x s) j = grp s j := smGet_smSet_ne _ _ _ h

theorem grpKey_inj {t : PageType} {n i j : Nat} : grpKey t n i = grpKey t n j ↔ i = j := by simp [grpKey]

/-! Registers of the PWM pages -/

/-- A register of the pages of the PWM groups. -/
def pwmgKey (k : Nat) : Prop := 0x100000 ≤ k ∧ k < 0x200000

theorem legKey_pwmgKey {l off : Nat} (hl : l < 96) (ho : off < 0x40) : pwmgKey (legKey l off) := by
  simp only [pwmgKey, legKey, rk, pageFirst]
  omega

theorem domKey_pwmgKey {d off : Nat} (hd : d < 32) (ho : off < 0x100) : pwmgKey (domKey d off) := by
  simp only [pwmgKey, domKey, rk, pageFirst]
  omega

theorem pwmgKey.not_countKey {k : Nat} (h : pwmgKey k) : ¬ countKey k := by
  simp only [pwmgKey, countKey, mergeKey, pmcKey, rk, pageFirst] at h ⊢
  omega

theorem legKey_ne_legKey (l j : Nat) {a b : Nat} (ha : a < 0x40) (hb : b < 0x40) (h : a ≠ b) : legKey l a ≠ legKey j b := by
  simp only [legKey, rk, pageFirst, ne_eq]
  omega

theorem legKey_ne_domKey (l d : Nat) {a b : Nat} (ha : a < 0x40) (hb : b < 0x80) : legKey l a ≠ domKey d b := by
  simp only [legKey, domKey, rk, pageFirst, ne_eq]
  omega

theorem domKey_inj {d a b : Nat} : domKey d a = domKey d b ↔ a = b := by simp [domKey, rk_inj]

/-- Counting an access writes no register of the PWM pages. -/
theorem rd_countedWrite_pwmg {k : Nat} (hk : pwmgKey k) (m : Master) (n off : Nat) (s : State) :
    rd (countedWrite m .pwmg n off s) k = rd s k :=
  rd_pmcAccess hk.not_countKey _ _ _ _

/-- Nor does the islanding function as it follows Datum and the lock: it raises causes of its own page (R246). -/
theorem rd_islRefresh {k : Nat} (hk : pwmgKey k) (s : State) : rd (islRefresh s) k = rd s k := by
  have hisl : k ≠ rk .isl 0 0x010 := by
    simp only [pwmgKey, rk, pageFirst] at hk ⊢
    omega
  have hraise : ∀ c s, rd (raiseIsl c s) k = rd s k := fun c s => rd_raise s hisl fun h => hk.not_countKey (.inl h)
  have hhold : ∀ s, rd (islHold s) k = rd s k := fun s => hraise _ _
  unfold islRefresh
  extract_lets ok s1
  have h1 : rd s1 k = rd s k := by unfold s1; split <;> rfl
  split
  · split
    · exact h1
    · exact (hhold s1).trans h1
  · split
    · exact h1
    · exact (hhold s1).trans h1
  · split
    · exact h1
    · exact (hraise _ _).trans h1
  · exact h1

theorem islRefresh_legs (s : State) : (islRefresh s).legs = s.legs :=
  Part.same_of_op (p := .legs) (m := 549756338184) (by decide) (fun h => islRefresh_stays h) s

theorem islRefresh_doms (s : State) : (islRefresh s).doms = s.doms :=
  Part.same_of_op (p := .doms) (m := 549756338184) (by decide) (fun h => islRefresh_stays h) s

/-- All offsets of a PWM page are reached alike. -/
theorem byBus_pwmg {m : Master} {s : State} {o : Nat} (h : reaches s m .pwmg o = true) (n off : Nat) (f : State → State) :
    byBus m .pwmg n off f s = busCycle (f (countedWrite m .pwmg n off s)) := by
  refine byBus_reaches ?_
  rw [reaches, pageUp_off (by decide) s _ o]
  exact h

section Counted

variable (m : Master) (n off : Nat) (s : State)

theorem dom_countedWrite (d : Nat) : dom (countedWrite m .pwmg n off s) d = dom s d := dom_congr (pmcAccess_doms _ _ _ _ s) d

theorem grp_countedWrite (k : Nat) : grp (countedWrite m .pwmg n off s) k = grp s k := grp_congr (pmcAccess_grps _ _ _ _ s) k

theorem datum_countedWrite : (countedWrite m .pwmg n off s).datum = s.datum := pmcAccess_datum _ _ _ _ s

end Counted

end Sys2Proof.Machine
end

section
/-! Legs: domain moves, edges, calibration, the lock to Datum and Datum-aligned arms (R132, R136, R138, R145, R146, R148, R152,
R153). -/

namespace Sys2Proof.Machine

/-! A leg moves to another domain (R132) -/

/-- The leg as its new CFG leaves it: it waits to join the domain named there. -/
def legMoved (l : Nat) (v : Word) (s : State) : State :=
  onLeg l (fun g => { g with wait := true }) (wr (legKey l 0) (v &&& 0x7FFF) s)

/-- What a domain does that a leg has left, `was` the pacer it had: a new pacer inherits the period, and an empty domain loses its
boundaries. -/
def domLeft (d : Nat) (was : Option Nat) (s : State) : State :=
  let s := if pacer s d = was then s else inheritPer d s
  if domHolds s d then s else loseBoundaries d s

/-- What a domain does that is given a leg: its boundaries start unless they run. -/
def domJoined (d : Nat) (s : State) : State := if (dom s d).running then s else startDomain d s

theorem fld_and_cfg (v : Word) : fld (v &&& 0x7FFF) 0 5 = fld v 0 5 := by
  refine Nat.eq_of_testBit_eq fun i => ?_
  rw [fld_testBit, fld_testBit]
  by_cases hi : i < 5
  · have hmask : bit 0x7FFF#32 (0 + i) = true := by
      revert i
      decide
    rw [show bit (v &&& 0x7FFF) (0 + i) = (bit v (0 + i) && bit 0x7FFF#32 (0 + i)) from BitVec.getLsbD_and, hmask, Bool.and_true]
  · simp [hi]

/-- A write of LEG_CFG that names another domain, of a leg that is off and whose group is not open. -/
theorem writeLegCfg_moves {l : Nat} {v : Word} {s : State} (ho : outMode s l = 0)
    (hg : (grp s (grpKey .pwmg (l / 8) (l % 8))).openAt = none) (hd : fld v 0 5 < 24) (hne : fld v 0 5 ≠ legDom s l)
    (ha : fld v 5 2 ≠ 3) :
    writeLegCfg l v s = domJoined (fld v 0 5) (domLeft (legDom s l) (pacer s (legDom s l)) (legMoved l v s)) := by
  have hne' : fld (rd s (legKey l 0)) 0 5 ≠ fld v 0 5 := fun h => hne h.symm
  unfold writeLegCfg
  simp only [if_neg (Nat.not_le.mpr hd), if_neg ha, fld_and_cfg, if_neg hne', ho, hg, ne_eq, not_true_eq_false, decide_false,
    Option.isSome_none, Bool.or_self, Bool.false_eq_true, if_false]
  rfl

theorem domJoined_running (d : Nat) (s : State) : (dom (domJoined d s) d).running = true := by
  unfold domJoined
  split
  next h => exact h
  next => exact congrArg Dom.running (dom_setDom_same d _ _)

theorem domJoined_legs (d : Nat) (s : State) : (domJoined d s).legs = s.legs :=
  Part.same_of_op (p := .legs) (f := domJoined d) (m := 2097160) (by decide)
    (fun h hF => .ite hF (startDomain_stays h d hF)) s

theorem domLeft_legs (d : Nat) (was : Option Nat) (s : State) : (domLeft d was s).legs = s.legs := by
  refine Part.same_of_op (p := .legs) (f := domLeft d was) (m := 6291480) (by decide) (fun h hF => ?_) s
  unfold domLeft
  extract_lets s1
  have h1 : Stays _ _ s1 := .ite hF (inheritPer_stays (h.sub (by decide)) d hF)
  exact .ite h1 (loseBoundaries_stays (h.sub (by decide)) d h1)

theorem rd_cfg_setLock (l d st : Nat) (s : State) : rd (setLock d st s) (legKey l 0) = rd s (legKey l 0) :=
  rd_wrf_ne _ _ _ _ (legKey_ne_domKey l d (by decide) (by decide))

/-- Neither domain writes CFG of a leg: they write the period of a pacer, and the state of a lock. -/
theorem rd_cfg_domJoined (l d : Nat) (s : State) : rd (domJoined d s) (legKey l 0) = rd s (legKey l 0) := by
  unfold domJoined startDomain
  split
  · rfl
  · dsimp only
    rw [rd_setDom]
    split
    · exact rd_cfg_setLock l d 2 s
    · rfl

theorem rd_cfg_domLeft (l d : Nat) (was : Option Nat) (s : State) : rd (domLeft d was s) (legKey l 0) = rd s (legKey l 0) := by
  have hper : ∀ s, rd (inheritPer d s) (legKey l 0) = rd s (legKey l 0) := fun s => by
    unfold inheritPer
    split
    · exact rd_wr_ne _ _ (legKey_ne_legKey l _ (by decide) (by decide) (by decide))
    · rfl
  have hlose : ∀ s, rd (loseBoundaries d s) (legKey l 0) = rd s (legKey l 0) := fun s => by
    refine (apply_ite (rd · (legKey l 0)) _ _ _).trans ?_
    rw [rd_cfg_setLock, rd_setDom, ite_self]
  unfold domLeft
  extract_lets s1
  have h1 : rd s1 (legKey l 0) = rd s (legKey l 0) := by
    unfold s1
    split
    · rfl
    · exact hper s
  split
  · exact h1
  · exact (hlose s1).trans h1

theorem legDomainWrite_completes {m : Master} {l : Fin 96} {v : Word} {s : State} (h : reaches s m .pwmg 0x100 = true)
    (ho : outMode s l = 0) (hg : (grp s (grpKey .pwmg (l / 8) (l % 8))).openAt = none) (hd : fld v 0 5 < 24)
    (hne : fld v 0 5 ≠ legDom s l) (ha : fld v 5 2 ≠ 3) :
    ∃ t, exec (.legDomainWrite m l v) s = .next t ∧ legDom t l = fld v 0 5 ∧ (leg t l).wait = true ∧
      (dom t (fld v 0 5)).running = true := by
  have hcfg : pwmgKey (legKey l 0) := legKey_pwmgKey l.isLt (by decide)
  have hdom : ∀ n off, legDom (countedWrite m .pwmg n off s) l = legDom s l := fun n off =>
    congrArg (fld · 0 5) (rd_countedWrite_pwmg hcfg m n off s)
  have hmode : ∀ n off, outMode (countedWrite m .pwmg n off s) l = outMode s l := fun n off =>
    congrArg (fld · 0 2) (inForce_pmcAccess _ _ _ _ s _)
  refine ⟨_, congrArg Host.Outcome.next (byBus_pwmg h _ _ _), ?cfg, ?wait, ?runs⟩ <;>
    rw [writeLegCfg_moves ((hmode _ _).trans ho) ((congrArg Grp.openAt (grp_countedWrite _ _ _ _ _)).trans hg) hd
      (hdom _ _ ▸ hne) ha]
  case cfg =>
    rw [legDom, rdf, rd_busCycle, rd_islRefresh hcfg, rd_cfg_domJoined, rd_cfg_domLeft, legMoved, onLeg, rd_setLeg, rd_wr_same,
      fld_and_cfg]
  case wait =>
    rw [leg_congr (busCycle_legs _), leg_congr (islRefresh_legs _), leg_congr (domJoined_legs _ _), leg_congr (domLeft_legs _ _ _),
      legMoved, leg_onLeg_same]
  case runs =>
    rw [dom_congr (busCycle_doms _), dom_congr (islRefresh_doms _)]
    exact domJoined_running _ _

/-! An edge takes place (R136, R138, R147; log entry 23) -/

/-- The last edge of each output, as the leg's record holds it: what the stage then does leaves it. -/
def SameEdges (g x : Leg) : Prop := x.cmdA = g.cmdA ∧ x.cmdB = g.cmdB ∧ x.edgeA = g.edgeA ∧ x.edgeB = g.edgeB

theorem refuseOverlap_sameEdges (l at' : Nat) (s : State) : SameEdges (leg s l) (leg (refuseOverlap l at' s) l) := by
  have h : leg (refuseOverlap l at' s) l = leg (onLeg l (fun g => { g with hold := true, ovl := true, refusedAt := at' }) s) l :=
    leg_congr (raise_legs _ _ _ _) l
  rw [h, leg_onLeg_same]
  exact ⟨rfl, rfl, rfl, rfl⟩

theorem noteRise_sameEdges (l at' : Nat) (was : Bool × Bool) (s : State) : SameEdges (leg s l) (leg (noteRise l at' was s) l) := by
  unfold noteRise
  extract_lets v upA upB supp x s1
  have h1 : leg s1 l = leg s l := by unfold s1; split <;> rfl
  split
  · exact ⟨rfl, rfl, rfl, rfl⟩
  · rw [leg_onLeg_same, h1]
    exact ⟨rfl, rfl, rfl, rfl⟩

/-- An edge that takes place is its output's last: its level and its ideal instant stand in the leg's record, whether the interlock
refuses it at the stage or not, and the instant at which it is placed has come. -/
theorem takeEdge_takes (l : Nat) (outB : Bool) (t : Nat) (rise : Bool) (s : State) :
    placeEdge s l rise t ≤ (takeEdge l outB t rise s).now ∧
      (if outB then (leg (takeEdge l outB t rise s) l).cmdB = rise ∧ (leg (takeEdge l outB t rise s) l).edgeB = t
        else (leg (takeEdge l outB t rise s) l).cmdA = rise ∧ (leg (takeEdge l outB t rise s) l).edgeA = t) := by
  unfold takeEdge
  extract_lets now other s1 was s2
  have hstage : SameEdges (leg s2 l) (leg (if other then refuseOverlap l now s2 else noteRise l now was s2) l) := by
    split
    · exact refuseOverlap_sameEdges l now s2
    · exact noteRise_sameEdges l now was s2
  have htime : (if other then refuseOverlap l now s2 else noteRise l now was s2).now = s2.now :=
    Part.same_of_op (p := .now) (f := fun s => if other then refuseOverlap l now s else noteRise l now was s) (m := 277348360)
      (by decide) (fun h hF => .ite (refuseOverlap_stays (h.sub (by decide)) l now hF)
        (noteRise_stays (h.sub (by decide)) l now was hF)) s2
  obtain ⟨hcmdA, hcmdB, hedgeA, hedgeB⟩ := hstage
  refine ⟨htime ▸ le_upto_now now s, ?_⟩
  rw [hcmdA, hcmdB, hedgeA, hedgeB, leg_onLeg_same]
  cases outB <;> exact ⟨rfl, rfl⟩

theorem edge_completes {l : Fin 96} {outB : Bool} {s : State} {a : Nat} {rise : Bool} (hd : domRuns s (legDom s l) = true)
    (hw : (leg s l).wait = false) (he : nextEdge s l outB = some (a, rise)) :
    ∃ t, exec (.edge l outB) s = .next t ∧ placeEdge s l rise a ≤ t.now ∧
      (if outB then (leg t l).cmdB = rise ∧ (leg t l).edgeB = a else (leg t l).cmdA = rise ∧ (leg t l).edgeA = a) := by
  refine ⟨takeEdge l outB a rise s, congrArg Host.Outcome.next ?_, takeEdge_takes l outB a rise s⟩
  simp only [doEdge, hd, hw, he, Bool.not_true, Bool.or_self, Bool.false_eq_true, if_false]

/-! Calibration (R145, R146; log entry 24) -/

@[simp] theorem spareTwin_setSpare (tw : Twin) (g : Leg) : spareTwin (setSpare tw g) = tw := by
  unfold spareTwin setSpare
  split <;> simp [*]

@[simp] theorem setSpare_line (tw : Twin) (g : Leg) : (setSpare tw g).line = g.line := by
  unfold setSpare
  split <;> rfl

@[simp] theorem setValid_valid (v : Bool) (t : Nat) (g : Leg) : (setValid v t g).valid = v := by
  unfold setValid
  split
  · assumption
  · rfl

@[simp] theorem setValid_line (v : Bool) (t : Nat) (g : Leg) : (setValid v t g).line = g.line := by
  unfold setValid
  split <;> rfl

@[simp] theorem spareTwin_setValid (v : Bool) (t : Nat) (g : Leg) : spareTwin (setValid v t g) = spareTwin g := by
  unfold setValid
  split <;> rfl

theorem calibrationDone_completes {l : Fin 96} {taps : Nat} {s : State} (hl : live s .pwm = true) (hk : s.clk.locked = true)
    (hlo : 160 ≤ taps) (hhi : taps ≤ 224) :
    ∃ t, exec (.calibrationDone l taps) s = .next t ∧ (leg t l).valid = true ∧ (leg t l).line = (leg s l).line ∧
      (if (leg s l).line then (leg t l).twin0 else (leg t l).twin1) = { cal := some s.now, ready := true } := by
  have hcal : calibrated l taps s =
      setLeg l (setValid true s.now (setSpare { cal := some s.now, ready := true } (leg s l))) s := by
    simp [calibrated, hl, hk, hlo, hhi]
  have hline : (leg (calibrated l taps s) l).line = (leg s l).line := by simp [hcal]
  refine ⟨_, rfl, ?_, hline, ?_⟩
  · simp [hcal]
  · calc (if (leg s l).line then (leg (calibrated l taps s) l).twin0 else (leg (calibrated l taps s) l).twin1)
        = spareTwin (leg (calibrated l taps s) l) := by rw [spareTwin, hline]
      _ = { cal := some s.now, ready := true } := by simp [hcal]

theorem swapTwin_line (g : Leg) : (swapTwin g).line = !g.line := rfl

/-- The twin that comes into service is not ready to return. -/
theorem swapTwin_ready (g : Leg) : (if g.line then (swapTwin g).twin0 else (swapTwin g).twin1).ready = false := by
  have h : (if g.line then (swapTwin g).twin0 else (swapTwin g).twin1) =
      spareTwin (setSpare { spareTwin g with ready := false } g) := by
    rw [spareTwin, setSpare_line]
    rfl
  rw [h, spareTwin_setSpare]

theorem twinChange_completes {l : Fin 96} {s : State} (hl : live s .pwm = true)
    (hr : (if (leg s l).line then (leg s l).twin0 else (leg s l).twin1).ready = true) (hq : quietTicks s l = true) :
    ∃ t, exec (.twinChange l) s = .next t ∧ (leg t l).line = !(leg s l).line ∧
      (if (leg s l).line then (leg t l).twin0 else (leg t l).twin1).ready = false := by
  have hr' : (spareTwin (leg s l)).ready = true := hr
  refine ⟨setLeg l (swapTwin (leg s l)) s, congrArg Host.Outcome.next ?_, ?_, ?_⟩
  · simp [hl, hr', hq]
  · rw [leg_setLeg_same, swapTwin_line]
  · rw [leg_setLeg_same, swapTwin_ready]

theorem calibrationExpiry_completes {l : Fin 96} {s : State} (hl : live s .pwm = true) (hv : (leg s l).valid = true) :
    ∃ t, exec (.calibrationExpiry l) s = .next t ∧ (leg t l).valid = false ∧
      max ((leg s l).twin0.cal.getD 0) ((leg s l).twin1.cal.getD 0) + calLife ≤ t.now := by
  refine ⟨_, congrArg Host.Outcome.next (if_pos (by simp [hl, hv])), ?_, le_upto_now _ s⟩
  rw [leg_setLeg_same, setValid_valid]

/-! The lock of a domain to Datum (R148, R152) -/

theorem lockState_setLock (d st : Nat) (s : State) : lockState (setLock d st s) d = st % 4 := rdf_wrf_same _ _ _ _ _ (by decide)

theorem lockState_wr_ctrl (d : Nat) (v : Word) (s : State) : lockState (wr (domKey d 0x040) v s) d = lockState s d :=
  congrArg (fld · 0 2) (rd_wr_ne _ _ (by simp [domKey_inj]))

/-- Whether a request aligns is decided by Datum and by the legs of the domain (R148). -/
theorem mayAlign_congr {s t : State} (hd : t.datum = s.datum) (hcfg : ∀ l, l < 96 → rd t (legKey l 0) = rd s (legKey l 0))
    (d : Nat) : mayAlign t d = mayAlign s d := by
  have hlegs : domHolds t d = domHolds s d :=
    Bool.eq_iff_iff.mpr <| by
      simp only [domHolds, List.any_eq_true]
      exact exists_congr fun l => and_congr_right fun hl => by
        rw [legDom, rdf, hcfg l (List.mem_range.mp hl), legDom, rdf]
  simp only [mayAlign, datumValid, cycHeld, hd, hlegs]

theorem mayAlign_wr_ctrl (d : Nat) (v : Word) (s : State) : mayAlign (wr (domKey d 0x040) v s) d = mayAlign s d :=
  mayAlign_congr (wr_datum _ _ s) (fun l _ => rd_wr_ne v s (legKey_ne_domKey l d (by decide) (by decide))) d

/-- A request of a domain that asks for no lock, and whose period fits the cycle where one is held, aligns or waits. -/
theorem writeDomCtrl_requests {d : Nat} {v : Word} {s : State} (hv : bit v 0 = true) (hst : lockState s d = 0)
    (hfit : ((cycHeld s).all fun c => cycleFits c.len (dom s d).per) = true) :
    writeDomCtrl d v s = setLock d (if mayAlign s d then 2 else 1) (wr (domKey d 0x040) (v &&& 0xFF03) s) := by
  have hfit' : ((cycHeld (wr (domKey d 0x040) (v &&& 0xFF03) s)).all
      fun c => cycleFits c.len (dom (wr (domKey d 0x040) (v &&& 0xFF03) s) d).per) = true := hfit
  unfold writeDomCtrl
  simp only [hv, lockState_wr_ctrl, hst, mayAlign_wr_ctrl, ne_eq, not_true_eq_false, Bool.not_true, Bool.false_eq_true, if_false]
  rw [if_pos hfit']

/-- A write without the request ends the lock, with HOLDOVER and the boundary error. -/
theorem writeDomCtrl_releases {d : Nat} {v : Word} (s : State) (hv : bit v 0 = false) :
    writeDomCtrl d v s = dropErr d (wrb (domKey d 0x044) 2 false (setLock d 0 (wr (domKey d 0x040) (v &&& 0xFF03) s))) := by
  unfold writeDomCtrl
  simp only [hv, Bool.not_false, if_true]
  rfl

theorem bit_and_ctrl (v : Word) : bit (v &&& 0xFF03) 0 = bit v 0 := by simp [bit]

/-- CTRL.LOCK_REQ is the lowest bit of the word that a request or its end writes. -/
theorem bit_lockCtrl (req : Nat) (stretch : Bool) (slew : BitVec 8) :
    bit (wNat (req + (if stretch then 2 else 0) + 256 * slew.toNat)) 0 = decide (req % 2 = 1) := by
  simp only [bit, wNat, BitVec.getLsbD_ofNat, Nat.testBit_zero]
  cases stretch <;> simp <;> omega

section Lock

variable {m : Master} {d : Fin 24} {s : State} (stretch : Bool) (slew : BitVec 8) (h : reaches s m .pwmg 0x040 = true)
include h

theorem lockReq_completes (hst : lockState s d = 0) (hfit : ((cycHeld s).all fun c => cycleFits c.len (dom s d).per) = true) :
    ∃ t, exec (.lockReq m d stretch slew) s = .next t ∧ lockState t d = (if mayAlign s d then 2 else 1) ∧
      rdb t (domKey d 0x040) 0 = true := by
  have hv := bit_lockCtrl 1 stretch slew
  have hctrl : pwmgKey (domKey d 0x040) := domKey_pwmgKey (by omega) (by decide)
  have hstat : pwmgKey (domKey d 0x044) := domKey_pwmgKey (by omega) (by decide)
  have hmay : ∀ n off, mayAlign (countedWrite m .pwmg n off s) d = mayAlign s d := fun n off =>
    mayAlign_congr (datum_countedWrite m n off s)
      (fun l hl => rd_countedWrite_pwmg (legKey_pwmgKey hl (by decide)) m n off s) d
  have hfit' : ∀ n off, ((cycHeld (countedWrite m .pwmg n off s)).all
      fun c => cycleFits c.len (dom (countedWrite m .pwmg n off s) d).per) = true := fun n off => by
    simpa only [cycHeld, datum_countedWrite, dom_countedWrite] using hfit
  have hst' : ∀ n off, lockState (countedWrite m .pwmg n off s) d = 0 := fun n off =>
    (congrArg (fld · 0 2) (rd_countedWrite_pwmg hstat m n off s)).trans hst
  refine ⟨_, congrArg Host.Outcome.next (byBus_pwmg h _ _ _), ?state, ?req⟩ <;>
    rw [writeDomCtrl_requests hv (hst' _ _) (hfit' _ _), hmay]
  case state =>
    rw [lockState, rdf, rd_busCycle, rd_islRefresh hstat, ← rdf, ← lockState, lockState_setLock]
    split <;> rfl
  case req =>
    rw [rdb, rd_busCycle, rd_islRefresh hctrl, setLock, rd_wrf_ne _ _ _ _ (by simp [domKey_inj]), rd_wr_same, bit_and_ctrl, hv]
    rfl

theorem lockReqClear_completes :
    ∃ t, exec (.lockReqClear m d stretch slew) s = .next t ∧ lockState t d = 0 ∧ rdb t (domKey d 0x040) 0 = false ∧
      (dom t d).err = none := by
  have hv := bit_lockCtrl 0 stretch slew
  rw [Nat.zero_add] at hv
  have hctrl : pwmgKey (domKey d 0x040) := domKey_pwmgKey (by omega) (by decide)
  have hstat : pwmgKey (domKey d 0x044) := domKey_pwmgKey (by omega) (by decide)
  refine ⟨_, congrArg Host.Outcome.next (byBus_pwmg h _ _ _), ?state, ?req, ?err⟩ <;> rw [writeDomCtrl_releases _ hv, dropErr]
  case state =>
    rw [lockState, rdf, rd_busCycle, rd_islRefresh hstat, rd_setDom, ← rdf, wrb,
      rdf_wrf_ne _ _ _ _ _ _ _ _ (by decide) (.inr (.inr (by decide)))]
    exact lockState_setLock _ _ _
  case req =>
    rw [rdb, rd_busCycle, rd_islRefresh hctrl, rd_setDom, rd_wrb_ne _ _ _ (by simp [domKey_inj]), setLock,
      rd_wrf_ne _ _ _ _ (by simp [domKey_inj]), rd_wr_same, bit_and_ctrl, hv]
    rfl
  case err =>
    rw [dom_congr (busCycle_doms _), dom_congr (islRefresh_doms _), dom_setDom_same]

end Lock

/-! Datum-aligned arms (R153) -/

/-- A group stands armed at an instant for a Datum cycle boundary. -/
def DarmedAt (t : Nat) (x : Grp) : Prop := x.darm = true ∧ x.armed = some t

theorem setLate_grps (t : PageType) (n g : Nat) (s : State) : (setLate t n g s).grps = s.grps :=
  Part.same_of_op (p := .grps) (m := 524296) (by decide) (fun h => setLate_stays h t n g) s

theorem darmGroup_now (n i : Nat) (s : State) : (darmGroup n i s).now = s.now :=
  Part.same_of_op (p := .now) (m := 4718600) (by decide) (fun h => darmGroup_stays h n i) s

theorem darmGroup_datum (n i : Nat) (s : State) : (darmGroup n i s).datum = s.datum :=
  Part.same_of_op (p := .datum) (m := 4718600) (by decide) (fun h => darmGroup_stays h n i) s

/-- While Datum is valid an arm writes the record of its group, and no other group's. -/
theorem darmGroup_grps (n i : Nat) {s : State} (hv : datumValid s = true) : (darmGroup n i s).grps =
    (setGrp (grpKey .pwmg n i) { grp s (grpKey .pwmg n i) with
      armed := some s.now, dom := grpCdom s .pwmg n i, darm := true, due := false } s).grps := by
  simp only [darmGroup, hv, if_true]
  split
  · exact setLate_grps _ _ _ _
  · rfl

theorem darmGroup_darms {n i j : Nat} {s : State} (hv : datumValid s = true)
    (h : j = i ∨ DarmedAt s.now (grp s (grpKey .pwmg n j))) : DarmedAt s.now (grp (darmGroup n i s) (grpKey .pwmg n j)) := by
  rw [grp_congr (darmGroup_grps n i hv)]
  by_cases hji : j = i
  · rw [hji, grp_setGrp_same]
    exact ⟨rfl, rfl⟩
  · rw [grp_setGrp_ne _ _ (grpKey_inj.not.mpr hji)]
    exact h.resolve_left hji

/-- Where the groups of a list are armed one after the other, each of them then stands armed, and each that did before. -/
theorem forEach_darmGroup {n j : Nat} {l : List Nat} {s : State} (hv : datumValid s = true)
    (h : j ∈ l ∨ DarmedAt s.now (grp s (grpKey .pwmg n j))) :
    DarmedAt s.now (grp (forEach l (fun i s => darmGroup n i s) s) (grpKey .pwmg n j)) := by
  induction l generalizing s with
  | nil => exact h.resolve_left List.not_mem_nil
  | cons i l ih =>
    have hnext := ih (s := darmGroup n i s) ((congrArg Datum.valid (darmGroup_datum n i s)).trans hv)
    rw [darmGroup_now] at hnext
    refine hnext ?_
    rcases h with h | h
    · exact (List.mem_cons.mp h).symm.imp_right fun e => darmGroup_darms hv (.inl e)
    · exact .inr (darmGroup_darms hv (.inr h))

theorem darm_completes {m : Master} {n : Fin 12} {v : BitVec 16} {i : Fin 8} {s : State} (h : reaches s m .pwmg 0x080 = true)
    (hv : datumValid s = true) (hi : v.getLsbD i = true) :
    ∃ t, exec (.darm m n v) s = .next t ∧ (grp t (grpKey .pwmg n i)).darm = true ∧
      (grp t (grpKey .pwmg n i)).armed = some s.now := by
  have hbit : bit (wNat v.toNat) i = true := by
    rw [bit, wNat, BitVec.getLsbD_ofNat, decide_eq_true (by omega), Bool.true_and]
    exact hi
  have hset : i.val ∈ setBits (wNat v.toNat) 8 := List.mem_filter.mpr ⟨List.mem_range.mpr i.isLt, hbit⟩
  refine ⟨_, congrArg Host.Outcome.next (byBus_reaches h), ?_⟩
  have harm := forEach_darmGroup (n := n) (s := wr (rk .pwmg n 0x080)
    (rd (countedWrite m .pwmg n 0x080 s) (rk .pwmg n 0x080) &&& ~~~ (wNat v.toNat &&& 0xFF00)) (countedWrite m .pwmg n 0x080 s))
    ((congrArg Datum.valid (datum_countedWrite m n 0x080 s)).trans hv) (.inl hset)
  rw [wr_now, countedWrite, pmcAccess_now] at harm
  exact harm

/-- Settles O8: each clause is the lemma of its command. -/
theorem legsComplete : Obligations.LegsComplete := by
  unfold Obligations.LegsComplete
  exact ⟨fun _ _ _ _ => legDomainWrite_completes, fun _ _ _ _ _ => edge_completes, fun _ _ _ => calibrationDone_completes,
    fun _ _ => twinChange_completes, fun _ _ => calibrationExpiry_completes,
    fun _ _ stretch slew _ => lockReq_completes stretch slew, fun _ _ stretch slew _ => lockReqClear_completes stretch slew,
    fun _ _ _ _ _ => darm_completes⟩

end Sys2Proof.Machine
end

section
/-! The units of the stage guard through each update, its registers among the others, and what each of its operations does to
them. -/

namespace Sys2Proof.Machine

/-! The records of the units -/

theorem safeSet_congr {s t : State} (h : t.sets = s.sets) (k : Nat) : safeSet t k = safeSet s k :=
  congrArg (smGet safeSet0 · k) h

theorem tripIn_congr {s t : State} (h : t.trips = s.trips) (i : Nat) : tripIn t i = tripIn s i :=
  congrArg (smGet tripIn0 · i) h

theorem mon_congr {s t : State} (h : t.mons = s.mons) (i : Nat) : mon t i = mon s i := congrArg (smGet mon0 · i) h

theorem phase_congr {s t : State} (h : t.phases = s.phases) (p : Nat) : phase t p = phase s p :=
  congrArg (smGet phase0 · p) h

theorem drvGrp_congr {s t : State} (h : t.drvs = s.drvs) (g : Nat) : drvGrp t g = drvGrp s g :=
  congrArg (smGet drvGrp0 · g) h

@[simp] theorem safeSet_setSafe_same (k : Nat) (x : SafeSet) (s : State) : safeSet (setSafe k x s) k = x :=
  smGet_smSet_same _ _ _ _

@[simp] theorem tripIn_setTrip_same (i : Nat) (x : TripIn) (s : State) : tripIn (setTrip i x s) i = x := smGet_smSet_same _ _ _ _

@[simp] theorem mon_setMon_same (i : Nat) (x : Mon) (s : State) : mon (setMon i x s) i = x := smGet_smSet_same _ _ _ _

@[simp] theorem phase_setPhase_same (p : Nat) (x : Phase) (s : State) : phase (setPhase p x s) p = x := smGet_smSet_same _ _ _ _

theorem phase_setPhase_ne {p q : Nat} (x : Phase) (s : State) (h : q ≠ p) : phase (setPhase p x s) q = phase s q :=
  smGet_smSet_ne _ _ _ h

@[simp] theorem drvGrp_setDrv_same (g : Nat) (x : DrvGrp) (s : State) : drvGrp (setDrv g x s) g = x := smGet_smSet_same _ _ _ _

@[simp] theorem tripIn_wrb (k b : Nat) (v : Bool) (s : State) (i : Nat) : tripIn (wrb k b v s) i = tripIn s i := rfl

@[simp] theorem tripIn_incHeld (k lo n : Nat) (s : State) (i : Nat) : tripIn (incHeld k lo n s) i = tripIn s i := rfl

@[simp] theorem rdb_setTrip (i : Nat) (x : TripIn) (s : State) (k b : Nat) : rdb (setTrip i x s) k b = rdb s k b := rfl

@[simp] theorem tripIn_raiseTrip (j c : Nat) (s : State) (i : Nat) : tripIn (raiseTrip j c s) i = tripIn s i :=
  tripIn_congr (raiseTrip_trips _ _ _) i

/-! The registers of the stage guard -/

/-- A register of the pages of the stage guard: CMP, TRIP and DRV. -/
def guardKey (k : Nat) : Prop := 0x310000 ≤ k ∧ k < 0x340000

theorem guardKey.not_countKey {k : Nat} (h : guardKey k) : ¬ countKey k := by
  simp only [guardKey, countKey, mergeKey, pmcKey, rk, pageFirst] at h ⊢
  omega

theorem guardKey.not_mergeKey {k : Nat} (h : guardKey k) : ¬ mergeKey k := fun hm => h.not_countKey (.inl hm)

theorem tripKey_guardKey {i off : Nat} (hi : i < 48) (ho : off < 0x20) : guardKey (tripKey i off) := by
  simp only [guardKey, tripKey, rk, pageFirst]
  omega

theorem monKey_guardKey {i off : Nat} (hi : i < 96) (ho : off < 0x20) : guardKey (monKey i off) := by
  simp only [guardKey, monKey, rk, pageFirst]
  omega

theorem phKey_guardKey {p off : Nat} (hp : p < 16) (ho : off < 0x20) : guardKey (phKey p off) := by
  simp only [guardKey, phKey, rk, pageFirst]
  omega

theorem drvKey_guardKey {g off : Nat} (hg : g < 4) (ho : off < 0x100) : guardKey (rk .drv g off) := by
  simp only [guardKey, rk, pageFirst]
  omega

theorem tripKey_inj {i a b : Nat} : tripKey i a = tripKey i b ↔ a = b := by simp [tripKey, rk_inj]

theorem monKey_inj {i a b : Nat} : monKey i a = monKey i b ↔ a = b := by simp [monKey, rk_inj]

theorem phKey_inj {p a b : Nat} : phKey p a = phKey p b ↔ a = b := by simp [phKey, rk_inj]

theorem tripKey_ne_setKey {i off : Nat} (hi : i < 48) (ho : off < 0x20) (k o : Nat) : tripKey i off ≠ setKey k o := by
  simp only [tripKey, setKey, rk, ne_eq]
  omega

theorem monKey_ne_setKey {i off : Nat} (hi : i < 96) (ho : off < 0x20) (k o : Nat) : monKey i off ≠ setKey k o := by
  simp only [monKey, setKey, rk, pageFirst, ne_eq]
  omega

theorem drvKey_ne_setKey {k o : Nat} (hk : k < 16) (ho : o < 0x20) (g off : Nat) : rk .drv g off ≠ setKey k o := by
  simp only [setKey, rk, pageFirst, ne_eq]
  omega

theorem monKey_ne_raw {off : Nat} (ho : off < 0x20) (i n : Nat) : monKey i off ≠ rk .cmp n 0x010 := by
  simp only [monKey, rk, ne_eq]
  omega

theorem phKey_ne_drvKey {off o : Nat} (hoff : off < 0x20) (ho : o < 0x100) (p g : Nat) : phKey p off ≠ rk .drv g o := by
  simp only [phKey, rk, ne_eq]
  omega

/-- All offsets of a page of the stage guard are reached alike. -/
theorem reaches_guard {t : PageType} (ht : t = .trip ∨ t = .cmp ∨ t = .drv) {m : Master} {s : State} {a : Nat}
    (h : reaches s m t a = true) (b : Nat) : reaches s m t b = true := by
  obtain rfl | rfl | rfl := ht
  all_goals
    rw [reaches, pageUp_off (by decide) s _ a]
    exact h

/-- The TRIP page lies in PD_PWM: where it is reached, the domain works. -/
theorem live_of_reaches_trip {m : Master} {s : State} {off : Nat} (h : reaches s m .trip off = true) : live s .pwm = true := by
  simp only [reaches, Bool.and_eq_true] at h
  obtain ⟨⟨⟨hup, -⟩, -⟩, -⟩ := h
  have hpage : (PageType.trip == .dbg) = false := rfl
  simp only [pageUp, fabricUp, hpage, Bool.false_and, Bool.or_false, Bool.and_eq_true] at hup
  obtain ⟨⟨⟨hclk, hrst⟩, -⟩, hpwm⟩ := hup
  rw [live, hclk, hrst]
  exact hpwm

/-- Where no member of a list changes a quantity, the list does not. -/
theorem forEach_mem_keeps {α β : Type} {π : State → β} {f : α → State → State} :
    ∀ {l : List α}, (∀ x ∈ l, ∀ s, π (f x s) = π s) → ∀ s, π (forEach l f s) = π s
  | [], _, _ => rfl
  | x :: _, hf, s =>
    (forEach_mem_keeps (fun y hy => hf y (List.mem_cons_of_mem _ hy)) (f x s)).trans (hf x List.mem_cons_self s)

/-! Outputs settle -/

theorem settle_trips (us s : State) : (settle us s).trips = s.trips :=
  Part.same_of_op (p := .trips) (m := 276824064) (by decide) (fun h => settle_stays h us) s

theorem settle_sets (us s : State) : (settle us s).sets = s.sets :=
  Part.same_of_op (p := .sets) (m := 276824064) (by decide) (fun h => settle_stays h us) s

theorem settle_drvs (us s : State) : (settle us s).drvs = s.drvs :=
  Part.same_of_op (p := .drvs) (m := 276824064) (by decide) (fun h => settle_stays h us) s

@[simp] theorem rd_settle (us s : State) (k : Nat) : rd (settle us s) k = rd s k :=
  rd_congr (Part.same_of_op (p := .regs) (m := 276824064) (by decide) (fun h => settle_stays h us) s) k

@[simp] theorem tripIn_settle (us s : State) (i : Nat) : tripIn (settle us s) i = tripIn s i := tripIn_congr (settle_trips us s) i

/-- A change of the other fields of a phase leaves every sense voltage. -/
theorem mv_setPhase {q : Nat} {x : Phase} {s : State} (hx : x.mv = (phase s q).mv) (p : Nat) :
    (phase (setPhase q x s) p).mv = (phase s p).mv := by
  by_cases hpq : p = q
  · rw [hpq, phase_setPhase_same, hx]
  · rw [phase_setPhase_ne _ _ hpq]

theorem mv_noteRise (l at' : Nat) (was : Bool × Bool) (s : State) (p : Nat) :
    (phase (noteRise l at' was s) p).mv = (phase s p).mv := by
  unfold noteRise
  extract_lets v upA upB supp x s1
  have h1 : (phase s1 p).mv = (phase s p).mv := by
    unfold s1
    split
    · refine mv_setPhase ?_ p
      rfl
    · rfl
  split
  · rfl
  · exact h1

theorem clampFollow_phases (us : State) (l : Nat) (s : State) : (clampFollow us l s).phases = s.phases :=
  Part.same_of_op (p := .phases) (m := 8388608) (by decide) (fun h => clampFollow_stays h us l) s

/-- The outputs settle without a change of a sense voltage. -/
theorem mv_settle (us s : State) (p : Nat) : (phase (settle us s) p).mv = (phase s p).mv := by
  refine forEach_stays (π := fun t => (phase t p).mv) (r0 := s) (fun l t ht => ?_) rfl
  refine (mv_noteRise _ _ _ _ p).trans ?_
  rw [phase_congr (clampFollow_phases _ _ _)]
  split <;> exact ht

/-! Causes of a trip input -/

theorem tripStat_eq (i : Nat) : rk .trip 0 (0x118 + 0x20 * i) = tripKey i 0x18 := by
  simp only [tripKey, rk]
  omega

/-- Raising a cause of a trip input writes no bit but its own of TRt_STAT, and what an occurrence may write. -/
theorem rdb_raiseTrip {i c j b : Nat} (s : State) (hb : b < 32) (hd : j ≠ tripKey i 0x18 ∨ b ≠ 8 + c) (hm : ¬ mergeKey j) :
    rdb (raiseTrip i c s) j b = rdb s j b := by
  have hset : rdb (setFresh (tripKey i 0x18) (8 + c) s) j b = rdb s j b := rdb_setFresh_ne _ _ _ _ _ hb hd
  unfold raiseTrip
  rw [tripStat_eq]
  dsimp only
  split
  · rw [rdb, rd_occur _ hm]
    exact hset
  · exact hset

/-! A set latches -/

theorem monTrigger_sets (kind r k cause : Nat) (s : State) : (monTrigger kind r k cause s).sets = s.sets :=
  Part.same_of_op (p := .sets) (m := 17592186044416) (by decide) (fun h => monTrigger_stays h kind r k cause) s

@[simp] theorem rd_monTrigger (kind r k cause : Nat) (s : State) (j : Nat) : rd (monTrigger kind r k cause s) j = rd s j :=
  rd_congr (Part.same_of_op (p := .regs) (m := 17592186044416) (by decide) (fun h => monTrigger_stays h kind r k cause) s) j

theorem monTrigger_phases (kind r k cause : Nat) (s : State) : (monTrigger kind r k cause s).phases = s.phases :=
  Part.same_of_op (p := .phases) (m := 17592186044416) (by decide) (fun h => monTrigger_stays h kind r k cause) s

theorem latchSet_trips (k kind id : Nat) (s : State) : (latchSet k kind id s).trips = s.trips :=
  Part.same_of_op (p := .trips) (m := 17592531025930) (by decide) (fun h => latchSet_stays h k kind id) s

/-- A latch writes SSs_STAT and SSs_CNT of its set, and no other register. -/
theorem rd_latchSet {k j : Nat} (kind id : Nat) (s : State) (hstat : j ≠ setKey k 0x14) (hcnt : j ≠ setKey k 0x1C) :
    rd (latchSet k kind id s) j = rd s j := by
  unfold latchSet
  extract_lets x reqs s1 st s2 s3
  have h3 : rd s3 j = rd s j := by
    unfold s3 s2 s1
    rw [rd_logHap, incHeld, rd_wrf_ne _ _ _ _ hcnt, rd_wrf_ne _ _ _ _ hstat, rd_wrf_ne _ _ _ _ hstat, rd_settle, rd_setSafe]
  split
  · rfl
  · split
    · rfl
    · split
      · rw [rd_monTrigger, h3]
      · exact h3

/-- While PD_PWM works a set that is asked for latches, and the requester stands among its requesters. -/
theorem latchSet_latches {s : State} (hl : live s .pwm = true) (k kind id : Nat) :
    (safeSet (latchSet k kind id s) k).latched = true ∧ (kind, id) ∈ (safeSet (latchSet k kind id s) k).reqs := by
  unfold latchSet
  extract_lets x reqs s1 st s2 s3
  have hreq : (kind, id) ∈ reqs := by
    unfold reqs
    split
    next h => exact List.contains_iff_mem.mp h
    next => exact List.mem_append_right _ (List.mem_singleton_self _)
  have h3 : safeSet s3 k = { latched := true, reqs := reqs } := by
    have hsets : s3.sets = (setSafe k { latched := true, reqs := reqs } s).sets := settle_sets _ _
    rw [safeSet_congr hsets, safeSet_setSafe_same]
  rw [if_neg (by simp [hl])]
  split
  next hx => rw [safeSet_setSafe_same]; exact ⟨hx, hreq⟩
  next =>
    split
    · rw [safeSet_congr (monTrigger_sets _ _ _ _ _), h3]
      exact ⟨rfl, hreq⟩
    · rw [h3]
      exact ⟨rfl, hreq⟩

theorem mv_latchSet (k kind id : Nat) (s : State) (p : Nat) : (phase (latchSet k kind id s) p).mv = (phase s p).mv := by
  unfold latchSet
  extract_lets x reqs s1 st s2 s3
  have h3 : (phase s3 p).mv = (phase s p).mv := mv_settle _ _ p
  split
  · rfl
  · split
    · rfl
    · split
      · rw [phase_congr (monTrigger_phases _ _ _ _ _), h3]
      · exact h3

/-! Guarded writes (R408, R566) -/

/-- The field book takes an entry without a write of any register but EV_RAW of PLUMB and what an occurrence may write. -/
theorem rd_bookRequested {j : Nat} (kind page off master : Nat) (old new : Word) (s : State) (hj : j ≠ rk .plumb 0 0x010)
    (hm : ¬ mergeKey j) : rd (bookRequested kind page off master old new s) j = rd s j := by
  unfold bookRequested placeEntry
  dsimp only
  split
  · exact rd_raise _ hj hm
  · rfl

/-- A guarded write at a level that admits it, with room in the staging buffer, is booked and then has its effect. -/
theorem rwlPath_accepted {m : Master} {k : Nat} {act : State → State} {s : State} (hl : levelOk s k = true)
    (hf : stagingFull s = false) :
    ∃ new, rwlPath m k true act s = act (bookRequested 1 (pageIndex k) (keyOff k) (masterNo m) (rd s k) new
      { s with pw := { s.pw with session := s.now } }) := by
  simp only [rwlPath, rwlPathBy, hl, hf, Bool.not_true, Bool.false_eq_true, if_false, if_true]
  exact ⟨_, rfl⟩

/-- Where it reaches its page, its effect comes in a state with the same registers of the stage guard, and the same in force. -/
theorem byBus_rwlPath {m : Master} {t : PageType} {n off k : Nat} {act : State → State} {s : State}
    (h : reaches s m t off = true) (hl : levelOk s k = true) (hf : stagingFull s = false) :
    ∃ u, byBus m t n off (rwlPath m k true act) s = busCycle (act u) ∧ u.act = s.act ∧
      ∀ j, guardKey j → rd u j = rd s j := by
  have hl' : levelOk (countedWrite m t n off s) k = true := by
    rw [levelOk, countedWrite, pmcAccess_pw]
    exact hl
  have hf' : stagingFull (countedWrite m t n off s) = false := by
    rw [stagingFull, countedWrite, pmcAccess_valley, pmcAccess_fb]
    exact hf
  obtain ⟨new, heff⟩ := rwlPath_accepted (m := m) (act := act) hl' hf'
  refine ⟨_, (byBus_reaches h).trans (congrArg busCycle heff), ?_, fun j hj => ?_⟩
  · rw [bookRequested_act]
    exact pmcAccess_act _ _ _ _ _
  · have hplumb : j ≠ rk .plumb 0 0x010 := by
      simp only [guardKey, rk, pageFirst] at hj ⊢
      omega
    rw [rd_bookRequested _ _ _ _ _ _ _ hplumb hj.not_mergeKey]
    exact rd_pmcAccess hj.not_countKey _ _ _ _

end Sys2Proof.Machine
end

section
/-! Safe-state sets and trip inputs: a set latches and clears; a trip pin moves, its filter passes an activity and its end, its
reaction starts, a long activity is stuck, a held reaction is cleared, and its configuration is written (R164, R167, R169, R171
to R173, R175). -/

namespace Sys2Proof.Machine

/-! What a count of accesses writes, by offset: a requester's number names registers of any page. -/

/-- The offsets at which a count of accesses may write: causes, merged occurrences, and the overflows of the 64 counters. -/
def countOff (o : Nat) : Prop := o = 0x010 ∨ o = 0x050 ∨ o = 0x060 ∨ o = 0x064

section CountOff

variable {j : Nat} (hj : ¬ countOff (j % 0x1000)) (s : State)
include hj

theorem rd_raisePmc_off (c : Nat) : rd (raisePmc c s) j = rd s j := by
  refine rd_raise s (fun h => hj (.inl (by rw [h]; rfl))) fun h => hj ?_
  exact h.imp (by rintro rfl; rfl) (by rintro rfl; exact .inl rfl)

theorem rd_ctrOverflow_off {n : Nat} (hn : n < 64) : rd (ctrOverflow n s) j = rd s j := by
  have hovf : j ≠ pmcKey (0x060 + 4 * (n / 32)) := by
    simp only [countOff, pmcKey, rk, pageFirst] at hj ⊢
    omega
  unfold ctrOverflow
  extract_lets c s1 s2 d s3 s4
  have h2 : rd s2 j = rd s j := rd_wrb_ne _ _ _ hovf
  have h3 : rd s3 j = rd s j := by unfold s3; split <;> exact h2
  have h4 : rd s4 j = rd s j := by
    unfold s4
    split
    · exact (rd_raisePmc_off hj _ _).trans h3
    · exact h3
  split
  · split <;> exact h4
  · exact h4

theorem rd_pmcCount_off (cls : Nat) (m : Option Doer) (a : Option Nat) : rd (pmcCount cls m a s) j = rd s j := by
  have hstep : ∀ {n} u, n < 64 → rd (ctrStep n u) j = rd u j := fun u hn => by
    unfold ctrStep
    split
    · rfl
    · exact rd_ctrOverflow_off hj u hn
  unfold pmcCount
  split
  · rfl
  · refine forEach_mem_keeps (π := (rd · j)) (fun n hn u => ?_) s
    split
    · split
      · exact hstep u (List.mem_range.mp hn)
      · rfl
      · rfl
    · rfl

theorem rd_countedWrite_off (m : Master) (t : PageType) (n off : Nat) : rd (countedWrite m t n off s) j = rd s j := by
  have hcls : ∀ cls d a u, rd (pmcAccesses cls d a u) j = rd u j := fun cls d a u => by
    unfold pmcAccesses
    split
    · exact rd_pmcCount_off hj u _ _ _
    · rfl
  exact (hcls _ _ _ _).trans (hcls _ _ _ _)

end CountOff

/-! What an access that is counted leaves -/

theorem live_countedWrite (m : Master) (t : PageType) (n off : Nat) (s : State) (d : PDom) :
    live (countedWrite m t n off s) d = live s d := by
  simp only [live, domOn, countedWrite, pmcAccess_clk, pmcAccess_pwr]

theorem countedWrite_countsOnly (m : Master) (t : PageType) (n off : Nat) (s : State) : CountsOnly s (countedWrite m t n off s) :=
  pmcAccess_countsOnly _ _ _ _ s

theorem rd_countedWrite_guard {j : Nat} (hj : guardKey j) (m : Master) (t : PageType) (n off : Nat) (s : State) :
    rd (countedWrite m t n off s) j = rd s j :=
  rd_pmcAccess hj.not_countKey _ _ _ _

/-- Nor does it write CFG of a leg. -/
theorem rd_countedWrite_legCfg {l : Nat} (hl : l < 96) (m : Master) (t : PageType) (n off : Nat) (s : State) :
    rd (countedWrite m t n off s) (legKey l 0) = rd s (legKey l 0) :=
  rd_pmcAccess (legKey_pwmgKey hl (by decide)).not_countKey _ _ _ _

/-- A blanking window is decided by the legs and their domains, of the registers by CFG of its source leg (R170). -/
theorem blanked_congr {s t : State} (h : CountsOnly s t) (hcfg : ∀ l, l < 96 → rd t (legKey l 0) = rd s (legKey l 0))
    (bl ws we : Word) : blanked t bl ws we = blanked s bl ws we := by
  by_cases hl : 96 ≤ fld bl 0 7
  · simp [blanked, hl]
  · have hdom : legDom t (fld bl 0 7) = legDom s (fld bl 0 7) := congrArg (fld · 0 5) (hcfg _ (Nat.lt_of_not_le hl))
    unfold blanked
    dsimp only
    rw [hdom]
    obtain ⟨r, e, c, rfl⟩ := h
    rfl

theorem monBlanked_congr {s t : State} {i : Nat} (h : CountsOnly s t)
    (hcfg : ∀ l, l < 96 → rd t (legKey l 0) = rd s (legKey l 0))
    (hwin : ∀ off, off < 0x18 → rd t (monKey i off) = rd s (monKey i off)) : monBlanked t i = monBlanked s i := by
  unfold monBlanked
  rw [hwin 0x08 (by decide), hwin 0x0C (by decide), hwin 0x10 (by decide), blanked_congr h hcfg]

theorem monStat_countedWrite (m : Master) (t : PageType) (n off : Nat) (s : State) (i : Nat) :
    monStat (countedWrite m t n off s) i = monStat s i := by
  have hmon : ∀ o, o < 0x20 → rd (countedWrite m t n off s) (monKey i o) = rd s (monKey i o) := fun o ho => by
    refine rd_countedWrite_off ?_ s m t n off
    simp only [countOff, monKey, rk]
    omega
  unfold monStat rdf
  rw [monBlanked_congr (countedWrite_countsOnly m t n off s) (fun l hl => rd_countedWrite_legCfg hl m t n off s)
    (fun o ho => hmon o (by omega)), hmon 0x18 (by decide), hmon 0 (by decide)]

/-- Whether a requester is active does not change by an access that is counted. -/
theorem reqActive_countedWrite (m : Master) (t : PageType) (n off : Nat) (s : State) :
    reqActive (countedWrite m t n off s) = reqActive s := by
  have htrip : ∀ i, tripIn (countedWrite m t n off s) i = tripIn s i := tripIn_congr (pmcAccess_trips _ _ _ _ s)
  have hdrv : ∀ g, rdb (countedWrite m t n off s) (rk .drv g 0x044) 2 = rdb s (rk .drv g 0x044) 2 := fun g => by
    refine congrArg (bit · 2) (rd_countedWrite_off ?_ s m t n off)
    simp only [countOff, rk]
    omega
  funext r
  simp only [reqActive, htrip, monStat_countedWrite, hdrv]

/-! Safe-state sets (R164, R167) -/

theorem writeSetCtl_set (k : Nat) (s : State) : writeSetCtl k 1 s = latchSet k 0 0 s := by
  simp [writeSetCtl, bit]

theorem writeSetCtl_clear (k : Nat) (s : State) : writeSetCtl k 2 s = clearSet k s := by
  simp [writeSetCtl, bit]

theorem safeStateSet_completes {m : Master} {k : Fin 16} {s : State} (h : reaches s m .trip 0x800 = true) :
    ∃ t, exec (.safeStateSet m k) s = .next t ∧ (safeSet t k).latched = true ∧ (0, 0) ∈ (safeSet t k).reqs := by
  refine ⟨_, congrArg Host.Outcome.next (byBus_reaches (reaches_guard (.inl rfl) h _)), ?_⟩
  rw [safeSet_congr (busCycle_sets _), writeSetCtl_set]
  exact latchSet_latches ((live_countedWrite _ _ _ _ _ _).trans (live_of_reaches_trip h)) k 0 0

theorem clearSet_clears {k : Nat} {s : State} (h : ((safeSet s k).reqs.filter (reqActive s)).isEmpty = true) :
    (safeSet (clearSet k s) k).latched = false := by
  unfold clearSet
  extract_lets x act
  split
  next hx => exact Bool.not_eq_true' _ ▸ hx
  next => rw [safeSet_congr (settle_sets _ _), safeSet_setSafe_same]

theorem clearSet_rails (k : Nat) (s : State) : (clearSet k s).rails = s.rails :=
  Part.same_of_op (p := .rails) (m := 345505802) (by decide) (fun h => clearSet_stays h k) s

theorem forEach_eq_self {α : Type} {f : α → State → State} {s : State} :
    ∀ {l : List α}, (∀ x ∈ l, f x s = s) → forEach l f s = s
  | [], _ => rfl
  | x :: l, hf => by
    rw [forEach, hf x List.mem_cons_self]
    exact forEach_eq_self fun y hy => hf y (List.mem_cons_of_mem _ hy)

/-- A clear latches no set of a rail where none is LATCHED (R286). -/
theorem railAfterClear_idle {s : State} (h : (List.range 4).all (fun r => (rail s r).st ≠ 5) = true) :
    railAfterClear s = s := by
  refine forEach_eq_self fun r hr => ?_
  have hst : (rail s r).st ≠ 5 := of_decide_eq_true (List.all_eq_true.mp h r hr)
  simp [hst]

theorem safeStateClear_completes {m : Master} {k : Fin 16} {s : State} (h : reaches s m .trip 0x800 = true)
    (hreq : ((safeSet s k).reqs.filter (reqActive s)).isEmpty = true)
    (hrail : (List.range 4).all (fun r => (rail s r).st ≠ 5) = true) :
    ∃ t, exec (.safeStateClear m k) s = .next t ∧ (safeSet t k).latched = false := by
  have hset : ∀ n off, safeSet (countedWrite m .trip n off s) k = safeSet s k := fun n off =>
    safeSet_congr (pmcAccess_sets _ _ _ _ s) k
  have hrails : ∀ n off r, rail (clearSet k (countedWrite m .trip n off s)) r = rail s r := fun n off r =>
    congrArg (smGet rail0 · r) ((clearSet_rails _ _).trans (pmcAccess_rails _ _ _ _ s))
  refine ⟨_, congrArg Host.Outcome.next (byBus_reaches (reaches_guard (.inl rfl) h _)), ?_⟩
  rw [safeSet_congr (busCycle_sets _), writeSetCtl_clear, railAfterClear_idle (by simpa only [hrails] using hrail)]
  refine clearSet_clears ?_
  rw [hset, reqActive_countedWrite]
  exact hreq

/-! Activities of a trip input (R169) -/

theorem tripPinChange_completes {i : Fin 48} {active : Bool} {s : State} (hl : live s .pwm = true)
    (hne : (tripIn s i).raw ≠ active) :
    ∃ t, exec (.tripPinChange i active) s = .next t ∧ (tripIn t i).raw = active ∧ (tripIn t i).rawAt = s.now ∧
      rdb t (tripKey i 0x18) 0 = active := by
  have hcount : ∀ u, rdb (incHeld (tripKey i 0x1C) 16 16 u) (tripKey i 0x18) 0 = rdb u (tripKey i 0x18) 0 := fun u =>
    congrArg (bit · 0) (rd_wrf_ne _ _ _ u (tripKey_inj.not.mpr (by decide)))
  refine ⟨_, congrArg Host.Outcome.next ((if_neg hne).trans (if_neg (by simp [hl]))), ?_⟩
  dsimp only
  split
  · rw [hcount, rdb_setTrip, rdb_wrb_same _ _ _ _ (by decide), tripIn_incHeld, tripIn_setTrip_same]
    exact ⟨rfl, rfl, rfl⟩
  · rw [rdb_setTrip, rdb_wrb_same _ _ _ _ (by decide), tripIn_setTrip_same]
    exact ⟨rfl, rfl, rfl⟩

theorem tripRelease_completes {i : Fin 48} {s : State} (hl : live s .pwm = true) (hr : (tripIn s i).raw = false)
    (ha : (tripIn s i).active = true) :
    ∃ t, exec (.tripRelease i) s = .next t ∧ (tripIn t i).active = false ∧ rdb t (tripKey i 0x18) 1 = false ∧
      rdb t (tripKey i 0x18) 4 = false ∧ (tripIn s i).rawAt + filtTime s i ≤ t.now := by
  refine ⟨_, congrArg Host.Outcome.next (if_neg (by simp [hl, hr, ha])), ?_⟩
  dsimp only
  rw [tripIn_setTrip_same, rdb_setTrip, rdb_setTrip, rdb_wrb_same _ _ _ _ (by decide),
    rdb_wrb_ne _ _ _ _ _ _ (by decide) (.inr (by decide)), rdb_wrb_same _ _ _ _ (by decide)]
  exact ⟨rfl, rfl, rfl, le_upto_now _ s⟩

/-! The reaction (R171, R172) -/

/-- A reaction marks its input as reacted, and leaves its activity. -/
theorem startReaction_reacts (i : Nat) (s : State) :
    (tripIn (startReaction i s) i).active = (tripIn s i).active ∧ (tripIn (startReaction i s) i).reacted = true := by
  unfold startReaction
  dsimp only
  rw [tripIn_settle]
  split
  case h_3 => rw [tripIn_wrb, tripIn_setTrip_same]; exact ⟨rfl, rfl⟩
  all_goals
    rw [tripIn_setTrip_same]
    exact ⟨rfl, rfl⟩

/-- It writes no register, or TRt_STAT.HELD where the action is hold off. -/
theorem rdb_startReaction {i j b : Nat} (s : State) (hb : b < 32) (hd : j ≠ tripKey i 0x18 ∨ b ≠ 3) :
    rdb (startReaction i s) j b = rdb s j b := by
  unfold startReaction
  dsimp only
  rw [rdb, rd_settle, ← rdb]
  split
  case h_3 => exact rdb_wrb_ne _ _ _ _ _ _ hb hd
  all_goals rfl

theorem raiseAssert_keeps (i : Nat) (s : State) :
    (tripIn (raiseAssert i s) i).active = (tripIn s i).active ∧
      (tripIn (raiseAssert i s) i).reacted = (tripIn s i).reacted := by
  unfold raiseAssert
  dsimp only
  split
  · rw [tripIn_raiseTrip]
    exact ⟨rfl, rfl⟩
  · rw [tripIn_raiseTrip, tripIn_setTrip_same]
    exact ⟨rfl, rfl⟩

/-- The states of an input in TRt_STAT are below its causes: raising ASSERT leaves them. -/
theorem rdb_raiseAssert {i b : Nat} (s : State) (hi : i < 48) (hb : b < 8) :
    rdb (raiseAssert i s) (tripKey i 0x18) b = rdb s (tripKey i 0x18) b := by
  have hm := (tripKey_guardKey (off := 0x18) hi (by decide)).not_mergeKey
  unfold raiseAssert
  dsimp only
  split
  · rw [rdb_raiseTrip _ (by omega) (.inr (by omega)) hm, rdb, incHeld,
      rd_wrf_ne _ _ _ _ (tripKey_inj.not.mpr (by decide)), ← rdb]
  · exact rdb_raiseTrip _ (by omega) (.inr (by omega)) hm

theorem tripReact_reacts (i : Nat) (s : State) :
    (tripIn (tripReact i s) i).active = (tripIn s i).active ∧ (tripIn (tripReact i s) i).reacted = true := by
  have hlatch : ∀ k, tripIn (raiseTrip i 3 (latchSet k 1 i (startReaction i s))) i = tripIn (startReaction i s) i := fun k => by
    rw [tripIn_raiseTrip, tripIn_congr (latchSet_trips _ _ _ _)]
  obtain ⟨hact, hreact⟩ := startReaction_reacts i s
  unfold tripReact
  dsimp only
  rw [(raiseAssert_keeps _ _).1, (raiseAssert_keeps _ _).2]
  split
  · rw [hlatch]
    exact ⟨hact, hreact⟩
  · exact ⟨hact, hreact⟩

/-- RAW, ACTIVE and BLANKED of TRt_STAT are not the reaction's. -/
theorem rdb_tripReact {i b : Nat} (s : State) (hi : i < 48) (hb : b < 3) :
    rdb (tripReact i s) (tripKey i 0x18) b = rdb s (tripKey i 0x18) b := by
  have hstart : rdb (startReaction i s) (tripKey i 0x18) b = rdb s (tripKey i 0x18) b :=
    rdb_startReaction s (by omega) (.inr (by omega))
  unfold tripReact
  dsimp only
  rw [rdb_raiseAssert _ hi (by omega)]
  split
  · rw [rdb_raiseTrip _ (by omega) (.inr (by omega)) (tripKey_guardKey hi (by decide)).not_mergeKey, rdb,
      rd_latchSet _ _ _ (tripKey_ne_setKey hi (by decide) _ _) (tripKey_ne_setKey hi (by decide) _ _), ← rdb, hstart]
  · exact hstart

theorem tripReact_now (i : Nat) (s : State) : (tripReact i s).now = s.now :=
  Part.same_of_op (p := .now) (m := 17592565104650) (by decide) (fun h => tripReact_stays h i) s

theorem tripAssert_completes {i : Fin 48} {s : State} (hl : live s .pwm = true) (hr : (tripIn s i).raw = true)
    (ha : (tripIn s i).active = false) :
    ∃ t, exec (.tripAssert i) s = .next t ∧ (tripIn t i).active = true ∧ rdb t (tripKey i 0x18) 1 = true ∧
      (tripIn s i).rawAt + filtTime s i ≤ t.now := by
  have htime : (tripIn s i).rawAt + filtTime s i ≤ (upto ((tripIn s i).rawAt + filtTime s i) s).now := le_upto_now _ s
  refine ⟨_, congrArg Host.Outcome.next (if_neg (by simp [hl, hr, ha])), ?_⟩
  dsimp only
  split
  · rw [tripIn_setTrip_same, rdb_setTrip, rdb_wrb_same _ _ _ _ (by decide)]
    exact ⟨rfl, rfl, htime⟩
  · rw [(tripReact_reacts _ _).1, rdb_tripReact _ i.isLt (by decide), tripReact_now, tripIn_setTrip_same, rdb_setTrip,
      rdb_wrb_same _ _ _ _ (by decide)]
    exact ⟨rfl, rfl, htime⟩

theorem blankingEnd_reacts {i : Fin 96} {s : State} (hl : live s .pwm = true) (hi : i.val < 48) (ha : (tripIn s i).active = true)
    (hr : (tripIn s i).reacted = false) (hb : tripBlanked s i = false) :
    ∃ t, exec (.blankingEnd false i) s = .next t ∧ (tripIn t i).reacted = true := by
  refine ⟨tripReact i s, congrArg Host.Outcome.next ?_, (tripReact_reacts _ _).2⟩
  simp [hl, Nat.not_le.mpr hi, ha, hr, hb]

/-! Stuck inputs and held reactions (R173, R175) -/

theorem stuck_completes {i : Fin 48} {s : State} (hl : live s .pwm = true) (ha : (tripIn s i).active = true)
    (hst : (tripIn s i).stuck = false) (hn : rdf s (tripKey i 0x10) 0 16 ≠ 0) :
    ∃ t, exec (.stuck i) s = .next t ∧ (tripIn t i).stuck = true ∧ rdb t (tripKey i 0x18) 4 = true ∧
      (tripIn s i).activeAt + rdf s (tripKey i 0x10) 0 16 * (10 * usec) ≤ t.now := by
  refine ⟨_, congrArg Host.Outcome.next (if_neg (by simp [hl, ha, hst, hn])), ?_⟩
  dsimp only
  rw [tripIn_congr (logHap_trips _ _), tripIn_raiseTrip, tripIn_setTrip_same, rdb, rd_logHap, ← rdb,
    rdb_raiseTrip _ (by decide) (.inr (by decide)) (tripKey_guardKey i.isLt (by decide)).not_mergeKey, rdb_setTrip,
    rdb_wrb_same _ _ _ _ (by decide), logHap_now, raiseTrip_now]
  exact ⟨rfl, rfl, le_upto_now _ s⟩

/-- While the filtered input is inactive a clear of HELD leaves it 0. -/
theorem clearHeld_clears {i : Nat} {s : State} (hi : i < 48) (ha : (tripIn s i).active = false) :
    rdb (clearHeld i s) (tripKey i 0x18) 3 = false := by
  unfold clearHeld
  dsimp only
  split
  next h => exact Bool.not_eq_true' _ ▸ h
  next =>
    rw [if_neg (by simp [ha]), rdb_raiseTrip _ (by decide) (.inr (by decide)) (tripKey_guardKey hi (by decide)).not_mergeKey, rdb,
      rd_settle]
    exact rdb_wrb_same _ _ _ _ (by decide)

theorem heldClear_completes {m : Master} {i : Fin 48} {s : State} (h : reaches s m .trip 0x118 = true)
    (ha : (tripIn s i).active = false) :
    ∃ t, exec (.heldClear m i) s = .next t ∧ rdb t (tripKey i 0x18) 3 = false := by
  refine ⟨_, congrArg Host.Outcome.next (byBus_reaches (reaches_guard (.inl rfl) h _)), ?_⟩
  rw [rdb, rd_busCycle]
  exact clearHeld_clears i.isLt ((congrArg TripIn.active (tripIn_congr (pmcAccess_trips _ _ _ _ s) i)).trans ha)

/-! A write of TRt_CFG (R172) -/

/-- TRt_CFG takes the value written, with FILT at most 100; a reaction that starts leaves it. -/
theorem rd_writeTripCfg (i : Nat) (v : Word) (s : State) : rd (writeTripCfg i v s) (tripKey i 0) =
    plainValue (tripKey i 0) (rd s (tripKey i 0)) (if 100 < fld v 0 7 then setFld v 0 7 100 else v) := by
  have hne : tripKey i 0 ≠ tripKey i 0x18 := tripKey_inj.not.mpr (by decide)
  have hreact : ∀ u, rd (startReaction i u) (tripKey i 0) = rd u (tripKey i 0) := fun u =>
    BitVec.eq_of_getLsbD_eq fun b hb => rdb_startReaction u hb (.inl hne)
  unfold writeTripCfg
  extract_lets k w u
  split
  · rw [hreact, rd_settle, plainWrite, rd_wr_same]
  · rw [rd_settle, plainWrite, rd_wr_same]

theorem tripActionWrite_completes {m : Master} {i : Fin 48} {v : Word} {s : State} (h : reaches s m .trip 0x100 = true)
    (hl : levelOk s (tripKey i 0) = true) (hf : stagingFull s = false) :
    ∃ t, exec (.tripActionWrite m i v) s = .next t ∧
      rd t (tripKey i 0) = plainValue (tripKey i 0) (rd s (tripKey i 0)) (if 100 < fld v 0 7 then setFld v 0 7 100 else v) := by
  obtain ⟨u, hu, -, hreg⟩ := byBus_rwlPath (n := 0) (act := writeTripCfg i v)
    (reaches_guard (.inl rfl) h (0x100 + 0x20 * i)) hl hf
  refine ⟨_, congrArg Host.Outcome.next hu, ?_⟩
  rw [rd_busCycle, rd_writeTripCfg, hreg _ (tripKey_guardKey i.isLt (by decide))]

/-- Settles O9: each clause is the lemma of its command. -/
theorem setsAndTripsComplete : Obligations.SetsAndTripsComplete := by
  unfold Obligations.SetsAndTripsComplete
  exact ⟨fun _ _ _ => safeStateSet_completes, fun _ _ _ => safeStateClear_completes, fun _ _ _ => tripPinChange_completes,
    fun _ _ => tripAssert_completes, fun _ _ => tripRelease_completes, fun _ _ => blankingEnd_reacts, fun _ _ => stuck_completes,
    fun _ _ _ => heldClear_completes, fun _ _ _ _ => tripActionWrite_completes⟩

end Sys2Proof.Machine
end

section
/-! Window monitors: a crossing sets its comparator, an enable starts settling, settling ends, a latch that no condition holds is
cleared, and the end of blanking brings LIVE up to date (R178 to R182). -/

namespace Sys2Proof.Machine

/-! LIVE (R180, R181) -/

/-- LIVE is decided by the configuration of the monitor and its blanking, and by ABOVE, BELOW and READY. -/
theorem monLive_congr {s t : State} {i : Nat} (h : CountsOnly s t)
    (hcfg : ∀ l, l < 96 → rd t (legKey l 0) = rd s (legKey l 0))
    (hwin : ∀ off, off < 0x18 → rd t (monKey i off) = rd s (monKey i off))
    (hbits : ∀ b, b < 2 ∨ b = 5 → rdb t (monKey i 0x18) b = rdb s (monKey i 0x18) b) : monLive t i = monLive s i := by
  have hmatch : monMatch t i = monMatch s i := by
    unfold monMatch
    dsimp only
    rw [← rdb, ← rdb, ← rdb, ← rdb, hbits 0 (by decide), hbits 1 (by decide), rdf, rdf, hwin 0 (by decide)]
  unfold monLive
  rw [monBlanked_congr h hcfg hwin, hmatch, hbits 5 (by decide), rdb, hwin 0 (by decide), ← rdb]

/-- LIVE and LATCHED of MONi_STAT do not enter into LIVE. -/
theorem monLive_wrb {b : Nat} (hb : b = 2 ∨ b = 3) (v : Bool) (s : State) (i : Nat) :
    monLive (wrb (monKey i 0x18) b v s) i = monLive s i := by
  have hcfg : ∀ l, l < 96 → legKey l 0 ≠ monKey i 0x18 := fun l hl => by
    simp only [legKey, monKey, rk, pageFirst]
    omega
  exact monLive_congr ⟨_, s.evr, s.cluster, rfl⟩ (fun l hl => rd_wrb_ne _ _ s (hcfg l hl))
    (fun off ho => rd_wrb_ne _ _ s (monKey_inj.not.mpr (by omega)))
    fun c hc => rdb_wrb_ne _ _ _ _ _ s (by omega) (.inr (by omega))

theorem monLive_countedWrite {i : Nat} (hi : i < 96) (m : Master) (t : PageType) (n off : Nat) (s : State) :
    monLive (countedWrite m t n off s) i = monLive s i := by
  have hmon : ∀ o, o < 0x20 → rd (countedWrite m t n off s) (monKey i o) = rd s (monKey i o) := fun o ho =>
    rd_countedWrite_guard (monKey_guardKey hi ho) m t n off s
  exact monLive_congr (countedWrite_countsOnly m t n off s) (fun l hl => rd_countedWrite_legCfg hl m t n off s)
    (fun o ho => hmon o (by omega)) fun b _ => congrArg (bit · b) (hmon 0x18 (by decide))

/-- Where a blanking window ends LIVE is cleared, and LATCHED in live mode: the condition that LIVE follows stays as it is. -/
theorem monLive_monDrop (s : State) (i : Nat) : monLive (monDrop i s) i = monLive s i := by
  unfold monDrop
  dsimp only
  split
  · rfl
  · split
    · rw [monLive_wrb (.inr rfl), monLive_wrb (.inl rfl)]
    · exact monLive_wrb (.inl rfl) _ _ _

/-! LIVE and LATCHED are brought up to date (R181, R182) -/

/-- A monitor that latches writes LATCHED and the count of its MONi_STAT, and no other of its registers. -/
theorem rd_monCross {i off : Nat} (hi : i < 96) (ho : off < 0x20) (s : State) : rd (monCross i s) (monKey i off) =
    rd (incHeld (monKey i 0x18) 16 16 (wrb (monKey i 0x18) 3 true s)) (monKey i off) := by
  have hraise : ∀ c u, rd (raise .cmp (i / 8) c u) (monKey i off) = rd u (monKey i off) := fun _ u =>
    rd_raise u (monKey_ne_raw ho _ _) (monKey_guardKey hi ho).not_mergeKey
  unfold monCross
  extract_lets s1 s2 act
  have h2 : rd s2 (monKey i off) = rd (incHeld (monKey i 0x18) 16 16 s1) (monKey i off) := hraise _ _
  split
  · rw [hraise, rd_latchSet _ _ _ (monKey_ne_setKey hi ho _ _) (monKey_ne_setKey hi ho _ _), h2]
  · exact h2

@[simp] theorem rd_truncate (i : Nat) (s : State) (k : Nat) : rd (truncate i s) k = rd s k :=
  rd_congr (Part.same_of_op (p := .regs) (m := 8388609) (by decide) (fun h => truncate_stays h i) s) k

/-- What an update can do once LIVE is written: the monitor latches; LATCHED follows LIVE, in live mode; or LATCHED stays. -/
theorem monUpdate_cases (i : Nat) (s : State) :
    ∃ u, (∀ k, rd u k = rd (wrb (monKey i 0x18) 2 (monLive s i) s) k) ∧
      (monLive s i = true ∧ monUpdate i s = monCross i u ∨
        rdf u (monKey i 0) 16 2 = 0 ∧ monUpdate i s = wrb (monKey i 0x18) 3 (monLive s i) u ∨ monUpdate i s = u) := by
  unfold monUpdate
  extract_lets k was live' latched s1 u
  have hu : ∀ k, rd u k = rd s1 k := fun k => by
    unfold u
    split
    · exact rd_truncate _ _ _
    · rfl
  refine ⟨u, hu, ?_⟩
  split
  next h0 =>
    split
    next h => exact .inl ⟨(Bool.and_eq_true_iff.mp h).1, rfl⟩
    next => exact .inr (.inl ⟨h0, rfl⟩)
  next =>
    split
    next h => exact .inl ⟨(Bool.and_eq_true_iff.mp h).1, rfl⟩
    next => exact .inr (.inr rfl)

section Update

variable {i : Nat} (hi : i < 96) (s : State)
include hi

/-- An update writes no register of the monitor but MONi_STAT. -/
theorem rd_monUpdate {off : Nat} (ho : off < 0x18) : rd (monUpdate i s) (monKey i off) = rd s (monKey i off) := by
  have hne : monKey i off ≠ monKey i 0x18 := monKey_inj.not.mpr (by omega)
  obtain ⟨u, hu, ⟨-, h⟩ | ⟨-, h⟩ | h⟩ := monUpdate_cases i s
  · rw [h, rd_monCross hi (by omega), incHeld, rd_wrf_ne _ _ _ _ hne, rd_wrb_ne _ _ _ hne, hu, rd_wrb_ne _ _ _ hne]
  · rw [h, rd_wrb_ne _ _ _ hne, hu, rd_wrb_ne _ _ _ hne]
  · rw [h, hu, rd_wrb_ne _ _ _ hne]

/-- Of the states in MONi_STAT it writes LIVE, and LATCHED at most. -/
theorem rdb_monUpdate {b : Nat} (hb : b < 16) (h3 : b ≠ 3) :
    rdb (monUpdate i s) (monKey i 0x18) b = if b = 2 then monLive s i else rdb s (monKey i 0x18) b := by
  have hwr : rdb (wrb (monKey i 0x18) 2 (monLive s i) s) (monKey i 0x18) b =
      if b = 2 then monLive s i else rdb s (monKey i 0x18) b := by
    split
    next h => rw [h, rdb_wrb_same _ _ _ _ (by decide)]
    next h => exact rdb_wrb_ne _ _ _ _ _ _ (by omega) (.inr h)
  have hcount : ∀ u, rdb (incHeld (monKey i 0x18) 16 16 u) (monKey i 0x18) b = rdb u (monKey i 0x18) b := fun u => by
    rw [rdb, incHeld, wrf, rd_wr_same, bit_setFld_ne _ _ _ _ _ (by omega) (.inl hb), ← rdb]
  obtain ⟨u, hu, ⟨-, h⟩ | ⟨-, h⟩ | h⟩ := monUpdate_cases i s
  · rw [h, rdb, rd_monCross hi (by decide), ← rdb, hcount, rdb_wrb_ne _ _ _ _ _ _ (by omega) (.inr h3), rdb, hu, ← rdb, hwr]
  · rw [h, rdb_wrb_ne _ _ _ _ _ _ (by omega) (.inr h3), rdb, hu, ← rdb, hwr]
  · rw [h, rdb, hu, ← rdb, hwr]

end Update

/-- Outside live mode LATCHED stays while LIVE is 0. -/
theorem rdb_monUpdate_latched {i : Nat} {s : State} (hmode : rdf s (monKey i 0) 16 2 ≠ 0) (hlive : monLive s i = false) :
    rdb (monUpdate i s) (monKey i 0x18) 3 = rdb s (monKey i 0x18) 3 := by
  obtain ⟨u, hu, ⟨hl, -⟩ | ⟨h0, -⟩ | h⟩ := monUpdate_cases i s
  · rw [hlive] at hl
    cases hl
  · rw [rdf, hu, rd_wrb_ne _ _ _ (monKey_inj.not.mpr (by decide))] at h0
    exact absurd h0 hmode
  · rw [h, rdb, hu, ← rdb]
    exact rdb_wrb_ne _ _ _ _ _ _ (by decide) (.inr (by decide))

theorem monUpdate_mons (i : Nat) (s : State) : (monUpdate i s).mons = s.mons :=
  Part.same_of_op (p := .mons) (m := 17592531550219) (by decide) (fun h => monUpdate_stays h i) s

theorem le_monUpdate_now (i : Nat) (s : State) : s.now ≤ (monUpdate i s).now :=
  (monUpdate_follows i (Follows.refl false false s)).time

/-! The commands -/

theorem monitorCrossing_completes {i : Fin 96} {before after : Int} {s : State} (hl : live s .pwm = true)
    (hen : rdb s (monKey i 0) 0 = true) (hb : before ≤ 4000 * sfld (inForce s (monKey i 0x04)) 0 10)
    (ha : 4000 * sfld (inForce s (monKey i 0x04)) 0 10 < after) :
    ∃ t, exec (.monitorCrossing i before after) s = .next t ∧ rdb t (monKey i 0x18) 0 = true := by
  refine ⟨_, congrArg Host.Outcome.next (if_neg (by simp [hl, hen])), ?_⟩
  extract_lets thr hi lo hy k s1 s2
  have h1 : rdb s1 k 0 = true := by
    unfold s1
    rw [if_pos ⟨hb, ha⟩, rdb_wrb_same _ _ _ _ (by decide)]
  have hbelow : ∀ v, rdb (wrb k 1 v s1) k 0 = true := fun v =>
    (rdb_wrb_ne k k 1 0 v s1 (by decide) (.inr (by decide))).trans h1
  have h2 : rdb s2 k 0 = true := by
    unfold s2
    split
    · exact hbelow true
    · split
      · exact hbelow false
      · exact h1
  rw [rdb_monUpdate i.isLt _ (by decide) (by decide), if_neg (by decide)]
  exact h2

/-- An enable that names the CDOM in force: the monitor settles for the time of its mode, with READY, ABOVE and BELOW at 0. -/
theorem writeMonCfg_enables {i : Nat} {v : Word} {s : State} (hv : bit v 0 = true) (hoff : rdb s (monKey i 0) 0 = false)
    (hcd : fld v 20 5 = fld (rd s (monKey i 0)) 20 5) (hd : fld v 20 5 < 24) (hm : fld v 16 2 ≠ 3) :
    ∃ u, writeMonCfg i v s =
        monUpdate i (setMon i { settle := some (s.now + [usec, 2 * usec, 5 * usec, 30 * usec].getD (fld v 1 2) 0) } u) ∧
      rd u (monKey i 0) = plainValue (monKey i 0) (rd s (monKey i 0)) v ∧ rdb u (monKey i 0x18) 5 = false := by
  have hold : bit (rd s (monKey i 0)) 0 = false := hoff
  have hne : monKey i 0 ≠ monKey i 0x18 := monKey_inj.not.mpr (by decide)
  refine ⟨wrb (monKey i 0x18) 0 false (wrb (monKey i 0x18) 1 false (wrb (monKey i 0x18) 5 false (plainWrite (monKey i 0) v s))),
    ?_, ?_, ?_⟩
  · unfold writeMonCfg
    simp only [if_neg hm, if_neg (Nat.not_le.mpr hd), decide_eq_false (not_not.mpr hcd), Bool.false_and, Bool.false_eq_true,
      if_false, hv, hold, Bool.not_false, Bool.true_or, Bool.true_and, if_true]
    have hmode : fld v 1 2 < 4 := fld_lt v 1 2
    generalize fld v 1 2 = n at hmode
    match n, hmode with
    | 0, _ | 1, _ | 2, _ | 3, _ => rfl
  · rw [rd_wrb_ne _ _ _ hne, rd_wrb_ne _ _ _ hne, rd_wrb_ne _ _ _ hne, plainWrite, rd_wr_same]
  · rw [rdb_wrb_ne _ _ _ _ _ _ (by decide) (.inr (by decide)), rdb_wrb_ne _ _ _ _ _ _ (by decide) (.inr (by decide)),
      rdb_wrb_same _ _ _ _ (by decide)]

theorem monitorEnable_completes {m : Master} {i : Fin 96} {v : Word} {s : State} (h : reaches s m .cmp 0x100 = true)
    (hv : bit v 0 = true) (hoff : rdb s (monKey i 0) 0 = false) (hcd : fld v 20 5 = fld (rd s (monKey i 0)) 20 5)
    (hd : fld v 20 5 < 24) (hm : fld v 16 2 ≠ 3) :
    ∃ t, exec (.monitorEnable m i v) s = .next t ∧ rd t (monKey i 0) = plainValue (monKey i 0) (rd s (monKey i 0)) v ∧
      (mon t i).settle = some (s.now + [usec, 2 * usec, 5 * usec, 30 * usec].getD (fld v 1 2) 0) ∧
      rdb t (monKey i 0x18) 5 = false := by
  have hreg : ∀ n off, rd (countedWrite m .cmp n off s) (monKey i 0) = rd s (monKey i 0) := fun n off =>
    rd_countedWrite_guard (monKey_guardKey i.isLt (by decide)) m .cmp n off s
  have hnow : ∀ n off, (countedWrite m .cmp n off s).now = s.now := fun _ _ => pmcAccess_now _ _ _ _ s
  obtain ⟨u, hu, hval, hready⟩ := writeMonCfg_enables (s := countedWrite m .cmp (i / 8) (0x100 + 0x20 * (i % 8)) s) hv
    ((congrArg (bit · 0) (hreg _ _)).trans hoff) (by rwa [hreg]) hd hm
  rw [hnow] at hu
  rw [hreg] at hval
  refine ⟨_, congrArg Host.Outcome.next (byBus_reaches (reaches_guard (.inr (.inl rfl)) h _)), ?_, ?_, ?_⟩ <;> rw [hu]
  · rw [rd_busCycle, rd_monUpdate i.isLt _ (by decide), rd_setMon, hval]
  · rw [mon_congr (busCycle_mons _), mon_congr (monUpdate_mons _ _), mon_setMon_same]
  · rw [rdb, rd_busCycle, ← rdb, rdb_monUpdate i.isLt _ (by decide) (by decide), if_neg (by decide), rdb, rd_setMon]
    exact hready

theorem monitorSettled_completes {i : Fin 96} {s : State} {a : Nat} (hl : live s .pwm = true) (hen : rdb s (monKey i 0) 0 = true)
    (ha : (mon s i).settle = some a) :
    ∃ t, exec (.monitorSettled i) s = .next t ∧ rdb t (monKey i 0x18) 5 = true ∧ (mon t i).settle = none ∧
      a ≤ t.now := by
  have hexec : execMonitorSettled i s = .next (monUpdate i (raise .cmp (i / 8) (4 * (i % 8) + 3)
      (wrb (monKey i 0x18) 5 true (setMon i {} (upto a s))))) := by
    simp only [execMonitorSettled, ha, hl, hen, Bool.not_true, Bool.or_self, Bool.false_eq_true, if_false]
  refine ⟨_, hexec, ?_, ?_, le_trans ?_ (le_monUpdate_now _ _)⟩
  · rw [rdb_monUpdate i.isLt _ (by decide) (by decide), if_neg (by decide), rdb,
      rd_raise _ (monKey_ne_raw (by decide) _ _) (monKey_guardKey i.isLt (by decide)).not_mergeKey]
    exact rdb_wrb_same _ _ _ _ (by decide)
  · rw [mon_congr (monUpdate_mons _ _), mon_congr (raise_mons _ _ _ _), mon_congr (wrb_mons _ _ _ _), mon_setMon_same]
  · rw [raise_now]
    exact le_upto_now a s

theorem latchedClear_completes {m : Master} {i : Fin 96} {s : State} (h : reaches s m .cmp 0x118 = true)
    (hmode : rdf s (monKey i 0) 16 2 = 1) (hlive : monLive s i = false) :
    ∃ t, exec (.latchedClear m i) s = .next t ∧ rdb t (monKey i 0x18) 3 = false := by
  have hmode' : ∀ n off, rdf (countedWrite m .cmp n off s) (monKey i 0) 16 2 ≠ 0 := fun n off => by
    rw [rdf, rd_countedWrite_guard (monKey_guardKey i.isLt (by decide)), ← rdf, hmode]
    decide
  refine ⟨_, congrArg Host.Outcome.next (byBus_reaches (reaches_guard (.inr (.inl rfl)) h _)), ?_⟩
  rw [rdb, rd_busCycle, ← rdb, clearLatched, if_pos (hmode' _ _), rdb_monUpdate_latched]
  · exact rdb_wrb_same _ _ _ _ (by decide)
  · rw [rdf, rd_wrb_ne _ _ _ (monKey_inj.not.mpr (by decide))]
    exact hmode' _ _
  · rw [monLive_wrb (.inr rfl), monLive_countedWrite i.isLt, hlive]

theorem blankingEnd_updates {i : Fin 96} {s : State} (hl : live s .pwm = true) (hb : monBlanked s i = false) :
    ∃ t, exec (.blankingEnd true i) s = .next t ∧ rdb t (monKey i 0x18) 2 = monLive s i := by
  refine ⟨monUpdate i (monDrop i s), congrArg Host.Outcome.next (by simp [hl, hb]), ?_⟩
  rw [rdb_monUpdate i.isLt _ (by decide) (by decide), if_pos rfl, monLive_monDrop]

/-- Settles O10: each clause is the lemma of its command. -/
theorem monitorsComplete : Obligations.MonitorsComplete := by
  unfold Obligations.MonitorsComplete
  exact ⟨fun _ _ _ _ => monitorCrossing_completes, fun _ _ _ _ => monitorEnable_completes,
    fun _ _ _ => monitorSettled_completes, fun _ _ _ => latchedClear_completes, fun _ _ => blankingEnd_updates⟩

end Sys2Proof.Machine
end

section
/-! Direct drivers: a phase is enabled, its supplies fail and return, its sense voltage is judged after blanking, and REG_EN falls
and rises (R186 to R190). -/

namespace Sys2Proof.Machine

/-! Detections (R188, R189) -/

/-- A comparator of a phase detects: its cause in PHi_STAT, its count, and its event. -/
def phaseDetected (p : Nat) (gross : Bool) (s : State) : State :=
  raise .drv (p / 4) (8 * (p % 4) + (if gross then 1 else 0))
    (incHeld (phKey p 0x08) 0 16 (wrb (phKey p 0x04) (if gross then 4 else 3) true s))

/-- The first detection in a group: FAULT, the hold of its phases, the set it names, and a log entry. -/
def firstDetected (g : Nat) (s : State) : State :=
  let t := settle s (setDrv g { drvGrp s g with firstTick := ticks s } (wrb (rk .drv g 0x044) 2 true s))
  let cfg := rd s (rk .drv g 0x040)
  logHap (pageNo .drv g) (if bit cfg 8 then latchSet (fld cfg 4 4) 3 g t else t)

/-- A detection: the phase's part; the group's, unless its FAULT stands; and the phase in FIRST, where it is in time, and in
RECORD. -/
theorem detect_eq (p : Nat) (gross : Bool) (s : State) : ∃ inTime, detect p gross s =
    raise .drv (p / 4) (8 * (p % 4) + 4) (wrb (rk .drv (p / 4) 0x044) (8 + p % 4) true
      (onlyIf inTime (wrb (rk .drv (p / 4) 0x044) (4 + p % 4) true)
        (onlyIf (!(rdb (phaseDetected p gross s) (rk .drv (p / 4) 0x044) 2)) (firstDetected (p / 4))
          (phaseDetected p gross s)))) :=
  ⟨_, rfl⟩

/-- A quantity that no update in a detection changes is what the phase's part of it leaves. -/
theorem detect_keeps {β : Type} {π : State → β} {p : Nat} (gross : Bool) (s : State)
    (hraise : ∀ c u, π (raise .drv (p / 4) c u) = π u) (hwr : ∀ b u, π (wrb (rk .drv (p / 4) 0x044) b true u) = π u)
    (hfirst : ∀ u, π (firstDetected (p / 4) u) = π u) : π (detect p gross s) = π (phaseDetected p gross s) := by
  have hif : ∀ {c f u}, (∀ u, π (f u) = π u) → π (onlyIf c f u) = π u := fun {c f u} hf => by
    unfold onlyIf
    split
    · exact hf u
    · rfl
  obtain ⟨inTime, h⟩ := detect_eq p gross s
  rw [h, hraise, hwr, hif (hwr _), hif hfirst]

/-- The first detection of a group writes its GRP_STAT, and the registers of the set that it latches. -/
theorem rd_firstDetected {g off n : Nat} (hstat : rk .drv n off ≠ rk .drv g 0x044) (s : State) :
    rd (firstDetected g s) (rk .drv n off) = rd s (rk .drv n off) := by
  have hlatch : ∀ w kind id u, rd (latchSet (fld w 4 4) kind id u) (rk .drv n off) = rd u (rk .drv n off) := fun w kind id u =>
    rd_latchSet kind id u (drvKey_ne_setKey (fld_lt w 4 4) (by decide) _ _) (drvKey_ne_setKey (fld_lt w 4 4) (by decide) _ _)
  unfold firstDetected
  dsimp only
  rw [rd_logHap, apply_ite (rd · _), hlatch, ite_self, rd_settle, rd_setDrv, rd_wrb_ne _ _ _ hstat]

/-- A detection writes its cause in PHi_STAT and its count, and no other register of the phase. -/
theorem rd_detect {p off : Nat} (hp : p < 16) (ho : off < 0x20) (gross : Bool) (s : State) : rd (detect p gross s) (phKey p off) =
    rd (incHeld (phKey p 0x08) 0 16 (wrb (phKey p 0x04) (if gross then 4 else 3) true s)) (phKey p off) := by
  have hstat : phKey p off ≠ rk .drv (p / 4) 0x044 := phKey_ne_drvKey ho (by decide) _ _
  have hraise : ∀ c u, rd (raise .drv (p / 4) c u) (phKey p off) = rd u (phKey p off) := fun _ u =>
    rd_raise u (phKey_ne_drvKey ho (by decide) _ _) (phKey_guardKey hp ho).not_mergeKey
  exact (detect_keeps (π := (rd · (phKey p off))) gross s hraise (fun _ _ => rd_wrb_ne _ _ _ hstat)
    (rd_firstDetected hstat)).trans (hraise _ _)

theorem rd_detect_cfg {p : Nat} (hp : p < 16) (gross : Bool) (s : State) :
    rd (detect p gross s) (phKey p 0) = rd s (phKey p 0) := by
  rw [rd_detect hp (by decide), incHeld, rd_wrf_ne _ _ _ _ (phKey_inj.not.mpr (by decide)),
    rd_wrb_ne _ _ _ (phKey_inj.not.mpr (by decide))]

/-- The cause of a detection stands in PHi_STAT, and each that stood before. -/
theorem rdb_detect_stat {p b : Nat} (hp : p < 16) (hb : b < 32) (gross : Bool) (s : State)
    (h : b = (if gross then 4 else 3) ∨ rdb s (phKey p 0x04) b = true) : rdb (detect p gross s) (phKey p 0x04) b = true := by
  rw [rdb, rd_detect hp (by decide), incHeld, rd_wrf_ne _ _ _ _ (phKey_inj.not.mpr (by decide)), ← rdb]
  by_cases hc : b = if gross then 4 else 3
  · rw [← hc]
    exact rdb_wrb_same _ _ _ _ hb
  · rw [rdb_wrb_ne _ _ _ _ _ _ hb (.inr hc)]
    exact h.resolve_left hc

theorem rdb_firstDetected_fault (g : Nat) (s : State) : rdb (firstDetected g s) (rk .drv g 0x044) 2 = true := by
  have hset : ∀ w, rk .drv g 0x044 ≠ setKey (fld w 4 4) 0x14 ∧ rk .drv g 0x044 ≠ setKey (fld w 4 4) 0x1C := fun w =>
    ⟨drvKey_ne_setKey (fld_lt w 4 4) (by decide) _ _, drvKey_ne_setKey (fld_lt w 4 4) (by decide) _ _⟩
  unfold firstDetected
  dsimp only
  rw [rdb, rd_logHap, apply_ite (rd · _), rd_latchSet _ _ _ (hset _).1 (hset _).2, ite_self, rd_settle, rd_setDrv, ← rdb]
  exact rdb_wrb_same _ _ _ _ (by decide)

/-- After a detection FAULT of its group stands. -/
theorem rdb_detect_fault {p : Nat} (hp : p < 16) (gross : Bool) (s : State) :
    rdb (detect p gross s) (rk .drv (p / 4) 0x044) 2 = true := by
  have hkey : guardKey (rk .drv (p / 4) 0x044) := drvKey_guardKey (by omega) (by decide)
  have hgroup : ∀ u, rdb (onlyIf (!(rdb u (rk .drv (p / 4) 0x044) 2)) (firstDetected (p / 4)) u)
      (rk .drv (p / 4) 0x044) 2 = true := fun u => by
    unfold onlyIf
    split
    · exact rdb_firstDetected_fault _ u
    next h => simpa using h
  have hmark : ∀ b u, 2 < b → rdb (wrb (rk .drv (p / 4) 0x044) b true u) (rk .drv (p / 4) 0x044) 2 =
      rdb u (rk .drv (p / 4) 0x044) 2 := fun b u hb => rdb_wrb_ne _ _ _ _ _ _ (by decide) (.inr (by omega))
  obtain ⟨inTime, h⟩ := detect_eq p gross s
  rw [h, rdb, rd_raise _ (rk_inj.not.mpr (by decide)) hkey.not_mergeKey, ← rdb, hmark _ _ (by omega), onlyIf]
  split
  · exact (hmark _ _ (by omega)).trans (hgroup _)
  · exact hgroup _

theorem mv_detect (p : Nat) (gross : Bool) (s : State) (q : Nat) : (phase (detect p gross s) q).mv = (phase s q).mv := by
  have hraise : ∀ c u, (phase (raise .drv (p / 4) c u) q).mv = (phase u q).mv := fun c u =>
    congrArg Phase.mv (phase_congr (raise_phases _ _ c u) q)
  have hfirst : ∀ u, (phase (firstDetected (p / 4) u) q).mv = (phase u q).mv := fun u => by
    unfold firstDetected
    dsimp only
    rw [phase_congr (logHap_phases _ _), apply_ite (fun t => (phase t q).mv), mv_latchSet, ite_self]
    exact mv_settle _ _ q
  exact (detect_keeps (π := fun t => (phase t q).mv) gross s hraise (fun _ _ => rfl) hfirst).trans (hraise _ _)

theorem detect_now (p : Nat) (gross : Bool) (s : State) : (detect p gross s).now = s.now :=
  Part.same_of_op (p := .now) (m := 17593068421130) (by decide) (fun h => detect_stays h p gross) s

/-- The comparators of a phase lead to detections alone: what every detection keeps stays. -/
theorem sensed_keeps {β : Type} {π : State → β} {p : Nat} (h : ∀ gross u, π (detect p gross u) = π u) (s t : State) :
    π (sensed p s t) = π t := by
  unfold sensed
  split
  · rfl
  · extract_lets t'
    have h' : π t' = π t := by
      unfold t'
      split
      · exact h _ _
      · rfl
    split
    · exact (h _ _).trans h'
    · exact h'

/-- A sense voltage that comes to exceed OC_TH outside blanking is detected; what one detection sets, a further one keeps. -/
theorem sensed_detects {p : Nat} {s t : State} (hp : p < 16) (hen : phEn t p = true) (hover : overOc t p = true)
    (hwas : overOc s p = false) (hb : drvBlanked t p = false) :
    rdb (sensed p s t) (phKey p 0x04) 3 = true ∧ rdb (sensed p s t) (rk .drv (p / 4) 0x044) 2 = true := by
  have h3 := rdb_detect_stat hp (by decide) false t (.inl rfl)
  simp only [sensed, hen, hover, hwas, hb, Bool.not_true, Bool.not_false, Bool.and_self, Bool.false_eq_true, if_false, if_true]
  split
  · exact ⟨rdb_detect_stat hp (by decide) _ _ (.inr h3), rdb_detect_fault hp _ _⟩
  · exact ⟨h3, rdb_detect_fault hp _ _⟩

theorem mv_sensed (p : Nat) (s t : State) (q : Nat) : (phase (sensed p s t) q).mv = (phase t q).mv :=
  sensed_keeps (π := fun u => (phase u q).mv) (fun _ _ => mv_detect _ _ _ q) s t

/-! A write of PHi_CFG (R186) -/

/-- With the leg off and a BLANK in range, PHi_CFG takes the value written. -/
theorem rd_writePhCfg {p : Nat} {v : Word} {s : State} (hp : p < 16) (ho : outMode s (80 + p) = 0) (hlo : 5 ≤ fld v 8 7)
    (hhi : fld v 8 7 ≤ 80) : rd (writePhCfg p v s) (phKey p 0) = plainValue (phKey p 0) (rd s (phKey p 0)) v := by
  have hblank : (fld v 8 7 < 5 || 80 < fld v 8 7 : Bool) = false := by simp; omega
  have hset : rd (settle s (plainWrite (phKey p 0) v s)) (phKey p 0) = plainValue (phKey p 0) (rd s (phKey p 0)) v := by
    rw [rd_settle, plainWrite, rd_wr_same]
  unfold writePhCfg
  simp only [hblank, ho, ne_eq, not_true_eq_false, decide_false, Bool.and_false, Bool.false_eq_true, if_false]
  split
  · exact (sensed_keeps (π := (rd · (phKey p 0))) (rd_detect_cfg hp) s _).trans hset
  · exact hset

theorem phaseEnableWrite_completes {m : Master} {p : Fin 16} {v : Word} {s : State} (h : reaches s m .drv 0x100 = true)
    (hl : levelOk s (phKey p 0) = true) (hf : stagingFull s = false) (ho : outMode s (80 + p) = 0) (hlo : 5 ≤ fld v 8 7)
    (hhi : fld v 8 7 ≤ 80) :
    ∃ t, exec (.phaseEnableWrite m p v) s = .next t ∧ rd t (phKey p 0) = plainValue (phKey p 0) (rd s (phKey p 0)) v := by
  obtain ⟨u, hu, hact, hreg⟩ := byBus_rwlPath (n := p / 4) (act := writePhCfg p v)
    (reaches_guard (.inr (.inr rfl)) h (0x100 + 0x20 * (p % 4))) hl hf
  have hmode : outMode u (80 + p) = 0 := by
    rw [outMode, actf, inForce, hact]
    exact ho
  refine ⟨_, congrArg Host.Outcome.next hu, ?_⟩
  rw [rd_busCycle, rd_writePhCfg p.isLt hmode hlo hhi, hreg _ (phKey_guardKey p.isLt (by decide))]

/-! Supplies (R187) -/

theorem raiseGroup_drvs (g c : Nat) (s : State) : (raiseGroup g c s).drvs = s.drvs :=
  Part.same_of_op (p := .drvs) (m := 524296) (by decide) (fun h => raiseGroup_stays h g c) s

theorem drvGrp_settle (us s : State) (g : Nat) : drvGrp (settle us s) g = drvGrp s g := drvGrp_congr (settle_drvs us s) g

theorem vdrvUv_completes {g : Fin 4} {s : State} (hl : live s .pwm = true) (hok : (drvGrp s g).vdrvOk = true) :
    ∃ t, exec (.vdrvUv g) s = .next t ∧ (drvGrp t g).vdrvOk = false := by
  refine ⟨_, congrArg Host.Outcome.next (if_pos (by simp [hl, hok])), ?_⟩
  rw [drvGrp_congr (raiseGroup_drvs _ _ _), drvGrp_settle, drvGrp_setDrv_same]

theorem vdrvOk_completes (g : Fin 4) (s : State) : ∃ t, exec (.vdrvOk g) s = .next t ∧ (drvGrp t g).vdrvOk = true := by
  refine ⟨_, rfl, ?_⟩
  dsimp only
  split
  · rw [drvGrp_settle, drvGrp_setDrv_same]
  · rw [drvGrp_setDrv_same]

theorem bstUv_completes {p : Fin 16} {s : State} (hl : live s .pwm = true) (hok : (phase s p).bstOk = true) :
    ∃ t, exec (.bstUv p) s = .next t ∧ (phase t p).bstOk = false ∧
      rdf t (phKey p 0x08) 16 16 = held 65535 (rdf s (phKey p 0x08) 16 16 + 1) := by
  have hheld : ∀ n, held 65535 n % 2 ^ 16 = held 65535 n := fun n =>
    Nat.mod_eq_of_lt (Nat.lt_succ_of_le (held_le 65535 n))
  refine ⟨_, congrArg Host.Outcome.next (if_pos (by simp [hl, hok])), ?_, ?_⟩
  · rw [phase_congr (raise_phases _ _ _ _), phase_congr (incHeld_phases _ _ _ _), phase_setPhase_same]
  · rw [rdf, rd_raise _ (phKey_ne_drvKey (by decide) (by decide) _ _) (phKey_guardKey p.isLt (by decide)).not_mergeKey, ← rdf,
      incHeld, rdf_wrf_same _ _ _ _ _ (by decide)]
    exact hheld _

theorem bstOk_completes (p : Fin 16) (s : State) : ∃ t, exec (.bstOk p) s = .next t ∧ (phase t p).bstOk = true :=
  ⟨_, rfl, congrArg Phase.bstOk (phase_setPhase_same _ _ s)⟩

/-! The sense voltage (R188, R189) -/

theorem drvBlankingEnd_completes {p : Fin 16} {e : Nat} {s : State} (hl : live s .pwm = true) (hen : phEn s p = true)
    (hend : drvBlankEnd s p = some e) (hover : overOc s p = true) :
    ∃ t, exec (.drvBlankingEnd p) s = .next t ∧ rdb t (phKey p 0x04) 3 = true ∧ e ≤ t.now := by
  have hover' : overOc (setPhase p { phase s p with blankAt := e } (upto e s)) p = true := by
    rw [overOc, phase_setPhase_same]
    exact hover
  have hexec : execDrvBlankingEnd p s = .next (detect p false (setPhase p { phase s p with blankAt := e } (upto e s))) := by
    simp only [execDrvBlankingEnd, hl, hen, hend, Bool.not_true, Bool.or_self, Bool.false_eq_true, if_false]
    exact congrArg Host.Outcome.next (if_pos hover')
  refine ⟨_, hexec, rdb_detect_stat p.isLt (by decide) _ _ (.inl rfl), ?_⟩
  rw [detect_now]
  exact le_upto_now e s

theorem senseDetection_senses (p : Fin 16) (mv : Nat) (s : State) :
    ∃ t, exec (.senseDetection p mv) s = .next t ∧ (phase t p).mv = mv := by
  refine ⟨_, rfl, ?_⟩
  dsimp only
  split
  · rw [mv_sensed, phase_setPhase_same]
  · rw [phase_setPhase_same]

theorem senseDetection_detects {p : Fin 16} {mv : Nat} {s : State} (hl : live s .pwm = true) (hen : phEn s p = true)
    (hwas : overOc s p = false) (hb : drvBlanked s p = false) (hover : 8 * rdf s (phKey p 0) 16 8 < mv) :
    ∃ t, exec (.senseDetection p mv) s = .next t ∧ (phase t p).mv = mv ∧ rdb t (phKey p 0x04) 3 = true ∧
      rdb t (rk .drv (p / 4) 0x044) 2 = true := by
  have hover' : overOc (setPhase p { phase s p with mv := mv } s) p = true := by
    rw [overOc, phase_setPhase_same]
    exact decide_eq_true hover
  refine ⟨_, congrArg Host.Outcome.next (if_pos hl), ?_, sensed_detects p.isLt hen hover' hwas hb⟩
  rw [mv_sensed, phase_setPhase_same]

/-! REG_EN (R190) -/

theorem regEnLow_completes (g : Fin 4) (s : State) :
    ∃ t, exec (.regEnLow g) s = .next t ∧ (drvGrp t g).off = true ∧ (drvGrp t g).regEn = false := by
  refine ⟨_, rfl, ?_⟩
  rw [drvGrp_settle, drvGrp_setDrv_same]
  exact ⟨rfl, rfl⟩

theorem regEnRise_completes {g : Fin 4} {s : State} (hl : live s .pwm = true) :
    ∃ t, exec (.regEnRise g) s = .next t ∧ (drvGrp t g).regEn = true ∧ (drvGrp t g).off = false := by
  have hphases : ∀ {l : List Nat} u, (forEach l (fun i u => wrf (phKey (4 * g + i) 0x04) 3 2 0 u) u).drvs = u.drvs :=
    forEach_mem_keeps (π := State.drvs) fun _ _ _ => rfl
  refine ⟨_, congrArg Host.Outcome.next (if_neg (by simp [hl])), ?_⟩
  split
  next hoff =>
    rw [drvGrp_setDrv_same]
    exact ⟨rfl, Bool.not_eq_true' _ ▸ hoff⟩
  next =>
    dsimp only
    rw [drvGrp_settle]
    split
    · rw [drvGrp_congr (logHap_drvs _ _), drvGrp_congr (raiseGroup_drvs _ _ _), drvGrp_congr (wrb_drvs _ _ _ _),
        drvGrp_setDrv_same]
      exact ⟨rfl, rfl⟩
    · rw [drvGrp_congr (raiseGroup_drvs _ _ _), drvGrp_congr (wrf_drvs _ _ _ _ _), drvGrp_congr (wrb_drvs _ _ _ _),
        drvGrp_congr (hphases _), drvGrp_setDrv_same]
      exact ⟨rfl, rfl⟩

/-- Settles O11: each clause is the lemma of its command. -/
theorem driversComplete : Obligations.DriversComplete := by
  unfold Obligations.DriversComplete
  exact ⟨fun _ _ _ _ => phaseEnableWrite_completes, fun _ _ => vdrvUv_completes, fun g s _ => vdrvOk_completes g s,
    fun _ _ => bstUv_completes, fun p s _ => bstOk_completes p s, fun _ _ _ => drvBlankingEnd_completes,
    fun p mv s _ => senseDetection_senses p mv s, fun _ _ _ => senseDetection_detects, fun g s _ => regEnLow_completes g s,
    fun _ _ => regEnRise_completes⟩

end Sys2Proof.Machine
end

section
/-! The grid ports and the islanding function through each update, the plant's registers among the others, and what Plumb's
reactions leave of both. -/

namespace Sys2Proof.Machine

/-! Ports, and the state of the islanding function -/

theorem grid_congr {s t : State} (h : t.grids = s.grids) (g : Nat) : grid t g = grid s g := congrArg (smGet grid0 · g) h

@[simp] theorem grid_setGrid_same (g : Nat) (x : Grid) (s : State) : grid (setGrid g x s) g = x := smGet_smSet_same _ _ _ _

@[simp] theorem grid_onGrid_same (g : Nat) (f : Grid → Grid) (s : State) : grid (onGrid g f s) g = f (grid s g) :=
  grid_setGrid_same _ _ _

@[simp] theorem grid_raise (t : PageType) (p k : Nat) (s : State) (g : Nat) : grid (raise t p k s) g = grid s g :=
  grid_congr (raise_grids t p k s) g

@[simp] theorem grid_wr (k : Nat) (v : Word) (s : State) (g : Nat) : grid (wr k v s) g = grid s g := rfl

@[simp] theorem grid_busCycle (s : State) (g : Nat) : grid (busCycle s) g = grid s g := rfl

@[simp] theorem grid_countedWrite (m : Master) (t : PageType) (n off : Nat) (s : State) (g : Nat) :
    grid (countedWrite m t n off s) g = grid s g := grid_congr (pmcAccess_grids _ _ _ _ s) g

@[simp] theorem raiseIsl_isl (k : Nat) (s : State) : (raiseIsl k s).isl = s.isl := raise_isl _ _ _ _

@[simp] theorem onIsl_isl (f : Isl → Isl) (s : State) : (onIsl f s).isl = f s.isl := rfl

@[simp] theorem countedWrite_isl (m : Master) (t : PageType) (n off : Nat) (s : State) :
    (countedWrite m t n off s).isl = s.isl := pmcAccess_isl _ _ _ _ s

theorem contactor_congr {s t : State} {g : Nat} (hsout : t.souts = s.souts) (hout : portOuts t g = portOuts s g)
    (hcfg : rd t (gridKey g 0x040) = rd s (gridKey g 0x040)) : contactor t g = contactor s g := by
  unfold contactor soutMine gridSout sout rdf
  rw [hsout, hout, hcfg]

/-! The plant's registers -/

/-- A register of the pages between those of the core and those of Plumb. -/
def plantKey (k : Nat) : Prop := 0x100000 ≤ k ∧ k < 0x700000

theorem plantKey.not_countKey {k : Nat} (h : plantKey k) : ¬ countKey k := by
  simp only [plantKey, countKey, mergeKey, pmcKey, rk, pageFirst] at h ⊢
  omega

theorem plantKey.not_mergeKey {k : Nat} (h : plantKey k) : ¬ mergeKey k := fun hm => h.not_countKey (.inl hm)

theorem plantKey.ne_plKey {k : Nat} (h : plantKey k) (off : Nat) : k ≠ plKey off := by
  simp only [plantKey, plKey, rk, pageFirst] at h ⊢
  omega

theorem plantKey.ne_sysRaw {k : Nat} (h : plantKey k) : k ≠ rk .sys 0 0x010 := by
  simp only [plantKey, rk, pageFirst] at h ⊢
  omega

theorem gridKey_plantKey {g off : Nat} (hg : g < 4) (ho : off < 0x1000) : plantKey (gridKey g off) := by
  simp only [plantKey, gridKey, rk, pageFirst]
  omega

theorem islKey_plantKey {off : Nat} (ho : off < 0x1000) : plantKey (islKey off) := by
  simp only [plantKey, islKey, rk, pageFirst]
  omega

theorem islKey_inj {a b : Nat} : islKey a = islKey b ↔ a = b := rk_inj

/-- Counting an access writes no register of the plant. -/
theorem rd_pmcAccess_plant {k : Nat} (hk : plantKey k) (m : Doer) (store : Bool) (a : Nat) (page : Bool) (s : State) :
    rd (pmcAccess m store a page s) k = rd s k :=
  rd_pmcAccess hk.not_countKey _ _ _ _

theorem rd_countedWrite_plant {k : Nat} (hk : plantKey k) (m : Master) (t : PageType) (n off : Nat) (s : State) :
    rd (countedWrite m t n off s) k = rd s k :=
  rd_pmcAccess_plant hk _ _ _ _ s

/-! Plumb's reactions write registers of Plumb and of SYS, and what an occurrence may write -/

section Plumb

variable {k : Nat} (hk : plantKey k) (s : State)
include hk

theorem rd_raisePl_plant (c : Nat) : rd (raisePl c s) k = rd s k := rd_raise s (hk.ne_plKey 0x010) hk.not_mergeKey

theorem rd_soutTo_plant (n : Nat) (st : SoutState) : rd (soutTo n st s) k = rd s k := by
  unfold soutTo
  split
  · rfl
  · exact rd_raisePl_plant hk _ _

theorem rd_abortTest_plant (n : Nat) : rd (abortTest n s) k = rd s k := by
  unfold abortTest
  dsimp only
  split
  · rfl
  · rw [rd_raisePl_plant hk, incHeld, rd_wrf_ne _ _ _ _ (hk.ne_plKey _), rd_onSout]

theorem rd_soutOff_plant (n : Nat) : rd (soutOff n s) k = rd s k := by
  unfold soutOff
  dsimp only
  split
  · rw [rd_soutTo_plant hk, rd_onSout, rd_abortTest_plant hk]
  · rfl

theorem rd_soutFault_plant (n : Nat) : rd (soutFault n s) k = rd s k := by rw [soutFault, rd_soutTo_plant hk, rd_onSout]

theorem rd_bookAction_plant (kind page off master : Nat) (old new : Word) :
    rd (bookAction kind page off master old new s) k = rd s k := by
  have hplace : ∀ e u, rd (placeEntry e u) k = rd u k := fun e u => by
    unfold placeEntry
    dsimp only
    split
    · exact rd_raise _ (hk.ne_plKey 0x010) hk.not_mergeKey
    · rfl
  unfold bookAction
  dsimp only
  split
  · exact hplace _ _
  · split <;> rfl

theorem rd_spoDemand_plant (c : Nat) : rd (spoDemand c s) k = rd s k := by
  unfold spoDemand
  dsimp only
  split
  · rfl
  · rw [rd_raisePl_plant hk, rd_logHap, rd_bookAction_plant hk, rd_settle, rd_onPlumb, rd_onPlumb]

theorem rd_checkOutEn_plant : rd (checkOutEn s) k = rd s k := by
  unfold checkOutEn
  split
  · exact rd_raise _ hk.ne_sysRaw hk.not_mergeKey
  · rfl

theorem rd_spoOff_plant : rd (spoOff s) k = rd s k := by
  unfold spoOff
  dsimp only
  rw [rd_checkOutEn_plant hk, rd_raisePl_plant hk, rd_logHap, rd_milestone, rd_settle]
  rfl

theorem rd_spoSource_plant (c : Nat) (on : Bool) : rd (spoSource c on s) k = rd s k := by
  have hinactive : rd (spoInactive c s) k = rd s k := by
    unfold spoInactive
    dsimp only
    split
    · rw [rd_spoOff_plant hk, rd_bookAction_plant hk, rd_onPlumb]
    · rfl
  unfold spoSource
  split
  · split
    · rfl
    · exact rd_spoDemand_plant hk s c
  · split
    · exact hinactive
    · rfl

theorem rd_islandReport_plant (p : Nat) (on : Bool) : rd (islandReport p on s) k = rd s k := by
  unfold islandReport plumbEval stuckOutputs
  dsimp only
  rw [rd_forEach_occur fun n u => rd_soutFault_plant hk u n, rd_forEach_occur fun n u => rd_soutOff_plant hk u n, rd_onPlumb,
    rd_forEach_occur fun (e : Nat × Bool) u => rd_spoSource_plant hk u e.1 e.2, rd_onPlumb]

end Plumb

theorem islandReport_isl (p : Nat) (on : Bool) (s : State) : (islandReport p on s).isl = s.isl :=
  Part.same_of_op (p := .isl) (m := 295471242) (by decide) (fun h => islandReport_stays h p on) s

theorem islandReport_datum (p : Nat) (on : Bool) (s : State) : (islandReport p on s).datum = s.datum :=
  Part.same_of_op (p := .datum) (m := 295471242) (by decide) (fun h => islandReport_stays h p on) s

theorem islandReport_doms (p : Nat) (on : Bool) (s : State) : (islandReport p on s).doms = s.doms :=
  Part.same_of_op (p := .doms) (m := 295471242) (by decide) (fun h => islandReport_stays h p on) s

theorem portOpen_grids (p : Nat) (s : State) : (portOpen p s).grids = s.grids :=
  Part.same_of_op (p := .grids) (m := 557064) (by decide) (fun h => portOpen_stays h p) s

theorem logWith_grids (page : Nat) (payload : List Word) (s : State) : (logWith page payload s).grids = s.grids :=
  Part.same_of_op (p := .grids) (m := 1048578) (by decide) (fun h => logWith_stays h page payload) s

theorem islPoll_grids (before s : State) : (islPoll before s).grids = s.grids :=
  Part.same_of_op (p := .grids) (m := 584411023498) (by decide) (fun h => islPoll_stays h before) s

end Sys2Proof.Machine
end

section
/-! Grid ports: a connect and a disconnect, and the steps of an update that measure (R203, R204, R219, R223). -/

namespace Sys2Proof.Machine

/-! Entering a state (R219) -/

/-- A port as it enters a state. -/
def Grid.entered (st now : Nat) (x : Grid) : Grid :=
  { x with st := st, holdAt := none, rsAt := none, confirm := none, moving := false, connReq := false,
           closeAt := (if st = 3 then now else x.closeAt), coastAt := (if st = 6 then now else x.coastAt),
           idr := (if currentEn st then x.idr else 0), iqr := (if currentEn st then x.iqr else 0) }

theorem tripCause_grids (g cause entry : Nat) (s : State) : (tripCause g cause entry s).grids = s.grids :=
  Part.same_of_op (p := .grids) (m := 524296) (by decide) (fun h => tripCause_stays h g cause entry) s

/-- What follows the change of state, causes, the trouble log and the open request, is no matter of the port's record. -/
theorem grid_gridTo (g st cause entry : Nat) (s : State) : grid (gridTo g st cause entry s) g =
    if (grid s g).st = st then grid s g else (grid s g).entered st s.now := by
  unfold gridTo
  extract_lets old now s1 s2 s3 s4
  have h4 : grid s4 g = (grid s g).entered st s.now := by
    have h2 : grid s2 g = (grid s g).entered st s.now := by
      unfold s2 raiseGrid
      rw [grid_raise, grid_congr (logWith_grids _ _ _)]
      exact grid_onGrid_same _ _ _
    have h3 : grid s3 g = grid s2 g := by
      unfold s3
      split
      · exact grid_raise _ _ _ _ _
      · split
        · exact grid_raise _ _ _ _ _
        · rfl
    unfold s4
    split
    · rw [grid_congr (tripCause_grids _ _ _ _), h3, h2]
    · rw [h3, h2]
  split
  · rfl
  · split
    · rw [grid_congr (portOpen_grids _ _), h4]
    · exact h4

/-- A field that entering a state leaves alone. -/
theorem field_gridTo {α : Type} {φ : Grid → α} (hφ : ∀ st now x, φ (Grid.entered st now x) = φ x) (g st cause entry : Nat)
    (s : State) : φ (grid (gridTo g st cause entry s) g) = φ (grid s g) := by
  rw [grid_gridTo]
  split
  · rfl
  · exact hφ _ _ _

theorem st_gridTo (g st cause entry : Nat) (s : State) : (grid (gridTo g st cause entry s) g).st = st := by
  rw [grid_gridTo]
  split
  · assumption
  · rfl

/-! CTL (R204, R219) -/

/-- A converter is bound by its CFG in force. -/
theorem adcBound_congr {s t : State} (hact : t.act = s.act) (n d : Nat) : adcBound t n d = adcBound s n d := by
  unfold adcBound inForce
  rw [hact]

/-- A connect is judged by the port's registers and by the converters in force. -/
theorem connectBad_congr {s t : State} {g : Nat} (hact : t.act = s.act)
    (hreg : ∀ off, off < 0x1000 → rd t (gridKey g off) = rd s (gridKey g off)) : connectBad t g = connectBad s g := by
  have hbound : ∀ n d, adcBound t n d = adcBound s n d := adcBound_congr hact
  unfold connectBad gridDom vsrc fnom refMode rdf rdb
  dsimp only
  simp only [hbound]
  rw [hreg 0x040 (by decide), hreg 0x044 (by decide), hreg 0x048 (by decide), hreg 0x04C (by decide), hreg 0x050 (by decide),
    hreg 0x054 (by decide), hreg 0x058 (by decide), hreg 0x05C (by decide), hreg 0x060 (by decide)]

/-- A connect that no rule refuses: a port in OFF begins anew in SYNC at FNOM. -/
theorem writeGridCtl_connects {g : Nat} {s : State} (hst : (grid s g).st = 0) (hok : connectBad s g = false) :
    (grid (writeGridCtl g 1 s) g).st = 1 ∧ (grid (writeGridCtl g 1 s) g).f = fnom s g * one48 := by
  have hconn : bit (1 : Word) 0 = true := rfl
  have hdisc : bit (1 : Word) 1 = false := rfl
  simp only [writeGridCtl, hconn, hdisc, hst, hok, Bool.not_true, Bool.false_and, Bool.false_eq_true, if_false]
  rw [st_gridTo, field_gridTo (φ := Grid.f) fun _ _ _ => rfl, grid_onGrid_same]
  exact ⟨rfl, rfl⟩

theorem writeGridCtl_requests {g : Nat} {s : State} (hst : (grid s g).st = 8) :
    (grid (writeGridCtl g 1 s) g).connReq = true := by
  have hconn : bit (1 : Word) 0 = true := rfl
  have hdisc : bit (1 : Word) 1 = false := rfl
  simp only [writeGridCtl, hconn, hdisc, hst, Bool.not_true, Bool.false_and, Bool.false_eq_true, if_false, grid_onGrid_same]

theorem writeGridCtl_disconnects {g : Nat} {s : State} (hst : (grid s g).st ≠ 0) :
    writeGridCtl g 2 s = onGrid g (fun x => { x with discReq := true }) s := by
  have hconn : bit (2 : Word) 0 = false := rfl
  have hdisc : bit (2 : Word) 1 = true := rfl
  simp only [writeGridCtl, hconn, hdisc, Bool.not_false, if_true, Bool.true_and, decide_eq_true hst]

/-- All offsets of a GRID page are reached alike. -/
theorem byBus_grid {m : Master} {s : State} {o : Nat} (h : reaches s m .grid o = true) (n off : Nat) (f : State → State) :
    byBus m .grid n off f s = busCycle (f (countedWrite m .grid n off s)) := by
  refine byBus_reaches ?_
  rw [reaches, pageUp_off (by decide) s _ o]
  exact h

section Ctl

variable {m : Master} {g : Fin 4} {s : State} (h : reaches s m .grid 0x0E0 = true)
include h

/-- A write of CTL that reaches the page leaves the port as `writeGridCtl` does: what follows for the islanding function does not
change it. -/
theorem gridCtl_reaches (v : Word) : ∃ t, byBus m .grid g 0x0E0 (fun s => gridCtl g v s) s = t ∧
    grid t g = grid (writeGridCtl g v (countedWrite m .grid g 0x0E0 s)) g :=
  ⟨_, byBus_grid h _ _ _, grid_congr (islPoll_grids _ _) _⟩

theorem gridConnect_connects (hst : (grid s g).st = 0) (hok : connectBad s g = false) :
    ∃ t, exec (.gridConnect m g) s = .next t ∧ (grid t g).st = 1 ∧ (grid t g).f = fnom s g * one48 := by
  have hreg : ∀ off, off < 0x1000 → rd (countedWrite m .grid g 0x0E0 s) (gridKey g off) = rd s (gridKey g off) := fun _ ho =>
    rd_countedWrite_plant (gridKey_plantKey g.isLt ho) _ _ _ _ _
  have hfnom : fnom (countedWrite m .grid g 0x0E0 s) g = fnom s g := by
    rw [fnom, rdb, hreg 0x040 (by decide)]
    rfl
  obtain ⟨t, ht, hgrid⟩ := gridCtl_reaches (g := g) h 1
  refine ⟨t, congrArg Host.Outcome.next ht, ?_⟩
  rw [hgrid, ← hfnom]
  exact writeGridCtl_connects (by rw [grid_countedWrite, hst])
    ((connectBad_congr (pmcAccess_act _ _ _ _ _) hreg).trans hok)

theorem gridConnect_requests (hst : (grid s g).st = 8) :
    ∃ t, exec (.gridConnect m g) s = .next t ∧ (grid t g).connReq = true := by
  obtain ⟨t, ht, hgrid⟩ := gridCtl_reaches (g := g) h 1
  refine ⟨t, congrArg Host.Outcome.next ht, ?_⟩
  rw [hgrid]
  exact writeGridCtl_requests (by rw [grid_countedWrite, hst])

theorem gridDisconnect_requests (hst : (grid s g).st ≠ 0) :
    ∃ t, exec (.gridDisconnect m g) s = .next t ∧ (grid t g).discReq = true ∧ (grid t g).st = (grid s g).st := by
  obtain ⟨t, ht, hgrid⟩ := gridCtl_reaches (g := g) h 2
  refine ⟨t, congrArg Host.Outcome.next ht, ?_⟩
  rw [hgrid, writeGridCtl_disconnects (by rwa [grid_countedWrite]), grid_onGrid_same, grid_countedWrite]
  exact ⟨rfl, rfl⟩

end Ctl

/-! The ride-through curves and the shared angle in an update (R223, R375) -/

section Update

variable {α : Type} {φ : Grid → α}

theorem field_curveStep (hφ : ∀ x t a r, φ { x with timers := t, acting := a, rtLast := r } = φ x) (s : State) (g e len : Nat)
    (x : Grid) : φ (curveStep s g e len x).1 = φ x := by
  unfold curveStep
  dsimp only
  split
  · exact hφ _ _ _ _
  · split
    · exact hφ _ _ _ _
    · rfl

/-- The ride-through curves change the timers of a port and which entries act, and no other field. -/
theorem field_gridCurves (hφ : ∀ x t a r, φ { x with timers := t, acting := a, rtLast := r } = φ x) (g len : Nat) (s : State) :
    φ (grid (gridCurves g len s) g) = φ (grid s g) := by
  refine forEach_stays (π := fun t => φ (grid t g)) (r0 := s) (fun e t ht => ?_) rfl
  have hstep : φ (grid (setGrid g (curveStep t g e len (grid t g)).1 t) g) = φ (grid t g) := by
    rw [grid_setGrid_same, field_curveStep hφ]
  split
  · exact ht
  · dsimp only
    split
    · exact (congrArg φ (grid_raise _ _ _ _ _)).trans (hstep.trans ht)
    · exact hstep.trans ht

/-- Following the shared angle changes nothing of a port but whether its angle moves. -/
theorem field_followStep (hφ : ∀ x b, φ { x with moving := b } = φ x) (g t : Nat) (s : State) :
    φ (grid (followStep g t s) g) = φ (grid s g) := by
  unfold followStep
  extract_lets x was may x' s1 s2
  have h1 : φ (grid s1 g) = φ (grid s g) := by
    unfold s1
    rw [grid_setGrid_same]
    split
    · exact hφ _ _
    · exact hφ _ _
  split
  · exact (congrArg φ (grid_raise _ _ _ _ _)).trans h1
  · exact h1

theorem followShown_grids (g : Nat) (s : State) : (followShown g s).grids = s.grids :=
  Part.same_of_op (p := .grids) (m := 1074266120) (by decide) (fun h => followShown_stays h g) s

end Update

end Sys2Proof.Machine
end

section
/-! One update of a grid port: what has happened to it when its state is judged (R205 to R208, R223). -/

namespace Sys2Proof.Machine

/-- The period of a port's last update, and the disconnect that waits for the next. -/
def Grid.served (x : Grid) : Option Nat × Bool := (x.upK, x.discReq)

theorem served_gridRms (s : State) (g n : Nat) (v : Int × Int × Int) (x : Grid) :
    (gridRms s g n v x).served = x.served := rfl

/-- The end of an update: the shared angle is shown, and the references follow unless the port is in OFF. -/
def gridSettled (g len old : Nat) (s : State) : State :=
  let s := onGrid g (fun x => { x with lost := false }) (followShown g s)
  if (grid s g).st = 0 then s else gridRefs g len old s

theorem grid_raiseIf {c : Prop} [Decidable c] (t : PageType) (p k : Nat) (s : State) (g : Nat) :
    grid (if c then raise t p k s else s) g = grid s g := by
  split
  · exact grid_raise _ _ _ _ _
  · rfl

/-- A due update measures the port and takes its period, and only then judges the port's state: measuring leaves a disconnect that
waits. -/
theorem gridUpdate_judged {g : Nat} {s t : State} (ht : gridUpdate g s = t) (hl : live s .eng = true) (hst : (grid s g).st ≠ 0)
    (hrun : domRuns s (gridDom s g) = true) (hb : (dom s (gridDom s g)).begun = true)
    (hup : (grid s g).upK ≠ some (dom s (gridDom s g)).k) :
    ∃ n jump relocked u len, (grid u g).served = (some (dom s (gridDom s g)).k, (grid s g).discReq) ∧
      t = gridSettled g len (grid s g).st (gridStates g n jump relocked u) := by
  unfold gridUpdate at ht
  extract_lets d x at ht
  rw [if_neg (by simp [x, d, hl, hst, hrun, hb, hup])] at ht
  split at ht
  next gap sat len0 hin =>
  extract_lets len tn at ht
  split at ht
  next y raw _ hy =>
  extract_lets y1 y2 lockNow y3 s1 s2 s3 s4 s5 det jump s6 s7 at ht
  split at ht
  next =>
  extract_lets moved s8 s9 s10 at ht
  refine ⟨_, _, _, s8, _, ?_, ht.symm⟩
  have h0 : y.discReq = x.discReq := by
    split at hy
    · obtain ⟨rfl, -⟩ := Prod.mk.inj hy; rfl
    · exact congrArg (Grid.discReq ·.1) hy.symm
  have h3 : y3.served = (some d.k, x.discReq) := by
    have h2 : y2.served = y1.served := by
      unfold y2
      split
      · rfl
      · exact served_gridRms _ _ _ _ _
    calc y3.served = y1.served := h2
      _ = (some d.k, y.discReq) := rfl
      _ = (some d.k, x.discReq) := by rw [h0]
  have h4 : grid s4 g = y3 := by
    have hgap : grid s2 g = y3 := by
      unfold s2
      split
      · exact (grid_raise _ _ _ _ _).trans (grid_setGrid_same _ _ _)
      · exact grid_setGrid_same _ _ _
    have hsat : grid s3 g = y3 := (grid_raiseIf _ _ _ _ _).trans hgap
    unfold s4
    split
    · exact (grid_raise _ _ _ _ _).trans hsat
    · exact (grid_raiseIf _ _ _ _ _).trans hsat
  have h5 : (grid s5 g).served = (grid s4 g).served := field_gridCurves (φ := Grid.served) (fun _ _ _ _ => rfl) _ _ _
  have h6 : grid s6 g = grid s5 g := by
    unfold s6
    split
    · exact grid_wr _ _ _ _
    · rfl
  have h7 : (grid s7 g).served = (grid s6 g).served := field_followStep (φ := Grid.served) (fun _ _ => rfl) _ _ _
  have h8 : (grid s8 g).served = (grid s7 g).served := by
    unfold s8
    rw [grid_onGrid_same]
    rfl
  rw [h8, h7, h6, h5, h4, h3]

end Sys2Proof.Machine
end

section
/-! One update of a grid port in a period, a disconnect at an update, and a write of a curve entry (R205, R219, R223). -/

namespace Sys2Proof.Machine

/-! The states are judged and the references follow in the period that the update has taken -/

theorem upK_gridTo (g st cause entry : Nat) (s : State) : (grid (gridTo g st cause entry s) g).upK = (grid s g).upK :=
  field_gridTo (φ := Grid.upK) (fun _ _ _ => rfl) _ _ _ _ _

theorem upK_gridDecide (g : Nat) (d : Int) (s : State) : (grid (gridDecide g d s) g).upK = (grid s g).upK := by
  unfold gridDecide
  dsimp only
  split
  · exact upK_gridTo _ _ _ _ _
  · exact upK_gridTo _ _ _ _ _

theorem upK_onGrid {g : Nat} {f : Grid → Grid} {s : State} {k : Option Nat} (h : (f (grid s g)).upK = k) :
    (grid (onGrid g f s) g).upK = k := (congrArg Grid.upK (grid_onGrid_same g f s)).trans h

theorem upK_ite {g : Nat} {c : Prop} [Decidable c] {a b : State} {k : Option Nat} (ha : (grid a g).upK = k)
    (hb : (grid b g).upK = k) : (grid (if c then a else b) g).upK = k := by
  split
  · exact ha
  · exact hb

theorem upK_gridCoast (g cause n : Nat) (s : State) : (grid (gridCoast g cause n s) g).upK = (grid s g).upK := by
  unfold gridCoast
  extract_lets s1 x back fh
  have h1 : (grid s1 g).upK = (grid s g).upK := by
    unfold s1
    split
    · rfl
    · rfl
  exact upK_onGrid ((upK_gridTo g 6 cause 0 s1).trans h1)

/-- A port that leaves is in OFF, and its disconnect no longer waits. -/
theorem gridLeave_leaves (g : Nat) (s : State) : (grid (gridLeave g s) g).st = 0 ∧ (grid (gridLeave g s) g).discReq = false ∧
    (grid (gridLeave g s) g).upK = (grid s g).upK := by
  unfold gridLeave
  extract_lets s1 s2
  have h2 : grid s2 g = grid s1 g := grid_raiseIf _ _ _ _ _
  rw [grid_onGrid_same]
  exact ⟨(congrArg Grid.st h2).trans (st_gridTo _ _ _ _ _), rfl, (congrArg Grid.upK h2).trans (upK_gridTo _ _ _ _ _)⟩

theorem gridClose_grids (g : Nat) (s : State) : (gridClose g s).grids = s.grids :=
  Part.same_of_op (p := .grids) (m := 557064) (by decide) (fun h => gridClose_stays h g) s

/-- Whatever state the conditions lead to, the period of the update stays. -/
theorem upK_gridStates (g n : Nat) (jump : Option Int) (relocked : Bool) (s : State) :
    (grid (gridStates g n jump relocked s) g).upK = (grid s g).upK := by
  have hto := fun st c e => upK_gridTo g st c e
  have hdecide := upK_gridDecide g
  unfold gridStates
  extract_lets x so quiet joined coastV extOpen island now coastDone acc
  refine upK_ite (gridLeave_leaves g s).2.2 <| upK_ite (hto _ _ _ _) <| upK_ite (hdecide _ _) <| upK_ite (hto _ _ _ _) <|
    upK_ite (hto _ _ _ _) <| upK_ite (hto _ _ _ _) <| upK_ite (hto _ _ _ _) <| upK_ite (upK_gridCoast _ _ _ _) <|
    upK_ite (upK_gridCoast _ _ _ _) ?_
  have hclose : (grid (gridClose g s) g).upK = (grid s g).upK := congrArg Grid.upK (grid_congr (gridClose_grids g s) g)
  split
  · exact hdecide _ _
  · exact hdecide _ _
  · exact upK_ite ((hdecide _ _).trans (upK_onGrid rfl)) (upK_onGrid rfl)
  · exact upK_ite (hto _ _ _ _) rfl
  · exact upK_ite (hto _ _ _ _) rfl
  · exact upK_ite rfl (hto _ _ _ _)
  · exact upK_ite ((hto _ _ _ _).trans (upK_onGrid rfl)) (upK_onGrid rfl)
  · exact upK_ite ((hto _ _ _ _).trans hclose) (upK_ite ((hto _ _ _ _).trans hclose) hclose)
  · exact upK_ite (upK_onGrid (hto _ _ _ _)) (upK_ite (hto _ _ _ _) rfl)
  · exact upK_ite (hto _ _ _ _) rfl
  · exact upK_ite ((hto _ _ _ _).trans (upK_onGrid rfl)) (upK_onGrid rfl)
  · rfl

/-- A port whose disconnect waits leaves for OFF, whatever else holds. -/
theorem gridStates_leaves {g : Nat} {s : State} (n : Nat) (jump : Option Int) (relocked : Bool)
    (h : (grid s g).discReq = true) : gridStates g n jump relocked s = gridLeave g s := by
  unfold gridStates
  exact if_pos h

theorem upK_gridRefs (g len old : Nat) (s : State) : (grid (gridRefs g len old s) g).upK = (grid s g).upK := by
  unfold gridRefs
  exact (congrArg Grid.upK (grid_raiseIf _ _ _ _ _)).trans ((congrArg Grid.upK (grid_setGrid_same _ _ _)).trans rfl)

theorem grid_shown (g : Nat) (s : State) :
    grid (onGrid g (fun x => { x with lost := false }) (followShown g s)) g = { grid s g with lost := false } := by
  rw [grid_onGrid_same, grid_congr (followShown_grids g s)]

theorem upK_gridSettled (g len old : Nat) (s : State) : (grid (gridSettled g len old s) g).upK = (grid s g).upK := by
  have hshown := (congrArg Grid.upK (grid_shown g s)).trans rfl
  unfold gridSettled
  exact upK_ite hshown ((upK_gridRefs _ _ _ _).trans hshown)

/-- A port in OFF keeps what it is, as it has no references. -/
theorem grid_gridSettled_off {g : Nat} {s : State} (len old : Nat) (hst : (grid s g).st = 0) :
    grid (gridSettled g len old s) g = { grid s g with lost := false } := by
  unfold gridSettled
  rw [if_pos (by rw [grid_shown, hst])]
  exact grid_shown g s

/-! The window goes to the islanding function first (R239) -/

theorem islWindow_eq (g : Nat) (s : State) : ∃ x, islWindow g s = { s with isl := x } := by
  unfold islWindow
  split
  · exact ⟨_, rfl⟩
  · split
    · exact ⟨_, rfl⟩
    · exact ⟨_, rfl⟩

section Due

variable {g : Fin 4} {s : State} (hl : live s .eng = true) (hst : (grid s g).st ≠ 0) (hrun : domRuns s (gridDom s g) = true)
  (hb : (dom s (gridDom s g)).begun = true) (hup : (grid s g).upK ≠ some (dom s (gridDom s g)).k)
include hl hst hrun hb hup

/-- The update that is due: the port's state is judged after it has been measured, and nothing after that changes it but the
end of the update. -/
theorem gridUpdate_due : ∃ t n jump relocked u len old, exec (.gridUpdate g) s = .next t ∧
    (grid u g).served = (some (dom s (gridDom s g)).k, (grid s g).discReq) ∧
    grid t g = grid (gridSettled g len old (gridStates g n jump relocked u)) g := by
  obtain ⟨x, hx⟩ := islWindow_eq g s
  obtain ⟨n, jump, relocked, u, len, hu, ht⟩ :=
    gridUpdate_judged (g := g) (s := { s with isl := x }) rfl hl hst hrun hb hup
  refine ⟨_, n, jump, relocked, u, len, (grid s g).st, rfl, hu, ?_⟩
  rw [if_neg (by simp [hl, hst, hrun, hb, hup]), grid_congr (islPoll_grids _ _), hx, ht]
  rfl

theorem gridUpdate_serves : ∃ t, exec (.gridUpdate g) s = .next t ∧ (grid t g).upK = some (dom s (gridDom s g)).k := by
  obtain ⟨t, n, jump, relocked, u, len, old, ht, hu, hgrid⟩ := gridUpdate_due hl hst hrun hb hup
  refine ⟨t, ht, ?_⟩
  rw [hgrid, upK_gridSettled, upK_gridStates]
  exact (Prod.mk.inj hu).1

theorem gridUpdate_disconnects (hdisc : (grid s g).discReq = true) :
    ∃ t, exec (.gridUpdate g) s = .next t ∧ (grid t g).st = 0 ∧ (grid t g).discReq = false := by
  obtain ⟨t, n, jump, relocked, u, len, old, ht, hu, hgrid⟩ := gridUpdate_due hl hst hrun hb hup
  obtain ⟨hoff, hdone, -⟩ := gridLeave_leaves g u
  refine ⟨t, ht, ?_⟩
  rw [hgrid, gridStates_leaves n jump relocked ((Prod.mk.inj hu).2.trans hdisc), grid_gridSettled_off _ _ hoff]
  exact ⟨hoff, hdone⟩

end Due

/-! A write of a curve entry resets its timer (R223) -/

/-- The two words of an entry lie in its own eight bytes. -/
theorem curve_entry (e : Nat) (ecfg : Bool) : (0x200 + 8 * e + (if ecfg then 4 else 0) - 0x200) / 8 = e := by
  split
  · omega
  · omega

theorem curve_page {e : Nat} (he : e < 32) (ecfg : Bool) : 0x200 + 8 * e + (if ecfg then 4 else 0) < 0x1000 := by
  split
  · omega
  · omega

theorem any_filter_ne (ts : List (Nat × Nat)) (e : Nat) :
    ((ts.filter fun x => decide (x.1 ≠ e)).any fun x => decide (x.1 = e)) = false := by
  simp

theorem curveEntryWrite_resets {m : Master} {g : Fin 4} {s : State} (e : Fin 32) (ecfg : Bool) (v : Word)
    (h : reaches s m .grid 0x200 = true) :
    ∃ t, exec (.curveEntryWrite m g e ecfg v) s = .next t ∧
      rd t (gridKey g (0x200 + 8 * e + (if ecfg then 4 else 0))) =
        plainValue (gridKey g (0x200 + 8 * e + (if ecfg then 4 else 0)))
          (rd s (gridKey g (0x200 + 8 * e + (if ecfg then 4 else 0)))) v ∧
      ((grid t g).timers.any fun x => decide (x.1 = e)) = false ∧ (grid t g).acting.getLsbD e = false := by
  have hkey := gridKey_plantKey g.isLt (curve_page e.isLt ecfg)
  refine ⟨_, congrArg Host.Outcome.next (byBus_grid h _ _ _), ?_, ?_, ?_⟩
  · rw [writeCurve, rd_busCycle, onGrid, rd_setGrid, plainWrite, rd_wr_same, rd_countedWrite_plant hkey]
  · rw [grid_busCycle, writeCurve, curve_entry, grid_onGrid_same]
    exact any_filter_ne _ _
  · rw [grid_busCycle, writeCurve, curve_entry, grid_onGrid_same]
    exact bit_setBit_same _ _ _ e.isLt

end Sys2Proof.Machine
end

section
/-! The islanding function: enable, disable and clear (R234, R244, R246, R247). -/

namespace Sys2Proof.Machine

/-! What Datum, the lock and the period of the function's domain are judged by (R236) -/

/-- A register of the plant past its page's event registers. -/
def setupKey (k : Nat) : Prop := plantKey k ∧ 0x040 ≤ k % 0x1000

theorem setupKey.ne_raw {k : Nat} (h : setupKey k) (t : PageType) (n : Nat) : k ≠ rk t n 0x010 := by
  have hoff := h.2
  simp only [rk]
  omega

theorem setupKey.ne_status {k : Nat} (h : setupKey k) : k ≠ rk .snd 0 0x00C := by
  have hoff := h.2
  simp only [rk]
  omega

theorem rk_setupKey {t : PageType} {n off : Nat} (hfirst : 0x100 ≤ pageFirst t) (hlast : pageFirst t + n < 0x700)
    (hlo : 0x040 ≤ off) (ho : off < 0x1000) : setupKey (rk t n off) := by
  simp only [setupKey, plantKey, rk]
  omega

theorem islKey_setupKey {off : Nat} (hlo : 0x040 ≤ off) (ho : off < 0x1000) : setupKey (islKey off) :=
  rk_setupKey (by decide) (by decide) hlo ho

theorem gridKey_setupKey {g off : Nat} (hg : g < 4) (hlo : 0x040 ≤ off) (ho : off < 0x1000) : setupKey (gridKey g off) :=
  rk_setupKey (by decide) (by simp only [pageFirst]; omega) hlo ho

theorem domStat_setupKey {d : Nat} (hd : d < 32) : setupKey (domKey d 0x044) :=
  rk_setupKey (by decide) (by simp only [pageFirst]; omega) (by omega) (by omega)

/-- Two states with the same Datum, the same domains and the same setup of the plant. -/
structure SameSetup (s t : State) : Prop where
  datum : t.datum = s.datum
  doms  : t.doms = s.doms
  setup : ∀ k, setupKey k → rd t k = rd s k

theorem SameSetup.trans {r s t : State} (h : SameSetup r s) (h' : SameSetup s t) : SameSetup r t :=
  ⟨h'.datum.trans h.datum, h'.doms.trans h.doms, fun k hk => (h'.setup k hk).trans (h.setup k hk)⟩

theorem SameSetup.field {s t : State} (h : SameSetup s t) {k : Nat} (hk : setupKey k) (lo n : Nat) :
    rdf t k lo n = rdf s k lo n :=
  congrArg (fld · lo n) (h.setup k hk)

section Setup

variable {s t : State} (h : SameSetup s t)
include h

theorem SameSetup.port_eq : islPort t = islPort s := h.field (islKey_setupKey (by decide) (by decide)) 0 2

theorem SameSetup.domain_eq : islDom t = islDom s := by
  unfold islDom gridDom
  rw [h.port_eq]
  exact h.field (gridKey_setupKey (fld_lt _ _ _) (by decide) (by decide)) 4 5

theorem SameSetup.fits_eq : islFits t = islFits s := by
  unfold islFits dom
  rw [h.domain_eq, h.doms]

theorem SameSetup.aligned_eq : islAligned t = islAligned s := by
  unfold islAligned datumValid lockState
  rw [h.fits_eq, h.datum, h.domain_eq, h.field (domStat_setupKey (fld_lt _ _ _))]

theorem SameSetup.own_eq : ownCode t = ownCode s := by
  have hring : ∀ i, i < 2 → rdf t (ringKey i 0x040) 0 8 = rdf s (ringKey i 0x040) 0 8 := fun i hi =>
    h.field (rk_setupKey (by decide) (by simp only [pageFirst]; omega) (by decide) (by decide)) 0 8
  unfold ownCode nodeAddr ringAddr
  rw [hring 0 (by decide), hring 1 (by decide), h.field (islKey_setupKey (by decide) (by decide))]

/-- The enable is judged by the setup, the converters in force and the table. -/
theorem SameSetup.refused_eq (hact : t.act = s.act) (hisl : t.isl = s.isl) : islRefused t = islRefused s := by
  have hbound : ∀ n d, adcBound t n d = adcBound s n d := adcBound_congr hact
  have hreg : ∀ off, 0x040 ≤ off → off < 0x1000 → rd t (islKey off) = rd s (islKey off) := fun _ hlo ho =>
    h.setup _ (islKey_setupKey hlo ho)
  have hbusy : genBusy t 7 = genBusy s 7 := by
    have hkey : setupKey (genKey 7 0x24) := rk_setupKey (by decide) (by decide) (by decide) (by decide)
    rw [genBusy, genState, h.field hkey]
    rfl
  unfold islRefused isrc rdf
  dsimp only
  simp only [hbound]
  rw [hbusy, h.own_eq, h.domain_eq, hisl, hreg 0x044 (by decide) (by decide), hreg 0x04C (by decide) (by decide),
    hreg 0x050 (by decide) (by decide), hreg 0x054 (by decide) (by decide), hreg 0x058 (by decide) (by decide),
    hreg 0x05C (by decide) (by decide)]

end Setup

theorem sameSetup_countedWrite (m : Master) (t : PageType) (n off : Nat) (s : State) : SameSetup s (countedWrite m t n off s) :=
  ⟨pmcAccess_datum _ _ _ _ s, pmcAccess_doms _ _ _ _ s, fun _ hk => rd_countedWrite_plant hk.1 _ _ _ _ s⟩

theorem sameSetup_onIsl (f : Isl → Isl) (s : State) : SameSetup s (onIsl f s) := ⟨rfl, rfl, fun _ _ => rfl⟩

theorem sameSetup_raiseIsl (k : Nat) (s : State) : SameSetup s (raiseIsl k s) :=
  ⟨raise_datum _ _ _ _, raise_doms _ _ _ _, fun _ hk => rd_raise s (hk.ne_raw _ _) hk.1.not_mergeKey⟩

theorem sameSetup_islandReport (p : Nat) (on : Bool) (s : State) : SameSetup s (islandReport p on s) :=
  ⟨islandReport_datum _ _ _, islandReport_doms _ _ _, fun _ hk => rd_islandReport_plant hk.1 _ _ _⟩

theorem sameSetup_upto (t : Nat) (s : State) : SameSetup s (upto t s) := ⟨rfl, rfl, fun _ _ => rfl⟩

/-! A_eff, HOLD and the resumption (R237, R246) -/

/-- A field other than A_eff and whether it was limited. -/
theorem field_fixAmp {α : Type} {φ : Isl → α} (hφ : ∀ x a c, φ { x with aeff := a, clamped := c } = φ x) (s : State) :
    φ (fixAmp s).isl = φ s.isl := by
  unfold fixAmp
  extract_lets amp lim a s1
  have h1 : φ s1.isl = φ s.isl := hφ _ _ _
  split
  · exact (congrArg φ (raiseIsl_isl _ _)).trans h1
  · exact h1

theorem sameSetup_fixAmp (s : State) : SameSetup s (fixAmp s) := by
  unfold fixAmp
  extract_lets amp lim a s1
  have h1 : SameSetup s s1 := sameSetup_onIsl _ s
  split
  · exact h1.trans (sameSetup_raiseIsl _ _)
  · exact h1

theorem islRefresh_of_aligned {s : State} (hst : s.isl.st = 1 ∨ s.isl.st = 2) (h : islAligned s = true) : islRefresh s = s := by
  unfold islRefresh
  obtain hst | hst := hst
  · simp [h, hst]
  · simp [h, hst]

theorem islRefresh_of_not_aligned {s : State} (hst : s.isl.st = 1 ∨ s.isl.st = 2) (h : islAligned s = false) :
    islRefresh s = islHold (onIsl (fun x => { x with epochs := false }) s) := by
  unfold islRefresh
  obtain hst | hst := hst
  · simp [h, hst]
  · simp [h, hst]

theorem islHold_isl (s : State) : ∃ cs,
    (islHold s).isl = { s.isl with st := 3, holdAt := some s.now, first := none, chips := cs } :=
  ⟨_, raiseIsl_isl _ _⟩

/-- A function that waits or runs stays as it is where the code can be kept in step, and is put on HOLD where it can not. -/
theorem islRefresh_running {s : State} (hst : s.isl.st = 1 ∨ s.isl.st = 2) :
    (islRefresh s).isl.st = (if islAligned s then s.isl.st else 3) ∧ (islRefresh s).isl.own = s.isl.own ∧
    (islRefresh s).isl.table = s.isl.table ∧ (s.isl.first = none → (islRefresh s).isl.first = none) := by
  cases h : islAligned s
  case true =>
    rw [islRefresh_of_aligned hst h]
    exact ⟨rfl, rfl, rfl, id⟩
  case false =>
    obtain ⟨cs, hhold⟩ := islHold_isl (onIsl (fun x => { x with epochs := false }) s)
    rw [islRefresh_of_not_aligned hst h, hhold]
    exact ⟨rfl, rfl, rfl, fun _ => rfl⟩

/-! CTL (R244, R247) -/

theorem islEnable_enables {s : State} (hst : s.isl.st = 0) (hok : islRefused s = false) :
    (islEnable s).isl.own = ownCode s ∧ (islEnable s).isl.st = (if islAligned s then 1 else 3) ∧
    (islEnable s).isl.table = s.isl.amps := by
  unfold islEnable
  rw [if_neg (by simp [hst]), if_neg (by simp [hok])]
  extract_lets own s1 s2
  have howns : SameSetup s (wrb (rk .snd 0 0x00C) 16 true (setGen 7 {} s1)) :=
    ⟨rfl, rfl, fun _ hk => rd_wrb_ne _ _ _ hk.ne_status⟩
  have hsetup : SameSetup s s2 := howns.trans (sameSetup_fixAmp _)
  have hst2 : s2.isl.st = 1 := field_fixAmp (φ := Isl.st) (fun _ _ _ => rfl) _
  obtain ⟨hst', hown, htable, -⟩ := islRefresh_running (.inl hst2)
  refine ⟨?_, ?_, ?_⟩
  · exact hown.trans (field_fixAmp (φ := Isl.own) (fun _ _ _ => rfl) _)
  · rw [hst', hst2, hsetup.aligned_eq]
  · exact htable.trans (field_fixAmp (φ := Isl.table) (fun _ _ _ => rfl) _)

theorem islDisable_disables {s : State} (hst : s.isl.st ≠ 4) :
    (islDisable s).isl.st = 0 ∧ (islDisable s).isl.wrong = s.isl.wrong ∧ (islDisable s).isl.amps = s.isl.amps := by
  unfold islDisable
  split
  · exact ⟨‹_›, rfl, rfl⟩
  · exact ⟨rfl, rfl, rfl⟩

/-- The port of the function holds its contactor open, or waits to be restored: a report may be cleared. -/
def PortAtRest (s : State) : Prop :=
  (grid s (islPort s)).st = 0 ∨ (grid s (islPort s)).st = 9 ∨ ((grid s (islPort s)).st = 8 ∧ contactor s (islPort s) = false)

theorem islClear_of_rest {s : State} (hst : s.isl.st = 4) (h : PortAtRest s) : islClear s = islClearReport s := by
  unfold islClear
  rw [if_neg (by simp [hst])]
  refine if_pos ?_
  obtain h | h | ⟨h, hopen⟩ := h
  · simp [h]
  · simp [h]
  · simp [h, hopen]

theorem islClear_of_not_rest {s : State} (hst : s.isl.st = 4) (hoff : (grid s (islPort s)).st ≠ 0)
    (hwait : (grid s (islPort s)).st ≠ 9) (hclosed : (grid s (islPort s)).st = 8 → contactor s (islPort s) = true) :
    islClear s = raiseIsl 7 s := by
  unfold islClear
  rw [if_neg (by simp [hst])]
  refine if_neg ?_
  by_cases htrip : (grid s (islPort s)).st = 8
  · simp [htrip, hclosed htrip]
  · simp [hoff, hwait, htrip]

/-- A standing report is withdrawn, and the function goes on where it stood. -/
theorem islClearReport_goesOn (s : State) :
    (islClearReport s).isl.st = (if islAligned s then (if s.isl.epochs then 2 else 1) else 3) ∧
    (islClearReport s).isl.first = none := by
  unfold islClearReport
  extract_lets s1 ok s2
  have hsetup : SameSetup s s2 := (sameSetup_islandReport _ _ s).trans (sameSetup_onIsl _ _)
  have hst2 : s2.isl.st = if s.isl.epochs then 2 else 1 := by
    rw [← islandReport_isl (islPort s) false s]
    rfl
  have hrun : s2.isl.st = 1 ∨ s2.isl.st = 2 := by
    rw [hst2]
    split
    · exact .inr rfl
    · exact .inl rfl
  obtain ⟨hst', -, -, hfirst⟩ := islRefresh_running hrun
  exact ⟨by rw [hst', hst2, hsetup.aligned_eq], hfirst rfl⟩

theorem writeIslCtl_enable (s : State) : writeIslCtl 1 s = islEnable s := rfl

theorem writeIslCtl_disable (s : State) : writeIslCtl 2 s = islDisable s := rfl

theorem writeIslCtl_clear (s : State) : writeIslCtl 4 s = islClear s := rfl

theorem rdb_raiseIsl {k : Nat} (s : State) (hk : k < 32) : rdb (raiseIsl k s) (islKey 0x010) k = true :=
  rdb_raise _ _ _ _ hk (by decide)

theorem rdb_raiseIsl_ne {k b : Nat} (s : State) (hb : b < 32) (hne : b ≠ k) :
    rdb (raiseIsl k s) (islKey 0x010) b = rdb s (islKey 0x010) b :=
  rdb_raise_ne _ _ _ _ _ hb hne (islKey_plantKey (by decide)).not_mergeKey

theorem rd_raiseIsl {k j : Nat} (hj : plantKey j) (hraw : j ≠ islKey 0x010) (s : State) : rd (raiseIsl k s) j = rd s j :=
  rd_raise s hraw hj.not_mergeKey

theorem islPort_lt (s : State) : islPort s < 4 := fld_lt _ _ _

/-- Counting a write leaves the contactors, and what binds them to the ports. -/
theorem contactor_countedWrite (m : Master) (n off : Nat) (s : State) {g : Nat} (hg : g < 4) :
    contactor (countedWrite m .isl n off s) g = contactor s g := by
  refine contactor_congr (pmcAccess_souts _ _ _ _ s) ?_ (rd_countedWrite_plant (gridKey_plantKey hg (by decide)) _ _ _ _ s)
  refine List.filter_congr fun i hi => ?_
  have hbind : rd (countedWrite m .isl n off s) (plKey (0x070 + 4 * i)) = rd s (plKey (0x070 + 4 * i)) := by
    refine rd_pmcAccess ?_ _ _ _ _
    have hlt := List.mem_range.mp hi
    simp only [countKey, mergeKey, pmcKey, plKey, rk, pageFirst]
    omega
  rw [rdb, rdf, hbind]
  rfl

section Ctl

variable {m : Master} {s : State} (h : reaches s m .isl 0x064 = true)
include h

theorem islEnable_completes (hst : s.isl.st = 0) (hok : islRefused s = false) :
    ∃ t, exec (.islEnable m) s = .next t ∧ t.isl.own = ownCode s ∧ t.isl.st = (if islAligned s then 1 else 3) ∧
      t.isl.table = s.isl.amps := by
  have hsetup := sameSetup_countedWrite m .isl 0 0x064 s
  have hisl := countedWrite_isl m .isl 0 0x064 s
  obtain ⟨hown, hst', htable⟩ := islEnable_enables (s := countedWrite m .isl 0 0x064 s) (by rw [hisl, hst])
    ((hsetup.refused_eq (pmcAccess_act _ _ _ _ s) hisl).trans hok)
  refine ⟨_, congrArg Host.Outcome.next (byBus_reaches h), ?_⟩
  rw [busCycle_isl, writeIslCtl_enable, hown, hst', htable, hsetup.own_eq, hsetup.aligned_eq, hisl]
  exact ⟨rfl, rfl, rfl⟩

theorem islDisable_completes (hst : s.isl.st ≠ 4) :
    ∃ t, exec (.islDisable m) s = .next t ∧ t.isl.st = 0 ∧ t.isl.wrong = s.isl.wrong ∧ t.isl.amps = s.isl.amps := by
  have hisl := countedWrite_isl m .isl 0 0x064 s
  refine ⟨_, congrArg Host.Outcome.next (byBus_reaches h), ?_⟩
  rw [busCycle_isl, writeIslCtl_disable, ← hisl]
  exact islDisable_disables (by rwa [hisl])

theorem islClear_completes (hst : s.isl.st = 4)
    (hrest : (grid s (islPort s)).st = 0 ∨ (grid s (islPort s)).st = 9 ∨
      ((grid s (islPort s)).st = 8 ∧ contactor s (islPort s) = false)) :
    ∃ t, exec (.islClear m) s = .next t ∧ t.isl.st = (if islAligned s then (if s.isl.epochs then 2 else 1) else 3) ∧
      t.isl.first = none := by
  have hsetup := sameSetup_countedWrite m .isl 0 0x064 s
  have hisl := countedWrite_isl m .isl 0 0x064 s
  have hrest' : PortAtRest (countedWrite m .isl 0 0x064 s) := by
    unfold PortAtRest
    rw [hsetup.port_eq, grid_countedWrite, contactor_countedWrite m 0 0x064 s (islPort_lt s)]
    exact hrest
  obtain ⟨hgoes, hfirst⟩ := islClearReport_goesOn (countedWrite m .isl 0 0x064 s)
  refine ⟨_, congrArg Host.Outcome.next (byBus_reaches h), ?_⟩
  rw [busCycle_isl, writeIslCtl_clear, islClear_of_rest (by rw [hisl, hst]) hrest', hgoes, hsetup.aligned_eq, hisl]
  exact ⟨rfl, hfirst⟩

theorem islClear_refused (hst : s.isl.st = 4) (hoff : (grid s (islPort s)).st ≠ 0) (hwait : (grid s (islPort s)).st ≠ 9)
    (hclosed : (grid s (islPort s)).st = 8 → contactor s (islPort s) = true) :
    ∃ t, exec (.islClear m) s = .next t ∧ t.isl = s.isl ∧ rdb t (islKey 0x010) 7 = true := by
  have hport := (sameSetup_countedWrite m .isl 0 0x064 s).port_eq
  have hisl := countedWrite_isl m .isl 0 0x064 s
  have hrefused : islClear (countedWrite m .isl 0 0x064 s) = raiseIsl 7 (countedWrite m .isl 0 0x064 s) := by
    refine islClear_of_not_rest (by rw [hisl, hst]) ?_ ?_ ?_
    · rwa [hport, grid_countedWrite]
    · rwa [hport, grid_countedWrite]
    · rwa [hport, grid_countedWrite, contactor_countedWrite m 0 0x064 s (islPort_lt s)]
  refine ⟨_, congrArg Host.Outcome.next (byBus_reaches h), ?_⟩
  rw [writeIslCtl_clear, hrefused]
  exact ⟨by rw [busCycle_isl, raiseIsl_isl, hisl], rdb_raiseIsl _ (by decide)⟩

end Ctl

end Sys2Proof.Machine
end

section
/-! The islanding function: code epochs and periods, HOLD that becomes unsure, and the amplitude table (R234 to R236, R240,
R246). -/

namespace Sys2Proof.Machine

/-! A code epoch begins a code period (R235, R236) -/

theorem islEpoch_begins (epoch : Nat) {s : State} (hl : live s .eng = true) (hst : s.isl.st = 1 ∨ s.isl.st = 2)
    (hal : islAligned s = true) : (islEpoch epoch s).isl.st = 2 ∧ (islEpoch epoch s).isl.first = some (epoch / chipUnits) := by
  have hrun : ¬ (s.isl.st = 0 ∨ live s .eng = false) := by
    obtain hst | hst := hst
    · simp [hst, hl]
    · simp [hst, hl]
  unfold islEpoch
  rw [if_neg (by simpa using hrun), islRefresh_of_aligned hst hal]
  extract_lets s0 n s1 s2 s3 ok
  have h1 : s1.isl.st = s.isl.st := by
    unfold s1
    split
    · rfl
    · rfl
  have h2 : s2.isl.st = s1.isl.st := by
    unfold s2
    split
    · rfl
    · exact congrArg Isl.st (raiseIsl_isl _ _)
  have h3 : s3.isl.st = s.isl.st := (field_fixAmp (φ := Isl.st) (fun _ _ _ => rfl) s2).trans (h2.trans h1)
  rw [onIsl_isl]
  obtain hst | hst := hst
  · rw [h3.trans hst]
    exact ⟨rfl, rfl⟩
  · rw [h3.trans hst]
    exact ⟨rfl, rfl⟩

theorem islEpoch_now (epoch : Nat) (s : State) : (islEpoch epoch s).now = s.now :=
  Part.same_of_op (p := .now) (m := 549756338184) (by decide) (fun h => islEpoch_stays h epoch) s

theorem codeEpoch_completes {s : State} (hl : live s .eng = true) (hon : s.datum.st ≠ .off) (hal : islAligned s = true)
    (hst : s.isl.st = 1 ∨ s.isl.st = 2) (hwrap : (datumNow s / codeUnits + 1) * codeUnits < 2 ^ 64) :
    ∃ t, exec .codeEpoch s = .next t ∧ t.isl.st = 2 ∧
      t.isl.first = some ((datumNow s / codeUnits + 1) * codeUnits / chipUnits) ∧
      datumInstant s ((datumNow s / codeUnits + 1) * codeUnits) ≤ t.now := by
  have hrun : ¬ (s.isl.st = 0 ∨ s.datum.st = .off ∨ live s .eng = false) := by
    obtain hst | hst := hst
    · simp [hst, hl, hon]
    · simp [hst, hl, hon]
  refine ⟨_, rfl, ?_⟩
  rw [if_neg (by simpa [or_assoc] using hrun)]
  extract_lets e e'
  have he : e' = e := if_neg (Nat.not_le.mpr hwrap)
  rw [he]
  obtain ⟨hst', hfirst⟩ := islEpoch_begins e (s := upto (datumInstant s e) s) hl hst
    ((sameSetup_upto _ s).aligned_eq.trans hal)
  refine ⟨hst', hfirst, ?_⟩
  rw [islEpoch_now]
  exact le_upto_now _ _

/-! A decision (R243) -/

theorem rd_islSetX (v : Word) (s : State) (k : Nat) : rd (islSetX v s) k = rd s k := rfl

theorem rd_logWith (page : Nat) (payload : List Word) (s : State) (k : Nat) : rd (logWith page payload s) k = rd s k := rfl

theorem logWith_isl (page : Nat) (payload : List Word) (s : State) : (logWith page payload s).isl = s.isl := rfl

theorem islDecide_isl (cause epoch : Nat) (payload : List Word) (s : State) : (islDecide cause epoch payload s).isl =
    { s.isl with st := 4, shown := none, first := none, holdAt := none, x := 0, decAt := epoch } := by
  unfold islDecide
  rw [logWith_isl, raiseIsl_isl, onIsl_isl, wr_isl, islandReport_isl]
  rfl

theorem rd_islDecide {k : Nat} (hk : plantKey k) (hraw : k ≠ islKey 0x010) (hinfo : k ≠ islKey 0x094) (cause epoch : Nat)
    (payload : List Word) (s : State) : rd (islDecide cause epoch payload s) k = rd s k := by
  unfold islDecide
  dsimp only
  rw [rd_logWith, rd_raiseIsl hk hraw, rd_onIsl, rd_wr_ne _ _ hinfo, rd_islandReport_plant hk, rd_islSetX,
    rd_onIsl]

/-- A decision sets the first cause of the page, and leaves the others. -/
theorem rdb_islDecide {b : Nat} (hb : b < 32) (hne : b ≠ 0) (cause epoch : Nat) (payload : List Word) (s : State) :
    rdb (islDecide cause epoch payload s) (islKey 0x010) b = rdb s (islKey 0x010) b := by
  have hk : plantKey (islKey 0x010) := islKey_plantKey (by decide)
  unfold islDecide
  dsimp only
  rw [rdb, rd_logWith, ← rdb, rdb_raiseIsl_ne _ hb hne, rdb, rd_onIsl, rd_wr_ne _ _ (by decide), rd_islandReport_plant hk,
    rd_islSetX, rd_onIsl]
  rfl

theorem islDecide_now (cause epoch : Nat) (payload : List Word) (s : State) : (islDecide cause epoch payload s).now = s.now :=
  Part.same_of_op (p := .now) (m := 584411023498) (by decide) (fun h => islDecide_stays h cause epoch payload) s

/-! HOLD becomes unsure (R246) -/

theorem unsure_completes {s : State} {a : Nat} (hst : s.isl.st = 3) (hhold : s.isl.holdAt = some a)
    (htmo : rdf s (islKey 0x060) 0 16 ≠ 0) :
    ∃ t, exec .unsure s = .next t ∧ t.isl.unsure = true ∧ a + rdf s (islKey 0x060) 0 16 * msec ≤ t.now ∧
      rdb t (islKey 0x010) 1 = true := by
  refine ⟨_, rfl, ?_⟩
  extract_lets tmo
  split
  case h_2 hno => exact absurd hhold (hno a hst)
  case h_1 t _ hat =>
    obtain rfl : t = a := Option.some.inj (hat.symm.trans hhold)
    rw [if_neg htmo]
    extract_lets s1 z
    have hunsure : s1.isl.unsure = true := congrArg Isl.unsure (raiseIsl_isl _ _)
    have hnow : t + tmo * msec ≤ s1.now := by
      unfold s1 raiseIsl
      rw [raise_now]
      exact le_upto_now _ _
    have hraw : rdb s1 (islKey 0x010) 1 = true := rdb_raiseIsl _ (by decide)
    split
    · rw [islDecide_isl, islDecide_now, rdb_islDecide (by decide) (by decide)]
      exact ⟨hunsure, hnow, hraw⟩
    · exact ⟨hunsure, hnow, hraw⟩

/-! A closed period (R240) -/

/-- The periods that wait are the same, and so is the register that counts those closed. -/
structure KeepsCount (s t : State) : Prop where
  closing : t.isl.closing = s.isl.closing
  count   : rd t (islKey 0x070) = rd s (islKey 0x070)

section Keeps

variable {s t : State} (h : KeepsCount s t)
include h

theorem KeepsCount.wr {off : Nat} (hne : off ≠ 0x070) (v : Word) : KeepsCount s (wr (islKey off) v t) :=
  ⟨h.closing, (rd_wr_ne _ _ fun he => hne (islKey_inj.mp he).symm).trans h.count⟩

theorem KeepsCount.onIsl {f : Isl → Isl} (hf : ∀ x, (f x).closing = x.closing) : KeepsCount s (onIsl f t) :=
  ⟨(hf _).trans h.closing, h.count⟩

theorem KeepsCount.raiseIsl (k : Nat) : KeepsCount s (raiseIsl k t) :=
  ⟨(congrArg Isl.closing (raiseIsl_isl k t)).trans h.closing,
    (rd_raiseIsl (islKey_plantKey (by decide)) (by decide) t).trans h.count⟩

theorem KeepsCount.islDecide (cause epoch : Nat) (payload : List Word) : KeepsCount s (islDecide cause epoch payload t) :=
  ⟨by rw [islDecide_isl]; exact h.closing,
    (rd_islDecide (islKey_plantKey (by decide)) (by decide) (by decide) cause epoch payload t).trans h.count⟩

theorem KeepsCount.ite {c : Prop} [Decidable c] {u : State} (h' : KeepsCount s u) : KeepsCount s (if c then t else u) := by
  split
  · exact h
  · exact h'

end Keeps

/-- A closed period is counted in the low half of its register; nothing that the period gives comes in between. -/
theorem closePeriod_counts (per : IslPer) (s : State) : (closePeriod per s).isl.closing = s.isl.closing ∧
    rdf (closePeriod per s) (islKey 0x070) 0 16 = (rdf s (islKey 0x070) 0 16 + 1) % 65536 ∧
    rdb (closePeriod per s) (islKey 0x010) 2 = true := by
  unfold closePeriod
  extract_lets x cfg e nmax le64 of32 usable basis big dz tc moved exceed s1 s2 b s3 s4 s5 s6 s7 step s8 s9 s10
  have hcount : s2.isl.closing = s.isl.closing ∧ rdf s2 (islKey 0x070) 0 16 = (rdf s (islKey 0x070) 0 16 + 1) % 65536 := by
    have h1 : rdf s1 (islKey 0x070) 0 16 = (rdf s (islKey 0x070) 0 16 + 1) % 65536 := rdf_wrf_same _ _ _ _ _ (by decide)
    unfold s2
    split
    · exact ⟨rfl, (rdf_wrf_ne _ _ _ _ _ _ _ _ (by decide) (.inr (.inr (by decide)))).trans h1⟩
    · exact ⟨rfl, h1⟩
  have hkept : KeepsCount s2 s10 := by
    have h4 : KeepsCount s2 s4 := ((KeepsCount.mk rfl rfl).wr (off := 0x074) (by decide) _).onIsl fun _ => rfl
    have h7 : KeepsCount s2 s7 := (((((h4.wr (off := 0x07C) (by decide) _).wr (off := 0x078) (by decide) _).wr (off := 0x084)
      (by decide) _).wr (off := 0x080) (by decide) _).wr (off := 0x090) (by decide) _).wr (off := 0x08C) (by decide) _
    have h8 : KeepsCount s2 s8 := by
      unfold s8
      refine KeepsCount.ite ?_ h7
      exact h7.onIsl fun _ => rfl
    exact KeepsCount.ite (h8.raiseIsl 2) ((h8.raiseIsl 2).raiseIsl 3)
  have hraw : rdb s10 (islKey 0x010) 2 = true := by
    have h9 : rdb s9 (islKey 0x010) 2 = true := rdb_raiseIsl _ (by decide)
    unfold s10
    split
    · exact h9
    · rw [rdb_raiseIsl_ne _ (by decide) (by decide), h9]
  have hdone : ∀ {t}, KeepsCount s2 t → t.isl.closing = s.isl.closing ∧
      rdf t (islKey 0x070) 0 16 = (rdf s (islKey 0x070) 0 16 + 1) % 65536 := fun h =>
    ⟨h.closing.trans hcount.1, (congrArg (fld · 0 16) h.count).trans hcount.2⟩
  split
  · obtain ⟨hclosing, hcounts⟩ := hdone (hkept.islDecide _ _ _)
    exact ⟨hclosing, hcounts, (rdb_islDecide (by decide) (by decide) _ _ _ _).trans hraw⟩
  · obtain ⟨hclosing, hcounts⟩ := hdone hkept
    exact ⟨hclosing, hcounts, hraw⟩

theorem periodClosed_completes {s : State} {p : IslPer} {ps : List IslPer} (h : s.isl.closing = p :: ps) :
    ∃ t, exec .periodClosed s = .next t ∧ t.isl.closing = ps ∧
      rdf t (islKey 0x070) 0 16 = (rdf s (islKey 0x070) 0 16 + 1) % 65536 ∧ rdb t (islKey 0x010) 2 = true := by
  refine ⟨_, rfl, ?_⟩
  rw [h]
  exact closePeriod_counts p (onIsl (fun x => { x with closing := ps }) s)

/-! The amplitude table (R234, R249) -/

theorem rdf_ampNext (s : State) : rdf (ampNext s) (islKey 0x0A0) 0 9 = (rdf s (islKey 0x0A0) 0 9 + 1) % 511 := by
  unfold ampNext
  rw [rdf_wrf_same _ _ _ _ _ (by decide)]
  omega

theorem ampDataAccess_writes {m : Master} {s : State} (v : Word) (h : reaches s m .isl 0x0A4 = true)
    (ha : rdf s (islKey 0x0A0) 0 9 < 511) :
    ∃ t, exec (.ampDataAccess m (some v)) s = .next t ∧ ampEntry t (rdf s (islKey 0x0A0) 0 9) = fld v 0 16 ∧
      rdf t (islKey 0x0A0) 0 9 = (rdf s (islKey 0x0A0) 0 9 + 1) % 511 := by
  have hcounted : rdf (countedWrite m .isl 0 0x0A4 s) (islKey 0x0A0) 0 9 = rdf s (islKey 0x0A0) 0 9 :=
    congrArg (fld · 0 9) (rd_countedWrite_plant (islKey_plantKey (by decide)) _ _ _ _ s)
  refine ⟨_, congrArg Host.Outcome.next (byBus_reaches h), ?_⟩
  unfold writeAmp
  extract_lets a
  have ha' : a = rdf s (islKey 0x0A0) 0 9 := hcounted
  rw [ha', if_pos ha]
  constructor
  · exact smGet_smSet_same _ _ _ _
  · exact (rdf_ampNext _).trans (by rw [← hcounted]; rfl)

theorem ampDataAccess_reads {m : Master} {s : State} (h : pageUp s .isl 0x0A4 = true) :
    ∃ t, exec (.ampDataAccess m none) s = .next t ∧ t.bus.rdata = wNat (ampEntry s (rdf s (islKey 0x0A0) 0 9)) ∧
      t.bus.err = false ∧ rdf t (islKey 0x0A0) 0 9 = (rdf s (islKey 0x0A0) 0 9 + 1) % 511 := by
  have hcounted : rdf (countedRead m .isl 0 0x0A4 s) (islKey 0x0A0) 0 9 = rdf s (islKey 0x0A0) 0 9 :=
    congrArg (fld · 0 9) (rd_pmcAccess_plant (islKey_plantKey (by decide)) _ _ _ _ s)
  have hentry : ∀ a, ampEntry (countedRead m .isl 0 0x0A4 s) a = ampEntry s a := fun a =>
    congrArg (fun x : Isl => smGet (smConst 0) x.amps a) (pmcAccess_isl _ _ _ _ s)
  refine ⟨_, congrArg Host.Outcome.next (readAt_up h), ?_⟩
  rw [hcounted, hentry]
  exact ⟨rfl, rfl, (rdf_ampNext _).trans (by rw [hcounted])⟩

/-- Settles O12: each clause is the lemma of its command. -/
theorem gridAndIslandingComplete : Obligations.GridAndIslandingComplete := by
  unfold Obligations.GridAndIslandingComplete
  exact ⟨fun _ _ _ hpage hst hok _ => gridConnect_connects hpage hst hok,
    fun _ _ _ hpage hst => gridDisconnect_requests hpage hst,
    fun _ _ hl hst hrun hb hup hdisc => gridUpdate_disconnects hl hst hrun hb hup hdisc,
    fun _ _ _ hpage hst => gridConnect_requests hpage hst,
    fun _ _ hl hst hrun hb hup => gridUpdate_serves hl hst hrun hb hup,
    fun _ _ e ecfg v _ hpage => curveEntryWrite_resets e ecfg v hpage,
    fun _ _ hpage hst hok => islEnable_completes hpage hst hok,
    fun _ _ hpage hst => islDisable_completes hpage hst,
    fun _ _ hpage hst hrest => islClear_completes hpage hst hrest,
    fun _ _ hpage hst hoff hwait hclosed => islClear_refused hpage hst hoff hwait hclosed,
    fun _ hl hon hal hst hwrap => codeEpoch_completes hl hon hal hst hwrap,
    fun _ _ _ hclosing => periodClosed_completes hclosing,
    fun _ _ hst hhold htmo _ => unsure_completes hst hhold htmo,
    fun _ v _ hpage ha => ampDataAccess_writes v hpage ha,
    fun _ _ hpage => ampDataAccess_reads hpage⟩

end Sys2Proof.Machine
end

section
/-! The trackers through each update, and what a step of one has gathered through the decisions of its end (R253 to R261). -/

namespace Sys2Proof.Machine

theorem tracker_congr {s t : State} (h : t.trackers = s.trackers) (x : Nat) : tracker t x = tracker s x :=
  congrArg (smGet tracker0 · x) h

@[simp] theorem tracker_setTracker_same (t : Nat) (x : Tracker) (s : State) : tracker (setTracker t x s) t = x :=
  smGet_smSet_same _ _ _ _

@[simp] theorem tracker_onTracker_same (t : Nat) (f : Tracker → Tracker) (s : State) :
    tracker (onTracker t f s) t = f (tracker s t) := tracker_setTracker_same _ _ _

@[simp] theorem tracker_onSweep (f : Sweep → Sweep) (s : State) (t : Nat) : tracker (onSweep f s) t = tracker s t := rfl

@[simp] theorem tracker_busCycle (s : State) (t : Nat) : tracker (busCycle s) t = tracker s t := rfl

@[simp] theorem tracker_raiseMppt (k : Nat) (s : State) (t : Nat) : tracker (raiseMppt k s) t = tracker s t :=
  tracker_congr (raise_trackers _ _ _ _) t

@[simp] theorem tracker_countedWrite (m : Master) (p : PageType) (n off : Nat) (s : State) (t : Nat) :
    tracker (countedWrite m p n off s) t = tracker s t := tracker_congr (pmcAccess_trackers _ _ _ _ s) t

@[simp] theorem raiseMppt_sweep (k : Nat) (s : State) : (raiseMppt k s).sweep = s.sweep := raise_sweep _ _ _ _

@[simp] theorem raiseMppt_now (k : Nat) (s : State) : (raiseMppt k s).now = s.now := raise_now _ _ _ _

/-! What a step has gathered -/

/-- The start of a tracker's running step and the length of the windows it has summed. -/
def stepSum (s : State) (t : Nat) : Nat × Nat := ((tracker s t).stepAt, (tracker s t).sumL)

theorem stepSum_congr {s u : State} {t : Nat} (h : tracker u t = tracker s t) : stepSum u t = stepSum s t :=
  congrArg (fun x : Tracker => (x.stepAt, x.sumL)) h

theorem stepSum_setTracker (t : Nat) (x : Tracker) (s : State) : stepSum (setTracker t x s) t = (x.stepAt, x.sumL) := by
  rw [stepSum, tracker_setTracker_same]

theorem stepSum_onTracker (t : Nat) (f : Tracker → Tracker) (s : State) :
    stepSum (onTracker t f s) t = ((f (tracker s t)).stepAt, (f (tracker s t)).sumL) := stepSum_setTracker _ _ _

section StepSum

variable (t : Nat) (s : State)

@[simp] theorem stepSum_raiseMppt (k : Nat) : stepSum (raiseMppt k s) t = stepSum s t :=
  stepSum_congr (tracker_raiseMppt k s t)

@[simp] theorem stepSum_onSweep (f : Sweep → Sweep) : stepSum (onSweep f s) t = stepSum s t := rfl

@[simp] theorem stepSum_incHeld (k lo n : Nat) : stepSum (incHeld k lo n s) t = stepSum s t := rfl

@[simp] theorem stepSum_moveRef (up : Bool) (dv : Word) : stepSum (moveRef t up dv s) t = stepSum s t :=
  stepSum_setTracker t _ s

@[simp] theorem stepSum_baseline (p : Word) : stepSum (baseline t p s) t = stepSum s t :=
  (stepSum_moveRef t _ _ _).trans (stepSum_setTracker t _ s)

@[simp] theorem stepSum_restart : stepSum (restart t s) t = stepSum s t := stepSum_onTracker t _ s

@[simp] theorem stepSum_leaveLimit : stepSum (leaveLimit t s) t = stepSum s t := stepSum_onTracker t _ s

@[simp] theorem stepSum_perturb (p : Word) : stepSum (perturb t p s) t = stepSum s t := by
  unfold perturb
  extract_lets x pdb dp lo hi y
  split
  · exact stepSum_baseline t s p
  · have hy : (y.stepAt, y.sumL) = stepSum s t := by
      unfold y
      split
      · split <;> rfl
      · split <;> rfl
    rw [stepSum_moveRef, stepSum_setTracker, ← hy]

@[simp] theorem stepSum_limitStep (c p : Word) : stepSum (limitStep t c p s) t = stepSum s t := by
  unfold limitStep
  extract_lets s1 x pdb weak up low s2
  have h1 : stepSum s1 t = stepSum s t := by
    unfold s1
    split
    · rfl
    · exact (stepSum_raiseMppt t _ _).trans (stepSum_onTracker t _ s)
  have h2 : stepSum s2 t = stepSum s1 t := stepSum_setTracker t _ s1
  repeat' split
  all_goals simp only [stepSum_leaveLimit, stepSum_moveRef, h2, h1]

@[simp] theorem stepSum_gapStep : stepSum (gapStep t s) t = stepSum s t := by
  unfold gapStep
  extract_lets s1 s2 x
  have h2 : stepSum s2 t = stepSum s t := (stepSum_raiseMppt t _ _).trans (stepSum_onTracker t _ s1)
  split
  · rw [stepSum_raiseMppt, stepSum_setTracker]
    exact h2
  · exact h2

@[simp] theorem stepSum_parkStep : stepSum (parkStep t s) t = stepSum s t := by
  unfold parkStep
  extract_lets s1 hi s2
  have h1 : stepSum s1 t = stepSum s t := by
    unfold s1
    split
    · rfl
    · exact (stepSum_raiseMppt t _ _).trans (stepSum_onTracker t _ s)
  exact (stepSum_onTracker t _ s2).trans ((stepSum_moveRef t s1 _ _).trans h1)

@[simp] theorem stepSum_beginPoint (i : Nat) : stepSum (beginPoint t i s) t = stepSum s t :=
  stepSum_onTracker t _ _

@[simp] theorem stepSum_startSweep : stepSum (startSweep t s) t = stepSum s t :=
  (stepSum_beginPoint t _ 0).trans (stepSum_onTracker t _ _)

@[simp] theorem stepSum_abortSweep : stepSum (abortSweep t s) t = stepSum s t :=
  (stepSum_raiseMppt t _ 2).trans ((stepSum_onTracker t _ _).trans (stepSum_restart t _))

/-- A sweep's point: the tracker parks, the sweep is aborted, the next point begins, or the sweep ends with a move or
without one. -/
@[simp] theorem stepSum_sweepStep (gap : Bool) (c p : Word) : stepSum (sweepStep t gap c p s) t = stepSum s t := by
  unfold sweepStep
  extract_lets i s1 y moved s2 s3
  clear_value moved
  have h3 : stepSum s3 t = stepSum s t := (stepSum_raiseMppt t _ _).trans (stepSum_restart t _)
  split
  · exact (stepSum_parkStep t _).trans (stepSum_raiseMppt t _ _)
  split
  · exact stepSum_abortSweep t _
  split
  · exact stepSum_beginPoint t _ _
  split
  · rw [stepSum_raiseMppt, stepSum_incHeld, stepSum_onTracker]
    exact h3
  · exact h3

@[simp] theorem stepSum_stepRows (gap : Bool) (c p : Word) : stepSum (stepRows t gap c p s) t = stepSum s t := by
  unfold stepRows
  extract_lets st s1 above s2
  have h1 : stepSum s1 t = stepSum s t := by
    unfold s1
    split
    · exact stepSum_restart t s
    · rfl
  have h2 : stepSum s2 t = stepSum s1 t := by
    unfold s2
    split
    · exact stepSum_onTracker t _ s1
    · rfl
  repeat' split
  all_goals simp only [stepSum_gapStep, stepSum_limitStep, stepSum_perturb, h2, h1]

/-- A step end: the next step starts where this one ended, with nothing summed (R252, R254). -/
theorem stepSum_stepEnd : stepSum (stepEnd t s) t = ((tracker s t).stepAt + stepLen s t, 0) := by
  unfold stepEnd
  extract_lets x n p v tol gap next s1 c s2 s3
  have h1 : stepSum s1 t = (next, 0) := stepSum_setTracker t _ s
  have h2 : stepSum s2 t = (next, 0) := by
    unfold s2
    split
    · exact (stepSum_onTracker t _ s1).trans h1
    · exact h1
  have h3 : stepSum s3 t = (next, 0) := (stepSum_stepRows t s2 gap c p).trans h2
  split
  · exact (stepSum_sweepStep t s1 gap c p).trans h1
  split
  · rw [stepSum_parkStep]
    split
    · exact (stepSum_raiseMppt t _ _).trans h2
    · exact h2
  split
  · exact (stepSum_startSweep t s2).trans h2
  split
  · exact h3
  split
  · exact (stepSum_startSweep t s3).trans h3
  · exact (stepSum_raiseMppt t _ _).trans h3

end StepSum

theorem stepEnd_now (t : Nat) (s : State) : (stepEnd t s).now = s.now :=
  Part.same_of_op (p := .now) (m := 3298535407624) (by decide) (fun h => stepEnd_stays h t) s

end Sys2Proof.Machine
end

section
/-! String tracking: a tracker is enabled and disabled, a sweep is asked for and falls due, a step ends or waits, and the sweep
table is read (R252, R256, R257, R260, R262, R264, R265; log entry 27). -/

namespace Sys2Proof.Machine

theorem trkKey_plantKey (t : Fin 24) {off : Nat} (ho : off < 0x40) : plantKey (trkKey t off) := by
  simp only [plantKey, trkKey, rk, pageFirst]
  omega

theorem mpptKey_plantKey {off : Nat} (ho : off < 0x1000) : plantKey (rk .mppt 0 off) := by
  simp only [plantKey, rk, pageFirst]
  omega

/-- All offsets of the MPPT page are reached alike. -/
theorem reaches_mppt {m : Master} {s : State} {a : Nat} (h : reaches s m .mppt a = true) (b : Nat) :
    reaches s m .mppt b = true := by
  rw [reaches, pageUp_off (by decide) s _ a]
  exact h

/-! CTL (R260, R262) -/

theorem writeTrkCtl_sweep (t : Nat) (s : State) :
    writeTrkCtl t 1 s = if sweepOk s t then onTracker t (fun x => { x with sweep := true }) s else raiseMppt 7 s := rfl

/-- An enable that is accepted: the first step starts now, a baseline step from V_MAX with DV_MAX (R257). -/
theorem writeTrkCtl_enables {t : Nat} {s : State} (hoff : (tracker s t).st = 0) (hok : trackerRefused s t = false) :
    tracker (writeTrkCtl t 2 s) t =
      { st := 1, vref := rd s (trkKey t 0x0C), dv := rd s (trkKey t 0x10), base := true, stepAt := s.now,
        pmeas := (tracker s t).pmeas, gap := (tracker s t).gap } := by
  have hwrite : writeTrkCtl t 2 s = if trackerRefused s t then raiseMppt 7 s else if (tracker s t).st ≠ 0 then s else
      onTracker t (fun x => { st := 1, vref := rd s (trkKey t 0x0C), dv := rd s (trkKey t 0x10), base := true,
                              stepAt := s.now, pmeas := x.pmeas, gap := x.gap }) s := rfl
  rw [hwrite, hok, if_neg Bool.false_ne_true, if_neg (not_not.mpr hoff), tracker_onTracker_same]

/-- A disable leaves P_MEAS and GAP alone, from a sweep too. -/
theorem writeTrkCtl_disables (t : Nat) (s : State) :
    tracker (writeTrkCtl t 4 s) t = { pmeas := (tracker s t).pmeas, gap := (tracker s t).gap } := by
  have hwrite : writeTrkCtl t 4 s = onTracker t (fun x => { pmeas := x.pmeas, gap := x.gap })
      (if (tracker s t).st = 4 then raiseMppt 2 (onSweep (fun y => { y with busy := false }) s) else s) := rfl
  rw [hwrite, tracker_onTracker_same]
  split
  · rw [tracker_raiseMppt, tracker_onSweep]
  · rfl

section Counted

variable (m : Master) (n off : Nat) (s : State) (t : Fin 24)

/-- The enable's conditions do not change by a write that is counted. -/
theorem trackerRefused_countedWrite :
    trackerRefused (countedWrite m .mppt n off s) t = trackerRefused s t := by
  have hreg : ∀ o, o < 0x40 → rd (countedWrite m .mppt n off s) (trkKey t o) = rd s (trkKey t o) := fun o ho =>
    rd_countedWrite_plant (trkKey_plantKey t ho) _ _ _ _ s
  have hcfg : rd (countedWrite m .mppt n off s) (rk .mppt 0 0x040) = rd s (rk .mppt 0 0x040) :=
    rd_countedWrite_plant (mpptKey_plantKey (by decide)) _ _ _ _ s
  have hmode : ∀ c, adcMode (countedWrite m .mppt n off s) c = adcMode s c := fun c =>
    congrArg (fld · 0 2) (inForce_pmcAccess _ _ _ _ s _)
  unfold trackerRefused stepLen settleLen rdf
  simp only [hcfg, hmode, hreg 0 (by decide), hreg 0x04 (by decide), hreg 0x08 (by decide), hreg 0x0C (by decide),
    hreg 0x10 (by decide), hreg 0x14 (by decide), hreg 0x1C (by decide)]

theorem sweepOk_countedWrite : sweepOk (countedWrite m .mppt n off s) t = sweepOk s t := by
  rw [sweepOk, tracker_countedWrite, inSaddle, countedWrite, pmcAccess_plumb, pmcAccess_sweep]
  rfl

end Counted

section Ctl

variable {m : Master} {x : Fin 24} {s : State} (h : reaches s m .mppt 0x130 = true)
include h

theorem trackerEnable_completes (hoff : (tracker s x).st = 0) (hok : trackerRefused s x = false) :
    ∃ t, exec (.trackerEnable m x) s = .next t ∧ (tracker t x).st = 1 ∧ (tracker t x).vref = rd s (trkKey x 0x0C) ∧
      (tracker t x).dv = rd s (trkKey x 0x10) ∧ (tracker t x).base = true ∧ (tracker t x).stepAt = s.now := by
  refine ⟨_, congrArg Host.Outcome.next (byBus_reaches (reaches_mppt h _)), ?_⟩
  rw [tracker_busCycle, writeTrkCtl_enables (by rwa [tracker_countedWrite]) (by rwa [trackerRefused_countedWrite])]
  exact ⟨rfl, rd_countedWrite_plant (trkKey_plantKey x (by decide)) _ _ _ _ s,
    rd_countedWrite_plant (trkKey_plantKey x (by decide)) _ _ _ _ s, rfl, pmcAccess_now _ _ _ _ s⟩

theorem trackerDisable_completes (x : Fin 24) :
    ∃ t, exec (.trackerDisable m x) s = .next t ∧
      tracker t x = { pmeas := (tracker s x).pmeas, gap := (tracker s x).gap } := by
  refine ⟨_, congrArg Host.Outcome.next (byBus_reaches (reaches_mppt h _)), ?_⟩
  rw [tracker_busCycle, writeTrkCtl_disables, tracker_countedWrite]

theorem sweepNow_completes (hok : sweepOk s x = true) :
    ∃ t, exec (.sweepNow m x) s = .next t ∧ (tracker t x).sweep = true ∧ (tracker t x).st = 1 := by
  have htrack : (tracker s x).st = 1 := by
    simp only [sweepOk, Bool.and_eq_true, decide_eq_true_eq] at hok
    obtain ⟨⟨htrack, -⟩, -⟩ := hok
    exact htrack
  refine ⟨_, congrArg Host.Outcome.next (byBus_reaches (reaches_mppt h _)), ?_⟩
  rw [writeTrkCtl_sweep, sweepOk_countedWrite, hok, if_pos rfl, tracker_busCycle, tracker_onTracker_same,
    tracker_countedWrite]
  exact ⟨rfl, htrack⟩

end Ctl

/-! The scheduler of sweeps (R260) -/

theorem sweepDue_completes {s : State} {a : Nat} (hl : live s .eng = true) (hdue : s.sweep.due = some a) :
    ∃ t, exec .sweepDue s = .next t ∧ t.sweep.due = some (a + rdf s (rk .mppt 0 0x040) 16 16 * secs) ∧ a ≤ t.now := by
  refine ⟨_, rfl, ?_⟩
  simp only [hdue, hl, Bool.not_true, Bool.false_eq_true, if_false]
  split
  case h_1 => exact ⟨rfl, le_upto_now a s⟩
  case h_2 t _ =>
    split
    · exact ⟨rfl, le_upto_now a s⟩
    · rw [raiseMppt_sweep, raiseMppt_now]
      exact ⟨rfl, le_upto_now a s⟩

/-! A step's end, and its wait (R252, R256; log entry 27) -/

section StepEnd

variable {x : Fin 24} {s : State} (hl : live s .eng = true) (hon : (tracker s x).st ≠ 0)
include hl hon

theorem stepEnd_completes
    (hdecides : (tracker s x).late = true ∨ undelivered s (trkCurr s x) ((tracker s x).stepAt + stepLen s x) = false) :
    ∃ t, exec (.stepEnd x) s = .next t ∧ (tracker t x).stepAt = (tracker s x).stepAt + stepLen s x ∧
      (tracker s x).stepAt + stepLen s x ≤ t.now ∧ (tracker t x).sumL = 0 := by
  have hwaits : (!(tracker s x).late && undelivered s (trkCurr s x) ((tracker s x).stepAt + stepLen s x)) = false := by
    obtain h | h := hdecides <;> simp [h]
  have hexec : execStepEnd x s = .next (stepEnd x (upto ((tracker s x).stepAt + stepLen s x) s)) := by
    simp [execStepEnd, hon, hl, hwaits]
  obtain ⟨hat, hsum⟩ := Prod.mk.inj (stepSum_stepEnd x (upto ((tracker s x).stepAt + stepLen s x) s))
  refine ⟨_, hexec, hat, ?_, hsum⟩
  rw [stepEnd_now]
  exact le_upto_now _ s

theorem stepEnd_waits (hlate : (tracker s x).late = false)
    (hdue : undelivered s (trkCurr s x) ((tracker s x).stepAt + stepLen s x) = true) :
    ∃ t, exec (.stepEnd x) s = .next t ∧ (tracker t x).late = true ∧ (tracker t x).stepAt = (tracker s x).stepAt ∧
      (tracker t x).sumL = (tracker s x).sumL ∧ (tracker s x).stepAt + stepLen s x ≤ t.now := by
  have hexec : execStepEnd x s = .next (onTracker x (fun y => { y with late := true })
      (upto ((tracker s x).stepAt + stepLen s x) s)) := by
    simp [execStepEnd, hon, hl, hlate, hdue]
  refine ⟨_, hexec, ?_⟩
  rw [tracker_onTracker_same]
  exact ⟨rfl, rfl, rfl, le_upto_now _ s⟩

end StepEnd

/-! The sweep table (R264; log entry 27) -/

theorem swpPRead_completes {m : Master} {s : State} (h : pageUp s .mppt 0x050 = true) :
    ∃ t, exec (.swpPRead m) s = .next t ∧
      t.bus.rdata = smGet (smConst nanF) s.sweep.pows (rdf s (rk .mppt 0 0x048) 0 7) ∧ t.bus.err = false ∧
      rdf t (rk .mppt 0 0x048) 0 7 =
        (if rdf s (rk .mppt 0 0x048) 0 7 < 64 then rdf s (rk .mppt 0 0x048) 0 7 + 1 else 0) := by
  have haddr : rdf (countedRead m .mppt 0 0x050 s) (rk .mppt 0 0x048) 0 7 = rdf s (rk .mppt 0 0x048) 0 7 :=
    congrArg (fld · 0 7) (rd_pmcAccess_plant (mpptKey_plantKey (by decide)) _ _ _ _ s)
  have hpows : (countedRead m .mppt 0 0x050 s).sweep = s.sweep := pmcAccess_sweep _ _ _ _ s
  refine ⟨_, congrArg Host.Outcome.next (readAt_up h), ?_⟩
  dsimp only
  rw [haddr, hpows]
  refine ⟨rfl, rfl, ?_⟩
  rw [rdf, rd_respond, ← rdf, rdf_wrf_same _ _ _ _ _ (by decide)]
  split <;> omega

/-- Settles O13: each clause is the lemma of its command. -/
theorem trackersComplete : Obligations.TrackersComplete := by
  unfold Obligations.TrackersComplete
  exact ⟨fun _ _ _ => trackerEnable_completes, fun _ x _ hpage => trackerDisable_completes hpage x,
    fun _ _ _ => sweepNow_completes, fun _ _ => sweepDue_completes, fun _ _ => stepEnd_completes,
    fun _ _ => stepEnd_waits, fun _ _ => swpPRead_completes⟩

end Sys2Proof.Machine
end

section
/-! The rails and the command ports through each update, and what a command of a source leaves of a rail (R277, R278). -/

namespace Sys2Proof.Machine

theorem rail_congr {s t : State} (h : t.rails = s.rails) (r : Nat) : rail t r = rail s r := congrArg (smGet rail0 · r) h

@[simp] theorem rail_setRail_same (r : Nat) (x : Rail) (s : State) : rail (setRail r x s) r = x := smGet_smSet_same _ _ _ _

theorem rail_setRail_ne {r q : Nat} (x : Rail) (s : State) (h : r ≠ q) : rail (setRail q x s) r = rail s r :=
  smGet_smSet_ne _ _ _ h

@[simp] theorem rail_onRail_same (r : Nat) (f : Rail → Rail) (s : State) : rail (onRail r f s) r = f (rail s r) :=
  rail_setRail_same _ _ _

theorem rail_onRail_ne {r q : Nat} (f : Rail → Rail) (s : State) (h : r ≠ q) : rail (onRail q f s) r = rail s r :=
  rail_setRail_ne _ _ h

@[simp] theorem rail_incHeld (k lo n : Nat) (s : State) (r : Nat) : rail (incHeld k lo n s) r = rail s r := rfl

@[simp] theorem rail_onPorts (f : CmdPorts → CmdPorts) (s : State) (r : Nat) : rail (onPorts f s) r = rail s r := rfl

@[simp] theorem raiseReg_rails (q k : Nat) (s : State) : (raiseReg q k s).rails = s.rails := by
  unfold raiseReg regAlert
  split <;> exact raise_rails _ _ _ _

@[simp] theorem rail_raiseReg (q k : Nat) (s : State) (r : Nat) : rail (raiseReg q k s) r = rail s r :=
  rail_congr (raiseReg_rails q k s) r

/-- What an update of one rail leaves of every rail. -/
theorem onRail_keeps {α : Type} {π : Rail → α} {f : Rail → Rail} (hf : ∀ x, π (f x) = π x) (q : Nat) (s : State) (r : Nat) :
    π (rail (onRail q f s) r) = π (rail s r) := by
  by_cases h : r = q
  · rw [h, rail_onRail_same, hf]
  · rw [rail_onRail_ne f s h]

/-! Commands (R277, R278) -/

/-- Limiting a command sets CMD_CLAMP where it changes the value, and does nothing else to the state. -/
theorem limitCmd_state (q : Nat) (v : Word) (s : State) : (limitCmd q v s).2 = s ∨
    (limitCmd q v s).2 = raiseReg q 11 (onRail q (fun x => { x with clamp := true }) s) := by
  unfold limitCmd
  extract_lets lo hi w
  by_cases hw : w = v
  · exact .inl (if_pos hw)
  · exact .inr (if_neg hw)

theorem rail_limitCmd_ne {r q : Nat} (v : Word) (s : State) (h : r ≠ q) : rail (limitCmd q v s).2 r = rail s r := by
  obtain hs | hs := limitCmd_state q v s
  · rw [hs]
  · rw [hs, rail_raiseReg, rail_onRail_ne _ s h]

theorem rail_railCommand_ne {r q : Nat} (src : Nat) (v : Word) (rate : Option Word) (s : State) (h : r ≠ q) :
    rail (railCommand q src v rate s) r = rail s r := by
  unfold railCommand
  split
  · rw [rail_raiseReg, rail_incHeld]
  · exact (rail_onRail_ne _ _ h).trans (rail_limitCmd_ne v s h)

theorem limitCmd_keeps {α : Type} {π : Rail → α} (hclamp : ∀ x, π { x with clamp := true } = π x) (q : Nat) (v : Word)
    (s : State) (r : Nat) : π (rail (limitCmd q v s).2 r) = π (rail s r) := by
  obtain hs | hs := limitCmd_state q v s
  · rw [hs]
  · rw [hs, rail_raiseReg, onRail_keeps hclamp]

/-- The writes that a rail holds for AVSBus wait for a commit, whatever commands it takes meanwhile. -/
theorem railCommand_held (q src : Nat) (v : Word) (rate : Option Word) (s : State) (r : Nat) :
    (rail (railCommand q src v rate s) r).held = (rail s r).held := by
  unfold railCommand
  split
  · rw [rail_raiseReg, rail_incHeld]
  · refine (onRail_keeps (π := Rail.held) (fun x => ?_) q _ r).trans
      (limitCmd_keeps (π := Rail.held) (fun _ => rfl) q v s r)
    split <;> rfl

/-- Outside OFF a command waits for a boundary: it is not taken at once. -/
theorem railCommand_taken_of_on {r : Nat} {s : State} (hon : (rail s r).st ≠ 0) (src : Nat) (v : Word) (rate : Option Word) :
    (rail (railCommand r src v rate s) r).taken = (rail s r).taken := by
  unfold railCommand
  split
  · rw [rail_raiseReg, rail_incHeld]
  · have hst : (rail (limitCmd r v s).2 r).st ≠ 0 := by rwa [limitCmd_keeps (π := Rail.st) fun _ => rfl]
    rw [rail_onRail_same, if_neg hst]
    exact limitCmd_keeps (π := Rail.taken) (fun _ => rfl) r v s r

end Sys2Proof.Machine
end

section
/-! AVSBus: write frames, held and committed, read frames, unknown commands, and frames with a bad CRC (R280; log entry 29). -/

namespace Sys2Proof.Machine

/-! What one write does to the rails -/

/-- Transition rates go to SLEW_UP and SLEW_DN, or are ignored and counted: the rails stay. -/
theorem avsApply_rate_rails (q up dn : Nat) (s : State) : (avsApply q (.rate up dn) s).rails = s.rails := by
  unfold avsApply
  dsimp only
  split
  · exact raiseReg_rails q 9 _
  · rfl

theorem rail_avsApply_ne {r q : Nat} (w : AvsWrite) (s : State) (h : r ≠ q) : rail (avsApply q w s) r = rail s r := by
  cases w with
  | volt mv => exact rail_railCommand_ne _ _ _ s h
  | boot => exact rail_railCommand_ne _ _ _ s h
  | status => exact rail_onRail_ne _ s h
  | rate up dn => exact rail_congr (avsApply_rate_rails q up dn s) r

theorem avsApply_held (q : Nat) (w : AvsWrite) (s : State) (r : Nat) : (rail (avsApply q w s) r).held = (rail s r).held := by
  cases w with
  | volt mv => exact railCommand_held _ _ _ _ s r
  | boot => exact railCommand_held _ _ _ _ s r
  | status => exact onRail_keeps (π := Rail.held) (f := fun x => { x with alert := false }) (fun _ => rfl) q s r
  | rate up dn => exact congrArg Rail.held (rail_congr (avsApply_rate_rails q up dn s) r)

theorem avsApply_status_alert (r : Nat) (s : State) : (rail (avsApply r .status s) r).alert = false :=
  congrArg Rail.alert (rail_onRail_same r _ s)

/-! A write frame at the rails that it addresses -/

/-- What a write frame does to one rail: the write joins those held, and a commit gives them all, in their order. -/
def avsTake (commit : Bool) (w : AvsWrite) (r : Nat) (s : State) : State :=
  let ws := (rail s r).held ++ [w]
  if commit then forEach ws (avsApply r) (onRail r (fun x => { x with held := [] }) s)
  else onRail r (fun x => { x with held := ws }) s

theorem avsWrite_eq {sel : Fin 16} {r : Nat} {s : State} (hr : r ∈ avsRails s sel) (commit : Bool) (w : AvsWrite) :
    avsWrite ⟨sel, false⟩ commit w s =
      onPorts (fun p => { p with avs := .ok 0 }) (forEach (avsRails s sel) (avsTake commit w) s) := by
  unfold avsWrite
  dsimp only
  rw [if_neg (by simpa using List.ne_nil_of_mem hr), if_neg Bool.false_ne_true]
  rfl

theorem rail_avsTake_ne {r q : Nat} (commit : Bool) (w : AvsWrite) (s : State) (h : r ≠ q) :
    rail (avsTake commit w q s) r = rail s r := by
  unfold avsTake
  dsimp only
  split
  · rw [forEach_mem_keeps (π := (rail · r)) fun v _ u => rail_avsApply_ne v u h, rail_onRail_ne _ s h]
  · exact rail_onRail_ne _ s h

theorem avsTake_holds (w : AvsWrite) (r : Nat) (s : State) :
    rail (avsTake false w r s) r = { rail s r with held := (rail s r).held ++ [w] } := by
  rw [avsTake, if_neg Bool.false_ne_true, rail_onRail_same]

theorem avsTake_commits_held (w : AvsWrite) (r : Nat) (s : State) : (rail (avsTake true w r s) r).held = [] := by
  rw [avsTake, if_pos rfl, forEach_mem_keeps (π := fun u => (rail u r).held) fun v _ u => avsApply_held r v u r,
    rail_onRail_same]

theorem forEach_append {α : Type} (f : α → State → State) :
    ∀ (l k : List α) (s : State), forEach (l ++ k) f s = forEach k f (forEach l f s)
  | [], _, _ => rfl
  | x :: l, k, s => forEach_append f l k (f x s)

/-- The write of the committing frame comes last: where it clears the status alert, the alert is clear. -/
theorem avsTake_commits_status (r : Nat) (s : State) : (rail (avsTake true .status r s) r).alert = false := by
  rw [avsTake, if_pos rfl, forEach_append]
  exact avsApply_status_alert r _

theorem avsRails_nodup (s : State) (sel : Nat) : (avsRails s sel).Nodup := by
  unfold avsRails
  split
  · exact List.nodup_nil
  · exact List.nodup_range.filter _

/-- A rail that is named once is changed by its own turn alone, at which it stands as at the start. -/
theorem rail_forEach_once {f : Nat → State → State} {r : Nat} (hf : ∀ q s, r ≠ q → rail (f q s) r = rail s r) :
    ∀ {rs : List Nat}, rs.Nodup → r ∈ rs → ∀ s, ∃ u, rail u r = rail s r ∧ rail (forEach rs f s) r = rail (f r u) r
  | [], _, hr, _ => absurd hr List.not_mem_nil
  | q :: rs, hnd, hr, s => by
    obtain ⟨hq, hrs⟩ := List.nodup_cons.mp hnd
    by_cases h : r = q
    · subst h
      exact ⟨s, rfl, forEach_mem_keeps (π := (rail · r)) (fun p hp u => hf p u fun e => hq (e ▸ hp)) _⟩
    · obtain ⟨u, hu, hlast⟩ := rail_forEach_once hf hrs ((List.mem_cons.mp hr).resolve_left h) (f q s)
      exact ⟨u, hu.trans (hf q s h), hlast⟩

section Frames

variable {sel : Fin 16} {r : Nat} {s : State}

theorem avsWrite_at_rail (hr : r ∈ avsRails s sel) (commit : Bool) (w : AvsWrite) :
    ∃ u, rail u r = rail s r ∧ rail (avsWrite ⟨sel, false⟩ commit w s) r = rail (avsTake commit w r u) r := by
  rw [avsWrite_eq hr, rail_onPorts]
  exact rail_forEach_once (fun q v hq => rail_avsTake_ne commit w v hq) (avsRails_nodup s sel) hr s

theorem avsWrite_completes (hr : r ∈ avsRails s sel) (commit : Bool) (w : AvsWrite) :
    (avsWrite ⟨sel, false⟩ commit w s).cmdPorts.avs = .ok 0 ∧
      (rail (avsWrite ⟨sel, false⟩ commit w s) r).held = (if commit then [] else (rail s r).held ++ [w]) := by
  obtain ⟨u, hu, hrail⟩ := avsWrite_at_rail hr commit w
  refine ⟨congrArg (·.cmdPorts.avs) (avsWrite_eq hr commit w), ?_⟩
  rw [hrail]
  cases commit with
  | false => rw [avsTake_holds, hu, if_neg Bool.false_ne_true]
  | true => exact avsTake_commits_held w r u

theorem avsStatusWrite_completes (hr : r ∈ avsRails s sel) (commit : Bool) :
    ∃ t, exec (.avsStatusWrite ⟨sel, false⟩ commit) s = .next t ∧ t.cmdPorts.avs = .ok 0 ∧
      (if commit then (rail t r).held = [] ∧ (rail t r).alert = false else
        (rail t r).held = (rail s r).held ++ [.status] ∧ (rail t r).alert = (rail s r).alert) := by
  obtain ⟨hok, hheld⟩ := avsWrite_completes hr commit .status
  obtain ⟨u, hu, hrail⟩ := avsWrite_at_rail hr commit .status
  refine ⟨_, rfl, hok, ?_⟩
  cases commit with
  | false =>
    refine ⟨hheld, ?_⟩
    rw [hrail, avsTake_holds, hu]
  | true =>
    refine ⟨hheld, ?_⟩
    rw [hrail, avsTake_commits_status]

/-- A write frame with a bad CRC changes the answer alone. -/
theorem avsWrite_badCrc (hrs : (avsRails s sel).isEmpty = false) (commit : Bool) (w : AvsWrite) :
    avsWrite ⟨sel, true⟩ commit w s = onPorts (fun p => { p with avs := .badCrc }) s := by
  unfold avsWrite
  dsimp only
  rw [hrs, if_neg Bool.false_ne_true, if_pos rfl]

theorem avsWrite_badCrc_completes (hrs : (avsRails s sel).isEmpty = false) (commit : Bool) (w : AvsWrite) :
    (avsWrite ⟨sel, true⟩ commit w s).cmdPorts.avs = .badCrc ∧ (avsWrite ⟨sel, true⟩ commit w s).rails = s.rails ∧
      (avsWrite ⟨sel, true⟩ commit w s).regs = s.regs := by
  rw [avsWrite_badCrc hrs]
  exact ⟨rfl, rfl, rfl⟩

theorem avsInvalid_answers (hrs : (avsRails s sel).isEmpty = false) :
    ∃ t, exec (.avsInvalidCommand ⟨sel, false⟩) s = .next t ∧ t.cmdPorts.avs = .invalid := by
  refine ⟨_, rfl, ?_⟩
  rw [onPorts, hrs]
  rfl

/-! A read frame -/

theorem avsRead_answers (hr : avsReader s sel = some r) (get : State → Nat → Nat) :
    (avsRead ⟨sel, false⟩ get s).cmdPorts.avs = .ok (get s r % 65536) := by
  rw [avsRead, hr]
  rfl

theorem avsRead_badCrc (hr : avsReader s sel = some r) (get : State → Nat → Nat) :
    (avsRead ⟨sel, true⟩ get s).cmdPorts.avs = .badCrc := by
  rw [avsRead, hr]
  rfl

/-- The bits of the status word stand apart within its 16 bits. -/
theorem avsStatus_lt (x : Rail) : (if x.avsDone then 0x8000 else 0) + (if x.alert then 1 else 0) + (if x.pg then 2 else 0) +
    (if x.st = 5 then 4 else 0) < 65536 := by
  split_ifs <;> decide

theorem avsStatusRead_answers (hr : avsReader s sel = some r) :
    ∃ t, exec (.avsStatusRead ⟨sel, false⟩) s = .next t ∧ t.cmdPorts.avs = .ok ((if (rail s r).avsDone then 0x8000 else 0) +
      (if (rail s r).alert then 1 else 0) + (if (rail s r).pg then 2 else 0) + (if (rail s r).st = 5 then 4 else 0)) := by
  refine ⟨_, rfl, (avsRead_answers hr _).trans ?_⟩
  simp only [decide_eq_true_eq]
  rw [Nat.mod_eq_of_lt (avsStatus_lt (rail s r))]

end Frames

/-- Settles O15: each clause is what the write frame, the read frame or the unknown command does, with the frame's data. -/
theorem avsBusCompletes : Obligations.AvsBusCompletes := by
  unfold Obligations.AvsBusCompletes
  exact ⟨fun _ commit mv _ _ hr => ⟨_, rfl, avsWrite_completes hr commit (.volt mv.toNat)⟩,
    fun _ _ _ hr => ⟨_, rfl, avsRead_answers hr _⟩,
    fun _ commit up dn _ _ hr => ⟨_, rfl, avsWrite_completes hr commit (.rate up.toNat dn.toNat)⟩,
    fun _ _ _ hr => ⟨_, rfl, avsRead_answers hr _⟩,
    fun _ _ _ hr => ⟨_, rfl, avsRead_answers hr _⟩,
    fun _ _ _ hr => ⟨_, rfl, avsRead_answers hr _⟩,
    fun _ commit _ _ hr => ⟨_, rfl, avsWrite_completes hr commit .boot⟩,
    fun _ commit _ _ hr => avsStatusWrite_completes hr commit,
    fun _ _ _ hr => avsStatusRead_answers hr,
    fun _ _ hrs => avsInvalid_answers hrs,
    fun _ commit mv _ hrs => ⟨_, rfl, avsWrite_badCrc_completes hrs commit (.volt mv.toNat)⟩,
    fun _ commit up dn _ hrs => ⟨_, rfl, avsWrite_badCrc_completes hrs commit (.rate up.toNat dn.toNat)⟩,
    fun _ commit _ hrs => ⟨_, rfl, avsWrite_badCrc_completes hrs commit .boot⟩,
    fun _ commit _ hrs => ⟨_, rfl, avsWrite_badCrc_completes hrs commit .status⟩,
    fun _ _ _ hr => ⟨_, rfl, avsRead_badCrc hr _⟩⟩

end Sys2Proof.Machine
end

section
/-! PMBus: the statement fails at a rail that runs, where VOUT_COMMAND waits for a boundary (R278, R281). -/

namespace Sys2Proof.Machine

/-- A command with the target's address and a right PEC acts after its acknowledgement. -/
theorem pmbWrite_mine {addr : BitVec 7} {s : State} (h : pmbMine s addr = true) (act : State → State) :
    pmbWrite addr false act s = act (pmbAnswer true 0 s) := by simp [pmbWrite, h]

/-- VOUT_COMMAND to a rail that is not OFF leaves it as it is whether a command was taken since the last disable. -/
theorem voutCommand_taken_of_on {addr : BitVec 7} {s : State} (hmine : pmbMine s addr = true)
    (hon : (rail s s.cmdPorts.page).st ≠ 0) (v : BitVec 16) :
    ∃ t, exec (.voutCommand addr false v) s = .next t ∧
      (rail t s.cmdPorts.page).taken = (rail s s.cmdPorts.page).taken := by
  refine ⟨_, congrArg Host.Outcome.next (pmbWrite_mine hmine _), ?_⟩
  exact railCommand_taken_of_on (s := pmbAnswer true 0 s) hon _ _ _

/-- Rail 0 runs at 1.0 V, its boot voltage, under PMBus at address 0x40, and no command has been taken since its enable. -/
def runningRail : State := { runningBlock with
  rails := [(0, { st := 2, vref := 0x3F800000#32, target := 0x3F800000#32, vout := 0x3F800000#32, pg := true })],
  regs := [(regKey 0 0x040, 0x20000#32), (regKey 0 0x080, 0x3F800000#32), (regKey 0 0x088, 0x40000000#32),
    (regKey 0 0x108, 0x14C0#32)] }

/-- Refutes O16, in its clause on VOUT_COMMAND: of a rail in RUN the command is taken at a boundary 400 ns later (R278), so the
rail has taken none when the command has been acknowledged. -/
theorem not_pmBusCompletes : ¬ Obligations.PmBusCompletes := by
  unfold Obligations.PmBusCompletes
  rintro ⟨-, -, -, -, hvout, -⟩
  have hmine : pmbMine runningRail 0x40#7 = true := by decide +kernel
  have hsource : rdf runningRail (regKey runningRail.cmdPorts.page 0x040) 16 3 = 2 := by decide +kernel
  have hon : (rail runningRail runningRail.cmdPorts.page).st ≠ 0 := by decide +kernel
  have hnone : (rail runningRail runningRail.cmdPorts.page).taken = false := by decide +kernel
  obtain ⟨t, ht, -, htaken⟩ := hvout 0x40#7 0x0100#16 runningRail hmine hsource
  obtain ⟨u, hu, hkept⟩ := voutCommand_taken_of_on hmine hon 0x0100#16
  obtain rfl : t = u := Host.Outcome.next.inj (ht.symm.trans hu)
  exact absurd (htaken.symm.trans (hkept.trans hnone)) (by decide)

end Sys2Proof.Machine
end

section
/-! The metering ports through each update, and their registers among the others; what the close of a cycle takes of its port. -/

namespace Sys2Proof.Machine

/-! Ports -/

theorem meter_congr {s t : State} (h : t.meters = s.meters) (p : Nat) : meter t p = meter s p := congrArg (smGet meter0 · p) h

@[simp] theorem meter_setMeter_same (p : Nat) (x : Meter) (s : State) : meter (setMeter p x s) p = x := smGet_smSet_same _ _ _ _

theorem meter_setMeter_ne {p q : Nat} (x : Meter) (s : State) (h : p ≠ q) : meter (setMeter q x s) p = meter s p :=
  smGet_smSet_ne _ _ _ h

@[simp] theorem meter_onMeter_same (p : Nat) (f : Meter → Meter) (s : State) : meter (onMeter p f s) p = f (meter s p) :=
  meter_setMeter_same _ _ _

@[simp] theorem meter_wrb (k b : Nat) (v : Bool) (s : State) (p : Nat) : meter (wrb k b v s) p = meter s p := rfl

@[simp] theorem meter_busCycle (s : State) (p : Nat) : meter (busCycle s) p = meter s p := rfl

@[simp] theorem meter_logHap (page : Nat) (s : State) (p : Nat) : meter (logHap page s) p = meter s p := rfl

@[simp] theorem meter_raiseMtr (q k : Nat) (s : State) (p : Nat) : meter (raiseMtr q k s) p = meter s p :=
  meter_congr (raise_meters _ _ _ _) p

@[simp] theorem meter_countedWrite (m : Master) (t : PageType) (n off : Nat) (s : State) (p : Nat) :
    meter (countedWrite m t n off s) p = meter s p := meter_congr (pmcAccess_meters _ _ _ _ s) p

@[simp] theorem meter_countedRead (m : Master) (t : PageType) (n off : Nat) (s : State) (p : Nat) :
    meter (countedRead m t n off s) p = meter s p := meter_congr (pmcAccess_meters _ _ _ _ s) p

@[simp] theorem meter_bookPreset (m : Master) (q : Nat) (s : State) (p : Nat) : meter (bookPreset m q s) p = meter s p :=
  meter_congr (bookRequested_meters _ _ _ _ _ _ _) p

/-! Registers -/

theorem mtrKey_plantKey {p off : Nat} (hp : p < 4) (ho : off < 0x1000) : plantKey (mtrKey p off) := by
  simp only [plantKey, mtrKey, rk, pageFirst]
  omega

theorem mtrKey_inj {p a b : Nat} : mtrKey p a = mtrKey p b ↔ a = b := rk_inj

theorem rdb_raiseMtr (p : Nat) {k : Nat} (s : State) (hk : k < 32) : rdb (raiseMtr p k s) (rk .mtr p 0x010) k = true :=
  rdb_raise _ _ _ _ hk (by simp only [rk, pageFirst]; omega)

/-- What a capture writes into a row of registers, each stands in its own. -/
theorem rd_forEach_wr {k : Nat → Nat} (v : Nat → Word) {i : Nat} :
    ∀ {l : List Nat}, (∀ j ∈ l, k j = k i → j = i) → i ∈ l → ∀ s, rd (forEach l (fun j s => wr (k j) (v j) s) s) (k i) = v i
  | j :: l, hk, hi, s => by
    have htail := fun h => rd_forEach_wr v (fun j hj => hk j (List.mem_cons_of_mem _ hj)) h (wr (k j) (v j) s)
    by_cases h : i ∈ l
    · exact htail h
    · obtain rfl : i = j := (List.mem_cons.mp hi).resolve_right h
      have hrest : ∀ j ∈ l, ∀ u, rd (wr (k j) (v j) u) (k i) = rd u (k i) := fun j hj u =>
        rd_wr_ne _ _ fun he => h (hk j (List.mem_cons_of_mem _ hj) he.symm ▸ hj)
      exact (forEach_mem_keeps (π := (rd · (k i))) hrest _).trans (rd_wr_same _ _ _)

/-! The close of a cycle takes from its port's queue what it is given, and writes the newest cycle: its other steps leave both. -/

/-- The ended cycles that wait, and the newest closed one. -/
def closings (x : Meter) : List MtrCyc × List Word := (x.ended, x.latest)

/-- An update of the other fields of one port leaves both of every port. -/
theorem closings_setMeter {q : Nat} {x : Meter} {s : State} (p : Nat) (hended : x.ended = (meter s q).ended := by rfl)
    (hlatest : x.latest = (meter s q).latest := by rfl) : closings (meter (setMeter q x s) p) = closings (meter s p) := by
  by_cases h : p = q
  · rw [h, meter_setMeter_same, closings, closings, hended, hlatest]
  · rw [meter_setMeter_ne _ _ h]

theorem closings_onMeter {q : Nat} {f : Meter → Meter} {s : State} (p : Nat)
    (hended : (f (meter s q)).ended = (meter s q).ended := by rfl)
    (hlatest : (f (meter s q)).latest = (meter s q).latest := by rfl) :
    closings (meter (onMeter q f s) p) = closings (meter s p) :=
  closings_setMeter p hended hlatest

theorem closings_addEnergy (q k e : Nat) (s : State) (p : Nat) :
    closings (meter (addEnergy q k e s) p) = closings (meter s p) := by
  unfold addEnergy
  extract_lets x v s1
  have h1 : closings (meter s1 p) = closings (meter s p) := closings_setMeter p
  split
  · exact h1
  · rw [meter_raiseMtr, meter_wrb, h1]

theorem closings_takePreset (q : Nat) (s : State) (p : Nat) :
    closings (meter (takePreset q s) p) = closings (meter s p) := by
  unfold takePreset
  split
  · rfl
  · rw [meter_raiseMtr, meter_wrb]
    exact closings_onMeter p

theorem closings_takePulses (q p : Nat) : ∀ (n : Nat) (s : State),
    closings (meter (takePulses q n s) p) = closings (meter s p)
  | 0, _ => rfl
  | n + 1, s => by
    unfold takePulses
    extract_lets x y
    split
    · rfl
    · rw [closings_takePulses q p n]
      split
      · exact closings_setMeter p
      · rw [meter_raiseMtr]
        exact closings_setMeter p

theorem closings_forEach {α : Type} {f : α → State → State} {p : Nat}
    (hf : ∀ x s, closings (meter (f x s) p) = closings (meter s p)) (l : List α) (s : State) :
    closings (meter (forEach l f s) p) = closings (meter s p) :=
  forEach_mem_keeps (π := fun s => closings (meter s p)) (fun x _ => hf x) s

theorem closings_feedPulses (q : Nat) (es : List Nat) (s : State) (p : Nat) :
    closings (meter (feedPulses q es s) p) = closings (meter s p) := by
  refine closings_forEach (fun r u => ?_) _ s
  dsimp only
  split
  · rfl
  · rw [closings_takePulses]
    exact closings_onMeter p

theorem closings_mtrChecks (q : Nat) (c : MtrCyc) (s : State) (p : Nat) :
    closings (meter (mtrChecks q c s).2.2 p) = closings (meter s p) := by
  have hhit : ∀ (b : Bool) k u, meter (if b then logHap (pageNo .mtr q) (raiseMtr q k u) else u) p = meter u p := fun b k u => by
    split
    · rw [meter_logHap, meter_raiseMtr]
    · rfl
  unfold mtrChecks
  dsimp only
  rw [hhit, hhit, hhit]
  exact closings_setMeter p

/-- The energy of a cycle enters the accumulators and the pulse stages, but for what creeps (R304 to R306, R309). -/
def energyTaken (p : Nat) (es : List Nat) (creep xtr : Bool) (s : State) : State :=
  if creep then s else
    let s := forEach (List.range 5) (fun k s => addEnergy p k (es.getD k 0) s) s
    let s := if xtr then addEnergy p 6 (es.getD 1 0) (addEnergy p 5 (es.getD 0 0) s) else s
    feedPulses p es s

theorem closings_energyTaken (q : Nat) (es : List Nat) (creep xtr : Bool) (s : State) (p : Nat) :
    closings (meter (energyTaken q es creep xtr s) p) = closings (meter s p) := by
  have hlist : closings (meter (forEach (List.range 5) (fun k s => addEnergy q k (es.getD k 0) s) s) p) = closings (meter s p) :=
    closings_forEach (fun k u => closings_addEnergy q k _ u p) _ s
  unfold energyTaken
  dsimp only
  split
  · rfl
  · rw [closings_feedPulses]
    split
    · rw [closings_addEnergy, closings_addEnergy, hlist]
    · exact hlist

/-- A close is the steps that leave both, then a new newest cycle with the next count, and its causes, CYCLE last (R312). -/
theorem closeCycle_eq (p : Nat) (c : MtrCyc) (s : State) : ∃ es creep xtr u ws newXtr sat newHold,
    u = (mtrChecks p c (energyTaken p es creep xtr (takePreset p s))).2.2 ∧
    closeCycle p c s = raiseMtr p 0 (onlyIf newHold (raiseMtr p 9) (onlyIf sat (raiseMtr p 7) (onlyIf newXtr (raiseMtr p 1)
      (setMeter p { meter u p with latest := ((meter u p).latest.getD 0 0 + 1) :: ws, wasXtr := xtr, wasHold := c.hold } u)))) :=
  ⟨_, _, _, _, _, _, _, _, rfl, rfl⟩

end Sys2Proof.Machine
end

section
/-! Metering: a port is enabled, disabled and preset, takes a sample, closes a cycle, loses its zero crossings, and gives and ends
a pulse; its accumulators and its newest cycle are read (R295, R299, R300, R307 to R309, R312, R314, R316; log entries 4
and 7). -/

namespace Sys2Proof.Machine

/-! What an enable looks at (R314) -/

section Rules

variable {s t : State} {p : Nat} (h : ∀ off, off < 0x1000 → rd t (mtrKey p off) = rd s (mtrKey p off))
include h

theorem rd_chKey_congr {c off : Nat} (hc : c < 6) (ho : off < 0x80) : rd t (chKey p c off) = rd s (chKey p c off) :=
  h _ (by omega)

theorem validSegs_congr {c : Nat} (hc : c < 6) : validSegs (rd t) p c = validSegs (rd s) p c :=
  congrArg (setBits · 8) (rd_chKey_congr h hc (by decide))

theorem usedCh_congr : usedCh t p = usedCh s p := by
  rw [usedCh, threeWire, rdb, h _ (by decide)]
  rfl

theorem refCh_congr : refCh t p = refCh s p := congrArg (fld · 2 2) (h _ (by decide))

end Rules

theorem validSegs_lt {f : Nat → Word} {p c g : Nat} (hg : g ∈ validSegs f p c) : g < 8 :=
  List.mem_range.mp (List.mem_filter.mp hg).1

theorem usedCh_lt {s : State} {p c : Nat} (hc : c ∈ usedCh s p) : c < 6 := by
  unfold usedCh at hc
  split at hc <;> simp only [List.mem_cons, List.not_mem_nil, or_false] at hc <;> omega

/-- Two conditions that agree on the members of a list agree on all of it. -/
theorem all_congr_mem {α : Type} {l : List α} {f g : α → Bool} (h : ∀ x ∈ l, f x = g x) : l.all f = l.all g := by
  rw [Bool.eq_iff_iff, List.all_eq_true, List.all_eq_true]
  exact forall₂_congr fun x hx => by rw [h x hx]

/-- An enable is judged by the port's registers. -/
theorem mtrRules_congr {s t : State} {p : Nat} (h : ∀ off, off < 0x1000 → rd t (mtrKey p off) = rd s (mtrKey p off)) :
    mtrRules t p = mtrRules s p := by
  have hseg : ∀ c g off, c < 6 → g ∈ validSegs (rd s) p c → off < 0xC →
      rd t (chKey p c (0x10 + off + 0xC * g)) = rd s (chKey p c (0x10 + off + 0xC * g)) := fun c g off hc hg ho => by
    have := validSegs_lt hg
    exact rd_chKey_congr h hc (by omega)
  unfold mtrRules
  dsimp only
  rw [usedCh_congr h, refCh_congr h, h 0x044 (by decide), h 0x048 (by decide)]
  congr 4
  · congr 1
    refine all_congr_mem fun c hc => ?_
    rw [validSegs_congr h (usedCh_lt hc), rd_chKey_congr h (usedCh_lt hc) (by decide)]
  · refine all_congr_mem fun c hc => ?_
    have hc := List.mem_range.mp hc
    have htop : ∀ g ∈ validSegs (rd s) p c, segTop (rd t) p c g = segTop (rd s) p c g := fun g hg => hseg c g 0 hc hg (by decide)
    rw [validSegs_congr h hc, List.map_congr_left htop, rd_chKey_congr h hc (by decide)]
    congr 1
    · congr 1
      exact all_congr_mem fun g hg => by rw [htop g hg]
    · refine all_congr_mem fun g hg => ?_
      rw [hseg c g 4 hc hg (by decide), hseg c g 8 hc hg (by decide)]

/-! CTL (R308, R314) -/

theorem writeMtrCtl_enable (m : Master) (p : Nat) (s : State) : writeMtrCtl m p 1 s = mtrEnable p s := rfl

theorem writeMtrCtl_disable (m : Master) (p : Nat) (s : State) : writeMtrCtl m p 2 s = mtrDisable p s := rfl

/-- At maker level, with room in the staging buffer, a preset is booked and then has its effect. -/
theorem writeMtrCtl_preset (m : Master) (p : Nat) {s : State} (hlock : s.pw.lockout = false) (hlevel : 2 ≤ s.pw.level)
    (hroom : stagingFull s = false) : writeMtrCtl m p 4 s = mtrPreset p (bookPreset m p s) := by
  have hctl : writeMtrCtl m p 4 s = if s.pw.lockout || decide (s.pw.level < 2) then deny (mtrKey p 0x050) s
      else if stagingFull s then raiseMtr p 11 s else mtrPreset p (bookPreset m p s) := rfl
  have hmaker : (s.pw.lockout || decide (s.pw.level < 2)) = false := by
    rw [hlock, decide_eq_false (Nat.not_lt.mpr hlevel)]
    rfl
  rw [hctl, hmaker, hroom, if_neg Bool.false_ne_true, if_neg Bool.false_ne_true]

/-- An enable that is accepted: the first sample starts now, and the accumulators stand. -/
theorem mtrEnable_enables {p : Nat} {s : State} (hoff : (meter s p).st = 0) (hok : mtrRules s p = true) :
    (meter (mtrEnable p s) p).st = 1 ∧ (meter (mtrEnable p s) p).sampAt = s.now ∧
      (meter (mtrEnable p s) p).accs = (meter s p).accs := by
  unfold mtrEnable
  dsimp only
  rw [if_neg (not_not.mpr hoff), hok, Bool.not_true, if_neg Bool.false_ne_true, meter_setMeter_same]
  exact ⟨rfl, rfl, rfl⟩

theorem mtrDisable_disables (p : Nat) (s : State) : (meter (mtrDisable p s) p).st = 0 := by
  unfold mtrDisable
  extract_lets
  split
  · assumption
  · rw [meter_onMeter_same]

/-- A preset of a port that is not OFF waits for a cycle's close. -/
theorem mtrPreset_waits {p : Nat} {s : State} (hsel : rdf s (mtrKey p 0x058) 0 3 ≠ 7) (hon : (meter s p).st ≠ 0) :
    mtrPreset p s = onMeter p (fun x => { x with preset := some (rdf s (mtrKey p 0x058) 0 3,
      (rd s (mtrKey p 0x05C)).toNat + 2 ^ 32 * rdf s (mtrKey p 0x060) 0 16) }) s := by
  unfold mtrPreset
  dsimp only
  rw [if_neg hsel, meter_onMeter_same, if_neg hon]

/-- The entry of an action takes the next SEQ (R408). -/
theorem bookRequested_seq (kind page off master : Nat) (old new : Word) (s : State) :
    (bookRequested kind page off master old new s).fb.seq = (s.fb.seq + 1) % 2 ^ 32 := by
  unfold bookRequested placeEntry
  dsimp only
  split
  · rw [raise_fb]
  · rfl

theorem rd_bookPreset {k : Nat} (hk : plantKey k) (m : Master) (p : Nat) (s : State) : rd (bookPreset m p s) k = rd s k :=
  rd_bookRequested _ _ _ _ _ _ _ (hk.ne_plKey 0x010) hk.not_mergeKey

section Ctl

variable {m : Master} {p : Fin 4} {s : State} (h : reaches s m .mtr 0x050 = true)
include h

theorem mtrEnable_completes (hoff : (meter s p).st = 0) (hok : mtrRules s p = true) :
    ∃ t, exec (.mtrEnable m p) s = .next t ∧ (meter t p).st = 1 ∧ (meter t p).sampAt = s.now ∧
      (meter t p).accs = (meter s p).accs := by
  have hrules : mtrRules (countedWrite m .mtr p 0x050 s) p = true := (mtrRules_congr fun _ ho =>
    rd_countedWrite_plant (mtrKey_plantKey p.isLt ho) _ _ _ _ s).trans hok
  obtain ⟨hst, hat, haccs⟩ := mtrEnable_enables ((congrArg Meter.st (meter_countedWrite m .mtr p 0x050 s p)).trans hoff) hrules
  refine ⟨_, congrArg Host.Outcome.next (byBus_reaches h), ?_⟩
  rw [meter_busCycle, writeMtrCtl_enable, hst, hat, haccs, meter_countedWrite]
  exact ⟨rfl, pmcAccess_now _ _ _ _ s, rfl⟩

theorem mtrDisable_completes (p : Fin 4) : ∃ t, exec (.mtrDisable m p) s = .next t ∧ (meter t p).st = 0 := by
  refine ⟨_, congrArg Host.Outcome.next (byBus_reaches h), ?_⟩
  rw [meter_busCycle, writeMtrCtl_disable]
  exact mtrDisable_disables _ _

theorem preset_completes (hlock : s.pw.lockout = false) (hlevel : 2 ≤ s.pw.level) (hroom : stagingFull s = false)
    (hsel : rdf s (mtrKey p 0x058) 0 3 ≠ 7) (hon : (meter s p).st ≠ 0) :
    ∃ t, exec (.preset m p) s = .next t ∧ t.fb.seq = (s.fb.seq + 1) % 2 ^ 32 ∧
      (meter t p).preset = some (rdf s (mtrKey p 0x058) 0 3,
        (rd s (mtrKey p 0x05C)).toNat + 2 ^ 32 * rdf s (mtrKey p 0x060) 0 16) := by
  have hpw : (countedWrite m .mtr p 0x050 s).pw = s.pw := pmcAccess_pw _ _ _ _ s
  have hroom' : stagingFull (countedWrite m .mtr p 0x050 s) = false := by
    rw [stagingFull, countedWrite, pmcAccess_valley, pmcAccess_fb]
    exact hroom
  have hreg : ∀ o, o < 0x1000 →
      rd (bookPreset m p (countedWrite m .mtr p 0x050 s)) (mtrKey p o) = rd s (mtrKey p o) := fun o ho => by
    have hk := mtrKey_plantKey p.isLt ho
    rw [rd_bookPreset hk, rd_countedWrite_plant hk]
  have hwaits := mtrPreset_waits (p := p) (s := bookPreset m p (countedWrite m .mtr p 0x050 s))
    (by rwa [rdf, hreg _ (by decide)]) (by rwa [meter_bookPreset, meter_countedWrite])
  refine ⟨_, congrArg Host.Outcome.next (byBus_reaches h), ?_⟩
  rw [writeMtrCtl_preset m p (by rwa [hpw]) (by rwa [hpw]) hroom', hwaits, meter_busCycle, meter_onMeter_same]
  refine ⟨(bookRequested_seq _ _ _ _ _ _ _).trans (congrArg (fun b => (b.seq + 1) % 2 ^ 32) (pmcAccess_fb _ _ _ _ s)), ?_⟩
  simp only [rdf, hreg 0x058 (by decide), hreg 0x05C (by decide), hreg 0x060 (by decide)]

end Ctl

/-! Samples and cycles (R295, R299, R300, R312) -/

theorem processRaw_sampAt (s : State) (p j : Nat) (x : Meter) : (processRaw s p j x).sampAt = x.sampAt := by
  unfold processRaw
  split
  · rfl
  · dsimp only
    split <;> split <;> rfl

theorem meterSample_completes {p : Fin 4} {s : State} (nv : List Int) (cross : Option (BitVec 16)) (hl : live s .mtr = true)
    (hon : (meter s p).st ≠ 0) :
    ∃ t, exec (.meterSample p nv cross) s = .next t ∧ (meter t p).sampAt = (meter s p).sampAt + sampleLen ∧
      (meter s p).sampAt + sampleLen ≤ t.now := by
  have hexec : execMeterSample p nv cross s = .next (meterSample p nv (cross.map (·.toNat)) s) := by
    simp [execMeterSample, hl, hon]
  refine ⟨_, hexec, ?_, le_upto_now _ s⟩
  unfold meterSample
  extract_lets
  rw [meter_setMeter_same]
  split
  · rw [processRaw_sampAt]
  · rfl

/-- The oldest ended cycle is closed. -/
theorem closeAll_one {p : Nat} {s : State} {c : MtrCyc} {cs : List MtrCyc} (h : (meter s p).ended = c :: cs) :
    closeAll p 1 s = closeCycle p c (onMeter p (fun x => { x with ended := cs }) s) := by
  simp only [closeAll, h]

theorem meter_onlyIf_raiseMtr (c : Bool) (q k : Nat) (s : State) (p : Nat) : meter (onlyIf c (raiseMtr q k) s) p = meter s p := by
  cases c
  · rfl
  · exact meter_raiseMtr q k s p

theorem closeCycle_closes (p : Nat) (c : MtrCyc) (s : State) :
    (meter (closeCycle p c s) p).ended = (meter s p).ended ∧
      (meter (closeCycle p c s) p).latest.getD 0 0 = (meter s p).latest.getD 0 0 + 1 ∧
      rdb (closeCycle p c s) (rk .mtr p 0x010) 0 = true := by
  obtain ⟨es, creep, xtr, u, ws, newXtr, sat, newHold, hu, hclose⟩ := closeCycle_eq p c s
  have hkeeps : closings (meter u p) = closings (meter s p) := by
    rw [hu, closings_mtrChecks, closings_energyTaken, closings_takePreset]
  obtain ⟨hended, hlatest⟩ := Prod.mk.inj hkeeps
  rw [hclose, meter_raiseMtr, meter_onlyIf_raiseMtr, meter_onlyIf_raiseMtr, meter_onlyIf_raiseMtr, meter_setMeter_same]
  exact ⟨hended, congrArg (fun l : List Word => l.getD 0 0 + 1) hlatest, rdb_raiseMtr p _ (by decide)⟩

theorem cycleClose_completes {p : Fin 4} {s : State} {c : MtrCyc} {cs : List MtrCyc} (hl : live s .mtr = true)
    (hended : (meter s p).ended = c :: cs) :
    ∃ t, exec (.cycleClose p) s = .next t ∧ (meter t p).ended = cs ∧
      (meter t p).latest.getD 0 0 = (meter s p).latest.getD 0 0 + 1 ∧ rdb t (rk .mtr p 0x010) 0 = true := by
  have hcloses := closeCycle_closes p c (onMeter p (fun x => { x with ended := cs }) s)
  rw [meter_onMeter_same, ← closeAll_one hended] at hcloses
  exact ⟨_, congrArg Host.Outcome.next (if_pos hl), hcloses⟩

/-- Without a crossing the port goes FREE, and its cycle in progress lasted into FREE. -/
theorem nosync_completes {p : Fin 4} {s : State} (hl : live s .mtr = true) (hst : (meter s p).st = 1 ∨ (meter s p).st = 2) :
    ∃ t, exec (.nosync p) s = .next t ∧ (meter t p).st = 3 ∧ (meter t p).free = true ∧
      rdb t (rk .mtr p 0x010) 8 = true := by
  have hruns : (!(live s .mtr) || !((meter s p).st = 1 || (meter s p).st = 2)) = false := by
    obtain h | h := hst <;> simp [hl, h]
  refine ⟨_, congrArg Host.Outcome.next (if_neg (Bool.eq_false_iff.mp hruns)), ?_⟩
  rw [meter_logHap, meter_raiseMtr, meter_setMeter_same, rdb, rd_logHap]
  exact ⟨rfl, rfl, rdb_raiseMtr p _ (by decide)⟩

/-! Pulses (R309) -/

theorem pulseStart_completes {p : Fin 4} {s : State} (hl : live s .mtr = true) (hpend : (meter s p).pend ≠ 0)
    (hrest : (meter s p).pulse = none) (hqty : rdf s (mtrKey p 0x064) 4 3 ≠ 0) :
    ∃ t, exec (.pulseStart p) s = .next t ∧ (meter t p).pend = (meter s p).pend - 1 ∧ (meter t p).pulse = some t.now := by
  have hruns : (!(live s .mtr) || (meter s p).pend = 0 || (meter s p).pulse.isSome || rdf s (mtrKey p 0x064) 4 3 = 0) = false := by
    simp [hl, hpend, hrest, hqty]
  refine ⟨_, congrArg Host.Outcome.next (if_neg (Bool.eq_false_iff.mp hruns)), ?_⟩
  rw [meter_setMeter_same]
  exact ⟨rfl, rfl⟩

theorem pulseEnd_completes {p : Fin 4} {s : State} {a : Nat} (hrun : (meter s p).pulse = some a) :
    ∃ t, exec (.pulseEnd p) s = .next t ∧ (meter t p).pulse = none ∧
      (meter t p).pulseEnd = some (a + rdf s (mtrKey p 0x064) 8 8 * msec) ∧ a + rdf s (mtrKey p 0x064) 8 8 * msec ≤ t.now := by
  refine ⟨_, rfl, ?_⟩
  simp only [hrun]
  rw [meter_setMeter_same]
  exact ⟨rfl, rfl, le_upto_now _ s⟩

/-! Reads with a capture (R307, R316) -/

theorem eLoRead_completes (m : Master) (p : Fin 4) (k : Fin 7) {s : State} (h : pageUp s .mtr 0x100 = true) :
    ∃ t, exec (.eLoRead m p k) s = .next t ∧ t.bus.rdata = wNat (smGet (smConst 0) (meter s p).accs k / 2 ^ 32) ∧
      t.bus.err = false ∧
      rd t (mtrKey p (0x104 + 8 * k)) = wNat (smGet (smConst 0) (meter s p).accs k / 2 ^ 32 / 2 ^ 32) := by
  have hup : pageUp s .mtr (0x100 + 8 * k) = true := (pageUp_off (by decide) s _ _).trans h
  refine ⟨_, congrArg Host.Outcome.next (readAt_up hup), ?_⟩
  dsimp only
  rw [respond_bus, rd_respond, rd_wr_same, meter_countedRead]
  exact ⟨rfl, rfl, rfl⟩

theorem cycCntRead_completes (m : Master) (p : Fin 4) {s : State} (h : pageUp s .mtr 0x080 = true) :
    ∃ t, exec (.cycCntRead m p) s = .next t ∧ t.bus.rdata = (meter s p).latest.getD 0 0 ∧ t.bus.err = false ∧
      (List.range 26).map (fun i => rd t (mtrKey p (0x084 + 4 * i))) =
        (List.range 26).map (fun i => (meter s p).latest.getD (1 + i) 0) := by
  have hown : ∀ i j : Nat, mtrKey p (0x084 + 4 * j) = mtrKey p (0x084 + 4 * i) → j = i := fun i j hij => by
    have := mtrKey_inj.mp hij
    omega
  refine ⟨_, congrArg Host.Outcome.next (readAt_up h), ?_⟩
  dsimp only
  rw [respond_bus, meter_countedRead]
  refine ⟨rfl, rfl, List.map_congr_left fun i hi => ?_⟩
  rw [rd_respond]
  exact rd_forEach_wr (k := fun i => mtrKey p (0x084 + 4 * i)) (fun i => (meter s p).latest.getD (1 + i) 0)
    (fun j _ => hown i j) hi _

/-- Settles O17: each clause is the lemma of its command. -/
theorem meteringCompletes : Obligations.MeteringCompletes := by
  unfold Obligations.MeteringCompletes
  exact ⟨fun _ _ _ => mtrEnable_completes, fun _ p _ hpage => mtrDisable_completes hpage p, fun _ _ _ => preset_completes,
    fun _ nv cross _ => meterSample_completes nv cross, fun _ _ _ _ => cycleClose_completes, fun _ _ => nosync_completes,
    fun _ _ => pulseStart_completes, fun _ _ _ => pulseEnd_completes, fun m p k _ => eLoRead_completes m p k,
    fun m p _ => cycCntRead_completes m p⟩

end Sys2Proof.Machine
end

section
/-! What every step does: the command it takes, the reset state and soundness, a latched SPO, and memory where nothing is stored. -/

set_option Elab.async false

namespace Sys2Proof.Machine

/-- Settles O51: no register is listed, and no queue holds anything. -/
theorem resetStateIsSound : Obligations.ResetStateIsSound := by
  unfold Obligations.ResetStateIsSound
  exact ⟨rfl, rfl, rfl, (fun _ hx => nomatch hx), (fun _ hx => nomatch hx)⟩

theorem step_cons {s : State} {c : Instr} {rest : List Instr} (h : s.pending = c :: rest) :
    step s = exec c { s with pending := rest } := by
  rw [step, h]

theorem step_nil {s : State} (h : s.pending = []) : step s = .next s := by
  rw [step, h]

/-- Settles O47: the two cases of the queue. -/
theorem stepRunsTheFrontCommand : Obligations.StepRunsTheFrontCommand := by
  unfold Obligations.StepRunsTheFrontCommand
  exact ⟨fun _ _ _ => step_cons, fun _ => step_nil⟩

/-- Soundness does not speak of the queue of waiting commands. -/
theorem Good.withPending {s : State} (h : Good s) (cs : List Instr) : Good { s with pending := cs } :=
  ⟨h.mem, h.regs, h.act, h.queue, h.recs⟩

theorem exec_good {c : Instr} {s t : State} (h : Good s) (hx : exec c s = .next t) : Good t := by
  obtain ⟨u, hu, hF⟩ := exec_follows c (Follows.refl _ _ s)
  obtain rfl : t = u := Host.Outcome.next.inj (hx.symm.trans hu)
  exact hF.good h

/-- Settles O52: a step is idle, or carries out the front command, which follows its state. -/
theorem stepsKeepSoundness : Obligations.StepsKeepSoundness := by
  unfold Obligations.StepsKeepSoundness
  intro s t hgood hstep
  cases hq : s.pending with
  | nil => exact Host.Outcome.next.inj ((step_nil hq).symm.trans hstep) ▸ hgood
  | cons c rest => exact exec_good (hgood.withPending rest) ((step_cons hq).symm.trans hstep)

/-- Settles O53: a command that may not release SPO keeps it latched, and a latched SPO holds the pins low. -/
theorem spoHoldsUntilARelease : Obligations.SpoHoldsUntilARelease := by
  unfold Obligations.SpoHoldsUntilARelease
  intro c s t hc hspo hx
  obtain ⟨u, hu, hF⟩ := exec_follows c (Follows.refl _ _ s)
  obtain rfl : t = u := Host.Outcome.next.inj (hx.symm.trans hu)
  have hkept := hF.spo (by rw [hc]; rfl) hspo
  exact ⟨hkept, spoHoldsThePinsLow t hkept⟩

/-- Settles O56: memory is no part of the command's row, and a byte is memory's at its address. -/
theorem memoryKeptWhereNothingIsStored : Obligations.MemoryKeptWhereNothingIsStored := by
  unfold Obligations.MemoryKeptWhereNothingIsStored
  intro c s t hc hx a
  have hrow : Part.mem ∉ touched c := fun h => absurd hc (by simp [storesMemory, h])
  have hmem : t.mem = s.mem := commandsKeepOtherParts c s t hx .mem hrow
  exact congrArg (smGet memReset · a) hmem

/-- Settles O49: the reset state holds nothing but defaults, so each value is computed from them. -/
theorem powerOnResetState : Obligations.PowerOnResetState := by
  unfold Obligations.PowerOnResetState
  refine ⟨?plumb, ?legs, ?lanes, ?units, ?links⟩
  case plumb => decide +kernel
  case legs => decide +kernel
  case lanes => decide +kernel
  case units => decide +kernel
  case links => exact ⟨fun _ => rfl, by decide +kernel, by decide +kernel, rfl⟩

end Sys2Proof.Machine
end

section
/-! The rings of the node and its streams through each update, and the registers of the RING pages among the others. -/

set_option Elab.async false

namespace Sys2Proof.Machine

/-- An update made on a condition keeps what the update keeps. -/
theorem onlyIf_keeps {α : Type} {π : State → α} {f : State → State} {s : State} (h : π (f s) = π s) (c : Bool) :
    π (onlyIf c f s) = π s := by
  cases c
  · rfl
  · exact h

/-! Rings -/

theorem link_congr {s t : State} (h : t.rings = s.rings) (r : Nat) : link t r = link s r := by rw [link, link, h]

@[simp] theorem link_onLink_same (r : Nat) (f : RingLink → RingLink) (s : State) : link (onLink r f s) r = f (link s r) := by
  unfold link onLink
  split <;> rfl

/-- A change of one ring leaves a quantity of either that it keeps on its own ring. -/
theorem link_onLink_keeps {α : Type} {π : RingLink → α} {f : RingLink → RingLink} (hf : ∀ l, π (f l) = π l) (q : Nat) (s : State)
    (r : Nat) : π (link (onLink q f s) r) = π (link s r) := by
  unfold link onLink
  split <;> split <;> first | rfl | exact hf _

@[simp] theorem link_raiseRing (q k : Nat) (s : State) (r : Nat) : link (raiseRing q k s) r = link s r :=
  link_congr (raise_rings _ _ _ _) r

@[simp] theorem link_upto (t : Nat) (s : State) (r : Nat) : link (upto t s) r = link s r := rfl
@[simp] theorem link_wr (k : Nat) (v : Word) (s : State) (r : Nat) : link (wr k v s) r = link s r := rfl
@[simp] theorem link_wrf (k lo n v : Nat) (s : State) (r : Nat) : link (wrf k lo n v s) r = link s r := rfl
@[simp] theorem link_wrb (k b : Nat) (v : Bool) (s : State) (r : Nat) : link (wrb k b v s) r = link s r := rfl
@[simp] theorem link_countRing (q off lo : Nat) (s : State) (r : Nat) : link (countRing q off lo s) r = link s r := rfl
@[simp] theorem link_incMod (k lo n : Nat) (s : State) (r : Nat) : link (incMod k lo n s) r = link s r := rfl
@[simp] theorem link_logHap (p : Nat) (s : State) (r : Nat) : link (logHap p s) r = link s r := rfl
@[simp] theorem link_busCycle (s : State) (r : Nat) : link (busCycle s) r = link s r := rfl
@[simp] theorem link_onStream (n : Nat) (f : RStream → RStream) (s : State) (r : Nat) : link (onStream n f s) r = link s r := rfl
@[simp] theorem link_memWr (a : Nat) (b : Byte) (s : State) (r : Nat) : link (memWr a b s) r = link s r := rfl

@[simp] theorem link_memWrBytes (a : Nat) (bs : List Byte) (s : State) (r : Nat) : link (memWrBytes a bs s) r = link s r :=
  link_congr (Part.same_of_op (p := .rings) (m := 64) (by decide) (fun h => memWrBytes_stays h a bs) s) r

@[simp] theorem link_breakSide (q : Nat) (s : State) (r : Nat) : link (breakSide q s) r = link s r := by
  unfold breakSide
  split <;> rfl

@[simp] theorem link_countedWrite (m : Master) (t : PageType) (n off : Nat) (s : State) (r : Nat) :
    link (countedWrite m t n off s) r = link s r := link_congr (pmcAccess_rings _ _ _ _ s) r

@[simp] theorem raiseRing_now (r k : Nat) (s : State) : (raiseRing r k s).now = s.now := raise_now _ _ _ _

@[simp] theorem onLink_now (r : Nat) (f : RingLink → RingLink) (s : State) : (onLink r f s).now = s.now := by
  unfold onLink
  split <;> rfl

@[simp] theorem rd_onLink (r : Nat) (f : RingLink → RingLink) (s : State) (k : Nat) : rd (onLink r f s) k = rd s k := by
  unfold onLink
  split <;> rfl

@[simp] theorem breakSide_now (r : Nat) (s : State) : (breakSide r s).now = s.now := by
  unfold breakSide
  split <;> rfl

@[simp] theorem rd_breakSide (r : Nat) (s : State) (k : Nat) : rd (breakSide r s) k = rd s k := by
  unfold breakSide
  split <;> rfl

/-! Streams -/

theorem rstream_congr {s t : State} (h : t.rings = s.rings) (n : Nat) : rstream t n = rstream s n :=
  congrArg (fun x : Rings => smGet rstream0 x.streams n) h

@[simp] theorem rstream_onStream_same (n : Nat) (f : RStream → RStream) (s : State) : rstream (onStream n f s) n = f (rstream s n) :=
  smGet_smSet_same _ _ _ _

theorem rstream_onStream_ne {n m : Nat} (f : RStream → RStream) (s : State) (h : n ≠ m) :
    rstream (onStream m f s) n = rstream s n := smGet_smSet_ne _ _ _ h

/-- A change of one stream leaves a quantity of every stream that it keeps on its own stream. -/
theorem onStream_keeps {α : Type} {π : RStream → α} {m : Nat} {f : RStream → RStream} {s : State}
    (hf : π (f (rstream s m)) = π (rstream s m)) (n : Nat) : π (rstream (onStream m f s) n) = π (rstream s n) := by
  by_cases h : n = m
  · rw [h, rstream_onStream_same, hf]
  · rw [rstream_onStream_ne _ _ h]

@[simp] theorem rstream_onLink (r : Nat) (f : RingLink → RingLink) (s : State) (n : Nat) :
    rstream (onLink r f s) n = rstream s n := by
  unfold onLink
  split <;> rfl

@[simp] theorem rstream_raiseRing (q k : Nat) (s : State) (n : Nat) : rstream (raiseRing q k s) n = rstream s n :=
  rstream_congr (raise_rings _ _ _ _) n

@[simp] theorem rstream_upto (t : Nat) (s : State) (n : Nat) : rstream (upto t s) n = rstream s n := rfl
@[simp] theorem rstream_logHap (p : Nat) (s : State) (n : Nat) : rstream (logHap p s) n = rstream s n := rfl
@[simp] theorem rstream_busCycle (s : State) (n : Nat) : rstream (busCycle s) n = rstream s n := rfl
@[simp] theorem rstream_memWr (a : Nat) (b : Byte) (s : State) (n : Nat) : rstream (memWr a b s) n = rstream s n := rfl
@[simp] theorem rstream_incMod (k lo w : Nat) (s : State) (n : Nat) : rstream (incMod k lo w s) n = rstream s n := rfl

@[simp] theorem rstream_memWrBytes (a : Nat) (bs : List Byte) (s : State) (n : Nat) :
    rstream (memWrBytes a bs s) n = rstream s n :=
  rstream_congr (Part.same_of_op (p := .rings) (m := 64) (by decide) (fun h => memWrBytes_stays h a bs) s) n

@[simp] theorem rstream_countedWrite (m : Master) (t : PageType) (p off : Nat) (s : State) (n : Nat) :
    rstream (countedWrite m t p off s) n = rstream s n := rstream_congr (pmcAccess_rings _ _ _ _ s) n

@[simp] theorem queueCtl_now (r : Nat) (e : CtlEnt) (s : State) : (queueCtl r e s).now = s.now := onLink_now _ _ _

@[simp] theorem rstream_queueCtl (r : Nat) (e : CtlEnt) (s : State) (n : Nat) : rstream (queueCtl r e s) n = rstream s n :=
  rstream_onLink _ _ _ _

@[simp] theorem rstream_answer (m kind seq : Nat) (s : State) (n : Nat) : rstream (answer m kind seq s) n = rstream s n :=
  rstream_onLink _ _ _ _

@[simp] theorem rstream_dropOpens (m : Nat) (s : State) (n : Nat) : rstream (dropOpens m s) n = rstream s n := by
  simp [dropOpens, forEach]

/-! Cells carried across a gateway, freed and moved leave both rings of the node. -/

@[simp] theorem link_streamPut (m : Nat) (p : List Byte) (s : State) (r : Nat) : link (streamPut m p s).2 r = link s r := by
  unfold streamPut
  dsimp only
  split
  · rfl
  · rw [link_onStream, link_memWr, link_memWrBytes]

@[simp] theorem link_streamTake (m : Nat) (s : State) (r : Nat) : link (streamTake m s).2 r = link s r := by
  unfold streamTake
  dsimp only
  split
  · rfl
  · rw [link_onStream]

@[simp] theorem link_gatewayPut (q : Nat) (p : List Byte) (flags : Byte) (s : State) (r : Nat) :
    link (gatewayPut q p flags s) r = link s r := by
  unfold gatewayPut
  dsimp only
  split
  · rw [link_memWr, link_streamPut]
  · rw [link_streamPut]

theorem link_cross (n q r : Nat) : ∀ (k : Nat) (s : State), link (cross n q k s) r = link s r
  | 0, _ => rfl
  | k + 1, s => by
    unfold cross
    dsimp only
    split
    · rfl
    · have htake := link_streamTake n s r
      split
      · next h => rw [link_cross n q r k, link_gatewayPut, ← htake, h]
      · next h => rw [← htake, h]

@[simp] theorem link_gatewayCross (n : Nat) (s : State) (r : Nat) : link (gatewayCross n s) r = link s r := by
  unfold gatewayCross
  split
  · rfl
  · split
    · exact link_cross _ _ _ _ _
    · rfl

@[simp] theorem link_refill (n : Nat) (s : State) (r : Nat) : link (refill n s) r = link s r := by
  unfold refill
  split
  · exact link_gatewayCross _ _ _
  · rfl

@[simp] theorem link_dropSent (n : Nat) (s : State) (r : Nat) : link (dropSent n s) r = link s r := by
  unfold dropSent
  dsimp only
  split
  · rfl
  · exact link_onStream _ _ _ _

@[simp] theorem link_moveCells (q : Nat) (s : State) (r : Nat) : link (moveCells q s) r = link s r :=
  forEach_mem_keeps (π := (link · r)) (fun n _ u => by rw [link_refill, link_dropSent, link_onStream]) s

/-! Registers -/

theorem ringKey_plantKey {r off : Nat} (hr : r < 2) (ho : off < 0x1000) : plantKey (ringKey r off) := by
  simp only [plantKey, ringKey, rk, pageFirst]
  omega

/-- Registers of RING pages are apart where their offsets are, whichever ring they are of. -/
theorem ringKey_ne {r q a b : Nat} (ha : a < 0x1000) (hb : b < 0x1000) (h : a ≠ b) : ringKey r a ≠ ringKey q b := by
  simp only [ringKey, rk]
  omega

theorem rdb_raiseRing (r : Nat) {k : Nat} (s : State) (hk : k < 32) : rdb (raiseRing r k s) (rk .ring r 0x010) k = true :=
  rdb_raise _ _ _ _ hk (by simp only [rk, pageFirst]; omega)

theorem rd_raiseRing {r off : Nat} (hr : r < 2) (ho : off < 0x1000) (hne : off ≠ 0x010) (q k : Nat) (s : State) :
    rd (raiseRing q k s) (ringKey r off) = rd s (ringKey r off) :=
  rd_raise _ (ringKey_ne ho (by decide) hne) (ringKey_plantKey hr ho).not_mergeKey

theorem rdb_raiseRing_ne {r : Nat} (hr : r < 2) (k : Nat) {b : Nat} (hb : b < 32) (hne : b ≠ k) (s : State) :
    rdb (raiseRing r k s) (rk .ring r 0x010) b = rdb s (rk .ring r 0x010) b :=
  rdb_raise_ne _ _ _ _ _ hb hne (ringKey_plantKey hr (by decide)).not_mergeKey

theorem rd_countRing_ne {r a b : Nat} (ha : a < 0x1000) (hb : b < 0x1000) (h : a ≠ b) (q lo : Nat) (s : State) :
    rd (countRing q b lo s) (ringKey r a) = rd s (ringKey r a) := rd_wrf_ne _ _ _ _ (ringKey_ne ha hb h)

/-- A field of sixteen bits holds at most 0xFFFF, so a count held there is read as it is held. -/
theorem held_rdf (s : State) (k lo : Nat) : held 65535 (rdf s k lo 16) = rdf s k lo 16 := by
  have hlt : rdf s k lo 16 < 65536 := Nat.mod_lt _ (by decide)
  unfold held
  split <;> omega

theorem held_mod (x : Nat) : held 65535 x % 65536 = held 65535 x := by
  unfold held
  split <;> omega

theorem rdf_countRing (r off lo : Nat) (s : State) (h : lo + 16 ≤ 32) :
    rdf (countRing r off lo s) (ringKey r off) lo 16 = held 65535 (rdf s (ringKey r off) lo 16 + 1) := by
  rw [countRing, incHeld, rdf_wrf_same _ _ _ _ _ h]
  exact held_mod _

end Sys2Proof.Machine
end

section
/-! Links: sync, link states, RFAULT, wraps, joining and leaving, the ford and the PROBE (R322, R323, R333, R335 to R339). -/

set_option Elab.async false

namespace Sys2Proof.Machine

/-! Sync (R322) -/

theorem syncGained_completes {r : Fin 2} {s : State} (hl : live s .ring = true) (hsync : (link s r).sync = false) :
    ∃ t, exec (.syncGained r) s = .next t ∧ (link t r).sync = true ∧
      (link t r).clean = (if (link s r).rfault.isNone then some s.now else none) := by
  have hruns : (!(live s .ring) || (link s r).sync) = false := by simp [hl, hsync]
  refine ⟨_, congrArg Host.Outcome.next (if_neg (Bool.eq_false_iff.mp hruns)), ?_⟩
  rw [link_onLink_same]
  exact ⟨rfl, rfl⟩

/-- Code errors are added to the count of them, which holds at 0xFFFF. -/
theorem rdf_codeErrors (r n : Nat) (s : State) : rdf (codeErrors r n s) (ringKey r 0x050) 0 16 =
    held 65535 (rdf s (ringKey r 0x050) 0 16 + n) := by
  unfold codeErrors
  split
  · next h => rw [h, Nat.add_zero, held_rdf]
  · dsimp only
    rw [rdf, rd_onLink, ← rdf, rdf_wrf_same _ _ _ _ _ (by decide)]
    exact held_mod _

/-- A cell that is cut leaves the counts of errors. -/
theorem rd_cutCell {r : Nat} (s : State) : rd (cutCell r s) (ringKey r 0x050) = rd s (ringKey r 0x050) := by
  unfold cutCell
  split
  · rfl
  · next x _ =>
    have hcount : rd (if cellType x.hdr = 8 then s else countRing r 0x054 0 s) (ringKey r 0x050) = rd s (ringKey r 0x050) := by
      split
      · rfl
      · exact rd_countRing_ne (by decide) (by decide) (by decide) _ _ _
    dsimp only
    split
    · rw [rd_onLink, hcount]
    · exact hcount

theorem syncLost_completes {r : Fin 2} (errs : Nat) {s : State} (hl : live s .ring = true) (hsync : (link s r).sync = true) :
    ∃ t, exec (.syncLost r errs) s = .next t ∧ (link t r).sync = false ∧ (link t r).lostAt = s.now ∧ (link t r).rx = none ∧
      rdf t (ringKey r 0x050) 0 16 = held 65535 (rdf s (ringKey r 0x050) 0 16 + errs) := by
  have hruns : (!(live s .ring) || !(link s r).sync) = false := by simp [hl, hsync]
  refine ⟨_, congrArg Host.Outcome.next (if_neg (Bool.eq_false_iff.mp hruns)), ?_⟩
  rw [link_onLink_same, rdf, rd_onLink, rd_cutCell, ← rdf, rdf_codeErrors]
  exact ⟨rfl, rfl, rfl, rfl⟩

/-! A link goes down (R322, R323, R338) -/

theorem wrapRing_now (r : Nat) (s : State) : (wrapRing r s).now = s.now :=
  Part.same_of_op (p := .now) (by decide) (fun h => wrapRing_stays h r) s

/-- A wrap writes its link's marks of it, and raises its own cause. -/
theorem wrapRing_keeps {r : Nat} (hr : r < 2) (s : State) : (link (wrapRing r s) r).link = (link s r).link ∧
    (link (wrapRing r s) r).sendRf = (link s r).sendRf ∧
    rdb (wrapRing r s) (rk .ring r 0x010) 0 = rdb s (rk .ring r 0x010) 0 := by
  unfold wrapRing
  split
  · exact ⟨rfl, rfl, rfl⟩
  · refine ⟨by simp, by simp, ?_⟩
    rw [rdb, rd_logHap, ← rdb, rdb_raiseRing_ne hr _ (by decide) (by decide), rdb, ← ringKey,
      rd_countRing_ne (by decide) (by decide) (by decide), rd_breakSide, rd_onLink, rdb, ringKey]

theorem linkDown_downs {r : Nat} {s : State} (hr : r < 2) (hup : (link s r).link ≠ 2) : (link (linkDown r s) r).link = 2 ∧
    (link (linkDown r s) r).sendRf = true ∧ rdb (linkDown r s) (rk .ring r 0x010) 0 = true ∧ (linkDown r s).now = s.now := by
  refine ⟨?_, ?_, ?_, Part.same_of_op (p := .now) (by decide) (fun h => linkDown_stays h r) s⟩ <;>
    rw [linkDown, if_neg hup]
  · rw [(wrapRing_keeps hr _).1]
    simp
  · rw [(wrapRing_keeps hr _).2.1]
    simp
  · rw [(wrapRing_keeps hr _).2.2]
    exact rdb_raiseRing _ _ (by decide)

theorem linkDown_sync_completes {r : Fin 2} {s : State} (hl : live s .ring = true) (hup : (link s r).link ≠ 2)
    (hsync : (link s r).sync = false) :
    ∃ t, exec (.linkDown r .sync) s = .next t ∧ (link t r).link = 2 ∧ (link t r).sendRf = true ∧
      rdb t (rk .ring r 0x010) 0 = true ∧ (link s r).lostAt + faultHold s r ≤ t.now := by
  obtain ⟨hdown, hrf, hcause, hnow⟩ := linkDown_downs (s := upto ((link s r).lostAt + faultHold s r) s) r.isLt hup
  refine ⟨_, congrArg Host.Outcome.next (if_neg (by simp [hl])), ?_⟩
  dsimp only
  rw [hsync, if_neg Bool.false_ne_true]
  exact ⟨hdown, hrf, hcause, hnow ▸ le_upto_now _ s⟩

theorem linkDown_rfault_completes {r : Fin 2} {s : State} {a : Nat} (hl : live s .ring = true) (hup : (link s r).link ≠ 2)
    (hrf : (link s r).rfault = some a) :
    ∃ t, exec (.linkDown r .rfault) s = .next t ∧ (link t r).link = 2 ∧ a + faultHold s r ≤ t.now := by
  obtain ⟨hdown, -, -, hnow⟩ := linkDown_downs (s := upto (a + faultHold s r) s) r.isLt hup
  refine ⟨_, congrArg Host.Outcome.next (if_neg (by simp [hl])), ?_⟩
  simp only [hrf]
  exact ⟨hdown, hnow ▸ le_upto_now _ s⟩

theorem link_codeErrors (r n : Nat) (s : State) : (link (codeErrors r n s) r).link = (link s r).link := by
  unfold codeErrors
  split <;> simp

theorem linkDown_errors_completes {r : Fin 2} {n : Nat} {s : State} (hl : live s .ring = true) (hup : (link s r).link ≠ 2)
    (hlim : rdf s (ringKey r 0x048) 8 8 ≠ 0) (hn : rdf s (ringKey r 0x048) 8 8 ≤ n) :
    ∃ t, exec (.linkDown r (.errors n)) s = .next t ∧ (link t r).link = 2 := by
  obtain ⟨hdown, -⟩ := linkDown_downs (s := codeErrors r n s) r.isLt (by rwa [link_codeErrors])
  refine ⟨_, congrArg Host.Outcome.next (if_neg (by simp [hl])), ?_⟩
  dsimp only
  rw [if_pos ⟨hlim, hn⟩]
  exact hdown

/-! A link comes up, and RFAULT begins and ends (R322, R323, R339) -/

theorem linkUp_completes {r : Fin 2} {s : State} {a : Nat} (hl : live s .ring = true) (hclean : (link s r).clean = some a)
    (hsync : (link s r).sync = true) (hrf : (link s r).rfault = none) :
    ∃ t, exec (.linkUp r) s = .next t ∧ (link t r).link = 1 ∧ (link t r).sendRf = false ∧
      a + rdf s (ringKey r 0x048) 16 16 * msec ≤ t.now := by
  refine ⟨_, rfl, ?_⟩
  simp only [hclean, hl, hsync, hrf, Bool.not_true, Option.isSome_none, Bool.or_self, Bool.false_eq_true, if_false]
  rw [link_onLink_same, onLink_now]
  refine ⟨rfl, rfl, ?_⟩
  split
  · exact le_upto_now _ s
  · rw [raiseRing_now]
    exact le_upto_now _ s

theorem rfaultBegin_completes {r : Fin 2} {s : State} (hl : live s .ring = true) (hsync : (link s r).sync = true) :
    ∃ t, exec (.rfaultReceived r true) s = .next t ∧ (link t r).rfault.isSome = true := by
  refine ⟨_, congrArg Host.Outcome.next (if_neg (by simp [hl, hsync])), ?_⟩
  dsimp only
  rw [if_pos rfl]
  split
  · assumption
  · rw [link_onLink_same]
    rfl

theorem rfaultEnd_completes {r : Fin 2} {s : State} (hl : live s .ring = true) (hsync : (link s r).sync = true) :
    ∃ t, exec (.rfaultReceived r false) s = .next t ∧ (link t r).rfault = none := by
  refine ⟨_, congrArg Host.Outcome.next (if_neg (by simp [hl, hsync])), ?_⟩
  dsimp only
  rw [if_neg Bool.false_ne_true]
  split
  · next h => exact Option.isNone_iff_eq_none.mp h
  · rw [link_onLink_same]

/-! Wraps end (R338, R339) -/

theorem unwrap_completes {r : Fin 2} {s : State} (hl : live s .ring = true) (hwrap : (link s r).wrap = true)
    (hend : (link s r).unwrap = true) :
    ∃ t, exec (.unwrap r) s = .next t ∧ (link t r).wrap = false ∧ (link t r).unwrap = false ∧
      rdb t (rk .ring r 0x010) 5 = true ∧ (link s 0).freeAt ≤ t.now ∧ (link s 1).freeAt ≤ t.now := by
  have hdue := max_le_iff.mp (le_upto_now (max (link s 0).freeAt (link s 1).freeAt) s)
  refine ⟨_, congrArg Host.Outcome.next (if_neg (by simp [hl, hwrap, hend])), ?_⟩
  dsimp only
  rw [link_raiseRing, link_breakSide, link_onLink_same, raiseRing_now, breakSide_now, onLink_now]
  exact ⟨rfl, rfl, rdb_raiseRing _ _ (by decide), hdue⟩

/-! CTL (R336, R339) -/

/-- A request to join that is accepted: through an open ford the PROBE is sent, and a closed one opens first. -/
theorem writeRingCtl_joins {r : Nat} {s : State} (hout : (link s r).joined = false) (hprobe : (link s r).probe = false)
    (hsent : (link s r).probeEnd = none) (hok : joinRefused s r = false) :
    if (link s r).ford && (link s r).fordTo ≠ some true then (link (writeRingCtl r 1 s) r).probe = true
    else (link (writeRingCtl r 1 s) r).fordTo = some true := by
  have hctl : writeRingCtl r 1 s = if (link s r).fordTo = some true then s
      else onLink r (fun l => if l.ford then { l with fordTo := none, probe := true } else { l with fordTo := some true }) s := by
    simp [writeRingCtl, bit, hout, hprobe, hsent, hok]
  rw [hctl]
  by_cases hto : (link s r).fordTo = some true
  · simp [hto]
  · rw [if_neg hto, link_onLink_same]
    cases (link s r).ford <;> simp [hto]

theorem writeRingCtl_leaves (r : Nat) (s : State) : writeRingCtl r 2 s = leaveRing r s := by
  simp [writeRingCtl, bit]

theorem writeRingCtl_unwraps {r : Nat} {s : State} (hsync : (link s r).sync = true) (hwrap : (link s r).wrap = true) :
    writeRingCtl r 4 s = onLink r (fun l => { l with unwrap := true }) s := by
  simp [writeRingCtl, bit, hsync, hwrap]

theorem joinRefused_countedWrite (m : Master) (t : PageType) (n off : Nat) (s : State) (r : Fin 2) :
    joinRefused (countedWrite m t n off s) r = joinRefused s r := by
  have hcfg : ∀ q, q < 2 → rd (countedWrite m t n off s) (ringKey q 0x040) = rd s (ringKey q 0x040) := fun q hq =>
    rd_countedWrite_plant (ringKey_plantKey hq (by decide)) _ _ _ _ s
  unfold joinRefused
  dsimp only [ringAddr, rdf, rdb]
  rw [hcfg r r.isLt, hcfg 0 (by decide), hcfg 1 (by decide), link_countedWrite]

section Ctl

variable {m : Master} {r : Fin 2} {s : State} (h : reaches s m .ring 0x044 = true)
include h

theorem unwrapNow_completes (hsync : (link s r).sync = true) (hwrap : (link s r).wrap = true) :
    ∃ t, exec (.unwrapNow m r) s = .next t ∧ (link t r).unwrap = true := by
  refine ⟨_, congrArg Host.Outcome.next (byBus_reaches h), ?_⟩
  rw [writeRingCtl_unwraps (by rwa [link_countedWrite]) (by rwa [link_countedWrite]), link_busCycle, link_onLink_same]

theorem join_completes (hout : (link s r).joined = false) (hprobe : (link s r).probe = false)
    (hsent : (link s r).probeEnd = none) (hok : joinRefused s r = false) :
    ∃ t, exec (.join m r) s = .next t ∧
      (if (link s r).ford && (link s r).fordTo ≠ some true then (link t r).probe = true else (link t r).fordTo = some true) := by
  have hjoins := writeRingCtl_joins (s := countedWrite m .ring r 0x044 s) (r := r) (by rwa [link_countedWrite])
    (by rwa [link_countedWrite]) (by rwa [link_countedWrite]) (by rwa [joinRefused_countedWrite])
  rw [link_countedWrite] at hjoins
  exact ⟨_, congrArg Host.Outcome.next (byBus_reaches h), hjoins⟩

theorem leave_completes (r : Fin 2) : ∃ t, exec (.leave m r) s = .next t ∧ (link t r).probe = false ∧
    (link t r).probeEnd = none ∧ (link t r).fordTo = (if (link s r).ford then some false else none) := by
  refine ⟨_, congrArg Host.Outcome.next (byBus_reaches h), ?_⟩
  rw [writeRingCtl_leaves, link_busCycle, leaveRing, link_onLink_same, link_countedWrite]
  exact ⟨rfl, rfl, rfl⟩

end Ctl

/-! The ford (R333, R335) and the PROBE (R337) -/

theorem moveCells_now (r : Nat) (s : State) : (moveCells r s).now = s.now :=
  Part.same_of_op (p := .now) (by decide) (fun h => moveCells_stays h r) s

theorem fordSwitch_completes {r : Fin 2} {o : Bool} {s : State} (hl : live s .ring = true) (hto : (link s r).fordTo = some o)
    (hrx : (link s r).rx = none) :
    ∃ t, exec (.fordSwitch r) s = .next t ∧ (link t r).ford = o ∧ (link t r).fordTo = none ∧ (link t r).probe = o ∧
      (link s r).freeAt ≤ t.now := by
  refine ⟨_, rfl, ?_⟩
  simp only [hto, hl, hrx, Bool.not_true, Option.isSome_none, Bool.or_self, Bool.false_eq_true, if_false]
  cases o
  · rw [if_neg Bool.false_ne_true, link_moveCells, link_onLink_same, moveCells_now, onLink_now]
    exact ⟨rfl, rfl, rfl, le_upto_now _ s⟩
  · rw [if_pos rfl, link_onLink_same, onLink_now]
    exact ⟨rfl, rfl, rfl, le_upto_now _ s⟩

theorem probeFail_completes {r : Fin 2} {s : State} {a : Nat} (hl : live s .ring = true) (hsent : (link s r).probeEnd = some a) :
    ∃ t, exec (.probeFail r) s = .next t ∧ (link t r).probeEnd = none ∧ rdb t (ringKey r 0x04C) 8 = true ∧
      rdb t (rk .ring r 0x010) 3 = true ∧ a ≤ t.now := by
  refine ⟨_, rfl, ?_⟩
  simp only [hsent, hl, Bool.not_true, Bool.false_eq_true, if_false]
  refine ⟨?ended, ?mark, rdb_raiseRing _ _ (by decide), ?due⟩
  case ended => rw [link_raiseRing, link_wrb, leaveRing, link_onLink_same]
  case mark =>
    rw [rdb, rd_raiseRing r.isLt (by decide) (by decide), ← rdb]
    exact rdb_wrb_same _ _ _ _ (by decide)
  case due =>
    rw [raiseRing_now, leaveRing, wrb, wrf, wr_now, onLink_now]
    exact le_upto_now _ s

/-- Settles O18: each clause is the lemma of its command. -/
theorem linksComplete : Obligations.LinksComplete := by
  unfold Obligations.LinksComplete
  exact ⟨fun _ _ => syncGained_completes, fun _ errs _ => syncLost_completes errs, fun _ _ => linkDown_sync_completes,
    fun _ _ _ => linkDown_rfault_completes, fun _ _ _ => linkDown_errors_completes, fun _ _ _ => linkUp_completes,
    fun _ _ => rfaultBegin_completes, fun _ _ => rfaultEnd_completes, fun _ _ => unwrap_completes,
    fun _ _ _ => unwrapNow_completes, fun _ _ _ => join_completes, fun _ r _ hpage => leave_completes hpage r,
    fun _ _ _ => fordSwitch_completes, fun _ _ _ => probeFail_completes⟩

end Sys2Proof.Machine
end

section
/-! Cells and modules: headers and cells come in and go out, ring memory, and the SFP modules (R325, R327, R329 to R332, R337, R343,
R350, R351; log entry 34). -/

set_option Elab.async false

namespace Sys2Proof.Machine

/-! Headers (R327, R329, R330) -/

/-- Whatever a header with a right check is taken for, it stands at its receiver. -/
theorem takeHeader_takes (r : Nat) (h : List Byte) (s : State) : (link (takeHeader r h s) r).rx.map (·.hdr) = some h := by
  have hkeep : ∀ x u, x.hdr = h → (link (onLink r (fun l => { l with rx := some x }) u) r).rx.map (·.hdr) = some h := fun x u hx => by
    rw [link_onLink_same, ← hx]
    rfl
  unfold takeHeader
  dsimp only
  repeat' split
  all_goals exact hkeep _ _ rfl

section Header

variable {r : Fin 2} {hdr : List Byte} {s : State} (hl : live s .ring = true) (hford : (link s r).ford = true)
  (hsync : (link s r).sync = true) (hrx : (link s r).rx = none) (hlen : hdr.length = 12)
include hl hford hsync hrx hlen

theorem cellHeader_taken (hok : hcrcOk hdr = true) :
    ∃ t, exec (.cellHeader r hdr) s = .next t ∧ (link t r).rx.map (·.hdr) = some hdr := by
  refine ⟨_, congrArg Host.Outcome.next (if_neg (by simp [hl, hford, hsync, hrx, hlen])), ?_⟩
  rw [hok, if_pos rfl]
  exact takeHeader_takes _ _ _

theorem cellHeader_counted (hok : hcrcOk hdr = false) :
    ∃ t, exec (.cellHeader r hdr) s = .next t ∧ (link t r).rx = none ∧
      rdf t (ringKey r 0x050) 16 16 = held 65535 (rdf s (ringKey r 0x050) 16 16 + 1) := by
  refine ⟨_, congrArg Host.Outcome.next (if_neg (by simp [hl, hford, hsync, hrx, hlen])), ?_⟩
  rw [hok, if_neg Bool.false_ne_true, link_countRing]
  exact ⟨hrx, rdf_countRing _ _ _ _ (by decide)⟩

end Header

/-! The end of a cell (R329, R331): what it is taken for leaves the receivers and their counts of errors. -/

/-- What comes in at a receiver, and its counts of errors. -/
def lineIn (r : Fin 2) (s : State) : Option RxCell × Word := ((link s r).rx, rd s (ringKey r 0x050))

section LineIn

variable (r : Fin 2) (s : State)

theorem lineIn_onStream (n : Nat) (f : RStream → RStream) : lineIn r (onStream n f s) = lineIn r s := rfl

theorem lineIn_memWr (a : Nat) (b : Byte) : lineIn r (memWr a b s) = lineIn r s := rfl

theorem lineIn_memWrBytes (a : Nat) (bs : List Byte) : lineIn r (memWrBytes a bs s) = lineIn r s := by
  rw [lineIn, link_memWrBytes, rd_congr (Part.same_of_op (p := .regs) (by decide) (fun h => memWrBytes_stays h a bs) s), lineIn]

theorem lineIn_raiseRing (q k : Nat) : lineIn r (raiseRing q k s) = lineIn r s := by
  rw [lineIn, link_raiseRing, rd_raiseRing r.isLt (by decide) (by decide), lineIn]

theorem lineIn_logHap (p : Nat) : lineIn r (logHap p s) = lineIn r s := rfl

theorem lineIn_onLink {q : Nat} {f : RingLink → RingLink} (hf : ∀ l, (f l).rx = l.rx := by exact fun _ => rfl) :
    lineIn r (onLink q f s) = lineIn r s := by
  rw [lineIn, rd_onLink, link_onLink_keeps (π := RingLink.rx) hf, lineIn]

theorem lineIn_countRing {off : Nat} (ho : off < 0x1000) (hne : 0x050 ≠ off) (q lo : Nat) :
    lineIn r (countRing q off lo s) = lineIn r s := by
  rw [lineIn, link_countRing, rd_countRing_ne (by decide) ho hne, lineIn]

theorem lineIn_queueCtl (q : Nat) (e : CtlEnt) : lineIn r (queueCtl q e s) = lineIn r s := lineIn_onLink r s

theorem lineIn_answer (n kind seq : Nat) : lineIn r (answer n kind seq s) = lineIn r s := lineIn_queueCtl r s _ _

theorem lineIn_dropOpens (n : Nat) : lineIn r (dropOpens n s) = lineIn r s :=
  by
  simp only [dropOpens, forEach]
  exact (lineIn_onLink r _).trans (lineIn_onLink r s)

theorem lineIn_sendOpen (n : Nat) : lineIn r (sendOpen n s) = lineIn r s := by
  unfold sendOpen
  rw [lineIn_queueCtl, lineIn_dropOpens, lineIn_onStream]

theorem lineIn_openStream (n : Nat) : lineIn r (openStream n s) = lineIn r s := by
  unfold openStream
  dsimp only
  split
  · rw [lineIn_sendOpen, lineIn_onStream]
  · rw [lineIn_onStream]

theorem lineIn_breakOne (n cause : Nat) : lineIn r (breakOne n cause s) = lineIn r s := by
  have hanswer : ∀ (c : Prop) [Decidable c] u q, lineIn r (if c then answer n 3 q u else u) = lineIn r u := fun c _ u q => by
    split
    · exact lineIn_answer _ _ _ _ _
    · rfl
  unfold breakOne
  dsimp only
  split
  · rfl
  · split
    · rw [reopenStream, lineIn_openStream, lineIn_onStream, hanswer, lineIn_logHap, lineIn_raiseRing, lineIn_dropOpens,
        lineIn_onStream]
    · rw [hanswer, lineIn_logHap, lineIn_raiseRing, lineIn_dropOpens, lineIn_onStream]

theorem lineIn_breakStream (n cause : Nat) : lineIn r (breakStream n cause s) = lineIn r s := by
  unfold breakStream
  dsimp only
  split
  · rfl
  · split
    · rw [lineIn_breakOne, lineIn_breakOne]
    · rw [lineIn_breakOne]

theorem lineIn_refill (n : Nat) : lineIn r (refill n s) = lineIn r s := by
  rw [lineIn, link_refill, rd_congr (Part.same_of_op (p := .regs) (by decide) (fun h => refill_stays h n) s), lineIn]

theorem lineIn_gatewayCross (n : Nat) : lineIn r (gatewayCross n s) = lineIn r s := by
  rw [lineIn, link_gatewayCross, rd_congr (Part.same_of_op (p := .regs) (by decide) (fun h => gatewayCross_stays h n) s), lineIn]

theorem lineIn_resend (n k : Nat) : lineIn r (resend n k s) = lineIn r s := by
  unfold resend
  dsimp only
  split
  · exact lineIn_breakStream _ _ _ _
  · exact lineIn_onStream _ _ _ _

theorem lineIn_takeEntry (src e : Nat) : lineIn r (takeEntry src e s) = lineIn r s := by
  unfold takeEntry
  dsimp only
  split
  · rfl
  · split <;> try split
    · rw [lineIn_refill, freeCells, lineIn_onStream]
    · rfl
    · exact lineIn_resend _ _ _ _
    · rfl
    · rw [lineIn_dropOpens, lineIn_onStream]
    · rfl
    · exact lineIn_breakStream _ _ _ _

theorem lineIn_takeEntries (src : Nat) : ∀ (k : Nat) (bs : List Byte) (s : State),
    lineIn r (takeEntries src k bs s) = lineIn r s
  | 0, _, _ => rfl
  | k + 1, bs, s => by
    unfold takeEntries
    split
    · rfl
    · rw [lineIn_takeEntries src k, lineIn_takeEntry]

theorem lineIn_takeOpen (c : List Byte) (q : Nat) : lineIn r (takeOpen c q s) = lineIn r s := by
  unfold takeOpen
  dsimp only
  split
  · exact lineIn_countRing r s (by decide) (by decide) _ _
  · rw [lineIn_answer, lineIn_onStream]

theorem lineIn_deliverHeld (n : Nat) : ∀ (k : Nat) (s : State), lineIn r (deliverHeld n k s) = lineIn r s
  | 0, _ => rfl
  | k + 1, s => by
    unfold deliverHeld
    dsimp only
    split
    · rw [lineIn_deliverHeld n k, lineIn_onStream]
    · rfl

theorem lineIn_sendNak (n : Nat) : lineIn r (sendNak n s) = lineIn r s := by
  unfold sendNak
  dsimp only
  split
  · rfl
  · rw [lineIn_answer, lineIn_onStream]

theorem lineIn_afterDelivery (n : Nat) : lineIn r (afterDelivery n s) = lineIn r s := by
  have hnak : ∀ (c : Bool) u, lineIn r (if c then u else sendNak n u) = lineIn r u := fun c u => by
    split
    · rfl
    · exact lineIn_sendNak r u n
  unfold afterDelivery
  dsimp only
  split
  · rw [hnak, lineIn_onStream]
  · split
    · rw [lineIn_answer, lineIn_onStream, hnak, lineIn_onStream]
    · split
      · rw [lineIn_onStream, hnak, lineIn_onStream]
      · rw [hnak, lineIn_onStream]

theorem lineIn_bufFull (n : Nat) : lineIn r (bufFull n s) = lineIn r s := by
  unfold bufFull
  dsimp only
  split
  · exact lineIn_onStream _ _ _ _
  · rw [lineIn_raiseRing, lineIn_onStream]

theorem lineIn_takeData (n : Nat) (c : List Byte) (q soc : Nat) : lineIn r (takeData n c q soc s) = lineIn r s := by
  unfold takeData fillSlot
  dsimp only
  split
  · exact lineIn_countRing r s (by decide) (by decide) _ _
  · split
    · split
      · rw [lineIn_bufFull, lineIn_onStream]
      · rw [lineIn_gatewayCross, lineIn_afterDelivery, lineIn_deliverHeld, lineIn_onStream, lineIn_memWrBytes, lineIn_onStream]
    · split
      · rw [lineIn_sendNak, lineIn_onStream, lineIn_memWrBytes, lineIn_onStream]
      · split
        · rw [lineIn_answer, lineIn_onStream, lineIn_onStream]
        · rw [lineIn_onStream, lineIn_onStream]

theorem lineIn_incMod {off : Nat} (ho : off < 0x1000) (hne : 0x050 ≠ off) (q lo w : Nat) :
    lineIn r (incMod (ringKey q off) lo w s) = lineIn r s := by
  rw [lineIn, link_incMod, incMod, rd_wrf_ne _ _ _ _ (ringKey_ne (by decide) ho hne), lineIn]

theorem lineIn_takeCell (q : Nat) (x : RxCell) (c : List Byte) : lineIn r (takeCell q x c s) = lineIn r s := by
  have hcount := lineIn_incMod r s (off := 0x060) (by decide) (by decide) q 0 32
  unfold takeCell
  dsimp only
  split
  · rw [lineIn_takeData, hcount]
  · rw [lineIn_takeEntries, hcount]
  · rw [lineIn_takeOpen, hcount]
  · exact hcount

theorem lineIn_takeDatum (q : Nat) (x : RxCell) (c : List Byte) (bad : Bool) : lineIn r (takeDatum q x c bad s) = lineIn r s := rfl

end LineIn

theorem rx_codeErrors (r n : Nat) (s : State) : (link (codeErrors r n s) r).rx = (link s r).rx := by
  unfold codeErrors
  split <;> simp

/-- A forwarded cell ends on its transmitter. -/
def cellPassed (x : RxCell) (body : List Byte) (poisoned : Bool) (s : State) : State :=
  match x.fwd with
  | some p => onLink p (fun l => { l with sent := x.out ++ padTo 52 body, sentBad := poisoned }) s
  | none => s

theorem lineIn_cellPassed (r : Fin 2) (x : RxCell) (body : List Byte) (poisoned : Bool) (s : State) :
    lineIn r (cellPassed x body poisoned s) = lineIn r s := by
  unfold cellPassed
  split
  · exact lineIn_onLink r s
  · rfl

/-- A cell that is the node's is handed on, a poisoned one to Datum alone. -/
def cellTaken (r : Nat) (x : RxCell) (c : List Byte) (poisoned : Bool) (s : State) : State :=
  if !x.take then s
  else if cellType c = 8 then takeDatum r x c poisoned (if poisoned then s else incMod (ringKey r 0x060) 0 32 s)
  else if poisoned then s
  else takeCell r x c s

theorem lineIn_cellTaken (r : Fin 2) (q : Nat) (x : RxCell) (c : List Byte) (poisoned : Bool) (s : State) :
    lineIn r (cellTaken q x c poisoned s) = lineIn r s := by
  unfold cellTaken
  split
  · rfl
  · split
    · rw [lineIn_takeDatum]
      split
      · rfl
      · exact lineIn_incMod r s (by decide) (by decide) _ _ _
    · split
      · rfl
      · exact lineIn_takeCell r s _ _ _

/-- Code errors inside a cell or a wrong check spoil it, where it has not come in ending with EOC_BAD (R329). -/
def cellSpoilt (c : List Byte) (errs : Nat) (bad : Bool) : Bool := !bad && (decide (0 < errs) || !cellOk c)

/-- A cell that comes in ends: its receiver is free for the next, and what comes of it follows. -/
theorem cellEnd_eq {r : Fin 2} (body : List Byte) (errs : Nat) (bad : Bool) {s : State} {x : RxCell} (hl : live s .ring = true)
    (hsync : (link s r).sync = true) (hx : (link s r).rx = some x) : exec (.cellEnd r body errs bad) s =
      let c := x.hdr ++ padTo 52 body
      let poisoned := bad || cellSpoilt c errs bad
      .next (cellTaken r x c poisoned (cellPassed x body poisoned
        (onlyIf (cellSpoilt c errs bad && decide (cellType c ≠ 8)) (countRing r 0x054 0)
          (onLink r (fun l => { l with rx := none }) (codeErrors r errs s))))) := by
  have hx' : (link (codeErrors r errs s) r).rx = some x := by rw [rx_codeErrors, hx]
  refine congrArg Host.Outcome.next ?_
  simp only [hl, hsync, Bool.and_self, if_true, hx']
  rfl

theorem cellEnd_completes {r : Fin 2} (body : List Byte) (errs : Nat) (bad : Bool) {s : State} (hl : live s .ring = true)
    (hsync : (link s r).sync = true) (hrx : (link s r).rx.isSome = true) :
    ∃ t, exec (.cellEnd r body errs bad) s = .next t ∧ (link t r).rx = none ∧
      (0 < errs → rdf t (ringKey r 0x050) 0 16 = held 65535 (rdf s (ringKey r 0x050) 0 16 + errs)) := by
  obtain ⟨x, hx⟩ := Option.isSome_iff_exists.mp hrx
  have hcount : ∀ c u, lineIn r (onlyIf c (countRing r 0x054 0) u) = lineIn r u := fun c u =>
    onlyIf_keeps (lineIn_countRing r u (by decide) (by decide) _ _) c
  have hline := fun c poisoned spoilt => (lineIn_cellTaken r r x c poisoned _).trans ((lineIn_cellPassed r x body poisoned _).trans
    (hcount spoilt (onLink r (fun l => { l with rx := none }) (codeErrors r errs s))))
  obtain ⟨hfree, herrs⟩ := Prod.mk.inj (hline _ _ _)
  refine ⟨_, cellEnd_eq body errs bad hl hsync hx, hfree.trans (by rw [link_onLink_same]), fun _ => ?_⟩
  rw [rdf, herrs, rd_onLink, ← rdf, rdf_codeErrors]

/-! Sending (R332, R336, R337) -/

theorem sendLocal_keeps {α : Type} {π : RingLink → α} (hπ : ∀ l a c b, π { l with freeAt := a, sent := c, sentBad := b } = π l)
    (q : Nat) (mk : Nat → List Byte) (s : State) (r : Nat) : π (link (sendLocal q mk s).2 r) = π (link s r) :=
  link_onLink_keeps (fun l => hπ l _ _ _) _ _ _

theorem cellSend_probe {r : Fin 2} {s : State} (hl : live s .ring = true) (hford : (link s r).ford = true)
    (hprobe : (link s r).probe = true) :
    ∃ t, exec (.cellSend r) s = .next t ∧ (link t r).probe = false ∧ (link t r).probeEnd.isSome = true := by
  refine ⟨_, congrArg Host.Outcome.next (if_neg (by simp [hl, hford])), ?_⟩
  dsimp only
  rw [link_upto, if_pos hprobe, link_onLink_same]
  exact ⟨rfl, rfl⟩

section Next

variable (s : State) (m : Nat)

theorem next_streamPut (n : Nat) (p : List Byte) : (rstream (streamPut n p s).2 m).next = (rstream s m).next := by
  unfold streamPut
  dsimp only
  split
  · rfl
  · exact (onStream_keeps (π := RStream.next) rfl m).trans (by rw [rstream_memWr, rstream_memWrBytes])

theorem next_streamTake (n : Nat) : (rstream (streamTake n s).2 m).next = (rstream s m).next := by
  unfold streamTake
  dsimp only
  split
  · rfl
  · exact onStream_keeps (π := RStream.next) rfl m

theorem next_gatewayPut (q : Nat) (p : List Byte) (flags : Byte) :
    (rstream (gatewayPut q p flags s) m).next = (rstream s m).next := by
  unfold gatewayPut
  dsimp only
  split
  · rw [rstream_memWr, next_streamPut]
  · exact next_streamPut s m q p

theorem next_cross (n q : Nat) : ∀ (k : Nat) (s : State), (rstream (cross n q k s) m).next = (rstream s m).next
  | 0, _ => rfl
  | k + 1, s => by
    unfold cross
    dsimp only
    split
    · rfl
    · have htake := next_streamTake s m n
      split
      · next h => rw [next_cross n q k, next_gatewayPut, ← htake, h]
      · next h => rw [← htake, h]

/-- Cells carried across a gateway leave the SEQ of each stream. -/
theorem next_refill (n : Nat) : (rstream (refill n s) m).next = (rstream s m).next := by
  unfold refill gatewayCross
  split
  · split
    · rfl
    · split
      · exact next_cross m _ _ _ _
      · rfl
  · rfl

theorem next_dropSent (n : Nat) : (rstream (dropSent n s) m).next = (rstream s m).next := by
  unfold dropSent
  dsimp only
  split
  · rfl
  · exact onStream_keeps (π := RStream.next) rfl m

theorem rstream_sendLocal (q : Nat) (mk : Nat → List Byte) : rstream (sendLocal q mk s).2 m = rstream s m := by
  unfold sendLocal
  dsimp only
  rw [rstream_incMod, rstream_onLink]

end Next

/-- A new cell of a stream takes its next SEQ. -/
theorem next_sendCell (n r : Nat) (s : State) :
    (rstream (sendCell n r (rstream s n).unack.length s) n).next = ((rstream s n).next + 1) % 65536 := by
  unfold sendCell
  extract_lets x a len fresh
  split
  next f d hd =>
  extract_lets u c wrapped
  split
  next t v hv =>
  extract_lets u' s1 full s2
  have hd' : rstream d n = rstream s n := by
    split at hd <;> obtain ⟨-, rfl⟩ := Prod.mk.inj hd <;> rfl
  have hv' : rstream v n = rstream s n := by
    rw [← hd', ← rstream_sendLocal d n r (fun _ => frameCell d r wrapped c), hv]
  have h1 : (rstream s1 n).next = ((rstream s n).next + 1) % 65536 := by
    rw [rstream_onStream_same, hv']
    exact if_pos (decide_eq_true rfl)
  have h2 : (rstream s2 n).next = ((rstream s n).next + 1) % 65536 := by
    rw [rstream_onLink, next_dropSent, h1]
  rw [next_refill]
  split
  · rw [rstream_raiseRing, h2]
  · exact h2

theorem cellSend_stream {r : Fin 2} {s : State} {n : Nat} (hl : live s .ring = true) (hford : (link s r).ford = true)
    (hprobe : (link s r).probe = false) (hctl : (link s r).ctl = []) (hfree : (link s (physTx s r)).freeAt ≤ s.now)
    (htop : topStream s r (readyStreams s r s.now) = some n)
    (hready : readyCell s n r s.now = some (rstream s n).unack.length) :
    ∃ t, exec (.cellSend r) s = .next t ∧ (rstream t n).next = ((rstream s n).next + 1) % 65536 := by
  have hnow : upto (link s (physTx s r)).freeAt s = s := by rw [upto, max_eq_left hfree]
  refine ⟨_, congrArg Host.Outcome.next (if_neg (by simp [hl, hford])), ?_⟩
  dsimp only
  rw [hnow, hprobe, if_neg Bool.false_ne_true, hctl, List.isEmpty_nil, Bool.not_true, if_neg Bool.false_ne_true]
  simp only [htop, hready]
  exact next_sendCell n r s

/-! Ring memory (R350) -/

theorem rmemWrite_completes {m : Master} (v : Word) {s : State} (h : reaches s m .ring 0x0D4 = true) :
    ∃ t, exec (.rmemDataAccess m (some v)) s = .next t ∧ memWord t (ringBase + 4 * rdf s (ringKey 0 0x0D0) 0 16) = v ∧
      rdf t (ringKey 0 0x0D0) 0 16 = (rdf s (ringKey 0 0x0D0) 0 16 + 1) % 65536 := by
  refine ⟨_, congrArg Host.Outcome.next (byBus_reaches h), memWord_memWrWord_same _ _ _, ?_⟩
  rw [rdf, rd_busCycle, rd_congr (memWrWord_regs _ _ _), ← rdf]
  exact rdf_wrf_same _ _ _ _ _ (by decide)

theorem rmemRead_completes (m : Master) {s : State} (h : pageUp s .ring 0x0D4 = true) :
    ∃ t, exec (.rmemDataAccess m none) s = .next t ∧
      t.bus.rdata = memWord s (ringBase + 4 * rdf s (ringKey 0 0x0D0) 0 16) ∧ t.bus.err = false ∧
      rdf t (ringKey 0 0x0D0) 0 16 = (rdf s (ringKey 0 0x0D0) 0 16 + 1) % 65536 := by
  have hmem : (countedRead m .ring 0 0x0D4 s).mem = s.mem := pmcAccess_mem _ _ _ _ s
  refine ⟨_, congrArg Host.Outcome.next (readAt_up h), ?_, rfl, ?_⟩
  · rw [respond_bus, memWord, memBytes_congr hmem, memWord]
  · rw [rdf, rd_respond, ← rdf, rdf_wrf_same _ _ _ _ _ (by decide)]
    rfl

/-! SFP modules (R325, R351; log entry 34) -/

theorem sfpStore_now (r off : Nat) (bs : List Byte) (s : State) : (sfpStore r off bs s).now = s.now :=
  Part.same_of_op (p := .now) (by decide) (fun h => sfpStore_stays h r off bs) s

theorem rd_sfpStore (r off : Nat) (bs : List Byte) (s : State) (k : Nat) : rd (sfpStore r off bs s) k = rd s k :=
  rd_congr (Part.same_of_op (p := .regs) (by decide) (fun h => sfpStore_stays h r off bs) s) k

/-- An answered presence test finds the module. -/
theorem sfpPresence_found (r : Nat) (bs : List Byte) (s : State) :
    rdb (sfpPresence r (.data bs) s) (ringKey r 0x074) 0 = true := by
  unfold sfpPresence
  dsimp only
  rw [rdb_wrb_ne _ _ _ _ _ _ (by decide) (.inr (by decide)), rdb_wrb_ne _ _ _ _ _ _ (by decide) (.inr (by decide)),
    rdb_wrb_same _ _ _ _ (by decide)]

theorem sfpPresence_now (r : Nat) (ans : SfpAnswer) (s : State) : (sfpPresence r ans s).now = s.now :=
  Part.same_of_op (p := .now) (by decide) (fun h => sfpPresence_stays h r ans) s

theorem link_sfpPresence (q : Nat) (ans : SfpAnswer) (s : State) (r : Nat) : link (sfpPresence q ans s) r = link s r :=
  link_congr (Part.same_of_op (p := .rings) (by decide) (fun h => sfpPresence_stays h q ans) s) r

theorem sfpPresencePoll_completes {r : Fin 2} (bs : List Byte) {s : State} (hl : live s .ring = true) :
    ∃ t, exec (.sfpPresencePoll r (.data bs)) s = .next t ∧ rdb t (ringKey r 0x074) 0 = true ∧
      (link t r).sfpAt = nextDue (link s r).sfpAt (100 * msec) t.now ∧ (link s r).sfpAt ≤ t.now := by
  refine ⟨_, congrArg Host.Outcome.next (if_neg (by simp [hl])), sfpPresence_found _ _ _, ?_⟩
  rw [link_sfpPresence, link_onLink_same, sfpPresence_now, onLink_now]
  exact ⟨rfl, le_upto_now _ s⟩

theorem rescan_completes {m : Master} {r : Fin 2} (bs : List Byte) {s : State} (h : reaches s m .ring 0x070 = true) :
    ∃ t, exec (.rescan m r (.data bs)) s = .next t ∧ rdb t (ringKey r 0x074) 0 = true :=
  ⟨_, congrArg Host.Outcome.next (byBus_reaches h), sfpPresence_found _ _ _⟩

theorem sfpDataRead_completes (m : Master) {r : Fin 2} {s : State} (h : pageUp s .ring 0x07C = true) :
    ∃ t, exec (.sfpDataRead m r) s = .next t ∧ t.bus.rdata = wNat (sfpByte s r (rdf s (ringKey r 0x078) 0 9)) ∧
      t.bus.err = false ∧ rdf t (ringKey r 0x078) 0 9 = (rdf s (ringKey r 0x078) 0 9 + 1) % 512 := by
  have haddr : rdf (countedRead m .ring r 0x07C s) (ringKey r 0x078) 0 9 = rdf s (ringKey r 0x078) 0 9 :=
    congrArg (fld · 0 9) (rd_pmcAccess_plant (ringKey_plantKey r.isLt (by decide)) _ _ _ _ s)
  have hbyte : ∀ i, sfpByte (countedRead m .ring r 0x07C s) r i = sfpByte s r i := fun i =>
    congrArg (fun mem => (smGet memReset mem _).toNat) (pmcAccess_mem _ _ _ _ s)
  refine ⟨_, congrArg Host.Outcome.next (readAt_up h), ?_, rfl, ?_⟩
  · rw [haddr, respond_bus, hbyte]
  · rw [haddr, rdf, rd_respond, ← rdf, rdf_wrf_same _ _ _ _ _ (by decide)]
    rfl

/-- An answered diagnostic poll stores the module's bytes and writes its measurements; the warnings among them may raise theirs. -/
theorem sfpDdmPoll_eq {r : Fin 2} (bs : List Byte) {s : State} (hl : live s .ring = true)
    (hpoll : rdf s (ringKey r 0x070) 0 16 ≠ 0) : ∃ next u hi v84 v88 loss fault tx warned,
    next = nextDue (link s r).ddmAt (rdf s (ringKey r 0x070) 0 16 * msec) (upto (link s r).ddmAt s).now ∧
    u = sfpStore r (256 + 96) (padTo 22 bs) (onLink r (fun l => { l with ddmAt := next }) (upto (link s r).ddmAt s)) ∧
    exec (.sfpDdmPoll r (.data bs)) s = .next (onlyIf warned (raiseRing r 8) (sfpStore r (256 + 110) tx
      (wrb (ringKey r 0x074) 3 loss (wrb (ringKey r 0x074) 4 fault (wr (ringKey r 0x088) v88 (wr (ringKey r 0x084) v84
        (wr (ringKey r 0x080) (wNat (sfpByte u r (256 + 96) * 256 + sfpByte u r (256 + 96 + 1) + hi * 65536)) u))))))) :=
  ⟨_, _, _, _, _, _, _, _, _, rfl, rfl, congrArg Host.Outcome.next (if_neg (by simp [hl, hpoll]))⟩

/-- A byte that is stored in the shadow of a module is read there. -/
theorem sfpByte_sfpStore (r off : Nat) {n i : Nat} {bs : List Byte} (s : State) (hn : i < n) (hi : i < bs.length) :
    sfpByte (sfpStore r off (padTo n bs) s) r (off + i) = (bs.getD i 0#8).toNat := by
  have hlen : i < (padTo n bs).length := by
    simp only [padTo, List.length_take, List.length_append, List.length_replicate]
    omega
  have hpad : (padTo n bs)[i] = bs.getD i 0#8 := by
    simp only [padTo, List.getElem_take, List.getElem_append_left hi, List.getD_eq_getElem _ _ hi]
  rw [sfpByte, ← Nat.add_assoc, sfpStore, memRd_memWrBytes _ _ _ _ hlen, hpad]

/-- The first field of a word that two fields make up. -/
theorem fld_low (a b : Nat) (ha : a < 65536) : fld (wNat (a + b * 65536)) 0 16 = a := by
  simp only [fld, wNat, BitVec.toNat_ofNat, Nat.shiftRight_zero]
  omega

theorem sfpDdmPoll_completes {r : Fin 2} {bs : List Byte} {s : State} (hl : live s .ring = true)
    (hpoll : rdf s (ringKey r 0x070) 0 16 ≠ 0) (hlen : 2 ≤ bs.length) :
    ∃ t, exec (.sfpDdmPoll r (.data bs)) s = .next t ∧
      rdf t (ringKey r 0x080) 0 16 = (bs.getD 0 0#8).toNat * 256 + (bs.getD 1 0#8).toNat ∧
      (link t r).ddmAt = nextDue (link s r).ddmAt (rdf s (ringKey r 0x070) 0 16 * msec) t.now ∧ (link s r).ddmAt ≤ t.now := by
  obtain ⟨next, u, hi, v84, v88, loss, fault, tx, warned, hnext, hu, hexec⟩ := sfpDdmPoll_eq bs hl hpoll
  have hb0 : sfpByte u r (256 + 96) = (bs.getD 0 0#8).toNat := by
    rw [hu]
    exact sfpByte_sfpStore r (256 + 96) (n := 22) (i := 0) _ (by decide) (by omega)
  have hb1 : sfpByte u r (256 + 96 + 1) = (bs.getD 1 0#8).toNat := by
    rw [hu]
    exact sfpByte_sfpStore r (256 + 96) (n := 22) (i := 1) _ (by decide) (by omega)
  have hne : ∀ {o}, o < 0x1000 → 0x080 ≠ o → ringKey r 0x080 ≠ ringKey r o := fun ho h => ringKey_ne (by decide) ho h
  refine ⟨_, hexec, ?measured, ?due⟩
  case measured =>
    rw [rdf, onlyIf_keeps (π := (rd · _)) (rd_raiseRing r.isLt (by decide) (by decide) _ _ _), rd_sfpStore,
      rd_wrb_ne _ _ _ (hne (by decide) (by decide)), rd_wrb_ne _ _ _ (hne (by decide) (by decide)),
      rd_wr_ne _ _ (hne (by decide) (by decide)), rd_wr_ne _ _ (hne (by decide) (by decide)), rd_wr_same, hb0, hb1]
    exact fld_low _ _ (by have := (bs.getD 0 0#8).isLt; have := (bs.getD 1 0#8).isLt; omega)
  case due =>
    rw [onlyIf_keeps (π := (link · _)) (link_raiseRing _ _ _ _), onlyIf_keeps (π := State.now) (raiseRing_now _ _ _), sfpStore_now,
      sfpStore, link_memWrBytes, link_wrb, link_wrb, link_wr, link_wr, link_wr]
    simp only [wrb, wrf, wr_now, hu, sfpStore_now, onLink_now]
    rw [sfpStore, link_memWrBytes, link_onLink_same]
    exact ⟨hnext, le_upto_now _ s⟩

/-- Settles O19: each clause is the lemma of its command. -/
theorem cellsAndModulesComplete : Obligations.CellsAndModulesComplete := by
  unfold Obligations.CellsAndModulesComplete
  exact ⟨fun _ _ _ => cellHeader_taken, fun _ _ _ => cellHeader_counted, fun _ body errs bad _ => cellEnd_completes body errs bad,
    fun _ _ => cellSend_probe, fun _ _ _ => cellSend_stream, fun _ v _ => rmemWrite_completes v, fun m _ => rmemRead_completes m,
    fun _ bs _ => sfpPresencePoll_completes bs, fun _ _ _ => sfpDdmPoll_completes, fun _ _ bs _ => rescan_completes bs,
    fun m _ _ => sfpDataRead_completes m⟩

end Sys2Proof.Machine
end

section
/-! Streams: opening and closing, pointers, and what falls due on a stream (R341, R344, R345, R351). -/

set_option Elab.async false

namespace Sys2Proof.Machine

/-! Opening and closing (R345) -/

theorem rstream_sendOpen (n : Nat) (s : State) (m : Nat) : rstream (sendOpen n s) m =
    rstream (onStream n (fun x => { x with openAt := s.now }) s) m := by
  unfold sendOpen
  dsimp only
  rw [rstream_queueCtl, rstream_dropOpens]

theorem sendOpen_keeps {α : Type} {π : RStream → α} (hπ : ∀ x a, π { x with openAt := a } = π x) (n : Nat) (s : State) (m : Nat) :
    π (rstream (sendOpen n s) m) = π (rstream s m) := by
  rw [rstream_sendOpen]
  exact onStream_keeps (hπ _ _) m

theorem openStream_opens (n : Nat) (s : State) : (rstream (openStream n s) n).st = 1 ∧
    (rstream (openStream n s) n).unack = (rstream s n).unack := by
  unfold openStream
  dsimp only
  split
  · rw [sendOpen_keeps (π := RStream.st) (fun _ _ => rfl), sendOpen_keeps (π := RStream.unack) (fun _ _ => rfl),
      rstream_onStream_same]
    exact ⟨rfl, rfl⟩
  · rw [rstream_onStream_same]
    exact ⟨rfl, rfl⟩

theorem reopenStream_opens (n : Nat) (s : State) : (rstream (reopenStream n s) n).st = 1 ∧
    (rstream (reopenStream n s) n).unack = [] := by
  unfold reopenStream
  obtain ⟨hst, hunack⟩ := openStream_opens n (onStream n (fun x =>
    { x with get := (if x.dir = 1 ∧ x.size ≠ 0 then (x.get + x.unack.length) % x.size else x.get), unack := [] }) s)
  refine ⟨hst, hunack.trans ?_⟩
  rw [rstream_onStream_same]

theorem closeStream_closes (n : Nat) (s : State) : (rstream (closeStream n s) n).st = 0 ∧
    (rstream (closeStream n s) n).cfg = (rstream s n).cfg := by
  rw [closeStream, rstream_dropOpens, rstream_onStream_same]
  exact ⟨rfl, rfl⟩

theorem writeStrCtl_opens {s : State} (hst : (rstream s (selStream s)).st = 0)
    (hok : openRefused (rstream s (selStream s)) = false) : writeStrCtl 1 s = openStream (selStream s) s := by
  simp [writeStrCtl, bit, hst, hok]

theorem writeStrCtl_closes (s : State) : writeStrCtl 2 s = closeStream (selStream s) s := by
  simp [writeStrCtl, bit]

theorem writeStrCtl_reopens {s : State} (hst : (rstream s (selStream s)).st ≠ 0) :
    writeStrCtl 4 s = reopenStream (selStream s) s := by
  simp [writeStrCtl, bit, hst]

theorem selStream_countedWrite (m : Master) (t : PageType) (n off : Nat) (s : State) :
    selStream (countedWrite m t n off s) = selStream s :=
  congrArg (fld · 0 10) (rd_countedWrite_plant (ringKey_plantKey (by decide) (by decide)) _ _ _ _ s)

section Ctl

variable {m : Master} {s : State} (h : reaches s m .ring 0x0C0 = true)
include h

theorem strOpen_completes (hst : (rstream s (selStream s)).st = 0) (hok : openRefused (rstream s (selStream s)) = false) :
    ∃ t, exec (.strOpen m) s = .next t ∧ (rstream t (selStream s)).st = 1 := by
  refine ⟨_, congrArg Host.Outcome.next (byBus_reaches h), ?_⟩
  rw [writeStrCtl_opens (by rwa [selStream_countedWrite, rstream_countedWrite])
    (by rwa [selStream_countedWrite, rstream_countedWrite]), rstream_busCycle, selStream_countedWrite]
  exact (openStream_opens _ _).1

theorem strClose_completes : ∃ t, exec (.strClose m) s = .next t ∧ (rstream t (selStream s)).st = 0 ∧
    (rstream t (selStream s)).cfg = (rstream s (selStream s)).cfg := by
  have hclosed := closeStream_closes (selStream s) (countedWrite m .ring 0 0x0C0 s)
  rw [rstream_countedWrite] at hclosed
  refine ⟨_, congrArg Host.Outcome.next (byBus_reaches h), ?_⟩
  rw [writeStrCtl_closes, rstream_busCycle, selStream_countedWrite]
  exact hclosed

theorem strReopen_completes (hst : (rstream s (selStream s)).st ≠ 0) :
    ∃ t, exec (.strReopen m) s = .next t ∧ (rstream t (selStream s)).st = 1 ∧ (rstream t (selStream s)).unack = [] := by
  refine ⟨_, congrArg Host.Outcome.next (byBus_reaches h), ?_⟩
  rw [writeStrCtl_reopens (by rwa [selStream_countedWrite, rstream_countedWrite]), rstream_busCycle, selStream_countedWrite]
  exact reopenStream_opens _ _

end Ctl

/-! Pointers (R341) -/

section Pointers

variable {m : Master} {v : BitVec 8} {s : State} (h : reaches s m .ring 0x0BC = true)
  (hv : v.toNat < (rstream s (selStream s)).size)
include h hv

theorem put_completes (hdir : (rstream s (selStream s)).dir = 1) :
    ∃ t, exec (.put m v) s = .next t ∧ (rstream t (selStream s)).put = v.toNat := by
  have hsize : (rstream s (selStream s)).size ≠ 0 := by omega
  refine ⟨_, congrArg Host.Outcome.next (byBus_reaches h), ?_⟩
  simp only [writePut, selStream_countedWrite, rstream_countedWrite, hdir, hsize, rstream_busCycle, ne_eq, not_true_eq_false,
    decide_false, Bool.or_self, Bool.false_eq_true, if_false, rstream_onStream_same]
  exact Nat.mod_eq_of_lt hv

theorem get_completes (hdir : (rstream s (selStream s)).dir = 2) :
    ∃ t, exec (.get m v) s = .next t ∧ (rstream t (selStream s)).get = v.toNat := by
  have hsize : (rstream s (selStream s)).size ≠ 0 := by omega
  refine ⟨_, congrArg Host.Outcome.next (byBus_reaches h), ?_⟩
  simp only [writeGet, selStream_countedWrite, rstream_countedWrite, hdir, hsize, rstream_busCycle, ne_eq, not_true_eq_false,
    decide_false, Bool.or_self, Bool.false_eq_true, if_false, rstream_onStream_same]
  exact Nat.mod_eq_of_lt hv

end Pointers

/-! What falls due (R344, R345) -/

theorem ackTimer_completes {n : Fin 1024} {s : State} {a : Nat} (hl : live s .ring = true) (hdue : (rstream s n).ackAt = some a) :
    ∃ t, exec (.ackTimer n) s = .next t ∧ (rstream t n).ackAt = none ∧ (rstream t n).fresh = 0 ∧ a ≤ t.now := by
  refine ⟨_, rfl, ?_⟩
  simp only [hdue, hl, Bool.not_true, Bool.false_eq_true, if_false]
  rw [rstream_answer, rstream_onStream_same, answer, queueCtl_now]
  exact ⟨rfl, rfl, le_upto_now _ s⟩

theorem breakStream_now (n cause : Nat) (s : State) : (breakStream n cause s).now = s.now :=
  Part.same_of_op (p := .now) (by decide) (fun h => breakStream_stays h n cause) s

/-- A stream that is declared broken stays so, where it has no other of a gateway pair and does not open again by itself. -/
theorem breakStream_breaks {n : Nat} (cause : Nat) {s : State} (hst : (rstream s n).st = 1 ∨ (rstream s n).st = 2)
    (hcfg : bit (rstream s n).cfg 15 = false) (hpeer : gatewayPeer s n = none) :
    (rstream (breakStream n cause s) n).st = 3 ∧ (rstream (breakStream n cause s) n).cause = cause := by
  have hopen : ¬((rstream s n).st ≠ 1 ∧ (rstream s n).st ≠ 2) := by omega
  have hanswer : ∀ (c : Prop) [Decidable c] u q, rstream (if c then answer n 3 q u else u) n = rstream u n := fun c _ u q => by
    split
    · exact rstream_answer _ _ _ _ _
    · rfl
  have heq : rstream (breakStream n cause s) n = { rstream s n with
      st := 3, cause := cause, breaks := (rstream s n).breaks + 1, gap := none, fullAt := none, ackAt := none } := by
    rw [breakStream, if_neg hopen, hpeer]
    dsimp only
    rw [breakOne, if_neg hopen, hcfg, if_neg Bool.false_ne_true, hanswer, rstream_logHap, rstream_raiseRing, rstream_dropOpens,
      rstream_onStream_same]
  rw [heq]
  exact ⟨rfl, rfl⟩

section Breaks

variable {n : Fin 1024} {s : State} {a : Nat} (hl : live s .ring = true)
  (hst : (rstream s n).st = 1 ∨ (rstream s n).st = 2) (hcfg : bit (rstream s n).cfg 15 = false) (hpeer : gatewayPeer s n = none)
include hl hst hcfg hpeer

theorem gapTmo_completes (hgap : (rstream s n).gap = some a) :
    ∃ t, exec (.gapTmo n) s = .next t ∧ (rstream t n).st = 3 ∧ (rstream t n).cause = 2 ∧ a + (rstream s n).rto ≤ t.now := by
  obtain ⟨hbroken, hcause⟩ := breakStream_breaks 2 (s := upto (a + (rstream s n).rto) s) hst hcfg hpeer
  refine ⟨_, rfl, ?_⟩
  simp only [hgap, hl, if_true]
  exact ⟨hbroken, hcause, (le_upto_now _ s).trans_eq (breakStream_now _ _ _).symm⟩

theorem bufFullTimeout_completes (hfull : (rstream s n).fullAt = some a) :
    ∃ t, exec (.bufFullTimeout n) s = .next t ∧ (rstream t n).st = 3 ∧ (rstream t n).cause = 3 ∧
      a + (rstream s n).rto ≤ t.now := by
  obtain ⟨hbroken, hcause⟩ := breakStream_breaks 3 (s := upto (a + (rstream s n).rto) s) hst hcfg hpeer
  refine ⟨_, rfl, ?_⟩
  simp only [hfull, hl, if_true]
  exact ⟨hbroken, hcause, (le_upto_now _ s).trans_eq (breakStream_now _ _ _).symm⟩

end Breaks

/-- An unacknowledged cell is booked to be sent again, where it is not booked already (R344). -/
def sentAgain (rs : List Nat) (u : Unacked) : Unacked := if u.again.isEmpty then { u with retx := u.retx + 1, again := rs } else u

theorem seq_sentAgain (rs : List Nat) (u : Unacked) : (sentAgain rs u).seq = u.seq := by
  unfold sentAgain
  split <;> rfl

/-- Within the stream's limit, every unacknowledged cell is booked. -/
theorem unack_resend {n : Nat} {s : State}
    (hlimit : (((rstream s n).unack.filter fun u => u.again.isEmpty).all fun u =>
      decide (u.retx < fld (rstream s n).retry 8 4)) = true) :
    (rstream (resend n 0 s) n).unack = (rstream s n).unack.map (sentAgain (bookRings (rstream s n))) ∧ (resend n 0 s).now = s.now := by
  have hnone : (((rstream s n).unack.drop 0).filter fun u => u.again.isEmpty).any
      (fun u => decide (fld (rstream s n).retry 8 4 ≤ u.retx)) = false := by
    rw [List.drop_zero, List.any_eq_false]
    intro u hu
    have := of_decide_eq_true (List.all_eq_true.mp hlimit u hu)
    simp only [decide_eq_true_eq]
    omega
  unfold resend
  dsimp only
  rw [hnone, if_neg Bool.false_ne_true, rstream_onStream_same]
  exact ⟨rfl, rfl⟩

theorem retransmit_completes {n : Fin 1024} {s : State} {u : Unacked} {us : List Unacked} (hl : live s .ring = true)
    (hunack : (rstream s n).unack = u :: us) (hst : (rstream s n).st = 2) (hretry : (rstream s n).retries = true)
    (hagain : u.again = [])
    (hlimit : (((u :: us).filter fun u => u.again.isEmpty).all fun u => decide (u.retx < fld (rstream s n).retry 8 4)) = true) :
    ∃ t, exec (.retransmit n) s = .next t ∧ (rstream t n).unack.head?.map (·.retx) = some (u.retx + 1) ∧
      (rstream t n).unack.map (·.seq) = (u :: us).map (·.seq) ∧ u.when' + (rstream s n).rto ≤ t.now := by
  obtain ⟨hmarks, hnow⟩ := unack_resend (n := n) (s := upto (u.when' + (rstream s n).rto) s)
    (by rwa [rstream_upto, hunack])
  rw [rstream_upto, hunack] at hmarks
  refine ⟨_, rfl, ?_⟩
  simp only [hunack, hl, hst, hretry, hagain, List.isEmpty_nil, Bool.not_true, ne_eq, not_true_eq_false, decide_false,
    Bool.or_self, Bool.false_eq_true, if_false]
  rw [hmarks, hnow]
  refine ⟨?_, ?_, le_upto_now _ s⟩
  · simp [sentAgain, hagain]
  · rw [List.map_map]
    exact List.map_congr_left fun v _ => seq_sentAgain _ v

theorem openResend_completes {n : Fin 1024} {s : State} (hl : live s .ring = true) (hdir : (rstream s n).dir = 1)
    (hst : (rstream s n).st = 1) :
    ∃ t, exec (.openResend n) s = .next t ∧ (rstream t n).openAt = t.now ∧ (rstream s n).openAt + (rstream s n).rto ≤ t.now := by
  have hnow : (sendOpen n (upto ((rstream s n).openAt + (rstream s n).rto) s)).now =
      (upto ((rstream s n).openAt + (rstream s n).rto) s).now :=
    Part.same_of_op (p := .now) (by decide) (fun h => sendOpen_stays h n) _
  refine ⟨_, congrArg Host.Outcome.next (if_neg (by simp [hl, hdir, hst])), ?_⟩
  rw [hnow, rstream_sendOpen, rstream_onStream_same]
  exact ⟨rfl, le_upto_now _ s⟩

/-- Settles O20: each clause is the lemma of its command. -/
theorem streamsComplete : Obligations.StreamsComplete := by
  unfold Obligations.StreamsComplete
  exact ⟨fun _ _ => strOpen_completes, fun _ _ => strClose_completes, fun _ _ => strReopen_completes,
    fun _ _ _ hpage hdir hv => put_completes hpage hv hdir, fun _ _ _ hpage hdir hv => get_completes hpage hv hdir,
    fun _ _ _ => ackTimer_completes, fun _ _ _ hl hgap hst hcfg hpeer => gapTmo_completes hl hst hcfg hpeer hgap,
    fun _ _ _ hl hfull hst hcfg hpeer => bufFullTimeout_completes hl hst hcfg hpeer hfull,
    fun _ _ _ _ => retransmit_completes, fun _ _ => openResend_completes⟩

end Sys2Proof.Machine
end

section
/-! Datum through each update: what its servo, its states and its source leave of the sides and of the exchange interval, and what a
change of the cycle length leaves of its registers. -/

set_option Elab.async false

namespace Sys2Proof.Machine

/-! The sides and the exchange interval -/

/-- Of Datum, what only exchanges and the end of an interval change. -/
def Datum.exchanges (d : Datum) : Nat × Bool × Side × Side := (d.nextEx, d.recSyn, d.sideA, d.sideB)

@[simp] theorem raiseDat_datum (k : Nat) (s : State) : (raiseDat k s).datum = s.datum := raise_datum _ _ _ _

@[simp] theorem onDatum_datum (f : Datum → Datum) (s : State) : (onDatum f s).datum = f s.datum := rfl

@[simp] theorem baseTurn_datum (v : Bool) (s : State) : (baseTurn v s).datum = s.datum := rfl

@[simp] theorem raiseDat_now (k : Nat) (s : State) : (raiseDat k s).now = s.now := raise_now _ _ _ _

@[simp] theorem keepEra_datum (s : State) : (keepEra s).datum = s.datum :=
  Part.same_of_op (p := .datum) (by decide) (fun h => keepEra_stays h) s

@[simp] theorem keepEra_now (s : State) : (keepEra s).now = s.now := by
  unfold keepEra
  split <;> rfl

@[simp] theorem testWaiting_datum (s : State) : (testWaiting s).datum = s.datum :=
  Part.same_of_op (p := .datum) (by decide) (fun h => testWaiting_stays h) s

@[simp] theorem lockFollowsDatum_datum (s : State) : (lockFollowsDatum s).datum = s.datum :=
  Part.same_of_op (p := .datum) (by decide) (fun h => lockFollowsDatum_stays h) s

@[simp] theorem gensLoseDatum_datum (s : State) : (gensLoseDatum s).datum = s.datum :=
  Part.same_of_op (p := .datum) (by decide) (fun h => gensLoseDatum_stays h) s

@[simp] theorem islRefresh_datum (s : State) : (islRefresh s).datum = s.datum :=
  Part.same_of_op (p := .datum) (by decide) (fun h => islRefresh_stays h) s

@[simp] theorem checkLocks_datum (s : State) : (forEach (List.range 24) checkLock s).datum = s.datum :=
  forEach_mem_keeps (π := State.datum) (fun d _ u => Part.same_of_op (p := .datum) (by decide) (fun h => checkLock_stays h d) u) s

theorem setRate_datum (r : Int) (s : State) : (setRate r s).datum =
    { s.datum with base := stampAt (keepEra s) (keepEra s).now, since := s.now, rate := r } := by
  unfold setRate
  dsimp only
  rw [onDatum_datum, keepEra_datum, keepEra_now]

theorem setStamp_datum (b : Nat) (s : State) : (setStamp b s).datum = { s.datum with base := b, since := s.now } := by
  unfold setStamp
  dsimp only
  rw [onDatum_datum, keepEra_datum, keepEra_now]

theorem datumRefresh_datum (s : State) : ∃ v, (datumRefresh s).datum = { s.datum with valid := v } := by
  unfold datumRefresh
  dsimp only
  split
  · exact ⟨s.datum.valid, rfl⟩
  · split <;> simp

/-- Any state but OFF is entered with the counts towards the next change at their start. -/
theorem datumTo_datum {st : DatumSt} {s : State} (hne : s.datum.st ≠ st) (hst : st ≠ .off) : ∃ v, (datumTo st s).datum =
    { s.datum with st := st, good := 0, far := false, lateCyc := false, valid := v } := by
  unfold datumTo
  rw [if_neg hne]
  dsimp only
  rw [if_neg hst]
  exact datumRefresh_datum _

@[simp] theorem setRate_exchanges (r : Int) (s : State) : (setRate r s).datum.exchanges = s.datum.exchanges := by
  rw [setRate_datum]
  rfl

@[simp] theorem setStamp_exchanges (b : Nat) (s : State) : (setStamp b s).datum.exchanges = s.datum.exchanges := by
  rw [setStamp_datum]
  rfl

theorem datumTo_exchanges {st : DatumSt} (hst : st ≠ .off) (s : State) : (datumTo st s).datum.exchanges = s.datum.exchanges := by
  by_cases hne : s.datum.st = st
  · rw [datumTo, if_pos hne]
  · obtain ⟨v, hv⟩ := datumTo_datum hne hst
    rw [hv]
    rfl

theorem onDatum_exchanges {f : Datum → Datum} (hf : ∀ d, (f d).exchanges = d.exchanges := by exact fun _ => rfl) (s : State) :
    (onDatum f s).datum.exchanges = s.datum.exchanges := hf _

@[simp] theorem logHap_raiseDat_datum (k : Nat) (s : State) : (logHap (pageNo .datum 0) (raiseDat k s)).datum = s.datum :=
  raiseDat_datum k s

@[simp] theorem setBm_exchanges (b : Option (Nat × Nat)) (s : State) : (setBm b s).datum.exchanges = s.datum.exchanges := by
  unfold setBm
  split
  · rfl
  · dsimp only
    split
    · rfl
    · rw [logHap_raiseDat_datum]
      rfl

theorem clearClosure_datum (s : State) : ∃ a, (clearClosure s).datum = { s.datum with asymEx := a } := by
  unfold clearClosure
  split
  · exact ⟨s.datum.asymEx, rfl⟩
  · exact ⟨false, rfl⟩

@[simp] theorem clearClosure_exchanges (s : State) : (clearClosure s).datum.exchanges = s.datum.exchanges := by
  obtain ⟨a, ha⟩ := clearClosure_datum s
  rw [ha]
  rfl

/-- The state that a node passes to the exchanges as the Benchmark (R354, R356). -/
theorem becomeBenchmark_datum {s : State} (hst : s.datum.st ≠ .benchmark) : (becomeBenchmark s).datum.st = .benchmark ∧
    (becomeBenchmark s).datum.hops = 0 ∧ (becomeBenchmark s).datum.source = 0 ∧
    (becomeBenchmark s).datum.exchanges = s.datum.exchanges := by
  unfold becomeBenchmark
  extract_lets len me s1 first s2 s3
  have h2 : s2.datum.st ≠ .benchmark := by
    unfold s2 s1
    rw [onDatum_datum, setRate_datum]
    exact hst
  obtain ⟨v, h3⟩ := datumTo_datum h2 (by decide : DatumSt.benchmark ≠ .off)
  obtain ⟨a, h4⟩ := clearClosure_datum s3
  have hx : s2.datum.exchanges = s.datum.exchanges := setRate_exchanges (bmRate s) s
  rw [logHap_raiseDat_datum]
  have h5 : (if first = true then testWaiting (clearClosure s3) else clearClosure s3).datum = (clearClosure s3).datum := by
    split
    · rw [testWaiting_datum]
    · rfl
  rw [h5, h4]
  unfold s3
  rw [h3]
  exact ⟨rfl, rfl, rfl, hx⟩

@[simp] theorem takeSource_exchanges (s : State) : (takeSource s).datum.exchanges = s.datum.exchanges := by
  unfold takeSource
  split
  · rfl
  · extract_lets p moved s1 hops path din
    have h1 : s1.datum.exchanges = s.datum.exchanges := by
      unfold s1
      split
      · rfl
      · rw [raiseDat_datum]
        rfl
    split
    · rw [clearClosure_exchanges]
      exact h1
    · rw [clearClosure_exchanges, setBm_exchanges]
      exact h1

@[simp] theorem islRefresh_checkLocks_datum (s : State) :
    (islRefresh (forEach (List.range 24) checkLock s)).datum = s.datum := by
  rw [islRefresh_datum, checkLocks_datum]

/-- Of Datum, the start of a cycle changes its record alone. -/
theorem makeChange_datum (t : Nat) (s : State) : ∃ c, (makeChange t s).datum = { s.datum with cyc := c } := by
  unfold makeChange
  split
  · next c _ =>
    refine ⟨some c, ?_⟩
    rw [islRefresh_checkLocks_datum, raiseDat_datum, onDatum_datum]
  · exact ⟨s.datum.cyc, rfl⟩

@[simp] theorem makeChange_exchanges (t : Nat) (s : State) : (makeChange t s).datum.exchanges = s.datum.exchanges := by
  obtain ⟨c, hc⟩ := makeChange_datum t s
  rw [hc]
  rfl

@[simp] theorem gainTerm_datum (k : Nat) (s : State) : (gainTerm k s).2.datum = s.datum := by
  unfold gainTerm
  extract_lets
  split <;> rfl

@[simp] theorem servo_exchanges (o : Int) (s : State) : (servo o s).datum.exchanges = s.datum.exchanges := by
  unfold servo
  split
  · rfl
  · extract_lets loose b stepped tol filt far s1
    split
    · rw [makeChange_exchanges, raiseDat_datum, onDatum_exchanges, setStamp_exchanges]
    · split
      · rw [setRate_exchanges, onDatum_exchanges]
      · split
        next ti s2 hs2 =>
        have h2 : s2.datum = s1.datum := by simpa [hs2] using gainTerm_datum (datKey 0x04C) s1
        split
        next tp s3 hs3 =>
        have h3 : s3.datum = s2.datum := by simpa [hs3] using gainTerm_datum (datKey 0x048) s2
        dsimp only
        rw [setRate_exchanges, onDatum_exchanges, h3, h2, onDatum_exchanges]

@[simp] theorem closure_exchanges (r : Nat) (o : Int) (s : State) : (closure r o s).datum.exchanges = s.datum.exchanges := by
  unfold closure
  split
  · rfl
  · split
    · rfl
    · extract_lets
      split
      · rw [logHap_raiseDat_datum]
        rfl
      · rfl

@[simp] theorem offsetOf_exchanges (r : Nat) (o : Int) (s : State) : (offsetOf r o s).datum.exchanges = s.datum.exchanges := by
  unfold offsetOf
  split
  · exact servo_exchanges o s
  · exact closure_exchanges r o s

@[simp] theorem adoptCycle_exchanges (c : CycRec) (s : State) : (adoptCycle c s).datum.exchanges = s.datum.exchanges := by
  unfold adoptCycle
  split
  · rfl
  · extract_lets made new moved first s1 s2
    have h2 : s2.datum = s1.datum := by
      unfold s2
      split
      · exact testWaiting_datum s1
      · rfl
    have h3 : s2.datum.exchanges = s.datum.exchanges := by
      rw [h2]
      rfl
    split
    · rw [islRefresh_checkLocks_datum, h3]
    · exact h3

@[simp] theorem hearSyn_exchanges (y : SynRec) (s : State) : (hearSyn y s).datum.exchanges = s.datum.exchanges := by
  unfold hearSyn
  extract_lets newer s1
  have h1 : s1.datum.exchanges = s.datum.exchanges := by
    unfold s1
    split <;> rfl
  split
  · rw [raiseDat_datum, onDatum_exchanges, h1]
  · exact h1

@[simp] theorem onLink_datum (r : Nat) (f : RingLink → RingLink) (s : State) : (onLink r f s).datum = s.datum := by
  unfold onLink
  split <;> rfl

@[simp] theorem sendDatum_datum (r : Nat) (mk : Nat → List Byte) (s : State) : (sendDatum r mk s).2.datum = s.datum :=
  onLink_datum _ _ _

@[simp] theorem datumTable_exchanges (s : State) : (datumTable s).datum.exchanges = s.datum.exchanges := by
  unfold datumTable
  extract_lets d me cand tol
  split
  case h_1 => rfl
  case h_2 =>
    split
    · rw [takeSource_exchanges, onDatum_exchanges, logHap_raiseDat_datum, datumTo_exchanges (by decide)]
    · rfl
  case h_3 | h_4 =>
    split
    · exact datumTo_exchanges (by decide) s
    · rfl
  case h_5 hst =>
    split
    · exact (becomeBenchmark_datum fun h => nomatch hst.symm.trans h).2.2.2
    · split
      · exact datumTo_exchanges (by decide) s
      · split
        · rw [setRate_exchanges, datumTo_exchanges (by decide)]
        · split
          · exact datumTo_exchanges (by decide) s
          · rfl

/-! A side -/

theorem side_of_exchanges {s t : State} (h : t.datum.exchanges = s.datum.exchanges) (r : Nat) : side t r = side s r := by
  obtain ⟨-, -, ha, hb⟩ : _ ∧ _ ∧ _ ∧ _ := by simpa [Datum.exchanges] using h
  rw [side, side, ha, hb]

@[simp] theorem side_onSide_same (r : Nat) (f : Side → Side) (s : State) : side (onSide r f s) r = f (side s r) := by
  unfold side onSide
  split <;> rfl

/-- Exchanges on a side leave the interval as it is. -/
@[simp] theorem onSide_interval (r : Nat) (f : Side → Side) (s : State) : (onSide r f s).datum.nextEx = s.datum.nextEx ∧
    (onSide r f s).datum.recSyn = s.datum.recSyn := by
  unfold onSide
  split <;> exact ⟨rfl, rfl⟩

@[simp] theorem countAnswers_interval (r : Nat) (s : State) : (countAnswers r s).datum.nextEx = s.datum.nextEx ∧
    (countAnswers r s).datum.recSyn = s.datum.recSyn := by
  unfold countAnswers
  extract_lets d n heard turn s1
  split
  · exact ⟨rfl, rfl⟩
  · split
    · rw [raiseDat_datum]
      exact onSide_interval _ _ _
    · exact onSide_interval _ _ _

@[simp] theorem sendForesight_interval (r : Nat) (s : State) : (sendForesight r s).datum.nextEx = s.datum.nextEx ∧
    (sendForesight r s).datum.recSyn = s.datum.recSyn := by
  unfold sendForesight
  split
  · exact ⟨rfl, rfl⟩
  · extract_lets x
    split
    next at' s1 hs1 =>
    have h1 : s1.datum = s.datum := by simpa [hs1] using sendDatum_datum r (foresightBytes s x) s
    dsimp only
    rw [(onSide_interval _ _ _).1, (onSide_interval _ _ _).2, h1]
    exact ⟨rfl, rfl⟩

theorem interval_of_exchanges {s t : State} (h : t.datum.exchanges = s.datum.exchanges) : t.datum.nextEx = s.datum.nextEx ∧
    t.datum.recSyn = s.datum.recSyn := by
  obtain ⟨hn, hr, -⟩ : _ ∧ _ ∧ _ := by simpa [Datum.exchanges] using h
  exact ⟨hn, hr⟩

/-! Registers of Datum -/

theorem datKey_plantKey {off : Nat} (ho : off < 0x1000) : plantKey (datKey off) := by
  simp only [plantKey, datKey, rk, pageFirst]
  omega

theorem datKey_inj {a b : Nat} : datKey a = datKey b ↔ a = b := rk_inj

theorem pacer_lt {s : State} {d l : Nat} (h : pacer s d = some l) : l < 96 := by
  have hmem : l ∈ (List.range 96).filter (inDom s d) := List.mem_of_head? h
  exact List.mem_range.mp (List.mem_filter.mp hmem).1

section Registers

variable {off : Nat} (ho : off < 0x1000)
include ho

theorem datKey_ne_domKey {d : Nat} (hd : d < 24) {a : Nat} (ha : a < 0x80) : datKey off ≠ domKey d a := by
  simp only [datKey, domKey, rk, pageFirst]
  omega

/-- A lock that breaks writes its domain's registers and raises a cause of a PWM page. -/
theorem rd_checkLock_dat {d : Nat} (hd : d < 24) (s : State) : rd (checkLock d s) (datKey off) = rd s (datKey off) := by
  have hraise : ∀ u, rd (raiseDomain d u) (datKey off) = rd u (datKey off) := fun u => by
    unfold raiseDomain
    split
    · next l hl =>
      have hlt := pacer_lt hl
      refine rd_raise _ ?_ (datKey_plantKey ho).not_mergeKey
      simp only [datKey, rk, pageFirst]
      omega
    · rfl
  have hne : ∀ a, a < 0x80 → datKey off ≠ domKey d a := fun a ha => datKey_ne_domKey ho hd ha
  unfold checkLock
  split
  · rfl
  · split
    · rfl
    · split
      · rfl
      · have herr : ∀ u, rd (dropErr d u) (datKey off) = rd u (datKey off) := fun _ => rfl
        rw [breakLock, hraise, herr, rd_wrb_ne _ _ _ (hne 0x044 (by decide)), rd_wrb_ne _ _ _ (hne 0x040 (by decide)), setLock,
          rd_wrf_ne _ _ _ _ (hne 0x044 (by decide))]

theorem rd_islRefresh_dat (s : State) : rd (islRefresh s) (datKey off) = rd s (datKey off) := by
  have hraise : ∀ c u, rd (raiseIsl c u) (datKey off) = rd u (datKey off) := fun c u => by
    refine rd_raise u ?_ (datKey_plantKey ho).not_mergeKey
    simp only [datKey, rk, pageFirst]
    omega
  have hhold : ∀ u, rd (islHold u) (datKey off) = rd u (datKey off) := fun u => hraise _ _
  unfold islRefresh
  extract_lets ok s1
  have h1 : rd s1 (datKey off) = rd s (datKey off) := by unfold s1; split <;> rfl
  split
  · split
    · exact h1
    · exact (hhold s1).trans h1
  · split
    · exact h1
    · exact (hhold s1).trans h1
  · split
    · exact h1
    · exact (hraise _ _).trans h1
  · exact h1

/-- The domains and the islanding function follow a new cycle length without a write of Datum's registers. -/
theorem rd_islRefresh_checkLocks (s : State) :
    rd (islRefresh (forEach (List.range 24) checkLock s)) (datKey off) = rd s (datKey off) := by
  rw [rd_islRefresh_dat ho]
  exact forEach_mem_keeps (π := (rd · (datKey off))) (fun d hd u => rd_checkLock_dat ho (List.mem_range.mp hd) u) s

theorem rd_raiseDat (hne : off ≠ 0x010) (k : Nat) (s : State) : rd (raiseDat k s) (datKey off) = rd s (datKey off) :=
  rd_raise s (fun h => hne (datKey_inj.mp h)) (datKey_plantKey ho).not_mergeKey

theorem rd_makeChange (hne : off ≠ 0x010) (t : Nat) (s : State) : rd (makeChange t s) (datKey off) = rd s (datKey off) := by
  unfold makeChange
  split
  · rw [rd_islRefresh_checkLocks ho, rd_raiseDat ho hne]
    rfl
  · rfl

end Registers

theorem rdb_raiseDat (s : State) {k : Nat} (hk : k < 32) : rdb (raiseDat k s) (datKey 0x010) k = true :=
  rdb_raise _ _ _ _ hk (by decide)

theorem rdb_raiseDat_ne {k b : Nat} (hb : b < 32) (h : b ≠ k) (s : State) :
    rdb (raiseDat k s) (datKey 0x010) b = rdb s (datKey 0x010) b :=
  rdb_raise_ne _ _ _ _ _ hb h (datKey_plantKey (by decide)).not_mergeKey

/-- The start of a cycle raises its own cause alone. -/
theorem rdb_makeChange {b : Nat} (hb : b < 32) (h : b ≠ 8) (t : Nat) (s : State) :
    rdb (makeChange t s) (datKey 0x010) b = rdb s (datKey 0x010) b := by
  unfold makeChange
  split
  · rw [rdb, rd_islRefresh_checkLocks (by decide)]
    exact rdb_raiseDat_ne hb h _
  · rfl

@[simp] theorem rd_keepEra (s : State) (k : Nat) : rd (keepEra s) k = rd s k := by
  unfold keepEra
  split <;> rfl

@[simp] theorem rd_setRate (r : Int) (s : State) (k : Nat) : rd (setRate r s) k = rd s k := rd_keepEra s k

@[simp] theorem rd_setStamp (b : Nat) (s : State) (k : Nat) : rd (setStamp b s) k = rd s k := rd_keepEra s k

@[simp] theorem rd_gainTerm (k j : Nat) (s : State) : rd (gainTerm k s).2 j = rd s j := by
  unfold gainTerm
  extract_lets
  split <;> rfl

theorem rd_servo {off : Nat} (ho : off < 0x1000) (hne : off ≠ 0x010) (o : Int) (s : State) :
    rd (servo o s) (datKey off) = rd s (datKey off) := by
  unfold servo
  split
  · rfl
  · extract_lets loose b stepped tol filt far s1
    split
    · rw [rd_makeChange ho hne, rd_raiseDat ho hne, rd_onDatum, rd_setStamp]
    · split
      · rw [rd_setRate, rd_onDatum]
      · split
        next ti s2 hs2 =>
        have h2 : rd s2 (datKey off) = rd s1 (datKey off) := by simpa [hs2] using rd_gainTerm (datKey 0x04C) (datKey off) s1
        split
        next tp s3 hs3 =>
        have h3 : rd s3 (datKey off) = rd s2 (datKey off) := by simpa [hs3] using rd_gainTerm (datKey 0x048) (datKey off) s2
        dsimp only
        rw [rd_setRate, rd_onDatum, h3, h2, rd_onDatum]

theorem rd_closure {off : Nat} (ho : off < 0x1000) (hne : off ≠ 0x010) (hc : off ≠ 0x0A4) (hl : off ≠ 0x0AC) (r : Nat) (o : Int)
    (s : State) : rd (closure r o s) (datKey off) = rd s (datKey off) := by
  unfold closure
  split
  · rfl
  · split
    · rfl
    · extract_lets c lat s1 beyond was s2
      have h2 : rd s2 (datKey off) = rd s (datKey off) :=
        (rd_wr_ne _ _ fun h => hc (datKey_inj.mp h)).trans (rd_wr_ne _ _ fun h => hl (datKey_inj.mp h))
      split
      · rw [rd_logHap, rd_raiseDat ho hne, h2]
      · exact h2

theorem rd_offsetOf {off : Nat} (ho : off < 0x1000) (hne : off ≠ 0x010) (hc : off ≠ 0x0A4) (hl : off ≠ 0x0AC) (r : Nat) (o : Int)
    (s : State) : rd (offsetOf r o s) (datKey off) = rd s (datKey off) := by
  unfold offsetOf
  split
  · exact rd_servo ho hne o s
  · exact rd_closure ho hne hc hl r o s

end Sys2Proof.Machine
end

section
/-! Datum's commands (R353, R355 to R358, R361, R362, R367, R378). -/

set_option Elab.async false

namespace Sys2Proof.Machine

@[simp] theorem countedWrite_datum (m : Master) (t : PageType) (n off : Nat) (s : State) :
    (countedWrite m t n off s).datum = s.datum := pmcAccess_datum _ _ _ _ s

@[simp] theorem countedWrite_now (m : Master) (t : PageType) (n off : Nat) (s : State) :
    (countedWrite m t n off s).now = s.now := pmcAccess_now _ _ _ _ s

theorem rd_countedWrite_dat {off : Nat} (ho : off < 0x1000) (m : Master) (t : PageType) (n o : Nat) (s : State) :
    rd (countedWrite m t n o s) (datKey off) = rd s (datKey off) := rd_countedWrite_plant (datKey_plantKey ho) _ _ _ _ s

theorem datumNow_congr {s t : State} (hd : t.datum = s.datum) (hn : t.now = s.now) : datumNow t = datumNow s := by
  rw [datumNow, datumAt, stampAt, hd, hn]
  rfl

theorem untilCycle_congr {s t : State} (hd : t.datum = s.datum) (hn : t.now = s.now) (k : Nat) : untilCycle t k = untilCycle s k := by
  rw [untilCycle, nextBoundary, datumNow_congr hd hn, hd]
  rfl

/-! The enable (R353, R367) -/

@[simp] theorem datumTo_now (st : DatumSt) (s : State) : (datumTo st s).now = s.now :=
  Part.same_of_op (p := .now) (by decide) (fun h => datumTo_stays h st) s

theorem spurSides_runs (s : State) : (spurSides s).datum.st = s.datum.st ∧ (spurSides s).datum.base = s.datum.base ∧
    (spurSides s).datum.since = s.datum.since := by
  unfold spurSides
  split
  · exact ⟨rfl, rfl, rfl⟩
  · rw [raiseDat_datum]
    exact ⟨rfl, rfl, rfl⟩

/-- Datum starts in ACQUIRE, its time at 0. -/
theorem enableDatum_starts {s : State} (hst : s.datum.st = .off) : (enableDatum true s).datum.st = .acquire ∧
    (enableDatum true s).datum.base = 0 ∧ (enableDatum true s).datum.since = s.now := by
  obtain ⟨v, hv⟩ := datumTo_datum (s := s) (st := .acquire) (by rw [hst]; decide) (by decide)
  unfold enableDatum
  rw [if_pos rfl, if_neg (by simp [hst])]
  extract_lets now due s1
  obtain ⟨hs, hb, hn⟩ := spurSides_runs (onDatum (fun d => { d with base := 0, since := now, rate := 0, bmAt := now, nextEx := due }) s1)
  refine ⟨hs.trans ?_, hb, hn⟩
  exact congrArg Datum.st hv

theorem datumEnable_completes {m : Master} {v : Word} {s : State} (h : reaches s m .datum 0x040 = true)
    (hl : levelOk s (datKey 0x040) = true) (hf : stagingFull s = false) (hen : rdb s (datKey 0x040) 0 = false)
    (hv : bit v 0 = true) (hst : s.datum.st = .off) :
    ∃ t, exec (.datumEnable m v) s = .next t ∧ t.datum.st = .acquire ∧ t.datum.base = 0 ∧ t.datum.since = s.now := by
  have hl' : levelOk (countedWrite m .datum 0 0x040 s) (datKey 0x040) = true := by
    rw [levelOk, countedWrite, pmcAccess_pw]
    exact hl
  have hf' : stagingFull (countedWrite m .datum 0 0x040 s) = false := by
    rw [stagingFull, countedWrite, pmcAccess_valley, pmcAccess_fb]
    exact hf
  have hok : datumWriteOk (countedWrite m .datum 0 0x040 s) 0x040 v = true := by
    simp [datumWriteOk, rdb, rd_countedWrite_dat, show bit (rd s (datKey 0x040)) 0 = false from hen]
  obtain ⟨new, heff⟩ := rwlPath_accepted (m := m) (act := writeDatum 0x040 v) hl' hf'
  refine ⟨_, congrArg Host.Outcome.next (byBus_reaches h), ?_⟩
  rw [hok, heff]
  simp only [writeDatum, hv]
  have hstart := enableDatum_starts (s := plainWrite (datKey 0x040) v (bookRequested 1 (pageIndex (datKey 0x040))
    (keyOff (datKey 0x040)) (masterNo m) (rd (countedWrite m .datum 0 0x040 s) (datKey 0x040)) new
    { countedWrite m .datum 0 0x040 s with pw := { (countedWrite m .datum 0 0x040 s).pw with session :=
      (countedWrite m .datum 0 0x040 s).now } })) (by
    rw [plainWrite, wr_datum, bookRequested_datum, ← hst, ← countedWrite_datum m .datum 0 0x040 s])
  obtain ⟨h1, h2, h3⟩ := hstart
  refine ⟨h1, h2, h3.trans ?_⟩
  rw [plainWrite, wr_now, bookRequested_now]
  exact countedWrite_now _ _ _ _ _

/-! Exchanges (R358, R361, R362, R367) -/

/-- The end of an interval turns the record that the next foresight carries, and leaves the next interval's end as it is. -/
theorem exchange_interval (s : State) : (exchange s).datum.nextEx = s.datum.nextEx ∧
    (exchange s).datum.recSyn = !s.datum.recSyn := by
  unfold exchange
  extract_lets s1 s2 none' s3 s4 s5
  have h1 : s1.datum.nextEx = s.datum.nextEx ∧ s1.datum.recSyn = s.datum.recSyn :=
    ⟨(countAnswers_interval _ _).1.trans (countAnswers_interval _ _).1,
      (countAnswers_interval _ _).2.trans (countAnswers_interval _ _).2⟩
  have h4 : s4.datum.exchanges = s1.datum.exchanges := by
    unfold s4
    rw [clearClosure_exchanges, datumTable_exchanges]
    exact takeSource_exchanges s1
  have h5 : s5.datum.nextEx = s4.datum.nextEx ∧ s5.datum.recSyn = s4.datum.recSyn :=
    ⟨(sendForesight_interval _ _).1.trans (sendForesight_interval _ _).1,
      (sendForesight_interval _ _).2.trans (sendForesight_interval _ _).2⟩
  obtain ⟨hn, hr⟩ := interval_of_exchanges h4
  refine ⟨h5.1.trans (hn.trans h1.1), ?_⟩
  exact congrArg (! ·) (h5.2.trans (hr.trans h1.2))

theorem exchange_now (s : State) : (exchange s).now = s.now :=
  Part.same_of_op (p := .now) (by decide) (fun h => exchange_stays h) s

theorem exchangeInterval_completes {s : State} (hl : live s .ring = true) (hst : s.datum.st ≠ .off) :
    ∃ t, exec .exchangeInterval s = .next t ∧ t.datum.nextEx = nextDue s.datum.nextEx (exchInt s) t.now ∧
      t.datum.recSyn = !s.datum.recSyn ∧ s.datum.nextEx ≤ t.now := by
  refine ⟨_, congrArg Host.Outcome.next (if_neg (by simp [hl, hst])), ?_⟩
  dsimp only
  rw [(exchange_interval _).1, (exchange_interval _).2, exchange_now]
  exact ⟨rfl, rfl, le_upto_now _ s⟩

theorem takeInbox_datum (r kind : Nat) (s : State) : (takeInbox r kind s).2.datum = s.datum := rfl

theorem offsetOf_rings (r : Nat) (o : Int) (s : State) : (offsetOf r o s).rings = s.rings :=
  Part.same_of_op (p := .rings) (by decide) (fun h => offsetOf_stays h r o) s

theorem takeSource_rings (s : State) : (takeSource s).rings = s.rings :=
  Part.same_of_op (p := .rings) (by decide) (fun h => takeSource_stays h) s

theorem adoptCycle_rings (c : CycRec) (s : State) : (adoptCycle c s).rings = s.rings :=
  Part.same_of_op (p := .rings) (by decide) (fun h => adoptCycle_stays h c) s

theorem hearSyn_rings (y : SynRec) (s : State) : (hearSyn y s).rings = s.rings :=
  Part.same_of_op (p := .rings) (by decide) (fun h => hearSyn_stays h y) s

theorem raiseDat_rings (k : Nat) (s : State) : (raiseDat k s).rings = s.rings := raise_rings _ _ _ _

theorem onSide_rings (r : Nat) (f : Side → Side) (s : State) : (onSide r f s).rings = s.rings := by
  unfold onSide
  split <;> rfl

theorem sendDatum_inbox (r : Nat) (mk : Nat → List Byte) (s : State) : (sendDatum r mk s).2.rings.inbox = s.rings.inbox := by
  unfold sendDatum onLink
  dsimp only
  split <;> rfl

/-- A foresight is held as it came, with its arrival; cells that wait go on waiting. -/
theorem foresight_heard {r : Nat} {d : DatumIn} {s : State} (hbad : d.bad = false) (hst : s.datum.st ≠ .off) :
    (side (foresight r d s) r).fs = some (parseForesight d.bytes) ∧ (side (foresight r d s) r).fsAt = d.when' ∧
      (foresight r d s).rings.inbox = s.rings.inbox := by
  unfold foresight
  rw [if_neg (by simp [hbad, hst])]
  extract_lets f now spur s1 s2 oneway turn s3 s4 s5 s6 s7 back s8 decl
  have h1 : (side s1 r).fs = some f ∧ (side s1 r).fsAt = d.when' := by
    unfold s1
    rw [side_onSide_same]
    exact ⟨rfl, rfl⟩
  have h2 : side s2 r = side s1 r := by
    unfold s2
    split <;> rfl
  have h3 : (side s3 r).fs = (side s2 r).fs ∧ (side s3 r).fsAt = (side s2 r).fsAt := by
    unfold s3
    rw [side_onSide_same]
    exact ⟨rfl, rfl⟩
  have h4 : s4.datum = s3.datum := by
    unfold s4
    split
    · exact raiseDat_datum _ _
    · rfl
  have h6 : s6.datum.exchanges = s5.datum.exchanges := by
    unfold s6
    split
    · split
      · exact adoptCycle_exchanges _ _
      · rfl
    · rfl
  have h7 : s7.datum.exchanges = s6.datum.exchanges := by
    unfold s7
    split
    · exact hearSyn_exchanges _ _
    · rfl
  have h8 : s8.datum = s7.datum := sendDatum_datum _ _ _
  have hside : side s8 r = side s3 r := side_of_exchanges (by
    rw [h8, h7, h6, ← h4]
    exact takeSource_exchanges s4) r
  have hrings : s8.rings.inbox = s.rings.inbox := by
    have e4 : s4.rings = s.rings := by
      have e2 : s2.rings = s.rings := by
        refine Eq.trans ?_ (onSide_rings r (fun x => { x with fs := some f, fsAt := d.when' }) s)
        unfold s2
        split <;> rfl
      have e3 : s3.rings = s2.rings := onSide_rings _ _ _
      rw [← e2, ← e3]
      unfold s4
      split
      · exact raiseDat_rings _ _
      · rfl
    have e6 : s6.rings = s5.rings := by
      unfold s6
      split
      · split
        · exact adoptCycle_rings _ _
        · rfl
      · rfl
    have e7 : s7.rings = s6.rings := by
      unfold s7
      split
      · exact hearSyn_rings _ _
      · rfl
    have e5 : s5.rings = s4.rings := takeSource_rings s4
    rw [← e4, ← e5, ← e6, ← e7]
    exact sendDatum_inbox _ _ _
  have hend : (side s8 r).fs = some f ∧ (side s8 r).fsAt = d.when' := by
    rw [hside, h3.1, h3.2, h2]
    exact h1
  split
  · rw [side_of_exchanges (offsetOf_exchanges _ _ _) r, offsetOf_rings]
    exact ⟨hend.1, hend.2, hrings⟩
  · exact ⟨hend.1, hend.2, hrings⟩

theorem foresightReceived_completes {r : Fin 2} {s : State} {d : DatumIn} (hd : (takeInbox r 1 s).1 = some d)
    (hbad : d.bad = false) (hst : s.datum.st ≠ .off) :
    ∃ t, exec (.foresightReceived r) s = .next t ∧ (side t r).fs = some (parseForesight d.bytes) ∧
      (side t r).fsAt = d.when' ∧ t.rings.inbox = (takeInbox r 1 s).2.rings.inbox := by
  refine ⟨_, rfl, ?_⟩
  rw [show takeInbox r 1 s = (some d, (takeInbox r 1 s).2) from Prod.ext hd rfl]
  exact foresight_heard hbad hst

section Accepted

variable {r : Nat} {s : State} {d : DatumIn} {e : Nat × Nat × Nat × Nat} (hbad : d.bad = false) (hst : s.datum.st ≠ .off)
  (hsent : ((side s r).sent.find? fun e => e.1 = beAt d.bytes 6 2) = some e) (hsoc : d.soc ≤ e.2.2.1 + 4 * msec)
  (hbreaks : e.2.2.2 = d.breaks)
  (hrt : 0 < stampSpan e.2.1 d.stamp - stampSpan (stampField d.bytes 28) (stampField d.bytes 8)) (hacc : (side s r).acc < 8)
include hbad hst hsent hsoc hbreaks hrt hacc

/-- An exchange in time, over a path that stood, is accepted: the side is answered, the exchange is counted, and its offset is
judged (R361, R362). -/
theorem backsight_eq : ∃ o w f, backsight r d s =
    offsetOf r o (wr (datKey (0x09C + 4 * r)) w (incMod (datKey 0x0B4) 0 16 (onSide r f s))) ∧
    ∀ x, (f x).answered = true ∧ (f x).acc = min 8 (x.acc + 1) := by
  obtain ⟨x, t1, sent, brk⟩ := e
  unfold backsight
  rw [if_neg hst]
  dsimp only at hsoc hbreaks hrt ⊢
  rw [hsent]
  dsimp only
  rw [if_neg (by
    simp only [hbad, hbreaks, Bool.false_or, Bool.or_eq_true, decide_eq_true_eq, ne_eq, not_true_eq_false, decide_false,
      Bool.or_false]
    omega)]
  exact ⟨_, _, _, rfl, fun _ => ⟨rfl, rfl⟩⟩

theorem backsight_accepts (hr : r < 2) : (side (backsight r d s) r).answered = true ∧
    (side (backsight r d s) r).acc = (side s r).acc + 1 ∧
    rdf (backsight r d s) (datKey 0x0B4) 0 16 = (rdf s (datKey 0x0B4) 0 16 + 1) % 65536 := by
  obtain ⟨o, w, f, heq, hf⟩ := backsight_eq hbad hst hsent hsoc hbreaks hrt hacc
  have hside : side (backsight r d s) r = f (side s r) := by
    rw [heq, side_of_exchanges (offsetOf_exchanges _ _ _) r]
    exact side_onSide_same r f s
  have hreg : rd (onSide r f s) (datKey 0x0B4) = rd s (datKey 0x0B4) := by
    unfold onSide
    split <;> rfl
  have hkey : datKey 0x0B4 ≠ datKey (0x09C + 4 * r) := fun h => by
    have := datKey_inj.mp h
    omega
  rw [hside, (hf _).1, (hf _).2]
  refine ⟨rfl, Nat.min_eq_right (by omega), ?_⟩
  rw [heq, rdf, rd_offsetOf (by decide) (by decide) (by decide) (by decide), rd_wr_ne _ _ hkey, ← rdf, incMod,
    rdf_wrf_same _ _ _ _ _ (by decide), rdf, hreg]
  rfl

end Accepted

theorem backsightReceived_completes {r : Fin 2} {s : State} {d : DatumIn} {e : Nat × Nat × Nat × Nat}
    (hd : (takeInbox r 2 s).1 = some d) (hbad : d.bad = false) (hst : s.datum.st ≠ .off)
    (hsent : ((side s r).sent.find? fun e => e.1 = beAt d.bytes 6 2) = some e) (hsoc : d.soc ≤ e.2.2.1 + 4 * msec)
    (hbreaks : e.2.2.2 = d.breaks)
    (hrt : 0 < stampSpan e.2.1 d.stamp - stampSpan (stampField d.bytes 28) (stampField d.bytes 8))
    (hacc : (side s r).acc < 8) :
    ∃ t, exec (.backsightReceived r) s = .next t ∧ (side t r).answered = true ∧ (side t r).acc = (side s r).acc + 1 ∧
      rdf t (datKey 0x0B4) 0 16 = (rdf s (datKey 0x0B4) 0 16 + 1) % 65536 := by
  refine ⟨_, rfl, ?_⟩
  rw [show takeInbox r 2 s = (some d, (takeInbox r 2 s).2) from Prod.ext hd rfl]
  exact backsight_accepts (s := (takeInbox r 2 s).2) hbad hst hsent hsoc hbreaks hrt hacc r.isLt

/-! The election, and the commands of CTL (R355 to R357, R367) -/

theorem becomeBenchmark_now (s : State) : (becomeBenchmark s).now = s.now :=
  Part.same_of_op (p := .now) (by decide) (fun h => becomeBenchmark_stays h) s

theorem electionTimeout_completes {s : State} (hl : live s .ring = true) (hst : s.datum.st ≠ .off)
    (hbm : s.datum.st ≠ .benchmark) (hrank : nodeRank s ≠ 0) :
    ∃ t, exec .electionTimeout s = .next t ∧ t.datum.st = .benchmark ∧ t.datum.hops = 0 ∧ t.datum.source = 0 ∧
      s.datum.bmAt + max 1 (rdf s (datKey 0x040) 16 16) * msec ≤ t.now := by
  refine ⟨_, congrArg Host.Outcome.next (if_neg (by simp [hl, hst, hbm, hrank])), ?_⟩
  obtain ⟨h1, h2, h3, -⟩ := becomeBenchmark_datum
    (s := upto (s.datum.bmAt + max 1 (rdf s (datKey 0x040) 16 16) * msec) s) hbm
  rw [becomeBenchmark_now]
  exact ⟨h1, h2, h3, le_upto_now _ s⟩

section Ctl

variable {m : Master} {s : State} (h : reaches s m .datum 0x07C = true)
include h

theorem cycChg_completes {c : CycRec} {d : Nat} (hst : s.datum.st = .benchmark) (hc : s.datum.cyc = some c) (hnext : c.nextLen = 0)
    (hlo : 160000 ≤ (rd s (datKey 0x068)).toNat) (hhi : (rd s (datKey 0x068)).toNat ≤ 16000000)
    (hd : untilCycle s (rd s (datKey 0x06C)).toNat = some d) (hfar : 1600000000 ≤ d) :
    ∃ t, exec (.cycChg m) s = .next t ∧
      t.datum.cyc = some { c with nextLen := (rd s (datKey 0x068)).toNat, nextAt := (rd s (datKey 0x06C)).toNat } := by
  refine ⟨_, congrArg Host.Outcome.next (byBus_reaches h), ?_⟩
  have hu : ∀ k, untilCycle (countedWrite m .datum 0 0x07C s) k = untilCycle s k :=
    untilCycle_congr (countedWrite_datum _ _ _ _ _) (countedWrite_now _ _ _ _ _)
  simp [writeDatumCtl, bit, hu, rd_countedWrite_dat, hst, hc, hnext, hlo, hhi, hd, hfar, onDatum]

theorem setTime_completes (hst : s.datum.st = .benchmark)
    (hle : datumNow s ≤ (rd s (datKey 0x074)).toNat + (rd s (datKey 0x078)).toNat * 2 ^ 32) :
    ∃ t, exec (.setTime m) s = .next t ∧ t.datum.since = s.now ∧
      t.datum.base = ((rd s (datKey 0x074)).toNat + (rd s (datKey 0x078)).toNat * 2 ^ 32) * 65536 ∧
      rdb t (datKey 0x010) 2 = true := by
  refine ⟨_, congrArg Host.Outcome.next (byBus_reaches h), ?_⟩
  have hnow : datumNow (countedWrite m .datum 0 0x07C s) = datumNow s :=
    datumNow_congr (countedWrite_datum _ _ _ _ _) (countedWrite_now _ _ _ _ _)
  have hctl : writeDatumCtl 2 (countedWrite m .datum 0 0x07C s) =
      makeChange ((rd s (datKey 0x074)).toNat + (rd s (datKey 0x078)).toNat * 2 ^ 32) (raiseDat 2 (setStamp
        (((rd s (datKey 0x074)).toNat + (rd s (datKey 0x078)).toNat * 2 ^ 32) * 65536) (countedWrite m .datum 0 0x07C s))) := by
    have hb : (true && decide (datumNow s ≤ (rd s (datKey 0x074)).toNat + (rd s (datKey 0x078)).toNat * 2 ^ 32)) = true := by
      simpa using hle
    simp only [writeDatumCtl, show bit 2 0 = false from rfl, show bit 2 1 = true from rfl, show bit 2 2 = false from rfl,
      rd_countedWrite_dat (show 0x074 < 0x1000 by decide), rd_countedWrite_dat (show 0x078 < 0x1000 by decide),
      countedWrite_datum, hst, hnow, decide_true, hb, Bool.not_false, Bool.not_true, Bool.false_and, Bool.false_eq_true, if_true,
      if_false]
  rw [hctl]
  obtain ⟨c, hc⟩ := makeChange_datum ((rd s (datKey 0x074)).toNat + (rd s (datKey 0x078)).toNat * 2 ^ 32) (raiseDat 2 (setStamp
    (((rd s (datKey 0x074)).toNat + (rd s (datKey 0x078)).toNat * 2 ^ 32) * 65536) (countedWrite m .datum 0 0x07C s)))
  rw [raiseDat_datum, setStamp_datum] at hc
  refine ⟨(congrArg Datum.since hc).trans (countedWrite_now _ _ _ _ _), congrArg Datum.base hc, ?_⟩
  exact (rdb_makeChange (by decide) (by decide) _ _).trans (rdb_raiseDat _ (by decide))

theorem resync_completes (hst : s.datum.st = .track) :
    ∃ t, exec (.resync m) s = .next t ∧ t.datum.st = .acquire ∧ t.datum.good = 0 := by
  have hctl : writeDatumCtl 4 (countedWrite m .datum 0 0x07C s) = datumTo .acquire (countedWrite m .datum 0 0x07C s) := by
    simp [writeDatumCtl, bit, hst]
  refine ⟨_, congrArg Host.Outcome.next (byBus_reaches h), ?_⟩
  rw [hctl]
  obtain ⟨v, hv⟩ := datumTo_datum (s := countedWrite m .datum 0 0x07C s) (st := .acquire)
    (by rw [countedWrite_datum, hst]; decide) (by decide)
  exact ⟨congrArg Datum.st hv, congrArg Datum.good hv⟩

end Ctl

/-! A read of the time (R378) -/

theorem timeLoRead_completes {m : Master} {s : State} (h : pageUp s .datum 0x084 = true) :
    ∃ t, exec (.timeLoRead m) s = .next t ∧ t.bus.rdata = wNat (datumNow s) ∧ t.bus.err = false ∧
      rd t (datKey 0x088) = wNat (datumNow s / 2 ^ 32) := by
  refine ⟨_, congrArg Host.Outcome.next (readAt_up h), ?_⟩
  have hnow : datumNow (countedRead m .datum 0 0x084 s) = datumNow s :=
    datumNow_congr (pmcAccess_datum _ _ _ _ s) (pmcAccess_now _ _ _ _ s)
  simp only [hnow]
  refine ⟨rfl, rfl, ?_⟩
  exact rd_wr_same _ _ _

/-- Settles O21: each clause is the lemma of its command. -/
theorem datumCompletes : Obligations.DatumCompletes := by
  unfold Obligations.DatumCompletes
  exact ⟨fun _ _ _ => datumEnable_completes, fun _ => exchangeInterval_completes, fun _ _ _ => foresightReceived_completes,
    fun _ _ _ _ => backsightReceived_completes, fun _ => electionTimeout_completes, fun _ _ _ _ h => cycChg_completes h,
    fun _ _ h => setTime_completes h, fun _ _ h => resync_completes h, fun _ _ => timeLoRead_completes⟩

end Sys2Proof.Machine
end

section
/-! Writes of Plumb's page, and the password machine (R405 to R408, R566). -/

set_option Elab.async false

namespace Sys2Proof.Machine

/-! Writes -/

@[simp] theorem countedWrite_pw (m : Master) (t : PageType) (n off : Nat) (s : State) : (countedWrite m t n off s).pw = s.pw :=
  pmcAccess_pw _ _ _ _ s

@[simp] theorem countedWrite_plumb (m : Master) (t : PageType) (n off : Nat) (s : State) :
    (countedWrite m t n off s).plumb = s.plumb := pmcAccess_plumb _ _ _ _ s

@[simp] theorem countedWrite_fb (m : Master) (t : PageType) (n off : Nat) (s : State) : (countedWrite m t n off s).fb = s.fb :=
  pmcAccess_fb _ _ _ _ s

@[simp] theorem countedWrite_pwr (m : Master) (t : PageType) (n off : Nat) (s : State) : (countedWrite m t n off s).pwr = s.pwr :=
  pmcAccess_pwr _ _ _ _ s

@[simp] theorem stagingFull_countedWrite (m : Master) (t : PageType) (n off : Nat) (s : State) :
    stagingFull (countedWrite m t n off s) = stagingFull s := by
  rw [stagingFull, countedWrite, pmcAccess_valley, pmcAccess_fb]
  rfl

@[simp] theorem levelOk_countedWrite (m : Master) (t : PageType) (n off : Nat) (s : State) (k : Nat) :
    levelOk (countedWrite m t n off s) k = levelOk s k := by
  rw [levelOk, countedWrite_pw]
  rfl

theorem heldBehind_countedWrite (m m' : Master) (t : PageType) (n off : Nat) (pch : Bool) (s : State) :
    heldBehind (countedWrite m t n off s) m' pch = heldBehind s m' pch := by
  rw [heldBehind, countedWrite_plumb]
  rfl

/-- A write command of Plumb's page, behind no guarded write of its master, has its effect in the state with it counted. -/
theorem plumbBus_reaches {m : Master} {off : Nat} {v : Word} {act : State → State} {s : State}
    (h : reaches s m .plumb off = true) (hh : heldBehind s m false = false) :
    plumbBus m off v act s = busCycle (act (countedWrite m .plumb 0 off s)) := by
  refine (byBus_reaches h).trans (congrArg busCycle ?_)
  rw [inOrder, heldBehind_countedWrite, hh]
  rfl

@[simp] theorem raisePl_pw (k : Nat) (s : State) : (raisePl k s).pw = s.pw := raise_pw _ _ _ _

@[simp] theorem raisePl_plumb (k : Nat) (s : State) : (raisePl k s).plumb = s.plumb := raise_plumb _ _ _ _

@[simp] theorem raisePl_fb (k : Nat) (s : State) : (raisePl k s).fb = s.fb := raise_fb _ _ _ _

@[simp] theorem raisePl_now (k : Nat) (s : State) : (raisePl k s).now = s.now := raise_now _ _ _ _

theorem rdb_raisePl (s : State) {k : Nat} (hk : k < 32) : rdb (raisePl k s) (rk .plumb 0 0x010) k = true :=
  rdb_raise _ _ _ _ hk (by decide)

/-! Unlocks -/

/-- A password command clears PW_DATA. -/
theorem pwCommand_pw (m : Master) (cmd len : Nat) (s : State) :
    (pwCommand m cmd len s).pw = { (pwAct m cmd len s).pw with data := [] } := rfl

theorem rdb_pwCommand (m : Master) (cmd len : Nat) (s : State) (k b : Nat) :
    rdb (pwCommand m cmd len s) k b = rdb (pwAct m cmd len s) k b := rfl

theorem pwHash_congr {s t : State} (h : t.pw = s.pw) (len : Nat) : pwHash t len = pwHash s len := by
  rw [pwHash, pwBytes, h]
  rfl

theorem passwordBus_reaches {m : Master} {s : State} (h : reaches s m .plumb 0x114 = true) (hh : heldBehind s m false = false)
    (cmd len : Nat) : passwordBus m cmd len s = busCycle (pwCommand m cmd len (countedWrite m .plumb 0 0x114 s)) :=
  plumbBus_reaches h hh

theorem unlockFails_counts (m : Master) {s : State} (hf : s.pw.fails + 1 < 5) :
    (unlockFails m s).pw = { s.pw with fails := s.pw.fails + 1 } := by
  unfold unlockFails
  dsimp only
  rw [if_pos (by rwa [raisePl_pw, bookRequested_pw])]
  simp [onPw]

/-- The fifth failure locks the machine out (R406). -/
theorem unlockFails_locks (m : Master) {s : State} (hf : s.pw.fails = 4) :
    (unlockFails m s).pw = { s.pw with fails := 0, lockouts := s.pw.lockouts + 1, lockout := true,
                                       lockEnd := s.now + lockoutTime (s.pw.lockouts + 1), level := 0 } := by
  unfold unlockFails
  dsimp only
  rw [if_neg (by rw [raisePl_pw, bookRequested_pw, hf]; decide)]
  simp [onPw]

theorem unlockTo_pw (m : Master) (l : Nat) (s : State) :
    (unlockTo m l s).pw = { s.pw with level := l, fails := 0, lockouts := 0, session := s.now } := by
  unfold unlockTo
  simp [onPw]

/-- The length of a password is legal (R406). -/
theorem legalLength {n : Nat} (h8 : 8 ≤ n) (h32 : n ≤ 32) : decide (8 ≤ n ∧ n ≤ 32) = true := decide_eq_true ⟨h8, h32⟩

theorem pwAct_site (m : Master) {len : Nat} {s : State} {h : List Word} (hf : stagingFull s = false) (hl : s.pw.lockout = false)
    (h8 : 8 ≤ len) (h32 : len ≤ 32) (hs : s.pw.siteHash = some h) :
    pwAct m 1 len s = if pwHash s len = h then unlockTo m 1 s else unlockFails m s := by
  simp only [pwAct, hf, hl, legalLength h8 h32, hs, Bool.not_true, Bool.or_self, Bool.false_eq_true, if_false]

theorem pwAct_maker (m : Master) {len : Nat} {s : State} {h : List Word} (hf : stagingFull s = false)
    (hl : s.pw.lockout = false) (h8 : 8 ≤ len) (h32 : len ≤ 32) (hs : s.pw.makerHash = some h) :
    pwAct m 2 len s = if pwHash s len = h then unlockTo m 2 s else unlockFails m s := by
  simp only [pwAct, hf, hl, legalLength h8 h32, hs, Bool.not_true, Bool.or_self, Bool.false_eq_true, if_false]

theorem pwAct_newMaker (m : Master) {s : State} (hf : stagingFull s = false) (hl : s.pw.lockout = false)
    (hs : s.pw.makerHash = none) : pwAct m 2 0 s = unlockTo m 2 s := by
  simp [pwAct, hf, hl, hs]

theorem pwAct_refused_site (m : Master) (len : Nat) {s : State} (h : s.pw.lockout = true ∨ s.pw.siteHash = none) :
    pwAct m 1 len s = raisePl 10 s := by
  rcases h with h | h <;> simp [pwAct, h]

theorem pwAct_refused_maker (m : Master) (len : Nat) {s : State} (h : s.pw.lockout = true) : pwAct m 2 len s = raisePl 10 s := by
  cases hs : s.pw.makerHash <;> simp [pwAct, h, hs]

section Unlocks

variable {m : Master} {s : State} (h : reaches s m .plumb 0x114 = true) (hh : heldBehind s m false = false)
include h hh

/-- An unlock that is refused keeps all of the password machine but PW_DATA. -/
theorem unlock_refused {cmd len : Nat} (hact : pwAct m cmd len (countedWrite m .plumb 0 0x114 s) =
    raisePl 10 (countedWrite m .plumb 0 0x114 s)) : (passwordBus m cmd len s).pw = { s.pw with data := [] } ∧
    rdb (passwordBus m cmd len s) (rk .plumb 0 0x010) 10 = true := by
  rw [passwordBus_reaches h hh, busCycle_pw, pwCommand_pw, hact, raisePl_pw, countedWrite_pw]
  refine ⟨rfl, ?_⟩
  rw [rdb, rd_busCycle, ← rdb, rdb_pwCommand, hact]
  exact rdb_raisePl _ (by decide)

theorem wrongSite_completes {len : BitVec 6} {hash : List Word} (hf : stagingFull s = false) (hl : s.pw.lockout = false)
    (h8 : 8 ≤ len.toNat) (h32 : len.toNat ≤ 32) (hs : s.pw.siteHash = some hash) (hne : pwHash s len.toNat ≠ hash)
    (hfails : s.pw.fails + 1 < 5) :
    ∃ t, exec (.unlockSite m len) s = .next t ∧ t.pw.fails = s.pw.fails + 1 ∧ t.pw.level = s.pw.level ∧
      t.pw.lockout = false ∧ t.pw.data = [] := by
  refine ⟨_, congrArg Host.Outcome.next (passwordBus_reaches h hh _ _), ?_⟩
  rw [busCycle_pw, pwCommand_pw, pwAct_site m (by simpa using hf) (by simpa using hl) h8 h32 (by simpa using hs),
    if_neg (by rwa [pwHash_congr (countedWrite_pw _ _ _ _ _)]), unlockFails_counts m (by simpa using hfails), countedWrite_pw]
  exact ⟨rfl, rfl, hl, rfl⟩

theorem fifthFailure_completes {len : BitVec 6} {hash : List Word} (hf : stagingFull s = false) (hl : s.pw.lockout = false)
    (h8 : 8 ≤ len.toNat) (h32 : len.toNat ≤ 32) (hs : s.pw.makerHash = some hash) (hne : pwHash s len.toNat ≠ hash)
    (hfails : s.pw.fails = 4) :
    ∃ t, exec (.unlockMaker m len) s = .next t ∧ t.pw.lockout = true ∧ t.pw.level = 0 ∧ t.pw.fails = 0 ∧
      t.pw.lockouts = s.pw.lockouts + 1 ∧ t.pw.data = [] ∧
      t.pw.lockEnd = s.now + min 1440 (15 * 2 ^ s.pw.lockouts) * 60 * 50000000000 := by
  refine ⟨_, congrArg Host.Outcome.next (passwordBus_reaches h hh _ _), ?_⟩
  rw [busCycle_pw, pwCommand_pw, pwAct_maker m (by simpa using hf) (by simpa using hl) h8 h32 (by simpa using hs),
    if_neg (by rwa [pwHash_congr (countedWrite_pw _ _ _ _ _)]), unlockFails_locks m (by simpa using hfails), countedWrite_pw,
    countedWrite_now]
  exact ⟨rfl, rfl, rfl, rfl, rfl, rfl⟩

theorem lockedOut_completes (hl : s.pw.lockout = true) {cmd len : Nat} (hcmd : cmd = 1 ∨ cmd = 2) {t : State}
    (ht : t = passwordBus m cmd len s) : t.pw.lockout = true ∧ t.pw.level = s.pw.level ∧ t.pw.fails = s.pw.fails ∧
      t.pw.lockEnd = s.pw.lockEnd ∧ t.pw.data = [] ∧ rdb t (rk .plumb 0 0x010) 10 = true := by
  have hact : pwAct m cmd len (countedWrite m .plumb 0 0x114 s) = raisePl 10 (countedWrite m .plumb 0 0x114 s) := by
    rcases hcmd with rfl | rfl
    · exact pwAct_refused_site m len (.inl (by simpa using hl))
    · exact pwAct_refused_maker m len (by simpa using hl)
  obtain ⟨hpw, hraised⟩ := unlock_refused h hh hact
  rw [ht, hpw]
  exact ⟨hl, rfl, rfl, rfl, rfl, hraised⟩

end Unlocks

/-- Settles O41: each clause is the lemma of its command. -/
theorem failedUnlocksLockOut : Obligations.FailedUnlocksLockOut := by
  unfold Obligations.FailedUnlocksLockOut
  exact ⟨fun _ _ _ _ h hh => wrongSite_completes h hh, fun _ _ _ _ h hh => fifthFailure_completes h hh,
    fun _ _ _ h hh hl => ⟨_, rfl, lockedOut_completes h hh hl (.inl rfl) rfl⟩,
    fun _ _ _ h hh hl => ⟨_, rfl, lockedOut_completes h hh hl (.inr rfl) rfl⟩⟩

/-! The bit DEFAULT of PW_STAT (R407) -/

/-- A new device at a level that does not exist: level 8 overflows the field of the level in PW_STAT into DEFAULT. -/
def overfullLevel : State := { runningBlock with pw := { runningBlock.pw with level := 8 } }

/-- Refutes O42: nothing in the statement keeps the level within 0 to 2, and at level 8 DEFAULT reads 0 though no maker password is
set. -/
theorem not_emptyMakerPassword : ¬ Obligations.EmptyMakerPassword := by
  unfold Obligations.EmptyMakerPassword
  rintro ⟨hnew, -⟩
  obtain ⟨t, -, -, hdefault, -⟩ := hnew .debug overfullLevel (by decide +kernel) rfl (by decide +kernel) rfl rfl
  exact absurd hdefault (by decide +kernel)

/-! Guarded registers (R405, R408, R566) -/

theorem rwlPath_denied {m : Master} {k : Nat} {ok : Bool} {act : State → State} {s : State} (hl : levelOk s k = false) :
    rwlPath m k ok act s = deny k s := by
  rw [rwlPath, rwlPathBy, hl]
  rfl

theorem rwlPath_full {m : Master} {k : Nat} {ok : Bool} {act : State → State} {s : State} (hl : levelOk s k = true)
    (hf : stagingFull s = true) : rwlPath m k ok act s = refuseKey k s := by
  rw [rwlPath, rwlPathBy, hl, hf]
  rfl

theorem levelOk_locked {s : State} (h : s.pw.lockout = true ∨ s.pw.level = 0) (k : Nat) : levelOk s k = false := by
  rcases h with h | h
  · rw [levelOk, h]
    rfl
  · rw [levelOk, h]
    split <;> simp

/-- Of a page, whatever its kind, all offsets that the staged pair may not write are reached alike. -/
theorem reaches_unstaged {m : Master} {t : PageType} {a b : Nat} {s : State} (ht : t ≠ .dbg) (h : reaches s m t a = true)
    (hs : stagedMay t b = stagedMay t a) : reaches s m t b = true := by
  rw [reaches, hs, pageUp_off ht s b a]
  exact h

theorem held_eq_min (cap n : Nat) : held cap n = min cap n := by
  unfold held
  split <;> omega

/-- A write denied is counted: this much of a denial is the same on every page. -/
def countDenied (s : State) : State := { s with pw := { s.pw with denied := held 255 (s.pw.denied + 1) } }

theorem keyPage_rk (t : PageType) (n : Nat) {off : Nat} (h : off < 0x1000) : keyPage (rk t n off) = pageOf (pageFirst t + n) := by
  rw [keyPage, rk]
  congr 1
  omega

/-- Of SYS and of the meters, a denied write is counted and has no other effect. -/
theorem deny_sys {off : Nat} (hoff : off < 0x1000) (s : State) : deny (sysKey off) s = countDenied s := by
  rw [deny, sysKey, keyPage_rk _ _ hoff]
  rfl

theorem deny_mtr {p off : Nat} (hp : p < 4) (hoff : off < 0x1000) (s : State) : deny (mtrKey p off) s = countDenied s := by
  have hpage : keyPage (mtrKey p off) = some (.mtr, p) := by
    rw [mtrKey, keyPage_rk _ _ hoff]
    interval_cases p <;> rfl
  rw [deny, hpage]
  rfl

/-- On the EVR page it raises REFUSED as well. -/
theorem deny_evr {off : Nat} (hoff : off < 0x1000) (s : State) : deny (rk .evr 0 off) s = raise .evr 0 6 (countDenied s) := by
  rw [deny, keyPage_rk _ _ hoff]
  rfl

theorem countDenied_denied (s : State) : (countDenied s).pw.denied = min 255 (s.pw.denied + 1) := held_eq_min _ _

theorem refuseKey_sys {off : Nat} (hoff : off < 0x1000) (s : State) : refuseKey (sysKey off) s = raise .sys 0 3 s := by
  rw [refuseKey, sysKey, keyPage_rk _ _ hoff]
  rfl

theorem pdCtlDenied_completes {m : Master} {v : BitVec 16} {s : State} (h : reaches s m .sys 0x040 = true)
    (hl : s.pw.lockout = true ∨ s.pw.level = 0) :
    ∃ t, exec (.pdCtlWrite m v) s = .next t ∧ t.regs = (countedWrite m .sys 0 0x040 s).regs ∧ t.pwr = s.pwr ∧ t.fb = s.fb ∧
      t.pw.denied = min 255 (s.pw.denied + 1) := by
  have hdeny : writeSys m 0x040 (wNat v.toNat) (countedWrite m .sys 0 0x040 s) = countDenied (countedWrite m .sys 0 0x040 s) := by
    rw [writeSys, if_pos rfl, rwlPath_denied (by rw [levelOk_countedWrite, levelOk_locked hl]), deny_sys (by decide)]
  refine ⟨_, congrArg Host.Outcome.next (byBus_reaches h), ?_⟩
  rw [hdeny]
  refine ⟨rfl, countedWrite_pwr _ _ _ _ _, countedWrite_fb _ _ _ _ _, ?_⟩
  rw [busCycle_pw, countDenied_denied, countedWrite_pw]

theorem deadlineDenied_completes {m : Master} {i : Fin 3} {v : BitVec 16} {s : State} (h : reaches s m .evr 0x040 = true)
    (hl : s.pw.lockout = true ∨ s.pw.level = 0) :
    ∃ t, exec (.deadlineWrite m i v) s = .next t ∧ rd t (rk .evr 0 (0x040 + 4 * i)) = rd s (rk .evr 0 (0x040 + 4 * i)) ∧
      t.fb = s.fb ∧ t.pw.denied = min 255 (s.pw.denied + 1) ∧ rdb t (rk .evr 0 0x010) 6 = true := by
  have hi := i.isLt
  have hoff : 0x040 + 4 * i.val < 0x1000 := by omega
  have hreach : reaches s m .evr (0x040 + 4 * i) = true := reaches_unstaged (by decide) h (by
    have hlow : ¬ 0x400 ≤ 0x040 + 4 * i.val := by omega
    simp [stagedMay, hlow])
  refine ⟨_, congrArg Host.Outcome.next (byBus_reaches hreach), ?_⟩
  rw [rwlPath_denied (by rw [levelOk_countedWrite, levelOk_locked hl]), deny_evr hoff]
  have hkey : ¬ mergeKey (rk .evr 0 (0x040 + 4 * i.val)) := by
    simp only [mergeKey, rk, pageFirst]
    omega
  refine ⟨?_, ?_, ?_, ?_⟩
  · rw [rd_busCycle, rd_raise _ (fun he => hkey (.inl he)) hkey]
    have hcount : ¬ countOff (rk .evr 0 (0x040 + 4 * i.val) % 0x1000) := by
      simp only [countOff, rk, pageFirst]
      omega
    exact rd_countedWrite_off hcount _ _ _ _ _
  · rw [busCycle_fb, raise_fb]
    exact countedWrite_fb _ _ _ _ _
  · rw [busCycle_pw, raise_pw, countDenied_denied, countedWrite_pw]
  · rw [rdb, rd_busCycle]
    exact rdb_raise _ _ _ _ (by decide) (by decide)

theorem presetDenied_completes {m : Master} {p : Fin 4} {s : State} (h : reaches s m .mtr 0x050 = true) (hl : s.pw.level < 2) :
    ∃ t, exec (.preset m p) s = .next t ∧ t.meters = s.meters ∧ t.fb = s.fb ∧ t.pw.denied = min 255 (s.pw.denied + 1) := by
  have hdeny : writeMtrCtl m p 4 (countedWrite m .mtr p 0x050 s) = countDenied (countedWrite m .mtr p 0x050 s) := by
    rw [← deny_mtr p.isLt (show 0x050 < 0x1000 by decide)]
    refine Eq.trans (b := if (countedWrite m .mtr p 0x050 s).pw.lockout || decide ((countedWrite m .mtr p 0x050 s).pw.level < 2)
      then deny (mtrKey p 0x050) (countedWrite m .mtr p 0x050 s) else _) rfl (if_pos ?_)
    rw [countedWrite_pw, decide_eq_true hl, Bool.or_true]
  refine ⟨_, congrArg Host.Outcome.next (byBus_reaches h), ?_⟩
  rw [hdeny]
  refine ⟨pmcAccess_meters _ _ _ _ s, countedWrite_fb _ _ _ _ _, ?_⟩
  rw [busCycle_pw, countDenied_denied, countedWrite_pw]

theorem pdCtlFull_completes {m : Master} {v : BitVec 16} {s : State} (h : reaches s m .sys 0x040 = true)
    (hlock : s.pw.lockout = false) (hlevel : s.pw.level ≠ 0) (hf : stagingFull s = true) :
    ∃ t, exec (.pdCtlWrite m v) s = .next t ∧ rd t (sysKey 0x040) = rd s (sysKey 0x040) ∧ t.pwr = s.pwr ∧ t.fb = s.fb ∧
      t.pw.denied = s.pw.denied ∧ rdb t (rk .sys 0 0x010) 3 = true := by
  have hl : levelOk s (sysKey 0x040) = true := by
    rw [levelOk, hlock, show makerOnly (sysKey 0x040) = false by decide]
    simp
    omega
  have hfull : writeSys m 0x040 (wNat v.toNat) (countedWrite m .sys 0 0x040 s) = raise .sys 0 3 (countedWrite m .sys 0 0x040 s) := by
    rw [writeSys, if_pos rfl, rwlPath_full (by rwa [levelOk_countedWrite]) (by rwa [stagingFull_countedWrite]),
      refuseKey_sys (by decide)]
  refine ⟨_, congrArg Host.Outcome.next (byBus_reaches h), ?_⟩
  rw [hfull]
  refine ⟨?_, ?_, ?_, ?_, ?_⟩
  · rw [rd_busCycle, rd_raise _ (by decide) (by simp only [mergeKey]; decide)]
    have hcount : ¬ countOff (sysKey 0x040 % 0x1000) := by
      unfold countOff
      decide
    exact rd_countedWrite_off hcount _ _ _ _ _
  · rw [busCycle_pwr, raise_pwr, countedWrite_pwr]
  · rw [busCycle_fb, raise_fb, countedWrite_fb]
  · rw [busCycle_pw, raise_pw, countedWrite_pw]
  · rw [rdb, rd_busCycle]
    exact rdb_raise _ _ _ _ (by decide) (by decide)

/-- Settles O43: each clause is the lemma of its command. -/
theorem guardedRegistersNeedALevel : Obligations.GuardedRegistersNeedALevel := by
  unfold Obligations.GuardedRegistersNeedALevel
  exact ⟨fun _ _ _ => pdCtlDenied_completes, fun _ _ _ _ => deadlineDenied_completes, fun _ _ _ => presetDenied_completes,
    fun _ _ _ => pdCtlFull_completes⟩

end Sys2Proof.Machine
end

section
/-! Statements about Plumb that do not hold: a condition of the model that the statement leaves out keeps the command from its
effect. -/

set_option Elab.async false

namespace Sys2Proof.Machine

/-- An entry of the field book. -/
def stagedEntry : FbEnt := { seq := 0, time := 0, kind := 1, flags := 0, page := 0, off := 0, master := 0, old := 0, new := 0 }

/-- Saddle mode is CLEARING and its clean time is over; an EXIT of a master has asked for NORMAL, and the staging buffer is full. -/
def exitWithoutRoom : State := { runningBlock with
  now := secs
  plumb := { runningBlock.plumb with saddle := .clearing, exitReq := true, asked := some (.debug, false), sadAt := secs }
  fb := { runningBlock.fb with staging := List.replicate 16 stagedEntry }
  regs := [(plKey 0x0F8, 1#32)] }

/-- Refutes O23: a return to NORMAL that a master asked for waits until its entry has room in the staging buffer (R408), so the clean
time can end with Saddle mode still CLEARING. -/
theorem not_inputsAndSaddleComplete : ¬ Obligations.InputsAndSaddleComplete := by
  unfold Obligations.InputsAndSaddleComplete
  rintro ⟨-, -, -, -, -, -, -, -, -, hclean⟩
  obtain ⟨t, ht, hnormal, -⟩ := hclean exitWithoutRoom rfl (by decide +kernel) (by decide +kernel) (.inr rfl)
  have hstays : ∃ t, exec .cleanTimeout exitWithoutRoom = .next t ∧ t.plumb.saddle = .clearing :=
    ⟨_, rfl, by decide +kernel⟩
  obtain ⟨u, hu, hclearing⟩ := hstays
  rw [ht] at hu
  cases hu
  exact absurd (hnormal.symm.trans hclearing) (by decide)

/-- Output 0 is enabled and open, and its readback has been high for longer than a switch-off takes. -/
def stuckOutput : State := { runningBlock with
  now := secs
  souts := [(0, { readback := true })]
  plumb := { runningBlock.plumb with active := 0, spo := false }
  regs := [(plKey 0x070, 1#32)] }

/-- Refutes O24: an open output whose readback stays high moves to FAULT as it is asked to close (R392). -/
theorem not_contactorsComplete : ¬ Obligations.ContactorsComplete := by
  unfold Obligations.ContactorsComplete
  rintro ⟨hclose, -⟩
  obtain ⟨t, ht, -, hst⟩ := hclose .debug 0 stuckOutput (by decide +kernel) rfl rfl (by decide +kernel) rfl (by decide +kernel)
    (by decide +kernel) (by decide +kernel)
  have hfault : ∃ t, exec (.soutClose .debug 0) stuckOutput = .next t ∧ (sout t 0).st = .fault := ⟨_, rfl, by decide +kernel⟩
  obtain ⟨u, hu, hstuck⟩ := hfault
  rw [ht] at hu
  cases hu
  rw [show ((0 : Fin 4) : Nat) = 0 from rfl, hstuck] at hst
  exact absurd hst (by decide)

/-- The oldest staged entry is that of a guarded write which Plumb's firmware has yet to make. -/
def openEntry : State := { runningBlock with
  plumb := { runningBlock.plumb with handed := [{ master := .debug, key := plKey 0x050, val := 0, seq := some 0 }] }
  fb := { runningBlock.fb with staging := [stagedEntry] } }

/-- Refutes O26: the entry of a guarded write stays in the staging buffer until the write has been made or refused (R566). -/
theorem not_passwordsComplete : ¬ Obligations.PasswordsComplete := by
  unfold Obligations.PasswordsComplete
  rintro ⟨-, -, -, -, -, -, -, -, -, hdrain, -⟩
  obtain ⟨t, ht, hempty, -⟩ := hdrain openEntry _ _ rfl (by decide +kernel) rfl
  have hstays : exec (.fbDrain true) openEntry = .next openEntry := rfl
  rw [ht] at hstays
  cases hstays
  exact absurd hempty (by decide)

end Sys2Proof.Machine
end

section
/-! The redundant pair is turned on after heartbeats have come in (R424, R431). -/

set_option Elab.async false

namespace Sys2Proof.Machine

/-- The function is off, with leg 0 a member and heartbeats of 10 us, and a heartbeat of the peer has been taken. -/
def heardBeforeEnable : State := { runningBlock with
  pw := { runningBlock.pw with level := 2 }
  pair := { runningBlock.pair with peer := some (1, 0) }
  regs := [(pairKey 0x044, 0x001E000A#32), (pairKey 0x054, 1#32)] }

/-- Refutes O27: heartbeats are taken whatever EN holds, and the enable keeps what the last one said of the peer. -/
theorem not_pairCommandsComplete : ¬ Obligations.PairCommandsComplete := by
  unfold Obligations.PairCommandsComplete
  rintro ⟨henable, -⟩
  obtain ⟨t, ht, -, -, hnone, -⟩ := henable .debug 1#32 heardBeforeEnable (by decide +kernel) rfl (by decide +kernel)
    (by decide +kernel) rfl (by decide) (by decide +kernel)
  have hkept : ∃ t, exec (.pairEnable .debug 1#32) heardBeforeEnable = .next t ∧ t.pair.peer = some (1, 0) :=
    ⟨_, rfl, by decide +kernel⟩
  obtain ⟨u, hu, hpeer⟩ := hkept
  rw [ht] at hu
  cases hu
  exact absurd (hnone.symm.trans hpeer) (by decide)

end Sys2Proof.Machine
end

section
/-! The redundant pair through each update: its hidden state, and the registers of its page among the others. -/

set_option Elab.async false

namespace Sys2Proof.Machine

theorem pairKey_plantKey {off : Nat} (ho : off < 0x1000) : plantKey (pairKey off) := by
  simp only [plantKey, pairKey, rk, pageFirst]
  omega

theorem pairKey_inj {a b : Nat} : pairKey a = pairKey b ↔ a = b := rk_inj

@[simp] theorem onPair_pair (f : Pair → Pair) (s : State) : (onPair f s).pair = f s.pair := rfl

@[simp] theorem raisePair_pair (k : Nat) (s : State) : (raisePair k s).pair = s.pair := raise_pair _ _ _ _

@[simp] theorem raisePair_now (k : Nat) (s : State) : (raisePair k s).now = s.now := raise_now _ _ _ _

@[simp] theorem settle_pair (us s : State) : (settle us s).pair = s.pair :=
  Part.same_of_op (p := .pair) (by decide) (fun h => settle_stays h us) s

@[simp] theorem stopLanes_pair (s : State) : (stopLanes s).pair = s.pair :=
  Part.same_of_op (p := .pair) (by decide) (fun h => stopLanes_stays h) s

theorem startLanes_pair (ls : List Nat) (s : State) :
    (forEach ls (fun n s => writeLaneCtrl n (ctrlWith s n true false) s) s).pair = s.pair :=
  forEach_mem_keeps (π := State.pair)
    (fun n _ u => Part.same_of_op (p := .pair) (by decide) (fun h => writeLaneCtrl_stays h n (ctrlWith u n true false)) u) s

theorem rdb_raisePair (s : State) {k : Nat} (hk : k < 32) : rdb (raisePair k s) (rk .pair 0 0x010) k = true :=
  rdb_raise _ _ _ _ hk (by decide)

/-- A cause that is raised stays raised as another of the page is. -/
theorem rdb_raisePair_of {s : State} {b : Nat} (hb : b < 32) (h : rdb s (rk .pair 0 0x010) b = true) (k : Nat) :
    rdb (raisePair k s) (rk .pair 0 0x010) b = true := by
  by_cases hk : b = k
  · exact hk ▸ rdb_raisePair s hb
  · exact (rdb_raise_ne _ _ _ _ _ hb hk (pairKey_plantKey (by decide)).not_mergeKey).trans h

/-! States and claims (R420, R421, R425) -/

theorem claimOff_pair (s : State) : (claimOff s).pair =
    if s.pair.own then { s.pair with own := false, settled := false, released := [], hbDue := true } else s.pair := by
  unfold claimOff
  split
  · exact settle_pair _ _
  · rfl

/-- What a state is entered with: any but CLAIMING and ACTIVE withdraws the claim and stops what they had begun. -/
theorem pairTo_pair {st : Nat} {s : State} (hne : s.pair.st ≠ st) (h3 : st ≠ 3) (h4 : st ≠ 4) : (pairTo st s).pair =
    if s.pair.own then { s.pair with st := st, tx := none, installs := false, own := false, settled := false, released := [],
                                     hbDue := true }
    else { s.pair with st := st, tx := none, installs := false, hbDue := true } := by
  unfold pairTo
  extract_lets was s1 s2 s3
  rw [if_neg hne, raisePair_pair, logHap_pair]
  have h2 : s2.pair = if s.pair.own then { s.pair with st := st, tx := none, installs := false, own := false, settled := false,
                                                       released := [], hbDue := true }
      else { s.pair with st := st, tx := none, installs := false, hbDue := true } := by
    unfold s2
    rw [if_neg (by omega), claimOff_pair]
    rfl
  rw [← h2]
  unfold s3
  split
  · exact stopLanes_pair s2
  · rfl

theorem pairTo_leaves {st : Nat} {s : State} (hne : s.pair.st ≠ st) (h3 : st ≠ 3) (h4 : st ≠ 4) : (pairTo st s).pair.st = st ∧
    (pairTo st s).pair.own = false ∧ (pairTo st s).pair.cold = s.pair.cold ∧ (pairTo st s).pair.stepAt = s.pair.stepAt := by
  rw [pairTo_pair hne h3 h4]
  split
  · exact ⟨rfl, rfl, rfl, rfl⟩
  · next h => exact ⟨rfl, by simpa using h, rfl, rfl⟩

@[simp] theorem pairTo_now (st : Nat) (s : State) : (pairTo st s).now = s.now :=
  Part.same_of_op (p := .now) (by decide) (fun h => pairTo_stays h st) s

/-- A change of state raises its cause. -/
theorem rdb_pairTo {st : Nat} {s : State} (hne : s.pair.st ≠ st) : rdb (pairTo st s) (rk .pair 0 0x010) 0 = true := by
  unfold pairTo
  rw [if_neg hne]
  exact rdb_raisePair _ (by decide)

theorem keepWell_pair (s : State) : ∃ w, (keepWell s).pair = { s.pair with wellAt := w } := by
  unfold keepWell
  dsimp only
  split
  · split
    · exact ⟨some s.now, rfl⟩
    · exact ⟨s.pair.wellAt, rfl⟩
  · exact ⟨none, rfl⟩

@[simp] theorem keepWell_now (s : State) : (keepWell s).now = s.now := by
  unfold keepWell
  dsimp only
  split
  · split <;> rfl
  · rfl

theorem watchStuck_pair (s : State) : ∃ a, (watchStuck s).pair = { s.pair with stuckAt := a } := by
  unfold watchStuck
  dsimp only
  split
  · split
    · exact ⟨some s.now, rfl⟩
    · exact ⟨s.pair.stuckAt, rfl⟩
  · exact ⟨none, rfl⟩

@[simp] theorem claimsMeet_pair (s : State) : (claimsMeet s).pair = s.pair := by
  unfold claimsMeet
  dsimp only
  split
  · rw [raisePair_pair]
    rfl
  · rfl

/-- A claim that yields is withdrawn: what the peer's line shows and what the installation has left stand. -/
theorem yieldClaim_leaves (s : State) : (yieldClaim s).pair.peerLow = s.pair.peerLow ∧ (yieldClaim s).pair.peerAt = s.pair.peerAt ∧
    (s.pair.released = [] → (yieldClaim s).pair.released = []) ∧ (yieldClaim s).pair.installs = s.pair.installs ∧
    (yieldClaim s).pair.cold = s.pair.cold ∧ (yieldClaim s).pair.installed = s.pair.installed := by
  unfold yieldClaim
  split
  · rw [claimOff_pair]
    split <;> exact ⟨rfl, rfl, fun h => by first | rfl | exact h, rfl, rfl, rfl⟩
  · exact ⟨rfl, rfl, id, rfl, rfl, rfl⟩

/-! Registers -/

@[simp] theorem rd_yieldClaim (s : State) (k : Nat) : rd (yieldClaim s) k = rd s k := by
  unfold yieldClaim claimOff
  split
  · split
    · exact rd_settle _ _ _
    · rfl
  · rfl

@[simp] theorem rd_onLane (n : Nat) (f : Lane → Lane) (s : State) (k : Nat) : rd (onLane n f s) k = rd s k := rfl

/-- The lanes that start write registers of ENG alone. -/
theorem rd_writeLaneCtrl_pair {off n : Nat} (ho : off < 0x1000) (hn : n < 32) (v : Word) (s : State) :
    rd (writeLaneCtrl n v s) (pairKey off) = rd s (pairKey off) := by
  have hlane : ∀ a, a < 0x1000 → pairKey off ≠ laneKey n a := fun a ha => by
    simp only [pairKey, laneKey, rk, pageFirst]
    omega
  have hwref : ∀ u, rd (wref n u) (pairKey off) = rd u (pairKey off) := fun u =>
    rd_raise u (hlane 0x010 (by decide)) (pairKey_plantKey ho).not_mergeKey
  have hswap : ∀ u, rd (requestSwap n u) (pairKey off) = rd u (pairKey off) := fun u => by
    unfold requestSwap
    split <;> rfl
  unfold writeLaneCtrl
  extract_lets k x old s1 s2 s3 s4 d y late s5 s6
  have h1 : rd s1 (pairKey off) = rd s (pairKey off) := rd_wrf_ne _ _ _ _ (hlane _ (by decide))
  have h2 : rd s2 (pairKey off) = rd s1 (pairKey off) := by
    unfold s2
    split
    · rfl
    · split
      · exact hwref _
      · exact rd_wrf_ne _ _ _ _ (hlane _ (by decide))
  have h4 : rd s4 (pairKey off) = rd s2 (pairKey off) := by
    have h3 : rd s3 (pairKey off) = rd s2 (pairKey off) := rd_wrb_ne _ _ _ (hlane _ (by decide))
    rw [← h3]
    exact (rd_wr_ne _ _ (hlane _ (by decide))).trans ((rd_wr_ne _ _ (hlane _ (by decide))).trans
      ((rd_wr_ne _ _ (hlane _ (by decide))).trans (rd_wr_ne _ _ (hlane _ (by decide)))))
  have h5 : rd s5 (pairKey off) = rd s2 (pairKey off) := rd_wrb_ne _ _ _ (hlane _ (by decide))
  have h6 : rd s6 (pairKey off) = rd s2 (pairKey off) := by
    unfold s6
    split
    · split
      · rw [rd_onLane, h4]
      · rw [rd_onLane, h4]
    · split
      · split
        · rw [rd_onLane, h5]
        · rw [rd_releaseUnmapped, rd_onLane, h5]
      · rfl
  have h : rd s6 (pairKey off) = rd s (pairKey off) := h6.trans (h2.trans h1)
  split
  · exact hwref s
  · split
    · rw [hswap, h]
    · exact h

theorem rd_startLanes_pair {off : Nat} (ho : off < 0x1000) {ls : List Nat} (hls : ∀ n ∈ ls, n < 32) (s : State) :
    rd (forEach ls (fun n s => writeLaneCtrl n (ctrlWith s n true false) s) s) (pairKey off) = rd s (pairKey off) :=
  forEach_mem_keeps (π := (rd · (pairKey off))) (fun n hn u => rd_writeLaneCtrl_pair ho (hls n hn) _ u) s

theorem pairLanes_lt {s : State} {n : Nat} (h : n ∈ pairLanes s) : n < 32 := by
  unfold pairLanes setBits at h
  exact List.mem_range.mp (List.mem_filter.mp h).1

theorem rdb_claimsMeet {s : State} {b : Nat} (hb : b < 32) (h : rdb s (rk .pair 0 0x010) b = true) :
    rdb (claimsMeet s) (rk .pair 0 0x010) b = true := by
  unfold claimsMeet
  dsimp only
  split
  · refine rdb_raisePair_of hb ?_ _
    rw [rdb, incHeld, rd_wrf_ne _ _ _ _ (by decide)]
    exact h
  · exact h

end Sys2Proof.Machine
end

section
/-! The states and claims of the redundant pair, and its checkpoints (R420 to R422, R425, R427 to R429). -/

set_option Elab.async false

namespace Sys2Proof.Machine

/-! States -/

theorem pairEvaluation_completes {s : State} (hl : live s .ring = true) (hon : pairOn s = true) (hst : s.pair.st = 4)
    (hgive : s.pair.give = true) :
    ∃ t, exec .pairEvaluation s = .next t ∧ t.pair.st = 5 ∧ t.pair.give = false ∧
      t.pair.stepAt = nextDue s.pair.stepAt usec t.now ∧ t.pair.own = false ∧ s.pair.stepAt ≤ t.now := by
  refine ⟨_, congrArg Host.Outcome.next (if_neg (by simp [hl, hon])), ?_⟩
  extract_lets at' s1 next s2
  obtain ⟨w, hw⟩ := keepWell_pair (onPair (fun p => { p with stepAt := next }) s1)
  have hst' : (keepWell (onPair (fun p => { p with stepAt := next }) s1)).pair.st = 4 := by
    rw [hw]
    exact hst
  have hgive' : (keepWell (onPair (fun p => { p with stepAt := next }) s1)).pair.give = true := by
    rw [hw]
    exact hgive
  have h2 : s2 = pairTo 5 (keepWell (onPair (fun p => { p with stepAt := next }) s1)) := by
    unfold s2 pairTable
    dsimp only
    rw [hst', hgive']
    exact if_pos (by simp)
  obtain ⟨h5, hown, -, hstep⟩ := pairTo_leaves (st := 5) (s := keepWell (onPair (fun p => { p with stepAt := next }) s1))
    (by rw [hst']; decide) (by decide) (by decide)
  rw [← h2] at h5 hown hstep
  have hnow : s2.now = s1.now := by
    rw [h2, pairTo_now, keepWell_now]
    rfl
  refine ⟨h5, rfl, ?_, hown, ?_⟩
  · refine hstep.trans ?_
    rw [hw]
    exact congrArg (nextDue _ _) hnow.symm
  · exact (le_upto_now _ s).trans_eq hnow.symm

theorem livenessTimeout_completes {s : State} (hl : live s .ring = true) (hst : s.pair.st = 4)
    (ht : rdf s (pairKey 0x048) 0 16 ≠ 0) :
    ∃ t, exec .livenessTimeout s = .next t ∧ t.pair.st = 5 ∧ s.pair.keepAt + rdf s (pairKey 0x048) 0 16 * usec ≤ t.now ∧
      rdb t (rk .pair 0 0x010) 0 = true := by
  refine ⟨_, congrArg Host.Outcome.next (if_neg (by simp [hl, hst, ht])), ?_⟩
  have hne : (upto (s.pair.keepAt + rdf s (pairKey 0x048) 0 16 * usec) s).pair.st ≠ 5 := by
    rw [upto_pair, hst]
    decide
  rw [pairTo_now]
  exact ⟨(pairTo_leaves hne (by decide) (by decide)).1, le_upto_now _ s, rdb_pairTo hne⟩

theorem claimTimeout_completes {s : State} (hl : live s .ring = true) (hst : s.pair.st = 3) (hrel : s.pair.released = [])
    (hy : s.pair.yielded = false) :
    ∃ t, exec .claimTimeout s = .next t ∧ t.pair.st = 2 ∧ t.pair.own = false ∧ rdb t (rk .pair 0 0x010) 8 = true ∧
      s.pair.claimAt + msec ≤ t.now := by
  refine ⟨_, congrArg Host.Outcome.next (if_neg (by simp [hl, hst, hrel, hy])), ?_⟩
  have hne : (upto (s.pair.claimAt + msec) s).pair.st ≠ 2 := by
    rw [upto_pair, hst]
    decide
  obtain ⟨h2, hown, -⟩ := pairTo_leaves hne (by decide) (by decide)
  rw [claimFails, raisePair_pair, raisePair_now, pairTo_now]
  exact ⟨h2, hown, rdb_raisePair _ (by decide), le_upto_now _ s⟩

theorem startWait_completes {s : State} (hl : live s .ring = true) (hst : s.pair.st = 1) (hpeer : peerOk s = false) :
    ∃ t, exec .startWait s = .next t ∧ t.pair.st = 2 ∧ t.pair.cold = true ∧
      s.pair.lostAt + rdf s (pairKey 0x048) 16 16 * msec ≤ t.now := by
  refine ⟨_, congrArg Host.Outcome.next (if_neg (by simp [hl, hst, hpeer])), ?_⟩
  have hne : (onPair (fun p => { p with cold := true }) (upto (s.pair.lostAt + rdf s (pairKey 0x048) 16 16 * msec) s)).pair.st ≠ 2 := by
    rw [onPair_pair, upto_pair]
    dsimp only
    rw [hst]
    decide
  obtain ⟨h2, -, hcold, -⟩ := pairTo_leaves hne (by decide) (by decide)
  rw [startCold, pairTo_now]
  exact ⟨h2, hcold, le_upto_now _ s⟩

/-! Claim lines -/

theorem claimPeerChange_completes {low : Bool} {s : State} (hl : live s .ring = true) (hne : s.pair.peerLow ≠ low) :
    ∃ t, exec (.claimPeerChange low) s = .next t ∧ t.pair.peerLow = low ∧ t.pair.peerAt = s.now ∧
      (low = true → t.pair.released = []) := by
  refine ⟨_, congrArg Host.Outcome.next (if_neg (by simp [hl, hne])), ?_⟩
  extract_lets now s1 s2
  have h2 : s2.pair.peerLow = low ∧ s2.pair.peerAt = s.now ∧ (low = true → s2.pair.released = []) := by
    unfold s2
    split
    · rw [settle_pair]
      exact ⟨rfl, rfl, fun _ => rfl⟩
    · next h => exact ⟨rfl, rfl, fun h' => absurd h' h⟩
  have h3 : (if low = true then claimsMeet s2 else s2).pair = s2.pair := by
    split
    · exact claimsMeet_pair s2
    · rfl
  obtain ⟨hlow, hat, hrel, -⟩ := yieldClaim_leaves (if low = true then claimsMeet s2 else s2)
  obtain ⟨a, ha⟩ := watchStuck_pair (yieldClaim (if low = true then claimsMeet s2 else s2))
  rw [h3] at hlow hat hrel
  rw [ha]
  exact ⟨hlow.trans h2.1, hat.trans h2.2.1, fun h => hrel (h2.2.2 h)⟩

theorem claimSettle_completes {s : State} (hl : live s .ring = true) (hown : s.pair.own = true) (hlow : s.pair.peerLow = false)
    (hset : s.pair.settled = false) :
    ∃ t, exec .claimSettle s = .next t ∧ t.pair.settled = true ∧ max s.pair.ownAt s.pair.peerAt + 2 * usec ≤ t.now :=
  ⟨_, congrArg Host.Outcome.next (if_neg (by simp [hl, hown, hlow, hset])), rfl, le_upto_now _ s⟩

theorem peerStuck_completes {s : State} {a : Nat} (hl : live s .ring = true) (ha : s.pair.stuckAt = some a)
    (hr : rdb s (pairKey 0x010) 10 = false) :
    ∃ t, exec .peerStuck s = .next t ∧ rdb t (rk .pair 0 0x010) 10 = true ∧ a + 10 * msec ≤ t.now := by
  refine ⟨_, rfl, ?_⟩
  simp only [ha, hl, hr, Bool.not_true, Bool.or_self, Bool.false_eq_true, if_false]
  rw [raisePair_now]
  exact ⟨rdb_raisePair _ (by decide), le_upto_now _ s⟩

theorem installDone_completes {s : State} (hl : live s .ring = true) (hst : s.pair.st = 3) (hi : s.pair.installs = true)
    (huse : s.pair.useCk = false) :
    ∃ t, exec .installDone s = .next t ∧ t.pair.installs = false ∧ t.pair.cold = true ∧ rdb t (rk .pair 0 0x010) 6 = true ∧
      t.pair.installed = some s.now := by
  refine ⟨_, congrArg Host.Outcome.next (if_neg (by simp [hl, hst, hi])), ?_⟩
  extract_lets now use s1 s2 s3 s4
  have h1 : s1 = raisePair 6 s := by
    unfold s1
    rw [huse]
  have huse' : use = false := by
    unfold use
    rw [huse]
    rfl
  have h3 : s3.pair = s2.pair := startLanes_pair (pairLanes s2) s2
  have h4 : s4.pair.installs = false ∧ s4.pair.cold = true ∧ s4.pair.installed = some s.now := by
    have hcold : s2.pair.cold = true := by
      unfold s2
      rw [onPair_pair, huse']
      rfl
    refine ⟨?_, ?_, ?_⟩
    · exact congrArg Pair.installs h3
    · exact (congrArg Pair.cold h3).trans hcold
    · exact congrArg Pair.installed h3
  have hraised : rdb s4 (rk .pair 0 0x010) 6 = true := by
    have hlanes : rd s3 (pairKey 0x010) = rd s2 (pairKey 0x010) := rd_startLanes_pair (by decide) (fun _ => pairLanes_lt) s2
    refine (congrArg (bit · 6) hlanes).trans ?_
    unfold s2
    rw [h1]
    exact rdb_raisePair s (by decide)
  obtain ⟨-, -, -, hinst, hcold, hat⟩ := yieldClaim_leaves (claimsMeet s4)
  rw [claimsMeet_pair] at hinst hcold hat
  refine ⟨hinst.trans h4.1, hcold.trans h4.2.1, ?_, hat.trans h4.2.2⟩
  rw [rdb, rd_yieldClaim]
  exact rdb_claimsMeet (by decide) hraised

/-! Checkpoints (R428, R429) -/

theorem localCapture_completes {s : State} (hl : live s .ring = true) (hst : s.pair.st = 4) (hv : datumValid s = false) :
    ∃ t, exec .localCapture s = .next t ∧ s.pair.capAt + msec ≤ t.now ∧ t.pair.capAt = t.now ∧
      t.pair.capNum = (s.pair.capNum + ckStride s) % 2 ^ 32 ∧
      (t.pair.tx.any fun c => c.nodat && decide (c.num = t.pair.capNum ∧ c.time = 0)) = true := by
  refine ⟨_, congrArg Host.Outcome.next (if_neg (by simp [hl, hst, hv])), ?_⟩
  extract_lets s1
  have hpair : ∀ a n u, (sramCheck a n u).pair = u.pair := fun a n =>
    Part.same_of_op (p := .pair) (by decide) (fun h => sramCheck_stays h a n)
  have hnow : ∀ a n u, (sramCheck a n u).now = u.now := fun a n =>
    Part.same_of_op (p := .now) (by decide) (fun h => sramCheck_stays h a n)
  unfold pairCapture
  dsimp only
  rw [hnow, hpair]
  exact ⟨le_upto_now _ s, rfl, rfl, by simp⟩

theorem ckSettle_noTiles {c : CkSend} (h : c.tiles = []) (s : State) : ckSettle s c = c := by
  unfold ckSettle
  rw [h, List.map_nil, ← h]

theorem leBytes_length : ∀ n v : Nat, (leBytes n v).length = n
  | 0, _ => rfl
  | n + 1, v => congrArg (· + 1) (leBytes_length n (v / 256))

theorem beBytes_length (n v : Nat) : (beBytes n v).length = n := by rw [beBytes, List.length_reverse, leBytes_length]

/-- A checkpoint without tiles and without a software block is its head. -/
theorem ckBytes_empty {c : CkSend} (htiles : c.tiles = []) (hsw : c.sw = []) : ∃ head, ckBytes c = (head, true) ∧ head.length = 16 := by
  refine ⟨(ckBytes c).1, Prod.ext rfl ?_, ?_⟩ <;>
    simp only [ckBytes, htiles, hsw, List.takeWhile_nil, List.length_nil, if_true, List.length_append, beBytes_length,
      List.flatMap_nil, List.length_cons]

/-- The kind of a frame is its first byte. -/
theorem cellByte_pairFrame (kind seg : Nat) (p : List Byte) : cellByte (pairFrame kind seg p) 0 = kind % 256 := by
  simp [cellByte, pairFrame]

theorem segmentSend_completes {s : State} {c : CkSend} (hl : live s .ring = true) (hst : s.pair.st = 4) (htx : s.pair.tx = some c)
    (htiles : c.tiles = []) (hsw : c.sw = []) (hseg : c.seg = 0) :
    ∃ t, exec .segmentSend s = .next t ∧ t.pair.tx = none ∧ t.pair.lastNum = c.num ∧ s.pair.linkFree ≤ t.now ∧
      rd t (pairKey 0x09C) = wNat c.num ∧ cellByte t.pair.sent 0 = 3 := by
  obtain ⟨head, hbytes, hlen⟩ := ckBytes_empty htiles hsw
  have hshort : ckLen c.tiles.length c.sw.length = 20 := by
    rw [htiles, hsw]
    rfl
  have hfull : (head ++ beBytes 4 (crc32c head).toNat).length = 20 := by
    rw [List.length_append, hlen, beBytes_length]
  refine ⟨_, rfl, ?_⟩
  simp only [htx, hl, hst, ckSettle_noTiles htiles, hbytes, hshort, hseg, hfull, ne_eq, not_true_eq_false, decide_false,
    Bool.not_true, Bool.or_self, Bool.false_eq_true, if_false, if_true, decide_true,
    show ¬ 20 < min 20 (256 * (0 + 1)) by decide, show 20 ≤ 256 * (0 + 1) by decide]
  refine ⟨rfl, rfl, le_upto_now _ s, rd_wr_same _ _ _, ?_⟩
  exact cellByte_pairFrame _ _ _

section Segments

variable {frame : List Byte} {s : State} {k f : Nat} {bs : List Byte} (hl : live s .ring = true) (hon : pairOn s = true)
  (hok : frameOk frame false = true) (hst : s.pair.st = 1 ∨ s.pair.st = 2 ∨ s.pair.st = 5) (hrx : s.pair.rx = some (k, bs, f))
include hl hon hok hst hrx

theorem nextSegment_completes (hkind : cellByte frame 0 = 2) (hk : k ≠ 0) (hseg : cellByte frame 2 + 256 * cellByte frame 3 = k) :
    ∃ t, exec (.segmentReceived frame false) s = .next t ∧ t.pair.rx = some (k + 1, bs ++ (frame.drop 4).take 256, f) := by
  have hst' : (s.pair.st = 1 || s.pair.st = 2 || s.pair.st = 5) = true := by
    simpa [or_assoc] using hst
  refine ⟨_, rfl, ?_⟩
  simp only [hl, hon, hok, hkind, hseg, hk, hrx, hst', Bool.not_true, Bool.false_eq_true, if_false, ne_eq, not_true_eq_false,
    decide_false, Bool.false_and, if_true, Nat.reduceEqDiff]
  rfl

theorem wrongSegment_completes (hkind : cellByte frame 0 = 2 ∨ cellByte frame 0 = 3)
    (hseg : cellByte frame 2 + 256 * cellByte frame 3 ≠ k) (h0 : cellByte frame 2 + 256 * cellByte frame 3 ≠ 0) :
    ∃ t, exec (.segmentReceived frame false) s = .next t ∧ t.pair.rx = none ∧ rdb t (rk .pair 0 0x010) 5 = true := by
  have hst' : (s.pair.st = 1 || s.pair.st = 2 || s.pair.st = 5) = true := by
    simpa [or_assoc] using hst
  have hkind' : (cellByte frame 0 ≠ 2 && cellByte frame 0 ≠ 3) = false := by
    rcases hkind with h | h <;> simp [h]
  refine ⟨_, rfl, ?_⟩
  simp only [hl, hon, hok, hkind', hseg, h0, hrx, hst', Bool.not_true, Bool.false_eq_true, if_false, decide_false,
    Bool.false_and]
  rw [onPair_pair, ckBad, raisePair_pair]
  exact ⟨rfl, rdb_raisePair _ (by decide)⟩

end Segments

/-- Settles O28: each clause is the lemma of its command. -/
theorem pairStatesComplete : Obligations.PairStatesComplete := by
  unfold Obligations.PairStatesComplete
  exact ⟨fun _ => pairEvaluation_completes, fun _ => livenessTimeout_completes, fun _ _ => claimPeerChange_completes,
    fun _ => claimSettle_completes, fun _ => claimTimeout_completes, fun _ => installDone_completes, fun _ => startWait_completes,
    fun _ _ hl _ => peerStuck_completes hl, fun _ => localCapture_completes, fun _ _ => segmentSend_completes,
    fun _ _ _ _ _ hl hon hok hkind hst hrx => nextSegment_completes hl hon hok hst hrx hkind,
    fun _ _ _ _ _ hl hon hok hkind hst hrx => wrongSegment_completes hl hon hok hst hrx hkind⟩

end Sys2Proof.Machine
end

section
/-! What Plumb's reactions leave: the registers but those they write, and what of Plumb's own state they do not change. -/

set_option Elab.async false

namespace Sys2Proof.Machine

/-! Registers -/

/-- A register that no reaction of Plumb writes: not EV_RAW or the counts of tests of its page, and none that an occurrence writes. -/
def reactKept (k : Nat) : Prop := k ≠ plKey 0x010 ∧ k ≠ plKey 0x088 ∧ k ≠ rk .sys 0 0x010 ∧ ¬ mergeKey k

theorem plKey_reactKept {off : Nat} (hlo : 0x040 ≤ off) (hhi : off < 0x1000) (h : off ≠ 0x088) : reactKept (plKey off) := by
  simp only [reactKept, mergeKey, plKey, rk, pageFirst]
  omega

theorem plKey_not_countKey {off : Nat} (hhi : off < 0x1000) : ¬ countKey (plKey off) := by
  simp only [countKey, mergeKey, pmcKey, plKey, rk, pageFirst]
  omega

theorem rd_countedWrite_pl {off : Nat} (hhi : off < 0x1000) (m : Master) (t : PageType) (n o : Nat) (s : State) :
    rd (countedWrite m t n o s) (plKey off) = rd s (plKey off) := rd_pmcAccess (plKey_not_countKey hhi) _ _ _ _

section Registers

variable {k : Nat} (hk : reactKept k)
include hk

theorem rd_raisePl_kept (c : Nat) (s : State) : rd (raisePl c s) k = rd s k := rd_raise s hk.1 hk.2.2.2

theorem rd_soutTo_kept (n : Nat) (st : SoutState) (s : State) : rd (soutTo n st s) k = rd s k := by
  unfold soutTo
  split
  · rfl
  · exact rd_raisePl_kept hk _ _

theorem rd_abortTest_kept (n : Nat) (s : State) : rd (abortTest n s) k = rd s k := by
  unfold abortTest
  dsimp only
  split
  · rfl
  · rw [rd_raisePl_kept hk, incHeld, rd_wrf_ne _ _ _ _ hk.2.1, rd_onSout]

theorem rd_soutOff_kept (n : Nat) (s : State) : rd (soutOff n s) k = rd s k := by
  unfold soutOff
  dsimp only
  split
  · rw [rd_soutTo_kept hk, rd_onSout, rd_abortTest_kept hk]
  · rfl

theorem rd_soutFault_kept (n : Nat) (s : State) : rd (soutFault n s) k = rd s k := by rw [soutFault, rd_soutTo_kept hk, rd_onSout]

theorem rd_bookAction_kept (kind page off master : Nat) (old new : Word) (s : State) :
    rd (bookAction kind page off master old new s) k = rd s k := by
  have hplace : ∀ e u, rd (placeEntry e u) k = rd u k := fun e u => by
    unfold placeEntry
    dsimp only
    split
    · exact rd_raise _ hk.1 hk.2.2.2
    · rfl
  unfold bookAction
  dsimp only
  split
  · exact hplace _ _
  · split <;> rfl

theorem rd_spoDemand_kept (c : Nat) (s : State) : rd (spoDemand c s) k = rd s k := by
  unfold spoDemand
  dsimp only
  split
  · rfl
  · rw [rd_raisePl_kept hk, rd_logHap, rd_bookAction_kept hk, rd_settle, rd_onPlumb, rd_onPlumb]

theorem rd_spoOff_kept (s : State) : rd (spoOff s) k = rd s k := by
  have hcheck : ∀ u, rd (checkOutEn u) k = rd u k := fun u => by
    unfold checkOutEn
    split
    · exact rd_raise _ hk.2.2.1 hk.2.2.2
    · rfl
  unfold spoOff
  dsimp only
  rw [hcheck, rd_raisePl_kept hk, rd_logHap, rd_milestone, rd_settle]
  rfl

theorem rd_spoSource_kept (c : Nat) (on : Bool) (s : State) : rd (spoSource c on s) k = rd s k := by
  have hinactive : rd (spoInactive c s) k = rd s k := by
    unfold spoInactive
    dsimp only
    split
    · rw [rd_spoOff_kept hk, rd_bookAction_kept hk, rd_onPlumb]
    · rfl
  unfold spoSource
  split
  · split
    · rfl
    · exact rd_spoDemand_kept hk _ _
  · split
    · exact hinactive
    · rfl

theorem rd_plumbEval_kept (s : State) : rd (plumbEval s) k = rd s k := by
  unfold plumbEval stuckOutputs
  dsimp only
  rw [rd_forEach_occur fun n u => rd_soutFault_kept hk n u, rd_forEach_occur fun n u => rd_soutOff_kept hk n u, rd_onPlumb,
    rd_forEach_occur fun (e : Nat × Bool) u => rd_spoSource_kept hk e.1 e.2 u]

theorem rd_judgeSout_kept (n : Nat) (s : State) : rd (judgeSout n s) k = rd s k := by
  unfold judgeSout
  dsimp only
  split
  · split
    · rw [rd_soutTo_kept hk, rd_onSout]
    · rfl
  · split
    · exact rd_soutFault_kept hk _ _
    · rfl
  · split
    · exact rd_soutFault_kept hk _ _
    · rfl
  · rfl

theorem rd_evalInput_kept (i : Nat) (s : State) : rd (evalInput i s) k = rd s k := by
  unfold evalInput
  extract_lets x now mode judged bOk apart both none' seen s1 was acts s2 s3 s4
  rw [rd_plumbEval_kept hk]
  unfold s4
  rw [rd_forEach_occur fun n u => rd_judgeSout_kept hk n u]
  unfold s3
  split
  · exact rd_raisePl_kept hk _ _
  · rfl

theorem rd_scanRaise_kept (before s : State) : rd (scanRaise before s) k = rd s k := by
  unfold scanRaise
  extract_lets arisen disc dem s1
  have h1 : rd s1 k = rd s k := by
    unfold s1
    split
    · exact rd_raisePl_kept hk _ _
    · rfl
  split
  · rw [rd_raisePl_kept hk, h1]
  · exact h1

/-- The settings of an output are a plain write, judged at once. -/
theorem rd_soutSettings_kept (n : Nat) (v : Word) (s : State) :
    rd (soutSettings n v s) k = rd (plainWrite (plKey (0x070 + 4 * n)) v s) k := by
  unfold soutSettings
  extract_lets old s1 due plan s2
  rw [rd_plumbEval_kept hk, rd_judgeSout_kept hk]
  unfold s2
  split <;> rfl

end Registers

/-- A settings register of the page takes the value that its row lets a write give it; of an offset between two registers nothing
is written. -/
theorem rd_setPlumb {off : Nat} (hlo : 0x040 ≤ off) (hhi : off < 0x1000) (hne : off ≠ 0x088) (v : Word) (s : State) :
    rd (setPlumb off v s) (plKey off) = plainValue (plKey off) (rd s (plKey off)) v := by
  have hk := plKey_reactKept hlo hhi hne
  have hplain : rd (plainWrite (plKey off) v s) (plKey off) = plainValue (plKey off) (rd s (plKey off)) v := rd_wr_same _ _ _
  unfold setPlumb
  split
  next hout =>
    have hwrite : rd (plainWrite (plKey (0x070 + 4 * ((off - 0x070) / 4))) v s) (plKey off) =
        plainValue (plKey off) (rd s (plKey off)) v := by
      by_cases halign : 0x070 + 4 * ((off - 0x070) / 4) = off
      · rw [halign, hplain]
      · have hrow : regRow (plKey off) = none := by
          obtain ⟨h1, h2⟩ := hout
          interval_cases off <;> first | exact absurd rfl halign | rfl
        have hkey : plKey off ≠ plKey (0x070 + 4 * ((off - 0x070) / 4)) := fun h => halign (rk_inj.mp h).symm
        rw [plainWrite, rd_wr_ne _ _ hkey, plainValue, hrow]
    rw [rd_soutSettings_kept hk, hwrite]
  next =>
    dsimp only
    split
    · rw [rd_forEach_occur fun i u => rd_evalInput_kept hk i u, hplain]
    · rw [rd_forEach_occur fun i u => rd_evalInput_kept hk i u, hplain]
    · rw [rd_plumbEval_kept hk, rd_scanRaise_kept hk, hplain]
    · rw [rd_plumbEval_kept hk, hplain]
    · rw [rd_plumbEval_kept hk, hplain]
    · exact hplain

/-! Plumb's own state -/

/-- Plumb without what a reaction changes of it: the sources of SPO, its latch and the causes of Saddle mode. -/
def Plumb.standing (p : Plumb) : Plumb := { p with spo := false, active := 0, first := 0, seen := 0, causes := 0 }

@[simp] theorem onPlumb_plumb (f : Plumb → Plumb) (s : State) : (onPlumb f s).plumb = f s.plumb := rfl

@[simp] theorem settle_plumb (us s : State) : (settle us s).plumb = s.plumb :=
  Part.same_of_op (p := .plumb) (by decide) (fun h => settle_stays h us) s

@[simp] theorem checkOutEn_plumb (s : State) : (checkOutEn s).plumb = s.plumb := by
  unfold checkOutEn
  split
  · exact raise_plumb _ _ _ _
  · rfl

@[simp] theorem soutOff_plumb (n : Nat) (s : State) : (soutOff n s).plumb = s.plumb :=
  Part.same_of_op (p := .plumb) (by decide) (fun h => soutOff_stays h n) s

@[simp] theorem soutFault_plumb (n : Nat) (s : State) : (soutFault n s).plumb = s.plumb :=
  Part.same_of_op (p := .plumb) (by decide) (fun h => soutFault_stays h n) s

@[simp] theorem judgeSout_plumb (n : Nat) (s : State) : (judgeSout n s).plumb = s.plumb :=
  Part.same_of_op (p := .plumb) (by decide) (fun h => judgeSout_stays h n) s

@[simp] theorem stuckOutputs_plumb (s : State) : (stuckOutputs s).plumb = s.plumb :=
  Part.same_of_op (p := .plumb) (by decide) (fun h => stuckOutputs_stays h) s

/-- A demand latches SPO and marks its source. -/
theorem spoDemand_plumb (k : Nat) (s : State) : (spoDemand k s).plumb =
    { s.plumb with active := setBit s.plumb.active k true, seen := setBit s.plumb.seen k true, spo := true,
                   first := if s.plumb.spo then s.plumb.first else bitw k } := by
  unfold spoDemand
  extract_lets s1 src s2
  have hspo : s1.plumb.spo = s.plumb.spo := rfl
  split
  next h =>
    rw [hspo] at h
    rw [h, if_pos rfl]
    unfold s1
    rw [onPlumb_plumb, ← h]
  next h =>
    rw [hspo, Bool.not_eq_true] at h
    rw [raisePl_plumb, logHap_plumb, bookAction_plumb, h]
    unfold s2
    rw [settle_plumb]
    rfl

theorem spoOff_plumb (s : State) : (spoOff s).plumb = { s.plumb with spo := false, first := 0, seen := 0 } := by
  unfold spoOff
  rw [checkOutEn_plumb, raisePl_plumb, logHap_plumb, milestone_plumb, settle_plumb]
  rfl

/-- A source but START becomes inactive without a release. -/
theorem spoInactive_plumb {k : Nat} (hk : k ≠ 0) (s : State) :
    (spoInactive k s).plumb = { s.plumb with active := setBit s.plumb.active k false } := by
  unfold spoInactive
  dsimp only
  rw [if_neg fun h => hk h.1]
  rfl

theorem spoPulse_plumb (k : Nat) (s : State) : (spoPulse k s).plumb =
    { (spoDemand k s).plumb with active := setBit (spoDemand k s).plumb.active k false } := rfl

theorem spoSource_standing (k : Nat) (on : Bool) (s : State) : (spoSource k on s).plumb.standing = s.plumb.standing := by
  unfold spoSource
  split
  · split
    · rfl
    · rw [spoDemand_plumb]
      rfl
  · split
    · unfold spoInactive
      dsimp only
      split
      · rw [spoOff_plumb, bookAction_plumb]
        rfl
      · rfl
    · rfl

/-- A source shows whether its condition holds, and no other source changes. -/
theorem bit_spoSource {k : Nat} (hk : k < 32) (on : Bool) (s : State) : bit (spoSource k on s).plumb.active k = on := by
  unfold spoSource
  cases on
  · rw [if_neg Bool.false_ne_true]
    split
    · unfold spoInactive
      dsimp only
      split
      · rw [spoOff_plumb, bookAction_plumb]
        exact bit_setBit_same _ _ _ hk
      · exact bit_setBit_same _ _ _ hk
    · next h => exact Bool.not_eq_true _ ▸ h
  · rw [if_pos rfl]
    split
    · next h => exact h
    · rw [spoDemand_plumb]
      exact bit_setBit_same _ _ _ hk

theorem bit_spoSource_ne {k b : Nat} (hb : b < 32) (h : b ≠ k) (on : Bool) (s : State) :
    bit (spoSource k on s).plumb.active b = bit s.plumb.active b := by
  unfold spoSource
  split
  · split
    · rfl
    · rw [spoDemand_plumb]
      exact bit_setBit_ne _ _ _ _ hb h
  · split
    · unfold spoInactive
      dsimp only
      split
      · rw [spoOff_plumb, bookAction_plumb]
        exact bit_setBit_ne _ _ _ _ hb h
      · exact bit_setBit_ne _ _ _ _ hb h
    · rfl

/-- The sources that follow from conditions are those from SAFE_IN to SADDLE. -/
theorem spoConds_source {s : State} {e : Nat × Bool} (h : e ∈ spoConds s) : e.1 ≠ 0 ∧ e.1 < 6 := by
  simp only [spoConds, List.mem_cons, List.not_mem_nil, or_false] at h
  rcases h with rfl | rfl | rfl | rfl | rfl <;> simp

theorem plumbEval_plumb (s : State) : ∃ c, (plumbEval s).plumb =
    { (forEach (spoConds s) (fun e s => spoSource e.1 e.2 s) s).plumb with causes := c } := by
  unfold plumbEval
  extract_lets s1 c s2
  refine ⟨c, ?_⟩
  rw [stuckOutputs_plumb]
  exact forEach_mem_keeps (π := State.plumb) (fun n _ u => soutOff_plumb n u) s2

@[simp] theorem plumbEval_standing (s : State) : (plumbEval s).plumb.standing = s.plumb.standing := by
  obtain ⟨c, hc⟩ := plumbEval_plumb s
  rw [hc]
  exact forEach_mem_keeps (π := fun u => u.plumb.standing) (fun e _ u => spoSource_standing e.1 e.2 u) s

/-- START is no source that follows from conditions. -/
theorem bit_plumbEval_start (s : State) : bit (plumbEval s).plumb.active 0 = bit s.plumb.active 0 := by
  obtain ⟨c, hc⟩ := plumbEval_plumb s
  rw [hc]
  exact forEach_mem_keeps (π := fun u => bit u.plumb.active 0)
    (fun e he u => bit_spoSource_ne (by decide) (spoConds_source he).1.symm e.2 u) s

theorem plumbEval_spo {s : State} (h : s.plumb.spo = true) : (plumbEval s).plumb.spo = true :=
  (plumbEval_follows (Follows.refl false true s)).spo rfl h

@[simp] theorem plumbEval_conns (s : State) : (plumbEval s).conns = s.conns :=
  Part.same_of_op (p := .conns) (by decide) (fun h => plumbEval_stays h) s

@[simp] theorem plumbEval_pw (s : State) : (plumbEval s).pw = s.pw :=
  Part.same_of_op (p := .pw) (by decide) (fun h => plumbEval_stays h) s

@[simp] theorem plumbEval_now (s : State) : (plumbEval s).now = s.now :=
  Part.same_of_op (p := .now) (by decide) (fun h => plumbEval_stays h) s

end Sys2Proof.Machine
end

section
/-! Safe power-off and Plumb's tests (R381, R382, R384, R385, R387, R410). -/

set_option Elab.async false

namespace Sys2Proof.Machine

/-! Requests (R384, R385) -/

theorem writeSpoCtl_request (m : Master) (s : State) : writeSpoCtl m 1 s = spoPulse 6 s := by simp [writeSpoCtl, bit]

theorem writeSpoCtl_release (m : Master) (s : State) : writeSpoCtl m 2 s = spoRelease m s := by simp [writeSpoCtl, bit]

theorem spoRequest_completes {m : Master} {s : State} (h : reaches s m .plumb 0x04C = true) (hh : heldBehind s m false = false) :
    ∃ t, exec (.spoRequest m) s = .next t ∧ t.plumb.spo = true ∧ bit t.plumb.seen 6 = true ∧ bit t.plumb.active 6 = false := by
  refine ⟨_, congrArg Host.Outcome.next (plumbBus_reaches h hh), ?_⟩
  rw [writeSpoCtl_request, busCycle_plumb, spoPulse_plumb, spoDemand_plumb]
  exact ⟨rfl, bit_setBit_same _ _ _ (by decide), bit_setBit_same _ _ _ (by decide)⟩

theorem spoOff_leaves (s : State) : (spoOff s).holds.spo = some s.now ∧ (spoOff s).fb = s.fb := by
  have hcheck : ∀ u, (checkOutEn u).holds = u.holds ∧ (checkOutEn u).fb = u.fb := fun u => by
    unfold checkOutEn
    split
    · exact ⟨raise_holds _ _ _ _, raise_fb _ _ _ _⟩
    · exact ⟨rfl, rfl⟩
  have hraise : ∀ c u, (raisePl c u).holds = u.holds := fun c u => raise_holds _ _ _ _
  have hsettle : ∀ us u, (settle us u).holds = u.holds ∧ (settle us u).fb = u.fb := fun us u =>
    ⟨Part.same_of_op (p := .holds) (by decide) (fun h => settle_stays h us) u,
      Part.same_of_op (p := .fb) (by decide) (fun h => settle_stays h us) u⟩
  unfold spoOff
  extract_lets now s1
  obtain ⟨hholds, hfb⟩ := hsettle s { onPlumb (fun p => { p with spo := false, first := 0, seen := 0 }) s with
    holds := { s.holds with spo := some now } }
  rw [(hcheck _).1, (hcheck _).2, hraise, raisePl_fb]
  exact ⟨congrArg Holds.spo hholds, hfb⟩

theorem spoRelease_completes {m : Master} {s : State} (h : reaches s m .plumb 0x04C = true) (hh : heldBehind s m false = false)
    (hact : s.plumb.active = 0) (hf : stagingFull s = false) (hspo : s.plumb.spo = true) :
    ∃ t, exec (.spoRelease m) s = .next t ∧ t.plumb.spo = false ∧ t.plumb.seen = 0 ∧ t.holds.spo = some s.now ∧
      t.fb.seq = (s.fb.seq + 1) % 2 ^ 32 := by
  refine ⟨_, congrArg Host.Outcome.next (plumbBus_reaches h hh), ?_⟩
  have hrel : ∀ u : State, u.plumb.active = 0 → stagingFull u = false → u.plumb.spo = true → spoRelease m u =
      spoOff (bookRequested 9 (pageNo .plumb 0) 0x04C (masterNo m) u.plumb.first 0 u) := fun u ha hu hs => by
    simp [spoRelease, ha, hu, hs]
  rw [writeSpoCtl_release, hrel _ (by simpa using hact) (by simpa using hf) (by simpa using hspo), busCycle_plumb, busCycle_holds,
    busCycle_fb, spoOff_plumb, (spoOff_leaves _).1, (spoOff_leaves _).2, bookRequested_seq, bookRequested_now, countedWrite_now,
    countedWrite_fb]
  exact ⟨rfl, rfl, rfl, rfl⟩

/-! Demands (R382, R387) -/

theorem clockCheck_completes (pwm fab adc ring : Nat) {s : State} (hs : s.plumb.selftest = true) :
    ∃ t, exec (.clockCheck pwm fab adc ring) s = .next t ∧
      bit t.plumb.active 7 = !(edgesOk pwm 3125 1 && edgesOk fab 6250 1 && edgesOk adc 2500 1 && edgesOk ring 3125 2) :=
  ⟨_, congrArg Host.Outcome.next (if_neg (by simp [hs])), bit_spoSource (by decide) _ _⟩

theorem spoSource_now (k : Nat) (on : Bool) (s : State) : (spoSource k on s).now = s.now :=
  Part.same_of_op (p := .now) (by decide) (fun h => spoSource_stays h k on) s

theorem freeze_completes {s : State} {a : Nat} (ha : s.plumb.frozen = some a) (hfr : s.holds.frozen = true) :
    ∃ t, exec .freeze s = .next t ∧ bit t.plumb.active 8 = true ∧ a + max 10 (rdf s (plKey 0x050) 0 16) * usec ≤ t.now := by
  refine ⟨_, rfl, ?_⟩
  simp only [ha, hfr, if_true]
  rw [spoSource_now]
  exact ⟨bit_spoSource (by decide) _ _, le_upto_now _ s⟩

/-! The internal fault (R382, R410) -/

@[simp] theorem dropHanded_plumb (s : State) : (dropHanded s).plumb = { s.plumb with handed := [] } := by
  have hrevise : ∀ h takes u, (reviseHanded h takes u).plumb = u.plumb := fun h takes u => by
    unfold reviseHanded
    dsimp only
    split <;> rfl
  unfold dropHanded
  rw [onPlumb_plumb]
  exact congrArg (fun p : Plumb => { p with handed := [] })
    (forEach_mem_keeps (π := State.plumb) (fun h _ u => hrevise h false u) s)

/-- A restart leaves START demanding and the level locked, and Plumb's self-test to be passed again. -/
theorem plumbRestart_leaves {s : State} (hspo : s.plumb.spo = true) : (plumbRestart s).plumb.spo = true ∧
    (plumbRestart s).plumb.selftest = false ∧ (plumbRestart s).plumb.faultRec = s.plumb.faultRec ∧
    (plumbRestart s).pw.level = 0 ∧ bit (plumbRestart s).plumb.active 0 = true := by
  unfold plumbRestart
  extract_lets s1 since s2 old s2' s3
  have h3 : s3.plumb.spo = true ∧ s3.plumb.selftest = false ∧ s3.plumb.faultRec = s.plumb.faultRec := by
    have h1 : s1.plumb = { s.plumb with handed := [] } := dropHanded_plumb s
    refine ⟨?_, rfl, ?_⟩
    · exact (congrArg Plumb.spo h1).trans hspo
    · rw [show s3.plumb.faultRec = s1.plumb.faultRec from rfl, h1]
  obtain ⟨hs, ht, hf⟩ := h3
  have hstanding : (startActive s3).plumb.standing = s3.plumb.standing := by
    rw [startActive, plumbEval_standing, spoSource_standing]
  refine ⟨?_, ?_, ?_, ?_, ?_⟩
  · exact (startActive_follows (Follows.refl false true s3)).spo rfl hs
  · exact (congrArg Plumb.selftest hstanding).trans ht
  · exact (congrArg Plumb.faultRec hstanding).trans hf
  · rw [startActive, plumbEval_pw, Part.same_of_op (p := .pw) (by decide) (fun h => spoSource_stays h 0 true) s3]
    rfl
  · rw [startActive, bit_plumbEval_start]
    exact bit_spoSource (by decide) _ _

theorem internalFault_leaves (s : State) : (internalFault s).plumb.spo = true ∧ (internalFault s).plumb.selftest = false ∧
    (internalFault s).plumb.faultRec = true ∧ (internalFault s).pw.level = 0 ∧
    bit (internalFault s).plumb.active 0 = true := by
  unfold internalFault
  extract_lets s1 s2 s3
  have h2 : s2.plumb = s1.plumb := forEach_mem_keeps (π := State.plumb) (fun n _ u => soutOff_plumb n u) s1
  have h3 : s3.plumb = { s2.plumb with faultRec := true } := rfl
  have hspo : s3.plumb.spo = true := by
    rw [h3, h2]
    unfold s1
    rw [spoPulse_plumb, spoDemand_plumb]
  obtain ⟨ha, hb, hc, hd, he⟩ := plumbRestart_leaves hspo
  exact ⟨ha, hb, hc.trans (congrArg Plumb.faultRec h3), hd, he⟩

/-- The next periodic self-test falls due, `per` after this one. -/
def selftestAgain (per : Nat) (s : State) : State :=
  onPlumb (fun p => { p with nextSelf := nextDue s.plumb.nextSelf per (upto s.plumb.nextSelf s).now }) (upto s.plumb.nextSelf s)

theorem periodicSelftest_eq {s : State} (hs : s.plumb.selftest = true) :
    exec (.periodicSelftest true) s = .next (selftestAgain (3600 * secs) s) :=
  (congrArg Host.Outcome.next (if_neg (by simp [hs]))).trans (congrArg Host.Outcome.next (if_pos rfl))

theorem selftestAgain_leaves (per : Nat) (s : State) : (selftestAgain per s).plumb.selftest = s.plumb.selftest ∧
    (selftestAgain per s).plumb.nextSelf = nextDue s.plumb.nextSelf per (selftestAgain per s).now ∧
    s.plumb.nextSelf ≤ (selftestAgain per s).now ∧ (selftestAgain per s).plumb.spo = s.plumb.spo :=
  ⟨rfl, rfl, le_upto_now _ s, rfl⟩

theorem periodicSelftest_passes {s : State} (hs : s.plumb.selftest = true) :
    ∃ t, exec (.periodicSelftest true) s = .next t ∧ t.plumb.selftest = true ∧
      t.plumb.nextSelf = nextDue s.plumb.nextSelf (3600 * secs) t.now ∧ s.plumb.nextSelf ≤ t.now ∧ t.plumb.spo = s.plumb.spo := by
  obtain ⟨hself, hrest⟩ := selftestAgain_leaves (3600 * secs) s
  exact ⟨_, periodicSelftest_eq hs, hself.trans hs, hrest⟩

theorem periodicSelftest_fails {s : State} (hs : s.plumb.selftest = true) :
    ∃ t, exec (.periodicSelftest false) s = .next t ∧ t.plumb.selftest = false ∧ t.plumb.spo = true := by
  refine ⟨_, congrArg Host.Outcome.next (if_neg (by simp [hs])), ?_⟩
  rw [if_neg Bool.false_ne_true]
  obtain ⟨hspo, hself, -⟩ := internalFault_leaves (onPlumb (fun p => { p with nextSelf := _ }) (upto s.plumb.nextSelf s))
  exact ⟨hself, hspo⟩

theorem selftestDone_completes {s : State} (hs : s.plumb.selftest = false) (hr : s.pwr.reset ≠ some .powerOn) :
    ∃ t, exec (.selftestDone true) s = .next t ∧ t.plumb.selftest = true ∧ t.plumb.nextSelf = s.now + 3600 * secs ∧
      t.plumb.nextEval = s.now + msec := by
  refine ⟨_, congrArg Host.Outcome.next (if_neg (by simp [hs, hr])), ?_⟩
  rw [Bool.not_true, if_neg Bool.false_ne_true]
  extract_lets now
  have hstanding : ∀ u : State, (startEnds u).plumb.standing = u.plumb.standing := fun u => by
    unfold startEnds
    split
    · exact spoSource_standing _ _ _
    · rfl
  exact ⟨congrArg Plumb.selftest (hstanding _), congrArg Plumb.nextSelf (hstanding _), congrArg Plumb.nextEval (hstanding _)⟩

/-! Writes handed to Plumb (R381) -/

@[simp] theorem reviseHanded_plumb (h : Handed) (takes : Bool) (s : State) : (reviseHanded h takes s).plumb = s.plumb := by
  unfold reviseHanded
  dsimp only
  split <;> rfl

@[simp] theorem rd_reviseHanded (h : Handed) (takes : Bool) (s : State) (k : Nat) : rd (reviseHanded h takes s) k = rd s k := by
  unfold reviseHanded
  dsimp only
  split <;> rfl

/-- Writes that all are guarded wait on. -/
theorem releaseWaiting_guarded {hs : List Handed} (h : hs.all (·.guarded) = true) (kept : List Handed) (s : State) :
    releaseWaiting kept hs s = onPlumb (fun p => { p with handed := kept ++ hs }) s := by
  induction hs generalizing kept with
  | nil => rw [releaseWaiting, List.append_nil]
  | cons x hs ih =>
    obtain ⟨hx, hrest⟩ : x.guarded = true ∧ hs.all (·.guarded) = true := by simpa using h
    rw [releaseWaiting, hx, Bool.true_or, if_pos rfl, ih hrest, List.append_assoc]
    rfl

theorem pageIndex_plKey {off : Nat} (h : off < 0x1000) : pageIndex (plKey off) = pageNo .plumb 0 := by
  have hpage : plKey off / 0x1000 = pageFirst .plumb := by
    simp only [plKey, rk, pageFirst]
    omega
  rw [pageIndex, hpage]
  rfl

theorem keyOff_plKey {off : Nat} (h : off < 0x1000) : keyOff (plKey off) = off := by
  simp only [keyOff, plKey, rk, pageFirst]
  omega

theorem plumbWriteApplied_completes {s : State} {m : Master} {off : Nat} {v : Word} {q : Option Nat} {rest : List Handed}
    (hh : s.plumb.handed = ⟨m, plKey off, v, true, true, q⟩ :: rest) (hrest : rest.all (·.guarded) = true) (hlo : 0x040 ≤ off)
    (hhi : off < 0x1000) (hne : off ≠ 0x088) :
    ∃ t, exec .plumbWriteApplied s = .next t ∧ t.plumb.handed = rest ∧
      rd t (plKey off) = plainValue (plKey off) (rd s (plKey off)) v := by
  have happly : applyHanded ⟨m, plKey off, v, true, true, q⟩ s =
      setPlumb off v (reviseHanded ⟨m, plKey off, v, true, true, q⟩ true s) := by
    unfold applyHanded
    dsimp only
    rw [pageIndex_plKey hhi, keyOff_plKey hhi]
    simp
  refine ⟨_, rfl, ?_⟩
  rw [plumbApply, hh]
  dsimp only
  rw [releaseWaiting_guarded hrest, happly]
  refine ⟨rfl, ?_⟩
  rw [rd_onPlumb, rd_setPlumb hlo hhi hne, rd_reviseHanded]

/-- Settles O22: each clause is the lemma of its command. -/
theorem safePowerOffCompletes : Obligations.SafePowerOffCompletes := by
  unfold Obligations.SafePowerOffCompletes
  exact ⟨fun _ _ => spoRequest_completes, fun _ _ => spoRelease_completes, fun pwm fab adc ring _ => clockCheck_completes pwm fab adc ring,
    fun _ _ => freeze_completes, fun s => ⟨_, rfl, internalFault_leaves s⟩, fun s => ⟨_, rfl, internalFault_leaves s⟩,
    fun _ => periodicSelftest_passes, fun _ => periodicSelftest_fails, fun _ => selftestDone_completes,
    fun _ _ _ _ _ _ => plumbWriteApplied_completes⟩

end Sys2Proof.Machine
end

section
/-! The Plumb channel (R398, R399, R401, R415). -/

set_option Elab.async false

namespace Sys2Proof.Machine

/-! Connections through each update -/

theorem conn_congr {s t : State} (h : t.conns = s.conns) (c : Nat) : conn t c = conn s c := congrArg (smGet conn0 · c) h

@[simp] theorem conn_onConn_same (c : Nat) (f : Conn → Conn) (s : State) : conn (onConn c f s) c = f (conn s c) :=
  smGet_smSet_same _ _ _ _

@[simp] theorem conn_raisePch (k : Nat) (s : State) (c : Nat) : conn (raisePch k s) c = conn s c :=
  conn_congr (raise_conns _ _ _ _) c

@[simp] theorem conn_logHap (p : Nat) (s : State) (c : Nat) : conn (logHap p s) c = conn s c := rfl

@[simp] theorem conn_plumbEval (s : State) (c : Nat) : conn (plumbEval s) c = conn s c := conn_congr (plumbEval_conns s) c

@[simp] theorem conn_busCycle (s : State) (c : Nat) : conn (busCycle s) c = conn s c := rfl

@[simp] theorem conn_upto (t : Nat) (s : State) (c : Nat) : conn (upto t s) c = conn s c := rfl

@[simp] theorem conn_countedWrite (m : Master) (t : PageType) (n off : Nat) (s : State) (c : Nat) :
    conn (countedWrite m t n off s) c = conn s c := conn_congr (pmcAccess_conns _ _ _ _ s) c

theorem conn_forEach_wr {α : Type} (k : α → Nat) (v : α → Word) (l : List α) (s : State) (c : Nat) :
    conn (forEach l (fun i s => wr (k i) (v i) s) s) c = conn s c :=
  forEach_mem_keeps (π := (conn · c)) (f := fun i s => wr (k i) (v i) s) (fun _ _ _ => rfl) s

theorem connKey_not_countKey {c off : Nat} (h : 0x40 * c + off < 0x0F00) : ¬ countKey (connKey c off) := by
  simp only [countKey, mergeKey, pmcKey, connKey, rk, pageFirst]
  omega

theorem rd_countedWrite_conn {c off : Nat} (h : 0x40 * c + off < 0x0F00) (m : Master) (t : PageType) (n o : Nat) (s : State) :
    rd (countedWrite m t n o s) (connKey c off) = rd s (connKey c off) := rd_pmcAccess (connKey_not_countKey h) _ _ _ _

/-! Commands (R415) -/

section Commands

variable {m : Master} {c : Fin 8} {s : State} (h : reaches s m .pch 0x110 = true) (hh : heldBehind s m true = false)
include h hh

/-- A command of a connection, behind no guarded write of its master, has its effect in the state with it counted. -/
theorem connCommand_reaches (v : Word) :
    connCommand m c v s = busCycle (writeConnCtl c v (countedWrite m .pch 0 (0x110 + 0x40 * c) s)) := by
  have hreach : reaches s m .pch (0x110 + 0x40 * c.val) = true := reaches_unstaged (by decide) h rfl
  refine (byBus_reaches hreach).trans (congrArg busCycle ?_)
  rw [heldBehind_countedWrite, hh]
  rfl

theorem connStart_completes (h1 : (conn s c).st ≠ 1) (h2 : (conn s c).st ≠ 2)
    (hz : (if isProducer s c then rdf s (connKey c 0x0C) 0 16 else rdf s (connKey c 8) 0 16) ≠ 0) :
    ∃ t, exec (.connStart m c) s = .next t ∧ (conn t c).st = (if isProducer s c then 2 else 1) ∧ (conn t c).cause = 0 := by
  have hc := c.isLt
  have hkeys : ∀ off, off < 0x40 → rd (countedWrite m .pch 0 (0x110 + 0x40 * c) s) (connKey c off) = rd s (connKey c off) :=
    fun off ho => rd_countedWrite_conn (by omega) _ _ _ _ _
  have hprod : isProducer (countedWrite m .pch 0 (0x110 + 0x40 * c) s) c = isProducer s c :=
    congrArg (bit · 0) (hkeys 0 (by decide))
  refine ⟨_, congrArg Host.Outcome.next (connCommand_reaches h hh 1), ?_⟩
  rw [conn_busCycle]
  unfold writeConnCtl
  cases hp : isProducer s c
  · rw [hp, if_neg Bool.false_ne_true] at hz
    simp [bit, hprod, hp, h1, h2, rdf, hkeys, show ¬ fld (rd s (connKey c 8)) 0 16 = 0 from hz]
  · rw [hp, if_pos rfl] at hz
    simp [bit, hprod, hp, h1, h2, rdf, hkeys, show ¬ fld (rd s (connKey c 0x0C)) 0 16 = 0 from hz]

theorem connStop_completes (hst : (conn s c).st = 1 ∨ (conn s c).st = 2) :
    ∃ t, exec (.connStop m c) s = .next t ∧ (conn t c).st = 0 ∧ (conn t c).safe = 31 := by
  refine ⟨_, congrArg Host.Outcome.next (connCommand_reaches h hh 2), ?_⟩
  rw [conn_busCycle]
  unfold writeConnCtl
  simp [bit, hst]

end Commands

/-! Messages (R398, R399, R401) -/

theorem produceMessage_completes {c : Fin 8} {s : State} (hl : live s .ring = true) (hp : isProducer s c = true)
    (hst : (conn s c).st = 2) :
    ∃ t, exec (.produceMessage c) s = .next t ∧ (conn t c).seq = (conn s c).seq + 1 ∧ (conn t c).sent = safetyWord s c ∧
      ((conn s c).sent = safetyWord s c → (conn s c).dueAt ≤ t.now) := by
  refine ⟨produce c s, rfl, ?_⟩
  unfold produce
  extract_lets x changed s1 seq m due w s2
  rw [if_neg (by simp [x, hl, hp, hst])]
  have hput : ∀ n p u, (streamPut n p u).2.conns = u.conns ∧ (streamPut n p u).2.now = u.now := fun n p u =>
    ⟨Part.same_of_op (p := .conns) (by decide) (fun h => streamPut_stays h n p) u,
      Part.same_of_op (p := .now) (by decide) (fun h => streamPut_stays h n p) u⟩
  have hend : ∀ b : Bool, conn (if b then (streamPut (connStream s2 c) m s2).2 else s2) c = conn s2 c ∧
      (if b then (streamPut (connStream s2 c) m s2).2 else s2).now = s2.now := fun b => by
    cases b
    · exact ⟨rfl, rfl⟩
    · exact ⟨conn_congr (hput _ _ _).1 _, (hput _ _ _).2⟩
  have h1 : conn s1 c = conn s c ∧ safetyWord s1 c = safetyWord s c := by
    unfold s1
    split <;> exact ⟨rfl, rfl⟩
  rw [(hend _).1, (hend _).2]
  unfold s2
  rw [conn_onConn_same]
  refine ⟨rfl, h1.2, fun hsame => ?_⟩
  have hch : changed = false := by
    unfold changed x
    simp [hsame]
  unfold s1
  rw [hch]
  exact le_upto_now _ s

theorem connAccept_takes (c : Nat) (m : List Byte) (s : State) : conn (connAccept c m s) c =
    { conn s c with st := 2, seq := wNat (beAt m 4 4) + 1,
                    start := (if (conn s c).st = 1 then wNat (beAt m 4 4) else (conn s c).start),
                    wdEnd := s.now + rdf s (connKey c 8) 0 16 * 10 * usec, safe := beAt m 20 4 % 32, acting := false,
                    saddle := (cellByte m 17).testBit 1, spo := (cellByte m 17).testBit 2 } := by
  unfold connAccept
  extract_lets x seq due fl s1 s2
  have h2 : conn s2 c = conn s1 c := conn_forEach_wr _ _ _ _ _
  rw [conn_plumbEval]
  have h3 : conn (if x.st = 1 then raisePch (2 * c + 1) s2 else s2) c = conn s2 c := by
    split
    · exact conn_raisePch _ _ _
    · rfl
  rw [h3, h2]
  exact conn_onConn_same _ _ _

/-- A message in order that passes every check is accepted. -/
theorem checkMessage_accepts {c : Nat} {m : List Byte} {s : State} (hst : (conn s c).st = 2)
    (hcrc : plumbCrc (m.take 44) = wNat (beAt m 44 4)) (hid : beAt m 0 4 = (rd s (connKey c 4)).toNat) (hkind : cellByte m 16 = 1)
    (hseq : wNat (beAt m 4 4) = (conn s c).seq) (htime : timeOk s c m = true) : checkMessage c m s = connAccept c m s := by
  simp [checkMessage, hcrc, hid, hkind, hst, hseq, htime]

theorem consumeMessage_completes {c : Fin 8} {s : State} {x : List Byte × Byte × Nat} (hl : live s .ring = true)
    (hp : isProducer s c = false) (hok : connStreamOk s c = true) (hx : (streamTake (connStream s c) s).1 = some x)
    (hst : (conn s c).st = 2) (hcrc : plumbCrc ((padTo 48 x.1).take 44) = wNat (beAt (padTo 48 x.1) 44 4))
    (hid : beAt (padTo 48 x.1) 0 4 = (rd s (connKey c 4)).toNat) (hkind : cellByte (padTo 48 x.1) 16 = 1)
    (hseq : wNat (beAt (padTo 48 x.1) 4 4) = (conn s c).seq) (htime : timeOk s c (padTo 48 x.1) = true) :
    ∃ t, exec (.consumeMessage c) s = .next t ∧ (conn t c).st = 2 ∧ (conn t c).seq = (conn s c).seq + 1 ∧
      (conn t c).safe = beAt (padTo 48 x.1) 20 4 % 32 ∧ (conn t c).acting = false := by
  obtain ⟨m, fl, len⟩ := x
  have htake : ∃ f u, streamTake (connStream s c) s = (some (m, fl, len), onStream u f s) := by
    unfold streamTake at hx ⊢
    dsimp only at hx ⊢
    split at hx
    · exact nomatch hx
    · next h =>
      rw [if_neg h]
      exact ⟨_, _, Prod.ext hx rfl⟩
  obtain ⟨f, n, hs⟩ := htake
  refine ⟨_, rfl, ?_⟩
  unfold consume
  simp only [hl, hp, hok, hs, hst, Bool.not_true, Bool.or_self, Bool.false_eq_true, if_false, decide_true, Bool.or_true, if_true]
  rw [checkMessage_accepts (s := onStream n f s) hst hcrc hid hkind hseq htime, connAccept_takes]
  exact ⟨rfl, congrArg (· + 1) hseq, rfl, rfl⟩

theorem connectionWatchdog_completes {c : Fin 8} {s : State} (hst : (conn s c).st = 2) (hp : isProducer s c = false) :
    ∃ t, exec (.connectionWatchdog c) s = .next t ∧ (conn t c).st = 3 ∧ (conn t c).cause = 3 ∧ (conn s c).wdEnd ≤ t.now := by
  refine ⟨_, congrArg Host.Outcome.next (if_pos (by simp [hst, hp])), ?_⟩
  unfold connFail
  dsimp only
  rw [conn_plumbEval, conn_logHap, conn_raisePch, conn_onConn_same, plumbEval_now, logHap_now, raisePch, raise_now]
  exact ⟨rfl, rfl, le_upto_now _ s⟩

/-- Settles O25: each clause is the lemma of its command. -/
theorem plumbChannelCompletes : Obligations.PlumbChannelCompletes := by
  unfold Obligations.PlumbChannelCompletes
  exact ⟨fun _ _ _ h hh => connStart_completes h hh, fun _ _ _ h hh => connStop_completes h hh,
    fun _ _ => produceMessage_completes, fun _ _ _ => consumeMessage_completes, fun _ _ => connectionWatchdog_completes⟩

end Sys2Proof.Machine
end

section
/-! Statements about the router and the thermal controller that do not hold. -/

set_option Elab.async false

namespace Sys2Proof.Machine

/-- Channel 0 records; the head of event 0, of priority LOW, has waited longer than DL_LOW. -/
def overdueHead : Occ := { stamp := 0, route := 0x4040#32, merged := 0, promoted := false, doneA := false, doneB := false, since := 0 }

/-- The router with that head alone. -/
def overdueRouter : State := { runningBlock with
  now := secs
  evr := { runningBlock.evr with srcs := [(0, { q := [overdueHead] })] }
  regs := [(rk .evr 0 0x040, 1#32), (chanKey 0 0, 0x100#32)] }

/-- Refutes O29: a head whose deadline has passed is promoted before its channel delivers it (R439), and its record says so. -/
theorem not_routerCompletes : ¬ Obligations.RouterCompletes := by
  unfold Obligations.RouterCompletes
  rintro ⟨hdelivery, -⟩
  obtain ⟨t, ht, -, -, hrec, -⟩ := hdelivery 0 0 overdueHead overdueRouter (by decide +kernel) rfl (by decide) (by decide) rfl rfl
    (by decide +kernel) rfl (by decide +kernel) (by decide +kernel)
  have hpromoted : ∃ t, exec (.delivery 0) overdueRouter = .next t ∧ (chan t 0).recs = [(512#32, 0#32)] :=
    ⟨_, rfl, by decide +kernel⟩
  obtain ⟨u, hu, hurgent⟩ := hpromoted
  rw [ht] at hu
  cases hu
  exact absurd (hrec.symm.trans hurgent) (by decide)

/-- The thermal controller has cut off, with the fabric still reached. -/
def cutOffBlock : State := { runningBlock with pwr := { runningBlock.pwr with cut := true } }

/-- Refutes O44: after a cut-off a refused CLR_STOP raises no cause of the THERM page. -/
theorem not_stopIsClearedOnlyWhenCool : ¬ Obligations.StopIsClearedOnlyWhenCool := by
  unfold Obligations.StopIsClearedOnlyWhenCool
  rintro ⟨-, hrefused, -⟩
  obtain ⟨t, ht, -, hraised, -⟩ := hrefused .debug cutOffBlock (by decide +kernel) (.inl rfl)
  have hquiet : ∃ t, exec (.clrStop .debug) cutOffBlock = .next t ∧ rdb t (rk .therm 0 0x010) 4 = false :=
    ⟨_, rfl, by decide +kernel⟩
  obtain ⟨u, hu, hclear⟩ := hquiet
  rw [ht] at hu
  cases hu
  exact absurd (hraised.symm.trans hclear) (by decide)

end Sys2Proof.Machine
end

section
/-! Occurrences (R435 to R437): the queues of the sources through each update, and what a write of SW_RAISE does to one. -/

set_option Elab.async false

namespace Sys2Proof.Machine

/-! Queues -/

@[simp] theorem srcQ_setSrcQ_same (e : Nat) (q : SrcQ) (s : State) : srcQ (setSrcQ e q s) e = q := smGet_smSet_same _ _ _ _

theorem srcQ_setSrcQ_ne {e d : Nat} (h : d ≠ e) (q : SrcQ) (s : State) : srcQ (setSrcQ e q s) d = srcQ s d :=
  smGet_smSet_ne _ _ _ h

@[simp] theorem srcQ_incMod (k lo n : Nat) (s : State) (e : Nat) : srcQ (incMod k lo n s) e = srcQ s e := rfl

@[simp] theorem srcQ_busCycle (s : State) (e : Nat) : srcQ (busCycle s) e = srcQ s e := rfl

@[simp] theorem srcQ_wrb (k b : Nat) (v : Bool) (s : State) (e : Nat) : srcQ (wrb k b v s) e = srcQ s e := rfl

@[simp] theorem srcQ_setFresh (k b : Nat) (s : State) (e : Nat) : srcQ (setFresh k b s) e = srcQ s e := rfl

/-- An occurrence of another source leaves a queue. -/
theorem srcQ_occurCore_ne {e d : Nat} (h : d ≠ e) (s : State) : srcQ (occurCore e s).1 d = srcQ s d := by
  unfold occurCore
  dsimp only
  split
  · rfl
  · split
    · rfl
    · split
      · exact srcQ_setSrcQ_ne h _ _
      · split
        · exact srcQ_setSrcQ_ne h _ _
        · exact srcQ_setSrcQ_ne h _ _

theorem srcQ_occur_ne {e d : Nat} (h : d ≠ e) (h503 : d ≠ 503) (s : State) : srcQ (occur e s) d = srcQ s d := by
  unfold occur
  split
  next s1 m hcore =>
  have h1 : srcQ s1 d = srcQ s d := by
    rw [← srcQ_occurCore_ne h s, hcore]
  split
  · exact h1
  · dsimp only
    split
    · rw [srcQ_occurCore_ne h503, srcQ_setFresh, h1]
    · rw [srcQ_setFresh, h1]

/-- The causes of the PMC page are events below those of software. -/
theorem srcQ_raisePmc {d : Nat} (h : 504 ≤ d) (k : Nat) (s : State) : srcQ (raisePmc k s) d = srcQ s d := by
  have hgroup : causeGroup .pmc k ≤ 3 := by
    by_cases hk : k < 7
    · interval_cases k <;> decide
    · have hlen : [0, 1, 2, 2, 3, 3, 3].length ≤ k := Nat.le_of_not_lt hk
      simp [causeGroup, List.getD, List.getElem?_eq_none hlen]
  unfold raisePmc raise
  dsimp only
  split
  · have hevent : causeEvent .pmc 0 k = some (496 + causeGroup .pmc k) := rfl
    rw [hevent]
    dsimp only
    rw [srcQ_occur_ne (by omega) (by omega), srcQ_setFresh]
  · exact srcQ_setFresh _ _ _ _

section Counting

variable {d : Nat} (h : 504 ≤ d) (s : State)
include h

theorem srcQ_ctrOverflow (n : Nat) : srcQ (ctrOverflow n s) d = srcQ s d := by
  unfold ctrOverflow
  extract_lets c s1 s2 cl s3 s4
  have h3 : srcQ s3 d = srcQ s d := by unfold s3; split <;> rfl
  have h4 : srcQ s4 d = srcQ s d := by
    unfold s4
    split
    · rw [srcQ_raisePmc h, h3]
    · exact h3
  split
  · split <;> exact h4
  · exact h4

theorem srcQ_pmcCount (cls : Nat) (m : Option Doer) (a : Option Nat) : srcQ (pmcCount cls m a s) d = srcQ s d := by
  unfold pmcCount
  split
  · rfl
  · refine forEach_mem_keeps (π := (srcQ · d)) (fun n _ u => ?_) s
    split
    · split
      · unfold ctrStep
        split
        · rfl
        · exact srcQ_ctrOverflow h u n
      · rfl
      · rfl
    · rfl

/-- Counting an access leaves the queues of the software sources. -/
theorem srcQ_countedWrite (m : Master) (t : PageType) (n off : Nat) : srcQ (countedWrite m t n off s) d = srcQ s d := by
  have hcls : ∀ cls m a u, srcQ (pmcAccesses cls m a u) d = srcQ u d := fun cls m a u => by
    unfold pmcAccesses
    split
    · exact srcQ_pmcCount h u _ _ _
    · rfl
  unfold countedWrite pmcAccess
  dsimp only
  split
  · rw [hcls, hcls]
  · rw [hcls]

end Counting

/-! An occurrence (R435 to R437) -/

/-- The occurrence that a source has now. -/
def occNow (e : Nat) (s : State) : Occ :=
  { stamp := tickStamp s, route := rd s (rk .evr 0 (0x800 + 4 * e)), merged := 0, promoted := false, doneA := false, doneB := false,
    since := s.now }

/-- An occurrence that is not merged is all of what happens. -/
theorem occur_of_core {e : Nat} {s t : State} (h : occurCore e s = (t, false)) : occur e s = t := by
  rw [occur, h]
  rfl

section Occurs

variable {e : Nat} {s : State}

theorem occurCore_again (hl : (srcQ s e).last = some (s.now / 80)) : occurCore e s = (s, false) := by
  unfold occurCore
  dsimp only
  split
  · rfl
  · exact if_pos hl

variable (hup : fabricUp s = true) (hl : (srcQ s e).last ≠ some (s.now / 80))
include hup hl

theorem occurCore_dropped (hr : routed (rd s (rk .evr 0 (0x800 + 4 * e))) = false) :
    occurCore e s = (setSrcQ e { srcQ s e with last := some (s.now / 80) } s, false) := by
  unfold occurCore
  rw [hup, Bool.not_true, if_neg Bool.false_ne_true]
  dsimp only
  rw [if_neg (show ¬ (srcQ s e).last = some (s.now / fabCyc) from hl), hr]
  rfl

theorem occurCore_joins (hr : routed (rd s (rk .evr 0 (0x800 + 4 * e))) = true) (hlen : (srcQ s e).q.length < 4) :
    occurCore e s = (setSrcQ e { q := (srcQ s e).q ++ [occNow e s], last := some (s.now / 80) } s, false) := by
  unfold occurCore
  rw [hup, Bool.not_true, if_neg Bool.false_ne_true]
  dsimp only
  rw [if_neg (show ¬ (srcQ s e).last = some (s.now / fabCyc) from hl), hr, Bool.not_true, if_neg Bool.false_ne_true, if_pos hlen]
  rfl

theorem occurCore_merges (hr : routed (rd s (rk .evr 0 (0x800 + 4 * e))) = true) {a b c d : Occ} (hq : (srcQ s e).q = [a, b, c, d]) :
    occurCore e s = (incMod (rk .evr 0 0x050) 0 32 (setSrcQ e { q := [a, b, c, { d with merged := held 15 (d.merged + 1) }],
                                                                last := some (s.now / 80) } s), true) := by
  unfold occurCore
  rw [hup, Bool.not_true, if_neg Bool.false_ne_true]
  dsimp only
  rw [if_neg (show ¬ (srcQ s e).last = some (s.now / fabCyc) from hl), hr, Bool.not_true, if_neg Bool.false_ne_true, if_neg (by rw [hq]; exact Nat.lt_irrefl 4), hq]
  rfl

end Occurs

/-- An occurrence counts no merge where its queue has room. -/
theorem rd_occurCore_room {e : Nat} {s : State} (h : (srcQ s e).q.length < 4) (k : Nat) : rd (occurCore e s).1 k = rd s k := by
  unfold occurCore
  dsimp only
  split
  · rfl
  · split
    · rfl
    · split
      · rfl
      · rfl

/-- A whole register stepped, modulo its size. -/
theorem rd_incMod_whole (k : Nat) (s : State) : rd (incMod k 0 32 s) k = rd s k + 1 := by
  have h : rdf (incMod k 0 32 s) k 0 32 = (rdf s k 0 32 + 1) % 2 ^ 32 := rdf_wrf_same k 0 32 _ s (by decide)
  have hw : ∀ w : Word, fld w 0 32 = w.toNat := fun w => by simpa [fld] using w.isLt
  rw [rdf, rdf, hw, hw] at h
  exact BitVec.eq_of_toNat_eq (by rw [h, BitVec.toNat_add]; rfl)

/-- What a merge leaves: the count of the newest occurrence and MERGE_CNT step. -/
theorem occurCore_merges_leaves {e : Nat} {s : State} (hup : fabricUp s = true) (hl : (srcQ s e).last ≠ some (s.now / 80))
    (hr : routed (rd s (rk .evr 0 (0x800 + 4 * e))) = true) {a b c d : Occ} (hq : (srcQ s e).q = [a, b, c, d]) :
    ∃ u, occurCore e s = (u, true) ∧ (srcQ u e).q = [a, b, c, { d with merged := min 15 (d.merged + 1) }] ∧
      rd u (rk .evr 0 0x050) = rd s (rk .evr 0 0x050) + 1 ∧ rd u (rk .evr 0 0x014) = rd s (rk .evr 0 0x014) ∧
      ∀ f, f ≠ e → srcQ u f = srcQ s f := by
  refine ⟨_, occurCore_merges hup hl hr hq, ?_, ?_, ?_, fun f hf => ?_⟩
  · rw [srcQ_incMod, srcQ_setSrcQ_same, held_eq_min]
  · rw [rd_incMod_whole]
    rfl
  · exact rd_wrf_ne _ _ _ _ (by decide)
  · rw [srcQ_incMod, srcQ_setSrcQ_ne hf]

/-- A merge raises MERGE, whose own occurrence joins a queue with room. -/
theorem mergeRaised {e : Nat} {s u : State} (hcore : occurCore e s = (u, true)) (he : e ≠ 503)
    (hroom : rdb u (rk .evr 0 0x014) 2 = true → (srcQ u 503).q.length < 4) :
    srcQ (occur e s) e = srcQ u e ∧ rd (occur e s) (rk .evr 0 0x050) = rd u (rk .evr 0 0x050) ∧
      rdb (occur e s) (rk .evr 0 0x010) 2 = true := by
  have hen : rd (setFresh (rk .evr 0 0x010) 2 u) (rk .evr 0 0x014) = rd u (rk .evr 0 0x014) := rd_setFresh_ne _ _ (by decide)
  have hcnt : rd (setFresh (rk .evr 0 0x010) 2 u) (rk .evr 0 0x050) = rd u (rk .evr 0 0x050) := rd_setFresh_ne _ _ (by decide)
  have hset := rdb_setFresh_same (rk .evr 0 0x010) 2 u (by decide)
  rw [occur, hcore]
  dsimp only
  rw [Bool.not_true, if_neg Bool.false_ne_true]
  split
  next hraise =>
    have hq : (srcQ (setFresh (rk .evr 0 0x010) 2 u) 503).q.length < 4 := hroom (by
      rw [rdb, ← hen]
      exact (Bool.and_eq_true _ _ |>.mp hraise).2)
    rw [srcQ_occurCore_ne he, rdb, rd_occurCore_room hq, rd_occurCore_room hq]
    exact ⟨rfl, hcnt, hset⟩
  next => exact ⟨rfl, hcnt, hset⟩

/-! Software sources (R443) -/

theorem setBits_shift (j : Fin 8) : setBits (wNat (1#8 <<< j.val).toNat) 8 = [j.val] := by
  fin_cases j <;> decide

section Software

variable {m : Master} {j : Fin 8} {s : State} (h : reaches s m .evr 0x054 = true)
include h

theorem swRaise_one : exec (.swRaise m (1#8 <<< j.val)) s =
    .next (busCycle (occur (504 + j) (countedWrite m .evr 0 0x054 s))) := by
  refine (congrArg Host.Outcome.next (byBus_reaches h)).trans ?_
  rw [setBits_shift]
  rfl

theorem fabricUp_counted : fabricUp (countedWrite m .evr 0 0x054 s) = true := by
  have hup : fabricUp s = true := by
    simp only [reaches, pageUp, Bool.and_eq_true] at h
    exact h.1.1.1.1
  rw [fabricUp, domOn, countedWrite, pmcAccess_clk, pmcAccess_pwr]
  exact hup

omit h in
theorem rd_counted_evr {off : Nat} (ho : off < 0x1000) (hc : ¬ countOff off) :
    rd (countedWrite m .evr 0 0x054 s) (rk .evr 0 off) = rd s (rk .evr 0 off) := by
  refine rd_countedWrite_off ?_ _ _ _ _ _
  rwa [show rk .evr 0 off % 0x1000 = off by simp only [rk]; omega]

omit h in
theorem route_counted : rd (countedWrite m .evr 0 0x054 s) (rk .evr 0 (0x800 + 4 * (504 + j))) =
    rd s (rk .evr 0 (0x800 + 4 * (504 + j))) := by
  have hj := j.isLt
  exact rd_counted_evr (by omega) (by unfold countOff; omega)

theorem raiseJoins_completes (hr : routed (rd s (rk .evr 0 (0x800 + 4 * (504 + j)))) = true)
    (hl : (srcQ s (504 + j)).last ≠ some (s.now / 80)) (hlen : (srcQ s (504 + j)).q.length < 4) :
    ∃ t, exec (.swRaise m (1#8 <<< j.val)) s = .next t ∧
      (srcQ t (504 + j)).q.length = (srcQ s (504 + j)).q.length + 1 ∧ t.regs = (countedWrite m .evr 0 0x054 s).regs ∧
      (srcQ t (504 + j)).q.take (srcQ s (504 + j)).q.length = (srcQ s (504 + j)).q := by
  have hq := srcQ_countedWrite (show 504 ≤ 504 + j.val by omega) s m .evr 0 0x054
  refine ⟨_, swRaise_one h, ?_⟩
  rw [occur_of_core (occurCore_joins (fabricUp_counted h) (by rwa [hq, countedWrite_now]) (by rwa [route_counted]) (by rwa [hq])),
    srcQ_busCycle, srcQ_setSrcQ_same, hq]
  exact ⟨List.length_append, rfl, List.take_left⟩

theorem raiseMerges_completes {a b c d : Occ} (hr : routed (rd s (rk .evr 0 (0x800 + 4 * (504 + j)))) = true)
    (hl : (srcQ s (504 + j)).last ≠ some (s.now / 80)) (hq : (srcQ s (504 + j)).q = [a, b, c, d])
    (hroom : rdb s (rk .evr 0 0x014) 2 = true → (srcQ (countedWrite m .evr 0 0x054 s) 503).q.length < 4) :
    ∃ t, exec (.swRaise m (1#8 <<< j.val)) s = .next t ∧
      (srcQ t (504 + j)).q = [a, b, c, { d with merged := min 15 (d.merged + 1) }] ∧
      rd t (rk .evr 0 0x050) = rd (countedWrite m .evr 0 0x054 s) (rk .evr 0 0x050) + 1 ∧ rdb t (rk .evr 0 0x010) 2 = true := by
  have hc := srcQ_countedWrite (show 504 ≤ 504 + j.val by omega) s m .evr 0 0x054
  refine ⟨_, swRaise_one h, ?_⟩
  have hen : rd (countedWrite m .evr 0 0x054 s) (rk .evr 0 0x014) = rd s (rk .evr 0 0x014) :=
    rd_counted_evr (by decide) (by unfold countOff; omega)
  obtain ⟨u, hcore, hone, hcnt, hu14, hother⟩ := occurCore_merges_leaves (fabricUp_counted h)
    (by rwa [hc, countedWrite_now]) (by rwa [route_counted]) (by rwa [hc])
  obtain ⟨hqs, hcnt', hset⟩ := mergeRaised hcore (by omega) (fun he => by
    rw [hother 503 (by omega)]
    exact hroom (by rwa [rdb, ← hen, ← hu14]))
  rw [srcQ_busCycle, hqs, rd_busCycle, hcnt', rdb, rd_busCycle]
  exact ⟨hone, hcnt, hset⟩

theorem raiseDropped_completes
    (hd : routed (rd s (rk .evr 0 (0x800 + 4 * (504 + j)))) = false ∨ (srcQ s (504 + j)).last = some (s.now / 80)) :
    ∃ t, exec (.swRaise m (1#8 <<< j.val)) s = .next t ∧ (srcQ t (504 + j)).q = (srcQ s (504 + j)).q ∧
      t.regs = (countedWrite m .evr 0 0x054 s).regs := by
  have hq := srcQ_countedWrite (show 504 ≤ 504 + j.val by omega) s m .evr 0 0x054
  refine ⟨_, swRaise_one h, ?_⟩
  by_cases hl : (srcQ s (504 + j)).last = some (s.now / 80)
  · rw [occur_of_core (occurCore_again (by rwa [hq, countedWrite_now])), srcQ_busCycle, hq]
    exact ⟨rfl, rfl⟩
  · have hr := hd.resolve_right hl
    rw [occur_of_core (occurCore_dropped (fabricUp_counted h) (by rwa [hq, countedWrite_now]) (by rwa [route_counted])),
      srcQ_busCycle, srcQ_setSrcQ_same, hq]
    exact ⟨rfl, rfl⟩

end Software

/-- Settles O45: a queue with room, a full queue, and what makes no occurrence. -/
theorem occurrencesQueueOrMerge : Obligations.OccurrencesQueueOrMerge := by
  unfold Obligations.OccurrencesQueueOrMerge
  exact ⟨fun _ _ _ h => raiseJoins_completes h, fun _ _ _ _ _ _ _ h => raiseMerges_completes h,
    fun _ _ _ h => raiseDropped_completes h⟩

end Sys2Proof.Machine
end

section
/-! The trouble log (R445 to R450, R459): submission, writing, reading, clearing and replay. -/

set_option Elab.async false

namespace Sys2Proof.Machine

@[simp] theorem countedWrite_log (m : Master) (t : PageType) (n off : Nat) (s : State) : (countedWrite m t n off s).log = s.log :=
  pmcAccess_log _ _ _ _ _

@[simp] theorem countedWrite_valley (m : Master) (t : PageType) (n off : Nat) (s : State) :
    (countedWrite m t n off s).valley = s.valley := pmcAccess_valley _ _ _ _ _

/-! Submission (R446) -/

/-- An entry of the domain's own writers joins the reorder buffer while it has room. -/
theorem submitEntry_room {e : LogEnt} {s : State} (hv : e.valley = false) (hb : s.log.buffer.length < 64) :
    submitEntry e s = { s with log := { s.log with buffer := s.log.buffer ++ [(e, s.now)] } } := by
  rw [submitEntry, hv, Bool.false_and, if_neg Bool.false_ne_true, decide_eq_false (Nat.not_le.mpr hb)]
  rfl

/-- The entry submitted next is a stamped one; only a free value is taken. -/
theorem nextSubmit_mem {s : State} (h : s.log.stamped ≠ []) :
    ∃ e t, nextSubmit s = (some e, t) ∧ e ∈ s.log.stamped ∧ t.log = s.log ∧ t.now = s.now := by
  unfold nextSubmit
  split
  next hs => exact absurd hs h
  next e es hs =>
    dsimp only
    split
    · exact ⟨e, s, rfl, hs ▸ List.mem_cons_self, rfl, rfl⟩
    · have hpos : 0 < (((e :: es).map logWriter).eraseDups).length := by
        rw [List.map_cons, List.eraseDups_cons]
        exact Nat.succ_pos _
      have hw := List.mem_eraseDups.mp (List.getElem_mem (Nat.mod_lt (draw s).1.toNat hpos))
      obtain ⟨x, hx, hxw⟩ := List.mem_map.mp hw
      rw [List.getD_eq_getElem _ _ (Nat.mod_lt _ hpos), ← hxw]
      have hsome : ((e :: es).find? fun y => decide (logWriter y = logWriter x)).isSome = true :=
        List.find?_isSome.mpr ⟨x, hx, decide_eq_true rfl⟩
      obtain ⟨y, hy⟩ := Option.isSome_iff_exists.mp hsome
      exact ⟨y, (draw s).2, by rw [hy], hs ▸ List.mem_of_find?_eq_some hy, rfl, rfl⟩

theorem submitLog_some {e : LogEnt} {s t : State} (hpor : s.valley.por = false) (hn : nextSubmit s = (some e, t)) :
    submitLog s = submitEntry e { t with log := { t.log with stamped := t.log.stamped.erase e } } := by
  rw [submitLog, hpor, if_neg Bool.false_ne_true, hn]

theorem logSubmitOneWriter_completes {e : LogEnt} {es : List LogEnt} {s : State} (hst : s.log.stamped = e :: es)
    (hv : e.valley = false) (hpor : s.valley.por = false) (hb : s.log.buffer.length < 64)
    (hw : (es.all fun x => decide (logWriter x = logWriter e)) = true) :
    ∃ t, exec .logSubmit s = .next t ∧ t.log.stamped = es ∧ t.log.buffer = s.log.buffer ++ [(e, s.now)] := by
  have hn : nextSubmit s = (some e, s) := by
    unfold nextSubmit
    split
    next hs => exact absurd (hst.symm.trans hs) (by simp)
    next x xs hs =>
      obtain ⟨rfl, rfl⟩ := List.cons.inj (hst.symm.trans hs)
      exact if_pos (by simpa [List.all_map, Function.comp_def] using hw)
  refine ⟨_, congrArg Host.Outcome.next ((submitLog_some hpor hn).trans (submitEntry_room hv hb)), ?_, rfl⟩
  rw [hst]
  exact List.erase_cons_head _ _

theorem logSubmitAnyWriter_completes {s : State} (hne : s.log.stamped ≠ [])
    (hall : (s.log.stamped.all fun x => !x.valley) = true) (hpor : s.valley.por = false) (hb : s.log.buffer.length < 64) :
    ∃ t, exec .logSubmit s = .next t ∧ t.log.stamped.length + 1 = s.log.stamped.length ∧
      t.log.buffer.length = s.log.buffer.length + 1 ∧ (t.log.buffer.getLast?.map (·.2)) = some s.now := by
  obtain ⟨e, t, hn, he, hlog, hnow⟩ := nextSubmit_mem hne
  have hv : e.valley = false := by simpa using List.all_eq_true.mp hall e he
  refine ⟨_, congrArg Host.Outcome.next ((submitLog_some hpor hn).trans (submitEntry_room hv (by rwa [hlog]))), ?_, ?_, ?_⟩
  · have hpos := List.length_pos_of_mem he
    dsimp only
    rw [hlog, List.length_erase_of_mem he]
    omega
  · simp [hlog]
  · simp [hnow]

/-- A software entry before Datum is valid is stamped on RTC time (R446, R459). -/
theorem goLog_completes {m : Master} {code : Byte} {s : State} (h : reaches s m .evr 0x08C = true) (hd : datumValid s = false)
    (hb : s.log.buffer.length < 64) :
    ∃ t, exec (.goLog m code) s = .next t ∧
      t.log.buffer = s.log.buffer ++ [({
          time := rtcNow s, rtc := true, page := 2, code := code.toNat, valley := false,
          payload := [rd s (rk .evr 0 0x080), rd s (rk .evr 0 0x084), rd s (rk .evr 0 0x088)],
          epoch := s.log.epoch, loads := rtcLoads s, turn := s.log.lastDatum }, s.now)] := by
  have hcore : coreUp (countedWrite m .evr 0 0x08C s) = true := by
    simp only [reaches, pageUp, fabricUp, Bool.and_eq_true] at h
    obtain ⟨⟨⟨⟨⟨⟨_, hnone⟩, hon⟩, _⟩, _⟩, _⟩, _⟩ := h
    rw [coreUp, domOn, countedWrite, pmcAccess_pwr, Bool.and_eq_true]
    refine ⟨hon, decide_eq_true fun hr => ?_⟩
    rw [hr] at hnone
    exact Bool.false_ne_true hnone
  have hd' : datumValid (countedWrite m .evr 0 0x08C s) = false := by rwa [datumValid, countedWrite_datum]
  have hrd : ∀ i < 3, rd (countedWrite m .evr 0 0x08C s) (rk .evr 0 (0x080 + 4 * i)) = rd s (rk .evr 0 (0x080 + 4 * i)) := by
    intro i hi
    have hk : ¬ countOff (rk .evr 0 (0x080 + 4 * i) % 0x1000) := by interval_cases i <;> (unfold countOff; decide)
    exact rd_countedWrite_off hk _ _ _ _ _
  have hrtc : rtcNow (countedWrite m .evr 0 0x08C s) = rtcNow s := by
    have htrim : rdsf (countedWrite m .evr 0 0x08C s) (rk .valley 0 0x080) 0 8 = rdsf s (rk .valley 0 0x080) 0 8 := by
      have hk : ¬ countOff (rk .valley 0 0x080 % 0x1000) := by unfold countOff; decide
      rw [rdsf, rd_countedWrite_off hk]
      rfl
    rw [rtcNow, rtcStart, countedWrite_valley, countedWrite_now, htrim]
    rfl
  refine ⟨_, congrArg Host.Outcome.next (byBus_reaches h), ?_⟩
  rw [goLog, submitEntry_room (by rw [stampEntry, hcore]; rfl) (by rwa [countedWrite_log]), busCycle_log]
  dsimp only
  rw [countedWrite_log, countedWrite_now, stampEntry, hcore, hd', Bool.false_and, hrtc, countedWrite_log, rtcLoads, countedWrite_log,
    countedWrite_valley, countedWrite_now]
  simp only [List.range_succ, List.range_zero, List.nil_append, List.map_cons, List.map_nil, List.cons_append,
    hrd 0 (by decide), hrd 1 (by decide), hrd 2 (by decide)]
  rfl

/-! Writing (R446 to R448) -/

/-- An entry in time order, with no MARK due before it, is written where the log has room. -/
theorem appendEntry_inOrder {e : LogEnt} {s : State} (hv : e.valley = false) (hboot : s.log.bootMark = false)
    (hlost : s.log.lostSince = 0) (hst : s.log.started = true) (hep : e.epoch ≤ s.log.lastEpoch) (ht : lastOn e s ≤ e.time)
    (hc : s.log.count < 4096) : appendEntry e s = putEntry e (markSpan e s) := by
  have hspan : (markSpan e s).log = { s.log with lastRtc := if e.mark && e.rtc then 0 else s.log.lastRtc } := by
    unfold markSpan
    split <;> rfl
  have hstops : logStops (markSpan e s) = false := by
    rw [logStops, hspan, decide_eq_false (Nat.not_le.mpr hc), Bool.and_false]
  have hmarks : putMarks e (markSpan e s) = markSpan e s := by
    have hbase : putBaseMark e (markSpan e s) = markSpan e s := by
      rw [putBaseMark, hspan]
      dsimp only
      rw [hboot, if_neg Bool.false_ne_true, decide_eq_false (Nat.not_lt.mpr hep), Bool.and_false, if_neg Bool.false_ne_true]
    rw [putMarks, hbase]
    exact if_pos (by rw [hspan]; simp [hlost])
  have hlast : lastOn e (markSpan e s) ≤ e.time := by
    refine le_trans ?_ ht
    rw [lastOn, lastOn, hspan, hst]
    cases e.rtc <;> cases e.mark <;> simp
  unfold appendEntry
  dsimp only
  rw [hv, Bool.false_and, if_neg Bool.false_ne_true, hstops, if_neg Bool.false_ne_true, hmarks, hstops, if_neg Bool.false_ne_true,
    if_neg (Nat.not_lt.mpr hlast)]

theorem logWrite_completes {e : LogEnt} {a : Nat} {s : State} (hr : s.log.replay = false) (hpor : s.valley.por = false)
    (hb : s.log.buffer = [(e, a)]) (hv : e.valley = false) (hboot : s.log.bootMark = false) (hlost : s.log.lostSince = 0)
    (hst : s.log.started = true) (hep : e.epoch ≤ s.log.lastEpoch) (ht : lastOn e s ≤ e.time) (hc : s.log.count < 4096) :
    ∃ t, exec .logWrite s = .next t ∧ t.log.buffer = [] ∧ a + logHold s ≤ t.now ∧ t.log.head = (s.log.head + 1) % 4096 ∧
      t.log.seq = (s.log.seq + 1) % 2 ^ 32 ∧ t.log.count = s.log.count + 1 ∧
      t.log.entries = smPut s.log.head (entryWords s.log.seq e) s.log.entries := by
  have hnext : nextEntry (upto (a + logHold s) s) = some (e, a) := by rw [nextEntry, upto_log, hb]; rfl
  have hexec : exec .logWrite s = .next (appendEntry e
      { upto (a + logHold s) s with log := { s.log with buffer := s.log.buffer.erase (e, a) } }) := by
    refine congrArg Host.Outcome.next ?_
    rw [hr, hpor, Bool.false_or, if_neg Bool.false_ne_true]
    split
    next hnil => exact absurd (hb.symm.trans hnil) (by simp)
    next x xs hx =>
      obtain ⟨rfl, _⟩ := List.cons.inj (hb.symm.trans hx)
      rw [if_neg (by rw [hb]; exact Nat.not_le.mpr (by decide : 1 < 64)), writeNext, hnext]
      rfl
  refine ⟨_, hexec.trans (congrArg Host.Outcome.next (appendEntry_inOrder hv hboot hlost hst hep ht hc)), ?_⟩
  rw [markSpan]
  have herase : s.log.buffer.erase (e, a) = [] := by rw [hb]; exact List.erase_cons_head _ _
  have hheld : held 4096 (s.log.count + 1) = s.log.count + 1 := by rw [held_eq_min]; omega
  split
  · exact ⟨herase, le_upto_now _ _, rfl, rfl, hheld, rfl⟩
  · exact ⟨herase, le_upto_now _ _, rfl, rfl, hheld, rfl⟩

/-! Reading (R449, R450) -/

theorem rdf_setLog (g : Log) (s : State) (k lo n : Nat) : rdf { s with log := g } k lo n = rdf s k lo n := rfl

section Reading

variable {m : Master} {s : State} (h : pageUp s .evr 0x074 = true)
include h

/-- A word of the entry that LOG_IDX names is answered; the eighth moves LOG_IDX on. -/
theorem logDataRead_completes :
    ∃ t, exec (.logDataRead m) s = .next t ∧ t.bus.err = false ∧ t.log.rword = (s.log.rword + 1) % 8 ∧
      t.bus.rdata = (smGet (smConst (List.replicate 8 0#32)) s.log.entries (rdf s (rk .evr 0 0x070) 0 12)).getD s.log.rword 0 ∧
      rdf t (rk .evr 0 0x070) 0 12 =
        if s.log.rword = 7 then (rdf s (rk .evr 0 0x070) 0 12 + 1) % 4096 else rdf s (rk .evr 0 0x070) 0 12 := by
  have hlog : (countedRead m .evr 0 0x074 s).log = s.log := pmcAccess_log _ _ _ _ _
  have hk : ¬ countKey (rk .evr 0 0x070) := by
    simp only [countKey, mergeKey, pmcKey, rk, pageFirst]
    omega
  have hidx : rdf (countedRead m .evr 0 0x074 s) (rk .evr 0 0x070) 0 12 = rdf s (rk .evr 0 0x070) 0 12 := by
    rw [rdf, rdf, countedRead, rd_pmcAccess hk]
  refine ⟨_, congrArg Host.Outcome.next (readAt_up h), ?_⟩
  dsimp only
  rw [hlog, hidx]
  refine ⟨rfl, ?_, ?_, ?_⟩
  · rfl
  · rfl
  · rw [rdf, rd_respond, ← rdf, rdf_setLog]
    split
    next hw => exact rdf_wrf_same _ _ _ _ _ (by decide)
    next hw => exact (congrArg (fld · 0 12) (rd_wrb_ne _ _ _ (by decide))).trans hidx

end Reading

/-! Clearing and replay (R448, R449) -/

theorem logFullClear_completes {m : Master} {s : State} (h : reaches s m .evr 0x064 = true) (hpor : s.valley.por = false) :
    ∃ t, exec (.logFullClear m) s = .next t ∧ t.log.full = false ∧ t.log.count = 1 ∧ t.log.head = 1 ∧
      t.log.seq = (s.log.seq + 1) % 2 ^ 32 ∧ t.log.entries.length = 1 := by
  refine ⟨_, congrArg Host.Outcome.next (byBus_reaches h), ?_⟩
  rw [clearLogFull, countedWrite_valley, hpor, if_neg Bool.false_ne_true, busCycle_log]
  have hseq : (emptyLog (countedWrite m .evr 0 0x064 s)).log.seq = s.log.seq := by
    rw [emptyLog, countedWrite_log]
  exact ⟨rfl, rfl, rfl, congrArg (fun n => (n + 1) % 2 ^ 32) hseq, rfl⟩

theorem replayDone_completes {s : State} (hup : fabricUp s = true) (hr : s.log.replay = true) (hpor : s.valley.por = false)
    (he : s.log.entries = []) :
    ∃ t, exec .replayDone s = .next t ∧ t.log.replay = false ∧ t.log.head = 0 ∧ t.log.bad = 0 ∧ t.log.bootMark = true := by
  refine ⟨replayLog s, congrArg Host.Outcome.next (if_pos (by simp [hup, hr, hpor])), ?_⟩
  rw [replayLog, he]
  exact ⟨rfl, rfl, rfl, rfl⟩

/-- Settles O30: submission, writing, reading, clearing and replay. -/
theorem troubleLogCompletes : Obligations.TroubleLogCompletes := by
  unfold Obligations.TroubleLogCompletes
  refine ⟨fun _ _ _ => logSubmitOneWriter_completes, fun _ => logSubmitAnyWriter_completes, fun _ _ _ => goLog_completes,
    fun _ _ _ => logWrite_completes, fun _ s h hw => ?_, fun _ s h hw => ?_, fun _ _ => logFullClear_completes,
    fun _ => replayDone_completes⟩
  · obtain ⟨t, ht, herr, hword, hdata, hidx⟩ := logDataRead_completes h
    refine ⟨t, ht, herr, by omega, hdata, ?_⟩
    rwa [if_neg (by omega)] at hidx
  · obtain ⟨t, ht, herr, hword, hdata, hidx⟩ := logDataRead_completes h
    rw [hw] at hword hdata hidx
    exact ⟨t, ht, herr, hword, hdata, hidx⟩

end Sys2Proof.Machine
end

section
/-! Clocks (R462 to R479): what a change of Datum's validity leaves of the clock registers, and the commands. -/

set_option Elab.async false

namespace Sys2Proof.Machine

/-! Registers below the plant's pages -/

/-- A register of a system page (SYS, CLK, EVR, THERM) that no occurrence writes. -/
def systemKey (k : Nat) : Prop := k < 0x100000 ∧ ¬ mergeKey k

theorem clkKey_systemKey {off : Nat} (ho : off < 0x1000) : systemKey (clkKey off) := by
  simp only [systemKey, mergeKey, clkKey, rk, pageFirst]
  omega

theorem clkKey_inj {a b : Nat} : clkKey a = clkKey b ↔ a = b := rk_inj

section SystemKeys

variable {k : Nat} (hk : systemKey k)
include hk

theorem systemKey.ne_rk {t : PageType} (ht : 0x100 ≤ pageFirst t) (n off : Nat) : k ≠ rk t n off := by
  have hlt := hk.1
  simp only [rk]
  omega

theorem rd_raise_plant {t : PageType} (ht : 0x100 ≤ pageFirst t) (n c : Nat) (s : State) : rd (raise t n c s) k = rd s k :=
  rd_raise s (hk.ne_rk ht _ _) hk.2

theorem rd_raiseDomain_system (d : Nat) (s : State) : rd (raiseDomain d s) k = rd s k := by
  unfold raiseDomain
  split
  · exact rd_raise_plant hk (by decide) _ _ s
  · rfl

theorem rd_domKey_wrf {d off lo n v : Nat} (s : State) : rd (wrf (domKey d off) lo n v s) k = rd s k :=
  rd_wrf_ne _ _ _ _ (hk.ne_rk (t := .pwmg) (by decide) _ _)

theorem rd_lockFollowsDatum_system (s : State) : rd (lockFollowsDatum s) k = rd s k := by
  unfold lockFollowsDatum testWaiting
  dsimp only
  split
  · refine forEach_mem_keeps (π := (rd · k)) (fun d _ u => ?_) s
    split
    · rfl
    · split
      · rw [refuseLock, rd_raiseDomain_system hk, wrb, rd_domKey_wrf hk, wrb, rd_domKey_wrf hk, setLock, rd_domKey_wrf hk]
      · split
        · exact rd_domKey_wrf hk u
        · rfl
  · refine forEach_mem_keeps (π := (rd · k)) (fun d _ u => ?_) s
    split
    · have hset : ∀ x v, rd (setDom d x v) k = rd v k := fun _ _ => rfl
      rw [hset, wrb, rd_domKey_wrf hk, setLock, rd_domKey_wrf hk]
    · rfl

theorem rd_gensLoseDatum_system (s : State) : rd (gensLoseDatum s) k = rd s k := by
  have hgen : ∀ g lo n v u, rd (wrf (genKey g 0x24) lo n v u) k = rd u k := fun g lo n v u =>
    rd_wrf_ne _ _ _ _ (hk.ne_rk (t := .snd) (by decide) _ _)
  unfold gensLoseDatum
  refine forEach_mem_keeps (π := (rd · k)) (fun g _ u => ?_) s
  split
  · have hon : ∀ f v, rd (onGen g f v) k = rd v k := fun _ _ => rfl
    unfold abortGen
    split
    · exact hgen _ _ _ _ _
    · dsimp only
      rw [rd_raise_plant hk (by decide), hon, setGenState, hgen, genFlag, wrb, hgen]
  · rfl

theorem rd_islRefresh_system (s : State) : rd (islRefresh s) k = rd s k := by
  have hraise : ∀ c u, rd (raiseIsl c u) k = rd u k := fun c u => rd_raise_plant hk (by decide) _ _ u
  unfold islRefresh
  extract_lets ok s1
  have h1 : rd s1 k = rd s k := by unfold s1; split <;> rfl
  split
  · split
    · exact h1
    · exact (hraise _ _).trans h1
  · split
    · exact h1
    · exact (hraise _ _).trans h1
  · split
    · exact h1
    · exact (hraise _ _).trans h1
  · exact h1

/-- Datum's validity reaches no register of a system page. -/
theorem rd_datumRefresh_system (s : State) : rd (datumRefresh s) k = rd s k := by
  have hraise : ∀ c u, rd (raiseDat c u) k = rd u k := fun c u => rd_raise_plant hk (by decide) _ _ u
  unfold datumRefresh
  dsimp only
  split
  · rfl
  · split
    · rw [rd_islRefresh_system hk, rd_lockFollowsDatum_system hk, hraise]
      exact rd_keepEra s k
    · rw [rd_islRefresh_system hk, rd_gensLoseDatum_system hk, rd_lockFollowsDatum_system hk, hraise]
      exact rd_keepEra s k

end SystemKeys

/-! The root clock -/

@[simp] theorem datumRefresh_clk (s : State) : (datumRefresh s).clk = s.clk :=
  Part.same_of_op (p := .clk) (by decide) (fun h => datumRefresh_stays h) s

@[simp] theorem datumRefresh_now (s : State) : (datumRefresh s).now = s.now :=
  Part.same_of_op (p := .now) (by decide) (fun h => datumRefresh_stays h) s

@[simp] theorem settle_clk (us s : State) : (settle us s).clk = s.clk :=
  Part.same_of_op (p := .clk) (by decide) (fun h => settle_stays h us) s

@[simp] theorem settle_holds (us s : State) : (settle us s).holds = s.holds :=
  Part.same_of_op (p := .holds) (by decide) (fun h => settle_stays h us) s

@[simp] theorem settle_now (us s : State) : (settle us s).now = s.now :=
  Part.same_of_op (p := .now) (by decide) (fun h => settle_stays h us) s

@[simp] theorem logLoss_clk (page : Nat) (delib : Bool) (s : State) : (logLoss page delib s).clk = s.clk := rfl

@[simp] theorem rd_logLoss (page : Nat) (delib : Bool) (s : State) (k : Nat) : rd (logLoss page delib s) k = rd s k := rfl

@[simp] theorem raiseClk_clk (k : Nat) (s : State) : (raiseClk k s).clk = s.clk := raise_clk _ _ _ _

theorem rd_raiseClk {off : Nat} (ho : off < 0x1000) (hne : off ≠ 0x010) (k : Nat) (s : State) :
    rd (raiseClk k s) (clkKey off) = rd s (clkKey off) :=
  rd_raise s (fun h => hne (rk_inj.mp h)) (clkKey_systemKey ho).2

theorem rdb_raiseClk {k : Nat} (hk : k < 32) (s : State) : rdb (raiseClk k s) (clkKey 0x010) k = true :=
  rdb_raise _ _ _ _ hk (by decide)

theorem rdb_raiseClk_ne {k b : Nat} (hb : b < 32) (h : b ≠ k) (s : State) :
    rdb (raiseClk k s) (clkKey 0x010) b = rdb s (clkKey 0x010) b :=
  rdb_raise_ne _ _ _ _ _ hb h (clkKey_systemKey (by decide)).2

section OutEn

variable (s : State)

@[simp] theorem checkOutEn_clk : (checkOutEn s).clk = s.clk := by
  unfold checkOutEn
  split
  · exact raise_clk _ _ _ _
  · rfl

@[simp] theorem checkOutEn_holds : (checkOutEn s).holds = s.holds := by
  unfold checkOutEn
  split
  · exact raise_holds _ _ _ _
  · rfl

@[simp] theorem checkOutEn_now : (checkOutEn s).now = s.now := by
  unfold checkOutEn
  split
  · exact raise_now _ _ _ _
  · rfl

theorem rdb_checkOutEn_clk (b : Nat) : rdb (checkOutEn s) (rk .clk 0 0x010) b = rdb s (clkKey 0x010) b := by
  unfold checkOutEn
  split
  · exact congrArg (bit · b) (rd_raise _ (by decide) (clkKey_systemKey (off := 0x010) (by decide)).2)
  · rfl

end OutEn

/-- Out of lock: the root goes on holdover, holds its legs and looks for its reference again (R465, R467). -/
theorem loseLock_clk {s : State} (h : s.clk.locked = true) (delib : Bool) : ∃ stops, (loseLock delib s).clk =
    { s.clk with locked := false, holdover := true, delib := delib, acquiring := false, pllHold := true, qualFrom := some s.now,
                 outStop := stops } := by
  unfold loseLock
  rw [h, Bool.not_true, if_neg Bool.false_ne_true]
  dsimp only
  rw [logLoss_clk, raiseClk_clk, incHeld_clk, settle_clk]
  exact ⟨_, rfl⟩

theorem rd_loseLock {off : Nat} (ho : off < 0x1000) (hne : off ≠ 0x010) (hloss : off ≠ 0x050) (delib : Bool) (s : State) :
    rd (loseLock delib s) (clkKey off) = rd s (clkKey off) := by
  unfold loseLock
  split
  · rfl
  · dsimp only
    rw [rd_logLoss, rd_raiseClk ho hne, incHeld, rd_wrf_ne _ _ _ _ (fun h => hloss (clkKey_inj.mp h)), rd_settle]
    rfl

/-- The losses of lock are counted up to the largest value. -/
theorem rdf_loseLock_count {s : State} (h : s.clk.locked = true) (delib : Bool) :
    rdf (loseLock delib s) (clkKey 0x050) 0 16 = min 0xFFFF (rdf s (clkKey 0x050) 0 16 + 1) := by
  unfold loseLock
  rw [h, Bool.not_true, if_neg Bool.false_ne_true]
  dsimp only
  rw [rdf, rd_logLoss, rd_raiseClk (by decide) (by decide), ← rdf, incHeld, rdf_wrf_same _ _ _ _ _ (by decide), held_eq_min, rdf,
    rd_settle, ← rdf]
  refine (Nat.mod_eq_of_lt (Nat.lt_of_le_of_lt (min_le_left _ _) (by decide))).trans ?_
  rfl

theorem rdb_loseLock {s : State} (h : s.clk.locked = true) (delib : Bool) : rdb (loseLock delib s) (clkKey 0x010) 0 = true := by
  unfold loseLock
  rw [h, Bool.not_true, if_neg Bool.false_ne_true]
  exact rdb_raiseClk (by decide) _

/-- A loss of lock raises no cause but LOCK_LOST. -/
theorem rdb_loseLock_ne {b : Nat} (hb : b < 32) (h : b ≠ 0) (delib : Bool) (s : State) :
    rdb (loseLock delib s) (clkKey 0x010) b = rdb s (clkKey 0x010) b := by
  unfold loseLock
  split
  · rfl
  · dsimp only
    rw [rdb, rd_logLoss, ← rdb, rdb_raiseClk_ne hb h, incHeld, rdb, rd_wrf_ne _ _ _ _ (by decide), rd_settle]
    rfl

theorem rdb_datumRefresh_clk (b : Nat) (s : State) : rdb (datumRefresh s) (rk .clk 0 0x010) b = rdb s (clkKey 0x010) b :=
  congrArg (bit · b) (rd_datumRefresh_system (clkKey_systemKey (off := 0x010) (by decide)) s)

section Synth

variable {s : State} (hon : synthOn s = true)
include hon

theorem lockLoss_completes (h : s.clk.locked = true) :
    ∃ t, exec .lockLoss s = .next t ∧ t.clk.locked = false ∧ t.clk.holdover = true ∧ t.clk.delib = false ∧
      t.clk.pllHold = true ∧ t.clk.qualFrom = some s.now ∧ rdb t (rk .clk 0 0x010) 0 = true ∧
      rdf t (clkKey 0x050) 0 16 = min 0xFFFF (rdf s (clkKey 0x050) 0 16 + 1) := by
  refine ⟨_, congrArg Host.Outcome.next (if_pos hon), ?_⟩
  obtain ⟨stops, hclk⟩ := loseLock_clk h false
  rw [datumRefresh_clk, hclk, rdb_datumRefresh_clk, rdf, rd_datumRefresh_system (clkKey_systemKey (by decide))]
  exact ⟨rfl, rfl, rfl, rfl, rfl, rdb_loseLock h false, rdf_loseLock_count h false⟩

theorem refMeasureGood_completes {ppm : Int} (hrun : s.clk.running = true) (hppm : ppm.natAbs ≤ 20000) :
    ∃ t, exec (.refMeasure ppm) s = .next t ∧ rd t (clkKey 0x054) = wInt ppm ∧ t.clk.locked = s.clk.locked := by
  refine ⟨wr (clkKey 0x054) (wInt ppm) (onClk (fun c => { c with ppm := ppm }) s), congrArg Host.Outcome.next ?_, ?_⟩
  · rw [hon, hrun]
    exact if_neg (Nat.not_lt.mpr hppm)
  · exact ⟨rd_wr_same _ _ _, rfl⟩

theorem refMeasureBad_completes {ppm : Int} (hrun : s.clk.running = true) (hppm : 20000 < ppm.natAbs) (h : s.clk.locked = true) :
    ∃ t, exec (.refMeasure ppm) s = .next t ∧ rd t (clkKey 0x054) = wInt ppm ∧ t.clk.refBad = true ∧ t.clk.locked = false ∧
      rdb t (rk .clk 0 0x010) 3 = true ∧ rdb t (rk .clk 0 0x010) 0 = true := by
  refine ⟨datumRefresh (loseLock false (raiseClk 3 (onClk (fun c => { c with refBad := true })
    (wr (clkKey 0x054) (wInt ppm) (onClk (fun c => { c with ppm := ppm }) s))))), congrArg Host.Outcome.next ?_, ?_⟩
  · rw [hon, hrun]
    exact if_pos hppm
  · generalize hu : raiseClk 3 _ = u
    have hlocked : u.clk.locked = true := by rw [← hu, raiseClk_clk]; exact h
    have hbad : u.clk.refBad = true := by rw [← hu, raiseClk_clk]; rfl
    have hraw : rdb u (clkKey 0x010) 3 = true := by rw [← hu]; exact rdb_raiseClk (by decide) _
    have hmeas : rd u (clkKey 0x054) = wInt ppm := by
      rw [← hu, rd_raiseClk (by decide) (by decide)]
      exact rd_wr_same _ _ _
    obtain ⟨stops, hclk⟩ := loseLock_clk hlocked false
    rw [datumRefresh_clk, hclk, rdb_datumRefresh_clk, rdb_datumRefresh_clk,
      rd_datumRefresh_system (clkKey_systemKey (by decide)), rd_loseLock (by decide) (by decide) (by decide)]
    exact ⟨hmeas, hbad, rfl, (rdb_loseLock_ne (by decide) (by decide) _ _).trans hraw, rdb_loseLock hlocked false⟩

theorem referenceQualified_completes {a : Nat} (h : s.clk.qualFrom = some a) :
    ∃ t, exec .referenceQualified s = .next t ∧ t.clk.acquiring = true ∧ t.clk.qualFrom = none ∧ a + msec ≤ t.now := by
  refine ⟨onClk (fun c => { c with acquiring := true, qualFrom := none }) (upto (a + msec) s), congrArg Host.Outcome.next ?_,
    rfl, rfl, le_upto_now _ _⟩
  rw [h, hon]
  rfl

theorem pllLocked_completes (h : s.clk.acquiring = true) :
    ∃ t, exec .pllLocked s = .next t ∧ t.clk.locked = true ∧ t.clk.holdover = false ∧ t.clk.running = true ∧
      t.clk.lockAt = s.now ∧ rdb t (rk .clk 0 0x010) 1 = true := by
  refine ⟨_, congrArg Host.Outcome.next (if_pos (by rw [hon, h]; rfl)), ?_⟩
  rw [datumRefresh_clk, rdb_datumRefresh_clk, pllLock, raiseClk_clk]
  have hraw := fun u : State => rdb_raiseClk (k := 1) (by decide) u
  unfold startClocks
  split
  next hrun => exact ⟨rfl, rfl, hrun, rfl, hraw _⟩
  next => exact ⟨rfl, rfl, rfl, rfl, hraw _⟩

theorem holdRelease_completes (hlock : s.clk.locked = true) (hhold : s.clk.pllHold = true) :
    ∃ t, exec .holdRelease s = .next t ∧ t.clk.pllHold = false ∧ t.holds.pll = some t.now ∧
      s.clk.lockAt + rdf s (clkKey 0x044) 0 10 * usec ≤ t.now ∧ rdb t (rk .clk 0 0x010) 2 = true := by
  have hnow : ∀ k u, (raiseClk k u).now = u.now := fun _ _ => raise_now _ _ _ _
  have hholds : ∀ k u, (raiseClk k u).holds = u.holds := fun _ _ => raise_holds _ _ _ _
  refine ⟨_, congrArg Host.Outcome.next (if_neg (by simp [hon, hlock, hhold])), ?_⟩
  dsimp only
  rw [checkOutEn_clk, checkOutEn_holds, checkOutEn_now, rdb_checkOutEn_clk, hholds, hnow, raiseClk_clk, settle_clk, settle_holds,
    settle_now]
  exact ⟨rfl, rfl, le_upto_now _ _, rdb_raiseClk (by decide) _⟩

theorem noref_completes {a : Nat} (hrun : s.clk.running = false) (hacq : s.clk.acquiring = false) (h : s.clk.qualFrom = some a) :
    ∃ t, exec .noref s = .next t ∧ t.clk.running = true ∧ t.clk.holdover = true ∧ t.clk.noref = true ∧
      a + 10 * msec ≤ t.now ∧ t.clk.tick0 = t.now := by
  refine ⟨_, congrArg Host.Outcome.next (if_neg (by simp [hon, hrun, hacq])), ?_⟩
  rw [h, startClocks, if_neg (by simp [onClk, hrun])]
  exact ⟨rfl, rfl, rfl, le_upto_now _ _, rfl⟩

end Synth

/-! Commands of CTL (R462, R471) -/

section Ctl

variable {m : Master} {s : State} (h : reaches s m .clk 0x048 = true)
include h

theorem pllRelock_completes (hlock : s.clk.locked = true) :
    ∃ t, exec (.pllRelock m) s = .next t ∧ t.clk.locked = false ∧ t.clk.delib = true ∧ t.clk.pllHold = true ∧
      t.clk.mode = rdf s (clkKey 0x040) 0 2 := by
  have hclk : (countedWrite m .clk 0 0x048 s).clk = s.clk := pmcAccess_clk _ _ _ _ _
  have hlock' : (countedWrite m .clk 0 0x048 s).clk.locked = true := by rwa [hclk]
  have hmode : rdf (countedWrite m .clk 0 0x048 s) (clkKey 0x040) 0 2 = rdf s (clkKey 0x040) 0 2 := by
    have hk : ¬ countKey (clkKey 0x040) := by
      simp only [countKey, mergeKey, pmcKey, clkKey, rk, pageFirst]
      omega
    rw [rdf, countedWrite, rd_pmcAccess hk, ← rdf]
  obtain ⟨stops, hlost⟩ := loseLock_clk hlock' true
  refine ⟨_, congrArg Host.Outcome.next (byBus_reaches h), ?_⟩
  have hwrite : ∀ u, writeClk m 0x048 1 u = relock u := fun _ => rfl
  rw [hwrite, relock, if_pos hlock', busCycle_clk, datumRefresh_clk, onClk, hlost]
  exact ⟨rfl, rfl, rfl, hmode⟩

theorem update_completes : ∃ t, exec (.update m) s = .next t ∧ markAt s (s.now + 5000) ∈ t.clk.updAt := by
  have hclk : (countedWrite m .clk 0 0x048 s).clk = s.clk := pmcAccess_clk _ _ _ _ _
  have hmark : markAt (countedWrite m .clk 0 0x048 s) (s.now + 5000) = markAt s (s.now + 5000) := by rw [markAt, hclk]; rfl
  refine ⟨_, congrArg Host.Outcome.next (byBus_reaches h), ?_⟩
  have hwrite : ∀ u, writeClk m 0x048 2 u = requestUpdate u := fun _ => rfl
  rw [hwrite, busCycle_clk, requestUpdate, countedWrite_now, hmark, onClk]
  dsimp only
  split
  next hin => simpa using hin
  next => exact List.mem_append_right _ List.mem_cons_self

end Ctl

/-! Update marks (R471, R472) -/

/-- An output's shadows of a register of the CLK page below the copies in force. -/
theorem rd_applyOut {n off : Nat} (ho : off < 0x090) (mark : Nat) (s : State) :
    rd (applyOut mark n s) (clkKey off) = rd s (clkKey off) := by
  have hne : clkKey off ≠ clkKey (0x090 + 4 * n) := fun h => by have := clkKey_inj.mp h; omega
  unfold applyOut
  extract_lets cfg div old oldDiv restart blink e0 off' high e free e' stops s1 s2
  have h2 : rd s2 (clkKey off) = rd s (clkKey off) := rd_wr_ne _ _ hne
  split
  · exact h2
  · exact h2

/-- A mark puts the shadows of an output in force and those of no other. -/
theorem applyOut_cfg (mark n k : Nat) (s : State) : outCfg (applyOut mark n s) k =
    if k = n then rd s (clkKey (0x060 + 8 * n)) else outCfg s k := by
  have hset : outCfg (applyOut mark n s) k = smGet (smConst 0) (smSet (smConst 0) s.clk.outCfg n (rd s (clkKey (0x060 + 8 * n)))) k := by
    unfold applyOut outCfg
    dsimp only
    split <;> rfl
  rw [hset, smGet_smSet]
  rfl

theorem applyOut_div (mark n k : Nat) (s : State) : outDiv (applyOut mark n s) k =
    if k = n then rdf s (clkKey (0x064 + 8 * n)) 0 20 else outDiv s k := by
  have hset : outDiv (applyOut mark n s) k =
      (smGet (smConst 8) (smSet (smConst 8) s.clk.outDiv n (wNat (rdf s (clkKey (0x064 + 8 * n)) 0 20))) k).toNat := by
    unfold applyOut outDiv
    dsimp only
    split <;> rfl
  have hlt : rdf s (clkKey (0x064 + 8 * n)) 0 20 < 2 ^ 32 := lt_trans (fld_lt _ _ _) (by decide)
  rw [hset, smGet_smSet]
  split
  · exact Nat.mod_eq_of_lt hlt
  · rfl

/-- After a mark every output below a bound is at its shadows. -/
theorem applyOuts_inForce (mark b : Nat) (hb : b ≤ 6) (s : State) : ∀ k < b,
    outCfg (forEach (List.range b) (applyOut mark) s) k = rd s (clkKey (0x060 + 8 * k)) ∧
      outDiv (forEach (List.range b) (applyOut mark) s) k = rdf s (clkKey (0x064 + 8 * k)) 0 20 := by
  induction b with
  | zero => exact fun k hk => absurd hk (Nat.not_lt_zero k)
  | succ b ih =>
    intro k hk
    have hkeep : ∀ off < 0x090, rd (forEach (List.range b) (applyOut mark) s) (clkKey off) = rd s (clkKey off) := fun off ho =>
      forEach_mem_keeps (π := (rd · (clkKey off))) (fun n _ u => rd_applyOut ho mark u) s
    rw [List.range_succ, forEach_append]
    show outCfg (applyOut mark b _) k = _ ∧ outDiv (applyOut mark b _) k = _
    rw [applyOut_cfg, applyOut_div, hkeep _ (by omega), rdf, hkeep _ (by omega), ← rdf]
    by_cases hkb : k = b
    · rw [if_pos hkb, if_pos hkb, hkb]
      exact ⟨rfl, rfl⟩
    · rw [if_neg hkb, if_neg hkb]
      exact ih (by omega) k (by omega)

theorem applyOut_updAt (mark n : Nat) (s : State) : (applyOut mark n s).clk.updAt = s.clk.updAt := by
  unfold applyOut
  dsimp only
  split <;> rfl

theorem applyOut_now (mark n : Nat) (s : State) : (applyOut mark n s).now = s.now := by
  unfold applyOut
  dsimp only
  split <;> rfl

section Mark

variable {s : State} (hon : synthOn s = true) (hrun : s.clk.running = true)
include hon hrun

/-- The one update requested is made at its mark. -/
theorem updateMarkRequested_completes {x : Nat} (hupd : s.clk.updAt = [x]) (hmark : nextMark s = x)
    (hok : (List.range 6).all (fun n => outLegal (rd s (clkKey (0x060 + 8 * n))) (rdf s (clkKey (0x064 + 8 * n)) 0 20)) = true) :
    ∃ t, exec .updateMark s = .next t ∧ x ≤ t.now ∧ t.clk.updAt = [] ∧ rdb t (rk .clk 0 0x010) 4 = true ∧
      (List.range 6).map (fun n => (outCfg t n, outDiv t n)) =
        (List.range 6).map (fun n => (rd s (clkKey (0x060 + 8 * n)), rdf s (clkKey (0x064 + 8 * n)) 0 20)) := by
  refine ⟨_, congrArg Host.Outcome.next (if_pos hon), ?_⟩
  unfold updateMark
  rw [hrun, Bool.not_true, if_neg Bool.false_ne_true]
  extract_lets t s1 lock s2 s3
  have hin : s2.clk.updAt.contains t = true := by
    show s.clk.updAt.contains t = true
    rw [hupd, ← hmark]
    simp [t]
  have hnone : s3.clk.updAt = [] := by
    show s.clk.updAt.filter (fun y => decide (y ≠ t)) = []
    rw [hupd, ← hmark]
    simp [t]
  have hclk : ∀ u, (raiseClk 4 u).clk = u.clk := fun u => raiseClk_clk 4 u
  have hok3 : ((List.range 6).all fun n => outLegal (rd s3 (clkKey (0x060 + 8 * n))) (rdf s3 (clkKey (0x064 + 8 * n)) 0 20)) = true :=
    hok
  rw [if_pos hin, if_pos hok3]
  have hnow : (raiseClk 4 (forEach (List.range 6) (applyOut t) s3)).now = s3.now :=
    (raise_now _ _ _ _).trans (forEach_mem_keeps (π := State.now) (fun n _ u => applyOut_now t n u) s3)
  refine ⟨?_, ?_, rdb_raiseClk (by decide) _, List.map_congr_left fun n hn => ?_⟩
  · rw [hnow, ← hmark]
    exact le_upto_now _ _
  · rw [hclk, forEach_mem_keeps (π := fun u : State => u.clk.updAt) (fun n _ u => applyOut_updAt t n u) s3, hnone]
  · obtain ⟨hcfg, hdiv⟩ := applyOuts_inForce t 6 (le_refl 6) s3 n (List.mem_range.mp hn)
    rw [outCfg, outDiv, hclk, ← outCfg, ← outDiv, hcfg, hdiv]
    rfl

/-- Where nothing was requested a mark only ends what was held or stopped. -/
theorem updateMarkFree_completes (hupd : s.clk.updAt.contains (nextMark s) = false) :
    ∃ t, exec .updateMark s = .next t ∧ nextMark s ≤ t.now ∧ t.clk.updAt = s.clk.updAt ∧ t.regs = s.regs ∧
      (s.clk.heldAt + usec ≤ nextMark s → t.clk.outHeld = []) := by
  refine ⟨_, congrArg Host.Outcome.next (if_pos hon), ?_⟩
  unfold updateMark
  rw [hrun, Bool.not_true, if_neg Bool.false_ne_true]
  extract_lets t s1 lock s2 s3
  rw [if_neg (show ¬ s2.clk.updAt.contains t = true from fun h => Bool.false_ne_true (hupd.symm.trans h))]
  exact ⟨le_upto_now _ _, rfl, rfl, fun h => if_pos h⟩

end Mark

/-! The tick counter (R464) -/

theorem tickLoRead_completes {m : Master} {s : State} (h : pageUp s .sys 0x050 = true) :
    ∃ t, exec (.tickLoRead m) s = .next t ∧ t.bus.rdata = tickStamp s ∧ t.bus.err = false ∧
      rd t (rk .sys 0 0x054) = wNat (ticks s / 2 ^ 32) := by
  have hticks : ticks (countedRead m .sys 0 0x050 s) = ticks s := by
    rw [ticks, countedRead, pmcAccess_clk, pmcAccess_now]
    rfl
  refine ⟨_, congrArg Host.Outcome.next (readAt_up h), ?_⟩
  rw [tickStamp, hticks, rd_respond]
  exact ⟨rfl, rfl, rd_wr_same _ _ _⟩

/-- Settles O31: lock and its loss, the reference, the hold, update marks and the tick counter. -/
theorem clocksComplete : Obligations.ClocksComplete := by
  unfold Obligations.ClocksComplete
  exact ⟨fun _ => lockLoss_completes, fun _ _ hon => refMeasureGood_completes hon, fun _ _ hon => refMeasureBad_completes hon,
    fun _ _ hon => referenceQualified_completes hon, fun _ => pllLocked_completes, fun _ => holdRelease_completes,
    fun _ _ => pllRelock_completes, fun _ _ hon => noref_completes hon, fun _ _ => update_completes,
    fun _ _ hon hrun => updateMarkRequested_completes hon hrun, fun _ => updateMarkFree_completes, fun _ _ => tickLoRead_completes⟩

end Sys2Proof.Machine
end

section
/-! Power and resets (R474 to R478): what Plumb's reactions, a domain that goes off and the start of a reset leave of the power state. -/

set_option Elab.async false

namespace Sys2Proof.Machine

/-! The power state but for its milestones -/

/-- Power and resets, but for the milestones of BOOT_STAT, which a release of SPO reaches too. -/
def State.resets (s : State) : Pwr := { s.pwr with boot := 0 }

theorem resets_reset (s : State) : s.resets.reset = s.pwr.reset := rfl

/-- The power state as a system reset begins (R477). -/
def Pwr.inSystem (now : Nat) (byDebug : Bool) (p : Pwr) : Pwr :=
  { p with reset := some .system, on := 0xD01, move := none, moveAt := now, byDebug := byDebug }

/-- The power state as a power-on reset begins (R477). -/
def Pwr.inPowerOn (p : Pwr) : Pwr :=
  { p with reset := some .powerOn, on := 0xD01, move := none, cut := false, byDebug := false }

theorem resets_of_pwr {s t : State} (h : t.pwr = s.pwr) : t.resets = s.resets := by rw [State.resets, State.resets, h]

section Reactions

variable (s : State)

@[simp] theorem milestone_resets (b : Nat) : (milestone b s).resets = s.resets := rfl

@[simp] theorem raise_resets (t : PageType) (n k : Nat) : (raise t n k s).resets = s.resets := resets_of_pwr (raise_pwr _ _ _ _)

@[simp] theorem settle_resets (us : State) : (settle us s).resets = s.resets :=
  resets_of_pwr (Part.same_of_op (p := .pwr) (by decide) (fun h => settle_stays h us) s)

@[simp] theorem onPlumb_resets (f : Plumb → Plumb) : (onPlumb f s).resets = s.resets := rfl

@[simp] theorem checkOutEn_resets : (checkOutEn s).resets = s.resets := by
  unfold checkOutEn
  split
  · rw [raise_resets, milestone_resets]
  · rfl

@[simp] theorem spoDemand_resets (k : Nat) : (spoDemand k s).resets = s.resets :=
  resets_of_pwr (Part.same_of_op (p := .pwr) (by decide) (fun h => spoDemand_stays h k) s)

@[simp] theorem bookAction_resets (kind page off master : Nat) (old new : Word) :
    (bookAction kind page off master old new s).resets = s.resets := resets_of_pwr (bookAction_pwr _ _ _ _ _ _ _)

@[simp] theorem spoOff_resets : (spoOff s).resets = s.resets := by
  have hlog : ∀ u, (logHap (pageNo .plumb 0) u).resets = u.resets := fun u => resets_of_pwr (logHap_pwr _ u)
  unfold spoOff
  dsimp only
  rw [checkOutEn_resets, raisePl, raise_resets, hlog, milestone_resets, settle_resets]
  rfl

@[simp] theorem spoSource_resets (k : Nat) (on : Bool) : (spoSource k on s).resets = s.resets := by
  unfold spoSource
  split
  · split
    · rfl
    · exact spoDemand_resets s k
  · split
    · unfold spoInactive
      dsimp only
      split
      · rw [spoOff_resets, bookAction_resets, onPlumb_resets]
      · rfl
    · rfl

@[simp] theorem plumbEval_resets : (plumbEval s).resets = s.resets := by
  have hoff : ∀ l u, (forEach l soutOff u).resets = u.resets := fun l u =>
    forEach_mem_keeps (π := State.resets)
      (fun n _ v => resets_of_pwr (Part.same_of_op (p := .pwr) (by decide) (fun h => soutOff_stays h n) v)) u
  have hstuck : ∀ u, (stuckOutputs u).resets = u.resets := fun u =>
    resets_of_pwr (Part.same_of_op (p := .pwr) (by decide) (fun h => stuckOutputs_stays h) u)
  unfold plumbEval
  dsimp only
  rw [hstuck, hoff, onPlumb_resets]
  exact forEach_mem_keeps (π := State.resets) (fun e _ u => spoSource_resets u e.1 e.2) s

@[simp] theorem startActive_resets : (startActive s).resets = s.resets := by
  rw [startActive, plumbEval_resets, spoSource_resets]

@[simp] theorem startEnds_resets : (startEnds s).resets = s.resets := by
  unfold startEnds
  split
  · exact spoSource_resets s 0 false
  · rfl

@[simp] theorem endFreeze_resets : (endFreeze s).resets = s.resets := by
  unfold endFreeze
  split
  · rfl
  · dsimp only
    rw [spoSource_resets, onPlumb_resets, settle_resets]
    rfl

@[simp] theorem islOff_resets : (islOff s).resets = s.resets := by
  have hisl : ∀ u : State, { u with isl := {} }.resets = u.resets := fun _ => rfl
  unfold islOff islandReport
  dsimp only
  rw [hisl]
  split
  · rw [plumbEval_resets, onPlumb_resets]
  · rfl

@[simp] theorem relockLevel_resets (m : Nat) : (relockLevel m s).resets = s.resets :=
  resets_of_pwr (Part.same_of_op (p := .pwr) (by decide) (fun h => relockLevel_stays h m) s)

@[simp] theorem bootChecks_resets : (bootChecks s).resets = s.resets := by
  have hboot : (bootImage s).2.resets = s.resets :=
    resets_of_pwr (Part.same_of_op (p := .pwr) (by decide) (fun h => bootImage_stays h) s)
  unfold bootChecks
  generalize bootImage s = found at hboot ⊢
  obtain ⟨f, u⟩ := found
  cases f
  · exact hboot
  · exact hboot

/-! A domain's function as it goes off (R474) -/

theorem onRail_valley (r : Nat) (f : Rail → Rail) (s : State) : (onRail r f s).valley = s.valley := rfl

theorem onRail_resets (r : Nat) (f : Rail → Rail) : (onRail r f s).resets = s.resets := rfl

/-- A domain that goes off leaves resets and supplies. -/
@[simp] theorem offActions_resets (d : PDom) : (offActions d s).resets = s.resets := by
  have hkeep : ∀ {f : State → State} {m : Nat}, m.testBit Part.pwr.number = false →
      (∀ {π : State → Prop} {r u : State}, AllFree π m → Stays π r u → Stays π r (f u)) → ∀ u, (f u).resets = u.resets :=
    fun hm hf u => resets_of_pwr (Part.same_of_op (p := .pwr) hm hf u)
  cases d with
  | eng =>
    have hoff : (islOff (gridsOff (dropPassGroups s))).resets = s.resets := by
      rw [islOff_resets, hkeep (by decide) (fun h => gridsOff_stays h), hkeep (by decide) (fun h => dropPassGroups_stays h)]
    simp only [offActions, trackersOff, State.resets]
    exact hoff
  | pwm => exact hkeep (by decide) (fun h => pwmOff_stays h) s
  | adc =>
    have hlate := hkeep (by decide) (fun h => lateSteps_stays h)
    exact hlate _
  | mtr => exact hkeep (by decide) (fun h => metersOff_stays h) s
  | ring =>
    have hrails : ∀ u, (forEach (List.range 4) (fun r v => onRail r (fun x => { x with breaks := 0 }) v) u).resets = u.resets :=
      fun u => forEach_mem_keeps (π := State.resets) (fun r _ v => onRail_resets v r _) u
    have hring : (pairReset (datumReset (ringReset s))).resets = s.resets := by
      rw [hkeep (by decide) (fun h => pairReset_stays h), hkeep (by decide) (fun h => datumReset_stays h),
        hkeep (by decide) (fun h => ringReset_stays h)]
    unfold offActions
    dsimp only
    rw [hrails, plumbEval_resets]
    exact hring
  | reg => exact hkeep (by decide) (fun h => railsOff_stays h) s
  | core => rfl
  | eth => rfl
  | nvm => rfl
  | dbg => rfl
  | plumb => rfl
  | valley => rfl

/-- A domain that goes off leaves the reset of PD_VALLEY. -/
theorem offActions_por (d : PDom) : (offActions d s).valley.por = s.valley.por := by
  have hkeep : ∀ {f : State → State} {m : Nat}, m.testBit Part.valley.number = false →
      (∀ {π : State → Prop} {r u : State}, AllFree π m → Stays π r u → Stays π r (f u)) → ∀ u, (f u).valley = u.valley :=
    fun hm hf u => Part.same_of_op (p := .valley) hm hf u
  cases d with
  | eng =>
    have hoff : (islOff (gridsOff (dropPassGroups s))).valley = s.valley := by
      rw [hkeep (by decide) (fun h => islOff_stays h), hkeep (by decide) (fun h => gridsOff_stays h),
        hkeep (by decide) (fun h => dropPassGroups_stays h)]
    simp only [offActions, trackersOff]
    exact congrArg Valley.por hoff
  | pwm => exact congrArg Valley.por (hkeep (by decide) (fun h => pwmOff_stays h) s)
  | adc =>
    have hlate := hkeep (by decide) (fun h => lateSteps_stays h)
    exact congrArg Valley.por (hlate _)
  | mtr => exact congrArg Valley.por (hkeep (by decide) (fun h => metersOff_stays h) s)
  | ring =>
    have hrails : ∀ u, (forEach (List.range 4) (fun r v => onRail r (fun x => { x with breaks := 0 }) v) u).valley = u.valley :=
      fun u => forEach_mem_keeps (π := State.valley) (fun r _ v => onRail_valley r _ v) u
    have hring : (pairReset (datumReset (ringReset s))).valley = s.valley := by
      rw [hkeep (by decide) (fun h => pairReset_stays h), hkeep (by decide) (fun h => datumReset_stays h),
        hkeep (by decide) (fun h => ringReset_stays h)]
    unfold offActions
    dsimp only
    rw [hrails, hkeep (by decide) (fun h => plumbEval_stays h)]
    exact congrArg Valley.por hring
  | reg => exact congrArg Valley.por (hkeep (by decide) (fun h => railsOff_stays h) s)
  | core => rfl
  | eth => rfl
  | nvm => rfl
  | dbg => rfl
  | plumb => rfl
  | valley => rfl

@[simp] theorem updReset_resets : (updReset s).resets = s.resets :=
  resets_of_pwr (Part.same_of_op (p := .pwr) (by decide) (fun h => updReset_stays h) s)

@[simp] theorem updReset_por : (updReset s).valley.por = s.valley.por := by
  have hcut : (updCut true s).valley = s.valley := Part.same_of_op (p := .valley) (by decide) (fun h => updCut_stays h true) s
  have hask : ∀ u, (askGrant u).valley.por = u.valley.por := fun u => by
    unfold askGrant
    split <;> rfl
  have hwant : ∀ u, (wantTrial false u).valley.por = u.valley.por := fun u => by
    unfold wantTrial
    split
    · rfl
    · exact hask _
  unfold updReset
  extract_lets u made accepted again copies s1 s2 s3
  have h1 : s1.valley.por = s.valley.por := by
    unfold s1
    split
    · rfl
    · exact congrArg Valley.por hcut
  have h2 : s2.valley.por = s.valley.por := by
    unfold s2
    split
    · exact h1
    · exact h1
  show (if _ then wantTrial false s3 else s3).valley.por = s.valley.por
  split
  · exact (hwant s3).trans h2
  · exact h2

/-! How a reset begins (R477, R478) -/

/-- A system reset leaves sources, supplies and causes. -/
theorem beginSystem_resets (byDebug : Bool) :
    ∃ now, (beginSystem byDebug s).resets = s.resets.inSystem now byDebug := by
  have hoffs : (forEach (domsOn s) offActions (updReset s)).resets = s.resets :=
    (forEach_mem_keeps (π := State.resets) (fun d _ u => offActions_resets u d) _).trans (updReset_resets s)
  unfold beginSystem
  extract_lets s1 s2 now frozen th p g s3
  have h3 : s3.resets = s1.resets.inSystem now byDebug := rfl
  refine ⟨now, ?_⟩
  rw [startActive_resets, relockLevel_resets, ← hoffs]
  split
  · rw [endFreeze_resets, h3]
  · exact h3

theorem beginSystem_por (byDebug : Bool) : (beginSystem byDebug s).valley.por = s.valley.por := by
  have hoffs : (forEach (domsOn s) offActions (updReset s)).valley.por = s.valley.por :=
    (forEach_mem_keeps (π := fun u : State => u.valley.por) (fun d _ u => offActions_por u d) _).trans (updReset_por s)
  have hkeep : ∀ {f : State → State} {m : Nat}, m.testBit Part.valley.number = false →
      (∀ {π : State → Prop} {r u : State}, AllFree π m → Stays π r u → Stays π r (f u)) → ∀ u, (f u).valley = u.valley :=
    fun hm hf u => Part.same_of_op (p := .valley) hm hf u
  unfold beginSystem
  extract_lets s1 s2 now frozen th p g s3
  have h3 : s3.valley = s1.valley := rfl
  rw [hkeep (by decide) (fun h => startActive_stays h), hkeep (by decide) (fun h => relockLevel_stays h 7), ← hoffs]
  split
  · rw [hkeep (by decide) (fun h => endFreeze_stays h), h3]
  · exact congrArg Valley.por h3

/-- A power-on reset leaves sources, supplies and causes, and PD_VALLEY. -/
theorem beginPowerOn_leaves : (beginPowerOn s).resets = s.resets.inPowerOn ∧ (beginPowerOn s).valley.por = s.valley.por := by
  have hkeep : ∀ {f : State → State} {m : Nat}, m.testBit Part.pwr.number = false → m.testBit Part.valley.number = false →
      (∀ {π : State → Prop} {r u : State}, AllFree π m → Stays π r u → Stays π r (f u)) →
      ∀ u, (f u).pwr = u.pwr ∧ (f u).valley = u.valley :=
    fun hp hv hf u => ⟨Part.same_of_op (p := .pwr) hp hf u, Part.same_of_op (p := .valley) hv hf u⟩
  unfold beginPowerOn
  extract_lets s1 z expired
  obtain ⟨htp, htv⟩ := hkeep (by decide) (by decide) (fun h => tearMonument_stays h (nvGrant s || decide (s.pwr.supply &&& 9 = 9))) s
  obtain ⟨hdp, hdv⟩ := hkeep (by decide) (by decide) (fun h => dropHanded_stays h)
    (tearMonument (nvGrant s || decide (s.pwr.supply &&& 9 = 9)) s)
  obtain ⟨hsp, hsv⟩ := hkeep (f := fun u => logToValley (keepStopFull u)) (m := 1 <<< 20) (by decide) (by decide)
    (fun h hF => logToValley_stays (h.sub (by decide)) (keepStopFull_stays (h.sub (by decide)) hF))
    (updReset (dropHanded (tearMonument (nvGrant s || decide (s.pwr.supply &&& 9 = 9)) s)))
  have hpwr : s1.resets = s.resets := by
    rw [resets_of_pwr hsp, updReset_resets, resets_of_pwr hdp, resets_of_pwr htp]
  have hpor : s1.valley.por = s.valley.por := by
    rw [show s1.valley = _ from hsv, updReset_por, hdv, htv]
  have hmark := hkeep (by decide) (by decide) (fun h => valleyMark_stays h)
  refine ⟨?_, (congrArg Valley.por (hmark _).2).trans hpor⟩
  rw [resets_of_pwr (hmark _).1]
  have hin : s1.resets.inPowerOn = s.resets.inPowerOn := congrArg Pwr.inPowerOn hpwr
  exact hin

end Reactions

/-! Domains (R474, R475) -/

section Domains

variable (s : State)

@[simp] theorem nextMove_on : (nextMove s).pwr.on = s.pwr.on := by
  unfold nextMove
  split <;> rfl

theorem logHap_raiseSys_pwr (k : Nat) : (logHap (pageNo .sys 0) (raiseSys k s)).pwr = s.pwr :=
  (logHap_pwr _ _).trans (raise_pwr _ _ _ _)

theorem dropDomain_pwr (d : PDom) : (dropDomain d s).pwr = s.pwr := rfl

theorem startPwm_pwr : (startPwm s).pwr = s.pwr := Part.same_of_op (p := .pwr) (by decide) (fun h => startPwm_stays h) s

theorem domBit_lt (d : PDom) : domBit d < 32 := by cases d <;> decide

variable {s}

theorem pdOn_completes {d : PDom} (h : s.pwr.move = some (d, true)) :
    ∃ t, exec .pdOn s = .next t ∧ bit t.pwr.on (domBit d) = true := by
  refine ⟨domainOn d s, congrArg Host.Outcome.next (by rw [h]), ?_⟩
  unfold domainOn
  extract_lets s1 s2
  have h1 : bit s1.pwr.on (domBit d) = true := bit_setBit_same _ _ _ (domBit_lt d)
  rw [nextMove_on, logHap_raiseSys_pwr]
  unfold s2
  split
  · rw [startPwm_pwr]
    exact h1
  · exact h1

theorem pdOff_completes {d : PDom} (h : s.pwr.move = some (d, false)) :
    ∃ t, exec .pdOff s = .next t ∧ bit t.pwr.on (domBit d) = false := by
  refine ⟨domainOff d s, congrArg Host.Outcome.next (by rw [h]), ?_⟩
  unfold domainOff
  dsimp only
  rw [nextMove_on, logHap_raiseSys_pwr]
  exact bit_setBit_same _ _ _ (domBit_lt d)

/-- PD_CTL is taken at a level that admits it, and booked (R405, R474). -/
theorem pdCtlWrite_completes {m : Master} {v : BitVec 16} (h : reaches s m .sys 0x040 = true) (hlock : s.pw.lockout = false)
    (hlevel : 2 ≤ s.pw.level) (hstage : stagingFull s = false) (hclk : s.clk.locked = true) :
    ∃ t, exec (.pdCtlWrite m v) s = .next t ∧ rd t (sysKey 0x040) = (wNat v.toNat &&& 0x2FE#32) ∧
      t.fb.seq = (s.fb.seq + 1) % 2 ^ 32 := by
  have hl : levelOk s (sysKey 0x040) = true := by
    rw [levelOk, hlock, Bool.not_false, Bool.true_and, decide_eq_true_eq]
    split <;> omega
  obtain ⟨new, heff⟩ := rwlPath_accepted (m := m) (act := writePdCtl (wNat v.toNat))
    ((levelOk_countedWrite m .sys 0 0x040 s (sysKey 0x040)).trans hl) ((stagingFull_countedWrite m .sys 0 0x040 s).trans hstage)
  have hmove : ∀ u k, rd (nextMove u) k = rd u k := fun u k => by
    unfold nextMove
    split <;> rfl
  have hfb : ∀ u, (nextMove u).fb = u.fb := fun u => by
    unfold nextMove
    split <;> rfl
  -- a locked root takes every bit of the write
  have hwrite : ∀ u : State, u.clk.locked = true →
      writePdCtl (wNat v.toNat) u = nextMove (wr (sysKey 0x040) (wNat v.toNat &&& 0x2FE#32) u) := fun u hu => by
    have hlate : [2, 5].filter (fun b => bit (wNat v.toNat) b && !(bit (rd u (sysKey 0x040)) b) && !u.clk.locked) = [] := by
      simp [hu]
    unfold writePdCtl
    dsimp only
    rw [hlate]
    rfl
  refine ⟨_, congrArg Host.Outcome.next ((byBus_reaches h).trans (congrArg busCycle heff)), ?_⟩
  rw [hwrite _ (by rw [bookRequested_clk]; exact (congrArg Clk.locked (pmcAccess_clk _ _ _ _ _)).trans hclk), rd_busCycle, hmove,
    busCycle_fb, hfb]
  refine ⟨rd_wr_same _ _ _, (bookRequested_seq _ _ _ _ _ _ _).trans ?_⟩
  show ((countedWrite m .sys 0 0x040 s).fb.seq + 1) % 2 ^ 32 = _
  rw [countedWrite_fb]

end Domains

/-! Sources of resets (R476, R477) -/

section Sources

variable {s : State}

/-- A source that lasts holds its power-on reset. -/
theorem powerOnReset_leaves {k : Nat} (hk : k < 32) (hpor : s.valley.por = false)
    (hlast : s.pwr.porst = true ∨ s.pwr.supply &&& 0xF ≠ 0xF) :
    (powerOnReset k s).pwr.reset = some .powerOn ∧ (powerOnReset k s).pwr.srcEnd = none ∧
      (powerOnReset k s).pwr.supply = s.pwr.supply ∧ (powerOnReset k s).pwr.porst = s.pwr.porst ∧
      bit (powerOnReset k s).pwr.cause k = true := by
  obtain ⟨hres, hval⟩ := beginPowerOn_leaves s
  have hreset := congrArg Pwr.reset hres
  have hsupply := congrArg Pwr.supply hres
  have hporst := congrArg Pwr.porst hres
  generalize hu : (if s.pwr.reset = some .powerOn then s else beginPowerOn s) = u
  have hfacts : u.pwr.reset = some .powerOn ∧ u.pwr.supply = s.pwr.supply ∧ u.pwr.porst = s.pwr.porst ∧ u.valley.por = false := by
    rw [← hu]
    split
    next hr => exact ⟨hr, rfl, rfl, hpor⟩
    next => exact ⟨hreset, hsupply, hporst, hval.trans hpor⟩
  obtain ⟨hr, hs, hp, hv⟩ := hfacts
  have hset : powerOnReset k s = settleSources (onPwr (fun p => { p with cause := setBit p.cause k true }) u) := by
    rw [powerOnReset, hu]
    exact congrArg settleSources (if_neg (by rw [hv]; exact Bool.false_ne_true))
  rw [hset]
  refine ⟨hr, if_pos ?_, hs, hp, bit_setBit_same _ _ _ hk⟩
  show (u.pwr.porst || decide (u.pwr.supply &&& 0xF ≠ 0xF) || (decide (u.pwr.reset = some .system) && u.pwr.sysrst)) = true
  rw [hs, hp]
  rcases hlast with hl | hl
  · rw [hl]
    rfl
  · rw [decide_eq_true hl, Bool.or_true]
    rfl

theorem porstAssert_completes (hpor : s.valley.por = false) :
    ∃ t, exec .porstAssert s = .next t ∧ t.pwr.reset = some .powerOn ∧ t.pwr.srcEnd = none ∧ t.pwr.porst = true ∧
      bit t.pwr.cause 0 = true := by
  obtain ⟨hr, he, _, hp, hc⟩ := powerOnReset_leaves (k := 0) (s := onPwr (fun p => { p with porst := true }) s) (by decide) hpor
    (.inl rfl)
  exact ⟨_, rfl, hr, he, hp, hc⟩

/-- A supply that has fallen does not read 1. -/
theorem supply_lacks {w : Word} {n : Nat} (hn : n < 4) (h : bit w n = false) : w &&& 0xF ≠ 0xF := fun hw => by
  have hbit : bit (w &&& 0xF) n = bit 0xF n := by rw [hw]
  rw [bit, BitVec.getLsbD_and, ← bit, h, Bool.false_and] at hbit
  interval_cases n <;> exact absurd hbit (by decide)

theorem supplyFall_completes {n : Fin 4} (hpor : s.valley.por = false) :
    ∃ t, exec (.supplyFall n) s = .next t ∧ t.pwr.reset = some .powerOn ∧ t.pwr.srcEnd = none ∧
      bit t.pwr.supply n = false ∧ bit t.pwr.cause 1 = true := by
  have hkeep : ∀ {f : State → State} {m : Nat}, m.testBit Part.pwr.number = false → m.testBit Part.valley.number = false →
      (∀ {π : State → Prop} {r u : State}, AllFree π m → Stays π r u → Stays π r (f u)) →
      ∀ u, (f u).pwr = u.pwr ∧ (f u).valley = u.valley :=
    fun hp hv hf u => ⟨Part.same_of_op (p := .pwr) hp hf u, Part.same_of_op (p := .valley) hv hf u⟩
  have hcut := hkeep (f := updCut false) (by decide) (by decide) (fun h => updCut_stays h false)
  have hloss := hkeep (f := nvLoss) (by decide) (by decide) (fun h => nvLoss_stays h)
  generalize hu : setChargers (onPwr (fun p => { p with supply := setBit p.supply n.val false }) s) = u
  have hset : u.pwr.supply = setBit s.pwr.supply n.val false ∧ u.valley.por = false := by
    rw [← hu]
    unfold setChargers
    split
    · exact ⟨rfl, hpor⟩
    · exact ⟨rfl, hpor⟩
  obtain ⟨hsup, hpor'⟩ := hset
  generalize hv : (if n.val = 0 || n.val = 3 then
      if nvGrant u then
        if u.valley.holdup then u else onVal (fun v => { v with holdup := true, holdEnd := u.now + 20 * msec }) u
      else updCut false (nvLoss u)
    else u) = v
  have hfall : v.pwr.supply = u.pwr.supply ∧ v.valley.por = false := by
    rw [← hv]
    split
    · split
      · split
        · exact ⟨rfl, hpor'⟩
        · exact ⟨rfl, hpor'⟩
      · rw [(hcut _).1, (hcut _).2, (hloss _).1, (hloss _).2]
        exact ⟨rfl, hpor'⟩
    · exact ⟨rfl, hpor'⟩
  have hbit : bit v.pwr.supply n = false := by
    rw [hfall.1, hsup]
    exact bit_setBit_same _ _ _ (by omega)
  obtain ⟨hr, he, hsame, _, hc⟩ := powerOnReset_leaves (k := 1) (by decide) hfall.2 (.inr (supply_lacks n.isLt hbit))
  refine ⟨powerOnReset 1 v, congrArg Host.Outcome.next ?_, hr, he, ?_, hc⟩
  · rw [← hv, ← hu]
  · rw [hsame, hbit]

theorem supplyRise_completes {n : Fin 4} (h : bit s.pwr.supply n = false) :
    ∃ t, exec (.supplyRise n) s = .next t ∧ bit t.pwr.supply n = true ∧ t.pwr.reset = s.pwr.reset := by
  have hset : ∀ u, (setChargers u).pwr = u.pwr := fun u => by
    unfold setChargers
    split <;> rfl
  refine ⟨_, congrArg Host.Outcome.next (if_neg (by rw [h]; exact Bool.false_ne_true)), ?_⟩
  unfold settleSources onPwr
  dsimp only
  rw [hset]
  exact ⟨bit_setBit_same _ _ _ (by omega), rfl⟩

/-- Where none lasts, a source begins a system reset. -/
theorem systemReset_leaves {k : Nat} (hk : k < 32) (byDebug : Bool) (hnone : s.pwr.reset = none) (hpor : s.valley.por = false) :
    (systemReset k byDebug s).pwr.reset = some .system ∧ (systemReset k byDebug s).pwr.on = 0xD01 ∧
      (systemReset k byDebug s).pwr.sysrst = s.pwr.sysrst ∧ bit (systemReset k byDebug s).pwr.cause k = true ∧
      (s.pwr.sysrst = true → (systemReset k byDebug s).pwr.srcEnd = none) ∧ (systemReset k byDebug s).pwr.byDebug = byDebug := by
  obtain ⟨now, hres⟩ := beginSystem_resets s byDebug
  have hval := (beginSystem_por s byDebug).trans hpor
  generalize hu : beginSystem byDebug s = u at hres hval
  have hr := congrArg Pwr.reset hres
  have hon := congrArg Pwr.on hres
  have hpin := congrArg Pwr.sysrst hres
  have hby := congrArg Pwr.byDebug hres
  replace hr : u.pwr.reset = some .system := hr
  replace hpin : u.pwr.sysrst = s.pwr.sysrst := hpin
  have hset : systemReset k byDebug s = settleSources (onPwr (fun p => { p with cause := setBit p.cause k true }) u) := by
    rw [systemReset, hnone, hu]
    show settleSources (resetCause k u) = _
    exact congrArg settleSources (if_neg (by rw [hval]; exact Bool.false_ne_true))
  rw [hset]
  refine ⟨hr, hon, hpin, bit_setBit_same _ _ _ hk, fun hsys => if_pos ?_, hby⟩
  show (u.pwr.porst || decide (u.pwr.supply &&& 0xF ≠ 0xF) || (decide (u.pwr.reset = some .system) && u.pwr.sysrst)) = true
  rw [hr, hpin, hsys]
  simp

theorem sysrstAssert_completes (hnone : s.pwr.reset = none) (hpor : s.valley.por = false) :
    ∃ t, exec .sysrstAssert s = .next t ∧ t.pwr.reset = some .system ∧ t.pwr.srcEnd = none ∧ t.pwr.sysrst = true ∧
      bit t.pwr.cause 2 = true ∧ t.pwr.on = 0xD01 := by
  obtain ⟨hr, hon, hpin, hc, he, _⟩ := systemReset_leaves (k := 2) (s := onPwr (fun p => { p with sysrst := true }) s) (by decide) false
    hnone hpor
  exact ⟨_, rfl, hr, he rfl, hpin, hc, hon⟩

section Ctl

variable {m : Master} {v : BitVec 16} (h : reaches s m .sys 0x048 = true)
include h

theorem rstCtl_completes (hpor : s.valley.por = false) (hkey : fld (wNat v.toNat) 8 8 = 0xA5) (hgo : v.getLsbD 0 = true) :
    ∃ t, exec (.rstCtl m v) s = .next t ∧ t.pwr.reset = some .system ∧ bit t.pwr.cause 3 = true ∧ t.pwr.on = 0xD01 := by
  have hnone : s.pwr.reset = none := by
    simp only [reaches, pageUp, fabricUp, Bool.and_eq_true] at h
    obtain ⟨⟨⟨⟨⟨⟨_, hn⟩, _⟩, _⟩, _⟩, _⟩, _⟩ := h
    exact Option.isNone_iff_eq_none.mp hn
  obtain ⟨hr, hon, _, hc, _, _⟩ := systemReset_leaves (k := 3) (s := countedWrite m .sys 0 0x048 s) (by decide) false
    (by rwa [countedWrite_pwr]) (by rwa [countedWrite, pmcAccess_valley])
  have hbit : bit (wNat v.toNat) 0 = true := by
    rw [bit, wNat, BitVec.getLsbD_ofNat]
    simpa [BitVec.getLsbD] using hgo
  have hwrite : writeSys m 0x048 (wNat v.toNat) (countedWrite m .sys 0 0x048 s) =
      systemReset 3 false (countedWrite m .sys 0 0x048 s) := by
    rw [writeSys, if_neg (by decide), if_pos rfl, if_neg (not_not.mpr hkey), if_pos hbit]
  refine ⟨_, congrArg Host.Outcome.next (byBus_reaches h), ?_⟩
  rw [hwrite, busCycle_pwr]
  exact ⟨hr, hc, hon⟩

theorem rstCtlRefused_completes (hkey : fld (wNat v.toNat) 8 8 ≠ 0xA5) :
    ∃ t, exec (.rstCtl m v) s = .next t ∧ t.pwr = s.pwr ∧ rdb t (rk .sys 0 0x010) 3 = true := by
  have hwrite : writeSys m 0x048 (wNat v.toNat) (countedWrite m .sys 0 0x048 s) = raiseSys 3 (countedWrite m .sys 0 0x048 s) := by
    rw [writeSys, if_neg (by decide), if_pos rfl, if_pos hkey]
  refine ⟨_, congrArg Host.Outcome.next (byBus_reaches h), ?_⟩
  rw [hwrite, busCycle_pwr]
  exact ⟨(raise_pwr _ _ _ _).trans (countedWrite_pwr _ _ _ _ _), rdb_raise _ _ _ _ (by decide) (by decide)⟩

end Ctl

/-! The end of a reset (R477) -/

/-- The last source of a reset has ended; what the reset is from here on. -/
def lastSourceEnds (goesOn : Bool) (s : State) : State :=
  onPwr (fun p => { p with reset := (if goesOn then some .system else none),
                           srcEnd := (if goesOn then none else some (max s.now (s.pwr.srcEnd.getD s.now + 10 * usec))),
                           porst := false, sysrst := goesOn, moveAt := max s.now (s.pwr.srcEnd.getD s.now + 10 * usec) })
    (upto (s.pwr.srcEnd.getD s.now + 10 * usec) s)

/-- What a reset of a kind leaves to start, where SYSRST_N read `pin` at its end. -/
def kindEnds (k : ResetKind) (pin : Bool) (s : State) : State :=
  match k with
  | .powerOn => powerOnEnds s
  | .system => { s with evr := { s.evr with reset := true }, log := { s.log with replay := s.log.replay || pin || s.therm.cut } }

/-- The causes that the end of a reset raises (R534, R551). -/
def endCauses (k : ResetKind) (s : State) : State :=
  let s := if k = .system && s.pwr.byDebug then raiseDbg 3 s else s
  let s := if s.valley.vbor then raiseVal 5 s else s
  if s.upd.cause = 14 then raiseUpd 5 s else s

/-- A reset is over: the image is checked and Plumb's START ends. -/
def resetOver (now : Nat) (s : State) : State :=
  bootChecks (startEnds (onUpd (fun u => { u with wantAt := now }) (onPwr (fun p => { p with byDebug := false }) s)))

theorem resetEnd_eq {k : ResetKind} (h : s.pwr.reset = some k) (hsup : s.pwr.supply &&& 0xF = 0xF) : resetEnd s =
    if k = .powerOn && s.pwr.sysrst then kindEnds k s.pwr.sysrst (lastSourceEnds (k = .powerOn && s.pwr.sysrst) s)
    else resetOver (max s.now (s.pwr.srcEnd.getD s.now + 10 * usec))
      (endCauses k (kindEnds k s.pwr.sysrst (lastSourceEnds (k = .powerOn && s.pwr.sysrst) s))) := by
  unfold resetEnd
  rw [h]
  refine (if_neg (not_not.mpr hsup)).trans ?_
  cases k <;> rfl

/-- Plumb and PD_CORE start after a power-on reset. -/
theorem powerOnEnds_leaves (u : State) : (powerOnEnds u).resets = u.resets ∧ (powerOnEnds u).now = u.now ∧
    (powerOnEnds u).plumb.spo = true := by
  have hnow : ∀ v, (startActive v).now = v.now := fun v =>
    Part.same_of_op (p := .now) (by decide) (fun h => startActive_stays h) v
  refine ⟨startActive_resets _, hnow _, plumbEval_spo ?_⟩
  unfold spoSource
  rw [if_pos rfl, if_neg (by simp [onPlumb, bit]), spoDemand_plumb]

theorem kindEnds_leaves (k : ResetKind) (pin : Bool) (u : State) :
    (kindEnds k pin u).resets = u.resets ∧ (kindEnds k pin u).now = u.now := by
  cases k with
  | powerOn => exact ⟨(powerOnEnds_leaves u).1, (powerOnEnds_leaves u).2.1⟩
  | system => exact ⟨rfl, rfl⟩

theorem endCauses_leaves (k : ResetKind) (u : State) : (endCauses k u).resets = u.resets ∧ (endCauses k u).now = u.now := by
  have hraise : ∀ (c : Prop) [Decidable c] (t : PageType) (i : Nat) (v : State),
      (if c then raise t 0 i v else v).resets = v.resets ∧ (if c then raise t 0 i v else v).now = v.now := fun c _ t i v => by
    split
    · exact ⟨raise_resets _ _ _ _, raise_now _ _ _ _⟩
    · exact ⟨rfl, rfl⟩
  unfold endCauses raiseDbg raiseVal raiseUpd
  dsimp only
  rw [(hraise _ _ _ _).1, (hraise _ _ _ _).1, (hraise _ _ _ _).1, (hraise _ _ _ _).2, (hraise _ _ _ _).2, (hraise _ _ _ _).2]
  exact ⟨rfl, rfl⟩

theorem resetOver_leaves (now : Nat) (u : State) : (resetOver now u).pwr.reset = u.pwr.reset ∧ (resetOver now u).now = u.now := by
  have hres : (resetOver now u).resets = { u.resets with byDebug := false } := by
    rw [resetOver, bootChecks_resets, startEnds_resets]
    rfl
  have hreset : (resetOver now u).resets.reset = u.resets.reset := by rw [hres]
  have hnow : ∀ v, (bootChecks (startEnds v)).now = v.now := fun v =>
    (Part.same_of_op (p := .now) (by decide) (fun h => bootChecks_stays h) _).trans
      (Part.same_of_op (p := .now) (by decide) (fun h => startEnds_stays h) v)
  refine ⟨(resets_reset _).symm.trans (hreset.trans (resets_reset u)), ?_⟩
  rw [resetOver, hnow]
  rfl

theorem resetEnd_completes {k : ResetKind} (h : s.pwr.reset = some k) (hsup : s.pwr.supply &&& 0xF = 0xF)
    (hk : k = .system ∨ s.pwr.sysrst = false) :
    ∃ t, exec .resetEnd s = .next t ∧ t.pwr.reset = none ∧ s.pwr.srcEnd.getD s.now + 10 * usec ≤ t.now := by
  have hends : (decide (k = .powerOn) && s.pwr.sysrst) = false := by
    rcases hk with rfl | hpin
    · rfl
    · rw [hpin, Bool.and_false]
  have hkind := kindEnds_leaves k s.pwr.sysrst (lastSourceEnds false s)
  have hcause := endCauses_leaves k (kindEnds k s.pwr.sysrst (lastSourceEnds false s))
  have hreset : _ = none := congrArg Pwr.reset (hcause.1.trans hkind.1)
  refine ⟨_, congrArg Host.Outcome.next (resetEnd_eq h hsup), ?_⟩
  rw [hends, if_neg Bool.false_ne_true, (resetOver_leaves _ _).1, (resetOver_leaves _ _).2, hcause.2, hkind.2]
  exact ⟨hreset, le_upto_now _ _⟩

theorem resetEndPinLow_completes (h : s.pwr.reset = some .powerOn) (hsup : s.pwr.supply &&& 0xF = 0xF) (hpin : s.pwr.sysrst = true) :
    ∃ t, exec .resetEnd s = .next t ∧ t.pwr.reset = some .system ∧ t.pwr.srcEnd = none ∧ t.pwr.sysrst = true ∧
      t.plumb.spo = true ∧ s.pwr.srcEnd.getD s.now + 10 * usec ≤ t.now := by
  obtain ⟨hres, hnow, hspo⟩ := powerOnEnds_leaves (lastSourceEnds true s)
  have hreset := congrArg Pwr.reset hres
  have hend := congrArg Pwr.srcEnd hres
  have hsys := congrArg Pwr.sysrst hres
  refine ⟨_, congrArg Host.Outcome.next (resetEnd_eq h hsup), ?_⟩
  rw [hpin, decide_eq_true rfl, Bool.and_true, if_pos rfl]
  refine ⟨hreset, hend, hsys, hspo, ?_⟩
  rw [kindEnds, hnow]
  exact le_upto_now _ _

end Sources

/-- Settles O32: domains, supplies and resets. -/
theorem powerCompletes : Obligations.PowerCompletes := by
  unfold Obligations.PowerCompletes
  exact ⟨fun _ _ _ => pdCtlWrite_completes, fun _ _ => pdOn_completes, fun _ _ => pdOff_completes,
    fun _ _ => supplyFall_completes, fun _ _ => supplyRise_completes, fun _ => porstAssert_completes,
    fun _ => sysrstAssert_completes, fun _ _ _ => rstCtl_completes, fun _ _ _ => rstCtlRefused_completes,
    fun _ _ => resetEnd_completes, fun _ => resetEndPinLow_completes⟩

end Sys2Proof.Machine
end

section
/-! Statements about temperature, the NV store and image updates that do not hold. -/

set_option Elab.async false

namespace Sys2Proof.Machine

/-- Refutes O33: after a cut-off a refused CLR_STOP raises no cause of the THERM page. -/
theorem not_temperatureCompletes : ¬ Obligations.TemperatureCompletes := by
  unfold Obligations.TemperatureCompletes
  rintro ⟨-, -, -, -, -, hrefused⟩
  obtain ⟨t, ht, -, hraised⟩ := hrefused .debug cutOffBlock (by decide +kernel) rfl
  have hquiet : ∃ t, exec (.clrStop .debug) cutOffBlock = .next t ∧ rdb t (rk .therm 0 0x010) 4 = false :=
    ⟨_, rfl, by decide +kernel⟩
  obtain ⟨u, hu, hclear⟩ := hquiet
  rw [ht] at hu
  cases hu
  exact absurd (hraised.symm.trans hclear) (by decide)

/-- The first word of the software region of the NV store. -/
def softWord : Nat := nvBase + nvSoft

/-- The queue of the NV store holds nine bytes for one word, as no write of a master leaves it. -/
def overlongQueue : State := { runningBlock with
  regs := [(rk .nvm 0 0x040, 1#32)]
  nvm := { runningBlock.nvm with queue := [(softWord, List.replicate 9 0#8, (0, none))] } }

/-- Refutes O36: bytes past the eighth that a queued word holds are queued again after those of the write. -/
theorem not_nvStoreCompletes : ¬ Obligations.NvStoreCompletes := by
  unfold Obligations.NvStoreCompletes
  rintro ⟨hqueued, -⟩
  obtain ⟨t, ht, hq, -⟩ := hqueued .debug softWord (List.replicate 8 1#8) overlongQueue (by decide +kernel) (by decide +kernel)
    (by decide +kernel) (by decide +kernel) (by decide) rfl (by decide)
  have hlong : ∃ t, exec (.nvWrite .debug softWord (List.replicate 8 1#8)) overlongQueue = .next t ∧
      (t.nvm.queue.map fun e => e.2.1.length) = [9, 9] := ⟨_, rfl, by decide +kernel⟩
  obtain ⟨u, hu, hlen⟩ := hlong
  rw [ht] at hu
  cases hu
  rw [hq] at hlen
  exact absurd hlen (by decide)

/-- In TRIAL, with an ACCEPT that waits for its grant. -/
def acceptedTrial : State := { runningBlock with
  upd := { runningBlock.upd with st := 6, accept := true }
  datum := { runningBlock.datum with valid := true } }

/-- Refutes O38: a REJECT after an accepted ACCEPT is refused, and the update stays in TRIAL (R548). -/
theorem not_updatesComplete : ¬ Obligations.UpdatesComplete := by
  unfold Obligations.UpdatesComplete
  rintro ⟨-, -, -, -, -, -, -, -, -, -, -, -, hreject, -⟩
  obtain ⟨t, ht, hst, -⟩ := hreject .debug acceptedTrial (by decide +kernel) rfl rfl
  have hstays : ∃ t, exec (.reject .debug) acceptedTrial = .next t ∧ t.upd.st = 6 := ⟨_, rfl, by decide +kernel⟩
  obtain ⟨u, hu, htrial⟩ := hstays
  rw [ht] at hu
  cases hu
  exact absurd (hst.symm.trans htrial) (by decide)

end Sys2Proof.Machine
end

section
/-! The Valley domain (R498, R500 to R504, R507 to R509): the samples of the store, the real-time clock and the energy bursts. -/

set_option Elab.async false

namespace Sys2Proof.Machine

/-! One rule per operation of the domain -/

theorem onVal_valley (f : Valley → Valley) (s : State) : (onVal f s).valley = f s.valley := rfl
@[simp] theorem raiseVal_valley (k : Nat) (s : State) : (raiseVal k s).valley = s.valley := raise_valley _ _ _ _
@[simp] theorem raiseVal_now (k : Nat) (s : State) : (raiseVal k s).now = s.now := raise_now _ _ _ _

/-- A cause of the VALLEY page that is raised reads 1. -/
theorem rdb_raiseVal {k : Nat} (hk : k < 32) (s : State) : rdb (raiseVal k s) (rk .valley 0 0x010) k = true :=
  rdb_raise _ _ _ _ hk (by decide)

/-- Raising one cause of the VALLEY page leaves the others. -/
theorem rdb_raiseVal_ne {k b : Nat} (hb : b < 32) (hd : b ≠ k) (s : State) :
    rdb (raiseVal k s) (rk .valley 0 0x010) b = rdb s (rk .valley 0 0x010) b :=
  rdb_raise_ne _ _ _ _ _ hb hd (by unfold mergeKey; decide)

/-- Registers of the VALLEY page are not counters: a counted access leaves them. -/
theorem rd_countedWrite_valKey {off : Nat} (ho : off < 0x1000) (h : ¬ countOff off) (m : Master) (t : PageType) (n o : Nat) (s : State) :
    rd (countedWrite m t n o s) (valKey off) = rd s (valKey off) := by
  have hoff : valKey off % 0x1000 = off := by simp only [valKey, rk, pageFirst]; omega
  exact rd_countedWrite_off (by rwa [hoff]) _ _ _ _ _

/-- What a sample of the store leaves alone once the store has been judged. -/
def sampleView (s : State) : Nat × Nat × Nat × Bool × Bool × Bool :=
  (s.now, s.valley.sampleAt, s.valley.vstore, s.valley.vpg, rdb s (rk .valley 0 0x010) 0, rdb s (rk .valley 0 0x010) 1)

theorem refuseBurst_sampleView (s : State) : sampleView (refuseBurst s) = sampleView s := by
  have hb : ∀ b, b < 32 → b ≠ 2 → rdb (refuseBurst s) (rk .valley 0 0x010) b = rdb s (rk .valley 0 0x010) b := fun b hb hd =>
    rdb_raiseVal_ne hb hd _
  rw [sampleView, hb 0 (by decide) (by decide), hb 1 (by decide) (by decide), refuseBurst, logHap_valley, raiseVal_valley,
    logHap_now, raiseVal_now]
  rfl

/-- Deciding the requests of a sample changes neither the store nor its judgement. -/
theorem decideBursts_sampleView (s : State) : sampleView (decideBursts s) = sampleView s := by
  unfold decideBursts
  extract_lets now v u w
  have hu : sampleView u = sampleView s := by
    dsimp only [u]
    split
    · rfl
    · split
      · rfl
      · exact refuseBurst_sampleView _
  rw [← hu]
  split
  · rfl
  · split
    · rfl
    · exact refuseBurst_sampleView _

/-- The chargers change neither the store nor its judgement. -/
theorem chargers_sampleView (s : State) : sampleView (chargers s) = sampleView s := by
  unfold chargers setChargers
  extract_lets
  split <;> rfl

/-! Samples of the store (R500 to R502) -/

/-- The store as a sample finds it: its voltage taken, the next sample set. -/
def sampled (mv : Nat) (s : State) : State :=
  let at' := s.valley.sampleAt
  let s := upto at' s
  let next := nextDue at' (16 * msec) s.now
  onVal (fun v => { v with sampleAt := next, vstore := mv / 10 * 10 }) s

theorem sampled_vstore (mv : Nat) (s : State) : (sampled mv s).valley.vstore = mv / 10 * 10 := rfl
theorem sampled_por (mv : Nat) (s : State) : (sampled mv s).valley.por = s.valley.por := rfl

theorem valleySample_eq (mv : Nat) (s : State) : valleySample mv s =
    if (sampled mv s).valley.por then sampled mv s
    else if (sampled mv s).valley.vstore < 1800 then valleyReset (sampled mv s)
    else decideBursts (vpgStep (chargers (sampled mv s))) := rfl

/-- A sample of a store above 1.8 V judges it and decides the requests. -/
theorem valleySample_judges {mv : Nat} {s : State} (hpor : s.valley.por = false) (hmv : 1800 ≤ mv) :
    valleySample mv s = decideBursts (vpgStep (chargers (sampled mv s))) := by
  rw [valleySample_eq, sampled_por, sampled_vstore, if_neg (ne_true_of_eq_false hpor), if_neg (by omega)]

/-- A sample of a store below 1.8 V resets the domain. -/
theorem valleySample_resets {mv : Nat} {s : State} (hpor : s.valley.por = false) (hmv : mv < 1800) :
    valleySample mv s = valleyReset (sampled mv s) := by
  rw [valleySample_eq, sampled_por, sampled_vstore, if_neg (ne_true_of_eq_false hpor), if_pos (by omega)]

theorem vpgStep_falls {s : State} (hvpg : s.valley.vpg = true) (hv : s.valley.vstore < 2200) :
    sampleView (vpgStep s) =
      (s.now, s.valley.sampleAt, s.valley.vstore, false, rdb s (rk .valley 0 0x010) 0, true) := by
  rw [vpgStep, if_pos hvpg, if_pos hv, sampleView, logHap_now, logHap_valley, raiseVal_now, raiseVal_valley]
  simp only [rdb, rd_logHap]
  rw [← rdb, ← rdb, rdb_raiseVal_ne (by decide) (by decide), rdb_raiseVal (by decide)]
  rfl

theorem vpgStep_rises {s : State} (hvpg : s.valley.vpg = false) (hv : 3300 ≤ s.valley.vstore) :
    sampleView (vpgStep s) =
      (s.now, s.valley.sampleAt, s.valley.vstore, true, true, rdb s (rk .valley 0 0x010) 1) := by
  rw [vpgStep, if_neg (ne_true_of_eq_false hvpg), if_pos hv, sampleView, logHap_now, logHap_valley, raiseVal_now, raiseVal_valley]
  simp only [rdb, rd_logHap]
  rw [← rdb, ← rdb, rdb_raiseVal (by decide), rdb_raiseVal_ne (by decide) (by decide)]
  rfl

theorem askGrant_keeps {α : Type} {π : State → α} (hπ : ∀ v u, π { u with valley := { u.valley with reqUpd := v } } = π u)
    (s : State) : π (askGrant s) = π s := by
  unfold askGrant
  split
  · rfl
  · exact hπ _ _

section Sample

variable {mv : Nat} {s : State} (hpor : s.valley.por = false)
include hpor

theorem valleySampleLow_completes (hmv : 1800 ≤ mv) (hvpg : s.valley.vpg = true) (hlow : mv < 2200) :
    ∃ t, exec (.valleySample mv) s = .next t ∧ t.valley.vstore = mv / 10 * 10 ∧ s.valley.sampleAt ≤ t.now ∧
      t.valley.sampleAt = nextDue s.valley.sampleAt (16 * msec) t.now ∧ t.valley.vpg = false ∧
      rdb t (rk .valley 0 0x010) 1 = true := by
  have hask : ((askGrant s).valley.por, (askGrant s).valley.vpg, (askGrant s).valley.sampleAt) =
      (s.valley.por, s.valley.vpg, s.valley.sampleAt) :=
    askGrant_keeps (π := fun u => (u.valley.por, u.valley.vpg, u.valley.sampleAt)) (fun _ _ => rfl) s
  simp only [Prod.mk.injEq] at hask
  obtain ⟨hp, hg, hat⟩ := hask
  have hview := chargers_sampleView (sampled mv (askGrant s))
  simp only [sampleView, Prod.mk.injEq] at hview
  obtain ⟨hnow, hnext, hstore, hgood, -, -⟩ := hview
  have hstep := (decideBursts_sampleView _).trans
    (vpgStep_falls (s := chargers (sampled mv (askGrant s))) (by rw [hgood]; exact hg.trans hvpg) (by
      rw [hstore]
      exact (by omega : mv / 10 * 10 < 2200)))
  simp only [sampleView, Prod.mk.injEq] at hstep
  obtain ⟨hnow', hnext', hstore', hgood', -, hraised⟩ := hstep
  refine ⟨_, congrArg Host.Outcome.next (valleySample_judges (hp.trans hpor) hmv), hstore'.trans hstore, ?_, ?_, hgood', hraised⟩
  · rw [hnow', hnow, ← hat]
    exact le_upto_now _ _
  · rw [hnext', hnow', hnext, hnow, ← hat]
    rfl

theorem valleySampleGood_completes (hvpg : s.valley.vpg = false) (hmv : 3300 ≤ mv) :
    ∃ t, exec (.valleySample mv) s = .next t ∧ t.valley.vstore = mv / 10 * 10 ∧ t.valley.vpg = true ∧
      rdb t (rk .valley 0 0x010) 0 = true := by
  have hask : ((askGrant s).valley.por, (askGrant s).valley.vpg) = (s.valley.por, s.valley.vpg) :=
    askGrant_keeps (π := fun u => (u.valley.por, u.valley.vpg)) (fun _ _ => rfl) s
  simp only [Prod.mk.injEq] at hask
  obtain ⟨hp, hg⟩ := hask
  have hview := chargers_sampleView (sampled mv (askGrant s))
  simp only [sampleView, Prod.mk.injEq] at hview
  obtain ⟨-, -, hstore, hgood, -, -⟩ := hview
  have hstep := (decideBursts_sampleView _).trans
    (vpgStep_rises (s := chargers (sampled mv (askGrant s))) (by rw [hgood]; exact hg.trans hvpg) (by
      rw [hstore]
      exact (by omega : 3300 ≤ mv / 10 * 10)))
  simp only [sampleView, Prod.mk.injEq] at hstep
  obtain ⟨-, -, hstore', hgood', hraised, -⟩ := hstep
  exact ⟨_, congrArg Host.Outcome.next (valleySample_judges (hp.trans hpor) (by omega)), hstore'.trans hstore, hgood', hraised⟩

theorem valleySampleReset_completes (hmv : mv < 1800) :
    ∃ t, exec (.valleySample mv) s = .next t ∧ t.valley.por = true ∧ t.valley.vbor = false ∧ t.log.count = 0 ∧
      t.pwr.cause = 0 := by
  have hp : (askGrant s).valley.por = s.valley.por := askGrant_keeps (π := fun u => u.valley.por) (fun _ _ => rfl) s
  refine ⟨_, congrArg Host.Outcome.next (valleySample_resets (hp.trans hpor) hmv), rfl, rfl, ?_, rfl⟩
  unfold valleyReset
  dsimp only
  split
  · rfl
  · rw [raise_log]
    rfl

theorem openCircuitMeasure_completes {mv : BitVec 12} (hhv : s.valley.hv = 1) :
    ∃ t, exec (.openCircuitMeasure mv) s = .next t ∧ t.valley.hvOc = mv.toNat ∧ s.valley.ocAt ≤ t.now ∧
      t.valley.ocAt = nextDue s.valley.ocAt (16 * secs) t.now := by
  refine ⟨_, congrArg Host.Outcome.next (if_neg (by simp [hpor, hhv])), rfl, le_upto_now _ _, ?_⟩
  generalize 16 * secs = per
  rfl

end Sample

/-- The end of the domain's reset sets VBOR and starts the real-time clock from 0. -/
theorem valleyPorEnd_completes {s : State} (hpor : s.valley.por = true) :
    ∃ t, exec .valleyPorEnd s = .next t ∧ t.valley.por = false ∧ t.valley.vbor = true ∧ t.valley.rtcBase = 0 ∧
      t.valley.rtcAt = s.now := by
  have hplace : ∀ u, (placeWaiting 64 u).valley = u.valley :=
    Part.same_of_op (p := .valley) (m := 786440) (by decide) (fun h => placeWaiting_stays h 64)
  have hset : ∀ u : State, ((setChargers u).valley.por, (setChargers u).valley.vbor, (setChargers u).valley.rtcBase,
      (setChargers u).valley.rtcAt) = (u.valley.por, u.valley.vbor, u.valley.rtcBase, u.valley.rtcAt) := fun u => by
    rw [setChargers]
    split <;> rfl
  simp only [Prod.mk.injEq, forall_and] at hset
  obtain ⟨hp, hv, hb, ha⟩ := hset
  refine ⟨valleyPorEnd s, rfl, ?_⟩
  rw [valleyPorEnd, if_neg (by simp [hpor]), hplace, hp, hv, hb, ha]
  exact ⟨rfl, rfl, rfl, rfl⟩

/-! The real-time clock (R503, R504) -/

theorem rtcNow_congr {s t : State} (hv : t.valley = s.valley) (hn : t.now = s.now)
    (htrim : rd t (rk .valley 0 0x080) = rd s (rk .valley 0 0x080)) : rtcNow t = rtcNow s := by
  rw [rtcNow, rtcStart, hv, hn, rdsf, htrim]
  rfl

/-- Counting an access does not touch the real-time clock. -/
theorem rtcNow_pmcAccess (d : Doer) (store : Bool) (a : Nat) (page : Bool) (s : State) :
    rtcNow (pmcAccess d store a page s) = rtcNow s :=
  rtcNow_congr (pmcAccess_valley _ _ _ _ _) (pmcAccess_now _ _ _ _ _)
    (rd_pmcAccess (by simp only [countKey, mergeKey, pmcKey, rk, pageFirst]; omega) _ _ _ _)

@[simp] theorem rtcNow_countedWrite (m : Master) (t : PageType) (n off : Nat) (s : State) :
    rtcNow (countedWrite m t n off s) = rtcNow s := rtcNow_pmcAccess _ _ _ _ _

/-- The next tick of the clock lies ahead. -/
theorem lt_next_rtcTick (s : State) : s.now < rtcTickAt (rtcStart s).1 (rtcTicks s + 1) := by
  have hsecs : 0 < secs := by decide
  have hlt : (s.now - (rtcStart s).1) * 32768 < (rtcTicks s + 1) * secs :=
    (Nat.div_lt_iff_lt_mul hsecs).mp (Nat.lt_succ_self _)
  rw [rtcTickAt]
  omega

theorem rtcLoRead_completes {m : Master} {s : State} (h : pageUp s .valley 0x070 = true) :
    ∃ t, exec (.rtcLoRead m) s = .next t ∧ t.bus.rdata = wNat (rtcNow s) ∧ t.bus.err = false ∧
      rd t (valKey 0x074) = wNat (rtcNow s / 2 ^ 32) := by
  refine ⟨_, congrArg Host.Outcome.next (readAt_up h), ?_⟩
  dsimp only
  rw [respond_bus, rd_respond, rd_wr_same, countedRead, rtcNow_pmcAccess]
  exact ⟨rfl, rfl, rfl⟩

theorem xtFail_completes {s : State} (hpor : s.valley.por = false) (hx : s.valley.xtFail = false) :
    ∃ t, exec .xtFail s = .next t ∧ t.valley.xtFail = true ∧ rdb t (rk .valley 0 0x010) 4 = true := by
  refine ⟨_, congrArg Host.Outcome.next (if_neg (by simp [hpor, hx])), ?_, ?_⟩
  · rw [logHap_valley, raiseVal_valley]
    rfl
  · rw [rdb, rd_logHap]
    exact rdb_raiseVal (by decide) _

theorem xtRecover_completes {s : State} (hpor : s.valley.por = false) :
    ∃ t, exec .xtRecover s = .next t ∧ t.valley.xtFail = false :=
  ⟨_, congrArg Host.Outcome.next (if_neg (ne_true_of_eq_false hpor)), rfl⟩

/-! VALLEY.CTL (R504, R507, R508) -/

theorem writeValley_ctl (m : Master) (v : Word) (s : State) : writeValley m 0x088 v s = writeValCtl m v s := by
  simp [writeValley]

section Ctl

variable {m : Master} {s : State} (h : reaches s m .valley 0x088 = true)
include h

theorem burstGo_completes (hgrant : s.valley.grantSw = none) (hreq : s.valley.reqSw = none) :
    ∃ t, exec (.burstGo m) s = .next t ∧ t.valley.reqSw = some (rdf s (valKey 0x05C) 0 24) := by
  refine ⟨_, congrArg Host.Outcome.next (byBus_reaches h), ?_⟩
  simp [writeValley_ctl, writeValCtl, hgrant, hreq, busCycle_valley, onVal_valley, bit,
    rdf, rd_countedWrite_valKey (off := 0x05C) (by decide) (by unfold countOff; decide)]

theorem burstGoRefused_completes (hbusy : (s.valley.grantSw.isSome || s.valley.reqSw.isSome) = true) :
    ∃ t, exec (.burstGo m) s = .next t ∧ t.valley.reqSw = s.valley.reqSw ∧ t.valley.grantSw = s.valley.grantSw ∧
      rdb t (rk .valley 0 0x010) 2 = true := by
  refine ⟨_, congrArg Host.Outcome.next (byBus_reaches h), ?_⟩
  have hctl : writeValCtl m 2 (countedWrite m .valley 0 0x088 s) = refuseBurst (countedWrite m .valley 0 0x088 s) := by
    simp [writeValCtl, bit, hbusy]
  rw [writeValley_ctl, hctl, busCycle_valley, rdb, rd_busCycle, refuseBurst, logHap_valley, raiseVal_valley, rd_logHap, ← rdb,
    onVal_valley, countedWrite_valley]
  exact ⟨rfl, rfl, rdb_raiseVal (by decide) _⟩

theorem burstEnd_completes {g : Grant} (hgrant : s.valley.grantSw = some g) :
    ∃ t, exec (.burstEnd m) s = .next t ∧ t.valley.grantSw = none ∧ t.valley.burst = 0 := by
  refine ⟨_, congrArg Host.Outcome.next (byBus_reaches h), ?_⟩
  simp [writeValley_ctl, writeValCtl, hgrant, busCycle_valley, onVal_valley, bit]

end Ctl

/-- The MARK of a load of the clock is the newest entry of the reorder buffer, and the domain keeps what it holds (R447). -/
theorem rtcSetMark_leaves {old new : Nat} {s : State} (hcore : coreUp s = true) :
    (rtcSetMark old new s).valley = s.valley ∧
      ((rtcSetMark old new s).log.buffer.getLast?.map fun e => (e.1.mark, e.1.code, e.1.payload)) =
        some (true, 5, timeWords old) := by
  have hkeep : ∀ e, (submitEntry e s).valley = s.valley := fun e =>
    Part.same_of_op (p := .valley) (m := 1572872) (by decide) (fun h => submitEntry_stays h e) s
  refine ⟨hkeep _, ?_⟩
  have hlast : ∀ e : LogEnt, e.valley = false → (submitEntry e s).log.buffer.getLast?.map (·.1) = some e := fun e he => by
    rw [submitEntry, he, Bool.false_and, if_neg Bool.false_ne_true]
    simp
  unfold rtcSetMark
  extract_lets e
  have hv : e.valley = false := by
    have : e.valley = !(coreUp s) := rfl
    rw [this, hcore, Bool.not_true]
  have hl := hlast (if e.rtc then { e with time := new, loads := e.loads + 1 } else e) (by split <;> exact hv)
  generalize submitEntry _ s = u at hl ⊢
  obtain ⟨x, hx, hxe⟩ := Option.map_eq_some_iff.mp hl
  rw [hx, Option.map_some, hxe]
  split <;> rfl

/-- A load of the clock: its MARK, and the value that waits for the next tick (R504). -/
theorem rtcSet_leaves {s : State} (hcore : coreUp s = true) :
    (rtcSet s).valley.rtcValid = true ∧
      ((rtcSet s).log.buffer.getLast?.map fun e => (e.1.mark, e.1.code, e.1.payload)) = some (true, 5, timeWords (rtcNow s)) ∧
      (rtcSet s).valley.rtcLoad = some (rtcTickAt (rtcStart s).1 (rtcTicks s + 1),
        (rd s (valKey 0x078)).toNat + (rd s (valKey 0x07C)).toNat * 2 ^ 32) := by
  have hcore' : ∀ f, coreUp (onVal f (rtcRebase s)) = coreUp s := fun _ => rfl
  rw [rtcSet]
  obtain ⟨hvalley, hmark⟩ := rtcSetMark_leaves ((hcore' _).trans hcore)
  rw [hvalley, hmark, onVal_valley]
  exact ⟨rfl, rfl, rfl⟩

theorem rtcSet_completes {m : Master} {s : State} (h : reaches s m .valley 0x088 = true) :
    ∃ t, exec (.rtcSet m) s = .next t ∧ t.valley.rtcValid = true ∧
      (t.log.buffer.getLast?.map fun e => (e.1.mark, e.1.code, e.1.payload)) = some (true, 5, timeWords (rtcNow s)) ∧
      t.valley.rtcLoad.map (·.2) = some ((rd s (valKey 0x078)).toNat + (rd s (valKey 0x07C)).toNat * 2 ^ 32) ∧
      (t.valley.rtcLoad.all fun l => decide (s.now < l.1)) = true := by
  have hcore : coreUp (countedWrite m .valley 0 0x088 s) = true := by
    simp only [reaches, pageUp, fabricUp, Bool.and_eq_true] at h
    obtain ⟨⟨⟨⟨⟨⟨_, hnone⟩, hon⟩, _⟩, _⟩, _⟩, _⟩ := h
    rw [coreUp, domOn, countedWrite, pmcAccess_pwr, Bool.and_eq_true]
    refine ⟨hon, decide_eq_true fun hr => ?_⟩
    rw [hr] at hnone
    exact Bool.false_ne_true hnone
  refine ⟨_, congrArg Host.Outcome.next (byBus_reaches h), ?_⟩
  have hctl : ∀ u, writeValCtl m 1 u = bookAction 1 (pageNo .valley 0) 0x088 (masterNo m) 0 1 (rtcSet u) := fun u => by
    simp [writeValCtl, bit]
  obtain ⟨hvalid, hmark, hload⟩ := rtcSet_leaves hcore
  rw [writeValley_ctl, hctl, busCycle_valley, busCycle_log, bookAction_valley, bookAction_log, hvalid, hmark, hload,
    rd_countedWrite_valKey (off := 0x078) (by decide) (by unfold countOff; decide),
    rd_countedWrite_valKey (off := 0x07C) (by decide) (by unfold countOff; decide), rtcNow_countedWrite]
  have hnext := lt_next_rtcTick (countedWrite m .valley 0 0x088 s)
  rw [countedWrite_now] at hnext
  refine ⟨rfl, rfl, by rw [Option.map_some], ?_⟩
  rw [Option.all_some]
  exact decide_eq_true hnext

theorem burstTmo_completes {g : Grant} {s : State} (hgrant : s.valley.grantSw = some g) :
    ∃ t, exec .burstTmo s = .next t ∧ t.valley.grantSw = none ∧ t.valley.burst = 0 ∧ t.valley.timedOut = true ∧
      g.since + secs ≤ t.now ∧ rdb t (rk .valley 0 0x010) 3 = true := by
  have hexec : exec .burstTmo s = .next (raiseVal 3 (onVal (fun v => { v with grantSw := none, burst := 0, timedOut := true })
      (upto (g.since + secs) s))) := by
    refine congrArg Host.Outcome.next ?_
    rw [hgrant]
  refine ⟨_, hexec, ?_⟩
  rw [raiseVal_valley, raiseVal_now]
  exact ⟨rfl, rfl, rfl, le_upto_now _ _, rdb_raiseVal (by decide) _⟩

theorem holdupEnd_completes {s : State} (h : s.valley.holdup = true) :
    ∃ t, exec .holdupEnd s = .next t ∧ t.valley.holdup = false :=
  ⟨_, congrArg Host.Outcome.next (if_neg (by simp [h])), rfl⟩

/-- Settles O34: samples of the store, the real-time clock, energy bursts and the hold-up. -/
theorem valleyCompletes : Obligations.ValleyCompletes := by
  unfold Obligations.ValleyCompletes
  exact ⟨fun _ _ hpor hmv hvpg hlow => valleySampleLow_completes hpor hmv hvpg hlow,
    fun _ _ hpor hvpg hmv => valleySampleGood_completes hpor hvpg hmv, fun _ _ hpor hmv => valleySampleReset_completes hpor hmv,
    fun _ => valleyPorEnd_completes, fun _ _ hpor hhv => openCircuitMeasure_completes hpor hhv, fun _ _ => rtcSet_completes,
    fun _ _ => rtcLoRead_completes, fun _ => xtFail_completes, fun _ => xtRecover_completes,
    fun _ _ h hg hr => burstGo_completes h hg hr, fun _ _ h hb => burstGoRefused_completes h hb,
    fun _ _ _ h hg => burstEnd_completes h hg, fun _ _ => burstTmo_completes, fun _ h _ => holdupEnd_completes h⟩

end Sys2Proof.Machine
end

section
/-! The application cluster (R516, R518, R521, R527, R529, R537): watchdogs, timers, the scrubber and the counters. -/

set_option Elab.async false

namespace Sys2Proof.Machine

/-- What holds before a list of updates and is kept by each of them holds after. -/
theorem forEach_invariant {α : Type} {P : State → Prop} {f : α → State → State} :
    ∀ {l : List α}, (∀ x ∈ l, ∀ s, P s → P (f x s)) → ∀ {s}, P s → P (forEach l f s)
  | [], _, _, h => h
  | x :: _, hf, s, h =>
    forEach_invariant (fun y hy => hf y (List.mem_cons_of_mem _ hy)) (hf x List.mem_cons_self s h)

/-- What one member of a list brings about and the others keep holds after the list. -/
theorem forEach_reaches {α : Type} {I P : State → Prop} {f : α → State → State} {l : List α} {x : α} {s : State} (hx : x ∈ l)
    (hI : ∀ y ∈ l, ∀ s, I s → I (f y s)) (hP : ∀ y ∈ l, ∀ s, I s → P s → P (f y s)) (hdo : ∀ s, I s → P (f x s)) (hs : I s) :
    P (forEach l f s) := by
  obtain ⟨a, b, rfl⟩ := List.append_of_mem hx
  rw [forEach_append]
  have ha : I (forEach a f s) := forEach_invariant (fun y hy => hI y (List.mem_append_left _ hy)) hs
  have hmid : I (f x (forEach a f s)) ∧ P (f x (forEach a f s)) := ⟨hI x hx _ ha, hdo _ ha⟩
  have hmem : ∀ y ∈ b, y ∈ a ++ x :: b := fun y hy => List.mem_append_right _ (List.mem_cons_of_mem _ hy)
  exact (forEach_invariant (P := fun s => I s ∧ P s)
    (fun y hy s h => ⟨hI y (hmem y hy) s h.1, hP y (hmem y hy) s h.1 h.2⟩) hmid).2

/-! Harts -/

@[simp] theorem hart_onHart_same (h : Nat) (f : Hart → Hart) (s : State) : hart (onHart h f s) h = f (hart s h) :=
  smGet_smSet_same _ _ _ _

theorem hart_onHart_ne {h g : Nat} (f : Hart → Hart) (s : State) (hne : g ≠ h) : hart (onHart h f s) g = hart s g :=
  smGet_smSet_ne _ _ _ hne

theorem hart_congr {s t : State} (h : t.cluster.harts = s.cluster.harts) (g : Nat) : hart t g = hart s g := by
  rw [hart, hart, h]

/-! Counters -/

@[simp] theorem ctr_setCtr_same (n : Nat) (c : Ctr) (s : State) : ctr (setCtr n c s) n = c := smGet_smSet_same _ _ _ _

theorem ctr_setCtr_ne {n j : Nat} (c : Ctr) (s : State) (h : j ≠ n) : ctr (setCtr n c s) j = ctr s j := smGet_smSet_ne _ _ _ h

theorem ctr_congr {s t : State} (h : t.cluster.ctrs = s.cluster.ctrs) (n : Nat) : ctr t n = ctr s n := by
  rw [ctr, ctr, h]

@[simp] theorem raisePmc_cluster (k : Nat) (s : State) : (raisePmc k s).cluster = s.cluster := raise_cluster _ _ _ _

/-- A cause of the PMC page that is raised reads 1. -/
theorem rdb_raisePmc {k : Nat} (hk : k < 32) (s : State) : rdb (raisePmc k s) (rk .pmc 0 0x010) k = true :=
  rdb_raise _ _ _ _ hk (by decide)

/-- Raising one cause of the PMC page leaves the others. -/
theorem rdb_raisePmc_ne {k b : Nat} (hb : b < 32) (hd : b ≠ k) (s : State) :
    rdb (raisePmc k s) (rk .pmc 0 0x010) b = rdb s (rk .pmc 0 0x010) b :=
  rdb_raise_ne _ _ _ _ _ hb hd (by unfold mergeKey; decide)

/-- What an overflow changes of the cluster: its counter, the stop of all, and the interrupt of a hart. -/
theorem ctrOverflow_cluster_keeps {α : Type} {π : Cluster → α} (hstop : ∀ c v, π { c with pmcStop := v } = π c)
    (hharts : ∀ c v, π { c with harts := v } = π c) (n : Nat) (s : State) :
    π (ctrOverflow n s).cluster = π (setCtr n { ctr s n with val := 0, known := true } s).cluster := by
  unfold ctrOverflow
  extract_lets c s1 s2 d s3 s4
  have h3 : π s3.cluster = π s1.cluster := by
    unfold s3
    split
    · exact hstop _ _
    · rfl
  have h4 : π s4.cluster = π s1.cluster := by
    refine Eq.trans ?_ h3
    unfold s4
    split
    · exact congrArg π (raisePmc_cluster _ _)
    · rfl
  split
  · split
    · exact (hharts _ _).trans h4
    · exact h4
  · exact h4

theorem ctr_ctrOverflow (n j : Nat) (s : State) :
    ctr (ctrOverflow n s) j = ctr (setCtr n { ctr s n with val := 0, known := true } s) j :=
  ctrOverflow_cluster_keeps (π := fun c => smGet ctr0 c.ctrs j) (fun _ _ => rfl) (fun _ _ => rfl) n s

/-- An overflow leaves the overflow bit of its counter set. -/
theorem rdb_ctrOverflow (n : Nat) (s : State) :
    rdb (ctrOverflow n s) (pmcKey (0x060 + 4 * (n / 32))) (n % 32) = true := by
  have hkeep : ∀ k u, rd (raisePmc k u) (pmcKey (0x060 + 4 * (n / 32))) = rd u (pmcKey (0x060 + 4 * (n / 32))) := fun k u =>
    rd_raise u (by simp only [pmcKey, rk, pageFirst]; omega) (by simp only [mergeKey, pmcKey, rk, pageFirst]; omega)
  unfold ctrOverflow
  extract_lets c s1 s2 d s3 s4
  have h2 : rdb s2 (pmcKey (0x060 + 4 * (n / 32))) (n % 32) = true := rdb_wrb_same _ _ _ _ (Nat.mod_lt _ (by decide))
  have h3 : rdb s3 (pmcKey (0x060 + 4 * (n / 32))) (n % 32) = true := by unfold s3; split <;> exact h2
  have h4 : rdb s4 (pmcKey (0x060 + 4 * (n / 32))) (n % 32) = true := by
    unfold s4
    split
    · exact (congrArg (bit · (n % 32)) (hkeep _ _)).trans h3
    · exact h3
  split
  · split <;> exact h4
  · exact h4

/-- An overflow raises no cause of the PMC page but those of the counters. -/
theorem rdb_ctrOverflow_cause {n b : Nat} (hn : n < 64) (hb : 2 ≤ b) (hb' : b < 32) (s : State) :
    rdb (ctrOverflow n s) (rk .pmc 0 0x010) b = rdb s (rk .pmc 0 0x010) b := by
  unfold ctrOverflow
  extract_lets c s1 s2 d s3 s4
  have h2 : rdb s2 (rk .pmc 0 0x010) b = rdb s (rk .pmc 0 0x010) b :=
    congrArg (bit · b) (rd_wrb_ne _ _ _ (by simp only [pmcKey, rk, pageFirst]; omega))
  have h3 : rdb s3 (rk .pmc 0 0x010) b = rdb s (rk .pmc 0 0x010) b := by unfold s3; split <;> exact h2
  have h4 : rdb s4 (rk .pmc 0 0x010) b = rdb s (rk .pmc 0 0x010) b := by
    unfold s4
    split
    · exact (rdb_raisePmc_ne hb' (by omega) _).trans h3
    · exact h3
  split
  · split <;> exact h4
  · exact h4

/-- Counting keeps what a change of one counter's count and an overflow keep. -/
theorem pmcCount_keeps {α : Type} {π : State → α} {cls : Nat} (hset : ∀ n c u, π (setCtr n c u) = π u)
    (hovf : ∀ n u, n < 64 → π (ctrOverflow n u) = π u) (m : Option Doer) (a : Option Nat) (s : State) :
    π (pmcCount cls m a s) = π s := by
  unfold pmcCount
  split
  · rfl
  · refine forEach_mem_keeps (fun n hn u => ?_) s
    split
    · split
      · unfold ctrStep
        split
        · exact hset _ _ _
        · exact hovf n u (List.mem_range.mp hn)
      · rfl
      · exact hset _ _ _
    · rfl

theorem pmcCount_now (cls : Nat) (m : Option Doer) (a : Option Nat) (s : State) : (pmcCount cls m a s).now = s.now := by
  obtain ⟨_, _, _, h⟩ := pmcCount_countsOnly cls m a s
  rw [h]

/-- Counting leaves the scrubber where it is. -/
theorem pmcCount_scrub (cls : Nat) (m : Option Doer) (a : Option Nat) (s : State) :
    ((pmcCount cls m a s).cluster.scrub, (pmcCount cls m a s).cluster.scrubAt) = (s.cluster.scrub, s.cluster.scrubAt) :=
  pmcCount_keeps (π := fun u => (u.cluster.scrub, u.cluster.scrubAt)) (fun _ _ _ => rfl) (fun n u _ =>
    ctrOverflow_cluster_keeps (π := fun c => (c.scrub, c.scrubAt)) (fun _ _ => rfl) (fun _ _ => rfl) n u) _ _ _

theorem rdb_pmcCount_cause {b : Nat} (hb : 2 ≤ b) (hb' : b < 32) (cls : Nat) (m : Option Doer) (a : Option Nat) (s : State) :
    rdb (pmcCount cls m a s) (rk .pmc 0 0x010) b = rdb s (rk .pmc 0 0x010) b :=
  pmcCount_keeps (π := fun u => rdb u (rk .pmc 0 0x010) b) (fun _ _ _ => rfl)
    (fun _ u hn => rdb_ctrOverflow_cause hn hb hb' u) _ _ _

/-- Counting changes of a hart no more than its interrupt of counters. -/
theorem pmcCount_hart {α : Type} {π : Hart → α} (hπ : ∀ x, π { x with lcofip := true } = π x) (cls : Nat) (m : Option Doer)
    (a : Option Nat) (s : State) (h : Nat) : π (hart (pmcCount cls m a s) h) = π (hart s h) := by
  refine pmcCount_keeps (π := fun u => π (hart u h)) (fun _ _ _ => rfl) (fun n u _ => ?_) _ _ _
  unfold ctrOverflow
  extract_lets c s1 s2 d s3 s4
  have h3 : hart s3 h = hart u h := by unfold s3; split <;> rfl
  have h4 : hart s4 h = hart u h := by
    unfold s4
    split
    · exact (hart_congr (by rw [raisePmc_cluster]) h).trans h3
    · exact h3
  split
  · split
    next g _ _ =>
      by_cases hg : h = g
      · rw [hg, hart_onHart_same, hπ, ← hg, h4]
      · rw [hart_onHart_ne _ _ hg, h4]
    next => rw [h4]
  · rw [h4]

theorem countedWrite_hart {α : Type} {π : Hart → α} (hπ : ∀ x, π { x with lcofip := true } = π x) (m : Master) (t : PageType)
    (n off : Nat) (s : State) (h : Nat) : π (hart (countedWrite m t n off s) h) = π (hart s h) := by
  have hcls : ∀ cls d a u, π (hart (pmcAccesses cls d a u) h) = π (hart u h) := fun cls d a u => by
    unfold pmcAccesses
    split
    · exact pmcCount_hart hπ _ _ _ _ _
    · rfl
  exact (hcls _ _ _ _).trans (hcls _ _ _ _)

/-- The configuration of a counter is no register that counting writes. -/
theorem ctrCfg_not_countOff {n : Nat} (hn : n < 64) : ¬ countOff (ctrKey n 0 % 0x1000) := by
  simp only [countOff, ctrKey, pmcKey, rk, pageFirst]
  omega

/-- A counter that does not count a class, by its class or for being disabled, stays as it is where that class is counted. -/
theorem ctr_pmcCount {n cls : Nat} {s : State} (hn : n < 64)
    (hcfg : rdf s (ctrKey n 0) 0 8 ≠ cls ∨ rdb s (ctrKey n 0) 24 = false) (m : Option Doer) (a : Option Nat) :
    ctr (pmcCount cls m a s) n = ctr s n := by
  unfold pmcCount
  split
  · rfl
  refine (forEach_invariant (P := fun u => rd u (ctrKey n 0) = rd s (ctrKey n 0) ∧ ctr u n = ctr s n) (fun j hj u hu => ?_)
    ⟨rfl, rfl⟩).2
  obtain ⟨hrd, hctr⟩ := hu
  have hjlt : j < 64 := List.mem_range.mp hj
  split
  next hcond =>
    have hne : n ≠ j := fun h => by
      subst h
      simp only [Bool.and_eq_true, ctrRuns, decide_eq_true_eq] at hcond
      obtain ⟨⟨⟨⟨⟨⟨⟨hen, _⟩, _⟩, _⟩, hcls⟩, _⟩, _⟩, _⟩ := hcond
      rw [rdf, hrd, ← rdf] at hcls
      rw [rdb, hrd, ← rdb] at hen
      exact hcfg.elim (fun h => h hcls) (fun h => Bool.false_ne_true (h.symm.trans hen))
    split
    · unfold ctrStep
      split
      · exact ⟨hrd, (ctr_setCtr_ne _ _ hne).trans hctr⟩
      · exact ⟨(rd_ctrOverflow_off (ctrCfg_not_countOff hn) u hjlt).trans hrd,
          (ctr_ctrOverflow j n u).trans ((ctr_setCtr_ne _ _ hne).trans hctr)⟩
    · exact ⟨hrd, hctr⟩
    · exact ⟨hrd, (ctr_setCtr_ne _ _ hne).trans hctr⟩
  next => exact ⟨hrd, hctr⟩

theorem ctr_pmcAccesses {n cls : Nat} {s : State} (hn : n < 64)
    (hcfg : rdf s (ctrKey n 0) 0 8 ≠ cls ∨ rdb s (ctrKey n 0) 24 = false) (d : Doer) (a : Nat) :
    ctr (pmcAccesses cls d a s) n = ctr s n := by
  unfold pmcAccesses
  split
  · exact ctr_pmcCount hn hcfg _ _
  · rfl

theorem rd_pmcAccesses_off {j : Nat} (hj : ¬ countOff (j % 0x1000)) (cls : Nat) (d : Doer) (a : Nat) (s : State) :
    rd (pmcAccesses cls d a s) j = rd s j := by
  unfold pmcAccesses
  split
  · exact rd_pmcCount_off hj s _ _ _
  · rfl

/-- So it stays where an access to a register is counted, by the class of the access and by that of register accesses. -/
theorem ctr_pmcAccess {n : Nat} {s : State} {store : Bool} (hn : n < 64)
    (hcfg : rdf s (ctrKey n 0) 0 8 ≠ (if store then 4 else 3) ∧ rdf s (ctrKey n 0) 0 8 ≠ 8 ∨ rdb s (ctrKey n 0) 24 = false)
    (d : Doer) (a : Nat) : ctr (pmcAccess d store a true s) n = ctr s n := by
  have hfirst : rd (pmcAccesses (if store then 4 else 3) d a s) (ctrKey n 0) = rd s (ctrKey n 0) :=
    rd_pmcAccesses_off (ctrCfg_not_countOff hn) _ _ _ _
  unfold pmcAccess
  dsimp only
  rw [if_pos rfl]
  refine (ctr_pmcAccesses hn ?_ d a).trans (ctr_pmcAccesses hn (hcfg.imp_left And.left) d a)
  rw [rdf, rdb, hfirst]
  exact hcfg.imp_left And.right

/-- A settlement changes of a counter only whether it is known. -/
theorem ctr_val_pmcSettle (s : State) (n : Nat) : (ctr (pmcSettle s) n).val = (ctr s n).val := by
  refine forEach_mem_keeps (π := fun u => (ctr u n).val) (fun j _ u => ?_) s
  split
  · by_cases h : n = j
    · rw [h, ctr_setCtr_same]
    · rw [ctr_setCtr_ne _ _ h]
  · rfl

@[simp] theorem rd_pmcSettle (s : State) (k : Nat) : rd (pmcSettle s) k = rd s k :=
  forEach_mem_keeps (π := fun u => rd u k) (fun j _ u => by split <;> rfl) s

/-! Watchdogs and timers (R516, R518) -/

theorem mem_setBits {w : Word} {n k : Nat} : k ∈ setBits w n ↔ k < n ∧ bit w k = true := by
  simp [setBits]

/-- A running watchdog that is restarted runs out its whole time from now. -/
theorem wdtRestart_wdt {h : Nat} {s : State} (ht : wdtTime s ≠ 0) (hh : (hart s h).halted = false) :
    (hart (wdtRestart h s) h).wdt = some (s.now + wdtTime s) ∧ (hart (wdtRestart h s) h).halted = false := by
  unfold wdtRestart
  dsimp only
  rw [hart_onHart_same, if_neg ht, if_neg (ne_true_of_eq_false hh)]
  exact ⟨rfl, hh⟩

theorem wdtTime_congr {s t : State} (h : rd t (pmcKey 0x048) = rd s (pmcKey 0x048)) : wdtTime t = wdtTime s := by
  unfold wdtTime rdf
  rw [h]

theorem physHart_congr {s t : State} (h : rd t (pmcKey 0x044) = rd s (pmcKey 0x044)) (p : Nat) : physHart t p = physHart s p := by
  unfold physHart role rdf
  rw [h]

/-- What a kick by a hart that runs leaves while it is carried out: registers, time, and the hart running. -/
def kickView (h : Nat) (s : State) : List (Nat × Word) × Nat × Bool := (s.regs, s.now, (hart s h).halted)

/-- A kick restarts no watchdog but that of the hart that kicks. -/
theorem kickWdt_wdt {m : Master} {w : Word} {p : Nat} {s : State} (hp : p ∈ setBits w 4) (hm : masterNo m = physHart s p)
    (ht : wdtTime s ≠ 0) (hh : (hart s (physHart s p)).halted = false) :
    (hart (kickWdt m w s) (physHart s p)).wdt = some (s.now + wdtTime s) := by
  have hview : ∀ u, kickView (masterNo m) u = kickView (masterNo m) s →
      (∀ k, rd u k = rd s k) ∧ u.now = s.now ∧ (hart u (masterNo m)).halted = false := fun u h => by
    simp only [kickView, Prod.mk.injEq] at h
    obtain ⟨hregs, hnow, hhalt⟩ := h
    exact ⟨fun k => by rw [rd, rd, hregs], hnow, by rw [hhalt, hm, hh]⟩
  have hrestart : ∀ u, kickView (masterNo m) u = kickView (masterNo m) s →
      kickView (masterNo m) (wdtRestart (masterNo m) u) = kickView (masterNo m) s ∧
      (hart (wdtRestart (masterNo m) u) (masterNo m)).wdt = some (s.now + wdtTime s) := fun u hu => by
    obtain ⟨hrd, hnow, hhalt⟩ := hview u hu
    have htime := wdtTime_congr (hrd (pmcKey 0x048))
    obtain ⟨hwdt, hhalt'⟩ := wdtRestart_wdt (by rwa [htime]) hhalt
    refine ⟨?_, by rw [hwdt, htime, hnow]⟩
    rw [← hu, kickView, kickView, hhalt', hhalt]
    rfl
  rw [kickWdt, ← hm]
  refine forEach_reaches (I := fun u => kickView (masterNo m) u = kickView (masterNo m) s)
    (P := fun u => (hart u (masterNo m)).wdt = some (s.now + wdtTime s)) (x := p) hp (fun q _ u hu => ?_)
    (fun q _ u hu hdone => ?_) (fun u hu => ?_) rfl
  · split
    next h => rw [← h]; exact (hrestart u hu).1
    next => exact hu
  · split
    next h => rw [← h]; exact (hrestart u hu).2
    next => exact hdone
  · have hphys := physHart_congr ((hview u hu).1 (pmcKey 0x044)) p
    rw [if_pos (hm.trans hphys.symm), hphys, ← hm]
    exact (hrestart u hu).2

theorem wdtKick_completes {m : Master} {v : BitVec 4} {p : Fin 4} {s : State} (h : reaches s m .pmc 0x04C = true)
    (hv : v.getLsbD p = true) (hm : masterNo m = physHart s p) (ht : wdtTime s ≠ 0)
    (hh : (hart s (physHart s p)).halted = false) :
    ∃ t, exec (.wdtKick m v) s = .next t ∧ (hart t (physHart s p)).wdt = some (s.now + wdtTime s) := by
  have hrd : ∀ off, off = 0x044 ∨ off = 0x048 → rd (countedWrite m .pmc 0 0x04C s) (pmcKey off) = rd s (pmcKey off) := by
    rintro off (rfl | rfl) <;>
      exact rd_countedWrite_off (by simp only [countOff, pmcKey, rk, pageFirst]; omega) _ _ _ _ _
  have hphys : physHart (countedWrite m .pmc 0 0x04C s) p = physHart s p :=
    physHart_congr (hrd _ (.inl rfl)) p
  have htime : wdtTime (countedWrite m .pmc 0 0x04C s) = wdtTime s :=
    wdtTime_congr (hrd _ (.inr rfl))
  have hbit : p.val ∈ setBits (wNat v.toNat) 4 := by
    have hp := p.isLt
    refine mem_setBits.mpr ⟨hp, ?_⟩
    rw [bit, wNat, BitVec.getLsbD_ofNat, decide_eq_true (by omega), Bool.true_and]
    exact hv
  refine ⟨_, congrArg Host.Outcome.next (byBus_reaches h), ?_⟩
  have hhart : ∀ u, hart (busCycle u) (physHart s p) = hart u (physHart s p) := fun _ => rfl
  have hkick := kickWdt_wdt hbit (hm.trans hphys.symm) (by rwa [htime]) (by
    rw [hphys]
    exact (countedWrite_hart (π := Hart.halted) (fun _ => rfl) _ _ _ _ _ _).trans hh)
  rw [hphys, htime, countedWrite_now] at hkick
  rw [hhart, hkick]

theorem mtimecmpMatch_completes {h : Fin 4} {s : State} (hup : fabricUp s = true) (hip : (hart s h).mtip = false)
    (hcmp : (hart s h).mtimecmp ≠ 0xFFFFFFFFFFFFFFFF) :
    ∃ t, exec (.mtimecmpMatch h) s = .next t ∧ (hart t h).mtip = true ∧
      s.clk.tick0 + (hart s h).mtimecmp * 160 ≤ t.now := by
  refine ⟨_, congrArg Host.Outcome.next (if_neg (by simp [hup, hip, hcmp])), ?_, ?_⟩
  · rw [hart_onHart_same]
  · exact le_upto_now _ _

/-! The scrubber (R521) -/

/-- The SRAM words that a check finds bad at a word just marked bad. -/
theorem mem_sramBad_marked {s : State} {a : Nat} {bad : List Nat} (h : s.cluster.bad = a :: bad) : a ∈ sramBad s a 8 := by
  rw [sramBad, h]
  exact List.mem_filter.mpr ⟨List.mem_cons_self, by simp⟩

theorem sramCheck_cluster (a n : Nat) (s : State) : (sramCheck a n s).cluster = s.cluster :=
  Part.same_of_op (p := .cluster) (m := 524296) (by decide) (fun h => sramCheck_stays h a n) s

theorem sramCheck_now (a n : Nat) (s : State) : (sramCheck a n s).now = s.now :=
  Part.same_of_op (p := .now) (m := 524296) (by decide) (fun h => sramCheck_stays h a n) s

/-- A check that finds a bad word raises SRAM_UNC. -/
theorem sramCheck_raises {a n w : Nat} {s : State} (hw : w ∈ sramBad s a n) :
    rdb (sramCheck a n s) (rk .pmc 0 0x010) 5 = true :=
  forEach_reaches (I := fun _ => True) (P := fun u => rdb u (rk .pmc 0 0x010) 5 = true) hw (fun _ _ _ _ => trivial)
    (fun _ _ _ _ _ => rdb_raisePmc (by decide) _) (fun _ _ => rdb_raisePmc (by decide) _) trivial

/-- A check that finds one bad word alone reports its place. -/
theorem sramCheck_reports {a n w : Nat} {s : State} (hw : w ∈ sramBad s a n) (hall : ∀ x ∈ sramBad s a n, x = w) :
    rd (sramCheck a n s) (pmcKey 0x05C) = wNat (w - sramBase) := by
  have hone : ∀ x ∈ sramBad s a n, ∀ u, rd (raisePmc 5 (wr (pmcKey 0x05C) (wNat (x - sramBase))
      (incHeld (pmcKey 0x058) 0 32 u))) (pmcKey 0x05C) = wNat (w - sramBase) := fun x hx u => by
    rw [rd_raisePmc (by simp only [countKey, mergeKey, pmcKey, rk, pageFirst]; omega), rd_wr_same, hall x hx]
  exact forEach_reaches (I := fun _ => True) (P := fun u => rd u (pmcKey 0x05C) = wNat (w - sramBase)) hw
    (fun _ _ _ _ => trivial) (fun x hx u _ _ => hone x hx u) (fun u _ => hone w hw u) trivial

/-- The scrubber moved on to its next word. -/
def scrubNext (s : State) : State :=
  let at' := s.cluster.scrubAt
  let s' := upto at' s
  let next := nextDue at' (rdf s (pmcKey 0x050) 0 8 * secs / 524288) s'.now
  { s' with cluster := { s'.cluster with scrub := (s'.cluster.scrub + 1) % 524288, scrubAt := next } }

theorem exec_scrub {errs : Fin 3} {s : State} (hup : fabricUp s = true) (hint : rdf s (pmcKey 0x050) 0 8 ≠ 0) :
    exec (.scrub errs) s = .next (
      let w := sramBase + 8 * s.cluster.scrub
      if errs = 2 || s.cluster.bad.contains w then
        sramCheck w 8 { scrubNext s with cluster := { (scrubNext s).cluster with bad := w :: s.cluster.bad.filter (· ≠ w) } }
      else if errs = 1 then pmcCount 14 none (some w) (raisePmc 4 (incHeld (pmcKey 0x054) 0 32 (scrubNext s)))
      else scrubNext s) :=
  congrArg Host.Outcome.next (if_neg (by simp [hup, hint]))

theorem scrubNext_leaves (s : State) : (scrubNext s).cluster.scrub = (s.cluster.scrub + 1) % 524288 ∧
    s.cluster.scrubAt ≤ (scrubNext s).now ∧
    (scrubNext s).cluster.scrubAt =
      nextDue s.cluster.scrubAt (rdf s (pmcKey 0x050) 0 8 * secs / 524288) (scrubNext s).now :=
  ⟨rfl, le_upto_now _ _, rfl⟩

theorem scrub_completes {errs : Fin 3} {s : State} (hup : fabricUp s = true) (hint : rdf s (pmcKey 0x050) 0 8 ≠ 0) :
    ∃ t, exec (.scrub errs) s = .next t ∧ t.cluster.scrub = (s.cluster.scrub + 1) % 524288 ∧ s.cluster.scrubAt ≤ t.now ∧
      t.cluster.scrubAt = nextDue s.cluster.scrubAt (rdf s (pmcKey 0x050) 0 8 * secs / 524288) t.now ∧
      (errs = 1 → s.cluster.bad.contains (sramBase + 8 * s.cluster.scrub) = false → rdb t (rk .pmc 0 0x010) 4 = true) ∧
      (errs = 2 → rdb t (rk .pmc 0 0x010) 5 = true ∧ t.cluster.bad.contains (sramBase + 8 * s.cluster.scrub) = true) ∧
      (errs = 2 → (sramBad s (sramBase + 8 * s.cluster.scrub) 8).all (· = sramBase + 8 * s.cluster.scrub) = true →
        rd t (pmcKey 0x05C) = wNat (8 * s.cluster.scrub)) := by
  have hexec := exec_scrub (errs := errs) hup hint
  obtain ⟨hscrub, hnow, hat⟩ := scrubNext_leaves s
  generalize hper : rdf s (pmcKey 0x050) 0 8 * secs / 524288 = per at hat ⊢
  generalize scrubNext s = u at hexec hscrub hnow hat
  dsimp only at hexec
  generalize hw : sramBase + 8 * s.cluster.scrub = w at hexec ⊢
  by_cases hbad : (errs = 2 || s.cluster.bad.contains w) = true
  · rw [if_pos hbad] at hexec
    have hmem := mem_sramBad_marked (s := { u with cluster := { u.cluster with bad := w :: s.cluster.bad.filter (· ≠ w) } })
      (a := w) rfl
    refine ⟨_, hexec, ?_⟩
    rw [sramCheck_cluster, sramCheck_now]
    refine ⟨hscrub, hnow, hat, fun he hno => ?_, fun _ => ⟨sramCheck_raises hmem, by simp⟩, fun _ hall => ?_⟩
    · rw [he, hno] at hbad
      exact absurd hbad (by decide)
    · rw [sramCheck_reports hmem fun x hx => ?_]
      · rw [← hw, Nat.add_sub_cancel_left]
      · by_contra hne
        rw [sramBad, List.mem_filter] at hx
        obtain ⟨hin, hrange⟩ := hx
        have hin' : x ∈ s.cluster.bad := by simpa [hne] using hin
        have hx' : x ∈ sramBad s w 8 := List.mem_filter.mpr ⟨hin', hrange⟩
        exact hne (of_decide_eq_true (List.all_eq_true.mp hall x hx'))
  · rw [if_neg hbad] at hexec
    have h2 : errs ≠ 2 := fun h => hbad (by simp [h])
    by_cases h1 : errs = 1
    · rw [if_pos h1] at hexec
      have hkept := pmcCount_scrub 14 none (some w) (raisePmc 4 (incHeld (pmcKey 0x054) 0 32 u))
      rw [raisePmc_cluster, incHeld_cluster, Prod.mk.injEq] at hkept
      obtain ⟨hscrub', hat'⟩ := hkept
      have hnow' : (pmcCount 14 none (some w) (raisePmc 4 (incHeld (pmcKey 0x054) 0 32 u))).now = u.now :=
        pmcCount_now _ _ _ _ |>.trans (raise_now _ _ _ _)
      refine ⟨_, hexec, hscrub'.trans hscrub, hnow'.symm ▸ hnow, by rw [hat', hnow', hat], fun _ _ => ?_, fun h => absurd h h2,
        fun h => absurd h h2⟩
      rw [rdb_pmcCount_cause (by decide) (by decide)]
      exact rdb_raisePmc (by decide) _
    · rw [if_neg h1] at hexec
      exact ⟨_, hexec, hscrub, hnow, hat, fun h => absurd h h1, fun h => absurd h h2, fun h => absurd h h2⟩

/-! The counters (R527, R529, R537) -/

theorem valLo_div (n : Nat) : (0x10C + 0x20 * n - 0x100) / 0x20 = n := by omega
theorem valLo_mod (n : Nat) : (0x10C + 0x20 * n) % 0x20 = 0x0C := by omega

theorem writePmc_valLo {n : Nat} (hn : n < 64) (v : Word) (s : State) : writePmc (0x10C + 0x20 * n) v s =
    setCtr n { ctr s n with val := v.toNat + 2 ^ 32 * (ctr s n).hiW, known := !(ctrRuns s n) || classSeen s n } s := by
  unfold writePmc
  rw [if_neg (by omega), if_neg (by omega), if_neg (by omega), if_pos (by omega), valLo_div, valLo_mod]
  rfl

theorem valLoWrite_completes {m : Master} {n : Fin 64} {v : Word} {s : State} (h : reaches s m .pmc 0x10C = true)
    (hoff : rdb s (ctrKey n 0) 24 = false) :
    ∃ t, exec (.valLoWrite m n v) s = .next t ∧ (ctr t n).val = v.toNat + 2 ^ 32 * (ctr s n).hiW ∧ (ctr t n).known = true := by
  have h' : reaches s m .pmc (0x10C + 0x20 * n.val) = true := h
  have hctr : ctr (countedWrite m .pmc 0 (0x10C + 0x20 * n.val) s) n = ctr s n := ctr_pmcAccess n.isLt (.inr hoff) _ _
  have hstop : ctrRuns (countedWrite m .pmc 0 (0x10C + 0x20 * n.val) s) n = false := by
    rw [ctrRuns, rdb, rd_countedWrite_off (ctrCfg_not_countOff n.isLt), ← rdb, hoff]
    rfl
  refine ⟨_, congrArg Host.Outcome.next (byBus_reaches h'), ?_⟩
  have hbus : ∀ u, ctr (busCycle u) n = ctr u n := fun _ => rfl
  rw [writePmc_valLo n.isLt, hbus, ctr_setCtr_same, hctr, hstop]
  exact ⟨rfl, rfl⟩

theorem valLoRead_completes {m : Master} {n : Fin 64} {c : Ctr} {s : State} (h : pageUp s .pmc 0x10C = true)
    (hc : c = ctr (countedRead m .pmc 0 (0x10C + 0x20 * n) s) n) (hk : c.known = true) :
    ∃ t, exec (.valLoRead m n) s = .next t ∧ t.bus.rdata = wNat c.val ∧ t.bus.err = false ∧
      rd t (ctrKey n 0x10) = wNat (c.val / 2 ^ 32 % 65536) := by
  have h' : pageUp s .pmc (0x10C + 0x20 * n.val) = true := h
  refine ⟨_, congrArg Host.Outcome.next (readAt_up h'), ?_⟩
  have hval : ctrValue n (countedRead m .pmc 0 (0x10C + 0x20 * n) s) = (c.val, countedRead m .pmc 0 (0x10C + 0x20 * n) s) := by
    rw [ctrValue, ← hc]
    exact if_pos hk
  rw [readCtrLo, hval, respond_bus, rd_respond, rd_wr_same]
  exact ⟨rfl, rfl, rfl⟩

theorem valLoReadUncounted_completes {m : Master} {n : Fin 64} {s : State} (h : pageUp s .pmc 0x10C = true)
    (hk : (ctr s n).known = true) (h3 : rdf s (ctrKey n 0) 0 8 ≠ 3) (h8 : rdf s (ctrKey n 0) 0 8 ≠ 8) :
    ∃ t, exec (.valLoRead m n) s = .next t ∧ t.bus.rdata = wNat (ctr s n).val ∧ t.bus.err = false := by
  have hctr : ctr s n = ctr (countedRead m .pmc 0 (0x10C + 0x20 * n) s) n :=
    (ctr_pmcAccess n.isLt (.inl ⟨h3, h8⟩) _ _).symm
  obtain ⟨t, ht, hdata, herr, _⟩ := valLoRead_completes h hctr hk
  exact ⟨t, ht, hdata, herr⟩

theorem counterOverflow_completes {n : Fin 64} {s : State} (hup : fabricUp s = true) (hruns : ctrRuns s n = true)
    (hcls : rdf s (ctrKey n 0) 0 8 ≠ 0) (hval : (ctr s n).val = 2 ^ 48 - 1) :
    ∃ t, exec (.counterOverflow n) s = .next t ∧ (ctr t n).val = 0 ∧
      rdb t (pmcKey (0x060 + 4 * (n / 32))) (n % 32) = true := by
  refine ⟨_, congrArg Host.Outcome.next (if_neg (by simp [hup, hruns, hcls, hval])), ?_, ?_⟩
  · rw [ctr_val_pmcSettle, ctr_ctrOverflow, ctr_setCtr_same]
  · rw [rdb, rd_pmcSettle]
    exact rdb_ctrOverflow n s

/-- Settles O35: watchdogs, timers, the scrubber and the counters. -/
theorem clusterCompletes : Obligations.ClusterCompletes := by
  unfold Obligations.ClusterCompletes
  exact ⟨fun _ _ _ _ => wdtKick_completes, fun _ _ => mtimecmpMatch_completes, fun _ _ => scrub_completes,
    fun _ _ _ _ => valLoWrite_completes, fun _ _ _ _ => valLoRead_completes, fun _ _ _ => valLoReadUncounted_completes,
    fun _ _ => counterOverflow_completes⟩

end Sys2Proof.Machine
end

section
/-! The TAP and the debug module (R531 to R533): scans, dmi accesses, abstract commands, the system bus, and the halt of harts. -/

set_option Elab.async false

namespace Sys2Proof.Machine

@[simp] theorem raiseDbg_cluster (k : Nat) (s : State) : (raiseDbg k s).cluster = s.cluster := raise_cluster _ _ _ _
@[simp] theorem raiseDbg_holds (k : Nat) (s : State) : (raiseDbg k s).holds = s.holds := raise_holds _ _ _ _

/-- A cause of the DBG page that is raised reads 1. -/
theorem rdb_raiseDbg {k : Nat} (hk : k < 32) (s : State) : rdb (raiseDbg k s) (rk .dbg 0 0x010) k = true :=
  rdb_raise _ _ _ _ hk (by decide)

/-! Scans (R531) -/

theorem drawBits_length : ∀ (n : Nat) (s : State), (drawBits n s).1.length = n
  | 0, _ => rfl
  | n + 1, s => congrArg Nat.succ (drawBits_length n (draw s).2)

/-- A scan of the boundary register captures a level for each cell and holds the new content. -/
theorem scanBoundary_dbg (cells : List Bool) (s : State) :
    (scanBoundary cells s).dbg.preload = cells ∧ (scanBoundary cells s).dbg.sample.length = cells.length :=
  ⟨rfl, drawBits_length _ _⟩

theorem extest_completes (cells : List Bool) (s : State) :
    ∃ t, exec (.extest cells) s = .next t ∧ t.dbg.ir = 0 ∧ t.dbg.preload = cells ∧ t.dbg.sample.length = cells.length := by
  obtain ⟨hpre, hlen⟩ := scanBoundary_dbg cells s
  exact ⟨_, rfl, rfl, hpre, hlen⟩

theorem samplePreload_completes (cells : List Bool) (s : State) :
    ∃ t, exec (.samplePreload cells) s = .next t ∧ t.dbg.ir = 2 ∧ t.dbg.preload = cells ∧
      t.dbg.sample.length = cells.length := by
  obtain ⟨hpre, hlen⟩ := scanBoundary_dbg cells s
  exact ⟨_, rfl, rfl, hpre, hlen⟩

theorem idcode_completes (s : State) : ∃ t, exec .idcode s = .next t ∧ t.dbg.ir = 1 ∧ t.bus.rdata = 0x1964805B :=
  ⟨_, rfl, rfl, rfl⟩

theorem bypass_completes (code : BitVec 5) (s : State) :
    ∃ t, exec (.bypass code) s = .next t ∧ t.dbg.ir = 0x1F ∧ t.regs = s.regs := ⟨_, rfl, rfl, rfl⟩

theorem dtmcs_completes (v : Word) (s : State) :
    ∃ t, exec (.dtmcs v) s = .next t ∧ t.dbg.ir = 0x10 ∧ t.dbg.denied = (s.dbg.denied && !bit v 17) := by
  refine ⟨_, rfl, ?_⟩
  dsimp only [draw]
  by_cases h : bit v 17 = true
  · rw [if_pos h, h, Bool.not_true, Bool.and_false]
    exact ⟨rfl, rfl⟩
  · rw [if_neg h, Bool.eq_false_of_not_eq_true h, Bool.not_false, Bool.and_true]
    exact ⟨rfl, rfl⟩

/-! dmi (R532) -/

theorem dbgCfg_of_dmWorks {s : State} (h : dmWorks s = true) : dbgCfg s 0 = true := by
  simp only [dmWorks, Bool.and_eq_true] at h
  obtain ⟨⟨hcfg, _⟩, _⟩ := h
  exact hcfg

/-- A dmi access with ALLOW reaches the debug module. -/
theorem exec_dmi {w : Bool} {a : BitVec 7} {v : Word} {s : State} (h : dbgCfg s 0 = true) :
    exec (.dmi w a v) s = .next (dmiAccess w a.toNat v (selectIr 0x11 s)) :=
  congrArg Host.Outcome.next (if_pos h)

/-- An access of a register of a module that works, outside the system bus access, is answered. -/
theorem dmiAccess_works {w : Bool} {a : Nat} {v : Word} {s : State} (h : dmWorks s = true) (ha : sbReg a = false) :
    dmiAccess w a v s = if w then respond 0 (dmWrite a v s) else respond (dmReadReg a s).1 (dmReadReg a s).2 := by
  rw [dmiAccess, h, ha, Bool.not_true, Bool.and_false, if_neg Bool.false_ne_true, Bool.false_and, Bool.or_false,
    if_neg Bool.false_ne_true]

/-- The data registers and the program buffer lie apart from the other registers. -/
theorem sbReg_data {a : Nat} (ha : 4 ≤ a ∧ a < 16 ∨ 0x20 ≤ a ∧ a < 0x28) : sbReg a = false :=
  decide_eq_false (by omega)

theorem dmWrite_data {a : Nat} (ha : 4 ≤ a ∧ a < 16 ∨ 0x20 ≤ a ∧ a < 0x28) (v : Word) (s : State) :
    dmWrite a v s = setDm a v s := by
  unfold dmWrite
  split
  case h_10 => exact if_pos ha
  all_goals omega

theorem dmReadReg_data {a : Nat} (ha : 4 ≤ a ∧ a < 16 ∨ 0x20 ≤ a ∧ a < 0x28) (s : State) : dmReadReg a s = dmReg a s := by
  unfold dmReadReg
  split
  case h_9 => exact if_pos (by omega)
  all_goals omega

section Dmi

variable {s : State} (h : dmWorks s = true)
include h

theorem dmWorks_selectIr (code : Nat) : dmWorks (selectIr code s) = true := h

theorem dmiWrite_completes {a : BitVec 7} {v : Word} (ha : 4 ≤ a.toNat ∧ a.toNat < 16 ∨ 0x20 ≤ a.toNat ∧ a.toNat < 0x28) :
    ∃ t, exec (.dmi true a v) s = .next t ∧ t.dbg.regs = smPut a.toNat v s.dbg.regs ∧ t.bus.err = false := by
  refine ⟨_, exec_dmi (dbgCfg_of_dmWorks h), ?_⟩
  rw [dmiAccess_works (dmWorks_selectIr h _) (sbReg_data ha), if_pos rfl, dmWrite_data ha]
  exact ⟨rfl, rfl⟩

theorem dmiRead_completes {a : BitVec 7} {v w : Word} (ha : 4 ≤ a.toNat ∧ a.toNat < 16 ∨ 0x20 ≤ a.toNat ∧ a.toNat < 0x28)
    (hfind : s.dbg.regs.find? (fun e => decide (e.1 = a.toNat)) = some (a.toNat, w)) :
    ∃ t, exec (.dmi false a v) s = .next t ∧ t.bus.rdata = w ∧ t.bus.err = false ∧ t.dbg.regs = s.dbg.regs := by
  have hreg : dmReg a.toNat (selectIr 0x11 s) = (w, selectIr 0x11 s) := by
    have hfind' : (selectIr 0x11 s).dbg.regs.find? (fun e => decide (e.1 = a.toNat)) = some (a.toNat, w) := hfind
    rw [dmReg, hfind']
  refine ⟨_, exec_dmi (dbgCfg_of_dmWorks h), ?_⟩
  rw [dmiAccess_works (dmWorks_selectIr h _) (sbReg_data ha), if_neg Bool.false_ne_true, dmReadReg_data ha, hreg]
  exact ⟨rfl, rfl, rfl⟩

end Dmi

theorem dmiDenied_completes {w : Bool} {a : BitVec 7} {v : Word} {s : State} (hup : fabricUp s = true)
    (hcfg : dbgCfg s 0 = false) :
    ∃ t, exec (.dmi w a v) s = .next t ∧ t.bus.rdata = 0 ∧ t.dbg.denied = true ∧ t.dbg.active = s.dbg.active ∧
      t.dbg.regs = s.dbg.regs := by
  have hup' : fabricUp (respond 0 (selectIr 0x11 s)) = true := hup
  refine ⟨dmDenied (selectIr 0x11 s), congrArg Host.Outcome.next (if_neg (ne_true_of_eq_false hcfg)), ?_⟩
  unfold dmDenied
  dsimp only
  rw [hup', Bool.not_true, Bool.or_false]
  split
  next hd => exact ⟨rfl, hd, rfl, rfl⟩
  next => rw [logHap_bus, logHap_dbg, raiseDbg, raise_bus, raise_dbg]; exact ⟨rfl, rfl, rfl, rfl⟩

theorem nextMove_dbg (s : State) : (nextMove s).dbg = s.dbg :=
  Part.same_of_op (p := .dbg) (m := 128) (by decide) (fun h => nextMove_stays h) s

theorem dmactive_completes {on : Bool} {s : State} (h : dbgCfg s 0 = true) :
    ∃ t, exec (.dmactive on) s = .next t ∧ t.dbg.active = on ∧ (on = false → t.dbg.regs = []) := by
  refine ⟨_, congrArg Host.Outcome.next (if_pos h), ?_⟩
  rw [setDmactive, nextMove_dbg]
  exact ⟨rfl, fun hoff => if_neg (ne_true_of_eq_false hoff)⟩

/-! Halts (R532, R533) -/

/-- The levels of a leg are noted at the freeze. -/
def noteLevels (l : Nat) (s : State) : State :=
  let v := legLevels s l
  onLeg l (fun g => { g with frozenA := v.1, frozenB := v.2 }) s

theorem noteLevels_cluster (l : Nat) (s : State) : (noteLevels l s).cluster = s.cluster := rfl
theorem noteLevels_holds (l : Nat) (s : State) : (noteLevels l s).holds = s.holds := rfl

/-- The outputs are frozen from an instant on (R156). -/
def freezeAt (now : Nat) (s : State) : State :=
  onPlumb (fun p => { p with frozen := some now }) { s with holds := { s.holds with frozen := true } }

/-- What the first halt of a hart brings on: the levels are noted and the outputs freeze. -/
def freezeOutputs (now : Nat) (s : State) : State := freezeAt now (forEach (List.range 96) noteLevels s)

theorem haltHart_eq (h : Nat) (s : State) : haltHart h s =
    if (hart s h).halted then s
    else
      let u := onHart h (fun x => { x with halted := true, wdt := none, wdtLeft := x.wdt.map (· - s.now) }) s
      raiseDbg 0 (logHap (pageNo .dbg 0) (if !(!(anyHalted s)) then u else freezeOutputs s.now u)) := rfl

theorem forEach_noteLevels_cluster (l : List Nat) (s : State) : (forEach l noteLevels s).cluster = s.cluster :=
  forEach_mem_keeps (π := State.cluster) (fun n _ u => noteLevels_cluster n u) s

theorem forEach_noteLevels_holds (l : List Nat) (s : State) : (forEach l noteLevels s).holds = s.holds :=
  forEach_mem_keeps (π := State.holds) (fun n _ u => noteLevels_holds n u) s

theorem freezeAt_cluster (now : Nat) (s : State) : (freezeAt now s).cluster = s.cluster := rfl
theorem freezeAt_holds (now : Nat) (s : State) : (freezeAt now s).holds = { s.holds with frozen := true } := rfl

/-- A freeze leaves the harts, and freezes the outputs. -/
theorem freezeOutputs_leaves (now : Nat) (s : State) :
    (freezeOutputs now s).cluster = s.cluster ∧ (freezeOutputs now s).holds = { s.holds with frozen := true } := by
  rw [freezeOutputs, freezeAt_cluster, freezeAt_holds, forEach_noteLevels_cluster, forEach_noteLevels_holds]
  exact ⟨rfl, rfl⟩

theorem haltHart_halted {h : Nat} {s : State} (hh : (hart s h).halted = true) : haltHart h s = s :=
  (haltHart_eq h s).trans (if_pos hh)

/-- A hart that runs halts, with its watchdog stopped; HALTED is raised. -/
theorem haltHart_running {h : Nat} {s : State} (hh : (hart s h).halted = false) :
    (haltHart h s).cluster =
      (onHart h (fun x => { x with halted := true, wdt := none, wdtLeft := x.wdt.map (· - s.now) }) s).cluster ∧
    (haltHart h s).holds = (if anyHalted s then s.holds else { s.holds with frozen := true }) ∧
    rdb (haltHart h s) (rk .dbg 0 0x010) 0 = true := by
  rw [haltHart_eq, if_neg (ne_true_of_eq_false hh)]
  extract_lets u
  rw [raiseDbg_cluster, raiseDbg_holds, logHap_cluster, logHap_holds]
  obtain ⟨hcluster, hholds⟩ := freezeOutputs_leaves s.now u
  refine ⟨?_, ?_, rdb_raiseDbg (by decide) _⟩ <;> cases anyHalted s
  · exact hcluster
  · rfl
  · exact hholds
  · rfl

theorem hart_haltHart_same (h : Nat) (s : State) : (hart (haltHart h s) h).halted = true := by
  by_cases hh : (hart s h).halted = true
  · rw [haltHart_halted hh, hh]
  · obtain ⟨hc, _, _⟩ := haltHart_running (Bool.eq_false_of_not_eq_true hh)
    rw [hart_congr (congrArg Cluster.harts hc), hart_onHart_same]

/-- A halt leaves every hart that is halted as it is. -/
theorem hart_haltHart_halted {g : Nat} {s : State} (hg : (hart s g).halted = true) (h : Nat) : hart (haltHart h s) g = hart s g := by
  by_cases hh : (hart s h).halted = true
  · rw [haltHart_halted hh]
  · have hne : g ≠ h := fun e => hh (e ▸ hg)
    obtain ⟨hc, _, _⟩ := haltHart_running (Bool.eq_false_of_not_eq_true hh)
    rw [hart_congr (congrArg Cluster.harts hc), hart_onHart_ne _ _ hne]

theorem haltGroup_eq (h : Nat) (s : State) : haltGroup h s = forEach (List.range 4) haltHart (haltHart h s) := rfl

/-- Where a hart halts its whole group is halted (R532). -/
theorem haltGroup_all (h : Nat) {g : Nat} (hg : g < 4) (s : State) : (hart (haltGroup h s) g).halted = true :=
  forEach_reaches (I := fun _ => True) (P := fun u => (hart u g).halted = true) (x := g)
    (List.mem_cons_of_mem _ (List.mem_range.mpr hg)) (fun _ _ _ _ => trivial)
    (fun h' _ u _ hu => by rw [hart_haltHart_halted hu, hu]) (fun u _ => hart_haltHart_same g u) trivial

theorem all_halted {s : State} (h : ∀ g < 4, (hart s g).halted = true) :
    ((List.range 4).all fun g => (hart s g).halted) = true :=
  List.all_eq_true.mpr fun g hg => h g (List.mem_range.mp hg)

theorem hartHalt_completes {h : Fin 4} {s : State} (hup : fabricUp s = true) (hon : domOn s .dbg = true)
    (hact : s.dbg.active = true) (hh : (hart s h).halted = false) :
    ∃ t, exec (.hartHalt h) s = .next t ∧ (hart t h).halted = true ∧ (hart t h).wdt = none ∧
      ((List.range 4).all fun g => (hart t g).halted) = true ∧
      rdb t (rk .dbg 0 0x010) 0 = true ∧ (anyHalted s = false → t.holds.frozen = true) := by
  refine ⟨haltGroup h s, congrArg Host.Outcome.next (if_pos (by simp [hup, hon, hact])), haltGroup_all h h.isLt s, ?_,
    all_halted fun g hg => haltGroup_all h hg s, ?_, fun hany => ?_⟩
  all_goals
    obtain ⟨hc, hholds, hcause⟩ := haltHart_running hh
    rw [haltGroup_eq]
  · have hfirst : (hart (haltHart h s) h).halted = true ∧ (hart (haltHart h s) h).wdt = none := by
      rw [hart_congr (congrArg Cluster.harts hc), hart_onHart_same]
      exact ⟨rfl, rfl⟩
    refine (forEach_invariant (P := fun u => (hart u h).halted = true ∧ (hart u h).wdt = none) (fun g _ u hu => ?_) hfirst).2
    rwa [hart_haltHart_halted hu.1]
  · refine forEach_invariant (P := fun u => rdb u (rk .dbg 0 0x010) 0 = true) (fun g _ u hu => ?_) hcause
    by_cases hg : (hart u g).halted = true
    · rwa [haltHart_halted hg]
    · obtain ⟨_, _, hagain⟩ := haltHart_running (Bool.eq_false_of_not_eq_true hg)
      exact hagain
  · rw [hany, if_neg Bool.false_ne_true] at hholds
    refine forEach_invariant (P := fun u => u.holds.frozen = true) (fun g _ u hu => ?_) (by rw [hholds])
    by_cases hg : (hart u g).halted = true
    · rwa [haltHart_halted hg]
    · obtain ⟨_, hagain, _⟩ := haltHart_running (Bool.eq_false_of_not_eq_true hg)
      rw [hagain]
      split
      · exact hu
      · rfl

/-! The halt request of dmcontrol (R532) -/

theorem nextMove_cluster (s : State) : (nextMove s).cluster = s.cluster :=
  Part.same_of_op (p := .cluster) (m := 128) (by decide) (fun h => nextMove_stays h) s

theorem dbgCfg_nextMove (s : State) (b : Nat) : dbgCfg (nextMove s) b = dbgCfg s b := by
  unfold nextMove
  split <;> rfl

/-- Setting dmactive again leaves a module that works at work. -/
theorem dmWorks_setDmactive {s : State} (h : dmWorks s = true) : dmWorks (setDmactive true s) = true := by
  simp only [dmWorks, Bool.and_eq_true] at h ⊢
  obtain ⟨⟨hcfg, _⟩, hon⟩ := h
  refine ⟨⟨?_, by rw [setDmactive, nextMove_dbg]; rfl⟩, ?_⟩
  · rw [setDmactive, dbgCfg_nextMove]
    exact hcfg
  · rw [domOn, setDmactive, nextMove_on]
    exact hon

/-- The register that an update put is the one found. -/
theorem find_smPut_same (k : Nat) (v : Word) :
    ∀ m : List (Nat × Word), (smPut k v m).find? (fun e => decide (e.1 = k)) = some (k, v)
  | [] => by simp [smPut]
  | (j, y) :: m => by
    unfold smPut
    split
    · simp
    · split
      · simp
      next hj _ => rw [List.find?_cons_of_neg (by simpa using hj), find_smPut_same k v m]

theorem dmCtl_setDm_same (a : Nat) (v : Word) (s : State) : dmCtl (setDm a v s) a = v := by
  have hregs : (setDm a v s).dbg.regs = smPut a v s.dbg.regs := rfl
  rw [dmCtl, hregs, find_smPut_same]
  rfl

/-- A mask of ones over a field leaves the field. -/
theorem fld_and_mask {m : Word} {lo n : Nat} (h : fld m lo n = 2 ^ n - 1) (v : Word) : fld (v &&& m) lo n = fld v lo n := by
  rw [fld] at h
  rw [fld, fld, BitVec.toNat_and, Nat.shiftRight_and_distrib, Nat.and_mod_two_pow, h, Nat.and_two_pow_sub_one_eq_mod, Nat.mod_mod]

/-- A dmcontrol that selects a hart has it among those selected. -/
theorem dmHarts_selected {h : Nat} {v : Word} {s : State} (hh : h < 4) (hsel : fld v 16 10 = h) (hhi : fld v 6 10 = 0) :
    h ∈ dmHarts (setDm 0x10 (v &&& 0x07FFFFC0#32) s) := by
  refine List.mem_filter.mpr ⟨List.mem_range.mpr hh, ?_⟩
  rw [dmHart, dmCtl_setDm_same, fld_and_mask (by decide), fld_and_mask (by decide), hsel, hhi]
  simp

theorem dmiHalt_completes {h : Fin 4} {v : Word} {s : State} (hw : dmWorks s = true) (hactive : bit v 0 = true)
    (hreset : bit v 1 = false) (hreq : bit v 31 = true) (hsel : fld v 16 10 = h.val) (hhi : fld v 6 10 = 0) :
    ∃ t, exec (.dmi true 0x10 v) s = .next t ∧ ((List.range 4).all fun g => (hart t g).halted) = true := by
  refine ⟨_, exec_dmi (dbgCfg_of_dmWorks hw), ?_⟩
  rw [show (0x10 : BitVec 7).toNat = 0x10 from rfl, dmiAccess_works (dmWorks_selectIr hw _) (by decide), if_pos rfl]
  have hu := dmWorks_setDmactive (dmWorks_selectIr hw 0x11)
  have hharts : ∀ u, ((List.range 4).all fun g => (hart (respond 0 u) g).halted) = (List.range 4).all fun g => (hart u g).halted :=
    fun _ => rfl
  have hwrite : ∀ u, dmWrite 0x10 v u = writeDmcontrol v u := fun _ => rfl
  rw [hharts, hwrite, writeDmcontrol, hactive, hreset, if_neg Bool.false_ne_true, hu, Bool.not_true, if_neg Bool.false_ne_true,
    if_pos hreq]
  refine all_halted fun g hg => ?_
  exact forEach_reaches (I := fun _ => True) (P := fun u => (hart u g).halted = true) (dmHarts_selected h.isLt hsel hhi)
    (fun _ _ _ _ => trivial) (fun h' _ u _ hu => forEach_invariant (P := fun u => (hart u g).halted = true)
      (fun g' _ u hu => by rw [hart_haltHart_halted hu, hu]) hu) (fun u _ => haltGroup_all h hg u) trivial

/-! Abstract commands and the system bus (R532) -/

section Command

variable {s : State} (hw : dmWorks s = true)
include hw

theorem accessTimer_completes {h : Fin 4} {v : DWord} (hh : (hart s h).halted = true) :
    ∃ t, exec (.accessRegister h true 0x7C2 v) s = .next t ∧ (hart t h).mtimecmp = v.toNat ∧
      (hart t h).mtip = decide (v.toNat ≤ ticks s) := by
  have hexec : exec (.accessRegister h true 0x7C2 v) s = .next (writeHart h 0x7C2 v s) := by
    refine congrArg Host.Outcome.next ?_
    rw [dbgCfg_of_dmWorks hw, hw, hh]
    rfl
  refine ⟨_, hexec, ?_⟩
  have hhart : ∀ u, hart (respond 0 u) h = hart u h := fun _ => rfl
  rw [writeHart, if_pos rfl, hhart, hart_onHart_same]
  exact ⟨rfl, rfl⟩

theorem accessHartid_completes {h : Fin 4} (hh : (hart s h).halted = true) :
    ∃ t, exec (.accessRegister h false 0xF14 0) s = .next t ∧ t.bus.rdata = wNat h.val ∧ t.bus.err = false := by
  have hexec : exec (.accessRegister h false 0xF14 0) s = .next (dmResult (BitVec.ofNat 64 h.val) s) := by
    refine congrArg Host.Outcome.next ?_
    rw [dbgCfg_of_dmWorks hw, hw, hh]
    rfl
  refine ⟨_, hexec, ?_, rfl⟩
  rw [dmResult, respond_bus, BitVec.toNat_ofNat, Nat.mod_eq_of_lt (by omega)]

end Command

/-- Counting an access leaves the SRAM words that are known to be bad. -/
theorem pmcAccess_bad (d : Doer) (store : Bool) (a : Nat) (page : Bool) (s : State) :
    (pmcAccess d store a page s).cluster.bad = s.cluster.bad := by
  have hcls : ∀ cls u, (pmcAccesses cls d a u).cluster.bad = u.cluster.bad := fun cls u => by
    unfold pmcAccesses
    split
    · exact pmcCount_keeps (π := fun u => u.cluster.bad) (fun _ _ _ => rfl)
        (fun n u _ => ctrOverflow_cluster_keeps (π := Cluster.bad) (fun _ _ => rfl) (fun _ _ => rfl) n u) _ _ _
    · rfl
  unfold pmcAccess
  dsimp only
  split
  · exact (hcls _ _).trans (hcls _ _)
  · exact hcls _ _

/-- A word of SRAM without an uncorrectable error is answered to the debug module. -/
theorem dmMemory_sram {req : Option Nat} {a : Nat} {s : State} (ha : a % 4 = 0) (hlo : sramBase ≤ a) (hhi : a < sramBase + 0x400000)
    (hbad : sramBad s a 4 = []) :
    (dmMemory req false a 0 s).bus.rdata = memWord s a ∧ (dmMemory req false a 0 s).bus.err = false := by
  have hwin : pageWindow a = false := decide_eq_false (by unfold sramBase at hhi; omega)
  have hcounted : busRead .debug a (pmcAccess (4, req) false a (pageAt a) s) =
      respond (memWord s a) (pmcAccess (4, req) false a (pageAt a) s) := by
    have hb : sramBad (pmcAccess (4, req) false a (pageAt a) s) a 4 = [] := by
      rw [sramBad, pmcAccess_bad]
      exact hbad
    have hm : memWord (pmcAccess (4, req) false a (pageAt a) s) a = memWord s a := by
      rw [memWord, memBytes_congr (pmcAccess_mem _ _ _ _ _)]
      rfl
    unfold sramBase at hlo hhi
    rw [busRead, if_neg (by omega), hwin, if_neg Bool.false_ne_true, if_neg (by omega), if_neg (by unfold nvBase nvSize; omega),
      if_pos ⟨hlo, hhi⟩, hb, hm]
    rfl
  have hread : dmRead req a 4 s = ((memWord s a).toNat, respond (memWord s a) (pmcAccess (4, req) false a (pageAt a) s)) := by
    rw [dmRead, hcounted]
    rfl
  rw [dmMemory, if_neg Bool.false_ne_true, hread]
  dsimp only
  rw [if_neg (by rw [respond_bus]; exact Bool.false_ne_true), dmResult, respond_bus, BitVec.toNat_ofNat,
    Nat.mod_eq_of_lt (Nat.lt_of_lt_of_le (memWord s a).isLt (by decide))]
  exact ⟨BitVec.ofNat_toNat _ _, rfl⟩

theorem accessMemory_completes {h : Fin 4} {a : Nat} {s : State} (hw : dmWorks s = true) (hh : (hart s h).halted = true)
    (ha : a % 4 = 0) (hlo : sramBase ≤ a) (hhi : a < sramBase + 0x400000) (hpmp : pmpDenies s h a 4 false 16 0 = false)
    (hbad : sramBad s a 4 = []) :
    ∃ t, exec (.accessMemory h false a 0) s = .next t ∧ t.bus.rdata = memWord s a ∧ t.bus.err = false := by
  have hexec : exec (.accessMemory h false a 0) s = .next (dmMemory (some h.val) false a 0 s) := by
    refine congrArg Host.Outcome.next ?_
    rw [dbgCfg_of_dmWorks hw, hw, hh, hpmp]
    rfl
  exact ⟨_, hexec, dmMemory_sram ha hlo hhi hbad⟩

theorem systemBusAccess_completes {a : Nat} {s : State} (hw : dmWorks s = true) (hsba : dbgCfg s 1 = true) (ha : a % 4 = 0)
    (hlo : sramBase ≤ a) (hhi : a < sramBase + 0x400000) (hbad : sramBad s a 4 = []) :
    ∃ t, exec (.systemBusAccess false a 0) s = .next t ∧ t.bus.rdata = memWord s a ∧ t.bus.err = false := by
  have hexec : exec (.systemBusAccess false a 0) s = .next (dmMemory none false a 0 s) := by
    refine congrArg Host.Outcome.next ?_
    rw [dbgCfg_of_dmWorks hw, hw, hsba]
    rfl
  exact ⟨_, hexec, dmMemory_sram ha hlo hhi hbad⟩

theorem ndmreset_completes {s : State} (hw : dmWorks s = true) (hcfg : dbgCfg s 2 = true) (hpor : s.valley.por = false) :
    ∃ t, exec .ndmreset s = .next t ∧ t.pwr.reset = some .system ∧ bit t.pwr.cause 5 = true ∧ t.pwr.byDebug = true := by
  have hnone : s.pwr.reset = none := by
    simp only [dbgCfg, fabricUp, Bool.and_eq_true] at hcfg
    obtain ⟨⟨⟨_, hn⟩, _⟩, _⟩ := hcfg
    exact Option.isNone_iff_eq_none.mp hn
  obtain ⟨hreset, _, _, hcause, _, hby⟩ := systemReset_leaves (k := 5) (s := s) (by decide) true hnone hpor
  have hexec : exec .ndmreset s = .next (systemReset 5 true s) := by
    refine congrArg Host.Outcome.next ?_
    rw [if_pos (dbgCfg_of_dmWorks hw), debugReset, if_pos (by rw [hw, hcfg]; rfl)]
  exact ⟨_, hexec, hreset, hcause, hby⟩

/-! Resumes (R533) -/

theorem anyHalted_iff {s : State} : anyHalted s = true ↔ ∃ g < 4, (hart s g).halted = true := by
  simp [anyHalted]

theorem anyHalted_congr {s t : State} (h : t.cluster.harts = s.cluster.harts) : anyHalted t = anyHalted s := by
  simp only [anyHalted, hart_congr h]

/-- The last halted hart resumed: the freeze ended at an instant and RESUMED was raised. -/
def Resumed (now : Nat) (s : State) : Prop :=
  anyHalted s = false ∧ s.holds.frozen = false ∧ s.holds.freeze = some now ∧ rdb s (rk .dbg 0 0x010) 1 = true

/-- Of the harts below a number none is halted, and the freeze lasts for those from it on. -/
def Resuming (now n : Nat) (s : State) : Prop :=
  s.now = now ∧ s.holds.frozen = true ∧ anyHalted s = true ∧ ∀ g < n, (hart s g).halted = false

/-- A source other than START that is inactive releases nothing (R385). -/
theorem spoSource_inactive {k : Nat} (hk : k ≠ 0) (s : State) : ∃ f, spoSource k false s = onPlumb f s := by
  rw [spoSource, if_neg Bool.false_ne_true]
  split
  · exact ⟨fun p => { p with active := setBit p.active k false }, if_neg fun h => hk h.1⟩
  · exact ⟨id, rfl⟩

/-- The end of a freeze keeps the harts. -/
theorem endFreeze_completes {s : State} (hany : anyHalted s = false) (hfrozen : s.holds.frozen = true) :
    (endFreeze s).cluster = s.cluster ∧ (endFreeze s).holds.frozen = false ∧ (endFreeze s).holds.freeze = some s.now := by
  have hspo : ∀ u, (spoSource 8 false u).holds = u.holds ∧ (spoSource 8 false u).cluster = u.cluster := fun u => by
    obtain ⟨f, hf⟩ := spoSource_inactive (k := 8) (by decide) u
    rw [hf]
    exact ⟨rfl, rfl⟩
  have hsettle : ∀ us u, (settle us u).cluster = u.cluster := fun us u =>
    Part.same_of_op (p := .cluster) (m := 276824064) (by decide) (fun h => settle_stays h us) u
  have honPlumb : ∀ f u, (onPlumb f u).holds = u.holds ∧ (onPlumb f u).cluster = u.cluster := fun _ _ => ⟨rfl, rfl⟩
  rw [endFreeze, if_neg (by simp [hany, hfrozen])]
  dsimp only
  rw [(hspo _).1, (hspo _).2, (honPlumb _ _).1, (honPlumb _ _).2, settle_holds, hsettle]
  exact ⟨rfl, rfl, rfl⟩

theorem pmcSettle_leaves (s : State) : (pmcSettle s).holds = s.holds ∧ anyHalted (pmcSettle s) = anyHalted s := by
  refine ⟨Part.same_of_op (p := .holds) (m := 70368744177664) (by decide) (fun h => pmcSettle_stays h) s, anyHalted_congr ?_⟩
  unfold pmcSettle
  exact forEach_mem_keeps (π := fun u => u.cluster.harts) (fun n _ u => by split <;> rfl) s

theorem resumeHart_running {h : Nat} {s : State} (hh : (hart s h).halted = false) : resumeHart h s = s := by
  rw [resumeHart, if_pos (by simp [hh])]

/-- A hart that resumes leaves the others; the last one ends the freeze. -/
theorem resumeHart_step {now n : Nat} {s : State} (hs : Resuming now n s) :
    Resuming now (n + 1) (resumeHart n s) ∨ Resumed now (resumeHart n s) := by
  obtain ⟨hnow, hfrozen, hany, hbelow⟩ := hs
  have hsplit : ∀ {u : State}, (∀ g < n, (hart u g).halted = false) → (hart u n).halted = false →
      ∀ g < n + 1, (hart u g).halted = false := fun hb hn g hg =>
    (Nat.lt_succ_iff_lt_or_eq.mp hg).elim (hb g) (fun e => e ▸ hn)
  by_cases hh : (hart s n).halted = true
  · unfold resumeHart
    rw [if_neg (by simp [hh])]
    extract_lets now' u
    have hself : (hart u n).halted = false := by
      unfold u
      rw [hart_onHart_same]
    have hother : ∀ g < n, (hart u g).halted = false := fun g hg => by
      unfold u
      rw [hart_onHart_ne _ _ (by omega), hbelow g hg]
    by_cases hu : anyHalted u = true
    · rw [if_pos hu]
      exact .inl ⟨hnow, hfrozen, hu, hsplit hother hself⟩
    · rw [if_neg hu]
      have hu' : anyHalted u = false := Bool.eq_false_of_not_eq_true hu
      obtain ⟨hcluster, hends, hat⟩ := endFreeze_completes (s := u) hu' hfrozen
      obtain ⟨hholds, hanys⟩ := pmcSettle_leaves (endFreeze u)
      refine .inr ⟨?_, ?_, ?_, rdb_raiseDbg (by decide) _⟩
      · rw [anyHalted_congr (congrArg Cluster.harts (raiseDbg_cluster _ _)), hanys,
          anyHalted_congr (congrArg Cluster.harts hcluster), hu']
      · rw [raiseDbg_holds, hholds, hends]
      · rw [raiseDbg_holds, hholds, hat]
        exact congrArg some hnow
  · have hh' : (hart s n).halted = false := Bool.eq_false_of_not_eq_true hh
    rw [resumeHart_running hh']
    exact .inl ⟨hnow, hfrozen, hany, hsplit hbelow hh'⟩

theorem resumeHart_resumed {now h : Nat} (hh : h < 4) {s : State} (hs : Resumed now s) : Resumed now (resumeHart h s) := by
  have hrun : (hart s h).halted = false := Bool.eq_false_of_not_eq_true fun e =>
    Bool.false_ne_true (hs.1.symm.trans (anyHalted_iff.mpr ⟨h, hh, e⟩))
  rwa [resumeHart_running hrun]

/-- Resuming one hart after another comes to the last one. -/
theorem resumeHarts_step {now : Nat} : ∀ {n : Nat}, n ≤ 4 → ∀ {s : State}, Resuming now 0 s →
    Resuming now n (forEach (List.range n) resumeHart s) ∨ Resumed now (forEach (List.range n) resumeHart s)
  | 0, _, _, hs => .inl hs
  | n + 1, hn, s, hs => by
    rw [List.range_succ, forEach_append]
    exact (resumeHarts_step (by omega) hs).elim resumeHart_step fun h => .inr (resumeHart_resumed (by omega) h)

theorem hartResume_completes {s : State} (hup : fabricUp s = true) (hany : anyHalted s = true) (hfrozen : s.holds.frozen = true) :
    ∃ t, exec .hartResume s = .next t ∧ anyHalted t = false ∧ t.holds.frozen = false ∧ t.holds.freeze = some s.now ∧
      rdb t (rk .dbg 0 0x010) 1 = true := by
  have hstart : Resuming s.now 0 s := ⟨rfl, hfrozen, hany, fun g hg => absurd hg (Nat.not_lt_zero g)⟩
  refine ⟨resumeHarts s, congrArg Host.Outcome.next (if_pos hup), ?_⟩
  rcases resumeHarts_step (le_refl 4) hstart with ⟨_, _, hstill, hnone⟩ | hdone
  · obtain ⟨g, hg, hhalt⟩ := anyHalted_iff.mp hstill
    exact absurd (hhalt.symm.trans (hnone g hg)) (by decide)
  · exact hdone

/-- Settles O37: scans, dmi accesses, abstract commands, the system bus, the debugger's reset, and halts and resumes. -/
theorem debugCompletes : Obligations.DebugCompletes := by
  unfold Obligations.DebugCompletes
  exact ⟨extest_completes, samplePreload_completes, idcode_completes, bypass_completes, dtmcs_completes,
    fun _ _ _ h => dmiWrite_completes h, fun _ _ _ _ h ha hf => dmiRead_completes h ha hf, fun _ _ _ => dmiHalt_completes,
    fun _ _ _ _ => dmiDenied_completes, fun _ _ => dmactive_completes, fun _ _ _ h hh => accessTimer_completes h hh,
    fun _ _ h hh => accessHartid_completes h hh, fun _ _ _ => accessMemory_completes, fun _ _ => systemBusAccess_completes,
    fun _ => ndmreset_completes, fun _ _ => hartHalt_completes, fun _ => hartResume_completes⟩

end Sys2Proof.Machine
end

section
/-! GPIO and the serial ports (R590 to R592, R595): pins, I2C actions, SPI and UART bytes. -/

set_option Elab.async false

namespace Sys2Proof.Machine

/-! Pins: what a change of level writes (R591) -/

/-- The registers that a change of a pin's level leaves: all but the causes of GPIO. -/
def pinsFree (k : Nat) : Prop := k ≠ rk .gpio 0 0x010 ∧ ¬ mergeKey k

theorem i2cKey_pinsFree (k : Fin 4) {off : Nat} (h : off < 0x1000) : pinsFree (i2cKey k off) := by
  simp only [pinsFree, mergeKey, i2cKey, rk, pageFirst]
  omega

theorem spiKey_pinsFree (k : Fin 2) {off : Nat} (h : off < 0x1000) : pinsFree (spiKey k off) := by
  simp only [pinsFree, mergeKey, spiKey, rk, pageFirst]
  omega

theorem uartKey_pinsFree (k : Fin 2) {off : Nat} (h : off < 0x1000) : pinsFree (uartKey k off) := by
  simp only [pinsFree, mergeKey, uartKey, rk, pageFirst]
  omega

theorem gpioKey_pinsFree {off : Nat} (h : 0x010 < off) (h' : off < 0x1000) : pinsFree (gpioKey off) := by
  simp only [pinsFree, mergeKey, gpioKey, rk, pageFirst]
  omega

/-- A pin that takes a new level, with the cause of its edge where that is enabled. -/
theorem setPin_cases (n : Nat) (v : Bool) (s : State) : setPin n v s = s ∨
    ∃ u, u = onGio (fun g => { g with pins := setBit g.pins n v }) s ∧ (setPin n v s = u ∨ setPin n v s = raise .gpio 0 n u) := by
  unfold setPin
  by_cases h : bit s.gio.pins n = v
  · exact .inl (if_pos h)
  · rw [if_neg h]
    refine .inr ⟨_, rfl, ?_⟩
    generalize gpioKey (if v then 0x064 else 0x068) = key
    dsimp only
    split
    · exact .inr rfl
    · exact .inl rfl

section Pins

variable {α : Type}

/-- A change of level keeps what a change of the pins and a cause of GPIO keep. -/
theorem setPin_keeps {π : State → α} (hpins : ∀ p u, π (onGio (fun g => { g with pins := p }) u) = π u)
    (hraise : ∀ n u, π (raise .gpio 0 n u) = π u) (n : Nat) (v : Bool) (s : State) : π (setPin n v s) = π s := by
  rcases setPin_cases n v s with h | ⟨u, hu, h | h⟩
  · rw [h]
  · rw [h, hu]
    exact hpins _ _
  · rw [h, hraise, hu]
    exact hpins _ _

theorem drivePins_keeps {π : State → α} (hpins : ∀ p u, π (onGio (fun g => { g with pins := p }) u) = π u)
    (hraise : ∀ n u, π (raise .gpio 0 n u) = π u) (s : State) : π (drivePins s) = π s :=
  forEach_mem_keeps (fun n _ u => by
    split
    · exact setPin_keeps hpins hraise _ _ _
    · rfl) s

end Pins

theorem rd_drivePins {j : Nat} (hj : pinsFree j) (s : State) : rd (drivePins s) j = rd s j :=
  drivePins_keeps (π := fun u => rd u j) (fun _ _ => rfl) (fun _ u => rd_raise u hj.1 hj.2) s

theorem rdb_drivePins {j : Nat} (hj : pinsFree j) (b : Nat) (s : State) : rdb (drivePins s) j b = rdb s j b :=
  congrArg (bit · b) (rd_drivePins hj s)

@[simp] theorem drivePins_now (s : State) : (drivePins s).now = s.now :=
  drivePins_keeps (π := State.now) (fun _ _ => rfl) (fun _ _ => raise_now _ _ _ _) s

theorem i2c_congr {s t : State} (h : t.gio = s.gio) (k : Nat) : i2c t k = i2c s k := by rw [i2c, i2c, h]
theorem spi_congr {s t : State} (h : t.gio = s.gio) (k : Nat) : spi t k = spi s k := by rw [spi, spi, h]
theorem uart_congr {s t : State} (h : t.gio = s.gio) (k : Nat) : uart t k = uart s k := by rw [uart, uart, h]

@[simp] theorem i2c_drivePins (s : State) (k : Nat) : i2c (drivePins s) k = i2c s k :=
  drivePins_keeps (π := fun u => i2c u k) (fun _ _ => rfl) (fun _ _ => i2c_congr (raise_gio _ _ _ _) k) s
@[simp] theorem spi_drivePins (s : State) (k : Nat) : spi (drivePins s) k = spi s k :=
  drivePins_keeps (π := fun u => spi u k) (fun _ _ => rfl) (fun _ _ => spi_congr (raise_gio _ _ _ _) k) s
@[simp] theorem uart_drivePins (s : State) (k : Nat) : uart (drivePins s) k = uart s k :=
  drivePins_keeps (π := fun u => uart u k) (fun _ _ => rfl) (fun _ _ => uart_congr (raise_gio _ _ _ _) k) s

@[simp] theorem i2c_raise (t : PageType) (n c : Nat) (s : State) (k : Nat) : i2c (raise t n c s) k = i2c s k :=
  i2c_congr (raise_gio _ _ _ _) k
@[simp] theorem spi_raise (t : PageType) (n c : Nat) (s : State) (k : Nat) : spi (raise t n c s) k = spi s k :=
  spi_congr (raise_gio _ _ _ _) k
@[simp] theorem uart_raise (t : PageType) (n c : Nat) (s : State) (k : Nat) : uart (raise t n c s) k = uart s k :=
  uart_congr (raise_gio _ _ _ _) k

@[simp] theorem i2c_setI2c_same (k : Nat) (x : I2c) (s : State) : i2c (setI2c k x s) k = x := smGet_smSet_same _ _ _ _
@[simp] theorem spi_setSpi_same (k : Nat) (x : Spi) (s : State) : spi (setSpi k x s) k = x := smGet_smSet_same _ _ _ _
@[simp] theorem uart_setUart_same (k : Nat) (x : Uart) (s : State) : uart (setUart k x s) k = x := smGet_smSet_same _ _ _ _

/-! GPIO (R591, R595) -/

theorem gpioSet_completes {m : Master} {v : Word} {s : State} (h : reaches s m .gpio 0x048 = true) :
    ∃ t, exec (.gpioSet m v) s = .next t ∧ rd t (gpioKey 0x044) = rd s (gpioKey 0x044) ||| v := by
  refine ⟨_, congrArg Host.Outcome.next (byBus_reaches h), ?_⟩
  rw [rd_busCycle, writeGpio, if_pos rfl, rd_drivePins (gpioKey_pinsFree (by decide) (by decide)), rd_wr_same,
    rd_countedWrite_off (by unfold countOff; decide)]

theorem gpioClr_completes {m : Master} {v : Word} {s : State} (h : reaches s m .gpio 0x04C = true) :
    ∃ t, exec (.gpioClr m v) s = .next t ∧ rd t (gpioKey 0x044) = rd s (gpioKey 0x044) &&& ~~~ v := by
  refine ⟨_, congrArg Host.Outcome.next (byBus_reaches h), ?_⟩
  rw [rd_busCycle, writeGpio, if_neg (by decide), if_pos rfl, rd_drivePins (gpioKey_pinsFree (by decide) (by decide)), rd_wr_same,
    rd_countedWrite_off (by unfold countOff; decide)]

/-- The registers that say which pins the part drives. -/
theorem pinAlt_congr {s t : State} {n : Nat} (hn : n < 32) (h : ∀ k, pinsFree k → rd t k = rd s k) : pinAlt t n = pinAlt s n := by
  rw [pinAlt, pinFunc, rdf, h _ (gpioKey_pinsFree (by omega) (by omega))]
  rfl

/-- CTS_N is an input: the part drives its pin as GPIO alone (R590). -/
theorem pinDriven_cts {n : Nat} (hn : n = 19 ∨ n = 23) (s : State) : pinDriven s n =
    if pinAlt s n then none else if rdb s (gpioKey 0x040) n then some (rdb s (gpioKey 0x044) n) else none := by
  have halt : altDriven s n = none := by
    rcases hn with rfl | rfl <;> (unfold altDriven; simp)
  rw [pinDriven, halt]

theorem pinDriven_cts_congr {s t : State} {n : Nat} (hn : n = 19 ∨ n = 23) (h : ∀ k, pinsFree k → rd t k = rd s k) :
    pinDriven t n = pinDriven s n := by
  rw [pinDriven_cts hn, pinDriven_cts hn, pinAlt_congr (by omega) h, rdb, rdb, h _ (gpioKey_pinsFree (by decide) (by decide)),
    h _ (gpioKey_pinsFree (by decide) (by decide))]
  rfl

theorem rd_setPin {j : Nat} (hj : pinsFree j) (n : Nat) (v : Bool) (s : State) : rd (setPin n v s) j = rd s j :=
  setPin_keeps (π := fun u => rd u j) (fun _ _ => rfl) (fun _ u => rd_raise u hj.1 hj.2) n v s

/-- A change of one pin leaves the level and the cause of another. -/
theorem setPin_ne {n j : Nat} (hj : j < 32) (hne : j ≠ n) (v : Bool) (s : State) :
    bit (setPin n v s).gio.pins j = bit s.gio.pins j ∧ rdb (setPin n v s) (rk .gpio 0 0x010) j = rdb s (rk .gpio 0 0x010) j := by
  rcases setPin_cases n v s with h | ⟨u, hu, h | h⟩
  · rw [h]
    exact ⟨rfl, rfl⟩
  · rw [h, hu]
    exact ⟨bit_setBit_ne _ _ _ _ hj hne, rfl⟩
  · rw [h, raise_gio, rdb_raise_ne _ _ _ _ _ hj hne (by unfold mergeKey; decide), hu]
    exact ⟨bit_setBit_ne _ _ _ _ hj hne, rfl⟩

/-- A pin takes a level with its edge enabled. -/
theorem setPin_edge {n : Nat} {v : Bool} {s : State} (hn : n < 32) (hpin : bit s.gio.pins n ≠ v)
    (hen : rdb s (gpioKey (if v then 0x064 else 0x068)) n = true) :
    bit (setPin n v s).gio.pins n = v ∧ rdb (setPin n v s) (rk .gpio 0 0x010) n = true := by
  have hset : setPin n v s = raise .gpio 0 n (onGio (fun g => { g with pins := setBit g.pins n v }) s) := by
    rw [setPin, if_neg hpin]
    exact if_pos hen
  rw [hset, raise_gio]
  exact ⟨bit_setBit_same _ _ _ hn, rdb_raise _ _ _ _ hn (by decide)⟩

/-- Pins that the part drives take their levels; one that it does not drive stays. -/
theorem drivePins_undriven {n : Nat} {v : Bool} {s : State} (hn : n = 19 ∨ n = 23) (hfree : pinDriven s n = none)
    (hpin : bit s.gio.pins n = v) (hraw : rdb s (rk .gpio 0 0x010) n = true) :
    bit (drivePins s).gio.pins n = v ∧ rdb (drivePins s) (rk .gpio 0 0x010) n = true := by
  refine (forEach_invariant (P := fun u => pinDriven u n = none ∧ bit u.gio.pins n = v ∧ rdb u (rk .gpio 0 0x010) n = true)
    (fun j _ u hu => ?_) ⟨hfree, hpin, hraw⟩).2
  obtain ⟨hnone, hp, hr⟩ := hu
  split
  next w hw =>
    have hne : n ≠ j := fun e => by
      rw [← e, hnone] at hw
      exact absurd hw (by simp)
    obtain ⟨hp', hr'⟩ := setPin_ne (by omega) hne w u
    exact ⟨(pinDriven_cts_congr hn fun k hk => rd_setPin hk _ _ _).trans hnone, hp'.trans hp, hr'.trans hr⟩
  next => exact ⟨hnone, hp, hr⟩

/-- The start of a byte changes a UART alone. -/
theorem uartStart_keeps {α : Type} {π : State → α} (hπ : ∀ k x u, π (setUart k x u) = π u) (k : Nat) (s : State) :
    π (uartStart k s) = π s := by
  unfold uartStart
  dsimp only
  split
  · rfl
  · split
    · rfl
    · exact hπ _ _ _

theorem gpioEdge_completes {n : Fin 32} {rise : Bool} {s : State} (hup : fabricUp s = true) (hpin : bit s.gio.pins n ≠ rise)
    (hfree : pinDriven s n = none) (hen : rdb s (gpioKey (if rise then 0x064 else 0x068)) n = true) :
    ∃ t, exec (.gpioEdge n rise) s = .next t ∧ bit t.gio.pins n = rise ∧ rdb t (rk .gpio 0 0x010) n = true := by
  have hedge := setPin_edge n.isLt hpin hen
  have hcts : ∀ k, (n.val = 19 ∨ n.val = 23) → bit (drivePins (uartStart k (setPin n rise s))).gio.pins n = rise ∧
      rdb (drivePins (uartStart k (setPin n rise s))) (rk .gpio 0 0x010) n = true := fun k hn => by
    have hrd : ∀ j, rd (uartStart k (setPin n rise s)) j = rd (setPin n rise s) j := fun j =>
      uartStart_keeps (π := fun u => rd u j) (fun _ _ _ => rfl) k _
    refine drivePins_undriven hn ?_ ?_ ?_
    · exact (pinDriven_cts_congr hn fun j hj => (hrd j).trans (rd_setPin hj _ _ _)).trans hfree
    · rw [uartStart_keeps (π := fun u => u.gio.pins) (fun _ _ _ => rfl)]
      exact hedge.1
    · rw [rdb, hrd]
      exact hedge.2
  refine ⟨_, congrArg Host.Outcome.next (if_neg (by simp [hup, hpin, hfree])), ?_⟩
  split
  next h => exact hcts 0 (.inl h)
  next =>
    split
    next h => exact hcts 1 (.inr h)
    next => exact hedge

/-! I2C (R592, R595) -/

/-- The first of the actions asked for runs from now. -/
theorem i2cRun_leaves (k : Nat) (acts : List (Nat × Bool)) (own : Bool) (s : State) :
    (i2c (i2cRun k acts own s) k).acts = acts ∧ (i2cRun k acts own s).now = s.now ∧
      ∀ j, pinsFree j → rd (i2cRun k acts own s) j = rd s j := by
  unfold i2cRun
  dsimp only
  rw [i2c_drivePins, i2c_setI2c_same, drivePins_now]
  exact ⟨rfl, rfl, fun j hj => rd_drivePins hj _⟩

/-- A command of an enabled controller that is free begins its actions. -/
theorem writeI2cCmd_starts {k : Nat} {v : Word} {acts : List (Nat × Bool)} {s : State} (hen : rdb s (i2cKey k 0x040) 0 = true)
    (hfree : (i2c s k).acts = []) (hne : acts.isEmpty = false)
    (hacts : (if bit v 0 then [(0, false)] else []) ++ (if bit v 2 then [(2, false)] else []) ++
      (if bit v 3 then [(3, bit v 4)] else []) ++ (if bit v 1 then [(1, false)] else []) = acts) :
    writeI2cCmd k v s = i2cRun k acts (i2c s k).own (wr (i2cKey k 0x04C) (1#32 ||| (rd s (i2cKey k 0x04C) &&& 2#32)) s) := by
  unfold writeI2cCmd
  dsimp only
  rw [hacts, hne, hen, hfree]
  rfl

theorem i2cCmd_completes {m : Master} {k : Fin 4} {v : Word} {acts : List (Nat × Bool)} {s : State} (h : reaches s m .i2c 0x044 = true)
    (hen : rdb s (i2cKey k 0x040) 0 = true) (hfree : (i2c s k).acts = []) (hne : acts.isEmpty = false)
    (hacts : (if bit v 0 then [(0, false)] else []) ++ (if bit v 2 then [(2, false)] else []) ++
      (if bit v 3 then [(3, bit v 4)] else []) ++ (if bit v 1 then [(1, false)] else []) = acts) :
    ∃ t, (.next (byBus m .i2c k 0x044 (writeI2cCmd k v) s) : Host.Outcome State Fault Refusal) = .next t ∧
      (i2c t k).acts = acts ∧ rdb t (i2cKey k 0x04C) 0 = true := by
  have hcfg : ¬ countOff (i2cKey k 0x040 % 0x1000) := by
    simp only [countOff, i2cKey, rk, pageFirst]
    omega
  refine ⟨_, congrArg Host.Outcome.next (byBus_reaches h), ?_⟩
  rw [writeI2cCmd_starts (by rwa [rdb, rd_countedWrite_off hcfg]) (by rwa [countedWrite, i2c_congr (pmcAccess_gio _ _ _ _ _)]) hne hacts]
  obtain ⟨hrun, _, hrd⟩ := i2cRun_leaves k acts (i2c (countedWrite m .i2c k 0x044 s) k).own
    (wr (i2cKey k 0x04C) (1#32 ||| (rd (countedWrite m .i2c k 0x044 s) (i2cKey k 0x04C) &&& 2#32)) (countedWrite m .i2c k 0x044 s))
  refine ⟨hrun, ?_⟩
  rw [rdb, rd_busCycle, hrd _ (i2cKey_pinsFree k (by decide)), rd_wr_same]
  simp [bit]

/-- What the end of an action leaves in STAT (R592). -/
def endStat (k a : Nat) (nack arb tmo : Bool) (s : State) : Word :=
  wNat ((if (match a with | 2 => nack | 3 => false | _ => rdb s (i2cKey k 0x04C) 1) then 2 else 0) + (if arb then 4 else 0) +
    (if tmo then 8 else 0))

/-- The end of an action after which none is left. -/
theorem i2cEnds_last {k : Fin 4} {a : Nat} {nack arb tmo : Bool} {s : State}
    (hlast : (arb || tmo) = true ∨ (i2c s k).acts.drop 1 = []) :
    (i2c (i2cEnds k a nack arb tmo s) k).acts = [] ∧ (i2cEnds k a nack arb tmo s).now = s.now ∧
      rd (i2cEnds k a nack arb tmo s) (i2cKey k 0x04C) = endStat k a nack arb tmo s ∧
      rd (i2cEnds k a nack arb tmo s) (i2cKey k 0x048) = rd s (i2cKey k 0x048) ∧
      rdb (i2cEnds k a nack arb tmo s) (rk .i2c k 0x010) 0 = true ∧
      ((decide (a = 2) && nack || (arb || tmo)) = true → rdb (i2cEnds k a nack arb tmo s) (rk .i2c k 0x010) 1 = true) := by
  have hrest : (if (arb || tmo) = true then [] else (i2c s k).acts.drop 1) = [] := by
    rcases hlast with h | h
    · exact if_pos h
    · rw [h, ite_self]
  have hfree : ∀ off, off < 0x1000 → pinsFree (i2cKey k off) := fun _ h => i2cKey_pinsFree k h
  have hraw : ∀ n, ¬ rk .i2c n 0x010 = rk .evr 0 0x050 := fun n => by
    simp only [rk, pageFirst]
    omega
  have hraise : ∀ off, off < 0x1000 → off ≠ 0x010 → ∀ c u, rd (raise .i2c k c u) (i2cKey k off) = rd u (i2cKey k off) :=
    fun off h hne c u => rd_raise u (fun e => hne (rk_inj.mp e)) (hfree off h).2
  have hstat := hraise 0x04C (by decide) (by decide)
  have hdata := hraise 0x048 (by decide) (by decide)
  unfold i2cEnds
  extract_lets x cut rest own nacked w u
  have hnone : rest = [] := hrest
  have hw : w = endStat k a nack arb tmo s := by
    unfold w endStat
    rw [hnone, List.isEmpty_nil, if_pos rfl, Nat.zero_add] <;> rfl
  obtain ⟨hacts, hnow, hrd⟩ := i2cRun_leaves k rest own (wr (i2cKey k 0x04C) w s)
  have hu : (i2c u k).acts = [] ∧ u.now = s.now ∧ rd u (i2cKey k 0x04C) = endStat k a nack arb tmo s ∧
      rd u (i2cKey k 0x048) = rd s (i2cKey k 0x048) ∧ rdb u (rk .i2c k 0x010) 0 = true := by
    unfold u
    rw [i2c_raise, hacts, raise_now, hnow, hstat, hdata, hrd _ (hfree _ (by decide)), hrd _ (hfree _ (by decide)), rd_wr_same,
      rd_wr_ne (k := i2cKey k 0x04C) (j := i2cKey k 0x048) _ _ (fun e => absurd (rk_inj.mp e) (by decide)), hnone, hw]
    exact ⟨rfl, rfl, rfl, rfl, rdb_raise _ _ _ _ (by decide) (hraw _)⟩
  obtain ⟨h1, h2, h3, h4, h5⟩ := hu
  split
  · rw [i2c_raise, raise_now, hstat, hdata]
    refine ⟨h1, h2, h3, h4, ?_, fun _ => rdb_raise _ _ _ _ (by decide) (hraw _)⟩
    rw [rdb_raise_ne _ _ _ _ _ (by decide) (by decide) (hfree 0x010 (by decide)).2]
    exact h5
  next hno => exact ⟨h1, h2, h3, h4, h5, fun h => absurd h hno⟩

/-- The levels of SCL and SDA reach the controller. -/
def i2cOn (s : State) (k : Nat) : Bool := pinAlt s (2 * k) && pinAlt s (2 * k + 1)

/-- A running action ends: what the bus says is free where SCL or SDA is not on its pin. -/
theorem exec_i2cDone {k : Fin 4} {nack arb : Bool} {byte : Byte} {a : Nat} {ack : Bool} {s u : State} (hup : fabricUp s = true)
    (hacts : (i2c s k).acts = [(a, ack)]) (hu : u = upto ((i2c s k).since + i2cBits a * i2cBit s k) s) :
    exec (.i2cDone k nack arb byte) s = .next (
      if i2cOn s k then
        i2cEnds k a nack arb false (if a = 3 && !arb then wr (i2cKey k 0x048) (byte.zeroExtend 32) u else u)
      else
        let (f, u) := draw u
        i2cEnds k a (bit f 8) arb false
          (if a = 3 && !arb then wr (i2cKey k 0x048) ((BitVec.ofNat 8 f.toNat).zeroExtend 32) u else u)) := by
  refine congrArg Host.Outcome.next ?_
  have hon : ∀ t, (pinAlt (upto t s) (2 * k) && pinAlt (upto t s) (2 * k + 1)) = i2cOn s k := fun _ => rfl
  rw [hacts]
  dsimp only
  rw [hup, Bool.not_true, if_neg Bool.false_ne_true, hon, hu]
  by_cases h : i2cOn s k = true
  · rw [if_pos h, if_pos h, if_pos h, if_pos h]
  · rw [if_neg h, if_neg h, if_neg h, if_neg h]

/-- The bits of STAT after an action with which all is done. -/
theorem endStat_bits (k a : Nat) (nack arb tmo : Bool) (u : State) :
    bit (endStat k a nack arb tmo u) 0 = false ∧ bit (endStat k a nack arb tmo u) 2 = arb ∧
      bit (endStat k a nack arb tmo u) 3 = tmo := by
  unfold endStat
  generalize (match a with | 2 => nack | 3 => false | _ => rdb u (i2cKey k 0x04C) 1) = nacked
  revert nacked arb tmo
  decide

section I2cEnd

variable {k : Fin 4} {s : State} (hup : fabricUp s = true)
include hup

theorem i2cReadDone_completes {nack ack : Bool} {byte : Byte} (hacts : (i2c s k).acts = [(3, ack)])
    (hscl : pinAlt s (2 * k) = true) (hsda : pinAlt s (2 * k + 1) = true) :
    ∃ t, exec (.i2cDone k nack false byte) s = .next t ∧ (i2c t k).acts = [] ∧ rd t (i2cKey k 0x048) = byte.zeroExtend 32 ∧
      rd t (i2cKey k 0x04C) = 0 ∧ rdb t (rk .i2c k 0x010) 0 = true ∧ (i2c s k).since + i2cBits 3 * i2cBit s k ≤ t.now := by
  have hexec := exec_i2cDone (nack := nack) (arb := false) (byte := byte) hup hacts rfl
  rw [if_pos (by rw [i2cOn, hscl, hsda]; rfl), if_pos (by decide)] at hexec
  refine ⟨_, hexec, ?_⟩
  have hlast : (i2c (wr (i2cKey k 0x048) (byte.zeroExtend 32) (upto ((i2c s k).since + i2cBits 3 * i2cBit s k) s)) k).acts.drop 1 = [] :=
    congrArg (List.drop 1) hacts
  obtain ⟨hnone, hnow, hstat, hdata, hraise, _⟩ := i2cEnds_last (k := k) (a := 3) (nack := nack) (arb := false) (tmo := false)
    (.inr hlast)
  rw [hnone, hnow, hstat, hdata, rd_wr_same]
  exact ⟨rfl, rfl, rfl, hraise, le_upto_now _ _⟩

theorem i2cWriteNacked_completes {byte : Byte} (hacts : (i2c s k).acts = [(2, false)])
    (hscl : pinAlt s (2 * k) = true) (hsda : pinAlt s (2 * k + 1) = true) :
    ∃ t, exec (.i2cDone k true false byte) s = .next t ∧ (i2c t k).acts = [] ∧ rd t (i2cKey k 0x048) = rd s (i2cKey k 0x048) ∧
      rd t (i2cKey k 0x04C) = 2 ∧ rdb t (rk .i2c k 0x010) 1 = true ∧ (i2c s k).since + i2cBits 2 * i2cBit s k ≤ t.now := by
  have hexec := exec_i2cDone (nack := true) (arb := false) (byte := byte) hup hacts rfl
  rw [if_pos (by rw [i2cOn, hscl, hsda]; rfl), if_neg (by decide)] at hexec
  refine ⟨_, hexec, ?_⟩
  have hlast : (i2c (upto ((i2c s k).since + i2cBits 2 * i2cBit s k) s) k).acts.drop 1 = [] := congrArg (List.drop 1) hacts
  obtain ⟨hnone, hnow, hstat, hdata, _, hnack⟩ := i2cEnds_last (k := k) (a := 2) (nack := true) (arb := false) (tmo := false)
    (.inr hlast)
  rw [hnone, hnow, hstat, hdata]
  exact ⟨rfl, rfl, rfl, hnack rfl, le_upto_now _ _⟩

theorem i2cDoneOff_completes {nack arb : Bool} {byte : Byte} {a : Nat} {ack : Bool} (hacts : (i2c s k).acts = [(a, ack)])
    (hoff : (pinAlt s (2 * k) && pinAlt s (2 * k + 1)) = false) :
    ∃ t, exec (.i2cDone k nack arb byte) s = .next t ∧ (i2c t k).acts = [] ∧ rdb t (i2cKey k 0x04C) 0 = false ∧
      rdb t (i2cKey k 0x04C) 2 = arb ∧ rdb t (rk .i2c k 0x010) 0 = true := by
  have hexec := exec_i2cDone (nack := nack) (arb := arb) (byte := byte) hup hacts rfl
  rw [if_neg (by rw [i2cOn, hoff]; exact Bool.false_ne_true)] at hexec
  refine ⟨_, hexec, ?_⟩
  dsimp only
  generalize hx : (if (decide (a = 3) && !arb) = true then _ else _ : State) = x
  have hlast : (i2c x k).acts.drop 1 = [] := by
    rw [← hx]
    split <;> exact congrArg (List.drop 1) hacts
  obtain ⟨hnone, _, hstat, _, hraise, _⟩ := i2cEnds_last (k := k) (a := a) (arb := arb) (tmo := false) (.inr hlast)
  rw [hnone, rdb, rdb, hstat]
  obtain ⟨h0, h2, _⟩ := endStat_bits k a _ arb false x
  exact ⟨rfl, h0, h2, hraise⟩

theorem i2cTimeout_completes (hacts : (i2c s k).acts ≠ []) :
    ∃ t, exec (.i2cTimeout k) s = .next t ∧ (i2c t k).acts = [] ∧ rdb t (i2cKey k 0x04C) 3 = true ∧
      rdb t (i2cKey k 0x04C) 0 = false ∧ rdb t (rk .i2c k 0x010) 1 = true ∧
      (i2c s k).since + rdf s (i2cKey k 0x040) 8 8 * msec ≤ t.now := by
  have hexec : exec (.i2cTimeout k) s =
      .next (i2cEnds k 4 false false true (upto ((i2c s k).since + rdf s (i2cKey k 0x040) 8 8 * msec) s)) := by
    refine congrArg Host.Outcome.next ?_
    obtain ⟨x, xs, h⟩ := List.exists_cons_of_ne_nil hacts
    rw [h]
    exact if_neg (by simp [hup])
  obtain ⟨hnone, hnow, hstat, _, _, hcut⟩ := i2cEnds_last (k := k) (a := 4) (nack := false) (arb := false) (tmo := true)
    (s := upto ((i2c s k).since + rdf s (i2cKey k 0x040) 8 8 * msec) s) (.inl rfl)
  obtain ⟨h0, _, h3⟩ := endStat_bits k 4 false false true
    (upto ((i2c s k).since + rdf s (i2cKey k 0x040) 8 8 * msec) s)
  refine ⟨_, hexec, hnone, ?_, ?_, hcut rfl, hnow ▸ le_upto_now _ _⟩
  · rw [rdb, hstat, h3]
  · rw [rdb, hstat, h0]

end I2cEnd

/-! SPI (R591, R592, R595) -/

/-- The start of a byte leaves the bytes that wait. -/
theorem spiStart_spi (k : Nat) (s : State) : (spi (spiStart k s) k).tx = (spi s k).tx ∧ (spi (spiStart k s) k).rx = (spi s k).rx := by
  unfold spiStart
  dsimp only
  split
  · exact ⟨rfl, rfl⟩
  · rw [spi_setSpi_same]
    exact ⟨rfl, rfl⟩

theorem byte_zeroExtend (v : Byte) : BitVec.ofNat 8 (v.zeroExtend 32).toNat = v := by
  refine BitVec.eq_of_toNat_eq ?_
  have := v.isLt
  rw [BitVec.toNat_ofNat, BitVec.toNat_setWidth]
  omega

theorem spiTxdata_completes {m : Master} {k : Fin 2} {v : Byte} {s : State} (h : reaches s m .spi 0x048 = true)
    (hroom : (spi s k).tx.length < 16) :
    ∃ t, exec (.spiTxdata m k v) s = .next t ∧ (spi t k).tx = (spi s k).tx ++ [v] ∧ (spi t k).rx = (spi s k).rx := by
  have hspi : spi (countedWrite m .spi k 0x048 s) k = spi s k := spi_congr (pmcAccess_gio _ _ _ _ _) k
  have hbus : ∀ u, spi (busCycle u) k = spi u k := fun _ => rfl
  refine ⟨_, congrArg Host.Outcome.next (byBus_reaches h), ?_⟩
  rw [writeSpi, if_neg (by decide), if_neg (by decide), if_pos rfl, if_neg (by rw [hspi]; omega), hbus, spi_drivePins]
  obtain ⟨htx, hrx⟩ := spiStart_spi k (setSpi k { spi (countedWrite m .spi k 0x048 s) k with
    tx := (spi (countedWrite m .spi k 0x048 s) k).tx ++ [BitVec.ofNat 8 (v.zeroExtend 32).toNat] } (countedWrite m .spi k 0x048 s))
  rw [htx, hrx, spi_setSpi_same, hspi, byte_zeroExtend]
  exact ⟨rfl, rfl⟩

theorem spiRxdata_completes {m : Master} {k : Fin 2} {b : Byte} {bs : List Byte} {s : State} (h : pageUp s .spi 0x04C = true)
    (hrx : (spi s k).rx = b :: bs) :
    ∃ t, exec (.spiRxdata m k) s = .next t ∧ t.bus.rdata = b.zeroExtend 32 ∧ t.bus.err = false ∧ (spi t k).rx = bs := by
  have hspi : spi (countedRead m .spi k 0x04C s) k = spi s k := spi_congr (pmcAccess_gio _ _ _ _ _) k
  have hresp : ∀ w u, spi (respond w u) k = spi u k := fun _ _ => rfl
  refine ⟨_, congrArg Host.Outcome.next (readAt_up h), ?_⟩
  rw [readSpiRx, hspi, hrx, respond_bus, hresp, spi_setSpi_same]
  exact ⟨rfl, rfl, rfl⟩

/-- A byte is shifted out and another one in, and none waits any more. -/
def spiShifted (k : Nat) (b got : Byte) (s : State) : State :=
  drivePins (raise .spi k 0 (setSpi k { tx := [], rx := (spi s k).rx ++ [got], since := (spi s k).since, due := none,
                                        wire := wireOrder (rdb s (spiKey k 0x040) 3) b } s))

theorem spiShifted_leaves (k : Fin 2) (b got : Byte) (s : State) : (spiShifted k b got s).now = s.now ∧
    (spi (spiShifted k b got s) k).tx = [] ∧ (spi (spiShifted k b got s) k).rx = (spi s k).rx ++ [got] ∧
    (spi (spiShifted k b got s) k).wire = wireOrder (rdb s (spiKey k 0x040) 3) b ∧
    rdb (spiShifted k b got s) (rk .spi k 0x010) 0 = true := by
  have hraw : ¬ rk .spi k 0x010 = rk .evr 0 0x050 := fun h => (spiKey_pinsFree k (off := 0x010) (by decide)).2 (.inr h)
  unfold spiShifted
  rw [drivePins_now, raise_now, spi_drivePins, spi_raise, spi_setSpi_same,
    rdb_drivePins (j := rk .spi k 0x010) (spiKey_pinsFree k (by decide))]
  exact ⟨rfl, rfl, rfl, rfl, rdb_raise _ _ _ _ (by decide) hraw⟩

/-- The last byte that waits has been shifted, and one has come in on the wire, a free one where MISO is not on its pin. -/
theorem exec_spiByteDone {k : Fin 2} {wire b : Byte} {a : Nat} {s : State} (hup : fabricUp s = true) (hdue : (spi s k).due = some a)
    (htx : (spi s k).tx = [b]) (hroom : (spi s k).rx.length < 16) :
    exec (.spiByteDone k wire) s = .next (
      if pinAlt s (10 + 4 * k) then spiShifted k b (wireOrder (rdb s (spiKey k 0x040) 3) wire) (upto a s)
      else spiShifted k b (wireOrder (rdb s (spiKey k 0x040) 3) (BitVec.ofNat 8 (draw (upto a s)).1.toNat)) (draw (upto a s)).2) := by
  have hlost : ∀ u, spi u k = spi s k → decide (16 ≤ (spi u k).rx.length) = false := fun u hu =>
    decide_eq_false (by rw [hu]; omega)
  have halt : pinAlt (upto a s) (10 + 4 * k) = pinAlt s (10 + 4 * k) := rfl
  refine congrArg Host.Outcome.next ?_
  rw [hdue, htx]
  dsimp only
  rw [hup, Bool.not_true, if_neg Bool.false_ne_true, halt]
  by_cases h : pinAlt s (10 + 4 * k) = true
  · rw [if_pos h, if_pos h]
    dsimp only
    rw [hlost (upto a s) rfl]
    rfl
  · rw [if_neg h, if_neg h]
    dsimp only
    rw [hlost (draw (upto a s)).2 rfl]
    rfl

section SpiDone

variable {k : Fin 2} {wire b : Byte} {a : Nat} {s : State} (hup : fabricUp s = true) (hdue : (spi s k).due = some a)
  (htx : (spi s k).tx = [b]) (hroom : (spi s k).rx.length < 16)
include hup hdue htx hroom

theorem spiByteDone_completes (halt : pinAlt s (10 + 4 * k) = true) :
    ∃ t, exec (.spiByteDone k wire) s = .next t ∧ a ≤ t.now ∧ (spi t k).tx = [] ∧
      (spi t k).rx = (spi s k).rx ++ [wireOrder (rdb s (spiKey k 0x040) 3) wire] ∧
      (spi t k).wire = wireOrder (rdb s (spiKey k 0x040) 3) b ∧ rdb t (rk .spi k 0x010) 0 = true := by
  obtain ⟨hnow, hnone, hrx, hwire, hraw⟩ := spiShifted_leaves k b (wireOrder (rdb s (spiKey k 0x040) 3) wire) (upto a s)
  exact ⟨_, (exec_spiByteDone hup hdue htx hroom).trans (congrArg _ (if_pos halt)), hnow ▸ le_upto_now _ _, hnone, hrx, hwire, hraw⟩

theorem spiByteDoneFree_completes (halt : pinAlt s (10 + 4 * k) = false) :
    ∃ t, exec (.spiByteDone k wire) s = .next t ∧ a ≤ t.now ∧ (spi t k).tx = [] ∧
      (spi t k).rx.length = (spi s k).rx.length + 1 ∧ (spi t k).rx.take (spi s k).rx.length = (spi s k).rx ∧
      (spi t k).wire = wireOrder (rdb s (spiKey k 0x040) 3) b ∧ rdb t (rk .spi k 0x010) 0 = true := by
  obtain ⟨hnow, hnone, hrx, hwire, hraw⟩ := spiShifted_leaves k b
    (wireOrder (rdb s (spiKey k 0x040) 3) (BitVec.ofNat 8 (draw (upto a s)).1.toNat)) (draw (upto a s)).2
  have hsame : spi (draw (upto a s)).2 k = spi s k := rfl
  rw [hsame] at hrx
  refine ⟨_, (exec_spiByteDone hup hdue htx hroom).trans (congrArg _ (if_neg (ne_true_of_eq_false halt))),
    hnow ▸ le_upto_now _ _, hnone, ?_, ?_, hwire, hraw⟩
  · rw [hrx, List.length_append, List.length_singleton]
  · rw [hrx, List.take_left]

end SpiDone

/-! UART (R591, R592, R595) -/

/-- The start of a byte leaves the bytes that wait and those that have come in. -/
theorem uartStart_uart (k : Nat) (s : State) :
    (uart (uartStart k s) k).tx = (uart s k).tx ∧ (uart (uartStart k s) k).rx = (uart s k).rx := by
  unfold uartStart
  dsimp only
  split
  · exact ⟨rfl, rfl⟩
  next htx =>
    split
    · exact ⟨rfl, rfl⟩
    · rw [uart_setUart_same]
      exact ⟨rfl, rfl⟩

theorem uartTx_completes {m : Master} {k : Fin 2} {v : Byte} {s : State} (h : reaches s m .uart 0x048 = true)
    (hroom : (uart s k).tx.length < 16) :
    ∃ t, exec (.uartTx m k v) s = .next t ∧ (uart t k).tx = (uart s k).tx ++ [v] ∧ (uart t k).rx = (uart s k).rx := by
  have huart : uart (countedWrite m .uart k 0x048 s) k = uart s k := uart_congr (pmcAccess_gio _ _ _ _ _) k
  have hbus : ∀ u, uart (busCycle u) k = uart u k := fun _ => rfl
  refine ⟨_, congrArg Host.Outcome.next (byBus_reaches h), ?_⟩
  rw [writeUart, if_neg (by decide), if_neg (by decide), if_pos rfl, if_neg (by rw [huart]; omega), hbus, uart_drivePins]
  obtain ⟨htx, hrx⟩ := uartStart_uart k (setUart k { uart (countedWrite m .uart k 0x048 s) k with
    tx := (uart (countedWrite m .uart k 0x048 s) k).tx ++ [BitVec.ofNat 8 (v.zeroExtend 32).toNat] }
    (countedWrite m .uart k 0x048 s))
  rw [htx, hrx, uart_setUart_same, huart, byte_zeroExtend]
  exact ⟨rfl, rfl⟩

theorem uartRx_completes {m : Master} {k : Fin 2} {w : Word} {ws : List Word} {s : State} (h : pageUp s .uart 0x04C = true)
    (hrx : (uart s k).rx = w :: ws) :
    ∃ t, exec (.uartRx m k) s = .next t ∧ t.bus.rdata = w ∧ t.bus.err = false ∧ (uart t k).rx = ws := by
  have huart : uart (countedRead m .uart k 0x04C s) k = uart s k := uart_congr (pmcAccess_gio _ _ _ _ _) k
  have hresp : ∀ w u, uart (respond w u) k = uart u k := fun _ _ => rfl
  refine ⟨_, congrArg Host.Outcome.next (readAt_up h), ?_⟩
  rw [readUartRx, huart, hrx, respond_bus, hresp, uart_drivePins, uart_setUart_same]
  exact ⟨rfl, rfl, rfl⟩

theorem uartRxByte_completes {k : Fin 2} {v : Byte} {s : State} (hup : fabricUp s = true) (hen : rdb s (uartKey k 0x040) 0 = true)
    (hroom : (uart s k).rx.length < 16) (halt : pinAlt s (17 + 4 * k) = true) :
    ∃ t, exec (.uartRxByte k v false false) s = .next t ∧ (uart t k).rx = (uart s k).rx ++ [wNat (v.toNat + 256)] ∧
      rdb t (rk .uart k 0x010) 0 = true := by
  have hraw : ¬ rk .uart k 0x010 = rk .evr 0 0x050 := fun h => (uartKey_pinsFree k (off := 0x010) (by decide)).2 (.inr h)
  have hexec : exec (.uartRxByte k v false false) s = .next (raise .uart k 0 (drivePins
      (setUart k { uart s k with rx := (uart s k).rx ++ [wNat (v.toNat + 256)] } s))) := by
    refine congrArg Host.Outcome.next ?_
    dsimp only
    rw [if_neg (by rw [hup, ← rdb, hen, halt]; decide), if_neg (by omega)]
    rfl
  refine ⟨_, hexec, ?_, rdb_raise _ _ _ _ (by decide) hraw⟩
  rw [uart_raise, uart_drivePins, uart_setUart_same]

theorem uartTxByteDone_completes {k : Fin 2} {b : Byte} {a : Nat} {s : State} (hup : fabricUp s = true)
    (hdue : (uart s k).due = some a) (htx : (uart s k).tx = [b]) :
    ∃ t, exec (.uartTxByteDone k) s = .next t ∧ a ≤ t.now ∧ (uart t k).tx = [] ∧ (uart t k).wire = b ∧
      rdb t (rk .uart k 0x010) 1 = true := by
  have hraw : ¬ rk .uart k 0x010 = rk .evr 0 0x050 := fun h => (uartKey_pinsFree k (off := 0x010) (by decide)).2 (.inr h)
  have hexec : exec (.uartTxByteDone k) s = .next (drivePins (raise .uart k 1
      (setUart k { uart (upto a s) k with tx := [], due := none, wire := b } (upto a s)))) := by
    refine congrArg Host.Outcome.next ?_
    rw [hdue, htx]
    exact if_neg (by simp [hup])
  refine ⟨_, hexec, ?_⟩
  rw [drivePins_now, raise_now, uart_drivePins, uart_raise, uart_setUart_same,
    rdb_drivePins (j := rk .uart k 0x010) (uartKey_pinsFree k (by decide))]
  exact ⟨le_upto_now _ _, rfl, rfl, rdb_raise _ _ _ _ (by decide) hraw⟩

/-- Settles O39: pins, I2C actions, SPI and UART bytes. -/
theorem serialPortsComplete : Obligations.SerialPortsComplete := by
  unfold Obligations.SerialPortsComplete
  refine ⟨fun _ _ _ => gpioEdge_completes, fun _ _ _ => gpioSet_completes, fun _ _ _ => gpioClr_completes,
    fun _ _ _ h he hf => i2cCmd_completes h he hf rfl (by decide),
    fun _ _ _ h he hf => i2cCmd_completes h he hf rfl (by decide),
    fun _ _ _ h he hf => i2cCmd_completes h he hf rfl (by decide),
    fun _ _ ack _ h he hf => i2cCmd_completes h he hf rfl (by cases ack <;> decide),
    fun _ _ _ _ _ h => i2cReadDone_completes h, fun _ _ _ h => i2cWriteNacked_completes h,
    fun _ _ _ _ _ _ _ h => i2cDoneOff_completes h, fun _ _ h => i2cTimeout_completes h, fun _ _ _ _ => spiTxdata_completes,
    fun _ _ _ _ _ => spiRxdata_completes, fun _ _ _ _ _ h hd ht hr ha => spiByteDone_completes h hd ht hr ha,
    fun _ _ _ _ _ h hd ht hr ha => spiByteDoneFree_completes h hd ht hr ha, fun _ _ _ _ => uartTx_completes,
    fun _ _ _ _ _ => uartRx_completes, fun _ _ _ => uartRxByte_completes, fun _ _ _ _ => uartTxByteDone_completes⟩

end Sys2Proof.Machine
end

section
/-! Ethernet (R592 to R595): ring tails, frames through descriptors, and management frames. -/

set_option Elab.async false

namespace Sys2Proof.Machine

/-- The registers of a MAC lie apart from those that an occurrence or a check of SRAM writes. -/
theorem ethKey_apart (e : Fin 2) {off : Nat} (h : off < 0x1000) : ¬ mergeKey (ethKey e off) ∧ ethKey e off ≠ rk .pmc 0 0x010 ∧
    ethKey e off ≠ pmcKey 0x058 ∧ ethKey e off ≠ pmcKey 0x05C := by
  simp only [mergeKey, ethKey, pmcKey, rk, pageFirst]
  omega

theorem ethKey_ne {e a b : Nat} (h : a ≠ b) : ethKey e a ≠ ethKey e b := fun he => h (rk_inj.mp he)

/-- A cause of a MAC leaves its other registers. -/
theorem rd_raise_eth (e : Fin 2) {off : Nat} (h : off < 0x1000) (hne : off ≠ 0x010) (k : Nat) (s : State) :
    rd (raise .eth e k s) (ethKey e off) = rd s (ethKey e off) :=
  rd_raise s (ethKey_ne hne) (ethKey_apart e h).1

theorem rdb_raise_eth (e : Fin 2) {k : Nat} (hk : k < 32) (s : State) : rdb (raise .eth e k s) (rk .eth e 0x010) k = true :=
  rdb_raise _ _ _ _ hk fun h => (ethKey_apart e (off := 0x010) (by decide)).1 (.inr h)

/-! Tails (R593) -/

/-- Every bit of a tail is written. -/
theorem regRow_ethTail : ∀ e : Fin 2, (regRow (ethKey e 0x058)).map (·.wmask) = some 0xFFFFFFFF ∧
    (regRow (ethKey e 0x068)).map (·.wmask) = some 0xFFFFFFFF := by
  decide +kernel

theorem writeEth_tail {e off : Nat} (h : off = 0x058 ∨ off = 0x068)
    (hmask : (regRow (ethKey e off)).map (·.wmask) = some 0xFFFFFFFF) (v : Word) (s : State) :
    writeEth e off v s = wr (ethKey e off) v s := by
  obtain ⟨r, hr, hw⟩ := Option.map_eq_some_iff.mp hmask
  have hones : wNat 0xFFFFFFFF = BitVec.allOnes 32 := by decide
  unfold writeEth
  dsimp only
  rw [if_neg (by omega), if_neg (by omega), if_neg (by omega), hr]
  dsimp only
  rw [hw, if_neg (by decide), hones, BitVec.and_allOnes]

theorem ethTxTail_completes {m : Master} {e : Fin 2} {v : Word} {s : State} (h : reaches s m .eth 0x058 = true) :
    ∃ t, exec (.ethTxTail m e v) s = .next t ∧ rd t (ethKey e 0x058) = v := by
  refine ⟨_, congrArg Host.Outcome.next (byBus_reaches h), ?_⟩
  rw [rd_busCycle, writeEth_tail (.inl rfl) (regRow_ethTail e).1, rd_wr_same]

theorem ethRxTail_completes {m : Master} {e : Fin 2} {v : Word} {s : State} (h : reaches s m .eth 0x068 = true) :
    ∃ t, exec (.ethRxTail m e v) s = .next t ∧ rd t (ethKey e 0x068) = v := by
  refine ⟨_, congrArg Host.Outcome.next (byBus_reaches h), ?_⟩
  rw [rd_busCycle, writeEth_tail (.inr rfl) (regRow_ethTail e).2, rd_wr_same]

/-! Frames (R593) -/

/-- The registers of a MAC are the same in two states. -/
def EthSame (e : Nat) (s t : State) : Prop := ∀ off < 0x1000, rd t (ethKey e off) = rd s (ethKey e off)

theorem EthSame.trans {e : Nat} {s t u : State} (h : EthSame e s t) (h' : EthSame e t u) : EthSame e s u :=
  fun off ho => (h' off ho).trans (h off ho)

theorem ringLen_congr {e base : Nat} {s t : State} (h : rd t (ethKey e (base + 4)) = rd s (ethKey e (base + 4))) :
    ringLen t e base = ringLen s e base := by rw [ringLen, ringLen, h]

theorem ringLen_bounds (s : State) (e base : Nat) : 4 ≤ ringLen s e base ∧ ringLen s e base ≤ 256 := by
  unfold ringLen
  omega

theorem sramCheck_ethSame (e : Fin 2) (a n : Nat) (s : State) : EthSame e s (sramCheck a n s) := fun off ho => by
  obtain ⟨hmerge, hraw, hcnt, hplace⟩ := ethKey_apart e ho
  unfold sramCheck
  refine forEach_mem_keeps (π := fun u => rd u (ethKey e off)) (fun w _ u => ?_) s
  rw [raisePmc, rd_raise _ hraw hmerge, rd_wr_ne _ _ hplace]
  exact rd_wr_ne _ _ hcnt

theorem regs_ethSame {e : Nat} {s t : State} (h : t.regs = s.regs) : EthSame e s t := fun off _ => by rw [rd, rd, h]

theorem frameStamp_regs (e t : Nat) (s : State) : (frameStamp e t s).2.regs = s.regs :=
  Part.same_of_op (p := .regs) (m := 2) (by decide) (fun h => frameStamp_stays h e t) s

theorem sramWrite_regs (a : Nat) (bytes : List Byte) (s : State) : (sramWrite a bytes s).regs = s.regs :=
  Part.same_of_op (p := .regs) (m := 70368744177728) (by decide) (fun h => sramWrite_stays h a bytes) s

theorem rd_descDone (e base a : Nat) (err : Bool) (stamp : Option Nat) (s : State) (j : Nat) :
    rd (descDone e base a err stamp s) j =
      if j = ethKey e (base + 12) then wNat ((ringHead s e base + 1) % ringLen s e base) else rd s j := by
  have hput : ∀ w : State, w.regs = s.regs → rd (wr (ethKey e (base + 12)) (wNat ((ringHead w e base + 1) % ringLen w e base)) w) j =
      if j = ethKey e (base + 12) then wNat ((ringHead s e base + 1) % ringLen s e base) else rd s j := fun w hw => by
    have hrd : ∀ k, rd w k = rd s k := fun k => by rw [rd, rd, hw]
    split
    next h => rw [h, rd_wr_same, ringHead, ringLen, hrd, hrd, ringHead, ringLen]
    next h => rw [rd_wr_ne _ _ h, hrd]
  exact hput _ (sramWrite_regs _ _ _)

/-- A frame has passed through the descriptor at HEAD, and was counted. -/
theorem frameDone_leaves {e : Fin 2} {base c k a : Nat} {err : Bool} {stamp : Option Nat} {s u v : State} (hsame : EthSame e s u)
    (hbase : base = 0x050 ∨ base = 0x060) (hc : 0x078 ≤ c ∧ c < 0x1000) (hv : v.regs = (descDone e base a err stamp u).regs) :
    ringHead (raise .eth e k (countFrame e c v)) e base = (ringHead s e base + 1) % ringLen s e base ∧
      rd (raise .eth e k (countFrame e c v)) (ethKey e c) = rd s (ethKey e c) + 1 ∧
      ∀ off, 0x070 ≤ off → off < 0x1000 → off ≠ c →
        rd (raise .eth e k (countFrame e c v)) (ethKey e off) = rd s (ethKey e off) := by
  have hrdv : ∀ j, rd v j = rd (descDone e base a err stamp u) j := fun j => by rw [rd, rd, hv]
  have hother : ∀ off, off < 0x1000 → off ≠ 0x010 → off ≠ c → off ≠ base + 12 →
      rd (raise .eth e k (countFrame e c v)) (ethKey e off) = rd s (ethKey e off) := fun off ho hraw hnc hnb => by
    rw [rd_raise_eth e ho hraw, countFrame, rd_wr_ne _ _ (ethKey_ne hnc), hrdv, rd_descDone, if_neg (ethKey_ne hnb), hsame off ho]
  have hlen : ringLen (raise .eth e k (countFrame e c v)) e base = ringLen s e base :=
    ringLen_congr (hother _ (by omega) (by omega) (by omega) (by omega))
  have hhead : rd (raise .eth e k (countFrame e c v)) (ethKey e (base + 12)) =
      wNat ((ringHead s e base + 1) % ringLen s e base) := by
    have hu : ringHead u e base = ringHead s e base ∧ ringLen u e base = ringLen s e base := by
      rw [ringHead, ringHead, ringLen, ringLen, hsame _ (by omega), hsame _ (by omega)]
      exact ⟨rfl, rfl⟩
    rw [rd_raise_eth e (by omega) (by omega), countFrame, rd_wr_ne _ _ (ethKey_ne (by omega)), hrdv, rd_descDone, if_pos rfl, hu.1, hu.2]
  obtain ⟨hpos, hmax⟩ := ringLen_bounds s e base
  have hlt := Nat.mod_lt (ringHead s e base + 1) (show 0 < ringLen s e base by omega)
  refine ⟨?_, ?_, fun off hlo hhi hne => hother off hhi (by omega) hne (by omega)⟩
  · rw [ringHead, hlen, hhead, wNat, BitVec.toNat_ofNat, Nat.mod_eq_of_lt (a := (ringHead s e base + 1) % ringLen s e base) (by omega),
      Nat.mod_eq_of_lt hlt]
  · rw [rd_raise_eth e hc.2 (by omega), countFrame, rd_wr_same, hrdv, rd_descDone, if_neg (ethKey_ne (by omega)), hsame c hc.2]

/-- What the sending of a frame leaves: the frame on the line, and its descriptor completed. -/
theorem txDone_completes {e : Fin 2} {sfd : Nat} {bs : List Byte} {s : State} (hworks : ethWorks s e = true)
    (hen : rdb s (ethKey e 0x040) 3 = true) (hready : descReady s e 0x050 = true)
    (hbs : bs = memBytes s (descBuf s (descAddr s e 0x050 (ringHead s e 0x050)))
      (leNat (memBytes s (descAddr s e 0x050 (ringHead s e 0x050) + 4) 2)))
    (hmax : (ethFrame bs).length ≤ frameMax s e) :
    ∃ t, exec (.txDone e false sfd) s = .next t ∧
      ringHead t e 0x050 = (ringHead s e 0x050 + 1) % ringLen s e 0x050 ∧ smGet (smConst []) t.gio.sent e = ethFrame bs ∧
      rd t (ethKey e 0x080) = rd s (ethKey e 0x080) + 1 ∧ rdb t (rk .eth e 0x010) 0 = true := by
  refine ⟨_, congrArg Host.Outcome.next (if_neg (by simp [hworks, hen, hready])), ?_⟩
  extract_lets a len frame err u v
  have hframe : frame = ethFrame bs := by rw [hbs]
  have herr : err = false := by
    unfold err
    rw [Bool.false_or, hframe]
    exact decide_eq_false (Nat.not_lt.mpr hmax)
  have hu : EthSame e s u := sramCheck_ethSame e _ _ s
  have hv : EthSame e u v := by
    unfold v
    split <;> exact regs_ethSame rfl
  have hstamp : EthSame e s (frameStamp e (v.now - sfd) v).2 := (hu.trans hv).trans (regs_ethSame (frameStamp_regs _ _ _))
  generalize frameStamp e (v.now - sfd) v = x at hstamp
  dsimp only
  rw [herr, if_neg Bool.false_ne_true]
  obtain ⟨hhead, hcount, _⟩ := frameDone_leaves (k := 0) (c := 0x080) (a := a) (err := false) (stamp := x.1)
    (v := onGio (fun g => { g with sent := smSet (smConst []) g.sent e frame }) (descDone e 0x050 a false x.1 x.2))
    hstamp (.inl rfl) (by decide) rfl
  refine ⟨hhead, ?_, hcount, rdb_raise_eth e (by decide) _⟩
  rw [raise_gio, ← hframe]
  exact smGet_smSet_same _ _ _ _

/-- The instant at which a frame has come in is kept. -/
def frameEnd (e : Nat) (s : State) : State :=
  let now := s.now
  onGio (fun g => { g with rxEnd := smSet (smConst 0) g.rxEnd e now }) s

/-- A frame that has come in is lost, or stored in the buffer of the descriptor at HEAD (R593). -/
def takeFrame (e : Nat) (frame : List Byte) (err : Bool) (sfd : Nat) (s : State) : State :=
  if !(descReady s e 0x060) then raise .eth e 2 (wrb (ethKey e 0x04C) 1 true (countFrame e 0x084 s))
  else
    let a := descAddr s e 0x060 (ringHead s e 0x060)
    let err := err || frameBad s e frame
    let bs := (frame.take (frame.length - 4)).take (frameMax s e)
    let s := sramWrite (a + 4) (leBytes 2 bs.length) (sramWrite (descBuf s a) bs s)
    let (st, s) := frameStamp e (s.now - sfd) s
    let s := descDone e 0x060 a err st s
    raise .eth e 1 (countFrame e (if err then 0x07C else 0x078) s)

theorem exec_rxDone (e : Fin 2) (frame : List Byte) (err : Bool) (sfd : Nat) (s : State) :
    exec (.rxDone e frame err sfd) s = .next (
      let u := if ethWorks s e then frameEnd e s else s
      if !(ethWorks u e) || !(rdb u (ethKey e 0x040) 4) || !(addrTaken u e frame) then u else takeFrame e frame err sfd u) := rfl

section Receive

variable {e : Fin 2} {frame : List Byte} {err : Bool} {sfd : Nat} {s : State} (hworks : ethWorks s e = true)
  (hen : rdb s (ethKey e 0x040) 4 = true) (haddr : addrTaken s e frame = true)
include hworks hen haddr

/-- A frame for this MAC is taken in, the instant of its end kept. -/
theorem exec_rxDone_taken : exec (.rxDone e frame err sfd) s = .next (takeFrame e frame err sfd (frameEnd e s)) := by
  have hmiss : ¬ (!(ethWorks (frameEnd e s) e) || !(rdb (frameEnd e s) (ethKey e 0x040) 4) ||
      !(addrTaken (frameEnd e s) e frame)) = true := by
    have h : (ethWorks (frameEnd e s) e, rdb (frameEnd e s) (ethKey e 0x040) 4, addrTaken (frameEnd e s) e frame) =
        (ethWorks s e, rdb s (ethKey e 0x040) 4, addrTaken s e frame) := rfl
    rw [Prod.mk.injEq, Prod.mk.injEq] at h
    obtain ⟨h1, h2, h3⟩ := h
    rw [h1, h2, h3, hworks, hen, haddr]
    decide
  rw [exec_rxDone, if_pos hworks]
  exact congrArg Host.Outcome.next (if_neg hmiss)

omit hworks hen haddr in
/-- A frame stored where a descriptor is ready leaves the registers of the MAC as its completion and its count do. -/
theorem takeFrame_stores (hready : descReady s e 0x060 = true) :
    ∃ u a st, EthSame e s u ∧ takeFrame e frame err sfd s = raise .eth e 1
      (countFrame e (if (err || frameBad s e frame) = true then 0x07C else 0x078)
        (descDone e 0x060 a (err || frameBad s e frame) st u)) := by
  unfold takeFrame
  rw [hready, Bool.not_true, if_neg Bool.false_ne_true]
  extract_lets a bad bs w
  exact ⟨_, a, _, regs_ethSame ((frameStamp_regs e (w.now - sfd) w).trans ((sramWrite_regs _ _ _).trans (sramWrite_regs _ _ _))), rfl⟩

/-- A frame that finds a descriptor is counted by whether it is sound. -/
theorem rxDone_stores (hready : descReady s e 0x060 = true) :
    ∃ t c, exec (.rxDone e frame err sfd) s = .next t ∧ c = (if (err || frameBad s e frame) = true then 0x07C else 0x078) ∧
      ringHead t e 0x060 = (ringHead s e 0x060 + 1) % ringLen s e 0x060 ∧ rd t (ethKey e c) = rd s (ethKey e c) + 1 ∧
      (∀ off, 0x070 ≤ off → off < 0x1000 → off ≠ c → rd t (ethKey e off) = rd s (ethKey e off)) ∧
      rdb t (rk .eth e 0x010) 1 = true := by
  obtain ⟨u, a, st, hsame, htake⟩ := takeFrame_stores (e := e) (frame := frame) (err := err) (sfd := sfd) (s := frameEnd e s) hready
  have hbad : frameBad (frameEnd e s) e frame = frameBad s e frame := rfl
  rw [hbad] at htake
  obtain ⟨hhead, hcount, hother⟩ := frameDone_leaves (s := s) (k := 1) (a := a) (err := err || frameBad s e frame) (stamp := st)
    (c := if (err || frameBad s e frame) = true then 0x07C else 0x078) hsame (.inr rfl) (by split <;> decide) rfl
  exact ⟨_, _, (exec_rxDone_taken hworks hen haddr).trans (congrArg _ htake), rfl, hhead, hcount, hother,
    rdb_raise_eth e (by decide) _⟩

theorem rxSound_completes (hready : descReady s e 0x060 = true) (hgood : frameBad s e frame = false) :
    ∃ t, exec (.rxDone e frame false sfd) s = .next t ∧
      ringHead t e 0x060 = (ringHead s e 0x060 + 1) % ringLen s e 0x060 ∧
      rd t (ethKey e 0x078) = rd s (ethKey e 0x078) + 1 ∧ rdb t (rk .eth e 0x010) 1 = true := by
  obtain ⟨t, c, ht, hc, hhead, hcount, _, hraw⟩ := rxDone_stores (err := false) (sfd := sfd) hworks hen haddr hready
  rw [hgood, if_neg (by decide)] at hc
  subst hc
  exact ⟨t, ht, hhead, hcount, hraw⟩

theorem rxBad_completes (hready : descReady s e 0x060 = true) (hbad : (err || frameBad s e frame) = true) :
    ∃ t, exec (.rxDone e frame err sfd) s = .next t ∧
      ringHead t e 0x060 = (ringHead s e 0x060 + 1) % ringLen s e 0x060 ∧
      rd t (ethKey e 0x07C) = rd s (ethKey e 0x07C) + 1 ∧ rd t (ethKey e 0x078) = rd s (ethKey e 0x078) := by
  obtain ⟨t, c, ht, hc, hhead, hcount, hother, _⟩ := rxDone_stores (err := err) (sfd := sfd) hworks hen haddr hready
  rw [if_pos hbad] at hc
  subst hc
  exact ⟨t, ht, hhead, hcount, hother 0x078 (by decide) (by decide) (by decide)⟩

/-- A frame that finds no descriptor is lost. -/
theorem rxLost_completes (hready : descReady s e 0x060 = false) :
    ∃ t, exec (.rxDone e frame err sfd) s = .next t ∧ t.mem = s.mem ∧ rdb t (ethKey e 0x04C) 1 = true ∧
      rd t (ethKey e 0x084) = rd s (ethKey e 0x084) + 1 ∧ rdb t (rk .eth e 0x010) 2 = true := by
  have htake : takeFrame e frame err sfd (frameEnd e s) =
      raise .eth e 2 (wrb (ethKey e 0x04C) 1 true (countFrame e 0x084 (frameEnd e s))) := by
    have hfree : descReady (frameEnd e s) e 0x060 = descReady s e 0x060 := rfl
    rw [takeFrame, hfree, hready]
    rfl
  refine ⟨_, (exec_rxDone_taken hworks hen haddr).trans (congrArg _ htake), ?_, ?_, ?_, rdb_raise_eth e (by decide) _⟩
  · rw [raise_mem]
    rfl
  · rw [rdb, rd_raise_eth e (by decide) (by decide), ← rdb, rdb_wrb_same _ _ _ _ (by decide)]
  · rw [rd_raise_eth e (by decide) (by decide), rd_wrb_ne _ _ _ (ethKey_ne (by decide)), countFrame, rd_wr_same]
    rfl

end Receive

/-! Management frames (R592, R595) -/

/-- The bits that a command of the management port keeps of what is written. -/
theorem mdioWord_mask (v : BitVec 11) : wNat (v.toNat + 2048) &&& 0x7FF#32 = wNat v.toNat := by
  refine BitVec.eq_of_toNat_eq ?_
  have hv := v.isLt
  rw [BitVec.toNat_and, wNat, wNat, BitVec.toNat_ofNat, BitVec.toNat_ofNat]
  have h := Nat.and_two_pow_sub_one_eq_mod ((v.toNat + 2048) % 2 ^ 32) 11
  rw [BitVec.toNat_ofNat]
  exact h.trans (by omega)

/-- The command and its GO bit in one word. -/
theorem mdioWord_fields {v : BitVec 11} {x : Word} (hlow : fld x 0 11 = 0) (hgo : bit x 11 = true) :
    bit (wNat v.toNat ||| x) 11 = true ∧ fld (wNat v.toNat ||| x) 0 11 = v.toNat := by
  have hv := v.isLt
  rw [fld, Nat.shiftRight_zero] at hlow
  rw [bit, BitVec.getLsbD_or, ← bit, ← bit, hgo, Bool.or_true, fld, Nat.shiftRight_zero, BitVec.toNat_or, Nat.or_mod_two_pow, hlow,
    Nat.or_zero, wNat, BitVec.toNat_ofNat]
  exact ⟨rfl, by omega⟩

theorem writeEth_mdio {e : Nat} {v : BitVec 11} {s : State} : writeEth e 0x070 (wNat (v.toNat + 2048)) s =
    let u := wr (ethKey e 0x070)
      (wNat v.toNat ||| (if !(rdb s (ethKey e 0x070) 11) then 0x800#32 else rd s (ethKey e 0x070) &&& 0x800#32)) s
    if !(rdb s (ethKey e 0x070) 11) then
      onGio (fun g => { g with mdio := smSet (smConst (0, 0)) g.mdio e (s.now, wNat v.toNat) }) u
    else u := by
  have hbit : bit (wNat (v.toNat + 2048)) 11 = true := by
    have hv := v.isLt
    rw [bit, wNat, BitVec.getLsbD_ofNat, decide_eq_true (by decide), Bool.true_and, Nat.testBit_eq_decide_div_mod_eq]
    exact decide_eq_true (by omega)
  unfold writeEth
  dsimp only
  rw [if_neg (by decide), if_neg (by decide), if_pos rfl, hbit, Bool.true_and, mdioWord_mask]

/-- A GO of a free port sends a frame from now on. -/
theorem writeEth_mdioGo {e : Nat} {v : BitVec 11} {s : State} (hidle : rdb s (ethKey e 0x070) 11 = false) :
    writeEth e 0x070 (wNat (v.toNat + 2048)) s =
      onGio (fun g => { g with mdio := smSet (smConst (0, 0)) g.mdio e (s.now, wNat v.toNat) })
        (wr (ethKey e 0x070) (wNat v.toNat ||| 0x800#32) s) := by
  rw [writeEth_mdio, hidle]
  rfl

/-- A GO of a busy port changes its fields alone. -/
theorem writeEth_mdioBusy {e : Nat} {v : BitVec 11} {s : State} (hbusy : rdb s (ethKey e 0x070) 11 = true) :
    writeEth e 0x070 (wNat (v.toNat + 2048)) s =
      wr (ethKey e 0x070) (wNat v.toNat ||| (rd s (ethKey e 0x070) &&& 0x800#32)) s := by
  rw [writeEth_mdio, hbusy]
  rfl

section Mdio

variable {m : Master} {e : Fin 2} {v : BitVec 11} {s : State} (h : reaches s m .eth 0x070 = true)
include h

/-- A write of the management port has its effect in a state with the same registers of the MAC. -/
theorem exec_mdioGo : exec (.mdioGo m e v) s =
    .next (busCycle (writeEth e 0x070 (wNat (v.toNat + 2048)) (countedWrite m .eth e 0x070 s))) ∧
    rd (countedWrite m .eth e 0x070 s) (ethKey e 0x070) = rd s (ethKey e 0x070) := by
  refine ⟨congrArg Host.Outcome.next (byBus_reaches h), rd_countedWrite_off ?_ _ _ _ _ _⟩
  simp only [countOff, ethKey, rk, pageFirst]
  omega

theorem mdioGo_completes (hidle : rdb s (ethKey e 0x070) 11 = false) :
    ∃ t, exec (.mdioGo m e v) s = .next t ∧ rdb t (ethKey e 0x070) 11 = true ∧ rdf t (ethKey e 0x070) 0 11 = v.toNat ∧
      smGet (smConst (0, 0)) t.gio.mdio e = (s.now, wNat v.toNat) := by
  obtain ⟨hexec, hrd⟩ := exec_mdioGo (e := e) (v := v) h
  refine ⟨_, hexec, ?_⟩
  obtain ⟨hgo, hword⟩ := mdioWord_fields (v := v) (x := 0x800#32) (by decide) (by decide)
  have honGio : ∀ f u, rd (onGio f u) (ethKey e 0x070) = rd u (ethKey e 0x070) := fun _ _ => rfl
  rw [writeEth_mdioGo (by rwa [rdb, hrd]), rdb, rdf, rd_busCycle, honGio, rd_wr_same, countedWrite_now]
  exact ⟨hgo, hword, smGet_smSet_same _ _ _ _⟩

theorem mdioGoBusy_completes (hbusy : rdb s (ethKey e 0x070) 11 = true) :
    ∃ t, exec (.mdioGo m e v) s = .next t ∧ rdb t (ethKey e 0x070) 11 = true ∧ rdf t (ethKey e 0x070) 0 11 = v.toNat ∧
      t.gio.mdio = s.gio.mdio := by
  obtain ⟨hexec, hrd⟩ := exec_mdioGo (e := e) (v := v) h
  refine ⟨_, hexec, ?_⟩
  have hlow : fld (rd s (ethKey e 0x070) &&& 0x800#32) 0 11 = 0 := by
    rw [fld, Nat.shiftRight_zero, BitVec.toNat_and, Nat.and_mod_two_pow, show (0x800#32).toNat % 2 ^ 11 = 0 by decide, Nat.and_zero]
  have hset : bit (rd s (ethKey e 0x070) &&& 0x800#32) 11 = true := by
    rw [bit, BitVec.getLsbD_and, ← bit, ← rdb, hbusy]
    decide
  obtain ⟨hgo, hword⟩ := mdioWord_fields (v := v) hlow hset
  rw [writeEth_mdioBusy (by rwa [rdb, hrd]), hrd, rdb, rdf, rd_busCycle, rd_wr_same]
  exact ⟨hgo, hword, congrArg Gio.mdio (pmcAccess_gio _ _ _ _ _)⟩

end Mdio

theorem mdioDone_completes {e : Fin 2} {v : BitVec 16} {f : Nat × Word} {s : State} (hlive : live s .eth = true)
    (hbusy : rdb s (ethKey e 0x070) 11 = true) (hf : f = smGet (smConst (0, 0)) s.gio.mdio e) :
    ∃ t, exec (.mdioDone e v) s = .next t ∧ rdb t (ethKey e 0x070) 11 = false ∧ rdb t (rk .eth e 0x010) 3 = true ∧
      f.1 + 1280000 ≤ t.now ∧ rd t (ethKey e 0x074) = (if bit f.2 10 then wNat v.toNat else rd s (ethKey e 0x074)) := by
  refine ⟨_, congrArg Host.Outcome.next (if_neg (by simp [hlive, hbusy])), ?_⟩
  extract_lets g u w
  have hw : w.now = u.now ∧ rd w (ethKey e 0x074) = (if bit f.2 10 then wNat v.toNat else rd s (ethKey e 0x074)) := by
    unfold w
    rw [hf]
    by_cases h : bit g.2 10 = true
    · rw [if_pos h, if_pos h, rd_wr_same]
      exact ⟨rfl, rfl⟩
    · rw [if_neg h, if_neg h]
      exact ⟨rfl, rfl⟩
  obtain ⟨hnow, hdata⟩ := hw
  refine ⟨?_, rdb_raise_eth e (by decide) _, ?_, ?_⟩
  · rw [rdb, rd_raise_eth e (by decide) (by decide), ← rdb, rdb_wrb_same _ _ _ _ (by decide)]
  · rw [raise_now, hf]
    exact hnow.symm ▸ le_upto_now _ _
  · rw [rd_raise_eth e (by decide) (by decide), rd_wrb_ne _ _ _ (ethKey_ne (by decide)), hdata]

/-- Settles O40: ring tails, frames that are sent, received and lost, and management frames. -/
theorem ethernetCompletes : Obligations.EthernetCompletes := by
  unfold Obligations.EthernetCompletes
  exact ⟨fun _ _ _ _ => ethTxTail_completes, fun _ _ _ _ => ethRxTail_completes,
    fun _ _ _ _ hw he hr _ hb hm => txDone_completes hw he hr hb hm, fun _ _ _ _ hw he ha hr _ hg => rxSound_completes hw he ha hr hg,
    fun _ _ _ _ _ hw he ha hr _ hb => rxBad_completes hw he ha hr hb, fun _ _ _ _ _ hw he ha hr => rxLost_completes hw he ha hr,
    fun _ _ _ _ h hi => mdioGo_completes h hi, fun _ _ _ _ h hb => mdioGoBusy_completes h hb,
    fun _ _ _ _ => mdioDone_completes⟩

end Sys2Proof.Machine
end
